-- ==== Sys2Proof/Word.lean ====
section
/-!
DEFINITION. The word and byte types of the block's registers and memory (R6, R14, 00_scope).
-/
namespace Sys2Proof

/-- A 32-bit register (R14). -/
abbrev Word := BitVec 32

/-- A byte of memory or of a payload (R6). -/
abbrev Byte := BitVec 8

end Sys2Proof
end

