-- ==== Sys2Proof/Syntax.lean ====
section
/-!
DEFINITION. The commands and happenings the block takes, one constructor of Instr per row of spec/opcode_table.json.
The table gives the rows no operands; the operands are the model's own reading of what the rule of each row needs from
outside the state (assumption log 12).
-/
namespace Sys2Proof

/-- The six register requesters of R341 (12_timebase). -/
inductive Requester where
  | spi
  | eth
  | cp0
  | cp1
  | cp2
  | cp3
  deriving DecidableEq, Repr, Inhabited

/-- The three time sources of R326 (12_timebase); TBU_STATUS.src codes 0, 1, 2. -/
inductive TimeSource where
  | reference
  | slowCrystal
  | rc
  deriving DecidableEq, Repr, Inhabited

/-- The Axiesis roles of R29 (01_architecture). -/
inductive Role where
  | radio
  | field
  | decision
  | host
  deriving DecidableEq, Repr, Inhabited

/-- The two synthesisers of R142 (05_radio). -/
inductive Synth where
  | sampling
  | lo
  deriving DecidableEq, Repr, Inhabited

/-- The sequencer's commands of R149 (05_radio). -/
inductive SeqOp where
  | up
  | down
  | idle
  | listenUhf
  | sendUhf
  | listenUwb
  | sendUwb
  | range
  | cal
  deriving DecidableEq, Repr, Inhabited

/-- A cipher descriptor, the 64 bytes of R249 (09_cipher_engine); `reserved` gathers every reserved bit and byte. -/
structure Desc where
  op : Nat := 0
  mode : Nat := 0
  keyLen : Nat := 0
  urgent : Bool := false
  seg : Nat := 3
  notify : Bool := false
  context : Nat := 0xFFFF
  slot : Nat := 0
  tagLen : Nat := 0
  identity : Nat := 0
  keyEpoch : Nat := 0
  role : Nat := 0
  purpose : Nat := 0
  aadLen : Nat := 0
  dataLen : Nat := 0
  src : Nat := 0
  dst : Nat := 0
  aad : Nat := 0
  tag : Nat := 0
  nonce : Nat := 0
  nonceLen : Nat := 0
  msgLen : Nat := 0
  seq : Nat := 0
  reserved : Nat := 0
  deriving DecidableEq, Repr, Inhabited


/-- What a resonance measurement of one LF channel reads (R75, 03_lf_field_array): the static output test of step 1; whether the
coil rings and whether current is present, f0 in Hz and Q in 0.1 of step 3; and of step 4 the conduction angle or duty settled
at, as the part of full conduction (180 degrees, or 50 %) in 1/10,000, VLF in mV, and the measured peak current in 10 uA. -/
structure CoilReading where
  heldLow : Bool := false
  heldHigh : Bool := false
  rings : Bool := true
  current : Bool := true
  f0 : Nat := 125000
  q : Nat := 200
  drive : Nat := 112
  vlf : Nat := 24000
  ipk : Nat := 20000
  deriving DecidableEq, Repr, Inhabited

/-- A channel impulse response (R133, 05_radio): 1,024 taps, I and Q of each. -/
abbrev Cir := List (Int × Int)

/-- What the correlator forms from one received UWB frame (R133, 05_radio): the timebase value of tap 0 in 1/256 ns, the LNA gain
steps in dB that the gain control set in the preamble (R131), the SYNC and STS responses of the chains, and for a RESPONSE the four sub-responses of 16 STS units of each chain (R201,
07_distance_bounding). -/
structure Reception where
  tap0 : Nat := 0
  gainA : Nat := 0
  gainB : Nat := 0
  syncA : Cir := []
  syncB : Cir := []
  stsA : Cir := []
  stsB : Cir := []
  subA : List Cir := []
  subB : List Cir := []
  deriving DecidableEq, Repr, Inhabited

/-- What a boot finds outside the block (R507, R540, R567): the pairs whose self-test passes, the cipher self-test, whether the
booted firmware never reaches readiness, the inputs at their tamper level, the mesh check, and TEST_EN. -/
structure BootReport where
  pairOk : List Bool := [true, true, true, true]
  cipherOk : Bool := true
  stalls : Bool := false
  tmp : List Bool := [false, false, false, false]
  meshFails : Bool := false
  testEn : Bool := false
  deriving DecidableEq, Repr, Inhabited

/-- What an MRAM line holds (R395, R509): a copy of a partner record by table index, the one at the lower address or not (R42),
an attachment counter, the alarm stamps, a root slot, the energy counters and balance, a firmware or Meton bank, or a Moraine
entry by seq. -/
inductive MramLine where
  | record (index : Nat) (lower : Bool)
  | attach (point : Nat)
  | stamps
  | slot (slot : Nat)
  | counters
  | firmware (bank : Nat)
  | meton (bank : Nat)
  | moraine (seq : Nat)
  deriving DecidableEq, Repr, Inhabited

/-- The commands and happenings of spec/opcode_table.json, one constructor per row; each docstring names the row, the rule it cites and what the operands carry. The rows with operands stand first, in the table's order, then the others, so that Lean's compiler has a tag for each. -/
inductive Instr where
  /-- RST_N_ASSERTED (R11). lowNs: how long RST_N has been low, in ns. -/
  | rstNAsserted (lowNs : Nat)
  /-- RESET_RELEASE (R540). report: what the boot finds. -/
  | resetRelease (report : BootReport)
  /-- BOOT_SELF_TEST_RETRY (R507). report: what the repeated self-tests and the boot after them find. -/
  | bootSelfTestRetry (report : BootReport)
  /-- BOOT_MONITOR_EXPIRY (R541). report: what the restarted boot finds. -/
  | bootMonitorExpiry (report : BootReport)
  /-- VRES_MEASUREMENT (R501). mv: the voltage measured. -/
  | vresMeasurement (mv : Nat)
  /-- FEED_DELIVERING_CHANGE (R473). feed: 0 A, 1 B; on: it starts to deliver. -/
  | feedDeliveringChange (feed : Nat) (on : Bool)
  /-- FEED_OV (R472). feed: 0 A, 1 B; on: it rises above 62 V, or falls back. -/
  | feedOv (feed : Nat) (on : Bool)
  /-- SCCP_CLASSIFICATION (R469). feed: 0 A, 1 B. -/
  | sccpClassification (feed : Nat)
  /-- SCCP_CLASS_WRITE (R470). feed: 0 A, 1 B; cls: class 0 to 15. -/
  | sccpClassWrite (feed cls : Nat)
  /-- TEMPO_GOVERNOR_UPDATE (R36). tempos: PD1 to PD13 in handshakes per µs; demand: the highest that a role declares. -/
  | tempoGovernorUpdate (tempos : List Nat) (demand : Nat)
  /-- REFERENCE_FAILED (R328). edgeAge: ns from the stamp of the previous edge of the source fallen back to, up to the count in force (R327). -/
  | referenceFailed (edgeAge : Nat)
  /-- SLOW_CRYSTAL_FAILED (R328). edgeAge: as for REFERENCE_FAILED. -/
  | slowCrystalFailed (edgeAge : Nat)
  /-- SOURCE_QUALIFIED (R328). src: the source whose qualification interval ended. -/
  | sourceQualified (src : TimeSource)
  /-- TRIM_WINDOW_END (R329). d: the TB_NS:F difference D over the window in 2^-40 ns; temp: the die temperature in 0.1 C. -/
  | trimWindowEnd (d : Nat) (temp : Int)
  /-- TEMPERATURE_SAMPLE (R330). temp: the die temperature in 0.1 C. -/
  | temperatureSample (temp : Int)
  /-- COUNTER_OUTVOTED (R325). lane: the counter that disagrees, 0 to 2; value: what it held, TB_NS:F in 2^-40 ns. -/
  | counterOutvoted (lane : Nat) (value : Nat)
  /-- TIMESTAMP_EXTENSION_COMPARE (R27). off: the extension less the TBU, 1/256 ns. -/
  | timestampExtensionCompare (off : Int)
  /-- GPTP_FOREIGN_FRAME (R338). kind: 0 Announce, 1 Sync, 2 Follow_Up. -/
  | gptpForeignFrame (kind : Nat)
  /-- PDELAY_REQ (R467). port: 0, 1 for T1A, T1B; 2 to 5 for S0 to S3. -/
  | pdelayReq (port : Nat)
  /-- TBU_NS_LO_READ (R341). req: the reader. -/
  | tbuNsLoRead (req : Requester)
  /-- TBU_UACC_LO_READ (R341). req: the reader. -/
  | tbuUaccLoRead (req : Requester)
  /-- REGISTER_WRITE (R14). req: the requester; addr: the byte address in the host map; w: the word written. -/
  | registerWrite (req : Requester) (addr : Nat) (w : Word)
  /-- TIMER_TICK (R348). timer: 0 to 7. -/
  | timerTick (timer : Nat)
  /-- TIMER_WRAP (R349). timer: 0 to 7. -/
  | timerWrap (timer : Nat)
  /-- COMPARE_FIRE (R355). timer: 0 to 7; unit: 0 for CMP0, 1 for CMP1. -/
  | compareFire (timer : Nat) (unit : Nat)
  /-- TMRN_CTRL_WRITE (R353). timer: 0 to 7; w: the word written. -/
  | tmrnCtrlWrite (timer : Nat) (w : Word)
  /-- SWTRIG (R351). timer: 0 to 7. -/
  | swtrig (timer : Nat)
  /-- TMRN_CNT_WRITE (R350). timer: 0 to 7; w: the count written. -/
  | tmrnCntWrite (timer : Nat) (w : Word)
  /-- TMRN_CMP_WRITE (R355). timer: 0 to 7; unit: 0 or 1; w: the value written. -/
  | tmrnCmpWrite (timer : Nat) (unit : Nat) (w : Word)
  /-- TMRN_CAP_READ (R357). req: the reader; timer: 0 to 7. -/
  | tmrnCapRead (req : Requester) (timer : Nat)
  /-- ALMM_LO_WRITE (R358). req: the writer; alarm: 0 to 3; w: the word written. -/
  | almmLoWrite (req : Requester) (alarm : Nat) (w : Word)
  /-- ALMM_LO_READ (R358). req: the reader; alarm: 0 to 3. -/
  | almmLoRead (req : Requester) (alarm : Nat)
  /-- ALARM_FIRE (R359). alarm: 0 to 3. -/
  | alarmFire (alarm : Nat)
  /-- ALARM_DISARM (R369). alarm: 0 to 3. -/
  | alarmDisarm (alarm : Nat)
  /-- PIN_PULSE_END (R361). pin: 0 to 3. -/
  | pinPulseEnd (pin : Nat)
  /-- CAP_EDGE (R363). pin: 0 to 3; rising: the edge's direction. -/
  | capEdge (pin : Nat) (rising : Bool)
  /-- CAPN_LO_READ (R365). req: the reader; pin: 0 to 3. -/
  | capnLoRead (req : Requester) (pin : Nat)
  /-- CAP_FLUSH (R371). pin: 0 to 3. -/
  | capFlush (pin : Nat)
  /-- EVENT_OCCURRENCE (R375). group and src: the source's group, 0 to 15, and its number in it. -/
  | eventOccurrence (group : Nat) (src : Nat)
  /-- BATCH_DUE_TIME (R378). group: 0 to 15. -/
  | batchDueTime (group : Nat)
  /-- EVC_CLAIM_WRITE (R382). target: index j of the host target; w: the word written. -/
  | evcClaimWrite (target : Nat) (w : Word)
  /-- EVC_DLV_READ (R382). req: the reader; target: index j. -/
  | evcDlvRead (req : Requester) (target : Nat)
  /-- RETRACTION (R383). target: index j of the host target. -/
  | retraction (target : Nat)
  /-- WAKE_OUT_PULSE (R384). group: the due batch's group. -/
  | wakeOutPulse (group : Nat)
  /-- EVC_SWSET_WRITE (R391). w: the word written. -/
  | evcSwsetWrite (w : Word)
  /-- PSC_HOST_SLEEP_WRITE (R386). w: the word written. -/
  | pscHostSleepWrite (w : Word)
  /-- TRANSLATION_FAULT (R401). requester: code of R405; sub, access, descRef and bytesDone as R404 records them; vaddr: the faulting address; holdable: the page is the destination of an authenticated decrypt. -/
  | translationFault (requester sub access : Nat) (vaddr : Word) (descRef bytesDone : Nat) (holdable : Bool)
  /-- FAULT_RESTART (R406). requester: code of R405; l1, l2: the table entries that the role writes for the faulting page. -/
  | faultRestart (requester : Nat) (l1 l2 : Word)
  /-- FAULT_ABORT (R406). requester: code of R405. -/
  | faultAbort (requester : Nat)
  /-- TRANSLATION_INVALIDATION (R400). req: requester code of R405; page: the virtual page, or none for the whole context. -/
  | translationInvalidation (req : Nat) (page : Option Nat)
  /-- DEADLINE_FLAG (R415). writer: false RF capture, true impulse-response writer; full: true when the buffer passes three quarters full, false when it has emptied. -/
  | deadlineFlag (writer full : Bool)
  /-- ARBITRATION_ROUND (R413). requests: bit k is requester code k with a request outstanding. -/
  | arbitrationRound (requests : BitVec 20)
  /-- HBW_WIN_CFG_WRITE (R409). window: 0 to 15; w: the word written. -/
  | hbwWinCfgWrite (window : Nat) (w : Word)
  /-- APERTURE_ACCESS (R411). off: the aperture offset; w: the word written, none for a read. -/
  | apertureAccess (off : Nat) (w : Option Word)
  /-- UNCORRECTABLE_WORD (R508). addr: the SRAM address; requester: code of R405 of its consumer; sub and descRef: its channel or direction, and its descriptor. -/
  | uncorrectableWord (addr requester sub descRef : Nat)
  /-- MRAM_UNCORRECTABLE_LINE (R509). line: what the line holds; offset: its offset in MRAM; both: the second copy is uncorrectable too. -/
  | mramUncorrectableLine (line : MramLine) (offset : Nat) (both : Bool)
  /-- DIE_LINK_CRC_FAIL (R26). link: the die link; again: the repeat fails too; failed: its retraining fails. -/
  | dieLinkCrcFail (link : Nat) (again failed : Bool)
  /-- SPI_WRITE_FRAME (R420). bytes: the host's bytes from the opcode to the CRC. -/
  | spiWriteFrame (bytes : List Byte)
  /-- SPI_READ_FRAME (R421). bytes: the host's bytes from the opcode to the last wait byte. -/
  | spiReadFrame (bytes : List Byte)
  /-- SPI_WAKE_FRAME (R424). bytes: the host's bytes from the opcode to the CRC. -/
  | spiWakeFrame (bytes : List Byte)
  /-- MGMT_REQUEST (R426). port: 0 T1A, 1 T1B; protectedFrame: it came through the controlled port; srcAddr, srcPort: its sender; payload: its UDP payload. -/
  | mgmtRequest (port : Nat) (protectedFrame : Bool) (srcAddr srcPort : Nat) (payload : List Byte)
  /-- DOORBELL (R432). mb: mailbox 0 to 7. -/
  | doorbell (mb : Nat)
  /-- COMMAND_START (R433). role: the role that starts its next command. -/
  | commandStart (role : Role)
  /-- COMMAND_LIMIT (R434). mb: the mailbox whose limit has passed. -/
  | commandLimit (mb : Nat)
  /-- COMMAND_AREA_WRITE (R439). mb: mailbox; k: word 0 to 63; w: the word written. -/
  | commandAreaWrite (mb k : Nat) (w : Word)
  /-- MBN_RES0_READ (R435). mb: mailbox 0 to 7. -/
  | mbnRes0Read (mb : Nat)
  /-- MBX_ACK_WRITE (R436). w: the word written. -/
  | mbxAckWrite (w : Word)
  /-- SYS_INFO (R448). mb: the mailbox whose started command runs. -/
  | sysInfo (mb : Nat)
  /-- SYS_RESET (R449). mb: the mailbox whose admitted command takes effect. -/
  | sysReset (mb : Nat)
  /-- SYS_EVENT (R384). mb: the mailbox whose started command runs. -/
  | sysEvent (mb : Nat)
  /-- SYS_HEALTH (R513). mb: the mailbox whose started command runs. -/
  | sysHealth (mb : Nat)
  /-- CFG_LOAD (R532). mb: the mailbox whose started command runs. -/
  | cfgLoad (mb : Nat)
  /-- CFG_ACTIVATE (R532). mb: the mailbox whose started command runs. -/
  | cfgActivate (mb : Nat)
  /-- CFG_STATUS (R530). mb: the mailbox whose started command runs. -/
  | cfgStatus (mb : Nat)
  /-- CFG_SET (R535). mb: the mailbox whose started command runs. -/
  | cfgSet (mb : Nat)
  /-- CFG_GET (R573). mb: the mailbox whose started command runs. -/
  | cfgGet (mb : Nat)
  /-- PART_ENROL (R52). mb: the mailbox whose started command runs. -/
  | partEnrol (mb : Nat)
  /-- PART_ENROL_OPEN (R54). mb: the mailbox, 0 to 7. -/
  | partEnrolOpen (mb : Nat)
  /-- PART_GET (R63). mb: the mailbox, 0 to 7. -/
  | partGet (mb : Nat)
  /-- PART_LIST (R51). mb: the mailbox, 0 to 7. -/
  | partList (mb : Nat)
  /-- PART_SET (R56). mb: the mailbox, 0 to 7. -/
  | partSet (mb : Nat)
  /-- PART_ABSENT (R48). mb: the mailbox, 0 to 7. -/
  | partAbsent (mb : Nat)
  /-- PART_REMOVE (R48). mb: the mailbox, 0 to 7. -/
  | partRemove (mb : Nat)
  /-- PART_REKEY (R56). mb: the mailbox, 0 to 7. -/
  | partRekey (mb : Nat)
  /-- PART_UNLOCK (R67). mb: the mailbox, 0 to 7. -/
  | partUnlock (mb : Nat)
  /-- SESS_POLL (R165). mb: the mailbox whose started command runs. -/
  | sessPoll (mb : Nat)
  /-- SESS_STATUS (R188). mb: the mailbox whose started command runs. -/
  | sessStatus (mb : Nat)
  /-- SESS_LAST (R188). mb: the mailbox whose started command runs. -/
  | sessLast (mb : Nat)
  /-- RANGE_STATUS (R209). mb: the mailbox whose started command runs. -/
  | rangeStatus (mb : Nat)
  /-- RANGE_TEST (R451). mb: the mailbox whose started command runs. -/
  | rangeTest (mb : Nat)
  /-- LF_STATUS (R98). mb: the mailbox, 0 to 7. -/
  | lfStatus (mb : Nat)
  /-- LF_DIAG (R452). mb: the mailbox, 0 to 7. -/
  | lfDiag (mb : Nat)
  /-- LF_TUNE (R77). mb: the mailbox, 0 to 7. -/
  | lfTune (mb : Nat)
  /-- LF_PHASE (R452). mb: the mailbox, 0 to 7. -/
  | lfPhase (mb : Nat)
  /-- LF_POPULATION (R123). mb: the mailbox, 0 to 7. -/
  | lfPopulation (mb : Nat)
  /-- LF_POPCHECK (R128). mb: the mailbox, 0 to 7. -/
  | lfPopcheck (mb : Nat)
  /-- RF_STATUS (R161). mb: the mailbox whose started command runs. -/
  | rfStatus (mb : Nat)
  /-- RF_CAL (R161). mb: the mailbox whose started command runs. -/
  | rfCal (mb : Nat)
  /-- RF_TEST (R161). mb: the mailbox whose started command runs. -/
  | rfTest (mb : Nat)
  /-- RF_CAPTURE (R161). mb: the mailbox whose started command runs. -/
  | rfCapture (mb : Nat)
  /-- REL_CONSENT (R228). mb: the mailbox, 0 to 7. -/
  | relConsent (mb : Nat)
  /-- REL_REVOKE (R227). mb: the mailbox, 0 to 7. -/
  | relRevoke (mb : Nat)
  /-- REL_CANCEL (R227). mb: the mailbox, 0 to 7. -/
  | relCancel (mb : Nat)
  /-- REL_STATUS (R214). mb: the mailbox, 0 to 7. -/
  | relStatus (mb : Nat)
  /-- CRYPT_CHAN (R252). mb: the mailbox, 0 to 7. -/
  | cryptChan (mb : Nat)
  /-- CRYPT_SUBMIT (R453). mb: the mailbox, 0 to 7. -/
  | cryptSubmit (mb : Nat)
  /-- CRYPT_DONE (R453). mb: the mailbox, 0 to 7. -/
  | cryptDone (mb : Nat)
  /-- CRYPT_CTX_OPEN (R292). mb: the mailbox, 0 to 7. -/
  | cryptCtxOpen (mb : Nat)
  /-- CRYPT_CTX_CLOSE (R292). mb: the mailbox, 0 to 7. -/
  | cryptCtxClose (mb : Nat)
  /-- CRYPT_CTX_SAVE (R294). mb: the mailbox, 0 to 7. -/
  | cryptCtxSave (mb : Nat)
  /-- CRYPT_CTX_RESTORE (R296). mb: the mailbox, 0 to 7. -/
  | cryptCtxRestore (mb : Nat)
  /-- KEY_WRITE (R277). mb: the mailbox, 0 to 7. -/
  | keyWrite (mb : Nat)
  /-- KEY_ERASE (R286). mb: the mailbox, 0 to 7. -/
  | keyErase (mb : Nat)
  /-- KEY_INFO (R299). mb: the mailbox, 0 to 7. -/
  | keyInfo (mb : Nat)
  /-- KEY_REPROV_BEGIN (R280). mb: the mailbox, 0 to 7. -/
  | keyReprovBegin (mb : Nat)
  /-- KEY_REPROV_FINISH (R280). mb: the mailbox, 0 to 7. -/
  | keyReprovFinish (mb : Nat)
  /-- LEDG_ENERGY (R320). mb: the mailbox, 0 to 7. -/
  | ledgEnergy (mb : Nat)
  /-- LEDG_STATUS (R320). mb: the mailbox, 0 to 7. -/
  | ledgStatus (mb : Nat)
  /-- LEDG_EXPORT (R316). mb: the mailbox, 0 to 7. -/
  | ledgExport (mb : Nat)
  /-- LEDG_ACK (R316). mb: the mailbox, 0 to 7. -/
  | ledgAck (mb : Nat)
  /-- LEDG_CREDIT (R311). mb: the mailbox, 0 to 7. -/
  | ledgCredit (mb : Nat)
  /-- TIME_STATUS (R331). mb: the mailbox whose started command runs. -/
  | timeStatus (mb : Nat)
  /-- TIME_CIVIL (R335). mb: the mailbox whose started command runs. -/
  | timeCivil (mb : Nat)
  /-- PWR_STATUS (R483). mb: the mailbox whose command is carried out. -/
  | pwrStatus (mb : Nat)
  /-- PWR_SLEEP (R454). mb: the mailbox whose command is carried out. -/
  | pwrSleep (mb : Nat)
  /-- DIAG_TEMPO (R36). mb: the mailbox whose started command runs. -/
  | diagTempo (mb : Nat)
  /-- DIAG_FAULTS (R406). mb: the mailbox whose started command runs. -/
  | diagFaults (mb : Nat)
  /-- FW_WRITE (R537). mb: the mailbox whose started command runs. -/
  | fwWrite (mb : Nat)
  /-- FW_ACTIVATE (R539). mb: the mailbox whose started command runs. -/
  | fwActivate (mb : Nat)
  /-- FW_STATUS (R542). mb: the mailbox whose started command runs. -/
  | fwStatus (mb : Nat)
  /-- LF_BUDGET_RECOMPUTE (R90). pVint, pLft: the 1 ms averages of the VINT converter output power and of the half-bridges share of it, in mW (R478); bus: the bus in mV; hot and cool: channels whose bridge sensor reads above 130 C, or below 120 C. -/
  | lfBudgetRecompute (pVint pLft bus : Nat) (hot cool : BitVec 64)
  /-- BURST_REQUEST (R92). cls: 1 key wake, 2 population check, 3 resonance measurement; what: the wake configuration or the channel. -/
  | burstRequest (cls what : Nat)
  /-- BURST_END (R92). id: the burst; silent: channels in which no current flowed. -/
  | burstEnd (id : Nat) (silent : BitVec 64)
  /-- OVERCURRENT_TRIP (R73). c: channel index of R452. -/
  | overcurrentTrip (c : Nat)
  /-- LF_OVERDRAW (R100). pVlf, pLft: the VLF converter output power and the half-bridges share of VINT, in mW, over 1 ms (R478). -/
  | lfOverdraw (pVlf pLft : Nat)
  /-- RESONANCE_MEASUREMENT (R75). c: channel index; r: what the measurement found. -/
  | resonanceMeasurement (c : Nat) (r : CoilReading)
  /-- UPLINK_FRAME (R113). coil: LFT number 0 to 47; frame: the 64-bit payload and the CRC received, none after a Manchester violation. -/
  | uplinkFrame (coil : Nat) (frame : Option (Nat × Nat))
  /-- NO_ANSWER (R108). coil: LFT number 0 to 47. -/
  | noAnswer (coil : Nat)
  /-- PERIODIC_POLL (R165). config: the wake configuration, 0 to 7. -/
  | periodicPoll (config : Nat)
  /-- SLOT_ANSWER (R176). slot: 0 to 15; frame: length, payload and CRC as found after a sync word; none for preamble energy without a sync word. -/
  | slotAnswer (slot : Nat) (frame : Option (List Byte))
  /-- DERIVATION_COMPLETE (R283). slot: the response slot whose answer the session key is for. -/
  | derivationComplete (slot : Nat)
  /-- RESPONSE_FRAME (R183). frame: length, payload and CRC as received. -/
  | responseFrame (frame : List Byte)
  /-- RANGING_RESPONSE (R201). m: what the correlator forms from the frame. -/
  | rangingResponse (m : Reception)
  /-- REPORT (R202). m: what the correlator forms from the frame; payload: the PSDU less its FCS; none for a frame lost to its FCS. -/
  | reportFrame (m : Reception) (payload : Option (List Byte))
  /-- IDLE (R149). limit: TB_NS until which it is held (R151). -/
  | seqIdle (limit : Nat)
  /-- LISTEN_UHF (R149). region: code of the carrier (R136); limit: TB_NS until which it is held (R151). -/
  | seqListenUhf (region limit : Nat)
  /-- SEND_UHF (R149). payload: of the frame; rx: a frame is in reception. -/
  | seqSendUhf (payload : List Byte) (rx : Bool)
  /-- LISTEN_UWB (R149). channel: 5 or 9; limit: TB_NS until which it is held (R151); rx: a frame is in reception. -/
  | seqListenUwb (channel limit : Nat) (rx : Bool)
  /-- SEND_UWB (R149). due: the scheduled TB_NS, or none for at once; limit: TB_NS until which an unscheduled one is held; rx: a frame is in reception. -/
  | seqSendUwb (due : Option Nat) (limit : Nat) (rx : Bool)
  /-- RANGE (R145). set: antenna set; first: TB_NS of the first frame; limit: TB_NS until which it is held; temp: RF die temperature, 0.1 °C. -/
  | seqRange (set first limit : Nat) (temp : Int)
  /-- CAL (R149). limit: TB_NS until which it is held (R151). -/
  | seqCal (limit : Nat)
  /-- LOCK_QUALIFIED (R142). synth: the synthesiser. -/
  | lockQualified (synth : Synth)
  /-- LOCK_LOST (R143). synth: the synthesiser. -/
  | lockLost (synth : Synth)
  /-- CAL_STEP_END (R154). temp: RF die temperature, 0.1 °C. -/
  | calStepEnd (temp : Int)
  /-- UHF_FRAME_RECEIVED (R173). frame: length, payload and CRC as received. -/
  | uhfFrameReceived (frame : List Byte)
  /-- UWB_FRAME_RECEIVED (R133). m: what the correlator forms from the frame. -/
  | uwbFrameReceived (m : Reception)
  /-- BACKGROUND_SLICE (R156). kind: 0 offset, 1 gain, 2 skew, 3 reply path; dA, dB: loopback delays of a reply-path slice, 1/256 ns; temp: RF die temperature, 0.1 °C; rx: a packet is in reception. -/
  | backgroundSlice (kind dA dB : Nat) (temp : Int) (rx : Bool)
  /-- FORCED_SLICE (R157). as BACKGROUND_SLICE. -/
  | forcedSlice (kind dA dB : Nat) (temp : Int) (rx : Bool)
  /-- RECALIBRATION_DUE (R154). temp: RF die temperature, 0.1 °C. -/
  | recalibrationDue (temp : Int)
  /-- DESCRIPTOR_QUEUED (R249). chan: 8 to 15; d: the descriptor a role places. -/
  | descriptorQueued (chan : Nat) (d : Desc)
  /-- REQUEST_ADMISSION (R247). chan: 8 to 31. -/
  | requestAdmission (chan : Nat)
  /-- COMPLETION_RECORD (R251). chan: 8 to 31. -/
  | completionRecord (chan : Nat)
  /-- DATAPATH_MISMATCH (R258). chan: the channel whose block it is on the native pipeline, none on the iterated core; again: the recomputation disagrees too. -/
  | datapathMismatch (chan : Option Nat) (again : Bool)
  /-- ENGINE_SELF_TEST_END (R258). passed: the self-test passes. -/
  | engineSelfTestEnd (passed : Bool)
  /-- NONCE_MARK_ADVANCE_DONE (R288). slot: 0 to 15. -/
  | nonceMarkAdvanceDone (slot : Nat)
  /-- MACSEC_RX_FRAME (R257). port: 0, 1; frame: its bytes from the destination address to the ICV. -/
  | macsecRxFrame (port : Nat) (frame : List Byte)
  /-- MACSEC_TX_FRAME (R263). port: 0, 1; header: the destination and source addresses; data: the EtherType and what follows it. -/
  | macsecTxFrame (port : Nat) (header data : List Byte)
  /-- CMPW_START (R269). req: the writer; w: the word written, taken with start and without abort. -/
  | cmpwStart (req : Requester) (w : Word)
  /-- CMPW_ABORT (R269). req: the writer; w: the word written, taken with abort. -/
  | cmpwAbort (req : Requester) (w : Word)
  /-- CMPW_LOAD (R271). req: the writer; w: the word written, taken with load and without release. -/
  | cmpwLoad (req : Requester) (w : Word)
  /-- CMPW_RELEASE (R271). req: the writer; w: the word written, taken with release. -/
  | cmpwRelease (req : Requester) (w : Word)
  /-- METER_SAMPLE (R302). m0 to m3: the 256 bits captured at MDAT0 to MDAT3 in one sample period, bit 0 first. -/
  | meterSample (m0 m1 m2 m3 : BitVec 256)
  /-- INPUT_STUCK (R306). input: MDAT number 0 to 3. -/
  | inputStuck (input : Nat)
  /-- SSTL_EDGE (R226). b: false SSTL_A, true SSTL_B; level: the filtered level. -/
  | sstlEdge (b level : Bool)
  /-- READBACK_WINDOW_END (R219). fbS: level of PRM_FB_S through the window, none when it changed; dEdge: PRM_FB_D showed an edge; dRule: PRM_FB_D met the rule of R218. -/
  | readbackWindowEnd (fbS : Option Bool) (dEdge dRule : Bool)
  /-- LATCH_COMPLEMENT_TIMEOUT (R41). set: the command word that found no complement, true to set the latch. -/
  | latchComplementTimeout (set : Bool)
  /-- PERMISSION_OSCILLATOR_TRIM (R216). ppm: the measured error. -/
  | permissionOscillatorTrim (ppm : Int)
  /-- PAIR_DIVERGENCE (R30). pair: 0 to 3. -/
  | pairDivergence (pair : Nat)
  /-- PAIR_SELF_TEST_END (R506). pair: 0 to 3; passed: the self-test passes. -/
  | pairSelfTestEnd (pair : Nat) (passed : Bool)
  /-- ROLE_RETURN (R33). role: the role that returns. -/
  | roleReturn (role : Role)
  /-- PAIR_RETIREMENT_END (R506). pair: 0 to 3. -/
  | pairRetirementEnd (pair : Nat)
  /-- TAMPER_ASSERTION (R518). input: 0 to 3, TMP0 to TMP3. -/
  | tamperAssertion (input : Nat)
  /-- TAMPER_QUIET (R517). unit: 0 to 3 an input, 4 the mesh. -/
  | tamperQuiet (unit : Nat)
  /-- MESH_CHECK (R517). passes: MESH_S returned every bit of the word in time. -/
  | meshCheck (passes : Bool)
  /-- TAMPER_CONFIRMED (R519). input: 0 to 3, TMP0 to TMP3. -/
  | tamperConfirmed (input : Nat)
  /-- VETO (R489). domain: the domain that vetoes. -/
  | veto (domain : Nat)
  /-- WAKE_SOURCE (R491). code: the wake code of R491. -/
  | wakeSource (code : Nat)
  /-- LINK_ACTIVITY (R458). port: 0 T1A, 1 T1B. -/
  | linkActivity (port : Nat)
  /-- ETHERNET_WAKE_FRAME (R494). port: 0 T1A, 1 T1B; payload: the bytes after the EtherType. -/
  | ethernetWakeFrame (port : Nat) (payload : List Byte)
  /-- PAD_FRZ_WRITE (R498). w: the word written. -/
  | padFrzWrite (w : Word)
  /-- GPIO_EDGE (R503). pin: GPIO number; rising: the direction of the filtered edge. -/
  | gpioEdge (pin : Nat) (rising : Bool)
  /-- LINK_CHANGE (R457). port: 0 to 5; up: the link came up. -/
  | linkChange (port : Nat) (up : Bool)
  /-- AUTONEG_TIMEOUT (R457). port: 0, 1. -/
  | autonegTimeout (port : Nat)
  /-- MKA_HELLO (R465). port: 0, 1. -/
  | mkaHello (port : Nat)
  /-- MKA_PDU (R465). port: 0, 1; sci, priority: the peer's; ack: it receives with the SAK the device distributed; sak: association number, suite and wrapped key it distributes; pdu, icv: the bytes that its ICV covers, and the ICV. -/
  | mkaPdu (port sci priority : Nat) (ack : Bool) (sak : Option (Nat × Nat × List Byte)) (pdu icv : List Byte)
  /-- MKA_LIFE_EXPIRY (R481). port: 0, 1. -/
  | mkaLifeExpiry (port : Nat)
  /-- DUPLICATE_ADDRESS_DETECTED (R466). port: 0, 1. -/
  | duplicateAddressDetected (port : Nat)
  /-- NEIGHBOUR_SOLICITATION (R466). port: 0, 1; protectedFrame: it came through the controlled port. -/
  | neighbourSolicitation (port : Nat) (protectedFrame : Bool)
  /-- ECHO_REQUEST (R466). port: 0, 1; protectedFrame: it came through the controlled port; data: to echo. -/
  | echoRequest (port : Nat) (protectedFrame : Bool) (data : List Byte)
  /-- NODE_ID_CLASH (R460). seg: segment 0 to 3. -/
  | nodeIdClash (seg : Nat)
  /-- ANNOUNCE_FRAME (R462). seg: segment 0 to 3; frame: payload of the frame. -/
  | announceFrame (seg : Nat) (frame : List Byte)
  /-- SEGMENT_RESPONSE (R462). seg: segment 0 to 3; frame: payload of the frame. -/
  | segmentResponse (seg : Nat) (frame : List Byte)
  /-- SEGMENT_RESPONSE_MISS (R462). code: the node's attachment code (R46). -/
  | segmentResponseMiss (code : Nat)
  /-- SEGMENT_DATA (R463). seg: segment 0 to 3; frame: payload of the frame. -/
  | segmentData (seg : Nat) (frame : List Byte)
  /-- UPDATE_IR (R562). code: the 5-bit instruction shifted in. -/
  | updateIr (code : Nat)
  /-- UPDATE_DR (R561). cells: the 111 cells shifted in, cell 0 first. -/
  | updateDr (cells : List Bool)
  /-- LFLOOP (R565). pass: bit c for channel index c of R452; vlf, vint: the rails lie in their bounds. -/
  | lfloop (pass : BitVec 64) (vlf vint : Bool)
  /-- RFLOOP (R566). checks: bits 1 to 6 of the register, from bit 0; dA, dB: d_loop of the chains in 1/256 ns. -/
  | rfloop (checks : BitVec 6) (dA dB : Nat)
  /-- CAP_PIN_LEVEL_CHANGE (R351). pin: 0 to 3; level: the new level. -/
  | capPinLevelChange (pin : Nat) (level : Bool)
  /-- TRANSITIONS_RESUME (R306). input: MDAT number 0 to 3. -/
  | transitionsResume (input : Nat)
  /-- FRAME_DISCARDED (R468). port: 0 to 5. -/
  | frameDiscarded (port : Nat)
  /-- POWER_ON_RESET (R11). -/
  | powerOnReset
  /-- TRIAL_CONFIRMATION (R542). -/
  | trialConfirmation
  /-- LINE_LOSS (R474). -/
  | lineLoss
  /-- LINE_POWER_RETURN (R500). -/
  | linePowerReturn
  /-- VRES_EXHAUSTED (R500). -/
  | vresExhausted
  /-- VCORE_UNDERVOLTAGE (R37). -/
  | vcoreUndervoltage
  /-- TBU_START (R324). -/
  | tbuStart
  /-- ACCRUAL_SECOND (R331). -/
  | accrualSecond
  /-- HOURLY_HISTORY_POINT (R332). -/
  | hourlyHistoryPoint
  /-- PPS_EDGE (R339). -/
  | ppsEdge
  /-- PPS_PULSE_END (R339). -/
  | ppsPulseEnd
  /-- SYNC_INTERVAL (R337). -/
  | syncInterval
  /-- ANNOUNCE_INTERVAL (R337). -/
  | announceInterval
  /-- DELIVERY (R379). -/
  | delivery
  /-- WAKE_OUT_PULSE_END (R385). -/
  | wakeOutPulseEnd
  /-- FAULT_ABORT_TIMEOUT (R406). -/
  | faultAbortTimeout
  /-- KEPT_REPLY_EXPIRY (R427). -/
  | keptReplyExpiry
  /-- COIL_DIAGNOSTICS_DUE (R78). -/
  | coilDiagnosticsDue
  /-- POPULATION_CHECK_DUE (R128). -/
  | populationCheckDue
  /-- POPULATION_PHASE_END (R89). -/
  | populationPhaseEnd
  /-- LOCKOUT_END (R128). -/
  | lockoutEnd
  /-- RESPONSE_WINDOW_CLOSE (R178). -/
  | responseWindowClose
  /-- LANE_OPEN (R180). -/
  | laneOpen
  /-- TAG_DEADLINE (R180). -/
  | tagDeadline
  /-- POLL (R192). -/
  | pollFrame
  /-- FINAL (R192). -/
  | finalFrame
  /-- UWB_RECEIVE_WINDOW_EXPIRY (R192). -/
  | uwbReceiveWindowExpiry
  /-- ENROLMENT_WINDOW_EXPIRY (R54). -/
  | enrolmentWindowExpiry
  /-- CANDIDATE_EVALUATION (R48). -/
  | candidateEvaluation
  /-- AUTH_SUMMARY_HOUR_END (R66). -/
  | authSummaryHourEnd
  /-- UP (R149). -/
  | seqUp
  /-- DOWN (R149). -/
  | seqDown
  /-- SETTLE_TIMEOUT (R148). -/
  | settleTimeout
  /-- UHF_FRAME_END (R148). -/
  | uhfFrameEnd
  /-- UWB_FRAME_END (R148). -/
  | uwbFrameEnd
  /-- HELD_COMMAND_TIMEOUT (R151). -/
  | heldCommandTimeout
  /-- TRANSMIT_GATE_DEADLINE (R144). -/
  | transmitGateDeadline
  /-- UP_RETRY (R151). -/
  | upRetry
  /-- CMPW_BLOCK_DONE (R272). -/
  | cmpwBlockDone
  /-- CMPW_LOAD_DONE (R271). -/
  | cmpwLoadDone
  /-- CMPW_YIELD_END (R265). -/
  | cmpwYieldEnd
  /-- MEAN_END (R226). -/
  | meanEnd
  /-- COUNTER_COMMIT (R305). -/
  | counterCommit
  /-- SUMMARY_BOUNDARY (R312). -/
  | summaryBoundary
  /-- GRACE_EXPIRY (R309). -/
  | graceExpiry
  /-- QUEUED_ENTRY_APPEND (R314). -/
  | queuedEntryAppend
  /-- HEALTH_SUMMARY_HOUR (R514). -/
  | healthSummaryHour
  /-- STATISTICS_HOUR (R468). -/
  | statisticsHour
  /-- SSTL_DISAGREE (R226). -/
  | sstlDisagree
  /-- IDLE_EXPIRY (R227). -/
  | idleExpiry
  /-- REVOKE_NOTICE_ELAPSED (R231). -/
  | revokeNoticeElapsed
  /-- ROLE_MIGRATION_COMPLETE (R30). -/
  | roleMigrationComplete
  /-- TAMPER_LATCH_CLEAR (R521). -/
  | tamperLatchClear
  /-- SLEEP_COMMIT (R487). -/
  | sleepCommit
  /-- DOMAIN_GATED (R488). -/
  | domainGated
  /-- DRIFT_IDLE_ENTRY (R484). -/
  | driftIdleEntry
  /-- WAKE_COMPLETE (R495). -/
  | wakeComplete
  /-- NODE_CHECK (R462). -/
  | nodeCheck
  /-- ENROL_CHALLENGE_RETRY (R462). -/
  | enrolChallengeRetry
  /-- TAP_RESET (R560). -/
  | tapReset
  /-- RF_TEST_END (R161). -/
  | rfTestEnd
  deriving DecidableEq, Repr

end Sys2Proof
end

