-- ==== Sys2Proof/Machine/Flags.lean ====
section
/-!
DEFINITION. Fields of registers, status codes and saturating counts: the flag computations shared by every block.
-/
namespace Sys2Proof.Machine

/-- The field of `len` bits from bit `lo` of a register (R7, R14). -/
def fld (w : Word) (lo len : Nat) : Nat := (w.toNat >>> lo) % 2 ^ len

/-- A register with the field of `len` bits from bit `lo` set to `v` (R14). -/
def setFld (w : Word) (lo len v : Nat) : Word :=
  (w &&& ~~~(BitVec.ofNat 32 ((2 ^ len - 1) <<< lo))) ||| BitVec.ofNat 32 ((v % 2 ^ len) <<< lo)

/-- A value placed in a field of an otherwise zero register. -/
def atBit (lo len v : Nat) : Word := BitVec.ofNat 32 ((v % 2 ^ len) <<< lo)

/-- A register from a natural number. -/
def word (n : Nat) : Word := BitVec.ofNat 32 n

/-- A truth value as a bit. -/
def bit (b : Bool) : Nat := if b then 1 else 0

/-- A count that saturates at `top`. -/
def satAdd (top n k : Nat) : Nat := min (n + k) top

/-- The value of `n` bits read as signed (R444). -/
def signedOf (bits n : Nat) : Int :=
  if n < 2 ^ (bits - 1) then (n : Int) else (n : Int) - (2 ^ bits : Nat)

/-- A signed value as its `bits` low bits (R444). -/
def unsignedOf (bits : Nat) (i : Int) : Nat := (i % ((2 ^ bits : Nat) : Int)).toNat

/-- The W1C write of R14 with the bits of `mask`: each bit written 1 is cleared. -/
def w1c (old written mask : Word) : Word := old &&& ~~~(written &&& mask)

/-- Rounding to nearest of a quotient, halves away from zero. -/
def roundDiv (a : Int) (b : Nat) : Int :=
  if a < 0 then -(((2 * a.natAbs + b) / (2 * b) : Nat) : Int) else (((2 * a.natAbs + b) / (2 * b) : Nat) : Int)

/-- The ceiling of a quotient. -/
def ceilDiv (a b : Nat) : Nat := (a + b - 1) / b

namespace Status

/-- OK (R441). -/
def ok : Nat := 0x0000
/-- NOT_READY (R441, R442). -/
def notReady : Nat := 0x0001
/-- BUSY (R441). -/
def busy : Nat := 0x0002
/-- DENIED (R441). -/
def denied : Nat := 0x0003
/-- INVALID (R441). -/
def invalid : Nat := 0x0004
/-- WINDOW_FAULT (R441). -/
def windowFault : Nat := 0x0005
/-- KEY_REVOKED (R441). -/
def keyRevoked : Nat := 0x0006
/-- STALE_KEY (R441). -/
def staleKey : Nat := 0x0007
/-- EXHAUSTED (R441). -/
def exhausted : Nat := 0x0008
/-- TAG_FAIL (R441). -/
def tagFail : Nat := 0x0009
/-- DEADLINE_MISSED (R441). -/
def deadlineMissed : Nat := 0x000A
/-- SYNTH_NOT_READY (R441). -/
def synthNotReady : Nat := 0x000B
/-- ROLLED_BACK (R441). -/
def rolledBack : Nat := 0x000C
/-- NO_TARGET (R441). -/
def noTarget : Nat := 0x000D
/-- LOCKED_OUT (R441). -/
def lockedOut : Nat := 0x000E
/-- TIME_DEGRADED (R441). -/
def timeDegraded : Nat := 0x000F
/-- POOL_EMPTY (R441). -/
def poolEmpty : Nat := 0x0010
/-- DERATED (R441). -/
def derated : Nat := 0x0011

end Status

end Sys2Proof.Machine
end

