-- ==== Sys2Proof/Machine/Operands.lean ====
section
/-!
DEFINITION. Payloads as bytes: little-endian and big-endian fields, and the layouts of bodies written field by field.
-/
namespace Sys2Proof.Machine

/-- `n` bytes of a number, least significant first (R6). -/
def leBytes : Nat → Nat → List Byte
  | 0, _ => []
  | n + 1, v => BitVec.ofNat 8 v :: leBytes n (v / 256)

/-- The number that bytes spell, least significant first (R6). -/
def leNat : List Byte → Nat
  | [] => 0
  | b :: bs => b.toNat + 256 * leNat bs

/-- `n` bytes of a number, most significant first. -/
def beBytes (n v : Nat) : List Byte := (leBytes n v).reverse

/-- The number that bytes spell, most significant first. -/
def beNat (bs : List Byte) : Nat := leNat bs.reverse

/-- `len` bytes from offset `off`, short only where the list ends. -/
def slice (bs : List Byte) (off len : Nat) : List Byte := (bs.drop off).take len

/-- The unsigned little-endian field of `len` bytes at offset `off` (R444). -/
def uAt (bs : List Byte) (off len : Nat) : Nat := leNat (slice bs off len)

/-- The signed little-endian field of `len` bytes at offset `off` (R444). -/
def iAt (bs : List Byte) (off len : Nat) : Int := signedOf (8 * len) (uAt bs off len)

/-- Zero bytes. -/
def zeros (n : Nat) : List Byte := List.replicate n 0

/-- A body padded or cut to `n` bytes. -/
def fit (n : Nat) (bs : List Byte) : List Byte := (bs ++ zeros n).take n

/-- Every byte of the range is 0, as reserved bytes must be (R444). -/
def zeroAt (bs : List Byte) (off len : Nat) : Bool := (slice bs off len).all (· == 0)

/-- A signed field of `n` bytes (R444). -/
def leInt (n : Nat) (i : Int) : List Byte := leBytes n (unsignedOf (8 * n) i)

/-- The exclusive or of two byte strings, as long as the shorter. -/
def xorBytes (a b : List Byte) : List Byte := List.zipWith (· ^^^ ·) a b

/-- The words of a byte string, little-endian; a last short word is filled with zeros. -/
def wordsOf : Nat → List Byte → List Word
  | 0, _ => []
  | n + 1, bs => word (leNat (bs.take 4)) :: wordsOf n (bs.drop 4)

/-- The bytes of words, little-endian. -/
def bytesOf (ws : List Word) : List Byte := ws.flatMap fun w => leBytes 4 w.toNat

/-- The mask of the bits whose indices are listed. -/
def maskOf (is : List Nat) : Nat := is.foldl (fun m i => m ||| (1 <<< i)) 0

/-- The indices below `n` whose bits are set. -/
def bitsOf (n m : Nat) : List Nat := (List.range n).filter fun i => m.testBit i

end Sys2Proof.Machine
end

