-- ==== Sys2Proof/Machine/Aes.lean ====
section
/-!
DEFINITION. The ciphers that the spec names by their standards: AES (FIPS 197), CMAC (SP 800-38B), CCM (SP 800-38C), GCM
and GMAC (SP 800-38D), key wrap (SP 800-38F) and the counter-mode KDF (SP 800-108). The spec gives their use, not their
tables; the tables are those of the standards (PRESUMED, log 15).
-/
namespace Sys2Proof.Machine.Aes

/-- Multiplication by x in the field of AES, on numbers below 256. -/
def xtime (a : Nat) : Nat := if a < 128 then 2 * a else ((2 * a) ^^^ 0x11B)

/-- Multiplication in the field of AES over the eight bits of `b`. -/
def gmul (a b : Nat) : Nat :=
  let step := fun (acc : Nat × Nat) (i : Nat) =>
    ((if b.testBit i then acc.1 ^^^ acc.2 else acc.1), xtime acc.2)
  ((List.range 8).foldl step (0, a)).1

/-- The S-box of FIPS 197, 16 entries to a row. -/
def sboxRows : List (List Nat) :=
  [[0x63, 0x7c, 0x77, 0x7b, 0xf2, 0x6b, 0x6f, 0xc5, 0x30, 0x01, 0x67, 0x2b, 0xfe, 0xd7, 0xab, 0x76],
   [0xca, 0x82, 0xc9, 0x7d, 0xfa, 0x59, 0x47, 0xf0, 0xad, 0xd4, 0xa2, 0xaf, 0x9c, 0xa4, 0x72, 0xc0],
   [0xb7, 0xfd, 0x93, 0x26, 0x36, 0x3f, 0xf7, 0xcc, 0x34, 0xa5, 0xe5, 0xf1, 0x71, 0xd8, 0x31, 0x15],
   [0x04, 0xc7, 0x23, 0xc3, 0x18, 0x96, 0x05, 0x9a, 0x07, 0x12, 0x80, 0xe2, 0xeb, 0x27, 0xb2, 0x75],
   [0x09, 0x83, 0x2c, 0x1a, 0x1b, 0x6e, 0x5a, 0xa0, 0x52, 0x3b, 0xd6, 0xb3, 0x29, 0xe3, 0x2f, 0x84],
   [0x53, 0xd1, 0x00, 0xed, 0x20, 0xfc, 0xb1, 0x5b, 0x6a, 0xcb, 0xbe, 0x39, 0x4a, 0x4c, 0x58, 0xcf],
   [0xd0, 0xef, 0xaa, 0xfb, 0x43, 0x4d, 0x33, 0x85, 0x45, 0xf9, 0x02, 0x7f, 0x50, 0x3c, 0x9f, 0xa8],
   [0x51, 0xa3, 0x40, 0x8f, 0x92, 0x9d, 0x38, 0xf5, 0xbc, 0xb6, 0xda, 0x21, 0x10, 0xff, 0xf3, 0xd2],
   [0xcd, 0x0c, 0x13, 0xec, 0x5f, 0x97, 0x44, 0x17, 0xc4, 0xa7, 0x7e, 0x3d, 0x64, 0x5d, 0x19, 0x73],
   [0x60, 0x81, 0x4f, 0xdc, 0x22, 0x2a, 0x90, 0x88, 0x46, 0xee, 0xb8, 0x14, 0xde, 0x5e, 0x0b, 0xdb],
   [0xe0, 0x32, 0x3a, 0x0a, 0x49, 0x06, 0x24, 0x5c, 0xc2, 0xd3, 0xac, 0x62, 0x91, 0x95, 0xe4, 0x79],
   [0xe7, 0xc8, 0x37, 0x6d, 0x8d, 0xd5, 0x4e, 0xa9, 0x6c, 0x56, 0xf4, 0xea, 0x65, 0x7a, 0xae, 0x08],
   [0xba, 0x78, 0x25, 0x2e, 0x1c, 0xa6, 0xb4, 0xc6, 0xe8, 0xdd, 0x74, 0x1f, 0x4b, 0xbd, 0x8b, 0x8a],
   [0x70, 0x3e, 0xb5, 0x66, 0x48, 0x03, 0xf6, 0x0e, 0x61, 0x35, 0x57, 0xb9, 0x86, 0xc1, 0x1d, 0x9e],
   [0xe1, 0xf8, 0x98, 0x11, 0x69, 0xd9, 0x8e, 0x94, 0x9b, 0x1e, 0x87, 0xe9, 0xce, 0x55, 0x28, 0xdf],
   [0x8c, 0xa1, 0x89, 0x0d, 0xbf, 0xe6, 0x42, 0x68, 0x41, 0x99, 0x2d, 0x0f, 0xb0, 0x54, 0xbb, 0x16]]

/-- SubBytes on one byte. -/
def sub (b : Nat) : Nat := (sboxRows.getD (b / 16) []).getD (b % 16) 0

/-- InvSubBytes on one byte: the place of the byte in the S-box. -/
def invSub (b : Nat) : Nat := (sboxRows.flatten.findIdx (· == b)) % 256

/-- The key schedule: words of four bytes, `nk` of them given, extended one at a time. -/
def expandFrom (nk : Nat) : Nat → List (List Nat) → Nat → List (List Nat)
  | 0, ws, _ => ws
  | n + 1, ws, rc =>
    let i := ws.length
    let prev := ws.getD (i - 1) []
    let t :=
      if i % nk = 0 then
        let r := (prev.drop 1 ++ prev.take 1).map sub
        [r.getD 0 0 ^^^ rc, r.getD 1 0, r.getD 2 0, r.getD 3 0]
      else if nk > 6 ∧ i % nk = 4 then prev.map sub
      else prev
    let w := List.zipWith (· ^^^ ·) (ws.getD (i - nk) []) t
    expandFrom nk n (ws ++ [w]) (if i % nk = 0 then xtime rc else rc)

/-- Bytes cut into groups of four. -/
def groups4 : Nat → List Nat → List (List Nat)
  | 0, _ => []
  | n + 1, bs => bs.take 4 :: groups4 n (bs.drop 4)

/-- The round keys, 16 bytes each, of a key of 16, 24 or 32 bytes. -/
def schedule (key : List Byte) : List (List Nat) :=
  let nk := key.length / 4
  let rounds := nk + 6
  let ws := expandFrom nk (4 * (rounds + 1) - nk) (groups4 nk (key.map (·.toNat))) 1
  (List.range (rounds + 1)).map fun r => (ws.drop (4 * r)).take 4 |>.flatten

/-- AddRoundKey. -/
def addKey (s k : List Nat) : List Nat := List.zipWith (· ^^^ ·) s k

/-- ShiftRows on the 16 bytes in column order. -/
def shiftRows (s : List Nat) : List Nat :=
  (List.range 16).map fun i => s.getD ((i + 4 * (i % 4)) % 16) 0

/-- InvShiftRows. -/
def invShiftRows (s : List Nat) : List Nat :=
  (List.range 16).map fun i => s.getD ((i + 12 * (i % 4)) % 16) 0

/-- One column times the circulant matrix of MixColumns or its inverse, named by its first row. -/
def mixCol (m : List Nat) (c : List Nat) : List Nat :=
  (List.range 4).map fun r =>
    (List.range 4).foldl (fun a j => a ^^^ gmul (c.getD j 0) (m.getD ((j + 4 - r) % 4) 0)) 0

/-- MixColumns with the matrix of first row `m`. -/
def mixWith (m : List Nat) (s : List Nat) : List Nat := (groups4 4 s).flatMap (mixCol m)

/-- The cipher of FIPS 197 on one block. -/
def encBlock (key : List Byte) (blk : List Byte) : List Byte :=
  match schedule key with
  | [] => blk
  | k0 :: ks =>
    let s0 := addKey (blk.map (·.toNat)) k0
    let mid := ks.dropLast.foldl (fun s k => addKey (mixWith [2, 3, 1, 1] (shiftRows (s.map sub))) k) s0
    (addKey (shiftRows (mid.map sub)) (ks.getLast?.getD [])).map (BitVec.ofNat 8)

/-- The inverse cipher of FIPS 197 on one block. -/
def decBlock (key : List Byte) (blk : List Byte) : List Byte :=
  match (schedule key).reverse with
  | [] => blk
  | k0 :: ks =>
    let s0 := addKey (blk.map (·.toNat)) k0
    let mid := ks.dropLast.foldl (fun s k => mixWith [14, 11, 13, 9] (addKey ((invShiftRows s).map invSub) k)) s0
    (addKey ((invShiftRows mid).map invSub) (ks.getLast?.getD [])).map (BitVec.ofNat 8)

/-- Bytes cut into `n` blocks of 16; the last may be short. -/
def blocksN : Nat → List Byte → List (List Byte)
  | 0, _ => []
  | n + 1, bs => bs.take 16 :: blocksN n (bs.drop 16)

/-- Bytes cut into blocks of 16; the last may be short. -/
def blocks (bs : List Byte) : List (List Byte) := blocksN (ceilDiv bs.length 16) bs

/-- Doubling in GF(2^128) as SP 800-38B uses it for its subkeys. -/
def dbl (b : List Byte) : List Byte :=
  let n := beNat b
  beBytes 16 ((2 * n) % 2 ^ 128 ^^^ (if n < 2 ^ 127 then 0 else 0x87))

/-- CBC-MAC from a running value. -/
def cbcMac (key : List Byte) (x : List Byte) (bs : List (List Byte)) : List Byte :=
  bs.foldl (fun a b => encBlock key (xorBytes a (fit 16 b))) x

/-- CMAC of SP 800-38B, 16 bytes. -/
def cmac (key msg : List Byte) : List Byte :=
  let k1 := dbl (encBlock key (zeros 16))
  let bl := if msg = [] then [[]] else blocks msg
  let last := bl.getLast?.getD []
  let x := cbcMac key (zeros 16) bl.dropLast
  let fin := if last.length = 16 then xorBytes last k1 else xorBytes (fit 16 (last ++ [0x80])) (dbl k1)
  encBlock key (xorBytes x fin)

/-- Key stream of `n` counter blocks made by `ctr`. -/
def stream (key : List Byte) (ctr : Nat → List Byte) (n : Nat) : List Byte :=
  (List.range n).flatMap fun i => encBlock key (ctr i)

/-- CTR with a 12-byte nonce and a 32-bit block counter from 1. -/
def ctr (key nonce data : List Byte) : List Byte :=
  xorBytes data (stream key (fun i => fit 12 nonce ++ beBytes 4 (i + 1)) (ceilDiv data.length 16))

/-- The counter blocks of CCM. -/
def ccmCtr (nonce : List Byte) (i : Nat) : List Byte :=
  let q := 15 - nonce.length
  BitVec.ofNat 8 (q - 1) :: nonce ++ beBytes q i

/-- The CBC-MAC of CCM over its header, associated data and payload. -/
def ccmMac (key nonce aad data : List Byte) (tagLen : Nat) : List Byte :=
  let q := 15 - nonce.length
  let flags := (if aad = [] then 0 else 64) + 8 * ((tagLen - 2) / 2) + (q - 1)
  let b0 := BitVec.ofNat 8 flags :: nonce ++ beBytes q data.length
  let a :=
    if aad = [] then []
    else if aad.length < 0xFF00 then beBytes 2 aad.length ++ aad
    else [0xFF, 0xFE] ++ beBytes 4 aad.length ++ aad
  cbcMac key (zeros 16) (b0 :: blocks a ++ blocks data)

/-- The tag of CCM. -/
def ccmTag (key nonce aad data : List Byte) (tagLen : Nat) : List Byte :=
  (xorBytes (ccmMac key nonce aad data tagLen) (encBlock key (ccmCtr nonce 0))).take tagLen

/-- The payload of CCM, enciphered or deciphered. -/
def ccmCrypt (key nonce data : List Byte) : List Byte :=
  xorBytes data (stream key (fun i => ccmCtr nonce (i + 1)) (ceilDiv data.length 16))

/-- Multiplication in GF(2^128) as GHASH orders its bits. -/
def ghMul (x y : Nat) : Nat :=
  let step := fun (acc : Nat × Nat) (i : Nat) =>
    ((if x.testBit (127 - i) then acc.1 ^^^ acc.2 else acc.1),
      (acc.2 / 2) ^^^ (if acc.2.testBit 0 then 0xE1 <<< 120 else 0))
  ((List.range 128).foldl step (0, y)).1

/-- GHASH. -/
def ghash (h : Nat) (bs : List (List Byte)) : Nat :=
  bs.foldl (fun a b => ghMul (a ^^^ beNat (fit 16 b)) h) 0

/-- The tag of GCM over associated data and ciphertext, 16 bytes. -/
def gcmTag (key nonce aad ct : List Byte) : List Byte :=
  let h := beNat (encBlock key (zeros 16))
  let s := ghash h (blocks aad ++ blocks ct ++ [beBytes 8 (8 * aad.length) ++ beBytes 8 (8 * ct.length)])
  xorBytes (beBytes 16 s) (encBlock key (fit 12 nonce ++ beBytes 4 1))

/-- The payload of GCM, enciphered or deciphered. -/
def gcmCrypt (key nonce data : List Byte) : List Byte :=
  xorBytes data (stream key (fun i => fit 12 nonce ++ beBytes 4 (i + 2)) (ceilDiv data.length 16))

/-- The initial value of key wrap. -/
def kwIv : List Byte := List.replicate 8 0xA6

/-- Bytes cut into `n` semiblocks of 8. -/
def semis : Nat → List Byte → List (List Byte)
  | 0, _ => []
  | n + 1, bs => bs.take 8 :: semis n (bs.drop 8)

/-- One pass of key wrap over the semiblocks; `t` counts the steps. -/
def wrapPass (key : List Byte) : List (List Byte) → List Byte → Nat → List Byte × List (List Byte)
  | [], a, _ => (a, [])
  | r :: rs, a, t =>
    let b := encBlock key (a ++ r)
    let (a', rs') := wrapPass key rs (xorBytes (b.take 8) (beBytes 8 t)) (t + 1)
    (a', b.drop 8 :: rs')

/-- Key wrap of SP 800-38F. -/
def kwWrap (key p : List Byte) : List Byte :=
  let n := p.length / 8
  let (a, rs) := (List.range 6).foldl
    (fun (acc : List Byte × List (List Byte)) j => wrapPass key acc.2 acc.1 (n * j + 1)) (kwIv, semis n p)
  a ++ rs.flatten

/-- One pass of key unwrap over the semiblocks taken last first; `t` counts down. -/
def unwrapPass (key : List Byte) : List (List Byte) → List Byte → Nat → List Byte × List (List Byte)
  | [], a, _ => (a, [])
  | r :: rs, a, t =>
    let b := decBlock key (xorBytes a (beBytes 8 t) ++ r)
    let (a', rs') := unwrapPass key rs (b.take 8) (t - 1)
    (a', b.drop 8 :: rs')

/-- Key unwrap of SP 800-38F: none where the integrity check fails. -/
def kwUnwrap (key c : List Byte) : Option (List Byte) :=
  let n := c.length / 8 - 1
  let (a, rs) := (List.range 6).foldl
    (fun (acc : List Byte × List (List Byte)) j => unwrapPass key acc.2 acc.1 (n * (6 - j)))
    (c.take 8, (semis n (c.drop 8)).reverse)
  if a = kwIv then some rs.reverse.flatten else none

end Sys2Proof.Machine.Aes

namespace Sys2Proof.Machine

/-- The key check value of a root key (R274): the first 3 bytes of the CMAC under it over 16 bytes 0x4B. -/
def kcvOf (key : List Byte) : List Byte := (Aes.cmac key (List.replicate 16 0x4B)).take 3

end Sys2Proof.Machine
end

