-- ==== Sys2Proof/Config.lean ====
section
/-!
DEFINITION. What production, an installation or a standard outside the spec fixes, as constants with no body: no proof can
learn a value of them (assumption logs 14 and 16).
-/
namespace Sys2Proof

/-- The device identity, written by Dvorant in production (R440 IDH_UID, 16_mailboxes). -/
opaque Config.deviceUid : BitVec 64

/-- The device identity as a number. -/
def Config.deviceIdentity : Nat := Config.deviceUid.toNat

/-- The grade code of IDH_PART and sys.info: 0x01 AQ, 0x02 SQ (R440, 16_mailboxes). -/
opaque Config.grade : Nat

/-- The root key of KS0, device-unique and written by Dvorant (R275, 10_keys_and_contexts). -/
opaque Config.ks0Key : BitVec 256

/-- What IEEE 802.1AE adds to the packet number in the nonce of an XPN suite, by SAK and SCI: the short SCI and the salt that MKA
distributes, which the spec does not state (R263, R464; log 55). -/
opaque Config.xpnBase : List Byte → Nat → BitVec 96

/-- The free values: the n-th draw of the random source, or the n-th value the spec leaves open (log 11). -/
opaque Config.freeNat : Nat → Nat

/-- SHA-256 (log 16): the standard's digest, 32 bytes, of a byte string. -/
opaque Config.sha256 : List Byte → List Byte

/-- ECDSA over P-256 (R537, R280; log 16): whether a signature (r then s) verifies for a digest under ROM key 0 or 1. -/
opaque Config.ecdsaVerify : Nat → List Byte → List Byte → Bool

/-- The public key Q of a private key d on P-256, x then y (R280; log 16). -/
opaque Config.p256Public : List Byte → List Byte

/-- Whether a point, x then y, lies on P-256 (R280; log 16). -/
opaque Config.p256OnCurve : List Byte → Bool

/-- The x-coordinate of d × P on P-256 (R280; log 16). -/
opaque Config.p256Shared : List Byte → List Byte → List Byte

/-- The power in mW that a delivered PoDL class guarantees, Table 104-1 of IEEE 802.3-2022 (R470; log 16). -/
opaque Config.classPower : Nat → Nat

/-- The batches that a core pair's Axiesis event queue holds beyond one: the spec states no length (R376, R379; log 14). -/
opaque Config.coreQueueMore : Nat

/-- How many batches the queue of a core pair holds: room for one at least (R379 speaks of room in it). DEDUCED: log 14. -/
def Config.coreQueueDepth : Nat := Config.coreQueueMore + 1

/-- Which of the host's sixteen channels a descriptor of crypt.submit is placed on, by mailbox and context number: neither the
command nor the descriptor names it (R245, R249, R453; log 17). -/
opaque Config.submitChannel : Nat → Nat → Nat

/-- The phase of the DAC's sample grid against the timebase, in 1/256 ns (R139; log 34). -/
opaque Config.dacPhase : Int

/-- The offset of a first path from its tap, in 1/256 ns, where the parabola through the magnitudes of the tap and its two
neighbours has no maximum (R200; log 30). -/
opaque Config.pathOffset : Nat → Nat → Nat → Int

end Sys2Proof
end

