-- ==== Sys2Proof/Machine/Memory.lean ====
section
/-!
DEFINITION. Physical memory (R395, 15_memory_and_fabric): a list of cells in one canonical form, addresses strictly rising
and no cell equal to what an unlisted address reads as.
-/
namespace Sys2Proof.Machine

/-- Physical memory: SRAM and MRAM share one list, keyed by physical address. -/
abbrev Memory := List Host.Cell

/-- What an unlisted address reads as: 0 in SRAM by the self-test's fill (R397), 0 in MRAM by choice (log 10). -/
def Memory.unlisted : Byte := 0

/-- Every address of the list lies above `a`. -/
def Memory.aboveAll (a : Nat) : Memory → Bool
  | [] => true
  | c :: m => decide (a < c.1) && Memory.aboveAll a m

/-- The canonical form: addresses strictly rising, no cell at the unlisted value. -/
def Memory.wf : Memory → Bool
  | [] => true
  | c :: m => decide (c.2 ≠ Memory.unlisted) && Memory.aboveAll c.1 m && Memory.wf m

/-- One byte. -/
def Memory.readByte (m : Memory) (a : Nat) : Byte :=
  match m with
  | [] => Memory.unlisted
  | c :: rest => if c.1 = a then c.2 else Memory.readByte rest a

/-- One byte written; writing the unlisted value removes the cell. -/
def Memory.writeByte (m : Memory) (a : Nat) (b : Byte) : Memory :=
  match m with
  | [] => if b = Memory.unlisted then [] else [(a, b)]
  | c :: rest =>
    if c.1 < a then c :: Memory.writeByte rest a b
    else if c.1 = a then (if b = Memory.unlisted then rest else (a, b) :: rest)
    else if b = Memory.unlisted then c :: rest else (a, b) :: c :: rest

/-- `n` bytes from `a`, lowest address first. -/
def Memory.readBytes (m : Memory) (a : Nat) : Nat → List Byte
  | 0 => []
  | n + 1 => Memory.readByte m a :: Memory.readBytes m (a + 1) n

/-- The bytes written from `a` on, in rising order. -/
def Memory.writeBytes (m : Memory) (a : Nat) : List Byte → Memory
  | [] => m
  | b :: bs => Memory.writeBytes (Memory.writeByte m a b) (a + 1) bs

/-- A little-endian 32-bit word (R6). -/
def Memory.readWord (m : Memory) (a : Nat) : Word :=
  (Memory.readByte m (a + 3) ++ Memory.readByte m (a + 2) ++ Memory.readByte m (a + 1) ++ Memory.readByte m a : BitVec 32)

/-- A little-endian 32-bit word stored (R6). -/
def Memory.writeWord (m : Memory) (a : Nat) (w : Word) : Memory :=
  Memory.writeBytes m a [w.extractLsb' 0 8, w.extractLsb' 8 8, w.extractLsb' 16 8, w.extractLsb' 24 8]

end Sys2Proof.Machine
end

