-- ==== Sys2Proof/Machine/State.lean ====
section
/-!
DEFINITION. The state of the block as plain data: every register, counter, queue and mode of the spec, each field with
its rule, its width and its value after reset, and the queue of waiting commands.
-/
namespace Sys2Proof.Machine

/-- The reasons for which a command stops the machine with a fault. The spec gives every command an effect, so no
meaning raises one. -/
inductive Fault where
  deriving DecidableEq, Repr

/-- The reasons for which a command is refused. -/
inductive Refusal where
  /-- Raised by the dispatch of a row with no meaning yet; safe: the machine stops. -/
  | notModelled (mnemonic : String)
  /-- Raised by RESET_RELEASE when TEST_EN is high before production lock: the factory test mode, which the spec says it
  does not describe (R567, 22_package_electrical_test); safe: the machine stops. -/
  | factoryTestMode
  deriving DecidableEq, Repr

/-- The radio sequencer's states in the order of R147 (05_radio); rf.status codes 0 to 8. -/
inductive SeqState where
  | off
  | standby
  | synthSettle
  | cal
  | rxUhf
  | txUhf
  | rxUwb
  | txUwb
  | ranging
  deriving DecidableEq, Repr, Inhabited

/-- The release decision's states of R214 (08_release_decision); rel.status codes 0 to 4. -/
inductive Decision where
  | locked
  | armed
  | released
  | held
  | revoking
  deriving DecidableEq, Repr, Inhabited

/-- Mailbox states of R428 (16_mailboxes), codes 0b00, 0b01, 0b10. -/
inductive MbState where
  | free
  | issued
  | posted
  deriving DecidableEq, Repr, Inhabited

/-- Power states (00_scope, R482 in 19_power_states). -/
inductive PowerState where
  | run
  | drift
  | firn
  | permafrost
  | nunatakHold
  deriving DecidableEq, Repr, Inhabited

/-- Where the device is between a reset's start and readiness (R540, R541, R507, R562, R567); stalled: the booted firmware has not reached readiness. -/
inductive BootPhase where
  | inReset
  | stalled
  | running
  | testHold
  | bankless
  | selfTestWait
  deriving DecidableEq, Repr, Inhabited

/-- Partner record states of R44 (02_partners), codes 0 to 3. -/
inductive PartState where
  | free
  | candidate
  | enrolled
  | absent
  deriving DecidableEq, Repr, Inhabited

/-- The scheduler's classes of R92 (03_lf_field_array), in priority order. -/
inductive LfClass where
  | wake
  | pop
  | diag
  deriving DecidableEq, Repr, Inhabited

/-- Slot classes of R176 (06_key_sessions). -/
inductive SlotKind where
  | empty
  | clean
  | collision
  deriving DecidableEq, Repr, Inhabited

/-- One requester's read and write shadows (R341, R357, R358, R365, R382). -/
structure Shadow where
  /-- TBU_NS_HI as latched (R341, R342 12_timebase; width 32; reset: 0 (system reset clears, R341)). -/
  nsHi : Word := 0
  /-- TBU_FRAC as latched (R341, R342 12_timebase; width 32; reset: 0). -/
  frac : Word := 0
  /-- TBU_EPOCH as latched (R341, R342 12_timebase; width 32; reset: 0). -/
  epoch : Word := 0
  /-- TBU_UNC as latched (R341, R342 12_timebase; width 32; reset: 0). -/
  unc : Word := 0
  /-- TBU_CIV_LO as latched (R341, R342 12_timebase; width 32; reset: 0). -/
  civLo : Word := 0
  /-- TBU_CIV_HI as latched (R341, R342 12_timebase; width 32; reset: 0). -/
  civHi : Word := 0
  /-- TBU_UACC_HI as latched (R341, R342 12_timebase; width 32; reset: 0). -/
  uaccHi : Word := 0
  /-- TMRn_CAPINFO as latched, n = 0..7 (R357, R368 13_timers; width 8 x 32; reset: 0). -/
  capInfo : List Word := List.replicate 8 0
  /-- ALMm_HI read shadows (R358, R369 13_timers; width 4 x 32; reset: 0). -/
  almRd : List Word := List.replicate 4 0
  /-- ALMm_HI write shadows (R358, R369 13_timers; width 4 x 32; reset: 0). -/
  almWr : List Word := List.replicate 4 0
  /-- CAPn_HI as latched (R365, R371 13_timers; width 4 x 32; reset: 0). -/
  capHi : List Word := List.replicate 4 0
  /-- CAPn_INFO as latched (R365, R371 13_timers; width 4 x 32; reset: 0). -/
  capFifoInfo : List Word := List.replicate 4 0
  /-- EVC_DLVMAPj as latched (R382, R393 14_event_controller; width 6 x 32; reset: 0). -/
  dlvMap : List Word := List.replicate 6 0
  deriving DecidableEq, Repr, Inhabited

/-- Civil time parameters (R335, R336). -/
structure Civil where
  /-- civil_valid (R336, R343 12_timebase; width 1; reset: 0). -/
  valid : Bool := false
  /-- civil time at T0, ns of TAI since 1970 (R335 12_timebase; width 64; reset: DESIGN CHOICE 0, log 3). -/
  c0 : Nat := 0
  /-- T0, whole ns (R335 12_timebase; width 64; reset: DESIGN CHOICE 0, log 3). -/
  t0Ns : Nat := 0
  /-- T0 fraction, 1/256 ns (R335 17_command_reference time.civil; width 8; reset: DESIGN CHOICE 0, log 3). -/
  t0Frac : Nat := 0
  /-- rho in 10^-12 (R335 12_timebase; width 32 signed; reset: DESIGN CHOICE 0, log 3). -/
  rate : Int := 0
  /-- declared rate uncertainty in 10^-12 (R336 12_timebase; width 32; reset: DESIGN CHOICE 0, log 3). -/
  rateUnc : Nat := 0
  /-- declared civil uncertainty, ns (R336 12_timebase; width 64; reset: DESIGN CHOICE 0, log 3). -/
  unc : Nat := 0
  /-- TBU_CIV_STATUS.utc_offset (R345 12_timebase; width 16; reset: 0). -/
  utcOffset : Word := 0
  /-- leap61 (bit 0) and leap59 (bit 1) as time.civil carries them (R345 12_timebase; width 2; reset: 0). -/
  leap : Nat := 0
  /-- TB_NS at which time.civil was accepted (R339 12_timebase; width 64; reset: DESIGN CHOICE 0, log 3). -/
  setNs : Nat := 0
  deriving DecidableEq, Repr, Inhabited

/-- An Announce as sent (R337). -/
structure GptpAnnounce where
  /-- gPTP domain (R337 12_timebase; width 8; reset: 0). -/
  domain : Nat := 0
  /-- clockIdentity (R337 12_timebase; width 64; reset: 0). -/
  identity : Nat := 0
  /-- priority1 (R337 12_timebase; width 8; reset: 0). -/
  priority1 : Nat := 0
  /-- clockClass (R337 12_timebase; width 8; reset: 0). -/
  clockClass : Nat := 0
  /-- clockAccuracy (R337 12_timebase; width 8; reset: 0). -/
  accuracy : Nat := 0
  /-- offsetScaledLogVariance (R337 12_timebase; width 16; reset: 0). -/
  variance : Nat := 0
  /-- priority2 (R337 12_timebase; width 8; reset: 0). -/
  priority2 : Nat := 0
  /-- logAnnounceInterval (R337 12_timebase; width 8 signed; reset: 0). -/
  logInterval : Int := 0
  /-- timescale: PTP true, ARB false (R337 12_timebase; width 1; reset: false). -/
  ptp : Bool := false
  deriving DecidableEq, Repr, Inhabited

/-- A two-step Sync with its Follow_Up as sent (R337). -/
structure GptpSync where
  /-- gPTP domain (R337 12_timebase; width 8; reset: 0). -/
  domain : Nat := 0
  /-- clockIdentity (R337 12_timebase; width 64; reset: 0). -/
  identity : Nat := 0
  /-- logSyncInterval (R337 12_timebase; width 8 signed; reset: 0). -/
  logInterval : Int := 0
  /-- gPTP time in ns (R337 12_timebase; width 64; reset: 0). -/
  origin : Nat := 0
  /-- timeBaseIndicator (R337 12_timebase; width 16; reset: 0). -/
  tbi : Nat := 0
  /-- lastGmPhaseChange, ns (R337 12_timebase; width 65 signed; reset: 0). -/
  phaseChange : Int := 0
  deriving DecidableEq, Repr, Inhabited

/-- The timebase unit in Nunatak (12_timebase). -/
structure Tbu where
  /-- TB_NS, the majority of the three counters (R325) (R322, R324 12_timebase; width 64; reset: 0). -/
  ns : BitVec 64 := 0
  /-- F, in 2^-40 ns (R322, R324 12_timebase; width 40; reset: 0). -/
  frac : BitVec 40 := 0
  /-- epoch, held in MRAM (R322, R324 12_timebase; width 32; reset: DESIGN CHOICE 1, log 4). -/
  epoch : Nat := 1
  /-- the TBU has started (R324, R343 12_timebase; width 1; reset: 0). -/
  running : Bool := false
  /-- source in use (R326, R343 12_timebase; width 2; reset: reference (0b00)). -/
  src : TimeSource := .reference
  /-- reference qualified (R343 12_timebase; width 1; reset: 0). -/
  refOk : Bool := false
  /-- slow crystal qualified (R343 12_timebase; width 1; reset: 0). -/
  slowOk : Bool := false
  /-- the slow crystal stands failed (R328 12_timebase; width 1; reset: DESIGN CHOICE false, log 3). -/
  slowFailed : Bool := false
  /-- increment on the reference, 2^-40 ns (R326 12_timebase; width 104; reset: nominal increment (R326)). -/
  incRef : Nat := 28633115306667
  /-- increment on the slow crystal, 2^-40 ns (R326, R329, R330 12_timebase; width 104; reset: nominal increment (R326)). -/
  incSlow : Nat := 33554432000000000
  /-- RC period as last measured, 2^-40 ns (R326 12_timebase; width 104; reset: nominal 1,000 ns (R326)). -/
  incRc : Nat := 1099511627776000
  /-- trimmed increment of the latest window (R329 12_timebase; width 104; reset: none (R329)). -/
  trimInc : Option Nat := none
  /-- die temperature at the end of the trim window, 0.1 C (R330 12_timebase; width 16 signed; reset: T0 25.0 C (R329)). -/
  trimTemp : Int := 250
  /-- TB_NS at which the latest window ended (R329 12_timebase; width 64; reset: none). -/
  trimEnd : Option Nat := none
  /-- a planned change kept the trim's validity (R329 12_timebase; width 1; reset: false). -/
  trimKept : Bool := false
  /-- last die temperature, 0.1 C (R330 12_timebase; width 16 signed; reset: DESIGN CHOICE 25.0 C, log 3). -/
  dieTemp : Int := 250
  /-- magnitude of the temperature correction, in 0.01 ns per second (R330, R331 12_timebase; width 64; reset: 0). -/
  corr : Nat := 0
  /-- U, ns (R331 12_timebase; width 64; reset: 0). -/
  uAcc : Nat := 0
  /-- accruals of the last 600 s (R332, R334 12_timebase; width 600 s of (TB_NS, ns); reset: empty). -/
  accruals : List (Nat × Nat) := []
  /-- hourly history (TB_NS, U), oldest first (R332 12_timebase; width up to 168 x (64, 64); reset: empty). -/
  hist : List (Nat × Nat) := []
  /-- counter taken out, duplex (R510 20_resilience_and_tamper; width 2; reset: none). -/
  laneOut : Option Nat := none
  /-- TB_NS of each counter's last outvote (R510 20_resilience_and_tamper; width 3 x 64; reset: none). -/
  laneLast : List (Option Nat) := [none, none, none]
  /-- TB_NS from which the present charged second runs (R331 12_timebase; width 64; reset: 0). -/
  secStart : Nat := 0
  /-- the trim stopped being valid within the present second (R331 12_timebase; width 1; reset: false). -/
  trimBroke : Bool := false
  /-- TBU_EVT (R344 12_timebase; width 32; reset: 0). -/
  evt : Word := 0
  /-- TBU_EVT_EN (R344 12_timebase; width 32; reset: 0). -/
  evtEn : Word := 0
  /-- TBU_UNC_LIMIT (R345 12_timebase; width 32; reset: 0x0000_2710). -/
  uncLimit : Word := 0x2710
  /-- TBU_PPS_CTRL (R345 12_timebase; width 32; reset: pps_width 0x064, others 0). -/
  ppsCtrl : Word := 0x640
  /-- level of PPS_OUT (R339 12_timebase, R547 22; width 1; reset: low). -/
  ppsHigh : Bool := false
  /-- TB_NS of the last PPS edge (R339 12_timebase; width 64; reset: DESIGN CHOICE 0, log 3). -/
  ppsRise : Nat := 0
  /-- TB_NS from which crossings of the PPS basis count: the enable, a change of basis, a return to the reference (R339, R345 12_timebase; width 64; reset: DESIGN CHOICE 0, log 3). -/
  ppsFrom : Nat := 0
  /-- timeBaseIndicator (R337 12_timebase; width 16; reset: DESIGN CHOICE 0, log 3). -/
  tbi : Nat := 0
  /-- lastGmPhaseChange of the latest time.civil, ns (R337 12_timebase; width 65 signed; reset: DESIGN CHOICE 0, log 3). -/
  phaseChange : Int := 0
  /-- timescale is PTP (R337 12_timebase; width 1; reset: ARB). -/
  ptp : Bool := false
  /-- foreign Announce frames discarded (R338, time.status 17; width 32; reset: DESIGN CHOICE 0, log 3). -/
  foreignAnnounce : Nat := 0
  /-- foreign Sync frames discarded (R338, time.status 17; width 32; reset: DESIGN CHOICE 0, log 3). -/
  foreignSync : Nat := 0
  /-- foreign Follow_Up frames discarded (R338, time.status 17; width 32; reset: DESIGN CHOICE 0, log 3). -/
  foreignFollow : Nat := 0
  /-- Sync and Follow_Up pairs sent per port (T1A, T1B, S0..S3) (R337 12_timebase; width 6 x 32; reset: DESIGN CHOICE 0, log 3). -/
  syncSent : List Nat := List.replicate 6 0
  /-- Announce frames sent per port (R337 12_timebase; width 6 x 32; reset: DESIGN CHOICE 0, log 3). -/
  announceSent : List Nat := List.replicate 6 0
  /-- the latest Announce sent (R337 12_timebase; width 6 fields; reset: none). -/
  announced : Option GptpAnnounce := none
  /-- the latest Sync and Follow_Up sent (R337 12_timebase; width 6 fields; reset: none). -/
  synced : Option GptpSync := none
  /-- Pdelay_Resp answers sent per port (R467 18_network; width 6 x 32; reset: DESIGN CHOICE 0, log 3). -/
  pdelaySent : List Nat := List.replicate 6 0
  /-- receipt stamp of the latest Pdelay_Req answered (R467 18; width 1/256 ns; reset: none). -/
  pdelayStamp : Option Int := none
  /-- RF die's timestamp extension less the TBU, 1/256 ns (R27 01_architecture; width signed; reset: DESIGN CHOICE 0, log 3). -/
  extOffset : Int := 0
  /-- civil time parameters (R335 12_timebase; width struct; reset: cleared). -/
  civil : Civil := {}
  /-- parameters before the last time.civil, for a PPS edge less than 1 ms after it (R339 12_timebase; width struct; reset: cleared). -/
  civilOld : Civil := {}
  /-- shadow sets of the six requesters (R341 12_timebase; width 6 sets; reset: 0). -/
  shadows : List Shadow := List.replicate 6 {}
  deriving DecidableEq, Repr, Inhabited

/-- One of TMR0 to TMR7 (R368, 13_timers). -/
structure Timer where
  /-- TMRn_CTRL (slave, trig, modes, one_shot, en); swtrig reads 0 (R368 13_timers; width 32; reset: 0). -/
  ctrl : Word := 0
  /-- TMRn_PSC, ns (R368 13_timers; width 32; reset: 0x0000_03E8). -/
  psc : Word := 0x3E8
  /-- TMRn_TOP (R368 13_timers; width 32; reset: 0xFFFF_FFFF). -/
  top : Word := 0xFFFFFFFF
  /-- TMRn_CNT (R368 13_timers; width 32; reset: 0). -/
  cnt : Word := 0
  /-- TMRn_CMP0 (R368 13_timers; width 32; reset: 0). -/
  c0 : Word := 0
  /-- TMRn_CMP1 (R368 13_timers; width 32; reset: 0). -/
  c1 : Word := 0
  /-- TMRn_LATE0 (R368 13_timers; width 32; reset: 0). -/
  late0 : Word := 0
  /-- TMRn_LATE1 (R368 13_timers; width 32; reset: 0). -/
  late1 : Word := 0
  /-- CMP0 armed (ATPAST) (R355, R368 13_timers; width 1; reset: 0). -/
  armed0 : Bool := false
  /-- CMP1 armed (ATPAST) (R355, R368 13_timers; width 1; reset: 0). -/
  armed1 : Bool := false
  /-- output level (R351, R368 13_timers; width 1; reset: 0). -/
  out : Bool := false
  /-- cfg_err (R353, R368 13_timers; width 1; reset: 0). -/
  cfgErr : Bool := false
  /-- TMRn_CAPSRC (R368 13_timers; width 6; reset: 0). -/
  capSrc : Word := 0
  /-- captured count, sequence number, ovf (R357 13_timers; width 32+16+1; reset: none). -/
  capEntry : Option (Word × Nat × Bool) := none
  /-- next capture sequence number (R357 13_timers; width 16; reset: DESIGN CHOICE 0, log 3). -/
  capSeq : Nat := 0
  /-- an event was lost since the last stored entry (R357 13_timers; width 1; reset: false). -/
  capLost : Bool := false
  /-- TB_NS of the last tick counted, or start_ns (R348 13_timers; width 64; reset: DESIGN CHOICE 0, log 3). -/
  lastTick : Nat := 0
  deriving DecidableEq, Repr, Inhabited

/-- One of ALM0 to ALM3 (R369, 13_timers). -/
structure Alarm where
  /-- A (R358, R369 13_timers; width 64; reset: 0). -/
  a : BitVec 64 := 0
  /-- ALMm_CTRL frac and wake_en (R369 13_timers; width 32; reset: 0). -/
  ctrl : Word := 0
  /-- armed (R369 13_timers; width 1; reset: 0). -/
  armed : Bool := false
  /-- fired (R369 13_timers; width 1; reset: 0). -/
  fired : Bool := false
  /-- ALMm_LATE (R369 13_timers; width 32; reset: 0). -/
  late : Word := 0
  deriving DecidableEq, Repr, Inhabited

/-- One of CMP0 to CMP3 (R370, 13_timers). -/
structure CmpPin where
  /-- PINm_CTRL (pw, src, action, force) (R370 13_timers; width 32; reset: pw 1, others 0). -/
  ctrl : Word := 0x10000
  /-- level the actions have given the pin (R370 13_timers; width 1; reset: 0). -/
  level : Bool := false
  /-- TB_NS at which a running pulse ends (R361 13_timers; width 64; reset: none). -/
  pulseEnd : Option Nat := none
  deriving DecidableEq, Repr, Inhabited

/-- An entry of a pin capture FIFO (R363, 13_timers). -/
structure CapEntry where
  /-- TB_NS of the edge (R363 13_timers; width 64; reset: n/a). -/
  ns : Nat := 0
  /-- TB_FRAC of the edge (R363 13_timers; width 8; reset: n/a). -/
  frac : Nat := 0
  /-- sequence number (R363 13_timers; width 16; reset: n/a). -/
  seq : Nat := 0
  /-- losses came before (R363 13_timers; width 1; reset: n/a). -/
  ovf : Bool := false
  /-- stamped off the reference (R364 13_timers; width 1; reset: n/a). -/
  coarse : Bool := false
  deriving DecidableEq, Repr, Inhabited

/-- One of CAP0 to CAP3 (R371, 13_timers). -/
structure CapFifo where
  /-- edges selected (R371 13_timers; width 2; reset: 0b00). -/
  edge : Nat := 0
  /-- present level of the CAP pin (R351 13_timers; width 1; reset: DESIGN CHOICE low, log 3). -/
  level : Bool := false
  /-- sequence number of the next edge (R371 13_timers; width 16; reset: 0). -/
  nextSeq : Nat := 0
  /-- entries, oldest first (R363 13_timers; width up to 4; reset: empty). -/
  fifo : List CapEntry := []
  /-- an edge was lost since the last stored entry (R363 13_timers; width 1; reset: false). -/
  lost : Bool := false
  /-- TB_NS of the last edge stored (R364 13_timers; width 64; reset: none). -/
  lastStored : Option Nat := none
  deriving DecidableEq, Repr, Inhabited

/-- The TMR block (13_timers). -/
structure Tmr where
  /-- TMR0 to TMR7 (R368 13_timers; width 8; reset: each at its reset values). -/
  timers : List Timer := List.replicate 8 {}
  /-- ALM0 to ALM3 (R369 13_timers; width 4; reset: each at its reset values). -/
  alarms : List Alarm := List.replicate 4 {}
  /-- CMP0 to CMP3 (R370 13_timers; width 4; reset: each at its reset values). -/
  pins : List CmpPin := List.replicate 4 {}
  /-- CAP0 to CAP3 (R371 13_timers; width 4; reset: each at its reset values). -/
  caps : List CapFifo := List.replicate 4 {}
  /-- TMR_EVT0 (R372 13_timers; width 32; reset: 0). -/
  evt0 : Word := 0
  /-- TMR_EVT1 (R372 13_timers; width 32; reset: 0). -/
  evt1 : Word := 0
  /-- TMR_EVT0_EN (R372 13_timers; width 32; reset: 0). -/
  evt0En : Word := 0
  /-- TMR_EVT1_EN (R372 13_timers; width 32; reset: 0). -/
  evt1En : Word := 0
  deriving DecidableEq, Repr, Inhabited

/-- A batch of one group (R378, 14_event_controller). -/
structure Batch where
  /-- sources (R378 14_event_controller; width 16; reset: n/a). -/
  bitmap : BitVec 16 := 0
  /-- c, saturating at 255 (R378 14_event_controller; width 8; reset: n/a). -/
  count : Nat := 0
  /-- t_first (R378 14_event_controller; width 64; reset: n/a). -/
  tFirst : Nat := 0
  /-- TB_NS of the trigger (R378, R379 14_event_controller; width 64; reset: n/a). -/
  trigger : Nat := 0
  /-- holds a retracted delivery (R381, R393 14_event_controller; width 1; reset: n/a). -/
  retracted : Bool := false
  /-- target passed over after a retraction (R383 14_event_controller; width 4; reset: n/a). -/
  avoid : Option Nat := none
  deriving DecidableEq, Repr, Inhabited

/-- One event group (R392, 14_event_controller). -/
structure EvcGroup where
  /-- EVC_GRPg_EN (R392 14_event_controller; width 16; reset: 0). -/
  srcEn : BitVec 16 := 0
  /-- host_mask, T4 to T9 (R392 14_event_controller; width 6; reset: 0). -/
  hostMask : BitVec 6 := 0
  /-- core_mask, set by Axiesis (R377, R392 14_event_controller; width 4; reset: DESIGN CHOICE 0, log 5). -/
  coreMask : BitVec 4 := 0
  /-- target last chosen (R392 14_event_controller; width 4; reset: 0xF). -/
  last : Nat := 15
  /-- cnt_thr (R392 14_event_controller; width 8; reset: 1). -/
  cntThr : Nat := 1
  /-- time_us (R392 14_event_controller; width 16; reset: 1). -/
  timeUs : Nat := 1
  /-- collecting batch (R378 14_event_controller; width batch; reset: none). -/
  collecting : Option Batch := none
  /-- due and undelivered batches, oldest first (R378, R384 14_event_controller; width batches; reset: empty). -/
  due : List Batch := []
  deriving DecidableEq, Repr, Inhabited

/-- An outstanding delivery to T4..T9 (R380, R393, 14_event_controller). -/
structure HostDelivery where
  /-- delivery sequence number (R380 14_event_controller; width 16; reset: n/a). -/
  seq : Nat := 0
  /-- group (R380 14_event_controller; width 4; reset: n/a). -/
  group : Nat := 0
  /-- the batch delivered (R380 14_event_controller; width batch; reset: n/a). -/
  batch : Batch := {}
  /-- TB_NS of the delivery (R383 14_event_controller; width 64; reset: n/a). -/
  madeNs : Nat := 0
  deriving DecidableEq, Repr, Inhabited

/-- One host target T4..T9 (R393, 14_event_controller). -/
structure HostTarget where
  /-- outstanding delivery (R393 14_event_controller; width delivery; reset: none). -/
  dlv : Option HostDelivery := none
  /-- retractions since reset (R393 14_event_controller; width 16; reset: 0). -/
  retracts : Nat := 0
  /-- claim_err (R393 14_event_controller; width 1; reset: 0). -/
  claimErr : Bool := false
  /-- claim_ok (R393 14_event_controller; width 1; reset: 0). -/
  claimOk : Bool := false
  /-- TB_NS before which the line stays released after a retraction (R383 14_event_controller; width 64; reset: DESIGN CHOICE 0, log 3). -/
  holdoff : Nat := 0
  deriving DecidableEq, Repr, Inhabited

/-- The event controller (14_event_controller). -/
structure Evc where
  /-- EVC_CTRL (R391 14_event_controller; width 32; reset: wake_rep 0x0A, wake_pw 0x0A, claim_to 0x07D0). -/
  ctrl : Word := 0x0A0A07D0
  /-- event groups (R392 14_event_controller; width 16; reset: reset values). -/
  groups : List EvcGroup := List.replicate 16 {}
  /-- T4 to T9 (R393 14_event_controller; width 6; reset: no delivery). -/
  targets : List HostTarget := List.replicate 6 {}
  /-- deliveries queued to T0 to T3: seq, group, batch (R376, R379 14_event_controller; width 4 queues; reset: empty). -/
  coreQ : List (List (Nat × Nat × Batch)) := [[], [], [], []]
  /-- next delivery sequence number (R380 14_event_controller; width 16; reset: DESIGN CHOICE 0, log 3). -/
  seq : Nat := 0
  /-- EVC_FLUSH.groups (R391 14_event_controller; width 16; reset: 0). -/
  flushGroups : Nat := 0
  /-- EVC_FLUSH.events (R391 14_event_controller; width 16; reset: 0). -/
  flushEvents : Nat := 0
  /-- EVC_NOTGT (R391 14_event_controller; width 16; reset: 0). -/
  noTgt : BitVec 16 := 0
  /-- EVC_WAKE_CNT (R391 14_event_controller; width 16; reset: 0). -/
  wakePulses : Nat := 0
  /-- TB_NS at which a WAKE_OUT pulse ends (R385 14_event_controller; width 64; reset: low). -/
  wakeOutEnd : Option Nat := none
  /-- TB_NS of each group's last WAKE_OUT pulse for its due batch (R384 14_event_controller; width 16 x 64; reset: none). -/
  wakeLast : List (Option Nat) := List.replicate 16 none
  /-- event frames sent, oldest first, each with its destination (R381 14_event_controller; width ((address, port), 32-byte payload); reset: empty). -/
  frames : List ((Nat × Nat) × List Byte) := []
  /-- events held at their sources while PD6 is gated (R389 14_event_controller; width (group, source); reset: empty). -/
  held : List (Nat × Nat) := []
  /-- a management peer is known on T1A, T1B (R376, R381 14_event_controller; width 2; reset: false). -/
  mgmtPeer : List Bool := [false, false]
  /-- address and port of the most recent management command on T1A, T1B (R381 14_event_controller; width 2 x (128, 16); reset: DESIGN CHOICE 0, log 3). -/
  mgmtAddr : List (Nat × Nat) := [(0, 0), (0, 0)]
  deriving DecidableEq, Repr, Inhabited

/-- The power controller (R502, 19_power_states). -/
structure Psc where
  /-- power state; nunatakHold after line loss (R482, R502 19_power_states; width 2; reset: Run (0b00)). -/
  state : PowerState := .run
  /-- PSC_STATE.vote (R487, R502 19_power_states; width 1; reset: 0). -/
  vote : Bool := false
  /-- PSC_STATE.trim_wait (R487, R502 19_power_states; width 1; reset: 0). -/
  trimWait : Bool := false
  /-- PSC_STATE.powered (R502 19_power_states; width 14; reset: 0x3FFF). -/
  powered : BitVec 14 := 0x3FFF
  /-- PSC_HOST_SLEEP (R386, R502 19_power_states; width 6; reset: 0). -/
  hostSleep : BitVec 6 := 0
  /-- PSC_WAKE_EN (R491, R502 19_power_states; width 14; reset: 0x23BF). -/
  wakeEn : Word := 0x23BF
  /-- PSC_WAKE.src (R502 19_power_states; width 8; reset: 0xFF). -/
  wakeSrc : Nat := 0xFF
  /-- PSC_WAKE.from (R502 19_power_states; width 8; reset: 0x00). -/
  wakeFrom : Nat := 0
  /-- wake_count (R487, R502 19_power_states; width 32; reset: 0). -/
  wakeCount : Nat := 0
  /-- reason recorded with the last frame wake (R424 16_mailboxes; width 32; reset: DESIGN CHOICE 0, log 3). -/
  wakeReason : Word := 0
  /-- PSC_VOTE.rollbacks (R489, R502 19_power_states; width 16; reset: 0). -/
  rollbacks : Nat := 0
  /-- PSC_VOTE.last_veto (R489, R502 19_power_states; width 8; reset: 0xFF). -/
  lastVeto : Nat := 0xFF
  /-- PSC_WFAIL.eth (R494, R502 19_power_states; width 16; reset: 0). -/
  wfailEth : Nat := 0
  /-- PSC_WFAIL.spi (R424, R502 19_power_states; width 16; reset: 0). -/
  wfailSpi : Nat := 0
  /-- last VRES measurement, mV (R501, R502 19_power_states; width 16; reset: DESIGN CHOICE 0 (live), log 3). -/
  vres : Nat := 0
  /-- vres_min (R501, R502 19_power_states; width 16; reset: 0x0898). -/
  vresMin : Nat := 2200
  /-- TB_NS of the last VRES event (R501 19_power_states; width 64; reset: none). -/
  vresEvent : Option Nat := none
  /-- VRES has been exhausted since line power was lost (R500 19_power_states; width 1; reset: false). -/
  vresOut : Bool := false
  /-- target of the entry in progress (R487 19_power_states; width 2; reset: none). -/
  entry : Option PowerState := none
  /-- the commit of the entry has begun (R487, R489 19_power_states; width 1; reset: false). -/
  committed : Bool := false
  /-- domains the present target keeps powered (R485 19_power_states; width 14; reset: 0). -/
  keep : BitVec 14 := 0
  /-- domains gated by the present entry, latest first (R488, R489 19_power_states; width domains; reset: empty). -/
  gatedNow : List Nat := []
  /-- mailbox whose pwr.sleep is ISSUED (R454 17_command_reference; width 3; reset: none). -/
  sleepMb : Option Nat := none
  /-- TB_NS of the last entry (R454 17_command_reference; width 64; reset: DESIGN CHOICE 0, log 3). -/
  entryNs : Nat := 0
  /-- TB_NS of the last wake (R454 17_command_reference; width 64; reset: DESIGN CHOICE 0, log 3). -/
  wakeNs : Nat := 0
  /-- code of a wake in progress (R493, R495 19_power_states; width 8; reset: none). -/
  waking : Option Nat := none
  /-- PD5 is being woken for a self-test after an iterated-core alarm (R264 09_cipher_engine; width 1; reset: false). -/
  pdSelfTest : Bool := false
  deriving DecidableEq, Repr, Inhabited

/-- The PAD block (R503, 19_power_states). -/
structure Pad where
  /-- PAD_FRZ (R503 19_power_states; width 14; reset: 0). -/
  frz : BitVec 14 := 0
  /-- PAD_REL (R503 19_power_states; width 14; reset: 0). -/
  rel : BitVec 14 := 0
  /-- PAD_GPIO_DIR (R503 19_power_states; width 16; reset: 0). -/
  gpioDir : BitVec 16 := 0
  /-- PAD_GPIO_OUT (R503 19_power_states; width 16; reset: 0). -/
  gpioOut : BitVec 16 := 0
  /-- levels at the GPIO pins from outside (R503 19_power_states; width 16; reset: DESIGN CHOICE 0 (live), log 3). -/
  gpioIn : BitVec 16 := 0
  /-- PAD_GPIO_PULL (R503 19_power_states; width 32; reset: 0x5555_5555). -/
  gpioPull : Word := 0x55555555
  /-- PAD_GPIO_EDGE (R503 19_power_states; width 32; reset: 0). -/
  gpioEdge : Word := 0
  /-- PAD_GPIO_WAKE (R503 19_power_states; width 16; reset: 0). -/
  gpioWake : BitVec 16 := 0
  /-- pad freeze holds the latch-control lines (R497 19_power_states; width 1; reset: DESIGN CHOICE false, log 3). -/
  latchHold : Bool := false
  deriving DecidableEq, Repr, Inhabited

/-- The three layers (R524, 21_configuration_and_boot); key = record x 0x10000 + field. -/
structure CfgStore where
  /-- values the image in force carries (R524 21; width values; reset: empty (R544)). -/
  image : List (Nat × Int) := []
  /-- values set by cfg.set or lf.tune (R524, R450 21; width values; reset: empty). -/
  runtime : List (Nat × Int) := []
  /-- PARTNERS records carried by the image (R55, R528 21; width 16 x 64 bytes; reset: empty). -/
  partners : List (Nat × List Byte) := []
  deriving DecidableEq, Repr, Inhabited

/-- One mailbox (R428 to R436, 16_mailboxes). -/
structure Mailbox where
  /-- state (R428, R438 16_mailboxes; width 2; reset: FREE). -/
  st : MbState := .free
  /-- command area MBn_CMD0..63 (R439 16_mailboxes; width 64 x 32; reset: 0). -/
  cmd : List Word := List.replicate 64 0
  /-- the command as copied at the ring (R432 16_mailboxes; width 256 bytes; reset: empty). -/
  run : List Byte := []
  /-- a role has started it (R433 16_mailboxes; width 1; reset: false). -/
  started : Bool := false
  /-- running, its result awaits a later happening (R434, R447 16/17; width 1; reset: false). -/
  waiting : Bool := false
  /-- a command that waits has reached its commit point (R434, R447 16/17; width 1; reset: false). -/
  committed : Bool := false
  /-- TB_NS at the ring (R434 16_mailboxes; width 64; reset: DESIGN CHOICE 0, log 3). -/
  ringNs : Nat := 0
  /-- order of the ring (R433 16_mailboxes; width order; reset: DESIGN CHOICE 0, log 3). -/
  ringSeq : Nat := 0
  /-- result area (R430, R439 16_mailboxes; width 64 x 32; reset: scrubbed). -/
  res : List Word := List.replicate 64 0
  /-- reads of MBn_RES0 since posting (R435 16_mailboxes; width count; reset: 0). -/
  reads : Nat := 0
  /-- window whose busy count the command raised (R410 15_memory_and_fabric; width 4; reset: none). -/
  winHeld : Option Nat := none
  /-- layers in force at the admission, once a new image has come since (R455 17_command_reference; width layers; reset: none). -/
  cfgWas : Option CfgStore := none
  /-- root key of KS1 in force at the admission of a cfg.activate; none while KS1 was EMPTY (R545 21_configuration_and_boot; width 256; reset: none). -/
  imageKey : Option (List Byte) := none
  deriving DecidableEq, Repr, Inhabited

/-- A management reply kept for 1 s (R427, 16_mailboxes). -/
structure KeptReply where
  /-- source address (R427 16_mailboxes; width 128; reset: n/a). -/
  addr : Nat := 0
  /-- source port (R427 16_mailboxes; width 16; reset: n/a). -/
  port : Nat := 0
  /-- req_seq (R427 16_mailboxes; width 16; reset: n/a). -/
  reqSeq : Nat := 0
  /-- the reply (R426 16_mailboxes; width bytes; reset: n/a). -/
  reply : List Byte := []
  /-- TB_NS of the reply (R427 16_mailboxes; width 64; reset: n/a). -/
  madeNs : Nat := 0
  deriving DecidableEq, Repr, Inhabited

/-- Mailboxes and host access (16_mailboxes). -/
structure Mbx where
  /-- MBX_STATUS.ready (R438 16_mailboxes; width 1; reset: 0). -/
  ready : Bool := false
  /-- MB0 to MB7 (R428 16_mailboxes; width 8; reset: FREE). -/
  boxes : List Mailbox := List.replicate 8 {}
  /-- db_err (R438 16_mailboxes; width 8; reset: 0). -/
  dbErr : BitVec 8 := 0
  /-- wr_err (R438 16_mailboxes; width 8; reset: 0). -/
  wrErr : BitVec 8 := 0
  /-- ack_err (R438 16_mailboxes; width 8; reset: 0). -/
  ackErr : BitVec 8 := 0
  /-- MBX_SPI_CFG.dev_addr (R422, R438 16_mailboxes; width 8; reset: 0x01). -/
  devAddr : Nat := 1
  /-- MBX_SPI_CFG.rd_wait (R438 16_mailboxes; width 4; reset: 0x2). -/
  rdWait : Nat := 2
  /-- MBX_SPI_CNT.crc (R438 16_mailboxes; width 16; reset: 0). -/
  spiCrc : Nat := 0
  /-- MBX_SPI_CNT.other (R438 16_mailboxes; width 16; reset: 0). -/
  spiOther : Nat := 0
  /-- MBX_ETH_CNT.dup (R438 16_mailboxes; width 16; reset: 0). -/
  ethDup : Nat := 0
  /-- MBX_ETH_CNT.dropped (R438 16_mailboxes; width 16; reset: 0). -/
  ethDropped : Nat := 0
  /-- kept replies, newest first (R427 16_mailboxes; width up to 16; reset: empty). -/
  kept : List KeptReply := []
  /-- rings so far (R433 16_mailboxes; width order; reset: DESIGN CHOICE 0, log 3). -/
  ringSeq : Nat := 0
  /-- what the device drove on SDO in the last frame (R418, R420 16_mailboxes; width bytes; reset: empty). -/
  sdo : List Byte := []
  /-- last management reply (R426 16_mailboxes; width bytes; reset: empty). -/
  mgmtOut : List Byte := []
  /-- word returned by the last register read command (R14 00_scope (model's output field); width 32; reset: DESIGN CHOICE 0, log 6). -/
  lastRead : Word := 0
  /-- management requests waiting (R427 16_mailboxes; width 6; reset: 0). -/
  mgmtQueue : Nat := 0
  deriving DecidableEq, Repr, Inhabited

/-- A firmware bank's standing (R537 to R542, fw.status 17). -/
structure FwBank where
  /-- 0 empty, 1 written, 2 verified, 3 active, 4 trial (fw.status 17_command_reference; width 8; reset: DESIGN CHOICE 0 empty (bank A active 3), log 7). -/
  st : Nat := 0
  /-- version (R537 21_configuration_and_boot; width 32; reset: DESIGN CHOICE 0, log 7). -/
  version : Nat := 0
  /-- bytes written (fw.status 17; width 32; reset: DESIGN CHOICE 0, log 7). -/
  written : Nat := 0
  /-- meton_max of the firmware (R537 21_configuration_and_boot; width 8; reset: DESIGN CHOICE 1, log 7). -/
  metonMax : Nat := 1
  /-- marked refused after an uncorrectable line (R509 20_resilience_and_tamper; width 1; reset: DESIGN CHOICE false, log 7). -/
  refused : Bool := false
  deriving DecidableEq, Repr, Inhabited

/-- A Meton bank's standing (cfg.status 17, R532). -/
structure MetonBank where
  /-- 0 empty, 1 unverified, 2 verified, 3 active, 4 refused (cfg.status 17_command_reference; width 8; reset: 0 empty (R544)). -/
  st : Nat := 0
  /-- bank seal as written to the boot record (R533, R536 21; width 16 bytes; reset: DESIGN CHOICE empty, log 7). -/
  bankSeal : List Byte := []
  /-- a line of the bank reads uncorrectable (R534 21; width 1; reset: DESIGN CHOICE false, log 7). -/
  bad : Bool := false
  /-- highest bank offset written + 1, since the load that began at bank_ofs 0 (cfg.load 17_command_reference; width 32; reset: DESIGN CHOICE 0, log 7). -/
  written : Nat := 0
  deriving DecidableEq, Repr, Inhabited

/-- Boot record, banks, identification (R440, R536, R540, 16 and 21). -/
structure Boot where
  /-- boot phase (R540 21_configuration_and_boot; width state; reset: in reset). -/
  phase : BootPhase := .inReset
  /-- reset_cause (R440 16_mailboxes, sys.info 17; width 8; reset: 0x00). -/
  resetCause : Nat := 0
  /-- TB_NS of the reset's release (R541 21; width 64; reset: DESIGN CHOICE 0, log 3). -/
  releaseNs : Nat := 0
  /-- TB_NS at which ready set (sys.info boot_ns 17; width 64; reset: DESIGN CHOICE 0, log 3). -/
  readyNs : Nat := 0
  /-- boot_count (R540, sys.info 17; width 32; reset: DESIGN CHOICE 0, log 7). -/
  bootCount : Nat := 0
  /-- IDH_FW (R440 16_mailboxes; width 32; reset: 0). -/
  fwVersion : Nat := 0
  /-- bank running (R440 16_mailboxes; width 1; reset: 0). -/
  fwRunning : Nat := 0
  /-- active firmware bank (R536 21; width 1; reset: DESIGN CHOICE bank A, log 7). -/
  fwActive : Nat := 0
  /-- trial bank (R536 21; width 1; reset: DESIGN CHOICE none, log 7). -/
  fwTrial : Option Nat := none
  /-- trial boot count (R536, R541 21; width 8; reset: DESIGN CHOICE 0, log 7). -/
  trialCount : Nat := 0
  /-- confirmed firmware version floor (R536 21; width 32; reset: DESIGN CHOICE 0, log 7). -/
  fwFloor : Nat := 0
  /-- rollbacks (R542, fw.status 17; width 16; reset: DESIGN CHOICE 0, log 7). -/
  fwRollbacks : Nat := 0
  /-- banks A and B (R537 21; width 2; reset: DESIGN CHOICE A active, log 7). -/
  fwBanks : List FwBank := [{ st := 3 }, {}]
  /-- active Meton bank (R534, R536, R544 21; width 1; reset: none (R544)). -/
  metonActive : Option Nat := none
  /-- banks A and B (R525, R532 21; width 2; reset: empty (R544)). -/
  metonBanks : List MetonBank := [{}, {}]
  /-- record x 0x10000 + field of the last refusal (R530, cfg.status 17; width 32; reset: DESIGN CHOICE 0, log 3). -/
  lastRefusal : Nat := 0
  /-- production lock (R536, R543 21; width 1; reset: DESIGN CHOICE false (R544 new part), log 7). -/
  locked : Bool := false
  /-- IDH_SCRATCH (R440 16_mailboxes; width 32; reset: 0). -/
  scratch : Word := 0
  /-- recovery cause recorded in Nunatak (R512, R515 20; width 8; reset: none). -/
  pendingRecovery : Option Nat := none
  /-- partner records of a first image have been installed (R55 02_partners; width 1; reset: DESIGN CHOICE false, log 7). -/
  firstImageDone : Bool := false
  /-- firmware banks tried since the reset (R541 21; width banks; reset: empty). -/
  tried : List Nat := []
  /-- TB_NS of the last pair self-tests of boot (R507 20; width 64; reset: DESIGN CHOICE 0, log 3). -/
  testNs : Nat := 0
  /-- the EPOCH entry of the present epoch is still to be appended (R315 11, R540 21; width 1; reset: true (a power-on reset)). -/
  epochDue : Bool := true
  /-- health and FIRMWARE entries that await Moraine at boot: code, bank or unit, detail or outcome (R541, R542, R567 21/22; width entries; reset: empty). -/
  due : List (Nat × Nat × Nat) := []
  deriving DecidableEq, Repr, Inhabited

/-- A host window HWn (R408, R412, 15_memory_and_fabric). -/
structure HostWindow where
  /-- HBW_WINn_CFG (R412 15_memory_and_fabric; width 32; reset: 0). -/
  cfg : Word := 0
  /-- commands admitted that name the window (R412 15_memory_and_fabric; width 8; reset: 0). -/
  busy : Nat := 0
  /-- cfg_err (R412 15_memory_and_fabric; width 1; reset: 0). -/
  cfgErr : Bool := false
  /-- held_write (R412 15_memory_and_fabric; width 1; reset: 0). -/
  heldWrite : Bool := false
  /-- held_read (R412 15_memory_and_fabric; width 1; reset: 0). -/
  heldRead : Bool := false
  deriving DecidableEq, Repr, Inhabited

/-- A fault record (R404, 15_memory_and_fabric). -/
structure FaultRec where
  /-- rec_seq (R404 15; width 16; reset: n/a). -/
  recSeq : Nat := 0
  /-- requester code (R405 15; width 8; reset: n/a). -/
  requester : Nat := 0
  /-- kind (R401 15; width 8; reset: n/a). -/
  kind : Nat := 0
  /-- 0 read, 1 write, 2 table walk (R404 15; width 8; reset: n/a). -/
  access : Nat := 0
  /-- channel, or network direction (R404 15; width 8; reset: n/a). -/
  sub : Nat := 0
  /-- virtual address (R404 15; width 32; reset: n/a). -/
  vaddr : Word := 0
  /-- descriptor's seq (R404 15; width 32; reset: n/a). -/
  descRef : Nat := 0
  /-- bytes transferred before the fault (R404 15; width 32; reset: n/a). -/
  bytesDone : Nat := 0
  /-- epoch (R404 15; width 32; reset: n/a). -/
  epoch : Nat := 0
  /-- TB_NS (R404 15; width 64; reset: n/a). -/
  ns : Nat := 0
  /-- false while the role's queue is full and the requester only stalls (R403 15; width 1; reset: n/a). -/
  queued : Bool := true
  /-- TB_NS at which the FTU aborts it (R406 15; width 64; reset: n/a). -/
  dueNs : Nat := 0
  deriving DecidableEq, Repr, Inhabited

/-- Translation, faults, windows, arbitration (15_memory_and_fabric). -/
structure Fabric where
  /-- HW0 to HW15 (R408 15; width 16; reset: disabled). -/
  windows : List HostWindow := List.replicate 16 {}
  /-- HBW_FAULT (R412 15; width 32; reset: 0). -/
  faultReg : Word := 0
  /-- HBW_FCNT (R412 15; width 16; reset: 0). -/
  faultCnt : Nat := 0
  /-- held SRAM pages, each with the message that holds it: c for the present message of channel c, c + 32 for its suspended one (R399 15; width 2,048 bits with owners; reset: empty). -/
  heldPages : List (Nat × Nat) := []
  /-- level-1 table base of each requester's translation context (R398 15; width 20 x 32; reset: DESIGN CHOICE 0, log 8). -/
  tables : List Word := List.replicate 20 0
  /-- translation caches: requester, virtual page, level-2 entry (R400 15; width 20 x 16 entries; reset: empty). -/
  tlb : List (Nat × Word × Word) := []
  /-- unresolved faults in the order they occurred (R403 15; width 4 x 64 records and stalled requesters; reset: empty). -/
  faults : List FaultRec := []
  /-- rec_seq per owning role (R404 15; width 4 x 16; reset: DESIGN CHOICE 0, log 3). -/
  recSeqs : List Nat := [0, 0, 0, 0]
  /-- faults by requester (R406, diag.faults 17; width 20 x 32; reset: DESIGN CHOICE 0, log 3). -/
  reqCounts : List Nat := List.replicate 20 0
  /-- faults by kind (R406, diag.faults 17; width 5 x 32; reset: DESIGN CHOICE 0, log 3). -/
  kindCounts : List Nat := List.replicate 5 0
  /-- faults aborted (diag.faults 17; width 16; reset: DESIGN CHOICE 0, log 3). -/
  aborted : Nat := 0
  /-- requesters with a request outstanding (R413 15; width 20; reset: DESIGN CHOICE idle, log 3). -/
  active : List Bool := List.replicate 20 false
  /-- requesters of the present round, in grant order (R413 15; width grants; reset: empty). -/
  round : List Nat := []
  /-- deadline flags of RF capture and the impulse-response writer (R415 15; width 2; reset: DESIGN CHOICE false, log 3). -/
  deadline : List Bool := [false, false]
  /-- flagged requester served last (R415 15; width 1; reset: DESIGN CHOICE 1, log 3). -/
  lastDeadline : Nat := 1
  /-- transfers in flight (R416 15; width count; reset: 0). -/
  transfers : Nat := 0
  /-- poisoned 64-bit SRAM words, by index (R508 20; width 2^20 words; reset: empty). -/
  poison : List Nat := []
  deriving DecidableEq, Repr, Inhabited

/-- A partner record (R44, 02_partners); a free record is absent from the table list. -/
structure PartRec where
  /-- identity (R44 02_partners; width 64; reset: n/a). -/
  identity : Nat := 0
  /-- kind (R44 02_partners; width 8; reset: n/a). -/
  kind : Nat := 0
  /-- role (R44, R45 02_partners; width 8; reset: n/a). -/
  role : Nat := 0
  /-- state (R44, R48 02_partners; width 8; reset: n/a). -/
  state : PartState := .free
  /-- root slot (R44 02_partners; width 4; reset: n/a). -/
  slot : Nat := 0
  /-- key_epoch (R44 02_partners; width 32; reset: n/a). -/
  keyEpoch : Nat := 0
  /-- zones (R44 02_partners; width 16; reset: n/a). -/
  zones : BitVec 16 := 0
  /-- flags[0] (R44 02_partners; width 1; reset: n/a). -/
  releaseOk : Bool := false
  /-- flags[1] (R44 02_partners; width 1; reset: n/a). -/
  metonOrigin : Bool := false
  /-- flags[2] (R44 02_partners; width 1; reset: n/a). -/
  misplaced : Bool := false
  /-- attach (R46 02_partners; width 8; reset: n/a). -/
  attach : Nat := 0xFF
  /-- fail_count (R44, R58 02_partners; width 8; reset: n/a). -/
  failCount : Nat := 0
  /-- update_seq (R42 02_partners; width 16; reset: n/a). -/
  updateSeq : Nat := 0
  /-- stamp_epoch (R44 02_partners; width 32; reset: n/a). -/
  stampEpoch : Nat := 0
  /-- seen_epoch (R44 02_partners; width 32; reset: n/a). -/
  seenEpoch : Nat := 0
  /-- last_fail_ns (R44 02_partners; width 64; reset: n/a). -/
  lastFailNs : Nat := 0
  /-- decay_ref_ns (R44 02_partners; width 64; reset: n/a). -/
  decayRefNs : Nat := 0
  /-- last_seen_ns (R44 02_partners; width 64; reset: n/a). -/
  lastSeenNs : Nat := 0
  /-- miss_count (R44 02_partners; width 32; reset: n/a). -/
  missCount : Nat := 0
  /-- candidate made by removal (R48 02_partners; width 1; reset: n/a). -/
  removed : Bool := false
  deriving DecidableEq, Repr, Inhabited

/-- An attachment counter (R47, 02_partners). -/
structure AttachCtr where
  /-- count (R47 02_partners; width 8; reset: 0). -/
  count : Nat := 0
  /-- last-failure stamp (R47 02_partners; width 64; reset: DESIGN CHOICE 0, log 3). -/
  lastFailNs : Nat := 0
  /-- decay stamp (R47 02_partners; width 64; reset: DESIGN CHOICE 0, log 3). -/
  decayRefNs : Nat := 0
  /-- stamp epoch (R47 02_partners; width 32; reset: DESIGN CHOICE 0, log 3). -/
  stampEpoch : Nat := 0
  deriving DecidableEq, Repr, Inhabited

/-- A failure summary in progress (R66, 02_partners). -/
structure AuthSum where
  /-- identity, 0 for an attachment point (R66 02_partners; width 64; reset: n/a). -/
  identity : Nat := 0
  /-- attachment point, 0xFF for an identity (R66 02_partners; width 8; reset: n/a). -/
  attach : Nat := 0xFF
  /-- failures so far in the hour (R66 02_partners; width 16; reset: n/a). -/
  failures : Nat := 0
  /-- the count has stood at 9 or more after a failure of the hour, so that the summary is appended (R66 02_partners; width 1; reset: n/a). -/
  high : Bool := false
  /-- hour start (R66 02_partners; width 64; reset: n/a). -/
  hourNs : Nat := 0
  deriving DecidableEq, Repr, Inhabited

/-- part.enrol in progress (R52, 02_partners). -/
structure Enrolment where
  /-- mailbox (R52 02_partners; width 3; reset: n/a). -/
  mb : Nat := 0
  /-- identity (R52 02_partners; width 64; reset: n/a). -/
  identity : Nat := 0
  /-- role (R52 02_partners; width 8; reset: n/a). -/
  role : Nat := 0
  /-- root slot (R52 02_partners; width 4; reset: n/a). -/
  slot : Nat := 0
  /-- zones (R52 02_partners; width 16; reset: n/a). -/
  zones : BitVec 16 := 0
  /-- release_ok (R52 02_partners; width 1; reset: n/a). -/
  releaseOk : Bool := false
  /-- attachment point, 0xFF for none (R52 02_partners; width 8; reset: n/a). -/
  attach : Nat := 0xFF
  /-- 1 once a module's one exchange has been requested (R52 02_partners; width 1; reset: n/a). -/
  stage : Nat := 0
  /-- TB_NS of a node's first challenge (R462 18; width 64; reset: n/a). -/
  sentNs : Nat := 0
  /-- challenge of a module's addressed exchange (R52, R114 02/04; width 96; reset: n/a). -/
  challenge : Nat := 0
  /-- the downlink frame of that exchange (R109, R112 04; width up to 108; reset: n/a). -/
  frame : List Bool := []
  /-- its expected response (R115 04; width 64; reset: n/a). -/
  expected : Option (List Byte) := none
  deriving DecidableEq, Repr, Inhabited

/-- The partner area (02_partners). -/
structure Parts where
  /-- records in use by table index, rising (R42 02_partners; width 1024 x 64 bytes x 2 copies; reset: empty (R544)). -/
  table : List (Nat × PartRec) := []
  /-- the valid copy that is not current, by table index: whether it lies at the lower address, and what it holds (R42 02_partners; width 1024 x 64 bytes; reset: empty (R544)). -/
  other : List (Nat × Bool × PartRec) := []
  /-- attachment counters: 0..15 antennas, 16..63 coils, 64..95 nodes (R47 02_partners; width 96; reset: count 0). -/
  attach : List AttachCtr := List.replicate 96 {}
  /-- summaries in progress (R66 02_partners; width summaries; reset: empty). -/
  sums : List AuthSum := []
  /-- TB_NS at which an open service-enrolment window closes (R54 02_partners; width 64; reset: none). -/
  window : Option Nat := none
  /-- partners the window has enrolled (R54 02_partners; width 4; reset: 0). -/
  windowUsed : Nat := 0
  /-- TB_NS and epoch of the last verified service-key presence (R67, R278 02/10; width 64 + 32; reset: none). -/
  service : Option (Nat × Nat) := none
  /-- last seq accepted per lessor identity (R311 11_metering; width per lessor 32; reset: empty (0)). -/
  lessorSeq : List (Nat × Nat) := []
  /-- part.enrol in progress: mailbox, identity, role, slot, zones, release_ok, attach, stage (R52 02_partners; width struct; reset: none). -/
  enrol : Option Enrolment := none
  deriving DecidableEq, Repr, Inhabited

/-- A resonance measurement (R76, 03_lf_field_array). -/
structure LfResult where
  /-- f0 to 25 Hz, in Hz (R76 03; width 32; reset: n/a). -/
  f0 : Nat := 0
  /-- Q in 0.1 (R76 03; width 16; reset: n/a). -/
  q : Nat := 0
  /-- Rs in 10 mOhm (R76 03; width 16; reset: n/a). -/
  rs : Nat := 0
  /-- L in 0.1 uH (R76 03; width 32; reset: n/a). -/
  l : Nat := 0
  /-- TB_NS (R76 03; width 64; reset: n/a). -/
  ns : Nat := 0
  /-- epoch (R76 03; width 32; reset: n/a). -/
  epoch : Nat := 0
  deriving DecidableEq, Repr, Inhabited

/-- One LF channel (03_lf_field_array). -/
structure LfChan where
  /-- last result since reset (R76 03; width struct; reset: none). -/
  result : Option LfResult := none
  /-- condition bits 0..8 of R452 and bit 9 excluded (R78, R452 03/17; width 10; reset: 0). -/
  cond : BitVec 16 := 0
  /-- carrier k of the present or last burst (R77 03; width 10; reset: 200, 125 kHz (R528)). -/
  carrier : Nat := 200
  /-- TB_NS of overcurrent trips in the last 60 s (R78 03; width stamps; reset: empty). -/
  trips : List Nat := []
  deriving DecidableEq, Repr, Inhabited

/-- An LF burst request or burst in flight (R91 to R99, 03_lf_field_array). -/
structure Burst where
  /-- request order (R92 03; width id; reset: n/a). -/
  id : Nat := 0
  /-- class (R92 03; width 2; reset: n/a). -/
  cls : LfClass := .diag
  /-- request time (R92 03; width 64; reset: n/a). -/
  reqNs : Nat := 0
  /-- parts: wake pattern then positions; one part for other classes; full targets (R82, R91 03; width (channel, mA) lists; reset: n/a). -/
  parts : List (List (Nat × Nat)) := []
  /-- phasing sets named by the request: the wake pattern's, then the eight positions', none for one that names none (R82, R93 03; width sets; reset: n/a). -/
  sets : List (Option Nat) := []
  /-- currents applied (R94 03; width (channel, mA) lists; reset: n/a). -/
  scaled : List (List (Nat × Nat)) := []
  /-- phases driven on each part, with 180 degrees added on an antenna whose polarity bit is set (R81 03; width (channel, 22.5 degrees) lists; reset: n/a). -/
  phases : List (List (Nat × Nat)) := []
  /-- scale x 10,000 (R94, R188 03/06; width 16; reset: n/a). -/
  scale : Nat := 10000
  /-- wake configuration (R93 03; width 3; reset: n/a). -/
  config : Nat := 0
  /-- time phase of a population exchange (R88 03; width 2; reset: n/a). -/
  phase : Nat := 0
  /-- phasing set of an lf.phase burst (R452 17; width set; reset: n/a). -/
  test : Option Nat := none
  /-- mailboxes that share the result (R93, R97 03; width mailboxes; reset: n/a). -/
  mbs : List Nat := []
  /-- channels off for the rest of the burst (R73 03; width channels; reset: n/a). -/
  tripped : List Nat := []
  /-- identity an addressed session is for (R52, R451 02/17; width 64; reset: n/a). -/
  addressed : Option Nat := none
  /-- a request for every key and an addressed one have merged (R93 03; width 1; reset: n/a). -/
  shared : Bool := false
  /-- further identities addressed by requests that merged into this one (R93 03; width identities; reset: n/a). -/
  also : List Nat := []
  /-- follow-ups that came before in the chain (R184 06; width 2; reset: n/a). -/
  followUps : Nat := 0
  /-- a follow-up's chain so far: its first round_seq, its first wake_ns, its lowest scale, and its counts of admitted, present, clean and collision (R184, R189 06; width struct; reset: n/a). -/
  chain : Option (Nat × Nat × Nat × List Nat) := none
  /-- TB_NS of the burst's start (R166 06; width 64; reset: n/a). -/
  startNs : Nat := 0
  /-- deferred at least once (R97 03; width 1; reset: n/a). -/
  restarted : Bool := false
  deriving DecidableEq, Repr, Inhabited

/-- The LF array and its scheduler (03_lf_field_array). -/
structure Lf where
  /-- channel index c of R452: 0..15 LFF, 16..63 LFT (R69 03; width 64; reset: reset values). -/
  chans : List LfChan := List.replicate 64 {}
  /-- waiting and deferred requests (R92, R97 03; width requests; reset: empty). -/
  waiting : List Burst := []
  /-- bursts in flight (R92 03; width bursts; reset: empty). -/
  flight : List Burst := []
  /-- request counter (R92 03; width order; reset: 0). -/
  nextId : Nat := 0
  /-- P_avail (R90 03; width mW; reset: DESIGN CHOICE 0, log 3). -/
  pAvail : Nat := 0
  /-- P_rest in force (R90 03; width mW; reset: 5.0 W (R90)). -/
  pRest : Nat := 5000
  /-- 1 ms averages of the input power without the LF converters (R90 03; width 100 ms of (TB_NS, mW); reset: empty). -/
  restLog : List (Nat × Nat) := []
  /-- P_LF (R90 03; width mW; reset: 0 (P_avail 0)). -/
  pLf : Nat := 0
  /-- VLF set point in force (R70 03; width mV; reset: 24.0 V (R70)). -/
  vlf : Nat := 24000
  /-- VLF of a new image waiting for the field bursts to end (R70 03; width mV; reset: none). -/
  vlfPending : Option Nat := none
  /-- TB_NS of the last derating event (R98 03; width 64; reset: none). -/
  lastDerate : Option Nat := none
  /-- 0x0081 entered since the last change of P_avail (R98 03; width 1; reset: false). -/
  derateLogged : Bool := false
  /-- TB_NS of the last diagnostics run (R78 03; width 64; reset: 0). -/
  diagDue : Nat := 0
  /-- diagnostics after the reset have completed (R78, R128 03/04; width 1; reset: false). -/
  diagDone : Bool := false
  /-- channels whose group's bridge-temperature sensor read above 130 C and not yet below 120 C (R78 03; width 64; reset: DESIGN CHOICE 0, log 3). -/
  hot : BitVec 64 := 0
  /-- channels still to be measured in the boot or periodic diagnostics run (R78 03; width 64; reset: 0). -/
  diagLeft : BitVec 64 := 0
  /-- lf.diag commands in progress (R452 17; width (mailbox, left, measured); reset: empty). -/
  diagMbs : List (Nat × Nat × Nat) := []
  deriving DecidableEq, Repr, Inhabited

/-- One coil's standing in a population check (R118, R119, 04_module_transponders). -/
structure Coil where
  /-- entry code (R124 04; width 8; reset: n/a). -/
  entry : Option Nat := none
  /-- 0 nothing to run, 1 CHECK, 2 IDENT, 3 resolution IDENT, 4 resolution CHECK, 5 finished in this phase (R116, R118 04; width 3; reset: n/a). -/
  stage : Nat := 0
  /-- retry reason: 0 none, 1 routine MISMATCH, 2 NO_ANSWER or FRAME_ERROR, 3 no home module (R118 04; width 2; reset: n/a). -/
  why : Nat := 0
  /-- identity the CHECK is keyed for (R119 04; width 64; reset: n/a). -/
  target : Nat := 0
  /-- root slot that the CHECK in progress is keyed from; 16 for none (R115, R129 04; width 5; reset: n/a). -/
  slot : Nat := 16
  /-- challenge C (R114 04; width 96; reset: n/a). -/
  challenge : Nat := 0
  /-- downlink frame sent after its SOF: command, payload and CRC, most significant bit first (R109, R112 04; width up to 108; reset: n/a). -/
  frame : List Bool := []
  /-- expected response; none is NO_KEY (R114, R115 04; width 64; reset: n/a). -/
  expected : Option (List Byte) := none
  /-- a candidate keyed with the enrolment defaults (R119 04; width 1; reset: n/a). -/
  enrolling : Bool := false
  /-- identity for the notes (R123 04; width 64; reset: n/a). -/
  note : Option Nat := none
  /-- identity read whose lockout gave the LOCKED_OUT entry (R119, R128 04; width 64; reset: n/a). -/
  lockedId : Option Nat := none
  /-- the coil has run in a retry pass (R123 04; width 1; reset: n/a). -/
  again : Bool := false
  deriving DecidableEq, Repr, Inhabited

/-- A population record (R123, 04_module_transponders). -/
structure PopRec where
  /-- check_seq (R123 04; width 32; reset: n/a). -/
  checkSeq : Nat := 0
  /-- epoch (R123 04; width 32; reset: n/a). -/
  epoch : Nat := 0
  /-- start_ns (R123 04; width 64; reset: n/a). -/
  startNs : Nat := 0
  /-- end_ns (R123 04; width 64; reset: n/a). -/
  endNs : Nat := 0
  /-- uncertainty (R123 04; width 32; reset: n/a). -/
  unc : Nat := 0
  /-- verdict (R126 04; width 8; reset: n/a). -/
  verdict : Nat := 0
  /-- runs (R123 04; width 8; reset: n/a). -/
  runs : Nat := 0
  /-- retried (R123 04; width 8; reset: n/a). -/
  retried : Nat := 0
  /-- restarts (R123 04; width 8; reset: n/a). -/
  restarts : Nat := 0
  /-- n_verified (R123 04; width 8; reset: n/a). -/
  nVerified : Nat := 0
  /-- n_missing (R123 04; width 8; reset: n/a). -/
  nMissing : Nat := 0
  /-- n_misplaced (R123 04; width 8; reset: n/a). -/
  nMisplaced : Nat := 0
  /-- n_foreign (R123 04; width 8; reset: n/a). -/
  nForeign : Nat := 0
  /-- n_failed (R123 04; width 8; reset: n/a). -/
  nFailed : Nat := 0
  /-- n_fault (R123 04; width 8; reset: n/a). -/
  nFault : Nat := 0
  /-- notes_lost (R123 04; width 8; reset: n/a). -/
  notesLost : Nat := 0
  /-- entry[48] (R124 04; width 48 x 8; reset: n/a). -/
  entries : List Nat := []
  /-- notes (R123 04; width 8 x (8, 64); reset: n/a). -/
  notes : List (Nat × Nat) := []
  /-- coils with a LOCKED_OUT entry and the identity whose lockout gave it, 0 for the coil's own or its home identity's (R119, R128 04; width (coil, identity); reset: n/a). -/
  locked : List (Nat × Nat) := []
  deriving DecidableEq, Repr, Inhabited

/-- A population check in progress (R118 to R123, 04_module_transponders). -/
structure PopCheck where
  /-- TB_NS at admission of the first phase (R123 04; width 64; reset: n/a). -/
  startNs : Nat := 0
  /-- the first phase has been admitted (R123 04; width 1; reset: n/a). -/
  started : Bool := false
  /-- present phase (R89 03; width 2; reset: n/a). -/
  phase : Nat := 0
  /-- 0 routine, 1 retry, 2 a further retry pass (R118, R129 04; width 2; reset: n/a). -/
  pass : Nat := 0
  /-- coils (R118 04; width 48; reset: n/a). -/
  coils : List Coil := List.replicate 48 {}
  /-- largest number of runs so far (R123 04; width 8; reset: n/a). -/
  runs : Nat := 0
  /-- runs of the present phase (R96 03; width 8; reset: n/a). -/
  curRuns : Nat := 0
  /-- coils run in the retry pass (R123 04; width 8; reset: n/a). -/
  retried : Nat := 0
  /-- restarts (R123 04; width 8; reset: n/a). -/
  restarts : Nat := 0
  /-- modules verified anywhere (R121 04; width identities; reset: n/a). -/
  verified : List Nat := []
  /-- modules found misplaced (R121 04; width (identity, coil); reset: n/a). -/
  misplacedAt : List (Nat × Nat) := []
  /-- coils owed a further retry pass (R129 04; width coils; reset: n/a). -/
  further : List Nat := []
  /-- lf.popcheck commands served (R128 04; width mailboxes; reset: n/a). -/
  mbs : List Nat := []
  /-- phases in force for this check (R88 03; width 48 x 2; reset: n/a). -/
  phases : List Nat := []
  /-- layers that the check completes under, once a new image has come during it (R101 03; width layers; reset: n/a). -/
  cfgWas : Option CfgStore := none
  deriving DecidableEq, Repr, Inhabited

/-- Population checks (04_module_transponders). -/
structure Pop where
  /-- checks started (R123 04; width 32; reset: 0 since reset (R123)). -/
  checkSeq : Nat := 0
  /-- check in progress (R118 04; width struct; reset: none). -/
  running : Option PopCheck := none
  /-- latest record (R123 04; width 160 bytes; reset: none). -/
  latest : Option PopRec := none
  /-- a further check is requested (R128 04; width 1; reset: false). -/
  wanted : Bool := false
  /-- lf.popcheck commands waiting for the further check (R128 04; width mailboxes; reset: empty). -/
  wantMbs : List Nat := []
  /-- start_ns of the previous check (R128 04; width 64; reset: none). -/
  lastStart : Option Nat := none
  /-- challenges sent to modules, of which none is sent again (R114 04; width 96 each; reset: empty). -/
  used : List Nat := []
  deriving DecidableEq, Repr, Inhabited

/-- A held sequencer command (R150, 05_radio). -/
structure HeldCmd where
  /-- command (R149 05_radio; width 3; reset: n/a). -/
  op : SeqOp := .idle
  /-- UHF region code, UWB channel or antenna set (R149 05_radio; width 32; reset: n/a). -/
  arg : Nat := 0
  /-- scheduled time of its first frame (R144, R145 05_radio; width 64; reset: n/a). -/
  due : Option Nat := none
  /-- TB_NS of its limit (R151 05_radio; width 64; reset: n/a). -/
  limit : Nat := 0
  deriving DecidableEq, Repr, Inhabited

/-- A stored foreground result: image rejection and filter (R152, R153, 05_radio). -/
structure FgResult where
  /-- TB_NS (R152 05_radio; width 64; reset: n/a). -/
  ns : Nat := 0
  /-- epoch (R152 05_radio; width 32; reset: n/a). -/
  epoch : Nat := 0
  /-- RF die temperature, 0.1 C (R152 05_radio; width 16 signed; reset: n/a). -/
  temp : Int := 0
  /-- carrier's region code (R136, R152 05_radio; width 2; reset: n/a). -/
  region : Nat := 0
  /-- gain trim (the spec gives the trims no width) (R152 05_radio; width free; reset: n/a). -/
  gain : Nat := 0
  /-- phase trim (R152 05_radio; width free; reset: n/a). -/
  phase : Nat := 0
  /-- filter trim code (R152 05_radio; width free; reset: n/a). -/
  filter : Nat := 0
  deriving DecidableEq, Repr, Inhabited

/-- A reply-path result (R155, R158, 05_radio). -/
structure LoopResult where
  /-- TB_NS (R158 05_radio; width 64; reset: n/a). -/
  ns : Nat := 0
  /-- epoch (R158 05_radio; width 32; reset: n/a). -/
  epoch : Nat := 0
  /-- RF die temperature, 0.1 C (R158 05_radio; width 16 signed; reset: n/a). -/
  temp : Int := 0
  /-- d_loop of chain A, 1/256 ns (R155 05_radio; width 32; reset: n/a). -/
  dA : Nat := 0
  /-- d_loop of chain B, 1/256 ns (R155 05_radio; width 32; reset: n/a). -/
  dB : Nat := 0
  deriving DecidableEq, Repr, Inhabited

/-- The radio and its sequencer (05_radio). -/
structure Radio where
  /-- sequencer state (R147, R153 05_radio; width 4; reset: OFF (R162)). -/
  st : SeqState := .off
  /-- synthesiser settling in SYNTH_SETTLE (R148 05_radio; width 1; reset: DESIGN CHOICE sampling, log 3). -/
  settleOf : Synth := .sampling
  /-- failures to qualify in the present settling (R148 05_radio; width 2; reset: 0). -/
  settleFails : Nat := 0
  /-- target after settling (R148 05_radio; width 4; reset: DESIGN CHOICE STANDBY, log 3). -/
  settleTo : SeqState := .standby
  /-- the next CAL is one DC-offset step after loss of LO lock (R148 05_radio; width 1; reset: false). -/
  dcOnly : Bool := false
  /-- sampling synthesiser qualified (R142 05_radio; width 1; reset: false). -/
  sampQual : Bool := false
  /-- sampling synthesiser runs (R138 05_radio; width 1; reset: false). -/
  sampRun : Bool := false
  /-- LO synthesiser qualified (R142 05_radio; width 1; reset: false). -/
  loQual : Bool := false
  /-- held commands in order of issue (R150 05_radio; width up to 8; reset: empty). -/
  held : List HeldCmd := []
  /-- UHF listen target, region code (R148, R149 05_radio; width 2; reset: none). -/
  listenUhf : Option Nat := none
  /-- UWB listen target, channel (R148, R149 05_radio; width 4; reset: none). -/
  listenUwb : Option Nat := none
  /-- scheduled time of the frame being sent or loaded (R144 05_radio; width 64; reset: none). -/
  txAt : Option Nat := none
  /-- first frame of the RANGE taken (R145 05_radio; width 64; reset: none). -/
  rangeAt : Option Nat := none
  /-- antenna set of the RANGE taken (R146, R204 05/07; width 2; reset: DESIGN CHOICE 0, log 3). -/
  rangeSet : Nat := 0
  /-- an IDLE awaits the end of the present calibration step (R149 05_radio; width 1; reset: false). -/
  idleDue : Bool := false
  /-- foreground steps completed (R152 05_radio; width 4; reset: 0). -/
  calStep : Nat := 0
  /-- foreground steps planned (12 full, 1 or 2 short) (R152 05_radio; width 4; reset: 0). -/
  calPlan : Nat := 0
  /-- temperature when CAL began (R154 05_radio; width 16 signed; reset: DESIGN CHOICE 0, log 3). -/
  calTemp : Int := 0
  /-- TB_NS at which CAL yielded to a RANGE (R154 05_radio; width 64; reset: none). -/
  calYield : Option Nat := none
  /-- the quadrature path is calibrated (R148, R152 05_radio; width 1; reset: false). -/
  calDone : Bool := false
  /-- stored image and filter results (R152 05_radio; width struct; reset: none (R153)). -/
  fg : Option FgResult := none
  /-- band index of the LO synthesiser's last lock (R152 05_radio; width free; reset: none (R162)). -/
  loBand : Option Nat := none
  /-- I and Q offset trims of the quadrature path (R152 05_radio; width free; reset: none (R153)). -/
  dcTrim : Option (Nat × Nat) := none
  /-- a recalibration is due (R154 05_radio; width 1; reset: false). -/
  recalDue : Bool := false
  /-- slices done in the present offset, gain, skew and reply-path sweeps (R155 05_radio; width 4 x 6; reset: 0). -/
  sweepPos : List Nat := [0, 0, 0, 0]
  /-- TB_NS of the last full offset, gain and skew sweeps (R155, R157 05_radio; width 3 x 64; reset: none (R162)). -/
  sweepEnd : List (Option Nat) := [none, none, none]
  /-- chain A loopback delays of the present average (R155 05_radio; width sum; reset: 0). -/
  loopSumA : Nat := 0
  /-- chain B loopback delays of the present average (R155 05_radio; width sum; reset: 0). -/
  loopSumB : Nat := 0
  /-- offset, gain and skew trims of the 64 sub-converters, chain A and chain B (R155 05_radio; width 3 x 64 x 2; reset: none (R162)). -/
  subTrims : List (List (Option (Nat × Nat))) := List.replicate 3 (List.replicate 64 none)
  /-- background reply-path result (R155, R158 05_radio; width struct; reset: none (R162)). -/
  loop : Option LoopResult := none
  /-- acceptance result of the RANGE taken (R158 05_radio; width struct; reset: none). -/
  accept : Option LoopResult := none
  /-- acceptance slices still to run (R158 05_radio; width 3; reset: 0). -/
  acceptLeft : Nat := 0
  /-- chain A delays of the acceptance slices so far (R158 05_radio; width sum; reset: 0). -/
  acceptSumA : Nat := 0
  /-- chain B delays of the acceptance slices so far (R158 05_radio; width sum; reset: 0). -/
  acceptSumB : Nat := 0
  /-- forced slices (R157, rf.status 17; width 32; reset: DESIGN CHOICE 0, log 3). -/
  forced : Nat := 0
  /-- failures to qualify twice (R151, rf.status 17; width 32; reset: DESIGN CHOICE 0, log 3). -/
  settleFail : Nat := 0
  /-- TB_NS at which UP is issued again (R151 05_radio; width 64; reset: none). -/
  upRetry : Option Nat := none
  /-- RF die temperature, 0.1 C (rf.status 17, R152 05; width 16 signed; reset: DESIGN CHOICE 25.0 C, log 3). -/
  temp : Int := 250
  /-- ANT_SW3..ANT_SW0 (R146 05_radio, R547 22; width 4; reset: 0b0000 (R547)). -/
  antSw : Nat := 0
  /-- mailbox whose rf.test or rf.capture holds the radio (R161 05_radio; width 3; reset: none). -/
  testMb : Option Nat := none
  /-- power of the test as applied (R140, rf.test 17; width 16 signed; reset: DESIGN CHOICE 0, log 3). -/
  testPower : Int := 0
  /-- port of the test (rf.test 17; width 1; reset: DESIGN CHOICE 0, log 3). -/
  testPort : Nat := 0
  /-- carrier or frames (rf.test 17; width 1; reset: DESIGN CHOICE 0, log 3). -/
  testKind : Nat := 0
  /-- channel of the test (rf.test 17; width 8; reset: DESIGN CHOICE 0, log 3). -/
  testChannel : Nat := 0
  /-- TB_NS at which the test ends (rf.test 17; width 64; reset: DESIGN CHOICE 0, log 3). -/
  testEnd : Nat := 0
  /-- rf.cal commands that wait: mailbox, and what is still awaited, bit 0 CAL, bit 1 a reply-path result (rf.cal 17; width (3, 2); reset: empty). -/
  calMbs : List (Nat × Nat) := []
  /-- completions of sequencer commands with other than OK, latest first (R144, R151 05_radio; width (command, status); reset: empty). -/
  done : List (SeqOp × Nat) := []
  /-- results of the exchange are withheld (R27 01; width 1; reset: false). -/
  extHeld : Bool := false
  /-- payload of the last UHF frame given to SEND_UHF (R173, R181 06; width 255 bytes; reset: none). -/
  txUhf : Option (List Byte) := none
  /-- payload of the last UHF frame received with a correct CRC (R173 06; width 255 bytes; reset: none). -/
  rxUhf : Option (List Byte) := none
  /-- timebase value of tap 0 of the latest impulse responses, 1/256 ns (R133 05; width 72; reset: DESIGN CHOICE 0, log 3). -/
  cirNs : Nat := 0
  /-- latest impulse responses: SYNC A, SYNC B, STS A, STS B (R133 05; width 2 or 4 x 4 KiB; reset: empty). -/
  cirs : List (List (Int × Int)) := []
  /-- LNA gain step of chain A in dB, as the AGC set it for the latest packet (R131 05_radio; width 3 (0 to 36 dB); reset: DESIGN CHOICE 0, log 3). -/
  gainA : Nat := 0
  /-- LNA gain step of chain B (R131 05_radio; width 3 (0 to 36 dB); reset: DESIGN CHOICE 0, log 3). -/
  gainB : Nat := 0
  /-- timestamp reported for the last SEND_UWB frame, 1/256 ns (R139 05_radio; width 72; reset: none). -/
  txStamp : Option Nat := none
  deriving DecidableEq, Repr, Inhabited

/-- A clean slot answer (R174 to R178, 06_key_sessions). -/
structure SlotAns where
  /-- slot (R174 06; width 4; reset: n/a). -/
  slot : Nat := 0
  /-- identity (R174 06; width 64; reset: n/a). -/
  identity : Nat := 0
  /-- payload as received (R181 06; width 15 bytes; reset: n/a). -/
  payload : List Byte := []
  /-- motion attestation (R171 06; width 16; reset: n/a). -/
  motion : Nat := 0
  /-- rank class 1 to 4; 0 not eligible (R178 06; width 3; reset: n/a). -/
  cls : Nat := 4
  /-- root slot (R179 06; width 4; reset: n/a). -/
  rootSlot : Nat := 0
  /-- slot version bound at admission (R284 10; width 32; reset: n/a). -/
  version : Nat := 0
  /-- role in the label (R179 06; width 8; reset: n/a). -/
  role : Nat := 0
  /-- key_epoch in the label (R179 06; width 32; reset: n/a). -/
  keyEpoch : Nat := 0
  /-- K_s once derived; none before, or when the slot gives no key (R179 06; width 128; reset: n/a). -/
  key : Option (List Byte) := none
  /-- the derivation has completed (R179 06; width 1; reset: n/a). -/
  derived : Bool := false
  deriving DecidableEq, Repr, Inhabited

/-- A ranging record (R209, 07_distance_bounding). -/
structure RangeRec where
  /-- round_seq (R209 07; width 32; reset: n/a). -/
  roundSeq : Nat := 0
  /-- epoch (R209 07; width 32; reset: n/a). -/
  epoch : Nat := 0
  /-- poll_ns (R209 07; width 64; reset: n/a). -/
  pollNs : Nat := 0
  /-- uncertainty (R209 07; width 32; reset: n/a). -/
  unc : Nat := 0
  /-- lane (R209 07; width 8; reset: n/a). -/
  lane : Nat := 0
  /-- attempt (R209 07; width 8; reset: n/a). -/
  attempt : Nat := 0
  /-- channel (R209 07; width 8; reset: n/a). -/
  channel : Nat := 0
  /-- ant_set (R209 07; width 8; reset: n/a). -/
  antSet : Nat := 0
  /-- Ra1 (R196 07; width 32; reset: n/a). -/
  ra1 : Nat := 0
  /-- Db2 (R196 07; width 32; reset: n/a). -/
  db2 : Nat := 0
  /-- db1 (R195 07; width 32; reset: n/a). -/
  db1 : Nat := 0
  /-- ra2 (R195 07; width 32; reset: n/a). -/
  ra2 : Nat := 0
  /-- d_dev (R197 07; width 32; reset: n/a). -/
  dDev : Nat := 0
  /-- T (R198 07; width 32 signed; reset: n/a). -/
  tof : Int := 0
  /-- d_v, mm (R198 07; width 32 signed; reset: n/a). -/
  distance : Int := 0
  /-- angle in 0.1 degree; none reads 0x8000 (R203 07; width 16 signed; reset: n/a). -/
  aoa : Option Int := none
  /-- checks (R201 07; width 16; reset: n/a). -/
  checks : BitVec 16 := 0
  /-- lf_zones (R209 07; width 16; reset: n/a). -/
  lfZones : BitVec 16 := 0
  /-- the key is placed inside the cab (R85 03; width 1; reset: n/a). -/
  inCab : Bool := false
  /-- range_zones (R209 07; width 16; reset: n/a). -/
  rangeZones : BitVec 16 := 0
  /-- clock (R199 07; width 16 signed; reset: n/a). -/
  clock : Int := 0
  /-- snr_a (R209 07; width 8; reset: n/a). -/
  snrA : Nat := 0
  /-- snr_b (R209 07; width 8; reset: n/a). -/
  snrB : Nat := 0
  deriving DecidableEq, Repr, Inhabited

/-- A lane of a round (R178 to R180, R192, 06 and 07). -/
structure Lane where
  /-- lane index (R178 06; width 3; reset: n/a). -/
  k : Nat := 0
  /-- the answer admitted (R178 06; width struct; reset: n/a). -/
  ans : SlotAns := {}
  /-- TB_NS at which the lane opens or opened (R180 06; width 64; reset: n/a). -/
  openNs : Nat := 0
  /-- the lane has opened (R180 06; width 1; reset: n/a). -/
  opened : Bool := false
  /-- challenge C (R181 06; width 96; reset: n/a). -/
  challenge : Nat := 0
  /-- the CCM exchange verified (R183 06; width 1; reset: n/a). -/
  verified : Bool := false
  /-- attempt, 0 before POLL (R192 07; width 2; reset: n/a). -/
  attempt : Nat := 0
  /-- a POLL is the next frame of the exchange (R192 07; width 1; reset: n/a). -/
  pollDue : Bool := true
  /-- POLL transmit RMARKER, 1/256 ns (R196 07; width 72; reset: n/a). -/
  t1 : Nat := 0
  /-- RESPONSE receive RMARKER of the timing chain, 1/256 ns (R196 07; width 72; reset: n/a). -/
  t4 : Nat := 0
  /-- FINAL transmit RMARKER, 1/256 ns (R196 07; width 72; reset: n/a). -/
  t5 : Nat := 0
  /-- a RESPONSE has been received in this attempt (R192 07; width 1; reset: n/a). -/
  haveResp : Bool := false
  /-- FINAL has been sent in this attempt (R192 07; width 1; reset: n/a). -/
  haveFinal : Bool := false
  /-- chain B is the timing chain (R196 07; width 1; reset: n/a). -/
  timingB : Bool := false
  /-- C3 failed (R201 07; width 1; reset: n/a). -/
  c3 : Bool := false
  /-- C4 failed (R201 07; width 1; reset: n/a). -/
  c4 : Bool := false
  /-- C5 failed (R201 07; width 1; reset: n/a). -/
  c5 : Bool := false
  /-- angle in 10^-6 degree (R203 07; width 32 signed; reset: n/a). -/
  theta : Option Int := none
  /-- reply-path result taken at acceptance (R197 07; width struct; reset: n/a). -/
  loop : Option LoopResult := none
  /-- ranging record (R209 07; width 64 bytes; reset: n/a). -/
  record : Option RangeRec := none
  /-- K_sts (R194 07; width 128; reset: n/a). -/
  stsKey : List Byte := []
  /-- V0 (R194 07; width 128; reset: n/a). -/
  stsV : List Byte := []
  /-- STS segments generated in this session (R194 07; width 32; reset: n/a). -/
  stsCount : Nat := 0
  /-- ends at its next step as ABORTED (R68, R187 02/06; width 1; reset: n/a). -/
  aborted : Bool := false
  /-- ends as NO_KEY (R190 06; width 1; reset: n/a). -/
  noKey : Bool := false
  /-- its exchange has ended as SYNTH_NOT_READY or abandoned (R144, R187 05/06; width 1; reset: n/a). -/
  dead : Bool := false
  /-- outcome once closed (R187 06; width 8; reset: n/a). -/
  outcome : Option Nat := none
  /-- TB_NS at which the lane closes, once its outcome is decided (R180 06; width 64; reset: n/a). -/
  closeNs : Nat := 0
  /-- admitted while a service-enrolment window was open (R54 02; width 1; reset: n/a). -/
  inWindow : Bool := false
  deriving DecidableEq, Repr, Inhabited

/-- A session record (R188, 06_key_sessions). -/
structure SessRec where
  /-- round_seq (R188 06; width 32; reset: n/a). -/
  roundSeq : Nat := 0
  /-- epoch (R188 06; width 32; reset: n/a). -/
  epoch : Nat := 0
  /-- wake_ns (R188 06; width 64; reset: n/a). -/
  wakeNs : Nat := 0
  /-- result_ns (R188 06; width 64; reset: n/a). -/
  resultNs : Nat := 0
  /-- uncertainty (R188 06; width 32; reset: n/a). -/
  unc : Nat := 0
  /-- config (R188 06; width 8; reset: n/a). -/
  config : Nat := 0
  /-- slot (R188 06; width 8; reset: n/a). -/
  slot : Nat := 0
  /-- lane (R188 06; width 8; reset: n/a). -/
  lane : Nat := 0
  /-- outcome (R187 06; width 8; reset: n/a). -/
  outcome : Nat := 0
  /-- identity (R188 06; width 64; reset: n/a). -/
  identity : Nat := 0
  /-- motion (R188 06; width 16; reset: n/a). -/
  motion : Nat := 0
  /-- scale (R188 06; width 16; reset: n/a). -/
  scale : Nat := 0
  /-- zones (R188 06; width 16; reset: n/a). -/
  zones : BitVec 16 := 0
  deriving DecidableEq, Repr, Inhabited

/-- A round of key sessions (06_key_sessions). -/
structure Round where
  /-- round_seq (R188 06; width 32; reset: n/a). -/
  seq : Nat := 0
  /-- wake configuration (R164 06; width 3; reset: n/a). -/
  config : Nat := 0
  /-- TB_NS of the wake burst's start (R163 06; width 64; reset: n/a). -/
  wakeNs : Nat := 0
  /-- epoch (R188 06; width 32; reset: n/a). -/
  epoch : Nat := 0
  /-- scale x 10,000 (R94 03; width 16; reset: n/a). -/
  scale : Nat := 10000
  /-- antennas of the wake burst (R61, R170 02/06; width channels; reset: n/a). -/
  antennas : List Nat := []
  /-- antenna that failures are attributed to (R170 06; width 4; reset: n/a). -/
  antenna : Nat := 0
  /-- localisation positions sent (R84, R167 03/06; width 8; reset: n/a). -/
  sent : List Bool := []
  /-- preamble, sync and data as sent on pattern_set: carrier on or off in each 128 us from the burst's start (R166, R167 06; width 60; reset: n/a). -/
  wave : List Bool := []
  /-- slot classes (R176 06; width 16; reset: n/a). -/
  slots : List SlotKind := List.replicate 16 .empty
  /-- slots in which a sync word was found (R176 06; width 16; reset: n/a). -/
  synced : List Bool := List.replicate 16 false
  /-- clean answers (R176 06; width answers; reset: n/a). -/
  answers : List SlotAns := []
  /-- lanes (R178 06; width up to 8; reset: n/a). -/
  lanes : List Lane := []
  /-- the response window has closed (R178 06; width 1; reset: n/a). -/
  closed : Bool := false
  /-- eligible answers left unserved (R178 06; width 8; reset: n/a). -/
  unserved : Nat := 0
  /-- refused for motion (sess.status 17; width 8; reset: n/a). -/
  refMotion : Nat := 0
  /-- refused for a lockout (sess.status 17; width 8; reset: n/a). -/
  refLock : Nat := 0
  /-- refused as unknown (sess.status 17; width 8; reset: n/a). -/
  refUnknown : Nat := 0
  /-- sess.poll commands served (R165 06; width mailboxes; reset: n/a). -/
  mbs : List Nat := []
  /-- identity an addressed session is for (R52, R451 02/17; width 64; reset: n/a). -/
  addressed : Option Nat := none
  /-- a request for every key shares the round (R93 03; width 1; reset: n/a). -/
  shared : Bool := false
  /-- further identities addressed by requests that merged into its burst (R93 03; width identities; reset: n/a). -/
  also : List Nat := []
  /-- follow-ups before this round (R184 06; width 2; reset: n/a). -/
  followUps : Nat := 0
  /-- round_seq of the chain's first round (sess.poll 17; width 32; reset: n/a). -/
  firstSeq : Nat := 0
  /-- wake_ns of the chain's first round (sess.poll 17; width 64; reset: n/a). -/
  firstNs : Nat := 0
  /-- lowest scale in the chain (sess.poll 17; width 16; reset: n/a). -/
  minScale : Nat := 10000
  /-- layers that the round completes under, once a new image has come during it (R190, R213 06/07; width layers; reset: none). -/
  cfgWas : Option CfgStore := none
  /-- admitted, present, clean, collision of the chain's earlier rounds (sess.poll 17; width 4 x 8; reset: n/a). -/
  sums : List Nat := [0, 0, 0, 0]
  deriving DecidableEq, Repr, Inhabited

/-- range.test in progress (R451, 17_command_reference). -/
structure RangeTest where
  /-- mailbox (R451 17; width 3; reset: n/a). -/
  mb : Nat := 0
  /-- identity (R451 17; width 64; reset: n/a). -/
  identity : Nat := 0
  /-- configuration (R451 17; width 3; reset: n/a). -/
  config : Nat := 0
  /-- sessions still to run (R451 17; width 16; reset: n/a). -/
  left : Nat := 0
  /-- n_run (R451 17; width 16; reset: n/a). -/
  nRun : Nat := 0
  /-- d_ref, mm (R451 17; width 32; reset: n/a). -/
  dRef : Nat := 0
  /-- ranging records written (R451 17; width 16; reset: n/a). -/
  nRec : Nat := 0
  /-- a wake of the test was scaled (R189 06; width 1; reset: n/a). -/
  derated : Bool := false
  /-- T of each exchange that counts, 1/256 ns (R451 17; width values; reset: n/a). -/
  tofs : List Int := []
  deriving DecidableEq, Repr, Inhabited

/-- Key sessions (06_key_sessions). -/
structure Sess where
  /-- wake bursts since the last system reset (R188 06; width 32; reset: 0 since reset (R188)). -/
  roundSeq : Nat := 0
  /-- round in progress (R163 06; width struct; reset: none). -/
  cur : Option Round := none
  /-- latest round, once its last lane has closed (R188, sess.status 17; width struct; reset: none). -/
  last : Option Round := none
  /-- session records of the latest round (R188 06; width 48 bytes each; reset: empty). -/
  recs : List SessRec := []
  /-- latest record of each identity since reset (sess.last 17; width 48 bytes each; reset: empty). -/
  lastBy : List SessRec := []
  /-- ranging records of the latest round (R209 07; width 64 bytes each; reset: empty). -/
  ranges : List RangeRec := []
  /-- TB_NS of each configuration's previous wake burst (R165 06; width 8 x 64; reset: none). -/
  pollStart : List (Option Nat) := List.replicate 8 none
  /-- range.test in progress (R451 17; width struct; reset: none). -/
  test : Option RangeTest := none
  deriving DecidableEq, Repr, Inhabited

/-- A verified presence passed to the decision role (R39, R224, 08_release_decision). -/
structure Presence where
  /-- identity (R224 08; width 64; reset: n/a). -/
  identity : Nat := 0
  /-- zones met (R224 08; width 16; reset: n/a). -/
  zones : BitVec 16 := 0
  /-- result_ns (R39 01; width 64; reset: n/a). -/
  ns : Nat := 0
  /-- epoch (R39 01; width 32; reset: n/a). -/
  epoch : Nat := 0
  /-- uncertainty (R39 01; width 32; reset: n/a). -/
  unc : Nat := 0
  /-- round_seq (R315 GRANT 11; width 32; reset: n/a). -/
  roundSeq : Nat := 0
  /-- lane (R315 GRANT 11; width 8; reset: n/a). -/
  lane : Nat := 0
  deriving DecidableEq, Repr, Inhabited

/-- The release decision and the permission latch (08_release_decision). -/
structure Rel where
  /-- decision state (R214 08; width 3; reset: LOCKED (R221)). -/
  st : Decision := .locked
  /-- permission latch on the power die (R41, R217 01/08; width 1; reset: cleared (R11)). -/
  latch : Bool := false
  /-- the command word last received by the latch control (set or clear) and its TB_NS (R41 01; width word + stamp; reset: none). -/
  latchCmd : Option (Bool × Nat) := none
  /-- pending causes HOST, CREDIT, TAMPER, IDLE (R227 08; width 4; reset: 0). -/
  causes : BitVec 4 := 0
  /-- host consent in Nunatak (R222 08; width 1; reset: clear (R222)). -/
  consent : Bool := false
  /-- grant's identity (R222 08; width 64; reset: DESIGN CHOICE 0, log 3). -/
  grantId : Nat := 0
  /-- grant's zone (R222 08; width 4; reset: DESIGN CHOICE 0, log 3). -/
  grantZone : Nat := 0
  /-- grant's TB_NS (R222 08; width 64; reset: DESIGN CHOICE 0, log 3). -/
  grantNs : Nat := 0
  /-- grant's epoch (rel.status 17; width 32; reset: DESIGN CHOICE 0, log 3). -/
  grantEpoch : Nat := 0
  /-- life_mode in force (R225, R233 08; width 1; reset: vehicle (R544)). -/
  storage : Bool := false
  /-- a change of life_mode awaits LOCKED (R233 08; width 1; reset: false). -/
  modeWait : Bool := false
  /-- filtered level of SSTL_A (R226 08; width 1; reset: DESIGN CHOICE low (pull-down), log 3). -/
  sstlA : Bool := false
  /-- filtered level of SSTL_B (R226 08; width 1; reset: DESIGN CHOICE low (pull-down), log 3). -/
  sstlB : Bool := false
  /-- TB_NS since which both have been asserted (R226 08; width 64; reset: none). -/
  still : Option Nat := none
  /-- TB_NS of the end of the first mean of the unbroken run below 5 A (R226 08; width 64; reset: none). -/
  quiet : Option Nat := none
  /-- TB_NS since which SSTL_A and SSTL_B have differed (R226 08; width 64; reset: none). -/
  disagree : Option Nat := none
  /-- SSTL_DISAGREE stands (R226 08; width 1; reset: false). -/
  sstlCond : Bool := false
  /-- FB_STUCK_HIGH (R219 08; width 1; reset: false). -/
  fbHigh : Bool := false
  /-- FB_STUCK_LOW (R219 08; width 1; reset: false). -/
  fbLow : Bool := false
  /-- FB_WAVE (R219 08; width 1; reset: false). -/
  fbWave : Bool := false
  /-- the last full read-back window agreed, with the latch clear (R223 08; width 1; reset: false (no window yet)). -/
  fbAgree : Bool := false
  /-- TB_NS since which the present state has run (R227, R231 08; width 64; reset: DESIGN CHOICE 0, log 3). -/
  since : Nat := 0
  /-- step 3 of the revocation has been taken (R231 08; width 1; reset: false). -/
  clearing : Bool := false
  /-- verified presences not yet used, earliest first (R224 08; width records; reset: empty). -/
  presence : List Presence := []
  /-- retrims of the permission oscillator (R216 08; width trims; reset: DESIGN CHOICE 0, log 3). -/
  oscTrim : Nat := 0
  /-- TB_NS of the last measurement of the permission oscillator (R216 08; width 64; reset: DESIGN CHOICE 0, log 3). -/
  oscNs : Nat := 0
  /-- feedback conditions raised or cleared in Permafrost, recorded in Nunatak until wake (R219 08; width conditions; reset: empty). -/
  fbPend : List (Nat × Bool) := []
  /-- round of the presence that the latest grant used (R237 08; width (epoch, round_seq); reset: none). -/
  grantRound : Option (Nat × Nat) := none
  /-- state left by a power-on reset, until boot appends its transition (R228 08; width 3; reset: none). -/
  porFrom : Option Decision := none
  /-- last measured error of the permission oscillator, ppm (R216 08; width signed; reset: DESIGN CHOICE 0, log 3). -/
  oscPpm : Int := 0
  deriving DecidableEq, Repr, Inhabited

/-- The chaining state of a message between segments (R253, R293, 09 and 10). -/
structure Chaining where
  /-- state_x: CBC-MAC value, CMAC running value or GHASH accumulator (R293 10; width 128; reset: n/a). -/
  x : List Byte := []
  /-- state_b: next counter block, or the CMAC held-back block (R293 10; width 128; reset: n/a). -/
  b : List Byte := []
  /-- data bytes processed (R293 10; width 64; reset: n/a). -/
  done : Nat := 0
  /-- associated data length (R293 10; width 32; reset: n/a). -/
  aadLen : Nat := 0
  /-- bytes of a KW message's segments so far (R252 09; width bytes; reset: n/a). -/
  raw : List Byte := []
  deriving DecidableEq, Repr, Inhabited

/-- A cipher message in flight (R249 to R262, 09_cipher_engine). -/
structure Msg where
  /-- its present segment's descriptor (R249 09; width 64 bytes; reset: n/a). -/
  desc : Desc := {}
  /-- working key it is bound to (R283, R284 10; width 128 to 256; reset: n/a). -/
  key : List Byte := []
  /-- root slot (R284 10; width 4; reset: n/a). -/
  slot : Nat := 0
  /-- slot version bound at admission (R284 10; width 32; reset: n/a). -/
  version : Nat := 0
  /-- nonce (R289 10; width 7..13 bytes; reset: n/a). -/
  nonce : List Byte := []
  /-- invocation value (R290 10; width 64; reset: n/a). -/
  invocation : Nat := 0
  /-- chaining state parked at the start of the present segment (R253, R293 09/10; width struct; reset: n/a). -/
  ch : Chaining := {}
  /-- destination ranges (R255, R256 09; width (address, length); reset: n/a). -/
  outs : List (Nat × Nat) := []
  /-- completion flag 0 (R251 09; width 1; reset: n/a). -/
  suspendedOnce : Bool := false
  /-- completion flag 1 (R251 09; width 1; reset: n/a). -/
  recomputed : Bool := false
  /-- mailbox whose crypt.submit posts at completion (R453 17; width 3; reset: n/a). -/
  post : Option Nat := none
  /-- TB_NS of its limit (R434, R453; width 64; reset: n/a). -/
  limit : Nat := 0
  /-- a host descriptor (R249 09; width 1; reset: n/a). -/
  host : Bool := false
  /-- physical base of its host window as translated at admission (R408 15; width 23; reset: n/a). -/
  base : Nat := 0
  /-- the present segment has been processed; the next one is awaited (R252 09; width 1; reset: n/a). -/
  segDone : Bool := false
  /-- blocks of the present segment not yet issued (R248 09; width blocks; reset: n/a). -/
  left : Nat := 0
  /-- segment position and chaining state where a suspension or a fault has parked it (R253, R402 09/15; width (bytes, struct); reset: n/a). -/
  mid : Option (Nat × Chaining) := none
  /-- checked output of a block whose write faulted, in its pool buffer (R262 09; width (offset, block); reset: n/a). -/
  kept : Option (Nat × List Byte) := none
  /-- stalled at a translation fault (R402 15; width 1; reset: n/a). -/
  stalled : Bool := false
  /-- status it must complete with (R251, R286 09/10; width 16; reset: n/a). -/
  ended : Option Nat := none
  deriving DecidableEq, Repr, Inhabited

/-- A completion record (R251, 09_cipher_engine). -/
structure CompRec where
  /-- status (R251 09; width 16; reset: n/a). -/
  status : Nat := 0
  /-- channel (R251 09; width 8; reset: n/a). -/
  channel : Nat := 0
  /-- flags (R251 09; width 8; reset: n/a). -/
  flags : Nat := 0
  /-- seq (R251 09; width 32; reset: n/a). -/
  seq : Nat := 0
  /-- bytes_done (R251 09; width 32; reset: n/a). -/
  bytesDone : Nat := 0
  /-- invocation (R251 09; width 32; reset: n/a). -/
  invocation : Nat := 0
  deriving DecidableEq, Repr, Inhabited

/-- A descriptor queued on a channel (R249, R250, 09_cipher_engine). -/
structure QDesc where
  /-- descriptor (R249 09; width 64 bytes; reset: n/a). -/
  desc : Desc := {}
  /-- placed by the host (R249 09; width 1; reset: n/a). -/
  host : Bool := false
  /-- physical base of its host window as translated at admission (R408 15; width 23; reset: n/a). -/
  base : Nat := 0
  /-- mailbox that posts at completion (R453 17; width 3; reset: n/a). -/
  post : Option Nat := none
  /-- TB_NS of its limit (R434 16; width 64; reset: n/a). -/
  limit : Nat := 0
  deriving DecidableEq, Repr, Inhabited

/-- A cipher channel (R245 to R253, 09_cipher_engine). -/
structure Chan where
  /-- mode (R245, R252 09; width 1; reset: byte-length for 16..31 (R245); 10, 11 streaming). -/
  streaming : Bool := false
  /-- queued descriptors (R250 09; width up to 16; reset: empty). -/
  queue : List QDesc := []
  /-- present message (R253 09; width struct; reset: none). -/
  cur : Option Msg := none
  /-- suspended message (R253 09; width struct; reset: none). -/
  susp : Option Msg := none
  /-- schedule held: slot, version, label input, key length (R283 10; width schedule; reset: none). -/
  sched : Option (Nat × Nat × List Byte × Nat) := none
  /-- schedule of the suspended message (R238, R253 09; width schedule; reset: none). -/
  suspSched : Option (Nat × Nat × List Byte × Nat) := none
  /-- pool buffers held (R246, R247 09; width buffers; reset: 0). -/
  buffers : Nat := 0
  /-- completion records of an Axiesis channel not yet taken (R251 09; width records; reset: empty). -/
  done : List CompRec := []
  /-- status with which the last descriptor a role placed was refused (R250 09; width 16; reset: none). -/
  refused : Option Nat := none
  deriving DecidableEq, Repr, Inhabited

/-- The modes of the 32 channels after reset (R245, 09_cipher_engine): channels 10 and 11 stream. -/
def Chan.initial : List Chan :=
  (List.range 32).map fun c => { streaming := c == 10 || c == 11 }

/-- A cipher context (R293, 10_keys_and_contexts). -/
structure Context where
  /-- context number (R292 10; width 16; reset: n/a). -/
  num : Nat := 0
  /-- class (R293 10; width 8; reset: n/a). -/
  cls : Nat := 0
  /-- mode (R293 10; width 8; reset: n/a). -/
  mode : Nat := 0
  /-- key_len (R293 10; width 8; reset: n/a). -/
  keyLen : Nat := 0
  /-- slot (R293 10; width 4; reset: n/a). -/
  slot : Nat := 0
  /-- role (R293 10; width 8; reset: n/a). -/
  role : Nat := 0
  /-- purpose (R293 10; width 16; reset: n/a). -/
  purpose : Nat := 0
  /-- identity (R293 10; width 64; reset: n/a). -/
  identity : Nat := 0
  /-- key_epoch (R293 10; width 32; reset: n/a). -/
  keyEpoch : Nat := 0
  /-- version (R293 10; width 32; reset: n/a). -/
  version : Nat := 0
  /-- tag_len (R293 10; width 8; reset: n/a). -/
  tagLen : Nat := 0
  /-- nonce_len (R293 10; width 8; reset: n/a). -/
  nonceLen : Nat := 0
  /-- fixed field (R293 10; width 8 bytes; reset: n/a). -/
  fixed : List Byte := []
  /-- next invocation value (R290, R293 10; width 64; reset: n/a). -/
  invocation : Nat := 0
  /-- inv_limit (R290, R293 10; width 64; reset: n/a). -/
  invLimit : Nat := 0
  /-- exhausted (R290, R293 10; width 1; reset: n/a). -/
  exhausted : Bool := false
  /-- message in progress (R293 10; width 1; reset: n/a). -/
  inProgress : Bool := false
  /-- direction of that message (R293 10; width 1; reset: n/a). -/
  decrypting : Bool := false
  /-- nonce of the message in progress (R293 10; width 16 bytes; reset: n/a). -/
  msgNonce : List Byte := []
  /-- chaining state of the message in progress (R293 10; width struct; reset: n/a). -/
  ch : Chaining := {}
  /-- streamed CCM total length (R293 10; width 32; reset: n/a). -/
  msgLen : Nat := 0
  /-- its slot was zeroised: later starts give KEY_REVOKED (R297 10; width 1; reset: n/a). -/
  revoked : Bool := false
  deriving DecidableEq, Repr, Inhabited

/-- A MACsec secure association (R263 to R265, 09 and 18). -/
structure Sa where
  /-- SAK (R263 09; width 128 or 256; reset: n/a). -/
  key : List Byte := []
  /-- 0 GCM-AES-128, 1 GCM-AES-256, 2 XPN-128, 3 XPN-256 (R464 18; width 2; reset: n/a). -/
  suite : Nat := 0
  /-- next packet number to send, or lowest acceptable (R263 09; width 64; reset: n/a). -/
  next : Nat := 1
  /-- a key is installed (R263 09; width 1; reset: n/a). -/
  installed : Bool := false
  deriving DecidableEq, Repr, Inhabited

/-- The CMPW window (R266 to R273, 09_cipher_engine). -/
structure Cmpw where
  /-- CMPW_CTRL RW fields (R269 09; width 32; reset: last_len 0x10, others 0). -/
  ctrl : Word := 0x100000
  /-- owner (R270 09; width 2; reset: 0b00). -/
  owner : Nat := 0
  /-- err (R270, R273 09; width 4; reset: 0x0). -/
  err : Nat := 0
  /-- yielded (R265, R270 09; width 1; reset: 0). -/
  yielded : Bool := false
  /-- key_ready (R270 09; width 1; reset: 0). -/
  keyReady : Bool := false
  /-- done (R270 09; width 1; reset: 0). -/
  done : Bool := false
  /-- busy (R270 09; width 1; reset: 0). -/
  busy : Bool := false
  /-- busy with a key load (R271 09; width 1; reset: false). -/
  loading : Bool := false
  /-- CMPW_KEYSEL.slot (R271 09; width 4; reset: 0x0). -/
  slot : Nat := 0
  /-- slot the loaded key came from (R271, R273 09; width 4; reset: DESIGN CHOICE 0, log 3). -/
  keySlot : Nat := 0
  /-- CMPW key (R259, R271 09; width 128; reset: none). -/
  key : List Byte := []
  /-- CMPW_LABEL0..3 (R271 09; width 4 x 32; reset: 0). -/
  label : List Word := [0, 0, 0, 0]
  /-- CMPW_IV0..3 (R272 09; width 4 x 32; reset: 0). -/
  iv : List Word := [0, 0, 0, 0]
  /-- CMPW_DIN0..3 (R272 09; width 4 x 32; reset: 0). -/
  din : List Word := [0, 0, 0, 0]
  /-- CMPW_DOUT0..3 (R272 09; width 4 x 32; reset: 0). -/
  dout : List Word := [0, 0, 0, 0]
  /-- CMAC running value (R269, R272 09; width 128; reset: DESIGN CHOICE empty (zero block), log 3). -/
  chain : List Byte := []
  /-- the next start needs first (R269 09; width 1; reset: true). -/
  needFirst : Bool := true
  /-- fields of the block in progress (R269 09; width 32; reset: DESIGN CHOICE 0, log 3). -/
  run : Word := 0
  /-- TB_NS of the owner's last CMPW write (R266 09; width 64; reset: DESIGN CHOICE 0, log 3). -/
  ownerNs : Nat := 0
  deriving DecidableEq, Repr, Inhabited

/-- The cipher engine (09_cipher_engine). -/
structure Crypt where
  /-- channels 0 to 31 (R245 09; width 32; reset: modes of R245). -/
  chans : List Chan := Chan.initial
  /-- host completion queue (R453 17; width up to 64; reset: empty). -/
  hostDone : List CompRec := []
  /-- root slots sealed (R258 09; width 1; reset: false). -/
  sealed : Bool := false
  /-- engine self-test running (R258, R518 09/20; width 1; reset: false). -/
  selfTest : Bool := false
  /-- the self-test follows a datapath alarm (R258 09; width 1; reset: false). -/
  selfTestAlarm : Bool := false
  /-- alarm stamps in the MRAM partner area (R260 09; width (TB_NS, epoch); reset: empty). -/
  alarms : List (Nat × Nat) := []
  /-- root zeroisation follows a passed self-test (R260 09; width 1; reset: false). -/
  zeroiseNext : Bool := false
  /-- wake key in the iterated core (R259, R264 09; width 128; reset: none). -/
  wakeKey : List Byte := []
  /-- per-boot wrapping key (R295 10; width 256; reset: DESIGN CHOICE empty until boot draws it, log 9). -/
  wrapKey : List Byte := []
  /-- wrap_id (R295 10; width 32; reset: DESIGN CHOICE 0 until boot draws it, log 9). -/
  wrapId : Nat := 0
  /-- open contexts (R292 10; width 256 x 128 bytes; reset: empty). -/
  contexts : List Context := []
  /-- secure associations of channels 0 to 7 (R245, R263 09; width 8; reset: none installed). -/
  sas : List Sa := List.replicate 8 {}
  /-- issue slots that each MACsec port and direction is behind: T1A transmit, receive, T1B transmit, receive (R248 09; width 4; reset: 0). -/
  credit : List Nat := [0, 0, 0, 0]
  /-- the last issue slot went to a MACsec channel (R248 09; width 1; reset: false). -/
  macLast : Bool := false
  /-- channel that took the last slot of the third class (R248 09; width 5; reset: DESIGN CHOICE 0, log 44). -/
  rr : Nat := 0
  /-- MACsec frames in the pool buffers of their channels, as channel, header and data, oldest first (R257, R261 09; width frames; reset: empty). -/
  macHeld : List (Nat × List Byte × List Byte) := []
  /-- the iterated core verifies a wake frame (R265 09; width 1; reset: false). -/
  verifying : Bool := false
  /-- CMPW window (R266 09; width struct; reset: reset values). -/
  cmpw : Cmpw := {}
  deriving DecidableEq, Repr, Inhabited

/-- A root slot KS0..KS15 (R274, 10_keys_and_contexts). -/
structure KeySlot where
  /-- state (R274 10; width 8; reset: EMPTY (KS0 LOADED)). -/
  loaded : Bool := false
  /-- class (R274, R276 10; width 8; reset: 0 (KS0 SYSTEM 0x01)). -/
  cls : Nat := 0
  /-- version (R274, R275 10; width 32; reset: 0 (KS0 1)). -/
  version : Nat := 0
  /-- root key (R274 10; width 256; reset: KS0 the value of Config.ks0Key). -/
  key : List Byte := []
  /-- kcv (R274 10; width 24; reset: DESIGN CHOICE 0 for KS1..15, log 3). -/
  kcv : List Byte := [0, 0, 0]
  /-- committed nonce_mark (R274, R288 10; width 64; reset: DESIGN CHOICE 1, log 9). -/
  mark : Nat := 1
  /-- next nonce value (R288 10; width 64; reset: 1 (R288)). -/
  counter : Nat := 1
  /-- an advance of the mark is being written (R288 10; width 1; reset: false). -/
  advancing : Bool := false
  /-- previous key and version (R284 10; width 256 + 32; reset: none). -/
  shadow : Option (List Byte × Nat) := none
  deriving DecidableEq, Repr, Inhabited

/-- The 32 bytes of the root key of KS0 (R275, 10_keys_and_contexts). -/
def ks0Key : List Byte := beBytes 32 Config.ks0Key.toNat

/-- The root slots of a delivered part (R275, 10_keys_and_contexts): KS0 is LOADED with the check value of its key, the others
are EMPTY; no slot has yet been used (R288). -/
def KeySlot.initial : List KeySlot :=
  { loaded := true, cls := 1, version := 1, key := ks0Key, kcv := kcvOf ks0Key } :: List.replicate 15 {}

/-- The key store (10_keys_and_contexts). -/
structure Keys where
  /-- KS0 to KS15 (R274, R275 10; width 16; reset: KS0 LOADED, others EMPTY (R275)). -/
  slots : List KeySlot := KeySlot.initial
  /-- KS0 has been re-provisioned and no service key's presence established since (R278 10; width 1; reset: false). -/
  reprovOpen : Bool := false
  /-- ephemeral private key d and nonce held in Nunatak (R280 10; width 256 + 128; reset: none). -/
  reprov : Option (List Byte × List Byte) := none
  deriving DecidableEq, Repr, Inhabited

/-- Energy counters of a pair or of billing (R304, R307, 11_metering). -/
structure Counters where
  /-- E_dis, mJ (R304 11; width 64; reset: DESIGN CHOICE 0 at delivery, log 7). -/
  eDis : Nat := 0
  /-- E_chg, mJ (R304 11; width 64; reset: DESIGN CHOICE 0 at delivery, log 7). -/
  eChg : Nat := 0
  /-- Q_dis, mC (R304 11; width 64; reset: DESIGN CHOICE 0 at delivery, log 7). -/
  qDis : Nat := 0
  /-- Q_chg, mC (R304 11; width 64; reset: DESIGN CHOICE 0 at delivery, log 7). -/
  qChg : Nat := 0
  /-- remainder of E_dis, 2^-24 mJ (R304 11; width 24; reset: DESIGN CHOICE 0 at delivery, log 7). -/
  rEDis : Nat := 0
  /-- remainder of E_chg (R304 11; width 24; reset: DESIGN CHOICE 0 at delivery, log 7). -/
  rEChg : Nat := 0
  /-- remainder of Q_dis, 2^-24 mC (R304 11; width 24; reset: DESIGN CHOICE 0 at delivery, log 7). -/
  rQDis : Nat := 0
  /-- remainder of Q_chg (R304 11; width 24; reset: DESIGN CHOICE 0 at delivery, log 7). -/
  rQChg : Nat := 0
  deriving DecidableEq, Repr, Inhabited

/-- A sinc3 filter that decimates by 256 (R302, 11_metering_and_moraine). -/
structure Sinc where
  /-- first integrator (R302 11; width 25; reset: 0). -/
  i1 : Nat := 0
  /-- second integrator (R302 11; width 25; reset: 0). -/
  i2 : Nat := 0
  /-- third integrator (R302 11; width 25; reset: 0). -/
  i3 : Nat := 0
  /-- first difference's last input (R302 11; width 25; reset: 0). -/
  c1 : Nat := 0
  /-- second difference's last input (R302 11; width 25; reset: 0). -/
  c2 : Nat := 0
  /-- third difference's last input (R302 11; width 25; reset: 0). -/
  c3 : Nat := 0
  deriving DecidableEq, Repr, Inhabited

/-- Metering (11_metering_and_moraine). -/
structure Met where
  /-- pair A (R304 11; width 4 x 64; reset: as Counters). -/
  pairA : Counters := {}
  /-- pair B (R304 11; width 4 x 64; reset: as Counters). -/
  pairB : Counters := {}
  /-- billing counters (R307 11; width 4 x 64; reset: as Counters). -/
  billing : Counters := {}
  /-- pair A as committed to MRAM (R305 11; width 4 x 64; reset: as Counters). -/
  comA : Counters := {}
  /-- pair B as committed (R305 11; width 4 x 64; reset: as Counters). -/
  comB : Counters := {}
  /-- billing counters as committed (R305 11; width 4 x 64; reset: as Counters). -/
  comBilling : Counters := {}
  /-- balance as committed (R305, R309 11; width 64 signed; reset: 0 (R309)). -/
  comBalance : Int := 0
  /-- grace start as committed (R309 11; width 64 + 32; reset: none). -/
  comGrace : Option (Nat × Nat) := none
  /-- TB_NS of the last commit (R305 11; width 64; reset: DESIGN CHOICE 0, log 3). -/
  commitNs : Nat := 0
  /-- TB_NS of the next summary boundary (R312 11; width 64; reset: 900 s of TB_NS (R312)). -/
  boundary : Nat := 900000000000
  /-- credit balance, mJ (R309 11; width 64 signed; reset: 0 (R309)). -/
  balance : Int := 0
  /-- grace start TB_NS and epoch (R309 11; width 64 + 32; reset: none). -/
  grace : Option (Nat × Nat) := none
  /-- the filters of MDAT0..3 (R302 11; width 4 x 150; reset: 0). -/
  filters : List Sinc := [{}, {}, {}, {}]
  /-- outputs of MDAT0..3 still to discard since the clocks started or the input recovered (R302 11; width 4 x 2; reset: 3). -/
  discard : List Nat := [3, 3, 3, 3]
  /-- samples y of MDAT0..3 not yet integrated, oldest first; none once withdrawn or discarded (R302 11; width 4 x 4 x 25; reset: empty). -/
  waiting : List (List (Option Nat)) := []
  /-- STUCK on MDAT0..3 (R306 11; width 4; reset: 0). -/
  stuck : BitVec 4 := 0
  /-- OVERLOAD on MDAT0..3 (R306 11; width 4; reset: 0). -/
  overload : BitVec 4 := 0
  /-- I_DISAGREE (R306 11; width 1; reset: 0). -/
  iDis : Bool := false
  /-- V_DISAGREE (R306 11; width 1; reset: 0). -/
  vDis : Bool := false
  /-- consecutive means towards changing I_DISAGREE (R306 11; width 5; reset: 0). -/
  iRun : Nat := 0
  /-- consecutive means towards changing V_DISAGREE (R306 11; width 5; reset: 0). -/
  vRun : Nat := 0
  /-- sums of the present mean, 2^-24 of full scale (R226, R306 08/11; width 4 sums; reset: 0). -/
  sums : List Int := [0, 0, 0, 0]
  /-- samples in the present mean (R226 08; width 7; reset: 0). -/
  n : Nat := 0
  /-- inputs overloaded within the present mean (R306 11; width 4; reset: 0). -/
  overIn : BitVec 4 := 0
  /-- inputs with a stuck or withdrawn sample in the present mean (R306 11; width 4; reset: 0). -/
  spoiled : BitVec 4 := 0
  /-- a full mean has been produced since the decimators started (R308 11; width 1; reset: false). -/
  meanOk : Bool := false
  /-- TB_NS of the last mean with a billing-pair current above idle_a (R307 11; width 64; reset: none). -/
  above : Option Nat := none
  /-- TB_NS since which nothing is metered (R305, R316 11; width 64; reset: none). -/
  stopped : Option Nat := none
  /-- unmetered time of the present interval, ns (R316 11; width ns; reset: 0). -/
  unmetered : Nat := 0
  /-- flags 2..4 gathered for the present interval (R313 11; width 5; reset: 0). -/
  flags : Nat := 0
  /-- conditions seen in the present interval (R315 CHARGE 11; width 10; reset: 0). -/
  conds : Nat := 0
  /-- scaling in force until the next boundary (R303 11; width i_fs, v_fs, gains, offsets; reset: defaults of R303). -/
  scale : List Int := [1000, 1000, 1048576, 1048576, 1048576, 1048576, 0, 0, 0, 0]
  deriving DecidableEq, Repr, Inhabited

/-- A Moraine entry (R313, 11_metering_and_moraine). -/
structure Entry where
  /-- type (R313, R315 11; width 8; reset: n/a). -/
  type : Nat := 0
  /-- flags (R313 11; width 8; reset: n/a). -/
  flags : Nat := 0
  /-- aux (R313 11; width 16; reset: n/a). -/
  aux : Nat := 0
  /-- seq (R313 11; width 32; reset: n/a). -/
  seq : Nat := 0
  /-- tb_ns (R313 11; width 64; reset: n/a). -/
  ns : Nat := 0
  /-- epoch (R313 11; width 32; reset: n/a). -/
  epoch : Nat := 0
  /-- uncertainty (R313 11; width 32; reset: n/a). -/
  unc : Nat := 0
  /-- link (R313 11; width 32; reset: n/a). -/
  link : List Byte := []
  /-- body (R313 11; width 192; reset: n/a). -/
  body : List Byte := []
  /-- mac (R313 11; width 96; reset: n/a). -/
  mac : List Byte := []
  deriving DecidableEq, Repr, Inhabited

/-- Moraine (11_metering_and_moraine). -/
structure Ledger where
  /-- held entries, oldest first (R313, R316 11; width 12,288 x 64 bytes; reset: DESIGN CHOICE empty, log 7). -/
  ring : List Entry := []
  /-- seq of the next entry appended (R316 11; width 32; reset: DESIGN CHOICE 0, log 7). -/
  head : Nat := 0
  /-- volatile queue of entries without mac (R314 11; width up to 64; reset: empty). -/
  queue : List Entry := []
  /-- flush reserve of the partner area (R499 19; width up to 64; reset: DESIGN CHOICE empty, log 7). -/
  flush : List Entry := []
  /-- pending area of the partner area (R314 11; width up to 512; reset: DESIGN CHOICE empty, log 7). -/
  area : List Entry := []
  /-- critical entries displaced (R314 11; width 32; reset: 0). -/
  displaced : Nat := 0
  /-- first displaced tb_ns (R315 OVERFLOW 11; width 64; reset: DESIGN CHOICE 0, log 3). -/
  dispFirst : Nat := 0
  /-- last displaced tb_ns (R315 OVERFLOW 11; width 64; reset: DESIGN CHOICE 0, log 3). -/
  dispLast : Nat := 0
  /-- bitmap of types displaced (R315 OVERFLOW 11; width 32; reset: 0). -/
  dispTypes : Nat := 0
  /-- low-space mode (R317 11; width 1; reset: false). -/
  lowSpace : Bool := false
  /-- pending merged pair (R317 11; width entries; reset: none). -/
  pair : Option (Entry × Entry) := none
  /-- pending tally (R315, R317 11; width 5 x 16; reset: 0). -/
  tally : List Nat := [0, 0, 0, 0, 0]
  /-- entries lost (ledg.status 17; width 32; reset: DESIGN CHOICE 0, log 7). -/
  lost : Nat := 0
  /-- first 4 bytes of the last mac (R313 11; width 32; reset: 0 (first entry's link)). -/
  lastMac : List Byte := [0, 0, 0, 0]
  /-- tb_ns and uncertainty of the last entry appended (R315 EPOCH 11; width 64 + 32; reset: DESIGN CHOICE (0, 0), log 7). -/
  lastEntry : Nat × Nat := (0, 0)
  /-- bodies of the latest ENERGY and CHARGE entries made (R304, R509 11; width 2 x 192; reset: DESIGN CHOICE none, log 7). -/
  latest : List Byte × List Byte := ([], [])
  deriving DecidableEq, Repr, Inhabited

/-- A health entry (R513, 20_resilience_and_tamper). -/
structure HealthRec where
  /-- seq (R513 20; width 32; reset: n/a). -/
  seq : Nat := 0
  /-- code (R513 20; width 16; reset: n/a). -/
  code : Nat := 0
  /-- unit (R513 20; width 8; reset: n/a). -/
  unit : Nat := 0
  /-- action (R513 20; width 8; reset: n/a). -/
  action : Nat := 0
  /-- epoch (R513 20; width 32; reset: n/a). -/
  epoch : Nat := 0
  /-- count (R513 20; width 32; reset: n/a). -/
  count : Nat := 1
  /-- tb_ns (R513 20; width 64; reset: n/a). -/
  ns : Nat := 0
  /-- detail (R513 20; width 64; reset: n/a). -/
  detail : Nat := 0
  deriving DecidableEq, Repr, Inhabited

/-- The health log (20_resilience_and_tamper). -/
structure Health where
  /-- entries, oldest first (R513 20; width 2,048 x 32 bytes; reset: DESIGN CHOICE empty, log 7). -/
  log : List HealthRec := []
  /-- seq of the next entry (R440, R513 16/20; width 32; reset: DESIGN CHOICE 0, log 7). -/
  next : Nat := 0
  /-- entries overwritten (R513 20; width 32; reset: DESIGN CHOICE 0, log 7). -/
  lost : Nat := 0
  /-- code of the latest entry (R440 16; width 16; reset: DESIGN CHOICE 0, log 7). -/
  lastCode : Nat := 0
  /-- entries since the last reset (R440 16; width 16; reset: 0). -/
  since : Nat := 0
  /-- summaries of the present hour (R514 20; width records; reset: empty). -/
  sums : List HealthRec := []
  deriving DecidableEq, Repr, Inhabited

/-- Statistics of a port (R468, 18_network). -/
structure PortStat where
  /-- frames received (R468 18; width 32; reset: 0). -/
  rx : Nat := 0
  /-- frames sent (R468 18; width 32; reset: 0). -/
  tx : Nat := 0
  /-- FCS errors (R468 18; width 32; reset: 0). -/
  fcs : Nat := 0
  /-- frames discarded (R468 18; width 32; reset: 0). -/
  discarded : Nat := 0
  /-- MACsec ICV failures (R468 18; width 32; reset: 0). -/
  icv : Nat := 0
  /-- MACsec frames dropped for want of buffers (R468 18; width 32; reset: 0). -/
  noBuf : Nat := 0
  /-- management requests dropped (R468 18; width 32; reset: 0). -/
  mgmt : Nat := 0
  /-- segment DATA replays (R468 18; width 32; reset: 0). -/
  replay : Nat := 0
  /-- link-down events (R468 18; width 32; reset: 0). -/
  down : Nat := 0
  /-- PLCA BEACONs lost to collision (R468 18; width 32; reset: 0). -/
  beacon : Nat := 0
  deriving DecidableEq, Repr, Inhabited

/-- A segment node's standing (R462, R463, 18_network). -/
structure NodeSess where
  /-- node code (R46 02; width 8; reset: n/a). -/
  attach : Nat := 0
  /-- identity (R461 18; width 64; reset: n/a). -/
  identity : Nat := 0
  /-- last DATA seq accepted (R463 18; width 32; reset: n/a). -/
  seq : Nat := 0
  /-- a session is open (R463 18; width 1; reset: n/a). -/
  opened : Bool := false
  /-- root slot, its version, role and key_epoch that the open session is bound to (R284, R298 10; width 4 + 32 + 8 + 32; reset: n/a). -/
  bind : Option (Nat × Nat × Nat × Nat) := none
  /-- challenge outstanding and TB_NS at which it was sent (R462 18; width 96 + 64; reset: n/a). -/
  challenge : Option (Nat × Nat) := none
  /-- root slot, its version, role and key_epoch that the outstanding challenge is bound to (R284, R298 10; width 4 + 32 + 8 + 32; reset: n/a). -/
  cbind : Option (Nat × Nat × Nat × Nat) := none
  /-- TB_NS of the last expected check (R462 18; width 64; reset: n/a). -/
  lastCheck : Nat := 0
  /-- the challenge serves part.enrol (R462 18; width 1; reset: n/a). -/
  enrolling : Bool := false
  /-- the challenge is an expected check for miss_count (R48, R462 02/18; width 1; reset: n/a). -/
  expected : Bool := false
  deriving DecidableEq, Repr, Inhabited

/-- Network ports (18_network_and_line_power). -/
structure Net where
  /-- link state of T1A, T1B, S0..S3 (R457 18; width 6; reset: PHY off (R547)). -/
  linkUp : List Bool := List.replicate 6 false
  /-- node frames whose key waits for the unseal: type, segment, frame and TB_NS of arrival (R287 10; width frames; reset: empty). -/
  sealedFrames : List (Nat × Nat × List Byte × Nat) := []
  /-- TB_NS at which each link went down (R481 18; width 6 x 64; reset: none). -/
  linkLost : List (Option Nat) := List.replicate 6 none
  /-- T1A, T1B took the forced role (R457 18; width 2; reset: false). -/
  forced : List Bool := [false, false]
  /-- T1A, T1B took the master role when their link last came up (R457 18; width 2; reset: DESIGN CHOICE false, log 3). -/
  master : List Bool := [false, false]
  /-- management disabled by duplicate address (R466 18; width 2; reset: false). -/
  mgmtOff : List Bool := [false, false]
  /-- port statistics (R468 18; width 6; reset: 0). -/
  stats : List PortStat := List.replicate 6 {}
  /-- segment nodes (R462 18; width nodes; reset: empty). -/
  nodes : List NodeSess := []
  /-- DATA accepted, latest first (R463 18; width (node, data); reset: empty). -/
  dataOut : List (Nat × List Byte) := []
  /-- TB_NS of each segment's last NODE_ID_CLASH (R460 18; width 4 x 64; reset: none). -/
  clash : List (Option Nat) := [none, none, none, none]
  /-- MKA live peers of T1A, T1B: SCI, key server priority, TB_NS last heard (R465 18; width peers; reset: empty). -/
  peers : List (List (Nat × Nat × Nat)) := [[], []]
  /-- MKA PDUs sent (R465 18; width 2; reset: DESIGN CHOICE 0, log 3). -/
  mkaSent : List Nat := [0, 0]
  /-- association number in use, per port (R245, R263 09; width 2 x 1; reset: DESIGN CHOICE 0, log 3). -/
  an : List Nat := [0, 0]
  /-- a SAK change is pending (R481 18; width 2; reset: false). -/
  sakChange : List Bool := [false, false]
  /-- cak_num of the MKA session in force (R465 18; width 32; reset: 0 (R528)). -/
  cakNum : Nat := 0
  /-- frames the device has sent of its own accord, latest first (R462, R466 18; width frames; reset: empty). -/
  txFrames : List (List Byte) := []
  /-- frames that left the pool for the MAC client, as port and frame, latest first (R257 09; width frames; reset: empty). -/
  macFrames : List (Nat × List Byte) := []
  /-- low-power idle (R457 18; width 1; reset: false). -/
  lpi : Bool := false
  /-- TB_NS at which the port statistics are next entered (R468 18; width 64; reset: 1 h of TB_NS (R468)). -/
  statHour : Nat := 3600000000000
  deriving DecidableEq, Repr, Inhabited

/-- A PoDL feed (R469 to R473, 18_network). -/
structure Feed where
  /-- delivering (R473 18; width 1; reset: DESIGN CHOICE false, log 3). -/
  delivering : Bool := false
  /-- delivered class (R469, R470 18; width 4; reset: none (no class written)). -/
  cls : Option Nat := none
  /-- FEED_OV stands (R472 18; width 1; reset: false). -/
  ov : Bool := false
  deriving DecidableEq, Repr, Inhabited

/-- Line power, governor and dies (01 and 18). -/
structure Power where
  /-- line power present (R13, R474 18; width 1; reset: present at power-on). -/
  line : Bool := true
  /-- feeds A and B (R469 18; width 2; reset: not delivering). -/
  feeds : List Feed := [{}, {}]
  /-- bus voltage last seen by the converters (R477 18; width mV; reset: DESIGN CHOICE 60,000, log 3). -/
  bus : Nat := 60000
  /-- VCORE (R34 01; width mV; reset: DESIGN CHOICE 600, log 3). -/
  vcore : Nat := 600
  /-- highest declared demand (R36 01; width handshakes/us; reset: DESIGN CHOICE 0, log 3). -/
  demand : Nat := 0
  /-- tempo of PD1..PD13 (R36 01; width 13 x 16; reset: DESIGN CHOICE 0, log 3). -/
  tempo : List Nat := List.replicate 13 0
  /-- TB_NS since which every domain has exceeded its demand by more than 10 % (R36 01; width 64; reset: none). -/
  above : Option Nat := none
  /-- demands unmet at 0.85 V (R36, diag.tempo 17; width 32; reset: DESIGN CHOICE 0, log 3). -/
  unmet : Nat := 0
  /-- logic, RF and power die temperatures, 0.1 C (diag.tempo 17; width 3 x 16; reset: DESIGN CHOICE 25.0 C, log 3). -/
  temps : List Int := [250, 250, 250]
  /-- class information last answered by SCCP (R469 18; width 16; reset: DESIGN CHOICE 0, log 3). -/
  sccpReply : Nat := 0
  /-- TB_NS of the last step of VCORE (R34 01; width 64; reset: none). -/
  stepNs : Option Nat := none
  /-- TB_NS of die-link retraining failures within 1 s (R511 20; width (link, stamp); reset: empty). -/
  linkFails : List (Nat × Nat) := []
  deriving DecidableEq, Repr, Inhabited

/-- A core pair CP0..CP3 (R29 to R33, R506, 01 and 20). -/
structure Pair where
  /-- in service (R30, R507 01/20; width 1; reset: DESIGN CHOICE in service until boot's self-test, log 3). -/
  inService : Bool := true
  /-- retired (R506 20; width 1; reset: DESIGN CHOICE false at delivery, log 7). -/
  retired : Bool := false
  /-- self-test running (R506 20; width 1; reset: false). -/
  testing : Bool := false
  /-- divergence stamps in the partner area (R506 20; width (TB_NS, epoch); reset: DESIGN CHOICE empty at delivery, log 7). -/
  stamps : List (Nat × Nat) := []
  deriving DecidableEq, Repr, Inhabited

/-- Core pairs and role placement (01_architecture). -/
structure Cores where
  /-- CP0 to CP3 (R29 01; width 4; reset: in service). -/
  pairs : List Pair := List.replicate 4 {}
  /-- pair that carries radio, field, decision, host (R29 01; width 4; reset: home pairs (R29)). -/
  place : List Nat := [0, 1, 2, 3]
  /-- roles being migrated, the decision role first (R30, R31 01; width roles; reset: none). -/
  migrating : List Role := []
  /-- TB_NS at which each role's last migration began (R406 15; width 4 x 64; reset: DESIGN CHOICE 0, log 3). -/
  migrNs : List Nat := [0, 0, 0, 0]
  deriving DecidableEq, Repr, Inhabited

/-- Tamper inputs and the mesh (20_resilience_and_tamper). -/
structure Tamper where
  /-- TB_NS of each asserted input's assertion (R517, R519 20; width 4 x 64; reset: none). -/
  asserted : List (Option Nat) := [none, none, none, none]
  /-- the present assertion of each input has been confirmed (R519 20; width 4; reset: false). -/
  confirmed : List Bool := [false, false, false, false]
  /-- consecutive failed mesh checks (R519 20; width 5; reset: 0). -/
  meshFails : Nat := 0
  /-- the last mesh check passed (R521 20; width 1; reset: DESIGN CHOICE passed (mesh disabled by default), log 3). -/
  meshOk : Bool := true
  /-- TB_NS since which every input and the mesh have been quiet (R521 20; width 64; reset: DESIGN CHOICE 0, log 3). -/
  quietSince : Option Nat := some 0
  /-- tamper latch (R519 20; width 1; reset: DESIGN CHOICE clear at delivery, log 7). -/
  latch : Bool := false
  /-- word of the last mesh check (R517 20; width 16; reset: DESIGN CHOICE 0, log 3). -/
  meshWord : BitVec 16 := 0
  /-- the zeroisation of the confirmed tamper has completed (R523 20; width 1; reset: DESIGN CHOICE false at delivery, log 7). -/
  zeroised : Bool := false
  deriving DecidableEq, Repr, Inhabited

/-- The TAP (22_package_electrical_test). -/
structure Jtag where
  /-- current instruction code (0b00001 IDCODE) (R560 22; width 5; reset: IDCODE). -/
  ir : Nat := 1
  /-- an intrusive instruction that acts as BYPASS (R563 22; width 1; reset: false). -/
  bypassed : Bool := false
  /-- boundary register (R564 22; width 111; reset: DESIGN CHOICE 0, log 3). -/
  boundary : List Bool := List.replicate 111 false
  /-- what the chain drives on each output cell's pin (R561, R563 22; width 111 cells; reset: released). -/
  pins : List (Option Bool) := List.replicate 111 none
  /-- LFLOOP result (R565 22; width 72; reset: none). -/
  lfloop : Option (BitVec 72) := none
  /-- RFLOOP result (R566 22; width 64; reset: none). -/
  rfloop : Option (BitVec 64) := none
  deriving DecidableEq, Repr, Inhabited

/-- The whole block (plain data). -/
structure State where
  /-- timebase unit (12_timebase; width struct; reset: see the fields). -/
  tbu : Tbu := {}
  /-- timers, alarms, pins, captures (13_timers; width struct; reset: see the fields). -/
  tmr : Tmr := {}
  /-- event controller (14_event_controller; width struct; reset: see the fields). -/
  evc : Evc := {}
  /-- power controller (19_power_states; width struct; reset: see the fields). -/
  psc : Psc := {}
  /-- pads (19_power_states; width struct; reset: see the fields). -/
  pad : Pad := {}
  /-- mailboxes and host access (16_mailboxes; width struct; reset: see the fields). -/
  mbx : Mbx := {}
  /-- boot record, banks, identification (16, 21; width struct; reset: see the fields). -/
  boot : Boot := {}
  /-- configuration layers (21_configuration_and_boot; width struct; reset: see the fields). -/
  cfg : CfgStore := {}
  /-- fabric (15_memory_and_fabric; width struct; reset: see the fields). -/
  fab : Fabric := {}
  /-- partner area (02_partners; width struct; reset: see the fields). -/
  parts : Parts := {}
  /-- LF array (03_lf_field_array; width struct; reset: see the fields). -/
  lf : Lf := {}
  /-- population checks (04_module_transponders; width struct; reset: see the fields). -/
  pop : Pop := {}
  /-- radio (05_radio; width struct; reset: see the fields). -/
  radio : Radio := {}
  /-- sessions (06_key_sessions; width struct; reset: see the fields). -/
  sess : Sess := {}
  /-- release decision (08_release_decision; width struct; reset: see the fields). -/
  rel : Rel := {}
  /-- cipher engine (09_cipher_engine; width struct; reset: see the fields). -/
  crypt : Crypt := {}
  /-- key store (10_keys_and_contexts; width struct; reset: see the fields). -/
  keys : Keys := {}
  /-- metering (11_metering_and_moraine; width struct; reset: see the fields). -/
  met : Met := {}
  /-- Moraine (11_metering_and_moraine; width struct; reset: see the fields). -/
  ledger : Ledger := {}
  /-- health log (20_resilience_and_tamper; width struct; reset: see the fields). -/
  health : Health := {}
  /-- network (18_network_and_line_power; width struct; reset: see the fields). -/
  net : Net := {}
  /-- line power and governor (01, 18; width struct; reset: see the fields). -/
  power : Power := {}
  /-- core pairs and roles (01_architecture; width struct; reset: see the fields). -/
  cores : Cores := {}
  /-- tamper (20_resilience_and_tamper; width struct; reset: see the fields). -/
  tamper : Tamper := {}
  /-- TAP (22_package_electrical_test; width struct; reset: see the fields). -/
  jtag : Jtag := {}
  /-- physical memory, canonical list of cells (R395 15_memory_and_fabric; width 8 MiB SRAM, 4 MiB MRAM; reset: SRAM 0 (R397); MRAM DESIGN CHOICE 0, log 10). -/
  mem : Memory := []
  /-- draws of free values so far ((none: the model's own field); width model's own counter; reset: DESIGN CHOICE 0, log 11). -/
  free : Nat := 0
  /-- commands waiting, first in first out ((none: the model's own field); width queue; reset: empty). -/
  pending : List Instr := []
  deriving DecidableEq, Repr, Inhabited

/-- The block right after a power-on reset of a delivered part, before the internal reset is released: each field at the
value the spec gives it, or at the value assumption log 3, 4, 5, 7, 8, 9, 10 or 11 names. -/
def State.reset : State := {}

end Sys2Proof.Machine
end

