-- ==== Sys2Proof/Machine/Mods.lean ====
section
/-!
DEFINITION. Updates of one part of State by a function on that part; every meaning is written over them.
-/
namespace Sys2Proof.Machine

/-- Update of the part tbu of State. -/
def State.modTbu (s : State) (f : Tbu → Tbu) : State := { s with tbu := f s.tbu }

/-- Update of the part tmr of State. -/
def State.modTmr (s : State) (f : Tmr → Tmr) : State := { s with tmr := f s.tmr }

/-- Update of the part evc of State. -/
def State.modEvc (s : State) (f : Evc → Evc) : State := { s with evc := f s.evc }

/-- Update of the part psc of State. -/
def State.modPsc (s : State) (f : Psc → Psc) : State := { s with psc := f s.psc }

/-- Update of the part pad of State. -/
def State.modPad (s : State) (f : Pad → Pad) : State := { s with pad := f s.pad }

/-- Update of the part mbx of State. -/
def State.modMbx (s : State) (f : Mbx → Mbx) : State := { s with mbx := f s.mbx }

/-- Update of the part boot of State. -/
def State.modBoot (s : State) (f : Boot → Boot) : State := { s with boot := f s.boot }

/-- Update of the part cfg of State. -/
def State.modCfg (s : State) (f : CfgStore → CfgStore) : State := { s with cfg := f s.cfg }

/-- Update of the part fab of State. -/
def State.modFab (s : State) (f : Fabric → Fabric) : State := { s with fab := f s.fab }

/-- Update of the part parts of State. -/
def State.modParts (s : State) (f : Parts → Parts) : State := { s with parts := f s.parts }

/-- Update of the part lf of State. -/
def State.modLf (s : State) (f : Lf → Lf) : State := { s with lf := f s.lf }

/-- Update of the part pop of State. -/
def State.modPop (s : State) (f : Pop → Pop) : State := { s with pop := f s.pop }

/-- Update of the part radio of State. -/
def State.modRadio (s : State) (f : Radio → Radio) : State := { s with radio := f s.radio }

/-- Update of the part sess of State. -/
def State.modSess (s : State) (f : Sess → Sess) : State := { s with sess := f s.sess }

/-- Update of the part rel of State. -/
def State.modRel (s : State) (f : Rel → Rel) : State := { s with rel := f s.rel }

/-- Update of the part crypt of State. -/
def State.modCrypt (s : State) (f : Crypt → Crypt) : State := { s with crypt := f s.crypt }

/-- Update of the part keys of State. -/
def State.modKeys (s : State) (f : Keys → Keys) : State := { s with keys := f s.keys }

/-- Update of the part met of State. -/
def State.modMet (s : State) (f : Met → Met) : State := { s with met := f s.met }

/-- Update of the part ledger of State. -/
def State.modLedger (s : State) (f : Ledger → Ledger) : State := { s with ledger := f s.ledger }

/-- Update of the part health of State. -/
def State.modHealth (s : State) (f : Health → Health) : State := { s with health := f s.health }

/-- Update of the part net of State. -/
def State.modNet (s : State) (f : Net → Net) : State := { s with net := f s.net }

/-- Update of the part power of State. -/
def State.modPower (s : State) (f : Power → Power) : State := { s with power := f s.power }

/-- Update of the part cores of State. -/
def State.modCores (s : State) (f : Cores → Cores) : State := { s with cores := f s.cores }

/-- Update of the part tamper of State. -/
def State.modTamper (s : State) (f : Tamper → Tamper) : State := { s with tamper := f s.tamper }

/-- Update of the part jtag of State. -/
def State.modJtag (s : State) (f : Jtag → Jtag) : State := { s with jtag := f s.jtag }

/-- Update of the part mem of State. -/
def State.modMem (s : State) (f : Memory → Memory) : State := { s with mem := f s.mem }

/-- Update of the part free of State. -/
def State.modFree (s : State) (f : Nat → Nat) : State := { s with free := f s.free }

/-- Update of the part pending of State. -/
def State.modPending (s : State) (f : List Instr → List Instr) : State := { s with pending := f s.pending }

end Sys2Proof.Machine
end

