-- ==== Sys2Proof/Machine/Meton.lean ====
section
/-!
DEFINITION. The fields of the Meton image (R524 to R529 of 21_configuration_and_boot and the tables of the chapters that
define each record) and the value of each in force.
-/
namespace Sys2Proof.Machine

/-- A field of the image: its length in bytes, its range in counts of its step, one value admitted outside the range, its
factory value (none where R573 gives it none), and whether it is a record longer than 8 bytes. -/
structure FieldSpec where
  len : Nat
  lo : Int
  hi : Int
  extra : Option Int := none
  dflt : Option Int := none
  long : Bool := false
  deriving DecidableEq, Repr, Inhabited

/-- The smallest of 1, 2, 4 or 8 bytes that holds a range (R526). -/
def numLen (lo hi : Int) : Nat :=
  if lo < 0 then
    if -128 ≤ lo ∧ hi ≤ 127 then 1 else if -32768 ≤ lo ∧ hi ≤ 32767 then 2
    else if -2147483648 ≤ lo ∧ hi ≤ 2147483647 then 4 else 8
  else if hi ≤ 0xFF then 1 else if hi ≤ 0xFFFF then 2 else if hi ≤ 0xFFFFFFFF then 4 else 8

/-- A numeric field with its factory value (R526). -/
def num (lo hi d : Int) : Option FieldSpec := some { len := numLen lo hi, lo := lo, hi := hi, dflt := some d }

/-- A numeric field with no factory value (R573). -/
def numNone (lo hi : Int) : Option FieldSpec := some { len := numLen lo hi, lo := lo, hi := hi }

/-- A numeric field that admits one value outside its range, off or none (R526). -/
def numOff (lo hi off d : Int) : Option FieldSpec :=
  some { len := numLen lo (max hi off), lo := lo, hi := hi, extra := some off, dflt := some d }

/-- A bitmap of `n` bytes. -/
def bitmap (n : Nat) (d : Int) : Option FieldSpec := some { len := n, lo := 0, hi := 2 ^ (8 * n) - 1, dflt := some d }

/-- SYSTEM (R529, 21_configuration_and_boot). -/
def specSystem : Nat → Option FieldSpec
  | 1 => num 1 0xFE 1
  | 2 => num 1024 65535 50210
  | 3 => num 0 15 0
  | 4 => num 0 1 0
  | 5 => num (-100000) 100000 0
  | 6 => num (-100) 0 (-34)
  | 7 => num 0 500 250
  | 8 => num 100 1000000000 10000
  | 9 => num 0 1 0
  | 10 => num 0 1 0
  | 11 => num 1 999 100
  | 12 => num 1 1000 10
  | 13 => num 0 1 0
  | 14 => num 2000 3600 2200
  | _ => none

/-- PARTNERS (R528). -/
def specPartners (i : Nat) : Option FieldSpec :=
  if 0x10 ≤ i ∧ i ≤ 0x1F then some { len := 64, lo := 0, hi := 0, long := true }
  else match i with
    | 1 => num 0 1 1
    | 2 => num 0 1 0
    | 3 => bitmap 2 0
    | 4 => num 0 15 2
    | 5 => num 0 1 0
    | 6 => num 1 255 3
    | _ => none

/-- LF_ARRAY (R528, R76, R74, R70, R78). -/
def specLfArray (inst i : Nat) : Option FieldSpec :=
  if inst < 64 then
    match i with
    | 1 => num 0 1 1
    | 2 => num 10 2000 (if inst < 16 then 100 else 200)
    | 3 => num 0 600 200
    | 4 => num 0 1 0
    | _ => none
  else if inst = 0x40 then
    match i with
    | 1 => num 80 260 240
    | 2 => num 60 86400 600
    | 3 => num 10 500 50
    | _ => none
  else none

/-- FIELD_MAP (R528, R81, R84). A band is checked by `bandOk`. -/
def specFieldMap (inst i : Nat) : Option FieldSpec :=
  if inst < 16 then
    if 1 ≤ i ∧ i ≤ 16 then num 0 100 0
    else if 17 ≤ i ∧ i ≤ 32 then num 0 15 0
    else none
  else if inst = 16 then (if i = 1 then bitmap 2 0 else none)
  else if 0x20 ≤ inst ∧ inst ≤ 0x2F then (if 1 ≤ i ∧ i ≤ 8 then bitmap 2 0x00FF else none)
  else none

/-- COUPLING (R528, R87, R88, R573). -/
def specCoupling (inst i : Nat) : Option FieldSpec :=
  if inst = 0 then (if 1 ≤ i ∧ i ≤ 64 then bitmap 6 0 else none)
  else if inst = 1 then (if 1 ≤ i ∧ i ≤ 48 then numNone 0 3 else none)
  else none

/-- POPULATION (R528, R126 to R128, R96). -/
def specPopulation : Nat → Option FieldSpec
  | 1 => num 0 4 0
  | 2 => num 0 48 0
  | 3 => num 0 4 0
  | 4 => num 0 4 0
  | 5 => num 1 3600 60
  | 6 => num 100 1000000000 1000000
  | 7 => num 5 3600 30
  | 8 => num 10 60 50
  | _ => none

/-- RADIO (R528, R136, R138, R140, R146, R151). -/
def specRadio (i : Nat) : Option FieldSpec :=
  if 5 ≤ i ∧ i ≤ 21 then num 0 15 0
  else match i with
    | 1 => num 0 2 1
    | 2 => num (-20) 14 (-20)
    | 3 => num 0 1 0
    | 4 => num 1 500 20
    | _ => none

/-- One wake configuration (R164, 06_key_sessions). -/
def specWake (i : Nat) : Option FieldSpec :=
  if 5 ≤ i ∧ i ≤ 12 then numOff 0 15 0xFF 0xFF
  else match i with
    | 1 => num 0 1 0
    | 2 => numNone 0x0001 0xFFFE
    | 3 => num 0 0xFF 0xFF
    | 4 => numNone 0 15
    | 13 => numOff 10 6000 0 0
    | 14 => bitmap 1 0x06
    | 15 => bitmap 1 0x01
    | 16 => numOff 1 16382 0 300
    | 17 => num 0 1 0
    | 18 => num 0 255 50
    | _ => none

/-- One antenna set, and the sets named by the wake configurations (R204, R528). -/
def specRanging (inst i : Nat) : Option FieldSpec :=
  if inst < 4 then
    match i with
    | 1 => num 0 1 0
    | 2 => num 0 1 1
    | 3 => num 9 12 9
    | 4 => num (-120) (-70) (-83)
    | 5 => num 0 1 0
    | 6 => num 0 4096 0
    | 7 => num 0 4096 0
    | 8 => num 0 4096 0
    | 9 => num (-1800) 1800 0
    | 10 => num 50 600 188
    | 11 => num 0 1 0
    | _ => none
  else if inst = 4 then (if 1 ≤ i ∧ i ≤ 8 then num 0 3 0 else none)
  else none

/-- One zone (R205, R573). -/
def specZone : Nat → Option FieldSpec
  | 1 => num 0 1 0
  | 2 => num 0 3 0
  | 3 => numNone 0 3000
  | 4 => numNone 0 3000
  | 5 => num 0 1 0
  | 6 => numNone (-90) 90
  | 7 => numNone (-90) 90
  | 8 => num 0 1 0
  | 9 => num 0 1 0
  | 10 => num 20 500 100
  | 11 => num 3 30 12
  | _ => none

/-- RELEASE (R225). The factory value of release_idle is that of vehicle; `cfg` gives off in storage. -/
def specRelease : Nat → Option FieldSpec
  | 1 => num 0 1 0
  | 2 => num 1 100 20
  | 3 => num 100 1000000 10000
  | 4 => numOff 60 86400 0 1800
  | 5 => num 0 600 20
  | 6 => num 0 1 1
  | 7 => num 0 1 1
  | _ => none

/-- CIPHER (R528, R245, R246, R260). -/
def specCipher (i : Nat) : Option FieldSpec :=
  if 1 ≤ i ∧ i ≤ 16 then num 0 32 2
  else match i with
    | 17 => num 0 224 32
    | 18 => num 1 15 3
    | 19 => num 1 168 24
    | _ => none

/-- METERING (R303). -/
def specMetering (i : Nat) : Option FieldSpec :=
  if 3 ≤ i ∧ i ≤ 6 then num 943719 1153433 1048576
  else if 7 ≤ i ∧ i ≤ 10 then num (-335544) 335544 0
  else match i with
    | 1 => num 50 4000 1000
    | 2 => num 100 1500 1000
    | 11 => num 5 500 20
    | 12 => num 5 500 20
    | 13 => num 1 100 10
    | 14 => num 0 1 0
    | 15 => num 0 2 0
    | 16 => num 0 360000000000 18000000000
    | 17 => num 0 604800 86400
    | 18 => num 0 15 0
    | 19 => num 100 1000000000 1000000
    | _ => none

/-- NETWORK (R528, R457, R459, R462 to R470, R478). -/
def specNetwork (inst i : Nat) : Option FieldSpec :=
  if inst < 4 then
    match i with
    | 1 => num 2 8 8
    | 2 => num 1 0xFF 0x20
    | 3 => num 0 255 0
    | 4 => num 0 0xFF 0x80
    | 5 => num 0 1 1
    | 6 => num 0 1000 0
    | _ => none
  else if inst < 6 then
    match i with
    | 1 => num 0 2 2
    | 2 => num 0 1 1
    | 3 => num 0 2 2
    | 4 => num 0 64 0
    | 5 => num 0 3 0
    | _ => none
  else if inst = 6 then
    match i with
    | 1 => num 0 15 0
    | 2 => num 0 0xFFFFFFFF 0
    | 3 => num 0 0xFF 0x10
    | 4 => num 5 3600 60
    | 5 => bitmap 2 0xFFFC
    | 6 => num 20 600 600
    | 7 => num 70 98 90
    | 8 => num 70 98 88
    | _ => none
  else none

/-- TAMPER (R516). -/
def specTamper (i : Nat) : Option FieldSpec :=
  if 1 ≤ i ∧ i ≤ 4 then num 0 1 0
  else if 5 ≤ i ∧ i ≤ 8 then num 0 1 0
  else if 9 ≤ i ∧ i ≤ 12 then num 0 2 1
  else match i with
    | 13 => num 1 10000 100
    | 14 => num 0 1 0
    | 15 => num 100 100000 1000
    | 16 => num 1 16 3
    | 17 => num 0 1 0
    | _ => none

/-- Record codes (R527). -/
def recSystem : Nat := 0x0001
/-- R527. -/
def recPartners : Nat := 0x0010
/-- R527. -/
def recLfArray : Nat := 0x0020
/-- R527. -/
def recFieldMap : Nat := 0x0021
/-- R527. -/
def recCoupling : Nat := 0x0022
/-- R527. -/
def recPopulation : Nat := 0x0023
/-- R527. -/
def recRadio : Nat := 0x0030
/-- R527. -/
def recWake : Nat := 0x0031
/-- R527. -/
def recRanging : Nat := 0x0032
/-- R527. -/
def recZones : Nat := 0x0033
/-- R527. -/
def recRelease : Nat := 0x0040
/-- R527. -/
def recCipher : Nat := 0x0050
/-- R527. -/
def recMetering : Nat := 0x0060
/-- R527. -/
def recNetwork : Nat := 0x0070
/-- R527. -/
def recTamper : Nat := 0x0090

/-- The records of R527 with no instances number their fields below 0x100. -/
def flat (i field : Nat) (sp : Option FieldSpec) : Option FieldSpec := if i = field then sp else none

/-- The specification of a field by record code and field number, instance × 0x100 + index (R527). -/
def fieldSpec (record field : Nat) : Option FieldSpec :=
  let inst := field / 0x100
  let i := field % 0x100
  if record = recSystem then flat i field (specSystem i)
  else if record = recPartners then flat i field (specPartners i)
  else if record = recLfArray then specLfArray inst i
  else if record = recFieldMap then specFieldMap inst i
  else if record = recCoupling then specCoupling inst i
  else if record = recPopulation then flat i field (specPopulation i)
  else if record = recRadio then flat i field (specRadio i)
  else if record = recWake then (if inst < 8 then specWake i else none)
  else if record = recRanging then specRanging inst i
  else if record = recZones then (if inst < 16 then specZone i else none)
  else if record = recRelease then flat i field (specRelease i)
  else if record = recCipher then flat i field (specCipher i)
  else if record = recMetering then flat i field (specMetering i)
  else if record = recNetwork then specNetwork inst i
  else if record = recTamper then flat i field (specTamper i)
  else none

/-- A record code of R527. -/
def knownRecord (record : Nat) : Bool :=
  [0x0001, 0x0010, 0x0020, 0x0021, 0x0022, 0x0023, 0x0030, 0x0031, 0x0032, 0x0033, 0x0040, 0x0050, 0x0060, 0x0070,
    0x0090].contains record

/-- A band of R84 as R528 encodes it: lo ≤ hi, or "any". -/
def bandOk (v : Int) : Bool := v == 0x00FF || decide (v % 256 ≤ v / 256)

/-- A value is admitted by its field (R526, R528). -/
def FieldSpec.admits (sp : FieldSpec) (record field : Nat) (v : Int) : Bool :=
  ((decide (sp.lo ≤ v) && decide (v ≤ sp.hi)) || sp.extra == some v) &&
    (!(record == recFieldMap && decide (0x20 ≤ field / 0x100)) || bandOk v)

/-- The key of a field in a layer (R530's numbering). -/
def cfgKey (record field : Nat) : Nat := record * 0x10000 + field

/-- The value a layer holds for a key. -/
def layerGet (layer : List (Nat × Int)) (key : Nat) : Option Int :=
  (layer.find? fun p => p.1 == key).map (·.2)

/-- A layer with a value set. -/
def layerSet (layer : List (Nat × Int)) (key : Nat) (v : Int) : List (Nat × Int) :=
  (key, v) :: layer.filter fun p => p.1 != key

/-- The factory value of a field (R524, R573); release_idle is off in storage (R225). -/
def factoryVal (storage : Bool) (record field : Nat) : Option Int :=
  if record == recRelease && field == 4 && storage then some 0
  else ((fieldSpec record field).bind (·.dflt))

/-- The value in force and its layer code: 0 factory, 1 image, 2 runtime (R524). -/
def State.cfgLayer (s : State) (record field : Nat) : Option (Int × Nat) :=
  match layerGet s.cfg.runtime (cfgKey record field) with
  | some v => some (v, 2)
  | none =>
    match layerGet s.cfg.image (cfgKey record field) with
    | some v => some (v, 1)
    | none => (factoryVal s.rel.storage record field).map fun v => (v, 0)

/-- The value in force, none where no layer carries the field (R573). -/
def State.cfg? (s : State) (record field : Nat) : Option Int := (s.cfgLayer record field).map (·.1)

/-- The signed value in force, 0 where no layer carries the field. -/
def State.cfgI (s : State) (record field : Nat) : Int := (s.cfg? record field).getD 0

/-- The value in force of an unsigned field. -/
def State.cfgN (s : State) (record field : Nat) : Nat := (s.cfgI record field).toNat

/-- A flag in force. -/
def State.cfgB (s : State) (record field : Nat) : Bool := s.cfgN record field == 1

/-- The number of an instance's field (R527). -/
def fieldNo (inst i : Nat) : Nat := inst * 0x100 + i

end Sys2Proof.Machine
end

