-- ==== Sys2Proof/Machine/Ops.lean ====
section
/-!
DEFINITION. The operations shared by every family: time and its uncertainty, free draws, key derivation, raising events,
the Moraine ledger, the health log, and the posting of mailbox results.
-/
namespace Sys2Proof.Machine

/-! ### Time (12_timebase) -/

/-- The increment in use (R326). -/
def Tbu.inc (t : Tbu) : Nat :=
  match t.src with
  | .reference => t.incRef
  | .slowCrystal => t.incSlow
  | .rc => t.incRc

/-- TB_NS:F as one number in 2^-40 ns. -/
def Tbu.count (t : Tbu) : Nat := t.ns.toNat * 2 ^ 40 + t.frac.toNat

/-- TB_NS (R322). -/
def State.now (s : State) : Nat := s.tbu.ns.toNat

/-- TB_FRAC, the top 8 bits of F (R322). -/
def State.frac8 (s : State) : Nat := s.tbu.frac.toNat / 2 ^ 32

/-- TB_NS:TB_FRAC in 1/256 ns (R322). -/
def State.now256 (s : State) : Nat := 256 * s.now + s.frac8

/-- The part of U accrued in the 600 s before the present value (R332). -/
def State.accrued600 (s : State) : Nat :=
  ((s.tbu.accruals.filter fun p => decide (s.now ≤ p.1 + 600000000000)).map (·.2)).sum

/-- The uncertainty u of the present value, saturating (R322, R332). -/
def State.unc (s : State) : Nat := min (8 + s.accrued600) 0xFFFFFFFF

/-- U at the latest hourly point at or before a stamp; 0 where there is none (R332). -/
def State.histAt (s : State) (a : Nat) : Nat :=
  match (s.tbu.hist.filter fun p => decide (p.1 ≤ a)).getLast? with
  | some p => p.2
  | none => 0

/-- ε(a, now) of R332 for a stamp of the present epoch. -/
def State.eps (s : State) (a : Nat) : Nat :=
  if s.now - a ≤ 600000000000 then s.unc else 8 + s.tbu.uAcc - s.histAt a

/-- The elapsed time since a stamp less its uncertainty, 0 where that is negative (R333). -/
def State.sinceLess (s : State) (a : Nat) : Nat := (s.now - a) - s.eps a

/-! ### Free values (log 11) -/

/-- The present free value. -/
def State.freeVal (s : State) : Nat := Config.freeNat s.free

/-- The next draw. -/
def State.drawn (s : State) : State := s.modFree (· + 1)

/-- The present free value as `n` bytes. -/
def State.freeBytes (s : State) (n : Nat) : List Byte := leBytes n s.freeVal

/-! ### Domains -/

/-- PDd is powered (R502). -/
def State.pdOn (s : State) (d : Nat) : Bool := s.psc.powered.getLsbD d

/-- The roles run: boot has completed, and the core pairs are powered in Run and in Drift (R482, R491). -/
def State.rolesRun (s : State) : Bool :=
  s.mbx.ready && s.boot.phase == .running && (s.psc.state == .run || s.psc.state == .drift)

/-- Each half of the rule starts afresh: after a reset, a wake from Firn or Permafrost, or a restart of PD13 (R226). -/
def State.restartHalves (s : State) : State :=
  s.modRel fun r => { r with still := if r.sstlA && r.sstlB then some s.now else none, quiet := none }

/-- A port's statistics updated (R468): 0, 1 for T1A, T1B and 2 to 5 for S0 to S3. -/
def State.modStat (port : Nat) (f : PortStat → PortStat) (s : State) : State :=
  s.modNet fun n => { n with stats := n.stats.modify port f }

/-- Frames sent on a port. -/
def State.countSent (port n : Nat) (s : State) : State := s.modStat port fun x => { x with tx := satAdd 0xFFFFFFFF x.tx n }

/-- Frames sent on every port whose link is up. -/
def State.countSentAll (n : Nat) (s : State) : State :=
  (List.range 6).foldl (fun t p => if t.net.linkUp.getD p false then t.countSent p n else t) s

/-! ### The event controller (14_event_controller) -/

/-- The group's registers. -/
def Evc.group (e : Evc) (g : Nat) : EvcGroup := e.groups.getD g {}

/-- The group's registers updated. -/
def Evc.modGroup (e : Evc) (g : Nat) (f : EvcGroup → EvcGroup) : Evc := { e with groups := e.groups.modify g f }

/-- The host target's registers. -/
def Evc.target (e : Evc) (j : Nat) : HostTarget := e.targets.getD j {}

/-- The host target's registers updated. -/
def Evc.modTarget (e : Evc) (j : Nat) (f : HostTarget → HostTarget) : Evc := { e with targets := e.targets.modify j f }

/-- The route mask of R377 over T0 to T9: with any host bit set the core bits are ignored. -/
def EvcGroup.route (g : EvcGroup) (t : Nat) : Bool :=
  if t < 4 then g.hostMask == 0 && g.coreMask.getLsbD t else g.hostMask.getLsbD (t - 4)

/-- Host target Tn is awake (R376), with the announced set `asleep`; T4 to T7 sleep while PD6's pads are frozen (R498). -/
def State.hostAwake (s : State) (asleep : BitVec 6) (j : Nat) : Bool :=
  !asleep.getLsbD j && !(decide (j < 4) && s.pad.frz.getLsbD 6) &&
    (decide (j < 4) || (s.net.linkUp.getD (j - 4) false && s.evc.mgmtPeer.getD (j - 4) false))

/-- Target Tn is awake (R376). -/
def State.awakeWith (s : State) (asleep : BitVec 6) (t : Nat) : Bool :=
  if t < 4 then s.pdOn (1 + t) && (s.cores.pairs.getD t {}).inService
  else decide (t < 10) && s.hostAwake asleep (t - 4)

/-- Target Tn is awake (R376, R386). -/
def State.awake (s : State) (t : Nat) : Bool := s.awakeWith s.psc.hostSleep t

/-- Target Tn can hold a delivery now (R379, R383). -/
def State.targetFree (s : State) (t : Nat) : Bool :=
  if t < 4 then decide ((s.evc.coreQ.getD t []).length < Config.coreQueueDepth)
  else (s.evc.target (t - 4)).dlv.isNone && decide ((s.evc.target (t - 4)).holdoff ≤ s.now)

/-- Target Tn is eligible for group g (R379). -/
def State.eligible (s : State) (asleep : BitVec 6) (g t : Nat) : Bool :=
  (s.evc.group g).route t && s.awakeWith asleep t && s.targetFree t

/-- T0 to T9 in cyclic order from the target after `last` (R379). -/
def cyclic (last : Nat) : List Nat :=
  (List.range 10).map fun k => (if last < 10 then last + 1 + k else k) % 10

/-- The target a batch of group g goes to: round robin, a retracting target passed over while another is eligible
(R379, R383). -/
def State.chosen (s : State) (asleep : BitVec 6) (g : Nat) (avoid : Option Nat) : Option Nat :=
  let es := (cyclic (s.evc.group g).last).filter (s.eligible asleep g)
  match es.find? (fun t => avoid != some t) with
  | some t => some t
  | none => es.head?

/-- A batch of group g falls due with the trigger time it carries (R378), the announced set being `asleep`; with no eligible
target the group's EVC_NOTGT bit sets (R384), and its first WAKE_OUT pulse is owed. -/
def State.fallDueWith (asleep : BitVec 6) (g : Nat) (b : Batch) (s : State) : State :=
  let s1 := s.modEvc fun e =>
    { e.modGroup g fun x => { x with due := x.due ++ [b] } with
      wakeLast := e.wakeLast.set g none }
  if (s.chosen asleep g b.avoid).isNone then
    s1.modEvc fun e => { e with noTgt := e.noTgt ||| BitVec.ofNat 16 (1 <<< g) }
  else s1

/-- A batch of group g falls due (R378). -/
def State.fallDue (g : Nat) (b : Batch) (s : State) : State := s.fallDueWith s.psc.hostSleep g b

/-- TB_NS at which a batch meets its time trigger (R378). -/
def EvcGroup.dueTime (gr : EvcGroup) (b : Batch) : Nat := b.tFirst + gr.timeUs * 1000

/-- A collecting batch that meets a trigger is due (R378, R394): on its count at once, on its time at that time or, when a write
of the triggers brought it forward, at once. -/
def State.dueCheck (g : Nat) (wrote : Bool) (s : State) : State :=
  let gr := s.evc.group g
  match gr.collecting with
  | some b =>
    if gr.cntThr ≤ b.count ∨ gr.dueTime b ≤ s.now then
      (s.modEvc fun e => e.modGroup g fun x => { x with collecting := none }).fallDue g
        { b with trigger := if gr.cntThr ≤ b.count ∨ wrote then s.now else gr.dueTime b }
    else s
  | none => s

/-- TB_NS of the step before the present one (R323). -/
def State.prevNs (s : State) : Nat := (s.tbu.count - s.tbu.inc) / 2 ^ 40

/-- A batch whose time trigger fell on an earlier step has stopped collecting (R378). -/
def State.closeBatch (g : Nat) (s : State) : State :=
  match (s.evc.group g).collecting with
  | some b => if (s.evc.group g).dueTime b ≤ s.prevNs then s.dueCheck g false else s
  | none => s

/-- An event reaches the EVC and opens or joins its group's batch; a batch that meets a trigger is due (R375, R377, R378). -/
def State.collect (g src : Nat) (s : State) : State :=
  let s1 := s.closeBatch g
  let gr := s1.evc.group g
  if gr.hostMask == 0 && gr.coreMask == 0 then s1
  else
    let b0 := gr.collecting.getD { tFirst := s.now }
    let b := { b0 with bitmap := b0.bitmap ||| BitVec.ofNat 16 (1 <<< src), count := satAdd 255 b0.count 1 }
    (s1.modEvc fun e => e.modGroup g fun x => { x with collecting := some b }).dueCheck g false

/-- An occurrence of source `src` of group `g` (R375); held at its source while PD6 is gated (R389). -/
def State.raise (g src : Nat) (s : State) : State :=
  if !(s.evc.group g).srcEn.getLsbD src then s
  else if !s.pdOn 6 then s.modEvc fun e => { e with held := e.held ++ [(g, src)] }
  else s.collect g src

/-- A TBU_EVT bit sets, and its event is raised when TBU_EVT_EN enables it (R344, R375). -/
def State.tbuEvt (b : Nat) (s : State) : State :=
  let s1 := s.modTbu fun t => { t with evt := t.evt ||| word (1 <<< b) }
  if s.tbu.evtEn.getLsbD b then s1.raise 8 b else s1

/-- u against unc_limit and its saturation: the bits of R344 set when u rises through them. -/
def State.uncEvents (before : Nat) (s : State) : State :=
  let lim := s.tbu.uncLimit.toNat
  let s1 := if before ≤ lim ∧ lim < s.unc then s.tbuEvt 3 else s
  if before < 0xFFFFFFFF ∧ s1.unc = 0xFFFFFFFF then s1.tbuEvt 4 else s1

/-- A charge added to U (R331). -/
def State.charge (n : Nat) (s : State) : State :=
  (s.modTbu fun t =>
    { t with
      uAcc := t.uAcc + n
      accruals := (t.accruals.filter fun p => decide (s.now ≤ p.1 + 600000000000)) ++
        (if n = 0 then [] else [(s.now, n)]) }).uncEvents s.unc

/-! ### Keys (10_keys_and_contexts) -/

/-- The counter-mode KDF of R281. -/
def kdf (root : List Byte) (purpose identity role epoch bits : Nat) : List Byte :=
  let inp := fun (i : Nat) =>
    beBytes 1 i ++ beBytes 2 purpose ++ [0] ++ beBytes 8 identity ++ beBytes 1 role ++ beBytes 4 epoch ++ beBytes 2 bits
  ((Aes.cmac root (inp 1)) ++ (if 128 < bits then Aes.cmac root (inp 2) else [])).take (bits / 8)

/-- A root slot. -/
def State.slot (s : State) (k : Nat) : KeySlot := s.keys.slots.getD k {}

/-- A root slot updated. -/
def State.modSlot (s : State) (k : Nat) (f : KeySlot → KeySlot) : State :=
  s.modKeys fun x => { x with slots := x.slots.modify k f }

/-- A slot yields a key to a partner exchange: LOADED and of class PARTNER (R276). -/
def State.partnerSlot (s : State) (k : Nat) : Bool := (s.slot k).loaded && (s.slot k).cls == 2

/-- A slot named by the image for a service: LOADED and of class SYSTEM or PARTNER (R569). -/
def State.serviceSlot (s : State) (k : Nat) : Bool :=
  (s.slot k).loaded && ((s.slot k).cls == 1 || (s.slot k).cls == 2)

/-- The key of a partner record for a purpose (R276, R281, R282); none where the slot yields no key or the slots are sealed
(R287). -/
def State.partnerKey (s : State) (r : PartRec) (purpose bits : Nat) : Option (List Byte) :=
  if s.partnerSlot r.slot && !s.crypt.sealed then some (kdf (s.slot r.slot).key purpose r.identity r.role r.keyEpoch bits)
  else none

/-- The Moraine chain key of an epoch (R314, R569); none while the slot yields no key or the slots are sealed. -/
def State.chainKey (s : State) (epoch : Nat) : Option (List Byte) :=
  let k := s.cfgN recMetering 18
  if s.serviceSlot k && !s.crypt.sealed then
    some (kdf (s.slot k).key 0x0701 Config.deviceIdentity 0 epoch 128)
  else none

/-! ### Moraine (11_metering_and_moraine) -/

/-- The critical types of R315 in the order of its table. -/
def criticalTypes : List Nat :=
  [0x10, 0x11, 0x12, 0x22, 0x30, 0x31, 0x32, 0x40, 0x50, 0x60, 0x61, 0x70, 0x71, 0xF0, 0xF1, 0xF2]

/-- A critical entry (R315). -/
def Entry.critical (e : Entry) : Bool := criticalTypes.contains e.type

/-- An ENERGY or CHARGE entry (R315). -/
def Entry.summary (e : Entry) : Bool := e.type == 0x01 || e.type == 0x02

/-- The place of a type in the pending tally (R315 TALLY). -/
def tallyIndex (t : Nat) : Nat :=
  if t = 0x20 then 0 else if t = 0x21 then 1 else if t = 0x80 then 2 else if t = 0x51 then 3 else 4

/-- Entries held at most (R313). -/
def ringSize : Nat := 12288

/-- The free count (R317). -/
def Ledger.freeCount (l : Ledger) : Nat := ringSize - l.ring.length

/-- tail (R316). -/
def Ledger.tail (l : Ledger) : Nat := match l.ring with | [] => l.head | e :: _ => e.seq

/-- The 52 bytes that an entry's mac covers (R313). -/
def Entry.bytes (e : Entry) : List Byte :=
  leBytes 1 e.type ++ leBytes 1 e.flags ++ leBytes 2 e.aux ++ leBytes 4 e.seq ++ leBytes 8 e.ns ++ leBytes 4 e.epoch ++
    leBytes 4 e.unc ++ fit 4 e.link ++ fit 24 e.body

/-- The 64 bytes of an entry (R313). -/
def Entry.full (e : Entry) : List Byte := e.bytes ++ fit 12 e.mac

/-- One count of the pending tally (R317). -/
def State.tallyUp (t : Nat) (s : State) : State :=
  s.modLedger fun l => { l with tally := l.tally.modify (tallyIndex t) fun n => satAdd 0xFFFF n 1 }

/-- Low-space mode begins once the free count is 512 or less; an ENERGY entry waits for its CHARGE entry (R317). -/
def State.lowCheck (t : Nat) (s : State) : State :=
  if t ≠ 0x01 ∧ !s.ledger.lowSpace ∧ s.ledger.freeCount ≤ 512 then
    (s.modLedger fun l => { l with lowSpace := true }).raise 7 1
  else s

/-- An entry is written to the ring with seq, link and mac (R313, R314, R319). -/
def State.ringPut (key : List Byte) (e : Entry) (s : State) : State :=
  if 0xFFFFFFFF ≤ s.ledger.head then s
  else
    let e1 := { e with seq := s.ledger.head, link := s.ledger.lastMac }
    let e2 := { e1 with mac := (Aes.cmac key e1.bytes).take 12 }
    (s.modLedger fun l =>
      { l with
        ring := l.ring ++ [e2], head := l.head + 1, lastMac := e2.mac.take 4, lastEntry := (e.ns, e.unc) }).lowCheck e.type

/-- An entry made now, with flag 1 set when u exceeds ledger_unc_max (R313). -/
def State.mkEntry (s : State) (type aux flags : Nat) (body : List Byte) : Entry :=
  { type := type, aux := aux % 0x10000,
    flags := flags ||| (if s.cfgN recMetering 19 < s.unc then 2 else 0),
    ns := s.now, epoch := s.tbu.epoch, unc := s.unc, body := fit 24 body }

/-- An entry that is made for another one that boot appends, before the EPOCH entry: it belongs to that entry's epoch, so that
the EPOCH entry stays the first of its own (R315; log 46). -/
def State.madeFor (s : State) (e x : Entry) : Entry :=
  if s.boot.epochDue then { x with ns := e.ns, epoch := e.epoch, unc := e.unc } else x

/-- The 64 oldest entries are dropped and a COMPACTION entry describes them, before the entry that needs the place (R318). -/
def State.compact (e : Entry) (s : State) : State :=
  let dropped := s.ledger.ring.take 64
  let crit := (dropped.filter Entry.critical).length
  let body := leBytes 4 ((dropped.head?.map (·.seq)).getD 0) ++ leBytes 4 ((dropped.getLast?.map (·.seq)).getD 0) ++
    leBytes 2 (dropped.length - crit) ++ leBytes 2 crit
  let x := s.madeFor e (s.mkEntry 0xF0 0 0 body)
  ((s.modLedger fun l => { l with ring := l.ring.drop 64, lost := l.lost + dropped.length }).raise 7 3).ringPut
    ((s.chainKey x.epoch).getD []) x

/-- A merged ENERGY entry (R317): the later counters, the intervals added, the flags gathered. -/
def mergeEnergy (old new : Entry) : Entry :=
  { new with aux := old.aux + new.aux, flags := old.flags ||| new.flags ||| 1 }

/-- A merged CHARGE entry (R317): unmetered times added, conditions gathered. -/
def mergeCharge (old new : Entry) : Entry :=
  { new with
    aux := old.aux + new.aux, flags := old.flags ||| new.flags ||| 1
    body := new.body.take 16 ++ leBytes 4 (satAdd 0xFFFFFFFF (uAt old.body 16 4) (uAt new.body 16 4)) ++
      leBytes 4 (uAt old.body 20 4 ||| uAt new.body 20 4) }

/-- A summary entry merged into the single pending pair of low-space mode (R317). -/
def State.pairMerge (e : Entry) (s : State) : State :=
  s.modLedger fun l =>
    { l with pair := some (match l.pair with
      | none => if e.type = 0x01 then (e, { type := 0x02 }) else ({ type := 0x01 }, e)
      | some (a, c) =>
        if e.type = 0x01 then ((if a.aux = 0 then e else mergeEnergy a e), c)
        else (a, if c.aux = 0 then e else mergeCharge c e)) }

/-- An entry is appended with a key at hand (R317, R318): in low-space mode summaries merge and other routine entries are
tallied; a critical entry makes room for itself. -/
def State.ringAppend (key : List Byte) (e : Entry) (s : State) : State :=
  if e.critical then
    (if s.ledger.freeCount = 0 then s.compact e else s).ringPut key e
  else if e.summary then
    (if s.ledger.lowSpace && !(e.type == 0x02 && (s.ledger.ring.getLast?.map (·.type)) == some 0x01) then s.pairMerge e
      else s.ringPut key e)
  else if s.ledger.lowSpace then s.tallyUp e.type
  else s.ringPut key e

/-- The place of an entry displaced from the pending area among the critical types (R315 OVERFLOW). -/
def dispBit (t : Nat) : Nat := 1 <<< (criticalTypes.findIdx (· == t))

/-- A critical entry goes to the pending area; with its 510 critical places taken the newest is displaced (R314). -/
def State.toArea (e : Entry) (s : State) : State :=
  let crit := s.ledger.area.filter Entry.critical
  if crit.length < 510 then s.modLedger fun l => { l with area := l.area ++ [e] }
  else
    match crit.getLast? with
    | none => s
    | some old =>
      s.modLedger fun l =>
        { l with
          area := l.area.map (fun x => if x == old then e else x)
          displaced := l.displaced + 1, lost := l.lost + 1
          dispFirst := if l.displaced = 0 then old.ns else l.dispFirst
          dispLast := old.ns
          dispTypes := l.dispTypes ||| dispBit old.type }

/-- The volatile queue of 64 and what follows when it is full (R314), for an entry other than a summary. -/
def State.enqueue (e : Entry) (s : State) : State :=
  if s.ledger.queue.length < 64 then s.modLedger fun l => { l with queue := l.queue ++ [e] }
  else
    match s.ledger.queue.find? fun x => !x.critical && !x.summary with
    | some old => (s.modLedger fun l => { l with queue := l.queue.erase old ++ [e] }).tallyUp old.type
    | none => if e.critical then s.toArea e else s.tallyUp e.type

/-- An entry other than a summary is appended, or queued while no key is at hand or others wait (R314). -/
def State.ledger1 (e : Entry) (s : State) : State :=
  if s.ledger.queue.isEmpty && s.ledger.area.isEmpty then
    match s.chainKey e.epoch with
    | some k => s.ringAppend k e
    | none => s.enqueue e
  else s.enqueue e

/-- An entry of a type, aux and body made now and appended (R313 to R315). -/
def State.ledgerAdd (type aux : Nat) (body : List Byte) (s : State) : State := s.ledger1 (s.mkEntry type aux 0 body)

/-- A waiting pair in a list of waiting entries takes a later pair (R314). -/
def mergeWaiting (e c : Entry) (q : List Entry) : List Entry :=
  q.map fun x => if x.type = 0x01 then mergeEnergy x e else if x.type = 0x02 then mergeCharge x c else x

/-- The routine entries of the queue that make room for a summary pair, oldest first (R314). -/
def Ledger.giveWay (l : Ledger) : List Entry :=
  (l.queue.filter fun x => !x.critical && !x.summary).take (l.queue.length + 2 - 64)

/-- An ENERGY and CHARGE pair is appended, merged or queued (R314, R317). -/
def State.ledgerPair (e c : Entry) (s : State) : State :=
  let waits := fun (q : List Entry) => q.any Entry.summary
  let out := s.ledger.giveWay
  let kept := out.foldl (fun q x => q.erase x) s.ledger.queue
  if s.ledger.queue.isEmpty && s.ledger.area.isEmpty && (s.chainKey e.epoch).isSome then
    let k := (s.chainKey e.epoch).getD []
    (s.ringAppend k e).ringAppend k c
  else if waits s.ledger.queue then s.modLedger fun l => { l with queue := mergeWaiting e c l.queue }
  else if waits s.ledger.area then s.modLedger fun l => { l with area := mergeWaiting e c l.area }
  else if kept.length + 2 ≤ 64 then
    out.foldl (fun t x => t.tallyUp x.type) (s.modLedger fun l => { l with queue := kept ++ [e, c] })
  else s.modLedger fun l => { l with area := l.area ++ [e, c] }

/-- A TALLY entry follows when any count is nonzero, and the tally restarts (R314, R317). -/
def State.putTally (key : List Byte) (s : State) : State :=
  if s.ledger.tally.all (· == 0) then s
  else
    (s.ringAppend key (s.mkEntry 0xF1 0 0 (s.ledger.tally.flatMap (leBytes 2)))).modLedger fun l =>
      { l with tally := [0, 0, 0, 0, 0] }

/-- The OVERFLOW entry of R315 for the entries displaced. -/
def State.overflowEntry (s : State) : Entry :=
  s.mkEntry 0xF2 0 0 (leBytes 4 s.ledger.displaced ++ leBytes 8 s.ledger.dispFirst ++ leBytes 8 s.ledger.dispLast ++
    leBytes 4 s.ledger.dispTypes)

/-- One waiting entry is appended with the key of its own epoch (R314). -/
def State.drainOne (e : Entry) (s : State) : State :=
  match s.chainKey e.epoch with
  | some k => s.ringAppend k e
  | none => s

/-- The queue, then the pending area, with an OVERFLOW entry before the last place where entries were displaced (R314). -/
def State.drainWaiting (s : State) : State :=
  if (s.chainKey s.tbu.epoch).isNone then s
  else
    let q := s.ledger.queue
    let a := s.ledger.area
    let lastCrit := (a.filter Entry.critical).getLast?
    let s1 := s.modLedger fun l => { l with queue := [], area := [] }
    let s2 := q.foldl (fun t e => t.drainOne e) s1
    let s3 := a.foldl (fun t e =>
      (if s.ledger.displaced ≠ 0 ∧ some e = lastCrit then t.drainOne (s.madeFor e s.overflowEntry) else t).drainOne e) s2
    s3.modLedger fun l => { l with displaced := 0, dispFirst := 0, dispLast := 0, dispTypes := 0 }

/-- A TALLY follows once nothing waits (R314). -/
def State.tallyDue (s : State) : State :=
  match s.chainKey s.tbu.epoch with
  | some k => if s.ledger.queue.isEmpty && s.ledger.area.isEmpty then s.putTally k else s
  | none => s

/-- Everything that waits is appended, then a TALLY (R314). -/
def State.drainLedger (s : State) : State := s.drainWaiting.tallyDue

/-! ### The health log (20_resilience_and_tamper) -/

/-- Codes that give one entry per unit per hour (R514). -/
def summarisedCodes : List Nat := [0x0010, 0x0012, 0x0020, 0x0030, 0x0040, 0x0070, 0x0080]

/-- Codes marked for the ledger (R514). -/
def ledgerCodes : List Nat := [0x0001, 0x0003, 0x0013, 0x0021, 0x0041, 0x0050, 0x0060, 0x0081, 0x00A0, 0x00A1]

/-- A health entry is appended to the ring of 2,048, raises source 0 of group 14, and goes to Moraine when its code is
marked (R513, R514). -/
def State.healthPut (r : HealthRec) (s : State) : State :=
  let s1 := (s.modHealth fun h =>
    { h with
      log := (h.log ++ [{ r with seq := h.next }]).drop (h.log.length + 1 - 2048)
      lost := h.lost + (h.log.length + 1 - 2048)
      next := h.next + 1, lastCode := r.code, since := satAdd 0xFFFF h.since 1 }).raise 14 0
  if ledgerCodes.contains r.code then
    s1.ledgerAdd 0x80 r.code (leBytes 1 r.unit ++ leBytes 1 r.action ++ leBytes 8 r.detail)
  else s1

/-- A happening for the health log: appended at once, or counted in its unit's summary of the hour (R513, R514). -/
def State.health1 (code unit action detail : Nat) (s : State) : State :=
  let r : HealthRec :=
    { code := code, unit := unit, action := action, epoch := s.tbu.epoch, ns := s.now, detail := detail }
  if summarisedCodes.contains code then
    if s.health.sums.any fun x => x.code == code && x.unit == unit then
      s.modHealth fun h =>
        { h with sums := h.sums.map fun x => if x.code == code && x.unit == unit then { x with count := x.count + 1 } else x }
    else s.modHealth fun h => { h with sums := h.sums ++ [r] }
  else s.healthPut r

/-- A happening of a code for which R514 gives no detail: its detail is a free value (R513). -/
def State.healthFree (code unit action : Nat) (s : State) : State :=
  (s.health1 code unit action (s.freeVal % 2 ^ 64)).drawn

/-! ### Mailboxes (16_mailboxes) -/

/-- A mailbox. -/
def State.box (s : State) (n : Nat) : Mailbox := s.mbx.boxes.getD n {}

/-- A mailbox updated. -/
def State.modBox (s : State) (n : Nat) (f : Mailbox → Mailbox) : State :=
  s.modMbx fun m => { m with boxes := m.boxes.modify n f }

/-- The opcode of a command as copied at its ring (R429). -/
def Mailbox.opcode (b : Mailbox) : Nat := uAt b.run 0 2

/-- The sequence of a command (R429). -/
def Mailbox.seq (b : Mailbox) : Nat := uAt b.run 2 2

/-- The payload of a command (R429). -/
def Mailbox.payload (b : Mailbox) : List Byte := slice b.run 16 (uAt b.run 6 2)

/-- The host window a command names (R429). -/
def Mailbox.window (b : Mailbox) : Nat := uAt b.run 8 1

/-- Results that report a completed effect carry a body and consume the payload (R21, R446). -/
def completes (status : Nat) : Bool := status == Status.ok || status == Status.timeDegraded || status == Status.derated

/-- The result area of R430. -/
def resultWords (b : Mailbox) (status consumed tbLow : Nat) (body : List Byte) : List Word :=
  wordsOf 64 (leBytes 2 status ++ leBytes 2 b.seq ++ leBytes 2 body.length ++ leBytes 2 0 ++ leBytes 4 consumed ++
    leBytes 4 tbLow ++ body ++ zeros (240 - body.length))

/-- The busy count of a window falls (R410). -/
def State.winFree (w : Option Nat) (s : State) : State :=
  match w with
  | some k => s.modFab fun f => { f with windows := f.windows.modify k fun x => { x with busy := x.busy - 1 } }
  | none => s

/-- A result is posted with a body that its row keeps for this status (R430, R435); the named window's busy count falls
(R410), and source n of group 0 is raised unless quiet was set. -/
def State.postWith (n status : Nat) (body : List Byte) (consumed : Nat) (s : State) : State :=
  let b := s.box n
  let s1 := (s.winFree b.winHeld).modBox n fun x =>
    { x with
      st := .posted, started := false, waiting := false, committed := false, reads := 0, winHeld := none
      res := resultWords b status consumed (s.now % 2 ^ 32) body }
  if (uAt b.run 4 2).testBit 0 then s1 else s1.raise 0 n

/-- A result is posted: its body and consumed count only with a status that completes (R446). -/
def State.post (n status : Nat) (body : List Byte) (s : State) : State :=
  if completes status then s.postWith n status body (s.box n).payload.length else s.postWith n status [] 0

/-- A command of the opcode is running in the mailbox: issued, started and not yet waiting for a happening. -/
def State.runs (s : State) (n opcode : Nat) : Bool :=
  decide ((s.box n).st = .issued) && (s.box n).started && !(s.box n).waiting && (s.box n).opcode == opcode

/-- A command stays ISSUED until a later happening posts it (R434, R447). -/
def State.wait (n : Nat) (s : State) : State := s.modBox n fun b => { b with waiting := true }

/-- A waiting command reaches its commit point (R434, R447). -/
def State.commit (n : Nat) (s : State) : State := s.modBox n fun b => { b with committed := true }

end Sys2Proof.Machine
end

