-- ==== Sys2Proof/Machine/Wake.lean ====
section
/-!
DEFINITION. Wake sources and the roll-back of a sleep entry (R489 to R493, R497, R498 of 19_power_states), shared by every
block that can wake the device.
-/
namespace Sys2Proof.Machine

/-- The order in which domains are gated (R488). -/
def gateOrder : List Nat := [10, 9, 11, 12, 13, 8, 7, 5, 1, 2, 3, 4, 6]

/-- Domains with pads at their edge (R497, R503). -/
def padDomain (d : Nat) : Bool := d == 6 || d == 10 || d == 13

/-- A wake code wakes a state (R491). -/
def wakesFrom (code : Nat) : PowerState → Bool
  | .run => false
  | .drift => decide (code ≤ 0x0D)
  | .firn => [0x00, 0x01, 0x02, 0x03, 0x04, 0x05, 0x06, 0x08, 0x09, 0x0A, 0x0B, 0x0C].contains code
  | .permafrost => [0x00, 0x02, 0x03, 0x04, 0x05, 0x06, 0x07, 0x08, 0x0B, 0x0C].contains code
  | .nunatakHold => false

/-- The code recorded: any source is work in Drift (R491). -/
def recordedCode (code : Nat) : PowerState → Nat
  | .drift => 0x0D
  | _ => code

/-- PSC_WAKE.from of a state left (R502). -/
def fromCode : PowerState → Nat
  | .drift => 1
  | .firn => 2
  | .permafrost => 3
  | _ => 0

/-- A wake code is enabled (R491, R502). -/
def State.wakeEnabled (s : State) (code : Nat) : Bool := s.psc.wakeEn.getLsbD code

/-- A domain is gated: its switch opens and its pads freeze (R488, R497). -/
def State.gateDomain (d : Nat) (s : State) : State :=
  (s.modPsc fun p =>
    { p with powered := p.powered &&& ~~~(BitVec.ofNat 14 (1 <<< d)), gatedNow := d :: p.gatedNow }).modPad fun q =>
    if padDomain d then { q with frz := q.frz ||| BitVec.ofNat 14 (1 <<< d) } else q

/-- A domain is restored; its pads are released unless PAD_REL keeps them (R498). -/
def State.restoreDomain (d : Nat) (s : State) : State :=
  (s.modPsc fun p => { p with powered := p.powered ||| BitVec.ofNat 14 (1 <<< d) }).modPad fun q =>
    if q.rel.getLsbD d then q else { q with frz := q.frz &&& ~~~(BitVec.ofNat 14 (1 <<< d)) }

/-- The body of a pwr.sleep result (17_command_reference). -/
def State.sleepBody (s : State) (reached veto src entry wake : Nat) : List Byte :=
  leBytes 1 reached ++ leBytes 1 veto ++ leBytes 1 src ++ [0] ++ leBytes 4 s.psc.wakeCount ++ leBytes 8 entry ++
    leBytes 8 wake

/-- pwr.sleep posts ROLLED_BACK with its body (R454). -/
def State.postRolledBack (veto : Nat) (s : State) : State :=
  match s.psc.sleepMb with
  | some n =>
    (s.postWith n Status.rolledBack (s.sleepBody 0 veto 0xFF 0 0) (s.box n).payload.length).modPsc
      fun p => { p with sleepMb := none }
  | none => s

/-- The entry ends on a veto or a wake source: domains gated so far are restored latest first, the roll-back is counted
once the commit has begun, and source 0 of group 12 is raised (R489). A restart of PD13 restarts the durations of R226. -/
def State.rollBack (veto : Nat) (s : State) : State :=
  let s0 := s.psc.gatedNow.foldl (fun t d => t.restoreDomain d) s
  let s1 := if s.psc.gatedNow.contains 13 then s0.restartHalves else s0
  let s2 := s1.modPsc fun p =>
    { p with
      entry := none, committed := false, gatedNow := [], vote := false, trimWait := false, keep := 0
      rollbacks := if s.psc.committed then satAdd 0xFFFF p.rollbacks 1 else p.rollbacks
      lastVeto := veto }
  let s3 := if s.psc.committed then s2.modLedger fun l => { l with flush := [] } else s2
  (s3.raise 12 0).postRolledBack veto

/-- The wake starts: its code, the state left and the time are recorded; of several sources in one step of the timebase the
lowest code, and a later one changes nothing (R491, R495). -/
def State.startWake (code : Nat) (s : State) : State :=
  let c := recordedCode code s.psc.state
  match s.psc.waking with
  | none => s.modPsc fun p => { p with waking := some c, wakeSrc := c, wakeFrom := fromCode p.state, wakeNs := s.now }
  | some w =>
    if s.psc.wakeNs = s.now then s.modPsc fun p => { p with waking := some (min c w), wakeSrc := min c w } else s

/-- A wake source occurs (R491, R493): in the commit phase it rolls the entry back while a domain is still to be gated, since
the state is reached with the last gating; in a sleep state the wake starts. -/
def State.wakeSource (code : Nat) (s : State) : State :=
  if !s.wakeEnabled code then s
  else
    match s.psc.entry with
    | some target =>
      if s.psc.committed && wakesFrom code target then s.rollBack 0 else s
    | none => if wakesFrom code s.psc.state then s.startWake code else s

end Sys2Proof.Machine
end

