-- ==== Sys2Proof/Machine/Timebase.lean ====
section
/-!
DEFINITION. The timebase unit (12_timebase): its sources, increments, uncertainty, civil time, PPS and gPTP, and the reads
that latch.
-/
namespace Sys2Proof.Machine

/-- The nominal increment of the slow crystal, 30,517.578125 ns in 2^-40 ns (R326). -/
def slowNominal : Nat := 33554432000000000

/-- The nominal increment of the reference, in 2^-40 ns (R326). -/
def refNominal : Nat := 28633115306667

/-- The increment on the reference with ref_trim in ppb (R326). -/
def refIncrement (trim : Int) : Nat := (roundDiv ((refNominal : Int) * (1000000000 + trim)) 1000000000).toNat


/-- TB_NS:F set from one number in 2^-40 ns. -/
def Tbu.setCount (t : Tbu) (n : Nat) : Tbu :=
  { t with ns := BitVec.ofNat 64 (n / 2 ^ 40), frac := BitVec.ofNat 40 (n % 2 ^ 40) }

/-- One step of the time source (R323): the increment is added to TB_NS:F. -/
def State.tick (s : State) : State :=
  if s.tbu.running then s.modTbu fun t => t.setCount (t.count + t.inc) else s

/-- The two conditions under which the trim is valid (R329). -/
def State.trimFresh (s : State) : Bool :=
  match s.tbu.trimEnd with
  | some e => decide (s.now ≤ e + 8000000000) && decide ((s.tbu.dieTemp - s.tbu.trimTemp).natAbs < 10)
  | none => false

/-- trim_valid (R329): after a planned change to the slow crystal the trim valid at the change stays valid. -/
def State.trimValid (s : State) : Bool :=
  s.tbu.trimInc.isSome && ((s.tbu.src == .slowCrystal && s.tbu.trimKept) || s.trimFresh)

/-- β × ((T − T0)² − (T_trim − T0)²) in 10^-5 ppm (R330); with no trim T_trim is T0 (R329). -/
def State.tempTerm (s : State) (temp : Int) : Int :=
  let t0 := s.cfgI recSystem 7
  let tt := if s.tbu.trimInc.isSome then s.tbu.trimTemp else t0
  s.cfgI recSystem 6 * ((temp - t0) * (temp - t0) - (tt - t0) * (tt - t0))

/-- The slow crystal's increment corrected for temperature (R330). -/
def State.correctedInc (s : State) (temp : Int) : Nat :=
  (roundDiv (((s.tbu.trimInc.getD slowNominal : Nat) : Int) * (100000000000 - s.tempTerm temp)) 100000000000).toNat

/-- The charge of a second on the present source (R331). -/
def State.secondCharge (s : State) : Nat :=
  match s.tbu.src with
  | .reference => 0
  | .slowCrystal => if s.trimValid && !s.tbu.trimBroke then 10 + ceilDiv s.tbu.corr 1000 else 1000
  | .rc => 10000000

/-- The charge of a change of source (R331). -/
def changeCharge (dst : TimeSource) (unplannedSlow : Bool) : Nat :=
  match dst with
  | .rc => 150000
  | .slowCrystal => if unplannedSlow then 1000 else 27
  | .reference => 27

/-- PPS_OUT is held low off the reference or while pps_en is 0 (R339). -/
def State.ppsHold (s : State) : State :=
  if s.tbu.src == .reference && s.tbu.ppsCtrl.getLsbD 0 then s else s.modTbu fun t => { t with ppsHigh := false }

/-- The RC's period is measured against each source in use (R326): the measured value is a free value (logs 11, 47). -/
def State.measureRc (s : State) : State := (s.modTbu fun t => { t with incRc := s.freeVal }).drawn

/-- A change of source (R327, R331, R344): the part of a second on the old source is charged whole, the change is charged
by its row, and src_change sets. PPS crossings count anew on the reference (R339). -/
def State.changeSource (dst : TimeSource) (planned : Bool) (s : State) : State :=
  if s.tbu.src = dst then s
  else
    let part := if s.tbu.secStart < s.now then s.secondCharge else 0
    let kept := planned && s.trimValid
    let s1 := s.charge part
    let s2 := (if dst = .rc then s1.measureRc else s1).modTbu fun t =>
      { t with
        src := dst, secStart := s.now, trimBroke := false, trimKept := kept, ppsFrom := s.now
        incSlow := if dst = .slowCrystal then s.correctedInc s.tbu.dieTemp else t.incSlow
        corr := if dst = .slowCrystal then (s.tempTerm s.tbu.dieTemp).natAbs else t.corr }
    ((s2.charge (changeCharge dst (!planned))).tbuEvt 0).ppsHold

/-- At an unplanned change the first edge takes the stamp of the new source's previous edge plus one increment, or the
count in force if that is larger (R327). -/
def State.catchUp (edgeAge : Nat) (s : State) : State :=
  s.modTbu fun t => t.setCount (max t.count (t.count - edgeAge * 2 ^ 40 + t.inc))

/-- The reference input is powered (R482, R328). -/
def State.refInputOn (s : State) : Bool :=
  match s.psc.state with
  | .permafrost => s.psc.waking.isSome || s.tbu.slowFailed
  | .nunatakHold => false
  | _ => true

/-- The meaning of REFERENCE_FAILED (R328): the TBU falls back to the slow crystal, or to the RC if that has failed. A
reference that is off or not qualified is not judged (DEDUCED: log 47). -/
def doReferenceFailed (edgeAge : Nat) (s : State) : State :=
  if !s.refInputOn || !s.tbu.refOk then s
  else
    let s1 := (s.modTbu fun t => { t with refOk := false }).tbuEvt 1
    if s.tbu.src = .reference ∧ s.tbu.running then
      (s1.changeSource (if s.tbu.slowOk then .slowCrystal else .rc) false).catchUp edgeAge
    else s1

/-- REFERENCE_FAILED. -/
def execReferenceFailed (edgeAge : Nat) (s : State) : Host.Outcome State Fault Refusal :=
  .next (doReferenceFailed edgeAge s)

/-- The meaning of SLOW_CRYSTAL_FAILED (R328): in use it falls back to the reference if running, else the RC; in
Permafrost the device wakes with code 0x07 (R491). A crystal that stands failed is not judged again (DEDUCED: log 47). -/
def doSlowCrystalFailed (edgeAge : Nat) (s : State) : State :=
  if s.tbu.slowFailed then s
  else
    let s1 := (s.modTbu fun t => { t with slowOk := false, slowFailed := true }).tbuEvt 2
    let s2 :=
      if s.tbu.src = .slowCrystal ∧ s.tbu.running then
        (s1.changeSource (if s.tbu.refOk then .reference else .rc) false).catchUp edgeAge
      else s1
    s2.wakeSource 0x07

/-- SLOW_CRYSTAL_FAILED. -/
def execSlowCrystalFailed (edgeAge : Nat) (s : State) : Host.Outcome State Fault Refusal :=
  .next (doSlowCrystalFailed edgeAge s)


/-- The meaning of TBU_START (R324): counting begins on the best source qualified, or on the RC. The start is charged
nothing; TB_NS 0 is an hourly point (R332). -/
def doTbuStart (s : State) : State :=
  if s.tbu.running then s
  else
    s.modTbu fun t =>
      { t with
        running := true, secStart := t.ns.toNat, hist := [(0, 0)]
        src := if t.refOk then .reference else if t.slowOk then .slowCrystal else .rc
        incSlow := s.correctedInc t.dieTemp, corr := (s.tempTerm t.dieTemp).natAbs }

/-- TBU_START. -/
def execTbuStart (s : State) : Host.Outcome State Fault Refusal := .next (doTbuStart s)

/-- The meaning of SOURCE_QUALIFIED (R324, R328): the TBU steps on the best qualified source, by a planned change; one that
has not started starts on it. -/
def doSourceQualified (src : TimeSource) (s : State) : State :=
  match src with
  | .rc => s
  | .reference =>
    if s.refInputOn then
      let s1 := s.modTbu fun t => { t with refOk := true }
      if s.tbu.running then s1.changeSource .reference true else doTbuStart s1
    else s
  | .slowCrystal =>
    let s1 := s.modTbu fun t => { t with slowOk := true, slowFailed := false }
    if !s.tbu.running then doTbuStart s1
    else if s.tbu.src = .rc ∧ !s.tbu.refOk then s1.changeSource .slowCrystal true
    else s1

/-- SOURCE_QUALIFIED. -/
def execSourceQualified (src : TimeSource) (s : State) : Host.Outcome State Fault Refusal :=
  .next (doSourceQualified src s)

/-- The meaning of TRIM_WINDOW_END (R329): the trimmed increment is D / 131,072, rounded. -/
def doTrimWindowEnd (d : Nat) (temp : Int) (s : State) : State :=
  if s.tbu.running ∧ s.tbu.src = .reference ∧ s.tbu.refOk ∧ s.tbu.slowOk then
    (s.modTbu fun t =>
      { t with
        trimInc := some (roundDiv (d : Int) 131072).toNat, trimTemp := temp, trimEnd := some t.ns.toNat
        dieTemp := temp }).modPsc fun p => { p with trimWait := false }
  else s

/-- TRIM_WINDOW_END. -/
def execTrimWindowEnd (d : Nat) (temp : Int) (s : State) : Host.Outcome State Fault Refusal :=
  .next (doTrimWindowEnd d temp s)

/-- The meaning of TEMPERATURE_SAMPLE (R330): on the slow crystal the increment is corrected; a trim that stops being
valid spoils the present second (R331). -/
def doTemperatureSample (temp : Int) (s : State) : State :=
  let s1 := (s.modTbu fun t => { t with dieTemp := temp }).modPower fun p => { p with temps := p.temps.set 0 temp }
  if s.tbu.src = .slowCrystal then
    s1.modTbu fun t =>
      { t with
        incSlow := s1.correctedInc temp, corr := (s1.tempTerm temp).natAbs
        trimBroke := t.trimBroke || (s.trimValid && !s1.trimValid) }
  else s1

/-- TEMPERATURE_SAMPLE. -/
def execTemperatureSample (temp : Int) (s : State) : Host.Outcome State Fault Refusal :=
  .next (doTemperatureSample temp s)

/-- The meaning of ACCRUAL_SECOND (R331): the charge of the second that ended. -/
def doAccrualSecond (s : State) : State :=
  if s.tbu.running ∧ s.tbu.secStart + 1000000000 ≤ s.now then
    (s.charge s.secondCharge).modTbu fun t => { t with secStart := t.secStart + 1000000000, trimBroke := false }
  else s

/-- ACCRUAL_SECOND. -/
def execAccrualSecond (s : State) : Host.Outcome State Fault Refusal := .next (doAccrualSecond s)

/-- The hour of a count (R332). -/
def hourNs : Nat := 3600000000000

/-- The meaning of HOURLY_HISTORY_POINT (R332): U is recorded at the multiple of an hour, the last 168 kept. -/
def doHourlyHistoryPoint (s : State) : State :=
  let h := s.now / hourNs * hourNs
  if s.tbu.running ∧ (s.tbu.hist.getLast?.map (·.1)).getD 0 < h then
    s.modTbu fun t => { t with hist := (t.hist ++ [(h, t.uAcc)]).drop (t.hist.length + 1 - 168) }
  else s

/-- HOURLY_HISTORY_POINT. -/
def execHourlyHistoryPoint (s : State) : Host.Outcome State Fault Refusal := .next (doHourlyHistoryPoint s)

/-- The meaning of COUNTER_OUTVOTED (R325, R510): the majority stands and the counter is reloaded; outvoted twice within
1 s it is taken out; in duplex the larger value is taken and the difference is added to U. -/
def doCounterOutvoted (lane value : Nat) (s : State) : State :=
  if 2 < lane ∨ s.tbu.laneOut = some lane then s
  else
    let s1 := (s.tbuEvt 6).healthFree 0x0020 lane 0
    match s.tbu.laneOut with
    | some _ =>
      let diff := if value < s.tbu.count then s.tbu.count - value else value - s.tbu.count
      (s1.modTbu fun t => t.setCount (max t.count value)).charge (ceilDiv diff (2 ^ 40))
    | none =>
      let again := match s.tbu.laneLast.getD lane none with
        | some t => decide (s.now ≤ t + 1000000000)
        | none => false
      let s2 := s1.modTbu fun t => { t with laneLast := t.laneLast.set lane (some s.now) }
      if again then (s2.modTbu fun t => { t with laneOut := some lane }).healthFree 0x0021 lane 2 else s2

/-- COUNTER_OUTVOTED. -/
def execCounterOutvoted (lane value : Nat) (s : State) : Host.Outcome State Fault Refusal :=
  .next (doCounterOutvoted lane value s)

/-- Civil time at a count in 1/256 ns under a set of parameters (R335), in whole ns. -/
def Civil.at256 (c : Civil) (tb256 : Nat) : Nat :=
  let d := (tb256 : Int) - (256 * c.t0Ns + c.t0Frac : Nat)
  ((c.c0 : Int) + d * (1000000000000 + c.rate) / 256000000000000).toNat % 2 ^ 64

/-- Civil time now, 0 while it is not valid (R335, R342). -/
def State.civilNow (s : State) : Nat := if s.tbu.civil.valid then s.tbu.civil.at256 s.now256 else 0

/-- The civil uncertainty (R336). -/
def State.civilUnc (s : State) : Nat :=
  if s.tbu.civil.valid then
    s.tbu.civil.unc + s.eps s.tbu.civil.t0Ns + ceilDiv ((s.now - s.tbu.civil.t0Ns) * s.tbu.civil.rateUnc) 1000000000000
  else 0

/-- The second of the PPS basis at a count in ns (R339): civil seconds with the parameters that govern the next edge. -/
def State.ppsSecond (s : State) (ns : Nat) : Nat :=
  let c := if s.now < s.tbu.civil.setNs + 1000000 then s.tbu.civilOld else s.tbu.civil
  if s.tbu.ppsCtrl.getLsbD 1 && c.valid then c.at256 (256 * ns) / 1000000000 else ns / 1000000000

/-- The count from which a crossing of the basis is new (R339, R345): the last edge, the enable, a change of basis, a return to
the reference, and the moment from which new civil parameters govern. -/
def State.ppsSince (s : State) : Nat :=
  max (max s.tbu.ppsRise s.tbu.ppsFrom)
    (if s.now < s.tbu.civil.setNs + 1000000 then 0 else if s.tbu.civil.valid then s.tbu.civil.setNs + 1000000 else 0)

/-- The meaning of PPS_EDGE (R339): PPS_OUT rises as the basis crosses a whole second. -/
def doPpsEdge (s : State) : State :=
  if s.tbu.running ∧ s.tbu.ppsCtrl.getLsbD 0 ∧ s.tbu.src = .reference ∧ s.ppsSecond s.ppsSince < s.ppsSecond s.now then
    s.modTbu fun t => { t with ppsHigh := true, ppsRise := t.ns.toNat }
  else s

/-- PPS_EDGE. -/
def execPpsEdge (s : State) : Host.Outcome State Fault Refusal := .next (doPpsEdge s)

/-- The meaning of PPS_PULSE_END (R339): PPS_OUT falls pps_width after its edge. -/
def doPpsPulseEnd (s : State) : State :=
  if s.tbu.ppsHigh ∧ s.tbu.ppsRise + fld s.tbu.ppsCtrl 4 12 * 1000000 ≤ s.now then
    s.modTbu fun t => { t with ppsHigh := false }
  else s

/-- PPS_PULSE_END. -/
def execPpsPulseEnd (s : State) : Host.Outcome State Fault Refusal := .next (doPpsPulseEnd s)

/-- A count for each port whose link is up. -/
def State.countLinks (s : State) (xs : List Nat) : List Nat :=
  (List.range 6).map fun p => xs.getD p 0 + bit (s.net.linkUp.getD p false)

/-- Periodic gPTP work waits while the uplinks' domain is gated (R481, R491). -/
def State.gptpRuns (s : State) : Bool := s.rolesRun && s.pdOn 7

/-- gPTP time (R337): civil time on the PTP timescale, TB_NS on ARB. -/
def State.gptpTime (s : State) : Nat := if s.tbu.ptp then s.civilNow else s.now

/-- The Announce of the grandmaster (R337). -/
def State.announceNow (s : State) : GptpAnnounce :=
  { domain := 0, identity := Config.deviceIdentity, priority1 := 246, clockClass := 248, accuracy := 0xFE, variance := 0xFFFF
    priority2 := 248, logInterval := 0, ptp := s.tbu.ptp }

/-- The Sync and Follow_Up of the grandmaster (R337). -/
def State.syncNow (s : State) : GptpSync :=
  { domain := 0, identity := Config.deviceIdentity, logInterval := -3, origin := s.gptpTime, tbi := s.tbu.tbi
    phaseChange := s.tbu.phaseChange }

/-- The meaning of SYNC_INTERVAL (R337): a two-step Sync and Follow_Up on each gPTP port. -/
def doSyncInterval (s : State) : State :=
  if s.gptpRuns then
    (s.modTbu fun t => { t with syncSent := s.countLinks t.syncSent, synced := some s.syncNow }).countSentAll 2
  else s

/-- SYNC_INTERVAL. -/
def execSyncInterval (s : State) : Host.Outcome State Fault Refusal := .next (doSyncInterval s)

/-- The meaning of ANNOUNCE_INTERVAL (R337): an Announce on each gPTP port. -/
def doAnnounceInterval (s : State) : State :=
  if s.gptpRuns then
    (s.modTbu fun t => { t with announceSent := s.countLinks t.announceSent, announced := some s.announceNow }).countSentAll 1
  else s

/-- ANNOUNCE_INTERVAL. -/
def execAnnounceInterval (s : State) : Host.Outcome State Fault Refusal := .next (doAnnounceInterval s)

/-- The meaning of GPTP_FOREIGN_FRAME (R338): discarded and counted; gptp_foreign sets (R344). -/
def doGptpForeignFrame (kind : Nat) (s : State) : State :=
  if s.gptpRuns then
    (s.modTbu fun t =>
      match kind with
      | 0 => { t with foreignAnnounce := satAdd 0xFFFFFFFF t.foreignAnnounce 1 }
      | 1 => { t with foreignSync := satAdd 0xFFFFFFFF t.foreignSync 1 }
      | _ => { t with foreignFollow := satAdd 0xFFFFFFFF t.foreignFollow 1 }).tbuEvt 7
  else s

/-- GPTP_FOREIGN_FRAME. -/
def execGptpForeignFrame (kind : Nat) (s : State) : Host.Outcome State Fault Refusal :=
  .next (doGptpForeignFrame kind s)

/-- The index of a requester's shadow set (R341). -/
def reqIndex : Requester → Nat
  | .spi => 0
  | .eth => 1
  | .cp0 => 2
  | .cp1 => 3
  | .cp2 => 4
  | .cp3 => 5

/-- A requester's shadow set. -/
def State.shadow (s : State) (r : Requester) : Shadow := s.tbu.shadows.getD (reqIndex r) {}

/-- A requester's shadow set updated. -/
def State.modShadow (s : State) (r : Requester) (f : Shadow → Shadow) : State :=
  s.modTbu fun t => { t with shadows := t.shadows.modify (reqIndex r) f }

/-- A read of TBU_NS_LO (R341): the low word, and the rest of the value latched in the reader's shadows. -/
def readNsLo (r : Requester) (s : State) : Word × State :=
  (word s.now, s.modShadow r fun x =>
    { x with
      nsHi := word (s.now / 2 ^ 32), frac := word s.frac8, epoch := word s.tbu.epoch, unc := word s.unc
      civLo := word s.civilNow, civHi := word (s.civilNow / 2 ^ 32) })

/-- A read of TBU_UACC_LO (R341). -/
def readUaccLo (r : Requester) (s : State) : Word × State :=
  (word s.tbu.uAcc, s.modShadow r fun x => { x with uaccHi := word (s.tbu.uAcc / 2 ^ 32) })

/-- The word a read returns goes to the model's output field. -/
def State.answered (p : Word × State) : State := p.2.modMbx fun m => { m with lastRead := p.1 }

/-- TBU_NS_LO_READ. -/
def execTbuNsLoRead (req : Requester) (s : State) : Host.Outcome State Fault Refusal :=
  .next (State.answered (readNsLo req s))

/-- TBU_UACC_LO_READ. -/
def execTbuUaccLoRead (req : Requester) (s : State) : Host.Outcome State Fault Refusal :=
  .next (State.answered (readUaccLo req s))

/-- xo_ofs of R342 from the latest trim window, in 10^-12, as its 32 bits. -/
def State.xoOfs (s : State) : Nat :=
  match s.tbu.trimInc with
  | some i => unsignedOf 32 (roundDiv (((i : Int) - slowNominal) * 1000000000000) slowNominal)
  | none => 0

/-- trim_age (R343): seconds since the latest window ended, saturating at 255. -/
def State.trimAge (s : State) : Nat :=
  match s.tbu.trimEnd with
  | some e => min ((s.now - e) / 1000000000) 255
  | none => 0xFF

/-- The source code of TBU_STATUS (R343). -/
def srcCode : TimeSource → Nat
  | .reference => 0
  | .slowCrystal => 1
  | .rc => 2

/-- PPS_OUT is being driven (R339, R343). -/
def State.ppsActive (s : State) : Bool := s.tbu.running && s.tbu.ppsCtrl.getLsbD 0 && s.tbu.src == .reference

/-- TBU_STATUS (R343). -/
def State.tbuStatus (s : State) : Word :=
  atBit 16 8 s.trimAge ||| atBit 9 1 (bit s.tbu.running) ||| atBit 8 1 (bit s.ppsActive) |||
    atBit 7 1 (bit s.tbu.civil.valid) ||| atBit 6 1 (bit (decide (s.tbu.uncLimit.toNat < s.unc))) |||
    atBit 5 1 (bit (decide (s.unc = 0xFFFFFFFF))) ||| atBit 4 1 (bit s.trimValid) ||| atBit 3 1 (bit s.tbu.slowOk) |||
    atBit 2 1 (bit s.tbu.refOk) ||| atBit 0 2 (srcCode s.tbu.src)

/-- TBU_CIV_STATUS (R345). -/
def State.civStatus (s : State) : Word :=
  atBit 16 16 s.tbu.civil.utcOffset.toNat ||| atBit 2 1 (s.tbu.civil.leap % 2) |||
    atBit 1 1 (s.tbu.civil.leap / 2) ||| atBit 0 1 (bit s.tbu.civil.valid)

/-- A read of the TBU block at an offset (R340 to R345). -/
def readTbu (r : Requester) (off : Nat) (s : State) : Word × State :=
  let x := s.shadow r
  match off with
  | 0x00 => readNsLo r s
  | 0x04 => (x.nsHi, s)
  | 0x08 => (x.frac, s)
  | 0x0C => (x.epoch, s)
  | 0x10 => (x.unc, s)
  | 0x14 => (x.civLo, s)
  | 0x18 => (x.civHi, s)
  | 0x1C => (s.tbuStatus, s)
  | 0x20 => (s.tbu.evt, s)
  | 0x24 => (s.tbu.evtEn, s)
  | 0x28 => (s.tbu.uncLimit, s)
  | 0x2C => readUaccLo r s
  | 0x30 => (x.uaccHi, s)
  | 0x34 => (word s.xoOfs, s)
  | 0x38 => (s.tbu.ppsCtrl, s)
  | 0x3C => (s.civStatus, s)
  | _ => (0, s)

/-- TBU_PPS_CTRL as a write leaves it: a width of 0 or above 999 is taken as 100 (R345). -/
def ppsWritten (w : Word) : Word :=
  let width := fld w 4 12
  atBit 4 12 (if width = 0 ∨ 999 < width then 100 else width) ||| atBit 0 2 (fld w 0 2)

/-- A write of the TBU block at an offset (R344, R345). -/
def writeTbu (off : Nat) (w : Word) (s : State) : State :=
  match off with
  | 0x20 => s.modTbu fun t => { t with evt := w1c t.evt w 0xFF }
  | 0x24 => s.modTbu fun t => { t with evtEn := w &&& 0xFF }
  | 0x28 => s.modTbu fun t => { t with uncLimit := w }
  | 0x38 =>
    let new := ppsWritten w
    (s.modTbu fun t =>
      { t with ppsCtrl := new, ppsFrom := if fld new 0 2 = fld t.ppsCtrl 0 2 then t.ppsFrom else s.now }).ppsHold
  | _ => s

end Sys2Proof.Machine
end

