-- ==== Sys2Proof/Machine/Events.lean ====
section
/-!
DEFINITION. The event controller's own commands and registers (14_event_controller): occurrences, batches, deliveries,
claims, retractions, WAKE_OUT and host sleep.
-/
namespace Sys2Proof.Machine

/-- The first source number of each group that is reserved (R374); group 0 also reserves 10 and 11. -/
def firstReserved : List Nat := [16, 4, 7, 5, 4, 16, 5, 7, 8, 16, 16, 12, 7, 11, 6, 16]

/-- A source of R374 that is not reserved. -/
def sourceExists (g src : Nat) : Bool :=
  decide (src < firstReserved.getD g 0) && !(g == 0 && (src == 10 || src == 11))

/-- A TBU or TMR source must also be enabled in its own block (R344, R372, R375). -/
def State.blockEnabled (s : State) (g src : Nat) : Bool :=
  match g with
  | 8 => s.tbu.evtEn.getLsbD src
  | 9 => s.tmr.evt0En.getLsbD src
  | 10 => s.tmr.evt0En.getLsbD (16 + src)
  | 11 => s.tmr.evt1En.getLsbD src
  | _ => true

/-- The meaning of EVENT_OCCURRENCE (R375). -/
def doEventOccurrence (group src : Nat) (s : State) : State :=
  if sourceExists group src && s.blockEnabled group src then s.raise group src else s

/-- EVENT_OCCURRENCE. -/
def execEventOccurrence (group src : Nat) (s : State) : Host.Outcome State Fault Refusal :=
  .next (doEventOccurrence group src s)


/-- BATCH_DUE_TIME (R378). -/
def execBatchDueTime (group : Nat) (s : State) : Host.Outcome State Fault Refusal := .next (s.dueCheck group false)

/-- The 32-byte payload of an event frame (R381). -/
def State.eventFrame (s : State) (t seq g : Nat) (b : Batch) : List Byte :=
  leBytes 2 0x0E01 ++ leBytes 2 seq ++ leBytes 1 t ++ leBytes 1 g ++ leBytes 1 b.count ++ leBytes 1 (bit b.retracted) ++
    leBytes 2 b.bitmap.toNat ++ leBytes 2 0 ++ leBytes 8 b.tFirst ++ leBytes 8 s.now ++ leBytes 4 s.tbu.epoch

/-- A due batch of group g goes to target t (R379 to R381). -/
def State.deliverTo (g t : Nat) (b : Batch) (s : State) : State :=
  let q := s.evc.seq
  let s1 := s.modEvc fun e =>
    { e.modGroup g fun x => { x with due := x.due.erase b, last := t } with
      seq := (q + 1) % 0x10000, wakeLast := e.wakeLast.set g none }
  if t < 4 then (s1.modEvc fun e => { e with coreQ := e.coreQ.modify t fun l => l ++ [(q, g, b)] }).wakeSource 0x0D
  else
    let s2 := s1.modEvc fun e => e.modTarget (t - 4) fun x =>
      { x with dlv := some { seq := q, group := g, batch := b, madeNs := s.now } }
    if 8 ≤ t then
      (s2.modEvc fun e => { e with frames := e.frames ++ [(e.mgmtAddr.getD (t - 8) (0, 0), s.eventFrame t q g b)] }).countSent
        (t - 8) 1
    else s2

/-- Due batches with their groups, group by group. -/
def State.dueList (s : State) : List (Nat × Batch) :=
  (List.range 16).flatMap fun g => (s.evc.group g).due.map fun b => (g, b)

/-- The due batch that has an eligible target and the earliest trigger, a tie to the lower group (R379). -/
def State.nextDue (s : State) : Option (Nat × Batch) :=
  (s.dueList.filter fun p => (s.chosen s.psc.hostSleep p.1 p.2.avoid).isSome).foldl
    (fun best p =>
      match best with
      | none => some p
      | some q => if p.2.trigger < q.2.trigger then some p else some q) none

/-- The meaning of DELIVERY (R379): the first due batch that has an eligible target is delivered. -/
def doDelivery (s : State) : State :=
  if !s.pdOn 6 then s
  else
    match s.nextDue with
    | some (g, b) =>
      match s.chosen s.psc.hostSleep g b.avoid with
      | some t => s.deliverTo g t b
      | none => s
    | none => s

/-- DELIVERY. -/
def execDelivery (s : State) : Host.Outcome State Fault Refusal := .next (doDelivery s)

/-- A write of EVC_CLAIMj (R382): the outstanding seq claims the delivery; any other value sets claim_err. -/
def writeClaim (j : Nat) (w : Word) (s : State) : State :=
  match (s.evc.target j).dlv with
  | some d =>
    if d.seq = fld w 0 16 then s.modEvc fun e => e.modTarget j fun x => { x with dlv := none, claimOk := true }
    else s.modEvc fun e => e.modTarget j fun x => { x with claimErr := true }
  | none => s.modEvc fun e => e.modTarget j fun x => { x with claimErr := true }

/-- EVC_CLAIM_WRITE. -/
def execEvcClaimWrite (target : Nat) (w : Word) (s : State) : Host.Outcome State Fault Refusal :=
  .next (writeClaim target w s)

/-- EVC_DLVj (R393). -/
def State.dlvWord (s : State) (j : Nat) : Word :=
  match (s.evc.target j).dlv with
  | some d => atBit 16 16 d.seq ||| atBit 8 8 d.batch.count ||| atBit 7 1 1 ||| atBit 0 4 d.group
  | none => 0

/-- EVC_DLVMAPj as a read of EVC_DLVj latches it (R382, R393). -/
def State.dlvMapWord (s : State) (j : Nat) : Word :=
  match (s.evc.target j).dlv with
  | some d => atBit 16 1 (bit d.batch.retracted) ||| atBit 0 16 d.batch.bitmap.toNat
  | none => 0

/-- A read of EVC_DLVj (R382). -/
def readDlv (r : Requester) (j : Nat) (s : State) : Word × State :=
  (s.dlvWord j, s.modShadow r fun x => { x with dlvMap := x.dlvMap.set j (s.dlvMapWord j) })

/-- EVC_DLV_READ. -/
def execEvcDlvRead (req : Requester) (target : Nat) (s : State) : Host.Outcome State Fault Refusal :=
  .next (State.answered (readDlv req target s))

/-- A retracted batch joins its group's collecting batch and is due at once, its target passed over (R383). -/
def State.retractBatch (g t : Nat) (b : Batch) (s : State) : State :=
  let s1 := s.closeBatch g
  let m : Batch := match (s1.evc.group g).collecting with
    | some c =>
      { bitmap := b.bitmap ||| c.bitmap, count := satAdd 255 b.count c.count, tFirst := min b.tFirst c.tFirst }
    | none => b
  (s1.modEvc fun e => e.modGroup g fun x => { x with collecting := none }).fallDue g
    { m with retracted := true, avoid := some t, trigger := s.now }

/-- The outstanding delivery of host target j is retracted; a host line stays released for 2 µs (R383). -/
def State.retractHost (j : Nat) (s : State) : State :=
  match (s.evc.target j).dlv with
  | some d =>
    (s.modEvc fun e => e.modTarget j fun x =>
      { x with
        dlv := none, retracts := satAdd 0xFFFF x.retracts 1, holdoff := if j < 4 then s.now + 2000 else x.holdoff }).retractBatch
        d.group (j + 4) d.batch
  | none => s

/-- The deliveries in a core pair's queue are retracted (R388). -/
def State.retractCore (p : Nat) (s : State) : State :=
  let q := s.evc.coreQ.getD p []
  q.foldl (fun t d => t.retractBatch d.2.1 p d.2.2) (s.modEvc fun e => { e with coreQ := e.coreQ.set p [] })

/-- The meaning of RETRACTION (R383): claim_to has run since the delivery. -/
def doRetraction (target : Nat) (s : State) : State :=
  match (s.evc.target target).dlv with
  | some d => if d.madeNs + fld s.evc.ctrl 0 16 * 1000 ≤ s.now then s.retractHost target else s
  | none => s

/-- RETRACTION. -/
def execRetraction (target : Nat) (s : State) : Host.Outcome State Fault Refusal := .next (doRetraction target s)

/-- The group routes to host targets and none of them is awake (R384). -/
def State.noneAwake (s : State) (g : Nat) : Bool :=
  (s.evc.group g).hostMask != 0 && (List.range 10).all fun t => !((s.evc.group g).route t && s.awake t)

/-- The meaning of WAKE_OUT_PULSE (R384, R385): a pulse for a due batch with no awake host target, once and then every
wake_rep × 10 ms. -/
def doWakeOutPulse (group : Nat) (s : State) : State :=
  let rep := fld s.evc.ctrl 24 8 * 10000000
  let owed := match s.evc.wakeLast.getD group none with
    | none => true
    | some t => decide (rep ≠ 0) && decide (t + rep ≤ s.now)
  if !(s.evc.group group).due.isEmpty && s.noneAwake group && owed then
    s.modEvc fun e =>
      { e with
        wakePulses := satAdd 0xFFFF e.wakePulses 1, wakeOutEnd := some (s.now + fld e.ctrl 16 8 * 1000)
        wakeLast := e.wakeLast.set group (some s.now) }
  else s

/-- WAKE_OUT_PULSE. -/
def execWakeOutPulse (group : Nat) (s : State) : Host.Outcome State Fault Refusal := .next (doWakeOutPulse group s)

/-- The meaning of WAKE_OUT_PULSE_END (R385). -/
def doWakeOutPulseEnd (s : State) : State :=
  match s.evc.wakeOutEnd with
  | some t => if t ≤ s.now then s.modEvc fun e => { e with wakeOutEnd := none } else s
  | none => s

/-- WAKE_OUT_PULSE_END. -/
def execWakeOutPulseEnd (s : State) : Host.Outcome State Fault Refusal := .next (doWakeOutPulseEnd s)

/-- A write of EVC_SWSET (R391). -/
def writeSwset (w : Word) (s : State) : State :=
  (List.range 4).foldl (fun t k => if w.getLsbD k then t.raise 0 (12 + k) else t) s

/-- EVC_SWSET_WRITE. -/
def execEvcSwsetWrite (w : Word) (s : State) : Host.Outcome State Fault Refusal := .next (writeSwset w s)

/-- The due batches of group g are delivered while they have an eligible target (R379, R386). -/
def State.deliverGroup (asleep : BitVec 6) (g : Nat) (s : State) : State :=
  (s.evc.group g).due.foldl (fun t b =>
    match t.chosen asleep g b.avoid with
    | some x => t.deliverTo g x b
    | none => t) s

/-- A write of PSC_HOST_SLEEP (R386, R504): collecting batches routed to a newly announced target fall due and are
delivered as though it were still awake. -/
def writeHostSleep (w : Word) (s : State) : State :=
  let new : BitVec 6 := BitVec.ofNat 6 w.toNat
  let fresh := new &&& ~~~s.psc.hostSleep
  if !s.pdOn 6 then s.modPsc fun p => { p with hostSleep := new }
  else
    let still := s.psc.hostSleep &&& new
    let gs := (List.range 16).filter fun g =>
      (s.evc.group g).collecting.isSome && ((s.evc.group g).hostMask &&& fresh) != 0
    let events := (gs.map fun g => ((s.evc.group g).collecting.getD {}).count).sum
    let s1 := gs.foldl (fun t g =>
      match (t.evc.group g).collecting with
      | some b =>
        (t.modEvc fun e => e.modGroup g fun x => { x with collecting := none }).fallDueWith still g { b with trigger := s.now }
      | none => t) s
    let s2 := gs.foldl (fun t g => t.deliverGroup still g) s1
    (s2.modEvc fun e => { e with flushGroups := gs.length, flushEvents := events % 0x10000 }).modPsc fun p =>
      { p with hostSleep := new }

/-- PSC_HOST_SLEEP_WRITE. -/
def execPscHostSleepWrite (w : Word) (s : State) : Host.Outcome State Fault Refusal := .next (writeHostSleep w s)

/-- Events held at their sources reach the EVC once PD6 is powered (R389). -/
def State.releaseHeld (s : State) : State :=
  s.evc.held.foldl (fun t p => t.collect p.1 p.2) (s.modEvc fun e => { e with held := [] })

/-- Target Tn is busy in EVC_TGT_STAT (R391). -/
def State.targetBusy (s : State) (t : Nat) : Bool :=
  if t < 4 then decide (Config.coreQueueDepth ≤ (s.evc.coreQ.getD t []).length)
  else (s.evc.target (t - 4)).dlv.isSome

/-- A delivery of group g is outstanding (R392). -/
def State.groupOut (s : State) (g : Nat) : Bool :=
  (s.evc.targets.any fun x => (x.dlv.map (·.group)) == some g) || s.evc.coreQ.any fun q => q.any fun d => d.2.1 == g

/-- EVC_GRPg_PEND (R392). -/
def State.pendWord (s : State) (g : Nat) : Word :=
  let gr := s.evc.group g
  let b := match gr.due with
    | d :: _ => d
    | [] => gr.collecting.getD {}
  atBit 26 1 (bit (s.groupOut g)) ||| atBit 25 1 (bit (!gr.due.isEmpty)) ||| atBit 24 1 (bit gr.collecting.isSome) |||
    atBit 16 8 b.count ||| atBit 0 16 b.bitmap.toNat

/-- A read of the EVC block (R390 to R393). -/
def readEvc (r : Requester) (off : Nat) (s : State) : Word × State :=
  let e := s.evc
  if 0x100 ≤ off ∧ off < 0x200 then
    let g := (off - 0x100) / 0x10
    let gr := e.group g
    match (off - 0x100) % 0x10 with
    | 0 => (atBit 0 16 gr.srcEn.toNat, s)
    | 4 => (atBit 16 4 gr.last ||| atBit 4 6 gr.hostMask.toNat ||| atBit 0 4 gr.coreMask.toNat, s)
    | 8 => (atBit 16 8 gr.cntThr ||| atBit 0 16 gr.timeUs, s)
    | 12 => (s.pendWord g, s)
    | _ => (0, s)
  else if 0x200 ≤ off ∧ off < 0x260 then
    let j := (off - 0x200) / 0x10
    let t := e.target j
    match (off - 0x200) % 0x10 with
    | 0 => readDlv r j s
    | 4 => ((s.shadow r).dlvMap.getD j 0, s)
    | 12 =>
      (atBit 16 16 t.retracts ||| atBit 2 1 (bit t.claimErr) ||| atBit 1 1 (bit t.claimOk) |||
        atBit 0 1 (bit (s.psc.hostSleep.getLsbD j)), s)
    | _ => (0, s)
  else
    match off with
    | 0x000 => (e.ctrl, s)
    | 0x004 =>
      (atBit 16 10 (maskOf ((List.range 10).filter s.targetBusy)) ||| atBit 0 10 (maskOf ((List.range 10).filter s.awake)), s)
    | 0x008 => (atBit 16 16 e.flushGroups ||| atBit 0 16 e.flushEvents, s)
    | 0x010 => (atBit 0 16 e.noTgt.toNat, s)
    | 0x014 => (atBit 0 16 e.wakePulses, s)
    | _ => (0, s)

/-- EVC_CTRL as a write leaves it (R391). -/
def evcCtrlWritten (w : Word) : Word :=
  atBit 24 8 (fld w 24 8) ||| atBit 16 8 (max 1 (fld w 16 8)) ||| atBit 0 16 (max 100 (fld w 0 16))

/-- A write of the EVC block (R390 to R393). -/
def writeEvc (off : Nat) (w : Word) (s : State) : State :=
  if 0x100 ≤ off ∧ off < 0x200 then
    let g := (off - 0x100) / 0x10
    match (off - 0x100) % 0x10 with
    | 0 => s.modEvc fun e => e.modGroup g fun x => { x with srcEn := BitVec.ofNat 16 w.toNat }
    | 4 => s.modEvc fun e => e.modGroup g fun x => { x with hostMask := BitVec.ofNat 6 (fld w 4 6) }
    | 8 =>
      ((s.closeBatch g).modEvc fun e => e.modGroup g fun x =>
        { x with cntThr := max 1 (fld w 16 8), timeUs := max 1 (fld w 0 16) }).dueCheck g true
    | _ => s
  else if 0x200 ≤ off ∧ off < 0x260 then
    let j := (off - 0x200) / 0x10
    match (off - 0x200) % 0x10 with
    | 8 => writeClaim j w s
    | 12 => s.modEvc fun e => e.modTarget j fun x =>
        { x with claimErr := x.claimErr && !w.getLsbD 2, claimOk := x.claimOk && !w.getLsbD 1 }
    | _ => s
  else
    match off with
    | 0x000 => s.modEvc fun e => { e with ctrl := evcCtrlWritten w }
    | 0x00C => writeSwset w s
    | 0x010 => s.modEvc fun e => { e with noTgt := e.noTgt &&& ~~~(BitVec.ofNat 16 w.toNat) }
    | _ => s

end Sys2Proof.Machine
end

