-- ==== Sys2Proof/Machine/Fabric.lean ====
section
/-!
DEFINITION. The fabric (15_memory_and_fabric): translation, held pages, host windows, the shared aperture, arbitration, and
the HBW registers.
-/
namespace Sys2Proof.Machine

/-! ### Physical memory with poisoned words (R395, R508) -/

/-- The end of SRAM in the physical address space (R395). -/
def sramEnd : Nat := 0x80_0000

/-- The base of MRAM in the physical address space (R395). -/
def mramBase : Nat := 0x2000_0000

/-- A physical byte address that one of the two memories holds (R395). -/
def physExists (a : Nat) : Bool := decide (a < sramEnd) || (decide (mramBase ≤ a) && decide (a < mramBase + 0x40_0000))

/-- The 64-bit words that a run of bytes touches, by index. -/
def wordsTouched (a n : Nat) : List Nat :=
  if n = 0 then [] else (List.range ((a + n - 1) / 8 - a / 8 + 1)).map fun k => a / 8 + k

/-- A run of bytes touches a poisoned word (R508). -/
def State.poisoned (s : State) (a n : Nat) : Bool :=
  s.fab.poison.any fun w => decide (n ≠ 0) && decide (a / 8 ≤ w) && decide (w ≤ (a + n - 1) / 8)

/-- Bytes from physical memory. -/
def State.physRead (s : State) (a n : Nat) : List Byte := Memory.readBytes s.mem a n

/-- Bytes stored to physical memory; a word that a requester writes is poisoned no longer (R508). -/
def State.physWrite (a : Nat) (bs : List Byte) (s : State) : State :=
  (s.modMem fun m => Memory.writeBytes m a bs).modFab fun f =>
    { f with poison := f.poison.filter fun w => !(wordsTouched a bs.length).contains w }

/-! ### Held pages (R399) -/

/-- The message that holds an SRAM page: c for the present one of channel c, c + 32 for its suspended one. -/
def State.heldBy (s : State) (page : Nat) : Option Nat :=
  (s.fab.heldPages.find? fun p => p.1 == page).map (·.2)

/-- The SRAM page of a physical address is held. -/
def State.physHeld (s : State) (a : Nat) : Bool := decide (a < sramEnd) && (s.heldBy (a / 4096)).isSome

/-- The pages of a run of bytes. -/
def pagesOf (a n : Nat) : List Nat :=
  if n = 0 then [] else (List.range ((a + n - 1) / 4096 - a / 4096 + 1)).map fun k => a / 4096 + k

/-- Pages set to the held state for a channel's message (R399). -/
def State.holdPages (ch : Nat) (ps : List Nat) (s : State) : State :=
  s.modFab fun f => { f with heldPages := ps.foldl (fun l p => if l.any (·.1 == p) then l else l ++ [(p, ch)]) f.heldPages }

/-- The pages a message holds go with it when it is suspended or resumed (R253, R399). -/
def State.moveHeld (a b : Nat) (s : State) : State :=
  s.modFab fun f => { f with heldPages := f.heldPages.map fun p => if p.2 = a then (p.1, b) else p }

/-- The held bits that a channel's message set are cleared (R399). -/
def State.dropHeld (ps : List Nat) (s : State) : State :=
  s.modFab fun f => { f with heldPages := f.heldPages.filter fun p => !ps.contains p.1 }

/-! ### Translation (R398, R401) -/

/-- NO_MAP (R401). -/
def kindNoMap : Nat := 1
/-- HELD (R401). -/
def kindHeld : Nat := 2
/-- NO_READ (R401). -/
def kindNoRead : Nat := 3
/-- NO_WRITE (R401). -/
def kindNoWrite : Nat := 4
/-- NOT_HOLDABLE (R401). -/
def kindNotHoldable : Nat := 5

/-- The requester code of the pipeline's read side (R405). -/
def reqCipherRead : Nat := 0x0F
/-- The requester code of the pipeline's write side (R405). -/
def reqCipherWrite : Nat := 0x10

/-- The level-2 entry that both tables give a virtual page in a requester's context (R398); none is NO_MAP. -/
def State.walk (s : State) (req vpage : Nat) : Option Word :=
  let l1 := Memory.readWord s.mem ((s.fab.tables.getD req 0).toNat / 4096 * 4096 + 4 * (vpage / 1024 % 1024))
  if !l1.getLsbD 0 || !l1.getLsbD 4 then none
  else
    let l2 := Memory.readWord s.mem (l1.toNat / 4096 * 4096 + 4 * (vpage % 1024))
    if !l2.getLsbD 0 || l2.getLsbD 4 then none else some l2

/-- The entry a requester uses for a virtual page: the cached one, or the tables' (R400). -/
def State.entryOf (s : State) (req vpage : Nat) : Option Word :=
  match s.fab.tlb.find? fun t => t.1 == req && t.2.1.toNat == vpage with
  | some t => some t.2.2
  | none => s.walk req vpage

/-- A translated page enters the requester's cache of 16, the oldest giving way (R400). -/
def State.cachePage (req vpage : Nat) (s : State) : State :=
  if s.fab.tlb.any fun t => t.1 == req && t.2.1.toNat == vpage then s
  else
    match s.walk req vpage with
    | none => s
    | some e =>
      let mine := s.fab.tlb.filter fun t => t.1 == req
      let others := s.fab.tlb.filter fun t => t.1 != req
      s.modFab fun f => { f with tlb := others ++ mine.drop (mine.length + 1 - 16) ++ [(req, word vpage, e)] }

/-- The translation of one address, or the kind of fault, in the order of R401; `owner` is the channel of an engine access. -/
def State.translate (s : State) (req vaddr : Nat) (write holdable : Bool) (owner : Option Nat) : Except Nat Nat :=
  match s.entryOf req (vaddr / 4096) with
  | none => .error kindNoMap
  | some e =>
    let phys := e.toNat / 4096 * 4096 + vaddr % 4096
    let held := decide (phys < sramEnd) && (s.heldBy (phys / 4096)).isSome
    let mine := write && owner.isSome && s.heldBy (phys / 4096) == owner
    if !physExists phys then .error kindNoMap
    else if held && !mine then .error kindHeld
    else if !write && !e.getLsbD 1 then .error kindNoRead
    else if write && (!e.getLsbD 2 || decide (mramBase ≤ phys)) then .error kindNoWrite
    else if holdable && !e.getLsbD 3 then .error kindNotHoldable
    else .ok phys

/-- A run of bytes cut at page boundaries, as (address, length). -/
def pieces (a n : Nat) : List (Nat × Nat) :=
  (pagesOf a n).map fun p => (max a (p * 4096), min (a + n) ((p + 1) * 4096) - max a (p * 4096))

/-- The first fault of a run of virtual addresses, as kind and address. -/
def State.rangeFault (s : State) (req a n : Nat) (write holdable : Bool) (owner : Option Nat) : Option (Nat × Nat) :=
  (pieces a n).findSome? fun p =>
    match s.translate req p.1 write holdable owner with
    | .error k => some (k, p.1)
    | .ok _ => none

/-- The physical pieces of a run of virtual addresses; empty where a page faults. -/
def State.physPieces (s : State) (req a n : Nat) (write : Bool) (owner : Option Nat) : List (Nat × Nat) :=
  (pieces a n).filterMap fun p =>
    match s.translate req p.1 write false owner with
    | .ok x => some (x, p.2)
    | .error _ => none

/-- Bytes gathered from physical pieces. -/
def State.gather (s : State) (ps : List (Nat × Nat)) : List Byte := ps.flatMap fun p => s.physRead p.1 p.2

/-- Bytes laid over physical pieces, in order. -/
def State.scatter (ps : List (Nat × Nat)) (bs : List Byte) (s : State) : State :=
  (ps.foldl (fun (acc : State × List Byte) p => (acc.1.physWrite p.1 (acc.2.take p.2), acc.2.drop p.2)) (s, bs)).1

/-- Zeros laid over physical pieces: the scrub of R256. -/
def State.scrub (ps : List (Nat × Nat)) (s : State) : State := ps.foldl (fun t p => t.physWrite p.1 (zeros p.2)) s

/-- The meaning of TRANSLATION_INVALIDATION (R400): one page of a context, or the whole of it. -/
def doTranslationInvalidation (req : Nat) (page : Option Nat) (s : State) : State :=
  s.modFab fun f =>
    { f with tlb := f.tlb.filter fun t => !(t.1 == req && (page.isNone || page == some t.2.1.toNat)) }

/-- TRANSLATION_INVALIDATION. -/
def execTranslationInvalidation (req : Nat) (page : Option Nat) (s : State) : Host.Outcome State Fault Refusal :=
  .next (doTranslationInvalidation req page s)

/-! ### Host windows (R408 to R410) -/

/-- A window's registers. -/
def State.win (s : State) (n : Nat) : HostWindow := s.fab.windows.getD n {}

/-- The window is enabled (R412). -/
def HostWindow.en (w : HostWindow) : Bool := w.cfg.getLsbD 31
/-- hold (R412). -/
def HostWindow.hold (w : HostWindow) : Bool := w.cfg.getLsbD 30
/-- dev_w (R412). -/
def HostWindow.devW (w : HostWindow) : Bool := w.cfg.getLsbD 29
/-- dev_r (R412). -/
def HostWindow.devR (w : HostWindow) : Bool := w.cfg.getLsbD 28
/-- host_w (R412). -/
def HostWindow.hostW (w : HostWindow) : Bool := w.cfg.getLsbD 27
/-- host_r (R412). -/
def HostWindow.hostR (w : HostWindow) : Bool := w.cfg.getLsbD 26
/-- size_pg (R412). -/
def HostWindow.sizePg (w : HostWindow) : Nat := fld w.cfg 20 4
/-- base_pg (R412). -/
def HostWindow.basePg (w : HostWindow) : Nat := fld w.cfg 8 8
/-- The window's length in bytes (R408). -/
def HostWindow.size (w : HostWindow) : Nat := (w.sizePg + 1) * 4096
/-- An enabled window covers the aperture page (R408). -/
def HostWindow.covers (w : HostWindow) (page : Nat) : Bool :=
  w.en && decide (w.basePg ≤ page) && decide (page ≤ w.basePg + w.sizePg)

/-- The physical base of the aperture's backing (R395, R408). -/
def apertureBase : Nat := 0x70_0000

/-- The physical address of an offset in a window (R408). -/
def HostWindow.phys (w : HostWindow) (off : Nat) : Nat := apertureBase + w.basePg * 4096 + off

/-- The pages of the window in the held state (R412). -/
def State.winHeldPages (s : State) (w : HostWindow) : Nat :=
  (s.fab.heldPages.filter fun p => w.covers (p.1 - apertureBase / 4096) && decide (apertureBase / 4096 ≤ p.1)).length

/-- The range lies in an enabled window with the permissions that the work needs, and in no held page (R399, R410). -/
def State.winOk (s : State) (n off len : Nat) (r w : Bool) : Bool :=
  let x := s.win n
  decide (n < 16) && x.en && decide (off + len ≤ x.size) && (!r || x.devR) && (!w || x.devW) &&
    (pagesOf (x.phys off) len).all fun p => (s.heldBy p).isNone

/-- Bytes read from a window for the device's work; none where a poisoned word lies among them (R508). -/
def State.winRead (s : State) (n off len : Nat) : Option (List Byte) :=
  if s.poisoned ((s.win n).phys off) len then none else some (s.physRead ((s.win n).phys off) len)

/-- Bytes written to a window by the device's work. -/
def State.winWrite (n off : Nat) (bs : List Byte) (s : State) : State := s.physWrite ((s.win n).phys off) bs

/-- The busy count of a window rises (R410, R412). -/
def State.winTake (n : Nat) (s : State) : State :=
  s.modFab fun f => { f with windows := f.windows.modify n fun x => { x with busy := satAdd 255 x.busy 1 } }

/-- Two windows overlap (R409). -/
def windowsOverlap (a b : HostWindow) : Bool :=
  decide (a.basePg ≤ b.basePg + b.sizePg) && decide (b.basePg ≤ a.basePg + a.sizePg)

/-- The write of HBW_WINn_CFG is refused (R409). -/
def State.winCfgRefused (s : State) (n : Nat) (w : Word) : Bool :=
  let new : HostWindow := { cfg := w }
  let old := s.win n
  (new.en && (List.range 16).any fun k => k != n && (s.win k).en && windowsOverlap (s.win k) new) ||
    decide (255 < new.basePg + new.sizePg) || decide (old.busy ≠ 0) || decide (s.winHeldPages old ≠ 0)

/-- A write of HBW_WINn_CFG (R409, R412). -/
def writeWinCfg (n : Nat) (w : Word) (s : State) : State :=
  if s.winCfgRefused n w then
    s.modFab fun f => { f with windows := f.windows.modify n fun x => { x with cfgErr := true } }
  else
    s.modFab fun f => { f with windows := f.windows.modify n fun x => { x with cfg := w &&& 0xFCF0FF00, cfgErr := false } }

/-- HBW_WIN_CFG_WRITE. -/
def execHbwWinCfgWrite (window : Nat) (w : Word) (s : State) : Host.Outcome State Fault Refusal :=
  .next (writeWinCfg window w s)

/-! ### The aperture (R411) -/

/-- A fault of a host access is recorded in HBW_FAULT and counted (R411, R412). -/
def State.apertureFault (kind off : Nat) (s : State) : State :=
  s.modFab fun f =>
    { f with
      faultReg := atBit 31 1 1 ||| atBit 28 3 kind ||| atBit 0 20 off
      faultCnt := satAdd 0xFFFF f.faultCnt 1 }

/-- held_read or held_write sets in the window of a held page (R411). -/
def State.heldFlag (write : Bool) (page : Nat) (s : State) : State :=
  s.modFab fun f =>
    { f with
      windows := f.windows.map fun x =>
        if x.covers page then
          (if write then { x with heldWrite := true } else { x with heldRead := true })
        else x }

/-- A host read of the word at an aperture offset (R411, R508). -/
def readAperture (off : Nat) (s : State) : Word × State :=
  let a := off / 4 * 4
  if s.physHeld (apertureBase + a) then (0, s.heldFlag false (a / 4096))
  else
    match s.fab.windows.find? fun x => x.covers (a / 4096) with
    | none => (0, s.apertureFault 1 off)
    | some x =>
      if !x.hostR then (0, s.apertureFault 2 off)
      else if s.poisoned (apertureBase + a) 4 then (0, s)
      else (Memory.readWord s.mem (apertureBase + a), s)

/-- A host write of the word at an aperture offset (R411). -/
def writeAperture (off : Nat) (w : Word) (s : State) : State :=
  let a := off / 4 * 4
  if s.physHeld (apertureBase + a) then s.heldFlag true (a / 4096)
  else
    match s.fab.windows.find? fun x => x.covers (a / 4096) with
    | none => s.apertureFault 1 off
    | some x =>
      if !x.hostW then s.apertureFault 3 off
      else s.physWrite (apertureBase + a) (leBytes 4 w.toNat)

/-- The meaning of APERTURE_ACCESS (R411): a write with a word, a read without one. -/
def doApertureAccess (off : Nat) (w : Option Word) (s : State) : State :=
  match w with
  | some x => writeAperture (off % 0x10_0000) x s
  | none => State.answered (readAperture (off % 0x10_0000) s)

/-- APERTURE_ACCESS. -/
def execApertureAccess (off : Nat) (w : Option Word) (s : State) : Host.Outcome State Fault Refusal :=
  .next (doApertureAccess off w s)

/-! ### HBW registers (R412) -/

/-- HBW_WINn_STAT. -/
def State.winStat (s : State) (n : Nat) : Word :=
  let x := s.win n
  atBit 24 8 x.busy ||| atBit 16 8 (s.winHeldPages x) ||| atBit 3 1 (bit x.cfgErr) ||| atBit 2 1 (bit x.heldWrite) |||
    atBit 1 1 (bit x.heldRead)

/-- A read of the HBW block. -/
def readHbw (off : Nat) (s : State) : Word :=
  if 0x100 ≤ off ∧ off < 0x200 then
    match (off - 0x100) % 0x10 with
    | 0 => (s.win ((off - 0x100) / 0x10)).cfg
    | 4 => s.winStat ((off - 0x100) / 0x10)
    | _ => 0
  else
    match off with
    | 0x000 => s.fab.faultReg
    | 0x004 => atBit 0 16 s.fab.faultCnt
    | _ => 0

/-- A write of the HBW block. -/
def writeHbw (off : Nat) (w : Word) (s : State) : State :=
  if 0x100 ≤ off ∧ off < 0x200 then
    let n := (off - 0x100) / 0x10
    match (off - 0x100) % 0x10 with
    | 0 => writeWinCfg n w s
    | 4 => s.modFab fun f =>
        { f with
          windows := f.windows.modify n fun x =>
            { x with heldWrite := x.heldWrite && !w.getLsbD 2, heldRead := x.heldRead && !w.getLsbD 1 } }
    | _ => s
  else if off = 0 then s.modFab fun f => { f with faultReg := w1c f.faultReg w 0x80000000 }
  else s

/-! ### Arbitration (R413 to R415) -/

/-- The requester that a deadline flag belongs to: RF capture, then the impulse-response writer (R405, R415). -/
def deadlineReq (k : Nat) : Nat := if k = 0 then 0x0A else 0x0B

/-- The requester's deadline flag stands (R415). -/
def Fabric.flagged (f : Fabric) (req : Nat) : Bool :=
  (req == 0x0A && f.deadline.getD 0 false) || (req == 0x0B && f.deadline.getD 1 false)

/-- The flagged requester whose turn it is after `last`; none where no flag stands (R415). -/
def Fabric.turn (f : Fabric) (last : Nat) : Option Nat :=
  if f.deadline.getD (1 - last) false then some (1 - last)
  else if f.deadline.getD last false then some last
  else none

/-- Round grants with deadline grants ahead of each, the flagged requesters taking turns (R415); also the one served last. -/
def Fabric.interleave (f : Fabric) : Nat → List Nat → List Nat × Nat
  | last, [] => ([], last)
  | last, r :: rs =>
    match f.turn last with
    | none => let x := Fabric.interleave f last rs; (r :: x.1, x.2)
    | some k => let x := Fabric.interleave f k rs; (deadlineReq k :: r :: x.1, x.2)

/-- The grants of a round over the requesters of `rs`; with none of them waiting, one deadline grant (R413, R415). -/
def State.grant (rs : List Nat) (s : State) : State :=
  let f := s.fab
  match rs, f.turn f.lastDeadline with
  | [], some k => s.modFab fun x => { x with round := [deadlineReq k], lastDeadline := k }
  | _, _ =>
    let g := f.interleave f.lastDeadline rs
    s.modFab fun x => { x with round := g.1, lastDeadline := g.2 }

/-- The transfers in flight: a request outstanding or a deadline flag standing, by requester (R413, R415, R416). -/
def Fabric.inFlight (f : Fabric) : Nat := ((List.range 20).filter fun k => f.active.getD k false || f.flagged k).length

/-- The meaning of ARBITRATION_ROUND (R413): the arbiter samples the active requesters, which the clusters' fixed order
serves in the order of their codes. -/
def doArbitrationRound (requests : BitVec 20) (s : State) : State :=
  let s1 := s.modFab fun f =>
    { f with active := (List.range 20).map fun k => requests.getLsbD k && !f.flagged k }
  (s1.grant ((List.range 20).filter fun k => s1.fab.active.getD k false)).modFab fun f => { f with transfers := f.inFlight }

/-- ARBITRATION_ROUND. -/
def execArbitrationRound (requests : BitVec 20) (s : State) : Host.Outcome State Fault Refusal :=
  .next (doArbitrationRound requests s)

/-- The meaning of DEADLINE_FLAG (R415): the flag of a requester stands from three quarters full until its buffer is empty;
while it stands the requester holds no place in the round. -/
def doDeadlineFlag (writer full : Bool) (s : State) : State :=
  let k := bit writer
  let s1 := s.modFab fun f =>
    { f with
      deadline := f.deadline.set k full
      active := if full then f.active.set (deadlineReq k) false else f.active }
  (if full then s1.grant ((List.range 20).filter fun r => s1.fab.active.getD r false && s.fab.round.contains r) else s1).modFab
    fun f => { f with transfers := f.inFlight }

/-- DEADLINE_FLAG. -/
def execDeadlineFlag (writer full : Bool) (s : State) : Host.Outcome State Fault Refusal :=
  .next (doDeadlineFlag writer full s)

end Sys2Proof.Machine
end

