-- ==== Sys2Proof/Machine/Command.lean ====
section
/-!
DEFINITION. What every mailbox command shares (16_mailboxes, 17_command_reference): its row of the command table, its limit,
the role that serves it, the window it names, and how a started command is carried to its result.
-/
namespace Sys2Proof.Machine

/-- Whether a command takes a host window (R445). -/
inductive WinUse where
  | none
  | required
  | optional
  deriving DecidableEq, Repr

/-- A row of the command table (R444 to R447): payload length in bytes, default deadline in µs, window. -/
structure CmdRow where
  len : Nat
  deadline : Nat
  win : WinUse := .none
  deriving DecidableEq, Repr

/-- The command table of the families sys, cfg and part (17_command_reference). -/
def cmdRowLow : Nat → Option CmdRow
  | 0x0101 => some { len := 0, deadline := 10000 }
  | 0x0102 => some { len := 8, deadline := 10000 }
  | 0x0103 => some { len := 4, deadline := 10000 }
  | 0x0104 => some { len := 12, deadline := 100000, win := .required }
  | 0x0201 => some { len := 12, deadline := 200000, win := .required }
  | 0x0202 => some { len := 0, deadline := 500000 }
  | 0x0203 => some { len := 0, deadline := 10000 }
  | 0x0204 => some { len := 16, deadline := 10000 }
  | 0x0205 => some { len := 4, deadline := 10000 }
  | 0x0301 => some { len := 16, deadline := 30000000 }
  | 0x0302 => some { len := 0, deadline := 10000 }
  | 0x0303 => some { len := 8, deadline := 10000 }
  | 0x0304 => some { len := 12, deadline := 100000, win := .required }
  | 0x0305 => some { len := 16, deadline := 10000 }
  | 0x0306 => some { len := 8, deadline := 10000 }
  | 0x0307 => some { len := 8, deadline := 10000 }
  | 0x0308 => some { len := 8, deadline := 10000 }
  | 0x0309 => some { len := 12, deadline := 10000 }
  | _ => none

/-- The command table of the families sess, range, lf, rf and rel (17_command_reference). -/
def cmdRowMid : Nat → Option CmdRow
  | 0x0401 => some { len := 4, deadline := 1000000 }
  | 0x0402 => some { len := 4, deadline := 10000, win := .optional }
  | 0x0403 => some { len := 8, deadline := 10000 }
  | 0x0501 => some { len := 4, deadline := 10000, win := .required }
  | 0x0502 => some { len := 24, deadline := 60000000, win := .optional }
  | 0x0601 => some { len := 4, deadline := 10000, win := .optional }
  | 0x0602 => some { len := 8, deadline := 2000000 }
  | 0x0603 => some { len := 4, deadline := 10000 }
  | 0x0604 => some { len := 8, deadline := 1000000 }
  | 0x0605 => some { len := 0, deadline := 10000 }
  | 0x0606 => some { len := 0, deadline := 2000000 }
  | 0x0701 => some { len := 0, deadline := 10000 }
  | 0x0702 => some { len := 0, deadline := 200000 }
  | 0x0703 => some { len := 8, deadline := 11000000 }
  | 0x0704 => some { len := 12, deadline := 100000, win := .required }
  | 0x0801 => some { len := 4, deadline := 10000 }
  | 0x0802 => some { len := 0, deadline := 10000 }
  | 0x0803 => some { len := 0, deadline := 10000 }
  | 0x0804 => some { len := 0, deadline := 10000 }
  | _ => none

/-- The command table of the other families (17_command_reference). -/
def cmdRowHigh : Nat → Option CmdRow
  | 0x0901 => some { len := 4, deadline := 10000 }
  | 0x0902 => some { len := 68, deadline := 1000000, win := .required }
  | 0x0903 => some { len := 4, deadline := 10000 }
  | 0x0904 => some { len := 40, deadline := 10000 }
  | 0x0905 => some { len := 4, deadline := 10000 }
  | 0x0906 => some { len := 8, deadline := 10000, win := .required }
  | 0x0907 => some { len := 8, deadline := 10000, win := .required }
  | 0x0A01 => some { len := 44, deadline := 100000 }
  | 0x0A02 => some { len := 4, deadline := 10000 }
  | 0x0A03 => some { len := 4, deadline := 10000 }
  | 0x0A04 => some { len := 0, deadline := 500000 }
  | 0x0A05 => some { len := 172, deadline := 500000 }
  | 0x0B01 => some { len := 0, deadline := 10000 }
  | 0x0B02 => some { len := 0, deadline := 10000 }
  | 0x0B03 => some { len := 12, deadline := 200000, win := .required }
  | 0x0B04 => some { len := 4, deadline := 50000 }
  | 0x0B05 => some { len := 52, deadline := 50000 }
  | 0x0C01 => some { len := 4, deadline := 10000, win := .optional }
  | 0x0C02 => some { len := 40, deadline := 10000 }
  | 0x0D01 => some { len := 0, deadline := 10000 }
  | 0x0D02 => some { len := 8, deadline := 5000000 }
  | 0x0E01 => some { len := 0, deadline := 10000 }
  | 0x0E02 => some { len := 4, deadline := 10000 }
  | 0x0F01 => some { len := 12, deadline := 500000, win := .required }
  | 0x0F02 => some { len := 4, deadline := 200000 }
  | 0x0F03 => some { len := 0, deadline := 10000 }
  | _ => none

/-- The row of a defined command; none for any other opcode (R432 check 2). -/
def cmdRow (op : Nat) : Option CmdRow :=
  if op < 0x0400 then cmdRowLow op else if op < 0x0900 then cmdRowMid op else cmdRowHigh op

/-- The role that serves a family (R431). -/
def roleOf (op : Nat) : Role :=
  match op / 256 with
  | 0x03 => .decision
  | 0x04 => .radio
  | 0x05 => .radio
  | 0x06 => .field
  | 0x07 => .radio
  | 0x08 => .decision
  | 0x0B => .decision
  | _ => .host

/-- A role is in place: it is not migrating (R30). -/
def State.rolePlaced (s : State) (r : Role) : Bool := !s.cores.migrating.contains r

/-- The window range a payload names and whether the device reads or writes it there: offset, length, read, write (R445).
crypt.submit names its ranges in its descriptor, which its own check looks at. -/
def windowUse (op : Nat) (p : List Byte) : Nat × Nat × Bool × Bool :=
  match op with
  | 0x0104 => (uAt p 8 4, uAt p 4 2 * 32, false, true)
  | 0x0201 => (uAt p 0 4, uAt p 8 4, true, false)
  | 0x0304 => (uAt p 8 4, uAt p 6 2 * 64, false, true)
  | 0x0402 => (uAt p 0 4, 8 * 48, false, true)
  | 0x0501 => (uAt p 0 4, 8 * 64, false, true)
  | 0x0502 => (uAt p 16 4, uAt p 10 2 * 64, false, true)
  | 0x0601 => (uAt p 0 4, 64 * 32, false, true)
  | 0x0704 => (uAt p 8 4, uAt p 4 4, false, true)
  | 0x0906 => (uAt p 4 4, (if uAt p 2 1 = 1 then 144 else 152), false, true)
  | 0x0907 => (uAt p 0 4, uAt p 4 4, true, false)
  | 0x0B03 => (uAt p 8 4, uAt p 4 2 * 64, false, true)
  | 0x0C01 => (uAt p 0 4, 168 * 16, false, true)
  | 0x0F01 => (uAt p 0 4, uAt p 8 4, true, false)
  | _ => (0, 0, false, false)

/-- TB_NS of a command's limit (R434, R447). -/
def Mailbox.limit (b : Mailbox) : Nat :=
  let d := uAt b.run 12 4
  b.ringNs + 1000 * (if d = 0 then ((cmdRow b.opcode).map (·.deadline)).getD 0 else d)

/-- The command names a window (R429). -/
def Mailbox.hasWindow (b : Mailbox) : Bool := b.window != 0xFF

/-- The opcode changes the layers itself, so it runs over those in force: the cfg family, lf.tune, and the two commands that
take a system reset (R450). -/
def setsValues (op : Nat) : Bool := op / 256 == 0x02 || [0x0102, 0x0603, 0x0F02].contains op

/-- The layers that a command runs under: those of its admission, once a new image has come since (R455). -/
def State.cmdLayers (s : State) (mb : Nat) : Option CfgStore :=
  if setsValues (s.box mb).opcode then none else (s.box mb).cfgWas

/-- The state as a command sees it (R455). -/
def State.cmdView (s : State) (mb : Nat) : State :=
  match s.cmdLayers mb with
  | some c => s.modCfg fun _ => c
  | none => s

/-- What a command has done, over the layers in force (R455). -/
def State.cmdBack (s : State) (mb : Nat) (t : State) : State :=
  match s.cmdLayers mb with
  | some _ => t.modCfg fun _ => s.cfg
  | none => t

/-- A started command of the opcode is carried out: past its limit it posts DEADLINE_MISSED (R434), a failed precondition
posts its status, and otherwise it acts; while its role migrates it waits (R30). -/
def State.perform (mb op : Nat) (check : State → Mailbox → Option Nat) (act : Mailbox → State → State) (s : State) : State :=
  if !s.runs mb op || !s.rolePlaced (roleOf op) then s
  else if (s.box mb).limit < s.now then s.post mb Status.deadlineMissed []
  else
    match check (s.cmdView mb) (s.box mb) with
    | some st => s.post mb st []
    | none => s.cmdBack mb (act (s.box mb) (s.cmdView mb))

/-- A precondition that refuses a malformed payload first (R444). -/
def checked (wf : List Byte → Bool) (pre : State → Mailbox → Option Nat) (s : State) (b : Mailbox) : Option Nat :=
  if wf b.payload then pre s b else some Status.invalid

/-- No further precondition. -/
def noPre (_ : State) (_ : Mailbox) : Option Nat := none

/-- A refusal with a status when the condition holds. -/
def refuseIf (c : Bool) (st : Nat) : Option Nat := if c then some st else none

/-- A command that waits is posted now, or as DEADLINE_MISSED once its limit has passed before its commit point (R434). -/
def State.conclude (n status : Nat) (body : List Byte) (s : State) : State :=
  if (s.box n).st = .issued ∧ (s.box n).waiting = true then
    (if (s.box n).committed = false ∧ (s.box n).limit < s.now then s.post n Status.deadlineMissed [] else s.post n status body)
  else s

/-- The root key of a slot at a version: the present key or the shadow (R284). -/
def State.rootAt (s : State) (k version : Nat) : Option (List Byte) :=
  if (s.slot k).version = version then (if (s.slot k).loaded then some (s.slot k).key else none)
  else
    match (s.slot k).shadow with
    | some (key, v) => if v = version then some key else none
    | none => none

/-- The previous key of a slot is still referred to (R284): by a message in flight, a key session of the round, an answer that
awaits its admission, or a segment node's exchange or session. -/
def State.shadowUsed (s : State) (k : Nat) : Bool :=
  let v := (s.slot k).version
  let old := fun (o : Option Msg) => match o with
    | some m => m.slot == k && m.version != v
    | none => false
  let bound := fun (b : Option (Nat × Nat × Nat × Nat)) => match b with
    | some x => x.1 == k && x.2.1 != v
    | none => false
  let waits := fun (a : SlotAns) => a.rootSlot == k && a.version != v
  (s.crypt.chans.any fun x => old x.cur || old x.susp) ||
    (match s.sess.cur with
      | some r => (!r.closed && r.answers.any waits) || r.lanes.any fun l => waits l.ans && l.outcome.isNone
      | none => false) ||
    s.net.nodes.any fun n => (n.challenge.isSome && bound n.cbind) || (n.opened && bound n.bind)

/-- The shadow of a slot is scrubbed once nothing refers to it (R284). -/
def State.dropShadow (k : Nat) (s : State) : State :=
  if s.shadowUsed k then s else s.modSlot k fun x => { x with shadow := none }

/-- The shadows of several slots are scrubbed where nothing refers to them (R284). -/
def State.dropShadows (ks : List Nat) (s : State) : State := ks.foldl (fun (t : State) k => t.dropShadow k) s

/-- Result bytes written to the command's window at an offset, where it names one (R445). -/
def State.toWindow (b : Mailbox) (off : Nat) (bs : List Byte) (s : State) : State :=
  if b.hasWindow then s.winWrite b.window off bs else s

end Sys2Proof.Machine
end

