-- ==== Sys2Proof/Machine/Partners.lean ====
section
/-!
DEFINITION. The partner table, attachment counters, counted failures, decay, lockouts and enrolment windows
(02_partners).
-/
namespace Sys2Proof.Machine

/-- An identity that R43 admits. -/
def validIdentity (i : Nat) : Bool := decide (0 < i) && decide (i < 0xFFFFFFFFFFFFFFFF)

/-- The kind that a role goes with (R45); 0 for no role. -/
def roleKind (role : Nat) : Nat :=
  if role = 0x10 ∨ role = 0x11 ∨ role = 0x12 then 1
  else if role = 0x20 then 2
  else if role = 0x30 ∨ role = 0x31 ∨ role = 0x32 then 3
  else if role = 0x40 then 4 else 0

/-- A home attachment that R45 and R46 allow for a kind. -/
def homeOk (kind attach : Nat) : Bool :=
  if kind = 2 then decide (0x10 ≤ attach) && decide (attach ≤ 0x3F)
  else if kind = 3 then decide (0x40 ≤ attach) && decide (attach ≤ 0x5F) && decide (attach % 8 ≠ 0)
  else false

/-- The state code of R44. -/
def partCode : PartState → Nat
  | .free => 0
  | .candidate => 1
  | .enrolled => 2
  | .absent => 3

/-- The flags field of R44. -/
def PartRec.flags (r : PartRec) : Nat := bit r.releaseOk + 2 * bit r.metonOrigin + 4 * bit r.misplaced

/-- The 64 bytes of a record (R44). -/
def PartRec.bytes (r : PartRec) : List Byte :=
  leBytes 8 r.identity ++ leBytes 1 r.kind ++ leBytes 1 r.role ++ leBytes 1 (partCode r.state) ++ leBytes 1 r.slot ++
    leBytes 4 r.keyEpoch ++ leBytes 2 r.zones.toNat ++ leBytes 2 r.flags ++ leBytes 1 r.attach ++ leBytes 1 r.failCount ++
    leBytes 2 r.updateSeq ++ leBytes 4 r.stampEpoch ++ leBytes 4 r.seenEpoch ++ leBytes 8 r.lastFailNs ++
    leBytes 8 r.decayRefNs ++ leBytes 8 r.lastSeenNs ++ leBytes 4 r.missCount ++ zeros 4

/-- The record of an identity with its table index (R43). -/
def State.recAt (s : State) (ident : Nat) : Option (Nat × PartRec) := s.parts.table.find? fun p => p.2.identity == ident

/-- The record of an identity. -/
def State.rec? (s : State) (ident : Nat) : Option PartRec := (s.recAt ident).map (·.2)

/-- A record at an index, in a table kept in rising order. -/
def tablePut (i : Nat) (r : PartRec) (t : List (Nat × PartRec)) : List (Nat × PartRec) :=
  t.filter (fun p => decide (p.1 < i)) ++ (i, r) :: t.filter (fun p => decide (i < p.1))

/-- The copy of a record that is not current, and whether it lies at the lower address (R42): scrubbed where none is held, at
the upper address for a record in use and at the lower for a free one. -/
def Parts.otherCopy (p : Parts) (i : Nat) : Bool × PartRec :=
  match p.other.find? fun q => q.1 == i with
  | some q => q.2
  | none => (!(p.table.any fun q => q.1 == i), {})

/-- The copy that is not current set. -/
def Parts.setOther (p : Parts) (i : Nat) (lower : Bool) (r : PartRec) : Parts :=
  { p with other := (i, lower, r) :: p.other.filter fun q => q.1 != i }

/-- The current one of two valid copies (R42): the copy whose update_seq is one more than the other's, and otherwise the copy
at the lower address. -/
def currentCopy (lower upper : PartRec) : PartRec := if (lower.updateSeq + 1) % 0x10000 = upper.updateSeq then upper else lower

/-- A record is written to the copy that is not current, with an update_seq one more than the current copy's, and becomes
current; the copy that was current stays as it is (R42, R44). -/
def State.writeRec (i : Nat) (r : PartRec) (s : State) : State :=
  s.modParts fun p =>
    let was := ((p.table.find? fun q => q.1 == i).map (·.2)).getD {}
    let q := p.setOther i (!(p.otherCopy i).1) was
    { q with table := tablePut i { r with updateSeq := (was.updateSeq + 1) % 0x10000 } p.table }

/-- A record goes to free, and both its copies are scrubbed (R42, R48). -/
def State.dropRec (i : Nat) (s : State) : State :=
  s.modParts fun p =>
    { p with table := p.table.filter fun q => q.1 != i, other := p.other.filter fun q => q.1 != i }

/-- A record as it is read after a reset: wholly the current one of its two copies (R42). -/
def State.readRecord (s : State) (q : Nat × PartRec) : State :=
  let o := s.parts.otherCopy q.1
  let cur := if o.1 then currentCopy o.2 q.2 else currentCopy q.2 o.2
  if cur = q.2 then s
  else
    s.modParts fun p => { (p.setOther q.1 (!o.1) q.2) with table := tablePut q.1 cur p.table }

/-- Every record as it is read after a reset (R42). -/
def State.readRecords (s : State) : State := s.parts.table.foldl State.readRecord s


/-- The record of an identity updated and written (R42). -/
def State.updateRec (ident : Nat) (f : PartRec → PartRec) (s : State) : State :=
  match s.recAt ident with
  | some (i, r) => s.writeRec i (f r)
  | none => s

/-- Records in the candidate state. -/
def State.candidates (s : State) : List (Nat × PartRec) := s.parts.table.filter fun p => p.2.state == .candidate

/-! ### PARTNER entries and state changes (R48, R571) -/

/-- A PARTNER entry (R315, R571). -/
def State.partnerEntry (aux ident old role flags attach before : Nat) (s : State) : State :=
  s.ledgerAdd 0x22 aux (leBytes 8 ident ++ leBytes 1 old ++ leBytes 1 role ++ leBytes 2 flags ++ leBytes 1 attach ++
    leBytes 1 before)

/-- The PARTNER entry of a state change, and its condition (R48, R571). -/
def State.noteChange (old new : PartRec) (s : State) : State :=
  let after : PartRec := if new.state = .free then {} else new
  (s.partnerEntry (partCode new.state) old.identity (partCode old.state) after.role after.flags
    (if old.state = .free then new.attach else old.attach)
    (if old.state = .free then new.failCount else old.failCount)).raise 2 4

/-- A state change of R48: the record as it stands afterwards is written, or scrubbed when free, appended as a PARTNER entry
and raised as source 4 of group 2. -/
def State.changeRec (i : Nat) (old new : PartRec) (s : State) : State :=
  ((if new.state = .free then s.dropRec i else s.writeRec i new).noteChange old new)

/-- A copy of a record is uncorrectable (R509): the other copy is used, and the damaged one is rewritten from it; where the
older copy has another state, the change is appended. A record whose other copy is the scrubbed one reads as free. -/
def State.loseCopy (i : Nat) (lower : Bool) (s : State) : State :=
  match s.parts.table.find? fun q => q.1 == i with
  | some (_, r) =>
    let o := s.parts.otherCopy i
    if o.1 = lower then s.modParts fun p => p.setOther i lower r
    else
      let s1 := if o.2.state = .free then s.dropRec i
        else s.modParts fun p => { (p.setOther i (!lower) o.2) with table := tablePut i o.2 p.table }
      if o.2.state = r.state then s1 else s1.noteChange r o.2
  | none => s

/-! ### Counts: decay, lockout, failures (R57 to R67) -/

/-- 600 s (R63). -/
def decayNs : Nat := 600000000000

/-- The decrements due since a decay stamp (R63). -/
def State.decaySteps (s : State) (ref : Nat) : Nat := s.sinceLess ref / decayNs

/-- The lockout D(n) of R59 in ns; none for a count of 0. -/
def lockSpan (n : Nat) : Nat := if n = 0 then 0 else min (250000000 * 2 ^ (n - 1)) 64000000000

/-- A count with its last-failure stamp stands in lockout (R60). -/
def State.lockedBy (s : State) (n last : Nat) : Bool := decide (s.sinceLess last < lockSpan n)

/-- A record after the evaluation of R63. -/
def PartRec.decayed (r : PartRec) (k : Nat) : PartRec :=
  if r.failCount = 0 ∨ k = 0 then r
  else { r with failCount := r.failCount - k, decayRefNs := r.decayRefNs + k * decayNs }

/-- An attachment counter after the evaluation of R63. -/
def AttachCtr.decayed (c : AttachCtr) (k : Nat) : AttachCtr :=
  if c.count = 0 ∨ k = 0 then c else { c with count := c.count - k, decayRefNs := c.decayRefNs + k * decayNs }

/-- An attachment counter (R47). -/
def State.attachCtr (s : State) (a : Nat) : AttachCtr := s.parts.attach.getD a {}

/-- An attachment counter updated. -/
def State.modAttach (s : State) (a : Nat) (f : AttachCtr → AttachCtr) : State :=
  s.modParts fun p => { p with attach := p.attach.modify a f }

/-- The count of a record is evaluated (R63); a candidate made by removal is freed once it is 0 (R48). -/
def State.evalIdentity (ident : Nat) (s : State) : State :=
  match s.recAt ident with
  | some (i, r) =>
    let r1 := r.decayed (s.decaySteps r.decayRefNs)
    if r1.removed && r1.state == .candidate && r1.failCount == 0 then s.changeRec i r1 { r1 with state := .free }
    else if r1 = r then s else s.writeRec i r1
  | none => s

/-- The count of an attachment point is evaluated (R63). -/
def State.evalAttach (a : Nat) (s : State) : State := s.modAttach a fun c => c.decayed (s.decaySteps c.decayRefNs)

/-- The identity is locked out (R60, R61). -/
def State.identityLocked (s : State) (ident : Nat) : Bool :=
  match s.rec? ident with
  | some r => s.lockedBy r.failCount r.lastFailNs
  | none => false

/-- The attachment point is locked out (R60, R61). -/
def State.attachLocked (s : State) (a : Nat) : Bool := s.lockedBy (s.attachCtr a).count (s.attachCtr a).lastFailNs

/-- The start of the present TB_NS hour (R66). -/
def State.hourStart (s : State) : Nat := s.now / 3600000000000 * 3600000000000

/-- A failure is counted for its identity or attachment point in the present hour; `high` when the count stands at 9 or more
after it, so that the hour has a summary (R66). -/
def State.summarise (ident attach : Nat) (high : Bool) (s : State) : State :=
  let same := fun (x : AuthSum) => x.identity == ident && x.attach == attach && x.hourNs == s.hourStart
  s.modParts fun p =>
    { p with sums :=
        if p.sums.any same then
          p.sums.map fun x => if same x then { x with failures := x.failures + 1, high := x.high || high } else x
        else p.sums ++ [{ identity := ident, attach := attach, failures := 1, high := high, hourNs := s.hourStart }] }

/-- A record after a counted failure (R58, R63). -/
def State.failRec (s : State) (r : PartRec) : PartRec :=
  let r1 := r.decayed (s.decaySteps r.decayRefNs)
  { r1 with
    failCount := satAdd 255 r1.failCount 1, lastFailNs := s.now, decayRefNs := s.now, stampEpoch := s.tbu.epoch }

/-- An attachment counter after a counted failure (R58, R63). -/
def State.failCtr (s : State) (c : AttachCtr) : AttachCtr :=
  let c1 := c.decayed (s.decaySteps c.decayRefNs)
  { count := satAdd 255 c1.count 1, lastFailNs := s.now, decayRefNs := s.now, stampEpoch := s.tbu.epoch }

/-- A counted failure (R58, R59, R65, R66, R572): the record's and the attachment point's counts rise and are committed,
sources 2 and 3 of group 2 are raised, and the failure is appended unless every count it raises stands at 9 or more. -/
def State.countFailure (kind code ident : Nat) (attach : Option Nat) (s : State) : State :=
  let r1 := (s.recAt ident).map fun p => (p.1, s.failRec p.2)
  let c1 := attach.map fun a => s.failCtr (s.attachCtr a)
  let s1 := match r1 with
    | some (i, r) => s.writeRec i r
    | none => s
  let s2 := match attach, c1 with
    | some a, some c => s1.modAttach a fun _ => c
    | _, _ => s1
  let idAfter := r1.map (·.2.failCount)
  let atAfter := c1.map (·.count)
  let s3 := (s2.raise 2 2).raise 2 3
  let high := fun (n : Option Nat) => (n.getD 9) ≥ 9
  let s4 :=
    if high idAfter && high atAfter && (idAfter.isSome || atAfter.isSome) then s3
    else
      s3.ledgerAdd 0x20 (kind * 0x100 + code) (leBytes 8 ident ++ leBytes 1 (attach.getD 0xFF) ++
        leBytes 1 (idAfter.getD 0xFF) ++ leBytes 1 (atAfter.getD 0xFF))
  let s5 := match idAfter with
    | some n => s4.summarise ident 0xFF (decide (9 ≤ n))
    | none => s4
  match attach, atAfter with
  | some a, some n => s5.summarise 0 a (decide (9 ≤ n))
  | _, _ => s5

/-- The AUTH_SUMMARY entry of a summary (R66, R315). -/
def State.putSummary (x : AuthSum) (s : State) : State :=
  s.ledgerAdd 0x21 (min x.failures 0xFFFF) (leBytes 8 x.identity ++ leBytes 1 x.attach ++ leBytes 8 x.hourNs)

/-- The counts in progress that satisfy the test leave, and those of an hour in which the count stood at 9 or more are appended
(R66). -/
def State.putSummaries (due : AuthSum → Bool) (s : State) : State :=
  (s.parts.sums.filter fun x => due x && x.high).foldl (fun t x => t.putSummary x)
    (s.modParts fun p => { p with sums := p.sums.filter fun x => !due x })

/-- The summaries of hours that have ended (R66): the meaning of AUTH_SUMMARY_HOUR_END. -/
def execAuthSummaryHourEnd (s : State) : Host.Outcome State Fault Refusal :=
  .next (s.putSummaries fun x => decide (x.hourNs + 3600000000000 ≤ s.now))

/-- A verified exchange (R62): the record's fail_count and miss_count become 0 and last_seen is stamped; an absent module or
node becomes enrolled (R48). -/
def State.verifiedExchange (ident : Nat) (s : State) : State :=
  match s.recAt ident with
  | some (i, r) =>
    let r1 := { r with failCount := 0, missCount := 0, lastSeenNs := s.now, seenEpoch := s.tbu.epoch }
    if r.state = .absent ∧ (r.kind = 2 ∨ r.kind = 3) then s.changeRec i r { r1 with state := .enrolled }
    else s.writeRec i r1
  | none => s

/-- An expected check in which the partner was not verified (R44, R48). -/
def State.missedCheck (ident : Nat) (s : State) : State :=
  match s.recAt ident with
  | some (i, r) =>
    let r1 := { r with missCount := satAdd 0xFFFFFFFF r.missCount 1 }
    if r.state = .enrolled ∧ (r.kind = 2 ∨ r.kind = 3) ∧ s.cfgN recPartners 6 ≤ r1.missCount then
      s.changeRec i r { r1 with state := .absent }
    else s.writeRec i r1
  | none => s

/-! ### Candidates (R48, R49, R51) -/

/-- The lowest free index (R49). -/
def State.freeIndex (s : State) : Option Nat :=
  (List.range 1024).find? fun i => !(s.parts.table.any fun p => p.1 == i)

/-- The order of R49 in which candidates are replaced. -/
def seenEarlier (a b : Nat × PartRec) : Bool :=
  decide (a.2.seenEpoch < b.2.seenEpoch) || (a.2.seenEpoch == b.2.seenEpoch && decide (a.2.lastSeenNs < b.2.lastSeenNs))

/-- The candidate that R49 replaces: fail_count 0, last seen earliest, a tie to the lowest index. -/
def State.replaceable (s : State) : Option (Nat × PartRec) :=
  (s.candidates.filter fun p => p.2.failCount == 0).foldl
    (fun best p =>
      match best with
      | none => some p
      | some q => if seenEarlier p q then some p else some q) none

/-- The candidate that R49 replaces goes to free, and its index is answered. -/
def State.replaceCandidate (s : State) : Option (Nat × State) :=
  s.replaceable.map fun p => (p.1, s.changeRec p.1 p.2 { p.2 with state := .free })

/-- A place for a new candidate (R49). -/
def State.placeCandidate (s : State) : Option (Nat × State) :=
  match s.freeIndex with
  | some i => if s.candidates.length < 128 then some (i, s) else s.replaceCandidate
  | none => s.replaceCandidate

/-- A place for a newly enrolled partner (R52). -/
def State.placeEnrolled (s : State) : Option (Nat × State) :=
  match s.freeIndex with
  | some i => some (i, s)
  | none => s.replaceCandidate

/-- An answer from an identity (R48, R49, R51): an unknown one becomes a candidate where R49 finds it a place; a candidate is
stamped as seen. -/
def State.metIdentity (kind attach ident : Nat) (s : State) : State :=
  if !validIdentity ident then s
  else
    match s.recAt ident with
    | some (i, r) =>
      if r.state = .candidate then s.writeRec i { r with lastSeenNs := s.now, seenEpoch := s.tbu.epoch } else s
    | none =>
      match s.placeCandidate with
      | some (i, t) =>
        (t.changeRec i {}
          { identity := ident, kind := kind, state := .candidate, attach := attach
            lastSeenNs := s.now, seenEpoch := s.tbu.epoch }).raise 2 6
      | none => s

/-- 24 h (R48). -/
def dayNs : Nat := 86400000000000

/-- A candidate's hourly evaluation (R48, R63): freed with no answer for 24 h of the present epoch and fail_count 0. -/
def State.evalCandidate (ident : Nat) (s : State) : State :=
  let s1 := s.evalIdentity ident
  match s1.recAt ident with
  | some (i, r) =>
    if r.state = .candidate ∧ r.failCount = 0 ∧ r.seenEpoch = s.tbu.epoch ∧ r.lastSeenNs + dayNs ≤ s.now then
      s1.changeRec i r { r with state := .free }
    else s1
  | none => s1

/-- The hourly evaluation of every candidate (R48). -/
def doCandidateEvaluation (s : State) : State := s.candidates.foldl (fun t p => t.evalCandidate p.2.identity) s

/-- CANDIDATE_EVALUATION. -/
def execCandidateEvaluation (s : State) : Host.Outcome State Fault Refusal := .next (doCandidateEvaluation s)

/-! ### Enrolment (R52 to R54) -/

/-- What an enrolment gives a record (R52, R54). -/
structure EnrolAs where
  role : Nat
  slot : Nat
  zones : BitVec 16
  releaseOk : Bool
  attach : Nat
  deriving DecidableEq, Repr

/-- A record as enrolment leaves it (R44, R52): key_epoch kept from an earlier enrolment. The verified exchange clears its count
and stamps it as seen (R62); a lessor has had none, and keeps both (R53, R67). -/
def PartRec.enrolled (r : PartRec) (ident : Nat) (e : EnrolAs) (now epoch : Nat) : PartRec :=
  let r1 : PartRec := { r with
    identity := ident, kind := roleKind e.role, role := e.role, state := .enrolled, slot := e.slot, zones := e.zones
    releaseOk := e.releaseOk, attach := e.attach, misplaced := false, removed := false }
  if r1.kind = 4 then r1 else { r1 with failCount := 0, missCount := 0, lastSeenNs := now, seenEpoch := epoch }

/-- Enrolment completes for an identity (R48, R52): a module or node that has no record becomes a candidate by its answer
(R51) and is enrolled from there; a lessor is enrolled from free, and so is an identity for which R49 finds no candidate's
place although a record is free (log 35). -/
def State.enrolPartner (ident : Nat) (e : EnrolAs) (s : State) : State :=
  let s1 := if roleKind e.role = 4 then s else s.metIdentity (roleKind e.role) e.attach ident
  match s1.recAt ident with
  | some (i, r) => s1.changeRec i r (r.enrolled ident e s.now s.tbu.epoch)
  | none =>
    match s1.placeEnrolled with
    | some (i, t) => t.changeRec i {} (({} : PartRec).enrolled ident e s.now s.tbu.epoch)
    | none => s1

/-- The defaults under which a service-enrolment window enrols (R54, R528). -/
def State.enrolDefaults (s : State) (role attach : Nat) : EnrolAs :=
  { role := role, slot := s.cfgN recPartners 4, zones := BitVec.ofNat 16 (s.cfgN recPartners 3)
    releaseOk := s.cfgB recPartners 5, attach := attach }

/-- A service-enrolment window is open (R54). -/
def State.windowOpen (s : State) : Bool :=
  match s.parts.window with
  | some t => decide (s.now < t)
  | none => false

/-- A service-enrolment window opens for 120 s (R54). -/
def State.openWindow (s : State) : State :=
  (s.modParts fun p => { p with window := some (s.now + 120000000000), windowUsed := 0 }).raise 2 5

/-- The window closes (R54). -/
def State.closeWindow (s : State) : State := (s.modParts fun p => { p with window := none }).raise 2 5

/-- The window has enrolled one partner more, and closes after eight (R54). -/
def State.windowUse (s : State) : State :=
  let s1 := s.modParts fun p => { p with windowUsed := p.windowUsed + 1 }
  if 8 ≤ s1.parts.windowUsed ∧ s1.parts.window.isSome then s1.closeWindow else s1

/-- The meaning of ENROLMENT_WINDOW_EXPIRY (R54). -/
def doEnrolmentWindowExpiry (s : State) : State :=
  match s.parts.window with
  | some t => if t ≤ s.now then s.closeWindow else s
  | none => s

/-- ENROLMENT_WINDOW_EXPIRY. -/
def execEnrolmentWindowExpiry (s : State) : Host.Outcome State Fault Refusal := .next (doEnrolmentWindowExpiry s)

/-- A record leaves enrolment by part.remove or by replacement (R48): free with fail_count 0, and otherwise a candidate that
keeps identity, kind, fail_count and stamps. -/
def PartRec.removedAs (r : PartRec) : PartRec :=
  if r.failCount = 0 then { r with state := .free }
  else
    { identity := r.identity, kind := r.kind, state := .candidate, failCount := r.failCount, updateSeq := r.updateSeq
      stampEpoch := r.stampEpoch, lastFailNs := r.lastFailNs, decayRefNs := r.decayRefNs, removed := true, attach := 0 }

/-- The record of an identity is removed (R48). At most 128 records are candidates (R49): a record that becomes the 129th
replaces the candidate that R49 names, and goes to free where no candidate has fail_count 0 (log 42). -/
def State.removeRec (ident : Nat) (s : State) : State :=
  match s.recAt ident with
  | some (i, r) =>
    let n := r.removedAs
    if n.state = .free ∨ s.candidates.length < 128 then s.changeRec i r n
    else
      match s.replaceCandidate with
      | some (_, t) => t.changeRec i r n
      | none => s.changeRec i r { n with state := .free }
  | none => s

/-- A service key's presence is established (R54, R67, R278). -/
def State.serviceSeen (s : State) : State :=
  (s.modParts fun p => { p with service := some (s.now, s.tbu.epoch) }).modKeys fun k => { k with reprovOpen := false }

end Sys2Proof.Machine
end

