-- ==== Sys2Proof/Machine/Lf.lean ====
section
/-!
DEFINITION. The LF array: channels and their conditions, what a burst costs, the budget scheduler, and what starts when a
burst is admitted (03_lf_field_array, with the exchange of 04_module_transponders and the round of 06_key_sessions).
-/
namespace Sys2Proof.Machine

/-! ### Channels (R69 to R78) -/

/-- An LF channel. -/
def State.lfChan (s : State) (c : Nat) : LfChan := s.lf.chans.getD c {}

/-- An LF channel updated. -/
def State.modLfChan (s : State) (c : Nat) (f : LfChan → LfChan) : State :=
  s.modLf fun x => { x with chans := x.chans.modify c f }

/-- The channel is enabled in the image (R528). -/
def State.lfEnabled (s : State) (c : Nat) : Bool := s.cfgB recLfArray (fieldNo c 1)

/-- The channel is excluded (R78, R79): bit 9 of its condition. -/
def LfChan.excluded (x : LfChan) : Bool := x.cond.getLsbD 9

/-- The channel may take part in bursts (R79). -/
def State.lfServes (s : State) (c : Nat) : Bool := s.lfEnabled c && !(s.lfChan c).excluded

/-- Rs in force in 10 mΩ: the last result's, or the nominal value before it (R76). DESIGN CHOICE (log 64): a measured Rs of 0,
by which R71 would divide, is replaced by the nominal value of the image. -/
def State.lfRs (s : State) (c : Nat) : Nat :=
  match (s.lfChan c).result with
  | some r => if r.rs = 0 then s.cfgN recLfArray (fieldNo c 2) else r.rs
  | none => s.cfgN recLfArray (fieldNo c 2)

/-- π in 10^-15. -/
def piE15 : Nat := 3141592653589793

/-- VLF in mV: the set point, or the bus less 1.0 V while that is lower (R70, R477). -/
def State.vlfNow (s : State) : Nat := min s.lf.vlf (s.power.bus - 1000)

/-- I_max in mA (R71). -/
def State.lfImax (s : State) (c : Nat) : Nat :=
  if c < 16 then 400 * s.vlfNow * 10 ^ 15 / (piE15 * s.lfRs c) else 318000 / s.lfRs c

/-- The grid of a channel's current in mA (R69). -/
def lfGrid (c : Nat) : Nat := if c < 16 then 20 else 5

/-- P_sw in units of 5 nW (R69). -/
def lfSwitch (c : Nat) : Nat := if c < 16 then 40000000 else 4000000

/-- The carrier of a channel (R74, R77): k of 120,000 Hz + 25 k. A runtime carrier stands over auto_tune. -/
def State.carrierK (s : State) (c : Nat) : Nat :=
  if c < 16 then 200
  else
    match layerGet s.cfg.runtime (cfgKey recLfArray (fieldNo c 3)), (s.lfChan c).result with
    | none, some r =>
      if s.cfgB recLfArray (fieldNo c 4) && r.f0 != 0 then min 600 ((r.f0 + 12 - 120000) / 25)
      else s.cfgN recLfArray (fieldNo c 3)
    | _, _ => s.cfgN recLfArray (fieldNo c 3)

/-- The carrier in Hz (R74). -/
def State.carrierHz (s : State) (c : Nat) : Nat := 120000 + 25 * s.carrierK c

/-- A new VLF applies while no field burst is in flight (R70). -/
def State.settleVlf (s : State) : State :=
  match s.lf.vlfPending with
  | some v =>
    if s.lf.flight.any fun b => b.parts.flatten.any fun q => decide (q.1 < 16) then s
    else s.modLf fun x => { x with vlf := v, vlfPending := none }
  | none => s

/-- A channel's condition set; a change in a condition is appended and raised (R80). -/
def State.setCond (c : Nat) (new : BitVec 16) (s : State) : State :=
  let old := (s.lfChan c).cond
  let s1 := s.modLfChan c fun x => { x with cond := new }
  if (old &&& 0x1FF) = (new &&& 0x1FF) then s1
  else (s1.ledgerAdd 0x51 c (leBytes 2 (new &&& 0x1FF).toNat)).raise 3 0

/-- The state as a running check sees it: under the layers it completes under, once a new image has come during it (R101). -/
def State.checkView (s : State) : State :=
  match s.pop.running.bind (·.cfgWas) with
  | some c => s.modCfg fun _ => c
  | none => s

/-- The coupling of two channels (R87): symmetric among coils, the field rows marking coils. -/
def State.couples (s0 : State) (a b : Nat) : Bool :=
  let s := s0.checkView
  if a < 16 then decide (16 ≤ b) && (s.cfgN recCoupling (fieldNo 0 (a + 49))).testBit (b - 16)
  else if b < 16 then (s.cfgN recCoupling (fieldNo 0 (b + 49))).testBit (a - 16)
  else (s.cfgN recCoupling (fieldNo 0 (a - 15))).testBit (b - 16)

/-! ### Bursts and their cost (R81, R82, R91) -/

/-- A resonance measurement (R75), rather than an lf.phase test. -/
def Burst.measure (b : Burst) : Bool := b.cls == .diag && b.test.isNone

/-- Every channel of a burst. -/
def Burst.chans (b : Burst) : List Nat := b.parts.flatten.map (·.1)

/-- The coil of a transponder exchange. -/
def Burst.coil (b : Burst) : Nat := (b.chans.headD 16) - 16

/-- The channels of a phasing set with their target currents in mA (R81). -/
def State.setCurrents (s : State) (p : Nat) : List (Nat × Nat) :=
  (List.range 16).filterMap fun c =>
    let i := 20 * s.cfgN recFieldMap (fieldNo p (c + 1))
    if i = 0 then none else some (c, i)

/-- The phasing sets that a wake configuration names: the wake pattern's, then the eight positions' (R164). -/
def State.wakeSets (s : State) (k : Nat) : List (Option Nat) :=
  some (s.cfgN recWake (fieldNo k 4)) ::
    (List.range 8).map fun p =>
      let v := s.cfgN recWake (fieldNo k (p + 5))
      if v = 0xFF then none else some v

/-- The parts of a wake burst (R82, R166): the wake pattern, then the eight positions, an unset one empty. -/
def State.wakeParts (s : State) (k : Nat) : List (List (Nat × Nat)) :=
  (s.wakeSets k).map fun v => (v.map s.setCurrents).getD []

/-- The phase at which an antenna is driven in a phasing set, in 22.5° steps (R81): the phase asked for, and 180° more where
the antenna's polarity bit is set. -/
def State.drivePhase (s : State) (p c : Nat) : Nat :=
  (s.cfgN recFieldMap (fieldNo p (c + 17)) + if (s.cfgN recFieldMap (fieldNo 16 1)).testBit c then 8 else 0) % 16

/-- The phases of the parts of a burst as they are driven, by channel (R81). -/
def State.drivePhases (s : State) (sets : List (Option Nat)) (parts : List (List (Nat × Nat))) : List (List (Nat × Nat)) :=
  (sets.zip parts).map fun q => match q.1 with
    | some p => q.2.map fun x => (x.1, s.drivePhase p x.1)
    | none => []

/-- A channel's target after the limits of R71 and R78; a measurement is limited by I_max alone. -/
def State.limited (s : State) (b : Burst) (c i : Nat) : Nat :=
  min (if s.lf.hot.getLsbD c && !b.measure then i / 2 else i) (s.lfImax c)

/-- The parts of a burst as they can be driven now: channels in service and not tripped, at their limited targets. -/
def State.targets (s : State) (b : Burst) : List (List (Nat × Nat)) :=
  b.parts.map fun p =>
    (p.filter fun q => !b.tripped.contains q.1 && (b.measure || s.lfServes q.1)).map fun q => (q.1, s.limited b q.1 q.2)

/-- The current-dependent cost of a part, in 5 nW before the 0.88 of R91. -/
def State.partDrive (s : State) (p : List (Nat × Nat)) : Nat := (p.map fun q => q.2 * q.2 * s.lfRs q.1).sum

/-- The switching cost of a part, in the same unit. -/
def partSwitch (p : List (Nat × Nat)) : Nat := (p.map fun q => lfSwitch q.1).sum

/-- The cost of a burst: the largest over its parts (R91). -/
def State.costOf (s : State) (ps : List (List (Nat × Nat))) : Nat :=
  (ps.map fun p => s.partDrive p + partSwitch p).foldl max 0

/-- A power in mW in the unit of costs, with the 0.88 of R91 on this side. -/
def costUnits (mw : Nat) : Nat := 176000 * mw

/-- The committed load (R91). -/
def State.committed (s : State) : Nat := (s.lf.flight.map fun b => s.costOf b.scaled).sum

/-- A cost fits P_LF less the committed load (R92). -/
def State.fits (s : State) (cost : Nat) : Bool := decide (cost + s.committed ≤ costUnits s.lf.pLf)

/-! ### Derating (R94, R98) -/

/-- The scale factor s of R94 step 3 is at least 0.5 for a free budget, in cost units. -/
def State.halfFits (s : State) (ps : List (List (Nat × Nat))) (free : Nat) : Bool :=
  ps.all fun p => decide (s.partDrive p + 4 * partSwitch p ≤ 4 * free)

/-- The current m is no more than s times the target i (R94 step 3). -/
def State.within (s : State) (ps : List (List (Nat × Nat))) (free i m : Nat) : Bool :=
  ps.all fun p => decide (m * m * s.partDrive p ≤ i * i * (free - partSwitch p))

/-- A target scaled by s and rounded down to its grid (R94 step 3). -/
def State.scaledCurrent (s : State) (ps : List (List (Nat × Nat))) (free c i : Nat) : Nat :=
  let g := lfGrid c
  g * ((List.range (i / g + 1)).filter fun n => s.within ps free i (g * n)).getLast?.getD 0

/-- Every part scaled to a free budget (R94 step 3). -/
def State.scaleParts (s : State) (ps : List (List (Nat × Nat))) (free : Nat) : List (List (Nat × Nat)) :=
  ps.map fun p => p.map fun q => (q.1, s.scaledCurrent ps free q.1 q.2)

/-- The scale reported (R94): the smallest ratio of applied to target current, × 10,000, rounded down. -/
def scaleOf (target applied : List (List (Nat × Nat))) : Nat :=
  ((target.flatten.zip applied.flatten).map fun q => if q.1.2 = 0 then 10000 else 10000 * q.2.2 / q.1.2).foldl min 10000

/-- A derating event (R98): source 1 of group 3, and the health entry of the first since P_avail changed. -/
def State.derateEvent (s : State) : State :=
  let s1 := (s.modLf fun x => { x with lastDerate := some s.now }).raise 3 1
  if s1.lf.derateLogged then s1 else (s1.modLf fun x => { x with derateLogged := true }).health1 0x0081 0 7 s1.lf.pAvail

/-! ### Stopping and deferring (R94, R97, R99) -/

/-- A burst waits, in order of request. -/
def insertBurst (b : Burst) (l : List Burst) : List Burst :=
  l.filter (fun x => decide (x.id < b.id)) ++ b :: l.filter (fun x => decide (b.id < x.id))

/-- A session record issued now for a lane (R188). -/
def State.sessRec (s : State) (r : Round) (l : Lane) (outcome : Nat) (zones : BitVec 16) : SessRec :=
  { roundSeq := r.seq, epoch := r.epoch, wakeNs := r.wakeNs, resultNs := s.now, unc := s.unc, config := r.config
    slot := l.ans.slot, lane := l.k, outcome := outcome, identity := l.ans.identity, motion := l.ans.motion
    scale := r.scale, zones := zones }

/-- The burst of a round is stopped: sessions already admitted end as ABORTED, uncounted, and their records are issued; no
response window opens (R99, R187, R189). -/
def State.abortRound (s : State) : State :=
  match s.sess.cur with
  | some r =>
    let cut := r.lanes.filter fun l => l.outcome.isNone
    let recs := cut.map fun l => s.sessRec r l 7 0
    let done : Round := { r with lanes := r.lanes.map fun l => if l.outcome.isNone then { l with outcome := some 7 } else l }
    (s.modSess fun x =>
      { x with
        cur := none, last := if r.closed then some done else x.last, recs := x.recs ++ recs
        lastBy := recs.foldl (fun acc q => q :: acc.filter fun z => z.identity != q.identity) x.lastBy
        ranges := x.ranges ++ cut.filterMap (·.record) }).dropShadows
      (r.answers.map (·.rootSlot) ++ r.lanes.map fun l => l.ans.rootSlot)
  | none => s

/-- A burst in flight is stopped and deferred whole (R97); a wake's round ends with it (R189). -/
def State.stopBurst (b : Burst) (s : State) : State :=
  let s1 := s.modLf fun x =>
    { x with
      flight := x.flight.filter (fun y => y.id != b.id)
      waiting := insertBurst { b with restarted := true, tripped := [], scaled := [], scale := 10000 } x.waiting }
  if b.cls = .wake then s1.abortRound else s1

/-- Bursts in falling order of a key. -/
def sortBursts (key : Burst → Nat) (l : List Burst) : List Burst :=
  l.foldl (fun acc b => acc.filter (fun x => decide (key b ≤ key x)) ++ b :: acc.filter (fun x => decide (key x < key b))) []

/-- Diagnostics in flight, the most recently requested first (R94 step 1). -/
def State.diagsInFlight (s : State) : List Burst := sortBursts (·.id) (s.lf.flight.filter fun b => b.cls == .diag)

/-- Population exchanges in flight, the highest channel first (R94 step 2). -/
def State.popsInFlight (s : State) : List Burst := sortBursts Burst.coil (s.lf.flight.filter fun b => b.cls == .pop)

/-- Steps 1 and 2 of R94: bursts are stopped one by one until the test holds. -/
def State.freeBudget (enough : State → Bool) (s : State) : State :=
  (s.diagsInFlight ++ s.popsInFlight).foldl (fun t b => if enough t then t else t.stopBurst b) s

/-! ### What an admitted burst starts -/

/-- The home module of a coil (04_module_transponders): the enrolled or absent module whose attach names it. DESIGN CHOICE (log
65): of two such records, an absent and an enrolled one, the one with the lowest table index. -/
def State.homeModule (s : State) (i : Nat) : Option PartRec :=
  (s.parts.table.find? fun p => p.2.kind == 2 && (p.2.state == .enrolled || p.2.state == .absent) && p.2.attach == 0x10 + i).map (·.2)

/-- The running check updated. -/
def State.modCheck (s : State) (f : PopCheck → PopCheck) : State := s.modPop fun p => { p with running := p.running.map f }

/-- A coil's standing in the running check updated. -/
def State.modCoil (s : State) (i : Nat) (f : Coil → Coil) : State :=
  s.modCheck fun k => { k with coils := k.coils.modify i f }

/-- A coil's standing in the running check. -/
def State.coil (s : State) (i : Nat) : Coil := ((s.pop.running.map (·.coils)).getD []).getD i {}

/-- A module key (R114): by root slot, identity and key epoch; none where the slot yields no key (R115). -/
def State.moduleKey (s : State) (slot ident epoch : Nat) : Option (List Byte) :=
  if s.partnerSlot slot && !s.crypt.sealed then some (kdf (s.slot slot).key 0x0101 ident 0x20 epoch 128) else none

/-- The response expected to a challenge C (R114). -/
def moduleResponse (key : List Byte) (c : Nat) : List Byte := (Aes.encBlock key (beBytes 12 c ++ [0, 0, 0, 1])).take 8

/-- One bit of the CRC-8 of R111 (polynomial 0x07), most significant bit first. -/
def crc8Bit (c : Nat) (b : Bool) : Nat := if (c.testBit 7) = b then 2 * c % 256 else (2 * c % 256) ^^^ 0x07

/-- The CRC-8 of R111 over bits, initial value 0xFF. -/
def crc8 (bs : List Bool) : Nat := bs.foldl crc8Bit 0xFF

/-- The bits of a number of a width, most significant first. -/
def msbBits (width v : Nat) : List Bool := (List.range width).map fun i => v.testBit (width - 1 - i)

/-- A downlink frame after its SOF (R109): command, payload and CRC. -/
def downFrame (command : Nat) (payload : List Bool) : List Bool :=
  let bs := msbBits 4 command ++ payload
  bs ++ msbBits 8 (crc8 bs)

/-- The CHECK frame of a challenge (R112). -/
def checkFrame (c : Nat) : List Bool := downFrame 0x1 (msbBits 96 c)

/-- The IDENT frame (R112). -/
def identFrame : List Bool := downFrame 0x2 []

/-- A fresh challenge of 96 bits for a CHECK, which has not been sent before (R114): the value drawn or, where that has been
sent, the first above it that has not. -/
def State.freshC (s : State) : Nat :=
  let c := s.freeVal % 2 ^ 96
  (((List.range (s.pop.used.length + 1)).map fun k => (c + k) % 2 ^ 96).find? fun x => !s.pop.used.contains x).getD c

/-- A challenge is spent (R114). -/
def State.spendC (s : State) (c : Nat) : State := (s.modPop fun p => { p with used := c :: p.used }).drawn

/-- A CHECK frame for an identity starts on a coil: a fresh challenge is drawn and its response computed under the slot's key
(R112, R114, R115). -/
def State.startCheck (i ident slot epoch stage : Nat) (s : State) : State :=
  let c := s.freshC
  (s.modCoil i fun x =>
    { x with
      stage := stage, target := ident, slot := slot, challenge := c, frame := checkFrame c
      expected := (s.moduleKey slot ident epoch).map fun k => moduleResponse k c }).spendC c

/-- An enrolment's exchange with a module starts (R52). -/
def State.startEnrolCheck (s : State) : State :=
  match s.parts.enrol with
  | some e =>
    let c := s.freshC
    let epoch := ((s.rec? e.identity).map (·.keyEpoch)).getD 0
    (s.modParts fun p =>
      { p with enrol := some { e with
        challenge := c, frame := checkFrame c
        expected := (s.moduleKey e.slot e.identity epoch).map fun k => moduleResponse k c } }).spendC c
  | none => s

/-- A population exchange starts on its coil (R118, R119): CHECK for a home module or IDENT in the routine pass, IDENT in a
resolution; a restart is counted (R123). -/
def State.startExchange (b : Burst) (s : State) : State :=
  if b.addressed.isSome then s.startEnrolCheck
  else
    let i := b.coil
    let s1 := if b.restarted then s.modCheck fun k => { k with restarts := satAdd 255 k.restarts 1 } else s
    if ((s.pop.running.map (·.pass)).getD 0) = 0 then
      match s1.homeModule i with
      | some r => s1.startCheck i r.identity r.slot r.keyEpoch 1
      | none => s1.modCoil i fun x => { x with stage := 2, frame := identFrame }
    else s1.modCoil i fun x => { x with stage := 3, frame := identFrame }

/-- The antenna that failures of a burst are attributed to (R58, R170): the highest target current of the pattern, the lowest
numbered of several. DESIGN CHOICE (log 66): LFF0 where the pattern drives no antenna, for which the spec names none. -/
def attributed (pattern : List (Nat × Nat)) : Nat :=
  (pattern.foldl (fun (best : Nat × Nat) q => if best.2 < q.2 then q else best) (0, 0)).1

/-- The Manchester code of R167 in halves of 128 µs: 1 is carrier then none, 0 the reverse. -/
def manchester (bs : List Bool) : List Bool := bs.flatMap fun b => [b, !b]

/-- A wake burst up to its positions, as carrier on or off in each 128 µs (R166): the preamble of 1.024 ms, the sync, and the
24 data bits, wake_code then group. -/
def wakeWave (code group : Nat) : List Bool :=
  List.replicate 8 true ++ [false, false, false, true] ++ manchester (msbBits 16 code ++ msbBits 8 group)

/-! ### What the radio does as a wake begins (R138, R146 to R148) -/

/-- The code of a sequencer state (R147). -/
def seqCode : SeqState → Nat
  | .off => 0
  | .standby => 1
  | .synthSettle => 2
  | .cal => 3
  | .rxUhf => 4
  | .txUhf => 5
  | .rxUwb => 6
  | .txUwb => 7
  | .ranging => 8

/-- The sequencer takes a state and drives its antenna-switch value (R146). -/
def State.toSeq (st : SeqState) (s : State) : State :=
  s.modRadio fun r => { r with st := st, antSw := s.cfgN recRadio (5 + seqCode st) }

/-- Settling of a synthesiser begins, with the state to go to afterwards (R148). -/
def State.startSettle (synth : Synth) (goal : SeqState) (s : State) : State :=
  (s.toSeq .synthSettle).modRadio fun r =>
    { r with settleOf := synth, settleTo := goal, settleFails := 0, sampRun := r.sampRun || synth == .sampling }

/-- From the start of a wake burst the sampling synthesiser keeps running in RX_UHF: where it stands stopped there, it restarts
through SYNTH_SETTLE and the listen goes on (R138, log 38). -/
def State.wakeSampling (s : State) : State :=
  if s.radio.st = .rxUhf ∧ s.radio.sampRun = false then s.startSettle .sampling .rxUhf else s

/-- A round begins with its wake burst (R163, R188); a follow-up carries its chain's figures on. The antennas of the burst are
those of its pattern and of its positions (R61). -/
def State.startRound (b : Burst) (s : State) : State :=
  let seq := s.sess.roundSeq + 1
  let before := b.chain.getD (seq, s.now, 10000, [0, 0, 0, 0])
  let r : Round :=
    { seq := seq, config := b.config, wakeNs := s.now, epoch := s.tbu.epoch, scale := b.scale
      antennas := (b.scaled.flatten.map (·.1)).eraseDups, antenna := attributed (b.parts.headD [])
      sent := (b.scaled.drop 1).map fun p => !p.isEmpty
      wave := wakeWave (s.cfgN recWake (fieldNo b.config 2)) (s.cfgN recWake (fieldNo b.config 3))
      mbs := b.mbs, addressed := b.addressed, also := b.also, shared := b.shared, followUps := b.followUps
      firstSeq := before.1, firstNs := before.2.1, minScale := min before.2.2.1 b.scale, sums := before.2.2.2 }
  (s.modSess fun x =>
    { x with roundSeq := seq, cur := some r, pollStart := x.pollStart.set b.config (some s.now) }).wakeSampling

/-- The conditions of R78 that a burst evaluates on a channel: HEADROOM, HOT and, unless the channel is excluded, the end of
OVERCURRENT. -/
def State.burstCond (b : Burst) (c : Nat) (s : State) : State :=
  let x := s.lfChan c
  let asked := ((b.parts.flatten.filter fun q => q.1 == c).map (·.2)).foldl max 0
  let keep := x.cond &&& (if x.excluded then 0x2BF else 0x23F)
  s.setCond c (keep ||| (if s.lfImax c < asked then 0x40 else 0) ||| (if s.lf.hot.getLsbD c then 0x100 else 0))

/-- A burst is admitted with the currents applied (R92, R95); the commands it serves have committed (R447). -/
def State.admitBurst (b : Burst) (applied : List (List (Nat × Nat))) (scale : Nat) (s : State) : State :=
  let b1 := { b with scaled := applied, scale := scale, startNs := s.now, phases := s.drivePhases b.sets applied }
  let s0 := b.mbs.foldl (fun (t : State) n => t.commit n) s
  let s1 := s0.modLf fun x =>
    { x with waiting := x.waiting.filter (fun y => y.id != b.id), flight := x.flight ++ [b1] }
  let cs := (applied.flatten.map (·.1)).eraseDups
  let s2 := cs.foldl (fun t c => (t.modLfChan c fun x => { x with carrier := if b.cls == .pop then s.checkView.carrierK c else s.carrierK c }).burstCond b1 c) s1
  match b.cls with
  | .wake => s2.startRound b1
  | .pop => s2.startExchange b1
  | .diag => s2

/-! ### The scheduler (R89, R92 to R97) -/

/-- Two bursts may not drive together: they share a channel or their channels couple (R89). -/
def State.clashes (s : State) (a b : Burst) : Bool :=
  a.chans.any fun x => b.chans.any fun y => x == y || s.couples x y

/-- The domains of a burst are powered and the line is present: PD11 for field channels, PD12 for coils (R69, R95). -/
def State.lfPowered (s : State) (b : Burst) : Bool :=
  s.power.line && b.chans.all fun c => s.pdOn (if c < 16 then 11 else 12)

/-- A wake request that fits, or is made to fit, is admitted (R94); false when it must wait for budget. -/
def State.admitWake (w : Burst) (s : State) : State × Bool :=
  let s1 := (s.lf.flight.filter fun f => f.cls != .wake && s.clashes w f).foldl (fun t f => t.stopBurst f) s
  let ps := s1.targets w
  let need := s1.costOf ps
  let s2 := s1.freeBudget fun t => t.fits need
  if s2.fits need then (s2.admitBurst w ps 10000, true)
  else
    let free := costUnits s2.lf.pLf - s2.committed
    if s2.halfFits ps free then
      let ap := s2.scaleParts ps free
      ((s2.admitBurst w ap (scaleOf ps ap)).derateEvent, true)
    else (s2, false)

/-- The wake requests are considered: one at a time, and none while a round is in progress (R93, R190); false when a wake waits
for budget. -/
def State.considerWake (s : State) : State × Bool :=
  if (s.lf.flight.any fun b => b.cls == .wake) || s.sess.cur.isSome || s.radio.testMb.isSome then (s, true)
  else
    match s.lf.waiting.find? fun b => b.cls == .wake && s.lfPowered b with
    | some w => s.admitWake w
    | none => (s, true)

/-- A coil's entry is settled, with the identity of its note (R123, R124). -/
def State.setEntry (i code : Nat) (note : Option Nat) (s : State) : State :=
  s.modCoil i fun x => { x with entry := some code, stage := 5, why := 0, note := note }

/-- The exchange on a coil ends and its cost is released (R92). -/
def State.endCoilBurst (i : Nat) (s : State) : State :=
  s.modLf fun x =>
    { x with
      flight := x.flight.filter fun b => !(b.cls == .pop && b.coil == i)
      waiting := x.waiting.filter fun b => !(b.cls == .pop && b.coil == i && b.addressed.isNone) }

/-- The exchange's coil is excluded (R79). -/
def State.coilOut (s : State) (b : Burst) : Bool := b.cls == .pop && (s.lfChan (16 + b.coil)).excluded

/-- One request of the lower classes is considered (R92, R96): population exchanges are admitted as the longest run in channel
order that fits, so that the flag is false once one has not fitted; a check's exchange on an excluded coil is settled as
COIL_FAULT, and an enrolment's waits (R79). -/
def State.considerOne (p : State × Bool) (b : Burst) : State × Bool :=
  let s := p.1
  if s.coilOut b && b.addressed.isNone then ((s.setEntry b.coil 7 none).endCoilBurst b.coil, p.2)
  else if s.coilOut b || !s.lfPowered b || s.lf.flight.any (s.clashes b) || (b.cls == .pop && !p.2) then p
  else
    let ps := s.targets b
    if s.fits (s.costOf ps) then (s.admitBurst b ps 10000, p.2) else (s, p.2 && b.cls != .pop)

/-- A phase whose channels are admitted in one more run counts it; the second is a derating event (R96, R98, R123). -/
def State.countRun (s before : State) : State :=
  let more := s.lf.flight.any fun b =>
    b.cls == .pop && b.addressed.isNone && !(before.lf.flight.any fun x => x.id == b.id)
  if more then
    let first : Bool := (s.pop.running.map fun k => !k.started).getD false
    let s1 := (s.modCheck fun k =>
      { k with
        curRuns := satAdd 255 k.curRuns 1, runs := max k.runs (satAdd 255 k.curRuns 1)
        started := true, startNs := if k.started then k.startNs else s.now }).modPop fun p =>
      { p with lastStart := if first then some s.now else p.lastStart }
    if ((s1.pop.running.map (·.curRuns)).getD 0) = 2 then s1.derateEvent else s1
  else s

/-- Every waiting request is considered in the order of R92; a new VLF applies first where no field burst is in flight (R70). -/
def State.considerAll (s : State) : State :=
  let w := s.settleVlf.considerWake
  if !w.2 then w.1
  else
    let pops := w.1.lf.waiting.filter fun b => b.cls == .pop
    let diags := w.1.lf.waiting.filter fun b => b.cls == .diag
    let r := (pops ++ diags).foldl State.considerOne (w.1, true)
    r.1.countRun w.1

/-- A request takes its place (R92). -/
def State.putRequest (b : Burst) (s : State) : State :=
  (s.modLf fun x =>
    { x with nextId := x.nextId + 1, waiting := x.waiting ++ [{ b with id := x.nextId, reqNs := s.now }] }).wakeSource 0x0D

/-- A waiting wake request that names the same phasing sets and the same wake code as a new one of configuration k (R93). -/
def State.sameWake (s : State) (k : Nat) (b : Burst) : Bool :=
  b.cls == .wake && b.sets == s.wakeSets k && s.cfgN recWake (fieldNo b.config 2) == s.cfgN recWake (fieldNo k 2)

/-- A request merged into a waiting one (R93): both requesters share its burst. -/
def Burst.join (b q : Burst) : Burst :=
  { b with
    mbs := b.mbs ++ q.mbs, followUps := max b.followUps q.followUps, chain := b.chain.or q.chain
    shared := b.shared || q.shared || b.addressed.isNone != q.addressed.isNone
    addressed := b.addressed.or q.addressed
    also := (b.also ++ q.also ++ if b.addressed.isSome then q.addressed.toList else []).eraseDups }

/-- A key wake is requested, or merged into one that waits (R92, R93). -/
def State.wakeRequest (q : Burst) (s : State) : State :=
  if s.lf.waiting.any (s.sameWake q.config) then
    s.modLf fun x => { x with waiting := x.waiting.map fun b => if s.sameWake q.config b then b.join q else b }
  else s.putRequest { q with cls := .wake, parts := s.wakeParts q.config, sets := s.wakeSets q.config }

/-- A key wake of configuration k is requested (R92, R93, R165). -/
def State.requestWake (k : Nat) (mbs : List Nat) (addressed : Option Nat) (s : State) : State :=
  s.wakeRequest { config := k, mbs := mbs, addressed := addressed }

/-- A resonance measurement of a channel is requested (R75, R97). -/
def State.requestMeasure (c : Nat) (s : State) : State :=
  if s.lf.waiting.any fun b => b.measure && b.chans == [c] then s
  else s.putRequest { cls := .diag, parts := [[(c, if c < 16 then 200 else 50)]] }

/-- Diagnostics of every enabled channel are requested (R78). -/
def State.requestDiagnostics (s : State) : State :=
  let cs := (List.range 64).filter s.lfEnabled
  cs.foldl (fun t c => t.requestMeasure c)
    (s.modLf fun x => { x with diagDue := s.now, diagLeft := BitVec.ofNat 64 (maskOf cs), diagDone := x.diagDone || cs.isEmpty })

/-! ### The budget (R90, R99, R470) -/

/-- The class power of a feed in mW (R470). -/
def State.feedPower (s : State) (f : Feed) : Nat :=
  match f.cls with
  | some c => min (Config.classPower c) (100 * s.cfgN recNetwork (fieldNo 6 6))
  | none => 0

/-- P_avail in mW (R90): the smaller class power of the feeds that deliver. -/
def State.availPower (s : State) : Nat :=
  match (s.power.feeds.filter (·.delivering)).map s.feedPower with
  | [] => 0
  | p :: ps => ps.foldl min p

/-- P_LF from P_avail and P_rest (R90). -/
def budgetOf (avail rest : Nat) : Nat := min (avail - rest - 1000) 14000

/-- The key-wake burst in flight is scaled to what is left, or stopped when even half does not fit (R99). -/
def State.squeezeWake (s : State) : State :=
  match s.lf.flight.find? fun b => b.cls == .wake with
  | some w =>
    if s.committed ≤ costUnits s.lf.pLf then s
    else
      let others := s.committed - s.costOf w.scaled
      let ps := s.targets w
      let free := costUnits s.lf.pLf - others
      if others ≤ costUnits s.lf.pLf ∧ s.halfFits ps free = true then
        let ap := s.scaleParts ps free
        let sc := scaleOf ps ap
        ((s.modLf fun x =>
            { x with flight := x.flight.map fun b => if b.id = w.id then { b with scaled := ap, scale := sc } else b }).modSess
          fun x => { x with cur := x.cur.map fun r => { r with scale := sc, minScale := min r.minScale sc } }).derateEvent
      else s.stopBurst w
  | none => s

/-- P_LF has fallen below the committed load (R99). -/
def State.squeeze (s : State) : State :=
  (s.freeBudget fun t => decide (t.committed ≤ costUnits t.lf.pLf)).squeezeWake

/-- The budget is recomputed, bursts in flight are held to it, and waiting requests are considered (R90, R92, R98, R99). -/
def State.rebudget (s : State) : State :=
  let a := s.availPower
  (s.modLf fun x =>
    { x with
      pAvail := a, pLf := budgetOf a x.pRest
      derateLogged := x.derateLogged && a == x.pAvail }).squeeze.considerAll

/-- The device's input power without the LF converters, in mW, from measured output powers (R90, R478); eta_int is in hundredths. -/
def State.restPower (s : State) (pVint pLft : Nat) : Nat := ceilDiv (100 * (pVint - pLft)) (s.cfgN recNetwork (fieldNo 6 7))

/-- The LF converters' input power in mW, times both efficiencies in hundredths (R478). -/
def State.lfDraw (s : State) (pVlf pLft : Nat) : Nat :=
  100 * (pVlf * s.cfgN recNetwork (fieldNo 6 7) + pLft * s.cfgN recNetwork (fieldNo 6 8))

/-- The largest 1 ms average of the last 100 ms; until 100 ms have been measured after a reset, 5.0 W at least (R90). -/
def State.restNow (s : State) (rest : Nat) : Nat :=
  let log := s.lf.restLog.filter fun p => decide (s.now ≤ p.1 + 100000000)
  let top := log.foldl (fun m p => max m p.2) rest
  if s.now < s.boot.releaseNs + 100000000 then max 5000 top else top

/-- The meaning of LF_BUDGET_RECOMPUTE (R90, R478): the power measured over the last 1 ms; the bus in mV; and the channels whose
bridge sensor reads above 130 °C or below 120 °C (R78). -/
def doLfBudgetRecompute (pVint pLft bus : Nat) (hot cool : BitVec 64) (s : State) : State :=
  let rest := s.restPower pVint pLft
  ((s.modLf fun x =>
    { x with
      pRest := s.restNow rest, hot := (x.hot &&& ~~~cool) ||| hot
      restLog := (x.restLog.filter fun p => decide (s.now ≤ p.1 + 100000000)) ++ [(s.now, rest)] }).modPower fun p =>
    { p with bus := bus }).rebudget

/-- LF_BUDGET_RECOMPUTE. -/
def execLfBudgetRecompute (pVint pLft bus : Nat) (hot cool : BitVec 64) (s : State) : Host.Outcome State Fault Refusal :=
  .next (doLfBudgetRecompute pVint pLft bus hot cool s)

/-- The meaning of LF_OVERDRAW (R100, R478): with the converters' input power more than 10 % above P_LF, the lowest-priority
burst in flight is stopped and deferred, and the step is entered in the health log. -/
def doLfOverdraw (pVlf pLft : Nat) (s : State) : State :=
  if 11 * s.lf.pLf * (s.cfgN recNetwork (fieldNo 6 7) * s.cfgN recNetwork (fieldNo 6 8)) < 10 * s.lfDraw pVlf pLft then
    let wakes := s.lf.flight.filter fun b => b.cls == .wake
    match s.diagsInFlight ++ s.popsInFlight ++ wakes with
    | b :: _ => (s.stopBurst b).healthFree 0x0080 0 7
    | [] => s
  else s

/-- LF_OVERDRAW. -/
def execLfOverdraw (pVlf pLft : Nat) (s : State) : Host.Outcome State Fault Refusal := .next (doLfOverdraw pVlf pLft s)

end Sys2Proof.Machine
end

