-- ==== Sys2Proof/Machine/Population.lean ====
section
/-!
DEFINITION. Module transponders: the population check, its passes and outcomes, the population record and its policy
(04_module_transponders), and the addressed exchange of a module's enrolment (R52).
-/
namespace Sys2Proof.Machine

/-! ### Frames (R110, R111, R113) -/

/-- The payload of an uplink frame whose Manchester code and CRC are right (R110, R113). -/
def uplinkPayload (frame : Option (Nat × Nat)) : Option Nat :=
  match frame with
  | some (p, crc) => if crc8 (msbBits 64 p) = crc then some p else none
  | none => none

/-! ### Phases (R88) -/

/-- A time phase for each transponder channel in channel order: the lowest that no lower-numbered coupled channel has taken (R88),
under a matrix. DESIGN CHOICE: a disabled channel takes part like an enabled one (log 74). -/
def assignPhases (couples : Nat → Nat → Bool) : List Nat :=
  (List.range 48).foldl (fun acc i =>
    let taken := (List.range i).filterMap fun j => if couples (16 + i) (16 + j) then acc[j]? else none
    acc ++ [((List.range 48).find? fun p => !taken.contains p).getD 0]) []

/-- The time phases in force (R88): the image's where it carries one for every enabled channel. -/
def State.coilPhases (s : State) : List Nat :=
  let carried := (List.range 48).all fun i => !s.lfEnabled (16 + i) || (s.cfg? recCoupling (fieldNo 1 (i + 1))).isSome
  let any := (List.range 48).any fun i => (s.cfg? recCoupling (fieldNo 1 (i + 1))).isSome
  if carried && any then (List.range 48).map fun i => s.cfgN recCoupling (fieldNo 1 (i + 1)) else assignPhases s.couples

/-! ### Entries (R118, R119, R124) -/


/-- A coil is sent to the retry pass (R118): 1 after a MISMATCH, 2 after no answer or a frame error, 3 with no home module. -/
def State.setRetry (i why : Nat) (s : State) : State := s.modCoil i fun x => { x with stage := 5, why := why }

/-- The coil or its home identity is locked out (R61, R118): what keeps it from the routine pass. -/
def State.coilLocked (s : State) (i : Nat) : Bool :=
  s.attachLocked (0x10 + i) || match s.homeModule i with
    | some r => s.identityLocked r.identity
    | none => false

/-- The counts a check reads at a coil's admission are evaluated (R63). -/
def State.evalCoil (i : Nat) (s : State) : State :=
  let s1 := s.evalAttach (0x10 + i)
  match s1.homeModule i with
  | some r => s1.evalIdentity r.identity
  | none => s1

/-! ### Phases and passes (R89, R117 to R119) -/

/-- The running check's pass; 0 with none. -/
def State.checkPass (s : State) : Nat := (s.pop.running.map (·.pass)).getD 0

/-- The coil runs in the present pass of the check. -/
def PopCheck.runs? (k : PopCheck) (i : Nat) : Bool :=
  let c := k.coils.getD i {}
  if k.pass = 0 then c.entry.isNone
  else if k.pass = 1 then decide (c.why ≠ 0) && c.entry.isNone
  else k.further.contains i

/-- A coil's exchange is requested at pop_current (R96). -/
def State.requestCoil (i phase : Nat) (s : State) : State :=
  s.putRequest { cls := .pop, parts := [[(16 + i, 5 * s.cfgN recPopulation 8)]], phase := phase }

/-- A coil runs in a retry pass: it is counted the first time (R123). -/
def State.retryCoil (i : Nat) (s : State) : State :=
  let n := if (s.coil i).again then 0 else 1
  (s.modCheck fun k => { k with retried := k.retried + n }).modCoil i fun x => { x with again := true }

/-- A coil at the start of its phase (R101, R118, R119, R129): settled without an exchange, or its exchange requested. A home
identity that is locked out keeps it from the routine pass alone: a resolution's IDENT addresses no identity. -/
def State.startCoil (phase i : Nat) (s0 : State) : State :=
  let s := (s0.evalCoil i).modCheck fun k => { k with further := k.further.erase i }
  if !s.lfEnabled (16 + i) then s.setEntry i 0x0A none
  else if (s.lfChan (16 + i)).excluded then s.setEntry i 0x07 none
  else if (if s.checkPass = 0 then s.coilLocked i else s.attachLocked (0x10 + i)) then s.setEntry i 0x08 none
  else
    let s1 := if s.checkPass = 0 then s else s.retryCoil i
    (s1.modCoil i fun x => { x with stage := 0 }).requestCoil i phase

/-- The coils of a phase that run in the present pass start (R89). -/
def State.startPhase (phase : Nat) (s : State) : State :=
  match s.pop.running with
  | some k =>
    let cs := (List.range 48).filter fun i => k.phases.getD i 0 == phase && k.runs? i
    cs.foldl (fun t i => t.startCoil phase i) (s.modCheck fun k => { k with phase := phase, curRuns := 0 })
  | none => s

/-- An exchange of the present phase has not finished (R89). -/
def State.phaseBusy (s : State) : Bool :=
  s.lf.waiting.any (fun b => b.cls == .pop && b.addressed.isNone) ||
    s.lf.flight.any fun b => b.cls == .pop && b.addressed.isNone

/-- A coil still owes an exchange in a retry pass (R118, R129). -/
def PopCheck.owes (k : PopCheck) : Bool :=
  if k.pass = 0 then k.coils.any fun c => c.why != 0 && c.entry.isNone else !k.further.isEmpty

/-- The next phase of the pass, or the first of the next pass, is started until one has an exchange to run; true when the
check has nothing left (R89, R117). The number bounds the phases looked at. -/
def State.nextPhase : Nat → State → State × Bool
  | 0, s => (s, true)
  | n + 1, s =>
    if s.phaseBusy then (s, false)
    else
      match s.pop.running with
      | none => (s, false)
      | some k =>
        if k.phase < 3 then (s.startPhase (k.phase + 1)).nextPhase n
        else if k.owes then ((s.modCheck fun x => { x with pass := min 2 (x.pass + 1) }).startPhase 0).nextPhase n
        else (s, true)

/-! ### The record and what a completed check changes (R120, R121, R123, R125, R126) -/

/-- The number of coils with an entry. -/
def countEntry (es : List Nat) (codes : List Nat) : Nat := (es.filter codes.contains).length

/-- The module records that R121 and n_missing look at. -/
def State.moduleRecs (s : State) : List PartRec :=
  (s.parts.table.filter fun p => p.2.kind == 2 && (p.2.state == .enrolled || p.2.state == .absent)).map (·.2)

/-- The verdict of R126. -/
def State.verdict (s : State) (failed missing misplaced foreign fault : Nat) : Nat :=
  bit (decide (0 < failed)) + 2 * bit (decide (s.cfgN recPopulation 1 < missing)) +
    4 * bit (decide (s.cfgN recPopulation 2 < misplaced)) + 8 * bit (decide (s.cfgN recPopulation 3 < foreign)) +
    16 * bit (decide (s.cfgN recPopulation 4 < fault))

/-- The population record of a check that has nothing left (R123). -/
def State.popRecord (s : State) (k : PopCheck) : PopRec :=
  let es := k.coils.map fun c => c.entry.getD 0x0A
  let notes := (List.range 48).filterMap fun i =>
    let c := k.coils.getD i {}
    if [3, 4, 5].contains (c.entry.getD 0) then some (i, c.note.getD 0) else none
  let missing := (s.moduleRecs.filter fun r => !k.verified.contains r.identity).length
  let failed := countEntry es [5]
  let misplaced := countEntry es [3]
  let foreign := countEntry es [4]
  let fault := countEntry es [6, 7, 8, 0x0B]
  { locked := (List.range 48).filterMap fun i =>
      let c := k.coils.getD i {}
      if c.entry = some 8 then some (i, c.lockedId.getD 0) else none
    checkSeq := s.pop.checkSeq, epoch := s.tbu.epoch, startNs := k.startNs, endNs := s.now, unc := s.unc
    verdict := s.verdict failed missing misplaced foreign fault
    runs := k.runs, retried := k.retried, restarts := k.restarts
    nVerified := countEntry es [0], nMissing := min missing 255, nMisplaced := misplaced, nForeign := foreign
    nFailed := failed, nFault := fault, notesLost := notes.length - 8, entries := es, notes := notes.take 8 }

/-- The 160 bytes of a population record (R123). -/
def PopRec.bytes (r : PopRec) : List Byte :=
  leBytes 4 r.checkSeq ++ leBytes 4 r.epoch ++ leBytes 8 r.startNs ++ leBytes 8 r.endNs ++ leBytes 4 r.unc ++
    leBytes 1 r.verdict ++ leBytes 1 r.runs ++ leBytes 1 r.retried ++ leBytes 1 r.restarts ++ leBytes 1 r.nVerified ++
    leBytes 1 r.nMissing ++ leBytes 1 r.nMisplaced ++ leBytes 1 r.nForeign ++ leBytes 1 r.nFailed ++ leBytes 1 r.nFault ++
    leBytes 1 r.notesLost ++ leBytes 1 r.notes.length ++ fit 48 (r.entries.flatMap (leBytes 1)) ++
    fit 72 (r.notes.flatMap fun n => leBytes 1 n.1 ++ leBytes 8 n.2)

/-- One module record after a completed check (R51, R121, R571). DESIGN CHOICE (log 67): a module verified in one check both on
its home coil and on another has misplaced set, where R121 both sets and clears it. -/
def State.updateModule (k : PopCheck) (ident : Nat) (s : State) : State :=
  if k.verified.contains ident then
    let s1 := s.verifiedExchange ident
    match k.misplacedAt.find? fun p => p.1 == ident with
    | some (_, i) =>
      let s2 := s1.updateRec ident fun r => { r with misplaced := true }
      match s2.rec? ident with
      | some r => s2.partnerEntry 0x11 ident (partCode r.state) r.role r.flags (0x10 + i) r.failCount
      | none => s2
    | none =>
      match s1.rec? ident with
      | some r => if r.misplaced then s1.updateRec ident fun x => { x with misplaced := false } else s1
      | none => s1
  else s.missedCheck ident

/-- The population-change entry of R125 and R315. -/
def State.popEntry (r : PopRec) (s : State) : State :=
  (s.ledgerAdd 0x50 r.verdict (leBytes 4 r.checkSeq ++ leBytes 1 r.nVerified ++ leBytes 1 r.nMissing ++
    leBytes 1 r.nMisplaced ++ leBytes 1 r.nForeign ++ leBytes 1 r.nFailed)).raise 3 3

/-- A check begins (R118, R123, R128): its first phase with an exchange is started. -/
def State.beginCheck (mbs : List Nat) (s : State) : State × Bool :=
  let s1 := s.modPop fun p =>
    { p with
      checkSeq := p.checkSeq + 1, wanted := false, wantMbs := [], lastStart := none
      running := some { startNs := s.now, mbs := mbs, phases := s.coilPhases } }
  (s1.startPhase 0).nextPhase 8

/-- The identity or the attachment point of an enrolment is in lockout, once their counts are evaluated (R52, R61, R63). -/
def State.enrolLocked (e : Enrolment) (s : State) : Bool × State :=
  let s1 := (s.evalAttach e.attach).evalIdentity e.identity
  (s1.attachLocked e.attach || s1.identityLocked e.identity, s1)

/-- An enrolment ends with a status. -/
def State.endEnrol (e : Enrolment) (status : Nat) (s : State) : State :=
  (s.modParts fun p => { p with enrol := none }).conclude e.mb status []

/-- A module's enrolment exchange, of which there is one, is requested once no check runs (R52, R129). -/
def State.requestEnrolCoil (s : State) : State :=
  match s.parts.enrol with
  | some e =>
    if roleKind e.role = 2 ∧ e.stage = 0 ∧ s.pop.running = none then
      let q := s.enrolLocked e
      if q.1 then q.2.endEnrol e Status.lockedOut
      else
        (q.2.modParts fun p => { p with enrol := some { e with stage := 1 } }).putRequest
          { cls := .pop, parts := [[(16 + (e.attach - 0x10), 5 * s.cfgN recPopulation 8)]], addressed := some e.identity }
    else s
  | none => s

/-- A completed check (R121, R123, R125, R128, R129): its record is issued and its commands posted; the updates of R121 are
made; an enrolment's exchange waiting for its end is requested. -/
def State.finishCheck (s : State) : State :=
  match s.pop.running with
  | some k =>
    let r := s.popRecord k
    let changed : Bool := match s.pop.latest with
      | some o => o.entries != r.entries || o.notes.map (·.2) != r.notes.map (·.2)
      | none => true
    let s1 := (s.moduleRecs.map (·.identity)).foldl (fun t i => t.updateModule k i) s
    let s2 := (s1.modPop fun p =>
      { p with running := none, latest := some r, lastStart := p.lastStart.or (some k.startNs) }).raise 3 2
    let s3 := if changed then s2.popEntry r else s2
    let status := if 1 < r.runs then Status.derated else Status.ok
    (k.mbs.foldl (fun t mb => t.conclude mb status r.bytes) s3).requestEnrolCoil
  | none => s

/-- A check that has nothing left completes, and one further check requested meanwhile begins (R128). -/
def State.settleCheck (p : State × Bool) : State :=
  if p.2 then
    let s1 := p.1.finishCheck
    if s1.pop.wanted then
      let q := s1.beginCheck s1.pop.wantMbs
      (if q.2 then q.1.finishCheck else q.1).considerAll
    else s1.considerAll
  else p.1.considerAll

/-- A check is requested (R128): at once, or as one further check while one runs, or once diagnostics have completed after a
reset and PD12 is powered. -/
def State.requestCheck (mbs : List Nat) (s : State) : State :=
  if s.pop.running.isSome || !s.lf.diagDone || !s.pdOn 12 || !s.rolesRun then
    s.modPop fun p => { p with wanted := true, wantMbs := p.wantMbs ++ mbs }
  else State.settleCheck (s.beginCheck (s.pop.wantMbs ++ mbs))

/-- A check that was waiting to begin begins (R128). -/
def State.serveWanted (s : State) : State :=
  if s.pop.wanted && s.pop.running.isNone && s.lf.diagDone && s.pdOn 12 && s.rolesRun then
    State.settleCheck (s.beginCheck s.pop.wantMbs)
  else s

/-- The meaning of POPULATION_PHASE_END (R89) short of the grant that may follow. -/
def doPopulationPhaseEnd (s : State) : State :=
  if s.pop.running.isSome && !s.phaseBusy then State.settleCheck (s.nextPhase 12) else s

/-- The meaning of POPULATION_CHECK_DUE (R128). -/
def doPopulationCheckDue (s : State) : State :=
  let due := match s.pop.lastStart with
    | some t => decide (t + s.cfgN recPopulation 7 * 1000000000 ≤ s.now)
    | none => false
  if due then s.requestCheck [] else s

/-- POPULATION_CHECK_DUE. -/
def execPopulationCheckDue (s : State) : Host.Outcome State Fault Refusal := .next (doPopulationCheckDue s)

/-- What gave a LOCKED_OUT entry is still in lockout: the coil or its home identity, or the identity read. -/
def State.stillLocked (s : State) (q : Nat × Nat) : Bool := if q.2 = 0 then s.coilLocked q.1 else s.identityLocked q.2

/-- The meaning of LOCKOUT_END (R128): no coil or identity whose lockout gave a LOCKED_OUT entry of the latest record is still
locked out. -/
def doLockoutEnd (s : State) : State :=
  match s.pop.latest with
  | some r => if !r.locked.isEmpty && r.locked.all (fun q => !s.stillLocked q) then s.requestCheck [] else s
  | none => s

/-- LOCKOUT_END. -/
def execLockoutEnd (s : State) : Host.Outcome State Fault Refusal := .next (doLockoutEnd s)

/-! ### Outcomes of exchanges (R113, R118 to R120) -/

/-- A passed transponder challenge (R62, R121). -/
def State.passCheck (i ident : Nat) (s : State) : State :=
  (s.updateRec ident fun r => { r with failCount := 0 }).modCheck fun k =>
    { k with
      verified := if k.verified.contains ident then k.verified else k.verified ++ [ident]
      misplacedAt := if ((s.homeModule i).map (·.identity)) = some ident then k.misplacedAt else k.misplacedAt ++ [(ident, i)] }

/-- A FAILED entry counts one failure against the identity the CHECK was keyed for and the coil (R120, R572). -/
def State.failCoil (i ident : Nat) (s : State) : State := (s.countFailure 2 5 ident (some (0x10 + i))).setEntry i 5 (some ident)

/-- An absent module is replaced by a candidate that verified on its home coil (R54). -/
def State.replaceModule (i ident : Nat) (s : State) : State :=
  let s1 := match s.homeModule i with
    | some r => s.removeRec r.identity
    | none => s
  (s1.enrolPartner ident (s1.enrolDefaults 0x20 (0x10 + i))).windowUse

/-- The outcome of a resolution's CHECK (R119): some true MATCH, some false MISMATCH, none another outcome. A window that has
enrolled eight partners meanwhile enrols no further one (R54). -/
def State.resolved (i : Nat) (m : Option Bool) (s : State) : State :=
  let c := s.coil i
  let home := ((s.homeModule i).map (·.identity)) == some c.target
  match m with
  | some true =>
    if c.enrolling then
      if s.parts.windowUsed < 8 then ((s.replaceModule i c.target).passCheck i c.target).setEntry i 0 none
      else (s.updateRec c.target fun r => { r with failCount := 0 }).setEntry i 4 (some c.target)
    else if home then (s.passCheck i c.target).setEntry i 0 none
    else (s.passCheck i c.target).setEntry i 3 (some c.target)
  | some false => s.failCoil i c.target
  | none => if c.enrolling then s.setEntry i 4 (some c.target) else s.setEntry i 6 none

/-- The home module of a coil is absent, so that a window may replace it (R54, R119). -/
def State.absentHome (s : State) (i : Nat) : Bool :=
  match s.homeModule i with
  | some r => r.state == .absent
  | none => false

/-- An unknown identity or a candidate module: FOREIGN, or a CHECK with the enrolment defaults within a window on the home coil
of an absent module (R54, R119); true when the exchange has ended. -/
def State.foreign (i ident : Nat) (s : State) : State × Bool :=
  let s1 := s.metIdentity 2 (0x10 + i) ident
  if s.windowOpen && s.absentHome i then
    ((s1.modCoil i fun x => { x with enrolling := true }).startCheck i ident (s.cfgN recPartners 4) 0 4, false)
  else (s1.setEntry i 4 (some ident), true)

/-- The identity a resolution read on a coil is classified (R119); false where a CHECK follows in the burst. -/
def State.classify (i ident : Nat) (s : State) : State × Bool :=
  let c := s.coil i
  if !validIdentity ident then (s.setEntry i 6 none, true)
  else if s.identityLocked ident then ((s.setEntry i 8 none).modCoil i fun x => { x with lockedId := some ident }, true)
  else
    match s.rec? ident with
    | some r =>
      if r.kind = 2 ∧ (r.state = .enrolled ∨ r.state = .absent) then
        if r.attach = 0x10 + i ∧ c.why = 1 then (s.failCoil i ident, true)
        else ((s.modCoil i fun x => { x with enrolling := false }).startCheck i ident r.slot r.keyEpoch 4, false)
      else if r.kind ≠ 2 ∧ r.state ≠ .free then (s.setEntry i 4 (some ident), true)
      else s.foreign i ident
    | none => s.foreign i ident

/-- A decoded payload on a coil in its present stage (R113, R115, R118, R119); true when the exchange has ended. -/
def State.coilAnswer (i p : Nat) (s : State) : State × Bool :=
  let c := s.coil i
  let m := c.expected.map fun e => beNat e == p
  if c.stage = 1 then
    match m with
    | none => (s.setEntry i 0x0B none, true)
    | some true => ((s.passCheck i c.target).setEntry i 0 none, true)
    | some false => (s.setRetry i 1, true)
  else if c.stage = 2 then (s.setRetry i 3, true)
  else if c.stage = 3 then s.classify i p
  else
    match m with
    | none => (s.setEntry i 0x0B none, true)
    | some b => (s.resolved i (some b), true)

/-- A CHECK on the coil has no key (R115). -/
def Coil.keyless (c : Coil) : Bool := (c.stage == 1 || c.stage == 4) && c.expected.isNone

/-- A frame error on a coil (R113, R115, R118, R119). -/
def State.coilError (i : Nat) (s : State) : State :=
  let c := s.coil i
  if c.keyless then s.setEntry i 0x0B none
  else if c.stage = 1 ∨ c.stage = 2 then s.setRetry i 2
  else if c.stage = 3 then s.setEntry i 6 none
  else s.resolved i none

/-- No answer on a coil (R108, R115, R118, R119). -/
def State.coilSilent (i : Nat) (s : State) : State :=
  let c := s.coil i
  if c.keyless then s.setEntry i 0x0B none
  else if c.stage = 1 then s.setRetry i 2
  else if c.stage = 2 then s.setEntry i 9 none
  else if c.stage = 3 then
    match s.homeModule i with
    | some r => s.setEntry i (if r.state = .absent then 2 else 1) none
    | none => s.setEntry i 9 none
  else s.resolved i none

/-- The burst in flight on a coil. -/
def State.coilBurst (s : State) (i : Nat) : Option Burst := s.lf.flight.find? fun b => b.cls == .pop && b.coil == i

/-! ### part.enrol for a module (R52) -/

/-- An enrolment's exchange has verified: the record is enrolled and the command posts it (R52), unless its limit has
passed (R434). -/
def State.enrolVerified (s : State) : State :=
  match s.parts.enrol with
  | some e =>
    if (s.box e.mb).limit < s.now then (s.modParts fun p => { p with enrol := none }).conclude e.mb Status.deadlineMissed []
    else
    let s1 := s.enrolPartner e.identity
      { role := e.role, slot := e.slot, zones := e.zones, releaseOk := e.releaseOk, attach := e.attach }
    let body := ((s1.rec? e.identity).map PartRec.bytes).getD (zeros 64)
    (s1.modParts fun p => { p with enrol := none }).conclude e.mb Status.ok body
  | none => s

/-- An answer in a module's enrolment exchange (R52, R57): a match enrols; a mismatch is a counted failure. -/
def State.enrolAnswer (p : Option Nat) (s : State) : State :=
  match s.parts.enrol, p with
  | some e, some v =>
    match e.expected with
    | some x =>
      if beNat x = v then s.enrolVerified else s.countFailure 2 5 e.identity (some e.attach)
    | none => s
  | _, _ => s

/-- The meaning of UPLINK_FRAME (R113): the frame, none with a Manchester violation, reaches the exchange on its coil. -/
def doUplinkFrame (coil : Nat) (frame : Option (Nat × Nat)) (s : State) : State :=
  match s.coilBurst coil with
  | some b =>
    if b.addressed.isSome then ((s.enrolAnswer (uplinkPayload frame)).endCoilBurst coil).considerAll
    else
      match uplinkPayload frame with
      | some p =>
        let r := s.coilAnswer coil p
        if r.2 then (r.1.endCoilBurst coil).considerAll else r.1
      | none => ((s.coilError coil).endCoilBurst coil).considerAll
  | none => s

/-- UPLINK_FRAME. -/
def execUplinkFrame (coil : Nat) (frame : Option (Nat × Nat)) (s : State) : Host.Outcome State Fault Refusal :=
  .next (doUplinkFrame coil frame s)

/-- The meaning of NO_ANSWER (R108). -/
def doNoAnswer (coil : Nat) (s : State) : State :=
  match s.coilBurst coil with
  | some b =>
    if b.addressed.isSome then (s.endCoilBurst coil).considerAll
    else ((s.coilSilent coil).endCoilBurst coil).considerAll
  | none => s

/-- NO_ANSWER. -/
def execNoAnswer (coil : Nat) (s : State) : Host.Outcome State Fault Refusal := .next (doNoAnswer coil s)

/-- A host command has changed a module record while a check runs (R129): an exchange keyed for it stops, uncounted, and its
coil takes a resolution in the retry pass, or in a further one when the retry pass is under way. -/
def State.moduleChanged (ident : Nat) (s : State) : State :=
  match s.pop.running with
  | some k =>
    let hit := (List.range 48).filter fun i =>
      let c := k.coils.getD i {}
      (c.stage == 1 || c.stage == 4) && c.target == ident && (s.coilBurst i).isSome
    (hit.foldl (fun t i =>
      ((t.endCoilBurst i).modCoil i fun x => { x with stage := 5, why := 2, entry := none }).modCheck fun k =>
        if k.pass = 0 then k else { k with further := k.further ++ [i] }) s).considerAll
  | none => s

/-! ### Policy (R127) and the lf commands on checks -/

/-- Population within policy (R127). -/
def State.popWithinPolicy (s : State) : Bool :=
  match s.pop.latest with
  | some r =>
    r.verdict == 0 && r.epoch == s.tbu.epoch && decide (s.now - r.endNs ≤ s.cfgN recPopulation 5 * 1000000000) &&
      decide (r.unc ≤ s.cfgN recPopulation 6)
  | none => false

/-- lf.population is refused before the first check after a reset completes. -/
def preLfPopulation (s : State) (_ : Mailbox) : Option Nat := refuseIf s.pop.latest.isNone Status.invalid

/-- LF_POPULATION (R123). -/
def execLfPopulation (mb : Nat) (s : State) : Host.Outcome State Fault Refusal :=
  .next (s.perform mb 0x0605 (checked (fun _ => true) preLfPopulation)
    (fun _ t => t.post mb Status.ok ((t.pop.latest.map PopRec.bytes).getD [])))

/-- LF_POPCHECK (R128). -/
def execLfPopcheck (mb : Nat) (s : State) : Host.Outcome State Fault Refusal :=
  .next (s.perform mb 0x0606 (checked (fun _ => true) noPre) (fun _ t => (t.wait mb).requestCheck [mb]))

end Sys2Proof.Machine
end

