-- ==== Sys2Proof/Machine/LfCommands.lean ====
section
/-!
DEFINITION. Burst requests and ends, trips, resonance measurements, coil diagnostics, and the commands lf.status, lf.diag,
lf.tune and lf.phase (03_lf_field_array, R452).
-/
namespace Sys2Proof.Machine


/-- The meaning of BURST_REQUEST (R92): class 1 a key wake of configuration `what`, class 2 a population check (R128), class 3
a resonance measurement of channel `what`; considered at once. -/
def doBurstRequest (cls what : Nat) (s : State) : State :=
  if cls = 1 then (if what < 8 && s.cfgB recWake (fieldNo what 1) then (s.requestWake what [] none).considerAll else s)
  else if cls = 2 then s.requestCheck []
  else if cls = 3 then (if what < 64 && s.lfEnabled what then (s.requestMeasure what).considerAll else s)
  else s

/-- BURST_REQUEST. -/
def execBurstRequest (cls what : Nat) (s : State) : Host.Outcome State Fault Refusal := .next (doBurstRequest cls what s)

/-- The result of lf.phase: the set's channels, and the current and phase it asks for on LFF0 to LFF15. -/
def State.phaseBody (s : State) (p : Nat) : List Byte :=
  let cur := fun (c : Nat) => 20 * s.cfgN recFieldMap (fieldNo p (c + 1))
  let mask := maskOf ((List.range 16).filter fun c => cur c != 0)
  leBytes 2 mask ++ zeros 6 ++ (List.range 16).flatMap fun c =>
    leBytes 2 (cur c) ++ leBytes 2 (if cur c = 0 then 0 else 225 * s.cfgN recFieldMap (fieldNo p (c + 17)))

/-- The least time a burst lasts, in ns: 10.24 ms for a wake (R166), the asked duration for lf.phase. -/
def State.burstNs (s : State) (b : Burst) : Nat :=
  match b.cls, b.mbs with
  | .wake, _ => 10240000
  | .diag, n :: _ => uAt (s.box n).payload 2 2 * 1000000
  | _, _ => 0

/-- A channel in which no current flowed in a burst is OPEN and excluded (R78). -/
def State.noCurrent (c : Nat) (s : State) : State := s.setCond c ((s.lfChan c).cond ||| 0x201)

/-- A population exchange in whose burst no current flowed (R78, R79): its channel is OPEN and excluded, and its coil is settled
as COIL_FAULT; an enrolment's exchange ends without an answer. -/
def State.silentCoil (b : Burst) (s : State) : State :=
  let s1 := s.noCurrent (16 + b.coil)
  ((if b.addressed.isSome then s1 else s1.setEntry b.coil 7 none).endCoilBurst b.coil).considerAll

/-- The meaning of BURST_END (R92): a wake or an lf.phase burst ends, its cost is released and waiting requests are considered;
`silent` marks channels in which no current flowed. A measurement ends with its own outcome, and so does a population exchange
in which current flowed. -/
def doBurstEnd (id : Nat) (silent : BitVec 64) (s : State) : State :=
  match s.lf.flight.find? fun b => b.id == id && (b.cls == .wake || b.test.isSome) with
  | some b =>
    if s.now < b.startNs + s.burstNs b then s
    else
      let cs := b.chans.eraseDups.filter fun c => silent.getLsbD c
      let s1 := cs.foldl (fun t c => t.noCurrent c)
        (s.modLf fun x => { x with flight := x.flight.filter fun y => y.id != id })
      let s2 := match b.test with
        | some p => b.mbs.foldl (fun (t : State) n => t.conclude n Status.ok (s.phaseBody p)) s1
        | none => s1
      s2.considerAll
  | none =>
    match s.lf.flight.find? fun b => b.id == id && b.cls == .pop && silent.getLsbD (16 + b.coil) with
    | some b => s.silentCoil b
    | none => s

/-- BURST_END. -/
def execBurstEnd (id : Nat) (silent : BitVec 64) (s : State) : Host.Outcome State Fault Refusal := .next (doBurstEnd id silent s)

/-- Which positions of a wake count as sent once channels have tripped (R84, R101, R167): position n, sent from 7.680 + 0.320 n
ms after the burst's start for 256 µs, stands as it was once that time has passed. -/
def sentParts (ps : List (List (Nat × Nat))) (tripped : List Nat) (sent : List Bool) (elapsed : Nat) : List Bool :=
  (List.range (ps.length - 1)).map fun n =>
    if 7936000 + 320000 * n ≤ elapsed then sent.getD n false
    else ((ps.drop 1).getD n []).any fun q => !tripped.contains q.1

/-- The meaning of OVERCURRENT_TRIP (R73, R78, R101, R118): the channel is off for the rest of its burst, a third trip within
60 s excludes it, and it is measured; an exchange on it is deferred whole, or settled as COIL_FAULT. -/
def doOvercurrentTrip (c : Nat) (s : State) : State :=
  match s.lf.flight.find? fun b => b.chans.contains c && !b.tripped.contains c with
  | some b =>
    let ts := ((s.lfChan c).trips.filter fun t => decide (s.now ≤ t + 60000000000)) ++ [s.now]
    let out : BitVec 16 := if 3 ≤ ts.length then 0x280 else 0x80
    let off := fun (y : Burst) => if y.id = b.id then { y with tripped := c :: y.tripped } else y
    let s0 := (s.modLfChan c fun x => { x with trips := ts }).modLf fun x => { x with flight := x.flight.map off }
    let s1 := s0.setCond c ((s.lfChan c).cond ||| out)
    let s2 := match b.cls with
      | .wake =>
        let cut := fun (r : Round) => { r with sent := sentParts b.scaled (c :: b.tripped) r.sent (s.now - b.startNs) }
        s1.modSess fun x => { x with cur := x.cur.map cut }
      | .pop =>
        if b.addressed.isNone && (s1.lfChan c).excluded then (s1.setEntry b.coil 7 none).endCoilBurst b.coil
        else s1.stopBurst b
      | .diag => if b.measure then s1.modLf fun x => { x with flight := x.flight.filter fun y => y.id != b.id } else s1
    (s2.requestMeasure c).considerAll
  | none => s

/-- OVERCURRENT_TRIP. -/
def execOvercurrentTrip (c : Nat) (s : State) : Host.Outcome State Fault Refusal := .next (doOvercurrentTrip c s)

/-! ### Resonance measurements (R75, R76, R78, R79) -/

/-- The coil rings in the range of R75. -/
def coilFound (r : CoilReading) : Bool := r.rings && decide (100000 ≤ r.f0) && decide (r.f0 ≤ 160000)

/-- f0 to the nearest 25 Hz (R76). -/
def coilGrid (r : CoilReading) : Nat := 25 * ((2 * r.f0 + 25) / 50)

/-- L = Q × Rs / (2π × f0), to 0.1 µH (R75, R76). -/
def inductance (q rs f0 : Nat) : Nat := (roundDiv ((q * rs * 10000 * 10 ^ 15 : Nat) : Int) (2 * piE15 * f0)).toNat

/-- sin x in 10^-15 for x in 10^-15 from 0 to π/2: the first twelve terms of its series. -/
def sinE15 (x : Nat) : Nat :=
  let sq : Int := ((x * x / 10 ^ 15 : Nat) : Int)
  ((List.range 12).foldl (fun (acc : Int × Int) k =>
    (acc.1 + acc.2, -(acc.2 * sq / (10 ^ 15 * ((2 * k + 2) * (2 * k + 3)) : Nat)))) (0, (x : Int))).1.toNat

/-- V1 in µV (R75): (4/π) VLF sin(θ/2), or (2/π) 5 V sin(π d), with θ or d as a part of full conduction. -/
def driveV1 (c : Nat) (r : CoilReading) : Nat :=
  let amp := if c < 16 then 4 * r.vlf else 10000
  amp * 1000 * sinE15 (piE15 * r.drive / 20000) / piE15

/-- Rs = V1 / Ipk to 10 mΩ (R75, R76); none where no current flows, or where it exceeds what the record holds. -/
def measuredRs (c : Nat) (r : CoilReading) : Option Nat :=
  if r.ipk = 0 then none
  else
    let rs := (roundDiv ((10 * driveV1 c r : Nat) : Int) r.ipk).toNat
    if rs < 0x10000 then some rs else none

/-- OPEN in step 4 (R78): full conduction with Ipk below 20 mA on a field channel or 5 mA on a transponder channel. -/
def coilOpen (c : Nat) (r : CoilReading) : Bool := decide (10000 ≤ r.drive) && decide (r.ipk < if c < 16 then 2000 else 500)

/-- The conditions that a measurement finds (R78): bits 0 to 5. -/
def State.foundCond (s : State) (c : Nat) (r : CoilReading) : Nat :=
  let low := decide (r.q < s.cfgN recLfArray (fieldNo 0x40 3))
  let f0 := coilGrid r
  let car := s.carrierHz c
  let off := (if f0 < car then car - f0 else f0 - car) * 2 * r.q
  if r.heldLow || r.heldHigh then 4 * bit r.heldLow + 8 * bit r.heldHigh
  else
    bit ((coilFound r && coilOpen c r) || (!coilFound r && !r.current)) +
      2 * bit ((coilFound r && decide ((measuredRs c r).getD 10 < 10)) || (!coilFound r && r.current)) +
      (if coilFound r then 16 * bit (decide (10 * f0 < off)) + 32 * bit low else 0)

/-- lf.diag commands that a channel's measurement serves (R452); the first result recorded commits them (R447). -/
def State.serveDiag (c : Nat) (s : State) : State :=
  s.lf.diagMbs.foldl (fun t0 d =>
    if !d.2.1.testBit c then t0
    else
      let t := t0.commit d.1
      let left := d.2.1 ^^^ (1 <<< c)
      let done := d.2.2 ||| (1 <<< c)
      if left = 0 then
        let ex := maskOf ((List.range 64).filter fun k => (t.lfChan k).excluded)
        ((t.modLf fun x => { x with diagMbs := x.diagMbs.filter fun y => y.1 != d.1 }).conclude d.1 Status.ok
          (leBytes 8 done ++ leBytes 8 ex)).raise 3 4
      else t.modLf fun x => { x with diagMbs := x.diagMbs.map fun y => if y.1 = d.1 then (d.1, left, done) else y }) s

/-- The boot or periodic run loses a measured channel; once it is empty diagnostics are complete, and after a reset the first
population check is requested (R78, R128). -/
def State.diagStep (c : Nat) (s : State) : State :=
  if s.lf.diagLeft.getLsbD c then
    let left := s.lf.diagLeft &&& ~~~(BitVec.ofNat 64 (1 <<< c))
    let s1 := s.modLf fun x => { x with diagLeft := left }
    if left = 0 then
      let s2 := (s1.modLf fun x => { x with diagDone := true }).raise 3 4
      if s.lf.diagDone then s2 else s2.requestCheck []
    else s1
  else s

/-- The result of a measurement that found its resonance (R75): an Rs that the readings do not give is a free value. -/
def State.putCoil (c : Nat) (r : CoilReading) (s : State) : State :=
  let rs := (measuredRs c r).getD (s.freeVal % 0x10000)
  let res : LfResult :=
    { f0 := coilGrid r, q := r.q, rs := rs, l := inductance r.q rs (coilGrid r), ns := s.now, epoch := s.tbu.epoch }
  let s1 := s.modLfChan c fun x => { x with result := some res }
  if (measuredRs c r).isSome then s1 else s1.drawn

/-- The meaning of RESONANCE_MEASUREMENT (R75 to R80): the channel's result and condition set, its exclusion, and the commands
and runs it serves. -/
def doResonanceMeasurement (c : Nat) (r : CoilReading) (s : State) : State :=
  match s.lf.flight.find? fun b => b.measure && b.chans == [c] with
  | some b =>
    let s1 := s.modLf fun x => { x with flight := x.flight.filter fun y => y.id != b.id }
    let s2 := if coilFound r && !r.heldLow && !r.heldHigh then s1.putCoil c r else s1
    let f := s.foundCond c r
    let keep := (s2.lfChan c).cond &&& 0x1C0
    let s3 := s2.setCond c (keep ||| BitVec.ofNat 16 f ||| (if f % 16 = 0 then 0 else 0x200))
    ((s3.serveDiag c).diagStep c).considerAll
  | none => s

/-- RESONANCE_MEASUREMENT. -/
def execResonanceMeasurement (c : Nat) (r : CoilReading) (s : State) : Host.Outcome State Fault Refusal :=
  .next (doResonanceMeasurement c r s)

/-- The meaning of COIL_DIAGNOSTICS_DUE (R78). -/
def doCoilDiagnosticsDue (s : State) : State :=
  if s.lf.diagDue + s.cfgN recLfArray (fieldNo 0x40 2) * 1000000000 ≤ s.now then s.requestDiagnostics.considerAll else s

/-- COIL_DIAGNOSTICS_DUE. -/
def execCoilDiagnosticsDue (s : State) : Host.Outcome State Fault Refusal := .next (doCoilDiagnosticsDue s)

/-! ### Commands -/

/-- A channel record (R452). -/
def State.chanRecord (s : State) (c : Nat) : List Byte :=
  let x := s.lfChan c
  let r := x.result.getD {}
  leBytes 1 c ++ [0] ++ leBytes 2 (x.cond.toNat + (if x.result.isNone then 0x400 else 0)) ++ leBytes 4 r.f0 ++
    leBytes 2 r.q ++ leBytes 2 r.rs ++ leBytes 4 r.l ++ leBytes 4 (s.carrierHz c) ++ leBytes 4 r.epoch ++ leBytes 8 r.ns

/-- Waiting and deferred bursts of a class (R98). -/
def State.deferred (s : State) (k : LfClass) : Nat := (s.lf.waiting.filter fun b => b.cls == k).length

/-- ms since the last derating event, saturating below the code for never. -/
def State.sinceDerate (s : State) : Nat :=
  match s.lf.lastDerate with
  | some t => min ((s.now - t) / 1000000) 0xFFFFFFFE
  | none => 0xFFFFFFFF

/-- The excluded channels as a mask. -/
def State.excludedMask (s : State) : Nat := maskOf ((List.range 64).filter fun c => (s.lfChan c).excluded)

/-- The body of lf.status (R98, R452). -/
def State.lfStatusBody (s : State) : List Byte :=
  leBytes 4 s.lf.pAvail ++ leBytes 4 s.lf.pRest ++ leBytes 4 s.lf.pLf ++ leBytes 4 (s.committed / 176000) ++
    leBytes 2 (s.deferred .wake) ++ leBytes 2 (s.deferred .pop) ++ leBytes 2 (s.deferred .diag) ++ leBytes 2 s.vlfNow ++
    leBytes 4 s.sinceDerate ++ leBytes 8 s.excludedMask ++ zeros 4

/-- LF_STATUS. -/
def execLfStatus (mb : Nat) (s : State) : Host.Outcome State Fault Refusal :=
  .next (s.perform mb 0x0601 (checked (fun _ => true) noPre) (fun b t =>
    (t.toWindow b (uAt b.payload 0 4) ((List.range 64).flatMap t.chanRecord)).post mb Status.ok t.lfStatusBody))

/-- lf.diag names enabled channels only. -/
def preLfDiag (s : State) (b : Mailbox) : Option Nat :=
  let m := uAt b.payload 0 8
  refuseIf (m == 0 || (List.range 64).any fun c => m.testBit c && !s.lfEnabled c) Status.invalid

/-- LF_DIAG (R79, R452). -/
def execLfDiag (mb : Nat) (s : State) : Host.Outcome State Fault Refusal :=
  .next (s.perform mb 0x0602 (checked (fun _ => true) preLfDiag) (fun b t =>
    let m := uAt b.payload 0 8
    ((bitsOf 64 m).foldl (fun u c => u.requestMeasure c)
      ((t.wait mb).modLf fun x => { x with diagMbs := x.diagMbs ++ [(mb, m, 0)] })).considerAll))

/-- The payload of lf.tune is in range. -/
def wfLfTune (p : List Byte) : Bool :=
  decide (16 ≤ uAt p 0 1) && decide (uAt p 0 1 ≤ 63) && zeroAt p 1 1 && (decide (uAt p 2 2 ≤ 600) || uAt p 2 2 == 0xFFFF)

/-- A transponder channel's runtime carrier set, or returned to the image's setting (R77, R450). -/
def State.tune (c k : Nat) (s : State) : State :=
  let key := cfgKey recLfArray (fieldNo c 3)
  s.modCfg fun x =>
    { x with runtime := if k = 0xFFFF then x.runtime.filter fun p => p.1 != key else layerSet x.runtime key k }

/-- LF_TUNE (R77). -/
def execLfTune (mb : Nat) (s : State) : Host.Outcome State Fault Refusal :=
  .next (s.perform mb 0x0603 (checked wfLfTune noPre) (fun b t =>
    let c := uAt b.payload 0 1
    let t1 := t.tune c (uAt b.payload 2 2)
    t1.post mb Status.ok (leBytes 4 (t1.carrierHz c))))

/-- The payload of lf.phase is in range. -/
def wfLfPhase (p : List Byte) : Bool :=
  decide (uAt p 0 1 ≤ 15) && zeroAt p 1 1 && decide (1 ≤ uAt p 2 2) && decide (uAt p 2 2 ≤ 100) && zeroAt p 4 4

/-- lf.phase is denied while consent is set, and refused for an empty set. -/
def preLfPhase (s : State) (b : Mailbox) : Option Nat :=
  if s.rel.consent then some Status.denied
  else refuseIf (s.setCurrents (uAt b.payload 0 1)).isEmpty Status.invalid

/-- LF_PHASE (R452). -/
def execLfPhase (mb : Nat) (s : State) : Host.Outcome State Fault Refusal :=
  .next (s.perform mb 0x0604 (checked wfLfPhase preLfPhase) (fun b t =>
    let p := uAt b.payload 0 1
    ((t.wait mb).putRequest
      { cls := .diag, parts := [t.setCurrents p], sets := [some p], test := some p, mbs := [mb] }).considerAll))

end Sys2Proof.Machine
end

