-- ==== Sys2Proof/Machine/Metering.lean ====
section
/-!
DEFINITION. Metering (11_metering_and_moraine): scaling, integration, the billing pair, the conditions of R306, validity,
credit and the summary entries.
-/
namespace Sys2Proof.Machine

/-- The condition bits of ledg.energy (R306, R315). -/
def Met.cond (m : Met) : Nat :=
  m.stuck.toNat ||| (m.overload.toNat <<< 4) ||| (bit m.iDis <<< 8) ||| (bit m.vDis <<< 9)

/-- The current and voltage inputs of pair A (false) and pair B (true) (R300). -/
def pairInputs (b : Bool) : Nat × Nat := if b then (1, 3) else (0, 2)

/-- None of a pair's inputs is STUCK or OVERLOAD (R307). -/
def Met.pairGood (m : Met) (b : Bool) : Bool :=
  let p := pairInputs b
  !(m.stuck.getLsbD p.1 || m.stuck.getLsbD p.2 || m.overload.getLsbD p.1 || m.overload.getLsbD p.2)

/-- The billing pair (R307): A (false), B (true), or none. -/
def Met.billingPair (m : Met) : Option Bool :=
  if m.pairGood false then some false else if m.pairGood true then some true else none

/-- The current measurement is valid (R308). -/
def State.currentValid (s : State) : Bool :=
  !(s.met.stuck.getLsbD 0 || s.met.stuck.getLsbD 1 || s.met.overload.getLsbD 0 || s.met.overload.getLsbD 1) &&
    !s.met.iDis && s.pdOn 13 && s.met.meanOk

/-- The credit input of R40 is met (R309). -/
def State.creditMet (s : State) : Bool :=
  !s.cfgB recMetering 14 || decide (0 < s.met.balance) ||
    (decide (-(s.cfgN recMetering 16 : Int) < s.met.balance) &&
      match s.met.grace with
      | some g => g.2 == s.tbu.epoch && decide (s.sinceLess g.1 < s.cfgN recMetering 17 * 1000000000)
      | none => false)

/-- A scaling field in force: i_fs, v_fs, four gains, four offsets (R303, R312). -/
def Met.scaleAt (m : Met) (i : Nat) : Int := m.scale.getD i 0

/-- Full scale of an input: i_fs for the currents, v_fs for the voltages (R302). -/
def Met.fullScale (m : Met) (n : Nat) : Nat := (m.scaleAt (if n < 2 then 0 else 1)).toNat

/-- The scaling fields as the configuration gives them (R303). -/
def State.scaleNow (s : State) : List Int := (List.range 10).map fun i => s.cfgI recMetering (i + 1)

/-- The sample y less the mid-scale code (R302). -/
def centred (y : Nat) : Int := (y : Int) - 2 ^ 23

/-- A sample scaled to 2^-24 of full scale (R302). -/
def Met.scaled (m : Met) (n y : Nat) : Int :=
  roundDiv (centred y * 2 * m.scaleAt (2 + n)) (2 ^ 20) + m.scaleAt (6 + n)

/-- One MDAT bit enters a filter: its three integrators, modulo 2^25 (R302). -/
def Sinc.clock (f : Sinc) (b : Bool) : Sinc :=
  let x := (f.i1 + bit b) % 2 ^ 25
  let y := (f.i2 + x) % 2 ^ 25
  { f with i1 := x, i2 := y, i3 := (f.i3 + y) % 2 ^ 25 }

/-- The sample y that a filter gives, and its three differences (R302). -/
def Sinc.output (f : Sinc) : Nat × Sinc :=
  let x := (f.i3 + 2 ^ 25 - f.c1) % 2 ^ 25
  let y := (x + 2 ^ 25 - f.c2) % 2 ^ 25
  ((y + 2 ^ 25 - f.c3) % 2 ^ 25, { f with c1 := f.i3, c2 := x, c3 := y })

/-- The 256 bits of one sample period through a filter, the first captured in bit 0 (R302). -/
def Sinc.window (f : Sinc) (m : BitVec 256) : Nat × Sinc :=
  ((List.range 256).foldl (fun (g : Sinc) k => g.clock (m.getLsbD k)) f).output

/-- |x| > 0.95 (R306). -/
def overloads (y : Nat) : Bool := decide (95 * 2 ^ 23 < 100 * (centred y).natAbs)

/-- The energy and charge of one sample in 2^-24 mJ and 2^-24 mC, signed, each rounded to nearest (R304). -/
def Met.product (m : Met) (b : Bool) (ys : List (Option Nat)) : Option (Int × Int) :=
  let p := pairInputs b
  match ys.getD p.1 none, ys.getD p.2 none with
  | some i, some v =>
    let a := m.scaled p.1 i
    let u := m.scaled p.2 v
    some (roundDiv (a * u * m.scaleAt 0 * m.scaleAt 1 * 128) (10000 * 2 ^ 24), roundDiv (a * m.scaleAt 0 * 128) 10000)
  | _, _ => none

/-- A contribution added to a whole count and its 24-bit remainder (R304). -/
def carryIn (whole rem add : Nat) : Nat × Nat := ((whole + (rem + add) / 2 ^ 24) % 2 ^ 64, (rem + add) % 2 ^ 24)

/-- A sample's energy and charge added to a set of four counters (R304). -/
def Counters.add (c : Counters) (p : Int × Int) : Counters :=
  let ed := carryIn c.eDis c.rEDis p.1.toNat
  let ec := carryIn c.eChg c.rEChg (-p.1).toNat
  let qd := carryIn c.qDis c.rQDis p.2.toNat
  let qc := carryIn c.qChg c.rQChg (-p.2).toNat
  { eDis := ed.1, rEDis := ed.2, eChg := ec.1, rEChg := ec.2, qDis := qd.1, rQDis := qd.2, qChg := qc.1, rQChg := qc.2 }

/-- The energy that is charged against credit (R309). -/
def State.basisOf (s : State) (c : Counters) : Nat :=
  match s.cfgN recMetering 15 with
  | 0 => c.eDis
  | 1 => c.eChg
  | _ => c.eDis + c.eChg

/-- The balance takes a new value; one outside 64 signed bits is a value the spec does not state (R309). A fall from above 0 to
0 or below starts grace. -/
def State.setBalance (v : Int) (s : State) : State :=
  let fits := decide (-(2 ^ 63) ≤ v) && decide (v < 2 ^ 63)
  let w := if fits then v else signedOf 64 s.freeVal
  let s1 := if fits then s else s.drawn
  s1.modMet fun m =>
    { m with
      balance := w
      grace := if 0 < m.balance ∧ w ≤ 0 then some (s.now, s.tbu.epoch) else m.grace }

/-- The billing counters take a contribution, and credit is charged (R307, R309). -/
def State.bill (p : Int × Int) (s : State) : State :=
  let c := s.met.billing.add p
  let spent := s.basisOf c - s.basisOf s.met.billing
  let s1 := s.modMet fun m => { m with billing := c }
  if spent = 0 then s1 else s1.setBalance (s.met.balance - (spent : Int))

/-- One sample's period in ns (R302). -/
def samplePeriod : Nat := 12800

/-- A sample joins the present mean (R226, R302, R306). -/
def Met.toMean (m : Met) (ys : List (Option Nat)) : Met :=
  let has := fun (f : Nat → Bool) (n : Nat) => match ys.getD n none with | some y => f y | none => false
  { m with
    sums := (List.range 4).map fun n =>
      m.sums.getD n 0 + (match ys.getD n none with | some y => m.scaled n y | none => 0)
    n := m.n + 1
    overIn := m.overIn ||| BitVec.ofNat 4 (maskOf ((List.range 4).filter (has overloads)))
    spoiled := m.spoiled ||| BitVec.ofNat 4 (maskOf ((List.range 4).filter fun n => (ys.getD n none).isNone)) }

/-- A flag of the present interval (R313). -/
def State.intervalFlag (b : Nat) (s : State) : State := s.modMet fun m => { m with flags := m.flags ||| (1 <<< b) }

/-- A sample is integrated, 51.2 µs after its data (R302, R304, R307). -/
def State.integrate (ys : List (Option Nat)) (s : State) : State :=
  let pa := s.met.product false ys
  let pb := s.met.product true ys
  let s1 := s.modMet fun m =>
    { m with
      pairA := (pa.map m.pairA.add).getD m.pairA
      pairB := (pb.map m.pairB.add).getD m.pairB }
  let bp := s.met.billingPair
  let part := bp.bind fun b => if b then pb else pa
  let s2 := match part with
    | some p => (if bp = some true then s1.intervalFlag 2 else s1).bill p
    | none => (s1.intervalFlag 3).modMet fun m => { m with unmetered := m.unmetered + samplePeriod }
  let s3 := if s.currentValid then s2 else s2.intervalFlag 4
  s3.modMet fun m => m.toMean ys

/-- A condition of R306 sets or clears: METER entry and ledger event. -/
def State.meterEntry (cond input : Nat) (on : Bool) (s : State) : State :=
  ((s.modMet fun m => { m with conds := m.conds ||| m.cond }).ledgerAdd 0x81 cond [BitVec.ofNat 8 input,
    BitVec.ofNat 8 (bit on)]).raise 7 0

/-- STUCK on an input (R306). -/
def State.setStuck (n : Nat) (on : Bool) (s : State) : State :=
  if s.met.stuck.getLsbD n = on then s
  else (s.modMet fun m => { m with stuck := m.stuck ^^^ BitVec.ofNat 4 (1 <<< n) }).meterEntry 0 n on

/-- OVERLOAD on an input (R306). -/
def State.setOverload (n : Nat) (on : Bool) (s : State) : State :=
  if s.met.overload.getLsbD n = on then s
  else (s.modMet fun m => { m with overload := m.overload ^^^ BitVec.ofNat 4 (1 <<< n) }).meterEntry 1 n on

/-- A whole mean without an overload: OVERLOAD clears at its end (R306). -/
def State.clearOverloads (s : State) : State :=
  let waits := fun (n : Nat) => s.met.waiting.any fun ys => match ys.getD n none with | some y => overloads y | none => false
  (List.range 4).foldl (fun (t : State) n =>
    if s.met.overIn.getLsbD n || s.met.spoiled.getLsbD n || waits n then t else t.setOverload n false) s

/-- Two means of 128 samples disagree beyond their tolerance (R306): sums in 2^-24 of full scale, the tolerance in 0.1 A or
0.1 V, the proportional part as 1 in `part`. -/
def meansDisagree (a b : Int) (fs tol part : Nat) : Bool :=
  decide (part * tol * 128 * 2 ^ 24 + 10 * fs * max a.natAbs b.natAbs < 10 * part * fs * (a - b).natAbs)

/-- A run of consecutive means towards changing a disagreement condition (R306): the new run and whether it changes. -/
def nextRun (comparable differs : Bool) (run : Nat) : Nat × Bool :=
  if !comparable || !differs then (0, false) else if 16 ≤ run + 1 then (0, true) else (run + 1, false)

/-- I_DISAGREE and V_DISAGREE at the end of a mean (R306). -/
def State.judgeDisagree (s : State) : State :=
  let m := s.met
  let whole := fun (n : Nat) => !m.spoiled.getLsbD n && !m.stuck.getLsbD n
  let di := meansDisagree (m.sums.getD 0 0) (m.sums.getD 1 0) (m.fullScale 0) (s.cfgN recMetering 11) 100
  let dv := meansDisagree (m.sums.getD 2 0) (m.sums.getD 3 0) (m.fullScale 2) (s.cfgN recMetering 12) 200
  let ri := nextRun (whole 0 && whole 1) (di != m.iDis) m.iRun
  let rv := nextRun (whole 2 && whole 3) (dv != m.vDis) m.vRun
  let s1 := s.modMet fun x => { x with iRun := ri.1, vRun := rv.1 }
  let s2 := if ri.2 then (s1.modMet fun x => { x with iDis := !x.iDis }).meterEntry 2 0xFF (!m.iDis) else s1
  if rv.2 then (s2.modMet fun x => { x with vDis := !x.vDis }).meterEntry 3 0xFF (!m.vDis) else s2

/-- A current channel's mean lies below 5 A in magnitude (R226). -/
def Met.below5 (m : Met) (n : Nat) : Bool :=
  !m.spoiled.getLsbD n && decide ((m.sums.getD n 0).natAbs * m.fullScale 0 < 5 * 128 * 2 ^ 24)

/-- The billing pair's current mean exceeded idle_a (R307). -/
def State.aboveIdle (s : State) : Bool :=
  match s.met.billingPair with
  | some b =>
    let n := (pairInputs b).1
    decide (s.cfgN recMetering 13 * 128 * 2 ^ 24 < (s.met.sums.getD n 0).natAbs * s.met.fullScale 0 * 10)
  | none => false

/-- The decimators' state starts again: after a restart of PD13's clocks the first three outputs are discarded and no mean has
been produced (R302, R308). -/
def State.restartMeter (s : State) : State :=
  s.modMet fun m =>
    { m with
      filters := [{}, {}, {}, {}], discard := [3, 3, 3, 3], waiting := [], sums := [0, 0, 0, 0], n := 0, overIn := 0, spoiled := 0, meanOk := false
      iRun := 0, vRun := 0 }

/-- Metering stops; what is unmetered from now counts (R305, R316). -/
def State.stopMeter (s : State) : State :=
  if s.met.stopped.isSome then s else s.restartMeter.modMet fun m => { m with stopped := some s.now }

/-- The counters, the balance and the grace start are committed to MRAM (R305, R309). -/
def State.commitCounters (s : State) : State :=
  s.modMet fun m =>
    { m with
      comA := m.pairA, comB := m.pairB, comBilling := m.billing, comBalance := m.balance, comGrace := m.grace
      commitNs := s.now }

/-- The counters resume from what was committed (R305, R321). -/
def State.recallCounters (s : State) : State :=
  s.modMet fun m =>
    { m with pairA := m.comA, pairB := m.comB, billing := m.comBilling, balance := m.comBalance, grace := m.comGrace }

/-- Summary interval in ns (R312). -/
def summaryNs : Nat := 900000000000

/-- Time that nothing is metered joins the interval's unmetered time (R316, R321). -/
def State.countStopped (s : State) : State :=
  match s.met.stopped with
  | some t => ((s.intervalFlag 3).intervalFlag 4).modMet fun m => { m with unmetered := m.unmetered + (s.now - t), stopped := some s.now }
  | none => s

/-- An ENERGY and CHARGE pair over a number of intervals (R312, R315); the next interval starts with the configured scaling
(R303). -/
def State.summaryPair (intervals : Nat) (s : State) : State :=
  let m := s.met
  let e := s.mkEntry 0x01 intervals m.flags (leBytes 8 m.billing.eDis ++ leBytes 8 m.billing.eChg ++ leInt 8 m.balance)
  let c := s.mkEntry 0x02 intervals m.flags (leBytes 8 m.billing.qDis ++ leBytes 8 m.billing.qChg ++
    leBytes 4 (min (m.unmetered / 1000000) 0xFFFFFFFF) ++ leBytes 4 (m.conds ||| m.cond))
  let s1 := (s.ledgerPair e c).modLedger fun l => { l with latest := (e.body, c.body) }
  let s2 := if s1.ledger.head = s.ledger.head then s1 else s1.raise 7 6
  s2.modMet fun m => { m with flags := 0, conds := m.cond, unmetered := 0, scale := s.scaleNow }

/-- The meaning of SUMMARY_BOUNDARY (R305, R312): the boundaries reached since the last one, as one pair. -/
def doSummaryBoundary (s : State) : State :=
  if s.now < s.met.boundary then s
  else
    let k := (s.now - s.met.boundary) / summaryNs + 1
    ((s.countStopped.commitCounters).summaryPair k).modMet fun m => { m with boundary := m.boundary + k * summaryNs }

/-- SUMMARY_BOUNDARY. -/
def execSummaryBoundary (s : State) : Host.Outcome State Fault Refusal := .next (doSummaryBoundary s)

/-- The meaning of COUNTER_COMMIT (R305): every 1 s of timebase time. -/
def doCounterCommit (s : State) : State := if s.now < s.met.commitNs + 1000000000 then s else s.commitCounters

/-- COUNTER_COMMIT. -/
def execCounterCommit (s : State) : Host.Outcome State Fault Refusal := .next (doCounterCommit s)

/-- QUEUED_ENTRY_APPEND (R314): with a key at hand the waiting entries are appended in order. -/
def execQueuedEntryAppend (s : State) : Host.Outcome State Fault Refusal :=
  .next (if s.ledger.queue.isEmpty && s.ledger.area.isEmpty then s else s.drainLedger)

/-- An hour of timebase time in ns (R514). -/
def hourOf (ns : Nat) : Nat := ns / 3600000000000

/-- The meaning of HEALTH_SUMMARY_HOUR (R514): summaries of hours that have ended are appended. -/
def doHealthSummaryHour (s : State) : State :=
  let past := fun (r : HealthRec) => r.epoch != s.tbu.epoch || decide (hourOf r.ns < hourOf s.now)
  let due := s.health.sums.filter past
  due.foldl (fun (t : State) r => t.healthPut r)
    (s.modHealth fun h => { h with sums := h.sums.filter fun r => !past r })

/-- HEALTH_SUMMARY_HOUR. -/
def execHealthSummaryHour (s : State) : Host.Outcome State Fault Refusal := .next (doHealthSummaryHour s)

/-- The counts of every port are entered in the health log (R468, R513); the spec gives their entry no layout, so its detail is
free. -/
def State.enterStatistics (s : State) : State :=
  (List.range 6).foldl (fun (t : State) p => t.healthFree 0x0090 p 7) s

/-- The meaning of STATISTICS_HOUR (R468). -/
def doStatisticsHour (s : State) : State :=
  if s.now < s.net.statHour then s
  else s.enterStatistics.modNet fun n => { n with statHour := (hourOf s.now + 1) * 3600000000000 }

/-- STATISTICS_HOUR. -/
def execStatisticsHour (s : State) : Host.Outcome State Fault Refusal := .next (doStatisticsHour s)

end Sys2Proof.Machine
end

