-- ==== Sys2Proof/Machine/Release.lean ====
section
/-!
DEFINITION. The release decision and the permission latch (08_release_decision): the inputs of R40, the
standstill-and-current rule, the transitions of R228, the latch control and the rel commands.
-/
namespace Sys2Proof.Machine

/-- Decision codes of rel.status. -/
def decisionCode : Decision → Nat
  | .locked => 0
  | .armed => 1
  | .released => 2
  | .held => 3
  | .revoking => 4

/-- The states whose latch is set (R214). -/
def Decision.permits : Decision → Bool
  | .released => true
  | .held => true
  | .revoking => true
  | _ => false

/-- The causes of R227 by bit: HOST, CREDIT, TAMPER, IDLE. -/
def causeHost : Nat := 0
def causeCredit : Nat := 1
def causeTamper : Nat := 2
def causeIdle : Nat := 3

/-- A cause is pending. -/
def Rel.cause (r : Rel) (b : Nat) : Bool := r.causes.getLsbD b

/-- A cause is added. -/
def State.addCause (b : Nat) (s : State) : State := s.modRel fun r => { r with causes := r.causes ||| BitVec.ofNat 4 (1 <<< b) }

/-- A cause is withdrawn. -/
def State.dropCause (b : Nat) (s : State) : State :=
  s.modRel fun r => { r with causes := r.causes &&& ~~~BitVec.ofNat 4 (1 <<< b) }

/-! ### Inputs -/

/-- Input n of the tamper block is enabled (R517). -/
def State.tamperEn (s : State) (n : Nat) : Bool := s.cfgB recTamper (n + 1)

/-- The input "tamper clear" (R521). -/
def State.tamperClear (s : State) : Bool :=
  !s.tamper.latch && s.tamper.meshOk &&
    (List.range 4).all fun n => !(s.tamperEn n && (s.tamper.asserted.getD n none).isSome)

/-- The decision role is in place and no migration is under way (R31, R223). -/
def State.decisionPlaced (s : State) : Bool := s.cores.migrating.isEmpty

/-- The source of an input is available (R40): its roles are in place and its domains powered. DEDUCED, log 62. -/
def State.sourceUp (s : State) (rs : List Role) (ds : List Nat) : Bool := rs.all s.rolePlaced && ds.all s.pdOn

/-- A condition of R219 stands. -/
def Rel.fbCondition (r : Rel) : Bool := r.fbHigh || r.fbLow || r.fbWave

/-- A verified presence meets R39, R224 and R225 now. -/
def State.presenceOk (s : State) (p : Presence) : Bool :=
  p.epoch == s.tbu.epoch && decide (s.now - p.ns ≤ s.cfgN recRelease 2 * 100000000) &&
    decide (p.unc ≤ s.cfgN recRelease 3) &&
    match s.rec? p.identity with
    | some r =>
      r.state == .enrolled && r.releaseOk && r.role == (if s.rel.storage then 0x12 else 0x10) && (p.zones &&& r.zones) != 0
    | none => false

/-- What verifies presences is available (R40): the field's domain and role too in vehicle mode. -/
def State.presenceUp (s : State) : Bool :=
  if s.rel.storage then s.sourceUp [.radio] [9, 10, 5] else s.sourceUp [.radio, .field] [9, 10, 11, 5]

/-- The first presence verified that qualifies (R185, R223), while its source is available (R40). -/
def State.qualifying (s : State) : Option Presence := if s.presenceUp then s.rel.presence.find? s.presenceOk else none

/-- The credit input (R40, R309): where credit is used, metering must run. -/
def State.creditReady (s : State) : Bool :=
  s.creditMet && (!s.cfgB recMetering 14 || (s.sourceUp [.decision] [13, 5] && !s.pad.frz.getLsbD 13))

/-- The population input (R40, R127). -/
def State.popReady (s : State) : Bool := s.popWithinPolicy && s.sourceUp [.field] [12, 5]

/-- Every grant condition but presence and population (R40, R223). -/
def State.grantReady (s : State) : Bool :=
  s.rel.consent && s.tamperClear && s.creditReady && s.decisionPlaced && s.rel.fbAgree && !s.rel.fbCondition &&
    !s.rel.modeWait

/-! ### The standstill-and-current rule (R226) -/

/-- A duration since a stamp, less ε, has reached a span. -/
def State.heldFor (s : State) (since : Option Nat) (span : Nat) : Bool :=
  match since with
  | some t => decide (span ≤ s.sinceLess t)
  | none => false

/-- The standstill half. -/
def State.standstillHalf (s : State) : Bool := s.rel.storage || (s.currentValid && s.heldFor s.rel.still 2000000000)

/-- The current half. -/
def State.currentHalf (s : State) : Bool := s.currentValid && s.heldFor s.rel.quiet 1000000000

/-- The standstill-and-current rule. -/
def State.rule226 (s : State) : Bool := s.standstillHalf && s.currentHalf

/-- Vehicle mode with SSTL_A or SSTL_B deasserted (R228). -/
def State.moving (s : State) : Bool := !s.rel.storage && !(s.rel.sstlA && s.rel.sstlB)

/-! ### The latch (R41, R216, R217) -/

/-- A command word and its complement reach the latch control together. -/
def State.latchPair (set : Bool) (s : State) : State :=
  s.modRel fun r => { r with latchCmd := some (set, s.now), latch := set, fbAgree := false }

/-! ### Transitions (R228) -/

/-- The decision moves: TRANSITION entry and release event; the idle cause is dropped when RELEASED is left other than to
REVOKING (R227); entry to REVOKING raises the revocation notice (R231). -/
def State.moveTo (d : Decision) (s : State) : State :=
  let old := s.rel.st
  let s1 := if old = .released ∧ d ≠ .revoking then s.dropCause causeIdle else s
  let s2 := s1.modRel fun r => { r with st := d, since := s.now, clearing := false }
  let s3 := (s2.ledgerAdd 0x11 (decisionCode d) ([BitVec.ofNat 8 (decisionCode old), BitVec.ofNat 8 s2.rel.causes.toNat] ++
    leBytes 8 s2.rel.grantId)).raise 1 0
  if d = .revoking then s3.raise 1 1 else s3

/-- The decision is LOCKED, where a waiting change of life_mode takes effect (R233). -/
def State.applyMode (s : State) : State :=
  if s.rel.st = .locked ∨ s.rel.st = .armed then s.modRel fun r => { r with storage := s.cfgB recRelease 1, modeWait := false }
  else s

/-- The lowest-numbered zone of a set. -/
def lowestZone (z : BitVec 16) : Nat := ((bitsOf 16 z.toNat).head?).getD 0

/-- A grant with a presence (R223, R224, R237): RELEASED, GRANT entry, latch set; no other presence of its round is kept. -/
def State.grantWith (p : Presence) (s : State) : State :=
  let zones := ((s.rec? p.identity).map (·.zones)).getD 0
  let zone := lowestZone (p.zones &&& zones)
  let s1 := s.modRel fun r =>
    { r with
      grantId := p.identity, grantZone := zone, grantNs := s.now, grantEpoch := s.tbu.epoch
      grantRound := some (p.epoch, p.roundSeq)
      presence := r.presence.filter fun q => !(q.epoch == p.epoch && q.roundSeq == p.roundSeq) }
  ((s1.moveTo .released).ledgerAdd 0x10 zone (leBytes 8 p.identity ++ leBytes 4 p.roundSeq ++ leBytes 1 p.lane)).latchPair true

/-- ARMED: a grant when every condition holds at this moment (R223); a check is requested when only the population record is
wanting (R128). -/
def State.tryGrant (s : State) : State :=
  match s.qualifying with
  | some p =>
    if !s.grantReady then s
    else if s.popReady then s.grantWith p
    else if s.pop.running.isNone && !s.pop.wanted then s.requestCheck []
    else s
  | none => s

/-- Causes that hold by themselves (R227): CREDIT past grace, confirmed TAMPER. The decision role judges them, so none arises
while the core pairs are gated (R491). -/
def State.ownCauses (s : State) : State :=
  if !s.rel.st.permits || !s.rolesRun then s
  else
    let s1 := if s.cfgB recRelease 6 && s.cfgB recMetering 14 && !s.creditMet then s.addCause causeCredit else s
    if s.cfgB recRelease 7 && s.tamper.latch then s1.addCause causeTamper else s1

/-- One transition of R228, the upper row first; none applies where nothing changes. The rows that name R226 are judged only
where its rule is evaluated: at the end of a mean and at an SSTL edge. -/
def State.decideOnce (at226 : Bool) (s : State) : State :=
  let rule := s.rule226
  let pending : Bool := s.rel.causes != 0
  match s.rel.st with
  | .locked => if s.rel.consent && s.tamperClear then s.moveTo .armed else s
  | .armed => if !s.rel.consent || s.tamper.latch then s.moveTo .locked else s.tryGrant
  | .released => if s.moving then s.moveTo .held else if at226 && pending && rule then s.moveTo .revoking else s
  | .held => if !at226 || !rule then s else if pending then s.moveTo .revoking else s.moveTo .released
  | .revoking =>
    if s.rel.clearing then s
    else if at226 && !rule then s.moveTo (if s.moving then .held else .released)
    else if !pending then s.moveTo .released
    else s

/-- The decision is evaluated (R226, R228), while its role is in place (R30). -/
def State.evalWith (at226 : Bool) (s : State) : State :=
  if !s.rolePlaced .decision || !s.rolesRun then s
  else (((s.applyMode.ownCauses.decideOnce at226).decideOnce at226).decideOnce at226).decideOnce at226

/-- What a happening other than a mean's end or an SSTL edge lets the decision do (R228). -/
def State.evalDecision (s : State) : State := s.evalWith false

/-- An evaluation of the standstill-and-current rule (R226), which is work that wakes the decision role from Drift (R491). -/
def State.evalRule (s : State) : State :=
  let s1 := s.evalWith true
  if s.psc.state = .drift then s1.wakeSource 0x0D else s1

/-- Step 6 of the revocation sequence (R231): LOCKED with the entry carrying the causes, which are then cleared. -/
def State.revoked (s : State) : State := ((s.moveTo .locked).modRel fun r => { r with causes := 0 }).applyMode

/-- The decision resumes after a system reset (R221, R222, R237); the transition of a power-on reset is appended first (R228). -/
def State.resumeDecision (s0 : State) : State :=
  let s := match s0.rel.porFrom with
    | some old =>
      ((s0.modRel fun r => { r with porFrom := none }).ledgerAdd 0x11 (decisionCode .locked)
        ([BitVec.ofNat 8 (decisionCode old), 0] ++ leBytes 8 s0.rel.grantId)).raise 1 0
    | none => s0
  let s1 := s.dropCause causeIdle
  if s1.rel.latch then
    let s2 := if s1.rel.st = .held then s1 else s1.moveTo .held
    s2.modRel fun r => { r with clearing := false }
  else
    let s2 := if s1.rel.st.permits then s1.revoked else s1
    let goal : Decision := if s2.rel.consent && s2.tamperClear then .armed else .locked
    (if s2.rel.st = goal then s2 else s2.moveTo goal).applyMode

/-! ### Happenings -/

/-- A filtered level of SSTL_A (false) or SSTL_B (true) changes (R226). -/
def State.sstlLevel (b level : Bool) (s : State) : State :=
  let s1 := s.modRel fun r =>
    let x := if b then { r with sstlB := level } else { r with sstlA := level }
    { x with
      still := if x.sstlA && x.sstlB then (if x.still.isSome then x.still else some s.now) else none
      disagree := if x.sstlA = x.sstlB then none else if x.disagree.isSome then x.disagree else some s.now
      sstlCond := if x.sstlA = x.sstlB then false else x.sstlCond }
  if s.rel.sstlCond && !s1.rel.sstlCond then s1.raise 1 3 else s1

/-- The meaning of SSTL_DISAGREE (R226): in vehicle mode the inputs have differed for more than 5 s. -/
def doSstlDisagree (s : State) : State :=
  let due : Bool := match s.rel.disagree with
    | some t => decide (t + 5000000000 < s.now)
    | none => false
  if due && !s.rel.storage && !s.rel.sstlCond then (s.modRel fun r => { r with sstlCond := true }).raise 1 3 else s

/-- SSTL_DISAGREE. -/
def execSstlDisagree (s : State) : Host.Outcome State Fault Refusal := .next (doSstlDisagree s)

/-- A feedback condition arises (FEEDBACK entry) or clears, with its event (R219). -/
def State.feedbackNote (cond : Nat) (on : Bool) (s : State) : State :=
  let s1 := if on then s.ledgerAdd 0x12 cond [BitVec.ofNat 8 (bit s.rel.latch)] else s
  s1.raise 1 2

/-- A feedback condition arises or clears; in Permafrost it is recorded in Nunatak and raised at wake (R219). -/
def State.feedbackChange (cond : Nat) (on : Bool) (s : State) : State :=
  if s.psc.state = .permafrost then s.modRel fun r => { r with fbPend := r.fbPend ++ [(cond, on)] }
  else s.feedbackNote cond on

/-- What Permafrost recorded is raised at wake (R219). -/
def State.feedbackWake (s : State) : State :=
  s.rel.fbPend.foldl (fun (t : State) p => t.feedbackNote p.1 p.2) (s.modRel fun r => { r with fbPend := [] })

/-- The feedback conditions after a window (R219): none stands after agreement; a disagreement raises its own. -/
def State.setFeedback (high low wave : Bool) (s : State) : State :=
  let s1 := s.modRel fun r => { r with fbHigh := high, fbLow := low, fbWave := wave }
  let s2 := if high = s.rel.fbHigh then s1 else s1.feedbackChange 0 high
  let s3 := if low = s.rel.fbLow then s2 else s2.feedbackChange 1 low
  if wave = s.rel.fbWave then s3 else s3.feedbackChange 2 wave

/-- The meaning of READBACK_WINDOW_END (R218, R219, R231): the level of PRM_FB_S through the window (none when it changed),
whether PRM_FB_D showed an edge, and whether it met its rule. The window after a clear ends the revocation, and any
disagreement in it is FB_STUCK_HIGH. -/
def doReadbackWindowEnd (fbS : Option Bool) (dEdge dRule : Bool) (s : State) : State :=
  if s.psc.state = .nunatakHold then s
  else
    let r := s.rel
    let agree : Bool := fbS == some r.latch && dRule
    let s1 :=
      if agree then s.setFeedback false false false
      else if r.latch then
        s.setFeedback r.fbHigh (r.fbLow || fbS == some false) (r.fbWave || (fbS == some true && !dRule))
      else s.setFeedback (r.fbHigh || fbS == some true || dEdge || r.clearing) r.fbLow r.fbWave
    let s2 := s1.modRel fun x => { x with fbAgree := agree && !r.latch }
    (if r.clearing && !r.latch && s.rolePlaced .decision then s2.revoked else s2).evalDecision

/-- READBACK_WINDOW_END. -/
def execReadbackWindowEnd (fbS : Option Bool) (dEdge dRule : Bool) (s : State) : Host.Outcome State Fault Refusal :=
  .next (doReadbackWindowEnd fbS dEdge dRule s)

/-- LATCH_COMPLEMENT_TIMEOUT (R41): the command word `set` found no complement within 10 µs; it is discarded and entered in the
health log. -/
def execLatchComplementTimeout (set : Bool) (s : State) : Host.Outcome State Fault Refusal :=
  .next ((s.modRel fun r => { r with latchCmd := some (set, s.now) }).healthFree 0x0050 0 7)

/-- The meaning of IDLE_EXPIRY (R227): RELEASED without a break for release_idle. -/
def doIdleExpiry (s : State) : State :=
  let span := s.cfgN recRelease 4
  if s.rel.st = .released ∧ span ≠ 0 ∧ s.rel.since + span * 1000000000 ≤ s.now then s.addCause causeIdle else s

/-- IDLE_EXPIRY. -/
def execIdleExpiry (s : State) : Host.Outcome State Fault Refusal := .next (doIdleExpiry s)

/-- The notice has elapsed under the form of R60 (R231). -/
def State.noticeOver (s : State) : Bool := decide (s.cfgN recRelease 5 * 100000000 ≤ s.sinceLess s.rel.since)

/-- The meaning of REVOKE_NOTICE_ELAPSED (R228, R231 step 3): the clear command and its complement are issued. -/
def doRevokeNoticeElapsed (s : State) : State :=
  if s.rel.st = .revoking ∧ (!s.rel.clearing && s.rolePlaced .decision && s.noticeOver && s.rule226) = true then
    (s.latchPair false).modRel fun r => { r with clearing := true }
  else s

/-- REVOKE_NOTICE_ELAPSED. -/
def execRevokeNoticeElapsed (s : State) : Host.Outcome State Fault Refusal := .next (doRevokeNoticeElapsed s)

/-- The meaning of PERMISSION_OSCILLATOR_TRIM (R216): every 10 s with line power and the latch set, the error is measured and the
oscillator retrimmed. -/
def doPermissionOscillatorTrim (ppm : Int) (s : State) : State :=
  if s.power.line && s.rel.latch && decide (s.rel.oscNs + 10000000000 ≤ s.now) then
    s.modRel fun r => { r with oscTrim := r.oscTrim + 1, oscPpm := ppm, oscNs := s.now }
  else s

/-- PERMISSION_OSCILLATOR_TRIM. -/
def execPermissionOscillatorTrim (ppm : Int) (s : State) : Host.Outcome State Fault Refusal :=
  .next (doPermissionOscillatorTrim ppm s)

/-- The meaning of GRACE_EXPIRY (R227, R309): credit is exhausted past grace. -/
def doGraceExpiry (s : State) : State := s.ownCauses

/-- GRACE_EXPIRY. -/
def execGraceExpiry (s : State) : Host.Outcome State Fault Refusal := .next (doGraceExpiry s)

/-- POPULATION_PHASE_END (R89), and the grant that may follow a record (R223). -/
def execPopulationPhaseEnd (s : State) : Host.Outcome State Fault Refusal := .next (doPopulationPhaseEnd s).evalDecision

/-! ### The rel commands (17_command_reference) -/

/-- A result of rel.revoke and rel.cancel. -/
def State.relBody (s : State) : List Byte := leBytes 1 (decisionCode s.rel.st) ++ leBytes 1 s.rel.causes.toNat ++ zeros 2

/-- The payload of rel.consent is in range. -/
def wfRelConsent (p : List Byte) : Bool := decide (uAt p 0 1 ≤ 1) && zeroAt p 1 3

/-- REL_CONSENT (R222, R228). -/
def execRelConsent (mb : Nat) (s : State) : Host.Outcome State Fault Refusal :=
  .next (s.perform mb 0x0801 (checked wfRelConsent noPre) (fun b t =>
    let t1 := (t.modRel fun r => { r with consent := uAt b.payload 0 1 == 1 }).evalDecision
    t1.post mb Status.ok (leBytes 1 (decisionCode t1.rel.st) ++ leBytes 1 (bit t1.rel.consent) ++ zeros 2)))

/-- rel.revoke is refused while LOCKED or ARMED (R237). -/
def preRelRevoke (s : State) (_ : Mailbox) : Option Nat := refuseIf (!s.rel.st.permits) Status.invalid

/-- REL_REVOKE (R227). -/
def execRelRevoke (mb : Nat) (s : State) : Host.Outcome State Fault Refusal :=
  .next (s.perform mb 0x0802 (checked (fun _ => true) preRelRevoke) (fun _ t =>
    let t1 := t.addCause causeHost
    t1.post mb Status.ok t1.relBody))

/-- rel.cancel is refused when HOST is not pending, or after step 3 of R231 (R237). -/
def preRelCancel (s : State) (_ : Mailbox) : Option Nat :=
  refuseIf (!s.rel.cause causeHost || s.rel.clearing) Status.invalid

/-- REL_CANCEL (R227, R228). -/
def execRelCancel (mb : Nat) (s : State) : Host.Outcome State Fault Refusal :=
  .next (s.perform mb 0x0803 (checked (fun _ => true) preRelCancel) (fun _ t =>
    let t1 := (t.dropCause causeHost).evalDecision
    t1.post mb Status.ok t1.relBody))

/-- An elapsed time in ms for rel.status, 0 where nothing runs. -/
def State.elapsedMs (s : State) (since : Option Nat) : Nat :=
  match since with
  | some t => min ((s.now - t) / 1000000) 0xFFFFFFFF
  | none => 0

/-- The body of rel.status. -/
def State.relStatus (s : State) : List Byte :=
  let r := s.rel
  let mode := bit r.storage + 128 * bit r.modeWait
  let fb := bit r.fbHigh + 2 * bit r.fbLow + 4 * bit r.fbWave + 8 * bit r.sstlCond
  let halves := bit s.standstillHalf + 2 * bit s.currentHalf + 4 * bit s.currentValid
  let clearNs := if r.st = .revoking then r.since + s.cfgN recRelease 5 * 100000000 + s.eps r.since else 0
  leBytes 1 (decisionCode r.st) ++ leBytes 1 r.causes.toNat ++ leBytes 1 (bit r.consent) ++ leBytes 1 mode ++
    leBytes 1 fb ++ leBytes 1 halves ++ leBytes 1 (bit r.latch) ++ zeros 1 ++
    leBytes 4 (if r.storage then 0 else s.elapsedMs r.still) ++ leBytes 4 (s.elapsedMs r.quiet) ++
    leBytes 8 r.grantId ++ leBytes 8 r.grantNs ++ leBytes 4 r.grantEpoch ++ leBytes 1 r.grantZone ++ zeros 3 ++
    leBytes 8 clearNs ++ leBytes 4 s.tbu.epoch ++ zeros 4

/-- REL_STATUS. -/
def execRelStatus (mb : Nat) (s : State) : Host.Outcome State Fault Refusal :=
  .next (s.perform mb 0x0804 (checked (fun _ => true) noPre) (fun _ t => t.post mb Status.ok t.relStatus))

end Sys2Proof.Machine
end

