-- ==== Sys2Proof/Machine/MeterRows.lean ====
section
/-!
DEFINITION. The rows of metering (11_metering_and_moraine): samples, means and stuck inputs, which the release decision
follows, and the ledg commands.
-/
namespace Sys2Proof.Machine

/-- Nothing below PD0 runs in Nunatak hold or before boot has completed, and PD13 must be powered, and its pads released, to
meter (R300, R305, R474, R498). -/
def State.metering (s : State) : Bool :=
  s.pdOn 13 && !s.pad.frz.getLsbD 13 && s.psc.state != .nunatakHold && s.boot.phase == .running

/-- A mean's end (R226, R306, R308): the conditions are judged, and the run of the current half continues, begins or breaks. -/
def State.closeMean (s : State) : State :=
  let s1 := (s.modMet fun m => { m with meanOk := true }).clearOverloads.judgeDisagree
  let low : Bool := s1.currentValid && s.met.below5 0 && s.met.below5 1
  let s2 := s1.modRel fun r => { r with quiet := if low then (if r.quiet.isSome then r.quiet else some s.now) else none }
  let s3 := if s.aboveIdle then s2.modMet fun m => { m with above := some s.now } else s2
  s3.modMet fun m => { m with n := 0, sums := [0, 0, 0, 0], overIn := 0, spoiled := 0 }

/-- The meaning of MEAN_END (R226): a mean of 128 samples is closed, and the rule is evaluated. -/
def doMeanEnd (s : State) : State := if s.met.n < 128 then s else s.closeMean.evalRule

/-- MEAN_END. -/
def execMeanEnd (s : State) : Host.Outcome State Fault Refusal := .next (doMeanEnd s)

/-- The meaning of SSTL_EDGE (R226, R237): a mean that ends with the edge is closed too before the transition is chosen. -/
def doSstlEdge (b level : Bool) (s : State) : State :=
  ((if s.met.n < 128 then s else s.closeMean).sstlLevel b level).evalRule

/-- SSTL_EDGE. -/
def execSstlEdge (b level : Bool) (s : State) : Host.Outcome State Fault Refusal := .next (doSstlEdge b level s)

/-- The four filters' outputs as they enter the 51.2 µs delay (R302): none for an input whose pair has a STUCK input or whose
output is discarded. -/
def Met.admitted (m : Met) (ys : List Nat) : List (Option Nat) :=
  (List.range 4).map fun n =>
    let stuck := m.stuck.getLsbD n || m.stuck.getLsbD ((n + 2) % 4)
    if stuck || m.discard.getD n 0 != 0 then none else some (ys.getD n 0)

/-- Some pair has both its samples. -/
def somePair (ys : List (Option Nat)) : Bool :=
  [false, true].any fun b => (ys.getD (pairInputs b).1 none).isSome && (ys.getD (pairInputs b).2 none).isSome

/-- Metering resumes with the first samples that are not discarded (R305, R316). -/
def State.resumeMeter (s : State) : State :=
  match s.met.stopped with
  | some t =>
    ((s.intervalFlag 3).intervalFlag 4).modMet fun m => { m with unmetered := m.unmetered + (s.now - t), stopped := none }
  | none => s

/-- A sample enters the delay, and the one that entered 51.2 µs ago is integrated (R302). -/
def State.throughDelay (ys : List (Option Nat)) (s : State) : State :=
  match s.met.waiting ++ [ys] with
  | a :: b :: c :: d :: e :: rest => (s.modMet fun m => { m with waiting := b :: c :: d :: e :: rest }).integrate a
  | q => s.modMet fun m => { m with waiting := q }

/-- The outputs of the four filters for the bits of one sample period, and the filters after them (R302). -/
def Met.filtered (m : Met) (bits : List (BitVec 256)) : List (Nat × Sinc) :=
  (List.range 4).map fun n => (m.filters.getD n {}).window (bits.getD n 0)

/-- The meaning of METER_SAMPLE (R302, R304, R306, R307): the bits of MDAT0 to MDAT3 pass the filters. -/
def doMeterSample (m0 m1 m2 m3 : BitVec 256) (s : State) : State :=
  if !s.metering then s
  else
    let s0 := doMeanEnd s
    let q := s0.met.filtered [m0, m1, m2, m3]
    let ys := s0.met.admitted (q.map (·.1))
    let s1 := s0.modMet fun m => { m with filters := q.map (·.2), discard := m.discard.map (· - 1) }
    let s2 := (List.range 4).foldl (fun (t : State) n =>
      match ys.getD n none with
      | some y => if overloads y then t.setOverload n true else t
      | none => t) s1
    if s2.met.stopped.isSome && !somePair ys then s2
    else (s2.resumeMeter.throughDelay ys).ownCauses

/-- METER_SAMPLE. -/
def execMeterSample (m0 m1 m2 m3 : BitVec 256) (s : State) : Host.Outcome State Fault Refusal :=
  .next (doMeterSample m0 m1 m2 m3 s)

/-- The meaning of INPUT_STUCK (R302, R306): STUCK, and every sample of the pair still in the delay is withdrawn. -/
def doInputStuck (n : Nat) (s : State) : State :=
  if !s.metering || decide (3 < n) || s.met.stuck.getLsbD n then s
  else
    let gone := fun (ys : List (Option Nat)) => (ys.set n none).set ((n + 2) % 4) none
    (s.modMet fun m => { m with waiting := m.waiting.map gone }).setStuck n true

/-- INPUT_STUCK. -/
def execInputStuck (input : Nat) (s : State) : Host.Outcome State Fault Refusal := .next (doInputStuck input s)

/-- The meaning of TRANSITIONS_RESUME (R302, R306): STUCK clears, and the input's first three outputs are discarded. -/
def doTransitionsResume (n : Nat) (s : State) : State :=
  if !s.metering || !s.met.stuck.getLsbD n then s
  else (s.setStuck n false).modMet fun m => { m with discard := m.discard.set n 3 }

/-- TRANSITIONS_RESUME. -/
def execTransitionsResume (input : Nat) (s : State) : Host.Outcome State Fault Refusal :=
  .next (doTransitionsResume input s)

/-! ### The ledg commands -/

/-- The four counters as reported. -/
def Counters.bytes (c : Counters) : List Byte := leBytes 8 c.eDis ++ leBytes 8 c.eChg ++ leBytes 8 c.qDis ++ leBytes 8 c.qChg

/-- The body of ledg.energy. -/
def State.energyBody (s : State) : List Byte :=
  let m := s.met
  let billing := match m.billingPair with | some false => 0 | some true => 1 | none => 0xFF
  let g := m.grace.getD (0, 0)
  m.pairA.bytes ++ m.pairB.bytes ++ leInt 8 m.balance ++ leBytes 8 g.1 ++ leBytes 4 g.2 ++ leBytes 1 billing ++
    leBytes 1 (bit s.creditMet) ++ leBytes 1 (bit s.currentValid) ++ zeros 1 ++ leBytes 2 m.cond ++ zeros 2 ++
    leBytes 4 s.tbu.epoch ++ leBytes 8 s.now ++ leBytes 4 s.unc ++ zeros 4 ++ m.billing.bytes

/-- LEDG_ENERGY (R320). -/
def execLedgEnergy (mb : Nat) (s : State) : Host.Outcome State Fault Refusal :=
  .next (s.perform mb 0x0B01 (checked (fun _ => true) noPre) (fun _ t =>
    let old : Bool := match t.met.grace with | some g => g.2 != t.tbu.epoch | none => false
    let degraded := old || decide (t.cfgN recMetering 19 < t.unc)
    t.post mb (if degraded then Status.timeDegraded else Status.ok) t.energyBody))

/-- The body of ledg.status. -/
def State.ledgerBody (s : State) : List Byte :=
  let l := s.ledger
  leBytes 4 l.tail ++ leBytes 4 l.head ++ leBytes 2 l.freeCount ++ leBytes 1 (bit l.lowSpace) ++
    leBytes 1 (min 255 ((l.pair.map fun p => max p.1.aux p.2.aux).getD 0)) ++ l.tally.flatMap (leBytes 2) ++
    leBytes 2 l.queue.length ++ leBytes 4 l.lost ++ zeros 4

/-- LEDG_STATUS (R316, R317). -/
def execLedgStatus (mb : Nat) (s : State) : Host.Outcome State Fault Refusal :=
  .next (s.perform mb 0x0B02 (checked (fun _ => true) noPre) (fun _ t => t.post mb Status.ok t.ledgerBody))

/-- The payload of ledg.export is in range. -/
def wfLedgExport (p : List Byte) : Bool := decide (1 ≤ uAt p 4 2) && decide (uAt p 4 2 ≤ 1024) && zeroAt p 6 2

/-- ledg.export needs a held seq (R320). -/
def preLedgExport (s : State) (b : Mailbox) : Option Nat :=
  refuseIf (decide (uAt b.payload 0 4 < s.ledger.tail) || decide (s.ledger.head ≤ uAt b.payload 0 4)) Status.invalid

/-- LEDG_EXPORT (R316, R321): held entries from a seq, into the window. -/
def execLedgExport (mb : Nat) (s : State) : Host.Outcome State Fault Refusal :=
  .next (s.perform mb 0x0B03 (checked wfLedgExport preLedgExport) (fun b t =>
    let p := b.payload
    let es := (t.ledger.ring.drop (uAt p 0 4 - t.ledger.tail)).take (uAt p 4 2)
    let seqOf := fun (e : Option Entry) => (e.map (·.seq)).getD 0
    (t.toWindow b (uAt p 8 4) (es.flatMap Entry.full)).post mb Status.ok
      (leBytes 2 es.length ++ zeros 2 ++ leBytes 4 (seqOf es.head?) ++ leBytes 4 (seqOf es.getLast?))))

/-- Low-space mode ends once the free count exceeds 1,024 (R317): the pending pair is appended with flag 0 set, then a TALLY. -/
def State.lowEnd (s : State) : State :=
  if s.ledger.lowSpace && decide (1024 < s.ledger.freeCount) then
    let s1 := (s.modLedger fun l => { l with lowSpace := false, pair := none }).raise 7 2
    let s2 := match s.ledger.pair with
      | some p => s1.ledgerPair { p.1 with flags := p.1.flags ||| 1 } { p.2 with flags := p.2.flags ||| 1 }
      | none => s1
    let s3 := if s2.ledger.head = s.ledger.head then s2 else s2.raise 7 6
    s3.tallyDue
  else s

/-- ledg.ack refuses a seq at or above head (R320). -/
def preLedgAck (s : State) (b : Mailbox) : Option Nat :=
  refuseIf (decide (s.ledger.head ≤ uAt b.payload 0 4)) Status.invalid

/-- LEDG_ACK (R316, R317): every entry at or below the seq is freed. -/
def execLedgAck (mb : Nat) (s : State) : Host.Outcome State Fault Refusal :=
  .next (s.perform mb 0x0B04 (checked (fun _ => true) preLedgAck) (fun b t =>
    let k := uAt b.payload 0 4
    let t1 := (t.modLedger fun l => { l with ring := l.ring.filter fun e => decide (k < e.seq) }).lowEnd
    t1.post mb Status.ok (leBytes 4 t1.ledger.tail ++ leBytes 2 t1.ledger.freeCount ++ zeros 2)))

/-- Check 1 of R311. -/
def creditForm (p : List Byte) : Bool :=
  uAt p 0 1 == 0x51 && (uAt p 1 1 == 1 || uAt p 1 1 == 2) && zeroAt p 2 2 &&
    (if uAt p 1 1 = 1 then decide (0 < iAt p 24 8) else decide (-(2 ^ 62) ≤ iAt p 24 8))

/-- The last seq accepted from a lessor (R311). -/
def State.lastSeq (s : State) (lessor : Nat) : Nat := ((s.parts.lessorSeq.find? fun q => q.1 == lessor).map (·.2)).getD 0

/-- The checks of R311 in order: the first status that fails, none where the message passes. -/
def State.creditCheck (s : State) (p : List Byte) : Option Nat :=
  let lessor := uAt p 16 8
  if !creditForm p || uAt p 8 8 != Config.deviceIdentity then some Status.invalid
  else
    match s.rec? lessor with
    | some r =>
      if r.state ≠ .enrolled ∨ r.role ≠ 0x40 then some Status.denied
      else if s.identityLocked lessor then some Status.lockedOut
      else
        match s.partnerKey r 0x0401 128 with
        | some k =>
          if (Aes.cmac k (p.take 40)).take 12 ≠ slice p 40 12 then some Status.tagFail
          else if uAt p 4 4 ≤ s.lastSeq lessor then some Status.denied
          else none
        | none => some Status.keyRevoked
    | none => some Status.denied

/-- A credit message that passed every check is applied (R62, R309, R311, R321): balance and seq are committed together, and
CREDIT is withdrawn when the input is met again. -/
def State.applyCredit (p : List Byte) (s : State) : State :=
  let lessor := uAt p 16 8
  let amount := iAt p 24 8
  let s1 := s.setBalance (if uAt p 1 1 = 2 then amount else s.met.balance + amount)
  let s2 := (s1.modParts fun x =>
    { x with lessorSeq := (x.lessorSeq.filter fun q => q.1 != lessor) ++ [(lessor, uAt p 4 4)] }).modMet fun m =>
    { m with comBalance := m.balance, comGrace := m.grace }
  let s3 := ((s2.ledgerAdd 0x60 (uAt p 1 1) (slice p 4 4 ++ slice p 24 8 ++ slice p 32 8)).raise 7 4).verifiedExchange lessor
  (if s3.creditMet then s3.dropCause causeCredit else s3).evalDecision

/-- A refused credit message: a tag failure is counted, a replay is appended, and the refusal is raised (R311). -/
def State.refuseCredit (p : List Byte) (st : Nat) (s : State) : State :=
  let lessor := uAt p 16 8
  let s1 :=
    if st = Status.tagFail then s.countFailure 4 0x51 lessor none
    else if st = Status.denied ∧ ((s.rec? lessor).map fun r => r.state == .enrolled && r.role == 0x40) = some true then
      s.ledgerAdd 0x61 (uAt p 1 1) (slice p 4 4 ++ leBytes 4 (s.lastSeq lessor) ++ leBytes 8 lessor)
    else s
  s1.raise 7 5

/-- A credit message reaches check 5 of R311, so that a key must be derived. -/
def State.creditKeyed (s : State) (p : List Byte) : Bool :=
  creditForm p && uAt p 8 8 == Config.deviceIdentity && !s.identityLocked (uAt p 16 8) &&
    match s.rec? (uAt p 16 8) with
    | some r => r.state == .enrolled && r.role == 0x40
    | none => false

/-- ledg.credit waits for the unseal while its key must be derived; its deadline runs on (R287). -/
def State.creditWaits (s : State) (mb : Nat) : Bool :=
  s.crypt.sealed && s.creditKeyed (s.box mb).payload && decide (s.now ≤ (s.box mb).limit)

/-- LEDG_CREDIT (R310, R311). -/
def execLedgCredit (mb : Nat) (s : State) : Host.Outcome State Fault Refusal :=
  .next (if s.creditWaits mb then s else s.perform mb 0x0B05 (checked (fun _ => true) noPre) (fun b t =>
    let p := b.payload
    let t0 := if creditForm p then t.evalIdentity (uAt p 16 8) else t
    match t0.creditCheck p with
    | some st => (t0.refuseCredit p st).post mb st []
    | none =>
      let t1 := t0.applyCredit p
      t1.post mb Status.ok (leInt 8 t1.met.balance ++ slice p 4 4 ++ leBytes 1 (bit t1.creditMet) ++ zeros 3)))

end Sys2Proof.Machine
end

