-- ==== Sys2Proof/Machine/Modes.lean ====
section
/-!
DEFINITION. The modes of R242 (09_cipher_engine) taken one segment at a time: the chaining state of a message at its start,
after a segment, and the tag it ends with.
-/
namespace Sys2Proof.Machine

/-- CTR. -/
def modeCtr : Nat := 1
/-- CCM. -/
def modeCcm : Nat := 2
/-- GCM. -/
def modeGcm : Nat := 3
/-- GMAC. -/
def modeGmac : Nat := 4
/-- CMAC. -/
def modeCmac : Nat := 5
/-- KW. -/
def modeKw : Nat := 6

/-- A counter block advanced by `n` in its last `k` bytes. -/
def counterAdd (k n : Nat) (b : List Byte) : List Byte := b.take (16 - k) ++ beBytes k ((beNat (b.drop (16 - k)) + n) % 2 ^ (8 * k))

/-- Bytes of the counter in a counter block of a mode. -/
def counterLen (mode nonceLen : Nat) : Nat := if mode = modeCcm then 15 - nonceLen else 4

/-- Data enciphered with the key stream from a counter block. -/
def streamFrom (key : List Byte) (k : Nat) (b data : List Byte) : List Byte :=
  xorBytes data (Aes.stream key (fun i => counterAdd k i b) (ceilDiv data.length 16))

/-- GHASH continued from an accumulator. -/
def ghashFrom (key x : List Byte) (bs : List (List Byte)) : List Byte :=
  let h := beNat (Aes.encBlock key (zeros 16))
  beBytes 16 (bs.foldl (fun a b => Aes.ghMul (a ^^^ beNat (fit 16 b)) h) (beNat x))

/-- The first blocks of CCM's CBC-MAC: the header for a payload of `len` bytes and the associated data. -/
def ccmHead (nonce aad : List Byte) (len tagLen : Nat) : List (List Byte) :=
  let q := 15 - nonce.length
  let flags := (if aad = [] then 0 else 64) + 8 * ((tagLen - 2) / 2) + (q - 1)
  let a :=
    if aad = [] then []
    else if aad.length < 0xFF00 then beBytes 2 aad.length ++ aad
    else [0xFF, 0xFE] ++ beBytes 4 aad.length ++ aad
  (BitVec.ofNat 8 flags :: nonce ++ beBytes q len) :: Aes.blocks a

/-- The chaining state at the start of a message whose data will be `len` bytes. -/
def chainStart (mode : Nat) (key nonce aad : List Byte) (len tagLen : Nat) : Chaining :=
  match mode with
  | 1 => { b := fit 12 nonce ++ beBytes 4 1 }
  | 2 =>
    { x := Aes.cbcMac key (zeros 16) (ccmHead nonce aad len tagLen), b := Aes.ccmCtr nonce 1, aadLen := aad.length }
  | 3 => { x := ghashFrom key (zeros 16) (Aes.blocks aad), b := fit 12 nonce ++ beBytes 4 2, aadLen := aad.length }
  | 4 => { x := ghashFrom key (zeros 16) (Aes.blocks aad), aadLen := aad.length }
  | 5 => { x := zeros 16 }
  | _ => {}

/-- The output of a segment. -/
def chainOut (mode : Nat) (key : List Byte) (nonceLen : Nat) (c : Chaining) (data : List Byte) : List Byte :=
  if mode = modeCtr ∨ mode = modeCcm ∨ mode = modeGcm then streamFrom key (counterLen mode nonceLen) c.b data else []

/-- CMAC's running value over all but the last block, and that block held back (R252). -/
def cmacStep (key : List Byte) (c : Chaining) (data : List Byte) : Chaining :=
  let buf := c.b ++ data
  let n := ceilDiv buf.length 16
  let head := (Aes.blocks buf).take (n - 1)
  { c with x := Aes.cbcMac key c.x head, b := buf.drop (16 * (n - 1)), done := c.done + data.length }

/-- The chaining state after a segment; `out` is its output, `enc` its direction. -/
def chainStep (mode : Nat) (enc : Bool) (key : List Byte) (nonceLen : Nat) (c : Chaining) (data out : List Byte) : Chaining :=
  let b' := counterAdd (counterLen mode nonceLen) (ceilDiv data.length 16) c.b
  match mode with
  | 1 => { c with b := b', done := c.done + data.length }
  | 2 => { c with x := Aes.cbcMac key c.x (Aes.blocks (if enc then data else out)), b := b', done := c.done + data.length }
  | 3 => { c with x := ghashFrom key c.x (Aes.blocks (if enc then out else data)), b := b', done := c.done + data.length }
  | 4 => { c with x := ghashFrom key c.x (Aes.blocks data), done := c.done + data.length }
  | 5 => cmacStep key c data
  | _ => { c with raw := c.raw ++ data, done := c.done + data.length }

/-- The last block of CMAC with its subkey (SP 800-38B). -/
def cmacEnd (key : List Byte) (c : Chaining) : List Byte :=
  let k1 := Aes.dbl (Aes.encBlock key (zeros 16))
  let m := if c.b.length = 16 then xorBytes c.b k1 else xorBytes (fit 16 (c.b ++ [0x80])) (Aes.dbl k1)
  Aes.encBlock key (xorBytes c.x m)

/-- The tag of a message, from its chaining state after the last segment (R242). -/
def chainTag (mode : Nat) (key nonce : List Byte) (c : Chaining) (tagLen : Nat) : List Byte :=
  let close := fun (a n : Nat) =>
    xorBytes (ghashFrom key c.x [beBytes 8 (8 * a) ++ beBytes 8 (8 * n)]) (Aes.encBlock key (fit 12 nonce ++ beBytes 4 1))
  (match mode with
    | 2 => xorBytes c.x (Aes.encBlock key (Aes.ccmCtr nonce 0))
    | 3 => close c.aadLen c.done
    | 4 => close (c.aadLen + c.done) 0
    | 5 => cmacEnd key c
    | _ => []).take tagLen

end Sys2Proof.Machine
end

