-- ==== Sys2Proof/Machine/Cipher.lean ====
section
/-!
DEFINITION. The cipher engine's channels (09_cipher_engine, 10_keys_and_contexts): descriptors, admission, suspension,
completion, held pages, the scrubs of erasures, and the commands crypt.chan, crypt.submit and crypt.done.
-/
namespace Sys2Proof

open Machine

/-! ### Descriptors (R242, R243, R249) -/

/-- The op fits the mode (R242). -/
def Desc.opFits (d : Desc) : Bool :=
  (decide (1 ≤ d.mode ∧ d.mode ≤ 3) && (d.op == 1 || d.op == 2)) ||
    ((d.mode == 4 || d.mode == 5) && (d.op == 3 || d.op == 4)) || (d.mode == 6 && (d.op == 5 || d.op == 6))

/-- A tag length of the mode (R242). -/
def Machine.tagFits (mode n : Nat) : Bool :=
  match mode with
  | 2 => decide (4 ≤ n) && decide (n ≤ 16) && n % 2 == 0
  | 3 => n == 4 || n == 8 || (decide (12 ≤ n) && decide (n ≤ 16))
  | 4 => n == 4 || n == 8 || (decide (12 ≤ n) && decide (n ≤ 16))
  | 5 => decide (1 ≤ n) && decide (n ≤ 16)
  | _ => n == 0

/-- A nonce length of the mode (R242, R249). -/
def Machine.nonceFits (mode n : Nat) : Bool :=
  match mode with
  | 1 => n == 12
  | 2 => decide (7 ≤ n) && decide (n ≤ 13)
  | 3 => n == 12
  | 4 => n == 12
  | _ => n == 0

/-- An op that creates a nonce-bearing output (R243). -/
def Desc.makesNonce (d : Desc) : Bool :=
  (d.op == 1 && decide (1 ≤ d.mode ∧ d.mode ≤ 3)) || (d.op == 3 && d.mode == 4)

/-- An op whose nonce is received (R243). -/
def Desc.takesNonce (d : Desc) : Bool := decide (d.nonceLen ≠ 0) && !d.makesNonce

/-- CCM or GCM decrypt, or KW unwrap (R255). -/
def Desc.authDec (d : Desc) : Bool := (d.op == 2 && (d.mode == 2 || d.mode == 3)) || d.op == 6

/-- An op that compares a received tag (R244). -/
def Desc.takesTag (d : Desc) : Bool := (d.op == 2 && (d.mode == 2 || d.mode == 3)) || d.op == 4

/-- An op that writes a tag. -/
def Desc.givesTag (d : Desc) : Bool := (d.op == 1 && (d.mode == 2 || d.mode == 3)) || d.op == 3

/-- The segment begins a message (R249). -/
def Desc.begins (d : Desc) : Bool := d.seg == 3 || d.seg == 1

/-- The segment ends a message (R249). -/
def Desc.ends (d : Desc) : Bool := d.seg == 3 || d.seg == 2

/-- Bytes that the segment writes at dst (R249): KW adds or takes away 8 bytes with its last segment (R255). -/
def Desc.outLen (d : Desc) : Nat :=
  if d.op = 5 ∧ d.ends = true then d.dataLen + 8
  else if d.op = 6 ∧ d.ends = true then d.dataLen - 8
  else if d.mode = 4 ∨ d.mode = 5 then 0
  else d.dataLen

/-- The ranges the segment reads, as address and length; an empty one is none. -/
def Desc.reads (d : Desc) : List (Nat × Nat) :=
  ([(d.src, d.dataLen)] ++ (if d.begins then [(d.aad, d.aadLen)] else []) ++
    (if d.takesNonce && d.begins then [(d.nonce, d.nonceLen)] else []) ++
    (if d.takesTag && d.ends then [(d.tag, d.tagLen)] else [])).filter fun p => p.2 != 0

/-- The ranges the segment writes, as address and length; an empty one is none. -/
def Desc.writes (d : Desc) : List (Nat × Nat) :=
  ([(d.dst, d.outLen)] ++ (if d.makesNonce && d.begins then [(d.nonce, d.nonceLen)] else []) ++
    (if d.givesTag && d.ends then [(d.tag, d.tagLen)] else [])).filter fun p => p.2 != 0

/-- The data of the present segment in pipeline blocks (R248). -/
def Desc.blocks (d : Desc) : Nat := ceilDiv d.dataLen 16

/-- The op puts its output out whole with its last segment (log 18). -/
def Desc.late (d : Desc) : Bool := d.mode == 6

/-- The descriptor that 64 bytes spell (R249). -/
def Desc.ofBytes (p : List Byte) : Desc :=
  let flags := uAt p 3 1
  { op := uAt p 0 1, mode := uAt p 1 1, keyLen := uAt p 2 1
    urgent := flags.testBit 0, seg := flags / 2 % 4, notify := flags.testBit 3
    context := uAt p 4 2, slot := uAt p 6 1 % 16, tagLen := uAt p 7 1
    identity := uAt p 8 8, keyEpoch := uAt p 16 4, role := uAt p 20 1, purpose := uAt p 22 2
    aadLen := uAt p 24 4, dataLen := uAt p 28 4, src := uAt p 32 4, dst := uAt p 36 4
    aad := uAt p 40 4, tag := uAt p 44 4, nonce := uAt p 48 4, nonceLen := uAt p 52 1
    msgLen := uAt p 56 4, seq := uAt p 60 4
    reserved := flags / 16 + uAt p 6 1 / 16 + uAt p 21 1 + uAt p 53 3 }

/-- The longest message of a mode in bytes (R291). -/
def Machine.messageLimit (mode nonceLen : Nat) : Option Nat :=
  match mode with
  | 1 => some (16 * (2 ^ 32 - 1))
  | 2 => some (2 ^ (8 * (15 - nonceLen)) - 1)
  | 3 => some (16 * (2 ^ 32 - 2))
  | 4 => some (16 * (2 ^ 32 - 2))
  | _ => none

/-- A message of the length exceeds the mode's limit (R291). -/
def Machine.overLimit (mode nonceLen len : Nat) : Bool :=
  match messageLimit mode nonceLen with
  | some n => decide (n < len)
  | none => false

/-- The segment rules of R252 that one descriptor shows by itself. -/
def Desc.segFits (d : Desc) (streaming : Bool) : Bool :=
  (streaming || d.seg == 3) &&
    (d.ends || (decide (d.dataLen ≠ 0) && d.dataLen % 16 == 0)) &&
    (d.begins || d.aadLen == 0) &&
    ((d.mode == 2 && d.seg == 1) || d.msgLen == 0) &&
    (streaming || decide (d.dataLen ≤ 16777216))

/-- The descriptor's own fields keep R242, R250 and R291. -/
def Desc.wf (d : Desc) (streaming : Bool) : Bool :=
  d.opFits && (d.keyLen == 16 || d.keyLen == 24 || d.keyLen == 32) && tagFits d.mode d.tagLen &&
    nonceFits d.mode d.nonceLen && d.reserved == 0 && (!d.makesNonce || d.context != 0xFFFF) && d.segFits streaming &&
    (d.mode != 6 || (d.dataLen % 8 == 0 && decide (16 ≤ d.dataLen))) &&
    !overLimit d.mode d.nonceLen (max d.dataLen d.msgLen)

/-- The schedule label of a message: the KDF input of its key (R281, R283). -/
def Desc.label (d : Desc) : List Byte :=
  beBytes 2 d.purpose ++ beBytes 8 d.identity ++ beBytes 1 d.role ++ beBytes 4 d.keyEpoch

end Sys2Proof

namespace Sys2Proof.Machine

open Sys2Proof

/-! ### Channels -/

/-- A channel. -/
def State.chan (s : State) (c : Nat) : Chan := s.crypt.chans.getD c {}

/-- A channel updated. -/
def State.modChan (c : Nat) (f : Chan → Chan) (s : State) : State :=
  s.modCrypt fun x => { x with chans := x.chans.modify c f }

/-- A context by number (R292). -/
def State.ctx? (s : State) (n : Nat) : Option Context := s.crypt.contexts.find? fun c => c.num == n

/-- A context updated. -/
def State.modCtx (n : Nat) (f : Context → Context) (s : State) : State :=
  s.modCrypt fun x => { x with contexts := x.contexts.map fun c => if c.num == n then f c else c }

/-- The descriptor with slot and label as its context gives them (R249, R292). -/
def State.effective (s : State) (d : Desc) : Desc :=
  match (if d.context = 0xFFFF then none else s.ctx? d.context) with
  | some c =>
    { d with slot := c.slot, identity := c.identity, keyEpoch := c.keyEpoch, role := c.role, purpose := c.purpose }
  | none => d

/-- The descriptor carries its context's parameters (R292). -/
def State.ctxFits (s : State) (d : Desc) (host : Bool) : Bool :=
  d.context == 0xFFFF ||
    match s.ctx? d.context with
    | some c =>
      c.mode == d.mode && c.keyLen == d.keyLen && c.tagLen == d.tagLen && c.nonceLen == d.nonceLen &&
        (decide (0x40 ≤ d.context) == host)
    | none => false

/-- What Axiesis may derive for a purpose from a slot of a class (R276, R282); a slot never written has none, and yields no key
at the admission. -/
def axiesisMay (cls : Nat) (d : Desc) : Bool :=
  match cls with
  | 0 => true
  | 1 => !List.contains [0x0101, 0x0201, 0x0301, 0x0401, 0x0601] d.purpose
  | 2 => d.purpose != 0x0001 && d.purpose != 0x0601
  | 3 => d.mode == 5 && d.op == 4 && d.purpose == 0x0601
  | _ => false

/-- The key class forbids the descriptor (R276, R282). -/
def State.classDenies (s : State) (d0 : Desc) (host : Bool) : Bool :=
  let d := s.effective d0
  let cls := (s.slot d.slot).cls
  if host then decide (1 ≤ cls ∧ cls ≤ 3) || decide (d.purpose < 0x1000)
  else !axiesisMay cls d || decide (0x0F00 ≤ d.purpose)

/-- The last segment placed for messages of the descriptor's urgency: the queue's, or the message's in progress. -/
def Chan.tailSeg (x : Chan) (urgent : Bool) : Option Nat :=
  match (x.queue.filter fun q => q.desc.urgent == urgent).getLast? with
  | some q => some q.desc.seg
  | none =>
    match (match x.cur with | some m => if m.desc.urgent == urgent then some m else x.susp | none => x.susp) with
    | some m => if m.desc.urgent == urgent then some m.desc.seg else none
    | none => none

/-- The descriptor takes its place in a message: a first or whole one where none is open, a later one where one is (R252). -/
def Chan.inOrder (x : Chan) (d : Desc) : Bool :=
  let open_ := match x.tailSeg d.urgent with | some g => g == 1 || g == 0 | none => false
  if d.begins then !open_ else open_

/-- A later segment continues a message in progress that a restored context carries and no channel runs (R294, R296). -/
def State.detached (s : State) (d : Desc) : Bool :=
  let here := fun (o : Option Msg) => match o with
    | some m => m.desc.context == d.context
    | none => false
  !d.begins && (match (if d.context = 0xFFFF then none else s.ctx? d.context) with | some c => c.inProgress | none => false) &&
    !s.crypt.chans.any fun x => here x.cur || here x.susp

/-- The status with which a descriptor is refused before any effect (R250), its addresses apart. The class is judged where a
message begins: a later segment runs on the key that its message is bound to (R284, R298). -/
def State.descRefused (s : State) (c : Nat) (d : Desc) (host : Bool) : Option Nat :=
  let x := s.chan c
  if !d.wf x.streaming || !s.ctxFits d host || (x.streaming && !x.inOrder d && !s.detached d) then some Status.invalid
  else if host && decide (c < 16) then some Status.denied
  else refuseIf ((d.begins || s.detached d) && s.classDenies d host) Status.denied

/-! ### The buffer pool (R245 to R247) -/

/-- A channel's reservation in buffers (R245). -/
def State.reservation (s : State) (c : Nat) : Nat :=
  if c < 8 then 24 else if c < 16 then 8 else s.cfgN recCipher (c - 15)

/-- Shared buffers a channel holds (R246). -/
def State.sharedHeld (s : State) (c : Nat) : Nat := (s.chan c).buffers - s.reservation c

/-- Buffers that a channel of 8 to 31 can still take: its reservation's, then shared ones up to shared_cap (R246). -/
def State.canTake (s : State) (c : Nat) : Nat :=
  let shared := 512 - ((List.range 32).map s.reservation).sum
  let used := ((List.range 32).map s.sharedHeld).sum
  (s.reservation c - (s.chan c).buffers) + min (s.cfgN recCipher 17 - s.sharedHeld c) (shared - used)

/-- Buffers that a channel can take for a message that has given its own back (R247, R253). -/
def State.roomFor (s : State) (c : Nat) : Nat := (s.modChan c fun x => { x with buffers := 0 }).canTake c

/-- Buffers that a segment holds for prefetch: at least 2 and at most 8 (R247). -/
def prefetch (len : Nat) : Nat := min 8 (max 2 (ceilDiv len 256))

/-! ### Issue slots (R248) -/

/-- What an issue slot goes to: a MACsec port and direction, or a channel of 8 to 31. -/
inductive Issue where
  | macsec (k : Nat)
  | chan (c : Nat)
  deriving DecidableEq, Repr

/-- The channel has a block ready. -/
def Chan.ready (x : Chan) : Bool :=
  match x.cur with
  | some m => decide (0 < m.left) && !m.stalled && m.ended.isNone
  | none => false

/-- The channel is running an URGENT message. -/
def Chan.urgentNow (x : Chan) : Bool :=
  match x.cur with
  | some m => m.desc.urgent
  | none => false

/-- The channels of 8 to 31 with a block ready. -/
def Crypt.readyChans (x : Crypt) : List Nat :=
  (List.range 32).filter fun c => decide (8 ≤ c) && (x.chans.getD c {}).ready

/-- The block of the second or third class that comes next: an URGENT message's, else that of the channel next in turn. -/
def Crypt.pickChan (x : Crypt) : Option Nat :=
  let cs := x.readyChans
  match cs.find? fun c => (x.chans.getD c {}).urgentNow with
  | some c => some c
  | none =>
    match cs.find? fun c => decide (x.rr < c) with
    | some c => some c
    | none => cs.head?

/-- What the next issue slot goes to (R248): a MACsec channel behind line rate, but not two slots running while another class
waits; then the other classes. -/
def Crypt.pick (x : Crypt) : Option Issue :=
  match (List.range 4).find? fun k => decide (0 < x.credit.getD k 0) with
  | some k =>
    match x.pickChan with
    | some c => if x.macLast then some (.chan c) else some (.macsec k)
    | none => some (.macsec k)
  | none => x.pickChan.map .chan

/-- One issue slot (R248). -/
def Crypt.issueSlot (x : Crypt) : Crypt :=
  match x.pick with
  | some (.macsec k) => { x with credit := x.credit.modify k (· - 1), macLast := true }
  | some (.chan c) =>
    { x with
      chans := x.chans.modify c fun y => { y with cur := y.cur.map fun m => { m with left := m.left - 1 } }
      rr := if (x.chans.getD c {}).urgentNow then x.rr else c, macLast := false }
  | none => x

/-- Issue slots until what `done` asks for has been issued, at most `n`. -/
def Crypt.issue (done : Crypt → Bool) : Nat → Crypt → Crypt
  | 0, x => x
  | n + 1, x => if done x then x else Crypt.issue done n x.issueSlot

/-- The blocks that wait to be issued. -/
def Crypt.waiting (x : Crypt) : Nat :=
  (x.readyChans.map fun c => ((x.chans.getD c {}).cur.getD {}).left).sum + x.credit.sum

/-- Issue slots until the present segment of a channel has been issued whole. -/
def State.issueChan (c : Nat) (s : State) : State :=
  s.modCrypt fun x => Crypt.issue (fun y => !(y.chans.getD c {}).ready) x.waiting x

/-- A frame of a MACsec port and direction: its blocks are issued, with what the arbiter issues between them (R248). -/
def State.issueMacsec (k len : Nat) (s : State) : State :=
  s.modCrypt fun x =>
    let y : Crypt := { x with credit := x.credit.modify k (· + ceilDiv len 16) }
    Crypt.issue (fun z => z.credit.getD k 0 == 0) y.waiting y

/-! ### Completion (R251, R256) -/

/-- The 16 bytes of a completion record (R251). -/
def CompRec.bytes (r : CompRec) : List Byte :=
  leBytes 2 r.status ++ leBytes 1 r.channel ++ leBytes 1 r.flags ++ leBytes 4 r.seq ++ leBytes 4 r.bytesDone ++
    leBytes 4 r.invocation

/-- A completion record reaches its requester: the mailbox, the host queue, or the Axiesis channel (R251, R453). -/
def State.deliverRec (r : CompRec) (host notify : Bool) (post : Option Nat) (s : State) : State :=
  let s1 := match post with
    | some mb => if (s.box mb).st = .issued then s.post mb r.status r.bytes else s
    | none =>
      if host then s.modCrypt fun x => { x with hostDone := x.hostDone ++ [r] }
      else s.modChan r.channel fun x => { x with done := x.done ++ [r] }
  if notify && decide (16 ≤ r.channel) then s1.raise 5 (r.channel - 16) else s1

/-- The record of a queued descriptor that ends before its message begins. -/
def QDesc.record (q : QDesc) (c st : Nat) : CompRec := { status := st, channel := c, seq := q.desc.seq }

/-- The record of a message's present segment (R251). -/
def Msg.record (m : Msg) (c st bytes : Nat) : CompRec :=
  { status := st, channel := c, flags := bit m.suspendedOnce + 2 * bit m.recomputed, seq := m.desc.seq,
    bytesDone := bytes, invocation := m.invocation % 2 ^ 32 }

/-- A host record has no place in the host completion queue (R453). -/
def State.noRoom (s : State) (host : Bool) (post : Option Nat) : Bool :=
  host && post.isNone && decide (64 ≤ s.crypt.hostDone.length)


/-- A message ends with a status: a failed authenticated decrypt is scrubbed, its held pages are released, its context's
message is over, and its record is posted (R251, R256). -/
def State.endMsg (c : Nat) (m : Msg) (st bytes : Nat) (s : State) : State :=
  let s1 := if m.desc.authDec && st != Status.ok then s.scrub m.outs else s
  let s2 := if m.desc.authDec then s1.dropHeld (m.outs.flatMap fun p => pagesOf p.1 p.2) else s1
  let s3 := if m.desc.context = 0xFFFF then s2 else
    s2.modCtx m.desc.context fun x => { x with inProgress := false, decrypting := false, ch := {}, msgNonce := [], msgLen := 0 }
  (s3.deliverRec (m.record c st bytes) m.host m.desc.notify m.post).dropShadow m.slot

/-- A channel without a present message resumes its suspended one with its schedule, unless an URGENT descriptor waits
(R238, R253). -/
def Chan.resume (x : Chan) : Chan :=
  if x.cur.isNone && x.susp.isSome && !(x.queue.any fun q => q.desc.urgent) then
    { x with cur := x.susp, susp := none, sched := x.suspSched, suspSched := none, buffers := 0 }
  else x

/-- The present message leaves its channel with its buffers (R246). -/
def Chan.afterMsg (x : Chan) : Chan := { x with cur := none, buffers := 0 }

/-- A message that runs again takes input buffers again (R247, R253). -/
def State.fillBuffers (c : Nat) (s : State) : State :=
  match (s.chan c).cur with
  | some m =>
    if (s.chan c).buffers = 0 ∧ m.segDone = false then
      s.modChan c fun x => { x with buffers := min (s.canTake c) (prefetch m.desc.dataLen) }
    else s
  | none => s

/-- A suspended message resumes where nothing holds it back any longer (R253). -/
def State.resumeChan (c : Nat) (s : State) : State :=
  let s1 := s.modChan c Chan.resume
  (if (s.chan c).susp.isSome && (s1.chan c).susp.isNone then s1.moveHeld (c + 32) c else s1).fillBuffers c

/-- The present message of a channel leaves it, and a suspended one resumes (R253). -/
def State.leave (c : Nat) (s : State) : State := (s.modChan c Chan.afterMsg).resumeChan c

/-- The present message of a channel completes. -/
def State.finish (c st bytes : Nat) (s : State) : State :=
  match (s.chan c).cur with
  | some m => (s.leave c).endMsg c m st bytes
  | none => s

/-- The segment of a descriptor's message that ended early: every queued later segment of it ends with the same status. -/
def Chan.dropSegs (x : Chan) (urgent : Bool) : List QDesc × List QDesc :=
  let rest := x.queue.filter fun q => q.desc.urgent == urgent
  let later := rest.takeWhile fun q => !q.desc.begins
  (later, x.queue.filter fun q => !later.contains q)

/-- A message that ends short of its last segment takes its queued segments with it (R252). -/
def State.finishAll (c st : Nat) (s : State) : State :=
  match (s.chan c).cur with
  | some m =>
    if m.desc.ends then s.finish c st 0
    else
      let p := (s.chan c).dropSegs m.desc.urgent
      let s1 := (s.modChan c fun x => { x with queue := p.2 }).finish c st 0
      p.1.foldl (fun t q => t.deliverRec (q.record c st) q.host q.desc.notify q.post) s1
  | none => s

/-! ### Queueing (R250, R252, R453) -/

/-- A descriptor takes its place in a channel's queue. -/
def State.placeDesc (c : Nat) (q : QDesc) (s : State) : State := s.modChan c fun x => { x with queue := x.queue ++ [q] }

/-- A message that must end ends now; a present one whose record has no room keeps the status until it has (R286, R453). -/
def State.killCur (c st : Nat) (s : State) : State :=
  match (s.chan c).cur with
  | none => s
  | some m =>
    if s.noRoom m.host m.post then s.modChan c fun x => { x with cur := some { m with ended := some st, stalled := false } }
    else s.finishAll c st

/-- A suspended message ends now (R262, R286). -/
def State.killSusp (c st : Nat) (s : State) : State :=
  match (s.chan c).susp with
  | none => s
  | some m =>
    let p := (s.chan c).dropSegs m.desc.urgent
    let s1 := (s.modChan c fun x =>
      { x with susp := none, suspSched := none, queue := if m.desc.ends then x.queue else p.2 }).endMsg c m st 0
    if m.desc.ends then s1
    else p.1.foldl (fun t q => t.deliverRec (q.record c st) q.host q.desc.notify q.post) s1

/-- A queued descriptor ends now, where its record has room (R286, R453). -/
def State.killQueued (c st : Nat) (s : State) (q : QDesc) : State :=
  if s.noRoom q.host q.post then s
  else (s.modChan c fun x => { x with queue := x.queue.erase q }).deliverRec (q.record c st) q.host q.desc.notify q.post

/-- The queued descriptors of the last message that is queued from its first segment on, of an urgency; none where the last
message of that urgency has begun to run. -/
def Chan.lastQueued (x : Chan) (urgent : Bool) : List QDesc :=
  let group := (x.queue.filter fun q => q.desc.urgent == urgent).reverse
  match group.findIdx? fun q => q.desc.begins with
  | some i => (group.take (i + 1)).reverse
  | none => []

/-- A refused segment that breaks the rules of its message ends that message with INVALID (R252): a message still queued, the
present one, or the suspended one. -/
def State.segBroken (c : Nat) (d : Desc) (s : State) : State :=
  let x := s.chan c
  let open_ := match x.tailSeg d.urgent with | some g => g == 1 || g == 0 | none => false
  if !x.streaming || !open_ || (d.wf true && x.inOrder d) then s
  else
    match x.lastQueued d.urgent with
    | [] =>
      let here := match x.cur with | some m => m.desc.urgent == d.urgent | none => false
      if here then s.killCur c Status.invalid else s.killSusp c Status.invalid
    | qs => qs.foldl (State.killQueued c Status.invalid) s

/-- A descriptor that a role places is refused: the role sees the status (R250). -/
def State.refuseDesc (c st : Nat) (s : State) : State := s.modChan c fun x => { x with refused := some st }

/-- The meaning of DESCRIPTOR_QUEUED (R249, R250): an Axiesis role places a descriptor on one of channels 8 to 15. -/
def doDescriptorQueued (c : Nat) (d : Desc) (s : State) : State :=
  if c < 8 ∨ 16 ≤ c then s
  else
    match s.descRefused c d false with
    | some st => (s.segBroken c d).refuseDesc c st
    | none =>
      if 16 ≤ (s.chan c).queue.length then s.refuseDesc c Status.busy
      else (s.placeDesc c { desc := d }).modChan c fun x => { x with refused := none }

/-- DESCRIPTOR_QUEUED. -/
def execDescriptorQueued (chan : Nat) (d : Desc) (s : State) : Host.Outcome State Fault Refusal :=
  .next (doDescriptorQueued chan d s)

/-! ### Admission (R247, R253, R283 to R290) -/

/-- The queued descriptor that the channel can take now, by index (R252, R253). -/
def Chan.nextIndex (x : Chan) : Option Nat :=
  let urgent := x.queue.findIdx? fun q => q.desc.urgent
  let plain := x.queue.findIdx? fun q => !q.desc.urgent
  match x.cur with
  | none =>
    match urgent with
    | some i => some i
    | none => if x.susp.isSome then none else plain
  | some m =>
    if !x.streaming || m.ended.isSome then none
    else if m.desc.urgent then
      (if m.segDone && !m.desc.ends then urgent else none)
    else
      match urgent with
      | some i => if x.susp.isNone then some i else none
      | none => if m.segDone && !m.desc.ends then plain else none

/-- A queued descriptor ends at once with a status. -/
def State.endQueued (c i st : Nat) (s : State) : State :=
  match (s.chan c).queue[i]? with
  | some q =>
    ((s.modChan c fun x => { x with queue := x.queue.eraseIdx i }).resumeChan c).deliverRec (q.record c st) q.host q.desc.notify
      q.post
  | none => s

/-- The physical pieces of one range of a descriptor: its window's for a host, its translation's for a role (R249). -/
def State.descPieces (s : State) (host : Bool) (base c : Nat) (write : Bool) (a n : Nat) : List (Nat × Nat) :=
  if host then (if n = 0 then [] else [(base + a, n)])
  else s.physPieces (if write then reqCipherWrite else reqCipherRead) a n write (some c)

/-- A role's descriptor has a range that does not translate (R401); `holder` is the message in flight that it belongs to. -/
def State.descFaults (s : State) (holder : Option Nat) (d : Desc) : Bool :=
  (d.reads.any fun p => (s.rangeFault reqCipherRead p.1 p.2 false false holder).isSome) ||
    d.writes.any fun p => (s.rangeFault reqCipherWrite p.1 p.2 true (d.authDec && p.1 == d.dst) holder).isSome

/-- The pages that a host descriptor writes. -/
def QDesc.destPages (q : QDesc) : List Nat := q.desc.writes.flatMap fun p => pagesOf (q.base + p.1) p.2

/-- A destination page of a host descriptor is held by another message (R399). -/
def State.destHeld (s : State) (holder : Option Nat) (q : QDesc) : Bool :=
  q.host && q.destPages.any fun p => (s.heldBy p).isSome && s.heldBy p != holder

/-- The status with which a new message ends at its admission for want of a key or of a counter (R284 to R286, R290). -/
def State.keyRefused (s : State) (d0 : Desc) : Option Nat :=
  let d := s.effective d0
  let ctx := if d0.context = 0xFFFF then none else s.ctx? d0.context
  match ctx with
  | some c =>
    if c.revoked || !(s.slot d.slot).loaded then some Status.keyRevoked
    else if (s.slot d.slot).version ≠ c.version then some Status.staleKey
    else if c.exhausted || decide (c.invLimit ≤ c.invocation) then some Status.exhausted
    else none
  | none =>
    if d0.context ≠ 0xFFFF then some Status.invalid
    else if !(s.slot d.slot).loaded then some Status.keyRevoked
    else none

/-- The nonce of R289 from a context's fixed field and a counter value. -/
def nonceOf (fixed : List Byte) (len v : Nat) : List Byte := fixed.take (len - 8) ++ beBytes (min len 8) v

/-- A value of the slot's nonce counter is taken, and the mark's advance starts when it is due (R288). -/
def State.takeNonce (k : Nat) (s : State) : State :=
  s.modSlot k fun x =>
    { x with counter := x.counter + 1, advancing := x.advancing || decide (x.mark ≤ x.counter + 16384) }

/-- A context's invocation value is taken (R290). -/
def State.takeInvocation (n : Nat) (s : State) : State :=
  if n = 0xFFFF then s else s.modCtx n fun x => { x with invocation := x.invocation + 1 }

/-- The message that a first or whole descriptor begins, bound to its key (R283, R284, R289). -/
def State.newMsg (s : State) (c : Nat) (q : QDesc) : Msg :=
  let d := s.effective q.desc
  let x := s.slot d.slot
  let ctx := (if q.desc.context = 0xFFFF then none else s.ctx? q.desc.context).getD {}
  { desc := q.desc, slot := d.slot, version := x.version
    key := kdf x.key d.purpose d.identity d.role d.keyEpoch (8 * d.keyLen)
    nonce := if d.makesNonce then nonceOf ctx.fixed d.nonceLen x.counter else []
    invocation := ctx.invocation
    outs := if d.authDec || d.late then s.descPieces q.host q.base c true d.dst d.outLen else []
    left := d.blocks, post := q.post, limit := q.limit, host := q.host, base := q.base }

/-- The working key of a message in flight: its own, or derived again after an avalanche erase (R259, R261, R284). -/
def State.msgKey (s : State) (m : Msg) : List Byte :=
  if m.key ≠ [] then m.key
  else
    let d := s.effective m.desc
    kdf ((s.rootAt m.slot m.version).getD []) d.purpose d.identity d.role d.keyEpoch (8 * d.keyLen)

/-- Bytes of one range of a message. -/
def State.msgRead (s : State) (c : Nat) (m : Msg) (a n : Nat) : List Byte :=
  s.gather (s.descPieces m.host m.base c false a n)

/-- Output bytes laid over one range of a message. -/
def State.msgWrite (c : Nat) (m : Msg) (a : Nat) (bs : List Byte) (s : State) : State :=
  s.scatter (s.descPieces m.host m.base c true a bs.length) bs

/-- The present segment of a message with its key, its nonce and its chaining state as the segment begins. -/
def State.opened (s : State) (c : Nat) (m : Msg) : Msg :=
  let d := m.desc
  let key := s.msgKey m
  if m.mid.isSome ∨ d.begins = false then { m with key := key }
  else
    let nonce := if d.takesNonce then s.msgRead c m d.nonce d.nonceLen else m.nonce
    { m with
      nonce := nonce, key := key
      ch := chainStart d.mode key nonce (s.msgRead c m d.aad d.aadLen) (if d.seg = 3 then d.dataLen else d.msgLen) d.tagLen }

/-- The output of the present segment: a KW message is put out whole with its last segment (log 18). -/
def segOut (d : Desc) (key : List Byte) (ch : Chaining) (data : List Byte) : List Byte :=
  if d.late then
    (if !d.ends then []
      else if d.op = 5 then Aes.kwWrap key (ch.raw ++ data) else (Aes.kwUnwrap key (ch.raw ++ data)).getD [])
  else chainOut d.mode key d.nonceLen ch data

/-- A block whose write faulted is written from its pool buffer before anything else (R262). -/
def State.retryKept (c : Nat) (m : Msg) (s : State) : State :=
  match m.kept with
  | some (at_, bs) => s.msgWrite c m (m.desc.dst + at_) bs
  | none => s

/-- A message parked at a position of its present segment: what has been issued up to there is through the pipeline, and its
output written (R253). -/
def State.parkAt (c n : Nat) (m0 : Msg) (s : State) : State × Msg :=
  let m := s.opened c m0
  let d := m.desc
  let p := m.mid.getD (0, m.ch)
  if n ≤ p.1 then (s, m0)
  else
    let data := s.msgRead c m (d.src + p.1) (n - p.1)
    let out := if d.late then [] else chainOut d.mode m.key d.nonceLen p.2 data
    ((s.retryKept c m).msgWrite c m (d.dst + p.1) out,
      { m with
        mid := some (n, chainStep d.mode (d.op == 1) m.key d.nonceLen p.2 data out), kept := none, left := d.blocks - n / 16 })

/-- The position that the blocks issued have reached, short of the end of the segment. -/
def Msg.issued (m : Msg) : Nat := min (16 * (m.desc.blocks - m.left)) (m.desc.dataLen / 16 * 16)

/-- The message in progress of a channel is parked for a suspension (R253); one that is stalled, or between its segments, is
parked where it stands. -/
def State.parkCur (c : Nat) (s : State) : State :=
  match (s.chan c).cur with
  | some m =>
    if m.stalled || m.segDone then s
    else
      let p := s.parkAt c m.issued m
      p.1.modChan c fun x => { x with cur := some p.2 }
  | none => s

/-- The first channel state of an admitted message: buffers held, schedule taken, the present one suspended with its schedule
and without buffers (R238, R247, R253). -/
def Chan.takeMsg (x : Chan) (i : Nat) (m : Msg) (label : List Byte) (bufs : Nat) : Chan :=
  { x with
    queue := x.queue.eraseIdx i, cur := some m, buffers := bufs
    susp := match x.cur with
      | some old => some { old with suspendedOnce := true }
      | none => x.susp
    suspSched := match x.cur with
      | some _ => x.sched
      | none => x.suspSched
    sched := some (m.slot, m.version, label, m.desc.keyLen) }

/-- A first or whole descriptor of the queue is admitted, waits, or ends (R247, R283 to R290). -/
def State.admitNew (c i : Nat) (q : QDesc) (s : State) : State :=
  let d := s.effective q.desc
  let x := s.slot d.slot
  let outPages := if d.authDec then
      (s.descPieces q.host q.base c true d.dst d.outLen).flatMap fun p => pagesOf p.1 p.2 else []
  if s.roomFor c < 2 then (if s.reservation c < 2 then s.endQueued c i Status.poolEmpty else s)
  else
    match s.keyRefused q.desc with
    | some st =>
      let s1 := if st = Status.exhausted then s.modCtx q.desc.context fun z => { z with exhausted := true } else s
      s1.endQueued c i st
    | none =>
      if !q.host && s.descFaults none q.desc then s
      else if s.destHeld none q then s.endQueued c i Status.windowFault
      else if d.makesNonce && decide (x.mark ≤ x.counter) then s
      else
        let m := s.newMsg c q
        let bufs := min (s.roomFor c) (prefetch d.dataLen)
        let s1 := (((s.takeInvocation q.desc.context).parkCur c).moveHeld c (c + 32)).modChan c fun y => y.takeMsg i m d.label bufs
        let s2 := if d.makesNonce then s1.takeNonce d.slot else s1
        let s3 := if d.authDec then s2.holdPages c outPages else s2
        if d.makesNonce && decide (2 ^ (8 * min d.nonceLen 8) ≤ x.counter) then s3.finishAll c Status.exhausted else s3

/-- A later segment joins its message (R252, R284). -/
def State.admitSegment (c i : Nat) (q : QDesc) (m : Msg) (s : State) : State :=
  let d := q.desc
  let total := m.ch.done + d.dataLen
  let pieces := if d.authDec || d.late then s.descPieces q.host q.base c true d.dst d.outLen else []
  let outPages := if d.authDec then pieces.flatMap fun p => pagesOf p.1 p.2 else []
  let m1 := { m with desc := { d with msgLen := m.desc.msgLen }, segDone := false, left := d.blocks, outs := m.outs ++ pieces,
                     post := q.post, limit := q.limit, base := q.base }
  let s1 := s.modChan c fun y =>
    { y with queue := y.queue.eraseIdx i, cur := some m1, buffers := min (s.roomFor c) (prefetch d.dataLen) }
  if d.op ≠ m.desc.op ∨ d.mode ≠ m.desc.mode ∨ d.context ≠ m.desc.context ∨
      (d.mode = 2 ∧ (m.desc.msgLen < total ∨ (d.ends ∧ total ≠ m.desc.msgLen))) then s1.finishAll c Status.invalid
  else if s.roomFor c < 2 then (if s.reservation c < 2 then s1.finishAll c Status.poolEmpty else s)
  else if !q.host && s.descFaults (some c) d then s
  else if s.destHeld (some c) q then s1.finishAll c Status.windowFault
  else if d.authDec then s1.holdPages c outPages
  else s1

/-- A later segment of a restored message is admitted from its context's chaining state; its counters were taken with its
first segment (R294, R296). -/
def State.admitDetached (c i : Nat) (q : QDesc) (s : State) : State :=
  let ctx := (s.ctx? q.desc.context).getD {}
  let m := s.newMsg c q
  let outPages := if q.desc.authDec then m.outs.flatMap fun p => pagesOf p.1 p.2 else []
  if s.roomFor c < 2 then (if s.reservation c < 2 then s.endQueued c i Status.poolEmpty else s)
  else
    match (s.keyRefused q.desc).filter (· != Status.exhausted) with
    | some st => s.endQueued c i st
    | none =>
      if s.destHeld none q then s.endQueued c i Status.windowFault
      else
        let m1 := { m with
          desc := { q.desc with msgLen := ctx.msgLen }, nonce := ctx.msgNonce, ch := ctx.ch
          invocation := ctx.invocation - 1 }
        let s1 := ((s.parkCur c).moveHeld c (c + 32)).modChan c fun y =>
          y.takeMsg i m1 (s.effective q.desc).label (min (s.roomFor c) (prefetch q.desc.dataLen))
        s1.holdPages c outPages

/-- The meaning of REQUEST_ADMISSION (R247, R253): the channel takes its next descriptor when it can. -/
def doRequestAdmission (c : Nat) (s : State) : State :=
  if c < 8 ∨ 32 ≤ c ∨ s.crypt.sealed ∨ !s.pdOn 5 then s
  else
    let x := s.chan c
    match x.nextIndex with
    | none => s
    | some i =>
      match x.queue[i]? with
      | none => s
      | some q =>
        if s.noRoom q.host q.post then s
        else if q.host && decide (q.limit < s.now) then s.endQueued c i Status.deadlineMissed
        else if q.desc.begins then s.admitNew c i q
        else
          match x.cur with
          | some m => s.admitSegment c i q m
          | none => if s.detached q.desc then s.admitDetached c i q else s.endQueued c i Status.invalid

/-- REQUEST_ADMISSION. -/
def execRequestAdmission (chan : Nat) (s : State) : Host.Outcome State Fault Refusal := .next (doRequestAdmission chan s)

/-! ### Processing (R240, R242, R244, R252, R256) -/

/-- A range of channel c's host message cannot be read, poisoned or held, or cannot be written, held by another message (R399,
R508). -/
def State.msgBlocked (s : State) (c : Nat) (m : Msg) : Bool :=
  m.host && ((m.desc.reads.any fun p =>
      s.poisoned (m.base + p.1) p.2 || (pagesOf (m.base + p.1) p.2).any fun g => (s.heldBy g).isSome) ||
    m.desc.writes.any fun p =>
      (pagesOf (m.base + p.1) p.2).any fun g => (s.heldBy g).isSome && s.heldBy g != some c)

/-- The context keeps the message in progress between segments (R293). -/
def State.ctxProgress (m : Msg) (s : State) : State :=
  if m.desc.context = 0xFFFF then s
  else s.modCtx m.desc.context fun x =>
    { x with inProgress := true, decrypting := m.desc.op % 2 == 0, msgNonce := m.nonce, ch := m.ch, msgLen := m.desc.msgLen }


/-- The comparison that a message ends with succeeds (R244); an op without one succeeds. -/
def segOk (d : Desc) (key nonce : List Byte) (ch0 ch : Chaining) (data tag : List Byte) : Bool :=
  if d.op = 6 then (Aes.kwUnwrap key (ch0.raw ++ data)).isSome
  else if d.takesTag then chainTag d.mode key nonce ch d.tagLen == tag
  else true

/-- The present segment is processed from where it was parked: its output written, and at the last segment the tag written or
compared (R242 to R244, R252, R256). A message that reaches its limit ends at that block (R262, R291). -/
def State.process (c : Nat) (m0 : Msg) (s : State) : State :=
  let m := s.opened c m0
  let d := m.desc
  let p := m.mid.getD (0, m.ch)
  let data := s.msgRead c m (d.src + p.1) (d.dataLen - p.1)
  let out := segOut d m.key p.2 data
  let ch := chainStep d.mode (d.op == 1) m.key d.nonceLen p.2 data out
  let s0 := s.retryKept c m
  if overLimit d.mode d.nonceLen ch.done then
    (s0.msgWrite c m (d.dst + p.1) (out.take ((messageLimit d.mode d.nonceLen).getD 0 - p.2.done))).finishAll c Status.exhausted
  else
    let s1 := if d.late then s0.scatter (if d.ends then m.outs else []) out else s0.msgWrite c m (d.dst + p.1) out
    let s2 := if d.makesNonce && d.begins then s1.msgWrite c m d.nonce m.nonce else s1
    if d.ends then
      let s3 := if d.givesTag then s2.msgWrite c m d.tag (chainTag d.mode m.key m.nonce ch d.tagLen) else s2
      if segOk d m.key m.nonce p.2 ch data (if d.takesTag then s.msgRead c m d.tag d.tagLen else []) then
        s3.finish c Status.ok (if d.authDec || d.late then ch.done else d.dataLen)
      else s3.finish c Status.tagFail 0
    else
      let m1 := { m with ch := ch, segDone := true, left := 0, mid := none, kept := none }
      ((((s2.modChan c fun x => { x with cur := some m1, buffers := 0 }).ctxProgress m1).deliverRec
        (m1.record c Status.ok (if d.authDec || d.late then 0 else d.dataLen)) m.host d.notify m.post))

/-- The meaning of COMPLETION_RECORD (R248, R251): the last block of the present segment has been issued, its effects are
complete, and its record is posted. -/
def doCompletionRecord (c : Nat) (s : State) : State :=
  match (s.chan c).cur with
  | none => s
  | some m =>
    if m.stalled || s.noRoom m.host m.post || !s.pdOn 5 then s
    else
      match m.ended with
      | some st => s.finishAll c st
      | none =>
        if m.segDone || s.crypt.sealed then s
        else if m.host && decide (m.limit < s.now) then s.finishAll c Status.deadlineMissed
        else if s.msgBlocked c m then s.finishAll c Status.windowFault
        else if !m.host && s.descFaults (some c) m.desc then s
        else
          let t := s.issueChan c
          t.process c (((t.chan c).cur).getD m)

/-- COMPLETION_RECORD. -/
def execCompletionRecord (chan : Nat) (s : State) : Host.Outcome State Fault Refusal := .next (doCompletionRecord chan s)

/-- The meaning of NONCE_MARK_ADVANCE_DONE (R288): the mark's advance is written to both copies. -/
def doNonceMarkAdvanceDone (k : Nat) (s : State) : State :=
  if (s.slot k).advancing then s.modSlot k fun x => { x with mark := x.mark + 65536, advancing := false } else s

/-- NONCE_MARK_ADVANCE_DONE. -/
def execNonceMarkAdvanceDone (slot : Nat) (s : State) : Host.Outcome State Fault Refusal :=
  .next (doNonceMarkAdvanceDone slot s)

/-! ### Erasures -/

/-- Every message whose descriptor meets `hit` ends with a status, the suspended one first, then the present one, then the
queued descriptors (R286). -/
def State.killWhere (hit : Desc → Bool) (st : Nat) (s : State) : State :=
  (List.range 32).foldl (fun t c =>
    let past := fun (o : Option Msg) => match o with
      | some m => hit m.desc
      | none => false
    let t1 := if past (t.chan c).susp then t.killSusp c st else t
    let t2 := if past (t1.chan c).cur then t1.killCur c st else t1
    (((t2.chan c).queue.filter fun q => hit q.desc).foldl (State.killQueued c st) t2).resumeChan c) s

/-- A health entry of code 0x00A1 (R514): an avalanche erase with action 0x05, root zeroisation with action 0x06. -/
def State.eraseHealth (action : Nat) (s : State) : State := s.healthFree 0x00A1 0 action

/-- A fresh per-boot wrapping key and wrap_id from the random source (R295). -/
def State.drawWrapKey (s : State) : State :=
  (s.modCrypt fun x => { x with wrapKey := s.freeBytes 32, wrapId := s.freeVal / 2 ^ 256 % 2 ^ 32 }).drawn

/-- A message restarts from the start of its present segment, from the chaining state parked there, with its key to be derived
again (R259, R261). -/
def Msg.restart (m : Msg) : Msg :=
  { m with key := [], mid := none, kept := none, left := if m.segDone then 0 else m.desc.blocks }

/-- Avalanche erase (R259): derived keys, schedules, subkeys, the wake, CMPW and wrapping keys are overwritten. -/
def State.avalanche (s : State) : State :=
  let wipe := fun (o : Option Msg) => o.map Msg.restart
  let s1 := s.modCrypt fun x =>
    { x with
      chans := x.chans.map fun c => { c with cur := wipe c.cur, susp := wipe c.susp, sched := none, suspSched := none }
      wakeKey := [], wrapKey := []
      cmpw := { x.cmpw with
        key := [], keyReady := false, busy := false, loading := false, yielded := false, needFirst := true, chain := [] } }
  let s2 := s1.modSess fun x =>
    { x with cur := x.cur.map fun r =>
        { r with
          lanes := r.lanes.map fun l => { l with ans := { l.ans with key := none, derived := false } }
          answers := r.answers.map fun a => { a with key := none, derived := false } } }
  (s2.eraseHealth 5).raise 14 3

/-- The erase of one slot (R286): the present key and the shadow alike. Messages on it end with KEY_REVOKED, Axiesis
exchanges on it end as NO_KEY, and a CMPW key from it is cleared with err 0x8. -/
def State.eraseSlot (k : Nat) (s : State) : State :=
  let s1 := s.modSlot k fun x => { x with loaded := false, key := zeros 32, shadow := none }
  let s2 := s1.killWhere (fun d => (s.effective d).slot == k) Status.keyRevoked
  let bound := fun (b : Option (Nat × Nat × Nat × Nat)) => match b with
    | some x => x.1 == k
    | none => false
  let s3 := s2.modCrypt fun x =>
    { x with
      chans := x.chans.map fun c =>
        { c with sched := c.sched.filter fun z => z.1 != k, suspSched := c.suspSched.filter fun z => z.1 != k }
      wakeKey := if s.cfgN recSystem 3 = k then [] else x.wakeKey
      cmpw := if x.cmpw.keySlot == k && (x.cmpw.keyReady || x.cmpw.loading) then
          { x.cmpw with
            key := [], keyReady := false, err := 8, busy := false, loading := false, yielded := false, needFirst := true }
        else x.cmpw }
  let s4 := s3.modSess fun x =>
    { x with cur := x.cur.map fun r =>
        { r with
          lanes := r.lanes.map fun l => if l.ans.rootSlot == k && l.outcome.isNone then { l with noKey := true } else l
          answers := r.answers.map fun a => if a.rootSlot == k then { a with key := none, derived := true } else a } }
  let s5 := s4.modPop fun x =>
    { x with running := x.running.map fun r =>
        { r with coils := r.coils.map fun c => if c.slot == k then { c with expected := none } else c } }
  let s6 := s5.modParts fun x =>
    { x with enrol := x.enrol.map fun e => if e.slot == k then { e with expected := none } else e }
  s6.modNet fun x =>
    { x with nodes := x.nodes.map fun n =>
        let n1 := if bound n.cbind then { n with challenge := none, cbind := none, expected := false } else n
        if bound n.bind then { n1 with opened := false, bind := none } else n1 }

/-- A KEY entry of R570 for a slot as it stands. -/
def State.keyEntry (k op : Nat) (s : State) : State :=
  let x := s.slot k
  s.ledgerAdd 0x32 k (leBytes 1 op ++ leBytes 1 x.cls ++ leBytes 4 x.version ++ fit 3 x.kcv)

/-- Root zeroisation (R520): KS0 to KS15 in slot order, one KEY entry each; contexts start no more messages (R297). -/
def State.zeroise (s : State) : State :=
  let s1 := (List.range 16).foldl (fun t k => (t.eraseSlot k).keyEntry k 3) s
  let s2 := s1.modCrypt fun x =>
    { x with contexts := x.contexts.map (fun c => { c with revoked := true }), wakeKey := [], wrapKey := [] }
  let s3 := if s2.crypt.selfTest then s2 else s2.drawWrapKey
  (s3.eraseHealth 6).raise 6 3

/-! ### crypt.chan, crypt.submit, crypt.done (R252, R453) -/

/-- The payload of crypt.chan is in range (R444). -/
def wfCryptChan (p : List Byte) : Bool := decide (uAt p 0 1 ≤ 31) && decide (uAt p 1 1 ≤ 1) && zeroAt p 2 2

/-- DENIED for channels 0 to 15, BUSY while the channel holds work (R252). -/
def preCryptChan (s : State) (b : Mailbox) : Option Nat :=
  let c := uAt b.payload 0 1
  let x := s.chan c
  if c < 16 then some Status.denied
  else refuseIf (!x.queue.isEmpty || x.cur.isSome || x.susp.isSome) Status.busy

/-- CRYPT_CHAN: crypt.chan (R252). -/
def execCryptChan (mb : Nat) (s : State) : Host.Outcome State Fault Refusal :=
  .next (s.perform mb 0x0901 (checked wfCryptChan preCryptChan) fun b t =>
    let c := uAt b.payload 0 1
    (t.modChan c fun x => { x with streaming := uAt b.payload 1 1 == 1 }).post mb Status.ok
      (leBytes 1 (t.reservation c) ++ zeros 3))

/-- The payload of crypt.submit is in range; its descriptor is judged by R250. -/
def wfCryptSubmit (p : List Byte) : Bool := decide (uAt p 64 1 ≤ 1) && zeroAt p 65 3

/-- The channel of a crypt.submit: one of the host's, 16 to 31 (R245; log 17). -/
def submitChannel (mb : Nat) (b : Mailbox) : Nat := 16 + Config.submitChannel mb (Desc.ofBytes b.payload).context % 16

/-- A range lies in the window with a permission (R410), the pages' held state aside. -/
def State.winRange (s : State) (n off len : Nat) (r w : Bool) : Bool :=
  let x := s.win n
  decide (n < 16) && x.en && decide (off + len ≤ x.size) && (!r || x.devR) && (!w || x.devW)

/-- The addresses of a host descriptor against its window (R250, R410). -/
def State.descInWindow (s : State) (n : Nat) (d : Desc) : Bool :=
  (d.reads.all fun p => s.winRange n p.1 p.2 true false) && (d.writes.all fun p => s.winRange n p.1 p.2 false true) &&
    (!d.authDec || d.outLen == 0 || (s.win n).hold)

/-- The refusals of R250 for a host descriptor, BUSY last. -/
def preCryptSubmit (mb : Nat) (s : State) (b : Mailbox) : Option Nat :=
  let d := Desc.ofBytes b.payload
  let c := submitChannel mb b
  match s.descRefused c d true with
  | some st => some st
  | none =>
    if !s.descInWindow b.window d then some Status.windowFault
    else refuseIf (decide (16 ≤ (s.chan c).queue.length)) Status.busy

/-- The checks of crypt.submit (R250, R444). -/
def checkCryptSubmit (mb : Nat) : State → Mailbox → Option Nat := checked wfCryptSubmit (preCryptSubmit mb)

/-- A crypt.submit whose segment breaks the rules of its message ends that message with INVALID (R252). -/
def State.submitBreaks (mb : Nat) (s : State) : State :=
  let b := s.box mb
  if checkCryptSubmit mb s b = some Status.invalid ∧ wfCryptSubmit b.payload then
    s.segBroken (submitChannel mb b) (Desc.ofBytes b.payload)
  else s

/-- CRYPT_SUBMIT: crypt.submit (R249, R453): the descriptor is queued; with post 0 OK is posted at once. -/
def execCryptSubmit (mb : Nat) (s : State) : Host.Outcome State Fault Refusal :=
  .next (
    if s.runs mb 0x0902 && s.rolePlaced .host && decide (s.now ≤ (s.box mb).limit) &&
        checkCryptSubmit mb s (s.box mb) == some Status.invalid then
      (s.submitBreaks mb).post mb Status.invalid []
    else
      s.perform mb 0x0902 (checkCryptSubmit mb) fun b t =>
        let post := uAt b.payload 64 1 == 1
        let t1 := t.placeDesc (submitChannel mb b)
          { desc := Desc.ofBytes b.payload, host := true, base := (t.win b.window).phys 0
            post := if post then some mb else none, limit := b.limit }
        if post then (t1.wait mb).commit mb else t1.post mb Status.ok [])

/-- The payload of crypt.done is in range (R444). -/
def wfCryptDone (p : List Byte) : Bool := decide (1 ≤ uAt p 0 1) && decide (uAt p 0 1 ≤ 14) && zeroAt p 1 3

/-- CRYPT_DONE: crypt.done (R453): the oldest records leave the host completion queue. -/
def execCryptDone (mb : Nat) (s : State) : Host.Outcome State Fault Refusal :=
  .next (s.perform mb 0x0903 (checked wfCryptDone noPre) fun b t =>
    let rs := t.crypt.hostDone.take (uAt b.payload 0 1)
    let rest := t.crypt.hostDone.drop (uAt b.payload 0 1)
    (t.modCrypt fun x => { x with hostDone := rest }).post mb Status.ok
      (leBytes 1 rs.length ++ zeros 3 ++ leBytes 4 rest.length ++ rs.flatMap CompRec.bytes))

end Sys2Proof.Machine
end

