-- ==== Sys2Proof/Machine/Segment.lean ====
section
/-!
DEFINITION. Segment nodes (R459 to R463 of 18_network_and_line_power): their frames, the CHALLENGE and RESPONSE that verify
them, and their DATA sessions.
-/
namespace Sys2Proof.Machine


/-- A frame received. -/
def State.rxFrame (port : Nat) (s : State) : State := s.modStat port fun x => { x with rx := satAdd 0xFFFFFFFF x.rx 1 }

/-- A frame sent, with its payload. -/
def State.txFrame (port : Nat) (bs : List Byte) (s : State) : State :=
  (s.modStat port fun x => { x with tx := satAdd 0xFFFFFFFF x.tx 1 }).modNet fun n => { n with txFrames := bs :: n.txFrames }

/-- A frame discarded. -/
def State.dropFrame (port : Nat) (s : State) : State :=
  s.modStat port fun x => { x with discarded := satAdd 0xFFFFFFFF x.discarded 1 }

/-- A node's attachment code (R46). -/
def nodeCode (seg node : Nat) : Nat := 0x40 + 8 * seg + node

/-- The port of a node's segment. -/
def nodePort (code : Nat) : Nat := 2 + (code - 0x40) / 8

/-- A node's standing, new where nothing is held. -/
def State.node (s : State) (code : Nat) : NodeSess := (s.net.nodes.find? fun n => n.attach == code).getD { attach := code }

/-- A node's standing stored. -/
def State.putNode (n : NodeSess) (s : State) : State :=
  s.modNet fun x => { x with nodes := n :: x.nodes.filter fun y => y.attach != n.attach }

/-- The first 64 bits of the CMAC of a node frame (R461). -/
def nodeMac (key bs : List Byte) : List Byte := (Aes.cmac key bs).take 8

/-- The CHALLENGE frame to a node (R461). -/
def challengeFrame (code c : Nat) : List Byte :=
  leBytes 1 0x02 ++ leBytes 1 (code % 8) ++ leBytes 2 12 ++ leBytes 8 Config.deviceIdentity ++ beBytes 12 c

/-- What an exchange is bound to at its admission: a root slot at its present version, a role and a key_epoch (R284, R298). -/
abbrev Binding := Nat × Nat × Nat × Nat

/-- The binding of an exchange with a partner in a role under a slot. -/
def State.bindTo (s : State) (slot role epoch : Nat) : Binding := (slot, (s.slot slot).version, role, epoch)

/-- The node key of an identity under a binding (R276, R281, R284, R461): from the present key of a PARTNER slot, or from the
shadow; none where the slot yields none. -/
def State.boundKey (s : State) (ident : Nat) (b : Binding) : Option (List Byte) :=
  if (s.slot b.1).version = b.2.1 ∧ (s.slot b.1).cls ≠ 2 then none
  else (s.rootAt b.1 b.2.1).map fun k => kdf k 0x0301 ident b.2.2.1 b.2.2.2 128

/-- A CHALLENGE with a fresh challenge is sent to a node, keyed for a binding (R462). -/
def State.challengeNode (code ident : Nat) (b : Binding) (expected enrolling : Bool) (s : State) : State :=
  let c := s.freeVal % 2 ^ 96
  let n := s.node code
  (((s.putNode
    { n with
      identity := ident, challenge := some (c, s.now), cbind := some b, expected := expected, enrolling := enrolling
      lastCheck := if expected then s.now else n.lastCheck }).txFrame (nodePort code) (challengeFrame code c))).drawn

/-- A CHALLENGE keyed for a node's record. -/
def State.challengeRec (code : Nat) (r : PartRec) (expected : Bool) (s : State) : State :=
  s.challengeNode code r.identity (s.bindTo r.slot r.role r.keyEpoch) expected false

/-- A frame whose key's derivation waits for the unseal is held with the time of its arrival (R262, R287). -/
def State.holdFrame (type seg : Nat) (frame : List Byte) (at_ : Nat) (s : State) : State :=
  s.modNet fun n => { n with sealedFrames := n.sealedFrames ++ [(type, seg, frame, at_)] }

/-- The segments are served: PD8 is powered, the roles run (R492) and the segment is enabled (R459, R460). -/
def State.segOn (s : State) (seg : Nat) : Bool :=
  decide (seg < 4) && s.pdOn 8 && s.rolesRun && s.cfgB recNetwork (fieldNo seg 5)

/-- The header of a node frame, as type, node, length and identity, when the frame is as long as it says and its node ID is 1
to 7 (R461). -/
def nodeHeader (type : Nat) (frame : List Byte) : Option (Nat × Nat) :=
  let node := uAt frame 1 1
  if uAt frame 0 1 = type ∧ frame.length = 4 + uAt frame 2 2 ∧ 1 ≤ node ∧ node ≤ 7 ∧ 12 ≤ frame.length then
    some (node, uAt frame 4 8)
  else none

/-- Frames of a locked-out node or identity are ignored (R61, R63). -/
def State.nodeLocked (code ident : Nat) (s : State) : Bool × State :=
  let s1 := (s.evalAttach code).evalIdentity ident
  (s1.attachLocked code || s1.identityLocked ident, s1)

/-- The body of a verified ANNOUNCE of a known node (R462). -/
def State.announced (code : Nat) (r : PartRec) (frame : List Byte) (s : State) : State :=
  match s.partnerKey r 0x0301 128 with
  | some key =>
    if nodeMac key (frame.take 16) = slice frame 16 8 then s.challengeRec code r false
    else s.countFailure 3 1 r.identity (some code)
  | none => s

/-- An ANNOUNCE frame received on a segment (R61, R462). -/
def State.nodeAnnounce (seg : Nat) (frame : List Byte) (s1 : State) : State :=
  match nodeHeader 0x01 frame with
  | some (node, ident) =>
    if frame.length ≠ 24 then s1.dropFrame (2 + seg)
    else
      let code := nodeCode seg node
      let q := s1.nodeLocked code ident
      if q.1 then q.2
      else
        match q.2.rec? ident with
        | some r =>
          if r.state = .candidate then q.2.metIdentity 3 code ident
          else if r.kind = 3 ∧ r.attach = code then
            (if q.2.crypt.sealed then q.2.holdFrame 0x01 seg frame q.2.now else q.2.announced code r frame)
          else q.2
        | none => q.2.metIdentity 3 code ident
  | none => s1.dropFrame (2 + seg)

/-- ANNOUNCE_FRAME (R462) on a segment. -/
def doAnnounceFrame (seg : Nat) (frame : List Byte) (s : State) : State :=
  if !s.segOn seg then s else (s.rxFrame (2 + seg)).nodeAnnounce seg frame

/-- ANNOUNCE_FRAME. -/
def execAnnounceFrame (seg : Nat) (frame : List Byte) (s : State) : Host.Outcome State Fault Refusal :=
  .next (doAnnounceFrame seg frame s)

/-- A node is due its periodic check (R462), its lockout apart. -/
def State.checkDue (s : State) (r : PartRec) : Bool :=
  let n := s.node r.attach
  r.kind == 3 && r.state == .enrolled && s.segOn (nodePort r.attach - 2) && n.challenge.isNone &&
    decide (n.lastCheck + 1000000000 * s.cfgN recNetwork (fieldNo 6 4) ≤ s.now)

/-- A node's periodic check is admitted unless it is locked out (R61, R63). -/
def State.checkNode (r : PartRec) (s : State) : State :=
  let q := s.nodeLocked r.attach r.identity
  if q.1 then q.2 else q.2.challengeRec r.attach r true

/-- NODE_CHECK (R462): a CHALLENGE to each enrolled node whose node_check has elapsed. -/
def doNodeCheck (s : State) : State :=
  (s.parts.table.filter fun q => s.checkDue q.2).foldl (fun (t : State) q => t.checkNode q.2) s

/-- NODE_CHECK. -/
def execNodeCheck (s : State) : Host.Outcome State Fault Refusal := .next (doNodeCheck s)

/-- The key a RESPONSE is checked under: the one its CHALLENGE was keyed for (R52, R284, R298, R461). -/
def State.nodeKey (s : State) (n : NodeSess) : Option (List Byte) := n.cbind.bind fun b => s.boundKey n.identity b

/-- The shadow that a binding of a node kept is dropped once nothing refers to it (R284). -/
def State.dropBinding (b : Option Binding) (s : State) : State :=
  match b with
  | some x => s.dropShadow x.1
  | none => s

/-- A challenge is over without a verified RESPONSE; an expected one counts in miss_count (R48, R462). -/
def State.challengeOver (n : NodeSess) (s : State) : State :=
  let s1 := (s.putNode { n with challenge := none, cbind := none }).dropBinding n.cbind
  if n.expected then s1.missedCheck n.identity else s1

/-- A RESPONSE has verified (R62, R463): the session opens under the challenge's binding, and an enrolment completes. -/
def State.nodeVerified (n : NodeSess) (s : State) : State :=
  let s1 := (s.putNode
    { n with
      challenge := none, cbind := none, opened := true, bind := n.cbind, seq := 0, enrolling := false
      expected := false }).dropBinding n.bind
  if n.enrolling then s1.enrolVerified else s1.verifiedExchange n.identity

/-- A RESPONSE frame that arrived on a segment at a time (R462): it counts within 10 ms of its CHALLENGE. -/
def State.nodeResponse (seg : Nat) (frame : List Byte) (at_ : Nat) (s1 : State) : State :=
  match nodeHeader 0x03 frame with
  | some (node, ident) =>
    let n := s1.node (nodeCode seg node)
    match n.challenge with
    | some (c, t) =>
      if n.identity ≠ ident ∨ t + 10000000 < at_ ∨ frame.length ≠ 20 then s1
      else if s1.crypt.sealed then s1.holdFrame 0x03 seg frame at_
      else
        match s1.nodeKey n with
        | some key =>
          if nodeMac key (beBytes 12 c ++ frame.take 12) = slice frame 12 8 then s1.nodeVerified n
          else (s1.challengeOver { n with enrolling := false }).countFailure 3 3 ident (some n.attach)
        | none => s1
    | none => s1
  | none => s1.dropFrame (2 + seg)

/-- SEGMENT_RESPONSE (R462) on a segment. -/
def doSegmentResponse (seg : Nat) (frame : List Byte) (s : State) : State :=
  if !s.segOn seg then s else (s.rxFrame (2 + seg)).nodeResponse seg frame s.now

/-- SEGMENT_RESPONSE. -/
def execSegmentResponse (seg : Nat) (frame : List Byte) (s : State) : Host.Outcome State Fault Refusal :=
  .next (doSegmentResponse seg frame s)

/-- A RESPONSE of the node waits for the unseal (R287). -/
def State.responseHeld (s : State) (code : Nat) : Bool :=
  s.net.sealedFrames.any fun q => q.1 == 0x03 && nodeCode q.2.1 (uAt q.2.2.1 1 1) == code

/-- SEGMENT_RESPONSE_MISS (R462): 10 ms have passed since the CHALLENGE to a node code. -/
def doSegmentResponseMiss (code : Nat) (s : State) : State :=
  let n := s.node code
  match n.challenge with
  | some (_, t) => if decide (t + 10000000 < s.now) && !s.responseHeld code then s.challengeOver n else s
  | none => s

/-- SEGMENT_RESPONSE_MISS. -/
def execSegmentResponseMiss (code : Nat) (s : State) : Host.Outcome State Fault Refusal := .next (doSegmentResponseMiss code s)

/-- A CHALLENGE of part.enrol for a node, keyed for the identity and slot the command names (R52, R462); LOCKED_OUT where the
identity or the node is in lockout (R61, R63). -/
def State.enrolNode (e : Enrolment) (s : State) : State :=
  let q := s.enrolLocked e
  if q.1 then q.2.endEnrol e Status.lockedOut
  else
    let epoch := ((q.2.rec? e.identity).map (·.keyEpoch)).getD 0
    (q.2.challengeNode e.attach e.identity (q.2.bindTo e.slot e.role epoch) false true).modParts fun p =>
      { p with enrol := some { e with sentNs := s.now } }

/-- ENROL_CHALLENGE_RETRY (R462): every 1 s after a miss, until the command's deadline. -/
def doEnrolChallengeRetry (s : State) : State :=
  match s.parts.enrol with
  | some e =>
    let n := s.node e.attach
    if roleKind e.role = 3 ∧ n.enrolling = true ∧ n.challenge = none ∧ e.sentNs + 1000000000 ≤ s.now then s.enrolNode e else s
  | none => s

/-- ENROL_CHALLENGE_RETRY. -/
def execEnrolChallengeRetry (s : State) : Host.Outcome State Fault Refusal := .next (doEnrolChallengeRetry s)

/-- DATA of a node with a session, under the key the session is bound to (R284, R463). -/
def State.nodeData (n : NodeSess) (frame : List Byte) (s : State) : State :=
  match n.bind.bind fun b => s.boundKey n.identity b with
  | some key =>
    let body := frame.take (frame.length - 8)
    let seq := uAt frame 12 4
    if nodeMac key body ≠ frame.drop (frame.length - 8) then s.countFailure 3 0x10 n.identity (some n.attach)
    else if seq ≤ n.seq then s.modStat (nodePort n.attach) fun x => { x with replay := satAdd 0xFFFFFFFF x.replay 1 }
    else (s.putNode { n with seq := seq }).modNet fun x => { x with dataOut := (n.attach, body.drop 16) :: x.dataOut }
  | none => s

/-- A DATA frame received on a segment (R61, R463). -/
def State.nodeDataFrame (seg : Nat) (frame : List Byte) (s1 : State) : State :=
  match nodeHeader 0x10 frame with
  | some (node, ident) =>
    let code := nodeCode seg node
    let n := s1.node code
    let q := s1.nodeLocked code ident
    let home : Bool := match q.2.rec? ident with
      | some r => r.kind == 3 && r.attach == code && r.state == .enrolled
      | none => false
    if !n.opened || n.identity != ident || !home || q.1 || decide (frame.length < 24) || decide (1484 < frame.length) then q.2
    else if q.2.crypt.sealed then q.2.holdFrame 0x10 seg frame q.2.now
    else q.2.nodeData n frame
  | none => s1.dropFrame (2 + seg)

/-- SEGMENT_DATA (R463) on a segment. -/
def doSegmentData (seg : Nat) (frame : List Byte) (s : State) : State :=
  if !s.segOn seg then s else (s.rxFrame (2 + seg)).nodeDataFrame seg frame

/-- A frame held during the seal is taken, as it arrived (R287). -/
def State.takeSealed (q : Nat × Nat × List Byte × Nat) (s : State) : State :=
  if q.1 = 0x01 then s.nodeAnnounce q.2.1 q.2.2.1
  else if q.1 = 0x03 then s.nodeResponse q.2.1 q.2.2.1 q.2.2.2
  else s.nodeDataFrame q.2.1 q.2.2.1

/-- The slots are unsealed: the frames held meanwhile are taken in order of arrival (R287). -/
def State.serveSealed (s : State) : State :=
  s.net.sealedFrames.foldl (fun t q => t.takeSealed q) (s.modNet fun n => { n with sealedFrames := [] })

/-- SEGMENT_DATA. -/
def execSegmentData (seg : Nat) (frame : List Byte) (s : State) : Host.Outcome State Fault Refusal :=
  .next (doSegmentData seg frame s)

/-- An installation condition appended to Moraine (R460, R466, R473): its entry is a health entry to which the spec gives no
code, so code and detail are free (log 36). -/
def State.installEntry (s : State) : State := (s.ledgerAdd 0x80 (s.freeVal % 0x10000) (leBytes 10 (s.freeVal / 0x10000))).drawn

/-- NODE_ID_CLASH (R460): once per 10 s on a segment. -/
def doNodeIdClash (seg : Nat) (s : State) : State :=
  let again : Bool := match s.net.clash.getD seg none with
    | some t => decide (t + 10000000000 ≤ s.now)
    | none => true
  if s.segOn seg && again then
    ((s.modNet fun n => { n with clash := n.clash.set seg (some s.now) }).installEntry).raise 13 10
  else s

/-- NODE_ID_CLASH. -/
def execNodeIdClash (seg : Nat) (s : State) : Host.Outcome State Fault Refusal := .next (doNodeIdClash seg s)

end Sys2Proof.Machine
end

