-- ==== Sys2Proof/Machine/Network.lean ====
section
/-!
DEFINITION. The uplinks, MACsec and MKA, IPv6 answers, link changes, and the PoDL feeds (18_network_and_line_power).
-/
namespace Sys2Proof.Machine

/-! ### Uplinks and their modes (R457, R464, R466) -/

/-- The domain of a port (R456). -/
def portDomain (port : Nat) : Nat := if port < 2 then 7 else 8

/-- The port's PHY runs: its domain is powered, and a segment is enabled (R456, R459). -/
def State.phyOn (s : State) (port : Nat) : Bool :=
  decide (port < 6) && s.pdOn (portDomain port) && (decide (port < 2) || s.cfgB recNetwork (fieldNo (port - 2) 5))

/-- The port is served: its PHY runs outside Firn, where an arriving frame is dropped (R492). -/
def State.portOn (s : State) (port : Nat) : Bool := s.phyOn port && (s.psc.state == .run || s.psc.state == .drift)

/-- macsec_mode of an uplink: 0 off, 1 should-secure, 2 must-secure (R464, R528). -/
def State.macsecMode (s : State) (port : Nat) : Nat := s.cfgN recNetwork (fieldNo (4 + port) 3)

/-- The channel that a port transmits on, and the one it receives on, for an association number (R245). -/
def txChannel (port an : Nat) : Nat := 4 * port + an % 2
/-- The receive channel of a port for an association number (R245). -/
def rxChannel (port an : Nat) : Nat := 4 * port + 2 + an % 2

/-- A secure association. -/
def State.sa (s : State) (c : Nat) : Sa := s.crypt.sas.getD c {}

/-- A secure association updated. -/
def State.modSa (s : State) (c : Nat) (f : Sa → Sa) : State := s.modCrypt fun x => { x with sas := x.sas.modify c f }

/-- The association number a port transmits with. -/
def State.portAn (s : State) (port : Nat) : Nat := s.net.an.getD port 0

/-- The port is protected: an association is installed for its present number. -/
def State.secured (s : State) (port : Nat) : Bool := (s.sa (txChannel port (s.portAn port))).installed

/-- A frame of the controlled port is taken (R464, R465, R569): a protected one while MACsec is on, an unprotected one when the
port is off or should-secure without an association. -/
def State.takes (s : State) (port : Nat) (protectedFrame : Bool) : Bool :=
  decide (port < 2) && s.portOn port &&
    match s.macsecMode port with
    | 0 => !protectedFrame
    | 1 => protectedFrame == s.secured port
    | _ => protectedFrame && s.secured port

/-- The suite counts packet numbers in 64 bits (R464). -/
def Sa.xpn (a : Sa) : Bool := decide (2 ≤ a.suite)

/-- The first packet number that the channel's counter refuses (R263). -/
def Sa.limit (a : Sa) : Nat := if a.xpn then 2 ^ 64 else 2 ^ 32

/-- The packet number at which the key server distributes a new SAK (R465). -/
def Sa.renew (a : Sa) : Nat := if a.xpn then 0xC000000000000000 else 0xC0000000

/-! ### MKA (R465, R481) -/

/-- The CAK of a number (R282, R465): derived from the named slot, or none where the slot yields no key (R569). -/
def State.cak (s : State) (num : Nat) : Option (List Byte) :=
  let k := s.cfgN recNetwork (fieldNo 6 1)
  if s.serviceSlot k && !s.crypt.sealed then some (kdf (s.slot k).key 0x0501 Config.deviceIdentity 0 num 256) else none

/-- The CAK numbers of the sessions that run: the image's, and the one before it until the new session has installed a SAK
(R465). -/
def State.cakNums (s : State) : List Nat := [s.cfgN recNetwork (fieldNo 6 2), s.net.cakNum].eraseDups

/-- The CKN of a CAK number (R465). -/
def ckn (num : Nat) : List Byte := beBytes 8 Config.deviceIdentity ++ beBytes 4 num ++ zeros 4

/-- A key that IEEE 802.1X derives from a 256-bit CAK under a label, of 256 bits (PRESUMED, log 55). -/
def mkaKey (cak : List Byte) (label : String) (num : Nat) : List Byte :=
  [1, 2].flatMap fun i =>
    Aes.cmac cak ([BitVec.ofNat 8 i] ++ label.toList.map (fun c => BitVec.ofNat 8 c.toNat) ++ [0] ++ ckn num ++ beBytes 2 256)

/-- The ICV of an MKA PDU verifies under the CAK of a number (R465; PRESUMED, log 55). -/
def State.icvOk (s : State) (num : Nat) (pdu icv : List Byte) : Bool :=
  match s.cak num with
  | some k => Aes.cmac (mkaKey k "IEEE8021 ICK" num) pdu == icv
  | none => false

/-- The SAK that an MKA PDU carries wrapped under the key-encryption key of its session (PRESUMED, log 55). -/
def State.unwrapSak (s : State) (num : Nat) (wrapped : List Byte) : Option (List Byte) :=
  (s.cak num).bind fun k => Aes.kwUnwrap (mkaKey k "IEEE8021 KEK" num) wrapped

/-- MKA has a CAK, and the port uses MACsec (R464, R569). -/
def State.hasCak (s : State) (port : Nat) : Bool :=
  s.macsecMode port != 0 && (s.cak (s.cfgN recNetwork (fieldNo 6 2))).isSome

/-- The SCI of a port: its EUI-48 address and port identifier 0x0001 (R456, R464). -/
def sciOf (port : Nat) : Nat := (((2 + 4 * port) * 2 ^ 40 + Config.deviceIdentity % 2 ^ 40) * 2 ^ 16) + 1

/-- The live peers of a port. -/
def State.peersOf (s : State) (port : Nat) : List (Nat × Nat × Nat) := s.net.peers.getD port []

/-- The device is key server: no live peer has a better priority, the lower SCI deciding between equals (R465). -/
def State.keyServer (s : State) (port : Nat) : Bool :=
  let own := s.cfgN recNetwork (fieldNo 6 3)
  (s.peersOf port).all fun p => decide (own < p.2.1) || (own == p.2.1 && decide (sciOf port < p.1))

/-- A secure association with a new SAK. -/
def newSa (key : List Byte) (suite : Nat) : Sa := { key := key, suite := suite, next := 1, installed := true }

/-- A new SAK is drawn and installed to receive with the next association number; the change is pending until a peer reports it
(R465). -/
def State.drawSak (port : Nat) (s : State) : State :=
  let suite := s.cfgN recNetwork (fieldNo (4 + port) 5)
  let key := s.freeBytes (if suite % 2 = 0 then 16 else 32)
  ((s.modSa (rxChannel port (s.portAn port + 1)) fun _ => newSa key suite).modNet fun n =>
    { n with sakChange := n.sakChange.set port true }).drawn

/-- The key server distributes a new SAK, unless a change is already pending or no peer is live (R465). -/
def State.renewSak (port : Nat) (s : State) : State :=
  if s.keyServer port && !(s.peersOf port).isEmpty && s.hasCak port && !s.net.sakChange.getD port false then s.drawSak port
  else s

/-- The change completes in the session of a CAK number: the port transmits with the association that it receives with
(R263, R465). -/
def State.useSak (port an num : Nat) (a : Sa) (s : State) : State :=
  (((s.modSa (txChannel port an) fun _ => newSa a.key a.suite).modNet fun n =>
    { n with an := n.an.set port (an % 4), sakChange := n.sakChange.set port false, cakNum := num })).raise 13 8

/-- A SAK distributed by a peer that is key server is installed (R465). -/
def State.takeSak (port an suite num : Nat) (key : List Byte) (s : State) : State :=
  let a := newSa key suite
  (s.modSa (rxChannel port an) fun _ => a).useSak port an num a

/-- MKA_HELLO (R465): an MKA PDU is sent on an uplink. -/
def doMkaHello (port : Nat) (s : State) : State :=
  if decide (port < 2) && s.portOn port && s.net.linkUp.getD port false && s.hasCak port then
    (s.txFrame port []).modNet fun n => { n with mkaSent := n.mkaSent.modify port fun x => satAdd 0xFFFFFFFF x 1 }
  else s

/-- MKA_HELLO. -/
def execMkaHello (port : Nat) (s : State) : Host.Outcome State Fault Refusal := .next (doMkaHello port s)

/-- What an MKA PDU that verified in the session of a CAK number says (R465): its sender is live, and it distributes a SAK or
reports that it receives with the SAK the device distributed. -/
def State.mkaHeard (port sci priority num : Nat) (ack : Bool) (sak : Option (Nat × Nat × List Byte)) (s : State) : State :=
  let known := (s.peersOf port).any fun p => p.1 == sci
  let s1 := s.modNet fun n =>
    { n with peers := n.peers.modify port fun ps => (sci, priority, s.now) :: ps.filter fun p => p.1 != sci }
  let s2 := match sak with
    | some (an, suite, wrapped) =>
      (match s1.unwrapSak num wrapped with
        | some key => if s1.keyServer port then s1 else s1.takeSak port an suite num key
        | none => s1)
    | none =>
      if ack && s1.net.sakChange.getD port false then
        s1.useSak port (s1.portAn port + 1) num (s1.sa (rxChannel port (s1.portAn port + 1)))
      else s1
  if known then s2 else s2.renewSak port

/-- MKA_PDU (R465): a PDU from a peer's SCI with its priority; one whose ICV verifies under no CAK is not taken. -/
def doMkaPdu (port sci priority : Nat) (ack : Bool) (sak : Option (Nat × Nat × List Byte)) (pdu icv : List Byte) (s : State) :
    State :=
  if !(decide (port < 2) && s.portOn port && s.hasCak port) then s
  else
    match s.cakNums.find? fun n => s.icvOk n pdu icv with
    | some num => (s.rxFrame port).mkaHeard port sci priority num ack sak
    | none => s.rxFrame port

/-- MKA_PDU. -/
def execMkaPdu (port sci priority : Nat) (ack : Bool) (sak : Option (Nat × Nat × List Byte)) (pdu icv : List Byte) (s : State) :
    Host.Outcome State Fault Refusal :=
  .next (doMkaPdu port sci priority ack sak pdu icv s)

/-- MKA_LIFE_EXPIRY (R465, R481): peers not heard for 6 s leave the live list; without any the associations end, and otherwise a
new SAK follows. -/
def doMkaLifeExpiry (port : Nat) (s : State) : State :=
  let live := (s.peersOf port).filter fun p => decide (s.now < p.2.2 + 6000000000)
  if decide (port < 2) && live.length != (s.peersOf port).length then
    let s1 := s.modNet fun n => { n with peers := n.peers.set port live }
    if live.isEmpty then
      ((List.range 4).foldl (fun (t : State) k => t.modSa (4 * port + k) fun _ => {}) s1).modNet fun n =>
        { n with sakChange := n.sakChange.set port false }
    else s1.renewSak port
  else s

/-- MKA_LIFE_EXPIRY. -/
def execMkaLifeExpiry (port : Nat) (s : State) : Host.Outcome State Fault Refusal := .next (doMkaLifeExpiry port s)

/-! ### MACsec frames (R257, R263, R464) -/

/-- The SecTAG of IEEE 802.1AE with an explicit SCI, for data of a length (PRESUMED, log 55). -/
def secTag (sci an pn len : Nat) : List Byte :=
  beBytes 2 0x88E5 ++ [BitVec.ofNat 8 (0x2C + an % 4), BitVec.ofNat 8 (if len < 48 then len else 0)] ++
    beBytes 4 (pn % 2 ^ 32) ++ beBytes 8 sci

/-- The 12-byte nonce of a packet number (R263; PRESUMED, log 55). -/
def Sa.nonce (a : Sa) (sci pn : Nat) : List Byte :=
  if a.xpn then xorBytes (beBytes 12 (Config.xpnBase a.key sci).toNat) (beBytes 12 pn) else beBytes 8 sci ++ beBytes 4 pn

/-- Pool buffers that the frames held on a MACsec channel take (R245, R247). -/
def State.macBuffers (s : State) (c : Nat) : Nat :=
  ((s.crypt.macHeld.filter fun h => h.1 == c).map fun h => ceilDiv (h.2.1.length + h.2.2.length) 256).sum

/-- A frame is held through the self-test in its channel's buffers, or dropped and counted where they are full (R247, R261). -/
def State.holdMac (c : Nat) (header data : List Byte) (s : State) : State :=
  if 24 < s.macBuffers c + ceilDiv (header.length + data.length) 256 then
    s.modStat (c / 4) fun x => { x with noBuf := satAdd 0xFFFFFFFF x.noBuf 1 }
  else s.modCrypt fun x => { x with macHeld := x.macHeld ++ [(c, header, data)] }

/-- A frame is encrypted with the channel's next packet number and sent, or refused once the counter is exhausted (R263). -/
def State.sendMacsec (port : Nat) (header data : List Byte) (s : State) : State :=
  let c := txChannel port (s.portAn port)
  let a := s.sa c
  if a.installed = false ∨ a.limit ≤ a.next then s
  else
    let aad := header ++ secTag (sciOf port) (s.portAn port) a.next data.length
    let nonce := a.nonce (sciOf port) a.next
    let ct := Aes.gcmCrypt a.key nonce data
    let s1 := (((s.issueMacsec (2 * port) data.length).modSa c fun x => { x with next := x.next + 1 }).txFrame port
      (aad ++ ct ++ Aes.gcmTag a.key nonce aad ct))
    let s2 := if a.next + 1 = a.limit then s1.raise 13 (6 + port) else s1
    if a.renew ≤ a.next + 1 then s2.renewSak port else s2

/-- MACSEC_TX_FRAME (R261, R263): a frame of the controlled port. -/
def doMacsecTxFrame (port : Nat) (header data : List Byte) (s : State) : State :=
  let c := txChannel port (s.portAn port)
  if !(decide (port < 2) && s.portOn port && (s.sa c).installed) then s
  else if s.crypt.selfTest then s.holdMac c header data
  else s.sendMacsec port header data

/-- MACSEC_TX_FRAME. -/
def execMacsecTxFrame (port : Nat) (header data : List Byte) (s : State) : Host.Outcome State Fault Refusal :=
  .next (doMacsecTxFrame port header data s)

/-- A received MACsec frame, by its parts. -/
structure SecFrame where
  an : Nat
  encrypted : Bool
  pn : Nat
  sci : Nat
  header : List Byte
  aad : List Byte
  body : List Byte
  icv : List Byte
  deriving DecidableEq, Repr

/-- The parts of a MACsec frame (PRESUMED, log 55): without an explicit SCI its sender's address gives it (R464). Of the secure
data, confidentiality without an offset, or integrity alone; no other is a frame the device takes. -/
def parseSec (f : List Byte) : Option SecFrame :=
  let tci := uAt f 14 1
  let tagLen := if tci.testBit 5 then 16 else 8
  let rest := f.drop (12 + tagLen)
  let n := if uAt f 15 1 = 0 then rest.length - 16 else uAt f 15 1
  if beNat (slice f 12 2) ≠ 0x88E5 ∨ tci.testBit 7 ∨ rest.length < n + 16 ∨ 48 ≤ uAt f 15 1 ∨
      tci.testBit 3 ≠ tci.testBit 2 then none
  else
    some
      { an := tci % 4, encrypted := tci.testBit 3, pn := beNat (slice f 16 4)
        sci := if tci.testBit 5 then beNat (slice f 20 8) else beNat (slice f 6 6) * 2 ^ 16 + 1
        header := f.take 12, aad := f.take (12 + tagLen), body := rest.take n, icv := slice rest n 16 }

/-- The packet number that 32 bits on the wire stand for: under an XPN suite the 64-bit one nearest above the lowest acceptable
(PRESUMED, log 55). -/
def Sa.fullPn (a : Sa) (pn : Nat) : Nat :=
  if a.xpn then
    (a.next / 2 ^ 32 + (if 2 ^ 31 ≤ a.next % 2 ^ 32 ∧ pn < 2 ^ 31 then 1 else 0)) * 2 ^ 32 + pn
  else pn

/-- A frame verified in the pool (R257, R464): one of no live peer's secure channel or below the replay window is discarded, one
whose ICV fails is counted, and another's data goes to the MAC client. -/
def State.verifyMacsec (port : Nat) (f : SecFrame) (s : State) : State :=
  let c := rxChannel port f.an
  let a := s.sa c
  let pn := a.fullPn f.pn
  let known : Bool := (s.peersOf port).any fun p => p.1 == f.sci
  if a.installed = false ∨ known = false ∨ pn + s.cfgN recNetwork (fieldNo (4 + port) 4) < a.next then s.dropFrame port
  else
    let nonce := a.nonce f.sci pn
    let s1 := s.issueMacsec (2 * port + 1) f.body.length
    let aad := if f.encrypted then f.aad else f.aad ++ f.body
    let ct := if f.encrypted then f.body else []
    if Aes.gcmTag a.key nonce aad ct = f.icv then
      (s1.modSa c fun x => { x with next := max x.next (pn + 1) }).modNet fun n =>
        { n with macFrames := (port, f.header ++ (if f.encrypted then Aes.gcmCrypt a.key nonce f.body else f.body)) :: n.macFrames }
    else s1.modStat port fun x => { x with icv := satAdd 0xFFFFFFFF x.icv 1 }

/-- A received frame is verified, or discarded where it is no MACsec frame (R257, R464). -/
def State.takeMacsec (port : Nat) (frame : List Byte) (s : State) : State :=
  match parseSec frame with
  | some f => s.verifyMacsec port f
  | none => s.dropFrame port

/-- MACSEC_RX_FRAME (R247, R257, R261, R464). -/
def doMacsecRxFrame (port : Nat) (frame : List Byte) (s : State) : State :=
  if !(decide (port < 2) && s.portOn port) then s
  else if s.crypt.selfTest then (s.rxFrame port).holdMac (rxChannel port (uAt frame 14 1 % 4)) frame []
  else (s.rxFrame port).takeMacsec port frame

/-- MACSEC_RX_FRAME. -/
def execMacsecRxFrame (port : Nat) (frame : List Byte) (s : State) : Host.Outcome State Fault Refusal :=
  .next (doMacsecRxFrame port frame s)

/-- A frame held through the self-test is processed (R261). -/
def State.serveHeld (h : Nat × List Byte × List Byte) (s : State) : State :=
  if h.1 % 4 < 2 then s.sendMacsec (h.1 / 4) h.2.1 h.2.2 else s.takeMacsec (h.1 / 4) h.2.1

/-- The MACsec frames held through the self-test are processed in order (R261). -/
def State.serveMacsec (s : State) : State :=
  s.crypt.macHeld.foldl (fun t h => t.serveHeld h) (s.modCrypt fun x => { x with macHeld := [] })

/-! ### IPv6, gPTP and discarded frames (R466 to R468) -/

/-- A frame answered on an uplink; one that the port does not take is discarded. -/
def State.answer (port : Nat) (protectedFrame : Bool) (reply : List Byte) (s : State) : State :=
  if !s.portOn port then s
  else if s.takes port protectedFrame then (s.rxFrame port).txFrame port reply
  else (s.rxFrame port).dropFrame port

/-- The device's link-local address (R425): fe80::/64 and the device identity with its bit 57 inverted. -/
def ownAddress : List Byte := ([0xFE, 0x80] : List Byte) ++ zeros 6 ++ beBytes 8 (Config.deviceUid ^^^ (1 <<< 57)).toNat

/-- NEIGHBOUR_SOLICITATION (R466): answered with an advertisement of the device's own address. -/
def execNeighbourSolicitation (port : Nat) (protectedFrame : Bool) (s : State) : Host.Outcome State Fault Refusal :=
  .next (s.answer port protectedFrame ownAddress)

/-- ECHO_REQUEST (R466): answered with its data. -/
def execEchoRequest (port : Nat) (protectedFrame : Bool) (data : List Byte) (s : State) : Host.Outcome State Fault Refusal :=
  .next (s.answer port protectedFrame data)

/-- DUPLICATE_ADDRESS_DETECTED (R466). -/
def doDuplicateAddressDetected (port : Nat) (s : State) : State :=
  if decide (port < 2) && s.portOn port && !s.net.mgmtOff.getD port false then
    (s.modNet fun n => { n with mgmtOff := n.mgmtOff.set port true }).installEntry
  else s

/-- DUPLICATE_ADDRESS_DETECTED. -/
def execDuplicateAddressDetected (port : Nat) (s : State) : Host.Outcome State Fault Refusal :=
  .next (doDuplicateAddressDetected port s)

/-- PDELAY_REQ (R467): answered on any port where gPTP runs, with its receipt stamp through the timestamp extension (R27). -/
def doPdelayReq (port : Nat) (s : State) : State :=
  if s.portOn port && s.mbx.ready then
    ((s.rxFrame port).txFrame port []).modTbu fun t =>
      { t with
        pdelaySent := t.pdelaySent.modify port fun x => satAdd 0xFFFFFFFF x 1
        pdelayStamp := some ((s.now256 : Int) + t.extOffset) }
  else s

/-- PDELAY_REQ. -/
def execPdelayReq (port : Nat) (s : State) : Host.Outcome State Fault Refusal := .next (doPdelayReq port s)

/-- The meaning of FRAME_DISCARDED (R468): counted; on a kept uplink in Firn the drop may wake the device (R492). -/
def doFrameDiscarded (port : Nat) (s : State) : State :=
  if !s.phyOn port then s
  else
    let s1 := (s.rxFrame port).dropFrame port
    if port < 2 ∧ (s.psc.state = .firn ∨ s.psc.entry = some .firn) then s1.wakeSource 0x0A else s1

/-- FRAME_DISCARDED. -/
def execFrameDiscarded (port : Nat) (s : State) : Host.Outcome State Fault Refusal := .next (doFrameDiscarded port s)

/-! ### Links (R457, R481) -/

/-- The role an uplink takes (R457): t1_role's, on auto the forced one where the partner did not answer, else the outcome of
Clause 98 auto-negotiation, which the spec does not state: a free value (log 11). -/
def State.takesMaster (s : State) (port : Nat) : Bool :=
  match s.cfgN recNetwork (fieldNo (4 + port) 1) with
  | 0 => true
  | 1 => false
  | _ =>
    if s.net.forced.getD port false then s.cfgN recNetwork (fieldNo (4 + port) 2) == 0 else decide (s.freeVal % 2 = 1)

/-- LINK_CHANGE (R457, R468): the event, the count of link-down events, and the statistics of every port. A link that goes down
ends a forced role. -/
def doLinkChange (port : Nat) (up : Bool) (s : State) : State :=
  if s.net.linkUp.getD port up == up || (up && !s.phyOn port) then s
  else
    let s1 := (s.drawn.modNet fun n =>
      { n with
        linkUp := n.linkUp.set port up
        forced := if up then n.forced else n.forced.set port false
        master := if up && decide (port < 2) then n.master.set port (s.takesMaster port) else n.master
        linkLost := n.linkLost.set port (if up then none else some s.now) })
    let s2 := if up then s1 else s1.modStat port fun x => { x with down := satAdd 0xFFFFFFFF x.down 1 }
    (s2.raise 13 port).enterStatistics

/-- LINK_CHANGE. -/
def execLinkChange (port : Nat) (up : Bool) (s : State) : Host.Outcome State Fault Refusal := .next (doLinkChange port up s)

/-- AUTONEG_TIMEOUT (R457): an uplink on auto with no answer takes its forced role. -/
def doAutonegTimeout (port : Nat) (s : State) : State :=
  if decide (port < 2) && s.portOn port && s.cfgN recNetwork (fieldNo (4 + port) 1) == 2 && !s.net.linkUp.getD port false then
    s.modNet fun n => { n with forced := n.forced.set port true }
  else s

/-- AUTONEG_TIMEOUT. -/
def execAutonegTimeout (port : Nat) (s : State) : Host.Outcome State Fault Refusal := .next (doAutonegTimeout port s)

/-! ### PoDL feeds (R469 to R473) -/

/-- The lowest class the device declares (R469). -/
def State.lowestClass (s : State) : Option Nat := (bitsOf 16 (s.cfgN recNetwork (fieldNo 6 5))).head?

/-- A feed's standing updated. -/
def State.modFeed (s : State) (k : Nat) (f : Feed → Feed) : State := s.modPower fun p => { p with feeds := p.feeds.modify k f }

/-- A change in whether a feed delivers (R469, R473): the event, the health entry of Moraine, and the budget. Where
the other feed delivers it is a wake source (R491). A PSE that has written no class is taken to deliver the lowest class
declared; a lost feed forgets its class. -/
def State.feedChange (k : Nat) (on : Bool) (s : State) : State :=
  let cls := fun (f : Feed) => if on then (match f.cls with
    | some c => some c
    | none => s.lowestClass) else none
  let s1 := (((s.modFeed k fun f => { f with delivering := on, cls := cls f }).raise 12 (if on then 3 else 2)).installEntry).rebudget
  if (s.power.feeds.getD (1 - k) {}).delivering then s1.wakeSource 0x0B else s1

/-- FEED_DELIVERING_CHANGE (R473). -/
def doFeedDeliveringChange (k : Nat) (on : Bool) (s : State) : State :=
  match s.power.feeds[k]? with
  | some f => if f.delivering == on || (on && f.ov) then s else s.feedChange k on
  | none => s

/-- FEED_DELIVERING_CHANGE. -/
def execFeedDeliveringChange (feed : Nat) (on : Bool) (s : State) : Host.Outcome State Fault Refusal :=
  .next (doFeedDeliveringChange feed on s)

/-- FEED_OV (R472, R481): a feed above 62 V counts as not delivering; the installation condition is appended as it is raised. -/
def doFeedOv (k : Nat) (on : Bool) (s : State) : State :=
  match s.power.feeds[k]? with
  | some f =>
    let s1 := s.modFeed k fun x => { x with ov := on }
    let s2 := if on && !f.ov then s1.installEntry else s1
    if on && f.delivering then s2.feedChange k false else s2
  | none => s

/-- FEED_OV. -/
def execFeedOv (feed : Nat) (on : Bool) (s : State) : Host.Outcome State Fault Refusal := .next (doFeedOv feed on s)

/-- SCCP_CLASSIFICATION (R469): answered with podl_class_info, in every state. -/
def execSccpClassification (feed : Nat) (s : State) : Host.Outcome State Fault Refusal :=
  .next (if feed < 2 then s.modPower fun p => { p with sccpReply := s.cfgN recNetwork (fieldNo 6 5) } else s)

/-- SCCP_CLASS_WRITE (R470): a class that changes the feed's raises its event and the budget follows. -/
def doSccpClassWrite (k cls : Nat) (s : State) : State :=
  match s.power.feeds[k]? with
  | some f =>
    if 16 ≤ cls ∨ f.cls = some cls then s
    else ((s.modFeed k fun x => { x with cls := some cls }).raise 12 4).rebudget
  | none => s

/-- SCCP_CLASS_WRITE. -/
def execSccpClassWrite (feed cls : Nat) (s : State) : Host.Outcome State Fault Refusal := .next (doSccpClassWrite feed cls s)

end Sys2Proof.Machine
end

