-- ==== Sys2Proof/Machine/Cir.lean ====
section
/-!
DEFINITION. Channel impulse responses: first-path detection, the checks on a RESPONSE, and the angle of arrival
(R200, R201, R203 of 07_distance_bounding). Times are in 1/256 ns, angles in 10^-6 degree.
-/
namespace Sys2Proof.Machine

/-! ### Fixed-point helpers -/

/-- Newton steps towards a square root from above. -/
def sqrtSteps (n : Nat) : Nat → Nat → Nat
  | 0, x => x
  | k + 1, x => let y := (x + n / x) / 2; if x ≤ y then x else sqrtSteps n k y

/-- The integer square root, rounded down. -/
def natSqrt (n : Nat) : Nat := if n = 0 then 0 else sqrtSteps n 200 (2 ^ ((n.log2 + 2) / 2 + 1))

/-- A power ratio a/b is at least k dB. -/
def atLeastDb (a b k : Nat) : Bool := decide (b ^ 10 * 10 ^ k ≤ a ^ 10)

/-- The power ratio a/b in whole dB, rounded down, from 0 to 255; 255 where b is 0. -/
def wholeDb (a b : Nat) : Nat :=
  if b = 0 then 255 else (List.range 256).foldl (fun m k => if atLeastDb a b k then k else m) 0

/-! ### Impulse responses (R133, R200) -/

/-- A response as the detector reads it. -/
abbrev Resp := Cir

/-- A tap; zero outside the response. -/
def Resp.tap (c : Resp) (i : Int) : Int × Int := if i < 0 then (0, 0) else c.getD i.toNat (0, 0)

/-- The squared magnitude of a tap. -/
def tapPower (t : Int × Int) : Nat := t.1.natAbs ^ 2 + t.2.natAbs ^ 2

/-- The squared magnitude of a tap by index. -/
def Resp.power (c : Resp) (i : Int) : Nat := tapPower (c.tap i)

/-- The earliest strongest tap with its squared magnitude. -/
def Resp.strongest (c : Resp) : Nat × Nat :=
  ((List.range c.length).zip c).foldl (fun best q => if best.2 < tapPower q.2 then (q.1, tapPower q.2) else best) (0, 0)

/-- The noise level as a sum of squared magnitudes and how many it is over: the 256 taps that end 128 before the strongest,
those of them that exist. -/
def Resp.noise (c : Resp) : Nat × Nat :=
  let s := c.strongest.1
  let ts := (c.take (s + 1 - 128)).drop (s + 1 - 384)
  ((ts.map tapPower).sum, ts.length)

/-- A squared magnitude is at least k dB over the noise level; nothing is over it that is 0 itself. -/
def overNoise (noise : Nat × Nat) (k p : Nat) : Bool := decide (0 < p) && atLeastDb (p * noise.2) noise.1 k

/-- The first path's tap with a threshold of k dB over the noise level (R200 steps 1 to 3). -/
def Resp.firstTap (c : Resp) (k : Nat) : Option Nat :=
  let s := c.strongest
  let n := c.noise
  ((List.range 97).map fun j => s.1 + j - 96).find? fun i =>
    overNoise n k (c.power i) && decide (s.2 ^ 2 ≤ 10 ^ 5 * c.power i ^ 2)

/-- The magnitude of a tap in 2^-16. -/
def magnitude (p : Nat) : Nat := natSqrt (p * 2 ^ 32)

/-- The time after tap 0 of the vertex of the parabola through a tap and its neighbours (R200 step 4). Where the three have no
maximum, the spec states no vertex: the offset from the tap is free (log 30). -/
def Resp.refine (c : Resp) (i : Nat) : Int :=
  let a : Int := magnitude (c.power (i - 1 : Int))
  let b : Int := magnitude (c.power i)
  let d : Int := magnitude (c.power (i + 1 : Int))
  let curve := 2 * b - a - d
  if 0 < curve then roundDiv ((2 * curve * i + (d - a)) * 10000) (2 * curve * 39).toNat
  else roundDiv (10000 * (i : Int)) 39 + Config.pathOffset a.toNat b.toNat d.toNat

/-- A first path: its time after tap 0 and its squared magnitude. -/
structure Path where
  time : Int
  power : Nat
  deriving DecidableEq, Repr

/-- The first path of a response (R200). -/
def Resp.path (c : Resp) (k : Nat) : Option Path := (c.firstTap k).map fun i => { time := c.refine i, power := c.power i }

/-- The first-path SNR of an STS response in dB (R200); 0 without a first path. -/
def Resp.snr (c : Resp) : Nat :=
  match c.path 15 with
  | some p => wholeDb (p.power * c.noise.2) c.noise.1
  | none => 0

/-- A chain is usable: a first path with an SNR of at least 12 dB (R200). -/
def Resp.usable (sts : Resp) : Bool :=
  match sts.path 15 with
  | some p => overNoise sts.noise 12 p.power
  | none => false

/-! ### The checks of R201 on a RESPONSE -/

/-- C1 fails on a chain: the peak of the STS response over its 64 × 512 chips is below 0.60 of the SYNC peak over its 64 × 508
chips (the SYNC symbol's length PRESUMED from IEEE 802.15.4, log 31). -/
def c1Fails (sync sts : Resp) : Bool :=
  decide (sts.strongest.2 * (64 * 508) ^ 2 * 100 < 36 * sync.strongest.2 * (64 * 512) ^ 2)

/-- C2 fails on a chain: the SYNC first path is more than 0.50 ns from the STS first path, or there is none. -/
def c2Fails (sync sts : Resp) : Bool :=
  match sync.path 15, sts.path 15 with
  | some a, some b => decide (128 < (a.time - b.time).natAbs)
  | _, _ => true

/-- C3 fails: two or more taps from 32 to 2 before the first path reach noise + 9 dB. -/
def c3Fails (sts : Resp) : Bool :=
  match sts.firstTap 15 with
  | some f =>
    decide (2 ≤ ((List.range 31).filter fun j => decide (j + 2 ≤ f) && overNoise sts.noise 9 (sts.power (f - 2 - j : Nat))).length)
  | none => true

/-- C4 fails: a sub-response's first path is more than 0.30 ns from the full response's, or its magnitude is more than 6 dB from
the mean of the four, or one has none. -/
def c4Fails (sts : Resp) (subs : List Resp) : Bool :=
  match sts.path 15 with
  | none => true
  | some full =>
    let ps := subs.map fun c => c.path 9
    let mags := ps.map fun p => magnitude ((p.map (·.power)).getD 0)
    let total := mags.sum
    ps.any fun p => match p with
      | none => true
      | some q =>
        let m := 4 * magnitude q.power
        decide (768 < 10 * (q.time - full.time).natAbs) || decide (10 ^ 6 * total ^ 20 < m ^ 20) ||
          decide (10 ^ 6 * m ^ 20 < total ^ 20)

/-- C5 fails: the first paths of the chains differ by more than b/c + 0.25 ns; `b` in 0.1 mm. -/
def c5Fails (stsA stsB : Resp) (b : Nat) : Bool :=
  match stsA.path 15, stsB.path 15 with
  | some p, some q => decide (25600000 * (b : Int) < ((p.time - q.time).natAbs - 64 : Int) * 299792458)
  | _, _ => true

/-- The first path is within 6 dB of the strongest (bit 10 of checks). -/
def lineOfSight (sts : Resp) : Bool :=
  match sts.path 15 with
  | some p => decide (sts.strongest.2 ^ 10 ≤ 10 ^ 6 * p.power ^ 10)
  | none => false

/-! ### Angle of arrival (R203) -/

/-- π in 2^-60. -/
def piFix : Int := 3622009729038561421

/-- Terms of the sine or cosine series from a term, for a squared argument, in 2^-60. -/
def series (x2 : Int) : Nat → Int → Int → Int
  | 0, _, _ => 0
  | k + 1, n, term => term + series x2 k (n + 2) (-(term * x2 / 2 ^ 60) / ((n + 1) * (n + 2)))

/-- An angle in 10^-6 degree as radians in 2^-60. -/
def radians (a : Int) : Int := a * piFix / 180000000

/-- The sine of an angle from 0 to 90 degrees, in 2^-60. -/
def sinFix (a : Int) : Int := series (radians a * radians a / 2 ^ 60) 16 1 (radians a)

/-- The cosine of an angle from 0 to 90 degrees, in 2^-60. -/
def cosFix (a : Int) : Int := series (radians a * radians a / 2 ^ 60) 16 0 (2 ^ 60)

/-- The greatest angle from 0 to 90 degrees that a test, true up to some angle, admits: built bit by bit. -/
def angleSearch (ok : Int → Bool) : Int :=
  (List.range 27).foldl (fun (a : Int) k =>
    let b := a + 2 ^ (26 - k)
    if b ≤ 90000000 && ok b then b else a) 0

/-- The argument of a complex value in (-180, 180] degrees. -/
def argOf (re im : Int) : Int :=
  let q := angleSearch fun a => decide ((re.natAbs : Int) * sinFix a ≤ (im.natAbs : Int) * cosFix a)
  let h := if re < 0 then 180000000 - q else q
  if im < 0 then (if h = 180000000 then h else -h) else h

/-- An angle wrapped to (-180, 180] degrees. -/
def wrapAngle (a : Int) : Int :=
  let r := a % 360000000
  if 180000000 < r then r - 360000000 else r

/-- The complex value of a response at a time, interpolated between its taps, scaled by 10,000 (log 32). -/
def Resp.valueAt (c : Resp) (t : Int) : Int × Int :=
  let x := t * 39
  let j := x / 10000
  let r := x % 10000
  let a := c.tap j
  let b := c.tap (j + 1)
  (a.1 * (10000 - r) + b.1 * r, a.2 * (10000 - r) + b.2 * r)

/-- The angle of arrival (R203) from the STS responses at the timing chain's first-path time: `phi` in 0.1 degree, `b` in
0.1 mm, `lambda` in 0.01 mm; none where it is not valid. DESIGN CHOICE (log 70): it is not valid where the product of h_A and
the conjugate of h_B is 0, whose argument the spec does not state. -/
def angleOf (stsA stsB : Resp) (t phi : Int) (b : Nat) (lambda : Int) (minus : Bool) : Option Int :=
  let x := stsA.valueAt t
  let y := stsB.valueAt t
  let re := x.1 * y.1 + x.2 * y.2
  let im := x.2 * y.1 - x.1 * y.2
  if re = 0 ∧ im = 0 then none
  else
    let d := wrapAngle (argOf re im - 100000 * phi)
    let num := d.natAbs * lambda.natAbs
    let den := 3600000000 * b
    if den < num then none
    else
      let a := angleSearch fun q => decide (sinFix q * den ≤ num * 2 ^ 60)
      some (if (d < 0) != minus then -a else a)

end Sys2Proof.Machine
end

