-- ==== Sys2Proof/Machine/Sequencer.lean ====
section
/-!
DEFINITION. The radio sequencer (05_radio): its states, the treatment of each command in each state, held commands, settling,
and foreground calibration. Exchanges it ends are marked on their lane; Sessions.lean closes those lanes.
-/
namespace Sys2Proof.Machine


/-- The region code in force (R136). -/
def State.region (s : State) : Nat := s.cfgN recRadio 1

/-- The region whose carrier the quadrature path is to use. -/
def State.carrierRegion (s : State) : Nat := s.radio.listenUhf.getD s.region

/-- Temperatures differ by at least a bound, in 0.1 °C. -/
def movedBy (a b : Int) (k : Nat) : Bool := decide (k ≤ (a - b).natAbs)

/-- A background reply-path result is valid (R158). -/
def State.loopValid (s : State) : Bool :=
  match s.radio.loop with
  | some l => l.epoch == s.tbu.epoch && decide (s.now - l.ns ≤ 2000000000) && !movedBy s.radio.temp l.temp 30
  | none => false

/-- Image rejection and filter calibration are due for a carrier (R152). -/
def State.fgStale (s : State) (region : Nat) : Bool :=
  match s.radio.fg with
  | some f =>
    f.region != region || f.epoch != s.tbu.epoch || decide (60000000000 < s.now - f.ns) || movedBy s.radio.temp f.temp 50
  | none => true

/-- The sampling synthesiser keeps running in RX_UHF: ss_listen, or a round in progress (R138). -/
def State.ssKeeps (s : State) : Bool := s.cfgB recRadio 3 || s.sess.cur.isSome

/-- A sequencer command completes with a status other than OK. -/
def State.seqDone (op : SeqOp) (st : Nat) (s : State) : State :=
  s.modRadio fun r => { r with done := ((op, st) :: r.done).take 16 }

/-- A command is held; a ninth entry is refused with BUSY (R150). -/
def State.seqHold (c : HeldCmd) (s : State) : State :=
  if 8 ≤ s.radio.held.length then s.seqDone c.op Status.busy else s.modRadio fun r => { r with held := r.held ++ [c] }

/-- The state as the round sees its configuration: the layers it began under (R190, R213). -/
def State.roundView (s : State) : State :=
  match s.sess.cur.bind (·.cfgWas) with
  | some c => s.modCfg fun _ => c
  | none => s

/-- The antenna-switch value of RANGING for a direction and the antenna set (R146), as the exchange's image gives it (R213). -/
def State.rangeAnt (transmit : Bool) (s : State) : State :=
  s.modRadio fun r => { r with antSw := s.roundView.cfgN recRadio ((if transmit then 14 else 18) + r.rangeSet) }

/-- The LO synthesiser stops; its path needs DC-offset calibration again (R152). -/
def State.stopLo (s : State) : State := s.modRadio fun r => { r with loQual := false, calDone := false }


/-- RX_UHF is entered (R138). -/
def State.enterRxUhf (s : State) : State :=
  (s.toSeq .rxUhf).modRadio fun r =>
    if s.ssKeeps then r else { r with sampRun := false, sampQual := false }

/-- The rf.cal commands that wait have committed: CAL is taken (R447). -/
def State.calTaken (s : State) : State := s.radio.calMbs.foldl (fun (t : State) q => t.commit q.1) s

/-- An rf.test, rather than an rf.capture, holds the radio (R161). -/
def State.testSends (s : State) : Bool := s.radio.testMb.isSome && s.radio.testKind != 2

/-- rf.test sends its first sample: it has committed, and its duration runs (R161, R447). -/
def State.testBegins (s : State) : State :=
  match s.radio.testMb with
  | some mb =>
    if (s.box mb).committed || !s.testSends then s
    else (s.commit mb).modRadio fun r => { r with testEnd := s.now + 1000000 * uAt (s.box mb).payload 6 2 }
  | none => s

/-- CAL begins: a DC-offset step alone, or the full foreground calibration (R152). -/
def State.startCal (s : State) : State :=
  (s.calTaken.toSeq .cal).modRadio fun r =>
    { r with
      calStep := 0, calTemp := r.temp, calYield := none, calDone := false
      calPlan := if !r.dcOnly && s.fgStale s.carrierRegion then 12 else 1 }

/-- The way to RX_UHF: the LO synthesiser qualified, then the path calibrated (R148). -/
def State.goRxUhf (s : State) : State :=
  if !s.radio.loQual then s.startSettle .lo .rxUhf
  else if !s.radio.calDone then s.startCal
  else s.enterRxUhf

/-- The way to STANDBY, which needs the sampling synthesiser qualified (R147, R148). -/
def State.goStandby (s : State) : State :=
  if s.radio.sampQual then s.toSeq .standby
  else if s.radio.st = .synthSettle ∧ s.radio.settleOf = .sampling then s.modRadio fun r => { r with settleTo := .standby }
  else s.startSettle .sampling .standby

/-- A command that needs the sampling synthesiser acts, or is held ahead of the queue while it settles (R148); it is refused
where it would make a ninth held entry (R150). -/
def State.needSampling (c : HeldCmd) (act : State → State) (s : State) : State :=
  if s.radio.sampQual then act s
  else if 8 ≤ s.radio.held.length then s.seqDone c.op Status.busy
  else (s.modRadio fun r => { r with held := c :: r.held }).startSettle .sampling .standby

/-- RANGING is entered: the reply-path result is taken, or four acceptance slices are owed (R145, R158). -/
def State.enterRanging (c : HeldCmd) (s : State) : State :=
  let v := s.loopValid
  ((s.toSeq .ranging).modRadio fun r =>
    { r with
      rangeAt := c.due, txAt := c.due, rangeSet := c.arg, extHeld := false
      accept := if v then r.loop else none
      acceptLeft := if v then 0 else 4, acceptSumA := 0, acceptSumB := 0 }).rangeAnt true

/-- The exchange on the air is abandoned: its lane is to close as ABORTED (R144, R149, R162). -/
def State.markDead (s : State) : State :=
  let cut := fun (l : Lane) => if l.opened && l.verified && l.outcome.isNone then { l with dead := true } else l
  s.modSess fun x => { x with cur := x.cur.map fun r => { r with lanes := r.lanes.map cut } }

/-- IDLE from a listen or an exchange: listens end, and the sequencer returns to STANDBY (R149). -/
def State.idleNow (s : State) : State :=
  ((if s.radio.st = .ranging then s.markDead else s).modRadio fun r =>
    { r with
      listenUhf := none, listenUwb := none, calYield := none, rangeAt := none, txAt := none, dcOnly := false
      idleDue := false, accept := none, acceptLeft := 0 }).goStandby

/-- The time of a command's first frame is past, or too near to pass the transmit gate 2 µs before it (R144). -/
def State.gateMissed (s : State) (c : HeldCmd) : Bool :=
  match c.due with
  | some t => decide (t ≤ s.now + 2000)
  | none => false

/-- A command is taken in a state that allows it (R149). -/
def State.takeCmd (c : HeldCmd) (s : State) : State :=
  match c.op with
  | .listenUhf =>
    let s1 := if s.carrierRegion = c.arg then s else s.stopLo
    if s1.radio.st = .rxUhf ∧ s.carrierRegion = c.arg then s1.modRadio fun r => { r with listenUhf := some c.arg }
    else (s1.modRadio fun r => { r with listenUhf := some c.arg }).goRxUhf
  | .sendUhf => s.needSampling c fun t => (t.toSeq .txUhf).testBegins
  | .listenUwb =>
    s.needSampling c fun t => ((t.toSeq .rxUwb).stopLo).modRadio fun r => { r with listenUwb := some c.arg }
  | .sendUwb =>
    if s.gateMissed c then s.seqDone .sendUwb Status.deadlineMissed
    else s.needSampling c fun t =>
      ((t.toSeq .txUwb).stopLo.testBegins).modRadio fun r => { r with txAt := c.due, txStamp := none }
  | .range =>
    if s.gateMissed c then s.markDead.seqDone .range Status.synthNotReady
    else s.needSampling c fun t => t.enterRanging c
  | .cal =>
    if s.radio.loQual then s.startCal
    else if 8 ≤ s.radio.held.length then s.seqDone .cal Status.busy
    else (s.modRadio fun r => { r with held := c :: r.held }).startSettle .lo .standby
  | .idle => s.idleNow
  | _ => s

/-- The held command that goes first among those the test admits: a RANGE ahead of every other (R150). -/
def pickHeld (ok : HeldCmd → Bool) (cs : List HeldCmd) : Option HeldCmd :=
  match cs.find? fun c => c.op == .range && ok c with
  | some c => some c
  | none => cs.find? ok

/-- A held command leaves the queue and is taken. -/
def State.takeHeld (c : HeldCmd) (s : State) : State :=
  (s.modRadio fun r => { r with held := r.held.erase c }).takeCmd c


/-- Held commands are taken while the state allows (R150). -/
def State.serveSeq : Nat → State → State
  | 0, s => s
  | n + 1, s =>
    let next := match s.radio.st with
      | .standby => pickHeld (fun _ => true) s.radio.held
      | .rxUhf => pickHeld (fun _ => true) s.radio.held
      | .rxUwb => pickHeld (fun _ => true) s.radio.held
      | _ => none
    match next with
    | some c => State.serveSeq n (s.takeHeld c)
    | none => s

/-- The sequencer has arrived in a state: held commands follow; the LO synthesiser stops where STANDBY remains (R147, R150). -/
def State.settleDown (s : State) : State :=
  let s1 := s.serveSeq 9
  if s1.radio.st = .standby then s1.stopLo else s1

/-- CAL resumes after an exchange, from its first step after 50 ms or a temperature move (R154). -/
def State.resumeCal (since : Nat) (s : State) : State :=
  let s1 := s.modRadio fun r => { r with calYield := none }
  if !s.radio.loQual then s1.startSettle .lo .rxUhf
  else if since + 50000000 ≤ s.now ∨ movedBy s.radio.temp s.radio.calTemp 50 = true then s1.startCal
  else s1.toSeq .cal

/-- The target of the oldest held command, else STANDBY (R148); a calibration that yielded resumes once no RANGE is held
(R154). -/
def State.afterBusy (s : State) : State :=
  if s.radio.held.any fun c => c.op == .range then s.goStandby.settleDown
  else
    match s.radio.calYield with
    | some t => s.resumeCal t
    | none => s.goStandby.settleDown

/-- The outputs go off and PD9 and PD10 are gated (R148). -/
def State.radioOff (s : State) : State :=
  let kept := s.psc.gatedNow
  let s1 := (s.toSeq .off).modRadio fun r =>
    { r with
      sampRun := false, sampQual := false, loQual := false, calDone := false, dcOnly := false, listenUhf := none
      listenUwb := none, txAt := none, rangeAt := none, calYield := none, idleDue := false, accept := none, acceptLeft := 0 }
  ((s1.gateDomain 10).gateDomain 9).modPsc fun p => { p with gatedNow := kept }

/-- UP (R148, R149): PD9 and PD10 are powered, the sampling synthesiser settles, and the TBU loads the timestamp extension
(R27). With its pads still frozen the sequencer stays OFF until PAD_FRZ releases them (R498). -/
def State.seqUp (s : State) : State :=
  if s.radio.st = .off ∧ s.rolesRun = true then
    let s1 := ((s.restoreDomain 9).restoreDomain 10).wakeSource 0x0D
    if s1.pad.frz.getLsbD 10 then s1
    else (s1.modTbu fun t => { t with extOffset := 0 }).startSettle .sampling .standby
  else s

/-- Held commands complete: a RANGE with SYNTH_NOT_READY, any other with DEADLINE_MISSED (R144, R151). -/
def State.failHeld (late : HeldCmd → Bool) (s : State) : State :=
  let gone := s.radio.held.filter late
  let s1 := gone.foldl (fun (t : State) c =>
    t.seqDone c.op (if c.op = .range then Status.synthNotReady else Status.deadlineMissed))
    (s.modRadio fun r => { r with held := r.held.filter fun c => !late c })
  if gone.any fun c => c.op == .range then s1.markDead else s1

/-- DOWN (R148, R149): what is held completes as in R151 (log 38). -/
def State.seqDown (s : State) : State :=
  if s.radio.st = .off then s else ((if s.radio.st = .ranging then s.markDead else s).failHeld fun _ => true).radioOff

/-- At a sleep vote the radio role issues DOWN when it has no session in flight and no test holds the radio (R162). -/
def State.sleepDown (s : State) : State :=
  if s.sess.cur.isNone && s.sess.test.isNone && s.radio.testMb.isNone then s.seqDown else s

/-- IDLE (R149). -/
def State.seqIdle (limit : Nat) (s : State) : State :=
  match s.radio.st with
  | .off => s.seqDone .idle Status.invalid
  | .standby => s
  | .synthSettle => ((s.modRadio fun r => { r with held := [] }).idleNow).settleDown
  | .cal => s.modRadio fun r => { r with idleDue := true }
  | .txUhf => s.seqHold { op := .idle, limit := limit }
  | .txUwb => s.seqHold { op := .idle, limit := limit }
  | _ => s.idleNow.settleDown

/-- LISTEN_UHF on a region's carrier (R149). -/
def State.seqListenUhf (region limit : Nat) (s : State) : State :=
  let c : HeldCmd := { op := .listenUhf, arg := region, limit := limit }
  match s.radio.st with
  | .off => s.seqDone .listenUhf Status.invalid
  | .standby => (s.takeCmd c).settleDown
  | .rxUhf => (s.takeCmd c).settleDown
  | .synthSettle =>
    let same := decide (s.carrierRegion = region)
    let s1 := (if same then s else s.stopLo).modRadio fun r =>
      { r with listenUhf := some region, settleTo := .rxUhf, dcOnly := r.dcOnly && same }
    if s.carrierRegion = region ∨ s.radio.settleOf = .sampling then s1 else s1.startSettle .lo .rxUhf
  | .cal =>
    let s1 := s.modRadio fun r => { r with listenUhf := some region }
    if s.carrierRegion = region then s1
    else (s1.stopLo.modRadio fun r => { r with dcOnly := false }).startSettle .lo .rxUhf
  | _ => s.seqHold c

/-- A frame's command in the states of R149: taken in STANDBY and in the listens it may interrupt, after any frame in
reception; held elsewhere. -/
def State.seqFrame (c : HeldCmd) (rx uwb : Bool) (s : State) : State :=
  match s.radio.st with
  | .off => s.seqDone c.op Status.invalid
  | .standby => (s.takeCmd c).settleDown
  | .rxUhf => if rx then s.seqHold c else (s.takeCmd c).settleDown
  | .rxUwb => if uwb && !rx then (s.takeCmd c).settleDown else s.seqHold c
  | _ => s.seqHold c

/-- SEND_UHF, with the limit that tx_timeout gives (R149, R151); `rx`: a frame is in reception. -/
def State.seqSendUhf (rx : Bool) (s : State) : State :=
  s.seqFrame { op := .sendUhf, limit := s.now + 100000 * s.cfgN recRadio 4 } rx false

/-- LISTEN_UWB on a channel (R132, R149). -/
def State.seqListenUwb (chan limit : Nat) (rx : Bool) (s : State) : State :=
  if s.radio.st = .rxUwb then s.modRadio fun r => { r with listenUwb := some chan }
  else s.seqFrame { op := .listenUwb, arg := chan, limit := limit } rx false

/-- SEND_UWB, scheduled or at once (R144, R149). -/
def State.seqSendUwb (due : Option Nat) (limit : Nat) (rx : Bool) (s : State) : State :=
  s.seqFrame { op := .sendUwb, due := due, limit := due.getD limit } rx true

/-- The lead that a RANGE needs (R145). -/
def State.rangeLead (s : State) : Nat :=
  30000 + (if s.radio.sampQual then 0 else 70000) + (if s.loopValid then 0 else 40000)

/-- RANGE with an antenna set and its first frame's time (R145, R149). -/
def State.seqRange (set first limit : Nat) (s : State) : State :=
  let c : HeldCmd := { op := .range, arg := set, due := some first, limit := limit }
  if s.radio.st = .off ∨ first < s.now + s.rangeLead then s.seqDone .range Status.invalid
  else
    match s.radio.st with
    | .standby => (s.takeCmd c).settleDown
    | .rxUhf => (s.takeCmd c).settleDown
    | .rxUwb => (s.takeCmd c).settleDown
    | _ => s.seqHold c

/-- CAL (R149). -/
def State.seqCal (limit : Nat) (s : State) : State :=
  let c : HeldCmd := { op := .cal, limit := limit }
  match s.radio.st with
  | .off => s.seqDone .cal Status.invalid
  | .cal => s
  | .standby => (s.takeCmd c).settleDown
  | .rxUhf => (s.takeCmd c).settleDown
  | _ => s.seqHold c

/-! ### Settling and locks (R142, R143, R148) -/

/-- A synthesiser's lock is qualified; the LO synthesiser's band index is kept (R152, a free value). -/
def State.seqQualified (synth : Synth) (s : State) : State :=
  if s.radio.st ≠ .synthSettle ∨ s.radio.settleOf ≠ synth then s
  else
    let s1 := match synth with
      | .sampling => s.modRadio fun r => { r with sampQual := true, sampRun := true }
      | .lo => (s.modRadio fun r => { r with loQual := true, loBand := some s.freeVal }).drawn
    if synth = .lo ∧ s1.radio.dcOnly = true then s1.startCal
    else if (s1.radio.held.any fun c => c.op == .range) || s1.radio.settleTo != .rxUhf then s1.afterBusy
    else s1.goRxUhf.settleDown


/-- Qualification has not come within 400 µs (R148, R151). -/
def State.seqSettleTimeout (s : State) : State :=
  if s.radio.st ≠ .synthSettle then s
  else if s.radio.settleFails = 0 then s.modRadio fun r => { r with settleFails := 1 }
  else
    let s1 := ((s.failHeld fun _ => true).modRadio fun r =>
      { r with settleFail := satAdd 0xFFFFFFFF r.settleFail 1, upRetry := some (s.now + 10000000), dcOnly := false, calYield := none }).healthFree
      0x0080 0 7
    let s2 := s1.raise 4 0
    match s.radio.settleOf with
    | .sampling => s2.radioOff
    | .lo => s2.stopLo.afterBusy

/-- What loss of the sampling synthesiser's lock does to a frame or exchange (R143, R144, R162): an exchange completes with
SYNTH_NOT_READY; a scheduled frame that has not begun is held at the gate, or has missed its time. -/
def State.cutAir (s : State) : State :=
  if s.radio.st = .ranging then s.markDead.seqDone .range Status.synthNotReady
  else
    match s.radio.st, s.radio.txAt with
    | .txUwb, some t =>
      let c : HeldCmd := { op := .sendUwb, due := some t, limit := t }
      if t ≤ s.now then s
      else if s.gateMissed c then s.seqDone .sendUwb Status.deadlineMissed
      else if 8 ≤ s.radio.held.length then s.seqDone .sendUwb Status.busy
      else s.modRadio fun r => { r with held := c :: r.held }
    | _, _ => s

/-- A lock detector reports loss of lock (R142, R143, R148, R162). DESIGN CHOICE (log 68): the sampling synthesiser counts as in
use in every state but OFF in which it stands qualified, CAL and the settling of the LO synthesiser among them. -/
def State.seqLockLost (synth : Synth) (s : State) : State :=
  match synth with
  | .sampling =>
    if s.radio.st = .off ∨ s.radio.sampQual = false then s
    else
      (s.cutAir.modRadio fun r =>
        { r with
          sampQual := false, txAt := none, rangeAt := none, dcOnly := false, accept := none, acceptLeft := 0 }).startSettle
        .sampling .standby
  | .lo =>
    if s.radio.loQual = false then s
    else if s.radio.st = .rxUhf ∨ s.radio.st = .txUhf then
      (s.stopLo.modRadio fun r => { r with dcOnly := true }).startSettle .lo .rxUhf
    else s.stopLo

/-! ### Foreground calibration (R152 to R154) -/

/-- The last step is completed: results are stored (R152), the trims themselves free values. The path is calibrated where the LO
synthesiser's lock has stood. -/
def State.finishCal (s : State) : State :=
  let f := s.freeVal
  (s.modRadio fun r =>
    let full := r.calPlan == 12
    { r with
      calDone := r.loQual, dcOnly := false, calYield := none
      fg :=
        if full then
          some { ns := s.now, epoch := s.tbu.epoch, temp := r.temp, region := s.carrierRegion, gain := f % 2 ^ 32
                 phase := f / 2 ^ 32 % 2 ^ 32, filter := f / 2 ^ 64 % 2 ^ 32 }
        else r.fg
      recalDue := r.recalDue && !full
      calMbs := r.calMbs.map fun q => (q.1, q.2 &&& 2) }).drawn

/-- CAL is left: to a held RANGE, to TX_UHF for a held SEND_UHF, else to RX_UHF, through SYNTH_SETTLE where the LO synthesiser
has lost its lock (R148, R150). -/
def State.leaveCal (s : State) : State :=
  let hs := s.radio.held
  match hs.find? fun c => c.op == .range with
  | some c => (s.takeHeld c).settleDown
  | none =>
    match hs.find? fun c => c.op == .sendUhf with
    | some c => (s.takeHeld c).settleDown
    | none => s.goRxUhf.settleDown

/-- The I and Q offset trims that a DC-offset step gives, free values (R152): the first step and the last are such steps. -/
def State.dcStep (n : Nat) (s : State) : State :=
  if n = 1 ∨ s.radio.calPlan ≤ n then
    (s.modRadio fun r => { r with dcTrim := some (s.freeVal % 2 ^ 32, s.freeVal / 2 ^ 32) }).drawn
  else s

/-- A foreground step ends (R152, R154), at an RF die temperature. -/
def State.seqCalStep (temp : Int) (s : State) : State :=
  if s.radio.st ≠ .cal then s
  else
    let n := s.radio.calStep + 1
    let s1 := (s.modRadio fun r => { r with temp := temp, calStep := n }).dcStep n
    if s1.radio.idleDue then s1.stopLo.idleNow.settleDown
    else if s1.radio.calPlan ≤ n then s1.finishCal.leaveCal
    else
      match s1.radio.held.find? fun c => c.op == .range with
      | some c => ((s1.modRadio fun r => { r with calYield := some s.now }).takeHeld c).settleDown
      | none => s1

/-- The exchange on the air has ended (R148, R154). -/
def State.endRanging (s : State) : State :=
  if s.radio.st ≠ .ranging then s
  else (s.modRadio fun r => { r with rangeAt := none, txAt := none, accept := none, acceptLeft := 0 }).afterBusy

/-- The recalibration that is due runs once no key session is in flight (R154, R190). -/
def State.serveRecal (s : State) : State :=
  if s.radio.recalDue && s.sess.cur.isNone && s.radio.st == .rxUhf then s.seqCal (s.now + 200000000) else s

/-! ### Frames and slices -/

/-- The next frame of the device's own starts within a span (R156). -/
def State.ownFrameWithin (s : State) (span : Nat) : Bool :=
  let soon := fun (t : Option Nat) => match t with
    | some x => decide (s.now ≤ x) && decide (x ≤ s.now + span)
    | none => false
  soon s.radio.txAt || s.radio.held.any fun c => soon c.due

/-- The length of a slice by kind: offset, gain, skew, reply path (R155). -/
def sliceNs (kind : Nat) : Nat := if kind < 2 then 2000 else if kind = 2 then 4000 else 10000

/-- A slice's effect on its sweep or result (R155, R158): the trim of one sub-converter in each chain, a free value, or with
`dA` and `dB` the loopback delays of a reply-path slice. -/
def State.runSlice (kind dA dB : Nat) (temp : Int) (s : State) : State :=
  (s.modRadio fun r0 =>
    let n := r0.sweepPos.getD kind 0 + 1
    let r : Radio :=
      { r0 with
        temp := temp
        subTrims := r0.subTrims.modify kind fun l => l.set (n - 1) (some (s.freeVal % 2 ^ 32, s.freeVal / 2 ^ 32)) }
    if kind < 3 then
      if n < 64 then { r with sweepPos := r.sweepPos.set kind n }
      else { r with sweepPos := r.sweepPos.set kind 0, sweepEnd := r.sweepEnd.set kind (some s.now) }
    else if r.acceptLeft ≠ 0 then
      let a := r.acceptSumA + dA
      let b := r.acceptSumB + dB
      if r.acceptLeft = 1 then
        { r with
          acceptLeft := 0, acceptSumA := a, acceptSumB := b
          accept := some { ns := s.now, epoch := s.tbu.epoch, temp := temp
                           dA := (roundDiv a 4).toNat, dB := (roundDiv b 4).toNat } }
      else { r with acceptLeft := r.acceptLeft - 1, acceptSumA := a, acceptSumB := b }
    else
      let a := r.loopSumA + dA
      let b := r.loopSumB + dB
      if n < 16 then { r with sweepPos := r.sweepPos.set 3 n, loopSumA := a, loopSumB := b }
      else
        { r with
          sweepPos := r.sweepPos.set 3 0, loopSumA := 0, loopSumB := 0
          loop := some { ns := s.now, epoch := s.tbu.epoch, temp := temp
                         dA := (roundDiv a 16).toNat, dB := (roundDiv b 16).toNat }
          calMbs := r.calMbs.map fun q => (q.1, q.2 &&& 1) }).drawn

end Sys2Proof.Machine
end

