-- ==== Sys2Proof/Machine/Sessions.lean ====
section
/-!
DEFINITION. Key sessions and distance bounding (06_key_sessions, 07_distance_bounding): rounds, slots, lanes, the CCM
exchange, the ranging exchange, the checks and the outcomes.
-/
namespace Sys2Proof.Machine

/-! ### UHF frames (R173) -/

/-- One bit of CRC-16/CCITT (R173). -/
def crc16Bit (crc : BitVec 16) (b : Bool) : BitVec 16 :=
  let top := crc.getLsbD 15 != b
  if top then (crc <<< 1) ^^^ 0x1021 else crc <<< 1

/-- CRC-16/CCITT with initial value 0xFFFF, most significant bit first (R173, R419). -/
def crc16 (bs : List Byte) : Nat :=
  (bs.foldl (fun (c : BitVec 16) b => (List.range 8).foldl (fun c i => crc16Bit c (b.getLsbD (7 - i))) c) 0xFFFF).toNat

/-- The payload of a received frame of length, payload and CRC when its CRC is correct (R173). -/
def uhfPayload (frame : List Byte) : Option (List Byte) :=
  let n := uAt frame 0 1
  if frame.length = n + 3 ∧ crc16 (frame.take (n + 1)) = beNat (frame.drop (n + 1)) then some (slice frame 1 n) else none

/-- The frame of a payload as it is sent (R173): preamble, sync word, length, payload and CRC. -/
def uhfFrame (p : List Byte) : List Byte :=
  let body := leBytes 1 p.length ++ p
  beBytes 3 0xAAAAAA ++ beBytes 2 0xB4C6 ++ body ++ beBytes 2 (crc16 body)

/-! ### Rounds and lanes -/

/-- The round in progress updated. -/
def State.modRound (f : Round → Round) (s : State) : State := s.modSess fun x => { x with cur := x.cur.map f }

/-- A lane of the round in progress updated. -/
def State.modLane (k : Nat) (f : Lane → Lane) (s : State) : State :=
  s.modRound fun r => { r with lanes := r.lanes.modify k f }


/-- A field of the antenna set (R204). -/
def State.setField (s : State) (set i : Nat) : Int := s.roundView.cfgI recRanging (fieldNo set i)

/-- A field of a zone (R205). -/
def State.zoneField (s : State) (z i : Nat) : Int := s.roundView.cfgI recZones (fieldNo z i)

/-- The antenna set that a configuration names (R204). -/
def State.antennaSet (s : State) (config : Nat) : Nat := s.roundView.cfgN recRanging (fieldNo 4 (config + 1))

/-- A field of a wake configuration (R164). -/
def State.wakeField (s : State) (config i : Nat) : Nat := s.roundView.cfgN recWake (fieldNo config i)

/-- The lane that is open with its outcome not decided. -/
def Round.active (r : Round) : Option Lane := r.lanes.find? fun l => l.opened && l.outcome.isNone

/-- A request that the round serves names the identity (R93). -/
def Round.names (r : Round) (ident : Nat) : Bool := r.addressed == some ident || r.also.contains ident

/-- The addressed exchange of a part.enrol for an identity (R52). -/
def State.enrolFor (s : State) (r : Round) (ident : Nat) : Option Enrolment :=
  s.parts.enrol.filter fun e => e.identity == ident && r.names ident

/-! ### Records (R188, R209) -/

/-- The 48 bytes of a session record. -/
def SessRec.bytes (x : SessRec) : List Byte :=
  leBytes 4 x.roundSeq ++ leBytes 4 x.epoch ++ leBytes 8 x.wakeNs ++ leBytes 8 x.resultNs ++ leBytes 4 x.unc ++
    leBytes 1 x.config ++ leBytes 1 x.slot ++ leBytes 1 x.lane ++ leBytes 1 x.outcome ++ leBytes 8 x.identity ++
    leBytes 2 x.motion ++ leBytes 2 x.scale ++ leBytes 2 x.zones.toNat ++ zeros 2

/-- The 64 bytes of a ranging record. -/
def RangeRec.bytes (x : RangeRec) : List Byte :=
  leBytes 4 x.roundSeq ++ leBytes 4 x.epoch ++ leBytes 8 x.pollNs ++ leBytes 4 x.unc ++ leBytes 1 x.lane ++
    leBytes 1 x.attempt ++ leBytes 1 x.channel ++ leBytes 1 x.antSet ++ leBytes 4 x.ra1 ++ leBytes 4 x.db2 ++
    leBytes 4 x.db1 ++ leBytes 4 x.ra2 ++ leBytes 4 x.dDev ++ leInt 4 x.tof ++ leInt 4 x.distance ++
    (match x.aoa with
      | some a => leInt 2 a
      | none => leBytes 2 (if x.attempt = 0 then 0 else 0x8000)) ++
    leBytes 2 x.checks.toNat ++ leBytes 2 x.lfZones.toNat ++ leBytes 2 x.rangeZones.toNat ++ leInt 2 x.clock ++
    leBytes 1 x.snrA ++ leBytes 1 x.snrB


/-! ### range.test (R451) -/

/-- A ranging record of a test session is written to its window, and an exchange that counts is noted. -/
def State.testRecord (r : Round) (outcome : Nat) (x : RangeRec) (s : State) : State :=
  match s.sess.test with
  | some t =>
    if r.names t.identity ∧ x.lane ∈ (r.lanes.filter fun l => l.ans.identity == t.identity).map (·.k) then
      let b := s.box t.mb
      ((s.commit t.mb).toWindow b (uAt b.payload 16 4 + 64 * t.nRec) x.bytes).modSess fun y =>
        { y with test := some { t with
            nRec := t.nRec + 1
            tofs := if outcome ≤ 1 && x.checks.getLsbD 10 then t.tofs ++ [x.tof] else t.tofs } }
    else s
  | none => s

/-- delta (R451): 2 × (mean_tof − d_ref / c) in 1/256 ns, from the sum of n times of flight. -/
def testDelta (sum : Int) (n dRef : Nat) : Int :=
  roundDiv (2 * (sum * 299792458 - n * 256000000 * dRef)) (n * 299792458)

/-- The standard deviation of the times of flight in ps, over those exchanges (R451; log 33). -/
def testSd (ts : List Int) : Nat :=
  let n := ts.length
  let sum : Int := ts.foldl (· + ·) 0
  let sq : Int := (ts.map fun t => t * t).foldl (· + ·) 0
  let var : Nat := ((n : Int) * sq - sum * sum).toNat
  (natSqrt (var * 1000000 * 4) + 256 * n) / (2 * 256 * n)

/-- The body of range.test; where no exchange counts, its three figures are free. -/
def State.testBody (s : State) (t : RangeTest) : List Byte :=
  let n := t.tofs.length
  let sum : Int := t.tofs.foldl (· + ·) 0
  leBytes 2 n ++ leBytes 2 t.nRun ++ zeros 4 ++
    (if n = 0 then s.freeBytes 16
      else leInt 8 (roundDiv (sum * 256) n) ++ leInt 4 (testDelta sum n t.dRef) ++ leBytes 4 (testSd t.tofs))

/-- The test ends and posts (R451). -/
def State.testEnd (t : RangeTest) (status : Nat) (s : State) : State :=
  ((s.conclude t.mb status (s.testBody t)).modSess fun y => { y with test := none }).drawn

/-- A chain addressed for range.test has ended: the test ends, or its next session is requested (R451). -/
def State.testChain (r : Round) (s : State) : State :=
  match s.sess.test with
  | some t =>
    if r.names t.identity then
      let t1 := { t with nRun := t.nRun + 1, left := t.left - 1, derated := t.derated || decide (r.minScale < 10000) }
      let s1 := (s.modSess fun y => { y with test := some t1 }).evalIdentity t.identity
      if s1.identityLocked t.identity then s1.testEnd t1 Status.lockedOut
      else if t1.left = 0 then s1.testEnd t1 (if t1.derated then Status.derated else Status.ok)
      else s1.requestWake t.config [] (some t.identity)
    else s
  | none => s

/-! ### The end of a round (R184, R188) -/

/-- The slots of a kind. -/
def Round.slotsOf (r : Round) (k : SlotKind) : Nat := (r.slots.filter (· == k)).length

/-- The chain's figures with this round's: admitted, present, clean, collision. -/
def Round.totals (r : Round) : List Nat :=
  let here := [r.lanes.length, (r.lanes.filter fun l => l.outcome == some 0).length, r.slotsOf .clean, r.slotsOf .collision]
  List.zipWith (satAdd 255) r.sums here

/-- The body of sess.poll for a chain whose last round this is. -/
def Round.pollBody (r : Round) : List Byte :=
  leBytes 4 r.firstSeq ++ leBytes 4 r.epoch ++ leBytes 8 r.firstNs ++ leBytes 2 r.minScale ++
    r.totals.flatMap (leBytes 1) ++ leBytes 1 r.followUps ++ zeros 1

/-- A follow-up round is requested (R184). -/
def Round.followsUp (r : Round) : Bool :=
  (decide (0 < r.slotsOf .collision) || decide (0 < r.unserved)) && decide (r.followUps < 3)

/-- The chain ends: the commands it served are posted (R165, R189). -/
def State.endChain (r : Round) (s : State) : State :=
  let st := if r.minScale < 10000 then Status.derated else Status.ok
  (r.mbs.foldl (fun (t : State) mb => t.conclude mb st r.pollBody) s).testChain r

/-- The wake request of a round's follow-up, which carries its chain on (R184). -/
def Round.followUp (r : Round) : Burst :=
  { config := r.config, mbs := r.mbs, addressed := r.addressed, also := r.also, shared := r.shared
    followUps := r.followUps + 1, chain := some (r.firstSeq, r.firstNs, r.minScale, r.totals) }

/-- The last lane has closed: the records are issued, and a follow-up is requested or the chain ends (R184). -/
def State.endRound (r : Round) (s : State) : State :=
  let s1 := (s.modSess fun x => { x with cur := none, last := some { r with sums := r.totals } }).raise 2 0
  let s2 := if r.followsUp then s1.wakeRequest r.followUp else s1.endChain r
  s2.considerAll.serveRecal

/-- The round ends once its window has closed and every lane has its outcome. -/
def State.settleRound (s : State) : State :=
  match s.sess.cur with
  | some r => if r.closed && r.lanes.all fun l => l.outcome.isSome then s.endRound r else s
  | none => s

/-! ### The end of a lane (R187, R188) -/

/-- A lane's outcome is decided, and it closes: its session record and ranging record are issued (R180, R188, R209). -/
def State.issue (r : Round) (l : Lane) (outcome : Nat) (zones : BitVec 16) (s : State) : State :=
  let x := s.sessRec r l outcome zones
  let s1 := ((s.modSess fun y =>
    { y with
      recs := y.recs ++ [x]
      lastBy := x :: y.lastBy.filter fun z => z.identity != x.identity
      ranges := y.ranges ++ l.record.toList }).modLane l.k fun z =>
    { z with outcome := some outcome, closeNs := s.now }).dropShadow l.ans.rootSlot
  match l.record with
  | some g => s1.testRecord r outcome g
  | none => s1

/-- A lane ends with an outcome of no presence: a counted failure is committed before its record (R57, R202, R572). DESIGN
CHOICE (log 72): the zones of its session record read 0, those met on a REPORT whose checks failed included. -/
def State.endLane (l : Lane) (outcome : Nat) (s : State) : State :=
  match s.sess.cur with
  | some r =>
    let s1 :=
      if 2 ≤ outcome ∧ outcome ≤ 5 then s.countFailure 1 outcome l.ans.identity (some r.antenna) else s
    (s1.issue r l outcome 0).settleRound
  | none => s

/-- Lanes whose exchange has ended under the sequencer close as ABORTED (R144, R162, R187). -/
def State.settleLanes (s : State) : State :=
  match s.sess.cur with
  | some r =>
    (r.lanes.filter fun l => l.dead && l.outcome.isNone).foldl (fun (t : State) l => t.endLane l 7) s
  | none => s

/-- A lane that must not run on ends at its next step: ABORTED (R68) or NO_KEY (R190); IDLE ends its exchange. -/
def State.cutLane (l : Lane) (s : State) : Option State :=
  if l.aborted then some ((s.endLane l 7).seqIdle s.now)
  else if l.noKey then some ((s.endLane l 10).seqIdle s.now)
  else none

/-! ### Polls (R165) -/

/-- A poll of the configuration is due (R165); with no burst before it, at once. -/
def State.pollDue (s : State) (k : Nat) : Bool :=
  s.cfgB recWake (fieldNo k 1) && decide (s.cfgN recWake (fieldNo k 13) ≠ 0) &&
    (s.cfgN recWake (fieldNo k 14)).testBit (decisionCode s.rel.st) && s.rolesRun &&
    match s.sess.pollStart.getD k none with
    | some t => decide (t + 10000000 * s.cfgN recWake (fieldNo k 13) ≤ s.now)
    | none => true

/-- PERIODIC_POLL (R165). -/
def execPeriodicPoll (config : Nat) (s : State) : Host.Outcome State Fault Refusal :=
  .next (if config < 8 ∧ s.pollDue config = true then (s.requestWake config [] none).considerAll else s)

/-! ### Slots (R174 to R179) -/

/-- The root slot, role and key epoch of a session's label (R45, R179): the slot that part.enrol names for the session it asks
for (R52), else the record's or, for a candidate, that of the enrolment defaults; a candidate has role 0x10 and epoch 0. -/
def State.sessionKeyOf (s : State) (r : Round) (ident : Nat) : Nat × Nat × Nat :=
  let asked := (s.enrolFor r ident).map (·.slot)
  let fresh := (asked.getD (s.roundView.cfgN recPartners 4), 0x10, 0)
  match s.rec? ident with
  | some p => if p.state = .candidate then fresh else (asked.getD p.slot, p.role, p.keyEpoch)
  | none => fresh

/-- A clean answer is kept, and its derivation starts under the slot's present version (R179, R284). -/
def State.slotAnswer (r : Round) (slot : Nat) (p : List Byte) (s : State) : State :=
  let ident := beNat (slice p 2 8)
  let key := s.sessionKeyOf r ident
  if !validIdentity ident then s
  else s.modRound fun x =>
    { x with answers := x.answers ++
        [{ slot := slot, identity := ident, payload := p, motion := beNat (slice p 13 2), rootSlot := key.1
           version := (s.slot key.1).version, role := key.2.1, keyEpoch := key.2.2 }] }

/-- A payload is a slot answer for the slot (R174, R176). -/
def isAnswer (slot : Nat) (p : List Byte) : Bool :=
  p.length == 15 && uAt p 0 1 == 0x31 && uAt p 1 1 % 16 == slot

/-- A slot of the window open takes a kind (R176); one that is no longer clean holds no answer. -/
def State.setSlot (slot : Nat) (k : SlotKind) (s : State) : State :=
  s.modRound fun x =>
    { x with
      slots := x.slots.set slot k
      answers := if k = .clean then x.answers else x.answers.filter fun a => a.slot != slot }

/-- A sync word has been found in a slot (R176). -/
def State.setSynced (slot : Nat) (s : State) : State := s.modRound fun x => { x with synced := x.synced.set slot true }

/-- SLOT_ANSWER (R176): what a slot of the open window holds: a frame after its sync word, or preamble energy without one. The
slot is clean with one sync word, whose frame is a clean answer. -/
def doSlotAnswer (slot : Nat) (frame : Option (List Byte)) (s : State) : State :=
  match s.sess.cur with
  | some r =>
    let t0 := r.wakeNs + 10300000 + 2000000 * slot
    if r.closed || decide (16 ≤ slot) || decide (s.now < t0) || decide (t0 + 2000000 < s.now) then s
    else
      match frame with
      | none => if r.slots.getD slot .empty = .empty then s.setSlot slot .collision else s
      | some f =>
        let s1 := s.setSynced slot
        match uhfPayload f with
        | some p =>
          if isAnswer slot p && !r.synced.getD slot false then (s1.setSlot slot .clean).slotAnswer r slot p
          else s1.setSlot slot .collision
        | none => s1.setSlot slot .collision
  | none => s

/-- SLOT_ANSWER. -/
def execSlotAnswer (slot : Nat) (frame : Option (List Byte)) (s : State) : Host.Outcome State Fault Refusal :=
  .next (doSlotAnswer slot frame s)

/-- A session key once derived (R179, R284); none where the slot is sealed or gives no key. -/
def State.deriveKs (s : State) (a : SlotAns) : Option (List Byte) :=
  if s.crypt.sealed || ((s.slot a.rootSlot).version == a.version && (s.slot a.rootSlot).cls != 2) then none
  else (s.rootAt a.rootSlot a.version).map fun k => kdf k 0x0201 a.identity a.role a.keyEpoch 128

/-- DERIVATION_COMPLETE (R179, R283): the session-key derivation of the answer in a slot. -/
def doDerivationComplete (slot : Nat) (s : State) : State :=
  let put := fun (a : SlotAns) =>
    if a.slot == slot && !a.derived then { a with derived := true, key := s.deriveKs a } else a
  s.modRound fun r =>
    { r with
      answers := r.answers.map put
      lanes := r.lanes.map fun l => { l with ans := put l.ans } }

/-- DERIVATION_COMPLETE. -/
def execDerivationComplete (slot : Nat) (s : State) : Host.Outcome State Fault Refusal :=
  .next (doDerivationComplete slot s)

/-! ### Admission (R61, R172, R177, R178) -/

/-- What a round makes of a clean answer: a rank class of R178, or why it is not eligible. -/
inductive Verdict where
  | rank (cls : Nat)
  | motion
  | lock
  | unknown
  | other
  deriving DecidableEq, Repr

/-- The motion policy of the configuration (R172). -/
def State.motionOk (s : State) (config motion : Nat) : Bool :=
  let maxAge := s.wakeField config 16
  (maxAge == 0 || decide (motion % 0x4000 ≤ maxAge)) && (!motion.testBit 14 || s.wakeField config 17 == 1)

/-- A role is in the configuration's roles (R164). -/
def State.roleTaken (s : State) (config role : Nat) : Bool :=
  decide (0x10 ≤ role) && decide (role ≤ 0x12) && (s.wakeField config 15).testBit (role - 0x10)

/-- The class of a record (R178). -/
def rankOf (p : PartRec) : Nat :=
  if p.state = .enrolled then (if p.failCount = 0 then 1 else 2) else if p.state = .absent then 3 else 4

/-- A clean answer judged (R61, R172, R177). The spec does not place every refusal in a count. DESIGN CHOICE (log 71): an answer
that fails both a lockout and the motion policy counts as a lockout; one whose record is of another kind counts as unknown; and
one refused for its role, or for an addressed session that does not name it, enters no count. -/
def State.judge (s : State) (r : Round) (a : SlotAns) : Verdict :=
  let hot := r.antennas.any s.attachLocked
  let own := (s.enrolFor r a.identity).isSome
  if r.addressed.isSome && !r.shared && !r.names a.identity then .other
  else
    match s.rec? a.identity with
    | none =>
      if !own then .unknown
      else if hot then .lock
      else if !s.motionOk r.config a.motion then .motion
      else .rank 4
    | some p =>
      let cand := p.state == .candidate
      if !own && (p.kind != 1 || (cand && !s.windowOpen)) then .unknown
      else if !own && !cand && !s.roleTaken r.config p.role then .other
      else if s.identityLocked a.identity || (hot && rankOf p != 1) then .lock
      else if !s.motionOk r.config a.motion then .motion
      else .rank (rankOf p)

/-- Lanes for the answers admitted, in rank order (R178, R180). -/
def State.lanesFor (s : State) (r : Round) (as : List SlotAns) : List Lane :=
  ((List.range as.length).zip as).map fun q =>
    { k := q.1, ans := q.2, openNs := r.wakeNs + 42300000 + 7000000 * q.1, inWindow := s.windowOpen }

/-- The identity of a clean answer is met, unless it is locked out, when its answers are ignored (R51, R61). -/
def State.metAnswer (ident : Nat) (s : State) : State :=
  let s1 := s.evalIdentity ident
  if s1.identityLocked ident then s1 else s1.metIdentity 1 0xFF ident

/-- The window closes: answers are judged, ranked and admitted (R177, R178). -/
def State.admitLanes (r : Round) (s : State) : State :=
  let s1 := r.antennas.foldl (fun (t : State) a => t.evalAttach a) s
  let s2 := r.answers.foldl (fun (t : State) a => t.metAnswer a.identity) s1
  let vs := r.answers.map fun a => (a, s2.judge r a)
  let ranked := [1, 2, 3, 4].flatMap fun c =>
    (vs.filter fun q => q.2 == .rank c).map fun q => { q.1 with cls := c }
  let count := fun (v : Verdict) => (vs.filter fun q => q.2 == v).length
  ((s2.modSess fun x =>
      { x with
        recs := x.recs.filter (fun z => some z.roundSeq == x.last.map (·.seq))
        ranges := x.ranges.filter fun z => some z.roundSeq == x.last.map (·.seq) }).modRound fun x =>
    { x with
      closed := true, lanes := s2.lanesFor r (ranked.take 8), unserved := ranked.length - 8
      refMotion := count .motion, refLock := count .lock, refUnknown := count .unknown }).dropShadows
    (r.answers.map fun (a : SlotAns) => a.rootSlot)

/-- RESPONSE_WINDOW_CLOSE (R178). -/
def doResponseWindowClose (s : State) : State :=
  match s.sess.cur with
  | some r => if r.closed || decide (s.now < r.wakeNs + 42300000) then s else (s.admitLanes r).settleRound
  | none => s

/-- RESPONSE_WINDOW_CLOSE. -/
def execResponseWindowClose (s : State) : Host.Outcome State Fault Refusal := .next (doResponseWindowClose s)

/-! ### Challenge and response (R180 to R183) -/

/-- The next lane, once the lane before it has closed or its own time has come (R180). -/
def State.laneDue (s : State) (r : Round) : Option Lane :=
  match r.lanes.find? fun l => l.outcome.isNone with
  | some l =>
    let early := match r.lanes[l.k - 1]? with
      | some p => if l.k = 0 then l.openNs else min l.openNs p.closeNs
      | none => l.openNs
    if !l.opened && decide (early ≤ s.now) && l.ans.derived then some l else none
  | none => none

/-- The challenge frame (R181). -/
def State.challengeFrame (s : State) (r : Round) (l : Lane) (c : Nat) : List Byte :=
  leBytes 1 0x32 ++ leBytes 1 l.ans.slot ++ leBytes 1 (s.wakeField r.config 18) ++ beBytes 12 c

/-- A lane opens (R180, R181): a fresh challenge is drawn and sent. -/
def State.openLane (r : Round) (l : Lane) (s : State) : State :=
  let c := s.freshC
  ((((s.modLane l.k fun x => { x with opened := true, openNs := s.now, challenge := c }).modRadio fun q =>
    { q with txUhf := some (uhfFrame (s.challengeFrame r l c)) }).spendC c).seqSendUhf false).settleLanes

/-- LANE_OPEN (R180). -/
def doLaneOpen (s : State) : State :=
  match s.sess.cur with
  | some r =>
    match s.laneDue r with
    | some l =>
      if l.aborted then s.endLane l 7
      else if l.noKey || l.ans.key.isNone || s.crypt.sealed then s.endLane l 10
      else s.openLane r l
    | none => s
  | none => s

/-- LANE_OPEN. -/
def execLaneOpen (s : State) : Host.Outcome State Fault Refusal := .next (doLaneOpen s)

/-- The associated data of the CCM exchange (R181). -/
def State.uhfAad (s : State) (r : Round) (a : SlotAns) : List Byte :=
  beBytes 8 Config.deviceIdentity ++ beBytes 8 a.identity ++ beBytes 2 (s.wakeField r.config 2) ++
    beBytes 1 (s.wakeField r.config 3) ++ a.payload

/-- The tag of a response frame verifies (R181). -/
def State.responseOk (s : State) (r : Round) (l : Lane) (p : List Byte) : Bool :=
  let key := l.ans.key.getD []
  let nonce := beBytes 1 0x5A ++ beBytes 12 l.challenge
  let plain := Aes.ccmCrypt key nonce (slice p 2 4)
  Aes.ccmTag key nonce (s.uhfAad r l.ans) plain 8 == slice p 6 8

/-- Block n of the STS derivation (R194). -/
def stsBlock (key : List Byte) (c n : Nat) : List Byte := Aes.encBlock key (beBytes 1 0x53 ++ beBytes 12 c ++ [0, 0] ++ beBytes 1 n)

/-- The generator's value with its counter, the lower 32 bits, past n further STS of 4,096 pulses, 128 to a block (R194; PRESUMED
from IEEE 802.15.4z, log 34). -/
def stsAdvance (v : List Byte) (n : Nat) : List Byte := v.take 12 ++ beBytes 4 ((beNat (v.drop 12) + 32 * n) % 2 ^ 32)

/-- A frame of the device's own uses its STS, and the key's answer to it the next, whether or not it comes (R194). -/
def Lane.useSts (l : Lane) : Lane := { l with stsCount := l.stsCount + 2, stsV := stsAdvance l.stsV 2 }

/-- A lane has verified: its STS is seeded, and RANGE is issued for 4.000 ms lane time (R180, R183, R194). A RANGE that its lead
refuses ends the exchange. -/
def State.startRange (r : Round) (l : Lane) (s : State) : State :=
  let set := s.antennaSet r.config
  let first := l.openNs + 4000000
  let refused := decide (s.radio.st = .off) || decide (first < s.now + s.rangeLead)
  let g : RangeRec :=
    { roundSeq := r.seq, lane := l.k, antSet := set
      channel := if s.setField set 2 = 0 then 5 else 9 }
  ((s.modLane l.k fun x =>
    { x with
      verified := true, dead := refused, record := some g
      stsKey := stsBlock (l.ans.key.getD []) l.challenge 1
      stsV := stsBlock (l.ans.key.getD []) l.challenge 2 }).seqRange set first first).settleLanes

/-- The active lane before its tag has verified. -/
def State.awaiting (s : State) (verified : Bool) : Option (Round × Lane) :=
  match s.sess.cur with
  | some r => (r.active.filter fun l => l.verified == verified).map fun l => (r, l)
  | none => none

/-- A payload is the response frame of a slot (R181). -/
def isResponse (slot : Nat) (p : List Byte) : Bool := p.length == 14 && uAt p 0 1 == 0x33 && uAt p 1 1 == slot

/-- RESPONSE_FRAME (R183): a frame lost to its CRC leaves the lane waiting. -/
def doResponseFrame (frame : List Byte) (s : State) : State :=
  match s.awaiting false with
  | some (r, l) =>
    match s.cutLane l with
    | some t => t
    | none =>
      match uhfPayload frame with
      | some p =>
        if l.openNs + 4000000 < s.now ∨ !isResponse l.ans.slot p then s
        else if s.responseOk r l p then s.startRange r l
        else (s.endLane l 2).seqIdle s.now
      | none => s
  | none => s

/-- RESPONSE_FRAME. -/
def execResponseFrame (frame : List Byte) (s : State) : Host.Outcome State Fault Refusal := .next (doResponseFrame frame s)

/-- TAG_DEADLINE (R180): with no verified tag by 4.000 ms lane time IDLE is issued, and the lane ends as NO_RESPONSE. -/
def doTagDeadline (s : State) : State :=
  match s.awaiting false with
  | some (_, l) =>
    match s.cutLane l with
    | some t => t
    | none => if l.openNs + 4000000 ≤ s.now then (s.endLane l 6).seqIdle s.now else s
  | none => s

/-- TAG_DEADLINE. -/
def execTagDeadline (s : State) : Host.Outcome State Fault Refusal := .next (doTagDeadline s)

/-! ### The ranging exchange (R192, R193, R196) -/

/-- The start of a frame of an attempt in ns after the lane's opening (R192). -/
def attemptNs (attempt : Nat) : Nat := if attempt ≤ 1 then 4000000 else 5600000

/-- The ranging record of results that R27 withholds: what it held before any POLL. -/
def RangeRec.withheld (g : RangeRec) : RangeRec :=
  { roundSeq := g.roundSeq, lane := g.lane, channel := g.channel, antSet := g.antSet }

/-- The exchange has ended: its lane takes an outcome, and the sequencer leaves RANGING, by IDLE after a counted failure (R193).
Where R27 withholds its results it ends as ABORTED, uncounted (R202). -/
def State.endExchange (l : Lane) (outcome : Nat) (s : State) : State :=
  if s.radio.extHeld then
    ((s.endLane { l with record := l.record.map RangeRec.withheld } 7).endRanging.serveRecal).settleLanes
  else
    let s1 := s.endLane l outcome
    ((if 2 ≤ outcome ∧ outcome ≤ 5 then s1.seqIdle s.now else s1.endRanging).serveRecal).settleLanes

/-- An attempt is lost: attempt 2 follows attempt 1, and the session ends as NO_RESPONSE after attempt 2 (R193). -/
def State.loseAttempt (l : Lane) (s : State) : State :=
  if l.attempt ≤ 1 then
    ((s.modLane l.k fun x =>
      { x with pollDue := true, haveResp := false, haveFinal := false, record := l.record }).modRadio fun q =>
      { q with txAt := some (l.openNs + 5600000) }).rangeAnt true
  else s.endExchange l 6

/-- From a frame's start to its RMARKER, the end of its 72 symbols of synchronisation header, 73,269.2 ns, in 1/256 ns (R191;
PRESUMED from IEEE 802.15.4z, log 34). -/
def rmarkerOffset : Nat := 18756923

/-- The DAC sample nearest to a time, both in 1/256 ns (R139): samples are 500/39 units apart, on a grid whose phase the spec
leaves open. -/
def dacSample (t : Int) : Nat :=
  let n := roundDiv ((t - Config.dacPhase) * 39) 500
  (Config.dacPhase + roundDiv (n * 500) 39).toNat

/-- POLL is sent at its time (R192, R196): t1 is its RMARKER, at a DAC sample (R139). -/
def State.sendPoll (l : Lane) (s : State) : State :=
  let n := l.attempt + 1
  let t1 := dacSample (256 * (l.openNs + attemptNs n) + rmarkerOffset)
  ((s.modLane l.k fun l => let x := l.useSts
    { x with
      attempt := n, pollDue := false, t1 := t1, haveResp := false, haveFinal := false
      loop := if n = 1 then s.radio.accept else x.loop
      record := x.record.map fun g =>
        { g with
          epoch := s.tbu.epoch, pollNs := t1 / 256, unc := s.unc, attempt := n, ra1 := 0, db2 := 0, db1 := 0, ra2 := 0
          dDev := 0, tof := 0, distance := 0, aoa := none, checks := 0, lfZones := 0, rangeZones := 0, clock := 0
          snrA := 0, snrB := 0 } }).modRadio fun q => { q with txAt := none }).rangeAnt false

/-- POLL (R192). It goes only through the gate of R144 and with a reply-path result (R158). -/
def doPoll (s : State) : State :=
  match s.awaiting true with
  | some (_, l) =>
    match s.cutLane l with
    | some t => t
    | none =>
      if l.pollDue && decide (l.openNs + attemptNs (l.attempt + 1) ≤ s.now) && s.radio.st == .ranging && s.radio.sampQual &&
          s.radio.accept.isSome then s.sendPoll l
      else s
  | none => s

/-- POLL. -/
def execPollFrame (s : State) : Host.Outcome State Fault Refusal := .next (doPoll s)

/-- A bit of the checks field. -/
def checkBit (b : Nat) (on : Bool) : BitVec 16 := if on then BitVec.ofNat 16 (1 <<< b) else 0

/-- The chains of a RESPONSE that are usable, A then B (R200). -/
def usableChains (m : Reception) : Bool × Bool := (Resp.usable m.stsA, Resp.usable m.stsB)

/-- C1 fails on a usable chain. -/
def c1Any (m : Reception) : Bool :=
  let u := usableChains m
  (u.1 && c1Fails m.syncA m.stsA) || (u.2 && c1Fails m.syncB m.stsB)

/-- C2 fails on a usable chain. -/
def c2Any (m : Reception) : Bool :=
  let u := usableChains m
  (u.1 && c2Fails m.syncA m.stsA) || (u.2 && c2Fails m.syncB m.stsB)

/-- Chain B is the timing chain (R196). -/
def State.timesB (s : State) (set : Nat) (m : Reception) : Bool :=
  let u := usableChains m
  if s.setField set 5 = 1 then u.2 else !u.1

/-- The timing chain's STS response. -/
def State.timingSts (s : State) (set : Nat) (m : Reception) : Resp := if s.timesB set m then m.stsB else m.stsA

/-- Bits 10 and 11 of checks, which report observations (R201). -/
def State.observed (s : State) (set : Nat) (m : Reception) : BitVec 16 :=
  checkBit 10 (lineOfSight (s.timingSts set m)) ||| checkBit 11 (s.timesB set m && s.setField set 5 == 0)

/-- The RMARKER of FINAL (R192): 350.000 µs after that of the RESPONSE, at a DAC sample (R139). -/
def finalMarker (t4 : Nat) : Nat := dacSample (t4 + 350000 * 256)

/-- What a RESPONSE leaves on its lane (R196, R200, R201, R203). -/
def State.takeResponse (r : Round) (l : Lane) (m : Reception) (s : State) : State :=
  let set := s.antennaSet r.config
  let u := usableChains m
  let onB := s.timesB set m
  let c : Resp := s.timingSts set m
  let subs : List Resp := if onB then m.subB else m.subA
  let t := ((c.path 15).map (·.time)).getD 0
  let b := (s.setField set 10).toNat
  let both := u.1 && u.2
  let c5 := both && c5Fails m.stsA m.stsB b
  let lam : Int := if s.setField set 2 = 0 then 4620 else 3753
  let theta := if both && !c5 then angleOf m.stsA m.stsB t (s.setField set 9) b lam (s.setField set 11 == 1) else none
  ((s.modLane l.k fun x =>
    { x with
      haveResp := true, t4 := ((m.tap0 : Int) + t).toNat, timingB := onB
      c3 := c3Fails c, c4 := c4Fails c subs, c5 := c5, theta := theta
      record := x.record.map fun g =>
        { g with
          aoa := theta.map fun a => roundDiv a 100000
          checks := s.observed set m
          snrA := Resp.snr m.stsA, snrB := Resp.snr m.stsB } }).modRadio fun q =>
    { q with txAt := some ((finalMarker ((m.tap0 : Int) + t).toNat - rmarkerOffset) / 256) }).rangeAnt true

/-- The impulse responses of a frame received (R133): held, and written to the impulse-response buffers of SRAM, with the gain
steps set in its preamble (R131). DESIGN CHOICE (log 69): the buffers of SYNC A, SYNC B, STS A and STS B are the first four
4 KiB of their region, I before Q in a tap, the least significant byte first. -/
def State.putCirs (m : Reception) (s : State) : State :=
  let cirs := [m.syncA, m.syncB, m.stsA, m.stsB]
  (s.modRadio fun q => { q with cirNs := m.tap0, cirs := cirs, gainA := m.gainA, gainB := m.gainB }).modMem fun w =>
    ((List.range 4).zip cirs).foldl (fun w q =>
      Memory.writeBytes w (0x500000 + 0x1000 * q.1) ((q.2.take 1024).flatMap fun t => leInt 2 t.1 ++ leInt 2 t.2)) w

/-- RANGING_RESPONSE (R192, R193, R201): a frame after its window is lost, and no usable chain loses the attempt; C1 or C2
failing ends the exchange as STS_FAILED. -/
def doRangingResponse (m : Reception) (s0 : State) : State :=
  match s0.awaiting true with
  | some (r, l) =>
    if l.pollDue || l.haveResp || decide (l.attempt = 0) ||
        decide (s0.now < l.openNs + attemptNs l.attempt + 330000) then s0
    else
      let s := s0.putCirs m
      match s.cutLane l with
      | some t => t
      | none =>
        let u := usableChains m
        if (!u.1 && !u.2) || decide (l.openNs + attemptNs l.attempt + 390000 < s.now) then s.loseAttempt l
        else if c1Any m || c2Any m then
          let g := l.record.map fun x =>
            { x with
              checks := checkBit 0 (c1Any m) ||| checkBit 1 (c2Any m) ||| s.observed (s.antennaSet r.config) m
              snrA := Resp.snr m.stsA, snrB := Resp.snr m.stsB }
          s.endExchange { l with record := g } 3
        else s.takeResponse r l m
  | none => s0

/-- RANGING_RESPONSE. -/
def execRangingResponse (m : Reception) (s : State) : Host.Outcome State Fault Refusal := .next (doRangingResponse m s)

/-- FINAL (R192, R196), once its scheduled start has come; t5 is its RMARKER. -/
def doFinal (s : State) : State :=
  match s.awaiting true with
  | some (_, l) =>
    match s.cutLane l with
    | some t => t
    | none =>
      let t5 := finalMarker l.t4
      if l.haveResp && !l.haveFinal && s.radio.st == .ranging && s.radio.sampQual &&
          decide ((s.radio.txAt.getD 0) ≤ s.now) then
        ((s.modLane l.k fun l => let x := l.useSts
          { x with
            haveFinal := true, t5 := t5
            record := x.record.map fun g => { g with ra1 := (x.t4 - x.t1) % 2 ^ 32, db2 := (t5 - x.t4) % 2 ^ 32 } }).modRadio
          fun q => { q with txAt := none }).rangeAnt false
      else s
  | none => s

/-- FINAL. -/
def execFinalFrame (s : State) : Host.Outcome State Fault Refusal := .next (doFinal s)

/-- A receive window of an attempt has closed without the SFD: RESPONSE 40 µs after its nominal start, REPORT likewise. -/
def Lane.windowOver (l : Lane) (now : Nat) : Bool :=
  let t := l.openNs + attemptNs l.attempt
  !l.pollDue && decide (0 < l.attempt) &&
    ((!l.haveResp && decide (t + 390000 ≤ now)) || (l.haveFinal && decide (t + 1140000 ≤ now)))

/-- UWB_RECEIVE_WINDOW_EXPIRY (R192, R193): the frame is lost, FINAL is not sent, and attempt 2 follows or the session ends. -/
def doUwbReceiveWindowExpiry (s : State) : State :=
  match s.awaiting true with
  | some (_, l) =>
    match s.cutLane l with
    | some t => t
    | none => if l.windowOver s.now then s.loseAttempt l else s
  | none => s

/-- UWB_RECEIVE_WINDOW_EXPIRY. -/
def execUwbReceiveWindowExpiry (s : State) : Host.Outcome State Fault Refusal := .next (doUwbReceiveWindowExpiry s)

end Sys2Proof.Machine
end

