-- ==== Sys2Proof/Machine/Ranging.lean ====
section
/-!
DEFINITION. What a REPORT decides (07_distance_bounding, with the field reports of 03_lf_field_array): distance, checks, zones,
geometry and the session's outcome; and the session, range and enrolment commands (17_command_reference).
-/
namespace Sys2Proof.Machine

/-! ### Field reports (R83 to R86) -/

/-- 10^(k/20) for k from 0 to 19, in 10^-40, rounded down. -/
def twentieths : List Nat :=
  [10000000000000000000000000000000000000000, 11220184543019634355910389464779057367223,
   12589254117941672104239541063958006060936, 14125375446227543021556078639302409297897,
   15848931924611134852021013733915070132694, 17782794100389228012254211951926848447357,
   19952623149688796013524553967395355579862, 22387211385683396119549508524657423337072,
   25118864315095801110850320677993273941585, 28183829312644538191019236991551107186830,
   31622776601683793319988935444327185337195, 35481338923357545843321870226449062049134,
   39810717055349725077025230508775204348767, 44668359215096311855625052431937661637730,
   50118723362727228500155418688494576806047, 56234132519034908039495103977648123146825,
   63095734448019324943436013662234386467294, 70794578438413791080221494218931270935443,
   79432823472428150206591828283638793258896, 89125093813374552995310868107829696398587]

/-- 10^(k/20) in 10^-40: the power of k half-decibels of field magnitude, as R83 sums it. -/
def pow20 (k : Nat) : Nat := 10 ^ (k / 20) * twentieths.getD (k % 20) 0

/-- A slot's report as the sum over axes of 10^(0.05 v), in 10^-40; none when not heard (R83). -/
def reportPower (axes : List Nat) : Option Nat :=
  if axes.any (· == 255) then some (pow20 255)
  else if axes.all (· == 0) then none
  else some ((axes.map pow20).sum)

/-- The band of a zone for a localisation slot, lo and hi in 0.5 dB; none for "any" (R84, R528). -/
def State.band (s : State) (z slot : Nat) : Option (Nat × Nat) :=
  let v := s.roundView.cfgN recFieldMap (fieldNo (0x20 + z) (slot + 1))
  if v = 0x00FF then none else some (v % 256, v / 256)

/-- The report of a slot in a localisation report of 24 bytes. -/
def slotReport (loc : List Byte) (slot : Nat) : Option Nat := reportPower ((slice loc (3 * slot) 3).map (·.toNat))

/-- The positions that were sent (R84). -/
def Round.sentSlots (r : Round) : List Nat := (List.range 8).filter fun i => r.sent.getD i false

/-- A slot that was sent meets its band (R84). -/
def bandMet (band : Option (Nat × Nat)) (m : Option Nat) : Bool :=
  match band, m with
  | none, _ => true
  | some (lo, hi), some p => decide (pow20 lo ≤ p) && decide (p ≤ pow20 hi)
  | some (lo, _), none => lo == 0

/-- The key is LF-consistent with a zone (R84, R86). -/
def State.lfConsistent (s : State) (r : Round) (loc : List Byte) (z : Nat) : Bool :=
  let sent := r.sentSlots
  s.zoneField z 1 == 1 && decide (2 ≤ sent.length) &&
    (sent.all fun i => bandMet (s.band z i) (slotReport loc i)) && sent.any fun i => (s.band z i).isSome

/-- The zones with which the key is LF-consistent. -/
def State.lfZones (s : State) (r : Round) (loc : List Byte) : List Nat := (List.range 16).filter (s.lfConsistent r loc)

/-- The exchange meets a zone on distance and sector (R206): `dist` in mm, `theta` in 10^-6 degree. -/
def State.rangeMet (s : State) (set : Nat) (dist : Int) (theta : Option Int) (z : Nat) : Bool :=
  let d := max dist 0
  s.zoneField z 1 == 1 && s.zoneField z 2 == set && decide (10 * s.zoneField z 3 ≤ d) && decide (d ≤ 10 * s.zoneField z 4) &&
    (s.zoneField z 5 == 0 ||
      match theta with
      | some a => decide (1000000 * s.zoneField z 6 ≤ a) && decide (a ≤ 1000000 * s.zoneField z 7)
      | none => false)

/-- A zone's field map is all "any". -/
def State.allAny (s : State) (z : Nat) : Bool := (List.range 8).all fun i => (s.band z i).isNone

/-- G1 (R207). -/
def State.g1Fails (s : State) (lf : List Nat) (dist : Int) : Bool :=
  !lf.isEmpty && lf.all fun z => decide (10 * (s.zoneField z 4 + s.zoneField z 10) < dist)

/-- A slot's report is below lo + 20 log10(scale) − geo_db (R207). -/
def belowBand (lo scale geoDb : Nat) (m : Option Nat) : Bool :=
  match m with
  | some p => decide (p * pow20 (2 * geoDb) * 10 ^ 8 < pow20 lo * scale ^ 2 * 10 ^ 40)
  | none => true

/-- G2 (R207). -/
def State.g2Fails (s : State) (r : Round) (near : List Nat) (loc : List Byte) : Bool :=
  let banded := fun (z : Nat) => r.sentSlots.filter fun i => (s.band z i).isSome
  let zs := near.filter fun z => !(banded z).isEmpty
  !zs.isEmpty && zs.all fun z => (banded z).all fun i =>
    belowBand (((s.band z i).map (·.1)).getD 0) r.scale (s.zoneField z 11).toNat (slotReport loc i)

/-! ### Distance (R197 to R199) -/

/-- d_dev (R197). -/
def State.deviceDelay (s : State) (set : Nat) (l : Lane) : Int :=
  let d := l.loop.getD {}
  (if l.timingB then (d.dB : Int) + s.setField set 8 else (d.dA : Int) + s.setField set 7) + s.setField set 6

/-- T (R198) in 1/256 ns from Ra1, Db2, db1, ra2 and d_dev. -/
def flightTime (ra1 db2 db1 ra2 dDev : Int) : Int :=
  let a := ra1 - dDev
  let d := db2 + dDev
  let num := a * ra2 - db1 * d
  let den := a + ra2 + db1 + d
  if den < 0 then roundDiv (-num) den.natAbs else roundDiv num den.natAbs

/-- d_v in mm (R198). -/
def distanceOf (t : Int) : Int := roundDiv (t * 299792458) 256000000

/-- The clock ratio less 1 in 0.01 ppm, within 16 bits (R199). -/
def clockOf (ra1 db2 db1 ra2 : Int) : Int :=
  max (-32768) (min 32767 (roundDiv ((db1 + ra2 - ra1 - db2) * 100000000) (ra1 + db2).toNat))

/-- Clock consistency holds (R199). -/
def clockOk (ra1 db2 db1 ra2 : Int) : Bool :=
  decide (0 < ra1 + db2) && decide (((db1 + ra2 - ra1 - db2).natAbs : Int) * 1000000 ≤ 50 * (ra1 + db2))

/-! ### The REPORT (R195, R202) -/

/-- A REPORT's payload for an attempt (R195). -/
def isReport (attempt : Nat) (p : List Byte) : Bool := p.length == 43 && uAt p 0 1 == 0x41 && uAt p 1 1 == attempt

/-- The plain bytes 2 to 34 of a REPORT. -/
def reportPlain (l : Lane) (p : List Byte) : List Byte :=
  Aes.ccmCrypt (l.ans.key.getD []) (beBytes 1 0x5B ++ beBytes 12 l.challenge) (slice p 2 33)

/-- The REPORT's tag verifies (R195). -/
def reportOk (l : Lane) (p : List Byte) : Bool :=
  Aes.ccmTag (l.ans.key.getD []) (beBytes 1 0x5B ++ beBytes 12 l.challenge)
    (leBytes 8 Config.deviceIdentity ++ leBytes 8 l.ans.identity ++ slice p 0 2) (reportPlain l p) 8 == slice p 35 8

/-- The checks after REPORT in their order (R202): the bits of the first that fails and its outcome. -/
def firstFailure (cs : List (BitVec 16 × Nat)) : Option (BitVec 16 × Nat) := cs.find? fun c => c.1 != 0

/-- The record of an exchange that completed, before its checks (R209). -/
def State.fillRecord (s : State) (r : Round) (l : Lane) (body : List Byte) (g : RangeRec) : RangeRec :=
  let set := s.antennaSet r.config
  let db1 := uAt body 0 4
  let ra2 := uAt body 4 4
  let loc := slice body 9 24
  let dd := s.deviceDelay set l
  let t := flightTime g.ra1 g.db2 db1 ra2 dd
  let dv := distanceOf t
  { g with
    db1 := db1, ra2 := ra2, dDev := dd.toNat, tof := t, distance := dv, clock := clockOf g.ra1 g.db2 db1 ra2
    lfZones := BitVec.ofNat 16 (maskOf (s.lfZones r loc))
    inCab := (s.lfZones r loc).any fun z => s.zoneField z 8 == 1
    rangeZones := BitVec.ofNat 16 (maskOf ((List.range 16).filter (s.rangeMet set dv l.theta))) }

/-- The checks of R202 from key STS on, for a record filled in. -/
def State.reportChecks (s : State) (r : Round) (l : Lane) (body : List Byte) (g : RangeRec) : Option (BitVec 16 × Nat) :=
  let k := uAt body 8 1
  let loc := slice body 9 24
  let geo := decide (2 ≤ r.sentSlots.length)
  firstFailure [(checkBit 12 (k.testBit 0) ||| checkBit 13 (k.testBit 1), 3), (checkBit 2 l.c3, 4), (checkBit 3 l.c4, 4),
    (checkBit 4 l.c5, 4), (checkBit 5 (decide (g.distance < -300)), 4),
    (checkBit 14 (k.testBit 2) ||| checkBit 15 (k.testBit 3), 4),
    (checkBit 6 (geo && s.g1Fails (bitsOf 16 g.lfZones.toNat) g.distance), 5),
    (checkBit 7 (geo && s.g2Fails r (bitsOf 16 g.rangeZones.toNat) loc), 5)]

/-- The zones an exchange meets (R206). -/
def State.zonesMet (s : State) (g : RangeRec) : BitVec 16 :=
  g.rangeZones &&& (g.lfZones ||| BitVec.ofNat 16 (maskOf ((List.range 16).filter s.allAny)))

/-- One of the zones is a service zone (R54, R205). -/
def State.serviceZone (s : State) (zs : BitVec 16) : Bool := (bitsOf 16 zs.toNat).any fun z => s.zoneField z 9 == 1

/-- An absent key or token has verified (R50, R571). -/
def State.absentSeen (p : PartRec) (s : State) : State :=
  s.partnerEntry 0x10 p.identity 3 p.role p.flags p.attach p.failCount

/-- A presence is passed to the decision role (R39, R185), unless its round has already served a grant (R237): a service key's
may open the enrolment window (R54). -/
def State.present (r : Round) (l : Lane) (p : PartRec) (zones : BitVec 16) (s : State) : State :=
  let q : Presence :=
    { identity := p.identity, zones := zones, ns := s.now, epoch := s.tbu.epoch, unc := s.unc, roundSeq := r.seq, lane := l.k }
  let used : Bool := s.rel.grantRound == some (q.epoch, q.roundSeq)
  let s1 := (s.modRel fun x => { x with presence := if used then x.presence else x.presence ++ [q] }).raise 2 1
  if p.role = 0x11 then
    let s2 := s1.serviceSeen
    if s.cfgB recPartners 2 && s.serviceZone (zones &&& p.zones) then s2.openWindow else s2
  else s1

/-- The outcome of a verified session, with its effects (R187, R208, R50, R52, R54, R62). -/
def State.verifiedOutcome (r : Round) (l : Lane) (zones : BitVec 16) (s : State) : Nat × State :=
  let ident := l.ans.identity
  match s.enrolFor r ident with
  | some e => if zones &&& e.zones != 0 then (9, s.enrolVerified) else (1, s.verifiedExchange ident)
  | none =>
    match s.rec? ident with
    | some p =>
      if p.state = .enrolled then
        (if zones &&& p.zones != 0 then (0, (s.verifiedExchange ident).present r l p zones)
          else (1, s.verifiedExchange ident))
      else if p.state = .absent then (8, (s.absentSeen p).verifiedExchange ident)
      else if l.inWindow && s.serviceZone zones && decide (s.parts.windowUsed < 8) then
        (9, (s.enrolPartner ident (s.enrolDefaults 0x10 0xFF)).windowUse)
      else (1, s.verifiedExchange ident)
    | none =>
      if l.inWindow && s.serviceZone zones && decide (s.parts.windowUsed < 8) then
        (9, (s.enrolPartner ident (s.enrolDefaults 0x10 0xFF)).windowUse)
      else (1, s)

/-- A verified session ends (R208): its record is issued, the sequencer leaves RANGING, and the decision is evaluated. -/
def State.endVerified (r : Round) (l : Lane) (zones : BitVec 16) (s : State) : State :=
  let q := s.verifiedOutcome r l zones
  (((((q.2.issue r l q.1 zones).settleRound).endRanging.serveRecal).settleLanes).evalDecision)

/-- A REPORT of the attempt decides (R202). -/
def State.judgeReport (r : Round) (l : Lane) (p : List Byte) (s : State) : State :=
  let g0 := l.record.getD {}
  if s.radio.extHeld then s.endExchange l 7
  else if !reportOk l p then s.endExchange { l with record := some { g0 with checks := g0.checks ||| checkBit 9 true } } 2
  else
    let body := reportPlain l p
    let g := s.fillRecord r l body g0
    if !clockOk g.ra1 g.db2 g.db1 g.ra2 then
      s.loseAttempt { l with record := some { g with checks := g.checks ||| checkBit 8 true } }
    else
      match s.reportChecks r l body g with
      | some f => s.endExchange { l with record := some { g with checks := g.checks ||| f.1 } } f.2
      | none => s.endVerified r { l with record := some g } (s.zonesMet g)

/-- REPORT (R192, R202): a payload with a correct FCS, or none for a frame lost to it; a frame after its window is lost. -/
def doReport (m : Reception) (payload : Option (List Byte)) (s0 : State) : State :=
  match s0.awaiting true with
  | some (r, l) =>
    if !l.haveFinal || l.pollDue || decide (s0.now < l.openNs + attemptNs l.attempt + 1080000) then s0
    else
      let s := s0.putCirs m
      match s.cutLane l with
      | some t => t
      | none =>
        match payload with
        | some p =>
          if isReport l.attempt p && decide (s.now ≤ l.openNs + attemptNs l.attempt + 1140000) then s.judgeReport r l p
          else s.loseAttempt l
        | none => s.loseAttempt l
  | none => s0

/-- REPORT. -/
def execReportFrame (m : Reception) (payload : Option (List Byte)) (s : State) : Host.Outcome State Fault Refusal :=
  .next (doReport m payload s)

/-! ### The sess and range commands (17_command_reference) -/

/-- The payload of sess.poll is in range. -/
def wfSessPoll (p : List Byte) : Bool := decide (uAt p 0 1 ≤ 7) && zeroAt p 1 3

/-- sess.poll needs an enabled configuration and the radio free of a test. -/
def preSessPoll (s : State) (b : Mailbox) : Option Nat :=
  if !s.cfgB recWake (fieldNo (uAt b.payload 0 1) 1) then some Status.invalid
  else refuseIf s.radio.testMb.isSome Status.busy

/-- SESS_POLL (R165). -/
def execSessPoll (mb : Nat) (s : State) : Host.Outcome State Fault Refusal :=
  .next (s.perform mb 0x0401 (checked wfSessPoll preSessPoll) (fun b t =>
    ((t.wait mb).requestWake (uAt b.payload 0 1) [mb] none).considerAll))

/-- The body of sess.status; zeros before a first round. -/
def State.sessStatus (s : State) : List Byte :=
  match s.sess.last with
  | some r =>
    let n := (s.sess.recs.filter fun x => x.roundSeq == r.seq).length
    leBytes 4 r.seq ++ leBytes 1 n ++ leBytes 1 (r.slotsOf .clean) ++ leBytes 1 (r.slotsOf .collision) ++
      leBytes 1 (r.slotsOf .empty) ++ leBytes 1 r.refMotion ++ leBytes 1 r.refLock ++ leBytes 1 r.refUnknown ++
      leBytes 1 r.unserved ++ leBytes 1 r.followUps ++ zeros 3
  | none => zeros 16

/-- SESS_STATUS (R188). -/
def execSessStatus (mb : Nat) (s : State) : Host.Outcome State Fault Refusal :=
  .next (s.perform mb 0x0402 (checked (fun _ => true) noPre) (fun b t =>
    let seq := (t.sess.last.map (·.seq)).getD 0
    let bs := (t.sess.recs.filter fun x => x.roundSeq == seq).flatMap SessRec.bytes
    (t.toWindow b (uAt b.payload 0 4) bs).post mb Status.ok t.sessStatus))

/-- The latest session record of an identity since the last system reset. -/
def State.lastOf (s : State) (ident : Nat) : Option SessRec := s.sess.lastBy.find? fun x => x.identity == ident

/-- sess.last needs a record. -/
def preSessLast (s : State) (b : Mailbox) : Option Nat := refuseIf (s.lastOf (uAt b.payload 0 8)).isNone Status.invalid

/-- SESS_LAST (R188). -/
def execSessLast (mb : Nat) (s : State) : Host.Outcome State Fault Refusal :=
  .next (s.perform mb 0x0403 (checked (fun _ => true) preSessLast) (fun b t =>
    t.post mb Status.ok (((t.lastOf (uAt b.payload 0 8)).map SessRec.bytes).getD [])))

/-- RANGE_STATUS (R209). -/
def execRangeStatus (mb : Nat) (s : State) : Host.Outcome State Fault Refusal :=
  .next (s.perform mb 0x0501 (checked (fun _ => true) noPre) (fun b t =>
    let seq := (t.sess.last.map (·.seq)).getD 0
    let xs := t.sess.ranges.filter fun x => x.roundSeq == seq
    (t.toWindow b (uAt b.payload 0 4) (xs.flatMap RangeRec.bytes)).post mb Status.ok
      (leBytes 4 seq ++ leBytes 1 xs.length ++ zeros 3)))

/-- The payload of range.test is in range. -/
def wfRangeTest (p : List Byte) : Bool :=
  validIdentity (uAt p 0 8) && decide (uAt p 8 1 ≤ 7) && zeroAt p 9 1 && decide (1 ≤ uAt p 10 2) && decide (uAt p 10 2 ≤ 1000) &&
    decide (300 ≤ uAt p 12 4) && decide (uAt p 12 4 ≤ 30000) && zeroAt p 20 4

/-- range.test's preconditions (R213, R451). -/
def preRangeTest (s : State) (b : Mailbox) : Option Nat :=
  let ident := uAt b.payload 0 8
  let known : Bool := match s.rec? ident with
    | some r => r.kind == 1 && r.state == .enrolled
    | none => false
  if s.rel.consent then some Status.denied
  else if !known || !s.cfgB recWake (fieldNo (uAt b.payload 8 1) 1) then some Status.invalid
  else if s.identityLocked ident then some Status.lockedOut
  else refuseIf (s.radio.testMb.isSome || s.sess.test.isSome) Status.busy

/-- RANGE_TEST (R451). -/
def execRangeTest (mb : Nat) (s : State) : Host.Outcome State Fault Refusal :=
  .next (s.perform mb 0x0502 (checked wfRangeTest preRangeTest) (fun b t =>
    let p := b.payload
    let x : RangeTest :=
      { mb := mb, identity := uAt p 0 8, config := uAt p 8 1, left := uAt p 10 2, dRef := uAt p 12 4 }
    ((((t.wait mb).modSess fun y => { y with test := some x }).requestWake x.config [] (some x.identity))).considerAll))

/-! ### part.enrol (R52) -/

/-- The payload of part.enrol is in range, with a role, a kind and an attachment that go together (R45, R52). -/
def wfPartEnrol (p : List Byte) : Bool :=
  let kind := roleKind (uAt p 8 1)
  let attach := uAt p 13 1
  validIdentity (uAt p 0 8) && decide (kind ≠ 0) && decide (uAt p 9 1 ≤ 15) && decide (uAt p 12 1 ≤ 1) && zeroAt p 14 2 &&
    (if kind = 2 ∨ kind = 3 then homeOk kind attach else attach == 0xFF)

/-- Another enrolled module occupies the coil (R52). -/
def State.coilHeld (s : State) (ident attach : Nat) : Bool :=
  s.parts.table.any fun q =>
    q.2.identity != ident && q.2.kind == 2 && q.2.state == .enrolled && q.2.attach == attach

/-- The lowest-numbered enabled wake configuration, which an addressed enrolment session uses (log 35). -/
def State.enrolConfig (s : State) : Option Nat := (List.range 8).find? fun k => s.cfgB recWake (fieldNo k 1)

/-- The attachment points that part.enrol's exchange uses (R52): the one named for a module or a node; for a key or token the
antennas of the wake burst, whose lockout bars all but an enrolled identity with fail_count 0 (R61). -/
def State.enrolPoints (s : State) (kind attach : Nat) (known : Option PartRec) : List Nat :=
  let clear : Bool := match known with
    | some r => r.state == .enrolled && r.failCount == 0
    | none => false
  if kind = 2 ∨ kind = 3 then [attach]
  else if kind = 1 ∧ clear = false then
    match s.enrolConfig with
    | some k => ((s.wakeParts k).flatten.map (·.1)).eraseDups
    | none => []
  else []

/-- part.enrol's preconditions (R52). -/
def prePartEnrol (s : State) (b : Mailbox) : Option Nat :=
  let p := b.payload
  let ident := uAt p 0 8
  let kind := roleKind (uAt p 8 1)
  let attach := uAt p 13 1
  let known : Option PartRec := s.rec? ident
  let other : Bool := match known with
    | some r => r.kind != kind
    | none => false
  if other then some Status.invalid
  else if !s.cfgB recPartners 1 || (known.isNone && s.freeIndex.isNone && s.replaceable.isNone) ||
      (kind == 2 && s.coilHeld ident attach) then some Status.denied
  else refuseIf (s.identityLocked ident || (s.enrolPoints kind attach known).any s.attachLocked) Status.lockedOut

/-- The addressed exchange of an enrolment begins (R52, R53). -/
def State.startEnrol (e : Enrolment) (s : State) : State :=
  let s1 := s.modParts fun q => { q with enrol := some e }
  match roleKind e.role with
  | 1 =>
    match s1.enrolConfig with
    | some k => (s1.requestWake k [] (some e.identity)).considerAll
    | none => s1
  | 2 => s1.requestEnrolCoil.considerAll
  | 3 => s1.enrolNode e
  | _ => s1.enrolVerified

/-- PART_ENROL (R52): one enrolment at a time; another waits. -/
def execPartEnrol (mb : Nat) (s : State) : Host.Outcome State Fault Refusal :=
  .next (if s.parts.enrol.isSome then s
    else s.perform mb 0x0301 (checked wfPartEnrol prePartEnrol) (fun b t =>
      let p := b.payload
      (t.wait mb).startEnrol
        { mb := mb, identity := uAt p 0 8, role := uAt p 8 1, slot := uAt p 9 1, zones := BitVec.ofNat 16 (uAt p 10 2)
          releaseOk := uAt p 12 1 == 1, attach := uAt p 13 1 }))

end Sys2Proof.Machine
end

