-- ==== Sys2Proof/Machine/RadioRows.lean ====
section
/-!
DEFINITION. The radio's happenings and the rf commands (05_radio, 17_command_reference): the sequencer's commands as the radio
role issues them, frames, locks, calibration slices, timeouts, and the tests of rf.test and rf.capture.
-/
namespace Sys2Proof.Machine

/-- A waiting rf.capture runs once the sampling synthesiser is qualified and nothing is sent or ranged: its samples, free values,
go to its window, it posts, and sessions that fell due may start (R161, log 38). -/
def State.captureRun (s : State) : State :=
  match s.radio.testMb with
  | some mb =>
    let b := s.box mb
    let n := uAt b.payload 4 4
    let busy := s.radio.st == .off || s.radio.st == .txUhf || s.radio.st == .txUwb || s.radio.st == .ranging
    if s.radio.testKind = 2 ∧ s.radio.sampQual = true ∧ busy = false then
      ((((s.toWindow b (uAt b.payload 8 4) (s.freeBytes n)).drawn).conclude mb Status.ok
          (leBytes 4 n ++ leBytes 4 s.tbu.epoch ++ leBytes 8 s.now)).modRadio fun r =>
        { r with testMb := none }).raise 4 3 |>.considerAll
    else s
  | none => s

/-- What any change of the sequencer leaves to be done: lanes whose exchange ended close, and rf commands whose results are
complete post. -/
def State.radioDone (s : State) : State :=
  let s1 := s.settleLanes.captureRun
  let gone := s1.radio.calMbs.filter fun q => q.2 == 0
  gone.foldl (fun (t : State) q => t.conclude q.1 Status.ok [])
    (s1.modRadio fun r => { r with calMbs := r.calMbs.filter fun q => q.2 != 0 })

/-! ### The sequencer's commands (R149) -/

/-- The payload of rf.capture is in range. -/
def wfRfCapture (p : List Byte) : Bool :=
  let n := uAt p 4 4
  decide (uAt p 0 1 ≤ 1) && zeroAt p 3 1 && decide (64 ≤ n) && decide (n ≤ 65536) && n % 64 == 0 &&
    (if uAt p 1 1 = 0 then uAt p 2 1 == 0 else uAt p 1 1 == 1 && (uAt p 2 1 == 5 || uAt p 2 1 == 9))

/-- UP. -/
def execSeqUp (s : State) : Host.Outcome State Fault Refusal := .next s.seqUp.radioDone

/-- DOWN. -/
def execSeqDown (s : State) : Host.Outcome State Fault Refusal := .next s.seqDown.radioDone

/-- IDLE. -/
def execSeqIdle (limit : Nat) (s : State) : Host.Outcome State Fault Refusal := .next (s.seqIdle limit).radioDone

/-- LISTEN_UHF. -/
def execSeqListenUhf (region limit : Nat) (s : State) : Host.Outcome State Fault Refusal :=
  .next (s.seqListenUhf region limit).radioDone

/-- SEND_UHF, with the payload to send. -/
def execSeqSendUhf (payload : List Byte) (rx : Bool) (s : State) : Host.Outcome State Fault Refusal :=
  .next ((s.modRadio fun r => { r with txUhf := some (uhfFrame payload) }).seqSendUhf rx).radioDone

/-- LISTEN_UWB. -/
def execSeqListenUwb (channel limit : Nat) (rx : Bool) (s : State) : Host.Outcome State Fault Refusal :=
  .next (s.seqListenUwb channel limit rx).radioDone

/-- SEND_UWB. -/
def execSeqSendUwb (due : Option Nat) (limit : Nat) (rx : Bool) (s : State) : Host.Outcome State Fault Refusal :=
  .next (s.seqSendUwb due limit rx).radioDone

/-- RANGE (R145), at an RF die temperature. -/
def execSeqRange (set first limit : Nat) (temp : Int) (s : State) : Host.Outcome State Fault Refusal :=
  .next ((s.modRadio fun r => { r with temp := temp }).seqRange set first limit).radioDone

/-- CAL. -/
def execSeqCal (limit : Nat) (s : State) : Host.Outcome State Fault Refusal := .next (s.seqCal limit).radioDone

/-! ### Locks and settling -/

/-- LOCK_QUALIFIED (R142). -/
def execLockQualified (synth : Synth) (s : State) : Host.Outcome State Fault Refusal := .next (s.seqQualified synth).radioDone

/-- SETTLE_TIMEOUT (R148). -/
def execSettleTimeout (s : State) : Host.Outcome State Fault Refusal := .next s.seqSettleTimeout.radioDone

/-- LOCK_LOST (R143). -/
def execLockLost (synth : Synth) (s : State) : Host.Outcome State Fault Refusal := .next (s.seqLockLost synth).radioDone

/-- CAL_STEP_END (R154). -/
def execCalStepEnd (temp : Int) (s : State) : Host.Outcome State Fault Refusal := .next (s.seqCalStep temp).radioDone

/-- UP_RETRY (R151): 10 ms after a second failure to qualify. -/
def doUpRetry (s : State) : State :=
  match s.radio.upRetry with
  | some t => if t ≤ s.now then ((s.modRadio fun r => { r with upRetry := none }).seqUp).radioDone else s
  | none => s

/-- UP_RETRY. -/
def execUpRetry (s : State) : Host.Outcome State Fault Refusal := .next (doUpRetry s)

/-! ### Frames -/

/-- A UHF transmission has ended (R148). -/
def State.uhfOver (s : State) : State := (if s.radio.listenUhf.isSome then s.goRxUhf else s.goStandby).settleDown

/-- A UWB transmission has ended (R148). -/
def State.uwbOver (s : State) : State :=
  let s1 := s.modRadio fun r => { r with txAt := none }
  (if s1.radio.listenUwb.isSome then s1.toSeq .rxUwb else s1.goStandby).settleDown

/-- UHF_FRAME_END (R148); not while rf.test holds the transmission. -/
def execUhfFrameEnd (s : State) : Host.Outcome State Fault Refusal :=
  .next (if s.radio.st = .txUhf ∧ s.testSends = false then s.uhfOver.radioDone else s)

/-- The timestamp of a frame sent (R139): the DAC sample nearest to its scheduled RMARKER; of one sent at once, a free value. -/
def State.stampFrame (s : State) : State :=
  match s.radio.txAt with
  | some t => s.modRadio fun r => { r with txStamp := some (dacSample (256 * t + rmarkerOffset)) }
  | none => (s.modRadio fun r => { r with txStamp := some s.freeVal }).drawn

/-- UWB_FRAME_END (R139, R148); a scheduled frame does not end before its time. -/
def execUwbFrameEnd (s : State) : Host.Outcome State Fault Refusal :=
  .next (if s.radio.st = .txUwb ∧ s.testSends = false ∧ s.radio.txAt.getD 0 ≤ s.now then
      s.stampFrame.uwbOver.radioDone
    else s)


/-- UHF_FRAME_RECEIVED (R173): held commands that waited for its end follow (R149). -/
def doUhfFrameReceived (frame : List Byte) (s : State) : State :=
  if s.radio.st = .rxUhf then
    ((match uhfPayload frame with
      | some p => s.modRadio fun r => { r with rxUhf := some p }
      | none => s).settleDown).radioDone
  else s

/-- UHF_FRAME_RECEIVED. -/
def execUhfFrameReceived (frame : List Byte) (s : State) : Host.Outcome State Fault Refusal := .next (doUhfFrameReceived frame s)

/-- UWB_FRAME_RECEIVED outside ranging (R133). -/
def doUwbFrameReceived (m : Reception) (s : State) : State :=
  if s.radio.st = .rxUwb then
    (s.putCirs m).settleDown.radioDone
  else s

/-- UWB_FRAME_RECEIVED. -/
def execUwbFrameReceived (m : Reception) (s : State) : Host.Outcome State Fault Refusal := .next (doUwbFrameReceived m s)

/-! ### Background calibration (R155 to R158) -/

/-- The states in which background slices run (R138, R156). -/
def State.slicesRun (s : State) : Bool :=
  s.radio.sampQual &&
    (s.radio.st == .standby || (s.radio.st == .rxUhf && s.ssKeeps) || s.radio.st == .rxUwb || s.radio.st == .ranging)

/-- BACKGROUND_SLICE (R156) of a kind, 0 offset, 1 gain, 2 skew, 3 reply path; `rx`: a packet is in reception. -/
def doBackgroundSlice (kind dA dB : Nat) (temp : Int) (rx : Bool) (s : State) : State :=
  if decide (kind < 4) && s.slicesRun && !rx && !s.ownFrameWithin (sliceNs kind + 1000) then
    (s.runSlice kind dA dB temp).radioDone
  else s

/-- BACKGROUND_SLICE. -/
def execBackgroundSlice (kind dA dB : Nat) (temp : Int) (rx : Bool) (s : State) : Host.Outcome State Fault Refusal :=
  .next (doBackgroundSlice kind dA dB temp rx s)

/-- A result is older than 1.5 times its interval, or there is none (R157). -/
def State.sliceOld (s : State) (kind : Nat) : Bool :=
  let older := fun (t : Option Nat) (span : Nat) => match t with
    | some x => decide (x + span < s.now)
    | none => true
  if kind < 3 then older (s.radio.sweepEnd.getD kind none) 150000000 else older (s.radio.loop.map (·.ns)) 1500000000

/-- FORCED_SLICE (R156, R157): never within a ranging exchange. -/
def doForcedSlice (kind dA dB : Nat) (temp : Int) (rx : Bool) (s : State) : State :=
  if decide (kind < 4) && s.slicesRun && s.radio.st != .ranging && !rx && !s.ownFrameWithin (sliceNs kind + 1000) &&
      s.sliceOld kind then
    (((s.runSlice kind dA dB temp).modRadio fun r => { r with forced := satAdd 0xFFFFFFFF r.forced 1 }).raise 4 2).radioDone
  else s

/-- FORCED_SLICE. -/
def execForcedSlice (kind dA dB : Nat) (temp : Int) (rx : Bool) (s : State) : Host.Outcome State Fault Refusal :=
  .next (doForcedSlice kind dA dB temp rx s)

/-- RECALIBRATION_DUE (R154): a condition of R152 has come due while the path listens. -/
def doRecalibrationDue (temp : Int) (s : State) : State :=
  let s1 := s.modRadio fun r => { r with temp := temp }
  if s1.radio.st = .rxUhf ∧ s1.fgStale s1.carrierRegion = true ∧ s1.radio.recalDue = false then
    (((s1.modRadio fun r => { r with recalDue := true }).raise 4 1).serveRecal).radioDone
  else s1

/-- RECALIBRATION_DUE. -/
def execRecalibrationDue (temp : Int) (s : State) : Host.Outcome State Fault Refusal := .next (doRecalibrationDue temp s)

/-! ### Limits and the transmit gate (R144, R151) -/

/-- HELD_COMMAND_TIMEOUT (R151). -/
def execHeldCommandTimeout (s : State) : Host.Outcome State Fault Refusal :=
  .next (s.failHeld fun c => decide (c.limit < s.now)).radioDone

/-- The exchange on the air cannot send its next frame at its time (R144, R158). -/
def State.exchangeLate (s : State) : Bool :=
  s.radio.st == .ranging && (!s.radio.sampQual || s.radio.accept.isNone) &&
    match s.radio.txAt with
    | some t => decide (t ≤ s.now + 2000)
    | none => false

/-- An exchange that has no reply-path result when its first frame is due is not started, and yields no ranging record (R158). -/
def State.unranged (s : State) : State :=
  if s.radio.accept.isSome then s
  else s.modRound fun r =>
    { r with lanes := r.lanes.map fun l =>
        if l.opened && l.verified && l.outcome.isNone && l.attempt == 0 then { l with record := none } else l }

/-- TRANSMIT_GATE_DEADLINE (R144): a held frame or exchange whose gate time has come is not sent. -/
def doTransmitGateDeadline (s : State) : State :=
  let late := fun (c : HeldCmd) => (c.op == .sendUwb || c.op == .range) &&
    match c.due with
    | some t => decide (t ≤ s.now + 2000)
    | none => false
  let s1 := s.failHeld late
  (if s1.exchangeLate then (s1.unranged.markDead.seqDone .range Status.synthNotReady).endRanging else s1).radioDone

/-- TRANSMIT_GATE_DEADLINE. -/
def execTransmitGateDeadline (s : State) : Host.Outcome State Fault Refusal := .next (doTransmitGateDeadline s)

/-- TIMESTAMP_EXTENSION_COMPARE (R27): `off` is the extension less the TBU in 1/256 ns. -/
def doTimestampExtensionCompare (off : Int) (s : State) : State :=
  if s.radio.st = .off then s
  else if 1 < off.natAbs then
    ((s.modRadio fun r => { r with extHeld := r.extHeld || r.st == .ranging }).modTbu fun t =>
      { t with extOffset := 0 }).healthFree 0x0051 0 7
  else s.modTbu fun t => { t with extOffset := off }

/-- TIMESTAMP_EXTENSION_COMPARE. -/
def execTimestampExtensionCompare (off : Int) (s : State) : Host.Outcome State Fault Refusal :=
  .next (doTimestampExtensionCompare off s)

/-! ### The rf commands (R161) -/

/-- The age of a result in ms, as 4 bytes; free where there is none. -/
def State.ageBytes (s : State) (t : Option Nat) (k : Nat) : List Byte :=
  match t with
  | some x => leBytes 4 (min ((s.now - x) / 1000000) 0xFFFFFFFF)
  | none => leBytes 4 (s.freeVal / 2 ^ (32 * k))

/-- The oldest of the full sweeps; none while one has never ended. -/
def Radio.sweepOldest (r : Radio) : Option Nat :=
  if r.sweepEnd.all Option.isSome then ((r.sweepEnd.filterMap id).foldl (fun m x => some (match m with
    | some y => min x y
    | none => x)) none) else none

/-- The body of rf.status. -/
def State.rfStatus (s : State) : List Byte :=
  let r := s.radio
  leBytes 1 (seqCode r.st) ++ leBytes 1 r.held.length ++ leBytes 1 (bit r.sampQual + 2 * bit r.loQual) ++
    leBytes 1 s.region ++ leInt 1 (s.cfgI recRadio 2) ++ leBytes 1 (s.cfgN recRadio 3) ++ leBytes 1 (bit r.recalDue) ++
    leBytes 1 (bit s.loopValid) ++ s.ageBytes (r.fg.map (·.ns)) 0 ++
    (match r.fg with
      | some f => leInt 2 f.temp
      | none => leBytes 2 (s.freeVal / 2 ^ 96)) ++
    leInt 2 r.temp ++ s.ageBytes r.sweepOldest 1 ++ s.ageBytes (r.loop.map (·.ns)) 2 ++
    (match r.loop with
      | some l => leBytes 4 l.dA ++ leBytes 4 l.dB
      | none => leBytes 8 (s.freeVal / 2 ^ 112)) ++
    leBytes 4 r.forced ++ leBytes 4 r.settleFail ++ zeros 8

/-- RF_STATUS. -/
def execRfStatus (mb : Nat) (s : State) : Host.Outcome State Fault Refusal :=
  .next (s.perform mb 0x0701 (checked (fun _ => true) noPre) (fun _ t => (t.post mb Status.ok t.rfStatus).drawn))

/-- rf.cal needs a place in the held queue (R150). -/
def preRfCal (s : State) (_ : Mailbox) : Option Nat := refuseIf (decide (8 ≤ s.radio.held.length)) Status.busy

/-- RF_CAL (R161): CAL is issued, and a full sweep and a fresh reply-path result are asked for. DESIGN CHOICE (log 73): the
sweeps asked for start at their first slice, and the positions and sums of those under way are dropped. -/
def execRfCal (mb : Nat) (s : State) : Host.Outcome State Fault Refusal :=
  .next (s.perform mb 0x0702 (checked (fun _ => true) preRfCal) (fun b t =>
    let t1 := (t.wait mb).modRadio fun r =>
      { r with sweepPos := [0, 0, 0, 0], loopSumA := 0, loopSumB := 0, calMbs := r.calMbs ++ [(mb, 3)] }
    let t2 := t1.seqUp.seqCal b.limit
    (if t2.radio.st = .cal then t2.calTaken else t2).radioDone))

/-- The payload of rf.test is in range (R139, R140). -/
def wfRfTest (p : List Byte) : Bool :=
  let power := iAt p 2 2
  decide (uAt p 0 1 ≤ 1) && decide (uAt p 1 1 ≤ 1) && zeroAt p 5 1 && decide (1 ≤ uAt p 6 2) && decide (uAt p 6 2 ≤ 10000) &&
    (if uAt p 0 1 = 0 then
      (uAt p 4 1 == 5 || uAt p 4 1 == 9) && decide (-120 ≤ power) && decide (power ≤ -70)
    else uAt p 4 1 == 0 && decide (-40 ≤ power) && decide (power ≤ 28) && power % 2 == 0)

/-- rf.test and rf.capture need consent clear (R161). -/
def preRfHold (s : State) (_ : Mailbox) : Option Nat := refuseIf s.rel.consent Status.denied

/-- A command that would hold the radio waits while a key session is in flight or another test holds it (log 38). -/
def State.radioTaken (s : State) (mb : Nat) : Bool :=
  s.sess.cur.isSome || (s.radio.testMb.any fun x => x != mb)

/-- RF_TEST (R161): the power is limited to the region's ceiling (R140). -/
def execRfTest (mb : Nat) (s : State) : Host.Outcome State Fault Refusal :=
  .next (s.perform mb 0x0703 (checked wfRfTest preRfHold) (fun b t => if t.radioTaken mb then t else
    let p := b.payload
    let uhf := uAt p 0 1 == 1
    let power := if uhf then min (iAt p 2 2) (2 * t.cfgI recRadio 2) else iAt p 2 2
    let t1 := ((t.wait mb).modRadio fun r =>
      { r with
        testMb := some mb, testPower := power, testPort := uAt p 0 1, testKind := uAt p 1 1, testChannel := uAt p 4 1
        testEnd := 0 }).seqUp
    (if uhf then t1.seqSendUhf false else t1.seqSendUwb none b.limit false).radioDone))

/-- RF_TEST_END (R161): the result is posted, and sessions that fell due may start. -/
def doRfTestEnd (s : State) : State :=
  match s.radio.testMb with
  | some mb =>
    if (s.box mb).committed ∧ s.radio.testEnd ≤ s.now then
      let s1 := ((s.conclude mb Status.ok (leInt 2 s.radio.testPower ++ zeros 2)).modRadio fun r =>
        { r with testMb := none }).raise 4 3
      let s2 := if s1.radio.st = .txUhf then s1.uhfOver else if s1.radio.st = .txUwb then s1.uwbOver else s1
      s2.radioDone.considerAll
    else s
  | none => s

/-- RF_TEST_END. -/
def execRfTestEnd (s : State) : Host.Outcome State Fault Refusal := .next (doRfTestEnd s)

/-- RF_CAPTURE (R161): the capture holds the radio until its chain is powered and clocked, when it runs and posts. -/
def execRfCapture (mb : Nat) (s : State) : Host.Outcome State Fault Refusal :=
  .next (s.perform mb 0x0704 (checked wfRfCapture preRfHold) (fun _ t => if t.radioTaken mb then t else
    (((t.wait mb).modRadio fun r => { r with testMb := some mb, testKind := 2, testEnd := 0 }).seqUp).radioDone))

end Sys2Proof.Machine
end

