-- ==== Sys2Proof/Machine/Power.lean ====
section
/-!
DEFINITION. Power states (19_power_states): the sleep vote, the entry and its commit, gating, wakes, wake frames, VRES, and the
registers of PSC and PAD.
-/
namespace Sys2Proof.Machine

/-! ### The vote (R486) -/

/-- A role's place in the table of R29. -/
def roleNo : Role → Nat
  | .radio => 0
  | .field => 1
  | .decision => 2
  | .host => 3

/-- The pair that carries a role (R29, R30). -/
def State.pairOf (s : State) (r : Role) : Nat := s.cores.place.getD (roleNo r) (roleNo r)

/-- A mailbox other than that of the pwr.sleep in progress is ISSUED and passes the test (R443, R454). -/
def State.issuedWhere (s : State) (p : Mailbox → Bool) : Bool :=
  (List.range 8).any fun n => decide ((s.box n).st = .issued) && decide (s.psc.sleepMb ≠ some n) && p (s.box n)

/-- A role has queued work, a command in progress or a session in flight (R486). -/
def State.roleBusy (s : State) (r : Role) : Bool :=
  (s.issuedWhere fun b => decide (roleOf b.opcode = r)) ||
    match r with
    | .radio => s.sess.cur.isSome || s.sess.test.isSome || s.radio.testMb.isSome
    | .field => !s.lf.waiting.isEmpty || !s.lf.flight.isEmpty || s.pop.running.isSome
    | .decision => decide (s.rel.st = .revoking) || decide (s.rel.causes ≠ 0) || s.parts.enrol.isSome
    | .host => false

/-- A core pair holds deliveries or carries a busy role (R486). -/
def State.pairBusy (s : State) (p : Nat) : Bool :=
  !(s.evc.coreQ.getD p []).isEmpty ||
    [Role.radio, Role.field, Role.decision, Role.host].any fun r => decide (s.pairOf r = p) && s.roleBusy r

/-- The decision keeps PD2 and PD13 awake (R230). -/
def State.decisionHolds (s : State) : Bool := decide (s.rel.st = .revoking) || decide (s.rel.causes ≠ 0)

/-- An LF burst of the channels below 16 (PD11) or of the others (PD12) is in flight or waits (R101). -/
def State.burstsOn (s : State) (field : Bool) : Bool :=
  (s.lf.flight ++ s.lf.waiting).any fun b => b.chans.any fun c => decide (c < 16) == field

/-- PD6's rule (R389, R416, R443). -/
def State.memHolds (s : State) : Bool :=
  s.evc.groups.any (·.collecting.isSome) || s.evc.targets.any (·.dlv.isSome) || s.evc.coreQ.any (!·.isEmpty) ||
    decide (s.fab.transfers ≠ 0) || !s.fab.faults.isEmpty || !s.fab.heldPages.isEmpty ||
    s.fab.windows.any (fun w => decide (w.busy ≠ 0)) || s.issuedWhere (fun _ => true) || decide (s.mbx.mgmtQueue ≠ 0)

/-- PD5's rule (R262). -/
def State.cipherHolds (s : State) : Bool :=
  s.crypt.chans.any (fun (c : Chan) => !c.queue.isEmpty || c.cur.isSome || c.susp.isSome) || !s.fab.heldPages.isEmpty

/-- PD13's rule, which does not apply when the target keeps PD13 (R307, R486). -/
def State.meterHolds (s : State) : Bool :=
  !s.psc.keep.getLsbD 13 &&
    (s.rel.latch || match s.met.above with
      | some t => decide (s.now < t + 10000000000)
      | none => false)

/-- A domain votes no, given the target's kept domains in force (R486). -/
def State.votesNo (s : State) (d : Nat) : Bool :=
  match d with
  | 1 => s.pairBusy 0
  | 2 => s.pairBusy 1 || s.decisionHolds
  | 3 => s.pairBusy 2
  | 4 => s.pairBusy 3
  | 5 => s.cipherHolds
  | 6 => s.memHolds
  | 7 => s.net.sakChange.any id || decide (s.mbx.mgmtQueue ≠ 0)
  | 8 => s.net.nodes.any (·.challenge.isSome)
  | 9 => decide (s.radio.st ≠ .off) || !s.radio.held.isEmpty || s.sess.cur.isSome
  | 10 => decide (s.radio.st ≠ .off) || !s.radio.held.isEmpty || s.sess.cur.isSome
  | 11 => s.burstsOn true || s.sess.cur.isSome
  | 12 => s.burstsOn false
  | 13 => s.meterHolds || s.decisionHolds
  | _ => false

/-- The lowest-numbered domain still powered that votes no. -/
def State.vetoer (s : State) : Option Nat :=
  (List.range 14).find? fun d => decide (1 ≤ d) && s.pdOn d && s.votesNo d

/-! ### Entry, commit and gating (R484 to R488) -/

/-- The domains that a target keeps powered: Drift all but the radio's, Firn those named or PD7 alone, Permafrost none
(R482, R485). -/
def keptBy (target : PowerState) (keep : Nat) : BitVec 14 :=
  match target with
  | .drift => 0x39FF
  | .firn => if keep = 0 then 0x0080 else BitVec.ofNat 14 keep
  | _ => 0

/-- The target code of pwr.sleep. -/
def targetOf (code : Nat) : PowerState :=
  match code with
  | 1 => .drift
  | 2 => .firn
  | _ => .permafrost

/-- The code of a target reached. -/
def targetCode : PowerState → Nat
  | .drift => 1
  | .firn => 2
  | .permafrost => 3
  | _ => 0

/-- An entry begins: every domain votes at once, and a no ends it (R487 steps 1 to 3). -/
def State.beginEntry (target : PowerState) (keep : Nat) (s : State) : State :=
  let s1 := (s.modPsc fun p =>
    { p with entry := some target, keep := keptBy target keep, vote := true, committed := false, gatedNow := [] }).sleepDown
  match s1.vetoer with
  | some d => s1.rollBack d
  | none => s1

/-- The wake key for the present wake_count (R264, R424): derived from the slot that the image names, which must be LOADED
and of class SYSTEM or PARTNER, and the store not sealed; otherwise there is none. -/
def State.deriveWakeKey (s : State) : List Byte :=
  let k := s.cfgN recSystem 3
  if s.serviceSlot k && !s.crypt.sealed then kdf (s.slot k).key 0x0801 Config.deviceIdentity 0 s.psc.wakeCount 128 else []

/-- The items of the flush that belong to the roles and the metering engine (R499 steps 3 to 5): the counters where PD13 is
to be gated, the failure summaries, and the volatile Moraine queue; what the reserve still holds before a boot stays first. -/
def State.flushItems (meter : Bool) (s : State) : State :=
  let s1 := if meter then s.commitCounters else s
  (s1.putSummaries fun _ => true).modLedger fun l => { l with flush := if s1.boot.phase = .running then l.queue.take 64 else (l.flush ++ l.queue).take 64 }

/-- The reference input is powered down, so it stands qualified no longer (R327, R328, R482). -/
def State.refOff (s : State) : State := s.modTbu fun t => { t with refOk := false }

/-- PD7 kept in Firn puts the links that are up in low-power idle where their partner has advertised it, which no field of the
block holds: the bit is free (R457, R482; log 11). -/
def State.idleLinks (s : State) : State :=
  if s.psc.keep.getLsbD 7 then (s.modNet fun n => { n with lpi := n.linkUp.any id && s.freeVal.testBit 0 }).drawn else s

/-- The state is reached: Permafrost changes the timebase to the slow crystal unless that stands failed (R487 steps 8, 9). -/
def State.reachState (target : PowerState) (s : State) : State :=
  let s0 := if target = .firn then s.idleLinks else s
  let s1 := if target = .permafrost ∧ s0.tbu.slowFailed = false then (s0.changeSource .slowCrystal true).refOff else s0
  s1.modPsc fun p =>
    { p with state := target, entry := none, committed := false, vote := false, trimWait := false, gatedNow := [], entryNs := s.now }

/-- The next domain to be gated (R488). -/
def State.nextGate (s : State) : Option Nat := gateOrder.find? fun d => s.pdOn d && !s.psc.keep.getLsbD d

/-- The commit begins: wake_count rises; Firn and Permafrost load the wake key and flush (R487 steps 5 and 6); an entry that
has nothing to gate is reached (step 7 of Drift). -/
def State.beginCommit (target : PowerState) (s : State) : State :=
  let s1 := s.modPsc fun p => { p with wakeCount := (p.wakeCount + 1) % 2 ^ 32, committed := true, trimWait := false }
  let s2 :=
    if target = .drift then s1
    else (s1.modCrypt fun x => { x with wakeKey := s1.deriveWakeKey }).flushItems (!s.psc.keep.getLsbD 13)
  if s2.nextGate.isNone then s2.reachState target else s2

/-- Permafrost commits only with a valid trim; while the slow crystal stands failed no trim is needed, since the reference
stays in use (R328, R329). -/
def State.trimReady (s : State) (target : PowerState) : Bool := decide (target ≠ .permafrost) || s.trimValid || s.tbu.slowFailed

/-- The meaning of SLEEP_COMMIT (R487): a domain that can no longer vote yes vetoes instead (R489). -/
def doSleepCommit (s : State) : State :=
  match s.psc.entry with
  | none => s
  | some target =>
    if s.psc.committed then s
    else
      match s.vetoer with
      | some d => s.rollBack d
      | none => if s.trimReady target then s.beginCommit target else s.modPsc fun p => { p with trimWait := true }

/-- SLEEP_COMMIT. -/
def execSleepCommit (s : State) : Host.Outcome State Fault Refusal := .next (doSleepCommit s)

/-- The meaning of VETO (R489): a domain that is still powered vetoes the entry in progress. -/
def doVeto (d : Nat) (s : State) : State :=
  if s.psc.entry.isSome && decide (1 ≤ d) && decide (d ≤ 13) && s.pdOn d then s.rollBack d else s

/-- VETO. -/
def execVeto (domain : Nat) (s : State) : Host.Outcome State Fault Refusal := .next (doVeto domain s)

/-- What gating a domain stops besides its switch (R305, R456, R482): metering, or the links of its ports. -/
def State.stopDomain (d : Nat) (s : State) : State :=
  let drop := fun (ports : List Nat) => s.modNet fun n =>
    { n with
      linkUp := ports.foldl (fun l p => l.set p false) n.linkUp
      linkLost := ports.foldl (fun l p => l.set p (some s.now)) n.linkLost }
  if d = 13 then s.stopMeter else if d = 7 then drop [0, 1] else if d = 8 then drop [2, 3, 4, 5] else s

/-- The meaning of DOMAIN_GATED (R487, R488): the next domain in order is gated, and after the last the state is reached. -/
def doDomainGated (s : State) : State :=
  match s.psc.entry, s.nextGate with
  | some target, some d =>
    if !s.psc.committed then s
    else
      match s.vetoer with
      | some v => s.rollBack v
      | none =>
        let s1 := (s.stopDomain d).gateDomain d
        if s1.nextGate.isNone then s1.reachState target else s1
  | _, _ => s

/-- DOMAIN_GATED. -/
def execDomainGated (s : State) : Host.Outcome State Fault Refusal := .next (doDomainGated s)

/-- drift_idle has run since the last boot became ready and since the last wake began (R484); that the vote would have passed
throughout is the row's own moment (log 1). -/
def State.driftIdleRun (s : State) : Bool :=
  let d := 10000 * s.cfgN recSystem 12
  decide (s.boot.readyNs + d ≤ s.now) && (s.psc.wakeSrc == 0xFF || decide (s.psc.wakeNs + d ≤ s.now))

/-- The meaning of DRIFT_IDLE_ENTRY (R484): Axiesis enters Drift itself from Run, if a vote for Drift passes; it posts
nothing, and nothing is counted when it fails. -/
def doDriftIdleEntry (s : State) : State :=
  let s1 := s.modPsc fun p => { p with keep := keptBy .drift 0 }
  if s.rolesRun && decide (s.psc.state = .run) && s.psc.entry.isNone && s.psc.sleepMb.isNone && s.driftIdleRun &&
      s1.vetoer.isNone then
    (s1.modPsc fun p => { p with entry := some .drift }).beginCommit .drift
  else s

/-- DRIFT_IDLE_ENTRY. -/
def execDriftIdleEntry (s : State) : Host.Outcome State Fault Refusal := .next (doDriftIdleEntry s)

/-! ### pwr.sleep and pwr.status -/

/-- The payload of pwr.sleep is in range (R444, R485). -/
def wfPwrSleep (p : List Byte) : Bool :=
  let target := uAt p 0 1
  let keep := uAt p 2 2
  decide (1 ≤ target) && decide (target ≤ 3) && zeroAt p 1 1 &&
    (if target = 2 then keep &&& 0x21C0 == keep && (!keep.testBit 13 || keep.testBit 6) else keep == 0)

/-- A second pwr.sleep while one is ISSUED is BUSY (R455, R504). -/
def prePwrSleep (s : State) (_ : Mailbox) : Option Nat := refuseIf (s.psc.sleepMb.isSome || s.psc.entry.isSome) Status.busy

/-- PWR_SLEEP (R454, R487, R491): wake_en is written, and the vote is taken. -/
def execPwrSleep (mb : Nat) (s : State) : Host.Outcome State Fault Refusal :=
  .next (if s.psc.state ≠ .run then s
    else s.perform mb 0x0D02 (checked wfPwrSleep prePwrSleep) (fun b t =>
      let en := BitVec.ofNat 32 (uAt b.payload 4 4)
      ((t.wait mb).modPsc fun p => { p with sleepMb := some mb, wakeEn := (en &&& 0x3FFF) ||| 0x23B1 }).beginEntry
        (targetOf (uAt b.payload 0 1)) (uAt b.payload 2 2)))

/-- The class byte of a feed: its class, or the given value where it has none (R469). -/
def feedClass (f : Feed) (v : Nat) : Nat := match f.cls with | some c => c | none => v

/-- The body of pwr.status: p_in and the class of a feed without one are values the spec does not state. -/
def State.pwrBody (s : State) : List Byte :=
  let fa := s.power.feeds.getD 0 {}
  let fb := s.power.feeds.getD 1 {}
  let f0 := s.freeVal
  let st := match s.psc.state with
    | .drift => 1
    | .firn => 2
    | _ => 0
  leBytes 1 st ++ leBytes 1 (bit fa.delivering + 2 * bit fb.delivering) ++ leBytes 1 (feedClass fa f0) ++
    leBytes 1 (feedClass fb (f0 / 0x100)) ++ leBytes 2 s.psc.powered.toNat ++ leBytes 2 s.power.vcore ++ leBytes 2 s.psc.vres ++
    leBytes 1 s.psc.hostSleep.toNat ++ leBytes 1 s.psc.lastVeto ++ leBytes 4 (f0 / 0x10000) ++ leBytes 4 s.psc.wakeCount ++
    leBytes 4 s.psc.rollbacks ++ leBytes 1 s.psc.wakeSrc ++ zeros 3 ++
    leBytes 4 (min ((s.psc.wakeNs - s.psc.entryNs) / 1000000) 0xFFFFFFFF) ++ zeros 8

/-- PWR_STATUS (17_command_reference). -/
def execPwrStatus (mb : Nat) (s : State) : Host.Outcome State Fault Refusal :=
  .next (s.perform mb 0x0D01 noPre (fun _ t => (t.post mb Status.ok t.pwrBody).drawn))

/-! ### Wakes (R491 to R496) -/

/-- WAKE_SOURCE (R491, R493). -/
def execWakeSource (code : Nat) (s : State) : Host.Outcome State Fault Refusal :=
  .next (if code ≤ 0x0D then s.wakeSource code else s)

/-- Every gated domain but the radio's is restored, in the order of R495; its pads are released unless PAD_REL keeps them. -/
def State.restoreAll (s : State) : State :=
  [6, 1, 2, 3, 4, 5, 7, 8, 11, 12, 13].foldl (fun (t : State) d => if t.pdOn d then t else t.restoreDomain d) s

/-- pwr.sleep posts OK after its wake with the state reached, the source and both stamps (R454). -/
def State.postSlept (reached : PowerState) (s : State) : State :=
  match s.psc.sleepMb with
  | some n =>
    (s.postWith n Status.ok (s.sleepBody (targetCode reached) 0xFF s.psc.wakeSrc s.psc.entryNs s.psc.wakeNs)
      (s.box n).payload.length).modPsc fun p => { p with sleepMb := none }
  | none => s

/-- What a wake from Firn or Permafrost adds (R226, R491, R495, R499): held events reach the EVC, the feedback conditions of
Permafrost are raised, the flush reserve gives way to the retained queue, the standstill durations restart, the decision is
evaluated afresh, and waiting bursts are considered. -/
def State.resumeRoles (s : State) : State :=
  let s1 := (s.releaseHeld.modLedger fun l => { l with flush := [] }).feedbackWake
  s1.restartHalves.evalDecision.considerAll

/-- The meaning of WAKE_COMPLETE (R495, R496). -/
def doWakeComplete (s : State) : State :=
  let left := s.psc.state
  if s.psc.waking.isNone || s.psc.entry.isSome || fromCode left = 0 then s
  else
    let s1 := (s.restoreAll.modNet fun n => { n with lpi := false }).modPsc fun p =>
      { p with state := .run, waking := none, keep := 0 }
    let s2 := if left = .drift then s1 else s1.resumeRoles
    (s2.serveWanted.raise 12 1).postSlept left

/-- WAKE_COMPLETE. -/
def execWakeComplete (s : State) : Host.Outcome State Fault Refusal := .next (doWakeComplete s)

/-- LINK_ACTIVITY (R458): a detector of an uplink whose PD7 is gated. -/
def execLinkActivity (port : Nat) (s : State) : Host.Outcome State Fault Refusal :=
  .next (if port < 2 ∧ s.pdOn 7 = false then s.wakeSource (2 + port) else s)

/-- The tag of a wake frame (R424): the first 64 bits of the CMAC of two blocks under the wake key. -/
def State.wakeTag (s : State) (devaddr : Nat) (ws : List Word) : List Byte :=
  let head : List Byte := [0x57, BitVec.ofNat 8 devaddr] ++ zeros 6 ++ beBytes 8 Config.deviceIdentity
  (Aes.cmac s.crypt.wakeKey (head ++ ws.flatMap fun w => beBytes 4 w.toNat)).take 8

/-- The frame verifies: a wake key is loaded, the count is the present one, and the tag is right (R424, R490). -/
def State.wakeFrameOk (s : State) (devaddr : Nat) (ws : List Word) (tag : List Byte) : Bool :=
  !s.crypt.wakeKey.isEmpty && (ws.getD 0 0).toNat == s.psc.wakeCount && tag == s.wakeTag devaddr ws

/-- The iterated core takes a wake frame ahead of any further CMPW block (R265). -/
def State.verifyWake (s : State) : State := s.modCrypt fun x => { x with verifying := true }

/-- A verified wake frame records its reason and wakes the device (R424, R491). -/
def State.wakeVerified (code reason : Nat) (s : State) : State :=
  (s.modPsc fun p => { p with wakeReason := BitVec.ofNat 32 reason }).wakeSource code

/-- The meaning of ETHERNET_WAKE_FRAME (R494): the 28 payload bytes of an EtherType 0x88B5 frame. In Firn it is verified on
the iterated core; otherwise it is discarded and counted. -/
def doEthernetWakeFrame (port : Nat) (bs : List Byte) (s : State) : State :=
  if !(decide (port < 2) && s.phyOn port) then s
  else if s.psc.state ≠ .firn || bs.length ≠ 28 || uAt bs 0 1 ≠ 0x20 then doFrameDiscarded port s
  else
    let s1 := (s.rxFrame port).verifyWake
    if s.wakeFrameOk 0 (wordsOf 4 (slice bs 4 16)) (slice bs 20 8) then s1.wakeVerified 0x01 (uAt bs 8 4)
    else s1.modPsc fun p => { p with wfailEth := satAdd 0xFFFF p.wfailEth 1 }

/-- ETHERNET_WAKE_FRAME. -/
def execEthernetWakeFrame (port : Nat) (payload : List Byte) (s : State) : Host.Outcome State Fault Refusal :=
  .next (doEthernetWakeFrame port payload s)

/-! ### VRES (R500, R501) -/

/-- The meaning of VRES_MEASUREMENT (R501): below vres_min the event, at most once per hour while it stands, and the wake. -/
def doVresMeasurement (mv : Nat) (s : State) : State :=
  let s1 := s.modPsc fun p => { p with vres := mv % 0x10000 }
  if s.psc.vresMin ≤ mv then s1.modPsc fun p => { p with vresEvent := none }
  else
    let due : Bool := match s.psc.vresEvent with
      | some t => decide (t + hourNs ≤ s.now)
      | none => true
    if due then ((s1.modPsc fun p => { p with vresEvent := some s.now }).raise 12 5).wakeSource 0x0C else s1

/-- VRES_MEASUREMENT: made only while line power is present (R501). -/
def execVresMeasurement (mv : Nat) (s : State) : Host.Outcome State Fault Refusal :=
  .next (if s.power.line then doVresMeasurement mv s else s)

/-- VRES_EXHAUSTED (R500): below 2.0 V with the line absent, the timebase stops, and the next power-up is a power-on reset. -/
def execVresExhausted (s : State) : Host.Outcome State Fault Refusal :=
  .next (if s.power.line then s
    else (s.modTbu fun t => { t with running := false }).modPsc fun p => { p with vresOut := true })

/-! ### PSC and PAD registers (R502, R503) -/

/-- PSC_STATE.state. -/
def stateCode : PowerState → Nat
  | .drift => 1
  | .firn => 2
  | _ => 0

/-- A read of PSC (R502). -/
def readPsc (off : Nat) (s : State) : Word :=
  let p := s.psc
  if off = 0x00 then atBit 31 1 (bit p.vote) ||| atBit 30 1 (bit p.trimWait) ||| atBit 16 14 p.powered.toNat ||| atBit 0 2 (stateCode p.state)
  else if off = 0x04 then word p.hostSleep.toNat
  else if off = 0x08 then p.wakeEn
  else if off = 0x0C then atBit 24 8 p.wakeSrc ||| atBit 16 8 p.wakeFrom
  else if off = 0x10 then word p.wakeCount
  else if off = 0x14 then atBit 16 16 p.rollbacks ||| atBit 0 8 p.lastVeto
  else if off = 0x18 then atBit 16 16 p.wfailEth ||| atBit 0 16 p.wfailSpi
  else if off = 0x1C then atBit 16 16 p.vres ||| atBit 0 16 p.vresMin
  else 0

/-- A write to PSC (R502). -/
def writePsc (off : Nat) (w : Word) (s : State) : State :=
  if off = 0x04 then writeHostSleep w s
  else if off = 0x08 then s.modPsc fun p => { p with wakeEn := (w &&& 0x3FFF) ||| 0x23B1 }
  else if off = 0x1C then s.modPsc fun p => { p with vresMin := max 2000 (min 3600 (fld w 0 16)) }
  else s

/-- A write of 1s to PAD_FRZ releases the pads of powered domains, which resume their work (R498, R503): a sequencer that was
held OFF comes up, and metering runs again. -/
def writeFrz (w : Word) (s : State) : State :=
  let out := BitVec.setWidth 14 w &&& s.pad.frz &&& s.psc.powered
  let s1 := s.modPad fun p => { p with frz := p.frz &&& ~~~out }
  let s2 := if out.getLsbD 10 then s1.seqUp else s1
  if out.getLsbD 13 then s2.restartHalves else s2

/-- PAD_FRZ_WRITE. -/
def execPadFrzWrite (w : Word) (s : State) : Host.Outcome State Fault Refusal := .next (writeFrz w s)

/-- The levels at the GPIO pins: an output pin's own, an input pin's from outside (R503). -/
def Pad.levels (p : Pad) : BitVec 16 := (p.gpioDir &&& p.gpioOut) ||| (~~~p.gpioDir &&& p.gpioIn)

/-- A read of PAD (R503). -/
def readPad (off : Nat) (s : State) : Word :=
  let p := s.pad
  if off = 0x00 then word p.frz.toNat
  else if off = 0x04 then word p.rel.toNat
  else if off = 0x10 then word p.gpioDir.toNat
  else if off = 0x14 then word p.gpioOut.toNat
  else if off = 0x18 then word p.levels.toNat
  else if off = 0x1C then p.gpioPull
  else if off = 0x20 then p.gpioEdge
  else if off = 0x24 then word p.gpioWake.toNat
  else 0

/-- A write to PAD (R503). -/
def writePad (off : Nat) (w : Word) (s : State) : State :=
  let half := BitVec.setWidth 16 w
  if off = 0x00 then writeFrz w s
  else if off = 0x04 then s.modPad fun p => { p with rel := BitVec.setWidth 14 w &&& 0x2440 }
  else if off = 0x10 then s.modPad fun p => { p with gpioDir := half }
  else if off = 0x14 then s.modPad fun p => { p with gpioOut := half }
  else if off = 0x1C then s.modPad fun p => { p with gpioPull := w }
  else if off = 0x20 then s.modPad fun p => { p with gpioEdge := w }
  else if off = 0x24 then s.modPad fun p => { p with gpioWake := half }
  else s

/-- An edge of the pin is selected (R503): 1 rising, 2 falling, 3 both. -/
def Pad.selects (p : Pad) (pin : Nat) (rising : Bool) : Bool := p.gpioEdge.getLsbD (2 * pin + bit (!rising))

/-- The meaning of GPIO_EDGE (R503): an input pin's filtered edge; a selected one raises its event and may wake the device.
GPIO is not served in Nunatak hold (R500). -/
def doGpioEdge (pin : Nat) (rising : Bool) (s : State) : State :=
  if 16 ≤ pin ∨ s.psc.state = .nunatakHold ∨ s.pad.gpioDir.getLsbD pin = true then s
  else
    let m := BitVec.ofNat 16 (1 <<< pin)
    let s1 := s.modPad fun p => { p with gpioIn := if rising then p.gpioIn ||| m else p.gpioIn &&& ~~~m }
    if !s.pad.selects pin rising then s1
    else
      let s2 := s1.raise 15 pin
      if s.pad.gpioWake.getLsbD pin then s2.wakeSource 0x06 else s2

/-- GPIO_EDGE. -/
def execGpioEdge (pin : Nat) (rising : Bool) (s : State) : Host.Outcome State Fault Refusal := .next (doGpioEdge pin rising s)

end Sys2Proof.Machine
end

