-- ==== Sys2Proof/Machine/Image.lean ====
section
/-!
DEFINITION. The Meton image: its structure and values, the rules that refuse it, its tag and its bank seal, and what a new
image brings in (R525 to R534 of 21_configuration_and_boot).
-/
namespace Sys2Proof.Machine

/-- The values and partner records that an image carries. -/
abbrev ImageValues := List (Nat × Int) × List (Nat × List Byte)

/-! ### Structure and values (R525 to R530) -/

/-- A partner record of an image is one of R44: a valid identity, a role of its kind (R45), a root slot, and the home attachment
of its kind, none for a key or a lessor (R46). -/
def imagePartnerOk (b : List Byte) : Bool :=
  validIdentity (uAt b 0 8) && uAt b 8 1 != 0 && uAt b 8 1 == roleKind (uAt b 9 1) && decide (uAt b 11 1 < 16) && zeroAt b 60 4 &&
    (if uAt b 8 1 = 2 ∨ uAt b 8 1 = 3 then homeOk (uAt b 8 1) (uAt b 20 1) else uAt b 20 1 == 0xFF)

/-- The field entries of a record's body, in ascending field number after `last`; the refusal names the field (R526, R530). -/
def readEntries (record : Nat) : Nat → Nat → List Byte → Except Nat ImageValues
  | 0, _, bs => if bs.isEmpty then .ok ([], []) else .error (cfgKey record 0)
  | n + 1, last, bs =>
    if bs.isEmpty then .ok ([], [])
    else if bs.length < 4 then .error (cfgKey record 0)
    else
      let field := uAt bs 0 2
      let len := uAt bs 2 2
      let pad := (4 - len % 4) % 4
      let raw := slice bs 4 len
      match fieldSpec record field with
      | none => .error (cfgKey record field)
      | some sp =>
        let v : Int := if sp.lo < 0 then iAt bs 4 len else (uAt bs 4 len : Nat)
        let good : Bool := if sp.long then imagePartnerOk raw else sp.admits record field v
        if field ≤ last ∨ len ≠ sp.len ∨ bs.length < 4 + len + pad ∨ zeroAt bs (4 + len) pad = false ∨ good = false then
          .error (cfgKey record field)
        else
          match readEntries record n field (bs.drop (4 + len + pad)) with
          | .error e => .error e
          | .ok (vs, ps) =>
            if sp.long then .ok (vs, (field - 0x10, raw) :: ps) else .ok ((cfgKey record field, v) :: vs, ps)

/-- The records, in ascending code after `last`, and zeros after the last of them (R525, R526, R530). -/
def readRecords : Nat → Nat → List Byte → Except Nat ImageValues
  | 0, _, bs => if bs.all (· == 0) then .ok ([], []) else .error 0
  | n + 1, last, bs =>
    let code := uAt bs 0 2
    let len := uAt bs 4 4
    if bs.length < 8 then .error 0
    else if !knownRecord code || decide (code ≤ last) || !zeroAt bs 2 2 || len % 4 != 0 || decide (bs.length < 8 + len) then
      .error (cfgKey code 0)
    else
      match readEntries code len 0 (slice bs 8 len) with
      | .error e => .error e
      | .ok (vs, ps) =>
        match readRecords n code (bs.drop (8 + len)) with
        | .error e => .error e
        | .ok (vs', ps') => .ok (vs ++ vs', ps ++ ps')

/-- An image length of R525. -/
def imageLenOk (n : Nat) : Bool := n % 64 == 0 && decide (128 ≤ n) && decide (n ≤ 524288)

/-- An image's values, or its refusal (R525, R530). -/
def readImage (bs : List Byte) : Except Nat ImageValues :=
  if uAt bs 0 4 != 0x4E54454D || uAt bs 4 1 != 1 || !zeroAt bs 5 1 || uAt bs 8 4 == 0 || uAt bs 12 4 != bs.length ||
      uAt bs 16 8 != Config.deviceIdentity || !zeroAt bs 24 8 || !imageLenOk bs.length then .error 0
  else readRecords (uAt bs 6 2) 0 (slice bs 32 (bs.length - 48))

/-! ### Rules of other chapters (R530) -/

/-- The first number below n for which the test fails gives its refusal. -/
def firstBad (n : Nat) (bad : Nat → Option Nat) : Option Nat := (List.range n).findSome? bad

/-- A slot named by moraine_slot, wake_slot or cak_slot is EMPTY, or of class SYSTEM or PARTNER (R569). -/
def State.namedSlotOk (s : State) (k : Nat) : Bool := !(s.slot k).loaded || s.serviceSlot k

/-- R88, under the layers' own matrix: the transponder part is symmetric with a zero diagonal, phases are carried for all enabled
channels or none, coupled channels share none of those carried, and four phases suffice. DESIGN CHOICE: coupled channels count
enabled or not (log 74). -/
def State.couplingOk (s : State) : Bool :=
  let row := fun (i : Nat) => s.cfgN recCoupling (fieldNo 0 (i + 1))
  let carried := fun (i : Nat) => s.cfg? recCoupling (fieldNo 1 (i + 1))
  let coils := (List.range 48).filter fun i => s.lfEnabled (16 + i)
  let symmetric := (List.range 48).all fun i => !(row i).testBit i && (List.range 48).all fun j => (row i).testBit j == (row j).testBit i
  let some_ := coils.any fun i => (carried i).isSome
  let all_ := coils.all fun i => (carried i).isSome
  let apart := (List.range 48).all fun i => (List.range 48).all fun j =>
    i == j || !(row i).testBit j || (carried i).isNone || carried i != carried j
  let order := assignPhases fun a b => (row (a - 16)).testBit (b - 16)
  symmetric && apart && (if some_ then all_ else order.all fun p => decide (p < 4))

/-- R164 and R204 for wake configuration k: an enabled one carries its wake_code and pattern_set, and names an enabled set. -/
def State.wakeRefusal (s : State) (k : Nat) : Option Nat :=
  if !s.cfgB recWake (fieldNo k 1) then none
  else if (s.cfg? recWake (fieldNo k 2)).isNone then some (cfgKey recWake (fieldNo k 2))
  else if (s.cfg? recWake (fieldNo k 4)).isNone then some (cfgKey recWake (fieldNo k 4))
  else if !s.cfgB recRanging (fieldNo (s.cfgN recRanging (fieldNo 4 (k + 1))) 1) then some (cfgKey recRanging (fieldNo 4 (k + 1)))
  else none

/-- The baseline of a set lies within half a wavelength ± 5 % (R203, R204); the wavelength in 0.01 mm. -/
def State.baselineOk (s : State) (set : Nat) : Bool :=
  let lam := if s.cfgN recRanging (fieldNo set 2) = 0 then 4620 else 3753
  let b := s.cfgN recRanging (fieldNo set 10)
  decide (19 * lam ≤ 400 * b) && decide (400 * b ≤ 21 * lam)

/-- R204 and R205 for zone z: an enabled one carries its bounds in order, and a sector needs a fitting baseline. -/
def State.zoneRefusal (s : State) (z : Nat) : Option Nat :=
  let v := fun (i : Nat) => s.cfg? recZones (fieldNo z i)
  let bad := fun (i : Nat) => some (cfgKey recZones (fieldNo z i))
  if !s.cfgB recZones (fieldNo z 1) then none
  else
    match v 3, v 4 with
    | some lo, some hi =>
      if hi ≤ lo then bad 3
      else if !s.cfgB recZones (fieldNo z 5) then none
      else
        match v 6, v 7 with
        | some a, some b =>
          if b ≤ a then bad 6
          else if s.baselineOk (s.cfgN recZones (fieldNo z 2)) then none
          else some (cfgKey recRanging (fieldNo (s.cfgN recZones (fieldNo z 2)) 10))
        | none, _ => bad 6
        | _, none => bad 7
    | none, _ => bad 3
    | _, none => bad 4

/-- The reservations of channels 16 to 31 and the fixed ones exceed 448 buffers (R245, R246). -/
def State.reservedOver (s : State) : Bool := decide (448 < ((List.range 32).map s.reservation).sum)

/-- The first rule of a chapter that refuses the layers in force, in the order of the record codes (R530, R569). -/
def State.layersRefusal (s : State) : Option Nat :=
  let named := fun (record field : Nat) => if s.namedSlotOk (s.cfgN record field) then none else some (cfgKey record field)
  (named recSystem 3) <|> (if s.couplingOk then none else some (cfgKey recCoupling 0)) <|> firstBad 8 s.wakeRefusal <|>
    firstBad 16 s.zoneRefusal <|> (if s.reservedOver then some (cfgKey recCipher 0) else none) <|>
    named recMetering 18 <|> named recNetwork (fieldNo 6 1)

/-! ### Banks -/

/-- The physical address of a Meton bank (R395). -/
def metonBase (b : Nat) : Nat := mramBase + 0x20_0000 + b * 0x8_0000

/-- The image's length as its bank's header gives it; none where it is not one of R525. -/
def State.imageLen (s : State) (b : Nat) : Option Nat :=
  let n := leNat (s.physRead (metonBase b + 12) 4)
  if imageLenOk n then some n else none

/-- The bytes of a bank's image. -/
def State.imageBytes (s : State) (b : Nat) : List Byte :=
  match s.imageLen b with
  | some n => s.physRead (metonBase b) n
  | none => []

/-- The version of a bank's image. -/
def State.imageVersion (s : State) (b : Nat) : Nat := leNat (s.physRead (metonBase b + 8) 4)

/-- The first 8 bytes of a bank's tag (R315, cfg.status). -/
def State.imageTag8 (s : State) (b : Nat) : List Byte :=
  match s.imageLen b with
  | some n => s.physRead (metonBase b + n - 16) 8
  | none => zeros 8

/-- A Meton bank's standing. -/
def State.metonBank (s : State) (b : Nat) : MetonBank := s.boot.metonBanks.getD b {}

/-- A Meton bank's standing updated. -/
def State.modMetonBank (b : Nat) (f : MetonBank → MetonBank) (s : State) : State :=
  s.modBoot fun x => { x with metonBanks := x.metonBanks.modify b f }

/-- The inactive bank: bank A while none is active (R532). -/
def State.metonInactive (s : State) : Nat :=
  match s.boot.metonActive with
  | some a => 1 - a
  | none => 0

/-- The tag of a bank verifies under the key from a root key of KS1 (R531). -/
def State.imageTagOk (s : State) (root : List Byte) (b : Nat) : Bool :=
  let bs := s.imageBytes b
  let key := kdf root 0x0601 Config.deviceIdentity 0 0 256
  !bs.isEmpty && Aes.cmac key (bs.take (bs.length - 16)) == bs.drop (bs.length - 16)

/-- The seal of a bank, over its bytes and its letter (R533). -/
def State.sealOf (s : State) (b : Nat) : List Byte :=
  Aes.cmac (kdf (s.slot 0).key 0x0602 Config.deviceIdentity 0 0 256) (s.imageBytes b ++ [BitVec.ofNat 8 (0x41 + b)])

/-- The layers with a bank's image as the image layer and no runtime value; the refusal otherwise (R530). -/
def State.imageLayers (s : State) (b : Nat) : Except Nat CfgStore :=
  match readImage (s.imageBytes b) with
  | .error e => .error e
  | .ok (vs, ps) =>
    let c : CfgStore := { image := vs, runtime := [], partners := ps }
    match (s.modCfg fun _ => c).layersRefusal with
    | some e => .error e
    | none => .ok c

/-! ### What a new image brings in (R532 step 6) -/

/-- Work already running goes on under the layers it began with (R101, R190, R213, R455). -/
def State.keepOldLayers (s : State) : State :=
  let old := fun (o : Option CfgStore) => if o.isSome then o else some s.cfg
  let s1 := s.modSess fun x => { x with cur := x.cur.map fun r => { r with cfgWas := old r.cfgWas } }
  let s2 := s1.modCheck fun k => { k with cfgWas := old k.cfgWas }
  s2.modMbx fun m => { m with boxes := m.boxes.map fun b => if b.st = .issued then { b with cfgWas := old b.cfgWas } else b }

/-- The layers in force change: VLF waits for the field bursts (R70), a change of life_mode for LOCKED (R233), the reference's
increment takes its trim (R326), the budget and the decision follow, and everything else reads the layers when it next needs them. -/
def State.bringIn (c : CfgStore) (s : State) : State :=
  let s1 := s.keepOldLayers.modCfg fun _ => c
  let v := 100 * s1.cfgN recLfArray (fieldNo 0x40 1)
  let s2 := (s1.modLf fun x => { x with vlfPending := if v = x.vlf then none else some v }).settleVlf
  let s3 := s2.modRel fun r => { r with modeWait := s2.cfgB recRelease 1 != r.storage }
  let s4 := s3.modTbu fun t => { t with incRef := refIncrement (s3.cfgI recSystem 5) }
  s4.rebudget.evalDecision

end Sys2Proof.Machine
end

