-- ==== Sys2Proof/Machine/Keystore.lean ====
section
/-!
DEFINITION. The commands on root slots and contexts (10_keys_and_contexts, R299): key.write, key.erase, key.info,
re-provisioning, and opening, closing, saving and restoring contexts.
-/
namespace Sys2Proof.Machine

/-- A service key's verified presence is no more than 60 s old (R67, R278). -/
def State.servicePresent (s : State) : Bool :=
  match s.parts.service with
  | some (ns, ep) => ep == s.tbu.epoch && decide (s.now - ns ≤ 60000000000)
  | none => false

/-- The transport key K_t of a slot, class and version (R277). -/
def State.transportKey (s : State) (slot cls version : Nat) : List Byte :=
  kdf (s.slot 0).key 0x0001 Config.deviceIdentity (slot + 16 * cls) version 256

/-- A key is committed to a slot: the previous key of a LOADED slot moves to the shadow while a message or a session refers
to it (R279, R284). -/
def State.commitKey (k cls : Nat) (key : List Byte) (s : State) : State :=
  (s.modSlot k fun x =>
    { x with
      loaded := true, cls := cls, version := x.version + 1, key := key, kcv := kcvOf key
      shadow := if x.loaded then some (x.key, x.version) else none }).dropShadow k

/-- The version, kcv and reserved byte that key.write and key.reprov_finish return. -/
def State.keyBody (s : State) (k : Nat) : List Byte := leBytes 4 (s.slot k).version ++ fit 3 (s.slot k).kcv ++ [0]

/-- The payload of key.write is in range (R276, R444). -/
def wfKeyWrite (p : List Byte) : Bool :=
  decide (uAt p 0 1 ≤ 15) && decide (1 ≤ uAt p 1 1) && decide (uAt p 1 1 ≤ 6) && zeroAt p 2 2

/-- The refusals of key.write (R275, R278, R284, R287). -/
def preKeyWrite (s : State) (b : Mailbox) : Option Nat :=
  let k := uAt b.payload 0 1
  let cls := uAt b.payload 1 1
  let x := s.slot k
  if k = 0 then some Status.denied
  else if (k == 1) != (cls == 3) then some Status.invalid
  else if s.boot.locked && !s.servicePresent && !(s.keys.reprovOpen && !x.loaded) then some Status.denied
  else if !(s.slot 0).loaded then some Status.denied
  else refuseIf (s.crypt.sealed || x.shadow.isSome) Status.busy

/-- KEY_WRITE: key.write (R277 to R279, R284). -/
def execKeyWrite (mb : Nat) (s : State) : Host.Outcome State Fault Refusal :=
  .next (s.perform mb 0x0A01 (checked wfKeyWrite preKeyWrite) fun b t =>
    let k := uAt b.payload 0 1
    let cls := uAt b.payload 1 1
    match Aes.kwUnwrap (t.transportKey k cls ((t.slot k).version + 1)) (slice b.payload 4 40) with
    | none => t.post mb Status.tagFail []
    | some key =>
      let t1 := ((t.commitKey k cls key).keyEntry k 1).raise 6 4
      t1.post mb Status.ok (t1.keyBody k))

/-- The payload of key.erase and of key.info is in range (R444). -/
def wfKeySlot (p : List Byte) : Bool := decide (uAt p 0 1 ≤ 15) && zeroAt p 1 3

/-- The refusals of key.erase (R275, R278, R287). -/
def preKeyErase (s : State) (b : Mailbox) : Option Nat :=
  if uAt b.payload 0 1 = 0 ∨ (s.boot.locked ∧ !s.servicePresent) then some Status.denied
  else refuseIf s.crypt.sealed Status.busy

/-- KEY_ERASE: key.erase (R279, R286). -/
def execKeyErase (mb : Nat) (s : State) : Host.Outcome State Fault Refusal :=
  .next (s.perform mb 0x0A02 (checked wfKeySlot preKeyErase) fun b t =>
    let k := uAt b.payload 0 1
    let t1 := ((t.eraseSlot k).keyEntry k 2).raise 6 4
    t1.post mb Status.ok (leBytes 4 (t1.slot k).version))

/-- The 32 bytes of key.info (17_command_reference). -/
def State.keyInfo (s : State) (k : Nat) : List Byte :=
  let x := s.slot k
  leBytes 1 k ++ leBytes 1 (bit x.loaded) ++ leBytes 1 x.cls ++ leBytes 1 (bit x.shadow.isSome) ++ leBytes 4 x.version ++
    fit 3 x.kcv ++ leBytes 1 (bit s.crypt.sealed) ++ zeros 4 ++ leBytes 8 x.counter ++ leBytes 8 x.mark

/-- KEY_INFO: key.info (R299). -/
def execKeyInfo (mb : Nat) (s : State) : Host.Outcome State Fault Refusal :=
  .next (s.perform mb 0x0A03 (checked wfKeySlot noPre) fun b t => t.post mb Status.ok (t.keyInfo (uAt b.payload 0 1)))

/-- key.reprov_begin is refused while KS0 is LOADED (R280). -/
def preReprovBegin (s : State) (_ : Mailbox) : Option Nat := refuseIf (s.slot 0).loaded Status.denied

/-- KEY_REPROV_BEGIN: key.reprov_begin (R280, step 1). -/
def execKeyReprovBegin (mb : Nat) (s : State) : Host.Outcome State Fault Refusal :=
  .next (s.perform mb 0x0A04 preReprovBegin fun _ t =>
    let d := t.freeBytes 32
    let nonce := leBytes 16 (t.freeVal / 2 ^ 256)
    let t1 := ((t.drawn.modKeys fun x => { x with reprov := some (d, nonce) }).keyEntry 0 4)
    t1.post mb Status.ok (leBytes 8 Config.deviceIdentity ++ leBytes 4 (t.slot 0).version ++ zeros 4 ++
      fit 64 (Config.p256Public d) ++ nonce))

/-- The payload of key.reprov_finish is in range (R444). -/
def wfReprovFinish (p : List Byte) : Bool := decide (uAt p 0 1 ≤ 1) && zeroAt p 1 3

/-- key.reprov_finish needs a begin in force and KS0 still EMPTY (R280). -/
def preReprovFinish (s : State) (_ : Mailbox) : Option Nat :=
  refuseIf (s.keys.reprov.isNone || (s.slot 0).loaded) Status.denied

/-- The digest that Dvorant signs (R280, step 2). -/
def State.reprovDigest (s : State) (d nonce p wrapped : List Byte) : List Byte :=
  Config.sha256 ([0x52, 0x50] ++ beBytes 8 Config.deviceIdentity ++ beBytes 4 ((s.slot 0).version + 1) ++
    fit 64 (Config.p256Public d) ++ nonce ++ p ++ wrapped)

/-- The KS0 key of a finish whose checks all pass (R280, step 3). -/
def State.reprovKey (s : State) (p : List Byte) : Option (List Byte) :=
  match s.keys.reprov with
  | none => none
  | some (d, nonce) =>
    let pub := slice p 4 64
    let wrapped := slice p 68 40
    let z := Config.p256Shared d pub
    if !Config.ecdsaVerify (uAt p 0 1) (s.reprovDigest d nonce pub wrapped) (slice p 108 64) then none
    else if !Config.p256OnCurve pub then none
    else Aes.kwUnwrap (Config.sha256 (z ++ beBytes 8 Config.deviceIdentity ++ nonce)) wrapped

/-- KEY_REPROV_FINISH: key.reprov_finish (R280, step 3): d and the nonce are scrubbed whatever the outcome. -/
def execKeyReprovFinish (mb : Nat) (s : State) : Host.Outcome State Fault Refusal :=
  .next (s.perform mb 0x0A05 (checked wfReprovFinish preReprovFinish) fun b t =>
    let t0 := t.modKeys fun x => { x with reprov := none }
    match t.reprovKey b.payload with
    | none => (t0.keyEntry 0 6).post mb Status.tagFail []
    | some key =>
      let t1 := (((t0.commitKey 0 1 key).modKeys fun x => { x with reprovOpen := true }).keyEntry 0 5).raise 6 4
      t1.post mb Status.ok (t1.keyBody 0))

/-! ### Contexts (R292 to R296) -/

/-- The default inv_limit of a mode (R290). -/
def defaultInvLimit (mode : Nat) : Nat := if mode = modeGcm ∨ mode = modeGmac then 2 ^ 32 else 2 ^ 48

/-- The lowest free host context (R292). -/
def State.freeCtx (s : State) : Option Nat :=
  ((List.range 192).map (0x40 + ·)).find? fun n => (s.ctx? n).isNone

/-- The payload of crypt.ctx.open keeps R242 and R290. -/
def wfCtxOpen (p : List Byte) : Bool :=
  let mode := uAt p 0 1
  decide (1 ≤ mode) && decide (mode ≤ 6) && (uAt p 1 1 == 16 || uAt p 1 1 == 24 || uAt p 1 1 == 32) &&
    tagFits mode (uAt p 2 1) && nonceFits mode (uAt p 3 1) && decide (uAt p 4 1 ≤ 15) && zeroAt p 20 4 &&
    decide (uAt p 32 8 ≤ 2 ^ 48)

/-- The refusals of crypt.ctx.open (R292). -/
def preCtxOpen (s : State) (b : Mailbox) : Option Nat :=
  let p := b.payload
  let x := s.slot (uAt p 4 1)
  if decide (1 ≤ x.cls ∧ x.cls ≤ 3) || decide (uAt p 6 2 < 0x1000) then some Status.denied
  else if !x.loaded then some Status.keyRevoked
  else refuseIf s.freeCtx.isNone Status.busy

/-- The context that crypt.ctx.open creates (R292, R293). -/
def State.openedCtx (s : State) (n : Nat) (p : List Byte) : Context :=
  let mode := uAt p 0 1
  let x := s.slot (uAt p 4 1)
  { num := n, cls := x.cls, mode := mode, keyLen := uAt p 1 1, slot := uAt p 4 1, role := uAt p 5 1, purpose := uAt p 6 2
    identity := uAt p 8 8, keyEpoch := uAt p 16 4, version := x.version, tagLen := uAt p 2 1, nonceLen := uAt p 3 1
    fixed := fit 8 (slice p 24 (uAt p 3 1 - 8))
    invLimit := if uAt p 32 8 = 0 then defaultInvLimit mode else uAt p 32 8 }

/-- CRYPT_CTX_OPEN: crypt.ctx.open (R292). -/
def execCryptCtxOpen (mb : Nat) (s : State) : Host.Outcome State Fault Refusal :=
  .next (s.perform mb 0x0904 (checked wfCtxOpen preCtxOpen) fun b t =>
    let n := t.freeCtx.getD 0
    let c := t.openedCtx n b.payload
    (t.modCrypt fun x => { x with contexts := x.contexts ++ [c] }).post mb Status.ok
      (leBytes 2 n ++ zeros 2 ++ leBytes 4 c.version))

/-- A context has a descriptor queued or running, or a suspended message (R292, R294). A message between its segments is in
the channel but runs nothing. -/
def State.ctxBusy (s : State) (n : Nat) : Bool :=
  s.crypt.chans.any fun x =>
    (x.queue.any fun q => q.desc.context == n) ||
      (match x.cur with | some m => m.desc.context == n && !m.segDone | none => false) ||
      match x.susp with | some m => m.desc.context == n | none => false

/-- An open host context of a number (R292). -/
def State.hostCtx? (s : State) (n : Nat) : Option Context :=
  if 0x40 ≤ n ∧ n ≤ 0xFF then s.ctx? n else none

/-- The payload of crypt.ctx.close is in range (R444). -/
def wfCtxClose (p : List Byte) : Bool := zeroAt p 2 2

/-- The refusals of crypt.ctx.close (R292). -/
def preCtxClose (s : State) (b : Mailbox) : Option Nat :=
  let n := uAt b.payload 0 2
  if (s.hostCtx? n).isNone then some Status.invalid else refuseIf (s.ctxBusy n) Status.busy

/-- CRYPT_CTX_CLOSE: crypt.ctx.close (R292): the record is scrubbed; a message left between its segments is dropped with it. -/
def execCryptCtxClose (mb : Nat) (s : State) : Host.Outcome State Fault Refusal :=
  .next (s.perform mb 0x0905 (checked wfCtxClose preCtxClose) fun b t =>
    let n := uAt b.payload 0 2
    let t1 := (List.range 32).foldl (fun u c =>
      match (u.chan c).cur with
      | some m => if m.desc.context = n then (u.leave c).dropShadow m.slot else u
      | none => u) t
    (t1.modCrypt fun x => { x with contexts := x.contexts.filter fun c => c.num != n }).post mb Status.ok [])

/-- A nonce-bearing message of the context is in progress, or one of KW, whose state no record holds (R294, log 18). -/
def Context.unsavable (c : Context) : Bool :=
  c.inProgress && ((!c.decrypting && decide (c.mode ≤ 4)) || c.mode == modeKw)

/-- The 128-byte record of a context (R293). -/
def Context.record (c : Context) : List Byte :=
  let held := if c.mode = modeCmac then c.ch.b.length else 0
  [0x01] ++ leBytes 1 c.cls ++ leBytes 1 c.mode ++ leBytes 1 c.keyLen ++ leBytes 1 c.slot ++ leBytes 1 c.role ++
    leBytes 2 c.purpose ++ leBytes 8 c.identity ++ leBytes 4 c.keyEpoch ++ leBytes 4 c.version ++ leBytes 1 c.tagLen ++
    leBytes 1 c.nonceLen ++ leBytes 1 (bit c.inProgress + 2 * bit c.decrypting + 4 * bit c.exhausted) ++
    leBytes 1 (bit c.inProgress) ++ fit 8 c.fixed ++ zeros 4 ++ leBytes 8 c.invocation ++ leBytes 8 c.invLimit ++
    fit 16 c.msgNonce ++ fit 16 c.ch.x ++ fit 16 c.ch.b ++ leBytes 8 c.ch.done ++ leBytes 4 c.ch.aadLen ++
    leBytes 4 c.msgLen ++ leBytes 1 held ++ zeros 7

/-- The payload of crypt.ctx.save is in range (R444). -/
def wfCtxSave (p : List Byte) : Bool := (uAt p 2 1 == 1 || uAt p 2 1 == 2) && zeroAt p 3 1

/-- The refusals of crypt.ctx.save (R294). -/
def preCtxSave (s : State) (b : Mailbox) : Option Nat :=
  let n := uAt b.payload 0 2
  match s.hostCtx? n with
  | none => some Status.invalid
  | some c =>
    if s.ctxBusy n then some Status.busy
    else if c.unsavable then some Status.invalid
    else refuseIf (uAt b.payload 2 1 == 1 && c.cls != 5) Status.denied

/-- A saved context: header and body (R295). -/
def State.savedCtx (s : State) (c : Context) (form : Nat) : List Byte :=
  leBytes 1 form ++ leBytes 1 c.cls ++ leBytes 2 c.num ++ leBytes 4 (if form = 1 then 0 else s.crypt.wrapId) ++
    leBytes 1 c.slot ++ zeros 3 ++ leBytes 4 c.version ++
    (if form = 1 then c.record else Aes.kwWrap s.crypt.wrapKey c.record)

/-- CRYPT_CTX_SAVE: crypt.ctx.save (R294, R295): the context stays live. -/
def execCryptCtxSave (mb : Nat) (s : State) : Host.Outcome State Fault Refusal :=
  .next (s.perform mb 0x0906 (checked wfCtxSave preCtxSave) fun b t =>
    let bs := t.savedCtx ((t.hostCtx? (uAt b.payload 0 2)).getD {}) (uAt b.payload 2 1)
    (t.toWindow b (uAt b.payload 4 4) bs).post mb Status.ok (leBytes 4 bs.length))

/-- The payload of crypt.ctx.restore is in range (R444). -/
def wfCtxRestore (p : List Byte) : Bool := uAt p 4 4 == 144 || uAt p 4 4 == 152

/-- The context of a number that a 128-byte record spells (R293). -/
def ctxOfRecord (n : Nat) (r : List Byte) : Context :=
  let st := uAt r 26 1
  let mode := uAt r 2 1
  { num := n, cls := uAt r 1 1, mode := mode, keyLen := uAt r 3 1, slot := uAt r 4 1 % 16, role := uAt r 5 1
    purpose := uAt r 6 2, identity := uAt r 8 8, keyEpoch := uAt r 16 4, version := uAt r 20 4, tagLen := uAt r 24 1
    nonceLen := uAt r 25 1, fixed := slice r 28 8, invocation := uAt r 40 8, invLimit := uAt r 48 8
    exhausted := st.testBit 2, inProgress := st.testBit 0, decrypting := st.testBit 1
    msgNonce := slice r 56 (uAt r 25 1)
    ch := { x := slice r 72 16, b := if mode = modeCmac then slice r 88 (uAt r 120 1) else slice r 88 16
            done := uAt r 104 8, aadLen := uAt r 112 4 }
    msgLen := uAt r 116 4 }

/-- The format byte and the reserved fields of a record (R293). -/
def recordValid (r : List Byte) : Bool :=
  r.length == 128 && uAt r 0 1 == 1 && decide (uAt r 4 1 < 16) && decide (uAt r 26 1 < 8) && decide (uAt r 27 1 ≤ 1) &&
    zeroAt r 36 4 && decide (uAt r 120 1 ≤ 16) && zeroAt r 121 7

/-- Check 1 of R296: form, size, format and reserved fields; the record of a wrapped form is looked at by check 3. -/
def savedValid (bs : List Byte) : Bool :=
  zeroAt bs 9 3 && decide (uAt bs 8 1 < 16) &&
    ((uAt bs 0 1 == 1 && bs.length == 144 && uAt bs 4 4 == 0 && recordValid (bs.drop 16)) ||
      (uAt bs 0 1 == 2 && bs.length == 152))

/-- The record of a saved context, or the status of the first check of R296 that fails. -/
def State.restored (s : State) (bs : List Byte) : Except Nat Context :=
  let form := uAt bs 0 1
  let rec? := if form = 1 then some (bs.drop 16) else Aes.kwUnwrap s.crypt.wrapKey (bs.drop 16)
  let r := rec?.getD []
  let c := ctxOfRecord (s.freeCtx.getD 0) r
  let agrees := c.cls == uAt bs 1 1 && c.slot == uAt bs 8 1 && c.version == uAt bs 12 4
  if !savedValid bs then .error Status.invalid
  else if form = 1 ∧ !(uAt bs 1 1 == 5 && c.cls == 5 && decide (0x1000 ≤ c.purpose)) then .error Status.denied
  else if form = 2 ∧ !(uAt bs 4 4 == s.crypt.wrapId && rec?.isSome && agrees) then .error Status.tagFail
  else if form = 2 ∧ !recordValid r then .error Status.invalid
  else if !(s.slot c.slot).loaded then .error Status.keyRevoked
  else if (s.slot c.slot).version ≠ c.version then .error Status.staleKey
  else if s.freeCtx.isNone then .error Status.busy
  else .ok c

/-- The saved context that crypt.ctx.restore names; none where its window holds a poisoned word (R508). -/
def State.restoreBytes (s : State) (b : Mailbox) : Option (List Byte) :=
  s.winRead b.window (uAt b.payload 0 4) (uAt b.payload 4 4)

/-- CRYPT_CTX_RESTORE: crypt.ctx.restore (R296). -/
def execCryptCtxRestore (mb : Nat) (s : State) : Host.Outcome State Fault Refusal :=
  .next (s.perform mb 0x0907 (checked wfCtxRestore noPre) fun b t =>
    match t.restoreBytes b with
    | none => t.post mb Status.windowFault []
    | some bs =>
      match t.restored bs with
      | .error st => t.post mb st []
      | .ok c => (t.modCrypt fun x => { x with contexts := x.contexts ++ [c] }).post mb Status.ok (leBytes 2 c.num ++ zeros 2))

end Sys2Proof.Machine
end

