-- ==== Sys2Proof/Machine/PartCommands.lean ====
section
/-!
DEFINITION. The commands on the partner table other than part.enrol (02_partners, 17_command_reference).
-/
namespace Sys2Proof.Machine

/-- The record of the identity a part command names. -/
def State.named (s : State) (b : Mailbox) : Option PartRec := s.rec? (uAt b.payload 0 8)

/-- The 64-byte result of a part command: the record, or zeros once it is free (R44, R48). -/
def State.recBody (s : State) (ident : Nat) : List Byte := ((s.rec? ident).map PartRec.bytes).getD (zeros 64)

/-- A payload that is one identity R43 admits. -/
def wfIdentity (p : List Byte) : Bool := validIdentity (uAt p 0 8)

/-- Sessions with an identity end uncounted (R68, R190): its lanes at their next step as ABORTED, and a CHALLENGE to it as a
segment node at once. -/
def State.abortLanes (ident : Nat) (s : State) : State :=
  let cut := fun (l : Lane) => if l.ans.identity = ident ∧ l.outcome = none then { l with aborted := true } else l
  let drop := fun (n : NodeSess) => if n.identity = ident then { n with challenge := none, expected := false } else n
  (s.modSess fun x => { x with cur := x.cur.map fun r => { r with lanes := r.lanes.map cut } }).modNet fun n =>
    { n with nodes := n.nodes.map drop }

/-- A module record changed by a command meets a running check (R129). -/
def State.noteModule (r : PartRec) (s : State) : State := if r.kind = 2 then s.moduleChanged r.identity else s

/-- part.enrol_open needs the policy and a service key's presence (R54). -/
def prePartEnrolOpen (s : State) (_ : Mailbox) : Option Nat :=
  refuseIf (!(s.cfgB recPartners 2 && s.servicePresent)) Status.denied

/-- PART_ENROL_OPEN (R54). -/
def execPartEnrolOpen (mb : Nat) (s : State) : Host.Outcome State Fault Refusal :=
  .next (s.perform mb 0x0302 (checked (fun _ => true) prePartEnrolOpen) (fun _ t =>
    t.openWindow.post mb Status.ok (leBytes 8 (t.now + 120000000000))))

/-- part.get needs a record. -/
def prePartGet (s : State) (b : Mailbox) : Option Nat := refuseIf (s.named b).isNone Status.invalid

/-- PART_GET (R63): the record after evaluation; INVALID when the evaluation frees it. -/
def execPartGet (mb : Nat) (s : State) : Host.Outcome State Fault Refusal :=
  .next (s.perform mb 0x0303 (checked wfIdentity prePartGet) (fun b t =>
    let i := uAt b.payload 0 8
    let t1 := t.evalIdentity i
    if (t1.rec? i).isSome then t1.post mb Status.ok (t1.recBody i) else t1.post mb Status.invalid []))

/-- The payload of part.list is in range. -/
def wfPartList (p : List Byte) : Bool := decide (uAt p 0 2 < 1024) && decide (1 ≤ uAt p 6 2) && decide (uAt p 6 2 ≤ 1024)

/-- The records that part.list selects from its start index. -/
def State.listed (s : State) (p : List Byte) : List (Nat × PartRec) :=
  s.parts.table.filter fun q =>
    decide (uAt p 0 2 ≤ q.1) && (uAt p 2 1 == 0 || q.2.kind == uAt p 2 1) &&
      (uAt p 3 1 == 0xFF || partCode q.2.state == uAt p 3 1) && (uAt p 4 2 == 0 || q.2.flags &&& uAt p 4 2 != 0)

/-- The coil code at which a misplaced module last answered (R571): from the latest record, else its home. -/
def State.answeredAt (s : State) (r : PartRec) : Nat :=
  match (s.pop.latest.bind fun k => k.notes.find? fun n => n.2 == r.identity && k.entries.getD n.1 0 == 3) with
  | some n => 0x10 + n.1
  | none => r.attach

/-- A misplaced module reported through part.list is appended (R51, R571). -/
def State.noteMisplaced (r : PartRec) (s : State) : State :=
  if r.misplaced then
    s.partnerEntry 0x11 r.identity (partCode r.state) r.role r.flags (s.answeredAt r) r.failCount
  else s

/-- PART_LIST (R51). -/
def execPartList (mb : Nat) (s : State) : Host.Outcome State Fault Refusal :=
  .next (s.perform mb 0x0304 (checked wfPartList noPre) (fun b t =>
    let all := t.listed b.payload
    let n := uAt b.payload 6 2
    let out := (all.take n).map (·.2)
    let next := match all.drop n with
      | q :: _ => q.1
      | [] => 0xFFFF
    let t1 := t.toWindow b (uAt b.payload 8 4) (out.flatMap PartRec.bytes)
    (out.foldl (fun u r => u.noteMisplaced r) t1).post mb Status.ok
      (leBytes 2 out.length ++ leBytes 2 next ++ leBytes 2 t.candidates.length ++ leBytes 2 0)))

/-- The payload of part.set is in range. -/
def wfPartSet (p : List Byte) : Bool :=
  validIdentity (uAt p 0 8) && decide (uAt p 8 1 < 16) && decide (uAt p 9 1 ≤ 1) && zeroAt p 13 3

/-- Another enrolled module's home is the coil (R52, part.set). -/
def State.coilTaken (s : State) (ident attach : Nat) : Bool :=
  s.parts.table.any fun p =>
    p.2.kind == 2 && p.2.state == .enrolled && p.2.attach == attach && p.2.identity != ident

/-- The refusals of part.set. -/
def prePartSet (s : State) (b : Mailbox) : Option Nat :=
  match s.named b with
  | some r =>
    let setsAttach := (uAt b.payload 8 1).testBit 2
    let a := uAt b.payload 12 1
    if r.state = .candidate ∨ (setsAttach && !homeOk r.kind a) = true then some Status.invalid
    else refuseIf (setsAttach && r.kind == 2 && s.coilTaken r.identity a) Status.denied
  | none => some Status.invalid

/-- A record as part.set leaves it (R56). -/
def PartRec.hostSet (r : PartRec) (p : List Byte) : PartRec :=
  let w := uAt p 8 1
  { r with
    zones := if w.testBit 0 then BitVec.ofNat 16 (uAt p 10 2) else r.zones
    releaseOk := if w.testBit 1 then uAt p 9 1 == 1 else r.releaseOk
    attach := if w.testBit 2 then uAt p 12 1 else r.attach
    state := if w.testBit 3 && r.state == .absent then .enrolled else r.state }

/-- PART_SET (R48, R56). -/
def execPartSet (mb : Nat) (s : State) : Host.Outcome State Fault Refusal :=
  .next (s.perform mb 0x0305 (checked wfPartSet prePartSet) (fun b t =>
    match t.recAt (uAt b.payload 0 8) with
    | some (i, r) =>
      let n := r.hostSet b.payload
      let t1 := if n.state = r.state then t.writeRec i n else t.changeRec i r n
      (t1.noteModule r).post mb Status.ok (t1.recBody r.identity)
    | none => t.post mb Status.invalid []))

/-- part.absent needs an enrolled record. -/
def prePartAbsent (s : State) (b : Mailbox) : Option Nat :=
  refuseIf (((s.named b).map (·.state)) != some .enrolled) Status.invalid

/-- PART_ABSENT (R48, R68). -/
def execPartAbsent (mb : Nat) (s : State) : Host.Outcome State Fault Refusal :=
  .next (s.perform mb 0x0306 (checked wfIdentity prePartAbsent) (fun b t =>
    match t.recAt (uAt b.payload 0 8) with
    | some (i, r) =>
      let t1 := t.changeRec i r { r with state := .absent }
      ((t1.abortLanes r.identity).noteModule r).post mb Status.ok (t1.recBody r.identity)
    | none => t.post mb Status.invalid []))

/-- part.remove and part.rekey need an enrolled or absent record. -/
def prePartKept (s : State) (b : Mailbox) : Option Nat :=
  let st := (s.named b).map (·.state)
  refuseIf (st != some .enrolled && st != some .absent) Status.invalid

/-- PART_REMOVE (R48, R56, R68). -/
def execPartRemove (mb : Nat) (s : State) : Host.Outcome State Fault Refusal :=
  .next (s.perform mb 0x0307 (checked wfIdentity prePartKept) (fun b t =>
    match t.recAt (uAt b.payload 0 8) with
    | some (_, r) =>
      let t1 := t.removeRec r.identity
      ((t1.abortLanes r.identity).noteModule r).post mb Status.ok (t1.recBody r.identity)
    | none => t.post mb Status.invalid []))

/-- PART_REKEY (R56). -/
def execPartRekey (mb : Nat) (s : State) : Host.Outcome State Fault Refusal :=
  .next (s.perform mb 0x0308 (checked wfIdentity prePartKept) (fun b t =>
    let i := uAt b.payload 0 8
    let t1 := t.updateRec i fun r => { r with keyEpoch := (r.keyEpoch + 1) % 2 ^ 32 }
    t1.post mb Status.ok (leBytes 4 (((t1.rec? i).map (·.keyEpoch)).getD 0))))

/-- The payload of part.unlock is in range. -/
def wfPartUnlock (p : List Byte) : Bool :=
  zeroAt p 2 2 && ((uAt p 0 1 == 0 && validIdentity (uAt p 4 8)) ||
    (uAt p 0 1 == 1 && decide (uAt p 1 1 < 0x60) && uAt p 4 8 == 0))

/-- part.unlock needs a service key's presence (R67). -/
def prePartUnlock (s : State) (_ : Mailbox) : Option Nat := refuseIf (!s.servicePresent) Status.denied

/-- An identity's count is cleared; the count before is answered (R48, R67, R571). DESIGN CHOICE (log 63): the decay of R63 is
applied first, so that the count before is the count after it, and a candidate made by removal is freed at once; R63 does not
name part.unlock among its evaluations. -/
def State.unlockIdentity (ident : Nat) (s : State) : State × Nat :=
  let s1 := s.evalIdentity ident
  match s1.recAt ident with
  | some (i, r) =>
    let s2 := (s1.writeRec i { r with failCount := 0 }).partnerEntry 0x12 ident (partCode r.state) r.role r.flags 0xFF r.failCount
    (s2.evalIdentity ident, r.failCount)
  | none => (s1.partnerEntry 0x12 ident 0xFF 0 0 0xFF 0, 0)

/-- An attachment point's count is cleared; the count before is answered (R67, R571), after the decay of R63 (log 63). -/
def State.unlockAttach (a : Nat) (s : State) : State × Nat :=
  let s1 := s.evalAttach a
  let n := (s1.attachCtr a).count
  ((s1.modAttach a fun c => { c with count := 0 }).partnerEntry 0x13 0 0xFF 0 0 a n, n)

/-- PART_UNLOCK (R67). -/
def execPartUnlock (mb : Nat) (s : State) : Host.Outcome State Fault Refusal :=
  .next (s.perform mb 0x0309 (checked wfPartUnlock prePartUnlock) (fun b t =>
    let p := b.payload
    let r := if uAt p 0 1 = 0 then t.unlockIdentity (uAt p 4 8) else t.unlockAttach (uAt p 1 1)
    r.1.post mb Status.ok (leBytes 1 r.2 ++ zeros 3)))

end Sys2Proof.Machine
end

