-- ==== Sys2Proof/Machine/Tamper.lean ====
section
/-!
DEFINITION. Tamper inputs and the mesh (R516 to R523 of 20_resilience_and_tamper).
-/
namespace Sys2Proof.Machine

/-- The pads are served: in Run, every sleep state and the test hold, not in Nunatak hold; a boot samples them at its own
step (R517, R522, R545, R562). -/
def State.tamperServed (s : State) : Bool :=
  s.psc.state != .nunatakHold && (s.boot.phase == .running || s.boot.phase == .testHold || s.boot.phase == .bankless)

/-- The engine's self-test starts with the root slots sealed (R258, R518). -/
def State.startSelfTest (alarm : Bool) (s : State) : State :=
  s.modCrypt fun x => { x with sealed := true, selfTest := true, selfTestAlarm := x.selfTestAlarm || alarm }

/-- Every message in flight completes with KEY_REVOKED, a suspended one first (R518). -/
def State.revokeMessages (s : State) : State :=
  (List.range 32).foldl (fun (t : State) c => (t.killSusp c Status.keyRevoked).killCur c Status.keyRevoked) s

/-- A session under way ends at once where its lane was cut (R518): the exchange on the air is abandoned. -/
def State.endCut (s : State) : State :=
  match s.sess.cur with
  | some r => (r.lanes.filter fun l => l.opened && l.aborted && l.outcome.isNone).foldl (fun (t : State) l =>
      (t.endLane l 7).seqIdle t.now) s
  | none => s

/-- Key sessions in flight end as ABORTED, those whose lane has not opened when it would, and transponder exchanges without a
key (R518). -/
def State.cutExchanges (s : State) : State :=
  let s1 := s.modSess fun x =>
    { x with cur := x.cur.map fun r =>
        { r with lanes := r.lanes.map fun l => if l.outcome.isNone then { l with aborted := true } else l } }
  let s2 := s1.modCheck fun k => { k with coils := k.coils.map fun c => { c with expected := none } }
  (s2.modParts fun x => { x with enrol := x.enrol.map fun e => { e with expected := none } }).endCut

/-- The erase of R518: avalanche erase, messages and exchanges end, the slots are sealed and the self-test (re)starts. -/
def State.tamperErase (s : State) : State := (s.avalanche.revokeMessages.cutExchanges).startSelfTest false

/-- The event, health entry and wake of a change of input `unit`, 4 for the mesh (R517). -/
def State.tamperNote (unit : Nat) (s : State) : State :=
  ((s.raise 14 (if unit = 4 then 2 else 1)).healthFree 0x00A0 unit 7).wakeSource 0x05

/-- No enabled input is asserted and the mesh is quiet (R521). -/
def State.allQuiet (s : State) : Bool :=
  (s.tamper.meshFails == 0) && (List.range 4).all fun n => !(s.tamperEn n && (s.tamper.asserted.getD n none).isSome)

/-- The run of quiet begins, or breaks (R521). -/
def State.markQuiet (s : State) : State :=
  let q := s.allQuiet
  s.modTamper fun t => { t with quietSince := if q then (if t.quietSince.isSome then t.quietSince else some s.now) else none }

/-- The meaning of TAMPER_ASSERTION (R517, R518): an enabled input has stood at its tamper level for 10 µs. -/
def State.assertInput (n : Nat) (s : State) : State :=
  if 4 ≤ n ∨ s.tamperEn n = false ∨ (s.tamper.asserted.getD n none).isSome = true then s
  else
    let s1 := s.modTamper fun t => { t with asserted := t.asserted.set n (some s.now), confirmed := t.confirmed.set n false }
    (s1.markQuiet.tamperErase).tamperNote n

/-- TAMPER_ASSERTION. -/
def execTamperAssertion (input : Nat) (s : State) : Host.Outcome State Fault Refusal :=
  .next (if s.tamperServed then s.assertInput input else s)

/-- Root zeroisation on confirmed tamper, where the policy asks for it and it has not completed (R519, R523). -/
def State.tamperZeroise (s : State) : State :=
  if s.cfgB recTamper 17 && !s.tamper.zeroised then s.zeroise.modTamper fun t => { t with zeroised := true } else s

/-- Confirmation (R519): the latch, the cause and the decision's own transition, the TAMPER entry, and zeroisation. The input
code that an entry for the mesh carries is not stated. -/
def State.confirmTamper (input : Option Nat) (s : State) : State :=
  let s1 := (s.modTamper fun t => { t with latch := true, zeroised := false }).evalDecision
  let aux := input.getD (s1.freeVal % 0x10000)
  let s2 := (s1.ledgerAdd 0x30 aux [1, BitVec.ofNat 8 (bit (s.cfgB recTamper 17))]).drawn
  s2.tamperZeroise

/-- The meaning of TAMPER_CONFIRMED (R519, R523): the input has stayed asserted for confirm_ms. While a boot is still to come,
only the latch is committed, and boot completes the rest. -/
def doTamperConfirmed (n : Nat) (s : State) : State :=
  match s.tamper.asserted.getD n none with
  | some t =>
    if s.psc.state = .nunatakHold ∨ s.tamper.confirmed.getD n true = true ∨ s.now < t + 1000000 * s.cfgN recTamper 13 then s
    else
      let s1 := s.modTamper fun x => { x with confirmed := x.confirmed.set n true }
      if s.tamperServed then s1.confirmTamper (some n)
      else (s1.modTamper fun x => { x with latch := true, zeroised := false }).modBoot fun b =>
        { b with due := b.due ++ [(0x30, n, 0)] }
  | none => s

/-- TAMPER_CONFIRMED. -/
def execTamperConfirmed (input : Nat) (s : State) : Host.Outcome State Fault Refusal := .next (doTamperConfirmed input s)

/-- A mesh check that fails (R517 to R519): the first of a run erases, and mesh_confirm of them confirm. -/
def State.meshFail (s : State) : State :=
  let n := s.tamper.meshFails + 1
  let s1 := (s.modTamper fun t => { t with meshFails := min n 17, meshOk := false }).markQuiet
  let s2 := (if n = 1 then s1.tamperErase else s1).tamperNote 4
  if n = s.cfgN recTamper 16 then s2.confirmTamper none else s2

/-- A mesh that passes again returns to the quiet state (R517). -/
def State.meshPass (s : State) : State :=
  let s1 := (s.modTamper fun t => { t with meshFails := 0, meshOk := true }).markQuiet
  if s.tamper.meshFails = 0 then s1 else s1.tamperNote 4

/-- A mesh check with its random word (R517). -/
def State.checkMesh (passes : Bool) (s : State) : State :=
  if !s.cfgB recTamper 14 then s
  else
    let s1 := (s.modTamper fun t => { t with meshWord := BitVec.ofNat 16 s.freeVal }).drawn
    if passes then s1.meshPass else s1.meshFail

/-- MESH_CHECK. -/
def execMeshCheck (passes : Bool) (s : State) : Host.Outcome State Fault Refusal :=
  .next (if s.tamperServed then (s.checkMesh passes).evalDecision else s)

/-- An asserted input returns to the quiet state (R517, R522). -/
def State.quietInput (n : Nat) (s : State) : State :=
  if (s.tamper.asserted.getD n none).isNone then s
  else ((s.modTamper fun t => { t with asserted := t.asserted.set n none }).markQuiet).tamperNote n

/-- The meaning of TAMPER_QUIET (R517): an asserted input, or unit 4 for the mesh, returns to the quiet state. -/
def doTamperQuiet (unit : Nat) (s : State) : State :=
  if !s.tamperServed then s
  else if unit = 4 then (if s.tamper.meshFails = 0 then s else s.meshPass)
  else s.quietInput unit

/-- TAMPER_QUIET: tamper clear may complete a transition (R223, R228). -/
def execTamperQuiet (unit : Nat) (s : State) : Host.Outcome State Fault Refusal := .next (doTamperQuiet unit s).evalDecision

/-- The meaning of TAMPER_LATCH_CLEAR (R521): quiet for 10 s, with a service key's presence no more than 60 s old. -/
def doTamperLatchClear (s : State) : State :=
  let quiet : Bool := match s.tamper.quietSince with
    | some t => decide (t + 10000000000 ≤ s.now)
    | none => false
  if s.tamper.latch && s.allQuiet && s.tamper.meshOk && quiet && s.servicePresent && s.rolesRun then
    ((s.modTamper fun t => { t with latch := false, zeroised := false }).ledgerAdd 0x30 0xFF [0, 0]).evalDecision
  else s

/-- TAMPER_LATCH_CLEAR. -/
def execTamperLatchClear (s : State) : Host.Outcome State Fault Refusal := .next (doTamperLatchClear s)

end Sys2Proof.Machine
end

