-- ==== Sys2Proof/Machine/Reset.lean ====
section
/-!
DEFINITION. Resets, line loss and its return, and boot (R11 to R13 of 00_scope, R540 to R542 of 21_configuration_and_boot,
R500 and R512).
-/
namespace Sys2Proof.Machine

/-! ### What a system reset leaves (R11) -/

/-- A physical address keeps its byte through a system reset (R397): MRAM, and the aperture's backing but for held pages. -/
def State.keepsByte (s : State) (a : Nat) : Bool := decide (apertureBase ≤ a) && !s.physHeld a

/-- The registers of TBU take their system-reset values; the count, its uncertainty and civil time go on (R11, R345). -/
def Tbu.afterReset (t : Tbu) : Tbu :=
  { t with
    evt := 0, evtEn := 0, uncLimit := 0x2710, ppsCtrl := 0x640, ppsHigh := false, laneOut := none
    foreignAnnounce := 0, foreignSync := 0, foreignFollow := 0, extOffset := 0
    syncSent := List.replicate 6 0, announceSent := List.replicate 6 0, pdelaySent := List.replicate 6 0
    shadows := List.replicate 6 {} }

/-- PSC after a system reset (R502): the wake record and the live measurement are kept. -/
def Psc.afterReset (p : Psc) : Psc :=
  { wakeSrc := p.wakeSrc, wakeFrom := p.wakeFrom, wakeCount := p.wakeCount, wakeReason := p.wakeReason, vres := p.vres
    vresMin := p.vresMin, vresEvent := p.vresEvent, entryNs := p.entryNs, wakeNs := p.wakeNs }

/-- The decision's record, the latch and the inputs' levels are kept; what the roles had gathered is not (R221, R222, R224). -/
def Rel.afterReset (r : Rel) : Rel :=
  { r with
    still := none, quiet := none, disagree := none, sstlCond := false, fbHigh := false, fbLow := false, fbWave := false
    fbAgree := false, clearing := false, presence := [], fbPend := [] }

/-- The pairs are all in service until boot's self-tests; retirement and divergence stamps stay (R506, R507). -/
def Cores.afterReset (c : Cores) : Cores :=
  { pairs := c.pairs.map fun p => { p with inService := true, testing := false } }

/-- The root slots without their volatile parts (R284, R288). -/
def Keys.afterReset (k : Keys) : Keys :=
  { k with slots := k.slots.map fun x => { x with shadow := none, advancing := false }, reprov := none }

/-- The partner area as MRAM holds it (R42, R47, R311). -/
def Parts.afterReset (p : Parts) : Parts := { table := p.table, other := p.other, attach := p.attach, lessorSeq := p.lessorSeq }

/-- The boot record and the identification registers after a system reset (R440, R536). -/
def Boot.afterReset (b : Boot) (cause : Nat) : Boot :=
  { b with phase := .inReset, resetCause := cause, fwVersion := 0, fwRunning := 0, tried := [] }

/-- Every domain but PD0 is reset (R11, R397): registers take their system-reset values, timers stop and clear, and what MRAM
and Nunatak hold stays. The latch-control lines are held from here until boot has put the latch control back in service. -/
def State.clearVolatile (cause : Nat) (s : State) : State :=
  let m := s.stopMeter
  { tbu := s.tbu.afterReset
    tmr := { caps := s.tmr.caps.map fun c => { level := c.level } }
    psc := s.psc.afterReset
    pad := { gpioIn := s.pad.gpioIn, latchHold := true }
    mbx := { devAddr := s.mbx.devAddr }
    boot := s.boot.afterReset cause
    cfg := { s.cfg with runtime := [] }
    fab := { poison := s.fab.poison.filter fun w => s.keepsByte (8 * w) }
    parts := s.parts.afterReset
    lf := { hot := s.lf.hot }
    pop := { used := s.pop.used }
    radio := { temp := s.radio.temp }
    rel := s.rel.afterReset
    crypt := { alarms := s.crypt.alarms, zeroiseNext := s.crypt.zeroiseNext }
    keys := s.keys.afterReset
    met := { m.met with above := none }
    ledger := { s.ledger with queue := [] }
    health := { s.health with since := 0 }
    net := { statHour := s.net.statHour }
    power := s.power
    cores := s.cores.afterReset
    tamper := s.tamper
    jtag := s.jtag
    mem := s.mem.filter fun c => s.keepsByte c.1
    free := s.free
    pending := s.pending }

/-- A system reset with its reset_cause (R11, R66, R305, R314): the counters, the failure summaries and the queue first. -/
def State.systemReset (cause : Nat) (s : State) : State := (s.flushItems true).clearVolatile cause

/-- A recovery reset with its cause code (R12, R512, R515): the cause is recorded in Nunatak; a trial ends (R542). One that
falls before the last one's cause was entered leaves that entry to boot as well. -/
def State.recoveryReset (code : Nat) (s : State) : State :=
  (s.modBoot fun b =>
    { b with
      pendingRecovery := some code
      due := b.due ++ (match b.pendingRecovery with | some c => [(0x60, 0, c)] | none => []) }).systemReset 3

/-- A system reset can be taken: line power is present (R13, R500). -/
def State.lineUp (s : State) : Bool := s.power.line && s.psc.state != .nunatakHold

/-- The meaning of RST_N_ASSERTED (R11, R554): a low of 1 µs or more is a reset, one below 100 ns is none; between them the
outcome is open. -/
def doRstNAsserted (lowNs : Nat) (s : State) : State :=
  if !s.lineUp || decide (lowNs < 100) then s
  else if 1000 ≤ lowNs then s.systemReset 1
  else if s.freeVal % 2 = 1 then s.drawn.systemReset 1
  else s.drawn

/-- RST_N_ASSERTED. -/
def execRstNAsserted (lowNs : Nat) (s : State) : Host.Outcome State Fault Refusal := .next (doRstNAsserted lowNs s)

/-! ### Power-on reset, line loss and return -/

/-- The timebase unit after a power-on reset (R324): TB_NS:F at 0 in the next epoch, not yet started; timeBaseIndicator moves at
each epoch (R337; log 47). -/
def Tbu.powerOn (t : Tbu) : Tbu := { epoch := t.epoch + 1, tbi := (t.tbi + 1) % 0x10000 }

/-- The decision's record after a power-on reset (R216, R221, R222, R228): LOCKED, the latch and the consent clear. The inputs'
levels and the grant stay; a state that was left is noted until boot can append the transition. -/
def Rel.powerOn (r : Rel) : Rel :=
  { r.afterReset with
    st := .locked, latch := false, latchCmd := none, causes := 0, consent := false, oscNs := 0
    porFrom := if r.st = .locked then r.porFrom else some (r.porFrom.getD r.st) }

/-- Metering after a power-on reset (R305, R312): what was committed stands, and the first boundary is 900 s of TB_NS away. -/
def Met.powerOn (m : Met) : Met :=
  { pairA := m.comA, pairB := m.comB, billing := m.comBilling, balance := m.comBalance, grace := m.comGrace
    comA := m.comA, comB := m.comB, comBilling := m.comBilling, comBalance := m.comBalance, comGrace := m.comGrace
    stopped := some 0 }

/-- The entries that await Moraine at a boot: those of the flush reserve, and those a boot had taken from it without
completing (R499, R540). -/
def State.reserve (s : State) : List Entry :=
  if s.boot.phase = .running then s.ledger.flush else (s.ledger.flush ++ s.ledger.queue).take 64

/-- The meaning of POWER_ON_RESET (R11, R324, R397): every register at its power-on value, in the next epoch. -/
def doPowerOnReset (s : State) : State :=
  let c := s.clearVolatile 0
  { c with
    tbu := s.tbu.powerOn
    tmr := {}, psc := {}, pad := { latchHold := true }, mbx := {}
    boot := { c.boot with scratch := 0, releaseNs := 0, readyNs := 0, testNs := 0, pendingRecovery := none, epochDue := true }
    fab := {}, lf := {}, radio := {}
    rel := s.rel.powerOn
    met := s.met.powerOn
    ledger := { c.ledger with flush := s.reserve }
    net := {}, power := {}
    tamper := { latch := s.tamper.latch, zeroised := s.tamper.zeroised }
    jtag := {}
    mem := s.mem.filter fun p => decide (mramBase ≤ p.1) }

/-- POWER_ON_RESET. -/
def execPowerOnReset (s : State) : Host.Outcome State Fault Refusal := .next (doPowerOnReset s)

/-- The timebase goes on in Nunatak hold, on the slow crystal or, while that is not qualified, the RC (R327). -/
def State.holdTime (s : State) : State :=
  (if s.tbu.running then s.changeSource (if s.tbu.slowOk then .slowCrystal else .rc) true else s).refOff

/-- Nunatak hold (R24, R500): nothing but the timebase and the latch goes on, tamper inputs are not served, and consent is
dropped (R222). -/
def State.nunatakHold (s : State) : State :=
  (((((s.clearVolatile s.boot.resetCause).modRel fun r => { r with consent := false }).modTamper fun t =>
    { t with asserted := [none, none, none, none], confirmed := [false, false, false, false], meshFails := 0 }).modJtag fun _ => {}).modPower
    fun p => { p with line := false }).modPsc fun p => { p with state := .nunatakHold, powered := 1 }

/-- The meaning of LINE_LOSS (R474, R499): the flush, already done in Permafrost, and then Nunatak hold. -/
def doLineLoss (s : State) : State :=
  if !s.lineUp || s.power.feeds.any (·.delivering) then s
  else ((if s.psc.state = .permafrost then s else s.flushItems true).holdTime).nunatakHold

/-- LINE_LOSS. -/
def execLineLoss (s : State) : Host.Outcome State Fault Refusal := .next (doLineLoss s)

/-- The meaning of LINE_POWER_RETURN (R13, R500): the device boots as after a system reset, or as after a power-on reset where
VRES was exhausted meanwhile. -/
def doLinePowerReturn (s : State) : State :=
  if s.lineUp then s
  else if s.psc.vresOut then doPowerOnReset s
  else (s.clearVolatile 4).modPower fun p => { p with line := true }

/-- LINE_POWER_RETURN. -/
def execLinePowerReturn (s : State) : Host.Outcome State Fault Refusal := .next (doLinePowerReturn s)

/-! ### Firmware banks (R536 to R542) -/

/-- The physical address of a firmware bank (R395). -/
def fwBase (b : Nat) : Nat := mramBase + b * 0x10_0000

/-- A firmware bank's standing. -/
def State.fwBank (s : State) (b : Nat) : FwBank := s.boot.fwBanks.getD b {}

/-- A firmware bank's standing updated. -/
def State.modFwBank (b : Nat) (f : FwBank → FwBank) (s : State) : State :=
  s.modBoot fun x => { x with fwBanks := x.fwBanks.modify b f }

/-- The image in a bank has the layout of R537 (R530's counterpart for firmware). -/
def State.fwLayoutOk (s : State) (b : Nat) : Bool :=
  let h := s.physRead (fwBase b) 64
  let n := uAt h 12 4
  uAt h 0 4 == 0x53495841 && uAt h 4 1 == 1 && decide (uAt h 5 1 ≤ 1) && zeroAt h 6 2 && zeroAt h 17 47 && n % 64 == 0 &&
    decide (128 ≤ n) && decide (n ≤ 0x10_0000)

/-- The signature of the image in a bank verifies (R537, R538). -/
def State.fwSignatureOk (s : State) (b : Nat) : Bool :=
  let h := s.physRead (fwBase b) 64
  let n := uAt h 12 4
  s.fwLayoutOk b && Config.ecdsaVerify (uAt h 5 1) (Config.sha256 (s.physRead (fwBase b) (n - 64)))
    (s.physRead (fwBase b + n - 64) 64)

/-- A boot can run the bank (R538): its signature verified before and nothing has been written since, or it verifies now. -/
def State.fwVerifies (s : State) (b : Nat) : Bool :=
  let k := s.fwBank b
  !k.refused && (k.st == 2 || k.st == 3 || k.st == 4 || (k.st == 1 && s.fwSignatureOk b))

/-- The trial is rolled back (R542). -/
def State.rollBackTrial (s : State) : State :=
  match s.boot.fwTrial with
  | some t =>
    (s.modFwBank t fun k => { k with st := 1 }).modBoot fun b =>
      { b with
        fwTrial := none, trialCount := 0, fwRollbacks := satAdd 0xFFFF b.fwRollbacks 1, due := b.due ++ [(0x71, t, 3)] }
  | none => s

/-- The other bank becomes active, and the failed one is recorded (R541). -/
def State.activateOther (s : State) : State :=
  let a := s.boot.fwActive
  ((s.modFwBank a fun k => { k with st := if k.refused then k.st else 1 }).modFwBank (1 - a) fun k => { k with st := 3 }).modBoot fun b =>
    { b with fwActive := 1 - a, due := b.due ++ [(0x71, a, 4)] }

/-- The bank that a boot runs, in the order of R541; none when no bank verifies. -/
def State.bootBank (s : State) : Option Nat × State :=
  let s1 :=
    if s.boot.fwTrial.isNone then s
    else if s.boot.pendingRecovery.isSome then s.rollBackTrial
    else
      let c := s.modBoot fun b => { b with trialCount := b.trialCount + 1 }
      if 3 ≤ c.boot.trialCount ∨ c.fwVerifies (c.boot.fwTrial.getD 0) = false then c.rollBackTrial else c
  let a := s1.boot.fwActive
  match s1.boot.fwTrial with
  | some t => (some t, s1)
  | none =>
    if s1.fwVerifies a && !s1.boot.tried.contains a then (some a, s1)
    else if s1.fwVerifies (1 - a) && !s1.boot.tried.contains (1 - a) then (some (1 - a), s1.activateOther)
    else (none, s1)

/-! ### Meton banks at boot (R534) -/

/-- A bank passes the tests of R534: its lines read, its format suits the firmware, and its seal verifies, or while KS0 is
EMPTY its image passes R530. -/
def State.metonPasses (s : State) (b fw : Nat) : Option CfgStore :=
  let fmt := leNat (s.physRead (metonBase b + 4) 1)
  if (s.imageLen b).isNone || (s.metonBank b).bad || decide ((s.fwBank fw).metonMax < fmt) then none
  else if (s.slot 0).loaded then
    if s.sealOf b == (s.metonBank b).bankSeal then
      match readImage (s.imageBytes b) with
      | .ok (vs, ps) => some { image := vs, runtime := [], partners := ps }
      | .error _ => none
    else none
  else
    match s.imageLayers b with
    | .ok c => some c
    | .error _ => none

/-- A bank is rejected (R534). -/
def State.metonReject (b : Nat) (s : State) : State :=
  (s.modMetonBank b fun k => { k with st := 4 }).modBoot fun x => { x with due := x.due ++ [(0x13, b, 0)] }

/-- The Meton bank is chosen and its layers apply; with no bank the factory values alone (R534). -/
def State.bootMeton (fw : Nat) (s : State) : State :=
  match s.boot.metonActive with
  | none => s.modCfg fun _ => {}
  | some a =>
    match s.metonPasses a fw with
    | some c => s.modCfg fun _ => c
    | none =>
      let s1 := s.metonReject a
      match (if (s.slot 0).loaded then s.metonPasses (1 - a) fw else none) with
      | some c =>
        ((s1.modMetonBank (1 - a) fun k => { k with st := 3 }).modBoot fun b => { b with metonActive := some (1 - a) }).modCfg
          fun _ => c
      | none => ((s1.metonReject (1 - a)).modBoot fun b => { b with metonActive := none }).modCfg fun _ => {}

/-- TBU_PPS_CTRL as the image gives it (R345, R529). -/
def State.ppsImage (s : State) : Word :=
  word (s.cfgN recSystem 11 * 16 + 2 * s.cfgN recSystem 10 + s.cfgN recSystem 9)

/-- The values that boot loads from the layers (R70, R303, R345, R422, R465, R502). -/
def State.loadLayers (s : State) : State :=
  let s1 := s.modTbu fun t =>
    { t with
      uncLimit := word (s.cfgN recSystem 8), ppsCtrl := s.ppsImage, ppsFrom := s.now
      incRef := refIncrement (s.cfgI recSystem 5) }
  let s2 := s1.modPsc fun p => { p with vresMin := s.cfgN recSystem 14 }
  let s3 := s2.modMbx fun m => { m with devAddr := s.cfgN recSystem 1 }
  let s4 := s3.modLf fun x => { x with vlf := 100 * s.cfgN recLfArray (fieldNo 0x40 1) }
  let s5 := s4.modNet fun n => { n with cakNum := s.cfgN recNetwork (fieldNo 6 2) }
  let s6 := if s.boot.resetCause = 0 then s5.modMet fun m => { m with scale := s.scaleNow } else s5
  s6.modRel fun r => { r with modeWait := s.cfgB recRelease 1 != r.storage }

/-! ### Rebasing (R64, R260, R506) -/

/-- A stamp of another epoch counts from now. -/
def State.rebaseStamp (s : State) (p : Nat × Nat) : Nat × Nat := if p.2 = s.tbu.epoch then p else (s.now, s.tbu.epoch)

/-- A record's failure stamps, and a candidate's last answer, are rebased (R64). -/
def State.rebaseRec (s : State) (r : PartRec) : PartRec :=
  let r1 :=
    if r.failCount ≠ 0 ∧ r.stampEpoch ≠ s.tbu.epoch then
      { r with lastFailNs := s.now, decayRefNs := s.now, stampEpoch := s.tbu.epoch }
    else r
  if r.state = .candidate ∧ r.seenEpoch ≠ s.tbu.epoch then { r1 with lastSeenNs := s.now, seenEpoch := s.tbu.epoch } else r1

/-- An attachment counter's stamps are rebased (R64). -/
def State.rebaseCtr (s : State) (c : AttachCtr) : AttachCtr :=
  if c.count ≠ 0 ∧ c.stampEpoch ≠ s.tbu.epoch then
    { c with lastFailNs := s.now, decayRefNs := s.now, stampEpoch := s.tbu.epoch }
  else c

/-- Step 6: stamps of an earlier epoch are rebased; a record that changes is written (R42, R44). -/
def State.rebase (s : State) : State :=
  let s1 := s.parts.table.foldl (fun (t : State) p =>
    let r := t.rebaseRec p.2
    if r = p.2 then t else t.writeRec p.1 r) s
  let s2 := s1.modParts fun p => { p with attach := p.attach.map s1.rebaseCtr }
  let s3 := s2.modCrypt fun x => { x with alarms := x.alarms.map s2.rebaseStamp }
  s3.modCores fun c => { c with pairs := c.pairs.map fun x => { x with stamps := x.stamps.map s3.rebaseStamp } }

/-! ### Moraine and first image at boot -/

/-- The EPOCH entry, with the stamps of the entry whose seq is one below its own (R315): the last one appended, or the last one
that waits before it. -/
def State.epochEntry (s : State) : State :=
  let prev := match s.ledger.queue.getLast? with
    | some e => (e.ns, e.unc)
    | none => s.ledger.lastEntry
  s.ledgerAdd 0x40 0 (leBytes 4 (s.tbu.epoch - 1) ++ leBytes 8 prev.1 ++ leBytes 4 prev.2)

/-- The entries of the flush reserve come first, and the EPOCH entry is the first of its epoch (R315, R540). -/
def State.bootMoraine (s : State) : State :=
  let late := s.ledger.queue
  let s1 := (s.modLedger fun l => { l with queue := l.flush, flush := [] }).drainWaiting
  let s2 := if s1.boot.epochDue then (s1.epochEntry).modBoot fun b => { b with epochDue := false } else s1
  (late.foldl (fun (t : State) e => t.enqueue e) s2).drainLedger


/-- An entry that an earlier step of boot left for Moraine and the health log (R514, R534, R541, R542, R567). -/
def State.bootDue (s : State) (d : Nat × Nat × Nat) : State :=
  if d.1 = 0x71 then s.ledgerAdd 0x71 d.2.1 (leBytes 4 (s.fwBank d.2.1).version ++ leBytes 1 d.2.2)
  else if d.1 = 0x13 then s.healthFree 0x0013 0 0
  else if d.1 = 0x60 then s.health1 0x0060 0 4 d.2.2
  else if d.1 = 0x30 then s.ledgerAdd 0x30 d.2.1 [1, BitVec.ofNat 8 (bit (s.cfgB recTamper 17))]
  else s.health1 d.1 d.2.1 7 d.2.2

/-- Every entry left, in order. -/
def State.bootNotes (s : State) : State :=
  s.boot.due.foldl State.bootDue (s.modBoot fun b => { b with due := [] })

/-- A partner record of the image as installed (R55). -/
def imageRecord (b : List Byte) : PartRec :=
  { identity := uAt b 0 8, kind := uAt b 8 1, role := uAt b 9 1, state := .enrolled, slot := uAt b 11 1
    keyEpoch := uAt b 12 4, zones := BitVec.ofNat 16 (uAt b 16 2), releaseOk := (uAt b 18 2).testBit 0
    metonOrigin := true, attach := uAt b 20 1 }

/-- One partner record of the first image is installed unless its identity is known (R55). -/
def State.installImage (s : State) (p : Nat × List Byte) : State :=
  let r := imageRecord p.2
  if (s.recAt r.identity).isSome then s
  else
    match s.freeIndex with
    | some i => s.changeRec i {} r
    | none => s

/-- The partner records of the first image that carries any (R55). -/
def State.installFirst (s : State) : State :=
  if s.boot.firstImageDone || s.cfg.partners.isEmpty then s
  else s.cfg.partners.foldl State.installImage (s.modBoot fun b => { b with firstImageDone := true })

/-! ### Roles (R29, R507) -/

/-- A pair is in service. -/
def State.pairUp (s : State) (p : Nat) : Bool := (s.cores.pairs.getD p {}).inService

/-- A role's home pair and its fallbacks (R29). -/
def pairOrder : Role → List Nat
  | .radio => [0, 1, 3]
  | .field => [1, 0, 3]
  | .decision => [2, 3, 1]
  | .host => [3, 2, 0]

/-- The first pair of a role's order in service. -/
def State.placeFor (s : State) (r : Role) : Nat := ((pairOrder r).find? s.pairUp).getD ((pairOrder r).headD 0)

/-- Roles are placed (R29). -/
def State.placeRoles (s : State) : State :=
  s.modCores fun c =>
    { c with place := [s.placeFor .radio, s.placeFor .field, s.placeFor .decision, s.placeFor .host], migrating := [] }

/-- 24 h, less the uncertainty, have run since a pair's last divergence (R333, R506). -/
def State.retirementOver (s : State) (p : Pair) : Bool :=
  match p.stamps.getLast? with
  | some (t, e) => e == s.tbu.epoch && decide (dayNs ≤ s.sinceLess t)
  | none => true

/-- A pair after its self-test of a boot (R507). -/
def State.bootPair (s : State) (ok : Bool) (p : Pair) : Pair :=
  let free := !p.retired || s.retirementOver p
  { p with inService := ok && free, retired := p.retired && !(ok && free), testing := false }

/-- Each pair runs its self-test. -/
def State.bootPairs (ok : List Bool) (s : State) : State :=
  s.modCores fun c => { c with pairs := (List.range 4).map fun p => s.bootPair (ok.getD p false) (c.pairs.getD p {}) }

/-! ### The boot (R540) -/

/-- The codes of intrusive instructions: EXTEST, CLAMP, HIGHZ, LFLOOP and RFLOOP (R561, R562). -/
def intrusiveIr (c : Nat) : Bool := [0x00, 0x04, 0x05, 0x10, 0x11].contains c

/-- An intrusive instruction is current and not turned into BYPASS (R562, R563). -/
def State.testCurrent (s : State) : Bool := intrusiveIr s.jtag.ir && !s.jtag.bypassed

/-- Step 7: the inputs are sampled and the mesh checked; a zeroisation that a reset cut short is completed (R522, R523). -/
def State.bootTamper (r : BootReport) (s : State) : State :=
  let s1 := (List.range 4).foldl (fun (t : State) n =>
    if r.tmp.getD n false then t.assertInput n else t.quietInput n) s
  let s2 := (s1.checkMesh (!r.meshFails)).markQuiet
  if s2.tamper.latch then s2.tamperZeroise else s2

/-- Steps 4 and 5 (R288, R295): the nonce counters are set to their marks, the marks advance, and a wrapping key is drawn. -/
def State.bootKeys (s : State) : State :=
  (s.modKeys fun k =>
    { k with slots := k.slots.map fun x => { x with counter := x.mark, mark := x.mark + 65536, advancing := false } }).drawWrapKey

/-- Step 8: roles are placed and ready sets; the radio is OFF (R146, R482), and the standstill durations start (R226). -/
def State.bootReady (fw : Nat) (s : State) : State :=
  let s1 := s.placeRoles.modMbx fun m => { m with ready := true }
  let s2 := s1.modBoot fun b =>
    { b with
      phase := .running, bootCount := (b.bootCount + 1) % 2 ^ 32, fwVersion := (s.fwBank fw).version, fwRunning := fw
      readyNs := s.now, pendingRecovery := none }
  let s3 := s2.radioOff
  let s4 := s3.restartHalves.modRel fun r =>
    { r with disagree := if r.sstlA = r.sstlB then none else some s.now }
  if s.boot.pendingRecovery.isSome then s4.raise 14 5 else s4

/-- Steps 4 to 8 on the bank chosen. -/
def State.bootRun (fw : Nat) (r : BootReport) (s : State) : State :=
  let s1 := ((s.bootKeys.readRecords.bootMeton fw).loadLayers).rebase
  let s2 := s1.bootMoraine.bootNotes
  let s3 := match s.boot.pendingRecovery with
    | some c => s2.health1 0x0060 0 4 c
    | none => s2
  let s4 := if s3.crypt.zeroiseNext then s3.zeroise.modCrypt fun x => { x with zeroiseNext := false } else s3
  let s5 := (s4.installFirst.bootTamper r).resumeDecision
  let s6 := (s5.modPad fun p => { p with latchHold := false }).bootReady fw
  ((s6.requestDiagnostics.requestCheck []).rebudget).evalDecision

/-- Step 3: the bank, or the ROM's own service of the mailboxes when none verifies (R541). A firmware that stalls leaves the
device waiting for the boot monitor. -/
def State.bootChosen (r : BootReport) (s : State) : State :=
  match s.bootBank with
  | (none, s1) => (s1.modBoot fun b => { b with phase := .bankless }).modMbx fun m => { m with ready := true }
  | (some fw, s1) =>
    let s2 := s1.modBoot fun b => { b with tried := b.tried ++ [fw] }
    if r.stalls then s2.modBoot fun b => { b with phase := .stalled } else s2.bootRun fw r

/-- Step 2 and what follows it: with fewer than two pairs boot waits (R507); a failed cipher self-test is a recovery reset
(R258); an intrusive JTAG instruction stops boot in the test hold (R562). -/
def State.bootTests (r : BootReport) (s : State) : State :=
  let s1 := s.bootPairs r.pairOk
  if ((List.range 4).filter s1.pairUp).length < 2 then
    s1.modBoot fun b => { b with phase := .selfTestWait, testNs := s.now }
  else if !r.cipherOk then s1.recoveryReset 3
  else if s1.testCurrent then (s1.modBoot fun b => { b with phase := .testHold }).bootTamper r
  else s1.bootChosen r

/-- The meaning of RESET_RELEASE (R540, R567). -/
def doResetRelease (r : BootReport) (s : State) : State :=
  if s.boot.phase ≠ .inReset ∨ s.lineUp = false then s
  else
    (s.modBoot fun b =>
      { b with releaseNs := s.now, due := if r.testEn then b.due ++ [(0xA0, 0, 0xFF)] else b.due }).bootTests r

/-- RESET_RELEASE: TEST_EN high before production lock is the factory test mode, which the spec does not describe (R567). -/
def execResetRelease (r : BootReport) (s : State) : Host.Outcome State Fault Refusal :=
  if s.boot.phase = .inReset ∧ s.lineUp = true ∧ r.testEn = true ∧ s.boot.locked = false then .refused .factoryTestMode
  else .next (doResetRelease r s)

/-- The meaning of BOOT_SELF_TEST_RETRY (R507): once per second. -/
def doBootSelfTestRetry (r : BootReport) (s : State) : State :=
  if s.boot.phase = .selfTestWait ∧ s.boot.testNs + 1000000000 ≤ s.now then s.bootTests r else s

/-- BOOT_SELF_TEST_RETRY. -/
def execBootSelfTestRetry (report : BootReport) (s : State) : Host.Outcome State Fault Refusal :=
  .next (doBootSelfTestRetry report s)

/-- The meaning of BOOT_MONITOR_EXPIRY (R541, R542): a boot that is not ready 250 ms after the release restarts with the next
bank; a trial is rolled back. It counts for a boot that waits for its pairs too (R507). -/
def doBootMonitorExpiry (r : BootReport) (s : State) : State :=
  if (s.boot.phase = .stalled ∨ s.boot.phase = .selfTestWait) ∧ s.boot.releaseNs + 250000000 ≤ s.now then
    (s.rollBackTrial.modBoot fun b => { b with releaseNs := s.now }).bootTests r
  else s

/-- BOOT_MONITOR_EXPIRY. -/
def execBootMonitorExpiry (report : BootReport) (s : State) : Host.Outcome State Fault Refusal :=
  .next (doBootMonitorExpiry report s)

/-- The meaning of TRIAL_CONFIRMATION (R542): 60 s after readiness on the trial bank. -/
def doTrialConfirmation (s : State) : State :=
  match s.boot.fwTrial with
  | some t =>
    if s.boot.phase ≠ .running ∨ s.boot.fwRunning ≠ t ∨ s.now < s.boot.readyNs + 60000000000 then s
    else
      let s1 := (s.modFwBank s.boot.fwActive fun k => { k with st := 2 }).modFwBank t fun k => { k with st := 3 }
      (s1.modBoot fun b =>
        { b with fwActive := t, fwTrial := none, trialCount := 0, fwFloor := max b.fwFloor (s.fwBank t).version }).ledgerAdd 0x71 t
        (leBytes 4 (s.fwBank t).version ++ leBytes 1 2)
  | none => s

/-- TRIAL_CONFIRMATION. -/
def execTrialConfirmation (s : State) : Host.Outcome State Fault Refusal := .next (doTrialConfirmation s)

end Sys2Proof.Machine
end

