-- ==== Sys2Proof/Machine/SysCommands.lean ====
section
/-!
DEFINITION. The commands of the sys, time and diag families (17_command_reference).
-/
namespace Sys2Proof.Machine

/-! ### sys -/

/-- The opcodes of commands that other rules name: sys.reset, cfg.load, cfg.activate, fw.write, fw.activate. -/
def opSysReset : Nat := 0x0102
/-- cfg.load. -/
def opCfgLoad : Nat := 0x0201
/-- cfg.activate. -/
def opCfgActivate : Nat := 0x0202
/-- fw.write. -/
def opFwWrite : Nat := 0x0F01
/-- fw.activate. -/
def opFwActivate : Nat := 0x0F02

/-- The body of sys.info; meton_version is 0 while no bank is active. -/
def State.infoBody (s : State) : List Byte :=
  let active := s.boot.metonActive
  leBytes 8 Config.deviceIdentity ++ leBytes 4 0x19640F73 ++ leBytes 2 0x9640 ++ leBytes 1 Config.grade ++
    leBytes 1 (bit s.boot.locked) ++ leBytes 4 s.boot.fwVersion ++ leBytes 1 s.boot.fwRunning ++ leBytes 1 (active.getD 0) ++
    leBytes 1 s.boot.resetCause ++ zeros 1 ++ leBytes 4 ((active.map s.imageVersion).getD 0) ++ leBytes 4 s.boot.bootCount ++
    leBytes 4 s.tbu.epoch ++ leBytes 1 (bit s.rel.storage) ++ zeros 3 ++ leBytes 8 s.boot.readyNs

/-- SYS_INFO. -/
def execSysInfo (mb : Nat) (s : State) : Host.Outcome State Fault Refusal :=
  .next (s.perform mb 0x0101 (checked (fun _ => true) noPre) (fun _ t => t.post mb Status.ok t.infoBody))

/-- The payload of sys.reset carries the key and the kind. -/
def wfSysReset (p : List Byte) : Bool := uAt p 0 4 == 0x5E7A11C0 && uAt p 4 1 == 1 && zeroAt p 5 3

/-- The meaning of SYS_RESET (R449): committed at its admission, the reset is taken whether or not a role has started the
command, and nothing is posted. -/
def doSysReset (mb : Nat) (s : State) : State :=
  if s.lineUp && decide ((s.box mb).st = .issued) && (s.box mb).opcode == opSysReset then s.systemReset 2 else s

/-- SYS_RESET. -/
def execSysReset (mb : Nat) (s : State) : Host.Outcome State Fault Refusal := .next (doSysReset mb s)

/-- The payload of sys.event is in range. -/
def wfSysEvent (p : List Byte) : Bool := decide (uAt p 0 1 ≤ 3) && zeroAt p 1 3

/-- Group 0 has an awake target among those it routes to (R384). -/
def State.groupAwake (s : State) (g : Nat) : Bool := (List.range 10).any fun t => (s.evc.group g).route t && s.awake t

/-- SYS_EVENT (R375, R384). -/
def execSysEvent (mb : Nat) (s : State) : Host.Outcome State Fault Refusal :=
  .next (s.perform mb 0x0103 (checked wfSysEvent noPre) (fun b t =>
    let src := 12 + uAt b.payload 0 1
    let body := leBytes 1 (bit ((t.evc.group 0).srcEn.getLsbD src)) ++ zeros 3
    (t.raise 0 src).postWith mb (if t.groupAwake 0 then Status.ok else Status.noTarget) body b.payload.length))

/-- The payload of sys.health is in range. -/
def wfSysHealth (p : List Byte) : Bool := decide (1 ≤ uAt p 4 2) && decide (uAt p 4 2 ≤ 2048) && zeroAt p 6 2

/-- A health entry as 32 bytes (R513). -/
def HealthRec.bytes (r : HealthRec) : List Byte :=
  leBytes 4 r.seq ++ leBytes 2 r.code ++ leBytes 1 r.unit ++ leBytes 1 r.action ++ leBytes 4 r.epoch ++ leBytes 4 r.count ++
    leBytes 8 r.ns ++ leBytes 8 r.detail

/-- SYS_HEALTH (R513): first_seq of an answer without entries is a free value. -/
def execSysHealth (mb : Nat) (s : State) : Host.Outcome State Fault Refusal :=
  .next (s.perform mb 0x0104 (checked wfSysHealth noPre) (fun b t =>
    let p := b.payload
    let es := (t.health.log.filter fun e => decide (uAt p 0 4 ≤ e.seq)).take (uAt p 4 2)
    let first := (es.head?.map (·.seq)).getD (t.freeVal % 2 ^ 32)
    (t.drawn.toWindow b (uAt p 8 4) (es.flatMap HealthRec.bytes)).post mb Status.ok
      (leBytes 2 es.length ++ zeros 2 ++ leBytes 4 first ++ leBytes 4 t.health.next ++ leBytes 4 t.health.lost)))

/-! ### time -/

/-- The body of time.status. -/
def State.timeBody (s : State) : List Byte :=
  let c := s.tbu.civil
  leBytes 1 (srcCode s.tbu.src) ++ leBytes 1 (s.tbuStatus.toNat % 256) ++ leBytes 1 s.trimAge ++
    leBytes 1 s.tbu.hist.length ++ leBytes 4 s.tbu.epoch ++ leBytes 8 s.now ++ leBytes 4 s.unc ++ leBytes 4 s.xoOfs ++
    leBytes 8 s.tbu.uAcc ++ leBytes 8 s.civilNow ++ leBytes 8 s.civilUnc ++ leInt 4 c.rate ++ leBytes 4 c.rateUnc ++
    leBytes 2 c.utcOffset.toNat ++ leBytes 1 c.leap ++ leBytes 1 (bit s.tbu.ptp) ++ leBytes 2 s.tbu.tbi ++ zeros 2 ++
    leBytes 4 s.tbu.foreignAnnounce ++ leBytes 4 s.tbu.foreignSync ++ leBytes 4 s.tbu.foreignFollow ++ zeros 4

/-- The hourly history as time.status writes it. -/
def State.histBytes (s : State) : List Byte := s.tbu.hist.flatMap fun p => leBytes 8 p.1 ++ leBytes 8 p.2

/-- TIME_STATUS. -/
def execTimeStatus (mb : Nat) (s : State) : Host.Outcome State Fault Refusal :=
  .next (s.perform mb 0x0C01 (checked (fun _ => true) noPre) (fun b t =>
    (t.toWindow b (uAt b.payload 0 4) t.histBytes).post mb
      (if t.tbu.uncLimit.toNat < t.unc then Status.timeDegraded else Status.ok) t.timeBody))

/-- The payload of time.civil is in range. -/
def wfTimeCivil (p : List Byte) : Bool := decide (uAt p 21 1 ≤ 3)

/-- T0 of time.civil lies in the present epoch and not in the future (R335). -/
def preTimeCivil (s : State) (b : Mailbox) : Option Nat :=
  let p := b.payload
  refuseIf (uAt p 16 4 != s.tbu.epoch || decide (s.now256 < 256 * uAt p 8 8 + uAt p 20 1)) Status.invalid

/-- The parameters that time.civil carries (R335). -/
def civilOf (p : List Byte) (now : Nat) : Civil :=
  { valid := true, c0 := uAt p 0 8, t0Ns := uAt p 8 8, t0Frac := uAt p 20 1, leap := uAt p 21 1
    utcOffset := word (uAt p 22 2), rate := iAt p 24 4, rateUnc := uAt p 28 4, unc := uAt p 32 8, setNs := now }

/-- TIME_CIVIL (R335 to R337, R339, R344): the timescale becomes PTP, civil_change sets, and no timebase value changes. -/
def execTimeCivil (mb : Nat) (s : State) : Host.Outcome State Fault Refusal :=
  .next (s.perform mb 0x0C02 (checked wfTimeCivil preTimeCivil) (fun b t =>
    let tbi := (t.tbu.tbi + 1) % 0x10000
    let c := civilOf b.payload t.now
    ((t.modTbu fun x =>
      { x with
        civilOld := x.civil, civil := c, tbi := tbi, ptp := true
        phaseChange := (c.at256 t.now256 : Int) - t.gptpTime }).tbuEvt 5).post mb
      Status.ok (leBytes 2 tbi ++ zeros 2)))

/-! ### diag -/

/-- The body of diag.tempo (R36). -/
def State.tempoBody (s : State) : List Byte :=
  leBytes 2 s.power.vcore ++ leBytes 2 s.power.demand ++ leBytes 4 s.power.unmet ++
    (List.range 13).flatMap (fun k => leBytes 2 (if s.pdOn (k + 1) then s.power.tempo.getD k 0 else 0)) ++ zeros 2 ++
    (List.range 3).flatMap (fun k => leInt 2 (s.power.temps.getD k 0)) ++ zeros 2

/-- DIAG_TEMPO. -/
def execDiagTempo (mb : Nat) (s : State) : Host.Outcome State Fault Refusal :=
  .next (s.perform mb 0x0E01 (checked (fun _ => true) noPre) (fun _ t => t.post mb Status.ok t.tempoBody))

/-- The payload of diag.faults is in range. -/
def wfDiagFaults (p : List Byte) : Bool := decide (uAt p 0 1 ≤ 1) && zeroAt p 1 3

/-- The body of diag.faults (R406). -/
def State.faultsBody (s : State) : List Byte :=
  (List.range 20).flatMap (fun k => leBytes 4 (s.fab.reqCounts.getD k 0)) ++
    (List.range 5).flatMap (fun k => leBytes 4 (s.fab.kindCounts.getD k 0)) ++ leBytes 2 s.fab.faults.length ++
    leBytes 2 s.fab.aborted

/-- The counts of diag.faults are cleared. -/
def State.clearFaultCounts (s : State) : State :=
  s.modFab fun f => { f with reqCounts := List.replicate 20 0, kindCounts := List.replicate 5 0, aborted := 0 }

/-- DIAG_FAULTS (R406). -/
def execDiagFaults (mb : Nat) (s : State) : Host.Outcome State Fault Refusal :=
  .next (s.perform mb 0x0E02 (checked wfDiagFaults noPre) (fun b t =>
    (if uAt b.payload 0 1 = 1 then t.clearFaultCounts else t).post mb Status.ok t.faultsBody))

end Sys2Proof.Machine
end

