-- ==== Sys2Proof/Machine/CfgCommands.lean ====
section
/-!
DEFINITION. The commands of the cfg and fw families (17_command_reference, R532 to R539, R450, R573).
-/
namespace Sys2Proof.Machine

/-- A command of one of the opcodes was rung before this one and is still issued (R455). -/
def State.earlier (s : State) (b : Mailbox) (ops : List Nat) : Bool :=
  s.mbx.boxes.any fun x => decide (x.st = .issued) && ops.contains x.opcode && decide (x.ringSeq < b.ringSeq)

/-- The fields of a load into a bank of `size` bytes are in range. -/
def wfLoad (size : Nat) (p : List Byte) : Bool :=
  uAt p 4 4 % 64 == 0 && uAt p 8 4 % 64 == 0 && decide (64 ≤ uAt p 8 4) && decide (uAt p 8 4 ≤ 65536) &&
    decide (uAt p 4 4 + uAt p 8 4 ≤ size)

/-! ### cfg.load, cfg.activate and cfg.status (R532) -/

/-- The payload of cfg.load is in range. -/
def wfCfgLoad (p : List Byte) : Bool := wfLoad 524288 p

/-- cfg.load is busy while an activation admitted before it runs (R455). -/
def preCfgLoad (s : State) (b : Mailbox) : Option Nat := refuseIf (s.earlier b [opCfgActivate, opFwActivate]) Status.busy

/-- Bytes reach the inactive Meton bank (R532): an offset of 0 marks it unverified first. -/
def State.loadMeton (ofs : Nat) (bs : List Byte) (s : State) : State :=
  let k := s.metonInactive
  let s1 := s.modMetonBank k fun m => if ofs = 0 then { m with st := 1, written := 0, bad := false } else m
  (s1.physWrite (metonBase k + ofs) bs).modMetonBank k fun m => { m with written := max m.written (ofs + bs.length) }

/-- CFG_LOAD. -/
def execCfgLoad (mb : Nat) (s : State) : Host.Outcome State Fault Refusal :=
  .next (s.perform mb 0x0201 (checked wfCfgLoad preCfgLoad) (fun b t =>
    let p := b.payload
    match t.winRead b.window (uAt p 0 4) (uAt p 8 4) with
    | none => t.post mb Status.windowFault []
    | some bs =>
      let t1 := t.loadMeton (uAt p 4 4) bs
      t1.post mb Status.ok (leBytes 4 (t1.metonBank t1.metonInactive).written ++ zeros 4)))

/-- cfg.activate is busy while a load admitted before it runs (R455). -/
def preCfgActivate (s : State) (b : Mailbox) : Option Nat := refuseIf (s.earlier b [opCfgLoad]) Status.busy

/-- A bank is refused with a status, and cfg.status names what refused it (R530, R532). -/
def State.refuseBank (k mb status : Nat) (why : Option Nat) (s : State) : State :=
  ((s.modMetonBank k fun m => { m with st := 4 }).modBoot fun b => { b with lastRefusal := why.getD b.lastRefusal }).post mb status []

/-- A bank's image is lower than the active one's, which the production lock forbids (R532 step 4). -/
def State.versionBarred (s : State) (k : Nat) : Bool :=
  s.boot.locked && match s.boot.metonActive with
    | some a => decide (s.imageVersion k < s.imageVersion a)
    | none => false

/-- The activation commits (R532 steps 5 to 7, R543): the seal and the boot record, the layers, and the CONFIG entry. -/
def State.activateBank (k : Nat) (c : CfgStore) (s : State) : State :=
  let was := s.boot.metonActive
  let s1 := match was with
    | some a => s.modMetonBank a fun m => { m with st := 2 }
    | none => s
  let s2 := (s1.modMetonBank k fun m => { m with st := 3, bankSeal := s.sealOf k }).modBoot fun b =>
    { b with metonActive := some k, locked := b.locked || layerGet c.image (cfgKey recSystem 4) == some 1 }
  ((s2.bringIn c).markQuiet).ledgerAdd 0x70 k (leBytes 4 (s.imageVersion k) ++ s.imageTag8 k)

/-- The root key under which an activation checks the tag: KS1's at the command's admission, while KS1 is LOADED (R531, R545). -/
def State.imageRoot (s : State) (mb : Nat) : Option (List Byte) := if (s.slot 1).loaded then (s.box mb).imageKey else none

/-- The running firmware reads the image's format (R537, R545). -/
def State.formatRead (s : State) (k : Nat) : Bool :=
  decide (leNat (s.physRead (metonBase k + 4) 1) ≤ (s.fwBank s.boot.fwRunning).metonMax)

/-- Steps 1 to 4 of R532 in order, then the commit. -/
def State.cfgActivate (mb : Nat) (s : State) : State :=
  let k := s.metonInactive
  if !((s.metonBank k).st == 1 || (s.metonBank k).st == 2) then s.post mb Status.invalid []
  else if (s.imageRoot mb).isNone then s.post mb Status.denied []
  else if !s.imageTagOk ((s.imageRoot mb).getD []) k then s.refuseBank k mb Status.tagFail none
  else
    let s1 := s.modMetonBank k fun m => { m with st := 2 }
    match s.imageLayers k with
    | .error e => s1.refuseBank k mb Status.invalid (some e)
    | .ok c =>
      if !s.formatRead k then s1.refuseBank k mb Status.invalid (some 0)
      else if s.versionBarred k then s1.post mb Status.denied []
      else (s1.activateBank k c).post mb Status.ok (leBytes 4 (s.imageVersion k) ++ leBytes 1 k ++ zeros 3)

/-- CFG_ACTIVATE. -/
def execCfgActivate (mb : Nat) (s : State) : Host.Outcome State Fault Refusal :=
  .next (s.perform mb 0x0202 (checked (fun _ => true) preCfgActivate) (fun _ t => t.cfgActivate mb))

/-- One bank's record in cfg.status: an empty bank has no version and no tag. -/
def State.metonRecord (s : State) (k : Nat) : List Byte :=
  let st := (s.metonBank k).st
  leBytes 1 st ++ zeros 3 ++ (if st = 0 then zeros 12 else leBytes 4 (s.imageVersion k) ++ s.imageTag8 k)

/-- CFG_STATUS. -/
def execCfgStatus (mb : Nat) (s : State) : Host.Outcome State Fault Refusal :=
  .next (s.perform mb 0x0203 (checked (fun _ => true) noPre) (fun _ t =>
    t.post mb Status.ok (t.metonRecord 0 ++ t.metonRecord 1 ++ leBytes 2 t.cfg.runtime.length ++ zeros 2 ++
      leBytes 4 t.boot.lastRefusal)))

/-! ### cfg.set and cfg.get (R450, R535, R573) -/

/-- Fields that cfg.set refuses (R535), by record, instance and index. -/
def setDenied (record field : Nat) : Bool :=
  let inst := field / 0x100
  let i := field % 0x100
  ((fieldSpec record field).map (·.long)).getD false || record == recRelease || record == recTamper || record == recCipher ||
    (record == recSystem && [1, 2, 3, 4, 13].contains i) || (record == recRadio && i == 1) ||
    (record == recMetering && decide (14 ≤ i) && decide (i ≤ 18)) ||
    (record == recNetwork && ((inst == 6 && (i == 1 || i == 2)) || ((inst == 4 || inst == 5) && i == 3) ||
      (decide (inst < 4) && i == 1)))

/-- The value that cfg.set carries: its low `len` bytes, signed where the field's range is (R444). -/
def setValue (sp : FieldSpec) (p : List Byte) : Int :=
  if sp.lo < 0 then iAt p 8 (uAt p 4 1) else (uAt p 8 (uAt p 4 1) : Nat)

/-- The layers with a runtime value set. -/
def State.withRuntime (s : State) (record field : Nat) (v : Int) : CfgStore :=
  { s.cfg with runtime := layerSet s.cfg.runtime (cfgKey record field) v }

/-- Another chapter's rule refuses the layers with the value set, and not the present ones (R530, R535). -/
def State.runtimeBreaks (s : State) (record field : Nat) (v : Int) : Bool :=
  ((s.modCfg fun _ => s.withRuntime record field v).layersRefusal).isSome && (s.layersRefusal).isNone

/-- The payload of cfg.set is in range. -/
def wfCfgSet (p : List Byte) : Bool := decide (1 ≤ uAt p 4 1) && decide (uAt p 4 1 ≤ 8) && zeroAt p 5 3

/-- cfg.set refuses an unknown identifier, then a field fixed at runtime, then a value out of range. -/
def preCfgSet (s : State) (b : Mailbox) : Option Nat :=
  let p := b.payload
  let record := uAt p 0 2
  let field := uAt p 2 2
  match fieldSpec record field with
  | none => some Status.invalid
  | some sp =>
    if setDenied record field then some Status.denied
    else refuseIf (!sp.admits record field (setValue sp p) || s.runtimeBreaks record field (setValue sp p)) Status.invalid

/-- A field's value and layer as cfg.get and cfg.set answer them: 0 and 0xFF while no layer carries it (R573). -/
def State.fieldBody (s : State) (record field : Nat) : List Byte :=
  match s.cfgLayer record field with
  | some (v, layer) => leInt 8 v ++ leBytes 1 layer ++ zeros 3
  | none => zeros 8 ++ leBytes 1 0xFF ++ zeros 3

/-- CFG_SET (R450, R535): the value takes effect as a new image would bring it in. -/
def execCfgSet (mb : Nat) (s : State) : Host.Outcome State Fault Refusal :=
  .next (s.perform mb 0x0204 (checked wfCfgSet preCfgSet) (fun b t =>
    let p := b.payload
    let record := uAt p 0 2
    let field := uAt p 2 2
    match fieldSpec record field with
    | some sp => (t.bringIn (t.withRuntime record field (setValue sp p))).post mb Status.ok (t.fieldBody record field)
    | none => t.post mb Status.invalid []))

/-- cfg.get refuses an unknown identifier and a field longer than 8 bytes (R573). -/
def preCfgGet (_ : State) (b : Mailbox) : Option Nat :=
  match fieldSpec (uAt b.payload 0 2) (uAt b.payload 2 2) with
  | some sp => refuseIf sp.long Status.invalid
  | none => some Status.invalid

/-- CFG_GET. -/
def execCfgGet (mb : Nat) (s : State) : Host.Outcome State Fault Refusal :=
  .next (s.perform mb 0x0205 (checked (fun _ => true) preCfgGet) (fun b t =>
    t.post mb Status.ok (t.fieldBody (uAt b.payload 0 2) (uAt b.payload 2 2))))

/-! ### fw (R537 to R542) -/

/-- The payload of fw.write is in range. -/
def wfFwWrite (p : List Byte) : Bool := wfLoad 1048576 p

/-- fw.write is busy while fw.activate runs or a trial is pending (R455, R542). -/
def preFwWrite (s : State) (b : Mailbox) : Option Nat :=
  refuseIf (s.earlier b [opFwActivate] || s.boot.fwTrial.isSome) Status.busy

/-- Bytes reach the inactive firmware bank; its header comes with an offset of 0 (R537). -/
def State.loadFw (ofs : Nat) (bs : List Byte) (s : State) : State :=
  let k := 1 - s.boot.fwActive
  let head := fun (m : FwBank) =>
    if ofs = 0 then { m with written := 0, refused := false, version := uAt bs 8 4, metonMax := uAt bs 16 1 } else m
  (s.physWrite (fwBase k + ofs) bs).modFwBank k fun m =>
    { head m with st := 1, written := max (head m).written (ofs + bs.length) }

/-- FW_WRITE. -/
def execFwWrite (mb : Nat) (s : State) : Host.Outcome State Fault Refusal :=
  .next (s.perform mb 0x0F01 (checked wfFwWrite preFwWrite) (fun b t =>
    let p := b.payload
    match t.winRead b.window (uAt p 0 4) (uAt p 8 4) with
    | none => t.post mb Status.windowFault []
    | some bs =>
      let t1 := t.loadFw (uAt p 4 4) bs
      t1.post mb Status.ok (leBytes 4 (t1.fwBank (1 - t1.boot.fwActive)).written)))

/-- The payload of fw.activate is in range. -/
def wfFwActivate (p : List Byte) : Bool := decide (uAt p 0 1 ≤ 1) && zeroAt p 1 3

/-- fw.activate is busy while a write admitted before it runs (R455). -/
def preFwActivate (s : State) (b : Mailbox) : Option Nat := refuseIf (s.earlier b [opFwWrite]) Status.busy

/-- The format of the active Meton image; 0 while none is active. -/
def State.activeFormat (s : State) : Nat :=
  match s.boot.metonActive with
  | some a => leNat (s.physRead (metonBase a + 4) 1)
  | none => 0

/-- The bank is marked for trial (R539). -/
def State.setTrial (k : Nat) (s : State) : State :=
  ((s.modFwBank k fun m => { m with st := 4 }).modBoot fun b => { b with fwTrial := some k, trialCount := 0 }).ledgerAdd 0x71 k
    (leBytes 4 (s.fwBank k).version ++ leBytes 1 1)

/-- The checks of R538 and R539, then the commit; with flags [0] the system reset follows and nothing is posted (R449). -/
def State.fwActivate (mb flags : Nat) (s : State) : State :=
  let k := 1 - s.boot.fwActive
  let m := s.fwBank k
  if m.st = 0 then s.post mb Status.invalid []
  else if !s.fwVerifies k then s.post mb Status.tagFail []
  else
    let s1 := s.modFwBank k fun x => { x with st := max x.st 2 }
    if m.metonMax < s.activeFormat then s1.post mb Status.invalid []
    else if s.boot.locked && decide (m.version < s.boot.fwFloor) then s1.post mb Status.denied []
    else if flags % 2 = 1 then (s1.setTrial k).systemReset 2
    else (s1.setTrial k).post mb Status.ok (leBytes 4 m.version ++ leBytes 1 k ++ zeros 3)

/-- FW_ACTIVATE. -/
def execFwActivate (mb : Nat) (s : State) : Host.Outcome State Fault Refusal :=
  .next (s.perform mb 0x0F02 (checked wfFwActivate preFwActivate) (fun b t => t.fwActivate mb (uAt b.payload 0 1)))

/-- One bank's record in fw.status. -/
def State.fwRecord (s : State) (k : Nat) : List Byte :=
  let m := s.fwBank k
  leBytes 1 m.st ++ zeros 3 ++ leBytes 4 m.version ++ leBytes 4 m.written

/-- FW_STATUS. -/
def execFwStatus (mb : Nat) (s : State) : Host.Outcome State Fault Refusal :=
  .next (s.perform mb 0x0F03 (checked (fun _ => true) noPre) (fun _ t =>
    t.post mb Status.ok (t.fwRecord 0 ++ t.fwRecord 1 ++ leBytes 1 t.boot.fwActive ++ leBytes 1 (t.boot.fwTrial.getD 0xFF) ++
      leBytes 2 t.boot.fwRollbacks ++ zeros 4)))

end Sys2Proof.Machine
end

