-- ==== Sys2Proof/Machine/Cmpw.lean ====
section
/-!
DEFINITION. The HK-210 compatibility window CMPW (R266 to R273, 09_cipher_engine).
-/
namespace Sys2Proof.Machine

/-- The owner code of a requester (R270); the core pairs are no host requester. -/
def ownerCode : Requester → Nat
  | .spi => 1
  | .eth => 2
  | _ => 3

/-- The window works (R266). -/
def State.cmpwOn (s : State) : Bool := s.cfgB recSystem 13

/-- The CMPW block updated. -/
def State.modCmpw (f : Cmpw → Cmpw) (s : State) : State := s.modCrypt fun x => { x with cmpw := f x.cmpw }

/-- A write counts as the owner's latest (R266). -/
def State.ownerWrote (r : Requester) (s : State) : State :=
  if s.crypt.cmpw.owner = ownerCode r then s.modCmpw fun c => { c with ownerNs := s.now } else s

/-- The requester can own the window: SPI or Ethernet management (R266). -/
def mayOwn (r : Requester) : Bool := decide (ownerCode r ≤ 2)

/-- The requester may not write the owner's registers (R266). -/
def Cmpw.shut (c : Cmpw) (r : Requester) : Bool := !mayOwn r || (c.owner != 0 && c.owner != ownerCode r)

/-- The block that four registers hold, register 0 first (R267). -/
def blockOf (ws : List Word) : List Byte := bytesOf ws

/-- The registers of a block (R267). -/
def regsOf (b : List Byte) : List Word := wordsOf 4 (fit 16 b)

/-- The error code with which a start under the fields of CMPW_CTRL is refused (R269, R273). -/
def Cmpw.startErr (c : Cmpw) (w : Word) : Option Nat :=
  let mode := fld w 4 2
  let first := w.getLsbD 8
  let ctr := beNat ((if first then blockOf c.iv else c.chain).drop 12)
  if !c.keyReady then some 1
  else if c.busy then some 2
  else if mode = 3 ∨ (mode = 2 ∧ w.getLsbD 9 ∧ (fld w 16 5 = 0 ∨ 16 < fld w 16 5)) ∨ (c.needFirst ∧ !first) then some 3
  else if mode = 1 ∧ ctr = 0xFFFFFFFF then some 4
  else none

/-- The RW fields of CMPW_CTRL (R269). -/
def cmpwCtrlMask : Word := 0x801F0334

/-- A start is taken: busy sets, done clears, first and last clear, and the chaining value is loaded with first (R269). -/
def Cmpw.begin (c : Cmpw) (w : Word) (verifying : Bool) : Cmpw :=
  { c with
    ctrl := (w &&& cmpwCtrlMask) &&& ~~~0x300
    run := w, err := 0, done := false, busy := true, yielded := verifying, needFirst := false
    dout := [0, 0, 0, 0]
    chain := if !w.getLsbD 8 then c.chain else if fld w 4 2 = 2 then zeros 16 else blockOf c.iv }

/-- An abort: a block in progress is discarded and the next start needs first (R269). A key load in progress goes on. -/
def Cmpw.abort (c : Cmpw) (w : Word) : Cmpw :=
  { c with
    ctrl := w &&& cmpwCtrlMask, dout := [0, 0, 0, 0], needFirst := true
    busy := c.busy && c.loading, yielded := false }

/-- A write of CMPW_CTRL (R269, R273). -/
def writeCmpwCtrl (r : Requester) (w : Word) (s : State) : State :=
  let c := s.crypt.cmpw
  if !s.cmpwOn then s
  else if c.shut r then s.modCmpw fun x => { x with err := 5 }
  else
    (if w.getLsbD 1 then s.modCmpw fun x => x.abort w
      else if w.getLsbD 0 then
        match c.startErr w with
        | some e => s.modCmpw fun x => { x with ctrl := w &&& cmpwCtrlMask, err := e }
        | none => s.modCmpw fun x => x.begin w s.crypt.verifying
      else s.modCmpw fun x => { x with ctrl := w &&& cmpwCtrlMask }).ownerWrote r

/-- CMPW_START: a write of CMPW_CTRL with start and without abort. -/
def execCmpwStart (req : Requester) (w : Word) (s : State) : Host.Outcome State Fault Refusal :=
  .next (writeCmpwCtrl req ((w ||| 1) &&& ~~~2) s)

/-- CMPW_ABORT: a write of CMPW_CTRL with abort. -/
def execCmpwAbort (req : Requester) (w : Word) (s : State) : Host.Outcome State Fault Refusal :=
  .next (writeCmpwCtrl req (w ||| 2) s)

/-- The other requester's load is taken over (R266). -/
def State.takeover (s : State) : Bool :=
  let c := s.crypt.cmpw
  !c.busy && (c.owner == 0 || !c.keyReady || decide (c.ownerNs + 100000000 ≤ s.now))

/-- The error code with which a load from a slot is refused (R273). -/
def State.loadErr (s : State) (slot : Nat) : Option Nat :=
  let c := s.crypt.cmpw
  let purpose := fld (c.label.getD 3 0) 16 16
  if c.busy then some 2
  else if purpose < 0x0F00 ∨ 0x0FFF < purpose then some 6
  else if s.crypt.sealed || !(s.slot slot).loaded || (s.slot slot).cls != 6 then some 7
  else none

/-- A release by the owner (R271). -/
def Cmpw.release (c : Cmpw) (slot : Nat) : Cmpw :=
  { c with
    slot := slot, key := [], keyReady := false, busy := false, loading := false, yielded := false, owner := 0
    needFirst := true }

/-- A write of CMPW_KEYSEL (R266, R271, R273). -/
def writeCmpwKeysel (r : Requester) (w : Word) (s : State) : State :=
  let c := s.crypt.cmpw
  let slot := fld w 0 4
  let mine := c.owner == ownerCode r
  if !s.cmpwOn then s
  else if w.getLsbD 30 then
    (if mine then s.modCmpw fun x => x.release slot else s.modCmpw fun x => { x with err := 5 })
  else if w.getLsbD 31 then
    (if !mayOwn r || (!mine && !s.takeover) then s.modCmpw fun x => { x with err := 5 }
      else
        match s.loadErr slot with
        | some e => (s.modCmpw fun x => { x with slot := slot, err := e }).ownerWrote r
        | none =>
          s.modCmpw fun x =>
            { x with
              slot := slot, keySlot := slot, owner := ownerCode r, ownerNs := s.now, err := 0, key := []
              keyReady := false, busy := true, loading := true, needFirst := true })
  else if c.shut r then s.modCmpw fun x => { x with err := 5 }
  else (s.modCmpw fun x => { x with slot := slot }).ownerWrote r

/-- CMPW_LOAD: a write of CMPW_KEYSEL with load and without release. -/
def execCmpwLoad (req : Requester) (w : Word) (s : State) : Host.Outcome State Fault Refusal :=
  .next (writeCmpwKeysel req ((w ||| 0x80000000) &&& ~~~0x40000000) s)

/-- CMPW_RELEASE: a write of CMPW_KEYSEL with release. -/
def execCmpwRelease (req : Requester) (w : Word) (s : State) : Host.Outcome State Fault Refusal :=
  .next (writeCmpwKeysel req (w ||| 0x40000000) s)

/-- The output and the next chaining value of the block in progress (R269, R272). -/
def Cmpw.block (c : Cmpw) : List Byte × List Byte :=
  let din := blockOf c.din
  let len := fld c.run 16 5
  match fld c.run 4 2 with
  | 0 =>
    if c.run.getLsbD 2 then (xorBytes (Aes.decBlock c.key din) c.chain, din)
    else let y := Aes.encBlock c.key (xorBytes din c.chain); (y, y)
  | 1 => (xorBytes din (Aes.encBlock c.key c.chain), counterAdd 4 1 c.chain)
  | _ =>
    if c.run.getLsbD 9 then
      let y := cmacEnd c.key { x := c.chain, b := din.take len }
      (y, y)
    else (zeros 16, Aes.encBlock c.key (xorBytes din c.chain))

/-- The meaning of CMPW_BLOCK_DONE (R272): the block in progress completes unless it waits for wake authentication. -/
def doCmpwBlockDone (s : State) : State :=
  let c := s.crypt.cmpw
  if c.busy && !c.loading && !c.yielded && c.keyReady then
    let r := c.block
    let s1 := s.modCmpw fun x =>
      { x with
        dout := regsOf r.1, chain := r.2, busy := false, done := true
        iv := if fld x.run 4 2 < 2 then regsOf r.2 else x.iv }
    if c.ctrl.getLsbD 31 then s1.raise 6 0 else s1
  else s

/-- CMPW_BLOCK_DONE. -/
def execCmpwBlockDone (s : State) : Host.Outcome State Fault Refusal := .next (doCmpwBlockDone s)

/-- The key that slot and labels give (R271, R281). -/
def State.cmpwKey (s : State) : List Byte :=
  let l := fun (k : Nat) => (s.crypt.cmpw.label.getD k 0)
  kdf (s.slot s.crypt.cmpw.keySlot).key (fld (l 3) 16 16) ((l 0).toNat + 2 ^ 32 * (l 1).toNat) (fld (l 3) 0 8) (l 2).toNat 128

/-- The meaning of CMPW_LOAD_DONE (R271): the derivation completes, and key_ready sets. -/
def doCmpwLoadDone (s : State) : State :=
  if s.crypt.cmpw.loading && (s.slot s.crypt.cmpw.keySlot).loaded && !s.crypt.sealed then
    s.modCmpw fun x => { x with key := s.cmpwKey, keyReady := true, busy := false, loading := false }
  else s

/-- CMPW_LOAD_DONE. -/
def execCmpwLoadDone (s : State) : Host.Outcome State Fault Refusal := .next (doCmpwLoadDone s)

/-- The meaning of CMPW_YIELD_END (R265): wake verification ends, and a yielded start proceeds. -/
def doCmpwYieldEnd (s : State) : State :=
  (s.modCrypt fun x => { x with verifying := false }).modCmpw fun c => { c with yielded := false }

/-- CMPW_YIELD_END. -/
def execCmpwYieldEnd (s : State) : Host.Outcome State Fault Refusal := .next (doCmpwYieldEnd s)

/-- A read of the CMPW block (R266 to R272). -/
def readCmpw (off : Nat) (s : State) : Word :=
  let c := s.crypt.cmpw
  if !s.cmpwOn then 0
  else if off = 0x00 then 0x02100100
  else if off = 0x04 then c.ctrl
  else if off = 0x08 then
    atBit 8 2 c.owner ||| atBit 4 4 c.err ||| atBit 3 1 (bit c.yielded) ||| atBit 2 1 (bit c.keyReady) |||
      atBit 1 1 (bit c.done) ||| atBit 0 1 (bit c.busy)
  else if off = 0x0C then atBit 0 4 c.slot
  else if 0x10 ≤ off ∧ off < 0x20 then c.label.getD ((off - 0x10) / 4) 0
  else if 0x20 ≤ off ∧ off < 0x30 then c.iv.getD ((off - 0x20) / 4) 0
  else if 0x40 ≤ off ∧ off < 0x50 then (if c.busy then 0 else c.dout.getD ((off - 0x40) / 4) 0)
  else 0

/-- A write of the CMPW block (R266 to R272). -/
def writeCmpw (r : Requester) (off : Nat) (w : Word) (s : State) : State :=
  let c := s.crypt.cmpw
  if !s.cmpwOn then s
  else if off = 0x04 then writeCmpwCtrl r w s
  else if off = 0x08 then (s.modCmpw fun x => { x with done := x.done && !w.getLsbD 1 }).ownerWrote r
  else if off = 0x0C then writeCmpwKeysel r w s
  else if 0x10 ≤ off ∧ off < 0x20 then
    let k := (off - 0x10) / 4
    (s.modCmpw fun x => { x with label := x.label.set k (if k = 3 then w &&& 0xFFFF00FF else w) }).ownerWrote r
  else if 0x20 ≤ off ∧ off < 0x40 then
    if c.shut r then s.modCmpw fun x => { x with err := 5 }
    else if c.busy then s.ownerWrote r
    else if off < 0x30 then (s.modCmpw fun x => { x with iv := x.iv.set ((off - 0x20) / 4) w }).ownerWrote r
    else (s.modCmpw fun x => { x with din := x.din.set ((off - 0x30) / 4) w }).ownerWrote r
  else s

end Sys2Proof.Machine
end

