-- ==== Sys2Proof/Machine/Faults.lean ====
section
/-!
DEFINITION. Translation faults, their restart and abort (R401 to R407 of 15_memory_and_fabric), and uncorrectable words and
lines (R508, R509 of 20_resilience_and_tamper).
-/
namespace Sys2Proof.Machine

/-- The role that owns a cipher channel (R245): the key service of channel 12 is taken as the host role's (DEDUCED). -/
def channelRole (c : Nat) : Role :=
  match c with
  | 8 => .radio
  | 9 => .field
  | 10 => .decision
  | 13 => .radio
  | 15 => .decision
  | _ => .host

/-- The role that owns a requester's fault records (R403). -/
def ownerRole (req sub : Nat) : Role :=
  if req < 0x0A then .host
  else
    match req with
    | 0x0A => .radio
    | 0x0B => .radio
    | 0x0C => .radio
    | 0x0D => .field
    | 0x0E => .decision
    | _ => channelRole sub

/-- The role that owns a record. -/
def FaultRec.owner (r : FaultRec) : Role := ownerRole r.requester r.sub

/-- The FTU queues records for this requester: not for a core pair, the iterated core or a host requester (R403, R410). -/
def queuesFault (req : Nat) : Bool := decide (4 ≤ req) && decide (req ≤ 0x10)

/-- The requester's code is one of the cipher pipeline's. -/
def isCipher (req : Nat) : Bool := req == reqCipherRead || req == reqCipherWrite

/-- The message in flight that an access of the cipher pipeline belongs to (R399): the present one of the channel or its suspended
one; none for a descriptor at its admission. -/
def State.accessHolder (s : State) (req sub ref : Nat) : Option Nat :=
  let hit := fun (o : Option Msg) => (o.map fun m => m.desc.seq) == some ref
  if !isCipher req then none
  else if hit (s.chan sub).cur then some sub
  else if hit (s.chan sub).susp then some (sub + 32)
  else none

/-- The kind of the fault of one access (R401). -/
def State.faultKind (s : State) (req sub access ref vaddr : Nat) (holdable : Bool) : Option Nat :=
  match s.translate req vaddr (access == 1) holdable (s.accessHolder req sub ref) with
  | .error k => some k
  | .ok _ => none

/-- A record takes its place in its role's queue of 64 (R403, R404). -/
def State.queueFault (r : FaultRec) (s : State) : State :=
  let k := roleNo r.owner
  if ((s.fab.faults.filter fun x => x.queued && x.owner == r.owner).length < 64) then
    s.modFab fun f =>
      { f with
        faults := f.faults ++ [{ r with queued := true, recSeq := f.recSeqs.getD k 0, dueNs := s.now + 10000000 }]
        recSeqs := f.recSeqs.modify k fun n => (n + 1) % 0x10000 }
  else s.modFab fun f => { f with faults := f.faults ++ [{ r with queued := false }] }

/-- The message of a cipher channel that names the descriptor stalls or goes on (R402). -/
def State.stallMsg (c ref : Nat) (on : Bool) (s : State) : State :=
  let f := fun (o : Option Msg) => o.map fun m => if m.desc.seq = ref then { m with stalled := on } else m
  s.modChan c fun x => { x with cur := f x.cur, susp := f x.susp }

/-- The block of a write that faults has been computed and checked: its output stays in its pool buffer (R262). -/
def State.keepBlock (s : State) (c : Nat) (m0 : Msg) : Msg :=
  let m := s.opened c m0
  let d := m.desc
  let p := m.mid.getD (0, m.ch)
  let data := s.msgRead c m (d.src + p.1) (min 16 (d.dataLen - p.1))
  let out := chainOut d.mode m.key d.nonceLen p.2 data
  if d.late || out.isEmpty then m0
  else
    { m with
      mid := some (p.1 + data.length, chainStep d.mode (d.op == 1) m.key d.nonceLen p.2 data out)
      kept := some (p.1, out), left := m.left - 1 }

/-- The present message of a cipher channel stalls (R262, R402): what it had written before the fault stands, and a block whose
write faulted is kept. -/
def State.stallAt (c ref bytesDone access : Nat) (s : State) : State :=
  let s1 := match (s.chan c).cur with
    | some m =>
      if m.desc.seq = ref ∧ m.host = false ∧ m.segDone = false ∧ m.stalled = false ∧ s.crypt.sealed = false then
        let q := s.parkAt c (min (bytesDone / 16 * 16) (m.desc.dataLen / 16 * 16)) m
        q.1.modChan c fun x => { x with cur := some (if access = 1 then q.1.keepBlock c q.2 else q.2) }
      else s
    | none => s
  s1.stallMsg c ref true

/-- A requester stands at a fault already (R402, R416): a message of the cipher, one direction of a port, or the engine. -/
def State.faulted (s : State) (req sub ref : Nat) : Bool :=
  s.fab.faults.any fun r =>
    if isCipher req then isCipher r.requester && r.sub == sub && r.descRef == ref
    else r.requester == req && (r.sub == sub || decide (req < 4) || decide (9 < req))

/-- The meaning of TRANSLATION_FAULT (R401 to R404): the access that fails is counted; a requester other than a core pair stalls
with a record. -/
def doTranslationFault (req sub access : Nat) (vaddr : Word) (ref bytesDone : Nat) (holdable : Bool) (s : State) : State :=
  match s.faultKind req sub access ref vaddr.toNat holdable with
  | none => s
  | some k =>
    if s.faulted req sub ref || decide (0x11 < req) then s
    else
      let s1 := s.modFab fun f =>
        { f with
          reqCounts := f.reqCounts.modify req fun n => satAdd 0xFFFFFFFF n 1
          kindCounts := f.kindCounts.modify (k - 1) fun n => satAdd 0xFFFFFFFF n 1 }
      if !queuesFault req then s1
      else
        let s2 := s1.queueFault
          { requester := req, kind := k, access := access, sub := sub, vaddr := vaddr, descRef := ref
            bytesDone := bytesDone / 16 * 16, epoch := s.tbu.epoch, ns := s.now }
        if isCipher req then s2.stallAt sub ref bytesDone access else s2

/-- TRANSLATION_FAULT. -/
def execTranslationFault (requester sub access : Nat) (vaddr : Word) (descRef bytesDone : Nat) (holdable : Bool) (s : State) :
    Host.Outcome State Fault Refusal :=
  .next (doTranslationFault requester sub access vaddr descRef bytesDone holdable s)

/-- The record that a role resolves next for a requester: the first in its queue (R407). -/
def State.nextFault (s : State) (req : Nat) : Option FaultRec := s.fab.faults.find? fun r => r.requester == req && r.queued

/-- A record is resolved; the oldest stalled requester of the same role takes the place that frees (R403). -/
def State.dropFault (r : FaultRec) (s : State) : State :=
  let s1 := s.modFab fun f => { f with faults := f.faults.erase r }
  match s1.fab.faults.find? fun x => !x.queued && x.owner == r.owner with
  | some x => (s1.modFab fun f => { f with faults := f.faults.erase x }).queueFault x
  | none => s1

/-- The two table entries of a requester's page are written and the page is invalidated (R398, R400). -/
def State.mapPage (req : Nat) (vaddr l1 l2 : Word) (s : State) : State :=
  let top := (s.fab.tables.getD req 0).toNat / 4096 * 4096 + 4 * (vaddr.toNat / 4194304)
  let low := l1.toNat / 4096 * 4096 + 4 * (vaddr.toNat / 4096 % 1024)
  (s.modMem fun m => Memory.writeWord (Memory.writeWord m top l1) low l2).modFab fun f =>
    { f with tlb := f.tlb.filter fun t => !(t.1 == req && t.2.1.toNat == vaddr.toNat / 4096) }

/-- The tables lie in the Axiesis region of SRAM (R395, R398). -/
def State.tablesFit (s : State) (req : Nat) (l1 : Word) : Bool :=
  decide ((s.fab.tables.getD req 0).toNat / 4096 * 4096 + 4096 ≤ 0x30_0000) && decide (l1.toNat / 4096 * 4096 + 4096 ≤ 0x30_0000)

/-- The meaning of FAULT_RESTART (R406): the role makes the translation good, and the requester goes on. -/
def doFaultRestart (req : Nat) (l1 l2 : Word) (s : State) : State :=
  match s.nextFault req with
  | none => s
  | some r =>
    let s1 := s.mapPage req r.vaddr l1 l2
    if !s.rolePlaced r.owner || !s.tablesFit req l1 ||
        (s1.faultKind req r.sub r.access r.descRef r.vaddr.toNat (r.kind == kindNotHoldable)).isSome then s
    else
      let s2 := s1.dropFault r
      if isCipher req then s2.stallMsg r.sub r.descRef false else s2

/-- FAULT_RESTART. -/
def execFaultRestart (requester : Nat) (l1 l2 : Word) (s : State) : Host.Outcome State Fault Refusal :=
  .next (doFaultRestart requester l1 l2 s)

/-- The descriptor of a cipher channel ends with WINDOW_FAULT and bytes_done 0 (R406, R407): the present message, a suspended
one, or a descriptor still queued. -/
def State.abortCipher (c ref : Nat) (s : State) : State :=
  let hit := fun (o : Option Msg) => match o with
    | some m => m.desc.seq == ref
    | none => false
  let s1 := s.stallMsg c ref false
  if hit (s1.chan c).cur then s1.killCur c Status.windowFault
  else if hit (s1.chan c).susp then s1.killSusp c Status.windowFault
  else
    match (s1.chan c).queue.findIdx? fun q => q.desc.seq == ref with
    | some i => s1.endQueued c i Status.windowFault
    | none => s1

/-- The reception that a lost impulse response belonged to counts as lost, uncounted (R406). -/
def State.loseReception (s : State) : State :=
  let s1 := s.modRadio fun r => { r with cirs := [] }
  match s1.awaiting true with
  | some (_, l) => if l.pollDue || l.attempt == 0 then s1 else s1.loseAttempt l
  | none => s1

/-- The outcome of an abort by requester (R406). -/
def State.abortOutcome (req sub ref : Nat) (s : State) : State :=
  if isCipher req then s.abortCipher sub ref
  else if 4 ≤ req ∧ req ≤ 9 then s.modStat (req - 4) fun x => { x with discarded := satAdd 0xFFFFFFFF x.discarded 1 }
  else if req = 0x0A ∨ req = 0x0B then s.loseReception
  else if req = 0x0C then s.modRadio fun r => { r with rxUhf := none }
  else if req = 0x0D then
    (match s.lf.flight.find? fun b => b.id == ref with
    | some b => s.stopBurst b
    | none => s)
  else s

/-- A record is aborted (R406). -/
def State.abortFault (r : FaultRec) (s : State) : State :=
  ((s.dropFault r).modFab fun f => { f with aborted := satAdd 0xFFFF f.aborted 1 }).abortOutcome r.requester r.sub r.descRef

/-- The meaning of FAULT_ABORT (R406): the owning role ends the descriptor. -/
def doFaultAbort (req : Nat) (s : State) : State :=
  match s.nextFault req with
  | some r => if s.rolePlaced r.owner then s.abortFault r else s
  | none => s

/-- FAULT_ABORT. -/
def execFaultAbort (requester : Nat) (s : State) : Host.Outcome State Fault Refusal := .next (doFaultAbort requester s)

/-- The meaning of FAULT_ABORT_TIMEOUT (R406): the first record unresolved for 10 ms, which do not run while its role migrates. -/
def doFaultAbortTimeout (s : State) : State :=
  match s.fab.faults.find? fun r => r.queued && decide (r.dueNs ≤ s.now) && s.rolePlaced r.owner with
  | some r => s.abortFault r
  | none => s

/-- FAULT_ABORT_TIMEOUT. -/
def execFaultAbortTimeout (s : State) : Host.Outcome State Fault Refusal := .next (doFaultAbortTimeout s)

/-! ### Core pairs (R30 to R33, R506) -/

/-- A role begins to migrate: the radio role's exchange is abandoned, its held commands complete with DEADLINE_MISSED, and its
sequencer goes to STANDBY (R162). -/
def State.radioMigrates (s : State) : State :=
  if s.radio.st = .off then s
  else
    let cut := fun (l : Lane) => if l.opened && l.outcome.isNone then { l with aborted := true } else l
    let s1 := s.modSess fun x => { x with cur := x.cur.map fun r => { r with lanes := r.lanes.map cut } }
    let s2 := s1.radio.held.foldl (fun (t : State) c => t.seqDone c.op Status.deadlineMissed) (s1.modRadio fun r => { r with held := [] })
    s2.idleNow

/-- Roles begin to migrate, the decision role first (R30, R31). -/
def State.migrate (rs : List Role) (s : State) : State :=
  let new := rs.filter fun r => !s.cores.migrating.contains r
  let all := s.cores.migrating ++ new
  let s1 := s.modCores fun c =>
    { c with
      migrating := all.filter (· == .decision) ++ all.filter (· != .decision)
      migrNs := new.foldl (fun l r => l.set (roleNo r) s.now) c.migrNs }
  if new.contains .radio then s1.radioMigrates else s1

/-- The roles that a pair carries. -/
def State.rolesOn (s : State) (p : Nat) : List Role :=
  [Role.decision, .radio, .field, .host].filter fun r => s.pairOf r == p

/-- A pair has diverged three times within 24 h, less the uncertainty, in the present epoch (R333, R506). -/
def State.thirdDivergence (s : State) (p : Pair) : Bool :=
  decide (3 ≤ (p.stamps.filter fun x => x.2 == s.tbu.epoch && decide (s.sinceLess x.1 < dayNs)).length)

/-- A pair updated. -/
def State.modPair (p : Nat) (f : Pair → Pair) (s : State) : State :=
  s.modCores fun c => { c with pairs := c.pairs.modify p f }

/-- The meaning of PAIR_DIVERGENCE (R30, R32, R388, R506): the pair leaves service and runs its self-test unless it is retired; a
second divergence is a recovery reset. -/
def State.diverge (p : Nat) (s : State) : State :=
  if 4 ≤ p ∨ s.pairUp p = false ∨ s.pdOn (1 + p) = false ∨ s.boot.phase ≠ .running then s
  else
    let s1 := s.modPair p fun x => { x with stamps := x.stamps ++ [(s.now, s.tbu.epoch)] }
    let gone := s1.thirdDivergence (s1.cores.pairs.getD p {})
    let s2 := (s1.modPair p fun x => { x with inService := false, testing := !gone, retired := x.retired || gone }).healthFree
      0x0001 p 1
    let s3 := if gone then s2.healthFree 0x0003 p 2 else s2
    if (List.range 4).any fun q => q != p && !s.pairUp q then s3.recoveryReset 1
    else (s3.retractCore p).migrate (s3.rolesOn p)

/-- PAIR_DIVERGENCE. -/
def execPairDivergence (pair : Nat) (s : State) : Host.Outcome State Fault Refusal := .next (s.diverge pair)

/-- The fault records of a role wait no longer: the time of its migration since they were queued does not count (R406). -/
def State.resumeFaults (r : Role) (s : State) : State :=
  let since := s.cores.migrNs.getD (roleNo r) s.now
  s.modFab fun f =>
    { f with
      faults := f.faults.map fun x =>
        if x.queued && x.owner == r then { x with dueNs := x.dueNs + (s.now - max since (x.dueNs - 10000000)) } else x }

/-- What a role takes up once it is in place (R31, R92, R237): the notice of REVOKING and the durations of R226 start afresh. -/
def State.roleResumes (r : Role) (s : State) : State :=
  match r with
  | .decision =>
    if s.rel.st = .revoking then (s.modRel fun x => { x with since := s.now }).restartHalves else s
  | .field => s.considerAll
  | .radio => s.settleLanes
  | .host => s

/-- The meaning of ROLE_MIGRATION_COMPLETE (R30, R31): the first role that migrates is in place. -/
def doRoleMigrationComplete (s : State) : State :=
  match s.cores.migrating with
  | [] => s
  | r :: rest =>
    let s1 := s.modCores fun c => { c with place := c.place.set (roleNo r) (s.placeFor r), migrating := rest }
    (((s1.resumeFaults r).roleResumes r).raise 14 4).evalDecision

/-- ROLE_MIGRATION_COMPLETE. -/
def execRoleMigrationComplete (s : State) : Host.Outcome State Fault Refusal := .next (doRoleMigrationComplete s)

/-- The meaning of PAIR_SELF_TEST_END (R33, R506). -/
def doPairSelfTestEnd (p : Nat) (passed : Bool) (s : State) : State :=
  if (s.cores.pairs.getD p {}).testing = false then s
  else if passed then
    (s.modPair p fun x => { x with testing := false, inService := true, retired := false }).healthFree 0x0002 p 3
  else (s.modPair p fun x => { x with testing := false, retired := true }).healthFree 0x0003 p 2

/-- PAIR_SELF_TEST_END. -/
def execPairSelfTestEnd (pair : Nat) (passed : Bool) (s : State) : Host.Outcome State Fault Refusal :=
  .next (doPairSelfTestEnd pair passed s)

/-- A role is away from a home pair that is in service. -/
def State.roleAway (s : State) (r : Role) : Bool := s.pairOf r != roleNo r && s.pairUp (roleNo r) && !s.cores.migrating.contains r

/-- A role is idle (R33): no command, session, burst, check or decision evaluation of it is in flight. A sequencer that sends,
ranges, settles or calibrates carries out a command of the radio role, and the decision role's revocation is under way from
the clear command to the end of its read-back window. -/
def State.roleIdle (s : State) (r : Role) : Bool :=
  !((List.range 8).any fun n => decide ((s.box n).st = .issued) && decide (roleOf (s.box n).opcode = r)) &&
    match r with
    | .radio =>
      s.sess.cur.isNone && s.sess.test.isNone && s.radio.testMb.isNone && s.radio.held.isEmpty &&
        [SeqState.off, .standby, .rxUhf, .rxUwb].contains s.radio.st
    | .field => s.lf.flight.isEmpty && s.pop.running.isNone
    | .decision => !s.rel.clearing
    | .host => true

/-- The meaning of ROLE_RETURN (R33): an idle role returns home, the decision role before any other. -/
def doRoleReturn (r : Role) (s : State) : State :=
  if s.rolesRun && s.roleAway r && s.roleIdle r && (r == .decision || !s.roleAway .decision) then s.migrate [r] else s

/-- ROLE_RETURN. -/
def execRoleReturn (role : Role) (s : State) : Host.Outcome State Fault Refusal := .next (doRoleReturn role s)

/-- The meaning of PAIR_RETIREMENT_END (R506): 24 h after its last divergence a retired pair runs its self-test. -/
def doPairRetirementEnd (p : Nat) (s : State) : State :=
  let x := s.cores.pairs.getD p {}
  if x.retired && !x.testing && s.retirementOver x && s.boot.phase == .running then
    s.modPair p fun y => { y with testing := true }
  else s

/-- PAIR_RETIREMENT_END. -/
def execPairRetirementEnd (pair : Nat) (s : State) : Host.Outcome State Fault Refusal := .next (doPairRetirementEnd pair s)

/-! ### Memory errors (R508, R509) -/

/-- The message of a channel that names the descriptor restarts from its present segment, its inputs read again (R261, R508). -/
def State.recomputeMsg (c ref : Nat) (s : State) : State :=
  let f := fun (o : Option Msg) => o.map fun m =>
    if m.desc.seq = ref then { m.restart with key := m.key, recomputed := true } else m
  s.modChan c fun x => { x with cur := f x.cur, susp := f x.susp }

/-- The meaning of UNCORRECTABLE_WORD (R508, R515): the word is poisoned, and its consumer acts; the iterated core, for which R508
has no rule, gives recovery cause 0x05. A host window's and a host's read find the poison themselves. -/
def doUncorrectableWord (a req sub ref : Nat) (s : State) : State :=
  if sramEnd ≤ a ∨ s.pdOn 6 = false then s
  else
    let s1 := (s.modFab fun f => { f with poison := if f.poison.contains (a / 8) then f.poison else f.poison ++ [a / 8] }).health1
      0x0011 req 0 a
    if req < 4 then s1.diverge req
    else if isCipher req then s1.recomputeMsg sub ref
    else if req ≤ 0x0E then s1.abortOutcome req sub ref
    else if req = 0x11 then s1.recoveryReset 5
    else s1

/-- UNCORRECTABLE_WORD. -/
def execUncorrectableWord (addr requester sub descRef : Nat) (s : State) : Host.Outcome State Fault Refusal :=
  .next (doUncorrectableWord addr requester sub descRef s)

/-- The counters of the latest ENERGY and CHARGE entries (R304, R509). -/
def State.entryCounters (s : State) : Counters × Int :=
  let e := s.ledger.latest.1
  let c := s.ledger.latest.2
  ({ eDis := uAt e 0 8, eChg := uAt e 8 8, qDis := uAt c 0 8, qChg := uAt c 8 8 }, iAt e 16 8)

/-- Both copies of the counters are lost: they resume from the latest entries, and the next summary has flag 3 set. -/
def State.resumeCounters (s : State) : State :=
  let p := s.entryCounters
  ((s.modMet fun m =>
    { m with
      pairA := p.1, pairB := p.1, billing := p.1, comA := p.1, comB := p.1, comBilling := p.1
      balance := p.2, comBalance := p.2 }).intervalFlag 3)

/-- A line of a structure whose copies are both uncorrectable (R509). What an attachment counter or an alarm stamp then holds
the spec does not state. -/
def State.loseBoth (line : MramLine) (s : State) : State :=
  match line with
  | .record i _ =>
    (match s.parts.table.find? fun p => p.1 == i with
    | some (_, r) => s.changeRec i r { r.removedAs with
        removed := false, failCount := 9, lastFailNs := s.now, decayRefNs := s.now, stampEpoch := s.tbu.epoch
        lastSeenNs := s.now, seenEpoch := s.tbu.epoch }
    | none => s)
  | .attach a => (s.modAttach a fun c => { c with count := s.freeVal % 256 }).drawn
  | .stamps =>
    (s.modCrypt fun x => { x with alarms := x.alarms.map fun _ => (s.freeVal % 2 ^ 64, s.freeVal / 2 ^ 64 % 2 ^ 32) }).drawn
  | .slot k =>
    let s1 := (s.eraseSlot k).modSlot k fun x => { x with mark := x.mark + 2 ^ 32 }
    (s1.keyEntry k (s.freeVal % 256)).drawn
  | .counters => s.resumeCounters
  | _ => s

/-- A line of a structure whose other copy is good (R509): a record is read from the other copy, which may be the older (R42);
the copies of the other structures hold the same. -/
def State.loseOne (line : MramLine) (s : State) : State :=
  match line with
  | .record i lower => s.loseCopy i lower
  | _ => s

/-- The meaning of MRAM_UNCORRECTABLE_LINE (R509): a two-copy structure is served from its other copy unless both are lost; a
bank is marked refused; a Moraine entry reads as it may, and its seq is recorded. -/
def doMramUncorrectableLine (line : MramLine) (offset : Nat) (both : Bool) (s : State) : State :=
  match line with
  | .firmware b => (s.modFwBank b fun k => { k with refused := true }).health1 0x0013 0 0 offset
  | .meton b => (s.modMetonBank b fun k => { k with bad := true, st := 4 }).health1 0x0013 0 0 offset
  | .moraine q =>
    ((s.modLedger fun l =>
      { l with ring := l.ring.map fun e => if e.seq = q then { e with body := s.freeBytes 24 } else e }).drawn).health1 0x0013 0 0 q
  | l => (if both then s.loseBoth l else s.loseOne l).health1 0x0013 0 0 offset

/-- MRAM_UNCORRECTABLE_LINE. -/
def execMramUncorrectableLine (line : MramLine) (offset : Nat) (both : Bool) (s : State) : Host.Outcome State Fault Refusal :=
  .next (if s.pdOn 6 then doMramUncorrectableLine line offset both s else s)

end Sys2Proof.Machine
end

