-- ==== Sys2Proof/Machine/Jtag.lean ====
section
/-!
DEFINITION. The TAP, the boundary chain and the loop tests (R560 to R566 of 22_package_electrical_test).
-/
namespace Sys2Proof.Machine

/-- SAMPLE/PRELOAD (R561). -/
def irSample : Nat := 0x02
/-- EXTEST (R561). -/
def irExtest : Nat := 0x00
/-- CLAMP (R561). -/
def irClamp : Nat := 0x04
/-- LFLOOP (R561). -/
def irLfloop : Nat := 0x10
/-- RFLOOP (R561). -/
def irRfloop : Nat := 0x11

/-- Each output cell with its control cell (R564). -/
def outputCells : List (Nat × Nat) :=
  ((List.range 16).map fun k => (3 * k + 1, 3 * k + 2)) ++ [(48, 49)] ++ ((List.range 4).map fun k => (54 + 2 * k, 55 + 2 * k)) ++
    [(63, 64), (68, 69)] ++ ((List.range 4).map fun k => (70 + 2 * k, 71 + 2 * k)) ++ [(78, 79), (80, 81), (90, 91), (93, 94), (97, 98)] ++
    ((List.range 4).map fun k => (101 + 2 * k, 102 + 2 * k)) ++ [(109, 110)]

/-- A cell as the pins see it: after production lock the permission outputs read 0 and their controls 1 (R563). -/
def cellOf (locked : Bool) (cells : List Bool) (i : Nat) : Bool :=
  if locked && (i == 78 || i == 80) then false
  else if locked && (i == 79 || i == 81) then true
  else cells.getD i false

/-- An open-drain line's output cell (R564): IRQ0_N to IRQ3_N. -/
def openDrain (i : Nat) : Bool := decide (70 ≤ i) && decide (i ≤ 77)

/-- What the chain drives on each output cell's pin; none where it drives nothing (R561, R563, R564). -/
def chainPins (locked : Bool) (cells : List Bool) : List (Option Bool) :=
  (List.range 111).map fun i =>
    match outputCells.find? fun p => p.1 == i with
    | some (o, c) =>
      let v := cellOf locked cells o
      if cellOf locked cells c && !(openDrain o && v) then some v else none
    | none => none

/-- The pins under the present instruction: EXTEST and CLAMP drive them from the boundary register (R561). -/
def State.drivePins (s : State) : State :=
  s.modJtag fun j =>
    { j with
      pins := if (j.ir == irExtest || j.ir == irClamp) && !j.bypassed then chainPins s.boot.locked j.boundary
        else List.replicate 111 none }

/-- The instruction register takes a code; an intrusive one acts as BYPASS after production lock while the latch is set
(R563). -/
def State.setIr (code : Nat) (s : State) : State :=
  (s.modJtag fun j =>
    { j with ir := code, bypassed := intrusiveIr code && s.boot.locked && s.rel.latch, lfloop := none, rfloop := none }).drivePins

/-- The instruction changes: entering or leaving an intrusive one takes a system reset (R562). -/
def State.changeIr (code : Nat) (s : State) : State :=
  if s.psc.state = .nunatakHold then s
  else
    let s1 := s.setIr code
    if s.testCurrent && s1.testCurrent && code == s.jtag.ir then s1
    else if s.testCurrent || s1.testCurrent then s1.systemReset 2
    else s1

/-- UPDATE_IR (R562). -/
def execUpdateIr (code : Nat) (s : State) : Host.Outcome State Fault Refusal := .next (s.changeIr (code % 32))

/-- The meaning of UPDATE_DR (R561): SAMPLE/PRELOAD and EXTEST select the boundary register. -/
def doUpdateDr (cells : List Bool) (s : State) : State :=
  if s.psc.state ≠ .nunatakHold ∧ cells.length = 111 ∧ (s.jtag.ir = irSample ∨ (s.jtag.ir = irExtest ∧ s.jtag.bypassed = false)) then
    (s.modJtag fun j => { j with boundary := cells }).drivePins
  else s

/-- UPDATE_DR. -/
def execUpdateDr (cells : List Bool) (s : State) : Host.Outcome State Fault Refusal := .next (doUpdateDr cells s)

/-- TAP_RESET (R560): IDCODE is loaded. -/
def execTapReset (s : State) : Host.Outcome State Fault Refusal := .next (s.changeIr 1)

/-- The test hold with an instruction current, and line power present (R562, R565). -/
def State.loopOf (s : State) (code : Nat) : Bool :=
  s.boot.phase == .testHold && s.jtag.ir == code && !s.jtag.bypassed && s.lineUp

/-- LFLOOP (R565): the register's 72 bits. -/
def execLfloop (pass : BitVec 64) (vlf vint : Bool) (s : State) : Host.Outcome State Fault Refusal :=
  .next (if s.loopOf irLfloop then
      s.modJtag fun j =>
        { j with lfloop := some (BitVec.ofNat 72 (pass.toNat + 2 ^ 64 + 2 ^ 65 * bit vlf + 2 ^ 66 * bit vint)) }
    else s)

/-- RFLOOP (R566): the register's 64 bits. -/
def execRfloop (checks : BitVec 6) (dA dB : Nat) (s : State) : Host.Outcome State Fault Refusal :=
  .next (if s.loopOf irRfloop then
      s.modJtag fun j =>
        { j with rfloop := some (BitVec.ofNat 64 (1 + 2 * checks.toNat + 2 ^ 16 * (dA % 2 ^ 16) + 2 ^ 32 * (dB % 2 ^ 16))) }
    else s)

end Sys2Proof.Machine
end

