-- ==== Sys2Proof/Machine/Mailboxes.lean ====
section
/-!
DEFINITION. The mailboxes (R428 to R443 of 16_mailboxes): the doorbell and the admission of a command, its start and its
limit, the command and result areas, and the acknowledgement.
-/
namespace Sys2Proof.Machine

/-! ### What each command checks (R432, R444) -/

/-- A command's own checks: its payload's fields, and its preconditions. -/
abbrev CmdCheck := (List Byte → Bool) × (State → Mailbox → Option Nat)

/-- Every payload of the right length is in range. -/
def anyPayload (_ : List Byte) : Bool := true

/-- The checks of the families sys, cfg and part. -/
def checkLow : Nat → CmdCheck
  | 0x0102 => (wfSysReset, noPre)
  | 0x0103 => (wfSysEvent, noPre)
  | 0x0104 => (wfSysHealth, noPre)
  | 0x0201 => (wfCfgLoad, preCfgLoad)
  | 0x0202 => (anyPayload, preCfgActivate)
  | 0x0204 => (wfCfgSet, preCfgSet)
  | 0x0205 => (anyPayload, preCfgGet)
  | 0x0301 => (wfPartEnrol, prePartEnrol)
  | 0x0302 => (anyPayload, prePartEnrolOpen)
  | 0x0303 => (wfIdentity, prePartGet)
  | 0x0304 => (wfPartList, noPre)
  | 0x0305 => (wfPartSet, prePartSet)
  | 0x0306 => (wfIdentity, prePartAbsent)
  | 0x0307 => (wfIdentity, prePartKept)
  | 0x0308 => (wfIdentity, prePartKept)
  | 0x0309 => (wfPartUnlock, prePartUnlock)
  | _ => (anyPayload, noPre)

/-- The checks of the families sess, range, lf, rf and rel. -/
def checkMid : Nat → CmdCheck
  | 0x0401 => (wfSessPoll, preSessPoll)
  | 0x0403 => (anyPayload, preSessLast)
  | 0x0502 => (wfRangeTest, preRangeTest)
  | 0x0602 => (anyPayload, preLfDiag)
  | 0x0603 => (wfLfTune, noPre)
  | 0x0604 => (wfLfPhase, preLfPhase)
  | 0x0605 => (anyPayload, preLfPopulation)
  | 0x0702 => (anyPayload, preRfCal)
  | 0x0703 => (wfRfTest, preRfHold)
  | 0x0704 => (wfRfCapture, preRfHold)
  | 0x0801 => (wfRelConsent, noPre)
  | 0x0802 => (anyPayload, preRelRevoke)
  | 0x0803 => (anyPayload, preRelCancel)
  | _ => (anyPayload, noPre)

/-- The checks of the other families. -/
def checkHigh (mb : Nat) : Nat → CmdCheck
  | 0x0901 => (wfCryptChan, preCryptChan)
  | 0x0902 => (wfCryptSubmit, preCryptSubmit mb)
  | 0x0903 => (wfCryptDone, noPre)
  | 0x0904 => (wfCtxOpen, preCtxOpen)
  | 0x0905 => (wfCtxClose, preCtxClose)
  | 0x0906 => (wfCtxSave, preCtxSave)
  | 0x0907 => (wfCtxRestore, noPre)
  | 0x0A01 => (wfKeyWrite, preKeyWrite)
  | 0x0A02 => (wfKeySlot, preKeyErase)
  | 0x0A03 => (wfKeySlot, noPre)
  | 0x0A04 => (anyPayload, preReprovBegin)
  | 0x0A05 => (wfReprovFinish, preReprovFinish)
  | 0x0B03 => (wfLedgExport, preLedgExport)
  | 0x0B04 => (anyPayload, preLedgAck)
  | 0x0C02 => (wfTimeCivil, preTimeCivil)
  | 0x0D02 => (wfPwrSleep, prePwrSleep)
  | 0x0E02 => (wfDiagFaults, noPre)
  | 0x0F01 => (wfFwWrite, preFwWrite)
  | 0x0F02 => (wfFwActivate, preFwActivate)
  | _ => (anyPayload, noPre)

/-- The checks of a command. -/
def cmdCheck (mb op : Nat) : CmdCheck :=
  if op < 0x0400 then checkLow op else if op < 0x0900 then checkMid op else checkHigh mb op

/-! ### Admission (R432) -/

/-- Check 1: reserved fields and flag bits 0, length at most 240, priority at most 7. -/
def headerOk (run : List Byte) : Bool :=
  decide (uAt run 4 2 ≤ 1) && decide (uAt run 6 2 ≤ 240) && decide (uAt run 9 1 ≤ 7) && zeroAt run 10 2

/-- The commands that the ROM accepts while no firmware bank verifies (R541). -/
def romAccepts (op : Nat) : Bool := [0x0101, 0x0F01, 0x0F02, 0x0F03].contains op

/-- Check 2: a defined command; without firmware only the ROM's own (R541). -/
def State.serves (s : State) (op : Nat) : Bool := (cmdRow op).isSome && (s.boot.phase != .bankless || romAccepts op)

/-- The window byte suits the command (R445). -/
def windowModeOk (row : CmdRow) (b : Mailbox) : Bool :=
  match row.win with
  | .none => !b.hasWindow
  | .required => b.hasWindow
  | .optional => true

/-- The window that a command names, where it names one, is enabled (R432). -/
def State.windowEnabled (s : State) (b : Mailbox) : Bool :=
  !b.hasWindow || (decide (b.window < 16) && (s.win b.window).en)

/-- The range in the window that a payload names, and the permissions (R410, R445). -/
def State.windowRangeOk (s : State) (b : Mailbox) : Bool :=
  let u := Sys2Proof.Machine.windowUse b.opcode b.payload
  !b.hasWindow || (u.2.1 == 0) || s.winOk b.window u.1 u.2.1 u.2.2.1 u.2.2.2

/-- A role holds sixteen commands besides this one (R445). -/
def State.roleFull (s : State) (mb : Nat) (b : Mailbox) : Bool :=
  decide (16 ≤ ((List.range 8).filter fun n =>
    n != mb && decide ((s.box n).st = .issued) && roleOf (s.box n).opcode == roleOf b.opcode).length)

/-- The status that admission refuses a command with, by the first check that fails (R432); none admits it. -/
def State.admission (s : State) (mb : Nat) : Option Nat :=
  let b := s.box mb
  match cmdRow b.opcode with
  | none => some Status.invalid
  | some row =>
    let c := cmdCheck mb b.opcode
    if !headerOk b.run || !s.serves b.opcode || !windowModeOk row b then some Status.invalid
    else if !s.windowEnabled b then some Status.windowFault
    else if uAt b.run 6 2 ≠ row.len ∨ c.1 b.payload = false then some Status.invalid
    else if !s.windowRangeOk b then some Status.windowFault
    else if s.roleFull mb b then some Status.busy
    else c.2 s b

/-- The ring takes a copy of the command area (R432). -/
def State.ring (mb : Nat) (s : State) : State :=
  (s.modMbx fun m => { m with ringSeq := m.ringSeq + 1 }).modBox mb fun b =>
    { b with
      st := .issued, run := bytesOf b.cmd, started := false, waiting := false, committed := false, ringNs := s.now
      ringSeq := s.mbx.ringSeq + 1, winHeld := none, cfgWas := none, imageKey := none }

/-- An admitted command's window is busy until the result is posted (R410). -/
def State.holdWindow (mb : Nat) (s : State) : State :=
  let b := s.box mb
  if b.hasWindow then (s.winTake b.window).modBox mb fun x => { x with winHeld := some b.window } else s

/-- An admitted cfg.activate checks its image's tag under the KS1 of this moment (R545). -/
def State.noteImageKey (mb : Nat) (s : State) : State :=
  if (s.box mb).opcode = opCfgActivate ∧ (s.slot 1).loaded = true then
    s.modBox mb fun b => { b with imageKey := some (s.slot 1).key }
  else s

/-- A refused crypt.submit can end the message that its segment breaks (R252). -/
def State.refuse (mb status : Nat) (s : State) : State :=
  (if (s.box mb).opcode = 0x0902 then s.submitBreaks mb else s).post mb status []

/-- A doorbell is work in Drift, and wakes Firn while PD6 is kept (R491). -/
def State.doorbellWake (s : State) : State :=
  match s.psc.state with
  | .firn => s.wakeSource 0x09
  | _ => s.wakeSource 0x0D

/-- The meaning of DOORBELL (R432): ignored with db_err unless the mailbox is FREE and the device ready. -/
def doDoorbell (mb : Nat) (s : State) : State :=
  if !(decide (mb < 8) && s.pdOn 6) then s
  else if (s.box mb).st ≠ .free ∨ s.mbx.ready = false then
    s.modMbx fun m => { m with dbErr := m.dbErr ||| BitVec.ofNat 8 (1 <<< mb) }
  else
    let s1 := s.ring mb
    (match s1.admission mb with
      | some status => s1.refuse mb status
      | none => (s1.holdWindow mb).noteImageKey mb).doorbellWake

/-- DOORBELL. -/
def execDoorbell (mb : Nat) (s : State) : Host.Outcome State Fault Refusal := .next (doDoorbell mb s)

/-! ### Start and limit (R433, R434) -/

/-- A mailbox holds a command queued to a role. -/
def State.queuedTo (s : State) (r : Role) (n : Nat) : Bool :=
  decide ((s.box n).st = .issued) && !(s.box n).started && roleOf (s.box n).opcode == r

/-- A mailbox's command starts before another's: by priority, then by the order of the rings (R433). -/
def startsBefore (a b : Mailbox) : Bool :=
  decide (uAt b.run 9 1 < uAt a.run 9 1) || (uAt a.run 9 1 == uAt b.run 9 1 && decide (a.ringSeq < b.ringSeq))

/-- The command that a role starts next (R433). -/
def State.nextCommand (s : State) (r : Role) : Option Nat :=
  ((List.range 8).filter (s.queuedTo r)).foldl (fun best n =>
    match best with
    | none => some n
    | some m => if startsBefore (s.box n) (s.box m) then some n else some m) none

/-- The role runs commands: in Run, in its place on a pair in service, or the ROM in its stead (R30, R541). -/
def State.roleServes (s : State) (r : Role) : Bool :=
  s.mbx.ready && (s.boot.phase == .bankless || (s.boot.phase == .running && s.psc.state == .run && s.rolePlaced r))

/-- The meaning of COMMAND_START (R433). -/
def doCommandStart (r : Role) (s : State) : State :=
  match s.nextCommand r with
  | some n => if s.roleServes r then s.modBox n fun b => { b with started := true } else s
  | none => s

/-- COMMAND_START. -/
def execCommandStart (role : Role) (s : State) : Host.Outcome State Fault Refusal := .next (doCommandStart role s)

/-- A list of mailboxes without one of them. -/
def without (mb : Nat) (ns : List Nat) : List Nat := ns.filter (· != mb)

/-- A waiting burst request no longer serves a mailbox; one that served it alone is withdrawn. -/
def dropBurst (mb : Nat) (b : Burst) : Option Burst :=
  if !b.mbs.contains mb then some b
  else if (without mb b.mbs).isEmpty && b.addressed.isNone then none
  else some { b with mbs := without mb b.mbs }

/-- A waiting burst request is no longer addressed to an identity; one that had no other requester is withdrawn (R93). -/
def dropIdent (ident : Nat) (b : Burst) : Option Burst :=
  let ids := b.addressed.toList ++ b.also
  let rest := without ident ids
  if !ids.contains ident then some b
  else if rest.isEmpty && !b.shared then none
  else some { b with addressed := rest.head?, also := rest.tail }

/-- The addressed requests of a test or an enrolment that ends are withdrawn. -/
def State.dropAddressed (ident : Nat) (s : State) : State :=
  s.modLf fun x => { x with waiting := x.waiting.filterMap (dropIdent ident) }

/-- The waiting requests, test, enrolment and results of a command that has missed its limit are given up: it has no effect
(R434). -/
def State.forget (mb : Nat) (s : State) : State :=
  let s1 := s.modLf fun x =>
    { x with waiting := x.waiting.filterMap (dropBurst mb), diagMbs := x.diagMbs.filter fun d => d.1 != mb }
  let s2 := s1.modPop fun p => { p with wantMbs := without mb p.wantMbs }
  let s3 := s2.modCheck fun k => { k with mbs := without mb k.mbs }
  let s4 := s3.modRadio fun r =>
    { r with
      calMbs := r.calMbs.filter fun q => q.1 != mb
      testMb := if r.testMb = some mb then none else r.testMb
      held := if r.testMb = some mb then r.held.filter fun c => c.op != .sendUhf && c.op != .sendUwb else r.held }
  let s5 := match s.sess.test with
    | some t => if t.mb = mb then (s4.dropAddressed t.identity).modSess fun y => { y with test := none } else s4
    | none => s4
  let s6 := match s.parts.enrol with
    | some e => if e.mb = mb then (s5.dropAddressed e.identity).modParts fun q => { q with enrol := none } else s5
    | none => s5
  if s.psc.sleepMb = some mb then
    s6.modPsc fun p => { p with sleepMb := none, entry := none, vote := false, trimWait := false, keep := 0 }
  else s6

/-- The command has reached its commit point (R434, R447): sys.reset at admission, pwr.sleep with its vote. -/
def State.hasCommitted (s : State) (mb : Nat) : Bool :=
  (s.box mb).committed || (s.box mb).opcode == opSysReset || (s.psc.committed && s.psc.sleepMb == some mb)

/-- The meaning of COMMAND_LIMIT (R434). -/
def doCommandLimit (mb : Nat) (s : State) : State :=
  if (s.box mb).st = .issued ∧ s.hasCommitted mb = false ∧ (s.box mb).limit ≤ s.now then
    ((s.forget mb).post mb Status.deadlineMissed []).considerAll
  else s

/-- COMMAND_LIMIT. -/
def execCommandLimit (mb : Nat) (s : State) : Host.Outcome State Fault Refusal := .next (doCommandLimit mb s)

/-! ### Areas and acknowledgement (R435 to R439) -/

/-- The meaning of COMMAND_AREA_WRITE (R439). -/
def doCommandAreaWrite (mb k : Nat) (w : Word) (s : State) : State :=
  if !(decide (mb < 8) && decide (k < 64) && s.pdOn 6) then s
  else if (s.box mb).st = .free then s.modBox mb fun b => { b with cmd := b.cmd.set k w }
  else s.modMbx fun m => { m with wrErr := m.wrErr ||| BitVec.ofNat 8 (1 <<< mb) }

/-- COMMAND_AREA_WRITE. -/
def execCommandAreaWrite (mb k : Nat) (w : Word) (s : State) : Host.Outcome State Fault Refusal :=
  .next (doCommandAreaWrite mb k w s)

/-- MBn_RESk (R430, R435): the synthetic header of NOT_READY before a posting. -/
def Mailbox.resWord (b : Mailbox) (k : Nat) : Word :=
  match b.st with
  | .posted => if k = 1 ∧ 2 ≤ b.reads then b.res.getD 1 0 ||| 0x10000 else b.res.getD k 0
  | _ => if k = 0 then atBit 16 16 (fld (b.cmd.getD 0 0) 16 16) ||| atBit 0 16 Status.notReady else 0

/-- A read of MBn_RES0: of a posted result it counts (R435). -/
def readRes0 (mb : Nat) (s : State) : Word × State :=
  let b := s.box mb
  (b.resWord 0, if b.st = .posted then s.modBox mb fun x => { x with reads := x.reads + 1 } else s)

/-- The meaning of MBN_RES0_READ (R435). -/
def doMbnRes0Read (mb : Nat) (s : State) : State :=
  if decide (mb < 8) && s.pdOn 6 then State.answered (readRes0 mb s) else s

/-- MBN_RES0_READ. -/
def execMbnRes0Read (mb : Nat) (s : State) : Host.Outcome State Fault Refusal := .next (doMbnRes0Read mb s)

/-- An acknowledgement of a mailbox with a sequence (R436). -/
def State.acknowledge (mb seq : Nat) (s : State) : State :=
  let b := s.box mb
  if b.st = .posted ∧ b.seq = seq then
    s.modBox mb fun x => { x with st := .free, res := List.replicate 64 0, reads := 0, run := [] }
  else s.modMbx fun m => { m with ackErr := m.ackErr ||| BitVec.ofNat 8 (1 <<< mb) }

/-- The meaning of MBX_ACK_WRITE (R436, R438). -/
def doMbxAckWrite (w : Word) (s : State) : State :=
  if s.pdOn 6 then s.acknowledge (fld w 0 3) (fld w 16 16) else s

/-- MBX_ACK_WRITE. -/
def execMbxAckWrite (w : Word) (s : State) : Host.Outcome State Fault Refusal := .next (doMbxAckWrite w s)

/-- A kept reply is dropped after 1 s (R427). -/
def State.dropKept (s : State) : State :=
  s.modMbx fun m => { m with kept := m.kept.filter fun k => decide (s.now < k.madeNs + 1000000000) }

/-- KEPT_REPLY_EXPIRY (R427). -/
def execKeptReplyExpiry (s : State) : Host.Outcome State Fault Refusal := .next s.dropKept

end Sys2Proof.Machine
end

