-- ==== Sys2Proof/Machine/Timers.lean ====
section
/-!
DEFINITION. Timers, the trigger matrix, alarms, compare pins and pin captures (13_timers).
-/
namespace Sys2Proof.Machine

/-- A timer. -/
def State.timer (s : State) (n : Nat) : Timer := s.tmr.timers.getD n {}

/-- A timer updated. -/
def State.modTimer (s : State) (n : Nat) (f : Timer → Timer) : State :=
  s.modTmr fun t => { t with timers := t.timers.modify n f }

/-- An alarm. -/
def State.alarm (s : State) (m : Nat) : Alarm := s.tmr.alarms.getD m {}

/-- An alarm updated. -/
def State.modAlarm (s : State) (m : Nat) (f : Alarm → Alarm) : State :=
  s.modTmr fun t => { t with alarms := t.alarms.modify m f }

/-- A compare pin. -/
def State.pin (s : State) (m : Nat) : CmpPin := s.tmr.pins.getD m {}

/-- A compare pin updated. -/
def State.modPin (s : State) (m : Nat) (f : CmpPin → CmpPin) : State :=
  s.modTmr fun t => { t with pins := t.pins.modify m f }

/-- A capture FIFO. -/
def State.capFifo (s : State) (n : Nat) : CapFifo := s.tmr.caps.getD n {}

/-- A capture FIFO updated. -/
def State.modCap (s : State) (n : Nat) (f : CapFifo → CapFifo) : State :=
  s.modTmr fun t => { t with caps := t.caps.modify n f }

/-- TMRn_CTRL.en (R368). -/
def Timer.en (t : Timer) : Bool := t.ctrl.getLsbD 0
/-- TMRn_CTRL.one_shot (R368). -/
def Timer.oneShot (t : Timer) : Bool := t.ctrl.getLsbD 2
/-- TMRn_CTRL.cmp0_mode: 1 is ATPAST (R368). -/
def Timer.past0 (t : Timer) : Bool := t.ctrl.getLsbD 3
/-- TMRn_CTRL.cmp1_mode (R368). -/
def Timer.past1 (t : Timer) : Bool := t.ctrl.getLsbD 4
/-- TMRn_CTRL.trig (R368). -/
def Timer.trig (t : Timer) : Nat := fld t.ctrl 7 6
/-- TMRn_CTRL.slave (R368). -/
def Timer.slave (t : Timer) : Nat := fld t.ctrl 13 3

/-- A TMR_EVT0 bit sets, and its event is raised when enabled (R372). -/
def State.tmrEvt0 (b : Nat) (s : State) : State :=
  let s1 := s.modTmr fun t => { t with evt0 := t.evt0 ||| word (1 <<< b) }
  if s.tmr.evt0En.getLsbD b then s1.raise (9 + b / 16) (b % 16) else s1

/-- A TMR_EVT1 bit sets, and its event is raised when enabled (R372). -/
def State.tmrEvt1 (b : Nat) (s : State) : State :=
  let s1 := s.modTmr fun t => { t with evt1 := t.evt1 ||| word (1 <<< b) }
  if s.tmr.evt1En.getLsbD b then s1.raise 11 b else s1

/-- A source code that names a level (R351). -/
def levelCode (c : Nat) : Bool := decide (0x19 ≤ c) && decide (c ≤ 0x24)

/-- The present level of a level source (R351). -/
def State.sourceLevel (s : State) (c : Nat) : Bool :=
  if 0x19 ≤ c ∧ c ≤ 0x20 then (s.timer (c - 0x19)).out
  else if 0x21 ≤ c ∧ c ≤ 0x24 then (s.capFifo (c - 0x21)).level
  else false

/-- Pins whose source is a level follow it (R361). -/
def State.followPins (s : State) : State :=
  (List.range 4).foldl (fun t m =>
    if levelCode (fld (t.pin m).ctrl 10 6) then
      t.modPin m fun p => { p with level := t.sourceLevel (fld p.ctrl 10 6) }
    else t) s

/-- The count is at or past C (R355). -/
def atOrPast (cnt c top : Nat) : Bool :=
  decide (c ≤ top) && decide ((cnt + (top + 1) - c) % (top + 1) < (top + 1) / 2)

/-- late (R355). -/
def lateOf (cnt c top : Nat) : Nat := (cnt + (top + 1) - c) % (top + 1)

/-- An event of the trigger matrix: its code of R351, and the timer whose swtrig it is. -/
abbrev TrigEvent := Nat × Nat

/-- A compare unit fires (R351, R355): the output level, LATE and the arming in ATPAST, and its event bit. -/
def State.fireUnit (n unit : Nat) (s : State) : State × List TrigEvent :=
  let t := s.timer n
  let c := if unit = 0 then t.c0.toNat else t.c1.toNat
  let past := if unit = 0 then t.past0 else t.past1
  let late := word (lateOf t.cnt.toNat c t.top.toNat)
  let s1 := s.modTimer n fun x =>
    if unit = 0 then
      { x with out := true, armed0 := x.armed0 && !past, late0 := if past then late else x.late0 }
    else { x with out := false, armed1 := x.armed1 && !past, late1 := if past then late else x.late1 }
  (s1.tmrEvt0 (4 * n + 1 + unit), [((if unit = 0 then 0x09 else 0x11) + n, n)])

/-- A compare unit's condition with the count as it stands (R355); `entered` when a count has just been taken. -/
def Timer.unitFires (t : Timer) (unit : Nat) (entered : Bool) : Bool :=
  let c := if unit = 0 then t.c0 else t.c1
  let past := if unit = 0 then t.past0 else t.past1
  let armed := if unit = 0 then t.armed0 else t.armed1
  if past then armed && atOrPast t.cnt.toNat c.toNat t.top.toNat
  else entered && decide (c.toNat ≤ t.top.toNat) && decide (t.cnt = c)

/-- Both units are judged, CMP0 before CMP1 (R354); a rise of the output level is an event (R351). -/
def State.judgeTimer (n : Nat) (entered : Bool) (s : State) : State × List TrigEvent :=
  let t := s.timer n
  let f0 := t.unitFires 0 entered
  let f1 := t.unitFires 1 entered
  let r0 := if f0 then s.fireUnit n 0 else (s, [])
  let r1 := if f1 then r0.1.fireUnit n 1 else (r0.1, [])
  let rise := !t.out && (r1.1.timer n).out
  (r1.1.followPins, r0.2 ++ r1.2 ++ (if rise then [(0x19 + n, n)] else []))

/-- One count of a timer (R349): at or above TOP it wraps to 0, and one_shot clears en; then the compares are judged. -/
def State.countOnce (n : Nat) (s : State) : State × List TrigEvent :=
  let t := s.timer n
  if t.top.toNat ≤ t.cnt.toNat then
    let s1 := (s.modTimer n fun x =>
      { x with cnt := 0, ctrl := if x.oneShot then x.ctrl &&& ~~~1 else x.ctrl }).tmrEvt0 (4 * n)
    let r := s1.judgeTimer n true
    (r.1, (0x01 + n, n) :: r.2)
  else (s.modTimer n fun x => { x with cnt := x.cnt + 1 }).judgeTimer n true

/-- The timer counts ticks at present (R352). -/
def State.tickMode (s : State) (n : Nat) : Bool := (s.timer n).en && decide ((s.timer n).slave ≠ 3)

/-- The TB_NS at which the timer's next tick falls (R348). -/
def Timer.nextTick (t : Timer) : Nat := t.lastTick + t.psc.toNat

/-- A tick of the timer is due (R348). -/
def State.tickDue (s : State) (n : Nat) : Bool := s.tickMode n && decide ((s.timer n).nextTick ≤ s.now)

/-- The timer's tick is counted: every tick, but for a closed gate (R352). -/
def State.gateOpen (s : State) (n : Nat) : Bool := decide ((s.timer n).slave ≠ 1) || s.sourceLevel (s.timer n).trig

/-- One tick of one timer (R348, R352): the tick phase moves on, and the count advances where it is counted. -/
def State.tickOne (n : Nat) (counted : Bool) (s : State) : State × List TrigEvent :=
  let s1 := s.modTimer n fun x => { x with lastTick := x.nextTick }
  if counted then s1.countOnce n else (s1, [])

/-- What an event does to a timer that selects it (R352); a RESET comes after the timer's own tick of the step (R373). -/
def State.slaveAct (n : Nat) (s : State) : State × List TrigEvent :=
  let t := s.timer n
  match t.slave with
  | 2 =>
    let r := if s.tickDue n then s.tickOne n true else (s, [])
    let q := (r.1.modTimer n fun x => { x with cnt := 0, lastTick := s.now }).judgeTimer n false
    (q.1, r.2 ++ q.2)
  | 3 => if t.en then s.countOnce n else (s, [])
  | 4 => if t.en then (s, []) else (s.modTimer n fun x => { x with ctrl := x.ctrl ||| 1, lastTick := s.now }, [])
  | _ => (s, [])

/-- A capture unit takes an event of its source (R357). -/
def State.captureUnit (n : Nat) (s : State) : State :=
  let t := s.timer n
  match t.capEntry with
  | none =>
    (s.modTimer n fun x =>
      { x with capEntry := some (x.cnt, x.capSeq, x.capLost), capSeq := (x.capSeq + 1) % 0x10000, capLost := false }).tmrEvt0
        (4 * n + 3)
  | some _ => s.modTimer n fun x => { x with capSeq := (x.capSeq + 1) % 0x10000, capLost := true }

/-- A pin acts on an event of its source (R361). -/
def CmpPin.act (p : CmpPin) (now : Nat) : CmpPin :=
  match fld p.ctrl 8 2 with
  | 0 => { p with level := true }
  | 1 => { p with level := false }
  | 2 => { p with level := !p.level }
  | _ => { p with level := true, pulseEnd := some (now + fld p.ctrl 16 16 * 1000) }

/-- One event reaches every slave, capture unit and pin that selects it (R351, R352, R354, R357, R361); a pin has no
swtrig of its own, so code 0x29 never moves one. -/
def State.spread (e : TrigEvent) (s : State) : State × List TrigEvent :=
  let mine := fun (n : Nat) => decide (e.1 ≠ 0x29) || n == e.2
  let r := (List.range 8).foldl (fun (acc : State × List TrigEvent) n =>
    if (acc.1.timer n).trig = e.1 ∧ mine n then
      let q := acc.1.slaveAct n
      (q.1, acc.2 ++ q.2)
    else acc) (s, [])
  let s2 := (List.range 8).foldl (fun t n =>
    if fld (t.timer n).capSrc 0 6 = e.1 ∧ mine n then t.captureUnit n else t) r.1
  let s3 := (List.range 4).foldl (fun t m =>
    if fld (t.pin m).ctrl 10 6 = e.1 ∧ !levelCode e.1 ∧ e.1 ≠ 0x29 then t.modPin m fun p => p.act t.now else t) s2
  (s3, r.2)

/-- Events are applied wave by wave within one step (R354). -/
def State.propagate : Nat → List TrigEvent → State → State
  | 0, _, s => s
  | fuel + 1, es, s =>
    if es.isEmpty then s
    else
      let r := es.foldl (fun (acc : State × List TrigEvent) e =>
        let q := acc.1.spread e
        (q.1, acc.2 ++ q.2)) (s, [])
      State.propagate fuel r.2 r.1

/-- Events and what they cause, to the end of the step; no chain is longer than the waves allowed (R353, R354). -/
def State.settle (r : State × List TrigEvent) : State := r.1.propagate 32 r.2

/-- How many steps of the timebase ago a due count was crossed (R323, R348). -/
def State.stepsAgo (s : State) (ns : Nat) : Nat := (s.tbu.count - ns * 2 ^ 40) / s.tbu.inc

/-- A timer's due ticks of one step, in turn (R348). -/
def State.ownTicks (m step : Nat) (counted : Bool) : Nat → State → State × List TrigEvent
  | 0, s => (s, [])
  | k + 1, s =>
    if s.tickDue m && s.stepsAgo (s.timer m).nextTick == step then
      let r := s.tickOne m counted
      let q := State.ownTicks m step counted k r.1
      (q.1, r.2 ++ q.2)
    else (s, [])

/-- The step of the timebase on which timer n next ticks: every timer's own ticks of that step come first, each under the
levels before the step, and the events of those ticks come after (R348, R354). -/
def State.takeTick (n : Nat) (s : State) : State :=
  let step := s.stepsAgo (s.timer n).nextTick
  State.settle ((List.range 8).foldl (fun (acc : State × List TrigEvent) m =>
    let q := acc.1.ownTicks m step (s.gateOpen m) (s.tbu.inc / 2 ^ 40 / 100 + 2)
    (q.1, acc.2 ++ q.2)) (s, []))

/-- The step on which timer n's due tick falls, where one is due. -/
def State.tickOnce (n : Nat) (s : State) : State := if s.tickDue n then s.takeTick n else s

/-- Up to a number of steps with due ticks, in order. -/
def State.ticksDue (n : Nat) : Nat → State → State
  | 0, s => s
  | k + 1, s => if s.tickDue n then State.ticksDue n k (s.takeTick n) else s

/-- Every tick that is due when the timer is written comes before the write (R19, R350). -/
def State.tickFirst (n : Nat) (s : State) : State := s.ticksDue n (s.now + 1 - (s.timer n).lastTick)

/-- Every timer's due ticks come before an event from outside the timers (R354, R357). -/
def State.ticksFirst (s : State) : State := (List.range 8).foldl (fun t n => t.tickFirst n) s

/-- TIMER_TICK. -/
def execTimerTick (timer : Nat) (s : State) : Host.Outcome State Fault Refusal :=
  .next (s.tickOnce timer)

/-- TIMER_WRAP: a due tick that finds the count at or above TOP (R349). -/
def execTimerWrap (timer : Nat) (s : State) : Host.Outcome State Fault Refusal :=
  .next (if s.tickDue timer && decide ((s.timer timer).top.toNat ≤ (s.timer timer).cnt.toNat) then s.takeTick timer else s)

/-- COMPARE_FIRE: an armed ATPAST unit at or past its value fires; an EXACT unit fires within the tick or event that takes
the count into its value (R355). -/
def execCompareFire (timer unit : Nat) (s : State) : Host.Outcome State Fault Refusal :=
  .next (if (s.timer timer).unitFires (min unit 1) false then State.settle (s.judgeTimer timer false) else s)

/-- The timer that produces a source code (R351). -/
def codeTimer (c : Nat) : Option Nat :=
  if 0x01 ≤ c ∧ c ≤ 0x20 then some ((c - 1) % 8) else none

/-- Following CLOCK selections from a timer reaches `goal` (R353). -/
def clockLoop (ts : List Timer) (goal : Nat) : Nat → Nat → Bool
  | 0, _ => false
  | fuel + 1, m =>
    m == goal ||
      (decide ((ts.getD m {}).slave = 3) &&
        match codeTimer (ts.getD m {}).trig with
        | some k => clockLoop ts goal fuel k
        | none => false)

/-- A write of TMRn_CTRL is refused (R353). -/
def ctrlRefused (ts : List Timer) (n : Nat) (w : Word) : Bool :=
  let slave := fld w 13 3
  let trig := fld w 7 6
  decide (5 ≤ slave) || decide (0x2A ≤ trig) || (decide (slave = 1) && decide (trig ≠ 0) && !levelCode trig) ||
    (decide (slave = 3) && (trig == 0x01 + n || trig == 0x09 + n || trig == 0x11 + n)) ||
    (decide (slave = 3) &&
      match codeTimer trig with
      | some m => m != n && clockLoop ts n 8 m
      | none => false)

/-- The TB_NS that ticks count from after a write of TMRn_CTRL (R348, R368): now where en rises; a timer that leaves CLOCK counts
no tick that fell before. -/
def Timer.tickFrom (x : Timer) (w : Word) (now : Nat) : Nat :=
  if w.getLsbD 0 && !x.en then now
  else if x.slave = 3 then x.lastTick + (now - x.lastTick) / x.psc.toNat * x.psc.toNat
  else x.lastTick

/-- The software trigger of a timer (R351): every due tick comes before it. -/
def State.swtrig (n : Nat) (s : State) : State := State.settle (s.ticksFirst, [(0x29, n)])

/-- A write of TMRn_CTRL (R19, R353, R368): ticks that are due come before it. -/
def writeTmrCtrl (n : Nat) (w : Word) (s : State) : State :=
  if ctrlRefused s.tmr.timers n w then s.modTimer n fun x => { x with cfgErr := true }
  else
    let s1 := (s.tickFirst n).modTimer n fun x =>
      { x with
        ctrl := w &&& 0xFF9D, cfgErr := false
        armed0 := x.armed0 && decide (x.past0 = w.getLsbD 3), armed1 := x.armed1 && decide (x.past1 = w.getLsbD 4)
        lastTick := x.tickFrom w s.now }
    if w.getLsbD 1 then s1.swtrig n else s1

/-- TMRN_CTRL_WRITE. -/
def execTmrnCtrlWrite (timer : Nat) (w : Word) (s : State) : Host.Outcome State Fault Refusal :=
  .next (writeTmrCtrl timer w s)

/-- SWTRIG: code 0x29 for the timer (R351, R368). -/
def execSwtrig (timer : Nat) (s : State) : Host.Outcome State Fault Refusal :=
  .next (s.swtrig timer)

/-- A write of TMRn_CNT (R350): no EXACT compare and no wrap; ATPAST units are judged at once. -/
def writeTmrCnt (n : Nat) (w : Word) (s : State) : State :=
  State.settle (((s.tickFirst n).modTimer n fun x => { x with cnt := w }).judgeTimer n false)

/-- TMRN_CNT_WRITE. -/
def execTmrnCntWrite (timer : Nat) (w : Word) (s : State) : Host.Outcome State Fault Refusal :=
  .next (writeTmrCnt timer w s)

/-- A write of a compare value (R355, R356): in ATPAST it arms the unit, which is judged at once. -/
def writeTmrCmp (n unit : Nat) (w : Word) (s : State) : State :=
  State.settle (((s.tickFirst n).modTimer n fun x =>
    if unit = 0 then { x with c0 := w, armed0 := x.armed0 || x.past0 }
    else { x with c1 := w, armed1 := x.armed1 || x.past1 }).judgeTimer n false)

/-- TMRN_CMP_WRITE. -/
def execTmrnCmpWrite (timer unit : Nat) (w : Word) (s : State) : Host.Outcome State Fault Refusal :=
  .next (writeTmrCmp timer unit w s)

/-- A read of TMRn_CAP (R357, R368). For a read that finds no entry the spec states no sequence number and no ovf: free values
(log 48). -/
def readTmrCap (r : Requester) (n : Nat) (s : State) : Word × State :=
  match (s.timer n).capEntry with
  | some (c, q, ovf) =>
    (c, (s.modTimer n fun x => { x with capEntry := none }).modShadow r fun x =>
      { x with capInfo := x.capInfo.set n (atBit 16 16 q ||| atBit 2 1 (bit ovf) ||| atBit 1 1 1) })
  | none => (0, (s.modShadow r fun x =>
      { x with capInfo := x.capInfo.set n (atBit 16 16 s.freeVal ||| atBit 2 1 (s.freeVal / 65536)) }).drawn)

/-- TMRN_CAP_READ. -/
def execTmrnCapRead (req : Requester) (timer : Nat) (s : State) : Host.Outcome State Fault Refusal :=
  .next (State.answered (readTmrCap req timer s))

/-- TB_NS has reached A in the half-range window (R359). -/
def State.alarmReached (s : State) (m : Nat) : Bool := decide ((s.tbu.ns - (s.alarm m).a).toNat < 2 ^ 63)

/-- An armed alarm that TB_NS has reached fires (R359, R360): late, its event, its trigger and its wake. -/
def State.alarmFire (m : Nat) (s : State) : State :=
  if (s.alarm m).armed && s.alarmReached m then
    let s1 := (s.ticksFirst.modAlarm m fun x =>
      { x with
        armed := false, fired := true
        late := word (min (s.tbu.ns - x.a).toNat 0xFFFFFFFF) }).tmrEvt1 m
    let s2 := State.settle (s1, [(0x25 + m, 8)])
    if (s.alarm m).ctrl.getLsbD 3 then s2.wakeSource 0x04 else s2
  else s

/-- ALARM_FIRE. -/
def execAlarmFire (alarm : Nat) (s : State) : Host.Outcome State Fault Refusal := .next (s.alarmFire alarm)

/-- A write of ALMm_LO (R358): A is committed from the writer's write shadow, the alarm is armed and judged at once. -/
def writeAlmLo (r : Requester) (m : Nat) (w : Word) (s : State) : State :=
  (s.modAlarm m fun x =>
    { x with a := ((s.shadow r).almWr.getD m 0 ++ w : BitVec 64), armed := true, fired := false }).alarmFire m

/-- ALMM_LO_WRITE. -/
def execAlmmLoWrite (req : Requester) (alarm : Nat) (w : Word) (s : State) : Host.Outcome State Fault Refusal :=
  .next (writeAlmLo req alarm w s)

/-- A read of ALMm_LO (R358). -/
def readAlmLo (r : Requester) (m : Nat) (s : State) : Word × State :=
  ((s.alarm m).a.extractLsb' 0 32, s.modShadow r fun x =>
    { x with almRd := x.almRd.set m ((s.alarm m).a.extractLsb' 32 32) })

/-- ALMM_LO_READ. -/
def execAlmmLoRead (req : Requester) (alarm : Nat) (s : State) : Host.Outcome State Fault Refusal :=
  .next (State.answered (readAlmLo req alarm s))

/-- A disarm (R369); a firing of the same step stands (R373). -/
def State.disarm (m : Nat) (s : State) : State := (s.alarmFire m).modAlarm m fun x => { x with armed := false }

/-- ALARM_DISARM. -/
def execAlarmDisarm (alarm : Nat) (s : State) : Host.Outcome State Fault Refusal := .next (s.disarm alarm)

/-- The meaning of PIN_PULSE_END (R361). -/
def doPinPulseEnd (m : Nat) (s : State) : State :=
  match (s.pin m).pulseEnd with
  | some t => if t ≤ s.now then (s.modPin m fun p => { p with level := false, pulseEnd := none }).followPins else s
  | none => s

/-- PIN_PULSE_END. -/
def execPinPulseEnd (pin : Nat) (s : State) : Host.Outcome State Fault Refusal := .next (doPinPulseEnd pin s)

/-- The entry an edge makes (R363, R364): off the reference it takes the TB_NS of the step that follows. -/
def State.edgeEntry (s : State) (seq : Nat) (ovf : Bool) : CapEntry :=
  if s.tbu.src = .reference then { ns := s.now, frac := s.frac8, seq := seq, ovf := ovf }
  else { ns := (s.tbu.count + s.tbu.inc) / 2 ^ 40, frac := 0, seq := seq, ovf := ovf, coarse := true }

/-- An edge lies closer than 100 ns to the previous stored edge of its input (R364). Off the reference TB_NS does not tell the
distance of two edges within a step of each other: a free value (log 48). -/
def State.edgeClose (s : State) (n : Nat) : Bool :=
  match (s.capFifo n).lastStored with
  | some t =>
    if s.tbu.src = .reference then decide (s.now < t + 100)
    else decide (s.now ≤ t + s.tbu.inc / 2 ^ 40) && decide (s.freeVal % 2 = 1)
  | none => false

/-- The meaning of CAP_EDGE (R363, R364): a selected edge takes a sequence number and is stored, or is lost when the FIFO
is full or the last stored edge is less than 100 ns old. -/
def doCapEdge (n : Nat) (rising : Bool) (s : State) : State :=
  let c := s.capFifo n
  if !c.edge.testBit (if rising then 0 else 1) then s
  else if decide (4 ≤ c.fifo.length) || s.edgeClose n then
      (s.drawn.modCap n fun x => { x with nextSeq := (x.nextSeq + 1) % 0x10000, lost := true }).tmrEvt1 (8 + n)
    else
      (s.drawn.modCap n fun x =>
        { x with
          nextSeq := (x.nextSeq + 1) % 0x10000, lost := false, lastStored := some s.now
          fifo := x.fifo ++ [s.edgeEntry x.nextSeq x.lost] }).tmrEvt1 (4 + n)

/-- CAP_EDGE. -/
def execCapEdge (pin : Nat) (rising : Bool) (s : State) : Host.Outcome State Fault Refusal :=
  .next (doCapEdge pin rising s)

/-- A read of CAPn_LO pops the oldest entry (R365, R371). -/
def readCapLo (r : Requester) (n : Nat) (s : State) : Word × State :=
  let c := s.capFifo n
  match c.fifo with
  | e :: rest =>
    (word e.ns, (s.modCap n fun x => { x with fifo := rest }).modShadow r fun x =>
      { x with
        capHi := x.capHi.set n (word (e.ns / 2 ^ 32))
        capFifoInfo := x.capFifoInfo.set n
          (atBit 16 16 e.seq ||| atBit 8 8 e.frac ||| atBit 4 3 rest.length ||| atBit 3 1 (bit e.coarse) |||
            atBit 2 1 (bit e.ovf) ||| atBit 1 1 1) })
  | [] => (0, s.modShadow r fun x =>
      { x with capHi := x.capHi.set n 0, capFifoInfo := x.capFifoInfo.set n (atBit 16 16 c.nextSeq) })

/-- CAPN_LO_READ. -/
def execCapnLoRead (req : Requester) (pin : Nat) (s : State) : Host.Outcome State Fault Refusal :=
  .next (State.answered (readCapLo req pin s))

/-- A flush empties the FIFO (R371). -/
def State.capFlush (n : Nat) (s : State) : State := s.modCap n fun x => { x with fifo := [] }

/-- CAP_FLUSH. -/
def execCapFlush (pin : Nat) (s : State) : Host.Outcome State Fault Refusal := .next (s.capFlush pin)

/-- The meaning of CAP_PIN_LEVEL_CHANGE (R351): the level source changes, and its rise is an event. -/
def doCapPinLevel (k : Nat) (level : Bool) (s : State) : State :=
  let s1 := (s.ticksFirst.modCap k fun x => { x with level := level }).followPins
  if level && !(s.capFifo k).level then State.settle (s1, [(0x21 + k, 8)]) else s1

/-- CAP_PIN_LEVEL_CHANGE. -/
def execCapPinLevelChange (pin : Nat) (level : Bool) (s : State) : Host.Outcome State Fault Refusal :=
  .next (doCapPinLevel pin level s)

/-- A compare unit is armed (R355): in EXACT always while C ≤ TOP, in ATPAST from a write of its value until it fires. -/
def Timer.unitArmed (t : Timer) (unit : Nat) : Bool :=
  if unit = 0 then (if t.past0 then t.armed0 else decide (t.c0.toNat ≤ t.top.toNat))
  else if t.past1 then t.armed1 else decide (t.c1.toNat ≤ t.top.toNat)

/-- TMRn_STAT (R368). -/
def State.tmrStat (s : State) (n : Nat) : Word :=
  let t := s.timer n
  let gate := decide (t.slave = 1) && s.sourceLevel t.trig
  atBit 7 1 (bit (decide (t.top.toNat < t.c1.toNat))) ||| atBit 6 1 (bit (decide (t.top.toNat < t.c0.toNat))) |||
    atBit 5 1 (bit (t.unitArmed 1)) ||| atBit 4 1 (bit (t.unitArmed 0)) ||| atBit 3 1 (bit t.out) ||| atBit 2 1 (bit t.cfgErr) |||
    atBit 1 1 (bit gate) ||| atBit 0 1 (bit (t.en && (decide (t.slave ≠ 1) || gate)))

/-- The level of a pin as force leaves it (R361, R370). -/
def CmpPin.present (p : CmpPin) : Bool :=
  match fld p.ctrl 0 2 with
  | 1 => false
  | 2 => true
  | _ => p.level

/-- A read of the TMR block (R367 to R372). -/
def readTmr (r : Requester) (off : Nat) (s : State) : Word × State :=
  if off < 0x200 then
    let n := off / 0x40
    let t := s.timer n
    match off % 0x40 with
    | 0x00 => (t.ctrl, s)
    | 0x04 => (t.psc, s)
    | 0x08 => (t.top, s)
    | 0x0C => (t.cnt, s)
    | 0x10 => (t.c0, s)
    | 0x14 => (t.c1, s)
    | 0x18 => (t.late0, s)
    | 0x1C => (t.late1, s)
    | 0x20 => readTmrCap r n s
    | 0x24 => ((s.shadow r).capInfo.getD n 0, s)
    | 0x28 => (t.capSrc, s)
    | 0x2C => (s.tmrStat n, s)
    | _ => (0, s)
  else if off < 0x280 then
    let m := (off - 0x200) / 0x20
    let a := s.alarm m
    match (off - 0x200) % 0x20 with
    | 0x00 => readAlmLo r m s
    | 0x04 => ((s.shadow r).almRd.getD m 0, s)
    | 0x08 => (a.ctrl ||| atBit 2 1 (bit a.fired) ||| atBit 1 1 (bit a.armed), s)
    | 0x0C => (a.late, s)
    | _ => (0, s)
  else if 0x300 ≤ off ∧ off < 0x310 then
    let p := s.pin ((off - 0x300) / 4)
    if off % 4 = 0 then (p.ctrl ||| atBit 4 1 (bit p.present), s) else (0, s)
  else if 0x400 ≤ off ∧ off < 0x440 then
    let n := (off - 0x400) / 0x10
    let c := s.capFifo n
    match (off - 0x400) % 0x10 with
    | 0x0 => readCapLo r n s
    | 0x4 => ((s.shadow r).capHi.getD n 0, s)
    | 0x8 => ((s.shadow r).capFifoInfo.getD n 0, s)
    | 0xC => (atBit 16 16 c.nextSeq ||| atBit 8 3 c.fifo.length ||| atBit 0 2 c.edge, s)
    | _ => (0, s)
  else
    match off with
    | 0x500 => (s.tmr.evt0, s)
    | 0x504 => (s.tmr.evt1, s)
    | 0x508 => (s.tmr.evt0En, s)
    | 0x50C => (s.tmr.evt1En, s)
    | _ => (0, s)

/-- A write of PINm_CTRL (R370): a width of 0 is taken as 1, and a level source is followed at once. -/
def writePinCtrl (m : Nat) (w : Word) (s : State) : State :=
  (s.modPin m fun p =>
    { p with ctrl := atBit 16 16 (max 1 (fld w 16 16)) ||| atBit 8 8 (fld w 8 8) ||| atBit 0 2 (fld w 0 2) }).followPins

/-- A write of the TMR block (R367 to R372). -/
def writeTmr (r : Requester) (off : Nat) (w : Word) (s : State) : State :=
  if off < 0x200 then
    let n := off / 0x40
    match off % 0x40 with
    | 0x00 => writeTmrCtrl n w s
    | 0x04 => (s.tickFirst n).modTimer n fun x => { x with psc := word (max 100 w.toNat) }
    | 0x08 => State.settle (((s.tickFirst n).modTimer n fun x => { x with top := w }).judgeTimer n false)
    | 0x0C => writeTmrCnt n w s
    | 0x10 => writeTmrCmp n 0 w s
    | 0x14 => writeTmrCmp n 1 w s
    | 0x28 => s.modTimer n fun x => { x with capSrc := if 0x2A ≤ fld w 0 6 then 0 else atBit 0 6 (fld w 0 6) }
    | _ => s
  else if off < 0x280 then
    let m := (off - 0x200) / 0x20
    match (off - 0x200) % 0x20 with
    | 0x00 => writeAlmLo r m w s
    | 0x04 => s.modShadow r fun x => { x with almWr := x.almWr.set m w }
    | 0x08 =>
      (if w.getLsbD 0 then s.disarm m else s).modAlarm m fun x => { x with ctrl := w &&& 0xFF08 }
    | _ => s
  else if 0x300 ≤ off ∧ off < 0x310 then
    if off % 4 = 0 then writePinCtrl ((off - 0x300) / 4) w s else s
  else if 0x400 ≤ off ∧ off < 0x440 then
    let n := (off - 0x400) / 0x10
    if (off - 0x400) % 0x10 = 0xC then
      let s1 := s.modCap n fun x => { x with edge := fld w 0 2 }
      if w.getLsbD 2 then s1.capFlush n else s1
    else s
  else
    match off with
    | 0x500 => s.modTmr fun t => { t with evt0 := w1c t.evt0 w 0xFFFFFFFF }
    | 0x504 => s.modTmr fun t => { t with evt1 := w1c t.evt1 w 0xFFF }
    | 0x508 => s.modTmr fun t => { t with evt0En := w }
    | 0x50C => s.modTmr fun t => { t with evt1En := w &&& 0xFFF }
    | _ => s

end Sys2Proof.Machine
end

