-- ==== Sys2Proof/Machine/Registers.lean ====
section
/-!
DEFINITION. The host map: the IDH and MBX registers, reads and writes by address, SPI frames, and Ethernet management
datagrams (R417 to R427 and R437 to R440 of 16_mailboxes).
-/
namespace Sys2Proof.Machine

/-! ### IDH (R440) -/

/-- A value that boot sets reads 0 before (R440). -/
def State.onceRunning (s : State) (n : Nat) : Nat := if s.boot.phase = .running then n else 0

/-- IDH_STATUS. -/
def State.idhStatus (s : State) : Word :=
  atBit 31 1 (bit s.boot.locked) ||| atBit 16 8 s.boot.resetCause |||
    atBit 9 1 (s.onceRunning (s.boot.metonActive.getD 0)) ||| atBit 8 1 (s.onceRunning s.boot.fwRunning) |||
    atBit 1 1 (s.onceRunning (bit s.rel.storage)) ||| atBit 0 1 (bit s.mbx.ready)

/-- A read of IDH. -/
def readIdh (off : Nat) (s : State) : Word :=
  match off with
  | 0x00 => atBit 16 16 0x9640 ||| atBit 8 8 Config.grade ||| 0x10
  | 0x04 => 0x19640F73
  | 0x08 => word Config.deviceIdentity
  | 0x0C => word (Config.deviceIdentity / 2 ^ 32)
  | 0x10 => word s.boot.fwVersion
  | 0x14 => s.idhStatus
  | 0x18 => word s.health.next
  | 0x1C => atBit 16 16 s.health.lastCode ||| atBit 0 16 s.health.since
  | 0x20 => s.boot.scratch
  | _ => 0

/-- A write of IDH. -/
def writeIdh (off : Nat) (w : Word) (s : State) : State :=
  if off = 0x20 then s.modBoot fun b => { b with scratch := w } else s

/-! ### MBX (R437 to R439) -/

/-- The code of a mailbox state (R428). -/
def mbCode : MbState → Nat
  | .free => 0
  | .issued => 1
  | .posted => 2

/-- MBX_STATUS. -/
def State.mbxStatus (s : State) : Word :=
  atBit 31 1 (bit s.mbx.ready) ||| word ((List.range 8).map fun n => mbCode (s.box n).st * 4 ^ n).sum

/-- A read of MBX. -/
def readMbx (off : Nat) (s : State) : Word × State :=
  if 0x1000 ≤ off ∧ off < 0x2000 then
    let n := (off - 0x1000) / 0x200
    let k := (off - 0x1000) % 0x200 / 4
    if k < 64 then ((s.box n).cmd.getD k 0, s)
    else if k = 64 then readRes0 n s
    else ((s.box n).resWord (k - 64), s)
  else
    let m := s.mbx
    match off with
    | 0x000 => (s.mbxStatus, s)
    | 0x00C => (atBit 16 8 m.ackErr.toNat ||| atBit 8 8 m.wrErr.toNat ||| atBit 0 8 m.dbErr.toNat, s)
    | 0x010 => (atBit 8 8 m.devAddr ||| atBit 0 4 m.rdWait, s)
    | 0x014 => (atBit 16 16 m.spiCrc ||| atBit 0 16 m.spiOther, s)
    | 0x018 => (atBit 16 16 m.ethDup ||| atBit 0 16 m.ethDropped, s)
    | _ => (0, s)

/-- A write of MBX_DB rings the mailboxes whose bits are 1, the lowest first. -/
def writeDb (w : Word) (s : State) : State :=
  (List.range 8).foldl (fun (t : State) n => if w.getLsbD n then doDoorbell n t else t) s

/-- A write of MBX. -/
def writeMbx (off : Nat) (w : Word) (s : State) : State :=
  if 0x1000 ≤ off ∧ off < 0x2000 then doCommandAreaWrite ((off - 0x1000) / 0x200) ((off - 0x1000) % 0x200 / 4) w s
  else if off = 0x004 then writeDb w s
  else if off = 0x008 then doMbxAckWrite w s
  else if off = 0x00C then
    s.modMbx fun m =>
      { m with
        ackErr := m.ackErr &&& ~~~(w.extractLsb' 16 8), wrErr := m.wrErr &&& ~~~(w.extractLsb' 8 8)
        dbErr := m.dbErr &&& ~~~(w.extractLsb' 0 8) }
  else if off = 0x010 then
    s.modMbx fun m => { m with rdWait := if fld w 0 4 = 0 ∨ 8 < fld w 0 4 then 2 else fld w 0 4 }
  else s

/-! ### The map (R411, R420, R423) -/

/-- An address of the aperture. -/
def inAperture (a : Nat) : Bool := decide (0x10_0000 ≤ a) && decide (a < 0x20_0000)

/-- The domain of an address: MBX, EVC, HBW and the aperture lie in PD6, every other block in PD0 (R423). -/
def addrDomain (a : Nat) : Nat := if inAperture a || [1, 4, 8].contains (a / 0x10000) then 6 else 0

/-- A read of the word at an address by a requester. -/
def readReg (r : Requester) (a : Nat) (s : State) : Word × State :=
  let off := a % 0x10000
  if inAperture a then readAperture (a - 0x10_0000) s
  else
    match a / 0x10000 with
    | 0 => (readIdh off s, s)
    | 1 => readMbx off s
    | 2 => readTbu r off s
    | 3 => readTmr r off s
    | 4 => readEvc r off s
    | 5 => (readPsc off s, s)
    | 6 => (readPad off s, s)
    | 7 => (readCmpw off s, s)
    | 8 => (readHbw off s, s)
    | _ => (0, s)

/-- A write of the word at an address by a requester. -/
def writeReg (r : Requester) (a : Nat) (w : Word) (s : State) : State :=
  let off := a % 0x10000
  if inAperture a then writeAperture (a - 0x10_0000) w s
  else
    match a / 0x10000 with
    | 0 => writeIdh off w s
    | 1 => writeMbx off w s
    | 2 => writeTbu off w s
    | 3 => writeTmr r off w s
    | 4 => writeEvc off w s
    | 5 => writePsc off w s
    | 6 => writePad off w s
    | 7 => writeCmpw r off w s
    | 8 => writeHbw off w s
    | _ => s

/-- Host accesses are served: boot has completed, in Run, Drift or Firn (R423). -/
def State.hostServed (s : State) : Bool :=
  s.mbx.ready && (s.psc.state == .run || s.psc.state == .drift || s.psc.state == .firn)

/-- A requester reaches the registers: the host ports under R423, a core while it is powered and in service. -/
def State.reaches (s : State) : Requester → Bool
  | .spi => s.hostServed
  | .eth => s.hostServed
  | .cp0 => s.hostServed && s.pdOn 1 && s.pairUp 0
  | .cp1 => s.hostServed && s.pdOn 2 && s.pairUp 1
  | .cp2 => s.hostServed && s.pdOn 3 && s.pairUp 2
  | .cp3 => s.hostServed && s.pdOn 4 && s.pairUp 3

/-- The meaning of REGISTER_WRITE (R14): a word at an aligned address whose block is powered. -/
def doRegisterWrite (r : Requester) (a : Nat) (w : Word) (s : State) : State :=
  if a % 4 = 0 ∧ s.reaches r = true ∧ s.pdOn (addrDomain a) = true then writeReg r a w s else s

/-- REGISTER_WRITE. -/
def execRegisterWrite (req : Requester) (addr : Nat) (w : Word) (s : State) : Host.Outcome State Fault Refusal :=
  .next (doRegisterWrite req addr w s)

/-! ### What an access answers (R420) -/

/-- DONE. -/
def accDone : Nat := 0
/-- CRC. -/
def accCrc : Nat := 1
/-- FORMAT. -/
def accFormat : Nat := 2
/-- ASLEEP. -/
def accAsleep : Nat := 3

/-- An access of the FORMAT row of R420. -/
def formatBad (a n : Nat) : Bool :=
  a % 4 != 0 || decide (0x20_0000 ≤ a) || n == 0 || decide (64 < n) ||
    (if inAperture a then decide (0x20_0000 < a + 4 * n) else decide (0x10000 < a % 0x10000 + 4 * n))

/-- The status of an access whose CRC has checked. -/
def State.accessStatus (s : State) (a n : Nat) : Nat :=
  if formatBad a n then accFormat else if s.pdOn (addrDomain a) then accDone else accAsleep

/-- Words written in address order (R421). -/
def writeRange (r : Requester) : Nat → List Word → State → State
  | _, [], s => s
  | a, w :: ws, s => writeRange r (a + 4) ws (writeReg r a w s)

/-- Words read in address order (R421). -/
def readRange (r : Requester) : Nat → Nat → State → List Word × State
  | 0, _, s => ([], s)
  | n + 1, a, s =>
    let x := readReg r a s
    let y := readRange r n (a + 4) x.2
    (x.1 :: y.1, y.2)

/-! ### SPI frames (R417 to R424) -/

/-- The words of bytes sent most significant byte first (R417). -/
def beWords : List Byte → List Word
  | a :: b :: c :: d :: rest => word (beNat [a, b, c, d]) :: beWords rest
  | _ => []

/-- The bytes of words, most significant byte first. -/
def beBytesOf (ws : List Word) : List Byte := ws.flatMap fun w => beBytes 4 w.toNat

/-- A refused frame is counted; one refused for CRC or FORMAT raises source 8 of group 0 (R420, R438). -/
def State.spiRefused (status : Nat) (s : State) : State :=
  let s1 := s.modMbx fun m =>
    if status = accCrc then { m with spiCrc := satAdd 0xFFFF m.spiCrc 1 }
    else { m with spiOther := satAdd 0xFFFF m.spiOther 1 }
  if status = accAsleep then s1.wakeSource 0x09 else s1.raise 0 8

/-- What the device drives on SDO in a frame. -/
def State.drive (bs : List Byte) (s : State) : State := s.modMbx fun m => { m with sdo := bs }

/-- The frame is the device's to answer: its address, in a state that serves frames (R422, R423). -/
def State.spiMine (s : State) (op : Nat) (bs : List Byte) : Bool :=
  s.hostServed && uAt bs 0 1 == op && uAt bs 1 1 == s.mbx.devAddr

/-- The CRC that ends a run of bytes checks (R419). -/
def crcOk (bs : List Byte) : Bool := beNat (bs.drop (bs.length - 2)) == crc16 (bs.take (bs.length - 2))

/-- The meaning of SPI_WRITE_FRAME (R418, R420): the host's bytes from the opcode to the CRC. -/
def doSpiWriteFrame (bs : List Byte) (s : State) : State :=
  if !s.spiMine 0x02 bs || decide (bs.length < 7) || bs.length % 4 != 3 then s.drive []
  else
    let a := beNat (slice bs 2 3)
    let ws := beWords ((bs.take (bs.length - 2)).drop 5)
    let status := if crcOk bs then s.accessStatus a ws.length else accCrc
    (if status = accDone then writeRange .spi a ws s else s.spiRefused status).drive (leBytes 1 status)

/-- SPI_WRITE_FRAME. -/
def execSpiWriteFrame (bytes : List Byte) (s : State) : Host.Outcome State Fault Refusal := .next (doSpiWriteFrame bytes s)

/-- The device's bytes of a READ (R419, R420): a refusal returns zero words, and for CRC the complement of the CRC. -/
def readReply (request : List Byte) (status : Nat) (ws : List Word) : List Byte :=
  let sent := leBytes 1 status ++ beBytesOf ws
  let c := crc16 ((request.drop 1).take 5 ++ sent)
  sent ++ beBytes 2 (if status = accDone then c else 0xFFFF - c)

/-- The meaning of SPI_READ_FRAME (R418, R420, R421): the host's bytes from the opcode to the last wait byte. -/
def doSpiReadFrame (bs : List Byte) (s : State) : State :=
  if !s.spiMine 0x03 bs || decide (bs.length < 8 + s.mbx.rdWait) then s.drive []
  else
    let a := beNat (slice bs 2 3)
    let n := uAt bs 5 1
    let status := if crcOk (bs.take 8) then s.accessStatus a n else accCrc
    if status = accDone then
      let x := readRange .spi n a s
      x.2.drive (readReply bs status x.1)
    else (s.spiRefused status).drive (readReply bs status (List.replicate n 0))

/-- SPI_READ_FRAME. -/
def execSpiReadFrame (bytes : List Byte) (s : State) : Host.Outcome State Fault Refusal := .next (doSpiReadFrame bytes s)

/-- The iterated core verifies while PD5 is gated; awake, the present count's key is derived (R264). -/
def State.withWakeKey (s : State) : State :=
  if s.pdOn 5 then s.modCrypt fun x => { x with wakeKey := s.deriveWakeKey } else s.verifyWake

/-- The four data words of a WAKE frame, and its tag (R424). -/
def wakeFields (bs : List Byte) : List Word × List Byte := (beWords (slice bs 5 16), slice bs 21 8)

/-- The meaning of SPI_WAKE_FRAME (R422 to R424, R490): 31 bytes; in Run and Drift a frame that verifies has no effect, and one
that fails is counted. -/
def doSpiWakeFrame (bs : List Byte) (s : State) : State :=
  if !(s.hostServed || s.psc.state == .permafrost) || bs.length ≠ 31 || uAt bs 0 1 ≠ 0xA5 || uAt bs 1 1 ≠ s.mbx.devAddr ||
      beNat (slice bs 2 3) ≠ 0 then s.drive []
  else if !crcOk bs then (if s.pdOn 6 then s.spiRefused accCrc else s).drive []
  else
    let f := wakeFields bs
    let s1 := (s.withWakeKey).drive []
    let reserved : Bool := f.1.getD 2 0 == 0 && f.1.getD 3 0 == 0
    if reserved && s1.wakeFrameOk s.mbx.devAddr f.1 f.2 then
      (if s.psc.state = .firn ∨ s.psc.state = .permafrost ∨ s.psc.committed = true then s1.wakeVerified 0x00 (f.1.getD 1 0).toNat
      else s1)
    else s1.modPsc fun p => { p with wfailSpi := satAdd 0xFFFF p.wfailSpi 1 }

/-- SPI_WAKE_FRAME. -/
def execSpiWakeFrame (bytes : List Byte) (s : State) : Host.Outcome State Fault Refusal := .next (doSpiWakeFrame bytes s)

/-! ### Ethernet management (R425 to R427) -/

/-- A request is discarded and counted (R425 to R427, R438, R468). -/
def State.mgmtDropped (port : Nat) (s : State) : State :=
  ((s.modMbx fun m => { m with ethDropped := satAdd 0xFFFF m.ethDropped 1 }).modStat port fun x =>
    { x with mgmt := satAdd 0xFFFFFFFF x.mgmt 1 }).raise 0 9

/-- A request's length matches its op and count, and its type and reserved fields are right (R426). -/
def mgmtWellFormed (p : List Byte) : Bool :=
  let op := uAt p 4 1
  decide (12 ≤ p.length) && uAt p 0 2 == 0x0D01 && zeroAt p 6 2 && zeroAt p 11 1 &&
    ((op == 2 && p.length == 12 + 4 * uAt p 5 1) || (op == 3 && p.length == 12))

/-- A reply (R426): a refused read returns zero words, 64 at most. -/
def mgmtReply (p : List Byte) (status : Nat) (ws : List Word) : List Byte :=
  leBytes 2 0x0D02 ++ slice p 2 2 ++ leBytes 1 status ++ slice p 5 1 ++ zeros 2 ++ slice p 8 4 ++ bytesOf ws

/-- A request is executed (R420, R421, R426). -/
def State.mgmtServe (p : List Byte) (s : State) : List Byte × State :=
  let a := uAt p 8 4
  let n := uAt p 5 1
  let status := s.accessStatus a n
  if status = accDone then
    if uAt p 4 1 = 2 then (mgmtReply p status [], writeRange .eth a (wordsOf n (p.drop 12)) s)
    else
      let x := readRange .eth n a s
      (mgmtReply p status x.1, x.2)
  else
    (mgmtReply p status (if uAt p 4 1 = 2 then [] else List.replicate (min n 64) 0),
      if status = accAsleep then s.wakeSource 0x09 else s)

/-- A reply is sent, and kept for 1 s among the last sixteen (R427). -/
def State.sendReply (addr srcPort port : Nat) (p reply : List Byte) (s : State) : State :=
  (s.modMbx fun m =>
    { m with
      mgmtOut := reply
      kept := ({ addr := addr, port := srcPort, reqSeq := uAt p 2 2, reply := reply, madeNs := s.now } :: m.kept).take 16 }).modStat
    port fun x => { x with tx := satAdd 0xFFFFFFFF x.tx 1 }

/-- A kept reply to the request (R427). -/
def State.keptFor (s : State) (addr srcPort reqSeq : Nat) : Option KeptReply :=
  s.dropKept.mbx.kept.find? fun k => k.addr == addr && k.port == srcPort && k.reqSeq == reqSeq

/-- The port's management peer is the sender of its most recent command (R381). -/
def State.peerSeen (port addr srcPort : Nat) (s : State) : State :=
  s.modEvc fun e => { e with mgmtPeer := e.mgmtPeer.set port true, mgmtAddr := e.mgmtAddr.set port (addr, srcPort) }

/-- The meaning of MGMT_REQUEST (R425 to R427): a datagram for mgmt_port at the device's address, with its sender and its
payload; it is work in Drift (R491), and a kept uplink in Firn drops it (R492). -/
def doMgmtRequest (port : Nat) (protectedFrame : Bool) (addr srcPort : Nat) (p : List Byte) (s : State) : State :=
  if !(decide (port < 2) && s.mbx.ready && s.phyOn port) then s
  else if !s.portOn port then doFrameDiscarded port s
  else
    let s1 := s.rxFrame port
    if !s1.takes port protectedFrame || s1.net.mgmtOff.getD port false || !mgmtWellFormed p || decide (32 ≤ s1.mbx.mgmtQueue) then
      s1.mgmtDropped port
    else
      let s2 := s1.peerSeen port addr srcPort
      match s2.keptFor addr srcPort (uAt p 2 2) with
      | some k =>
        ((s2.modMbx fun m => { m with ethDup := satAdd 0xFFFF m.ethDup 1, mgmtOut := k.reply }).modStat port fun x =>
          { x with tx := satAdd 0xFFFFFFFF x.tx 1 }).wakeSource 0x0D
      | none =>
        let y := s2.mgmtServe p
        (y.2.sendReply addr srcPort port p y.1).wakeSource 0x0D

/-- MGMT_REQUEST. -/
def execMgmtRequest (port : Nat) (protectedFrame : Bool) (srcAddr srcPort : Nat) (payload : List Byte) (s : State) :
    Host.Outcome State Fault Refusal := .next (doMgmtRequest port protectedFrame srcAddr srcPort payload s)

end Sys2Proof.Machine
end

