-- ==== Sys2Proof/Machine/Resilience.lean ====
section
/-!
DEFINITION. The cipher alarm and the engine's self-test (R258 to R264), VCORE and the tempo governor (R34 to R37), and the
die-to-die links (R26, R511).
-/
namespace Sys2Proof.Machine

/-! ### Alarms (R258 to R260) -/

/-- fault_window in ns (R260). -/
def State.alarmWindow (s : State) : Nat := s.cfgN recCipher 19 * hourNs

/-- The alarms that fall within fault_window of now, less the uncertainty (R260, R333). -/
def State.alarmsNear (s : State) : Nat :=
  (s.crypt.alarms.filter fun p => p.2 == s.tbu.epoch && decide (s.sinceLess p.1 < s.alarmWindow)).length

/-- An alarm (R258 steps 3 to 5): avalanche erase, sealed slots, the self-test, its stamp, and the zeroisation that
fault_zeroise of them bring (R260). An alarm in a self-test that runs already erases nothing more (R523). -/
def State.cipherAlarm (s : State) : State :=
  let s1 := (if s.crypt.selfTest then s else s.avalanche).startSelfTest true
  let s2 := s1.modCrypt fun x => { x with alarms := (x.alarms ++ [(s.now, s.tbu.epoch)]).drop (x.alarms.length + 1 - 16) }
  (s2.modCrypt fun x => { x with zeroiseNext := x.zeroiseNext || decide (s.cfgN recCipher 18 ≤ s2.alarmsNear) }).raise 6 1

/-- The iterated core's alarm while PD5 is gated wakes PD5 for the self-test (R264, R491). -/
def State.wakeForTest (s : State) : State :=
  if s.pdOn 5 then s else (s.modPsc fun p => { p with pdSelfTest := true }).wakeSource 0x08

/-- The meaning of DATAPATH_MISMATCH (R251, R258): a recomputation that agrees masks the fault, and its message's record says so;
one that disagrees is an alarm. The detail that the entry carries is not stated. -/
def doDatapathMismatch (chan : Option Nat) (again : Bool) (s : State) : State :=
  if s.psc.state = .nunatakHold ∨ (chan.isSome ∧ s.pdOn 5 = false) then s
  else if again then (if chan.isNone then s.cipherAlarm.wakeForTest else s.cipherAlarm)
  else
    (match chan with
    | some c => s.modChan c fun (x : Chan) => { x with cur := x.cur.map fun (m : Msg) => { m with recomputed := true } }
    | none => s).healthFree 0x0040 (bit chan.isNone) 0

/-- DATAPATH_MISMATCH. -/
def execDatapathMismatch (chan : Option Nat) (again : Bool) (s : State) : Host.Outcome State Fault Refusal :=
  .next (doDatapathMismatch chan again s)

/-- Held messages restart from their present segment (R261). -/
def State.markRecomputed (s : State) : State :=
  let f := fun (o : Option Msg) => o.map fun m => { m with recomputed := true }
  s.modCrypt fun x => { x with chans := x.chans.map fun c => { c with cur := f c.cur, susp := f c.susp } }

/-- The alarm is appended to Moraine and the health log (R258 step 7, R315). -/
def State.noteAlarm (s : State) : State := (s.ledgerAdd 0x31 0 (leBytes 1 (min s.alarmsNear 255))).healthFree 0x0041 0 5

/-- The self-test passes (R258 to R261, R264). -/
def State.selfTestPass (s : State) : State :=
  let s1 := (s.modCrypt fun x => { x with sealed := false, selfTest := false, selfTestAlarm := false }).drawWrapKey.raise 6 2
  let s2 := if s.crypt.selfTestAlarm then s1.markRecomputed.noteAlarm else s1
  let s3 := if s.crypt.zeroiseNext then s2.zeroise.modCrypt fun x => { x with zeroiseNext := false } else s2
  (if s.psc.pdSelfTest then
    (s3.modCrypt fun x => { x with wakeKey := s3.deriveWakeKey }).modPsc fun p => { p with pdSelfTest := false }
  else s3).serveSealed.serveMacsec

/-- The meaning of ENGINE_SELF_TEST_END (R258): on a failure the device takes a recovery reset. -/
def doEngineSelfTestEnd (passed : Bool) (s : State) : State :=
  if s.crypt.selfTest = false ∨ s.pdOn 5 = false then s
  else if passed then s.selfTestPass
  else s.recoveryReset 3

/-- ENGINE_SELF_TEST_END. -/
def execEngineSelfTestEnd (passed : Bool) (s : State) : Host.Outcome State Fault Refusal := .next (doEngineSelfTestEnd passed s)

/-! ### VCORE and the governor (R34 to R37) -/

/-- The meaning of VCORE_UNDERVOLTAGE (R37). -/
def doVcoreUndervoltage (s : State) : State := if s.lineUp then s.recoveryReset 2 else s

/-- VCORE_UNDERVOLTAGE. -/
def execVcoreUndervoltage (s : State) : Host.Outcome State Fault Refusal := .next (doVcoreUndervoltage s)

/-- VCORE is to stay at or above 0.60 V (R35); a committed pwr.sleep does not count (R484). -/
def State.vcoreFloor (s : State) : Nat :=
  let work : Bool := (s.evc.coreQ.any (!·.isEmpty)) ||
    [Role.radio, .field, .decision, .host].any s.roleBusy || (s.radio.st != .off && s.radio.st != .standby) ||
    !s.lf.flight.isEmpty || s.crypt.chans.any (fun (c : Chan) => !c.queue.isEmpty || c.cur.isSome || c.susp.isSome) ||
    (List.range 8).any fun n => (s.box n).st == .issued && !(s.psc.committed && s.psc.sleepMb == some n)
  if work then 600 else 550

/-- The powered domains, PD1 to PD13, whose tempo meets a test. -/
def State.domainsWhere (s : State) (tempos : List Nat) (p : Nat → Bool) : List Nat :=
  (List.range 13).filterMap fun i => if s.pdOn (i + 1) && p (tempos.getD i 0) then some (i + 1) else none

/-- VCORE after an update (R34 to R36): one step of 5 mV towards its floor or towards what the demand asks, and none below its
floor. -/
def nextVcore (floor vcore : Nat) (short high : Bool) : Nat :=
  if vcore < floor ∨ short = true then min 850 (vcore + 5)
  else if high = true ∧ floor + 5 ≤ vcore then vcore - 5
  else vcore

/-- 10 mV per µs lets VCORE take its next step of 5 mV 500 ns after the last one (R34). -/
def State.vcoreFree (s : State) : Bool :=
  match s.power.stepNs with
  | some t => decide (t + 500 ≤ s.now) || decide (s.now < t)
  | none => true

/-- The meaning of TEMPO_GOVERNOR_UPDATE (R34 to R36). A demand unmet at 0.85 V is counted, entered in the health log and raised
as source 6 of group 12. -/
def doTempoGovernorUpdate (tempos : List Nat) (demand : Nat) (s : State) : State :=
  let kept := (List.range 13).map fun i => if s.pdOn (i + 1) then min (tempos.getD i 0) 0xFFFF else 0
  let short := s.domainsWhere kept fun t => decide (t < demand)
  let high := (s.domainsWhere kept fun t => decide (10 * t ≤ 11 * demand)).isEmpty
  let since := if high then (if s.power.above.isSome then s.power.above else some s.now) else none
  let held := match since with
    | some t => decide (t + 1000000 ≤ s.now)
    | none => false
  let v := if s.vcoreFree then nextVcore s.vcoreFloor s.power.vcore (!short.isEmpty) held else s.power.vcore
  let s1 := s.modPower fun p =>
    { p with
      tempo := kept, demand := min demand 0xFFFF, above := since, vcore := v
      stepNs := if v = p.vcore then p.stepNs else some s.now }
  match short with
  | [] => s1
  | d :: _ =>
    if s.power.vcore < 850 then s1
    else ((s1.modPower fun p => { p with unmet := satAdd 0xFFFFFFFF p.unmet 1 }).healthFree 0x0070 d 7).raise 12 6

/-- TEMPO_GOVERNOR_UPDATE. -/
def execTempoGovernorUpdate (tempos : List Nat) (demand : Nat) (s : State) : Host.Outcome State Fault Refusal :=
  .next (if s.lineUp then doTempoGovernorUpdate tempos demand s else s)

/-! ### Die-to-die links (R26, R511) -/

/-- A link's retraining fails: three times within 1 s is a recovery reset (R511). -/
def State.linkFail (link : Nat) (s : State) : State :=
  let recent := (s.power.linkFails.filter fun p => decide (s.now ≤ p.2 + 1000000000)) ++ [(link, s.now)]
  let s1 := s.modPower fun p => { p with linkFails := recent }
  if 3 ≤ (recent.filter fun p => p.1 == link).length then (s1.modPower fun p => { p with linkFails := [] }).recoveryReset 4 else s1

/-- The meaning of DIE_LINK_CRC_FAIL (R26, R511). -/
def doDieLinkCrcFail (link : Nat) (again failed : Bool) (s : State) : State :=
  if !s.lineUp then s
  else
    let s1 := s.healthFree 0x0030 link 0
    if !again then s1 else if failed then s1.linkFail link else s1.healthFree 0x0031 link 0

/-- DIE_LINK_CRC_FAIL. -/
def execDieLinkCrcFail (link : Nat) (again failed : Bool) (s : State) : Host.Outcome State Fault Refusal :=
  .next (doDieLinkCrcFail link again failed s)

end Sys2Proof.Machine
end

