-- ==== Sys2Proof/Machine/Dispatch.lean ====
section
/-!
DEFINITION. The dispatch of a command to its meaning, one arm per constructor of Instr.
-/
namespace Sys2Proof.Machine

def exec (i : Instr) (s : State) : Host.Outcome State Fault Refusal :=
  match i with
  | .powerOnReset => Sys2Proof.Machine.execPowerOnReset s
  | .rstNAsserted lowNs => Sys2Proof.Machine.execRstNAsserted lowNs s
  | .resetRelease report => Sys2Proof.Machine.execResetRelease report s
  | .bootSelfTestRetry report => Sys2Proof.Machine.execBootSelfTestRetry report s
  | .bootMonitorExpiry report => Sys2Proof.Machine.execBootMonitorExpiry report s
  | .trialConfirmation => Sys2Proof.Machine.execTrialConfirmation s
  | .lineLoss => Sys2Proof.Machine.execLineLoss s
  | .linePowerReturn => Sys2Proof.Machine.execLinePowerReturn s
  | .vresExhausted => Sys2Proof.Machine.execVresExhausted s
  | .vresMeasurement mv => Sys2Proof.Machine.execVresMeasurement mv s
  | .feedDeliveringChange feed on => Sys2Proof.Machine.execFeedDeliveringChange feed on s
  | .feedOv feed on => Sys2Proof.Machine.execFeedOv feed on s
  | .sccpClassification feed => Sys2Proof.Machine.execSccpClassification feed s
  | .sccpClassWrite feed cls => Sys2Proof.Machine.execSccpClassWrite feed cls s
  | .vcoreUndervoltage => Sys2Proof.Machine.execVcoreUndervoltage s
  | .tempoGovernorUpdate tempos demand => Sys2Proof.Machine.execTempoGovernorUpdate tempos demand s
  | .referenceFailed edgeAge => Sys2Proof.Machine.execReferenceFailed edgeAge s
  | .slowCrystalFailed edgeAge => Sys2Proof.Machine.execSlowCrystalFailed edgeAge s
  | .sourceQualified src => Sys2Proof.Machine.execSourceQualified src s
  | .tbuStart => Sys2Proof.Machine.execTbuStart s
  | .trimWindowEnd d temp => Sys2Proof.Machine.execTrimWindowEnd d temp s
  | .temperatureSample temp => Sys2Proof.Machine.execTemperatureSample temp s
  | .accrualSecond => Sys2Proof.Machine.execAccrualSecond s
  | .hourlyHistoryPoint => Sys2Proof.Machine.execHourlyHistoryPoint s
  | .counterOutvoted lane value => Sys2Proof.Machine.execCounterOutvoted lane value s
  | .timestampExtensionCompare off => Sys2Proof.Machine.execTimestampExtensionCompare off s
  | .ppsEdge => Sys2Proof.Machine.execPpsEdge s
  | .ppsPulseEnd => Sys2Proof.Machine.execPpsPulseEnd s
  | .syncInterval => Sys2Proof.Machine.execSyncInterval s
  | .announceInterval => Sys2Proof.Machine.execAnnounceInterval s
  | .gptpForeignFrame kind => Sys2Proof.Machine.execGptpForeignFrame kind s
  | .pdelayReq port => Sys2Proof.Machine.execPdelayReq port s
  | .tbuNsLoRead req => Sys2Proof.Machine.execTbuNsLoRead req s
  | .tbuUaccLoRead req => Sys2Proof.Machine.execTbuUaccLoRead req s
  | .registerWrite req addr w => Sys2Proof.Machine.execRegisterWrite req addr w s
  | .timerTick timer => Sys2Proof.Machine.execTimerTick timer s
  | .timerWrap timer => Sys2Proof.Machine.execTimerWrap timer s
  | .compareFire timer unit => Sys2Proof.Machine.execCompareFire timer unit s
  | .tmrnCtrlWrite timer w => Sys2Proof.Machine.execTmrnCtrlWrite timer w s
  | .swtrig timer => Sys2Proof.Machine.execSwtrig timer s
  | .tmrnCntWrite timer w => Sys2Proof.Machine.execTmrnCntWrite timer w s
  | .tmrnCmpWrite timer unit w => Sys2Proof.Machine.execTmrnCmpWrite timer unit w s
  | .tmrnCapRead req timer => Sys2Proof.Machine.execTmrnCapRead req timer s
  | .almmLoWrite req alarm w => Sys2Proof.Machine.execAlmmLoWrite req alarm w s
  | .almmLoRead req alarm => Sys2Proof.Machine.execAlmmLoRead req alarm s
  | .alarmFire alarm => Sys2Proof.Machine.execAlarmFire alarm s
  | .alarmDisarm alarm => Sys2Proof.Machine.execAlarmDisarm alarm s
  | .pinPulseEnd pin => Sys2Proof.Machine.execPinPulseEnd pin s
  | .capEdge pin rising => Sys2Proof.Machine.execCapEdge pin rising s
  | .capnLoRead req pin => Sys2Proof.Machine.execCapnLoRead req pin s
  | .capFlush pin => Sys2Proof.Machine.execCapFlush pin s
  | .eventOccurrence group src => Sys2Proof.Machine.execEventOccurrence group src s
  | .batchDueTime group => Sys2Proof.Machine.execBatchDueTime group s
  | .delivery => Sys2Proof.Machine.execDelivery s
  | .evcClaimWrite target w => Sys2Proof.Machine.execEvcClaimWrite target w s
  | .evcDlvRead req target => Sys2Proof.Machine.execEvcDlvRead req target s
  | .retraction target => Sys2Proof.Machine.execRetraction target s
  | .wakeOutPulse group => Sys2Proof.Machine.execWakeOutPulse group s
  | .wakeOutPulseEnd => Sys2Proof.Machine.execWakeOutPulseEnd s
  | .evcSwsetWrite w => Sys2Proof.Machine.execEvcSwsetWrite w s
  | .pscHostSleepWrite w => Sys2Proof.Machine.execPscHostSleepWrite w s
  | .translationFault requester sub access vaddr descRef bytesDone holdable => Sys2Proof.Machine.execTranslationFault requester sub access vaddr descRef bytesDone holdable s
  | .faultRestart requester l1 l2 => Sys2Proof.Machine.execFaultRestart requester l1 l2 s
  | .faultAbort requester => Sys2Proof.Machine.execFaultAbort requester s
  | .faultAbortTimeout => Sys2Proof.Machine.execFaultAbortTimeout s
  | .translationInvalidation req page => Sys2Proof.Machine.execTranslationInvalidation req page s
  | .deadlineFlag writer full => Sys2Proof.Machine.execDeadlineFlag writer full s
  | .arbitrationRound requests => Sys2Proof.Machine.execArbitrationRound requests s
  | .hbwWinCfgWrite window w => Sys2Proof.Machine.execHbwWinCfgWrite window w s
  | .apertureAccess off w => Sys2Proof.Machine.execApertureAccess off w s
  | .uncorrectableWord addr requester sub descRef => Sys2Proof.Machine.execUncorrectableWord addr requester sub descRef s
  | .mramUncorrectableLine line offset both => Sys2Proof.Machine.execMramUncorrectableLine line offset both s
  | .dieLinkCrcFail link again failed => Sys2Proof.Machine.execDieLinkCrcFail link again failed s
  | .spiWriteFrame bytes => Sys2Proof.Machine.execSpiWriteFrame bytes s
  | .spiReadFrame bytes => Sys2Proof.Machine.execSpiReadFrame bytes s
  | .spiWakeFrame bytes => Sys2Proof.Machine.execSpiWakeFrame bytes s
  | .mgmtRequest port protectedFrame srcAddr srcPort payload => Sys2Proof.Machine.execMgmtRequest port protectedFrame srcAddr srcPort payload s
  | .keptReplyExpiry => Sys2Proof.Machine.execKeptReplyExpiry s
  | .doorbell mb => Sys2Proof.Machine.execDoorbell mb s
  | .commandStart role => Sys2Proof.Machine.execCommandStart role s
  | .commandLimit mb => Sys2Proof.Machine.execCommandLimit mb s
  | .commandAreaWrite mb k w => Sys2Proof.Machine.execCommandAreaWrite mb k w s
  | .mbnRes0Read mb => Sys2Proof.Machine.execMbnRes0Read mb s
  | .mbxAckWrite w => Sys2Proof.Machine.execMbxAckWrite w s
  | .sysInfo mb => Sys2Proof.Machine.execSysInfo mb s
  | .sysReset mb => Sys2Proof.Machine.execSysReset mb s
  | .sysEvent mb => Sys2Proof.Machine.execSysEvent mb s
  | .sysHealth mb => Sys2Proof.Machine.execSysHealth mb s
  | .cfgLoad mb => Sys2Proof.Machine.execCfgLoad mb s
  | .cfgActivate mb => Sys2Proof.Machine.execCfgActivate mb s
  | .cfgStatus mb => Sys2Proof.Machine.execCfgStatus mb s
  | .cfgSet mb => Sys2Proof.Machine.execCfgSet mb s
  | .cfgGet mb => Sys2Proof.Machine.execCfgGet mb s
  | .partEnrol mb => Sys2Proof.Machine.execPartEnrol mb s
  | .partEnrolOpen mb => Sys2Proof.Machine.execPartEnrolOpen mb s
  | .partGet mb => Sys2Proof.Machine.execPartGet mb s
  | .partList mb => Sys2Proof.Machine.execPartList mb s
  | .partSet mb => Sys2Proof.Machine.execPartSet mb s
  | .partAbsent mb => Sys2Proof.Machine.execPartAbsent mb s
  | .partRemove mb => Sys2Proof.Machine.execPartRemove mb s
  | .partRekey mb => Sys2Proof.Machine.execPartRekey mb s
  | .partUnlock mb => Sys2Proof.Machine.execPartUnlock mb s
  | .sessPoll mb => Sys2Proof.Machine.execSessPoll mb s
  | .sessStatus mb => Sys2Proof.Machine.execSessStatus mb s
  | .sessLast mb => Sys2Proof.Machine.execSessLast mb s
  | .rangeStatus mb => Sys2Proof.Machine.execRangeStatus mb s
  | .rangeTest mb => Sys2Proof.Machine.execRangeTest mb s
  | .lfStatus mb => Sys2Proof.Machine.execLfStatus mb s
  | .lfDiag mb => Sys2Proof.Machine.execLfDiag mb s
  | .lfTune mb => Sys2Proof.Machine.execLfTune mb s
  | .lfPhase mb => Sys2Proof.Machine.execLfPhase mb s
  | .lfPopulation mb => Sys2Proof.Machine.execLfPopulation mb s
  | .lfPopcheck mb => Sys2Proof.Machine.execLfPopcheck mb s
  | .rfStatus mb => Sys2Proof.Machine.execRfStatus mb s
  | .rfCal mb => Sys2Proof.Machine.execRfCal mb s
  | .rfTest mb => Sys2Proof.Machine.execRfTest mb s
  | .rfCapture mb => Sys2Proof.Machine.execRfCapture mb s
  | .relConsent mb => Sys2Proof.Machine.execRelConsent mb s
  | .relRevoke mb => Sys2Proof.Machine.execRelRevoke mb s
  | .relCancel mb => Sys2Proof.Machine.execRelCancel mb s
  | .relStatus mb => Sys2Proof.Machine.execRelStatus mb s
  | .cryptChan mb => Sys2Proof.Machine.execCryptChan mb s
  | .cryptSubmit mb => Sys2Proof.Machine.execCryptSubmit mb s
  | .cryptDone mb => Sys2Proof.Machine.execCryptDone mb s
  | .cryptCtxOpen mb => Sys2Proof.Machine.execCryptCtxOpen mb s
  | .cryptCtxClose mb => Sys2Proof.Machine.execCryptCtxClose mb s
  | .cryptCtxSave mb => Sys2Proof.Machine.execCryptCtxSave mb s
  | .cryptCtxRestore mb => Sys2Proof.Machine.execCryptCtxRestore mb s
  | .keyWrite mb => Sys2Proof.Machine.execKeyWrite mb s
  | .keyErase mb => Sys2Proof.Machine.execKeyErase mb s
  | .keyInfo mb => Sys2Proof.Machine.execKeyInfo mb s
  | .keyReprovBegin mb => Sys2Proof.Machine.execKeyReprovBegin mb s
  | .keyReprovFinish mb => Sys2Proof.Machine.execKeyReprovFinish mb s
  | .ledgEnergy mb => Sys2Proof.Machine.execLedgEnergy mb s
  | .ledgStatus mb => Sys2Proof.Machine.execLedgStatus mb s
  | .ledgExport mb => Sys2Proof.Machine.execLedgExport mb s
  | .ledgAck mb => Sys2Proof.Machine.execLedgAck mb s
  | .ledgCredit mb => Sys2Proof.Machine.execLedgCredit mb s
  | .timeStatus mb => Sys2Proof.Machine.execTimeStatus mb s
  | .timeCivil mb => Sys2Proof.Machine.execTimeCivil mb s
  | .pwrStatus mb => Sys2Proof.Machine.execPwrStatus mb s
  | .pwrSleep mb => Sys2Proof.Machine.execPwrSleep mb s
  | .diagTempo mb => Sys2Proof.Machine.execDiagTempo mb s
  | .diagFaults mb => Sys2Proof.Machine.execDiagFaults mb s
  | .fwWrite mb => Sys2Proof.Machine.execFwWrite mb s
  | .fwActivate mb => Sys2Proof.Machine.execFwActivate mb s
  | .fwStatus mb => Sys2Proof.Machine.execFwStatus mb s
  | .lfBudgetRecompute pVint pLft bus hot cool => Sys2Proof.Machine.execLfBudgetRecompute pVint pLft bus hot cool s
  | .burstRequest cls what => Sys2Proof.Machine.execBurstRequest cls what s
  | .burstEnd id silent => Sys2Proof.Machine.execBurstEnd id silent s
  | .overcurrentTrip c => Sys2Proof.Machine.execOvercurrentTrip c s
  | .lfOverdraw pVlf pLft => Sys2Proof.Machine.execLfOverdraw pVlf pLft s
  | .resonanceMeasurement c r => Sys2Proof.Machine.execResonanceMeasurement c r s
  | .coilDiagnosticsDue => Sys2Proof.Machine.execCoilDiagnosticsDue s
  | .populationCheckDue => Sys2Proof.Machine.execPopulationCheckDue s
  | .uplinkFrame coil frame => Sys2Proof.Machine.execUplinkFrame coil frame s
  | .noAnswer coil => Sys2Proof.Machine.execNoAnswer coil s
  | .populationPhaseEnd => Sys2Proof.Machine.execPopulationPhaseEnd s
  | .lockoutEnd => Sys2Proof.Machine.execLockoutEnd s
  | .periodicPoll config => Sys2Proof.Machine.execPeriodicPoll config s
  | .slotAnswer slot frame => Sys2Proof.Machine.execSlotAnswer slot frame s
  | .responseWindowClose => Sys2Proof.Machine.execResponseWindowClose s
  | .derivationComplete slot => Sys2Proof.Machine.execDerivationComplete slot s
  | .laneOpen => Sys2Proof.Machine.execLaneOpen s
  | .responseFrame frame => Sys2Proof.Machine.execResponseFrame frame s
  | .tagDeadline => Sys2Proof.Machine.execTagDeadline s
  | .pollFrame => Sys2Proof.Machine.execPollFrame s
  | .rangingResponse m => Sys2Proof.Machine.execRangingResponse m s
  | .finalFrame => Sys2Proof.Machine.execFinalFrame s
  | .reportFrame m payload => Sys2Proof.Machine.execReportFrame m payload s
  | .uwbReceiveWindowExpiry => Sys2Proof.Machine.execUwbReceiveWindowExpiry s
  | .enrolmentWindowExpiry => Sys2Proof.Machine.execEnrolmentWindowExpiry s
  | .candidateEvaluation => Sys2Proof.Machine.execCandidateEvaluation s
  | .authSummaryHourEnd => Sys2Proof.Machine.execAuthSummaryHourEnd s
  | .seqUp => Sys2Proof.Machine.execSeqUp s
  | .seqDown => Sys2Proof.Machine.execSeqDown s
  | .seqIdle limit => Sys2Proof.Machine.execSeqIdle limit s
  | .seqListenUhf region limit => Sys2Proof.Machine.execSeqListenUhf region limit s
  | .seqSendUhf payload rx => Sys2Proof.Machine.execSeqSendUhf payload rx s
  | .seqListenUwb channel limit rx => Sys2Proof.Machine.execSeqListenUwb channel limit rx s
  | .seqSendUwb due limit rx => Sys2Proof.Machine.execSeqSendUwb due limit rx s
  | .seqRange set first limit temp => Sys2Proof.Machine.execSeqRange set first limit temp s
  | .seqCal limit => Sys2Proof.Machine.execSeqCal limit s
  | .lockQualified synth => Sys2Proof.Machine.execLockQualified synth s
  | .settleTimeout => Sys2Proof.Machine.execSettleTimeout s
  | .lockLost synth => Sys2Proof.Machine.execLockLost synth s
  | .calStepEnd temp => Sys2Proof.Machine.execCalStepEnd temp s
  | .uhfFrameEnd => Sys2Proof.Machine.execUhfFrameEnd s
  | .uwbFrameEnd => Sys2Proof.Machine.execUwbFrameEnd s
  | .uhfFrameReceived frame => Sys2Proof.Machine.execUhfFrameReceived frame s
  | .uwbFrameReceived m => Sys2Proof.Machine.execUwbFrameReceived m s
  | .backgroundSlice kind dA dB temp rx => Sys2Proof.Machine.execBackgroundSlice kind dA dB temp rx s
  | .forcedSlice kind dA dB temp rx => Sys2Proof.Machine.execForcedSlice kind dA dB temp rx s
  | .heldCommandTimeout => Sys2Proof.Machine.execHeldCommandTimeout s
  | .transmitGateDeadline => Sys2Proof.Machine.execTransmitGateDeadline s
  | .upRetry => Sys2Proof.Machine.execUpRetry s
  | .recalibrationDue temp => Sys2Proof.Machine.execRecalibrationDue temp s
  | .descriptorQueued chan d => Sys2Proof.Machine.execDescriptorQueued chan d s
  | .requestAdmission chan => Sys2Proof.Machine.execRequestAdmission chan s
  | .completionRecord chan => Sys2Proof.Machine.execCompletionRecord chan s
  | .datapathMismatch chan again => Sys2Proof.Machine.execDatapathMismatch chan again s
  | .engineSelfTestEnd passed => Sys2Proof.Machine.execEngineSelfTestEnd passed s
  | .nonceMarkAdvanceDone slot => Sys2Proof.Machine.execNonceMarkAdvanceDone slot s
  | .macsecRxFrame port frame => Sys2Proof.Machine.execMacsecRxFrame port frame s
  | .macsecTxFrame port header data => Sys2Proof.Machine.execMacsecTxFrame port header data s
  | .cmpwStart req w => Sys2Proof.Machine.execCmpwStart req w s
  | .cmpwAbort req w => Sys2Proof.Machine.execCmpwAbort req w s
  | .cmpwLoad req w => Sys2Proof.Machine.execCmpwLoad req w s
  | .cmpwRelease req w => Sys2Proof.Machine.execCmpwRelease req w s
  | .cmpwBlockDone => Sys2Proof.Machine.execCmpwBlockDone s
  | .cmpwLoadDone => Sys2Proof.Machine.execCmpwLoadDone s
  | .cmpwYieldEnd => Sys2Proof.Machine.execCmpwYieldEnd s
  | .meterSample m0 m1 m2 m3 => Sys2Proof.Machine.execMeterSample m0 m1 m2 m3 s
  | .meanEnd => Sys2Proof.Machine.execMeanEnd s
  | .inputStuck input => Sys2Proof.Machine.execInputStuck input s
  | .counterCommit => Sys2Proof.Machine.execCounterCommit s
  | .summaryBoundary => Sys2Proof.Machine.execSummaryBoundary s
  | .graceExpiry => Sys2Proof.Machine.execGraceExpiry s
  | .queuedEntryAppend => Sys2Proof.Machine.execQueuedEntryAppend s
  | .healthSummaryHour => Sys2Proof.Machine.execHealthSummaryHour s
  | .statisticsHour => Sys2Proof.Machine.execStatisticsHour s
  | .sstlEdge b level => Sys2Proof.Machine.execSstlEdge b level s
  | .sstlDisagree => Sys2Proof.Machine.execSstlDisagree s
  | .readbackWindowEnd fbS dEdge dRule => Sys2Proof.Machine.execReadbackWindowEnd fbS dEdge dRule s
  | .latchComplementTimeout set => Sys2Proof.Machine.execLatchComplementTimeout set s
  | .idleExpiry => Sys2Proof.Machine.execIdleExpiry s
  | .revokeNoticeElapsed => Sys2Proof.Machine.execRevokeNoticeElapsed s
  | .permissionOscillatorTrim ppm => Sys2Proof.Machine.execPermissionOscillatorTrim ppm s
  | .pairDivergence pair => Sys2Proof.Machine.execPairDivergence pair s
  | .roleMigrationComplete => Sys2Proof.Machine.execRoleMigrationComplete s
  | .pairSelfTestEnd pair passed => Sys2Proof.Machine.execPairSelfTestEnd pair passed s
  | .roleReturn role => Sys2Proof.Machine.execRoleReturn role s
  | .pairRetirementEnd pair => Sys2Proof.Machine.execPairRetirementEnd pair s
  | .tamperAssertion input => Sys2Proof.Machine.execTamperAssertion input s
  | .tamperQuiet unit => Sys2Proof.Machine.execTamperQuiet unit s
  | .meshCheck passes => Sys2Proof.Machine.execMeshCheck passes s
  | .tamperConfirmed input => Sys2Proof.Machine.execTamperConfirmed input s
  | .tamperLatchClear => Sys2Proof.Machine.execTamperLatchClear s
  | .sleepCommit => Sys2Proof.Machine.execSleepCommit s
  | .veto domain => Sys2Proof.Machine.execVeto domain s
  | .domainGated => Sys2Proof.Machine.execDomainGated s
  | .driftIdleEntry => Sys2Proof.Machine.execDriftIdleEntry s
  | .wakeSource code => Sys2Proof.Machine.execWakeSource code s
  | .wakeComplete => Sys2Proof.Machine.execWakeComplete s
  | .linkActivity port => Sys2Proof.Machine.execLinkActivity port s
  | .ethernetWakeFrame port payload => Sys2Proof.Machine.execEthernetWakeFrame port payload s
  | .padFrzWrite w => Sys2Proof.Machine.execPadFrzWrite w s
  | .gpioEdge pin rising => Sys2Proof.Machine.execGpioEdge pin rising s
  | .linkChange port up => Sys2Proof.Machine.execLinkChange port up s
  | .autonegTimeout port => Sys2Proof.Machine.execAutonegTimeout port s
  | .mkaHello port => Sys2Proof.Machine.execMkaHello port s
  | .mkaPdu port sci priority ack sak pdu icv => Sys2Proof.Machine.execMkaPdu port sci priority ack sak pdu icv s
  | .mkaLifeExpiry port => Sys2Proof.Machine.execMkaLifeExpiry port s
  | .duplicateAddressDetected port => Sys2Proof.Machine.execDuplicateAddressDetected port s
  | .neighbourSolicitation port protectedFrame => Sys2Proof.Machine.execNeighbourSolicitation port protectedFrame s
  | .echoRequest port protectedFrame data => Sys2Proof.Machine.execEchoRequest port protectedFrame data s
  | .nodeIdClash seg => Sys2Proof.Machine.execNodeIdClash seg s
  | .announceFrame seg frame => Sys2Proof.Machine.execAnnounceFrame seg frame s
  | .nodeCheck => Sys2Proof.Machine.execNodeCheck s
  | .segmentResponse seg frame => Sys2Proof.Machine.execSegmentResponse seg frame s
  | .segmentResponseMiss code => Sys2Proof.Machine.execSegmentResponseMiss code s
  | .enrolChallengeRetry => Sys2Proof.Machine.execEnrolChallengeRetry s
  | .segmentData seg frame => Sys2Proof.Machine.execSegmentData seg frame s
  | .updateIr code => Sys2Proof.Machine.execUpdateIr code s
  | .updateDr cells => Sys2Proof.Machine.execUpdateDr cells s
  | .tapReset => Sys2Proof.Machine.execTapReset s
  | .lfloop pass vlf vint => Sys2Proof.Machine.execLfloop pass vlf vint s
  | .rfloop checks dA dB => Sys2Proof.Machine.execRfloop checks dA dB s
  | .rfTestEnd => Sys2Proof.Machine.execRfTestEnd s
  | .capPinLevelChange pin level => Sys2Proof.Machine.execCapPinLevelChange pin level s
  | .transitionsResume input => Sys2Proof.Machine.execTransitionsResume input s
  | .frameDiscarded port => Sys2Proof.Machine.execFrameDiscarded port s

end Sys2Proof.Machine
end

