-- ==== Sys2Proof/Safety.lean ====
section
/-!
DEFINITION. What counts as a safe run of the block, in the terms that the statements use: the outcomes of a command, the runs
of the machine, and the properties that a run is to keep.
-/
namespace Sys2Proof.Machine

/-- A command answers a next state that has a property. -/
def Answers (c : Instr) (s : State) (P : State → Prop) : Prop := ∃ t, exec c s = .next t ∧ P t

/-- The parts of State, by the name of the field that holds them. -/
inductive Part where
  | tbu | tmr | evc | psc | pad | mbx | boot | cfg | fab | parts | lf | pop | radio | sess
  | rel | crypt | keys | met | ledger | health | net | power | cores | tamper | jtag | mem | free | pending
  deriving DecidableEq, Repr

/-- A part is the same in two states. -/
def Part.Same : Part → State → State → Prop
  | .tbu, s, t => t.tbu = s.tbu
  | .tmr, s, t => t.tmr = s.tmr
  | .evc, s, t => t.evc = s.evc
  | .psc, s, t => t.psc = s.psc
  | .pad, s, t => t.pad = s.pad
  | .mbx, s, t => t.mbx = s.mbx
  | .boot, s, t => t.boot = s.boot
  | .cfg, s, t => t.cfg = s.cfg
  | .fab, s, t => t.fab = s.fab
  | .parts, s, t => t.parts = s.parts
  | .lf, s, t => t.lf = s.lf
  | .pop, s, t => t.pop = s.pop
  | .radio, s, t => t.radio = s.radio
  | .sess, s, t => t.sess = s.sess
  | .rel, s, t => t.rel = s.rel
  | .crypt, s, t => t.crypt = s.crypt
  | .keys, s, t => t.keys = s.keys
  | .met, s, t => t.met = s.met
  | .ledger, s, t => t.ledger = s.ledger
  | .health, s, t => t.health = s.health
  | .net, s, t => t.net = s.net
  | .power, s, t => t.power = s.power
  | .cores, s, t => t.cores = s.cores
  | .tamper, s, t => t.tamper = s.tamper
  | .jtag, s, t => t.jtag = s.jtag
  | .mem, s, t => t.mem = s.mem
  | .free, s, t => t.free = s.free
  | .pending, s, t => t.pending = s.pending

/-- Every part of State but those listed is unchanged from the first state to the second: the frame of what leads from one
to the other. -/
def Only (ps : List Part) (s t : State) : Prop := ∀ p : Part, p ∉ ps → p.Same s t

/-- The parts of State that a command may change: the frame of every row, one list for the rows that may change the same
parts. -/
def mayChange : Instr → List Part
  | .powerOnReset | .lineLoss | .linePowerReturn =>
    [.tbu, .tmr, .evc, .psc, .pad, .mbx, .boot, .cfg, .fab, .parts, .lf, .pop, .radio, .sess, .rel, .crypt, .keys,
     .met, .ledger, .health, .net, .power, .cores, .tamper, .jtag, .mem, .free]
  | .rstNAsserted _ | .uncorrectableWord _ _ _ _ | .engineSelfTestEnd _ | .pairDivergence _ =>
    [.tbu, .tmr, .evc, .psc, .pad, .mbx, .boot, .cfg, .fab, .parts, .lf, .pop, .radio, .sess, .rel, .crypt, .keys,
     .met, .ledger, .health, .net, .cores, .mem, .free]
  | .resetRelease _ | .bootSelfTestRetry _ | .bootMonitorExpiry _ =>
    [.tbu, .tmr, .evc, .psc, .pad, .mbx, .boot, .cfg, .fab, .parts, .lf, .pop, .radio, .sess, .rel, .crypt, .keys,
     .met, .ledger, .health, .net, .cores, .tamper, .mem, .free]
  | .trialConfirmation =>
    [.evc, .boot, .ledger]
  | .vresExhausted | .trimWindowEnd _ _ =>
    [.tbu, .psc]
  | .vresMeasurement _ | .veto _ | .wakeSource _ | .linkActivity _ | .gpioEdge _ _ =>
    [.evc, .psc, .pad, .mbx, .fab, .rel, .ledger]
  | .feedDeliveringChange _ _ | .feedOv _ _ =>
    [.evc, .psc, .pad, .mbx, .fab, .parts, .lf, .pop, .radio, .sess, .rel, .keys, .ledger, .health, .power, .free]
  | .sccpClassification _ =>
    [.power]
  | .sccpClassWrite _ _ | .lfBudgetRecompute _ _ _ _ _ =>
    [.evc, .mbx, .parts, .lf, .pop, .radio, .sess, .keys, .ledger, .health, .power, .free]
  | .vcoreUndervoltage | .sysReset _ | .fwActivate _ =>
    [.tbu, .tmr, .evc, .psc, .pad, .mbx, .boot, .cfg, .fab, .parts, .lf, .pop, .radio, .sess, .rel, .crypt, .keys,
     .met, .ledger, .health, .net, .cores, .mem]
  | .tempoGovernorUpdate _ _ =>
    [.evc, .ledger, .health, .power, .free]
  | .referenceFailed _ | .sourceQualified _ =>
    [.tbu, .evc, .free]
  | .slowCrystalFailed _ =>
    [.tbu, .evc, .psc, .pad, .mbx, .fab, .rel, .ledger, .free]
  | .tbuStart | .hourlyHistoryPoint | .ppsEdge | .ppsPulseEnd =>
    [.tbu]
  | .temperatureSample _ =>
    [.tbu, .power]
  | .accrualSecond | .gptpForeignFrame _ =>
    [.tbu, .evc]
  | .counterOutvoted _ _ =>
    [.tbu, .evc, .ledger, .health, .free]
  | .timestampExtensionCompare _ =>
    [.tbu, .evc, .radio, .ledger, .health, .free]
  | .syncInterval | .announceInterval | .pdelayReq _ =>
    [.tbu, .net]
  | .tbuNsLoRead _ | .tbuUaccLoRead _ | .almmLoRead _ _ | .evcDlvRead _ _ =>
    [.tbu, .mbx]
  | .registerWrite _ _ _ | .spiWriteFrame _ =>
    [.tbu, .tmr, .evc, .psc, .pad, .mbx, .boot, .fab, .radio, .rel, .crypt, .keys, .ledger, .net, .mem]
  | .timerTick _ | .timerWrap _ | .compareFire _ _ | .tmrnCtrlWrite _ _ | .swtrig _ | .tmrnCntWrite _ _
  | .tmrnCmpWrite _ _ _ | .capPinLevelChange _ _ =>
    [.tmr, .evc]
  | .tmrnCapRead _ _ =>
    [.tbu, .tmr, .mbx, .free]
  | .almmLoWrite _ _ _ | .alarmFire _ | .alarmDisarm _ =>
    [.tmr, .evc, .psc, .pad, .mbx, .fab, .rel, .ledger]
  | .pinPulseEnd _ | .capFlush _ =>
    [.tmr]
  | .capEdge _ _ =>
    [.tmr, .evc, .free]
  | .capnLoRead _ _ =>
    [.tbu, .tmr, .mbx]
  | .eventOccurrence _ _ | .batchDueTime _ | .evcClaimWrite _ _ | .retraction _ | .wakeOutPulse _ | .wakeOutPulseEnd
  | .evcSwsetWrite _ =>
    [.evc]
  | .delivery | .pscHostSleepWrite _ | .frameDiscarded _ =>
    [.evc, .psc, .pad, .mbx, .fab, .rel, .ledger, .net]
  | .translationFault _ _ _ _ _ _ _ | .faultRestart _ _ _ =>
    [.fab, .crypt, .mem]
  | .faultAbort _ | .faultAbortTimeout =>
    [.evc, .psc, .pad, .mbx, .fab, .parts, .lf, .pop, .radio, .sess, .rel, .crypt, .keys, .ledger, .health, .net, .mem, .free]
  | .translationInvalidation _ _ | .deadlineFlag _ _ | .arbitrationRound _ | .hbwWinCfgWrite _ _ =>
    [.fab]
  | .apertureAccess _ _ =>
    [.mbx, .fab, .mem]
  | .mramUncorrectableLine _ _ _ =>
    [.evc, .mbx, .boot, .fab, .parts, .pop, .sess, .crypt, .keys, .met, .ledger, .health, .net, .mem, .free]
  | .dieLinkCrcFail _ _ _ =>
    [.tbu, .tmr, .evc, .psc, .pad, .mbx, .boot, .cfg, .fab, .parts, .lf, .pop, .radio, .sess, .rel, .crypt, .keys,
     .met, .ledger, .health, .net, .power, .cores, .mem, .free]
  | .spiReadFrame _ =>
    [.tbu, .tmr, .evc, .psc, .pad, .mbx, .fab, .rel, .ledger, .free]
  | .spiWakeFrame _ =>
    [.evc, .psc, .pad, .mbx, .fab, .rel, .crypt, .ledger]
  | .mgmtRequest _ _ _ _ _ =>
    [.tbu, .tmr, .evc, .psc, .pad, .mbx, .boot, .fab, .radio, .rel, .crypt, .keys, .ledger, .net, .mem, .free]
  | .keptReplyExpiry | .commandStart _ | .commandAreaWrite _ _ _ | .mbnRes0Read _ | .mbxAckWrite _ =>
    [.mbx]
  | .doorbell _ =>
    [.evc, .psc, .pad, .mbx, .fab, .rel, .crypt, .keys, .ledger, .mem]
  | .commandLimit _ =>
    [.evc, .psc, .mbx, .fab, .parts, .lf, .pop, .radio, .sess, .keys, .ledger, .health, .free]
  | .sysInfo _ | .sysEvent _ | .cfgStatus _ | .cfgGet _ | .sessLast _ | .lfPopulation _ | .relStatus _ | .keyInfo _
  | .ledgEnergy _ | .ledgStatus _ | .diagTempo _ | .diagFaults _ | .fwStatus _ =>
    [.evc, .mbx, .fab]
  | .sysHealth _ =>
    [.evc, .mbx, .fab, .mem, .free]
  | .cfgLoad _ | .fwWrite _ =>
    [.evc, .mbx, .boot, .fab, .mem]
  | .cfgActivate _ =>
    [.tbu, .evc, .psc, .pad, .mbx, .boot, .cfg, .fab, .parts, .lf, .pop, .radio, .sess, .rel, .keys, .ledger, .health,
     .tamper, .free]
  | .cfgSet _ =>
    [.tbu, .evc, .psc, .pad, .mbx, .cfg, .fab, .parts, .lf, .pop, .radio, .sess, .rel, .keys, .ledger, .health, .free]
  | .partEnrol _ | .wakeComplete =>
    [.evc, .psc, .pad, .mbx, .fab, .parts, .lf, .pop, .radio, .sess, .rel, .keys, .ledger, .health, .net, .free]
  | .partEnrolOpen _ | .partRekey _ =>
    [.evc, .mbx, .fab, .parts]
  | .partGet _ | .partUnlock _ =>
    [.evc, .mbx, .fab, .parts, .ledger]
  | .partList _ =>
    [.evc, .mbx, .fab, .ledger, .mem]
  | .partSet _ | .burstEnd _ _ | .uplinkFrame _ _ =>
    [.evc, .mbx, .fab, .parts, .lf, .pop, .radio, .sess, .keys, .ledger, .health, .free]
  | .partAbsent _ | .partRemove _ =>
    [.evc, .mbx, .fab, .parts, .lf, .pop, .radio, .sess, .keys, .ledger, .health, .net, .free]
  | .sessPoll _ | .rangeTest _ | .lfDiag _ | .lfPhase _ | .lfPopcheck _ | .relConsent _ | .relCancel _
  | .burstRequest _ _ | .overcurrentTrip _ | .resonanceMeasurement _ _ | .coilDiagnosticsDue | .populationCheckDue
  | .populationPhaseEnd | .lockoutEnd | .periodicPoll _ | .responseWindowClose | .readbackWindowEnd _ _ _ =>
    [.evc, .psc, .pad, .mbx, .fab, .parts, .lf, .pop, .radio, .sess, .rel, .keys, .ledger, .health, .free]
  | .sessStatus _ | .rangeStatus _ | .lfStatus _ | .cryptCtxSave _ | .ledgExport _ | .timeStatus _ =>
    [.evc, .mbx, .fab, .mem]
  | .lfTune _ =>
    [.evc, .mbx, .cfg, .fab]
  | .rfStatus _ | .pwrStatus _ =>
    [.evc, .mbx, .fab, .free]
  | .rfCal _ | .rfTest _ | .rfCapture _ | .seqUp | .upRetry =>
    [.tbu, .evc, .psc, .pad, .mbx, .fab, .parts, .lf, .pop, .radio, .sess, .rel, .keys, .ledger, .health, .mem, .free]
  | .relRevoke _ =>
    [.evc, .mbx, .fab, .rel]
  | .cryptChan _ | .cryptDone _ | .cryptCtxOpen _ | .cryptCtxRestore _ =>
    [.evc, .mbx, .fab, .crypt]
  | .cryptSubmit _ | .descriptorQueued _ _ | .requestAdmission _ | .completionRecord _ =>
    [.evc, .mbx, .fab, .crypt, .keys, .mem]
  | .cryptCtxClose _ =>
    [.evc, .mbx, .fab, .crypt, .keys]
  | .keyWrite _ | .keyReprovFinish _ =>
    [.evc, .mbx, .fab, .keys, .ledger]
  | .keyErase _ =>
    [.evc, .mbx, .fab, .parts, .pop, .sess, .crypt, .keys, .ledger, .net, .mem]
  | .keyReprovBegin _ =>
    [.evc, .mbx, .fab, .keys, .ledger, .free]
  | .ledgAck _ =>
    [.evc, .mbx, .fab, .ledger]
  | .ledgCredit _ | .meterSample _ _ _ _ | .meanEnd | .sstlEdge _ _ =>
    [.evc, .psc, .pad, .mbx, .fab, .parts, .lf, .pop, .radio, .sess, .rel, .keys, .met, .ledger, .health, .free]
  | .timeCivil _ =>
    [.tbu, .evc, .mbx, .fab]
  | .pwrSleep _ =>
    [.evc, .psc, .pad, .mbx, .fab, .radio, .sess, .rel, .ledger]
  | .lfOverdraw _ _ =>
    [.evc, .lf, .sess, .keys, .ledger, .health, .free]
  | .noAnswer _ =>
    [.evc, .mbx, .parts, .lf, .pop, .radio, .sess, .keys, .ledger, .health, .free]
  | .slotAnswer _ _ | .derivationComplete _ =>
    [.sess]
  | .laneOpen | .responseFrame _ | .tagDeadline | .pollFrame | .rangingResponse _ | .finalFrame | .reportFrame _ _
  | .uwbReceiveWindowExpiry | .seqDown | .seqIdle _ | .seqListenUhf _ _ | .seqSendUhf _ _ | .seqListenUwb _ _ _
  | .seqSendUwb _ _ _ | .seqRange _ _ _ _ | .seqCal _ | .lockQualified _ | .settleTimeout | .lockLost _ | .calStepEnd _
  | .uhfFrameEnd | .uwbFrameEnd | .uhfFrameReceived _ | .uwbFrameReceived _ | .backgroundSlice _ _ _ _ _
  | .forcedSlice _ _ _ _ _ | .heldCommandTimeout | .transmitGateDeadline | .recalibrationDue _ | .rfTestEnd =>
    [.evc, .psc, .pad, .mbx, .fab, .parts, .lf, .pop, .radio, .sess, .rel, .keys, .ledger, .health, .mem, .free]
  | .enrolmentWindowExpiry =>
    [.evc, .parts]
  | .candidateEvaluation | .authSummaryHourEnd =>
    [.evc, .parts, .ledger]
  | .datapathMismatch _ _ =>
    [.evc, .psc, .pad, .mbx, .fab, .sess, .rel, .crypt, .ledger, .health, .free]
  | .nonceMarkAdvanceDone _ =>
    [.keys]
  | .macsecRxFrame _ _ =>
    [.crypt, .net]
  | .macsecTxFrame _ _ _ | .mkaPdu _ _ _ _ _ _ _ =>
    [.evc, .crypt, .net, .free]
  | .cmpwStart _ _ | .cmpwAbort _ _ | .cmpwLoad _ _ | .cmpwRelease _ _ | .cmpwLoadDone | .cmpwYieldEnd =>
    [.crypt]
  | .cmpwBlockDone =>
    [.evc, .crypt]
  | .inputStuck _ | .summaryBoundary | .transitionsResume _ =>
    [.evc, .met, .ledger]
  | .counterCommit =>
    [.met]
  | .graceExpiry | .idleExpiry | .revokeNoticeElapsed | .permissionOscillatorTrim _ =>
    [.rel]
  | .queuedEntryAppend =>
    [.evc, .ledger]
  | .healthSummaryHour =>
    [.evc, .ledger, .health]
  | .statisticsHour | .linkChange _ _ =>
    [.evc, .ledger, .health, .net, .free]
  | .sstlDisagree =>
    [.evc, .rel]
  | .latchComplementTimeout _ =>
    [.evc, .rel, .ledger, .health, .free]
  | .roleMigrationComplete =>
    [.evc, .psc, .pad, .mbx, .fab, .parts, .lf, .pop, .radio, .sess, .rel, .keys, .ledger, .health, .cores, .mem, .free]
  | .pairSelfTestEnd _ _ =>
    [.evc, .ledger, .health, .cores, .free]
  | .roleReturn _ =>
    [.radio, .sess, .cores]
  | .pairRetirementEnd _ =>
    [.cores]
  | .tamperAssertion _ =>
    [.evc, .psc, .pad, .mbx, .fab, .parts, .lf, .pop, .radio, .sess, .rel, .crypt, .keys, .ledger, .health, .tamper,
     .mem, .free]
  | .tamperQuiet _ | .tamperLatchClear =>
    [.evc, .psc, .pad, .mbx, .fab, .parts, .lf, .pop, .radio, .sess, .rel, .keys, .ledger, .health, .tamper, .free]
  | .meshCheck _ =>
    [.evc, .psc, .pad, .mbx, .fab, .parts, .lf, .pop, .radio, .sess, .rel, .crypt, .keys, .ledger, .health, .net,
     .tamper, .mem, .free]
  | .tamperConfirmed _ =>
    [.evc, .psc, .pad, .mbx, .boot, .fab, .parts, .lf, .pop, .radio, .sess, .rel, .crypt, .keys, .ledger, .health,
     .net, .tamper, .mem, .free]
  | .sleepCommit =>
    [.tbu, .evc, .psc, .pad, .mbx, .fab, .parts, .rel, .crypt, .met, .ledger, .net, .free]
  | .domainGated =>
    [.tbu, .evc, .psc, .pad, .mbx, .fab, .rel, .met, .ledger, .net, .free]
  | .driftIdleEntry =>
    [.tbu, .evc, .psc, .parts, .crypt, .met, .ledger, .net, .free]
  | .ethernetWakeFrame _ _ =>
    [.evc, .psc, .pad, .mbx, .fab, .rel, .crypt, .ledger, .net]
  | .padFrzWrite _ =>
    [.tbu, .evc, .psc, .pad, .mbx, .fab, .radio, .rel, .ledger]
  | .autonegTimeout _ | .mkaHello _ | .neighbourSolicitation _ _ | .echoRequest _ _ _ =>
    [.net]
  | .mkaLifeExpiry _ =>
    [.crypt, .net, .free]
  | .duplicateAddressDetected _ | .nodeIdClash _ =>
    [.evc, .ledger, .net, .free]
  | .announceFrame _ _ | .nodeCheck =>
    [.evc, .parts, .ledger, .net, .free]
  | .segmentResponse _ _ =>
    [.evc, .mbx, .fab, .parts, .keys, .ledger, .net]
  | .segmentResponseMiss _ =>
    [.evc, .parts, .keys, .ledger, .net]
  | .enrolChallengeRetry =>
    [.evc, .mbx, .fab, .parts, .ledger, .net, .free]
  | .segmentData _ _ =>
    [.evc, .parts, .ledger, .net]
  | .updateIr _ | .tapReset =>
    [.tbu, .tmr, .evc, .psc, .pad, .mbx, .boot, .cfg, .fab, .parts, .lf, .pop, .radio, .sess, .rel, .crypt, .keys,
     .met, .ledger, .health, .net, .cores, .jtag, .mem]
  | .updateDr _ | .lfloop _ _ _ | .rfloop _ _ _ =>
    [.jtag]

/-! ### Commands of the mailboxes -/

/-- The mailbox and the opcode of a row that carries out a mailbox command (R431); none for every other row. -/
def mailboxCommand : Instr → Option (Nat × Nat)
  | .sysInfo mb => some (mb, 0x0101)
  | .sysReset mb => some (mb, 0x0102)
  | .sysEvent mb => some (mb, 0x0103)
  | .sysHealth mb => some (mb, 0x0104)
  | .cfgLoad mb => some (mb, 0x0201)
  | .cfgActivate mb => some (mb, 0x0202)
  | .cfgStatus mb => some (mb, 0x0203)
  | .cfgSet mb => some (mb, 0x0204)
  | .cfgGet mb => some (mb, 0x0205)
  | .partEnrol mb => some (mb, 0x0301)
  | .partEnrolOpen mb => some (mb, 0x0302)
  | .partGet mb => some (mb, 0x0303)
  | .partList mb => some (mb, 0x0304)
  | .partSet mb => some (mb, 0x0305)
  | .partAbsent mb => some (mb, 0x0306)
  | .partRemove mb => some (mb, 0x0307)
  | .partRekey mb => some (mb, 0x0308)
  | .partUnlock mb => some (mb, 0x0309)
  | .sessPoll mb => some (mb, 0x0401)
  | .sessStatus mb => some (mb, 0x0402)
  | .sessLast mb => some (mb, 0x0403)
  | .rangeStatus mb => some (mb, 0x0501)
  | .rangeTest mb => some (mb, 0x0502)
  | .lfStatus mb => some (mb, 0x0601)
  | .lfDiag mb => some (mb, 0x0602)
  | .lfTune mb => some (mb, 0x0603)
  | .lfPhase mb => some (mb, 0x0604)
  | .lfPopulation mb => some (mb, 0x0605)
  | .lfPopcheck mb => some (mb, 0x0606)
  | .rfStatus mb => some (mb, 0x0701)
  | .rfCal mb => some (mb, 0x0702)
  | .rfTest mb => some (mb, 0x0703)
  | .rfCapture mb => some (mb, 0x0704)
  | .relConsent mb => some (mb, 0x0801)
  | .relRevoke mb => some (mb, 0x0802)
  | .relCancel mb => some (mb, 0x0803)
  | .relStatus mb => some (mb, 0x0804)
  | .cryptChan mb => some (mb, 0x0901)
  | .cryptSubmit mb => some (mb, 0x0902)
  | .cryptDone mb => some (mb, 0x0903)
  | .cryptCtxOpen mb => some (mb, 0x0904)
  | .cryptCtxClose mb => some (mb, 0x0905)
  | .cryptCtxSave mb => some (mb, 0x0906)
  | .cryptCtxRestore mb => some (mb, 0x0907)
  | .keyWrite mb => some (mb, 0x0A01)
  | .keyErase mb => some (mb, 0x0A02)
  | .keyInfo mb => some (mb, 0x0A03)
  | .keyReprovBegin mb => some (mb, 0x0A04)
  | .keyReprovFinish mb => some (mb, 0x0A05)
  | .ledgEnergy mb => some (mb, 0x0B01)
  | .ledgStatus mb => some (mb, 0x0B02)
  | .ledgExport mb => some (mb, 0x0B03)
  | .ledgAck mb => some (mb, 0x0B04)
  | .ledgCredit mb => some (mb, 0x0B05)
  | .timeStatus mb => some (mb, 0x0C01)
  | .timeCivil mb => some (mb, 0x0C02)
  | .pwrStatus mb => some (mb, 0x0D01)
  | .pwrSleep mb => some (mb, 0x0D02)
  | .diagTempo mb => some (mb, 0x0E01)
  | .diagFaults mb => some (mb, 0x0E02)
  | .fwWrite mb => some (mb, 0x0F01)
  | .fwActivate mb => some (mb, 0x0F02)
  | .fwStatus mb => some (mb, 0x0F03)
  | _ => none

/-- The command of the opcode is started in the mailbox, its role is in place, and its limit has not passed (R30, R433,
R434). -/
def Started (s : State) (mb op : Nat) : Prop :=
  s.runs mb op = true ∧ s.rolePlaced (roleOf op) = true ∧ s.now ≤ (s.box mb).limit

/-- What the command's own checks answer as it starts: none lets it act (R432, R444). -/
def State.ownCheck (s : State) (mb op : Nat) : Option Nat :=
  checked (cmdCheck mb op).1 (cmdCheck mb op).2 (s.cmdView mb) (s.box mb)

/-- The command starts and its own checks let it act. -/
def Takes (s : State) (mb op : Nat) : Prop := Started s mb op ∧ s.ownCheck mb op = none

/-- The mailbox holds a posted result with the status, the body and the consumed count, laid out as R430 says, for the
command that stood in it. -/
def Posted (s t : State) (mb status consumed : Nat) (body : List Byte) : Prop :=
  (t.box mb).st = .posted ∧ (t.box mb).reads = 0 ∧ (t.box mb).run = (s.box mb).run ∧
    (t.box mb).res = resultWords (s.box mb) status consumed (s.now % 2 ^ 32) body

/-- A completed effect is posted: the whole payload is consumed (R430, R446). -/
def Completed (s t : State) (mb status : Nat) (body : List Byte) : Prop :=
  Posted s t mb status (s.box mb).payload.length body

/-- A refusal is posted: no body, nothing consumed (R446). -/
def RefusedWith (s t : State) (mb status : Nat) : Prop := Posted s t mb status 0 []

/-- The bytes of an SPI WRITE frame: opcode, device address, address, data words, CRC (R417 to R419). -/
def writeFrame (dev a : Nat) (ws : List Word) : List Byte :=
  let bs := beBytes 1 0x02 ++ beBytes 1 dev ++ beBytes 3 a ++ beBytesOf ws
  bs ++ beBytes 2 (crc16 bs)

/-- The bytes of an SPI READ frame up to its last wait byte (R417 to R419). -/
def readFrame (dev a n waits : Nat) : List Byte :=
  let bs := beBytes 1 0x03 ++ beBytes 1 dev ++ beBytes 3 a ++ beBytes 1 n
  bs ++ beBytes 2 (crc16 bs) ++ zeros waits

/-- No slave, capture unit or pin selects the trigger code (R351). -/
def State.unheard (s : State) (code : Nat) : Prop :=
  (∀ m, m < 8 → (s.timer m).trig ≠ code ∧ fld (s.timer m).capSrc 0 6 ≠ code) ∧
    ∀ p, p < 4 → fld (s.pin p).ctrl 10 6 ≠ code

/-- Nothing selects what timer n produces: its wrap, its two compare units and its output level (R351). -/
def State.alone (s : State) (n : Nat) : Prop :=
  s.unheard (0x01 + n) ∧ s.unheard (0x09 + n) ∧ s.unheard (0x11 + n) ∧ s.unheard (0x19 + n)

/-- No timer but n has a tick due. -/
def State.onlyTick (s : State) (n : Nat) : Prop := ∀ m, m < 8 → m ≠ n → s.tickDue m = false

/-- One tick of timer n falls on the step of its due tick, and no other timer's. -/
def State.oneTick (s : State) (n : Nat) : Prop :=
  s.onlyTick n ∧ (s.now < (s.timer n).nextTick + (s.timer n).psc.toNat ∨
    s.stepsAgo ((s.timer n).nextTick + (s.timer n).psc.toNat) ≠ s.stepsAgo (s.timer n).nextTick)

/-- No round is in progress, no rf.cal waits and no rf.test or rf.capture holds the radio: the sequencer acts on nothing but
itself. -/
def State.radioCalm (s : State) : Prop := s.sess.cur = none ∧ s.radio.calMbs = [] ∧ s.radio.testMb = none

/-- The sequencer command that a row issues, with its limit (R149, R151); none for every other row, UP and DOWN. -/
def State.seqCommand (s : State) : Instr → Option HeldCmd
  | .seqIdle limit => some { op := .idle, limit := limit }
  | .seqListenUhf region limit => some { op := .listenUhf, arg := region, limit := limit }
  | .seqSendUhf _ _ => some { op := .sendUhf, limit := s.now + 100000 * s.cfgN recRadio 4 }
  | .seqListenUwb channel limit _ => some { op := .listenUwb, arg := channel, limit := limit }
  | .seqSendUwb due limit _ => some { op := .sendUwb, due := due, limit := due.getD limit }
  | .seqRange set first limit _ => some { op := .range, arg := set, due := some first, limit := limit }
  | .seqCal limit => some { op := .cal, limit := limit }
  | _ => none

/-- The state with an RF die temperature taken. -/
def State.atTemp (temp : Int) (s : State) : State := s.modRadio fun r => { r with temp := temp }

/-- The one lane that is open in the round in progress, with nothing that would end it at its next step. -/
def State.laneRuns (s : State) (r : Round) (l : Lane) : Prop :=
  s.sess.cur = some r ∧ r.closed = true ∧ r.active = some l ∧ r.lanes[l.k]? = some l ∧ l.aborted = false ∧ l.noKey = false ∧
    (∀ x, x ∈ r.lanes → x.dead = false) ∧
    ∀ i x, r.lanes[i]? = some x → x.opened = true → x.outcome = none → i = l.k

/-- Another lane of the round has no outcome yet, so the end of lane k does not end the round. -/
def Round.othersRun (r : Round) (k : Nat) : Prop := ∃ i m, i ≠ k ∧ r.lanes[i]? = some m ∧ m.outcome = none

/-- The round with one of its lanes replaced. -/
def Round.setLane (r : Round) (l : Lane) : Round := { r with lanes := r.lanes.set l.k l }

/-- The sequencer has nothing to go on to once the exchange on the air ends: it returns to STANDBY. -/
def State.radioFree (s : State) : Prop :=
  s.radio.held = [] ∧ s.radio.calYield = none ∧ s.radio.recalDue = false ∧ s.radio.sampQual = true

/-- The sleep controller is in Run with no entry in progress: a wake source has no effect. -/
def State.inRun (s : State) : Prop := s.psc.state = .run ∧ s.psc.entry = none

/-- The decision role is in place and running. -/
def State.served (s : State) : Prop := s.rolePlaced .decision = true ∧ s.rolesRun = true

/-- A run from one state to another, step by step. -/
inductive Runs : State → State → Prop
  | done (s : State) : Runs s s
  | more (s t u : State) : step s = .next t → Runs t u → Runs s u

/-- A property that every step keeps, from every state that has it. -/
def Kept (P : State → Prop) : Prop := ∀ s t : State, P s → step s = .next t → P t

/-! ### What every state of a run has: the numbers of things that the spec fixes, and the bits it reserves -/

/-- A requester's latched values: one for each capture unit, alarm and host target (R341, R362, R382). -/
def Shadow.Shaped (x : Shadow) : Prop :=
  x.capInfo.length = 8 ∧ x.almRd.length = 4 ∧ x.almWr.length = 4 ∧ x.capHi.length = 4 ∧ x.capFifoInfo.length = 4 ∧
    x.dlvMap.length = 6

/-- Six requesters' shadows, six ports' counts, and at most 168 points of history (R332, R337, R341). -/
def Tbu.Shaped (x : Tbu) : Prop :=
  x.shadows.length = 6 ∧ x.syncSent.length = 6 ∧ x.announceSent.length = 6 ∧ x.pdelaySent.length = 6 ∧ x.hist.length ≤ 168 ∧
    ∀ y, y ∈ x.shadows → y.Shaped

/-- Eight timers, and four alarms, compare pins and capture pins (13_timers). -/
def Tmr.Shaped (x : Tmr) : Prop := x.timers.length = 8 ∧ x.alarms.length = 4 ∧ x.pins.length = 4 ∧ x.caps.length = 4

/-- Sixteen groups, six host targets and four core queues (R374, R376). -/
def Evc.Shaped (x : Evc) : Prop :=
  x.groups.length = 16 ∧ x.targets.length = 6 ∧ x.coreQ.length = 4 ∧ x.wakeLast.length = 16

/-- The enables of the wake codes that cannot be disabled read 1, and those of codes that do not exist read 0 (R491, R502). -/
def Psc.Shaped (x : Psc) : Prop := x.wakeEn &&& 0x23B1 = 0x23B1 ∧ x.wakeEn &&& 0xFFFFC000 = 0

/-- Only the bits of PD6, PD10 and PD13 can read 1 (R503). -/
def Pad.Shaped (x : Pad) : Prop := x.frz &&& ~~~0x2440#14 = 0 ∧ x.rel &&& ~~~0x2440#14 = 0

/-- Eight mailboxes (R428). -/
def Mbx.Shaped (x : Mbx) : Prop := x.boxes.length = 8

/-- Two banks of each kind (R395). -/
def Boot.Shaped (x : Boot) : Prop := x.fwBanks.length = 2 ∧ x.metonBanks.length = 2

/-- Sixteen windows and twenty requesters (R408, 15_memory_and_fabric). -/
def Fabric.Shaped (x : Fabric) : Prop :=
  x.windows.length = 16 ∧ x.active.length = 20 ∧ x.reqCounts.length = 20 ∧ x.deadline.length = 2

/-- A counter for each attachment point (R46, R47). -/
def Parts.Shaped (x : Parts) : Prop := x.attach.length = 96

/-- Sixty-four channels (R69). -/
def Lf.Shaped (x : Lf) : Prop := x.chans.length = 64

/-- A running check has a place for each of the 48 coils (R69, R118). -/
def Pop.Shaped (x : Pop) : Prop := ∀ k, x.running = some k → k.coils.length = 48

/-- Four sweep positions, three sweeps' ends, and at most eight held commands (R150). -/
def Radio.Shaped (x : Radio) : Prop := x.sweepPos.length = 4 ∧ x.sweepEnd.length = 3 ∧ x.held.length ≤ 8

/-- Thirty-two channels, eight associations, and at most sixteen alarm stamps (R245, R260, R464). -/
def Crypt.Shaped (x : Crypt) : Prop := x.chans.length = 32 ∧ x.sas.length = 8 ∧ x.alarms.length ≤ 16

/-- Sixteen root slots (R274). -/
def Keys.Shaped (x : Keys) : Prop := x.slots.length = 16

/-- Four inputs (R300). -/
def Met.Shaped (x : Met) : Prop := x.discard.length = 4

/-- Five counts of the tally, and at most sixty-four entries in the queue and in the flush reserve (R314, R315, R499). -/
def Ledger.Shaped (x : Ledger) : Prop := x.tally.length = 5 ∧ x.queue.length ≤ 64 ∧ x.flush.length ≤ 64

/-- At most 2,048 entries (R513). -/
def Health.Shaped (x : Health) : Prop := x.log.length ≤ 2048

/-- Six ports, two of them uplinks, and four segments (R456). -/
def Net.Shaped (x : Net) : Prop :=
  x.linkUp.length = 6 ∧ x.linkLost.length = 6 ∧ x.stats.length = 6 ∧ x.forced.length = 2 ∧ x.mgmtOff.length = 2 ∧
    x.clash.length = 4 ∧ x.peers.length = 2 ∧ x.mkaSent.length = 2 ∧ x.an.length = 2 ∧ x.sakChange.length = 2

/-- Two feeds (R469). -/
def Power.Shaped (x : Power) : Prop := x.feeds.length = 2

/-- Four core pairs and four roles (R28, R29). -/
def Cores.Shaped (x : Cores) : Prop := x.pairs.length = 4 ∧ x.place.length = 4

/-- Four inputs (R516). -/
def Tamper.Shaped (x : Tamper) : Prop := x.asserted.length = 4 ∧ x.confirmed.length = 4

/-- A boundary register of 111 cells (R564). -/
def Jtag.Shaped (x : Jtag) : Prop := x.boundary.length = 111 ∧ x.pins.length = 111

/-- The memory keeps its canonical form. -/
def MemoryCanonical (s : State) : Prop := Memory.wf s.mem = true

/-- The invariant of the block: the canonical memory, the numbers of things that the spec fixes, and its reserved bits. -/
structure Inv (s : State) : Prop where
  mem : MemoryCanonical s
  tbu : s.tbu.Shaped
  tmr : s.tmr.Shaped
  evc : s.evc.Shaped
  psc : s.psc.Shaped
  pad : s.pad.Shaped
  mbx : s.mbx.Shaped
  boot : s.boot.Shaped
  fab : s.fab.Shaped
  parts : s.parts.Shaped
  lf : s.lf.Shaped
  pop : s.pop.Shaped
  radio : s.radio.Shaped
  crypt : s.crypt.Shaped
  keys : s.keys.Shaped
  met : s.met.Shaped
  ledger : s.ledger.Shaped
  health : s.health.Shaped
  net : s.net.Shaped
  power : s.power.Shaped
  cores : s.cores.Shaped
  tamper : s.tamper.Shaped
  jtag : s.jtag.Shaped

/-- What no step of the block undoes: the production lock (R543), the count of health entries (R513), the seq of Moraine
(R313), the epoch (R324) and the firmware floor (R539). -/
structure NotUndone (s t : State) : Prop where
  locked : s.boot.locked = true → t.boot.locked = true
  health : s.health.next ≤ t.health.next
  moraine : s.ledger.head ≤ t.ledger.head
  epoch : s.tbu.epoch ≤ t.tbu.epoch
  floor : s.boot.fwFloor ≤ t.boot.fwFloor

/-- A step is safe: it stops neither with a fault nor with a refusal. -/
def SafeStep (s : State) : Prop := ∃ t, step s = .next t

/-- A run is safe while every state it reaches steps on. -/
def SafeRun (s : State) : Prop := ∀ t, Runs s t → SafeStep t

end Sys2Proof.Machine
end

