-- ==== Sys2Proof/Certificates/Slice0/Obligations.lean ====
section
/-!
DEFINITION. The statements about the block that are to be proved, one family of rows after another. A statement about a
row says that it answers a next state and what that state holds; `Only` lists the parts of State that may change.
-/

open Sys2Proof Sys2Proof.Machine

/-- The queue: a step takes its front command and runs exec on the rest. What an empty queue does is the model's choice
(log 2). -/
def Obligations.StepRunsFrontCommand : Prop :=
  (∀ (c : Instr) (s : State) (rest : List Instr), s.pending = c :: rest → step s = exec c (s.withPending rest)) ∧
  (∀ s : State, s.pending = [] → step s = .next s.tick) ∧
  (∀ (s : State) (n w : Nat), decodeTableWord n w = none ∧ s.withFetchWord n w = s)

/-- exec has its effect on everything but the queue. -/
def Obligations.EveryCommandLeavesTheQueue : Prop :=
  ∀ (c : Instr) (s t : State), exec c s = .next t → t.pending = s.pending

/-- The one stop of the model: R567 gives the factory test mode no behaviour. -/
def Obligations.OnlyTestModeIsRefused : Prop :=
  (∀ (c : Instr) (s : State),
    (∀ r : BootReport, c = .resetRelease r →
      s.boot.phase ≠ .inReset ∨ s.lineUp = false ∨ r.testEn = false ∨ s.boot.locked = true) → ∃ t, exec c s = .next t) ∧
  (∀ (r : BootReport) (s : State), s.boot.phase = .inReset → s.lineUp = true → r.testEn = true → s.boot.locked = false →
    exec (.resetRelease r) s = .refused .factoryTestMode)

/-- A command that no role has started, or whose role is moving, does nothing yet. -/
def Obligations.MailboxCommandWaitsUntilStarted : Prop :=
  ∀ (c : Instr) (mb op : Nat) (s : State), mailboxCommand c = some (mb, op) → op ≠ 0x0102 →
    (s.runs mb op = false ∨ s.rolePlaced (roleOf op) = false) → exec c s = .next s

/-- Past its limit a command completes with DEADLINE_MISSED alone; sys.reset, committed at its admission, is excepted. -/
def Obligations.LateCommandPostsDeadlineMissed : Prop :=
  (∀ (c : Instr) (mb op : Nat) (s : State), mailboxCommand c = some (mb, op) → op ≠ 0x0102 →
    (op = 0x0D02 → s.psc.state = .run) → (op = 0x0301 → s.parts.enrol = none) →
    s.runs mb op = true → s.rolePlaced (roleOf op) = true → (s.box mb).limit < s.now →
    Answers c s fun t => RefusedWith s t mb Status.deadlineMissed ∧ Only [.mbx, .evc, .fab] s t) ∧
  (∀ (mb : Nat) (s : State), (s.box mb).st = .issued → s.hasCommitted mb = false → (s.box mb).limit ≤ s.now →
    Answers (.commandLimit mb) s fun t =>
      Posted s t mb Status.deadlineMissed 0 [] ∧ t.keys = s.keys ∧ t.crypt = s.crypt ∧ t.rel = s.rel ∧ t.mem = s.mem)

/-- The checks that the doorbell makes of a command are made again as it starts, and a refusal has no effect. -/
def Obligations.RefusedCommandHasNoEffect : Prop :=
  ∀ (c : Instr) (mb op st : Nat) (s : State), mailboxCommand c = some (mb, op) →
    op ∉ [0x0102, 0x0902, 0x0D02, 0x0301] → Started s mb op → s.ownCheck mb op = some st →
    Answers c s fun t => RefusedWith s t mb st ∧ Only [.mbx, .evc, .fab] s t

/-- The doorbell of R432, in each of its cases. -/
def Obligations.DoorbellAdmitsOrRefuses : Prop :=
  (∀ (mb : Nat) (s : State), mb < 8 → s.pdOn 6 = true → ((s.box mb).st ≠ .free ∨ s.mbx.ready = false) →
    Answers (.doorbell mb) s fun t => t.mbx.dbErr = s.mbx.dbErr ||| BitVec.ofNat 8 (1 <<< mb) ∧
      t.mbx.boxes = s.mbx.boxes ∧ Only [.mbx] s t) ∧
  (∀ (mb : Nat) (s : State), s.mbx.boxes.length = 8 → mb < 8 → s.pdOn 6 = true → (s.box mb).st = .free →
    s.mbx.ready = true → (s.ring mb).admission mb = none →
    Answers (.doorbell mb) s fun t => (t.box mb).st = .issued ∧ (t.box mb).run = bytesOf (s.box mb).cmd ∧
      (t.box mb).ringNs = s.now ∧ t.mbx.dbErr = s.mbx.dbErr) ∧
  (∀ (mb st : Nat) (s : State), s.mbx.boxes.length = 8 → mb < 8 → s.pdOn 6 = true → (s.box mb).st = .free →
    s.mbx.ready = true → (s.ring mb).admission mb = some st → completes st = false →
    Answers (.doorbell mb) s fun t => (t.box mb).st = .posted ∧
      (t.box mb).res = resultWords { s.box mb with run := bytesOf (s.box mb).cmd } st 0 (s.now % 2 ^ 32) []) ∧
  (∀ (mb : Nat) (s : State), s.pdOn 6 = false → exec (.doorbell mb) s = .next s)

/-- The mailbox registers of R433 to R439, and the expiry of R427. -/
def Obligations.MailboxAreasAndResults : Prop :=
  (∀ (mb k : Nat) (w : Word) (s : State), mb < 8 → k < 64 → s.pdOn 6 = true → s.mbx.boxes.length = 8 →
    Answers (.commandAreaWrite mb k w) s fun t =>
      (if (s.box mb).st = .free then t.box mb = { s.box mb with cmd := (s.box mb).cmd.set k w } ∧ t.mbx.wrErr = s.mbx.wrErr
        else t.mbx.boxes = s.mbx.boxes ∧ t.mbx.wrErr = s.mbx.wrErr ||| BitVec.ofNat 8 (1 <<< mb)) ∧ Only [.mbx] s t) ∧
  (∀ (r : Role) (n : Nat) (s : State), s.nextCommand r = some n → s.roleServes r = true → n < s.mbx.boxes.length →
    Answers (.commandStart r) s fun t => t.box n = { s.box n with started := true } ∧
      (∀ m, m ≠ n → t.box m = s.box m) ∧ Only [.mbx] s t) ∧
  (∀ (mb : Nat) (s : State), mb < 8 → s.pdOn 6 = true → (s.box mb).st = .posted → s.mbx.boxes.length = 8 →
    Answers (.mbnRes0Read mb) s fun t => (t.box mb).reads = (s.box mb).reads + 1 ∧ (t.box mb).res = (s.box mb).res ∧
      (2 ≤ (t.box mb).reads → (t.box mb).resWord 1 = (s.box mb).res.getD 1 0 ||| 0x10000) ∧ Only [.mbx] s t) ∧
  (∀ (w : Word) (s : State), s.pdOn 6 = true → s.mbx.boxes.length = 8 →
    Answers (.mbxAckWrite w) s fun t =>
      (if (s.box (fld w 0 3)).st = .posted ∧ (s.box (fld w 0 3)).seq = fld w 16 16 then
        (t.box (fld w 0 3)).st = .free ∧ (t.box (fld w 0 3)).res = List.replicate 64 0 ∧ t.mbx.ackErr = s.mbx.ackErr
      else t.mbx.boxes = s.mbx.boxes ∧ t.mbx.ackErr = s.mbx.ackErr ||| BitVec.ofNat 8 (1 <<< fld w 0 3)) ∧ Only [.mbx] s t) ∧
  (∀ s : State, Answers .keptReplyExpiry s fun t =>
    t.mbx.kept = s.mbx.kept.filter (fun k => decide (s.now < k.madeNs + 1000000000)) ∧ Only [.mbx] s t)

/-- sys, time and diag, each where its own checks let it act. -/
def Obligations.SysTimeAndDiagCommands : Prop :=
  (∀ (mb : Nat) (s : State), Takes s mb 0x0101 → Answers (.sysInfo mb) s fun t =>
    Completed s t mb Status.ok (s.cmdView mb).infoBody ∧ Only [.mbx, .evc, .fab] s t) ∧
  (∀ (mb : Nat) (s : State), s.lineUp = true → (s.box mb).st = .issued → (s.box mb).opcode = 0x0102 →
    Answers (.sysReset mb) s fun t => t = s.systemReset 2 ∧ t.mbx.boxes = List.replicate 8 {} ∧ t.mbx.ready = false ∧
      t.boot.resetCause = 2 ∧ t.boot.phase = .inReset) ∧
  (∀ (mb : Nat) (s : State), Takes s mb 0x0103 → Answers (.sysEvent mb) s fun t =>
    Completed s t mb (if (s.cmdView mb).groupAwake 0 then Status.ok else Status.noTarget)
      (leBytes 1 (bit ((s.evc.group 0).srcEn.getLsbD (12 + uAt (s.box mb).payload 0 1))) ++ zeros 3) ∧
    Only [.mbx, .evc, .fab] s t) ∧
  (∀ (mb : Nat) (s : State), Takes s mb 0x0104 → Answers (.sysHealth mb) s fun t =>
    (t.box mb).st = .posted ∧ t.health = s.health ∧ Only [.mbx, .evc, .fab, .mem, .free] s t) ∧
  (∀ (mb : Nat) (s : State), Takes s mb 0x0C01 → Answers (.timeStatus mb) s fun t =>
    Completed s t mb (if s.tbu.uncLimit.toNat < s.unc then Status.timeDegraded else Status.ok) (s.cmdView mb).timeBody ∧
    Only [.mbx, .evc, .fab, .mem] s t) ∧
  (∀ (mb : Nat) (s : State), Takes s mb 0x0C02 → Answers (.timeCivil mb) s fun t =>
    Completed s t mb Status.ok (leBytes 2 ((s.tbu.tbi + 1) % 0x10000) ++ zeros 2) ∧
    t.tbu = { s.tbu with civilOld := s.tbu.civil, civil := civilOf (s.box mb).payload s.now,
                         tbi := (s.tbu.tbi + 1) % 0x10000, ptp := true, evt := s.tbu.evt ||| word 0x20
                         phaseChange := ((civilOf (s.box mb).payload s.now).at256 s.now256 : Int) - s.gptpTime } ∧
    Only [.mbx, .evc, .fab, .tbu] s t) ∧
  (∀ (mb : Nat) (s : State), Takes s mb 0x0E01 → Answers (.diagTempo mb) s fun t =>
    Completed s t mb Status.ok (s.cmdView mb).tempoBody ∧ Only [.mbx, .evc, .fab] s t) ∧
  (∀ (mb : Nat) (s : State), Takes s mb 0x0E02 → Answers (.diagFaults mb) s fun t =>
    Completed s t mb Status.ok s.faultsBody ∧
    (uAt (s.box mb).payload 0 1 = 1 → t.fab.reqCounts = List.replicate 20 0 ∧ t.fab.kindCounts = List.replicate 5 0 ∧
      t.fab.aborted = 0) ∧ Only [.mbx, .evc, .fab] s t)

/-- The reset kinds of R11 to R13, each at its row. -/
def Obligations.ResetsKeepAndClear : Prop :=
  (∀ s : State, Answers .powerOnReset s fun t =>
    t.tbu = { epoch := s.tbu.epoch + 1, tbi := (s.tbu.tbi + 1) % 0x10000 } ∧ t.tmr = {} ∧ t.evc = {} ∧ t.psc = {} ∧ t.mbx = {} ∧ t.rel.latch = false ∧
    t.rel.consent = false ∧ t.boot.phase = .inReset ∧ t.boot.resetCause = 0 ∧ t.boot.locked = s.boot.locked ∧
    t.boot.scratch = 0 ∧ t.keys.slots.map (·.key) = s.keys.slots.map (·.key) ∧ t.health.log = s.health.log ∧
    t.health.next = s.health.next ∧ t.tamper.latch = s.tamper.latch ∧
    (∀ a, t.mem.readByte a = if mramBase ≤ a then s.mem.readByte a else 0)) ∧
  (∀ (n : Nat) (s : State), s.lineUp = true → 1000 ≤ n → Answers (.rstNAsserted n) s fun t =>
    t.tbu.ns = s.tbu.ns ∧ t.tbu.frac = s.tbu.frac ∧ t.tbu.epoch = s.tbu.epoch ∧ t.rel.latch = s.rel.latch ∧
    t.rel.st = s.rel.st ∧ t.tmr.timers = ({} : Tmr).timers ∧ t.tmr.alarms = ({} : Tmr).alarms ∧ t.evc = {} ∧
    t.mbx = { devAddr := s.mbx.devAddr } ∧ t.boot.phase = .inReset ∧ t.boot.resetCause = 1 ∧ t.cfg.runtime = [] ∧
    t.boot.locked = s.boot.locked ∧ t.boot.scratch = s.boot.scratch ∧
    t.keys.slots.map (·.key) = s.keys.slots.map (·.key)) ∧
  (∀ (n : Nat) (s : State), s.lineUp = true → n < 100 → exec (.rstNAsserted n) s = .next s) ∧
  (∀ (n : Nat) (s : State), s.lineUp = true → 100 ≤ n → n < 1000 → Answers (.rstNAsserted n) s fun t =>
    t = s.drawn ∨ t = s.drawn.systemReset 1) ∧
  (∀ s : State, s.lineUp = true → (∀ f ∈ s.power.feeds, f.delivering = false) → Answers .lineLoss s fun t =>
    t.psc.state = .nunatakHold ∧ t.power.line = false ∧ t.lineUp = false ∧ t.tbu.ns = s.tbu.ns ∧
    t.tbu.epoch = s.tbu.epoch ∧ t.rel.latch = s.rel.latch ∧ t.rel.consent = false ∧ t.boot.phase = .inReset) ∧
  (∀ s : State, s.lineUp = false → s.psc.vresOut = true → exec .linePowerReturn s = exec .powerOnReset s) ∧
  (∀ s : State, s.lineUp = false → s.psc.vresOut = false → Answers .linePowerReturn s fun t =>
    t.power.line = true ∧ t.boot.phase = .inReset ∧ t.boot.resetCause = 4 ∧ t.tbu.ns = s.tbu.ns ∧
    t.tbu.epoch = s.tbu.epoch ∧ t.rel.latch = s.rel.latch ∧ t.psc.state = .run)

/-- Boot by its outcomes; the boot's own view `u` is the state whose tests run. -/
def Obligations.BootRunsItsSteps : Prop :=
  (∀ (r : BootReport) (s u : State),
    ((s.boot.phase = .inReset ∧ s.lineUp = true ∧ (r.testEn = false ∨ s.boot.locked = true) ∧
        u = s.modBoot (fun b => { b with releaseNs := s.now, due := if r.testEn then b.due ++ [(0xA0, 0, 0xFF)] else b.due })) →
      exec (.resetRelease r) s = .next (u.bootTests r)) ∧
    ((s.boot.phase = .selfTestWait ∧ s.boot.testNs + 1000000000 ≤ s.now) →
      exec (.bootSelfTestRetry r) s = .next (s.bootTests r)) ∧
    (((s.boot.phase = .stalled ∨ s.boot.phase = .selfTestWait) ∧ s.boot.releaseNs + 250000000 ≤ s.now ∧
        u = s.rollBackTrial.modBoot (fun b => { b with releaseNs := s.now })) →
      exec (.bootMonitorExpiry r) s = .next (u.bootTests r))) ∧
  (∀ (r : BootReport) (s : State),
    (((List.range 4).filter (s.bootPairs r.pairOk).pairUp).length < 2 →
      (s.bootTests r).boot.phase = .selfTestWait ∧ (s.bootTests r).boot.testNs = s.now) ∧
    (2 ≤ ((List.range 4).filter (s.bootPairs r.pairOk).pairUp).length →
      (r.cipherOk = false → (s.bootTests r).boot.phase = .inReset ∧ (s.bootTests r).boot.resetCause = 3 ∧
        (s.bootTests r).boot.pendingRecovery = some 3) ∧
      (r.cipherOk = true → s.testCurrent = false →
        ((s.bootPairs r.pairOk).bootBank.1 = none → (s.bootTests r).boot.phase = .bankless ∧ (s.bootTests r).mbx.ready = true) ∧
        (∀ fw, (s.bootPairs r.pairOk).bootBank.1 = some fw →
          (r.stalls = true → (s.bootTests r).boot.phase = .stalled) ∧
          (r.stalls = false → (s.bootTests r).boot.phase = .running ∧ (s.bootTests r).boot.fwRunning = fw))))) ∧
  (∀ (k : Nat) (s : State), s.boot.fwTrial = some k → s.boot.phase = .running → s.boot.fwRunning = k →
    s.boot.readyNs + 60000000000 ≤ s.now → Answers .trialConfirmation s fun t =>
      t.boot.fwActive = k ∧ t.boot.fwTrial = none ∧ t.boot.trialCount = 0 ∧
      t.boot.fwFloor = max s.boot.fwFloor (s.fwBank k).version ∧ Only [.boot, .evc, .ledger] s t)

/-- cfg and fw, each where its own checks let it act. -/
def Obligations.CfgAndFwCommands : Prop :=
  (∀ (mb : Nat) (bs : List Byte) (s : State), Takes s mb 0x0201 →
    (s.cmdView mb).winRead (s.box mb).window (uAt (s.box mb).payload 0 4) (uAt (s.box mb).payload 8 4) = some bs →
    Answers (.cfgLoad mb) s fun t =>
      (∃ n, Completed s t mb Status.ok (leBytes 4 n ++ zeros 4)) ∧
      t.mem = (s.physWrite (metonBase s.metonInactive + uAt (s.box mb).payload 4 4) bs).mem ∧
      (uAt (s.box mb).payload 4 4 = 0 → s.metonInactive < s.boot.metonBanks.length →
        (t.metonBank s.metonInactive).st = 1) ∧
      Only [.mbx, .evc, .fab, .boot, .mem] s t) ∧
  (∀ (mb k : Nat) (s v : State), Takes s mb 0x0202 → v = s.cmdView mb → k = v.metonInactive →
    ((v.metonBank k).st ≠ 1 ∧ (v.metonBank k).st ≠ 2 → Answers (.cfgActivate mb) s fun t =>
      RefusedWith s t mb Status.invalid) ∧
    (((v.metonBank k).st = 1 ∨ (v.metonBank k).st = 2) →
      (v.imageRoot mb = none → Answers (.cfgActivate mb) s fun t => RefusedWith s t mb Status.denied) ∧
      (∀ root, v.imageRoot mb = some root →
        (v.imageTagOk root k = false → Answers (.cfgActivate mb) s fun t => RefusedWith s t mb Status.tagFail) ∧
        (v.imageTagOk root k = true →
          (∀ e, v.imageLayers k = .error e → Answers (.cfgActivate mb) s fun t =>
            RefusedWith s t mb Status.invalid ∧ t.boot.lastRefusal = e) ∧
          (∀ c, v.imageLayers k = .ok c →
            (v.formatRead k = false → Answers (.cfgActivate mb) s fun t =>
              RefusedWith s t mb Status.invalid ∧ t.boot.lastRefusal = 0) ∧
            (v.formatRead k = true → v.versionBarred k = true → Answers (.cfgActivate mb) s fun t => RefusedWith s t mb Status.denied) ∧
            (v.formatRead k = true → v.versionBarred k = false → Answers (.cfgActivate mb) s fun t =>
              (t.box mb).st = .posted ∧ t.boot.metonActive = some k ∧ t.cfg = c ∧
              t.boot.locked = (s.boot.locked || layerGet c.image (cfgKey recSystem 4) == some 1))))))) ∧
  (∀ (mb : Nat) (s : State), Takes s mb 0x0203 → Answers (.cfgStatus mb) s fun t =>
    Completed s t mb Status.ok (s.metonRecord 0 ++ s.metonRecord 1 ++ leBytes 2 (s.cmdView mb).cfg.runtime.length ++ zeros 2 ++
      leBytes 4 s.boot.lastRefusal) ∧ Only [.mbx, .evc, .fab] s t) ∧
  (∀ (mb : Nat) (sp : FieldSpec) (s : State), Takes s mb 0x0204 →
    fieldSpec (uAt (s.box mb).payload 0 2) (uAt (s.box mb).payload 2 2) = some sp → Answers (.cfgSet mb) s fun t =>
      (t.box mb).st = .posted ∧
      t.cfg = s.withRuntime (uAt (s.box mb).payload 0 2) (uAt (s.box mb).payload 2 2) (setValue sp (s.box mb).payload)) ∧
  (∀ (mb : Nat) (s : State), Takes s mb 0x0205 → Answers (.cfgGet mb) s fun t =>
    Completed s t mb Status.ok
      ((s.cmdView mb).fieldBody (uAt (s.box mb).payload 0 2) (uAt (s.box mb).payload 2 2)) ∧
    Only [.mbx, .evc, .fab] s t) ∧
  (∀ (mb : Nat) (bs : List Byte) (s : State), Takes s mb 0x0F01 →
    (s.cmdView mb).winRead (s.box mb).window (uAt (s.box mb).payload 0 4) (uAt (s.box mb).payload 8 4) = some bs →
    Answers (.fwWrite mb) s fun t =>
      (∃ n, Completed s t mb Status.ok (leBytes 4 n)) ∧
      t.mem = (s.physWrite (fwBase (1 - s.boot.fwActive) + uAt (s.box mb).payload 4 4) bs).mem ∧
      (1 - s.boot.fwActive < s.boot.fwBanks.length → (t.fwBank (1 - s.boot.fwActive)).st = 1) ∧
      Only [.mbx, .evc, .fab, .boot, .mem] s t) ∧
  (∀ (mb k : Nat) (s : State), Takes s mb 0x0F02 → k = 1 - s.boot.fwActive →
    (s.fwBank k).st ≠ 0 → s.fwVerifies k = true → s.activeFormat ≤ (s.fwBank k).metonMax →
    (s.boot.locked = false ∨ s.boot.fwFloor ≤ (s.fwBank k).version) → uAt (s.box mb).payload 0 1 % 2 = 0 →
    Answers (.fwActivate mb) s fun t =>
      Completed s t mb Status.ok (leBytes 4 (s.fwBank k).version ++ leBytes 1 k ++ zeros 3) ∧
      t.boot.fwTrial = some k ∧ t.boot.trialCount = 0 ∧ t.boot.fwActive = s.boot.fwActive ∧
      Only [.mbx, .evc, .fab, .boot, .ledger] s t) ∧
  (∀ (mb : Nat) (s : State), Takes s mb 0x0F03 → Answers (.fwStatus mb) s fun t =>
    Completed s t mb Status.ok (s.fwRecord 0 ++ s.fwRecord 1 ++ leBytes 1 s.boot.fwActive ++
      leBytes 1 (s.boot.fwTrial.getD 0xFF) ++ leBytes 2 s.boot.fwRollbacks ++ zeros 4) ∧ Only [.mbx, .evc, .fab] s t)

/-- The sources of R324 to R331: the source afterwards, the event bits, and the count. -/
def Obligations.TimebaseSourcesAndStart : Prop :=
  (∀ s : State, s.tbu.running = false → Answers .tbuStart s fun t =>
    t.tbu.running = true ∧ t.tbu.ns = s.tbu.ns ∧ t.tbu.frac = s.tbu.frac ∧ t.tbu.uAcc = s.tbu.uAcc ∧
    t.tbu.src = (if s.tbu.refOk then .reference else if s.tbu.slowOk then .slowCrystal else .rc) ∧ Only [.tbu] s t) ∧
  (∀ (age : Nat) (s : State), (s.refInputOn = false ∨ s.tbu.refOk = false) → exec (.referenceFailed age) s = .next s) ∧
  (∀ (age : Nat) (s : State), s.refInputOn = true → s.tbu.refOk = true → Answers (.referenceFailed age) s fun t =>
    t.tbu.refOk = false ∧ t.tbu.evt.getLsbD 1 = true ∧ t.tbu.epoch = s.tbu.epoch ∧
    (s.tbu.src = .reference → s.tbu.running = true →
      t.tbu.src = (if s.tbu.slowOk then .slowCrystal else .rc) ∧ t.tbu.evt.getLsbD 0 = true ∧
      t.tbu.uAcc = s.tbu.uAcc + (if s.tbu.slowOk then 1000 else 150000)) ∧
    (s.tbu.src ≠ .reference → t.tbu.src = s.tbu.src ∧ t.tbu.ns = s.tbu.ns ∧ t.tbu.uAcc = s.tbu.uAcc) ∧
    Only [.tbu, .evc, .free] s t) ∧
  (∀ (age : Nat) (s : State), s.tbu.slowFailed = true → exec (.slowCrystalFailed age) s = .next s) ∧
  (∀ (age : Nat) (s : State), s.tbu.slowFailed = false → Answers (.slowCrystalFailed age) s fun t =>
    t.tbu.slowOk = false ∧ t.tbu.slowFailed = true ∧ t.tbu.evt.getLsbD 2 = true ∧ t.tbu.epoch = s.tbu.epoch ∧
    (s.tbu.src = .slowCrystal → s.tbu.running = true →
      t.tbu.src = (if s.tbu.refOk then .reference else .rc) ∧ t.tbu.evt.getLsbD 0 = true) ∧
    (s.tbu.src ≠ .slowCrystal → t.tbu.src = s.tbu.src ∧ t.tbu.ns = s.tbu.ns ∧ t.tbu.uAcc = s.tbu.uAcc)) ∧
  (∀ s : State, s.refInputOn = true → Answers (.sourceQualified .reference) s fun t =>
    t.tbu.refOk = true ∧ t.tbu.ns = s.tbu.ns ∧ t.tbu.frac = s.tbu.frac ∧
    t.tbu.running = true ∧ t.tbu.src = .reference ∧ Only [.tbu, .evc] s t) ∧
  (∀ s : State, s.refInputOn = false → exec (.sourceQualified .reference) s = .next s) ∧
  (∀ s : State, Answers (.sourceQualified .slowCrystal) s fun t =>
    t.tbu.slowOk = true ∧ t.tbu.slowFailed = false ∧ t.tbu.ns = s.tbu.ns ∧ t.tbu.frac = s.tbu.frac ∧
    t.tbu.running = true ∧
    (s.tbu.running = true → t.tbu.src = (if s.tbu.src = .rc ∧ s.tbu.refOk = false then .slowCrystal else s.tbu.src)) ∧
    (s.tbu.running = false → t.tbu.src = (if s.tbu.refOk then .reference else .slowCrystal)) ∧
    Only [.tbu, .evc] s t)

/-- The rows that measure and charge time. -/
def Obligations.TimebaseUncertaintyRows : Prop :=
  (∀ (d : Nat) (temp : Int) (s : State), s.tbu.running = true → s.tbu.src = .reference → s.tbu.refOk = true →
    s.tbu.slowOk = true → Answers (.trimWindowEnd d temp) s fun t =>
      t.tbu.trimInc = some (roundDiv (d : Int) 131072).toNat ∧ t.tbu.trimTemp = temp ∧ t.tbu.trimEnd = some s.now ∧
      t.trimValid = true ∧ t.psc.trimWait = false ∧ t.tbu.uAcc = s.tbu.uAcc ∧ Only [.tbu, .psc] s t) ∧
  (∀ (temp : Int) (s : State), Answers (.temperatureSample temp) s fun t =>
    t.tbu.dieTemp = temp ∧ t.tbu.ns = s.tbu.ns ∧
    (s.tbu.src = .slowCrystal → t.tbu.incSlow = s.correctedInc temp) ∧
    (s.tbu.src ≠ .slowCrystal → t.tbu.incSlow = s.tbu.incSlow) ∧ Only [.tbu, .power] s t) ∧
  (∀ s : State, s.tbu.running = true → s.tbu.secStart + 1000000000 ≤ s.now → Answers .accrualSecond s fun t =>
    t.tbu.uAcc = s.tbu.uAcc + s.secondCharge ∧ (s.tbu.src = .reference → t.tbu.uAcc = s.tbu.uAcc) ∧
    (s.tbu.src = .rc → t.tbu.uAcc = s.tbu.uAcc + 10000000) ∧
    (s.tbu.src = .slowCrystal → s.trimValid = false → t.tbu.uAcc = s.tbu.uAcc + 1000) ∧
    t.tbu.secStart = s.tbu.secStart + 1000000000 ∧ t.tbu.ns = s.tbu.ns ∧ Only [.tbu, .evc] s t) ∧
  (∀ s : State, s.tbu.running = true → (s.tbu.hist.getLast?.map (·.1)).getD 0 < s.now / hourNs * hourNs →
    Answers .hourlyHistoryPoint s fun t =>
      t.tbu.hist = (s.tbu.hist ++ [(s.now / hourNs * hourNs, s.tbu.uAcc)]).drop (s.tbu.hist.length + 1 - 168) ∧
      Only [.tbu] s t) ∧
  (∀ (lane v : Nat) (s : State), lane ≤ 2 → s.tbu.laneOut = none → Answers (.counterOutvoted lane v) s fun t =>
    t.tbu.ns = s.tbu.ns ∧ t.tbu.frac = s.tbu.frac ∧ t.tbu.epoch = s.tbu.epoch ∧ t.tbu.uAcc = s.tbu.uAcc ∧
    t.tbu.evt.getLsbD 6 = true)

/-- What the timebase gives out, and what a foreign frame cannot change (R338). -/
def Obligations.TimebaseOutputsAndReads : Prop :=
  (∀ s : State, s.tbu.running = true → s.tbu.ppsCtrl.getLsbD 0 = true → s.tbu.src = .reference →
    s.ppsSecond s.ppsSince < s.ppsSecond s.now → Answers .ppsEdge s fun t =>
      t.tbu.ppsHigh = true ∧ t.tbu.ppsRise = s.now ∧ t.tbu.ns = s.tbu.ns ∧ Only [.tbu] s t) ∧
  (∀ s : State, s.tbu.ppsHigh = true → s.tbu.ppsRise + fld s.tbu.ppsCtrl 4 12 * 1000000 ≤ s.now →
    Answers .ppsPulseEnd s fun t => t.tbu = { s.tbu with ppsHigh := false } ∧ Only [.tbu] s t) ∧
  (∀ s : State, s.gptpRuns = true → Answers .syncInterval s fun t =>
    (∀ p, p < 6 → t.tbu.syncSent.getD p 0 = s.tbu.syncSent.getD p 0 + bit (s.net.linkUp.getD p false)) ∧
    t.tbu.synced = some s.syncNow ∧ t.tbu.ns = s.tbu.ns ∧ Only [.tbu, .net] s t) ∧
  (∀ s : State, s.gptpRuns = true → Answers .announceInterval s fun t =>
    (∀ p, p < 6 → t.tbu.announceSent.getD p 0 = s.tbu.announceSent.getD p 0 + bit (s.net.linkUp.getD p false)) ∧
    t.tbu.announced = some s.announceNow ∧ t.tbu.ns = s.tbu.ns ∧ Only [.tbu, .net] s t) ∧
  (∀ (k : Nat) (s : State), s.gptpRuns = true → Answers (.gptpForeignFrame k) s fun t =>
    t.tbu.evt.getLsbD 7 = true ∧ t.tbu.ns = s.tbu.ns ∧ t.tbu.frac = s.tbu.frac ∧ t.tbu.epoch = s.tbu.epoch ∧
    t.tbu.civil = s.tbu.civil ∧ (k = 0 → t.tbu.foreignAnnounce = satAdd 0xFFFFFFFF s.tbu.foreignAnnounce 1) ∧
    (k = 1 → t.tbu.foreignSync = satAdd 0xFFFFFFFF s.tbu.foreignSync 1) ∧
    (2 ≤ k → t.tbu.foreignFollow = satAdd 0xFFFFFFFF s.tbu.foreignFollow 1) ∧ Only [.tbu, .evc] s t) ∧
  (∀ (r : Requester) (s : State), s.tbu.shadows.length = 6 → Answers (.tbuNsLoRead r) s fun t =>
    t.mbx.lastRead = word s.now ∧ (t.shadow r).nsHi = word (s.now / 2 ^ 32) ∧ (t.shadow r).frac = word s.frac8 ∧
    (t.shadow r).epoch = word s.tbu.epoch ∧ (t.shadow r).unc = word s.unc ∧ (t.shadow r).civLo = word s.civilNow ∧
    (∀ q, reqIndex q ≠ reqIndex r → t.shadow q = s.shadow q) ∧ t.tbu.ns = s.tbu.ns ∧ Only [.tbu, .mbx] s t) ∧
  (∀ (r : Requester) (s : State), s.tbu.shadows.length = 6 → Answers (.tbuUaccLoRead r) s fun t =>
    t.mbx.lastRead = word s.tbu.uAcc ∧ (t.shadow r).uaccHi = word (s.tbu.uAcc / 2 ^ 32) ∧
    (∀ q, reqIndex q ≠ reqIndex r → t.shadow q = s.shadow q) ∧ Only [.tbu, .mbx] s t)

/-- Ticks of R348 and R349 on one timer, and their frame. -/
def Obligations.TimersTickAndWrap : Prop :=
  (∀ (n : Nat) (s : State), Answers (.timerTick n) s fun t => (s.tickDue n = false → t = s) ∧ Only [.tmr, .evc] s t) ∧
  (∀ (n : Nat) (s : State), n < 8 → s.tmr.timers.length = 8 → s.tickDue n = true → s.alone n → s.oneTick n →
    s.gateOpen n = true → Answers (.timerTick n) s fun t =>
      (t.timer n).lastTick = (s.timer n).nextTick ∧
      (if (s.timer n).top.toNat ≤ (s.timer n).cnt.toNat then
        (t.timer n).cnt = 0 ∧ t.tmr.evt0.getLsbD (4 * n) = true ∧
          (t.timer n).en = ((s.timer n).en && !(s.timer n).oneShot)
      else (t.timer n).cnt = (s.timer n).cnt + 1 ∧ (t.timer n).ctrl = (s.timer n).ctrl) ∧
      (∀ m, m ≠ n → t.timer m = s.timer m) ∧ t.tmr.alarms = s.tmr.alarms ∧ t.tmr.caps = s.tmr.caps ∧
      t.tmr.evt1 = s.tmr.evt1 ∧ Only [.tmr, .evc] s t) ∧
  (∀ (n : Nat) (s : State), n < 8 → s.tmr.timers.length = 8 → s.tickDue n = true → s.oneTick n → s.gateOpen n = false →
    Answers (.timerTick n) s fun t =>
      t.timer n = { s.timer n with lastTick := (s.timer n).nextTick } ∧ (∀ m, m ≠ n → t.timer m = s.timer m) ∧
      t.tmr.evt0 = s.tmr.evt0 ∧ Only [.tmr] s t) ∧
  (∀ (n : Nat) (s : State), n < 8 → s.tmr.timers.length = 8 → s.tickDue n = true → s.alone n → s.oneTick n →
    s.gateOpen n = true → (s.timer n).top.toNat ≤ (s.timer n).cnt.toNat → Answers (.timerWrap n) s fun t =>
      (t.timer n).cnt = 0 ∧ t.tmr.evt0.getLsbD (4 * n) = true ∧
      (t.timer n).en = ((s.timer n).en && !(s.timer n).oneShot) ∧ Only [.tmr, .evc] s t)

/-- The refusals of R353, and what an accepted write does (R368). -/
def Obligations.TimerConfigurationWrites : Prop :=
  (∀ (n : Nat) (w : Word) (s : State), n < 8 → s.tmr.timers.length = 8 →
    (5 ≤ fld w 13 3 ∨ 0x2A ≤ fld w 7 6 ∨
      (fld w 13 3 = 1 ∧ fld w 7 6 ≠ 0 ∧ (fld w 7 6 < 0x19 ∨ 0x24 < fld w 7 6)) ∨
      (fld w 13 3 = 3 ∧ fld w 7 6 ∈ [0x01 + n, 0x09 + n, 0x11 + n]) ∨
      (fld w 13 3 = 3 ∧ ∃ m, codeTimer (fld w 7 6) = some m ∧ m ≠ n ∧ clockLoop s.tmr.timers n 8 m = true)) →
    Answers (.tmrnCtrlWrite n w) s fun t => t.timer n = { s.timer n with cfgErr := true } ∧
      (∀ m, m ≠ n → t.timer m = s.timer m) ∧ t.tmr.evt0 = s.tmr.evt0 ∧ t.tmr.pins = s.tmr.pins ∧ Only [.tmr] s t) ∧
  (∀ (n : Nat) (w : Word) (s : State), n < 8 → s.tmr.timers.length = 8 → ctrlRefused s.tmr.timers n w = false →
    w.getLsbD 1 = false → Answers (.tmrnCtrlWrite n w) s fun t =>
      (t.timer n).ctrl = w &&& 0xFF9D ∧ (t.timer n).cfgErr = false ∧ Only [.tmr, .evc] s t) ∧
  (∀ (n : Nat) (w : Word) (s : State), n < 8 → s.tmr.timers.length = 8 → ctrlRefused s.tmr.timers n w = false →
    w.getLsbD 1 = false → s.tickDue n = false → Answers (.tmrnCtrlWrite n w) s fun t =>
      (t.timer n).cnt = (s.timer n).cnt ∧ (t.timer n).psc = (s.timer n).psc ∧ (t.timer n).top = (s.timer n).top ∧
      (t.timer n).armed0 = ((s.timer n).armed0 && (s.timer n).past0 == w.getLsbD 3) ∧
      (t.timer n).armed1 = ((s.timer n).armed1 && (s.timer n).past1 == w.getLsbD 4) ∧
      (w.getLsbD 0 = true → (s.timer n).en = false → (t.timer n).lastTick = s.now) ∧
      ((w.getLsbD 0 = false ∨ (s.timer n).en = true) → (s.timer n).slave ≠ 3 →
        (t.timer n).lastTick = (s.timer n).lastTick) ∧
      (∀ m, m ≠ n → t.timer m = s.timer m) ∧ Only [.tmr] s t) ∧
  (∀ (n : Nat) (w : Word) (s : State), n < 8 → s.tmr.timers.length = 8 → ctrlRefused s.tmr.timers n w = false →
    w.getLsbD 1 = true →
    exec (.tmrnCtrlWrite n w) s = exec (.swtrig n) (writeTmrCtrl n (w &&& ~~~2) s) ∧
      Answers (.tmrnCtrlWrite n w) s fun t => Only [.tmr, .evc] s t)

/-- The compare units and the software trigger of R350 to R356. -/
def Obligations.TimerCountAndCompareWrites : Prop :=
  (∀ (n : Nat) (w : Word) (s : State), n < 8 → s.tmr.timers.length = 8 → s.alone n →
    Answers (.tmrnCntWrite n w) s fun t => (t.timer n).cnt = w ∧ Only [.tmr, .evc] s t) ∧
  (∀ (n : Nat) (w : Word) (s : State), n < 8 → s.tmr.timers.length = 8 → s.tickDue n = false → s.alone n →
    Answers (.tmrnCntWrite n w) s fun t => (t.timer n).cnt = w ∧ (t.timer n).lastTick = (s.timer n).lastTick ∧
      ((s.timer n).past0 = false → (s.timer n).past1 = false →
        t.timer n = { s.timer n with cnt := w } ∧ t.tmr.evt0 = s.tmr.evt0) ∧
      (∀ m, m ≠ n → t.timer m = s.timer m) ∧ Only [.tmr, .evc] s t) ∧
  (∀ (n : Nat) (w : Word) (s : State), n < 8 → s.tmr.timers.length = 8 → s.tickDue n = false → s.alone n →
    Answers (.tmrnCmpWrite n 0 w) s fun t => (t.timer n).c0 = w ∧ (t.timer n).cnt = (s.timer n).cnt ∧
      ((s.timer n).past0 = false → (t.timer n).late0 = (s.timer n).late0) ∧
      ((s.timer n).past0 = true → atOrPast (s.timer n).cnt.toNat w.toNat (s.timer n).top.toNat = true →
        (t.timer n).armed0 = false ∧ t.tmr.evt0.getLsbD (4 * n + 1) = true ∧
        (t.timer n).late0 = word (lateOf (s.timer n).cnt.toNat w.toNat (s.timer n).top.toNat)) ∧
      ((s.timer n).past0 = true → atOrPast (s.timer n).cnt.toNat w.toNat (s.timer n).top.toNat = false →
        (t.timer n).armed0 = true ∧ (t.timer n).late0 = (s.timer n).late0) ∧
      (∀ m, m ≠ n → t.timer m = s.timer m) ∧ Only [.tmr, .evc] s t) ∧
  (∀ (n : Nat) (w : Word) (s : State), n < 8 → s.tmr.timers.length = 8 → s.tickDue n = false → s.alone n →
    Answers (.tmrnCmpWrite n 1 w) s fun t => (t.timer n).c1 = w ∧ (t.timer n).cnt = (s.timer n).cnt ∧
      ((s.timer n).past1 = false → (t.timer n).late1 = (s.timer n).late1) ∧
      ((s.timer n).past1 = true → atOrPast (s.timer n).cnt.toNat w.toNat (s.timer n).top.toNat = true →
        (t.timer n).armed1 = false ∧ t.tmr.evt0.getLsbD (4 * n + 2) = true ∧
        (t.timer n).late1 = word (lateOf (s.timer n).cnt.toNat w.toNat (s.timer n).top.toNat)) ∧
      ((s.timer n).past1 = true → atOrPast (s.timer n).cnt.toNat w.toNat (s.timer n).top.toNat = false →
        (t.timer n).armed1 = true ∧ (t.timer n).late1 = (s.timer n).late1) ∧
      (∀ m, m ≠ n → t.timer m = s.timer m) ∧ Only [.tmr, .evc] s t) ∧
  (∀ (n : Nat) (s : State), n < 8 → s.tmr.timers.length = 8 → s.alone n → (s.timer n).past0 = true →
    (s.timer n).armed0 = true → atOrPast (s.timer n).cnt.toNat (s.timer n).c0.toNat (s.timer n).top.toNat = true →
    (s.timer n).unitFires 1 false = false →
    Answers (.compareFire n 0) s fun t => (t.timer n).armed0 = false ∧ (t.timer n).out = true ∧
      (t.timer n).late0 = word (lateOf (s.timer n).cnt.toNat (s.timer n).c0.toNat (s.timer n).top.toNat) ∧
      t.tmr.evt0.getLsbD (4 * n + 1) = true ∧ (t.timer n).cnt = (s.timer n).cnt ∧ Only [.tmr, .evc] s t) ∧
  (∀ (n : Nat) (s : State), n < 8 → s.tmr.timers.length = 8 → s.alone n → (s.timer n).past1 = true →
    (s.timer n).armed1 = true → atOrPast (s.timer n).cnt.toNat (s.timer n).c1.toNat (s.timer n).top.toNat = true →
    Answers (.compareFire n 1) s fun t => (t.timer n).armed1 = false ∧ (t.timer n).out = false ∧
      (t.timer n).late1 = word (lateOf (s.timer n).cnt.toNat (s.timer n).c1.toNat (s.timer n).top.toNat) ∧
      t.tmr.evt0.getLsbD (4 * n + 2) = true ∧ (t.timer n).cnt = (s.timer n).cnt ∧ Only [.tmr, .evc] s t) ∧
  (∀ (n : Nat) (s : State), n < 8 → s.tmr.timers.length = 8 → (s.timer n).trig = 0x29 → s.alone n →
    (∀ m, m < 8 → s.tickDue m = false) → Answers (.swtrig n) s fun t =>
      ((s.timer n).slave = 2 → (t.timer n).cnt = 0 ∧ (t.timer n).lastTick = s.now) ∧
      ((s.timer n).slave = 3 → (s.timer n).en = true → (t.timer n).cnt =
        (if (s.timer n).top.toNat ≤ (s.timer n).cnt.toNat then 0 else (s.timer n).cnt + 1)) ∧
      ((s.timer n).slave = 4 → (s.timer n).en = false →
        (t.timer n).en = true ∧ (t.timer n).lastTick = s.now ∧ (t.timer n).cnt = (s.timer n).cnt) ∧
      ((s.timer n).slave < 2 → (t.timer n).cnt = (s.timer n).cnt ∧ (t.timer n).ctrl = (s.timer n).ctrl) ∧
      Only [.tmr, .evc] s t)

/-- The alarms of R358 to R360. -/
def Obligations.AlarmsFireAndDisarm : Prop :=
  (∀ (m : Nat) (s : State), m < 4 → s.tmr.alarms.length = 4 → (s.alarm m).armed = true →
    (s.tbu.ns - (s.alarm m).a).toNat < 2 ^ 63 → Answers (.alarmFire m) s fun t =>
      (t.alarm m).armed = false ∧ (t.alarm m).fired = true ∧ (t.alarm m).a = (s.alarm m).a ∧
      (t.alarm m).late = word (min (s.tbu.ns - (s.alarm m).a).toNat 0xFFFFFFFF) ∧ t.tmr.evt1.getLsbD m = true ∧
      (∀ k, k ≠ m → t.alarm k = s.alarm k) ∧ t.tbu = s.tbu) ∧
  (∀ (m : Nat) (s : State), ((s.alarm m).armed = false ∨ 2 ^ 63 ≤ (s.tbu.ns - (s.alarm m).a).toNat) →
    exec (.alarmFire m) s = .next s) ∧
  (∀ (r : Requester) (m : Nat) (w : Word) (s : State), m < 4 → s.tmr.alarms.length = 4 →
    2 ^ 63 ≤ (s.tbu.ns - ((s.shadow r).almWr.getD m 0 ++ w)).toNat → Answers (.almmLoWrite r m w) s fun t =>
      (t.alarm m).a = (s.shadow r).almWr.getD m 0 ++ w ∧ (t.alarm m).armed = true ∧ (t.alarm m).fired = false ∧
      (∀ k, k ≠ m → t.alarm k = s.alarm k) ∧ (∀ q, t.shadow q = s.shadow q) ∧ t.tmr.evt1 = s.tmr.evt1 ∧ Only [.tmr] s t) ∧
  (∀ (r : Requester) (m : Nat) (w : Word) (s : State), m < 4 → s.tmr.alarms.length = 4 →
    (s.tbu.ns - ((s.shadow r).almWr.getD m 0 ++ w)).toNat < 2 ^ 63 → Answers (.almmLoWrite r m w) s fun t =>
      (t.alarm m).a = (s.shadow r).almWr.getD m 0 ++ w ∧ (t.alarm m).armed = false ∧ (t.alarm m).fired = true ∧
      (t.alarm m).late = word (min (s.tbu.ns - ((s.shadow r).almWr.getD m 0 ++ w)).toNat 0xFFFFFFFF) ∧
      (∀ q, t.shadow q = s.shadow q)) ∧
  (∀ (r : Requester) (m : Nat) (s : State), m < 4 → s.tbu.shadows.length = 6 → (s.shadow r).almRd.length = 4 →
    Answers (.almmLoRead r m) s fun t => t.mbx.lastRead = (s.alarm m).a.extractLsb' 0 32 ∧
      (t.shadow r).almRd.getD m 0 = (s.alarm m).a.extractLsb' 32 32 ∧
      (∀ q, reqIndex q ≠ reqIndex r → t.shadow q = s.shadow q) ∧ Only [.tbu, .mbx] s t) ∧
  (∀ (m : Nat) (s : State), m < 4 → s.tmr.alarms.length = 4 → (s.alarm m).armed = true →
    (s.tbu.ns - (s.alarm m).a).toNat < 2 ^ 63 → Answers (.alarmDisarm m) s fun t =>
      (t.alarm m).armed = false ∧ (t.alarm m).fired = true ∧ t.tmr.evt1.getLsbD m = true ∧
      (∀ k, k ≠ m → t.alarm k = s.alarm k)) ∧
  (∀ (m : Nat) (s : State), m < 4 → s.tmr.alarms.length = 4 →
    ((s.alarm m).armed = false ∨ 2 ^ 63 ≤ (s.tbu.ns - (s.alarm m).a).toNat) → Answers (.alarmDisarm m) s fun t =>
    t.alarm m = { s.alarm m with armed := false } ∧ (∀ k, k ≠ m → t.alarm k = s.alarm k) ∧
    t.tmr.timers = s.tmr.timers ∧ t.tmr.evt1 = s.tmr.evt1 ∧ Only [.tmr] s t)

/-- The captures of R357 and R363 to R366, and the ends of pulses. -/
def Obligations.CaptureFifosKeepEdges : Prop :=
  (∀ (n : Nat) (up : Bool) (s : State), n < 4 → s.tmr.caps.length = 4 →
    (s.capFifo n).edge.testBit (if up then 0 else 1) = true → (s.capFifo n).fifo.length < 4 →
    (∀ t0, (s.capFifo n).lastStored = some t0 → t0 + 100 ≤ s.now ∧
      (s.tbu.src ≠ .reference → t0 + s.tbu.inc / 2 ^ 40 < s.now)) → Answers (.capEdge n up) s fun t =>
      (t.capFifo n).fifo = (s.capFifo n).fifo ++ [s.edgeEntry (s.capFifo n).nextSeq (s.capFifo n).lost] ∧
      (t.capFifo n).nextSeq = ((s.capFifo n).nextSeq + 1) % 0x10000 ∧ (t.capFifo n).lost = false ∧
      t.tmr.evt1.getLsbD (4 + n) = true ∧ (∀ k, k ≠ n → t.capFifo k = s.capFifo k) ∧ Only [.tmr, .evc, .free] s t) ∧
  (∀ (n : Nat) (up : Bool) (s : State), n < 4 → s.tmr.caps.length = 4 →
    (s.capFifo n).edge.testBit (if up then 0 else 1) = true →
    (4 ≤ (s.capFifo n).fifo.length ∨
      (s.tbu.src = .reference ∧ ∃ t0, (s.capFifo n).lastStored = some t0 ∧ s.now < t0 + 100)) →
    Answers (.capEdge n up) s fun t => (t.capFifo n).fifo = (s.capFifo n).fifo ∧ (t.capFifo n).lost = true ∧
      (t.capFifo n).nextSeq = ((s.capFifo n).nextSeq + 1) % 0x10000 ∧ t.tmr.evt1.getLsbD (8 + n) = true ∧
      Only [.tmr, .evc, .free] s t) ∧
  (∀ (n : Nat) (up : Bool) (s : State), n < 4 → s.tmr.caps.length = 4 →
    (s.capFifo n).edge.testBit (if up then 0 else 1) = true → Answers (.capEdge n up) s fun t =>
      (t.capFifo n).nextSeq = ((s.capFifo n).nextSeq + 1) % 0x10000 ∧
      (((t.capFifo n).fifo = (s.capFifo n).fifo ∧ (t.capFifo n).lost = true) ∨
        ((t.capFifo n).fifo = (s.capFifo n).fifo ++ [s.edgeEntry (s.capFifo n).nextSeq (s.capFifo n).lost] ∧
          (t.capFifo n).lost = false))) ∧
  (∀ (n : Nat) (up : Bool) (s : State), (s.capFifo n).edge.testBit (if up then 0 else 1) = false →
    exec (.capEdge n up) s = .next s) ∧
  (∀ (r : Requester) (n : Nat) (s : State), n < 4 → s.tmr.caps.length = 4 →
    (∀ e rest, (s.capFifo n).fifo = e :: rest → Answers (.capnLoRead r n) s fun t =>
      t.mbx.lastRead = word e.ns ∧ (t.capFifo n).fifo = rest ∧ (t.capFifo n).nextSeq = (s.capFifo n).nextSeq ∧
      Only [.tbu, .tmr, .mbx] s t) ∧
    ((s.capFifo n).fifo = [] → Answers (.capnLoRead r n) s fun t =>
      t.mbx.lastRead = 0 ∧ Only [.tbu, .mbx] s t)) ∧
  (∀ (r : Requester) (n : Nat) (s : State), n < 8 → s.tmr.timers.length = 8 →
    (∀ c q o, (s.timer n).capEntry = some (c, q, o) → Answers (.tmrnCapRead r n) s fun t =>
      t.mbx.lastRead = c ∧ t.timer n = { s.timer n with capEntry := none } ∧ Only [.tbu, .tmr, .mbx] s t) ∧
    ((s.timer n).capEntry = none → Answers (.tmrnCapRead r n) s fun t =>
      t.mbx.lastRead = 0 ∧ Only [.tbu, .mbx, .free] s t)) ∧
  (∀ (n : Nat) (s : State), n < 4 → s.tmr.caps.length = 4 → Answers (.capFlush n) s fun t =>
    t.capFifo n = { s.capFifo n with fifo := [] } ∧ (∀ k, k ≠ n → t.capFifo k = s.capFifo k) ∧ Only [.tmr] s t) ∧
  (∀ (n : Nat) (l : Bool) (s : State), n < 4 → s.tmr.caps.length = 4 → s.unheard (0x21 + n) →
    Answers (.capPinLevelChange n l) s fun t => t.capFifo n = { s.capFifo n with level := l } ∧
      ((∀ m, m < 8 → s.tickDue m = false) → t.tmr.timers = s.tmr.timers) ∧ Only [.tmr, .evc] s t) ∧
  (∀ (p t0 : Nat) (s : State), p < 4 → s.tmr.pins.length = 4 → (s.pin p).pulseEnd = some t0 → t0 ≤ s.now →
    Answers (.pinPulseEnd p) s fun t => (t.pin p).pulseEnd = none ∧ (t.pin p).ctrl = (s.pin p).ctrl ∧
      (t.pin p).level = (levelCode (fld (s.pin p).ctrl 10 6) && s.sourceLevel (fld (s.pin p).ctrl 10 6)) ∧
      (∀ k, k ≠ p → levelCode (fld (s.pin k).ctrl 10 6) = false → t.pin k = s.pin k) ∧ Only [.tmr] s t)

/-- The batches of R375 and R378. -/
def Obligations.EventsCollectInBatches : Prop :=
  (∀ (g src : Nat) (s : State), g < 16 → s.evc.groups.length = 16 → sourceExists g src = true → s.blockEnabled g src = true →
    (s.evc.group g).srcEn.getLsbD src = true → s.pdOn 6 = true →
    ((s.evc.group g).hostMask ≠ 0 ∨ (s.evc.group g).coreMask ≠ 0) →
    (∀ c, (s.evc.group g).collecting = some c → s.prevNs < (s.evc.group g).dueTime c) →
    Answers (.eventOccurrence g src) s fun t =>
      (∀ b : Batch, b = { (s.evc.group g).collecting.getD { tFirst := s.now } with
          bitmap := ((s.evc.group g).collecting.getD { tFirst := s.now }).bitmap ||| BitVec.ofNat 16 (1 <<< src)
          count := satAdd 255 ((s.evc.group g).collecting.getD { tFirst := s.now }).count 1 } →
        if (s.evc.group g).cntThr ≤ b.count ∨ (s.evc.group g).dueTime b ≤ s.now then
          (t.evc.group g).collecting = none ∧ (t.evc.group g).due = (s.evc.group g).due ++
            [{ b with trigger := if (s.evc.group g).cntThr ≤ b.count then s.now else (s.evc.group g).dueTime b }]
        else (t.evc.group g).collecting = some b ∧ (t.evc.group g).due = (s.evc.group g).due) ∧
      (∀ h, h ≠ g → t.evc.group h = s.evc.group h) ∧ t.evc.targets = s.evc.targets ∧ t.evc.seq = s.evc.seq ∧
      Only [.evc] s t) ∧
  (∀ (g src : Nat) (c : Batch) (s : State), sourceExists g src = true → s.blockEnabled g src = true →
    (s.evc.group g).srcEn.getLsbD src = true → s.pdOn 6 = true → (s.evc.group g).collecting = some c →
    (s.evc.group g).dueTime c ≤ s.prevNs → Answers (.batchDueTime g) s fun t =>
      exec (.eventOccurrence g src) s = exec (.eventOccurrence g src) t) ∧
  (∀ (g src : Nat) (s : State), ((s.evc.group g).srcEn.getLsbD src = false ∨ s.blockEnabled g src = false ∨
      sourceExists g src = false ∨
      (s.pdOn 6 = true ∧ (s.evc.group g).hostMask = 0 ∧ (s.evc.group g).coreMask = 0 ∧
        (s.evc.group g).collecting = none)) →
    exec (.eventOccurrence g src) s = .next s) ∧
  (∀ (g src : Nat) (s : State), sourceExists g src = true → s.blockEnabled g src = true →
    (s.evc.group g).srcEn.getLsbD src = true → s.pdOn 6 = false → Answers (.eventOccurrence g src) s fun t =>
      t.evc = { s.evc with held := s.evc.held ++ [(g, src)] } ∧ Only [.evc] s t) ∧
  (∀ (g : Nat) (b : Batch) (s : State), g < 16 → s.evc.groups.length = 16 → (s.evc.group g).collecting = some b →
    Answers (.batchDueTime g) s fun t =>
      (if (s.evc.group g).cntThr ≤ b.count ∨ b.tFirst + (s.evc.group g).timeUs * 1000 ≤ s.now then
        (t.evc.group g).collecting = none ∧ (t.evc.group g).due = (s.evc.group g).due ++
          [{ b with trigger :=
              if (s.evc.group g).cntThr ≤ b.count then s.now else b.tFirst + (s.evc.group g).timeUs * 1000 }]
      else t = s) ∧ Only [.evc] s t) ∧
  (∀ (w : Word) (s : State), Answers (.evcSwsetWrite w) s fun t =>
    ((∀ k, k < 4 → w.getLsbD k = false ∨ (s.evc.group 0).srcEn.getLsbD (12 + k) = false) → t = s) ∧
    (∀ k, k < 4 → w = word (1 <<< k) → exec (.evcSwsetWrite w) s = exec (.eventOccurrence 0 (12 + k)) s) ∧
    Only [.evc] s t)

/-- The choice of R379 and R383, and what a delivery to a host target leaves (R380, R381). -/
def Obligations.DeliveriesGoToEligibleTargets : Prop :=
  (∀ (g x : Nat) (b : Batch) (s : State), g < 16 → s.evc.groups.length = 16 → s.evc.targets.length = 6 →
    s.pdOn 6 = true → s.nextDue = some (g, b) → s.chosen s.psc.hostSleep g b.avoid = some x → 4 ≤ x →
    Answers .delivery s fun t =>
      (t.evc.target (x - 4)).dlv = some { seq := s.evc.seq, group := g, batch := b, madeNs := s.now } ∧
      t.evc.seq = (s.evc.seq + 1) % 0x10000 ∧ (t.evc.group g).last = x ∧
      (t.evc.group g).due = (s.evc.group g).due.erase b ∧
      (∀ h, h ≠ g → t.evc.group h = s.evc.group h) ∧ (∀ y, y ≠ x - 4 → t.evc.target y = s.evc.target y) ∧
      t.evc.frames = (if 8 ≤ x then s.evc.frames ++ [(s.evc.mgmtAddr.getD (x - 8) (0, 0), s.eventFrame x s.evc.seq g b)] else s.evc.frames) ∧
      (x < 8 → t.net = s.net) ∧ Only [.evc, .net] s t) ∧
  (∀ (g x : Nat) (b : Batch) (s : State), g < 16 → s.evc.groups.length = 16 → s.evc.coreQ.length = 4 →
    s.pdOn 6 = true → s.nextDue = some (g, b) → s.chosen s.psc.hostSleep g b.avoid = some x → x < 4 →
    Answers .delivery s fun t =>
      t.evc.coreQ.getD x [] = s.evc.coreQ.getD x [] ++ [(s.evc.seq, g, b)] ∧
      t.evc.seq = (s.evc.seq + 1) % 0x10000 ∧ t.evc.targets = s.evc.targets) ∧
  (∀ s : State, s.pdOn 6 = false ∨ s.nextDue = none → exec .delivery s = .next s) ∧
  (∀ (s : State) (g x : Nat) (avoid : Option Nat), s.chosen s.psc.hostSleep g avoid = some x →
    s.eligible s.psc.hostSleep g x = true ∧ x < 10 ∧
    (avoid = some x → ∀ y, y < 10 → s.eligible s.psc.hostSleep g y = true → y = x)) ∧
  (∀ (s : State) (g : Nat) (b : Batch), s.nextDue = some (g, b) →
    g < 16 ∧ b ∈ (s.evc.group g).due ∧ (s.chosen s.psc.hostSleep g b.avoid).isSome = true ∧
    ∀ h c, h < 16 → c ∈ (s.evc.group h).due → (s.chosen s.psc.hostSleep h c.avoid).isSome = true →
      b.trigger < c.trigger ∨ (b.trigger = c.trigger ∧ g ≤ h))

/-- The claim of R382, and the read that latches the bitmap. -/
def Obligations.ClaimsAreMatchedBySequence : Prop :=
  (∀ (j : Nat) (w : Word) (d : HostDelivery) (s : State), j < 6 → s.evc.targets.length = 6 →
    (s.evc.target j).dlv = some d → Answers (.evcClaimWrite j w) s fun t =>
      t.evc.target j = (if d.seq = fld w 0 16 then { s.evc.target j with dlv := none, claimOk := true }
        else { s.evc.target j with claimErr := true }) ∧
      (∀ k, k ≠ j → t.evc.target k = s.evc.target k) ∧ t.evc.groups = s.evc.groups ∧ t.evc.seq = s.evc.seq ∧
      Only [.evc] s t) ∧
  (∀ (j : Nat) (w : Word) (s : State), j < 6 → s.evc.targets.length = 6 → (s.evc.target j).dlv = none →
    Answers (.evcClaimWrite j w) s fun t => t.evc.target j = { s.evc.target j with claimErr := true } ∧
      (∀ k, k ≠ j → t.evc.target k = s.evc.target k) ∧ t.evc.groups = s.evc.groups ∧ Only [.evc] s t) ∧
  (∀ (r : Requester) (j : Nat) (s : State), j < 6 → s.tbu.shadows.length = 6 → (s.shadow r).dlvMap.length = 6 →
    Answers (.evcDlvRead r j) s fun t =>
      (∀ d, (s.evc.target j).dlv = some d →
        t.mbx.lastRead = atBit 16 16 d.seq ||| atBit 8 8 d.batch.count ||| atBit 7 1 1 ||| atBit 0 4 d.group ∧
        (t.shadow r).dlvMap.getD j 0 = atBit 16 1 (bit d.batch.retracted) ||| atBit 0 16 d.batch.bitmap.toNat) ∧
      ((s.evc.target j).dlv = none → t.mbx.lastRead = 0 ∧ (t.shadow r).dlvMap.getD j 0 = 0) ∧
      (∀ q, reqIndex q ≠ reqIndex r → t.shadow q = s.shadow q) ∧ Only [.tbu, .mbx] s t)

/-- Retraction (R383), WAKE_OUT (R384, R385) and host sleep (R386). -/
def Obligations.RetractionWakeOutAndHostSleep : Prop :=
  (∀ (j : Nat) (d : HostDelivery) (s : State), j < 6 → s.evc.targets.length = 6 → s.evc.groups.length = 16 →
    d.group < 16 → (s.evc.target j).dlv = some d → d.madeNs + fld s.evc.ctrl 0 16 * 1000 ≤ s.now →
    Answers (.retraction j) s fun t =>
      t.evc.target j = { s.evc.target j with
        dlv := none, retracts := satAdd 0xFFFF (s.evc.target j).retracts 1
        holdoff := if j < 4 then s.now + 2000 else (s.evc.target j).holdoff } ∧
      (t.evc.group d.group).collecting = none ∧
      (∃ b, (t.evc.group d.group).due.getLast? = some b ∧ b.retracted = true ∧ b.avoid = some (j + 4) ∧ b.trigger = s.now) ∧
      (∀ k, k ≠ j → t.evc.target k = s.evc.target k) ∧ (∀ g, g ≠ d.group → t.evc.group g = s.evc.group g) ∧
      Only [.evc] s t) ∧
  (∀ (j : Nat) (d : HostDelivery) (s : State), j < 6 → s.evc.targets.length = 6 → s.evc.groups.length = 16 →
    d.group < 16 → (s.evc.target j).dlv = some d → d.madeNs + fld s.evc.ctrl 0 16 * 1000 ≤ s.now →
    (∀ c, (s.evc.group d.group).collecting = some c → s.prevNs < (s.evc.group d.group).dueTime c) →
    Answers (.retraction j) s fun t =>
      (∃ b, (t.evc.group d.group).due = (s.evc.group d.group).due ++ [b] ∧ b.retracted = true ∧ b.avoid = some (j + 4) ∧
        b.trigger = s.now ∧
        (∀ c, (s.evc.group d.group).collecting = some c → b.bitmap = d.batch.bitmap ||| c.bitmap ∧
          b.count = satAdd 255 d.batch.count c.count ∧ b.tFirst = min d.batch.tFirst c.tFirst) ∧
        ((s.evc.group d.group).collecting = none → b.bitmap = d.batch.bitmap ∧ b.count = d.batch.count ∧
          b.tFirst = d.batch.tFirst))) ∧
  (∀ (j : Nat) (s : State), (∀ d, (s.evc.target j).dlv = some d → s.now < d.madeNs + fld s.evc.ctrl 0 16 * 1000) →
    exec (.retraction j) s = .next s) ∧
  (∀ (g : Nat) (s : State), g < 16 → s.evc.wakeLast.length = 16 → (s.evc.group g).due ≠ [] → s.noneAwake g = true →
    (∀ t0, s.evc.wakeLast.getD g none = some t0 →
      fld s.evc.ctrl 24 8 ≠ 0 ∧ t0 + fld s.evc.ctrl 24 8 * 10000000 ≤ s.now) →
    Answers (.wakeOutPulse g) s fun t => t.evc.wakeOutEnd = some (s.now + fld s.evc.ctrl 16 8 * 1000) ∧
      t.evc.wakePulses = satAdd 0xFFFF s.evc.wakePulses 1 ∧ t.evc.wakeLast.getD g none = some s.now ∧
      t.evc.groups = s.evc.groups ∧ t.evc.targets = s.evc.targets ∧ Only [.evc] s t) ∧
  (∀ (g : Nat) (s : State), ((s.evc.group g).due = [] ∨ s.noneAwake g = false) → exec (.wakeOutPulse g) s = .next s) ∧
  (∀ (t0 : Nat) (s : State), s.evc.wakeOutEnd = some t0 → t0 ≤ s.now → Answers .wakeOutPulseEnd s fun t =>
    t.evc = { s.evc with wakeOutEnd := none } ∧ Only [.evc] s t) ∧
  (∀ (w : Word) (s : State), Answers (.pscHostSleepWrite w) s fun t => t.psc.hostSleep = BitVec.ofNat 6 w.toNat ∧
    t.tbu = s.tbu ∧ t.keys = s.keys ∧ t.mem = s.mem) ∧
  (∀ (w : Word) (s : State), s.pdOn 6 = true → BitVec.ofNat 6 w.toNat &&& ~~~s.psc.hostSleep = 0 →
    Answers (.pscHostSleepWrite w) s fun t => t.evc.groups = s.evc.groups ∧ t.evc.targets = s.evc.targets ∧
      t.evc.flushGroups = 0 ∧ t.evc.flushEvents = 0 ∧ Only [.evc, .psc] s t)

/-- R409's refusals and its accepted write. -/
def Obligations.WindowConfigurationRefusals : Prop :=
  (∀ (n : Nat) (w : Word) (s : State), n < 16 → s.fab.windows.length = 16 →
    ((w.getLsbD 31 = true ∧ ∃ k, k < 16 ∧ k ≠ n ∧ (s.win k).en = true ∧
        (s.win k).basePg ≤ fld w 8 8 + fld w 20 4 ∧ fld w 8 8 ≤ (s.win k).basePg + (s.win k).sizePg) ∨
      255 < fld w 8 8 + fld w 20 4 ∨ (s.win n).busy ≠ 0 ∨ s.winHeldPages (s.win n) ≠ 0) →
    Answers (.hbwWinCfgWrite n w) s fun t => t.win n = { s.win n with cfgErr := true } ∧
      (∀ k, k ≠ n → t.win k = s.win k) ∧ t.fab.heldPages = s.fab.heldPages ∧ Only [.fab] s t) ∧
  (∀ (n : Nat) (w : Word) (s : State), n < 16 → s.fab.windows.length = 16 →
    (w.getLsbD 31 = false ∨ ∀ k, k < 16 → k ≠ n → (s.win k).en = true →
      fld w 8 8 + fld w 20 4 < (s.win k).basePg ∨ (s.win k).basePg + (s.win k).sizePg < fld w 8 8) →
    fld w 8 8 + fld w 20 4 ≤ 255 → (s.win n).busy = 0 → s.winHeldPages (s.win n) = 0 →
    Answers (.hbwWinCfgWrite n w) s fun t =>
      t.win n = { s.win n with cfg := w &&& 0xFCF0FF00, cfgErr := false } ∧
      (∀ k, k ≠ n → t.win k = s.win k) ∧ t.fab.heldPages = s.fab.heldPages ∧ Only [.fab] s t)

/-- The six rows of R411. -/
def Obligations.ApertureAccessIsJudged : Prop :=
  ∀ (off a : Nat) (s : State), off < 0x100000 → a = off / 4 * 4 →
    (∀ x : HostWindow, s.physHeld (apertureBase + a) = false → s.fab.windows.find? (fun y => y.covers (a / 4096)) = some x →
      (x.hostR = true → s.poisoned (apertureBase + a) 4 = false → Answers (.apertureAccess off none) s fun t =>
        t.mbx.lastRead = Memory.readWord s.mem (apertureBase + a) ∧ Only [.mbx] s t) ∧
      (x.hostR = true → s.poisoned (apertureBase + a) 4 = true → Answers (.apertureAccess off none) s fun t =>
        t.mbx.lastRead = 0 ∧ Only [.mbx] s t) ∧
      (x.hostR = false → Answers (.apertureAccess off none) s fun t =>
        t.mbx.lastRead = 0 ∧ t.fab.faultReg = atBit 31 1 1 ||| atBit 28 3 2 ||| atBit 0 20 off ∧
        t.fab.faultCnt = satAdd 0xFFFF s.fab.faultCnt 1 ∧ t.fab.windows = s.fab.windows ∧ Only [.mbx, .fab] s t) ∧
      (∀ w : Word, x.hostW = true → Memory.wf s.mem = true → Answers (.apertureAccess off (some w)) s fun t =>
        Memory.readWord t.mem (apertureBase + a) = w ∧
        (∀ b, (b < apertureBase + a ∨ apertureBase + a + 4 ≤ b) → Memory.readByte t.mem b = Memory.readByte s.mem b) ∧
        t.fab.faultReg = s.fab.faultReg ∧ t.fab.windows = s.fab.windows ∧ Only [.mem, .fab] s t) ∧
      (∀ w : Word, x.hostW = false → Answers (.apertureAccess off (some w)) s fun t =>
        t.fab.faultReg = atBit 31 1 1 ||| atBit 28 3 3 ||| atBit 0 20 off ∧
        t.fab.faultCnt = satAdd 0xFFFF s.fab.faultCnt 1 ∧ t.fab.windows = s.fab.windows ∧ Only [.fab] s t)) ∧
    (s.physHeld (apertureBase + a) = false → s.fab.windows.find? (fun y => y.covers (a / 4096)) = none →
      (Answers (.apertureAccess off none) s fun t =>
        t.mbx.lastRead = 0 ∧ t.fab.faultReg = atBit 31 1 1 ||| atBit 28 3 1 ||| atBit 0 20 off ∧ Only [.mbx, .fab] s t) ∧
      (∀ w : Word, Answers (.apertureAccess off (some w)) s fun t =>
        t.fab.faultReg = atBit 31 1 1 ||| atBit 28 3 1 ||| atBit 0 20 off ∧ Only [.fab] s t)) ∧
    (s.physHeld (apertureBase + a) = true →
      (Answers (.apertureAccess off none) s fun t => t.mbx.lastRead = 0 ∧ t.fab.faultReg = s.fab.faultReg ∧
        (∀ n, n < s.fab.windows.length → (s.win n).covers (a / 4096) = true → (t.win n).heldRead = true) ∧
        Only [.mbx, .fab] s t) ∧
      (∀ w : Word, Answers (.apertureAccess off (some w)) s fun t => t.fab.faultReg = s.fab.faultReg ∧
        (∀ n, n < s.fab.windows.length → (s.win n).covers (a / 4096) = true → (t.win n).heldWrite = true) ∧
        Only [.fab] s t))

/-- The arbiter of R413 to R415, and the invalidation of R400. -/
def Obligations.ArbitrationServesEveryRequester : Prop :=
  (∀ (q : BitVec 20) (s : State), s.fab.deadline.getD 0 false = false → s.fab.deadline.getD 1 false = false →
    Answers (.arbitrationRound q) s fun t => t.fab.round = (List.range 20).filter q.getLsbD ∧
      (∀ k, k < 20 → t.fab.active.getD k false = q.getLsbD k) ∧ t.fab.transfers = t.fab.inFlight ∧ Only [.fab] s t) ∧
  (∀ (q : BitVec 20) (k : Nat) (s : State), k < 20 → s.fab.deadline.length = 2 → s.fab.flagged k = false →
    Answers (.arbitrationRound q) s fun t => t.fab.round.count k = bit (q.getLsbD k) ∧
      t.fab.active.getD k false = q.getLsbD k) ∧
  (∀ (q : BitVec 20) (k : Nat) (s : State), s.fab.turn s.fab.lastDeadline = some k →
    Answers (.arbitrationRound q) s fun t => t.fab.round.head? = some (deadlineReq k) ∧
      t.fab.active.getD (deadlineReq k) false = (q.getLsbD (deadlineReq k) && !s.fab.flagged (deadlineReq k))) ∧
  (∀ (writer : Bool) (s : State), s.fab.deadline.length = 2 →
    (Answers (.deadlineFlag writer false) s fun t =>
      t.fab.deadline = s.fab.deadline.set (bit writer) false ∧ t.fab.active = s.fab.active ∧ t.fab.round = s.fab.round ∧
      t.fab.transfers = t.fab.inFlight ∧ Only [.fab] s t) ∧
    (s.fab.active.length = 20 → Answers (.deadlineFlag writer true) s fun t =>
      t.fab.deadline = s.fab.deadline.set (bit writer) true ∧
      t.fab.active.getD (deadlineReq (bit writer)) true = false ∧
      (s.fab.deadline.getD (1 - bit writer) false = false → s.fab.lastDeadline ≤ 1 →
        t.fab.round.head? = some (deadlineReq (bit writer))) ∧ Only [.fab] s t)) ∧
  (∀ (req : Nat) (page : Option Nat) (s : State), Answers (.translationInvalidation req page) s fun t =>
    (∀ e, e ∈ t.fab.tlb ↔ e ∈ s.fab.tlb ∧ ¬(e.1 = req ∧ (page = none ∨ page = some e.2.1.toNat))) ∧
    t.fab.tables = s.fab.tables ∧ t.fab.heldPages = s.fab.heldPages ∧ Only [.fab] s t)

/-- The faults of R401 to R406 for requesters other than the cipher pipeline. -/
def Obligations.FaultsAreQueuedAndResolved : Prop :=
  (∀ (req sub access ref done k : Nat) (va : Word) (hold : Bool) (s : State), 4 ≤ req → req ≤ 0x0E →
    s.faultKind req sub access ref va.toNat hold = some k → s.faulted req sub ref = false →
    (s.fab.faults.filter fun x => x.queued && x.owner == ownerRole req sub).length < 64 → s.fab.reqCounts.length = 20 →
    Answers (.translationFault req sub access va ref done hold) s fun t =>
      (∃ r, t.fab.faults = s.fab.faults ++ [r] ∧ r.requester = req ∧ r.kind = k ∧ r.access = access ∧ r.sub = sub ∧
        r.vaddr = va ∧ r.descRef = ref ∧ r.bytesDone = done / 16 * 16 ∧ r.epoch = s.tbu.epoch ∧ r.ns = s.now ∧
        r.queued = true ∧ r.dueNs = s.now + 10000000 ∧ r.recSeq = s.fab.recSeqs.getD (roleNo (ownerRole req sub)) 0) ∧
      t.fab.reqCounts.getD req 0 = satAdd 0xFFFFFFFF (s.fab.reqCounts.getD req 0) 1 ∧ Only [.fab] s t) ∧
  (∀ (req sub access ref done : Nat) (va : Word) (hold : Bool) (s : State),
    s.faultKind req sub access ref va.toNat hold = none → exec (.translationFault req sub access va ref done hold) s = .next s) ∧
  (∀ (req : Nat) (l1 l2 : Word) (r : FaultRec) (s : State), 4 ≤ req → req ≤ 0x0E → s.nextFault req = some r →
    s.rolePlaced r.owner = true → s.tablesFit req l1 = true →
    (s.mapPage req r.vaddr l1 l2).faultKind req r.sub r.access r.descRef r.vaddr.toNat (r.kind == kindNotHoldable) = none →
    Answers (.faultRestart req l1 l2) s fun t => t.mem = (s.mapPage req r.vaddr l1 l2).mem ∧
      t.faultKind req r.sub r.access r.descRef r.vaddr.toNat (r.kind == kindNotHoldable) = none ∧
      t.fab.faults.length = s.fab.faults.length - 1 ∧ t.fab.aborted = s.fab.aborted ∧ Only [.fab, .mem] s t) ∧
  (∀ (req : Nat) (l1 l2 : Word) (r : FaultRec) (s : State), s.nextFault req = some r →
    ((s.mapPage req r.vaddr l1 l2).faultKind req r.sub r.access r.descRef r.vaddr.toNat (r.kind == kindNotHoldable)).isSome = true →
    exec (.faultRestart req l1 l2) s = .next s) ∧
  (∀ (req : Nat) (r : FaultRec) (s : State), 4 ≤ req → req ≤ 9 → s.nextFault req = some r → s.rolePlaced r.owner = true →
    req - 4 < s.net.stats.length → Answers (.faultAbort req) s fun t =>
      t.fab.faults.length = s.fab.faults.length - 1 ∧ t.fab.aborted = satAdd 0xFFFF s.fab.aborted 1 ∧
      (t.net.stats.getD (req - 4) {}).discarded = satAdd 0xFFFFFFFF (s.net.stats.getD (req - 4) {}).discarded 1 ∧
      Only [.fab, .net] s t) ∧
  (∀ (r : FaultRec) (s : State), r.requester = 0x0E →
    s.fab.faults.find? (fun x => x.queued && decide (x.dueNs ≤ s.now) && s.rolePlaced x.owner) = some r →
    Answers .faultAbortTimeout s fun t => t.fab.faults.length = s.fab.faults.length - 1 ∧
      t.fab.aborted = satAdd 0xFFFF s.fab.aborted 1 ∧ Only [.fab] s t) ∧
  (∀ s : State, (∀ x, x ∈ s.fab.faults → x.queued = false ∨ s.now < x.dueNs ∨ s.rolePlaced x.owner = false) →
    exec .faultAbortTimeout s = .next s)

/-- R508 and R509 where the fault is contained. -/
def Obligations.MemoryErrorsAreContained : Prop :=
  (∀ (a req sub ref : Nat) (s : State), a < 0x800000 → s.pdOn 6 = true → 0x12 ≤ req →
    Answers (.uncorrectableWord a req sub ref) s fun t => t.poisoned a 1 = true ∧ t.mem = s.mem ∧
      (t.health.log.getLast?.map fun r => (r.code, r.unit, r.action, r.detail, r.seq)) =
        some (0x0011, req, 0, a, s.health.next) ∧ t.health.next = s.health.next + 1 ∧ Only [.fab, .health, .evc] s t) ∧
  (∀ (line : MramLine) (off : Nat) (s : State), s.pdOn 6 = true →
    (∀ b, line ≠ .firmware b ∧ line ≠ .meton b ∧ line ≠ .moraine b) →
    Answers (.mramUncorrectableLine line off false) s fun t => t.health.next = s.health.next + 1 ∧
      (t.health.log.getLast?.map fun r => (r.code, r.detail)) = some (0x0013, off) ∧ t.mem = s.mem ∧
      ((∀ i l, line ≠ .record i l) → t.parts = s.parts) ∧ Only [.parts, .health, .evc, .ledger] s t) ∧
  (∀ (b off : Nat) (both : Bool) (s : State), s.pdOn 6 = true → b < s.boot.fwBanks.length →
    Answers (.mramUncorrectableLine (.firmware b) off both) s fun t => (t.boot.fwBanks.getD b {}).refused = true ∧
      (∀ k, k ≠ b → t.boot.fwBanks.getD k {} = s.boot.fwBanks.getD k {}) ∧ t.mem = s.mem ∧
      Only [.boot, .health, .evc, .ledger] s t) ∧
  (∀ (b off : Nat) (both : Bool) (s : State), s.pdOn 6 = true → b < s.boot.metonBanks.length →
    Answers (.mramUncorrectableLine (.meton b) off both) s fun t => (t.metonBank b).bad = true ∧ (t.metonBank b).st = 4 ∧
      (∀ k, k ≠ b → t.metonBank k = s.metonBank k) ∧ t.cfg = s.cfg ∧ Only [.boot, .health, .evc, .ledger] s t) ∧
  (∀ (q off : Nat) (both : Bool) (s : State), s.pdOn 6 = true →
    Answers (.mramUncorrectableLine (.moraine q) off both) s fun t =>
      (t.ledger.ring.take s.ledger.ring.length).map (·.seq) = s.ledger.ring.map (·.seq) ∧
      (∀ e, e ∈ s.ledger.ring → e.seq ≠ q → e ∈ t.ledger.ring) ∧
      (t.health.log.getLast?.map fun r => (r.code, r.detail)) = some (0x0013, q) ∧
      Only [.ledger, .health, .evc, .free] s t) ∧
  (∀ (a req sub ref : Nat) (s : State), s.pdOn 6 = false → exec (.uncorrectableWord a req sub ref) s = .next s) ∧
  (∀ (line : MramLine) (off : Nat) (both : Bool) (s : State), s.pdOn 6 = false →
    exec (.mramUncorrectableLine line off both) s = .next s)

/-- The core pairs of R29 to R33 and R506. -/
def Obligations.CorePairsLeaveAndReturn : Prop :=
  (∀ (p : Nat) (s : State), p < 4 → s.cores.pairs.length = 4 → s.boot.phase = .running → s.pdOn (1 + p) = true →
    (∀ q, q < 4 → s.pairUp q = true) → Answers (.pairDivergence p) s fun t =>
      (t.cores.pairs.getD p {}).inService = false ∧
      (t.cores.pairs.getD p {}).stamps = (s.cores.pairs.getD p {}).stamps ++ [(s.now, s.tbu.epoch)] ∧
      ((t.cores.pairs.getD p {}).testing = true ∨ (t.cores.pairs.getD p {}).retired = true) ∧
      (∀ q, q ≠ p → t.cores.pairs.getD q {} = s.cores.pairs.getD q {}) ∧
      (∀ r, r ∈ s.rolesOn p → t.rolePlaced r = false) ∧ t.cores.place = s.cores.place) ∧
  (∀ (p : Nat) (s : State), (s.pairUp p = false ∨ s.pdOn (1 + p) = false ∨ s.boot.phase ≠ .running) →
    exec (.pairDivergence p) s = .next s) ∧
  (∀ (r : Role) (rest : List Role) (s : State), s.cores.migrating = r :: rest → s.cores.place.length = 4 →
    Answers .roleMigrationComplete s fun t => t.cores.migrating = rest ∧ t.pairOf r = s.placeFor r ∧
      (∀ q, q ≠ r → t.pairOf q = s.pairOf q) ∧ t.cores.pairs = s.cores.pairs) ∧
  (∀ s : State, s.cores.migrating = [] → exec .roleMigrationComplete s = .next s) ∧
  (∀ (p : Nat) (passed : Bool) (s : State), p < s.cores.pairs.length → (s.cores.pairs.getD p {}).testing = true →
    Answers (.pairSelfTestEnd p passed) s fun t => t.cores.pairs.getD p {} =
        (if passed then { s.cores.pairs.getD p {} with testing := false, inService := true, retired := false }
          else { s.cores.pairs.getD p {} with testing := false, retired := true }) ∧
      t.cores.place = s.cores.place ∧ t.cores.migrating = s.cores.migrating ∧ Only [.cores, .evc, .health, .ledger, .free] s t) ∧
  (∀ (r : Role) (s : State), s.rolesRun = true → s.roleAway r = true → s.roleIdle r = true →
    (r = .decision ∨ s.roleAway .decision = false) → Answers (.roleReturn r) s fun t =>
      t.rolePlaced r = false ∧ t.cores.pairs = s.cores.pairs ∧ Only [.cores, .radio, .sess] s t) ∧
  (∀ (p : Nat) (s : State), p < s.cores.pairs.length → (s.cores.pairs.getD p {}).retired = true →
    (s.cores.pairs.getD p {}).testing = false → s.boot.phase = .running →
    s.retirementOver (s.cores.pairs.getD p {}) = true → Answers (.pairRetirementEnd p) s fun t =>
      t.cores.pairs.getD p {} = { s.cores.pairs.getD p {} with testing := true } ∧ Only [.cores] s t)

/-- REGISTER_WRITE by address. -/
def Obligations.RegisterWritesDoTheirRows : Prop :=
  (∀ (r : Requester) (a : Nat) (w : Word) (s : State),
    (a % 4 ≠ 0 ∨ s.reaches r = false ∨ s.pdOn (addrDomain a) = false) → exec (.registerWrite r a w) s = .next s) ∧
  (∀ (r : Requester) (w : Word) (s : State), s.reaches r = true → s.pdOn 0 = true →
    (Answers (.registerWrite r 0x20 w) s fun t => t.boot = { s.boot with scratch := w } ∧ Only [.boot] s t) ∧
    (∀ n, n < 8 → exec (.registerWrite r (0x30000 + 0x40 * n) w) s = exec (.tmrnCtrlWrite n w) s ∧
      exec (.registerWrite r (0x3000C + 0x40 * n) w) s = exec (.tmrnCntWrite n w) s ∧
      exec (.registerWrite r (0x30010 + 0x40 * n) w) s = exec (.tmrnCmpWrite n 0 w) s ∧
      exec (.registerWrite r (0x30014 + 0x40 * n) w) s = exec (.tmrnCmpWrite n 1 w) s) ∧
    (∀ n, n < 8 → s.tmr.timers.length = 8 → Answers (.registerWrite r (0x30004 + 0x40 * n) w) s fun t =>
      (t.timer n).psc = word (max 100 w.toNat) ∧ (s.tickDue n = false →
        t.timer n = { s.timer n with psc := word (max 100 w.toNat) } ∧ (∀ k, k ≠ n → t.timer k = s.timer k) ∧
        Only [.tmr] s t) ∧ Only [.tmr, .evc] s t) ∧
    (∀ m, m < 4 → exec (.registerWrite r (0x30200 + 0x20 * m) w) s = exec (.almmLoWrite r m w) s) ∧
    exec (.registerWrite r 0x50004 w) s = exec (.pscHostSleepWrite w) s ∧
    exec (.registerWrite r 0x60000 w) s = exec (.padFrzWrite w) s) ∧
  (∀ (r : Requester) (w : Word) (s : State), s.reaches r = true → s.pdOn 6 = true →
    (∀ n, n < 8 → exec (.registerWrite r 0x10004 (word (1 <<< n))) s = exec (.doorbell n) s) ∧
    exec (.registerWrite r 0x10008 w) s = exec (.mbxAckWrite w) s ∧
    (∀ n k, n < 8 → k < 64 → exec (.registerWrite r (0x11000 + 0x200 * n + 4 * k) w) s = exec (.commandAreaWrite n k w) s) ∧
    exec (.registerWrite r 0x4000C w) s = exec (.evcSwsetWrite w) s ∧
    (∀ j, j < 6 → exec (.registerWrite r (0x40208 + 0x10 * j) w) s = exec (.evcClaimWrite j w) s) ∧
    (∀ n, n < 16 → exec (.registerWrite r (0x80100 + 0x10 * n) w) s = exec (.hbwWinCfgWrite n w) s) ∧
    (∀ off, off < 0x100000 → off % 4 = 0 →
      exec (.registerWrite r (0x100000 + off) w) s = exec (.apertureAccess off (some w)) s))

/-- The frames of R417 to R423. -/
def Obligations.SpiFramesReachTheRegisters : Prop :=
  (∀ (a : Nat) (w : Word) (s : State), s.hostServed = true → s.mbx.devAddr < 256 → a < 0x200000 → a % 4 = 0 →
    s.pdOn (addrDomain a) = true →
    exec (.spiWriteFrame (writeFrame s.mbx.devAddr a [w])) s = .next ((writeReg .spi a w s).drive [0])) ∧
  (∀ (a : Nat) (s : State), s.hostServed = true → s.mbx.devAddr < 256 → a < 0x10000 → a % 4 = 0 → s.pdOn 0 = true →
    Answers (.spiReadFrame (readFrame s.mbx.devAddr a 1 s.mbx.rdWait)) s fun t =>
      t.mbx.sdo = [0] ++ beBytes 4 (readIdh a s).toNat ++
        beBytes 2 (crc16 (beBytes 1 s.mbx.devAddr ++ beBytes 3 a ++ beBytes 1 1 ++ [0] ++ beBytes 4 (readIdh a s).toNat)) ∧
      t.mbx.boxes = s.mbx.boxes ∧ t.mbx.spiCrc = s.mbx.spiCrc ∧
      Only [.mbx] s t) ∧
  (∀ (bs : List Byte) (s : State), s.spiMine 0x02 bs = true → 7 ≤ bs.length → bs.length % 4 = 3 → crcOk bs = false →
    Answers (.spiWriteFrame bs) s fun t => t.mbx.sdo = [1] ∧ t.mbx.spiCrc = satAdd 0xFFFF s.mbx.spiCrc 1 ∧
      Only [.mbx, .evc] s t) ∧
  (∀ (a : Nat) (w : Word) (s : State), s.hostServed = true → s.mbx.devAddr < 256 → a < 0x200000 → a % 4 = 0 →
    s.pdOn (addrDomain a) = false → Answers (.spiWriteFrame (writeFrame s.mbx.devAddr a [w])) s fun t =>
      t.mbx.sdo = [3] ∧ t.tbu = s.tbu ∧ t.tmr = s.tmr ∧ t.boot = s.boot ∧ t.mem = s.mem ∧ t.crypt = s.crypt) ∧
  (∀ (bs : List Byte) (s : State), s.spiMine 0x02 bs = false ∨ bs.length < 7 ∨ bs.length % 4 ≠ 3 →
    Answers (.spiWriteFrame bs) s fun t => t.mbx = { s.mbx with sdo := [] } ∧ Only [.mbx] s t) ∧
  (∀ (bs : List Byte) (s : State), s.spiMine 0x03 bs = false ∨ bs.length < 8 + s.mbx.rdWait →
    Answers (.spiReadFrame bs) s fun t => t.mbx = { s.mbx with sdo := [] } ∧ Only [.mbx] s t)

/-- WAKE frames (R424) and datagrams (R425 to R427). -/
def Obligations.WakeFramesAndManagementRequests : Prop :=
  (∀ (bs : List Byte) (s : State), s.psc.state = .permafrost → s.pdOn 5 = false → bs.length = 31 → uAt bs 0 1 = 0xA5 →
    uAt bs 1 1 = s.mbx.devAddr → beNat (slice bs 2 3) = 0 → crcOk bs = true → s.psc.entry = none →
    s.wakeEnabled 0x00 = true → s.psc.waking = none →
    (wakeFields bs).1.getD 2 0 = 0 → (wakeFields bs).1.getD 3 0 = 0 →
    s.wakeFrameOk s.mbx.devAddr (wakeFields bs).1 (wakeFields bs).2 = true →
    Answers (.spiWakeFrame bs) s fun t => t.psc.waking = some 0x00 ∧ t.psc.wakeSrc = 0x00 ∧ t.psc.wakeNs = s.now ∧
      t.psc.wakeFrom = 3 ∧ t.psc.wakeReason = (wakeFields bs).1.getD 1 0 ∧ t.psc.wfailSpi = s.psc.wfailSpi ∧
      Only [.psc, .mbx, .crypt] s t) ∧
  (∀ (bs : List Byte) (s : State), s.psc.state = .permafrost → s.pdOn 5 = false → bs.length = 31 → uAt bs 0 1 = 0xA5 →
    uAt bs 1 1 = s.mbx.devAddr → beNat (slice bs 2 3) = 0 → crcOk bs = true →
    s.wakeFrameOk s.mbx.devAddr (wakeFields bs).1 (wakeFields bs).2 = false →
    Answers (.spiWakeFrame bs) s fun t => t.psc = { s.psc with wfailSpi := satAdd 0xFFFF s.psc.wfailSpi 1 } ∧
      Only [.psc, .mbx, .crypt] s t) ∧
  (∀ (bs : List Byte) (s : State), bs.length ≠ 31 → Answers (.spiWakeFrame bs) s fun t =>
    t.mbx = { s.mbx with sdo := [] } ∧ Only [.mbx] s t) ∧
  (∀ (port addr sp : Nat) (pf : Bool) (p : List Byte) (s : State), port < 2 → s.mbx.ready = true → s.portOn port = true →
    s.takes port pf = true → s.net.mgmtOff.getD port false = false → mgmtWellFormed p = false →
    Answers (.mgmtRequest port pf addr sp p) s fun t => t.mbx.ethDropped = satAdd 0xFFFF s.mbx.ethDropped 1 ∧
      t.mbx.mgmtOut = s.mbx.mgmtOut ∧ t.mbx.boxes = s.mbx.boxes ∧ Only [.mbx, .net, .evc] s t) ∧
  (∀ (port addr sp : Nat) (pf : Bool) (p : List Byte) (k : KeptReply) (s : State), port < 2 → s.mbx.ready = true →
    s.portOn port = true → s.psc.state = .run → s.psc.entry = none → s.takes port pf = true →
    s.net.mgmtOff.getD port false = false → mgmtWellFormed p = true → s.mbx.mgmtQueue < 32 →
    s.keptFor addr sp (uAt p 2 2) = some k →
    Answers (.mgmtRequest port pf addr sp p) s fun t => t.mbx.mgmtOut = k.reply ∧
      t.mbx.ethDup = satAdd 0xFFFF s.mbx.ethDup 1 ∧ t.mbx.boxes = s.mbx.boxes ∧ Only [.mbx, .net, .evc] s t) ∧
  (∀ (port addr sp a : Nat) (pf : Bool) (p : List Byte) (s : State), port < 2 → s.mbx.ready = true →
    s.portOn port = true → s.psc.state = .run → s.psc.entry = none → s.pdOn 0 = true → s.takes port pf = true →
    s.net.mgmtOff.getD port false = false → mgmtWellFormed p = true → s.mbx.mgmtQueue < 32 →
    s.keptFor addr sp (uAt p 2 2) = none → uAt p 4 1 = 3 → uAt p 5 1 = 1 → uAt p 8 4 = a → a < 0x10000 → a % 4 = 0 →
    Answers (.mgmtRequest port pf addr sp p) s fun t => t.mbx.mgmtOut = mgmtReply p 0 [readIdh a s] ∧
      (t.mbx.kept.head?.map fun x => (x.addr, x.port, x.reqSeq, x.reply)) =
        some (addr, sp, uAt p 2 2, mgmtReply p 0 [readIdh a s]) ∧ t.mbx.boxes = s.mbx.boxes ∧
      Only [.mbx, .net, .evc] s t) ∧
  (∀ (port addr sp : Nat) (pf : Bool) (p : List Byte) (s : State), s.phyOn port = false →
    exec (.mgmtRequest port pf addr sp p) s = .next s)

/-- The commands of R48, R56, R63 and R68 on a record that is in the table. -/
def Obligations.PartnerTableCommands : Prop :=
  ∀ (mb i id : Nat) (r : PartRec) (s : State), id = uAt (s.box mb).payload 0 8 → s.recAt id = some (i, r) →
    (∀ q, q ∈ s.parts.table → q.1 = i → q.2 = r) →
    (Takes s mb 0x0308 → Answers (.partRekey mb) s fun t =>
      t.parts.table = tablePut i { r with keyEpoch := (r.keyEpoch + 1) % 2 ^ 32, updateSeq := (r.updateSeq + 1) % 0x10000 }
        s.parts.table ∧ t.parts.attach = s.parts.attach ∧ Only [.parts, .mbx, .evc, .fab] s t) ∧
    (s.pop.running = none → Takes s mb 0x0305 → Answers (.partSet mb) s fun t =>
      t.parts.table = tablePut i { r.hostSet (s.box mb).payload with updateSeq := (r.updateSeq + 1) % 0x10000 } s.parts.table ∧
      (∀ n, n = r.hostSet (s.box mb).payload → n.failCount = r.failCount ∧ n.lastFailNs = r.lastFailNs ∧
        n.decayRefNs = r.decayRefNs ∧ n.keyEpoch = r.keyEpoch ∧ n.identity = r.identity ∧ n.role = r.role ∧ n.kind = r.kind) ∧
      Completed s t mb Status.ok (t.recBody id) ∧ Only [.parts, .ledger, .mbx, .evc, .fab] s t) ∧
    (s.pop.running = none → Takes s mb 0x0306 → Answers (.partAbsent mb) s fun t =>
      t.parts.table = tablePut i { r with state := .absent, updateSeq := (r.updateSeq + 1) % 0x10000 } s.parts.table ∧
      (∀ n, n ∈ t.net.nodes → n.identity = id → n.challenge = none) ∧
      Completed s t mb Status.ok (t.recBody id) ∧ Only [.parts, .ledger, .sess, .net, .mbx, .evc, .fab] s t) ∧
    (s.pop.running = none → Takes s mb 0x0307 → Answers (.partRemove mb) s fun t =>
      (r.failCount = 0 → t.parts.table = s.parts.table.filter fun q => q.1 != i) ∧
      (r.failCount ≠ 0 → 128 ≤ s.candidates.length → s.replaceable = none →
        t.parts.table = s.parts.table.filter fun q => q.1 != i) ∧
      (∀ q, r.failCount ≠ 0 → 128 ≤ s.candidates.length → s.replaceable = some q →
        (∀ x, x ∈ t.parts.table → x.1 ≠ q.1) ∧
        ∃ n, (i, n) ∈ t.parts.table ∧ n.state = .candidate ∧ n.identity = r.identity ∧ n.failCount = r.failCount) ∧
      (r.failCount ≠ 0 → s.candidates.length < 128 → ∃ n, t.parts.table = tablePut i n s.parts.table ∧ n.state = .candidate ∧ n.identity = r.identity ∧
        n.kind = r.kind ∧ n.role = 0 ∧ n.failCount = r.failCount ∧ n.lastFailNs = r.lastFailNs ∧
        n.decayRefNs = r.decayRefNs ∧ n.stampEpoch = r.stampEpoch ∧ n.zones = 0 ∧ n.keyEpoch = 0 ∧ n.releaseOk = false) ∧
      (∀ n, n ∈ t.net.nodes → n.identity = id → n.challenge = none) ∧
      Completed s t mb Status.ok (t.recBody id) ∧ Only [.parts, .ledger, .sess, .net, .mbx, .evc, .fab] s t) ∧
    (r.removed = false → Takes s mb 0x0303 → Answers (.partGet mb) s fun t =>
      t.parts.table = (if r.failCount = 0 ∨ s.decaySteps r.decayRefNs = 0 then s.parts.table
        else tablePut i { r with
          failCount := r.failCount - s.decaySteps r.decayRefNs
          decayRefNs := r.decayRefNs + s.decaySteps r.decayRefNs * 600000000000
          updateSeq := (r.updateSeq + 1) % 0x10000 } s.parts.table) ∧
      Completed s t mb Status.ok (t.recBody id) ∧ Only [.parts, .mbx, .evc, .fab] s t)

/-- The other part commands of 02_partners. -/
def Obligations.PartnerListUnlockAndEnrol : Prop :=
  (∀ (mb : Nat) (p : List Byte) (s : State), p = (s.box mb).payload → Takes s mb 0x0304 → (s.box mb).hasWindow = true →
    Answers (.partList mb) s fun t =>
      Completed s t mb Status.ok (leBytes 2 (min (uAt p 6 2) (s.listed p).length) ++
        leBytes 2 ((((s.listed p).drop (uAt p 6 2)).head?.map (·.1)).getD 0xFFFF) ++
        leBytes 2 s.candidates.length ++ leBytes 2 0) ∧
      t.mem = Memory.writeBytes s.mem ((s.win (s.box mb).window).phys (uAt p 8 4))
        (((s.listed p).take (uAt p 6 2)).flatMap fun q => q.2.bytes) ∧
      Only [.ledger, .mbx, .evc, .fab, .mem] s t) ∧
  (∀ (mb a : Nat) (s : State), Takes s mb 0x0309 → uAt (s.box mb).payload 0 1 = 1 → a = uAt (s.box mb).payload 1 1 →
    a < s.parts.attach.length → Answers (.partUnlock mb) s fun t =>
      (t.attachCtr a).count = 0 ∧ t.parts.table = s.parts.table ∧
      (∀ c, c ≠ a → t.attachCtr c = s.attachCtr c) ∧
      Completed s t mb Status.ok
        (leBytes 1 ((s.attachCtr a).decayed (s.decaySteps (s.attachCtr a).decayRefNs)).count ++ zeros 3) ∧
      Only [.parts, .ledger, .mbx, .evc, .fab] s t) ∧
  (∀ (mb i : Nat) (r : PartRec) (s : State), Takes s mb 0x0309 → uAt (s.box mb).payload 0 1 = 0 →
    s.recAt (uAt (s.box mb).payload 4 8) = some (i, r) → r.removed = false →
    (∀ q, q ∈ s.parts.table → q.1 = i ∨ q.2.identity = r.identity → q = (i, r)) → Answers (.partUnlock mb) s fun t =>
      (∃ n, t.parts.table = tablePut i n s.parts.table ∧ n.failCount = 0 ∧ n.identity = r.identity ∧ n.state = r.state ∧
        n.role = r.role ∧ n.keyEpoch = r.keyEpoch) ∧ t.parts.attach = s.parts.attach ∧
      Completed s t mb Status.ok (leBytes 1 (r.decayed (s.decaySteps r.decayRefNs)).failCount ++ zeros 3) ∧
      Only [.parts, .ledger, .mbx, .evc, .fab] s t) ∧
  (∀ (mb : Nat) (s : State), Takes s mb 0x0309 → uAt (s.box mb).payload 0 1 = 0 →
    s.recAt (uAt (s.box mb).payload 4 8) = none → Answers (.partUnlock mb) s fun t =>
      t.parts = s.parts ∧ Completed s t mb Status.ok (zeros 4) ∧ Only [.ledger, .mbx, .evc, .fab] s t) ∧
  (∀ (mb : Nat) (s : State), Takes s mb 0x0302 → Answers (.partEnrolOpen mb) s fun t =>
    t.parts = { s.parts with window := some (s.now + 120000000000), windowUsed := 0 } ∧
    Completed s t mb Status.ok (leBytes 8 (s.now + 120000000000)) ∧ Only [.parts, .mbx, .evc, .fab] s t) ∧
  (∀ (mb i : Nat) (p : List Byte) (s : State), p = (s.box mb).payload → Takes s mb 0x0301 → s.parts.enrol = none →
    uAt p 8 1 = 0x40 → s.recAt (uAt p 0 8) = none → s.freeIndex = some i → Answers (.partEnrol mb) s fun t =>
      t.parts.enrol = none ∧
      (∃ n, t.parts.table = tablePut i n s.parts.table ∧ n.identity = uAt p 0 8 ∧ n.kind = 4 ∧ n.role = 0x40 ∧
        n.state = .enrolled ∧ n.slot = uAt p 9 1 ∧ n.keyEpoch = 0 ∧ n.failCount = 0 ∧ n.attach = 0xFF ∧
        Completed s t mb Status.ok n.bytes) ∧ Only [.parts, .ledger, .mbx, .evc, .fab] s t) ∧
  (∀ (mb : Nat) (p : List Byte) (s : State), p = (s.box mb).payload → Takes s mb 0x0301 → s.parts.enrol = none →
    roleKind (uAt p 8 1) = 3 → (s.attachCtr (uAt p 13 1)).count = 0 →
    (∀ r, s.rec? (uAt p 0 8) = some r → r.failCount = 0 ∧ r.removed = false) → Answers (.partEnrol mb) s fun t =>
      (t.parts.enrol.map fun e => (e.mb, e.identity, e.role, e.attach, e.sentNs)) =
        some (mb, uAt p 0 8, uAt p 8 1, uAt p 13 1, s.now) ∧
      (t.box mb).st = .issued ∧ (t.box mb).waiting = true ∧ t.parts.table = s.parts.table ∧
      Only [.parts, .net, .mbx, .free] s t) ∧
  (∀ (mb : Nat) (s : State), s.parts.enrol.isSome = true → exec (.partEnrol mb) s = .next s) ∧
  (∀ (mb st : Nat) (s : State), s.parts.enrol = none → Started s mb 0x0301 → s.ownCheck mb 0x0301 = some st →
    Answers (.partEnrol mb) s fun t => RefusedWith s t mb st ∧ Only [.mbx, .evc, .fab] s t)

/-- The rows of time in 02_partners, and the two operations on the counts. -/
def Obligations.PartnerTimesAndLockouts : Prop :=
  (∀ (i : Nat) (r : PartRec) (s : State), s.candidates = [(i, r)] → s.recAt r.identity = some (i, r) → r.failCount = 0 →
    (r.removed = true ∨ (r.seenEpoch = s.tbu.epoch ∧ r.lastSeenNs + 86400000000000 ≤ s.now)) →
    Answers .candidateEvaluation s fun t => t.parts.table = (s.parts.table.filter fun q => q.1 != i) ∧
      t.parts.attach = s.parts.attach ∧ Only [.parts, .ledger, .evc] s t) ∧
  (∀ s : State, (∀ q, q ∈ s.candidates → s.recAt q.2.identity = some q ∧
      (q.2.failCount = 0 → q.2.removed = false ∧ (q.2.seenEpoch = s.tbu.epoch → s.now < q.2.lastSeenNs + 86400000000000)) ∧
      (q.2.failCount ≠ 0 → s.decaySteps q.2.decayRefNs = 0)) → exec .candidateEvaluation s = .next s) ∧
  (∀ (t0 : Nat) (s : State), s.parts.window = some t0 → t0 ≤ s.now → Answers .enrolmentWindowExpiry s fun t =>
    t.parts = { s.parts with window := none } ∧ Only [.parts, .evc] s t) ∧
  (∀ s : State, Answers .authSummaryHourEnd s fun t =>
    t.parts = { s.parts with sums := s.parts.sums.filter fun x => decide (s.now < x.hourNs + 3600000000000) } ∧
    Only [.parts, .ledger, .evc] s t) ∧
  (∀ (kind code id i a : Nat) (r : PartRec) (s : State), s.recAt id = some (i, r) → a < s.parts.attach.length →
    (∃ n, (s.countFailure kind code id (some a)).parts.table = tablePut i n s.parts.table ∧
      n.failCount = min ((if r.failCount = 0 then 0 else r.failCount - s.decaySteps r.decayRefNs) + 1) 255 ∧
      n.lastFailNs = s.now ∧ n.decayRefNs = s.now ∧ n.stampEpoch = s.tbu.epoch ∧ n.state = r.state) ∧
    ((s.countFailure kind code id (some a)).attachCtr a).count =
      min ((if (s.attachCtr a).count = 0 then 0
        else (s.attachCtr a).count - s.decaySteps (s.attachCtr a).decayRefNs) + 1) 255) ∧
  (∀ (id i : Nat) (r : PartRec) (s : State), s.recAt id = some (i, r) →
    (s.verifiedExchange id).parts.attach = s.parts.attach ∧
    ∃ n, (s.verifiedExchange id).parts.table = tablePut i n s.parts.table ∧ n.failCount = 0 ∧ n.missCount = 0 ∧
      n.lastSeenNs = s.now ∧ n.seenEpoch = s.tbu.epoch) ∧
  (∀ n, lockSpan (n + 9) = 64000000000 ∧ lockSpan 1 = 250000000 ∧
    (lockSpan (n + 2) = 2 * lockSpan (n + 1) ∨ lockSpan (n + 2) = 64000000000))

/-- The budget of R90, the load that R92 and R99 keep within it, and the overdraw of R100. -/
def Obligations.LfBudgetIsKept : Prop :=
  (∀ (pVint pLft bus : Nat) (hot cool : BitVec 64) (s : State), Answers (.lfBudgetRecompute pVint pLft bus hot cool) s fun t =>
    t.lf.pRest = s.restNow (s.restPower pVint pLft) ∧ s.restPower pVint pLft ≤ t.lf.pRest ∧
    (∀ p, p ∈ s.lf.restLog → s.now ≤ p.1 + 100000000 → p.2 ≤ t.lf.pRest) ∧
    (s.now < s.boot.releaseNs + 100000000 → 5000 ≤ t.lf.pRest) ∧ t.lf.pAvail = s.availPower ∧
    t.lf.pLf = min (t.lf.pAvail - t.lf.pRest - 1000) 14000 ∧ t.lf.hot = (s.lf.hot &&& ~~~cool) ||| hot ∧
    t.power.bus = bus ∧ t.power.feeds = s.power.feeds ∧
    ((s.lf.flight.filter fun b => b.cls == .wake).length ≤ 1 → t.committed ≤ costUnits t.lf.pLf)) ∧
  (∀ s : State, s.committed ≤ costUnits s.lf.pLf → s.considerAll.committed ≤ costUnits s.considerAll.lf.pLf) ∧
  (∀ (pVlf pLft e : Nat) (s : State), e = s.cfgN recNetwork (fieldNo 6 7) * s.cfgN recNetwork (fieldNo 6 8) →
    (10 * s.lfDraw pVlf pLft ≤ 11 * s.lf.pLf * e ∨ s.lf.flight = []) → exec (.lfOverdraw pVlf pLft) s = .next s) ∧
  (∀ (pVlf pLft e : Nat) (s : State), e = s.cfgN recNetwork (fieldNo 6 7) * s.cfgN recNetwork (fieldNo 6 8) →
    11 * s.lf.pLf * e < 10 * s.lfDraw pVlf pLft → s.lf.flight ≠ [] → Answers (.lfOverdraw pVlf pLft) s fun t =>
    ∃ b, b ∈ s.lf.flight ∧ t.lf.flight = s.lf.flight.filter (fun x => x.id != b.id) ∧
      ((∃ x, x ∈ s.lf.flight ∧ x.cls = .diag) → b.cls = .diag) ∧
      ((∃ x, x ∈ s.lf.flight ∧ x.cls ≠ .wake) → b.cls ≠ .wake) ∧
      (∃ w, w ∈ t.lf.waiting ∧ w.id = b.id ∧ w.parts = b.parts ∧ w.cls = b.cls ∧ w.restarted = true) ∧
      t.lf.pLf = s.lf.pLf ∧ Only [.lf, .sess, .keys, .health, .evc, .ledger, .free] s t)

/-- Requests (R92), ends (R92, R452) and trips (R73, R78). -/
def Obligations.LfBurstsBeginAndEnd : Prop :=
  (∀ (c : Nat) (b : Burst) (s : State), c < 64 → s.lfEnabled c = true → s.lf.waiting = [] → s.lf.flight = [] →
    s.lf.vlfPending = none → s.psc.state = .run → s.psc.entry = none →
    b = { cls := .diag, parts := [[(c, if c < 16 then 200 else 50)]], id := s.lf.nextId, reqNs := s.now } →
    s.lfPowered b = true → s.fits (s.costOf (s.targets b)) = true → Answers (.burstRequest 3 c) s fun t =>
      t.lf.flight = [{ b with scaled := s.targets b, scale := 10000, startNs := s.now }] ∧ t.lf.waiting = [] ∧
      t.lf.nextId = s.lf.nextId + 1 ∧ Only [.lf, .evc, .ledger] s t) ∧
  (∀ (k : Nat) (s : State), k < 8 → s.cfgB recWake (fieldNo k 1) = true → s.lf.waiting = [] → s.sess.cur.isSome = true →
    s.psc.state = .run → s.psc.entry = none → Answers (.burstRequest 1 k) s fun t =>
      (t.lf.waiting.map fun b => (b.cls, b.config, b.id, b.reqNs, b.parts)) = [(.wake, k, s.lf.nextId, s.now, s.wakeParts k)] ∧
      t.lf.flight = s.lf.flight ∧ Only [.lf] s t) ∧
  (∀ (cls what : Nat) (s : State), (cls = 0 ∨ 3 < cls) → exec (.burstRequest cls what) s = .next s) ∧
  (∀ (id : Nat) (silent : BitVec 64) (b : Burst) (s : State),
    s.lf.flight.find? (fun x => x.id == id && (x.cls == .wake || x.test.isSome)) = some b →
    (s.now < b.startNs + s.burstNs b → exec (.burstEnd id silent) s = .next s) ∧
    (b.startNs + s.burstNs b ≤ s.now → s.lf.waiting = [] → s.lf.vlfPending = none → silent = 0 →
      (b.test = none → Answers (.burstEnd id silent) s fun t =>
        t.lf = { s.lf with flight := s.lf.flight.filter fun y => y.id != id } ∧ Only [.lf] s t) ∧
      (∀ p n, b.test = some p → b.mbs = [n] → (s.box n).st = .issued → (s.box n).waiting = true →
        (s.box n).committed = true → Answers (.burstEnd id silent) s fun t =>
          t.lf = { s.lf with flight := s.lf.flight.filter fun y => y.id != id } ∧
          Completed s t n Status.ok (s.phaseBody p) ∧ Only [.lf, .mbx, .evc, .fab] s t))) ∧
  (∀ (id : Nat) (silent : BitVec 64) (b : Burst) (k : PopCheck) (s : State),
    s.lf.flight.find? (fun x => x.id == id && (x.cls == .wake || x.test.isSome)) = none →
    s.lf.flight.find? (fun x => x.id == id && x.cls == .pop && silent.getLsbD (16 + x.coil)) = some b → b.coil < 48 →
    s.lf.chans.length = 64 → s.lf.waiting = [] → b.addressed = none → s.pop.running = some k → k.coils.length = 48 →
    Answers (.burstEnd id silent) s fun t =>
      (t.lfChan (16 + b.coil)).cond = (s.lfChan (16 + b.coil)).cond ||| 0x201 ∧ (t.coil b.coil).entry = some 7 ∧
      t.lf.flight = s.lf.flight.filter (fun x => !(x.cls == .pop && x.coil == b.coil)) ∧
      Only [.lf, .pop, .ledger, .evc] s t) ∧
  (∀ (c : Nat) (b : Burst) (s : State), c < 64 → s.lf.chans.length = 64 →
    s.lf.flight.find? (fun x => x.chans.contains c && !x.tripped.contains c) = some b → b.cls = .wake →
    s.lf.waiting = [] → s.psc.state = .run → s.psc.entry = none → Answers (.overcurrentTrip c) s fun t =>
      (t.lfChan c).trips = ((s.lfChan c).trips.filter fun u => decide (s.now ≤ u + 60000000000)) ++ [s.now] ∧
      (t.lfChan c).cond = ((s.lfChan c).cond ||| (if 3 ≤ (t.lfChan c).trips.length then 0x280 else 0x80)) ∧
      t.lf.flight = (s.lf.flight.map fun y => if y.id = b.id then { y with tripped := c :: y.tripped } else y) ∧
      (t.lf.waiting.map fun x => (x.cls, x.chans)) = [(.diag, [c])] ∧ (∀ d, d ≠ c → t.lfChan d = s.lfChan d) ∧
      Only [.lf, .sess, .evc, .ledger] s t)

/-- Measurements (R75 to R79) and the commands of R452. -/
def Obligations.LfMeasurementsAndCommands : Prop :=
  (∀ (c : Nat) (r : CoilReading) (b : Burst) (s : State), c < 64 → s.lf.chans.length = 64 →
    s.lf.flight.find? (fun x => x.measure && x.chans == [c]) = some b → s.lf.waiting = [] →
    s.lf.diagLeft.getLsbD c = false → s.lf.diagMbs = [] → Answers (.resonanceMeasurement c r) s fun t =>
      t.lf.flight = s.lf.flight.filter (fun y => y.id != b.id) ∧
      (coilFound r = true → r.heldLow = false → r.heldHigh = false → ∃ rs, (t.lfChan c).result = some
          { f0 := coilGrid r, q := r.q, rs := rs, l := inductance r.q rs (coilGrid r), ns := s.now, epoch := s.tbu.epoch } ∧
        ∀ x, measuredRs c r = some x → rs = x) ∧
      (t.lfChan c).excluded = decide ((t.lfChan c).cond &&& 0xF ≠ 0) ∧
      ((t.lfChan c).cond.getLsbD 2 = r.heldLow) ∧ ((t.lfChan c).cond.getLsbD 3 = r.heldHigh) ∧
      (r.heldLow = false → r.heldHigh = false → coilFound r = true → (t.lfChan c).cond.getLsbD 1 =
          decide ((measuredRs c r).getD 10 < 10) ∧ (t.lfChan c).cond.getLsbD 0 = coilOpen c r) ∧
      (∀ d, d ≠ c → t.lfChan d = s.lfChan d) ∧ Only [.lf, .evc, .ledger, .free] s t) ∧
  (∀ (c n done : Nat) (r : CoilReading) (b : Burst) (s : State), c < 64 →
    s.lf.flight.find? (fun x => x.measure && x.chans == [c]) = some b → s.lf.waiting = [] →
    s.lf.diagLeft.getLsbD c = false → s.lf.diagMbs = [(n, 1 <<< c, done)] → (s.box n).st = .issued →
    (s.box n).waiting = true → Answers (.resonanceMeasurement c r) s fun t => t.lf.diagMbs = [] ∧
      Completed s t n Status.ok (leBytes 8 (done ||| 1 <<< c) ++ leBytes 8 t.excludedMask)) ∧
  (∀ s : State, s.lf.diagDue + s.cfgN recLfArray (fieldNo 0x40 2) * 1000000000 ≤ s.now →
    Answers .coilDiagnosticsDue s fun t => t.lf.diagDue = s.now ∧ ∀ c, c < 64 → t.lf.diagLeft.getLsbD c = s.lfEnabled c) ∧
  (∀ s : State, s.now < s.lf.diagDue + s.cfgN recLfArray (fieldNo 0x40 2) * 1000000000 →
    exec .coilDiagnosticsDue s = .next s) ∧
  (∀ (mb : Nat) (s : State), Takes s mb 0x0601 → Answers (.lfStatus mb) s fun t =>
    Completed s t mb Status.ok (s.cmdView mb).lfStatusBody ∧ ((s.box mb).hasWindow = false → t.mem = s.mem) ∧
    Only [.mbx, .evc, .fab, .mem] s t) ∧
  (∀ (mb c k : Nat) (s : State), Takes s mb 0x0603 → c = uAt (s.box mb).payload 0 1 → k = uAt (s.box mb).payload 2 2 →
    k ≠ 0xFFFF → Answers (.lfTune mb) s fun t => t.carrierHz c = 120000 + 25 * k ∧
      Completed s t mb Status.ok (leBytes 4 (120000 + 25 * k)) ∧ t.cfg.image = s.cfg.image ∧
      Only [.cfg, .mbx, .evc, .fab] s t) ∧
  (∀ (mb : Nat) (s : State), Takes s mb 0x0602 → Answers (.lfDiag mb) s fun t =>
    t.lf.diagMbs = s.lf.diagMbs ++ [(mb, uAt (s.box mb).payload 0 8, 0)] ∧ (t.box mb).st = .issued ∧
    (t.box mb).waiting = true ∧ (t.box mb).run = (s.box mb).run) ∧
  (∀ (mb : Nat) (s : State), Takes s mb 0x0604 → s.lf.waiting = [] → Answers (.lfPhase mb) s fun t =>
    (∃ b, (b ∈ t.lf.waiting ∨ b ∈ t.lf.flight) ∧ b.id = s.lf.nextId ∧ b.test = some (uAt (s.box mb).payload 0 1) ∧
      b.mbs = [mb]) ∧ (t.box mb).st = .issued ∧ (t.box mb).waiting = true)

/-- Exchanges (R113 to R121), due checks (R128), and their commands. -/
def Obligations.PopulationChecksRun : Prop :=
  (∀ (i p crc : Nat) (b : Burst) (k : PopCheck) (e : List Byte) (s : State), i < 48 → s.coilBurst i = some b →
    b.addressed = none → s.pop.running = some k → k.coils.length = 48 → (s.coil i).stage = 1 → (s.coil i).expected = some e →
    crc8 (msbBits 64 p) = crc → s.lf.waiting = [] → Answers (.uplinkFrame i (some (p, crc))) s fun t =>
      (beNat e = p → (t.coil i).entry = some 0 ∧ (∀ j r, s.recAt (s.coil i).target = some (j, r) →
        (∀ q, q ∈ s.parts.table → q.1 = j → q.2 = r) → t.parts.table = tablePut j { r with failCount := 0, updateSeq := (r.updateSeq + 1) % 0x10000 } s.parts.table)) ∧
      (beNat e ≠ p → t.coil i = { s.coil i with stage := 5, why := 1 } ∧ t.parts = s.parts) ∧
      (∀ j, j ≠ i → t.coil j = s.coil j) ∧
      t.lf.flight = s.lf.flight.filter (fun x => !(x.cls == .pop && x.coil == i)) ∧ Only [.pop, .lf, .parts] s t) ∧
  (∀ (i : Nat) (b : Burst) (k : PopCheck) (s : State), i < 48 → s.coilBurst i = some b → b.addressed = none →
    s.pop.running = some k → k.coils.length = 48 → (s.coil i).stage = 1 → s.lf.waiting = [] →
    ((s.coil i).expected = none → Answers (.noAnswer i) s fun t => (t.coil i).entry = some 0x0B ∧
      (∀ j, j ≠ i → t.coil j = s.coil j) ∧ Only [.pop, .lf] s t) ∧
    ((s.coil i).expected.isSome = true → Answers (.uplinkFrame i none) s fun t => t.coil i = { s.coil i with stage := 5, why := 2 } ∧
      (∀ j, j ≠ i → t.coil j = s.coil j) ∧ Only [.pop, .lf] s t) ∧
    ((s.coil i).expected.isSome = true → Answers (.noAnswer i) s fun t => t.coil i = { s.coil i with stage := 5, why := 2 } ∧
      (∀ j, j ≠ i → t.coil j = s.coil j) ∧ Only [.pop, .lf] s t)) ∧
  (∀ (i : Nat) (f : Option (Nat × Nat)) (s : State), s.coilBurst i = none →
    exec (.uplinkFrame i f) s = .next s ∧ exec (.noAnswer i) s = .next s) ∧
  (∀ (t0 : Nat) (s : State), s.pop.lastStart = some t0 → t0 + s.cfgN recPopulation 7 * 1000000000 ≤ s.now →
    s.pop.running.isSome = true → Answers .populationCheckDue s fun t =>
      t.pop = { s.pop with wanted := true } ∧ Only [.pop] s t) ∧
  (∀ (t0 : Nat) (s : State), s.pop.lastStart = some t0 → t0 + s.cfgN recPopulation 7 * 1000000000 ≤ s.now →
    s.pop.running = none → s.lf.diagDone = true → s.pdOn 12 = true → s.rolesRun = true →
    Answers .populationCheckDue s fun t => t.pop.checkSeq = s.pop.checkSeq + 1 ∧ t.pop.wanted = false ∧
      (t.pop.running.isSome = true ∨ (t.pop.latest.map (·.checkSeq)) = some (s.pop.checkSeq + 1))) ∧
  (∀ s : State, (∀ t0, s.pop.lastStart = some t0 → s.now < t0 + s.cfgN recPopulation 7 * 1000000000) →
    exec .populationCheckDue s = .next s) ∧
  (∀ (r : PopRec) (s : State), s.pop.latest = some r → r.locked ≠ [] →
    (∀ q, q ∈ r.locked → s.stillLocked q = false) → s.pop.running.isSome = true →
    Answers .lockoutEnd s fun t => t.pop = { s.pop with wanted := true } ∧ Only [.pop] s t) ∧
  (∀ (r : PopRec) (s : State), s.pop.latest = some r → (r.locked = [] ∨ ∃ q, q ∈ r.locked ∧ s.stillLocked q = true) →
    exec .lockoutEnd s = .next s) ∧
  (∀ (mb : Nat) (r : PopRec) (s : State), Takes s mb 0x0605 → s.pop.latest = some r → Answers (.lfPopulation mb) s fun t =>
    Completed s t mb Status.ok r.bytes ∧ Only [.mbx, .evc, .fab] s t) ∧
  (∀ (mb : Nat) (s : State), Takes s mb 0x0606 → s.pop.running.isSome = true → Answers (.lfPopcheck mb) s fun t =>
    t.pop = { s.pop with wanted := true, wantMbs := s.pop.wantMbs ++ [mb] } ∧
    t.box mb = { s.box mb with waiting := true } ∧ Only [.pop, .mbx] s t)

/-- The table of R149, with the hold queue of R150 and the lead of R145. -/
def Obligations.SequencerTreatsItsCommands : Prop :=
  (∀ (c : Instr) (h : HeldCmd) (s : State), s.radioCalm → s.seqCommand c = some h → s.radio.st = .off →
    Answers c s fun t => t.radio.st = .off ∧ t.radio.done = ((h.op, Status.invalid) :: s.radio.done).take 16 ∧
      t.radio.held = s.radio.held ∧ Only [.radio] s t) ∧
  (∀ (c : Instr) (h : HeldCmd) (s : State), s.radioCalm → s.seqCommand c = some h →
    (s.radio.st = .txUhf ∨ s.radio.st = .txUwb ∨ (s.radio.st = .ranging ∧ h.op ≠ .idle)) →
    (∀ set first limit temp, c = .seqRange set first limit temp → s.now + (s.atTemp temp).rangeLead ≤ first) →
    Answers c s fun t => t.radio.st = s.radio.st ∧ Only [.radio] s t ∧
      (s.radio.held.length < 8 → t.radio.held = s.radio.held ++ [h] ∧ t.radio.done = s.radio.done) ∧
      (8 ≤ s.radio.held.length → t.radio.held = s.radio.held ∧
        t.radio.done = ((h.op, Status.busy) :: s.radio.done).take 16)) ∧
  (∀ (set first limit : Nat) (temp : Int) (s : State), s.radioCalm → first < s.now + (s.atTemp temp).rangeLead →
    Answers (.seqRange set first limit temp) s fun t => t.radio.st = s.radio.st ∧ t.radio.held = s.radio.held ∧
      t.radio.done = ((.range, Status.invalid) :: s.radio.done).take 16 ∧ Only [.radio] s t) ∧
  (∀ s : State, s.radioCalm → s.radio.st = .off → s.rolesRun = true → s.psc.state = .run → s.psc.entry = none →
    s.pad.rel.getLsbD 10 = false → Answers .seqUp s fun t =>
      t.radio = { s.radio with
        st := .synthSettle, settleOf := .sampling, settleTo := .standby, settleFails := 0, sampRun := true
        antSw := s.cfgN recRadio 7 } ∧
      t.psc = { s.psc with powered := s.psc.powered ||| 0x0600 } ∧ t.tbu = { s.tbu with extOffset := 0 } ∧
      Only [.radio, .psc, .pad, .tbu] s t) ∧
  (∀ s : State, s.radioCalm → s.radio.st ≠ .off → exec .seqUp s = .next s) ∧
  (∀ s : State, s.radioCalm → s.radio.st ≠ .off → s.radio.held.length ≤ 8 → Answers .seqDown s fun t =>
    t.radio.st = .off ∧ t.radio.antSw = s.cfgN recRadio 5 ∧ t.radio.sampQual = false ∧ t.radio.loQual = false ∧
    t.radio.listenUhf = none ∧ t.radio.listenUwb = none ∧ t.radio.held = [] ∧ t.radio.fg = s.radio.fg ∧
    t.radio.loop = s.radio.loop ∧
    (∀ c, c ∈ s.radio.held →
      (c.op, if c.op = .range then Status.synthNotReady else Status.deadlineMissed) ∈ t.radio.done) ∧ t.psc = { s.psc with powered := s.psc.powered &&& ~~~0x0600 } ∧
    Only [.radio, .psc, .pad] s t) ∧
  (∀ s : State, s.radioCalm → s.radio.st = .off → exec .seqDown s = .next s) ∧
  (∀ (limit : Nat) (s : State), s.radioCalm →
    (s.radio.st = .standby → exec (.seqIdle limit) s = .next s) ∧
    (s.radio.st = .rxUhf ∨ s.radio.st = .rxUwb → s.radio.held = [] → s.radio.sampQual = true →
      Answers (.seqIdle limit) s fun t => t.radio.st = .standby ∧ t.radio.antSw = s.cfgN recRadio 6 ∧
        t.radio.listenUhf = none ∧ t.radio.listenUwb = none ∧ t.radio.loQual = false ∧ Only [.radio] s t) ∧
    (s.radio.st = .cal → Answers (.seqIdle limit) s fun t =>
      t.radio = { s.radio with idleDue := true } ∧ Only [.radio] s t)) ∧
  (∀ (region limit : Nat) (s : State), s.radioCalm → s.radio.held = [] →
    (s.radio.st = .standby → s.radio.loQual = false → Answers (.seqListenUhf region limit) s fun t =>
      t.radio.st = .synthSettle ∧ t.radio.settleOf = .lo ∧ t.radio.settleTo = .rxUhf ∧ t.radio.settleFails = 0 ∧
      t.radio.listenUhf = some region ∧ Only [.radio] s t) ∧
    (s.radio.st = .rxUhf → s.carrierRegion = region → Answers (.seqListenUhf region limit) s fun t =>
      t.radio = { s.radio with listenUhf := some region } ∧ Only [.radio] s t) ∧
    (s.radio.st = .synthSettle → s.carrierRegion = region → Answers (.seqListenUhf region limit) s fun t =>
      t.radio = { s.radio with listenUhf := some region, settleTo := .rxUhf } ∧ Only [.radio] s t) ∧
    (s.radio.st = .synthSettle → s.carrierRegion ≠ region → Answers (.seqListenUhf region limit) s fun t =>
      t.radio.st = .synthSettle ∧ t.radio.settleOf = s.radio.settleOf ∧ t.radio.settleTo = .rxUhf ∧
      t.radio.listenUhf = some region ∧ t.radio.loQual = false ∧ t.radio.calDone = false ∧ t.radio.dcOnly = false ∧
      Only [.radio] s t)) ∧
  (∀ (payload : List Byte) (s : State), s.radioCalm →
    (s.radio.st = .standby ∨ s.radio.st = .rxUhf → s.radio.sampQual = true → Answers (.seqSendUhf payload false) s fun t =>
      t.radio = { s.radio with st := .txUhf, txUhf := some (uhfFrame payload), antSw := s.cfgN recRadio 10 } ∧ Only [.radio] s t) ∧
    (s.radio.st = .rxUhf → s.radio.held = [] → Answers (.seqSendUhf payload true) s fun t =>
      t.radio.st = .rxUhf ∧ t.radio.held = [{ op := .sendUhf, limit := s.now + 100000 * s.cfgN recRadio 4 }] ∧
      Only [.radio] s t)) ∧
  (∀ (channel limit : Nat) (rx : Bool) (s : State), s.radioCalm →
    (s.radio.st = .standby → s.radio.sampQual = true → s.radio.held = [] → Answers (.seqListenUwb channel limit rx) s fun t =>
      t.radio = { s.radio with
        st := .rxUwb, listenUwb := some channel, antSw := s.cfgN recRadio 11, loQual := false, calDone := false } ∧
      Only [.radio] s t) ∧
    (s.radio.st = .rxUwb → Answers (.seqListenUwb channel limit rx) s fun t =>
      t.radio = { s.radio with listenUwb := some channel } ∧ Only [.radio] s t)) ∧
  (∀ (due : Option Nat) (limit : Nat) (s : State), s.radioCalm → s.radio.sampQual = true →
    (s.radio.st = .standby ∨ s.radio.st = .rxUwb) →
    ((∀ t0, due = some t0 → s.now + 2000 < t0) → Answers (.seqSendUwb due limit false) s fun t =>
      t.radio = { s.radio with
        st := .txUwb, txAt := due, txStamp := none, antSw := s.cfgN recRadio 12, loQual := false, calDone := false } ∧
      Only [.radio] s t) ∧
    (∀ t0, due = some t0 → t0 ≤ s.now + 2000 → s.radio.held = [] → Answers (.seqSendUwb due limit false) s fun t =>
      t.radio.st = s.radio.st ∧ t.radio.held = [] ∧
      t.radio.done = ((.sendUwb, Status.deadlineMissed) :: s.radio.done).take 16 ∧ Only [.radio] s t)) ∧
  (∀ (set first limit : Nat) (temp : Int) (s : State), s.radioCalm → s.radio.sampQual = true →
    (s.radio.st = .standby ∨ s.radio.st = .rxUhf ∨ s.radio.st = .rxUwb) → s.now + (s.atTemp temp).rangeLead ≤ first →
    Answers (.seqRange set first limit temp) s fun t => t.radio.st = .ranging ∧ t.radio.txAt = some first ∧
      t.radio.rangeSet = set ∧ t.radio.antSw = s.cfgN recRadio (14 + set) ∧ t.radio.temp = temp ∧
      (if (s.atTemp temp).loopValid = true then t.radio.accept = s.radio.loop ∧ t.radio.acceptLeft = 0
        else t.radio.accept = none ∧ t.radio.acceptLeft = 4) ∧ t.radio.held = s.radio.held ∧ Only [.radio] s t) ∧
  (∀ (limit : Nat) (s : State), s.radioCalm →
    (s.radio.st = .standby ∨ s.radio.st = .rxUhf → s.radio.loQual = true → Answers (.seqCal limit) s fun t =>
      t.radio.st = .cal ∧ t.radio.calStep = 0 ∧ t.radio.calDone = false ∧ t.radio.calTemp = s.radio.temp ∧
      t.radio.calPlan = (if s.radio.dcOnly = false ∧ s.fgStale s.carrierRegion = true then 12 else 1) ∧
      t.radio.antSw = s.cfgN recRadio 8 ∧ t.radio.held = s.radio.held ∧ Only [.radio] s t) ∧
    (s.radio.st = .cal → exec (.seqCal limit) s = .next s))

/-- Locks (R142, R148, R151), calibration (R152 to R158) and the timestamp extension (R27). -/
def Obligations.RadioLocksAndCalibrations : Prop :=
  (∀ s : State, s.radioCalm → s.radio.st = .synthSettle → s.radio.held = [] →
    (s.radio.settleOf = .sampling → s.radio.settleTo = .standby → Answers (.lockQualified .sampling) s fun t =>
      t.radio = { s.radio with
        st := .standby, sampQual := true, sampRun := true, antSw := s.cfgN recRadio 6, loQual := false, calDone := false } ∧
      Only [.radio] s t) ∧
    (s.radio.settleOf = .lo → s.radio.settleTo = .rxUhf → s.radio.calDone = false → Answers (.lockQualified .lo) s fun t =>
      t.radio.st = .cal ∧ t.radio.loQual = true ∧ t.radio.calStep = 0 ∧
      t.radio.calPlan = (if s.radio.dcOnly = false ∧ s.fgStale s.carrierRegion = true then 12 else 1) ∧
      t.radio.loBand = some s.freeVal ∧ Only [.radio, .free] s t)) ∧
  (∀ (synth : Synth) (s : State), s.radioCalm → (s.radio.st ≠ .synthSettle ∨ s.radio.settleOf ≠ synth) →
    exec (.lockQualified synth) s = .next s) ∧
  (∀ s : State, s.radioCalm → s.radio.st = .synthSettle →
    (s.radio.settleFails = 0 → Answers .settleTimeout s fun t =>
      t.radio = { s.radio with settleFails := 1 } ∧ Only [.radio] s t) ∧
    (s.radio.settleFails ≠ 0 → s.radio.settleOf = .sampling → s.radio.held.length ≤ 8 → Answers .settleTimeout s fun t =>
      t.radio.st = .off ∧ t.radio.held = [] ∧ t.radio.upRetry = some (s.now + 10000000) ∧
      t.radio.settleFail = satAdd 0xFFFFFFFF s.radio.settleFail 1 ∧
      (∀ c, c ∈ s.radio.held →
        (c.op, if c.op = .range then Status.synthNotReady else Status.deadlineMissed) ∈ t.radio.done) ∧
      t.pdOn 9 = false ∧ t.pdOn 10 = false ∧ Only [.radio, .evc, .health, .free, .psc, .pad] s t)) ∧
  (∀ s : State, s.radioCalm → s.radio.st ≠ .synthSettle → exec .settleTimeout s = .next s) ∧
  (∀ s : State, s.radioCalm →
    (s.radio.st ≠ .off → s.radio.sampQual = true → Answers (.lockLost .sampling) s fun t =>
      t.radio.st = .synthSettle ∧ t.radio.settleOf = .sampling ∧ t.radio.settleTo = .standby ∧ t.radio.sampQual = false ∧
      t.radio.txAt = none ∧ t.radio.accept = none ∧ Only [.radio] s t ∧
      (s.radio.st ≠ .ranging → s.radio.st ≠ .txUwb → t.radio.held = s.radio.held ∧ t.radio.done = s.radio.done) ∧
      (s.radio.st = .ranging → t.radio.held = s.radio.held ∧
        t.radio.done = ((.range, Status.synthNotReady) :: s.radio.done).take 16) ∧
      (∀ t0, s.radio.st = .txUwb → s.radio.txAt = some t0 → s.now + 2000 < t0 → s.radio.held.length < 8 →
        t.radio.held = { op := .sendUwb, due := some t0, limit := t0 } :: s.radio.held ∧ t.radio.done = s.radio.done) ∧
      (∀ t0, s.radio.st = .txUwb → s.radio.txAt = some t0 → s.now < t0 → t0 ≤ s.now + 2000 →
        t.radio.held = s.radio.held ∧ t.radio.done = ((.sendUwb, Status.deadlineMissed) :: s.radio.done).take 16)) ∧
    (s.radio.st = .off ∨ s.radio.sampQual = false → exec (.lockLost .sampling) s = .next s) ∧
    (s.radio.loQual = true → s.radio.st = .rxUhf ∨ s.radio.st = .txUhf → Answers (.lockLost .lo) s fun t =>
      t.radio.st = .synthSettle ∧ t.radio.settleOf = .lo ∧ t.radio.settleTo = .rxUhf ∧ t.radio.dcOnly = true ∧
      t.radio.loQual = false ∧ Only [.radio] s t) ∧
    (s.radio.loQual = true → s.radio.st ≠ .rxUhf → s.radio.st ≠ .txUhf → Answers (.lockLost .lo) s fun t =>
      t.radio = { s.radio with loQual := false, calDone := false } ∧ Only [.radio] s t) ∧
    (s.radio.loQual = false → exec (.lockLost .lo) s = .next s)) ∧
  (∀ (temp : Int) (s : State), s.radioCalm → s.radio.st = .cal → s.radio.idleDue = false →
    (s.radio.calStep + 1 < s.radio.calPlan → s.radio.held.all (fun c => c.op != .range) = true →
      Answers (.calStepEnd temp) s fun t =>
        t.radio = { s.radio with
          temp := temp, calStep := s.radio.calStep + 1
          dcTrim := if s.radio.calStep = 0 then some (s.freeVal % 2 ^ 32, s.freeVal / 2 ^ 32) else s.radio.dcTrim } ∧
        Only [.radio, .free] s t) ∧
    (s.radio.calPlan ≤ s.radio.calStep + 1 → s.radio.held = [] → s.radio.loQual = true →
      Answers (.calStepEnd temp) s fun t => t.radio.st = .rxUhf ∧ t.radio.calDone = true ∧ t.radio.dcOnly = false ∧
        t.radio.dcTrim = some (s.freeVal % 2 ^ 32, s.freeVal / 2 ^ 32) ∧ Only [.radio, .free] s t ∧
        (s.radio.calPlan ≠ 12 → t.radio.fg = s.radio.fg) ∧
        (s.radio.calPlan = 12 → ∃ f, t.radio.fg = some f ∧ f.ns = s.now ∧ f.epoch = s.tbu.epoch ∧ f.temp = temp ∧
          f.region = s.carrierRegion)) ∧
    (s.radio.calPlan ≤ s.radio.calStep + 1 → s.radio.held = [] → s.radio.loQual = false →
      Answers (.calStepEnd temp) s fun t => t.radio.st = .synthSettle ∧ t.radio.settleOf = .lo ∧
        t.radio.settleTo = .rxUhf ∧ t.radio.calDone = false ∧ Only [.radio, .free] s t) ∧
    (∀ c, s.radio.calStep + 1 < s.radio.calPlan → s.radio.held = [c] → c.op = .range → s.gateMissed c = false → s.radio.sampQual = true →
      Answers (.calStepEnd temp) s fun t => t.radio.st = .ranging ∧ t.radio.calYield = some s.now ∧ t.radio.held = [] ∧
        t.radio.calStep = s.radio.calStep + 1 ∧ Only [.radio, .free] s t)) ∧
  (∀ (temp : Int) (s : State), s.radioCalm → s.radio.st ≠ .cal → exec (.calStepEnd temp) s = .next s) ∧
  (∀ (t0 : Nat) (s : State), s.radioCalm → s.radio.upRetry = some t0 → t0 ≤ s.now → s.radio.st = .off →
    s.rolesRun = true → s.psc.state = .run → s.psc.entry = none → s.pad.rel.getLsbD 10 = false →
    Answers .upRetry s fun t => t.radio.st = .synthSettle ∧ t.radio.upRetry = none ∧ t.pdOn 9 = true ∧ t.pdOn 10 = true ∧
      Only [.radio, .psc, .pad, .tbu] s t) ∧
  (∀ s : State, (∀ t0, s.radio.upRetry = some t0 → s.now < t0) → exec .upRetry s = .next s) ∧
  (∀ (temp : Int) (s : State), s.radio.st = .rxUhf → s.radio.recalDue = false → s.radio.dcOnly = false →
    (s.atTemp temp).fgStale s.carrierRegion = true →
    (s.radioCalm → s.radio.loQual = true → Answers (.recalibrationDue temp) s fun t => t.radio.st = .cal ∧
      t.radio.recalDue = true ∧ t.radio.calPlan = 12 ∧ t.radio.temp = temp ∧ Only [.radio, .evc] s t) ∧
    (∀ r, s.sess.cur = some r → (∀ l, l ∈ r.lanes → l.dead = false) → s.radio.calMbs = [] →
      Answers (.recalibrationDue temp) s fun t => t.radio = { s.radio with temp := temp, recalDue := true } ∧
        Only [.radio, .evc] s t)) ∧
  (∀ (kind dA dB : Nat) (temp : Int) (s : State), s.radioCalm → kind < 4 → s.slicesRun = true →
    s.ownFrameWithin (sliceNs kind + 1000) = false → s.radio.sweepPos.length = 4 → s.radio.sweepEnd.length = 3 →
    Answers (.backgroundSlice kind dA dB temp false) s fun t => t.radio.temp = temp ∧ Only [.radio, .free] s t ∧
      (kind < 3 → t.radio.sweepPos.getD kind 0 = (if s.radio.sweepPos.getD kind 0 < 63 then s.radio.sweepPos.getD kind 0 + 1 else 0) ∧
        t.radio.sweepEnd.getD kind none =
          (if s.radio.sweepPos.getD kind 0 < 63 then s.radio.sweepEnd.getD kind none else some s.now) ∧
        t.radio.loop = s.radio.loop) ∧
      (kind = 3 → s.radio.acceptLeft = 0 → s.radio.sweepPos.getD 3 0 < 15 → t.radio.sweepPos.getD 3 0 = s.radio.sweepPos.getD 3 0 + 1 ∧
        t.radio.loopSumA = s.radio.loopSumA + dA ∧ t.radio.loopSumB = s.radio.loopSumB + dB ∧ t.radio.loop = s.radio.loop) ∧
      (kind = 3 → s.radio.acceptLeft = 0 → 15 ≤ s.radio.sweepPos.getD 3 0 → t.radio.sweepPos.getD 3 0 = 0 ∧ t.radio.loop = some
        { ns := s.now, epoch := s.tbu.epoch, temp := temp, dA := (roundDiv (s.radio.loopSumA + dA) 16).toNat
          dB := (roundDiv (s.radio.loopSumB + dB) 16).toNat }) ∧
      (kind = 3 → s.radio.acceptLeft = 1 → t.radio.acceptLeft = 0 ∧ t.radio.loop = s.radio.loop ∧ t.radio.accept = some
        { ns := s.now, epoch := s.tbu.epoch, temp := temp, dA := (roundDiv (s.radio.acceptSumA + dA) 4).toNat
          dB := (roundDiv (s.radio.acceptSumB + dB) 4).toNat })) ∧
  (∀ (kind dA dB : Nat) (temp : Int) (rx : Bool) (s : State),
    (3 < kind ∨ rx = true ∨ s.slicesRun = false ∨ s.ownFrameWithin (sliceNs kind + 1000) = true) →
    exec (.backgroundSlice kind dA dB temp rx) s = .next s) ∧
  (∀ (kind dA dB : Nat) (temp : Int) (s : State), s.radioCalm → kind < 4 → s.slicesRun = true →
    s.radio.st ≠ .ranging → s.ownFrameWithin (sliceNs kind + 1000) = false → s.sliceOld kind = true → Answers (.forcedSlice kind dA dB temp false) s fun t =>
      t.radio.forced = satAdd 0xFFFFFFFF s.radio.forced 1 ∧ t.radio.temp = temp ∧ Only [.radio, .evc, .free] s t) ∧
  (∀ (kind dA dB : Nat) (temp : Int) (rx : Bool) (s : State),
    (3 < kind ∨ rx = true ∨ s.slicesRun = false ∨ s.radio.st = .ranging ∨
      s.ownFrameWithin (sliceNs kind + 1000) = true ∨ s.sliceOld kind = false) →
    exec (.forcedSlice kind dA dB temp rx) s = .next s) ∧
  (∀ (off : Int) (s : State), s.radio.st ≠ .off →
    (off.natAbs ≤ 1 → Answers (.timestampExtensionCompare off) s fun t =>
      t.tbu = { s.tbu with extOffset := off } ∧ Only [.tbu] s t) ∧
    (1 < off.natAbs → Answers (.timestampExtensionCompare off) s fun t =>
      t.tbu = { s.tbu with extOffset := 0 } ∧ t.health.next = s.health.next + 1 ∧ t.health.lastCode = 0x0051 ∧
      t.radio = { s.radio with extHeld := s.radio.extHeld || s.radio.st == .ranging } ∧
      Only [.tbu, .radio, .health, .evc, .free] s t)) ∧
  (∀ (off : Int) (s : State), s.radio.st = .off → exec (.timestampExtensionCompare off) s = .next s)

/-- Frames (R148, R173), limits (R144, R151) and the rf commands (R161). -/
def Obligations.RadioFramesAndRfCommands : Prop :=
  (∀ s : State, s.radioCalm → s.radio.held = [] →
    (s.radio.st = .txUhf → s.radio.listenUhf = none → s.radio.sampQual = true → Answers .uhfFrameEnd s fun t =>
      t.radio.st = .standby ∧ t.radio.antSw = s.cfgN recRadio 6 ∧ Only [.radio] s t) ∧
    (s.radio.st = .txUhf → s.radio.listenUhf.isSome = true → s.radio.loQual = true → s.radio.calDone = true →
      Answers .uhfFrameEnd s fun t => t.radio.st = .rxUhf ∧ t.radio.antSw = s.cfgN recRadio 9 ∧ Only [.radio] s t) ∧
    (s.radio.st = .txUwb → s.radio.txAt.getD 0 ≤ s.now → Answers .uwbFrameEnd s fun t => t.radio.txAt = none ∧
      (s.radio.listenUwb.isSome = true → t.radio.st = .rxUwb) ∧
      (s.radio.listenUwb = none → s.radio.sampQual = true → t.radio.st = .standby) ∧
      (∀ t0, s.radio.txAt = some t0 → t.radio.txStamp = some (dacSample (256 * t0 + rmarkerOffset))) ∧
      Only [.radio, .free] s t)) ∧
  (∀ s : State, s.radio.st ≠ .txUhf → exec .uhfFrameEnd s = .next s) ∧
  (∀ s : State, (s.radio.st ≠ .txUwb ∨ s.now < s.radio.txAt.getD 0) → exec .uwbFrameEnd s = .next s) ∧
  (∀ (frame : List Byte) (s : State), s.radioCalm → s.radio.held = [] → s.radio.st = .rxUhf →
    Answers (.uhfFrameReceived frame) s fun t => Only [.radio] s t ∧
      t.radio = (match uhfPayload frame with
        | some p => { s.radio with rxUhf := some p }
        | none => s.radio)) ∧
  (∀ (p : List Byte), p.length < 256 →
    uhfPayload ((uhfFrame p).drop 5) = some p) ∧
  (∀ (m : Reception) (s : State), s.radioCalm → s.radio.held = [] → s.radio.st = .rxUwb →
    Answers (.uwbFrameReceived m) s fun t =>
      t.radio = { s.radio with
        cirNs := m.tap0, cirs := [m.syncA, m.syncB, m.stsA, m.stsB], gainA := m.gainA, gainB := m.gainB } ∧
      (∀ a, a < 0x500000 ∨ 0x504000 ≤ a → Memory.readByte t.mem a = Memory.readByte s.mem a) ∧ Only [.radio, .mem] s t) ∧
  (∀ (frame : List Byte) (m : Reception) (s : State),
    (s.radio.st ≠ .rxUhf → exec (.uhfFrameReceived frame) s = .next s) ∧
    (s.radio.st ≠ .rxUwb → exec (.uwbFrameReceived m) s = .next s)) ∧
  (∀ s : State, s.radioCalm → s.radio.held.length ≤ 8 → Answers .heldCommandTimeout s fun t =>
    t.radio.held = s.radio.held.filter (fun c => decide (s.now ≤ c.limit)) ∧ t.radio.st = s.radio.st ∧
    (∀ c, c ∈ s.radio.held → c.limit < s.now →
      (c.op, if c.op = .range then Status.synthNotReady else Status.deadlineMissed) ∈ t.radio.done) ∧ Only [.radio] s t) ∧
  (∀ (c : HeldCmd) (t0 : Nat) (s : State), s.radioCalm → s.radio.held = [c] → s.radio.st ≠ .ranging → c.due = some t0 →
    (t0 ≤ s.now + 2000 → c.op = .sendUwb ∨ c.op = .range → Answers .transmitGateDeadline s fun t => t.radio.held = [] ∧
      t.radio.done = ((c.op, if c.op = .range then Status.synthNotReady else Status.deadlineMissed) :: s.radio.done).take 16 ∧
      t.radio.st = s.radio.st ∧ Only [.radio] s t) ∧
    (s.now + 2000 < t0 → exec .transmitGateDeadline s = .next s)) ∧
  (∀ (t0 : Nat) (s : State), s.radioCalm → s.radio.held = [] → s.radio.st = .ranging → s.radio.txAt = some t0 →
    t0 ≤ s.now + 2000 → s.radio.sampQual = true → s.radio.accept = none → s.radio.calYield = none →
    Answers .transmitGateDeadline s fun t => t.radio.st = .standby ∧ t.radio.rangeAt = none ∧
      t.radio.done = ((.range, Status.synthNotReady) :: s.radio.done).take 16 ∧ Only [.radio] s t) ∧
  (∀ (mb : Nat) (s : State), Takes s mb 0x0701 → Answers (.rfStatus mb) s fun t =>
    Completed s t mb Status.ok (s.cmdView mb).rfStatus ∧ Only [.mbx, .evc, .fab, .free] s t) ∧
  (∀ (mb : Nat) (s : State), Takes s mb 0x0702 → s.radioCalm → (s.radio.st = .standby ∨ s.radio.st = .rxUhf) →
    s.radio.loQual = true → s.radio.held.length < 8 → Answers (.rfCal mb) s fun t => t.radio.st = .cal ∧
      t.radio.calMbs = [(mb, 3)] ∧
      t.radio.sweepPos = [0, 0, 0, 0] ∧ (t.box mb).st = .issued ∧ (t.box mb).waiting = true ∧
      (t.box mb).committed = true ∧ (t.box mb).run = (s.box mb).run ∧ Only [.radio, .mbx] s t) ∧
  (∀ (mb : Nat) (s : State), Takes s mb 0x0703 → s.radioCalm → s.radio.st = .standby → s.radio.sampQual = true →
    (s.box mb).committed = false →
    Answers (.rfTest mb) s fun t => t.radio.testMb = some mb ∧
      t.radio.testEnd = s.now + 1000000 * uAt (s.box mb).payload 6 2 ∧ (t.box mb).st = .issued ∧
      (t.box mb).waiting = true ∧ (t.box mb).committed = true ∧ Only [.radio, .mbx] s t ∧
      (uAt (s.box mb).payload 0 1 = 1 → t.radio.st = .txUhf ∧ t.radio.testPower ≤ 2 * (s.cmdView mb).cfgI recRadio 2 ∧
        t.radio.testPower ≤ iAt (s.box mb).payload 2 2) ∧
      (uAt (s.box mb).payload 0 1 = 0 → t.radio.st = .txUwb ∧ t.radio.testPower = iAt (s.box mb).payload 2 2)) ∧
  (∀ (mb : Nat) (s : State), s.sess.cur = none → s.radio.calMbs = [] → s.radio.testMb = some mb → (s.box mb).st = .issued →
    (s.box mb).waiting = true → (s.box mb).committed = true → s.radio.testEnd ≤ s.now → s.lf.waiting = [] →
    Answers .rfTestEnd s fun t => t.radio.testMb = none ∧
      Completed s t mb Status.ok (leInt 2 s.radio.testPower ++ zeros 2) ∧ Only [.radio, .mbx, .evc, .fab, .lf] s t) ∧
  (∀ s : State, (∀ mb, s.radio.testMb = some mb → (s.box mb).committed = false ∨ s.now < s.radio.testEnd) →
    exec .rfTestEnd s = .next s) ∧
  (∀ (mb : Nat) (s : State), Takes s mb 0x0704 → s.radioCalm → s.lf.waiting = [] → s.radio.held = [] →
    (s.radio.st = .standby ∨ s.radio.st = .rxUhf ∨ s.radio.st = .rxUwb) → s.radio.sampQual = true →
    Answers (.rfCapture mb) s fun t =>
      Completed s t mb Status.ok (leBytes 4 (uAt (s.box mb).payload 4 4) ++ leBytes 4 s.tbu.epoch ++ leBytes 8 s.now) ∧
      t.radio.testMb = none ∧ t.radio.st = s.radio.st ∧
      ((s.box mb).hasWindow = false → t.mem = s.mem) ∧ Only [.radio, .mbx, .evc, .fab, .mem, .free, .lf] s t)

/-- Polls, slots, admission and the CCM exchange (R165 to R188). -/
def Obligations.RoundsAdmitAndAuthenticate : Prop :=
  (∀ (k : Nat) (s : State), k < 8 → s.pollDue k = true → s.lf.waiting = [] → s.sess.cur.isSome = true → s.inRun →
    Answers (.periodicPoll k) s fun t =>
      (t.lf.waiting.map fun b => (b.cls, b.config, b.id, b.reqNs, b.parts)) = [(.wake, k, s.lf.nextId, s.now, s.wakeParts k)] ∧
      t.lf.flight = s.lf.flight ∧ Only [.lf] s t) ∧
  (∀ (k : Nat) (s : State), (8 ≤ k ∨ s.pollDue k = false) → exec (.periodicPoll k) s = .next s) ∧
  (∀ (slot : Nat) (p : Option (List Byte)) (r : Round) (s : State), s.sess.cur = some r → r.closed = false →
    slot < 16 → r.wakeNs + 10300000 + 2000000 * slot ≤ s.now → s.now ≤ r.wakeNs + 10300000 + 2000000 * slot + 2000000 →
    (∀ (f bs : List Byte) (i : Nat) (q : PartRec), p = some f → uhfPayload f = some bs → isAnswer slot bs = true →
      r.synced.getD slot false = false → s.recAt (beNat (slice bs 2 8)) = some (i, q) →
      validIdentity (beNat (slice bs 2 8)) = true → q.state = .enrolled → s.parts.enrol = none →
      Answers (.slotAnswer slot p) s fun t => Only [.sess] s t ∧
        t.sess = { s.sess with cur := some { r with
          slots := r.slots.set slot .clean, synced := r.synced.set slot true
          answers := r.answers ++ [{ slot := slot, identity := beNat (slice bs 2 8), payload := bs
                                     motion := beNat (slice bs 13 2), rootSlot := q.slot
                                     version := (s.slot q.slot).version, role := q.role, keyEpoch := q.keyEpoch }] } }) ∧
    (∀ f, p = some f → (r.synced.getD slot false = true ∨ ∀ bs, uhfPayload f = some bs → isAnswer slot bs = false) →
      Answers (.slotAnswer slot p) s fun t => Only [.sess] s t ∧
        t.sess = { s.sess with cur := some { r with
          slots := r.slots.set slot .collision, synced := r.synced.set slot true
          answers := r.answers.filter fun a => a.slot != slot } }) ∧
    (r.slots.getD slot .empty = .empty → Answers (.slotAnswer slot none) s fun t => Only [.sess] s t ∧
        t.sess = { s.sess with cur := some { r with
          slots := r.slots.set slot .collision, answers := r.answers.filter fun a => a.slot != slot } }) ∧
    (r.slots.getD slot .empty ≠ .empty → exec (.slotAnswer slot none) s = .next s)) ∧
  (∀ (slot : Nat) (p : Option (List Byte)) (s : State),
    (∀ r, s.sess.cur = some r → r.closed = true ∨ 16 ≤ slot ∨ s.now < r.wakeNs + 10300000 + 2000000 * slot ∨
      r.wakeNs + 10300000 + 2000000 * slot + 2000000 < s.now) → exec (.slotAnswer slot p) s = .next s) ∧
  (∀ (r : Round) (s : State), s.sess.cur = some r → r.closed = false → r.wakeNs + 42300000 ≤ s.now →
    r.antennas.foldl (fun (u : State) a => u.evalAttach a) s = s → (∀ a, a ∈ r.answers → s.metAnswer a.identity = s) →
    (∃ a c, a ∈ r.answers ∧ s.judge r a = .rank c) → Answers .responseWindowClose s fun t => Only [.sess, .keys] s t ∧
      ∃ x n, t.sess.cur = some x ∧ n = (r.answers.filter fun a => (List.range 5).any fun c => s.judge r a == .rank c).length ∧
        x.closed = true ∧ x.lanes.length = min 8 n ∧ x.unserved = n - 8 ∧ x.answers = r.answers ∧
        (∀ i l, x.lanes[i]? = some l → l.k = i ∧ l.openNs = r.wakeNs + 42300000 + 7000000 * i ∧ l.opened = false ∧
          l.outcome = none ∧ ∃ a, a ∈ r.answers ∧ l.ans = { a with cls := l.ans.cls } ∧ s.judge r a = .rank l.ans.cls) ∧
        (∀ (i j : Nat) (l m : Lane), i < j → x.lanes[i]? = some l → x.lanes[j]? = some m → l.ans.cls ≤ m.ans.cls) ∧
        x.refMotion = (r.answers.filter fun a => s.judge r a == .motion).length ∧
        x.refLock = (r.answers.filter fun a => s.judge r a == .lock).length) ∧
  (∀ (r : Round) (s : State), s.sess.cur = some r → r.closed = false → r.wakeNs + 42300000 ≤ s.now → r.antennas = [] →
    r.answers = [] → r.slotsOf .collision = 0 → r.mbs = [] → s.sess.test = none → s.lf.waiting = [] →
    s.radio.recalDue = false → Answers .responseWindowClose s fun t => t.sess.cur = none ∧
      (t.sess.last.map fun x => (x.seq, x.lanes, x.closed)) = some (r.seq, [], true) ∧ Only [.sess, .evc, .lf] s t) ∧
  (∀ s : State, (∀ r, s.sess.cur = some r → r.closed = true ∨ s.now < r.wakeNs + 42300000) →
    exec .responseWindowClose s = .next s) ∧
  (∀ (a : SlotAns) (r : Round) (s : State), s.sess.cur = some r → r.answers = [a] → r.lanes = [] → a.derived = false →
    Answers (.derivationComplete a.slot) s fun t => Only [.sess] s t ∧
      t.sess.cur = some { r with answers := [{ a with derived := true, key := s.deriveKs a }] } ∧
      (s.crypt.sealed = false → (s.slot a.rootSlot).cls = 2 → (s.slot a.rootSlot).version = a.version →
        (s.slot a.rootSlot).loaded = true →
        s.deriveKs a = some (kdf (s.slot a.rootSlot).key 0x0201 a.identity a.role a.keyEpoch 128))) ∧
  (∀ (r : Round) (l : Lane) (s : State), s.sess.cur = some r → r.closed = true →
    r.lanes.find? (fun x => x.outcome.isNone) = some l → r.lanes[l.k]? = some l → l.opened = false → l.openNs ≤ s.now →
    l.ans.derived = true → l.aborted = false → (∀ x, x ∈ r.lanes → x.dead = false) →
    (l.noKey = false → l.ans.key.isSome = true → s.crypt.sealed = false → s.radio.testMb = none →
      s.radio.st = .standby ∨ s.radio.st = .rxUhf → s.radio.sampQual = true → Answers .laneOpen s fun t =>
        t.sess.cur = some (r.setLane { l with opened := true, openNs := s.now, challenge := s.freshC }) ∧
        t.radio.st = .txUhf ∧ t.radio.txUhf = some (uhfFrame (s.challengeFrame r l s.freshC)) ∧ t.free = s.free + 1 ∧
        s.freshC ∉ s.pop.used ∧ t.pop = { s.pop with used := s.freshC :: s.pop.used } ∧
        Only [.sess, .radio, .pop, .free] s t) ∧
    (l.noKey = true ∨ l.ans.key = none ∨ s.crypt.sealed = true → r.othersRun l.k → l.record = none →
      Answers .laneOpen s fun t => t.sess.recs = s.sess.recs ++ [s.sessRec r l 10 0] ∧
        t.sess.cur = some (r.setLane { l with outcome := some 10, closeNs := s.now }) ∧ Only [.sess, .keys] s t)) ∧
  (∀ (r : Round) (l : Lane) (f p : List Byte) (s : State), s.laneRuns r l → l.verified = false →
    s.now ≤ l.openNs + 4000000 → uhfPayload f = some p → isResponse l.ans.slot p = true →
    (s.responseOk r l p = true → s.radio.st = .standby ∨ s.radio.st = .rxUhf → s.radio.sampQual = true →
      s.now + s.rangeLead ≤ l.openNs + 4000000 → Answers (.responseFrame f) s fun t =>
        t.radio.st = .ranging ∧ t.radio.txAt = some (l.openNs + 4000000) ∧ t.radio.rangeSet = s.antennaSet r.config ∧
        t.sess.cur = some (r.setLane { l with
          verified := true, dead := false, stsKey := stsBlock (l.ans.key.getD []) l.challenge 1
          stsV := stsBlock (l.ans.key.getD []) l.challenge 2
          record := some { roundSeq := r.seq, lane := l.k, antSet := s.antennaSet r.config
                           channel := if s.setField (s.antennaSet r.config) 2 = 0 then 5 else 9 } }) ∧
        Only [.sess, .radio] s t) ∧
    (∀ i q, s.responseOk r l p = false → s.radio.st ≠ .ranging → s.radio.held = [] → r.othersRun l.k → l.record = none →
      s.recAt l.ans.identity = some (i, q) → r.antenna < s.parts.attach.length →
      Answers (.responseFrame f) s fun t => t.sess.recs = s.sess.recs ++ [s.sessRec r l 2 0] ∧
        t.sess.cur = some (r.setLane { l with outcome := some 2, closeNs := s.now }) ∧
        t.parts.table = tablePut i { s.failRec q with updateSeq := (q.updateSeq + 1) % 0x10000 } s.parts.table ∧
        t.attachCtr r.antenna = s.failCtr (s.attachCtr r.antenna) ∧ (∀ a, a ≠ r.antenna → t.attachCtr a = s.attachCtr a) ∧
        Only [.sess, .parts, .evc, .ledger, .radio, .keys] s t)) ∧
  (∀ (r : Round) (l : Lane) (f : List Byte) (s : State), s.laneRuns r l → l.verified = false →
    (l.openNs + 4000000 < s.now ∨ ∀ p, uhfPayload f = some p → isResponse l.ans.slot p = false) →
    exec (.responseFrame f) s = .next s) ∧
  (∀ (r : Round) (l : Lane) (s : State), s.laneRuns r l → l.verified = false →
    (l.openNs + 4000000 ≤ s.now → s.radio.st ≠ .ranging → s.radio.held = [] → r.othersRun l.k → l.record = none →
      Answers .tagDeadline s fun t => t.sess.recs = s.sess.recs ++ [s.sessRec r l 6 0] ∧
        t.sess.cur = some (r.setLane { l with outcome := some 6, closeNs := s.now }) ∧ Only [.sess, .radio, .keys] s t) ∧
    (s.now < l.openNs + 4000000 → exec .tagDeadline s = .next s)) ∧
  (∀ (mb : Nat) (s : State), Takes s mb 0x0401 → s.lf.waiting = [] → s.sess.cur.isSome = true → s.inRun →
    Answers (.sessPoll mb) s fun t => (t.lf.waiting.map fun b => (b.cls, b.config, b.id, b.mbs)) =
        [(.wake, uAt (s.box mb).payload 0 1, s.lf.nextId, [mb])] ∧
      t.box mb = { s.box mb with waiting := true } ∧ Only [.lf, .mbx] s t) ∧
  (∀ (mb : Nat) (s : State), Takes s mb 0x0402 → Answers (.sessStatus mb) s fun t =>
    Completed s t mb Status.ok s.sessStatus ∧ ((s.box mb).hasWindow = false → t.mem = s.mem) ∧
    Only [.mbx, .evc, .fab, .mem] s t) ∧
  (∀ (mb : Nat) (s : State), Takes s mb 0x0403 → Answers (.sessLast mb) s fun t =>
    (∃ x, s.lastOf (uAt (s.box mb).payload 0 8) = some x ∧ Completed s t mb Status.ok x.bytes) ∧
    Only [.mbx, .evc, .fab] s t)

/-- The exchange of R192 to R196, the checks of R201 and R202, and the outcome of R208. -/
def Obligations.RangingExchangesDecide : Prop :=
  (∀ (r : Round) (l : Lane) (s : State), s.laneRuns r l → l.verified = true → l.pollDue = true →
    l.openNs + attemptNs (l.attempt + 1) ≤ s.now → s.radio.st = .ranging → s.radio.sampQual = true →
    s.radio.accept.isSome = true → Answers .pollFrame s fun t =>
      (∃ m, t.sess.cur = some (r.setLane m) ∧ m.k = l.k ∧ m.attempt = l.attempt + 1 ∧ m.pollDue = false ∧
        m.t1 = dacSample (256 * (l.openNs + attemptNs (l.attempt + 1)) + rmarkerOffset) ∧
        m.haveResp = false ∧ m.haveFinal = false ∧ m.stsCount = l.stsCount + 2 ∧ m.stsV = stsAdvance l.stsV 2 ∧
        m.loop = (if l.attempt = 0 then s.radio.accept else l.loop)) ∧
      t.radio = { s.radio with txAt := none, antSw := s.roundView.cfgN recRadio (18 + s.radio.rangeSet) } ∧
      Only [.sess, .radio] s t) ∧
  (∀ (r : Round) (l : Lane) (s : State), s.laneRuns r l → l.verified = true →
    (l.pollDue = false ∨ s.now < l.openNs + attemptNs (l.attempt + 1) ∨ s.radio.st ≠ .ranging ∨ s.radio.sampQual = false ∨
      s.radio.accept = none) → exec .pollFrame s = .next s) ∧
  (∀ (m : Reception) (r : Round) (l : Lane) (s : State), s.laneRuns r l → l.verified = true → l.pollDue = false →
    l.haveResp = false → 0 < l.attempt → l.openNs + attemptNs l.attempt + 330000 ≤ s.now →
    (((usableChains m).1 = true ∨ (usableChains m).2 = true) → c1Any m = false → c2Any m = false →
      s.now ≤ l.openNs + attemptNs l.attempt + 390000 →
      Answers (.rangingResponse m) s fun t => ∃ x, t.sess.cur = some (r.setLane x) ∧ x.k = l.k ∧ x.haveResp = true ∧
        x.attempt = l.attempt ∧ x.t1 = l.t1 ∧ x.timingB = s.timesB (s.antennaSet r.config) m ∧
        (∀ q, Resp.path (if x.timingB = true then m.stsB else m.stsA) 15 = some q → x.t4 = ((m.tap0 : Int) + q.time).toNat) ∧
        x.c3 = c3Fails (if x.timingB = true then m.stsB else m.stsA) ∧
        t.radio.txAt = some ((finalMarker x.t4 - rmarkerOffset) / 256) ∧
        t.radio.antSw = s.roundView.cfgN recRadio (14 + s.radio.rangeSet) ∧
        t.radio.cirs = [m.syncA, m.syncB, m.stsA, m.stsB] ∧ Only [.sess, .radio, .mem] s t) ∧
    (∀ i q g, ((usableChains m).1 = true ∨ (usableChains m).2 = true) → (c1Any m = true ∨ c2Any m = true) →
      s.now ≤ l.openNs + attemptNs l.attempt + 390000 →
      s.radio.extHeld = false → s.radioFree → s.radio.st = .ranging → r.othersRun l.k → s.sess.test = none →
      s.recAt l.ans.identity = some (i, q) → l.record = some g → Answers (.rangingResponse m) s fun t =>
        t.sess.recs = s.sess.recs ++ [s.sessRec r l 3 0] ∧ t.radio.st = .standby ∧
        t.parts.table = tablePut i { s.failRec q with updateSeq := (q.updateSeq + 1) % 0x10000 } s.parts.table ∧
        t.sess.ranges = s.sess.ranges ++ [{ g with
          checks := checkBit 0 (c1Any m) ||| checkBit 1 (c2Any m) ||| s.observed (s.antennaSet r.config) m
          snrA := Resp.snr m.stsA, snrB := Resp.snr m.stsB }] ∧
        Only [.sess, .parts, .evc, .ledger, .radio, .mem, .keys] s t) ∧
    (((usableChains m).1 = false ∧ (usableChains m).2 = false) ∨ l.openNs + attemptNs l.attempt + 390000 < s.now →
      l.attempt = 1 → Answers (.rangingResponse m) s fun t =>
        t.sess.cur = some (r.setLane { l with pollDue := true, haveResp := false, haveFinal := false }) ∧
        t.radio.txAt = some (l.openNs + 5600000) ∧ t.sess.recs = s.sess.recs ∧ Only [.sess, .radio, .mem] s t)) ∧
  (∀ (t0 : Nat) (r : Round) (l : Lane) (g : RangeRec) (s : State), s.laneRuns r l → l.verified = true → l.haveResp = true →
    l.haveFinal = false → s.radio.st = .ranging → s.radio.sampQual = true → l.record = some g →
    s.radio.txAt = some t0 → t0 ≤ s.now → Answers .finalFrame s fun t =>
      t.sess.cur = some (r.setLane { l with
        haveFinal := true, t5 := finalMarker l.t4, stsCount := l.stsCount + 2, stsV := stsAdvance l.stsV 2
        record := some { g with ra1 := (l.t4 - l.t1) % 2 ^ 32, db2 := (finalMarker l.t4 - l.t4) % 2 ^ 32 } }) ∧
      t.radio.txAt = none ∧ Only [.sess, .radio] s t) ∧
  (∀ (r : Round) (l : Lane) (s : State), s.laneRuns r l → l.verified = true →
    (l.windowOver s.now = false → exec .uwbReceiveWindowExpiry s = .next s) ∧
    (l.windowOver s.now = true → l.attempt = 1 → Answers .uwbReceiveWindowExpiry s fun t =>
      t.sess.cur = some (r.setLane { l with pollDue := true, haveResp := false, haveFinal := false }) ∧
      t.radio.txAt = some (l.openNs + 5600000) ∧ Only [.sess, .radio] s t) ∧
    (l.windowOver s.now = true → l.attempt = 2 → s.radioFree → s.radio.st = .ranging → r.othersRun l.k →
      s.sess.test = none → Answers .uwbReceiveWindowExpiry s fun t =>
        t.sess.recs = s.sess.recs ++ [s.sessRec r l (if s.radio.extHeld = true then 7 else 6) 0] ∧
        t.radio.st = .standby ∧ Only [.sess, .radio, .keys] s t)) ∧
  (∀ (m : Reception) (r : Round) (l : Lane) (p : List Byte) (g0 : RangeRec) (i : Nat) (q : PartRec) (s : State),
    s.laneRuns r l → l.verified = true → l.haveFinal = true → l.pollDue = false →
    l.openNs + attemptNs l.attempt + 1080000 ≤ s.now → s.now ≤ l.openNs + attemptNs l.attempt + 1140000 →
    isReport l.attempt p = true → s.radio.extHeld = false → s.radioFree → s.radio.st = .ranging → r.othersRun l.k →
    s.sess.test = none → s.parts.enrol = none → l.record = some g0 → s.recAt l.ans.identity = some (i, q) →
    q.state = .enrolled → q.role ≠ 0x11 →
    (reportOk l p = false → Answers (.reportFrame m (some p)) s fun t =>
      t.sess.recs = s.sess.recs ++ [s.sessRec r l 2 0] ∧
      t.sess.ranges = s.sess.ranges ++ [{ g0 with checks := g0.checks ||| checkBit 9 true }] ∧
      t.parts.table = tablePut i { s.failRec q with updateSeq := (q.updateSeq + 1) % 0x10000 } s.parts.table ∧
      Only [.sess, .parts, .evc, .ledger, .radio, .mem, .keys] s t) ∧
    (∀ g, reportOk l p = true → g = s.fillRecord r l (reportPlain l p) g0 → clockOk g.ra1 g.db2 g.db1 g.ra2 = true →
      s.reportChecks r l (reportPlain l p) g = none → Answers (.reportFrame m (some p)) s fun t =>
        t.sess.recs = s.sess.recs ++
          [s.sessRec r l (if s.zonesMet g &&& q.zones ≠ 0 then 0 else 1) (s.zonesMet g)] ∧
        t.sess.ranges = s.sess.ranges ++ [g] ∧ t.radio.st = .standby ∧
        t.parts.table = tablePut i { q with
          failCount := 0, missCount := 0, lastSeenNs := s.now, seenEpoch := s.tbu.epoch
          updateSeq := (q.updateSeq + 1) % 0x10000 } s.parts.table) ∧
    (∀ g f, reportOk l p = true → g = s.fillRecord r l (reportPlain l p) g0 → clockOk g.ra1 g.db2 g.db1 g.ra2 = true →
      s.reportChecks r l (reportPlain l p) g = some f → Answers (.reportFrame m (some p)) s fun t => 3 ≤ f.2 ∧ f.2 ≤ 5 ∧
        t.sess.recs = s.sess.recs ++ [s.sessRec r l f.2 0] ∧
        t.parts.table = tablePut i { s.failRec q with updateSeq := (q.updateSeq + 1) % 0x10000 } s.parts.table)) ∧
  (∀ (m : Reception) (r : Round) (l : Lane) (s : State), s.laneRuns r l → l.verified = true → l.haveFinal = true →
    l.pollDue = false → l.openNs + attemptNs l.attempt + 1080000 ≤ s.now → l.attempt = 1 →
    Answers (.reportFrame m none) s fun t =>
      t.sess.cur = some (r.setLane { l with pollDue := true, haveResp := false, haveFinal := false }) ∧
      t.radio.txAt = some (l.openNs + 5600000) ∧ Only [.sess, .radio, .mem] s t) ∧
  (∀ t : Int, 0 ≤ t → 2 * (distanceOf t * 256000000 - t * 299792458).natAbs ≤ 256000000) ∧
  (∀ (mb : Nat) (s : State), Takes s mb 0x0501 → Answers (.rangeStatus mb) s fun t =>
    Completed s t mb Status.ok (leBytes 4 ((s.sess.last.map (·.seq)).getD 0) ++
      leBytes 1 (s.sess.ranges.filter fun x => x.roundSeq == (s.sess.last.map (·.seq)).getD 0).length ++ zeros 3) ∧
    ((s.box mb).hasWindow = false → t.mem = s.mem) ∧ Only [.mbx, .evc, .fab, .mem] s t) ∧
  (∀ (mb : Nat) (s : State), Takes s mb 0x0502 → s.lf.waiting = [] → s.sess.cur.isSome = true → s.inRun →
    Answers (.rangeTest mb) s fun t => t.sess.test = some
        { mb := mb, identity := uAt (s.box mb).payload 0 8, config := uAt (s.box mb).payload 8 1
          left := uAt (s.box mb).payload 10 2, dRef := uAt (s.box mb).payload 12 4 } ∧
      (t.lf.waiting.map fun b => (b.cls, b.config, b.addressed)) =
        [(.wake, uAt (s.box mb).payload 8 1, some (uAt (s.box mb).payload 0 8))] ∧
      t.box mb = { s.box mb with waiting := true } ∧ Only [.sess, .lf, .mbx] s t)

/-- The transitions of R228, their happenings and the rel commands; `served` is the decision role in place and running. -/
def Obligations.DecisionFollowsItsTransitions : Prop :=
  (∀ (b level : Bool) (s : State), (s.psc.state ≠ .drift ∨ s.psc.entry = none) → Answers (.sstlEdge b level) s fun t =>
    t.rel.sstlA = (if b = true then s.rel.sstlA else level) ∧ t.rel.sstlB = (if b = true then level else s.rel.sstlB) ∧
    (t.rel.sstlA = true → t.rel.sstlB = true → t.rel.still = some (s.rel.still.getD s.now)) ∧
    ((t.rel.sstlA = false ∨ t.rel.sstlB = false) → t.rel.still = none) ∧
    (t.rel.sstlA = t.rel.sstlB → t.rel.disagree = none ∧ t.rel.sstlCond = false) ∧
    (t.rel.sstlA ≠ t.rel.sstlB → t.rel.disagree = some (s.rel.disagree.getD s.now))) ∧
  (∀ (b : Bool) (s : State), s.rel.st = .released → s.rel.storage = false → s.served →
    (s.psc.state ≠ .drift ∨ s.psc.entry = none) → s.met.n < 128 → Answers (.sstlEdge b false) s fun t =>
    t.rel.st = .held ∧ t.rel.latch = s.rel.latch ∧ t.rel.since = s.now ∧ Only [.rel, .evc, .ledger, .psc] s t) ∧
  (∀ s : State,
    (∀ t0, s.rel.disagree = some t0 → t0 + 5000000000 < s.now → s.rel.storage = false → s.rel.sstlCond = false →
      Answers .sstlDisagree s fun t => t.rel = { s.rel with sstlCond := true } ∧ Only [.rel, .evc] s t) ∧
    ((s.rel.storage = true ∨ s.rel.sstlCond = true ∨ ∀ t0, s.rel.disagree = some t0 → s.now ≤ t0 + 5000000000) →
      exec .sstlDisagree s = .next s)) ∧
  (∀ (f : Option Bool) (e d : Bool) (s : State), s.psc.state ≠ .nunatakHold → Answers (.readbackWindowEnd f e d) s fun t =>
    (f = some s.rel.latch → d = true → t.rel.fbHigh = false ∧ t.rel.fbLow = false ∧ t.rel.fbWave = false) ∧
    (s.rel.latch = true → f = some false → t.rel.fbLow = true ∧ t.rel.fbHigh = s.rel.fbHigh ∧ t.rel.fbWave = s.rel.fbWave) ∧
    (s.rel.latch = true → f = some true → d = false → t.rel.fbWave = true ∧ t.rel.fbLow = s.rel.fbLow) ∧
    (s.rel.latch = false → (f ≠ some false ∨ d = false) → (f = some true ∨ e = true ∨ s.rel.clearing = true) →
      t.rel.fbHigh = true ∧ t.rel.fbLow = s.rel.fbLow) ∧
    (s.rel.st = .held → (s.rel.clearing = false ∨ s.rel.latch = true) →
      t.rel.st = .held ∧ t.rel.latch = s.rel.latch)) ∧
  (∀ (f : Option Bool) (e d : Bool) (s : State), s.psc.state = .nunatakHold → exec (.readbackWindowEnd f e d) s = .next s) ∧
  (∀ (f : Option Bool) (e d : Bool) (s : State), s.psc.state ≠ .nunatakHold → s.served → s.rel.clearing = true →
    s.rel.latch = false → s.rel.consent = false → Answers (.readbackWindowEnd f e d) s fun t =>
      t.rel.st = .locked ∧ t.rel.causes = 0 ∧ t.rel.latch = false ∧ t.rel.storage = s.cfgB recRelease 1 ∧
      t.rel.modeWait = false) ∧
  (∀ (e : Bool) (p : Presence) (s : State), s.psc.state ≠ .nunatakHold → s.served → s.rel.st = .armed →
    s.rel.latch = false → s.rel.clearing = false → s.rel.causes = 0 → s.cfgB recRelease 1 = s.rel.storage →
    s.rel.consent = true → s.tamperClear = true → s.creditReady = true → s.decisionPlaced = true → s.popReady = true →
    s.qualifying = some p → s.moving = false → Answers (.readbackWindowEnd (some false) e true) s fun t =>
      t.rel.st = .released ∧ t.rel.latch = true ∧ t.rel.grantId = p.identity ∧ t.rel.grantNs = s.now ∧
      t.rel.grantEpoch = s.tbu.epoch ∧ p ∉ t.rel.presence) ∧
  (∀ (v : Bool) (s : State), Answers (.latchComplementTimeout v) s fun t =>
    t.rel = { s.rel with latchCmd := some (v, s.now) } ∧ t.health.next = s.health.next + 1 ∧ t.health.lastCode = 0x0050 ∧
    Only [.rel, .health, .evc, .ledger, .free] s t) ∧
  (∀ s : State,
    (s.rel.st = .released → s.cfgN recRelease 4 ≠ 0 → s.rel.since + s.cfgN recRelease 4 * 1000000000 ≤ s.now →
      Answers .idleExpiry s fun t => t.rel = { s.rel with causes := s.rel.causes ||| 8 } ∧ Only [.rel] s t) ∧
    ((s.rel.st ≠ .released ∨ s.cfgN recRelease 4 = 0 ∨ s.now < s.rel.since + s.cfgN recRelease 4 * 1000000000) →
      exec .idleExpiry s = .next s)) ∧
  (∀ s : State,
    (s.rel.st = .revoking → s.rel.clearing = false → s.rolePlaced .decision = true → s.noticeOver = true →
      s.rule226 = true → Answers .revokeNoticeElapsed s fun t =>
        t.rel = { s.rel with latch := false, clearing := true, fbAgree := false, latchCmd := some (false, s.now) } ∧
        Only [.rel] s t) ∧
    ((s.rel.st ≠ .revoking ∨ s.rel.clearing = true ∨ s.noticeOver = false ∨ s.rule226 = false) →
      exec .revokeNoticeElapsed s = .next s)) ∧
  (∀ (ppm : Int) (s : State),
    (s.power.line = true → s.rel.latch = true → s.rel.oscNs + 10000000000 ≤ s.now →
      Answers (.permissionOscillatorTrim ppm) s fun t =>
        t.rel = { s.rel with oscTrim := s.rel.oscTrim + 1, oscPpm := ppm, oscNs := s.now } ∧ Only [.rel] s t) ∧
    ((s.power.line = false ∨ s.rel.latch = false ∨ s.now < s.rel.oscNs + 10000000000) →
      exec (.permissionOscillatorTrim ppm) s = .next s)) ∧
  (∀ s : State,
    (s.rel.st.permits = true → s.rolesRun = true → s.cfgB recRelease 6 = true → s.cfgB recMetering 14 = true →
      s.creditMet = false → s.tamper.latch = false → Answers .graceExpiry s fun t =>
        t.rel = { s.rel with causes := s.rel.causes ||| 2 } ∧ Only [.rel] s t) ∧
    (s.rel.st.permits = false → exec .graceExpiry s = .next s)) ∧
  (∀ s : State, (s.pop.running = none ∨ s.phaseBusy = true) → exec .populationPhaseEnd s = .next s.evalDecision) ∧
  (∀ (k : PopCheck) (n : Nat) (s : State), s.pop.running = some k → s.phaseBusy = false → 3 ≤ k.phase → k.owes = false →
    s.pop.wanted = false → s.parts.enrol = none → s.lf.waiting = [] → s.rel.presence = [] → k.mbs = [n] →
    (s.box n).st = .issued → (s.box n).waiting = true → (s.box n).committed = true → Answers .populationPhaseEnd s fun t =>
      t.pop = { s.pop with running := none, latest := some (s.popRecord k) } ∧
      Completed s t n (if 1 < k.runs then Status.derated else Status.ok) (s.popRecord k).bytes ∧
      Only [.pop, .lf, .parts, .mbx, .evc, .fab, .ledger, .rel] s t) ∧
  (∀ (mb : Nat) (s : State), Takes s mb 0x0801 → s.served → s.rel.presence = [] →
    (s.rel.st = .locked → uAt (s.box mb).payload 0 1 = 1 → (s.cmdView mb).tamperClear = true → s.decisionPlaced = true →
      s.tamper.latch = false → Answers (.relConsent mb) s fun t => t.rel.st = .armed ∧ t.rel.consent = true ∧
        t.rel.latch = s.rel.latch ∧ Completed s t mb Status.ok [1, 1, 0, 0] ∧ Only [.rel, .mbx, .evc, .fab, .ledger] s t) ∧
    (s.rel.st = .armed → uAt (s.box mb).payload 0 1 = 0 → Answers (.relConsent mb) s fun t => t.rel.st = .locked ∧
      t.rel.consent = false ∧ Completed s t mb Status.ok [0, 0, 0, 0] ∧ Only [.rel, .mbx, .evc, .fab, .ledger] s t) ∧
    (s.rel.st = .held → Answers (.relConsent mb) s fun t => t.rel.st = .held ∧
      t.rel.latch = s.rel.latch ∧ t.rel.consent = (uAt (s.box mb).payload 0 1 == 1) ∧
      Completed s t mb Status.ok [3, BitVec.ofNat 8 (uAt (s.box mb).payload 0 1), 0, 0] ∧
      Only [.rel, .mbx, .evc, .fab] s t)) ∧
  (∀ (mb : Nat) (s : State), Takes s mb 0x0802 → Answers (.relRevoke mb) s fun t => s.rel.st.permits = true ∧
    t.rel = { s.rel with causes := s.rel.causes ||| 1 } ∧
    Completed s t mb Status.ok (leBytes 1 (decisionCode s.rel.st) ++ leBytes 1 (s.rel.causes ||| 1).toNat ++ zeros 2) ∧
    Only [.rel, .mbx, .evc, .fab] s t) ∧
  (∀ (mb : Nat) (s : State), Takes s mb 0x0803 → s.rel.st = .revoking → s.served → s.moving = false → s.rel.causes = 1 → (s.cmdView mb).creditMet = true → s.tamper.latch = false →
    Answers (.relCancel mb) s fun t => t.rel.st = .released ∧ t.rel.causes = 0 ∧ t.rel.latch = s.rel.latch ∧
      Completed s t mb Status.ok [2, 0, 0, 0] ∧ Only [.rel, .mbx, .evc, .fab, .ledger] s t) ∧
  (∀ (mb : Nat) (s : State), Takes s mb 0x0804 → Answers (.relStatus mb) s fun t =>
    Completed s t mb Status.ok (s.cmdView mb).relStatus ∧ Only [.mbx, .evc, .fab] s t)

/-- The latch and every step of the block (R229). -/
def Obligations.OnlyARevocationClearsTheLatch : Prop :=
  ∀ s t : State, step s = .next t → s.rel.latch = true → t.rel.latch = false →
    ∃ c rest, s.pending = c :: rest ∧ (c = .powerOnReset ∨
      (c = .linePowerReturn ∧ s.psc.vresOut = true) ∨ (c = .revokeNoticeElapsed ∧ s.rel.st = .revoking ∧ s.noticeOver = true ∧ s.rule226 = true))

/-- Descriptors (R249 to R253), completion (R251), alarms (R258 to R261), the mark (R288) and the crypt commands (R453). -/
def Obligations.CipherChannelsRunDescriptors : Prop :=
  (∀ (mb c : Nat) (s : State), Takes s mb 0x0901 → c = uAt (s.box mb).payload 0 1 → s.crypt.chans.length = 32 →
    Answers (.cryptChan mb) s fun t => 16 ≤ c ∧
      t.chan c = { s.chan c with streaming := uAt (s.box mb).payload 1 1 == 1 } ∧ (∀ d, d ≠ c → t.chan d = s.chan d) ∧
      Completed s t mb Status.ok (leBytes 1 ((s.cmdView mb).reservation c) ++ zeros 3) ∧ Only [.crypt, .mbx, .evc, .fab] s t) ∧
  (∀ (mb c : Nat) (q : QDesc) (s : State), Takes s mb 0x0902 → c = submitChannel mb (s.box mb) →
    q = { desc := Desc.ofBytes (s.box mb).payload, host := true, base := (s.win (s.box mb).window).phys 0,
          post := if uAt (s.box mb).payload 64 1 = 1 then some mb else none, limit := (s.box mb).limit } →
    s.crypt.chans.length = 32 →
    (uAt (s.box mb).payload 64 1 = 0 → Answers (.cryptSubmit mb) s fun t =>
      t.chan c = { s.chan c with queue := (s.chan c).queue ++ [q] } ∧ (∀ d, d ≠ c → t.chan d = s.chan d) ∧
      Completed s t mb Status.ok [] ∧ Only [.crypt, .mbx, .evc, .fab] s t) ∧
    (uAt (s.box mb).payload 64 1 = 1 → Answers (.cryptSubmit mb) s fun t =>
      t.chan c = { s.chan c with queue := (s.chan c).queue ++ [q] } ∧ (∀ d, d ≠ c → t.chan d = s.chan d) ∧
      t.box mb = { s.box mb with waiting := true, committed := true } ∧ Only [.crypt, .mbx] s t)) ∧
  (∀ (mb n : Nat) (s : State), Takes s mb 0x0903 → n = uAt (s.box mb).payload 0 1 → Answers (.cryptDone mb) s fun t =>
    t.crypt = { s.crypt with hostDone := s.crypt.hostDone.drop n } ∧
    Completed s t mb Status.ok (leBytes 1 (s.crypt.hostDone.take n).length ++ zeros 3 ++
      leBytes 4 (s.crypt.hostDone.drop n).length ++ (s.crypt.hostDone.take n).flatMap CompRec.bytes) ∧
    Only [.crypt, .mbx, .evc, .fab] s t) ∧
  (∀ (c : Nat) (d : Desc) (s : State), s.crypt.chans.length = 32 →
    (8 ≤ c → c < 16 → s.descRefused c d false = none → (s.chan c).queue.length < 16 → Answers (.descriptorQueued c d) s fun t =>
      t.chan c = { s.chan c with queue := (s.chan c).queue ++ [{ desc := d }], refused := none } ∧
      (∀ e, e ≠ c → t.chan e = s.chan e) ∧ Only [.crypt] s t) ∧
    (8 ≤ c → c < 16 → s.descRefused c d false = none → 16 ≤ (s.chan c).queue.length → Answers (.descriptorQueued c d) s fun t =>
      t.chan c = { s.chan c with refused := some Status.busy } ∧ (∀ e, e ≠ c → t.chan e = s.chan e) ∧ Only [.crypt] s t) ∧
    (∀ st, 8 ≤ c → c < 16 → s.descRefused c d false = some st → (s.chan c).streaming = false →
      Answers (.descriptorQueued c d) s fun t => t.chan c = { s.chan c with refused := some st } ∧
        (∀ e, e ≠ c → t.chan e = s.chan e) ∧ Only [.crypt] s t) ∧
    ((c < 8 ∨ 16 ≤ c) → exec (.descriptorQueued c d) s = .next s)) ∧
  (∀ (c : Nat) (q : QDesc) (s : State), 8 ≤ c → c < 32 → s.crypt.chans.length = 32 → s.crypt.sealed = false →
    s.pdOn 5 = true → (s.chan c).cur = none → (s.chan c).susp = none → (s.chan c).queue = [q] → q.desc.begins = true →
    s.noRoom q.host q.post = false → (q.host = true → s.now ≤ q.limit) → s.destHeld none q = false →
    (∀ p, p ∈ s.fab.heldPages → p.2 ≠ c) →
    (2 ≤ s.roomFor c → s.keyRefused q.desc = none → q.host = true → q.desc.authDec = false → q.desc.makesNonce = false →
      Answers (.requestAdmission c) s fun t => (t.chan c).cur = some (s.newMsg c q) ∧ (t.chan c).queue = [] ∧
        (t.chan c).buffers = min (s.roomFor c) (min 8 (max 2 (ceilDiv q.desc.dataLen 256))) ∧
        (∀ d, d ≠ c → t.chan d = s.chan d) ∧
        (q.desc.context ≠ 0xFFFF → ∀ x, s.ctx? q.desc.context = some x →
          t.ctx? q.desc.context = some { x with invocation := x.invocation + 1 }) ∧ Only [.crypt] s t) ∧
    (∀ k, 2 ≤ s.roomFor c → s.keyRefused q.desc = none → q.host = true → q.desc.authDec = false →
      q.desc.makesNonce = true → k = (s.effective q.desc).slot → k < 16 → s.keys.slots.length = 16 →
      (s.slot k).counter < (s.slot k).mark → (s.slot k).counter < 2 ^ (8 * min q.desc.nonceLen 8) →
      Answers (.requestAdmission c) s fun t => (t.chan c).cur = some (s.newMsg c q) ∧
        t.slot k = { s.slot k with
          counter := (s.slot k).counter + 1
          advancing := (s.slot k).advancing || decide ((s.slot k).mark ≤ (s.slot k).counter + 16384) } ∧
        (∀ j, j ≠ k → t.slot j = s.slot j) ∧ Only [.crypt, .keys] s t) ∧
    (s.roomFor c < 2 → s.reservation c < 2 → q.host = true → q.post = none → q.desc.notify = false →
      Answers (.requestAdmission c) s fun t => (t.chan c).queue = [] ∧ (t.chan c).cur = none ∧
        t.crypt.hostDone = s.crypt.hostDone ++ [{ status := Status.poolEmpty, channel := c, seq := q.desc.seq }] ∧
        t.crypt.contexts = s.crypt.contexts ∧ Only [.crypt] s t)) ∧
  (∀ (c : Nat) (s : State), (c < 8 ∨ 32 ≤ c ∨ s.crypt.sealed = true ∨ s.pdOn 5 = false ∨
      ((s.chan c).streaming = false ∧ (s.chan c).cur.isSome = true)) → exec (.requestAdmission c) s = .next s) ∧
  (∀ (c n : Nat) (m : Msg) (data : List Byte) (s : State), c < 32 → s.crypt.chans.length = 32 → (s.chan c).cur = some m →
    (s.chan c).susp = none → m.stalled = false → m.ended = none → m.segDone = false → m.host = true → m.post = some n →
    m.desc.op = 4 → m.desc.mode = 5 → m.desc.seg = 3 → m.desc.context = 0xFFFF → m.desc.notify = false →
    m.desc.nonceLen = 0 → m.mid = none → m.kept = none →
    s.crypt.sealed = false → s.pdOn 5 = true → s.now ≤ m.limit → s.msgBlocked c m = false → (s.box n).st = .issued →
    data = s.msgRead c m m.desc.src m.desc.dataLen →
    chainTag 5 (s.msgKey m) m.nonce
        (chainStep 5 false (s.msgKey m) m.desc.nonceLen (chainStart 5 (s.msgKey m) m.nonce
          (s.msgRead c m m.desc.aad m.desc.aadLen) m.desc.dataLen m.desc.tagLen) data []) m.desc.tagLen =
      s.msgRead c m m.desc.tag m.desc.tagLen →
    Answers (.completionRecord c) s fun t => (t.chan c).cur = none ∧ t.mem = s.mem ∧
      Completed s t n Status.ok (m.record c Status.ok m.desc.dataLen).bytes ∧ Only [.crypt, .keys, .mbx, .evc, .fab] s t) ∧
  (∀ (c : Nat) (s : State), (s.chan c).cur = none → exec (.completionRecord c) s = .next s) ∧
  (∀ (k : Nat) (s : State), k < 16 → s.keys.slots.length = 16 →
    ((s.slot k).advancing = true → Answers (.nonceMarkAdvanceDone k) s fun t =>
      t.slot k = { s.slot k with mark := (s.slot k).mark + 65536, advancing := false } ∧ (∀ j, j ≠ k → t.slot j = s.slot j) ∧
      Only [.keys] s t) ∧
    ((s.slot k).advancing = false → exec (.nonceMarkAdvanceDone k) s = .next s)) ∧
  (∀ (it : Option Nat) (s : State), s.psc.state ≠ .nunatakHold → s.pdOn 5 = true → s.crypt.chans.length = 32 →
    (Answers (.datapathMismatch none false) s fun t => t.crypt = s.crypt ∧ Only [.health, .free] s t) ∧
    (∀ c, c < 32 → Answers (.datapathMismatch (some c) false) s fun t => (∀ d, d ≠ c → t.chan d = s.chan d) ∧
      t.chan c = { s.chan c with cur := (s.chan c).cur.map fun m => { m with recomputed := true } } ∧
      Only [.crypt, .health, .free] s t) ∧
    (s.crypt.selfTest = false → Answers (.datapathMismatch it true) s fun t => t.crypt.sealed = true ∧
      t.crypt.selfTest = true ∧ t.crypt.wakeKey = [] ∧ t.crypt.wrapKey = [] ∧ t.crypt.cmpw.key = [] ∧
      (∀ c m, (t.chan c).cur = some m → m.key = []) ∧ (∀ c, (t.chan c).sched = none) ∧ t.keys.slots = s.keys.slots ∧
      t.rel.latch = s.rel.latch ∧ t.crypt.contexts = s.crypt.contexts)) ∧
  (∀ (it : Option Nat) (again : Bool) (s : State), (s.psc.state = .nunatakHold ∨ (it ≠ none ∧ s.pdOn 5 = false)) →
    exec (.datapathMismatch it again) s = .next s) ∧
  (∀ s : State, s.crypt.selfTest = true → s.pdOn 5 = true →
    (s.crypt.selfTestAlarm = false → s.crypt.zeroiseNext = false → s.psc.pdSelfTest = false → s.net.sealedFrames = [] →
      s.crypt.macHeld = [] →
      Answers (.engineSelfTestEnd true) s fun t =>
        t.crypt = { s.crypt with sealed := false, selfTest := false, selfTestAlarm := false
                                 wrapKey := s.freeBytes 32, wrapId := s.freeVal / 2 ^ 256 % 2 ^ 32 } ∧
        t.keys = s.keys ∧ Only [.crypt, .evc, .free] s t) ∧
    (Answers (.engineSelfTestEnd false) s fun t => t = s.recoveryReset 3)) ∧
  (∀ (b : Bool) (s : State), (s.crypt.selfTest = false ∨ s.pdOn 5 = false) → exec (.engineSelfTestEnd b) s = .next s)

/-- The commands of R299. -/
def Obligations.KeysAndContextsAreKept : Prop :=
  (∀ (mb k cls : Nat) (s : State), Takes s mb 0x0A01 → k = uAt (s.box mb).payload 0 1 → cls = uAt (s.box mb).payload 1 1 →
    s.keys.slots.length = 16 → 1 ≤ k ∧ (k = 1 ↔ cls = 3) ∧
    (∀ key, Aes.kwUnwrap (s.transportKey k cls ((s.slot k).version + 1)) (slice (s.box mb).payload 4 40) = some key →
      Answers (.keyWrite mb) s fun t => (t.slot k).loaded = true ∧ (t.slot k).cls = cls ∧ (t.slot k).key = key ∧
        (t.slot k).version = (s.slot k).version + 1 ∧ (t.slot k).kcv = kcvOf key ∧ (t.slot k).mark = (s.slot k).mark ∧
        (t.slot k).counter = (s.slot k).counter ∧
        ((t.slot k).shadow = none ∨ (s.slot k).loaded = true ∧ (t.slot k).shadow = some ((s.slot k).key, (s.slot k).version)) ∧
        (∀ j, j ≠ k → t.slot j = s.slot j) ∧
        Completed s t mb Status.ok (leBytes 4 ((s.slot k).version + 1) ++ fit 3 (kcvOf key) ++ [0]) ∧
        Only [.keys, .ledger, .mbx, .evc, .fab] s t) ∧
    (Aes.kwUnwrap (s.transportKey k cls ((s.slot k).version + 1)) (slice (s.box mb).payload 4 40) = none →
      Answers (.keyWrite mb) s fun t => RefusedWith s t mb Status.tagFail ∧ Only [.mbx, .evc, .fab] s t)) ∧
  (∀ (mb k : Nat) (s : State), Takes s mb 0x0A02 → k = uAt (s.box mb).payload 0 1 → s.keys.slots.length = 16 →
    1 ≤ k ∧ Answers (.keyErase mb) s fun t =>
      t.slot k = { s.slot k with loaded := false, key := zeros 32, shadow := none } ∧ (t.box mb).st = .posted ∧
      (∀ j, j ≠ k → t.slot j = { s.slot j with shadow := (t.slot j).shadow }) ∧
      (∀ c z, (t.chan c).sched = some z → z.1 ≠ k)) ∧
  (∀ (mb : Nat) (s : State), Takes s mb 0x0A03 → Answers (.keyInfo mb) s fun t =>
    Completed s t mb Status.ok (s.keyInfo (uAt (s.box mb).payload 0 1)) ∧ Only [.mbx, .evc, .fab] s t) ∧
  (∀ (mb : Nat) (s : State), Takes s mb 0x0A04 → (s.slot 0).loaded = false ∧ Answers (.keyReprovBegin mb) s fun t =>
    t.keys = { s.keys with reprov := some (s.freeBytes 32, leBytes 16 (s.freeVal / 2 ^ 256)) } ∧
    Completed s t mb Status.ok (leBytes 8 Config.deviceIdentity ++ leBytes 4 (s.slot 0).version ++ zeros 4 ++
      fit 64 (Config.p256Public (s.freeBytes 32)) ++ leBytes 16 (s.freeVal / 2 ^ 256)) ∧
    Only [.keys, .ledger, .mbx, .evc, .fab, .free] s t) ∧
  (∀ (mb : Nat) (s : State), Takes s mb 0x0A05 → s.keys.slots.length = 16 → (s.slot 0).loaded = false ∧
    Answers (.keyReprovFinish mb) s fun t => t.keys.reprov = none ∧ Only [.keys, .ledger, .mbx, .evc, .fab] s t ∧
      (s.reprovKey (s.box mb).payload = none → t.keys = { s.keys with reprov := none } ∧
        RefusedWith s t mb Status.tagFail) ∧
      (∀ key, s.reprovKey (s.box mb).payload = some key → t.keys.reprovOpen = true ∧ (t.slot 0).loaded = true ∧
        (t.slot 0).cls = 1 ∧ (t.slot 0).key = key ∧ (t.slot 0).version = (s.slot 0).version + 1 ∧
        (∀ j, j ≠ 0 → t.slot j = s.slot j) ∧
        Completed s t mb Status.ok (leBytes 4 ((s.slot 0).version + 1) ++ fit 3 (kcvOf key) ++ [0]))) ∧
  (∀ (mb : Nat) (s : State), Takes s mb 0x0904 → ∃ n, s.freeCtx = some n ∧ 0x40 ≤ n ∧ n ≤ 0xFF ∧
    Answers (.cryptCtxOpen mb) s fun t =>
      t.crypt = { s.crypt with contexts := s.crypt.contexts ++ [s.openedCtx n (s.box mb).payload] } ∧
      (s.openedCtx n (s.box mb).payload).invocation = 0 ∧ (s.openedCtx n (s.box mb).payload).num = n ∧
      Completed s t mb Status.ok (leBytes 2 n ++ zeros 2 ++ leBytes 4 (s.slot (uAt (s.box mb).payload 4 1)).version) ∧
      Only [.crypt, .mbx, .evc, .fab] s t) ∧
  (∀ (mb n : Nat) (s : State), Takes s mb 0x0905 → n = uAt (s.box mb).payload 0 2 → Answers (.cryptCtxClose mb) s fun t =>
    t.crypt.contexts = s.crypt.contexts.filter (fun c => c.num != n) ∧ t.ctx? n = none ∧
    Completed s t mb Status.ok [] ∧ Only [.crypt, .keys, .mbx, .evc, .fab] s t) ∧
  (∀ (mb n : Nat) (s : State), Takes s mb 0x0906 → n = uAt (s.box mb).payload 0 2 → ∃ c, s.hostCtx? n = some c ∧
    Answers (.cryptCtxSave mb) s fun t =>
      Completed s t mb Status.ok (leBytes 4 (s.savedCtx c (uAt (s.box mb).payload 2 1)).length) ∧
      ((s.box mb).hasWindow = false → t.mem = s.mem) ∧ Only [.mbx, .evc, .fab, .mem] s t) ∧
  (∀ (mb : Nat) (s : State), Takes s mb 0x0907 →
    (s.restoreBytes (s.box mb) = none → Answers (.cryptCtxRestore mb) s fun t =>
      RefusedWith s t mb Status.windowFault ∧ Only [.mbx, .evc, .fab] s t) ∧
    (∀ bs, s.restoreBytes (s.box mb) = some bs →
      (∀ st, s.restored bs = .error st → completes st = false ∧ Answers (.cryptCtxRestore mb) s fun t =>
        RefusedWith s t mb st ∧ Only [.mbx, .evc, .fab] s t) ∧
      (∀ c, s.restored bs = .ok c → (s.slot c.slot).loaded = true ∧ (s.slot c.slot).version = c.version ∧
        Answers (.cryptCtxRestore mb) s fun t => t.crypt = { s.crypt with contexts := s.crypt.contexts ++ [c] } ∧
          Completed s t mb Status.ok (leBytes 2 c.num ++ zeros 2) ∧ Only [.crypt, .mbx, .evc, .fab] s t)))

/-- The CMPW window (R266 to R273) and MACsec frames (R247, R257, R263). -/
def Obligations.CompatibilityWindowAndMacsec : Prop :=
  (∀ (r : Requester) (w : Word) (s : State), s.cmpwOn = false → exec (.cmpwStart r w) s = .next s ∧
    exec (.cmpwAbort r w) s = .next s ∧ exec (.cmpwLoad r w) s = .next s ∧ exec (.cmpwRelease r w) s = .next s) ∧
  (∀ (r : Requester) (w : Word) (s : State), s.cmpwOn = true → s.crypt.cmpw.owner ≠ 0 →
    s.crypt.cmpw.owner ≠ ownerCode r → ∀ c, c = Instr.cmpwStart r w ∨ c = Instr.cmpwAbort r w ∨ c = Instr.cmpwRelease r w →
      Answers c s fun t => t.crypt = { s.crypt with cmpw := { s.crypt.cmpw with err := 5 } } ∧ Only [.crypt] s t) ∧
  (∀ (r : Requester) (w : Word) (s : State), s.cmpwOn = true → mayOwn r = false →
    ∀ c, c = Instr.cmpwStart r w ∨ c = Instr.cmpwAbort r w ∨ c = Instr.cmpwLoad r w →
      Answers c s fun t => t.crypt = { s.crypt with cmpw := { s.crypt.cmpw with err := 5 } } ∧ Only [.crypt] s t) ∧
  (∀ (r : Requester) (w v : Word) (s : State), s.cmpwOn = true → mayOwn r = true → s.crypt.cmpw.owner = ownerCode r →
    v = (w ||| 1) &&& ~~~2 →
    (∀ e, s.crypt.cmpw.startErr v = some e → Answers (.cmpwStart r w) s fun t => t.crypt = { s.crypt with
      cmpw := { s.crypt.cmpw with ctrl := v &&& cmpwCtrlMask, err := e, ownerNs := s.now } } ∧ 1 ≤ e ∧ e ≤ 4 ∧
      (s.crypt.cmpw.keyReady = false → e = 1) ∧ (s.crypt.cmpw.keyReady = true → s.crypt.cmpw.busy = true → e = 2) ∧
      Only [.crypt] s t) ∧
    (s.crypt.cmpw.startErr v = none → Answers (.cmpwStart r w) s fun t => t.crypt.cmpw.busy = true ∧
      t.crypt.cmpw.done = false ∧ t.crypt.cmpw.err = 0 ∧ t.crypt.cmpw.run = v ∧ t.crypt.cmpw.yielded = s.crypt.verifying ∧
      t.crypt.cmpw.ctrl = (v &&& cmpwCtrlMask) &&& ~~~0x300 ∧ t.crypt.cmpw.key = s.crypt.cmpw.key ∧
      t.crypt.cmpw.chain = (if v.getLsbD 8 = false then s.crypt.cmpw.chain
        else if fld v 4 2 = 2 then zeros 16 else blockOf s.crypt.cmpw.iv) ∧ Only [.crypt] s t) ∧
    (s.crypt.cmpw.loading = false → Answers (.cmpwAbort r w) s fun t => t.crypt.cmpw.busy = false ∧
      t.crypt.cmpw.dout = [0, 0, 0, 0] ∧ t.crypt.cmpw.needFirst = true ∧ t.crypt.cmpw.done = s.crypt.cmpw.done ∧
      t.crypt.cmpw.key = s.crypt.cmpw.key ∧ Only [.crypt] s t) ∧
    (Answers (.cmpwRelease r w) s fun t => t.crypt.cmpw.owner = 0 ∧ t.crypt.cmpw.key = [] ∧
      t.crypt.cmpw.keyReady = false ∧ t.crypt.cmpw.busy = false ∧ t.crypt.cmpw.done = s.crypt.cmpw.done ∧
      Only [.crypt] s t)) ∧
  (∀ (r : Requester) (w : Word) (k : Nat) (s : State), s.cmpwOn = true → mayOwn r = true → k = fld w 0 4 →
    s.crypt.cmpw.owner = 0 →
    (s.crypt.cmpw.busy = false → s.loadErr k = none → Answers (.cmpwLoad r w) s fun t =>
      t.crypt.cmpw.owner = ownerCode r ∧ t.crypt.cmpw.busy = true ∧ t.crypt.cmpw.loading = true ∧
      t.crypt.cmpw.keyReady = false ∧ t.crypt.cmpw.err = 0 ∧ t.crypt.cmpw.keySlot = k ∧ t.crypt.cmpw.needFirst = true ∧
      Only [.crypt] s t) ∧
    (∀ e, s.crypt.cmpw.busy = false → s.loadErr k = some e → Answers (.cmpwLoad r w) s fun t =>
      t.crypt = { s.crypt with cmpw := { s.crypt.cmpw with slot := k, err := e } } ∧ (e = 6 ∨ e = 7) ∧
      Only [.crypt] s t)) ∧
  (∀ s : State, s.crypt.cmpw.busy = true → s.crypt.cmpw.loading = false → s.crypt.cmpw.yielded = false →
    s.crypt.cmpw.keyReady = true → Answers .cmpwBlockDone s fun t => t.crypt.cmpw.busy = false ∧ t.crypt.cmpw.done = true ∧
      (s.crypt.cmpw.ctrl.getLsbD 31 = false → t.evc = s.evc) ∧
      (fld s.crypt.cmpw.run 4 2 = 0 → s.crypt.cmpw.run.getLsbD 2 = false →
        t.crypt.cmpw.dout = regsOf (Aes.encBlock s.crypt.cmpw.key (xorBytes (blockOf s.crypt.cmpw.din) s.crypt.cmpw.chain)) ∧
        t.crypt.cmpw.iv = t.crypt.cmpw.dout) ∧
      (fld s.crypt.cmpw.run 4 2 = 1 → t.crypt.cmpw.dout =
          regsOf (xorBytes (blockOf s.crypt.cmpw.din) (Aes.encBlock s.crypt.cmpw.key s.crypt.cmpw.chain)) ∧
        t.crypt.cmpw.iv = regsOf (counterAdd 4 1 s.crypt.cmpw.chain)) ∧
      (fld s.crypt.cmpw.run 4 2 = 2 → s.crypt.cmpw.run.getLsbD 9 = false → t.crypt.cmpw.dout = regsOf (zeros 16) ∧
        t.crypt.cmpw.iv = s.crypt.cmpw.iv) ∧ Only [.crypt, .evc] s t) ∧
  (∀ s : State, (s.crypt.cmpw.busy = false ∨ s.crypt.cmpw.loading = true ∨ s.crypt.cmpw.yielded = true) →
    exec .cmpwBlockDone s = .next s) ∧
  (∀ s : State, s.crypt.cmpw.loading = true → (s.slot s.crypt.cmpw.keySlot).loaded = true → s.crypt.sealed = false →
    Answers .cmpwLoadDone s fun t => t.crypt = { s.crypt with
      cmpw := { s.crypt.cmpw with key := s.cmpwKey, keyReady := true, busy := false, loading := false } } ∧ Only [.crypt] s t) ∧
  (∀ s : State, (s.crypt.cmpw.loading = false ∨ s.crypt.sealed = true) → exec .cmpwLoadDone s = .next s) ∧
  (∀ s : State, Answers .cmpwYieldEnd s fun t => t.crypt = { s.crypt with
    verifying := false, cmpw := { s.crypt.cmpw with yielded := false } } ∧ Only [.crypt] s t) ∧
  (∀ (port c : Nat) (header data aad nonce : List Byte) (s : State), port < 2 → s.portOn port = true →
    c = txChannel port (s.portAn port) → (s.sa c).installed = true → s.crypt.sas.length = 8 → s.net.stats.length = 6 →
    aad = header ++ secTag (sciOf port) (s.portAn port) (s.sa c).next data.length →
    nonce = (s.sa c).nonce (sciOf port) (s.sa c).next →
    (s.crypt.selfTest = false → (s.sa c).limit ≤ (s.sa c).next → exec (.macsecTxFrame port header data) s = .next s) ∧
    (s.crypt.selfTest = false → (s.sa c).next < (s.sa c).limit → (s.sa c).next + 1 < (s.sa c).renew →
      Answers (.macsecTxFrame port header data) s fun t =>
      t.sa c = { s.sa c with next := (s.sa c).next + 1 } ∧ (∀ d, d ≠ c → t.sa d = s.sa d) ∧
      t.net.txFrames = (aad ++ Aes.gcmCrypt (s.sa c).key nonce data ++
        Aes.gcmTag (s.sa c).key nonce aad (Aes.gcmCrypt (s.sa c).key nonce data)) :: s.net.txFrames ∧
      ((s.sa c).next + 1 ≠ (s.sa c).limit → t.evc = s.evc) ∧ Only [.crypt, .net, .evc] s t) ∧
    (s.crypt.selfTest = true → s.macBuffers c + ceilDiv (header.length + data.length) 256 ≤ 24 →
      Answers (.macsecTxFrame port header data) s fun t =>
        t.crypt = { s.crypt with macHeld := s.crypt.macHeld ++ [(c, header, data)] } ∧ Only [.crypt] s t) ∧
    (s.crypt.selfTest = true → 24 < s.macBuffers c + ceilDiv (header.length + data.length) 256 →
      Answers (.macsecTxFrame port header data) s fun t =>
        (t.net.stats.getD port {}).noBuf = satAdd 0xFFFFFFFF (s.net.stats.getD port {}).noBuf 1 ∧ Only [.net] s t)) ∧
  (∀ (port c pn : Nat) (frame nonce aad ct : List Byte) (f : SecFrame) (s : State), port < 2 → s.portOn port = true →
    s.crypt.sas.length = 8 → s.net.stats.length = 6 → s.crypt.selfTest = false →
    (parseSec frame = none → Answers (.macsecRxFrame port frame) s fun t => t.crypt = s.crypt ∧ Only [.net] s t ∧
      (t.net.stats.getD port {}).discarded = satAdd 0xFFFFFFFF (s.net.stats.getD port {}).discarded 1) ∧
    (parseSec frame = some f → c = rxChannel port f.an → pn = (s.sa c).fullPn f.pn → nonce = (s.sa c).nonce f.sci pn →
      aad = (if f.encrypted = true then f.aad else f.aad ++ f.body) → ct = (if f.encrypted = true then f.body else []) →
      (((s.sa c).installed = false ∨ ((s.peersOf port).any fun p => p.1 == f.sci) = false ∨
          pn + s.cfgN recNetwork (fieldNo (4 + port) 4) < (s.sa c).next) →
        Answers (.macsecRxFrame port frame) s fun t => t.crypt = s.crypt ∧ Only [.net] s t ∧
          (t.net.stats.getD port {}).discarded = satAdd 0xFFFFFFFF (s.net.stats.getD port {}).discarded 1) ∧
      ((s.sa c).installed = true → ((s.peersOf port).any fun p => p.1 == f.sci) = true →
        (s.sa c).next ≤ pn + s.cfgN recNetwork (fieldNo (4 + port) 4) → Answers (.macsecRxFrame port frame) s fun t =>
        Only [.crypt, .net] s t ∧
        (Aes.gcmTag (s.sa c).key nonce aad ct = f.icv → t.sa c = { s.sa c with next := max (s.sa c).next (pn + 1) } ∧
          (∀ d, d ≠ c → t.sa d = s.sa d) ∧ t.net.macFrames = (port, f.header ++
            (if f.encrypted = true then Aes.gcmCrypt (s.sa c).key nonce f.body else f.body)) :: s.net.macFrames) ∧
        (Aes.gcmTag (s.sa c).key nonce aad ct ≠ f.icv → (∀ d, t.sa d = s.sa d) ∧ t.net.macFrames = s.net.macFrames ∧
          (t.net.stats.getD port {}).icv = satAdd 0xFFFFFFFF (s.net.stats.getD port {}).icv 1))))

/-- The rows of 11_metering_and_moraine that measure; the product's formula is R304's, in units of 2^-24 mJ and 2^-24 mC. -/
def Obligations.MeteringIntegratesAndJudges : Prop :=
  (∀ (m0 m1 m2 m3 : BitVec 256) (s : State), s.metering = false → exec (.meterSample m0 m1 m2 m3) s = .next s) ∧
  (∀ (m0 m1 m2 m3 : BitVec 256) (i0 i1 v0 v1 : Nat) (b c d : List (Option Nat)) (ys : List (Nat × Sinc)) (pa pb : Int × Int)
    (s : State), s.metering = true → s.met.n < 128 → s.met.stuck = 0 → s.met.overload = 0 → s.met.discard = [0, 0, 0, 0] →
    s.met.stopped = none → s.met.waiting = [[some i0, some i1, some v0, some v1], b, c, d] →
    ys = s.met.filtered [m0, m1, m2, m3] → (∀ q, q ∈ ys → overloads q.1 = false) →
    s.met.product false [some i0, some i1, some v0, some v1] = some pa →
    s.met.product true [some i0, some i1, some v0, some v1] = some pb →
    -(2 ^ 63) ≤ s.met.balance - ((s.basisOf (s.met.billing.add pa) : Int) - s.basisOf s.met.billing) →
    s.met.balance < 2 ^ 63 → s.basisOf s.met.billing ≤ s.basisOf (s.met.billing.add pa) →
    Answers (.meterSample m0 m1 m2 m3) s fun t =>
      t.met.pairA = s.met.pairA.add pa ∧ t.met.pairB = s.met.pairB.add pb ∧ t.met.billing = s.met.billing.add pa ∧
      t.met.balance = s.met.balance - ((s.basisOf (s.met.billing.add pa) : Int) - s.basisOf s.met.billing) ∧
      t.met.waiting = [b, c, d, ys.map fun q => some q.1] ∧ t.met.filters = ys.map (·.2) ∧
      t.met.n = s.met.n + 1 ∧ t.met.unmetered = s.met.unmetered ∧ t.rel.st = s.rel.st ∧ t.rel.latch = s.rel.latch ∧
      Only [.met, .rel] s t) ∧
  (∀ (m0 m1 m2 m3 : BitVec 256) (n : Nat) (q : Nat × Sinc) (s : State), s.metering = true → s.met.n < 128 → s.met.stuck = 0 →
    s.met.discard = [0, 0, 0, 0] → (s.met.filtered [m0, m1, m2, m3])[n]? = some q → overloads q.1 = true →
    Answers (.meterSample m0 m1 m2 m3) s fun t =>
      t.met.overload.getLsbD n = true ∧ (n < 2 → t.currentValid = false) ∧ t.rel.latch = s.rel.latch) ∧
  (∀ (m : Met) (x y : Option Nat), m.scale = [1000, 1000, 1048576, 1048576, 1048576, 1048576, 0, 0, 0, 0] →
    m.product false [some 10485760, x, some 13631488, y] = some (2000 * 2 ^ 24, 53687091)) ∧
  (∀ s : State, s.met.n < 128 → exec .meanEnd s = .next s) ∧
  (∀ s : State, 128 ≤ s.met.n → (s.psc.state ≠ .drift ∨ s.psc.entry = none) → Answers .meanEnd s fun t =>
    t.met.n = 0 ∧ t.met.sums = [0, 0, 0, 0] ∧ t.met.meanOk = true ∧ t.met.billing = s.met.billing ∧
    t.met.pairA = s.met.pairA ∧ t.met.pairB = s.met.pairB ∧ t.met.stuck = s.met.stuck ∧
    (∀ n, n < 4 → s.met.overIn.getLsbD n = true → t.met.overload.getLsbD n = s.met.overload.getLsbD n) ∧
    (∀ n, n < 4 → s.met.overIn.getLsbD n = false → s.met.spoiled.getLsbD n = false → s.met.waiting = [] →
      t.met.overload.getLsbD n = false) ∧
    (s.met.spoiled.getLsbD 0 = true → t.met.iDis = s.met.iDis ∧ t.met.iRun = 0) ∧
    (s.met.spoiled = 0 → s.met.stuck = 0 → s.met.iDis = false → s.met.iRun = 15 →
      meansDisagree (s.met.sums.getD 0 0) (s.met.sums.getD 1 0) (s.met.fullScale 0) (s.cfgN recMetering 11) 100 = true →
      t.met.iDis = true ∧ t.rel.quiet = none) ∧
    (s.met.overload.getLsbD 0 = true → s.met.overIn.getLsbD 0 = true → t.rel.quiet = none) ∧
    (s.met.spoiled = 0 → s.met.stuck = 0 → s.met.overload = 0 → s.met.iDis = false → s.met.iRun < 15 → s.pdOn 13 = true →
      s.met.below5 0 = true → s.met.below5 1 = true → t.rel.quiet = some (s.rel.quiet.getD s.now)) ∧
    (s.aboveIdle = true → t.met.above = some s.now)) ∧
  (∀ (n : Nat) (s : State),
    (s.metering = true → n ≤ 3 → s.met.stuck.getLsbD n = false → Answers (.inputStuck n) s fun t =>
      t.met.stuck.getLsbD n = true ∧ (∀ k, k ≠ n → t.met.stuck.getLsbD k = s.met.stuck.getLsbD k) ∧
      t.met.waiting = s.met.waiting.map (fun ys => (ys.set n none).set ((n + 2) % 4) none) ∧
      t.met.billing = s.met.billing ∧ (n < 2 → t.currentValid = false) ∧ Only [.met, .ledger, .evc] s t) ∧
    ((s.metering = false ∨ 3 < n ∨ s.met.stuck.getLsbD n = true) → exec (.inputStuck n) s = .next s) ∧
    (s.metering = true → s.met.stuck.getLsbD n = true → s.met.discard.length = 4 → Answers (.transitionsResume n) s fun t =>
      t.met.stuck.getLsbD n = false ∧ (∀ k, k ≠ n → t.met.stuck.getLsbD k = s.met.stuck.getLsbD k) ∧
      t.met.discard.getD n 0 = 3 ∧ t.met.billing = s.met.billing ∧ Only [.met, .ledger, .evc] s t) ∧
    ((s.metering = false ∨ s.met.stuck.getLsbD n = false) → exec (.transitionsResume n) s = .next s)) ∧
  (∀ s : State,
    (s.met.commitNs + 1000000000 ≤ s.now → Answers .counterCommit s fun t =>
      t.met = { s.met with comA := s.met.pairA, comB := s.met.pairB, comBilling := s.met.billing
                           comBalance := s.met.balance, comGrace := s.met.grace, commitNs := s.now } ∧ Only [.met] s t) ∧
    (s.now < s.met.commitNs + 1000000000 → exec .counterCommit s = .next s)) ∧
  (∀ s : State, s.now < s.met.boundary → exec .summaryBoundary s = .next s) ∧
  (∀ s : State, s.met.boundary ≤ s.now → Answers .summaryBoundary s fun t =>
    t.met.boundary = s.met.boundary + ((s.now - s.met.boundary) / summaryNs + 1) * summaryNs ∧ s.now < t.met.boundary ∧
    t.met.flags = 0 ∧ t.met.unmetered = 0 ∧ t.met.scale = s.scaleNow ∧ t.met.comBilling = s.met.billing ∧
    t.met.billing = s.met.billing ∧ t.met.balance = s.met.balance ∧ t.met.comBalance = s.met.balance ∧
    Only [.met, .ledger, .evc] s t) ∧
  (∀ (key : List Byte) (s : State), s.met.boundary ≤ s.now → s.chainKey s.tbu.epoch = some key → s.ledger.queue = [] →
    s.ledger.area = [] → s.ledger.lowSpace = false → s.ledger.head + 1 < 0xFFFFFFFF → Answers .summaryBoundary s fun t =>
      ∃ e c : Entry, t.ledger.ring = s.ledger.ring ++ [e, c] ∧ t.ledger.head = s.ledger.head + 2 ∧ e.type = 1 ∧ c.type = 2 ∧
        e.aux = ((s.now - s.met.boundary) / summaryNs + 1) % 0x10000 ∧ c.aux = e.aux ∧ e.seq = s.ledger.head ∧
        c.seq = s.ledger.head + 1 ∧ e.link = s.ledger.lastMac ∧ c.link = e.mac.take 4 ∧
        e.mac = (Aes.cmac key e.bytes).take 12 ∧ c.mac = (Aes.cmac key c.bytes).take 12 ∧
        e.body = fit 24 (leBytes 8 s.met.billing.eDis ++ leBytes 8 s.met.billing.eChg ++ leInt 8 s.met.balance) ∧
        c.body.take 16 = leBytes 8 s.met.billing.qDis ++ leBytes 8 s.met.billing.qChg)

/-- Moraine's commands (R320) and the hourly rows. -/
def Obligations.MoraineAndLedgCommands : Prop :=
  (∀ (mb : Nat) (s : State), Takes s mb 0x0B01 → Answers (.ledgEnergy mb) s fun t =>
    Completed s t mb (if (∃ g, s.met.grace = some g ∧ g.2 ≠ s.tbu.epoch) ∨ (s.cmdView mb).cfgN recMetering 19 < s.unc then
        Status.timeDegraded else Status.ok) (s.cmdView mb).energyBody ∧ Only [.mbx, .evc, .fab] s t) ∧
  (∀ (mb : Nat) (s : State), Takes s mb 0x0B02 → Answers (.ledgStatus mb) s fun t =>
    Completed s t mb Status.ok s.ledgerBody ∧ Only [.mbx, .evc, .fab] s t) ∧
  (∀ (mb : Nat) (p : List Byte) (es : List Entry) (s : State), p = (s.box mb).payload → Takes s mb 0x0B03 →
    (s.box mb).hasWindow = true →
    es = (s.ledger.ring.drop (uAt p 0 4 - s.ledger.tail)).take (uAt p 4 2) →
    s.ledger.tail ≤ uAt p 0 4 ∧ uAt p 0 4 < s.ledger.head ∧ Answers (.ledgExport mb) s fun t =>
      Completed s t mb Status.ok (leBytes 2 es.length ++ zeros 2 ++ leBytes 4 ((es.head?.map (·.seq)).getD 0) ++
        leBytes 4 ((es.getLast?.map (·.seq)).getD 0)) ∧
      t.mem = Memory.writeBytes s.mem ((s.win (s.box mb).window).phys (uAt p 8 4)) (es.flatMap Entry.full) ∧
      Only [.mbx, .evc, .fab, .mem] s t) ∧
  (∀ (mb k : Nat) (s : State), Takes s mb 0x0B04 → k = uAt (s.box mb).payload 0 4 → Answers (.ledgAck mb) s fun t =>
    Completed s t mb Status.ok (leBytes 4 t.ledger.tail ++ leBytes 2 t.ledger.freeCount ++ zeros 2) ∧
    (s.ledger.lowSpace = false → t.ledger = { s.ledger with ring := s.ledger.ring.filter fun e => decide (k < e.seq) }) ∧
    ((s.ledger.ring.filter fun e => decide (k < e.seq)).length < 11264 → t.ledger.lowSpace = false) ∧
    (s.ledger.lowSpace = true → (s.ledger.ring.filter fun e => decide (k < e.seq)).length < 11264 → t.ledger.pair = none) ∧
    (∀ e, e ∈ s.ledger.ring → k < e.seq → e ∈ t.ledger.ring) ∧ Only [.ledger, .mbx, .evc, .fab] s t) ∧
  (∀ (mb : Nat) (p : List Byte) (v s : State), Takes s mb 0x0B05 → p = (s.box mb).payload →
    (s.creditWaits mb = true → exec (.ledgCredit mb) s = .next s) ∧
    (creditForm p = false → Answers (.ledgCredit mb) s fun t =>
      RefusedWith s t mb Status.invalid ∧ Only [.mbx, .evc, .fab] s t) ∧
    (creditForm p = true → s.creditWaits mb = false → v = (s.cmdView mb).evalIdentity (uAt p 16 8) →
      (∀ st, v.creditCheck p = some st → completes st = false ∧ Answers (.ledgCredit mb) s fun t =>
        RefusedWith s t mb st ∧ t.met = s.met ∧ t.rel = s.rel ∧ t.parts.lessorSeq = s.parts.lessorSeq) ∧
      (v.creditCheck p = none → s.rel.presence = [] → -(2 ^ 63) ≤ s.met.balance →
        (uAt p 1 1 = 1 → s.met.balance + iAt p 24 8 < 2 ^ 63) → Answers (.ledgCredit mb) s fun t =>
          t.met.balance = (if uAt p 1 1 = 2 then iAt p 24 8 else s.met.balance + iAt p 24 8) ∧
          t.met.comBalance = t.met.balance ∧ t.lastSeq (uAt p 16 8) = uAt p 4 4 ∧ t.met.billing = s.met.billing ∧
          (∃ m : Bool, (0 < t.met.balance → m = true) ∧
            Completed s t mb Status.ok (leInt 8 t.met.balance ++ slice p 4 4 ++ leBytes 1 (bit m) ++ zeros 3)) ∧
          Only [.met, .parts, .ledger, .rel, .mbx, .evc, .fab] s t))) ∧
  (∀ s : State,
    ((s.ledger.queue = [] ∧ s.ledger.area = []) ∨ s.chainKey s.tbu.epoch = none → exec .queuedEntryAppend s = .next s) ∧
    (s.chainKey s.tbu.epoch ≠ none → Answers .queuedEntryAppend s fun t =>
      t.ledger.queue = [] ∧ t.ledger.area = [] ∧ Only [.ledger, .evc] s t)) ∧
  (∀ (e : Entry) (key : List Byte) (s : State), s.ledger.queue = [e] → s.ledger.area = [] →
    s.chainKey s.tbu.epoch ≠ none → s.chainKey e.epoch = some key → e.critical = true → s.ledger.ring.length < 12288 →
    s.ledger.head < 0xFFFFFFFF → s.ledger.tally = [0, 0, 0, 0, 0] → Answers .queuedEntryAppend s fun t => ∃ w : Entry,
      t.ledger.ring = s.ledger.ring ++ [w] ∧ w.body = e.body ∧ w.type = e.type ∧ w.aux = e.aux ∧ w.ns = e.ns ∧
      w.epoch = e.epoch ∧ w.seq = s.ledger.head ∧ w.link = s.ledger.lastMac ∧ w.mac = (Aes.cmac key w.bytes).take 12) ∧
  (∀ s : State, (∀ r, r ∈ s.health.sums → r.epoch = s.tbu.epoch ∧ hourOf s.now ≤ hourOf r.ns) →
    exec .healthSummaryHour s = .next s) ∧
  (∀ (r : HealthRec) (s : State), s.health.sums = [r] → (r.epoch ≠ s.tbu.epoch ∨ hourOf r.ns < hourOf s.now) →
    Answers .healthSummaryHour s fun t => t.health.sums = [] ∧ t.health.next = s.health.next + 1 ∧
      t.health.log.getLast? = some { r with seq := s.health.next } ∧ Only [.health, .ledger, .evc] s t) ∧
  (∀ s : State, s.now < s.net.statHour → exec .statisticsHour s = .next s) ∧
  (∀ s : State, s.net.statHour ≤ s.now → Answers .statisticsHour s fun t =>
    t.net = { s.net with statHour := (hourOf s.now + 1) * 3600000000000 } ∧ t.health.next = s.health.next + 6 ∧
    t.health.lastCode = 0x0090 ∧ Only [.health, .net, .free, .evc] s t)

/-- The entries and the wakes of 19_power_states. -/
def Obligations.SleepIsVotedCommittedAndRolledBack : Prop :=
  (∀ (mb : Nat) (u v s : State), Takes s mb 0x0D02 → s.psc.state = .run →
    u = s.modPsc (fun p =>
      { p with sleepMb := some mb, wakeEn := (BitVec.ofNat 32 (uAt (s.box mb).payload 4 4) &&& 0x3FFF) ||| 0x23B1
               entry := some (targetOf (uAt (s.box mb).payload 0 1))
               keep := keptBy (targetOf (uAt (s.box mb).payload 0 1)) (uAt (s.box mb).payload 2 2)
               vote := true, committed := false, gatedNow := [] }) →
    v = u.sleepDown →
    (v.vetoer = none → Answers (.pwrSleep mb) s fun t => t.psc = v.psc ∧ t.radio = v.radio ∧
      t.box mb = { s.box mb with waiting := true } ∧ Only [.psc, .mbx, .radio, .pad, .sess] s t) ∧
    (∀ d, v.vetoer = some d → Answers (.pwrSleep mb) s fun t => t.psc.entry = none ∧ t.psc.lastVeto = d ∧
      t.psc.sleepMb = none ∧ t.psc.rollbacks = s.psc.rollbacks ∧ t.psc.wakeCount = s.psc.wakeCount ∧
      t.psc.wakeEn = u.psc.wakeEn ∧
      Posted s t mb Status.rolledBack (s.box mb).payload.length (s.sleepBody 0 d 0xFF 0 0) ∧
      Only [.psc, .mbx, .evc, .fab, .radio, .pad, .sess] s t)) ∧
  (∀ (mb : Nat) (s : State), s.psc.state ≠ .run → exec (.pwrSleep mb) s = .next s) ∧
  (∀ (mb : Nat) (s : State), Takes s mb 0x0D01 → Answers (.pwrStatus mb) s fun t =>
    Completed s t mb Status.ok (s.cmdView mb).pwrBody ∧ t.psc = s.psc ∧ Only [.mbx, .evc, .fab, .free] s t) ∧
  (∀ (target : PowerState) (s : State), s.psc.entry = some target → s.psc.committed = false →
    (∀ d, s.vetoer = some d → Answers .sleepCommit s fun t => t.psc.entry = none ∧ t.psc.lastVeto = d ∧
      t.psc.wakeCount = s.psc.wakeCount ∧ t.psc.rollbacks = s.psc.rollbacks) ∧
    (s.vetoer = none → s.trimReady target = false → Answers .sleepCommit s fun t =>
      t.psc = { s.psc with trimWait := true } ∧ Only [.psc] s t) ∧
    (s.vetoer = none → s.trimReady target = true → Answers .sleepCommit s fun t =>
      t.psc.wakeCount = (s.psc.wakeCount + 1) % 2 ^ 32 ∧
      (s.nextGate = none → t.psc.state = target ∧ t.psc.entry = none ∧ t.psc.entryNs = t.now) ∧
      (s.nextGate ≠ none → t.psc.state = s.psc.state ∧ t.psc.entry = some target ∧ t.psc.committed = true ∧
        t.psc.powered = s.psc.powered) ∧
      (target = .drift → t.crypt = s.crypt ∧ t.met = s.met) ∧
      (target ≠ .drift → t.crypt.wakeKey =
        (s.modPsc fun p => { p with wakeCount := (p.wakeCount + 1) % 2 ^ 32 }).deriveWakeKey ∧
        t.ledger.flush.length ≤ 64 ∧ (s.psc.keep.getLsbD 13 = false → t.met.comBilling = s.met.billing)))) ∧
  (∀ s : State, (s.psc.entry = none ∨ s.psc.committed = true) → exec .sleepCommit s = .next s) ∧
  (∀ (d : Nat) (s : State),
    (s.psc.entry.isSome = true → 1 ≤ d → d ≤ 13 → s.pdOn d = true → Answers (.veto d) s fun t =>
      t.psc.entry = none ∧ t.psc.lastVeto = d ∧ t.psc.wakeCount = s.psc.wakeCount ∧ t.psc.gatedNow = [] ∧
      t.psc.rollbacks = (if s.psc.committed then satAdd 0xFFFF s.psc.rollbacks 1 else s.psc.rollbacks) ∧
      (∀ e, e < 14 → t.pdOn e = (s.pdOn e || s.psc.gatedNow.contains e)) ∧
      (∀ n, s.psc.sleepMb = some n → n < s.mbx.boxes.length →
        Posted s t n Status.rolledBack (s.box n).payload.length (s.sleepBody 0 d 0xFF 0 0)) ∧
      t.psc.sleepMb = none ∧ Only [.psc, .pad, .mbx, .evc, .fab, .rel, .ledger] s t) ∧
    ((s.psc.entry = none ∨ d = 0 ∨ 13 < d ∨ s.pdOn d = false) → exec (.veto d) s = .next s)) ∧
  (∀ (target : PowerState) (d : Nat) (s : State), s.psc.entry = some target → s.psc.committed = true → s.nextGate = some d →
    s.vetoer = none → Answers .domainGated s fun t =>
      t.pdOn d = false ∧ (∀ e, e ≠ d → t.pdOn e = s.pdOn e) ∧
      (padDomain d = true → t.pad.frz.getLsbD d = true) ∧ (d = 13 → t.met.stopped.isSome = true) ∧
      ((∀ e, e ∈ gateOrder → e ≠ d → s.pdOn e = false ∨ s.psc.keep.getLsbD e = true) →
        t.psc.state = target ∧ t.psc.entry = none ∧
        (target = .permafrost → s.tbu.slowFailed = false → t.tbu.src = .slowCrystal ∧ t.tbu.refOk = false)) ∧
      ((∃ e, e ∈ gateOrder ∧ e ≠ d ∧ s.pdOn e = true ∧ s.psc.keep.getLsbD e = false) →
        t.psc.entry = some target ∧ t.psc.gatedNow = d :: s.psc.gatedNow)) ∧
  (∀ s : State, (s.psc.entry = none ∨ s.psc.committed = false ∨ s.nextGate = none) → exec .domainGated s = .next s) ∧
  (∀ s : State, s.rolesRun = true → s.psc.state = .run → s.psc.entry = none → s.psc.sleepMb = none → s.pdOn 9 = false →
    s.pdOn 10 = false → s.driftIdleRun = true → (s.modPsc fun p => { p with keep := keptBy .drift 0 }).vetoer = none →
    Answers .driftIdleEntry s fun t => t.psc.state = .drift ∧ t.psc.entry = none ∧ t.psc.powered = s.psc.powered ∧
      t.psc.wakeCount = (s.psc.wakeCount + 1) % 2 ^ 32 ∧ t.psc.sleepMb = none ∧ Only [.psc] s t) ∧
  (∀ s : State, (s.rolesRun = false ∨ s.psc.state ≠ .run ∨ s.psc.entry ≠ none ∨ s.psc.sleepMb ≠ none ∨
      s.driftIdleRun = false) →
    exec .driftIdleEntry s = .next s) ∧
  (∀ (code : Nat) (s : State),
    ((0x0D < code ∨ s.wakeEnabled code = false ∨ s.inRun) → exec (.wakeSource code) s = .next s) ∧
    (code ≤ 0x0D → s.wakeEnabled code = true → s.psc.entry = none → wakesFrom code s.psc.state = true →
      (s.psc.waking = none → Answers (.wakeSource code) s fun t =>
        t.psc = { s.psc with waking := some (recordedCode code s.psc.state), wakeSrc := recordedCode code s.psc.state
                             wakeFrom := fromCode s.psc.state, wakeNs := s.now } ∧ Only [.psc] s t) ∧
      (∀ w, s.psc.waking = some w → s.psc.wakeNs = s.now → Answers (.wakeSource code) s fun t =>
        t.psc = { s.psc with waking := some (min (recordedCode code s.psc.state) w)
                             wakeSrc := min (recordedCode code s.psc.state) w } ∧ Only [.psc] s t) ∧
      (∀ w, s.psc.waking = some w → s.psc.wakeNs ≠ s.now → exec (.wakeSource code) s = .next s)) ∧
    (∀ target, code ≤ 0x0D → s.wakeEnabled code = true → s.psc.entry = some target →
      (s.psc.committed = true → wakesFrom code target = true → Answers (.wakeSource code) s fun t =>
        t.psc.entry = none ∧ t.psc.lastVeto = 0 ∧ t.psc.rollbacks = satAdd 0xFFFF s.psc.rollbacks 1 ∧
        t.psc.wakeCount = s.psc.wakeCount) ∧
      ((s.psc.committed = false ∨ wakesFrom code target = false) → exec (.wakeSource code) s = .next s))) ∧
  (∀ s : State,
    ((s.psc.waking = none ∨ s.psc.entry ≠ none ∨ fromCode s.psc.state = 0) → exec .wakeComplete s = .next s) ∧
    (s.psc.waking ≠ none → s.psc.entry = none → fromCode s.psc.state ≠ 0 → Answers .wakeComplete s fun t =>
      t.psc.state = .run ∧ t.psc.waking = none ∧ t.psc.wakeCount = s.psc.wakeCount ∧
      (∀ d, 1 ≤ d → d ≤ 13 → d ≠ 9 → d ≠ 10 → t.pdOn d = true) ∧
      (∀ n, s.psc.sleepMb = some n → n < s.mbx.boxes.length → Posted s t n Status.ok (s.box n).payload.length
        (s.sleepBody (targetCode s.psc.state) 0xFF s.psc.wakeSrc s.psc.entryNs s.psc.wakeNs)) ∧
      t.psc.sleepMb = none ∧
      (s.psc.state = .drift → s.pop.wanted = false → t.rel = s.rel ∧ t.ledger = s.ledger ∧
        Only [.psc, .pad, .mbx, .evc, .fab, .net] s t) ∧
      (s.psc.state ≠ .drift → t.rel.quiet = none ∧ (s.rel.latch = true → t.rel.latch = true)))) ∧
  (∀ (port : Nat) (s : State),
    ((2 ≤ port ∨ s.pdOn 7 = true) → exec (.linkActivity port) s = .next s) ∧
    (port < 2 → s.pdOn 7 = false → s.wakeEnabled (2 + port) = true → s.psc.entry = none → s.psc.waking = none →
      (s.psc.state = .firn ∨ s.psc.state = .permafrost) → Answers (.linkActivity port) s fun t =>
        t.psc.wakeSrc = 2 + port ∧ t.psc.waking = some (2 + port) ∧ Only [.psc] s t)) ∧
  (∀ (port : Nat) (s : State), s.phyOn port = false → exec (.frameDiscarded port) s = .next s) ∧
  (∀ (port : Nat) (s : State), s.phyOn port = true → s.net.stats.length = 6 → s.inRun →
    Answers (.frameDiscarded port) s fun t =>
      (t.net.stats.getD port {}).discarded = satAdd 0xFFFFFFFF (s.net.stats.getD port {}).discarded 1 ∧
      (t.net.stats.getD port {}).rx = satAdd 0xFFFFFFFF (s.net.stats.getD port {}).rx 1 ∧
      (∀ p, p ≠ port → t.net.stats.getD p {} = s.net.stats.getD p {}) ∧ Only [.net] s t) ∧
  (∀ (port : Nat) (bs : List Byte) (s : State), port < 2 → s.phyOn port = true → s.net.stats.length = 6 →
    (s.psc.state ≠ .firn → exec (.ethernetWakeFrame port bs) s = exec (.frameDiscarded port) s) ∧
    (s.psc.state = .firn → bs.length = 28 → uAt bs 0 1 = 0x20 →
      (s.wakeFrameOk 0 (wordsOf 4 (slice bs 4 16)) (slice bs 20 8) = false → Answers (.ethernetWakeFrame port bs) s fun t =>
        t.psc = { s.psc with wfailEth := satAdd 0xFFFF s.psc.wfailEth 1 } ∧ Only [.psc, .net, .crypt] s t) ∧
      (s.wakeFrameOk 0 (wordsOf 4 (slice bs 4 16)) (slice bs 20 8) = true → s.wakeEnabled 1 = true → s.psc.entry = none →
        s.psc.waking = none → Answers (.ethernetWakeFrame port bs) s fun t =>
          t.psc.waking = some 1 ∧ t.psc.wakeSrc = 1 ∧ t.psc.wakeReason = BitVec.ofNat 32 (uAt bs 8 4) ∧
          t.psc.wfailEth = s.psc.wfailEth ∧ Only [.psc, .net, .crypt] s t)))

/-- Supplies and pads. -/
def Obligations.SuppliesGovernorAndPads : Prop :=
  (∀ (mv : Nat) (s : State),
    (s.power.line = false → exec (.vresMeasurement mv) s = .next s) ∧
    (s.power.line = true → s.psc.vresMin ≤ mv → Answers (.vresMeasurement mv) s fun t =>
      t.psc = { s.psc with vres := mv % 0x10000, vresEvent := none } ∧ Only [.psc] s t) ∧
    (s.power.line = true → mv < s.psc.vresMin →
      (∀ t0, s.psc.vresEvent = some t0 → s.now < t0 + hourNs → Answers (.vresMeasurement mv) s fun t =>
        t.psc = { s.psc with vres := mv % 0x10000 } ∧ Only [.psc] s t) ∧
      ((∀ t0, s.psc.vresEvent = some t0 → t0 + hourNs ≤ s.now) → s.inRun → Answers (.vresMeasurement mv) s fun t =>
        t.psc = { s.psc with vres := mv % 0x10000, vresEvent := some s.now } ∧ Only [.psc, .evc] s t))) ∧
  (∀ s : State,
    (s.power.line = true → exec .vresExhausted s = .next s) ∧
    (s.power.line = false → Answers .vresExhausted s fun t =>
      t.tbu = { s.tbu with running := false } ∧ t.psc = { s.psc with vresOut := true } ∧ Only [.tbu, .psc] s t)) ∧
  (∀ (w : Word) (s : State), s.pad.frz.getLsbD 10 = true → w.getLsbD 10 = true → s.pdOn 10 = true → s.inRun →
    s.radio.st = .off → s.rolesRun = true → Answers (.padFrzWrite w) s fun t =>
      t.pad.frz.getLsbD 10 = false ∧ t.radio.st = .synthSettle) ∧
  (∀ (w : Word) (s : State), (s.pad.frz.getLsbD 10 = false ∨ w.getLsbD 10 = false) → Answers (.padFrzWrite w) s fun t =>
    t.pad = { s.pad with frz := s.pad.frz &&& ~~~(BitVec.setWidth 14 w &&& s.psc.powered) } ∧
    (s.pad.frz.getLsbD 13 = true → w.getLsbD 13 = true → s.pdOn 13 = true → t.rel.quiet = none) ∧ Only [.pad, .rel] s t) ∧
  (∀ (pin : Nat) (rising : Bool) (s : State),
    ((16 ≤ pin ∨ s.psc.state = .nunatakHold ∨ s.pad.gpioDir.getLsbD pin = true) → exec (.gpioEdge pin rising) s = .next s) ∧
    (pin < 16 → s.psc.state ≠ .nunatakHold → s.pad.gpioDir.getLsbD pin = false → Answers (.gpioEdge pin rising) s fun t =>
      t.pad.gpioIn.getLsbD pin = rising ∧ (∀ k, k ≠ pin → t.pad.gpioIn.getLsbD k = s.pad.gpioIn.getLsbD k) ∧
      (s.pad.selects pin rising = false → Only [.pad] s t) ∧
      (s.inRun → Only [.pad, .evc] s t)) ∧
    (pin < 16 → s.pad.gpioDir.getLsbD pin = false → s.pad.selects pin rising = true → s.pad.gpioWake.getLsbD pin = true →
      s.wakeEnabled 6 = true → s.psc.entry = none → s.psc.waking = none →
      (s.psc.state = .firn ∨ s.psc.state = .permafrost) → Answers (.gpioEdge pin rising) s fun t =>
        t.psc.waking = some 6 ∧ t.psc.wakeSrc = 6 ∧ Only [.pad, .evc, .psc] s t)) ∧
  (∀ (k : Nat) (on : Bool) (f : Feed) (s : State), s.power.feeds[k]? = some f →
    ((f.delivering = on ∨ (on = true ∧ f.ov = true)) → exec (.feedDeliveringChange k on) s = .next s) ∧
    (f.delivering ≠ on → (on = true → f.ov = false) → Answers (.feedDeliveringChange k on) s fun t =>
      ∃ g, t.power.feeds[k]? = some g ∧ g.delivering = on ∧ g.ov = f.ov ∧ (on = false → g.cls = none) ∧
        (∀ c, on = true → f.cls = some c → g.cls = some c) ∧
        (∀ j, j ≠ k → t.power.feeds[j]? = s.power.feeds[j]?) ∧ t.rel.latch = s.rel.latch) ∧
    ((on = false ∨ f.delivering = false) → Answers (.feedOv k on) s fun t =>
      t.power.feeds[k]? = some { f with ov := on } ∧ Only [.power, .ledger, .evc, .free] s t ∧
      ((on = false ∨ f.ov = true) → Only [.power] s t)) ∧
    (on = true → f.delivering = true → Answers (.feedOv k on) s fun t =>
      ∃ g, t.power.feeds[k]? = some g ∧ g.delivering = false ∧ g.ov = true ∧ g.cls = none)) ∧
  (∀ (k : Nat) (s : State), s.power.feeds[k]? = none → exec (.feedOv k true) s = .next s ∧
    exec (.feedDeliveringChange k true) s = .next s ∧ exec (.sccpClassWrite k 0) s = .next s) ∧
  (∀ (k : Nat) (s : State),
    (k < 2 → Answers (.sccpClassification k) s fun t =>
      t.power = { s.power with sccpReply := s.cfgN recNetwork (fieldNo 6 5) } ∧ Only [.power] s t) ∧
    (2 ≤ k → exec (.sccpClassification k) s = .next s)) ∧
  (∀ (k cls : Nat) (f : Feed) (s : State), s.power.feeds[k]? = some f →
    ((16 ≤ cls ∨ f.cls = some cls) → exec (.sccpClassWrite k cls) s = .next s) ∧
    (cls < 16 → f.cls ≠ some cls → Answers (.sccpClassWrite k cls) s fun t =>
      t.power.feeds[k]? = some { f with cls := some cls } ∧ (∀ j, j ≠ k → t.power.feeds[j]? = s.power.feeds[j]?) ∧
      (s.lf.waiting = [] → s.lf.flight = [] → t.lf.pAvail = t.availPower ∧ t.lf.pLf = budgetOf t.availPower s.lf.pRest) ∧
      t.rel = s.rel)) ∧
  (∀ s : State,
    (s.lineUp = true → Answers .vcoreUndervoltage s fun t => t = s.recoveryReset 2 ∧ t.boot.pendingRecovery = some 2 ∧
      t.boot.resetCause = 3 ∧ t.tbu.epoch = s.tbu.epoch ∧ t.rel.latch = s.rel.latch) ∧
    (s.lineUp = false → exec .vcoreUndervoltage s = .next s)) ∧
  (∀ (tempos : List Nat) (demand : Nat) (s : State),
    (s.lineUp = false → exec (.tempoGovernorUpdate tempos demand) s = .next s) ∧
    (s.lineUp = true → 550 ≤ s.power.vcore → s.power.vcore ≤ 850 → Answers (.tempoGovernorUpdate tempos demand) s fun t =>
      550 ≤ t.power.vcore ∧ t.power.vcore ≤ 850 ∧
      t.power.vcore ≤ s.power.vcore + 5 ∧ s.power.vcore ≤ t.power.vcore + 5 ∧
      (s.vcoreFloor ≤ s.power.vcore → s.vcoreFloor ≤ t.power.vcore) ∧
      (s.power.vcore < s.vcoreFloor → s.vcoreFree = true → t.power.vcore = s.power.vcore + 5 ∨ t.power.vcore = 850) ∧
      (s.vcoreFree = false → t.power.vcore = s.power.vcore) ∧
      t.power.demand = min demand 0xFFFF ∧ (s.power.vcore < 850 → t.power.unmet = s.power.unmet ∧ Only [.power] s t) ∧
      Only [.power, .health, .evc, .ledger, .free] s t) ∧
    (s.lineUp = true → s.power.vcore = 850 → s.pdOn 1 = true → tempos.getD 0 0 < demand →
      Answers (.tempoGovernorUpdate tempos demand) s fun t =>
        t.power.unmet = satAdd 0xFFFFFFFF s.power.unmet 1 ∧ t.power.vcore = 850)) ∧
  (∀ (link : Nat) (again failed : Bool) (s : State),
    (s.lineUp = false → exec (.dieLinkCrcFail link again failed) s = .next s) ∧
    (s.lineUp = true → (again = false ∨ failed = false) → Answers (.dieLinkCrcFail link again failed) s fun t =>
      t.power = s.power ∧ Only [.health, .evc, .ledger, .free] s t) ∧
    (s.lineUp = true → again = true → failed = true →
      ((s.power.linkFails.filter fun p => decide (s.now ≤ p.2 + 1000000000) && p.1 == link).length < 2 →
        Answers (.dieLinkCrcFail link again failed) s fun t =>
          t.power.linkFails = (s.power.linkFails.filter fun p => decide (s.now ≤ p.2 + 1000000000)) ++ [(link, s.now)] ∧
          t.boot = s.boot) ∧
      (2 ≤ (s.power.linkFails.filter fun p => decide (s.now ≤ p.2 + 1000000000) && p.1 == link).length →
        Answers (.dieLinkCrcFail link again failed) s fun t => t.power.linkFails = [] ∧ t.boot.pendingRecovery = some 4 ∧
          t.boot.resetCause = 3 ∧ t.boot.phase = .inReset))) ∧
  (∀ (port : Nat) (s : State),
    ((s.portOn port = false ∨ s.mbx.ready = false) → exec (.pdelayReq port) s = .next s) ∧
    (s.portOn port = true → s.mbx.ready = true → s.tbu.pdelaySent.length = 6 → Answers (.pdelayReq port) s fun t =>
      t.tbu.pdelaySent.getD port 0 = satAdd 0xFFFFFFFF (s.tbu.pdelaySent.getD port 0) 1 ∧ t.tbu.ns = s.tbu.ns ∧
      t.tbu.pdelayStamp = some ((s.now256 : Int) + s.tbu.extOffset) ∧
      (∀ p, p ≠ port → t.tbu.pdelaySent.getD p 0 = s.tbu.pdelaySent.getD p 0) ∧ Only [.tbu, .net] s t))

/-- The rows of the uplinks and the segments. -/
def Obligations.UplinksMkaAndSegments : Prop :=
  (∀ (port : Nat) (up : Bool) (s : State),
    ((s.net.linkUp.getD port up = up ∨ (up = true ∧ s.phyOn port = false)) → exec (.linkChange port up) s = .next s) ∧
    (s.net.linkUp.getD port up ≠ up → (up = true → s.phyOn port = true) → Answers (.linkChange port up) s fun t =>
      t.net.linkUp = s.net.linkUp.set port up ∧
      t.net.linkLost = s.net.linkLost.set port (if up then none else some s.now) ∧
      (up = true → t.net.stats = s.net.stats ∧ t.net.forced = s.net.forced ∧
        (port < 2 → t.net.master = s.net.master.set port (s.takesMaster port))) ∧
      (up = false → t.net.forced = s.net.forced.set port false ∧ t.net.master = s.net.master) ∧
      (up = false → port < s.net.stats.length →
        (t.net.stats.getD port {}).down = satAdd 0xFFFFFFFF (s.net.stats.getD port {}).down 1) ∧
      t.crypt = s.crypt ∧ t.health.next = s.health.next + 6 ∧ Only [.net, .health, .evc, .free] s t)) ∧
  (∀ (port : Nat) (s : State),
    (port < 2 → s.portOn port = true → s.cfgN recNetwork (fieldNo (4 + port) 1) = 2 → s.net.linkUp.getD port false = false →
      Answers (.autonegTimeout port) s fun t => t.net = { s.net with forced := s.net.forced.set port true } ∧
        Only [.net] s t) ∧
    ((2 ≤ port ∨ s.portOn port = false ∨ s.net.linkUp.getD port false = true ∨
        s.cfgN recNetwork (fieldNo (4 + port) 1) ≠ 2) →
      exec (.autonegTimeout port) s = .next s)) ∧
  (∀ (port : Nat) (s : State),
    (port < 2 → s.portOn port = true → s.net.linkUp.getD port false = true → s.hasCak port = true → s.net.mkaSent.length = 2 →
      Answers (.mkaHello port) s fun t =>
        t.net.mkaSent.getD port 0 = satAdd 0xFFFFFFFF (s.net.mkaSent.getD port 0) 1 ∧ Only [.net] s t) ∧
    ((2 ≤ port ∨ s.portOn port = false ∨ s.net.linkUp.getD port false = false ∨ s.hasCak port = false) →
      exec (.mkaHello port) s = .next s)) ∧
  (∀ (port sci priority : Nat) (ack : Bool) (sak : Option (Nat × Nat × List Byte)) (pdu icv : List Byte) (s : State),
    ((2 ≤ port ∨ s.portOn port = false ∨ s.hasCak port = false) →
      exec (.mkaPdu port sci priority ack sak pdu icv) s = .next s) ∧
    (port < 2 → s.portOn port = true → s.hasCak port = true → (∀ n, n ∈ s.cakNums → s.icvOk n pdu icv = false) →
      Answers (.mkaPdu port sci priority ack sak pdu icv) s fun t => t.net = (s.rxFrame port).net ∧ Only [.net] s t)) ∧
  (∀ (port sci priority num : Nat) (pdu icv : List Byte) (ps : List (Nat × Nat × Nat)) (u s : State), port < 2 →
    s.portOn port = true → s.hasCak port = true → s.crypt.sas.length = 8 → s.net.peers.length = 2 → s.net.an.length = 2 →
    s.net.sakChange.length = 2 → s.net.stats.length = 6 → s.cakNums.find? (fun n => s.icvOk n pdu icv) = some num →
    ps = (sci, priority, s.now) :: (s.peersOf port).filter (fun p => p.1 != sci) →
    u = s.modNet (fun n => { n with peers := n.peers.set port ps }) →
    (((s.peersOf port).any fun p => p.1 == sci) = true → Answers (.mkaPdu port sci priority false none pdu icv) s fun t =>
      t.peersOf port = ps ∧ t.net.an = s.net.an ∧ t.net.sakChange = s.net.sakChange ∧ Only [.net] s t) ∧
    (((s.peersOf port).any fun p => p.1 == sci) = true → s.net.sakChange.getD port false = true →
      Answers (.mkaPdu port sci priority true none pdu icv) s fun t =>
        t.portAn port = (s.portAn port + 1) % 4 ∧ t.net.sakChange.getD port false = false ∧ t.net.cakNum = num ∧
        (t.sa (txChannel port (s.portAn port + 1))).key = (s.sa (rxChannel port (s.portAn port + 1))).key ∧
        (t.sa (txChannel port (s.portAn port + 1))).next = 1 ∧ Only [.net, .crypt, .evc] s t) ∧
    (∀ an suite wrapped key, ((s.peersOf port).any fun p => p.1 == sci) = true → u.keyServer port = false →
      s.unwrapSak num wrapped = some key →
      Answers (.mkaPdu port sci priority false (some (an, suite, wrapped)) pdu icv) s fun t =>
        t.sa (rxChannel port an) = newSa key suite ∧ t.sa (txChannel port an) = newSa key suite ∧
        t.portAn port = an % 4 ∧ t.net.cakNum = num ∧ t.net.sakChange.getD port false = false ∧
        Only [.net, .crypt, .evc] s t) ∧
    (((s.peersOf port).any fun p => p.1 == sci) = false → u.keyServer port = true →
      s.net.sakChange.getD port false = false → Answers (.mkaPdu port sci priority false none pdu icv) s fun t =>
        t.net.sakChange.getD port false = true ∧ t.portAn port = s.portAn port ∧
        (t.sa (rxChannel port (s.portAn port + 1))).installed = true ∧
        (t.sa (rxChannel port (s.portAn port + 1))).next = 1 ∧ Only [.net, .crypt, .free] s t)) ∧
  (∀ (port : Nat) (live : List (Nat × Nat × Nat)) (s : State),
    live = (s.peersOf port).filter (fun p => decide (s.now < p.2.2 + 6000000000)) →
    ((2 ≤ port ∨ live.length = (s.peersOf port).length) → exec (.mkaLifeExpiry port) s = .next s) ∧
    (port < 2 → live.length ≠ (s.peersOf port).length → s.crypt.sas.length = 8 → Answers (.mkaLifeExpiry port) s fun t =>
      t.peersOf port = live ∧
      (live = [] → (∀ k, k < 4 → t.sa (4 * port + k) = {}) ∧ t.net.sakChange.getD port false = false) ∧
      Only [.net, .crypt, .free] s t)) ∧
  (∀ (port : Nat) (s : State),
    (port < 2 → s.portOn port = true → s.net.mgmtOff.getD port false = false →
      Answers (.duplicateAddressDetected port) s fun t =>
        t.net = { s.net with mgmtOff := s.net.mgmtOff.set port true } ∧ Only [.net, .ledger, .evc, .free] s t) ∧
    ((2 ≤ port ∨ s.portOn port = false ∨ s.net.mgmtOff.getD port false = true) →
      exec (.duplicateAddressDetected port) s = .next s)) ∧
  (∀ (port : Nat) (prot : Bool) (data : List Byte) (s : State),
    (s.portOn port = false → exec (.echoRequest port prot data) s = .next s ∧
      exec (.neighbourSolicitation port prot) s = .next s) ∧
    (s.portOn port = true → s.takes port prot = true → s.net.stats.length = 6 →
      (Answers (.echoRequest port prot data) s fun t =>
        (t.net.stats.getD port {}).rx = satAdd 0xFFFFFFFF (s.net.stats.getD port {}).rx 1 ∧
        (t.net.stats.getD port {}).tx = satAdd 0xFFFFFFFF (s.net.stats.getD port {}).tx 1 ∧
        t.net.txFrames = data :: s.net.txFrames ∧ Only [.net] s t) ∧
      (Answers (.neighbourSolicitation port prot) s fun t =>
        (t.net.stats.getD port {}).rx = satAdd 0xFFFFFFFF (s.net.stats.getD port {}).rx 1 ∧
        (t.net.stats.getD port {}).tx = satAdd 0xFFFFFFFF (s.net.stats.getD port {}).tx 1 ∧ Only [.net] s t)) ∧
    (s.portOn port = true → s.takes port prot = false → s.net.stats.length = 6 →
      (Answers (.echoRequest port prot data) s fun t =>
        (t.net.stats.getD port {}).discarded = satAdd 0xFFFFFFFF (s.net.stats.getD port {}).discarded 1 ∧
        t.net.txFrames = s.net.txFrames ∧ Only [.net] s t) ∧
      (Answers (.neighbourSolicitation port prot) s fun t =>
        (t.net.stats.getD port {}).discarded = satAdd 0xFFFFFFFF (s.net.stats.getD port {}).discarded 1 ∧
        t.net.txFrames = s.net.txFrames ∧ Only [.net] s t))) ∧
  (∀ (seg : Nat) (s : State),
    (s.segOn seg = true → (∀ t0, s.net.clash.getD seg none = some t0 → t0 + 10000000000 ≤ s.now) →
      Answers (.nodeIdClash seg) s fun t => t.net = { s.net with clash := s.net.clash.set seg (some s.now) } ∧
        Only [.net, .ledger, .evc, .free] s t) ∧
    ((s.segOn seg = false ∨ ∃ t0, s.net.clash.getD seg none = some t0 ∧ s.now < t0 + 10000000000) →
      exec (.nodeIdClash seg) s = .next s)) ∧
  (∀ (seg : Nat) (frame : List Byte) (s : State),
    (s.segOn seg = false → exec (.announceFrame seg frame) s = .next s ∧ exec (.segmentResponse seg frame) s = .next s ∧
      exec (.segmentData seg frame) s = .next s) ∧
    (s.segOn seg = true → nodeHeader 1 frame = none → Answers (.announceFrame seg frame) s fun t =>
      t.net = ((s.rxFrame (2 + seg)).dropFrame (2 + seg)).net ∧ Only [.net] s t) ∧
    (s.segOn seg = true → nodeHeader 3 frame = none → Answers (.segmentResponse seg frame) s fun t =>
      t.net = ((s.rxFrame (2 + seg)).dropFrame (2 + seg)).net ∧ Only [.net] s t) ∧
    (s.segOn seg = true → nodeHeader 16 frame = none → Answers (.segmentData seg frame) s fun t =>
      t.net = ((s.rxFrame (2 + seg)).dropFrame (2 + seg)).net ∧ Only [.net] s t)) ∧
  (∀ (seg node ident code : Nat) (frame : List Byte) (locked : Bool) (u s : State), s.segOn seg = true →
    nodeHeader 1 frame = some (node, ident) → frame.length = 24 → code = nodeCode seg node →
    (s.rxFrame (2 + seg)).nodeLocked code ident = (locked, u) →
    ((locked = true ∨ u.rec? ident = none ∨
        ∃ r, u.rec? ident = some r ∧ (r.state = .candidate ∨ r.kind ≠ 3 ∨ r.attach ≠ code)) →
      Answers (.announceFrame seg frame) s fun t => t.net = (s.rxFrame (2 + seg)).net ∧
        Only [.net, .parts, .ledger, .evc] s t) ∧
    (∀ r, locked = false → u.rec? ident = some r → r.state ≠ .candidate → r.kind = 3 → r.attach = code →
      s.crypt.sealed = true → Answers (.announceFrame seg frame) s fun t =>
        t.net.sealedFrames = s.net.sealedFrames ++ [(1, seg, frame, s.now)] ∧ t.net.nodes = s.net.nodes ∧
        Only [.net, .parts, .ledger, .evc] s t) ∧
    (∀ r key, locked = false → u.rec? ident = some r → r.state ≠ .candidate → r.kind = 3 → r.attach = code →
      s.crypt.sealed = false → u.partnerKey r 0x0301 128 = some key →
      (nodeMac key (frame.take 16) = slice frame 16 8 → Answers (.announceFrame seg frame) s fun t =>
        (t.node code).challenge = some (s.freeVal % 2 ^ 96, s.now) ∧ (t.node code).identity = r.identity ∧
        t.net.txFrames = challengeFrame code (s.freeVal % 2 ^ 96) :: s.net.txFrames ∧
        Only [.net, .parts, .ledger, .evc, .free] s t) ∧
      (nodeMac key (frame.take 16) ≠ slice frame 16 8 → Answers (.announceFrame seg frame) s fun t =>
        t.net = (s.rxFrame (2 + seg)).net ∧ t.parts = (u.countFailure 3 1 r.identity (some code)).parts ∧
        Only [.net, .parts, .ledger, .evc] s t))) ∧
  (∀ (q : Nat × PartRec) (u s : State),
    (s.parts.table.filter (fun p => s.checkDue p.2) = [] → exec .nodeCheck s = .next s) ∧
    (s.parts.table.filter (fun p => s.checkDue p.2) = [q] → s.nodeLocked q.2.attach q.2.identity = (true, u) →
      exec .nodeCheck s = .next u) ∧
    (s.parts.table.filter (fun p => s.checkDue p.2) = [q] → s.nodeLocked q.2.attach q.2.identity = (false, u) →
      Answers .nodeCheck s fun t =>
        (t.node q.2.attach).challenge = some (s.freeVal % 2 ^ 96, s.now) ∧ (t.node q.2.attach).expected = true ∧
        (t.node q.2.attach).lastCheck = s.now ∧ (∀ c, c ≠ q.2.attach → t.node c = s.node c) ∧ t.parts = u.parts ∧
        Only [.net, .free, .parts, .ledger, .evc] s t)) ∧
  (∀ (seg node ident code : Nat) (frame : List Byte) (s : State), s.segOn seg = true →
    nodeHeader 3 frame = some (node, ident) → code = nodeCode seg node →
    (((s.node code).challenge = none ∨ ∃ c t0, (s.node code).challenge = some (c, t0) ∧ t0 + 10000000 < s.now) →
      Answers (.segmentResponse seg frame) s fun t => t.net = (s.rxFrame (2 + seg)).net ∧ Only [.net] s t) ∧
    (∀ c t0 key, (s.node code).challenge = some (c, t0) → s.now ≤ t0 + 10000000 → (s.node code).identity = ident →
      frame.length = 20 → s.crypt.sealed = false → s.nodeKey (s.node code) = some key →
      (nodeMac key (beBytes 12 c ++ frame.take 12) = slice frame 12 8 → (s.node code).enrolling = false →
        Answers (.segmentResponse seg frame) s fun t => (t.node code).opened = true ∧ (t.node code).seq = 0 ∧
          (t.node code).challenge = none ∧ (t.node code).bind = (s.node code).cbind ∧
          (∀ d, d ≠ code → t.node d = s.node d) ∧
          t.parts = (s.verifiedExchange ident).parts ∧ Only [.net, .parts, .ledger, .evc, .keys] s t) ∧
      (nodeMac key (beBytes 12 c ++ frame.take 12) ≠ slice frame 12 8 → Answers (.segmentResponse seg frame) s fun t =>
        (t.node code).challenge = none ∧ (t.node code).opened = (s.node code).opened ∧
        Only [.net, .parts, .ledger, .evc, .keys] s t))) ∧
  (∀ (code : Nat) (s : State),
    (((s.node code).challenge = none ∨ s.responseHeld code = true ∨
        ∃ c t0, (s.node code).challenge = some (c, t0) ∧ s.now ≤ t0 + 10000000) →
      exec (.segmentResponseMiss code) s = .next s) ∧
    (∀ c t0, (s.node code).challenge = some (c, t0) → t0 + 10000000 < s.now → s.responseHeld code = false →
      Answers (.segmentResponseMiss code) s fun t =>
      t.node code = { s.node code with challenge := none, cbind := none } ∧ (∀ d, d ≠ code → t.node d = s.node d) ∧
      ((s.node code).expected = false → Only [.net, .keys] s t) ∧ Only [.net, .parts, .ledger, .evc, .keys] s t)) ∧
  (∀ s : State, s.parts.enrol = none → exec .enrolChallengeRetry s = .next s) ∧
  (∀ (e : Enrolment) (u s : State), s.parts.enrol = some e →
    ((roleKind e.role ≠ 3 ∨ (s.node e.attach).enrolling = false ∨ (s.node e.attach).challenge ≠ none ∨
      s.now < e.sentNs + 1000000000) → exec .enrolChallengeRetry s = .next s) ∧
    (roleKind e.role = 3 → (s.node e.attach).enrolling = true → (s.node e.attach).challenge = none →
      e.sentNs + 1000000000 ≤ s.now → s.enrolLocked e = (false, u) → Answers .enrolChallengeRetry s fun t =>
        t.parts = { u.parts with enrol := some { e with sentNs := s.now } } ∧
        (t.node e.attach).challenge = some (s.freeVal % 2 ^ 96, s.now) ∧
        Only [.parts, .net, .free, .ledger, .evc] s t)) ∧
  (∀ (seg node ident code seq : Nat) (b : Binding) (frame key : List Byte) (r : PartRec) (u s : State), s.segOn seg = true →
    nodeHeader 16 frame = some (node, ident) → 24 ≤ frame.length → frame.length ≤ 1484 → code = nodeCode seg node →
    seq = uAt frame 12 4 → (s.rxFrame (2 + seg)).nodeLocked code ident = (false, u) →
    ((s.node code).opened = false → Answers (.segmentData seg frame) s fun t =>
      t.net = (s.rxFrame (2 + seg)).net ∧ t.parts = u.parts) ∧
    ((s.node code).opened = true → (s.node code).identity = ident → u.rec? ident = some r → r.kind = 3 → r.attach = code →
      r.state = .enrolled → s.crypt.sealed = false → (s.node code).bind = some b → s.boundKey ident b = some key →
      (nodeMac key (frame.take (frame.length - 8)) = frame.drop (frame.length - 8) → (s.node code).seq < seq →
        Answers (.segmentData seg frame) s fun t => t.node code = { s.node code with seq := seq } ∧
          t.net.dataOut = (code, (frame.take (frame.length - 8)).drop 16) :: s.net.dataOut ∧ t.parts = u.parts) ∧
      (nodeMac key (frame.take (frame.length - 8)) = frame.drop (frame.length - 8) → seq ≤ (s.node code).seq →
        Answers (.segmentData seg frame) s fun t => t.net.dataOut = s.net.dataOut ∧ t.net.nodes = s.net.nodes ∧
          t.parts = u.parts) ∧
      (nodeMac key (frame.take (frame.length - 8)) ≠ frame.drop (frame.length - 8) →
        Answers (.segmentData seg frame) s fun t => t.net = (s.rxFrame (2 + seg)).net ∧
          t.parts = (u.countFailure 3 0x10 ident (some code)).parts)))

/-- R516 to R523 and R560 to R566. -/
def Obligations.TamperAndBoundaryScan : Prop :=
  (∀ (n : Nat) (s : State),
    ((s.tamperServed = false ∨ 4 ≤ n ∨ s.tamperEn n = false ∨ (s.tamper.asserted.getD n none).isSome = true) →
      exec (.tamperAssertion n) s = .next s) ∧
    (s.tamperServed = true → n < 4 → s.tamperEn n = true → s.tamper.asserted.getD n none = none →
      s.tamper.asserted.length = 4 → s.crypt.chans.length = 32 → Answers (.tamperAssertion n) s fun t =>
        t.tamper.asserted = s.tamper.asserted.set n (some s.now) ∧ t.tamper.confirmed = s.tamper.confirmed.set n false ∧
        t.tamper.quietSince = none ∧ t.tamper.latch = s.tamper.latch ∧ t.tamperClear = false ∧
        t.crypt.sealed = true ∧ t.crypt.selfTest = true ∧ t.crypt.wakeKey = [] ∧ t.crypt.wrapKey = [] ∧
        t.crypt.cmpw.key = [] ∧ (∀ c, (t.chan c).susp = none) ∧
        (∀ c m, (t.chan c).cur = some m → m.ended = some Status.keyRevoked ∧ m.key = []) ∧
        t.rel.latch = s.rel.latch ∧ t.rel.st = s.rel.st ∧ t.boot = s.boot)) ∧
  (∀ (n : Nat) (s : State),
    ((s.tamperServed = false ∨ (n ≠ 4 ∧ s.tamper.asserted.getD n none = none) ∨ (n = 4 ∧ s.tamper.meshFails = 0)) →
      exec (.tamperQuiet n) s = .next s.evalDecision) ∧
    (s.tamperServed = true → n ≠ 4 → s.tamper.asserted.getD n none ≠ none → Answers (.tamperQuiet n) s fun t =>
      t.tamper.asserted = s.tamper.asserted.set n none ∧ t.tamper.latch = s.tamper.latch ∧ t.crypt = s.crypt ∧
      (t.tamperClear = true → s.rel.consent = true → s.rolePlaced .decision = true → s.rolesRun = true →
        t.rel.st ≠ .locked) ∧
      (s.inRun → s.rel.st = .locked → s.rel.consent = false → Only [.tamper, .health, .ledger, .evc, .rel, .free] s t)) ∧
    (s.tamperServed = true → s.tamper.meshFails ≠ 0 → Answers (.tamperQuiet 4) s fun t =>
      t.tamper.meshFails = 0 ∧ t.tamper.meshOk = true ∧ t.tamper.latch = s.tamper.latch ∧ t.crypt = s.crypt)) ∧
  (∀ (passes : Bool) (s : State),
    (s.tamperServed = false → exec (.meshCheck passes) s = .next s) ∧
    (s.tamperServed = true → s.cfgB recTamper 14 = false → exec (.meshCheck passes) s = .next s.evalDecision) ∧
    (s.tamperServed = true → s.cfgB recTamper 14 = true →
      (Answers (.meshCheck true) s fun t => t.tamper.meshFails = 0 ∧ t.tamper.meshOk = true ∧
        t.tamper.latch = s.tamper.latch ∧ t.crypt = s.crypt) ∧
      (Answers (.meshCheck false) s fun t => t.tamper.meshFails = min (s.tamper.meshFails + 1) 17 ∧
        t.tamper.meshOk = false ∧ t.tamperClear = false ∧
        (s.tamper.meshFails = 0 → t.crypt.sealed = true ∧ t.crypt.selfTest = true) ∧
        (s.tamper.meshFails + 1 = s.cfgN recTamper 16 → t.tamper.latch = true) ∧
        (s.tamper.meshFails + 1 ≠ s.cfgN recTamper 16 → t.tamper.latch = s.tamper.latch) ∧
        (s.rel.st = .locked → t.rel.st = .locked)))) ∧
  (∀ (n : Nat) (s : State),
    ((s.tamper.asserted.getD n none = none ∨ s.psc.state = .nunatakHold ∨ s.tamper.confirmed.getD n true = true ∨
        ∃ t0, s.tamper.asserted.getD n none = some t0 ∧ s.now < t0 + 1000000 * s.cfgN recTamper 13) →
      exec (.tamperConfirmed n) s = .next s) ∧
    (∀ t0, s.tamper.asserted.getD n none = some t0 → s.psc.state ≠ .nunatakHold → s.tamper.confirmed.getD n true = false →
      t0 + 1000000 * s.cfgN recTamper 13 ≤ s.now → Answers (.tamperConfirmed n) s fun t =>
        t.tamper.latch = true ∧ t.tamper.confirmed = s.tamper.confirmed.set n true ∧
        t.tamper.asserted = s.tamper.asserted ∧ (s.rel.latch = true → t.rel.latch = true) ∧
        (s.tamperServed = false → Only [.tamper, .boot] s t) ∧
        (s.tamperServed = true → s.cfgB recTamper 17 = true →
          t.tamper.zeroised = true ∧ ∀ k, k < 16 → (t.slot k).loaded = false))) ∧
  (∀ s : State,
    (s.tamper.latch = true → s.allQuiet = true → s.tamper.meshOk = true → s.servicePresent = true → s.rolesRun = true →
      (∃ t0, s.tamper.quietSince = some t0 ∧ t0 + 10000000000 ≤ s.now) → Answers .tamperLatchClear s fun t =>
        t.tamper = { s.tamper with latch := false, zeroised := false }) ∧
    ((s.tamper.latch = false ∨ s.allQuiet = false ∨ s.tamper.meshOk = false ∨ s.servicePresent = false ∨ s.rolesRun = false ∨
        s.tamper.quietSince = none ∨ ∃ t0, s.tamper.quietSince = some t0 ∧ s.now < t0 + 10000000000) →
      exec .tamperLatchClear s = .next s)) ∧
  (∀ (code : Nat) (s : State),
    (s.psc.state = .nunatakHold → exec (.updateIr code) s = .next s) ∧
    (s.psc.state ≠ .nunatakHold → s.testCurrent = false →
      (intrusiveIr (code % 32) = false → Answers (.updateIr code) s fun t =>
        t.jtag.ir = code % 32 ∧ t.jtag.pins = List.replicate 111 none ∧ Only [.jtag] s t) ∧
      (intrusiveIr (code % 32) = true → s.boot.locked = true → s.rel.latch = true → Answers (.updateIr code) s fun t =>
        t.jtag.ir = code % 32 ∧ t.jtag.bypassed = true ∧ t.jtag.pins = List.replicate 111 none ∧ Only [.jtag] s t) ∧
      (intrusiveIr (code % 32) = true → (s.boot.locked = false ∨ s.rel.latch = false) → Answers (.updateIr code) s fun t =>
        t.jtag.ir = code % 32 ∧ t.jtag.bypassed = false ∧ t.boot.phase = .inReset ∧ t.boot.resetCause = 2 ∧
        t.tbu.epoch = s.tbu.epoch ∧ t.rel.latch = s.rel.latch)) ∧
    (s.psc.state ≠ .nunatakHold → s.testCurrent = true → intrusiveIr (code % 32) = false → Answers (.updateIr code) s fun t =>
      t.jtag.ir = code % 32 ∧ t.testCurrent = false ∧ t.boot.phase = .inReset ∧ t.boot.resetCause = 2)) ∧
  (∀ s : State,
    (s.psc.state ≠ .nunatakHold → s.testCurrent = false → Answers .tapReset s fun t => t.jtag.ir = 1 ∧ Only [.jtag] s t) ∧
    exec .tapReset s = exec (.updateIr 1) s) ∧
  (∀ (cells : List Bool) (s : State),
    (s.psc.state ≠ .nunatakHold → cells.length = 111 → s.jtag.ir = irExtest → s.jtag.bypassed = false →
      Answers (.updateDr cells) s fun t => t.jtag.boundary = cells ∧
        t.jtag.pins = chainPins s.boot.locked cells ∧
        (s.boot.locked = true → t.jtag.pins.getD 78 none = some false ∧ t.jtag.pins.getD 80 none = some false) ∧
        Only [.jtag] s t) ∧
    (s.psc.state ≠ .nunatakHold → cells.length = 111 → s.jtag.ir = irSample → Answers (.updateDr cells) s fun t =>
      t.jtag.boundary = cells ∧ t.jtag.pins = List.replicate 111 none ∧ Only [.jtag] s t) ∧
    ((s.psc.state = .nunatakHold ∨ cells.length ≠ 111 ∨ (s.jtag.ir ≠ irSample ∧ s.jtag.ir ≠ irExtest)) →
      exec (.updateDr cells) s = .next s)) ∧
  (∀ (pass : BitVec 64) (vlf vint : Bool) (s : State),
    (s.loopOf irLfloop = true → Answers (.lfloop pass vlf vint) s fun t => ∃ r, t.jtag.lfloop = some r ∧
      (∀ c, c < 64 → r.getLsbD c = pass.getLsbD c) ∧ r.getLsbD 64 = true ∧ r.getLsbD 65 = vlf ∧ r.getLsbD 66 = vint ∧
      t.jtag.ir = s.jtag.ir ∧ Only [.jtag] s t) ∧
    (s.loopOf irLfloop = false → exec (.lfloop pass vlf vint) s = .next s)) ∧
  (∀ (checks : BitVec 6) (dA dB : Nat) (s : State),
    (s.loopOf irRfloop = true → Answers (.rfloop checks dA dB) s fun t => ∃ r, t.jtag.rfloop = some r ∧
      r.getLsbD 0 = true ∧ (∀ c, c < 6 → r.getLsbD (c + 1) = checks.getLsbD c) ∧
      (dA < 2 ^ 16 → (r.extractLsb' 16 16).toNat = dA) ∧ (dB < 2 ^ 16 → (r.extractLsb' 32 16).toNat = dB) ∧
      Only [.jtag] s t) ∧
    (s.loopOf irRfloop = false → exec (.rfloop checks dA dB) s = .next s))

/-- The frame of every row, part by part; the rules that name the parts' registers are cited. -/
def Obligations.FrameOfEveryCommand : Prop :=
  ∀ (c : Instr) (s t : State), exec c s = .next t → Only (mayChange c) s t

/-- The values of R324, R343 to R345, R368 to R370, R391, R392, R412, R438, R440, R502 and R503 after a power-on reset. -/
def Obligations.ResetValues : Prop :=
  Inv State.reset ∧ State.reset.pending = [] ∧
  (State.reset.now = 0 ∧ State.reset.tbu.frac = 0 ∧ State.reset.tbu.running = false ∧ State.reset.tbu.src = .reference ∧
    State.reset.tbu.uAcc = 0 ∧ State.reset.tbu.evt = 0 ∧ State.reset.tbu.evtEn = 0 ∧ State.reset.tbu.uncLimit = 0x2710 ∧
    State.reset.tbu.ppsCtrl = 0x640 ∧ State.reset.tbu.hist = []) ∧
  (∀ n, n < 8 → (State.reset.timer n).ctrl = 0 ∧ (State.reset.timer n).psc = 0x3E8 ∧
    (State.reset.timer n).top = 0xFFFFFFFF ∧ (State.reset.timer n).cnt = 0 ∧ (State.reset.timer n).c0 = 0 ∧
    (State.reset.timer n).c1 = 0 ∧ (State.reset.timer n).late0 = 0 ∧ (State.reset.timer n).late1 = 0 ∧
    (State.reset.timer n).capSrc = 0) ∧
  (∀ m, m < 4 → (State.reset.alarm m).a = 0 ∧ (State.reset.alarm m).armed = false ∧ (State.reset.alarm m).fired = false ∧
    (State.reset.alarm m).late = 0 ∧ (State.reset.pin m).ctrl = 0x10000) ∧
  (∀ g, g < 16 → (State.reset.evc.group g).srcEn = 0 ∧ (State.reset.evc.group g).hostMask = 0 ∧ (State.reset.evc.group g).last = 0xF ∧
    (State.reset.evc.group g).cntThr = 1 ∧ (State.reset.evc.group g).timeUs = 1 ∧ (State.reset.evc.group g).collecting = none ∧
    (State.reset.evc.group g).due = []) ∧
  (∀ k, k < 16 → (State.reset.win k).cfg = 0 ∧ (State.reset.win k).busy = 0 ∧ (State.reset.win k).cfgErr = false) ∧
  (State.reset.mbx.ready = false ∧ (∀ k, k < 8 → (State.reset.box k).st = .free) ∧ State.reset.mbx.dbErr = 0 ∧
    State.reset.mbx.wrErr = 0 ∧ State.reset.mbx.ackErr = 0 ∧ State.reset.mbx.devAddr = 1 ∧ State.reset.mbx.rdWait = 2) ∧
  (State.reset.psc.state = .run ∧ State.reset.psc.powered = 0x3FFF ∧ State.reset.psc.hostSleep = 0 ∧
    State.reset.psc.wakeEn = 0x23BF ∧ State.reset.psc.wakeSrc = 0xFF ∧ State.reset.psc.wakeFrom = 0 ∧
    State.reset.psc.wakeCount = 0 ∧ State.reset.psc.rollbacks = 0 ∧ State.reset.psc.lastVeto = 0xFF) ∧
  (State.reset.pad.frz = 0 ∧ State.reset.pad.rel = 0 ∧ State.reset.pad.gpioDir = 0 ∧ State.reset.pad.gpioOut = 0 ∧
    State.reset.pad.gpioPull = 0x55555555 ∧ State.reset.pad.gpioEdge = 0 ∧ State.reset.pad.gpioWake = 0) ∧
  (State.reset.boot.phase = .inReset ∧ State.reset.boot.resetCause = 0 ∧ State.reset.mem = [])

/-- The invariant holds of every step from every state that has it, not only on the run from reset. -/
def Obligations.EveryStepKeepsInv : Prop := Kept Inv

/-- What no step undoes, over every command and the timebase's own step. -/
def Obligations.NoStepUndoes : Prop := ∀ s t : State, step s = .next t → NotUndone s t
end

