-- ==== Sys2Proof/Laws/Aes.lean ====
section
/-!
SUPPORT. The inverse cipher undoes the cipher, and key unwrap undoes key wrap, and the lengths of tags and
derived keys.
-/
namespace Sys2Proof.Machine.Aes

/-- A list of bytes of a given length, as the cipher's rounds hold them. -/
def Octets (n : Nat) (s : List Nat) : Prop := s.length = n ∧ ∀ x ∈ s, x < 256

/-- Multiplication by x on bytes. -/
def xt (x : BitVec 8) : BitVec 8 := x <<< 1 ^^^ if x.msb then 0x1B else 0

theorem xtime_toNat : ∀ x : BitVec 8, xtime x.toNat = (xt x).toNat := by
  have h : ∀ x : Fin 256, xtime x.val = (xt (BitVec.ofFin x)).toNat := by decide +kernel
  exact fun x => h x.toFin

theorem bxor_left (a b c : BitVec 8) : a ^^^ (b ^^^ c) = b ^^^ (a ^^^ c) := by
  rw [← BitVec.xor_assoc, BitVec.xor_comm a b, BitVec.xor_assoc]

theorem bxor_cancel (a b : BitVec 8) : a ^^^ (a ^^^ b) = b := by
  rw [← BitVec.xor_assoc, BitVec.xor_self, BitVec.zero_xor]

theorem xt_xor (x y : BitVec 8) : xt (x ^^^ y) = xt x ^^^ xt y := by
  unfold xt
  rw [BitVec.shiftLeft_xor_distrib, BitVec.msb_xor]
  cases x.msb <;> cases y.msb <;> simp [BitVec.xor_assoc, BitVec.xor_comm, bxor_left]

theorem sub_lt : ∀ b, sub b < 256 := by
  intro b
  by_cases h : b < 256
  · have k : ∀ x : Fin 256, sub x.val < 256 := by decide +kernel
    exact k ⟨b, h⟩
  · unfold sub
    have : sboxRows.getD (b / 16) [] = [] := by
      rw [List.getD_eq_getElem?_getD, List.getElem?_eq_none]
      · rfl
      · show 16 ≤ b / 16
        omega
    rw [this]; simp

theorem invSub_sub : ∀ b, b < 256 → invSub (sub b) = b := by
  have k : ∀ x : Fin 256, invSub (sub x.val) = x.val := by decide +kernel
  exact fun b h => k ⟨b, h⟩

theorem xtime_lt (a : Nat) (h : a < 256) : xtime a < 256 := by
  have k : ∀ x : Fin 256, xtime x.val < 256 := by decide +kernel
  exact k ⟨a, h⟩

/-- The product of a byte with a constant of the two matrices, in powers of `xt`. -/
theorem gmul_consts (x : BitVec 8) :
    gmul x.toNat 1 = x.toNat ∧ gmul x.toNat 2 = (xt x).toNat ∧ gmul x.toNat 3 = (x ^^^ xt x).toNat ∧
    gmul x.toNat 9 = (x ^^^ xt (xt (xt x))).toNat ∧ gmul x.toNat 11 = (x ^^^ xt x ^^^ xt (xt (xt x))).toNat ∧
    gmul x.toNat 13 = (x ^^^ xt (xt x) ^^^ xt (xt (xt x))).toNat ∧
    gmul x.toNat 14 = (xt x ^^^ xt (xt x) ^^^ xt (xt (xt x))).toNat := by
  have e1 : ∀ a, gmul a 1 = 0 ^^^ a := fun _ => rfl
  have e2 : ∀ a, gmul a 2 = 0 ^^^ xtime a := fun _ => rfl
  have e3 : ∀ a, gmul a 3 = 0 ^^^ a ^^^ xtime a := fun _ => rfl
  have e9 : ∀ a, gmul a 9 = 0 ^^^ a ^^^ xtime (xtime (xtime a)) := fun _ => rfl
  have e11 : ∀ a, gmul a 11 = 0 ^^^ a ^^^ xtime a ^^^ xtime (xtime (xtime a)) := fun _ => rfl
  have e13 : ∀ a, gmul a 13 = 0 ^^^ a ^^^ xtime (xtime a) ^^^ xtime (xtime (xtime a)) := fun _ => rfl
  have e14 : ∀ a, gmul a 14 = 0 ^^^ xtime a ^^^ xtime (xtime a) ^^^ xtime (xtime (xtime a)) := fun _ => rfl
  simp only [e1, e2, e3, e9, e11, e13, e14, Nat.zero_xor, xtime_toNat, BitVec.toNat_xor, and_self]

/-- MixColumns on one column of bytes. -/
theorem mixCol_enc (a b c d : BitVec 8) :
    mixCol [2, 3, 1, 1] [a.toNat, b.toNat, c.toNat, d.toNat] =
      [(xt a ^^^ (b ^^^ xt b) ^^^ c ^^^ d).toNat, (a ^^^ xt b ^^^ (c ^^^ xt c) ^^^ d).toNat,
       (a ^^^ b ^^^ xt c ^^^ (d ^^^ xt d)).toNat, ((a ^^^ xt a) ^^^ b ^^^ c ^^^ xt d).toNat] := by
  have e : ∀ p q r s, mixCol [2, 3, 1, 1] [p, q, r, s] =
      [0 ^^^ gmul p 2 ^^^ gmul q 3 ^^^ gmul r 1 ^^^ gmul s 1, 0 ^^^ gmul p 1 ^^^ gmul q 2 ^^^ gmul r 3 ^^^ gmul s 1,
       0 ^^^ gmul p 1 ^^^ gmul q 1 ^^^ gmul r 2 ^^^ gmul s 3, 0 ^^^ gmul p 3 ^^^ gmul q 1 ^^^ gmul r 1 ^^^ gmul s 2] :=
    fun _ _ _ _ => rfl
  simp only [e, Nat.zero_xor, gmul_consts, BitVec.toNat_xor]

/-- The four products of a byte that InvMixColumns takes, by 9, 11, 13 and 14. -/
def p9 (x : BitVec 8) : BitVec 8 := x ^^^ xt (xt (xt x))
def p11 (x : BitVec 8) : BitVec 8 := x ^^^ xt x ^^^ xt (xt (xt x))
def p13 (x : BitVec 8) : BitVec 8 := x ^^^ xt (xt x) ^^^ xt (xt (xt x))
def p14 (x : BitVec 8) : BitVec 8 := xt x ^^^ xt (xt x) ^^^ xt (xt (xt x))

theorem p9_xor (x y : BitVec 8) : p9 (x ^^^ y) = p9 x ^^^ p9 y := by simp only [p9, xt_xor]; ac_rfl
theorem p11_xor (x y : BitVec 8) : p11 (x ^^^ y) = p11 x ^^^ p11 y := by simp only [p11, xt_xor]; ac_rfl
theorem p13_xor (x y : BitVec 8) : p13 (x ^^^ y) = p13 x ^^^ p13 y := by simp only [p13, xt_xor]; ac_rfl
theorem p14_xor (x y : BitVec 8) : p14 (x ^^^ y) = p14 x ^^^ p14 y := by simp only [p14, xt_xor]; ac_rfl

/-- The product of the two matrices is the unit matrix: its diagonal, and the other three places of a row. -/
theorem unit_diag (x : BitVec 8) : p14 (xt x) ^^^ p11 x ^^^ p13 x ^^^ p9 x ^^^ p9 (xt x) = x := by
  simp only [p9, p11, p13, p14]
  generalize xt (xt (xt (xt x))) = x4
  generalize xt (xt (xt x)) = x3
  generalize xt (xt x) = x2
  generalize xt x = x1
  simp [BitVec.xor_assoc, BitVec.xor_comm, bxor_left, bxor_cancel]

theorem unit_next (x : BitVec 8) : p14 x ^^^ p14 (xt x) ^^^ p11 (xt x) ^^^ p13 x ^^^ p9 x = 0 := by
  simp only [p9, p11, p13, p14]
  generalize xt (xt (xt (xt x))) = x4
  generalize xt (xt (xt x)) = x3
  generalize xt (xt x) = x2
  generalize xt x = x1
  simp [BitVec.xor_assoc, BitVec.xor_comm, bxor_left, bxor_cancel]

theorem unit_over (x : BitVec 8) : p14 x ^^^ p11 x ^^^ p11 (xt x) ^^^ p13 (xt x) ^^^ p9 x = 0 := by
  simp only [p9, p11, p13, p14]
  generalize xt (xt (xt (xt x))) = x4
  generalize xt (xt (xt x)) = x3
  generalize xt (xt x) = x2
  generalize xt x = x1
  simp [BitVec.xor_assoc, BitVec.xor_comm, bxor_left, bxor_cancel]

theorem unit_last (x : BitVec 8) : p14 x ^^^ p11 x ^^^ p13 x ^^^ p13 (xt x) ^^^ p9 (xt x) = 0 := by
  simp only [p9, p11, p13, p14]
  generalize xt (xt (xt (xt x))) = x4
  generalize xt (xt (xt x)) = x3
  generalize xt (xt x) = x2
  generalize xt x = x1
  simp [BitVec.xor_assoc, BitVec.xor_comm, bxor_left, bxor_cancel]

/-- One row of the product of the matrices. -/
theorem unit_row (a b c d : BitVec 8) :
    p14 (xt a ^^^ (b ^^^ xt b) ^^^ c ^^^ d) ^^^ p11 (a ^^^ xt b ^^^ (c ^^^ xt c) ^^^ d) ^^^
      p13 (a ^^^ b ^^^ xt c ^^^ (d ^^^ xt d)) ^^^ p9 ((a ^^^ xt a) ^^^ b ^^^ c ^^^ xt d) = a := by
  simp only [p9_xor, p11_xor, p13_xor, p14_xor]
  refine Eq.trans (b := (p14 (xt a) ^^^ p11 a ^^^ p13 a ^^^ p9 a ^^^ p9 (xt a)) ^^^
    (p14 b ^^^ p14 (xt b) ^^^ p11 (xt b) ^^^ p13 b ^^^ p9 b) ^^^ (p14 c ^^^ p11 c ^^^ p11 (xt c) ^^^ p13 (xt c) ^^^ p9 c) ^^^
    (p14 d ^^^ p11 d ^^^ p13 d ^^^ p13 (xt d) ^^^ p9 (xt d))) (by ac_rfl) ?_
  rw [unit_diag, unit_next, unit_over, unit_last]
  simp

/-- InvMixColumns undoes MixColumns on a column of bytes. -/
theorem mixCol_mixCol (a b c d : BitVec 8) :
    mixCol [14, 11, 13, 9] (mixCol [2, 3, 1, 1] [a.toNat, b.toNat, c.toNat, d.toNat]) =
      [a.toNat, b.toNat, c.toNat, d.toNat] := by
  have e : ∀ p q r s, mixCol [14, 11, 13, 9] [p, q, r, s] =
      [0 ^^^ gmul p 14 ^^^ gmul q 11 ^^^ gmul r 13 ^^^ gmul s 9, 0 ^^^ gmul p 9 ^^^ gmul q 14 ^^^ gmul r 11 ^^^ gmul s 13,
       0 ^^^ gmul p 13 ^^^ gmul q 9 ^^^ gmul r 14 ^^^ gmul s 11, 0 ^^^ gmul p 11 ^^^ gmul q 13 ^^^ gmul r 9 ^^^ gmul s 14] :=
    fun _ _ _ _ => rfl
  have e9 : ∀ x : BitVec 8, gmul x.toNat 9 = (p9 x).toNat := fun x => (gmul_consts x).2.2.2.1
  have e11 : ∀ x : BitVec 8, gmul x.toNat 11 = (p11 x).toNat := fun x => (gmul_consts x).2.2.2.2.1
  have e13 : ∀ x : BitVec 8, gmul x.toNat 13 = (p13 x).toNat := fun x => (gmul_consts x).2.2.2.2.2.1
  have e14 : ∀ x : BitVec 8, gmul x.toNat 14 = (p14 x).toNat := fun x => (gmul_consts x).2.2.2.2.2.2
  rw [mixCol_enc, e]
  simp only [Nat.zero_xor, e9, e11, e13, e14, ← BitVec.toNat_xor]
  have h : ∀ p q r s p' q' r' s' : BitVec 8, p = p' → q = q' → r = r' → s = s' →
      [p.toNat, q.toNat, r.toNat, s.toNat] = [p'.toNat, q'.toNat, r'.toNat, s'.toNat] := by
    rintro _ _ _ _ _ _ _ _ rfl rfl rfl rfl; rfl
  apply h
  · exact unit_row a b c d
  · refine Eq.trans ?_ (unit_row b c d a)
    simp only [p9_xor, p11_xor, p13_xor, p14_xor]; ac_rfl
  · refine Eq.trans ?_ (unit_row c d a b)
    simp only [p9_xor, p11_xor, p13_xor, p14_xor]; ac_rfl
  · refine Eq.trans ?_ (unit_row d a b c)
    simp only [p9_xor, p11_xor, p13_xor, p14_xor]; ac_rfl

/-! ### One block -/

/-- Sixteen bytes, as the rounds hold them. -/
def Block (s : List Nat) : Prop := s.length = 16 ∧ ∀ x ∈ s, x < 256

theorem Block.cols {s : List Nat} (h : Block s) : ∃ a b c d e f g i j k l m n o p q : BitVec 8,
    s = [a.toNat, b.toNat, c.toNat, d.toNat] ++ ([e.toNat, f.toNat, g.toNat, i.toNat] ++
      ([j.toNat, k.toNat, l.toNat, m.toNat] ++ [n.toNat, o.toNat, p.toNat, q.toNat])) := by
  obtain ⟨hl, hb⟩ := h
  match s, hl, hb with
  | [a, b, c, d, e, f, g, i, j, k, l, m, n, o, p, q], _, hb =>
    simp only [List.mem_cons, List.not_mem_nil, or_false, forall_eq_or_imp, forall_eq] at hb
    obtain ⟨ha, hb, hc, hd, he, hf, hg, hi, hj, hk, hl, hm, hn, ho, hp, hq⟩ := hb
    refine ⟨BitVec.ofNat 8 a, BitVec.ofNat 8 b, BitVec.ofNat 8 c, BitVec.ofNat 8 d, BitVec.ofNat 8 e, BitVec.ofNat 8 f,
      BitVec.ofNat 8 g, BitVec.ofNat 8 i, BitVec.ofNat 8 j, BitVec.ofNat 8 k, BitVec.ofNat 8 l, BitVec.ofNat 8 m,
      BitVec.ofNat 8 n, BitVec.ofNat 8 o, BitVec.ofNat 8 p, BitVec.ofNat 8 q, ?_⟩
    simp only [BitVec.toNat_ofNat, Nat.reducePow, Nat.mod_eq_of_lt, ha, hb, hc, hd, he, hf, hg, hi, hj, hk, hl, hm, hn, ho,
      hp, hq, List.cons_append, List.nil_append]

theorem mixWith_cols (m : List Nat) (a b c d e f g i j k l n o p q r : Nat) :
    mixWith m ([a, b, c, d] ++ ([e, f, g, i] ++ ([j, k, l, n] ++ [o, p, q, r]))) =
      mixCol m [a, b, c, d] ++ (mixCol m [e, f, g, i] ++ (mixCol m [j, k, l, n] ++ (mixCol m [o, p, q, r] ++ []))) := rfl

/-- InvMixColumns undoes MixColumns. -/
theorem mixWith_mixWith {s : List Nat} (h : Block s) : mixWith [14, 11, 13, 9] (mixWith [2, 3, 1, 1] s) = s := by
  obtain ⟨a, b, c, d, e, f, g, i, j, k, l, m, n, o, p, q, rfl⟩ := h.cols
  rw [mixWith_cols, List.append_nil, mixCol_enc a, mixCol_enc e, mixCol_enc j, mixCol_enc n, mixWith_cols, ← mixCol_enc a,
    ← mixCol_enc e, ← mixCol_enc j, ← mixCol_enc n]
  simp only [mixCol_mixCol, List.append_nil]

theorem mixWith_block {s : List Nat} (h : Block s) : Block (mixWith [2, 3, 1, 1] s) := by
  obtain ⟨a, b, c, d, e, f, g, i, j, k, l, m, n, o, p, q, rfl⟩ := h.cols
  rw [mixWith_cols, List.append_nil, mixCol_enc a, mixCol_enc e, mixCol_enc j, mixCol_enc n]
  refine ⟨rfl, ?_⟩
  intro x hx
  simp only [List.cons_append, List.nil_append, List.mem_cons, List.not_mem_nil, or_false] at hx
  rcases hx with h | h | h | h | h | h | h | h | h | h | h | h | h | h | h | h <;> (rw [h]; exact BitVec.isLt _)

/-- SubBytes and ShiftRows of a round. -/
def subShift (s : List Nat) : List Nat := shiftRows (s.map sub)

theorem subShift_block {s : List Nat} (h : Block s) : Block (subShift s) := by
  obtain ⟨hl, -⟩ := h
  match s, hl with
  | [a, b, c, d, e, f, g, i, j, k, l, m, n, o, p, q], _ =>
    refine ⟨rfl, ?_⟩
    intro x hx
    simp only [subShift, shiftRows, List.mem_map] at hx
    obtain ⟨y, -, rfl⟩ := hx
    rw [List.getD_eq_getElem?_getD, List.getElem?_map]
    cases h : [a, b, c, d, e, f, g, i, j, k, l, m, n, o, p, q][(y + 4 * (y % 4)) % 16]? with
    | none => simp
    | some z => simpa using sub_lt z

/-- InvShiftRows and InvSubBytes undo them. -/
theorem subShift_undone {s : List Nat} (h : Block s) : (invShiftRows (subShift s)).map invSub = s := by
  obtain ⟨hl, hb⟩ := h
  match s, hl, hb with
  | [a, b, c, d, e, f, g, i, j, k, l, m, n, o, p, q], _, hb =>
    have e : invShiftRows (subShift [a, b, c, d, e, f, g, i, j, k, l, m, n, o, p, q]) =
        [sub a, sub b, sub c, sub d, sub e, sub f, sub g, sub i, sub j, sub k, sub l, sub m, sub n, sub o, sub p, sub q] := rfl
    rw [e]
    simp only [List.mem_cons, List.not_mem_nil, or_false, forall_eq_or_imp, forall_eq] at hb
    obtain ⟨ha, hb, hc, hd, he, hf, hg, hi, hj, hk, hl, hm, hn, ho, hp, hq⟩ := hb
    simp only [List.map_cons, List.map_nil, invSub_sub, ha, hb, hc, hd, he, hf, hg, hi, hj, hk, hl, hm, hn, ho, hp, hq]

theorem addKey_addKey {s k : List Nat} (h : s.length ≤ k.length) : addKey (addKey s k) k = s := by
  induction s generalizing k with
  | nil => simp [addKey]
  | cons x xs ih =>
    cases k with
    | nil => simp at h
    | cons y ys =>
      have := ih (k := ys) (by simpa using h)
      simp only [addKey, List.zipWith_cons_cons] at this ⊢
      rw [this, Nat.xor_assoc, Nat.xor_self, Nat.xor_zero]

theorem addKey_block {s k : List Nat} (h : Block s) (hk : Block k) : Block (addKey s k) := by
  refine ⟨by simp [addKey, h.1, hk.1], ?_⟩
  intro x hx
  simp only [addKey, List.mem_iff_getElem, List.length_zipWith, List.getElem_zipWith] at hx
  obtain ⟨i, hi, rfl⟩ := hx
  exact Nat.xor_lt_two_pow (n := 8) (h.2 _ (List.getElem_mem _)) (hk.2 _ (List.getElem_mem _))

/-- A middle round, and its inverse. -/
def round (s k : List Nat) : List Nat := addKey (mixWith [2, 3, 1, 1] (subShift s)) k
def invRound (s k : List Nat) : List Nat := mixWith [14, 11, 13, 9] (addKey ((invShiftRows s).map invSub) k)

theorem round_block {s k : List Nat} (h : Block s) (hk : Block k) : Block (round s k) :=
  addKey_block (mixWith_block (subShift_block h)) hk

theorem rounds_block {ks : List (List Nat)} : ∀ {s}, Block s → (∀ k ∈ ks, Block k) → Block (ks.foldl round s) := by
  induction ks with
  | nil => exact fun h _ => h
  | cons k ks ih => exact fun h hk => ih (round_block h (hk k (by simp))) fun x hx => hk x (by simp [hx])

/-- The middle rounds undone, last first. -/
theorem rounds_undone {ks : List (List Nat)} : ∀ {s}, Block s → (∀ k ∈ ks, Block k) →
    ks.reverse.foldl invRound (subShift (ks.foldl round s)) = subShift s := by
  induction ks with
  | nil => exact fun _ _ => rfl
  | cons k ks ih =>
    intro s h hk
    have hk0 := hk k (by simp)
    rw [List.reverse_cons, List.foldl_append]
    simp only [List.foldl_cons, List.foldl_nil]
    rw [ih (round_block h hk0) fun x hx => hk x (by simp [hx]), invRound, subShift_undone (round_block h hk0), round, addKey_addKey, mixWith_mixWith (subShift_block h)]
    exact Nat.le_of_eq ((mixWith_block (subShift_block h)).1.trans hk0.1.symm)

theorem toNat_ofNat_block {s : List Nat} (h : Block s) : (s.map (BitVec.ofNat 8)).map (·.toNat) = s := by
  rw [List.map_map]
  conv => rhs; rw [← List.map_id s]
  apply List.map_congr_left
  intro x hx
  simp only [Function.comp, BitVec.toNat_ofNat, id]
  exact Nat.mod_eq_of_lt (h.2 x hx)

theorem bytes_block {b : List Byte} (h : b.length = 16) : Block (b.map (·.toNat)) := by
  refine ⟨by simpa using h, ?_⟩
  intro x hx
  obtain ⟨y, -, rfl⟩ := List.mem_map.mp hx
  exact y.isLt

theorem ofNat_toNat_bytes (b : List Byte) : (b.map (·.toNat)).map (BitVec.ofNat 8) = b := by
  rw [List.map_map]
  conv => rhs; rw [← List.map_id b]
  apply List.map_congr_left
  intro x _
  simp

/-- The inverse cipher undoes the cipher, whatever the round keys. -/
theorem decBlock_encBlock' {key blk : List Byte} {k0 kl : List Nat} {ms : List (List Nat)}
    (hs : schedule key = k0 :: (ms ++ [kl])) (h0 : Block k0) (hl : Block kl) (hm : ∀ k ∈ ms, Block k) (h : blk.length = 16) :
    decBlock key (encBlock key blk) = blk := by
  have hr : (schedule key).reverse = kl :: (ms.reverse ++ [k0]) := by rw [hs]; simp
  have hb := addKey_block (bytes_block h) h0
  have hmid := rounds_block hb hm
  have e : encBlock key blk = (addKey (subShift (ms.foldl round (addKey (blk.map (·.toNat)) k0))) kl).map (BitVec.ofNat 8) := by
    simp only [encBlock, hs, List.dropLast_concat, List.getLast?_concat, Option.getD_some]
    rfl
  rw [e, decBlock, hr]
  simp only [List.dropLast_concat, List.getLast?_concat, Option.getD_some]
  rw [toNat_ofNat_block (addKey_block (subShift_block hmid) hl), addKey_addKey (Nat.le_of_eq ((subShift_block hmid).1.trans hl.1.symm))]
  have := rounds_undone hb hm
  unfold invRound at this
  rw [this, subShift_undone hb, addKey_addKey (Nat.le_of_eq ((bytes_block h).1.trans h0.1.symm)), ofNat_toNat_bytes]

/-! ### The key schedule -/

/-- A word of the key schedule: four bytes. -/
def Word4 (w : List Nat) : Prop := w.length = 4 ∧ ∀ x ∈ w, x < 256

theorem Word4.split {w : List Nat} (h : Word4 w) : ∃ a b c d, w = [a, b, c, d] ∧ a < 256 ∧ b < 256 ∧ c < 256 ∧ d < 256 := by
  obtain ⟨hl, hb⟩ := h
  match w, hl, hb with
  | [a, b, c, d], _, hb =>
    simp only [List.mem_cons, List.not_mem_nil, or_false, forall_eq_or_imp, forall_eq] at hb
    exact ⟨a, b, c, d, rfl, hb⟩

theorem Word4.xor {v w : List Nat} (hv : Word4 v) (hw : Word4 w) : Word4 (List.zipWith (· ^^^ ·) v w) := by
  obtain ⟨a, b, c, d, rfl, ha, hb, hc, hd⟩ := hv.split
  obtain ⟨e, f, g, i, rfl, he, hf, hg, hi⟩ := hw.split
  refine ⟨rfl, ?_⟩
  simp only [List.zipWith_cons_cons, List.zipWith_nil_left, List.mem_cons, List.not_mem_nil, or_false, forall_eq_or_imp, forall_eq]
  exact ⟨Nat.xor_lt_two_pow (n := 8) ha he, Nat.xor_lt_two_pow (n := 8) hb hf, Nat.xor_lt_two_pow (n := 8) hc hg,
    Nat.xor_lt_two_pow (n := 8) hd hi⟩

theorem Word4.subbed {w : List Nat} (h : Word4 w) : Word4 (w.map sub) :=
  ⟨by rw [List.length_map, h.1], fun x hx => by obtain ⟨y, -, rfl⟩ := List.mem_map.mp hx; exact sub_lt y⟩

theorem word4_getD {ws : List (List Nat)} (h : ∀ w ∈ ws, Word4 w) {i : Nat} (hi : i < ws.length) : Word4 (ws.getD i []) := by
  rw [List.getD_eq_getElem?_getD, List.getElem?_eq_getElem hi]
  exact h _ (List.getElem_mem hi)

/-- The schedule's words are words, and it makes as many as it is asked for. -/
theorem expandFrom_words (nk : Nat) (hn : 0 < nk) : ∀ (n : Nat) (ws : List (List Nat)) (rc : Nat), nk ≤ ws.length → rc < 256 →
    (∀ w ∈ ws, Word4 w) →
    (expandFrom nk n ws rc).length = ws.length + n ∧ ∀ w ∈ expandFrom nk n ws rc, Word4 w
  | 0, ws, _, _, _, h => ⟨rfl, h⟩
  | n + 1, ws, rc, hl, hr, h => by
    have hp := word4_getD h (i := ws.length - 1) (by omega)
    have hq := word4_getD h (i := ws.length - nk) (by omega)
    have hw : ∀ t, Word4 t → ∀ r, r < 256 →
        (expandFrom nk n (ws ++ [List.zipWith (· ^^^ ·) (ws.getD (ws.length - nk) []) t]) r).length = ws.length + (n + 1) ∧
        ∀ w ∈ expandFrom nk n (ws ++ [List.zipWith (· ^^^ ·) (ws.getD (ws.length - nk) []) t]) r, Word4 w := by
      intro t ht r hr
      have := expandFrom_words nk hn n (ws ++ [List.zipWith (· ^^^ ·) (ws.getD (ws.length - nk) []) t]) r
        (by simp; omega) hr (by
          intro w hw
          rcases List.mem_append.mp hw with hw | hw
          · exact h w hw
          · rw [List.mem_singleton.mp hw]; exact hq.xor ht)
      refine ⟨by rw [this.1]; simp; omega, this.2⟩
    have hr2 : (if ws.length % nk = 0 then xtime rc else rc) < 256 := by
      split
      · exact xtime_lt rc hr
      · exact hr
    unfold expandFrom
    refine hw _ ?_ _ hr2
    obtain ⟨a, b, c, d, hpe, ha, hb, hc, hd⟩ := hp.split
    rw [hpe]
    split
    · refine ⟨rfl, ?_⟩
      simp only [List.mem_cons, List.not_mem_nil, or_false, forall_eq_or_imp, forall_eq]
      exact ⟨Nat.xor_lt_two_pow (n := 8) (sub_lt b) hr, sub_lt c, sub_lt d, sub_lt a⟩
    · split
      · rw [← hpe]; exact hp.subbed
      · rw [← hpe]; exact hp

theorem groups4_words : ∀ (n : Nat) (bs : List Nat), bs.length = 4 * n → (∀ x ∈ bs, x < 256) →
    (groups4 n bs).length = n ∧ ∀ w ∈ groups4 n bs, Word4 w
  | 0, _, _, _ => ⟨rfl, by simp [groups4]⟩
  | n + 1, bs, hl, hb => by
    have ih := groups4_words n (bs.drop 4) (by simp; omega) fun x hx => hb x (List.mem_of_mem_drop hx)
    refine ⟨by simp [groups4, ih.1], ?_⟩
    intro w hw
    rcases List.mem_cons.mp hw with rfl | hw
    · exact ⟨by simp; omega, fun x hx => hb x (List.mem_of_mem_take hx)⟩
    · exact ih.2 w hw

theorem flatten_words : ∀ (ws : List (List Nat)), (∀ w ∈ ws, Word4 w) →
    ws.flatten.length = 4 * ws.length ∧ ∀ x ∈ ws.flatten, x < 256
  | [], _ => ⟨rfl, by simp⟩
  | w :: ws, h => by
    have ih := flatten_words ws fun x hx => h x (by simp [hx])
    have hw := h w (by simp)
    refine ⟨by simp [ih.1, hw.1]; omega, ?_⟩
    intro x hx
    rw [List.flatten_cons] at hx
    rcases List.mem_append.mp hx with hx | hx
    · exact hw.2 x hx
    · exact ih.2 x hx

/-- The round keys of a key of 4, 6 or 8 words: a first, a last, and blocks between. -/
theorem schedule_keys {key : List Byte} {nk : Nat} (hn : 0 < nk) (hl : key.length = 4 * nk) :
    ∃ k0 ms kl, schedule key = k0 :: (ms ++ [kl]) ∧ Block k0 ∧ Block kl ∧ ∀ k ∈ ms, Block k := by
  have hg := groups4_words nk (key.map (·.toNat)) (by simpa using hl) (by
    intro x hx; obtain ⟨y, -, rfl⟩ := List.mem_map.mp hx; exact y.isLt)
  have hk : key.length / 4 = nk := by omega
  have he := expandFrom_words nk hn (4 * (nk + 6 + 1) - nk) (groups4 nk (key.map (·.toNat))) 1 (by omega) (by decide) hg.2
  have hs : ∀ k ∈ schedule key, Block k := by
    intro k hk'
    simp only [schedule, hk, List.mem_map, List.mem_range] at hk'
    obtain ⟨r, hr, rfl⟩ := hk'
    have h4 := flatten_words (((expandFrom nk (4 * (nk + 6 + 1) - nk) (groups4 nk (key.map (·.toNat))) 1).drop (4 * r)).take 4)
      fun w hw => he.2 w (List.mem_of_mem_drop (List.mem_of_mem_take hw))
    refine ⟨?_, h4.2⟩
    rw [h4.1, List.length_take, List.length_drop, he.1, hg.1]
    omega
  have hlen : (schedule key).length = nk + 7 := by simp [schedule, hk]
  match hS : schedule key, hlen, hs with
  | k0 :: rest, hlen, hs =>
    have hne : rest ≠ [] := by rintro rfl; simp at hlen
    refine ⟨k0, rest.dropLast, rest.getLast hne, by rw [List.dropLast_concat_getLast], hs k0 (by simp), ?_, ?_⟩
    · exact hs _ (by simp)
    · exact fun k hk => hs k (List.mem_cons_of_mem _ (List.dropLast_subset _ hk))

/-- The inverse cipher undoes the cipher on a block, for a key of whole words. -/
theorem decBlock_encBlock {key blk : List Byte} {nk : Nat} (hn : 0 < nk) (hk : key.length = 4 * nk) (h : blk.length = 16) :
    decBlock key (encBlock key blk) = blk := by
  obtain ⟨k0, ms, kl, hs, h0, hl, hm⟩ := schedule_keys hn hk
  exact decBlock_encBlock' hs h0 hl hm h

/-- A block enciphered is a block. -/
theorem encBlock_length {key blk : List Byte} {nk : Nat} (hn : 0 < nk) (hk : key.length = 4 * nk) (h : blk.length = 16) :
    (encBlock key blk).length = 16 := by
  obtain ⟨k0, ms, kl, hs, h0, hl, hm⟩ := schedule_keys hn hk
  have hb := addKey_block (bytes_block h) h0
  have e : encBlock key blk = (addKey (subShift (ms.foldl round (addKey (blk.map (·.toNat)) k0))) kl).map (BitVec.ofNat 8) := by
    simp only [encBlock, hs, List.dropLast_concat, List.getLast?_concat, Option.getD_some]
    rfl
  rw [e, List.length_map]
  exact (addKey_block (subShift_block (rounds_block hb hm)) hl).1

/-! ### Key wrap -/

theorem xorBytes_xorBytes {a b : List Byte} (h : a.length ≤ b.length) : xorBytes (xorBytes a b) b = a := by
  induction a generalizing b with
  | nil => simp [xorBytes]
  | cons x xs ih =>
    cases b with
    | nil => simp at h
    | cons y ys =>
      have := ih (b := ys) (by simpa using h)
      simp only [xorBytes, List.zipWith_cons_cons] at this ⊢
      rw [this, BitVec.xor_assoc, BitVec.xor_self, BitVec.xor_zero]

theorem leBytes_len : ∀ n v, (leBytes n v).length = n
  | 0, _ => rfl
  | n + 1, v => by rw [leBytes, List.length_cons, leBytes_len n]

theorem beBytes_len (n v : Nat) : (beBytes n v).length = n := by rw [beBytes, List.length_reverse, leBytes_len]

/-- A pass of unwrap over one semiblock more. -/
theorem unwrapPass_append (key : List Byte) (y : List Byte) : ∀ (xs : List (List Byte)) (a : List Byte) (t : Nat),
    unwrapPass key (xs ++ [y]) a t =
      let p := unwrapPass key xs a t
      let b := decBlock key (xorBytes p.1 (beBytes 8 (t - xs.length)) ++ y)
      (b.take 8, p.2 ++ [b.drop 8])
  | [], a, t => rfl
  | x :: xs, a, t => by
    simp only [List.cons_append, unwrapPass]
    rw [unwrapPass_append key y xs]
    simp only [List.length_cons]
    rw [show t - 1 - xs.length = t - (xs.length + 1) by omega]

/-- Semiblocks. -/
def Semis (rs : List (List Byte)) : Prop := ∀ r ∈ rs, r.length = 8

/-- A pass of unwrap undoes a pass of wrap. -/
theorem unwrapPass_wrapPass {key : List Byte} {nk : Nat} (hn : 0 < nk) (hk : key.length = 4 * nk) :
    ∀ (rs : List (List Byte)) (a : List Byte) (t : Nat), a.length = 8 → Semis rs →
    unwrapPass key (wrapPass key rs a (t + 1)).2.reverse (wrapPass key rs a (t + 1)).1 (t + rs.length) = (a, rs.reverse) ∧
    (wrapPass key rs a (t + 1)).1.length = 8 ∧ Semis (wrapPass key rs a (t + 1)).2 ∧
    (wrapPass key rs a (t + 1)).2.length = rs.length
  | [], a, t, ha, _ => ⟨rfl, ha, by simp [wrapPass, Semis], rfl⟩
  | r :: rs, a, t, ha, hr => by
    have hr8 := hr r (by simp)
    have hb : (encBlock key (a ++ r)).length = 16 := encBlock_length hn hk (by simp [ha, hr8])
    have hx : (xorBytes ((encBlock key (a ++ r)).take 8) (beBytes 8 (t + 1))).length = 8 := by
      simp [xorBytes, beBytes_len, hb]
    obtain ⟨h1, h2, h3, h4⟩ := unwrapPass_wrapPass hn hk rs _ (t + 1) hx fun x hx => hr x (by simp [hx])
    simp only [wrapPass]
    refine ⟨?_, h2, ?_, by simp [h4]⟩
    · rw [List.reverse_cons, unwrapPass_append]
      have e : t + (r :: rs).length = t + 1 + rs.length := by simp; omega
      rw [e, h1]
      simp only [List.length_reverse, h4]
      rw [show t + 1 + rs.length - rs.length = t + 1 by omega, xorBytes_xorBytes (by simp [beBytes_len, hb]),
        List.take_append_drop, decBlock_encBlock hn hk (by simp [ha, hr8])]
      rw [List.take_left' ha, List.drop_left' ha, List.reverse_cons]
    · intro x hx
      rcases List.mem_cons.mp hx with rfl | hx
      · simp [hb]
      · exact h3 x hx

theorem semis_flatten : ∀ (rs : List (List Byte)), Semis rs → semis rs.length rs.flatten = rs
  | [], _ => rfl
  | r :: rs, h => by
    have h8 := h r (by simp)
    simp only [List.length_cons, semis, List.flatten_cons]
    rw [List.take_left' h8, List.drop_left' h8, semis_flatten rs fun x hx => h x (by simp [hx])]

theorem semis_split : ∀ (n : Nat) (p : List Byte), p.length = 8 * n →
    (semis n p).length = n ∧ Semis (semis n p) ∧ (semis n p).flatten = p
  | 0, p, h => ⟨rfl, by simp [semis, Semis], by rw [List.length_eq_zero_iff.mp (by omega : p.length = 0)]; rfl⟩
  | n + 1, p, h => by
    obtain ⟨h1, h2, h3⟩ := semis_split n (p.drop 8) (by simp; omega)
    refine ⟨by simp [semis, h1], ?_, by simp [semis, h3]⟩
    intro x hx
    rcases List.mem_cons.mp hx with rfl | hx
    · simp; omega
    · exact h2 x hx

theorem flatten_semis : ∀ (rs : List (List Byte)), Semis rs → rs.flatten.length = 8 * rs.length
  | [], _ => rfl
  | r :: rs, h => by
    simp [flatten_semis rs fun x hx => h x (by simp [hx]), h r (by simp)]; omega

/-- Key unwrap undoes key wrap, and the wrapped value has eight bytes more. -/
theorem kwUnwrap_kwWrap {key p : List Byte} {nk n : Nat} (hn : 0 < nk) (hk : key.length = 4 * nk) (hp : p.length = 8 * n) :
    kwUnwrap key (kwWrap key p) = some p ∧ (kwWrap key p).length = 8 * (n + 1) := by
  obtain ⟨hs1, hs2, hs3⟩ := semis_split n p hp
  have hdiv : p.length / 8 = n := by omega
  have step := fun (rs : List (List Byte)) (a : List Byte) (j : Nat) (ha : a.length = 8) (hr : Semis rs) (hl : rs.length = n) => by
    have := unwrapPass_wrapPass hn hk rs a (n * j) ha hr
    rw [hl] at this
    exact this
  obtain ⟨e0, l0, s0, n0⟩ := step (semis n p) kwIv 0 rfl hs2 hs1
  obtain ⟨e1, l1, s1, n1⟩ := step _ _ 1 l0 s0 n0
  obtain ⟨e2, l2, s2, n2⟩ := step _ _ 2 l1 s1 n1
  obtain ⟨e3, l3, s3, n3⟩ := step _ _ 3 l2 s2 n2
  obtain ⟨e4, l4, s4, n4⟩ := step _ _ 4 l3 s3 n3
  obtain ⟨e5, l5, s5, n5⟩ := step _ _ 5 l4 s4 n4
  generalize hw0 : wrapPass key (semis n p) kwIv (n * 0 + 1) = w0 at *
  generalize hw1 : wrapPass key w0.2 w0.1 (n * 1 + 1) = w1 at *
  generalize hw2 : wrapPass key w1.2 w1.1 (n * 2 + 1) = w2 at *
  generalize hw3 : wrapPass key w2.2 w2.1 (n * 3 + 1) = w3 at *
  generalize hw4 : wrapPass key w3.2 w3.1 (n * 4 + 1) = w4 at *
  generalize hw5 : wrapPass key w4.2 w4.1 (n * 5 + 1) = w5 at *
  have hwrap : kwWrap key p = w5.1 ++ w5.2.flatten := by
    simp only [kwWrap, hdiv, show List.range 6 = [0, 1, 2, 3, 4, 5] from rfl, List.foldl_cons, List.foldl_nil, hw0, hw1, hw2, hw3,
      hw4, hw5]
  have hlen : (kwWrap key p).length = 8 * (n + 1) := by
    rw [hwrap, List.length_append, l5, flatten_semis _ s5, n5]; omega
  refine ⟨?_, hlen⟩
  have h6 : ∀ j, n * j + n = n * (j + 1) := fun j => by rw [Nat.mul_succ]
  rw [h6] at e0 e1 e2 e3 e4 e5
  rw [kwUnwrap, hlen, hwrap, List.take_left' l5, List.drop_left' l5, show 8 * (n + 1) / 8 - 1 = n by omega]
  conv => lhs; rw [← n5]
  rw [semis_flatten _ s5, n5]
  simp only [show List.range 6 = [0, 1, 2, 3, 4, 5] from rfl, List.foldl_cons, List.foldl_nil]
  rw [show n * (6 - 0) = n * (5 + 1) from rfl, e5, show n * (6 - 1) = n * (4 + 1) from rfl]
  simp only []
  rw [e4, show n * (6 - 2) = n * (3 + 1) from rfl]
  simp only []
  rw [e3, show n * (6 - 3) = n * (2 + 1) from rfl]
  simp only []
  rw [e2, show n * (6 - 4) = n * (1 + 1) from rfl]
  simp only []
  rw [e1, show n * (6 - 5) = n * (0 + 1) from rfl]
  simp only []
  rw [e0]
  simp only [if_true, List.reverse_reverse, hs3]

/-! ### Lengths -/

theorem xorBytes_length {a b : List Byte} (h : a.length = b.length) : (xorBytes a b).length = a.length := by
  rw [xorBytes, List.length_zipWith, ← h, Nat.min_self]

theorem fit_length (n : Nat) (b : List Byte) : (fit n b).length = n := by
  simp only [fit, List.length_append, List.length_take, zeros, List.length_replicate]
  omega

/-- A running value of the CBC-MAC is a block. -/
theorem cbcMac_length {key : List Byte} {nk : Nat} (hn : 0 < nk) (hk : key.length = 4 * nk) :
    ∀ (bs : List (List Byte)) (x : List Byte), x.length = 16 → (cbcMac key x bs).length = 16
  | [], _, h => h
  | b :: bs, x, h => cbcMac_length hn hk bs _
      (encBlock_length hn hk (by rw [xorBytes_length (h.trans (fit_length 16 b).symm), h]))

/-- The last block of a CMAC, masked with a subkey, is a block. -/
theorem masked_length {last k : List Byte} (hk : k.length = 16) :
    (if last.length = 16 then xorBytes last k else xorBytes (fit 16 (last ++ [0x80])) (dbl k)).length = 16 := by
  have hd : (dbl k).length = 16 := by rw [dbl, beBytes_len]
  split
  · rename_i hl
    exact (xorBytes_length (hl.trans hk.symm)).trans hl
  · exact (xorBytes_length ((fit_length _ _).trans hd.symm)).trans (fit_length _ _)

/-- A CMAC is 16 bytes. -/
theorem cmac_length {key : List Byte} {nk : Nat} (hn : 0 < nk) (hk : key.length = 4 * nk) (msg : List Byte) :
    (cmac key msg).length = 16 := by
  have hx := fun bs => cbcMac_length hn hk bs (zeros 16) List.length_replicate
  have hm := fun last => @masked_length last (dbl (encBlock key (zeros 16))) (beBytes_len _ _)
  exact encBlock_length hn hk ((xorBytes_length ((hx _).trans (hm _).symm)).trans (hx _))

end Sys2Proof.Machine.Aes

namespace Sys2Proof.Machine

/-- A derived key of 256 bits is 32 bytes. -/
theorem kdf_length {root : List Byte} {nk : Nat} (hn : 0 < nk) (hk : root.length = 4 * nk) (purpose identity role epoch : Nat) :
    (kdf root purpose identity role epoch 256).length = 32 := by
  simp only [kdf, List.length_take, List.length_append]
  rw [if_pos (by decide), Aes.cmac_length hn hk, Aes.cmac_length hn hk]
  decide

end Sys2Proof.Machine
end

