-- ==== Sys2Proof/Laws/Memory.lean ====
section
/-!
SUPPORT. The laws of physical memory: every operation keeps the canonical form, a byte reads as it was last written, and a
write leaves every other byte as it was.
-/
namespace Sys2Proof.Machine

theorem Memory.wf_cons {c : Host.Cell} {m : Memory} :
    Memory.wf (c :: m) = true ↔ c.2 ≠ Memory.unlisted ∧ Memory.aboveAll c.1 m = true ∧ Memory.wf m = true := by
  simp [Memory.wf, and_assoc]

theorem Memory.aboveAll_mono {a b : Nat} (h : a ≤ b) {m : Memory} (k : Memory.aboveAll b m = true) :
    Memory.aboveAll a m = true := by
  induction m with
  | nil => rfl
  | cons c m ih =>
    simp only [Memory.aboveAll, Bool.and_eq_true, decide_eq_true_eq] at k ⊢
    exact ⟨by omega, ih k.2⟩

theorem Memory.aboveAll_write {a b : Nat} {v : Byte} (h : a < b) {m : Memory} (k : Memory.aboveAll a m = true) :
    Memory.aboveAll a (Memory.writeByte m b v) = true := by
  induction m with
  | nil => unfold Memory.writeByte; split <;> simp [Memory.aboveAll, h]
  | cons c m ih =>
    simp only [Memory.aboveAll, Bool.and_eq_true, decide_eq_true_eq] at k
    unfold Memory.writeByte
    split
    · simp [Memory.aboveAll, k.1, ih k.2]
    · split
      · split
        · exact k.2
        · simp [Memory.aboveAll, h, k.2]
      · split <;> simp [Memory.aboveAll, h, k.1, k.2]

/-- Writing a byte keeps the canonical form. -/
theorem Memory.wf_writeByte {m : Memory} (h : Memory.wf m = true) (a : Nat) (v : Byte) :
    Memory.wf (Memory.writeByte m a v) = true := by
  induction m with
  | nil =>
    unfold Memory.writeByte
    split
    · rfl
    · rename_i hv; simp [Memory.wf, Memory.aboveAll, hv]
  | cons c m ih =>
    obtain ⟨h1, h2, h3⟩ := Memory.wf_cons.mp h
    unfold Memory.writeByte
    split
    · rename_i hlt; exact Memory.wf_cons.mpr ⟨h1, Memory.aboveAll_write hlt h2, ih h3⟩
    · split
      · rename_i hlt heq
        split
        · exact h3
        · rename_i hv; exact Memory.wf_cons.mpr ⟨hv, heq ▸ h2, h3⟩
      · rename_i hlt hne
        split
        · exact h
        · rename_i hv
          refine Memory.wf_cons.mpr ⟨hv, ?_, h⟩
          have hac : a < c.1 := by omega
          simp [Memory.aboveAll, hac, Memory.aboveAll_mono (Nat.le_of_lt hac) h2]

/-- Writing bytes keeps the canonical form. -/
theorem Memory.wf_writeBytes {m : Memory} (h : Memory.wf m = true) (a : Nat) (bs : List Byte) :
    Memory.wf (Memory.writeBytes m a bs) = true := by
  induction bs generalizing m a with
  | nil => exact h
  | cons b bs ih => exact ih (Memory.wf_writeByte h a b) _

/-- A fold of writes keeps the canonical form where each write does. -/
theorem Memory.wf_foldl {α : Type} {f : Memory → α → Memory} (hf : ∀ m x, Memory.wf m = true → Memory.wf (f m x) = true)
    (xs : List α) {m : Memory} (h : Memory.wf m = true) : Memory.wf (xs.foldl f m) = true := by
  induction xs generalizing m with
  | nil => exact h
  | cons x xs ih => exact ih (hf m x h)

theorem Memory.wf_writeWord {m : Memory} (h : Memory.wf m = true) (a : Nat) (w : Word) :
    Memory.wf (Memory.writeWord m a w) = true := Memory.wf_writeBytes h _ _

theorem Memory.aboveAll_filter {a : Nat} {m : Memory} (p : Host.Cell → Bool) (h : Memory.aboveAll a m = true) :
    Memory.aboveAll a (m.filter p) = true := by
  induction m with
  | nil => rfl
  | cons c m ih =>
    simp only [Memory.aboveAll, Bool.and_eq_true, decide_eq_true_eq] at h
    unfold List.filter
    split
    · simp [Memory.aboveAll, h.1, ih h.2]
    · exact ih h.2

/-- Dropping bytes keeps the canonical form. -/
theorem Memory.wf_filter {m : Memory} (p : Host.Cell → Bool) (h : Memory.wf m = true) :
    Memory.wf (m.filter p) = true := by
  induction m with
  | nil => rfl
  | cons c m ih =>
    obtain ⟨h1, h2, h3⟩ := Memory.wf_cons.mp h
    unfold List.filter
    split
    · exact Memory.wf_cons.mpr ⟨h1, Memory.aboveAll_filter p h2, ih h3⟩
    · exact ih h3

theorem Memory.read_aboveAll {a b : Nat} {m : Memory} (h : Memory.aboveAll a m = true) (k : b ≤ a) :
    Memory.readByte m b = Memory.unlisted := by
  induction m with
  | nil => rfl
  | cons c m ih =>
    simp only [Memory.aboveAll, Bool.and_eq_true, decide_eq_true_eq] at h
    unfold Memory.readByte
    rw [if_neg (by omega)]
    exact ih h.2

/-- A byte reads as it was last written. -/
theorem Memory.read_write {m : Memory} (h : Memory.wf m = true) (a : Nat) (v : Byte) :
    Memory.readByte (Memory.writeByte m a v) a = v := by
  induction m with
  | nil =>
    unfold Memory.writeByte
    split
    · rename_i hv; simp [Memory.readByte, hv]
    · simp [Memory.readByte]
  | cons c m ih =>
    obtain ⟨h1, h2, h3⟩ := Memory.wf_cons.mp h
    unfold Memory.writeByte
    split
    · rename_i hlt
      unfold Memory.readByte
      rw [if_neg (by omega)]
      exact ih h3
    · split
      · rename_i heq
        split
        · rename_i hv; rw [hv]; exact Memory.read_aboveAll h2 (by omega)
        · simp [Memory.readByte]
      · rename_i hlt hne
        split
        · rename_i hv
          unfold Memory.readByte
          rw [if_neg hne, hv]
          exact Memory.read_aboveAll h2 (by omega)
        · simp [Memory.readByte]

/-- A write of one byte leaves every other byte as it was. -/
theorem Memory.read_write_ne (m : Memory) {a b : Nat} (hab : b ≠ a) (v : Byte) :
    Memory.readByte (Memory.writeByte m a v) b = Memory.readByte m b := by
  induction m with
  | nil =>
    unfold Memory.writeByte
    split
    · rfl
    · simp [Memory.readByte, Ne.symm hab]
  | cons c m ih =>
    unfold Memory.writeByte
    split
    · simp only [Memory.readByte]; rw [ih]
    · split
      · rename_i heq
        split
        · simp only [Memory.readByte]; rw [if_neg (by omega)]
        · simp only [Memory.readByte]; rw [if_neg (Ne.symm hab), if_neg (by omega)]
      · split
        · rfl
        · simp only [Memory.readByte]; rw [if_neg (Ne.symm hab)]

/-- A write of bytes leaves every byte outside them as it was. -/
theorem Memory.read_writeBytes_ne (m : Memory) (a b : Nat) (bs : List Byte) (h : b < a ∨ a + bs.length ≤ b) :
    Memory.readByte (Memory.writeBytes m a bs) b = Memory.readByte m b := by
  induction bs generalizing m a with
  | nil => rfl
  | cons v bs ih =>
    simp only [List.length_cons] at h
    unfold Memory.writeBytes
    rw [ih _ _ (by omega), Memory.read_write_ne m (by omega)]

/-- A byte within the bytes written reads as its own. -/
theorem Memory.read_writeBytes {m : Memory} (h : Memory.wf m = true) (a i : Nat) (bs : List Byte) (hi : i < bs.length) :
    Memory.readByte (Memory.writeBytes m a bs) (a + i) = bs[i] := by
  induction bs generalizing m a i with
  | nil => exact absurd hi (Nat.not_lt_zero _)
  | cons v bs ih =>
    unfold Memory.writeBytes
    cases i with
    | zero =>
      rw [Memory.read_writeBytes_ne _ _ _ _ (Or.inl (by omega)), Nat.add_zero, Memory.read_write h]; rfl
    | succ i =>
      have := ih (Memory.wf_writeByte h a v) (a + 1) i (by simpa using hi)
      rw [show a + (i + 1) = a + 1 + i by omega, this]; rfl

end Sys2Proof.Machine
end

