-- ==== Sys2Proof/Laws/State.lean ====
section
/-!
SUPPORT. One lemma per part of State per update: what each update sets and what it leaves.
-/
namespace Sys2Proof.Machine

@[simp] theorem State.modTbu_tbu (s : State) (f : Tbu → Tbu) : (s.modTbu f).tbu = f s.tbu := rfl
@[simp] theorem State.modTbu_tmr (s : State) (f : Tbu → Tbu) : (s.modTbu f).tmr = s.tmr := rfl
@[simp] theorem State.modTbu_evc (s : State) (f : Tbu → Tbu) : (s.modTbu f).evc = s.evc := rfl
@[simp] theorem State.modTbu_psc (s : State) (f : Tbu → Tbu) : (s.modTbu f).psc = s.psc := rfl
@[simp] theorem State.modTbu_pad (s : State) (f : Tbu → Tbu) : (s.modTbu f).pad = s.pad := rfl
@[simp] theorem State.modTbu_mbx (s : State) (f : Tbu → Tbu) : (s.modTbu f).mbx = s.mbx := rfl
@[simp] theorem State.modTbu_boot (s : State) (f : Tbu → Tbu) : (s.modTbu f).boot = s.boot := rfl
@[simp] theorem State.modTbu_cfg (s : State) (f : Tbu → Tbu) : (s.modTbu f).cfg = s.cfg := rfl
@[simp] theorem State.modTbu_fab (s : State) (f : Tbu → Tbu) : (s.modTbu f).fab = s.fab := rfl
@[simp] theorem State.modTbu_parts (s : State) (f : Tbu → Tbu) : (s.modTbu f).parts = s.parts := rfl
@[simp] theorem State.modTbu_lf (s : State) (f : Tbu → Tbu) : (s.modTbu f).lf = s.lf := rfl
@[simp] theorem State.modTbu_pop (s : State) (f : Tbu → Tbu) : (s.modTbu f).pop = s.pop := rfl
@[simp] theorem State.modTbu_radio (s : State) (f : Tbu → Tbu) : (s.modTbu f).radio = s.radio := rfl
@[simp] theorem State.modTbu_sess (s : State) (f : Tbu → Tbu) : (s.modTbu f).sess = s.sess := rfl
@[simp] theorem State.modTbu_rel (s : State) (f : Tbu → Tbu) : (s.modTbu f).rel = s.rel := rfl
@[simp] theorem State.modTbu_crypt (s : State) (f : Tbu → Tbu) : (s.modTbu f).crypt = s.crypt := rfl
@[simp] theorem State.modTbu_keys (s : State) (f : Tbu → Tbu) : (s.modTbu f).keys = s.keys := rfl
@[simp] theorem State.modTbu_met (s : State) (f : Tbu → Tbu) : (s.modTbu f).met = s.met := rfl
@[simp] theorem State.modTbu_ledger (s : State) (f : Tbu → Tbu) : (s.modTbu f).ledger = s.ledger := rfl
@[simp] theorem State.modTbu_health (s : State) (f : Tbu → Tbu) : (s.modTbu f).health = s.health := rfl
@[simp] theorem State.modTbu_net (s : State) (f : Tbu → Tbu) : (s.modTbu f).net = s.net := rfl
@[simp] theorem State.modTbu_power (s : State) (f : Tbu → Tbu) : (s.modTbu f).power = s.power := rfl
@[simp] theorem State.modTbu_cores (s : State) (f : Tbu → Tbu) : (s.modTbu f).cores = s.cores := rfl
@[simp] theorem State.modTbu_tamper (s : State) (f : Tbu → Tbu) : (s.modTbu f).tamper = s.tamper := rfl
@[simp] theorem State.modTbu_jtag (s : State) (f : Tbu → Tbu) : (s.modTbu f).jtag = s.jtag := rfl
@[simp] theorem State.modTbu_mem (s : State) (f : Tbu → Tbu) : (s.modTbu f).mem = s.mem := rfl
@[simp] theorem State.modTbu_free (s : State) (f : Tbu → Tbu) : (s.modTbu f).free = s.free := rfl
@[simp] theorem State.modTbu_pending (s : State) (f : Tbu → Tbu) : (s.modTbu f).pending = s.pending := rfl

@[simp] theorem State.modTmr_tbu (s : State) (f : Tmr → Tmr) : (s.modTmr f).tbu = s.tbu := rfl
@[simp] theorem State.modTmr_tmr (s : State) (f : Tmr → Tmr) : (s.modTmr f).tmr = f s.tmr := rfl
@[simp] theorem State.modTmr_evc (s : State) (f : Tmr → Tmr) : (s.modTmr f).evc = s.evc := rfl
@[simp] theorem State.modTmr_psc (s : State) (f : Tmr → Tmr) : (s.modTmr f).psc = s.psc := rfl
@[simp] theorem State.modTmr_pad (s : State) (f : Tmr → Tmr) : (s.modTmr f).pad = s.pad := rfl
@[simp] theorem State.modTmr_mbx (s : State) (f : Tmr → Tmr) : (s.modTmr f).mbx = s.mbx := rfl
@[simp] theorem State.modTmr_boot (s : State) (f : Tmr → Tmr) : (s.modTmr f).boot = s.boot := rfl
@[simp] theorem State.modTmr_cfg (s : State) (f : Tmr → Tmr) : (s.modTmr f).cfg = s.cfg := rfl
@[simp] theorem State.modTmr_fab (s : State) (f : Tmr → Tmr) : (s.modTmr f).fab = s.fab := rfl
@[simp] theorem State.modTmr_parts (s : State) (f : Tmr → Tmr) : (s.modTmr f).parts = s.parts := rfl
@[simp] theorem State.modTmr_lf (s : State) (f : Tmr → Tmr) : (s.modTmr f).lf = s.lf := rfl
@[simp] theorem State.modTmr_pop (s : State) (f : Tmr → Tmr) : (s.modTmr f).pop = s.pop := rfl
@[simp] theorem State.modTmr_radio (s : State) (f : Tmr → Tmr) : (s.modTmr f).radio = s.radio := rfl
@[simp] theorem State.modTmr_sess (s : State) (f : Tmr → Tmr) : (s.modTmr f).sess = s.sess := rfl
@[simp] theorem State.modTmr_rel (s : State) (f : Tmr → Tmr) : (s.modTmr f).rel = s.rel := rfl
@[simp] theorem State.modTmr_crypt (s : State) (f : Tmr → Tmr) : (s.modTmr f).crypt = s.crypt := rfl
@[simp] theorem State.modTmr_keys (s : State) (f : Tmr → Tmr) : (s.modTmr f).keys = s.keys := rfl
@[simp] theorem State.modTmr_met (s : State) (f : Tmr → Tmr) : (s.modTmr f).met = s.met := rfl
@[simp] theorem State.modTmr_ledger (s : State) (f : Tmr → Tmr) : (s.modTmr f).ledger = s.ledger := rfl
@[simp] theorem State.modTmr_health (s : State) (f : Tmr → Tmr) : (s.modTmr f).health = s.health := rfl
@[simp] theorem State.modTmr_net (s : State) (f : Tmr → Tmr) : (s.modTmr f).net = s.net := rfl
@[simp] theorem State.modTmr_power (s : State) (f : Tmr → Tmr) : (s.modTmr f).power = s.power := rfl
@[simp] theorem State.modTmr_cores (s : State) (f : Tmr → Tmr) : (s.modTmr f).cores = s.cores := rfl
@[simp] theorem State.modTmr_tamper (s : State) (f : Tmr → Tmr) : (s.modTmr f).tamper = s.tamper := rfl
@[simp] theorem State.modTmr_jtag (s : State) (f : Tmr → Tmr) : (s.modTmr f).jtag = s.jtag := rfl
@[simp] theorem State.modTmr_mem (s : State) (f : Tmr → Tmr) : (s.modTmr f).mem = s.mem := rfl
@[simp] theorem State.modTmr_free (s : State) (f : Tmr → Tmr) : (s.modTmr f).free = s.free := rfl
@[simp] theorem State.modTmr_pending (s : State) (f : Tmr → Tmr) : (s.modTmr f).pending = s.pending := rfl

@[simp] theorem State.modEvc_tbu (s : State) (f : Evc → Evc) : (s.modEvc f).tbu = s.tbu := rfl
@[simp] theorem State.modEvc_tmr (s : State) (f : Evc → Evc) : (s.modEvc f).tmr = s.tmr := rfl
@[simp] theorem State.modEvc_evc (s : State) (f : Evc → Evc) : (s.modEvc f).evc = f s.evc := rfl
@[simp] theorem State.modEvc_psc (s : State) (f : Evc → Evc) : (s.modEvc f).psc = s.psc := rfl
@[simp] theorem State.modEvc_pad (s : State) (f : Evc → Evc) : (s.modEvc f).pad = s.pad := rfl
@[simp] theorem State.modEvc_mbx (s : State) (f : Evc → Evc) : (s.modEvc f).mbx = s.mbx := rfl
@[simp] theorem State.modEvc_boot (s : State) (f : Evc → Evc) : (s.modEvc f).boot = s.boot := rfl
@[simp] theorem State.modEvc_cfg (s : State) (f : Evc → Evc) : (s.modEvc f).cfg = s.cfg := rfl
@[simp] theorem State.modEvc_fab (s : State) (f : Evc → Evc) : (s.modEvc f).fab = s.fab := rfl
@[simp] theorem State.modEvc_parts (s : State) (f : Evc → Evc) : (s.modEvc f).parts = s.parts := rfl
@[simp] theorem State.modEvc_lf (s : State) (f : Evc → Evc) : (s.modEvc f).lf = s.lf := rfl
@[simp] theorem State.modEvc_pop (s : State) (f : Evc → Evc) : (s.modEvc f).pop = s.pop := rfl
@[simp] theorem State.modEvc_radio (s : State) (f : Evc → Evc) : (s.modEvc f).radio = s.radio := rfl
@[simp] theorem State.modEvc_sess (s : State) (f : Evc → Evc) : (s.modEvc f).sess = s.sess := rfl
@[simp] theorem State.modEvc_rel (s : State) (f : Evc → Evc) : (s.modEvc f).rel = s.rel := rfl
@[simp] theorem State.modEvc_crypt (s : State) (f : Evc → Evc) : (s.modEvc f).crypt = s.crypt := rfl
@[simp] theorem State.modEvc_keys (s : State) (f : Evc → Evc) : (s.modEvc f).keys = s.keys := rfl
@[simp] theorem State.modEvc_met (s : State) (f : Evc → Evc) : (s.modEvc f).met = s.met := rfl
@[simp] theorem State.modEvc_ledger (s : State) (f : Evc → Evc) : (s.modEvc f).ledger = s.ledger := rfl
@[simp] theorem State.modEvc_health (s : State) (f : Evc → Evc) : (s.modEvc f).health = s.health := rfl
@[simp] theorem State.modEvc_net (s : State) (f : Evc → Evc) : (s.modEvc f).net = s.net := rfl
@[simp] theorem State.modEvc_power (s : State) (f : Evc → Evc) : (s.modEvc f).power = s.power := rfl
@[simp] theorem State.modEvc_cores (s : State) (f : Evc → Evc) : (s.modEvc f).cores = s.cores := rfl
@[simp] theorem State.modEvc_tamper (s : State) (f : Evc → Evc) : (s.modEvc f).tamper = s.tamper := rfl
@[simp] theorem State.modEvc_jtag (s : State) (f : Evc → Evc) : (s.modEvc f).jtag = s.jtag := rfl
@[simp] theorem State.modEvc_mem (s : State) (f : Evc → Evc) : (s.modEvc f).mem = s.mem := rfl
@[simp] theorem State.modEvc_free (s : State) (f : Evc → Evc) : (s.modEvc f).free = s.free := rfl
@[simp] theorem State.modEvc_pending (s : State) (f : Evc → Evc) : (s.modEvc f).pending = s.pending := rfl

@[simp] theorem State.modPsc_tbu (s : State) (f : Psc → Psc) : (s.modPsc f).tbu = s.tbu := rfl
@[simp] theorem State.modPsc_tmr (s : State) (f : Psc → Psc) : (s.modPsc f).tmr = s.tmr := rfl
@[simp] theorem State.modPsc_evc (s : State) (f : Psc → Psc) : (s.modPsc f).evc = s.evc := rfl
@[simp] theorem State.modPsc_psc (s : State) (f : Psc → Psc) : (s.modPsc f).psc = f s.psc := rfl
@[simp] theorem State.modPsc_pad (s : State) (f : Psc → Psc) : (s.modPsc f).pad = s.pad := rfl
@[simp] theorem State.modPsc_mbx (s : State) (f : Psc → Psc) : (s.modPsc f).mbx = s.mbx := rfl
@[simp] theorem State.modPsc_boot (s : State) (f : Psc → Psc) : (s.modPsc f).boot = s.boot := rfl
@[simp] theorem State.modPsc_cfg (s : State) (f : Psc → Psc) : (s.modPsc f).cfg = s.cfg := rfl
@[simp] theorem State.modPsc_fab (s : State) (f : Psc → Psc) : (s.modPsc f).fab = s.fab := rfl
@[simp] theorem State.modPsc_parts (s : State) (f : Psc → Psc) : (s.modPsc f).parts = s.parts := rfl
@[simp] theorem State.modPsc_lf (s : State) (f : Psc → Psc) : (s.modPsc f).lf = s.lf := rfl
@[simp] theorem State.modPsc_pop (s : State) (f : Psc → Psc) : (s.modPsc f).pop = s.pop := rfl
@[simp] theorem State.modPsc_radio (s : State) (f : Psc → Psc) : (s.modPsc f).radio = s.radio := rfl
@[simp] theorem State.modPsc_sess (s : State) (f : Psc → Psc) : (s.modPsc f).sess = s.sess := rfl
@[simp] theorem State.modPsc_rel (s : State) (f : Psc → Psc) : (s.modPsc f).rel = s.rel := rfl
@[simp] theorem State.modPsc_crypt (s : State) (f : Psc → Psc) : (s.modPsc f).crypt = s.crypt := rfl
@[simp] theorem State.modPsc_keys (s : State) (f : Psc → Psc) : (s.modPsc f).keys = s.keys := rfl
@[simp] theorem State.modPsc_met (s : State) (f : Psc → Psc) : (s.modPsc f).met = s.met := rfl
@[simp] theorem State.modPsc_ledger (s : State) (f : Psc → Psc) : (s.modPsc f).ledger = s.ledger := rfl
@[simp] theorem State.modPsc_health (s : State) (f : Psc → Psc) : (s.modPsc f).health = s.health := rfl
@[simp] theorem State.modPsc_net (s : State) (f : Psc → Psc) : (s.modPsc f).net = s.net := rfl
@[simp] theorem State.modPsc_power (s : State) (f : Psc → Psc) : (s.modPsc f).power = s.power := rfl
@[simp] theorem State.modPsc_cores (s : State) (f : Psc → Psc) : (s.modPsc f).cores = s.cores := rfl
@[simp] theorem State.modPsc_tamper (s : State) (f : Psc → Psc) : (s.modPsc f).tamper = s.tamper := rfl
@[simp] theorem State.modPsc_jtag (s : State) (f : Psc → Psc) : (s.modPsc f).jtag = s.jtag := rfl
@[simp] theorem State.modPsc_mem (s : State) (f : Psc → Psc) : (s.modPsc f).mem = s.mem := rfl
@[simp] theorem State.modPsc_free (s : State) (f : Psc → Psc) : (s.modPsc f).free = s.free := rfl
@[simp] theorem State.modPsc_pending (s : State) (f : Psc → Psc) : (s.modPsc f).pending = s.pending := rfl

@[simp] theorem State.modPad_tbu (s : State) (f : Pad → Pad) : (s.modPad f).tbu = s.tbu := rfl
@[simp] theorem State.modPad_tmr (s : State) (f : Pad → Pad) : (s.modPad f).tmr = s.tmr := rfl
@[simp] theorem State.modPad_evc (s : State) (f : Pad → Pad) : (s.modPad f).evc = s.evc := rfl
@[simp] theorem State.modPad_psc (s : State) (f : Pad → Pad) : (s.modPad f).psc = s.psc := rfl
@[simp] theorem State.modPad_pad (s : State) (f : Pad → Pad) : (s.modPad f).pad = f s.pad := rfl
@[simp] theorem State.modPad_mbx (s : State) (f : Pad → Pad) : (s.modPad f).mbx = s.mbx := rfl
@[simp] theorem State.modPad_boot (s : State) (f : Pad → Pad) : (s.modPad f).boot = s.boot := rfl
@[simp] theorem State.modPad_cfg (s : State) (f : Pad → Pad) : (s.modPad f).cfg = s.cfg := rfl
@[simp] theorem State.modPad_fab (s : State) (f : Pad → Pad) : (s.modPad f).fab = s.fab := rfl
@[simp] theorem State.modPad_parts (s : State) (f : Pad → Pad) : (s.modPad f).parts = s.parts := rfl
@[simp] theorem State.modPad_lf (s : State) (f : Pad → Pad) : (s.modPad f).lf = s.lf := rfl
@[simp] theorem State.modPad_pop (s : State) (f : Pad → Pad) : (s.modPad f).pop = s.pop := rfl
@[simp] theorem State.modPad_radio (s : State) (f : Pad → Pad) : (s.modPad f).radio = s.radio := rfl
@[simp] theorem State.modPad_sess (s : State) (f : Pad → Pad) : (s.modPad f).sess = s.sess := rfl
@[simp] theorem State.modPad_rel (s : State) (f : Pad → Pad) : (s.modPad f).rel = s.rel := rfl
@[simp] theorem State.modPad_crypt (s : State) (f : Pad → Pad) : (s.modPad f).crypt = s.crypt := rfl
@[simp] theorem State.modPad_keys (s : State) (f : Pad → Pad) : (s.modPad f).keys = s.keys := rfl
@[simp] theorem State.modPad_met (s : State) (f : Pad → Pad) : (s.modPad f).met = s.met := rfl
@[simp] theorem State.modPad_ledger (s : State) (f : Pad → Pad) : (s.modPad f).ledger = s.ledger := rfl
@[simp] theorem State.modPad_health (s : State) (f : Pad → Pad) : (s.modPad f).health = s.health := rfl
@[simp] theorem State.modPad_net (s : State) (f : Pad → Pad) : (s.modPad f).net = s.net := rfl
@[simp] theorem State.modPad_power (s : State) (f : Pad → Pad) : (s.modPad f).power = s.power := rfl
@[simp] theorem State.modPad_cores (s : State) (f : Pad → Pad) : (s.modPad f).cores = s.cores := rfl
@[simp] theorem State.modPad_tamper (s : State) (f : Pad → Pad) : (s.modPad f).tamper = s.tamper := rfl
@[simp] theorem State.modPad_jtag (s : State) (f : Pad → Pad) : (s.modPad f).jtag = s.jtag := rfl
@[simp] theorem State.modPad_mem (s : State) (f : Pad → Pad) : (s.modPad f).mem = s.mem := rfl
@[simp] theorem State.modPad_free (s : State) (f : Pad → Pad) : (s.modPad f).free = s.free := rfl
@[simp] theorem State.modPad_pending (s : State) (f : Pad → Pad) : (s.modPad f).pending = s.pending := rfl

@[simp] theorem State.modMbx_tbu (s : State) (f : Mbx → Mbx) : (s.modMbx f).tbu = s.tbu := rfl
@[simp] theorem State.modMbx_tmr (s : State) (f : Mbx → Mbx) : (s.modMbx f).tmr = s.tmr := rfl
@[simp] theorem State.modMbx_evc (s : State) (f : Mbx → Mbx) : (s.modMbx f).evc = s.evc := rfl
@[simp] theorem State.modMbx_psc (s : State) (f : Mbx → Mbx) : (s.modMbx f).psc = s.psc := rfl
@[simp] theorem State.modMbx_pad (s : State) (f : Mbx → Mbx) : (s.modMbx f).pad = s.pad := rfl
@[simp] theorem State.modMbx_mbx (s : State) (f : Mbx → Mbx) : (s.modMbx f).mbx = f s.mbx := rfl
@[simp] theorem State.modMbx_boot (s : State) (f : Mbx → Mbx) : (s.modMbx f).boot = s.boot := rfl
@[simp] theorem State.modMbx_cfg (s : State) (f : Mbx → Mbx) : (s.modMbx f).cfg = s.cfg := rfl
@[simp] theorem State.modMbx_fab (s : State) (f : Mbx → Mbx) : (s.modMbx f).fab = s.fab := rfl
@[simp] theorem State.modMbx_parts (s : State) (f : Mbx → Mbx) : (s.modMbx f).parts = s.parts := rfl
@[simp] theorem State.modMbx_lf (s : State) (f : Mbx → Mbx) : (s.modMbx f).lf = s.lf := rfl
@[simp] theorem State.modMbx_pop (s : State) (f : Mbx → Mbx) : (s.modMbx f).pop = s.pop := rfl
@[simp] theorem State.modMbx_radio (s : State) (f : Mbx → Mbx) : (s.modMbx f).radio = s.radio := rfl
@[simp] theorem State.modMbx_sess (s : State) (f : Mbx → Mbx) : (s.modMbx f).sess = s.sess := rfl
@[simp] theorem State.modMbx_rel (s : State) (f : Mbx → Mbx) : (s.modMbx f).rel = s.rel := rfl
@[simp] theorem State.modMbx_crypt (s : State) (f : Mbx → Mbx) : (s.modMbx f).crypt = s.crypt := rfl
@[simp] theorem State.modMbx_keys (s : State) (f : Mbx → Mbx) : (s.modMbx f).keys = s.keys := rfl
@[simp] theorem State.modMbx_met (s : State) (f : Mbx → Mbx) : (s.modMbx f).met = s.met := rfl
@[simp] theorem State.modMbx_ledger (s : State) (f : Mbx → Mbx) : (s.modMbx f).ledger = s.ledger := rfl
@[simp] theorem State.modMbx_health (s : State) (f : Mbx → Mbx) : (s.modMbx f).health = s.health := rfl
@[simp] theorem State.modMbx_net (s : State) (f : Mbx → Mbx) : (s.modMbx f).net = s.net := rfl
@[simp] theorem State.modMbx_power (s : State) (f : Mbx → Mbx) : (s.modMbx f).power = s.power := rfl
@[simp] theorem State.modMbx_cores (s : State) (f : Mbx → Mbx) : (s.modMbx f).cores = s.cores := rfl
@[simp] theorem State.modMbx_tamper (s : State) (f : Mbx → Mbx) : (s.modMbx f).tamper = s.tamper := rfl
@[simp] theorem State.modMbx_jtag (s : State) (f : Mbx → Mbx) : (s.modMbx f).jtag = s.jtag := rfl
@[simp] theorem State.modMbx_mem (s : State) (f : Mbx → Mbx) : (s.modMbx f).mem = s.mem := rfl
@[simp] theorem State.modMbx_free (s : State) (f : Mbx → Mbx) : (s.modMbx f).free = s.free := rfl
@[simp] theorem State.modMbx_pending (s : State) (f : Mbx → Mbx) : (s.modMbx f).pending = s.pending := rfl

@[simp] theorem State.modBoot_tbu (s : State) (f : Boot → Boot) : (s.modBoot f).tbu = s.tbu := rfl
@[simp] theorem State.modBoot_tmr (s : State) (f : Boot → Boot) : (s.modBoot f).tmr = s.tmr := rfl
@[simp] theorem State.modBoot_evc (s : State) (f : Boot → Boot) : (s.modBoot f).evc = s.evc := rfl
@[simp] theorem State.modBoot_psc (s : State) (f : Boot → Boot) : (s.modBoot f).psc = s.psc := rfl
@[simp] theorem State.modBoot_pad (s : State) (f : Boot → Boot) : (s.modBoot f).pad = s.pad := rfl
@[simp] theorem State.modBoot_mbx (s : State) (f : Boot → Boot) : (s.modBoot f).mbx = s.mbx := rfl
@[simp] theorem State.modBoot_boot (s : State) (f : Boot → Boot) : (s.modBoot f).boot = f s.boot := rfl
@[simp] theorem State.modBoot_cfg (s : State) (f : Boot → Boot) : (s.modBoot f).cfg = s.cfg := rfl
@[simp] theorem State.modBoot_fab (s : State) (f : Boot → Boot) : (s.modBoot f).fab = s.fab := rfl
@[simp] theorem State.modBoot_parts (s : State) (f : Boot → Boot) : (s.modBoot f).parts = s.parts := rfl
@[simp] theorem State.modBoot_lf (s : State) (f : Boot → Boot) : (s.modBoot f).lf = s.lf := rfl
@[simp] theorem State.modBoot_pop (s : State) (f : Boot → Boot) : (s.modBoot f).pop = s.pop := rfl
@[simp] theorem State.modBoot_radio (s : State) (f : Boot → Boot) : (s.modBoot f).radio = s.radio := rfl
@[simp] theorem State.modBoot_sess (s : State) (f : Boot → Boot) : (s.modBoot f).sess = s.sess := rfl
@[simp] theorem State.modBoot_rel (s : State) (f : Boot → Boot) : (s.modBoot f).rel = s.rel := rfl
@[simp] theorem State.modBoot_crypt (s : State) (f : Boot → Boot) : (s.modBoot f).crypt = s.crypt := rfl
@[simp] theorem State.modBoot_keys (s : State) (f : Boot → Boot) : (s.modBoot f).keys = s.keys := rfl
@[simp] theorem State.modBoot_met (s : State) (f : Boot → Boot) : (s.modBoot f).met = s.met := rfl
@[simp] theorem State.modBoot_ledger (s : State) (f : Boot → Boot) : (s.modBoot f).ledger = s.ledger := rfl
@[simp] theorem State.modBoot_health (s : State) (f : Boot → Boot) : (s.modBoot f).health = s.health := rfl
@[simp] theorem State.modBoot_net (s : State) (f : Boot → Boot) : (s.modBoot f).net = s.net := rfl
@[simp] theorem State.modBoot_power (s : State) (f : Boot → Boot) : (s.modBoot f).power = s.power := rfl
@[simp] theorem State.modBoot_cores (s : State) (f : Boot → Boot) : (s.modBoot f).cores = s.cores := rfl
@[simp] theorem State.modBoot_tamper (s : State) (f : Boot → Boot) : (s.modBoot f).tamper = s.tamper := rfl
@[simp] theorem State.modBoot_jtag (s : State) (f : Boot → Boot) : (s.modBoot f).jtag = s.jtag := rfl
@[simp] theorem State.modBoot_mem (s : State) (f : Boot → Boot) : (s.modBoot f).mem = s.mem := rfl
@[simp] theorem State.modBoot_free (s : State) (f : Boot → Boot) : (s.modBoot f).free = s.free := rfl
@[simp] theorem State.modBoot_pending (s : State) (f : Boot → Boot) : (s.modBoot f).pending = s.pending := rfl

@[simp] theorem State.modCfg_tbu (s : State) (f : CfgStore → CfgStore) : (s.modCfg f).tbu = s.tbu := rfl
@[simp] theorem State.modCfg_tmr (s : State) (f : CfgStore → CfgStore) : (s.modCfg f).tmr = s.tmr := rfl
@[simp] theorem State.modCfg_evc (s : State) (f : CfgStore → CfgStore) : (s.modCfg f).evc = s.evc := rfl
@[simp] theorem State.modCfg_psc (s : State) (f : CfgStore → CfgStore) : (s.modCfg f).psc = s.psc := rfl
@[simp] theorem State.modCfg_pad (s : State) (f : CfgStore → CfgStore) : (s.modCfg f).pad = s.pad := rfl
@[simp] theorem State.modCfg_mbx (s : State) (f : CfgStore → CfgStore) : (s.modCfg f).mbx = s.mbx := rfl
@[simp] theorem State.modCfg_boot (s : State) (f : CfgStore → CfgStore) : (s.modCfg f).boot = s.boot := rfl
@[simp] theorem State.modCfg_cfg (s : State) (f : CfgStore → CfgStore) : (s.modCfg f).cfg = f s.cfg := rfl
@[simp] theorem State.modCfg_fab (s : State) (f : CfgStore → CfgStore) : (s.modCfg f).fab = s.fab := rfl
@[simp] theorem State.modCfg_parts (s : State) (f : CfgStore → CfgStore) : (s.modCfg f).parts = s.parts := rfl
@[simp] theorem State.modCfg_lf (s : State) (f : CfgStore → CfgStore) : (s.modCfg f).lf = s.lf := rfl
@[simp] theorem State.modCfg_pop (s : State) (f : CfgStore → CfgStore) : (s.modCfg f).pop = s.pop := rfl
@[simp] theorem State.modCfg_radio (s : State) (f : CfgStore → CfgStore) : (s.modCfg f).radio = s.radio := rfl
@[simp] theorem State.modCfg_sess (s : State) (f : CfgStore → CfgStore) : (s.modCfg f).sess = s.sess := rfl
@[simp] theorem State.modCfg_rel (s : State) (f : CfgStore → CfgStore) : (s.modCfg f).rel = s.rel := rfl
@[simp] theorem State.modCfg_crypt (s : State) (f : CfgStore → CfgStore) : (s.modCfg f).crypt = s.crypt := rfl
@[simp] theorem State.modCfg_keys (s : State) (f : CfgStore → CfgStore) : (s.modCfg f).keys = s.keys := rfl
@[simp] theorem State.modCfg_met (s : State) (f : CfgStore → CfgStore) : (s.modCfg f).met = s.met := rfl
@[simp] theorem State.modCfg_ledger (s : State) (f : CfgStore → CfgStore) : (s.modCfg f).ledger = s.ledger := rfl
@[simp] theorem State.modCfg_health (s : State) (f : CfgStore → CfgStore) : (s.modCfg f).health = s.health := rfl
@[simp] theorem State.modCfg_net (s : State) (f : CfgStore → CfgStore) : (s.modCfg f).net = s.net := rfl
@[simp] theorem State.modCfg_power (s : State) (f : CfgStore → CfgStore) : (s.modCfg f).power = s.power := rfl
@[simp] theorem State.modCfg_cores (s : State) (f : CfgStore → CfgStore) : (s.modCfg f).cores = s.cores := rfl
@[simp] theorem State.modCfg_tamper (s : State) (f : CfgStore → CfgStore) : (s.modCfg f).tamper = s.tamper := rfl
@[simp] theorem State.modCfg_jtag (s : State) (f : CfgStore → CfgStore) : (s.modCfg f).jtag = s.jtag := rfl
@[simp] theorem State.modCfg_mem (s : State) (f : CfgStore → CfgStore) : (s.modCfg f).mem = s.mem := rfl
@[simp] theorem State.modCfg_free (s : State) (f : CfgStore → CfgStore) : (s.modCfg f).free = s.free := rfl
@[simp] theorem State.modCfg_pending (s : State) (f : CfgStore → CfgStore) : (s.modCfg f).pending = s.pending := rfl

@[simp] theorem State.modFab_tbu (s : State) (f : Fabric → Fabric) : (s.modFab f).tbu = s.tbu := rfl
@[simp] theorem State.modFab_tmr (s : State) (f : Fabric → Fabric) : (s.modFab f).tmr = s.tmr := rfl
@[simp] theorem State.modFab_evc (s : State) (f : Fabric → Fabric) : (s.modFab f).evc = s.evc := rfl
@[simp] theorem State.modFab_psc (s : State) (f : Fabric → Fabric) : (s.modFab f).psc = s.psc := rfl
@[simp] theorem State.modFab_pad (s : State) (f : Fabric → Fabric) : (s.modFab f).pad = s.pad := rfl
@[simp] theorem State.modFab_mbx (s : State) (f : Fabric → Fabric) : (s.modFab f).mbx = s.mbx := rfl
@[simp] theorem State.modFab_boot (s : State) (f : Fabric → Fabric) : (s.modFab f).boot = s.boot := rfl
@[simp] theorem State.modFab_cfg (s : State) (f : Fabric → Fabric) : (s.modFab f).cfg = s.cfg := rfl
@[simp] theorem State.modFab_fab (s : State) (f : Fabric → Fabric) : (s.modFab f).fab = f s.fab := rfl
@[simp] theorem State.modFab_parts (s : State) (f : Fabric → Fabric) : (s.modFab f).parts = s.parts := rfl
@[simp] theorem State.modFab_lf (s : State) (f : Fabric → Fabric) : (s.modFab f).lf = s.lf := rfl
@[simp] theorem State.modFab_pop (s : State) (f : Fabric → Fabric) : (s.modFab f).pop = s.pop := rfl
@[simp] theorem State.modFab_radio (s : State) (f : Fabric → Fabric) : (s.modFab f).radio = s.radio := rfl
@[simp] theorem State.modFab_sess (s : State) (f : Fabric → Fabric) : (s.modFab f).sess = s.sess := rfl
@[simp] theorem State.modFab_rel (s : State) (f : Fabric → Fabric) : (s.modFab f).rel = s.rel := rfl
@[simp] theorem State.modFab_crypt (s : State) (f : Fabric → Fabric) : (s.modFab f).crypt = s.crypt := rfl
@[simp] theorem State.modFab_keys (s : State) (f : Fabric → Fabric) : (s.modFab f).keys = s.keys := rfl
@[simp] theorem State.modFab_met (s : State) (f : Fabric → Fabric) : (s.modFab f).met = s.met := rfl
@[simp] theorem State.modFab_ledger (s : State) (f : Fabric → Fabric) : (s.modFab f).ledger = s.ledger := rfl
@[simp] theorem State.modFab_health (s : State) (f : Fabric → Fabric) : (s.modFab f).health = s.health := rfl
@[simp] theorem State.modFab_net (s : State) (f : Fabric → Fabric) : (s.modFab f).net = s.net := rfl
@[simp] theorem State.modFab_power (s : State) (f : Fabric → Fabric) : (s.modFab f).power = s.power := rfl
@[simp] theorem State.modFab_cores (s : State) (f : Fabric → Fabric) : (s.modFab f).cores = s.cores := rfl
@[simp] theorem State.modFab_tamper (s : State) (f : Fabric → Fabric) : (s.modFab f).tamper = s.tamper := rfl
@[simp] theorem State.modFab_jtag (s : State) (f : Fabric → Fabric) : (s.modFab f).jtag = s.jtag := rfl
@[simp] theorem State.modFab_mem (s : State) (f : Fabric → Fabric) : (s.modFab f).mem = s.mem := rfl
@[simp] theorem State.modFab_free (s : State) (f : Fabric → Fabric) : (s.modFab f).free = s.free := rfl
@[simp] theorem State.modFab_pending (s : State) (f : Fabric → Fabric) : (s.modFab f).pending = s.pending := rfl

@[simp] theorem State.modParts_tbu (s : State) (f : Parts → Parts) : (s.modParts f).tbu = s.tbu := rfl
@[simp] theorem State.modParts_tmr (s : State) (f : Parts → Parts) : (s.modParts f).tmr = s.tmr := rfl
@[simp] theorem State.modParts_evc (s : State) (f : Parts → Parts) : (s.modParts f).evc = s.evc := rfl
@[simp] theorem State.modParts_psc (s : State) (f : Parts → Parts) : (s.modParts f).psc = s.psc := rfl
@[simp] theorem State.modParts_pad (s : State) (f : Parts → Parts) : (s.modParts f).pad = s.pad := rfl
@[simp] theorem State.modParts_mbx (s : State) (f : Parts → Parts) : (s.modParts f).mbx = s.mbx := rfl
@[simp] theorem State.modParts_boot (s : State) (f : Parts → Parts) : (s.modParts f).boot = s.boot := rfl
@[simp] theorem State.modParts_cfg (s : State) (f : Parts → Parts) : (s.modParts f).cfg = s.cfg := rfl
@[simp] theorem State.modParts_fab (s : State) (f : Parts → Parts) : (s.modParts f).fab = s.fab := rfl
@[simp] theorem State.modParts_parts (s : State) (f : Parts → Parts) : (s.modParts f).parts = f s.parts := rfl
@[simp] theorem State.modParts_lf (s : State) (f : Parts → Parts) : (s.modParts f).lf = s.lf := rfl
@[simp] theorem State.modParts_pop (s : State) (f : Parts → Parts) : (s.modParts f).pop = s.pop := rfl
@[simp] theorem State.modParts_radio (s : State) (f : Parts → Parts) : (s.modParts f).radio = s.radio := rfl
@[simp] theorem State.modParts_sess (s : State) (f : Parts → Parts) : (s.modParts f).sess = s.sess := rfl
@[simp] theorem State.modParts_rel (s : State) (f : Parts → Parts) : (s.modParts f).rel = s.rel := rfl
@[simp] theorem State.modParts_crypt (s : State) (f : Parts → Parts) : (s.modParts f).crypt = s.crypt := rfl
@[simp] theorem State.modParts_keys (s : State) (f : Parts → Parts) : (s.modParts f).keys = s.keys := rfl
@[simp] theorem State.modParts_met (s : State) (f : Parts → Parts) : (s.modParts f).met = s.met := rfl
@[simp] theorem State.modParts_ledger (s : State) (f : Parts → Parts) : (s.modParts f).ledger = s.ledger := rfl
@[simp] theorem State.modParts_health (s : State) (f : Parts → Parts) : (s.modParts f).health = s.health := rfl
@[simp] theorem State.modParts_net (s : State) (f : Parts → Parts) : (s.modParts f).net = s.net := rfl
@[simp] theorem State.modParts_power (s : State) (f : Parts → Parts) : (s.modParts f).power = s.power := rfl
@[simp] theorem State.modParts_cores (s : State) (f : Parts → Parts) : (s.modParts f).cores = s.cores := rfl
@[simp] theorem State.modParts_tamper (s : State) (f : Parts → Parts) : (s.modParts f).tamper = s.tamper := rfl
@[simp] theorem State.modParts_jtag (s : State) (f : Parts → Parts) : (s.modParts f).jtag = s.jtag := rfl
@[simp] theorem State.modParts_mem (s : State) (f : Parts → Parts) : (s.modParts f).mem = s.mem := rfl
@[simp] theorem State.modParts_free (s : State) (f : Parts → Parts) : (s.modParts f).free = s.free := rfl
@[simp] theorem State.modParts_pending (s : State) (f : Parts → Parts) : (s.modParts f).pending = s.pending := rfl

@[simp] theorem State.modLf_tbu (s : State) (f : Lf → Lf) : (s.modLf f).tbu = s.tbu := rfl
@[simp] theorem State.modLf_tmr (s : State) (f : Lf → Lf) : (s.modLf f).tmr = s.tmr := rfl
@[simp] theorem State.modLf_evc (s : State) (f : Lf → Lf) : (s.modLf f).evc = s.evc := rfl
@[simp] theorem State.modLf_psc (s : State) (f : Lf → Lf) : (s.modLf f).psc = s.psc := rfl
@[simp] theorem State.modLf_pad (s : State) (f : Lf → Lf) : (s.modLf f).pad = s.pad := rfl
@[simp] theorem State.modLf_mbx (s : State) (f : Lf → Lf) : (s.modLf f).mbx = s.mbx := rfl
@[simp] theorem State.modLf_boot (s : State) (f : Lf → Lf) : (s.modLf f).boot = s.boot := rfl
@[simp] theorem State.modLf_cfg (s : State) (f : Lf → Lf) : (s.modLf f).cfg = s.cfg := rfl
@[simp] theorem State.modLf_fab (s : State) (f : Lf → Lf) : (s.modLf f).fab = s.fab := rfl
@[simp] theorem State.modLf_parts (s : State) (f : Lf → Lf) : (s.modLf f).parts = s.parts := rfl
@[simp] theorem State.modLf_lf (s : State) (f : Lf → Lf) : (s.modLf f).lf = f s.lf := rfl
@[simp] theorem State.modLf_pop (s : State) (f : Lf → Lf) : (s.modLf f).pop = s.pop := rfl
@[simp] theorem State.modLf_radio (s : State) (f : Lf → Lf) : (s.modLf f).radio = s.radio := rfl
@[simp] theorem State.modLf_sess (s : State) (f : Lf → Lf) : (s.modLf f).sess = s.sess := rfl
@[simp] theorem State.modLf_rel (s : State) (f : Lf → Lf) : (s.modLf f).rel = s.rel := rfl
@[simp] theorem State.modLf_crypt (s : State) (f : Lf → Lf) : (s.modLf f).crypt = s.crypt := rfl
@[simp] theorem State.modLf_keys (s : State) (f : Lf → Lf) : (s.modLf f).keys = s.keys := rfl
@[simp] theorem State.modLf_met (s : State) (f : Lf → Lf) : (s.modLf f).met = s.met := rfl
@[simp] theorem State.modLf_ledger (s : State) (f : Lf → Lf) : (s.modLf f).ledger = s.ledger := rfl
@[simp] theorem State.modLf_health (s : State) (f : Lf → Lf) : (s.modLf f).health = s.health := rfl
@[simp] theorem State.modLf_net (s : State) (f : Lf → Lf) : (s.modLf f).net = s.net := rfl
@[simp] theorem State.modLf_power (s : State) (f : Lf → Lf) : (s.modLf f).power = s.power := rfl
@[simp] theorem State.modLf_cores (s : State) (f : Lf → Lf) : (s.modLf f).cores = s.cores := rfl
@[simp] theorem State.modLf_tamper (s : State) (f : Lf → Lf) : (s.modLf f).tamper = s.tamper := rfl
@[simp] theorem State.modLf_jtag (s : State) (f : Lf → Lf) : (s.modLf f).jtag = s.jtag := rfl
@[simp] theorem State.modLf_mem (s : State) (f : Lf → Lf) : (s.modLf f).mem = s.mem := rfl
@[simp] theorem State.modLf_free (s : State) (f : Lf → Lf) : (s.modLf f).free = s.free := rfl
@[simp] theorem State.modLf_pending (s : State) (f : Lf → Lf) : (s.modLf f).pending = s.pending := rfl

@[simp] theorem State.modPop_tbu (s : State) (f : Pop → Pop) : (s.modPop f).tbu = s.tbu := rfl
@[simp] theorem State.modPop_tmr (s : State) (f : Pop → Pop) : (s.modPop f).tmr = s.tmr := rfl
@[simp] theorem State.modPop_evc (s : State) (f : Pop → Pop) : (s.modPop f).evc = s.evc := rfl
@[simp] theorem State.modPop_psc (s : State) (f : Pop → Pop) : (s.modPop f).psc = s.psc := rfl
@[simp] theorem State.modPop_pad (s : State) (f : Pop → Pop) : (s.modPop f).pad = s.pad := rfl
@[simp] theorem State.modPop_mbx (s : State) (f : Pop → Pop) : (s.modPop f).mbx = s.mbx := rfl
@[simp] theorem State.modPop_boot (s : State) (f : Pop → Pop) : (s.modPop f).boot = s.boot := rfl
@[simp] theorem State.modPop_cfg (s : State) (f : Pop → Pop) : (s.modPop f).cfg = s.cfg := rfl
@[simp] theorem State.modPop_fab (s : State) (f : Pop → Pop) : (s.modPop f).fab = s.fab := rfl
@[simp] theorem State.modPop_parts (s : State) (f : Pop → Pop) : (s.modPop f).parts = s.parts := rfl
@[simp] theorem State.modPop_lf (s : State) (f : Pop → Pop) : (s.modPop f).lf = s.lf := rfl
@[simp] theorem State.modPop_pop (s : State) (f : Pop → Pop) : (s.modPop f).pop = f s.pop := rfl
@[simp] theorem State.modPop_radio (s : State) (f : Pop → Pop) : (s.modPop f).radio = s.radio := rfl
@[simp] theorem State.modPop_sess (s : State) (f : Pop → Pop) : (s.modPop f).sess = s.sess := rfl
@[simp] theorem State.modPop_rel (s : State) (f : Pop → Pop) : (s.modPop f).rel = s.rel := rfl
@[simp] theorem State.modPop_crypt (s : State) (f : Pop → Pop) : (s.modPop f).crypt = s.crypt := rfl
@[simp] theorem State.modPop_keys (s : State) (f : Pop → Pop) : (s.modPop f).keys = s.keys := rfl
@[simp] theorem State.modPop_met (s : State) (f : Pop → Pop) : (s.modPop f).met = s.met := rfl
@[simp] theorem State.modPop_ledger (s : State) (f : Pop → Pop) : (s.modPop f).ledger = s.ledger := rfl
@[simp] theorem State.modPop_health (s : State) (f : Pop → Pop) : (s.modPop f).health = s.health := rfl
@[simp] theorem State.modPop_net (s : State) (f : Pop → Pop) : (s.modPop f).net = s.net := rfl
@[simp] theorem State.modPop_power (s : State) (f : Pop → Pop) : (s.modPop f).power = s.power := rfl
@[simp] theorem State.modPop_cores (s : State) (f : Pop → Pop) : (s.modPop f).cores = s.cores := rfl
@[simp] theorem State.modPop_tamper (s : State) (f : Pop → Pop) : (s.modPop f).tamper = s.tamper := rfl
@[simp] theorem State.modPop_jtag (s : State) (f : Pop → Pop) : (s.modPop f).jtag = s.jtag := rfl
@[simp] theorem State.modPop_mem (s : State) (f : Pop → Pop) : (s.modPop f).mem = s.mem := rfl
@[simp] theorem State.modPop_free (s : State) (f : Pop → Pop) : (s.modPop f).free = s.free := rfl
@[simp] theorem State.modPop_pending (s : State) (f : Pop → Pop) : (s.modPop f).pending = s.pending := rfl

@[simp] theorem State.modRadio_tbu (s : State) (f : Radio → Radio) : (s.modRadio f).tbu = s.tbu := rfl
@[simp] theorem State.modRadio_tmr (s : State) (f : Radio → Radio) : (s.modRadio f).tmr = s.tmr := rfl
@[simp] theorem State.modRadio_evc (s : State) (f : Radio → Radio) : (s.modRadio f).evc = s.evc := rfl
@[simp] theorem State.modRadio_psc (s : State) (f : Radio → Radio) : (s.modRadio f).psc = s.psc := rfl
@[simp] theorem State.modRadio_pad (s : State) (f : Radio → Radio) : (s.modRadio f).pad = s.pad := rfl
@[simp] theorem State.modRadio_mbx (s : State) (f : Radio → Radio) : (s.modRadio f).mbx = s.mbx := rfl
@[simp] theorem State.modRadio_boot (s : State) (f : Radio → Radio) : (s.modRadio f).boot = s.boot := rfl
@[simp] theorem State.modRadio_cfg (s : State) (f : Radio → Radio) : (s.modRadio f).cfg = s.cfg := rfl
@[simp] theorem State.modRadio_fab (s : State) (f : Radio → Radio) : (s.modRadio f).fab = s.fab := rfl
@[simp] theorem State.modRadio_parts (s : State) (f : Radio → Radio) : (s.modRadio f).parts = s.parts := rfl
@[simp] theorem State.modRadio_lf (s : State) (f : Radio → Radio) : (s.modRadio f).lf = s.lf := rfl
@[simp] theorem State.modRadio_pop (s : State) (f : Radio → Radio) : (s.modRadio f).pop = s.pop := rfl
@[simp] theorem State.modRadio_radio (s : State) (f : Radio → Radio) : (s.modRadio f).radio = f s.radio := rfl
@[simp] theorem State.modRadio_sess (s : State) (f : Radio → Radio) : (s.modRadio f).sess = s.sess := rfl
@[simp] theorem State.modRadio_rel (s : State) (f : Radio → Radio) : (s.modRadio f).rel = s.rel := rfl
@[simp] theorem State.modRadio_crypt (s : State) (f : Radio → Radio) : (s.modRadio f).crypt = s.crypt := rfl
@[simp] theorem State.modRadio_keys (s : State) (f : Radio → Radio) : (s.modRadio f).keys = s.keys := rfl
@[simp] theorem State.modRadio_met (s : State) (f : Radio → Radio) : (s.modRadio f).met = s.met := rfl
@[simp] theorem State.modRadio_ledger (s : State) (f : Radio → Radio) : (s.modRadio f).ledger = s.ledger := rfl
@[simp] theorem State.modRadio_health (s : State) (f : Radio → Radio) : (s.modRadio f).health = s.health := rfl
@[simp] theorem State.modRadio_net (s : State) (f : Radio → Radio) : (s.modRadio f).net = s.net := rfl
@[simp] theorem State.modRadio_power (s : State) (f : Radio → Radio) : (s.modRadio f).power = s.power := rfl
@[simp] theorem State.modRadio_cores (s : State) (f : Radio → Radio) : (s.modRadio f).cores = s.cores := rfl
@[simp] theorem State.modRadio_tamper (s : State) (f : Radio → Radio) : (s.modRadio f).tamper = s.tamper := rfl
@[simp] theorem State.modRadio_jtag (s : State) (f : Radio → Radio) : (s.modRadio f).jtag = s.jtag := rfl
@[simp] theorem State.modRadio_mem (s : State) (f : Radio → Radio) : (s.modRadio f).mem = s.mem := rfl
@[simp] theorem State.modRadio_free (s : State) (f : Radio → Radio) : (s.modRadio f).free = s.free := rfl
@[simp] theorem State.modRadio_pending (s : State) (f : Radio → Radio) : (s.modRadio f).pending = s.pending := rfl

@[simp] theorem State.modSess_tbu (s : State) (f : Sess → Sess) : (s.modSess f).tbu = s.tbu := rfl
@[simp] theorem State.modSess_tmr (s : State) (f : Sess → Sess) : (s.modSess f).tmr = s.tmr := rfl
@[simp] theorem State.modSess_evc (s : State) (f : Sess → Sess) : (s.modSess f).evc = s.evc := rfl
@[simp] theorem State.modSess_psc (s : State) (f : Sess → Sess) : (s.modSess f).psc = s.psc := rfl
@[simp] theorem State.modSess_pad (s : State) (f : Sess → Sess) : (s.modSess f).pad = s.pad := rfl
@[simp] theorem State.modSess_mbx (s : State) (f : Sess → Sess) : (s.modSess f).mbx = s.mbx := rfl
@[simp] theorem State.modSess_boot (s : State) (f : Sess → Sess) : (s.modSess f).boot = s.boot := rfl
@[simp] theorem State.modSess_cfg (s : State) (f : Sess → Sess) : (s.modSess f).cfg = s.cfg := rfl
@[simp] theorem State.modSess_fab (s : State) (f : Sess → Sess) : (s.modSess f).fab = s.fab := rfl
@[simp] theorem State.modSess_parts (s : State) (f : Sess → Sess) : (s.modSess f).parts = s.parts := rfl
@[simp] theorem State.modSess_lf (s : State) (f : Sess → Sess) : (s.modSess f).lf = s.lf := rfl
@[simp] theorem State.modSess_pop (s : State) (f : Sess → Sess) : (s.modSess f).pop = s.pop := rfl
@[simp] theorem State.modSess_radio (s : State) (f : Sess → Sess) : (s.modSess f).radio = s.radio := rfl
@[simp] theorem State.modSess_sess (s : State) (f : Sess → Sess) : (s.modSess f).sess = f s.sess := rfl
@[simp] theorem State.modSess_rel (s : State) (f : Sess → Sess) : (s.modSess f).rel = s.rel := rfl
@[simp] theorem State.modSess_crypt (s : State) (f : Sess → Sess) : (s.modSess f).crypt = s.crypt := rfl
@[simp] theorem State.modSess_keys (s : State) (f : Sess → Sess) : (s.modSess f).keys = s.keys := rfl
@[simp] theorem State.modSess_met (s : State) (f : Sess → Sess) : (s.modSess f).met = s.met := rfl
@[simp] theorem State.modSess_ledger (s : State) (f : Sess → Sess) : (s.modSess f).ledger = s.ledger := rfl
@[simp] theorem State.modSess_health (s : State) (f : Sess → Sess) : (s.modSess f).health = s.health := rfl
@[simp] theorem State.modSess_net (s : State) (f : Sess → Sess) : (s.modSess f).net = s.net := rfl
@[simp] theorem State.modSess_power (s : State) (f : Sess → Sess) : (s.modSess f).power = s.power := rfl
@[simp] theorem State.modSess_cores (s : State) (f : Sess → Sess) : (s.modSess f).cores = s.cores := rfl
@[simp] theorem State.modSess_tamper (s : State) (f : Sess → Sess) : (s.modSess f).tamper = s.tamper := rfl
@[simp] theorem State.modSess_jtag (s : State) (f : Sess → Sess) : (s.modSess f).jtag = s.jtag := rfl
@[simp] theorem State.modSess_mem (s : State) (f : Sess → Sess) : (s.modSess f).mem = s.mem := rfl
@[simp] theorem State.modSess_free (s : State) (f : Sess → Sess) : (s.modSess f).free = s.free := rfl
@[simp] theorem State.modSess_pending (s : State) (f : Sess → Sess) : (s.modSess f).pending = s.pending := rfl

@[simp] theorem State.modRel_tbu (s : State) (f : Rel → Rel) : (s.modRel f).tbu = s.tbu := rfl
@[simp] theorem State.modRel_tmr (s : State) (f : Rel → Rel) : (s.modRel f).tmr = s.tmr := rfl
@[simp] theorem State.modRel_evc (s : State) (f : Rel → Rel) : (s.modRel f).evc = s.evc := rfl
@[simp] theorem State.modRel_psc (s : State) (f : Rel → Rel) : (s.modRel f).psc = s.psc := rfl
@[simp] theorem State.modRel_pad (s : State) (f : Rel → Rel) : (s.modRel f).pad = s.pad := rfl
@[simp] theorem State.modRel_mbx (s : State) (f : Rel → Rel) : (s.modRel f).mbx = s.mbx := rfl
@[simp] theorem State.modRel_boot (s : State) (f : Rel → Rel) : (s.modRel f).boot = s.boot := rfl
@[simp] theorem State.modRel_cfg (s : State) (f : Rel → Rel) : (s.modRel f).cfg = s.cfg := rfl
@[simp] theorem State.modRel_fab (s : State) (f : Rel → Rel) : (s.modRel f).fab = s.fab := rfl
@[simp] theorem State.modRel_parts (s : State) (f : Rel → Rel) : (s.modRel f).parts = s.parts := rfl
@[simp] theorem State.modRel_lf (s : State) (f : Rel → Rel) : (s.modRel f).lf = s.lf := rfl
@[simp] theorem State.modRel_pop (s : State) (f : Rel → Rel) : (s.modRel f).pop = s.pop := rfl
@[simp] theorem State.modRel_radio (s : State) (f : Rel → Rel) : (s.modRel f).radio = s.radio := rfl
@[simp] theorem State.modRel_sess (s : State) (f : Rel → Rel) : (s.modRel f).sess = s.sess := rfl
@[simp] theorem State.modRel_rel (s : State) (f : Rel → Rel) : (s.modRel f).rel = f s.rel := rfl
@[simp] theorem State.modRel_crypt (s : State) (f : Rel → Rel) : (s.modRel f).crypt = s.crypt := rfl
@[simp] theorem State.modRel_keys (s : State) (f : Rel → Rel) : (s.modRel f).keys = s.keys := rfl
@[simp] theorem State.modRel_met (s : State) (f : Rel → Rel) : (s.modRel f).met = s.met := rfl
@[simp] theorem State.modRel_ledger (s : State) (f : Rel → Rel) : (s.modRel f).ledger = s.ledger := rfl
@[simp] theorem State.modRel_health (s : State) (f : Rel → Rel) : (s.modRel f).health = s.health := rfl
@[simp] theorem State.modRel_net (s : State) (f : Rel → Rel) : (s.modRel f).net = s.net := rfl
@[simp] theorem State.modRel_power (s : State) (f : Rel → Rel) : (s.modRel f).power = s.power := rfl
@[simp] theorem State.modRel_cores (s : State) (f : Rel → Rel) : (s.modRel f).cores = s.cores := rfl
@[simp] theorem State.modRel_tamper (s : State) (f : Rel → Rel) : (s.modRel f).tamper = s.tamper := rfl
@[simp] theorem State.modRel_jtag (s : State) (f : Rel → Rel) : (s.modRel f).jtag = s.jtag := rfl
@[simp] theorem State.modRel_mem (s : State) (f : Rel → Rel) : (s.modRel f).mem = s.mem := rfl
@[simp] theorem State.modRel_free (s : State) (f : Rel → Rel) : (s.modRel f).free = s.free := rfl
@[simp] theorem State.modRel_pending (s : State) (f : Rel → Rel) : (s.modRel f).pending = s.pending := rfl

@[simp] theorem State.modCrypt_tbu (s : State) (f : Crypt → Crypt) : (s.modCrypt f).tbu = s.tbu := rfl
@[simp] theorem State.modCrypt_tmr (s : State) (f : Crypt → Crypt) : (s.modCrypt f).tmr = s.tmr := rfl
@[simp] theorem State.modCrypt_evc (s : State) (f : Crypt → Crypt) : (s.modCrypt f).evc = s.evc := rfl
@[simp] theorem State.modCrypt_psc (s : State) (f : Crypt → Crypt) : (s.modCrypt f).psc = s.psc := rfl
@[simp] theorem State.modCrypt_pad (s : State) (f : Crypt → Crypt) : (s.modCrypt f).pad = s.pad := rfl
@[simp] theorem State.modCrypt_mbx (s : State) (f : Crypt → Crypt) : (s.modCrypt f).mbx = s.mbx := rfl
@[simp] theorem State.modCrypt_boot (s : State) (f : Crypt → Crypt) : (s.modCrypt f).boot = s.boot := rfl
@[simp] theorem State.modCrypt_cfg (s : State) (f : Crypt → Crypt) : (s.modCrypt f).cfg = s.cfg := rfl
@[simp] theorem State.modCrypt_fab (s : State) (f : Crypt → Crypt) : (s.modCrypt f).fab = s.fab := rfl
@[simp] theorem State.modCrypt_parts (s : State) (f : Crypt → Crypt) : (s.modCrypt f).parts = s.parts := rfl
@[simp] theorem State.modCrypt_lf (s : State) (f : Crypt → Crypt) : (s.modCrypt f).lf = s.lf := rfl
@[simp] theorem State.modCrypt_pop (s : State) (f : Crypt → Crypt) : (s.modCrypt f).pop = s.pop := rfl
@[simp] theorem State.modCrypt_radio (s : State) (f : Crypt → Crypt) : (s.modCrypt f).radio = s.radio := rfl
@[simp] theorem State.modCrypt_sess (s : State) (f : Crypt → Crypt) : (s.modCrypt f).sess = s.sess := rfl
@[simp] theorem State.modCrypt_rel (s : State) (f : Crypt → Crypt) : (s.modCrypt f).rel = s.rel := rfl
@[simp] theorem State.modCrypt_crypt (s : State) (f : Crypt → Crypt) : (s.modCrypt f).crypt = f s.crypt := rfl
@[simp] theorem State.modCrypt_keys (s : State) (f : Crypt → Crypt) : (s.modCrypt f).keys = s.keys := rfl
@[simp] theorem State.modCrypt_met (s : State) (f : Crypt → Crypt) : (s.modCrypt f).met = s.met := rfl
@[simp] theorem State.modCrypt_ledger (s : State) (f : Crypt → Crypt) : (s.modCrypt f).ledger = s.ledger := rfl
@[simp] theorem State.modCrypt_health (s : State) (f : Crypt → Crypt) : (s.modCrypt f).health = s.health := rfl
@[simp] theorem State.modCrypt_net (s : State) (f : Crypt → Crypt) : (s.modCrypt f).net = s.net := rfl
@[simp] theorem State.modCrypt_power (s : State) (f : Crypt → Crypt) : (s.modCrypt f).power = s.power := rfl
@[simp] theorem State.modCrypt_cores (s : State) (f : Crypt → Crypt) : (s.modCrypt f).cores = s.cores := rfl
@[simp] theorem State.modCrypt_tamper (s : State) (f : Crypt → Crypt) : (s.modCrypt f).tamper = s.tamper := rfl
@[simp] theorem State.modCrypt_jtag (s : State) (f : Crypt → Crypt) : (s.modCrypt f).jtag = s.jtag := rfl
@[simp] theorem State.modCrypt_mem (s : State) (f : Crypt → Crypt) : (s.modCrypt f).mem = s.mem := rfl
@[simp] theorem State.modCrypt_free (s : State) (f : Crypt → Crypt) : (s.modCrypt f).free = s.free := rfl
@[simp] theorem State.modCrypt_pending (s : State) (f : Crypt → Crypt) : (s.modCrypt f).pending = s.pending := rfl

@[simp] theorem State.modKeys_tbu (s : State) (f : Keys → Keys) : (s.modKeys f).tbu = s.tbu := rfl
@[simp] theorem State.modKeys_tmr (s : State) (f : Keys → Keys) : (s.modKeys f).tmr = s.tmr := rfl
@[simp] theorem State.modKeys_evc (s : State) (f : Keys → Keys) : (s.modKeys f).evc = s.evc := rfl
@[simp] theorem State.modKeys_psc (s : State) (f : Keys → Keys) : (s.modKeys f).psc = s.psc := rfl
@[simp] theorem State.modKeys_pad (s : State) (f : Keys → Keys) : (s.modKeys f).pad = s.pad := rfl
@[simp] theorem State.modKeys_mbx (s : State) (f : Keys → Keys) : (s.modKeys f).mbx = s.mbx := rfl
@[simp] theorem State.modKeys_boot (s : State) (f : Keys → Keys) : (s.modKeys f).boot = s.boot := rfl
@[simp] theorem State.modKeys_cfg (s : State) (f : Keys → Keys) : (s.modKeys f).cfg = s.cfg := rfl
@[simp] theorem State.modKeys_fab (s : State) (f : Keys → Keys) : (s.modKeys f).fab = s.fab := rfl
@[simp] theorem State.modKeys_parts (s : State) (f : Keys → Keys) : (s.modKeys f).parts = s.parts := rfl
@[simp] theorem State.modKeys_lf (s : State) (f : Keys → Keys) : (s.modKeys f).lf = s.lf := rfl
@[simp] theorem State.modKeys_pop (s : State) (f : Keys → Keys) : (s.modKeys f).pop = s.pop := rfl
@[simp] theorem State.modKeys_radio (s : State) (f : Keys → Keys) : (s.modKeys f).radio = s.radio := rfl
@[simp] theorem State.modKeys_sess (s : State) (f : Keys → Keys) : (s.modKeys f).sess = s.sess := rfl
@[simp] theorem State.modKeys_rel (s : State) (f : Keys → Keys) : (s.modKeys f).rel = s.rel := rfl
@[simp] theorem State.modKeys_crypt (s : State) (f : Keys → Keys) : (s.modKeys f).crypt = s.crypt := rfl
@[simp] theorem State.modKeys_keys (s : State) (f : Keys → Keys) : (s.modKeys f).keys = f s.keys := rfl
@[simp] theorem State.modKeys_met (s : State) (f : Keys → Keys) : (s.modKeys f).met = s.met := rfl
@[simp] theorem State.modKeys_ledger (s : State) (f : Keys → Keys) : (s.modKeys f).ledger = s.ledger := rfl
@[simp] theorem State.modKeys_health (s : State) (f : Keys → Keys) : (s.modKeys f).health = s.health := rfl
@[simp] theorem State.modKeys_net (s : State) (f : Keys → Keys) : (s.modKeys f).net = s.net := rfl
@[simp] theorem State.modKeys_power (s : State) (f : Keys → Keys) : (s.modKeys f).power = s.power := rfl
@[simp] theorem State.modKeys_cores (s : State) (f : Keys → Keys) : (s.modKeys f).cores = s.cores := rfl
@[simp] theorem State.modKeys_tamper (s : State) (f : Keys → Keys) : (s.modKeys f).tamper = s.tamper := rfl
@[simp] theorem State.modKeys_jtag (s : State) (f : Keys → Keys) : (s.modKeys f).jtag = s.jtag := rfl
@[simp] theorem State.modKeys_mem (s : State) (f : Keys → Keys) : (s.modKeys f).mem = s.mem := rfl
@[simp] theorem State.modKeys_free (s : State) (f : Keys → Keys) : (s.modKeys f).free = s.free := rfl
@[simp] theorem State.modKeys_pending (s : State) (f : Keys → Keys) : (s.modKeys f).pending = s.pending := rfl

@[simp] theorem State.modMet_tbu (s : State) (f : Met → Met) : (s.modMet f).tbu = s.tbu := rfl
@[simp] theorem State.modMet_tmr (s : State) (f : Met → Met) : (s.modMet f).tmr = s.tmr := rfl
@[simp] theorem State.modMet_evc (s : State) (f : Met → Met) : (s.modMet f).evc = s.evc := rfl
@[simp] theorem State.modMet_psc (s : State) (f : Met → Met) : (s.modMet f).psc = s.psc := rfl
@[simp] theorem State.modMet_pad (s : State) (f : Met → Met) : (s.modMet f).pad = s.pad := rfl
@[simp] theorem State.modMet_mbx (s : State) (f : Met → Met) : (s.modMet f).mbx = s.mbx := rfl
@[simp] theorem State.modMet_boot (s : State) (f : Met → Met) : (s.modMet f).boot = s.boot := rfl
@[simp] theorem State.modMet_cfg (s : State) (f : Met → Met) : (s.modMet f).cfg = s.cfg := rfl
@[simp] theorem State.modMet_fab (s : State) (f : Met → Met) : (s.modMet f).fab = s.fab := rfl
@[simp] theorem State.modMet_parts (s : State) (f : Met → Met) : (s.modMet f).parts = s.parts := rfl
@[simp] theorem State.modMet_lf (s : State) (f : Met → Met) : (s.modMet f).lf = s.lf := rfl
@[simp] theorem State.modMet_pop (s : State) (f : Met → Met) : (s.modMet f).pop = s.pop := rfl
@[simp] theorem State.modMet_radio (s : State) (f : Met → Met) : (s.modMet f).radio = s.radio := rfl
@[simp] theorem State.modMet_sess (s : State) (f : Met → Met) : (s.modMet f).sess = s.sess := rfl
@[simp] theorem State.modMet_rel (s : State) (f : Met → Met) : (s.modMet f).rel = s.rel := rfl
@[simp] theorem State.modMet_crypt (s : State) (f : Met → Met) : (s.modMet f).crypt = s.crypt := rfl
@[simp] theorem State.modMet_keys (s : State) (f : Met → Met) : (s.modMet f).keys = s.keys := rfl
@[simp] theorem State.modMet_met (s : State) (f : Met → Met) : (s.modMet f).met = f s.met := rfl
@[simp] theorem State.modMet_ledger (s : State) (f : Met → Met) : (s.modMet f).ledger = s.ledger := rfl
@[simp] theorem State.modMet_health (s : State) (f : Met → Met) : (s.modMet f).health = s.health := rfl
@[simp] theorem State.modMet_net (s : State) (f : Met → Met) : (s.modMet f).net = s.net := rfl
@[simp] theorem State.modMet_power (s : State) (f : Met → Met) : (s.modMet f).power = s.power := rfl
@[simp] theorem State.modMet_cores (s : State) (f : Met → Met) : (s.modMet f).cores = s.cores := rfl
@[simp] theorem State.modMet_tamper (s : State) (f : Met → Met) : (s.modMet f).tamper = s.tamper := rfl
@[simp] theorem State.modMet_jtag (s : State) (f : Met → Met) : (s.modMet f).jtag = s.jtag := rfl
@[simp] theorem State.modMet_mem (s : State) (f : Met → Met) : (s.modMet f).mem = s.mem := rfl
@[simp] theorem State.modMet_free (s : State) (f : Met → Met) : (s.modMet f).free = s.free := rfl
@[simp] theorem State.modMet_pending (s : State) (f : Met → Met) : (s.modMet f).pending = s.pending := rfl

@[simp] theorem State.modLedger_tbu (s : State) (f : Ledger → Ledger) : (s.modLedger f).tbu = s.tbu := rfl
@[simp] theorem State.modLedger_tmr (s : State) (f : Ledger → Ledger) : (s.modLedger f).tmr = s.tmr := rfl
@[simp] theorem State.modLedger_evc (s : State) (f : Ledger → Ledger) : (s.modLedger f).evc = s.evc := rfl
@[simp] theorem State.modLedger_psc (s : State) (f : Ledger → Ledger) : (s.modLedger f).psc = s.psc := rfl
@[simp] theorem State.modLedger_pad (s : State) (f : Ledger → Ledger) : (s.modLedger f).pad = s.pad := rfl
@[simp] theorem State.modLedger_mbx (s : State) (f : Ledger → Ledger) : (s.modLedger f).mbx = s.mbx := rfl
@[simp] theorem State.modLedger_boot (s : State) (f : Ledger → Ledger) : (s.modLedger f).boot = s.boot := rfl
@[simp] theorem State.modLedger_cfg (s : State) (f : Ledger → Ledger) : (s.modLedger f).cfg = s.cfg := rfl
@[simp] theorem State.modLedger_fab (s : State) (f : Ledger → Ledger) : (s.modLedger f).fab = s.fab := rfl
@[simp] theorem State.modLedger_parts (s : State) (f : Ledger → Ledger) : (s.modLedger f).parts = s.parts := rfl
@[simp] theorem State.modLedger_lf (s : State) (f : Ledger → Ledger) : (s.modLedger f).lf = s.lf := rfl
@[simp] theorem State.modLedger_pop (s : State) (f : Ledger → Ledger) : (s.modLedger f).pop = s.pop := rfl
@[simp] theorem State.modLedger_radio (s : State) (f : Ledger → Ledger) : (s.modLedger f).radio = s.radio := rfl
@[simp] theorem State.modLedger_sess (s : State) (f : Ledger → Ledger) : (s.modLedger f).sess = s.sess := rfl
@[simp] theorem State.modLedger_rel (s : State) (f : Ledger → Ledger) : (s.modLedger f).rel = s.rel := rfl
@[simp] theorem State.modLedger_crypt (s : State) (f : Ledger → Ledger) : (s.modLedger f).crypt = s.crypt := rfl
@[simp] theorem State.modLedger_keys (s : State) (f : Ledger → Ledger) : (s.modLedger f).keys = s.keys := rfl
@[simp] theorem State.modLedger_met (s : State) (f : Ledger → Ledger) : (s.modLedger f).met = s.met := rfl
@[simp] theorem State.modLedger_ledger (s : State) (f : Ledger → Ledger) : (s.modLedger f).ledger = f s.ledger := rfl
@[simp] theorem State.modLedger_health (s : State) (f : Ledger → Ledger) : (s.modLedger f).health = s.health := rfl
@[simp] theorem State.modLedger_net (s : State) (f : Ledger → Ledger) : (s.modLedger f).net = s.net := rfl
@[simp] theorem State.modLedger_power (s : State) (f : Ledger → Ledger) : (s.modLedger f).power = s.power := rfl
@[simp] theorem State.modLedger_cores (s : State) (f : Ledger → Ledger) : (s.modLedger f).cores = s.cores := rfl
@[simp] theorem State.modLedger_tamper (s : State) (f : Ledger → Ledger) : (s.modLedger f).tamper = s.tamper := rfl
@[simp] theorem State.modLedger_jtag (s : State) (f : Ledger → Ledger) : (s.modLedger f).jtag = s.jtag := rfl
@[simp] theorem State.modLedger_mem (s : State) (f : Ledger → Ledger) : (s.modLedger f).mem = s.mem := rfl
@[simp] theorem State.modLedger_free (s : State) (f : Ledger → Ledger) : (s.modLedger f).free = s.free := rfl
@[simp] theorem State.modLedger_pending (s : State) (f : Ledger → Ledger) : (s.modLedger f).pending = s.pending := rfl

@[simp] theorem State.modHealth_tbu (s : State) (f : Health → Health) : (s.modHealth f).tbu = s.tbu := rfl
@[simp] theorem State.modHealth_tmr (s : State) (f : Health → Health) : (s.modHealth f).tmr = s.tmr := rfl
@[simp] theorem State.modHealth_evc (s : State) (f : Health → Health) : (s.modHealth f).evc = s.evc := rfl
@[simp] theorem State.modHealth_psc (s : State) (f : Health → Health) : (s.modHealth f).psc = s.psc := rfl
@[simp] theorem State.modHealth_pad (s : State) (f : Health → Health) : (s.modHealth f).pad = s.pad := rfl
@[simp] theorem State.modHealth_mbx (s : State) (f : Health → Health) : (s.modHealth f).mbx = s.mbx := rfl
@[simp] theorem State.modHealth_boot (s : State) (f : Health → Health) : (s.modHealth f).boot = s.boot := rfl
@[simp] theorem State.modHealth_cfg (s : State) (f : Health → Health) : (s.modHealth f).cfg = s.cfg := rfl
@[simp] theorem State.modHealth_fab (s : State) (f : Health → Health) : (s.modHealth f).fab = s.fab := rfl
@[simp] theorem State.modHealth_parts (s : State) (f : Health → Health) : (s.modHealth f).parts = s.parts := rfl
@[simp] theorem State.modHealth_lf (s : State) (f : Health → Health) : (s.modHealth f).lf = s.lf := rfl
@[simp] theorem State.modHealth_pop (s : State) (f : Health → Health) : (s.modHealth f).pop = s.pop := rfl
@[simp] theorem State.modHealth_radio (s : State) (f : Health → Health) : (s.modHealth f).radio = s.radio := rfl
@[simp] theorem State.modHealth_sess (s : State) (f : Health → Health) : (s.modHealth f).sess = s.sess := rfl
@[simp] theorem State.modHealth_rel (s : State) (f : Health → Health) : (s.modHealth f).rel = s.rel := rfl
@[simp] theorem State.modHealth_crypt (s : State) (f : Health → Health) : (s.modHealth f).crypt = s.crypt := rfl
@[simp] theorem State.modHealth_keys (s : State) (f : Health → Health) : (s.modHealth f).keys = s.keys := rfl
@[simp] theorem State.modHealth_met (s : State) (f : Health → Health) : (s.modHealth f).met = s.met := rfl
@[simp] theorem State.modHealth_ledger (s : State) (f : Health → Health) : (s.modHealth f).ledger = s.ledger := rfl
@[simp] theorem State.modHealth_health (s : State) (f : Health → Health) : (s.modHealth f).health = f s.health := rfl
@[simp] theorem State.modHealth_net (s : State) (f : Health → Health) : (s.modHealth f).net = s.net := rfl
@[simp] theorem State.modHealth_power (s : State) (f : Health → Health) : (s.modHealth f).power = s.power := rfl
@[simp] theorem State.modHealth_cores (s : State) (f : Health → Health) : (s.modHealth f).cores = s.cores := rfl
@[simp] theorem State.modHealth_tamper (s : State) (f : Health → Health) : (s.modHealth f).tamper = s.tamper := rfl
@[simp] theorem State.modHealth_jtag (s : State) (f : Health → Health) : (s.modHealth f).jtag = s.jtag := rfl
@[simp] theorem State.modHealth_mem (s : State) (f : Health → Health) : (s.modHealth f).mem = s.mem := rfl
@[simp] theorem State.modHealth_free (s : State) (f : Health → Health) : (s.modHealth f).free = s.free := rfl
@[simp] theorem State.modHealth_pending (s : State) (f : Health → Health) : (s.modHealth f).pending = s.pending := rfl

@[simp] theorem State.modNet_tbu (s : State) (f : Net → Net) : (s.modNet f).tbu = s.tbu := rfl
@[simp] theorem State.modNet_tmr (s : State) (f : Net → Net) : (s.modNet f).tmr = s.tmr := rfl
@[simp] theorem State.modNet_evc (s : State) (f : Net → Net) : (s.modNet f).evc = s.evc := rfl
@[simp] theorem State.modNet_psc (s : State) (f : Net → Net) : (s.modNet f).psc = s.psc := rfl
@[simp] theorem State.modNet_pad (s : State) (f : Net → Net) : (s.modNet f).pad = s.pad := rfl
@[simp] theorem State.modNet_mbx (s : State) (f : Net → Net) : (s.modNet f).mbx = s.mbx := rfl
@[simp] theorem State.modNet_boot (s : State) (f : Net → Net) : (s.modNet f).boot = s.boot := rfl
@[simp] theorem State.modNet_cfg (s : State) (f : Net → Net) : (s.modNet f).cfg = s.cfg := rfl
@[simp] theorem State.modNet_fab (s : State) (f : Net → Net) : (s.modNet f).fab = s.fab := rfl
@[simp] theorem State.modNet_parts (s : State) (f : Net → Net) : (s.modNet f).parts = s.parts := rfl
@[simp] theorem State.modNet_lf (s : State) (f : Net → Net) : (s.modNet f).lf = s.lf := rfl
@[simp] theorem State.modNet_pop (s : State) (f : Net → Net) : (s.modNet f).pop = s.pop := rfl
@[simp] theorem State.modNet_radio (s : State) (f : Net → Net) : (s.modNet f).radio = s.radio := rfl
@[simp] theorem State.modNet_sess (s : State) (f : Net → Net) : (s.modNet f).sess = s.sess := rfl
@[simp] theorem State.modNet_rel (s : State) (f : Net → Net) : (s.modNet f).rel = s.rel := rfl
@[simp] theorem State.modNet_crypt (s : State) (f : Net → Net) : (s.modNet f).crypt = s.crypt := rfl
@[simp] theorem State.modNet_keys (s : State) (f : Net → Net) : (s.modNet f).keys = s.keys := rfl
@[simp] theorem State.modNet_met (s : State) (f : Net → Net) : (s.modNet f).met = s.met := rfl
@[simp] theorem State.modNet_ledger (s : State) (f : Net → Net) : (s.modNet f).ledger = s.ledger := rfl
@[simp] theorem State.modNet_health (s : State) (f : Net → Net) : (s.modNet f).health = s.health := rfl
@[simp] theorem State.modNet_net (s : State) (f : Net → Net) : (s.modNet f).net = f s.net := rfl
@[simp] theorem State.modNet_power (s : State) (f : Net → Net) : (s.modNet f).power = s.power := rfl
@[simp] theorem State.modNet_cores (s : State) (f : Net → Net) : (s.modNet f).cores = s.cores := rfl
@[simp] theorem State.modNet_tamper (s : State) (f : Net → Net) : (s.modNet f).tamper = s.tamper := rfl
@[simp] theorem State.modNet_jtag (s : State) (f : Net → Net) : (s.modNet f).jtag = s.jtag := rfl
@[simp] theorem State.modNet_mem (s : State) (f : Net → Net) : (s.modNet f).mem = s.mem := rfl
@[simp] theorem State.modNet_free (s : State) (f : Net → Net) : (s.modNet f).free = s.free := rfl
@[simp] theorem State.modNet_pending (s : State) (f : Net → Net) : (s.modNet f).pending = s.pending := rfl

@[simp] theorem State.modPower_tbu (s : State) (f : Power → Power) : (s.modPower f).tbu = s.tbu := rfl
@[simp] theorem State.modPower_tmr (s : State) (f : Power → Power) : (s.modPower f).tmr = s.tmr := rfl
@[simp] theorem State.modPower_evc (s : State) (f : Power → Power) : (s.modPower f).evc = s.evc := rfl
@[simp] theorem State.modPower_psc (s : State) (f : Power → Power) : (s.modPower f).psc = s.psc := rfl
@[simp] theorem State.modPower_pad (s : State) (f : Power → Power) : (s.modPower f).pad = s.pad := rfl
@[simp] theorem State.modPower_mbx (s : State) (f : Power → Power) : (s.modPower f).mbx = s.mbx := rfl
@[simp] theorem State.modPower_boot (s : State) (f : Power → Power) : (s.modPower f).boot = s.boot := rfl
@[simp] theorem State.modPower_cfg (s : State) (f : Power → Power) : (s.modPower f).cfg = s.cfg := rfl
@[simp] theorem State.modPower_fab (s : State) (f : Power → Power) : (s.modPower f).fab = s.fab := rfl
@[simp] theorem State.modPower_parts (s : State) (f : Power → Power) : (s.modPower f).parts = s.parts := rfl
@[simp] theorem State.modPower_lf (s : State) (f : Power → Power) : (s.modPower f).lf = s.lf := rfl
@[simp] theorem State.modPower_pop (s : State) (f : Power → Power) : (s.modPower f).pop = s.pop := rfl
@[simp] theorem State.modPower_radio (s : State) (f : Power → Power) : (s.modPower f).radio = s.radio := rfl
@[simp] theorem State.modPower_sess (s : State) (f : Power → Power) : (s.modPower f).sess = s.sess := rfl
@[simp] theorem State.modPower_rel (s : State) (f : Power → Power) : (s.modPower f).rel = s.rel := rfl
@[simp] theorem State.modPower_crypt (s : State) (f : Power → Power) : (s.modPower f).crypt = s.crypt := rfl
@[simp] theorem State.modPower_keys (s : State) (f : Power → Power) : (s.modPower f).keys = s.keys := rfl
@[simp] theorem State.modPower_met (s : State) (f : Power → Power) : (s.modPower f).met = s.met := rfl
@[simp] theorem State.modPower_ledger (s : State) (f : Power → Power) : (s.modPower f).ledger = s.ledger := rfl
@[simp] theorem State.modPower_health (s : State) (f : Power → Power) : (s.modPower f).health = s.health := rfl
@[simp] theorem State.modPower_net (s : State) (f : Power → Power) : (s.modPower f).net = s.net := rfl
@[simp] theorem State.modPower_power (s : State) (f : Power → Power) : (s.modPower f).power = f s.power := rfl
@[simp] theorem State.modPower_cores (s : State) (f : Power → Power) : (s.modPower f).cores = s.cores := rfl
@[simp] theorem State.modPower_tamper (s : State) (f : Power → Power) : (s.modPower f).tamper = s.tamper := rfl
@[simp] theorem State.modPower_jtag (s : State) (f : Power → Power) : (s.modPower f).jtag = s.jtag := rfl
@[simp] theorem State.modPower_mem (s : State) (f : Power → Power) : (s.modPower f).mem = s.mem := rfl
@[simp] theorem State.modPower_free (s : State) (f : Power → Power) : (s.modPower f).free = s.free := rfl
@[simp] theorem State.modPower_pending (s : State) (f : Power → Power) : (s.modPower f).pending = s.pending := rfl

@[simp] theorem State.modCores_tbu (s : State) (f : Cores → Cores) : (s.modCores f).tbu = s.tbu := rfl
@[simp] theorem State.modCores_tmr (s : State) (f : Cores → Cores) : (s.modCores f).tmr = s.tmr := rfl
@[simp] theorem State.modCores_evc (s : State) (f : Cores → Cores) : (s.modCores f).evc = s.evc := rfl
@[simp] theorem State.modCores_psc (s : State) (f : Cores → Cores) : (s.modCores f).psc = s.psc := rfl
@[simp] theorem State.modCores_pad (s : State) (f : Cores → Cores) : (s.modCores f).pad = s.pad := rfl
@[simp] theorem State.modCores_mbx (s : State) (f : Cores → Cores) : (s.modCores f).mbx = s.mbx := rfl
@[simp] theorem State.modCores_boot (s : State) (f : Cores → Cores) : (s.modCores f).boot = s.boot := rfl
@[simp] theorem State.modCores_cfg (s : State) (f : Cores → Cores) : (s.modCores f).cfg = s.cfg := rfl
@[simp] theorem State.modCores_fab (s : State) (f : Cores → Cores) : (s.modCores f).fab = s.fab := rfl
@[simp] theorem State.modCores_parts (s : State) (f : Cores → Cores) : (s.modCores f).parts = s.parts := rfl
@[simp] theorem State.modCores_lf (s : State) (f : Cores → Cores) : (s.modCores f).lf = s.lf := rfl
@[simp] theorem State.modCores_pop (s : State) (f : Cores → Cores) : (s.modCores f).pop = s.pop := rfl
@[simp] theorem State.modCores_radio (s : State) (f : Cores → Cores) : (s.modCores f).radio = s.radio := rfl
@[simp] theorem State.modCores_sess (s : State) (f : Cores → Cores) : (s.modCores f).sess = s.sess := rfl
@[simp] theorem State.modCores_rel (s : State) (f : Cores → Cores) : (s.modCores f).rel = s.rel := rfl
@[simp] theorem State.modCores_crypt (s : State) (f : Cores → Cores) : (s.modCores f).crypt = s.crypt := rfl
@[simp] theorem State.modCores_keys (s : State) (f : Cores → Cores) : (s.modCores f).keys = s.keys := rfl
@[simp] theorem State.modCores_met (s : State) (f : Cores → Cores) : (s.modCores f).met = s.met := rfl
@[simp] theorem State.modCores_ledger (s : State) (f : Cores → Cores) : (s.modCores f).ledger = s.ledger := rfl
@[simp] theorem State.modCores_health (s : State) (f : Cores → Cores) : (s.modCores f).health = s.health := rfl
@[simp] theorem State.modCores_net (s : State) (f : Cores → Cores) : (s.modCores f).net = s.net := rfl
@[simp] theorem State.modCores_power (s : State) (f : Cores → Cores) : (s.modCores f).power = s.power := rfl
@[simp] theorem State.modCores_cores (s : State) (f : Cores → Cores) : (s.modCores f).cores = f s.cores := rfl
@[simp] theorem State.modCores_tamper (s : State) (f : Cores → Cores) : (s.modCores f).tamper = s.tamper := rfl
@[simp] theorem State.modCores_jtag (s : State) (f : Cores → Cores) : (s.modCores f).jtag = s.jtag := rfl
@[simp] theorem State.modCores_mem (s : State) (f : Cores → Cores) : (s.modCores f).mem = s.mem := rfl
@[simp] theorem State.modCores_free (s : State) (f : Cores → Cores) : (s.modCores f).free = s.free := rfl
@[simp] theorem State.modCores_pending (s : State) (f : Cores → Cores) : (s.modCores f).pending = s.pending := rfl

@[simp] theorem State.modTamper_tbu (s : State) (f : Tamper → Tamper) : (s.modTamper f).tbu = s.tbu := rfl
@[simp] theorem State.modTamper_tmr (s : State) (f : Tamper → Tamper) : (s.modTamper f).tmr = s.tmr := rfl
@[simp] theorem State.modTamper_evc (s : State) (f : Tamper → Tamper) : (s.modTamper f).evc = s.evc := rfl
@[simp] theorem State.modTamper_psc (s : State) (f : Tamper → Tamper) : (s.modTamper f).psc = s.psc := rfl
@[simp] theorem State.modTamper_pad (s : State) (f : Tamper → Tamper) : (s.modTamper f).pad = s.pad := rfl
@[simp] theorem State.modTamper_mbx (s : State) (f : Tamper → Tamper) : (s.modTamper f).mbx = s.mbx := rfl
@[simp] theorem State.modTamper_boot (s : State) (f : Tamper → Tamper) : (s.modTamper f).boot = s.boot := rfl
@[simp] theorem State.modTamper_cfg (s : State) (f : Tamper → Tamper) : (s.modTamper f).cfg = s.cfg := rfl
@[simp] theorem State.modTamper_fab (s : State) (f : Tamper → Tamper) : (s.modTamper f).fab = s.fab := rfl
@[simp] theorem State.modTamper_parts (s : State) (f : Tamper → Tamper) : (s.modTamper f).parts = s.parts := rfl
@[simp] theorem State.modTamper_lf (s : State) (f : Tamper → Tamper) : (s.modTamper f).lf = s.lf := rfl
@[simp] theorem State.modTamper_pop (s : State) (f : Tamper → Tamper) : (s.modTamper f).pop = s.pop := rfl
@[simp] theorem State.modTamper_radio (s : State) (f : Tamper → Tamper) : (s.modTamper f).radio = s.radio := rfl
@[simp] theorem State.modTamper_sess (s : State) (f : Tamper → Tamper) : (s.modTamper f).sess = s.sess := rfl
@[simp] theorem State.modTamper_rel (s : State) (f : Tamper → Tamper) : (s.modTamper f).rel = s.rel := rfl
@[simp] theorem State.modTamper_crypt (s : State) (f : Tamper → Tamper) : (s.modTamper f).crypt = s.crypt := rfl
@[simp] theorem State.modTamper_keys (s : State) (f : Tamper → Tamper) : (s.modTamper f).keys = s.keys := rfl
@[simp] theorem State.modTamper_met (s : State) (f : Tamper → Tamper) : (s.modTamper f).met = s.met := rfl
@[simp] theorem State.modTamper_ledger (s : State) (f : Tamper → Tamper) : (s.modTamper f).ledger = s.ledger := rfl
@[simp] theorem State.modTamper_health (s : State) (f : Tamper → Tamper) : (s.modTamper f).health = s.health := rfl
@[simp] theorem State.modTamper_net (s : State) (f : Tamper → Tamper) : (s.modTamper f).net = s.net := rfl
@[simp] theorem State.modTamper_power (s : State) (f : Tamper → Tamper) : (s.modTamper f).power = s.power := rfl
@[simp] theorem State.modTamper_cores (s : State) (f : Tamper → Tamper) : (s.modTamper f).cores = s.cores := rfl
@[simp] theorem State.modTamper_tamper (s : State) (f : Tamper → Tamper) : (s.modTamper f).tamper = f s.tamper := rfl
@[simp] theorem State.modTamper_jtag (s : State) (f : Tamper → Tamper) : (s.modTamper f).jtag = s.jtag := rfl
@[simp] theorem State.modTamper_mem (s : State) (f : Tamper → Tamper) : (s.modTamper f).mem = s.mem := rfl
@[simp] theorem State.modTamper_free (s : State) (f : Tamper → Tamper) : (s.modTamper f).free = s.free := rfl
@[simp] theorem State.modTamper_pending (s : State) (f : Tamper → Tamper) : (s.modTamper f).pending = s.pending := rfl

@[simp] theorem State.modJtag_tbu (s : State) (f : Jtag → Jtag) : (s.modJtag f).tbu = s.tbu := rfl
@[simp] theorem State.modJtag_tmr (s : State) (f : Jtag → Jtag) : (s.modJtag f).tmr = s.tmr := rfl
@[simp] theorem State.modJtag_evc (s : State) (f : Jtag → Jtag) : (s.modJtag f).evc = s.evc := rfl
@[simp] theorem State.modJtag_psc (s : State) (f : Jtag → Jtag) : (s.modJtag f).psc = s.psc := rfl
@[simp] theorem State.modJtag_pad (s : State) (f : Jtag → Jtag) : (s.modJtag f).pad = s.pad := rfl
@[simp] theorem State.modJtag_mbx (s : State) (f : Jtag → Jtag) : (s.modJtag f).mbx = s.mbx := rfl
@[simp] theorem State.modJtag_boot (s : State) (f : Jtag → Jtag) : (s.modJtag f).boot = s.boot := rfl
@[simp] theorem State.modJtag_cfg (s : State) (f : Jtag → Jtag) : (s.modJtag f).cfg = s.cfg := rfl
@[simp] theorem State.modJtag_fab (s : State) (f : Jtag → Jtag) : (s.modJtag f).fab = s.fab := rfl
@[simp] theorem State.modJtag_parts (s : State) (f : Jtag → Jtag) : (s.modJtag f).parts = s.parts := rfl
@[simp] theorem State.modJtag_lf (s : State) (f : Jtag → Jtag) : (s.modJtag f).lf = s.lf := rfl
@[simp] theorem State.modJtag_pop (s : State) (f : Jtag → Jtag) : (s.modJtag f).pop = s.pop := rfl
@[simp] theorem State.modJtag_radio (s : State) (f : Jtag → Jtag) : (s.modJtag f).radio = s.radio := rfl
@[simp] theorem State.modJtag_sess (s : State) (f : Jtag → Jtag) : (s.modJtag f).sess = s.sess := rfl
@[simp] theorem State.modJtag_rel (s : State) (f : Jtag → Jtag) : (s.modJtag f).rel = s.rel := rfl
@[simp] theorem State.modJtag_crypt (s : State) (f : Jtag → Jtag) : (s.modJtag f).crypt = s.crypt := rfl
@[simp] theorem State.modJtag_keys (s : State) (f : Jtag → Jtag) : (s.modJtag f).keys = s.keys := rfl
@[simp] theorem State.modJtag_met (s : State) (f : Jtag → Jtag) : (s.modJtag f).met = s.met := rfl
@[simp] theorem State.modJtag_ledger (s : State) (f : Jtag → Jtag) : (s.modJtag f).ledger = s.ledger := rfl
@[simp] theorem State.modJtag_health (s : State) (f : Jtag → Jtag) : (s.modJtag f).health = s.health := rfl
@[simp] theorem State.modJtag_net (s : State) (f : Jtag → Jtag) : (s.modJtag f).net = s.net := rfl
@[simp] theorem State.modJtag_power (s : State) (f : Jtag → Jtag) : (s.modJtag f).power = s.power := rfl
@[simp] theorem State.modJtag_cores (s : State) (f : Jtag → Jtag) : (s.modJtag f).cores = s.cores := rfl
@[simp] theorem State.modJtag_tamper (s : State) (f : Jtag → Jtag) : (s.modJtag f).tamper = s.tamper := rfl
@[simp] theorem State.modJtag_jtag (s : State) (f : Jtag → Jtag) : (s.modJtag f).jtag = f s.jtag := rfl
@[simp] theorem State.modJtag_mem (s : State) (f : Jtag → Jtag) : (s.modJtag f).mem = s.mem := rfl
@[simp] theorem State.modJtag_free (s : State) (f : Jtag → Jtag) : (s.modJtag f).free = s.free := rfl
@[simp] theorem State.modJtag_pending (s : State) (f : Jtag → Jtag) : (s.modJtag f).pending = s.pending := rfl

@[simp] theorem State.modMem_tbu (s : State) (f : Memory → Memory) : (s.modMem f).tbu = s.tbu := rfl
@[simp] theorem State.modMem_tmr (s : State) (f : Memory → Memory) : (s.modMem f).tmr = s.tmr := rfl
@[simp] theorem State.modMem_evc (s : State) (f : Memory → Memory) : (s.modMem f).evc = s.evc := rfl
@[simp] theorem State.modMem_psc (s : State) (f : Memory → Memory) : (s.modMem f).psc = s.psc := rfl
@[simp] theorem State.modMem_pad (s : State) (f : Memory → Memory) : (s.modMem f).pad = s.pad := rfl
@[simp] theorem State.modMem_mbx (s : State) (f : Memory → Memory) : (s.modMem f).mbx = s.mbx := rfl
@[simp] theorem State.modMem_boot (s : State) (f : Memory → Memory) : (s.modMem f).boot = s.boot := rfl
@[simp] theorem State.modMem_cfg (s : State) (f : Memory → Memory) : (s.modMem f).cfg = s.cfg := rfl
@[simp] theorem State.modMem_fab (s : State) (f : Memory → Memory) : (s.modMem f).fab = s.fab := rfl
@[simp] theorem State.modMem_parts (s : State) (f : Memory → Memory) : (s.modMem f).parts = s.parts := rfl
@[simp] theorem State.modMem_lf (s : State) (f : Memory → Memory) : (s.modMem f).lf = s.lf := rfl
@[simp] theorem State.modMem_pop (s : State) (f : Memory → Memory) : (s.modMem f).pop = s.pop := rfl
@[simp] theorem State.modMem_radio (s : State) (f : Memory → Memory) : (s.modMem f).radio = s.radio := rfl
@[simp] theorem State.modMem_sess (s : State) (f : Memory → Memory) : (s.modMem f).sess = s.sess := rfl
@[simp] theorem State.modMem_rel (s : State) (f : Memory → Memory) : (s.modMem f).rel = s.rel := rfl
@[simp] theorem State.modMem_crypt (s : State) (f : Memory → Memory) : (s.modMem f).crypt = s.crypt := rfl
@[simp] theorem State.modMem_keys (s : State) (f : Memory → Memory) : (s.modMem f).keys = s.keys := rfl
@[simp] theorem State.modMem_met (s : State) (f : Memory → Memory) : (s.modMem f).met = s.met := rfl
@[simp] theorem State.modMem_ledger (s : State) (f : Memory → Memory) : (s.modMem f).ledger = s.ledger := rfl
@[simp] theorem State.modMem_health (s : State) (f : Memory → Memory) : (s.modMem f).health = s.health := rfl
@[simp] theorem State.modMem_net (s : State) (f : Memory → Memory) : (s.modMem f).net = s.net := rfl
@[simp] theorem State.modMem_power (s : State) (f : Memory → Memory) : (s.modMem f).power = s.power := rfl
@[simp] theorem State.modMem_cores (s : State) (f : Memory → Memory) : (s.modMem f).cores = s.cores := rfl
@[simp] theorem State.modMem_tamper (s : State) (f : Memory → Memory) : (s.modMem f).tamper = s.tamper := rfl
@[simp] theorem State.modMem_jtag (s : State) (f : Memory → Memory) : (s.modMem f).jtag = s.jtag := rfl
@[simp] theorem State.modMem_mem (s : State) (f : Memory → Memory) : (s.modMem f).mem = f s.mem := rfl
@[simp] theorem State.modMem_free (s : State) (f : Memory → Memory) : (s.modMem f).free = s.free := rfl
@[simp] theorem State.modMem_pending (s : State) (f : Memory → Memory) : (s.modMem f).pending = s.pending := rfl

@[simp] theorem State.modFree_tbu (s : State) (f : Nat → Nat) : (s.modFree f).tbu = s.tbu := rfl
@[simp] theorem State.modFree_tmr (s : State) (f : Nat → Nat) : (s.modFree f).tmr = s.tmr := rfl
@[simp] theorem State.modFree_evc (s : State) (f : Nat → Nat) : (s.modFree f).evc = s.evc := rfl
@[simp] theorem State.modFree_psc (s : State) (f : Nat → Nat) : (s.modFree f).psc = s.psc := rfl
@[simp] theorem State.modFree_pad (s : State) (f : Nat → Nat) : (s.modFree f).pad = s.pad := rfl
@[simp] theorem State.modFree_mbx (s : State) (f : Nat → Nat) : (s.modFree f).mbx = s.mbx := rfl
@[simp] theorem State.modFree_boot (s : State) (f : Nat → Nat) : (s.modFree f).boot = s.boot := rfl
@[simp] theorem State.modFree_cfg (s : State) (f : Nat → Nat) : (s.modFree f).cfg = s.cfg := rfl
@[simp] theorem State.modFree_fab (s : State) (f : Nat → Nat) : (s.modFree f).fab = s.fab := rfl
@[simp] theorem State.modFree_parts (s : State) (f : Nat → Nat) : (s.modFree f).parts = s.parts := rfl
@[simp] theorem State.modFree_lf (s : State) (f : Nat → Nat) : (s.modFree f).lf = s.lf := rfl
@[simp] theorem State.modFree_pop (s : State) (f : Nat → Nat) : (s.modFree f).pop = s.pop := rfl
@[simp] theorem State.modFree_radio (s : State) (f : Nat → Nat) : (s.modFree f).radio = s.radio := rfl
@[simp] theorem State.modFree_sess (s : State) (f : Nat → Nat) : (s.modFree f).sess = s.sess := rfl
@[simp] theorem State.modFree_rel (s : State) (f : Nat → Nat) : (s.modFree f).rel = s.rel := rfl
@[simp] theorem State.modFree_crypt (s : State) (f : Nat → Nat) : (s.modFree f).crypt = s.crypt := rfl
@[simp] theorem State.modFree_keys (s : State) (f : Nat → Nat) : (s.modFree f).keys = s.keys := rfl
@[simp] theorem State.modFree_met (s : State) (f : Nat → Nat) : (s.modFree f).met = s.met := rfl
@[simp] theorem State.modFree_ledger (s : State) (f : Nat → Nat) : (s.modFree f).ledger = s.ledger := rfl
@[simp] theorem State.modFree_health (s : State) (f : Nat → Nat) : (s.modFree f).health = s.health := rfl
@[simp] theorem State.modFree_net (s : State) (f : Nat → Nat) : (s.modFree f).net = s.net := rfl
@[simp] theorem State.modFree_power (s : State) (f : Nat → Nat) : (s.modFree f).power = s.power := rfl
@[simp] theorem State.modFree_cores (s : State) (f : Nat → Nat) : (s.modFree f).cores = s.cores := rfl
@[simp] theorem State.modFree_tamper (s : State) (f : Nat → Nat) : (s.modFree f).tamper = s.tamper := rfl
@[simp] theorem State.modFree_jtag (s : State) (f : Nat → Nat) : (s.modFree f).jtag = s.jtag := rfl
@[simp] theorem State.modFree_mem (s : State) (f : Nat → Nat) : (s.modFree f).mem = s.mem := rfl
@[simp] theorem State.modFree_free (s : State) (f : Nat → Nat) : (s.modFree f).free = f s.free := rfl
@[simp] theorem State.modFree_pending (s : State) (f : Nat → Nat) : (s.modFree f).pending = s.pending := rfl

@[simp] theorem State.modPending_tbu (s : State) (f : List Instr → List Instr) : (s.modPending f).tbu = s.tbu := rfl
@[simp] theorem State.modPending_tmr (s : State) (f : List Instr → List Instr) : (s.modPending f).tmr = s.tmr := rfl
@[simp] theorem State.modPending_evc (s : State) (f : List Instr → List Instr) : (s.modPending f).evc = s.evc := rfl
@[simp] theorem State.modPending_psc (s : State) (f : List Instr → List Instr) : (s.modPending f).psc = s.psc := rfl
@[simp] theorem State.modPending_pad (s : State) (f : List Instr → List Instr) : (s.modPending f).pad = s.pad := rfl
@[simp] theorem State.modPending_mbx (s : State) (f : List Instr → List Instr) : (s.modPending f).mbx = s.mbx := rfl
@[simp] theorem State.modPending_boot (s : State) (f : List Instr → List Instr) : (s.modPending f).boot = s.boot := rfl
@[simp] theorem State.modPending_cfg (s : State) (f : List Instr → List Instr) : (s.modPending f).cfg = s.cfg := rfl
@[simp] theorem State.modPending_fab (s : State) (f : List Instr → List Instr) : (s.modPending f).fab = s.fab := rfl
@[simp] theorem State.modPending_parts (s : State) (f : List Instr → List Instr) : (s.modPending f).parts = s.parts := rfl
@[simp] theorem State.modPending_lf (s : State) (f : List Instr → List Instr) : (s.modPending f).lf = s.lf := rfl
@[simp] theorem State.modPending_pop (s : State) (f : List Instr → List Instr) : (s.modPending f).pop = s.pop := rfl
@[simp] theorem State.modPending_radio (s : State) (f : List Instr → List Instr) : (s.modPending f).radio = s.radio := rfl
@[simp] theorem State.modPending_sess (s : State) (f : List Instr → List Instr) : (s.modPending f).sess = s.sess := rfl
@[simp] theorem State.modPending_rel (s : State) (f : List Instr → List Instr) : (s.modPending f).rel = s.rel := rfl
@[simp] theorem State.modPending_crypt (s : State) (f : List Instr → List Instr) : (s.modPending f).crypt = s.crypt := rfl
@[simp] theorem State.modPending_keys (s : State) (f : List Instr → List Instr) : (s.modPending f).keys = s.keys := rfl
@[simp] theorem State.modPending_met (s : State) (f : List Instr → List Instr) : (s.modPending f).met = s.met := rfl
@[simp] theorem State.modPending_ledger (s : State) (f : List Instr → List Instr) : (s.modPending f).ledger = s.ledger := rfl
@[simp] theorem State.modPending_health (s : State) (f : List Instr → List Instr) : (s.modPending f).health = s.health := rfl
@[simp] theorem State.modPending_net (s : State) (f : List Instr → List Instr) : (s.modPending f).net = s.net := rfl
@[simp] theorem State.modPending_power (s : State) (f : List Instr → List Instr) : (s.modPending f).power = s.power := rfl
@[simp] theorem State.modPending_cores (s : State) (f : List Instr → List Instr) : (s.modPending f).cores = s.cores := rfl
@[simp] theorem State.modPending_tamper (s : State) (f : List Instr → List Instr) : (s.modPending f).tamper = s.tamper := rfl
@[simp] theorem State.modPending_jtag (s : State) (f : List Instr → List Instr) : (s.modPending f).jtag = s.jtag := rfl
@[simp] theorem State.modPending_mem (s : State) (f : List Instr → List Instr) : (s.modPending f).mem = s.mem := rfl
@[simp] theorem State.modPending_free (s : State) (f : List Instr → List Instr) : (s.modPending f).free = s.free := rfl
@[simp] theorem State.modPending_pending (s : State) (f : List Instr → List Instr) : (s.modPending f).pending = f s.pending := rfl

end Sys2Proof.Machine
end

