-- ==== Sys2Proof/Laws/Moves.lean ====
section
/-!
SUPPORT. How what an operation leaves unchanged, and what it keeps of the invariant, composes; and both for every update of one
part of State.
-/
namespace Sys2Proof.Machine

theorem Part.same_refl (p : Part) (s : State) : p.Same s s := by cases p <;> rfl

theorem Part.same_trans {p : Part} {s t u : State} (h : p.Same s t) (k : p.Same t u) : p.Same s u := by
  cases p <;> exact k.trans h

theorem Only.refl (ps : List Part) (s : State) : Only ps s s := fun p _ => p.same_refl s

theorem Only.trans {ps : List Part} {s t u : State} (h : Only ps s t) (k : Only ps t u) : Only ps s u :=
  fun p hp => Part.same_trans (h p hp) (k p hp)

/-- A frame is kept when more parts may change. -/
theorem Only.mono {ps qs : List Part} {s t : State} (hs : (ps.all fun p => qs.contains p) = true) (h : Only ps s t) :
    Only qs s t := fun p hp => h p fun hm => hp (by simpa using List.all_eq_true.mp hs p hm)

/-! ### What every operation keeps of each part -/

/-- What an update of this part keeps. -/
def Tbu.Keeps (a b : Tbu) : Prop := (a.Shaped → b.Shaped) ∧ a.epoch ≤ b.epoch

theorem Tbu.keeps_refl (a : Tbu) : a.Keeps a := ⟨fun h => h, Nat.le_refl _⟩

theorem Tbu.keeps_trans {a b c : Tbu} (h : a.Keeps b) (k : b.Keeps c) : a.Keeps c := ⟨fun x => k.1 (h.1 x), Nat.le_trans h.2 k.2⟩

/-- What an update of this part keeps. -/
def Tmr.Keeps (a b : Tmr) : Prop := (a.Shaped → b.Shaped)

theorem Tmr.keeps_refl (a : Tmr) : a.Keeps a := fun h => h

theorem Tmr.keeps_trans {a b c : Tmr} (h : a.Keeps b) (k : b.Keeps c) : a.Keeps c := fun x => k (h x)

/-- What an update of this part keeps. -/
def Evc.Keeps (a b : Evc) : Prop := (a.Shaped → b.Shaped)

theorem Evc.keeps_refl (a : Evc) : a.Keeps a := fun h => h

theorem Evc.keeps_trans {a b c : Evc} (h : a.Keeps b) (k : b.Keeps c) : a.Keeps c := fun x => k (h x)

/-- What an update of this part keeps. -/
def Psc.Keeps (a b : Psc) : Prop := (a.Shaped → b.Shaped)

theorem Psc.keeps_refl (a : Psc) : a.Keeps a := fun h => h

theorem Psc.keeps_trans {a b c : Psc} (h : a.Keeps b) (k : b.Keeps c) : a.Keeps c := fun x => k (h x)

/-- What an update of this part keeps. -/
def Pad.Keeps (a b : Pad) : Prop := (a.Shaped → b.Shaped)

theorem Pad.keeps_refl (a : Pad) : a.Keeps a := fun h => h

theorem Pad.keeps_trans {a b c : Pad} (h : a.Keeps b) (k : b.Keeps c) : a.Keeps c := fun x => k (h x)

/-- What an update of this part keeps. -/
def Mbx.Keeps (a b : Mbx) : Prop := (a.Shaped → b.Shaped)

theorem Mbx.keeps_refl (a : Mbx) : a.Keeps a := fun h => h

theorem Mbx.keeps_trans {a b c : Mbx} (h : a.Keeps b) (k : b.Keeps c) : a.Keeps c := fun x => k (h x)

/-- What an update of this part keeps. -/
def Boot.Keeps (a b : Boot) : Prop := (a.Shaped → b.Shaped) ∧ (a.locked = true → b.locked = true) ∧ a.fwFloor ≤ b.fwFloor

theorem Boot.keeps_refl (a : Boot) : a.Keeps a := ⟨fun h => h, fun h => h, Nat.le_refl _⟩

theorem Boot.keeps_trans {a b c : Boot} (h : a.Keeps b) (k : b.Keeps c) : a.Keeps c := ⟨fun x => k.1 (h.1 x), fun x => k.2.1 (h.2.1 x), Nat.le_trans h.2.2 k.2.2⟩

/-- What an update of this part keeps. -/
def Fabric.Keeps (a b : Fabric) : Prop := (a.Shaped → b.Shaped)

theorem Fabric.keeps_refl (a : Fabric) : a.Keeps a := fun h => h

theorem Fabric.keeps_trans {a b c : Fabric} (h : a.Keeps b) (k : b.Keeps c) : a.Keeps c := fun x => k (h x)

/-- What an update of this part keeps. -/
def Parts.Keeps (a b : Parts) : Prop := (a.Shaped → b.Shaped)

theorem Parts.keeps_refl (a : Parts) : a.Keeps a := fun h => h

theorem Parts.keeps_trans {a b c : Parts} (h : a.Keeps b) (k : b.Keeps c) : a.Keeps c := fun x => k (h x)

/-- What an update of this part keeps. -/
def Lf.Keeps (a b : Lf) : Prop := (a.Shaped → b.Shaped)

theorem Lf.keeps_refl (a : Lf) : a.Keeps a := fun h => h

theorem Lf.keeps_trans {a b c : Lf} (h : a.Keeps b) (k : b.Keeps c) : a.Keeps c := fun x => k (h x)

/-- What an update of this part keeps. -/
def Pop.Keeps (a b : Pop) : Prop := (a.Shaped → b.Shaped)

theorem Pop.keeps_refl (a : Pop) : a.Keeps a := fun h => h

theorem Pop.keeps_trans {a b c : Pop} (h : a.Keeps b) (k : b.Keeps c) : a.Keeps c := fun x => k (h x)

/-- What an update of this part keeps. -/
def Radio.Keeps (a b : Radio) : Prop := (a.Shaped → b.Shaped)

theorem Radio.keeps_refl (a : Radio) : a.Keeps a := fun h => h

theorem Radio.keeps_trans {a b c : Radio} (h : a.Keeps b) (k : b.Keeps c) : a.Keeps c := fun x => k (h x)

/-- What an update of this part keeps. -/
def Crypt.Keeps (a b : Crypt) : Prop := (a.Shaped → b.Shaped)

theorem Crypt.keeps_refl (a : Crypt) : a.Keeps a := fun h => h

theorem Crypt.keeps_trans {a b c : Crypt} (h : a.Keeps b) (k : b.Keeps c) : a.Keeps c := fun x => k (h x)

/-- What an update of this part keeps. -/
def Keys.Keeps (a b : Keys) : Prop := (a.Shaped → b.Shaped)

theorem Keys.keeps_refl (a : Keys) : a.Keeps a := fun h => h

theorem Keys.keeps_trans {a b c : Keys} (h : a.Keeps b) (k : b.Keeps c) : a.Keeps c := fun x => k (h x)

/-- What an update of this part keeps. -/
def Met.Keeps (a b : Met) : Prop := (a.Shaped → b.Shaped)

theorem Met.keeps_refl (a : Met) : a.Keeps a := fun h => h

theorem Met.keeps_trans {a b c : Met} (h : a.Keeps b) (k : b.Keeps c) : a.Keeps c := fun x => k (h x)

/-- What an update of this part keeps. -/
def Ledger.Keeps (a b : Ledger) : Prop := (a.Shaped → b.Shaped) ∧ a.head ≤ b.head

theorem Ledger.keeps_refl (a : Ledger) : a.Keeps a := ⟨fun h => h, Nat.le_refl _⟩

theorem Ledger.keeps_trans {a b c : Ledger} (h : a.Keeps b) (k : b.Keeps c) : a.Keeps c := ⟨fun x => k.1 (h.1 x), Nat.le_trans h.2 k.2⟩

/-- What an update of this part keeps. -/
def Health.Keeps (a b : Health) : Prop := (a.Shaped → b.Shaped) ∧ a.next ≤ b.next

theorem Health.keeps_refl (a : Health) : a.Keeps a := ⟨fun h => h, Nat.le_refl _⟩

theorem Health.keeps_trans {a b c : Health} (h : a.Keeps b) (k : b.Keeps c) : a.Keeps c := ⟨fun x => k.1 (h.1 x), Nat.le_trans h.2 k.2⟩

/-- What an update of this part keeps. -/
def Net.Keeps (a b : Net) : Prop := (a.Shaped → b.Shaped)

theorem Net.keeps_refl (a : Net) : a.Keeps a := fun h => h

theorem Net.keeps_trans {a b c : Net} (h : a.Keeps b) (k : b.Keeps c) : a.Keeps c := fun x => k (h x)

/-- What an update of this part keeps. -/
def Power.Keeps (a b : Power) : Prop := (a.Shaped → b.Shaped)

theorem Power.keeps_refl (a : Power) : a.Keeps a := fun h => h

theorem Power.keeps_trans {a b c : Power} (h : a.Keeps b) (k : b.Keeps c) : a.Keeps c := fun x => k (h x)

/-- What an update of this part keeps. -/
def Cores.Keeps (a b : Cores) : Prop := (a.Shaped → b.Shaped)

theorem Cores.keeps_refl (a : Cores) : a.Keeps a := fun h => h

theorem Cores.keeps_trans {a b c : Cores} (h : a.Keeps b) (k : b.Keeps c) : a.Keeps c := fun x => k (h x)

/-- What an update of this part keeps. -/
def Tamper.Keeps (a b : Tamper) : Prop := (a.Shaped → b.Shaped)

theorem Tamper.keeps_refl (a : Tamper) : a.Keeps a := fun h => h

theorem Tamper.keeps_trans {a b c : Tamper} (h : a.Keeps b) (k : b.Keeps c) : a.Keeps c := fun x => k (h x)

/-- What an update of this part keeps. -/
def Jtag.Keeps (a b : Jtag) : Prop := (a.Shaped → b.Shaped)

theorem Jtag.keeps_refl (a : Jtag) : a.Keeps a := fun h => h

theorem Jtag.keeps_trans {a b c : Jtag} (h : a.Keeps b) (k : b.Keeps c) : a.Keeps c := fun x => k (h x)

@[simp] theorem Evc.modGroup_groups_length (e : Evc) (g f) : (e.modGroup g f).groups.length = e.groups.length := by
  simp [Evc.modGroup]

@[simp] theorem Evc.modGroup_targets (e : Evc) (g f) : (e.modGroup g f).targets = e.targets := rfl

@[simp] theorem Evc.modGroup_coreQ (e : Evc) (g f) : (e.modGroup g f).coreQ = e.coreQ := rfl

@[simp] theorem Evc.modGroup_wakeLast (e : Evc) (g f) : (e.modGroup g f).wakeLast = e.wakeLast := rfl

@[simp] theorem Evc.modTarget_targets_length (e : Evc) (j f) : (e.modTarget j f).targets.length = e.targets.length := by
  simp [Evc.modTarget]

@[simp] theorem Evc.modTarget_groups (e : Evc) (j f) : (e.modTarget j f).groups = e.groups := rfl

@[simp] theorem Evc.modTarget_coreQ (e : Evc) (j f) : (e.modTarget j f).coreQ = e.coreQ := rfl

@[simp] theorem Evc.modTarget_wakeLast (e : Evc) (j f) : (e.modTarget j f).wakeLast = e.wakeLast := rfl

theorem Pad.freeze_shaped {q : Pad} {d : Nat} (h : q.Shaped) (hd : padDomain d = true) :
    Pad.Shaped { q with frz := q.frz ||| BitVec.ofNat 14 (1 <<< d) } := by
  refine ⟨?_, h.2⟩
  have e : ∀ x c m : BitVec 14, (x ||| c) &&& m = (x &&& m) ||| (c &&& m) := by
    intro x c m; ext i; simp [Bool.and_or_distrib_right]
  simp only [padDomain, Bool.or_eq_true, beq_iff_eq] at hd
  show (q.frz ||| _) &&& _ = 0
  rw [e, h.1]
  rcases hd with (rfl | rfl) | rfl <;> rfl

theorem Pad.thaw_shaped {q : Pad} (c : BitVec 14) (h : q.Shaped) : Pad.Shaped { q with frz := q.frz &&& c } := by
  refine ⟨?_, h.2⟩
  show (q.frz &&& _) &&& _ = 0
  rw [BitVec.and_assoc, BitVec.and_comm c, ← BitVec.and_assoc, h.1]
  simp

theorem Tbu.keeps_of {a b : Tbu} (h0 : b.shadows = a.shadows) (h1 : b.syncSent = a.syncSent) (h2 : b.announceSent = a.announceSent) (h3 : b.pdelaySent = a.pdelaySent) (h4 : b.hist = a.hist) (h5 : b.epoch = a.epoch) :
    a.Keeps b := ⟨fun x => by unfold Tbu.Shaped; rw [h0, h1, h2, h3, h4]; exact x, Nat.le_of_eq h5.symm⟩

theorem Tmr.keeps_of {a b : Tmr} (h0 : b.timers = a.timers) (h1 : b.alarms = a.alarms) (h2 : b.pins = a.pins) (h3 : b.caps = a.caps) :
    a.Keeps b := fun x => by unfold Tmr.Shaped; rw [h0, h1, h2, h3]; exact x

theorem Evc.keeps_of {a b : Evc} (h0 : b.groups = a.groups) (h1 : b.targets = a.targets) (h2 : b.coreQ = a.coreQ) (h3 : b.wakeLast = a.wakeLast) :
    a.Keeps b := fun x => by unfold Evc.Shaped; rw [h0, h1, h2, h3]; exact x

theorem Psc.keeps_of {a b : Psc} (h0 : b.wakeEn = a.wakeEn) :
    a.Keeps b := fun x => by unfold Psc.Shaped; rw [h0]; exact x

theorem Pad.keeps_of {a b : Pad} (h0 : b.frz = a.frz) (h1 : b.rel = a.rel) :
    a.Keeps b := fun x => by unfold Pad.Shaped; rw [h0, h1]; exact x

theorem Mbx.keeps_of {a b : Mbx} (h0 : b.boxes = a.boxes) :
    a.Keeps b := fun x => by unfold Mbx.Shaped; rw [h0]; exact x

theorem Boot.keeps_of {a b : Boot} (h0 : b.fwBanks = a.fwBanks) (h1 : b.metonBanks = a.metonBanks) (h2 : b.locked = a.locked) (h3 : b.fwFloor = a.fwFloor) :
    a.Keeps b := ⟨fun x => by unfold Boot.Shaped; rw [h0, h1]; exact x, fun x => by rw [h2]; exact x, Nat.le_of_eq h3.symm⟩

theorem Fabric.keeps_of {a b : Fabric} (h0 : b.windows = a.windows) (h1 : b.active = a.active) (h2 : b.reqCounts = a.reqCounts) (h3 : b.deadline = a.deadline) :
    a.Keeps b := fun x => by unfold Fabric.Shaped; rw [h0, h1, h2, h3]; exact x

theorem Parts.keeps_of {a b : Parts} (h0 : b.attach = a.attach) :
    a.Keeps b := fun x => by unfold Parts.Shaped; rw [h0]; exact x

theorem Lf.keeps_of {a b : Lf} (h0 : b.chans = a.chans) :
    a.Keeps b := fun x => by unfold Lf.Shaped; rw [h0]; exact x

theorem Pop.keeps_of {a b : Pop} (h0 : b.running = a.running) :
    a.Keeps b := fun x => by unfold Pop.Shaped; rw [h0]; exact x

theorem Radio.keeps_of {a b : Radio} (h0 : b.sweepPos = a.sweepPos) (h1 : b.sweepEnd = a.sweepEnd) (h2 : b.held = a.held) :
    a.Keeps b := fun x => by unfold Radio.Shaped; rw [h0, h1, h2]; exact x

theorem Crypt.keeps_of {a b : Crypt} (h0 : b.chans = a.chans) (h1 : b.sas = a.sas) (h2 : b.alarms = a.alarms) :
    a.Keeps b := fun x => by unfold Crypt.Shaped; rw [h0, h1, h2]; exact x

theorem Keys.keeps_of {a b : Keys} (h0 : b.slots = a.slots) :
    a.Keeps b := fun x => by unfold Keys.Shaped; rw [h0]; exact x

theorem Met.keeps_of {a b : Met} (h0 : b.discard = a.discard) :
    a.Keeps b := fun x => by unfold Met.Shaped; rw [h0]; exact x

theorem Ledger.keeps_of {a b : Ledger} (h0 : b.tally = a.tally) (h1 : b.queue = a.queue) (h2 : b.flush = a.flush) (h3 : b.head = a.head) :
    a.Keeps b := ⟨fun x => by unfold Ledger.Shaped; rw [h0, h1, h2]; exact x, Nat.le_of_eq h3.symm⟩

theorem Health.keeps_of {a b : Health} (h0 : b.log = a.log) (h1 : b.next = a.next) :
    a.Keeps b := ⟨fun x => by unfold Health.Shaped; rw [h0]; exact x, Nat.le_of_eq h1.symm⟩

theorem Net.keeps_of {a b : Net} (h0 : b.linkUp = a.linkUp) (h1 : b.linkLost = a.linkLost) (h2 : b.stats = a.stats) (h3 : b.forced = a.forced) (h4 : b.mgmtOff = a.mgmtOff) (h5 : b.clash = a.clash) (h6 : b.peers = a.peers) (h7 : b.mkaSent = a.mkaSent) (h8 : b.an = a.an) (h9 : b.sakChange = a.sakChange) :
    a.Keeps b := fun x => by unfold Net.Shaped; rw [h0, h1, h2, h3, h4, h5, h6, h7, h8, h9]; exact x

theorem Power.keeps_of {a b : Power} (h0 : b.feeds = a.feeds) :
    a.Keeps b := fun x => by unfold Power.Shaped; rw [h0]; exact x

theorem Cores.keeps_of {a b : Cores} (h0 : b.pairs = a.pairs) (h1 : b.place = a.place) :
    a.Keeps b := fun x => by unfold Cores.Shaped; rw [h0, h1]; exact x

theorem Tamper.keeps_of {a b : Tamper} (h0 : b.asserted = a.asserted) (h1 : b.confirmed = a.confirmed) :
    a.Keeps b := fun x => by unfold Tamper.Shaped; rw [h0, h1]; exact x

theorem Jtag.keeps_of {a b : Jtag} (h0 : b.boundary = a.boundary) (h1 : b.pins = a.pins) :
    a.Keeps b := fun x => by unfold Jtag.Shaped; rw [h0, h1]; exact x

@[simp] theorem Met.toMean_discard (m : Met) (ys : List (Option Nat)) : (m.toMean ys).discard = m.discard := rfl

theorem Tbu.setCount_keeps (t : Tbu) (n : Nat) : t.Keeps (t.setCount n) := ⟨fun h => h, Nat.le_refl _⟩

@[simp] theorem State.countLinks_length (s : State) (xs : List Nat) : (s.countLinks xs).length = 6 := by simp [State.countLinks]

theorem Pad.release_shaped {q : Pad} (c : BitVec 14) (h : q.Shaped) : Pad.Shaped { q with rel := c &&& 0x2440 } := by
  refine ⟨h.1, ?_⟩
  show (c &&& 0x2440) &&& _ = 0
  rw [BitVec.and_assoc]
  exact BitVec.and_zero

theorem Psc.enable_shaped {p : Psc} {w : Word} (h : p.wakeEn = (w &&& 0x3FFF) ||| 0x23B1) : p.Shaped := by
  have e : ∀ x c m : Word, (x ||| c) &&& m = (x &&& m) ||| (c &&& m) := by
    intro x c m; ext i; simp [Bool.and_or_distrib_right]
  unfold Psc.Shaped
  rw [h]
  constructor
  · ext i
    simp only [BitVec.getElem_and, BitVec.getElem_or]
    cases (0x23B1 : Word)[i] <;> simp
  · rw [e, BitVec.and_assoc]
    show (w &&& 0) ||| 0 = 0
    simp

/-- What an operation keeps: the invariant, and what no step undoes. -/
structure Keeps (s t : State) : Prop where
  tbu : s.tbu.Keeps t.tbu
  tmr : s.tmr.Keeps t.tmr
  evc : s.evc.Keeps t.evc
  psc : s.psc.Keeps t.psc
  pad : s.pad.Keeps t.pad
  mbx : s.mbx.Keeps t.mbx
  boot : s.boot.Keeps t.boot
  fab : s.fab.Keeps t.fab
  parts : s.parts.Keeps t.parts
  lf : s.lf.Keeps t.lf
  pop : s.pop.Keeps t.pop
  radio : s.radio.Keeps t.radio
  crypt : s.crypt.Keeps t.crypt
  keys : s.keys.Keeps t.keys
  met : s.met.Keeps t.met
  ledger : s.ledger.Keeps t.ledger
  health : s.health.Keeps t.health
  net : s.net.Keeps t.net
  power : s.power.Keeps t.power
  cores : s.cores.Keeps t.cores
  tamper : s.tamper.Keeps t.tamper
  jtag : s.jtag.Keeps t.jtag
  mem : MemoryCanonical s → MemoryCanonical t

theorem Keeps.refl (s : State) : Keeps s s := ⟨Tbu.keeps_refl _, Tmr.keeps_refl _, Evc.keeps_refl _, Psc.keeps_refl _, Pad.keeps_refl _, Mbx.keeps_refl _, Boot.keeps_refl _, Fabric.keeps_refl _, Parts.keeps_refl _, Lf.keeps_refl _, Pop.keeps_refl _, Radio.keeps_refl _, Crypt.keeps_refl _, Keys.keeps_refl _, Met.keeps_refl _, Ledger.keeps_refl _, Health.keeps_refl _, Net.keeps_refl _, Power.keeps_refl _, Cores.keeps_refl _, Tamper.keeps_refl _, Jtag.keeps_refl _, fun h => h⟩

theorem Keeps.trans {s t u : State} (h : Keeps s t) (k : Keeps t u) : Keeps s u :=
  ⟨Tbu.keeps_trans h.tbu k.tbu, Tmr.keeps_trans h.tmr k.tmr, Evc.keeps_trans h.evc k.evc, Psc.keeps_trans h.psc k.psc, Pad.keeps_trans h.pad k.pad, Mbx.keeps_trans h.mbx k.mbx, Boot.keeps_trans h.boot k.boot, Fabric.keeps_trans h.fab k.fab, Parts.keeps_trans h.parts k.parts, Lf.keeps_trans h.lf k.lf, Pop.keeps_trans h.pop k.pop, Radio.keeps_trans h.radio k.radio, Crypt.keeps_trans h.crypt k.crypt, Keys.keeps_trans h.keys k.keys, Met.keeps_trans h.met k.met, Ledger.keeps_trans h.ledger k.ledger, Health.keeps_trans h.health k.health, Net.keeps_trans h.net k.net, Power.keeps_trans h.power k.power, Cores.keeps_trans h.cores k.cores, Tamper.keeps_trans h.tamper k.tamper, Jtag.keeps_trans h.jtag k.jtag, fun x => k.mem (h.mem x)⟩

/-- An operation leaves every part but those listed as it was, and keeps what `Keeps` says. -/
def Moves (ps : List Part) (s t : State) : Prop := Only ps s t ∧ Keeps s t

theorem Moves.refl (ps : List Part) (s : State) : Moves ps s s := ⟨Only.refl ps s, Keeps.refl s⟩

theorem Moves.trans {ps : List Part} {s t u : State} (h : Moves ps s t) (k : Moves ps t u) : Moves ps s u :=
  ⟨h.1.trans k.1, h.2.trans k.2⟩

theorem Moves.mono {ps qs : List Part} {s t : State} (hs : (ps.all fun p => qs.contains p) = true) (h : Moves ps s t) :
    Moves qs s t := ⟨Only.mono hs h.1, h.2⟩

/-- The frame of a pair's state. -/
def MovesFst {β : Type} (ps : List Part) (s : State) (r : State × β) : Prop := Moves ps s r.1

/-- The frame of a pair's state. -/
def MovesSnd {β : Type} (ps : List Part) (s : State) (r : β × State) : Prop := Moves ps s r.2

theorem Moves.step {ps : List Part} {s t u : State} (h : Moves ps s t) (k : Moves ps t u) : Moves ps s u := h.trans k

theorem MovesFst.step {β : Type} {ps : List Part} {s t : State} {r : State × β} (h : Moves ps s t) (k : Moves ps t r.1) :
    MovesFst ps s r := h.trans k

theorem MovesSnd.step {β : Type} {ps : List Part} {s t : State} {r : β × State} (h : Moves ps s t) (k : Moves ps t r.2) :
    MovesSnd ps s r := h.trans k

theorem Moves.ite {ps : List Part} {s : State} {c : Prop} [Decidable c] {x y : State} (h : c → Moves ps s x)
    (k : ¬c → Moves ps s y) : Moves ps s (if c then x else y) := by
  by_cases hc : c
  · rw [if_pos hc]; exact h hc
  · rw [if_neg hc]; exact k hc

theorem Moves.foldl {α : Type} {ps : List Part} {s : State} {xs : List α} {f : State → α → State} {t : State}
    (h : Moves ps s t) (k : ∀ u x, Moves ps s u → Moves ps s (f u x)) : Moves ps s (xs.foldl f t) := by
  induction xs generalizing t with
  | nil => exact h
  | cons x xs ih => exact ih (k t x h)

theorem MovesFst.ite {β : Type} {ps : List Part} {s : State} {c : Prop} [Decidable c] {x y : State × β} (h : c → MovesFst ps s x)
    (k : ¬c → MovesFst ps s y) : MovesFst ps s (if c then x else y) := by
  by_cases hc : c
  · rw [if_pos hc]; exact h hc
  · rw [if_neg hc]; exact k hc

theorem MovesFst.foldl {β : Type} {α : Type} {ps : List Part} {s : State} {xs : List α} {f : State × β → α → State × β} {t : State × β}
    (h : MovesFst ps s t) (k : ∀ u x, MovesFst ps s u → MovesFst ps s (f u x)) : MovesFst ps s (xs.foldl f t) := by
  induction xs generalizing t with
  | nil => exact h
  | cons x xs ih => exact ih (k t x h)

theorem MovesSnd.ite {β : Type} {ps : List Part} {s : State} {c : Prop} [Decidable c] {x y : β × State} (h : c → MovesSnd ps s x)
    (k : ¬c → MovesSnd ps s y) : MovesSnd ps s (if c then x else y) := by
  by_cases hc : c
  · rw [if_pos hc]; exact h hc
  · rw [if_neg hc]; exact k hc

theorem MovesSnd.foldl {β : Type} {α : Type} {ps : List Part} {s : State} {xs : List α} {f : β × State → α → β × State} {t : β × State}
    (h : MovesSnd ps s t) (k : ∀ u x, MovesSnd ps s u → MovesSnd ps s (f u x)) : MovesSnd ps s (xs.foldl f t) := by
  induction xs generalizing t with
  | nil => exact h
  | cons x xs ih => exact ih (k t x h)

theorem State.modTbu_moves (s : State) (f) (h : Tbu.Keeps s.tbu (f s.tbu)) : Moves [.tbu] s (s.modTbu f) :=
  ⟨by
    intro p hp; cases p <;> first | rfl | exact absurd (List.mem_singleton.mpr rfl) hp,
   ⟨h, Tmr.keeps_refl _, Evc.keeps_refl _, Psc.keeps_refl _, Pad.keeps_refl _, Mbx.keeps_refl _, Boot.keeps_refl _, Fabric.keeps_refl _, Parts.keeps_refl _, Lf.keeps_refl _, Pop.keeps_refl _, Radio.keeps_refl _, Crypt.keeps_refl _, Keys.keeps_refl _, Met.keeps_refl _, Ledger.keeps_refl _, Health.keeps_refl _, Net.keeps_refl _, Power.keeps_refl _, Cores.keeps_refl _, Tamper.keeps_refl _, Jtag.keeps_refl _, fun h => h⟩⟩

theorem State.modTmr_moves (s : State) (f) (h : Tmr.Keeps s.tmr (f s.tmr)) : Moves [.tmr] s (s.modTmr f) :=
  ⟨by
    intro p hp; cases p <;> first | rfl | exact absurd (List.mem_singleton.mpr rfl) hp,
   ⟨Tbu.keeps_refl _, h, Evc.keeps_refl _, Psc.keeps_refl _, Pad.keeps_refl _, Mbx.keeps_refl _, Boot.keeps_refl _, Fabric.keeps_refl _, Parts.keeps_refl _, Lf.keeps_refl _, Pop.keeps_refl _, Radio.keeps_refl _, Crypt.keeps_refl _, Keys.keeps_refl _, Met.keeps_refl _, Ledger.keeps_refl _, Health.keeps_refl _, Net.keeps_refl _, Power.keeps_refl _, Cores.keeps_refl _, Tamper.keeps_refl _, Jtag.keeps_refl _, fun h => h⟩⟩

theorem State.modEvc_moves (s : State) (f) (h : Evc.Keeps s.evc (f s.evc)) : Moves [.evc] s (s.modEvc f) :=
  ⟨by
    intro p hp; cases p <;> first | rfl | exact absurd (List.mem_singleton.mpr rfl) hp,
   ⟨Tbu.keeps_refl _, Tmr.keeps_refl _, h, Psc.keeps_refl _, Pad.keeps_refl _, Mbx.keeps_refl _, Boot.keeps_refl _, Fabric.keeps_refl _, Parts.keeps_refl _, Lf.keeps_refl _, Pop.keeps_refl _, Radio.keeps_refl _, Crypt.keeps_refl _, Keys.keeps_refl _, Met.keeps_refl _, Ledger.keeps_refl _, Health.keeps_refl _, Net.keeps_refl _, Power.keeps_refl _, Cores.keeps_refl _, Tamper.keeps_refl _, Jtag.keeps_refl _, fun h => h⟩⟩

theorem State.modPsc_moves (s : State) (f) (h : Psc.Keeps s.psc (f s.psc)) : Moves [.psc] s (s.modPsc f) :=
  ⟨by
    intro p hp; cases p <;> first | rfl | exact absurd (List.mem_singleton.mpr rfl) hp,
   ⟨Tbu.keeps_refl _, Tmr.keeps_refl _, Evc.keeps_refl _, h, Pad.keeps_refl _, Mbx.keeps_refl _, Boot.keeps_refl _, Fabric.keeps_refl _, Parts.keeps_refl _, Lf.keeps_refl _, Pop.keeps_refl _, Radio.keeps_refl _, Crypt.keeps_refl _, Keys.keeps_refl _, Met.keeps_refl _, Ledger.keeps_refl _, Health.keeps_refl _, Net.keeps_refl _, Power.keeps_refl _, Cores.keeps_refl _, Tamper.keeps_refl _, Jtag.keeps_refl _, fun h => h⟩⟩

theorem State.modPad_moves (s : State) (f) (h : Pad.Keeps s.pad (f s.pad)) : Moves [.pad] s (s.modPad f) :=
  ⟨by
    intro p hp; cases p <;> first | rfl | exact absurd (List.mem_singleton.mpr rfl) hp,
   ⟨Tbu.keeps_refl _, Tmr.keeps_refl _, Evc.keeps_refl _, Psc.keeps_refl _, h, Mbx.keeps_refl _, Boot.keeps_refl _, Fabric.keeps_refl _, Parts.keeps_refl _, Lf.keeps_refl _, Pop.keeps_refl _, Radio.keeps_refl _, Crypt.keeps_refl _, Keys.keeps_refl _, Met.keeps_refl _, Ledger.keeps_refl _, Health.keeps_refl _, Net.keeps_refl _, Power.keeps_refl _, Cores.keeps_refl _, Tamper.keeps_refl _, Jtag.keeps_refl _, fun h => h⟩⟩

theorem State.modMbx_moves (s : State) (f) (h : Mbx.Keeps s.mbx (f s.mbx)) : Moves [.mbx] s (s.modMbx f) :=
  ⟨by
    intro p hp; cases p <;> first | rfl | exact absurd (List.mem_singleton.mpr rfl) hp,
   ⟨Tbu.keeps_refl _, Tmr.keeps_refl _, Evc.keeps_refl _, Psc.keeps_refl _, Pad.keeps_refl _, h, Boot.keeps_refl _, Fabric.keeps_refl _, Parts.keeps_refl _, Lf.keeps_refl _, Pop.keeps_refl _, Radio.keeps_refl _, Crypt.keeps_refl _, Keys.keeps_refl _, Met.keeps_refl _, Ledger.keeps_refl _, Health.keeps_refl _, Net.keeps_refl _, Power.keeps_refl _, Cores.keeps_refl _, Tamper.keeps_refl _, Jtag.keeps_refl _, fun h => h⟩⟩

theorem State.modBoot_moves (s : State) (f) (h : Boot.Keeps s.boot (f s.boot)) : Moves [.boot] s (s.modBoot f) :=
  ⟨by
    intro p hp; cases p <;> first | rfl | exact absurd (List.mem_singleton.mpr rfl) hp,
   ⟨Tbu.keeps_refl _, Tmr.keeps_refl _, Evc.keeps_refl _, Psc.keeps_refl _, Pad.keeps_refl _, Mbx.keeps_refl _, h, Fabric.keeps_refl _, Parts.keeps_refl _, Lf.keeps_refl _, Pop.keeps_refl _, Radio.keeps_refl _, Crypt.keeps_refl _, Keys.keeps_refl _, Met.keeps_refl _, Ledger.keeps_refl _, Health.keeps_refl _, Net.keeps_refl _, Power.keeps_refl _, Cores.keeps_refl _, Tamper.keeps_refl _, Jtag.keeps_refl _, fun h => h⟩⟩

theorem State.modCfg_moves (s : State) (f) : Moves [.cfg] s (s.modCfg f) :=
  ⟨by
    intro p hp; cases p <;> first | rfl | exact absurd (List.mem_singleton.mpr rfl) hp,
   ⟨Tbu.keeps_refl _, Tmr.keeps_refl _, Evc.keeps_refl _, Psc.keeps_refl _, Pad.keeps_refl _, Mbx.keeps_refl _, Boot.keeps_refl _, Fabric.keeps_refl _, Parts.keeps_refl _, Lf.keeps_refl _, Pop.keeps_refl _, Radio.keeps_refl _, Crypt.keeps_refl _, Keys.keeps_refl _, Met.keeps_refl _, Ledger.keeps_refl _, Health.keeps_refl _, Net.keeps_refl _, Power.keeps_refl _, Cores.keeps_refl _, Tamper.keeps_refl _, Jtag.keeps_refl _, fun h => h⟩⟩

theorem State.modFab_moves (s : State) (f) (h : Fabric.Keeps s.fab (f s.fab)) : Moves [.fab] s (s.modFab f) :=
  ⟨by
    intro p hp; cases p <;> first | rfl | exact absurd (List.mem_singleton.mpr rfl) hp,
   ⟨Tbu.keeps_refl _, Tmr.keeps_refl _, Evc.keeps_refl _, Psc.keeps_refl _, Pad.keeps_refl _, Mbx.keeps_refl _, Boot.keeps_refl _, h, Parts.keeps_refl _, Lf.keeps_refl _, Pop.keeps_refl _, Radio.keeps_refl _, Crypt.keeps_refl _, Keys.keeps_refl _, Met.keeps_refl _, Ledger.keeps_refl _, Health.keeps_refl _, Net.keeps_refl _, Power.keeps_refl _, Cores.keeps_refl _, Tamper.keeps_refl _, Jtag.keeps_refl _, fun h => h⟩⟩

theorem State.modParts_moves (s : State) (f) (h : Parts.Keeps s.parts (f s.parts)) : Moves [.parts] s (s.modParts f) :=
  ⟨by
    intro p hp; cases p <;> first | rfl | exact absurd (List.mem_singleton.mpr rfl) hp,
   ⟨Tbu.keeps_refl _, Tmr.keeps_refl _, Evc.keeps_refl _, Psc.keeps_refl _, Pad.keeps_refl _, Mbx.keeps_refl _, Boot.keeps_refl _, Fabric.keeps_refl _, h, Lf.keeps_refl _, Pop.keeps_refl _, Radio.keeps_refl _, Crypt.keeps_refl _, Keys.keeps_refl _, Met.keeps_refl _, Ledger.keeps_refl _, Health.keeps_refl _, Net.keeps_refl _, Power.keeps_refl _, Cores.keeps_refl _, Tamper.keeps_refl _, Jtag.keeps_refl _, fun h => h⟩⟩

theorem State.modLf_moves (s : State) (f) (h : Lf.Keeps s.lf (f s.lf)) : Moves [.lf] s (s.modLf f) :=
  ⟨by
    intro p hp; cases p <;> first | rfl | exact absurd (List.mem_singleton.mpr rfl) hp,
   ⟨Tbu.keeps_refl _, Tmr.keeps_refl _, Evc.keeps_refl _, Psc.keeps_refl _, Pad.keeps_refl _, Mbx.keeps_refl _, Boot.keeps_refl _, Fabric.keeps_refl _, Parts.keeps_refl _, h, Pop.keeps_refl _, Radio.keeps_refl _, Crypt.keeps_refl _, Keys.keeps_refl _, Met.keeps_refl _, Ledger.keeps_refl _, Health.keeps_refl _, Net.keeps_refl _, Power.keeps_refl _, Cores.keeps_refl _, Tamper.keeps_refl _, Jtag.keeps_refl _, fun h => h⟩⟩

theorem State.modPop_moves (s : State) (f) (h : Pop.Keeps s.pop (f s.pop)) : Moves [.pop] s (s.modPop f) :=
  ⟨by
    intro p hp; cases p <;> first | rfl | exact absurd (List.mem_singleton.mpr rfl) hp,
   ⟨Tbu.keeps_refl _, Tmr.keeps_refl _, Evc.keeps_refl _, Psc.keeps_refl _, Pad.keeps_refl _, Mbx.keeps_refl _, Boot.keeps_refl _, Fabric.keeps_refl _, Parts.keeps_refl _, Lf.keeps_refl _, h, Radio.keeps_refl _, Crypt.keeps_refl _, Keys.keeps_refl _, Met.keeps_refl _, Ledger.keeps_refl _, Health.keeps_refl _, Net.keeps_refl _, Power.keeps_refl _, Cores.keeps_refl _, Tamper.keeps_refl _, Jtag.keeps_refl _, fun h => h⟩⟩

theorem State.modRadio_moves (s : State) (f) (h : Radio.Keeps s.radio (f s.radio)) : Moves [.radio] s (s.modRadio f) :=
  ⟨by
    intro p hp; cases p <;> first | rfl | exact absurd (List.mem_singleton.mpr rfl) hp,
   ⟨Tbu.keeps_refl _, Tmr.keeps_refl _, Evc.keeps_refl _, Psc.keeps_refl _, Pad.keeps_refl _, Mbx.keeps_refl _, Boot.keeps_refl _, Fabric.keeps_refl _, Parts.keeps_refl _, Lf.keeps_refl _, Pop.keeps_refl _, h, Crypt.keeps_refl _, Keys.keeps_refl _, Met.keeps_refl _, Ledger.keeps_refl _, Health.keeps_refl _, Net.keeps_refl _, Power.keeps_refl _, Cores.keeps_refl _, Tamper.keeps_refl _, Jtag.keeps_refl _, fun h => h⟩⟩

theorem State.modSess_moves (s : State) (f) : Moves [.sess] s (s.modSess f) :=
  ⟨by
    intro p hp; cases p <;> first | rfl | exact absurd (List.mem_singleton.mpr rfl) hp,
   ⟨Tbu.keeps_refl _, Tmr.keeps_refl _, Evc.keeps_refl _, Psc.keeps_refl _, Pad.keeps_refl _, Mbx.keeps_refl _, Boot.keeps_refl _, Fabric.keeps_refl _, Parts.keeps_refl _, Lf.keeps_refl _, Pop.keeps_refl _, Radio.keeps_refl _, Crypt.keeps_refl _, Keys.keeps_refl _, Met.keeps_refl _, Ledger.keeps_refl _, Health.keeps_refl _, Net.keeps_refl _, Power.keeps_refl _, Cores.keeps_refl _, Tamper.keeps_refl _, Jtag.keeps_refl _, fun h => h⟩⟩

theorem State.modRel_moves (s : State) (f) : Moves [.rel] s (s.modRel f) :=
  ⟨by
    intro p hp; cases p <;> first | rfl | exact absurd (List.mem_singleton.mpr rfl) hp,
   ⟨Tbu.keeps_refl _, Tmr.keeps_refl _, Evc.keeps_refl _, Psc.keeps_refl _, Pad.keeps_refl _, Mbx.keeps_refl _, Boot.keeps_refl _, Fabric.keeps_refl _, Parts.keeps_refl _, Lf.keeps_refl _, Pop.keeps_refl _, Radio.keeps_refl _, Crypt.keeps_refl _, Keys.keeps_refl _, Met.keeps_refl _, Ledger.keeps_refl _, Health.keeps_refl _, Net.keeps_refl _, Power.keeps_refl _, Cores.keeps_refl _, Tamper.keeps_refl _, Jtag.keeps_refl _, fun h => h⟩⟩

theorem State.modCrypt_moves (s : State) (f) (h : Crypt.Keeps s.crypt (f s.crypt)) : Moves [.crypt] s (s.modCrypt f) :=
  ⟨by
    intro p hp; cases p <;> first | rfl | exact absurd (List.mem_singleton.mpr rfl) hp,
   ⟨Tbu.keeps_refl _, Tmr.keeps_refl _, Evc.keeps_refl _, Psc.keeps_refl _, Pad.keeps_refl _, Mbx.keeps_refl _, Boot.keeps_refl _, Fabric.keeps_refl _, Parts.keeps_refl _, Lf.keeps_refl _, Pop.keeps_refl _, Radio.keeps_refl _, h, Keys.keeps_refl _, Met.keeps_refl _, Ledger.keeps_refl _, Health.keeps_refl _, Net.keeps_refl _, Power.keeps_refl _, Cores.keeps_refl _, Tamper.keeps_refl _, Jtag.keeps_refl _, fun h => h⟩⟩

theorem State.modKeys_moves (s : State) (f) (h : Keys.Keeps s.keys (f s.keys)) : Moves [.keys] s (s.modKeys f) :=
  ⟨by
    intro p hp; cases p <;> first | rfl | exact absurd (List.mem_singleton.mpr rfl) hp,
   ⟨Tbu.keeps_refl _, Tmr.keeps_refl _, Evc.keeps_refl _, Psc.keeps_refl _, Pad.keeps_refl _, Mbx.keeps_refl _, Boot.keeps_refl _, Fabric.keeps_refl _, Parts.keeps_refl _, Lf.keeps_refl _, Pop.keeps_refl _, Radio.keeps_refl _, Crypt.keeps_refl _, h, Met.keeps_refl _, Ledger.keeps_refl _, Health.keeps_refl _, Net.keeps_refl _, Power.keeps_refl _, Cores.keeps_refl _, Tamper.keeps_refl _, Jtag.keeps_refl _, fun h => h⟩⟩

theorem State.modMet_moves (s : State) (f) (h : Met.Keeps s.met (f s.met)) : Moves [.met] s (s.modMet f) :=
  ⟨by
    intro p hp; cases p <;> first | rfl | exact absurd (List.mem_singleton.mpr rfl) hp,
   ⟨Tbu.keeps_refl _, Tmr.keeps_refl _, Evc.keeps_refl _, Psc.keeps_refl _, Pad.keeps_refl _, Mbx.keeps_refl _, Boot.keeps_refl _, Fabric.keeps_refl _, Parts.keeps_refl _, Lf.keeps_refl _, Pop.keeps_refl _, Radio.keeps_refl _, Crypt.keeps_refl _, Keys.keeps_refl _, h, Ledger.keeps_refl _, Health.keeps_refl _, Net.keeps_refl _, Power.keeps_refl _, Cores.keeps_refl _, Tamper.keeps_refl _, Jtag.keeps_refl _, fun h => h⟩⟩

theorem State.modLedger_moves (s : State) (f) (h : Ledger.Keeps s.ledger (f s.ledger)) : Moves [.ledger] s (s.modLedger f) :=
  ⟨by
    intro p hp; cases p <;> first | rfl | exact absurd (List.mem_singleton.mpr rfl) hp,
   ⟨Tbu.keeps_refl _, Tmr.keeps_refl _, Evc.keeps_refl _, Psc.keeps_refl _, Pad.keeps_refl _, Mbx.keeps_refl _, Boot.keeps_refl _, Fabric.keeps_refl _, Parts.keeps_refl _, Lf.keeps_refl _, Pop.keeps_refl _, Radio.keeps_refl _, Crypt.keeps_refl _, Keys.keeps_refl _, Met.keeps_refl _, h, Health.keeps_refl _, Net.keeps_refl _, Power.keeps_refl _, Cores.keeps_refl _, Tamper.keeps_refl _, Jtag.keeps_refl _, fun h => h⟩⟩

theorem State.modHealth_moves (s : State) (f) (h : Health.Keeps s.health (f s.health)) : Moves [.health] s (s.modHealth f) :=
  ⟨by
    intro p hp; cases p <;> first | rfl | exact absurd (List.mem_singleton.mpr rfl) hp,
   ⟨Tbu.keeps_refl _, Tmr.keeps_refl _, Evc.keeps_refl _, Psc.keeps_refl _, Pad.keeps_refl _, Mbx.keeps_refl _, Boot.keeps_refl _, Fabric.keeps_refl _, Parts.keeps_refl _, Lf.keeps_refl _, Pop.keeps_refl _, Radio.keeps_refl _, Crypt.keeps_refl _, Keys.keeps_refl _, Met.keeps_refl _, Ledger.keeps_refl _, h, Net.keeps_refl _, Power.keeps_refl _, Cores.keeps_refl _, Tamper.keeps_refl _, Jtag.keeps_refl _, fun h => h⟩⟩

theorem State.modNet_moves (s : State) (f) (h : Net.Keeps s.net (f s.net)) : Moves [.net] s (s.modNet f) :=
  ⟨by
    intro p hp; cases p <;> first | rfl | exact absurd (List.mem_singleton.mpr rfl) hp,
   ⟨Tbu.keeps_refl _, Tmr.keeps_refl _, Evc.keeps_refl _, Psc.keeps_refl _, Pad.keeps_refl _, Mbx.keeps_refl _, Boot.keeps_refl _, Fabric.keeps_refl _, Parts.keeps_refl _, Lf.keeps_refl _, Pop.keeps_refl _, Radio.keeps_refl _, Crypt.keeps_refl _, Keys.keeps_refl _, Met.keeps_refl _, Ledger.keeps_refl _, Health.keeps_refl _, h, Power.keeps_refl _, Cores.keeps_refl _, Tamper.keeps_refl _, Jtag.keeps_refl _, fun h => h⟩⟩

theorem State.modPower_moves (s : State) (f) (h : Power.Keeps s.power (f s.power)) : Moves [.power] s (s.modPower f) :=
  ⟨by
    intro p hp; cases p <;> first | rfl | exact absurd (List.mem_singleton.mpr rfl) hp,
   ⟨Tbu.keeps_refl _, Tmr.keeps_refl _, Evc.keeps_refl _, Psc.keeps_refl _, Pad.keeps_refl _, Mbx.keeps_refl _, Boot.keeps_refl _, Fabric.keeps_refl _, Parts.keeps_refl _, Lf.keeps_refl _, Pop.keeps_refl _, Radio.keeps_refl _, Crypt.keeps_refl _, Keys.keeps_refl _, Met.keeps_refl _, Ledger.keeps_refl _, Health.keeps_refl _, Net.keeps_refl _, h, Cores.keeps_refl _, Tamper.keeps_refl _, Jtag.keeps_refl _, fun h => h⟩⟩

theorem State.modCores_moves (s : State) (f) (h : Cores.Keeps s.cores (f s.cores)) : Moves [.cores] s (s.modCores f) :=
  ⟨by
    intro p hp; cases p <;> first | rfl | exact absurd (List.mem_singleton.mpr rfl) hp,
   ⟨Tbu.keeps_refl _, Tmr.keeps_refl _, Evc.keeps_refl _, Psc.keeps_refl _, Pad.keeps_refl _, Mbx.keeps_refl _, Boot.keeps_refl _, Fabric.keeps_refl _, Parts.keeps_refl _, Lf.keeps_refl _, Pop.keeps_refl _, Radio.keeps_refl _, Crypt.keeps_refl _, Keys.keeps_refl _, Met.keeps_refl _, Ledger.keeps_refl _, Health.keeps_refl _, Net.keeps_refl _, Power.keeps_refl _, h, Tamper.keeps_refl _, Jtag.keeps_refl _, fun h => h⟩⟩

theorem State.modTamper_moves (s : State) (f) (h : Tamper.Keeps s.tamper (f s.tamper)) : Moves [.tamper] s (s.modTamper f) :=
  ⟨by
    intro p hp; cases p <;> first | rfl | exact absurd (List.mem_singleton.mpr rfl) hp,
   ⟨Tbu.keeps_refl _, Tmr.keeps_refl _, Evc.keeps_refl _, Psc.keeps_refl _, Pad.keeps_refl _, Mbx.keeps_refl _, Boot.keeps_refl _, Fabric.keeps_refl _, Parts.keeps_refl _, Lf.keeps_refl _, Pop.keeps_refl _, Radio.keeps_refl _, Crypt.keeps_refl _, Keys.keeps_refl _, Met.keeps_refl _, Ledger.keeps_refl _, Health.keeps_refl _, Net.keeps_refl _, Power.keeps_refl _, Cores.keeps_refl _, h, Jtag.keeps_refl _, fun h => h⟩⟩

theorem State.modJtag_moves (s : State) (f) (h : Jtag.Keeps s.jtag (f s.jtag)) : Moves [.jtag] s (s.modJtag f) :=
  ⟨by
    intro p hp; cases p <;> first | rfl | exact absurd (List.mem_singleton.mpr rfl) hp,
   ⟨Tbu.keeps_refl _, Tmr.keeps_refl _, Evc.keeps_refl _, Psc.keeps_refl _, Pad.keeps_refl _, Mbx.keeps_refl _, Boot.keeps_refl _, Fabric.keeps_refl _, Parts.keeps_refl _, Lf.keeps_refl _, Pop.keeps_refl _, Radio.keeps_refl _, Crypt.keeps_refl _, Keys.keeps_refl _, Met.keeps_refl _, Ledger.keeps_refl _, Health.keeps_refl _, Net.keeps_refl _, Power.keeps_refl _, Cores.keeps_refl _, Tamper.keeps_refl _, h, fun h => h⟩⟩

theorem State.modTbu_movesAll (s : State) (f) (h : ∀ x : Tbu, x.Keeps (f x)) : Moves [.tbu] s (s.modTbu f) :=
  State.modTbu_moves s f (h _)

theorem State.modTmr_movesAll (s : State) (f) (h : ∀ x : Tmr, x.Keeps (f x)) : Moves [.tmr] s (s.modTmr f) :=
  State.modTmr_moves s f (h _)

theorem State.modEvc_movesAll (s : State) (f) (h : ∀ x : Evc, x.Keeps (f x)) : Moves [.evc] s (s.modEvc f) :=
  State.modEvc_moves s f (h _)

theorem State.modPsc_movesAll (s : State) (f) (h : ∀ x : Psc, x.Keeps (f x)) : Moves [.psc] s (s.modPsc f) :=
  State.modPsc_moves s f (h _)

theorem State.modPad_movesAll (s : State) (f) (h : ∀ x : Pad, x.Keeps (f x)) : Moves [.pad] s (s.modPad f) :=
  State.modPad_moves s f (h _)

theorem State.modMbx_movesAll (s : State) (f) (h : ∀ x : Mbx, x.Keeps (f x)) : Moves [.mbx] s (s.modMbx f) :=
  State.modMbx_moves s f (h _)

theorem State.modBoot_movesAll (s : State) (f) (h : ∀ x : Boot, x.Keeps (f x)) : Moves [.boot] s (s.modBoot f) :=
  State.modBoot_moves s f (h _)

theorem State.modFab_movesAll (s : State) (f) (h : ∀ x : Fabric, x.Keeps (f x)) : Moves [.fab] s (s.modFab f) :=
  State.modFab_moves s f (h _)

theorem State.modParts_movesAll (s : State) (f) (h : ∀ x : Parts, x.Keeps (f x)) : Moves [.parts] s (s.modParts f) :=
  State.modParts_moves s f (h _)

theorem State.modLf_movesAll (s : State) (f) (h : ∀ x : Lf, x.Keeps (f x)) : Moves [.lf] s (s.modLf f) :=
  State.modLf_moves s f (h _)

theorem State.modPop_movesAll (s : State) (f) (h : ∀ x : Pop, x.Keeps (f x)) : Moves [.pop] s (s.modPop f) :=
  State.modPop_moves s f (h _)

theorem State.modRadio_movesAll (s : State) (f) (h : ∀ x : Radio, x.Keeps (f x)) : Moves [.radio] s (s.modRadio f) :=
  State.modRadio_moves s f (h _)

theorem State.modCrypt_movesAll (s : State) (f) (h : ∀ x : Crypt, x.Keeps (f x)) : Moves [.crypt] s (s.modCrypt f) :=
  State.modCrypt_moves s f (h _)

theorem State.modKeys_movesAll (s : State) (f) (h : ∀ x : Keys, x.Keeps (f x)) : Moves [.keys] s (s.modKeys f) :=
  State.modKeys_moves s f (h _)

theorem State.modMet_movesAll (s : State) (f) (h : ∀ x : Met, x.Keeps (f x)) : Moves [.met] s (s.modMet f) :=
  State.modMet_moves s f (h _)

theorem State.modLedger_movesAll (s : State) (f) (h : ∀ x : Ledger, x.Keeps (f x)) : Moves [.ledger] s (s.modLedger f) :=
  State.modLedger_moves s f (h _)

theorem State.modHealth_movesAll (s : State) (f) (h : ∀ x : Health, x.Keeps (f x)) : Moves [.health] s (s.modHealth f) :=
  State.modHealth_moves s f (h _)

theorem State.modNet_movesAll (s : State) (f) (h : ∀ x : Net, x.Keeps (f x)) : Moves [.net] s (s.modNet f) :=
  State.modNet_moves s f (h _)

theorem State.modPower_movesAll (s : State) (f) (h : ∀ x : Power, x.Keeps (f x)) : Moves [.power] s (s.modPower f) :=
  State.modPower_moves s f (h _)

theorem State.modCores_movesAll (s : State) (f) (h : ∀ x : Cores, x.Keeps (f x)) : Moves [.cores] s (s.modCores f) :=
  State.modCores_moves s f (h _)

theorem State.modTamper_movesAll (s : State) (f) (h : ∀ x : Tamper, x.Keeps (f x)) : Moves [.tamper] s (s.modTamper f) :=
  State.modTamper_moves s f (h _)

theorem State.modJtag_movesAll (s : State) (f) (h : ∀ x : Jtag, x.Keeps (f x)) : Moves [.jtag] s (s.modJtag f) :=
  State.modJtag_moves s f (h _)

theorem State.modMem_moves (s : State) (f) (h : Memory.wf s.mem = true → Memory.wf (f s.mem) = true) : Moves [.mem] s (s.modMem f) :=
  ⟨by
    intro p hp; cases p <;> first | rfl | exact absurd (List.mem_singleton.mpr rfl) hp,
   ⟨Tbu.keeps_refl _, Tmr.keeps_refl _, Evc.keeps_refl _, Psc.keeps_refl _, Pad.keeps_refl _, Mbx.keeps_refl _, Boot.keeps_refl _, Fabric.keeps_refl _, Parts.keeps_refl _, Lf.keeps_refl _, Pop.keeps_refl _, Radio.keeps_refl _, Crypt.keeps_refl _, Keys.keeps_refl _, Met.keeps_refl _, Ledger.keeps_refl _, Health.keeps_refl _, Net.keeps_refl _, Power.keeps_refl _, Cores.keeps_refl _, Tamper.keeps_refl _, Jtag.keeps_refl _, h⟩⟩

theorem State.modFree_moves (s : State) (f) : Moves [.free] s (s.modFree f) :=
  ⟨by
    intro p hp; cases p <;> first | rfl | exact absurd (List.mem_singleton.mpr rfl) hp,
   ⟨Tbu.keeps_refl _, Tmr.keeps_refl _, Evc.keeps_refl _, Psc.keeps_refl _, Pad.keeps_refl _, Mbx.keeps_refl _, Boot.keeps_refl _, Fabric.keeps_refl _, Parts.keeps_refl _, Lf.keeps_refl _, Pop.keeps_refl _, Radio.keeps_refl _, Crypt.keeps_refl _, Keys.keeps_refl _, Met.keeps_refl _, Ledger.keeps_refl _, Health.keeps_refl _, Net.keeps_refl _, Power.keeps_refl _, Cores.keeps_refl _, Tamper.keeps_refl _, Jtag.keeps_refl _, fun h => h⟩⟩

end Sys2Proof.Machine
end

