-- ==== Sys2Proof/Laws/Ops.lean ====
section
/-!
SUPPORT. What the operations of Machine/Ops.lean leave unchanged, and what they keep.
-/
namespace Sys2Proof.Machine

theorem State.drawn_moves (s : State) :
    Moves [.free] s (State.drawn s) := by
  unfold State.drawn
  refine Moves.step ?_ (Moves.mono (by decide) (State.modFree_moves _ _))
  exact Moves.refl _ _

theorem State.restartHalves_moves (s : State) :
    Moves [.rel] s (State.restartHalves s) := by
  unfold State.restartHalves
  refine Moves.step ?_ (Moves.mono (by decide) (State.modRel_moves _ _))
  exact Moves.refl _ _

theorem State.modStat_moves (port : Nat) (f : PortStat → PortStat) (s : State) :
    Moves [.net] s (State.modStat port f s) := by
  unfold State.modStat
  refine Moves.step ?_ (Moves.mono (by decide) (State.modNet_moves _ _ (by simp +contextual [Net.Keeps, Net.Shaped] <;> intros <;> omega)))
  exact Moves.refl _ _

theorem State.countSent_moves (port n : Nat) (s : State) :
    Moves [.net] s (State.countSent port n s) := by
  unfold State.countSent
  refine Moves.step ?_ (Moves.mono (by decide) (State.modStat_moves _ _ _))
  exact Moves.refl _ _

theorem State.countSentAll_moves (n : Nat) (s : State) :
    Moves [.net] s (State.countSentAll n s) := by
  unfold State.countSentAll
  refine Moves.foldl ?_ (fun x0 _ hx0 => ?_)
  · exact Moves.refl _ _
  · refine Moves.ite (fun _ => ?_) (fun _ => ?_)
    · refine Moves.step ?_ (Moves.mono (by decide) (State.countSent_moves _ _ _))
      exact hx0
    · exact hx0

theorem State.fallDueWith_moves (asleep : BitVec 6) (g : Nat) (b : Batch) (s : State) :
    Moves [.evc] s (State.fallDueWith asleep g b s) := by
  unfold State.fallDueWith
  extract_lets +onlyGivenNames x0
  have hx0 : Moves [.evc] s x0 := by
    refine Moves.step ?_ (Moves.mono (by decide) (State.modEvc_moves _ _ (by simp +contextual [Evc.Keeps, Evc.Shaped] <;> intros <;> omega)))
    exact Moves.refl _ _
  clear_value x0
  refine Moves.ite (fun _ => ?_) (fun _ => ?_)
  · refine Moves.step ?_ (Moves.mono (by decide) (State.modEvc_movesAll _ _ (fun _ => by exact Evc.keeps_of rfl rfl rfl rfl)))
    exact hx0
  · exact hx0

theorem State.fallDue_moves (g : Nat) (b : Batch) (s : State) :
    Moves [.evc] s (State.fallDue g b s) := by
  unfold State.fallDue
  refine Moves.step ?_ (Moves.mono (by decide) (State.fallDueWith_moves _ _ _ _))
  exact Moves.refl _ _

theorem State.dueCheck_moves (g : Nat) (wrote : Bool) (s : State) :
    Moves [.evc] s (State.dueCheck g wrote s) := by
  unfold State.dueCheck
  try extract_lets +onlyGivenNames x0
  try clear_value x0
  split
  · refine Moves.ite (fun _ => ?_) (fun _ => ?_)
    · refine Moves.step ?_ (Moves.mono (by decide) (State.fallDue_moves _ _ _))
      refine Moves.step ?_ (Moves.mono (by decide) (State.modEvc_moves _ _ (by simp +contextual [Evc.Keeps, Evc.Shaped] <;> intros <;> omega)))
      exact Moves.refl _ _
    · exact Moves.refl _ _
  · exact Moves.refl _ _

theorem State.closeBatch_moves (g : Nat) (s : State) :
    Moves [.evc] s (State.closeBatch g s) := by
  unfold State.closeBatch
  split
  · refine Moves.ite (fun _ => ?_) (fun _ => ?_)
    · refine Moves.step ?_ (Moves.mono (by decide) (State.dueCheck_moves _ _ _))
      exact Moves.refl _ _
    · exact Moves.refl _ _
  · exact Moves.refl _ _

theorem State.collect_moves (g src : Nat) (s : State) :
    Moves [.evc] s (State.collect g src s) := by
  unfold State.collect
  extract_lets +onlyGivenNames x0
  have hx0 : Moves [.evc] s x0 := by
    refine Moves.step ?_ (Moves.mono (by decide) (State.closeBatch_moves _ _))
    exact Moves.refl _ _
  clear_value x0
  try extract_lets +onlyGivenNames x1
  try clear_value x1
  refine Moves.ite (fun _ => ?_) (fun _ => ?_)
  · exact hx0
  · try extract_lets +onlyGivenNames x2
    try clear_value x2
    try extract_lets +onlyGivenNames x3
    try clear_value x3
    refine Moves.step ?_ (Moves.mono (by decide) (State.dueCheck_moves _ _ _))
    refine Moves.step ?_ (Moves.mono (by decide) (State.modEvc_moves _ _ (by simp +contextual [Evc.Keeps, Evc.Shaped] <;> intros <;> omega)))
    exact hx0

theorem State.raise_moves (g src : Nat) (s : State) :
    Moves [.evc] s (State.raise g src s) := by
  unfold State.raise
  refine Moves.ite (fun _ => ?_) (fun _ => ?_)
  · exact Moves.refl _ _
  · refine Moves.ite (fun _ => ?_) (fun _ => ?_)
    · refine Moves.step ?_ (Moves.mono (by decide) (State.modEvc_movesAll _ _ (fun _ => by exact Evc.keeps_of rfl rfl rfl rfl)))
      exact Moves.refl _ _
    · refine Moves.step ?_ (Moves.mono (by decide) (State.collect_moves _ _ _))
      exact Moves.refl _ _

theorem State.tbuEvt_moves (b : Nat) (s : State) :
    Moves [.tbu, .evc] s (State.tbuEvt b s) := by
  unfold State.tbuEvt
  extract_lets +onlyGivenNames x0
  have hx0 : Moves [.tbu, .evc] s x0 := by
    refine Moves.step ?_ (Moves.mono (by decide) (State.modTbu_movesAll _ _ (fun _ => by exact Tbu.keeps_of rfl rfl rfl rfl rfl rfl)))
    exact Moves.refl _ _
  clear_value x0
  refine Moves.ite (fun _ => ?_) (fun _ => ?_)
  · refine Moves.step ?_ (Moves.mono (by decide) (State.raise_moves _ _ _))
    exact hx0
  · exact hx0

theorem State.uncEvents_moves (before : Nat) (s : State) :
    Moves [.tbu, .evc] s (State.uncEvents before s) := by
  unfold State.uncEvents
  try extract_lets +onlyGivenNames x0
  try clear_value x0
  extract_lets +onlyGivenNames x1
  have hx1 : Moves [.tbu, .evc] s x1 := by
    refine Moves.ite (fun _ => ?_) (fun _ => ?_)
    · refine Moves.step ?_ (Moves.mono (by decide) (State.tbuEvt_moves _ _))
      exact Moves.refl _ _
    · exact Moves.refl _ _
  clear_value x1
  refine Moves.ite (fun _ => ?_) (fun _ => ?_)
  · refine Moves.step ?_ (Moves.mono (by decide) (State.tbuEvt_moves _ _))
    exact hx1
  · exact hx1

theorem State.charge_moves (n : Nat) (s : State) :
    Moves [.tbu, .evc] s (State.charge n s) := by
  unfold State.charge
  refine Moves.step ?_ (Moves.mono (by decide) (State.uncEvents_moves _ _))
  refine Moves.step ?_ (Moves.mono (by decide) (State.modTbu_movesAll _ _ (fun _ => by exact Tbu.keeps_of rfl rfl rfl rfl rfl rfl)))
  exact Moves.refl _ _

theorem State.modSlot_moves (s : State) (k : Nat) (f : KeySlot → KeySlot) :
    Moves [.keys] s (State.modSlot s k f) := by
  unfold State.modSlot
  refine Moves.step ?_ (Moves.mono (by decide) (State.modKeys_moves _ _ (by simp +contextual [Keys.Keeps, Keys.Shaped] <;> intros <;> omega)))
  exact Moves.refl _ _

theorem State.tallyUp_moves (t : Nat) (s : State) :
    Moves [.ledger] s (State.tallyUp t s) := by
  unfold State.tallyUp
  refine Moves.step ?_ (Moves.mono (by decide) (State.modLedger_moves _ _ (by refine ⟨fun h => ?_, ?_⟩ <;> simp_all [Ledger.Shaped] <;> omega)))
  exact Moves.refl _ _

theorem State.lowCheck_moves (t : Nat) (s : State) :
    Moves [.evc, .ledger] s (State.lowCheck t s) := by
  unfold State.lowCheck
  refine Moves.ite (fun _ => ?_) (fun _ => ?_)
  · refine Moves.step ?_ (Moves.mono (by decide) (State.raise_moves _ _ _))
    refine Moves.step ?_ (Moves.mono (by decide) (State.modLedger_movesAll _ _ (fun _ => by exact Ledger.keeps_of rfl rfl rfl rfl)))
    exact Moves.refl _ _
  · exact Moves.refl _ _

theorem State.ringPut_moves (key : List Byte) (e : Entry) (s : State) :
    Moves [.evc, .ledger] s (State.ringPut key e s) := by
  unfold State.ringPut
  refine Moves.ite (fun _ => ?_) (fun _ => ?_)
  · exact Moves.refl _ _
  · try extract_lets +onlyGivenNames x0
    try clear_value x0
    try extract_lets +onlyGivenNames x1
    try clear_value x1
    refine Moves.step ?_ (Moves.mono (by decide) (State.lowCheck_moves _ _))
    refine Moves.step ?_ (Moves.mono (by decide) (State.modLedger_moves _ _ (by refine ⟨fun h => ?_, ?_⟩ <;> simp_all [Ledger.Shaped] <;> omega)))
    exact Moves.refl _ _

theorem State.compact_moves (e : Entry) (s : State) :
    Moves [.evc, .ledger] s (State.compact e s) := by
  unfold State.compact
  try extract_lets +onlyGivenNames x0
  try clear_value x0
  try extract_lets +onlyGivenNames x1
  try clear_value x1
  try extract_lets +onlyGivenNames x2
  try clear_value x2
  try extract_lets +onlyGivenNames x3
  try clear_value x3
  refine Moves.step ?_ (Moves.mono (by decide) (State.ringPut_moves _ _ _))
  refine Moves.step ?_ (Moves.mono (by decide) (State.raise_moves _ _ _))
  refine Moves.step ?_ (Moves.mono (by decide) (State.modLedger_movesAll _ _ (fun _ => by exact Ledger.keeps_of rfl rfl rfl rfl)))
  exact Moves.refl _ _

theorem State.pairMerge_moves (e : Entry) (s : State) :
    Moves [.ledger] s (State.pairMerge e s) := by
  unfold State.pairMerge
  refine Moves.step ?_ (Moves.mono (by decide) (State.modLedger_movesAll _ _ (fun _ => by exact Ledger.keeps_of rfl rfl rfl rfl)))
  exact Moves.refl _ _

theorem State.ringAppend_moves (key : List Byte) (e : Entry) (s : State) :
    Moves [.evc, .ledger] s (State.ringAppend key e s) := by
  unfold State.ringAppend
  refine Moves.ite (fun _ => ?_) (fun _ => ?_)
  · refine Moves.step ?_ (Moves.mono (by decide) (State.ringPut_moves _ _ _))
    refine Moves.ite (fun _ => ?_) (fun _ => ?_)
    · refine Moves.step ?_ (Moves.mono (by decide) (State.compact_moves _ _))
      exact Moves.refl _ _
    · exact Moves.refl _ _
  · refine Moves.ite (fun _ => ?_) (fun _ => ?_)
    · refine Moves.ite (fun _ => ?_) (fun _ => ?_)
      · refine Moves.step ?_ (Moves.mono (by decide) (State.pairMerge_moves _ _))
        exact Moves.refl _ _
      · refine Moves.step ?_ (Moves.mono (by decide) (State.ringPut_moves _ _ _))
        exact Moves.refl _ _
    · refine Moves.ite (fun _ => ?_) (fun _ => ?_)
      · refine Moves.step ?_ (Moves.mono (by decide) (State.tallyUp_moves _ _))
        exact Moves.refl _ _
      · refine Moves.step ?_ (Moves.mono (by decide) (State.ringPut_moves _ _ _))
        exact Moves.refl _ _

theorem State.toArea_moves (e : Entry) (s : State) :
    Moves [.ledger] s (State.toArea e s) := by
  unfold State.toArea
  try extract_lets +onlyGivenNames x0
  try clear_value x0
  refine Moves.ite (fun _ => ?_) (fun _ => ?_)
  · refine Moves.step ?_ (Moves.mono (by decide) (State.modLedger_movesAll _ _ (fun _ => by exact Ledger.keeps_of rfl rfl rfl rfl)))
    exact Moves.refl _ _
  · split
    · exact Moves.refl _ _
    · refine Moves.step ?_ (Moves.mono (by decide) (State.modLedger_movesAll _ _ (fun _ => by exact Ledger.keeps_of rfl rfl rfl rfl)))
      exact Moves.refl _ _

theorem State.enqueue_moves (e : Entry) (s : State) :
    Moves [.ledger] s (State.enqueue e s) := by
  unfold State.enqueue
  refine Moves.ite (fun _ => ?_) (fun _ => ?_)
  · refine Moves.step ?_ (Moves.mono (by decide) (State.modLedger_moves _ _ (by refine ⟨fun h => ?_, ?_⟩ <;> simp_all [Ledger.Shaped] <;> omega)))
    exact Moves.refl _ _
  · split
    · refine Moves.step ?_ (Moves.mono (by decide) (State.tallyUp_moves _ _))
      refine Moves.step ?_ (Moves.mono (by decide) (State.modLedger_moves _ _ (by refine ⟨fun h => ?_, Nat.le_refl _⟩; have hm := List.mem_of_find?_eq_some (by assumption); simp_all [Ledger.Shaped, List.length_erase_of_mem] <;> omega)))
      exact Moves.refl _ _
    · refine Moves.ite (fun _ => ?_) (fun _ => ?_)
      · refine Moves.step ?_ (Moves.mono (by decide) (State.toArea_moves _ _))
        exact Moves.refl _ _
      · refine Moves.step ?_ (Moves.mono (by decide) (State.tallyUp_moves _ _))
        exact Moves.refl _ _

theorem State.ledger1_moves (e : Entry) (s : State) :
    Moves [.evc, .ledger] s (State.ledger1 e s) := by
  unfold State.ledger1
  refine Moves.ite (fun _ => ?_) (fun _ => ?_)
  · split
    · refine Moves.step ?_ (Moves.mono (by decide) (State.ringAppend_moves _ _ _))
      exact Moves.refl _ _
    · refine Moves.step ?_ (Moves.mono (by decide) (State.enqueue_moves _ _))
      exact Moves.refl _ _
  · refine Moves.step ?_ (Moves.mono (by decide) (State.enqueue_moves _ _))
    exact Moves.refl _ _

theorem State.ledgerAdd_moves (type aux : Nat) (body : List Byte) (s : State) :
    Moves [.evc, .ledger] s (State.ledgerAdd type aux body s) := by
  unfold State.ledgerAdd
  refine Moves.step ?_ (Moves.mono (by decide) (State.ledger1_moves _ _))
  exact Moves.refl _ _

theorem State.ledgerPair_moves (e c : Entry) (s : State) :
    Moves [.evc, .ledger] s (State.ledgerPair e c s) := by
  unfold State.ledgerPair
  try extract_lets +onlyGivenNames x0
  try clear_value x0
  try extract_lets +onlyGivenNames x1
  try clear_value x1
  try extract_lets +onlyGivenNames x2
  try clear_value x2
  refine Moves.ite (fun _ => ?_) (fun _ => ?_)
  · try extract_lets +onlyGivenNames x3
    try clear_value x3
    refine Moves.step ?_ (Moves.mono (by decide) (State.ringAppend_moves _ _ _))
    refine Moves.step ?_ (Moves.mono (by decide) (State.ringAppend_moves _ _ _))
    exact Moves.refl _ _
  · refine Moves.ite (fun _ => ?_) (fun _ => ?_)
    · refine Moves.step ?_ (Moves.mono (by decide) (State.modLedger_moves _ _ (by simp +contextual [Ledger.Keeps, Ledger.Shaped, mergeWaiting])))
      exact Moves.refl _ _
    · refine Moves.ite (fun _ => ?_) (fun _ => ?_)
      · refine Moves.step ?_ (Moves.mono (by decide) (State.modLedger_movesAll _ _ (fun _ => by exact Ledger.keeps_of rfl rfl rfl rfl)))
        exact Moves.refl _ _
      · refine Moves.ite (fun _ => ?_) (fun _ => ?_)
        · refine Moves.foldl ?_ (fun x4 _ hx4 => ?_)
          · refine Moves.step ?_ (Moves.mono (by decide) (State.modLedger_moves _ _ (by refine ⟨fun h => ?_, ?_⟩ <;> simp_all [Ledger.Shaped] <;> omega)))
            exact Moves.refl _ _
          · refine Moves.step ?_ (Moves.mono (by decide) (State.tallyUp_moves _ _))
            exact hx4
        · refine Moves.step ?_ (Moves.mono (by decide) (State.modLedger_movesAll _ _ (fun _ => by exact Ledger.keeps_of rfl rfl rfl rfl)))
          exact Moves.refl _ _

theorem State.putTally_moves (key : List Byte) (s : State) :
    Moves [.evc, .ledger] s (State.putTally key s) := by
  unfold State.putTally
  refine Moves.ite (fun _ => ?_) (fun _ => ?_)
  · exact Moves.refl _ _
  · refine Moves.step ?_ (Moves.mono (by decide) (State.modLedger_moves _ _ (by refine ⟨fun h => ?_, ?_⟩ <;> simp_all [Ledger.Shaped] <;> omega)))
    refine Moves.step ?_ (Moves.mono (by decide) (State.ringAppend_moves _ _ _))
    exact Moves.refl _ _

theorem State.drainOne_moves (e : Entry) (s : State) :
    Moves [.evc, .ledger] s (State.drainOne e s) := by
  unfold State.drainOne
  split
  · refine Moves.step ?_ (Moves.mono (by decide) (State.ringAppend_moves _ _ _))
    exact Moves.refl _ _
  · exact Moves.refl _ _

theorem State.drainWaiting_moves (s : State) :
    Moves [.evc, .ledger] s (State.drainWaiting s) := by
  unfold State.drainWaiting
  refine Moves.ite (fun _ => ?_) (fun _ => ?_)
  · exact Moves.refl _ _
  · try extract_lets +onlyGivenNames x0
    try clear_value x0
    try extract_lets +onlyGivenNames x1
    try clear_value x1
    try extract_lets +onlyGivenNames x2
    try clear_value x2
    extract_lets +onlyGivenNames x3
    have hx3 : Moves [.evc, .ledger] s x3 := by
      refine Moves.step ?_ (Moves.mono (by decide) (State.modLedger_moves _ _ (by refine ⟨fun h => ?_, ?_⟩ <;> simp_all [Ledger.Shaped] <;> omega)))
      exact Moves.refl _ _
    clear_value x3
    extract_lets +onlyGivenNames x4
    have hx4 : Moves [.evc, .ledger] s x4 := by
      refine Moves.foldl ?_ (fun x5 _ hx5 => ?_)
      · exact hx3
      · refine Moves.step ?_ (Moves.mono (by decide) (State.drainOne_moves _ _))
        exact hx5
    clear_value x4
    extract_lets +onlyGivenNames x6
    have hx6 : Moves [.evc, .ledger] s x6 := by
      refine Moves.foldl ?_ (fun x7 _ hx7 => ?_)
      · exact hx4
      · refine Moves.step ?_ (Moves.mono (by decide) (State.drainOne_moves _ _))
        refine Moves.ite (fun _ => ?_) (fun _ => ?_)
        · refine Moves.step ?_ (Moves.mono (by decide) (State.drainOne_moves _ _))
          exact hx7
        · exact hx7
    clear_value x6
    refine Moves.step ?_ (Moves.mono (by decide) (State.modLedger_movesAll _ _ (fun _ => by exact Ledger.keeps_of rfl rfl rfl rfl)))
    exact hx6

theorem State.tallyDue_moves (s : State) :
    Moves [.evc, .ledger] s (State.tallyDue s) := by
  unfold State.tallyDue
  split
  · refine Moves.ite (fun _ => ?_) (fun _ => ?_)
    · refine Moves.step ?_ (Moves.mono (by decide) (State.putTally_moves _ _))
      exact Moves.refl _ _
    · exact Moves.refl _ _
  · exact Moves.refl _ _

theorem State.drainLedger_moves (s : State) :
    Moves [.evc, .ledger] s (State.drainLedger s) := by
  unfold State.drainLedger
  refine Moves.step ?_ (Moves.mono (by decide) (State.tallyDue_moves _))
  refine Moves.step ?_ (Moves.mono (by decide) (State.drainWaiting_moves _))
  exact Moves.refl _ _

theorem State.healthPut_moves (r : HealthRec) (s : State) :
    Moves [.evc, .ledger, .health] s (State.healthPut r s) := by
  unfold State.healthPut
  extract_lets +onlyGivenNames x0
  have hx0 : Moves [.evc, .ledger, .health] s x0 := by
    refine Moves.step ?_ (Moves.mono (by decide) (State.raise_moves _ _ _))
    refine Moves.step ?_ (Moves.mono (by decide) (State.modHealth_moves _ _ (by refine ⟨fun h => ?_, ?_⟩ <;> simp_all [Health.Shaped] <;> omega)))
    exact Moves.refl _ _
  clear_value x0
  refine Moves.ite (fun _ => ?_) (fun _ => ?_)
  · refine Moves.step ?_ (Moves.mono (by decide) (State.ledgerAdd_moves _ _ _ _))
    exact hx0
  · exact hx0

theorem State.health1_moves (code unit action detail : Nat) (s : State) :
    Moves [.evc, .ledger, .health] s (State.health1 code unit action detail s) := by
  unfold State.health1
  try extract_lets +onlyGivenNames x0
  try clear_value x0
  refine Moves.ite (fun _ => ?_) (fun _ => ?_)
  · refine Moves.ite (fun _ => ?_) (fun _ => ?_)
    · refine Moves.step ?_ (Moves.mono (by decide) (State.modHealth_movesAll _ _ (fun _ => by exact Health.keeps_of rfl rfl)))
      exact Moves.refl _ _
    · refine Moves.step ?_ (Moves.mono (by decide) (State.modHealth_movesAll _ _ (fun _ => by exact Health.keeps_of rfl rfl)))
      exact Moves.refl _ _
  · refine Moves.step ?_ (Moves.mono (by decide) (State.healthPut_moves _ _))
    exact Moves.refl _ _

theorem State.healthFree_moves (code unit action : Nat) (s : State) :
    Moves [.evc, .ledger, .health, .free] s (State.healthFree code unit action s) := by
  unfold State.healthFree
  refine Moves.step ?_ (Moves.mono (by decide) (State.drawn_moves _))
  refine Moves.step ?_ (Moves.mono (by decide) (State.health1_moves _ _ _ _ _))
  exact Moves.refl _ _

theorem State.modBox_moves (s : State) (n : Nat) (f : Mailbox → Mailbox) :
    Moves [.mbx] s (State.modBox s n f) := by
  unfold State.modBox
  refine Moves.step ?_ (Moves.mono (by decide) (State.modMbx_moves _ _ (by simp +contextual [Mbx.Keeps, Mbx.Shaped] <;> intros <;> omega)))
  exact Moves.refl _ _

theorem State.winFree_moves (w : Option Nat) (s : State) :
    Moves [.fab] s (State.winFree w s) := by
  unfold State.winFree
  split
  · refine Moves.step ?_ (Moves.mono (by decide) (State.modFab_moves _ _ (by simp +contextual [Fabric.Keeps, Fabric.Shaped] <;> intros <;> omega)))
    exact Moves.refl _ _
  · exact Moves.refl _ _

theorem State.postWith_moves (n status : Nat) (body : List Byte) (consumed : Nat) (s : State) :
    Moves [.evc, .mbx, .fab] s (State.postWith n status body consumed s) := by
  unfold State.postWith
  try extract_lets +onlyGivenNames x0
  try clear_value x0
  extract_lets +onlyGivenNames x1
  have hx1 : Moves [.evc, .mbx, .fab] s x1 := by
    refine Moves.step ?_ (Moves.mono (by decide) (State.modBox_moves _ _ _))
    refine Moves.step ?_ (Moves.mono (by decide) (State.winFree_moves _ _))
    exact Moves.refl _ _
  clear_value x1
  refine Moves.ite (fun _ => ?_) (fun _ => ?_)
  · exact hx1
  · refine Moves.step ?_ (Moves.mono (by decide) (State.raise_moves _ _ _))
    exact hx1

theorem State.post_moves (n status : Nat) (body : List Byte) (s : State) :
    Moves [.evc, .mbx, .fab] s (State.post n status body s) := by
  unfold State.post
  refine Moves.ite (fun _ => ?_) (fun _ => ?_)
  · refine Moves.step ?_ (Moves.mono (by decide) (State.postWith_moves _ _ _ _ _))
    exact Moves.refl _ _
  · refine Moves.step ?_ (Moves.mono (by decide) (State.postWith_moves _ _ _ _ _))
    exact Moves.refl _ _

theorem State.wait_moves (n : Nat) (s : State) :
    Moves [.mbx] s (State.wait n s) := by
  unfold State.wait
  refine Moves.step ?_ (Moves.mono (by decide) (State.modBox_moves _ _ _))
  exact Moves.refl _ _

theorem State.commit_moves (n : Nat) (s : State) :
    Moves [.mbx] s (State.commit n s) := by
  unfold State.commit
  refine Moves.step ?_ (Moves.mono (by decide) (State.modBox_moves _ _ _))
  exact Moves.refl _ _

end Sys2Proof.Machine
end

