-- ==== Sys2Proof/Laws/Partners.lean ====
section
/-!
SUPPORT. What the operations of Machine/Partners.lean leave unchanged, and what they keep.
-/
namespace Sys2Proof.Machine

theorem State.writeRec_moves (i : Nat) (r : PartRec) (s : State) :
    Moves [.parts] s (State.writeRec i r s) := by
  unfold State.writeRec
  refine Moves.step ?_ (Moves.mono (by decide) (State.modParts_moves _ _ (Parts.keeps_of rfl)))
  exact Moves.refl _ _

theorem State.dropRec_moves (i : Nat) (s : State) :
    Moves [.parts] s (State.dropRec i s) := by
  unfold State.dropRec
  refine Moves.step ?_ (Moves.mono (by decide) (State.modParts_movesAll _ _ (fun _ => by exact Parts.keeps_of rfl)))
  exact Moves.refl _ _

theorem State.readRecord_moves (s : State) (q : Nat × PartRec) :
    Moves [.parts] s (State.readRecord s q) := by
  unfold State.readRecord
  try extract_lets +onlyGivenNames x0
  try clear_value x0
  try extract_lets +onlyGivenNames x1
  try clear_value x1
  refine Moves.ite (fun _ => ?_) (fun _ => ?_)
  · exact Moves.refl _ _
  · refine Moves.step ?_ (Moves.mono (by decide) (State.modParts_moves _ _ (Parts.keeps_of rfl)))
    exact Moves.refl _ _

theorem State.readRecords_moves (s : State) :
    Moves [.parts] s (State.readRecords s) := by
  unfold State.readRecords
  refine Moves.foldl ?_ (fun x0 _ hx0 => ?_)
  · exact Moves.refl _ _
  · refine Moves.step ?_ (Moves.mono (by decide) (State.readRecord_moves _ _))
    exact hx0

theorem State.updateRec_moves (ident : Nat) (f : PartRec → PartRec) (s : State) :
    Moves [.parts] s (State.updateRec ident f s) := by
  unfold State.updateRec
  split
  · refine Moves.step ?_ (Moves.mono (by decide) (State.writeRec_moves _ _ _))
    exact Moves.refl _ _
  · exact Moves.refl _ _

theorem State.partnerEntry_moves (aux ident old role flags attach before : Nat) (s : State) :
    Moves [.evc, .ledger] s (State.partnerEntry aux ident old role flags attach before s) := by
  unfold State.partnerEntry
  refine Moves.step ?_ (Moves.mono (by decide) (State.ledgerAdd_moves _ _ _ _))
  exact Moves.refl _ _

theorem State.noteChange_moves (old new : PartRec) (s : State) :
    Moves [.evc, .ledger] s (State.noteChange old new s) := by
  unfold State.noteChange
  try extract_lets +onlyGivenNames x0
  try clear_value x0
  refine Moves.step ?_ (Moves.mono (by decide) (State.raise_moves _ _ _))
  refine Moves.step ?_ (Moves.mono (by decide) (State.partnerEntry_moves _ _ _ _ _ _ _ _))
  exact Moves.refl _ _

theorem State.changeRec_moves (i : Nat) (old new : PartRec) (s : State) :
    Moves [.evc, .parts, .ledger] s (State.changeRec i old new s) := by
  unfold State.changeRec
  refine Moves.step ?_ (Moves.mono (by decide) (State.noteChange_moves _ _ _))
  refine Moves.ite (fun _ => ?_) (fun _ => ?_)
  · refine Moves.step ?_ (Moves.mono (by decide) (State.dropRec_moves _ _))
    exact Moves.refl _ _
  · refine Moves.step ?_ (Moves.mono (by decide) (State.writeRec_moves _ _ _))
    exact Moves.refl _ _

theorem State.loseCopy_moves (i : Nat) (lower : Bool) (s : State) :
    Moves [.evc, .parts, .ledger] s (State.loseCopy i lower s) := by
  unfold State.loseCopy
  split
  · try extract_lets +onlyGivenNames x0
    try clear_value x0
    refine Moves.ite (fun _ => ?_) (fun _ => ?_)
    · refine Moves.step ?_ (Moves.mono (by decide) (State.modParts_moves _ _ (Parts.keeps_of rfl)))
      exact Moves.refl _ _
    · extract_lets +onlyGivenNames x1
      have hx1 : Moves [.evc, .parts, .ledger] s x1 := by
        refine Moves.ite (fun _ => ?_) (fun _ => ?_)
        · refine Moves.step ?_ (Moves.mono (by decide) (State.dropRec_moves _ _))
          exact Moves.refl _ _
        · refine Moves.step ?_ (Moves.mono (by decide) (State.modParts_moves _ _ (Parts.keeps_of rfl)))
          exact Moves.refl _ _
      clear_value x1
      refine Moves.ite (fun _ => ?_) (fun _ => ?_)
      · exact hx1
      · refine Moves.step ?_ (Moves.mono (by decide) (State.noteChange_moves _ _ _))
        exact hx1
  · exact Moves.refl _ _

theorem State.modAttach_moves (s : State) (a : Nat) (f : AttachCtr → AttachCtr) :
    Moves [.parts] s (State.modAttach s a f) := by
  unfold State.modAttach
  refine Moves.step ?_ (Moves.mono (by decide) (State.modParts_moves _ _ (by simp +contextual [Parts.Keeps, Parts.Shaped] <;> intros <;> omega)))
  exact Moves.refl _ _

theorem State.evalIdentity_moves (ident : Nat) (s : State) :
    Moves [.evc, .parts, .ledger] s (State.evalIdentity ident s) := by
  unfold State.evalIdentity
  split
  · try extract_lets +onlyGivenNames x0
    try clear_value x0
    refine Moves.ite (fun _ => ?_) (fun _ => ?_)
    · refine Moves.step ?_ (Moves.mono (by decide) (State.changeRec_moves _ _ _ _))
      exact Moves.refl _ _
    · refine Moves.ite (fun _ => ?_) (fun _ => ?_)
      · exact Moves.refl _ _
      · refine Moves.step ?_ (Moves.mono (by decide) (State.writeRec_moves _ _ _))
        exact Moves.refl _ _
  · exact Moves.refl _ _

theorem State.evalAttach_moves (a : Nat) (s : State) :
    Moves [.parts] s (State.evalAttach a s) := by
  unfold State.evalAttach
  refine Moves.step ?_ (Moves.mono (by decide) (State.modAttach_moves _ _ _))
  exact Moves.refl _ _

theorem State.summarise_moves (ident attach : Nat) (high : Bool) (s : State) :
    Moves [.parts] s (State.summarise ident attach high s) := by
  unfold State.summarise
  try extract_lets +onlyGivenNames x0
  try clear_value x0
  refine Moves.step ?_ (Moves.mono (by decide) (State.modParts_movesAll _ _ (fun _ => by exact Parts.keeps_of rfl)))
  exact Moves.refl _ _

theorem State.countFailure_moves (kind code ident : Nat) (attach : Option Nat) (s : State) :
    Moves [.evc, .parts, .ledger] s (State.countFailure kind code ident attach s) := by
  unfold State.countFailure
  try extract_lets +onlyGivenNames x0
  try clear_value x0
  try extract_lets +onlyGivenNames x1
  try clear_value x1
  extract_lets +onlyGivenNames x2
  have hx2 : Moves [.evc, .parts, .ledger] s x2 := by
    unfold x2
    clear x2
    split
    · refine Moves.step ?_ (Moves.mono (by decide) (State.writeRec_moves _ _ _))
      exact Moves.refl _ _
    · exact Moves.refl _ _
  clear_value x2
  extract_lets +onlyGivenNames x3
  have hx3 : Moves [.evc, .parts, .ledger] s x3 := by
    unfold x3
    clear x3
    split
    · refine Moves.step ?_ (Moves.mono (by decide) (State.modAttach_moves _ _ _))
      exact hx2
    · exact hx2
  clear_value x3
  try extract_lets +onlyGivenNames x4
  try clear_value x4
  try extract_lets +onlyGivenNames x5
  try clear_value x5
  extract_lets +onlyGivenNames x6
  have hx6 : Moves [.evc, .parts, .ledger] s x6 := by
    refine Moves.step ?_ (Moves.mono (by decide) (State.raise_moves _ _ _))
    refine Moves.step ?_ (Moves.mono (by decide) (State.raise_moves _ _ _))
    exact hx3
  clear_value x6
  try extract_lets +onlyGivenNames x7
  try clear_value x7
  extract_lets +onlyGivenNames x8
  have hx8 : Moves [.evc, .parts, .ledger] s x8 := by
    refine Moves.ite (fun _ => ?_) (fun _ => ?_)
    · exact hx6
    · refine Moves.step ?_ (Moves.mono (by decide) (State.ledgerAdd_moves _ _ _ _))
      exact hx6
  clear_value x8
  extract_lets +onlyGivenNames x9
  have hx9 : Moves [.evc, .parts, .ledger] s x9 := by
    unfold x9
    clear x9
    split
    · refine Moves.step ?_ (Moves.mono (by decide) (State.summarise_moves _ _ _ _))
      exact hx8
    · exact hx8
  clear_value x9
  split
  · refine Moves.step ?_ (Moves.mono (by decide) (State.summarise_moves _ _ _ _))
    exact hx9
  · exact hx9

theorem State.putSummary_moves (x : AuthSum) (s : State) :
    Moves [.evc, .ledger] s (State.putSummary x s) := by
  unfold State.putSummary
  refine Moves.step ?_ (Moves.mono (by decide) (State.ledgerAdd_moves _ _ _ _))
  exact Moves.refl _ _

theorem State.putSummaries_moves (due : AuthSum → Bool) (s : State) :
    Moves [.evc, .parts, .ledger] s (State.putSummaries due s) := by
  unfold State.putSummaries
  refine Moves.foldl ?_ (fun x0 _ hx0 => ?_)
  · refine Moves.step ?_ (Moves.mono (by decide) (State.modParts_movesAll _ _ (fun _ => by exact Parts.keeps_of rfl)))
    exact Moves.refl _ _
  · refine Moves.step ?_ (Moves.mono (by decide) (State.putSummary_moves _ _))
    exact hx0

theorem State.verifiedExchange_moves (ident : Nat) (s : State) :
    Moves [.evc, .parts, .ledger] s (State.verifiedExchange ident s) := by
  unfold State.verifiedExchange
  split
  · try extract_lets +onlyGivenNames x0
    try clear_value x0
    refine Moves.ite (fun _ => ?_) (fun _ => ?_)
    · refine Moves.step ?_ (Moves.mono (by decide) (State.changeRec_moves _ _ _ _))
      exact Moves.refl _ _
    · refine Moves.step ?_ (Moves.mono (by decide) (State.writeRec_moves _ _ _))
      exact Moves.refl _ _
  · exact Moves.refl _ _

theorem State.missedCheck_moves (ident : Nat) (s : State) :
    Moves [.evc, .parts, .ledger] s (State.missedCheck ident s) := by
  unfold State.missedCheck
  split
  · try extract_lets +onlyGivenNames x0
    try clear_value x0
    refine Moves.ite (fun _ => ?_) (fun _ => ?_)
    · refine Moves.step ?_ (Moves.mono (by decide) (State.changeRec_moves _ _ _ _))
      exact Moves.refl _ _
    · refine Moves.step ?_ (Moves.mono (by decide) (State.writeRec_moves _ _ _))
      exact Moves.refl _ _
  · exact Moves.refl _ _

theorem State.replaceCandidate_moves {s t : State} {i : Nat} (h : s.replaceCandidate = some (i, t)) : Moves [.evc, .parts, .ledger] s t := by
  unfold State.replaceCandidate at h
  cases hr : s.replaceable with
  | none => rw [hr] at h; cases h
  | some p =>
    rw [hr] at h
    cases h
    exact Moves.mono (by decide) (State.changeRec_moves _ _ _ _)

theorem State.placeCandidate_moves {s t : State} {i : Nat} (h : s.placeCandidate = some (i, t)) : Moves [.evc, .parts, .ledger] s t := by
  unfold State.placeCandidate at h
  split at h
  · split at h
    · cases h; exact Moves.refl _ _
    · exact Moves.mono (by decide) (State.replaceCandidate_moves h)
  · exact Moves.mono (by decide) (State.replaceCandidate_moves h)

theorem State.placeEnrolled_moves {s t : State} {i : Nat} (h : s.placeEnrolled = some (i, t)) : Moves [.evc, .parts, .ledger] s t := by
  unfold State.placeEnrolled at h
  split at h
  · cases h; exact Moves.refl _ _
  · exact Moves.mono (by decide) (State.replaceCandidate_moves h)

theorem State.metIdentity_moves (kind attach ident : Nat) (s : State) :
    Moves [.evc, .parts, .ledger] s (State.metIdentity kind attach ident s) := by
  unfold State.metIdentity
  refine Moves.ite (fun _ => ?_) (fun _ => ?_)
  · exact Moves.refl _ _
  · split
    · refine Moves.ite (fun _ => ?_) (fun _ => ?_)
      · refine Moves.step ?_ (Moves.mono (by decide) (State.writeRec_moves _ _ _))
        exact Moves.refl _ _
      · exact Moves.refl _ _
    · split
      · refine Moves.step ?_ (Moves.mono (by decide) (State.raise_moves _ _ _))
        refine Moves.step ?_ (Moves.mono (by decide) (State.changeRec_moves _ _ _ _))
        exact Moves.mono (by decide) (State.placeCandidate_moves (by assumption))
      · exact Moves.refl _ _

theorem State.evalCandidate_moves (ident : Nat) (s : State) :
    Moves [.evc, .parts, .ledger] s (State.evalCandidate ident s) := by
  unfold State.evalCandidate
  extract_lets +onlyGivenNames x0
  have hx0 : Moves [.evc, .parts, .ledger] s x0 := by
    refine Moves.step ?_ (Moves.mono (by decide) (State.evalIdentity_moves _ _))
    exact Moves.refl _ _
  clear_value x0
  split
  · refine Moves.ite (fun _ => ?_) (fun _ => ?_)
    · refine Moves.step ?_ (Moves.mono (by decide) (State.changeRec_moves _ _ _ _))
      exact hx0
    · exact hx0
  · exact hx0

theorem doCandidateEvaluation_moves (s : State) :
    Moves [.evc, .parts, .ledger] s (doCandidateEvaluation s) := by
  unfold doCandidateEvaluation
  refine Moves.foldl ?_ (fun x0 _ hx0 => ?_)
  · exact Moves.refl _ _
  · refine Moves.step ?_ (Moves.mono (by decide) (State.evalCandidate_moves _ _))
    exact hx0

theorem State.enrolPartner_moves (ident : Nat) (e : EnrolAs) (s : State) :
    Moves [.evc, .parts, .ledger] s (State.enrolPartner ident e s) := by
  unfold State.enrolPartner
  extract_lets +onlyGivenNames x0
  have hx0 : Moves [.evc, .parts, .ledger] s x0 := by
    refine Moves.ite (fun _ => ?_) (fun _ => ?_)
    · exact Moves.refl _ _
    · refine Moves.step ?_ (Moves.mono (by decide) (State.metIdentity_moves _ _ _ _))
      exact Moves.refl _ _
  clear_value x0
  split
  · refine Moves.step ?_ (Moves.mono (by decide) (State.changeRec_moves _ _ _ _))
    exact hx0
  · split
    · refine Moves.step ?_ (Moves.mono (by decide) (State.changeRec_moves _ _ _ _))
      exact hx0.trans <| Moves.mono (by decide) (State.placeEnrolled_moves (by assumption))
    · exact hx0

theorem State.openWindow_moves (s : State) :
    Moves [.evc, .parts] s (State.openWindow s) := by
  unfold State.openWindow
  refine Moves.step ?_ (Moves.mono (by decide) (State.raise_moves _ _ _))
  refine Moves.step ?_ (Moves.mono (by decide) (State.modParts_movesAll _ _ (fun _ => by exact Parts.keeps_of rfl)))
  exact Moves.refl _ _

theorem State.closeWindow_moves (s : State) :
    Moves [.evc, .parts] s (State.closeWindow s) := by
  unfold State.closeWindow
  refine Moves.step ?_ (Moves.mono (by decide) (State.raise_moves _ _ _))
  refine Moves.step ?_ (Moves.mono (by decide) (State.modParts_movesAll _ _ (fun _ => by exact Parts.keeps_of rfl)))
  exact Moves.refl _ _

theorem State.windowUse_moves (s : State) :
    Moves [.evc, .parts] s (State.windowUse s) := by
  unfold State.windowUse
  extract_lets +onlyGivenNames x0
  have hx0 : Moves [.evc, .parts] s x0 := by
    refine Moves.step ?_ (Moves.mono (by decide) (State.modParts_movesAll _ _ (fun _ => by exact Parts.keeps_of rfl)))
    exact Moves.refl _ _
  clear_value x0
  refine Moves.ite (fun _ => ?_) (fun _ => ?_)
  · refine Moves.step ?_ (Moves.mono (by decide) (State.closeWindow_moves _))
    exact hx0
  · exact hx0

theorem doEnrolmentWindowExpiry_moves (s : State) :
    Moves [.evc, .parts] s (doEnrolmentWindowExpiry s) := by
  unfold doEnrolmentWindowExpiry
  split
  · refine Moves.ite (fun _ => ?_) (fun _ => ?_)
    · refine Moves.step ?_ (Moves.mono (by decide) (State.closeWindow_moves _))
      exact Moves.refl _ _
    · exact Moves.refl _ _
  · exact Moves.refl _ _

theorem State.removeRec_moves (ident : Nat) (s : State) : Moves [.evc, .parts, .ledger] s (s.removeRec ident) := by
  unfold State.removeRec
  split
  · extract_lets +onlyGivenNames n
    clear_value n
    refine Moves.ite (fun _ => Moves.mono (by decide) (State.changeRec_moves _ _ _ _)) (fun _ => ?_)
    split
    · exact (Moves.mono (by decide) (State.replaceCandidate_moves (by assumption))).trans
        (Moves.mono (by decide) (State.changeRec_moves _ _ _ _))
    · exact Moves.mono (by decide) (State.changeRec_moves _ _ _ _)
  · exact Moves.refl _ _

theorem State.serviceSeen_moves (s : State) :
    Moves [.parts, .keys] s (State.serviceSeen s) := by
  unfold State.serviceSeen
  refine Moves.step ?_ (Moves.mono (by decide) (State.modKeys_movesAll _ _ (fun _ => by exact Keys.keeps_of rfl)))
  refine Moves.step ?_ (Moves.mono (by decide) (State.modParts_movesAll _ _ (fun _ => by exact Parts.keeps_of rfl)))
  exact Moves.refl _ _

end Sys2Proof.Machine
end

