-- ==== Sys2Proof/Laws/Wake.lean ====
section
/-!
SUPPORT. What the operations of Machine/Wake.lean leave unchanged, and what they keep.
-/
namespace Sys2Proof.Machine

theorem State.gateDomain_moves (d : Nat) (s : State) :
    Moves [.psc, .pad] s (State.gateDomain d s) := by
  unfold State.gateDomain
  refine Moves.step ?_ (Moves.mono (by decide) (State.modPad_moves _ _ (fun h => by split; exact Pad.freeze_shaped h (by assumption); exact h)))
  refine Moves.step ?_ (Moves.mono (by decide) (State.modPsc_movesAll _ _ (fun _ => by exact Psc.keeps_of rfl)))
  exact Moves.refl _ _

theorem State.restoreDomain_moves (d : Nat) (s : State) :
    Moves [.psc, .pad] s (State.restoreDomain d s) := by
  unfold State.restoreDomain
  refine Moves.step ?_ (Moves.mono (by decide) (State.modPad_moves _ _ (fun h => by split; exact h; exact Pad.thaw_shaped _ h)))
  refine Moves.step ?_ (Moves.mono (by decide) (State.modPsc_movesAll _ _ (fun _ => by exact Psc.keeps_of rfl)))
  exact Moves.refl _ _

theorem State.postRolledBack_moves (veto : Nat) (s : State) :
    Moves [.evc, .psc, .mbx, .fab] s (State.postRolledBack veto s) := by
  unfold State.postRolledBack
  split
  · refine Moves.step ?_ (Moves.mono (by decide) (State.modPsc_movesAll _ _ (fun _ => by exact Psc.keeps_of rfl)))
    refine Moves.step ?_ (Moves.mono (by decide) (State.postWith_moves _ _ _ _ _))
    exact Moves.refl _ _
  · exact Moves.refl _ _

theorem State.rollBack_moves (veto : Nat) (s : State) :
    Moves [.evc, .psc, .pad, .mbx, .fab, .rel, .ledger] s (State.rollBack veto s) := by
  unfold State.rollBack
  extract_lets +onlyGivenNames x0
  have hx0 : Moves [.evc, .psc, .pad, .mbx, .fab, .rel, .ledger] s x0 := by
    refine Moves.foldl ?_ (fun x1 _ hx1 => ?_)
    · exact Moves.refl _ _
    · refine Moves.step ?_ (Moves.mono (by decide) (State.restoreDomain_moves _ _))
      exact hx1
  clear_value x0
  extract_lets +onlyGivenNames x2
  have hx2 : Moves [.evc, .psc, .pad, .mbx, .fab, .rel, .ledger] s x2 := by
    refine Moves.ite (fun _ => ?_) (fun _ => ?_)
    · refine Moves.step ?_ (Moves.mono (by decide) (State.restartHalves_moves _))
      exact hx0
    · exact hx0
  clear_value x2
  extract_lets +onlyGivenNames x3
  have hx3 : Moves [.evc, .psc, .pad, .mbx, .fab, .rel, .ledger] s x3 := by
    refine Moves.step ?_ (Moves.mono (by decide) (State.modPsc_movesAll _ _ (fun _ => by exact Psc.keeps_of rfl)))
    exact hx2
  clear_value x3
  extract_lets +onlyGivenNames x4
  have hx4 : Moves [.evc, .psc, .pad, .mbx, .fab, .rel, .ledger] s x4 := by
    refine Moves.ite (fun _ => ?_) (fun _ => ?_)
    · refine Moves.step ?_ (Moves.mono (by decide) (State.modLedger_moves _ _ (by refine ⟨fun h => ?_, ?_⟩ <;> simp_all [Ledger.Shaped] <;> omega)))
      exact hx3
    · exact hx3
  clear_value x4
  refine Moves.step ?_ (Moves.mono (by decide) (State.postRolledBack_moves _ _))
  refine Moves.step ?_ (Moves.mono (by decide) (State.raise_moves _ _ _))
  exact hx4

theorem State.startWake_moves (code : Nat) (s : State) :
    Moves [.psc] s (State.startWake code s) := by
  unfold State.startWake
  try extract_lets +onlyGivenNames x0
  try clear_value x0
  split
  · refine Moves.step ?_ (Moves.mono (by decide) (State.modPsc_movesAll _ _ (fun _ => by exact Psc.keeps_of rfl)))
    exact Moves.refl _ _
  · refine Moves.ite (fun _ => ?_) (fun _ => ?_)
    · refine Moves.step ?_ (Moves.mono (by decide) (State.modPsc_movesAll _ _ (fun _ => by exact Psc.keeps_of rfl)))
      exact Moves.refl _ _
    · exact Moves.refl _ _

theorem State.wakeSource_moves (code : Nat) (s : State) :
    Moves [.evc, .psc, .pad, .mbx, .fab, .rel, .ledger] s (State.wakeSource code s) := by
  unfold State.wakeSource
  refine Moves.ite (fun _ => ?_) (fun _ => ?_)
  · exact Moves.refl _ _
  · split
    · refine Moves.ite (fun _ => ?_) (fun _ => ?_)
      · refine Moves.step ?_ (Moves.mono (by decide) (State.rollBack_moves _ _))
        exact Moves.refl _ _
      · exact Moves.refl _ _
    · refine Moves.ite (fun _ => ?_) (fun _ => ?_)
      · refine Moves.step ?_ (Moves.mono (by decide) (State.startWake_moves _ _))
        exact Moves.refl _ _
      · exact Moves.refl _ _

end Sys2Proof.Machine
end

