-- ==== Sys2Proof/Laws/Timebase.lean ====
section
/-!
SUPPORT. What the operations of Machine/Timebase.lean leave unchanged, and what they keep.
-/
namespace Sys2Proof.Machine

theorem State.tick_moves (s : State) :
    Moves [.tbu] s (State.tick s) := by
  unfold State.tick
  refine Moves.ite (fun _ => ?_) (fun _ => ?_)
  · refine Moves.step ?_ (Moves.mono (by decide) (State.modTbu_moves _ _ (Tbu.setCount_keeps _ _)))
    exact Moves.refl _ _
  · exact Moves.refl _ _

theorem State.ppsHold_moves (s : State) :
    Moves [.tbu] s (State.ppsHold s) := by
  unfold State.ppsHold
  refine Moves.ite (fun _ => ?_) (fun _ => ?_)
  · exact Moves.refl _ _
  · refine Moves.step ?_ (Moves.mono (by decide) (State.modTbu_movesAll _ _ (fun _ => by exact Tbu.keeps_of rfl rfl rfl rfl rfl rfl)))
    exact Moves.refl _ _

theorem State.measureRc_moves (s : State) :
    Moves [.tbu, .free] s (State.measureRc s) := by
  unfold State.measureRc
  refine Moves.step ?_ (Moves.mono (by decide) (State.drawn_moves _))
  refine Moves.step ?_ (Moves.mono (by decide) (State.modTbu_movesAll _ _ (fun _ => by exact Tbu.keeps_of rfl rfl rfl rfl rfl rfl)))
  exact Moves.refl _ _

theorem State.changeSource_moves (dst : TimeSource) (planned : Bool) (s : State) :
    Moves [.tbu, .evc, .free] s (State.changeSource dst planned s) := by
  unfold State.changeSource
  refine Moves.ite (fun _ => ?_) (fun _ => ?_)
  · exact Moves.refl _ _
  · try extract_lets +onlyGivenNames x0
    try clear_value x0
    try extract_lets +onlyGivenNames x1
    try clear_value x1
    extract_lets +onlyGivenNames x2
    have hx2 : Moves [.tbu, .evc, .free] s x2 := by
      refine Moves.step ?_ (Moves.mono (by decide) (State.charge_moves _ _))
      exact Moves.refl _ _
    clear_value x2
    extract_lets +onlyGivenNames x3
    have hx3 : Moves [.tbu, .evc, .free] s x3 := by
      refine Moves.step ?_ (Moves.mono (by decide) (State.modTbu_movesAll _ _ (fun _ => by exact Tbu.keeps_of rfl rfl rfl rfl rfl rfl)))
      refine Moves.ite (fun _ => ?_) (fun _ => ?_)
      · refine Moves.step ?_ (Moves.mono (by decide) (State.measureRc_moves _))
        exact hx2
      · exact hx2
    clear_value x3
    refine Moves.step ?_ (Moves.mono (by decide) (State.ppsHold_moves _))
    refine Moves.step ?_ (Moves.mono (by decide) (State.tbuEvt_moves _ _))
    refine Moves.step ?_ (Moves.mono (by decide) (State.charge_moves _ _))
    exact hx3

theorem State.catchUp_moves (edgeAge : Nat) (s : State) :
    Moves [.tbu] s (State.catchUp edgeAge s) := by
  unfold State.catchUp
  refine Moves.step ?_ (Moves.mono (by decide) (State.modTbu_moves _ _ (Tbu.setCount_keeps _ _)))
  exact Moves.refl _ _

theorem doReferenceFailed_moves (edgeAge : Nat) (s : State) :
    Moves [.tbu, .evc, .free] s (doReferenceFailed edgeAge s) := by
  unfold doReferenceFailed
  refine Moves.ite (fun _ => ?_) (fun _ => ?_)
  · exact Moves.refl _ _
  · extract_lets +onlyGivenNames x0
    have hx0 : Moves [.tbu, .evc, .free] s x0 := by
      refine Moves.step ?_ (Moves.mono (by decide) (State.tbuEvt_moves _ _))
      refine Moves.step ?_ (Moves.mono (by decide) (State.modTbu_movesAll _ _ (fun _ => by exact Tbu.keeps_of rfl rfl rfl rfl rfl rfl)))
      exact Moves.refl _ _
    clear_value x0
    refine Moves.ite (fun _ => ?_) (fun _ => ?_)
    · refine Moves.step ?_ (Moves.mono (by decide) (State.catchUp_moves _ _))
      refine Moves.step ?_ (Moves.mono (by decide) (State.changeSource_moves _ _ _))
      exact hx0
    · exact hx0

theorem doSlowCrystalFailed_moves (edgeAge : Nat) (s : State) :
    Moves [.tbu, .evc, .psc, .pad, .mbx, .fab, .rel, .ledger, .free] s (doSlowCrystalFailed edgeAge s) := by
  unfold doSlowCrystalFailed
  refine Moves.ite (fun _ => ?_) (fun _ => ?_)
  · exact Moves.refl _ _
  · extract_lets +onlyGivenNames x0
    have hx0 : Moves [.tbu, .evc, .psc, .pad, .mbx, .fab, .rel, .ledger, .free] s x0 := by
      refine Moves.step ?_ (Moves.mono (by decide) (State.tbuEvt_moves _ _))
      refine Moves.step ?_ (Moves.mono (by decide) (State.modTbu_movesAll _ _ (fun _ => by exact Tbu.keeps_of rfl rfl rfl rfl rfl rfl)))
      exact Moves.refl _ _
    clear_value x0
    extract_lets +onlyGivenNames x1
    have hx1 : Moves [.tbu, .evc, .psc, .pad, .mbx, .fab, .rel, .ledger, .free] s x1 := by
      refine Moves.ite (fun _ => ?_) (fun _ => ?_)
      · refine Moves.step ?_ (Moves.mono (by decide) (State.catchUp_moves _ _))
        refine Moves.step ?_ (Moves.mono (by decide) (State.changeSource_moves _ _ _))
        exact hx0
      · exact hx0
    clear_value x1
    refine Moves.step ?_ (Moves.mono (by decide) (State.wakeSource_moves _ _))
    exact hx1

theorem doTbuStart_moves (s : State) :
    Moves [.tbu] s (doTbuStart s) := by
  unfold doTbuStart
  refine Moves.ite (fun _ => ?_) (fun _ => ?_)
  · exact Moves.refl _ _
  · refine Moves.step ?_ (Moves.mono (by decide) (State.modTbu_moves _ _ (by simp +contextual [Tbu.Keeps, Tbu.Shaped] <;> intros <;> omega)))
    exact Moves.refl _ _

theorem doSourceQualified_moves (src : TimeSource) (s : State) :
    Moves [.tbu, .evc, .free] s (doSourceQualified src s) := by
  unfold doSourceQualified
  split
  · exact Moves.refl _ _
  · refine Moves.ite (fun _ => ?_) (fun _ => ?_)
    · extract_lets +onlyGivenNames x0
      have hx0 : Moves [.tbu, .evc, .free] s x0 := by
        refine Moves.step ?_ (Moves.mono (by decide) (State.modTbu_movesAll _ _ (fun _ => by exact Tbu.keeps_of rfl rfl rfl rfl rfl rfl)))
        exact Moves.refl _ _
      clear_value x0
      refine Moves.ite (fun _ => ?_) (fun _ => ?_)
      · refine Moves.step ?_ (Moves.mono (by decide) (State.changeSource_moves _ _ _))
        exact hx0
      · refine Moves.step ?_ (Moves.mono (by decide) (doTbuStart_moves _))
        exact hx0
    · exact Moves.refl _ _
  · extract_lets +onlyGivenNames x1
    have hx1 : Moves [.tbu, .evc, .free] s x1 := by
      refine Moves.step ?_ (Moves.mono (by decide) (State.modTbu_movesAll _ _ (fun _ => by exact Tbu.keeps_of rfl rfl rfl rfl rfl rfl)))
      exact Moves.refl _ _
    clear_value x1
    refine Moves.ite (fun _ => ?_) (fun _ => ?_)
    · refine Moves.step ?_ (Moves.mono (by decide) (doTbuStart_moves _))
      exact hx1
    · refine Moves.ite (fun _ => ?_) (fun _ => ?_)
      · refine Moves.step ?_ (Moves.mono (by decide) (State.changeSource_moves _ _ _))
        exact hx1
      · exact hx1

theorem doTrimWindowEnd_moves (d : Nat) (temp : Int) (s : State) :
    Moves [.tbu, .psc] s (doTrimWindowEnd d temp s) := by
  unfold doTrimWindowEnd
  refine Moves.ite (fun _ => ?_) (fun _ => ?_)
  · refine Moves.step ?_ (Moves.mono (by decide) (State.modPsc_movesAll _ _ (fun _ => by exact Psc.keeps_of rfl)))
    refine Moves.step ?_ (Moves.mono (by decide) (State.modTbu_movesAll _ _ (fun _ => by exact Tbu.keeps_of rfl rfl rfl rfl rfl rfl)))
    exact Moves.refl _ _
  · exact Moves.refl _ _

theorem doTemperatureSample_moves (temp : Int) (s : State) :
    Moves [.tbu, .power] s (doTemperatureSample temp s) := by
  unfold doTemperatureSample
  extract_lets +onlyGivenNames x0
  have hx0 : Moves [.tbu, .power] s x0 := by
    refine Moves.step ?_ (Moves.mono (by decide) (State.modPower_movesAll _ _ (fun _ => by exact Power.keeps_of rfl)))
    refine Moves.step ?_ (Moves.mono (by decide) (State.modTbu_movesAll _ _ (fun _ => by exact Tbu.keeps_of rfl rfl rfl rfl rfl rfl)))
    exact Moves.refl _ _
  clear_value x0
  refine Moves.ite (fun _ => ?_) (fun _ => ?_)
  · refine Moves.step ?_ (Moves.mono (by decide) (State.modTbu_movesAll _ _ (fun _ => by exact Tbu.keeps_of rfl rfl rfl rfl rfl rfl)))
    exact hx0
  · exact hx0

theorem doAccrualSecond_moves (s : State) :
    Moves [.tbu, .evc] s (doAccrualSecond s) := by
  unfold doAccrualSecond
  refine Moves.ite (fun _ => ?_) (fun _ => ?_)
  · refine Moves.step ?_ (Moves.mono (by decide) (State.modTbu_movesAll _ _ (fun _ => by exact Tbu.keeps_of rfl rfl rfl rfl rfl rfl)))
    refine Moves.step ?_ (Moves.mono (by decide) (State.charge_moves _ _))
    exact Moves.refl _ _
  · exact Moves.refl _ _

theorem doHourlyHistoryPoint_moves (s : State) :
    Moves [.tbu] s (doHourlyHistoryPoint s) := by
  unfold doHourlyHistoryPoint
  try extract_lets +onlyGivenNames x0
  try clear_value x0
  refine Moves.ite (fun _ => ?_) (fun _ => ?_)
  · refine Moves.step ?_ (Moves.mono (by decide) (State.modTbu_moves _ _ (by simp +contextual [Tbu.Keeps, Tbu.Shaped] <;> intros <;> omega)))
    exact Moves.refl _ _
  · exact Moves.refl _ _

theorem doCounterOutvoted_moves (lane value : Nat) (s : State) :
    Moves [.tbu, .evc, .ledger, .health, .free] s (doCounterOutvoted lane value s) := by
  unfold doCounterOutvoted
  refine Moves.ite (fun _ => ?_) (fun _ => ?_)
  · exact Moves.refl _ _
  · extract_lets +onlyGivenNames x0
    have hx0 : Moves [.tbu, .evc, .ledger, .health, .free] s x0 := by
      refine Moves.step ?_ (Moves.mono (by decide) (State.healthFree_moves _ _ _ _))
      refine Moves.step ?_ (Moves.mono (by decide) (State.tbuEvt_moves _ _))
      exact Moves.refl _ _
    clear_value x0
    split
    · try extract_lets +onlyGivenNames x1
      try clear_value x1
      refine Moves.step ?_ (Moves.mono (by decide) (State.charge_moves _ _))
      refine Moves.step ?_ (Moves.mono (by decide) (State.modTbu_moves _ _ (Tbu.setCount_keeps _ _)))
      exact hx0
    · try extract_lets +onlyGivenNames x2
      try clear_value x2
      extract_lets +onlyGivenNames x3
      have hx3 : Moves [.tbu, .evc, .ledger, .health, .free] s x3 := by
        refine Moves.step ?_ (Moves.mono (by decide) (State.modTbu_movesAll _ _ (fun _ => by exact Tbu.keeps_of rfl rfl rfl rfl rfl rfl)))
        exact hx0
      clear_value x3
      refine Moves.ite (fun _ => ?_) (fun _ => ?_)
      · refine Moves.step ?_ (Moves.mono (by decide) (State.healthFree_moves _ _ _ _))
        refine Moves.step ?_ (Moves.mono (by decide) (State.modTbu_movesAll _ _ (fun _ => by exact Tbu.keeps_of rfl rfl rfl rfl rfl rfl)))
        exact hx3
      · exact hx3

theorem doPpsEdge_moves (s : State) :
    Moves [.tbu] s (doPpsEdge s) := by
  unfold doPpsEdge
  refine Moves.ite (fun _ => ?_) (fun _ => ?_)
  · refine Moves.step ?_ (Moves.mono (by decide) (State.modTbu_movesAll _ _ (fun _ => by exact Tbu.keeps_of rfl rfl rfl rfl rfl rfl)))
    exact Moves.refl _ _
  · exact Moves.refl _ _

theorem doPpsPulseEnd_moves (s : State) :
    Moves [.tbu] s (doPpsPulseEnd s) := by
  unfold doPpsPulseEnd
  refine Moves.ite (fun _ => ?_) (fun _ => ?_)
  · refine Moves.step ?_ (Moves.mono (by decide) (State.modTbu_movesAll _ _ (fun _ => by exact Tbu.keeps_of rfl rfl rfl rfl rfl rfl)))
    exact Moves.refl _ _
  · exact Moves.refl _ _

theorem doSyncInterval_moves (s : State) :
    Moves [.tbu, .net] s (doSyncInterval s) := by
  unfold doSyncInterval
  refine Moves.ite (fun _ => ?_) (fun _ => ?_)
  · refine Moves.step ?_ (Moves.mono (by decide) (State.countSentAll_moves _ _))
    refine Moves.step ?_ (Moves.mono (by decide) (State.modTbu_moves _ _ (by simp +contextual [Tbu.Keeps, Tbu.Shaped] <;> intros <;> omega)))
    exact Moves.refl _ _
  · exact Moves.refl _ _

theorem doAnnounceInterval_moves (s : State) :
    Moves [.tbu, .net] s (doAnnounceInterval s) := by
  unfold doAnnounceInterval
  refine Moves.ite (fun _ => ?_) (fun _ => ?_)
  · refine Moves.step ?_ (Moves.mono (by decide) (State.countSentAll_moves _ _))
    refine Moves.step ?_ (Moves.mono (by decide) (State.modTbu_moves _ _ (by simp +contextual [Tbu.Keeps, Tbu.Shaped] <;> intros <;> omega)))
    exact Moves.refl _ _
  · exact Moves.refl _ _

theorem doGptpForeignFrame_moves (kind : Nat) (s : State) :
    Moves [.tbu, .evc] s (doGptpForeignFrame kind s) := by
  unfold doGptpForeignFrame
  refine Moves.ite (fun _ => ?_) (fun _ => ?_)
  · refine Moves.step ?_ (Moves.mono (by decide) (State.tbuEvt_moves _ _))
    refine Moves.step ?_ (Moves.mono (by decide) (State.modTbu_moves _ _ (by split <;> exact ⟨fun h => h, Nat.le_refl _⟩)))
    exact Moves.refl _ _
  · exact Moves.refl _ _

theorem State.modShadow_moves (s : State) (r : Requester) (f : Shadow → Shadow) (h : ∀ x : Shadow, x.Shaped → (f x).Shaped) :
    Moves [.tbu] s (State.modShadow s r f) := by
  refine State.modTbu_moves _ _ ⟨fun hx => ?_, Nat.le_refl _⟩
  obtain ⟨h1, h2, h3, h4, h5, h6⟩ := hx
  refine ⟨by simpa using h1, h2, h3, h4, h5, fun y hy => ?_⟩
  obtain ⟨i, hi⟩ := List.getElem?_of_mem hy
  simp only [List.getElem?_modify] at hi
  cases hx : s.tbu.shadows[i]? with
  | none => rw [hx] at hi; simp at hi
  | some z =>
    have hz := h6 z (List.mem_of_getElem? hx)
    rw [hx] at hi
    simp only [Option.map_eq_map, Option.map_some, Option.some.injEq] at hi
    rw [← hi]
    split
    · exact h z hz
    · exact hz

theorem readNsLo_moves (r : Requester) (s : State) :
    Moves [.tbu] s (readNsLo r s).2 := by
  show MovesSnd _ _ _
  unfold readNsLo
  show Moves _ _ _
  refine Moves.step ?_ (Moves.mono (by decide) (State.modShadow_moves _ _ _ (by intro x; simp +contextual [Shadow.Shaped])))
  exact Moves.refl _ _

theorem readUaccLo_moves (r : Requester) (s : State) :
    Moves [.tbu] s (readUaccLo r s).2 := by
  show MovesSnd _ _ _
  unfold readUaccLo
  show Moves _ _ _
  refine Moves.step ?_ (Moves.mono (by decide) (State.modShadow_moves _ _ _ (by intro x; simp +contextual [Shadow.Shaped])))
  exact Moves.refl _ _

theorem State.answered_moves (p : Word × State) :
    Moves [.mbx] p.2 (State.answered p) := by
  unfold State.answered
  refine Moves.step ?_ (Moves.mono (by decide) (State.modMbx_movesAll _ _ (fun _ => by exact Mbx.keeps_of rfl)))
  show MovesSnd _ _ _
  exact Moves.refl _ _

theorem readTbu_moves (r : Requester) (off : Nat) (s : State) :
    Moves [.tbu] s (readTbu r off s).2 := by
  show MovesSnd _ _ _
  unfold readTbu
  try extract_lets +onlyGivenNames x0
  try clear_value x0
  split
  · refine MovesSnd.step ?_ (Moves.mono (by decide) (readNsLo_moves _ _))
    exact Moves.refl _ _
  · show Moves _ _ _
    exact Moves.refl _ _
  · show Moves _ _ _
    exact Moves.refl _ _
  · show Moves _ _ _
    exact Moves.refl _ _
  · show Moves _ _ _
    exact Moves.refl _ _
  · show Moves _ _ _
    exact Moves.refl _ _
  · show Moves _ _ _
    exact Moves.refl _ _
  · show Moves _ _ _
    exact Moves.refl _ _
  · show Moves _ _ _
    exact Moves.refl _ _
  · show Moves _ _ _
    exact Moves.refl _ _
  · show Moves _ _ _
    exact Moves.refl _ _
  · refine MovesSnd.step ?_ (Moves.mono (by decide) (readUaccLo_moves _ _))
    exact Moves.refl _ _
  · show Moves _ _ _
    exact Moves.refl _ _
  · show Moves _ _ _
    exact Moves.refl _ _
  · show Moves _ _ _
    exact Moves.refl _ _
  · show Moves _ _ _
    exact Moves.refl _ _
  · show Moves _ _ _
    exact Moves.refl _ _

theorem writeTbu_moves (off : Nat) (w : Word) (s : State) :
    Moves [.tbu] s (writeTbu off w s) := by
  unfold writeTbu
  split
  · refine Moves.step ?_ (Moves.mono (by decide) (State.modTbu_movesAll _ _ (fun _ => by exact Tbu.keeps_of rfl rfl rfl rfl rfl rfl)))
    exact Moves.refl _ _
  · refine Moves.step ?_ (Moves.mono (by decide) (State.modTbu_movesAll _ _ (fun _ => by exact Tbu.keeps_of rfl rfl rfl rfl rfl rfl)))
    exact Moves.refl _ _
  · refine Moves.step ?_ (Moves.mono (by decide) (State.modTbu_movesAll _ _ (fun _ => by exact Tbu.keeps_of rfl rfl rfl rfl rfl rfl)))
    exact Moves.refl _ _
  · try extract_lets +onlyGivenNames x0
    try clear_value x0
    refine Moves.step ?_ (Moves.mono (by decide) (State.ppsHold_moves _))
    refine Moves.step ?_ (Moves.mono (by decide) (State.modTbu_movesAll _ _ (fun _ => by exact Tbu.keeps_of rfl rfl rfl rfl rfl rfl)))
    exact Moves.refl _ _
  · exact Moves.refl _ _

end Sys2Proof.Machine
end

