-- ==== Sys2Proof/Laws/Events.lean ====
section
/-!
SUPPORT. What the operations of Machine/Events.lean leave unchanged, and what they keep.
-/
namespace Sys2Proof.Machine

theorem doEventOccurrence_moves (group src : Nat) (s : State) :
    Moves [.evc] s (doEventOccurrence group src s) := by
  unfold doEventOccurrence
  refine Moves.ite (fun _ => ?_) (fun _ => ?_)
  · refine Moves.step ?_ (Moves.mono (by decide) (State.raise_moves _ _ _))
    exact Moves.refl _ _
  · exact Moves.refl _ _

theorem State.deliverTo_moves (g t : Nat) (b : Batch) (s : State) :
    Moves [.evc, .psc, .pad, .mbx, .fab, .rel, .ledger, .net] s (State.deliverTo g t b s) := by
  unfold State.deliverTo
  try extract_lets +onlyGivenNames x0
  try clear_value x0
  extract_lets +onlyGivenNames x1
  have hx1 : Moves [.evc, .psc, .pad, .mbx, .fab, .rel, .ledger, .net] s x1 := by
    refine Moves.step ?_ (Moves.mono (by decide) (State.modEvc_moves _ _ (by simp +contextual [Evc.Keeps, Evc.Shaped] <;> intros <;> omega)))
    exact Moves.refl _ _
  clear_value x1
  refine Moves.ite (fun _ => ?_) (fun _ => ?_)
  · refine Moves.step ?_ (Moves.mono (by decide) (State.wakeSource_moves _ _))
    refine Moves.step ?_ (Moves.mono (by decide) (State.modEvc_moves _ _ (by simp +contextual [Evc.Keeps, Evc.Shaped] <;> intros <;> omega)))
    exact hx1
  · extract_lets +onlyGivenNames x2
    have hx2 : Moves [.evc, .psc, .pad, .mbx, .fab, .rel, .ledger, .net] s x2 := by
      refine Moves.step ?_ (Moves.mono (by decide) (State.modEvc_moves _ _ (by simp +contextual [Evc.Keeps, Evc.Shaped] <;> intros <;> omega)))
      exact hx1
    clear_value x2
    refine Moves.ite (fun _ => ?_) (fun _ => ?_)
    · refine Moves.step ?_ (Moves.mono (by decide) (State.countSent_moves _ _ _))
      refine Moves.step ?_ (Moves.mono (by decide) (State.modEvc_movesAll _ _ (fun _ => by exact Evc.keeps_of rfl rfl rfl rfl)))
      exact hx2
    · exact hx2

theorem doDelivery_moves (s : State) :
    Moves [.evc, .psc, .pad, .mbx, .fab, .rel, .ledger, .net] s (doDelivery s) := by
  unfold doDelivery
  refine Moves.ite (fun _ => ?_) (fun _ => ?_)
  · exact Moves.refl _ _
  · split
    · split
      · refine Moves.step ?_ (Moves.mono (by decide) (State.deliverTo_moves _ _ _ _))
        exact Moves.refl _ _
      · exact Moves.refl _ _
    · exact Moves.refl _ _

theorem writeClaim_moves (j : Nat) (w : Word) (s : State) :
    Moves [.evc] s (writeClaim j w s) := by
  unfold writeClaim
  split
  · refine Moves.ite (fun _ => ?_) (fun _ => ?_)
    · refine Moves.step ?_ (Moves.mono (by decide) (State.modEvc_moves _ _ (by simp +contextual [Evc.Keeps, Evc.Shaped] <;> intros <;> omega)))
      exact Moves.refl _ _
    · refine Moves.step ?_ (Moves.mono (by decide) (State.modEvc_moves _ _ (by simp +contextual [Evc.Keeps, Evc.Shaped] <;> intros <;> omega)))
      exact Moves.refl _ _
  · refine Moves.step ?_ (Moves.mono (by decide) (State.modEvc_moves _ _ (by simp +contextual [Evc.Keeps, Evc.Shaped] <;> intros <;> omega)))
    exact Moves.refl _ _

theorem readDlv_moves (r : Requester) (j : Nat) (s : State) :
    Moves [.tbu] s (readDlv r j s).2 := by
  show MovesSnd _ _ _
  unfold readDlv
  show Moves _ _ _
  refine Moves.step ?_ (Moves.mono (by decide) (State.modShadow_moves _ _ _ (by intro x; simp +contextual [Shadow.Shaped])))
  exact Moves.refl _ _

theorem State.retractBatch_moves (g t : Nat) (b : Batch) (s : State) :
    Moves [.evc] s (State.retractBatch g t b s) := by
  unfold State.retractBatch
  extract_lets +onlyGivenNames x0
  have hx0 : Moves [.evc] s x0 := by
    refine Moves.step ?_ (Moves.mono (by decide) (State.closeBatch_moves _ _))
    exact Moves.refl _ _
  clear_value x0
  try extract_lets +onlyGivenNames x1
  try clear_value x1
  refine Moves.step ?_ (Moves.mono (by decide) (State.fallDue_moves _ _ _))
  refine Moves.step ?_ (Moves.mono (by decide) (State.modEvc_moves _ _ (by simp +contextual [Evc.Keeps, Evc.Shaped] <;> intros <;> omega)))
  exact hx0

theorem State.retractHost_moves (j : Nat) (s : State) :
    Moves [.evc] s (State.retractHost j s) := by
  unfold State.retractHost
  split
  · refine Moves.step ?_ (Moves.mono (by decide) (State.retractBatch_moves _ _ _ _))
    refine Moves.step ?_ (Moves.mono (by decide) (State.modEvc_moves _ _ (by simp +contextual [Evc.Keeps, Evc.Shaped] <;> intros <;> omega)))
    exact Moves.refl _ _
  · exact Moves.refl _ _

theorem State.retractCore_moves (p : Nat) (s : State) :
    Moves [.evc] s (State.retractCore p s) := by
  unfold State.retractCore
  try extract_lets +onlyGivenNames x0
  try clear_value x0
  refine Moves.foldl ?_ (fun x1 _ hx1 => ?_)
  · refine Moves.step ?_ (Moves.mono (by decide) (State.modEvc_moves _ _ (by simp +contextual [Evc.Keeps, Evc.Shaped] <;> intros <;> omega)))
    exact Moves.refl _ _
  · refine Moves.step ?_ (Moves.mono (by decide) (State.retractBatch_moves _ _ _ _))
    exact hx1

theorem doRetraction_moves (target : Nat) (s : State) :
    Moves [.evc] s (doRetraction target s) := by
  unfold doRetraction
  split
  · refine Moves.ite (fun _ => ?_) (fun _ => ?_)
    · refine Moves.step ?_ (Moves.mono (by decide) (State.retractHost_moves _ _))
      exact Moves.refl _ _
    · exact Moves.refl _ _
  · exact Moves.refl _ _

theorem doWakeOutPulse_moves (group : Nat) (s : State) :
    Moves [.evc] s (doWakeOutPulse group s) := by
  unfold doWakeOutPulse
  try extract_lets +onlyGivenNames x0
  try clear_value x0
  try extract_lets +onlyGivenNames x1
  try clear_value x1
  refine Moves.ite (fun _ => ?_) (fun _ => ?_)
  · refine Moves.step ?_ (Moves.mono (by decide) (State.modEvc_moves _ _ (by simp +contextual [Evc.Keeps, Evc.Shaped] <;> intros <;> omega)))
    exact Moves.refl _ _
  · exact Moves.refl _ _

theorem doWakeOutPulseEnd_moves (s : State) :
    Moves [.evc] s (doWakeOutPulseEnd s) := by
  unfold doWakeOutPulseEnd
  split
  · refine Moves.ite (fun _ => ?_) (fun _ => ?_)
    · refine Moves.step ?_ (Moves.mono (by decide) (State.modEvc_movesAll _ _ (fun _ => by exact Evc.keeps_of rfl rfl rfl rfl)))
      exact Moves.refl _ _
    · exact Moves.refl _ _
  · exact Moves.refl _ _

theorem writeSwset_moves (w : Word) (s : State) :
    Moves [.evc] s (writeSwset w s) := by
  unfold writeSwset
  refine Moves.foldl ?_ (fun x0 _ hx0 => ?_)
  · exact Moves.refl _ _
  · refine Moves.ite (fun _ => ?_) (fun _ => ?_)
    · refine Moves.step ?_ (Moves.mono (by decide) (State.raise_moves _ _ _))
      exact hx0
    · exact hx0

theorem State.deliverGroup_moves (asleep : BitVec 6) (g : Nat) (s : State) :
    Moves [.evc, .psc, .pad, .mbx, .fab, .rel, .ledger, .net] s (State.deliverGroup asleep g s) := by
  unfold State.deliverGroup
  refine Moves.foldl ?_ (fun x0 _ hx0 => ?_)
  · exact Moves.refl _ _
  · split
    · refine Moves.step ?_ (Moves.mono (by decide) (State.deliverTo_moves _ _ _ _))
      exact hx0
    · exact hx0

theorem writeHostSleep_moves (w : Word) (s : State) :
    Moves [.evc, .psc, .pad, .mbx, .fab, .rel, .ledger, .net] s (writeHostSleep w s) := by
  unfold writeHostSleep
  try extract_lets +onlyGivenNames x0
  try clear_value x0
  try extract_lets +onlyGivenNames x1
  try clear_value x1
  refine Moves.ite (fun _ => ?_) (fun _ => ?_)
  · refine Moves.step ?_ (Moves.mono (by decide) (State.modPsc_movesAll _ _ (fun _ => by exact Psc.keeps_of rfl)))
    exact Moves.refl _ _
  · try extract_lets +onlyGivenNames x2
    try clear_value x2
    try extract_lets +onlyGivenNames x3
    try clear_value x3
    try extract_lets +onlyGivenNames x4
    try clear_value x4
    extract_lets +onlyGivenNames x5
    have hx5 : Moves [.evc, .psc, .pad, .mbx, .fab, .rel, .ledger, .net] s x5 := by
      refine Moves.foldl ?_ (fun x6 _ hx6 => ?_)
      · exact Moves.refl _ _
      · split
        · refine Moves.step ?_ (Moves.mono (by decide) (State.fallDueWith_moves _ _ _ _))
          refine Moves.step ?_ (Moves.mono (by decide) (State.modEvc_moves _ _ (by simp +contextual [Evc.Keeps, Evc.Shaped] <;> intros <;> omega)))
          exact hx6
        · exact hx6
    clear_value x5
    extract_lets +onlyGivenNames x7
    have hx7 : Moves [.evc, .psc, .pad, .mbx, .fab, .rel, .ledger, .net] s x7 := by
      refine Moves.foldl ?_ (fun x8 _ hx8 => ?_)
      · exact hx5
      · refine Moves.step ?_ (Moves.mono (by decide) (State.deliverGroup_moves _ _ _))
        exact hx8
    clear_value x7
    refine Moves.step ?_ (Moves.mono (by decide) (State.modPsc_movesAll _ _ (fun _ => by exact Psc.keeps_of rfl)))
    refine Moves.step ?_ (Moves.mono (by decide) (State.modEvc_movesAll _ _ (fun _ => by exact Evc.keeps_of rfl rfl rfl rfl)))
    exact hx7

theorem State.releaseHeld_moves (s : State) :
    Moves [.evc] s (State.releaseHeld s) := by
  unfold State.releaseHeld
  refine Moves.foldl ?_ (fun x0 _ hx0 => ?_)
  · refine Moves.step ?_ (Moves.mono (by decide) (State.modEvc_movesAll _ _ (fun _ => by exact Evc.keeps_of rfl rfl rfl rfl)))
    exact Moves.refl _ _
  · refine Moves.step ?_ (Moves.mono (by decide) (State.collect_moves _ _ _))
    exact hx0

theorem readEvc_moves (r : Requester) (off : Nat) (s : State) :
    Moves [.tbu] s (readEvc r off s).2 := by
  show MovesSnd _ _ _
  unfold readEvc
  try extract_lets +onlyGivenNames x0
  try clear_value x0
  refine MovesSnd.ite (fun _ => ?_) (fun _ => ?_)
  · try extract_lets +onlyGivenNames x1
    try clear_value x1
    try extract_lets +onlyGivenNames x2
    try clear_value x2
    split
    · show Moves _ _ _
      exact Moves.refl _ _
    · show Moves _ _ _
      exact Moves.refl _ _
    · show Moves _ _ _
      exact Moves.refl _ _
    · show Moves _ _ _
      exact Moves.refl _ _
    · show Moves _ _ _
      exact Moves.refl _ _
  · refine MovesSnd.ite (fun _ => ?_) (fun _ => ?_)
    · try extract_lets +onlyGivenNames x3
      try clear_value x3
      try extract_lets +onlyGivenNames x4
      try clear_value x4
      split
      · refine MovesSnd.step ?_ (Moves.mono (by decide) (readDlv_moves _ _ _))
        exact Moves.refl _ _
      · show Moves _ _ _
        exact Moves.refl _ _
      · show Moves _ _ _
        exact Moves.refl _ _
      · show Moves _ _ _
        exact Moves.refl _ _
    · split
      · show Moves _ _ _
        exact Moves.refl _ _
      · show Moves _ _ _
        exact Moves.refl _ _
      · show Moves _ _ _
        exact Moves.refl _ _
      · show Moves _ _ _
        exact Moves.refl _ _
      · show Moves _ _ _
        exact Moves.refl _ _
      · show Moves _ _ _
        exact Moves.refl _ _

theorem writeEvc_moves (off : Nat) (w : Word) (s : State) :
    Moves [.evc] s (writeEvc off w s) := by
  unfold writeEvc
  refine Moves.ite (fun _ => ?_) (fun _ => ?_)
  · try extract_lets +onlyGivenNames x0
    try clear_value x0
    split
    · refine Moves.step ?_ (Moves.mono (by decide) (State.modEvc_moves _ _ (by simp +contextual [Evc.Keeps, Evc.Shaped] <;> intros <;> omega)))
      exact Moves.refl _ _
    · refine Moves.step ?_ (Moves.mono (by decide) (State.modEvc_moves _ _ (by simp +contextual [Evc.Keeps, Evc.Shaped] <;> intros <;> omega)))
      exact Moves.refl _ _
    · refine Moves.step ?_ (Moves.mono (by decide) (State.dueCheck_moves _ _ _))
      refine Moves.step ?_ (Moves.mono (by decide) (State.modEvc_moves _ _ (by simp +contextual [Evc.Keeps, Evc.Shaped] <;> intros <;> omega)))
      refine Moves.step ?_ (Moves.mono (by decide) (State.closeBatch_moves _ _))
      exact Moves.refl _ _
    · exact Moves.refl _ _
  · refine Moves.ite (fun _ => ?_) (fun _ => ?_)
    · try extract_lets +onlyGivenNames x1
      try clear_value x1
      split
      · refine Moves.step ?_ (Moves.mono (by decide) (writeClaim_moves _ _ _))
        exact Moves.refl _ _
      · refine Moves.step ?_ (Moves.mono (by decide) (State.modEvc_moves _ _ (by simp +contextual [Evc.Keeps, Evc.Shaped] <;> intros <;> omega)))
        exact Moves.refl _ _
      · exact Moves.refl _ _
    · split
      · refine Moves.step ?_ (Moves.mono (by decide) (State.modEvc_movesAll _ _ (fun _ => by exact Evc.keeps_of rfl rfl rfl rfl)))
        exact Moves.refl _ _
      · refine Moves.step ?_ (Moves.mono (by decide) (writeSwset_moves _ _))
        exact Moves.refl _ _
      · refine Moves.step ?_ (Moves.mono (by decide) (State.modEvc_movesAll _ _ (fun _ => by exact Evc.keeps_of rfl rfl rfl rfl)))
        exact Moves.refl _ _
      · exact Moves.refl _ _

end Sys2Proof.Machine
end

