-- ==== Sys2Proof/Laws/Fabric.lean ====
section
/-!
SUPPORT. What the operations of Machine/Fabric.lean leave unchanged, and what they keep.
-/
namespace Sys2Proof.Machine

theorem State.physWrite_moves (a : Nat) (bs : List Byte) (s : State) :
    Moves [.fab, .mem] s (State.physWrite a bs s) := by
  unfold State.physWrite
  refine Moves.step ?_ (Moves.mono (by decide) (State.modFab_movesAll _ _ (fun _ => by exact Fabric.keeps_of rfl rfl rfl rfl)))
  refine Moves.step ?_ (Moves.mono (by decide) (State.modMem_moves _ _ (fun h => by first | exact Memory.wf_writeBytes h _ _ | exact Memory.wf_writeWord (Memory.wf_writeWord h _ _) _ _ | exact Memory.wf_filter _ h)))
  exact Moves.refl _ _

theorem State.holdPages_moves (ch : Nat) (ps : List Nat) (s : State) :
    Moves [.fab] s (State.holdPages ch ps s) := by
  unfold State.holdPages
  refine Moves.step ?_ (Moves.mono (by decide) (State.modFab_movesAll _ _ (fun _ => by exact Fabric.keeps_of rfl rfl rfl rfl)))
  exact Moves.refl _ _

theorem State.moveHeld_moves (a b : Nat) (s : State) :
    Moves [.fab] s (State.moveHeld a b s) := by
  unfold State.moveHeld
  refine Moves.step ?_ (Moves.mono (by decide) (State.modFab_movesAll _ _ (fun _ => by exact Fabric.keeps_of rfl rfl rfl rfl)))
  exact Moves.refl _ _

theorem State.dropHeld_moves (ps : List Nat) (s : State) :
    Moves [.fab] s (State.dropHeld ps s) := by
  unfold State.dropHeld
  refine Moves.step ?_ (Moves.mono (by decide) (State.modFab_movesAll _ _ (fun _ => by exact Fabric.keeps_of rfl rfl rfl rfl)))
  exact Moves.refl _ _

theorem State.cachePage_moves (req vpage : Nat) (s : State) :
    Moves [.fab] s (State.cachePage req vpage s) := by
  unfold State.cachePage
  refine Moves.ite (fun _ => ?_) (fun _ => ?_)
  · exact Moves.refl _ _
  · split
    · exact Moves.refl _ _
    · try extract_lets +onlyGivenNames x0
      try clear_value x0
      try extract_lets +onlyGivenNames x1
      try clear_value x1
      refine Moves.step ?_ (Moves.mono (by decide) (State.modFab_movesAll _ _ (fun _ => by exact Fabric.keeps_of rfl rfl rfl rfl)))
      exact Moves.refl _ _

theorem State.scatter_moves (ps : List (Nat × Nat)) (bs : List Byte) (s : State) :
    Moves [.fab, .mem] s (State.scatter ps bs s) := by
  unfold State.scatter
  show MovesFst _ _ _
  refine MovesFst.foldl ?_ (fun x0 _ hx0 => ?_)
  · show Moves _ _ _
    exact Moves.refl _ _
  · show Moves _ _ _
    refine Moves.step ?_ (Moves.mono (by decide) (State.physWrite_moves _ _ _))
    show MovesFst _ _ _
    exact hx0

theorem State.scrub_moves (ps : List (Nat × Nat)) (s : State) :
    Moves [.fab, .mem] s (State.scrub ps s) := by
  unfold State.scrub
  refine Moves.foldl ?_ (fun x0 _ hx0 => ?_)
  · exact Moves.refl _ _
  · refine Moves.step ?_ (Moves.mono (by decide) (State.physWrite_moves _ _ _))
    exact hx0

theorem doTranslationInvalidation_moves (req : Nat) (page : Option Nat) (s : State) :
    Moves [.fab] s (doTranslationInvalidation req page s) := by
  unfold doTranslationInvalidation
  refine Moves.step ?_ (Moves.mono (by decide) (State.modFab_movesAll _ _ (fun _ => by exact Fabric.keeps_of rfl rfl rfl rfl)))
  exact Moves.refl _ _

theorem State.winWrite_moves (n off : Nat) (bs : List Byte) (s : State) :
    Moves [.fab, .mem] s (State.winWrite n off bs s) := by
  unfold State.winWrite
  refine Moves.step ?_ (Moves.mono (by decide) (State.physWrite_moves _ _ _))
  exact Moves.refl _ _

theorem State.winTake_moves (n : Nat) (s : State) :
    Moves [.fab] s (State.winTake n s) := by
  unfold State.winTake
  refine Moves.step ?_ (Moves.mono (by decide) (State.modFab_moves _ _ (by simp +contextual [Fabric.Keeps, Fabric.Shaped] <;> intros <;> omega)))
  exact Moves.refl _ _

theorem writeWinCfg_moves (n : Nat) (w : Word) (s : State) :
    Moves [.fab] s (writeWinCfg n w s) := by
  unfold writeWinCfg
  refine Moves.ite (fun _ => ?_) (fun _ => ?_)
  · refine Moves.step ?_ (Moves.mono (by decide) (State.modFab_moves _ _ (by simp +contextual [Fabric.Keeps, Fabric.Shaped] <;> intros <;> omega)))
    exact Moves.refl _ _
  · refine Moves.step ?_ (Moves.mono (by decide) (State.modFab_moves _ _ (by simp +contextual [Fabric.Keeps, Fabric.Shaped] <;> intros <;> omega)))
    exact Moves.refl _ _

theorem State.apertureFault_moves (kind off : Nat) (s : State) :
    Moves [.fab] s (State.apertureFault kind off s) := by
  unfold State.apertureFault
  refine Moves.step ?_ (Moves.mono (by decide) (State.modFab_movesAll _ _ (fun _ => by exact Fabric.keeps_of rfl rfl rfl rfl)))
  exact Moves.refl _ _

theorem State.heldFlag_moves (write : Bool) (page : Nat) (s : State) :
    Moves [.fab] s (State.heldFlag write page s) := by
  unfold State.heldFlag
  refine Moves.step ?_ (Moves.mono (by decide) (State.modFab_moves _ _ (by simp +contextual [Fabric.Keeps, Fabric.Shaped] <;> intros <;> omega)))
  exact Moves.refl _ _

theorem readAperture_moves (off : Nat) (s : State) :
    Moves [.fab] s (readAperture off s).2 := by
  show MovesSnd _ _ _
  unfold readAperture
  try extract_lets +onlyGivenNames x0
  try clear_value x0
  refine MovesSnd.ite (fun _ => ?_) (fun _ => ?_)
  · show Moves _ _ _
    refine Moves.step ?_ (Moves.mono (by decide) (State.heldFlag_moves _ _ _))
    exact Moves.refl _ _
  · split
    · show Moves _ _ _
      refine Moves.step ?_ (Moves.mono (by decide) (State.apertureFault_moves _ _ _))
      exact Moves.refl _ _
    · refine MovesSnd.ite (fun _ => ?_) (fun _ => ?_)
      · show Moves _ _ _
        refine Moves.step ?_ (Moves.mono (by decide) (State.apertureFault_moves _ _ _))
        exact Moves.refl _ _
      · refine MovesSnd.ite (fun _ => ?_) (fun _ => ?_)
        · show Moves _ _ _
          exact Moves.refl _ _
        · show Moves _ _ _
          exact Moves.refl _ _

theorem writeAperture_moves (off : Nat) (w : Word) (s : State) :
    Moves [.fab, .mem] s (writeAperture off w s) := by
  unfold writeAperture
  try extract_lets +onlyGivenNames x0
  try clear_value x0
  refine Moves.ite (fun _ => ?_) (fun _ => ?_)
  · refine Moves.step ?_ (Moves.mono (by decide) (State.heldFlag_moves _ _ _))
    exact Moves.refl _ _
  · split
    · refine Moves.step ?_ (Moves.mono (by decide) (State.apertureFault_moves _ _ _))
      exact Moves.refl _ _
    · refine Moves.ite (fun _ => ?_) (fun _ => ?_)
      · refine Moves.step ?_ (Moves.mono (by decide) (State.apertureFault_moves _ _ _))
        exact Moves.refl _ _
      · refine Moves.step ?_ (Moves.mono (by decide) (State.physWrite_moves _ _ _))
        exact Moves.refl _ _

theorem doApertureAccess_moves (off : Nat) (w : Option Word) (s : State) :
    Moves [.mbx, .fab, .mem] s (doApertureAccess off w s) := by
  unfold doApertureAccess
  split
  · refine Moves.step ?_ (Moves.mono (by decide) (writeAperture_moves _ _ _))
    exact Moves.refl _ _
  · refine Moves.step ?_ (Moves.mono (by decide) (State.answered_moves _))
    show MovesSnd _ _ _
    refine MovesSnd.step ?_ (Moves.mono (by decide) (readAperture_moves _ _))
    exact Moves.refl _ _

theorem writeHbw_moves (off : Nat) (w : Word) (s : State) :
    Moves [.fab] s (writeHbw off w s) := by
  unfold writeHbw
  refine Moves.ite (fun _ => ?_) (fun _ => ?_)
  · try extract_lets +onlyGivenNames x0
    try clear_value x0
    split
    · refine Moves.step ?_ (Moves.mono (by decide) (writeWinCfg_moves _ _ _))
      exact Moves.refl _ _
    · refine Moves.step ?_ (Moves.mono (by decide) (State.modFab_moves _ _ (by simp +contextual [Fabric.Keeps, Fabric.Shaped] <;> intros <;> omega)))
      exact Moves.refl _ _
    · exact Moves.refl _ _
  · refine Moves.ite (fun _ => ?_) (fun _ => ?_)
    · refine Moves.step ?_ (Moves.mono (by decide) (State.modFab_movesAll _ _ (fun _ => by exact Fabric.keeps_of rfl rfl rfl rfl)))
      exact Moves.refl _ _
    · exact Moves.refl _ _

theorem State.grant_moves (rs : List Nat) (s : State) :
    Moves [.fab] s (State.grant rs s) := by
  unfold State.grant
  try extract_lets +onlyGivenNames x0
  try clear_value x0
  split
  · refine Moves.step ?_ (Moves.mono (by decide) (State.modFab_movesAll _ _ (fun _ => by exact Fabric.keeps_of rfl rfl rfl rfl)))
    exact Moves.refl _ _
  · try extract_lets +onlyGivenNames x1
    try clear_value x1
    refine Moves.step ?_ (Moves.mono (by decide) (State.modFab_movesAll _ _ (fun _ => by exact Fabric.keeps_of rfl rfl rfl rfl)))
    exact Moves.refl _ _

theorem doArbitrationRound_moves (requests : BitVec 20) (s : State) :
    Moves [.fab] s (doArbitrationRound requests s) := by
  unfold doArbitrationRound
  extract_lets +onlyGivenNames x0
  have hx0 : Moves [.fab] s x0 := by
    refine Moves.step ?_ (Moves.mono (by decide) (State.modFab_moves _ _ (by simp +contextual [Fabric.Keeps, Fabric.Shaped] <;> intros <;> omega)))
    exact Moves.refl _ _
  clear_value x0
  refine Moves.step ?_ (Moves.mono (by decide) (State.modFab_movesAll _ _ (fun _ => by exact Fabric.keeps_of rfl rfl rfl rfl)))
  refine Moves.step ?_ (Moves.mono (by decide) (State.grant_moves _ _))
  exact hx0

theorem doDeadlineFlag_moves (writer full : Bool) (s : State) :
    Moves [.fab] s (doDeadlineFlag writer full s) := by
  unfold doDeadlineFlag
  try extract_lets +onlyGivenNames x0
  try clear_value x0
  extract_lets +onlyGivenNames x1
  have hx1 : Moves [.fab] s x1 := by
    refine Moves.step ?_ (Moves.mono (by decide) (State.modFab_moves _ _ (by simp +contextual [Fabric.Keeps, Fabric.Shaped, apply_ite List.length])))
    exact Moves.refl _ _
  clear_value x1
  refine Moves.step ?_ (Moves.mono (by decide) (State.modFab_movesAll _ _ (fun _ => by exact Fabric.keeps_of rfl rfl rfl rfl)))
  refine Moves.ite (fun _ => ?_) (fun _ => ?_)
  · refine Moves.step ?_ (Moves.mono (by decide) (State.grant_moves _ _))
    exact hx1
  · exact hx1

end Sys2Proof.Machine
end

