-- ==== Sys2Proof/Laws/Command.lean ====
section
/-!
SUPPORT. What the operations of Machine/Command.lean leave unchanged, and what they keep.
-/
namespace Sys2Proof.Machine

theorem State.cmdView_moves (s : State) (mb : Nat) :
    Moves [.cfg] s (State.cmdView s mb) := by
  unfold State.cmdView
  split
  · refine Moves.step ?_ (Moves.mono (by decide) (State.modCfg_moves _ _))
    exact Moves.refl _ _
  · exact Moves.refl _ _

theorem State.cmdView_cmdBack_moves {ps : List Part} {s : State} {mb : Nat} {t : State} (h : Moves ps (s.cmdView mb) t) :
    Moves ps s (s.cmdBack mb t) := by
  unfold State.cmdView at h
  unfold State.cmdBack
  cases hc : s.cmdLayers mb with
  | none => rw [hc] at h; exact h
  | some c =>
    rw [hc] at h
    refine ⟨fun p hp => ?_, (State.modCfg_moves s _).2.trans (h.2.trans (State.modCfg_moves t _).2)⟩
    have := h.1 p hp
    cases p <;> first | exact this | rfl

/-- A started command leaves unchanged what its effect leaves unchanged, besides what posting a result changes. -/
theorem State.perform_moves {ps : List Part} {mb op : Nat} {check : State → Mailbox → Option Nat}
    {act : Mailbox → State → State} {s : State} (hp : ([.evc, .mbx, .fab].all fun p => ps.contains p) = true)
    (h : ∀ b t, Moves ps t (act b t)) : Moves ps s (s.perform mb op check act) := by
  unfold State.perform
  refine Moves.ite (fun _ => Moves.refl _ _) (fun _ => ?_)
  refine Moves.ite (fun _ => Moves.mono hp (State.post_moves _ _ _ _)) (fun _ => ?_)
  split
  · exact Moves.mono hp (State.post_moves _ _ _ _)
  · exact State.cmdView_cmdBack_moves (h _ _)

theorem State.conclude_moves (n status : Nat) (body : List Byte) (s : State) :
    Moves [.evc, .mbx, .fab] s (State.conclude n status body s) := by
  unfold State.conclude
  refine Moves.ite (fun _ => ?_) (fun _ => ?_)
  · refine Moves.ite (fun _ => ?_) (fun _ => ?_)
    · refine Moves.step ?_ (Moves.mono (by decide) (State.post_moves _ _ _ _))
      exact Moves.refl _ _
    · refine Moves.step ?_ (Moves.mono (by decide) (State.post_moves _ _ _ _))
      exact Moves.refl _ _
  · exact Moves.refl _ _

theorem State.dropShadow_moves (k : Nat) (s : State) :
    Moves [.keys] s (State.dropShadow k s) := by
  unfold State.dropShadow
  refine Moves.ite (fun _ => ?_) (fun _ => ?_)
  · exact Moves.refl _ _
  · refine Moves.step ?_ (Moves.mono (by decide) (State.modSlot_moves _ _ _))
    exact Moves.refl _ _

theorem State.dropShadows_moves (ks : List Nat) (s : State) :
    Moves [.keys] s (State.dropShadows ks s) := by
  unfold State.dropShadows
  refine Moves.foldl ?_ (fun x0 _ hx0 => ?_)
  · exact Moves.refl _ _
  · refine Moves.step ?_ (Moves.mono (by decide) (State.dropShadow_moves _ _))
    exact hx0

theorem State.toWindow_moves (b : Mailbox) (off : Nat) (bs : List Byte) (s : State) :
    Moves [.fab, .mem] s (State.toWindow b off bs s) := by
  unfold State.toWindow
  refine Moves.ite (fun _ => ?_) (fun _ => ?_)
  · refine Moves.step ?_ (Moves.mono (by decide) (State.winWrite_moves _ _ _ _))
    exact Moves.refl _ _
  · exact Moves.refl _ _

end Sys2Proof.Machine
end

