-- ==== Sys2Proof/Laws/Lf.lean ====
section
/-!
SUPPORT. What the operations of Machine/Lf.lean leave unchanged, and what they keep.
-/
namespace Sys2Proof.Machine

theorem State.modLfChan_moves (s : State) (c : Nat) (f : LfChan → LfChan) :
    Moves [.lf] s (State.modLfChan s c f) := by
  unfold State.modLfChan
  refine Moves.step ?_ (Moves.mono (by decide) (State.modLf_moves _ _ (by simp +contextual [Lf.Keeps, Lf.Shaped] <;> intros <;> omega)))
  exact Moves.refl _ _

theorem State.settleVlf_moves (s : State) :
    Moves [.lf] s (State.settleVlf s) := by
  unfold State.settleVlf
  split
  · refine Moves.ite (fun _ => ?_) (fun _ => ?_)
    · exact Moves.refl _ _
    · refine Moves.step ?_ (Moves.mono (by decide) (State.modLf_movesAll _ _ (fun _ => by exact Lf.keeps_of rfl)))
      exact Moves.refl _ _
  · exact Moves.refl _ _

theorem State.setCond_moves (c : Nat) (new : BitVec 16) (s : State) :
    Moves [.evc, .lf, .ledger] s (State.setCond c new s) := by
  unfold State.setCond
  try extract_lets +onlyGivenNames x0
  try clear_value x0
  extract_lets +onlyGivenNames x1
  have hx1 : Moves [.evc, .lf, .ledger] s x1 := by
    refine Moves.step ?_ (Moves.mono (by decide) (State.modLfChan_moves _ _ _))
    exact Moves.refl _ _
  clear_value x1
  refine Moves.ite (fun _ => ?_) (fun _ => ?_)
  · exact hx1
  · refine Moves.step ?_ (Moves.mono (by decide) (State.raise_moves _ _ _))
    refine Moves.step ?_ (Moves.mono (by decide) (State.ledgerAdd_moves _ _ _ _))
    exact hx1

theorem State.checkView_moves (s : State) :
    Moves [.cfg] s (State.checkView s) := by
  unfold State.checkView
  split
  · refine Moves.step ?_ (Moves.mono (by decide) (State.modCfg_moves _ _))
    exact Moves.refl _ _
  · exact Moves.refl _ _

theorem State.derateEvent_moves (s : State) :
    Moves [.evc, .lf, .ledger, .health] s (State.derateEvent s) := by
  unfold State.derateEvent
  extract_lets +onlyGivenNames x0
  have hx0 : Moves [.evc, .lf, .ledger, .health] s x0 := by
    refine Moves.step ?_ (Moves.mono (by decide) (State.raise_moves _ _ _))
    refine Moves.step ?_ (Moves.mono (by decide) (State.modLf_movesAll _ _ (fun _ => by exact Lf.keeps_of rfl)))
    exact Moves.refl _ _
  clear_value x0
  refine Moves.ite (fun _ => ?_) (fun _ => ?_)
  · exact hx0
  · refine Moves.step ?_ (Moves.mono (by decide) (State.health1_moves _ _ _ _ _))
    refine Moves.step ?_ (Moves.mono (by decide) (State.modLf_movesAll _ _ (fun _ => by exact Lf.keeps_of rfl)))
    exact hx0

theorem State.abortRound_moves (s : State) :
    Moves [.sess, .keys] s (State.abortRound s) := by
  unfold State.abortRound
  split
  · try extract_lets +onlyGivenNames x0
    try clear_value x0
    try extract_lets +onlyGivenNames x1
    try clear_value x1
    try extract_lets +onlyGivenNames x2
    try clear_value x2
    refine Moves.step ?_ (Moves.mono (by decide) (State.dropShadows_moves _ _))
    refine Moves.step ?_ (Moves.mono (by decide) (State.modSess_moves _ _))
    exact Moves.refl _ _
  · exact Moves.refl _ _

theorem State.stopBurst_moves (b : Burst) (s : State) :
    Moves [.lf, .sess, .keys] s (State.stopBurst b s) := by
  unfold State.stopBurst
  extract_lets +onlyGivenNames x0
  have hx0 : Moves [.lf, .sess, .keys] s x0 := by
    refine Moves.step ?_ (Moves.mono (by decide) (State.modLf_movesAll _ _ (fun _ => by exact Lf.keeps_of rfl)))
    exact Moves.refl _ _
  clear_value x0
  refine Moves.ite (fun _ => ?_) (fun _ => ?_)
  · refine Moves.step ?_ (Moves.mono (by decide) (State.abortRound_moves _))
    exact hx0
  · exact hx0

theorem State.freeBudget_moves (enough : State → Bool) (s : State) :
    Moves [.lf, .sess, .keys] s (State.freeBudget enough s) := by
  unfold State.freeBudget
  refine Moves.foldl ?_ (fun x0 _ hx0 => ?_)
  · exact Moves.refl _ _
  · refine Moves.ite (fun _ => ?_) (fun _ => ?_)
    · exact hx0
    · refine Moves.step ?_ (Moves.mono (by decide) (State.stopBurst_moves _ _))
      exact hx0

theorem State.modCheck_moves (s : State) (f : PopCheck → PopCheck)
    (h : ∀ k : PopCheck, k.coils.length = 48 → (f k).coils.length = 48) : Moves [.pop] s (State.modCheck s f) := by
  refine State.modPop_moves _ _ (fun hx k hk => ?_)
  cases hr : s.pop.running with
  | none => rw [hr] at hk; cases hk
  | some q =>
    rw [hr] at hk
    cases hk
    exact h q (hx q hr)

theorem State.modCoil_moves (s : State) (i : Nat) (f : Coil → Coil) :
    Moves [.pop] s (State.modCoil s i f) := by
  unfold State.modCoil
  refine Moves.step ?_ (Moves.mono (by decide) (State.modCheck_moves _ _ (by simp +contextual)))
  exact Moves.refl _ _

theorem State.spendC_moves (s : State) (c : Nat) :
    Moves [.pop, .free] s (State.spendC s c) := by
  unfold State.spendC
  refine Moves.step ?_ (Moves.mono (by decide) (State.drawn_moves _))
  refine Moves.step ?_ (Moves.mono (by decide) (State.modPop_movesAll _ _ (fun _ => by exact Pop.keeps_of rfl)))
  exact Moves.refl _ _

theorem State.startCheck_moves (i ident slot epoch stage : Nat) (s : State) :
    Moves [.pop, .free] s (State.startCheck i ident slot epoch stage s) := by
  unfold State.startCheck
  try extract_lets +onlyGivenNames x0
  try clear_value x0
  refine Moves.step ?_ (Moves.mono (by decide) (State.spendC_moves _ _))
  refine Moves.step ?_ (Moves.mono (by decide) (State.modCoil_moves _ _ _))
  exact Moves.refl _ _

theorem State.startEnrolCheck_moves (s : State) :
    Moves [.parts, .pop, .free] s (State.startEnrolCheck s) := by
  unfold State.startEnrolCheck
  split
  · try extract_lets +onlyGivenNames x0
    try clear_value x0
    try extract_lets +onlyGivenNames x1
    try clear_value x1
    refine Moves.step ?_ (Moves.mono (by decide) (State.spendC_moves _ _))
    refine Moves.step ?_ (Moves.mono (by decide) (State.modParts_movesAll _ _ (fun _ => by exact Parts.keeps_of rfl)))
    exact Moves.refl _ _
  · exact Moves.refl _ _

theorem State.startExchange_moves (b : Burst) (s : State) :
    Moves [.parts, .pop, .free] s (State.startExchange b s) := by
  unfold State.startExchange
  refine Moves.ite (fun _ => ?_) (fun _ => ?_)
  · refine Moves.step ?_ (Moves.mono (by decide) (State.startEnrolCheck_moves _))
    exact Moves.refl _ _
  · try extract_lets +onlyGivenNames x0
    try clear_value x0
    extract_lets +onlyGivenNames x1
    have hx1 : Moves [.parts, .pop, .free] s x1 := by
      refine Moves.ite (fun _ => ?_) (fun _ => ?_)
      · refine Moves.step ?_ (Moves.mono (by decide) (State.modCheck_moves _ _ (by simp +contextual)))
        exact Moves.refl _ _
      · exact Moves.refl _ _
    clear_value x1
    refine Moves.ite (fun _ => ?_) (fun _ => ?_)
    · split
      · refine Moves.step ?_ (Moves.mono (by decide) (State.startCheck_moves _ _ _ _ _ _))
        exact hx1
      · refine Moves.step ?_ (Moves.mono (by decide) (State.modCoil_moves _ _ _))
        exact hx1
    · refine Moves.step ?_ (Moves.mono (by decide) (State.modCoil_moves _ _ _))
      exact hx1

theorem State.toSeq_moves (st : SeqState) (s : State) :
    Moves [.radio] s (State.toSeq st s) := by
  unfold State.toSeq
  refine Moves.step ?_ (Moves.mono (by decide) (State.modRadio_movesAll _ _ (fun _ => by exact Radio.keeps_of rfl rfl rfl)))
  exact Moves.refl _ _

theorem State.startSettle_moves (synth : Synth) (goal : SeqState) (s : State) :
    Moves [.radio] s (State.startSettle synth goal s) := by
  unfold State.startSettle
  refine Moves.step ?_ (Moves.mono (by decide) (State.modRadio_movesAll _ _ (fun _ => by exact Radio.keeps_of rfl rfl rfl)))
  refine Moves.step ?_ (Moves.mono (by decide) (State.toSeq_moves _ _))
  exact Moves.refl _ _

theorem State.wakeSampling_moves (s : State) :
    Moves [.radio] s (State.wakeSampling s) := by
  unfold State.wakeSampling
  refine Moves.ite (fun _ => ?_) (fun _ => ?_)
  · refine Moves.step ?_ (Moves.mono (by decide) (State.startSettle_moves _ _ _))
    exact Moves.refl _ _
  · exact Moves.refl _ _

theorem State.startRound_moves (b : Burst) (s : State) :
    Moves [.radio, .sess] s (State.startRound b s) := by
  unfold State.startRound
  try extract_lets +onlyGivenNames x0
  try clear_value x0
  try extract_lets +onlyGivenNames x1
  try clear_value x1
  try extract_lets +onlyGivenNames x2
  try clear_value x2
  refine Moves.step ?_ (Moves.mono (by decide) (State.wakeSampling_moves _))
  refine Moves.step ?_ (Moves.mono (by decide) (State.modSess_moves _ _))
  exact Moves.refl _ _

theorem State.burstCond_moves (b : Burst) (c : Nat) (s : State) :
    Moves [.evc, .lf, .ledger] s (State.burstCond b c s) := by
  unfold State.burstCond
  try extract_lets +onlyGivenNames x0
  try clear_value x0
  try extract_lets +onlyGivenNames x1
  try clear_value x1
  try extract_lets +onlyGivenNames x2
  try clear_value x2
  refine Moves.step ?_ (Moves.mono (by decide) (State.setCond_moves _ _ _))
  exact Moves.refl _ _

theorem State.admitBurst_moves (b : Burst) (applied : List (List (Nat × Nat))) (scale : Nat) (s : State) :
    Moves [.evc, .mbx, .parts, .lf, .pop, .radio, .sess, .ledger, .free] s (State.admitBurst b applied scale s) := by
  unfold State.admitBurst
  try extract_lets +onlyGivenNames x0
  try clear_value x0
  extract_lets +onlyGivenNames x1
  have hx1 : Moves [.evc, .mbx, .parts, .lf, .pop, .radio, .sess, .ledger, .free] s x1 := by
    refine Moves.foldl ?_ (fun x2 _ hx2 => ?_)
    · exact Moves.refl _ _
    · refine Moves.step ?_ (Moves.mono (by decide) (State.commit_moves _ _))
      exact hx2
  clear_value x1
  extract_lets +onlyGivenNames x3
  have hx3 : Moves [.evc, .mbx, .parts, .lf, .pop, .radio, .sess, .ledger, .free] s x3 := by
    refine Moves.step ?_ (Moves.mono (by decide) (State.modLf_movesAll _ _ (fun _ => by exact Lf.keeps_of rfl)))
    exact hx1
  clear_value x3
  try extract_lets +onlyGivenNames x4
  try clear_value x4
  extract_lets +onlyGivenNames x5
  have hx5 : Moves [.evc, .mbx, .parts, .lf, .pop, .radio, .sess, .ledger, .free] s x5 := by
    refine Moves.foldl ?_ (fun x6 _ hx6 => ?_)
    · exact hx3
    · refine Moves.step ?_ (Moves.mono (by decide) (State.burstCond_moves _ _ _))
      refine Moves.step ?_ (Moves.mono (by decide) (State.modLfChan_moves _ _ _))
      exact hx6
  clear_value x5
  split
  · refine Moves.step ?_ (Moves.mono (by decide) (State.startRound_moves _ _))
    exact hx5
  · refine Moves.step ?_ (Moves.mono (by decide) (State.startExchange_moves _ _))
    exact hx5
  · exact hx5

theorem State.admitWake_moves (w : Burst) (s : State) :
    Moves [.evc, .mbx, .parts, .lf, .pop, .radio, .sess, .keys, .ledger, .health, .free] s (State.admitWake w s).1 := by
  show MovesFst _ _ _
  unfold State.admitWake
  extract_lets +onlyGivenNames x0
  have hx0 : Moves [.evc, .mbx, .parts, .lf, .pop, .radio, .sess, .keys, .ledger, .health, .free] s x0 := by
    refine Moves.foldl ?_ (fun x1 _ hx1 => ?_)
    · exact Moves.refl _ _
    · refine Moves.step ?_ (Moves.mono (by decide) (State.stopBurst_moves _ _))
      exact hx1
  clear_value x0
  try extract_lets +onlyGivenNames x2
  try clear_value x2
  try extract_lets +onlyGivenNames x3
  try clear_value x3
  extract_lets +onlyGivenNames x4
  have hx4 : Moves [.evc, .mbx, .parts, .lf, .pop, .radio, .sess, .keys, .ledger, .health, .free] s x4 := by
    refine Moves.step ?_ (Moves.mono (by decide) (State.freeBudget_moves _ _))
    exact hx0
  clear_value x4
  refine MovesFst.ite (fun _ => ?_) (fun _ => ?_)
  · show Moves _ _ _
    refine Moves.step ?_ (Moves.mono (by decide) (State.admitBurst_moves _ _ _ _))
    exact hx4
  · try extract_lets +onlyGivenNames x5
    try clear_value x5
    refine MovesFst.ite (fun _ => ?_) (fun _ => ?_)
    · try extract_lets +onlyGivenNames x6
      try clear_value x6
      show Moves _ _ _
      refine Moves.step ?_ (Moves.mono (by decide) (State.derateEvent_moves _))
      refine Moves.step ?_ (Moves.mono (by decide) (State.admitBurst_moves _ _ _ _))
      exact hx4
    · show Moves _ _ _
      exact hx4

theorem State.considerWake_moves (s : State) :
    Moves [.evc, .mbx, .parts, .lf, .pop, .radio, .sess, .keys, .ledger, .health, .free] s (State.considerWake s).1 := by
  show MovesFst _ _ _
  unfold State.considerWake
  refine MovesFst.ite (fun _ => ?_) (fun _ => ?_)
  · show Moves _ _ _
    exact Moves.refl _ _
  · split
    · refine MovesFst.step ?_ (Moves.mono (by decide) (State.admitWake_moves _ _))
      exact Moves.refl _ _
    · show Moves _ _ _
      exact Moves.refl _ _

theorem State.setEntry_moves (i code : Nat) (note : Option Nat) (s : State) :
    Moves [.pop] s (State.setEntry i code note s) := by
  unfold State.setEntry
  refine Moves.step ?_ (Moves.mono (by decide) (State.modCoil_moves _ _ _))
  exact Moves.refl _ _

theorem State.endCoilBurst_moves (i : Nat) (s : State) :
    Moves [.lf] s (State.endCoilBurst i s) := by
  unfold State.endCoilBurst
  refine Moves.step ?_ (Moves.mono (by decide) (State.modLf_movesAll _ _ (fun _ => by exact Lf.keeps_of rfl)))
  exact Moves.refl _ _

theorem State.considerOne_moves (p : State × Bool) (b : Burst) :
    Moves [.evc, .mbx, .parts, .lf, .pop, .radio, .sess, .ledger, .free] p.1 (State.considerOne p b).1 := by
  show MovesFst _ _ _
  unfold State.considerOne
  extract_lets +onlyGivenNames x0
  have hx0 : Moves [.evc, .mbx, .parts, .lf, .pop, .radio, .sess, .ledger, .free] p.1 x0 := by
    show MovesFst _ _ _
    exact Moves.refl _ _
  clear_value x0
  refine MovesFst.ite (fun _ => ?_) (fun _ => ?_)
  · show Moves _ _ _
    refine Moves.step ?_ (Moves.mono (by decide) (State.endCoilBurst_moves _ _))
    refine Moves.step ?_ (Moves.mono (by decide) (State.setEntry_moves _ _ _ _))
    exact hx0
  · refine MovesFst.ite (fun _ => ?_) (fun _ => ?_)
    · exact Moves.refl _ _
    · try extract_lets +onlyGivenNames x1
      try clear_value x1
      refine MovesFst.ite (fun _ => ?_) (fun _ => ?_)
      · show Moves _ _ _
        refine Moves.step ?_ (Moves.mono (by decide) (State.admitBurst_moves _ _ _ _))
        exact hx0
      · show Moves _ _ _
        exact hx0

theorem State.countRun_moves (s before : State) : Moves [.evc, .lf, .pop, .ledger, .health] s (s.countRun before) := by
  unfold State.countRun
  extract_lets +onlyGivenNames more
  clear_value more
  refine Moves.ite (fun _ => ?_) (fun _ => Moves.refl _ _)
  extract_lets +onlyGivenNames first x
  have hx : Moves [.evc, .lf, .pop, .ledger, .health] s x := by
    refine Moves.step ?_ (Moves.mono (by decide) (State.modPop_moves _ _ (fun h => h)))
    refine Moves.step ?_ (Moves.mono (by decide) (State.modCheck_moves _ _ (fun _ h => h)))
    exact Moves.refl _ _
  clear_value x
  exact Moves.ite (fun _ => hx.trans (Moves.mono (by decide) (State.derateEvent_moves _))) (fun _ => hx)

theorem State.considerAll_moves (s : State) : Moves [.evc, .mbx, .parts, .lf, .pop, .radio, .sess, .keys, .ledger, .health, .free] s s.considerAll := by
  unfold State.considerAll
  extract_lets +onlyGivenNames w
  have hw : Moves [.evc, .mbx, .parts, .lf, .pop, .radio, .sess, .keys, .ledger, .health, .free] s w.1 :=
    (Moves.mono (by decide) (State.settleVlf_moves s)).trans (Moves.mono (by decide) (State.considerWake_moves _))
  clear_value w
  refine Moves.ite (fun _ => hw) (fun _ => ?_)
  extract_lets +onlyGivenNames pops diags r
  have hr : MovesFst [.evc, .mbx, .parts, .lf, .pop, .radio, .sess, .keys, .ledger, .health, .free] s r := by
    refine MovesFst.foldl hw (fun u x hu => ?_)
    exact MovesFst.step hu (Moves.mono (by decide) (State.considerOne_moves u x))
  clear_value r
  exact Moves.trans hr (Moves.mono (by decide) (State.countRun_moves _ _))

theorem State.putRequest_moves (b : Burst) (s : State) :
    Moves [.evc, .psc, .pad, .mbx, .fab, .lf, .rel, .ledger] s (State.putRequest b s) := by
  unfold State.putRequest
  refine Moves.step ?_ (Moves.mono (by decide) (State.wakeSource_moves _ _))
  refine Moves.step ?_ (Moves.mono (by decide) (State.modLf_movesAll _ _ (fun _ => by exact Lf.keeps_of rfl)))
  exact Moves.refl _ _

theorem State.wakeRequest_moves (q : Burst) (s : State) :
    Moves [.evc, .psc, .pad, .mbx, .fab, .lf, .rel, .ledger] s (State.wakeRequest q s) := by
  unfold State.wakeRequest
  refine Moves.ite (fun _ => ?_) (fun _ => ?_)
  · refine Moves.step ?_ (Moves.mono (by decide) (State.modLf_movesAll _ _ (fun _ => by exact Lf.keeps_of rfl)))
    exact Moves.refl _ _
  · refine Moves.step ?_ (Moves.mono (by decide) (State.putRequest_moves _ _))
    exact Moves.refl _ _

theorem State.requestWake_moves (k : Nat) (mbs : List Nat) (addressed : Option Nat) (s : State) :
    Moves [.evc, .psc, .pad, .mbx, .fab, .lf, .rel, .ledger] s (State.requestWake k mbs addressed s) := by
  unfold State.requestWake
  refine Moves.step ?_ (Moves.mono (by decide) (State.wakeRequest_moves _ _))
  exact Moves.refl _ _

theorem State.requestMeasure_moves (c : Nat) (s : State) :
    Moves [.evc, .psc, .pad, .mbx, .fab, .lf, .rel, .ledger] s (State.requestMeasure c s) := by
  unfold State.requestMeasure
  refine Moves.ite (fun _ => ?_) (fun _ => ?_)
  · exact Moves.refl _ _
  · refine Moves.step ?_ (Moves.mono (by decide) (State.putRequest_moves _ _))
    exact Moves.refl _ _

theorem State.requestDiagnostics_moves (s : State) :
    Moves [.evc, .psc, .pad, .mbx, .fab, .lf, .rel, .ledger] s (State.requestDiagnostics s) := by
  unfold State.requestDiagnostics
  try extract_lets +onlyGivenNames x0
  try clear_value x0
  refine Moves.foldl ?_ (fun x1 _ hx1 => ?_)
  · refine Moves.step ?_ (Moves.mono (by decide) (State.modLf_movesAll _ _ (fun _ => by exact Lf.keeps_of rfl)))
    exact Moves.refl _ _
  · refine Moves.step ?_ (Moves.mono (by decide) (State.requestMeasure_moves _ _))
    exact hx1

theorem State.squeezeWake_moves (s : State) :
    Moves [.evc, .lf, .sess, .keys, .ledger, .health] s (State.squeezeWake s) := by
  unfold State.squeezeWake
  split
  · refine Moves.ite (fun _ => ?_) (fun _ => ?_)
    · exact Moves.refl _ _
    · try extract_lets +onlyGivenNames x0
      try clear_value x0
      try extract_lets +onlyGivenNames x1
      try clear_value x1
      try extract_lets +onlyGivenNames x2
      try clear_value x2
      refine Moves.ite (fun _ => ?_) (fun _ => ?_)
      · try extract_lets +onlyGivenNames x3
        try clear_value x3
        try extract_lets +onlyGivenNames x4
        try clear_value x4
        refine Moves.step ?_ (Moves.mono (by decide) (State.derateEvent_moves _))
        refine Moves.step ?_ (Moves.mono (by decide) (State.modSess_moves _ _))
        refine Moves.step ?_ (Moves.mono (by decide) (State.modLf_movesAll _ _ (fun _ => by exact Lf.keeps_of rfl)))
        exact Moves.refl _ _
      · refine Moves.step ?_ (Moves.mono (by decide) (State.stopBurst_moves _ _))
        exact Moves.refl _ _
  · exact Moves.refl _ _

theorem State.squeeze_moves (s : State) :
    Moves [.evc, .lf, .sess, .keys, .ledger, .health] s (State.squeeze s) := by
  unfold State.squeeze
  refine Moves.step ?_ (Moves.mono (by decide) (State.squeezeWake_moves _))
  refine Moves.step ?_ (Moves.mono (by decide) (State.freeBudget_moves _ _))
  exact Moves.refl _ _

theorem State.rebudget_moves (s : State) :
    Moves [.evc, .mbx, .parts, .lf, .pop, .radio, .sess, .keys, .ledger, .health, .free] s (State.rebudget s) := by
  unfold State.rebudget
  try extract_lets +onlyGivenNames x0
  try clear_value x0
  refine Moves.step ?_ (Moves.mono (by decide) (State.considerAll_moves _))
  refine Moves.step ?_ (Moves.mono (by decide) (State.squeeze_moves _))
  refine Moves.step ?_ (Moves.mono (by decide) (State.modLf_movesAll _ _ (fun _ => by exact Lf.keeps_of rfl)))
  exact Moves.refl _ _

theorem doLfBudgetRecompute_moves (pVint pLft bus : Nat) (hot cool : BitVec 64) (s : State) :
    Moves [.evc, .mbx, .parts, .lf, .pop, .radio, .sess, .keys, .ledger, .health, .power, .free] s (doLfBudgetRecompute pVint pLft bus hot cool s) := by
  unfold doLfBudgetRecompute
  try extract_lets +onlyGivenNames x0
  try clear_value x0
  refine Moves.step ?_ (Moves.mono (by decide) (State.rebudget_moves _))
  refine Moves.step ?_ (Moves.mono (by decide) (State.modPower_movesAll _ _ (fun _ => by exact Power.keeps_of rfl)))
  refine Moves.step ?_ (Moves.mono (by decide) (State.modLf_movesAll _ _ (fun _ => by exact Lf.keeps_of rfl)))
  exact Moves.refl _ _

theorem doLfOverdraw_moves (pVlf pLft : Nat) (s : State) :
    Moves [.evc, .lf, .sess, .keys, .ledger, .health, .free] s (doLfOverdraw pVlf pLft s) := by
  unfold doLfOverdraw
  refine Moves.ite (fun _ => ?_) (fun _ => ?_)
  · try extract_lets +onlyGivenNames x0
    try clear_value x0
    split
    · refine Moves.step ?_ (Moves.mono (by decide) (State.healthFree_moves _ _ _ _))
      refine Moves.step ?_ (Moves.mono (by decide) (State.stopBurst_moves _ _))
      exact Moves.refl _ _
    · exact Moves.refl _ _
  · exact Moves.refl _ _

end Sys2Proof.Machine
end

