-- ==== Sys2Proof/Laws/Population.lean ====
section
/-!
SUPPORT. What the operations of Machine/Population.lean leave unchanged, and what they keep.
-/
namespace Sys2Proof.Machine

theorem State.setRetry_moves (i why : Nat) (s : State) :
    Moves [.pop] s (State.setRetry i why s) := by
  unfold State.setRetry
  refine Moves.step ?_ (Moves.mono (by decide) (State.modCoil_moves _ _ _))
  exact Moves.refl _ _

theorem State.evalCoil_moves (i : Nat) (s : State) :
    Moves [.evc, .parts, .ledger] s (State.evalCoil i s) := by
  unfold State.evalCoil
  extract_lets +onlyGivenNames x0
  have hx0 : Moves [.evc, .parts, .ledger] s x0 := by
    refine Moves.step ?_ (Moves.mono (by decide) (State.evalAttach_moves _ _))
    exact Moves.refl _ _
  clear_value x0
  split
  · refine Moves.step ?_ (Moves.mono (by decide) (State.evalIdentity_moves _ _))
    exact hx0
  · exact hx0

theorem State.requestCoil_moves (i phase : Nat) (s : State) :
    Moves [.evc, .psc, .pad, .mbx, .fab, .lf, .rel, .ledger] s (State.requestCoil i phase s) := by
  unfold State.requestCoil
  refine Moves.step ?_ (Moves.mono (by decide) (State.putRequest_moves _ _))
  exact Moves.refl _ _

theorem State.retryCoil_moves (i : Nat) (s : State) :
    Moves [.pop] s (State.retryCoil i s) := by
  unfold State.retryCoil
  try extract_lets +onlyGivenNames x0
  try clear_value x0
  refine Moves.step ?_ (Moves.mono (by decide) (State.modCoil_moves _ _ _))
  refine Moves.step ?_ (Moves.mono (by decide) (State.modCheck_moves _ _ (by simp +contextual)))
  exact Moves.refl _ _

theorem State.startCoil_moves (phase i : Nat) (s0 : State) :
    Moves [.evc, .psc, .pad, .mbx, .fab, .parts, .lf, .pop, .rel, .ledger] s0 (State.startCoil phase i s0) := by
  unfold State.startCoil
  extract_lets +onlyGivenNames x0
  have hx0 : Moves [.evc, .psc, .pad, .mbx, .fab, .parts, .lf, .pop, .rel, .ledger] s0 x0 := by
    refine Moves.step ?_ (Moves.mono (by decide) (State.modCheck_moves _ _ (by simp +contextual)))
    refine Moves.step ?_ (Moves.mono (by decide) (State.evalCoil_moves _ _))
    exact Moves.refl _ _
  clear_value x0
  refine Moves.ite (fun _ => ?_) (fun _ => ?_)
  · refine Moves.step ?_ (Moves.mono (by decide) (State.setEntry_moves _ _ _ _))
    exact hx0
  · refine Moves.ite (fun _ => ?_) (fun _ => ?_)
    · refine Moves.step ?_ (Moves.mono (by decide) (State.setEntry_moves _ _ _ _))
      exact hx0
    · refine Moves.ite (fun _ => ?_) (fun _ => ?_)
      · refine Moves.step ?_ (Moves.mono (by decide) (State.setEntry_moves _ _ _ _))
        exact hx0
      · extract_lets +onlyGivenNames x1
        have hx1 : Moves [.evc, .psc, .pad, .mbx, .fab, .parts, .lf, .pop, .rel, .ledger] s0 x1 := by
          refine Moves.ite (fun _ => ?_) (fun _ => ?_)
          · exact hx0
          · refine Moves.step ?_ (Moves.mono (by decide) (State.retryCoil_moves _ _))
            exact hx0
        clear_value x1
        refine Moves.step ?_ (Moves.mono (by decide) (State.requestCoil_moves _ _ _))
        refine Moves.step ?_ (Moves.mono (by decide) (State.modCoil_moves _ _ _))
        exact hx1

theorem State.startPhase_moves (phase : Nat) (s : State) :
    Moves [.evc, .psc, .pad, .mbx, .fab, .parts, .lf, .pop, .rel, .ledger] s (State.startPhase phase s) := by
  unfold State.startPhase
  split
  · try extract_lets +onlyGivenNames x0
    try clear_value x0
    refine Moves.foldl ?_ (fun x1 _ hx1 => ?_)
    · refine Moves.step ?_ (Moves.mono (by decide) (State.modCheck_moves _ _ (by simp +contextual)))
      exact Moves.refl _ _
    · refine Moves.step ?_ (Moves.mono (by decide) (State.startCoil_moves _ _ _))
      exact hx1
  · exact Moves.refl _ _

theorem State.nextPhase_moves (n : Nat) (s : State) : Moves [.evc, .psc, .pad, .mbx, .fab, .parts, .lf, .pop, .rel, .ledger] s (s.nextPhase n).1 := by
  induction n generalizing s with
  | zero => exact Moves.refl _ _
  | succ n ih =>
    show MovesFst _ _ _
    unfold State.nextPhase
    refine MovesFst.ite (fun _ => Moves.refl _ s) (fun _ => ?_)
    split
    · exact Moves.refl _ s
    · refine MovesFst.ite (fun _ => ?_) (fun _ => ?_)
      · exact MovesFst.step (Moves.mono (by decide) (State.startPhase_moves _ _)) (ih _)
      · refine MovesFst.ite (fun _ => ?_) (fun _ => Moves.refl _ s)
        exact MovesFst.step (Moves.trans (Moves.mono (by decide) (State.modCheck_moves _ _ (by intro k h; exact h)))
          (Moves.mono (by decide) (State.startPhase_moves _ _))) (ih _)

theorem State.updateModule_moves (k : PopCheck) (ident : Nat) (s : State) :
    Moves [.evc, .parts, .ledger] s (State.updateModule k ident s) := by
  unfold State.updateModule
  refine Moves.ite (fun _ => ?_) (fun _ => ?_)
  · extract_lets +onlyGivenNames x0
    have hx0 : Moves [.evc, .parts, .ledger] s x0 := by
      refine Moves.step ?_ (Moves.mono (by decide) (State.verifiedExchange_moves _ _))
      exact Moves.refl _ _
    clear_value x0
    split
    · extract_lets +onlyGivenNames x1
      have hx1 : Moves [.evc, .parts, .ledger] s x1 := by
        refine Moves.step ?_ (Moves.mono (by decide) (State.updateRec_moves _ _ _))
        exact hx0
      clear_value x1
      split
      · refine Moves.step ?_ (Moves.mono (by decide) (State.partnerEntry_moves _ _ _ _ _ _ _ _))
        exact hx1
      · exact hx1
    · split
      · refine Moves.ite (fun _ => ?_) (fun _ => ?_)
        · refine Moves.step ?_ (Moves.mono (by decide) (State.updateRec_moves _ _ _))
          exact hx0
        · exact hx0
      · exact hx0
  · refine Moves.step ?_ (Moves.mono (by decide) (State.missedCheck_moves _ _))
    exact Moves.refl _ _

theorem State.popEntry_moves (r : PopRec) (s : State) :
    Moves [.evc, .ledger] s (State.popEntry r s) := by
  unfold State.popEntry
  refine Moves.step ?_ (Moves.mono (by decide) (State.raise_moves _ _ _))
  refine Moves.step ?_ (Moves.mono (by decide) (State.ledgerAdd_moves _ _ _ _))
  exact Moves.refl _ _

theorem State.beginCheck_moves (mbs : List Nat) (s : State) :
    Moves [.evc, .psc, .pad, .mbx, .fab, .parts, .lf, .pop, .rel, .ledger] s (State.beginCheck mbs s).1 := by
  show MovesFst _ _ _
  unfold State.beginCheck
  extract_lets +onlyGivenNames x0
  have hx0 : Moves [.evc, .psc, .pad, .mbx, .fab, .parts, .lf, .pop, .rel, .ledger] s x0 := by
    refine Moves.step ?_ (Moves.mono (by decide) (State.modPop_moves _ _ (by simp +contextual [Pop.Keeps, Pop.Shaped] <;> intros <;> omega)))
    exact Moves.refl _ _
  clear_value x0
  refine MovesFst.step ?_ (Moves.mono (by decide) (State.nextPhase_moves _ _))
  refine Moves.step ?_ (Moves.mono (by decide) (State.startPhase_moves _ _))
  exact hx0

theorem State.enrolLocked_moves (e : Enrolment) (s : State) :
    Moves [.evc, .parts, .ledger] s (State.enrolLocked e s).2 := by
  show MovesSnd _ _ _
  unfold State.enrolLocked
  extract_lets +onlyGivenNames x0
  have hx0 : Moves [.evc, .parts, .ledger] s x0 := by
    refine Moves.step ?_ (Moves.mono (by decide) (State.evalIdentity_moves _ _))
    refine Moves.step ?_ (Moves.mono (by decide) (State.evalAttach_moves _ _))
    exact Moves.refl _ _
  clear_value x0
  show Moves _ _ _
  exact hx0

theorem State.endEnrol_moves (e : Enrolment) (status : Nat) (s : State) :
    Moves [.evc, .mbx, .fab, .parts] s (State.endEnrol e status s) := by
  unfold State.endEnrol
  refine Moves.step ?_ (Moves.mono (by decide) (State.conclude_moves _ _ _ _))
  refine Moves.step ?_ (Moves.mono (by decide) (State.modParts_movesAll _ _ (fun _ => by exact Parts.keeps_of rfl)))
  exact Moves.refl _ _

theorem State.requestEnrolCoil_moves (s : State) :
    Moves [.evc, .psc, .pad, .mbx, .fab, .parts, .lf, .rel, .ledger] s (State.requestEnrolCoil s) := by
  unfold State.requestEnrolCoil
  split
  · refine Moves.ite (fun _ => ?_) (fun _ => ?_)
    · extract_lets +onlyGivenNames x0
      have hx0 : MovesSnd [.evc, .psc, .pad, .mbx, .fab, .parts, .lf, .rel, .ledger] s x0 := by
        refine MovesSnd.step ?_ (Moves.mono (by decide) (State.enrolLocked_moves _ _))
        exact Moves.refl _ _
      clear_value x0
      refine Moves.ite (fun _ => ?_) (fun _ => ?_)
      · refine Moves.step ?_ (Moves.mono (by decide) (State.endEnrol_moves _ _ _))
        show MovesSnd _ _ _
        exact hx0
      · refine Moves.step ?_ (Moves.mono (by decide) (State.putRequest_moves _ _))
        refine Moves.step ?_ (Moves.mono (by decide) (State.modParts_movesAll _ _ (fun _ => by exact Parts.keeps_of rfl)))
        show MovesSnd _ _ _
        exact hx0
    · exact Moves.refl _ _
  · exact Moves.refl _ _

theorem State.finishCheck_moves (s : State) :
    Moves [.evc, .psc, .pad, .mbx, .fab, .parts, .lf, .pop, .rel, .ledger] s (State.finishCheck s) := by
  unfold State.finishCheck
  split
  · try extract_lets +onlyGivenNames x0
    try clear_value x0
    try extract_lets +onlyGivenNames x1
    try clear_value x1
    extract_lets +onlyGivenNames x2
    have hx2 : Moves [.evc, .psc, .pad, .mbx, .fab, .parts, .lf, .pop, .rel, .ledger] s x2 := by
      refine Moves.foldl ?_ (fun x3 _ hx3 => ?_)
      · exact Moves.refl _ _
      · refine Moves.step ?_ (Moves.mono (by decide) (State.updateModule_moves _ _ _))
        exact hx3
    clear_value x2
    extract_lets +onlyGivenNames x4
    have hx4 : Moves [.evc, .psc, .pad, .mbx, .fab, .parts, .lf, .pop, .rel, .ledger] s x4 := by
      refine Moves.step ?_ (Moves.mono (by decide) (State.raise_moves _ _ _))
      refine Moves.step ?_ (Moves.mono (by decide) (State.modPop_moves _ _ (by simp +contextual [Pop.Keeps, Pop.Shaped] <;> intros <;> omega)))
      exact hx2
    clear_value x4
    extract_lets +onlyGivenNames x5
    have hx5 : Moves [.evc, .psc, .pad, .mbx, .fab, .parts, .lf, .pop, .rel, .ledger] s x5 := by
      refine Moves.ite (fun _ => ?_) (fun _ => ?_)
      · refine Moves.step ?_ (Moves.mono (by decide) (State.popEntry_moves _ _))
        exact hx4
      · exact hx4
    clear_value x5
    try extract_lets +onlyGivenNames x6
    try clear_value x6
    refine Moves.step ?_ (Moves.mono (by decide) (State.requestEnrolCoil_moves _))
    refine Moves.foldl ?_ (fun x7 _ hx7 => ?_)
    · exact hx5
    · refine Moves.step ?_ (Moves.mono (by decide) (State.conclude_moves _ _ _ _))
      exact hx7
  · exact Moves.refl _ _

theorem State.settleCheck_moves (p : State × Bool) :
    Moves [.evc, .psc, .pad, .mbx, .fab, .parts, .lf, .pop, .radio, .sess, .rel, .keys, .ledger, .health, .free] p.1 (State.settleCheck p) := by
  unfold State.settleCheck
  refine Moves.ite (fun _ => ?_) (fun _ => ?_)
  · extract_lets +onlyGivenNames x0
    have hx0 : Moves [.evc, .psc, .pad, .mbx, .fab, .parts, .lf, .pop, .radio, .sess, .rel, .keys, .ledger, .health, .free] p.1 x0 := by
      refine Moves.step ?_ (Moves.mono (by decide) (State.finishCheck_moves _))
      show MovesFst _ _ _
      exact Moves.refl _ _
    clear_value x0
    refine Moves.ite (fun _ => ?_) (fun _ => ?_)
    · extract_lets +onlyGivenNames x1
      have hx1 : MovesFst [.evc, .psc, .pad, .mbx, .fab, .parts, .lf, .pop, .radio, .sess, .rel, .keys, .ledger, .health, .free] p.1 x1 := by
        refine MovesFst.step ?_ (Moves.mono (by decide) (State.beginCheck_moves _ _))
        exact hx0
      clear_value x1
      refine Moves.step ?_ (Moves.mono (by decide) (State.considerAll_moves _))
      refine Moves.ite (fun _ => ?_) (fun _ => ?_)
      · refine Moves.step ?_ (Moves.mono (by decide) (State.finishCheck_moves _))
        show MovesFst _ _ _
        exact hx1
      · show MovesFst _ _ _
        exact hx1
    · refine Moves.step ?_ (Moves.mono (by decide) (State.considerAll_moves _))
      exact hx0
  · refine Moves.step ?_ (Moves.mono (by decide) (State.considerAll_moves _))
    show MovesFst _ _ _
    exact Moves.refl _ _

theorem State.requestCheck_moves (mbs : List Nat) (s : State) :
    Moves [.evc, .psc, .pad, .mbx, .fab, .parts, .lf, .pop, .radio, .sess, .rel, .keys, .ledger, .health, .free] s (State.requestCheck mbs s) := by
  unfold State.requestCheck
  refine Moves.ite (fun _ => ?_) (fun _ => ?_)
  · refine Moves.step ?_ (Moves.mono (by decide) (State.modPop_movesAll _ _ (fun _ => by exact Pop.keeps_of rfl)))
    exact Moves.refl _ _
  · refine Moves.step ?_ (Moves.mono (by decide) (State.settleCheck_moves _))
    show MovesFst _ _ _
    refine MovesFst.step ?_ (Moves.mono (by decide) (State.beginCheck_moves _ _))
    exact Moves.refl _ _

theorem State.serveWanted_moves (s : State) :
    Moves [.evc, .psc, .pad, .mbx, .fab, .parts, .lf, .pop, .radio, .sess, .rel, .keys, .ledger, .health, .free] s (State.serveWanted s) := by
  unfold State.serveWanted
  refine Moves.ite (fun _ => ?_) (fun _ => ?_)
  · refine Moves.step ?_ (Moves.mono (by decide) (State.settleCheck_moves _))
    show MovesFst _ _ _
    refine MovesFst.step ?_ (Moves.mono (by decide) (State.beginCheck_moves _ _))
    exact Moves.refl _ _
  · exact Moves.refl _ _

theorem doPopulationPhaseEnd_moves (s : State) :
    Moves [.evc, .psc, .pad, .mbx, .fab, .parts, .lf, .pop, .radio, .sess, .rel, .keys, .ledger, .health, .free] s (doPopulationPhaseEnd s) := by
  unfold doPopulationPhaseEnd
  refine Moves.ite (fun _ => ?_) (fun _ => ?_)
  · refine Moves.step ?_ (Moves.mono (by decide) (State.settleCheck_moves _))
    show MovesFst _ _ _
    refine MovesFst.step ?_ (Moves.mono (by decide) (State.nextPhase_moves _ _))
    exact Moves.refl _ _
  · exact Moves.refl _ _

theorem doPopulationCheckDue_moves (s : State) :
    Moves [.evc, .psc, .pad, .mbx, .fab, .parts, .lf, .pop, .radio, .sess, .rel, .keys, .ledger, .health, .free] s (doPopulationCheckDue s) := by
  unfold doPopulationCheckDue
  try extract_lets +onlyGivenNames x0
  try clear_value x0
  refine Moves.ite (fun _ => ?_) (fun _ => ?_)
  · refine Moves.step ?_ (Moves.mono (by decide) (State.requestCheck_moves _ _))
    exact Moves.refl _ _
  · exact Moves.refl _ _

theorem doLockoutEnd_moves (s : State) :
    Moves [.evc, .psc, .pad, .mbx, .fab, .parts, .lf, .pop, .radio, .sess, .rel, .keys, .ledger, .health, .free] s (doLockoutEnd s) := by
  unfold doLockoutEnd
  split
  · refine Moves.ite (fun _ => ?_) (fun _ => ?_)
    · refine Moves.step ?_ (Moves.mono (by decide) (State.requestCheck_moves _ _))
      exact Moves.refl _ _
    · exact Moves.refl _ _
  · exact Moves.refl _ _

theorem State.passCheck_moves (i ident : Nat) (s : State) :
    Moves [.parts, .pop] s (State.passCheck i ident s) := by
  unfold State.passCheck
  refine Moves.step ?_ (Moves.mono (by decide) (State.modCheck_moves _ _ (by simp +contextual)))
  refine Moves.step ?_ (Moves.mono (by decide) (State.updateRec_moves _ _ _))
  exact Moves.refl _ _

theorem State.failCoil_moves (i ident : Nat) (s : State) :
    Moves [.evc, .parts, .pop, .ledger] s (State.failCoil i ident s) := by
  unfold State.failCoil
  refine Moves.step ?_ (Moves.mono (by decide) (State.setEntry_moves _ _ _ _))
  refine Moves.step ?_ (Moves.mono (by decide) (State.countFailure_moves _ _ _ _ _))
  exact Moves.refl _ _

theorem State.replaceModule_moves (i ident : Nat) (s : State) :
    Moves [.evc, .parts, .ledger] s (State.replaceModule i ident s) := by
  unfold State.replaceModule
  extract_lets +onlyGivenNames x0
  have hx0 : Moves [.evc, .parts, .ledger] s x0 := by
    unfold x0
    clear x0
    split
    · refine Moves.step ?_ (Moves.mono (by decide) (State.removeRec_moves _ _))
      exact Moves.refl _ _
    · exact Moves.refl _ _
  clear_value x0
  refine Moves.step ?_ (Moves.mono (by decide) (State.windowUse_moves _))
  refine Moves.step ?_ (Moves.mono (by decide) (State.enrolPartner_moves _ _ _))
  exact hx0

theorem State.resolved_moves (i : Nat) (m : Option Bool) (s : State) :
    Moves [.evc, .parts, .pop, .ledger] s (State.resolved i m s) := by
  unfold State.resolved
  try extract_lets +onlyGivenNames x0
  try clear_value x0
  try extract_lets +onlyGivenNames x1
  try clear_value x1
  split
  · refine Moves.ite (fun _ => ?_) (fun _ => ?_)
    · refine Moves.ite (fun _ => ?_) (fun _ => ?_)
      · refine Moves.step ?_ (Moves.mono (by decide) (State.setEntry_moves _ _ _ _))
        refine Moves.step ?_ (Moves.mono (by decide) (State.passCheck_moves _ _ _))
        refine Moves.step ?_ (Moves.mono (by decide) (State.replaceModule_moves _ _ _))
        exact Moves.refl _ _
      · refine Moves.step ?_ (Moves.mono (by decide) (State.setEntry_moves _ _ _ _))
        refine Moves.step ?_ (Moves.mono (by decide) (State.updateRec_moves _ _ _))
        exact Moves.refl _ _
    · refine Moves.ite (fun _ => ?_) (fun _ => ?_)
      · refine Moves.step ?_ (Moves.mono (by decide) (State.setEntry_moves _ _ _ _))
        refine Moves.step ?_ (Moves.mono (by decide) (State.passCheck_moves _ _ _))
        exact Moves.refl _ _
      · refine Moves.step ?_ (Moves.mono (by decide) (State.setEntry_moves _ _ _ _))
        refine Moves.step ?_ (Moves.mono (by decide) (State.passCheck_moves _ _ _))
        exact Moves.refl _ _
  · refine Moves.step ?_ (Moves.mono (by decide) (State.failCoil_moves _ _ _))
    exact Moves.refl _ _
  · refine Moves.ite (fun _ => ?_) (fun _ => ?_)
    · refine Moves.step ?_ (Moves.mono (by decide) (State.setEntry_moves _ _ _ _))
      exact Moves.refl _ _
    · refine Moves.step ?_ (Moves.mono (by decide) (State.setEntry_moves _ _ _ _))
      exact Moves.refl _ _

theorem State.foreign_moves (i ident : Nat) (s : State) :
    Moves [.evc, .parts, .pop, .ledger, .free] s (State.foreign i ident s).1 := by
  show MovesFst _ _ _
  unfold State.foreign
  extract_lets +onlyGivenNames x0
  have hx0 : Moves [.evc, .parts, .pop, .ledger, .free] s x0 := by
    refine Moves.step ?_ (Moves.mono (by decide) (State.metIdentity_moves _ _ _ _))
    exact Moves.refl _ _
  clear_value x0
  refine MovesFst.ite (fun _ => ?_) (fun _ => ?_)
  · show Moves _ _ _
    refine Moves.step ?_ (Moves.mono (by decide) (State.startCheck_moves _ _ _ _ _ _))
    refine Moves.step ?_ (Moves.mono (by decide) (State.modCoil_moves _ _ _))
    exact hx0
  · show Moves _ _ _
    refine Moves.step ?_ (Moves.mono (by decide) (State.setEntry_moves _ _ _ _))
    exact hx0

theorem State.classify_moves (i ident : Nat) (s : State) :
    Moves [.evc, .parts, .pop, .ledger, .free] s (State.classify i ident s).1 := by
  show MovesFst _ _ _
  unfold State.classify
  try extract_lets +onlyGivenNames x0
  try clear_value x0
  refine MovesFst.ite (fun _ => ?_) (fun _ => ?_)
  · show Moves _ _ _
    refine Moves.step ?_ (Moves.mono (by decide) (State.setEntry_moves _ _ _ _))
    exact Moves.refl _ _
  · refine MovesFst.ite (fun _ => ?_) (fun _ => ?_)
    · show Moves _ _ _
      refine Moves.step ?_ (Moves.mono (by decide) (State.modCoil_moves _ _ _))
      refine Moves.step ?_ (Moves.mono (by decide) (State.setEntry_moves _ _ _ _))
      exact Moves.refl _ _
    · split
      · refine MovesFst.ite (fun _ => ?_) (fun _ => ?_)
        · refine MovesFst.ite (fun _ => ?_) (fun _ => ?_)
          · show Moves _ _ _
            refine Moves.step ?_ (Moves.mono (by decide) (State.failCoil_moves _ _ _))
            exact Moves.refl _ _
          · show Moves _ _ _
            refine Moves.step ?_ (Moves.mono (by decide) (State.startCheck_moves _ _ _ _ _ _))
            refine Moves.step ?_ (Moves.mono (by decide) (State.modCoil_moves _ _ _))
            exact Moves.refl _ _
        · refine MovesFst.ite (fun _ => ?_) (fun _ => ?_)
          · show Moves _ _ _
            refine Moves.step ?_ (Moves.mono (by decide) (State.setEntry_moves _ _ _ _))
            exact Moves.refl _ _
          · refine MovesFst.step ?_ (Moves.mono (by decide) (State.foreign_moves _ _ _))
            exact Moves.refl _ _
      · refine MovesFst.step ?_ (Moves.mono (by decide) (State.foreign_moves _ _ _))
        exact Moves.refl _ _

theorem State.coilAnswer_moves (i p : Nat) (s : State) :
    Moves [.evc, .parts, .pop, .ledger, .free] s (State.coilAnswer i p s).1 := by
  show MovesFst _ _ _
  unfold State.coilAnswer
  try extract_lets +onlyGivenNames x0
  try clear_value x0
  try extract_lets +onlyGivenNames x1
  try clear_value x1
  refine MovesFst.ite (fun _ => ?_) (fun _ => ?_)
  · split
    · show Moves _ _ _
      refine Moves.step ?_ (Moves.mono (by decide) (State.setEntry_moves _ _ _ _))
      exact Moves.refl _ _
    · show Moves _ _ _
      refine Moves.step ?_ (Moves.mono (by decide) (State.setEntry_moves _ _ _ _))
      refine Moves.step ?_ (Moves.mono (by decide) (State.passCheck_moves _ _ _))
      exact Moves.refl _ _
    · show Moves _ _ _
      refine Moves.step ?_ (Moves.mono (by decide) (State.setRetry_moves _ _ _))
      exact Moves.refl _ _
  · refine MovesFst.ite (fun _ => ?_) (fun _ => ?_)
    · show Moves _ _ _
      refine Moves.step ?_ (Moves.mono (by decide) (State.setRetry_moves _ _ _))
      exact Moves.refl _ _
    · refine MovesFst.ite (fun _ => ?_) (fun _ => ?_)
      · refine MovesFst.step ?_ (Moves.mono (by decide) (State.classify_moves _ _ _))
        exact Moves.refl _ _
      · split
        · show Moves _ _ _
          refine Moves.step ?_ (Moves.mono (by decide) (State.setEntry_moves _ _ _ _))
          exact Moves.refl _ _
        · show Moves _ _ _
          refine Moves.step ?_ (Moves.mono (by decide) (State.resolved_moves _ _ _))
          exact Moves.refl _ _

theorem State.coilError_moves (i : Nat) (s : State) :
    Moves [.evc, .parts, .pop, .ledger] s (State.coilError i s) := by
  unfold State.coilError
  try extract_lets +onlyGivenNames x0
  try clear_value x0
  refine Moves.ite (fun _ => ?_) (fun _ => ?_)
  · refine Moves.step ?_ (Moves.mono (by decide) (State.setEntry_moves _ _ _ _))
    exact Moves.refl _ _
  · refine Moves.ite (fun _ => ?_) (fun _ => ?_)
    · refine Moves.step ?_ (Moves.mono (by decide) (State.setRetry_moves _ _ _))
      exact Moves.refl _ _
    · refine Moves.ite (fun _ => ?_) (fun _ => ?_)
      · refine Moves.step ?_ (Moves.mono (by decide) (State.setEntry_moves _ _ _ _))
        exact Moves.refl _ _
      · refine Moves.step ?_ (Moves.mono (by decide) (State.resolved_moves _ _ _))
        exact Moves.refl _ _

theorem State.coilSilent_moves (i : Nat) (s : State) :
    Moves [.evc, .parts, .pop, .ledger] s (State.coilSilent i s) := by
  unfold State.coilSilent
  try extract_lets +onlyGivenNames x0
  try clear_value x0
  refine Moves.ite (fun _ => ?_) (fun _ => ?_)
  · refine Moves.step ?_ (Moves.mono (by decide) (State.setEntry_moves _ _ _ _))
    exact Moves.refl _ _
  · refine Moves.ite (fun _ => ?_) (fun _ => ?_)
    · refine Moves.step ?_ (Moves.mono (by decide) (State.setRetry_moves _ _ _))
      exact Moves.refl _ _
    · refine Moves.ite (fun _ => ?_) (fun _ => ?_)
      · refine Moves.step ?_ (Moves.mono (by decide) (State.setEntry_moves _ _ _ _))
        exact Moves.refl _ _
      · refine Moves.ite (fun _ => ?_) (fun _ => ?_)
        · split
          · refine Moves.step ?_ (Moves.mono (by decide) (State.setEntry_moves _ _ _ _))
            exact Moves.refl _ _
          · refine Moves.step ?_ (Moves.mono (by decide) (State.setEntry_moves _ _ _ _))
            exact Moves.refl _ _
        · refine Moves.step ?_ (Moves.mono (by decide) (State.resolved_moves _ _ _))
          exact Moves.refl _ _

theorem State.enrolVerified_moves (s : State) :
    Moves [.evc, .mbx, .fab, .parts, .ledger] s (State.enrolVerified s) := by
  unfold State.enrolVerified
  split
  · refine Moves.ite (fun _ => ?_) (fun _ => ?_)
    · refine Moves.step ?_ (Moves.mono (by decide) (State.conclude_moves _ _ _ _))
      refine Moves.step ?_ (Moves.mono (by decide) (State.modParts_movesAll _ _ (fun _ => by exact Parts.keeps_of rfl)))
      exact Moves.refl _ _
    · extract_lets +onlyGivenNames x0
      have hx0 : Moves [.evc, .mbx, .fab, .parts, .ledger] s x0 := by
        refine Moves.step ?_ (Moves.mono (by decide) (State.enrolPartner_moves _ _ _))
        exact Moves.refl _ _
      clear_value x0
      try extract_lets +onlyGivenNames x1
      try clear_value x1
      refine Moves.step ?_ (Moves.mono (by decide) (State.conclude_moves _ _ _ _))
      refine Moves.step ?_ (Moves.mono (by decide) (State.modParts_movesAll _ _ (fun _ => by exact Parts.keeps_of rfl)))
      exact hx0
  · exact Moves.refl _ _

theorem State.enrolAnswer_moves (p : Option Nat) (s : State) :
    Moves [.evc, .mbx, .fab, .parts, .ledger] s (State.enrolAnswer p s) := by
  unfold State.enrolAnswer
  split
  · split
    · refine Moves.ite (fun _ => ?_) (fun _ => ?_)
      · refine Moves.step ?_ (Moves.mono (by decide) (State.enrolVerified_moves _))
        exact Moves.refl _ _
      · refine Moves.step ?_ (Moves.mono (by decide) (State.countFailure_moves _ _ _ _ _))
        exact Moves.refl _ _
    · exact Moves.refl _ _
  · exact Moves.refl _ _

theorem doUplinkFrame_moves (coil : Nat) (frame : Option (Nat × Nat)) (s : State) :
    Moves [.evc, .mbx, .fab, .parts, .lf, .pop, .radio, .sess, .keys, .ledger, .health, .free] s (doUplinkFrame coil frame s) := by
  unfold doUplinkFrame
  split
  · refine Moves.ite (fun _ => ?_) (fun _ => ?_)
    · refine Moves.step ?_ (Moves.mono (by decide) (State.considerAll_moves _))
      refine Moves.step ?_ (Moves.mono (by decide) (State.endCoilBurst_moves _ _))
      refine Moves.step ?_ (Moves.mono (by decide) (State.enrolAnswer_moves _ _))
      exact Moves.refl _ _
    · split
      · extract_lets +onlyGivenNames x0
        have hx0 : MovesFst [.evc, .mbx, .fab, .parts, .lf, .pop, .radio, .sess, .keys, .ledger, .health, .free] s x0 := by
          refine MovesFst.step ?_ (Moves.mono (by decide) (State.coilAnswer_moves _ _ _))
          exact Moves.refl _ _
        clear_value x0
        refine Moves.ite (fun _ => ?_) (fun _ => ?_)
        · refine Moves.step ?_ (Moves.mono (by decide) (State.considerAll_moves _))
          refine Moves.step ?_ (Moves.mono (by decide) (State.endCoilBurst_moves _ _))
          show MovesFst _ _ _
          exact hx0
        · show MovesFst _ _ _
          exact hx0
      · refine Moves.step ?_ (Moves.mono (by decide) (State.considerAll_moves _))
        refine Moves.step ?_ (Moves.mono (by decide) (State.endCoilBurst_moves _ _))
        refine Moves.step ?_ (Moves.mono (by decide) (State.coilError_moves _ _))
        exact Moves.refl _ _
  · exact Moves.refl _ _

theorem doNoAnswer_moves (coil : Nat) (s : State) :
    Moves [.evc, .mbx, .parts, .lf, .pop, .radio, .sess, .keys, .ledger, .health, .free] s (doNoAnswer coil s) := by
  unfold doNoAnswer
  split
  · refine Moves.ite (fun _ => ?_) (fun _ => ?_)
    · refine Moves.step ?_ (Moves.mono (by decide) (State.considerAll_moves _))
      refine Moves.step ?_ (Moves.mono (by decide) (State.endCoilBurst_moves _ _))
      exact Moves.refl _ _
    · refine Moves.step ?_ (Moves.mono (by decide) (State.considerAll_moves _))
      refine Moves.step ?_ (Moves.mono (by decide) (State.endCoilBurst_moves _ _))
      refine Moves.step ?_ (Moves.mono (by decide) (State.coilSilent_moves _ _))
      exact Moves.refl _ _
  · exact Moves.refl _ _

theorem State.moduleChanged_moves (ident : Nat) (s : State) :
    Moves [.evc, .mbx, .parts, .lf, .pop, .radio, .sess, .keys, .ledger, .health, .free] s (State.moduleChanged ident s) := by
  unfold State.moduleChanged
  split
  · try extract_lets +onlyGivenNames x0
    try clear_value x0
    refine Moves.step ?_ (Moves.mono (by decide) (State.considerAll_moves _))
    refine Moves.foldl ?_ (fun x1 _ hx1 => ?_)
    · exact Moves.refl _ _
    · refine Moves.step ?_ (Moves.mono (by decide) (State.modCheck_moves _ _ (by intro k h; split <;> exact h)))
      refine Moves.step ?_ (Moves.mono (by decide) (State.modCoil_moves _ _ _))
      refine Moves.step ?_ (Moves.mono (by decide) (State.endCoilBurst_moves _ _))
      exact hx1
  · exact Moves.refl _ _

end Sys2Proof.Machine
end

