-- ==== Sys2Proof/Laws/Cipher.lean ====
section
/-!
SUPPORT. What the operations of Machine/Cipher.lean leave unchanged, and what they keep.
-/
namespace Sys2Proof.Machine

theorem State.modChan_moves (c : Nat) (f : Chan → Chan) (s : State) :
    Moves [.crypt] s (State.modChan c f s) := by
  unfold State.modChan
  refine Moves.step ?_ (Moves.mono (by decide) (State.modCrypt_moves _ _ (by simp +contextual [Crypt.Keeps, Crypt.Shaped] <;> intros <;> omega)))
  exact Moves.refl _ _

theorem State.modCtx_moves (n : Nat) (f : Context → Context) (s : State) :
    Moves [.crypt] s (State.modCtx n f s) := by
  unfold State.modCtx
  refine Moves.step ?_ (Moves.mono (by decide) (State.modCrypt_movesAll _ _ (fun _ => by exact Crypt.keeps_of rfl rfl rfl)))
  exact Moves.refl _ _

theorem Crypt.issueSlot_keeps (x : Crypt) : x.Keeps x.issueSlot := by
  intro h
  unfold Crypt.issueSlot
  split
  · exact h
  · exact ⟨(List.length_modify _ _ _).trans h.1, h.2⟩
  · exact h

theorem Crypt.issue_keeps (done : Crypt → Bool) (n : Nat) (x : Crypt) : x.Keeps (Crypt.issue done n x) := by
  induction n generalizing x with
  | zero => exact fun h => h
  | succ n ih =>
    unfold Crypt.issue
    split
    · exact fun h => h
    · exact fun h => ih _ (Crypt.issueSlot_keeps x h)

theorem State.issueChan_moves (c : Nat) (s : State) : Moves [.crypt] s (s.issueChan c) :=
  State.modCrypt_moves _ _ (Crypt.issue_keeps _ _ _)

theorem State.issueMacsec_moves (k len : Nat) (s : State) :
    Moves [.crypt] s (State.issueMacsec k len s) := by
  unfold State.issueMacsec
  refine Moves.step ?_ (Moves.mono (by decide) (State.modCrypt_moves _ _ (fun h => Crypt.issue_keeps _ _ _ h)))
  exact Moves.refl _ _

theorem State.deliverRec_moves (r : CompRec) (host notify : Bool) (post : Option Nat) (s : State) :
    Moves [.evc, .mbx, .fab, .crypt] s (State.deliverRec r host notify post s) := by
  unfold State.deliverRec
  extract_lets +onlyGivenNames x0
  have hx0 : Moves [.evc, .mbx, .fab, .crypt] s x0 := by
    unfold x0
    clear x0
    split
    · refine Moves.ite (fun _ => ?_) (fun _ => ?_)
      · refine Moves.step ?_ (Moves.mono (by decide) (State.post_moves _ _ _ _))
        exact Moves.refl _ _
      · exact Moves.refl _ _
    · refine Moves.ite (fun _ => ?_) (fun _ => ?_)
      · refine Moves.step ?_ (Moves.mono (by decide) (State.modCrypt_movesAll _ _ (fun _ => by exact Crypt.keeps_of rfl rfl rfl)))
        exact Moves.refl _ _
      · refine Moves.step ?_ (Moves.mono (by decide) (State.modChan_moves _ _ _))
        exact Moves.refl _ _
  clear_value x0
  refine Moves.ite (fun _ => ?_) (fun _ => ?_)
  · refine Moves.step ?_ (Moves.mono (by decide) (State.raise_moves _ _ _))
    exact hx0
  · exact hx0

theorem State.endMsg_moves (c : Nat) (m : Msg) (st bytes : Nat) (s : State) :
    Moves [.evc, .mbx, .fab, .crypt, .keys, .mem] s (State.endMsg c m st bytes s) := by
  unfold State.endMsg
  extract_lets +onlyGivenNames x0
  have hx0 : Moves [.evc, .mbx, .fab, .crypt, .keys, .mem] s x0 := by
    refine Moves.ite (fun _ => ?_) (fun _ => ?_)
    · refine Moves.step ?_ (Moves.mono (by decide) (State.scrub_moves _ _))
      exact Moves.refl _ _
    · exact Moves.refl _ _
  clear_value x0
  extract_lets +onlyGivenNames x1
  have hx1 : Moves [.evc, .mbx, .fab, .crypt, .keys, .mem] s x1 := by
    refine Moves.ite (fun _ => ?_) (fun _ => ?_)
    · refine Moves.step ?_ (Moves.mono (by decide) (State.dropHeld_moves _ _))
      exact hx0
    · exact hx0
  clear_value x1
  extract_lets +onlyGivenNames x2
  have hx2 : Moves [.evc, .mbx, .fab, .crypt, .keys, .mem] s x2 := by
    refine Moves.ite (fun _ => ?_) (fun _ => ?_)
    · exact hx1
    · refine Moves.step ?_ (Moves.mono (by decide) (State.modCtx_moves _ _ _))
      exact hx1
  clear_value x2
  refine Moves.step ?_ (Moves.mono (by decide) (State.dropShadow_moves _ _))
  refine Moves.step ?_ (Moves.mono (by decide) (State.deliverRec_moves _ _ _ _ _))
  exact hx2

theorem State.fillBuffers_moves (c : Nat) (s : State) :
    Moves [.crypt] s (State.fillBuffers c s) := by
  unfold State.fillBuffers
  split
  · refine Moves.ite (fun _ => ?_) (fun _ => ?_)
    · refine Moves.step ?_ (Moves.mono (by decide) (State.modChan_moves _ _ _))
      exact Moves.refl _ _
    · exact Moves.refl _ _
  · exact Moves.refl _ _

theorem State.resumeChan_moves (c : Nat) (s : State) :
    Moves [.fab, .crypt] s (State.resumeChan c s) := by
  unfold State.resumeChan
  extract_lets +onlyGivenNames x0
  have hx0 : Moves [.fab, .crypt] s x0 := by
    refine Moves.step ?_ (Moves.mono (by decide) (State.modChan_moves _ _ _))
    exact Moves.refl _ _
  clear_value x0
  refine Moves.step ?_ (Moves.mono (by decide) (State.fillBuffers_moves _ _))
  refine Moves.ite (fun _ => ?_) (fun _ => ?_)
  · refine Moves.step ?_ (Moves.mono (by decide) (State.moveHeld_moves _ _ _))
    exact hx0
  · exact hx0

theorem State.leave_moves (c : Nat) (s : State) :
    Moves [.fab, .crypt] s (State.leave c s) := by
  unfold State.leave
  refine Moves.step ?_ (Moves.mono (by decide) (State.resumeChan_moves _ _))
  refine Moves.step ?_ (Moves.mono (by decide) (State.modChan_moves _ _ _))
  exact Moves.refl _ _

theorem State.finish_moves (c st bytes : Nat) (s : State) :
    Moves [.evc, .mbx, .fab, .crypt, .keys, .mem] s (State.finish c st bytes s) := by
  unfold State.finish
  split
  · refine Moves.step ?_ (Moves.mono (by decide) (State.endMsg_moves _ _ _ _ _))
    refine Moves.step ?_ (Moves.mono (by decide) (State.leave_moves _ _))
    exact Moves.refl _ _
  · exact Moves.refl _ _

theorem State.finishAll_moves (c st : Nat) (s : State) :
    Moves [.evc, .mbx, .fab, .crypt, .keys, .mem] s (State.finishAll c st s) := by
  unfold State.finishAll
  split
  · refine Moves.ite (fun _ => ?_) (fun _ => ?_)
    · refine Moves.step ?_ (Moves.mono (by decide) (State.finish_moves _ _ _ _))
      exact Moves.refl _ _
    · try extract_lets +onlyGivenNames x0
      try clear_value x0
      extract_lets +onlyGivenNames x1
      have hx1 : Moves [.evc, .mbx, .fab, .crypt, .keys, .mem] s x1 := by
        refine Moves.step ?_ (Moves.mono (by decide) (State.finish_moves _ _ _ _))
        refine Moves.step ?_ (Moves.mono (by decide) (State.modChan_moves _ _ _))
        exact Moves.refl _ _
      clear_value x1
      refine Moves.foldl ?_ (fun x2 _ hx2 => ?_)
      · exact hx1
      · refine Moves.step ?_ (Moves.mono (by decide) (State.deliverRec_moves _ _ _ _ _))
        exact hx2
  · exact Moves.refl _ _

theorem State.placeDesc_moves (c : Nat) (q : QDesc) (s : State) :
    Moves [.crypt] s (State.placeDesc c q s) := by
  unfold State.placeDesc
  refine Moves.step ?_ (Moves.mono (by decide) (State.modChan_moves _ _ _))
  exact Moves.refl _ _

theorem State.killCur_moves (c st : Nat) (s : State) :
    Moves [.evc, .mbx, .fab, .crypt, .keys, .mem] s (State.killCur c st s) := by
  unfold State.killCur
  split
  · exact Moves.refl _ _
  · refine Moves.ite (fun _ => ?_) (fun _ => ?_)
    · refine Moves.step ?_ (Moves.mono (by decide) (State.modChan_moves _ _ _))
      exact Moves.refl _ _
    · refine Moves.step ?_ (Moves.mono (by decide) (State.finishAll_moves _ _ _))
      exact Moves.refl _ _

theorem State.killSusp_moves (c st : Nat) (s : State) :
    Moves [.evc, .mbx, .fab, .crypt, .keys, .mem] s (State.killSusp c st s) := by
  unfold State.killSusp
  split
  · exact Moves.refl _ _
  · try extract_lets +onlyGivenNames x0
    try clear_value x0
    extract_lets +onlyGivenNames x1
    have hx1 : Moves [.evc, .mbx, .fab, .crypt, .keys, .mem] s x1 := by
      refine Moves.step ?_ (Moves.mono (by decide) (State.endMsg_moves _ _ _ _ _))
      refine Moves.step ?_ (Moves.mono (by decide) (State.modChan_moves _ _ _))
      exact Moves.refl _ _
    clear_value x1
    refine Moves.ite (fun _ => ?_) (fun _ => ?_)
    · exact hx1
    · refine Moves.foldl ?_ (fun x2 _ hx2 => ?_)
      · exact hx1
      · refine Moves.step ?_ (Moves.mono (by decide) (State.deliverRec_moves _ _ _ _ _))
        exact hx2

theorem State.killQueued_moves (c st : Nat) (s : State) (q : QDesc) :
    Moves [.evc, .mbx, .fab, .crypt] s (State.killQueued c st s q) := by
  unfold State.killQueued
  refine Moves.ite (fun _ => ?_) (fun _ => ?_)
  · exact Moves.refl _ _
  · refine Moves.step ?_ (Moves.mono (by decide) (State.deliverRec_moves _ _ _ _ _))
    refine Moves.step ?_ (Moves.mono (by decide) (State.modChan_moves _ _ _))
    exact Moves.refl _ _

theorem State.segBroken_moves (c : Nat) (d : Desc) (s : State) :
    Moves [.evc, .mbx, .fab, .crypt, .keys, .mem] s (State.segBroken c d s) := by
  unfold State.segBroken
  try extract_lets +onlyGivenNames x0
  try clear_value x0
  try extract_lets +onlyGivenNames x1
  try clear_value x1
  refine Moves.ite (fun _ => ?_) (fun _ => ?_)
  · exact Moves.refl _ _
  · split
    · try extract_lets +onlyGivenNames x2
      try clear_value x2
      refine Moves.ite (fun _ => ?_) (fun _ => ?_)
      · refine Moves.step ?_ (Moves.mono (by decide) (State.killCur_moves _ _ _))
        exact Moves.refl _ _
      · refine Moves.step ?_ (Moves.mono (by decide) (State.killSusp_moves _ _ _))
        exact Moves.refl _ _
    · refine Moves.foldl ?_ (fun x3 _ hx3 => ?_)
      · exact Moves.refl _ _
      · refine Moves.step ?_ (Moves.mono (by decide) (State.killQueued_moves _ _ _ _))
        exact hx3

theorem State.refuseDesc_moves (c st : Nat) (s : State) :
    Moves [.crypt] s (State.refuseDesc c st s) := by
  unfold State.refuseDesc
  refine Moves.step ?_ (Moves.mono (by decide) (State.modChan_moves _ _ _))
  exact Moves.refl _ _

theorem doDescriptorQueued_moves (c : Nat) (d : Desc) (s : State) :
    Moves [.evc, .mbx, .fab, .crypt, .keys, .mem] s (doDescriptorQueued c d s) := by
  unfold doDescriptorQueued
  refine Moves.ite (fun _ => ?_) (fun _ => ?_)
  · exact Moves.refl _ _
  · split
    · refine Moves.step ?_ (Moves.mono (by decide) (State.refuseDesc_moves _ _ _))
      refine Moves.step ?_ (Moves.mono (by decide) (State.segBroken_moves _ _ _))
      exact Moves.refl _ _
    · refine Moves.ite (fun _ => ?_) (fun _ => ?_)
      · refine Moves.step ?_ (Moves.mono (by decide) (State.refuseDesc_moves _ _ _))
        exact Moves.refl _ _
      · refine Moves.step ?_ (Moves.mono (by decide) (State.modChan_moves _ _ _))
        refine Moves.step ?_ (Moves.mono (by decide) (State.placeDesc_moves _ _ _))
        exact Moves.refl _ _

theorem State.endQueued_moves (c i st : Nat) (s : State) :
    Moves [.evc, .mbx, .fab, .crypt] s (State.endQueued c i st s) := by
  unfold State.endQueued
  split
  · refine Moves.step ?_ (Moves.mono (by decide) (State.deliverRec_moves _ _ _ _ _))
    refine Moves.step ?_ (Moves.mono (by decide) (State.resumeChan_moves _ _))
    refine Moves.step ?_ (Moves.mono (by decide) (State.modChan_moves _ _ _))
    exact Moves.refl _ _
  · exact Moves.refl _ _

theorem State.takeNonce_moves (k : Nat) (s : State) :
    Moves [.keys] s (State.takeNonce k s) := by
  unfold State.takeNonce
  refine Moves.step ?_ (Moves.mono (by decide) (State.modSlot_moves _ _ _))
  exact Moves.refl _ _

theorem State.takeInvocation_moves (n : Nat) (s : State) :
    Moves [.crypt] s (State.takeInvocation n s) := by
  unfold State.takeInvocation
  refine Moves.ite (fun _ => ?_) (fun _ => ?_)
  · exact Moves.refl _ _
  · refine Moves.step ?_ (Moves.mono (by decide) (State.modCtx_moves _ _ _))
    exact Moves.refl _ _

theorem State.msgWrite_moves (c : Nat) (m : Msg) (a : Nat) (bs : List Byte) (s : State) :
    Moves [.fab, .mem] s (State.msgWrite c m a bs s) := by
  unfold State.msgWrite
  refine Moves.step ?_ (Moves.mono (by decide) (State.scatter_moves _ _ _))
  exact Moves.refl _ _

theorem State.retryKept_moves (c : Nat) (m : Msg) (s : State) :
    Moves [.fab, .mem] s (State.retryKept c m s) := by
  unfold State.retryKept
  split
  · refine Moves.step ?_ (Moves.mono (by decide) (State.msgWrite_moves _ _ _ _ _))
    exact Moves.refl _ _
  · exact Moves.refl _ _

theorem State.parkAt_moves (c n : Nat) (m0 : Msg) (s : State) :
    Moves [.fab, .mem] s (State.parkAt c n m0 s).1 := by
  show MovesFst _ _ _
  unfold State.parkAt
  try extract_lets +onlyGivenNames x0
  try clear_value x0
  try extract_lets +onlyGivenNames x1
  try clear_value x1
  try extract_lets +onlyGivenNames x2
  try clear_value x2
  refine MovesFst.ite (fun _ => ?_) (fun _ => ?_)
  · show Moves _ _ _
    exact Moves.refl _ _
  · try extract_lets +onlyGivenNames x3
    try clear_value x3
    try extract_lets +onlyGivenNames x4
    try clear_value x4
    show Moves _ _ _
    refine Moves.step ?_ (Moves.mono (by decide) (State.msgWrite_moves _ _ _ _ _))
    refine Moves.step ?_ (Moves.mono (by decide) (State.retryKept_moves _ _ _))
    exact Moves.refl _ _

theorem State.parkCur_moves (c : Nat) (s : State) :
    Moves [.fab, .crypt, .mem] s (State.parkCur c s) := by
  unfold State.parkCur
  split
  · refine Moves.ite (fun _ => ?_) (fun _ => ?_)
    · exact Moves.refl _ _
    · extract_lets +onlyGivenNames x0
      have hx0 : MovesFst [.fab, .crypt, .mem] s x0 := by
        refine MovesFst.step ?_ (Moves.mono (by decide) (State.parkAt_moves _ _ _ _))
        exact Moves.refl _ _
      clear_value x0
      refine Moves.step ?_ (Moves.mono (by decide) (State.modChan_moves _ _ _))
      show MovesFst _ _ _
      exact hx0
  · exact Moves.refl _ _

theorem State.admitNew_moves (c i : Nat) (q : QDesc) (s : State) :
    Moves [.evc, .mbx, .fab, .crypt, .keys, .mem] s (State.admitNew c i q s) := by
  unfold State.admitNew
  try extract_lets +onlyGivenNames x0
  try clear_value x0
  try extract_lets +onlyGivenNames x1
  try clear_value x1
  try extract_lets +onlyGivenNames x2
  try clear_value x2
  refine Moves.ite (fun _ => ?_) (fun _ => ?_)
  · refine Moves.ite (fun _ => ?_) (fun _ => ?_)
    · refine Moves.step ?_ (Moves.mono (by decide) (State.endQueued_moves _ _ _ _))
      exact Moves.refl _ _
    · exact Moves.refl _ _
  · split
    · extract_lets +onlyGivenNames x3
      have hx3 : Moves [.evc, .mbx, .fab, .crypt, .keys, .mem] s x3 := by
        refine Moves.ite (fun _ => ?_) (fun _ => ?_)
        · refine Moves.step ?_ (Moves.mono (by decide) (State.modCtx_moves _ _ _))
          exact Moves.refl _ _
        · exact Moves.refl _ _
      clear_value x3
      refine Moves.step ?_ (Moves.mono (by decide) (State.endQueued_moves _ _ _ _))
      exact hx3
    · refine Moves.ite (fun _ => ?_) (fun _ => ?_)
      · exact Moves.refl _ _
      · refine Moves.ite (fun _ => ?_) (fun _ => ?_)
        · refine Moves.step ?_ (Moves.mono (by decide) (State.endQueued_moves _ _ _ _))
          exact Moves.refl _ _
        · refine Moves.ite (fun _ => ?_) (fun _ => ?_)
          · exact Moves.refl _ _
          · try extract_lets +onlyGivenNames x4
            try clear_value x4
            try extract_lets +onlyGivenNames x5
            try clear_value x5
            extract_lets +onlyGivenNames x6
            have hx6 : Moves [.evc, .mbx, .fab, .crypt, .keys, .mem] s x6 := by
              refine Moves.step ?_ (Moves.mono (by decide) (State.modChan_moves _ _ _))
              refine Moves.step ?_ (Moves.mono (by decide) (State.moveHeld_moves _ _ _))
              refine Moves.step ?_ (Moves.mono (by decide) (State.parkCur_moves _ _))
              refine Moves.step ?_ (Moves.mono (by decide) (State.takeInvocation_moves _ _))
              exact Moves.refl _ _
            clear_value x6
            extract_lets +onlyGivenNames x7
            have hx7 : Moves [.evc, .mbx, .fab, .crypt, .keys, .mem] s x7 := by
              refine Moves.ite (fun _ => ?_) (fun _ => ?_)
              · refine Moves.step ?_ (Moves.mono (by decide) (State.takeNonce_moves _ _))
                exact hx6
              · exact hx6
            clear_value x7
            extract_lets +onlyGivenNames x8
            have hx8 : Moves [.evc, .mbx, .fab, .crypt, .keys, .mem] s x8 := by
              refine Moves.ite (fun _ => ?_) (fun _ => ?_)
              · refine Moves.step ?_ (Moves.mono (by decide) (State.holdPages_moves _ _ _))
                exact hx7
              · exact hx7
            clear_value x8
            refine Moves.ite (fun _ => ?_) (fun _ => ?_)
            · refine Moves.step ?_ (Moves.mono (by decide) (State.finishAll_moves _ _ _))
              exact hx8
            · exact hx8

theorem State.admitSegment_moves (c i : Nat) (q : QDesc) (m : Msg) (s : State) :
    Moves [.evc, .mbx, .fab, .crypt, .keys, .mem] s (State.admitSegment c i q m s) := by
  unfold State.admitSegment
  try extract_lets +onlyGivenNames x0
  try clear_value x0
  try extract_lets +onlyGivenNames x1
  try clear_value x1
  try extract_lets +onlyGivenNames x2
  try clear_value x2
  try extract_lets +onlyGivenNames x3
  try clear_value x3
  try extract_lets +onlyGivenNames x4
  try clear_value x4
  extract_lets +onlyGivenNames x5
  have hx5 : Moves [.evc, .mbx, .fab, .crypt, .keys, .mem] s x5 := by
    refine Moves.step ?_ (Moves.mono (by decide) (State.modChan_moves _ _ _))
    exact Moves.refl _ _
  clear_value x5
  refine Moves.ite (fun _ => ?_) (fun _ => ?_)
  · refine Moves.step ?_ (Moves.mono (by decide) (State.finishAll_moves _ _ _))
    exact hx5
  · refine Moves.ite (fun _ => ?_) (fun _ => ?_)
    · refine Moves.ite (fun _ => ?_) (fun _ => ?_)
      · refine Moves.step ?_ (Moves.mono (by decide) (State.finishAll_moves _ _ _))
        exact hx5
      · exact Moves.refl _ _
    · refine Moves.ite (fun _ => ?_) (fun _ => ?_)
      · exact Moves.refl _ _
      · refine Moves.ite (fun _ => ?_) (fun _ => ?_)
        · refine Moves.step ?_ (Moves.mono (by decide) (State.finishAll_moves _ _ _))
          exact hx5
        · refine Moves.ite (fun _ => ?_) (fun _ => ?_)
          · refine Moves.step ?_ (Moves.mono (by decide) (State.holdPages_moves _ _ _))
            exact hx5
          · exact hx5

theorem State.admitDetached_moves (c i : Nat) (q : QDesc) (s : State) :
    Moves [.evc, .mbx, .fab, .crypt, .mem] s (State.admitDetached c i q s) := by
  unfold State.admitDetached
  try extract_lets +onlyGivenNames x0
  try clear_value x0
  try extract_lets +onlyGivenNames x1
  try clear_value x1
  try extract_lets +onlyGivenNames x2
  try clear_value x2
  refine Moves.ite (fun _ => ?_) (fun _ => ?_)
  · refine Moves.ite (fun _ => ?_) (fun _ => ?_)
    · refine Moves.step ?_ (Moves.mono (by decide) (State.endQueued_moves _ _ _ _))
      exact Moves.refl _ _
    · exact Moves.refl _ _
  · split
    · refine Moves.step ?_ (Moves.mono (by decide) (State.endQueued_moves _ _ _ _))
      exact Moves.refl _ _
    · refine Moves.ite (fun _ => ?_) (fun _ => ?_)
      · refine Moves.step ?_ (Moves.mono (by decide) (State.endQueued_moves _ _ _ _))
        exact Moves.refl _ _
      · extract_lets +onlyGivenNames x3
        try extract_lets +onlyGivenNames x4
        try clear_value x4
        extract_lets +onlyGivenNames x5
        have hx5 : Moves [.evc, .mbx, .fab, .crypt, .mem] s x5 := by
          refine Moves.step ?_ (Moves.mono (by decide) (State.modChan_moves _ _ _))
          refine Moves.step ?_ (Moves.mono (by decide) (State.moveHeld_moves _ _ _))
          refine Moves.step ?_ (Moves.mono (by decide) (State.parkCur_moves _ _))
          exact Moves.refl _ _
        clear_value x5
        refine Moves.step ?_ (Moves.mono (by decide) (State.holdPages_moves _ _ _))
        exact hx5

theorem doRequestAdmission_moves (c : Nat) (s : State) :
    Moves [.evc, .mbx, .fab, .crypt, .keys, .mem] s (doRequestAdmission c s) := by
  unfold doRequestAdmission
  refine Moves.ite (fun _ => ?_) (fun _ => ?_)
  · exact Moves.refl _ _
  · try extract_lets +onlyGivenNames x0
    try clear_value x0
    split
    · exact Moves.refl _ _
    · split
      · exact Moves.refl _ _
      · refine Moves.ite (fun _ => ?_) (fun _ => ?_)
        · exact Moves.refl _ _
        · refine Moves.ite (fun _ => ?_) (fun _ => ?_)
          · refine Moves.step ?_ (Moves.mono (by decide) (State.endQueued_moves _ _ _ _))
            exact Moves.refl _ _
          · refine Moves.ite (fun _ => ?_) (fun _ => ?_)
            · refine Moves.step ?_ (Moves.mono (by decide) (State.admitNew_moves _ _ _ _))
              exact Moves.refl _ _
            · split
              · refine Moves.step ?_ (Moves.mono (by decide) (State.admitSegment_moves _ _ _ _ _))
                exact Moves.refl _ _
              · refine Moves.ite (fun _ => ?_) (fun _ => ?_)
                · refine Moves.step ?_ (Moves.mono (by decide) (State.admitDetached_moves _ _ _ _))
                  exact Moves.refl _ _
                · refine Moves.step ?_ (Moves.mono (by decide) (State.endQueued_moves _ _ _ _))
                  exact Moves.refl _ _

theorem State.ctxProgress_moves (m : Msg) (s : State) :
    Moves [.crypt] s (State.ctxProgress m s) := by
  unfold State.ctxProgress
  refine Moves.ite (fun _ => ?_) (fun _ => ?_)
  · exact Moves.refl _ _
  · refine Moves.step ?_ (Moves.mono (by decide) (State.modCtx_moves _ _ _))
    exact Moves.refl _ _

theorem State.process_moves (c : Nat) (m0 : Msg) (s : State) :
    Moves [.evc, .mbx, .fab, .crypt, .keys, .mem] s (State.process c m0 s) := by
  unfold State.process
  try extract_lets +onlyGivenNames x0
  try clear_value x0
  try extract_lets +onlyGivenNames x1
  try clear_value x1
  try extract_lets +onlyGivenNames x2
  try clear_value x2
  try extract_lets +onlyGivenNames x3
  try clear_value x3
  try extract_lets +onlyGivenNames x4
  try clear_value x4
  try extract_lets +onlyGivenNames x5
  try clear_value x5
  extract_lets +onlyGivenNames x6
  have hx6 : Moves [.evc, .mbx, .fab, .crypt, .keys, .mem] s x6 := by
    refine Moves.step ?_ (Moves.mono (by decide) (State.retryKept_moves _ _ _))
    exact Moves.refl _ _
  clear_value x6
  refine Moves.ite (fun _ => ?_) (fun _ => ?_)
  · refine Moves.step ?_ (Moves.mono (by decide) (State.finishAll_moves _ _ _))
    refine Moves.step ?_ (Moves.mono (by decide) (State.msgWrite_moves _ _ _ _ _))
    exact hx6
  · extract_lets +onlyGivenNames x7
    have hx7 : Moves [.evc, .mbx, .fab, .crypt, .keys, .mem] s x7 := by
      refine Moves.ite (fun _ => ?_) (fun _ => ?_)
      · refine Moves.step ?_ (Moves.mono (by decide) (State.scatter_moves _ _ _))
        exact hx6
      · refine Moves.step ?_ (Moves.mono (by decide) (State.msgWrite_moves _ _ _ _ _))
        exact hx6
    clear_value x7
    extract_lets +onlyGivenNames x8
    have hx8 : Moves [.evc, .mbx, .fab, .crypt, .keys, .mem] s x8 := by
      refine Moves.ite (fun _ => ?_) (fun _ => ?_)
      · refine Moves.step ?_ (Moves.mono (by decide) (State.msgWrite_moves _ _ _ _ _))
        exact hx7
      · exact hx7
    clear_value x8
    refine Moves.ite (fun _ => ?_) (fun _ => ?_)
    · extract_lets +onlyGivenNames x9
      have hx9 : Moves [.evc, .mbx, .fab, .crypt, .keys, .mem] s x9 := by
        refine Moves.ite (fun _ => ?_) (fun _ => ?_)
        · refine Moves.step ?_ (Moves.mono (by decide) (State.msgWrite_moves _ _ _ _ _))
          exact hx8
        · exact hx8
      clear_value x9
      refine Moves.ite (fun _ => ?_) (fun _ => ?_)
      · refine Moves.step ?_ (Moves.mono (by decide) (State.finish_moves _ _ _ _))
        exact hx9
      · refine Moves.step ?_ (Moves.mono (by decide) (State.finish_moves _ _ _ _))
        exact hx9
    · try extract_lets +onlyGivenNames x10
      try clear_value x10
      refine Moves.step ?_ (Moves.mono (by decide) (State.deliverRec_moves _ _ _ _ _))
      refine Moves.step ?_ (Moves.mono (by decide) (State.ctxProgress_moves _ _))
      refine Moves.step ?_ (Moves.mono (by decide) (State.modChan_moves _ _ _))
      exact hx8

theorem doCompletionRecord_moves (c : Nat) (s : State) :
    Moves [.evc, .mbx, .fab, .crypt, .keys, .mem] s (doCompletionRecord c s) := by
  unfold doCompletionRecord
  split
  · exact Moves.refl _ _
  · refine Moves.ite (fun _ => ?_) (fun _ => ?_)
    · exact Moves.refl _ _
    · split
      · refine Moves.step ?_ (Moves.mono (by decide) (State.finishAll_moves _ _ _))
        exact Moves.refl _ _
      · refine Moves.ite (fun _ => ?_) (fun _ => ?_)
        · exact Moves.refl _ _
        · refine Moves.ite (fun _ => ?_) (fun _ => ?_)
          · refine Moves.step ?_ (Moves.mono (by decide) (State.finishAll_moves _ _ _))
            exact Moves.refl _ _
          · refine Moves.ite (fun _ => ?_) (fun _ => ?_)
            · refine Moves.step ?_ (Moves.mono (by decide) (State.finishAll_moves _ _ _))
              exact Moves.refl _ _
            · refine Moves.ite (fun _ => ?_) (fun _ => ?_)
              · exact Moves.refl _ _
              · extract_lets +onlyGivenNames x0
                have hx0 : Moves [.evc, .mbx, .fab, .crypt, .keys, .mem] s x0 := by
                  refine Moves.step ?_ (Moves.mono (by decide) (State.issueChan_moves _ _))
                  exact Moves.refl _ _
                clear_value x0
                refine Moves.step ?_ (Moves.mono (by decide) (State.process_moves _ _ _))
                exact hx0

theorem doNonceMarkAdvanceDone_moves (k : Nat) (s : State) :
    Moves [.keys] s (doNonceMarkAdvanceDone k s) := by
  unfold doNonceMarkAdvanceDone
  refine Moves.ite (fun _ => ?_) (fun _ => ?_)
  · refine Moves.step ?_ (Moves.mono (by decide) (State.modSlot_moves _ _ _))
    exact Moves.refl _ _
  · exact Moves.refl _ _

theorem State.killWhere_moves (hit : Desc → Bool) (st : Nat) (s : State) :
    Moves [.evc, .mbx, .fab, .crypt, .keys, .mem] s (State.killWhere hit st s) := by
  unfold State.killWhere
  refine Moves.foldl ?_ (fun x0 _ hx0 => ?_)
  · exact Moves.refl _ _
  · try extract_lets +onlyGivenNames x1
    try clear_value x1
    extract_lets +onlyGivenNames x2
    have hx2 : Moves [.evc, .mbx, .fab, .crypt, .keys, .mem] s x2 := by
      refine Moves.ite (fun _ => ?_) (fun _ => ?_)
      · refine Moves.step ?_ (Moves.mono (by decide) (State.killSusp_moves _ _ _))
        exact hx0
      · exact hx0
    clear_value x2
    extract_lets +onlyGivenNames x3
    have hx3 : Moves [.evc, .mbx, .fab, .crypt, .keys, .mem] s x3 := by
      refine Moves.ite (fun _ => ?_) (fun _ => ?_)
      · refine Moves.step ?_ (Moves.mono (by decide) (State.killCur_moves _ _ _))
        exact hx2
      · exact hx2
    clear_value x3
    refine Moves.step ?_ (Moves.mono (by decide) (State.resumeChan_moves _ _))
    refine Moves.foldl ?_ (fun x4 _ hx4 => ?_)
    · exact hx3
    · refine Moves.step ?_ (Moves.mono (by decide) (State.killQueued_moves _ _ _ _))
      exact hx4

theorem State.eraseHealth_moves (action : Nat) (s : State) :
    Moves [.evc, .ledger, .health, .free] s (State.eraseHealth action s) := by
  unfold State.eraseHealth
  refine Moves.step ?_ (Moves.mono (by decide) (State.healthFree_moves _ _ _ _))
  exact Moves.refl _ _

theorem State.drawWrapKey_moves (s : State) :
    Moves [.crypt, .free] s (State.drawWrapKey s) := by
  unfold State.drawWrapKey
  refine Moves.step ?_ (Moves.mono (by decide) (State.drawn_moves _))
  refine Moves.step ?_ (Moves.mono (by decide) (State.modCrypt_movesAll _ _ (fun _ => by exact Crypt.keeps_of rfl rfl rfl)))
  exact Moves.refl _ _

theorem State.avalanche_moves (s : State) :
    Moves [.evc, .sess, .crypt, .ledger, .health, .free] s (State.avalanche s) := by
  unfold State.avalanche
  try extract_lets +onlyGivenNames x0
  try clear_value x0
  extract_lets +onlyGivenNames x1
  have hx1 : Moves [.evc, .sess, .crypt, .ledger, .health, .free] s x1 := by
    refine Moves.step ?_ (Moves.mono (by decide) (State.modCrypt_moves _ _ (by simp +contextual [Crypt.Keeps, Crypt.Shaped] <;> intros <;> omega)))
    exact Moves.refl _ _
  clear_value x1
  extract_lets +onlyGivenNames x2
  have hx2 : Moves [.evc, .sess, .crypt, .ledger, .health, .free] s x2 := by
    refine Moves.step ?_ (Moves.mono (by decide) (State.modSess_moves _ _))
    exact hx1
  clear_value x2
  refine Moves.step ?_ (Moves.mono (by decide) (State.raise_moves _ _ _))
  refine Moves.step ?_ (Moves.mono (by decide) (State.eraseHealth_moves _ _))
  exact hx2

theorem State.eraseSlot_moves (k : Nat) (s : State) :
    Moves [.evc, .mbx, .fab, .parts, .pop, .sess, .crypt, .keys, .net, .mem] s (State.eraseSlot k s) := by
  unfold State.eraseSlot
  extract_lets +onlyGivenNames x0
  have hx0 : Moves [.evc, .mbx, .fab, .parts, .pop, .sess, .crypt, .keys, .net, .mem] s x0 := by
    refine Moves.step ?_ (Moves.mono (by decide) (State.modSlot_moves _ _ _))
    exact Moves.refl _ _
  clear_value x0
  extract_lets +onlyGivenNames x1
  have hx1 : Moves [.evc, .mbx, .fab, .parts, .pop, .sess, .crypt, .keys, .net, .mem] s x1 := by
    refine Moves.step ?_ (Moves.mono (by decide) (State.killWhere_moves _ _ _))
    exact hx0
  clear_value x1
  try extract_lets +onlyGivenNames x2
  try clear_value x2
  extract_lets +onlyGivenNames x3
  have hx3 : Moves [.evc, .mbx, .fab, .parts, .pop, .sess, .crypt, .keys, .net, .mem] s x3 := by
    refine Moves.step ?_ (Moves.mono (by decide) (State.modCrypt_moves _ _ (by simp +contextual [Crypt.Keeps, Crypt.Shaped] <;> intros <;> omega)))
    exact hx1
  clear_value x3
  extract_lets +onlyGivenNames x4
  have hx4 : Moves [.evc, .mbx, .fab, .parts, .pop, .sess, .crypt, .keys, .net, .mem] s x4 := by
    refine Moves.step ?_ (Moves.mono (by decide) (State.modSess_moves _ _))
    exact hx3
  clear_value x4
  extract_lets +onlyGivenNames x5
  have hx5 : Moves [.evc, .mbx, .fab, .parts, .pop, .sess, .crypt, .keys, .net, .mem] s x5 := by
    refine Moves.step ?_ (Moves.mono (by decide) (State.modPop_moves _ _ (by simp +contextual [Pop.Keeps, Pop.Shaped] <;> intros <;> omega)))
    exact hx4
  clear_value x5
  extract_lets +onlyGivenNames x6
  have hx6 : Moves [.evc, .mbx, .fab, .parts, .pop, .sess, .crypt, .keys, .net, .mem] s x6 := by
    refine Moves.step ?_ (Moves.mono (by decide) (State.modParts_movesAll _ _ (fun _ => by exact Parts.keeps_of rfl)))
    exact hx5
  clear_value x6
  refine Moves.step ?_ (Moves.mono (by decide) (State.modNet_movesAll _ _ (fun _ => by exact Net.keeps_of rfl rfl rfl rfl rfl rfl rfl rfl rfl rfl)))
  exact hx6

theorem State.keyEntry_moves (k op : Nat) (s : State) :
    Moves [.evc, .ledger] s (State.keyEntry k op s) := by
  unfold State.keyEntry
  try extract_lets +onlyGivenNames x0
  try clear_value x0
  refine Moves.step ?_ (Moves.mono (by decide) (State.ledgerAdd_moves _ _ _ _))
  exact Moves.refl _ _

theorem State.zeroise_moves (s : State) :
    Moves [.evc, .mbx, .fab, .parts, .pop, .sess, .crypt, .keys, .ledger, .health, .net, .mem, .free] s (State.zeroise s) := by
  unfold State.zeroise
  extract_lets +onlyGivenNames x0
  have hx0 : Moves [.evc, .mbx, .fab, .parts, .pop, .sess, .crypt, .keys, .ledger, .health, .net, .mem, .free] s x0 := by
    refine Moves.foldl ?_ (fun x1 _ hx1 => ?_)
    · exact Moves.refl _ _
    · refine Moves.step ?_ (Moves.mono (by decide) (State.keyEntry_moves _ _ _))
      refine Moves.step ?_ (Moves.mono (by decide) (State.eraseSlot_moves _ _))
      exact hx1
  clear_value x0
  extract_lets +onlyGivenNames x2
  have hx2 : Moves [.evc, .mbx, .fab, .parts, .pop, .sess, .crypt, .keys, .ledger, .health, .net, .mem, .free] s x2 := by
    refine Moves.step ?_ (Moves.mono (by decide) (State.modCrypt_movesAll _ _ (fun _ => by exact Crypt.keeps_of rfl rfl rfl)))
    exact hx0
  clear_value x2
  extract_lets +onlyGivenNames x3
  have hx3 : Moves [.evc, .mbx, .fab, .parts, .pop, .sess, .crypt, .keys, .ledger, .health, .net, .mem, .free] s x3 := by
    refine Moves.ite (fun _ => ?_) (fun _ => ?_)
    · exact hx2
    · refine Moves.step ?_ (Moves.mono (by decide) (State.drawWrapKey_moves _))
      exact hx2
  clear_value x3
  refine Moves.step ?_ (Moves.mono (by decide) (State.raise_moves _ _ _))
  refine Moves.step ?_ (Moves.mono (by decide) (State.eraseHealth_moves _ _))
  exact hx3

theorem State.submitBreaks_moves (mb : Nat) (s : State) :
    Moves [.evc, .mbx, .fab, .crypt, .keys, .mem] s (State.submitBreaks mb s) := by
  unfold State.submitBreaks
  try extract_lets +onlyGivenNames x0
  try clear_value x0
  refine Moves.ite (fun _ => ?_) (fun _ => ?_)
  · refine Moves.step ?_ (Moves.mono (by decide) (State.segBroken_moves _ _ _))
    exact Moves.refl _ _
  · exact Moves.refl _ _

end Sys2Proof.Machine
end

