-- ==== Sys2Proof/Laws/Segment.lean ====
section
/-!
SUPPORT. What the operations of Machine/Segment.lean leave unchanged, and what they keep.
-/
namespace Sys2Proof.Machine

theorem State.rxFrame_moves (port : Nat) (s : State) :
    Moves [.net] s (State.rxFrame port s) := by
  unfold State.rxFrame
  refine Moves.step ?_ (Moves.mono (by decide) (State.modStat_moves _ _ _))
  exact Moves.refl _ _

theorem State.txFrame_moves (port : Nat) (bs : List Byte) (s : State) :
    Moves [.net] s (State.txFrame port bs s) := by
  unfold State.txFrame
  refine Moves.step ?_ (Moves.mono (by decide) (State.modNet_movesAll _ _ (fun _ => by exact Net.keeps_of rfl rfl rfl rfl rfl rfl rfl rfl rfl rfl)))
  refine Moves.step ?_ (Moves.mono (by decide) (State.modStat_moves _ _ _))
  exact Moves.refl _ _

theorem State.dropFrame_moves (port : Nat) (s : State) :
    Moves [.net] s (State.dropFrame port s) := by
  unfold State.dropFrame
  refine Moves.step ?_ (Moves.mono (by decide) (State.modStat_moves _ _ _))
  exact Moves.refl _ _

theorem State.putNode_moves (n : NodeSess) (s : State) :
    Moves [.net] s (State.putNode n s) := by
  unfold State.putNode
  refine Moves.step ?_ (Moves.mono (by decide) (State.modNet_movesAll _ _ (fun _ => by exact Net.keeps_of rfl rfl rfl rfl rfl rfl rfl rfl rfl rfl)))
  exact Moves.refl _ _

theorem State.challengeNode_moves (code ident : Nat) (b : Binding) (expected enrolling : Bool) (s : State) :
    Moves [.net, .free] s (State.challengeNode code ident b expected enrolling s) := by
  unfold State.challengeNode
  try extract_lets +onlyGivenNames x0
  try clear_value x0
  try extract_lets +onlyGivenNames x1
  try clear_value x1
  refine Moves.step ?_ (Moves.mono (by decide) (State.drawn_moves _))
  refine Moves.step ?_ (Moves.mono (by decide) (State.txFrame_moves _ _ _))
  refine Moves.step ?_ (Moves.mono (by decide) (State.putNode_moves _ _))
  exact Moves.refl _ _

theorem State.challengeRec_moves (code : Nat) (r : PartRec) (expected : Bool) (s : State) :
    Moves [.net, .free] s (State.challengeRec code r expected s) := by
  unfold State.challengeRec
  refine Moves.step ?_ (Moves.mono (by decide) (State.challengeNode_moves _ _ _ _ _ _))
  exact Moves.refl _ _

theorem State.holdFrame_moves (type seg : Nat) (frame : List Byte) (at_ : Nat) (s : State) :
    Moves [.net] s (State.holdFrame type seg frame at_ s) := by
  unfold State.holdFrame
  refine Moves.step ?_ (Moves.mono (by decide) (State.modNet_movesAll _ _ (fun _ => by exact Net.keeps_of rfl rfl rfl rfl rfl rfl rfl rfl rfl rfl)))
  exact Moves.refl _ _

theorem State.nodeLocked_moves (code ident : Nat) (s : State) :
    Moves [.evc, .parts, .ledger] s (State.nodeLocked code ident s).2 := by
  show MovesSnd _ _ _
  unfold State.nodeLocked
  extract_lets +onlyGivenNames x0
  have hx0 : Moves [.evc, .parts, .ledger] s x0 := by
    refine Moves.step ?_ (Moves.mono (by decide) (State.evalIdentity_moves _ _))
    refine Moves.step ?_ (Moves.mono (by decide) (State.evalAttach_moves _ _))
    exact Moves.refl _ _
  clear_value x0
  show Moves _ _ _
  exact hx0

theorem State.announced_moves (code : Nat) (r : PartRec) (frame : List Byte) (s : State) :
    Moves [.evc, .parts, .ledger, .net, .free] s (State.announced code r frame s) := by
  unfold State.announced
  split
  · refine Moves.ite (fun _ => ?_) (fun _ => ?_)
    · refine Moves.step ?_ (Moves.mono (by decide) (State.challengeRec_moves _ _ _ _))
      exact Moves.refl _ _
    · refine Moves.step ?_ (Moves.mono (by decide) (State.countFailure_moves _ _ _ _ _))
      exact Moves.refl _ _
  · exact Moves.refl _ _

theorem State.nodeAnnounce_moves (seg : Nat) (frame : List Byte) (s1 : State) :
    Moves [.evc, .parts, .ledger, .net, .free] s1 (State.nodeAnnounce seg frame s1) := by
  unfold State.nodeAnnounce
  split
  · refine Moves.ite (fun _ => ?_) (fun _ => ?_)
    · refine Moves.step ?_ (Moves.mono (by decide) (State.dropFrame_moves _ _))
      exact Moves.refl _ _
    · try extract_lets +onlyGivenNames x0
      try clear_value x0
      extract_lets +onlyGivenNames x1
      have hx1 : MovesSnd [.evc, .parts, .ledger, .net, .free] s1 x1 := by
        refine MovesSnd.step ?_ (Moves.mono (by decide) (State.nodeLocked_moves _ _ _))
        exact Moves.refl _ _
      clear_value x1
      refine Moves.ite (fun _ => ?_) (fun _ => ?_)
      · show MovesSnd _ _ _
        exact hx1
      · split
        · refine Moves.ite (fun _ => ?_) (fun _ => ?_)
          · refine Moves.step ?_ (Moves.mono (by decide) (State.metIdentity_moves _ _ _ _))
            show MovesSnd _ _ _
            exact hx1
          · refine Moves.ite (fun _ => ?_) (fun _ => ?_)
            · refine Moves.ite (fun _ => ?_) (fun _ => ?_)
              · refine Moves.step ?_ (Moves.mono (by decide) (State.holdFrame_moves _ _ _ _ _))
                show MovesSnd _ _ _
                exact hx1
              · refine Moves.step ?_ (Moves.mono (by decide) (State.announced_moves _ _ _ _))
                show MovesSnd _ _ _
                exact hx1
            · show MovesSnd _ _ _
              exact hx1
        · refine Moves.step ?_ (Moves.mono (by decide) (State.metIdentity_moves _ _ _ _))
          show MovesSnd _ _ _
          exact hx1
  · refine Moves.step ?_ (Moves.mono (by decide) (State.dropFrame_moves _ _))
    exact Moves.refl _ _

theorem doAnnounceFrame_moves (seg : Nat) (frame : List Byte) (s : State) :
    Moves [.evc, .parts, .ledger, .net, .free] s (doAnnounceFrame seg frame s) := by
  unfold doAnnounceFrame
  refine Moves.ite (fun _ => ?_) (fun _ => ?_)
  · exact Moves.refl _ _
  · refine Moves.step ?_ (Moves.mono (by decide) (State.nodeAnnounce_moves _ _ _))
    refine Moves.step ?_ (Moves.mono (by decide) (State.rxFrame_moves _ _))
    exact Moves.refl _ _

theorem State.checkNode_moves (r : PartRec) (s : State) :
    Moves [.evc, .parts, .ledger, .net, .free] s (State.checkNode r s) := by
  unfold State.checkNode
  extract_lets +onlyGivenNames x0
  have hx0 : MovesSnd [.evc, .parts, .ledger, .net, .free] s x0 := by
    refine MovesSnd.step ?_ (Moves.mono (by decide) (State.nodeLocked_moves _ _ _))
    exact Moves.refl _ _
  clear_value x0
  refine Moves.ite (fun _ => ?_) (fun _ => ?_)
  · show MovesSnd _ _ _
    exact hx0
  · refine Moves.step ?_ (Moves.mono (by decide) (State.challengeRec_moves _ _ _ _))
    show MovesSnd _ _ _
    exact hx0

theorem doNodeCheck_moves (s : State) :
    Moves [.evc, .parts, .ledger, .net, .free] s (doNodeCheck s) := by
  unfold doNodeCheck
  refine Moves.foldl ?_ (fun x0 _ hx0 => ?_)
  · exact Moves.refl _ _
  · refine Moves.step ?_ (Moves.mono (by decide) (State.checkNode_moves _ _))
    exact hx0

theorem State.dropBinding_moves (b : Option Binding) (s : State) :
    Moves [.keys] s (State.dropBinding b s) := by
  unfold State.dropBinding
  split
  · refine Moves.step ?_ (Moves.mono (by decide) (State.dropShadow_moves _ _))
    exact Moves.refl _ _
  · exact Moves.refl _ _

theorem State.challengeOver_moves (n : NodeSess) (s : State) :
    Moves [.evc, .parts, .keys, .ledger, .net] s (State.challengeOver n s) := by
  unfold State.challengeOver
  extract_lets +onlyGivenNames x0
  have hx0 : Moves [.evc, .parts, .keys, .ledger, .net] s x0 := by
    refine Moves.step ?_ (Moves.mono (by decide) (State.dropBinding_moves _ _))
    refine Moves.step ?_ (Moves.mono (by decide) (State.putNode_moves _ _))
    exact Moves.refl _ _
  clear_value x0
  refine Moves.ite (fun _ => ?_) (fun _ => ?_)
  · refine Moves.step ?_ (Moves.mono (by decide) (State.missedCheck_moves _ _))
    exact hx0
  · exact hx0

theorem State.nodeVerified_moves (n : NodeSess) (s : State) :
    Moves [.evc, .mbx, .fab, .parts, .keys, .ledger, .net] s (State.nodeVerified n s) := by
  unfold State.nodeVerified
  extract_lets +onlyGivenNames x0
  have hx0 : Moves [.evc, .mbx, .fab, .parts, .keys, .ledger, .net] s x0 := by
    refine Moves.step ?_ (Moves.mono (by decide) (State.dropBinding_moves _ _))
    refine Moves.step ?_ (Moves.mono (by decide) (State.putNode_moves _ _))
    exact Moves.refl _ _
  clear_value x0
  refine Moves.ite (fun _ => ?_) (fun _ => ?_)
  · refine Moves.step ?_ (Moves.mono (by decide) (State.enrolVerified_moves _))
    exact hx0
  · refine Moves.step ?_ (Moves.mono (by decide) (State.verifiedExchange_moves _ _))
    exact hx0

theorem State.nodeResponse_moves (seg : Nat) (frame : List Byte) (at_ : Nat) (s1 : State) :
    Moves [.evc, .mbx, .fab, .parts, .keys, .ledger, .net] s1 (State.nodeResponse seg frame at_ s1) := by
  unfold State.nodeResponse
  split
  · try extract_lets +onlyGivenNames x0
    try clear_value x0
    split
    · refine Moves.ite (fun _ => ?_) (fun _ => ?_)
      · exact Moves.refl _ _
      · refine Moves.ite (fun _ => ?_) (fun _ => ?_)
        · refine Moves.step ?_ (Moves.mono (by decide) (State.holdFrame_moves _ _ _ _ _))
          exact Moves.refl _ _
        · split
          · refine Moves.ite (fun _ => ?_) (fun _ => ?_)
            · refine Moves.step ?_ (Moves.mono (by decide) (State.nodeVerified_moves _ _))
              exact Moves.refl _ _
            · refine Moves.step ?_ (Moves.mono (by decide) (State.countFailure_moves _ _ _ _ _))
              refine Moves.step ?_ (Moves.mono (by decide) (State.challengeOver_moves _ _))
              exact Moves.refl _ _
          · exact Moves.refl _ _
    · exact Moves.refl _ _
  · refine Moves.step ?_ (Moves.mono (by decide) (State.dropFrame_moves _ _))
    exact Moves.refl _ _

theorem doSegmentResponse_moves (seg : Nat) (frame : List Byte) (s : State) :
    Moves [.evc, .mbx, .fab, .parts, .keys, .ledger, .net] s (doSegmentResponse seg frame s) := by
  unfold doSegmentResponse
  refine Moves.ite (fun _ => ?_) (fun _ => ?_)
  · exact Moves.refl _ _
  · refine Moves.step ?_ (Moves.mono (by decide) (State.nodeResponse_moves _ _ _ _))
    refine Moves.step ?_ (Moves.mono (by decide) (State.rxFrame_moves _ _))
    exact Moves.refl _ _

theorem doSegmentResponseMiss_moves (code : Nat) (s : State) :
    Moves [.evc, .parts, .keys, .ledger, .net] s (doSegmentResponseMiss code s) := by
  unfold doSegmentResponseMiss
  try extract_lets +onlyGivenNames x0
  try clear_value x0
  split
  · refine Moves.ite (fun _ => ?_) (fun _ => ?_)
    · refine Moves.step ?_ (Moves.mono (by decide) (State.challengeOver_moves _ _))
      exact Moves.refl _ _
    · exact Moves.refl _ _
  · exact Moves.refl _ _

theorem State.enrolNode_moves (e : Enrolment) (s : State) :
    Moves [.evc, .mbx, .fab, .parts, .ledger, .net, .free] s (State.enrolNode e s) := by
  unfold State.enrolNode
  extract_lets +onlyGivenNames x0
  have hx0 : MovesSnd [.evc, .mbx, .fab, .parts, .ledger, .net, .free] s x0 := by
    refine MovesSnd.step ?_ (Moves.mono (by decide) (State.enrolLocked_moves _ _))
    exact Moves.refl _ _
  clear_value x0
  refine Moves.ite (fun _ => ?_) (fun _ => ?_)
  · refine Moves.step ?_ (Moves.mono (by decide) (State.endEnrol_moves _ _ _))
    show MovesSnd _ _ _
    exact hx0
  · try extract_lets +onlyGivenNames x1
    try clear_value x1
    refine Moves.step ?_ (Moves.mono (by decide) (State.modParts_movesAll _ _ (fun _ => by exact Parts.keeps_of rfl)))
    refine Moves.step ?_ (Moves.mono (by decide) (State.challengeNode_moves _ _ _ _ _ _))
    show MovesSnd _ _ _
    exact hx0

theorem doEnrolChallengeRetry_moves (s : State) :
    Moves [.evc, .mbx, .fab, .parts, .ledger, .net, .free] s (doEnrolChallengeRetry s) := by
  unfold doEnrolChallengeRetry
  split
  · try extract_lets +onlyGivenNames x0
    try clear_value x0
    refine Moves.ite (fun _ => ?_) (fun _ => ?_)
    · refine Moves.step ?_ (Moves.mono (by decide) (State.enrolNode_moves _ _))
      exact Moves.refl _ _
    · exact Moves.refl _ _
  · exact Moves.refl _ _

theorem State.nodeData_moves (n : NodeSess) (frame : List Byte) (s : State) :
    Moves [.evc, .parts, .ledger, .net] s (State.nodeData n frame s) := by
  unfold State.nodeData
  split
  · try extract_lets +onlyGivenNames x0
    try clear_value x0
    try extract_lets +onlyGivenNames x1
    try clear_value x1
    refine Moves.ite (fun _ => ?_) (fun _ => ?_)
    · refine Moves.step ?_ (Moves.mono (by decide) (State.countFailure_moves _ _ _ _ _))
      exact Moves.refl _ _
    · refine Moves.ite (fun _ => ?_) (fun _ => ?_)
      · refine Moves.step ?_ (Moves.mono (by decide) (State.modStat_moves _ _ _))
        exact Moves.refl _ _
      · refine Moves.step ?_ (Moves.mono (by decide) (State.modNet_movesAll _ _ (fun _ => by exact Net.keeps_of rfl rfl rfl rfl rfl rfl rfl rfl rfl rfl)))
        refine Moves.step ?_ (Moves.mono (by decide) (State.putNode_moves _ _))
        exact Moves.refl _ _
  · exact Moves.refl _ _

theorem State.nodeDataFrame_moves (seg : Nat) (frame : List Byte) (s1 : State) :
    Moves [.evc, .parts, .ledger, .net] s1 (State.nodeDataFrame seg frame s1) := by
  unfold State.nodeDataFrame
  split
  · try extract_lets +onlyGivenNames x0
    try clear_value x0
    try extract_lets +onlyGivenNames x1
    try clear_value x1
    extract_lets +onlyGivenNames x2
    have hx2 : MovesSnd [.evc, .parts, .ledger, .net] s1 x2 := by
      refine MovesSnd.step ?_ (Moves.mono (by decide) (State.nodeLocked_moves _ _ _))
      exact Moves.refl _ _
    clear_value x2
    try extract_lets +onlyGivenNames x3
    try clear_value x3
    refine Moves.ite (fun _ => ?_) (fun _ => ?_)
    · show MovesSnd _ _ _
      exact hx2
    · refine Moves.ite (fun _ => ?_) (fun _ => ?_)
      · refine Moves.step ?_ (Moves.mono (by decide) (State.holdFrame_moves _ _ _ _ _))
        show MovesSnd _ _ _
        exact hx2
      · refine Moves.step ?_ (Moves.mono (by decide) (State.nodeData_moves _ _ _))
        show MovesSnd _ _ _
        exact hx2
  · refine Moves.step ?_ (Moves.mono (by decide) (State.dropFrame_moves _ _))
    exact Moves.refl _ _

theorem doSegmentData_moves (seg : Nat) (frame : List Byte) (s : State) :
    Moves [.evc, .parts, .ledger, .net] s (doSegmentData seg frame s) := by
  unfold doSegmentData
  refine Moves.ite (fun _ => ?_) (fun _ => ?_)
  · exact Moves.refl _ _
  · refine Moves.step ?_ (Moves.mono (by decide) (State.nodeDataFrame_moves _ _ _))
    refine Moves.step ?_ (Moves.mono (by decide) (State.rxFrame_moves _ _))
    exact Moves.refl _ _

theorem State.takeSealed_moves (q : Nat × Nat × List Byte × Nat) (s : State) :
    Moves [.evc, .mbx, .fab, .parts, .keys, .ledger, .net, .free] s (State.takeSealed q s) := by
  unfold State.takeSealed
  refine Moves.ite (fun _ => ?_) (fun _ => ?_)
  · refine Moves.step ?_ (Moves.mono (by decide) (State.nodeAnnounce_moves _ _ _))
    exact Moves.refl _ _
  · refine Moves.ite (fun _ => ?_) (fun _ => ?_)
    · refine Moves.step ?_ (Moves.mono (by decide) (State.nodeResponse_moves _ _ _ _))
      exact Moves.refl _ _
    · refine Moves.step ?_ (Moves.mono (by decide) (State.nodeDataFrame_moves _ _ _))
      exact Moves.refl _ _

theorem State.serveSealed_moves (s : State) :
    Moves [.evc, .mbx, .fab, .parts, .keys, .ledger, .net, .free] s (State.serveSealed s) := by
  unfold State.serveSealed
  refine Moves.foldl ?_ (fun x0 _ hx0 => ?_)
  · refine Moves.step ?_ (Moves.mono (by decide) (State.modNet_movesAll _ _ (fun _ => by exact Net.keeps_of rfl rfl rfl rfl rfl rfl rfl rfl rfl rfl)))
    exact Moves.refl _ _
  · refine Moves.step ?_ (Moves.mono (by decide) (State.takeSealed_moves _ _))
    exact hx0

theorem State.installEntry_moves (s : State) :
    Moves [.evc, .ledger, .free] s (State.installEntry s) := by
  unfold State.installEntry
  refine Moves.step ?_ (Moves.mono (by decide) (State.drawn_moves _))
  refine Moves.step ?_ (Moves.mono (by decide) (State.ledgerAdd_moves _ _ _ _))
  exact Moves.refl _ _

theorem doNodeIdClash_moves (seg : Nat) (s : State) :
    Moves [.evc, .ledger, .net, .free] s (doNodeIdClash seg s) := by
  unfold doNodeIdClash
  try extract_lets +onlyGivenNames x0
  try clear_value x0
  refine Moves.ite (fun _ => ?_) (fun _ => ?_)
  · refine Moves.step ?_ (Moves.mono (by decide) (State.raise_moves _ _ _))
    refine Moves.step ?_ (Moves.mono (by decide) (State.installEntry_moves _))
    refine Moves.step ?_ (Moves.mono (by decide) (State.modNet_moves _ _ (by simp +contextual [Net.Keeps, Net.Shaped] <;> intros <;> omega)))
    exact Moves.refl _ _
  · exact Moves.refl _ _

end Sys2Proof.Machine
end

