-- ==== Sys2Proof/Laws/Metering.lean ====
section
/-!
SUPPORT. What the operations of Machine/Metering.lean leave unchanged, and what they keep.
-/
namespace Sys2Proof.Machine

theorem State.setBalance_moves (v : Int) (s : State) :
    Moves [.met, .free] s (State.setBalance v s) := by
  unfold State.setBalance
  try extract_lets +onlyGivenNames x0
  try clear_value x0
  try extract_lets +onlyGivenNames x1
  try clear_value x1
  extract_lets +onlyGivenNames x2
  have hx2 : Moves [.met, .free] s x2 := by
    refine Moves.ite (fun _ => ?_) (fun _ => ?_)
    · exact Moves.refl _ _
    · refine Moves.step ?_ (Moves.mono (by decide) (State.drawn_moves _))
      exact Moves.refl _ _
  clear_value x2
  refine Moves.step ?_ (Moves.mono (by decide) (State.modMet_movesAll _ _ (fun _ => by exact Met.keeps_of rfl)))
  exact hx2

theorem State.bill_moves (p : Int × Int) (s : State) :
    Moves [.met, .free] s (State.bill p s) := by
  unfold State.bill
  try extract_lets +onlyGivenNames x0
  try clear_value x0
  try extract_lets +onlyGivenNames x1
  try clear_value x1
  extract_lets +onlyGivenNames x2
  have hx2 : Moves [.met, .free] s x2 := by
    refine Moves.step ?_ (Moves.mono (by decide) (State.modMet_movesAll _ _ (fun _ => by exact Met.keeps_of rfl)))
    exact Moves.refl _ _
  clear_value x2
  refine Moves.ite (fun _ => ?_) (fun _ => ?_)
  · exact hx2
  · refine Moves.step ?_ (Moves.mono (by decide) (State.setBalance_moves _ _))
    exact hx2

theorem State.intervalFlag_moves (b : Nat) (s : State) :
    Moves [.met] s (State.intervalFlag b s) := by
  unfold State.intervalFlag
  refine Moves.step ?_ (Moves.mono (by decide) (State.modMet_movesAll _ _ (fun _ => by exact Met.keeps_of rfl)))
  exact Moves.refl _ _

theorem State.integrate_moves (ys : List (Option Nat)) (s : State) :
    Moves [.met, .free] s (State.integrate ys s) := by
  unfold State.integrate
  try extract_lets +onlyGivenNames x0
  try clear_value x0
  try extract_lets +onlyGivenNames x1
  try clear_value x1
  extract_lets +onlyGivenNames x2
  have hx2 : Moves [.met, .free] s x2 := by
    refine Moves.step ?_ (Moves.mono (by decide) (State.modMet_movesAll _ _ (fun _ => by exact Met.keeps_of rfl)))
    exact Moves.refl _ _
  clear_value x2
  try extract_lets +onlyGivenNames x3
  try clear_value x3
  try extract_lets +onlyGivenNames x4
  try clear_value x4
  extract_lets +onlyGivenNames x5
  have hx5 : Moves [.met, .free] s x5 := by
    unfold x5
    clear x5
    split
    · refine Moves.step ?_ (Moves.mono (by decide) (State.bill_moves _ _))
      refine Moves.ite (fun _ => ?_) (fun _ => ?_)
      · refine Moves.step ?_ (Moves.mono (by decide) (State.intervalFlag_moves _ _))
        exact hx2
      · exact hx2
    · refine Moves.step ?_ (Moves.mono (by decide) (State.modMet_movesAll _ _ (fun _ => by exact Met.keeps_of rfl)))
      refine Moves.step ?_ (Moves.mono (by decide) (State.intervalFlag_moves _ _))
      exact hx2
  clear_value x5
  extract_lets +onlyGivenNames x6
  have hx6 : Moves [.met, .free] s x6 := by
    refine Moves.ite (fun _ => ?_) (fun _ => ?_)
    · exact hx5
    · refine Moves.step ?_ (Moves.mono (by decide) (State.intervalFlag_moves _ _))
      exact hx5
  clear_value x6
  refine Moves.step ?_ (Moves.mono (by decide) (State.modMet_moves _ _ (by simp +contextual [Met.Keeps, Met.Shaped] <;> intros <;> omega)))
  exact hx6

theorem State.meterEntry_moves (cond input : Nat) (on : Bool) (s : State) :
    Moves [.evc, .met, .ledger] s (State.meterEntry cond input on s) := by
  unfold State.meterEntry
  refine Moves.step ?_ (Moves.mono (by decide) (State.raise_moves _ _ _))
  refine Moves.step ?_ (Moves.mono (by decide) (State.ledgerAdd_moves _ _ _ _))
  refine Moves.step ?_ (Moves.mono (by decide) (State.modMet_movesAll _ _ (fun _ => by exact Met.keeps_of rfl)))
  exact Moves.refl _ _

theorem State.setStuck_moves (n : Nat) (on : Bool) (s : State) :
    Moves [.evc, .met, .ledger] s (State.setStuck n on s) := by
  unfold State.setStuck
  refine Moves.ite (fun _ => ?_) (fun _ => ?_)
  · exact Moves.refl _ _
  · refine Moves.step ?_ (Moves.mono (by decide) (State.meterEntry_moves _ _ _ _))
    refine Moves.step ?_ (Moves.mono (by decide) (State.modMet_movesAll _ _ (fun _ => by exact Met.keeps_of rfl)))
    exact Moves.refl _ _

theorem State.setOverload_moves (n : Nat) (on : Bool) (s : State) :
    Moves [.evc, .met, .ledger] s (State.setOverload n on s) := by
  unfold State.setOverload
  refine Moves.ite (fun _ => ?_) (fun _ => ?_)
  · exact Moves.refl _ _
  · refine Moves.step ?_ (Moves.mono (by decide) (State.meterEntry_moves _ _ _ _))
    refine Moves.step ?_ (Moves.mono (by decide) (State.modMet_movesAll _ _ (fun _ => by exact Met.keeps_of rfl)))
    exact Moves.refl _ _

theorem State.clearOverloads_moves (s : State) :
    Moves [.evc, .met, .ledger] s (State.clearOverloads s) := by
  unfold State.clearOverloads
  try extract_lets +onlyGivenNames x0
  try clear_value x0
  refine Moves.foldl ?_ (fun x1 _ hx1 => ?_)
  · exact Moves.refl _ _
  · refine Moves.ite (fun _ => ?_) (fun _ => ?_)
    · exact hx1
    · refine Moves.step ?_ (Moves.mono (by decide) (State.setOverload_moves _ _ _))
      exact hx1

theorem State.judgeDisagree_moves (s : State) :
    Moves [.evc, .met, .ledger] s (State.judgeDisagree s) := by
  unfold State.judgeDisagree
  try extract_lets +onlyGivenNames x0
  try clear_value x0
  try extract_lets +onlyGivenNames x1
  try clear_value x1
  try extract_lets +onlyGivenNames x2
  try clear_value x2
  try extract_lets +onlyGivenNames x3
  try clear_value x3
  try extract_lets +onlyGivenNames x4
  try clear_value x4
  try extract_lets +onlyGivenNames x5
  try clear_value x5
  extract_lets +onlyGivenNames x6
  have hx6 : Moves [.evc, .met, .ledger] s x6 := by
    refine Moves.step ?_ (Moves.mono (by decide) (State.modMet_movesAll _ _ (fun _ => by exact Met.keeps_of rfl)))
    exact Moves.refl _ _
  clear_value x6
  extract_lets +onlyGivenNames x7
  have hx7 : Moves [.evc, .met, .ledger] s x7 := by
    refine Moves.ite (fun _ => ?_) (fun _ => ?_)
    · refine Moves.step ?_ (Moves.mono (by decide) (State.meterEntry_moves _ _ _ _))
      refine Moves.step ?_ (Moves.mono (by decide) (State.modMet_movesAll _ _ (fun _ => by exact Met.keeps_of rfl)))
      exact hx6
    · exact hx6
  clear_value x7
  refine Moves.ite (fun _ => ?_) (fun _ => ?_)
  · refine Moves.step ?_ (Moves.mono (by decide) (State.meterEntry_moves _ _ _ _))
    refine Moves.step ?_ (Moves.mono (by decide) (State.modMet_movesAll _ _ (fun _ => by exact Met.keeps_of rfl)))
    exact hx7
  · exact hx7

theorem State.restartMeter_moves (s : State) :
    Moves [.met] s (State.restartMeter s) := by
  unfold State.restartMeter
  refine Moves.step ?_ (Moves.mono (by decide) (State.modMet_moves _ _ (by simp +contextual [Met.Keeps, Met.Shaped] <;> intros <;> omega)))
  exact Moves.refl _ _

theorem State.stopMeter_moves (s : State) :
    Moves [.met] s (State.stopMeter s) := by
  unfold State.stopMeter
  refine Moves.ite (fun _ => ?_) (fun _ => ?_)
  · exact Moves.refl _ _
  · refine Moves.step ?_ (Moves.mono (by decide) (State.modMet_movesAll _ _ (fun _ => by exact Met.keeps_of rfl)))
    refine Moves.step ?_ (Moves.mono (by decide) (State.restartMeter_moves _))
    exact Moves.refl _ _

theorem State.commitCounters_moves (s : State) :
    Moves [.met] s (State.commitCounters s) := by
  unfold State.commitCounters
  refine Moves.step ?_ (Moves.mono (by decide) (State.modMet_movesAll _ _ (fun _ => by exact Met.keeps_of rfl)))
  exact Moves.refl _ _

theorem State.recallCounters_moves (s : State) :
    Moves [.met] s (State.recallCounters s) := by
  unfold State.recallCounters
  refine Moves.step ?_ (Moves.mono (by decide) (State.modMet_movesAll _ _ (fun _ => by exact Met.keeps_of rfl)))
  exact Moves.refl _ _

theorem State.countStopped_moves (s : State) :
    Moves [.met] s (State.countStopped s) := by
  unfold State.countStopped
  split
  · refine Moves.step ?_ (Moves.mono (by decide) (State.modMet_movesAll _ _ (fun _ => by exact Met.keeps_of rfl)))
    refine Moves.step ?_ (Moves.mono (by decide) (State.intervalFlag_moves _ _))
    refine Moves.step ?_ (Moves.mono (by decide) (State.intervalFlag_moves _ _))
    exact Moves.refl _ _
  · exact Moves.refl _ _

theorem State.summaryPair_moves (intervals : Nat) (s : State) :
    Moves [.evc, .met, .ledger] s (State.summaryPair intervals s) := by
  unfold State.summaryPair
  try extract_lets +onlyGivenNames x0
  try clear_value x0
  try extract_lets +onlyGivenNames x1
  try clear_value x1
  try extract_lets +onlyGivenNames x2
  try clear_value x2
  extract_lets +onlyGivenNames x3
  have hx3 : Moves [.evc, .met, .ledger] s x3 := by
    refine Moves.step ?_ (Moves.mono (by decide) (State.modLedger_movesAll _ _ (fun _ => by exact Ledger.keeps_of rfl rfl rfl rfl)))
    refine Moves.step ?_ (Moves.mono (by decide) (State.ledgerPair_moves _ _ _))
    exact Moves.refl _ _
  clear_value x3
  extract_lets +onlyGivenNames x4
  have hx4 : Moves [.evc, .met, .ledger] s x4 := by
    refine Moves.ite (fun _ => ?_) (fun _ => ?_)
    · exact hx3
    · refine Moves.step ?_ (Moves.mono (by decide) (State.raise_moves _ _ _))
      exact hx3
  clear_value x4
  refine Moves.step ?_ (Moves.mono (by decide) (State.modMet_movesAll _ _ (fun _ => by exact Met.keeps_of rfl)))
  exact hx4

theorem doSummaryBoundary_moves (s : State) :
    Moves [.evc, .met, .ledger] s (doSummaryBoundary s) := by
  unfold doSummaryBoundary
  refine Moves.ite (fun _ => ?_) (fun _ => ?_)
  · exact Moves.refl _ _
  · try extract_lets +onlyGivenNames x0
    try clear_value x0
    refine Moves.step ?_ (Moves.mono (by decide) (State.modMet_movesAll _ _ (fun _ => by exact Met.keeps_of rfl)))
    refine Moves.step ?_ (Moves.mono (by decide) (State.summaryPair_moves _ _))
    refine Moves.step ?_ (Moves.mono (by decide) (State.commitCounters_moves _))
    refine Moves.step ?_ (Moves.mono (by decide) (State.countStopped_moves _))
    exact Moves.refl _ _

theorem doCounterCommit_moves (s : State) :
    Moves [.met] s (doCounterCommit s) := by
  unfold doCounterCommit
  refine Moves.ite (fun _ => ?_) (fun _ => ?_)
  · exact Moves.refl _ _
  · refine Moves.step ?_ (Moves.mono (by decide) (State.commitCounters_moves _))
    exact Moves.refl _ _

theorem doHealthSummaryHour_moves (s : State) :
    Moves [.evc, .ledger, .health] s (doHealthSummaryHour s) := by
  unfold doHealthSummaryHour
  try extract_lets +onlyGivenNames x0
  try clear_value x0
  try extract_lets +onlyGivenNames x1
  try clear_value x1
  refine Moves.foldl ?_ (fun x2 _ hx2 => ?_)
  · refine Moves.step ?_ (Moves.mono (by decide) (State.modHealth_movesAll _ _ (fun _ => by exact Health.keeps_of rfl rfl)))
    exact Moves.refl _ _
  · refine Moves.step ?_ (Moves.mono (by decide) (State.healthPut_moves _ _))
    exact hx2

theorem State.enterStatistics_moves (s : State) :
    Moves [.evc, .ledger, .health, .free] s (State.enterStatistics s) := by
  unfold State.enterStatistics
  refine Moves.foldl ?_ (fun x0 _ hx0 => ?_)
  · exact Moves.refl _ _
  · refine Moves.step ?_ (Moves.mono (by decide) (State.healthFree_moves _ _ _ _))
    exact hx0

theorem doStatisticsHour_moves (s : State) :
    Moves [.evc, .ledger, .health, .net, .free] s (doStatisticsHour s) := by
  unfold doStatisticsHour
  refine Moves.ite (fun _ => ?_) (fun _ => ?_)
  · exact Moves.refl _ _
  · refine Moves.step ?_ (Moves.mono (by decide) (State.modNet_movesAll _ _ (fun _ => by exact Net.keeps_of rfl rfl rfl rfl rfl rfl rfl rfl rfl rfl)))
    refine Moves.step ?_ (Moves.mono (by decide) (State.enterStatistics_moves _))
    exact Moves.refl _ _

end Sys2Proof.Machine
end

