-- ==== Sys2Proof/Laws/Network.lean ====
section
/-!
SUPPORT. What the operations of Machine/Network.lean leave unchanged, and what they keep.
-/
namespace Sys2Proof.Machine

theorem State.modSa_moves (s : State) (c : Nat) (f : Sa → Sa) :
    Moves [.crypt] s (State.modSa s c f) := by
  unfold State.modSa
  refine Moves.step ?_ (Moves.mono (by decide) (State.modCrypt_moves _ _ (by simp +contextual [Crypt.Keeps, Crypt.Shaped] <;> intros <;> omega)))
  exact Moves.refl _ _

theorem State.drawSak_moves (port : Nat) (s : State) :
    Moves [.crypt, .net, .free] s (State.drawSak port s) := by
  unfold State.drawSak
  try extract_lets +onlyGivenNames x0
  try clear_value x0
  try extract_lets +onlyGivenNames x1
  try clear_value x1
  refine Moves.step ?_ (Moves.mono (by decide) (State.drawn_moves _))
  refine Moves.step ?_ (Moves.mono (by decide) (State.modNet_moves _ _ (by simp +contextual [Net.Keeps, Net.Shaped] <;> intros <;> omega)))
  refine Moves.step ?_ (Moves.mono (by decide) (State.modSa_moves _ _ _))
  exact Moves.refl _ _

theorem State.renewSak_moves (port : Nat) (s : State) :
    Moves [.crypt, .net, .free] s (State.renewSak port s) := by
  unfold State.renewSak
  refine Moves.ite (fun _ => ?_) (fun _ => ?_)
  · refine Moves.step ?_ (Moves.mono (by decide) (State.drawSak_moves _ _))
    exact Moves.refl _ _
  · exact Moves.refl _ _

theorem State.useSak_moves (port an num : Nat) (a : Sa) (s : State) :
    Moves [.evc, .crypt, .net] s (State.useSak port an num a s) := by
  unfold State.useSak
  refine Moves.step ?_ (Moves.mono (by decide) (State.raise_moves _ _ _))
  refine Moves.step ?_ (Moves.mono (by decide) (State.modNet_moves _ _ (by simp +contextual [Net.Keeps, Net.Shaped] <;> intros <;> omega)))
  refine Moves.step ?_ (Moves.mono (by decide) (State.modSa_moves _ _ _))
  exact Moves.refl _ _

theorem State.takeSak_moves (port an suite num : Nat) (key : List Byte) (s : State) :
    Moves [.evc, .crypt, .net] s (State.takeSak port an suite num key s) := by
  unfold State.takeSak
  try extract_lets +onlyGivenNames x0
  try clear_value x0
  refine Moves.step ?_ (Moves.mono (by decide) (State.useSak_moves _ _ _ _ _))
  refine Moves.step ?_ (Moves.mono (by decide) (State.modSa_moves _ _ _))
  exact Moves.refl _ _

theorem doMkaHello_moves (port : Nat) (s : State) :
    Moves [.net] s (doMkaHello port s) := by
  unfold doMkaHello
  refine Moves.ite (fun _ => ?_) (fun _ => ?_)
  · refine Moves.step ?_ (Moves.mono (by decide) (State.modNet_moves _ _ (by simp +contextual [Net.Keeps, Net.Shaped] <;> intros <;> omega)))
    refine Moves.step ?_ (Moves.mono (by decide) (State.txFrame_moves _ _ _))
    exact Moves.refl _ _
  · exact Moves.refl _ _

theorem State.mkaHeard_moves (port sci priority num : Nat) (ack : Bool) (sak : Option (Nat × Nat × List Byte)) (s : State) :
    Moves [.evc, .crypt, .net, .free] s (State.mkaHeard port sci priority num ack sak s) := by
  unfold State.mkaHeard
  try extract_lets +onlyGivenNames x0
  try clear_value x0
  extract_lets +onlyGivenNames x1
  have hx1 : Moves [.evc, .crypt, .net, .free] s x1 := by
    refine Moves.step ?_ (Moves.mono (by decide) (State.modNet_moves _ _ (by simp +contextual [Net.Keeps, Net.Shaped] <;> intros <;> omega)))
    exact Moves.refl _ _
  clear_value x1
  extract_lets +onlyGivenNames x2
  have hx2 : Moves [.evc, .crypt, .net, .free] s x2 := by
    unfold x2
    clear x2
    split
    · split
      · refine Moves.ite (fun _ => ?_) (fun _ => ?_)
        · exact hx1
        · refine Moves.step ?_ (Moves.mono (by decide) (State.takeSak_moves _ _ _ _ _ _))
          exact hx1
      · exact hx1
    · refine Moves.ite (fun _ => ?_) (fun _ => ?_)
      · refine Moves.step ?_ (Moves.mono (by decide) (State.useSak_moves _ _ _ _ _))
        exact hx1
      · exact hx1
  clear_value x2
  refine Moves.ite (fun _ => ?_) (fun _ => ?_)
  · exact hx2
  · refine Moves.step ?_ (Moves.mono (by decide) (State.renewSak_moves _ _))
    exact hx2

theorem doMkaPdu_moves (port sci priority : Nat) (ack : Bool) (sak : Option (Nat × Nat × List Byte)) (pdu icv : List Byte) (s : State) :
    Moves [.evc, .crypt, .net, .free] s (doMkaPdu port sci priority ack sak pdu icv s) := by
  unfold doMkaPdu
  refine Moves.ite (fun _ => ?_) (fun _ => ?_)
  · exact Moves.refl _ _
  · split
    · refine Moves.step ?_ (Moves.mono (by decide) (State.mkaHeard_moves _ _ _ _ _ _ _))
      refine Moves.step ?_ (Moves.mono (by decide) (State.rxFrame_moves _ _))
      exact Moves.refl _ _
    · refine Moves.step ?_ (Moves.mono (by decide) (State.rxFrame_moves _ _))
      exact Moves.refl _ _

theorem doMkaLifeExpiry_moves (port : Nat) (s : State) :
    Moves [.crypt, .net, .free] s (doMkaLifeExpiry port s) := by
  unfold doMkaLifeExpiry
  try extract_lets +onlyGivenNames x0
  try clear_value x0
  refine Moves.ite (fun _ => ?_) (fun _ => ?_)
  · extract_lets +onlyGivenNames x1
    have hx1 : Moves [.crypt, .net, .free] s x1 := by
      refine Moves.step ?_ (Moves.mono (by decide) (State.modNet_moves _ _ (by simp +contextual [Net.Keeps, Net.Shaped] <;> intros <;> omega)))
      exact Moves.refl _ _
    clear_value x1
    refine Moves.ite (fun _ => ?_) (fun _ => ?_)
    · refine Moves.step ?_ (Moves.mono (by decide) (State.modNet_moves _ _ (by simp +contextual [Net.Keeps, Net.Shaped] <;> intros <;> omega)))
      refine Moves.foldl ?_ (fun x2 _ hx2 => ?_)
      · exact hx1
      · refine Moves.step ?_ (Moves.mono (by decide) (State.modSa_moves _ _ _))
        exact hx2
    · refine Moves.step ?_ (Moves.mono (by decide) (State.renewSak_moves _ _))
      exact hx1
  · exact Moves.refl _ _

theorem State.holdMac_moves (c : Nat) (header data : List Byte) (s : State) :
    Moves [.crypt, .net] s (State.holdMac c header data s) := by
  unfold State.holdMac
  refine Moves.ite (fun _ => ?_) (fun _ => ?_)
  · refine Moves.step ?_ (Moves.mono (by decide) (State.modStat_moves _ _ _))
    exact Moves.refl _ _
  · refine Moves.step ?_ (Moves.mono (by decide) (State.modCrypt_movesAll _ _ (fun _ => by exact Crypt.keeps_of rfl rfl rfl)))
    exact Moves.refl _ _

theorem State.sendMacsec_moves (port : Nat) (header data : List Byte) (s : State) :
    Moves [.evc, .crypt, .net, .free] s (State.sendMacsec port header data s) := by
  unfold State.sendMacsec
  try extract_lets +onlyGivenNames x0
  try clear_value x0
  try extract_lets +onlyGivenNames x1
  try clear_value x1
  refine Moves.ite (fun _ => ?_) (fun _ => ?_)
  · exact Moves.refl _ _
  · try extract_lets +onlyGivenNames x2
    try clear_value x2
    try extract_lets +onlyGivenNames x3
    try clear_value x3
    try extract_lets +onlyGivenNames x4
    try clear_value x4
    extract_lets +onlyGivenNames x5
    have hx5 : Moves [.evc, .crypt, .net, .free] s x5 := by
      refine Moves.step ?_ (Moves.mono (by decide) (State.txFrame_moves _ _ _))
      refine Moves.step ?_ (Moves.mono (by decide) (State.modSa_moves _ _ _))
      refine Moves.step ?_ (Moves.mono (by decide) (State.issueMacsec_moves _ _ _))
      exact Moves.refl _ _
    clear_value x5
    extract_lets +onlyGivenNames x6
    have hx6 : Moves [.evc, .crypt, .net, .free] s x6 := by
      refine Moves.ite (fun _ => ?_) (fun _ => ?_)
      · refine Moves.step ?_ (Moves.mono (by decide) (State.raise_moves _ _ _))
        exact hx5
      · exact hx5
    clear_value x6
    refine Moves.ite (fun _ => ?_) (fun _ => ?_)
    · refine Moves.step ?_ (Moves.mono (by decide) (State.renewSak_moves _ _))
      exact hx6
    · exact hx6

theorem doMacsecTxFrame_moves (port : Nat) (header data : List Byte) (s : State) :
    Moves [.evc, .crypt, .net, .free] s (doMacsecTxFrame port header data s) := by
  unfold doMacsecTxFrame
  try extract_lets +onlyGivenNames x0
  try clear_value x0
  refine Moves.ite (fun _ => ?_) (fun _ => ?_)
  · exact Moves.refl _ _
  · refine Moves.ite (fun _ => ?_) (fun _ => ?_)
    · refine Moves.step ?_ (Moves.mono (by decide) (State.holdMac_moves _ _ _ _))
      exact Moves.refl _ _
    · refine Moves.step ?_ (Moves.mono (by decide) (State.sendMacsec_moves _ _ _ _))
      exact Moves.refl _ _

theorem State.verifyMacsec_moves (port : Nat) (f : SecFrame) (s : State) :
    Moves [.crypt, .net] s (State.verifyMacsec port f s) := by
  unfold State.verifyMacsec
  try extract_lets +onlyGivenNames x0
  try clear_value x0
  try extract_lets +onlyGivenNames x1
  try clear_value x1
  try extract_lets +onlyGivenNames x2
  try clear_value x2
  try extract_lets +onlyGivenNames x3
  try clear_value x3
  refine Moves.ite (fun _ => ?_) (fun _ => ?_)
  · refine Moves.step ?_ (Moves.mono (by decide) (State.dropFrame_moves _ _))
    exact Moves.refl _ _
  · try extract_lets +onlyGivenNames x4
    try clear_value x4
    extract_lets +onlyGivenNames x5
    have hx5 : Moves [.crypt, .net] s x5 := by
      refine Moves.step ?_ (Moves.mono (by decide) (State.issueMacsec_moves _ _ _))
      exact Moves.refl _ _
    clear_value x5
    try extract_lets +onlyGivenNames x6
    try clear_value x6
    try extract_lets +onlyGivenNames x7
    try clear_value x7
    refine Moves.ite (fun _ => ?_) (fun _ => ?_)
    · refine Moves.step ?_ (Moves.mono (by decide) (State.modNet_movesAll _ _ (fun _ => by exact Net.keeps_of rfl rfl rfl rfl rfl rfl rfl rfl rfl rfl)))
      refine Moves.step ?_ (Moves.mono (by decide) (State.modSa_moves _ _ _))
      exact hx5
    · refine Moves.step ?_ (Moves.mono (by decide) (State.modStat_moves _ _ _))
      exact hx5

theorem State.takeMacsec_moves (port : Nat) (frame : List Byte) (s : State) :
    Moves [.crypt, .net] s (State.takeMacsec port frame s) := by
  unfold State.takeMacsec
  split
  · refine Moves.step ?_ (Moves.mono (by decide) (State.verifyMacsec_moves _ _ _))
    exact Moves.refl _ _
  · refine Moves.step ?_ (Moves.mono (by decide) (State.dropFrame_moves _ _))
    exact Moves.refl _ _

theorem doMacsecRxFrame_moves (port : Nat) (frame : List Byte) (s : State) :
    Moves [.crypt, .net] s (doMacsecRxFrame port frame s) := by
  unfold doMacsecRxFrame
  refine Moves.ite (fun _ => ?_) (fun _ => ?_)
  · exact Moves.refl _ _
  · refine Moves.ite (fun _ => ?_) (fun _ => ?_)
    · refine Moves.step ?_ (Moves.mono (by decide) (State.holdMac_moves _ _ _ _))
      refine Moves.step ?_ (Moves.mono (by decide) (State.rxFrame_moves _ _))
      exact Moves.refl _ _
    · refine Moves.step ?_ (Moves.mono (by decide) (State.takeMacsec_moves _ _ _))
      refine Moves.step ?_ (Moves.mono (by decide) (State.rxFrame_moves _ _))
      exact Moves.refl _ _

theorem State.serveHeld_moves (h : Nat × List Byte × List Byte) (s : State) :
    Moves [.evc, .crypt, .net, .free] s (State.serveHeld h s) := by
  unfold State.serveHeld
  refine Moves.ite (fun _ => ?_) (fun _ => ?_)
  · refine Moves.step ?_ (Moves.mono (by decide) (State.sendMacsec_moves _ _ _ _))
    exact Moves.refl _ _
  · refine Moves.step ?_ (Moves.mono (by decide) (State.takeMacsec_moves _ _ _))
    exact Moves.refl _ _

theorem State.serveMacsec_moves (s : State) :
    Moves [.evc, .crypt, .net, .free] s (State.serveMacsec s) := by
  unfold State.serveMacsec
  refine Moves.foldl ?_ (fun x0 _ hx0 => ?_)
  · refine Moves.step ?_ (Moves.mono (by decide) (State.modCrypt_movesAll _ _ (fun _ => by exact Crypt.keeps_of rfl rfl rfl)))
    exact Moves.refl _ _
  · refine Moves.step ?_ (Moves.mono (by decide) (State.serveHeld_moves _ _))
    exact hx0

theorem State.answer_moves (port : Nat) (protectedFrame : Bool) (reply : List Byte) (s : State) :
    Moves [.net] s (State.answer port protectedFrame reply s) := by
  unfold State.answer
  refine Moves.ite (fun _ => ?_) (fun _ => ?_)
  · exact Moves.refl _ _
  · refine Moves.ite (fun _ => ?_) (fun _ => ?_)
    · refine Moves.step ?_ (Moves.mono (by decide) (State.txFrame_moves _ _ _))
      refine Moves.step ?_ (Moves.mono (by decide) (State.rxFrame_moves _ _))
      exact Moves.refl _ _
    · refine Moves.step ?_ (Moves.mono (by decide) (State.dropFrame_moves _ _))
      refine Moves.step ?_ (Moves.mono (by decide) (State.rxFrame_moves _ _))
      exact Moves.refl _ _

theorem doDuplicateAddressDetected_moves (port : Nat) (s : State) :
    Moves [.evc, .ledger, .net, .free] s (doDuplicateAddressDetected port s) := by
  unfold doDuplicateAddressDetected
  refine Moves.ite (fun _ => ?_) (fun _ => ?_)
  · refine Moves.step ?_ (Moves.mono (by decide) (State.installEntry_moves _))
    refine Moves.step ?_ (Moves.mono (by decide) (State.modNet_moves _ _ (by simp +contextual [Net.Keeps, Net.Shaped] <;> intros <;> omega)))
    exact Moves.refl _ _
  · exact Moves.refl _ _

theorem doPdelayReq_moves (port : Nat) (s : State) :
    Moves [.tbu, .net] s (doPdelayReq port s) := by
  unfold doPdelayReq
  refine Moves.ite (fun _ => ?_) (fun _ => ?_)
  · refine Moves.step ?_ (Moves.mono (by decide) (State.modTbu_moves _ _ (by simp +contextual [Tbu.Keeps, Tbu.Shaped] <;> intros <;> omega)))
    refine Moves.step ?_ (Moves.mono (by decide) (State.txFrame_moves _ _ _))
    refine Moves.step ?_ (Moves.mono (by decide) (State.rxFrame_moves _ _))
    exact Moves.refl _ _
  · exact Moves.refl _ _

theorem doFrameDiscarded_moves (port : Nat) (s : State) :
    Moves [.evc, .psc, .pad, .mbx, .fab, .rel, .ledger, .net] s (doFrameDiscarded port s) := by
  unfold doFrameDiscarded
  refine Moves.ite (fun _ => ?_) (fun _ => ?_)
  · exact Moves.refl _ _
  · extract_lets +onlyGivenNames x0
    have hx0 : Moves [.evc, .psc, .pad, .mbx, .fab, .rel, .ledger, .net] s x0 := by
      refine Moves.step ?_ (Moves.mono (by decide) (State.dropFrame_moves _ _))
      refine Moves.step ?_ (Moves.mono (by decide) (State.rxFrame_moves _ _))
      exact Moves.refl _ _
    clear_value x0
    refine Moves.ite (fun _ => ?_) (fun _ => ?_)
    · refine Moves.step ?_ (Moves.mono (by decide) (State.wakeSource_moves _ _))
      exact hx0
    · exact hx0

theorem doLinkChange_moves (port : Nat) (up : Bool) (s : State) :
    Moves [.evc, .ledger, .health, .net, .free] s (doLinkChange port up s) := by
  unfold doLinkChange
  refine Moves.ite (fun _ => ?_) (fun _ => ?_)
  · exact Moves.refl _ _
  · extract_lets +onlyGivenNames x0
    have hx0 : Moves [.evc, .ledger, .health, .net, .free] s x0 := by
      refine Moves.step ?_ (Moves.mono (by decide) (State.modNet_moves _ _ (by simp +contextual [Net.Keeps, Net.Shaped, apply_ite List.length])))
      refine Moves.step ?_ (Moves.mono (by decide) (State.drawn_moves _))
      exact Moves.refl _ _
    clear_value x0
    extract_lets +onlyGivenNames x1
    have hx1 : Moves [.evc, .ledger, .health, .net, .free] s x1 := by
      refine Moves.ite (fun _ => ?_) (fun _ => ?_)
      · exact hx0
      · refine Moves.step ?_ (Moves.mono (by decide) (State.modStat_moves _ _ _))
        exact hx0
    clear_value x1
    refine Moves.step ?_ (Moves.mono (by decide) (State.enterStatistics_moves _))
    refine Moves.step ?_ (Moves.mono (by decide) (State.raise_moves _ _ _))
    exact hx1

theorem doAutonegTimeout_moves (port : Nat) (s : State) :
    Moves [.net] s (doAutonegTimeout port s) := by
  unfold doAutonegTimeout
  refine Moves.ite (fun _ => ?_) (fun _ => ?_)
  · refine Moves.step ?_ (Moves.mono (by decide) (State.modNet_moves _ _ (by simp +contextual [Net.Keeps, Net.Shaped] <;> intros <;> omega)))
    exact Moves.refl _ _
  · exact Moves.refl _ _

theorem State.modFeed_moves (s : State) (k : Nat) (f : Feed → Feed) :
    Moves [.power] s (State.modFeed s k f) := by
  unfold State.modFeed
  refine Moves.step ?_ (Moves.mono (by decide) (State.modPower_moves _ _ (by simp +contextual [Power.Keeps, Power.Shaped] <;> intros <;> omega)))
  exact Moves.refl _ _

theorem State.feedChange_moves (k : Nat) (on : Bool) (s : State) :
    Moves [.evc, .psc, .pad, .mbx, .fab, .parts, .lf, .pop, .radio, .sess, .rel, .keys, .ledger, .health, .power, .free] s (State.feedChange k on s) := by
  unfold State.feedChange
  try extract_lets +onlyGivenNames x0
  try clear_value x0
  extract_lets +onlyGivenNames x1
  have hx1 : Moves [.evc, .psc, .pad, .mbx, .fab, .parts, .lf, .pop, .radio, .sess, .rel, .keys, .ledger, .health, .power, .free] s x1 := by
    refine Moves.step ?_ (Moves.mono (by decide) (State.rebudget_moves _))
    refine Moves.step ?_ (Moves.mono (by decide) (State.installEntry_moves _))
    refine Moves.step ?_ (Moves.mono (by decide) (State.raise_moves _ _ _))
    refine Moves.step ?_ (Moves.mono (by decide) (State.modFeed_moves _ _ _))
    exact Moves.refl _ _
  clear_value x1
  refine Moves.ite (fun _ => ?_) (fun _ => ?_)
  · refine Moves.step ?_ (Moves.mono (by decide) (State.wakeSource_moves _ _))
    exact hx1
  · exact hx1

theorem doFeedDeliveringChange_moves (k : Nat) (on : Bool) (s : State) :
    Moves [.evc, .psc, .pad, .mbx, .fab, .parts, .lf, .pop, .radio, .sess, .rel, .keys, .ledger, .health, .power, .free] s (doFeedDeliveringChange k on s) := by
  unfold doFeedDeliveringChange
  split
  · refine Moves.ite (fun _ => ?_) (fun _ => ?_)
    · exact Moves.refl _ _
    · refine Moves.step ?_ (Moves.mono (by decide) (State.feedChange_moves _ _ _))
      exact Moves.refl _ _
  · exact Moves.refl _ _

theorem doFeedOv_moves (k : Nat) (on : Bool) (s : State) :
    Moves [.evc, .psc, .pad, .mbx, .fab, .parts, .lf, .pop, .radio, .sess, .rel, .keys, .ledger, .health, .power, .free] s (doFeedOv k on s) := by
  unfold doFeedOv
  split
  · extract_lets +onlyGivenNames x0
    have hx0 : Moves [.evc, .psc, .pad, .mbx, .fab, .parts, .lf, .pop, .radio, .sess, .rel, .keys, .ledger, .health, .power, .free] s x0 := by
      refine Moves.step ?_ (Moves.mono (by decide) (State.modFeed_moves _ _ _))
      exact Moves.refl _ _
    clear_value x0
    extract_lets +onlyGivenNames x1
    have hx1 : Moves [.evc, .psc, .pad, .mbx, .fab, .parts, .lf, .pop, .radio, .sess, .rel, .keys, .ledger, .health, .power, .free] s x1 := by
      refine Moves.ite (fun _ => ?_) (fun _ => ?_)
      · refine Moves.step ?_ (Moves.mono (by decide) (State.installEntry_moves _))
        exact hx0
      · exact hx0
    clear_value x1
    refine Moves.ite (fun _ => ?_) (fun _ => ?_)
    · refine Moves.step ?_ (Moves.mono (by decide) (State.feedChange_moves _ _ _))
      exact hx1
    · exact hx1
  · exact Moves.refl _ _

theorem doSccpClassWrite_moves (k cls : Nat) (s : State) :
    Moves [.evc, .mbx, .parts, .lf, .pop, .radio, .sess, .keys, .ledger, .health, .power, .free] s (doSccpClassWrite k cls s) := by
  unfold doSccpClassWrite
  split
  · refine Moves.ite (fun _ => ?_) (fun _ => ?_)
    · exact Moves.refl _ _
    · refine Moves.step ?_ (Moves.mono (by decide) (State.rebudget_moves _))
      refine Moves.step ?_ (Moves.mono (by decide) (State.raise_moves _ _ _))
      refine Moves.step ?_ (Moves.mono (by decide) (State.modFeed_moves _ _ _))
      exact Moves.refl _ _
  · exact Moves.refl _ _

end Sys2Proof.Machine
end

