-- ==== Sys2Proof/Laws/Sequencer.lean ====
section
/-!
SUPPORT. What the operations of Machine/Sequencer.lean leave unchanged, and what they keep.
-/
namespace Sys2Proof.Machine

theorem State.seqDone_moves (op : SeqOp) (st : Nat) (s : State) :
    Moves [.radio] s (State.seqDone op st s) := by
  unfold State.seqDone
  refine Moves.step ?_ (Moves.mono (by decide) (State.modRadio_movesAll _ _ (fun _ => by exact Radio.keeps_of rfl rfl rfl)))
  exact Moves.refl _ _

theorem State.seqHold_moves (c : HeldCmd) (s : State) :
    Moves [.radio] s (State.seqHold c s) := by
  unfold State.seqHold
  refine Moves.ite (fun _ => ?_) (fun _ => ?_)
  · refine Moves.step ?_ (Moves.mono (by decide) (State.seqDone_moves _ _ _))
    exact Moves.refl _ _
  · refine Moves.step ?_ (Moves.mono (by decide) (State.modRadio_moves _ _ (by simp +contextual [Radio.Keeps, Radio.Shaped] <;> intros <;> omega)))
    exact Moves.refl _ _

theorem State.roundView_moves (s : State) :
    Moves [.cfg] s (State.roundView s) := by
  unfold State.roundView
  split
  · refine Moves.step ?_ (Moves.mono (by decide) (State.modCfg_moves _ _))
    exact Moves.refl _ _
  · exact Moves.refl _ _

theorem State.rangeAnt_moves (transmit : Bool) (s : State) :
    Moves [.radio] s (State.rangeAnt transmit s) := by
  unfold State.rangeAnt
  refine Moves.step ?_ (Moves.mono (by decide) (State.modRadio_movesAll _ _ (fun _ => by exact Radio.keeps_of rfl rfl rfl)))
  exact Moves.refl _ _

theorem State.stopLo_moves (s : State) :
    Moves [.radio] s (State.stopLo s) := by
  unfold State.stopLo
  refine Moves.step ?_ (Moves.mono (by decide) (State.modRadio_movesAll _ _ (fun _ => by exact Radio.keeps_of rfl rfl rfl)))
  exact Moves.refl _ _

theorem State.enterRxUhf_moves (s : State) :
    Moves [.radio] s (State.enterRxUhf s) := by
  unfold State.enterRxUhf
  refine Moves.step ?_ (Moves.mono (by decide) (State.modRadio_moves _ _ (fun h => by split <;> exact h)))
  refine Moves.step ?_ (Moves.mono (by decide) (State.toSeq_moves _ _))
  exact Moves.refl _ _

theorem State.calTaken_moves (s : State) :
    Moves [.mbx] s (State.calTaken s) := by
  unfold State.calTaken
  refine Moves.foldl ?_ (fun x0 _ hx0 => ?_)
  · exact Moves.refl _ _
  · refine Moves.step ?_ (Moves.mono (by decide) (State.commit_moves _ _))
    exact hx0

theorem State.testBegins_moves (s : State) :
    Moves [.mbx, .radio] s (State.testBegins s) := by
  unfold State.testBegins
  split
  · refine Moves.ite (fun _ => ?_) (fun _ => ?_)
    · exact Moves.refl _ _
    · refine Moves.step ?_ (Moves.mono (by decide) (State.modRadio_movesAll _ _ (fun _ => by exact Radio.keeps_of rfl rfl rfl)))
      refine Moves.step ?_ (Moves.mono (by decide) (State.commit_moves _ _))
      exact Moves.refl _ _
  · exact Moves.refl _ _

theorem State.startCal_moves (s : State) :
    Moves [.mbx, .radio] s (State.startCal s) := by
  unfold State.startCal
  refine Moves.step ?_ (Moves.mono (by decide) (State.modRadio_movesAll _ _ (fun _ => by exact Radio.keeps_of rfl rfl rfl)))
  refine Moves.step ?_ (Moves.mono (by decide) (State.toSeq_moves _ _))
  refine Moves.step ?_ (Moves.mono (by decide) (State.calTaken_moves _))
  exact Moves.refl _ _

theorem State.goRxUhf_moves (s : State) :
    Moves [.mbx, .radio] s (State.goRxUhf s) := by
  unfold State.goRxUhf
  refine Moves.ite (fun _ => ?_) (fun _ => ?_)
  · refine Moves.step ?_ (Moves.mono (by decide) (State.startSettle_moves _ _ _))
    exact Moves.refl _ _
  · refine Moves.ite (fun _ => ?_) (fun _ => ?_)
    · refine Moves.step ?_ (Moves.mono (by decide) (State.startCal_moves _))
      exact Moves.refl _ _
    · refine Moves.step ?_ (Moves.mono (by decide) (State.enterRxUhf_moves _))
      exact Moves.refl _ _

theorem State.goStandby_moves (s : State) :
    Moves [.radio] s (State.goStandby s) := by
  unfold State.goStandby
  refine Moves.ite (fun _ => ?_) (fun _ => ?_)
  · refine Moves.step ?_ (Moves.mono (by decide) (State.toSeq_moves _ _))
    exact Moves.refl _ _
  · refine Moves.ite (fun _ => ?_) (fun _ => ?_)
    · refine Moves.step ?_ (Moves.mono (by decide) (State.modRadio_movesAll _ _ (fun _ => by exact Radio.keeps_of rfl rfl rfl)))
      exact Moves.refl _ _
    · refine Moves.step ?_ (Moves.mono (by decide) (State.startSettle_moves _ _ _))
      exact Moves.refl _ _

theorem State.needSampling_moves {ps : List Part} {c : HeldCmd} {act : State → State} {s : State}
    (hp : ([.radio].all fun p => ps.contains p) = true) (h : ∀ t, Moves ps t (act t)) : Moves ps s (s.needSampling c act) := by
  unfold State.needSampling
  refine Moves.ite (fun _ => h _) (fun _ => Moves.mono hp ?_)
  refine Moves.ite (fun _ => State.seqDone_moves _ _ _) (fun hl => ?_)
  refine Moves.trans (Moves.mono (by decide) (State.modRadio_moves _ _ ?_)) (Moves.mono (by decide) (State.startSettle_moves _ _ _))
  intro hx
  refine ⟨hx.1, hx.2.1, ?_⟩
  simp only [List.length_cons]
  omega

theorem State.enterRanging_moves (c : HeldCmd) (s : State) :
    Moves [.radio] s (State.enterRanging c s) := by
  unfold State.enterRanging
  try extract_lets +onlyGivenNames x0
  try clear_value x0
  refine Moves.step ?_ (Moves.mono (by decide) (State.rangeAnt_moves _ _))
  refine Moves.step ?_ (Moves.mono (by decide) (State.modRadio_movesAll _ _ (fun _ => by exact Radio.keeps_of rfl rfl rfl)))
  refine Moves.step ?_ (Moves.mono (by decide) (State.toSeq_moves _ _))
  exact Moves.refl _ _

theorem State.markDead_moves (s : State) :
    Moves [.sess] s (State.markDead s) := by
  unfold State.markDead
  try extract_lets +onlyGivenNames x0
  try clear_value x0
  refine Moves.step ?_ (Moves.mono (by decide) (State.modSess_moves _ _))
  exact Moves.refl _ _

theorem State.idleNow_moves (s : State) :
    Moves [.radio, .sess] s (State.idleNow s) := by
  unfold State.idleNow
  refine Moves.step ?_ (Moves.mono (by decide) (State.goStandby_moves _))
  refine Moves.step ?_ (Moves.mono (by decide) (State.modRadio_movesAll _ _ (fun _ => by exact Radio.keeps_of rfl rfl rfl)))
  refine Moves.ite (fun _ => ?_) (fun _ => ?_)
  · refine Moves.step ?_ (Moves.mono (by decide) (State.markDead_moves _))
    exact Moves.refl _ _
  · exact Moves.refl _ _

theorem State.takeCmd_moves (c : HeldCmd) (s : State) :
    Moves [.mbx, .radio, .sess] s (State.takeCmd c s) := by
  unfold State.takeCmd
  split
  · extract_lets +onlyGivenNames x0
    have hx0 : Moves [.mbx, .radio, .sess] s x0 := by
      refine Moves.ite (fun _ => ?_) (fun _ => ?_)
      · exact Moves.refl _ _
      · refine Moves.step ?_ (Moves.mono (by decide) (State.stopLo_moves _))
        exact Moves.refl _ _
    clear_value x0
    refine Moves.ite (fun _ => ?_) (fun _ => ?_)
    · refine Moves.step ?_ (Moves.mono (by decide) (State.modRadio_movesAll _ _ (fun _ => by exact Radio.keeps_of rfl rfl rfl)))
      exact hx0
    · refine Moves.step ?_ (Moves.mono (by decide) (State.goRxUhf_moves _))
      refine Moves.step ?_ (Moves.mono (by decide) (State.modRadio_movesAll _ _ (fun _ => by exact Radio.keeps_of rfl rfl rfl)))
      exact hx0
  · refine Moves.step ?_ (State.needSampling_moves (by decide) (fun x1 => ?_))
    · exact Moves.refl _ _
    · refine Moves.step ?_ (Moves.mono (by decide) (State.testBegins_moves _))
      refine Moves.step ?_ (Moves.mono (by decide) (State.toSeq_moves _ _))
      exact Moves.refl _ _
  · refine Moves.step ?_ (State.needSampling_moves (by decide) (fun x2 => ?_))
    · exact Moves.refl _ _
    · refine Moves.step ?_ (Moves.mono (by decide) (State.modRadio_movesAll _ _ (fun _ => by exact Radio.keeps_of rfl rfl rfl)))
      refine Moves.step ?_ (Moves.mono (by decide) (State.stopLo_moves _))
      refine Moves.step ?_ (Moves.mono (by decide) (State.toSeq_moves _ _))
      exact Moves.refl _ _
  · refine Moves.ite (fun _ => ?_) (fun _ => ?_)
    · refine Moves.step ?_ (Moves.mono (by decide) (State.seqDone_moves _ _ _))
      exact Moves.refl _ _
    · refine Moves.step ?_ (State.needSampling_moves (by decide) (fun x3 => ?_))
      · exact Moves.refl _ _
      · refine Moves.step ?_ (Moves.mono (by decide) (State.modRadio_movesAll _ _ (fun _ => by exact Radio.keeps_of rfl rfl rfl)))
        refine Moves.step ?_ (Moves.mono (by decide) (State.testBegins_moves _))
        refine Moves.step ?_ (Moves.mono (by decide) (State.stopLo_moves _))
        refine Moves.step ?_ (Moves.mono (by decide) (State.toSeq_moves _ _))
        exact Moves.refl _ _
  · refine Moves.ite (fun _ => ?_) (fun _ => ?_)
    · refine Moves.step ?_ (Moves.mono (by decide) (State.seqDone_moves _ _ _))
      refine Moves.step ?_ (Moves.mono (by decide) (State.markDead_moves _))
      exact Moves.refl _ _
    · refine Moves.step ?_ (State.needSampling_moves (by decide) (fun x4 => ?_))
      · exact Moves.refl _ _
      · refine Moves.step ?_ (Moves.mono (by decide) (State.enterRanging_moves _ _))
        exact Moves.refl _ _
  · refine Moves.ite (fun _ => ?_) (fun _ => ?_)
    · refine Moves.step ?_ (Moves.mono (by decide) (State.startCal_moves _))
      exact Moves.refl _ _
    · refine Moves.ite (fun _ => ?_) (fun _ => ?_)
      · refine Moves.step ?_ (Moves.mono (by decide) (State.seqDone_moves _ _ _))
        exact Moves.refl _ _
      · refine Moves.step ?_ (Moves.mono (by decide) (State.startSettle_moves _ _ _))
        refine Moves.step ?_ (Moves.mono (by decide) (State.modRadio_moves _ _ (by simp +contextual [Radio.Keeps, Radio.Shaped] <;> intros <;> omega)))
        exact Moves.refl _ _
  · refine Moves.step ?_ (Moves.mono (by decide) (State.idleNow_moves _))
    exact Moves.refl _ _
  · exact Moves.refl _ _

theorem State.takeHeld_moves (c : HeldCmd) (s : State) :
    Moves [.mbx, .radio, .sess] s (State.takeHeld c s) := by
  unfold State.takeHeld
  refine Moves.step ?_ (Moves.mono (by decide) (State.takeCmd_moves _ _))
  refine Moves.step ?_ (Moves.mono (by decide) (State.modRadio_moves _ _ (fun h => ⟨h.1, h.2.1, Nat.le_trans List.length_erase_le h.2.2⟩)))
  exact Moves.refl _ _

theorem State.serveSeq_moves (n : Nat) (s : State) : Moves [.mbx, .radio, .sess] s (s.serveSeq n) := by
  induction n generalizing s with
  | zero => exact Moves.refl _ _
  | succ n ih =>
    unfold State.serveSeq
    extract_lets +onlyGivenNames next
    clear_value next
    split
    · exact Moves.trans (Moves.mono (by decide) (State.takeHeld_moves _ _)) (ih _)
    · exact Moves.refl _ _

theorem State.settleDown_moves (s : State) :
    Moves [.mbx, .radio, .sess] s (State.settleDown s) := by
  unfold State.settleDown
  extract_lets +onlyGivenNames x0
  have hx0 : Moves [.mbx, .radio, .sess] s x0 := by
    refine Moves.step ?_ (Moves.mono (by decide) (State.serveSeq_moves _ _))
    exact Moves.refl _ _
  clear_value x0
  refine Moves.ite (fun _ => ?_) (fun _ => ?_)
  · refine Moves.step ?_ (Moves.mono (by decide) (State.stopLo_moves _))
    exact hx0
  · exact hx0

theorem State.resumeCal_moves (since : Nat) (s : State) :
    Moves [.mbx, .radio] s (State.resumeCal since s) := by
  unfold State.resumeCal
  extract_lets +onlyGivenNames x0
  have hx0 : Moves [.mbx, .radio] s x0 := by
    refine Moves.step ?_ (Moves.mono (by decide) (State.modRadio_movesAll _ _ (fun _ => by exact Radio.keeps_of rfl rfl rfl)))
    exact Moves.refl _ _
  clear_value x0
  refine Moves.ite (fun _ => ?_) (fun _ => ?_)
  · refine Moves.step ?_ (Moves.mono (by decide) (State.startSettle_moves _ _ _))
    exact hx0
  · refine Moves.ite (fun _ => ?_) (fun _ => ?_)
    · refine Moves.step ?_ (Moves.mono (by decide) (State.startCal_moves _))
      exact hx0
    · refine Moves.step ?_ (Moves.mono (by decide) (State.toSeq_moves _ _))
      exact hx0

theorem State.afterBusy_moves (s : State) :
    Moves [.mbx, .radio, .sess] s (State.afterBusy s) := by
  unfold State.afterBusy
  refine Moves.ite (fun _ => ?_) (fun _ => ?_)
  · refine Moves.step ?_ (Moves.mono (by decide) (State.settleDown_moves _))
    refine Moves.step ?_ (Moves.mono (by decide) (State.goStandby_moves _))
    exact Moves.refl _ _
  · split
    · refine Moves.step ?_ (Moves.mono (by decide) (State.resumeCal_moves _ _))
      exact Moves.refl _ _
    · refine Moves.step ?_ (Moves.mono (by decide) (State.settleDown_moves _))
      refine Moves.step ?_ (Moves.mono (by decide) (State.goStandby_moves _))
      exact Moves.refl _ _

theorem State.radioOff_moves (s : State) :
    Moves [.psc, .pad, .radio] s (State.radioOff s) := by
  unfold State.radioOff
  try extract_lets +onlyGivenNames x0
  try clear_value x0
  extract_lets +onlyGivenNames x1
  have hx1 : Moves [.psc, .pad, .radio] s x1 := by
    refine Moves.step ?_ (Moves.mono (by decide) (State.modRadio_movesAll _ _ (fun _ => by exact Radio.keeps_of rfl rfl rfl)))
    refine Moves.step ?_ (Moves.mono (by decide) (State.toSeq_moves _ _))
    exact Moves.refl _ _
  clear_value x1
  refine Moves.step ?_ (Moves.mono (by decide) (State.modPsc_movesAll _ _ (fun _ => by exact Psc.keeps_of rfl)))
  refine Moves.step ?_ (Moves.mono (by decide) (State.gateDomain_moves _ _))
  refine Moves.step ?_ (Moves.mono (by decide) (State.gateDomain_moves _ _))
  exact hx1

theorem State.seqUp_moves (s : State) :
    Moves [.tbu, .evc, .psc, .pad, .mbx, .fab, .radio, .rel, .ledger] s (State.seqUp s) := by
  unfold State.seqUp
  refine Moves.ite (fun _ => ?_) (fun _ => ?_)
  · extract_lets +onlyGivenNames x0
    have hx0 : Moves [.tbu, .evc, .psc, .pad, .mbx, .fab, .radio, .rel, .ledger] s x0 := by
      refine Moves.step ?_ (Moves.mono (by decide) (State.wakeSource_moves _ _))
      refine Moves.step ?_ (Moves.mono (by decide) (State.restoreDomain_moves _ _))
      refine Moves.step ?_ (Moves.mono (by decide) (State.restoreDomain_moves _ _))
      exact Moves.refl _ _
    clear_value x0
    refine Moves.ite (fun _ => ?_) (fun _ => ?_)
    · exact hx0
    · refine Moves.step ?_ (Moves.mono (by decide) (State.startSettle_moves _ _ _))
      refine Moves.step ?_ (Moves.mono (by decide) (State.modTbu_movesAll _ _ (fun _ => by exact Tbu.keeps_of rfl rfl rfl rfl rfl rfl)))
      exact hx0
  · exact Moves.refl _ _

theorem State.failHeld_moves (late : HeldCmd → Bool) (s : State) :
    Moves [.radio, .sess] s (State.failHeld late s) := by
  unfold State.failHeld
  try extract_lets +onlyGivenNames x0
  try clear_value x0
  extract_lets +onlyGivenNames x1
  have hx1 : Moves [.radio, .sess] s x1 := by
    refine Moves.foldl ?_ (fun x2 _ hx2 => ?_)
    · refine Moves.step ?_ (Moves.mono (by decide) (State.modRadio_moves _ _ (fun h => ⟨h.1, h.2.1, Nat.le_trans (List.length_filter_le _ _) h.2.2⟩)))
      exact Moves.refl _ _
    · refine Moves.step ?_ (Moves.mono (by decide) (State.seqDone_moves _ _ _))
      exact hx2
  clear_value x1
  refine Moves.ite (fun _ => ?_) (fun _ => ?_)
  · refine Moves.step ?_ (Moves.mono (by decide) (State.markDead_moves _))
    exact hx1
  · exact hx1

theorem State.seqDown_moves (s : State) :
    Moves [.psc, .pad, .radio, .sess] s (State.seqDown s) := by
  unfold State.seqDown
  refine Moves.ite (fun _ => ?_) (fun _ => ?_)
  · exact Moves.refl _ _
  · refine Moves.step ?_ (Moves.mono (by decide) (State.radioOff_moves _))
    refine Moves.step ?_ (Moves.mono (by decide) (State.failHeld_moves _ _))
    refine Moves.ite (fun _ => ?_) (fun _ => ?_)
    · refine Moves.step ?_ (Moves.mono (by decide) (State.markDead_moves _))
      exact Moves.refl _ _
    · exact Moves.refl _ _

theorem State.sleepDown_moves (s : State) :
    Moves [.psc, .pad, .radio, .sess] s (State.sleepDown s) := by
  unfold State.sleepDown
  refine Moves.ite (fun _ => ?_) (fun _ => ?_)
  · refine Moves.step ?_ (Moves.mono (by decide) (State.seqDown_moves _))
    exact Moves.refl _ _
  · exact Moves.refl _ _

theorem State.seqIdle_moves (limit : Nat) (s : State) :
    Moves [.mbx, .radio, .sess] s (State.seqIdle limit s) := by
  unfold State.seqIdle
  split
  · refine Moves.step ?_ (Moves.mono (by decide) (State.seqDone_moves _ _ _))
    exact Moves.refl _ _
  · exact Moves.refl _ _
  · refine Moves.step ?_ (Moves.mono (by decide) (State.settleDown_moves _))
    refine Moves.step ?_ (Moves.mono (by decide) (State.idleNow_moves _))
    refine Moves.step ?_ (Moves.mono (by decide) (State.modRadio_moves _ _ (by simp +contextual [Radio.Keeps, Radio.Shaped] <;> intros <;> omega)))
    exact Moves.refl _ _
  · refine Moves.step ?_ (Moves.mono (by decide) (State.modRadio_movesAll _ _ (fun _ => by exact Radio.keeps_of rfl rfl rfl)))
    exact Moves.refl _ _
  · refine Moves.step ?_ (Moves.mono (by decide) (State.seqHold_moves _ _))
    exact Moves.refl _ _
  · refine Moves.step ?_ (Moves.mono (by decide) (State.seqHold_moves _ _))
    exact Moves.refl _ _
  · refine Moves.step ?_ (Moves.mono (by decide) (State.settleDown_moves _))
    refine Moves.step ?_ (Moves.mono (by decide) (State.idleNow_moves _))
    exact Moves.refl _ _

theorem State.seqListenUhf_moves (region limit : Nat) (s : State) :
    Moves [.mbx, .radio, .sess] s (State.seqListenUhf region limit s) := by
  unfold State.seqListenUhf
  try extract_lets +onlyGivenNames x0
  try clear_value x0
  split
  · refine Moves.step ?_ (Moves.mono (by decide) (State.seqDone_moves _ _ _))
    exact Moves.refl _ _
  · refine Moves.step ?_ (Moves.mono (by decide) (State.settleDown_moves _))
    refine Moves.step ?_ (Moves.mono (by decide) (State.takeCmd_moves _ _))
    exact Moves.refl _ _
  · refine Moves.step ?_ (Moves.mono (by decide) (State.settleDown_moves _))
    refine Moves.step ?_ (Moves.mono (by decide) (State.takeCmd_moves _ _))
    exact Moves.refl _ _
  · try extract_lets +onlyGivenNames x1
    try clear_value x1
    extract_lets +onlyGivenNames x2
    have hx2 : Moves [.mbx, .radio, .sess] s x2 := by
      refine Moves.step ?_ (Moves.mono (by decide) (State.modRadio_movesAll _ _ (fun _ => by exact Radio.keeps_of rfl rfl rfl)))
      refine Moves.ite (fun _ => ?_) (fun _ => ?_)
      · exact Moves.refl _ _
      · refine Moves.step ?_ (Moves.mono (by decide) (State.stopLo_moves _))
        exact Moves.refl _ _
    clear_value x2
    refine Moves.ite (fun _ => ?_) (fun _ => ?_)
    · exact hx2
    · refine Moves.step ?_ (Moves.mono (by decide) (State.startSettle_moves _ _ _))
      exact hx2
  · extract_lets +onlyGivenNames x3
    have hx3 : Moves [.mbx, .radio, .sess] s x3 := by
      refine Moves.step ?_ (Moves.mono (by decide) (State.modRadio_movesAll _ _ (fun _ => by exact Radio.keeps_of rfl rfl rfl)))
      exact Moves.refl _ _
    clear_value x3
    refine Moves.ite (fun _ => ?_) (fun _ => ?_)
    · exact hx3
    · refine Moves.step ?_ (Moves.mono (by decide) (State.startSettle_moves _ _ _))
      refine Moves.step ?_ (Moves.mono (by decide) (State.modRadio_movesAll _ _ (fun _ => by exact Radio.keeps_of rfl rfl rfl)))
      refine Moves.step ?_ (Moves.mono (by decide) (State.stopLo_moves _))
      exact hx3
  · refine Moves.step ?_ (Moves.mono (by decide) (State.seqHold_moves _ _))
    exact Moves.refl _ _

theorem State.seqFrame_moves (c : HeldCmd) (rx uwb : Bool) (s : State) :
    Moves [.mbx, .radio, .sess] s (State.seqFrame c rx uwb s) := by
  unfold State.seqFrame
  split
  · refine Moves.step ?_ (Moves.mono (by decide) (State.seqDone_moves _ _ _))
    exact Moves.refl _ _
  · refine Moves.step ?_ (Moves.mono (by decide) (State.settleDown_moves _))
    refine Moves.step ?_ (Moves.mono (by decide) (State.takeCmd_moves _ _))
    exact Moves.refl _ _
  · refine Moves.ite (fun _ => ?_) (fun _ => ?_)
    · refine Moves.step ?_ (Moves.mono (by decide) (State.seqHold_moves _ _))
      exact Moves.refl _ _
    · refine Moves.step ?_ (Moves.mono (by decide) (State.settleDown_moves _))
      refine Moves.step ?_ (Moves.mono (by decide) (State.takeCmd_moves _ _))
      exact Moves.refl _ _
  · refine Moves.ite (fun _ => ?_) (fun _ => ?_)
    · refine Moves.step ?_ (Moves.mono (by decide) (State.settleDown_moves _))
      refine Moves.step ?_ (Moves.mono (by decide) (State.takeCmd_moves _ _))
      exact Moves.refl _ _
    · refine Moves.step ?_ (Moves.mono (by decide) (State.seqHold_moves _ _))
      exact Moves.refl _ _
  · refine Moves.step ?_ (Moves.mono (by decide) (State.seqHold_moves _ _))
    exact Moves.refl _ _

theorem State.seqSendUhf_moves (rx : Bool) (s : State) :
    Moves [.mbx, .radio, .sess] s (State.seqSendUhf rx s) := by
  unfold State.seqSendUhf
  refine Moves.step ?_ (Moves.mono (by decide) (State.seqFrame_moves _ _ _ _))
  exact Moves.refl _ _

theorem State.seqListenUwb_moves (chan limit : Nat) (rx : Bool) (s : State) :
    Moves [.mbx, .radio, .sess] s (State.seqListenUwb chan limit rx s) := by
  unfold State.seqListenUwb
  refine Moves.ite (fun _ => ?_) (fun _ => ?_)
  · refine Moves.step ?_ (Moves.mono (by decide) (State.modRadio_movesAll _ _ (fun _ => by exact Radio.keeps_of rfl rfl rfl)))
    exact Moves.refl _ _
  · refine Moves.step ?_ (Moves.mono (by decide) (State.seqFrame_moves _ _ _ _))
    exact Moves.refl _ _

theorem State.seqSendUwb_moves (due : Option Nat) (limit : Nat) (rx : Bool) (s : State) :
    Moves [.mbx, .radio, .sess] s (State.seqSendUwb due limit rx s) := by
  unfold State.seqSendUwb
  refine Moves.step ?_ (Moves.mono (by decide) (State.seqFrame_moves _ _ _ _))
  exact Moves.refl _ _

theorem State.seqRange_moves (set first limit : Nat) (s : State) :
    Moves [.mbx, .radio, .sess] s (State.seqRange set first limit s) := by
  unfold State.seqRange
  try extract_lets +onlyGivenNames x0
  try clear_value x0
  refine Moves.ite (fun _ => ?_) (fun _ => ?_)
  · refine Moves.step ?_ (Moves.mono (by decide) (State.seqDone_moves _ _ _))
    exact Moves.refl _ _
  · split
    · refine Moves.step ?_ (Moves.mono (by decide) (State.settleDown_moves _))
      refine Moves.step ?_ (Moves.mono (by decide) (State.takeCmd_moves _ _))
      exact Moves.refl _ _
    · refine Moves.step ?_ (Moves.mono (by decide) (State.settleDown_moves _))
      refine Moves.step ?_ (Moves.mono (by decide) (State.takeCmd_moves _ _))
      exact Moves.refl _ _
    · refine Moves.step ?_ (Moves.mono (by decide) (State.settleDown_moves _))
      refine Moves.step ?_ (Moves.mono (by decide) (State.takeCmd_moves _ _))
      exact Moves.refl _ _
    · refine Moves.step ?_ (Moves.mono (by decide) (State.seqHold_moves _ _))
      exact Moves.refl _ _

theorem State.seqCal_moves (limit : Nat) (s : State) :
    Moves [.mbx, .radio, .sess] s (State.seqCal limit s) := by
  unfold State.seqCal
  try extract_lets +onlyGivenNames x0
  try clear_value x0
  split
  · refine Moves.step ?_ (Moves.mono (by decide) (State.seqDone_moves _ _ _))
    exact Moves.refl _ _
  · exact Moves.refl _ _
  · refine Moves.step ?_ (Moves.mono (by decide) (State.settleDown_moves _))
    refine Moves.step ?_ (Moves.mono (by decide) (State.takeCmd_moves _ _))
    exact Moves.refl _ _
  · refine Moves.step ?_ (Moves.mono (by decide) (State.settleDown_moves _))
    refine Moves.step ?_ (Moves.mono (by decide) (State.takeCmd_moves _ _))
    exact Moves.refl _ _
  · refine Moves.step ?_ (Moves.mono (by decide) (State.seqHold_moves _ _))
    exact Moves.refl _ _

theorem State.seqQualified_moves (synth : Synth) (s : State) :
    Moves [.mbx, .radio, .sess, .free] s (State.seqQualified synth s) := by
  unfold State.seqQualified
  refine Moves.ite (fun _ => ?_) (fun _ => ?_)
  · exact Moves.refl _ _
  · extract_lets +onlyGivenNames x0
    have hx0 : Moves [.mbx, .radio, .sess, .free] s x0 := by
      unfold x0
      clear x0
      split
      · refine Moves.step ?_ (Moves.mono (by decide) (State.modRadio_movesAll _ _ (fun _ => by exact Radio.keeps_of rfl rfl rfl)))
        exact Moves.refl _ _
      · refine Moves.step ?_ (Moves.mono (by decide) (State.drawn_moves _))
        refine Moves.step ?_ (Moves.mono (by decide) (State.modRadio_movesAll _ _ (fun _ => by exact Radio.keeps_of rfl rfl rfl)))
        exact Moves.refl _ _
    try clear_value x0
    refine Moves.ite (fun _ => ?_) (fun _ => ?_)
    · refine Moves.step ?_ (Moves.mono (by decide) (State.startCal_moves _))
      exact hx0
    · refine Moves.ite (fun _ => ?_) (fun _ => ?_)
      · refine Moves.step ?_ (Moves.mono (by decide) (State.afterBusy_moves _))
        exact hx0
      · refine Moves.step ?_ (Moves.mono (by decide) (State.settleDown_moves _))
        refine Moves.step ?_ (Moves.mono (by decide) (State.goRxUhf_moves _))
        exact hx0

theorem State.seqSettleTimeout_moves (s : State) :
    Moves [.evc, .psc, .pad, .mbx, .radio, .sess, .ledger, .health, .free] s (State.seqSettleTimeout s) := by
  unfold State.seqSettleTimeout
  refine Moves.ite (fun _ => ?_) (fun _ => ?_)
  · exact Moves.refl _ _
  · refine Moves.ite (fun _ => ?_) (fun _ => ?_)
    · refine Moves.step ?_ (Moves.mono (by decide) (State.modRadio_movesAll _ _ (fun _ => by exact Radio.keeps_of rfl rfl rfl)))
      exact Moves.refl _ _
    · extract_lets +onlyGivenNames x0
      have hx0 : Moves [.evc, .psc, .pad, .mbx, .radio, .sess, .ledger, .health, .free] s x0 := by
        refine Moves.step ?_ (Moves.mono (by decide) (State.healthFree_moves _ _ _ _))
        refine Moves.step ?_ (Moves.mono (by decide) (State.modRadio_movesAll _ _ (fun _ => by exact Radio.keeps_of rfl rfl rfl)))
        refine Moves.step ?_ (Moves.mono (by decide) (State.failHeld_moves _ _))
        exact Moves.refl _ _
      clear_value x0
      extract_lets +onlyGivenNames x1
      have hx1 : Moves [.evc, .psc, .pad, .mbx, .radio, .sess, .ledger, .health, .free] s x1 := by
        refine Moves.step ?_ (Moves.mono (by decide) (State.raise_moves _ _ _))
        exact hx0
      clear_value x1
      split
      · refine Moves.step ?_ (Moves.mono (by decide) (State.radioOff_moves _))
        exact hx1
      · refine Moves.step ?_ (Moves.mono (by decide) (State.afterBusy_moves _))
        refine Moves.step ?_ (Moves.mono (by decide) (State.stopLo_moves _))
        exact hx1

theorem State.cutAir_moves (s : State) :
    Moves [.radio, .sess] s (State.cutAir s) := by
  unfold State.cutAir
  refine Moves.ite (fun _ => ?_) (fun _ => ?_)
  · refine Moves.step ?_ (Moves.mono (by decide) (State.seqDone_moves _ _ _))
    refine Moves.step ?_ (Moves.mono (by decide) (State.markDead_moves _))
    exact Moves.refl _ _
  · split
    · try extract_lets +onlyGivenNames x0
      try clear_value x0
      refine Moves.ite (fun _ => ?_) (fun _ => ?_)
      · exact Moves.refl _ _
      · refine Moves.ite (fun _ => ?_) (fun _ => ?_)
        · refine Moves.step ?_ (Moves.mono (by decide) (State.seqDone_moves _ _ _))
          exact Moves.refl _ _
        · refine Moves.ite (fun _ => ?_) (fun _ => ?_)
          · refine Moves.step ?_ (Moves.mono (by decide) (State.seqDone_moves _ _ _))
            exact Moves.refl _ _
          · refine Moves.step ?_ (Moves.mono (by decide) (State.modRadio_moves _ _ (by simp +contextual [Radio.Keeps, Radio.Shaped] <;> intros <;> omega)))
            exact Moves.refl _ _
    · exact Moves.refl _ _

theorem State.seqLockLost_moves (synth : Synth) (s : State) :
    Moves [.radio, .sess] s (State.seqLockLost synth s) := by
  unfold State.seqLockLost
  split
  · refine Moves.ite (fun _ => ?_) (fun _ => ?_)
    · exact Moves.refl _ _
    · refine Moves.step ?_ (Moves.mono (by decide) (State.startSettle_moves _ _ _))
      refine Moves.step ?_ (Moves.mono (by decide) (State.modRadio_movesAll _ _ (fun _ => by exact Radio.keeps_of rfl rfl rfl)))
      refine Moves.step ?_ (Moves.mono (by decide) (State.cutAir_moves _))
      exact Moves.refl _ _
  · refine Moves.ite (fun _ => ?_) (fun _ => ?_)
    · exact Moves.refl _ _
    · refine Moves.ite (fun _ => ?_) (fun _ => ?_)
      · refine Moves.step ?_ (Moves.mono (by decide) (State.startSettle_moves _ _ _))
        refine Moves.step ?_ (Moves.mono (by decide) (State.modRadio_movesAll _ _ (fun _ => by exact Radio.keeps_of rfl rfl rfl)))
        refine Moves.step ?_ (Moves.mono (by decide) (State.stopLo_moves _))
        exact Moves.refl _ _
      · refine Moves.step ?_ (Moves.mono (by decide) (State.stopLo_moves _))
        exact Moves.refl _ _

theorem State.finishCal_moves (s : State) :
    Moves [.radio, .free] s (State.finishCal s) := by
  unfold State.finishCal
  try extract_lets +onlyGivenNames x0
  try clear_value x0
  refine Moves.step ?_ (Moves.mono (by decide) (State.drawn_moves _))
  refine Moves.step ?_ (Moves.mono (by decide) (State.modRadio_movesAll _ _ (fun _ => by exact Radio.keeps_of rfl rfl rfl)))
  exact Moves.refl _ _

theorem State.leaveCal_moves (s : State) :
    Moves [.mbx, .radio, .sess] s (State.leaveCal s) := by
  unfold State.leaveCal
  try extract_lets +onlyGivenNames x0
  try clear_value x0
  split
  · refine Moves.step ?_ (Moves.mono (by decide) (State.settleDown_moves _))
    refine Moves.step ?_ (Moves.mono (by decide) (State.takeHeld_moves _ _))
    exact Moves.refl _ _
  · split
    · refine Moves.step ?_ (Moves.mono (by decide) (State.settleDown_moves _))
      refine Moves.step ?_ (Moves.mono (by decide) (State.takeHeld_moves _ _))
      exact Moves.refl _ _
    · refine Moves.step ?_ (Moves.mono (by decide) (State.settleDown_moves _))
      refine Moves.step ?_ (Moves.mono (by decide) (State.goRxUhf_moves _))
      exact Moves.refl _ _

theorem State.dcStep_moves (n : Nat) (s : State) :
    Moves [.radio, .free] s (State.dcStep n s) := by
  unfold State.dcStep
  refine Moves.ite (fun _ => ?_) (fun _ => ?_)
  · refine Moves.step ?_ (Moves.mono (by decide) (State.drawn_moves _))
    refine Moves.step ?_ (Moves.mono (by decide) (State.modRadio_movesAll _ _ (fun _ => by exact Radio.keeps_of rfl rfl rfl)))
    exact Moves.refl _ _
  · exact Moves.refl _ _

theorem State.seqCalStep_moves (temp : Int) (s : State) :
    Moves [.mbx, .radio, .sess, .free] s (State.seqCalStep temp s) := by
  unfold State.seqCalStep
  refine Moves.ite (fun _ => ?_) (fun _ => ?_)
  · exact Moves.refl _ _
  · try extract_lets +onlyGivenNames x0
    try clear_value x0
    extract_lets +onlyGivenNames x1
    have hx1 : Moves [.mbx, .radio, .sess, .free] s x1 := by
      refine Moves.step ?_ (Moves.mono (by decide) (State.dcStep_moves _ _))
      refine Moves.step ?_ (Moves.mono (by decide) (State.modRadio_movesAll _ _ (fun _ => by exact Radio.keeps_of rfl rfl rfl)))
      exact Moves.refl _ _
    clear_value x1
    refine Moves.ite (fun _ => ?_) (fun _ => ?_)
    · refine Moves.step ?_ (Moves.mono (by decide) (State.settleDown_moves _))
      refine Moves.step ?_ (Moves.mono (by decide) (State.idleNow_moves _))
      refine Moves.step ?_ (Moves.mono (by decide) (State.stopLo_moves _))
      exact hx1
    · refine Moves.ite (fun _ => ?_) (fun _ => ?_)
      · refine Moves.step ?_ (Moves.mono (by decide) (State.leaveCal_moves _))
        refine Moves.step ?_ (Moves.mono (by decide) (State.finishCal_moves _))
        exact hx1
      · split
        · refine Moves.step ?_ (Moves.mono (by decide) (State.settleDown_moves _))
          refine Moves.step ?_ (Moves.mono (by decide) (State.takeHeld_moves _ _))
          refine Moves.step ?_ (Moves.mono (by decide) (State.modRadio_movesAll _ _ (fun _ => by exact Radio.keeps_of rfl rfl rfl)))
          exact hx1
        · exact hx1

theorem State.endRanging_moves (s : State) :
    Moves [.mbx, .radio, .sess] s (State.endRanging s) := by
  unfold State.endRanging
  refine Moves.ite (fun _ => ?_) (fun _ => ?_)
  · exact Moves.refl _ _
  · refine Moves.step ?_ (Moves.mono (by decide) (State.afterBusy_moves _))
    refine Moves.step ?_ (Moves.mono (by decide) (State.modRadio_movesAll _ _ (fun _ => by exact Radio.keeps_of rfl rfl rfl)))
    exact Moves.refl _ _

theorem State.serveRecal_moves (s : State) :
    Moves [.mbx, .radio, .sess] s (State.serveRecal s) := by
  unfold State.serveRecal
  refine Moves.ite (fun _ => ?_) (fun _ => ?_)
  · refine Moves.step ?_ (Moves.mono (by decide) (State.seqCal_moves _ _))
    exact Moves.refl _ _
  · exact Moves.refl _ _

theorem State.runSlice_moves (kind dA dB : Nat) (temp : Int) (s : State) :
    Moves [.radio, .free] s (State.runSlice kind dA dB temp s) := by
  unfold State.runSlice
  refine Moves.step ?_ (Moves.mono (by decide) (State.drawn_moves _))
  refine Moves.step ?_ (Moves.mono (by decide) (State.modRadio_moves _ _ (fun h => by obtain ⟨h1, h2, h3⟩ := h; dsimp only; (repeat' split) <;> exact ⟨by simpa using h1, by simpa using h2, h3⟩)))
  exact Moves.refl _ _

end Sys2Proof.Machine
end

