-- ==== Sys2Proof/Laws/Release.lean ====
section
/-!
SUPPORT. What the operations of Machine/Release.lean leave unchanged, and what they keep.
-/
namespace Sys2Proof.Machine

theorem State.addCause_moves (b : Nat) (s : State) :
    Moves [.rel] s (State.addCause b s) := by
  unfold State.addCause
  refine Moves.step ?_ (Moves.mono (by decide) (State.modRel_moves _ _))
  exact Moves.refl _ _

theorem State.dropCause_moves (b : Nat) (s : State) :
    Moves [.rel] s (State.dropCause b s) := by
  unfold State.dropCause
  refine Moves.step ?_ (Moves.mono (by decide) (State.modRel_moves _ _))
  exact Moves.refl _ _

theorem State.latchPair_moves (set : Bool) (s : State) :
    Moves [.rel] s (State.latchPair set s) := by
  unfold State.latchPair
  refine Moves.step ?_ (Moves.mono (by decide) (State.modRel_moves _ _))
  exact Moves.refl _ _

theorem State.moveTo_moves (d : Decision) (s : State) :
    Moves [.evc, .rel, .ledger] s (State.moveTo d s) := by
  unfold State.moveTo
  try extract_lets +onlyGivenNames x0
  try clear_value x0
  extract_lets +onlyGivenNames x1
  have hx1 : Moves [.evc, .rel, .ledger] s x1 := by
    refine Moves.ite (fun _ => ?_) (fun _ => ?_)
    · refine Moves.step ?_ (Moves.mono (by decide) (State.dropCause_moves _ _))
      exact Moves.refl _ _
    · exact Moves.refl _ _
  clear_value x1
  extract_lets +onlyGivenNames x2
  have hx2 : Moves [.evc, .rel, .ledger] s x2 := by
    refine Moves.step ?_ (Moves.mono (by decide) (State.modRel_moves _ _))
    exact hx1
  clear_value x2
  extract_lets +onlyGivenNames x3
  have hx3 : Moves [.evc, .rel, .ledger] s x3 := by
    refine Moves.step ?_ (Moves.mono (by decide) (State.raise_moves _ _ _))
    refine Moves.step ?_ (Moves.mono (by decide) (State.ledgerAdd_moves _ _ _ _))
    exact hx2
  clear_value x3
  refine Moves.ite (fun _ => ?_) (fun _ => ?_)
  · refine Moves.step ?_ (Moves.mono (by decide) (State.raise_moves _ _ _))
    exact hx3
  · exact hx3

theorem State.applyMode_moves (s : State) :
    Moves [.rel] s (State.applyMode s) := by
  unfold State.applyMode
  refine Moves.ite (fun _ => ?_) (fun _ => ?_)
  · refine Moves.step ?_ (Moves.mono (by decide) (State.modRel_moves _ _))
    exact Moves.refl _ _
  · exact Moves.refl _ _

theorem State.grantWith_moves (p : Presence) (s : State) :
    Moves [.evc, .rel, .ledger] s (State.grantWith p s) := by
  unfold State.grantWith
  try extract_lets +onlyGivenNames x0
  try clear_value x0
  try extract_lets +onlyGivenNames x1
  try clear_value x1
  extract_lets +onlyGivenNames x2
  have hx2 : Moves [.evc, .rel, .ledger] s x2 := by
    refine Moves.step ?_ (Moves.mono (by decide) (State.modRel_moves _ _))
    exact Moves.refl _ _
  clear_value x2
  refine Moves.step ?_ (Moves.mono (by decide) (State.latchPair_moves _ _))
  refine Moves.step ?_ (Moves.mono (by decide) (State.ledgerAdd_moves _ _ _ _))
  refine Moves.step ?_ (Moves.mono (by decide) (State.moveTo_moves _ _))
  exact hx2

theorem State.tryGrant_moves (s : State) :
    Moves [.evc, .psc, .pad, .mbx, .fab, .parts, .lf, .pop, .radio, .sess, .rel, .keys, .ledger, .health, .free] s (State.tryGrant s) := by
  unfold State.tryGrant
  split
  · refine Moves.ite (fun _ => ?_) (fun _ => ?_)
    · exact Moves.refl _ _
    · refine Moves.ite (fun _ => ?_) (fun _ => ?_)
      · refine Moves.step ?_ (Moves.mono (by decide) (State.grantWith_moves _ _))
        exact Moves.refl _ _
      · refine Moves.ite (fun _ => ?_) (fun _ => ?_)
        · refine Moves.step ?_ (Moves.mono (by decide) (State.requestCheck_moves _ _))
          exact Moves.refl _ _
        · exact Moves.refl _ _
  · exact Moves.refl _ _

theorem State.ownCauses_moves (s : State) :
    Moves [.rel] s (State.ownCauses s) := by
  unfold State.ownCauses
  refine Moves.ite (fun _ => ?_) (fun _ => ?_)
  · exact Moves.refl _ _
  · extract_lets +onlyGivenNames x0
    have hx0 : Moves [.rel] s x0 := by
      refine Moves.ite (fun _ => ?_) (fun _ => ?_)
      · refine Moves.step ?_ (Moves.mono (by decide) (State.addCause_moves _ _))
        exact Moves.refl _ _
      · exact Moves.refl _ _
    clear_value x0
    refine Moves.ite (fun _ => ?_) (fun _ => ?_)
    · refine Moves.step ?_ (Moves.mono (by decide) (State.addCause_moves _ _))
      exact hx0
    · exact hx0

theorem State.decideOnce_moves (at226 : Bool) (s : State) :
    Moves [.evc, .psc, .pad, .mbx, .fab, .parts, .lf, .pop, .radio, .sess, .rel, .keys, .ledger, .health, .free] s (State.decideOnce at226 s) := by
  unfold State.decideOnce
  try extract_lets +onlyGivenNames x0
  try clear_value x0
  try extract_lets +onlyGivenNames x1
  try clear_value x1
  split
  · refine Moves.ite (fun _ => ?_) (fun _ => ?_)
    · refine Moves.step ?_ (Moves.mono (by decide) (State.moveTo_moves _ _))
      exact Moves.refl _ _
    · exact Moves.refl _ _
  · refine Moves.ite (fun _ => ?_) (fun _ => ?_)
    · refine Moves.step ?_ (Moves.mono (by decide) (State.moveTo_moves _ _))
      exact Moves.refl _ _
    · refine Moves.step ?_ (Moves.mono (by decide) (State.tryGrant_moves _))
      exact Moves.refl _ _
  · refine Moves.ite (fun _ => ?_) (fun _ => ?_)
    · refine Moves.step ?_ (Moves.mono (by decide) (State.moveTo_moves _ _))
      exact Moves.refl _ _
    · refine Moves.ite (fun _ => ?_) (fun _ => ?_)
      · refine Moves.step ?_ (Moves.mono (by decide) (State.moveTo_moves _ _))
        exact Moves.refl _ _
      · exact Moves.refl _ _
  · refine Moves.ite (fun _ => ?_) (fun _ => ?_)
    · exact Moves.refl _ _
    · refine Moves.ite (fun _ => ?_) (fun _ => ?_)
      · refine Moves.step ?_ (Moves.mono (by decide) (State.moveTo_moves _ _))
        exact Moves.refl _ _
      · refine Moves.step ?_ (Moves.mono (by decide) (State.moveTo_moves _ _))
        exact Moves.refl _ _
  · refine Moves.ite (fun _ => ?_) (fun _ => ?_)
    · exact Moves.refl _ _
    · refine Moves.ite (fun _ => ?_) (fun _ => ?_)
      · refine Moves.step ?_ (Moves.mono (by decide) (State.moveTo_moves _ _))
        exact Moves.refl _ _
      · refine Moves.ite (fun _ => ?_) (fun _ => ?_)
        · refine Moves.step ?_ (Moves.mono (by decide) (State.moveTo_moves _ _))
          exact Moves.refl _ _
        · exact Moves.refl _ _

theorem State.evalWith_moves (at226 : Bool) (s : State) :
    Moves [.evc, .psc, .pad, .mbx, .fab, .parts, .lf, .pop, .radio, .sess, .rel, .keys, .ledger, .health, .free] s (State.evalWith at226 s) := by
  unfold State.evalWith
  refine Moves.ite (fun _ => ?_) (fun _ => ?_)
  · exact Moves.refl _ _
  · refine Moves.step ?_ (Moves.mono (by decide) (State.decideOnce_moves _ _))
    refine Moves.step ?_ (Moves.mono (by decide) (State.decideOnce_moves _ _))
    refine Moves.step ?_ (Moves.mono (by decide) (State.decideOnce_moves _ _))
    refine Moves.step ?_ (Moves.mono (by decide) (State.decideOnce_moves _ _))
    refine Moves.step ?_ (Moves.mono (by decide) (State.ownCauses_moves _))
    refine Moves.step ?_ (Moves.mono (by decide) (State.applyMode_moves _))
    exact Moves.refl _ _

theorem State.evalDecision_moves (s : State) :
    Moves [.evc, .psc, .pad, .mbx, .fab, .parts, .lf, .pop, .radio, .sess, .rel, .keys, .ledger, .health, .free] s (State.evalDecision s) := by
  unfold State.evalDecision
  refine Moves.step ?_ (Moves.mono (by decide) (State.evalWith_moves _ _))
  exact Moves.refl _ _

theorem State.evalRule_moves (s : State) :
    Moves [.evc, .psc, .pad, .mbx, .fab, .parts, .lf, .pop, .radio, .sess, .rel, .keys, .ledger, .health, .free] s (State.evalRule s) := by
  unfold State.evalRule
  extract_lets +onlyGivenNames x0
  have hx0 : Moves [.evc, .psc, .pad, .mbx, .fab, .parts, .lf, .pop, .radio, .sess, .rel, .keys, .ledger, .health, .free] s x0 := by
    refine Moves.step ?_ (Moves.mono (by decide) (State.evalWith_moves _ _))
    exact Moves.refl _ _
  clear_value x0
  refine Moves.ite (fun _ => ?_) (fun _ => ?_)
  · refine Moves.step ?_ (Moves.mono (by decide) (State.wakeSource_moves _ _))
    exact hx0
  · exact hx0

theorem State.revoked_moves (s : State) :
    Moves [.evc, .rel, .ledger] s (State.revoked s) := by
  unfold State.revoked
  refine Moves.step ?_ (Moves.mono (by decide) (State.applyMode_moves _))
  refine Moves.step ?_ (Moves.mono (by decide) (State.modRel_moves _ _))
  refine Moves.step ?_ (Moves.mono (by decide) (State.moveTo_moves _ _))
  exact Moves.refl _ _

theorem State.resumeDecision_moves (s0 : State) :
    Moves [.evc, .rel, .ledger] s0 (State.resumeDecision s0) := by
  unfold State.resumeDecision
  extract_lets +onlyGivenNames x0
  have hx0 : Moves [.evc, .rel, .ledger] s0 x0 := by
    unfold x0
    clear x0
    split
    · refine Moves.step ?_ (Moves.mono (by decide) (State.raise_moves _ _ _))
      refine Moves.step ?_ (Moves.mono (by decide) (State.ledgerAdd_moves _ _ _ _))
      refine Moves.step ?_ (Moves.mono (by decide) (State.modRel_moves _ _))
      exact Moves.refl _ _
    · exact Moves.refl _ _
  clear_value x0
  extract_lets +onlyGivenNames x1
  have hx1 : Moves [.evc, .rel, .ledger] s0 x1 := by
    refine Moves.step ?_ (Moves.mono (by decide) (State.dropCause_moves _ _))
    exact hx0
  clear_value x1
  refine Moves.ite (fun _ => ?_) (fun _ => ?_)
  · extract_lets +onlyGivenNames x2
    have hx2 : Moves [.evc, .rel, .ledger] s0 x2 := by
      refine Moves.ite (fun _ => ?_) (fun _ => ?_)
      · exact hx1
      · refine Moves.step ?_ (Moves.mono (by decide) (State.moveTo_moves _ _))
        exact hx1
    clear_value x2
    refine Moves.step ?_ (Moves.mono (by decide) (State.modRel_moves _ _))
    exact hx2
  · extract_lets +onlyGivenNames x3
    have hx3 : Moves [.evc, .rel, .ledger] s0 x3 := by
      refine Moves.ite (fun _ => ?_) (fun _ => ?_)
      · refine Moves.step ?_ (Moves.mono (by decide) (State.revoked_moves _))
        exact hx1
      · exact hx1
    clear_value x3
    try extract_lets +onlyGivenNames x4
    try clear_value x4
    refine Moves.step ?_ (Moves.mono (by decide) (State.applyMode_moves _))
    refine Moves.ite (fun _ => ?_) (fun _ => ?_)
    · exact hx3
    · refine Moves.step ?_ (Moves.mono (by decide) (State.moveTo_moves _ _))
      exact hx3

theorem State.sstlLevel_moves (b level : Bool) (s : State) :
    Moves [.evc, .rel] s (State.sstlLevel b level s) := by
  unfold State.sstlLevel
  extract_lets +onlyGivenNames x0
  have hx0 : Moves [.evc, .rel] s x0 := by
    refine Moves.step ?_ (Moves.mono (by decide) (State.modRel_moves _ _))
    exact Moves.refl _ _
  clear_value x0
  refine Moves.ite (fun _ => ?_) (fun _ => ?_)
  · refine Moves.step ?_ (Moves.mono (by decide) (State.raise_moves _ _ _))
    exact hx0
  · exact hx0

theorem doSstlDisagree_moves (s : State) :
    Moves [.evc, .rel] s (doSstlDisagree s) := by
  unfold doSstlDisagree
  try extract_lets +onlyGivenNames x0
  try clear_value x0
  refine Moves.ite (fun _ => ?_) (fun _ => ?_)
  · refine Moves.step ?_ (Moves.mono (by decide) (State.raise_moves _ _ _))
    refine Moves.step ?_ (Moves.mono (by decide) (State.modRel_moves _ _))
    exact Moves.refl _ _
  · exact Moves.refl _ _

theorem State.feedbackNote_moves (cond : Nat) (on : Bool) (s : State) :
    Moves [.evc, .ledger] s (State.feedbackNote cond on s) := by
  unfold State.feedbackNote
  extract_lets +onlyGivenNames x0
  have hx0 : Moves [.evc, .ledger] s x0 := by
    refine Moves.ite (fun _ => ?_) (fun _ => ?_)
    · refine Moves.step ?_ (Moves.mono (by decide) (State.ledgerAdd_moves _ _ _ _))
      exact Moves.refl _ _
    · exact Moves.refl _ _
  clear_value x0
  refine Moves.step ?_ (Moves.mono (by decide) (State.raise_moves _ _ _))
  exact hx0

theorem State.feedbackChange_moves (cond : Nat) (on : Bool) (s : State) :
    Moves [.evc, .rel, .ledger] s (State.feedbackChange cond on s) := by
  unfold State.feedbackChange
  refine Moves.ite (fun _ => ?_) (fun _ => ?_)
  · refine Moves.step ?_ (Moves.mono (by decide) (State.modRel_moves _ _))
    exact Moves.refl _ _
  · refine Moves.step ?_ (Moves.mono (by decide) (State.feedbackNote_moves _ _ _))
    exact Moves.refl _ _

theorem State.feedbackWake_moves (s : State) :
    Moves [.evc, .rel, .ledger] s (State.feedbackWake s) := by
  unfold State.feedbackWake
  refine Moves.foldl ?_ (fun x0 _ hx0 => ?_)
  · refine Moves.step ?_ (Moves.mono (by decide) (State.modRel_moves _ _))
    exact Moves.refl _ _
  · refine Moves.step ?_ (Moves.mono (by decide) (State.feedbackNote_moves _ _ _))
    exact hx0

theorem State.setFeedback_moves (high low wave : Bool) (s : State) :
    Moves [.evc, .rel, .ledger] s (State.setFeedback high low wave s) := by
  unfold State.setFeedback
  extract_lets +onlyGivenNames x0
  have hx0 : Moves [.evc, .rel, .ledger] s x0 := by
    refine Moves.step ?_ (Moves.mono (by decide) (State.modRel_moves _ _))
    exact Moves.refl _ _
  clear_value x0
  extract_lets +onlyGivenNames x1
  have hx1 : Moves [.evc, .rel, .ledger] s x1 := by
    refine Moves.ite (fun _ => ?_) (fun _ => ?_)
    · exact hx0
    · refine Moves.step ?_ (Moves.mono (by decide) (State.feedbackChange_moves _ _ _))
      exact hx0
  clear_value x1
  extract_lets +onlyGivenNames x2
  have hx2 : Moves [.evc, .rel, .ledger] s x2 := by
    refine Moves.ite (fun _ => ?_) (fun _ => ?_)
    · exact hx1
    · refine Moves.step ?_ (Moves.mono (by decide) (State.feedbackChange_moves _ _ _))
      exact hx1
  clear_value x2
  refine Moves.ite (fun _ => ?_) (fun _ => ?_)
  · exact hx2
  · refine Moves.step ?_ (Moves.mono (by decide) (State.feedbackChange_moves _ _ _))
    exact hx2

theorem doReadbackWindowEnd_moves (fbS : Option Bool) (dEdge dRule : Bool) (s : State) :
    Moves [.evc, .psc, .pad, .mbx, .fab, .parts, .lf, .pop, .radio, .sess, .rel, .keys, .ledger, .health, .free] s (doReadbackWindowEnd fbS dEdge dRule s) := by
  unfold doReadbackWindowEnd
  refine Moves.ite (fun _ => ?_) (fun _ => ?_)
  · exact Moves.refl _ _
  · try extract_lets +onlyGivenNames x0
    try clear_value x0
    try extract_lets +onlyGivenNames x1
    try clear_value x1
    extract_lets +onlyGivenNames x2
    have hx2 : Moves [.evc, .psc, .pad, .mbx, .fab, .parts, .lf, .pop, .radio, .sess, .rel, .keys, .ledger, .health, .free] s x2 := by
      refine Moves.ite (fun _ => ?_) (fun _ => ?_)
      · refine Moves.step ?_ (Moves.mono (by decide) (State.setFeedback_moves _ _ _ _))
        exact Moves.refl _ _
      · refine Moves.ite (fun _ => ?_) (fun _ => ?_)
        · refine Moves.step ?_ (Moves.mono (by decide) (State.setFeedback_moves _ _ _ _))
          exact Moves.refl _ _
        · refine Moves.step ?_ (Moves.mono (by decide) (State.setFeedback_moves _ _ _ _))
          exact Moves.refl _ _
    clear_value x2
    extract_lets +onlyGivenNames x3
    have hx3 : Moves [.evc, .psc, .pad, .mbx, .fab, .parts, .lf, .pop, .radio, .sess, .rel, .keys, .ledger, .health, .free] s x3 := by
      refine Moves.step ?_ (Moves.mono (by decide) (State.modRel_moves _ _))
      exact hx2
    clear_value x3
    refine Moves.step ?_ (Moves.mono (by decide) (State.evalDecision_moves _))
    refine Moves.ite (fun _ => ?_) (fun _ => ?_)
    · refine Moves.step ?_ (Moves.mono (by decide) (State.revoked_moves _))
      exact hx3
    · exact hx3

theorem doIdleExpiry_moves (s : State) :
    Moves [.rel] s (doIdleExpiry s) := by
  unfold doIdleExpiry
  try extract_lets +onlyGivenNames x0
  try clear_value x0
  refine Moves.ite (fun _ => ?_) (fun _ => ?_)
  · refine Moves.step ?_ (Moves.mono (by decide) (State.addCause_moves _ _))
    exact Moves.refl _ _
  · exact Moves.refl _ _

theorem doRevokeNoticeElapsed_moves (s : State) :
    Moves [.rel] s (doRevokeNoticeElapsed s) := by
  unfold doRevokeNoticeElapsed
  refine Moves.ite (fun _ => ?_) (fun _ => ?_)
  · refine Moves.step ?_ (Moves.mono (by decide) (State.modRel_moves _ _))
    refine Moves.step ?_ (Moves.mono (by decide) (State.latchPair_moves _ _))
    exact Moves.refl _ _
  · exact Moves.refl _ _

theorem doPermissionOscillatorTrim_moves (ppm : Int) (s : State) :
    Moves [.rel] s (doPermissionOscillatorTrim ppm s) := by
  unfold doPermissionOscillatorTrim
  refine Moves.ite (fun _ => ?_) (fun _ => ?_)
  · refine Moves.step ?_ (Moves.mono (by decide) (State.modRel_moves _ _))
    exact Moves.refl _ _
  · exact Moves.refl _ _

theorem doGraceExpiry_moves (s : State) :
    Moves [.rel] s (doGraceExpiry s) := by
  unfold doGraceExpiry
  refine Moves.step ?_ (Moves.mono (by decide) (State.ownCauses_moves _))
  exact Moves.refl _ _

end Sys2Proof.Machine
end

