-- ==== Sys2Proof/Laws/Sessions.lean ====
section
/-!
SUPPORT. What the operations of Machine/Sessions.lean leave unchanged, and what they keep.
-/
namespace Sys2Proof.Machine

theorem State.modRound_moves (f : Round → Round) (s : State) :
    Moves [.sess] s (State.modRound f s) := by
  unfold State.modRound
  refine Moves.step ?_ (Moves.mono (by decide) (State.modSess_moves _ _))
  exact Moves.refl _ _

theorem State.modLane_moves (k : Nat) (f : Lane → Lane) (s : State) :
    Moves [.sess] s (State.modLane k f s) := by
  unfold State.modLane
  refine Moves.step ?_ (Moves.mono (by decide) (State.modRound_moves _ _))
  exact Moves.refl _ _

theorem State.testRecord_moves (r : Round) (outcome : Nat) (x : RangeRec) (s : State) :
    Moves [.mbx, .fab, .sess, .mem] s (State.testRecord r outcome x s) := by
  unfold State.testRecord
  split
  · refine Moves.ite (fun _ => ?_) (fun _ => ?_)
    · try extract_lets +onlyGivenNames x0
      try clear_value x0
      refine Moves.step ?_ (Moves.mono (by decide) (State.modSess_moves _ _))
      refine Moves.step ?_ (Moves.mono (by decide) (State.toWindow_moves _ _ _ _))
      refine Moves.step ?_ (Moves.mono (by decide) (State.commit_moves _ _))
      exact Moves.refl _ _
    · exact Moves.refl _ _
  · exact Moves.refl _ _

theorem State.testEnd_moves (t : RangeTest) (status : Nat) (s : State) :
    Moves [.evc, .mbx, .fab, .sess, .free] s (State.testEnd t status s) := by
  unfold State.testEnd
  refine Moves.step ?_ (Moves.mono (by decide) (State.drawn_moves _))
  refine Moves.step ?_ (Moves.mono (by decide) (State.modSess_moves _ _))
  refine Moves.step ?_ (Moves.mono (by decide) (State.conclude_moves _ _ _ _))
  exact Moves.refl _ _

theorem State.testChain_moves (r : Round) (s : State) :
    Moves [.evc, .psc, .pad, .mbx, .fab, .parts, .lf, .sess, .rel, .ledger, .free] s (State.testChain r s) := by
  unfold State.testChain
  split
  · refine Moves.ite (fun _ => ?_) (fun _ => ?_)
    · try extract_lets +onlyGivenNames x0
      try clear_value x0
      extract_lets +onlyGivenNames x1
      have hx1 : Moves [.evc, .psc, .pad, .mbx, .fab, .parts, .lf, .sess, .rel, .ledger, .free] s x1 := by
        refine Moves.step ?_ (Moves.mono (by decide) (State.evalIdentity_moves _ _))
        refine Moves.step ?_ (Moves.mono (by decide) (State.modSess_moves _ _))
        exact Moves.refl _ _
      clear_value x1
      refine Moves.ite (fun _ => ?_) (fun _ => ?_)
      · refine Moves.step ?_ (Moves.mono (by decide) (State.testEnd_moves _ _ _))
        exact hx1
      · refine Moves.ite (fun _ => ?_) (fun _ => ?_)
        · refine Moves.step ?_ (Moves.mono (by decide) (State.testEnd_moves _ _ _))
          exact hx1
        · refine Moves.step ?_ (Moves.mono (by decide) (State.requestWake_moves _ _ _ _))
          exact hx1
    · exact Moves.refl _ _
  · exact Moves.refl _ _

theorem State.endChain_moves (r : Round) (s : State) :
    Moves [.evc, .psc, .pad, .mbx, .fab, .parts, .lf, .sess, .rel, .ledger, .free] s (State.endChain r s) := by
  unfold State.endChain
  try extract_lets +onlyGivenNames x0
  try clear_value x0
  refine Moves.step ?_ (Moves.mono (by decide) (State.testChain_moves _ _))
  refine Moves.foldl ?_ (fun x1 _ hx1 => ?_)
  · exact Moves.refl _ _
  · refine Moves.step ?_ (Moves.mono (by decide) (State.conclude_moves _ _ _ _))
    exact hx1

theorem State.endRound_moves (r : Round) (s : State) :
    Moves [.evc, .psc, .pad, .mbx, .fab, .parts, .lf, .pop, .radio, .sess, .rel, .keys, .ledger, .health, .free] s (State.endRound r s) := by
  unfold State.endRound
  extract_lets +onlyGivenNames x0
  have hx0 : Moves [.evc, .psc, .pad, .mbx, .fab, .parts, .lf, .pop, .radio, .sess, .rel, .keys, .ledger, .health, .free] s x0 := by
    refine Moves.step ?_ (Moves.mono (by decide) (State.raise_moves _ _ _))
    refine Moves.step ?_ (Moves.mono (by decide) (State.modSess_moves _ _))
    exact Moves.refl _ _
  clear_value x0
  extract_lets +onlyGivenNames x1
  have hx1 : Moves [.evc, .psc, .pad, .mbx, .fab, .parts, .lf, .pop, .radio, .sess, .rel, .keys, .ledger, .health, .free] s x1 := by
    refine Moves.ite (fun _ => ?_) (fun _ => ?_)
    · refine Moves.step ?_ (Moves.mono (by decide) (State.wakeRequest_moves _ _))
      exact hx0
    · refine Moves.step ?_ (Moves.mono (by decide) (State.endChain_moves _ _))
      exact hx0
  clear_value x1
  refine Moves.step ?_ (Moves.mono (by decide) (State.serveRecal_moves _))
  refine Moves.step ?_ (Moves.mono (by decide) (State.considerAll_moves _))
  exact hx1

theorem State.settleRound_moves (s : State) :
    Moves [.evc, .psc, .pad, .mbx, .fab, .parts, .lf, .pop, .radio, .sess, .rel, .keys, .ledger, .health, .free] s (State.settleRound s) := by
  unfold State.settleRound
  split
  · refine Moves.ite (fun _ => ?_) (fun _ => ?_)
    · refine Moves.step ?_ (Moves.mono (by decide) (State.endRound_moves _ _))
      exact Moves.refl _ _
    · exact Moves.refl _ _
  · exact Moves.refl _ _

theorem State.issue_moves (r : Round) (l : Lane) (outcome : Nat) (zones : BitVec 16) (s : State) :
    Moves [.mbx, .fab, .sess, .keys, .mem] s (State.issue r l outcome zones s) := by
  unfold State.issue
  try extract_lets +onlyGivenNames x0
  try clear_value x0
  extract_lets +onlyGivenNames x1
  have hx1 : Moves [.mbx, .fab, .sess, .keys, .mem] s x1 := by
    refine Moves.step ?_ (Moves.mono (by decide) (State.dropShadow_moves _ _))
    refine Moves.step ?_ (Moves.mono (by decide) (State.modLane_moves _ _ _))
    refine Moves.step ?_ (Moves.mono (by decide) (State.modSess_moves _ _))
    exact Moves.refl _ _
  clear_value x1
  split
  · refine Moves.step ?_ (Moves.mono (by decide) (State.testRecord_moves _ _ _ _))
    exact hx1
  · exact hx1

theorem State.endLane_moves (l : Lane) (outcome : Nat) (s : State) :
    Moves [.evc, .psc, .pad, .mbx, .fab, .parts, .lf, .pop, .radio, .sess, .rel, .keys, .ledger, .health, .mem, .free] s (State.endLane l outcome s) := by
  unfold State.endLane
  split
  · extract_lets +onlyGivenNames x0
    have hx0 : Moves [.evc, .psc, .pad, .mbx, .fab, .parts, .lf, .pop, .radio, .sess, .rel, .keys, .ledger, .health, .mem, .free] s x0 := by
      refine Moves.ite (fun _ => ?_) (fun _ => ?_)
      · refine Moves.step ?_ (Moves.mono (by decide) (State.countFailure_moves _ _ _ _ _))
        exact Moves.refl _ _
      · exact Moves.refl _ _
    clear_value x0
    refine Moves.step ?_ (Moves.mono (by decide) (State.settleRound_moves _))
    refine Moves.step ?_ (Moves.mono (by decide) (State.issue_moves _ _ _ _ _))
    exact hx0
  · exact Moves.refl _ _

theorem State.settleLanes_moves (s : State) :
    Moves [.evc, .psc, .pad, .mbx, .fab, .parts, .lf, .pop, .radio, .sess, .rel, .keys, .ledger, .health, .mem, .free] s (State.settleLanes s) := by
  unfold State.settleLanes
  split
  · refine Moves.foldl ?_ (fun x0 _ hx0 => ?_)
    · exact Moves.refl _ _
    · refine Moves.step ?_ (Moves.mono (by decide) (State.endLane_moves _ _ _))
      exact hx0
  · exact Moves.refl _ _

theorem State.cutLane_moves {l : Lane} {s t : State} (h : s.cutLane l = some t) : Moves [.evc, .psc, .pad, .mbx, .fab, .parts, .lf, .pop, .radio, .sess, .rel, .keys, .ledger, .health, .mem, .free] s t := by
  have end_ : ∀ k, Moves [.evc, .psc, .pad, .mbx, .fab, .parts, .lf, .pop, .radio, .sess, .rel, .keys, .ledger, .health, .mem, .free] s ((s.endLane l k).seqIdle s.now) := fun k =>
    Moves.trans (Moves.mono (by decide) (State.endLane_moves _ _ _)) (Moves.mono (by decide) (State.seqIdle_moves _ _))
  unfold State.cutLane at h
  split at h
  · cases h; exact end_ 7
  · split at h
    · cases h; exact end_ 10
    · cases h

theorem State.slotAnswer_moves (r : Round) (slot : Nat) (p : List Byte) (s : State) :
    Moves [.sess] s (State.slotAnswer r slot p s) := by
  unfold State.slotAnswer
  try extract_lets +onlyGivenNames x0
  try clear_value x0
  try extract_lets +onlyGivenNames x1
  try clear_value x1
  refine Moves.ite (fun _ => ?_) (fun _ => ?_)
  · exact Moves.refl _ _
  · refine Moves.step ?_ (Moves.mono (by decide) (State.modRound_moves _ _))
    exact Moves.refl _ _

theorem State.setSlot_moves (slot : Nat) (k : SlotKind) (s : State) :
    Moves [.sess] s (State.setSlot slot k s) := by
  unfold State.setSlot
  refine Moves.step ?_ (Moves.mono (by decide) (State.modRound_moves _ _))
  exact Moves.refl _ _

theorem State.setSynced_moves (slot : Nat) (s : State) :
    Moves [.sess] s (State.setSynced slot s) := by
  unfold State.setSynced
  refine Moves.step ?_ (Moves.mono (by decide) (State.modRound_moves _ _))
  exact Moves.refl _ _

theorem doSlotAnswer_moves (slot : Nat) (frame : Option (List Byte)) (s : State) : Moves [.sess] s (doSlotAnswer slot frame s) := by
  have put : ∀ k (u : State), Moves [.sess] u (u.setSlot slot k) := fun k u => Moves.mono (by decide) (State.setSlot_moves _ _ _)
  have sync : Moves [.sess] s (s.setSynced slot) := Moves.mono (by decide) (State.setSynced_moves _ _)
  unfold doSlotAnswer
  split
  · dsimp only
    refine Moves.ite (fun _ => Moves.refl _ _) (fun _ => ?_)
    split
    · exact Moves.ite (fun _ => put _ _) (fun _ => Moves.refl _ _)
    · split
      · exact Moves.ite (fun _ => (sync.trans (put _ _)).trans (Moves.mono (by decide) (State.slotAnswer_moves _ _ _ _)))
          (fun _ => sync.trans (put _ _))
      · exact sync.trans (put _ _)
  · exact Moves.refl _ _

theorem doDerivationComplete_moves (slot : Nat) (s : State) :
    Moves [.sess] s (doDerivationComplete slot s) := by
  unfold doDerivationComplete
  try extract_lets +onlyGivenNames x0
  try clear_value x0
  refine Moves.step ?_ (Moves.mono (by decide) (State.modRound_moves _ _))
  exact Moves.refl _ _

theorem State.metAnswer_moves (ident : Nat) (s : State) :
    Moves [.evc, .parts, .ledger] s (State.metAnswer ident s) := by
  unfold State.metAnswer
  extract_lets +onlyGivenNames x0
  have hx0 : Moves [.evc, .parts, .ledger] s x0 := by
    refine Moves.step ?_ (Moves.mono (by decide) (State.evalIdentity_moves _ _))
    exact Moves.refl _ _
  clear_value x0
  refine Moves.ite (fun _ => ?_) (fun _ => ?_)
  · exact hx0
  · refine Moves.step ?_ (Moves.mono (by decide) (State.metIdentity_moves _ _ _ _))
    exact hx0

theorem State.admitLanes_moves (r : Round) (s : State) :
    Moves [.evc, .parts, .sess, .keys, .ledger] s (State.admitLanes r s) := by
  unfold State.admitLanes
  extract_lets +onlyGivenNames x0
  have hx0 : Moves [.evc, .parts, .sess, .keys, .ledger] s x0 := by
    refine Moves.foldl ?_ (fun x1 _ hx1 => ?_)
    · exact Moves.refl _ _
    · refine Moves.step ?_ (Moves.mono (by decide) (State.evalAttach_moves _ _))
      exact hx1
  clear_value x0
  extract_lets +onlyGivenNames x2
  have hx2 : Moves [.evc, .parts, .sess, .keys, .ledger] s x2 := by
    refine Moves.foldl ?_ (fun x3 _ hx3 => ?_)
    · exact hx0
    · refine Moves.step ?_ (Moves.mono (by decide) (State.metAnswer_moves _ _))
      exact hx3
  clear_value x2
  try extract_lets +onlyGivenNames x4
  try clear_value x4
  try extract_lets +onlyGivenNames x5
  try clear_value x5
  try extract_lets +onlyGivenNames x6
  try clear_value x6
  refine Moves.step ?_ (Moves.mono (by decide) (State.dropShadows_moves _ _))
  refine Moves.step ?_ (Moves.mono (by decide) (State.modRound_moves _ _))
  refine Moves.step ?_ (Moves.mono (by decide) (State.modSess_moves _ _))
  exact hx2

theorem doResponseWindowClose_moves (s : State) :
    Moves [.evc, .psc, .pad, .mbx, .fab, .parts, .lf, .pop, .radio, .sess, .rel, .keys, .ledger, .health, .free] s (doResponseWindowClose s) := by
  unfold doResponseWindowClose
  split
  · refine Moves.ite (fun _ => ?_) (fun _ => ?_)
    · exact Moves.refl _ _
    · refine Moves.step ?_ (Moves.mono (by decide) (State.settleRound_moves _))
      refine Moves.step ?_ (Moves.mono (by decide) (State.admitLanes_moves _ _))
      exact Moves.refl _ _
  · exact Moves.refl _ _

theorem State.openLane_moves (r : Round) (l : Lane) (s : State) :
    Moves [.evc, .psc, .pad, .mbx, .fab, .parts, .lf, .pop, .radio, .sess, .rel, .keys, .ledger, .health, .mem, .free] s (State.openLane r l s) := by
  unfold State.openLane
  try extract_lets +onlyGivenNames x0
  try clear_value x0
  refine Moves.step ?_ (Moves.mono (by decide) (State.settleLanes_moves _))
  refine Moves.step ?_ (Moves.mono (by decide) (State.seqSendUhf_moves _ _))
  refine Moves.step ?_ (Moves.mono (by decide) (State.spendC_moves _ _))
  refine Moves.step ?_ (Moves.mono (by decide) (State.modRadio_movesAll _ _ (fun _ => by exact Radio.keeps_of rfl rfl rfl)))
  refine Moves.step ?_ (Moves.mono (by decide) (State.modLane_moves _ _ _))
  exact Moves.refl _ _

theorem doLaneOpen_moves (s : State) :
    Moves [.evc, .psc, .pad, .mbx, .fab, .parts, .lf, .pop, .radio, .sess, .rel, .keys, .ledger, .health, .mem, .free] s (doLaneOpen s) := by
  unfold doLaneOpen
  split
  · split
    · refine Moves.ite (fun _ => ?_) (fun _ => ?_)
      · refine Moves.step ?_ (Moves.mono (by decide) (State.endLane_moves _ _ _))
        exact Moves.refl _ _
      · refine Moves.ite (fun _ => ?_) (fun _ => ?_)
        · refine Moves.step ?_ (Moves.mono (by decide) (State.endLane_moves _ _ _))
          exact Moves.refl _ _
        · refine Moves.step ?_ (Moves.mono (by decide) (State.openLane_moves _ _ _))
          exact Moves.refl _ _
    · exact Moves.refl _ _
  · exact Moves.refl _ _

theorem State.startRange_moves (r : Round) (l : Lane) (s : State) :
    Moves [.evc, .psc, .pad, .mbx, .fab, .parts, .lf, .pop, .radio, .sess, .rel, .keys, .ledger, .health, .mem, .free] s (State.startRange r l s) := by
  unfold State.startRange
  try extract_lets +onlyGivenNames x0
  try clear_value x0
  try extract_lets +onlyGivenNames x1
  try clear_value x1
  try extract_lets +onlyGivenNames x2
  try clear_value x2
  try extract_lets +onlyGivenNames x3
  try clear_value x3
  refine Moves.step ?_ (Moves.mono (by decide) (State.settleLanes_moves _))
  refine Moves.step ?_ (Moves.mono (by decide) (State.seqRange_moves _ _ _ _))
  refine Moves.step ?_ (Moves.mono (by decide) (State.modLane_moves _ _ _))
  exact Moves.refl _ _

theorem doResponseFrame_moves (frame : List Byte) (s : State) :
    Moves [.evc, .psc, .pad, .mbx, .fab, .parts, .lf, .pop, .radio, .sess, .rel, .keys, .ledger, .health, .mem, .free] s (doResponseFrame frame s) := by
  unfold doResponseFrame
  split
  · split
    · refine Moves.trans ?_ (Moves.mono (by decide) (State.cutLane_moves (by assumption))); first | exact Moves.refl _ _ | assumption
    · split
      · refine Moves.ite (fun _ => ?_) (fun _ => ?_)
        · exact Moves.refl _ _
        · refine Moves.ite (fun _ => ?_) (fun _ => ?_)
          · refine Moves.step ?_ (Moves.mono (by decide) (State.startRange_moves _ _ _))
            exact Moves.refl _ _
          · refine Moves.step ?_ (Moves.mono (by decide) (State.seqIdle_moves _ _))
            refine Moves.step ?_ (Moves.mono (by decide) (State.endLane_moves _ _ _))
            exact Moves.refl _ _
      · exact Moves.refl _ _
  · exact Moves.refl _ _

theorem doTagDeadline_moves (s : State) :
    Moves [.evc, .psc, .pad, .mbx, .fab, .parts, .lf, .pop, .radio, .sess, .rel, .keys, .ledger, .health, .mem, .free] s (doTagDeadline s) := by
  unfold doTagDeadline
  split
  · split
    · refine Moves.trans ?_ (Moves.mono (by decide) (State.cutLane_moves (by assumption))); first | exact Moves.refl _ _ | assumption
    · refine Moves.ite (fun _ => ?_) (fun _ => ?_)
      · refine Moves.step ?_ (Moves.mono (by decide) (State.seqIdle_moves _ _))
        refine Moves.step ?_ (Moves.mono (by decide) (State.endLane_moves _ _ _))
        exact Moves.refl _ _
      · exact Moves.refl _ _
  · exact Moves.refl _ _

theorem State.endExchange_moves (l : Lane) (outcome : Nat) (s : State) :
    Moves [.evc, .psc, .pad, .mbx, .fab, .parts, .lf, .pop, .radio, .sess, .rel, .keys, .ledger, .health, .mem, .free] s (State.endExchange l outcome s) := by
  unfold State.endExchange
  refine Moves.ite (fun _ => ?_) (fun _ => ?_)
  · refine Moves.step ?_ (Moves.mono (by decide) (State.settleLanes_moves _))
    refine Moves.step ?_ (Moves.mono (by decide) (State.serveRecal_moves _))
    refine Moves.step ?_ (Moves.mono (by decide) (State.endRanging_moves _))
    refine Moves.step ?_ (Moves.mono (by decide) (State.endLane_moves _ _ _))
    exact Moves.refl _ _
  · extract_lets +onlyGivenNames x0
    have hx0 : Moves [.evc, .psc, .pad, .mbx, .fab, .parts, .lf, .pop, .radio, .sess, .rel, .keys, .ledger, .health, .mem, .free] s x0 := by
      refine Moves.step ?_ (Moves.mono (by decide) (State.endLane_moves _ _ _))
      exact Moves.refl _ _
    clear_value x0
    refine Moves.step ?_ (Moves.mono (by decide) (State.settleLanes_moves _))
    refine Moves.step ?_ (Moves.mono (by decide) (State.serveRecal_moves _))
    refine Moves.ite (fun _ => ?_) (fun _ => ?_)
    · refine Moves.step ?_ (Moves.mono (by decide) (State.seqIdle_moves _ _))
      exact hx0
    · refine Moves.step ?_ (Moves.mono (by decide) (State.endRanging_moves _))
      exact hx0

theorem State.loseAttempt_moves (l : Lane) (s : State) :
    Moves [.evc, .psc, .pad, .mbx, .fab, .parts, .lf, .pop, .radio, .sess, .rel, .keys, .ledger, .health, .mem, .free] s (State.loseAttempt l s) := by
  unfold State.loseAttempt
  refine Moves.ite (fun _ => ?_) (fun _ => ?_)
  · refine Moves.step ?_ (Moves.mono (by decide) (State.rangeAnt_moves _ _))
    refine Moves.step ?_ (Moves.mono (by decide) (State.modRadio_movesAll _ _ (fun _ => by exact Radio.keeps_of rfl rfl rfl)))
    refine Moves.step ?_ (Moves.mono (by decide) (State.modLane_moves _ _ _))
    exact Moves.refl _ _
  · refine Moves.step ?_ (Moves.mono (by decide) (State.endExchange_moves _ _ _))
    exact Moves.refl _ _

theorem State.sendPoll_moves (l : Lane) (s : State) :
    Moves [.radio, .sess] s (State.sendPoll l s) := by
  unfold State.sendPoll
  try extract_lets +onlyGivenNames x0
  try clear_value x0
  try extract_lets +onlyGivenNames x1
  try clear_value x1
  refine Moves.step ?_ (Moves.mono (by decide) (State.rangeAnt_moves _ _))
  refine Moves.step ?_ (Moves.mono (by decide) (State.modRadio_movesAll _ _ (fun _ => by exact Radio.keeps_of rfl rfl rfl)))
  refine Moves.step ?_ (Moves.mono (by decide) (State.modLane_moves _ _ _))
  exact Moves.refl _ _

theorem doPoll_moves (s : State) :
    Moves [.evc, .psc, .pad, .mbx, .fab, .parts, .lf, .pop, .radio, .sess, .rel, .keys, .ledger, .health, .mem, .free] s (doPoll s) := by
  unfold doPoll
  split
  · split
    · refine Moves.trans ?_ (Moves.mono (by decide) (State.cutLane_moves (by assumption))); first | exact Moves.refl _ _ | assumption
    · refine Moves.ite (fun _ => ?_) (fun _ => ?_)
      · refine Moves.step ?_ (Moves.mono (by decide) (State.sendPoll_moves _ _))
        exact Moves.refl _ _
      · exact Moves.refl _ _
  · exact Moves.refl _ _

theorem State.takeResponse_moves (r : Round) (l : Lane) (m : Reception) (s : State) :
    Moves [.radio, .sess] s (State.takeResponse r l m s) := by
  unfold State.takeResponse
  try extract_lets +onlyGivenNames x0
  try clear_value x0
  try extract_lets +onlyGivenNames x1
  try clear_value x1
  try extract_lets +onlyGivenNames x2
  try clear_value x2
  try extract_lets +onlyGivenNames x3
  try clear_value x3
  try extract_lets +onlyGivenNames x4
  try clear_value x4
  try extract_lets +onlyGivenNames x5
  try clear_value x5
  try extract_lets +onlyGivenNames x6
  try clear_value x6
  try extract_lets +onlyGivenNames x7
  try clear_value x7
  try extract_lets +onlyGivenNames x8
  try clear_value x8
  try extract_lets +onlyGivenNames x9
  try clear_value x9
  try extract_lets +onlyGivenNames x10
  try clear_value x10
  refine Moves.step ?_ (Moves.mono (by decide) (State.rangeAnt_moves _ _))
  refine Moves.step ?_ (Moves.mono (by decide) (State.modRadio_movesAll _ _ (fun _ => by exact Radio.keeps_of rfl rfl rfl)))
  refine Moves.step ?_ (Moves.mono (by decide) (State.modLane_moves _ _ _))
  exact Moves.refl _ _

theorem State.putCirs_moves (m : Reception) (s : State) : Moves [.radio, .mem] s (State.putCirs m s) := by
  unfold State.putCirs
  extract_lets +onlyGivenNames x0
  clear_value x0
  refine Moves.step ?_ (Moves.mono (by decide) (State.modMem_moves _ _ (fun h =>
    Memory.wf_foldl (fun _ _ k => Memory.wf_writeBytes k _ _) _ h)))
  refine Moves.step ?_ (Moves.mono (by decide) (State.modRadio_movesAll _ _ (fun _ => by exact Radio.keeps_of rfl rfl rfl)))
  exact Moves.refl _ _

theorem doRangingResponse_moves (m : Reception) (s0 : State) :
    Moves [.evc, .psc, .pad, .mbx, .fab, .parts, .lf, .pop, .radio, .sess, .rel, .keys, .ledger, .health, .mem, .free] s0 (doRangingResponse m s0) := by
  unfold doRangingResponse
  split
  · refine Moves.ite (fun _ => ?_) (fun _ => ?_)
    · exact Moves.refl _ _
    · extract_lets +onlyGivenNames x0
      have hx0 : Moves [.evc, .psc, .pad, .mbx, .fab, .parts, .lf, .pop, .radio, .sess, .rel, .keys, .ledger, .health, .mem, .free] s0 x0 := by
        refine Moves.step ?_ (Moves.mono (by decide) (State.putCirs_moves _ _))
        exact Moves.refl _ _
      clear_value x0
      split
      · refine Moves.trans ?_ (Moves.mono (by decide) (State.cutLane_moves (by assumption))); first | exact Moves.refl _ _ | assumption
      · try extract_lets +onlyGivenNames x1
        try clear_value x1
        refine Moves.ite (fun _ => ?_) (fun _ => ?_)
        · refine Moves.step ?_ (Moves.mono (by decide) (State.loseAttempt_moves _ _))
          exact hx0
        · refine Moves.ite (fun _ => ?_) (fun _ => ?_)
          · try extract_lets +onlyGivenNames x2
            try clear_value x2
            refine Moves.step ?_ (Moves.mono (by decide) (State.endExchange_moves _ _ _))
            exact hx0
          · refine Moves.step ?_ (Moves.mono (by decide) (State.takeResponse_moves _ _ _ _))
            exact hx0
  · exact Moves.refl _ _

theorem doFinal_moves (s : State) :
    Moves [.evc, .psc, .pad, .mbx, .fab, .parts, .lf, .pop, .radio, .sess, .rel, .keys, .ledger, .health, .mem, .free] s (doFinal s) := by
  unfold doFinal
  split
  · split
    · refine Moves.trans ?_ (Moves.mono (by decide) (State.cutLane_moves (by assumption))); first | exact Moves.refl _ _ | assumption
    · try extract_lets +onlyGivenNames x0
      try clear_value x0
      refine Moves.ite (fun _ => ?_) (fun _ => ?_)
      · refine Moves.step ?_ (Moves.mono (by decide) (State.rangeAnt_moves _ _))
        refine Moves.step ?_ (Moves.mono (by decide) (State.modRadio_movesAll _ _ (fun _ => by exact Radio.keeps_of rfl rfl rfl)))
        refine Moves.step ?_ (Moves.mono (by decide) (State.modLane_moves _ _ _))
        exact Moves.refl _ _
      · exact Moves.refl _ _
  · exact Moves.refl _ _

theorem doUwbReceiveWindowExpiry_moves (s : State) :
    Moves [.evc, .psc, .pad, .mbx, .fab, .parts, .lf, .pop, .radio, .sess, .rel, .keys, .ledger, .health, .mem, .free] s (doUwbReceiveWindowExpiry s) := by
  unfold doUwbReceiveWindowExpiry
  split
  · split
    · refine Moves.trans ?_ (Moves.mono (by decide) (State.cutLane_moves (by assumption))); first | exact Moves.refl _ _ | assumption
    · refine Moves.ite (fun _ => ?_) (fun _ => ?_)
      · refine Moves.step ?_ (Moves.mono (by decide) (State.loseAttempt_moves _ _))
        exact Moves.refl _ _
      · exact Moves.refl _ _
  · exact Moves.refl _ _

end Sys2Proof.Machine
end

