-- ==== Sys2Proof/Laws/Ranging.lean ====
section
/-!
SUPPORT. What the operations of Machine/Ranging.lean leave unchanged, and what they keep.
-/
namespace Sys2Proof.Machine

theorem State.absentSeen_moves (p : PartRec) (s : State) :
    Moves [.evc, .ledger] s (State.absentSeen p s) := by
  unfold State.absentSeen
  refine Moves.step ?_ (Moves.mono (by decide) (State.partnerEntry_moves _ _ _ _ _ _ _ _))
  exact Moves.refl _ _

theorem State.present_moves (r : Round) (l : Lane) (p : PartRec) (zones : BitVec 16) (s : State) :
    Moves [.evc, .parts, .rel, .keys] s (State.present r l p zones s) := by
  unfold State.present
  try extract_lets +onlyGivenNames x0
  try clear_value x0
  try extract_lets +onlyGivenNames x1
  try clear_value x1
  extract_lets +onlyGivenNames x2
  have hx2 : Moves [.evc, .parts, .rel, .keys] s x2 := by
    refine Moves.step ?_ (Moves.mono (by decide) (State.raise_moves _ _ _))
    refine Moves.step ?_ (Moves.mono (by decide) (State.modRel_moves _ _))
    exact Moves.refl _ _
  clear_value x2
  refine Moves.ite (fun _ => ?_) (fun _ => ?_)
  · extract_lets +onlyGivenNames x3
    have hx3 : Moves [.evc, .parts, .rel, .keys] s x3 := by
      refine Moves.step ?_ (Moves.mono (by decide) (State.serviceSeen_moves _))
      exact hx2
    clear_value x3
    refine Moves.ite (fun _ => ?_) (fun _ => ?_)
    · refine Moves.step ?_ (Moves.mono (by decide) (State.openWindow_moves _))
      exact hx3
    · exact hx3
  · exact hx2

theorem State.verifiedOutcome_moves (r : Round) (l : Lane) (zones : BitVec 16) (s : State) :
    Moves [.evc, .mbx, .fab, .parts, .rel, .keys, .ledger] s (State.verifiedOutcome r l zones s).2 := by
  show MovesSnd _ _ _
  unfold State.verifiedOutcome
  try extract_lets +onlyGivenNames x0
  try clear_value x0
  split
  · refine MovesSnd.ite (fun _ => ?_) (fun _ => ?_)
    · show Moves _ _ _
      refine Moves.step ?_ (Moves.mono (by decide) (State.enrolVerified_moves _))
      exact Moves.refl _ _
    · show Moves _ _ _
      refine Moves.step ?_ (Moves.mono (by decide) (State.verifiedExchange_moves _ _))
      exact Moves.refl _ _
  · split
    · refine MovesSnd.ite (fun _ => ?_) (fun _ => ?_)
      · refine MovesSnd.ite (fun _ => ?_) (fun _ => ?_)
        · show Moves _ _ _
          refine Moves.step ?_ (Moves.mono (by decide) (State.present_moves _ _ _ _ _))
          refine Moves.step ?_ (Moves.mono (by decide) (State.verifiedExchange_moves _ _))
          exact Moves.refl _ _
        · show Moves _ _ _
          refine Moves.step ?_ (Moves.mono (by decide) (State.verifiedExchange_moves _ _))
          exact Moves.refl _ _
      · refine MovesSnd.ite (fun _ => ?_) (fun _ => ?_)
        · show Moves _ _ _
          refine Moves.step ?_ (Moves.mono (by decide) (State.verifiedExchange_moves _ _))
          refine Moves.step ?_ (Moves.mono (by decide) (State.absentSeen_moves _ _))
          exact Moves.refl _ _
        · refine MovesSnd.ite (fun _ => ?_) (fun _ => ?_)
          · show Moves _ _ _
            refine Moves.step ?_ (Moves.mono (by decide) (State.windowUse_moves _))
            refine Moves.step ?_ (Moves.mono (by decide) (State.enrolPartner_moves _ _ _))
            exact Moves.refl _ _
          · show Moves _ _ _
            refine Moves.step ?_ (Moves.mono (by decide) (State.verifiedExchange_moves _ _))
            exact Moves.refl _ _
    · refine MovesSnd.ite (fun _ => ?_) (fun _ => ?_)
      · show Moves _ _ _
        refine Moves.step ?_ (Moves.mono (by decide) (State.windowUse_moves _))
        refine Moves.step ?_ (Moves.mono (by decide) (State.enrolPartner_moves _ _ _))
        exact Moves.refl _ _
      · show Moves _ _ _
        exact Moves.refl _ _

theorem State.endVerified_moves (r : Round) (l : Lane) (zones : BitVec 16) (s : State) :
    Moves [.evc, .psc, .pad, .mbx, .fab, .parts, .lf, .pop, .radio, .sess, .rel, .keys, .ledger, .health, .mem, .free] s (State.endVerified r l zones s) := by
  unfold State.endVerified
  extract_lets +onlyGivenNames x0
  have hx0 : MovesSnd [.evc, .psc, .pad, .mbx, .fab, .parts, .lf, .pop, .radio, .sess, .rel, .keys, .ledger, .health, .mem, .free] s x0 := by
    refine MovesSnd.step ?_ (Moves.mono (by decide) (State.verifiedOutcome_moves _ _ _ _))
    exact Moves.refl _ _
  clear_value x0
  refine Moves.step ?_ (Moves.mono (by decide) (State.evalDecision_moves _))
  refine Moves.step ?_ (Moves.mono (by decide) (State.settleLanes_moves _))
  refine Moves.step ?_ (Moves.mono (by decide) (State.serveRecal_moves _))
  refine Moves.step ?_ (Moves.mono (by decide) (State.endRanging_moves _))
  refine Moves.step ?_ (Moves.mono (by decide) (State.settleRound_moves _))
  refine Moves.step ?_ (Moves.mono (by decide) (State.issue_moves _ _ _ _ _))
  show MovesSnd _ _ _
  exact hx0

theorem State.judgeReport_moves (r : Round) (l : Lane) (p : List Byte) (s : State) :
    Moves [.evc, .psc, .pad, .mbx, .fab, .parts, .lf, .pop, .radio, .sess, .rel, .keys, .ledger, .health, .mem, .free] s (State.judgeReport r l p s) := by
  unfold State.judgeReport
  try extract_lets +onlyGivenNames x0
  try clear_value x0
  refine Moves.ite (fun _ => ?_) (fun _ => ?_)
  · refine Moves.step ?_ (Moves.mono (by decide) (State.endExchange_moves _ _ _))
    exact Moves.refl _ _
  · refine Moves.ite (fun _ => ?_) (fun _ => ?_)
    · refine Moves.step ?_ (Moves.mono (by decide) (State.endExchange_moves _ _ _))
      exact Moves.refl _ _
    · try extract_lets +onlyGivenNames x1
      try clear_value x1
      try extract_lets +onlyGivenNames x2
      try clear_value x2
      refine Moves.ite (fun _ => ?_) (fun _ => ?_)
      · refine Moves.step ?_ (Moves.mono (by decide) (State.loseAttempt_moves _ _))
        exact Moves.refl _ _
      · split
        · refine Moves.step ?_ (Moves.mono (by decide) (State.endExchange_moves _ _ _))
          exact Moves.refl _ _
        · refine Moves.step ?_ (Moves.mono (by decide) (State.endVerified_moves _ _ _ _))
          exact Moves.refl _ _

theorem doReport_moves (m : Reception) (payload : Option (List Byte)) (s0 : State) :
    Moves [.evc, .psc, .pad, .mbx, .fab, .parts, .lf, .pop, .radio, .sess, .rel, .keys, .ledger, .health, .mem, .free] s0 (doReport m payload s0) := by
  unfold doReport
  split
  · refine Moves.ite (fun _ => ?_) (fun _ => ?_)
    · exact Moves.refl _ _
    · extract_lets +onlyGivenNames x0
      have hx0 : Moves [.evc, .psc, .pad, .mbx, .fab, .parts, .lf, .pop, .radio, .sess, .rel, .keys, .ledger, .health, .mem, .free] s0 x0 := by
        refine Moves.step ?_ (Moves.mono (by decide) (State.putCirs_moves _ _))
        exact Moves.refl _ _
      clear_value x0
      split
      · refine Moves.trans ?_ (Moves.mono (by decide) (State.cutLane_moves (by assumption))); first | exact Moves.refl _ _ | assumption
      · split
        · refine Moves.ite (fun _ => ?_) (fun _ => ?_)
          · refine Moves.step ?_ (Moves.mono (by decide) (State.judgeReport_moves _ _ _ _))
            exact hx0
          · refine Moves.step ?_ (Moves.mono (by decide) (State.loseAttempt_moves _ _))
            exact hx0
        · refine Moves.step ?_ (Moves.mono (by decide) (State.loseAttempt_moves _ _))
          exact hx0
  · exact Moves.refl _ _

theorem State.startEnrol_moves (e : Enrolment) (s : State) :
    Moves [.evc, .psc, .pad, .mbx, .fab, .parts, .lf, .pop, .radio, .sess, .rel, .keys, .ledger, .health, .net, .free] s (State.startEnrol e s) := by
  unfold State.startEnrol
  extract_lets +onlyGivenNames x0
  have hx0 : Moves [.evc, .psc, .pad, .mbx, .fab, .parts, .lf, .pop, .radio, .sess, .rel, .keys, .ledger, .health, .net, .free] s x0 := by
    refine Moves.step ?_ (Moves.mono (by decide) (State.modParts_movesAll _ _ (fun _ => by exact Parts.keeps_of rfl)))
    exact Moves.refl _ _
  clear_value x0
  split
  · split
    · refine Moves.step ?_ (Moves.mono (by decide) (State.considerAll_moves _))
      refine Moves.step ?_ (Moves.mono (by decide) (State.requestWake_moves _ _ _ _))
      exact hx0
    · exact hx0
  · refine Moves.step ?_ (Moves.mono (by decide) (State.considerAll_moves _))
    refine Moves.step ?_ (Moves.mono (by decide) (State.requestEnrolCoil_moves _))
    exact hx0
  · refine Moves.step ?_ (Moves.mono (by decide) (State.enrolNode_moves _ _))
    exact hx0
  · refine Moves.step ?_ (Moves.mono (by decide) (State.enrolVerified_moves _))
    exact hx0

end Sys2Proof.Machine
end

