-- ==== Sys2Proof/Laws/RadioRows.lean ====
section
/-!
SUPPORT. What the operations of Machine/RadioRows.lean leave unchanged, and what they keep.
-/
namespace Sys2Proof.Machine

theorem State.captureRun_moves (s : State) :
    Moves [.evc, .mbx, .fab, .parts, .lf, .pop, .radio, .sess, .keys, .ledger, .health, .mem, .free] s (State.captureRun s) := by
  unfold State.captureRun
  split
  · try extract_lets +onlyGivenNames x0
    try clear_value x0
    try extract_lets +onlyGivenNames x1
    try clear_value x1
    try extract_lets +onlyGivenNames x2
    try clear_value x2
    refine Moves.ite (fun _ => ?_) (fun _ => ?_)
    · refine Moves.step ?_ (Moves.mono (by decide) (State.considerAll_moves _))
      refine Moves.step ?_ (Moves.mono (by decide) (State.raise_moves _ _ _))
      refine Moves.step ?_ (Moves.mono (by decide) (State.modRadio_movesAll _ _ (fun _ => by exact Radio.keeps_of rfl rfl rfl)))
      refine Moves.step ?_ (Moves.mono (by decide) (State.conclude_moves _ _ _ _))
      refine Moves.step ?_ (Moves.mono (by decide) (State.drawn_moves _))
      refine Moves.step ?_ (Moves.mono (by decide) (State.toWindow_moves _ _ _ _))
      exact Moves.refl _ _
    · exact Moves.refl _ _
  · exact Moves.refl _ _

theorem State.radioDone_moves (s : State) :
    Moves [.evc, .psc, .pad, .mbx, .fab, .parts, .lf, .pop, .radio, .sess, .rel, .keys, .ledger, .health, .mem, .free] s (State.radioDone s) := by
  unfold State.radioDone
  extract_lets +onlyGivenNames x0
  have hx0 : Moves [.evc, .psc, .pad, .mbx, .fab, .parts, .lf, .pop, .radio, .sess, .rel, .keys, .ledger, .health, .mem, .free] s x0 := by
    refine Moves.step ?_ (Moves.mono (by decide) (State.captureRun_moves _))
    refine Moves.step ?_ (Moves.mono (by decide) (State.settleLanes_moves _))
    exact Moves.refl _ _
  clear_value x0
  try extract_lets +onlyGivenNames x1
  try clear_value x1
  refine Moves.foldl ?_ (fun x2 _ hx2 => ?_)
  · refine Moves.step ?_ (Moves.mono (by decide) (State.modRadio_movesAll _ _ (fun _ => by exact Radio.keeps_of rfl rfl rfl)))
    exact hx0
  · refine Moves.step ?_ (Moves.mono (by decide) (State.conclude_moves _ _ _ _))
    exact hx2

theorem doUpRetry_moves (s : State) :
    Moves [.tbu, .evc, .psc, .pad, .mbx, .fab, .parts, .lf, .pop, .radio, .sess, .rel, .keys, .ledger, .health, .mem, .free] s (doUpRetry s) := by
  unfold doUpRetry
  split
  · refine Moves.ite (fun _ => ?_) (fun _ => ?_)
    · refine Moves.step ?_ (Moves.mono (by decide) (State.radioDone_moves _))
      refine Moves.step ?_ (Moves.mono (by decide) (State.seqUp_moves _))
      refine Moves.step ?_ (Moves.mono (by decide) (State.modRadio_movesAll _ _ (fun _ => by exact Radio.keeps_of rfl rfl rfl)))
      exact Moves.refl _ _
    · exact Moves.refl _ _
  · exact Moves.refl _ _

theorem State.uhfOver_moves (s : State) :
    Moves [.mbx, .radio, .sess] s (State.uhfOver s) := by
  unfold State.uhfOver
  refine Moves.step ?_ (Moves.mono (by decide) (State.settleDown_moves _))
  refine Moves.ite (fun _ => ?_) (fun _ => ?_)
  · refine Moves.step ?_ (Moves.mono (by decide) (State.goRxUhf_moves _))
    exact Moves.refl _ _
  · refine Moves.step ?_ (Moves.mono (by decide) (State.goStandby_moves _))
    exact Moves.refl _ _

theorem State.uwbOver_moves (s : State) :
    Moves [.mbx, .radio, .sess] s (State.uwbOver s) := by
  unfold State.uwbOver
  extract_lets +onlyGivenNames x0
  have hx0 : Moves [.mbx, .radio, .sess] s x0 := by
    refine Moves.step ?_ (Moves.mono (by decide) (State.modRadio_movesAll _ _ (fun _ => by exact Radio.keeps_of rfl rfl rfl)))
    exact Moves.refl _ _
  clear_value x0
  refine Moves.step ?_ (Moves.mono (by decide) (State.settleDown_moves _))
  refine Moves.ite (fun _ => ?_) (fun _ => ?_)
  · refine Moves.step ?_ (Moves.mono (by decide) (State.toSeq_moves _ _))
    exact hx0
  · refine Moves.step ?_ (Moves.mono (by decide) (State.goStandby_moves _))
    exact hx0

theorem State.stampFrame_moves (s : State) :
    Moves [.radio, .free] s (State.stampFrame s) := by
  unfold State.stampFrame
  split
  · refine Moves.step ?_ (Moves.mono (by decide) (State.modRadio_movesAll _ _ (fun _ => by exact Radio.keeps_of rfl rfl rfl)))
    exact Moves.refl _ _
  · refine Moves.step ?_ (Moves.mono (by decide) (State.drawn_moves _))
    refine Moves.step ?_ (Moves.mono (by decide) (State.modRadio_movesAll _ _ (fun _ => by exact Radio.keeps_of rfl rfl rfl)))
    exact Moves.refl _ _

theorem doUhfFrameReceived_moves (frame : List Byte) (s : State) :
    Moves [.evc, .psc, .pad, .mbx, .fab, .parts, .lf, .pop, .radio, .sess, .rel, .keys, .ledger, .health, .mem, .free] s (doUhfFrameReceived frame s) := by
  unfold doUhfFrameReceived
  refine Moves.ite (fun _ => ?_) (fun _ => ?_)
  · refine Moves.step ?_ (Moves.mono (by decide) (State.radioDone_moves _))
    refine Moves.step ?_ (Moves.mono (by decide) (State.settleDown_moves _))
    split
    · refine Moves.step ?_ (Moves.mono (by decide) (State.modRadio_movesAll _ _ (fun _ => by exact Radio.keeps_of rfl rfl rfl)))
      exact Moves.refl _ _
    · exact Moves.refl _ _
  · exact Moves.refl _ _

theorem doUwbFrameReceived_moves (m : Reception) (s : State) :
    Moves [.evc, .psc, .pad, .mbx, .fab, .parts, .lf, .pop, .radio, .sess, .rel, .keys, .ledger, .health, .mem, .free] s (doUwbFrameReceived m s) := by
  unfold doUwbFrameReceived
  refine Moves.ite (fun _ => ?_) (fun _ => ?_)
  · refine Moves.step ?_ (Moves.mono (by decide) (State.radioDone_moves _))
    refine Moves.step ?_ (Moves.mono (by decide) (State.settleDown_moves _))
    refine Moves.step ?_ (Moves.mono (by decide) (State.putCirs_moves _ _))
    exact Moves.refl _ _
  · exact Moves.refl _ _

theorem doBackgroundSlice_moves (kind dA dB : Nat) (temp : Int) (rx : Bool) (s : State) :
    Moves [.evc, .psc, .pad, .mbx, .fab, .parts, .lf, .pop, .radio, .sess, .rel, .keys, .ledger, .health, .mem, .free] s (doBackgroundSlice kind dA dB temp rx s) := by
  unfold doBackgroundSlice
  refine Moves.ite (fun _ => ?_) (fun _ => ?_)
  · refine Moves.step ?_ (Moves.mono (by decide) (State.radioDone_moves _))
    refine Moves.step ?_ (Moves.mono (by decide) (State.runSlice_moves _ _ _ _ _))
    exact Moves.refl _ _
  · exact Moves.refl _ _

theorem doForcedSlice_moves (kind dA dB : Nat) (temp : Int) (rx : Bool) (s : State) :
    Moves [.evc, .psc, .pad, .mbx, .fab, .parts, .lf, .pop, .radio, .sess, .rel, .keys, .ledger, .health, .mem, .free] s (doForcedSlice kind dA dB temp rx s) := by
  unfold doForcedSlice
  refine Moves.ite (fun _ => ?_) (fun _ => ?_)
  · refine Moves.step ?_ (Moves.mono (by decide) (State.radioDone_moves _))
    refine Moves.step ?_ (Moves.mono (by decide) (State.raise_moves _ _ _))
    refine Moves.step ?_ (Moves.mono (by decide) (State.modRadio_movesAll _ _ (fun _ => by exact Radio.keeps_of rfl rfl rfl)))
    refine Moves.step ?_ (Moves.mono (by decide) (State.runSlice_moves _ _ _ _ _))
    exact Moves.refl _ _
  · exact Moves.refl _ _

theorem doRecalibrationDue_moves (temp : Int) (s : State) :
    Moves [.evc, .psc, .pad, .mbx, .fab, .parts, .lf, .pop, .radio, .sess, .rel, .keys, .ledger, .health, .mem, .free] s (doRecalibrationDue temp s) := by
  unfold doRecalibrationDue
  extract_lets +onlyGivenNames x0
  have hx0 : Moves [.evc, .psc, .pad, .mbx, .fab, .parts, .lf, .pop, .radio, .sess, .rel, .keys, .ledger, .health, .mem, .free] s x0 := by
    refine Moves.step ?_ (Moves.mono (by decide) (State.modRadio_movesAll _ _ (fun _ => by exact Radio.keeps_of rfl rfl rfl)))
    exact Moves.refl _ _
  clear_value x0
  refine Moves.ite (fun _ => ?_) (fun _ => ?_)
  · refine Moves.step ?_ (Moves.mono (by decide) (State.radioDone_moves _))
    refine Moves.step ?_ (Moves.mono (by decide) (State.serveRecal_moves _))
    refine Moves.step ?_ (Moves.mono (by decide) (State.raise_moves _ _ _))
    refine Moves.step ?_ (Moves.mono (by decide) (State.modRadio_movesAll _ _ (fun _ => by exact Radio.keeps_of rfl rfl rfl)))
    exact hx0
  · exact hx0

theorem State.unranged_moves (s : State) :
    Moves [.sess] s (State.unranged s) := by
  unfold State.unranged
  refine Moves.ite (fun _ => ?_) (fun _ => ?_)
  · exact Moves.refl _ _
  · refine Moves.step ?_ (Moves.mono (by decide) (State.modRound_moves _ _))
    exact Moves.refl _ _

theorem doTransmitGateDeadline_moves (s : State) :
    Moves [.evc, .psc, .pad, .mbx, .fab, .parts, .lf, .pop, .radio, .sess, .rel, .keys, .ledger, .health, .mem, .free] s (doTransmitGateDeadline s) := by
  unfold doTransmitGateDeadline
  try extract_lets +onlyGivenNames x0
  try clear_value x0
  extract_lets +onlyGivenNames x1
  have hx1 : Moves [.evc, .psc, .pad, .mbx, .fab, .parts, .lf, .pop, .radio, .sess, .rel, .keys, .ledger, .health, .mem, .free] s x1 := by
    refine Moves.step ?_ (Moves.mono (by decide) (State.failHeld_moves _ _))
    exact Moves.refl _ _
  clear_value x1
  refine Moves.step ?_ (Moves.mono (by decide) (State.radioDone_moves _))
  refine Moves.ite (fun _ => ?_) (fun _ => ?_)
  · refine Moves.step ?_ (Moves.mono (by decide) (State.endRanging_moves _))
    refine Moves.step ?_ (Moves.mono (by decide) (State.seqDone_moves _ _ _))
    refine Moves.step ?_ (Moves.mono (by decide) (State.markDead_moves _))
    refine Moves.step ?_ (Moves.mono (by decide) (State.unranged_moves _))
    exact hx1
  · exact hx1

theorem doTimestampExtensionCompare_moves (off : Int) (s : State) :
    Moves [.tbu, .evc, .radio, .ledger, .health, .free] s (doTimestampExtensionCompare off s) := by
  unfold doTimestampExtensionCompare
  refine Moves.ite (fun _ => ?_) (fun _ => ?_)
  · exact Moves.refl _ _
  · refine Moves.ite (fun _ => ?_) (fun _ => ?_)
    · refine Moves.step ?_ (Moves.mono (by decide) (State.healthFree_moves _ _ _ _))
      refine Moves.step ?_ (Moves.mono (by decide) (State.modTbu_movesAll _ _ (fun _ => by exact Tbu.keeps_of rfl rfl rfl rfl rfl rfl)))
      refine Moves.step ?_ (Moves.mono (by decide) (State.modRadio_movesAll _ _ (fun _ => by exact Radio.keeps_of rfl rfl rfl)))
      exact Moves.refl _ _
    · refine Moves.step ?_ (Moves.mono (by decide) (State.modTbu_movesAll _ _ (fun _ => by exact Tbu.keeps_of rfl rfl rfl rfl rfl rfl)))
      exact Moves.refl _ _

theorem doRfTestEnd_moves (s : State) :
    Moves [.evc, .psc, .pad, .mbx, .fab, .parts, .lf, .pop, .radio, .sess, .rel, .keys, .ledger, .health, .mem, .free] s (doRfTestEnd s) := by
  unfold doRfTestEnd
  split
  · refine Moves.ite (fun _ => ?_) (fun _ => ?_)
    · extract_lets +onlyGivenNames x0
      have hx0 : Moves [.evc, .psc, .pad, .mbx, .fab, .parts, .lf, .pop, .radio, .sess, .rel, .keys, .ledger, .health, .mem, .free] s x0 := by
        refine Moves.step ?_ (Moves.mono (by decide) (State.raise_moves _ _ _))
        refine Moves.step ?_ (Moves.mono (by decide) (State.modRadio_movesAll _ _ (fun _ => by exact Radio.keeps_of rfl rfl rfl)))
        refine Moves.step ?_ (Moves.mono (by decide) (State.conclude_moves _ _ _ _))
        exact Moves.refl _ _
      clear_value x0
      extract_lets +onlyGivenNames x1
      have hx1 : Moves [.evc, .psc, .pad, .mbx, .fab, .parts, .lf, .pop, .radio, .sess, .rel, .keys, .ledger, .health, .mem, .free] s x1 := by
        refine Moves.ite (fun _ => ?_) (fun _ => ?_)
        · refine Moves.step ?_ (Moves.mono (by decide) (State.uhfOver_moves _))
          exact hx0
        · refine Moves.ite (fun _ => ?_) (fun _ => ?_)
          · refine Moves.step ?_ (Moves.mono (by decide) (State.uwbOver_moves _))
            exact hx0
          · exact hx0
      clear_value x1
      refine Moves.step ?_ (Moves.mono (by decide) (State.considerAll_moves _))
      refine Moves.step ?_ (Moves.mono (by decide) (State.radioDone_moves _))
      exact hx1
    · exact Moves.refl _ _
  · exact Moves.refl _ _

end Sys2Proof.Machine
end

