-- ==== Sys2Proof/Laws/MeterRows.lean ====
section
/-!
SUPPORT. What the operations of Machine/MeterRows.lean leave unchanged, and what they keep.
-/
namespace Sys2Proof.Machine

theorem State.closeMean_moves (s : State) :
    Moves [.evc, .rel, .met, .ledger] s (State.closeMean s) := by
  unfold State.closeMean
  extract_lets +onlyGivenNames x0
  have hx0 : Moves [.evc, .rel, .met, .ledger] s x0 := by
    refine Moves.step ?_ (Moves.mono (by decide) (State.judgeDisagree_moves _))
    refine Moves.step ?_ (Moves.mono (by decide) (State.clearOverloads_moves _))
    refine Moves.step ?_ (Moves.mono (by decide) (State.modMet_movesAll _ _ (fun _ => by exact Met.keeps_of rfl)))
    exact Moves.refl _ _
  clear_value x0
  try extract_lets +onlyGivenNames x1
  try clear_value x1
  extract_lets +onlyGivenNames x2
  have hx2 : Moves [.evc, .rel, .met, .ledger] s x2 := by
    refine Moves.step ?_ (Moves.mono (by decide) (State.modRel_moves _ _))
    exact hx0
  clear_value x2
  extract_lets +onlyGivenNames x3
  have hx3 : Moves [.evc, .rel, .met, .ledger] s x3 := by
    refine Moves.ite (fun _ => ?_) (fun _ => ?_)
    · refine Moves.step ?_ (Moves.mono (by decide) (State.modMet_movesAll _ _ (fun _ => by exact Met.keeps_of rfl)))
      exact hx2
    · exact hx2
  clear_value x3
  refine Moves.step ?_ (Moves.mono (by decide) (State.modMet_movesAll _ _ (fun _ => by exact Met.keeps_of rfl)))
  exact hx3

theorem doMeanEnd_moves (s : State) :
    Moves [.evc, .psc, .pad, .mbx, .fab, .parts, .lf, .pop, .radio, .sess, .rel, .keys, .met, .ledger, .health, .free] s (doMeanEnd s) := by
  unfold doMeanEnd
  refine Moves.ite (fun _ => ?_) (fun _ => ?_)
  · exact Moves.refl _ _
  · refine Moves.step ?_ (Moves.mono (by decide) (State.evalRule_moves _))
    refine Moves.step ?_ (Moves.mono (by decide) (State.closeMean_moves _))
    exact Moves.refl _ _

theorem doSstlEdge_moves (b level : Bool) (s : State) :
    Moves [.evc, .psc, .pad, .mbx, .fab, .parts, .lf, .pop, .radio, .sess, .rel, .keys, .met, .ledger, .health, .free] s (doSstlEdge b level s) := by
  unfold doSstlEdge
  refine Moves.step ?_ (Moves.mono (by decide) (State.evalRule_moves _))
  refine Moves.step ?_ (Moves.mono (by decide) (State.sstlLevel_moves _ _ _))
  refine Moves.ite (fun _ => ?_) (fun _ => ?_)
  · exact Moves.refl _ _
  · refine Moves.step ?_ (Moves.mono (by decide) (State.closeMean_moves _))
    exact Moves.refl _ _

theorem State.resumeMeter_moves (s : State) :
    Moves [.met] s (State.resumeMeter s) := by
  unfold State.resumeMeter
  split
  · refine Moves.step ?_ (Moves.mono (by decide) (State.modMet_movesAll _ _ (fun _ => by exact Met.keeps_of rfl)))
    refine Moves.step ?_ (Moves.mono (by decide) (State.intervalFlag_moves _ _))
    refine Moves.step ?_ (Moves.mono (by decide) (State.intervalFlag_moves _ _))
    exact Moves.refl _ _
  · exact Moves.refl _ _

theorem State.throughDelay_moves (ys : List (Option Nat)) (s : State) :
    Moves [.met, .free] s (State.throughDelay ys s) := by
  unfold State.throughDelay
  split
  · refine Moves.step ?_ (Moves.mono (by decide) (State.integrate_moves _ _))
    refine Moves.step ?_ (Moves.mono (by decide) (State.modMet_movesAll _ _ (fun _ => by exact Met.keeps_of rfl)))
    exact Moves.refl _ _
  · refine Moves.step ?_ (Moves.mono (by decide) (State.modMet_movesAll _ _ (fun _ => by exact Met.keeps_of rfl)))
    exact Moves.refl _ _

theorem doMeterSample_moves (m0 m1 m2 m3 : BitVec 256) (s : State) :
    Moves [.evc, .psc, .pad, .mbx, .fab, .parts, .lf, .pop, .radio, .sess, .rel, .keys, .met, .ledger, .health, .free] s (doMeterSample m0 m1 m2 m3 s) := by
  unfold doMeterSample
  refine Moves.ite (fun _ => ?_) (fun _ => ?_)
  · exact Moves.refl _ _
  · extract_lets +onlyGivenNames x0
    have hx0 : Moves [.evc, .psc, .pad, .mbx, .fab, .parts, .lf, .pop, .radio, .sess, .rel, .keys, .met, .ledger, .health, .free] s x0 := by
      refine Moves.step ?_ (Moves.mono (by decide) (doMeanEnd_moves _))
      exact Moves.refl _ _
    clear_value x0
    try extract_lets +onlyGivenNames x1
    try clear_value x1
    try extract_lets +onlyGivenNames x2
    try clear_value x2
    extract_lets +onlyGivenNames x3
    have hx3 : Moves [.evc, .psc, .pad, .mbx, .fab, .parts, .lf, .pop, .radio, .sess, .rel, .keys, .met, .ledger, .health, .free] s x3 := by
      refine Moves.step ?_ (Moves.mono (by decide) (State.modMet_moves _ _ (by simp +contextual [Met.Keeps, Met.Shaped] <;> intros <;> omega)))
      exact hx0
    clear_value x3
    extract_lets +onlyGivenNames x4
    have hx4 : Moves [.evc, .psc, .pad, .mbx, .fab, .parts, .lf, .pop, .radio, .sess, .rel, .keys, .met, .ledger, .health, .free] s x4 := by
      refine Moves.foldl ?_ (fun x5 _ hx5 => ?_)
      · exact hx3
      · split
        · refine Moves.ite (fun _ => ?_) (fun _ => ?_)
          · refine Moves.step ?_ (Moves.mono (by decide) (State.setOverload_moves _ _ _))
            exact hx5
          · exact hx5
        · exact hx5
    clear_value x4
    refine Moves.ite (fun _ => ?_) (fun _ => ?_)
    · exact hx4
    · refine Moves.step ?_ (Moves.mono (by decide) (State.ownCauses_moves _))
      refine Moves.step ?_ (Moves.mono (by decide) (State.throughDelay_moves _ _))
      refine Moves.step ?_ (Moves.mono (by decide) (State.resumeMeter_moves _))
      exact hx4

theorem doInputStuck_moves (n : Nat) (s : State) :
    Moves [.evc, .met, .ledger] s (doInputStuck n s) := by
  unfold doInputStuck
  refine Moves.ite (fun _ => ?_) (fun _ => ?_)
  · exact Moves.refl _ _
  · try extract_lets +onlyGivenNames x0
    try clear_value x0
    refine Moves.step ?_ (Moves.mono (by decide) (State.setStuck_moves _ _ _))
    refine Moves.step ?_ (Moves.mono (by decide) (State.modMet_movesAll _ _ (fun _ => by exact Met.keeps_of rfl)))
    exact Moves.refl _ _

theorem doTransitionsResume_moves (n : Nat) (s : State) :
    Moves [.evc, .met, .ledger] s (doTransitionsResume n s) := by
  unfold doTransitionsResume
  refine Moves.ite (fun _ => ?_) (fun _ => ?_)
  · exact Moves.refl _ _
  · refine Moves.step ?_ (Moves.mono (by decide) (State.modMet_moves _ _ (by simp +contextual [Met.Keeps, Met.Shaped] <;> intros <;> omega)))
    refine Moves.step ?_ (Moves.mono (by decide) (State.setStuck_moves _ _ _))
    exact Moves.refl _ _

theorem State.lowEnd_moves (s : State) :
    Moves [.evc, .ledger] s (State.lowEnd s) := by
  unfold State.lowEnd
  refine Moves.ite (fun _ => ?_) (fun _ => ?_)
  · extract_lets +onlyGivenNames x0
    have hx0 : Moves [.evc, .ledger] s x0 := by
      refine Moves.step ?_ (Moves.mono (by decide) (State.raise_moves _ _ _))
      refine Moves.step ?_ (Moves.mono (by decide) (State.modLedger_movesAll _ _ (fun _ => by exact Ledger.keeps_of rfl rfl rfl rfl)))
      exact Moves.refl _ _
    clear_value x0
    extract_lets +onlyGivenNames x1
    have hx1 : Moves [.evc, .ledger] s x1 := by
      unfold x1
      clear x1
      split
      · refine Moves.step ?_ (Moves.mono (by decide) (State.ledgerPair_moves _ _ _))
        exact hx0
      · exact hx0
    clear_value x1
    extract_lets +onlyGivenNames x2
    have hx2 : Moves [.evc, .ledger] s x2 := by
      refine Moves.ite (fun _ => ?_) (fun _ => ?_)
      · exact hx1
      · refine Moves.step ?_ (Moves.mono (by decide) (State.raise_moves _ _ _))
        exact hx1
    clear_value x2
    refine Moves.step ?_ (Moves.mono (by decide) (State.tallyDue_moves _))
    exact hx2
  · exact Moves.refl _ _

theorem State.applyCredit_moves (p : List Byte) (s : State) :
    Moves [.evc, .psc, .pad, .mbx, .fab, .parts, .lf, .pop, .radio, .sess, .rel, .keys, .met, .ledger, .health, .free] s (State.applyCredit p s) := by
  unfold State.applyCredit
  try extract_lets +onlyGivenNames x0
  try clear_value x0
  try extract_lets +onlyGivenNames x1
  try clear_value x1
  extract_lets +onlyGivenNames x2
  have hx2 : Moves [.evc, .psc, .pad, .mbx, .fab, .parts, .lf, .pop, .radio, .sess, .rel, .keys, .met, .ledger, .health, .free] s x2 := by
    refine Moves.step ?_ (Moves.mono (by decide) (State.setBalance_moves _ _))
    exact Moves.refl _ _
  clear_value x2
  extract_lets +onlyGivenNames x3
  have hx3 : Moves [.evc, .psc, .pad, .mbx, .fab, .parts, .lf, .pop, .radio, .sess, .rel, .keys, .met, .ledger, .health, .free] s x3 := by
    refine Moves.step ?_ (Moves.mono (by decide) (State.modMet_movesAll _ _ (fun _ => by exact Met.keeps_of rfl)))
    refine Moves.step ?_ (Moves.mono (by decide) (State.modParts_movesAll _ _ (fun _ => by exact Parts.keeps_of rfl)))
    exact hx2
  clear_value x3
  extract_lets +onlyGivenNames x4
  have hx4 : Moves [.evc, .psc, .pad, .mbx, .fab, .parts, .lf, .pop, .radio, .sess, .rel, .keys, .met, .ledger, .health, .free] s x4 := by
    refine Moves.step ?_ (Moves.mono (by decide) (State.verifiedExchange_moves _ _))
    refine Moves.step ?_ (Moves.mono (by decide) (State.raise_moves _ _ _))
    refine Moves.step ?_ (Moves.mono (by decide) (State.ledgerAdd_moves _ _ _ _))
    exact hx3
  clear_value x4
  refine Moves.step ?_ (Moves.mono (by decide) (State.evalDecision_moves _))
  refine Moves.ite (fun _ => ?_) (fun _ => ?_)
  · refine Moves.step ?_ (Moves.mono (by decide) (State.dropCause_moves _ _))
    exact hx4
  · exact hx4

theorem State.refuseCredit_moves (p : List Byte) (st : Nat) (s : State) :
    Moves [.evc, .parts, .ledger] s (State.refuseCredit p st s) := by
  unfold State.refuseCredit
  try extract_lets +onlyGivenNames x0
  try clear_value x0
  extract_lets +onlyGivenNames x1
  have hx1 : Moves [.evc, .parts, .ledger] s x1 := by
    refine Moves.ite (fun _ => ?_) (fun _ => ?_)
    · refine Moves.step ?_ (Moves.mono (by decide) (State.countFailure_moves _ _ _ _ _))
      exact Moves.refl _ _
    · refine Moves.ite (fun _ => ?_) (fun _ => ?_)
      · refine Moves.step ?_ (Moves.mono (by decide) (State.ledgerAdd_moves _ _ _ _))
        exact Moves.refl _ _
      · exact Moves.refl _ _
  clear_value x1
  refine Moves.step ?_ (Moves.mono (by decide) (State.raise_moves _ _ _))
  exact hx1

end Sys2Proof.Machine
end

