-- ==== Sys2Proof/Laws/Power.lean ====
section
/-!
SUPPORT. What the operations of Machine/Power.lean leave unchanged, and what they keep.
-/
namespace Sys2Proof.Machine

theorem State.beginEntry_moves (target : PowerState) (keep : Nat) (s : State) :
    Moves [.evc, .psc, .pad, .mbx, .fab, .radio, .sess, .rel, .ledger] s (State.beginEntry target keep s) := by
  unfold State.beginEntry
  extract_lets +onlyGivenNames x0
  have hx0 : Moves [.evc, .psc, .pad, .mbx, .fab, .radio, .sess, .rel, .ledger] s x0 := by
    refine Moves.step ?_ (Moves.mono (by decide) (State.sleepDown_moves _))
    refine Moves.step ?_ (Moves.mono (by decide) (State.modPsc_movesAll _ _ (fun _ => by exact Psc.keeps_of rfl)))
    exact Moves.refl _ _
  clear_value x0
  split
  · refine Moves.step ?_ (Moves.mono (by decide) (State.rollBack_moves _ _))
    exact hx0
  · exact hx0

theorem State.flushItems_moves (meter : Bool) (s : State) :
    Moves [.evc, .parts, .met, .ledger] s (State.flushItems meter s) := by
  unfold State.flushItems
  extract_lets +onlyGivenNames x0
  have hx0 : Moves [.evc, .parts, .met, .ledger] s x0 := by
    refine Moves.ite (fun _ => ?_) (fun _ => ?_)
    · refine Moves.step ?_ (Moves.mono (by decide) (State.commitCounters_moves _))
      exact Moves.refl _ _
    · exact Moves.refl _ _
  clear_value x0
  refine Moves.step ?_ (Moves.mono (by decide) (State.modLedger_moves _ _ ⟨fun h => ⟨h.1, h.2.1, by split <;> exact List.length_take_le _ _⟩, Nat.le_refl _⟩))
  refine Moves.step ?_ (Moves.mono (by decide) (State.putSummaries_moves _ _))
  exact hx0

theorem State.refOff_moves (s : State) :
    Moves [.tbu] s (State.refOff s) := by
  unfold State.refOff
  refine Moves.step ?_ (Moves.mono (by decide) (State.modTbu_movesAll _ _ (fun _ => by exact Tbu.keeps_of rfl rfl rfl rfl rfl rfl)))
  exact Moves.refl _ _

theorem State.idleLinks_moves (s : State) :
    Moves [.net, .free] s (State.idleLinks s) := by
  unfold State.idleLinks
  refine Moves.ite (fun _ => ?_) (fun _ => ?_)
  · refine Moves.step ?_ (Moves.mono (by decide) (State.drawn_moves _))
    refine Moves.step ?_ (Moves.mono (by decide) (State.modNet_movesAll _ _ (fun _ => by exact Net.keeps_of rfl rfl rfl rfl rfl rfl rfl rfl rfl rfl)))
    exact Moves.refl _ _
  · exact Moves.refl _ _

theorem State.reachState_moves (target : PowerState) (s : State) :
    Moves [.tbu, .evc, .psc, .net, .free] s (State.reachState target s) := by
  unfold State.reachState
  extract_lets +onlyGivenNames x0
  have hx0 : Moves [.tbu, .evc, .psc, .net, .free] s x0 := by
    refine Moves.ite (fun _ => ?_) (fun _ => ?_)
    · refine Moves.step ?_ (Moves.mono (by decide) (State.idleLinks_moves _))
      exact Moves.refl _ _
    · exact Moves.refl _ _
  clear_value x0
  extract_lets +onlyGivenNames x1
  have hx1 : Moves [.tbu, .evc, .psc, .net, .free] s x1 := by
    refine Moves.ite (fun _ => ?_) (fun _ => ?_)
    · refine Moves.step ?_ (Moves.mono (by decide) (State.refOff_moves _))
      refine Moves.step ?_ (Moves.mono (by decide) (State.changeSource_moves _ _ _))
      exact hx0
    · exact hx0
  clear_value x1
  refine Moves.step ?_ (Moves.mono (by decide) (State.modPsc_movesAll _ _ (fun _ => by exact Psc.keeps_of rfl)))
  exact hx1

theorem State.beginCommit_moves (target : PowerState) (s : State) :
    Moves [.tbu, .evc, .psc, .parts, .crypt, .met, .ledger, .net, .free] s (State.beginCommit target s) := by
  unfold State.beginCommit
  extract_lets +onlyGivenNames x0
  have hx0 : Moves [.tbu, .evc, .psc, .parts, .crypt, .met, .ledger, .net, .free] s x0 := by
    refine Moves.step ?_ (Moves.mono (by decide) (State.modPsc_movesAll _ _ (fun _ => by exact Psc.keeps_of rfl)))
    exact Moves.refl _ _
  clear_value x0
  extract_lets +onlyGivenNames x1
  have hx1 : Moves [.tbu, .evc, .psc, .parts, .crypt, .met, .ledger, .net, .free] s x1 := by
    refine Moves.ite (fun _ => ?_) (fun _ => ?_)
    · exact hx0
    · refine Moves.step ?_ (Moves.mono (by decide) (State.flushItems_moves _ _))
      refine Moves.step ?_ (Moves.mono (by decide) (State.modCrypt_movesAll _ _ (fun _ => by exact Crypt.keeps_of rfl rfl rfl)))
      exact hx0
  clear_value x1
  refine Moves.ite (fun _ => ?_) (fun _ => ?_)
  · refine Moves.step ?_ (Moves.mono (by decide) (State.reachState_moves _ _))
    exact hx1
  · exact hx1

theorem doSleepCommit_moves (s : State) :
    Moves [.tbu, .evc, .psc, .pad, .mbx, .fab, .parts, .rel, .crypt, .met, .ledger, .net, .free] s (doSleepCommit s) := by
  unfold doSleepCommit
  split
  · exact Moves.refl _ _
  · refine Moves.ite (fun _ => ?_) (fun _ => ?_)
    · exact Moves.refl _ _
    · split
      · refine Moves.step ?_ (Moves.mono (by decide) (State.rollBack_moves _ _))
        exact Moves.refl _ _
      · refine Moves.ite (fun _ => ?_) (fun _ => ?_)
        · refine Moves.step ?_ (Moves.mono (by decide) (State.beginCommit_moves _ _))
          exact Moves.refl _ _
        · refine Moves.step ?_ (Moves.mono (by decide) (State.modPsc_movesAll _ _ (fun _ => by exact Psc.keeps_of rfl)))
          exact Moves.refl _ _

theorem doVeto_moves (d : Nat) (s : State) :
    Moves [.evc, .psc, .pad, .mbx, .fab, .rel, .ledger] s (doVeto d s) := by
  unfold doVeto
  refine Moves.ite (fun _ => ?_) (fun _ => ?_)
  · refine Moves.step ?_ (Moves.mono (by decide) (State.rollBack_moves _ _))
    exact Moves.refl _ _
  · exact Moves.refl _ _

theorem State.stopDomain_moves (d : Nat) (s : State) : Moves [.met, .net] s (s.stopDomain d) := by
  unfold State.stopDomain
  dsimp only
  refine Moves.ite (fun _ => Moves.mono (by decide) (State.stopMeter_moves _)) (fun _ => ?_)
  refine Moves.ite (fun _ => ?_) (fun _ => ?_)
  · exact Moves.mono (by decide) (State.modNet_moves _ _ (by simp +contextual [Net.Keeps, Net.Shaped]))
  · refine Moves.ite (fun _ => ?_) (fun _ => Moves.refl _ _)
    exact Moves.mono (by decide) (State.modNet_moves _ _ (by simp +contextual [Net.Keeps, Net.Shaped]))

theorem doDomainGated_moves (s : State) :
    Moves [.tbu, .evc, .psc, .pad, .mbx, .fab, .rel, .met, .ledger, .net, .free] s (doDomainGated s) := by
  unfold doDomainGated
  split
  · refine Moves.ite (fun _ => ?_) (fun _ => ?_)
    · exact Moves.refl _ _
    · split
      · refine Moves.step ?_ (Moves.mono (by decide) (State.rollBack_moves _ _))
        exact Moves.refl _ _
      · extract_lets +onlyGivenNames x0
        have hx0 : Moves [.tbu, .evc, .psc, .pad, .mbx, .fab, .rel, .met, .ledger, .net, .free] s x0 := by
          refine Moves.step ?_ (Moves.mono (by decide) (State.gateDomain_moves _ _))
          refine Moves.step ?_ (Moves.mono (by decide) (State.stopDomain_moves _ _))
          exact Moves.refl _ _
        clear_value x0
        refine Moves.ite (fun _ => ?_) (fun _ => ?_)
        · refine Moves.step ?_ (Moves.mono (by decide) (State.reachState_moves _ _))
          exact hx0
        · exact hx0
  · exact Moves.refl _ _

theorem doDriftIdleEntry_moves (s : State) :
    Moves [.tbu, .evc, .psc, .parts, .crypt, .met, .ledger, .net, .free] s (doDriftIdleEntry s) := by
  unfold doDriftIdleEntry
  extract_lets +onlyGivenNames x0
  have hx0 : Moves [.tbu, .evc, .psc, .parts, .crypt, .met, .ledger, .net, .free] s x0 := by
    refine Moves.step ?_ (Moves.mono (by decide) (State.modPsc_movesAll _ _ (fun _ => by exact Psc.keeps_of rfl)))
    exact Moves.refl _ _
  clear_value x0
  refine Moves.ite (fun _ => ?_) (fun _ => ?_)
  · refine Moves.step ?_ (Moves.mono (by decide) (State.beginCommit_moves _ _))
    refine Moves.step ?_ (Moves.mono (by decide) (State.modPsc_movesAll _ _ (fun _ => by exact Psc.keeps_of rfl)))
    exact hx0
  · exact Moves.refl _ _

theorem State.restoreAll_moves (s : State) :
    Moves [.psc, .pad] s (State.restoreAll s) := by
  unfold State.restoreAll
  refine Moves.foldl ?_ (fun x0 _ hx0 => ?_)
  · exact Moves.refl _ _
  · refine Moves.ite (fun _ => ?_) (fun _ => ?_)
    · exact hx0
    · refine Moves.step ?_ (Moves.mono (by decide) (State.restoreDomain_moves _ _))
      exact hx0

theorem State.postSlept_moves (reached : PowerState) (s : State) :
    Moves [.evc, .psc, .mbx, .fab] s (State.postSlept reached s) := by
  unfold State.postSlept
  split
  · refine Moves.step ?_ (Moves.mono (by decide) (State.modPsc_movesAll _ _ (fun _ => by exact Psc.keeps_of rfl)))
    refine Moves.step ?_ (Moves.mono (by decide) (State.postWith_moves _ _ _ _ _))
    exact Moves.refl _ _
  · exact Moves.refl _ _

theorem State.resumeRoles_moves (s : State) :
    Moves [.evc, .psc, .pad, .mbx, .fab, .parts, .lf, .pop, .radio, .sess, .rel, .keys, .ledger, .health, .free] s (State.resumeRoles s) := by
  unfold State.resumeRoles
  extract_lets +onlyGivenNames x0
  have hx0 : Moves [.evc, .psc, .pad, .mbx, .fab, .parts, .lf, .pop, .radio, .sess, .rel, .keys, .ledger, .health, .free] s x0 := by
    refine Moves.step ?_ (Moves.mono (by decide) (State.feedbackWake_moves _))
    refine Moves.step ?_ (Moves.mono (by decide) (State.modLedger_moves _ _ (by refine ⟨fun h => ?_, ?_⟩ <;> simp_all [Ledger.Shaped] <;> omega)))
    refine Moves.step ?_ (Moves.mono (by decide) (State.releaseHeld_moves _))
    exact Moves.refl _ _
  clear_value x0
  refine Moves.step ?_ (Moves.mono (by decide) (State.considerAll_moves _))
  refine Moves.step ?_ (Moves.mono (by decide) (State.evalDecision_moves _))
  refine Moves.step ?_ (Moves.mono (by decide) (State.restartHalves_moves _))
  exact hx0

theorem doWakeComplete_moves (s : State) :
    Moves [.evc, .psc, .pad, .mbx, .fab, .parts, .lf, .pop, .radio, .sess, .rel, .keys, .ledger, .health, .net, .free] s (doWakeComplete s) := by
  unfold doWakeComplete
  try extract_lets +onlyGivenNames x0
  try clear_value x0
  refine Moves.ite (fun _ => ?_) (fun _ => ?_)
  · exact Moves.refl _ _
  · extract_lets +onlyGivenNames x1
    have hx1 : Moves [.evc, .psc, .pad, .mbx, .fab, .parts, .lf, .pop, .radio, .sess, .rel, .keys, .ledger, .health, .net, .free] s x1 := by
      refine Moves.step ?_ (Moves.mono (by decide) (State.modPsc_movesAll _ _ (fun _ => by exact Psc.keeps_of rfl)))
      refine Moves.step ?_ (Moves.mono (by decide) (State.modNet_movesAll _ _ (fun _ => by exact Net.keeps_of rfl rfl rfl rfl rfl rfl rfl rfl rfl rfl)))
      refine Moves.step ?_ (Moves.mono (by decide) (State.restoreAll_moves _))
      exact Moves.refl _ _
    clear_value x1
    extract_lets +onlyGivenNames x2
    have hx2 : Moves [.evc, .psc, .pad, .mbx, .fab, .parts, .lf, .pop, .radio, .sess, .rel, .keys, .ledger, .health, .net, .free] s x2 := by
      refine Moves.ite (fun _ => ?_) (fun _ => ?_)
      · exact hx1
      · refine Moves.step ?_ (Moves.mono (by decide) (State.resumeRoles_moves _))
        exact hx1
    clear_value x2
    refine Moves.step ?_ (Moves.mono (by decide) (State.postSlept_moves _ _))
    refine Moves.step ?_ (Moves.mono (by decide) (State.raise_moves _ _ _))
    refine Moves.step ?_ (Moves.mono (by decide) (State.serveWanted_moves _))
    exact hx2

theorem State.verifyWake_moves (s : State) :
    Moves [.crypt] s (State.verifyWake s) := by
  unfold State.verifyWake
  refine Moves.step ?_ (Moves.mono (by decide) (State.modCrypt_movesAll _ _ (fun _ => by exact Crypt.keeps_of rfl rfl rfl)))
  exact Moves.refl _ _

theorem State.wakeVerified_moves (code reason : Nat) (s : State) :
    Moves [.evc, .psc, .pad, .mbx, .fab, .rel, .ledger] s (State.wakeVerified code reason s) := by
  unfold State.wakeVerified
  refine Moves.step ?_ (Moves.mono (by decide) (State.wakeSource_moves _ _))
  refine Moves.step ?_ (Moves.mono (by decide) (State.modPsc_movesAll _ _ (fun _ => by exact Psc.keeps_of rfl)))
  exact Moves.refl _ _

theorem doEthernetWakeFrame_moves (port : Nat) (bs : List Byte) (s : State) :
    Moves [.evc, .psc, .pad, .mbx, .fab, .rel, .crypt, .ledger, .net] s (doEthernetWakeFrame port bs s) := by
  unfold doEthernetWakeFrame
  refine Moves.ite (fun _ => ?_) (fun _ => ?_)
  · exact Moves.refl _ _
  · refine Moves.ite (fun _ => ?_) (fun _ => ?_)
    · refine Moves.step ?_ (Moves.mono (by decide) (doFrameDiscarded_moves _ _))
      exact Moves.refl _ _
    · extract_lets +onlyGivenNames x0
      have hx0 : Moves [.evc, .psc, .pad, .mbx, .fab, .rel, .crypt, .ledger, .net] s x0 := by
        refine Moves.step ?_ (Moves.mono (by decide) (State.verifyWake_moves _))
        refine Moves.step ?_ (Moves.mono (by decide) (State.rxFrame_moves _ _))
        exact Moves.refl _ _
      clear_value x0
      refine Moves.ite (fun _ => ?_) (fun _ => ?_)
      · refine Moves.step ?_ (Moves.mono (by decide) (State.wakeVerified_moves _ _ _))
        exact hx0
      · refine Moves.step ?_ (Moves.mono (by decide) (State.modPsc_movesAll _ _ (fun _ => by exact Psc.keeps_of rfl)))
        exact hx0

theorem doVresMeasurement_moves (mv : Nat) (s : State) :
    Moves [.evc, .psc, .pad, .mbx, .fab, .rel, .ledger] s (doVresMeasurement mv s) := by
  unfold doVresMeasurement
  extract_lets +onlyGivenNames x0
  have hx0 : Moves [.evc, .psc, .pad, .mbx, .fab, .rel, .ledger] s x0 := by
    refine Moves.step ?_ (Moves.mono (by decide) (State.modPsc_movesAll _ _ (fun _ => by exact Psc.keeps_of rfl)))
    exact Moves.refl _ _
  clear_value x0
  refine Moves.ite (fun _ => ?_) (fun _ => ?_)
  · refine Moves.step ?_ (Moves.mono (by decide) (State.modPsc_movesAll _ _ (fun _ => by exact Psc.keeps_of rfl)))
    exact hx0
  · try extract_lets +onlyGivenNames x1
    try clear_value x1
    refine Moves.ite (fun _ => ?_) (fun _ => ?_)
    · refine Moves.step ?_ (Moves.mono (by decide) (State.wakeSource_moves _ _))
      refine Moves.step ?_ (Moves.mono (by decide) (State.raise_moves _ _ _))
      refine Moves.step ?_ (Moves.mono (by decide) (State.modPsc_movesAll _ _ (fun _ => by exact Psc.keeps_of rfl)))
      exact hx0
    · exact hx0

theorem writePsc_moves (off : Nat) (w : Word) (s : State) :
    Moves [.evc, .psc, .pad, .mbx, .fab, .rel, .ledger, .net] s (writePsc off w s) := by
  unfold writePsc
  refine Moves.ite (fun _ => ?_) (fun _ => ?_)
  · refine Moves.step ?_ (Moves.mono (by decide) (writeHostSleep_moves _ _))
    exact Moves.refl _ _
  · refine Moves.ite (fun _ => ?_) (fun _ => ?_)
    · refine Moves.step ?_ (Moves.mono (by decide) (State.modPsc_moves _ _ (by intro _; exact Psc.enable_shaped rfl)))
      exact Moves.refl _ _
    · refine Moves.ite (fun _ => ?_) (fun _ => ?_)
      · refine Moves.step ?_ (Moves.mono (by decide) (State.modPsc_movesAll _ _ (fun _ => by exact Psc.keeps_of rfl)))
        exact Moves.refl _ _
      · exact Moves.refl _ _

theorem writeFrz_moves (w : Word) (s : State) :
    Moves [.tbu, .evc, .psc, .pad, .mbx, .fab, .radio, .rel, .ledger] s (writeFrz w s) := by
  unfold writeFrz
  try extract_lets +onlyGivenNames x0
  try clear_value x0
  extract_lets +onlyGivenNames x1
  have hx1 : Moves [.tbu, .evc, .psc, .pad, .mbx, .fab, .radio, .rel, .ledger] s x1 := by
    refine Moves.step ?_ (Moves.mono (by decide) (State.modPad_moves _ _ (fun h => Pad.thaw_shaped _ h)))
    exact Moves.refl _ _
  clear_value x1
  extract_lets +onlyGivenNames x2
  have hx2 : Moves [.tbu, .evc, .psc, .pad, .mbx, .fab, .radio, .rel, .ledger] s x2 := by
    refine Moves.ite (fun _ => ?_) (fun _ => ?_)
    · refine Moves.step ?_ (Moves.mono (by decide) (State.seqUp_moves _))
      exact hx1
    · exact hx1
  clear_value x2
  refine Moves.ite (fun _ => ?_) (fun _ => ?_)
  · refine Moves.step ?_ (Moves.mono (by decide) (State.restartHalves_moves _))
    exact hx2
  · exact hx2

theorem writePad_moves (off : Nat) (w : Word) (s : State) :
    Moves [.tbu, .evc, .psc, .pad, .mbx, .fab, .radio, .rel, .ledger] s (writePad off w s) := by
  unfold writePad
  try extract_lets +onlyGivenNames x0
  try clear_value x0
  refine Moves.ite (fun _ => ?_) (fun _ => ?_)
  · refine Moves.step ?_ (Moves.mono (by decide) (writeFrz_moves _ _))
    exact Moves.refl _ _
  · refine Moves.ite (fun _ => ?_) (fun _ => ?_)
    · refine Moves.step ?_ (Moves.mono (by decide) (State.modPad_moves _ _ (fun h => Pad.release_shaped _ h)))
      exact Moves.refl _ _
    · refine Moves.ite (fun _ => ?_) (fun _ => ?_)
      · refine Moves.step ?_ (Moves.mono (by decide) (State.modPad_movesAll _ _ (fun _ => by exact Pad.keeps_of rfl rfl)))
        exact Moves.refl _ _
      · refine Moves.ite (fun _ => ?_) (fun _ => ?_)
        · refine Moves.step ?_ (Moves.mono (by decide) (State.modPad_movesAll _ _ (fun _ => by exact Pad.keeps_of rfl rfl)))
          exact Moves.refl _ _
        · refine Moves.ite (fun _ => ?_) (fun _ => ?_)
          · refine Moves.step ?_ (Moves.mono (by decide) (State.modPad_movesAll _ _ (fun _ => by exact Pad.keeps_of rfl rfl)))
            exact Moves.refl _ _
          · refine Moves.ite (fun _ => ?_) (fun _ => ?_)
            · refine Moves.step ?_ (Moves.mono (by decide) (State.modPad_movesAll _ _ (fun _ => by exact Pad.keeps_of rfl rfl)))
              exact Moves.refl _ _
            · refine Moves.ite (fun _ => ?_) (fun _ => ?_)
              · refine Moves.step ?_ (Moves.mono (by decide) (State.modPad_movesAll _ _ (fun _ => by exact Pad.keeps_of rfl rfl)))
                exact Moves.refl _ _
              · exact Moves.refl _ _

theorem doGpioEdge_moves (pin : Nat) (rising : Bool) (s : State) :
    Moves [.evc, .psc, .pad, .mbx, .fab, .rel, .ledger] s (doGpioEdge pin rising s) := by
  unfold doGpioEdge
  refine Moves.ite (fun _ => ?_) (fun _ => ?_)
  · exact Moves.refl _ _
  · try extract_lets +onlyGivenNames x0
    try clear_value x0
    extract_lets +onlyGivenNames x1
    have hx1 : Moves [.evc, .psc, .pad, .mbx, .fab, .rel, .ledger] s x1 := by
      refine Moves.step ?_ (Moves.mono (by decide) (State.modPad_movesAll _ _ (fun _ => by exact Pad.keeps_of rfl rfl)))
      exact Moves.refl _ _
    clear_value x1
    refine Moves.ite (fun _ => ?_) (fun _ => ?_)
    · exact hx1
    · extract_lets +onlyGivenNames x2
      have hx2 : Moves [.evc, .psc, .pad, .mbx, .fab, .rel, .ledger] s x2 := by
        refine Moves.step ?_ (Moves.mono (by decide) (State.raise_moves _ _ _))
        exact hx1
      clear_value x2
      refine Moves.ite (fun _ => ?_) (fun _ => ?_)
      · refine Moves.step ?_ (Moves.mono (by decide) (State.wakeSource_moves _ _))
        exact hx2
      · exact hx2

end Sys2Proof.Machine
end

