-- ==== Sys2Proof/Laws/LfCommands.lean ====
section
/-!
SUPPORT. What the operations of Machine/LfCommands.lean leave unchanged, and what they keep.
-/
namespace Sys2Proof.Machine

theorem doBurstRequest_moves (cls what : Nat) (s : State) :
    Moves [.evc, .psc, .pad, .mbx, .fab, .parts, .lf, .pop, .radio, .sess, .rel, .keys, .ledger, .health, .free] s (doBurstRequest cls what s) := by
  unfold doBurstRequest
  refine Moves.ite (fun _ => ?_) (fun _ => ?_)
  · refine Moves.ite (fun _ => ?_) (fun _ => ?_)
    · refine Moves.step ?_ (Moves.mono (by decide) (State.considerAll_moves _))
      refine Moves.step ?_ (Moves.mono (by decide) (State.requestWake_moves _ _ _ _))
      exact Moves.refl _ _
    · exact Moves.refl _ _
  · refine Moves.ite (fun _ => ?_) (fun _ => ?_)
    · refine Moves.step ?_ (Moves.mono (by decide) (State.requestCheck_moves _ _))
      exact Moves.refl _ _
    · refine Moves.ite (fun _ => ?_) (fun _ => ?_)
      · refine Moves.ite (fun _ => ?_) (fun _ => ?_)
        · refine Moves.step ?_ (Moves.mono (by decide) (State.considerAll_moves _))
          refine Moves.step ?_ (Moves.mono (by decide) (State.requestMeasure_moves _ _))
          exact Moves.refl _ _
        · exact Moves.refl _ _
      · exact Moves.refl _ _

theorem State.noCurrent_moves (c : Nat) (s : State) :
    Moves [.evc, .lf, .ledger] s (State.noCurrent c s) := by
  unfold State.noCurrent
  refine Moves.step ?_ (Moves.mono (by decide) (State.setCond_moves _ _ _))
  exact Moves.refl _ _

theorem State.silentCoil_moves (b : Burst) (s : State) :
    Moves [.evc, .mbx, .parts, .lf, .pop, .radio, .sess, .keys, .ledger, .health, .free] s (State.silentCoil b s) := by
  unfold State.silentCoil
  extract_lets +onlyGivenNames x0
  have hx0 : Moves [.evc, .mbx, .parts, .lf, .pop, .radio, .sess, .keys, .ledger, .health, .free] s x0 := by
    refine Moves.step ?_ (Moves.mono (by decide) (State.noCurrent_moves _ _))
    exact Moves.refl _ _
  clear_value x0
  refine Moves.step ?_ (Moves.mono (by decide) (State.considerAll_moves _))
  refine Moves.step ?_ (Moves.mono (by decide) (State.endCoilBurst_moves _ _))
  refine Moves.ite (fun _ => ?_) (fun _ => ?_)
  · exact hx0
  · refine Moves.step ?_ (Moves.mono (by decide) (State.setEntry_moves _ _ _ _))
    exact hx0

theorem doBurstEnd_moves (id : Nat) (silent : BitVec 64) (s : State) :
    Moves [.evc, .mbx, .fab, .parts, .lf, .pop, .radio, .sess, .keys, .ledger, .health, .free] s (doBurstEnd id silent s) := by
  unfold doBurstEnd
  split
  · refine Moves.ite (fun _ => ?_) (fun _ => ?_)
    · exact Moves.refl _ _
    · try extract_lets +onlyGivenNames x0
      try clear_value x0
      extract_lets +onlyGivenNames x1
      have hx1 : Moves [.evc, .mbx, .fab, .parts, .lf, .pop, .radio, .sess, .keys, .ledger, .health, .free] s x1 := by
        refine Moves.foldl ?_ (fun x2 _ hx2 => ?_)
        · refine Moves.step ?_ (Moves.mono (by decide) (State.modLf_movesAll _ _ (fun _ => by exact Lf.keeps_of rfl)))
          exact Moves.refl _ _
        · refine Moves.step ?_ (Moves.mono (by decide) (State.noCurrent_moves _ _))
          exact hx2
      clear_value x1
      extract_lets +onlyGivenNames x3
      have hx3 : Moves [.evc, .mbx, .fab, .parts, .lf, .pop, .radio, .sess, .keys, .ledger, .health, .free] s x3 := by
        unfold x3
        clear x3
        split
        · refine Moves.foldl ?_ (fun x4 _ hx4 => ?_)
          · exact hx1
          · refine Moves.step ?_ (Moves.mono (by decide) (State.conclude_moves _ _ _ _))
            exact hx4
        · exact hx1
      clear_value x3
      refine Moves.step ?_ (Moves.mono (by decide) (State.considerAll_moves _))
      exact hx3
  · split
    · refine Moves.step ?_ (Moves.mono (by decide) (State.silentCoil_moves _ _))
      exact Moves.refl _ _
    · exact Moves.refl _ _

theorem doOvercurrentTrip_moves (c : Nat) (s : State) :
    Moves [.evc, .psc, .pad, .mbx, .fab, .parts, .lf, .pop, .radio, .sess, .rel, .keys, .ledger, .health, .free] s (doOvercurrentTrip c s) := by
  unfold doOvercurrentTrip
  split
  · try extract_lets +onlyGivenNames x0
    try clear_value x0
    try extract_lets +onlyGivenNames x1
    try clear_value x1
    try extract_lets +onlyGivenNames x2
    try clear_value x2
    extract_lets +onlyGivenNames x3
    have hx3 : Moves [.evc, .psc, .pad, .mbx, .fab, .parts, .lf, .pop, .radio, .sess, .rel, .keys, .ledger, .health, .free] s x3 := by
      refine Moves.step ?_ (Moves.mono (by decide) (State.modLf_movesAll _ _ (fun _ => by exact Lf.keeps_of rfl)))
      refine Moves.step ?_ (Moves.mono (by decide) (State.modLfChan_moves _ _ _))
      exact Moves.refl _ _
    clear_value x3
    extract_lets +onlyGivenNames x4
    have hx4 : Moves [.evc, .psc, .pad, .mbx, .fab, .parts, .lf, .pop, .radio, .sess, .rel, .keys, .ledger, .health, .free] s x4 := by
      refine Moves.step ?_ (Moves.mono (by decide) (State.setCond_moves _ _ _))
      exact hx3
    clear_value x4
    extract_lets +onlyGivenNames x5
    extract_lets +onlyGivenNames x6
    have hx6 : Moves [.evc, .psc, .pad, .mbx, .fab, .parts, .lf, .pop, .radio, .sess, .rel, .keys, .ledger, .health, .free] s x6 := by
      unfold x6
      clear x6
      split
      · try extract_lets +onlyGivenNames x7
        try clear_value x7
        refine Moves.step ?_ (Moves.mono (by decide) (State.modSess_moves _ _))
        exact hx4
      · refine Moves.ite (fun _ => ?_) (fun _ => ?_)
        · refine Moves.step ?_ (Moves.mono (by decide) (State.endCoilBurst_moves _ _))
          refine Moves.step ?_ (Moves.mono (by decide) (State.setEntry_moves _ _ _ _))
          exact hx4
        · refine Moves.step ?_ (Moves.mono (by decide) (State.stopBurst_moves _ _))
          exact hx4
      · refine Moves.ite (fun _ => ?_) (fun _ => ?_)
        · refine Moves.step ?_ (Moves.mono (by decide) (State.modLf_movesAll _ _ (fun _ => by exact Lf.keeps_of rfl)))
          exact hx4
        · exact hx4
    clear_value x6
    refine Moves.step ?_ (Moves.mono (by decide) (State.considerAll_moves _))
    refine Moves.step ?_ (Moves.mono (by decide) (State.requestMeasure_moves _ _))
    exact hx6
  · exact Moves.refl _ _

theorem State.serveDiag_moves (c : Nat) (s : State) :
    Moves [.evc, .mbx, .fab, .lf] s (State.serveDiag c s) := by
  unfold State.serveDiag
  refine Moves.foldl ?_ (fun x0 _ hx0 => ?_)
  · exact Moves.refl _ _
  · refine Moves.ite (fun _ => ?_) (fun _ => ?_)
    · exact hx0
    · extract_lets +onlyGivenNames x1
      have hx1 : Moves [.evc, .mbx, .fab, .lf] s x1 := by
        refine Moves.step ?_ (Moves.mono (by decide) (State.commit_moves _ _))
        exact hx0
      clear_value x1
      try extract_lets +onlyGivenNames x2
      try clear_value x2
      try extract_lets +onlyGivenNames x3
      try clear_value x3
      refine Moves.ite (fun _ => ?_) (fun _ => ?_)
      · try extract_lets +onlyGivenNames x4
        try clear_value x4
        refine Moves.step ?_ (Moves.mono (by decide) (State.raise_moves _ _ _))
        refine Moves.step ?_ (Moves.mono (by decide) (State.conclude_moves _ _ _ _))
        refine Moves.step ?_ (Moves.mono (by decide) (State.modLf_movesAll _ _ (fun _ => by exact Lf.keeps_of rfl)))
        exact hx1
      · refine Moves.step ?_ (Moves.mono (by decide) (State.modLf_movesAll _ _ (fun _ => by exact Lf.keeps_of rfl)))
        exact hx1

theorem State.diagStep_moves (c : Nat) (s : State) :
    Moves [.evc, .psc, .pad, .mbx, .fab, .parts, .lf, .pop, .radio, .sess, .rel, .keys, .ledger, .health, .free] s (State.diagStep c s) := by
  unfold State.diagStep
  refine Moves.ite (fun _ => ?_) (fun _ => ?_)
  · try extract_lets +onlyGivenNames x0
    try clear_value x0
    extract_lets +onlyGivenNames x1
    have hx1 : Moves [.evc, .psc, .pad, .mbx, .fab, .parts, .lf, .pop, .radio, .sess, .rel, .keys, .ledger, .health, .free] s x1 := by
      refine Moves.step ?_ (Moves.mono (by decide) (State.modLf_movesAll _ _ (fun _ => by exact Lf.keeps_of rfl)))
      exact Moves.refl _ _
    clear_value x1
    refine Moves.ite (fun _ => ?_) (fun _ => ?_)
    · extract_lets +onlyGivenNames x2
      have hx2 : Moves [.evc, .psc, .pad, .mbx, .fab, .parts, .lf, .pop, .radio, .sess, .rel, .keys, .ledger, .health, .free] s x2 := by
        refine Moves.step ?_ (Moves.mono (by decide) (State.raise_moves _ _ _))
        refine Moves.step ?_ (Moves.mono (by decide) (State.modLf_movesAll _ _ (fun _ => by exact Lf.keeps_of rfl)))
        exact hx1
      clear_value x2
      refine Moves.ite (fun _ => ?_) (fun _ => ?_)
      · exact hx2
      · refine Moves.step ?_ (Moves.mono (by decide) (State.requestCheck_moves _ _))
        exact hx2
    · exact hx1
  · exact Moves.refl _ _

theorem State.putCoil_moves (c : Nat) (r : CoilReading) (s : State) :
    Moves [.lf, .free] s (State.putCoil c r s) := by
  unfold State.putCoil
  try extract_lets +onlyGivenNames x0
  try clear_value x0
  try extract_lets +onlyGivenNames x1
  try clear_value x1
  extract_lets +onlyGivenNames x2
  have hx2 : Moves [.lf, .free] s x2 := by
    refine Moves.step ?_ (Moves.mono (by decide) (State.modLfChan_moves _ _ _))
    exact Moves.refl _ _
  clear_value x2
  refine Moves.ite (fun _ => ?_) (fun _ => ?_)
  · exact hx2
  · refine Moves.step ?_ (Moves.mono (by decide) (State.drawn_moves _))
    exact hx2

theorem doResonanceMeasurement_moves (c : Nat) (r : CoilReading) (s : State) :
    Moves [.evc, .psc, .pad, .mbx, .fab, .parts, .lf, .pop, .radio, .sess, .rel, .keys, .ledger, .health, .free] s (doResonanceMeasurement c r s) := by
  unfold doResonanceMeasurement
  split
  · extract_lets +onlyGivenNames x0
    have hx0 : Moves [.evc, .psc, .pad, .mbx, .fab, .parts, .lf, .pop, .radio, .sess, .rel, .keys, .ledger, .health, .free] s x0 := by
      refine Moves.step ?_ (Moves.mono (by decide) (State.modLf_movesAll _ _ (fun _ => by exact Lf.keeps_of rfl)))
      exact Moves.refl _ _
    clear_value x0
    extract_lets +onlyGivenNames x1
    have hx1 : Moves [.evc, .psc, .pad, .mbx, .fab, .parts, .lf, .pop, .radio, .sess, .rel, .keys, .ledger, .health, .free] s x1 := by
      refine Moves.ite (fun _ => ?_) (fun _ => ?_)
      · refine Moves.step ?_ (Moves.mono (by decide) (State.putCoil_moves _ _ _))
        exact hx0
      · exact hx0
    clear_value x1
    try extract_lets +onlyGivenNames x2
    try clear_value x2
    try extract_lets +onlyGivenNames x3
    try clear_value x3
    extract_lets +onlyGivenNames x4
    have hx4 : Moves [.evc, .psc, .pad, .mbx, .fab, .parts, .lf, .pop, .radio, .sess, .rel, .keys, .ledger, .health, .free] s x4 := by
      refine Moves.step ?_ (Moves.mono (by decide) (State.setCond_moves _ _ _))
      exact hx1
    clear_value x4
    refine Moves.step ?_ (Moves.mono (by decide) (State.considerAll_moves _))
    refine Moves.step ?_ (Moves.mono (by decide) (State.diagStep_moves _ _))
    refine Moves.step ?_ (Moves.mono (by decide) (State.serveDiag_moves _ _))
    exact hx4
  · exact Moves.refl _ _

theorem doCoilDiagnosticsDue_moves (s : State) :
    Moves [.evc, .psc, .pad, .mbx, .fab, .parts, .lf, .pop, .radio, .sess, .rel, .keys, .ledger, .health, .free] s (doCoilDiagnosticsDue s) := by
  unfold doCoilDiagnosticsDue
  refine Moves.ite (fun _ => ?_) (fun _ => ?_)
  · refine Moves.step ?_ (Moves.mono (by decide) (State.considerAll_moves _))
    refine Moves.step ?_ (Moves.mono (by decide) (State.requestDiagnostics_moves _))
    exact Moves.refl _ _
  · exact Moves.refl _ _

theorem State.tune_moves (c k : Nat) (s : State) :
    Moves [.cfg] s (State.tune c k s) := by
  unfold State.tune
  try extract_lets +onlyGivenNames x0
  try clear_value x0
  refine Moves.step ?_ (Moves.mono (by decide) (State.modCfg_moves _ _))
  exact Moves.refl _ _

end Sys2Proof.Machine
end

