-- ==== Sys2Proof/Laws/Image.lean ====
section
/-!
SUPPORT. What the operations of Machine/Image.lean leave unchanged, and what they keep.
-/
namespace Sys2Proof.Machine

theorem State.modMetonBank_moves (b : Nat) (f : MetonBank → MetonBank) (s : State) :
    Moves [.boot] s (State.modMetonBank b f s) := by
  unfold State.modMetonBank
  refine Moves.step ?_ (Moves.mono (by decide) (State.modBoot_moves _ _ (by simp +contextual [Boot.Keeps, Boot.Shaped] <;> intros <;> omega)))
  exact Moves.refl _ _

theorem State.keepOldLayers_moves (s : State) :
    Moves [.mbx, .pop, .sess] s (State.keepOldLayers s) := by
  unfold State.keepOldLayers
  try extract_lets +onlyGivenNames x0
  try clear_value x0
  extract_lets +onlyGivenNames x1
  have hx1 : Moves [.mbx, .pop, .sess] s x1 := by
    refine Moves.step ?_ (Moves.mono (by decide) (State.modSess_moves _ _))
    exact Moves.refl _ _
  clear_value x1
  extract_lets +onlyGivenNames x2
  have hx2 : Moves [.mbx, .pop, .sess] s x2 := by
    refine Moves.step ?_ (Moves.mono (by decide) (State.modCheck_moves _ _ (by simp +contextual)))
    exact hx1
  clear_value x2
  refine Moves.step ?_ (Moves.mono (by decide) (State.modMbx_moves _ _ (by simp +contextual [Mbx.Keeps, Mbx.Shaped] <;> intros <;> omega)))
  exact hx2

theorem State.bringIn_moves (c : CfgStore) (s : State) :
    Moves [.tbu, .evc, .psc, .pad, .mbx, .cfg, .fab, .parts, .lf, .pop, .radio, .sess, .rel, .keys, .ledger, .health, .free] s (State.bringIn c s) := by
  unfold State.bringIn
  extract_lets +onlyGivenNames x0
  have hx0 : Moves [.tbu, .evc, .psc, .pad, .mbx, .cfg, .fab, .parts, .lf, .pop, .radio, .sess, .rel, .keys, .ledger, .health, .free] s x0 := by
    refine Moves.step ?_ (Moves.mono (by decide) (State.modCfg_moves _ _))
    refine Moves.step ?_ (Moves.mono (by decide) (State.keepOldLayers_moves _))
    exact Moves.refl _ _
  clear_value x0
  try extract_lets +onlyGivenNames x1
  try clear_value x1
  extract_lets +onlyGivenNames x2
  have hx2 : Moves [.tbu, .evc, .psc, .pad, .mbx, .cfg, .fab, .parts, .lf, .pop, .radio, .sess, .rel, .keys, .ledger, .health, .free] s x2 := by
    refine Moves.step ?_ (Moves.mono (by decide) (State.settleVlf_moves _))
    refine Moves.step ?_ (Moves.mono (by decide) (State.modLf_movesAll _ _ (fun _ => by exact Lf.keeps_of rfl)))
    exact hx0
  clear_value x2
  extract_lets +onlyGivenNames x3
  have hx3 : Moves [.tbu, .evc, .psc, .pad, .mbx, .cfg, .fab, .parts, .lf, .pop, .radio, .sess, .rel, .keys, .ledger, .health, .free] s x3 := by
    refine Moves.step ?_ (Moves.mono (by decide) (State.modRel_moves _ _))
    exact hx2
  clear_value x3
  extract_lets +onlyGivenNames x4
  have hx4 : Moves [.tbu, .evc, .psc, .pad, .mbx, .cfg, .fab, .parts, .lf, .pop, .radio, .sess, .rel, .keys, .ledger, .health, .free] s x4 := by
    refine Moves.step ?_ (Moves.mono (by decide) (State.modTbu_movesAll _ _ (fun _ => by exact Tbu.keeps_of rfl rfl rfl rfl rfl rfl)))
    exact hx3
  clear_value x4
  refine Moves.step ?_ (Moves.mono (by decide) (State.evalDecision_moves _))
  refine Moves.step ?_ (Moves.mono (by decide) (State.rebudget_moves _))
  exact hx4

end Sys2Proof.Machine
end

