-- ==== Sys2Proof/Laws/Keystore.lean ====
section
/-!
SUPPORT. What the operations of Machine/Keystore.lean leave unchanged, and what they keep.
-/
namespace Sys2Proof.Machine

theorem State.commitKey_moves (k cls : Nat) (key : List Byte) (s : State) :
    Moves [.keys] s (State.commitKey k cls key s) := by
  unfold State.commitKey
  refine Moves.step ?_ (Moves.mono (by decide) (State.dropShadow_moves _ _))
  refine Moves.step ?_ (Moves.mono (by decide) (State.modSlot_moves _ _ _))
  exact Moves.refl _ _

end Sys2Proof.Machine
end

