-- ==== Sys2Proof/Laws/PartCommands.lean ====
section
/-!
SUPPORT. What the operations of Machine/PartCommands.lean leave unchanged, and what they keep.
-/
namespace Sys2Proof.Machine

theorem State.abortLanes_moves (ident : Nat) (s : State) :
    Moves [.sess, .net] s (State.abortLanes ident s) := by
  unfold State.abortLanes
  try extract_lets +onlyGivenNames x0
  try clear_value x0
  try extract_lets +onlyGivenNames x1
  try clear_value x1
  refine Moves.step ?_ (Moves.mono (by decide) (State.modNet_movesAll _ _ (fun _ => by exact Net.keeps_of rfl rfl rfl rfl rfl rfl rfl rfl rfl rfl)))
  refine Moves.step ?_ (Moves.mono (by decide) (State.modSess_moves _ _))
  exact Moves.refl _ _

theorem State.noteModule_moves (r : PartRec) (s : State) :
    Moves [.evc, .mbx, .parts, .lf, .pop, .radio, .sess, .keys, .ledger, .health, .free] s (State.noteModule r s) := by
  unfold State.noteModule
  refine Moves.ite (fun _ => ?_) (fun _ => ?_)
  · refine Moves.step ?_ (Moves.mono (by decide) (State.moduleChanged_moves _ _))
    exact Moves.refl _ _
  · exact Moves.refl _ _

theorem State.noteMisplaced_moves (r : PartRec) (s : State) :
    Moves [.evc, .ledger] s (State.noteMisplaced r s) := by
  unfold State.noteMisplaced
  refine Moves.ite (fun _ => ?_) (fun _ => ?_)
  · refine Moves.step ?_ (Moves.mono (by decide) (State.partnerEntry_moves _ _ _ _ _ _ _ _))
    exact Moves.refl _ _
  · exact Moves.refl _ _

theorem State.unlockIdentity_moves (ident : Nat) (s : State) :
    Moves [.evc, .parts, .ledger] s (State.unlockIdentity ident s).1 := by
  show MovesFst _ _ _
  unfold State.unlockIdentity
  extract_lets +onlyGivenNames x0
  have hx0 : Moves [.evc, .parts, .ledger] s x0 := by
    refine Moves.step ?_ (Moves.mono (by decide) (State.evalIdentity_moves _ _))
    exact Moves.refl _ _
  clear_value x0
  split
  · extract_lets +onlyGivenNames x1
    have hx1 : Moves [.evc, .parts, .ledger] s x1 := by
      refine Moves.step ?_ (Moves.mono (by decide) (State.partnerEntry_moves _ _ _ _ _ _ _ _))
      refine Moves.step ?_ (Moves.mono (by decide) (State.writeRec_moves _ _ _))
      exact hx0
    clear_value x1
    show Moves _ _ _
    refine Moves.step ?_ (Moves.mono (by decide) (State.evalIdentity_moves _ _))
    exact hx1
  · show Moves _ _ _
    refine Moves.step ?_ (Moves.mono (by decide) (State.partnerEntry_moves _ _ _ _ _ _ _ _))
    exact hx0

theorem State.unlockAttach_moves (a : Nat) (s : State) :
    Moves [.evc, .parts, .ledger] s (State.unlockAttach a s).1 := by
  show MovesFst _ _ _
  unfold State.unlockAttach
  extract_lets +onlyGivenNames x0
  have hx0 : Moves [.evc, .parts, .ledger] s x0 := by
    refine Moves.step ?_ (Moves.mono (by decide) (State.evalAttach_moves _ _))
    exact Moves.refl _ _
  clear_value x0
  try extract_lets +onlyGivenNames x1
  try clear_value x1
  show Moves _ _ _
  refine Moves.step ?_ (Moves.mono (by decide) (State.partnerEntry_moves _ _ _ _ _ _ _ _))
  refine Moves.step ?_ (Moves.mono (by decide) (State.modAttach_moves _ _ _))
  exact hx0

end Sys2Proof.Machine
end

