-- ==== Sys2Proof/Laws/Tamper.lean ====
section
/-!
SUPPORT. What the operations of Machine/Tamper.lean leave unchanged, and what they keep.
-/
namespace Sys2Proof.Machine

theorem State.startSelfTest_moves (alarm : Bool) (s : State) :
    Moves [.crypt] s (State.startSelfTest alarm s) := by
  unfold State.startSelfTest
  refine Moves.step ?_ (Moves.mono (by decide) (State.modCrypt_movesAll _ _ (fun _ => by exact Crypt.keeps_of rfl rfl rfl)))
  exact Moves.refl _ _

theorem State.revokeMessages_moves (s : State) :
    Moves [.evc, .mbx, .fab, .crypt, .keys, .mem] s (State.revokeMessages s) := by
  unfold State.revokeMessages
  refine Moves.foldl ?_ (fun x0 _ hx0 => ?_)
  · exact Moves.refl _ _
  · refine Moves.step ?_ (Moves.mono (by decide) (State.killCur_moves _ _ _))
    refine Moves.step ?_ (Moves.mono (by decide) (State.killSusp_moves _ _ _))
    exact hx0

theorem State.endCut_moves (s : State) :
    Moves [.evc, .psc, .pad, .mbx, .fab, .parts, .lf, .pop, .radio, .sess, .rel, .keys, .ledger, .health, .mem, .free] s (State.endCut s) := by
  unfold State.endCut
  split
  · refine Moves.foldl ?_ (fun x0 _ hx0 => ?_)
    · exact Moves.refl _ _
    · refine Moves.step ?_ (Moves.mono (by decide) (State.seqIdle_moves _ _))
      refine Moves.step ?_ (Moves.mono (by decide) (State.endLane_moves _ _ _))
      exact hx0
  · exact Moves.refl _ _

theorem State.cutExchanges_moves (s : State) :
    Moves [.evc, .psc, .pad, .mbx, .fab, .parts, .lf, .pop, .radio, .sess, .rel, .keys, .ledger, .health, .mem, .free] s (State.cutExchanges s) := by
  unfold State.cutExchanges
  extract_lets +onlyGivenNames x0
  have hx0 : Moves [.evc, .psc, .pad, .mbx, .fab, .parts, .lf, .pop, .radio, .sess, .rel, .keys, .ledger, .health, .mem, .free] s x0 := by
    refine Moves.step ?_ (Moves.mono (by decide) (State.modSess_moves _ _))
    exact Moves.refl _ _
  clear_value x0
  extract_lets +onlyGivenNames x1
  have hx1 : Moves [.evc, .psc, .pad, .mbx, .fab, .parts, .lf, .pop, .radio, .sess, .rel, .keys, .ledger, .health, .mem, .free] s x1 := by
    refine Moves.step ?_ (Moves.mono (by decide) (State.modCheck_moves _ _ (by simp +contextual)))
    exact hx0
  clear_value x1
  refine Moves.step ?_ (Moves.mono (by decide) (State.endCut_moves _))
  refine Moves.step ?_ (Moves.mono (by decide) (State.modParts_movesAll _ _ (fun _ => by exact Parts.keeps_of rfl)))
  exact hx1

theorem State.tamperErase_moves (s : State) :
    Moves [.evc, .psc, .pad, .mbx, .fab, .parts, .lf, .pop, .radio, .sess, .rel, .crypt, .keys, .ledger, .health, .mem, .free] s (State.tamperErase s) := by
  unfold State.tamperErase
  refine Moves.step ?_ (Moves.mono (by decide) (State.startSelfTest_moves _ _))
  refine Moves.step ?_ (Moves.mono (by decide) (State.cutExchanges_moves _))
  refine Moves.step ?_ (Moves.mono (by decide) (State.revokeMessages_moves _))
  refine Moves.step ?_ (Moves.mono (by decide) (State.avalanche_moves _))
  exact Moves.refl _ _

theorem State.tamperNote_moves (unit : Nat) (s : State) :
    Moves [.evc, .psc, .pad, .mbx, .fab, .rel, .ledger, .health, .free] s (State.tamperNote unit s) := by
  unfold State.tamperNote
  refine Moves.step ?_ (Moves.mono (by decide) (State.wakeSource_moves _ _))
  refine Moves.step ?_ (Moves.mono (by decide) (State.healthFree_moves _ _ _ _))
  refine Moves.step ?_ (Moves.mono (by decide) (State.raise_moves _ _ _))
  exact Moves.refl _ _

theorem State.markQuiet_moves (s : State) :
    Moves [.tamper] s (State.markQuiet s) := by
  unfold State.markQuiet
  try extract_lets +onlyGivenNames x0
  try clear_value x0
  refine Moves.step ?_ (Moves.mono (by decide) (State.modTamper_movesAll _ _ (fun _ => by exact Tamper.keeps_of rfl rfl)))
  exact Moves.refl _ _

theorem State.assertInput_moves (n : Nat) (s : State) :
    Moves [.evc, .psc, .pad, .mbx, .fab, .parts, .lf, .pop, .radio, .sess, .rel, .crypt, .keys, .ledger, .health, .tamper, .mem, .free] s (State.assertInput n s) := by
  unfold State.assertInput
  refine Moves.ite (fun _ => ?_) (fun _ => ?_)
  · exact Moves.refl _ _
  · extract_lets +onlyGivenNames x0
    have hx0 : Moves [.evc, .psc, .pad, .mbx, .fab, .parts, .lf, .pop, .radio, .sess, .rel, .crypt, .keys, .ledger, .health, .tamper, .mem, .free] s x0 := by
      refine Moves.step ?_ (Moves.mono (by decide) (State.modTamper_moves _ _ (by simp +contextual [Tamper.Keeps, Tamper.Shaped] <;> intros <;> omega)))
      exact Moves.refl _ _
    clear_value x0
    refine Moves.step ?_ (Moves.mono (by decide) (State.tamperNote_moves _ _))
    refine Moves.step ?_ (Moves.mono (by decide) (State.tamperErase_moves _))
    refine Moves.step ?_ (Moves.mono (by decide) (State.markQuiet_moves _))
    exact hx0

theorem State.tamperZeroise_moves (s : State) :
    Moves [.evc, .mbx, .fab, .parts, .pop, .sess, .crypt, .keys, .ledger, .health, .net, .tamper, .mem, .free] s (State.tamperZeroise s) := by
  unfold State.tamperZeroise
  refine Moves.ite (fun _ => ?_) (fun _ => ?_)
  · refine Moves.step ?_ (Moves.mono (by decide) (State.modTamper_movesAll _ _ (fun _ => by exact Tamper.keeps_of rfl rfl)))
    refine Moves.step ?_ (Moves.mono (by decide) (State.zeroise_moves _))
    exact Moves.refl _ _
  · exact Moves.refl _ _

theorem State.confirmTamper_moves (input : Option Nat) (s : State) :
    Moves [.evc, .psc, .pad, .mbx, .fab, .parts, .lf, .pop, .radio, .sess, .rel, .crypt, .keys, .ledger, .health, .net, .tamper, .mem, .free] s (State.confirmTamper input s) := by
  unfold State.confirmTamper
  extract_lets +onlyGivenNames x0
  have hx0 : Moves [.evc, .psc, .pad, .mbx, .fab, .parts, .lf, .pop, .radio, .sess, .rel, .crypt, .keys, .ledger, .health, .net, .tamper, .mem, .free] s x0 := by
    refine Moves.step ?_ (Moves.mono (by decide) (State.evalDecision_moves _))
    refine Moves.step ?_ (Moves.mono (by decide) (State.modTamper_movesAll _ _ (fun _ => by exact Tamper.keeps_of rfl rfl)))
    exact Moves.refl _ _
  clear_value x0
  try extract_lets +onlyGivenNames x1
  try clear_value x1
  extract_lets +onlyGivenNames x2
  have hx2 : Moves [.evc, .psc, .pad, .mbx, .fab, .parts, .lf, .pop, .radio, .sess, .rel, .crypt, .keys, .ledger, .health, .net, .tamper, .mem, .free] s x2 := by
    refine Moves.step ?_ (Moves.mono (by decide) (State.drawn_moves _))
    refine Moves.step ?_ (Moves.mono (by decide) (State.ledgerAdd_moves _ _ _ _))
    exact hx0
  clear_value x2
  refine Moves.step ?_ (Moves.mono (by decide) (State.tamperZeroise_moves _))
  exact hx2

theorem doTamperConfirmed_moves (n : Nat) (s : State) :
    Moves [.evc, .psc, .pad, .mbx, .boot, .fab, .parts, .lf, .pop, .radio, .sess, .rel, .crypt, .keys, .ledger, .health, .net, .tamper, .mem, .free] s (doTamperConfirmed n s) := by
  unfold doTamperConfirmed
  split
  · refine Moves.ite (fun _ => ?_) (fun _ => ?_)
    · exact Moves.refl _ _
    · extract_lets +onlyGivenNames x0
      have hx0 : Moves [.evc, .psc, .pad, .mbx, .boot, .fab, .parts, .lf, .pop, .radio, .sess, .rel, .crypt, .keys, .ledger, .health, .net, .tamper, .mem, .free] s x0 := by
        refine Moves.step ?_ (Moves.mono (by decide) (State.modTamper_moves _ _ (by simp +contextual [Tamper.Keeps, Tamper.Shaped] <;> intros <;> omega)))
        exact Moves.refl _ _
      clear_value x0
      refine Moves.ite (fun _ => ?_) (fun _ => ?_)
      · refine Moves.step ?_ (Moves.mono (by decide) (State.confirmTamper_moves _ _))
        exact hx0
      · refine Moves.step ?_ (Moves.mono (by decide) (State.modBoot_movesAll _ _ (fun _ => by exact Boot.keeps_of rfl rfl rfl rfl)))
        refine Moves.step ?_ (Moves.mono (by decide) (State.modTamper_movesAll _ _ (fun _ => by exact Tamper.keeps_of rfl rfl)))
        exact hx0
  · exact Moves.refl _ _

theorem State.meshFail_moves (s : State) :
    Moves [.evc, .psc, .pad, .mbx, .fab, .parts, .lf, .pop, .radio, .sess, .rel, .crypt, .keys, .ledger, .health, .net, .tamper, .mem, .free] s (State.meshFail s) := by
  unfold State.meshFail
  try extract_lets +onlyGivenNames x0
  try clear_value x0
  extract_lets +onlyGivenNames x1
  have hx1 : Moves [.evc, .psc, .pad, .mbx, .fab, .parts, .lf, .pop, .radio, .sess, .rel, .crypt, .keys, .ledger, .health, .net, .tamper, .mem, .free] s x1 := by
    refine Moves.step ?_ (Moves.mono (by decide) (State.markQuiet_moves _))
    refine Moves.step ?_ (Moves.mono (by decide) (State.modTamper_movesAll _ _ (fun _ => by exact Tamper.keeps_of rfl rfl)))
    exact Moves.refl _ _
  clear_value x1
  extract_lets +onlyGivenNames x2
  have hx2 : Moves [.evc, .psc, .pad, .mbx, .fab, .parts, .lf, .pop, .radio, .sess, .rel, .crypt, .keys, .ledger, .health, .net, .tamper, .mem, .free] s x2 := by
    refine Moves.step ?_ (Moves.mono (by decide) (State.tamperNote_moves _ _))
    refine Moves.ite (fun _ => ?_) (fun _ => ?_)
    · refine Moves.step ?_ (Moves.mono (by decide) (State.tamperErase_moves _))
      exact hx1
    · exact hx1
  clear_value x2
  refine Moves.ite (fun _ => ?_) (fun _ => ?_)
  · refine Moves.step ?_ (Moves.mono (by decide) (State.confirmTamper_moves _ _))
    exact hx2
  · exact hx2

theorem State.meshPass_moves (s : State) :
    Moves [.evc, .psc, .pad, .mbx, .fab, .rel, .ledger, .health, .tamper, .free] s (State.meshPass s) := by
  unfold State.meshPass
  extract_lets +onlyGivenNames x0
  have hx0 : Moves [.evc, .psc, .pad, .mbx, .fab, .rel, .ledger, .health, .tamper, .free] s x0 := by
    refine Moves.step ?_ (Moves.mono (by decide) (State.markQuiet_moves _))
    refine Moves.step ?_ (Moves.mono (by decide) (State.modTamper_movesAll _ _ (fun _ => by exact Tamper.keeps_of rfl rfl)))
    exact Moves.refl _ _
  clear_value x0
  refine Moves.ite (fun _ => ?_) (fun _ => ?_)
  · exact hx0
  · refine Moves.step ?_ (Moves.mono (by decide) (State.tamperNote_moves _ _))
    exact hx0

theorem State.checkMesh_moves (passes : Bool) (s : State) :
    Moves [.evc, .psc, .pad, .mbx, .fab, .parts, .lf, .pop, .radio, .sess, .rel, .crypt, .keys, .ledger, .health, .net, .tamper, .mem, .free] s (State.checkMesh passes s) := by
  unfold State.checkMesh
  refine Moves.ite (fun _ => ?_) (fun _ => ?_)
  · exact Moves.refl _ _
  · extract_lets +onlyGivenNames x0
    have hx0 : Moves [.evc, .psc, .pad, .mbx, .fab, .parts, .lf, .pop, .radio, .sess, .rel, .crypt, .keys, .ledger, .health, .net, .tamper, .mem, .free] s x0 := by
      refine Moves.step ?_ (Moves.mono (by decide) (State.drawn_moves _))
      refine Moves.step ?_ (Moves.mono (by decide) (State.modTamper_movesAll _ _ (fun _ => by exact Tamper.keeps_of rfl rfl)))
      exact Moves.refl _ _
    clear_value x0
    refine Moves.ite (fun _ => ?_) (fun _ => ?_)
    · refine Moves.step ?_ (Moves.mono (by decide) (State.meshPass_moves _))
      exact hx0
    · refine Moves.step ?_ (Moves.mono (by decide) (State.meshFail_moves _))
      exact hx0

theorem State.quietInput_moves (n : Nat) (s : State) :
    Moves [.evc, .psc, .pad, .mbx, .fab, .rel, .ledger, .health, .tamper, .free] s (State.quietInput n s) := by
  unfold State.quietInput
  refine Moves.ite (fun _ => ?_) (fun _ => ?_)
  · exact Moves.refl _ _
  · refine Moves.step ?_ (Moves.mono (by decide) (State.tamperNote_moves _ _))
    refine Moves.step ?_ (Moves.mono (by decide) (State.markQuiet_moves _))
    refine Moves.step ?_ (Moves.mono (by decide) (State.modTamper_moves _ _ (by simp +contextual [Tamper.Keeps, Tamper.Shaped] <;> intros <;> omega)))
    exact Moves.refl _ _

theorem doTamperQuiet_moves (unit : Nat) (s : State) :
    Moves [.evc, .psc, .pad, .mbx, .fab, .rel, .ledger, .health, .tamper, .free] s (doTamperQuiet unit s) := by
  unfold doTamperQuiet
  refine Moves.ite (fun _ => ?_) (fun _ => ?_)
  · exact Moves.refl _ _
  · refine Moves.ite (fun _ => ?_) (fun _ => ?_)
    · refine Moves.ite (fun _ => ?_) (fun _ => ?_)
      · exact Moves.refl _ _
      · refine Moves.step ?_ (Moves.mono (by decide) (State.meshPass_moves _))
        exact Moves.refl _ _
    · refine Moves.step ?_ (Moves.mono (by decide) (State.quietInput_moves _ _))
      exact Moves.refl _ _

theorem doTamperLatchClear_moves (s : State) :
    Moves [.evc, .psc, .pad, .mbx, .fab, .parts, .lf, .pop, .radio, .sess, .rel, .keys, .ledger, .health, .tamper, .free] s (doTamperLatchClear s) := by
  unfold doTamperLatchClear
  try extract_lets +onlyGivenNames x0
  try clear_value x0
  refine Moves.ite (fun _ => ?_) (fun _ => ?_)
  · refine Moves.step ?_ (Moves.mono (by decide) (State.evalDecision_moves _))
    refine Moves.step ?_ (Moves.mono (by decide) (State.ledgerAdd_moves _ _ _ _))
    refine Moves.step ?_ (Moves.mono (by decide) (State.modTamper_movesAll _ _ (fun _ => by exact Tamper.keeps_of rfl rfl)))
    exact Moves.refl _ _
  · exact Moves.refl _ _

end Sys2Proof.Machine
end

