-- ==== Sys2Proof/Laws/Reset.lean ====
section
/-!
SUPPORT. What the operations of Machine/Reset.lean leave unchanged, and what they keep.
-/
namespace Sys2Proof.Machine

theorem State.clearVolatile_moves (cause : Nat) (s : State) : Moves [.tbu, .tmr, .evc, .psc, .pad, .mbx, .boot, .cfg, .fab, .parts, .lf, .pop, .radio, .sess, .rel, .crypt, .keys, .met, .ledger, .health, .net, .cores, .mem] s (s.clearVolatile cause) := by
  refine ⟨fun p hp => by cases p <;> first | rfl | exact absurd (by decide) hp, ?_⟩
  have hm : s.met.Keeps s.stopMeter.met := (State.stopMeter_moves s).2.met
  exact
    { tbu := ⟨fun h => ⟨rfl, rfl, rfl, rfl, h.2.2.2.2.1, by
          intro y hy
          rw [List.eq_of_mem_replicate hy]
          exact ⟨rfl, rfl, rfl, rfl, rfl, rfl⟩⟩, Nat.le_refl _⟩
      tmr := fun h => ⟨rfl, rfl, rfl, (List.length_map _).trans h.2.2.2⟩
      evc := fun _ => ⟨rfl, rfl, rfl, rfl⟩
      psc := fun _ => ⟨(by decide : (0x23BF : Word) &&& 0x23B1 = 0x23B1), (by decide : (0x23BF : Word) &&& 0xFFFFC000 = 0)⟩
      pad := fun _ => ⟨(by decide : (0#14 &&& ~~~0x2440#14) = 0), (by decide : (0#14 &&& ~~~0x2440#14) = 0)⟩
      mbx := fun _ => rfl
      boot := ⟨fun h => h, fun h => h, Nat.le_refl _⟩
      fab := fun _ => ⟨rfl, rfl, rfl, rfl⟩
      parts := fun h => h
      lf := fun _ => rfl
      pop := fun _ k hk => by cases hk
      radio := fun _ => ⟨rfl, rfl, Nat.zero_le _⟩
      crypt := fun h => ⟨rfl, rfl, h.2.2⟩
      keys := fun h => (List.length_map _).trans h
      met := fun h => hm h
      ledger := ⟨fun h => ⟨h.1, Nat.zero_le _, h.2.2⟩, Nat.le_refl _⟩
      health := ⟨fun h => h, Nat.le_refl _⟩
      net := fun _ => ⟨rfl, rfl, rfl, rfl, rfl, rfl, rfl, rfl, rfl, rfl⟩
      power := fun h => h
      cores := fun h => ⟨(List.length_map _).trans h.1, rfl⟩
      tamper := fun h => h
      jtag := fun h => h
      mem := fun h => Memory.wf_filter _ h }

theorem State.systemReset_moves (cause : Nat) (s : State) :
    Moves [.tbu, .tmr, .evc, .psc, .pad, .mbx, .boot, .cfg, .fab, .parts, .lf, .pop, .radio, .sess, .rel, .crypt, .keys, .met, .ledger, .health, .net, .cores, .mem] s (State.systemReset cause s) := by
  unfold State.systemReset
  refine Moves.step ?_ (Moves.mono (by decide) (State.clearVolatile_moves _ _))
  refine Moves.step ?_ (Moves.mono (by decide) (State.flushItems_moves _ _))
  exact Moves.refl _ _

theorem State.recoveryReset_moves (code : Nat) (s : State) :
    Moves [.tbu, .tmr, .evc, .psc, .pad, .mbx, .boot, .cfg, .fab, .parts, .lf, .pop, .radio, .sess, .rel, .crypt, .keys, .met, .ledger, .health, .net, .cores, .mem] s (State.recoveryReset code s) := by
  unfold State.recoveryReset
  refine Moves.step ?_ (Moves.mono (by decide) (State.systemReset_moves _ _))
  refine Moves.step ?_ (Moves.mono (by decide) (State.modBoot_movesAll _ _ (fun _ => by exact Boot.keeps_of rfl rfl rfl rfl)))
  exact Moves.refl _ _

theorem doRstNAsserted_moves (lowNs : Nat) (s : State) :
    Moves [.tbu, .tmr, .evc, .psc, .pad, .mbx, .boot, .cfg, .fab, .parts, .lf, .pop, .radio, .sess, .rel, .crypt, .keys, .met, .ledger, .health, .net, .cores, .mem, .free] s (doRstNAsserted lowNs s) := by
  unfold doRstNAsserted
  refine Moves.ite (fun _ => ?_) (fun _ => ?_)
  · exact Moves.refl _ _
  · refine Moves.ite (fun _ => ?_) (fun _ => ?_)
    · refine Moves.step ?_ (Moves.mono (by decide) (State.systemReset_moves _ _))
      exact Moves.refl _ _
    · refine Moves.ite (fun _ => ?_) (fun _ => ?_)
      · refine Moves.step ?_ (Moves.mono (by decide) (State.systemReset_moves _ _))
        refine Moves.step ?_ (Moves.mono (by decide) (State.drawn_moves _))
        exact Moves.refl _ _
      · refine Moves.step ?_ (Moves.mono (by decide) (State.drawn_moves _))
        exact Moves.refl _ _

theorem doPowerOnReset_moves (s : State) : Moves [.tbu, .tmr, .evc, .psc, .pad, .mbx, .boot, .cfg, .fab, .parts, .lf, .pop, .radio, .sess, .rel, .crypt, .keys, .met, .ledger, .health, .net, .power, .cores, .tamper, .jtag, .mem, .free] s (doPowerOnReset s) := by
  refine ⟨fun p hp => by cases p <;> first | rfl | exact absurd (by decide) hp, ?_⟩
  have hc := (State.clearVolatile_moves 0 s).2
  have hr : s.ledger.Shaped → s.reserve.length ≤ 64 := fun h => by
    unfold State.reserve
    split
    · exact h.2.2
    · exact List.length_take_le _ _
  exact
    { tbu := ⟨fun _ => ⟨rfl, rfl, rfl, rfl, Nat.zero_le _, by
          intro y hy
          rw [List.eq_of_mem_replicate hy]
          exact ⟨rfl, rfl, rfl, rfl, rfl, rfl⟩⟩, Nat.le_succ _⟩
      tmr := fun _ => ⟨rfl, rfl, rfl, rfl⟩
      evc := hc.evc
      psc := fun _ => ⟨(by decide : (0x23BF : Word) &&& 0x23B1 = 0x23B1), (by decide : (0x23BF : Word) &&& 0xFFFFC000 = 0)⟩
      pad := fun _ => ⟨(by decide : (0#14 &&& ~~~0x2440#14) = 0), (by decide : (0#14 &&& ~~~0x2440#14) = 0)⟩
      mbx := fun _ => rfl
      boot := hc.boot
      fab := fun _ => ⟨rfl, rfl, rfl, rfl⟩
      parts := hc.parts
      lf := fun _ => rfl
      pop := hc.pop
      radio := fun _ => ⟨rfl, rfl, Nat.zero_le _⟩
      crypt := hc.crypt
      keys := hc.keys
      met := fun _ => rfl
      ledger := ⟨fun h => ⟨h.1, Nat.zero_le _, hr h⟩, Nat.le_refl _⟩
      health := hc.health
      net := fun _ => ⟨rfl, rfl, rfl, rfl, rfl, rfl, rfl, rfl, rfl, rfl⟩
      power := fun _ => rfl
      cores := hc.cores
      tamper := fun _ => ⟨rfl, rfl⟩
      jtag := fun _ => ⟨rfl, rfl⟩
      mem := fun h => Memory.wf_filter _ h }

theorem State.holdTime_moves (s : State) :
    Moves [.tbu, .evc, .free] s (State.holdTime s) := by
  unfold State.holdTime
  refine Moves.step ?_ (Moves.mono (by decide) (State.refOff_moves _))
  refine Moves.ite (fun _ => ?_) (fun _ => ?_)
  · refine Moves.step ?_ (Moves.mono (by decide) (State.changeSource_moves _ _ _))
    exact Moves.refl _ _
  · exact Moves.refl _ _

theorem State.nunatakHold_moves (s : State) :
    Moves [.tbu, .tmr, .evc, .psc, .pad, .mbx, .boot, .cfg, .fab, .parts, .lf, .pop, .radio, .sess, .rel, .crypt, .keys, .met, .ledger, .health, .net, .power, .cores, .tamper, .jtag, .mem] s (State.nunatakHold s) := by
  unfold State.nunatakHold
  refine Moves.step ?_ (Moves.mono (by decide) (State.modPsc_movesAll _ _ (fun _ => by exact Psc.keeps_of rfl)))
  refine Moves.step ?_ (Moves.mono (by decide) (State.modPower_movesAll _ _ (fun _ => by exact Power.keeps_of rfl)))
  refine Moves.step ?_ (Moves.mono (by decide) (State.modJtag_moves _ _ (by simp +contextual [Jtag.Keeps, Jtag.Shaped] <;> intros <;> omega)))
  refine Moves.step ?_ (Moves.mono (by decide) (State.modTamper_moves _ _ (by simp +contextual [Tamper.Keeps, Tamper.Shaped] <;> intros <;> omega)))
  refine Moves.step ?_ (Moves.mono (by decide) (State.modRel_moves _ _))
  refine Moves.step ?_ (Moves.mono (by decide) (State.clearVolatile_moves _ _))
  exact Moves.refl _ _

theorem doLineLoss_moves (s : State) :
    Moves [.tbu, .tmr, .evc, .psc, .pad, .mbx, .boot, .cfg, .fab, .parts, .lf, .pop, .radio, .sess, .rel, .crypt, .keys, .met, .ledger, .health, .net, .power, .cores, .tamper, .jtag, .mem, .free] s (doLineLoss s) := by
  unfold doLineLoss
  refine Moves.ite (fun _ => ?_) (fun _ => ?_)
  · exact Moves.refl _ _
  · refine Moves.step ?_ (Moves.mono (by decide) (State.nunatakHold_moves _))
    refine Moves.step ?_ (Moves.mono (by decide) (State.holdTime_moves _))
    refine Moves.ite (fun _ => ?_) (fun _ => ?_)
    · exact Moves.refl _ _
    · refine Moves.step ?_ (Moves.mono (by decide) (State.flushItems_moves _ _))
      exact Moves.refl _ _

theorem doLinePowerReturn_moves (s : State) :
    Moves [.tbu, .tmr, .evc, .psc, .pad, .mbx, .boot, .cfg, .fab, .parts, .lf, .pop, .radio, .sess, .rel, .crypt, .keys, .met, .ledger, .health, .net, .power, .cores, .tamper, .jtag, .mem, .free] s (doLinePowerReturn s) := by
  unfold doLinePowerReturn
  refine Moves.ite (fun _ => ?_) (fun _ => ?_)
  · exact Moves.refl _ _
  · refine Moves.ite (fun _ => ?_) (fun _ => ?_)
    · refine Moves.step ?_ (Moves.mono (by decide) (doPowerOnReset_moves _))
      exact Moves.refl _ _
    · refine Moves.step ?_ (Moves.mono (by decide) (State.modPower_movesAll _ _ (fun _ => by exact Power.keeps_of rfl)))
      refine Moves.step ?_ (Moves.mono (by decide) (State.clearVolatile_moves _ _))
      exact Moves.refl _ _

theorem State.modFwBank_moves (b : Nat) (f : FwBank → FwBank) (s : State) :
    Moves [.boot] s (State.modFwBank b f s) := by
  unfold State.modFwBank
  refine Moves.step ?_ (Moves.mono (by decide) (State.modBoot_moves _ _ (by simp +contextual [Boot.Keeps, Boot.Shaped] <;> intros <;> omega)))
  exact Moves.refl _ _

theorem State.rollBackTrial_moves (s : State) :
    Moves [.boot] s (State.rollBackTrial s) := by
  unfold State.rollBackTrial
  split
  · refine Moves.step ?_ (Moves.mono (by decide) (State.modBoot_movesAll _ _ (fun _ => by exact Boot.keeps_of rfl rfl rfl rfl)))
    refine Moves.step ?_ (Moves.mono (by decide) (State.modFwBank_moves _ _ _))
    exact Moves.refl _ _
  · exact Moves.refl _ _

theorem State.activateOther_moves (s : State) :
    Moves [.boot] s (State.activateOther s) := by
  unfold State.activateOther
  try extract_lets +onlyGivenNames x0
  try clear_value x0
  refine Moves.step ?_ (Moves.mono (by decide) (State.modBoot_movesAll _ _ (fun _ => by exact Boot.keeps_of rfl rfl rfl rfl)))
  refine Moves.step ?_ (Moves.mono (by decide) (State.modFwBank_moves _ _ _))
  refine Moves.step ?_ (Moves.mono (by decide) (State.modFwBank_moves _ _ _))
  exact Moves.refl _ _

theorem State.bootBank_moves (s : State) : Moves [.boot] s (State.bootBank s).2 := by
  have trial : ∀ t : State, Moves [.boot] s t → Moves [.boot] s t.rollBackTrial := fun t h =>
    h.trans (Moves.mono (by decide) (State.rollBackTrial_moves _))
  show MovesSnd _ _ _
  unfold State.bootBank
  extract_lets c x
  have hc : Moves [.boot] s c := Moves.mono (by decide) (State.modBoot_movesAll _ _ (fun _ => Boot.keeps_of rfl rfl rfl rfl))
  have hx : Moves [.boot] s x := by
    refine Moves.ite (fun _ => Moves.refl _ _) (fun _ => ?_)
    refine Moves.ite (fun _ => trial _ (Moves.refl _ _)) (fun _ => ?_)
    exact Moves.ite (fun _ => trial _ hc) (fun _ => hc)
  split
  · exact hx
  · refine MovesSnd.ite (fun _ => hx) (fun _ => ?_)
    exact MovesSnd.ite (fun _ => hx.trans (Moves.mono (by decide) (State.activateOther_moves _))) (fun _ => hx)

theorem State.metonReject_moves (b : Nat) (s : State) :
    Moves [.boot] s (State.metonReject b s) := by
  unfold State.metonReject
  refine Moves.step ?_ (Moves.mono (by decide) (State.modBoot_movesAll _ _ (fun _ => by exact Boot.keeps_of rfl rfl rfl rfl)))
  refine Moves.step ?_ (Moves.mono (by decide) (State.modMetonBank_moves _ _ _))
  exact Moves.refl _ _

theorem State.bootMeton_moves (fw : Nat) (s : State) :
    Moves [.boot, .cfg] s (State.bootMeton fw s) := by
  unfold State.bootMeton
  split
  · refine Moves.step ?_ (Moves.mono (by decide) (State.modCfg_moves _ _))
    exact Moves.refl _ _
  · split
    · refine Moves.step ?_ (Moves.mono (by decide) (State.modCfg_moves _ _))
      exact Moves.refl _ _
    · extract_lets +onlyGivenNames x0
      have hx0 : Moves [.boot, .cfg] s x0 := by
        refine Moves.step ?_ (Moves.mono (by decide) (State.metonReject_moves _ _))
        exact Moves.refl _ _
      clear_value x0
      split
      · refine Moves.step ?_ (Moves.mono (by decide) (State.modCfg_moves _ _))
        refine Moves.step ?_ (Moves.mono (by decide) (State.modBoot_movesAll _ _ (fun _ => by exact Boot.keeps_of rfl rfl rfl rfl)))
        refine Moves.step ?_ (Moves.mono (by decide) (State.modMetonBank_moves _ _ _))
        exact hx0
      · refine Moves.step ?_ (Moves.mono (by decide) (State.modCfg_moves _ _))
        refine Moves.step ?_ (Moves.mono (by decide) (State.modBoot_movesAll _ _ (fun _ => by exact Boot.keeps_of rfl rfl rfl rfl)))
        refine Moves.step ?_ (Moves.mono (by decide) (State.metonReject_moves _ _))
        exact hx0

theorem State.loadLayers_moves (s : State) :
    Moves [.tbu, .psc, .mbx, .lf, .rel, .met, .net] s (State.loadLayers s) := by
  unfold State.loadLayers
  extract_lets +onlyGivenNames x0
  have hx0 : Moves [.tbu, .psc, .mbx, .lf, .rel, .met, .net] s x0 := by
    refine Moves.step ?_ (Moves.mono (by decide) (State.modTbu_movesAll _ _ (fun _ => by exact Tbu.keeps_of rfl rfl rfl rfl rfl rfl)))
    exact Moves.refl _ _
  clear_value x0
  extract_lets +onlyGivenNames x1
  have hx1 : Moves [.tbu, .psc, .mbx, .lf, .rel, .met, .net] s x1 := by
    refine Moves.step ?_ (Moves.mono (by decide) (State.modPsc_movesAll _ _ (fun _ => by exact Psc.keeps_of rfl)))
    exact hx0
  clear_value x1
  extract_lets +onlyGivenNames x2
  have hx2 : Moves [.tbu, .psc, .mbx, .lf, .rel, .met, .net] s x2 := by
    refine Moves.step ?_ (Moves.mono (by decide) (State.modMbx_movesAll _ _ (fun _ => by exact Mbx.keeps_of rfl)))
    exact hx1
  clear_value x2
  extract_lets +onlyGivenNames x3
  have hx3 : Moves [.tbu, .psc, .mbx, .lf, .rel, .met, .net] s x3 := by
    refine Moves.step ?_ (Moves.mono (by decide) (State.modLf_movesAll _ _ (fun _ => by exact Lf.keeps_of rfl)))
    exact hx2
  clear_value x3
  extract_lets +onlyGivenNames x4
  have hx4 : Moves [.tbu, .psc, .mbx, .lf, .rel, .met, .net] s x4 := by
    refine Moves.step ?_ (Moves.mono (by decide) (State.modNet_movesAll _ _ (fun _ => by exact Net.keeps_of rfl rfl rfl rfl rfl rfl rfl rfl rfl rfl)))
    exact hx3
  clear_value x4
  extract_lets +onlyGivenNames x5
  have hx5 : Moves [.tbu, .psc, .mbx, .lf, .rel, .met, .net] s x5 := by
    refine Moves.ite (fun _ => ?_) (fun _ => ?_)
    · refine Moves.step ?_ (Moves.mono (by decide) (State.modMet_movesAll _ _ (fun _ => by exact Met.keeps_of rfl)))
      exact hx4
    · exact hx4
  clear_value x5
  refine Moves.step ?_ (Moves.mono (by decide) (State.modRel_moves _ _))
  exact hx5

theorem State.rebase_moves (s : State) :
    Moves [.parts, .crypt, .cores] s (State.rebase s) := by
  unfold State.rebase
  extract_lets +onlyGivenNames x0
  have hx0 : Moves [.parts, .crypt, .cores] s x0 := by
    refine Moves.foldl ?_ (fun x1 _ hx1 => ?_)
    · exact Moves.refl _ _
    · try extract_lets +onlyGivenNames x2
      try clear_value x2
      refine Moves.ite (fun _ => ?_) (fun _ => ?_)
      · exact hx1
      · refine Moves.step ?_ (Moves.mono (by decide) (State.writeRec_moves _ _ _))
        exact hx1
  clear_value x0
  extract_lets +onlyGivenNames x3
  have hx3 : Moves [.parts, .crypt, .cores] s x3 := by
    refine Moves.step ?_ (Moves.mono (by decide) (State.modParts_moves _ _ (by simp +contextual [Parts.Keeps, Parts.Shaped] <;> intros <;> omega)))
    exact hx0
  clear_value x3
  extract_lets +onlyGivenNames x4
  have hx4 : Moves [.parts, .crypt, .cores] s x4 := by
    refine Moves.step ?_ (Moves.mono (by decide) (State.modCrypt_moves _ _ (by simp +contextual [Crypt.Keeps, Crypt.Shaped] <;> intros <;> omega)))
    exact hx3
  clear_value x4
  refine Moves.step ?_ (Moves.mono (by decide) (State.modCores_moves _ _ (by simp +contextual [Cores.Keeps, Cores.Shaped] <;> intros <;> omega)))
  exact hx4

theorem State.epochEntry_moves (s : State) :
    Moves [.evc, .ledger] s (State.epochEntry s) := by
  unfold State.epochEntry
  try extract_lets +onlyGivenNames x0
  try clear_value x0
  refine Moves.step ?_ (Moves.mono (by decide) (State.ledgerAdd_moves _ _ _ _))
  exact Moves.refl _ _

theorem State.bootMoraine_moves (s : State) :
    Moves [.evc, .boot, .ledger] s (State.bootMoraine s) := by
  unfold State.bootMoraine
  try extract_lets +onlyGivenNames x0
  try clear_value x0
  extract_lets +onlyGivenNames x1
  have hx1 : Moves [.evc, .boot, .ledger] s x1 := by
    refine Moves.step ?_ (Moves.mono (by decide) (State.drainWaiting_moves _))
    refine Moves.step ?_ (Moves.mono (by decide) (State.modLedger_moves _ _ (by refine ⟨fun h => ?_, ?_⟩ <;> simp_all [Ledger.Shaped] <;> omega)))
    exact Moves.refl _ _
  clear_value x1
  extract_lets +onlyGivenNames x2
  have hx2 : Moves [.evc, .boot, .ledger] s x2 := by
    refine Moves.ite (fun _ => ?_) (fun _ => ?_)
    · refine Moves.step ?_ (Moves.mono (by decide) (State.modBoot_movesAll _ _ (fun _ => by exact Boot.keeps_of rfl rfl rfl rfl)))
      refine Moves.step ?_ (Moves.mono (by decide) (State.epochEntry_moves _))
      exact hx1
    · exact hx1
  clear_value x2
  refine Moves.step ?_ (Moves.mono (by decide) (State.drainLedger_moves _))
  refine Moves.foldl ?_ (fun x3 _ hx3 => ?_)
  · exact hx2
  · refine Moves.step ?_ (Moves.mono (by decide) (State.enqueue_moves _ _))
    exact hx3

theorem State.bootDue_moves (s : State) (d : Nat × Nat × Nat) :
    Moves [.evc, .ledger, .health, .free] s (State.bootDue s d) := by
  unfold State.bootDue
  refine Moves.ite (fun _ => ?_) (fun _ => ?_)
  · refine Moves.step ?_ (Moves.mono (by decide) (State.ledgerAdd_moves _ _ _ _))
    exact Moves.refl _ _
  · refine Moves.ite (fun _ => ?_) (fun _ => ?_)
    · refine Moves.step ?_ (Moves.mono (by decide) (State.healthFree_moves _ _ _ _))
      exact Moves.refl _ _
    · refine Moves.ite (fun _ => ?_) (fun _ => ?_)
      · refine Moves.step ?_ (Moves.mono (by decide) (State.health1_moves _ _ _ _ _))
        exact Moves.refl _ _
      · refine Moves.ite (fun _ => ?_) (fun _ => ?_)
        · refine Moves.step ?_ (Moves.mono (by decide) (State.ledgerAdd_moves _ _ _ _))
          exact Moves.refl _ _
        · refine Moves.step ?_ (Moves.mono (by decide) (State.health1_moves _ _ _ _ _))
          exact Moves.refl _ _

theorem State.bootNotes_moves (s : State) :
    Moves [.evc, .boot, .ledger, .health, .free] s (State.bootNotes s) := by
  unfold State.bootNotes
  refine Moves.foldl ?_ (fun x0 _ hx0 => ?_)
  · refine Moves.step ?_ (Moves.mono (by decide) (State.modBoot_movesAll _ _ (fun _ => by exact Boot.keeps_of rfl rfl rfl rfl)))
    exact Moves.refl _ _
  · refine Moves.step ?_ (Moves.mono (by decide) (State.bootDue_moves _ _))
    exact hx0

theorem State.installImage_moves (s : State) (p : Nat × List Byte) :
    Moves [.evc, .parts, .ledger] s (State.installImage s p) := by
  unfold State.installImage
  try extract_lets +onlyGivenNames x0
  try clear_value x0
  refine Moves.ite (fun _ => ?_) (fun _ => ?_)
  · exact Moves.refl _ _
  · split
    · refine Moves.step ?_ (Moves.mono (by decide) (State.changeRec_moves _ _ _ _))
      exact Moves.refl _ _
    · exact Moves.refl _ _

theorem State.installFirst_moves (s : State) :
    Moves [.evc, .boot, .parts, .ledger] s (State.installFirst s) := by
  unfold State.installFirst
  refine Moves.ite (fun _ => ?_) (fun _ => ?_)
  · exact Moves.refl _ _
  · refine Moves.foldl ?_ (fun x0 _ hx0 => ?_)
    · refine Moves.step ?_ (Moves.mono (by decide) (State.modBoot_movesAll _ _ (fun _ => by exact Boot.keeps_of rfl rfl rfl rfl)))
      exact Moves.refl _ _
    · refine Moves.step ?_ (Moves.mono (by decide) (State.installImage_moves _ _))
      exact hx0

theorem State.placeRoles_moves (s : State) :
    Moves [.cores] s (State.placeRoles s) := by
  unfold State.placeRoles
  refine Moves.step ?_ (Moves.mono (by decide) (State.modCores_moves _ _ (by simp +contextual [Cores.Keeps, Cores.Shaped] <;> intros <;> omega)))
  exact Moves.refl _ _

theorem State.bootPairs_moves (ok : List Bool) (s : State) :
    Moves [.cores] s (State.bootPairs ok s) := by
  unfold State.bootPairs
  refine Moves.step ?_ (Moves.mono (by decide) (State.modCores_moves _ _ (by simp +contextual [Cores.Keeps, Cores.Shaped] <;> intros <;> omega)))
  exact Moves.refl _ _

theorem State.bootTamper_moves (r : BootReport) (s : State) :
    Moves [.evc, .psc, .pad, .mbx, .fab, .parts, .lf, .pop, .radio, .sess, .rel, .crypt, .keys, .ledger, .health, .net, .tamper, .mem, .free] s (State.bootTamper r s) := by
  unfold State.bootTamper
  extract_lets +onlyGivenNames x0
  have hx0 : Moves [.evc, .psc, .pad, .mbx, .fab, .parts, .lf, .pop, .radio, .sess, .rel, .crypt, .keys, .ledger, .health, .net, .tamper, .mem, .free] s x0 := by
    refine Moves.foldl ?_ (fun x1 _ hx1 => ?_)
    · exact Moves.refl _ _
    · refine Moves.ite (fun _ => ?_) (fun _ => ?_)
      · refine Moves.step ?_ (Moves.mono (by decide) (State.assertInput_moves _ _))
        exact hx1
      · refine Moves.step ?_ (Moves.mono (by decide) (State.quietInput_moves _ _))
        exact hx1
  clear_value x0
  extract_lets +onlyGivenNames x2
  have hx2 : Moves [.evc, .psc, .pad, .mbx, .fab, .parts, .lf, .pop, .radio, .sess, .rel, .crypt, .keys, .ledger, .health, .net, .tamper, .mem, .free] s x2 := by
    refine Moves.step ?_ (Moves.mono (by decide) (State.markQuiet_moves _))
    refine Moves.step ?_ (Moves.mono (by decide) (State.checkMesh_moves _ _))
    exact hx0
  clear_value x2
  refine Moves.ite (fun _ => ?_) (fun _ => ?_)
  · refine Moves.step ?_ (Moves.mono (by decide) (State.tamperZeroise_moves _))
    exact hx2
  · exact hx2

theorem State.bootKeys_moves (s : State) :
    Moves [.crypt, .keys, .free] s (State.bootKeys s) := by
  unfold State.bootKeys
  refine Moves.step ?_ (Moves.mono (by decide) (State.drawWrapKey_moves _))
  refine Moves.step ?_ (Moves.mono (by decide) (State.modKeys_moves _ _ (by simp +contextual [Keys.Keeps, Keys.Shaped] <;> intros <;> omega)))
  exact Moves.refl _ _

theorem State.bootReady_moves (fw : Nat) (s : State) :
    Moves [.evc, .psc, .pad, .mbx, .boot, .radio, .rel, .cores] s (State.bootReady fw s) := by
  unfold State.bootReady
  extract_lets +onlyGivenNames x0
  have hx0 : Moves [.evc, .psc, .pad, .mbx, .boot, .radio, .rel, .cores] s x0 := by
    refine Moves.step ?_ (Moves.mono (by decide) (State.modMbx_movesAll _ _ (fun _ => by exact Mbx.keeps_of rfl)))
    refine Moves.step ?_ (Moves.mono (by decide) (State.placeRoles_moves _))
    exact Moves.refl _ _
  clear_value x0
  extract_lets +onlyGivenNames x1
  have hx1 : Moves [.evc, .psc, .pad, .mbx, .boot, .radio, .rel, .cores] s x1 := by
    refine Moves.step ?_ (Moves.mono (by decide) (State.modBoot_movesAll _ _ (fun _ => by exact Boot.keeps_of rfl rfl rfl rfl)))
    exact hx0
  clear_value x1
  extract_lets +onlyGivenNames x2
  have hx2 : Moves [.evc, .psc, .pad, .mbx, .boot, .radio, .rel, .cores] s x2 := by
    refine Moves.step ?_ (Moves.mono (by decide) (State.radioOff_moves _))
    exact hx1
  clear_value x2
  extract_lets +onlyGivenNames x3
  have hx3 : Moves [.evc, .psc, .pad, .mbx, .boot, .radio, .rel, .cores] s x3 := by
    refine Moves.step ?_ (Moves.mono (by decide) (State.modRel_moves _ _))
    refine Moves.step ?_ (Moves.mono (by decide) (State.restartHalves_moves _))
    exact hx2
  clear_value x3
  refine Moves.ite (fun _ => ?_) (fun _ => ?_)
  · refine Moves.step ?_ (Moves.mono (by decide) (State.raise_moves _ _ _))
    exact hx3
  · exact hx3

theorem State.bootRun_moves (fw : Nat) (r : BootReport) (s : State) :
    Moves [.tbu, .evc, .psc, .pad, .mbx, .boot, .cfg, .fab, .parts, .lf, .pop, .radio, .sess, .rel, .crypt, .keys, .met, .ledger, .health, .net, .cores, .tamper, .mem, .free] s (State.bootRun fw r s) := by
  unfold State.bootRun
  extract_lets +onlyGivenNames x0
  have hx0 : Moves [.tbu, .evc, .psc, .pad, .mbx, .boot, .cfg, .fab, .parts, .lf, .pop, .radio, .sess, .rel, .crypt, .keys, .met, .ledger, .health, .net, .cores, .tamper, .mem, .free] s x0 := by
    refine Moves.step ?_ (Moves.mono (by decide) (State.rebase_moves _))
    refine Moves.step ?_ (Moves.mono (by decide) (State.loadLayers_moves _))
    refine Moves.step ?_ (Moves.mono (by decide) (State.bootMeton_moves _ _))
    refine Moves.step ?_ (Moves.mono (by decide) (State.readRecords_moves _))
    refine Moves.step ?_ (Moves.mono (by decide) (State.bootKeys_moves _))
    exact Moves.refl _ _
  clear_value x0
  extract_lets +onlyGivenNames x1
  have hx1 : Moves [.tbu, .evc, .psc, .pad, .mbx, .boot, .cfg, .fab, .parts, .lf, .pop, .radio, .sess, .rel, .crypt, .keys, .met, .ledger, .health, .net, .cores, .tamper, .mem, .free] s x1 := by
    refine Moves.step ?_ (Moves.mono (by decide) (State.bootNotes_moves _))
    refine Moves.step ?_ (Moves.mono (by decide) (State.bootMoraine_moves _))
    exact hx0
  clear_value x1
  extract_lets +onlyGivenNames x2
  have hx2 : Moves [.tbu, .evc, .psc, .pad, .mbx, .boot, .cfg, .fab, .parts, .lf, .pop, .radio, .sess, .rel, .crypt, .keys, .met, .ledger, .health, .net, .cores, .tamper, .mem, .free] s x2 := by
    unfold x2
    clear x2
    split
    · refine Moves.step ?_ (Moves.mono (by decide) (State.health1_moves _ _ _ _ _))
      exact hx1
    · exact hx1
  clear_value x2
  extract_lets +onlyGivenNames x3
  have hx3 : Moves [.tbu, .evc, .psc, .pad, .mbx, .boot, .cfg, .fab, .parts, .lf, .pop, .radio, .sess, .rel, .crypt, .keys, .met, .ledger, .health, .net, .cores, .tamper, .mem, .free] s x3 := by
    refine Moves.ite (fun _ => ?_) (fun _ => ?_)
    · refine Moves.step ?_ (Moves.mono (by decide) (State.modCrypt_movesAll _ _ (fun _ => by exact Crypt.keeps_of rfl rfl rfl)))
      refine Moves.step ?_ (Moves.mono (by decide) (State.zeroise_moves _))
      exact hx2
    · exact hx2
  clear_value x3
  extract_lets +onlyGivenNames x4
  have hx4 : Moves [.tbu, .evc, .psc, .pad, .mbx, .boot, .cfg, .fab, .parts, .lf, .pop, .radio, .sess, .rel, .crypt, .keys, .met, .ledger, .health, .net, .cores, .tamper, .mem, .free] s x4 := by
    refine Moves.step ?_ (Moves.mono (by decide) (State.resumeDecision_moves _))
    refine Moves.step ?_ (Moves.mono (by decide) (State.bootTamper_moves _ _))
    refine Moves.step ?_ (Moves.mono (by decide) (State.installFirst_moves _))
    exact hx3
  clear_value x4
  extract_lets +onlyGivenNames x5
  have hx5 : Moves [.tbu, .evc, .psc, .pad, .mbx, .boot, .cfg, .fab, .parts, .lf, .pop, .radio, .sess, .rel, .crypt, .keys, .met, .ledger, .health, .net, .cores, .tamper, .mem, .free] s x5 := by
    refine Moves.step ?_ (Moves.mono (by decide) (State.bootReady_moves _ _))
    refine Moves.step ?_ (Moves.mono (by decide) (State.modPad_movesAll _ _ (fun _ => by exact Pad.keeps_of rfl rfl)))
    exact hx4
  clear_value x5
  refine Moves.step ?_ (Moves.mono (by decide) (State.evalDecision_moves _))
  refine Moves.step ?_ (Moves.mono (by decide) (State.rebudget_moves _))
  refine Moves.step ?_ (Moves.mono (by decide) (State.requestCheck_moves _ _))
  refine Moves.step ?_ (Moves.mono (by decide) (State.requestDiagnostics_moves _))
  exact hx5

theorem State.bootChosen_moves (r : BootReport) (s : State) :
    Moves [.tbu, .evc, .psc, .pad, .mbx, .boot, .cfg, .fab, .parts, .lf, .pop, .radio, .sess, .rel, .crypt, .keys, .met, .ledger, .health, .net, .cores, .tamper, .mem, .free] s (State.bootChosen r s) := by
  unfold State.bootChosen
  split
  · refine Moves.step ?_ (Moves.mono (by decide) (State.modMbx_movesAll _ _ (fun _ => by exact Mbx.keeps_of rfl)))
    refine Moves.step ?_ (Moves.mono (by decide) (State.modBoot_movesAll _ _ (fun _ => by exact Boot.keeps_of rfl rfl rfl rfl)))
    exact (by have hb := State.bootBank_moves s; rw [‹s.bootBank = _›] at hb; exact Moves.mono (by decide) hb)
  · extract_lets +onlyGivenNames x0
    have hx0 : Moves [.tbu, .evc, .psc, .pad, .mbx, .boot, .cfg, .fab, .parts, .lf, .pop, .radio, .sess, .rel, .crypt, .keys, .met, .ledger, .health, .net, .cores, .tamper, .mem, .free] s x0 := by
      refine Moves.step ?_ (Moves.mono (by decide) (State.modBoot_movesAll _ _ (fun _ => by exact Boot.keeps_of rfl rfl rfl rfl)))
      exact (by have hb := State.bootBank_moves s; rw [‹s.bootBank = _›] at hb; exact Moves.mono (by decide) hb)
    clear_value x0
    refine Moves.ite (fun _ => ?_) (fun _ => ?_)
    · refine Moves.step ?_ (Moves.mono (by decide) (State.modBoot_movesAll _ _ (fun _ => by exact Boot.keeps_of rfl rfl rfl rfl)))
      exact hx0
    · refine Moves.step ?_ (Moves.mono (by decide) (State.bootRun_moves _ _ _))
      exact hx0

theorem State.bootTests_moves (r : BootReport) (s : State) :
    Moves [.tbu, .tmr, .evc, .psc, .pad, .mbx, .boot, .cfg, .fab, .parts, .lf, .pop, .radio, .sess, .rel, .crypt, .keys, .met, .ledger, .health, .net, .cores, .tamper, .mem, .free] s (State.bootTests r s) := by
  unfold State.bootTests
  extract_lets +onlyGivenNames x0
  have hx0 : Moves [.tbu, .tmr, .evc, .psc, .pad, .mbx, .boot, .cfg, .fab, .parts, .lf, .pop, .radio, .sess, .rel, .crypt, .keys, .met, .ledger, .health, .net, .cores, .tamper, .mem, .free] s x0 := by
    refine Moves.step ?_ (Moves.mono (by decide) (State.bootPairs_moves _ _))
    exact Moves.refl _ _
  clear_value x0
  refine Moves.ite (fun _ => ?_) (fun _ => ?_)
  · refine Moves.step ?_ (Moves.mono (by decide) (State.modBoot_movesAll _ _ (fun _ => by exact Boot.keeps_of rfl rfl rfl rfl)))
    exact hx0
  · refine Moves.ite (fun _ => ?_) (fun _ => ?_)
    · refine Moves.step ?_ (Moves.mono (by decide) (State.recoveryReset_moves _ _))
      exact hx0
    · refine Moves.ite (fun _ => ?_) (fun _ => ?_)
      · refine Moves.step ?_ (Moves.mono (by decide) (State.bootTamper_moves _ _))
        refine Moves.step ?_ (Moves.mono (by decide) (State.modBoot_movesAll _ _ (fun _ => by exact Boot.keeps_of rfl rfl rfl rfl)))
        exact hx0
      · refine Moves.step ?_ (Moves.mono (by decide) (State.bootChosen_moves _ _))
        exact hx0

theorem doResetRelease_moves (r : BootReport) (s : State) :
    Moves [.tbu, .tmr, .evc, .psc, .pad, .mbx, .boot, .cfg, .fab, .parts, .lf, .pop, .radio, .sess, .rel, .crypt, .keys, .met, .ledger, .health, .net, .cores, .tamper, .mem, .free] s (doResetRelease r s) := by
  unfold doResetRelease
  refine Moves.ite (fun _ => ?_) (fun _ => ?_)
  · exact Moves.refl _ _
  · refine Moves.step ?_ (Moves.mono (by decide) (State.bootTests_moves _ _))
    refine Moves.step ?_ (Moves.mono (by decide) (State.modBoot_movesAll _ _ (fun _ => by exact Boot.keeps_of rfl rfl rfl rfl)))
    exact Moves.refl _ _

theorem doBootSelfTestRetry_moves (r : BootReport) (s : State) :
    Moves [.tbu, .tmr, .evc, .psc, .pad, .mbx, .boot, .cfg, .fab, .parts, .lf, .pop, .radio, .sess, .rel, .crypt, .keys, .met, .ledger, .health, .net, .cores, .tamper, .mem, .free] s (doBootSelfTestRetry r s) := by
  unfold doBootSelfTestRetry
  refine Moves.ite (fun _ => ?_) (fun _ => ?_)
  · refine Moves.step ?_ (Moves.mono (by decide) (State.bootTests_moves _ _))
    exact Moves.refl _ _
  · exact Moves.refl _ _

theorem doBootMonitorExpiry_moves (r : BootReport) (s : State) :
    Moves [.tbu, .tmr, .evc, .psc, .pad, .mbx, .boot, .cfg, .fab, .parts, .lf, .pop, .radio, .sess, .rel, .crypt, .keys, .met, .ledger, .health, .net, .cores, .tamper, .mem, .free] s (doBootMonitorExpiry r s) := by
  unfold doBootMonitorExpiry
  refine Moves.ite (fun _ => ?_) (fun _ => ?_)
  · refine Moves.step ?_ (Moves.mono (by decide) (State.bootTests_moves _ _))
    refine Moves.step ?_ (Moves.mono (by decide) (State.modBoot_movesAll _ _ (fun _ => by exact Boot.keeps_of rfl rfl rfl rfl)))
    refine Moves.step ?_ (Moves.mono (by decide) (State.rollBackTrial_moves _))
    exact Moves.refl _ _
  · exact Moves.refl _ _

theorem doTrialConfirmation_moves (s : State) :
    Moves [.evc, .boot, .ledger] s (doTrialConfirmation s) := by
  unfold doTrialConfirmation
  split
  · refine Moves.ite (fun _ => ?_) (fun _ => ?_)
    · exact Moves.refl _ _
    · extract_lets +onlyGivenNames x0
      have hx0 : Moves [.evc, .boot, .ledger] s x0 := by
        refine Moves.step ?_ (Moves.mono (by decide) (State.modFwBank_moves _ _ _))
        refine Moves.step ?_ (Moves.mono (by decide) (State.modFwBank_moves _ _ _))
        exact Moves.refl _ _
      clear_value x0
      refine Moves.step ?_ (Moves.mono (by decide) (State.ledgerAdd_moves _ _ _ _))
      refine Moves.step ?_ (Moves.mono (by decide) (State.modBoot_moves _ _ (by simp +contextual [Boot.Keeps, Boot.Shaped] <;> intros <;> omega)))
      exact hx0
  · exact Moves.refl _ _

end Sys2Proof.Machine
end

