-- ==== Sys2Proof/Laws/SysCommands.lean ====
section
/-!
SUPPORT. What the operations of Machine/SysCommands.lean leave unchanged, and what they keep.
-/
namespace Sys2Proof.Machine

theorem doSysReset_moves (mb : Nat) (s : State) :
    Moves [.tbu, .tmr, .evc, .psc, .pad, .mbx, .boot, .cfg, .fab, .parts, .lf, .pop, .radio, .sess, .rel, .crypt, .keys, .met, .ledger, .health, .net, .cores, .mem] s (doSysReset mb s) := by
  unfold doSysReset
  refine Moves.ite (fun _ => ?_) (fun _ => ?_)
  · refine Moves.step ?_ (Moves.mono (by decide) (State.systemReset_moves _ _))
    exact Moves.refl _ _
  · exact Moves.refl _ _

theorem State.clearFaultCounts_moves (s : State) :
    Moves [.fab] s (State.clearFaultCounts s) := by
  unfold State.clearFaultCounts
  refine Moves.step ?_ (Moves.mono (by decide) (State.modFab_moves _ _ (by simp +contextual [Fabric.Keeps, Fabric.Shaped] <;> intros <;> omega)))
  exact Moves.refl _ _

end Sys2Proof.Machine
end

