-- ==== Sys2Proof/Laws/CfgCommands.lean ====
section
/-!
SUPPORT. What the operations of Machine/CfgCommands.lean leave unchanged, and what they keep.
-/
namespace Sys2Proof.Machine

theorem State.loadMeton_moves (ofs : Nat) (bs : List Byte) (s : State) :
    Moves [.boot, .fab, .mem] s (State.loadMeton ofs bs s) := by
  unfold State.loadMeton
  try extract_lets +onlyGivenNames x0
  try clear_value x0
  extract_lets +onlyGivenNames x1
  have hx1 : Moves [.boot, .fab, .mem] s x1 := by
    refine Moves.step ?_ (Moves.mono (by decide) (State.modMetonBank_moves _ _ _))
    exact Moves.refl _ _
  clear_value x1
  refine Moves.step ?_ (Moves.mono (by decide) (State.modMetonBank_moves _ _ _))
  refine Moves.step ?_ (Moves.mono (by decide) (State.physWrite_moves _ _ _))
  exact hx1

theorem State.refuseBank_moves (k mb status : Nat) (why : Option Nat) (s : State) :
    Moves [.evc, .mbx, .boot, .fab] s (State.refuseBank k mb status why s) := by
  unfold State.refuseBank
  refine Moves.step ?_ (Moves.mono (by decide) (State.post_moves _ _ _ _))
  refine Moves.step ?_ (Moves.mono (by decide) (State.modBoot_movesAll _ _ (fun _ => by exact Boot.keeps_of rfl rfl rfl rfl)))
  refine Moves.step ?_ (Moves.mono (by decide) (State.modMetonBank_moves _ _ _))
  exact Moves.refl _ _

theorem State.activateBank_moves (k : Nat) (c : CfgStore) (s : State) :
    Moves [.tbu, .evc, .psc, .pad, .mbx, .boot, .cfg, .fab, .parts, .lf, .pop, .radio, .sess, .rel, .keys, .ledger, .health, .tamper, .free] s (State.activateBank k c s) := by
  unfold State.activateBank
  try extract_lets +onlyGivenNames x0
  try clear_value x0
  extract_lets +onlyGivenNames x1
  have hx1 : Moves [.tbu, .evc, .psc, .pad, .mbx, .boot, .cfg, .fab, .parts, .lf, .pop, .radio, .sess, .rel, .keys, .ledger, .health, .tamper, .free] s x1 := by
    unfold x1
    clear x1
    split
    · refine Moves.step ?_ (Moves.mono (by decide) (State.modMetonBank_moves _ _ _))
      exact Moves.refl _ _
    · exact Moves.refl _ _
  clear_value x1
  extract_lets +onlyGivenNames x2
  have hx2 : Moves [.tbu, .evc, .psc, .pad, .mbx, .boot, .cfg, .fab, .parts, .lf, .pop, .radio, .sess, .rel, .keys, .ledger, .health, .tamper, .free] s x2 := by
    refine Moves.step ?_ (Moves.mono (by decide) (State.modBoot_moves _ _ (by simp +contextual [Boot.Keeps, Boot.Shaped] <;> intros <;> omega)))
    refine Moves.step ?_ (Moves.mono (by decide) (State.modMetonBank_moves _ _ _))
    exact hx1
  clear_value x2
  refine Moves.step ?_ (Moves.mono (by decide) (State.ledgerAdd_moves _ _ _ _))
  refine Moves.step ?_ (Moves.mono (by decide) (State.markQuiet_moves _))
  refine Moves.step ?_ (Moves.mono (by decide) (State.bringIn_moves _ _))
  exact hx2

theorem State.cfgActivate_moves (mb : Nat) (s : State) :
    Moves [.tbu, .evc, .psc, .pad, .mbx, .boot, .cfg, .fab, .parts, .lf, .pop, .radio, .sess, .rel, .keys, .ledger, .health, .tamper, .free] s (State.cfgActivate mb s) := by
  unfold State.cfgActivate
  try extract_lets +onlyGivenNames x0
  try clear_value x0
  refine Moves.ite (fun _ => ?_) (fun _ => ?_)
  · refine Moves.step ?_ (Moves.mono (by decide) (State.post_moves _ _ _ _))
    exact Moves.refl _ _
  · refine Moves.ite (fun _ => ?_) (fun _ => ?_)
    · refine Moves.step ?_ (Moves.mono (by decide) (State.post_moves _ _ _ _))
      exact Moves.refl _ _
    · refine Moves.ite (fun _ => ?_) (fun _ => ?_)
      · refine Moves.step ?_ (Moves.mono (by decide) (State.refuseBank_moves _ _ _ _ _))
        exact Moves.refl _ _
      · extract_lets +onlyGivenNames x1
        have hx1 : Moves [.tbu, .evc, .psc, .pad, .mbx, .boot, .cfg, .fab, .parts, .lf, .pop, .radio, .sess, .rel, .keys, .ledger, .health, .tamper, .free] s x1 := by
          refine Moves.step ?_ (Moves.mono (by decide) (State.modMetonBank_moves _ _ _))
          exact Moves.refl _ _
        clear_value x1
        split
        · refine Moves.step ?_ (Moves.mono (by decide) (State.refuseBank_moves _ _ _ _ _))
          exact hx1
        · refine Moves.ite (fun _ => ?_) (fun _ => ?_)
          · refine Moves.step ?_ (Moves.mono (by decide) (State.refuseBank_moves _ _ _ _ _))
            exact hx1
          · refine Moves.ite (fun _ => ?_) (fun _ => ?_)
            · refine Moves.step ?_ (Moves.mono (by decide) (State.post_moves _ _ _ _))
              exact hx1
            · refine Moves.step ?_ (Moves.mono (by decide) (State.post_moves _ _ _ _))
              refine Moves.step ?_ (Moves.mono (by decide) (State.activateBank_moves _ _ _))
              exact hx1

theorem State.loadFw_moves (ofs : Nat) (bs : List Byte) (s : State) :
    Moves [.boot, .fab, .mem] s (State.loadFw ofs bs s) := by
  unfold State.loadFw
  try extract_lets +onlyGivenNames x0
  try clear_value x0
  try extract_lets +onlyGivenNames x1
  try clear_value x1
  refine Moves.step ?_ (Moves.mono (by decide) (State.modFwBank_moves _ _ _))
  refine Moves.step ?_ (Moves.mono (by decide) (State.physWrite_moves _ _ _))
  exact Moves.refl _ _

theorem State.setTrial_moves (k : Nat) (s : State) :
    Moves [.evc, .boot, .ledger] s (State.setTrial k s) := by
  unfold State.setTrial
  refine Moves.step ?_ (Moves.mono (by decide) (State.ledgerAdd_moves _ _ _ _))
  refine Moves.step ?_ (Moves.mono (by decide) (State.modBoot_movesAll _ _ (fun _ => by exact Boot.keeps_of rfl rfl rfl rfl)))
  refine Moves.step ?_ (Moves.mono (by decide) (State.modFwBank_moves _ _ _))
  exact Moves.refl _ _

theorem State.fwActivate_moves (mb flags : Nat) (s : State) :
    Moves [.tbu, .tmr, .evc, .psc, .pad, .mbx, .boot, .cfg, .fab, .parts, .lf, .pop, .radio, .sess, .rel, .crypt, .keys, .met, .ledger, .health, .net, .cores, .mem] s (State.fwActivate mb flags s) := by
  unfold State.fwActivate
  try extract_lets +onlyGivenNames x0
  try clear_value x0
  try extract_lets +onlyGivenNames x1
  try clear_value x1
  refine Moves.ite (fun _ => ?_) (fun _ => ?_)
  · refine Moves.step ?_ (Moves.mono (by decide) (State.post_moves _ _ _ _))
    exact Moves.refl _ _
  · refine Moves.ite (fun _ => ?_) (fun _ => ?_)
    · refine Moves.step ?_ (Moves.mono (by decide) (State.post_moves _ _ _ _))
      exact Moves.refl _ _
    · extract_lets +onlyGivenNames x2
      have hx2 : Moves [.tbu, .tmr, .evc, .psc, .pad, .mbx, .boot, .cfg, .fab, .parts, .lf, .pop, .radio, .sess, .rel, .crypt, .keys, .met, .ledger, .health, .net, .cores, .mem] s x2 := by
        refine Moves.step ?_ (Moves.mono (by decide) (State.modFwBank_moves _ _ _))
        exact Moves.refl _ _
      clear_value x2
      refine Moves.ite (fun _ => ?_) (fun _ => ?_)
      · refine Moves.step ?_ (Moves.mono (by decide) (State.post_moves _ _ _ _))
        exact hx2
      · refine Moves.ite (fun _ => ?_) (fun _ => ?_)
        · refine Moves.step ?_ (Moves.mono (by decide) (State.post_moves _ _ _ _))
          exact hx2
        · refine Moves.ite (fun _ => ?_) (fun _ => ?_)
          · refine Moves.step ?_ (Moves.mono (by decide) (State.systemReset_moves _ _))
            refine Moves.step ?_ (Moves.mono (by decide) (State.setTrial_moves _ _))
            exact hx2
          · refine Moves.step ?_ (Moves.mono (by decide) (State.post_moves _ _ _ _))
            refine Moves.step ?_ (Moves.mono (by decide) (State.setTrial_moves _ _))
            exact hx2

end Sys2Proof.Machine
end

