-- ==== Sys2Proof/Laws/Cmpw.lean ====
section
/-!
SUPPORT. What the operations of Machine/Cmpw.lean leave unchanged, and what they keep.
-/
namespace Sys2Proof.Machine

theorem State.modCmpw_moves (f : Cmpw → Cmpw) (s : State) :
    Moves [.crypt] s (State.modCmpw f s) := by
  unfold State.modCmpw
  refine Moves.step ?_ (Moves.mono (by decide) (State.modCrypt_movesAll _ _ (fun _ => by exact Crypt.keeps_of rfl rfl rfl)))
  exact Moves.refl _ _

theorem State.ownerWrote_moves (r : Requester) (s : State) :
    Moves [.crypt] s (State.ownerWrote r s) := by
  unfold State.ownerWrote
  refine Moves.ite (fun _ => ?_) (fun _ => ?_)
  · refine Moves.step ?_ (Moves.mono (by decide) (State.modCmpw_moves _ _))
    exact Moves.refl _ _
  · exact Moves.refl _ _

theorem writeCmpwCtrl_moves (r : Requester) (w : Word) (s : State) :
    Moves [.crypt] s (writeCmpwCtrl r w s) := by
  unfold writeCmpwCtrl
  try extract_lets +onlyGivenNames x0
  try clear_value x0
  refine Moves.ite (fun _ => ?_) (fun _ => ?_)
  · exact Moves.refl _ _
  · refine Moves.ite (fun _ => ?_) (fun _ => ?_)
    · refine Moves.step ?_ (Moves.mono (by decide) (State.modCmpw_moves _ _))
      exact Moves.refl _ _
    · refine Moves.step ?_ (Moves.mono (by decide) (State.ownerWrote_moves _ _))
      refine Moves.ite (fun _ => ?_) (fun _ => ?_)
      · refine Moves.step ?_ (Moves.mono (by decide) (State.modCmpw_moves _ _))
        exact Moves.refl _ _
      · refine Moves.ite (fun _ => ?_) (fun _ => ?_)
        · split
          · refine Moves.step ?_ (Moves.mono (by decide) (State.modCmpw_moves _ _))
            exact Moves.refl _ _
          · refine Moves.step ?_ (Moves.mono (by decide) (State.modCmpw_moves _ _))
            exact Moves.refl _ _
        · refine Moves.step ?_ (Moves.mono (by decide) (State.modCmpw_moves _ _))
          exact Moves.refl _ _

theorem writeCmpwKeysel_moves (r : Requester) (w : Word) (s : State) :
    Moves [.crypt] s (writeCmpwKeysel r w s) := by
  unfold writeCmpwKeysel
  try extract_lets +onlyGivenNames x0
  try clear_value x0
  try extract_lets +onlyGivenNames x1
  try clear_value x1
  try extract_lets +onlyGivenNames x2
  try clear_value x2
  refine Moves.ite (fun _ => ?_) (fun _ => ?_)
  · exact Moves.refl _ _
  · refine Moves.ite (fun _ => ?_) (fun _ => ?_)
    · refine Moves.ite (fun _ => ?_) (fun _ => ?_)
      · refine Moves.step ?_ (Moves.mono (by decide) (State.modCmpw_moves _ _))
        exact Moves.refl _ _
      · refine Moves.step ?_ (Moves.mono (by decide) (State.modCmpw_moves _ _))
        exact Moves.refl _ _
    · refine Moves.ite (fun _ => ?_) (fun _ => ?_)
      · refine Moves.ite (fun _ => ?_) (fun _ => ?_)
        · refine Moves.step ?_ (Moves.mono (by decide) (State.modCmpw_moves _ _))
          exact Moves.refl _ _
        · split
          · refine Moves.step ?_ (Moves.mono (by decide) (State.ownerWrote_moves _ _))
            refine Moves.step ?_ (Moves.mono (by decide) (State.modCmpw_moves _ _))
            exact Moves.refl _ _
          · refine Moves.step ?_ (Moves.mono (by decide) (State.modCmpw_moves _ _))
            exact Moves.refl _ _
      · refine Moves.ite (fun _ => ?_) (fun _ => ?_)
        · refine Moves.step ?_ (Moves.mono (by decide) (State.modCmpw_moves _ _))
          exact Moves.refl _ _
        · refine Moves.step ?_ (Moves.mono (by decide) (State.ownerWrote_moves _ _))
          refine Moves.step ?_ (Moves.mono (by decide) (State.modCmpw_moves _ _))
          exact Moves.refl _ _

theorem doCmpwBlockDone_moves (s : State) :
    Moves [.evc, .crypt] s (doCmpwBlockDone s) := by
  unfold doCmpwBlockDone
  try extract_lets +onlyGivenNames x0
  try clear_value x0
  refine Moves.ite (fun _ => ?_) (fun _ => ?_)
  · try extract_lets +onlyGivenNames x1
    try clear_value x1
    extract_lets +onlyGivenNames x2
    have hx2 : Moves [.evc, .crypt] s x2 := by
      refine Moves.step ?_ (Moves.mono (by decide) (State.modCmpw_moves _ _))
      exact Moves.refl _ _
    clear_value x2
    refine Moves.ite (fun _ => ?_) (fun _ => ?_)
    · refine Moves.step ?_ (Moves.mono (by decide) (State.raise_moves _ _ _))
      exact hx2
    · exact hx2
  · exact Moves.refl _ _

theorem doCmpwLoadDone_moves (s : State) :
    Moves [.crypt] s (doCmpwLoadDone s) := by
  unfold doCmpwLoadDone
  refine Moves.ite (fun _ => ?_) (fun _ => ?_)
  · refine Moves.step ?_ (Moves.mono (by decide) (State.modCmpw_moves _ _))
    exact Moves.refl _ _
  · exact Moves.refl _ _

theorem doCmpwYieldEnd_moves (s : State) :
    Moves [.crypt] s (doCmpwYieldEnd s) := by
  unfold doCmpwYieldEnd
  refine Moves.step ?_ (Moves.mono (by decide) (State.modCmpw_moves _ _))
  refine Moves.step ?_ (Moves.mono (by decide) (State.modCrypt_movesAll _ _ (fun _ => by exact Crypt.keeps_of rfl rfl rfl)))
  exact Moves.refl _ _

theorem writeCmpw_moves (r : Requester) (off : Nat) (w : Word) (s : State) :
    Moves [.crypt] s (writeCmpw r off w s) := by
  unfold writeCmpw
  try extract_lets +onlyGivenNames x0
  try clear_value x0
  refine Moves.ite (fun _ => ?_) (fun _ => ?_)
  · exact Moves.refl _ _
  · refine Moves.ite (fun _ => ?_) (fun _ => ?_)
    · refine Moves.step ?_ (Moves.mono (by decide) (writeCmpwCtrl_moves _ _ _))
      exact Moves.refl _ _
    · refine Moves.ite (fun _ => ?_) (fun _ => ?_)
      · refine Moves.step ?_ (Moves.mono (by decide) (State.ownerWrote_moves _ _))
        refine Moves.step ?_ (Moves.mono (by decide) (State.modCmpw_moves _ _))
        exact Moves.refl _ _
      · refine Moves.ite (fun _ => ?_) (fun _ => ?_)
        · refine Moves.step ?_ (Moves.mono (by decide) (writeCmpwKeysel_moves _ _ _))
          exact Moves.refl _ _
        · refine Moves.ite (fun _ => ?_) (fun _ => ?_)
          · try extract_lets +onlyGivenNames x1
            try clear_value x1
            refine Moves.step ?_ (Moves.mono (by decide) (State.ownerWrote_moves _ _))
            refine Moves.step ?_ (Moves.mono (by decide) (State.modCmpw_moves _ _))
            exact Moves.refl _ _
          · refine Moves.ite (fun _ => ?_) (fun _ => ?_)
            · refine Moves.ite (fun _ => ?_) (fun _ => ?_)
              · refine Moves.step ?_ (Moves.mono (by decide) (State.modCmpw_moves _ _))
                exact Moves.refl _ _
              · refine Moves.ite (fun _ => ?_) (fun _ => ?_)
                · refine Moves.step ?_ (Moves.mono (by decide) (State.ownerWrote_moves _ _))
                  exact Moves.refl _ _
                · refine Moves.ite (fun _ => ?_) (fun _ => ?_)
                  · refine Moves.step ?_ (Moves.mono (by decide) (State.ownerWrote_moves _ _))
                    refine Moves.step ?_ (Moves.mono (by decide) (State.modCmpw_moves _ _))
                    exact Moves.refl _ _
                  · refine Moves.step ?_ (Moves.mono (by decide) (State.ownerWrote_moves _ _))
                    refine Moves.step ?_ (Moves.mono (by decide) (State.modCmpw_moves _ _))
                    exact Moves.refl _ _
            · exact Moves.refl _ _

end Sys2Proof.Machine
end

