-- ==== Sys2Proof/Laws/Faults.lean ====
section
/-!
SUPPORT. What the operations of Machine/Faults.lean leave unchanged, and what they keep.
-/
namespace Sys2Proof.Machine

theorem State.queueFault_moves (r : FaultRec) (s : State) :
    Moves [.fab] s (State.queueFault r s) := by
  unfold State.queueFault
  try extract_lets +onlyGivenNames x0
  try clear_value x0
  refine Moves.ite (fun _ => ?_) (fun _ => ?_)
  · refine Moves.step ?_ (Moves.mono (by decide) (State.modFab_movesAll _ _ (fun _ => by exact Fabric.keeps_of rfl rfl rfl rfl)))
    exact Moves.refl _ _
  · refine Moves.step ?_ (Moves.mono (by decide) (State.modFab_movesAll _ _ (fun _ => by exact Fabric.keeps_of rfl rfl rfl rfl)))
    exact Moves.refl _ _

theorem State.stallMsg_moves (c ref : Nat) (on : Bool) (s : State) :
    Moves [.crypt] s (State.stallMsg c ref on s) := by
  unfold State.stallMsg
  try extract_lets +onlyGivenNames x0
  try clear_value x0
  refine Moves.step ?_ (Moves.mono (by decide) (State.modChan_moves _ _ _))
  exact Moves.refl _ _

theorem State.stallAt_moves (c ref bytesDone access : Nat) (s : State) :
    Moves [.fab, .crypt, .mem] s (State.stallAt c ref bytesDone access s) := by
  unfold State.stallAt
  extract_lets +onlyGivenNames x0
  have hx0 : Moves [.fab, .crypt, .mem] s x0 := by
    unfold x0
    clear x0
    split
    · refine Moves.ite (fun _ => ?_) (fun _ => ?_)
      · extract_lets +onlyGivenNames x1
        have hx1 : MovesFst [.fab, .crypt, .mem] s x1 := by
          refine MovesFst.step ?_ (Moves.mono (by decide) (State.parkAt_moves _ _ _ _))
          exact Moves.refl _ _
        clear_value x1
        refine Moves.step ?_ (Moves.mono (by decide) (State.modChan_moves _ _ _))
        show MovesFst _ _ _
        exact hx1
      · exact Moves.refl _ _
    · exact Moves.refl _ _
  clear_value x0
  refine Moves.step ?_ (Moves.mono (by decide) (State.stallMsg_moves _ _ _ _))
  exact hx0

theorem doTranslationFault_moves (req sub access : Nat) (vaddr : Word) (ref bytesDone : Nat) (holdable : Bool) (s : State) :
    Moves [.fab, .crypt, .mem] s (doTranslationFault req sub access vaddr ref bytesDone holdable s) := by
  unfold doTranslationFault
  split
  · exact Moves.refl _ _
  · refine Moves.ite (fun _ => ?_) (fun _ => ?_)
    · exact Moves.refl _ _
    · extract_lets +onlyGivenNames x0
      have hx0 : Moves [.fab, .crypt, .mem] s x0 := by
        refine Moves.step ?_ (Moves.mono (by decide) (State.modFab_moves _ _ (by simp +contextual [Fabric.Keeps, Fabric.Shaped] <;> intros <;> omega)))
        exact Moves.refl _ _
      clear_value x0
      refine Moves.ite (fun _ => ?_) (fun _ => ?_)
      · exact hx0
      · extract_lets +onlyGivenNames x1
        have hx1 : Moves [.fab, .crypt, .mem] s x1 := by
          refine Moves.step ?_ (Moves.mono (by decide) (State.queueFault_moves _ _))
          exact hx0
        clear_value x1
        refine Moves.ite (fun _ => ?_) (fun _ => ?_)
        · refine Moves.step ?_ (Moves.mono (by decide) (State.stallAt_moves _ _ _ _ _))
          exact hx1
        · exact hx1

theorem State.dropFault_moves (r : FaultRec) (s : State) :
    Moves [.fab] s (State.dropFault r s) := by
  unfold State.dropFault
  extract_lets +onlyGivenNames x0
  have hx0 : Moves [.fab] s x0 := by
    refine Moves.step ?_ (Moves.mono (by decide) (State.modFab_movesAll _ _ (fun _ => by exact Fabric.keeps_of rfl rfl rfl rfl)))
    exact Moves.refl _ _
  clear_value x0
  split
  · refine Moves.step ?_ (Moves.mono (by decide) (State.queueFault_moves _ _))
    refine Moves.step ?_ (Moves.mono (by decide) (State.modFab_movesAll _ _ (fun _ => by exact Fabric.keeps_of rfl rfl rfl rfl)))
    exact hx0
  · exact hx0

theorem State.mapPage_moves (req : Nat) (vaddr l1 l2 : Word) (s : State) :
    Moves [.fab, .mem] s (State.mapPage req vaddr l1 l2 s) := by
  unfold State.mapPage
  try extract_lets +onlyGivenNames x0
  try clear_value x0
  try extract_lets +onlyGivenNames x1
  try clear_value x1
  refine Moves.step ?_ (Moves.mono (by decide) (State.modFab_movesAll _ _ (fun _ => by exact Fabric.keeps_of rfl rfl rfl rfl)))
  refine Moves.step ?_ (Moves.mono (by decide) (State.modMem_moves _ _ (fun h => by first | exact Memory.wf_writeBytes h _ _ | exact Memory.wf_writeWord (Memory.wf_writeWord h _ _) _ _ | exact Memory.wf_filter _ h)))
  exact Moves.refl _ _

theorem doFaultRestart_moves (req : Nat) (l1 l2 : Word) (s : State) :
    Moves [.fab, .crypt, .mem] s (doFaultRestart req l1 l2 s) := by
  unfold doFaultRestart
  split
  · exact Moves.refl _ _
  · extract_lets +onlyGivenNames x0
    have hx0 : Moves [.fab, .crypt, .mem] s x0 := by
      refine Moves.step ?_ (Moves.mono (by decide) (State.mapPage_moves _ _ _ _ _))
      exact Moves.refl _ _
    clear_value x0
    refine Moves.ite (fun _ => ?_) (fun _ => ?_)
    · exact Moves.refl _ _
    · extract_lets +onlyGivenNames x1
      have hx1 : Moves [.fab, .crypt, .mem] s x1 := by
        refine Moves.step ?_ (Moves.mono (by decide) (State.dropFault_moves _ _))
        exact hx0
      clear_value x1
      refine Moves.ite (fun _ => ?_) (fun _ => ?_)
      · refine Moves.step ?_ (Moves.mono (by decide) (State.stallMsg_moves _ _ _ _))
        exact hx1
      · exact hx1

theorem State.abortCipher_moves (c ref : Nat) (s : State) :
    Moves [.evc, .mbx, .fab, .crypt, .keys, .mem] s (State.abortCipher c ref s) := by
  unfold State.abortCipher
  try extract_lets +onlyGivenNames x0
  try clear_value x0
  extract_lets +onlyGivenNames x1
  have hx1 : Moves [.evc, .mbx, .fab, .crypt, .keys, .mem] s x1 := by
    refine Moves.step ?_ (Moves.mono (by decide) (State.stallMsg_moves _ _ _ _))
    exact Moves.refl _ _
  clear_value x1
  refine Moves.ite (fun _ => ?_) (fun _ => ?_)
  · refine Moves.step ?_ (Moves.mono (by decide) (State.killCur_moves _ _ _))
    exact hx1
  · refine Moves.ite (fun _ => ?_) (fun _ => ?_)
    · refine Moves.step ?_ (Moves.mono (by decide) (State.killSusp_moves _ _ _))
      exact hx1
    · split
      · refine Moves.step ?_ (Moves.mono (by decide) (State.endQueued_moves _ _ _ _))
        exact hx1
      · exact hx1

theorem State.loseReception_moves (s : State) :
    Moves [.evc, .psc, .pad, .mbx, .fab, .parts, .lf, .pop, .radio, .sess, .rel, .keys, .ledger, .health, .mem, .free] s (State.loseReception s) := by
  unfold State.loseReception
  extract_lets +onlyGivenNames x0
  have hx0 : Moves [.evc, .psc, .pad, .mbx, .fab, .parts, .lf, .pop, .radio, .sess, .rel, .keys, .ledger, .health, .mem, .free] s x0 := by
    refine Moves.step ?_ (Moves.mono (by decide) (State.modRadio_movesAll _ _ (fun _ => by exact Radio.keeps_of rfl rfl rfl)))
    exact Moves.refl _ _
  clear_value x0
  split
  · refine Moves.ite (fun _ => ?_) (fun _ => ?_)
    · exact hx0
    · refine Moves.step ?_ (Moves.mono (by decide) (State.loseAttempt_moves _ _))
      exact hx0
  · exact hx0

theorem State.abortOutcome_moves (req sub ref : Nat) (s : State) :
    Moves [.evc, .psc, .pad, .mbx, .fab, .parts, .lf, .pop, .radio, .sess, .rel, .crypt, .keys, .ledger, .health, .net, .mem, .free] s (State.abortOutcome req sub ref s) := by
  unfold State.abortOutcome
  refine Moves.ite (fun _ => ?_) (fun _ => ?_)
  · refine Moves.step ?_ (Moves.mono (by decide) (State.abortCipher_moves _ _ _))
    exact Moves.refl _ _
  · refine Moves.ite (fun _ => ?_) (fun _ => ?_)
    · refine Moves.step ?_ (Moves.mono (by decide) (State.modStat_moves _ _ _))
      exact Moves.refl _ _
    · refine Moves.ite (fun _ => ?_) (fun _ => ?_)
      · refine Moves.step ?_ (Moves.mono (by decide) (State.loseReception_moves _))
        exact Moves.refl _ _
      · refine Moves.ite (fun _ => ?_) (fun _ => ?_)
        · refine Moves.step ?_ (Moves.mono (by decide) (State.modRadio_movesAll _ _ (fun _ => by exact Radio.keeps_of rfl rfl rfl)))
          exact Moves.refl _ _
        · refine Moves.ite (fun _ => ?_) (fun _ => ?_)
          · split
            · refine Moves.step ?_ (Moves.mono (by decide) (State.stopBurst_moves _ _))
              exact Moves.refl _ _
            · exact Moves.refl _ _
          · exact Moves.refl _ _

theorem State.abortFault_moves (r : FaultRec) (s : State) :
    Moves [.evc, .psc, .pad, .mbx, .fab, .parts, .lf, .pop, .radio, .sess, .rel, .crypt, .keys, .ledger, .health, .net, .mem, .free] s (State.abortFault r s) := by
  unfold State.abortFault
  refine Moves.step ?_ (Moves.mono (by decide) (State.abortOutcome_moves _ _ _ _))
  refine Moves.step ?_ (Moves.mono (by decide) (State.modFab_movesAll _ _ (fun _ => by exact Fabric.keeps_of rfl rfl rfl rfl)))
  refine Moves.step ?_ (Moves.mono (by decide) (State.dropFault_moves _ _))
  exact Moves.refl _ _

theorem doFaultAbort_moves (req : Nat) (s : State) :
    Moves [.evc, .psc, .pad, .mbx, .fab, .parts, .lf, .pop, .radio, .sess, .rel, .crypt, .keys, .ledger, .health, .net, .mem, .free] s (doFaultAbort req s) := by
  unfold doFaultAbort
  split
  · refine Moves.ite (fun _ => ?_) (fun _ => ?_)
    · refine Moves.step ?_ (Moves.mono (by decide) (State.abortFault_moves _ _))
      exact Moves.refl _ _
    · exact Moves.refl _ _
  · exact Moves.refl _ _

theorem doFaultAbortTimeout_moves (s : State) :
    Moves [.evc, .psc, .pad, .mbx, .fab, .parts, .lf, .pop, .radio, .sess, .rel, .crypt, .keys, .ledger, .health, .net, .mem, .free] s (doFaultAbortTimeout s) := by
  unfold doFaultAbortTimeout
  split
  · refine Moves.step ?_ (Moves.mono (by decide) (State.abortFault_moves _ _))
    exact Moves.refl _ _
  · exact Moves.refl _ _

theorem State.radioMigrates_moves (s : State) :
    Moves [.radio, .sess] s (State.radioMigrates s) := by
  unfold State.radioMigrates
  refine Moves.ite (fun _ => ?_) (fun _ => ?_)
  · exact Moves.refl _ _
  · try extract_lets +onlyGivenNames x0
    try clear_value x0
    extract_lets +onlyGivenNames x1
    have hx1 : Moves [.radio, .sess] s x1 := by
      refine Moves.step ?_ (Moves.mono (by decide) (State.modSess_moves _ _))
      exact Moves.refl _ _
    clear_value x1
    extract_lets +onlyGivenNames x2
    have hx2 : Moves [.radio, .sess] s x2 := by
      refine Moves.foldl ?_ (fun x3 _ hx3 => ?_)
      · refine Moves.step ?_ (Moves.mono (by decide) (State.modRadio_moves _ _ (by simp +contextual [Radio.Keeps, Radio.Shaped] <;> intros <;> omega)))
        exact hx1
      · refine Moves.step ?_ (Moves.mono (by decide) (State.seqDone_moves _ _ _))
        exact hx3
    clear_value x2
    refine Moves.step ?_ (Moves.mono (by decide) (State.idleNow_moves _))
    exact hx2

theorem State.migrate_moves (rs : List Role) (s : State) :
    Moves [.radio, .sess, .cores] s (State.migrate rs s) := by
  unfold State.migrate
  try extract_lets +onlyGivenNames x0
  try clear_value x0
  try extract_lets +onlyGivenNames x1
  try clear_value x1
  extract_lets +onlyGivenNames x2
  have hx2 : Moves [.radio, .sess, .cores] s x2 := by
    refine Moves.step ?_ (Moves.mono (by decide) (State.modCores_movesAll _ _ (fun _ => by exact Cores.keeps_of rfl rfl)))
    exact Moves.refl _ _
  clear_value x2
  refine Moves.ite (fun _ => ?_) (fun _ => ?_)
  · refine Moves.step ?_ (Moves.mono (by decide) (State.radioMigrates_moves _))
    exact hx2
  · exact hx2

theorem State.modPair_moves (p : Nat) (f : Pair → Pair) (s : State) :
    Moves [.cores] s (State.modPair p f s) := by
  unfold State.modPair
  refine Moves.step ?_ (Moves.mono (by decide) (State.modCores_moves _ _ (by simp +contextual [Cores.Keeps, Cores.Shaped] <;> intros <;> omega)))
  exact Moves.refl _ _

theorem State.diverge_moves (p : Nat) (s : State) :
    Moves [.tbu, .tmr, .evc, .psc, .pad, .mbx, .boot, .cfg, .fab, .parts, .lf, .pop, .radio, .sess, .rel, .crypt, .keys, .met, .ledger, .health, .net, .cores, .mem, .free] s (State.diverge p s) := by
  unfold State.diverge
  refine Moves.ite (fun _ => ?_) (fun _ => ?_)
  · exact Moves.refl _ _
  · extract_lets +onlyGivenNames x0
    have hx0 : Moves [.tbu, .tmr, .evc, .psc, .pad, .mbx, .boot, .cfg, .fab, .parts, .lf, .pop, .radio, .sess, .rel, .crypt, .keys, .met, .ledger, .health, .net, .cores, .mem, .free] s x0 := by
      refine Moves.step ?_ (Moves.mono (by decide) (State.modPair_moves _ _ _))
      exact Moves.refl _ _
    clear_value x0
    try extract_lets +onlyGivenNames x1
    try clear_value x1
    extract_lets +onlyGivenNames x2
    have hx2 : Moves [.tbu, .tmr, .evc, .psc, .pad, .mbx, .boot, .cfg, .fab, .parts, .lf, .pop, .radio, .sess, .rel, .crypt, .keys, .met, .ledger, .health, .net, .cores, .mem, .free] s x2 := by
      refine Moves.step ?_ (Moves.mono (by decide) (State.healthFree_moves _ _ _ _))
      refine Moves.step ?_ (Moves.mono (by decide) (State.modPair_moves _ _ _))
      exact hx0
    clear_value x2
    extract_lets +onlyGivenNames x3
    have hx3 : Moves [.tbu, .tmr, .evc, .psc, .pad, .mbx, .boot, .cfg, .fab, .parts, .lf, .pop, .radio, .sess, .rel, .crypt, .keys, .met, .ledger, .health, .net, .cores, .mem, .free] s x3 := by
      refine Moves.ite (fun _ => ?_) (fun _ => ?_)
      · refine Moves.step ?_ (Moves.mono (by decide) (State.healthFree_moves _ _ _ _))
        exact hx2
      · exact hx2
    clear_value x3
    refine Moves.ite (fun _ => ?_) (fun _ => ?_)
    · refine Moves.step ?_ (Moves.mono (by decide) (State.recoveryReset_moves _ _))
      exact hx3
    · refine Moves.step ?_ (Moves.mono (by decide) (State.migrate_moves _ _))
      refine Moves.step ?_ (Moves.mono (by decide) (State.retractCore_moves _ _))
      exact hx3

theorem State.resumeFaults_moves (r : Role) (s : State) :
    Moves [.fab] s (State.resumeFaults r s) := by
  unfold State.resumeFaults
  try extract_lets +onlyGivenNames x0
  try clear_value x0
  refine Moves.step ?_ (Moves.mono (by decide) (State.modFab_movesAll _ _ (fun _ => by exact Fabric.keeps_of rfl rfl rfl rfl)))
  exact Moves.refl _ _

theorem State.roleResumes_moves (r : Role) (s : State) :
    Moves [.evc, .psc, .pad, .mbx, .fab, .parts, .lf, .pop, .radio, .sess, .rel, .keys, .ledger, .health, .mem, .free] s (State.roleResumes r s) := by
  unfold State.roleResumes
  split
  · refine Moves.ite (fun _ => ?_) (fun _ => ?_)
    · refine Moves.step ?_ (Moves.mono (by decide) (State.restartHalves_moves _))
      refine Moves.step ?_ (Moves.mono (by decide) (State.modRel_moves _ _))
      exact Moves.refl _ _
    · exact Moves.refl _ _
  · refine Moves.step ?_ (Moves.mono (by decide) (State.considerAll_moves _))
    exact Moves.refl _ _
  · refine Moves.step ?_ (Moves.mono (by decide) (State.settleLanes_moves _))
    exact Moves.refl _ _
  · exact Moves.refl _ _

theorem doRoleMigrationComplete_moves (s : State) :
    Moves [.evc, .psc, .pad, .mbx, .fab, .parts, .lf, .pop, .radio, .sess, .rel, .keys, .ledger, .health, .cores, .mem, .free] s (doRoleMigrationComplete s) := by
  unfold doRoleMigrationComplete
  split
  · exact Moves.refl _ _
  · extract_lets +onlyGivenNames x0
    have hx0 : Moves [.evc, .psc, .pad, .mbx, .fab, .parts, .lf, .pop, .radio, .sess, .rel, .keys, .ledger, .health, .cores, .mem, .free] s x0 := by
      refine Moves.step ?_ (Moves.mono (by decide) (State.modCores_moves _ _ (by simp +contextual [Cores.Keeps, Cores.Shaped] <;> intros <;> omega)))
      exact Moves.refl _ _
    clear_value x0
    refine Moves.step ?_ (Moves.mono (by decide) (State.evalDecision_moves _))
    refine Moves.step ?_ (Moves.mono (by decide) (State.raise_moves _ _ _))
    refine Moves.step ?_ (Moves.mono (by decide) (State.roleResumes_moves _ _))
    refine Moves.step ?_ (Moves.mono (by decide) (State.resumeFaults_moves _ _))
    exact hx0

theorem doPairSelfTestEnd_moves (p : Nat) (passed : Bool) (s : State) :
    Moves [.evc, .ledger, .health, .cores, .free] s (doPairSelfTestEnd p passed s) := by
  unfold doPairSelfTestEnd
  refine Moves.ite (fun _ => ?_) (fun _ => ?_)
  · exact Moves.refl _ _
  · refine Moves.ite (fun _ => ?_) (fun _ => ?_)
    · refine Moves.step ?_ (Moves.mono (by decide) (State.healthFree_moves _ _ _ _))
      refine Moves.step ?_ (Moves.mono (by decide) (State.modPair_moves _ _ _))
      exact Moves.refl _ _
    · refine Moves.step ?_ (Moves.mono (by decide) (State.healthFree_moves _ _ _ _))
      refine Moves.step ?_ (Moves.mono (by decide) (State.modPair_moves _ _ _))
      exact Moves.refl _ _

theorem doRoleReturn_moves (r : Role) (s : State) :
    Moves [.radio, .sess, .cores] s (doRoleReturn r s) := by
  unfold doRoleReturn
  refine Moves.ite (fun _ => ?_) (fun _ => ?_)
  · refine Moves.step ?_ (Moves.mono (by decide) (State.migrate_moves _ _))
    exact Moves.refl _ _
  · exact Moves.refl _ _

theorem doPairRetirementEnd_moves (p : Nat) (s : State) :
    Moves [.cores] s (doPairRetirementEnd p s) := by
  unfold doPairRetirementEnd
  try extract_lets +onlyGivenNames x0
  try clear_value x0
  refine Moves.ite (fun _ => ?_) (fun _ => ?_)
  · refine Moves.step ?_ (Moves.mono (by decide) (State.modPair_moves _ _ _))
    exact Moves.refl _ _
  · exact Moves.refl _ _

theorem State.recomputeMsg_moves (c ref : Nat) (s : State) :
    Moves [.crypt] s (State.recomputeMsg c ref s) := by
  unfold State.recomputeMsg
  try extract_lets +onlyGivenNames x0
  try clear_value x0
  refine Moves.step ?_ (Moves.mono (by decide) (State.modChan_moves _ _ _))
  exact Moves.refl _ _

theorem doUncorrectableWord_moves (a req sub ref : Nat) (s : State) :
    Moves [.tbu, .tmr, .evc, .psc, .pad, .mbx, .boot, .cfg, .fab, .parts, .lf, .pop, .radio, .sess, .rel, .crypt, .keys, .met, .ledger, .health, .net, .cores, .mem, .free] s (doUncorrectableWord a req sub ref s) := by
  unfold doUncorrectableWord
  refine Moves.ite (fun _ => ?_) (fun _ => ?_)
  · exact Moves.refl _ _
  · extract_lets +onlyGivenNames x0
    have hx0 : Moves [.tbu, .tmr, .evc, .psc, .pad, .mbx, .boot, .cfg, .fab, .parts, .lf, .pop, .radio, .sess, .rel, .crypt, .keys, .met, .ledger, .health, .net, .cores, .mem, .free] s x0 := by
      refine Moves.step ?_ (Moves.mono (by decide) (State.health1_moves _ _ _ _ _))
      refine Moves.step ?_ (Moves.mono (by decide) (State.modFab_movesAll _ _ (fun _ => by exact Fabric.keeps_of rfl rfl rfl rfl)))
      exact Moves.refl _ _
    clear_value x0
    refine Moves.ite (fun _ => ?_) (fun _ => ?_)
    · refine Moves.step ?_ (Moves.mono (by decide) (State.diverge_moves _ _))
      exact hx0
    · refine Moves.ite (fun _ => ?_) (fun _ => ?_)
      · refine Moves.step ?_ (Moves.mono (by decide) (State.recomputeMsg_moves _ _ _))
        exact hx0
      · refine Moves.ite (fun _ => ?_) (fun _ => ?_)
        · refine Moves.step ?_ (Moves.mono (by decide) (State.abortOutcome_moves _ _ _ _))
          exact hx0
        · refine Moves.ite (fun _ => ?_) (fun _ => ?_)
          · refine Moves.step ?_ (Moves.mono (by decide) (State.recoveryReset_moves _ _))
            exact hx0
          · exact hx0

theorem State.resumeCounters_moves (s : State) :
    Moves [.met] s (State.resumeCounters s) := by
  unfold State.resumeCounters
  try extract_lets +onlyGivenNames x0
  try clear_value x0
  refine Moves.step ?_ (Moves.mono (by decide) (State.intervalFlag_moves _ _))
  refine Moves.step ?_ (Moves.mono (by decide) (State.modMet_movesAll _ _ (fun _ => by exact Met.keeps_of rfl)))
  exact Moves.refl _ _

theorem State.loseBoth_moves (line : MramLine) (s : State) :
    Moves [.evc, .mbx, .fab, .parts, .pop, .sess, .crypt, .keys, .met, .ledger, .net, .mem, .free] s (State.loseBoth line s) := by
  unfold State.loseBoth
  split
  · split
    · refine Moves.step ?_ (Moves.mono (by decide) (State.changeRec_moves _ _ _ _))
      exact Moves.refl _ _
    · exact Moves.refl _ _
  · refine Moves.step ?_ (Moves.mono (by decide) (State.drawn_moves _))
    refine Moves.step ?_ (Moves.mono (by decide) (State.modAttach_moves _ _ _))
    exact Moves.refl _ _
  · refine Moves.step ?_ (Moves.mono (by decide) (State.drawn_moves _))
    refine Moves.step ?_ (Moves.mono (by decide) (State.modCrypt_moves _ _ (by simp +contextual [Crypt.Keeps, Crypt.Shaped] <;> intros <;> omega)))
    exact Moves.refl _ _
  · extract_lets +onlyGivenNames x0
    have hx0 : Moves [.evc, .mbx, .fab, .parts, .pop, .sess, .crypt, .keys, .met, .ledger, .net, .mem, .free] s x0 := by
      refine Moves.step ?_ (Moves.mono (by decide) (State.modSlot_moves _ _ _))
      refine Moves.step ?_ (Moves.mono (by decide) (State.eraseSlot_moves _ _))
      exact Moves.refl _ _
    clear_value x0
    refine Moves.step ?_ (Moves.mono (by decide) (State.drawn_moves _))
    refine Moves.step ?_ (Moves.mono (by decide) (State.keyEntry_moves _ _ _))
    exact hx0
  · refine Moves.step ?_ (Moves.mono (by decide) (State.resumeCounters_moves _))
    exact Moves.refl _ _
  · exact Moves.refl _ _

theorem State.loseOne_moves (line : MramLine) (s : State) :
    Moves [.evc, .parts, .ledger] s (State.loseOne line s) := by
  unfold State.loseOne
  split
  · refine Moves.step ?_ (Moves.mono (by decide) (State.loseCopy_moves _ _ _))
    exact Moves.refl _ _
  · exact Moves.refl _ _

theorem doMramUncorrectableLine_moves (line : MramLine) (offset : Nat) (both : Bool) (s : State) :
    Moves [.evc, .mbx, .boot, .fab, .parts, .pop, .sess, .crypt, .keys, .met, .ledger, .health, .net, .mem, .free] s (doMramUncorrectableLine line offset both s) := by
  unfold doMramUncorrectableLine
  split
  · refine Moves.step ?_ (Moves.mono (by decide) (State.health1_moves _ _ _ _ _))
    refine Moves.step ?_ (Moves.mono (by decide) (State.modFwBank_moves _ _ _))
    exact Moves.refl _ _
  · refine Moves.step ?_ (Moves.mono (by decide) (State.health1_moves _ _ _ _ _))
    refine Moves.step ?_ (Moves.mono (by decide) (State.modMetonBank_moves _ _ _))
    exact Moves.refl _ _
  · refine Moves.step ?_ (Moves.mono (by decide) (State.health1_moves _ _ _ _ _))
    refine Moves.step ?_ (Moves.mono (by decide) (State.drawn_moves _))
    refine Moves.step ?_ (Moves.mono (by decide) (State.modLedger_movesAll _ _ (fun _ => by exact Ledger.keeps_of rfl rfl rfl rfl)))
    exact Moves.refl _ _
  · refine Moves.step ?_ (Moves.mono (by decide) (State.health1_moves _ _ _ _ _))
    refine Moves.ite (fun _ => ?_) (fun _ => ?_)
    · refine Moves.step ?_ (Moves.mono (by decide) (State.loseBoth_moves _ _))
      exact Moves.refl _ _
    · refine Moves.step ?_ (Moves.mono (by decide) (State.loseOne_moves _ _))
      exact Moves.refl _ _

end Sys2Proof.Machine
end

