-- ==== Sys2Proof/Laws/Jtag.lean ====
section
/-!
SUPPORT. What the operations of Machine/Jtag.lean leave unchanged, and what they keep.
-/
namespace Sys2Proof.Machine

theorem State.drivePins_moves (s : State) :
    Moves [.jtag] s (State.drivePins s) := by
  unfold State.drivePins
  refine Moves.step ?_ (Moves.mono (by decide) (State.modJtag_moves _ _ (fun h => ⟨h.1, by split; exact (List.length_map _).trans rfl; exact List.length_replicate⟩)))
  exact Moves.refl _ _

theorem State.setIr_moves (code : Nat) (s : State) :
    Moves [.jtag] s (State.setIr code s) := by
  unfold State.setIr
  refine Moves.step ?_ (Moves.mono (by decide) (State.drivePins_moves _))
  refine Moves.step ?_ (Moves.mono (by decide) (State.modJtag_movesAll _ _ (fun _ => by exact Jtag.keeps_of rfl rfl)))
  exact Moves.refl _ _

theorem State.changeIr_moves (code : Nat) (s : State) :
    Moves [.tbu, .tmr, .evc, .psc, .pad, .mbx, .boot, .cfg, .fab, .parts, .lf, .pop, .radio, .sess, .rel, .crypt, .keys, .met, .ledger, .health, .net, .cores, .jtag, .mem] s (State.changeIr code s) := by
  unfold State.changeIr
  refine Moves.ite (fun _ => ?_) (fun _ => ?_)
  · exact Moves.refl _ _
  · extract_lets +onlyGivenNames x0
    have hx0 : Moves [.tbu, .tmr, .evc, .psc, .pad, .mbx, .boot, .cfg, .fab, .parts, .lf, .pop, .radio, .sess, .rel, .crypt, .keys, .met, .ledger, .health, .net, .cores, .jtag, .mem] s x0 := by
      refine Moves.step ?_ (Moves.mono (by decide) (State.setIr_moves _ _))
      exact Moves.refl _ _
    clear_value x0
    refine Moves.ite (fun _ => ?_) (fun _ => ?_)
    · exact hx0
    · refine Moves.ite (fun _ => ?_) (fun _ => ?_)
      · refine Moves.step ?_ (Moves.mono (by decide) (State.systemReset_moves _ _))
        exact hx0
      · exact hx0

theorem doUpdateDr_moves (cells : List Bool) (s : State) :
    Moves [.jtag] s (doUpdateDr cells s) := by
  unfold doUpdateDr
  refine Moves.ite (fun _ => ?_) (fun _ => ?_)
  · refine Moves.step ?_ (Moves.mono (by decide) (State.drivePins_moves _))
    refine Moves.step ?_ (Moves.mono (by decide) (State.modJtag_moves _ _ (by simp +contextual [Jtag.Keeps, Jtag.Shaped] <;> intros <;> omega)))
    exact Moves.refl _ _
  · exact Moves.refl _ _

end Sys2Proof.Machine
end

