-- ==== Sys2Proof/Laws/Mailboxes.lean ====
section
/-!
SUPPORT. What the operations of Machine/Mailboxes.lean leave unchanged, and what they keep.
-/
namespace Sys2Proof.Machine

theorem State.ring_moves (mb : Nat) (s : State) :
    Moves [.mbx] s (State.ring mb s) := by
  unfold State.ring
  refine Moves.step ?_ (Moves.mono (by decide) (State.modBox_moves _ _ _))
  refine Moves.step ?_ (Moves.mono (by decide) (State.modMbx_movesAll _ _ (fun _ => by exact Mbx.keeps_of rfl)))
  exact Moves.refl _ _

theorem State.holdWindow_moves (mb : Nat) (s : State) :
    Moves [.mbx, .fab] s (State.holdWindow mb s) := by
  unfold State.holdWindow
  try extract_lets +onlyGivenNames x0
  try clear_value x0
  refine Moves.ite (fun _ => ?_) (fun _ => ?_)
  · refine Moves.step ?_ (Moves.mono (by decide) (State.modBox_moves _ _ _))
    refine Moves.step ?_ (Moves.mono (by decide) (State.winTake_moves _ _))
    exact Moves.refl _ _
  · exact Moves.refl _ _

theorem State.noteImageKey_moves (mb : Nat) (s : State) :
    Moves [.mbx] s (State.noteImageKey mb s) := by
  unfold State.noteImageKey
  refine Moves.ite (fun _ => ?_) (fun _ => ?_)
  · refine Moves.step ?_ (Moves.mono (by decide) (State.modBox_moves _ _ _))
    exact Moves.refl _ _
  · exact Moves.refl _ _

theorem State.refuse_moves (mb status : Nat) (s : State) :
    Moves [.evc, .mbx, .fab, .crypt, .keys, .mem] s (State.refuse mb status s) := by
  unfold State.refuse
  refine Moves.step ?_ (Moves.mono (by decide) (State.post_moves _ _ _ _))
  refine Moves.ite (fun _ => ?_) (fun _ => ?_)
  · refine Moves.step ?_ (Moves.mono (by decide) (State.submitBreaks_moves _ _))
    exact Moves.refl _ _
  · exact Moves.refl _ _

theorem State.doorbellWake_moves (s : State) :
    Moves [.evc, .psc, .pad, .mbx, .fab, .rel, .ledger] s (State.doorbellWake s) := by
  unfold State.doorbellWake
  split
  · refine Moves.step ?_ (Moves.mono (by decide) (State.wakeSource_moves _ _))
    exact Moves.refl _ _
  · refine Moves.step ?_ (Moves.mono (by decide) (State.wakeSource_moves _ _))
    exact Moves.refl _ _

theorem doDoorbell_moves (mb : Nat) (s : State) :
    Moves [.evc, .psc, .pad, .mbx, .fab, .rel, .crypt, .keys, .ledger, .mem] s (doDoorbell mb s) := by
  unfold doDoorbell
  refine Moves.ite (fun _ => ?_) (fun _ => ?_)
  · exact Moves.refl _ _
  · refine Moves.ite (fun _ => ?_) (fun _ => ?_)
    · refine Moves.step ?_ (Moves.mono (by decide) (State.modMbx_movesAll _ _ (fun _ => by exact Mbx.keeps_of rfl)))
      exact Moves.refl _ _
    · extract_lets +onlyGivenNames x0
      have hx0 : Moves [.evc, .psc, .pad, .mbx, .fab, .rel, .crypt, .keys, .ledger, .mem] s x0 := by
        refine Moves.step ?_ (Moves.mono (by decide) (State.ring_moves _ _))
        exact Moves.refl _ _
      clear_value x0
      refine Moves.step ?_ (Moves.mono (by decide) (State.doorbellWake_moves _))
      split
      · refine Moves.step ?_ (Moves.mono (by decide) (State.refuse_moves _ _ _))
        exact hx0
      · refine Moves.step ?_ (Moves.mono (by decide) (State.noteImageKey_moves _ _))
        refine Moves.step ?_ (Moves.mono (by decide) (State.holdWindow_moves _ _))
        exact hx0

theorem doCommandStart_moves (r : Role) (s : State) :
    Moves [.mbx] s (doCommandStart r s) := by
  unfold doCommandStart
  split
  · refine Moves.ite (fun _ => ?_) (fun _ => ?_)
    · refine Moves.step ?_ (Moves.mono (by decide) (State.modBox_moves _ _ _))
      exact Moves.refl _ _
    · exact Moves.refl _ _
  · exact Moves.refl _ _

theorem State.dropAddressed_moves (ident : Nat) (s : State) :
    Moves [.lf] s (State.dropAddressed ident s) := by
  unfold State.dropAddressed
  refine Moves.step ?_ (Moves.mono (by decide) (State.modLf_movesAll _ _ (fun _ => by exact Lf.keeps_of rfl)))
  exact Moves.refl _ _

theorem State.forget_moves (mb : Nat) (s : State) :
    Moves [.psc, .parts, .lf, .pop, .radio, .sess] s (State.forget mb s) := by
  unfold State.forget
  extract_lets +onlyGivenNames x0
  have hx0 : Moves [.psc, .parts, .lf, .pop, .radio, .sess] s x0 := by
    refine Moves.step ?_ (Moves.mono (by decide) (State.modLf_movesAll _ _ (fun _ => by exact Lf.keeps_of rfl)))
    exact Moves.refl _ _
  clear_value x0
  extract_lets +onlyGivenNames x1
  have hx1 : Moves [.psc, .parts, .lf, .pop, .radio, .sess] s x1 := by
    refine Moves.step ?_ (Moves.mono (by decide) (State.modPop_movesAll _ _ (fun _ => by exact Pop.keeps_of rfl)))
    exact hx0
  clear_value x1
  extract_lets +onlyGivenNames x2
  have hx2 : Moves [.psc, .parts, .lf, .pop, .radio, .sess] s x2 := by
    refine Moves.step ?_ (Moves.mono (by decide) (State.modCheck_moves _ _ (by simp +contextual)))
    exact hx1
  clear_value x2
  extract_lets +onlyGivenNames x3
  have hx3 : Moves [.psc, .parts, .lf, .pop, .radio, .sess] s x3 := by
    refine Moves.step ?_ (Moves.mono (by decide) (State.modRadio_moves _ _ (fun h => ⟨h.1, h.2.1, by split; exact Nat.le_trans (List.length_filter_le _ _) h.2.2; exact h.2.2⟩)))
    exact hx2
  clear_value x3
  extract_lets +onlyGivenNames x4
  have hx4 : Moves [.psc, .parts, .lf, .pop, .radio, .sess] s x4 := by
    unfold x4
    clear x4
    split
    · refine Moves.ite (fun _ => ?_) (fun _ => ?_)
      · refine Moves.step ?_ (Moves.mono (by decide) (State.modSess_moves _ _))
        refine Moves.step ?_ (Moves.mono (by decide) (State.dropAddressed_moves _ _))
        exact hx3
      · exact hx3
    · exact hx3
  clear_value x4
  extract_lets +onlyGivenNames x5
  have hx5 : Moves [.psc, .parts, .lf, .pop, .radio, .sess] s x5 := by
    unfold x5
    clear x5
    split
    · refine Moves.ite (fun _ => ?_) (fun _ => ?_)
      · refine Moves.step ?_ (Moves.mono (by decide) (State.modParts_movesAll _ _ (fun _ => by exact Parts.keeps_of rfl)))
        refine Moves.step ?_ (Moves.mono (by decide) (State.dropAddressed_moves _ _))
        exact hx4
      · exact hx4
    · exact hx4
  clear_value x5
  refine Moves.ite (fun _ => ?_) (fun _ => ?_)
  · refine Moves.step ?_ (Moves.mono (by decide) (State.modPsc_movesAll _ _ (fun _ => by exact Psc.keeps_of rfl)))
    exact hx5
  · exact hx5

theorem doCommandLimit_moves (mb : Nat) (s : State) :
    Moves [.evc, .psc, .mbx, .fab, .parts, .lf, .pop, .radio, .sess, .keys, .ledger, .health, .free] s (doCommandLimit mb s) := by
  unfold doCommandLimit
  refine Moves.ite (fun _ => ?_) (fun _ => ?_)
  · refine Moves.step ?_ (Moves.mono (by decide) (State.considerAll_moves _))
    refine Moves.step ?_ (Moves.mono (by decide) (State.post_moves _ _ _ _))
    refine Moves.step ?_ (Moves.mono (by decide) (State.forget_moves _ _))
    exact Moves.refl _ _
  · exact Moves.refl _ _

theorem doCommandAreaWrite_moves (mb k : Nat) (w : Word) (s : State) :
    Moves [.mbx] s (doCommandAreaWrite mb k w s) := by
  unfold doCommandAreaWrite
  refine Moves.ite (fun _ => ?_) (fun _ => ?_)
  · exact Moves.refl _ _
  · refine Moves.ite (fun _ => ?_) (fun _ => ?_)
    · refine Moves.step ?_ (Moves.mono (by decide) (State.modBox_moves _ _ _))
      exact Moves.refl _ _
    · refine Moves.step ?_ (Moves.mono (by decide) (State.modMbx_movesAll _ _ (fun _ => by exact Mbx.keeps_of rfl)))
      exact Moves.refl _ _

theorem readRes0_moves (mb : Nat) (s : State) :
    Moves [.mbx] s (readRes0 mb s).2 := by
  show MovesSnd _ _ _
  unfold readRes0
  try extract_lets +onlyGivenNames x0
  try clear_value x0
  show Moves _ _ _
  refine Moves.ite (fun _ => ?_) (fun _ => ?_)
  · refine Moves.step ?_ (Moves.mono (by decide) (State.modBox_moves _ _ _))
    exact Moves.refl _ _
  · exact Moves.refl _ _

theorem doMbnRes0Read_moves (mb : Nat) (s : State) :
    Moves [.mbx] s (doMbnRes0Read mb s) := by
  unfold doMbnRes0Read
  refine Moves.ite (fun _ => ?_) (fun _ => ?_)
  · refine Moves.step ?_ (Moves.mono (by decide) (State.answered_moves _))
    show MovesSnd _ _ _
    refine MovesSnd.step ?_ (Moves.mono (by decide) (readRes0_moves _ _))
    exact Moves.refl _ _
  · exact Moves.refl _ _

theorem State.acknowledge_moves (mb seq : Nat) (s : State) :
    Moves [.mbx] s (State.acknowledge mb seq s) := by
  unfold State.acknowledge
  try extract_lets +onlyGivenNames x0
  try clear_value x0
  refine Moves.ite (fun _ => ?_) (fun _ => ?_)
  · refine Moves.step ?_ (Moves.mono (by decide) (State.modBox_moves _ _ _))
    exact Moves.refl _ _
  · refine Moves.step ?_ (Moves.mono (by decide) (State.modMbx_movesAll _ _ (fun _ => by exact Mbx.keeps_of rfl)))
    exact Moves.refl _ _

theorem doMbxAckWrite_moves (w : Word) (s : State) :
    Moves [.mbx] s (doMbxAckWrite w s) := by
  unfold doMbxAckWrite
  refine Moves.ite (fun _ => ?_) (fun _ => ?_)
  · refine Moves.step ?_ (Moves.mono (by decide) (State.acknowledge_moves _ _ _))
    exact Moves.refl _ _
  · exact Moves.refl _ _

theorem State.dropKept_moves (s : State) :
    Moves [.mbx] s (State.dropKept s) := by
  unfold State.dropKept
  refine Moves.step ?_ (Moves.mono (by decide) (State.modMbx_movesAll _ _ (fun _ => by exact Mbx.keeps_of rfl)))
  exact Moves.refl _ _

end Sys2Proof.Machine
end

