-- ==== Sys2Proof/Laws/Timers.lean ====
section
/-!
SUPPORT. What the operations of Machine/Timers.lean leave unchanged, and what they keep.
-/
namespace Sys2Proof.Machine

theorem State.modTimer_moves (s : State) (n : Nat) (f : Timer → Timer) :
    Moves [.tmr] s (State.modTimer s n f) := by
  unfold State.modTimer
  refine Moves.step ?_ (Moves.mono (by decide) (State.modTmr_moves _ _ (by simp +contextual [Tmr.Keeps, Tmr.Shaped] <;> intros <;> omega)))
  exact Moves.refl _ _

theorem State.modAlarm_moves (s : State) (m : Nat) (f : Alarm → Alarm) :
    Moves [.tmr] s (State.modAlarm s m f) := by
  unfold State.modAlarm
  refine Moves.step ?_ (Moves.mono (by decide) (State.modTmr_moves _ _ (by simp +contextual [Tmr.Keeps, Tmr.Shaped] <;> intros <;> omega)))
  exact Moves.refl _ _

theorem State.modPin_moves (s : State) (m : Nat) (f : CmpPin → CmpPin) :
    Moves [.tmr] s (State.modPin s m f) := by
  unfold State.modPin
  refine Moves.step ?_ (Moves.mono (by decide) (State.modTmr_moves _ _ (by simp +contextual [Tmr.Keeps, Tmr.Shaped] <;> intros <;> omega)))
  exact Moves.refl _ _

theorem State.modCap_moves (s : State) (n : Nat) (f : CapFifo → CapFifo) :
    Moves [.tmr] s (State.modCap s n f) := by
  unfold State.modCap
  refine Moves.step ?_ (Moves.mono (by decide) (State.modTmr_moves _ _ (by simp +contextual [Tmr.Keeps, Tmr.Shaped] <;> intros <;> omega)))
  exact Moves.refl _ _

theorem State.tmrEvt0_moves (b : Nat) (s : State) :
    Moves [.tmr, .evc] s (State.tmrEvt0 b s) := by
  unfold State.tmrEvt0
  extract_lets +onlyGivenNames x0
  have hx0 : Moves [.tmr, .evc] s x0 := by
    refine Moves.step ?_ (Moves.mono (by decide) (State.modTmr_movesAll _ _ (fun _ => by exact Tmr.keeps_of rfl rfl rfl rfl)))
    exact Moves.refl _ _
  clear_value x0
  refine Moves.ite (fun _ => ?_) (fun _ => ?_)
  · refine Moves.step ?_ (Moves.mono (by decide) (State.raise_moves _ _ _))
    exact hx0
  · exact hx0

theorem State.tmrEvt1_moves (b : Nat) (s : State) :
    Moves [.tmr, .evc] s (State.tmrEvt1 b s) := by
  unfold State.tmrEvt1
  extract_lets +onlyGivenNames x0
  have hx0 : Moves [.tmr, .evc] s x0 := by
    refine Moves.step ?_ (Moves.mono (by decide) (State.modTmr_movesAll _ _ (fun _ => by exact Tmr.keeps_of rfl rfl rfl rfl)))
    exact Moves.refl _ _
  clear_value x0
  refine Moves.ite (fun _ => ?_) (fun _ => ?_)
  · refine Moves.step ?_ (Moves.mono (by decide) (State.raise_moves _ _ _))
    exact hx0
  · exact hx0

theorem State.followPins_moves (s : State) :
    Moves [.tmr] s (State.followPins s) := by
  unfold State.followPins
  refine Moves.foldl ?_ (fun x0 _ hx0 => ?_)
  · exact Moves.refl _ _
  · refine Moves.ite (fun _ => ?_) (fun _ => ?_)
    · refine Moves.step ?_ (Moves.mono (by decide) (State.modPin_moves _ _ _))
      exact hx0
    · exact hx0

theorem State.fireUnit_moves (n unit : Nat) (s : State) :
    Moves [.tmr, .evc] s (State.fireUnit n unit s).1 := by
  show MovesFst _ _ _
  unfold State.fireUnit
  try extract_lets +onlyGivenNames x0
  try clear_value x0
  try extract_lets +onlyGivenNames x1
  try clear_value x1
  try extract_lets +onlyGivenNames x2
  try clear_value x2
  try extract_lets +onlyGivenNames x3
  try clear_value x3
  extract_lets +onlyGivenNames x4
  have hx4 : Moves [.tmr, .evc] s x4 := by
    refine Moves.step ?_ (Moves.mono (by decide) (State.modTimer_moves _ _ _))
    exact Moves.refl _ _
  clear_value x4
  show Moves _ _ _
  refine Moves.step ?_ (Moves.mono (by decide) (State.tmrEvt0_moves _ _))
  exact hx4

theorem State.judgeTimer_moves (n : Nat) (entered : Bool) (s : State) :
    Moves [.tmr, .evc] s (State.judgeTimer n entered s).1 := by
  show MovesFst _ _ _
  unfold State.judgeTimer
  try extract_lets +onlyGivenNames x0
  try clear_value x0
  try extract_lets +onlyGivenNames x1
  try clear_value x1
  try extract_lets +onlyGivenNames x2
  try clear_value x2
  extract_lets +onlyGivenNames x3
  have hx3 : MovesFst [.tmr, .evc] s x3 := by
    refine MovesFst.ite (fun _ => ?_) (fun _ => ?_)
    · refine MovesFst.step ?_ (Moves.mono (by decide) (State.fireUnit_moves _ _ _))
      exact Moves.refl _ _
    · show Moves _ _ _
      exact Moves.refl _ _
  clear_value x3
  extract_lets +onlyGivenNames x4
  have hx4 : MovesFst [.tmr, .evc] s x4 := by
    refine MovesFst.ite (fun _ => ?_) (fun _ => ?_)
    · refine MovesFst.step ?_ (Moves.mono (by decide) (State.fireUnit_moves _ _ _))
      show MovesFst _ _ _
      exact hx3
    · show Moves _ _ _
      show MovesFst _ _ _
      exact hx3
  clear_value x4
  try extract_lets +onlyGivenNames x5
  try clear_value x5
  show Moves _ _ _
  refine Moves.step ?_ (Moves.mono (by decide) (State.followPins_moves _))
  show MovesFst _ _ _
  exact hx4

theorem State.countOnce_moves (n : Nat) (s : State) :
    Moves [.tmr, .evc] s (State.countOnce n s).1 := by
  show MovesFst _ _ _
  unfold State.countOnce
  try extract_lets +onlyGivenNames x0
  try clear_value x0
  refine MovesFst.ite (fun _ => ?_) (fun _ => ?_)
  · extract_lets +onlyGivenNames x1
    have hx1 : Moves [.tmr, .evc] s x1 := by
      refine Moves.step ?_ (Moves.mono (by decide) (State.tmrEvt0_moves _ _))
      refine Moves.step ?_ (Moves.mono (by decide) (State.modTimer_moves _ _ _))
      exact Moves.refl _ _
    clear_value x1
    extract_lets +onlyGivenNames x2
    have hx2 : MovesFst [.tmr, .evc] s x2 := by
      refine MovesFst.step ?_ (Moves.mono (by decide) (State.judgeTimer_moves _ _ _))
      exact hx1
    clear_value x2
    show Moves _ _ _
    show MovesFst _ _ _
    exact hx2
  · refine MovesFst.step ?_ (Moves.mono (by decide) (State.judgeTimer_moves _ _ _))
    refine Moves.step ?_ (Moves.mono (by decide) (State.modTimer_moves _ _ _))
    exact Moves.refl _ _

theorem State.tickOne_moves (n : Nat) (counted : Bool) (s : State) :
    Moves [.tmr, .evc] s (State.tickOne n counted s).1 := by
  show MovesFst _ _ _
  unfold State.tickOne
  extract_lets +onlyGivenNames x0
  have hx0 : Moves [.tmr, .evc] s x0 := by
    refine Moves.step ?_ (Moves.mono (by decide) (State.modTimer_moves _ _ _))
    exact Moves.refl _ _
  clear_value x0
  refine MovesFst.ite (fun _ => ?_) (fun _ => ?_)
  · refine MovesFst.step ?_ (Moves.mono (by decide) (State.countOnce_moves _ _))
    exact hx0
  · show Moves _ _ _
    exact hx0

theorem State.slaveAct_moves (n : Nat) (s : State) :
    Moves [.tmr, .evc] s (State.slaveAct n s).1 := by
  show MovesFst _ _ _
  unfold State.slaveAct
  try extract_lets +onlyGivenNames x0
  try clear_value x0
  split
  · extract_lets +onlyGivenNames x1
    have hx1 : MovesFst [.tmr, .evc] s x1 := by
      refine MovesFst.ite (fun _ => ?_) (fun _ => ?_)
      · refine MovesFst.step ?_ (Moves.mono (by decide) (State.tickOne_moves _ _ _))
        exact Moves.refl _ _
      · show Moves _ _ _
        exact Moves.refl _ _
    clear_value x1
    extract_lets +onlyGivenNames x2
    have hx2 : MovesFst [.tmr, .evc] s x2 := by
      refine MovesFst.step ?_ (Moves.mono (by decide) (State.judgeTimer_moves _ _ _))
      refine Moves.step ?_ (Moves.mono (by decide) (State.modTimer_moves _ _ _))
      show MovesFst _ _ _
      exact hx1
    clear_value x2
    show Moves _ _ _
    show MovesFst _ _ _
    exact hx2
  · refine MovesFst.ite (fun _ => ?_) (fun _ => ?_)
    · refine MovesFst.step ?_ (Moves.mono (by decide) (State.countOnce_moves _ _))
      exact Moves.refl _ _
    · show Moves _ _ _
      exact Moves.refl _ _
  · refine MovesFst.ite (fun _ => ?_) (fun _ => ?_)
    · show Moves _ _ _
      exact Moves.refl _ _
    · show Moves _ _ _
      refine Moves.step ?_ (Moves.mono (by decide) (State.modTimer_moves _ _ _))
      exact Moves.refl _ _
  · show Moves _ _ _
    exact Moves.refl _ _

theorem State.captureUnit_moves (n : Nat) (s : State) :
    Moves [.tmr, .evc] s (State.captureUnit n s) := by
  unfold State.captureUnit
  try extract_lets +onlyGivenNames x0
  try clear_value x0
  split
  · refine Moves.step ?_ (Moves.mono (by decide) (State.tmrEvt0_moves _ _))
    refine Moves.step ?_ (Moves.mono (by decide) (State.modTimer_moves _ _ _))
    exact Moves.refl _ _
  · refine Moves.step ?_ (Moves.mono (by decide) (State.modTimer_moves _ _ _))
    exact Moves.refl _ _

theorem State.spread_moves (e : TrigEvent) (s : State) :
    Moves [.tmr, .evc] s (State.spread e s).1 := by
  show MovesFst _ _ _
  unfold State.spread
  try extract_lets +onlyGivenNames x0
  try clear_value x0
  extract_lets +onlyGivenNames x1
  have hx1 : MovesFst [.tmr, .evc] s x1 := by
    refine MovesFst.foldl ?_ (fun x2 _ hx2 => ?_)
    · show Moves _ _ _
      exact Moves.refl _ _
    · refine MovesFst.ite (fun _ => ?_) (fun _ => ?_)
      · extract_lets +onlyGivenNames x3
        have hx3 : MovesFst [.tmr, .evc] s x3 := by
          refine MovesFst.step ?_ (Moves.mono (by decide) (State.slaveAct_moves _ _))
          show MovesFst _ _ _
          exact hx2
        clear_value x3
        show Moves _ _ _
        show MovesFst _ _ _
        exact hx3
      · exact hx2
  clear_value x1
  extract_lets +onlyGivenNames x4
  have hx4 : Moves [.tmr, .evc] s x4 := by
    refine Moves.foldl ?_ (fun x5 _ hx5 => ?_)
    · show MovesFst _ _ _
      exact hx1
    · refine Moves.ite (fun _ => ?_) (fun _ => ?_)
      · refine Moves.step ?_ (Moves.mono (by decide) (State.captureUnit_moves _ _))
        exact hx5
      · exact hx5
  clear_value x4
  extract_lets +onlyGivenNames x6
  have hx6 : Moves [.tmr, .evc] s x6 := by
    refine Moves.foldl ?_ (fun x7 _ hx7 => ?_)
    · exact hx4
    · refine Moves.ite (fun _ => ?_) (fun _ => ?_)
      · refine Moves.step ?_ (Moves.mono (by decide) (State.modPin_moves _ _ _))
        exact hx7
      · exact hx7
  clear_value x6
  show Moves _ _ _
  exact hx6

theorem State.propagate_moves (n : Nat) (es : List TrigEvent) (s : State) : Moves [.tmr, .evc] s (s.propagate n es) := by
  induction n generalizing es s with
  | zero => exact Moves.refl _ _
  | succ n ih =>
    unfold State.propagate
    refine Moves.ite (fun _ => Moves.refl _ _) (fun _ => ?_)
    extract_lets +onlyGivenNames r
    have hr : MovesFst [.tmr, .evc] s r := by
      refine MovesFst.foldl (Moves.refl _ _) (fun u x hu => ?_)
      exact MovesFst.step hu (Moves.mono (by decide) (State.spread_moves _ _))
    clear_value r
    exact Moves.trans hr (ih _ _)

theorem State.settle_moves (r : State × List TrigEvent) :
    Moves [.tmr, .evc] r.1 (State.settle r) := by
  unfold State.settle
  refine Moves.step ?_ (Moves.mono (by decide) (State.propagate_moves _ _ _))
  show MovesFst _ _ _
  exact Moves.refl _ _

theorem State.ownTicks_moves (m step : Nat) (counted : Bool) (k : Nat) (s : State) :
    Moves [.tmr, .evc] s (State.ownTicks m step counted k s).1 := by
  induction k generalizing s with
  | zero => exact Moves.refl _ _
  | succ k ih =>
    unfold State.ownTicks
    split
    · exact (Moves.mono (by decide) (State.tickOne_moves _ _ _)).trans (ih _)
    · exact Moves.refl _ _

theorem State.takeTick_moves (n : Nat) (s : State) :
    Moves [.tmr, .evc] s (State.takeTick n s) := by
  unfold State.takeTick
  try extract_lets +onlyGivenNames x0
  try clear_value x0
  refine Moves.step ?_ (Moves.mono (by decide) (State.settle_moves _))
  show MovesFst _ _ _
  refine MovesFst.foldl ?_ (fun x1 _ hx1 => ?_)
  · show Moves _ _ _
    exact Moves.refl _ _
  · extract_lets +onlyGivenNames x2
    have hx2 : MovesFst [.tmr, .evc] s x2 := by
      refine MovesFst.step ?_ (Moves.mono (by decide) (State.ownTicks_moves _ _ _ _ _))
      show MovesFst _ _ _
      exact hx1
    clear_value x2
    show Moves _ _ _
    show MovesFst _ _ _
    exact hx2

theorem State.tickOnce_moves (n : Nat) (s : State) :
    Moves [.tmr, .evc] s (State.tickOnce n s) := by
  unfold State.tickOnce
  refine Moves.ite (fun _ => ?_) (fun _ => ?_)
  · refine Moves.step ?_ (Moves.mono (by decide) (State.takeTick_moves _ _))
    exact Moves.refl _ _
  · exact Moves.refl _ _

theorem State.ticksDue_moves (n k : Nat) (s : State) : Moves [.tmr, .evc] s (State.ticksDue n k s) := by
  induction k generalizing s with
  | zero => exact Moves.refl _ _
  | succ k ih =>
    unfold State.ticksDue
    split
    · exact (Moves.mono (by decide) (State.takeTick_moves _ _)).trans (ih _)
    · exact Moves.refl _ _

theorem State.tickFirst_moves (n : Nat) (s : State) :
    Moves [.tmr, .evc] s (State.tickFirst n s) := by
  unfold State.tickFirst
  refine Moves.step ?_ (Moves.mono (by decide) (State.ticksDue_moves _ _ _))
  exact Moves.refl _ _

theorem State.ticksFirst_moves (s : State) :
    Moves [.tmr, .evc] s (State.ticksFirst s) := by
  unfold State.ticksFirst
  refine Moves.foldl ?_ (fun x0 _ hx0 => ?_)
  · exact Moves.refl _ _
  · refine Moves.step ?_ (Moves.mono (by decide) (State.tickFirst_moves _ _))
    exact hx0

theorem State.swtrig_moves (n : Nat) (s : State) : Moves [.tmr, .evc] s (s.swtrig n) := by
  unfold State.swtrig
  have h := State.ticksFirst_moves s
  generalize s.ticksFirst = y at h ⊢
  exact h.trans (State.settle_moves (y, [(0x29, n)]))

theorem writeTmrCtrl_moves (n : Nat) (w : Word) (s : State) :
    Moves [.tmr, .evc] s (writeTmrCtrl n w s) := by
  unfold writeTmrCtrl
  refine Moves.ite (fun _ => ?_) (fun _ => ?_)
  · refine Moves.step ?_ (Moves.mono (by decide) (State.modTimer_moves _ _ _))
    exact Moves.refl _ _
  · extract_lets +onlyGivenNames x0
    have hx0 : Moves [.tmr, .evc] s x0 := by
      refine Moves.step ?_ (Moves.mono (by decide) (State.modTimer_moves _ _ _))
      refine Moves.step ?_ (Moves.mono (by decide) (State.tickFirst_moves _ _))
      exact Moves.refl _ _
    clear_value x0
    refine Moves.ite (fun _ => ?_) (fun _ => ?_)
    · refine Moves.step ?_ (Moves.mono (by decide) (State.swtrig_moves _ _))
      exact hx0
    · exact hx0

theorem writeTmrCnt_moves (n : Nat) (w : Word) (s : State) :
    Moves [.tmr, .evc] s (writeTmrCnt n w s) := by
  unfold writeTmrCnt
  refine Moves.step ?_ (Moves.mono (by decide) (State.settle_moves _))
  show MovesFst _ _ _
  refine MovesFst.step ?_ (Moves.mono (by decide) (State.judgeTimer_moves _ _ _))
  refine Moves.step ?_ (Moves.mono (by decide) (State.modTimer_moves _ _ _))
  refine Moves.step ?_ (Moves.mono (by decide) (State.tickFirst_moves _ _))
  exact Moves.refl _ _

theorem writeTmrCmp_moves (n unit : Nat) (w : Word) (s : State) :
    Moves [.tmr, .evc] s (writeTmrCmp n unit w s) := by
  unfold writeTmrCmp
  refine Moves.step ?_ (Moves.mono (by decide) (State.settle_moves _))
  show MovesFst _ _ _
  refine MovesFst.step ?_ (Moves.mono (by decide) (State.judgeTimer_moves _ _ _))
  refine Moves.step ?_ (Moves.mono (by decide) (State.modTimer_moves _ _ _))
  refine Moves.step ?_ (Moves.mono (by decide) (State.tickFirst_moves _ _))
  exact Moves.refl _ _

theorem readTmrCap_moves (r : Requester) (n : Nat) (s : State) :
    Moves [.tbu, .tmr, .free] s (readTmrCap r n s).2 := by
  show MovesSnd _ _ _
  unfold readTmrCap
  split
  · show Moves _ _ _
    refine Moves.step ?_ (Moves.mono (by decide) (State.modShadow_moves _ _ _ (by intro x; simp +contextual [Shadow.Shaped])))
    refine Moves.step ?_ (Moves.mono (by decide) (State.modTimer_moves _ _ _))
    exact Moves.refl _ _
  · show Moves _ _ _
    refine Moves.step ?_ (Moves.mono (by decide) (State.drawn_moves _))
    refine Moves.step ?_ (Moves.mono (by decide) (State.modShadow_moves _ _ _ (by intro x; simp +contextual [Shadow.Shaped])))
    exact Moves.refl _ _

theorem State.alarmFire_moves (m : Nat) (s : State) :
    Moves [.tmr, .evc, .psc, .pad, .mbx, .fab, .rel, .ledger] s (State.alarmFire m s) := by
  unfold State.alarmFire
  refine Moves.ite (fun _ => ?_) (fun _ => ?_)
  · extract_lets +onlyGivenNames x0
    have hx0 : Moves [.tmr, .evc, .psc, .pad, .mbx, .fab, .rel, .ledger] s x0 := by
      refine Moves.step ?_ (Moves.mono (by decide) (State.tmrEvt1_moves _ _))
      refine Moves.step ?_ (Moves.mono (by decide) (State.modAlarm_moves _ _ _))
      refine Moves.step ?_ (Moves.mono (by decide) (State.ticksFirst_moves _))
      exact Moves.refl _ _
    clear_value x0
    extract_lets +onlyGivenNames x1
    have hx1 : Moves [.tmr, .evc, .psc, .pad, .mbx, .fab, .rel, .ledger] s x1 := by
      refine Moves.step ?_ (Moves.mono (by decide) (State.settle_moves _))
      show MovesFst _ _ _
      show Moves _ _ _
      exact hx0
    clear_value x1
    refine Moves.ite (fun _ => ?_) (fun _ => ?_)
    · refine Moves.step ?_ (Moves.mono (by decide) (State.wakeSource_moves _ _))
      exact hx1
    · exact hx1
  · exact Moves.refl _ _

theorem writeAlmLo_moves (r : Requester) (m : Nat) (w : Word) (s : State) :
    Moves [.tmr, .evc, .psc, .pad, .mbx, .fab, .rel, .ledger] s (writeAlmLo r m w s) := by
  unfold writeAlmLo
  refine Moves.step ?_ (Moves.mono (by decide) (State.alarmFire_moves _ _))
  refine Moves.step ?_ (Moves.mono (by decide) (State.modAlarm_moves _ _ _))
  exact Moves.refl _ _

theorem readAlmLo_moves (r : Requester) (m : Nat) (s : State) :
    Moves [.tbu] s (readAlmLo r m s).2 := by
  show MovesSnd _ _ _
  unfold readAlmLo
  show Moves _ _ _
  refine Moves.step ?_ (Moves.mono (by decide) (State.modShadow_moves _ _ _ (by intro x; simp +contextual [Shadow.Shaped])))
  exact Moves.refl _ _

theorem State.disarm_moves (m : Nat) (s : State) :
    Moves [.tmr, .evc, .psc, .pad, .mbx, .fab, .rel, .ledger] s (State.disarm m s) := by
  unfold State.disarm
  refine Moves.step ?_ (Moves.mono (by decide) (State.modAlarm_moves _ _ _))
  refine Moves.step ?_ (Moves.mono (by decide) (State.alarmFire_moves _ _))
  exact Moves.refl _ _

theorem doPinPulseEnd_moves (m : Nat) (s : State) :
    Moves [.tmr] s (doPinPulseEnd m s) := by
  unfold doPinPulseEnd
  split
  · refine Moves.ite (fun _ => ?_) (fun _ => ?_)
    · refine Moves.step ?_ (Moves.mono (by decide) (State.followPins_moves _))
      refine Moves.step ?_ (Moves.mono (by decide) (State.modPin_moves _ _ _))
      exact Moves.refl _ _
    · exact Moves.refl _ _
  · exact Moves.refl _ _

theorem doCapEdge_moves (n : Nat) (rising : Bool) (s : State) :
    Moves [.tmr, .evc, .free] s (doCapEdge n rising s) := by
  unfold doCapEdge
  try extract_lets +onlyGivenNames x0
  try clear_value x0
  refine Moves.ite (fun _ => ?_) (fun _ => ?_)
  · exact Moves.refl _ _
  · refine Moves.ite (fun _ => ?_) (fun _ => ?_)
    · refine Moves.step ?_ (Moves.mono (by decide) (State.tmrEvt1_moves _ _))
      refine Moves.step ?_ (Moves.mono (by decide) (State.modCap_moves _ _ _))
      refine Moves.step ?_ (Moves.mono (by decide) (State.drawn_moves _))
      exact Moves.refl _ _
    · refine Moves.step ?_ (Moves.mono (by decide) (State.tmrEvt1_moves _ _))
      refine Moves.step ?_ (Moves.mono (by decide) (State.modCap_moves _ _ _))
      refine Moves.step ?_ (Moves.mono (by decide) (State.drawn_moves _))
      exact Moves.refl _ _

theorem readCapLo_moves (r : Requester) (n : Nat) (s : State) :
    Moves [.tbu, .tmr] s (readCapLo r n s).2 := by
  show MovesSnd _ _ _
  unfold readCapLo
  try extract_lets +onlyGivenNames x0
  try clear_value x0
  split
  · show Moves _ _ _
    refine Moves.step ?_ (Moves.mono (by decide) (State.modShadow_moves _ _ _ (by intro x; simp +contextual [Shadow.Shaped])))
    refine Moves.step ?_ (Moves.mono (by decide) (State.modCap_moves _ _ _))
    exact Moves.refl _ _
  · show Moves _ _ _
    refine Moves.step ?_ (Moves.mono (by decide) (State.modShadow_moves _ _ _ (by intro x; simp +contextual [Shadow.Shaped])))
    exact Moves.refl _ _

theorem State.capFlush_moves (n : Nat) (s : State) :
    Moves [.tmr] s (State.capFlush n s) := by
  unfold State.capFlush
  refine Moves.step ?_ (Moves.mono (by decide) (State.modCap_moves _ _ _))
  exact Moves.refl _ _

theorem doCapPinLevel_moves (k : Nat) (level : Bool) (s : State) :
    Moves [.tmr, .evc] s (doCapPinLevel k level s) := by
  unfold doCapPinLevel
  extract_lets +onlyGivenNames x0
  have hx0 : Moves [.tmr, .evc] s x0 := by
    refine Moves.step ?_ (Moves.mono (by decide) (State.followPins_moves _))
    refine Moves.step ?_ (Moves.mono (by decide) (State.modCap_moves _ _ _))
    refine Moves.step ?_ (Moves.mono (by decide) (State.ticksFirst_moves _))
    exact Moves.refl _ _
  clear_value x0
  refine Moves.ite (fun _ => ?_) (fun _ => ?_)
  · refine Moves.step ?_ (Moves.mono (by decide) (State.settle_moves _))
    show MovesFst _ _ _
    show Moves _ _ _
    exact hx0
  · exact hx0

theorem readTmr_moves (r : Requester) (off : Nat) (s : State) :
    Moves [.tbu, .tmr, .free] s (readTmr r off s).2 := by
  show MovesSnd _ _ _
  unfold readTmr
  refine MovesSnd.ite (fun _ => ?_) (fun _ => ?_)
  · try extract_lets +onlyGivenNames x0
    try clear_value x0
    try extract_lets +onlyGivenNames x1
    try clear_value x1
    split
    · show Moves _ _ _
      exact Moves.refl _ _
    · show Moves _ _ _
      exact Moves.refl _ _
    · show Moves _ _ _
      exact Moves.refl _ _
    · show Moves _ _ _
      exact Moves.refl _ _
    · show Moves _ _ _
      exact Moves.refl _ _
    · show Moves _ _ _
      exact Moves.refl _ _
    · show Moves _ _ _
      exact Moves.refl _ _
    · show Moves _ _ _
      exact Moves.refl _ _
    · refine MovesSnd.step ?_ (Moves.mono (by decide) (readTmrCap_moves _ _ _))
      exact Moves.refl _ _
    · show Moves _ _ _
      exact Moves.refl _ _
    · show Moves _ _ _
      exact Moves.refl _ _
    · show Moves _ _ _
      exact Moves.refl _ _
    · show Moves _ _ _
      exact Moves.refl _ _
  · refine MovesSnd.ite (fun _ => ?_) (fun _ => ?_)
    · try extract_lets +onlyGivenNames x2
      try clear_value x2
      try extract_lets +onlyGivenNames x3
      try clear_value x3
      split
      · refine MovesSnd.step ?_ (Moves.mono (by decide) (readAlmLo_moves _ _ _))
        exact Moves.refl _ _
      · show Moves _ _ _
        exact Moves.refl _ _
      · show Moves _ _ _
        exact Moves.refl _ _
      · show Moves _ _ _
        exact Moves.refl _ _
      · show Moves _ _ _
        exact Moves.refl _ _
    · refine MovesSnd.ite (fun _ => ?_) (fun _ => ?_)
      · try extract_lets +onlyGivenNames x4
        try clear_value x4
        refine MovesSnd.ite (fun _ => ?_) (fun _ => ?_)
        · show Moves _ _ _
          exact Moves.refl _ _
        · show Moves _ _ _
          exact Moves.refl _ _
      · refine MovesSnd.ite (fun _ => ?_) (fun _ => ?_)
        · try extract_lets +onlyGivenNames x5
          try clear_value x5
          try extract_lets +onlyGivenNames x6
          try clear_value x6
          split
          · refine MovesSnd.step ?_ (Moves.mono (by decide) (readCapLo_moves _ _ _))
            exact Moves.refl _ _
          · show Moves _ _ _
            exact Moves.refl _ _
          · show Moves _ _ _
            exact Moves.refl _ _
          · show Moves _ _ _
            exact Moves.refl _ _
          · show Moves _ _ _
            exact Moves.refl _ _
        · split
          · show Moves _ _ _
            exact Moves.refl _ _
          · show Moves _ _ _
            exact Moves.refl _ _
          · show Moves _ _ _
            exact Moves.refl _ _
          · show Moves _ _ _
            exact Moves.refl _ _
          · show Moves _ _ _
            exact Moves.refl _ _

theorem writePinCtrl_moves (m : Nat) (w : Word) (s : State) :
    Moves [.tmr] s (writePinCtrl m w s) := by
  unfold writePinCtrl
  refine Moves.step ?_ (Moves.mono (by decide) (State.followPins_moves _))
  refine Moves.step ?_ (Moves.mono (by decide) (State.modPin_moves _ _ _))
  exact Moves.refl _ _

theorem writeTmr_moves (r : Requester) (off : Nat) (w : Word) (s : State) :
    Moves [.tbu, .tmr, .evc, .psc, .pad, .mbx, .fab, .rel, .ledger] s (writeTmr r off w s) := by
  unfold writeTmr
  refine Moves.ite (fun _ => ?_) (fun _ => ?_)
  · try extract_lets +onlyGivenNames x0
    try clear_value x0
    split
    · refine Moves.step ?_ (Moves.mono (by decide) (writeTmrCtrl_moves _ _ _))
      exact Moves.refl _ _
    · refine Moves.step ?_ (Moves.mono (by decide) (State.modTimer_moves _ _ _))
      refine Moves.step ?_ (Moves.mono (by decide) (State.tickFirst_moves _ _))
      exact Moves.refl _ _
    · refine Moves.step ?_ (Moves.mono (by decide) (State.settle_moves _))
      show MovesFst _ _ _
      refine MovesFst.step ?_ (Moves.mono (by decide) (State.judgeTimer_moves _ _ _))
      refine Moves.step ?_ (Moves.mono (by decide) (State.modTimer_moves _ _ _))
      refine Moves.step ?_ (Moves.mono (by decide) (State.tickFirst_moves _ _))
      exact Moves.refl _ _
    · refine Moves.step ?_ (Moves.mono (by decide) (writeTmrCnt_moves _ _ _))
      exact Moves.refl _ _
    · refine Moves.step ?_ (Moves.mono (by decide) (writeTmrCmp_moves _ _ _ _))
      exact Moves.refl _ _
    · refine Moves.step ?_ (Moves.mono (by decide) (writeTmrCmp_moves _ _ _ _))
      exact Moves.refl _ _
    · refine Moves.step ?_ (Moves.mono (by decide) (State.modTimer_moves _ _ _))
      exact Moves.refl _ _
    · exact Moves.refl _ _
  · refine Moves.ite (fun _ => ?_) (fun _ => ?_)
    · try extract_lets +onlyGivenNames x1
      try clear_value x1
      split
      · refine Moves.step ?_ (Moves.mono (by decide) (writeAlmLo_moves _ _ _ _))
        exact Moves.refl _ _
      · refine Moves.step ?_ (Moves.mono (by decide) (State.modShadow_moves _ _ _ (by intro x; simp +contextual [Shadow.Shaped])))
        exact Moves.refl _ _
      · refine Moves.step ?_ (Moves.mono (by decide) (State.modAlarm_moves _ _ _))
        refine Moves.ite (fun _ => ?_) (fun _ => ?_)
        · refine Moves.step ?_ (Moves.mono (by decide) (State.disarm_moves _ _))
          exact Moves.refl _ _
        · exact Moves.refl _ _
      · exact Moves.refl _ _
    · refine Moves.ite (fun _ => ?_) (fun _ => ?_)
      · refine Moves.ite (fun _ => ?_) (fun _ => ?_)
        · refine Moves.step ?_ (Moves.mono (by decide) (writePinCtrl_moves _ _ _))
          exact Moves.refl _ _
        · exact Moves.refl _ _
      · refine Moves.ite (fun _ => ?_) (fun _ => ?_)
        · try extract_lets +onlyGivenNames x2
          try clear_value x2
          refine Moves.ite (fun _ => ?_) (fun _ => ?_)
          · extract_lets +onlyGivenNames x3
            have hx3 : Moves [.tbu, .tmr, .evc, .psc, .pad, .mbx, .fab, .rel, .ledger] s x3 := by
              refine Moves.step ?_ (Moves.mono (by decide) (State.modCap_moves _ _ _))
              exact Moves.refl _ _
            clear_value x3
            refine Moves.ite (fun _ => ?_) (fun _ => ?_)
            · refine Moves.step ?_ (Moves.mono (by decide) (State.capFlush_moves _ _))
              exact hx3
            · exact hx3
          · exact Moves.refl _ _
        · split
          · refine Moves.step ?_ (Moves.mono (by decide) (State.modTmr_movesAll _ _ (fun _ => by exact Tmr.keeps_of rfl rfl rfl rfl)))
            exact Moves.refl _ _
          · refine Moves.step ?_ (Moves.mono (by decide) (State.modTmr_movesAll _ _ (fun _ => by exact Tmr.keeps_of rfl rfl rfl rfl)))
            exact Moves.refl _ _
          · refine Moves.step ?_ (Moves.mono (by decide) (State.modTmr_movesAll _ _ (fun _ => by exact Tmr.keeps_of rfl rfl rfl rfl)))
            exact Moves.refl _ _
          · refine Moves.step ?_ (Moves.mono (by decide) (State.modTmr_movesAll _ _ (fun _ => by exact Tmr.keeps_of rfl rfl rfl rfl)))
            exact Moves.refl _ _
          · exact Moves.refl _ _

end Sys2Proof.Machine
end

