-- ==== Sys2Proof/Laws/Registers.lean ====
section
/-!
SUPPORT. What the operations of Machine/Registers.lean leave unchanged, and what they keep.
-/
namespace Sys2Proof.Machine

theorem writeIdh_moves (off : Nat) (w : Word) (s : State) :
    Moves [.boot] s (writeIdh off w s) := by
  unfold writeIdh
  refine Moves.ite (fun _ => ?_) (fun _ => ?_)
  · refine Moves.step ?_ (Moves.mono (by decide) (State.modBoot_movesAll _ _ (fun _ => by exact Boot.keeps_of rfl rfl rfl rfl)))
    exact Moves.refl _ _
  · exact Moves.refl _ _

theorem readMbx_moves (off : Nat) (s : State) :
    Moves [.mbx] s (readMbx off s).2 := by
  show MovesSnd _ _ _
  unfold readMbx
  refine MovesSnd.ite (fun _ => ?_) (fun _ => ?_)
  · try extract_lets +onlyGivenNames x0
    try clear_value x0
    try extract_lets +onlyGivenNames x1
    try clear_value x1
    refine MovesSnd.ite (fun _ => ?_) (fun _ => ?_)
    · show Moves _ _ _
      exact Moves.refl _ _
    · refine MovesSnd.ite (fun _ => ?_) (fun _ => ?_)
      · refine MovesSnd.step ?_ (Moves.mono (by decide) (readRes0_moves _ _))
        exact Moves.refl _ _
      · show Moves _ _ _
        exact Moves.refl _ _
  · try extract_lets +onlyGivenNames x2
    try clear_value x2
    split
    · show Moves _ _ _
      exact Moves.refl _ _
    · show Moves _ _ _
      exact Moves.refl _ _
    · show Moves _ _ _
      exact Moves.refl _ _
    · show Moves _ _ _
      exact Moves.refl _ _
    · show Moves _ _ _
      exact Moves.refl _ _
    · show Moves _ _ _
      exact Moves.refl _ _

theorem writeDb_moves (w : Word) (s : State) :
    Moves [.evc, .psc, .pad, .mbx, .fab, .rel, .crypt, .keys, .ledger, .mem] s (writeDb w s) := by
  unfold writeDb
  refine Moves.foldl ?_ (fun x0 _ hx0 => ?_)
  · exact Moves.refl _ _
  · refine Moves.ite (fun _ => ?_) (fun _ => ?_)
    · refine Moves.step ?_ (Moves.mono (by decide) (doDoorbell_moves _ _))
      exact hx0
    · exact hx0

theorem writeMbx_moves (off : Nat) (w : Word) (s : State) :
    Moves [.evc, .psc, .pad, .mbx, .fab, .rel, .crypt, .keys, .ledger, .mem] s (writeMbx off w s) := by
  unfold writeMbx
  refine Moves.ite (fun _ => ?_) (fun _ => ?_)
  · refine Moves.step ?_ (Moves.mono (by decide) (doCommandAreaWrite_moves _ _ _ _))
    exact Moves.refl _ _
  · refine Moves.ite (fun _ => ?_) (fun _ => ?_)
    · refine Moves.step ?_ (Moves.mono (by decide) (writeDb_moves _ _))
      exact Moves.refl _ _
    · refine Moves.ite (fun _ => ?_) (fun _ => ?_)
      · refine Moves.step ?_ (Moves.mono (by decide) (doMbxAckWrite_moves _ _))
        exact Moves.refl _ _
      · refine Moves.ite (fun _ => ?_) (fun _ => ?_)
        · refine Moves.step ?_ (Moves.mono (by decide) (State.modMbx_movesAll _ _ (fun _ => by exact Mbx.keeps_of rfl)))
          exact Moves.refl _ _
        · refine Moves.ite (fun _ => ?_) (fun _ => ?_)
          · refine Moves.step ?_ (Moves.mono (by decide) (State.modMbx_movesAll _ _ (fun _ => by exact Mbx.keeps_of rfl)))
            exact Moves.refl _ _
          · exact Moves.refl _ _

theorem readReg_moves (r : Requester) (a : Nat) (s : State) :
    Moves [.tbu, .tmr, .mbx, .fab, .free] s (readReg r a s).2 := by
  show MovesSnd _ _ _
  unfold readReg
  try extract_lets +onlyGivenNames x0
  try clear_value x0
  refine MovesSnd.ite (fun _ => ?_) (fun _ => ?_)
  · refine MovesSnd.step ?_ (Moves.mono (by decide) (readAperture_moves _ _))
    exact Moves.refl _ _
  · split
    · show Moves _ _ _
      exact Moves.refl _ _
    · refine MovesSnd.step ?_ (Moves.mono (by decide) (readMbx_moves _ _))
      exact Moves.refl _ _
    · refine MovesSnd.step ?_ (Moves.mono (by decide) (readTbu_moves _ _ _))
      exact Moves.refl _ _
    · refine MovesSnd.step ?_ (Moves.mono (by decide) (readTmr_moves _ _ _))
      exact Moves.refl _ _
    · refine MovesSnd.step ?_ (Moves.mono (by decide) (readEvc_moves _ _ _))
      exact Moves.refl _ _
    · show Moves _ _ _
      exact Moves.refl _ _
    · show Moves _ _ _
      exact Moves.refl _ _
    · show Moves _ _ _
      exact Moves.refl _ _
    · show Moves _ _ _
      exact Moves.refl _ _
    · show Moves _ _ _
      exact Moves.refl _ _

theorem writeReg_moves (r : Requester) (a : Nat) (w : Word) (s : State) :
    Moves [.tbu, .tmr, .evc, .psc, .pad, .mbx, .boot, .fab, .radio, .rel, .crypt, .keys, .ledger, .net, .mem] s (writeReg r a w s) := by
  unfold writeReg
  try extract_lets +onlyGivenNames x0
  try clear_value x0
  refine Moves.ite (fun _ => ?_) (fun _ => ?_)
  · refine Moves.step ?_ (Moves.mono (by decide) (writeAperture_moves _ _ _))
    exact Moves.refl _ _
  · split
    · refine Moves.step ?_ (Moves.mono (by decide) (writeIdh_moves _ _ _))
      exact Moves.refl _ _
    · refine Moves.step ?_ (Moves.mono (by decide) (writeMbx_moves _ _ _))
      exact Moves.refl _ _
    · refine Moves.step ?_ (Moves.mono (by decide) (writeTbu_moves _ _ _))
      exact Moves.refl _ _
    · refine Moves.step ?_ (Moves.mono (by decide) (writeTmr_moves _ _ _ _))
      exact Moves.refl _ _
    · refine Moves.step ?_ (Moves.mono (by decide) (writeEvc_moves _ _ _))
      exact Moves.refl _ _
    · refine Moves.step ?_ (Moves.mono (by decide) (writePsc_moves _ _ _))
      exact Moves.refl _ _
    · refine Moves.step ?_ (Moves.mono (by decide) (writePad_moves _ _ _))
      exact Moves.refl _ _
    · refine Moves.step ?_ (Moves.mono (by decide) (writeCmpw_moves _ _ _ _))
      exact Moves.refl _ _
    · refine Moves.step ?_ (Moves.mono (by decide) (writeHbw_moves _ _ _))
      exact Moves.refl _ _
    · exact Moves.refl _ _

theorem doRegisterWrite_moves (r : Requester) (a : Nat) (w : Word) (s : State) :
    Moves [.tbu, .tmr, .evc, .psc, .pad, .mbx, .boot, .fab, .radio, .rel, .crypt, .keys, .ledger, .net, .mem] s (doRegisterWrite r a w s) := by
  unfold doRegisterWrite
  refine Moves.ite (fun _ => ?_) (fun _ => ?_)
  · refine Moves.step ?_ (Moves.mono (by decide) (writeReg_moves _ _ _ _))
    exact Moves.refl _ _
  · exact Moves.refl _ _

theorem writeRange_moves (r : Requester) (a : Nat) (ws : List Word) (s : State) : Moves [.tbu, .tmr, .evc, .psc, .pad, .mbx, .boot, .fab, .radio, .rel, .crypt, .keys, .ledger, .net, .mem] s (writeRange r a ws s) := by
  induction ws generalizing a s with
  | nil => exact Moves.refl _ _
  | cons w ws ih => exact Moves.trans (Moves.mono (by decide) (writeReg_moves _ _ _ _)) (ih _ _)

theorem readRange_moves (r : Requester) (n a : Nat) (s : State) : Moves [.tbu, .tmr, .mbx, .fab, .free] s (readRange r n a s).2 := by
  induction n generalizing a s with
  | zero => exact Moves.refl _ _
  | succ n ih =>
    show MovesSnd _ _ _
    unfold readRange
    exact Moves.trans (Moves.mono (by decide) (readReg_moves _ _ _)) (ih _ _)

theorem State.spiRefused_moves (status : Nat) (s : State) :
    Moves [.evc, .psc, .pad, .mbx, .fab, .rel, .ledger] s (State.spiRefused status s) := by
  unfold State.spiRefused
  extract_lets +onlyGivenNames x0
  have hx0 : Moves [.evc, .psc, .pad, .mbx, .fab, .rel, .ledger] s x0 := by
    refine Moves.step ?_ (Moves.mono (by decide) (State.modMbx_moves _ _ (fun h => by split <;> exact h)))
    exact Moves.refl _ _
  clear_value x0
  refine Moves.ite (fun _ => ?_) (fun _ => ?_)
  · refine Moves.step ?_ (Moves.mono (by decide) (State.wakeSource_moves _ _))
    exact hx0
  · refine Moves.step ?_ (Moves.mono (by decide) (State.raise_moves _ _ _))
    exact hx0

theorem State.drive_moves (bs : List Byte) (s : State) :
    Moves [.mbx] s (State.drive bs s) := by
  unfold State.drive
  refine Moves.step ?_ (Moves.mono (by decide) (State.modMbx_movesAll _ _ (fun _ => by exact Mbx.keeps_of rfl)))
  exact Moves.refl _ _

theorem doSpiWriteFrame_moves (bs : List Byte) (s : State) :
    Moves [.tbu, .tmr, .evc, .psc, .pad, .mbx, .boot, .fab, .radio, .rel, .crypt, .keys, .ledger, .net, .mem] s (doSpiWriteFrame bs s) := by
  unfold doSpiWriteFrame
  refine Moves.ite (fun _ => ?_) (fun _ => ?_)
  · refine Moves.step ?_ (Moves.mono (by decide) (State.drive_moves _ _))
    exact Moves.refl _ _
  · try extract_lets +onlyGivenNames x0
    try clear_value x0
    try extract_lets +onlyGivenNames x1
    try clear_value x1
    try extract_lets +onlyGivenNames x2
    try clear_value x2
    refine Moves.step ?_ (Moves.mono (by decide) (State.drive_moves _ _))
    refine Moves.ite (fun _ => ?_) (fun _ => ?_)
    · refine Moves.step ?_ (Moves.mono (by decide) (writeRange_moves _ _ _ _))
      exact Moves.refl _ _
    · refine Moves.step ?_ (Moves.mono (by decide) (State.spiRefused_moves _ _))
      exact Moves.refl _ _

theorem doSpiReadFrame_moves (bs : List Byte) (s : State) :
    Moves [.tbu, .tmr, .evc, .psc, .pad, .mbx, .fab, .rel, .ledger, .free] s (doSpiReadFrame bs s) := by
  unfold doSpiReadFrame
  refine Moves.ite (fun _ => ?_) (fun _ => ?_)
  · refine Moves.step ?_ (Moves.mono (by decide) (State.drive_moves _ _))
    exact Moves.refl _ _
  · try extract_lets +onlyGivenNames x0
    try clear_value x0
    try extract_lets +onlyGivenNames x1
    try clear_value x1
    try extract_lets +onlyGivenNames x2
    try clear_value x2
    refine Moves.ite (fun _ => ?_) (fun _ => ?_)
    · extract_lets +onlyGivenNames x3
      have hx3 : MovesSnd [.tbu, .tmr, .evc, .psc, .pad, .mbx, .fab, .rel, .ledger, .free] s x3 := by
        refine MovesSnd.step ?_ (Moves.mono (by decide) (readRange_moves _ _ _ _))
        exact Moves.refl _ _
      clear_value x3
      refine Moves.step ?_ (Moves.mono (by decide) (State.drive_moves _ _))
      show MovesSnd _ _ _
      exact hx3
    · refine Moves.step ?_ (Moves.mono (by decide) (State.drive_moves _ _))
      refine Moves.step ?_ (Moves.mono (by decide) (State.spiRefused_moves _ _))
      exact Moves.refl _ _

theorem State.withWakeKey_moves (s : State) :
    Moves [.crypt] s (State.withWakeKey s) := by
  unfold State.withWakeKey
  refine Moves.ite (fun _ => ?_) (fun _ => ?_)
  · refine Moves.step ?_ (Moves.mono (by decide) (State.modCrypt_movesAll _ _ (fun _ => by exact Crypt.keeps_of rfl rfl rfl)))
    exact Moves.refl _ _
  · refine Moves.step ?_ (Moves.mono (by decide) (State.verifyWake_moves _))
    exact Moves.refl _ _

theorem doSpiWakeFrame_moves (bs : List Byte) (s : State) :
    Moves [.evc, .psc, .pad, .mbx, .fab, .rel, .crypt, .ledger] s (doSpiWakeFrame bs s) := by
  unfold doSpiWakeFrame
  refine Moves.ite (fun _ => ?_) (fun _ => ?_)
  · refine Moves.step ?_ (Moves.mono (by decide) (State.drive_moves _ _))
    exact Moves.refl _ _
  · refine Moves.ite (fun _ => ?_) (fun _ => ?_)
    · refine Moves.step ?_ (Moves.mono (by decide) (State.drive_moves _ _))
      refine Moves.ite (fun _ => ?_) (fun _ => ?_)
      · refine Moves.step ?_ (Moves.mono (by decide) (State.spiRefused_moves _ _))
        exact Moves.refl _ _
      · exact Moves.refl _ _
    · try extract_lets +onlyGivenNames x0
      try clear_value x0
      extract_lets +onlyGivenNames x1
      have hx1 : Moves [.evc, .psc, .pad, .mbx, .fab, .rel, .crypt, .ledger] s x1 := by
        refine Moves.step ?_ (Moves.mono (by decide) (State.drive_moves _ _))
        refine Moves.step ?_ (Moves.mono (by decide) (State.withWakeKey_moves _))
        exact Moves.refl _ _
      clear_value x1
      try extract_lets +onlyGivenNames x2
      try clear_value x2
      refine Moves.ite (fun _ => ?_) (fun _ => ?_)
      · refine Moves.ite (fun _ => ?_) (fun _ => ?_)
        · refine Moves.step ?_ (Moves.mono (by decide) (State.wakeVerified_moves _ _ _))
          exact hx1
        · exact hx1
      · refine Moves.step ?_ (Moves.mono (by decide) (State.modPsc_movesAll _ _ (fun _ => by exact Psc.keeps_of rfl)))
        exact hx1

theorem State.mgmtDropped_moves (port : Nat) (s : State) :
    Moves [.evc, .mbx, .net] s (State.mgmtDropped port s) := by
  unfold State.mgmtDropped
  refine Moves.step ?_ (Moves.mono (by decide) (State.raise_moves _ _ _))
  refine Moves.step ?_ (Moves.mono (by decide) (State.modStat_moves _ _ _))
  refine Moves.step ?_ (Moves.mono (by decide) (State.modMbx_movesAll _ _ (fun _ => by exact Mbx.keeps_of rfl)))
  exact Moves.refl _ _

theorem State.mgmtServe_moves (p : List Byte) (s : State) :
    Moves [.tbu, .tmr, .evc, .psc, .pad, .mbx, .boot, .fab, .radio, .rel, .crypt, .keys, .ledger, .net, .mem, .free] s (State.mgmtServe p s).2 := by
  show MovesSnd _ _ _
  unfold State.mgmtServe
  try extract_lets +onlyGivenNames x0
  try clear_value x0
  try extract_lets +onlyGivenNames x1
  try clear_value x1
  try extract_lets +onlyGivenNames x2
  try clear_value x2
  refine MovesSnd.ite (fun _ => ?_) (fun _ => ?_)
  · refine MovesSnd.ite (fun _ => ?_) (fun _ => ?_)
    · show Moves _ _ _
      refine Moves.step ?_ (Moves.mono (by decide) (writeRange_moves _ _ _ _))
      exact Moves.refl _ _
    · extract_lets +onlyGivenNames x3
      have hx3 : MovesSnd [.tbu, .tmr, .evc, .psc, .pad, .mbx, .boot, .fab, .radio, .rel, .crypt, .keys, .ledger, .net, .mem, .free] s x3 := by
        refine MovesSnd.step ?_ (Moves.mono (by decide) (readRange_moves _ _ _ _))
        exact Moves.refl _ _
      clear_value x3
      show Moves _ _ _
      show MovesSnd _ _ _
      exact hx3
  · show Moves _ _ _
    refine Moves.ite (fun _ => ?_) (fun _ => ?_)
    · refine Moves.step ?_ (Moves.mono (by decide) (State.wakeSource_moves _ _))
      exact Moves.refl _ _
    · exact Moves.refl _ _

theorem State.sendReply_moves (addr srcPort port : Nat) (p reply : List Byte) (s : State) :
    Moves [.mbx, .net] s (State.sendReply addr srcPort port p reply s) := by
  unfold State.sendReply
  refine Moves.step ?_ (Moves.mono (by decide) (State.modStat_moves _ _ _))
  refine Moves.step ?_ (Moves.mono (by decide) (State.modMbx_movesAll _ _ (fun _ => by exact Mbx.keeps_of rfl)))
  exact Moves.refl _ _

theorem State.peerSeen_moves (port addr srcPort : Nat) (s : State) :
    Moves [.evc] s (State.peerSeen port addr srcPort s) := by
  unfold State.peerSeen
  refine Moves.step ?_ (Moves.mono (by decide) (State.modEvc_movesAll _ _ (fun _ => by exact Evc.keeps_of rfl rfl rfl rfl)))
  exact Moves.refl _ _

theorem doMgmtRequest_moves (port : Nat) (protectedFrame : Bool) (addr srcPort : Nat) (p : List Byte) (s : State) :
    Moves [.tbu, .tmr, .evc, .psc, .pad, .mbx, .boot, .fab, .radio, .rel, .crypt, .keys, .ledger, .net, .mem, .free] s (doMgmtRequest port protectedFrame addr srcPort p s) := by
  unfold doMgmtRequest
  refine Moves.ite (fun _ => ?_) (fun _ => ?_)
  · exact Moves.refl _ _
  · refine Moves.ite (fun _ => ?_) (fun _ => ?_)
    · refine Moves.step ?_ (Moves.mono (by decide) (doFrameDiscarded_moves _ _))
      exact Moves.refl _ _
    · extract_lets +onlyGivenNames x0
      have hx0 : Moves [.tbu, .tmr, .evc, .psc, .pad, .mbx, .boot, .fab, .radio, .rel, .crypt, .keys, .ledger, .net, .mem, .free] s x0 := by
        refine Moves.step ?_ (Moves.mono (by decide) (State.rxFrame_moves _ _))
        exact Moves.refl _ _
      clear_value x0
      refine Moves.ite (fun _ => ?_) (fun _ => ?_)
      · refine Moves.step ?_ (Moves.mono (by decide) (State.mgmtDropped_moves _ _))
        exact hx0
      · extract_lets +onlyGivenNames x1
        have hx1 : Moves [.tbu, .tmr, .evc, .psc, .pad, .mbx, .boot, .fab, .radio, .rel, .crypt, .keys, .ledger, .net, .mem, .free] s x1 := by
          refine Moves.step ?_ (Moves.mono (by decide) (State.peerSeen_moves _ _ _ _))
          exact hx0
        clear_value x1
        split
        · refine Moves.step ?_ (Moves.mono (by decide) (State.wakeSource_moves _ _))
          refine Moves.step ?_ (Moves.mono (by decide) (State.modStat_moves _ _ _))
          refine Moves.step ?_ (Moves.mono (by decide) (State.modMbx_movesAll _ _ (fun _ => by exact Mbx.keeps_of rfl)))
          exact hx1
        · extract_lets +onlyGivenNames x2
          have hx2 : MovesSnd [.tbu, .tmr, .evc, .psc, .pad, .mbx, .boot, .fab, .radio, .rel, .crypt, .keys, .ledger, .net, .mem, .free] s x2 := by
            refine MovesSnd.step ?_ (Moves.mono (by decide) (State.mgmtServe_moves _ _))
            exact hx1
          clear_value x2
          refine Moves.step ?_ (Moves.mono (by decide) (State.wakeSource_moves _ _))
          refine Moves.step ?_ (Moves.mono (by decide) (State.sendReply_moves _ _ _ _ _ _))
          show MovesSnd _ _ _
          exact hx2

end Sys2Proof.Machine
end

