-- ==== Sys2Proof/Laws/Resilience.lean ====
section
/-!
SUPPORT. What the operations of Machine/Resilience.lean leave unchanged, and what they keep.
-/
namespace Sys2Proof.Machine

theorem State.cipherAlarm_moves (s : State) :
    Moves [.evc, .sess, .crypt, .ledger, .health, .free] s (State.cipherAlarm s) := by
  unfold State.cipherAlarm
  extract_lets +onlyGivenNames x0
  have hx0 : Moves [.evc, .sess, .crypt, .ledger, .health, .free] s x0 := by
    refine Moves.step ?_ (Moves.mono (by decide) (State.startSelfTest_moves _ _))
    refine Moves.ite (fun _ => ?_) (fun _ => ?_)
    · exact Moves.refl _ _
    · refine Moves.step ?_ (Moves.mono (by decide) (State.avalanche_moves _))
      exact Moves.refl _ _
  clear_value x0
  extract_lets +onlyGivenNames x1
  have hx1 : Moves [.evc, .sess, .crypt, .ledger, .health, .free] s x1 := by
    refine Moves.step ?_ (Moves.mono (by decide) (State.modCrypt_moves _ _ (by simp +contextual [Crypt.Keeps, Crypt.Shaped] <;> intros <;> omega)))
    exact hx0
  clear_value x1
  refine Moves.step ?_ (Moves.mono (by decide) (State.raise_moves _ _ _))
  refine Moves.step ?_ (Moves.mono (by decide) (State.modCrypt_movesAll _ _ (fun _ => by exact Crypt.keeps_of rfl rfl rfl)))
  exact hx1

theorem State.wakeForTest_moves (s : State) :
    Moves [.evc, .psc, .pad, .mbx, .fab, .rel, .ledger] s (State.wakeForTest s) := by
  unfold State.wakeForTest
  refine Moves.ite (fun _ => ?_) (fun _ => ?_)
  · exact Moves.refl _ _
  · refine Moves.step ?_ (Moves.mono (by decide) (State.wakeSource_moves _ _))
    refine Moves.step ?_ (Moves.mono (by decide) (State.modPsc_movesAll _ _ (fun _ => by exact Psc.keeps_of rfl)))
    exact Moves.refl _ _

theorem doDatapathMismatch_moves (chan : Option Nat) (again : Bool) (s : State) :
    Moves [.evc, .psc, .pad, .mbx, .fab, .sess, .rel, .crypt, .ledger, .health, .free] s (doDatapathMismatch chan again s) := by
  unfold doDatapathMismatch
  refine Moves.ite (fun _ => ?_) (fun _ => ?_)
  · exact Moves.refl _ _
  · refine Moves.ite (fun _ => ?_) (fun _ => ?_)
    · refine Moves.ite (fun _ => ?_) (fun _ => ?_)
      · refine Moves.step ?_ (Moves.mono (by decide) (State.wakeForTest_moves _))
        refine Moves.step ?_ (Moves.mono (by decide) (State.cipherAlarm_moves _))
        exact Moves.refl _ _
      · refine Moves.step ?_ (Moves.mono (by decide) (State.cipherAlarm_moves _))
        exact Moves.refl _ _
    · refine Moves.step ?_ (Moves.mono (by decide) (State.healthFree_moves _ _ _ _))
      split
      · refine Moves.step ?_ (Moves.mono (by decide) (State.modChan_moves _ _ _))
        exact Moves.refl _ _
      · exact Moves.refl _ _

theorem State.markRecomputed_moves (s : State) :
    Moves [.crypt] s (State.markRecomputed s) := by
  unfold State.markRecomputed
  try extract_lets +onlyGivenNames x0
  try clear_value x0
  refine Moves.step ?_ (Moves.mono (by decide) (State.modCrypt_moves _ _ (by simp +contextual [Crypt.Keeps, Crypt.Shaped] <;> intros <;> omega)))
  exact Moves.refl _ _

theorem State.noteAlarm_moves (s : State) :
    Moves [.evc, .ledger, .health, .free] s (State.noteAlarm s) := by
  unfold State.noteAlarm
  refine Moves.step ?_ (Moves.mono (by decide) (State.healthFree_moves _ _ _ _))
  refine Moves.step ?_ (Moves.mono (by decide) (State.ledgerAdd_moves _ _ _ _))
  exact Moves.refl _ _

theorem State.selfTestPass_moves (s : State) :
    Moves [.evc, .psc, .mbx, .fab, .parts, .pop, .sess, .crypt, .keys, .ledger, .health, .net, .mem, .free] s (State.selfTestPass s) := by
  unfold State.selfTestPass
  extract_lets +onlyGivenNames x0
  have hx0 : Moves [.evc, .psc, .mbx, .fab, .parts, .pop, .sess, .crypt, .keys, .ledger, .health, .net, .mem, .free] s x0 := by
    refine Moves.step ?_ (Moves.mono (by decide) (State.raise_moves _ _ _))
    refine Moves.step ?_ (Moves.mono (by decide) (State.drawWrapKey_moves _))
    refine Moves.step ?_ (Moves.mono (by decide) (State.modCrypt_movesAll _ _ (fun _ => by exact Crypt.keeps_of rfl rfl rfl)))
    exact Moves.refl _ _
  clear_value x0
  extract_lets +onlyGivenNames x1
  have hx1 : Moves [.evc, .psc, .mbx, .fab, .parts, .pop, .sess, .crypt, .keys, .ledger, .health, .net, .mem, .free] s x1 := by
    refine Moves.ite (fun _ => ?_) (fun _ => ?_)
    · refine Moves.step ?_ (Moves.mono (by decide) (State.noteAlarm_moves _))
      refine Moves.step ?_ (Moves.mono (by decide) (State.markRecomputed_moves _))
      exact hx0
    · exact hx0
  clear_value x1
  extract_lets +onlyGivenNames x2
  have hx2 : Moves [.evc, .psc, .mbx, .fab, .parts, .pop, .sess, .crypt, .keys, .ledger, .health, .net, .mem, .free] s x2 := by
    refine Moves.ite (fun _ => ?_) (fun _ => ?_)
    · refine Moves.step ?_ (Moves.mono (by decide) (State.modCrypt_movesAll _ _ (fun _ => by exact Crypt.keeps_of rfl rfl rfl)))
      refine Moves.step ?_ (Moves.mono (by decide) (State.zeroise_moves _))
      exact hx1
    · exact hx1
  clear_value x2
  refine Moves.step ?_ (Moves.mono (by decide) (State.serveMacsec_moves _))
  refine Moves.step ?_ (Moves.mono (by decide) (State.serveSealed_moves _))
  refine Moves.ite (fun _ => ?_) (fun _ => ?_)
  · refine Moves.step ?_ (Moves.mono (by decide) (State.modPsc_movesAll _ _ (fun _ => by exact Psc.keeps_of rfl)))
    refine Moves.step ?_ (Moves.mono (by decide) (State.modCrypt_movesAll _ _ (fun _ => by exact Crypt.keeps_of rfl rfl rfl)))
    exact hx2
  · exact hx2

theorem doEngineSelfTestEnd_moves (passed : Bool) (s : State) :
    Moves [.tbu, .tmr, .evc, .psc, .pad, .mbx, .boot, .cfg, .fab, .parts, .lf, .pop, .radio, .sess, .rel, .crypt, .keys, .met, .ledger, .health, .net, .cores, .mem, .free] s (doEngineSelfTestEnd passed s) := by
  unfold doEngineSelfTestEnd
  refine Moves.ite (fun _ => ?_) (fun _ => ?_)
  · exact Moves.refl _ _
  · refine Moves.ite (fun _ => ?_) (fun _ => ?_)
    · refine Moves.step ?_ (Moves.mono (by decide) (State.selfTestPass_moves _))
      exact Moves.refl _ _
    · refine Moves.step ?_ (Moves.mono (by decide) (State.recoveryReset_moves _ _))
      exact Moves.refl _ _

theorem doVcoreUndervoltage_moves (s : State) :
    Moves [.tbu, .tmr, .evc, .psc, .pad, .mbx, .boot, .cfg, .fab, .parts, .lf, .pop, .radio, .sess, .rel, .crypt, .keys, .met, .ledger, .health, .net, .cores, .mem] s (doVcoreUndervoltage s) := by
  unfold doVcoreUndervoltage
  refine Moves.ite (fun _ => ?_) (fun _ => ?_)
  · refine Moves.step ?_ (Moves.mono (by decide) (State.recoveryReset_moves _ _))
    exact Moves.refl _ _
  · exact Moves.refl _ _

theorem doTempoGovernorUpdate_moves (tempos : List Nat) (demand : Nat) (s : State) :
    Moves [.evc, .ledger, .health, .power, .free] s (doTempoGovernorUpdate tempos demand s) := by
  unfold doTempoGovernorUpdate
  try extract_lets +onlyGivenNames x0
  try clear_value x0
  try extract_lets +onlyGivenNames x1
  try clear_value x1
  try extract_lets +onlyGivenNames x2
  try clear_value x2
  try extract_lets +onlyGivenNames x3
  try clear_value x3
  try extract_lets +onlyGivenNames x4
  try clear_value x4
  try extract_lets +onlyGivenNames x5
  try clear_value x5
  extract_lets +onlyGivenNames x6
  have hx6 : Moves [.evc, .ledger, .health, .power, .free] s x6 := by
    refine Moves.step ?_ (Moves.mono (by decide) (State.modPower_movesAll _ _ (fun _ => by exact Power.keeps_of rfl)))
    exact Moves.refl _ _
  clear_value x6
  split
  · exact hx6
  · refine Moves.ite (fun _ => ?_) (fun _ => ?_)
    · exact hx6
    · refine Moves.step ?_ (Moves.mono (by decide) (State.raise_moves _ _ _))
      refine Moves.step ?_ (Moves.mono (by decide) (State.healthFree_moves _ _ _ _))
      refine Moves.step ?_ (Moves.mono (by decide) (State.modPower_movesAll _ _ (fun _ => by exact Power.keeps_of rfl)))
      exact hx6

theorem State.linkFail_moves (link : Nat) (s : State) :
    Moves [.tbu, .tmr, .evc, .psc, .pad, .mbx, .boot, .cfg, .fab, .parts, .lf, .pop, .radio, .sess, .rel, .crypt, .keys, .met, .ledger, .health, .net, .power, .cores, .mem] s (State.linkFail link s) := by
  unfold State.linkFail
  try extract_lets +onlyGivenNames x0
  try clear_value x0
  extract_lets +onlyGivenNames x1
  have hx1 : Moves [.tbu, .tmr, .evc, .psc, .pad, .mbx, .boot, .cfg, .fab, .parts, .lf, .pop, .radio, .sess, .rel, .crypt, .keys, .met, .ledger, .health, .net, .power, .cores, .mem] s x1 := by
    refine Moves.step ?_ (Moves.mono (by decide) (State.modPower_movesAll _ _ (fun _ => by exact Power.keeps_of rfl)))
    exact Moves.refl _ _
  clear_value x1
  refine Moves.ite (fun _ => ?_) (fun _ => ?_)
  · refine Moves.step ?_ (Moves.mono (by decide) (State.recoveryReset_moves _ _))
    refine Moves.step ?_ (Moves.mono (by decide) (State.modPower_movesAll _ _ (fun _ => by exact Power.keeps_of rfl)))
    exact hx1
  · exact hx1

theorem doDieLinkCrcFail_moves (link : Nat) (again failed : Bool) (s : State) :
    Moves [.tbu, .tmr, .evc, .psc, .pad, .mbx, .boot, .cfg, .fab, .parts, .lf, .pop, .radio, .sess, .rel, .crypt, .keys, .met, .ledger, .health, .net, .power, .cores, .mem, .free] s (doDieLinkCrcFail link again failed s) := by
  unfold doDieLinkCrcFail
  refine Moves.ite (fun _ => ?_) (fun _ => ?_)
  · exact Moves.refl _ _
  · extract_lets +onlyGivenNames x0
    have hx0 : Moves [.tbu, .tmr, .evc, .psc, .pad, .mbx, .boot, .cfg, .fab, .parts, .lf, .pop, .radio, .sess, .rel, .crypt, .keys, .met, .ledger, .health, .net, .power, .cores, .mem, .free] s x0 := by
      refine Moves.step ?_ (Moves.mono (by decide) (State.healthFree_moves _ _ _ _))
      exact Moves.refl _ _
    clear_value x0
    refine Moves.ite (fun _ => ?_) (fun _ => ?_)
    · exact hx0
    · refine Moves.ite (fun _ => ?_) (fun _ => ?_)
      · refine Moves.step ?_ (Moves.mono (by decide) (State.linkFail_moves _ _))
        exact hx0
      · refine Moves.step ?_ (Moves.mono (by decide) (State.healthFree_moves _ _ _ _))
        exact hx0

end Sys2Proof.Machine
end

