-- ==== Sys2Proof/Laws/Results.lean ====
section
/-!
SUPPORT. What posting a result and carrying a command out do: one law for each case.
-/
namespace Sys2Proof.Machine

theorem Only.part {ps : List Part} {s t : State} (h : Only ps s t) (p : Part) (hp : p ∉ ps) : p.Same s t := h p hp

theorem Only.mbx {ps : List Part} {s t : State} (h : Only ps s t) (hp : Part.mbx ∉ ps) : t.mbx = s.mbx := h _ hp

@[simp] theorem State.box_modBox {s : State} {n : Nat} (f : Mailbox → Mailbox) (h : n < s.mbx.boxes.length) :
    (s.modBox n f).box n = f (s.box n) := by
  simp [State.box, State.modBox, List.getD_eq_getElem?_getD, h]

theorem State.box_modBox_ne {s : State} {n m : Nat} (f : Mailbox → Mailbox) (h : m ≠ n) : (s.modBox n f).box m = s.box m := by
  simp [State.box, State.modBox, List.getD_eq_getElem?_getD, Ne.symm h]

/-- A mailbox that is not FREE exists. -/
theorem State.box_exists {s : State} {n : Nat} (h : (s.box n).st ≠ .free) : n < s.mbx.boxes.length := by
  refine Nat.lt_of_not_le fun hn => h ?_
  have : s.mbx.boxes[n]? = none := List.getElem?_eq_none hn
  simp [State.box, List.getD_eq_getElem?_getD, this]

theorem State.box_of_mbx {s t : State} (h : t.mbx = s.mbx) (n : Nat) : t.box n = s.box n := by unfold State.box; rw [h]

/-- The result that posting leaves in an existing mailbox. -/
theorem State.postWith_box {s : State} {n status consumed : Nat} {body : List Byte} (h : n < s.mbx.boxes.length) :
    (s.postWith n status body consumed).box n =
      { s.box n with
        st := .posted, started := false, waiting := false, committed := false, reads := 0, winHeld := none
        res := resultWords (s.box n) status consumed (s.now % 2 ^ 32) body } := by
  have hw : ∀ w : Option Nat, (s.winFree w).mbx = s.mbx := fun w => (State.winFree_moves w s).1.mbx (by decide)
  have key : ∀ w : Option Nat, ((s.winFree w).modBox n fun x =>
      { x with
        st := .posted, started := false, waiting := false, committed := false, reads := 0, winHeld := none
        res := resultWords (s.box n) status consumed (s.now % 2 ^ 32) body }).box n =
      { s.box n with
        st := .posted, started := false, waiting := false, committed := false, reads := 0, winHeld := none
        res := resultWords (s.box n) status consumed (s.now % 2 ^ 32) body } := by
    intro w
    rw [State.box_modBox _ (by rw [hw]; exact h), State.box_of_mbx (hw w)]
  unfold State.postWith
  dsimp only
  split
  · exact key _
  · rw [State.box_of_mbx ((State.raise_moves _ _ _).1.mbx (by decide))]; exact key _

/-- What `Posted` says of a posting. -/
theorem State.postWith_posted {s : State} {n status consumed : Nat} {body : List Byte} (h : n < s.mbx.boxes.length) :
    Posted s (s.postWith n status body consumed) n status consumed body := by
  unfold Posted
  rw [State.postWith_box h]
  exact ⟨rfl, rfl, rfl, rfl⟩

theorem State.post_completed {s : State} {n status : Nat} {body : List Byte} (h : n < s.mbx.boxes.length)
    (hc : completes status = true) : Completed s (s.post n status body) n status body := by
  unfold State.post
  rw [if_pos hc]
  exact State.postWith_posted h

theorem State.post_refused {s : State} {n status : Nat} {body : List Byte} (h : n < s.mbx.boxes.length)
    (hc : completes status = false) : RefusedWith s (s.post n status body) n status := by
  unfold State.post
  rw [hc]
  exact State.postWith_posted h

/-- A posting depends only on the mailbox and the time of the state it is made in. -/
theorem Posted.of_same {s u t : State} {mb status consumed : Nat} {body : List Byte} (h : Posted u t mb status consumed body)
    (hb : (u.box mb).run = (s.box mb).run) (hn : u.now = s.now) : Posted s t mb status consumed body := by
  have hs : (u.box mb).seq = (s.box mb).seq := by unfold Mailbox.seq; rw [hb]
  obtain ⟨a, b, c, d⟩ := h
  refine ⟨a, b, c.trans hb, ?_⟩
  rw [d, hn]; unfold resultWords; rw [hs]

theorem State.runs_issued {s : State} {mb op : Nat} (h : s.runs mb op = true) : (s.box mb).st = .issued := by
  unfold State.runs at h
  simp only [Bool.and_eq_true, decide_eq_true_eq] at h
  exact h.1.1.1

theorem State.runs_exists {s : State} {mb op : Nat} (h : s.runs mb op = true) : mb < s.mbx.boxes.length :=
  State.box_exists (by rw [State.runs_issued h]; decide)

/-- A command that is not started, or whose role is moving, leaves the state as it is. -/
theorem State.perform_waits {mb op : Nat} {check act} {s : State}
    (h : s.runs mb op = false ∨ s.rolePlaced (roleOf op) = false) : s.perform mb op check act = s := by
  unfold State.perform
  rw [if_pos]
  cases h with
  | inl h => simp [h]
  | inr h => simp [h]

theorem State.perform_late {mb op : Nat} {check act} {s : State} (hr : s.runs mb op = true)
    (hp : s.rolePlaced (roleOf op) = true) (hl : (s.box mb).limit < s.now) :
    s.perform mb op check act = s.post mb Status.deadlineMissed [] := by
  unfold State.perform
  rw [if_neg (by simp [hr, hp]), if_pos hl]

theorem State.perform_refused {mb op st : Nat} {check act} {s : State} (h : Started s mb op)
    (hc : check (s.cmdView mb) (s.box mb) = some st) : s.perform mb op check act = s.post mb st [] := by
  obtain ⟨hr, hp, hl⟩ := h
  unfold State.perform
  rw [if_neg (by simp [hr, hp]), if_neg (by omega), hc]

theorem State.perform_acts {mb op : Nat} {check act} {s : State} (h : Started s mb op)
    (hc : check (s.cmdView mb) (s.box mb) = none) :
    s.perform mb op check act = s.cmdBack mb (act (s.box mb) (s.cmdView mb)) := by
  obtain ⟨hr, hp, hl⟩ := h
  unfold State.perform
  rw [if_neg (by simp [hr, hp]), if_neg (by omega), hc]

@[simp] theorem State.cmdView_box (s : State) (mb n : Nat) : (s.cmdView mb).box n = s.box n :=
  State.box_of_mbx ((State.cmdView_moves s mb).1.mbx (by decide)) n

@[simp] theorem State.cmdView_tbu (s : State) (mb : Nat) : (s.cmdView mb).tbu = s.tbu :=
  (State.cmdView_moves s mb).1 .tbu (by decide)

@[simp] theorem State.cmdView_now (s : State) (mb : Nat) : (s.cmdView mb).now = s.now := by unfold State.now; simp

theorem State.cmdBack_mod (s : State) (mb : Nat) (t : State) : Only [.cfg] t (s.cmdBack mb t) := by
  unfold State.cmdBack
  split
  · exact (State.modCfg_moves _ _).1
  · exact Only.refl _ _

@[simp] theorem State.cmdBack_box (s : State) (mb n : Nat) (t : State) : (s.cmdBack mb t).box n = t.box n :=
  State.box_of_mbx ((State.cmdBack_mod s mb t).mbx (by decide)) n

/-- What a command's effect posts stands in the state after the command. -/
theorem Posted.back {s t : State} {mb status consumed : Nat} {body : List Byte}
    (h : Posted (s.cmdView mb) t mb status consumed body) : Posted s (s.cmdBack mb t) mb status consumed body := by
  have h := h.of_same (s := s) (by simp) (by simp)
  unfold Posted at *
  simpa using h

end Sys2Proof.Machine
end

