-- ==== Sys2Proof/Laws/Rows1.lean ====
section
/-!
SUPPORT. What each command leaves unchanged and what it keeps of the invariant, part 1 of the rows.
-/
namespace Sys2Proof.Machine

theorem execPowerOnReset_moves (s : State) {t : State} (h : execPowerOnReset s = .next t) :
    Moves [.tbu, .tmr, .evc, .psc, .pad, .mbx, .boot, .cfg, .fab, .parts, .lf, .pop, .radio, .sess, .rel, .crypt, .keys, .met, .ledger, .health, .net, .power, .cores, .tamper, .jtag, .mem, .free] s t := by
  unfold execPowerOnReset at h
  cases h
  refine Moves.step ?_ (Moves.mono (by decide) (doPowerOnReset_moves _))
  exact Moves.refl _ _

theorem execRstNAsserted_moves (lowNs : Nat) (s : State) {t : State} (h : execRstNAsserted lowNs s = .next t) :
    Moves [.tbu, .tmr, .evc, .psc, .pad, .mbx, .boot, .cfg, .fab, .parts, .lf, .pop, .radio, .sess, .rel, .crypt, .keys, .met, .ledger, .health, .net, .cores, .mem, .free] s t := by
  unfold execRstNAsserted at h
  cases h
  refine Moves.step ?_ (Moves.mono (by decide) (doRstNAsserted_moves _ _))
  exact Moves.refl _ _

theorem execResetRelease_moves (r : BootReport) (s : State) {t : State} (h : execResetRelease r s = .next t) :
    Moves [.tbu, .tmr, .evc, .psc, .pad, .mbx, .boot, .cfg, .fab, .parts, .lf, .pop, .radio, .sess, .rel, .crypt, .keys, .met, .ledger, .health, .net, .cores, .tamper, .mem, .free] s t := by
  unfold execResetRelease at h
  split at h
  · cases h
  · cases h
    exact Moves.mono (by decide) (doResetRelease_moves _ _)

theorem execBootSelfTestRetry_moves (report : BootReport) (s : State) {t : State} (h : execBootSelfTestRetry report s = .next t) :
    Moves [.tbu, .tmr, .evc, .psc, .pad, .mbx, .boot, .cfg, .fab, .parts, .lf, .pop, .radio, .sess, .rel, .crypt, .keys, .met, .ledger, .health, .net, .cores, .tamper, .mem, .free] s t := by
  unfold execBootSelfTestRetry at h
  cases h
  refine Moves.step ?_ (Moves.mono (by decide) (doBootSelfTestRetry_moves _ _))
  exact Moves.refl _ _

theorem execBootMonitorExpiry_moves (report : BootReport) (s : State) {t : State} (h : execBootMonitorExpiry report s = .next t) :
    Moves [.tbu, .tmr, .evc, .psc, .pad, .mbx, .boot, .cfg, .fab, .parts, .lf, .pop, .radio, .sess, .rel, .crypt, .keys, .met, .ledger, .health, .net, .cores, .tamper, .mem, .free] s t := by
  unfold execBootMonitorExpiry at h
  cases h
  refine Moves.step ?_ (Moves.mono (by decide) (doBootMonitorExpiry_moves _ _))
  exact Moves.refl _ _

theorem execTrialConfirmation_moves (s : State) {t : State} (h : execTrialConfirmation s = .next t) :
    Moves [.evc, .boot, .ledger] s t := by
  unfold execTrialConfirmation at h
  cases h
  refine Moves.step ?_ (Moves.mono (by decide) (doTrialConfirmation_moves _))
  exact Moves.refl _ _

theorem execLineLoss_moves (s : State) {t : State} (h : execLineLoss s = .next t) :
    Moves [.tbu, .tmr, .evc, .psc, .pad, .mbx, .boot, .cfg, .fab, .parts, .lf, .pop, .radio, .sess, .rel, .crypt, .keys, .met, .ledger, .health, .net, .power, .cores, .tamper, .jtag, .mem, .free] s t := by
  unfold execLineLoss at h
  cases h
  refine Moves.step ?_ (Moves.mono (by decide) (doLineLoss_moves _))
  exact Moves.refl _ _

theorem execLinePowerReturn_moves (s : State) {t : State} (h : execLinePowerReturn s = .next t) :
    Moves [.tbu, .tmr, .evc, .psc, .pad, .mbx, .boot, .cfg, .fab, .parts, .lf, .pop, .radio, .sess, .rel, .crypt, .keys, .met, .ledger, .health, .net, .power, .cores, .tamper, .jtag, .mem, .free] s t := by
  unfold execLinePowerReturn at h
  cases h
  refine Moves.step ?_ (Moves.mono (by decide) (doLinePowerReturn_moves _))
  exact Moves.refl _ _

theorem execVresExhausted_moves (s : State) {t : State} (h : execVresExhausted s = .next t) :
    Moves [.tbu, .psc] s t := by
  unfold execVresExhausted at h
  cases h
  refine Moves.ite (fun _ => ?_) (fun _ => ?_)
  · exact Moves.refl _ _
  · refine Moves.step ?_ (Moves.mono (by decide) (State.modPsc_movesAll _ _ (fun _ => by exact Psc.keeps_of rfl)))
    refine Moves.step ?_ (Moves.mono (by decide) (State.modTbu_movesAll _ _ (fun _ => by exact Tbu.keeps_of rfl rfl rfl rfl rfl rfl)))
    exact Moves.refl _ _

theorem execVresMeasurement_moves (mv : Nat) (s : State) {t : State} (h : execVresMeasurement mv s = .next t) :
    Moves [.evc, .psc, .pad, .mbx, .fab, .rel, .ledger] s t := by
  unfold execVresMeasurement at h
  cases h
  refine Moves.ite (fun _ => ?_) (fun _ => ?_)
  · refine Moves.step ?_ (Moves.mono (by decide) (doVresMeasurement_moves _ _))
    exact Moves.refl _ _
  · exact Moves.refl _ _

theorem execPwrStatus_moves (mb : Nat) (s : State) {t : State} (h : execPwrStatus mb s = .next t) :
    Moves [.evc, .mbx, .fab, .free] s t := by
  unfold execPwrStatus at h
  cases h
  refine Moves.step ?_ (State.perform_moves (by decide) (fun _ x0 => ?_))
  · exact Moves.refl _ _
  · refine Moves.step ?_ (Moves.mono (by decide) (State.drawn_moves _))
    refine Moves.step ?_ (Moves.mono (by decide) (State.post_moves _ _ _ _))
    exact Moves.refl _ _

theorem execPwrSleep_moves (mb : Nat) (s : State) {t : State} (h : execPwrSleep mb s = .next t) :
    Moves [.evc, .psc, .pad, .mbx, .fab, .radio, .sess, .rel, .ledger] s t := by
  unfold execPwrSleep at h
  cases h
  refine Moves.ite (fun _ => ?_) (fun _ => ?_)
  · exact Moves.refl _ _
  · refine Moves.step ?_ (State.perform_moves (by decide) (fun _ x0 => ?_))
    · exact Moves.refl _ _
    · try extract_lets +onlyGivenNames x1
      try clear_value x1
      refine Moves.step ?_ (Moves.mono (by decide) (State.beginEntry_moves _ _ _))
      refine Moves.step ?_ (Moves.mono (by decide) (State.modPsc_moves _ _ (by intro _; exact Psc.enable_shaped rfl)))
      refine Moves.step ?_ (Moves.mono (by decide) (State.wait_moves _ _))
      exact Moves.refl _ _

theorem execSleepCommit_moves (s : State) {t : State} (h : execSleepCommit s = .next t) :
    Moves [.tbu, .evc, .psc, .pad, .mbx, .fab, .parts, .rel, .crypt, .met, .ledger, .net, .free] s t := by
  unfold execSleepCommit at h
  cases h
  refine Moves.step ?_ (Moves.mono (by decide) (doSleepCommit_moves _))
  exact Moves.refl _ _

theorem execVeto_moves (domain : Nat) (s : State) {t : State} (h : execVeto domain s = .next t) :
    Moves [.evc, .psc, .pad, .mbx, .fab, .rel, .ledger] s t := by
  unfold execVeto at h
  cases h
  refine Moves.step ?_ (Moves.mono (by decide) (doVeto_moves _ _))
  exact Moves.refl _ _

theorem execDomainGated_moves (s : State) {t : State} (h : execDomainGated s = .next t) :
    Moves [.tbu, .evc, .psc, .pad, .mbx, .fab, .rel, .met, .ledger, .net, .free] s t := by
  unfold execDomainGated at h
  cases h
  refine Moves.step ?_ (Moves.mono (by decide) (doDomainGated_moves _))
  exact Moves.refl _ _

theorem execDriftIdleEntry_moves (s : State) {t : State} (h : execDriftIdleEntry s = .next t) :
    Moves [.tbu, .evc, .psc, .parts, .crypt, .met, .ledger, .net, .free] s t := by
  unfold execDriftIdleEntry at h
  cases h
  refine Moves.step ?_ (Moves.mono (by decide) (doDriftIdleEntry_moves _))
  exact Moves.refl _ _

theorem execWakeSource_moves (code : Nat) (s : State) {t : State} (h : execWakeSource code s = .next t) :
    Moves [.evc, .psc, .pad, .mbx, .fab, .rel, .ledger] s t := by
  unfold execWakeSource at h
  cases h
  refine Moves.ite (fun _ => ?_) (fun _ => ?_)
  · refine Moves.step ?_ (Moves.mono (by decide) (State.wakeSource_moves _ _))
    exact Moves.refl _ _
  · exact Moves.refl _ _

theorem execWakeComplete_moves (s : State) {t : State} (h : execWakeComplete s = .next t) :
    Moves [.evc, .psc, .pad, .mbx, .fab, .parts, .lf, .pop, .radio, .sess, .rel, .keys, .ledger, .health, .net, .free] s t := by
  unfold execWakeComplete at h
  cases h
  refine Moves.step ?_ (Moves.mono (by decide) (doWakeComplete_moves _))
  exact Moves.refl _ _

theorem execLinkActivity_moves (port : Nat) (s : State) {t : State} (h : execLinkActivity port s = .next t) :
    Moves [.evc, .psc, .pad, .mbx, .fab, .rel, .ledger] s t := by
  unfold execLinkActivity at h
  cases h
  refine Moves.ite (fun _ => ?_) (fun _ => ?_)
  · refine Moves.step ?_ (Moves.mono (by decide) (State.wakeSource_moves _ _))
    exact Moves.refl _ _
  · exact Moves.refl _ _

theorem execEthernetWakeFrame_moves (port : Nat) (payload : List Byte) (s : State) {t : State} (h : execEthernetWakeFrame port payload s = .next t) :
    Moves [.evc, .psc, .pad, .mbx, .fab, .rel, .crypt, .ledger, .net] s t := by
  unfold execEthernetWakeFrame at h
  cases h
  refine Moves.step ?_ (Moves.mono (by decide) (doEthernetWakeFrame_moves _ _ _))
  exact Moves.refl _ _

theorem execPadFrzWrite_moves (w : Word) (s : State) {t : State} (h : execPadFrzWrite w s = .next t) :
    Moves [.tbu, .evc, .psc, .pad, .mbx, .fab, .radio, .rel, .ledger] s t := by
  unfold execPadFrzWrite at h
  cases h
  refine Moves.step ?_ (Moves.mono (by decide) (writeFrz_moves _ _))
  exact Moves.refl _ _

theorem execGpioEdge_moves (pin : Nat) (rising : Bool) (s : State) {t : State} (h : execGpioEdge pin rising s = .next t) :
    Moves [.evc, .psc, .pad, .mbx, .fab, .rel, .ledger] s t := by
  unfold execGpioEdge at h
  cases h
  refine Moves.step ?_ (Moves.mono (by decide) (doGpioEdge_moves _ _ _))
  exact Moves.refl _ _

theorem execFeedDeliveringChange_moves (feed : Nat) (on : Bool) (s : State) {t : State} (h : execFeedDeliveringChange feed on s = .next t) :
    Moves [.evc, .psc, .pad, .mbx, .fab, .parts, .lf, .pop, .radio, .sess, .rel, .keys, .ledger, .health, .power, .free] s t := by
  unfold execFeedDeliveringChange at h
  cases h
  refine Moves.step ?_ (Moves.mono (by decide) (doFeedDeliveringChange_moves _ _ _))
  exact Moves.refl _ _

theorem execFeedOv_moves (feed : Nat) (on : Bool) (s : State) {t : State} (h : execFeedOv feed on s = .next t) :
    Moves [.evc, .psc, .pad, .mbx, .fab, .parts, .lf, .pop, .radio, .sess, .rel, .keys, .ledger, .health, .power, .free] s t := by
  unfold execFeedOv at h
  cases h
  refine Moves.step ?_ (Moves.mono (by decide) (doFeedOv_moves _ _ _))
  exact Moves.refl _ _

theorem execSccpClassification_moves (feed : Nat) (s : State) {t : State} (h : execSccpClassification feed s = .next t) :
    Moves [.power] s t := by
  unfold execSccpClassification at h
  cases h
  refine Moves.ite (fun _ => ?_) (fun _ => ?_)
  · refine Moves.step ?_ (Moves.mono (by decide) (State.modPower_movesAll _ _ (fun _ => by exact Power.keeps_of rfl)))
    exact Moves.refl _ _
  · exact Moves.refl _ _

theorem execSccpClassWrite_moves (feed cls : Nat) (s : State) {t : State} (h : execSccpClassWrite feed cls s = .next t) :
    Moves [.evc, .mbx, .parts, .lf, .pop, .radio, .sess, .keys, .ledger, .health, .power, .free] s t := by
  unfold execSccpClassWrite at h
  cases h
  refine Moves.step ?_ (Moves.mono (by decide) (doSccpClassWrite_moves _ _ _))
  exact Moves.refl _ _

theorem execPdelayReq_moves (port : Nat) (s : State) {t : State} (h : execPdelayReq port s = .next t) :
    Moves [.tbu, .net] s t := by
  unfold execPdelayReq at h
  cases h
  refine Moves.step ?_ (Moves.mono (by decide) (doPdelayReq_moves _ _))
  exact Moves.refl _ _

theorem execMacsecRxFrame_moves (port : Nat) (frame : List Byte) (s : State) {t : State} (h : execMacsecRxFrame port frame s = .next t) :
    Moves [.crypt, .net] s t := by
  unfold execMacsecRxFrame at h
  cases h
  refine Moves.step ?_ (Moves.mono (by decide) (doMacsecRxFrame_moves _ _ _))
  exact Moves.refl _ _

theorem execMacsecTxFrame_moves (port : Nat) (header data : List Byte) (s : State) {t : State} (h : execMacsecTxFrame port header data s = .next t) :
    Moves [.evc, .crypt, .net, .free] s t := by
  unfold execMacsecTxFrame at h
  cases h
  refine Moves.step ?_ (Moves.mono (by decide) (doMacsecTxFrame_moves _ _ _ _))
  exact Moves.refl _ _

theorem execLinkChange_moves (port : Nat) (up : Bool) (s : State) {t : State} (h : execLinkChange port up s = .next t) :
    Moves [.evc, .ledger, .health, .net, .free] s t := by
  unfold execLinkChange at h
  cases h
  refine Moves.step ?_ (Moves.mono (by decide) (doLinkChange_moves _ _ _))
  exact Moves.refl _ _

theorem execAutonegTimeout_moves (port : Nat) (s : State) {t : State} (h : execAutonegTimeout port s = .next t) :
    Moves [.net] s t := by
  unfold execAutonegTimeout at h
  cases h
  refine Moves.step ?_ (Moves.mono (by decide) (doAutonegTimeout_moves _ _))
  exact Moves.refl _ _

theorem execMkaHello_moves (port : Nat) (s : State) {t : State} (h : execMkaHello port s = .next t) :
    Moves [.net] s t := by
  unfold execMkaHello at h
  cases h
  refine Moves.step ?_ (Moves.mono (by decide) (doMkaHello_moves _ _))
  exact Moves.refl _ _

theorem execMkaPdu_moves (port sci priority : Nat) (ack : Bool) (sak : Option (Nat × Nat × List Byte)) (pdu icv : List Byte) (s : State) {t : State} (h : execMkaPdu port sci priority ack sak pdu icv s = .next t) :
    Moves [.evc, .crypt, .net, .free] s t := by
  unfold execMkaPdu at h
  cases h
  refine Moves.step ?_ (Moves.mono (by decide) (doMkaPdu_moves _ _ _ _ _ _ _ _))
  exact Moves.refl _ _

theorem execMkaLifeExpiry_moves (port : Nat) (s : State) {t : State} (h : execMkaLifeExpiry port s = .next t) :
    Moves [.crypt, .net, .free] s t := by
  unfold execMkaLifeExpiry at h
  cases h
  refine Moves.step ?_ (Moves.mono (by decide) (doMkaLifeExpiry_moves _ _))
  exact Moves.refl _ _

theorem execDuplicateAddressDetected_moves (port : Nat) (s : State) {t : State} (h : execDuplicateAddressDetected port s = .next t) :
    Moves [.evc, .ledger, .net, .free] s t := by
  unfold execDuplicateAddressDetected at h
  cases h
  refine Moves.step ?_ (Moves.mono (by decide) (doDuplicateAddressDetected_moves _ _))
  exact Moves.refl _ _

theorem execNeighbourSolicitation_moves (port : Nat) (protectedFrame : Bool) (s : State) {t : State} (h : execNeighbourSolicitation port protectedFrame s = .next t) :
    Moves [.net] s t := by
  unfold execNeighbourSolicitation at h
  cases h
  refine Moves.step ?_ (Moves.mono (by decide) (State.answer_moves _ _ _ _))
  exact Moves.refl _ _

theorem execEchoRequest_moves (port : Nat) (protectedFrame : Bool) (data : List Byte) (s : State) {t : State} (h : execEchoRequest port protectedFrame data s = .next t) :
    Moves [.net] s t := by
  unfold execEchoRequest at h
  cases h
  refine Moves.step ?_ (Moves.mono (by decide) (State.answer_moves _ _ _ _))
  exact Moves.refl _ _

theorem execFrameDiscarded_moves (port : Nat) (s : State) {t : State} (h : execFrameDiscarded port s = .next t) :
    Moves [.evc, .psc, .pad, .mbx, .fab, .rel, .ledger, .net] s t := by
  unfold execFrameDiscarded at h
  cases h
  refine Moves.step ?_ (Moves.mono (by decide) (doFrameDiscarded_moves _ _))
  exact Moves.refl _ _

theorem execVcoreUndervoltage_moves (s : State) {t : State} (h : execVcoreUndervoltage s = .next t) :
    Moves [.tbu, .tmr, .evc, .psc, .pad, .mbx, .boot, .cfg, .fab, .parts, .lf, .pop, .radio, .sess, .rel, .crypt, .keys, .met, .ledger, .health, .net, .cores, .mem] s t := by
  unfold execVcoreUndervoltage at h
  cases h
  refine Moves.step ?_ (Moves.mono (by decide) (doVcoreUndervoltage_moves _))
  exact Moves.refl _ _

theorem execTempoGovernorUpdate_moves (tempos : List Nat) (demand : Nat) (s : State) {t : State} (h : execTempoGovernorUpdate tempos demand s = .next t) :
    Moves [.evc, .ledger, .health, .power, .free] s t := by
  unfold execTempoGovernorUpdate at h
  cases h
  refine Moves.ite (fun _ => ?_) (fun _ => ?_)
  · refine Moves.step ?_ (Moves.mono (by decide) (doTempoGovernorUpdate_moves _ _ _))
    exact Moves.refl _ _
  · exact Moves.refl _ _

theorem execDieLinkCrcFail_moves (link : Nat) (again failed : Bool) (s : State) {t : State} (h : execDieLinkCrcFail link again failed s = .next t) :
    Moves [.tbu, .tmr, .evc, .psc, .pad, .mbx, .boot, .cfg, .fab, .parts, .lf, .pop, .radio, .sess, .rel, .crypt, .keys, .met, .ledger, .health, .net, .power, .cores, .mem, .free] s t := by
  unfold execDieLinkCrcFail at h
  cases h
  refine Moves.step ?_ (Moves.mono (by decide) (doDieLinkCrcFail_moves _ _ _ _))
  exact Moves.refl _ _

theorem execDatapathMismatch_moves (chan : Option Nat) (again : Bool) (s : State) {t : State} (h : execDatapathMismatch chan again s = .next t) :
    Moves [.evc, .psc, .pad, .mbx, .fab, .sess, .rel, .crypt, .ledger, .health, .free] s t := by
  unfold execDatapathMismatch at h
  cases h
  refine Moves.step ?_ (Moves.mono (by decide) (doDatapathMismatch_moves _ _ _))
  exact Moves.refl _ _

theorem execEngineSelfTestEnd_moves (passed : Bool) (s : State) {t : State} (h : execEngineSelfTestEnd passed s = .next t) :
    Moves [.tbu, .tmr, .evc, .psc, .pad, .mbx, .boot, .cfg, .fab, .parts, .lf, .pop, .radio, .sess, .rel, .crypt, .keys, .met, .ledger, .health, .net, .cores, .mem, .free] s t := by
  unfold execEngineSelfTestEnd at h
  cases h
  refine Moves.step ?_ (Moves.mono (by decide) (doEngineSelfTestEnd_moves _ _))
  exact Moves.refl _ _

theorem execReferenceFailed_moves (edgeAge : Nat) (s : State) {t : State} (h : execReferenceFailed edgeAge s = .next t) :
    Moves [.tbu, .evc, .free] s t := by
  unfold execReferenceFailed at h
  cases h
  refine Moves.step ?_ (Moves.mono (by decide) (doReferenceFailed_moves _ _))
  exact Moves.refl _ _

theorem execSlowCrystalFailed_moves (edgeAge : Nat) (s : State) {t : State} (h : execSlowCrystalFailed edgeAge s = .next t) :
    Moves [.tbu, .evc, .psc, .pad, .mbx, .fab, .rel, .ledger, .free] s t := by
  unfold execSlowCrystalFailed at h
  cases h
  refine Moves.step ?_ (Moves.mono (by decide) (doSlowCrystalFailed_moves _ _))
  exact Moves.refl _ _

theorem execSourceQualified_moves (src : TimeSource) (s : State) {t : State} (h : execSourceQualified src s = .next t) :
    Moves [.tbu, .evc, .free] s t := by
  unfold execSourceQualified at h
  cases h
  refine Moves.step ?_ (Moves.mono (by decide) (doSourceQualified_moves _ _))
  exact Moves.refl _ _

theorem execTbuStart_moves (s : State) {t : State} (h : execTbuStart s = .next t) :
    Moves [.tbu] s t := by
  unfold execTbuStart at h
  cases h
  refine Moves.step ?_ (Moves.mono (by decide) (doTbuStart_moves _))
  exact Moves.refl _ _

theorem execTrimWindowEnd_moves (d : Nat) (temp : Int) (s : State) {t : State} (h : execTrimWindowEnd d temp s = .next t) :
    Moves [.tbu, .psc] s t := by
  unfold execTrimWindowEnd at h
  cases h
  refine Moves.step ?_ (Moves.mono (by decide) (doTrimWindowEnd_moves _ _ _))
  exact Moves.refl _ _

theorem execTemperatureSample_moves (temp : Int) (s : State) {t : State} (h : execTemperatureSample temp s = .next t) :
    Moves [.tbu, .power] s t := by
  unfold execTemperatureSample at h
  cases h
  refine Moves.step ?_ (Moves.mono (by decide) (doTemperatureSample_moves _ _))
  exact Moves.refl _ _

theorem execAccrualSecond_moves (s : State) {t : State} (h : execAccrualSecond s = .next t) :
    Moves [.tbu, .evc] s t := by
  unfold execAccrualSecond at h
  cases h
  refine Moves.step ?_ (Moves.mono (by decide) (doAccrualSecond_moves _))
  exact Moves.refl _ _

theorem execHourlyHistoryPoint_moves (s : State) {t : State} (h : execHourlyHistoryPoint s = .next t) :
    Moves [.tbu] s t := by
  unfold execHourlyHistoryPoint at h
  cases h
  refine Moves.step ?_ (Moves.mono (by decide) (doHourlyHistoryPoint_moves _))
  exact Moves.refl _ _

theorem execCounterOutvoted_moves (lane value : Nat) (s : State) {t : State} (h : execCounterOutvoted lane value s = .next t) :
    Moves [.tbu, .evc, .ledger, .health, .free] s t := by
  unfold execCounterOutvoted at h
  cases h
  refine Moves.step ?_ (Moves.mono (by decide) (doCounterOutvoted_moves _ _ _))
  exact Moves.refl _ _

theorem execPpsEdge_moves (s : State) {t : State} (h : execPpsEdge s = .next t) :
    Moves [.tbu] s t := by
  unfold execPpsEdge at h
  cases h
  refine Moves.step ?_ (Moves.mono (by decide) (doPpsEdge_moves _))
  exact Moves.refl _ _

theorem execPpsPulseEnd_moves (s : State) {t : State} (h : execPpsPulseEnd s = .next t) :
    Moves [.tbu] s t := by
  unfold execPpsPulseEnd at h
  cases h
  refine Moves.step ?_ (Moves.mono (by decide) (doPpsPulseEnd_moves _))
  exact Moves.refl _ _

theorem execSyncInterval_moves (s : State) {t : State} (h : execSyncInterval s = .next t) :
    Moves [.tbu, .net] s t := by
  unfold execSyncInterval at h
  cases h
  refine Moves.step ?_ (Moves.mono (by decide) (doSyncInterval_moves _))
  exact Moves.refl _ _

theorem execAnnounceInterval_moves (s : State) {t : State} (h : execAnnounceInterval s = .next t) :
    Moves [.tbu, .net] s t := by
  unfold execAnnounceInterval at h
  cases h
  refine Moves.step ?_ (Moves.mono (by decide) (doAnnounceInterval_moves _))
  exact Moves.refl _ _

theorem execGptpForeignFrame_moves (kind : Nat) (s : State) {t : State} (h : execGptpForeignFrame kind s = .next t) :
    Moves [.tbu, .evc] s t := by
  unfold execGptpForeignFrame at h
  cases h
  refine Moves.step ?_ (Moves.mono (by decide) (doGptpForeignFrame_moves _ _))
  exact Moves.refl _ _

theorem execTbuNsLoRead_moves (req : Requester) (s : State) {t : State} (h : execTbuNsLoRead req s = .next t) :
    Moves [.tbu, .mbx] s t := by
  unfold execTbuNsLoRead at h
  cases h
  refine Moves.step ?_ (Moves.mono (by decide) (State.answered_moves _))
  show MovesSnd _ _ _
  refine MovesSnd.step ?_ (Moves.mono (by decide) (readNsLo_moves _ _))
  exact Moves.refl _ _

theorem execTbuUaccLoRead_moves (req : Requester) (s : State) {t : State} (h : execTbuUaccLoRead req s = .next t) :
    Moves [.tbu, .mbx] s t := by
  unfold execTbuUaccLoRead at h
  cases h
  refine Moves.step ?_ (Moves.mono (by decide) (State.answered_moves _))
  show MovesSnd _ _ _
  refine MovesSnd.step ?_ (Moves.mono (by decide) (readUaccLo_moves _ _))
  exact Moves.refl _ _

theorem execTimestampExtensionCompare_moves (off : Int) (s : State) {t : State} (h : execTimestampExtensionCompare off s = .next t) :
    Moves [.tbu, .evc, .radio, .ledger, .health, .free] s t := by
  unfold execTimestampExtensionCompare at h
  cases h
  refine Moves.step ?_ (Moves.mono (by decide) (doTimestampExtensionCompare_moves _ _))
  exact Moves.refl _ _

theorem execRfStatus_moves (mb : Nat) (s : State) {t : State} (h : execRfStatus mb s = .next t) :
    Moves [.evc, .mbx, .fab, .free] s t := by
  unfold execRfStatus at h
  cases h
  refine Moves.step ?_ (State.perform_moves (by decide) (fun _ x0 => ?_))
  · exact Moves.refl _ _
  · refine Moves.step ?_ (Moves.mono (by decide) (State.drawn_moves _))
    refine Moves.step ?_ (Moves.mono (by decide) (State.post_moves _ _ _ _))
    exact Moves.refl _ _

theorem execRfCal_moves (mb : Nat) (s : State) {t : State} (h : execRfCal mb s = .next t) :
    Moves [.tbu, .evc, .psc, .pad, .mbx, .fab, .parts, .lf, .pop, .radio, .sess, .rel, .keys, .ledger, .health, .mem, .free] s t := by
  unfold execRfCal at h
  cases h
  refine Moves.step ?_ (State.perform_moves (by decide) (fun _ x0 => ?_))
  · exact Moves.refl _ _
  · extract_lets +onlyGivenNames x1
    have hx1 : Moves [.tbu, .evc, .psc, .pad, .mbx, .fab, .parts, .lf, .pop, .radio, .sess, .rel, .keys, .ledger, .health, .mem, .free] x0 x1 := by
      refine Moves.step ?_ (Moves.mono (by decide) (State.modRadio_moves _ _ (by simp +contextual [Radio.Keeps, Radio.Shaped] <;> intros <;> omega)))
      refine Moves.step ?_ (Moves.mono (by decide) (State.wait_moves _ _))
      exact Moves.refl _ _
    clear_value x1
    extract_lets +onlyGivenNames x2
    have hx2 : Moves [.tbu, .evc, .psc, .pad, .mbx, .fab, .parts, .lf, .pop, .radio, .sess, .rel, .keys, .ledger, .health, .mem, .free] x0 x2 := by
      refine Moves.step ?_ (Moves.mono (by decide) (State.seqCal_moves _ _))
      refine Moves.step ?_ (Moves.mono (by decide) (State.seqUp_moves _))
      exact hx1
    clear_value x2
    refine Moves.step ?_ (Moves.mono (by decide) (State.radioDone_moves _))
    refine Moves.ite (fun _ => ?_) (fun _ => ?_)
    · refine Moves.step ?_ (Moves.mono (by decide) (State.calTaken_moves _))
      exact hx2
    · exact hx2

theorem execRfTest_moves (mb : Nat) (s : State) {t : State} (h : execRfTest mb s = .next t) :
    Moves [.tbu, .evc, .psc, .pad, .mbx, .fab, .parts, .lf, .pop, .radio, .sess, .rel, .keys, .ledger, .health, .mem, .free] s t := by
  unfold execRfTest at h
  cases h
  refine Moves.step ?_ (State.perform_moves (by decide) (fun _ x0 => ?_))
  · exact Moves.refl _ _
  · refine Moves.ite (fun _ => ?_) (fun _ => ?_)
    · exact Moves.refl _ _
    · try extract_lets +onlyGivenNames x1
      try clear_value x1
      try extract_lets +onlyGivenNames x2
      try clear_value x2
      try extract_lets +onlyGivenNames x3
      try clear_value x3
      extract_lets +onlyGivenNames x4
      have hx4 : Moves [.tbu, .evc, .psc, .pad, .mbx, .fab, .parts, .lf, .pop, .radio, .sess, .rel, .keys, .ledger, .health, .mem, .free] x0 x4 := by
        refine Moves.step ?_ (Moves.mono (by decide) (State.seqUp_moves _))
        refine Moves.step ?_ (Moves.mono (by decide) (State.modRadio_movesAll _ _ (fun _ => by exact Radio.keeps_of rfl rfl rfl)))
        refine Moves.step ?_ (Moves.mono (by decide) (State.wait_moves _ _))
        exact Moves.refl _ _
      clear_value x4
      refine Moves.step ?_ (Moves.mono (by decide) (State.radioDone_moves _))
      refine Moves.ite (fun _ => ?_) (fun _ => ?_)
      · refine Moves.step ?_ (Moves.mono (by decide) (State.seqSendUhf_moves _ _))
        exact hx4
      · refine Moves.step ?_ (Moves.mono (by decide) (State.seqSendUwb_moves _ _ _ _))
        exact hx4

theorem execRfCapture_moves (mb : Nat) (s : State) {t : State} (h : execRfCapture mb s = .next t) :
    Moves [.tbu, .evc, .psc, .pad, .mbx, .fab, .parts, .lf, .pop, .radio, .sess, .rel, .keys, .ledger, .health, .mem, .free] s t := by
  unfold execRfCapture at h
  cases h
  refine Moves.step ?_ (State.perform_moves (by decide) (fun _ x0 => ?_))
  · exact Moves.refl _ _
  · refine Moves.ite (fun _ => ?_) (fun _ => ?_)
    · exact Moves.refl _ _
    · refine Moves.step ?_ (Moves.mono (by decide) (State.radioDone_moves _))
      refine Moves.step ?_ (Moves.mono (by decide) (State.seqUp_moves _))
      refine Moves.step ?_ (Moves.mono (by decide) (State.modRadio_movesAll _ _ (fun _ => by exact Radio.keeps_of rfl rfl rfl)))
      refine Moves.step ?_ (Moves.mono (by decide) (State.wait_moves _ _))
      exact Moves.refl _ _

theorem execSeqUp_moves (s : State) {t : State} (h : execSeqUp s = .next t) :
    Moves [.tbu, .evc, .psc, .pad, .mbx, .fab, .parts, .lf, .pop, .radio, .sess, .rel, .keys, .ledger, .health, .mem, .free] s t := by
  unfold execSeqUp at h
  cases h
  refine Moves.step ?_ (Moves.mono (by decide) (State.radioDone_moves _))
  refine Moves.step ?_ (Moves.mono (by decide) (State.seqUp_moves _))
  exact Moves.refl _ _

theorem execSeqDown_moves (s : State) {t : State} (h : execSeqDown s = .next t) :
    Moves [.evc, .psc, .pad, .mbx, .fab, .parts, .lf, .pop, .radio, .sess, .rel, .keys, .ledger, .health, .mem, .free] s t := by
  unfold execSeqDown at h
  cases h
  refine Moves.step ?_ (Moves.mono (by decide) (State.radioDone_moves _))
  refine Moves.step ?_ (Moves.mono (by decide) (State.seqDown_moves _))
  exact Moves.refl _ _

theorem execSeqIdle_moves (limit : Nat) (s : State) {t : State} (h : execSeqIdle limit s = .next t) :
    Moves [.evc, .psc, .pad, .mbx, .fab, .parts, .lf, .pop, .radio, .sess, .rel, .keys, .ledger, .health, .mem, .free] s t := by
  unfold execSeqIdle at h
  cases h
  refine Moves.step ?_ (Moves.mono (by decide) (State.radioDone_moves _))
  refine Moves.step ?_ (Moves.mono (by decide) (State.seqIdle_moves _ _))
  exact Moves.refl _ _

theorem execSeqListenUhf_moves (region limit : Nat) (s : State) {t : State} (h : execSeqListenUhf region limit s = .next t) :
    Moves [.evc, .psc, .pad, .mbx, .fab, .parts, .lf, .pop, .radio, .sess, .rel, .keys, .ledger, .health, .mem, .free] s t := by
  unfold execSeqListenUhf at h
  cases h
  refine Moves.step ?_ (Moves.mono (by decide) (State.radioDone_moves _))
  refine Moves.step ?_ (Moves.mono (by decide) (State.seqListenUhf_moves _ _ _))
  exact Moves.refl _ _

theorem execSeqSendUhf_moves (payload : List Byte) (rx : Bool) (s : State) {t : State} (h : execSeqSendUhf payload rx s = .next t) :
    Moves [.evc, .psc, .pad, .mbx, .fab, .parts, .lf, .pop, .radio, .sess, .rel, .keys, .ledger, .health, .mem, .free] s t := by
  unfold execSeqSendUhf at h
  cases h
  refine Moves.step ?_ (Moves.mono (by decide) (State.radioDone_moves _))
  refine Moves.step ?_ (Moves.mono (by decide) (State.seqSendUhf_moves _ _))
  refine Moves.step ?_ (Moves.mono (by decide) (State.modRadio_movesAll _ _ (fun _ => by exact Radio.keeps_of rfl rfl rfl)))
  exact Moves.refl _ _

theorem execSeqListenUwb_moves (channel limit : Nat) (rx : Bool) (s : State) {t : State} (h : execSeqListenUwb channel limit rx s = .next t) :
    Moves [.evc, .psc, .pad, .mbx, .fab, .parts, .lf, .pop, .radio, .sess, .rel, .keys, .ledger, .health, .mem, .free] s t := by
  unfold execSeqListenUwb at h
  cases h
  refine Moves.step ?_ (Moves.mono (by decide) (State.radioDone_moves _))
  refine Moves.step ?_ (Moves.mono (by decide) (State.seqListenUwb_moves _ _ _ _))
  exact Moves.refl _ _

theorem execSeqSendUwb_moves (due : Option Nat) (limit : Nat) (rx : Bool) (s : State) {t : State} (h : execSeqSendUwb due limit rx s = .next t) :
    Moves [.evc, .psc, .pad, .mbx, .fab, .parts, .lf, .pop, .radio, .sess, .rel, .keys, .ledger, .health, .mem, .free] s t := by
  unfold execSeqSendUwb at h
  cases h
  refine Moves.step ?_ (Moves.mono (by decide) (State.radioDone_moves _))
  refine Moves.step ?_ (Moves.mono (by decide) (State.seqSendUwb_moves _ _ _ _))
  exact Moves.refl _ _

theorem execSeqRange_moves (set first limit : Nat) (temp : Int) (s : State) {t : State} (h : execSeqRange set first limit temp s = .next t) :
    Moves [.evc, .psc, .pad, .mbx, .fab, .parts, .lf, .pop, .radio, .sess, .rel, .keys, .ledger, .health, .mem, .free] s t := by
  unfold execSeqRange at h
  cases h
  refine Moves.step ?_ (Moves.mono (by decide) (State.radioDone_moves _))
  refine Moves.step ?_ (Moves.mono (by decide) (State.seqRange_moves _ _ _ _))
  refine Moves.step ?_ (Moves.mono (by decide) (State.modRadio_movesAll _ _ (fun _ => by exact Radio.keeps_of rfl rfl rfl)))
  exact Moves.refl _ _

theorem execSeqCal_moves (limit : Nat) (s : State) {t : State} (h : execSeqCal limit s = .next t) :
    Moves [.evc, .psc, .pad, .mbx, .fab, .parts, .lf, .pop, .radio, .sess, .rel, .keys, .ledger, .health, .mem, .free] s t := by
  unfold execSeqCal at h
  cases h
  refine Moves.step ?_ (Moves.mono (by decide) (State.radioDone_moves _))
  refine Moves.step ?_ (Moves.mono (by decide) (State.seqCal_moves _ _))
  exact Moves.refl _ _

theorem execLockQualified_moves (synth : Synth) (s : State) {t : State} (h : execLockQualified synth s = .next t) :
    Moves [.evc, .psc, .pad, .mbx, .fab, .parts, .lf, .pop, .radio, .sess, .rel, .keys, .ledger, .health, .mem, .free] s t := by
  unfold execLockQualified at h
  cases h
  refine Moves.step ?_ (Moves.mono (by decide) (State.radioDone_moves _))
  refine Moves.step ?_ (Moves.mono (by decide) (State.seqQualified_moves _ _))
  exact Moves.refl _ _

theorem execSettleTimeout_moves (s : State) {t : State} (h : execSettleTimeout s = .next t) :
    Moves [.evc, .psc, .pad, .mbx, .fab, .parts, .lf, .pop, .radio, .sess, .rel, .keys, .ledger, .health, .mem, .free] s t := by
  unfold execSettleTimeout at h
  cases h
  refine Moves.step ?_ (Moves.mono (by decide) (State.radioDone_moves _))
  refine Moves.step ?_ (Moves.mono (by decide) (State.seqSettleTimeout_moves _))
  exact Moves.refl _ _

theorem execLockLost_moves (synth : Synth) (s : State) {t : State} (h : execLockLost synth s = .next t) :
    Moves [.evc, .psc, .pad, .mbx, .fab, .parts, .lf, .pop, .radio, .sess, .rel, .keys, .ledger, .health, .mem, .free] s t := by
  unfold execLockLost at h
  cases h
  refine Moves.step ?_ (Moves.mono (by decide) (State.radioDone_moves _))
  refine Moves.step ?_ (Moves.mono (by decide) (State.seqLockLost_moves _ _))
  exact Moves.refl _ _

theorem execCalStepEnd_moves (temp : Int) (s : State) {t : State} (h : execCalStepEnd temp s = .next t) :
    Moves [.evc, .psc, .pad, .mbx, .fab, .parts, .lf, .pop, .radio, .sess, .rel, .keys, .ledger, .health, .mem, .free] s t := by
  unfold execCalStepEnd at h
  cases h
  refine Moves.step ?_ (Moves.mono (by decide) (State.radioDone_moves _))
  refine Moves.step ?_ (Moves.mono (by decide) (State.seqCalStep_moves _ _))
  exact Moves.refl _ _

theorem execUhfFrameEnd_moves (s : State) {t : State} (h : execUhfFrameEnd s = .next t) :
    Moves [.evc, .psc, .pad, .mbx, .fab, .parts, .lf, .pop, .radio, .sess, .rel, .keys, .ledger, .health, .mem, .free] s t := by
  unfold execUhfFrameEnd at h
  cases h
  refine Moves.ite (fun _ => ?_) (fun _ => ?_)
  · refine Moves.step ?_ (Moves.mono (by decide) (State.radioDone_moves _))
    refine Moves.step ?_ (Moves.mono (by decide) (State.uhfOver_moves _))
    exact Moves.refl _ _
  · exact Moves.refl _ _

theorem execUwbFrameEnd_moves (s : State) {t : State} (h : execUwbFrameEnd s = .next t) :
    Moves [.evc, .psc, .pad, .mbx, .fab, .parts, .lf, .pop, .radio, .sess, .rel, .keys, .ledger, .health, .mem, .free] s t := by
  unfold execUwbFrameEnd at h
  cases h
  refine Moves.ite (fun _ => ?_) (fun _ => ?_)
  · refine Moves.step ?_ (Moves.mono (by decide) (State.radioDone_moves _))
    refine Moves.step ?_ (Moves.mono (by decide) (State.uwbOver_moves _))
    refine Moves.step ?_ (Moves.mono (by decide) (State.stampFrame_moves _))
    exact Moves.refl _ _
  · exact Moves.refl _ _

theorem execUhfFrameReceived_moves (frame : List Byte) (s : State) {t : State} (h : execUhfFrameReceived frame s = .next t) :
    Moves [.evc, .psc, .pad, .mbx, .fab, .parts, .lf, .pop, .radio, .sess, .rel, .keys, .ledger, .health, .mem, .free] s t := by
  unfold execUhfFrameReceived at h
  cases h
  refine Moves.step ?_ (Moves.mono (by decide) (doUhfFrameReceived_moves _ _))
  exact Moves.refl _ _

theorem execUwbFrameReceived_moves (m : Reception) (s : State) {t : State} (h : execUwbFrameReceived m s = .next t) :
    Moves [.evc, .psc, .pad, .mbx, .fab, .parts, .lf, .pop, .radio, .sess, .rel, .keys, .ledger, .health, .mem, .free] s t := by
  unfold execUwbFrameReceived at h
  cases h
  refine Moves.step ?_ (Moves.mono (by decide) (doUwbFrameReceived_moves _ _))
  exact Moves.refl _ _

theorem execBackgroundSlice_moves (kind dA dB : Nat) (temp : Int) (rx : Bool) (s : State) {t : State} (h : execBackgroundSlice kind dA dB temp rx s = .next t) :
    Moves [.evc, .psc, .pad, .mbx, .fab, .parts, .lf, .pop, .radio, .sess, .rel, .keys, .ledger, .health, .mem, .free] s t := by
  unfold execBackgroundSlice at h
  cases h
  refine Moves.step ?_ (Moves.mono (by decide) (doBackgroundSlice_moves _ _ _ _ _ _))
  exact Moves.refl _ _

theorem execForcedSlice_moves (kind dA dB : Nat) (temp : Int) (rx : Bool) (s : State) {t : State} (h : execForcedSlice kind dA dB temp rx s = .next t) :
    Moves [.evc, .psc, .pad, .mbx, .fab, .parts, .lf, .pop, .radio, .sess, .rel, .keys, .ledger, .health, .mem, .free] s t := by
  unfold execForcedSlice at h
  cases h
  refine Moves.step ?_ (Moves.mono (by decide) (doForcedSlice_moves _ _ _ _ _ _))
  exact Moves.refl _ _

theorem execHeldCommandTimeout_moves (s : State) {t : State} (h : execHeldCommandTimeout s = .next t) :
    Moves [.evc, .psc, .pad, .mbx, .fab, .parts, .lf, .pop, .radio, .sess, .rel, .keys, .ledger, .health, .mem, .free] s t := by
  unfold execHeldCommandTimeout at h
  cases h
  refine Moves.step ?_ (Moves.mono (by decide) (State.radioDone_moves _))
  refine Moves.step ?_ (Moves.mono (by decide) (State.failHeld_moves _ _))
  exact Moves.refl _ _

theorem execTransmitGateDeadline_moves (s : State) {t : State} (h : execTransmitGateDeadline s = .next t) :
    Moves [.evc, .psc, .pad, .mbx, .fab, .parts, .lf, .pop, .radio, .sess, .rel, .keys, .ledger, .health, .mem, .free] s t := by
  unfold execTransmitGateDeadline at h
  cases h
  refine Moves.step ?_ (Moves.mono (by decide) (doTransmitGateDeadline_moves _))
  exact Moves.refl _ _

theorem execUpRetry_moves (s : State) {t : State} (h : execUpRetry s = .next t) :
    Moves [.tbu, .evc, .psc, .pad, .mbx, .fab, .parts, .lf, .pop, .radio, .sess, .rel, .keys, .ledger, .health, .mem, .free] s t := by
  unfold execUpRetry at h
  cases h
  refine Moves.step ?_ (Moves.mono (by decide) (doUpRetry_moves _))
  exact Moves.refl _ _

theorem execRecalibrationDue_moves (temp : Int) (s : State) {t : State} (h : execRecalibrationDue temp s = .next t) :
    Moves [.evc, .psc, .pad, .mbx, .fab, .parts, .lf, .pop, .radio, .sess, .rel, .keys, .ledger, .health, .mem, .free] s t := by
  unfold execRecalibrationDue at h
  cases h
  refine Moves.step ?_ (Moves.mono (by decide) (doRecalibrationDue_moves _ _))
  exact Moves.refl _ _

theorem execRfTestEnd_moves (s : State) {t : State} (h : execRfTestEnd s = .next t) :
    Moves [.evc, .psc, .pad, .mbx, .fab, .parts, .lf, .pop, .radio, .sess, .rel, .keys, .ledger, .health, .mem, .free] s t := by
  unfold execRfTestEnd at h
  cases h
  refine Moves.step ?_ (Moves.mono (by decide) (doRfTestEnd_moves _))
  exact Moves.refl _ _

theorem execRegisterWrite_moves (req : Requester) (addr : Nat) (w : Word) (s : State) {t : State} (h : execRegisterWrite req addr w s = .next t) :
    Moves [.tbu, .tmr, .evc, .psc, .pad, .mbx, .boot, .fab, .radio, .rel, .crypt, .keys, .ledger, .net, .mem] s t := by
  unfold execRegisterWrite at h
  cases h
  refine Moves.step ?_ (Moves.mono (by decide) (doRegisterWrite_moves _ _ _ _))
  exact Moves.refl _ _

theorem execSpiWriteFrame_moves (bytes : List Byte) (s : State) {t : State} (h : execSpiWriteFrame bytes s = .next t) :
    Moves [.tbu, .tmr, .evc, .psc, .pad, .mbx, .boot, .fab, .radio, .rel, .crypt, .keys, .ledger, .net, .mem] s t := by
  unfold execSpiWriteFrame at h
  cases h
  refine Moves.step ?_ (Moves.mono (by decide) (doSpiWriteFrame_moves _ _))
  exact Moves.refl _ _

theorem execSpiReadFrame_moves (bytes : List Byte) (s : State) {t : State} (h : execSpiReadFrame bytes s = .next t) :
    Moves [.tbu, .tmr, .evc, .psc, .pad, .mbx, .fab, .rel, .ledger, .free] s t := by
  unfold execSpiReadFrame at h
  cases h
  refine Moves.step ?_ (Moves.mono (by decide) (doSpiReadFrame_moves _ _))
  exact Moves.refl _ _

theorem execSpiWakeFrame_moves (bytes : List Byte) (s : State) {t : State} (h : execSpiWakeFrame bytes s = .next t) :
    Moves [.evc, .psc, .pad, .mbx, .fab, .rel, .crypt, .ledger] s t := by
  unfold execSpiWakeFrame at h
  cases h
  refine Moves.step ?_ (Moves.mono (by decide) (doSpiWakeFrame_moves _ _))
  exact Moves.refl _ _

end Sys2Proof.Machine
end

