-- ==== Sys2Proof/Laws/Rows2.lean ====
section
/-!
SUPPORT. What each command leaves unchanged and what it keeps of the invariant, part 2 of the rows.
-/
namespace Sys2Proof.Machine

theorem execMgmtRequest_moves (port : Nat) (protectedFrame : Bool) (srcAddr srcPort : Nat) (payload : List Byte) (s : State) {t : State} (h : execMgmtRequest port protectedFrame srcAddr srcPort payload s = .next t) :
    Moves [.tbu, .tmr, .evc, .psc, .pad, .mbx, .boot, .fab, .radio, .rel, .crypt, .keys, .ledger, .net, .mem, .free] s t := by
  unfold execMgmtRequest at h
  cases h
  refine Moves.step ?_ (Moves.mono (by decide) (doMgmtRequest_moves _ _ _ _ _ _))
  exact Moves.refl _ _

theorem execTimerTick_moves (timer : Nat) (s : State) {t : State} (h : execTimerTick timer s = .next t) :
    Moves [.tmr, .evc] s t := by
  unfold execTimerTick at h
  cases h
  refine Moves.step ?_ (Moves.mono (by decide) (State.tickOnce_moves _ _))
  exact Moves.refl _ _

theorem execTimerWrap_moves (timer : Nat) (s : State) {t : State} (h : execTimerWrap timer s = .next t) :
    Moves [.tmr, .evc] s t := by
  unfold execTimerWrap at h
  cases h
  refine Moves.ite (fun _ => ?_) (fun _ => ?_)
  · refine Moves.step ?_ (Moves.mono (by decide) (State.takeTick_moves _ _))
    exact Moves.refl _ _
  · exact Moves.refl _ _

theorem execCompareFire_moves (timer unit : Nat) (s : State) {t : State} (h : execCompareFire timer unit s = .next t) :
    Moves [.tmr, .evc] s t := by
  unfold execCompareFire at h
  cases h
  refine Moves.ite (fun _ => ?_) (fun _ => ?_)
  · refine Moves.step ?_ (Moves.mono (by decide) (State.settle_moves _))
    show MovesFst _ _ _
    refine MovesFst.step ?_ (Moves.mono (by decide) (State.judgeTimer_moves _ _ _))
    exact Moves.refl _ _
  · exact Moves.refl _ _

theorem execTmrnCtrlWrite_moves (timer : Nat) (w : Word) (s : State) {t : State} (h : execTmrnCtrlWrite timer w s = .next t) :
    Moves [.tmr, .evc] s t := by
  unfold execTmrnCtrlWrite at h
  cases h
  refine Moves.step ?_ (Moves.mono (by decide) (writeTmrCtrl_moves _ _ _))
  exact Moves.refl _ _

theorem execSwtrig_moves (timer : Nat) (s : State) {t : State} (h : execSwtrig timer s = .next t) :
    Moves [.tmr, .evc] s t := by
  unfold execSwtrig at h
  cases h
  refine Moves.step ?_ (Moves.mono (by decide) (State.swtrig_moves _ _))
  exact Moves.refl _ _

theorem execTmrnCntWrite_moves (timer : Nat) (w : Word) (s : State) {t : State} (h : execTmrnCntWrite timer w s = .next t) :
    Moves [.tmr, .evc] s t := by
  unfold execTmrnCntWrite at h
  cases h
  refine Moves.step ?_ (Moves.mono (by decide) (writeTmrCnt_moves _ _ _))
  exact Moves.refl _ _

theorem execTmrnCmpWrite_moves (timer unit : Nat) (w : Word) (s : State) {t : State} (h : execTmrnCmpWrite timer unit w s = .next t) :
    Moves [.tmr, .evc] s t := by
  unfold execTmrnCmpWrite at h
  cases h
  refine Moves.step ?_ (Moves.mono (by decide) (writeTmrCmp_moves _ _ _ _))
  exact Moves.refl _ _

theorem execTmrnCapRead_moves (req : Requester) (timer : Nat) (s : State) {t : State} (h : execTmrnCapRead req timer s = .next t) :
    Moves [.tbu, .tmr, .mbx, .free] s t := by
  unfold execTmrnCapRead at h
  cases h
  refine Moves.step ?_ (Moves.mono (by decide) (State.answered_moves _))
  show MovesSnd _ _ _
  refine MovesSnd.step ?_ (Moves.mono (by decide) (readTmrCap_moves _ _ _))
  exact Moves.refl _ _

theorem execAlmmLoWrite_moves (req : Requester) (alarm : Nat) (w : Word) (s : State) {t : State} (h : execAlmmLoWrite req alarm w s = .next t) :
    Moves [.tmr, .evc, .psc, .pad, .mbx, .fab, .rel, .ledger] s t := by
  unfold execAlmmLoWrite at h
  cases h
  refine Moves.step ?_ (Moves.mono (by decide) (writeAlmLo_moves _ _ _ _))
  exact Moves.refl _ _

theorem execAlmmLoRead_moves (req : Requester) (alarm : Nat) (s : State) {t : State} (h : execAlmmLoRead req alarm s = .next t) :
    Moves [.tbu, .mbx] s t := by
  unfold execAlmmLoRead at h
  cases h
  refine Moves.step ?_ (Moves.mono (by decide) (State.answered_moves _))
  show MovesSnd _ _ _
  refine MovesSnd.step ?_ (Moves.mono (by decide) (readAlmLo_moves _ _ _))
  exact Moves.refl _ _

theorem execAlarmFire_moves (alarm : Nat) (s : State) {t : State} (h : execAlarmFire alarm s = .next t) :
    Moves [.tmr, .evc, .psc, .pad, .mbx, .fab, .rel, .ledger] s t := by
  unfold execAlarmFire at h
  cases h
  refine Moves.step ?_ (Moves.mono (by decide) (State.alarmFire_moves _ _))
  exact Moves.refl _ _

theorem execAlarmDisarm_moves (alarm : Nat) (s : State) {t : State} (h : execAlarmDisarm alarm s = .next t) :
    Moves [.tmr, .evc, .psc, .pad, .mbx, .fab, .rel, .ledger] s t := by
  unfold execAlarmDisarm at h
  cases h
  refine Moves.step ?_ (Moves.mono (by decide) (State.disarm_moves _ _))
  exact Moves.refl _ _

theorem execPinPulseEnd_moves (pin : Nat) (s : State) {t : State} (h : execPinPulseEnd pin s = .next t) :
    Moves [.tmr] s t := by
  unfold execPinPulseEnd at h
  cases h
  refine Moves.step ?_ (Moves.mono (by decide) (doPinPulseEnd_moves _ _))
  exact Moves.refl _ _

theorem execCapEdge_moves (pin : Nat) (rising : Bool) (s : State) {t : State} (h : execCapEdge pin rising s = .next t) :
    Moves [.tmr, .evc, .free] s t := by
  unfold execCapEdge at h
  cases h
  refine Moves.step ?_ (Moves.mono (by decide) (doCapEdge_moves _ _ _))
  exact Moves.refl _ _

theorem execCapnLoRead_moves (req : Requester) (pin : Nat) (s : State) {t : State} (h : execCapnLoRead req pin s = .next t) :
    Moves [.tbu, .tmr, .mbx] s t := by
  unfold execCapnLoRead at h
  cases h
  refine Moves.step ?_ (Moves.mono (by decide) (State.answered_moves _))
  show MovesSnd _ _ _
  refine MovesSnd.step ?_ (Moves.mono (by decide) (readCapLo_moves _ _ _))
  exact Moves.refl _ _

theorem execCapFlush_moves (pin : Nat) (s : State) {t : State} (h : execCapFlush pin s = .next t) :
    Moves [.tmr] s t := by
  unfold execCapFlush at h
  cases h
  refine Moves.step ?_ (Moves.mono (by decide) (State.capFlush_moves _ _))
  exact Moves.refl _ _

theorem execCapPinLevelChange_moves (pin : Nat) (level : Bool) (s : State) {t : State} (h : execCapPinLevelChange pin level s = .next t) :
    Moves [.tmr, .evc] s t := by
  unfold execCapPinLevelChange at h
  cases h
  refine Moves.step ?_ (Moves.mono (by decide) (doCapPinLevel_moves _ _ _))
  exact Moves.refl _ _

theorem execEventOccurrence_moves (group src : Nat) (s : State) {t : State} (h : execEventOccurrence group src s = .next t) :
    Moves [.evc] s t := by
  unfold execEventOccurrence at h
  cases h
  refine Moves.step ?_ (Moves.mono (by decide) (doEventOccurrence_moves _ _ _))
  exact Moves.refl _ _

theorem execBatchDueTime_moves (group : Nat) (s : State) {t : State} (h : execBatchDueTime group s = .next t) :
    Moves [.evc] s t := by
  unfold execBatchDueTime at h
  cases h
  refine Moves.step ?_ (Moves.mono (by decide) (State.dueCheck_moves _ _ _))
  exact Moves.refl _ _

theorem execDelivery_moves (s : State) {t : State} (h : execDelivery s = .next t) :
    Moves [.evc, .psc, .pad, .mbx, .fab, .rel, .ledger, .net] s t := by
  unfold execDelivery at h
  cases h
  refine Moves.step ?_ (Moves.mono (by decide) (doDelivery_moves _))
  exact Moves.refl _ _

theorem execEvcClaimWrite_moves (target : Nat) (w : Word) (s : State) {t : State} (h : execEvcClaimWrite target w s = .next t) :
    Moves [.evc] s t := by
  unfold execEvcClaimWrite at h
  cases h
  refine Moves.step ?_ (Moves.mono (by decide) (writeClaim_moves _ _ _))
  exact Moves.refl _ _

theorem execEvcDlvRead_moves (req : Requester) (target : Nat) (s : State) {t : State} (h : execEvcDlvRead req target s = .next t) :
    Moves [.tbu, .mbx] s t := by
  unfold execEvcDlvRead at h
  cases h
  refine Moves.step ?_ (Moves.mono (by decide) (State.answered_moves _))
  show MovesSnd _ _ _
  refine MovesSnd.step ?_ (Moves.mono (by decide) (readDlv_moves _ _ _))
  exact Moves.refl _ _

theorem execRetraction_moves (target : Nat) (s : State) {t : State} (h : execRetraction target s = .next t) :
    Moves [.evc] s t := by
  unfold execRetraction at h
  cases h
  refine Moves.step ?_ (Moves.mono (by decide) (doRetraction_moves _ _))
  exact Moves.refl _ _

theorem execWakeOutPulse_moves (group : Nat) (s : State) {t : State} (h : execWakeOutPulse group s = .next t) :
    Moves [.evc] s t := by
  unfold execWakeOutPulse at h
  cases h
  refine Moves.step ?_ (Moves.mono (by decide) (doWakeOutPulse_moves _ _))
  exact Moves.refl _ _

theorem execWakeOutPulseEnd_moves (s : State) {t : State} (h : execWakeOutPulseEnd s = .next t) :
    Moves [.evc] s t := by
  unfold execWakeOutPulseEnd at h
  cases h
  refine Moves.step ?_ (Moves.mono (by decide) (doWakeOutPulseEnd_moves _))
  exact Moves.refl _ _

theorem execEvcSwsetWrite_moves (w : Word) (s : State) {t : State} (h : execEvcSwsetWrite w s = .next t) :
    Moves [.evc] s t := by
  unfold execEvcSwsetWrite at h
  cases h
  refine Moves.step ?_ (Moves.mono (by decide) (writeSwset_moves _ _))
  exact Moves.refl _ _

theorem execPscHostSleepWrite_moves (w : Word) (s : State) {t : State} (h : execPscHostSleepWrite w s = .next t) :
    Moves [.evc, .psc, .pad, .mbx, .fab, .rel, .ledger, .net] s t := by
  unfold execPscHostSleepWrite at h
  cases h
  refine Moves.step ?_ (Moves.mono (by decide) (writeHostSleep_moves _ _))
  exact Moves.refl _ _

theorem execTranslationFault_moves (requester sub access : Nat) (vaddr : Word) (descRef bytesDone : Nat) (holdable : Bool) (s : State) {t : State} (h : execTranslationFault requester sub access vaddr descRef bytesDone holdable s = .next t) :
    Moves [.fab, .crypt, .mem] s t := by
  unfold execTranslationFault at h
  cases h
  refine Moves.step ?_ (Moves.mono (by decide) (doTranslationFault_moves _ _ _ _ _ _ _ _))
  exact Moves.refl _ _

theorem execFaultRestart_moves (requester : Nat) (l1 l2 : Word) (s : State) {t : State} (h : execFaultRestart requester l1 l2 s = .next t) :
    Moves [.fab, .crypt, .mem] s t := by
  unfold execFaultRestart at h
  cases h
  refine Moves.step ?_ (Moves.mono (by decide) (doFaultRestart_moves _ _ _ _))
  exact Moves.refl _ _

theorem execFaultAbort_moves (requester : Nat) (s : State) {t : State} (h : execFaultAbort requester s = .next t) :
    Moves [.evc, .psc, .pad, .mbx, .fab, .parts, .lf, .pop, .radio, .sess, .rel, .crypt, .keys, .ledger, .health, .net, .mem, .free] s t := by
  unfold execFaultAbort at h
  cases h
  refine Moves.step ?_ (Moves.mono (by decide) (doFaultAbort_moves _ _))
  exact Moves.refl _ _

theorem execFaultAbortTimeout_moves (s : State) {t : State} (h : execFaultAbortTimeout s = .next t) :
    Moves [.evc, .psc, .pad, .mbx, .fab, .parts, .lf, .pop, .radio, .sess, .rel, .crypt, .keys, .ledger, .health, .net, .mem, .free] s t := by
  unfold execFaultAbortTimeout at h
  cases h
  refine Moves.step ?_ (Moves.mono (by decide) (doFaultAbortTimeout_moves _))
  exact Moves.refl _ _

theorem execUncorrectableWord_moves (addr requester sub descRef : Nat) (s : State) {t : State} (h : execUncorrectableWord addr requester sub descRef s = .next t) :
    Moves [.tbu, .tmr, .evc, .psc, .pad, .mbx, .boot, .cfg, .fab, .parts, .lf, .pop, .radio, .sess, .rel, .crypt, .keys, .met, .ledger, .health, .net, .cores, .mem, .free] s t := by
  unfold execUncorrectableWord at h
  cases h
  refine Moves.step ?_ (Moves.mono (by decide) (doUncorrectableWord_moves _ _ _ _ _))
  exact Moves.refl _ _

theorem execMramUncorrectableLine_moves (line : MramLine) (offset : Nat) (both : Bool) (s : State) {t : State} (h : execMramUncorrectableLine line offset both s = .next t) :
    Moves [.evc, .mbx, .boot, .fab, .parts, .pop, .sess, .crypt, .keys, .met, .ledger, .health, .net, .mem, .free] s t := by
  unfold execMramUncorrectableLine at h
  cases h
  refine Moves.ite (fun _ => ?_) (fun _ => ?_)
  · refine Moves.step ?_ (Moves.mono (by decide) (doMramUncorrectableLine_moves _ _ _ _))
    exact Moves.refl _ _
  · exact Moves.refl _ _

theorem execPairDivergence_moves (pair : Nat) (s : State) {t : State} (h : execPairDivergence pair s = .next t) :
    Moves [.tbu, .tmr, .evc, .psc, .pad, .mbx, .boot, .cfg, .fab, .parts, .lf, .pop, .radio, .sess, .rel, .crypt, .keys, .met, .ledger, .health, .net, .cores, .mem, .free] s t := by
  unfold execPairDivergence at h
  cases h
  refine Moves.step ?_ (Moves.mono (by decide) (State.diverge_moves _ _))
  exact Moves.refl _ _

theorem execRoleMigrationComplete_moves (s : State) {t : State} (h : execRoleMigrationComplete s = .next t) :
    Moves [.evc, .psc, .pad, .mbx, .fab, .parts, .lf, .pop, .radio, .sess, .rel, .keys, .ledger, .health, .cores, .mem, .free] s t := by
  unfold execRoleMigrationComplete at h
  cases h
  refine Moves.step ?_ (Moves.mono (by decide) (doRoleMigrationComplete_moves _))
  exact Moves.refl _ _

theorem execPairSelfTestEnd_moves (pair : Nat) (passed : Bool) (s : State) {t : State} (h : execPairSelfTestEnd pair passed s = .next t) :
    Moves [.evc, .ledger, .health, .cores, .free] s t := by
  unfold execPairSelfTestEnd at h
  cases h
  refine Moves.step ?_ (Moves.mono (by decide) (doPairSelfTestEnd_moves _ _ _))
  exact Moves.refl _ _

theorem execRoleReturn_moves (role : Role) (s : State) {t : State} (h : execRoleReturn role s = .next t) :
    Moves [.radio, .sess, .cores] s t := by
  unfold execRoleReturn at h
  cases h
  refine Moves.step ?_ (Moves.mono (by decide) (doRoleReturn_moves _ _))
  exact Moves.refl _ _

theorem execPairRetirementEnd_moves (pair : Nat) (s : State) {t : State} (h : execPairRetirementEnd pair s = .next t) :
    Moves [.cores] s t := by
  unfold execPairRetirementEnd at h
  cases h
  refine Moves.step ?_ (Moves.mono (by decide) (doPairRetirementEnd_moves _ _))
  exact Moves.refl _ _

theorem execTranslationInvalidation_moves (req : Nat) (page : Option Nat) (s : State) {t : State} (h : execTranslationInvalidation req page s = .next t) :
    Moves [.fab] s t := by
  unfold execTranslationInvalidation at h
  cases h
  refine Moves.step ?_ (Moves.mono (by decide) (doTranslationInvalidation_moves _ _ _))
  exact Moves.refl _ _

theorem execDeadlineFlag_moves (writer full : Bool) (s : State) {t : State} (h : execDeadlineFlag writer full s = .next t) :
    Moves [.fab] s t := by
  unfold execDeadlineFlag at h
  cases h
  refine Moves.step ?_ (Moves.mono (by decide) (doDeadlineFlag_moves _ _ _))
  exact Moves.refl _ _

theorem execArbitrationRound_moves (requests : BitVec 20) (s : State) {t : State} (h : execArbitrationRound requests s = .next t) :
    Moves [.fab] s t := by
  unfold execArbitrationRound at h
  cases h
  refine Moves.step ?_ (Moves.mono (by decide) (doArbitrationRound_moves _ _))
  exact Moves.refl _ _

theorem execHbwWinCfgWrite_moves (window : Nat) (w : Word) (s : State) {t : State} (h : execHbwWinCfgWrite window w s = .next t) :
    Moves [.fab] s t := by
  unfold execHbwWinCfgWrite at h
  cases h
  refine Moves.step ?_ (Moves.mono (by decide) (writeWinCfg_moves _ _ _))
  exact Moves.refl _ _

theorem execApertureAccess_moves (off : Nat) (w : Option Word) (s : State) {t : State} (h : execApertureAccess off w s = .next t) :
    Moves [.mbx, .fab, .mem] s t := by
  unfold execApertureAccess at h
  cases h
  refine Moves.step ?_ (Moves.mono (by decide) (doApertureAccess_moves _ _ _))
  exact Moves.refl _ _

theorem execKeptReplyExpiry_moves (s : State) {t : State} (h : execKeptReplyExpiry s = .next t) :
    Moves [.mbx] s t := by
  unfold execKeptReplyExpiry at h
  cases h
  refine Moves.step ?_ (Moves.mono (by decide) (State.dropKept_moves _))
  exact Moves.refl _ _

theorem execDoorbell_moves (mb : Nat) (s : State) {t : State} (h : execDoorbell mb s = .next t) :
    Moves [.evc, .psc, .pad, .mbx, .fab, .rel, .crypt, .keys, .ledger, .mem] s t := by
  unfold execDoorbell at h
  cases h
  refine Moves.step ?_ (Moves.mono (by decide) (doDoorbell_moves _ _))
  exact Moves.refl _ _

theorem execCommandStart_moves (role : Role) (s : State) {t : State} (h : execCommandStart role s = .next t) :
    Moves [.mbx] s t := by
  unfold execCommandStart at h
  cases h
  refine Moves.step ?_ (Moves.mono (by decide) (doCommandStart_moves _ _))
  exact Moves.refl _ _

theorem execCommandLimit_moves (mb : Nat) (s : State) {t : State} (h : execCommandLimit mb s = .next t) :
    Moves [.evc, .psc, .mbx, .fab, .parts, .lf, .pop, .radio, .sess, .keys, .ledger, .health, .free] s t := by
  unfold execCommandLimit at h
  cases h
  refine Moves.step ?_ (Moves.mono (by decide) (doCommandLimit_moves _ _))
  exact Moves.refl _ _

theorem execCommandAreaWrite_moves (mb k : Nat) (w : Word) (s : State) {t : State} (h : execCommandAreaWrite mb k w s = .next t) :
    Moves [.mbx] s t := by
  unfold execCommandAreaWrite at h
  cases h
  refine Moves.step ?_ (Moves.mono (by decide) (doCommandAreaWrite_moves _ _ _ _))
  exact Moves.refl _ _

theorem execMbnRes0Read_moves (mb : Nat) (s : State) {t : State} (h : execMbnRes0Read mb s = .next t) :
    Moves [.mbx] s t := by
  unfold execMbnRes0Read at h
  cases h
  refine Moves.step ?_ (Moves.mono (by decide) (doMbnRes0Read_moves _ _))
  exact Moves.refl _ _

theorem execMbxAckWrite_moves (w : Word) (s : State) {t : State} (h : execMbxAckWrite w s = .next t) :
    Moves [.mbx] s t := by
  unfold execMbxAckWrite at h
  cases h
  refine Moves.step ?_ (Moves.mono (by decide) (doMbxAckWrite_moves _ _))
  exact Moves.refl _ _

theorem execSysInfo_moves (mb : Nat) (s : State) {t : State} (h : execSysInfo mb s = .next t) :
    Moves [.evc, .mbx, .fab] s t := by
  unfold execSysInfo at h
  cases h
  refine Moves.step ?_ (State.perform_moves (by decide) (fun _ x0 => ?_))
  · exact Moves.refl _ _
  · refine Moves.step ?_ (Moves.mono (by decide) (State.post_moves _ _ _ _))
    exact Moves.refl _ _

theorem execSysReset_moves (mb : Nat) (s : State) {t : State} (h : execSysReset mb s = .next t) :
    Moves [.tbu, .tmr, .evc, .psc, .pad, .mbx, .boot, .cfg, .fab, .parts, .lf, .pop, .radio, .sess, .rel, .crypt, .keys, .met, .ledger, .health, .net, .cores, .mem] s t := by
  unfold execSysReset at h
  cases h
  refine Moves.step ?_ (Moves.mono (by decide) (doSysReset_moves _ _))
  exact Moves.refl _ _

theorem execSysEvent_moves (mb : Nat) (s : State) {t : State} (h : execSysEvent mb s = .next t) :
    Moves [.evc, .mbx, .fab] s t := by
  unfold execSysEvent at h
  cases h
  refine Moves.step ?_ (State.perform_moves (by decide) (fun _ x0 => ?_))
  · exact Moves.refl _ _
  · try extract_lets +onlyGivenNames x1
    try clear_value x1
    try extract_lets +onlyGivenNames x2
    try clear_value x2
    refine Moves.step ?_ (Moves.mono (by decide) (State.postWith_moves _ _ _ _ _))
    refine Moves.step ?_ (Moves.mono (by decide) (State.raise_moves _ _ _))
    exact Moves.refl _ _

theorem execSysHealth_moves (mb : Nat) (s : State) {t : State} (h : execSysHealth mb s = .next t) :
    Moves [.evc, .mbx, .fab, .mem, .free] s t := by
  unfold execSysHealth at h
  cases h
  refine Moves.step ?_ (State.perform_moves (by decide) (fun _ x0 => ?_))
  · exact Moves.refl _ _
  · try extract_lets +onlyGivenNames x1
    try clear_value x1
    try extract_lets +onlyGivenNames x2
    try clear_value x2
    try extract_lets +onlyGivenNames x3
    try clear_value x3
    refine Moves.step ?_ (Moves.mono (by decide) (State.post_moves _ _ _ _))
    refine Moves.step ?_ (Moves.mono (by decide) (State.toWindow_moves _ _ _ _))
    refine Moves.step ?_ (Moves.mono (by decide) (State.drawn_moves _))
    exact Moves.refl _ _

theorem execTimeStatus_moves (mb : Nat) (s : State) {t : State} (h : execTimeStatus mb s = .next t) :
    Moves [.evc, .mbx, .fab, .mem] s t := by
  unfold execTimeStatus at h
  cases h
  refine Moves.step ?_ (State.perform_moves (by decide) (fun _ x0 => ?_))
  · exact Moves.refl _ _
  · refine Moves.step ?_ (Moves.mono (by decide) (State.post_moves _ _ _ _))
    refine Moves.step ?_ (Moves.mono (by decide) (State.toWindow_moves _ _ _ _))
    exact Moves.refl _ _

theorem execTimeCivil_moves (mb : Nat) (s : State) {t : State} (h : execTimeCivil mb s = .next t) :
    Moves [.tbu, .evc, .mbx, .fab] s t := by
  unfold execTimeCivil at h
  cases h
  refine Moves.step ?_ (State.perform_moves (by decide) (fun _ x0 => ?_))
  · exact Moves.refl _ _
  · try extract_lets +onlyGivenNames x1
    try clear_value x1
    try extract_lets +onlyGivenNames x2
    try clear_value x2
    refine Moves.step ?_ (Moves.mono (by decide) (State.post_moves _ _ _ _))
    refine Moves.step ?_ (Moves.mono (by decide) (State.tbuEvt_moves _ _))
    refine Moves.step ?_ (Moves.mono (by decide) (State.modTbu_movesAll _ _ (fun _ => by exact Tbu.keeps_of rfl rfl rfl rfl rfl rfl)))
    exact Moves.refl _ _

theorem execDiagTempo_moves (mb : Nat) (s : State) {t : State} (h : execDiagTempo mb s = .next t) :
    Moves [.evc, .mbx, .fab] s t := by
  unfold execDiagTempo at h
  cases h
  refine Moves.step ?_ (State.perform_moves (by decide) (fun _ x0 => ?_))
  · exact Moves.refl _ _
  · refine Moves.step ?_ (Moves.mono (by decide) (State.post_moves _ _ _ _))
    exact Moves.refl _ _

theorem execDiagFaults_moves (mb : Nat) (s : State) {t : State} (h : execDiagFaults mb s = .next t) :
    Moves [.evc, .mbx, .fab] s t := by
  unfold execDiagFaults at h
  cases h
  refine Moves.step ?_ (State.perform_moves (by decide) (fun _ x0 => ?_))
  · exact Moves.refl _ _
  · refine Moves.step ?_ (Moves.mono (by decide) (State.post_moves _ _ _ _))
    refine Moves.ite (fun _ => ?_) (fun _ => ?_)
    · refine Moves.step ?_ (Moves.mono (by decide) (State.clearFaultCounts_moves _))
      exact Moves.refl _ _
    · exact Moves.refl _ _

theorem execCfgLoad_moves (mb : Nat) (s : State) {t : State} (h : execCfgLoad mb s = .next t) :
    Moves [.evc, .mbx, .boot, .fab, .mem] s t := by
  unfold execCfgLoad at h
  cases h
  refine Moves.step ?_ (State.perform_moves (by decide) (fun _ x0 => ?_))
  · exact Moves.refl _ _
  · try extract_lets +onlyGivenNames x1
    try clear_value x1
    split
    · refine Moves.step ?_ (Moves.mono (by decide) (State.post_moves _ _ _ _))
      exact Moves.refl _ _
    · extract_lets +onlyGivenNames x2
      have hx2 : Moves [.evc, .mbx, .boot, .fab, .mem] x0 x2 := by
        refine Moves.step ?_ (Moves.mono (by decide) (State.loadMeton_moves _ _ _))
        exact Moves.refl _ _
      clear_value x2
      refine Moves.step ?_ (Moves.mono (by decide) (State.post_moves _ _ _ _))
      exact hx2

theorem execCfgActivate_moves (mb : Nat) (s : State) {t : State} (h : execCfgActivate mb s = .next t) :
    Moves [.tbu, .evc, .psc, .pad, .mbx, .boot, .cfg, .fab, .parts, .lf, .pop, .radio, .sess, .rel, .keys, .ledger, .health, .tamper, .free] s t := by
  unfold execCfgActivate at h
  cases h
  refine Moves.step ?_ (State.perform_moves (by decide) (fun _ x0 => ?_))
  · exact Moves.refl _ _
  · refine Moves.step ?_ (Moves.mono (by decide) (State.cfgActivate_moves _ _))
    exact Moves.refl _ _

theorem execCfgStatus_moves (mb : Nat) (s : State) {t : State} (h : execCfgStatus mb s = .next t) :
    Moves [.evc, .mbx, .fab] s t := by
  unfold execCfgStatus at h
  cases h
  refine Moves.step ?_ (State.perform_moves (by decide) (fun _ x0 => ?_))
  · exact Moves.refl _ _
  · refine Moves.step ?_ (Moves.mono (by decide) (State.post_moves _ _ _ _))
    exact Moves.refl _ _

theorem execCfgSet_moves (mb : Nat) (s : State) {t : State} (h : execCfgSet mb s = .next t) :
    Moves [.tbu, .evc, .psc, .pad, .mbx, .cfg, .fab, .parts, .lf, .pop, .radio, .sess, .rel, .keys, .ledger, .health, .free] s t := by
  unfold execCfgSet at h
  cases h
  refine Moves.step ?_ (State.perform_moves (by decide) (fun _ x0 => ?_))
  · exact Moves.refl _ _
  · try extract_lets +onlyGivenNames x1
    try clear_value x1
    try extract_lets +onlyGivenNames x2
    try clear_value x2
    try extract_lets +onlyGivenNames x3
    try clear_value x3
    split
    · refine Moves.step ?_ (Moves.mono (by decide) (State.post_moves _ _ _ _))
      refine Moves.step ?_ (Moves.mono (by decide) (State.bringIn_moves _ _))
      exact Moves.refl _ _
    · refine Moves.step ?_ (Moves.mono (by decide) (State.post_moves _ _ _ _))
      exact Moves.refl _ _

theorem execCfgGet_moves (mb : Nat) (s : State) {t : State} (h : execCfgGet mb s = .next t) :
    Moves [.evc, .mbx, .fab] s t := by
  unfold execCfgGet at h
  cases h
  refine Moves.step ?_ (State.perform_moves (by decide) (fun _ x0 => ?_))
  · exact Moves.refl _ _
  · refine Moves.step ?_ (Moves.mono (by decide) (State.post_moves _ _ _ _))
    exact Moves.refl _ _

theorem execFwWrite_moves (mb : Nat) (s : State) {t : State} (h : execFwWrite mb s = .next t) :
    Moves [.evc, .mbx, .boot, .fab, .mem] s t := by
  unfold execFwWrite at h
  cases h
  refine Moves.step ?_ (State.perform_moves (by decide) (fun _ x0 => ?_))
  · exact Moves.refl _ _
  · try extract_lets +onlyGivenNames x1
    try clear_value x1
    split
    · refine Moves.step ?_ (Moves.mono (by decide) (State.post_moves _ _ _ _))
      exact Moves.refl _ _
    · extract_lets +onlyGivenNames x2
      have hx2 : Moves [.evc, .mbx, .boot, .fab, .mem] x0 x2 := by
        refine Moves.step ?_ (Moves.mono (by decide) (State.loadFw_moves _ _ _))
        exact Moves.refl _ _
      clear_value x2
      refine Moves.step ?_ (Moves.mono (by decide) (State.post_moves _ _ _ _))
      exact hx2

theorem execFwActivate_moves (mb : Nat) (s : State) {t : State} (h : execFwActivate mb s = .next t) :
    Moves [.tbu, .tmr, .evc, .psc, .pad, .mbx, .boot, .cfg, .fab, .parts, .lf, .pop, .radio, .sess, .rel, .crypt, .keys, .met, .ledger, .health, .net, .cores, .mem] s t := by
  unfold execFwActivate at h
  cases h
  refine Moves.step ?_ (State.perform_moves (by decide) (fun _ x0 => ?_))
  · exact Moves.refl _ _
  · refine Moves.step ?_ (Moves.mono (by decide) (State.fwActivate_moves _ _ _))
    exact Moves.refl _ _

theorem execFwStatus_moves (mb : Nat) (s : State) {t : State} (h : execFwStatus mb s = .next t) :
    Moves [.evc, .mbx, .fab] s t := by
  unfold execFwStatus at h
  cases h
  refine Moves.step ?_ (State.perform_moves (by decide) (fun _ x0 => ?_))
  · exact Moves.refl _ _
  · refine Moves.step ?_ (Moves.mono (by decide) (State.post_moves _ _ _ _))
    exact Moves.refl _ _

theorem execPartEnrol_moves (mb : Nat) (s : State) {t : State} (h : execPartEnrol mb s = .next t) :
    Moves [.evc, .psc, .pad, .mbx, .fab, .parts, .lf, .pop, .radio, .sess, .rel, .keys, .ledger, .health, .net, .free] s t := by
  unfold execPartEnrol at h
  cases h
  refine Moves.ite (fun _ => ?_) (fun _ => ?_)
  · exact Moves.refl _ _
  · refine Moves.step ?_ (State.perform_moves (by decide) (fun _ x0 => ?_))
    · exact Moves.refl _ _
    · try extract_lets +onlyGivenNames x1
      try clear_value x1
      refine Moves.step ?_ (Moves.mono (by decide) (State.startEnrol_moves _ _))
      refine Moves.step ?_ (Moves.mono (by decide) (State.wait_moves _ _))
      exact Moves.refl _ _

theorem execSessPoll_moves (mb : Nat) (s : State) {t : State} (h : execSessPoll mb s = .next t) :
    Moves [.evc, .psc, .pad, .mbx, .fab, .parts, .lf, .pop, .radio, .sess, .rel, .keys, .ledger, .health, .free] s t := by
  unfold execSessPoll at h
  cases h
  refine Moves.step ?_ (State.perform_moves (by decide) (fun _ x0 => ?_))
  · exact Moves.refl _ _
  · refine Moves.step ?_ (Moves.mono (by decide) (State.considerAll_moves _))
    refine Moves.step ?_ (Moves.mono (by decide) (State.requestWake_moves _ _ _ _))
    refine Moves.step ?_ (Moves.mono (by decide) (State.wait_moves _ _))
    exact Moves.refl _ _

theorem execSessStatus_moves (mb : Nat) (s : State) {t : State} (h : execSessStatus mb s = .next t) :
    Moves [.evc, .mbx, .fab, .mem] s t := by
  unfold execSessStatus at h
  cases h
  refine Moves.step ?_ (State.perform_moves (by decide) (fun _ x0 => ?_))
  · exact Moves.refl _ _
  · try extract_lets +onlyGivenNames x1
    try clear_value x1
    try extract_lets +onlyGivenNames x2
    try clear_value x2
    refine Moves.step ?_ (Moves.mono (by decide) (State.post_moves _ _ _ _))
    refine Moves.step ?_ (Moves.mono (by decide) (State.toWindow_moves _ _ _ _))
    exact Moves.refl _ _

theorem execSessLast_moves (mb : Nat) (s : State) {t : State} (h : execSessLast mb s = .next t) :
    Moves [.evc, .mbx, .fab] s t := by
  unfold execSessLast at h
  cases h
  refine Moves.step ?_ (State.perform_moves (by decide) (fun _ x0 => ?_))
  · exact Moves.refl _ _
  · refine Moves.step ?_ (Moves.mono (by decide) (State.post_moves _ _ _ _))
    exact Moves.refl _ _

theorem execRangeStatus_moves (mb : Nat) (s : State) {t : State} (h : execRangeStatus mb s = .next t) :
    Moves [.evc, .mbx, .fab, .mem] s t := by
  unfold execRangeStatus at h
  cases h
  refine Moves.step ?_ (State.perform_moves (by decide) (fun _ x0 => ?_))
  · exact Moves.refl _ _
  · try extract_lets +onlyGivenNames x1
    try clear_value x1
    try extract_lets +onlyGivenNames x2
    try clear_value x2
    refine Moves.step ?_ (Moves.mono (by decide) (State.post_moves _ _ _ _))
    refine Moves.step ?_ (Moves.mono (by decide) (State.toWindow_moves _ _ _ _))
    exact Moves.refl _ _

theorem execRangeTest_moves (mb : Nat) (s : State) {t : State} (h : execRangeTest mb s = .next t) :
    Moves [.evc, .psc, .pad, .mbx, .fab, .parts, .lf, .pop, .radio, .sess, .rel, .keys, .ledger, .health, .free] s t := by
  unfold execRangeTest at h
  cases h
  refine Moves.step ?_ (State.perform_moves (by decide) (fun _ x0 => ?_))
  · exact Moves.refl _ _
  · try extract_lets +onlyGivenNames x1
    try clear_value x1
    try extract_lets +onlyGivenNames x2
    try clear_value x2
    refine Moves.step ?_ (Moves.mono (by decide) (State.considerAll_moves _))
    refine Moves.step ?_ (Moves.mono (by decide) (State.requestWake_moves _ _ _ _))
    refine Moves.step ?_ (Moves.mono (by decide) (State.modSess_moves _ _))
    refine Moves.step ?_ (Moves.mono (by decide) (State.wait_moves _ _))
    exact Moves.refl _ _

theorem execReportFrame_moves (m : Reception) (payload : Option (List Byte)) (s : State) {t : State} (h : execReportFrame m payload s = .next t) :
    Moves [.evc, .psc, .pad, .mbx, .fab, .parts, .lf, .pop, .radio, .sess, .rel, .keys, .ledger, .health, .mem, .free] s t := by
  unfold execReportFrame at h
  cases h
  refine Moves.step ?_ (Moves.mono (by decide) (doReport_moves _ _ _))
  exact Moves.refl _ _

theorem execPartEnrolOpen_moves (mb : Nat) (s : State) {t : State} (h : execPartEnrolOpen mb s = .next t) :
    Moves [.evc, .mbx, .fab, .parts] s t := by
  unfold execPartEnrolOpen at h
  cases h
  refine Moves.step ?_ (State.perform_moves (by decide) (fun _ x0 => ?_))
  · exact Moves.refl _ _
  · refine Moves.step ?_ (Moves.mono (by decide) (State.post_moves _ _ _ _))
    refine Moves.step ?_ (Moves.mono (by decide) (State.openWindow_moves _))
    exact Moves.refl _ _

theorem execPartGet_moves (mb : Nat) (s : State) {t : State} (h : execPartGet mb s = .next t) :
    Moves [.evc, .mbx, .fab, .parts, .ledger] s t := by
  unfold execPartGet at h
  cases h
  refine Moves.step ?_ (State.perform_moves (by decide) (fun _ x0 => ?_))
  · exact Moves.refl _ _
  · try extract_lets +onlyGivenNames x1
    try clear_value x1
    extract_lets +onlyGivenNames x2
    have hx2 : Moves [.evc, .mbx, .fab, .parts, .ledger] x0 x2 := by
      refine Moves.step ?_ (Moves.mono (by decide) (State.evalIdentity_moves _ _))
      exact Moves.refl _ _
    clear_value x2
    refine Moves.ite (fun _ => ?_) (fun _ => ?_)
    · refine Moves.step ?_ (Moves.mono (by decide) (State.post_moves _ _ _ _))
      exact hx2
    · refine Moves.step ?_ (Moves.mono (by decide) (State.post_moves _ _ _ _))
      exact hx2

theorem execPartList_moves (mb : Nat) (s : State) {t : State} (h : execPartList mb s = .next t) :
    Moves [.evc, .mbx, .fab, .ledger, .mem] s t := by
  unfold execPartList at h
  cases h
  refine Moves.step ?_ (State.perform_moves (by decide) (fun _ x0 => ?_))
  · exact Moves.refl _ _
  · try extract_lets +onlyGivenNames x1
    try clear_value x1
    try extract_lets +onlyGivenNames x2
    try clear_value x2
    try extract_lets +onlyGivenNames x3
    try clear_value x3
    try extract_lets +onlyGivenNames x4
    try clear_value x4
    extract_lets +onlyGivenNames x5
    have hx5 : Moves [.evc, .mbx, .fab, .ledger, .mem] x0 x5 := by
      refine Moves.step ?_ (Moves.mono (by decide) (State.toWindow_moves _ _ _ _))
      exact Moves.refl _ _
    clear_value x5
    refine Moves.step ?_ (Moves.mono (by decide) (State.post_moves _ _ _ _))
    refine Moves.foldl ?_ (fun x6 _ hx6 => ?_)
    · exact hx5
    · refine Moves.step ?_ (Moves.mono (by decide) (State.noteMisplaced_moves _ _))
      exact hx6

theorem execPartSet_moves (mb : Nat) (s : State) {t : State} (h : execPartSet mb s = .next t) :
    Moves [.evc, .mbx, .fab, .parts, .lf, .pop, .radio, .sess, .keys, .ledger, .health, .free] s t := by
  unfold execPartSet at h
  cases h
  refine Moves.step ?_ (State.perform_moves (by decide) (fun _ x0 => ?_))
  · exact Moves.refl _ _
  · split
    · try extract_lets +onlyGivenNames x1
      try clear_value x1
      extract_lets +onlyGivenNames x2
      have hx2 : Moves [.evc, .mbx, .fab, .parts, .lf, .pop, .radio, .sess, .keys, .ledger, .health, .free] x0 x2 := by
        refine Moves.ite (fun _ => ?_) (fun _ => ?_)
        · refine Moves.step ?_ (Moves.mono (by decide) (State.writeRec_moves _ _ _))
          exact Moves.refl _ _
        · refine Moves.step ?_ (Moves.mono (by decide) (State.changeRec_moves _ _ _ _))
          exact Moves.refl _ _
      clear_value x2
      refine Moves.step ?_ (Moves.mono (by decide) (State.post_moves _ _ _ _))
      refine Moves.step ?_ (Moves.mono (by decide) (State.noteModule_moves _ _))
      exact hx2
    · refine Moves.step ?_ (Moves.mono (by decide) (State.post_moves _ _ _ _))
      exact Moves.refl _ _

theorem execPartAbsent_moves (mb : Nat) (s : State) {t : State} (h : execPartAbsent mb s = .next t) :
    Moves [.evc, .mbx, .fab, .parts, .lf, .pop, .radio, .sess, .keys, .ledger, .health, .net, .free] s t := by
  unfold execPartAbsent at h
  cases h
  refine Moves.step ?_ (State.perform_moves (by decide) (fun _ x0 => ?_))
  · exact Moves.refl _ _
  · split
    · extract_lets +onlyGivenNames x1
      have hx1 : Moves [.evc, .mbx, .fab, .parts, .lf, .pop, .radio, .sess, .keys, .ledger, .health, .net, .free] x0 x1 := by
        refine Moves.step ?_ (Moves.mono (by decide) (State.changeRec_moves _ _ _ _))
        exact Moves.refl _ _
      clear_value x1
      refine Moves.step ?_ (Moves.mono (by decide) (State.post_moves _ _ _ _))
      refine Moves.step ?_ (Moves.mono (by decide) (State.noteModule_moves _ _))
      refine Moves.step ?_ (Moves.mono (by decide) (State.abortLanes_moves _ _))
      exact hx1
    · refine Moves.step ?_ (Moves.mono (by decide) (State.post_moves _ _ _ _))
      exact Moves.refl _ _

theorem execPartRemove_moves (mb : Nat) (s : State) {t : State} (h : execPartRemove mb s = .next t) :
    Moves [.evc, .mbx, .fab, .parts, .lf, .pop, .radio, .sess, .keys, .ledger, .health, .net, .free] s t := by
  unfold execPartRemove at h
  cases h
  refine Moves.step ?_ (State.perform_moves (by decide) (fun _ x0 => ?_))
  · exact Moves.refl _ _
  · split
    · extract_lets +onlyGivenNames x1
      have hx1 : Moves [.evc, .mbx, .fab, .parts, .lf, .pop, .radio, .sess, .keys, .ledger, .health, .net, .free] x0 x1 := by
        refine Moves.step ?_ (Moves.mono (by decide) (State.removeRec_moves _ _))
        exact Moves.refl _ _
      clear_value x1
      refine Moves.step ?_ (Moves.mono (by decide) (State.post_moves _ _ _ _))
      refine Moves.step ?_ (Moves.mono (by decide) (State.noteModule_moves _ _))
      refine Moves.step ?_ (Moves.mono (by decide) (State.abortLanes_moves _ _))
      exact hx1
    · refine Moves.step ?_ (Moves.mono (by decide) (State.post_moves _ _ _ _))
      exact Moves.refl _ _

theorem execPartRekey_moves (mb : Nat) (s : State) {t : State} (h : execPartRekey mb s = .next t) :
    Moves [.evc, .mbx, .fab, .parts] s t := by
  unfold execPartRekey at h
  cases h
  refine Moves.step ?_ (State.perform_moves (by decide) (fun _ x0 => ?_))
  · exact Moves.refl _ _
  · try extract_lets +onlyGivenNames x1
    try clear_value x1
    extract_lets +onlyGivenNames x2
    have hx2 : Moves [.evc, .mbx, .fab, .parts] x0 x2 := by
      refine Moves.step ?_ (Moves.mono (by decide) (State.updateRec_moves _ _ _))
      exact Moves.refl _ _
    clear_value x2
    refine Moves.step ?_ (Moves.mono (by decide) (State.post_moves _ _ _ _))
    exact hx2

theorem execPartUnlock_moves (mb : Nat) (s : State) {t : State} (h : execPartUnlock mb s = .next t) :
    Moves [.evc, .mbx, .fab, .parts, .ledger] s t := by
  unfold execPartUnlock at h
  cases h
  refine Moves.step ?_ (State.perform_moves (by decide) (fun _ x0 => ?_))
  · exact Moves.refl _ _
  · try extract_lets +onlyGivenNames x1
    try clear_value x1
    extract_lets +onlyGivenNames x2
    have hx2 : MovesFst [.evc, .mbx, .fab, .parts, .ledger] x0 x2 := by
      refine MovesFst.ite (fun _ => ?_) (fun _ => ?_)
      · refine MovesFst.step ?_ (Moves.mono (by decide) (State.unlockIdentity_moves _ _))
        exact Moves.refl _ _
      · refine MovesFst.step ?_ (Moves.mono (by decide) (State.unlockAttach_moves _ _))
        exact Moves.refl _ _
    clear_value x2
    refine Moves.step ?_ (Moves.mono (by decide) (State.post_moves _ _ _ _))
    show MovesFst _ _ _
    exact hx2

theorem execLfStatus_moves (mb : Nat) (s : State) {t : State} (h : execLfStatus mb s = .next t) :
    Moves [.evc, .mbx, .fab, .mem] s t := by
  unfold execLfStatus at h
  cases h
  refine Moves.step ?_ (State.perform_moves (by decide) (fun _ x0 => ?_))
  · exact Moves.refl _ _
  · refine Moves.step ?_ (Moves.mono (by decide) (State.post_moves _ _ _ _))
    refine Moves.step ?_ (Moves.mono (by decide) (State.toWindow_moves _ _ _ _))
    exact Moves.refl _ _

theorem execLfDiag_moves (mb : Nat) (s : State) {t : State} (h : execLfDiag mb s = .next t) :
    Moves [.evc, .psc, .pad, .mbx, .fab, .parts, .lf, .pop, .radio, .sess, .rel, .keys, .ledger, .health, .free] s t := by
  unfold execLfDiag at h
  cases h
  refine Moves.step ?_ (State.perform_moves (by decide) (fun _ x0 => ?_))
  · exact Moves.refl _ _
  · try extract_lets +onlyGivenNames x1
    try clear_value x1
    refine Moves.step ?_ (Moves.mono (by decide) (State.considerAll_moves _))
    refine Moves.foldl ?_ (fun x2 _ hx2 => ?_)
    · refine Moves.step ?_ (Moves.mono (by decide) (State.modLf_movesAll _ _ (fun _ => by exact Lf.keeps_of rfl)))
      refine Moves.step ?_ (Moves.mono (by decide) (State.wait_moves _ _))
      exact Moves.refl _ _
    · refine Moves.step ?_ (Moves.mono (by decide) (State.requestMeasure_moves _ _))
      exact hx2

theorem execLfTune_moves (mb : Nat) (s : State) {t : State} (h : execLfTune mb s = .next t) :
    Moves [.evc, .mbx, .cfg, .fab] s t := by
  unfold execLfTune at h
  cases h
  refine Moves.step ?_ (State.perform_moves (by decide) (fun _ x0 => ?_))
  · exact Moves.refl _ _
  · try extract_lets +onlyGivenNames x1
    try clear_value x1
    extract_lets +onlyGivenNames x2
    have hx2 : Moves [.evc, .mbx, .cfg, .fab] x0 x2 := by
      refine Moves.step ?_ (Moves.mono (by decide) (State.tune_moves _ _ _))
      exact Moves.refl _ _
    clear_value x2
    refine Moves.step ?_ (Moves.mono (by decide) (State.post_moves _ _ _ _))
    exact hx2

theorem execLfPhase_moves (mb : Nat) (s : State) {t : State} (h : execLfPhase mb s = .next t) :
    Moves [.evc, .psc, .pad, .mbx, .fab, .parts, .lf, .pop, .radio, .sess, .rel, .keys, .ledger, .health, .free] s t := by
  unfold execLfPhase at h
  cases h
  refine Moves.step ?_ (State.perform_moves (by decide) (fun _ x0 => ?_))
  · exact Moves.refl _ _
  · try extract_lets +onlyGivenNames x1
    try clear_value x1
    refine Moves.step ?_ (Moves.mono (by decide) (State.considerAll_moves _))
    refine Moves.step ?_ (Moves.mono (by decide) (State.putRequest_moves _ _))
    refine Moves.step ?_ (Moves.mono (by decide) (State.wait_moves _ _))
    exact Moves.refl _ _

theorem execBurstRequest_moves (cls what : Nat) (s : State) {t : State} (h : execBurstRequest cls what s = .next t) :
    Moves [.evc, .psc, .pad, .mbx, .fab, .parts, .lf, .pop, .radio, .sess, .rel, .keys, .ledger, .health, .free] s t := by
  unfold execBurstRequest at h
  cases h
  refine Moves.step ?_ (Moves.mono (by decide) (doBurstRequest_moves _ _ _))
  exact Moves.refl _ _

theorem execBurstEnd_moves (id : Nat) (silent : BitVec 64) (s : State) {t : State} (h : execBurstEnd id silent s = .next t) :
    Moves [.evc, .mbx, .fab, .parts, .lf, .pop, .radio, .sess, .keys, .ledger, .health, .free] s t := by
  unfold execBurstEnd at h
  cases h
  refine Moves.step ?_ (Moves.mono (by decide) (doBurstEnd_moves _ _ _))
  exact Moves.refl _ _

theorem execOvercurrentTrip_moves (c : Nat) (s : State) {t : State} (h : execOvercurrentTrip c s = .next t) :
    Moves [.evc, .psc, .pad, .mbx, .fab, .parts, .lf, .pop, .radio, .sess, .rel, .keys, .ledger, .health, .free] s t := by
  unfold execOvercurrentTrip at h
  cases h
  refine Moves.step ?_ (Moves.mono (by decide) (doOvercurrentTrip_moves _ _))
  exact Moves.refl _ _

theorem execResonanceMeasurement_moves (c : Nat) (r : CoilReading) (s : State) {t : State} (h : execResonanceMeasurement c r s = .next t) :
    Moves [.evc, .psc, .pad, .mbx, .fab, .parts, .lf, .pop, .radio, .sess, .rel, .keys, .ledger, .health, .free] s t := by
  unfold execResonanceMeasurement at h
  cases h
  refine Moves.step ?_ (Moves.mono (by decide) (doResonanceMeasurement_moves _ _ _))
  exact Moves.refl _ _

theorem execCoilDiagnosticsDue_moves (s : State) {t : State} (h : execCoilDiagnosticsDue s = .next t) :
    Moves [.evc, .psc, .pad, .mbx, .fab, .parts, .lf, .pop, .radio, .sess, .rel, .keys, .ledger, .health, .free] s t := by
  unfold execCoilDiagnosticsDue at h
  cases h
  refine Moves.step ?_ (Moves.mono (by decide) (doCoilDiagnosticsDue_moves _))
  exact Moves.refl _ _

theorem execLfPopulation_moves (mb : Nat) (s : State) {t : State} (h : execLfPopulation mb s = .next t) :
    Moves [.evc, .mbx, .fab] s t := by
  unfold execLfPopulation at h
  cases h
  refine Moves.step ?_ (State.perform_moves (by decide) (fun _ x0 => ?_))
  · exact Moves.refl _ _
  · refine Moves.step ?_ (Moves.mono (by decide) (State.post_moves _ _ _ _))
    exact Moves.refl _ _

end Sys2Proof.Machine
end

