-- ==== Sys2Proof/Laws/Rows3.lean ====
section
/-!
SUPPORT. What each command leaves unchanged and what it keeps of the invariant, part 3 of the rows.
-/
namespace Sys2Proof.Machine

theorem execLfPopcheck_moves (mb : Nat) (s : State) {t : State} (h : execLfPopcheck mb s = .next t) :
    Moves [.evc, .psc, .pad, .mbx, .fab, .parts, .lf, .pop, .radio, .sess, .rel, .keys, .ledger, .health, .free] s t := by
  unfold execLfPopcheck at h
  cases h
  refine Moves.step ?_ (State.perform_moves (by decide) (fun _ x0 => ?_))
  · exact Moves.refl _ _
  · refine Moves.step ?_ (Moves.mono (by decide) (State.requestCheck_moves _ _))
    refine Moves.step ?_ (Moves.mono (by decide) (State.wait_moves _ _))
    exact Moves.refl _ _

theorem execPopulationCheckDue_moves (s : State) {t : State} (h : execPopulationCheckDue s = .next t) :
    Moves [.evc, .psc, .pad, .mbx, .fab, .parts, .lf, .pop, .radio, .sess, .rel, .keys, .ledger, .health, .free] s t := by
  unfold execPopulationCheckDue at h
  cases h
  refine Moves.step ?_ (Moves.mono (by decide) (doPopulationCheckDue_moves _))
  exact Moves.refl _ _

theorem execUplinkFrame_moves (coil : Nat) (frame : Option (Nat × Nat)) (s : State) {t : State} (h : execUplinkFrame coil frame s = .next t) :
    Moves [.evc, .mbx, .fab, .parts, .lf, .pop, .radio, .sess, .keys, .ledger, .health, .free] s t := by
  unfold execUplinkFrame at h
  cases h
  refine Moves.step ?_ (Moves.mono (by decide) (doUplinkFrame_moves _ _ _))
  exact Moves.refl _ _

theorem execNoAnswer_moves (coil : Nat) (s : State) {t : State} (h : execNoAnswer coil s = .next t) :
    Moves [.evc, .mbx, .parts, .lf, .pop, .radio, .sess, .keys, .ledger, .health, .free] s t := by
  unfold execNoAnswer at h
  cases h
  refine Moves.step ?_ (Moves.mono (by decide) (doNoAnswer_moves _ _))
  exact Moves.refl _ _

theorem execLockoutEnd_moves (s : State) {t : State} (h : execLockoutEnd s = .next t) :
    Moves [.evc, .psc, .pad, .mbx, .fab, .parts, .lf, .pop, .radio, .sess, .rel, .keys, .ledger, .health, .free] s t := by
  unfold execLockoutEnd at h
  cases h
  refine Moves.step ?_ (Moves.mono (by decide) (doLockoutEnd_moves _))
  exact Moves.refl _ _

theorem execRelConsent_moves (mb : Nat) (s : State) {t : State} (h : execRelConsent mb s = .next t) :
    Moves [.evc, .psc, .pad, .mbx, .fab, .parts, .lf, .pop, .radio, .sess, .rel, .keys, .ledger, .health, .free] s t := by
  unfold execRelConsent at h
  cases h
  refine Moves.step ?_ (State.perform_moves (by decide) (fun _ x0 => ?_))
  · exact Moves.refl _ _
  · extract_lets +onlyGivenNames x1
    have hx1 : Moves [.evc, .psc, .pad, .mbx, .fab, .parts, .lf, .pop, .radio, .sess, .rel, .keys, .ledger, .health, .free] x0 x1 := by
      refine Moves.step ?_ (Moves.mono (by decide) (State.evalDecision_moves _))
      refine Moves.step ?_ (Moves.mono (by decide) (State.modRel_moves _ _))
      exact Moves.refl _ _
    clear_value x1
    refine Moves.step ?_ (Moves.mono (by decide) (State.post_moves _ _ _ _))
    exact hx1

theorem execRelRevoke_moves (mb : Nat) (s : State) {t : State} (h : execRelRevoke mb s = .next t) :
    Moves [.evc, .mbx, .fab, .rel] s t := by
  unfold execRelRevoke at h
  cases h
  refine Moves.step ?_ (State.perform_moves (by decide) (fun _ x0 => ?_))
  · exact Moves.refl _ _
  · extract_lets +onlyGivenNames x1
    have hx1 : Moves [.evc, .mbx, .fab, .rel] x0 x1 := by
      refine Moves.step ?_ (Moves.mono (by decide) (State.addCause_moves _ _))
      exact Moves.refl _ _
    clear_value x1
    refine Moves.step ?_ (Moves.mono (by decide) (State.post_moves _ _ _ _))
    exact hx1

theorem execRelCancel_moves (mb : Nat) (s : State) {t : State} (h : execRelCancel mb s = .next t) :
    Moves [.evc, .psc, .pad, .mbx, .fab, .parts, .lf, .pop, .radio, .sess, .rel, .keys, .ledger, .health, .free] s t := by
  unfold execRelCancel at h
  cases h
  refine Moves.step ?_ (State.perform_moves (by decide) (fun _ x0 => ?_))
  · exact Moves.refl _ _
  · extract_lets +onlyGivenNames x1
    have hx1 : Moves [.evc, .psc, .pad, .mbx, .fab, .parts, .lf, .pop, .radio, .sess, .rel, .keys, .ledger, .health, .free] x0 x1 := by
      refine Moves.step ?_ (Moves.mono (by decide) (State.evalDecision_moves _))
      refine Moves.step ?_ (Moves.mono (by decide) (State.dropCause_moves _ _))
      exact Moves.refl _ _
    clear_value x1
    refine Moves.step ?_ (Moves.mono (by decide) (State.post_moves _ _ _ _))
    exact hx1

theorem execRelStatus_moves (mb : Nat) (s : State) {t : State} (h : execRelStatus mb s = .next t) :
    Moves [.evc, .mbx, .fab] s t := by
  unfold execRelStatus at h
  cases h
  refine Moves.step ?_ (State.perform_moves (by decide) (fun _ x0 => ?_))
  · exact Moves.refl _ _
  · refine Moves.step ?_ (Moves.mono (by decide) (State.post_moves _ _ _ _))
    exact Moves.refl _ _

theorem execPopulationPhaseEnd_moves (s : State) {t : State} (h : execPopulationPhaseEnd s = .next t) :
    Moves [.evc, .psc, .pad, .mbx, .fab, .parts, .lf, .pop, .radio, .sess, .rel, .keys, .ledger, .health, .free] s t := by
  unfold execPopulationPhaseEnd at h
  cases h
  refine Moves.step ?_ (Moves.mono (by decide) (State.evalDecision_moves _))
  refine Moves.step ?_ (Moves.mono (by decide) (doPopulationPhaseEnd_moves _))
  exact Moves.refl _ _

theorem execGraceExpiry_moves (s : State) {t : State} (h : execGraceExpiry s = .next t) :
    Moves [.rel] s t := by
  unfold execGraceExpiry at h
  cases h
  refine Moves.step ?_ (Moves.mono (by decide) (doGraceExpiry_moves _))
  exact Moves.refl _ _

theorem execSstlDisagree_moves (s : State) {t : State} (h : execSstlDisagree s = .next t) :
    Moves [.evc, .rel] s t := by
  unfold execSstlDisagree at h
  cases h
  refine Moves.step ?_ (Moves.mono (by decide) (doSstlDisagree_moves _))
  exact Moves.refl _ _

theorem execReadbackWindowEnd_moves (fbS : Option Bool) (dEdge dRule : Bool) (s : State) {t : State} (h : execReadbackWindowEnd fbS dEdge dRule s = .next t) :
    Moves [.evc, .psc, .pad, .mbx, .fab, .parts, .lf, .pop, .radio, .sess, .rel, .keys, .ledger, .health, .free] s t := by
  unfold execReadbackWindowEnd at h
  cases h
  refine Moves.step ?_ (Moves.mono (by decide) (doReadbackWindowEnd_moves _ _ _ _))
  exact Moves.refl _ _

theorem execLatchComplementTimeout_moves (set : Bool) (s : State) {t : State} (h : execLatchComplementTimeout set s = .next t) :
    Moves [.evc, .rel, .ledger, .health, .free] s t := by
  unfold execLatchComplementTimeout at h
  cases h
  refine Moves.step ?_ (Moves.mono (by decide) (State.healthFree_moves _ _ _ _))
  refine Moves.step ?_ (Moves.mono (by decide) (State.modRel_moves _ _))
  exact Moves.refl _ _

theorem execIdleExpiry_moves (s : State) {t : State} (h : execIdleExpiry s = .next t) :
    Moves [.rel] s t := by
  unfold execIdleExpiry at h
  cases h
  refine Moves.step ?_ (Moves.mono (by decide) (doIdleExpiry_moves _))
  exact Moves.refl _ _

theorem execRevokeNoticeElapsed_moves (s : State) {t : State} (h : execRevokeNoticeElapsed s = .next t) :
    Moves [.rel] s t := by
  unfold execRevokeNoticeElapsed at h
  cases h
  refine Moves.step ?_ (Moves.mono (by decide) (doRevokeNoticeElapsed_moves _))
  exact Moves.refl _ _

theorem execPermissionOscillatorTrim_moves (ppm : Int) (s : State) {t : State} (h : execPermissionOscillatorTrim ppm s = .next t) :
    Moves [.rel] s t := by
  unfold execPermissionOscillatorTrim at h
  cases h
  refine Moves.step ?_ (Moves.mono (by decide) (doPermissionOscillatorTrim_moves _ _))
  exact Moves.refl _ _

theorem execCryptChan_moves (mb : Nat) (s : State) {t : State} (h : execCryptChan mb s = .next t) :
    Moves [.evc, .mbx, .fab, .crypt] s t := by
  unfold execCryptChan at h
  cases h
  refine Moves.step ?_ (State.perform_moves (by decide) (fun _ x0 => ?_))
  · exact Moves.refl _ _
  · try extract_lets +onlyGivenNames x1
    try clear_value x1
    refine Moves.step ?_ (Moves.mono (by decide) (State.post_moves _ _ _ _))
    refine Moves.step ?_ (Moves.mono (by decide) (State.modChan_moves _ _ _))
    exact Moves.refl _ _

theorem execCryptSubmit_moves (mb : Nat) (s : State) {t : State} (h : execCryptSubmit mb s = .next t) :
    Moves [.evc, .mbx, .fab, .crypt, .keys, .mem] s t := by
  unfold execCryptSubmit at h
  cases h
  refine Moves.ite (fun _ => ?_) (fun _ => ?_)
  · refine Moves.step ?_ (Moves.mono (by decide) (State.post_moves _ _ _ _))
    refine Moves.step ?_ (Moves.mono (by decide) (State.submitBreaks_moves _ _))
    exact Moves.refl _ _
  · refine Moves.step ?_ (State.perform_moves (by decide) (fun _ x0 => ?_))
    · exact Moves.refl _ _
    · try extract_lets +onlyGivenNames x1
      try clear_value x1
      extract_lets +onlyGivenNames x2
      have hx2 : Moves [.evc, .mbx, .fab, .crypt, .keys, .mem] x0 x2 := by
        refine Moves.step ?_ (Moves.mono (by decide) (State.placeDesc_moves _ _ _))
        exact Moves.refl _ _
      clear_value x2
      refine Moves.ite (fun _ => ?_) (fun _ => ?_)
      · refine Moves.step ?_ (Moves.mono (by decide) (State.commit_moves _ _))
        refine Moves.step ?_ (Moves.mono (by decide) (State.wait_moves _ _))
        exact hx2
      · refine Moves.step ?_ (Moves.mono (by decide) (State.post_moves _ _ _ _))
        exact hx2

theorem execCryptDone_moves (mb : Nat) (s : State) {t : State} (h : execCryptDone mb s = .next t) :
    Moves [.evc, .mbx, .fab, .crypt] s t := by
  unfold execCryptDone at h
  cases h
  refine Moves.step ?_ (State.perform_moves (by decide) (fun _ x0 => ?_))
  · exact Moves.refl _ _
  · try extract_lets +onlyGivenNames x1
    try clear_value x1
    try extract_lets +onlyGivenNames x2
    try clear_value x2
    refine Moves.step ?_ (Moves.mono (by decide) (State.post_moves _ _ _ _))
    refine Moves.step ?_ (Moves.mono (by decide) (State.modCrypt_movesAll _ _ (fun _ => by exact Crypt.keeps_of rfl rfl rfl)))
    exact Moves.refl _ _

theorem execDescriptorQueued_moves (chan : Nat) (d : Desc) (s : State) {t : State} (h : execDescriptorQueued chan d s = .next t) :
    Moves [.evc, .mbx, .fab, .crypt, .keys, .mem] s t := by
  unfold execDescriptorQueued at h
  cases h
  refine Moves.step ?_ (Moves.mono (by decide) (doDescriptorQueued_moves _ _ _))
  exact Moves.refl _ _

theorem execRequestAdmission_moves (chan : Nat) (s : State) {t : State} (h : execRequestAdmission chan s = .next t) :
    Moves [.evc, .mbx, .fab, .crypt, .keys, .mem] s t := by
  unfold execRequestAdmission at h
  cases h
  refine Moves.step ?_ (Moves.mono (by decide) (doRequestAdmission_moves _ _))
  exact Moves.refl _ _

theorem execCompletionRecord_moves (chan : Nat) (s : State) {t : State} (h : execCompletionRecord chan s = .next t) :
    Moves [.evc, .mbx, .fab, .crypt, .keys, .mem] s t := by
  unfold execCompletionRecord at h
  cases h
  refine Moves.step ?_ (Moves.mono (by decide) (doCompletionRecord_moves _ _))
  exact Moves.refl _ _

theorem execNonceMarkAdvanceDone_moves (slot : Nat) (s : State) {t : State} (h : execNonceMarkAdvanceDone slot s = .next t) :
    Moves [.keys] s t := by
  unfold execNonceMarkAdvanceDone at h
  cases h
  refine Moves.step ?_ (Moves.mono (by decide) (doNonceMarkAdvanceDone_moves _ _))
  exact Moves.refl _ _

theorem execCryptCtxOpen_moves (mb : Nat) (s : State) {t : State} (h : execCryptCtxOpen mb s = .next t) :
    Moves [.evc, .mbx, .fab, .crypt] s t := by
  unfold execCryptCtxOpen at h
  cases h
  refine Moves.step ?_ (State.perform_moves (by decide) (fun _ x0 => ?_))
  · exact Moves.refl _ _
  · try extract_lets +onlyGivenNames x1
    try clear_value x1
    try extract_lets +onlyGivenNames x2
    try clear_value x2
    refine Moves.step ?_ (Moves.mono (by decide) (State.post_moves _ _ _ _))
    refine Moves.step ?_ (Moves.mono (by decide) (State.modCrypt_movesAll _ _ (fun _ => by exact Crypt.keeps_of rfl rfl rfl)))
    exact Moves.refl _ _

theorem execCryptCtxClose_moves (mb : Nat) (s : State) {t : State} (h : execCryptCtxClose mb s = .next t) :
    Moves [.evc, .mbx, .fab, .crypt, .keys] s t := by
  unfold execCryptCtxClose at h
  cases h
  refine Moves.step ?_ (State.perform_moves (by decide) (fun _ x0 => ?_))
  · exact Moves.refl _ _
  · try extract_lets +onlyGivenNames x1
    try clear_value x1
    extract_lets +onlyGivenNames x2
    have hx2 : Moves [.evc, .mbx, .fab, .crypt, .keys] x0 x2 := by
      refine Moves.foldl ?_ (fun x3 _ hx3 => ?_)
      · exact Moves.refl _ _
      · split
        · refine Moves.ite (fun _ => ?_) (fun _ => ?_)
          · refine Moves.step ?_ (Moves.mono (by decide) (State.dropShadow_moves _ _))
            refine Moves.step ?_ (Moves.mono (by decide) (State.leave_moves _ _))
            exact hx3
          · exact hx3
        · exact hx3
    clear_value x2
    refine Moves.step ?_ (Moves.mono (by decide) (State.post_moves _ _ _ _))
    refine Moves.step ?_ (Moves.mono (by decide) (State.modCrypt_movesAll _ _ (fun _ => by exact Crypt.keeps_of rfl rfl rfl)))
    exact hx2

theorem execCryptCtxSave_moves (mb : Nat) (s : State) {t : State} (h : execCryptCtxSave mb s = .next t) :
    Moves [.evc, .mbx, .fab, .mem] s t := by
  unfold execCryptCtxSave at h
  cases h
  refine Moves.step ?_ (State.perform_moves (by decide) (fun _ x0 => ?_))
  · exact Moves.refl _ _
  · try extract_lets +onlyGivenNames x1
    try clear_value x1
    refine Moves.step ?_ (Moves.mono (by decide) (State.post_moves _ _ _ _))
    refine Moves.step ?_ (Moves.mono (by decide) (State.toWindow_moves _ _ _ _))
    exact Moves.refl _ _

theorem execCryptCtxRestore_moves (mb : Nat) (s : State) {t : State} (h : execCryptCtxRestore mb s = .next t) :
    Moves [.evc, .mbx, .fab, .crypt] s t := by
  unfold execCryptCtxRestore at h
  cases h
  refine Moves.step ?_ (State.perform_moves (by decide) (fun _ x0 => ?_))
  · exact Moves.refl _ _
  · split
    · refine Moves.step ?_ (Moves.mono (by decide) (State.post_moves _ _ _ _))
      exact Moves.refl _ _
    · split
      · refine Moves.step ?_ (Moves.mono (by decide) (State.post_moves _ _ _ _))
        exact Moves.refl _ _
      · refine Moves.step ?_ (Moves.mono (by decide) (State.post_moves _ _ _ _))
        refine Moves.step ?_ (Moves.mono (by decide) (State.modCrypt_movesAll _ _ (fun _ => by exact Crypt.keeps_of rfl rfl rfl)))
        exact Moves.refl _ _

theorem execKeyWrite_moves (mb : Nat) (s : State) {t : State} (h : execKeyWrite mb s = .next t) :
    Moves [.evc, .mbx, .fab, .keys, .ledger] s t := by
  unfold execKeyWrite at h
  cases h
  refine Moves.step ?_ (State.perform_moves (by decide) (fun _ x0 => ?_))
  · exact Moves.refl _ _
  · try extract_lets +onlyGivenNames x1
    try clear_value x1
    try extract_lets +onlyGivenNames x2
    try clear_value x2
    split
    · refine Moves.step ?_ (Moves.mono (by decide) (State.post_moves _ _ _ _))
      exact Moves.refl _ _
    · extract_lets +onlyGivenNames x3
      have hx3 : Moves [.evc, .mbx, .fab, .keys, .ledger] x0 x3 := by
        refine Moves.step ?_ (Moves.mono (by decide) (State.raise_moves _ _ _))
        refine Moves.step ?_ (Moves.mono (by decide) (State.keyEntry_moves _ _ _))
        refine Moves.step ?_ (Moves.mono (by decide) (State.commitKey_moves _ _ _ _))
        exact Moves.refl _ _
      clear_value x3
      refine Moves.step ?_ (Moves.mono (by decide) (State.post_moves _ _ _ _))
      exact hx3

theorem execKeyErase_moves (mb : Nat) (s : State) {t : State} (h : execKeyErase mb s = .next t) :
    Moves [.evc, .mbx, .fab, .parts, .pop, .sess, .crypt, .keys, .ledger, .net, .mem] s t := by
  unfold execKeyErase at h
  cases h
  refine Moves.step ?_ (State.perform_moves (by decide) (fun _ x0 => ?_))
  · exact Moves.refl _ _
  · try extract_lets +onlyGivenNames x1
    try clear_value x1
    extract_lets +onlyGivenNames x2
    have hx2 : Moves [.evc, .mbx, .fab, .parts, .pop, .sess, .crypt, .keys, .ledger, .net, .mem] x0 x2 := by
      refine Moves.step ?_ (Moves.mono (by decide) (State.raise_moves _ _ _))
      refine Moves.step ?_ (Moves.mono (by decide) (State.keyEntry_moves _ _ _))
      refine Moves.step ?_ (Moves.mono (by decide) (State.eraseSlot_moves _ _))
      exact Moves.refl _ _
    clear_value x2
    refine Moves.step ?_ (Moves.mono (by decide) (State.post_moves _ _ _ _))
    exact hx2

theorem execKeyInfo_moves (mb : Nat) (s : State) {t : State} (h : execKeyInfo mb s = .next t) :
    Moves [.evc, .mbx, .fab] s t := by
  unfold execKeyInfo at h
  cases h
  refine Moves.step ?_ (State.perform_moves (by decide) (fun _ x0 => ?_))
  · exact Moves.refl _ _
  · refine Moves.step ?_ (Moves.mono (by decide) (State.post_moves _ _ _ _))
    exact Moves.refl _ _

theorem execKeyReprovBegin_moves (mb : Nat) (s : State) {t : State} (h : execKeyReprovBegin mb s = .next t) :
    Moves [.evc, .mbx, .fab, .keys, .ledger, .free] s t := by
  unfold execKeyReprovBegin at h
  cases h
  refine Moves.step ?_ (State.perform_moves (by decide) (fun _ x0 => ?_))
  · exact Moves.refl _ _
  · try extract_lets +onlyGivenNames x1
    try clear_value x1
    try extract_lets +onlyGivenNames x2
    try clear_value x2
    extract_lets +onlyGivenNames x3
    have hx3 : Moves [.evc, .mbx, .fab, .keys, .ledger, .free] x0 x3 := by
      refine Moves.step ?_ (Moves.mono (by decide) (State.keyEntry_moves _ _ _))
      refine Moves.step ?_ (Moves.mono (by decide) (State.modKeys_movesAll _ _ (fun _ => by exact Keys.keeps_of rfl)))
      refine Moves.step ?_ (Moves.mono (by decide) (State.drawn_moves _))
      exact Moves.refl _ _
    clear_value x3
    refine Moves.step ?_ (Moves.mono (by decide) (State.post_moves _ _ _ _))
    exact hx3

theorem execKeyReprovFinish_moves (mb : Nat) (s : State) {t : State} (h : execKeyReprovFinish mb s = .next t) :
    Moves [.evc, .mbx, .fab, .keys, .ledger] s t := by
  unfold execKeyReprovFinish at h
  cases h
  refine Moves.step ?_ (State.perform_moves (by decide) (fun _ x0 => ?_))
  · exact Moves.refl _ _
  · extract_lets +onlyGivenNames x1
    have hx1 : Moves [.evc, .mbx, .fab, .keys, .ledger] x0 x1 := by
      refine Moves.step ?_ (Moves.mono (by decide) (State.modKeys_movesAll _ _ (fun _ => by exact Keys.keeps_of rfl)))
      exact Moves.refl _ _
    clear_value x1
    split
    · refine Moves.step ?_ (Moves.mono (by decide) (State.post_moves _ _ _ _))
      refine Moves.step ?_ (Moves.mono (by decide) (State.keyEntry_moves _ _ _))
      exact hx1
    · extract_lets +onlyGivenNames x2
      have hx2 : Moves [.evc, .mbx, .fab, .keys, .ledger] x0 x2 := by
        refine Moves.step ?_ (Moves.mono (by decide) (State.raise_moves _ _ _))
        refine Moves.step ?_ (Moves.mono (by decide) (State.keyEntry_moves _ _ _))
        refine Moves.step ?_ (Moves.mono (by decide) (State.modKeys_movesAll _ _ (fun _ => by exact Keys.keeps_of rfl)))
        refine Moves.step ?_ (Moves.mono (by decide) (State.commitKey_moves _ _ _ _))
        exact hx1
      clear_value x2
      refine Moves.step ?_ (Moves.mono (by decide) (State.post_moves _ _ _ _))
      exact hx2

theorem execLedgEnergy_moves (mb : Nat) (s : State) {t : State} (h : execLedgEnergy mb s = .next t) :
    Moves [.evc, .mbx, .fab] s t := by
  unfold execLedgEnergy at h
  cases h
  refine Moves.step ?_ (State.perform_moves (by decide) (fun _ x0 => ?_))
  · exact Moves.refl _ _
  · try extract_lets +onlyGivenNames x1
    try clear_value x1
    try extract_lets +onlyGivenNames x2
    try clear_value x2
    refine Moves.step ?_ (Moves.mono (by decide) (State.post_moves _ _ _ _))
    exact Moves.refl _ _

theorem execLedgStatus_moves (mb : Nat) (s : State) {t : State} (h : execLedgStatus mb s = .next t) :
    Moves [.evc, .mbx, .fab] s t := by
  unfold execLedgStatus at h
  cases h
  refine Moves.step ?_ (State.perform_moves (by decide) (fun _ x0 => ?_))
  · exact Moves.refl _ _
  · refine Moves.step ?_ (Moves.mono (by decide) (State.post_moves _ _ _ _))
    exact Moves.refl _ _

theorem execLedgExport_moves (mb : Nat) (s : State) {t : State} (h : execLedgExport mb s = .next t) :
    Moves [.evc, .mbx, .fab, .mem] s t := by
  unfold execLedgExport at h
  cases h
  refine Moves.step ?_ (State.perform_moves (by decide) (fun _ x0 => ?_))
  · exact Moves.refl _ _
  · try extract_lets +onlyGivenNames x1
    try clear_value x1
    try extract_lets +onlyGivenNames x2
    try clear_value x2
    try extract_lets +onlyGivenNames x3
    try clear_value x3
    refine Moves.step ?_ (Moves.mono (by decide) (State.post_moves _ _ _ _))
    refine Moves.step ?_ (Moves.mono (by decide) (State.toWindow_moves _ _ _ _))
    exact Moves.refl _ _

theorem execLedgAck_moves (mb : Nat) (s : State) {t : State} (h : execLedgAck mb s = .next t) :
    Moves [.evc, .mbx, .fab, .ledger] s t := by
  unfold execLedgAck at h
  cases h
  refine Moves.step ?_ (State.perform_moves (by decide) (fun _ x0 => ?_))
  · exact Moves.refl _ _
  · try extract_lets +onlyGivenNames x1
    try clear_value x1
    extract_lets +onlyGivenNames x2
    have hx2 : Moves [.evc, .mbx, .fab, .ledger] x0 x2 := by
      refine Moves.step ?_ (Moves.mono (by decide) (State.lowEnd_moves _))
      refine Moves.step ?_ (Moves.mono (by decide) (State.modLedger_movesAll _ _ (fun _ => by exact Ledger.keeps_of rfl rfl rfl rfl)))
      exact Moves.refl _ _
    clear_value x2
    refine Moves.step ?_ (Moves.mono (by decide) (State.post_moves _ _ _ _))
    exact hx2

theorem execLedgCredit_moves (mb : Nat) (s : State) {t : State} (h : execLedgCredit mb s = .next t) :
    Moves [.evc, .psc, .pad, .mbx, .fab, .parts, .lf, .pop, .radio, .sess, .rel, .keys, .met, .ledger, .health, .free] s t := by
  unfold execLedgCredit at h
  cases h
  refine Moves.ite (fun _ => ?_) (fun _ => ?_)
  · exact Moves.refl _ _
  · refine Moves.step ?_ (State.perform_moves (by decide) (fun _ x0 => ?_))
    · exact Moves.refl _ _
    · try extract_lets +onlyGivenNames x1
      try clear_value x1
      extract_lets +onlyGivenNames x2
      have hx2 : Moves [.evc, .psc, .pad, .mbx, .fab, .parts, .lf, .pop, .radio, .sess, .rel, .keys, .met, .ledger, .health, .free] x0 x2 := by
        refine Moves.ite (fun _ => ?_) (fun _ => ?_)
        · refine Moves.step ?_ (Moves.mono (by decide) (State.evalIdentity_moves _ _))
          exact Moves.refl _ _
        · exact Moves.refl _ _
      clear_value x2
      split
      · refine Moves.step ?_ (Moves.mono (by decide) (State.post_moves _ _ _ _))
        refine Moves.step ?_ (Moves.mono (by decide) (State.refuseCredit_moves _ _ _))
        exact hx2
      · extract_lets +onlyGivenNames x3
        have hx3 : Moves [.evc, .psc, .pad, .mbx, .fab, .parts, .lf, .pop, .radio, .sess, .rel, .keys, .met, .ledger, .health, .free] x0 x3 := by
          refine Moves.step ?_ (Moves.mono (by decide) (State.applyCredit_moves _ _))
          exact hx2
        clear_value x3
        refine Moves.step ?_ (Moves.mono (by decide) (State.post_moves _ _ _ _))
        exact hx3

theorem execMeterSample_moves (m0 m1 m2 m3 : BitVec 256) (s : State) {t : State} (h : execMeterSample m0 m1 m2 m3 s = .next t) :
    Moves [.evc, .psc, .pad, .mbx, .fab, .parts, .lf, .pop, .radio, .sess, .rel, .keys, .met, .ledger, .health, .free] s t := by
  unfold execMeterSample at h
  cases h
  refine Moves.step ?_ (Moves.mono (by decide) (doMeterSample_moves _ _ _ _ _))
  exact Moves.refl _ _

theorem execMeanEnd_moves (s : State) {t : State} (h : execMeanEnd s = .next t) :
    Moves [.evc, .psc, .pad, .mbx, .fab, .parts, .lf, .pop, .radio, .sess, .rel, .keys, .met, .ledger, .health, .free] s t := by
  unfold execMeanEnd at h
  cases h
  refine Moves.step ?_ (Moves.mono (by decide) (doMeanEnd_moves _))
  exact Moves.refl _ _

theorem execInputStuck_moves (input : Nat) (s : State) {t : State} (h : execInputStuck input s = .next t) :
    Moves [.evc, .met, .ledger] s t := by
  unfold execInputStuck at h
  cases h
  refine Moves.step ?_ (Moves.mono (by decide) (doInputStuck_moves _ _))
  exact Moves.refl _ _

theorem execSstlEdge_moves (b level : Bool) (s : State) {t : State} (h : execSstlEdge b level s = .next t) :
    Moves [.evc, .psc, .pad, .mbx, .fab, .parts, .lf, .pop, .radio, .sess, .rel, .keys, .met, .ledger, .health, .free] s t := by
  unfold execSstlEdge at h
  cases h
  refine Moves.step ?_ (Moves.mono (by decide) (doSstlEdge_moves _ _ _))
  exact Moves.refl _ _

theorem execTransitionsResume_moves (input : Nat) (s : State) {t : State} (h : execTransitionsResume input s = .next t) :
    Moves [.evc, .met, .ledger] s t := by
  unfold execTransitionsResume at h
  cases h
  refine Moves.step ?_ (Moves.mono (by decide) (doTransitionsResume_moves _ _))
  exact Moves.refl _ _

theorem execLfBudgetRecompute_moves (pVint pLft bus : Nat) (hot cool : BitVec 64) (s : State) {t : State} (h : execLfBudgetRecompute pVint pLft bus hot cool s = .next t) :
    Moves [.evc, .mbx, .parts, .lf, .pop, .radio, .sess, .keys, .ledger, .health, .power, .free] s t := by
  unfold execLfBudgetRecompute at h
  cases h
  refine Moves.step ?_ (Moves.mono (by decide) (doLfBudgetRecompute_moves _ _ _ _ _ _))
  exact Moves.refl _ _

theorem execLfOverdraw_moves (pVlf pLft : Nat) (s : State) {t : State} (h : execLfOverdraw pVlf pLft s = .next t) :
    Moves [.evc, .lf, .sess, .keys, .ledger, .health, .free] s t := by
  unfold execLfOverdraw at h
  cases h
  refine Moves.step ?_ (Moves.mono (by decide) (doLfOverdraw_moves _ _ _))
  exact Moves.refl _ _

theorem execPeriodicPoll_moves (config : Nat) (s : State) {t : State} (h : execPeriodicPoll config s = .next t) :
    Moves [.evc, .psc, .pad, .mbx, .fab, .parts, .lf, .pop, .radio, .sess, .rel, .keys, .ledger, .health, .free] s t := by
  unfold execPeriodicPoll at h
  cases h
  refine Moves.ite (fun _ => ?_) (fun _ => ?_)
  · refine Moves.step ?_ (Moves.mono (by decide) (State.considerAll_moves _))
    refine Moves.step ?_ (Moves.mono (by decide) (State.requestWake_moves _ _ _ _))
    exact Moves.refl _ _
  · exact Moves.refl _ _

theorem execSlotAnswer_moves (slot : Nat) (frame : Option (List Byte)) (s : State) {t : State} (h : execSlotAnswer slot frame s = .next t) :
    Moves [.sess] s t := by
  unfold execSlotAnswer at h
  cases h
  refine Moves.step ?_ (Moves.mono (by decide) (doSlotAnswer_moves _ _ _))
  exact Moves.refl _ _

theorem execResponseWindowClose_moves (s : State) {t : State} (h : execResponseWindowClose s = .next t) :
    Moves [.evc, .psc, .pad, .mbx, .fab, .parts, .lf, .pop, .radio, .sess, .rel, .keys, .ledger, .health, .free] s t := by
  unfold execResponseWindowClose at h
  cases h
  refine Moves.step ?_ (Moves.mono (by decide) (doResponseWindowClose_moves _))
  exact Moves.refl _ _

theorem execDerivationComplete_moves (slot : Nat) (s : State) {t : State} (h : execDerivationComplete slot s = .next t) :
    Moves [.sess] s t := by
  unfold execDerivationComplete at h
  cases h
  refine Moves.step ?_ (Moves.mono (by decide) (doDerivationComplete_moves _ _))
  exact Moves.refl _ _

theorem execLaneOpen_moves (s : State) {t : State} (h : execLaneOpen s = .next t) :
    Moves [.evc, .psc, .pad, .mbx, .fab, .parts, .lf, .pop, .radio, .sess, .rel, .keys, .ledger, .health, .mem, .free] s t := by
  unfold execLaneOpen at h
  cases h
  refine Moves.step ?_ (Moves.mono (by decide) (doLaneOpen_moves _))
  exact Moves.refl _ _

theorem execResponseFrame_moves (frame : List Byte) (s : State) {t : State} (h : execResponseFrame frame s = .next t) :
    Moves [.evc, .psc, .pad, .mbx, .fab, .parts, .lf, .pop, .radio, .sess, .rel, .keys, .ledger, .health, .mem, .free] s t := by
  unfold execResponseFrame at h
  cases h
  refine Moves.step ?_ (Moves.mono (by decide) (doResponseFrame_moves _ _))
  exact Moves.refl _ _

theorem execTagDeadline_moves (s : State) {t : State} (h : execTagDeadline s = .next t) :
    Moves [.evc, .psc, .pad, .mbx, .fab, .parts, .lf, .pop, .radio, .sess, .rel, .keys, .ledger, .health, .mem, .free] s t := by
  unfold execTagDeadline at h
  cases h
  refine Moves.step ?_ (Moves.mono (by decide) (doTagDeadline_moves _))
  exact Moves.refl _ _

theorem execPollFrame_moves (s : State) {t : State} (h : execPollFrame s = .next t) :
    Moves [.evc, .psc, .pad, .mbx, .fab, .parts, .lf, .pop, .radio, .sess, .rel, .keys, .ledger, .health, .mem, .free] s t := by
  unfold execPollFrame at h
  cases h
  refine Moves.step ?_ (Moves.mono (by decide) (doPoll_moves _))
  exact Moves.refl _ _

theorem execRangingResponse_moves (m : Reception) (s : State) {t : State} (h : execRangingResponse m s = .next t) :
    Moves [.evc, .psc, .pad, .mbx, .fab, .parts, .lf, .pop, .radio, .sess, .rel, .keys, .ledger, .health, .mem, .free] s t := by
  unfold execRangingResponse at h
  cases h
  refine Moves.step ?_ (Moves.mono (by decide) (doRangingResponse_moves _ _))
  exact Moves.refl _ _

theorem execFinalFrame_moves (s : State) {t : State} (h : execFinalFrame s = .next t) :
    Moves [.evc, .psc, .pad, .mbx, .fab, .parts, .lf, .pop, .radio, .sess, .rel, .keys, .ledger, .health, .mem, .free] s t := by
  unfold execFinalFrame at h
  cases h
  refine Moves.step ?_ (Moves.mono (by decide) (doFinal_moves _))
  exact Moves.refl _ _

theorem execUwbReceiveWindowExpiry_moves (s : State) {t : State} (h : execUwbReceiveWindowExpiry s = .next t) :
    Moves [.evc, .psc, .pad, .mbx, .fab, .parts, .lf, .pop, .radio, .sess, .rel, .keys, .ledger, .health, .mem, .free] s t := by
  unfold execUwbReceiveWindowExpiry at h
  cases h
  refine Moves.step ?_ (Moves.mono (by decide) (doUwbReceiveWindowExpiry_moves _))
  exact Moves.refl _ _

theorem execEnrolmentWindowExpiry_moves (s : State) {t : State} (h : execEnrolmentWindowExpiry s = .next t) :
    Moves [.evc, .parts] s t := by
  unfold execEnrolmentWindowExpiry at h
  cases h
  refine Moves.step ?_ (Moves.mono (by decide) (doEnrolmentWindowExpiry_moves _))
  exact Moves.refl _ _

theorem execCandidateEvaluation_moves (s : State) {t : State} (h : execCandidateEvaluation s = .next t) :
    Moves [.evc, .parts, .ledger] s t := by
  unfold execCandidateEvaluation at h
  cases h
  refine Moves.step ?_ (Moves.mono (by decide) (doCandidateEvaluation_moves _))
  exact Moves.refl _ _

theorem execAuthSummaryHourEnd_moves (s : State) {t : State} (h : execAuthSummaryHourEnd s = .next t) :
    Moves [.evc, .parts, .ledger] s t := by
  unfold execAuthSummaryHourEnd at h
  cases h
  refine Moves.step ?_ (Moves.mono (by decide) (State.putSummaries_moves _ _))
  exact Moves.refl _ _

theorem execCmpwStart_moves (req : Requester) (w : Word) (s : State) {t : State} (h : execCmpwStart req w s = .next t) :
    Moves [.crypt] s t := by
  unfold execCmpwStart at h
  cases h
  refine Moves.step ?_ (Moves.mono (by decide) (writeCmpwCtrl_moves _ _ _))
  exact Moves.refl _ _

theorem execCmpwAbort_moves (req : Requester) (w : Word) (s : State) {t : State} (h : execCmpwAbort req w s = .next t) :
    Moves [.crypt] s t := by
  unfold execCmpwAbort at h
  cases h
  refine Moves.step ?_ (Moves.mono (by decide) (writeCmpwCtrl_moves _ _ _))
  exact Moves.refl _ _

theorem execCmpwLoad_moves (req : Requester) (w : Word) (s : State) {t : State} (h : execCmpwLoad req w s = .next t) :
    Moves [.crypt] s t := by
  unfold execCmpwLoad at h
  cases h
  refine Moves.step ?_ (Moves.mono (by decide) (writeCmpwKeysel_moves _ _ _))
  exact Moves.refl _ _

theorem execCmpwRelease_moves (req : Requester) (w : Word) (s : State) {t : State} (h : execCmpwRelease req w s = .next t) :
    Moves [.crypt] s t := by
  unfold execCmpwRelease at h
  cases h
  refine Moves.step ?_ (Moves.mono (by decide) (writeCmpwKeysel_moves _ _ _))
  exact Moves.refl _ _

theorem execCmpwBlockDone_moves (s : State) {t : State} (h : execCmpwBlockDone s = .next t) :
    Moves [.evc, .crypt] s t := by
  unfold execCmpwBlockDone at h
  cases h
  refine Moves.step ?_ (Moves.mono (by decide) (doCmpwBlockDone_moves _))
  exact Moves.refl _ _

theorem execCmpwLoadDone_moves (s : State) {t : State} (h : execCmpwLoadDone s = .next t) :
    Moves [.crypt] s t := by
  unfold execCmpwLoadDone at h
  cases h
  refine Moves.step ?_ (Moves.mono (by decide) (doCmpwLoadDone_moves _))
  exact Moves.refl _ _

theorem execCmpwYieldEnd_moves (s : State) {t : State} (h : execCmpwYieldEnd s = .next t) :
    Moves [.crypt] s t := by
  unfold execCmpwYieldEnd at h
  cases h
  refine Moves.step ?_ (Moves.mono (by decide) (doCmpwYieldEnd_moves _))
  exact Moves.refl _ _

theorem execCounterCommit_moves (s : State) {t : State} (h : execCounterCommit s = .next t) :
    Moves [.met] s t := by
  unfold execCounterCommit at h
  cases h
  refine Moves.step ?_ (Moves.mono (by decide) (doCounterCommit_moves _))
  exact Moves.refl _ _

theorem execSummaryBoundary_moves (s : State) {t : State} (h : execSummaryBoundary s = .next t) :
    Moves [.evc, .met, .ledger] s t := by
  unfold execSummaryBoundary at h
  cases h
  refine Moves.step ?_ (Moves.mono (by decide) (doSummaryBoundary_moves _))
  exact Moves.refl _ _

theorem execQueuedEntryAppend_moves (s : State) {t : State} (h : execQueuedEntryAppend s = .next t) :
    Moves [.evc, .ledger] s t := by
  unfold execQueuedEntryAppend at h
  cases h
  refine Moves.ite (fun _ => ?_) (fun _ => ?_)
  · exact Moves.refl _ _
  · refine Moves.step ?_ (Moves.mono (by decide) (State.drainLedger_moves _))
    exact Moves.refl _ _

theorem execHealthSummaryHour_moves (s : State) {t : State} (h : execHealthSummaryHour s = .next t) :
    Moves [.evc, .ledger, .health] s t := by
  unfold execHealthSummaryHour at h
  cases h
  refine Moves.step ?_ (Moves.mono (by decide) (doHealthSummaryHour_moves _))
  exact Moves.refl _ _

theorem execStatisticsHour_moves (s : State) {t : State} (h : execStatisticsHour s = .next t) :
    Moves [.evc, .ledger, .health, .net, .free] s t := by
  unfold execStatisticsHour at h
  cases h
  refine Moves.step ?_ (Moves.mono (by decide) (doStatisticsHour_moves _))
  exact Moves.refl _ _

theorem execTamperAssertion_moves (input : Nat) (s : State) {t : State} (h : execTamperAssertion input s = .next t) :
    Moves [.evc, .psc, .pad, .mbx, .fab, .parts, .lf, .pop, .radio, .sess, .rel, .crypt, .keys, .ledger, .health, .tamper, .mem, .free] s t := by
  unfold execTamperAssertion at h
  cases h
  refine Moves.ite (fun _ => ?_) (fun _ => ?_)
  · refine Moves.step ?_ (Moves.mono (by decide) (State.assertInput_moves _ _))
    exact Moves.refl _ _
  · exact Moves.refl _ _

theorem execTamperQuiet_moves (unit : Nat) (s : State) {t : State} (h : execTamperQuiet unit s = .next t) :
    Moves [.evc, .psc, .pad, .mbx, .fab, .parts, .lf, .pop, .radio, .sess, .rel, .keys, .ledger, .health, .tamper, .free] s t := by
  unfold execTamperQuiet at h
  cases h
  refine Moves.step ?_ (Moves.mono (by decide) (State.evalDecision_moves _))
  refine Moves.step ?_ (Moves.mono (by decide) (doTamperQuiet_moves _ _))
  exact Moves.refl _ _

theorem execMeshCheck_moves (passes : Bool) (s : State) {t : State} (h : execMeshCheck passes s = .next t) :
    Moves [.evc, .psc, .pad, .mbx, .fab, .parts, .lf, .pop, .radio, .sess, .rel, .crypt, .keys, .ledger, .health, .net, .tamper, .mem, .free] s t := by
  unfold execMeshCheck at h
  cases h
  refine Moves.ite (fun _ => ?_) (fun _ => ?_)
  · refine Moves.step ?_ (Moves.mono (by decide) (State.evalDecision_moves _))
    refine Moves.step ?_ (Moves.mono (by decide) (State.checkMesh_moves _ _))
    exact Moves.refl _ _
  · exact Moves.refl _ _

theorem execTamperConfirmed_moves (input : Nat) (s : State) {t : State} (h : execTamperConfirmed input s = .next t) :
    Moves [.evc, .psc, .pad, .mbx, .boot, .fab, .parts, .lf, .pop, .radio, .sess, .rel, .crypt, .keys, .ledger, .health, .net, .tamper, .mem, .free] s t := by
  unfold execTamperConfirmed at h
  cases h
  refine Moves.step ?_ (Moves.mono (by decide) (doTamperConfirmed_moves _ _))
  exact Moves.refl _ _

theorem execTamperLatchClear_moves (s : State) {t : State} (h : execTamperLatchClear s = .next t) :
    Moves [.evc, .psc, .pad, .mbx, .fab, .parts, .lf, .pop, .radio, .sess, .rel, .keys, .ledger, .health, .tamper, .free] s t := by
  unfold execTamperLatchClear at h
  cases h
  refine Moves.step ?_ (Moves.mono (by decide) (doTamperLatchClear_moves _))
  exact Moves.refl _ _

theorem execNodeIdClash_moves (seg : Nat) (s : State) {t : State} (h : execNodeIdClash seg s = .next t) :
    Moves [.evc, .ledger, .net, .free] s t := by
  unfold execNodeIdClash at h
  cases h
  refine Moves.step ?_ (Moves.mono (by decide) (doNodeIdClash_moves _ _))
  exact Moves.refl _ _

theorem execAnnounceFrame_moves (seg : Nat) (frame : List Byte) (s : State) {t : State} (h : execAnnounceFrame seg frame s = .next t) :
    Moves [.evc, .parts, .ledger, .net, .free] s t := by
  unfold execAnnounceFrame at h
  cases h
  refine Moves.step ?_ (Moves.mono (by decide) (doAnnounceFrame_moves _ _ _))
  exact Moves.refl _ _

theorem execNodeCheck_moves (s : State) {t : State} (h : execNodeCheck s = .next t) :
    Moves [.evc, .parts, .ledger, .net, .free] s t := by
  unfold execNodeCheck at h
  cases h
  refine Moves.step ?_ (Moves.mono (by decide) (doNodeCheck_moves _))
  exact Moves.refl _ _

theorem execSegmentResponse_moves (seg : Nat) (frame : List Byte) (s : State) {t : State} (h : execSegmentResponse seg frame s = .next t) :
    Moves [.evc, .mbx, .fab, .parts, .keys, .ledger, .net] s t := by
  unfold execSegmentResponse at h
  cases h
  refine Moves.step ?_ (Moves.mono (by decide) (doSegmentResponse_moves _ _ _))
  exact Moves.refl _ _

theorem execSegmentResponseMiss_moves (code : Nat) (s : State) {t : State} (h : execSegmentResponseMiss code s = .next t) :
    Moves [.evc, .parts, .keys, .ledger, .net] s t := by
  unfold execSegmentResponseMiss at h
  cases h
  refine Moves.step ?_ (Moves.mono (by decide) (doSegmentResponseMiss_moves _ _))
  exact Moves.refl _ _

theorem execEnrolChallengeRetry_moves (s : State) {t : State} (h : execEnrolChallengeRetry s = .next t) :
    Moves [.evc, .mbx, .fab, .parts, .ledger, .net, .free] s t := by
  unfold execEnrolChallengeRetry at h
  cases h
  refine Moves.step ?_ (Moves.mono (by decide) (doEnrolChallengeRetry_moves _))
  exact Moves.refl _ _

theorem execSegmentData_moves (seg : Nat) (frame : List Byte) (s : State) {t : State} (h : execSegmentData seg frame s = .next t) :
    Moves [.evc, .parts, .ledger, .net] s t := by
  unfold execSegmentData at h
  cases h
  refine Moves.step ?_ (Moves.mono (by decide) (doSegmentData_moves _ _ _))
  exact Moves.refl _ _

theorem execUpdateIr_moves (code : Nat) (s : State) {t : State} (h : execUpdateIr code s = .next t) :
    Moves [.tbu, .tmr, .evc, .psc, .pad, .mbx, .boot, .cfg, .fab, .parts, .lf, .pop, .radio, .sess, .rel, .crypt, .keys, .met, .ledger, .health, .net, .cores, .jtag, .mem] s t := by
  unfold execUpdateIr at h
  cases h
  refine Moves.step ?_ (Moves.mono (by decide) (State.changeIr_moves _ _))
  exact Moves.refl _ _

theorem execUpdateDr_moves (cells : List Bool) (s : State) {t : State} (h : execUpdateDr cells s = .next t) :
    Moves [.jtag] s t := by
  unfold execUpdateDr at h
  cases h
  refine Moves.step ?_ (Moves.mono (by decide) (doUpdateDr_moves _ _))
  exact Moves.refl _ _

theorem execTapReset_moves (s : State) {t : State} (h : execTapReset s = .next t) :
    Moves [.tbu, .tmr, .evc, .psc, .pad, .mbx, .boot, .cfg, .fab, .parts, .lf, .pop, .radio, .sess, .rel, .crypt, .keys, .met, .ledger, .health, .net, .cores, .jtag, .mem] s t := by
  unfold execTapReset at h
  cases h
  refine Moves.step ?_ (Moves.mono (by decide) (State.changeIr_moves _ _))
  exact Moves.refl _ _

theorem execLfloop_moves (pass : BitVec 64) (vlf vint : Bool) (s : State) {t : State} (h : execLfloop pass vlf vint s = .next t) :
    Moves [.jtag] s t := by
  unfold execLfloop at h
  cases h
  refine Moves.ite (fun _ => ?_) (fun _ => ?_)
  · refine Moves.step ?_ (Moves.mono (by decide) (State.modJtag_movesAll _ _ (fun _ => by exact Jtag.keeps_of rfl rfl)))
    exact Moves.refl _ _
  · exact Moves.refl _ _

theorem execRfloop_moves (checks : BitVec 6) (dA dB : Nat) (s : State) {t : State} (h : execRfloop checks dA dB s = .next t) :
    Moves [.jtag] s t := by
  unfold execRfloop at h
  cases h
  refine Moves.ite (fun _ => ?_) (fun _ => ?_)
  · refine Moves.step ?_ (Moves.mono (by decide) (State.modJtag_movesAll _ _ (fun _ => by exact Jtag.keeps_of rfl rfl)))
    exact Moves.refl _ _
  · exact Moves.refl _ _

end Sys2Proof.Machine
end

