-- ==== Sys2Proof/WellFormed.lean ====
section
/-!
DEFINITION. When a command is well formed: every operand that names one of the block's units lies in that unit's range
(assumption log 12). A command that is not well formed names nothing the block has.
-/
namespace Sys2Proof

/-- A boot report speaks of the four pairs and the four tamper inputs. -/
def BootReport.wf (r : BootReport) : Bool := r.pairOk.length == 4 && r.tmp.length == 4

/-- A line of a unit that exists: record 0 to 1,023, attachment point 0 to 95, slot 0 to 15, bank A or B. -/
def MramLine.wf : MramLine → Bool
  | .record n _ => decide (n < 1024)
  | .attach n => decide (n < 96)
  | .stamps => true
  | .slot n => decide (n < 16)
  | .counters => true
  | .firmware n => decide (n < 2)
  | .meton n => decide (n < 2)
  | .moraine _ => true

/-- A signed 16-bit value. -/
def fits16 (x : Int) : Bool := decide (-32768 ≤ x) && decide (x ≤ 32767)

/-- A response of 1,024 taps, each of a 16-bit I and Q part (R133). -/
def Cir.wf (c : Cir) : Bool := c.length == 1024 && c.all fun t => fits16 t.1 && fits16 t.2

/-- Whole impulse responses (R133), with LNA gain steps of 6 dB up to 36 dB (R131). -/
def Reception.wf (m : Reception) : Bool :=
  (([m.syncA, m.syncB, m.stsA, m.stsB] ++ m.subA ++ m.subB).all Cir.wf) &&
    [m.gainA, m.gainB].all fun g => decide (g ≤ 36) && g % 6 == 0

/-- A well-formed command. -/
def Instr.wf : Instr → Bool
  | .powerOnReset => true
  | .rstNAsserted _ => true
  | .resetRelease report => report.wf
  | .bootSelfTestRetry report => report.wf
  | .bootMonitorExpiry report => report.wf
  | .trialConfirmation => true
  | .lineLoss => true
  | .linePowerReturn => true
  | .vresExhausted => true
  | .vresMeasurement mv => decide (mv < 0x10000)
  | .feedDeliveringChange feed _ => decide (feed < 2)
  | .feedOv feed _ => decide (feed < 2)
  | .sccpClassification feed => decide (feed < 2)
  | .sccpClassWrite feed cls => decide (feed < 2) && decide (cls < 16)
  | .vcoreUndervoltage => true
  | .tempoGovernorUpdate tempos _ => tempos.length == 13
  | .referenceFailed _ => true
  | .slowCrystalFailed _ => true
  | .sourceQualified _ => true
  | .tbuStart => true
  | .trimWindowEnd _ _ => true
  | .temperatureSample _ => true
  | .accrualSecond => true
  | .hourlyHistoryPoint => true
  | .counterOutvoted lane value => decide (lane < 3) && decide (value < 2 ^ 104)
  | .timestampExtensionCompare _ => true
  | .ppsEdge => true
  | .ppsPulseEnd => true
  | .syncInterval => true
  | .announceInterval => true
  | .gptpForeignFrame kind => decide (kind < 3)
  | .pdelayReq port => decide (port < 6)
  | .tbuNsLoRead _ => true
  | .tbuUaccLoRead _ => true
  | .registerWrite _ addr _ => decide (addr < 0x200000)
  | .timerTick timer => decide (timer < 8)
  | .timerWrap timer => decide (timer < 8)
  | .compareFire timer unit => decide (timer < 8) && decide (unit < 2)
  | .tmrnCtrlWrite timer _ => decide (timer < 8)
  | .swtrig timer => decide (timer < 8)
  | .tmrnCntWrite timer _ => decide (timer < 8)
  | .tmrnCmpWrite timer unit _ => decide (timer < 8) && decide (unit < 2)
  | .tmrnCapRead _ timer => decide (timer < 8)
  | .almmLoWrite _ alarm _ => decide (alarm < 4)
  | .almmLoRead _ alarm => decide (alarm < 4)
  | .alarmFire alarm => decide (alarm < 4)
  | .alarmDisarm alarm => decide (alarm < 4)
  | .pinPulseEnd pin => decide (pin < 4)
  | .capEdge pin _ => decide (pin < 4)
  | .capnLoRead _ pin => decide (pin < 4)
  | .capFlush pin => decide (pin < 4)
  | .eventOccurrence group src => decide (group < 16) && decide (src < 16)
  | .batchDueTime group => decide (group < 16)
  | .delivery => true
  | .evcClaimWrite target _ => decide (target < 6)
  | .evcDlvRead _ target => decide (target < 6)
  | .retraction target => decide (target < 6)
  | .wakeOutPulse group => decide (group < 16)
  | .wakeOutPulseEnd => true
  | .evcSwsetWrite _ => true
  | .pscHostSleepWrite _ => true
  | .translationFault requester _ access _ _ _ _ => decide (requester < 20) && decide (access < 3)
  | .faultRestart requester _ _ => decide (requester < 20)
  | .faultAbort requester => decide (requester < 20)
  | .faultAbortTimeout => true
  | .translationInvalidation req _ => decide (req < 20)
  | .deadlineFlag _ _ => true
  | .arbitrationRound _ => true
  | .hbwWinCfgWrite window _ => decide (window < 16)
  | .apertureAccess off _ => decide (off < 0x100000)
  | .uncorrectableWord addr requester _ _ => decide (addr < 0x800000) && decide (requester < 20)
  | .mramUncorrectableLine line offset _ => decide (offset < 0x400000) && line.wf
  | .dieLinkCrcFail _ _ _ => true
  | .spiWriteFrame _ => true
  | .spiReadFrame _ => true
  | .spiWakeFrame _ => true
  | .mgmtRequest port _ srcAddr srcPort _ => decide (port < 2) && decide (srcAddr < 2 ^ 128) && decide (srcPort < 0x10000)
  | .keptReplyExpiry => true
  | .doorbell mb => decide (mb < 8)
  | .commandStart _ => true
  | .commandLimit mb => decide (mb < 8)
  | .commandAreaWrite mb k _ => decide (mb < 8) && decide (k < 64)
  | .mbnRes0Read mb => decide (mb < 8)
  | .mbxAckWrite _ => true
  | .sysInfo mb => decide (mb < 8)
  | .sysReset mb => decide (mb < 8)
  | .sysEvent mb => decide (mb < 8)
  | .sysHealth mb => decide (mb < 8)
  | .cfgLoad mb => decide (mb < 8)
  | .cfgActivate mb => decide (mb < 8)
  | .cfgStatus mb => decide (mb < 8)
  | .cfgSet mb => decide (mb < 8)
  | .cfgGet mb => decide (mb < 8)
  | .partEnrol mb => decide (mb < 8)
  | .partEnrolOpen mb => decide (mb < 8)
  | .partGet mb => decide (mb < 8)
  | .partList mb => decide (mb < 8)
  | .partSet mb => decide (mb < 8)
  | .partAbsent mb => decide (mb < 8)
  | .partRemove mb => decide (mb < 8)
  | .partRekey mb => decide (mb < 8)
  | .partUnlock mb => decide (mb < 8)
  | .sessPoll mb => decide (mb < 8)
  | .sessStatus mb => decide (mb < 8)
  | .sessLast mb => decide (mb < 8)
  | .rangeStatus mb => decide (mb < 8)
  | .rangeTest mb => decide (mb < 8)
  | .lfStatus mb => decide (mb < 8)
  | .lfDiag mb => decide (mb < 8)
  | .lfTune mb => decide (mb < 8)
  | .lfPhase mb => decide (mb < 8)
  | .lfPopulation mb => decide (mb < 8)
  | .lfPopcheck mb => decide (mb < 8)
  | .rfStatus mb => decide (mb < 8)
  | .rfCal mb => decide (mb < 8)
  | .rfTest mb => decide (mb < 8)
  | .rfCapture mb => decide (mb < 8)
  | .relConsent mb => decide (mb < 8)
  | .relRevoke mb => decide (mb < 8)
  | .relCancel mb => decide (mb < 8)
  | .relStatus mb => decide (mb < 8)
  | .cryptChan mb => decide (mb < 8)
  | .cryptSubmit mb => decide (mb < 8)
  | .cryptDone mb => decide (mb < 8)
  | .cryptCtxOpen mb => decide (mb < 8)
  | .cryptCtxClose mb => decide (mb < 8)
  | .cryptCtxSave mb => decide (mb < 8)
  | .cryptCtxRestore mb => decide (mb < 8)
  | .keyWrite mb => decide (mb < 8)
  | .keyErase mb => decide (mb < 8)
  | .keyInfo mb => decide (mb < 8)
  | .keyReprovBegin mb => decide (mb < 8)
  | .keyReprovFinish mb => decide (mb < 8)
  | .ledgEnergy mb => decide (mb < 8)
  | .ledgStatus mb => decide (mb < 8)
  | .ledgExport mb => decide (mb < 8)
  | .ledgAck mb => decide (mb < 8)
  | .ledgCredit mb => decide (mb < 8)
  | .timeStatus mb => decide (mb < 8)
  | .timeCivil mb => decide (mb < 8)
  | .pwrStatus mb => decide (mb < 8)
  | .pwrSleep mb => decide (mb < 8)
  | .diagTempo mb => decide (mb < 8)
  | .diagFaults mb => decide (mb < 8)
  | .fwWrite mb => decide (mb < 8)
  | .fwActivate mb => decide (mb < 8)
  | .fwStatus mb => decide (mb < 8)
  | .lfBudgetRecompute _ _ _ _ _ => true
  | .burstRequest cls what => decide (what < 64) && decide (1 ≤ cls) && decide (cls ≤ 3)
  | .burstEnd _ _ => true
  | .overcurrentTrip c => decide (c < 64)
  | .lfOverdraw _ _ => true
  | .resonanceMeasurement c _ => decide (c < 64)
  | .coilDiagnosticsDue => true
  | .populationCheckDue => true
  | .uplinkFrame coil _ => decide (coil < 48)
  | .noAnswer coil => decide (coil < 48)
  | .populationPhaseEnd => true
  | .lockoutEnd => true
  | .periodicPoll config => decide (config < 8)
  | .slotAnswer slot _ => decide (slot < 16)
  | .responseWindowClose => true
  | .derivationComplete slot => decide (slot < 16)
  | .laneOpen => true
  | .responseFrame frame => decide (frame.length ≤ 258)
  | .tagDeadline => true
  | .pollFrame => true
  | .rangingResponse m => m.wf
  | .finalFrame => true
  | .reportFrame m _ => m.wf
  | .uwbReceiveWindowExpiry => true
  | .enrolmentWindowExpiry => true
  | .candidateEvaluation => true
  | .authSummaryHourEnd => true
  | .seqUp => true
  | .seqDown => true
  | .seqIdle _ => true
  | .seqListenUhf region _ => decide (region < 3)
  | .seqSendUhf payload _ => decide (payload.length ≤ 255)
  | .seqListenUwb channel _ _ => (channel == 5 || channel == 9)
  | .seqSendUwb _ _ _ => true
  | .seqRange set _ _ _ => decide (set < 4)
  | .seqCal _ => true
  | .lockQualified _ => true
  | .settleTimeout => true
  | .lockLost _ => true
  | .calStepEnd _ => true
  | .uhfFrameEnd => true
  | .uwbFrameEnd => true
  | .uhfFrameReceived _ => true
  | .uwbFrameReceived m => m.wf
  | .backgroundSlice kind _ _ _ _ => decide (kind < 4)
  | .forcedSlice kind _ _ _ _ => decide (kind < 4)
  | .heldCommandTimeout => true
  | .transmitGateDeadline => true
  | .upRetry => true
  | .recalibrationDue _ => true
  | .descriptorQueued chan _ => decide (8 ≤ chan) && decide (chan < 16)
  | .requestAdmission chan => decide (8 ≤ chan) && decide (chan < 32)
  | .completionRecord chan => decide (8 ≤ chan) && decide (chan < 32)
  | .datapathMismatch chan _ => match chan with | some c => decide (c < 32) | none => true
  | .engineSelfTestEnd _ => true
  | .nonceMarkAdvanceDone slot => decide (slot < 16)
  | .macsecRxFrame port _ => decide (port < 2)
  | .macsecTxFrame port header _ => decide (port < 2) && header.length == 12
  | .cmpwStart _ _ => true
  | .cmpwAbort _ _ => true
  | .cmpwLoad _ _ => true
  | .cmpwRelease _ _ => true
  | .cmpwBlockDone => true
  | .cmpwLoadDone => true
  | .cmpwYieldEnd => true
  | .meterSample _ _ _ _ => true
  | .meanEnd => true
  | .inputStuck input => decide (input < 4)
  | .counterCommit => true
  | .summaryBoundary => true
  | .graceExpiry => true
  | .queuedEntryAppend => true
  | .healthSummaryHour => true
  | .statisticsHour => true
  | .sstlEdge _ _ => true
  | .sstlDisagree => true
  | .readbackWindowEnd _ _ _ => true
  | .latchComplementTimeout _ => true
  | .idleExpiry => true
  | .revokeNoticeElapsed => true
  | .permissionOscillatorTrim _ => true
  | .pairDivergence pair => decide (pair < 4)
  | .roleMigrationComplete => true
  | .pairSelfTestEnd pair _ => decide (pair < 4)
  | .roleReturn _ => true
  | .pairRetirementEnd pair => decide (pair < 4)
  | .tamperAssertion input => decide (input < 4)
  | .tamperQuiet unit => decide (unit < 5)
  | .meshCheck _ => true
  | .tamperConfirmed input => decide (input < 4)
  | .tamperLatchClear => true
  | .sleepCommit => true
  | .veto domain => decide (domain < 14)
  | .domainGated => true
  | .driftIdleEntry => true
  | .wakeSource code => decide (code < 14)
  | .wakeComplete => true
  | .linkActivity port => decide (port < 2)
  | .ethernetWakeFrame port _ => decide (port < 2)
  | .padFrzWrite _ => true
  | .gpioEdge pin _ => decide (pin < 16)
  | .linkChange port _ => decide (port < 6)
  | .autonegTimeout port => decide (port < 2)
  | .mkaHello port => decide (port < 2)
  | .mkaPdu port sci priority _ _ _ _ => decide (port < 2) && decide (sci < 2 ^ 64) && decide (priority < 256)
  | .mkaLifeExpiry port => decide (port < 2)
  | .duplicateAddressDetected port => decide (port < 2)
  | .neighbourSolicitation port _ => decide (port < 2)
  | .echoRequest port _ _ => decide (port < 2)
  | .nodeIdClash seg => decide (seg < 4)
  | .announceFrame seg _ => decide (seg < 4)
  | .nodeCheck => true
  | .segmentResponse seg _ => decide (seg < 4)
  | .segmentResponseMiss code => decide (0x40 ≤ code) && decide (code < 0x60)
  | .enrolChallengeRetry => true
  | .segmentData seg _ => decide (seg < 4)
  | .updateIr code => decide (code < 32)
  | .updateDr cells => cells.length == 111
  | .tapReset => true
  | .lfloop _ _ _ => true
  | .rfloop _ _ _ => true
  | .rfTestEnd => true
  | .capPinLevelChange pin _ => decide (pin < 4)
  | .transitionsResume input => decide (input < 4)
  | .frameDiscarded port => decide (port < 6)

end Sys2Proof
end

