-- ==== Sys2Proof/Tests/Slice0.lean ====
section
/-!
SUPPORT. The model's own tests: what WellFormed refuses, results of the spec's worked examples and of published vectors,
and, for each statement with hypotheses, concrete states and operands that meet them, clause by clause.
-/
set_option Elab.async false
set_option maxRecDepth 20000

namespace Sys2Proof.Tests
open Sys2Proof Sys2Proof.Machine

/-- A running block, 1,000 s into its epoch. -/
def on : State :=
  { boot := { phase := .running, bootCount := 1, releaseNs := 1000000, readyNs := 2000000, epochDue := false }
    tbu := { running := true, refOk := true, slowOk := true, ns := 1000000000000 }
    mbx := { ready := true }
    net := { linkUp := [true, true, true, true, true, true] } }

/-- Values that the image carries. -/
def img (vs : List (Nat × Nat × Int)) (s : State) : State :=
  s.modCfg fun c => { c with image := vs.map fun v => (v.1 * 0x10000 + v.2.1, v.2.2) }

/-- A command in a mailbox, issued and started. -/
def put (mb op : Nat) (p : List Byte) (s : State) : State :=
  s.modBox mb fun b =>
    { b with st := .issued, started := true, ringNs := s.now, run := leBytes 2 op ++ leBytes 2 7 ++ leBytes 2 0 ++
        leBytes 2 p.length ++ leBytes 1 0xFF ++ zeros 3 ++ leBytes 4 0 ++ p }

/-- The same with host window 0 named and held. -/
def putWin (mb op : Nat) (p : List Byte) (s : State) : State :=
  s.modBox mb fun b =>
    { b with st := .issued, started := true, ringNs := s.now, winHeld := some 0, run := leBytes 2 op ++ leBytes 2 7 ++
        leBytes 2 0 ++ leBytes 2 p.length ++ leBytes 1 0 ++ zeros 3 ++ leBytes 4 0 ++ p }

/-! ### Deciding the hypotheses -/

/-- A statement about the value of an option, if there is one. -/
@[reducible] def decSome {α : Type} {o : Option α} {P : α → Prop} [∀ x, Decidable (P x)] : Decidable (∀ x, o = some x → P x) :=
  match o with
  | some x => decidable_of_iff (P x) ⟨fun h _ e => by cases e; exact h, fun h => h x rfl⟩
  | none => .isTrue fun _ h => by cases h

/-- An option has a value that meets a statement. -/
@[reducible] def decEx {α : Type} {o : Option α} {P : α → Prop} [∀ x, Decidable (P x)] : Decidable (∃ x, o = some x ∧ P x) :=
  match o with
  | some x => decidable_of_iff (P x) ⟨fun h => ⟨x, rfl, h⟩, fun ⟨_, h, k⟩ => by cases h; exact k⟩
  | none => .isFalse fun ⟨_, h, _⟩ => by cases h

/-- The same of a pair. -/
@[reducible] def decPair {α β : Type} {o : Option (α × β)} {P : α → β → Prop} [∀ x y, Decidable (P x y)] :
    Decidable (∃ x y, o = some (x, y) ∧ P x y) :=
  match o with
  | some (a, b) => decidable_of_iff (P a b) ⟨fun h => ⟨a, b, rfl, h⟩, fun ⟨_, _, h, k⟩ => by cases h; exact k⟩
  | none => .isFalse fun ⟨_, _, h, _⟩ => by cases h

/-- A statement about each lane with its place. -/
@[reducible] def decLanes {xs : List Lane} {P : Nat → Lane → Prop} [∀ i x, Decidable (P i x)] :
    Decidable (∀ (i : Nat) (x : Lane), xs[i]? = some x → P i x) :=
  decidable_of_iff (∀ i ∈ List.range xs.length, ∀ x, x ∈ xs[i]? → P i x)
    ⟨fun h i x e => h i (by simpa using (List.getElem?_eq_some_iff.mp e).1) x e, fun h i _ => h i⟩

/-- Another lane has no outcome yet (Round.othersRun). -/
@[reducible] def decOthers {xs : List Lane} {k : Nat} : Decidable (∃ i m, i ≠ k ∧ xs[i]? = some m ∧ m.outcome = none) :=
  decidable_of_iff (∃ i ∈ List.range xs.length, i ≠ k ∧ (xs[i]?).map (·.outcome) = some none) (by
    constructor
    · rintro ⟨i, hi, hk, h⟩
      cases hm : xs[i]? with
      | none => simp [hm] at h
      | some m => exact ⟨i, m, hk, hm, by simpa [hm] using h⟩
    · rintro ⟨i, m, hk, hm, ho⟩
      refine ⟨i, ?_, hk, by simp [hm, ho]⟩
      have := List.getElem?_eq_some_iff.mp hm
      simpa using this.1)

/-- Some answer is ranked. -/
@[reducible] def decRank {l : List SlotAns} {f : SlotAns → Verdict} : Decidable (∃ a c, a ∈ l ∧ f a = .rank c) :=
  decidable_of_iff (∃ a ∈ l, (match f a with | .rank _ => true | _ => false) = true) (by
    constructor
    · rintro ⟨a, ha, h⟩
      cases hf : f a with
      | rank c => exact ⟨a, c, ha, hf⟩
      | _ => simp [hf] at h
    · rintro ⟨a, c, ha, h⟩
      exact ⟨a, ha, by simp [h]⟩)

/-- A line that is neither a bank's nor the ledger's. -/
@[reducible] def decLine {l : MramLine} : Decidable (∀ b, l ≠ .firmware b ∧ l ≠ .meton b ∧ l ≠ .moraine b) :=
  match l with
  | .firmware b => .isFalse fun h => (h b).1 rfl
  | .meton b => .isFalse fun h => (h b).2.1 rfl
  | .moraine b => .isFalse fun h => (h b).2.2 rfl
  | .record _ _ | .attach _ | .stamps | .slot _ | .counters => .isTrue fun _ => ⟨nofun, nofun, nofun⟩

/-- A statement that was decided as true holds. -/
theorem holds {p : Prop} (i : Decidable p) (h : @decide p i = true) : p := @of_decide_eq_true p i h

/-! ### Bytes that rest on an opaque constant -/

/-- The bytes between two known lengths. -/
theorem slice_mid {a t c : List Byte} {i n : Nat} (ha : a.length = i) (ht : t.length = n) : slice (a ++ t ++ c) i n = t := by
  subst ha ht; simp [slice]

/-- The bytes at the end. -/
theorem slice_tail {a t : List Byte} {i n : Nat} (ha : a.length = i) (ht : t.length = n) : slice (a ++ t) i n = t := by
  subst ha ht; simp [slice]

theorem leBytes_length (n v : Nat) : (leBytes n v).length = n := by
  induction n generalizing v with
  | zero => rfl
  | succ n ih => simp [leBytes, ih]

theorem leNat_leBytes (n v : Nat) (h : v < 256 ^ n) : leNat (leBytes n v) = v := by
  induction n generalizing v with
  | zero => simp at h; simp [leBytes, leNat, h]
  | succ n ih =>
    have : v / 256 < 256 ^ n := by rw [Nat.div_lt_iff_lt_mul (by decide)]; rw [Nat.pow_succ] at h; exact h
    simp [leBytes, leNat, ih _ this]; omega

theorem crc16_lt (bs : List Byte) : crc16 bs < 256 ^ 2 := BitVec.isLt _

/-- Bytes with their CRC check. -/
theorem crcOk_crc (bs : List Byte) : crcOk (bs ++ beBytes 2 (crc16 bs)) = true := by
  simp [crcOk, beNat, beBytes, leBytes_length, leNat_leBytes _ _ (crc16_lt bs)]

/-- A sent frame's payload is read back. -/
theorem uhfPayload_frame (p : List Byte) (n : Nat) (hn : p.length = n) (h : n < 256) :
    uhfPayload ((uhfFrame p).drop 5) = some p := by
  subst hn
  have e : (uhfFrame p).drop 5 = leBytes 1 p.length ++ p ++ beBytes 2 (crc16 (leBytes 1 p.length ++ p)) := by
    simp [uhfFrame, beBytes, leBytes]
  have hu : uAt (leBytes 1 p.length ++ p ++ beBytes 2 (crc16 (leBytes 1 p.length ++ p))) 0 1 = p.length := by
    simp [uAt, slice, leBytes, leNat]; omega
  have hs : slice (leBytes 1 p.length ++ p ++ beBytes 2 (crc16 (leBytes 1 p.length ++ p))) 1 p.length = p :=
    slice_mid (leBytes_length 1 _) rfl
  have ht : (leBytes 1 p.length ++ p ++ beBytes 2 (crc16 (leBytes 1 p.length ++ p))).take (p.length + 1) =
      leBytes 1 p.length ++ p := by simp [leBytes]
  have hd : (leBytes 1 p.length ++ p ++ beBytes 2 (crc16 (leBytes 1 p.length ++ p))).drop (p.length + 1) =
      beBytes 2 (crc16 (leBytes 1 p.length ++ p)) := by simp [leBytes]
  rw [e, uhfPayload, hu, hs, ht, hd]
  have hl : (leBytes 1 p.length ++ p ++ beBytes 2 (crc16 (leBytes 1 p.length ++ p))).length = p.length + 3 := by
    simp [leBytes_length, beBytes]; omega
  exact if_pos ⟨hl, by simp [beNat, beBytes, leNat_leBytes _ _ (crc16_lt _)]⟩

/-- The device identity is read back from its eight bytes. -/
theorem identity_at {a c : List Byte} {i : Nat} (ha : a.length = i) :
    uAt (a ++ leBytes 8 Config.deviceIdentity ++ c) i 8 = Config.deviceIdentity := by
  rw [uAt, slice_mid ha (leBytes_length 8 _)]
  exact leNat_leBytes 8 _ (by have := BitVec.isLt Config.deviceUid; simpa [Config.deviceIdentity] using this)

/-! ### WellFormed: a term that each check refuses, and one at the end of each range that it takes -/

/-- Ill-formed commands, each failing one check (part 1). -/
theorem test_wf_refuses1 : List.all (α := Instr)
    [.resetRelease { pairOk := [true] }, .resetRelease { tmp := [] }, .bootSelfTestRetry { pairOk := [true] },
     .bootSelfTestRetry { tmp := [] }, .bootMonitorExpiry { pairOk := [true] }, .bootMonitorExpiry { tmp := [] },
     .vresMeasurement 0x10000, .feedDeliveringChange 2 false, .feedOv 2 false, .sccpClassification 2,
     .sccpClassWrite 2 0, .sccpClassWrite 0 16, .tempoGovernorUpdate (List.replicate 12 0) 0, .counterOutvoted 3 0,
     .counterOutvoted 0 (2 ^ 104), .gptpForeignFrame 3, .pdelayReq 6, .registerWrite .spi 0x200000 0, .timerTick 8,
     .timerWrap 8, .compareFire 8 0, .compareFire 0 2, .tmrnCtrlWrite 8 0, .swtrig 8, .tmrnCntWrite 8 0,
     .tmrnCmpWrite 8 0 0, .tmrnCmpWrite 0 2 0, .tmrnCapRead .spi 8, .almmLoWrite .spi 4 0, .almmLoRead .spi 4,
     .alarmFire 4, .alarmDisarm 4, .pinPulseEnd 4, .capEdge 4 false, .capnLoRead .spi 4, .capFlush 4,
     .eventOccurrence 16 0, .eventOccurrence 0 16, .batchDueTime 16, .evcClaimWrite 6 0]
    (fun i => !i.wf) = true := by decide +kernel

/-- Ill-formed commands, each failing one check (part 2). -/
theorem test_wf_refuses2 : List.all (α := Instr)
    [.evcDlvRead .spi 6, .retraction 6, .wakeOutPulse 16, .translationFault 20 0 0 0 0 0 false,
     .translationFault 0 0 3 0 0 0 false, .faultRestart 20 0 0, .faultAbort 20, .translationInvalidation 20 none,
     .hbwWinCfgWrite 16 0, .apertureAccess 0x100000 none, .uncorrectableWord 0x800000 0 0 0,
     .uncorrectableWord 0 20 0 0, .mramUncorrectableLine .stamps 0x400000 false,
     .mramUncorrectableLine (.record 1024 true) 0 false, .mramUncorrectableLine (.attach 96) 0 false,
     .mramUncorrectableLine (.slot 16) 0 false, .mramUncorrectableLine (.firmware 2) 0 false,
     .mramUncorrectableLine (.meton 2) 0 false, .mgmtRequest 2 false 0 0 [], .mgmtRequest 0 false (2 ^ 128) 0 [],
     .mgmtRequest 0 false 0 0x10000 [], .doorbell 8, .commandLimit 8, .commandAreaWrite 8 0 0,
     .commandAreaWrite 0 64 0, .mbnRes0Read 8, .sysInfo 8, .sysReset 8, .sysEvent 8, .sysHealth 8, .cfgLoad 8,
     .cfgActivate 8, .cfgStatus 8, .cfgSet 8, .cfgGet 8, .partEnrol 8, .partEnrolOpen 8, .partGet 8, .partList 8,
     .partSet 8]
    (fun i => !i.wf) = true := by decide +kernel

/-- Ill-formed commands, each failing one check (part 3). -/
theorem test_wf_refuses3 : List.all (α := Instr)
    [.partAbsent 8, .partRemove 8, .partRekey 8, .partUnlock 8, .sessPoll 8, .sessStatus 8, .sessLast 8,
     .rangeStatus 8, .rangeTest 8, .lfStatus 8, .lfDiag 8, .lfTune 8, .lfPhase 8, .lfPopulation 8, .lfPopcheck 8,
     .rfStatus 8, .rfCal 8, .rfTest 8, .rfCapture 8, .relConsent 8, .relRevoke 8, .relCancel 8, .relStatus 8,
     .cryptChan 8, .cryptSubmit 8, .cryptDone 8, .cryptCtxOpen 8, .cryptCtxClose 8, .cryptCtxSave 8,
     .cryptCtxRestore 8, .keyWrite 8, .keyErase 8, .keyInfo 8, .keyReprovBegin 8, .keyReprovFinish 8, .ledgEnergy 8,
     .ledgStatus 8, .ledgExport 8, .ledgAck 8, .ledgCredit 8]
    (fun i => !i.wf) = true := by decide +kernel

/-- Ill-formed commands, each failing one check (part 4). -/
theorem test_wf_refuses4 : List.all (α := Instr)
    [.timeStatus 8, .timeCivil 8, .pwrStatus 8, .pwrSleep 8, .diagTempo 8, .diagFaults 8, .fwWrite 8, .fwActivate 8,
     .fwStatus 8, .burstRequest 1 64, .burstRequest (1 - 1) 0, .burstRequest (3 + 1) 0, .overcurrentTrip 64,
     .resonanceMeasurement 64 {}, .uplinkFrame 48 none, .noAnswer 48, .periodicPoll 8, .slotAnswer 16 none,
     .derivationComplete 16, .responseFrame (zeros 259), .rangingResponse { gainA := 42 },
     .rangingResponse { gainB := 3 }, .rangingResponse {}, .reportFrame { gainA := 42 } none,
     .reportFrame { gainB := 3 } none, .reportFrame {} none, .seqListenUhf 3 0, .seqSendUhf (zeros 256) false,
     .seqListenUwb 6 0 false, .seqRange 4 0 0 0, .uwbFrameReceived { gainA := 42 }, .uwbFrameReceived { gainB := 3 },
     .uwbFrameReceived {}, .backgroundSlice 4 0 0 0 false, .forcedSlice 4 0 0 0 false, .descriptorQueued (8 - 1) {},
     .descriptorQueued 16 {}, .requestAdmission (8 - 1), .requestAdmission 32, .completionRecord (8 - 1)]
    (fun i => !i.wf) = true := by decide +kernel

/-- Ill-formed commands, each failing one check (part 5). -/
theorem test_wf_refuses5 : List.all (α := Instr)
    [.completionRecord 32, .nonceMarkAdvanceDone 16, .macsecRxFrame 2 [], .macsecTxFrame 2 (zeros 12) [],
     .macsecTxFrame 0 (zeros 11) [], .inputStuck 4, .pairDivergence 4, .pairSelfTestEnd 4 false, .pairRetirementEnd 4,
     .tamperAssertion 4, .tamperQuiet 5, .tamperConfirmed 4, .veto 14, .wakeSource 14, .linkActivity 2,
     .ethernetWakeFrame 2 [], .gpioEdge 16 false, .linkChange 6 false, .autonegTimeout 2, .mkaHello 2,
     .mkaPdu 2 0 0 false none [] [], .mkaPdu 0 (2 ^ 64) 0 false none [] [], .mkaPdu 0 0 256 false none [] [],
     .mkaLifeExpiry 2, .duplicateAddressDetected 2, .neighbourSolicitation 2 false, .echoRequest 2 false [],
     .nodeIdClash 4, .announceFrame 4 [], .segmentResponse 4 [], .segmentResponseMiss (0x40 - 1),
     .segmentResponseMiss 0x60, .segmentData 4 [], .updateIr 32, .updateDr (List.replicate 110 false),
     .capPinLevelChange 4 false, .transitionsResume 4, .frameDiscarded 6]
    (fun i => !i.wf) = true := by decide +kernel

/-- The last value of each range is well formed (part 1). -/
theorem test_wf_takes1 : List.all (α := Instr)
    [.resetRelease {}, .bootSelfTestRetry {}, .bootMonitorExpiry {}, .vresMeasurement (0x10000 - 1),
     .feedDeliveringChange (2 - 1) false, .feedOv (2 - 1) false, .sccpClassification (2 - 1),
     .sccpClassWrite (2 - 1) 0, .sccpClassWrite 0 (16 - 1), .tempoGovernorUpdate (List.replicate 13 0) 0,
     .counterOutvoted (3 - 1) 0, .counterOutvoted 0 (2 ^ 104 - 1), .gptpForeignFrame (3 - 1), .pdelayReq (6 - 1),
     .registerWrite .spi (0x200000 - 1) 0, .timerTick (8 - 1), .timerWrap (8 - 1), .compareFire (8 - 1) 0,
     .compareFire 0 (2 - 1), .tmrnCtrlWrite (8 - 1) 0, .swtrig (8 - 1), .tmrnCntWrite (8 - 1) 0,
     .tmrnCmpWrite (8 - 1) 0 0, .tmrnCmpWrite 0 (2 - 1) 0, .tmrnCapRead .spi (8 - 1), .almmLoWrite .spi (4 - 1) 0,
     .almmLoRead .spi (4 - 1), .alarmFire (4 - 1), .alarmDisarm (4 - 1), .pinPulseEnd (4 - 1), .capEdge (4 - 1) false,
     .capnLoRead .spi (4 - 1), .capFlush (4 - 1), .eventOccurrence (16 - 1) 0, .eventOccurrence 0 (16 - 1),
     .batchDueTime (16 - 1), .evcClaimWrite (6 - 1) 0, .evcDlvRead .spi (6 - 1), .retraction (6 - 1),
     .wakeOutPulse (16 - 1)]
    Instr.wf = true := by decide +kernel

/-- The last value of each range is well formed (part 2). -/
theorem test_wf_takes2 : List.all (α := Instr)
    [.translationFault (20 - 1) 0 0 0 0 0 false, .translationFault 0 0 (3 - 1) 0 0 0 false, .faultRestart (20 - 1) 0 0,
     .faultAbort (20 - 1), .translationInvalidation (20 - 1) none, .hbwWinCfgWrite (16 - 1) 0,
     .apertureAccess (0x100000 - 1) none, .uncorrectableWord (0x800000 - 1) 0 0 0, .uncorrectableWord 0 (20 - 1) 0 0,
     .mramUncorrectableLine .stamps (0x400000 - 1) false, .mramUncorrectableLine (.record 1023 true) 0 false,
     .mramUncorrectableLine (.attach 95) 0 false, .mramUncorrectableLine (.slot 15) 0 false,
     .mramUncorrectableLine (.firmware 1) 0 false, .mramUncorrectableLine (.meton 1) 0 false,
     .mgmtRequest (2 - 1) false 0 0 [], .mgmtRequest 0 false (2 ^ 128 - 1) 0 [],
     .mgmtRequest 0 false 0 (0x10000 - 1) [], .doorbell (8 - 1), .commandLimit (8 - 1), .commandAreaWrite (8 - 1) 0 0,
     .commandAreaWrite 0 (64 - 1) 0, .mbnRes0Read (8 - 1), .sysInfo (8 - 1), .sysReset (8 - 1), .sysEvent (8 - 1),
     .sysHealth (8 - 1), .cfgLoad (8 - 1), .cfgActivate (8 - 1), .cfgStatus (8 - 1), .cfgSet (8 - 1), .cfgGet (8 - 1),
     .partEnrol (8 - 1), .partEnrolOpen (8 - 1), .partGet (8 - 1), .partList (8 - 1), .partSet (8 - 1),
     .partAbsent (8 - 1), .partRemove (8 - 1), .partRekey (8 - 1)]
    Instr.wf = true := by decide +kernel

/-- The last value of each range is well formed (part 3). -/
theorem test_wf_takes3 : List.all (α := Instr)
    [.partUnlock (8 - 1), .sessPoll (8 - 1), .sessStatus (8 - 1), .sessLast (8 - 1), .rangeStatus (8 - 1),
     .rangeTest (8 - 1), .lfStatus (8 - 1), .lfDiag (8 - 1), .lfTune (8 - 1), .lfPhase (8 - 1), .lfPopulation (8 - 1),
     .lfPopcheck (8 - 1), .rfStatus (8 - 1), .rfCal (8 - 1), .rfTest (8 - 1), .rfCapture (8 - 1), .relConsent (8 - 1),
     .relRevoke (8 - 1), .relCancel (8 - 1), .relStatus (8 - 1), .cryptChan (8 - 1), .cryptSubmit (8 - 1),
     .cryptDone (8 - 1), .cryptCtxOpen (8 - 1), .cryptCtxClose (8 - 1), .cryptCtxSave (8 - 1),
     .cryptCtxRestore (8 - 1), .keyWrite (8 - 1), .keyErase (8 - 1), .keyInfo (8 - 1), .keyReprovBegin (8 - 1),
     .keyReprovFinish (8 - 1), .ledgEnergy (8 - 1), .ledgStatus (8 - 1), .ledgExport (8 - 1), .ledgAck (8 - 1),
     .ledgCredit (8 - 1), .timeStatus (8 - 1), .timeCivil (8 - 1), .pwrStatus (8 - 1)]
    Instr.wf = true := by decide +kernel

/-- The last value of each range is well formed (part 4). -/
theorem test_wf_takes4 : List.all (α := Instr)
    [.pwrSleep (8 - 1), .diagTempo (8 - 1), .diagFaults (8 - 1), .fwWrite (8 - 1), .fwActivate (8 - 1),
     .fwStatus (8 - 1), .burstRequest 1 (64 - 1), .burstRequest 1 0, .burstRequest 3 0, .overcurrentTrip (64 - 1),
     .resonanceMeasurement (64 - 1) {}, .uplinkFrame (48 - 1) none, .noAnswer (48 - 1), .periodicPoll (8 - 1),
     .slotAnswer (16 - 1) none, .derivationComplete (16 - 1), .responseFrame (zeros 258), .seqListenUhf (3 - 1) 0,
     .seqSendUhf (zeros 255) false, .seqListenUwb 9 0 false, .seqRange (4 - 1) 0 0 0,
     .backgroundSlice (4 - 1) 0 0 0 false, .forcedSlice (4 - 1) 0 0 0 false, .descriptorQueued 8 {},
     .descriptorQueued (16 - 1) {}, .requestAdmission 8, .requestAdmission (32 - 1), .completionRecord 8,
     .completionRecord (32 - 1), .nonceMarkAdvanceDone (16 - 1), .macsecRxFrame (2 - 1) [],
     .macsecTxFrame (2 - 1) (zeros 12) [], .macsecTxFrame 0 (zeros 12) [], .inputStuck (4 - 1),
     .pairDivergence (4 - 1), .pairSelfTestEnd (4 - 1) false, .pairRetirementEnd (4 - 1), .tamperAssertion (4 - 1),
     .tamperQuiet (5 - 1), .tamperConfirmed (4 - 1)]
    Instr.wf = true := by decide +kernel

/-- The last value of each range is well formed (part 5). -/
theorem test_wf_takes5 : List.all (α := Instr)
    [.veto (14 - 1), .wakeSource (14 - 1), .linkActivity (2 - 1), .ethernetWakeFrame (2 - 1) [],
     .gpioEdge (16 - 1) false, .linkChange (6 - 1) false, .autonegTimeout (2 - 1), .mkaHello (2 - 1),
     .mkaPdu (2 - 1) 0 0 false none [] [], .mkaPdu 0 (2 ^ 64 - 1) 0 false none [] [],
     .mkaPdu 0 0 (256 - 1) false none [] [], .mkaLifeExpiry (2 - 1), .duplicateAddressDetected (2 - 1),
     .neighbourSolicitation (2 - 1) false, .echoRequest (2 - 1) false [], .nodeIdClash (4 - 1),
     .announceFrame (4 - 1) [], .segmentResponse (4 - 1) [], .segmentResponseMiss 0x40,
     .segmentResponseMiss (0x60 - 1), .segmentData (4 - 1) [], .updateIr (32 - 1),
     .updateDr (List.replicate 111 false), .capPinLevelChange (4 - 1) false, .transitionsResume (4 - 1),
     .frameDiscarded (6 - 1)]
    Instr.wf = true := by decide +kernel

/-- A response of 1,023 taps, and one with a part beyond 16 bits, are refused; a whole one is taken. -/
theorem test_wf_cir : Cir.wf (List.replicate 1023 (0, 0)) = false ∧ Cir.wf (List.replicate 1024 (32768, 0)) = false ∧
    Cir.wf (List.replicate 1024 (0, -32769)) = false ∧ Cir.wf (List.replicate 1024 (32767, -32768)) = true := by decide +kernel

/-! ### Results of the spec's worked examples and of the published vectors of the algorithms it names -/

/-- AES-128 of FIPS 197, appendix C.1 (R239). -/
theorem test_aes_vector :
    Aes.encBlock ((List.range 16).map fun i => BitVec.ofNat 8 i) ((List.range 16).map fun i => BitVec.ofNat 8 (17 * i)) =
      beBytes 16 0x69C4E0D86A7B0430D8CDB78070B4C55A := by decide +kernel

/-- AES-CMAC of RFC 4493, the empty message. -/
theorem test_cmac_vector : Aes.cmac (beBytes 16 0x2B7E151628AED2A6ABF7158809CF4F3C) [] =
    beBytes 16 0xBB1D6929E95937287FA37D129B756746 := by decide +kernel

/-- AES-GCM, test case 2 of its specification: ciphertext and tag. -/
theorem test_gcm_vector : Aes.gcmCrypt (zeros 16) (zeros 12) (zeros 16) = beBytes 16 0x0388DACE60B6A392F328C2B971B2FE78 ∧
    Aes.gcmTag (zeros 16) (zeros 12) [] (beBytes 16 0x0388DACE60B6A392F328C2B971B2FE78) =
      beBytes 16 0xAB6E47D42CEC13BDF53A67B21257BDDF := by decide +kernel

/-- The decryption of FIPS 197, appendix C.1. -/
theorem test_aes_inverse :
    Aes.decBlock ((List.range 16).map fun i => BitVec.ofNat 8 i) (beBytes 16 0x69C4E0D86A7B0430D8CDB78070B4C55A) =
      (List.range 16).map fun i => BitVec.ofNat 8 (17 * i) := by decide +kernel

/-- CRC-16/CCITT from 0xFFFF over the digits 1 to 9 (R173): 0x29B1. -/
theorem test_crc16_vector : crc16 ((List.range 9).map fun i => BitVec.ofNat 8 (0x31 + i)) = 0x29B1 := by decide +kernel

/-- The input of the KDF that R281 writes out: K(1) of a module key at identity 0x0051_A0E2_0000_0016. -/
theorem test_kdf_input : kdf (zeros 32) 0x0101 0x0051A0E200000016 0x20 0 128 =
    Aes.cmac (zeros 32) (beBytes 19 0x01010100_0051A0E200000016_20_00000000_0080) := by decide +kernel

/-- The meter at the defaults of R303, with unity gains. -/
def unity : Met := { scale := [1000, 1000, 2 ^ 20, 2 ^ 20, 2 ^ 20, 2 ^ 20, 0, 0, 0, 0] }

/-- The worked example of 11_metering_and_moraine: 250 A and 625 V give 2,000 mJ and 3.2 mC in one sample. -/
theorem test_meter_sample :
    unity.product false [some 10485760, none, some 13631488, none] = some (2000 * 2 ^ 24, roundDiv (32 * 2 ^ 24) 10) := by
  decide +kernel

/-- The read across a carry of 12_timebase: low word, then the shadow's high word and fraction. -/
theorem test_read_across_carry :
    let s : State := { on with tbu := { on.tbu with ns := 0x00000546FFFFFFE6, frac := 2 ^ 38 } }
    (readNsLo .spi s).1 = 0xFFFFFFE6 ∧ ((readNsLo .spi s).2.shadow .spi).nsHi = 0x546 ∧
      ((readNsLo .spi s).2.shadow .spi).frac = 0x40 := by decide +kernel

/-- The ATPAST column of R356 with TOP 999 and the count at 500. -/
theorem test_at_past : atOrPast 500 500 999 = true ∧ lateOf 500 500 999 = 0 ∧ atOrPast 500 499 999 = true ∧
    lateOf 500 499 999 = 1 ∧ atOrPast 500 501 999 = false ∧ atOrPast 500 0 999 = false := by decide

/-- The magnitude example of R83: v = 60, 54 and 40 give 32.04 dB, at or above 64 half-decibels and below 65. -/
theorem test_field_report : bandMet (some (64, 65)) (reportPower [60, 54, 40]) = true ∧
    bandMet (some (65, 65)) (reportPower [60, 54, 40]) = false ∧ bandMet (some (0, 64)) (reportPower [60, 54, 40]) = false := by
  decide +kernel

/-- The example of R451: d_ref 2,000 mm and a mean of 439,936, that is 1,718.5 in 1/256 ns, give a delta of 21. -/
theorem test_range_delta : testDelta 3437 2 2000 = 21 := by decide +kernel

/-- The example of R496: pwr.sleep for Permafrost with wake_en 0x0000_0040 leaves PSC_WAKE_EN at 0x0000_23F1. -/
theorem test_wake_en : (match exec (.pwrSleep 0) (put 0 0x0D02 ([3, 0, 0, 0] ++ leBytes 4 0x40) on) with
    | .next t => t.psc.wakeEn
    | _ => 0) = 0x23F1 := by decide +kernel

/-! ### The hypotheses of the statements are met -/

namespace StepRunsFrontCommand
/-- The hypotheses of StepRunsFrontCommand, clause by clause, are met. -/
theorem witness :
    (∃ c : Instr, ∃ s : State, ∃ rest : List Instr, s.pending = c :: rest) ∧
    (∃ s : State, s.pending = []) := by
  refine ⟨?_, ?_⟩
  · exact ⟨_, ({ on with pending := [.powerOnReset] }), _, rfl⟩
  · exact ⟨(on), by decide +kernel⟩


end StepRunsFrontCommand

namespace MailboxCommandWaitsUntilStarted
def mig : State := { put 0 0x0101 [] on with cores := { migrating := [.host] } }

/-- The hypotheses of MailboxCommandWaitsUntilStarted, clause by clause, are met. -/
theorem witness :
    (∃ c : Instr, ∃ mb : Nat, ∃ op : Nat, ∃ s : State, mailboxCommand c = some (mb, op) ∧ op ≠ 0x0102 ∧ (s.runs mb op = false ∨ s.rolePlaced (roleOf op) = false)) := by
  exact ⟨(.sysInfo 0), _, _, mig, rfl, by decide +kernel⟩


end MailboxCommandWaitsUntilStarted

namespace LateCommandPostsDeadlineMissed
def late (op : Nat) : State := (put 0 op (zeros 8) on).modBox 0 fun b => { b with ringNs := 0 }

/-- The hypotheses of LateCommandPostsDeadlineMissed, clause by clause, are met. -/
theorem witness :
    (∃ c : Instr, ∃ mb : Nat, ∃ op : Nat, ∃ s : State, mailboxCommand c = some (mb, op) ∧ op ≠ 0x0102 ∧ (op = 0x0D02 → s.psc.state = .run) ∧ (op = 0x0301 → s.parts.enrol = none) ∧ s.runs mb op = true ∧ s.rolePlaced (roleOf op) = true ∧ (s.box mb).limit < s.now) ∧
    (∃ mb : Nat, ∃ s : State, (s.box mb).st = .issued ∧ s.hasCommitted mb = false ∧ (s.box mb).limit ≤ s.now) := by
  refine ⟨?_, ?_⟩
  · exact ⟨(.sysInfo 0), _, _, (late 257), rfl, by decide +kernel⟩
  · exact ⟨(0), (late 257), by decide +kernel⟩


end LateCommandPostsDeadlineMissed

namespace RefusedCommandHasNoEffect
/-- The hypotheses of RefusedCommandHasNoEffect, clause by clause, are met. -/
theorem witness :
    (∃ c : Instr, ∃ mb : Nat, ∃ op : Nat, ∃ st : Nat, ∃ s : State, mailboxCommand c = some (mb, op) ∧ op ∉ [0x0102, 0x0902, 0x0D02, 0x0301] ∧ Started s mb op ∧ s.ownCheck mb op = some st) := by
  exact ⟨(.sysEvent 0), _, _, _, (put 0 259 (List.replicate 80 0xFF) on), rfl, by decide +kernel, holds (by unfold Started; infer_instance) (by decide +kernel), rfl⟩


end RefusedCommandHasNoEffect

namespace DoorbellAdmitsOrRefuses
def area (op len : Nat) (s : State) : State := s.modBox 2 fun b => { b with cmd := wordsOf 64 (leBytes 2 op ++ leBytes 2 7 ++ leBytes 2 0 ++ leBytes 2 len ++ [0xFF] ++ zeros 247) }

/-- The hypotheses of DoorbellAdmitsOrRefuses, clause by clause, are met. -/
theorem witness :
    (∃ mb : Nat, ∃ s : State, mb < 8 ∧ s.pdOn 6 = true ∧ ((s.box mb).st ≠ .free ∨ s.mbx.ready = false)) ∧
    (∃ mb : Nat, ∃ s : State, s.mbx.boxes.length = 8 ∧ mb < 8 ∧ s.pdOn 6 = true ∧ (s.box mb).st = .free ∧ s.mbx.ready = true ∧ (s.ring mb).admission mb = none) ∧
    (∃ mb : Nat, ∃ st : Nat, ∃ s : State, s.mbx.boxes.length = 8 ∧ mb < 8 ∧ s.pdOn 6 = true ∧ (s.box mb).st = .free ∧ s.mbx.ready = true ∧ (s.ring mb).admission mb = some st ∧ completes st = false) ∧
    (∃ s : State, s.pdOn 6 = false) := by
  refine ⟨?_, ?_, ?_, ?_⟩
  · exact ⟨(0), ({ on with mbx := {} }), by decide +kernel⟩
  · exact ⟨(2), (area 0x0101 0 on), by decide +kernel⟩
  · exact ⟨(0), _, (on), by decide +kernel, by decide +kernel, by decide +kernel, by decide +kernel, by decide +kernel, rfl, by decide +kernel⟩
  · exact ⟨({ on with psc := { powered := 0x3FBF } }), by decide +kernel⟩


end DoorbellAdmitsOrRefuses

namespace MailboxAreasAndResults
def done (n : Nat) : State := (put 0 0x0101 [] on).modBox 0 fun b => { b with st := .posted, started := false, reads := n, res := (List.replicate 64 0).set 1 5 }
def waits : State := (put 3 0x0101 [] on).modBox 3 fun b => { b with started := false }

/-- The hypotheses of MailboxAreasAndResults, clause by clause, are met. -/
theorem witness :
    (∃ mb : Nat, ∃ k : Nat, ∃ s : State, mb < 8 ∧ k < 64 ∧ s.pdOn 6 = true ∧ s.mbx.boxes.length = 8) ∧
    (∃ r : Role, ∃ n : Nat, ∃ s : State, s.nextCommand r = some n ∧ s.roleServes r = true ∧ n < s.mbx.boxes.length) ∧
    (∃ mb : Nat, ∃ s : State, mb < 8 ∧ s.pdOn 6 = true ∧ (s.box mb).st = .posted ∧ s.mbx.boxes.length = 8) ∧
    (∃ s : State, s.pdOn 6 = true ∧ s.mbx.boxes.length = 8) := by
  refine ⟨?_, ?_, ?_, ?_⟩
  · exact ⟨(0), (0), (on), by decide +kernel⟩
  · exact ⟨(.host), _, (waits), rfl, by decide +kernel⟩
  · exact ⟨(0), (done 0), by decide +kernel⟩
  · exact ⟨(on), by decide +kernel⟩


end MailboxAreasAndResults

namespace SysTimeAndDiagCommands
def winOn (s : State) : State := s.modFab fun f => { f with windows := f.windows.set 0 { cfg := 0xFCF00000, busy := 1 } }

/-- The hypotheses of SysTimeAndDiagCommands, clause by clause (part 1), are met. -/
theorem witness1 :
    (∃ mb : Nat, ∃ s : State, Takes s mb 0x0101) ∧
    (∃ mb : Nat, ∃ s : State, s.lineUp = true ∧ (s.box mb).st = .issued ∧ (s.box mb).opcode = 0x0102) ∧
    (∃ mb : Nat, ∃ s : State, Takes s mb 0x0103) ∧
    (∃ mb : Nat, ∃ s : State, Takes s mb 0x0104) ∧
    (∃ mb : Nat, ∃ s : State, Takes s mb 0x0C01) := by
  refine ⟨?_, ?_, ?_, ?_, ?_⟩
  · exact ⟨(0), (put 0 0x0101 [] on), holds (by unfold Takes Started; infer_instance) (by decide +kernel)⟩
  · exact ⟨(0), (put 0 0x0102 (zeros 8) on), by decide +kernel⟩
  · exact ⟨(0), (put 0 0x0103 [1, 0, 0, 0] on), holds (by unfold Takes Started; infer_instance) (by decide +kernel)⟩
  · exact ⟨(0), (winOn (putWin 0 0x0104 (leBytes 4 0 ++ leBytes 4 5 ++ leBytes 4 0) { on with health := { next := 1, log := [{ code := 5 }] } })), holds (by unfold Takes Started; infer_instance) (by decide +kernel)⟩
  · exact ⟨(0), (winOn (putWin 0 0x0C01 (leBytes 4 0) on)), holds (by unfold Takes Started; infer_instance) (by decide +kernel)⟩

/-- The hypotheses of SysTimeAndDiagCommands, clause by clause (part 2), are met. -/
theorem witness2 :
    (∃ mb : Nat, ∃ s : State, Takes s mb 0x0C02) ∧
    (∃ mb : Nat, ∃ s : State, Takes s mb 0x0E01) ∧
    (∃ mb : Nat, ∃ s : State, Takes s mb 0x0E02) := by
  refine ⟨?_, ?_, ?_⟩
  · exact ⟨(0), (put 0 0x0C02 (leBytes 8 100 ++ leBytes 8 900000000000 ++ leBytes 4 1 ++ [0, 0, 0, 0] ++ zeros 16) on), holds (by unfold Takes Started; infer_instance) (by decide +kernel)⟩
  · exact ⟨(0), (put 0 0x0E01 [] on), holds (by unfold Takes Started; infer_instance) (by decide +kernel)⟩
  · exact ⟨(0), (put 0 0x0E02 [1, 0, 0, 0] { on with fab := { reqCounts := (List.replicate 20 3) } }), holds (by unfold Takes Started; infer_instance) (by decide +kernel)⟩


end SysTimeAndDiagCommands

namespace ResetsKeepAndClear
/-- The hypotheses of ResetsKeepAndClear, clause by clause (part 1), are met. -/
theorem witness1 :
    (∃ n : Nat, ∃ s : State, s.lineUp = true ∧ 1000 ≤ n) ∧
    (∃ n : Nat, ∃ s : State, s.lineUp = true ∧ n < 100) ∧
    (∃ n : Nat, ∃ s : State, s.lineUp = true ∧ 100 ≤ n ∧ n < 1000) ∧
    (∃ s : State, s.lineUp = true ∧ (∀ f ∈ s.power.feeds, f.delivering = false)) ∧
    (∃ s : State, s.lineUp = false ∧ s.psc.vresOut = true) := by
  refine ⟨?_, ?_, ?_, ?_, ?_⟩
  · exact ⟨(1000), ({ put 0 0x0103 [1, 0, 0, 0] on with evc := { groups := (List.replicate 16 { srcEn := 0xFFFF, hostMask := 1 }) }, rel := { latch := true, consent := true }, mem := [(8, 5), (0x700004, 7), (0x800010, 9)], boot := { on.boot with scratch := 7, locked := true } }), by decide +kernel⟩
  · exact ⟨(0), ({ put 0 0x0103 [1, 0, 0, 0] on with evc := { groups := (List.replicate 16 { srcEn := 0xFFFF, hostMask := 1 }) }, rel := { latch := true, consent := true }, mem := [(8, 5), (0x700004, 7), (0x800010, 9)], boot := { on.boot with scratch := 7, locked := true } }), by decide +kernel⟩
  · exact ⟨(100), ({ put 0 0x0103 [1, 0, 0, 0] on with evc := { groups := (List.replicate 16 { srcEn := 0xFFFF, hostMask := 1 }) }, rel := { latch := true, consent := true }, mem := [(8, 5), (0x700004, 7), (0x800010, 9)], boot := { on.boot with scratch := 7, locked := true } }), by decide +kernel⟩
  · exact ⟨({ put 0 0x0103 [1, 0, 0, 0] on with evc := { groups := (List.replicate 16 { srcEn := 0xFFFF, hostMask := 1 }) }, rel := { latch := true, consent := true }, mem := [(8, 5), (0x700004, 7), (0x800010, 9)], boot := { on.boot with scratch := 7, locked := true } }), by decide +kernel, holds (by letI := @decSome; letI := @decEx; letI := @decPair; letI := @decLanes; letI := @decOthers; letI := @decRank; letI := @decLine; infer_instance) (by decide +kernel)⟩
  · exact ⟨({ on with power := { on.power with line := false }, psc := { on.psc with vresOut := true } }), by decide +kernel⟩

/-- The hypotheses of ResetsKeepAndClear, clause by clause (part 2), are met. -/
theorem witness2 :
    (∃ s : State, s.lineUp = false ∧ s.psc.vresOut = false) := by
  exact ⟨({ on with psc := { state := .nunatakHold }, power := { line := false }, boot := { phase := .inReset } }), by decide +kernel⟩


end ResetsKeepAndClear

namespace BootRunsItsSteps
def rb : State := { State.reset with power := { line := true }, tbu := { ns := 400000000, running := true } }

/-- The hypotheses of BootRunsItsSteps, clause by clause (part 1), are met. -/
theorem witness1 :
    (∃ r : BootReport, ∃ s : State, ∃ u : State, s.boot.phase = .inReset ∧ s.lineUp = true ∧ (r.testEn = false ∨ s.boot.locked = true) ∧ u = s.modBoot (fun b => { b with releaseNs := s.now, due := if r.testEn then b.due ++ [(0xA0, 0, 0xFF)] else b.due })) ∧
    (∃ s : State, s.boot.phase = .selfTestWait ∧ s.boot.testNs + 1000000000 ≤ s.now) ∧
    (∃ s : State, ∃ u : State, (s.boot.phase = .stalled ∨ s.boot.phase = .selfTestWait) ∧ s.boot.releaseNs + 250000000 ≤ s.now ∧ u = s.rollBackTrial.modBoot (fun b => { b with releaseNs := s.now })) ∧
    (∃ r : BootReport, ∃ s : State, ((List.range 4).filter (s.bootPairs r.pairOk).pairUp).length < 2) ∧
    (∃ r : BootReport, ∃ s : State, 2 ≤ ((List.range 4).filter (s.bootPairs r.pairOk).pairUp).length ∧ r.cipherOk = false) := by
  refine ⟨?_, ?_, ?_, ?_, ?_⟩
  · exact ⟨({}), (rb), _, by decide +kernel, by decide +kernel, by decide +kernel, rfl⟩
  · exact ⟨({ rb with boot := { phase := .selfTestWait }, tbu := { ns := 1400000000, running := true } }), by decide +kernel⟩
  · exact ⟨({ rb with boot := { phase := .selfTestWait }, tbu := { ns := 1400000000, running := true } }), _, by decide +kernel, by decide +kernel, rfl⟩
  · exact ⟨({ pairOk := [false, true, false, false] }), (rb), by decide +kernel⟩
  · exact ⟨({ cipherOk := false }), (rb), by decide +kernel⟩

/-- The hypotheses of BootRunsItsSteps, clause by clause (part 2), are met. -/
theorem witness2 :
    (∃ r : BootReport, ∃ s : State, 2 ≤ ((List.range 4).filter (s.bootPairs r.pairOk).pairUp).length ∧ r.cipherOk = true ∧ s.testCurrent = false ∧ (s.bootPairs r.pairOk).bootBank.1 = none) ∧
    (∃ r : BootReport, ∃ s : State, 2 ≤ ((List.range 4).filter (s.bootPairs r.pairOk).pairUp).length ∧ r.cipherOk = true ∧ s.testCurrent = false ∧ ∃ fw, (s.bootPairs r.pairOk).bootBank.1 = some fw ∧ r.stalls = true) ∧
    (∃ r : BootReport, ∃ s : State, 2 ≤ ((List.range 4).filter (s.bootPairs r.pairOk).pairUp).length ∧ r.cipherOk = true ∧ s.testCurrent = false ∧ ∃ fw, (s.bootPairs r.pairOk).bootBank.1 = some fw ∧ r.stalls = false) ∧
    (∃ k : Nat, ∃ s : State, s.boot.fwTrial = some k ∧ s.boot.phase = .running ∧ s.boot.fwRunning = k ∧ s.boot.readyNs + 60000000000 ≤ s.now) := by
  refine ⟨?_, ?_, ?_, ?_⟩
  · exact ⟨({}), ({ rb with boot := { fwBanks := [{ st := 3, refused := true }, { st := 0 }] } }), by decide +kernel⟩
  · exact ⟨({ stalls := true }), (rb), by decide +kernel, by decide +kernel, by decide +kernel, _, rfl, by decide +kernel⟩
  · exact ⟨({}), (rb), by decide +kernel, by decide +kernel, by decide +kernel, _, rfl, by decide +kernel⟩
  · exact ⟨_, ({ on with boot := { phase := .running, fwTrial := some 1, fwRunning := 1, fwBanks := [{ st := 2 }, { st := 4, version := 9 }] } }), rfl, by decide +kernel⟩


end BootRunsItsSteps

namespace CfgAndFwCommands
def winOn (s : State) : State := s.modFab fun f => { f with windows := f.windows.set 0 { cfg := 0xFCF00000, busy := 1 } }
def body (ver : Nat) (fld : Nat) : List Byte := leBytes 4 0x4E54454D ++ [1, 0] ++ leBytes 2 1 ++ leBytes 4 ver ++ leBytes 4 128 ++ leBytes 8 Config.deviceIdentity ++ zeros 8 ++ leBytes 2 0x30 ++ leBytes 2 0 ++ leBytes 4 8 ++ leBytes 2 fld ++ leBytes 2 1 ++ [1, 0, 0, 0] ++ zeros 64
def tagOf (bs : List Byte) : List Byte := Aes.cmac (kdf (zeros 32) 0x0601 Config.deviceIdentity 0 0 256) bs
def bankA (bs tag : List Byte) (s : State) : State :=
  (((s.physWrite (metonBase 0) (bs ++ tag)).modSlot 1 fun x => { x with loaded := true, key := zeros 32 }).modMetonBank 0 fun m => { m with st := 1, written := 128 })
def act (s : State) : State := (put 0 0x0202 [] s).modBox 0 fun b => { b with imageKey := some (zeros 32) }

/-- Bytes just written read back. -/
theorem read_back {m : Memory} (hm : Memory.wf m = true) (a : Nat) (bs : List Byte) (n : Nat) :
    ∀ i, i + n ≤ bs.length → Memory.readBytes (Memory.writeBytes m a bs) (a + i) n = slice bs i n := by
  induction n with
  | zero => intro i _; simp [Memory.readBytes, slice]
  | succ n ih =>
    intro i h
    rw [Memory.readBytes, Memory.read_writeBytes hm a i bs (by omega), Nat.add_assoc, ih (i + 1) (by omega)]
    simp only [slice]
    rw [List.drop_eq_getElem_cons (by omega : i < bs.length), List.take_succ_cons]

/-- Bytes outside a write read as before. -/
theorem read_beside (m : Memory) (a : Nat) (bs : List Byte) (n : Nat) :
    ∀ b, b + n ≤ a ∨ a + bs.length ≤ b → Memory.readBytes (Memory.writeBytes m a bs) b n = Memory.readBytes m b n := by
  induction n with
  | zero => intro b _; rfl
  | succ n ih =>
    intro b h
    rw [Memory.readBytes, Memory.readBytes, Memory.read_writeBytes_ne m a b bs (by omega), ih (b + 1) (by omega)]

section Bank
variable {s : State} {m : Memory} {w b t root : List Byte} {x : Except Nat ImageValues}

theorem phys_at (hs : s.mem = Memory.writeBytes m (metonBase 0) w) (hm : Memory.wf m = true) {i n : Nat} (h : i + n ≤ w.length) :
    s.physRead (metonBase 0 + i) n = slice w i n := by
  rw [State.physRead, hs]; exact read_back hm _ _ _ _ h

/-- The image is read whole. -/
theorem bytes_at (hs : s.mem = Memory.writeBytes m (metonBase 0) w) (hm : Memory.wf m = true) (hl : w.length = 128)
    (h12 : leNat (slice w 12 4) = 128) : s.imageBytes 0 = w := by
  have h1 : s.imageLen 0 = some 128 := by
    simp only [State.imageLen]
    rw [phys_at hs hm (by omega), h12]; rfl
  have h2 := phys_at hs hm (i := 0) (n := 128) (by omega)
  simp only [State.imageBytes, h1]
  rw [Nat.add_zero] at h2
  rw [h2]; simp [slice, ← hl]

/-- Its tag verifies. -/
theorem tag_at (hw : s.imageBytes 0 = b ++ t) (hb : b.length = 112) (hl : t.length = 16)
    (ht : t = Aes.cmac (kdf root 0x0601 Config.deviceIdentity 0 0 256) b) : s.imageTagOk root 0 = true := by
  have h1 : (b ++ t).length - 16 = b.length := by simp [hl]
  have h3 : (b ++ t).isEmpty = false := by cases b <;> simp_all
  simp only [State.imageTagOk, hw, h1, List.take_left, List.drop_left, h3, ← ht]
  exact beq_self_eq_true _

/-- What its bytes give: the records, where the header is right. -/
theorem read_at (hd : uAt w 16 8 = Config.deviceIdentity) (h : (uAt w 0 4 == 0x4E54454D && uAt w 4 1 == 1 && zeroAt w 5 1 && uAt w 8 4 != 0 &&
    uAt w 12 4 == w.length && zeroAt w 24 8 && imageLenOk w.length) = true) :
    readImage w = readRecords (uAt w 6 2) 0 (slice w 32 (w.length - 48)) := by
  simp only [Bool.and_eq_true, bne_iff_ne, beq_iff_eq] at h
  obtain ⟨⟨⟨⟨⟨⟨h1, h2⟩, h3⟩, h4⟩, h5⟩, h6⟩, h7⟩ := h
  simp [readImage, hd, h1, h2, h3, h4, h5, h6, h7]

/-- Records refused, by themselves or by a chapter's rule. -/
def refusedBy (s : State) : Except Nat ImageValues → Bool
  | .error _ => true
  | .ok (vs, ps) => (s.modCfg fun _ => { image := vs, runtime := [], partners := ps }).layersRefusal.isSome

theorem layers_refused (h : readImage (s.imageBytes 0) = x) (hx : refusedBy s x = true) : ∃ e, s.imageLayers 0 = .error e := by
  unfold State.imageLayers
  rw [h]
  cases x with
  | error e => exact ⟨e, rfl⟩
  | ok v =>
    obtain ⟨e, he⟩ := Option.isSome_iff_exists.mp hx
    simp only [he]
    exact ⟨e, rfl⟩

theorem layers_taken (h : readImage (s.imageBytes 0) = x) (hx : refusedBy s x = false) : ∃ c, s.imageLayers 0 = .ok c := by
  unfold State.imageLayers
  rw [h]
  cases x with
  | error e => cases hx
  | ok v =>
    have he : (s.modCfg fun _ => { image := v.1, runtime := [], partners := v.2 }).layersRefusal = none := by
      simpa [refusedBy] using hx
    simp only [he]
    exact ⟨_, rfl⟩

end Bank

/-- An image with its tag. -/
def whole (ver fld : Nat) : List Byte := body ver fld ++ tagOf (body ver fld)

theorem identity_of (ver fld : Nat) : uAt (whole ver fld) 16 8 = Config.deviceIdentity := by
  have e : whole ver fld = (leBytes 4 0x4E54454D ++ [1, 0] ++ leBytes 2 1 ++ leBytes 4 ver ++ leBytes 4 128) ++
      leBytes 8 Config.deviceIdentity ++ (zeros 8 ++ leBytes 2 0x30 ++ leBytes 2 0 ++ leBytes 4 8 ++ leBytes 2 fld ++ leBytes 2 1 ++
        [1, 0, 0, 0] ++ zeros 64 ++ tagOf (body ver fld)) := by simp only [whole, body, List.append_assoc]
  rw [e]
  exact identity_at (by simp [leBytes_length])

/-- The state of leaf 4. -/
def s4 : State := act (bankA (body 5 0x300) (tagOf (body 5 0x300)) on)

theorem s4_bytes : (s4.cmdView 0).imageBytes 0 = whole 5 0x300 :=
  bytes_at (m := []) rfl (by decide +kernel) (by decide +kernel) (by decide +kernel)

theorem s4_read : readImage (whole 5 0x300) = readRecords 1 0 (slice (whole 5 0x300) 32 80) :=
  read_at (identity_of 5 0x300) (by decide +kernel)

/-- The hypotheses of CfgAndFwCommands, clause by clause (part 1), are met. -/
theorem witness1 :
    (∃ mb : Nat, ∃ bs : List Byte, ∃ s : State, Takes s mb 0x0201 ∧ (s.cmdView mb).winRead (s.box mb).window (uAt (s.box mb).payload 0 4) (uAt (s.box mb).payload 8 4) = some bs) ∧
    (∃ mb : Nat, ∃ k : Nat, ∃ s : State, ∃ v : State, Takes s mb 0x0202 ∧ v = s.cmdView mb ∧ k = v.metonInactive ∧ (v.metonBank k).st ≠ 1 ∧ (v.metonBank k).st ≠ 2) ∧
    (∃ mb : Nat, ∃ k : Nat, ∃ s : State, ∃ v : State, Takes s mb 0x0202 ∧ v = s.cmdView mb ∧ k = v.metonInactive ∧ ((v.metonBank k).st = 1 ∨ (v.metonBank k).st = 2) ∧ v.imageRoot mb = none) ∧
    (∃ mb : Nat, ∃ k : Nat, ∃ s : State, ∃ v : State, Takes s mb 0x0202 ∧ v = s.cmdView mb ∧ k = v.metonInactive ∧ ((v.metonBank k).st = 1 ∨ (v.metonBank k).st = 2) ∧ ∃ root, v.imageRoot mb = some root ∧ v.imageTagOk root k = false) ∧
    (∃ mb : Nat, ∃ k : Nat, ∃ s : State, ∃ v : State, Takes s mb 0x0202 ∧ v = s.cmdView mb ∧ k = v.metonInactive ∧ ((v.metonBank k).st = 1 ∨ (v.metonBank k).st = 2) ∧ ∃ root, v.imageRoot mb = some root ∧ v.imageTagOk root k = true ∧ ∃ e, v.imageLayers k = .error e) := by
  refine ⟨?_, ?_, ?_, ?_, ?_⟩
  · exact ⟨(0), _, (winOn (putWin 0 0x0201 (leBytes 4 16 ++ leBytes 4 0 ++ leBytes 4 64) { on with mem := [(0x700010, 9), (0x700014, 1)] })), holds (by unfold Takes Started; infer_instance) (by decide +kernel), rfl⟩
  · exact ⟨(0), _, (put 0 0x0202 [] on), _, holds (by unfold Takes Started; infer_instance) (by decide +kernel), rfl, rfl, by decide +kernel⟩
  · exact ⟨(0), _, (put 0 0x0202 [] { on with boot := { on.boot with metonBanks := [{ st := 1, written := 4096 }, {}] } }), _, holds (by unfold Takes Started; infer_instance) (by decide +kernel), rfl, rfl, by decide +kernel⟩
  · exact ⟨(0), _, (act (bankA [] [] on)), _, holds (by unfold Takes Started; infer_instance) (by decide +kernel), rfl, rfl, by decide +kernel, _, rfl, by decide +kernel⟩
  · exact ⟨0, 0, s4, (s4.cmdView 0), holds (by unfold Takes Started; infer_instance) (by decide +kernel), rfl, rfl, by decide +kernel, _, rfl, tag_at (b := body 5 0x300) (t := tagOf (body 5 0x300)) s4_bytes (by decide +kernel) (by decide +kernel) rfl, layers_refused (by rw [s4_bytes, s4_read]) (by decide +kernel)⟩

/-- The state of leaf 5. -/
def s5 : State := act (bankA (body 5 3) (tagOf (body 5 3)) { on with boot := { on.boot with fwBanks := [{ st := 3, metonMax := 0 }, {}] } })

theorem s5_bytes : (s5.cmdView 0).imageBytes 0 = whole 5 3 :=
  bytes_at (m := []) rfl (by decide +kernel) (by decide +kernel) (by decide +kernel)

theorem s5_read : readImage (whole 5 3) = readRecords 1 0 (slice (whole 5 3) 32 80) :=
  read_at (identity_of 5 3) (by decide +kernel)

theorem s5_layers : ∃ c, (s5.cmdView 0).imageLayers 0 = .ok c := layers_taken (by rw [s5_bytes, s5_read]) (by decide +kernel)

/-- Bank B holds a higher version and is active; the part is locked. -/
def on6 : State := { on.physWrite (metonBase 1 + 8) [9] with boot := { on.boot with locked := true, metonActive := some 1 } }

/-- The state of leaf 6. -/
def s6 : State := act (bankA (body 5 3) (tagOf (body 5 3)) on6)

theorem s6_mem : (s6.cmdView 0).mem = Memory.writeBytes on6.mem (metonBase 0) (whole 5 3) := rfl

theorem s6_bytes : (s6.cmdView 0).imageBytes 0 = whole 5 3 :=
  bytes_at (m := on6.mem) s6_mem (by decide +kernel) (by decide +kernel) (by decide +kernel)

theorem s6_read : readImage (whole 5 3) = readRecords 1 0 (slice (whole 5 3) 32 80) :=
  read_at (identity_of 5 3) (by decide +kernel)

theorem s6_layers : ∃ c, (s6.cmdView 0).imageLayers 0 = .ok c := layers_taken (by rw [s6_bytes, s6_read]) (by decide +kernel)

theorem s6_low : (s6.cmdView 0).imageVersion 0 = 5 := by
  rw [State.imageVersion, phys_at (m := on6.mem) s6_mem (by decide +kernel) (by decide +kernel)]; decide +kernel

theorem s6_high : (s6.cmdView 0).imageVersion 1 = 9 := by
  rw [State.imageVersion, State.physRead, s6_mem, read_beside _ _ _ _ _ (by decide +kernel)]; decide +kernel

/-- The state of leaf 7. -/
def s7 : State := act (bankA (body 5 3) (tagOf (body 5 3)) on)

theorem s7_bytes : (s7.cmdView 0).imageBytes 0 = whole 5 3 :=
  bytes_at (m := []) rfl (by decide +kernel) (by decide +kernel) (by decide +kernel)

theorem s7_read : readImage (whole 5 3) = readRecords 1 0 (slice (whole 5 3) 32 80) :=
  read_at (identity_of 5 3) (by decide +kernel)

theorem s7_layers : ∃ c, (s7.cmdView 0).imageLayers 0 = .ok c := layers_taken (by rw [s7_bytes, s7_read]) (by decide +kernel)

/-- The hypotheses of CfgAndFwCommands, clause by clause (part 2), are met. -/
theorem witness2 :
    (∃ mb : Nat, ∃ k : Nat, ∃ s : State, ∃ v : State, Takes s mb 0x0202 ∧ v = s.cmdView mb ∧ k = v.metonInactive ∧ ((v.metonBank k).st = 1 ∨ (v.metonBank k).st = 2) ∧ ∃ root, v.imageRoot mb = some root ∧ v.imageTagOk root k = true ∧ ∃ c, v.imageLayers k = .ok c ∧ v.formatRead k = false) ∧
    (∃ mb : Nat, ∃ k : Nat, ∃ s : State, ∃ v : State, Takes s mb 0x0202 ∧ v = s.cmdView mb ∧ k = v.metonInactive ∧ ((v.metonBank k).st = 1 ∨ (v.metonBank k).st = 2) ∧ ∃ root, v.imageRoot mb = some root ∧ v.imageTagOk root k = true ∧ ∃ c, v.imageLayers k = .ok c ∧ v.formatRead k = true ∧ v.versionBarred k = true) ∧
    (∃ mb : Nat, ∃ k : Nat, ∃ s : State, ∃ v : State, Takes s mb 0x0202 ∧ v = s.cmdView mb ∧ k = v.metonInactive ∧ ((v.metonBank k).st = 1 ∨ (v.metonBank k).st = 2) ∧ ∃ root, v.imageRoot mb = some root ∧ v.imageTagOk root k = true ∧ ∃ c, v.imageLayers k = .ok c ∧ v.formatRead k = true ∧ v.versionBarred k = false) ∧
    (∃ mb : Nat, ∃ s : State, Takes s mb 0x0203) ∧
    (∃ mb : Nat, ∃ sp : FieldSpec, ∃ s : State, Takes s mb 0x0204 ∧ fieldSpec (uAt (s.box mb).payload 0 2) (uAt (s.box mb).payload 2 2) = some sp) := by
  refine ⟨?_, ?_, ?_, ?_, ?_⟩
  · exact ⟨0, 0, s5, (s5.cmdView 0), holds (by unfold Takes Started; infer_instance) (by decide +kernel), rfl, rfl, by decide +kernel, _, rfl, tag_at (b := body 5 3) (t := tagOf (body 5 3)) s5_bytes (by decide +kernel) (by decide +kernel) rfl, s5_layers.choose, s5_layers.choose_spec, by rw [State.formatRead, phys_at (m := []) rfl (by decide +kernel) (by decide +kernel)]; decide +kernel⟩
  · exact ⟨0, 0, s6, (s6.cmdView 0), holds (by unfold Takes Started; infer_instance) (by decide +kernel), rfl, rfl, by decide +kernel, _, rfl, tag_at (b := body 5 3) (t := tagOf (body 5 3)) s6_bytes (by decide +kernel) (by decide +kernel) rfl, s6_layers.choose, s6_layers.choose_spec, by rw [State.formatRead, phys_at (m := on6.mem) s6_mem (by decide +kernel) (by decide +kernel)]; decide +kernel, by simp only [State.versionBarred, show (s6.cmdView 0).boot.metonActive = some 1 from rfl, s6_low, s6_high]; decide +kernel⟩
  · exact ⟨0, 0, s7, (s7.cmdView 0), holds (by unfold Takes Started; infer_instance) (by decide +kernel), rfl, rfl, by decide +kernel, _, rfl, tag_at (b := body 5 3) (t := tagOf (body 5 3)) s7_bytes (by decide +kernel) (by decide +kernel) rfl, s7_layers.choose, s7_layers.choose_spec, by rw [State.formatRead, phys_at (m := []) rfl (by decide +kernel) (by decide +kernel)]; decide +kernel, by rw [State.versionBarred]; decide +kernel⟩
  · exact ⟨(0), (put 0 0x0203 [] on), holds (by unfold Takes Started; infer_instance) (by decide +kernel)⟩
  · exact ⟨(0), _, (put 0 0x0204 (leBytes 2 recRadio ++ leBytes 2 3 ++ [1, 0, 0, 0] ++ leBytes 8 1) on), holds (by unfold Takes Started; infer_instance) (by decide +kernel), rfl⟩

/-- The hypotheses of CfgAndFwCommands, clause by clause (part 3), are met. -/
theorem witness3 :
    (∃ mb : Nat, ∃ s : State, Takes s mb 0x0205) ∧
    (∃ mb : Nat, ∃ bs : List Byte, ∃ s : State, Takes s mb 0x0F01 ∧ (s.cmdView mb).winRead (s.box mb).window (uAt (s.box mb).payload 0 4) (uAt (s.box mb).payload 8 4) = some bs) ∧
    (∃ mb : Nat, ∃ k : Nat, ∃ s : State, Takes s mb 0x0F02 ∧ k = 1 - s.boot.fwActive ∧ (s.fwBank k).st ≠ 0 ∧ s.fwVerifies k = true ∧ s.activeFormat ≤ (s.fwBank k).metonMax ∧ (s.boot.locked = false ∨ s.boot.fwFloor ≤ (s.fwBank k).version) ∧ uAt (s.box mb).payload 0 1 % 2 = 0) ∧
    (∃ mb : Nat, ∃ s : State, Takes s mb 0x0F03) := by
  refine ⟨?_, ?_, ?_, ?_⟩
  · exact ⟨(0), (put 0 0x0205 (leBytes 2 recRadio ++ leBytes 2 3) on), holds (by unfold Takes Started; infer_instance) (by decide +kernel)⟩
  · exact ⟨(0), _, (winOn (putWin 0 0x0F01 (leBytes 4 16 ++ leBytes 4 0 ++ leBytes 4 64) { on with mem := [(0x700010, 9), (0x700014, 1)] })), holds (by unfold Takes Started; infer_instance) (by decide +kernel), rfl⟩
  · exact ⟨(0), _, (put 0 0x0F02 [0, 0, 0, 0] { on with boot := { on.boot with fwBanks := [{ st := 3, version := 2, metonMax := 9 }, { st := 2, written := 100, version := 4, metonMax := 9 }] } }), holds (by unfold Takes Started; infer_instance) (by decide +kernel), rfl, by decide +kernel⟩
  · exact ⟨(0), (put 0 0x0F03 [] on), holds (by unfold Takes Started; infer_instance) (by decide +kernel)⟩


end CfgAndFwCommands

namespace TimebaseSourcesAndStart
/-- The hypotheses of TimebaseSourcesAndStart, clause by clause (part 1), are met. -/
theorem witness1 :
    (∃ s : State, s.tbu.running = false) ∧
    (∃ s : State, (s.refInputOn = false ∨ s.tbu.refOk = false)) ∧
    (∃ s : State, s.refInputOn = true ∧ s.tbu.refOk = true) ∧
    (∃ s : State, s.tbu.slowFailed = true) ∧
    (∃ s : State, s.tbu.slowFailed = false) := by
  refine ⟨?_, ?_, ?_, ?_, ?_⟩
  · exact ⟨({ on with tbu := {} }), by decide +kernel⟩
  · exact ⟨({ on with tbu := {} }), by decide +kernel⟩
  · exact ⟨({ on with tbu := { on.tbu with slowFailed := true } }), by decide +kernel⟩
  · exact ⟨({ on with tbu := { on.tbu with slowFailed := true } }), by decide +kernel⟩
  · exact ⟨(on), by decide +kernel⟩

/-- The hypotheses of TimebaseSourcesAndStart, clause by clause (part 2), are met. -/
theorem witness2 :
    (∃ s : State, s.refInputOn = true) ∧
    (∃ s : State, s.refInputOn = false) := by
  refine ⟨?_, ?_⟩
  · exact ⟨({ on with tbu := { on.tbu with slowFailed := true } }), by decide +kernel⟩
  · exact ⟨({ on with tbu := { on.tbu with src := .slowCrystal }, psc := { state := .permafrost } }), by decide +kernel⟩


end TimebaseSourcesAndStart

namespace TimebaseUncertaintyRows
/-- The hypotheses of TimebaseUncertaintyRows, clause by clause, are met. -/
theorem witness :
    (∃ s : State, s.tbu.running = true ∧ s.tbu.src = .reference ∧ s.tbu.refOk = true ∧ s.tbu.slowOk = true) ∧
    (∃ s : State, s.tbu.running = true ∧ s.tbu.secStart + 1000000000 ≤ s.now) ∧
    (∃ s : State, s.tbu.running = true ∧ (s.tbu.hist.getLast?.map (·.1)).getD 0 < s.now / hourNs * hourNs) ∧
    (∃ lane : Nat, ∃ s : State, lane ≤ 2 ∧ s.tbu.laneOut = none) := by
  refine ⟨?_, ?_, ?_, ?_⟩
  · exact ⟨(on), by decide +kernel⟩
  · exact ⟨(on), by decide +kernel⟩
  · exact ⟨({ on with tbu := { on.tbu with ns := 7200000000001, hist := [(3600000000000, 5)], uAcc := 77 } }), by decide +kernel⟩
  · exact ⟨(0), (on), by decide +kernel⟩


end TimebaseUncertaintyRows

namespace TimebaseOutputsAndReads
/-- The hypotheses of TimebaseOutputsAndReads, clause by clause, are met. -/
theorem witness :
    (∃ s : State, s.tbu.running = true ∧ s.tbu.ppsCtrl.getLsbD 0 = true ∧ s.tbu.src = .reference ∧ s.ppsSecond s.ppsSince < s.ppsSecond s.now) ∧
    (∃ s : State, s.tbu.ppsHigh = true ∧ s.tbu.ppsRise + fld s.tbu.ppsCtrl 4 12 * 1000000 ≤ s.now) ∧
    (∃ s : State, s.gptpRuns = true) ∧
    (∃ s : State, s.gptpRuns = true) ∧
    (∃ s : State, s.tbu.shadows.length = 6) := by
  refine ⟨?_, ?_, ?_, ?_, ?_⟩
  · exact ⟨({ on with tbu := { on.tbu with ppsCtrl := 0x641, ppsRise := 5 } }), by decide +kernel⟩
  · exact ⟨({ on with tbu := { on.tbu with ppsHigh := true, ppsRise := 5, ppsCtrl := 0x641 } }), by decide +kernel⟩
  · exact ⟨(on), by decide +kernel⟩
  · exact ⟨(on), by decide +kernel⟩
  · exact ⟨(on), by decide +kernel⟩


end TimebaseOutputsAndReads

namespace TimersTickAndWrap
def tm (n : Nat) (t : Timer) (s : State) : State := s.modTmr fun x => { x with timers := x.timers.set n t }

/-- The hypotheses of TimersTickAndWrap, clause by clause, are met. -/
theorem witness :
    (∃ n : Nat, ∃ s : State, n < 8 ∧ s.tmr.timers.length = 8 ∧ s.tickDue n = true ∧ s.oneTick n ∧ s.gateOpen n = false) ∧
    (∃ n : Nat, ∃ s : State, n < 8 ∧ s.tmr.timers.length = 8 ∧ s.tickDue n = true ∧ s.alone n ∧ s.oneTick n ∧ s.gateOpen n = true ∧ (s.timer n).top.toNat ≤ (s.timer n).cnt.toNat) := by
  refine ⟨?_, ?_⟩
  · exact ⟨(3), (tm 3 { ctrl := 0x2C81, cnt := 4, c0 := 4, armed0 := true } on), by decide +kernel, by decide +kernel, by decide +kernel, holds (by unfold State.oneTick State.onlyTick; infer_instance) (by decide +kernel), by decide +kernel⟩
  · exact ⟨(3), (tm 3 { ctrl := 0x9481, cnt := 0xFFFFFFFF } on), by decide +kernel, by decide +kernel, by decide +kernel, holds (by unfold State.alone State.unheard; letI := @decSome; letI := @decEx; letI := @decPair; letI := @decLanes; letI := @decOthers; letI := @decRank; letI := @decLine; infer_instance) (by decide +kernel), holds (by unfold State.oneTick State.onlyTick; infer_instance) (by decide +kernel), by decide +kernel⟩


end TimersTickAndWrap

namespace TimerConfigurationWrites
/-- The hypotheses of TimerConfigurationWrites, clause by clause, are met. -/
theorem witness :
    (∃ n : Nat, ∃ w : Word, ∃ s : State, n < 8 ∧ s.tmr.timers.length = 8 ∧ (5 ≤ fld w 13 3 ∨ 0x2A ≤ fld w 7 6 ∨ (fld w 13 3 = 1 ∧ fld w 7 6 ≠ 0 ∧ (fld w 7 6 < 0x19 ∨ 0x24 < fld w 7 6)) ∨ (fld w 13 3 = 3 ∧ fld w 7 6 ∈ [0x01 + n, 0x09 + n, 0x11 + n]) ∨ (fld w 13 3 = 3 ∧ ∃ m, codeTimer (fld w 7 6) = some m ∧ m ≠ n ∧ clockLoop s.tmr.timers n 8 m = true))) ∧
    (∃ n : Nat, ∃ w : Word, ∃ s : State, n < 8 ∧ s.tmr.timers.length = 8 ∧ ctrlRefused s.tmr.timers n w = false ∧ w.getLsbD 1 = false ∧ s.tickDue n = false) ∧
    (∃ n : Nat, ∃ w : Word, ∃ s : State, n < 8 ∧ s.tmr.timers.length = 8 ∧ ctrlRefused s.tmr.timers n w = false ∧ w.getLsbD 1 = true) := by
  refine ⟨?_, ?_, ?_⟩
  · exact ⟨(0), (0x2083), (on), by decide +kernel, by decide +kernel, holds (by letI := @decSome; letI := @decEx; letI := @decPair; letI := @decLanes; letI := @decOthers; letI := @decRank; letI := @decLine; infer_instance) (by decide +kernel)⟩
  · exact ⟨(0), (0), (on), by decide +kernel⟩
  · exact ⟨(0), (2), (on), by decide +kernel⟩


end TimerConfigurationWrites

namespace TimerCountAndCompareWrites
def tm (n : Nat) (t : Timer) (s : State) : State := s.modTmr fun x => { x with timers := x.timers.set n t }

/-- The hypotheses of TimerCountAndCompareWrites, clause by clause, are met. -/
theorem witness :
    (∃ n : Nat, ∃ s : State, n < 8 ∧ s.tmr.timers.length = 8 ∧ s.alone n) ∧
    (∃ n : Nat, ∃ s : State, n < 8 ∧ s.tmr.timers.length = 8 ∧ s.tickDue n = false ∧ s.alone n) ∧
    (∃ n : Nat, ∃ s : State, n < 8 ∧ s.tmr.timers.length = 8 ∧ s.alone n ∧ (s.timer n).past0 = true ∧ (s.timer n).armed0 = true ∧ atOrPast (s.timer n).cnt.toNat (s.timer n).c0.toNat (s.timer n).top.toNat = true ∧ (s.timer n).unitFires 1 false = false) ∧
    (∃ n : Nat, ∃ s : State, n < 8 ∧ s.tmr.timers.length = 8 ∧ s.alone n ∧ (s.timer n).past1 = true ∧ (s.timer n).armed1 = true ∧ atOrPast (s.timer n).cnt.toNat (s.timer n).c1.toNat (s.timer n).top.toNat = true) ∧
    (∃ n : Nat, ∃ s : State, n < 8 ∧ s.tmr.timers.length = 8 ∧ (s.timer n).trig = 0x29 ∧ s.alone n ∧ (∀ m : Nat, m < 8 → s.tickDue m = false)) := by
  refine ⟨?_, ?_, ?_, ?_, ?_⟩
  · exact ⟨(0), (on), by decide +kernel, by decide +kernel, holds (by unfold State.alone State.unheard; letI := @decSome; letI := @decEx; letI := @decPair; letI := @decLanes; letI := @decOthers; letI := @decRank; letI := @decLine; infer_instance) (by decide +kernel)⟩
  · exact ⟨(0), (on), by decide +kernel, by decide +kernel, by decide +kernel, holds (by unfold State.alone State.unheard; letI := @decSome; letI := @decEx; letI := @decPair; letI := @decLanes; letI := @decOthers; letI := @decRank; letI := @decLine; infer_instance) (by decide +kernel)⟩
  · exact ⟨(0), (tm 0 { lastTick := 999999999500, ctrl := 0x9, cnt := 5, c0 := 3, armed0 := true } on), by decide +kernel, by decide +kernel, holds (by unfold State.alone State.unheard; letI := @decSome; letI := @decEx; letI := @decPair; letI := @decLanes; letI := @decOthers; letI := @decRank; letI := @decLine; infer_instance) (by decide +kernel), by decide +kernel⟩
  · exact ⟨(7), (tm 7 { lastTick := 999999999500, ctrl := 0x14, cnt := 5, c1 := 3, armed1 := true, out := true } on), by decide +kernel, by decide +kernel, holds (by unfold State.alone State.unheard; letI := @decSome; letI := @decEx; letI := @decPair; letI := @decLanes; letI := @decOthers; letI := @decRank; letI := @decLine; infer_instance) (by decide +kernel), by decide +kernel⟩
  · exact ⟨(3), (tm 3 { lastTick := 999999999500, ctrl := 0x5480 } on), by decide +kernel, by decide +kernel, by decide +kernel, holds (by unfold State.alone State.unheard; letI := @decSome; letI := @decEx; letI := @decPair; letI := @decLanes; letI := @decOthers; letI := @decRank; letI := @decLine; infer_instance) (by decide +kernel), by decide +kernel⟩


end TimerCountAndCompareWrites

namespace AlarmsFireAndDisarm
def al (m : Nat) (a : Alarm) (s : State) : State := s.modTmr fun x => { x with alarms := x.alarms.set m a }

/-- The hypotheses of AlarmsFireAndDisarm, clause by clause (part 1), are met. -/
theorem witness1 :
    (∃ m : Nat, ∃ s : State, m < 4 ∧ s.tmr.alarms.length = 4 ∧ (s.alarm m).armed = true ∧ (s.tbu.ns - (s.alarm m).a).toNat < 2 ^ 63) ∧
    (∃ m : Nat, ∃ s : State, ((s.alarm m).armed = false ∨ 2 ^ 63 ≤ (s.tbu.ns - (s.alarm m).a).toNat)) ∧
    (∃ r : Requester, ∃ m : Nat, ∃ w : Word, ∃ s : State, m < 4 ∧ s.tmr.alarms.length = 4 ∧ 2 ^ 63 ≤ (s.tbu.ns - ((s.shadow r).almWr.getD m 0 ++ w)).toNat) ∧
    (∃ r : Requester, ∃ m : Nat, ∃ w : Word, ∃ s : State, m < 4 ∧ s.tmr.alarms.length = 4 ∧ (s.tbu.ns - ((s.shadow r).almWr.getD m 0 ++ w)).toNat < 2 ^ 63) ∧
    (∃ r : Requester, ∃ m : Nat, ∃ s : State, m < 4 ∧ s.tbu.shadows.length = 6 ∧ (s.shadow r).almRd.length = 4) := by
  refine ⟨?_, ?_, ?_, ?_, ?_⟩
  · exact ⟨(0), (al 0 { a := 5, armed := true } on), by decide +kernel⟩
  · exact ⟨(0), (on), by decide +kernel⟩
  · exact ⟨(.spi), (0), (0xFFFFFFFF), (on.modShadow .spi fun x => { x with almWr := [0xE8, 0xE9, 0xE7, 0xE8] }), by decide +kernel⟩
  · exact ⟨(.spi), (0), (0), (on), by decide +kernel⟩
  · exact ⟨(.spi), (0), (on), by decide +kernel⟩

/-- The hypotheses of AlarmsFireAndDisarm, clause by clause (part 2), are met. -/
theorem witness2 :
    (∃ m : Nat, ∃ s : State, m < 4 ∧ s.tmr.alarms.length = 4 ∧ ((s.alarm m).armed = false ∨ 2 ^ 63 ≤ (s.tbu.ns - (s.alarm m).a).toNat)) := by
  exact ⟨(0), (on), by decide +kernel⟩


end AlarmsFireAndDisarm

namespace CaptureFifosKeepEdges
def cf (m : Nat) (a : CapFifo) (s : State) : State := s.modTmr fun x => { x with caps := x.caps.set m a }

/-- The hypotheses of CaptureFifosKeepEdges, clause by clause (part 1), are met. -/
theorem witness1 :
    (∃ n : Nat, ∃ up : Bool, ∃ s : State, n < 4 ∧ s.tmr.caps.length = 4 ∧ (s.capFifo n).edge.testBit (if up then 0 else 1) = true ∧ (s.capFifo n).fifo.length < 4 ∧ (∀ t0, (s.capFifo n).lastStored = some t0 → t0 + 100 ≤ s.now ∧ (s.tbu.src ≠ .reference → t0 + s.tbu.inc / 2 ^ 40 < s.now))) ∧
    (∃ n : Nat, ∃ up : Bool, ∃ s : State, n < 4 ∧ s.tmr.caps.length = 4 ∧ (s.capFifo n).edge.testBit (if up then 0 else 1) = true ∧ (4 ≤ (s.capFifo n).fifo.length ∨ (s.tbu.src = .reference ∧ ∃ t0, (s.capFifo n).lastStored = some t0 ∧ s.now < t0 + 100))) ∧
    (∃ n : Nat, ∃ up : Bool, ∃ s : State, (s.capFifo n).edge.testBit (if up then 0 else 1) = false) ∧
    (∃ n : Nat, ∃ s : State, n < 4 ∧ s.tmr.caps.length = 4 ∧ ∃ e, ∃ rest, (s.capFifo n).fifo = e :: rest) ∧
    (∃ n : Nat, ∃ s : State, n < 4 ∧ s.tmr.caps.length = 4 ∧ (s.capFifo n).fifo = []) := by
  refine ⟨?_, ?_, ?_, ?_, ?_⟩
  · exact ⟨(0), (true), (cf 0 { edge := 1 } on), by decide +kernel, by decide +kernel, by decide +kernel, by decide +kernel, holds (by letI := @decSome; letI := @decEx; letI := @decPair; letI := @decLanes; letI := @decOthers; letI := @decRank; letI := @decLine; infer_instance) (by decide +kernel)⟩
  · exact ⟨(0), (true), (cf 0 { edge := 3, fifo := [{}, {}, {}, {}], nextSeq := 65535 } on), by decide +kernel, by decide +kernel, by decide +kernel, holds (by letI := @decSome; letI := @decEx; letI := @decPair; letI := @decLanes; letI := @decOthers; letI := @decRank; letI := @decLine; infer_instance) (by decide +kernel)⟩
  · exact ⟨(0), (true), (on), by decide +kernel⟩
  · exact ⟨(0), (cf 0 { edge := 3, fifo := [{}, {}, {}, {}], nextSeq := 65535 } on), by decide +kernel, by decide +kernel, _, _, rfl⟩
  · exact ⟨(0), (on), by decide +kernel⟩

/-- The hypotheses of CaptureFifosKeepEdges, clause by clause (part 2), are met. -/
theorem witness2 :
    (∃ n : Nat, ∃ s : State, n < 8 ∧ s.tmr.timers.length = 8 ∧ ∃ c, ∃ q, ∃ o, (s.timer n).capEntry = some (c, q, o)) ∧
    (∃ n : Nat, ∃ s : State, n < 8 ∧ s.tmr.timers.length = 8 ∧ (s.timer n).capEntry = none) ∧
    (∃ n : Nat, ∃ s : State, n < 4 ∧ s.tmr.caps.length = 4) ∧
    (∃ n : Nat, ∃ s : State, n < 4 ∧ s.tmr.caps.length = 4 ∧ s.unheard (0x21 + n)) ∧
    (∃ p : Nat, ∃ t0 : Nat, ∃ s : State, p < 4 ∧ s.tmr.pins.length = 4 ∧ (s.pin p).pulseEnd = some t0 ∧ t0 ≤ s.now) := by
  refine ⟨?_, ?_, ?_, ?_, ?_⟩
  · exact ⟨(7), (on.modTmr fun x => { x with timers := x.timers.set 7 { capEntry := some (5, 6, true) } }), by decide +kernel, by decide +kernel, _, _, _, rfl⟩
  · exact ⟨(0), (on), by decide +kernel⟩
  · exact ⟨(0), (on), by decide +kernel⟩
  · exact ⟨(0), (on), by decide +kernel, by decide +kernel, holds (by unfold State.unheard; letI := @decSome; letI := @decEx; letI := @decPair; letI := @decLanes; letI := @decOthers; letI := @decRank; letI := @decLine; infer_instance) (by decide +kernel)⟩
  · exact ⟨(3), _, (on.modTmr fun x => { x with pins := x.pins.set 3 { level := true, pulseEnd := some 900000000000 } }), by decide +kernel, by decide +kernel, rfl, by decide +kernel⟩


end CaptureFifosKeepEdges

namespace EventsCollectInBatches
def gr (g : Nat) (x : EvcGroup) (s : State) : State := s.modEvc fun e => { e with groups := e.groups.set g x }

/-- The hypotheses of EventsCollectInBatches, clause by clause, are met. -/
theorem witness :
    (∃ g : Nat, ∃ src : Nat, ∃ s : State, g < 16 ∧ s.evc.groups.length = 16 ∧ sourceExists g src = true ∧ s.blockEnabled g src = true ∧ (s.evc.group g).srcEn.getLsbD src = true ∧ s.pdOn 6 = true ∧ ((s.evc.group g).hostMask ≠ 0 ∨ (s.evc.group g).coreMask ≠ 0) ∧ (∀ c, (s.evc.group g).collecting = some c → s.prevNs < (s.evc.group g).dueTime c)) ∧
    (∃ g : Nat, ∃ src : Nat, ∃ c : Batch, ∃ s : State, sourceExists g src = true ∧ s.blockEnabled g src = true ∧ (s.evc.group g).srcEn.getLsbD src = true ∧ s.pdOn 6 = true ∧ (s.evc.group g).collecting = some c ∧ (s.evc.group g).dueTime c ≤ s.prevNs) ∧
    (∃ g : Nat, ∃ src : Nat, ∃ s : State, ((s.evc.group g).srcEn.getLsbD src = false ∨ s.blockEnabled g src = false ∨ sourceExists g src = false ∨ (s.pdOn 6 = true ∧ (s.evc.group g).hostMask = 0 ∧ (s.evc.group g).coreMask = 0 ∧ (s.evc.group g).collecting = none))) ∧
    (∃ g : Nat, ∃ src : Nat, ∃ s : State, sourceExists g src = true ∧ s.blockEnabled g src = true ∧ (s.evc.group g).srcEn.getLsbD src = true ∧ s.pdOn 6 = false) ∧
    (∃ g : Nat, ∃ b : Batch, ∃ s : State, g < 16 ∧ s.evc.groups.length = 16 ∧ (s.evc.group g).collecting = some b) := by
  refine ⟨?_, ?_, ?_, ?_, ?_⟩
  · exact ⟨(0), (0), (gr 0 { srcEn := 0xFFFF, hostMask := 1 } on), by decide +kernel, by decide +kernel, by decide +kernel, by decide +kernel, by decide +kernel, by decide +kernel, by decide +kernel, holds (by letI := @decSome; letI := @decEx; letI := @decPair; letI := @decLanes; letI := @decOthers; letI := @decRank; letI := @decLine; infer_instance) (by decide +kernel)⟩
  · exact ⟨(0), (0), _, (gr 0 { srcEn := 0xFFFF, hostMask := 1, cntThr := 2, collecting := some { count := 1, bitmap := 2, tFirst := 3 } } on), by decide +kernel, by decide +kernel, by decide +kernel, by decide +kernel, rfl, by decide +kernel⟩
  · exact ⟨(0), (0), (on), by decide +kernel⟩
  · exact ⟨(0), (0), ({ gr 0 { srcEn := 0xFFFF, hostMask := 1 } on with psc := { powered := 0x3FBF } }), by decide +kernel⟩
  · exact ⟨(0), _, (gr 0 { srcEn := 0xFFFF, hostMask := 1, cntThr := 2, collecting := some { count := 1, bitmap := 2, tFirst := 3 } } on), by decide +kernel, by decide +kernel, rfl⟩


end EventsCollectInBatches

namespace DeliveriesGoToEligibleTargets
def gr (g : Nat) (x : EvcGroup) (s : State) : State := s.modEvc fun e => { e with groups := e.groups.set g x }
def bt : Batch := { count := 1, bitmap := 2, tFirst := 3, trigger := 7 }

/-- The hypotheses of DeliveriesGoToEligibleTargets, clause by clause, are met. -/
theorem witness :
    (∃ g : Nat, ∃ x : Nat, ∃ b : Batch, ∃ s : State, g < 16 ∧ s.evc.groups.length = 16 ∧ s.evc.targets.length = 6 ∧ s.pdOn 6 = true ∧ s.nextDue = some (g, b) ∧ s.chosen s.psc.hostSleep g b.avoid = some x ∧ 4 ≤ x) ∧
    (∃ g : Nat, ∃ x : Nat, ∃ b : Batch, ∃ s : State, g < 16 ∧ s.evc.groups.length = 16 ∧ s.evc.coreQ.length = 4 ∧ s.pdOn 6 = true ∧ s.nextDue = some (g, b) ∧ s.chosen s.psc.hostSleep g b.avoid = some x ∧ x < 4) ∧
    (∃ s : State, (s.pdOn 6 = false ∨ s.nextDue = none)) ∧
    (∃ s : State, ∃ g : Nat, ∃ x : Nat, ∃ avoid : Option Nat, s.chosen s.psc.hostSleep g avoid = some x ∧ avoid = some x ∧ ∃ y, y < 10 ∧ s.eligible s.psc.hostSleep g y = true) ∧
    (∃ s : State, ∃ g : Nat, ∃ b : Batch, s.nextDue = some (g, b) ∧ ∃ h, ∃ c, h < 16 ∧ c ∈ (s.evc.group h).due ∧ (s.chosen s.psc.hostSleep h c.avoid).isSome = true) := by
  refine ⟨?_, ?_, ?_, ?_, ?_⟩
  · exact ⟨(0), _, _, (gr 0 { srcEn := 0xFFFF, hostMask := 1, due := [bt] } on), by decide +kernel, by decide +kernel, by decide +kernel, by decide +kernel, rfl, rfl, by decide +kernel⟩
  · exact ⟨(15), _, _, ({ gr 15 { srcEn := 0xFFFF, coreMask := 0x3, due := [{ bt with retracted := true }] } on with psc := { hostSleep := 0x3F, powered := 0x3FFF } }), by decide +kernel, by decide +kernel, by decide +kernel, by decide +kernel, rfl, rfl, by decide +kernel⟩
  · exact ⟨(on), by decide +kernel⟩
  · exact ⟨(gr 0 { srcEn := 0xFFFF, hostMask := 1, due := [bt] } on), (0), _, (some 4), rfl, by decide +kernel, (4), by decide +kernel⟩
  · exact ⟨({ gr 15 { srcEn := 0xFFFF, coreMask := 0x3, due := [{ bt with retracted := true }] } on with psc := { hostSleep := 0x3F, powered := 0x3FFF } }), _, _, rfl, (15), ({ bt with retracted := true }), by decide +kernel⟩


end DeliveriesGoToEligibleTargets

namespace ClaimsAreMatchedBySequence
def tg (j : Nat) (x : HostTarget) (s : State) : State := s.modEvc fun e => { e with targets := e.targets.set j x }

/-- The hypotheses of ClaimsAreMatchedBySequence, clause by clause, are met. -/
theorem witness :
    (∃ j : Nat, ∃ d : HostDelivery, ∃ s : State, j < 6 ∧ s.evc.targets.length = 6 ∧ (s.evc.target j).dlv = some d) ∧
    (∃ j : Nat, ∃ s : State, j < 6 ∧ s.evc.targets.length = 6 ∧ (s.evc.target j).dlv = none) ∧
    (∃ r : Requester, ∃ j : Nat, ∃ s : State, j < 6 ∧ s.tbu.shadows.length = 6 ∧ (s.shadow r).dlvMap.length = 6) := by
  refine ⟨?_, ?_, ?_⟩
  · exact ⟨(0), _, (tg 0 { dlv := some { seq := 7, group := 3, batch := { count := 3, bitmap := 5 } } } on), by decide +kernel, by decide +kernel, rfl⟩
  · exact ⟨(0), (on), by decide +kernel⟩
  · exact ⟨(.spi), (0), (on), by decide +kernel⟩


end ClaimsAreMatchedBySequence

namespace RetractionWakeOutAndHostSleep
def gr (g : Nat) (x : EvcGroup) (s : State) : State := s.modEvc fun e => { e with groups := e.groups.set g x }
def tg (j : Nat) (x : HostTarget) (s : State) : State := s.modEvc fun e => { e with targets := e.targets.set j x }

/-- The hypotheses of RetractionWakeOutAndHostSleep, clause by clause (part 1), are met. -/
theorem witness1 :
    (∃ j : Nat, ∃ d : HostDelivery, ∃ s : State, j < 6 ∧ s.evc.targets.length = 6 ∧ s.evc.groups.length = 16 ∧ d.group < 16 ∧ (s.evc.target j).dlv = some d ∧ d.madeNs + fld s.evc.ctrl 0 16 * 1000 ≤ s.now ∧ (∀ c, (s.evc.group d.group).collecting = some c → s.prevNs < (s.evc.group d.group).dueTime c)) ∧
    (∃ j : Nat, ∃ s : State, (∀ d, (s.evc.target j).dlv = some d → s.now < d.madeNs + fld s.evc.ctrl 0 16 * 1000)) ∧
    (∃ g : Nat, ∃ s : State, g < 16 ∧ s.evc.wakeLast.length = 16 ∧ (s.evc.group g).due ≠ [] ∧ s.noneAwake g = true ∧ (∀ t0, s.evc.wakeLast.getD g none = some t0 → fld s.evc.ctrl 24 8 ≠ 0 ∧ t0 + fld s.evc.ctrl 24 8 * 10000000 ≤ s.now)) ∧
    (∃ g : Nat, ∃ s : State, ((s.evc.group g).due = [] ∨ s.noneAwake g = false)) ∧
    (∃ t0 : Nat, ∃ s : State, s.evc.wakeOutEnd = some t0 ∧ t0 ≤ s.now) := by
  refine ⟨?_, ?_, ?_, ?_, ?_⟩
  · exact ⟨(0), ({ seq := 7, group := 3, batch := { count := 3, bitmap := 5 }, madeNs := 5 }), (tg 0 { dlv := some { seq := 7, group := 3, batch := { count := 3, bitmap := 5 }, madeNs := 5 } } (gr 3 { hostMask := 0x3F } on)), by decide +kernel, by decide +kernel, by decide +kernel, by decide +kernel, by decide +kernel, by decide +kernel, holds (by letI := @decSome; letI := @decEx; letI := @decPair; letI := @decLanes; letI := @decOthers; letI := @decRank; letI := @decLine; infer_instance) (by decide +kernel)⟩
  · exact ⟨(0), (on), holds (by letI := @decSome; letI := @decEx; letI := @decPair; letI := @decLanes; letI := @decOthers; letI := @decRank; letI := @decLine; infer_instance) (by decide +kernel)⟩
  · exact ⟨(0), (gr 0 { hostMask := 1, due := [{}] } { on with psc := { hostSleep := 0x3F } }), by decide +kernel, by decide +kernel, by decide +kernel, by decide +kernel, holds (by letI := @decSome; letI := @decEx; letI := @decPair; letI := @decLanes; letI := @decOthers; letI := @decRank; letI := @decLine; infer_instance) (by decide +kernel)⟩
  · exact ⟨(0), (on), by decide +kernel⟩
  · exact ⟨_, ({ on with evc := { wakeOutEnd := some 5000, flushGroups := 0 } }), rfl, by decide +kernel⟩

/-- The hypotheses of RetractionWakeOutAndHostSleep, clause by clause (part 2), are met. -/
theorem witness2 :
    (∃ w : Word, ∃ s : State, s.pdOn 6 = true ∧ BitVec.ofNat 6 w.toNat &&& ~~~s.psc.hostSleep = 0) := by
  exact ⟨(0), (on), by decide +kernel⟩


end RetractionWakeOutAndHostSleep

namespace WindowConfigurationRefusals
def wn (l : List (Nat × HostWindow)) (s : State) : State := l.foldl (fun s x => s.modFab fun f => { f with windows := f.windows.set x.1 x.2 }) s

/-- The hypotheses of WindowConfigurationRefusals, clause by clause, are met. -/
theorem witness :
    (∃ n : Nat, ∃ w : Word, ∃ s : State, n < 16 ∧ s.fab.windows.length = 16 ∧ ((w.getLsbD 31 = true ∧ ∃ k : Nat, k < 16 ∧ k ≠ n ∧ (s.win k).en = true ∧ (s.win k).basePg ≤ fld w 8 8 + fld w 20 4 ∧ fld w 8 8 ≤ (s.win k).basePg + (s.win k).sizePg) ∨ 255 < fld w 8 8 + fld w 20 4 ∨ (s.win n).busy ≠ 0 ∨ s.winHeldPages (s.win n) ≠ 0)) ∧
    (∃ n : Nat, ∃ w : Word, ∃ s : State, n < 16 ∧ s.fab.windows.length = 16 ∧ (w.getLsbD 31 = false ∨ ∀ k : Nat, k < 16 → k ≠ n → (s.win k).en = true → fld w 8 8 + fld w 20 4 < (s.win k).basePg ∨ (s.win k).basePg + (s.win k).sizePg < fld w 8 8) ∧ fld w 8 8 + fld w 20 4 ≤ 255 ∧ (s.win n).busy = 0 ∧ s.winHeldPages (s.win n) = 0) := by
  refine ⟨?_, ?_⟩
  · exact ⟨(0), (0xFCF00000), (wn [(3, { cfg := 0xFCF00000 }), (4, { cfg := 0xFCF03000 })] on), by decide +kernel, by decide +kernel, holds (by letI := @decSome; letI := @decEx; letI := @decPair; letI := @decLanes; letI := @decOthers; letI := @decRank; letI := @decLine; infer_instance) (by decide +kernel)⟩
  · exact ⟨(0), (0xFCF00000), (on), by decide +kernel⟩


end WindowConfigurationRefusals

namespace ApertureAccessIsJudged
def wn (l : List (Nat × HostWindow)) (s : State) : State := l.foldl (fun s x => s.modFab fun f => { f with windows := f.windows.set x.1 x.2 }) s
def hd (p ch : Nat) (s : State) : State := s.modFab fun f => { f with heldPages := f.heldPages ++ [(p, ch)] }

/-- The hypotheses of ApertureAccessIsJudged, clause by clause (part 1), are met. -/
theorem witness1 :
    (∃ off : Nat, ∃ a : Nat, ∃ s : State, off < 0x100000 ∧ a = off / 4 * 4 ∧ ∃ x : HostWindow, s.physHeld (apertureBase + a) = false ∧ s.fab.windows.find? (fun y => y.covers (a / 4096)) = some x ∧ x.hostR = true ∧ s.poisoned (apertureBase + a) 4 = false) ∧
    (∃ off : Nat, ∃ a : Nat, ∃ s : State, off < 0x100000 ∧ a = off / 4 * 4 ∧ ∃ x : HostWindow, s.physHeld (apertureBase + a) = false ∧ s.fab.windows.find? (fun y => y.covers (a / 4096)) = some x ∧ x.hostR = true ∧ s.poisoned (apertureBase + a) 4 = true) ∧
    (∃ off : Nat, ∃ a : Nat, ∃ s : State, off < 0x100000 ∧ a = off / 4 * 4 ∧ ∃ x : HostWindow, s.physHeld (apertureBase + a) = false ∧ s.fab.windows.find? (fun y => y.covers (a / 4096)) = some x ∧ x.hostR = false) ∧
    (∃ off : Nat, ∃ a : Nat, ∃ s : State, off < 0x100000 ∧ a = off / 4 * 4 ∧ ∃ x : HostWindow, s.physHeld (apertureBase + a) = false ∧ s.fab.windows.find? (fun y => y.covers (a / 4096)) = some x ∧ x.hostW = true ∧ Memory.wf s.mem = true) ∧
    (∃ off : Nat, ∃ a : Nat, ∃ s : State, off < 0x100000 ∧ a = off / 4 * 4 ∧ ∃ x : HostWindow, s.physHeld (apertureBase + a) = false ∧ s.fab.windows.find? (fun y => y.covers (a / 4096)) = some x ∧ x.hostW = false) := by
  refine ⟨?_, ?_, ?_, ?_, ?_⟩
  · exact ⟨(0), (0), (wn [(3, { cfg := 0xFCF00000 })] { on with mem := [(0x700000, 1), (0x700004, 2), (0x700007, 5), (0x700008, 5)] }), by decide +kernel, by decide +kernel, _, by decide +kernel, rfl, by decide +kernel⟩
  · exact ⟨(0), (0), ((wn [(3, { cfg := 0xFCF00000 })] on).modFab fun f => { f with poison := [0xE0000] }), by decide +kernel, by decide +kernel, _, by decide +kernel, rfl, by decide +kernel⟩
  · exact ⟨(0), (0), (wn [(0, { cfg := 0xE0F00000 })] on), by decide +kernel, by decide +kernel, _, by decide +kernel, rfl, by decide +kernel⟩
  · exact ⟨(0), (0), ((wn [(3, { cfg := 0xFCF00000 })] on).modFab fun f => { f with poison := [0xE0000] }), by decide +kernel, by decide +kernel, _, by decide +kernel, rfl, by decide +kernel⟩
  · exact ⟨(0), (0), (wn [(0, { cfg := 0xE0F00000 })] on), by decide +kernel, by decide +kernel, _, by decide +kernel, rfl, by decide +kernel⟩

/-- The hypotheses of ApertureAccessIsJudged, clause by clause (part 2), are met. -/
theorem witness2 :
    (∃ off : Nat, ∃ a : Nat, ∃ s : State, off < 0x100000 ∧ a = off / 4 * 4 ∧ s.physHeld (apertureBase + a) = false ∧ s.fab.windows.find? (fun y => y.covers (a / 4096)) = none) ∧
    (∃ off : Nat, ∃ a : Nat, ∃ s : State, off < 0x100000 ∧ a = off / 4 * 4 ∧ s.physHeld (apertureBase + a) = true) := by
  refine ⟨?_, ?_⟩
  · exact ⟨(0), (0), (on), by decide +kernel⟩
  · exact ⟨(0), (0), (hd 0x700 3 (wn [(3, { cfg := 0xFCF00000 })] on)), by decide +kernel⟩


end ApertureAccessIsJudged

namespace ArbitrationServesEveryRequester
def fb (f : Fabric → Fabric) (s : State) : State := s.modFab f

/-- The hypotheses of ArbitrationServesEveryRequester, clause by clause, are met. -/
theorem witness :
    (∃ s : State, s.fab.deadline.getD 0 false = false ∧ s.fab.deadline.getD 1 false = false) ∧
    (∃ k : Nat, ∃ s : State, k < 20 ∧ s.fab.deadline.length = 2 ∧ s.fab.flagged k = false) ∧
    (∃ k : Nat, ∃ s : State, s.fab.turn s.fab.lastDeadline = some k) ∧
    (∃ s : State, s.fab.deadline.length = 2 ∧ s.fab.active.length = 20) := by
  refine ⟨?_, ?_, ?_, ?_⟩
  · exact ⟨(on), by decide +kernel⟩
  · exact ⟨(0), (on), by decide +kernel⟩
  · exact ⟨_, (fb (fun f => { f with deadline := [true, false], round := [11, 11, 11] }) on), rfl⟩
  · exact ⟨(on), by decide +kernel⟩


end ArbitrationServesEveryRequester

namespace FaultsAreQueuedAndResolved
def fb (f : Fabric → Fabric) (s : State) : State := s.modFab f
def rc : FaultRec := { requester := 9, kind := 1, access := 0, sub := 1, vaddr := 0x5123, dueNs := 5 }
def rm : FaultRec := { requester := 0x0E, kind := 3, access := 1, vaddr := 0x5123, dueNs := 5 }

/-- The hypotheses of FaultsAreQueuedAndResolved, clause by clause (part 1), are met. -/
theorem witness1 :
    (∃ req : Nat, ∃ sub : Nat, ∃ access : Nat, ∃ ref : Nat, ∃ k : Nat, ∃ va : Word, ∃ hold : Bool, ∃ s : State, 4 ≤ req ∧ req ≤ 0x0E ∧ s.faultKind req sub access ref va.toNat hold = some k ∧ s.faulted req sub ref = false ∧ (s.fab.faults.filter fun x => x.queued && x.owner == ownerRole req sub).length < 64 ∧ s.fab.reqCounts.length = 20) ∧
    (∃ req : Nat, ∃ sub : Nat, ∃ access : Nat, ∃ ref : Nat, ∃ va : Word, ∃ hold : Bool, ∃ s : State, s.faultKind req sub access ref va.toNat hold = none) ∧
    (∃ req : Nat, ∃ l1 : Word, ∃ l2 : Word, ∃ r : FaultRec, ∃ s : State, 4 ≤ req ∧ req ≤ 0x0E ∧ s.nextFault req = some r ∧ s.rolePlaced r.owner = true ∧ s.tablesFit req l1 = true ∧ (s.mapPage req r.vaddr l1 l2).faultKind req r.sub r.access r.descRef r.vaddr.toNat (r.kind == kindNotHoldable) = none) ∧
    (∃ req : Nat, ∃ l1 : Word, ∃ l2 : Word, ∃ r : FaultRec, ∃ s : State, s.nextFault req = some r ∧ ((s.mapPage req r.vaddr l1 l2).faultKind req r.sub r.access r.descRef r.vaddr.toNat (r.kind == kindNotHoldable)).isSome = true) ∧
    (∃ req : Nat, ∃ r : FaultRec, ∃ s : State, 4 ≤ req ∧ req ≤ 9 ∧ s.nextFault req = some r ∧ s.rolePlaced r.owner = true ∧ req - 4 < s.net.stats.length) := by
  refine ⟨?_, ?_, ?_, ?_, ?_⟩
  · exact ⟨(4), 0, 0, 0, _, (0), (true), (on), by decide +kernel, by decide +kernel, rfl, by decide +kernel⟩
  · exact ⟨(4), 0, 0, 0, (0x5123), (true), (fb (fun f => { f with tables := f.tables.map fun _ => 0x1000 }) { on with mem := [(0x1000, 0x11), (0x1001, 0x20), (0x2014, 0x0F), (0x2015, 0x30)] }), by decide +kernel⟩
  · exact ⟨(9), (0x2011), (0x5123), _, (fb (fun f => { f with faults := [rc] }) on), by decide +kernel, by decide +kernel, rfl, by decide +kernel⟩
  · exact ⟨(9), (0), (0), _, (fb (fun f => { f with faults := [rc] }) on), rfl, by decide +kernel⟩
  · exact ⟨(9), _, (fb (fun f => { f with faults := [rc] }) on), by decide +kernel, by decide +kernel, rfl, by decide +kernel⟩

/-- The hypotheses of FaultsAreQueuedAndResolved, clause by clause (part 2), are met. -/
theorem witness2 :
    (∃ r : FaultRec, ∃ s : State, r.requester = 0x0E ∧ s.fab.faults.find? (fun x => x.queued && decide (x.dueNs ≤ s.now) && s.rolePlaced x.owner) = some r) ∧
    (∃ s : State, (∀ x, x ∈ s.fab.faults → x.queued = false ∨ s.now < x.dueNs ∨ s.rolePlaced x.owner = false)) := by
  refine ⟨?_, ?_⟩
  · exact ⟨(rm), (fb (fun f => { f with faults := [rm], tables := f.tables.map fun _ => 0x1000 }) on), by decide +kernel⟩
  · exact ⟨(on), holds (by letI := @decSome; letI := @decEx; letI := @decPair; letI := @decLanes; letI := @decOthers; letI := @decRank; letI := @decLine; infer_instance) (by decide +kernel)⟩


end FaultsAreQueuedAndResolved

namespace MemoryErrorsAreContained
/-- The hypotheses of MemoryErrorsAreContained, clause by clause (part 1), are met. -/
theorem witness1 :
    (∃ a : Nat, ∃ req : Nat, ∃ s : State, a < 0x800000 ∧ s.pdOn 6 = true ∧ 0x12 ≤ req) ∧
    (∃ line : MramLine, ∃ s : State, s.pdOn 6 = true ∧ (∀ b, line ≠ .firmware b ∧ line ≠ .meton b ∧ line ≠ .moraine b)) ∧
    (∃ b : Nat, ∃ s : State, s.pdOn 6 = true ∧ b < s.boot.fwBanks.length) ∧
    (∃ b : Nat, ∃ s : State, s.pdOn 6 = true ∧ b < s.boot.metonBanks.length) ∧
    (∃ s : State, s.pdOn 6 = true) := by
  refine ⟨?_, ?_, ?_, ?_, ?_⟩
  · exact ⟨(0), (0x13), (on), by decide +kernel⟩
  · exact ⟨((.counters)), (on), by decide +kernel, holds (by letI := @decSome; letI := @decEx; letI := @decPair; letI := @decLanes; letI := @decOthers; letI := @decRank; letI := @decLine; infer_instance) (by decide +kernel)⟩
  · exact ⟨(0), (on), by decide +kernel⟩
  · exact ⟨(0), (on), by decide +kernel⟩
  · exact ⟨(on), by decide +kernel⟩

/-- The hypotheses of MemoryErrorsAreContained, clause by clause (part 2), are met. -/
theorem witness2 :
    (∃ s : State, s.pdOn 6 = false) ∧
    (∃ s : State, s.pdOn 6 = false) := by
  refine ⟨?_, ?_⟩
  · exact ⟨({ on with psc := { powered := 0x3FBF } }), by decide +kernel⟩
  · exact ⟨({ on with psc := { powered := 0x3FBF } }), by decide +kernel⟩


end MemoryErrorsAreContained

namespace CorePairsLeaveAndReturn
def co (f : Cores → Cores) (s : State) : State := s.modCores f

/-- The hypotheses of CorePairsLeaveAndReturn, clause by clause (part 1), are met. -/
theorem witness1 :
    (∃ p : Nat, ∃ s : State, p < 4 ∧ s.cores.pairs.length = 4 ∧ s.boot.phase = .running ∧ s.pdOn (1 + p) = true ∧ (∀ q : Nat, q < 4 → s.pairUp q = true)) ∧
    (∃ p : Nat, ∃ s : State, (s.pairUp p = false ∨ s.pdOn (1 + p) = false ∨ s.boot.phase ≠ .running)) ∧
    (∃ r : Role, ∃ rest : List Role, ∃ s : State, s.cores.migrating = r :: rest ∧ s.cores.place.length = 4) ∧
    (∃ s : State, s.cores.migrating = []) ∧
    (∃ p : Nat, ∃ s : State, p < s.cores.pairs.length ∧ (s.cores.pairs.getD p {}).testing = true) := by
  refine ⟨?_, ?_, ?_, ?_, ?_⟩
  · exact ⟨(0), (on), by decide +kernel⟩
  · exact ⟨(0), (co (fun c => { c with migrating := [.radio], pairs := c.pairs.set 0 { inService := false } }) on), by decide +kernel⟩
  · exact ⟨_, _, (co (fun c => { c with migrating := [.decision, .radio], pairs := c.pairs.set 2 { inService := false } }) on), rfl, by decide +kernel⟩
  · exact ⟨(on), by decide +kernel⟩
  · exact ⟨(1), (co (fun c => { c with pairs := c.pairs.set 1 { inService := false, testing := true } }) on), by decide +kernel⟩

/-- The hypotheses of CorePairsLeaveAndReturn, clause by clause (part 2), are met. -/
theorem witness2 :
    (∃ r : Role, ∃ s : State, s.rolesRun = true ∧ s.roleAway r = true ∧ s.roleIdle r = true ∧ (r = .decision ∨ s.roleAway .decision = false)) ∧
    (∃ p : Nat, ∃ s : State, p < s.cores.pairs.length ∧ (s.cores.pairs.getD p {}).retired = true ∧ (s.cores.pairs.getD p {}).testing = false ∧ s.boot.phase = .running ∧ s.retirementOver (s.cores.pairs.getD p {}) = true) := by
  refine ⟨?_, ?_⟩
  · exact ⟨(.radio), (co (fun c => { c with place := [1, 1, 2, 3] }) on), by decide +kernel⟩
  · exact ⟨(1), (co (fun c => { c with pairs := c.pairs.set 1 { inService := false, retired := true } }) on), by decide +kernel⟩


end CorePairsLeaveAndReturn

namespace RegisterWritesDoTheirRows
/-- The hypotheses of RegisterWritesDoTheirRows, clause by clause (part 1), are met. -/
theorem witness1 :
    (∃ r : Requester, ∃ a : Nat, ∃ s : State, (a % 4 ≠ 0 ∨ s.reaches r = false ∨ s.pdOn (addrDomain a) = false)) ∧
    (∃ r : Requester, ∃ s : State, s.reaches r = true ∧ s.pdOn 0 = true ∧ ∃ n, n < 8 ∧ s.tmr.timers.length = 8) ∧
    (∃ r : Requester, ∃ s : State, s.reaches r = true ∧ s.pdOn 0 = true ∧ ∃ m, m < 4) ∧
    (∃ r : Requester, ∃ s : State, s.reaches r = true ∧ s.pdOn 6 = true ∧ ∃ n, n < 8) ∧
    (∃ r : Requester, ∃ s : State, s.reaches r = true ∧ s.pdOn 6 = true ∧ ∃ n, ∃ k, n < 8 ∧ k < 64) := by
  refine ⟨?_, ?_, ?_, ?_, ?_⟩
  · exact ⟨((.spi)), (0), ({ on with psc := { powered := 0x3FBE } }), by decide +kernel⟩
  · exact ⟨((.spi)), (on), by decide +kernel, by decide +kernel, (0), by decide +kernel⟩
  · exact ⟨((.spi)), (on), by decide +kernel, by decide +kernel, (0), by decide +kernel⟩
  · exact ⟨((.spi)), (on), by decide +kernel, by decide +kernel, (0), by decide +kernel⟩
  · exact ⟨((.spi)), (on), by decide +kernel, by decide +kernel, (0), (0), by decide +kernel⟩

/-- The hypotheses of RegisterWritesDoTheirRows, clause by clause (part 2), are met. -/
theorem witness2 :
    (∃ r : Requester, ∃ s : State, s.reaches r = true ∧ s.pdOn 6 = true ∧ ∃ j, j < 6) ∧
    (∃ r : Requester, ∃ s : State, s.reaches r = true ∧ s.pdOn 6 = true ∧ ∃ n, n < 16) ∧
    (∃ r : Requester, ∃ s : State, s.reaches r = true ∧ s.pdOn 6 = true ∧ ∃ off, off < 0x100000 ∧ off % 4 = 0) := by
  refine ⟨?_, ?_, ?_⟩
  · exact ⟨((.spi)), (on), by decide +kernel, by decide +kernel, (0), by decide +kernel⟩
  · exact ⟨((.spi)), (on), by decide +kernel, by decide +kernel, (0), by decide +kernel⟩
  · exact ⟨((.spi)), (on), by decide +kernel, by decide +kernel, (0), by decide +kernel⟩


end RegisterWritesDoTheirRows

namespace SpiFramesReachTheRegisters
/-- The hypotheses of SpiFramesReachTheRegisters, clause by clause (part 1), are met. -/
theorem witness1 :
    (∃ a : Nat, ∃ s : State, s.hostServed = true ∧ s.mbx.devAddr < 256 ∧ a < 0x200000 ∧ a % 4 = 0 ∧ s.pdOn (addrDomain a) = true) ∧
    (∃ a : Nat, ∃ s : State, s.hostServed = true ∧ s.mbx.devAddr < 256 ∧ a < 0x10000 ∧ a % 4 = 0 ∧ s.pdOn 0 = true) ∧
    (∃ bs : List Byte, ∃ s : State, s.spiMine 0x02 bs = true ∧ 7 ≤ bs.length ∧ bs.length % 4 = 3 ∧ crcOk bs = false) ∧
    (∃ a : Nat, ∃ s : State, s.hostServed = true ∧ s.mbx.devAddr < 256 ∧ a < 0x200000 ∧ a % 4 = 0 ∧ s.pdOn (addrDomain a) = false) ∧
    (∃ bs : List Byte, ∃ s : State, (s.spiMine 0x02 bs = false ∨ bs.length < 7 ∨ bs.length % 4 ≠ 3)) := by
  refine ⟨?_, ?_, ?_, ?_, ?_⟩
  · exact ⟨(0), (on), by decide +kernel⟩
  · exact ⟨(0), (on), by decide +kernel⟩
  · exact ⟨([2, 1, 0, 0, 0x20, 1, 2, 3, 4, 0, 0]), (on), by decide +kernel⟩
  · exact ⟨(0), ({ on with psc := { powered := 0x3FBE } }), by decide +kernel⟩
  · exact ⟨([]), (on), by decide +kernel⟩

/-- The hypotheses of SpiFramesReachTheRegisters, clause by clause (part 2), are met. -/
theorem witness2 :
    (∃ bs : List Byte, ∃ s : State, (s.spiMine 0x03 bs = false ∨ bs.length < 8 + s.mbx.rdWait)) := by
  exact ⟨([]), (on), by decide +kernel⟩


end SpiFramesReachTheRegisters

namespace WakeFramesAndManagementRequests
def wk (s : State) : State := { s with psc := { s.psc with state := .permafrost, powered := 0x0001, wakeEn := 1, wakeCount := 3 }, crypt := { s.crypt with wakeKey := zeros 32 } }
def fr (bs : List Byte) : List Byte := bs ++ beBytes 2 (crc16 bs)
def good : List Byte := fr ([0xA5, 1, 0, 0, 0] ++ beBytes 16 (3 * 2^96 + 9 * 2^64) ++ (wk on).wakeTag 1 [3, 9, 0, 0])
def bad : List Byte := fr ([0xA5, 1, 0, 0, 0] ++ beBytes 16 (3 * 2^96 + 9 * 2^64) ++ zeros 8)
def rd (a : Nat) : List Byte := leBytes 2 0x0D01 ++ leBytes 2 77 ++ [3, 1, 0, 0] ++ leBytes 4 a
def op (s : State) : State := img [(recNetwork, fieldNo 4 3, 0), (recNetwork, fieldNo 5 3, 0)] s

/-- The frame's tag. -/
theorem good_tag : (wakeFields good).2 = (wk on).wakeTag 1 [3, 9, 0, 0] := slice_mid (by decide +kernel) (by decide +kernel)

/-- The frame's words. -/
theorem good_words : (wakeFields good).1 = [3, 9, 0, 0] := by decide +kernel

/-- The frame verifies. -/
theorem good_ok : (wk on).wakeFrameOk (wk on).mbx.devAddr (wakeFields good).1 (wakeFields good).2 = true := by
  rw [good_tag, good_words, show (wk on).mbx.devAddr = 1 from rfl, State.wakeFrameOk, beq_self_eq_true]; decide +kernel

/-- The hypotheses of WakeFramesAndManagementRequests, clause by clause (part 1), are met. -/
theorem witness1 :
    (∃ bs : List Byte, ∃ s : State, s.psc.state = .permafrost ∧ s.pdOn 5 = false ∧ bs.length = 31 ∧ uAt bs 0 1 = 0xA5 ∧ uAt bs 1 1 = s.mbx.devAddr ∧ beNat (slice bs 2 3) = 0 ∧ crcOk bs = true ∧ s.psc.entry = none ∧ s.wakeEnabled 0x00 = true ∧ s.psc.waking = none ∧ (wakeFields bs).1.getD 2 0 = 0 ∧ (wakeFields bs).1.getD 3 0 = 0 ∧ s.wakeFrameOk s.mbx.devAddr (wakeFields bs).1 (wakeFields bs).2 = true) ∧
    (∃ bs : List Byte, ∃ s : State, s.psc.state = .permafrost ∧ s.pdOn 5 = false ∧ bs.length = 31 ∧ uAt bs 0 1 = 0xA5 ∧ uAt bs 1 1 = s.mbx.devAddr ∧ beNat (slice bs 2 3) = 0 ∧ crcOk bs = true ∧ s.wakeFrameOk s.mbx.devAddr (wakeFields bs).1 (wakeFields bs).2 = false) ∧
    (∃ bs : List Byte, bs.length ≠ 31) ∧
    (∃ port : Nat, ∃ pf : Bool, ∃ p : List Byte, ∃ s : State, port < 2 ∧ s.mbx.ready = true ∧ s.portOn port = true ∧ s.takes port pf = true ∧ s.net.mgmtOff.getD port false = false ∧ mgmtWellFormed p = false) ∧
    (∃ port : Nat, ∃ addr : Nat, ∃ sp : Nat, ∃ pf : Bool, ∃ p : List Byte, ∃ k : KeptReply, ∃ s : State, port < 2 ∧ s.mbx.ready = true ∧ s.portOn port = true ∧ s.psc.state = .run ∧ s.psc.entry = none ∧ s.takes port pf = true ∧ s.net.mgmtOff.getD port false = false ∧ mgmtWellFormed p = true ∧ s.mbx.mgmtQueue < 32 ∧ s.keptFor addr sp (uAt p 2 2) = some k) := by
  refine ⟨?_, ?_, ?_, ?_, ?_⟩
  · exact ⟨good, wk on, by decide +kernel, by decide +kernel, by decide +kernel, by decide +kernel, by decide +kernel, by decide +kernel, crcOk_crc _, by decide +kernel, by decide +kernel, by decide +kernel, by decide +kernel, by decide +kernel, good_ok⟩
  · exact ⟨(bad), ({ wk on with psc := { (wk on).psc with wakeCount := 4 } }), by decide +kernel⟩
  · exact ⟨([]), by decide +kernel⟩
  · exact ⟨(0), (false), (good), (op (on)), by decide +kernel⟩
  · exact ⟨(0), (0), (1), (false), (rd 0x40), _, (op ({ on with mbx := { on.mbx with kept := [{ addr := 0, port := 1, reqSeq := 77, reply := [1, 2, 3], madeNs := 999999999999 }] } })), by decide +kernel, by decide +kernel, by decide +kernel, by decide +kernel, by decide +kernel, by decide +kernel, by decide +kernel, by decide +kernel, by decide +kernel, rfl⟩

/-- The hypotheses of WakeFramesAndManagementRequests, clause by clause (part 2), are met. -/
theorem witness2 :
    (∃ port : Nat, ∃ addr : Nat, ∃ sp : Nat, ∃ a : Nat, ∃ pf : Bool, ∃ p : List Byte, ∃ s : State, port < 2 ∧ s.mbx.ready = true ∧ s.portOn port = true ∧ s.psc.state = .run ∧ s.psc.entry = none ∧ s.pdOn 0 = true ∧ s.takes port pf = true ∧ s.net.mgmtOff.getD port false = false ∧ mgmtWellFormed p = true ∧ s.mbx.mgmtQueue < 32 ∧ s.keptFor addr sp (uAt p 2 2) = none ∧ uAt p 4 1 = 3 ∧ uAt p 5 1 = 1 ∧ uAt p 8 4 = a ∧ a < 0x10000 ∧ a % 4 = 0) ∧
    (∃ port : Nat, ∃ s : State, s.phyOn port = false) := by
  refine ⟨?_, ?_⟩
  · exact ⟨(0), (0), (0), (0), (false), (rd 0), (op (on)), by decide +kernel⟩
  · exact ⟨(0), (wk on), by decide +kernel⟩


end WakeFramesAndManagementRequests

namespace PartnerTableCommands
def tb (l : List (Nat × PartRec)) (s : State) : State := s.modParts fun p => { p with table := l }
def key1 : PartRec := { identity := 0x55, kind := 1, role := 0x10, state := .enrolled, zones := 3, releaseOk := true }
def keyF : PartRec := { key1 with failCount := 3, decayRefNs := 100000000000, lastFailNs := 100000000000, updateSeq := 0xFFFF }
def modu : PartRec := { identity := 0x66, kind := 2, role := 0x20, state := .absent, attach := 0x12 }
def cand : PartRec := { identity := 0x77, kind := 1, state := .candidate, lastSeenNs := 999999999999, seenEpoch := 1 }

/-- The hypotheses of PartnerTableCommands, clause by clause, are met. -/
theorem witness :
    (∃ mb : Nat, ∃ i : Nat, ∃ id : Nat, ∃ r : PartRec, ∃ s : State, id = uAt (s.box mb).payload 0 8 ∧ s.recAt id = some (i, r) ∧ (∀ q, q ∈ s.parts.table → q.1 = i → q.2 = r) ∧ Takes s mb 0x0308) ∧
    (∃ mb : Nat, ∃ i : Nat, ∃ id : Nat, ∃ r : PartRec, ∃ s : State, id = uAt (s.box mb).payload 0 8 ∧ s.recAt id = some (i, r) ∧ (∀ q, q ∈ s.parts.table → q.1 = i → q.2 = r) ∧ s.pop.running = none ∧ Takes s mb 0x0305) ∧
    (∃ mb : Nat, ∃ i : Nat, ∃ id : Nat, ∃ r : PartRec, ∃ s : State, id = uAt (s.box mb).payload 0 8 ∧ s.recAt id = some (i, r) ∧ (∀ q, q ∈ s.parts.table → q.1 = i → q.2 = r) ∧ s.pop.running = none ∧ Takes s mb 0x0306) ∧
    (∃ mb : Nat, ∃ i : Nat, ∃ id : Nat, ∃ r : PartRec, ∃ s : State, id = uAt (s.box mb).payload 0 8 ∧ s.recAt id = some (i, r) ∧ (∀ q, q ∈ s.parts.table → q.1 = i → q.2 = r) ∧ s.pop.running = none ∧ Takes s mb 0x0307) ∧
    (∃ mb : Nat, ∃ i : Nat, ∃ id : Nat, ∃ r : PartRec, ∃ s : State, id = uAt (s.box mb).payload 0 8 ∧ s.recAt id = some (i, r) ∧ (∀ q, q ∈ s.parts.table → q.1 = i → q.2 = r) ∧ r.removed = false ∧ Takes s mb 0x0303) := by
  refine ⟨?_, ?_, ?_, ?_, ?_⟩
  · exact ⟨(0), _, _, _, (put 0 0x0308 (leBytes 8 0x55) (tb [(3, key1)] on)), rfl, rfl, holds (by letI := @decSome; letI := @decEx; letI := @decPair; letI := @decLanes; letI := @decOthers; letI := @decRank; letI := @decLine; infer_instance) (by decide +kernel), holds (by unfold Takes Started; infer_instance) (by decide +kernel)⟩
  · exact ⟨(0), _, _, _, (put 0 0x0305 (leBytes 8 0x55 ++ [3, 0, 0x0F, 0x0F, 0, 0, 0, 0]) (tb [(3, key1)] on)), rfl, rfl, holds (by letI := @decSome; letI := @decEx; letI := @decPair; letI := @decLanes; letI := @decOthers; letI := @decRank; letI := @decLine; infer_instance) (by decide +kernel), by decide +kernel, holds (by unfold Takes Started; infer_instance) (by decide +kernel)⟩
  · exact ⟨(0), _, _, _, (put 0 0x0306 (leBytes 8 0x55) (tb [(0, cand), (3, keyF), (7, modu)] on)), rfl, rfl, holds (by letI := @decSome; letI := @decEx; letI := @decPair; letI := @decLanes; letI := @decOthers; letI := @decRank; letI := @decLine; infer_instance) (by decide +kernel), by decide +kernel, holds (by unfold Takes Started; infer_instance) (by decide +kernel)⟩
  · exact ⟨(0), _, _, _, (put 0 0x0307 (leBytes 8 0x55) (tb [(0, cand), (3, keyF), (7, modu)] on)), rfl, rfl, holds (by letI := @decSome; letI := @decEx; letI := @decPair; letI := @decLanes; letI := @decOthers; letI := @decRank; letI := @decLine; infer_instance) (by decide +kernel), by decide +kernel, holds (by unfold Takes Started; infer_instance) (by decide +kernel)⟩
  · exact ⟨(0), _, _, _, (put 0 0x0303 (leBytes 8 0x55) (tb [(0, cand), (3, keyF), (7, modu)] on)), rfl, rfl, holds (by letI := @decSome; letI := @decEx; letI := @decPair; letI := @decLanes; letI := @decOthers; letI := @decRank; letI := @decLine; infer_instance) (by decide +kernel), by decide +kernel, holds (by unfold Takes Started; infer_instance) (by decide +kernel)⟩


end PartnerTableCommands

namespace PartnerListUnlockAndEnrol
def winOn (s : State) : State := s.modFab fun f => { f with windows := f.windows.set 0 { cfg := 0xFCF00000, busy := 1 } }
def tb (l : List (Nat × PartRec)) (s : State) : State := s.modParts fun p => { p with table := l }
def svc (s : State) : State := s.modParts fun p => { p with service := some (s.now, s.tbu.epoch) }
def key1 : PartRec := { identity := 0x55, kind := 1, role := 0x10, state := .enrolled, zones := 3, releaseOk := true }
def keyF : PartRec := { key1 with failCount := 3, decayRefNs := 100000000000, lastFailNs := 100000000000, updateSeq := 0xFFFF }
def modu : PartRec := { identity := 0x66, kind := 2, role := 0x20, state := .absent, attach := 0x12 }
def cand : PartRec := { identity := 0x77, kind := 1, state := .candidate, lastSeenNs := 999999999999, seenEpoch := 1 }
def seg (s : State) : State := img [(recPartners, 1, 1), (recPartners, 2, 1)] s

/-- The hypotheses of PartnerListUnlockAndEnrol, clause by clause (part 1), are met. -/
theorem witness1 :
    (∃ mb : Nat, ∃ p : List Byte, ∃ s : State, p = (s.box mb).payload ∧ Takes s mb 0x0304 ∧ (s.box mb).hasWindow = true) ∧
    (∃ mb : Nat, ∃ a : Nat, ∃ s : State, Takes s mb 0x0309 ∧ uAt (s.box mb).payload 0 1 = 1 ∧ a = uAt (s.box mb).payload 1 1 ∧ a < s.parts.attach.length) ∧
    (∃ mb : Nat, ∃ i : Nat, ∃ r : PartRec, ∃ s : State, Takes s mb 0x0309 ∧ uAt (s.box mb).payload 0 1 = 0 ∧ s.recAt (uAt (s.box mb).payload 4 8) = some (i, r) ∧ r.removed = false ∧ (∀ q, q ∈ s.parts.table → q.1 = i ∨ q.2.identity = r.identity → q = (i, r))) ∧
    (∃ mb : Nat, ∃ s : State, Takes s mb 0x0309 ∧ uAt (s.box mb).payload 0 1 = 0 ∧ s.recAt (uAt (s.box mb).payload 4 8) = none) ∧
    (∃ mb : Nat, ∃ s : State, Takes s mb 0x0302) := by
  refine ⟨?_, ?_, ?_, ?_, ?_⟩
  · exact ⟨(0), _, (winOn (putWin 0 0x0304 (leBytes 2 0 ++ [0, 0xFF] ++ leBytes 2 0 ++ leBytes 2 5 ++ leBytes 4 64) (tb [(0, cand), (3, keyF), (7, { modu with misplaced := true })] on))), rfl, holds (by unfold Takes Started; infer_instance) (by decide +kernel), by decide +kernel⟩
  · exact ⟨(0), _, (put 0 0x0309 ([1, 0x12, 0, 0] ++ leBytes 8 0) (svc { on with parts := { on.parts with attach := on.parts.attach.set 0x12 { count := 5, decayRefNs := 0 } } })), holds (by unfold Takes Started; infer_instance) (by decide +kernel), by decide +kernel, rfl, by decide +kernel⟩
  · exact ⟨(0), _, _, (put 0 0x0309 ([0, 0, 0, 0] ++ leBytes 8 0x55) (svc (tb [(0, keyF)] on))), holds (by unfold Takes Started; infer_instance) (by decide +kernel), by decide +kernel, rfl, by decide +kernel, holds (by letI := @decSome; letI := @decEx; letI := @decPair; letI := @decLanes; letI := @decOthers; letI := @decRank; letI := @decLine; infer_instance) (by decide +kernel)⟩
  · exact ⟨(0), (put 0 0x0309 ([0, 0, 0, 0] ++ leBytes 8 0x99) (svc (tb [(0, cand)] on))), holds (by unfold Takes Started; infer_instance) (by decide +kernel), by decide +kernel⟩
  · exact ⟨(0), (put 0 0x0302 [] (seg (svc on))), holds (by unfold Takes Started; infer_instance) (by decide +kernel)⟩

/-- The hypotheses of PartnerListUnlockAndEnrol, clause by clause (part 2), are met. -/
theorem witness2 :
    (∃ mb : Nat, ∃ i : Nat, ∃ p : List Byte, ∃ s : State, p = (s.box mb).payload ∧ Takes s mb 0x0301 ∧ s.parts.enrol = none ∧ uAt p 8 1 = 0x40 ∧ s.recAt (uAt p 0 8) = none ∧ s.freeIndex = some i) ∧
    (∃ mb : Nat, ∃ p : List Byte, ∃ s : State, p = (s.box mb).payload ∧ Takes s mb 0x0301 ∧ s.parts.enrol = none ∧ roleKind (uAt p 8 1) = 3 ∧ (s.attachCtr (uAt p 13 1)).count = 0 ∧ (∀ r, s.rec? (uAt p 0 8) = some r → r.failCount = 0 ∧ r.removed = false)) ∧
    (∃ s : State, s.parts.enrol.isSome = true) ∧
    (∃ mb : Nat, ∃ st : Nat, ∃ s : State, s.parts.enrol = none ∧ Started s mb 0x0301 ∧ s.ownCheck mb 0x0301 = some st) := by
  refine ⟨?_, ?_, ?_, ?_⟩
  · exact ⟨(0), _, _, (put 0 0x0301 (leBytes 8 0x44 ++ [0x40, 3, 0, 0, 0, 0xFF, 0, 0]) (seg on)), rfl, holds (by unfold Takes Started; infer_instance) (by decide +kernel), by decide +kernel, by decide +kernel, by decide +kernel, rfl⟩
  · exact ⟨(0), _, (put 0 0x0301 (leBytes 8 0x45 ++ [0x30, 3, 0, 0, 0, 0x41, 0, 0]) (seg on)), rfl, holds (by unfold Takes Started; infer_instance) (by decide +kernel), by decide +kernel, by decide +kernel, by decide +kernel, holds (by letI := @decSome; letI := @decEx; letI := @decPair; letI := @decLanes; letI := @decOthers; letI := @decRank; letI := @decLine; infer_instance) (by decide +kernel)⟩
  · exact ⟨(put 0 0x0301 (leBytes 8 0x45 ++ [0x30, 3, 0, 0, 0, 0x41, 0, 0]) { seg on with parts := { (seg on).parts with enrol := some {} } }), by decide +kernel⟩
  · exact ⟨(0), _, (put 0 0x0301 (leBytes 8 0x44 ++ [0x40, 3, 0, 0, 0, 0xFF, 0, 0]) (img [(recPartners, 1, 0)] on)), by decide +kernel, holds (by unfold Started; infer_instance) (by decide +kernel), rfl⟩


end PartnerListUnlockAndEnrol

namespace PartnerTimesAndLockouts
def tb (l : List (Nat × PartRec)) (s : State) : State := s.modParts fun p => { p with table := l }
def key1 : PartRec := { identity := 0x55, kind := 1, role := 0x10, state := .enrolled, zones := 3, releaseOk := true }
def modu : PartRec := { identity := 0x66, kind := 2, role := 0x20, state := .absent, attach := 0x12 }
def cand : PartRec := { identity := 0x77, kind := 1, state := .candidate, lastSeenNs := 999999999999, seenEpoch := 1 }
def cRem : PartRec := { cand with removed := true }

/-- The hypotheses of PartnerTimesAndLockouts, clause by clause, are met. -/
theorem witness :
    (∃ i : Nat, ∃ r : PartRec, ∃ s : State, s.candidates = [(i, r)] ∧ s.recAt r.identity = some (i, r) ∧ r.failCount = 0 ∧ (r.removed = true ∨ (r.seenEpoch = s.tbu.epoch ∧ r.lastSeenNs + 86400000000000 ≤ s.now))) ∧
    (∃ s : State, (∀ q, q ∈ s.candidates → s.recAt q.2.identity = some q ∧ (q.2.failCount = 0 → q.2.removed = false ∧ (q.2.seenEpoch = s.tbu.epoch → s.now < q.2.lastSeenNs + 86400000000000)) ∧ (q.2.failCount ≠ 0 → s.decaySteps q.2.decayRefNs = 0))) ∧
    (∃ t0 : Nat, ∃ s : State, s.parts.window = some t0 ∧ t0 ≤ s.now) ∧
    (∃ id : Nat, ∃ i : Nat, ∃ a : Nat, ∃ r : PartRec, ∃ s : State, s.recAt id = some (i, r) ∧ a < s.parts.attach.length) ∧
    (∃ id : Nat, ∃ i : Nat, ∃ r : PartRec, ∃ s : State, s.recAt id = some (i, r)) := by
  refine ⟨?_, ?_, ?_, ?_, ?_⟩
  · exact ⟨_, _, (tb [(3, cRem), (7, modu)] on), rfl, by decide +kernel⟩
  · exact ⟨(on), holds (by letI := @decSome; letI := @decEx; letI := @decPair; letI := @decLanes; letI := @decOthers; letI := @decRank; letI := @decLine; infer_instance) (by decide +kernel)⟩
  · exact ⟨_, ({ on with parts := { window := some 1000, windowUsed := 3 } }), rfl, by decide +kernel⟩
  · exact ⟨(0x55), _, (0), _, (tb [(3, key1)] on), rfl, by decide +kernel⟩
  · exact ⟨(0x55), _, _, (tb [(3, key1)] on), rfl⟩


end PartnerTimesAndLockouts

namespace LfBudgetIsKept
def lf (f : Lf → Lf) (s : State) : State := s.modLf f
def lon : State := lf (fun l => { l with pLf := 14000 }) (img [(recLfArray, fieldNo 0 1, 1), (recLfArray, fieldNo 1 1, 1), (recLfArray, fieldNo 16 1, 1), (recLfArray, fieldNo 63 1, 1), (recWake, fieldNo 0 1, 1), (recWake, fieldNo 7 1, 1), (recFieldMap, fieldNo 0 1, 50), (recFieldMap, fieldNo 0 2, 50), (recWake, fieldNo 0 4, 0), (recWake, fieldNo 0 5, 0)] on)
def wakeB : Burst := { id := 5, cls := .wake, parts := [[(0, 1000), (1, 1000)]], scaled := [[(0, 1000), (1, 1000)]], reqNs := 1, startNs := 999995000000 }
def diagB (c : Nat) : Burst := { id := 6, cls := .diag, parts := [[(c, 50)]], scaled := [[(c, 50)]], reqNs := 1, startNs := 999995000000 }

/-- The hypotheses of LfBudgetIsKept, clause by clause, are met. -/
theorem witness :
    (∃ s : State, s.committed ≤ costUnits s.lf.pLf) ∧
    (∃ pVlf : Nat, ∃ pLft : Nat, ∃ e : Nat, ∃ s : State, e = s.cfgN recNetwork (fieldNo 6 7) * s.cfgN recNetwork (fieldNo 6 8) ∧ (10 * s.lfDraw pVlf pLft ≤ 11 * s.lf.pLf * e ∨ s.lf.flight = [])) ∧
    (∃ pVlf : Nat, ∃ pLft : Nat, ∃ e : Nat, ∃ s : State, e = s.cfgN recNetwork (fieldNo 6 7) * s.cfgN recNetwork (fieldNo 6 8) ∧ 11 * s.lf.pLf * e < 10 * s.lfDraw pVlf pLft ∧ s.lf.flight ≠ []) := by
  refine ⟨?_, ?_, ?_⟩
  · exact ⟨(on), by decide +kernel⟩
  · exact ⟨(0), (0), _, (on), rfl, by decide +kernel⟩
  · exact ⟨(0), (5000), _, (lf (fun l => { l with flight := [wakeB, diagB 63], pLf := 800 }) lon), rfl, by decide +kernel⟩


end LfBudgetIsKept

namespace LfBurstsBeginAndEnd
def lf (f : Lf → Lf) (s : State) : State := s.modLf f
def lon : State := lf (fun l => { l with pLf := 14000 }) (img [(recLfArray, fieldNo 0 1, 1), (recLfArray, fieldNo 1 1, 1), (recLfArray, fieldNo 16 1, 1), (recLfArray, fieldNo 63 1, 1), (recWake, fieldNo 0 1, 1), (recWake, fieldNo 7 1, 1), (recFieldMap, fieldNo 0 1, 50), (recFieldMap, fieldNo 0 2, 50), (recWake, fieldNo 0 4, 0), (recWake, fieldNo 0 5, 0)] on)
def wakeB : Burst := { id := 5, cls := .wake, parts := [[(0, 1000), (1, 1000)]], scaled := [[(0, 1000), (1, 1000)]], reqNs := 1, startNs := 999995000000 }
def wakeE : Burst := { wakeB with startNs := 5 }
def popB (i : Nat) : Burst := { id := 7, cls := .pop, parts := [[(16 + i, 300)]], scaled := [[(16 + i, 300)]], reqNs := 1, startNs := 999995000000 }
def testB : Burst := { id := 8, cls := .diag, test := some 0, mbs := [0], parts := [[(0, 1000)]], scaled := [[(0, 1000)]], startNs := 5 }

/-- The hypotheses of LfBurstsBeginAndEnd, clause by clause (part 1), are met. -/
theorem witness1 :
    (∃ c : Nat, ∃ b : Burst, ∃ s : State, c < 64 ∧ s.lfEnabled c = true ∧ s.lf.waiting = [] ∧ s.lf.flight = [] ∧ s.lf.vlfPending = none ∧ s.psc.state = .run ∧ s.psc.entry = none ∧ b = { cls := .diag, parts := [[(c, if c < 16 then 200 else 50)]], id := s.lf.nextId, reqNs := s.now } ∧ s.lfPowered b = true ∧ s.fits (s.costOf (s.targets b)) = true) ∧
    (∃ k : Nat, ∃ s : State, k < 8 ∧ s.cfgB recWake (fieldNo k 1) = true ∧ s.lf.waiting = [] ∧ s.sess.cur.isSome = true ∧ s.psc.state = .run ∧ s.psc.entry = none) ∧
    (∃ cls : Nat, (cls = 0 ∨ 3 < cls)) ∧
    (∃ id : Nat, ∃ b : Burst, ∃ s : State, s.lf.flight.find? (fun x => x.id == id && (x.cls == .wake || x.test.isSome)) = some b ∧ s.now < b.startNs + s.burstNs b) ∧
    (∃ id : Nat, ∃ silent : BitVec 64, ∃ b : Burst, ∃ s : State, s.lf.flight.find? (fun x => x.id == id && (x.cls == .wake || x.test.isSome)) = some b ∧ b.startNs + s.burstNs b ≤ s.now ∧ s.lf.waiting = [] ∧ s.lf.vlfPending = none ∧ silent = 0 ∧ b.test = none) := by
  refine ⟨?_, ?_, ?_, ?_, ?_⟩
  · exact ⟨(0), _, (lon), by decide +kernel, by decide +kernel, by decide +kernel, by decide +kernel, by decide +kernel, by decide +kernel, by decide +kernel, rfl, by decide +kernel⟩
  · exact ⟨(0), ({ lon with sess := { cur := some { seq := 1 } } }), by decide +kernel⟩
  · exact ⟨(0), by decide +kernel⟩
  · exact ⟨(5), _, (lf (fun l => { l with flight := [wakeB] }) lon), rfl, by decide +kernel⟩
  · exact ⟨(5), (0), _, ({ lf (fun l => { l with flight := [wakeE] }) lon with sess := { cur := some { seq := 1 } } }), rfl, by decide +kernel⟩

/-- The hypotheses of LfBurstsBeginAndEnd, clause by clause (part 2), are met. -/
theorem witness2 :
    (∃ id : Nat, ∃ silent : BitVec 64, ∃ b : Burst, ∃ s : State, s.lf.flight.find? (fun x => x.id == id && (x.cls == .wake || x.test.isSome)) = some b ∧ b.startNs + s.burstNs b ≤ s.now ∧ s.lf.waiting = [] ∧ s.lf.vlfPending = none ∧ silent = 0 ∧ ∃ p, ∃ n, b.test = some p ∧ b.mbs = [n] ∧ (s.box n).st = .issued ∧ (s.box n).waiting = true ∧ (s.box n).committed = true) ∧
    (∃ id : Nat, ∃ silent : BitVec 64, ∃ b : Burst, ∃ k : PopCheck, ∃ s : State, s.lf.flight.find? (fun x => x.id == id && (x.cls == .wake || x.test.isSome)) = none ∧ s.lf.flight.find? (fun x => x.id == id && x.cls == .pop && silent.getLsbD (16 + x.coil)) = some b ∧ b.coil < 48 ∧ s.lf.chans.length = 64 ∧ s.lf.waiting = [] ∧ b.addressed = none ∧ s.pop.running = some k ∧ k.coils.length = 48) ∧
    (∃ c : Nat, ∃ b : Burst, ∃ s : State, c < 64 ∧ s.lf.chans.length = 64 ∧ s.lf.flight.find? (fun x => x.chans.contains c && !x.tripped.contains c) = some b ∧ b.cls = .wake ∧ s.lf.waiting = [] ∧ s.psc.state = .run ∧ s.psc.entry = none) := by
  refine ⟨?_, ?_, ?_⟩
  · exact ⟨(8), (0), _, ((lf (fun l => { l with flight := [testB] }) (put 0 0x0604 [0, 0, 5, 0, 0, 0, 0, 0] lon)).modBox 0 fun b => { b with waiting := true, committed := true }), rfl, by decide +kernel, by decide +kernel, by decide +kernel, by decide +kernel, _, _, rfl, rfl, by decide +kernel⟩
  · exact ⟨(7), ((1 <<< 23)), _, _, ((lf (fun l => { l with flight := [popB 7] }) lon).modPop fun p => { p with running := some { started := true, coils := (List.replicate 48 {}).set 7 { stage := 1 } } }), by decide +kernel, rfl, by decide +kernel, by decide +kernel, by decide +kernel, by decide +kernel, rfl, by decide +kernel⟩
  · exact ⟨(0), _, ({ lf (fun l => { l with flight := [wakeE] }) lon with sess := { cur := some { seq := 1 } } }), by decide +kernel, by decide +kernel, rfl, by decide +kernel⟩


end LfBurstsBeginAndEnd

namespace LfMeasurementsAndCommands
def lf (f : Lf → Lf) (s : State) : State := s.modLf f
def lon : State := lf (fun l => { l with pLf := 14000 }) (img [(recLfArray, fieldNo 0 1, 1), (recLfArray, fieldNo 1 1, 1), (recLfArray, fieldNo 16 1, 1), (recLfArray, fieldNo 63 1, 1), (recWake, fieldNo 0 1, 1), (recWake, fieldNo 7 1, 1), (recFieldMap, fieldNo 0 1, 50), (recFieldMap, fieldNo 0 2, 50), (recWake, fieldNo 0 4, 0), (recWake, fieldNo 0 5, 0)] on)
def diagB (c : Nat) : Burst := { id := 6, cls := .diag, parts := [[(c, 50)]], scaled := [[(c, 50)]], reqNs := 1, startNs := 999900000000 }
def wt (s : State) : State := s.modBox 0 fun b => { b with waiting := true, committed := true }

/-- The hypotheses of LfMeasurementsAndCommands, clause by clause (part 1), are met. -/
theorem witness1 :
    (∃ c : Nat, ∃ b : Burst, ∃ s : State, c < 64 ∧ s.lf.chans.length = 64 ∧ s.lf.flight.find? (fun x => x.measure && x.chans == [c]) = some b ∧ s.lf.waiting = [] ∧ s.lf.diagLeft.getLsbD c = false ∧ s.lf.diagMbs = []) ∧
    (∃ c : Nat, ∃ n : Nat, ∃ done : Nat, ∃ b : Burst, ∃ s : State, c < 64 ∧ s.lf.flight.find? (fun x => x.measure && x.chans == [c]) = some b ∧ s.lf.waiting = [] ∧ s.lf.diagLeft.getLsbD c = false ∧ s.lf.diagMbs = [(n, 1 <<< c, done)] ∧ (s.box n).st = .issued ∧ (s.box n).waiting = true) ∧
    (∃ s : State, s.lf.diagDue + s.cfgN recLfArray (fieldNo 0x40 2) * 1000000000 ≤ s.now) ∧
    (∃ s : State, s.now < s.lf.diagDue + s.cfgN recLfArray (fieldNo 0x40 2) * 1000000000) ∧
    (∃ mb : Nat, ∃ s : State, Takes s mb 0x0601) := by
  refine ⟨?_, ?_, ?_, ?_, ?_⟩
  · exact ⟨(0), _, (lf (fun l => { l with flight := [diagB 0], chans := l.chans.set 0 { cond := 0x2FF, trips := [5] } }) lon), by decide +kernel, by decide +kernel, rfl, by decide +kernel⟩
  · exact ⟨(16), (0), (0), _, (wt (put 0 0x0602 (leBytes 8 0x10000) (lf (fun l => { l with flight := [diagB 16], diagMbs := [(0, 1 <<< 16, 0)] }) lon))), by decide +kernel, rfl, by decide +kernel⟩
  · exact ⟨(lon), by decide +kernel⟩
  · exact ⟨({ lon with tbu := { lon.tbu with ns := 5 } }), by decide +kernel⟩
  · exact ⟨(0), (put 0 0x0601 [] lon), holds (by unfold Takes Started; infer_instance) (by decide +kernel)⟩

/-- The hypotheses of LfMeasurementsAndCommands, clause by clause (part 2), are met. -/
theorem witness2 :
    (∃ mb : Nat, ∃ c : Nat, ∃ k : Nat, ∃ s : State, Takes s mb 0x0603 ∧ c = uAt (s.box mb).payload 0 1 ∧ k = uAt (s.box mb).payload 2 2 ∧ k ≠ 0xFFFF) ∧
    (∃ mb : Nat, ∃ s : State, Takes s mb 0x0602) ∧
    (∃ mb : Nat, ∃ s : State, Takes s mb 0x0604 ∧ s.lf.waiting = []) := by
  refine ⟨?_, ?_, ?_⟩
  · exact ⟨(0), _, _, (put 0 0x0603 [63, 0, 200, 0] lon), holds (by unfold Takes Started; infer_instance) (by decide +kernel), rfl, rfl, by decide +kernel⟩
  · exact ⟨(0), (put 0 0x0602 (leBytes 8 0x8000000000010000) lon), holds (by unfold Takes Started; infer_instance) (by decide +kernel)⟩
  · exact ⟨(0), (put 0 0x0604 [0, 0, 5, 0, 0, 0, 0, 0] lon), holds (by unfold Takes Started; infer_instance) (by decide +kernel), by decide +kernel⟩


end LfMeasurementsAndCommands

namespace PopulationChecksRun
def lf (f : Lf → Lf) (s : State) : State := s.modLf f
def lon : State := lf (fun l => { l with pLf := 14000 }) (img [(recLfArray, fieldNo 0 1, 1), (recLfArray, fieldNo 1 1, 1), (recLfArray, fieldNo 16 1, 1), (recLfArray, fieldNo 63 1, 1), (recWake, fieldNo 0 1, 1), (recWake, fieldNo 7 1, 1), (recFieldMap, fieldNo 0 1, 50), (recFieldMap, fieldNo 0 2, 50), (recWake, fieldNo 0 4, 0), (recWake, fieldNo 0 5, 0)] on)
def popB (i : Nat) : Burst := { id := 7, cls := .pop, parts := [[(16 + i, 300)]], scaled := [[(16 + i, 300)]], reqNs := 1, startNs := 999900000000 }
def chk (c : Coil) (s : State) : State := s.modPop fun p => { p with running := some { started := true, coils := (List.replicate 48 {}).set 7 c } }
def modu : PartRec := { identity := 0x66, kind := 2, role := 0x20, state := .enrolled, attach := 0x17, failCount := 3, decayRefNs := 900000000000 }
def tb (l : List (Nat × PartRec)) (s : State) : State := s.modParts fun p => { p with table := l }
def late (s : State) : State := { s with tbu := { s.tbu with ns := 1000000000000000 } }

/-- The hypotheses of PopulationChecksRun, clause by clause (part 1), are met. -/
theorem witness1 :
    (∃ i : Nat, ∃ p : Nat, ∃ crc : Nat, ∃ b : Burst, ∃ k : PopCheck, ∃ e : List Byte, ∃ s : State, i < 48 ∧ s.coilBurst i = some b ∧ b.addressed = none ∧ s.pop.running = some k ∧ k.coils.length = 48 ∧ (s.coil i).stage = 1 ∧ (s.coil i).expected = some e ∧ crc8 (msbBits 64 p) = crc ∧ s.lf.waiting = []) ∧
    (∃ i : Nat, ∃ b : Burst, ∃ k : PopCheck, ∃ s : State, i < 48 ∧ s.coilBurst i = some b ∧ b.addressed = none ∧ s.pop.running = some k ∧ k.coils.length = 48 ∧ (s.coil i).stage = 1 ∧ s.lf.waiting = [] ∧ (s.coil i).expected = none) ∧
    (∃ i : Nat, ∃ b : Burst, ∃ k : PopCheck, ∃ s : State, i < 48 ∧ s.coilBurst i = some b ∧ b.addressed = none ∧ s.pop.running = some k ∧ k.coils.length = 48 ∧ (s.coil i).stage = 1 ∧ s.lf.waiting = [] ∧ (s.coil i).expected.isSome = true) ∧
    (∃ i : Nat, ∃ s : State, s.coilBurst i = none) ∧
    (∃ t0 : Nat, ∃ s : State, s.pop.lastStart = some t0 ∧ t0 + s.cfgN recPopulation 7 * 1000000000 ≤ s.now ∧ s.pop.running.isSome = true) := by
  refine ⟨?_, ?_, ?_, ?_, ?_⟩
  · exact ⟨(7), (0x0102030405060708), (crc8 (msbBits 64 0x0102030405060708)), _, _, _, (tb [(1, modu)] (chk { stage := 1, target := 0x66, expected := some [1, 2, 3, 4, 5, 6, 7, 8] } (lf (fun l => { l with flight := [popB 7] }) lon))), by decide +kernel, rfl, by decide +kernel, rfl, by decide +kernel, by decide +kernel, rfl, by decide +kernel⟩
  · exact ⟨(7), _, _, (chk { stage := 1, target := 0x66 } (lf (fun l => { l with flight := [popB 7] }) lon)), by decide +kernel, rfl, by decide +kernel, rfl, by decide +kernel⟩
  · exact ⟨(7), _, _, (tb [(1, modu)] (chk { stage := 1, target := 0x66, expected := some [1, 2, 3, 4, 5, 6, 7, 8] } (lf (fun l => { l with flight := [popB 7] }) lon))), by decide +kernel, rfl, by decide +kernel, rfl, by decide +kernel⟩
  · exact ⟨(0x0102030405060708), (chk { stage := 1, target := 0x66 } (lf (fun l => { l with flight := [popB 7] }) lon)), by decide +kernel⟩
  · exact ⟨_, (late (chk {} { lon with pop := { lastStart := some 5 } })), rfl, by decide +kernel⟩

/-- The hypotheses of PopulationChecksRun, clause by clause (part 2), are met. -/
theorem witness2 :
    (∃ t0 : Nat, ∃ s : State, s.pop.lastStart = some t0 ∧ t0 + s.cfgN recPopulation 7 * 1000000000 ≤ s.now ∧ s.pop.running = none ∧ s.lf.diagDone = true ∧ s.pdOn 12 = true ∧ s.rolesRun = true) ∧
    (∃ s : State, (∀ t0, s.pop.lastStart = some t0 → s.now < t0 + s.cfgN recPopulation 7 * 1000000000)) ∧
    (∃ r : PopRec, ∃ s : State, s.pop.latest = some r ∧ r.locked ≠ [] ∧ (∀ q, q ∈ r.locked → s.stillLocked q = false) ∧ s.pop.running.isSome = true) ∧
    (∃ r : PopRec, ∃ s : State, s.pop.latest = some r ∧ (r.locked = [] ∨ ∃ q, q ∈ r.locked ∧ s.stillLocked q = true)) ∧
    (∃ mb : Nat, ∃ r : PopRec, ∃ s : State, Takes s mb 0x0605 ∧ s.pop.latest = some r) := by
  refine ⟨?_, ?_, ?_, ?_, ?_⟩
  · exact ⟨_, (late { lon with pop := { lastStart := some 5 }, lf := { lon.lf with diagDone := true } }), rfl, by decide +kernel⟩
  · exact ⟨(chk { stage := 1, target := 0x66 } (lf (fun l => { l with flight := [popB 7] }) lon)), holds (by letI := @decSome; letI := @decEx; letI := @decPair; letI := @decLanes; letI := @decOthers; letI := @decRank; letI := @decLine; infer_instance) (by decide +kernel)⟩
  · exact ⟨_, (chk {} { lon with pop := { latest := some { entries := [8] ++ List.replicate 47 0, locked := [(0, 0x17)] } } }), rfl, by decide +kernel, holds (by letI := @decSome; letI := @decEx; letI := @decPair; letI := @decLanes; letI := @decOthers; letI := @decRank; letI := @decLine; infer_instance) (by decide +kernel), by decide +kernel⟩
  · exact ⟨_, ({ lon with pop := { latest := some { entries := List.replicate 48 0 } } }), rfl, holds (by letI := @decSome; letI := @decEx; letI := @decPair; letI := @decLanes; letI := @decOthers; letI := @decRank; letI := @decLine; infer_instance) (by decide +kernel)⟩
  · exact ⟨(0), _, (put 0 0x0605 [] { lon with pop := { latest := some { entries := [8] ++ List.replicate 47 0 } } }), holds (by unfold Takes Started; infer_instance) (by decide +kernel), rfl⟩

/-- The hypotheses of PopulationChecksRun, clause by clause (part 3), are met. -/
theorem witness3 :
    (∃ mb : Nat, ∃ s : State, Takes s mb 0x0606 ∧ s.pop.running.isSome = true) := by
  exact ⟨(0), (put 0 0x0606 [] (chk {} lon)), holds (by unfold Takes Started; infer_instance) (by decide +kernel), by decide +kernel⟩


end PopulationChecksRun

namespace SequencerTreatsItsCommands
def rd (r : Radio) : State := { on with radio := r, psc := { on.psc with powered := 0x3FFF } }
def base : Radio := { st := .standby, sampQual := true, sampRun := true }
def fgNow : FgResult := { ns := 999999999999, epoch := 1, temp := 250, region := 1 }

/-- The hypotheses of SequencerTreatsItsCommands, clause by clause (part 1), are met. -/
theorem witness1 :
    (∃ c : Instr, ∃ h : HeldCmd, ∃ s : State, s.radioCalm ∧ s.seqCommand c = some h ∧ s.radio.st = .off) ∧
    (∃ c : Instr, ∃ h : HeldCmd, ∃ s : State, s.radioCalm ∧ s.seqCommand c = some h ∧ (s.radio.st = .txUhf ∨ s.radio.st = .txUwb ∨ (s.radio.st = .ranging ∧ h.op ≠ .idle)) ∧ (∀ set first limit temp, c = .seqRange set first limit temp → s.now + (s.atTemp temp).rangeLead ≤ first)) ∧
    (∃ first : Nat, ∃ temp : Int, ∃ s : State, s.radioCalm ∧ first < s.now + (s.atTemp temp).rangeLead) ∧
    (∃ s : State, s.radioCalm ∧ s.radio.st = .off ∧ s.rolesRun = true ∧ s.psc.state = .run ∧ s.psc.entry = none ∧ s.pad.rel.getLsbD 10 = false) ∧
    (∃ s : State, s.radioCalm ∧ s.radio.st ≠ .off ∧ s.radio.held.length ≤ 8) := by
  refine ⟨?_, ?_, ?_, ?_, ?_⟩
  · exact ⟨((.seqIdle 5)), _, (on), holds (by unfold State.radioCalm; infer_instance) (by decide +kernel), rfl, by decide +kernel⟩
  · exact ⟨.seqIdle 5, _, rd { base with st := .txUhf, txUhf := some [1, 2] }, holds (by unfold State.radioCalm; infer_instance) (by decide +kernel), rfl, by decide +kernel, fun _ _ _ _ h => by cases h⟩
  · exact ⟨(0), (250), (on), holds (by unfold State.radioCalm; infer_instance) (by decide +kernel), by decide +kernel⟩
  · exact ⟨(on), holds (by unfold State.radioCalm; infer_instance) (by decide +kernel), by decide +kernel⟩
  · exact ⟨(rd base), holds (by unfold State.radioCalm; infer_instance) (by decide +kernel), by decide +kernel⟩

/-- The hypotheses of SequencerTreatsItsCommands, clause by clause (part 2), are met. -/
theorem witness2 :
    (∃ s : State, s.radioCalm ∧ s.radio.st = .standby) ∧
    (∃ s : State, s.radioCalm ∧ (s.radio.st = .rxUhf ∨ s.radio.st = .rxUwb) ∧ s.radio.held = [] ∧ s.radio.sampQual = true) ∧
    (∃ s : State, s.radioCalm ∧ s.radio.st = .cal) ∧
    (∃ s : State, s.radioCalm ∧ s.radio.held = [] ∧ s.radio.st = .standby ∧ s.radio.loQual = false) ∧
    (∃ region : Nat, ∃ s : State, s.radioCalm ∧ s.radio.held = [] ∧ s.radio.st = .rxUhf ∧ s.carrierRegion = region) := by
  refine ⟨?_, ?_, ?_, ?_, ?_⟩
  · exact ⟨(rd base), holds (by unfold State.radioCalm; infer_instance) (by decide +kernel), by decide +kernel⟩
  · exact ⟨(rd { base with st := .rxUhf, loQual := true, calDone := true, listenUhf := some 1, fg := some fgNow }), holds (by unfold State.radioCalm; infer_instance) (by decide +kernel), by decide +kernel⟩
  · exact ⟨(rd { base with st := .cal, loQual := true, calStep := 3, calPlan := 12 }), holds (by unfold State.radioCalm; infer_instance) (by decide +kernel), by decide +kernel⟩
  · exact ⟨(rd base), holds (by unfold State.radioCalm; infer_instance) (by decide +kernel), by decide +kernel⟩
  · exact ⟨(1), (rd { base with st := .rxUhf, loQual := true, calDone := true, listenUhf := some 1, fg := some fgNow }), holds (by unfold State.radioCalm; infer_instance) (by decide +kernel), by decide +kernel⟩

/-- The hypotheses of SequencerTreatsItsCommands, clause by clause (part 3), are met. -/
theorem witness3 :
    (∃ region : Nat, ∃ s : State, s.radioCalm ∧ s.radio.held = [] ∧ s.radio.st = .synthSettle ∧ s.carrierRegion = region) ∧
    (∃ region : Nat, ∃ s : State, s.radioCalm ∧ s.radio.held = [] ∧ s.radio.st = .synthSettle ∧ s.carrierRegion ≠ region) ∧
    (∃ s : State, s.radioCalm ∧ (s.radio.st = .standby ∨ s.radio.st = .rxUhf) ∧ s.radio.sampQual = true) ∧
    (∃ s : State, s.radioCalm ∧ s.radio.st = .rxUhf ∧ s.radio.held = []) ∧
    (∃ s : State, s.radioCalm ∧ s.radio.st = .standby ∧ s.radio.sampQual = true ∧ s.radio.held = []) := by
  refine ⟨?_, ?_, ?_, ?_, ?_⟩
  · exact ⟨(1), (rd { st := .synthSettle, settleOf := .sampling, settleTo := .standby, sampRun := true }), holds (by unfold State.radioCalm; infer_instance) (by decide +kernel), by decide +kernel⟩
  · exact ⟨(0), (rd { st := .synthSettle, settleOf := .sampling, settleTo := .standby, sampRun := true }), holds (by unfold State.radioCalm; infer_instance) (by decide +kernel), by decide +kernel⟩
  · exact ⟨(rd base), holds (by unfold State.radioCalm; infer_instance) (by decide +kernel), by decide +kernel⟩
  · exact ⟨(rd { base with st := .rxUhf, loQual := true, calDone := true, listenUhf := some 1, fg := some fgNow }), holds (by unfold State.radioCalm; infer_instance) (by decide +kernel), by decide +kernel⟩
  · exact ⟨(rd base), holds (by unfold State.radioCalm; infer_instance) (by decide +kernel), by decide +kernel⟩

/-- The hypotheses of SequencerTreatsItsCommands, clause by clause (part 4), are met. -/
theorem witness4 :
    (∃ s : State, s.radioCalm ∧ s.radio.st = .rxUwb) ∧
    (∃ due : Option Nat, ∃ s : State, s.radioCalm ∧ s.radio.sampQual = true ∧ (s.radio.st = .standby ∨ s.radio.st = .rxUwb) ∧ (∀ t0, due = some t0 → s.now + 2000 < t0)) ∧
    (∃ due : Option Nat, ∃ s : State, s.radioCalm ∧ s.radio.sampQual = true ∧ (s.radio.st = .standby ∨ s.radio.st = .rxUwb) ∧ ∃ t0, due = some t0 ∧ t0 ≤ s.now + 2000 ∧ s.radio.held = []) ∧
    (∃ first : Nat, ∃ temp : Int, ∃ s : State, s.radioCalm ∧ s.radio.sampQual = true ∧ (s.radio.st = .standby ∨ s.radio.st = .rxUhf ∨ s.radio.st = .rxUwb) ∧ s.now + (s.atTemp temp).rangeLead ≤ first) ∧
    (∃ s : State, s.radioCalm ∧ (s.radio.st = .standby ∨ s.radio.st = .rxUhf) ∧ s.radio.loQual = true) := by
  refine ⟨?_, ?_, ?_, ?_, ?_⟩
  · exact ⟨(rd { base with st := .rxUwb, listenUwb := some 5 }), holds (by unfold State.radioCalm; infer_instance) (by decide +kernel), by decide +kernel⟩
  · exact ⟨(none), (rd base), holds (by unfold State.radioCalm; infer_instance) (by decide +kernel), by decide +kernel, by decide +kernel, holds (by letI := @decSome; letI := @decEx; letI := @decPair; letI := @decLanes; letI := @decOthers; letI := @decRank; letI := @decLine; infer_instance) (by decide +kernel)⟩
  · exact ⟨_, (rd base), holds (by unfold State.radioCalm; infer_instance) (by decide +kernel), by decide +kernel, by decide +kernel, (0), rfl, by decide +kernel⟩
  · exact ⟨(1000000500000), (250), (rd base), holds (by unfold State.radioCalm; infer_instance) (by decide +kernel), by decide +kernel⟩
  · exact ⟨(rd { base with loQual := true }), holds (by unfold State.radioCalm; infer_instance) (by decide +kernel), by decide +kernel⟩


end SequencerTreatsItsCommands

namespace RadioLocksAndCalibrations
def rd (r : Radio) : State := { on with radio := r, psc := { on.psc with powered := 0x3FFF } }
def hc (op : SeqOp) : HeldCmd := { op := op, limit := 1000000500000, due := some 1000000400000 }
def base : Radio := { st := .standby, sampQual := true, sampRun := true }
def fgNow : FgResult := { ns := 999999999999, epoch := 1, temp := 250, region := 1 }

/-- The hypotheses of RadioLocksAndCalibrations, clause by clause (part 1), are met. -/
theorem witness1 :
    (∃ s : State, s.radioCalm ∧ s.radio.st = .synthSettle ∧ s.radio.held = [] ∧ s.radio.settleOf = .sampling ∧ s.radio.settleTo = .standby) ∧
    (∃ s : State, s.radioCalm ∧ s.radio.st = .synthSettle ∧ s.radio.held = [] ∧ s.radio.settleOf = .lo ∧ s.radio.settleTo = .rxUhf ∧ s.radio.calDone = false) ∧
    (∃ synth : Synth, ∃ s : State, s.radioCalm ∧ (s.radio.st ≠ .synthSettle ∨ s.radio.settleOf ≠ synth)) ∧
    (∃ s : State, s.radioCalm ∧ s.radio.st = .synthSettle ∧ s.radio.settleFails = 0) ∧
    (∃ s : State, s.radioCalm ∧ s.radio.st = .synthSettle ∧ s.radio.settleFails ≠ 0 ∧ s.radio.settleOf = .sampling ∧ s.radio.held.length ≤ 8) := by
  refine ⟨?_, ?_, ?_, ?_, ?_⟩
  · exact ⟨(rd { st := .synthSettle, settleOf := .sampling, settleTo := .standby, sampRun := true }), holds (by unfold State.radioCalm; infer_instance) (by decide +kernel), by decide +kernel⟩
  · exact ⟨(rd { base with st := .synthSettle, settleOf := .lo, settleTo := .rxUhf, listenUhf := some 1 }), holds (by unfold State.radioCalm; infer_instance) (by decide +kernel), by decide +kernel⟩
  · exact ⟨((.sampling)), (rd { base with st := .cal, calPlan := 1, calStep := 0, loQual := false }), holds (by unfold State.radioCalm; infer_instance) (by decide +kernel), by decide +kernel⟩
  · exact ⟨(rd { st := .synthSettle, settleOf := .sampling, settleTo := .standby, sampRun := true }), holds (by unfold State.radioCalm; infer_instance) (by decide +kernel), by decide +kernel⟩
  · exact ⟨(rd { st := .synthSettle, settleOf := .sampling, settleTo := .standby, sampRun := true, settleFails := 1 }), holds (by unfold State.radioCalm; infer_instance) (by decide +kernel), by decide +kernel⟩

/-- The hypotheses of RadioLocksAndCalibrations, clause by clause (part 2), are met. -/
theorem witness2 :
    (∃ s : State, s.radioCalm ∧ s.radio.st ≠ .synthSettle) ∧
    (∃ s : State, s.radioCalm ∧ s.radio.st ≠ .off ∧ s.radio.sampQual = true) ∧
    (∃ s : State, s.radioCalm ∧ (s.radio.st = .off ∨ s.radio.sampQual = false)) ∧
    (∃ s : State, s.radioCalm ∧ s.radio.loQual = true ∧ (s.radio.st = .rxUhf ∨ s.radio.st = .txUhf)) ∧
    (∃ s : State, s.radioCalm ∧ s.radio.loQual = true ∧ s.radio.st ≠ .rxUhf ∧ s.radio.st ≠ .txUhf) := by
  refine ⟨?_, ?_, ?_, ?_, ?_⟩
  · exact ⟨(rd { base with st := .cal, calPlan := 1, calStep := 0, loQual := false }), holds (by unfold State.radioCalm; infer_instance) (by decide +kernel), by decide +kernel⟩
  · exact ⟨(rd { base with st := .cal, calPlan := 1, calStep := 0, loQual := false }), holds (by unfold State.radioCalm; infer_instance) (by decide +kernel), by decide +kernel⟩
  · exact ⟨(on), holds (by unfold State.radioCalm; infer_instance) (by decide +kernel), by decide +kernel⟩
  · exact ⟨(rd { base with st := .rxUhf, loQual := true, calDone := true, listenUhf := some 1, fg := some fgNow }), holds (by unfold State.radioCalm; infer_instance) (by decide +kernel), by decide +kernel⟩
  · exact ⟨(rd { base with loQual := true }), holds (by unfold State.radioCalm; infer_instance) (by decide +kernel), by decide +kernel⟩

/-- The hypotheses of RadioLocksAndCalibrations, clause by clause (part 3), are met. -/
theorem witness3 :
    (∃ s : State, s.radioCalm ∧ s.radio.loQual = false) ∧
    (∃ s : State, s.radioCalm ∧ s.radio.st = .cal ∧ s.radio.idleDue = false ∧ s.radio.calStep + 1 < s.radio.calPlan ∧ s.radio.held.all (fun c => c.op != .range) = true) ∧
    (∃ s : State, s.radioCalm ∧ s.radio.st = .cal ∧ s.radio.idleDue = false ∧ s.radio.calPlan ≤ s.radio.calStep + 1 ∧ s.radio.held = [] ∧ s.radio.loQual = true) ∧
    (∃ s : State, s.radioCalm ∧ s.radio.st = .cal ∧ s.radio.idleDue = false ∧ s.radio.calPlan ≤ s.radio.calStep + 1 ∧ s.radio.held = [] ∧ s.radio.loQual = false) ∧
    (∃ s : State, s.radioCalm ∧ s.radio.st = .cal ∧ s.radio.idleDue = false ∧ ∃ c, s.radio.calStep + 1 < s.radio.calPlan ∧ s.radio.held = [c] ∧ c.op = .range ∧ s.gateMissed c = false ∧ s.radio.sampQual = true) := by
  refine ⟨?_, ?_, ?_, ?_, ?_⟩
  · exact ⟨(rd { base with st := .cal, calPlan := 1, calStep := 0, loQual := false }), holds (by unfold State.radioCalm; infer_instance) (by decide +kernel), by decide +kernel⟩
  · exact ⟨(rd { base with st := .cal, loQual := true, calStep := 3, calPlan := 12 }), holds (by unfold State.radioCalm; infer_instance) (by decide +kernel), by decide +kernel⟩
  · exact ⟨(rd { base with st := .cal, loQual := true, calStep := 11, calPlan := 12 }), holds (by unfold State.radioCalm; infer_instance) (by decide +kernel), by decide +kernel⟩
  · exact ⟨(rd { base with st := .cal, calPlan := 1, calStep := 0, loQual := false }), holds (by unfold State.radioCalm; infer_instance) (by decide +kernel), by decide +kernel⟩
  · exact ⟨(rd { base with st := .cal, loQual := true, calStep := 3, calPlan := 12, held := [hc .range] }), holds (by unfold State.radioCalm; infer_instance) (by decide +kernel), by decide +kernel, by decide +kernel, _, by decide +kernel, rfl, by decide +kernel⟩

/-- The hypotheses of RadioLocksAndCalibrations, clause by clause (part 4), are met. -/
theorem witness4 :
    (∃ s : State, s.radioCalm ∧ s.radio.st ≠ .cal) ∧
    (∃ t0 : Nat, ∃ s : State, s.radioCalm ∧ s.radio.upRetry = some t0 ∧ t0 ≤ s.now ∧ s.radio.st = .off ∧ s.rolesRun = true ∧ s.psc.state = .run ∧ s.psc.entry = none ∧ s.pad.rel.getLsbD 10 = false) ∧
    (∃ s : State, (∀ t0, s.radio.upRetry = some t0 → s.now < t0)) ∧
    (∃ temp : Int, ∃ s : State, s.radio.st = .rxUhf ∧ s.radio.recalDue = false ∧ s.radio.dcOnly = false ∧ (s.atTemp temp).fgStale s.carrierRegion = true ∧ s.radioCalm ∧ s.radio.loQual = true) ∧
    (∃ temp : Int, ∃ s : State, s.radio.st = .rxUhf ∧ s.radio.recalDue = false ∧ s.radio.dcOnly = false ∧ (s.atTemp temp).fgStale s.carrierRegion = true ∧ ∃ r, s.sess.cur = some r ∧ (∀ l, l ∈ r.lanes → l.dead = false) ∧ s.radio.calMbs = []) := by
  refine ⟨?_, ?_, ?_, ?_, ?_⟩
  · exact ⟨(on), holds (by unfold State.radioCalm; infer_instance) (by decide +kernel), by decide +kernel⟩
  · exact ⟨_, (rd { base with st := .off, sampQual := false, upRetry := some 1000 }), holds (by unfold State.radioCalm; infer_instance) (by decide +kernel), rfl, by decide +kernel⟩
  · exact ⟨(rd { base with st := .cal, calPlan := 1, calStep := 0, loQual := false }), holds (by letI := @decSome; letI := @decEx; letI := @decPair; letI := @decLanes; letI := @decOthers; letI := @decRank; letI := @decLine; infer_instance) (by decide +kernel)⟩
  · exact ⟨(250), (rd { base with st := .rxUhf, loQual := true, calDone := true, listenUhf := some 1 }), by decide +kernel, by decide +kernel, by decide +kernel, by decide +kernel, holds (by unfold State.radioCalm; infer_instance) (by decide +kernel), by decide +kernel⟩
  · exact ⟨(250), ({ rd { base with st := .rxUhf, loQual := true, calDone := true, listenUhf := some 1 } with sess := { cur := some { seq := 1 } } }), by decide +kernel, by decide +kernel, by decide +kernel, by decide +kernel, _, rfl, holds (by letI := @decSome; letI := @decEx; letI := @decPair; letI := @decLanes; letI := @decOthers; letI := @decRank; letI := @decLine; infer_instance) (by decide +kernel), by decide +kernel⟩

/-- The hypotheses of RadioLocksAndCalibrations, clause by clause (part 5), are met. -/
theorem witness5 :
    (∃ kind : Nat, ∃ s : State, s.radioCalm ∧ kind < 4 ∧ s.slicesRun = true ∧ s.ownFrameWithin (sliceNs kind + 1000) = false ∧ s.radio.sweepPos.length = 4 ∧ s.radio.sweepEnd.length = 3) ∧
    (∃ kind : Nat, ∃ rx : Bool, ∃ s : State, (3 < kind ∨ rx = true ∨ s.slicesRun = false ∨ s.ownFrameWithin (sliceNs kind + 1000) = true)) ∧
    (∃ kind : Nat, ∃ s : State, s.radioCalm ∧ kind < 4 ∧ s.slicesRun = true ∧ s.radio.st ≠ .ranging ∧ s.ownFrameWithin (sliceNs kind + 1000) = false ∧ s.sliceOld kind = true) ∧
    (∃ kind : Nat, ∃ rx : Bool, ∃ s : State, (3 < kind ∨ rx = true ∨ s.slicesRun = false ∨ s.radio.st = .ranging ∨ s.ownFrameWithin (sliceNs kind + 1000) = true ∨ s.sliceOld kind = false)) ∧
    (∃ off : Int, ∃ s : State, s.radio.st ≠ .off ∧ off.natAbs ≤ 1) := by
  refine ⟨?_, ?_, ?_, ?_, ?_⟩
  · exact ⟨(0), (rd base), holds (by unfold State.radioCalm; infer_instance) (by decide +kernel), by decide +kernel⟩
  · exact ⟨(0), (true), (rd { base with st := .cal, calPlan := 1, calStep := 0, loQual := false }), by decide +kernel⟩
  · exact ⟨(0), (rd base), holds (by unfold State.radioCalm; infer_instance) (by decide +kernel), by decide +kernel⟩
  · exact ⟨(0), (true), (rd { base with st := .cal, calPlan := 1, calStep := 0, loQual := false }), by decide +kernel⟩
  · exact ⟨(0), (rd { base with st := .cal, calPlan := 1, calStep := 0, loQual := false }), by decide +kernel⟩

/-- The hypotheses of RadioLocksAndCalibrations, clause by clause (part 6), are met. -/
theorem witness6 :
    (∃ off : Int, ∃ s : State, s.radio.st ≠ .off ∧ 1 < off.natAbs) ∧
    (∃ s : State, s.radio.st = .off) := by
  refine ⟨?_, ?_⟩
  · exact ⟨(250), (rd { base with st := .cal, calPlan := 1, calStep := 0, loQual := false }), by decide +kernel⟩
  · exact ⟨(on), by decide +kernel⟩


end RadioLocksAndCalibrations

namespace RadioFramesAndRfCommands
def rd (r : Radio) : State := { on with radio := r, psc := { on.psc with powered := 0x3FFF } }
def hc (op : SeqOp) : HeldCmd := { op := op, limit := 1000000500000, due := some 1000000400000 }
def ho (op : SeqOp) : HeldCmd := { op := op, limit := 999999999999, due := some 999999999999 }
def base : Radio := { st := .standby, sampQual := true, sampRun := true }
def fgNow : FgResult := { ns := 999999999999, epoch := 1, temp := 250, region := 1 }

/-- The hypotheses of RadioFramesAndRfCommands, clause by clause (part 1), are met. -/
theorem witness1 :
    (∃ s : State, s.radioCalm ∧ s.radio.held = [] ∧ s.radio.st = .txUhf ∧ s.radio.listenUhf = none ∧ s.radio.sampQual = true) ∧
    (∃ s : State, s.radioCalm ∧ s.radio.held = [] ∧ s.radio.st = .txUhf ∧ s.radio.listenUhf.isSome = true ∧ s.radio.loQual = true ∧ s.radio.calDone = true) ∧
    (∃ s : State, s.radioCalm ∧ s.radio.held = [] ∧ s.radio.st = .txUwb ∧ s.radio.txAt.getD 0 ≤ s.now) ∧
    (∃ s : State, s.radio.st ≠ .txUhf) ∧
    (∃ s : State, (s.radio.st ≠ .txUwb ∨ s.now < s.radio.txAt.getD 0)) := by
  refine ⟨?_, ?_, ?_, ?_, ?_⟩
  · exact ⟨(rd { base with st := .txUhf, txUhf := some [1, 2] }), holds (by unfold State.radioCalm; infer_instance) (by decide +kernel), by decide +kernel⟩
  · exact ⟨(rd { base with st := .txUhf, txUhf := some [1, 2], listenUhf := some 1, loQual := true, calDone := true }), holds (by unfold State.radioCalm; infer_instance) (by decide +kernel), by decide +kernel⟩
  · exact ⟨(rd { base with st := .txUwb, txAt := none }), holds (by unfold State.radioCalm; infer_instance) (by decide +kernel), by decide +kernel⟩
  · exact ⟨(on), by decide +kernel⟩
  · exact ⟨(on), by decide +kernel⟩

/-- The hypotheses of RadioFramesAndRfCommands, clause by clause (part 2), are met. -/
theorem witness2 :
    (∃ s : State, s.radioCalm ∧ s.radio.held = [] ∧ s.radio.st = .rxUhf) ∧
    (∃ p : List Byte, p.length < 256) ∧
    (∃ s : State, s.radioCalm ∧ s.radio.held = [] ∧ s.radio.st = .rxUwb) ∧
    (∃ s : State, s.radio.st ≠ .rxUhf) ∧
    (∃ s : State, s.radio.st ≠ .rxUwb) := by
  refine ⟨?_, ?_, ?_, ?_, ?_⟩
  · exact ⟨(rd { base with st := .rxUhf, loQual := true, calDone := true, listenUhf := some 1, fg := some fgNow }), holds (by unfold State.radioCalm; infer_instance) (by decide +kernel), by decide +kernel⟩
  · exact ⟨([]), by decide +kernel⟩
  · exact ⟨(rd { base with st := .rxUwb, listenUwb := some 5 }), holds (by unfold State.radioCalm; infer_instance) (by decide +kernel), by decide +kernel⟩
  · exact ⟨(on), by decide +kernel⟩
  · exact ⟨(on), by decide +kernel⟩

/-- The hypotheses of RadioFramesAndRfCommands, clause by clause (part 3), are met. -/
theorem witness3 :
    (∃ s : State, s.radioCalm ∧ s.radio.held.length ≤ 8) ∧
    (∃ c : HeldCmd, ∃ t0 : Nat, ∃ s : State, s.radioCalm ∧ s.radio.held = [c] ∧ s.radio.st ≠ .ranging ∧ c.due = some t0 ∧ t0 ≤ s.now + 2000 ∧ (c.op = .sendUwb ∨ c.op = .range)) ∧
    (∃ c : HeldCmd, ∃ t0 : Nat, ∃ s : State, s.radioCalm ∧ s.radio.held = [c] ∧ s.radio.st ≠ .ranging ∧ c.due = some t0 ∧ s.now + 2000 < t0) ∧
    (∃ t0 : Nat, ∃ s : State, s.radioCalm ∧ s.radio.held = [] ∧ s.radio.st = .ranging ∧ s.radio.txAt = some t0 ∧ t0 ≤ s.now + 2000 ∧ s.radio.sampQual = true ∧ s.radio.accept = none ∧ s.radio.calYield = none) ∧
    (∃ mb : Nat, ∃ s : State, Takes s mb 0x0701) := by
  refine ⟨?_, ?_, ?_, ?_, ?_⟩
  · exact ⟨(on), holds (by unfold State.radioCalm; infer_instance) (by decide +kernel), by decide +kernel⟩
  · exact ⟨_, _, (rd { base with held := [ho .sendUwb] }), holds (by unfold State.radioCalm; infer_instance) (by decide +kernel), rfl, by decide +kernel, rfl, by decide +kernel⟩
  · exact ⟨_, _, (rd { base with st := .rxUhf, loQual := true, listenUhf := some 0, held := [hc .sendUhf] }), holds (by unfold State.radioCalm; infer_instance) (by decide +kernel), rfl, by decide +kernel, rfl, by decide +kernel⟩
  · exact ⟨_, (rd { base with st := .ranging, txAt := some 1000000001000, rangeAt := some 999999999999, acceptLeft := 2 }), holds (by unfold State.radioCalm; infer_instance) (by decide +kernel), by decide +kernel, by decide +kernel, rfl, by decide +kernel⟩
  · exact ⟨(0), (put 0 0x0701 [] (rd base)), holds (by unfold Takes Started; infer_instance) (by decide +kernel)⟩

/-- The hypotheses of RadioFramesAndRfCommands, clause by clause (part 4), are met. -/
theorem witness4 :
    (∃ mb : Nat, ∃ s : State, Takes s mb 0x0702 ∧ s.radioCalm ∧ (s.radio.st = .standby ∨ s.radio.st = .rxUhf) ∧ s.radio.loQual = true ∧ s.radio.held.length < 8) ∧
    (∃ mb : Nat, ∃ s : State, Takes s mb 0x0703 ∧ s.radioCalm ∧ s.radio.st = .standby ∧ s.radio.sampQual = true ∧ (s.box mb).committed = false) ∧
    (∃ mb : Nat, ∃ s : State, s.sess.cur = none ∧ s.radio.calMbs = [] ∧ s.radio.testMb = some mb ∧ (s.box mb).st = .issued ∧ (s.box mb).waiting = true ∧ (s.box mb).committed = true ∧ s.radio.testEnd ≤ s.now ∧ s.lf.waiting = []) ∧
    (∃ s : State, (∀ mb, s.radio.testMb = some mb → (s.box mb).committed = false ∨ s.now < s.radio.testEnd)) ∧
    (∃ mb : Nat, ∃ s : State, Takes s mb 0x0704 ∧ s.radioCalm ∧ s.lf.waiting = [] ∧ s.radio.held = [] ∧ (s.radio.st = .standby ∨ s.radio.st = .rxUhf ∨ s.radio.st = .rxUwb) ∧ s.radio.sampQual = true) := by
  refine ⟨?_, ?_, ?_, ?_, ?_⟩
  · exact ⟨(0), (put 0 0x0702 [] (rd { base with loQual := true })), holds (by unfold Takes Started; infer_instance) (by decide +kernel), holds (by unfold State.radioCalm; infer_instance) (by decide +kernel), by decide +kernel⟩
  · exact ⟨(0), (put 0 0x0703 ([1, 0] ++ leInt 2 10 ++ [0, 0] ++ leBytes 2 50) (rd base)), holds (by unfold Takes Started; infer_instance) (by decide +kernel), holds (by unfold State.radioCalm; infer_instance) (by decide +kernel), by decide +kernel⟩
  · exact ⟨_, ((put 0 0x0703 ([0, 0] ++ leInt 2 (-100) ++ [5, 0] ++ leBytes 2 50) (rd { base with testMb := some 0, testEnd := 999999999999, testPower := -200 })).modBox 0 fun b => { b with waiting := true, committed := true }), by decide +kernel, by decide +kernel, rfl, by decide +kernel⟩
  · exact ⟨(on), holds (by letI := @decSome; letI := @decEx; letI := @decPair; letI := @decLanes; letI := @decOthers; letI := @decRank; letI := @decLine; infer_instance) (by decide +kernel)⟩
  · exact ⟨(0), (put 0 0x0704 ([0, 0, 0, 0] ++ leBytes 4 64 ++ leBytes 4 0) (rd base)), holds (by unfold Takes Started; infer_instance) (by decide +kernel), holds (by unfold State.radioCalm; infer_instance) (by decide +kernel), by decide +kernel⟩


end RadioFramesAndRfCommands

namespace RoundsAdmitAndAuthenticate
def tb (l : List (Nat × PartRec)) (s : State) : State := s.modParts fun p => { p with table := l }
def key1 : PartRec := { identity := 0x55, kind := 1, role := 0x10, state := .enrolled, zones := 3, releaseOk := true }
def rd (r : Radio) : State := { on with radio := r, psc := { on.psc with powered := 0x3FFF } }
def base : Radio := { st := .standby, sampQual := true, sampRun := true }
def sIm (s : State) : State := img [(recWake, fieldNo 0 1, 1), (recWake, fieldNo 7 1, 1), (recWake, fieldNo 0 13, 100), (recWake, fieldNo 0 14, 1), (recWake, fieldNo 7 13, 10), (recWake, fieldNo 7 14, 0xFF), (recWake, fieldNo 0 15, 7), (recWake, fieldNo 0 2, 5), (recWake, fieldNo 0 4, 0), (recFieldMap, fieldNo 0 1, 50), (recRanging, fieldNo 0 1, 1)] s
def sr (r : Round) (s : State) : State := sIm { s with sess := { cur := some r, roundSeq := 4 } }
def sb (q : Radio) : State := tb [(3, key1)] (rd q)
def ansP (slot : Nat) (id : Nat) : List Byte := [0x31, BitVec.ofNat 8 slot] ++ beBytes 8 id ++ zeros 3 ++ [0, 5]
def ans1 (slot : Nat) : SlotAns := { slot := slot, identity := 0x55, payload := ansP slot 0x55, motion := 5, rootSlot := 3, role := 0x10, version := 2 }
def rnd : Round := { seq := 4, wakeNs := 999900000000, epoch := 1 }
def rndW (slot : Nat) : Round := { rnd with wakeNs := 1000000000000 - 10300000 - 2000000 * slot - 5 }
def ks : List Byte := zeros 16
def ln : Lane := { k := 0, ans := { ans1 2 with derived := true, key := some ks, cls := 1 }, openNs := 999999000000, opened := true, challenge := 77 }
def ln2 : Lane := { k := 1, ans := { ans1 5 with identity := 0x99 }, openNs := 1000006000000 }
def rl (ls : List Lane) : Round := { rnd with closed := true, lanes := ls, antennas := [4], antenna := 4 }
def rgood (s : State) (r : Round) (l : Lane) : List Byte :=
  let nonce := beBytes 1 0x5A ++ beBytes 12 l.challenge
  [0x33, BitVec.ofNat 8 l.ans.slot] ++ Aes.ccmCrypt ks nonce (zeros 4) ++ Aes.ccmTag ks nonce (s.uhfAad r l.ans) (zeros 4) 8
def opened (s : State) : State := { s with sess := { s.sess with last := some { seq := 3, slots := List.replicate 16 .clean }, recs := [{ roundSeq := 3, identity := 0x55 }, { roundSeq := 3 }], lastBy := [{ roundSeq := 3, identity := 0x55 }] } }
def uf (p : List Byte) : List Byte := (uhfFrame p).drop 5

/-- The hypotheses of RoundsAdmitAndAuthenticate, clause by clause (part 1), are met. -/
theorem witness1 :
    (∃ k : Nat, ∃ s : State, k < 8 ∧ s.pollDue k = true ∧ s.lf.waiting = [] ∧ s.sess.cur.isSome = true ∧ s.inRun) ∧
    (∃ k : Nat, ∃ s : State, (8 ≤ k ∨ s.pollDue k = false)) ∧
    (∃ slot : Nat, ∃ p : Option (List Byte), ∃ r : Round, ∃ s : State, s.sess.cur = some r ∧ r.closed = false ∧ slot < 16 ∧ r.wakeNs + 10300000 + 2000000 * slot ≤ s.now ∧ s.now ≤ r.wakeNs + 10300000 + 2000000 * slot + 2000000 ∧ ∃ f : List Byte, ∃ bs : List Byte, ∃ i : Nat, ∃ q : PartRec, p = some f ∧ uhfPayload f = some bs ∧ isAnswer slot bs = true ∧ r.synced.getD slot false = false ∧ s.recAt (beNat (slice bs 2 8)) = some (i, q) ∧ validIdentity (beNat (slice bs 2 8)) = true ∧ q.state = .enrolled ∧ s.parts.enrol = none) ∧
    (∃ slot : Nat, ∃ p : Option (List Byte), ∃ r : Round, ∃ s : State, s.sess.cur = some r ∧ r.closed = false ∧ slot < 16 ∧ r.wakeNs + 10300000 + 2000000 * slot ≤ s.now ∧ s.now ≤ r.wakeNs + 10300000 + 2000000 * slot + 2000000 ∧ ∃ f, p = some f ∧ (r.synced.getD slot false = true ∨ ∀ bs, uhfPayload f = some bs → isAnswer slot bs = false)) ∧
    (∃ slot : Nat, ∃ r : Round, ∃ s : State, s.sess.cur = some r ∧ r.closed = false ∧ slot < 16 ∧ r.wakeNs + 10300000 + 2000000 * slot ≤ s.now ∧ s.now ≤ r.wakeNs + 10300000 + 2000000 * slot + 2000000 ∧ r.slots.getD slot .empty = .empty) := by
  refine ⟨?_, ?_, ?_, ?_, ?_⟩
  · exact ⟨(0), (sr rnd on), by decide +kernel, by decide +kernel, by decide +kernel, by decide +kernel, holds (by unfold State.inRun; infer_instance) (by decide +kernel)⟩
  · exact ⟨(0), (on), by decide +kernel⟩
  · exact ⟨(2), _, _, (sr (rndW 2) (tb [(3, key1)] on)), rfl, by decide +kernel, by decide +kernel, by decide +kernel, by decide +kernel, (uf (ansP 2 0x55)), _, _, _, rfl, rfl, by decide +kernel, by decide +kernel, rfl, by decide +kernel⟩
  · exact ⟨(2), _, _, (sr (rndW 2) (tb [(3, key1)] on)), rfl, by decide +kernel, by decide +kernel, by decide +kernel, by decide +kernel, (uf (ansP 15 0x55)), rfl, holds (by letI := @decSome; letI := @decEx; letI := @decPair; letI := @decLanes; letI := @decOthers; letI := @decRank; letI := @decLine; infer_instance) (by decide +kernel)⟩
  · exact ⟨(2), _, (sr (rndW 2) (tb [(3, key1)] on)), rfl, by decide +kernel⟩

/-- The hypotheses of RoundsAdmitAndAuthenticate, clause by clause (part 2), are met. -/
theorem witness2 :
    (∃ slot : Nat, ∃ r : Round, ∃ s : State, s.sess.cur = some r ∧ r.closed = false ∧ slot < 16 ∧ r.wakeNs + 10300000 + 2000000 * slot ≤ s.now ∧ s.now ≤ r.wakeNs + 10300000 + 2000000 * slot + 2000000 ∧ r.slots.getD slot .empty ≠ .empty) ∧
    (∃ slot : Nat, ∃ s : State, (∀ r, s.sess.cur = some r → r.closed = true ∨ 16 ≤ slot ∨ s.now < r.wakeNs + 10300000 + 2000000 * slot ∨ r.wakeNs + 10300000 + 2000000 * slot + 2000000 < s.now)) ∧
    (∃ r : Round, ∃ s : State, s.sess.cur = some r ∧ r.closed = false ∧ r.wakeNs + 42300000 ≤ s.now ∧ r.antennas.foldl (fun (u : State) a => u.evalAttach a) s = s ∧ (∀ a, a ∈ r.answers → s.metAnswer a.identity = s) ∧ (∃ a c, a ∈ r.answers ∧ s.judge r a = .rank c)) ∧
    (∃ r : Round, ∃ s : State, s.sess.cur = some r ∧ r.closed = false ∧ r.wakeNs + 42300000 ≤ s.now ∧ r.antennas = [] ∧ r.answers = [] ∧ r.slotsOf .collision = 0 ∧ r.mbs = [] ∧ s.sess.test = none ∧ s.lf.waiting = [] ∧ s.radio.recalDue = false) ∧
    (∃ s : State, (∀ r, s.sess.cur = some r → r.closed = true ∨ s.now < r.wakeNs + 42300000)) := by
  refine ⟨?_, ?_, ?_, ?_, ?_⟩
  · exact ⟨(15), _, (sr { rndW 15 with slots := (List.replicate 16 .empty).set 15 .clean, answers := [ans1 15] } on), rfl, by decide +kernel⟩
  · exact ⟨(0), (on), holds (by letI := @decSome; letI := @decEx; letI := @decPair; letI := @decLanes; letI := @decOthers; letI := @decRank; letI := @decLine; infer_instance) (by decide +kernel)⟩
  · exact ⟨_, sr { rnd with answers := [ans1 2], antennas := [4] } (tb [(3, key1)] on), rfl, by decide +kernel, by decide +kernel, rfl, fun _ ha => by rcases List.mem_singleton.mp ha with rfl; rfl, holds (by letI := @decRank; infer_instance) (by decide +kernel)⟩
  · exact ⟨_, (sr rnd on), rfl, by decide +kernel⟩
  · exact ⟨(on), holds (by letI := @decSome; letI := @decEx; letI := @decPair; letI := @decLanes; letI := @decOthers; letI := @decRank; letI := @decLine; infer_instance) (by decide +kernel)⟩

/-- The state of the response. -/
def atResp : State := sr (rl [ln, ln2]) (sb base)

/-- The response whose tag verifies. -/
def resp : List Byte := rgood atResp (rl [ln, ln2]) ln

/-- Its tag. -/
theorem resp_tag : slice resp 6 8 = Aes.ccmTag ks (beBytes 1 0x5A ++ beBytes 12 ln.challenge) (atResp.uhfAad (rl [ln, ln2]) ln.ans) (zeros 4) 8 :=
  slice_tail (a := [0x33, BitVec.ofNat 8 ln.ans.slot] ++ Aes.ccmCrypt ks (beBytes 1 0x5A ++ beBytes 12 ln.challenge) (zeros 4)) (by decide +kernel) (by decide +kernel)

/-- Its plain text. -/
theorem resp_plain : Aes.ccmCrypt (ln.ans.key.getD []) (beBytes 1 0x5A ++ beBytes 12 ln.challenge) (slice resp 2 4) = zeros 4 := by decide +kernel

/-- It verifies. -/
theorem resp_ok : atResp.responseOk (rl [ln, ln2]) ln resp = true := by
  simp only [State.responseOk, resp_tag, resp_plain]
  exact beq_self_eq_true _

/-- The hypotheses of RoundsAdmitAndAuthenticate, clause by clause (part 3), are met. -/
theorem witness3 :
    (∃ a : SlotAns, ∃ r : Round, ∃ s : State, s.sess.cur = some r ∧ r.answers = [a] ∧ r.lanes = [] ∧ a.derived = false) ∧
    (∃ r : Round, ∃ l : Lane, ∃ s : State, s.sess.cur = some r ∧ r.closed = true ∧ r.lanes.find? (fun x => x.outcome.isNone) = some l ∧ r.lanes[l.k]? = some l ∧ l.opened = false ∧ l.openNs ≤ s.now ∧ l.ans.derived = true ∧ l.aborted = false ∧ (∀ x, x ∈ r.lanes → x.dead = false) ∧ l.noKey = false ∧ l.ans.key.isSome = true ∧ s.crypt.sealed = false ∧ s.radio.testMb = none ∧ (s.radio.st = .standby ∨ s.radio.st = .rxUhf) ∧ s.radio.sampQual = true) ∧
    (∃ r : Round, ∃ l : Lane, ∃ s : State, s.sess.cur = some r ∧ r.closed = true ∧ r.lanes.find? (fun x => x.outcome.isNone) = some l ∧ r.lanes[l.k]? = some l ∧ l.opened = false ∧ l.openNs ≤ s.now ∧ l.ans.derived = true ∧ l.aborted = false ∧ (∀ x, x ∈ r.lanes → x.dead = false) ∧ (l.noKey = true ∨ l.ans.key = none ∨ s.crypt.sealed = true) ∧ r.othersRun l.k ∧ l.record = none) ∧
    (∃ r : Round, ∃ l : Lane, ∃ f : List Byte, ∃ p : List Byte, ∃ s : State, s.laneRuns r l ∧ l.verified = false ∧ s.now ≤ l.openNs + 4000000 ∧ uhfPayload f = some p ∧ isResponse l.ans.slot p = true ∧ s.responseOk r l p = true ∧ (s.radio.st = .standby ∨ s.radio.st = .rxUhf) ∧ s.radio.sampQual = true ∧ s.now + s.rangeLead ≤ l.openNs + 4000000) ∧
    (∃ r : Round, ∃ l : Lane, ∃ f : List Byte, ∃ p : List Byte, ∃ s : State, s.laneRuns r l ∧ l.verified = false ∧ s.now ≤ l.openNs + 4000000 ∧ uhfPayload f = some p ∧ isResponse l.ans.slot p = true ∧ ∃ i, ∃ q, s.responseOk r l p = false ∧ s.radio.st ≠ .ranging ∧ s.radio.held = [] ∧ r.othersRun l.k ∧ l.record = none ∧ s.recAt l.ans.identity = some (i, q) ∧ r.antenna < s.parts.attach.length) := by
  refine ⟨?_, ?_, ?_, ?_, ?_⟩
  · exact ⟨_, _, (sr { rndW 15 with slots := (List.replicate 16 .empty).set 15 .clean, answers := [ans1 15] } on), rfl, rfl, by decide +kernel⟩
  · exact ⟨_, _, (sr (rl [{ ln with opened := false }]) (sb base)), rfl, by decide +kernel, rfl, by decide +kernel, by decide +kernel, by decide +kernel, by decide +kernel, by decide +kernel, holds (by letI := @decSome; letI := @decEx; letI := @decPair; letI := @decLanes; letI := @decOthers; letI := @decRank; letI := @decLine; infer_instance) (by decide +kernel), by decide +kernel⟩
  · exact ⟨_, _, (sr (rl [{ ln with opened := false, noKey := true }, ln2]) (sb base)), rfl, by decide +kernel, rfl, by decide +kernel, by decide +kernel, by decide +kernel, by decide +kernel, by decide +kernel, holds (by letI := @decSome; letI := @decEx; letI := @decPair; letI := @decLanes; letI := @decOthers; letI := @decRank; letI := @decLine; infer_instance) (by decide +kernel), by decide +kernel, holds (by unfold Round.othersRun; letI := @decSome; letI := @decEx; letI := @decPair; letI := @decLanes; letI := @decOthers; letI := @decRank; letI := @decLine; infer_instance) (by decide +kernel), by decide +kernel⟩
  · exact ⟨rl [ln, ln2], ln, uf resp, resp, atResp, holds (by unfold State.laneRuns; letI := @decSome; letI := @decLanes; infer_instance) (by decide +kernel), by decide +kernel, by decide +kernel, uhfPayload_frame resp 14 (by decide +kernel) (by decide), by decide +kernel, resp_ok, by decide +kernel⟩
  · exact ⟨(rl [{ ln with ans := { ln.ans with key := none } }, ln2]), ({ ln with ans := { ln.ans with key := none } }), (uf ([0x33, 2] ++ zeros 12)), _, (sr (rl [{ ln with ans := { ln.ans with key := none } }, ln2]) (sb base)), holds (by unfold State.laneRuns; letI := @decSome; letI := @decEx; letI := @decPair; letI := @decLanes; letI := @decOthers; letI := @decRank; letI := @decLine; infer_instance) (by decide +kernel), by decide +kernel, by decide +kernel, rfl, by decide +kernel, _, _, by decide +kernel, by decide +kernel, by decide +kernel, holds (by unfold Round.othersRun; letI := @decSome; letI := @decEx; letI := @decPair; letI := @decLanes; letI := @decOthers; letI := @decRank; letI := @decLine; infer_instance) (by decide +kernel), by decide +kernel, rfl, by decide +kernel⟩

/-- The hypotheses of RoundsAdmitAndAuthenticate, clause by clause (part 4), are met. -/
theorem witness4 :
    (∃ r : Round, ∃ l : Lane, ∃ f : List Byte, ∃ s : State, s.laneRuns r l ∧ l.verified = false ∧ (l.openNs + 4000000 < s.now ∨ ∀ p, uhfPayload f = some p → isResponse l.ans.slot p = false)) ∧
    (∃ r : Round, ∃ l : Lane, ∃ s : State, s.laneRuns r l ∧ l.verified = false ∧ l.openNs + 4000000 ≤ s.now ∧ s.radio.st ≠ .ranging ∧ s.radio.held = [] ∧ r.othersRun l.k ∧ l.record = none) ∧
    (∃ r : Round, ∃ l : Lane, ∃ s : State, s.laneRuns r l ∧ l.verified = false ∧ s.now < l.openNs + 4000000) ∧
    (∃ mb : Nat, ∃ s : State, Takes s mb 0x0401 ∧ s.lf.waiting = [] ∧ s.sess.cur.isSome = true ∧ s.inRun) ∧
    (∃ mb : Nat, ∃ s : State, Takes s mb 0x0402) := by
  refine ⟨?_, ?_, ?_, ?_, ?_⟩
  · exact ⟨((rl [ln, ln2])), (ln), (uf (ansP 2 0x55)), (sr (rl [ln, ln2]) (sb base)), holds (by unfold State.laneRuns; letI := @decSome; letI := @decEx; letI := @decPair; letI := @decLanes; letI := @decOthers; letI := @decRank; letI := @decLine; infer_instance) (by decide +kernel), by decide +kernel, holds (by letI := @decSome; letI := @decEx; letI := @decPair; letI := @decLanes; letI := @decOthers; letI := @decRank; letI := @decLine; infer_instance) (by decide +kernel)⟩
  · exact ⟨((rl [{ ln with openNs := 997000000000 }, ln2])), ({ ln with openNs := 997000000000 }), (sr (rl [{ ln with openNs := 997000000000 }, ln2]) (sb base)), holds (by unfold State.laneRuns; letI := @decSome; letI := @decEx; letI := @decPair; letI := @decLanes; letI := @decOthers; letI := @decRank; letI := @decLine; infer_instance) (by decide +kernel), by decide +kernel, by decide +kernel, by decide +kernel, by decide +kernel, holds (by unfold Round.othersRun; letI := @decSome; letI := @decEx; letI := @decPair; letI := @decLanes; letI := @decOthers; letI := @decRank; letI := @decLine; infer_instance) (by decide +kernel), by decide +kernel⟩
  · exact ⟨((rl [ln, ln2])), (ln), (sr (rl [ln, ln2]) (sb base)), holds (by unfold State.laneRuns; letI := @decSome; letI := @decEx; letI := @decPair; letI := @decLanes; letI := @decOthers; letI := @decRank; letI := @decLine; infer_instance) (by decide +kernel), by decide +kernel⟩
  · exact ⟨(0), (put 0 0x0401 [0, 0, 0, 0] (sr rnd on)), holds (by unfold Takes Started; infer_instance) (by decide +kernel), by decide +kernel, by decide +kernel, holds (by unfold State.inRun; infer_instance) (by decide +kernel)⟩
  · exact ⟨(0), (put 0 0x0402 [] (opened (sr rnd on))), holds (by unfold Takes Started; infer_instance) (by decide +kernel)⟩

/-- The hypotheses of RoundsAdmitAndAuthenticate, clause by clause (part 5), are met. -/
theorem witness5 :
    (∃ mb : Nat, ∃ s : State, Takes s mb 0x0403) := by
  exact ⟨(0), (put 0 0x0403 (leBytes 8 0x55) (opened (sr rnd on))), holds (by unfold Takes Started; infer_instance) (by decide +kernel)⟩


end RoundsAdmitAndAuthenticate

namespace RangingExchangesDecide
def tb (l : List (Nat × PartRec)) (s : State) : State := s.modParts fun p => { p with table := l }
def key1 : PartRec := { identity := 0x55, kind := 1, role := 0x10, state := .enrolled, zones := 3, releaseOk := true }
def rd (r : Radio) : State := { on with radio := r, psc := { on.psc with powered := 0x3FFF } }
def base : Radio := { st := .standby, sampQual := true, sampRun := true }
def lp : LoopResult := { ns := 999999999999, epoch := 1, temp := 250, dA := 5, dB := 6 }
def sIm (s : State) : State := img [(recWake, fieldNo 0 1, 1), (recWake, fieldNo 7 1, 1), (recWake, fieldNo 0 13, 100), (recWake, fieldNo 0 14, 1), (recWake, fieldNo 7 13, 10), (recWake, fieldNo 7 14, 0xFF), (recWake, fieldNo 0 15, 7), (recWake, fieldNo 0 2, 5), (recWake, fieldNo 0 4, 0), (recFieldMap, fieldNo 0 1, 50), (recRanging, fieldNo 0 1, 1)] s
def sr (r : Round) (s : State) : State := sIm { s with sess := { cur := some r, roundSeq := 4 } }
def sb (q : Radio) : State := tb [(3, key1)] (rd q)
def ansP (slot : Nat) (id : Nat) : List Byte := [0x31, BitVec.ofNat 8 slot] ++ beBytes 8 id ++ zeros 3 ++ [0, 5]
def ans1 (slot : Nat) : SlotAns := { slot := slot, identity := 0x55, payload := ansP slot 0x55, motion := 5, rootSlot := 3, role := 0x10, version := 2 }
def rnd : Round := { seq := 4, wakeNs := 999900000000, epoch := 1 }
def ks : List Byte := zeros 16
def ln : Lane := { k := 0, ans := { ans1 2 with derived := true, key := some ks, cls := 1 }, openNs := 999999000000, opened := true, challenge := 77 }
def ln2 : Lane := { k := 1, ans := { ans1 5 with identity := 0x99 }, openNs := 1000006000000 }
def rl (ls : List Lane) : Round := { rnd with closed := true, lanes := ls, antennas := [4], antenna := 4 }
def cirG : Cir := [(0, 0), (1, 0), (20, 0), (1, 0), (0, 0)]
def cirL : Cir := [(0, 0), (0, 0), (0, 0), (0, 0), (0, 0), (0, 0), (0, 0), (0, 0), (1, 0), (20, 0), (1, 0)]
def recG : Reception := { tap0 := 1000000, syncA := cirG, syncB := cirG, stsA := cirG, stsB := cirG, subA := [cirG, cirG, cirG, cirG], subB := [cirG, cirG, cirG, cirG] }
def recBad : Reception := { recG with syncA := cirL, syncB := cirL }
def rgng : Radio := { base with st := .ranging, accept := some lp, loop := some lp, rangeAt := some 999999000000 }
def lv : Lane := { ln with verified := true, record := some {} }
def lv1 : Lane := { lv with attempt := 1, pollDue := false, t1 := 5000, openNs := 1000000000000 - attemptNs 1 - 350000, record := some { roundSeq := 4 } }
def lv2 : Lane := { lv1 with attempt := 2, openNs := 1000000000000 - attemptNs 2 - 350000 }
def lr : Lane := { lv1 with haveResp := true, t4 := 200000 }
def lf1 : Lane := { lr with openNs := 1000000000000 - attemptNs 1 - 1100000, haveFinal := true, t5 := 400000, loop := some lp, record := some { roundSeq := 4, ra1 := 195000, db2 := 200000 } }
def rep (l : Lane) (body : List Byte) : List Byte :=
  let nonce := beBytes 1 0x5B ++ beBytes 12 l.challenge
  [0x41, BitVec.ofNat 8 l.attempt] ++ Aes.ccmCrypt ks nonce body ++ Aes.ccmTag ks nonce (leBytes 8 Config.deviceIdentity ++ leBytes 8 l.ans.identity ++ [0x41, BitVec.ofNat 8 l.attempt]) body 8
def bodyG : List Byte := leBytes 4 195000 ++ leBytes 4 200000 ++ zeros 25
def bodyK : List Byte := leBytes 4 195000 ++ leBytes 4 200000 ++ [1] ++ zeros 24
def opened (s : State) : State := { s with sess := { s.sess with last := some { seq := 3, slots := List.replicate 16 .clean }, ranges := [{ roundSeq := 3 }] } }

/-- The hypotheses of RangingExchangesDecide, clause by clause (part 1), are met. -/
theorem witness1 :
    (∃ r : Round, ∃ l : Lane, ∃ s : State, s.laneRuns r l ∧ l.verified = true ∧ l.pollDue = true ∧ l.openNs + attemptNs (l.attempt + 1) ≤ s.now ∧ s.radio.st = .ranging ∧ s.radio.sampQual = true ∧ s.radio.accept.isSome = true) ∧
    (∃ r : Round, ∃ l : Lane, ∃ s : State, s.laneRuns r l ∧ l.verified = true ∧ (l.pollDue = false ∨ s.now < l.openNs + attemptNs (l.attempt + 1) ∨ s.radio.st ≠ .ranging ∨ s.radio.sampQual = false ∨ s.radio.accept = none)) ∧
    (∃ m : Reception, ∃ r : Round, ∃ l : Lane, ∃ s : State, s.laneRuns r l ∧ l.verified = true ∧ l.pollDue = false ∧ l.haveResp = false ∧ 0 < l.attempt ∧ l.openNs + attemptNs l.attempt + 330000 ≤ s.now ∧ ((usableChains m).1 = true ∨ (usableChains m).2 = true) ∧ c1Any m = false ∧ c2Any m = false ∧ s.now ≤ l.openNs + attemptNs l.attempt + 390000) ∧
    (∃ m : Reception, ∃ r : Round, ∃ l : Lane, ∃ s : State, s.laneRuns r l ∧ l.verified = true ∧ l.pollDue = false ∧ l.haveResp = false ∧ 0 < l.attempt ∧ l.openNs + attemptNs l.attempt + 330000 ≤ s.now ∧ ∃ i, ∃ q, ∃ g, ((usableChains m).1 = true ∨ (usableChains m).2 = true) ∧ (c1Any m = true ∨ c2Any m = true) ∧ s.now ≤ l.openNs + attemptNs l.attempt + 390000 ∧ s.radio.extHeld = false ∧ s.radioFree ∧ s.radio.st = .ranging ∧ r.othersRun l.k ∧ s.sess.test = none ∧ s.recAt l.ans.identity = some (i, q) ∧ l.record = some g) ∧
    (∃ m : Reception, ∃ r : Round, ∃ l : Lane, ∃ s : State, s.laneRuns r l ∧ l.verified = true ∧ l.pollDue = false ∧ l.haveResp = false ∧ 0 < l.attempt ∧ l.openNs + attemptNs l.attempt + 330000 ≤ s.now ∧ (((usableChains m).1 = false ∧ (usableChains m).2 = false) ∨ l.openNs + attemptNs l.attempt + 390000 < s.now) ∧ l.attempt = 1) := by
  refine ⟨?_, ?_, ?_, ?_, ?_⟩
  · exact ⟨((rl [{ lv with openNs := 995999000000 }, ln2])), ({ lv with openNs := 995999000000 }), (sr (rl [{ lv with openNs := 995999000000 }, ln2]) (sb rgng)), holds (by unfold State.laneRuns; letI := @decSome; letI := @decEx; letI := @decPair; letI := @decLanes; letI := @decOthers; letI := @decRank; letI := @decLine; infer_instance) (by decide +kernel), by decide +kernel⟩
  · exact ⟨((rl [{ lv with openNs := 995999000000 }, ln2])), ({ lv with openNs := 995999000000 }), (sr (rl [{ lv with openNs := 995999000000 }, ln2]) (sb { rgng with accept := none })), holds (by unfold State.laneRuns; letI := @decSome; letI := @decEx; letI := @decPair; letI := @decLanes; letI := @decOthers; letI := @decRank; letI := @decLine; infer_instance) (by decide +kernel), by decide +kernel⟩
  · exact ⟨(recG), ((rl [lv1, ln2])), (lv1), (sr (rl [lv1, ln2]) (sb rgng)), holds (by unfold State.laneRuns; letI := @decSome; letI := @decEx; letI := @decPair; letI := @decLanes; letI := @decOthers; letI := @decRank; letI := @decLine; infer_instance) (by decide +kernel), by decide +kernel⟩
  · exact ⟨(recBad), ((rl [lv1, ln2])), (lv1), (sr (rl [lv1, ln2]) (sb rgng)), holds (by unfold State.laneRuns; letI := @decSome; letI := @decEx; letI := @decPair; letI := @decLanes; letI := @decOthers; letI := @decRank; letI := @decLine; infer_instance) (by decide +kernel), by decide +kernel, by decide +kernel, by decide +kernel, by decide +kernel, by decide +kernel, _, _, _, by decide +kernel, by decide +kernel, by decide +kernel, by decide +kernel, holds (by unfold State.radioFree; infer_instance) (by decide +kernel), by decide +kernel, holds (by unfold Round.othersRun; letI := @decSome; letI := @decEx; letI := @decPair; letI := @decLanes; letI := @decOthers; letI := @decRank; letI := @decLine; infer_instance) (by decide +kernel), by decide +kernel, rfl, rfl⟩
  · exact ⟨(recG), ((rl [{ lv1 with openNs := 995600000000 }, ln2])), ({ lv1 with openNs := 995600000000 }), (sr (rl [{ lv1 with openNs := 995600000000 }, ln2]) (sb rgng)), holds (by unfold State.laneRuns; letI := @decSome; letI := @decEx; letI := @decPair; letI := @decLanes; letI := @decOthers; letI := @decRank; letI := @decLine; infer_instance) (by decide +kernel), by decide +kernel⟩

/-- The hypotheses of RangingExchangesDecide, clause by clause (part 2), are met. -/
theorem witness2 :
    (∃ t0 : Nat, ∃ r : Round, ∃ l : Lane, ∃ g : RangeRec, ∃ s : State, s.laneRuns r l ∧ l.verified = true ∧ l.haveResp = true ∧ l.haveFinal = false ∧ s.radio.st = .ranging ∧ s.radio.sampQual = true ∧ l.record = some g ∧ s.radio.txAt = some t0 ∧ t0 ≤ s.now) ∧
    (∃ r : Round, ∃ l : Lane, ∃ s : State, s.laneRuns r l ∧ l.verified = true ∧ l.windowOver s.now = false) ∧
    (∃ r : Round, ∃ l : Lane, ∃ s : State, s.laneRuns r l ∧ l.verified = true ∧ l.windowOver s.now = true ∧ l.attempt = 1) ∧
    (∃ r : Round, ∃ l : Lane, ∃ s : State, s.laneRuns r l ∧ l.verified = true ∧ l.windowOver s.now = true ∧ l.attempt = 2 ∧ s.radioFree ∧ s.radio.st = .ranging ∧ r.othersRun l.k ∧ s.sess.test = none) ∧
    (∃ r : Round, ∃ l : Lane, ∃ p : List Byte, ∃ g0 : RangeRec, ∃ i : Nat, ∃ q : PartRec, ∃ s : State, s.laneRuns r l ∧ l.verified = true ∧ l.haveFinal = true ∧ l.pollDue = false ∧ l.openNs + attemptNs l.attempt + 1080000 ≤ s.now ∧ s.now ≤ l.openNs + attemptNs l.attempt + 1140000 ∧ isReport l.attempt p = true ∧ s.radio.extHeld = false ∧ s.radioFree ∧ s.radio.st = .ranging ∧ r.othersRun l.k ∧ s.sess.test = none ∧ s.parts.enrol = none ∧ l.record = some g0 ∧ s.recAt l.ans.identity = some (i, q) ∧ q.state = .enrolled ∧ q.role ≠ 0x11 ∧ reportOk l p = false) := by
  refine ⟨?_, ?_, ?_, ?_, ?_⟩
  · exact ⟨_, ((rl [lr, ln2])), (lr), _, (sr (rl [lr, ln2]) (sb { rgng with txAt := some 999999999999 })), holds (by unfold State.laneRuns; letI := @decSome; letI := @decEx; letI := @decPair; letI := @decLanes; letI := @decOthers; letI := @decRank; letI := @decLine; infer_instance) (by decide +kernel), by decide +kernel, by decide +kernel, by decide +kernel, by decide +kernel, by decide +kernel, rfl, rfl, by decide +kernel⟩
  · exact ⟨((rl [{ lv with openNs := 995999000000 }, ln2])), ({ lv with openNs := 995999000000 }), (sr (rl [{ lv with openNs := 995999000000 }, ln2]) (sb rgng)), holds (by unfold State.laneRuns; letI := @decSome; letI := @decEx; letI := @decPair; letI := @decLanes; letI := @decOthers; letI := @decRank; letI := @decLine; infer_instance) (by decide +kernel), by decide +kernel⟩
  · exact ⟨((rl [{ lv1 with openNs := 995600000000 }, ln2])), ({ lv1 with openNs := 995600000000 }), (sr (rl [{ lv1 with openNs := 995600000000 }, ln2]) (sb rgng)), holds (by unfold State.laneRuns; letI := @decSome; letI := @decEx; letI := @decPair; letI := @decLanes; letI := @decOthers; letI := @decRank; letI := @decLine; infer_instance) (by decide +kernel), by decide +kernel⟩
  · exact ⟨((rl [{ lv2 with openNs := 993000000000 }, ln2])), ({ lv2 with openNs := 993000000000 }), (sr (rl [{ lv2 with openNs := 993000000000 }, ln2]) (sb rgng)), holds (by unfold State.laneRuns; letI := @decSome; letI := @decEx; letI := @decPair; letI := @decLanes; letI := @decOthers; letI := @decRank; letI := @decLine; infer_instance) (by decide +kernel), by decide +kernel, by decide +kernel, by decide +kernel, holds (by unfold State.radioFree; infer_instance) (by decide +kernel), by decide +kernel, holds (by unfold Round.othersRun; letI := @decSome; letI := @decEx; letI := @decPair; letI := @decLanes; letI := @decOthers; letI := @decRank; letI := @decLine; infer_instance) (by decide +kernel), by decide +kernel⟩
  · exact ⟨(rl [{ lf1 with ans := { lf1.ans with key := none } }, ln2]), ({ lf1 with ans := { lf1.ans with key := none } }), ([0x41, 1] ++ zeros 41), _, _, _, (sr (rl [{ lf1 with ans := { lf1.ans with key := none } }, ln2]) (sb rgng)), holds (by unfold State.laneRuns; letI := @decSome; letI := @decEx; letI := @decPair; letI := @decLanes; letI := @decOthers; letI := @decRank; letI := @decLine; infer_instance) (by decide +kernel), by decide +kernel, by decide +kernel, by decide +kernel, by decide +kernel, by decide +kernel, by decide +kernel, by decide +kernel, holds (by unfold State.radioFree; infer_instance) (by decide +kernel), by decide +kernel, holds (by unfold Round.othersRun; letI := @decSome; letI := @decEx; letI := @decPair; letI := @decLanes; letI := @decOthers; letI := @decRank; letI := @decLine; infer_instance) (by decide +kernel), by decide +kernel, by decide +kernel, rfl, rfl, by decide +kernel⟩

/-- The bytes of a REPORT before its tag. -/
def repHead (body : List Byte) : List Byte :=
  [0x41, BitVec.ofNat 8 lf1.attempt] ++ Aes.ccmCrypt ks (beBytes 1 0x5B ++ beBytes 12 lf1.challenge) body

/-- A REPORT whose plain text and lengths are as they should be verifies. -/
theorem rep_ok (body : List Byte) (h1 : (repHead body).length = 35) (h2 : slice (rep lf1 body) 0 2 = [0x41, BitVec.ofNat 8 lf1.attempt])
    (h3 : reportPlain lf1 (rep lf1 body) = body)
    (h4 : (Aes.ccmTag ks (beBytes 1 0x5B ++ beBytes 12 lf1.challenge) (leBytes 8 Config.deviceIdentity ++ leBytes 8 lf1.ans.identity ++
      [0x41, BitVec.ofNat 8 lf1.attempt]) body 8).length = 8) : reportOk lf1 (rep lf1 body) = true := by
  have ht : slice (rep lf1 body) 35 8 = Aes.ccmTag ks (beBytes 1 0x5B ++ beBytes 12 lf1.challenge) (leBytes 8 Config.deviceIdentity ++
      leBytes 8 lf1.ans.identity ++ [0x41, BitVec.ofNat 8 lf1.attempt]) body 8 := slice_tail (a := repHead body) h1 h4
  simp only [reportOk, h2, h3, ht]
  exact beq_self_eq_true _

/-- The hypotheses of RangingExchangesDecide, clause by clause (part 3), are met. -/
theorem witness3 :
    (∃ r : Round, ∃ l : Lane, ∃ p : List Byte, ∃ g0 : RangeRec, ∃ i : Nat, ∃ q : PartRec, ∃ s : State, s.laneRuns r l ∧ l.verified = true ∧ l.haveFinal = true ∧ l.pollDue = false ∧ l.openNs + attemptNs l.attempt + 1080000 ≤ s.now ∧ s.now ≤ l.openNs + attemptNs l.attempt + 1140000 ∧ isReport l.attempt p = true ∧ s.radio.extHeld = false ∧ s.radioFree ∧ s.radio.st = .ranging ∧ r.othersRun l.k ∧ s.sess.test = none ∧ s.parts.enrol = none ∧ l.record = some g0 ∧ s.recAt l.ans.identity = some (i, q) ∧ q.state = .enrolled ∧ q.role ≠ 0x11 ∧ ∃ g, reportOk l p = true ∧ g = s.fillRecord r l (reportPlain l p) g0 ∧ clockOk g.ra1 g.db2 g.db1 g.ra2 = true ∧ s.reportChecks r l (reportPlain l p) g = none) ∧
    (∃ r : Round, ∃ l : Lane, ∃ p : List Byte, ∃ g0 : RangeRec, ∃ i : Nat, ∃ q : PartRec, ∃ s : State, s.laneRuns r l ∧ l.verified = true ∧ l.haveFinal = true ∧ l.pollDue = false ∧ l.openNs + attemptNs l.attempt + 1080000 ≤ s.now ∧ s.now ≤ l.openNs + attemptNs l.attempt + 1140000 ∧ isReport l.attempt p = true ∧ s.radio.extHeld = false ∧ s.radioFree ∧ s.radio.st = .ranging ∧ r.othersRun l.k ∧ s.sess.test = none ∧ s.parts.enrol = none ∧ l.record = some g0 ∧ s.recAt l.ans.identity = some (i, q) ∧ q.state = .enrolled ∧ q.role ≠ 0x11 ∧ ∃ g, ∃ f, reportOk l p = true ∧ g = s.fillRecord r l (reportPlain l p) g0 ∧ clockOk g.ra1 g.db2 g.db1 g.ra2 = true ∧ s.reportChecks r l (reportPlain l p) g = some f) ∧
    (∃ r : Round, ∃ l : Lane, ∃ s : State, s.laneRuns r l ∧ l.verified = true ∧ l.haveFinal = true ∧ l.pollDue = false ∧ l.openNs + attemptNs l.attempt + 1080000 ≤ s.now ∧ l.attempt = 1) ∧
    (∃ t : Int, 0 ≤ t) ∧
    (∃ mb : Nat, ∃ s : State, Takes s mb 0x0501) := by
  refine ⟨?_, ?_, ?_, ?_, ?_⟩
  · exact ⟨rl [lf1, ln2], lf1, rep lf1 bodyG, _, _, _, sr (rl [lf1, ln2]) (sb rgng), holds (by unfold State.laneRuns; letI := @decSome; letI := @decLanes; infer_instance) (by decide +kernel), by decide +kernel, by decide +kernel, by decide +kernel, by decide +kernel, by decide +kernel, by decide +kernel, by decide +kernel, holds (by unfold State.radioFree; infer_instance) (by decide +kernel), by decide +kernel, holds (by unfold Round.othersRun; letI := @decOthers; infer_instance) (by decide +kernel), by decide +kernel, by decide +kernel, rfl, rfl, by decide +kernel, by decide +kernel, _, rep_ok bodyG (by decide +kernel) (by decide +kernel) (by decide +kernel) (by decide +kernel), rfl, by decide +kernel, by decide +kernel⟩
  · exact ⟨rl [lf1, ln2], lf1, rep lf1 bodyK, _, _, _, sr (rl [lf1, ln2]) (sb rgng), holds (by unfold State.laneRuns; letI := @decSome; letI := @decLanes; infer_instance) (by decide +kernel), by decide +kernel, by decide +kernel, by decide +kernel, by decide +kernel, by decide +kernel, by decide +kernel, by decide +kernel, holds (by unfold State.radioFree; infer_instance) (by decide +kernel), by decide +kernel, holds (by unfold Round.othersRun; letI := @decOthers; infer_instance) (by decide +kernel), by decide +kernel, by decide +kernel, rfl, rfl, by decide +kernel, by decide +kernel, _, _, rep_ok bodyK (by decide +kernel) (by decide +kernel) (by decide +kernel) (by decide +kernel), rfl, by decide +kernel, rfl⟩
  · exact ⟨((rl [lf1, ln2])), (lf1), (sr (rl [lf1, ln2]) (sb rgng)), holds (by unfold State.laneRuns; letI := @decSome; letI := @decEx; letI := @decPair; letI := @decLanes; letI := @decOthers; letI := @decRank; letI := @decLine; infer_instance) (by decide +kernel), by decide +kernel⟩
  · exact ⟨(0), by decide +kernel⟩
  · exact ⟨(0), (put 0 0x0501 [] (opened on)), holds (by unfold Takes Started; infer_instance) (by decide +kernel)⟩

/-- The hypotheses of RangingExchangesDecide, clause by clause (part 4), are met. -/
theorem witness4 :
    (∃ mb : Nat, ∃ s : State, Takes s mb 0x0502 ∧ s.lf.waiting = [] ∧ s.sess.cur.isSome = true ∧ s.inRun) := by
  exact ⟨(0), (put 0 0x0502 (leBytes 8 0x55 ++ [0, 0] ++ leBytes 2 5 ++ leBytes 4 1000 ++ leBytes 4 0) (sr rnd (tb [(3, key1)] on))), holds (by unfold Takes Started; infer_instance) (by decide +kernel), by decide +kernel, by decide +kernel, holds (by unfold State.inRun; infer_instance) (by decide +kernel)⟩


end RangingExchangesDecide

namespace DecisionFollowsItsTransitions
def tb (l : List (Nat × PartRec)) (s : State) : State := s.modParts fun p => { p with table := l }
def key1 : PartRec := { identity := 0x55, kind := 1, role := 0x10, state := .enrolled, zones := 3, releaseOk := true }
def ru : Rel := { sstlA := true, sstlB := true, still := some 900000000000, quiet := some 900000000000 }
def rs (r : Rel) (s : State) : State := { s with rel := r, met := { s.met with meanOk := true, balance := 5 } }
def noRule (r : Rel) : Rel := { r with quiet := none }
def pop0 : PopRec := { verdict := 0, epoch := 1, endNs := 999000000000, entries := List.replicate 48 0 }
def pr1 : Presence := { identity := 0x55, zones := 1, ns := 999900000000, epoch := 1, roundSeq := 3 }
def wt (s : State) : State := s.modBox 0 fun b => { b with waiting := true, committed := true }

/-- The hypotheses of DecisionFollowsItsTransitions, clause by clause (part 1), are met. -/
theorem witness1 :
    (∃ s : State, (s.psc.state ≠ .drift ∨ s.psc.entry = none)) ∧
    (∃ s : State, s.rel.st = .released ∧ s.rel.storage = false ∧ s.served ∧ (s.psc.state ≠ .drift ∨ s.psc.entry = none) ∧ s.met.n < 128) ∧
    (∃ s : State, ∃ t0, s.rel.disagree = some t0 ∧ t0 + 5000000000 < s.now ∧ s.rel.storage = false ∧ s.rel.sstlCond = false) ∧
    (∃ s : State, (s.rel.storage = true ∨ s.rel.sstlCond = true ∨ ∀ t0, s.rel.disagree = some t0 → s.now ≤ t0 + 5000000000)) ∧
    (∃ s : State, s.psc.state = .nunatakHold) := by
  refine ⟨?_, ?_, ?_, ?_, ?_⟩
  · exact ⟨(on), by decide +kernel⟩
  · exact ⟨(rs { ru with st := .released, latch := true, since := 500000000 } on), by decide +kernel, by decide +kernel, holds (by unfold State.served; infer_instance) (by decide +kernel), by decide +kernel⟩
  · exact ⟨(rs { ru with sstlB := false, still := none, disagree := some 900000000000 } on), _, rfl, by decide +kernel⟩
  · exact ⟨(on), holds (by letI := @decSome; letI := @decEx; letI := @decPair; letI := @decLanes; letI := @decOthers; letI := @decRank; letI := @decLine; infer_instance) (by decide +kernel)⟩
  · exact ⟨({ rs { ru with st := .revoking, latch := true } on with psc := { on.psc with state := .nunatakHold } }), by decide +kernel⟩

/-- The hypotheses of DecisionFollowsItsTransitions, clause by clause (part 2), are met. -/
theorem witness2 :
    (∃ s : State, s.psc.state ≠ .nunatakHold ∧ s.served ∧ s.rel.clearing = true ∧ s.rel.latch = false ∧ s.rel.consent = false) ∧
    (∃ p : Presence, ∃ s : State, s.psc.state ≠ .nunatakHold ∧ s.served ∧ s.rel.st = .armed ∧ s.rel.latch = false ∧ s.rel.clearing = false ∧ s.rel.causes = 0 ∧ s.cfgB recRelease 1 = s.rel.storage ∧ s.rel.consent = true ∧ s.tamperClear = true ∧ s.creditReady = true ∧ s.decisionPlaced = true ∧ s.popReady = true ∧ s.qualifying = some p ∧ s.moving = false) ∧
    (∃ s : State, s.rel.st = .released ∧ s.cfgN recRelease 4 ≠ 0 ∧ s.rel.since + s.cfgN recRelease 4 * 1000000000 ≤ s.now) ∧
    (∃ s : State, (s.rel.st ≠ .released ∨ s.cfgN recRelease 4 = 0 ∨ s.now < s.rel.since + s.cfgN recRelease 4 * 1000000000)) ∧
    (∃ s : State, s.rel.st = .revoking ∧ s.rel.clearing = false ∧ s.rolePlaced .decision = true ∧ s.noticeOver = true ∧ s.rule226 = true) := by
  refine ⟨?_, ?_, ?_, ?_, ?_⟩
  · exact ⟨(rs { ru with st := .revoking, latch := false, clearing := true, causes := 1 } on), by decide +kernel, holds (by unfold State.served; infer_instance) (by decide +kernel), by decide +kernel⟩
  · exact ⟨_, ({ rs { ru with st := .armed, consent := true, presence := [pr1] } (tb [(3, key1)] on) with pop := { latest := some pop0 } }), by decide +kernel, holds (by unfold State.served; infer_instance) (by decide +kernel), by decide +kernel, by decide +kernel, by decide +kernel, by decide +kernel, by decide +kernel, by decide +kernel, by decide +kernel, by decide +kernel, by decide +kernel, by decide +kernel, rfl, by decide +kernel⟩
  · exact ⟨(rs { ru with st := .released, latch := true, since := 500000000, sstlA := false } { on with tbu := { on.tbu with ns := 2000000000000 } }), by decide +kernel⟩
  · exact ⟨(on), by decide +kernel⟩
  · exact ⟨(rs { ru with st := .revoking, latch := true, causes := 1, since := 900000000000 } on), by decide +kernel⟩

/-- The hypotheses of DecisionFollowsItsTransitions, clause by clause (part 3), are met. -/
theorem witness3 :
    (∃ s : State, (s.rel.st ≠ .revoking ∨ s.rel.clearing = true ∨ s.noticeOver = false ∨ s.rule226 = false)) ∧
    (∃ s : State, s.power.line = true ∧ s.rel.latch = true ∧ s.rel.oscNs + 10000000000 ≤ s.now) ∧
    (∃ s : State, (s.power.line = false ∨ s.rel.latch = false ∨ s.now < s.rel.oscNs + 10000000000)) ∧
    (∃ s : State, s.rel.st.permits = true ∧ s.rolesRun = true ∧ s.cfgB recRelease 6 = true ∧ s.cfgB recMetering 14 = true ∧ s.creditMet = false ∧ s.tamper.latch = false) ∧
    (∃ s : State, s.rel.st.permits = false) := by
  refine ⟨?_, ?_, ?_, ?_, ?_⟩
  · exact ⟨(on), by decide +kernel⟩
  · exact ⟨(rs { ru with st := .released, latch := true, since := 500000000 } on), by decide +kernel⟩
  · exact ⟨(on), by decide +kernel⟩
  · exact ⟨({ rs { ru with st := .released, latch := true, since := 999999000000 } (img [(recMetering, 14, 1)] on) with met := {} }), by decide +kernel⟩
  · exact ⟨(on), by decide +kernel⟩

/-- The hypotheses of DecisionFollowsItsTransitions, clause by clause (part 4), are met. -/
theorem witness4 :
    (∃ s : State, (s.pop.running = none ∨ s.phaseBusy = true)) ∧
    (∃ k : PopCheck, ∃ n : Nat, ∃ s : State, s.pop.running = some k ∧ s.phaseBusy = false ∧ 3 ≤ k.phase ∧ k.owes = false ∧ s.pop.wanted = false ∧ s.parts.enrol = none ∧ s.lf.waiting = [] ∧ s.rel.presence = [] ∧ k.mbs = [n] ∧ (s.box n).st = .issued ∧ (s.box n).waiting = true ∧ (s.box n).committed = true) ∧
    (∃ mb : Nat, ∃ s : State, Takes s mb 0x0801 ∧ s.served ∧ s.rel.presence = [] ∧ s.rel.st = .locked ∧ uAt (s.box mb).payload 0 1 = 1 ∧ (s.cmdView mb).tamperClear = true ∧ s.decisionPlaced = true ∧ s.tamper.latch = false) ∧
    (∃ mb : Nat, ∃ s : State, Takes s mb 0x0801 ∧ s.served ∧ s.rel.presence = [] ∧ s.rel.st = .armed ∧ uAt (s.box mb).payload 0 1 = 0) ∧
    (∃ mb : Nat, ∃ s : State, Takes s mb 0x0801 ∧ s.served ∧ s.rel.presence = [] ∧ s.rel.st = .held) := by
  refine ⟨?_, ?_, ?_, ?_, ?_⟩
  · exact ⟨(on), by decide +kernel⟩
  · exact ⟨_, _, (wt (put 0 0x0606 [] { on with pop := { running := some { phase := 3, pass := 2, started := true, mbs := [0], coils := List.replicate 48 { entry := some 0 } }, lastStart := some 5, checkSeq := 7 } })), rfl, by decide +kernel, by decide +kernel, by decide +kernel, by decide +kernel, by decide +kernel, by decide +kernel, by decide +kernel, rfl, by decide +kernel⟩
  · exact ⟨(0), (put 0 0x0801 [1, 0, 0, 0] (rs ru on)), holds (by unfold Takes Started; infer_instance) (by decide +kernel), holds (by unfold State.served; infer_instance) (by decide +kernel), by decide +kernel⟩
  · exact ⟨(0), (put 0 0x0801 [0, 0, 0, 0] (rs { ru with st := .armed, consent := true } on)), holds (by unfold Takes Started; infer_instance) (by decide +kernel), holds (by unfold State.served; infer_instance) (by decide +kernel), by decide +kernel⟩
  · exact ⟨(0), (put 0 0x0801 [0, 0, 0, 0] (rs { noRule ru with st := .held, latch := true, causes := 5, consent := true } on)), holds (by unfold Takes Started; infer_instance) (by decide +kernel), holds (by unfold State.served; infer_instance) (by decide +kernel), by decide +kernel⟩

/-- The hypotheses of DecisionFollowsItsTransitions, clause by clause (part 5), are met. -/
theorem witness5 :
    (∃ mb : Nat, ∃ s : State, Takes s mb 0x0802) ∧
    (∃ mb : Nat, ∃ s : State, Takes s mb 0x0803 ∧ s.rel.st = .revoking ∧ s.served ∧ s.moving = false ∧ s.rel.causes = 1 ∧ (s.cmdView mb).creditMet = true ∧ s.tamper.latch = false) ∧
    (∃ mb : Nat, ∃ s : State, Takes s mb 0x0804) := by
  refine ⟨?_, ?_, ?_⟩
  · exact ⟨(0), (put 0 0x0802 [] (rs { noRule ru with st := .held, latch := true } on)), holds (by unfold Takes Started; infer_instance) (by decide +kernel)⟩
  · exact ⟨(0), (put 0 0x0803 [] (rs { ru with st := .revoking, latch := true, causes := 1, since := 999999000000 } on)), holds (by unfold Takes Started; infer_instance) (by decide +kernel), by decide +kernel, holds (by unfold State.served; infer_instance) (by decide +kernel), by decide +kernel⟩
  · exact ⟨(0), (put 0 0x0804 [] (rs { ru with st := .held, latch := true, causes := 1, since := 999999000000 } on)), holds (by unfold Takes Started; infer_instance) (by decide +kernel)⟩


end DecisionFollowsItsTransitions

namespace CipherChannelsRunDescriptors
def winOn (s : State) : State := s.modFab fun f => { f with windows := f.windows.set 0 { cfg := 0xFCF00000, busy := 1 } }
def key5 (s : State) : State := (s.modSlot 5 fun x => { x with loaded := true, cls := 5, version := 2, key := zeros 32, mark := 65536, counter := 7 }).modSlot 6 fun x => { x with loaded := true, cls := 6, version := 3, key := zeros 32, mark := 65536, counter := 65536 - 16384, advancing := true }
def db (op mode ctx tagLen nonceLen dataLen : Nat) : List Byte := leBytes 1 op ++ leBytes 1 mode ++ [16, 6] ++ leBytes 2 ctx ++ [5] ++ leBytes 1 tagLen ++ leBytes 8 0x55 ++ leBytes 4 0 ++ [0x10, 0] ++ leBytes 2 0x1000 ++ leBytes 4 0 ++ leBytes 4 dataLen ++ leBytes 4 0 ++ leBytes 4 256 ++ leBytes 4 0 ++ leBytes 4 512 ++ leBytes 4 0 ++ leBytes 1 nonceLen ++ zeros 3 ++ leBytes 4 0 ++ leBytes 4 99
def cx (n mode : Nat) : Context := { num := n, cls := 5, mode := mode, keyLen := 16, slot := 5, role := 0x10, purpose := 0x1000, identity := 0x55, version := 2, tagLen := 16, nonceLen := 12, fixed := zeros 8, invLimit := 1000 }
def wc (cs : List Context) (s : State) : State := s.modCrypt fun c => { c with contexts := cs, wrapKey := zeros 32, wrapId := 9 }
def qd (d : Desc) : QDesc := { desc := d, host := true, base := 0x700000, limit := 1000000500000 }
def qn (q : QDesc) (c : Nat) (s : State) : State := s.modChan c fun x => { x with queue := x.queue ++ [q] }
def vfy : Desc := { Desc.ofBytes (db 4 5 0xFFFF 16 0 16) with tag := 512 }
def axD : Desc := { vfy with purpose := 0x0601, slot := 1 }
def keyV : List Byte := kdf (zeros 32) 0x1000 0x55 0x10 0 128
def tagV : List Byte := Aes.cmac keyV (zeros 16)
def msgV : Msg := { desc := vfy, key := keyV, slot := 5, version := 2, host := true, base := 0x700000, limit := 1000000500000, post := some 0 }
def run (s : State) : State := (put 0 0x0902 (db 4 5 0xFFFF 16 0 16 ++ [1, 0, 0, 0]) s).modChan 17 fun x => { x with cur := some msgV, buffers := 2 }

/-- The check of crypt.submit on a channel. -/
def submitOn (c : Nat) (s : State) (b : Mailbox) : Option Nat :=
  match s.descRefused c (Desc.ofBytes b.payload) true with
  | some st => some st
  | none =>
    if !s.descInWindow b.window (Desc.ofBytes b.payload) then some Status.windowFault
    else refuseIf (decide (16 ≤ (s.chan c).queue.length)) Status.busy

/-- A crypt.submit that every channel would take is taken. -/
theorem submit_takes {s : State} (h : Started s 0 0x0902) (hw : wfCryptSubmit (s.box 0).payload = true)
    (hc : ∀ k, k < 16 → submitOn (16 + k) (s.cmdView 0) (s.box 0) = none) : Takes s 0 0x0902 := by
  refine ⟨h, ?_⟩
  have e : s.ownCheck 0 0x0902 = if wfCryptSubmit (s.box 0).payload then submitOn (submitChannel 0 (s.box 0)) (s.cmdView 0) (s.box 0) else
      some Status.invalid := rfl
  rw [e, if_pos hw]
  exact hc _ (Nat.mod_lt _ (by decide))

/-- The hypotheses of CipherChannelsRunDescriptors, clause by clause (part 1), are met. -/
theorem witness1 :
    (∃ mb : Nat, ∃ c : Nat, ∃ s : State, Takes s mb 0x0901 ∧ c = uAt (s.box mb).payload 0 1 ∧ s.crypt.chans.length = 32) ∧
    (∃ mb : Nat, ∃ c : Nat, ∃ q : QDesc, ∃ s : State, Takes s mb 0x0902 ∧ c = submitChannel mb (s.box mb) ∧ q = { desc := Desc.ofBytes (s.box mb).payload, host := true, base := (s.win (s.box mb).window).phys 0, post := if uAt (s.box mb).payload 64 1 = 1 then some mb else none, limit := (s.box mb).limit } ∧ s.crypt.chans.length = 32 ∧ uAt (s.box mb).payload 64 1 = 0) ∧
    (∃ mb : Nat, ∃ c : Nat, ∃ q : QDesc, ∃ s : State, Takes s mb 0x0902 ∧ c = submitChannel mb (s.box mb) ∧ q = { desc := Desc.ofBytes (s.box mb).payload, host := true, base := (s.win (s.box mb).window).phys 0, post := if uAt (s.box mb).payload 64 1 = 1 then some mb else none, limit := (s.box mb).limit } ∧ s.crypt.chans.length = 32 ∧ uAt (s.box mb).payload 64 1 = 1) ∧
    (∃ mb : Nat, ∃ n : Nat, ∃ s : State, Takes s mb 0x0903 ∧ n = uAt (s.box mb).payload 0 1) ∧
    (∃ c : Nat, ∃ d : Desc, ∃ s : State, s.crypt.chans.length = 32 ∧ 8 ≤ c ∧ c < 16 ∧ s.descRefused c d false = none ∧ (s.chan c).queue.length < 16) := by
  refine ⟨?_, ?_, ?_, ?_, ?_⟩
  · exact ⟨(0), _, (put 0 0x0901 [16, 1, 0, 0] on), holds (by unfold Takes Started; infer_instance) (by decide +kernel), rfl, by decide +kernel⟩
  · exact ⟨0, _, _, winOn (putWin 0 0x0902 (db 4 5 0xFFFF 16 0 16 ++ [0, 0, 0, 0]) (key5 on)), submit_takes (holds (by unfold Started; infer_instance) (by decide +kernel)) (by decide +kernel) (by decide +kernel), rfl, rfl, by decide +kernel⟩
  · exact ⟨0, _, _, winOn (putWin 0 0x0902 (db 4 5 0xFFFF 16 0 16 ++ [1, 0, 0, 0]) (key5 on)), submit_takes (holds (by unfold Started; infer_instance) (by decide +kernel)) (by decide +kernel) (by decide +kernel), rfl, rfl, by decide +kernel⟩
  · exact ⟨(0), _, (put 0 0x0903 [3, 0, 0, 0] (on.modCrypt fun c => { c with hostDone := List.replicate 5 { seq := 4 } })), holds (by unfold Takes Started; infer_instance) (by decide +kernel), rfl⟩
  · exact ⟨(8), (axD), (on), by decide +kernel⟩

/-- The hypotheses of CipherChannelsRunDescriptors, clause by clause (part 2), are met. -/
theorem witness2 :
    (∃ c : Nat, ∃ d : Desc, ∃ s : State, s.crypt.chans.length = 32 ∧ 8 ≤ c ∧ c < 16 ∧ s.descRefused c d false = none ∧ 16 ≤ (s.chan c).queue.length) ∧
    (∃ c : Nat, ∃ d : Desc, ∃ s : State, s.crypt.chans.length = 32 ∧ ∃ st, 8 ≤ c ∧ c < 16 ∧ s.descRefused c d false = some st ∧ (s.chan c).streaming = false) ∧
    (∃ c : Nat, ∃ s : State, s.crypt.chans.length = 32 ∧ (c < 8 ∨ 16 ≤ c)) ∧
    (∃ c : Nat, ∃ q : QDesc, ∃ s : State, 8 ≤ c ∧ c < 32 ∧ s.crypt.chans.length = 32 ∧ s.crypt.sealed = false ∧ s.pdOn 5 = true ∧ (s.chan c).cur = none ∧ (s.chan c).susp = none ∧ (s.chan c).queue = [q] ∧ q.desc.begins = true ∧ s.noRoom q.host q.post = false ∧ (q.host = true → s.now ≤ q.limit) ∧ s.destHeld none q = false ∧ (∀ p, p ∈ s.fab.heldPages → p.2 ≠ c) ∧ 2 ≤ s.roomFor c ∧ s.keyRefused q.desc = none ∧ q.host = true ∧ q.desc.authDec = false ∧ q.desc.makesNonce = false) ∧
    (∃ c : Nat, ∃ q : QDesc, ∃ s : State, 8 ≤ c ∧ c < 32 ∧ s.crypt.chans.length = 32 ∧ s.crypt.sealed = false ∧ s.pdOn 5 = true ∧ (s.chan c).cur = none ∧ (s.chan c).susp = none ∧ (s.chan c).queue = [q] ∧ q.desc.begins = true ∧ s.noRoom q.host q.post = false ∧ (q.host = true → s.now ≤ q.limit) ∧ s.destHeld none q = false ∧ (∀ p, p ∈ s.fab.heldPages → p.2 ≠ c) ∧ ∃ k, 2 ≤ s.roomFor c ∧ s.keyRefused q.desc = none ∧ q.host = true ∧ q.desc.authDec = false ∧ q.desc.makesNonce = true ∧ k = (s.effective q.desc).slot ∧ k < 16 ∧ s.keys.slots.length = 16 ∧ (s.slot k).counter < (s.slot k).mark ∧ (s.slot k).counter < 2 ^ (8 * min q.desc.nonceLen 8)) := by
  refine ⟨?_, ?_, ?_, ?_, ?_⟩
  · exact ⟨(8), (axD), ((key5 on).modChan 8 fun x => { x with queue := List.replicate 16 (qd vfy) }), by decide +kernel⟩
  · exact ⟨(8), (vfy), ((key5 on).modChan 8 fun x => { x with queue := List.replicate 16 (qd vfy) }), by decide +kernel, _, by decide +kernel, by decide +kernel, rfl, by decide +kernel⟩
  · exact ⟨(0), ((key5 on).modChan 8 fun x => { x with queue := List.replicate 16 (qd vfy) }), by decide +kernel⟩
  · exact ⟨(16), _, (qn (qd vfy) 16 (key5 on)), by decide +kernel, by decide +kernel, by decide +kernel, by decide +kernel, by decide +kernel, by decide +kernel, by decide +kernel, rfl, by decide +kernel, by decide +kernel, by decide +kernel, by decide +kernel, holds (by letI := @decSome; letI := @decEx; letI := @decPair; letI := @decLanes; letI := @decOthers; letI := @decRank; letI := @decLine; infer_instance) (by decide +kernel), by decide +kernel⟩
  · exact ⟨(16), _, (qn (qd (Desc.ofBytes (db 1 3 0x40 16 12 16))) 16 (wc [cx 0x40 3] (key5 on))), by decide +kernel, by decide +kernel, by decide +kernel, by decide +kernel, by decide +kernel, by decide +kernel, by decide +kernel, rfl, by decide +kernel, by decide +kernel, by decide +kernel, by decide +kernel, holds (by letI := @decSome; letI := @decEx; letI := @decPair; letI := @decLanes; letI := @decOthers; letI := @decRank; letI := @decLine; infer_instance) (by decide +kernel), _, by decide +kernel, by decide +kernel, by decide +kernel, by decide +kernel, by decide +kernel, rfl, by decide +kernel⟩

/-- The hypotheses of CipherChannelsRunDescriptors, clause by clause (part 3), are met. -/
theorem witness3 :
    (∃ c : Nat, ∃ q : QDesc, ∃ s : State, 8 ≤ c ∧ c < 32 ∧ s.crypt.chans.length = 32 ∧ s.crypt.sealed = false ∧ s.pdOn 5 = true ∧ (s.chan c).cur = none ∧ (s.chan c).susp = none ∧ (s.chan c).queue = [q] ∧ q.desc.begins = true ∧ s.noRoom q.host q.post = false ∧ (q.host = true → s.now ≤ q.limit) ∧ s.destHeld none q = false ∧ (∀ p, p ∈ s.fab.heldPages → p.2 ≠ c) ∧ s.roomFor c < 2 ∧ s.reservation c < 2 ∧ q.host = true ∧ q.post = none ∧ q.desc.notify = false) ∧
    (∃ c : Nat, ∃ s : State, (c < 8 ∨ 32 ≤ c ∨ s.crypt.sealed = true ∨ s.pdOn 5 = false ∨ ((s.chan c).streaming = false ∧ (s.chan c).cur.isSome = true))) ∧
    (∃ c : Nat, ∃ n : Nat, ∃ m : Msg, ∃ data : List Byte, ∃ s : State, c < 32 ∧ s.crypt.chans.length = 32 ∧ (s.chan c).cur = some m ∧ (s.chan c).susp = none ∧ m.stalled = false ∧ m.ended = none ∧ m.segDone = false ∧ m.host = true ∧ m.post = some n ∧ m.desc.op = 4 ∧ m.desc.mode = 5 ∧ m.desc.seg = 3 ∧ m.desc.context = 0xFFFF ∧ m.desc.notify = false ∧ m.desc.nonceLen = 0 ∧ m.mid = none ∧ m.kept = none ∧ s.crypt.sealed = false ∧ s.pdOn 5 = true ∧ s.now ≤ m.limit ∧ s.msgBlocked c m = false ∧ (s.box n).st = .issued ∧ data = s.msgRead c m m.desc.src m.desc.dataLen ∧ chainTag 5 (s.msgKey m) m.nonce (chainStep 5 false (s.msgKey m) m.desc.nonceLen (chainStart 5 (s.msgKey m) m.nonce (s.msgRead c m m.desc.aad m.desc.aadLen) m.desc.dataLen m.desc.tagLen) data []) m.desc.tagLen = s.msgRead c m m.desc.tag m.desc.tagLen) ∧
    (∃ c : Nat, ∃ s : State, (s.chan c).cur = none) ∧
    (∃ k : Nat, ∃ s : State, k < 16 ∧ s.keys.slots.length = 16 ∧ (s.slot k).advancing = true) := by
  refine ⟨?_, ?_, ?_, ?_, ?_⟩
  · exact ⟨(16), _, (qn (qd vfy) 16 (img [(recCipher, 1, 0), (recCipher, 17, 0)] (key5 on))), by decide +kernel, by decide +kernel, by decide +kernel, by decide +kernel, by decide +kernel, by decide +kernel, by decide +kernel, rfl, by decide +kernel, by decide +kernel, by decide +kernel, by decide +kernel, holds (by letI := @decSome; letI := @decEx; letI := @decPair; letI := @decLanes; letI := @decOthers; letI := @decRank; letI := @decLine; infer_instance) (by decide +kernel), by decide +kernel⟩
  · exact ⟨(0), ((key5 on).modChan 8 fun x => { x with queue := List.replicate 16 (qd vfy) }), by decide +kernel⟩
  · exact ⟨(17), _, _, _, (run { winOn (key5 on) with mem := ((List.range 16).map fun i => (0x700000 + 512 + i, tagV.getD i 0)).filter (fun c => c.2 != 0) }), by decide +kernel, by decide +kernel, rfl, by decide +kernel, by decide +kernel, by decide +kernel, by decide +kernel, by decide +kernel, rfl, by decide +kernel, by decide +kernel, by decide +kernel, by decide +kernel, by decide +kernel, by decide +kernel, by decide +kernel, by decide +kernel, by decide +kernel, by decide +kernel, by decide +kernel, by decide +kernel, by decide +kernel, rfl, by decide +kernel⟩
  · exact ⟨(0), ((key5 on).modChan 8 fun x => { x with queue := List.replicate 16 (qd vfy) }), by decide +kernel⟩
  · exact ⟨(6), ((key5 on).modChan 8 fun x => { x with queue := List.replicate 16 (qd vfy) }), by decide +kernel⟩

/-- The hypotheses of CipherChannelsRunDescriptors, clause by clause (part 4), are met. -/
theorem witness4 :
    (∃ k : Nat, ∃ s : State, k < 16 ∧ s.keys.slots.length = 16 ∧ (s.slot k).advancing = false) ∧
    (∃ s : State, s.psc.state ≠ .nunatakHold ∧ s.pdOn 5 = true ∧ s.crypt.chans.length = 32 ∧ ∃ c, c < 32) ∧
    (∃ s : State, s.psc.state ≠ .nunatakHold ∧ s.pdOn 5 = true ∧ s.crypt.chans.length = 32 ∧ s.crypt.selfTest = false) ∧
    (∃ it : Option Nat, ∃ s : State, (s.psc.state = .nunatakHold ∨ (it ≠ none ∧ s.pdOn 5 = false))) ∧
    (∃ s : State, s.crypt.selfTest = true ∧ s.pdOn 5 = true ∧ s.crypt.selfTestAlarm = false ∧ s.crypt.zeroiseNext = false ∧ s.psc.pdSelfTest = false ∧ s.net.sealedFrames = [] ∧ s.crypt.macHeld = []) := by
  refine ⟨?_, ?_, ?_, ?_, ?_⟩
  · exact ⟨(0), ((key5 on).modChan 8 fun x => { x with queue := List.replicate 16 (qd vfy) }), by decide +kernel⟩
  · exact ⟨((key5 on).modChan 8 fun x => { x with queue := List.replicate 16 (qd vfy) }), by decide +kernel, by decide +kernel, by decide +kernel, (0), by decide +kernel⟩
  · exact ⟨((key5 on).modChan 8 fun x => { x with queue := List.replicate 16 (qd vfy) }), by decide +kernel⟩
  · exact ⟨none, ({ key5 on with psc := { on.psc with state := .nunatakHold } }), by decide +kernel⟩
  · exact ⟨((key5 on).modCrypt fun c => { c with sealed := true, selfTest := true }), by decide +kernel⟩

/-- The hypotheses of CipherChannelsRunDescriptors, clause by clause (part 5), are met. -/
theorem witness5 :
    (∃ s : State, (s.crypt.selfTest = false ∨ s.pdOn 5 = false)) := by
  exact ⟨((key5 on).modChan 8 fun x => { x with queue := List.replicate 16 (qd vfy) }), by decide +kernel⟩


end CipherChannelsRunDescriptors

namespace KeysAndContextsAreKept
def winOn (s : State) : State := s.modFab fun f => { f with windows := f.windows.set 0 { cfg := 0xFCF00000, busy := 1 } }
def key5 (s : State) : State := (s.modSlot 5 fun x => { x with loaded := true, cls := 5, version := 2, key := zeros 32, mark := 65536, counter := 7 }).modSlot 6 fun x => { x with loaded := true, cls := 6, version := 3, key := zeros 32, mark := 65536, counter := 65536 - 16384, advancing := true }
def cx (n mode : Nat) : Context := { num := n, cls := 5, mode := mode, keyLen := 16, slot := 5, role := 0x10, purpose := 0x1000, identity := 0x55, version := 2, tagLen := 16, nonceLen := 12, fixed := zeros 8, invLimit := 1000 }
def wc (cs : List Context) (s : State) : State := s.modCrypt fun c => { c with contexts := cs, wrapKey := zeros 32, wrapId := 9 }
def slot0 (s : State) : State := s.modSlot 0 fun x => { x with loaded := true, cls := 1, version := 1, key := zeros 32 }
def wrapped (k cls : Nat) : List Byte := Aes.kwWrap ((slot0 on).transportKey k cls 1) (zeros 31 ++ [7])
def atWin (bs : List Byte) (s : State) : State := s.physWrite 0x700000 bs
def cCtx : Context := { cx 0x41 5 with nonceLen := 0 }

/-- key.write of a wrap in the mailbox. -/
def wrS : State := put 0 0x0A01 ([3, 2, 0, 0] ++ wrapped 3 2) (slot0 on)

/-- The wrap that the host sends opens under the transport key. -/
theorem opens : Aes.kwUnwrap (wrS.transportKey 3 2 1) (slice (wrS.box 0).payload 4 40) = some (zeros 31 ++ [7]) := by
  have hk : ((slot0 on).transportKey 3 2 1).length = 4 * 8 :=
    kdf_length (root := zeros 32) (nk := 8) (by decide) (by decide) 0x0001 Config.deviceIdentity (3 + 16 * 2) 1
  obtain ⟨h, hl⟩ := Aes.kwUnwrap_kwWrap (nk := 8) (n := 4) (p := zeros 31 ++ [7]) (by decide) hk (by decide)
  have e : slice (wrS.box 0).payload 4 40 = (wrapped 3 2).take 40 := rfl
  rw [e, List.take_of_length_le (i := 40) (by unfold wrapped; omega)]
  exact h

/-- The hypotheses of KeysAndContextsAreKept, clause by clause (part 1), are met. -/
theorem witness1 :
    (∃ mb : Nat, ∃ k : Nat, ∃ cls : Nat, ∃ s : State, Takes s mb 0x0A01 ∧ k = uAt (s.box mb).payload 0 1 ∧ cls = uAt (s.box mb).payload 1 1 ∧ s.keys.slots.length = 16 ∧ ∃ key, Aes.kwUnwrap (s.transportKey k cls ((s.slot k).version + 1)) (slice (s.box mb).payload 4 40) = some key) ∧
    (∃ mb : Nat, ∃ k : Nat, ∃ cls : Nat, ∃ s : State, Takes s mb 0x0A01 ∧ k = uAt (s.box mb).payload 0 1 ∧ cls = uAt (s.box mb).payload 1 1 ∧ s.keys.slots.length = 16 ∧ Aes.kwUnwrap (s.transportKey k cls ((s.slot k).version + 1)) (slice (s.box mb).payload 4 40) = none) ∧
    (∃ mb : Nat, ∃ k : Nat, ∃ s : State, Takes s mb 0x0A02 ∧ k = uAt (s.box mb).payload 0 1 ∧ s.keys.slots.length = 16) ∧
    (∃ mb : Nat, ∃ s : State, Takes s mb 0x0A03) ∧
    (∃ mb : Nat, ∃ s : State, Takes s mb 0x0A04) := by
  refine ⟨?_, ?_, ?_, ?_, ?_⟩
  · exact ⟨0, 3, 2, wrS, ⟨⟨by decide +kernel, by decide +kernel, by decide +kernel⟩, by decide +kernel⟩, by decide +kernel, by decide +kernel, by decide +kernel, _, opens⟩
  · exact ⟨(0), _, _, (put 0 0x0A01 ([3, 2, 0, 0] ++ zeros 40) (on.modSlot 0 fun x => { x with key := [] })), holds (by unfold Takes Started; infer_instance) (by decide +kernel), rfl, rfl, by decide +kernel⟩
  · exact ⟨(0), _, (put 0 0x0A02 [5, 0, 0, 0] (key5 on)), holds (by unfold Takes Started; infer_instance) (by decide +kernel), rfl, by decide +kernel⟩
  · exact ⟨(0), (put 0 0x0A03 [5, 0, 0, 0] (key5 on)), holds (by unfold Takes Started; infer_instance) (by decide +kernel)⟩
  · exact ⟨(0), (put 0 0x0A04 [0, 0, 0, 0] (on.modSlot 0 fun x => { x with loaded := false })), holds (by unfold Takes Started; infer_instance) (by decide +kernel)⟩

/-- The hypotheses of KeysAndContextsAreKept, clause by clause (part 2), are met. -/
theorem witness2 :
    (∃ mb : Nat, ∃ s : State, Takes s mb 0x0A05 ∧ s.keys.slots.length = 16) ∧
    (∃ mb : Nat, ∃ s : State, Takes s mb 0x0904) ∧
    (∃ mb : Nat, ∃ n : Nat, ∃ s : State, Takes s mb 0x0905 ∧ n = uAt (s.box mb).payload 0 2) ∧
    (∃ mb : Nat, ∃ n : Nat, ∃ s : State, Takes s mb 0x0906 ∧ n = uAt (s.box mb).payload 0 2) ∧
    (∃ mb : Nat, ∃ s : State, Takes s mb 0x0907 ∧ s.restoreBytes (s.box mb) = none) := by
  refine ⟨?_, ?_, ?_, ?_, ?_⟩
  · exact ⟨(0), (put 0 0x0A05 (zeros 172) { (on.modSlot 0 fun x => { x with loaded := false }) with keys := { (on.modSlot 0 fun x => { x with loaded := false }).keys with reprov := some (zeros 32, zeros 16) } }), holds (by unfold Takes Started; infer_instance) (by decide +kernel), by decide +kernel⟩
  · exact ⟨(0), (put 0 0x0904 ([3, 16, 16, 12, 5, 0x10] ++ leBytes 2 0x1000 ++ leBytes 8 0x55 ++ zeros 8 ++ zeros 8 ++ leBytes 8 0) (key5 on)), holds (by unfold Takes Started; infer_instance) (by decide +kernel)⟩
  · exact ⟨(0), _, (put 0 0x0905 (leBytes 2 0x40 ++ [0, 0]) (wc [cx 0x40 3, cCtx] (key5 on))), holds (by unfold Takes Started; infer_instance) (by decide +kernel), rfl⟩
  · exact ⟨(0), _, (winOn (putWin 0 0x0906 (leBytes 2 0x41 ++ [1, 0] ++ leBytes 4 0) (wc [cx 0x40 3, cCtx] (key5 on)))), holds (by unfold Takes Started; infer_instance) (by decide +kernel), rfl⟩
  · exact ⟨(0), ((winOn (putWin 0 0x0907 (leBytes 4 0 ++ leBytes 4 152) (wc [cx 0x40 3] (key5 on)))).modFab fun f => { f with poison := [0xE0000] }), holds (by unfold Takes Started; infer_instance) (by decide +kernel), by decide +kernel⟩

/-- The hypotheses of KeysAndContextsAreKept, clause by clause (part 3), are met. -/
theorem witness3 :
    (∃ mb : Nat, ∃ s : State, Takes s mb 0x0907 ∧ ∃ bs, s.restoreBytes (s.box mb) = some bs ∧ ∃ st, s.restored bs = .error st) ∧
    (∃ mb : Nat, ∃ s : State, Takes s mb 0x0907 ∧ ∃ bs, s.restoreBytes (s.box mb) = some bs ∧ ∃ c, s.restored bs = .ok c) := by
  refine ⟨?_, ?_⟩
  · exact ⟨(0), (winOn (putWin 0 0x0907 (leBytes 4 0 ++ leBytes 4 152) (wc [cx 0x40 3] (key5 on)))), holds (by unfold Takes Started; infer_instance) (by decide +kernel), _, rfl, _, rfl⟩
  · exact ⟨(0), (atWin ((wc [] on).savedCtx cCtx 1) (winOn (putWin 0 0x0907 (leBytes 4 0 ++ leBytes 4 144) (wc [cx 0x40 3] (key5 on))))), holds (by unfold Takes Started; infer_instance) (by decide +kernel), _, rfl, _, rfl⟩


end KeysAndContextsAreKept

namespace CompatibilityWindowAndMacsec
def key5 (s : State) : State := (s.modSlot 5 fun x => { x with loaded := true, cls := 5, version := 2, key := zeros 32, mark := 65536, counter := 7 }).modSlot 6 fun x => { x with loaded := true, cls := 6, version := 3, key := zeros 32, mark := 65536, counter := 65536 - 16384, advancing := true }
def cm (f : Cmpw → Cmpw) (s : State) : State := img [(recSystem, 13, 1)] (s.modCmpw f)
def lab : List Word := [0x55, 0, 0x10, 0x0F000000]
def sa1 (s : State) : State := s.modCrypt fun c => { c with sas := (c.sas.set 0 { key := zeros 16, installed := true, next := 5 }).set 2 { key := zeros 16, installed := true, next := 5 } }
def hdr : List Byte := zeros 6 ++ [2, 0, 0, 0, 0, 9]
def peerSci : Nat := 0x020000000009 * 65536 + 1
def frm (pn : Nat) : List Byte := let tg := secTag peerSci 0 pn 16; hdr ++ tg ++ Aes.gcmCrypt (zeros 16) (beBytes 8 peerSci ++ beBytes 4 pn) (zeros 16) ++ Aes.gcmTag (zeros 16) (beBytes 8 peerSci ++ beBytes 4 pn) (hdr ++ tg) (Aes.gcmCrypt (zeros 16) (beBytes 8 peerSci ++ beBytes 4 pn) (zeros 16))
def peer (s : State) : State := { s with net := { s.net with peers := s.net.peers.set 0 [(peerSci, 1, 0)] } }

/-- The hypotheses of CompatibilityWindowAndMacsec, clause by clause (part 1), are met. -/
theorem witness1 :
    (∃ r : Requester, ∃ w : Word, ∃ s : State, s.cmpwOn = true ∧ s.crypt.cmpw.owner ≠ 0 ∧ s.crypt.cmpw.owner ≠ ownerCode r ∧ ∃ c, (c = Instr.cmpwStart r w ∨ c = Instr.cmpwAbort r w ∨ c = Instr.cmpwRelease r w)) ∧
    (∃ r : Requester, ∃ w : Word, ∃ s : State, s.cmpwOn = true ∧ mayOwn r = false ∧ ∃ c, (c = Instr.cmpwStart r w ∨ c = Instr.cmpwAbort r w ∨ c = Instr.cmpwLoad r w)) ∧
    (∃ r : Requester, ∃ w : Word, ∃ v : Word, ∃ s : State, s.cmpwOn = true ∧ mayOwn r = true ∧ s.crypt.cmpw.owner = ownerCode r ∧ v = (w ||| 1) &&& ~~~2 ∧ ∃ e, s.crypt.cmpw.startErr v = some e) ∧
    (∃ r : Requester, ∃ w : Word, ∃ v : Word, ∃ s : State, s.cmpwOn = true ∧ mayOwn r = true ∧ s.crypt.cmpw.owner = ownerCode r ∧ v = (w ||| 1) &&& ~~~2 ∧ s.crypt.cmpw.startErr v = none) ∧
    (∃ r : Requester, ∃ w : Word, ∃ v : Word, ∃ s : State, s.cmpwOn = true ∧ mayOwn r = true ∧ s.crypt.cmpw.owner = ownerCode r ∧ v = (w ||| 1) &&& ~~~2 ∧ s.crypt.cmpw.loading = false) := by
  refine ⟨?_, ?_, ?_, ?_, ?_⟩
  · exact ⟨(.spi), (0), (cm (fun c => { c with owner := 2, keyReady := true, key := zeros 16 }) (key5 on)), by decide +kernel, by decide +kernel, by decide +kernel, .cmpwStart (.spi) (0), by decide +kernel⟩
  · exact ⟨(.cp0), (0), (cm (fun c => c) (key5 on)), by decide +kernel, by decide +kernel, .cmpwStart (.cp0) (0), by decide +kernel⟩
  · exact ⟨(.spi), (0), (1), (cm (fun c => { c with owner := 1, keyReady := true, key := zeros 16 }) (key5 on)), by decide +kernel, by decide +kernel, by decide +kernel, by decide +kernel, _, rfl⟩
  · exact ⟨(.spi), (0), (1), (cm (fun c => { c with owner := 1, keyReady := true, key := zeros 16, needFirst := false, chain := zeros 12 ++ [255, 255, 255, 255] }) (key5 on)), by decide +kernel⟩
  · exact ⟨(.spi), (0), (1), (cm (fun c => { c with owner := 1, keyReady := true, key := zeros 16 }) (key5 on)), by decide +kernel⟩

/-- The hypotheses of CompatibilityWindowAndMacsec, clause by clause (part 2), are met. -/
theorem witness2 :
    (∃ r : Requester, ∃ w : Word, ∃ k : Nat, ∃ s : State, s.cmpwOn = true ∧ mayOwn r = true ∧ k = fld w 0 4 ∧ s.crypt.cmpw.owner = 0 ∧ s.crypt.cmpw.busy = false ∧ s.loadErr k = none) ∧
    (∃ r : Requester, ∃ w : Word, ∃ k : Nat, ∃ s : State, s.cmpwOn = true ∧ mayOwn r = true ∧ k = fld w 0 4 ∧ s.crypt.cmpw.owner = 0 ∧ ∃ e, s.crypt.cmpw.busy = false ∧ s.loadErr k = some e) ∧
    (∃ s : State, s.crypt.cmpw.busy = true ∧ s.crypt.cmpw.loading = false ∧ s.crypt.cmpw.yielded = false ∧ s.crypt.cmpw.keyReady = true) ∧
    (∃ s : State, (s.crypt.cmpw.busy = false ∨ s.crypt.cmpw.loading = true ∨ s.crypt.cmpw.yielded = true)) ∧
    (∃ s : State, s.crypt.cmpw.loading = true ∧ (s.slot s.crypt.cmpw.keySlot).loaded = true ∧ s.crypt.sealed = false) := by
  refine ⟨?_, ?_, ?_, ?_, ?_⟩
  · exact ⟨(.spi), (6), (6), (cm (fun c => { c with label := lab }) (key5 on)), by decide +kernel⟩
  · exact ⟨(.spi), (0), (0), (cm (fun c => c) (key5 on)), by decide +kernel, by decide +kernel, by decide +kernel, by decide +kernel, _, by decide +kernel, rfl⟩
  · exact ⟨(cm (fun c => { c with owner := 1, busy := true, keyReady := true, key := zeros 16, run := 0x100, chain := zeros 16 }) (key5 on)), by decide +kernel⟩
  · exact ⟨(peer (sa1 on)), by decide +kernel⟩
  · exact ⟨(cm (fun c => { c with label := lab, owner := 1, busy := true, loading := true, keySlot := 6 }) (key5 on)), by decide +kernel⟩

/-- The hypotheses of CompatibilityWindowAndMacsec, clause by clause (part 3), are met. -/
theorem witness3 :
    (∃ s : State, (s.crypt.cmpw.loading = false ∨ s.crypt.sealed = true)) ∧
    (∃ port : Nat, ∃ c : Nat, ∃ header : List Byte, ∃ data : List Byte, ∃ aad : List Byte, ∃ nonce : List Byte, ∃ s : State, port < 2 ∧ s.portOn port = true ∧ c = txChannel port (s.portAn port) ∧ (s.sa c).installed = true ∧ s.crypt.sas.length = 8 ∧ s.net.stats.length = 6 ∧ aad = header ++ secTag (sciOf port) (s.portAn port) (s.sa c).next data.length ∧ nonce = (s.sa c).nonce (sciOf port) (s.sa c).next ∧ s.crypt.selfTest = false ∧ (s.sa c).limit ≤ (s.sa c).next) ∧
    (∃ port : Nat, ∃ c : Nat, ∃ header : List Byte, ∃ data : List Byte, ∃ aad : List Byte, ∃ nonce : List Byte, ∃ s : State, port < 2 ∧ s.portOn port = true ∧ c = txChannel port (s.portAn port) ∧ (s.sa c).installed = true ∧ s.crypt.sas.length = 8 ∧ s.net.stats.length = 6 ∧ aad = header ++ secTag (sciOf port) (s.portAn port) (s.sa c).next data.length ∧ nonce = (s.sa c).nonce (sciOf port) (s.sa c).next ∧ s.crypt.selfTest = false ∧ (s.sa c).next < (s.sa c).limit ∧ (s.sa c).next + 1 < (s.sa c).renew) ∧
    (∃ port : Nat, ∃ c : Nat, ∃ header : List Byte, ∃ data : List Byte, ∃ aad : List Byte, ∃ nonce : List Byte, ∃ s : State, port < 2 ∧ s.portOn port = true ∧ c = txChannel port (s.portAn port) ∧ (s.sa c).installed = true ∧ s.crypt.sas.length = 8 ∧ s.net.stats.length = 6 ∧ aad = header ++ secTag (sciOf port) (s.portAn port) (s.sa c).next data.length ∧ nonce = (s.sa c).nonce (sciOf port) (s.sa c).next ∧ s.crypt.selfTest = true ∧ s.macBuffers c + ceilDiv (header.length + data.length) 256 ≤ 24) ∧
    (∃ port : Nat, ∃ c : Nat, ∃ header : List Byte, ∃ data : List Byte, ∃ aad : List Byte, ∃ nonce : List Byte, ∃ s : State, port < 2 ∧ s.portOn port = true ∧ c = txChannel port (s.portAn port) ∧ (s.sa c).installed = true ∧ s.crypt.sas.length = 8 ∧ s.net.stats.length = 6 ∧ aad = header ++ secTag (sciOf port) (s.portAn port) (s.sa c).next data.length ∧ nonce = (s.sa c).nonce (sciOf port) (s.sa c).next ∧ s.crypt.selfTest = true ∧ 24 < s.macBuffers c + ceilDiv (header.length + data.length) 256) := by
  refine ⟨?_, ?_, ?_, ?_, ?_⟩
  · exact ⟨(peer (sa1 on)), by decide +kernel⟩
  · exact ⟨0, _, hdr, zeros 16, _, _, ((sa1 on).modSa 0 fun a => { a with next := 0x100000000 }), by decide +kernel, by decide +kernel, rfl, by decide +kernel, by decide +kernel, by decide +kernel, rfl, rfl, by decide +kernel⟩
  · exact ⟨0, _, hdr, zeros 16, _, _, (peer (sa1 on)), by decide +kernel, by decide +kernel, rfl, by decide +kernel, by decide +kernel, by decide +kernel, rfl, rfl, by decide +kernel⟩
  · exact ⟨0, _, hdr, zeros 16, _, _, ((sa1 on).modCrypt fun c => { c with selfTest := true }), by decide +kernel, by decide +kernel, rfl, by decide +kernel, by decide +kernel, by decide +kernel, rfl, rfl, by decide +kernel⟩
  · exact ⟨0, _, hdr, zeros 16, _, _, ((sa1 on).modCrypt fun c => { c with selfTest := true, macHeld := [(0, hdr, zeros 6000)] }), by decide +kernel, by decide +kernel, rfl, by decide +kernel, by decide +kernel, by decide +kernel, rfl, rfl, by decide +kernel⟩

/-- The hypotheses of CompatibilityWindowAndMacsec, clause by clause (part 4), are met. -/
theorem witness4 :
    (∃ port : Nat, ∃ frame : List Byte, ∃ s : State, port < 2 ∧ s.portOn port = true ∧ s.crypt.sas.length = 8 ∧ s.net.stats.length = 6 ∧ s.crypt.selfTest = false ∧ parseSec frame = none) ∧
    (∃ port : Nat, ∃ c : Nat, ∃ pn : Nat, ∃ frame : List Byte, ∃ nonce : List Byte, ∃ aad : List Byte, ∃ ct : List Byte, ∃ f : SecFrame, ∃ s : State, port < 2 ∧ s.portOn port = true ∧ s.crypt.sas.length = 8 ∧ s.net.stats.length = 6 ∧ s.crypt.selfTest = false ∧ parseSec frame = some f ∧ c = rxChannel port f.an ∧ pn = (s.sa c).fullPn f.pn ∧ nonce = (s.sa c).nonce f.sci pn ∧ aad = (if f.encrypted = true then f.aad else f.aad ++ f.body) ∧ ct = (if f.encrypted = true then f.body else []) ∧ ((s.sa c).installed = false ∨ ((s.peersOf port).any fun p => p.1 == f.sci) = false ∨ pn + s.cfgN recNetwork (fieldNo (4 + port) 4) < (s.sa c).next)) ∧
    (∃ port : Nat, ∃ c : Nat, ∃ pn : Nat, ∃ frame : List Byte, ∃ nonce : List Byte, ∃ aad : List Byte, ∃ ct : List Byte, ∃ f : SecFrame, ∃ s : State, port < 2 ∧ s.portOn port = true ∧ s.crypt.sas.length = 8 ∧ s.net.stats.length = 6 ∧ s.crypt.selfTest = false ∧ parseSec frame = some f ∧ c = rxChannel port f.an ∧ pn = (s.sa c).fullPn f.pn ∧ nonce = (s.sa c).nonce f.sci pn ∧ aad = (if f.encrypted = true then f.aad else f.aad ++ f.body) ∧ ct = (if f.encrypted = true then f.body else []) ∧ (s.sa c).installed = true ∧ ((s.peersOf port).any fun p => p.1 == f.sci) = true ∧ (s.sa c).next ≤ pn + s.cfgN recNetwork (fieldNo (4 + port) 4)) := by
  refine ⟨?_, ?_, ?_⟩
  · exact ⟨0, [], (peer (sa1 on)), by decide +kernel⟩
  · exact ⟨0, _, _, frm 9, _, _, _, _, ((sa1 on).modSa 0 fun a => { a with next := 0x100000000 }), by decide +kernel, by decide +kernel, by decide +kernel, by decide +kernel, by decide +kernel, rfl, rfl, rfl, rfl, rfl, rfl, by decide +kernel⟩
  · exact ⟨0, _, _, frm 9, _, _, _, _, (peer (sa1 on)), by decide +kernel, by decide +kernel, by decide +kernel, by decide +kernel, by decide +kernel, rfl, rfl, rfl, rfl, rfl, rfl, by decide +kernel⟩


end CompatibilityWindowAndMacsec

namespace MeteringIntegratesAndJudges
def mm (f : Met → Met) (s : State) : State := { s with met := f s.met }
def run0 : Met := { discard := [0,0,0,0], meanOk := true, boundary := 1800000000000, commitNs := 999500000000, waiting := [[some 10485760, some 10485760, some 13631488, some 13631488], [some 1, none, some 3, some 4], [none,none,none,none], [some 5,some 6,some 7,some 8]] }
def key0 (s : State) : State := s.modSlot 1 fun x => { x with loaded := true, key := zeros 32, cls := 1, version := 2 }
def hot : Sinc := ((((({} : Sinc).window (BitVec.allOnes 256)).2.window (BitVec.allOnes 256)).2.window (BitVec.allOnes 256)).2.window (BitVec.allOnes 256)).2

/-- The hypotheses of MeteringIntegratesAndJudges, clause by clause (part 1), are met. -/
theorem witness1 :
    (∃ s : State, s.metering = false) ∧
    (∃ m0 : BitVec 256, ∃ m1 : BitVec 256, ∃ m2 : BitVec 256, ∃ m3 : BitVec 256, ∃ i0 : Nat, ∃ i1 : Nat, ∃ v0 : Nat, ∃ v1 : Nat, ∃ b : List (Option Nat), ∃ c : List (Option Nat), ∃ d : List (Option Nat), ∃ ys : List (Nat × Sinc), ∃ pa : Int × Int, ∃ pb : Int × Int, ∃ s : State, s.metering = true ∧ s.met.n < 128 ∧ s.met.stuck = 0 ∧ s.met.overload = 0 ∧ s.met.discard = [0, 0, 0, 0] ∧ s.met.stopped = none ∧ s.met.waiting = [[some i0, some i1, some v0, some v1], b, c, d] ∧ ys = s.met.filtered [m0, m1, m2, m3] ∧ (∀ q, q ∈ ys → overloads q.1 = false) ∧ s.met.product false [some i0, some i1, some v0, some v1] = some pa ∧ s.met.product true [some i0, some i1, some v0, some v1] = some pb ∧ -(2 ^ 63) ≤ s.met.balance - ((s.basisOf (s.met.billing.add pa) : Int) - s.basisOf s.met.billing) ∧ s.met.balance < 2 ^ 63 ∧ s.basisOf s.met.billing ≤ s.basisOf (s.met.billing.add pa)) ∧
    (∃ m0 : BitVec 256, ∃ m1 : BitVec 256, ∃ m2 : BitVec 256, ∃ m3 : BitVec 256, ∃ n : Nat, ∃ q : Nat × Sinc, ∃ s : State, s.metering = true ∧ s.met.n < 128 ∧ s.met.stuck = 0 ∧ s.met.discard = [0, 0, 0, 0] ∧ (s.met.filtered [m0, m1, m2, m3])[n]? = some q ∧ overloads q.1 = true) ∧
    (∃ m : Met, m.scale = [1000, 1000, 1048576, 1048576, 1048576, 1048576, 0, 0, 0, 0]) ∧
    (∃ s : State, s.met.n < 128) := by
  refine ⟨?_, ?_, ?_, ?_, ?_⟩
  · exact ⟨({ on with psc := { on.psc with state := .nunatakHold } }), by decide +kernel⟩
  · exact ⟨((BitVec.ofNat 256 0x5555555555555555555555555555555555555555555555555555555555555555)), ((BitVec.ofNat 256 0x5555555555555555555555555555555555555555555555555555555555555555)), ((BitVec.ofNat 256 0x5555555555555555555555555555555555555555555555555555555555555555)), ((BitVec.ofNat 256 0x5555555555555555555555555555555555555555555555555555555555555555)), _, _, _, _, _, _, _, _, _, _, (mm (fun _ => { run0 with filters := [hot, hot, hot, hot] }) on), by decide +kernel, by decide +kernel, by decide +kernel, by decide +kernel, by decide +kernel, by decide +kernel, rfl, rfl, holds (by letI := @decSome; letI := @decEx; letI := @decPair; letI := @decLanes; letI := @decOthers; letI := @decRank; letI := @decLine; infer_instance) (by decide +kernel), rfl, rfl, by decide +kernel⟩
  · exact ⟨((BitVec.ofNat 256 0x5555555555555555555555555555555555555555555555555555555555555555)), ((BitVec.ofNat 256 0x5555555555555555555555555555555555555555555555555555555555555555)), ((BitVec.ofNat 256 0x5555555555555555555555555555555555555555555555555555555555555555)), ((BitVec.allOnes 256)), (3), _, (mm (fun _ => { run0 with filters := [hot, hot, hot, hot] }) on), by decide +kernel, by decide +kernel, by decide +kernel, by decide +kernel, rfl, by decide +kernel⟩
  · exact ⟨(run0), by decide +kernel⟩
  · exact ⟨(on), by decide +kernel⟩

/-- The hypotheses of MeteringIntegratesAndJudges, clause by clause (part 2), are met. -/
theorem witness2 :
    (∃ s : State, 128 ≤ s.met.n ∧ (s.psc.state ≠ .drift ∨ s.psc.entry = none)) ∧
    (∃ n : Nat, ∃ s : State, s.metering = true ∧ n ≤ 3 ∧ s.met.stuck.getLsbD n = false) ∧
    (∃ n : Nat, ∃ s : State, (s.metering = false ∨ 3 < n ∨ s.met.stuck.getLsbD n = true)) ∧
    (∃ n : Nat, ∃ s : State, s.metering = true ∧ s.met.stuck.getLsbD n = true ∧ s.met.discard.length = 4) ∧
    (∃ n : Nat, ∃ s : State, (s.metering = false ∨ s.met.stuck.getLsbD n = false)) := by
  refine ⟨?_, ?_, ?_, ?_, ?_⟩
  · exact ⟨(mm (fun _ => { run0 with n := 128 }) on), by decide +kernel⟩
  · exact ⟨(0), (on), by decide +kernel⟩
  · exact ⟨(0), (mm (fun _ => { run0 with stuck := 9, boundary := 90000000000, stopped := some 100, flags := 3 }) ({ key0 on with ledger := { head := 9, lowSpace := true } })), by decide +kernel⟩
  · exact ⟨(0), (mm (fun _ => { run0 with stuck := 9, boundary := 90000000000, stopped := some 100, flags := 3 }) ({ key0 on with ledger := { head := 9, lowSpace := true } })), by decide +kernel⟩
  · exact ⟨(0), (on), by decide +kernel⟩

/-- The hypotheses of MeteringIntegratesAndJudges, clause by clause (part 3), are met. -/
theorem witness3 :
    (∃ s : State, s.met.commitNs + 1000000000 ≤ s.now) ∧
    (∃ s : State, s.now < s.met.commitNs + 1000000000) ∧
    (∃ s : State, s.now < s.met.boundary) ∧
    (∃ s : State, s.met.boundary ≤ s.now) ∧
    (∃ key : List Byte, ∃ s : State, s.met.boundary ≤ s.now ∧ s.chainKey s.tbu.epoch = some key ∧ s.ledger.queue = [] ∧ s.ledger.area = [] ∧ s.ledger.lowSpace = false ∧ s.ledger.head + 1 < 0xFFFFFFFF) := by
  refine ⟨?_, ?_, ?_, ?_, ?_⟩
  · exact ⟨(on), by decide +kernel⟩
  · exact ⟨(mm (fun _ => { run0 with filters := [hot, hot, hot, hot] }) on), by decide +kernel⟩
  · exact ⟨(mm (fun _ => { run0 with filters := [hot, hot, hot, hot] }) on), by decide +kernel⟩
  · exact ⟨(on), by decide +kernel⟩
  · exact ⟨_, (on), by decide +kernel, rfl, by decide +kernel⟩


end MeteringIntegratesAndJudges

namespace MoraineAndLedgCommands
def ll (f : Ledger → Ledger) (s : State) : State := { s with ledger := f s.ledger }
def key0 (s : State) : State := s.modSlot 1 fun x => { x with loaded := true, key := zeros 32, cls := 1, version := 2 }
def winOn (s : State) : State := s.modFab fun f => { f with windows := f.windows.set 0 { cfg := 0xFCF00000, busy := 1 } }
def en (n : Nat) : Entry := { type := 0x81, seq := n, ns := n, epoch := 1, body := zeros 24, mac := zeros 12, link := zeros 4 }
def crit : Entry := { type := 0x10, seq := 0, ns := 77, epoch := 1, aux := 5, body := zeros 24 }
def pay (kind : Nat) (seq : Nat) (amount : Int) : List Byte := leBytes 1 0x51 ++ leBytes 1 kind ++ zeros 2 ++ leBytes 4 seq ++ leBytes 8 Config.deviceIdentity ++ leBytes 8 0x1000000000040001 ++ leInt 8 amount ++ leBytes 8 99
def lessor : PartRec := { kind := 1, role := 0x40, identity := 0x1000000000040001, state := .enrolled, slot := 5 }
def withL (s : State) : State := ((key0 s).modSlot 5 fun x => { x with loaded := true, key := zeros 32, cls := 2 }).modParts fun x => { x with table := [(3, lessor)] }
def sgn (p : List Byte) : List Byte := p ++ (Aes.cmac (kdf (zeros 32) 0x0401 0x1000000000040001 0x40 0 128) p).take 12

/-- The device field of a signed message. -/
theorem device_at (kind seq : Nat) (amount : Int) : uAt (sgn (pay kind seq amount)) 8 8 = Config.deviceIdentity := by
  have e : sgn (pay kind seq amount) = (leBytes 1 0x51 ++ leBytes 1 kind ++ zeros 2 ++ leBytes 4 seq) ++ leBytes 8 Config.deviceIdentity ++
      (leBytes 8 0x1000000000040001 ++ leInt 8 amount ++ leBytes 8 99 ++
        (Aes.cmac (kdf (zeros 32) 0x0401 0x1000000000040001 0x40 0 128) (pay kind seq amount)).take 12) := by
    simp only [sgn, pay, List.append_assoc]
  rw [e]
  exact identity_at (by simp [leBytes_length, zeros])

/-- A message waits where its key must be derived and the engine is sealed. -/
theorem credit_waits {s : State} {mb : Nat} {p : List Byte} (hp : (s.box mb).payload = p) (hd : uAt p 8 8 = Config.deviceIdentity)
    (h : (s.crypt.sealed && creditForm p && !s.identityLocked (uAt p 16 8) && decide (s.now ≤ (s.box mb).limit) &&
      match s.rec? (uAt p 16 8) with
      | some r => r.state == .enrolled && r.role == 0x40
      | none => false) = true) : s.creditWaits mb = true := by
  simp only [Bool.and_eq_true] at h
  obtain ⟨⟨⟨⟨h1, h2⟩, h3⟩, h4⟩, h5⟩ := h
  simp only [State.creditWaits, State.creditKeyed, hp, hd, beq_self_eq_true, Bool.and_eq_true, h1, h2, h3, h4, true_and, and_true]
  exact h5

/-- The hypotheses of MoraineAndLedgCommands, clause by clause (part 1), are met. -/
theorem witness1 :
    (∃ mb : Nat, ∃ s : State, Takes s mb 0x0B01) ∧
    (∃ mb : Nat, ∃ s : State, Takes s mb 0x0B02) ∧
    (∃ mb : Nat, ∃ p : List Byte, ∃ es : List Entry, ∃ s : State, p = (s.box mb).payload ∧ Takes s mb 0x0B03 ∧ (s.box mb).hasWindow = true ∧ es = (s.ledger.ring.drop (uAt p 0 4 - s.ledger.tail)).take (uAt p 4 2)) ∧
    (∃ mb : Nat, ∃ k : Nat, ∃ s : State, Takes s mb 0x0B04 ∧ k = uAt (s.box mb).payload 0 4) ∧
    (∃ mb : Nat, ∃ p : List Byte, ∃ s : State, Takes s mb 0x0B05 ∧ p = (s.box mb).payload ∧ s.creditWaits mb = true) := by
  refine ⟨?_, ?_, ?_, ?_, ?_⟩
  · exact ⟨(0), (put 0 0x0B01 [] on), holds (by unfold Takes Started; infer_instance) (by decide +kernel)⟩
  · exact ⟨(0), (put 0 0x0B02 [] (ll (fun l => { l with ring := [en 5, en 6], head := 7, lost := 3, queue := [crit] }) on)), holds (by unfold Takes Started; infer_instance) (by decide +kernel)⟩
  · exact ⟨(0), _, _, (winOn (putWin 0 0x0B03 (leBytes 4 5 ++ leBytes 2 2 ++ zeros 2 ++ leBytes 4 64) (ll (fun l => { l with ring := [en 4, en 5, en 6, en 7], head := 8 }) on))), rfl, holds (by unfold Takes Started; infer_instance) (by decide +kernel), by decide +kernel, rfl⟩
  · exact ⟨(0), _, (put 0 0x0B04 (leBytes 4 5) (ll (fun l => { l with ring := [en 4, en 5, en 6, en 7], head := 8 }) on)), holds (by unfold Takes Started; infer_instance) (by decide +kernel), rfl⟩
  · exact ⟨0, sgn (pay 1 1 5), put 0 0x0B05 (sgn (pay 1 1 5)) ((withL on).modCrypt fun c => { c with sealed := true }), holds (by unfold Takes Started; infer_instance) (by decide +kernel), rfl, credit_waits rfl (device_at 1 1 5) (by decide +kernel)⟩

/-- A message from no enrolled record is refused, whichever device it names. -/
theorem credit_refused {s : State} {p : List Byte} (h : s.rec? (uAt p 16 8) = none) : ∃ st, s.creditCheck p = some st := by
  unfold State.creditCheck
  simp only [h]
  split <;> exact ⟨_, rfl⟩

/-- The signed message that is applied. -/
def msg : List Byte := sgn (pay 2 1 (-5))

/-- The state in which it is checked. -/
def atMsg : State := (((put 0 0x0B05 msg (withL on)).cmdView 0)).evalIdentity (uAt msg 16 8)

/-- Its tag verifies. -/
theorem msg_tag : (Aes.cmac (kdf (zeros 32) 0x0401 0x1000000000040001 0x40 0 128) (msg.take 40)).take 12 = slice msg 40 12 := by
  have h : msg.take 40 = pay 2 1 (-5) := List.take_left' (by decide +kernel)
  have ht : slice msg 40 12 = (Aes.cmac (kdf (zeros 32) 0x0401 0x1000000000040001 0x40 0 128) (pay 2 1 (-5))).take 12 :=
    slice_tail (by decide +kernel) (by decide +kernel)
  rw [h, ht]

/-- It passes every check. -/
theorem msg_passes : atMsg.creditCheck msg = none := by
  have h1 : creditForm msg = true := by decide +kernel
  have h2 : atMsg.rec? (uAt msg 16 8) = some lessor := by decide +kernel
  have h3 : atMsg.identityLocked (uAt msg 16 8) = false := by decide +kernel
  have h4 : atMsg.partnerKey lessor 0x0401 128 = some (kdf (zeros 32) 0x0401 0x1000000000040001 0x40 0 128) := by decide +kernel
  have h5 : ¬ uAt msg 4 4 ≤ atMsg.lastSeq (uAt msg 16 8) := by decide +kernel
  have h6 : uAt msg 8 8 = Config.deviceIdentity := device_at 2 1 (-5)
  simp only [State.creditCheck, h1, h6, h2, h3, h4, msg_tag, bne_self_eq_false, Bool.not_true, Bool.or_self]
  rw [if_neg (by decide), if_neg (by decide), if_neg (by decide), if_neg (by simp), if_neg h5]

/-- The hypotheses of MoraineAndLedgCommands, clause by clause (part 2), are met. -/
theorem witness2 :
    (∃ mb : Nat, ∃ p : List Byte, ∃ s : State, Takes s mb 0x0B05 ∧ p = (s.box mb).payload ∧ creditForm p = false) ∧
    (∃ mb : Nat, ∃ p : List Byte, ∃ v : State, ∃ s : State, Takes s mb 0x0B05 ∧ p = (s.box mb).payload ∧ creditForm p = true ∧ s.creditWaits mb = false ∧ v = (s.cmdView mb).evalIdentity (uAt p 16 8) ∧ ∃ st, v.creditCheck p = some st) ∧
    (∃ mb : Nat, ∃ p : List Byte, ∃ v : State, ∃ s : State, Takes s mb 0x0B05 ∧ p = (s.box mb).payload ∧ creditForm p = true ∧ s.creditWaits mb = false ∧ v = (s.cmdView mb).evalIdentity (uAt p 16 8) ∧ v.creditCheck p = none ∧ s.rel.presence = [] ∧ -(2 ^ 63) ≤ s.met.balance ∧ (uAt p 1 1 = 1 → s.met.balance + iAt p 24 8 < 2 ^ 63)) ∧
    (∃ s : State, ((s.ledger.queue = [] ∧ s.ledger.area = []) ∨ s.chainKey s.tbu.epoch = none)) ∧
    (∃ s : State, s.chainKey s.tbu.epoch ≠ none) := by
  refine ⟨?_, ?_, ?_, ?_, ?_⟩
  · exact ⟨(0), _, (put 0 0x0B05 (zeros 52) on), holds (by unfold Takes Started; infer_instance) (by decide +kernel), rfl, by decide +kernel⟩
  · exact ⟨0, pay 1 1 5 ++ zeros 12, _, put 0 0x0B05 (pay 1 1 5 ++ zeros 12) on, holds (by unfold Takes Started; infer_instance) (by decide +kernel), rfl, by decide +kernel, by decide +kernel, rfl, credit_refused (by decide +kernel)⟩
  · exact ⟨0, msg, atMsg, put 0 0x0B05 msg (withL on), holds (by unfold Takes Started; infer_instance) (by decide +kernel), rfl, by decide +kernel, by decide +kernel, rfl, msg_passes, by decide +kernel⟩
  · exact ⟨(put 0 0x0B05 (sgn (pay 1 1 5)) ((withL on).modCrypt fun c => { c with sealed := true })), by decide +kernel⟩
  · exact ⟨(on), by decide +kernel⟩

/-- The hypotheses of MoraineAndLedgCommands, clause by clause (part 3), are met. -/
theorem witness3 :
    (∃ e : Entry, ∃ key : List Byte, ∃ s : State, s.ledger.queue = [e] ∧ s.ledger.area = [] ∧ s.chainKey s.tbu.epoch ≠ none ∧ s.chainKey e.epoch = some key ∧ e.critical = true ∧ s.ledger.ring.length < 12288 ∧ s.ledger.head < 0xFFFFFFFF ∧ s.ledger.tally = [0, 0, 0, 0, 0]) ∧
    (∃ s : State, (∀ r, r ∈ s.health.sums → r.epoch = s.tbu.epoch ∧ hourOf s.now ≤ hourOf r.ns)) ∧
    (∃ r : HealthRec, ∃ s : State, s.health.sums = [r] ∧ (r.epoch ≠ s.tbu.epoch ∨ hourOf r.ns < hourOf s.now)) ∧
    (∃ s : State, s.now < s.net.statHour) ∧
    (∃ s : State, s.net.statHour ≤ s.now) := by
  refine ⟨?_, ?_, ?_, ?_, ?_⟩
  · exact ⟨_, _, (put 0 0x0B02 [] (ll (fun l => { l with ring := [en 5, en 6], head := 7, lost := 3, queue := [crit] }) on)), rfl, by decide +kernel, by decide +kernel, rfl, by decide +kernel⟩
  · exact ⟨(put 0 0x0B05 (sgn (pay 1 1 5)) ((withL on).modCrypt fun c => { c with sealed := true })), holds (by letI := @decSome; letI := @decEx; letI := @decPair; letI := @decLanes; letI := @decOthers; letI := @decRank; letI := @decLine; infer_instance) (by decide +kernel)⟩
  · exact ⟨_, ({ on with health := { next := 4, sums := [{ code := 0x30, epoch := 1, ns := 5 }] }, tbu := { on.tbu with ns := 3600000000001 } }), rfl, by decide +kernel⟩
  · exact ⟨(put 0 0x0B05 (sgn (pay 1 1 5)) ((withL on).modCrypt fun c => { c with sealed := true })), by decide +kernel⟩
  · exact ⟨({ on with health := { next := 4, sums := [{ code := 0x30, epoch := 1, ns := 5 }] }, tbu := { on.tbu with ns := 3600000000001 } }), by decide +kernel⟩


end MoraineAndLedgCommands

namespace SleepIsVotedCommittedAndRolledBack
def ps (f : Psc → Psc) (s : State) : State := { s with psc := f s.psc }
def fl (s : State) : State := ps (fun p => { p with state := .firn, powered := 0x0081 }) s
def wk (s : State) : State := s.modCrypt fun c => { c with wakeKey := zeros 32 }
def wbs : List Byte := [0x20, 0, 0, 0] ++ beBytes 4 0 ++ beBytes 4 77 ++ zeros 8
def wsx : List Word := wordsOf 4 (slice (wbs ++ zeros 8) 4 16)

/-- The hypotheses of SleepIsVotedCommittedAndRolledBack, clause by clause (part 1), are met. -/
theorem witness1 :
    (∃ mb : Nat, ∃ u : State, ∃ v : State, ∃ s : State, Takes s mb 0x0D02 ∧ s.psc.state = .run ∧ u = s.modPsc (fun p => { p with sleepMb := some mb, wakeEn := (BitVec.ofNat 32 (uAt (s.box mb).payload 4 4) &&& 0x3FFF) ||| 0x23B1, entry := some (targetOf (uAt (s.box mb).payload 0 1)), keep := keptBy (targetOf (uAt (s.box mb).payload 0 1)) (uAt (s.box mb).payload 2 2), vote := true, committed := false, gatedNow := [] }) ∧ v = u.sleepDown ∧ v.vetoer = none) ∧
    (∃ mb : Nat, ∃ u : State, ∃ v : State, ∃ s : State, Takes s mb 0x0D02 ∧ s.psc.state = .run ∧ u = s.modPsc (fun p => { p with sleepMb := some mb, wakeEn := (BitVec.ofNat 32 (uAt (s.box mb).payload 4 4) &&& 0x3FFF) ||| 0x23B1, entry := some (targetOf (uAt (s.box mb).payload 0 1)), keep := keptBy (targetOf (uAt (s.box mb).payload 0 1)) (uAt (s.box mb).payload 2 2), vote := true, committed := false, gatedNow := [] }) ∧ v = u.sleepDown ∧ ∃ d, v.vetoer = some d) ∧
    (∃ s : State, s.psc.state ≠ .run) ∧
    (∃ mb : Nat, ∃ s : State, Takes s mb 0x0D01) ∧
    (∃ target : PowerState, ∃ s : State, s.psc.entry = some target ∧ s.psc.committed = false ∧ ∃ d, s.vetoer = some d) := by
  refine ⟨?_, ?_, ?_, ?_, ?_⟩
  · exact ⟨(0), _, _, (put 0 0x0D02 (leBytes 1 1 ++ zeros 7) on), holds (by unfold Takes Started; infer_instance) (by decide +kernel), by decide +kernel, rfl, rfl, by decide +kernel⟩
  · exact ⟨(0), _, _, (put 0 0x0D02 (leBytes 1 3 ++ zeros 3 ++ leBytes 4 0x3FFF) { on with net := { on.net with sakChange := [true, false] } }), holds (by unfold Takes Started; infer_instance) (by decide +kernel), by decide +kernel, rfl, rfl, _, rfl⟩
  · exact ⟨(fl on), by decide +kernel⟩
  · exact ⟨(0), (put 0 0x0D01 [] on), holds (by unfold Takes Started; infer_instance) (by decide +kernel)⟩
  · exact ⟨_, (ps (fun p => { p with entry := some .permafrost, keep := 0, sleepMb := some 0 }) { on with net := { on.net with sakChange := [true, false] } }), rfl, by decide +kernel, _, rfl⟩

/-- The hypotheses of SleepIsVotedCommittedAndRolledBack, clause by clause (part 2), are met. -/
theorem witness2 :
    (∃ target : PowerState, ∃ s : State, s.psc.entry = some target ∧ s.psc.committed = false ∧ s.vetoer = none ∧ s.trimReady target = false) ∧
    (∃ target : PowerState, ∃ s : State, s.psc.entry = some target ∧ s.psc.committed = false ∧ s.vetoer = none ∧ s.trimReady target = true) ∧
    (∃ s : State, (s.psc.entry = none ∨ s.psc.committed = true)) ∧
    (∃ d : Nat, ∃ s : State, s.psc.entry.isSome = true ∧ 1 ≤ d ∧ d ≤ 13 ∧ s.pdOn d = true) ∧
    (∃ d : Nat, ∃ s : State, (s.psc.entry = none ∨ d = 0 ∨ 13 < d ∨ s.pdOn d = false)) := by
  refine ⟨?_, ?_, ?_, ?_, ?_⟩
  · exact ⟨_, (ps (fun p => { p with entry := some .permafrost }) { on with tbu := { on.tbu with trimInc := none } }), rfl, by decide +kernel⟩
  · exact ⟨_, (ps (fun p => { p with entry := some .drift }) on), rfl, by decide +kernel⟩
  · exact ⟨(on), by decide +kernel⟩
  · exact ⟨(1), (ps (fun p => { p with entry := some .drift }) on), by decide +kernel⟩
  · exact ⟨(0), (on), by decide +kernel⟩

/-- The hypotheses of SleepIsVotedCommittedAndRolledBack, clause by clause (part 3), are met. -/
theorem witness3 :
    (∃ target : PowerState, ∃ d : Nat, ∃ s : State, s.psc.entry = some target ∧ s.psc.committed = true ∧ s.nextGate = some d ∧ s.vetoer = none) ∧
    (∃ s : State, (s.psc.entry = none ∨ s.psc.committed = false ∨ s.nextGate = none)) ∧
    (∃ s : State, s.rolesRun = true ∧ s.psc.state = .run ∧ s.psc.entry = none ∧ s.psc.sleepMb = none ∧ s.pdOn 9 = false ∧ s.pdOn 10 = false ∧ s.driftIdleRun = true ∧ (s.modPsc fun p => { p with keep := keptBy .drift 0 }).vetoer = none) ∧
    (∃ s : State, (s.rolesRun = false ∨ s.psc.state ≠ .run ∨ s.psc.entry ≠ none ∨ s.psc.sleepMb ≠ none ∨ s.driftIdleRun = false)) ∧
    (∃ code : Nat, ∃ s : State, (0x0D < code ∨ s.wakeEnabled code = false ∨ s.inRun)) := by
  refine ⟨?_, ?_, ?_, ?_, ?_⟩
  · exact ⟨_, _, (ps (fun p => { p with entry := some .firn, keep := 0x80, committed := true, gatedNow := [10, 9], powered := 0x39FF }) on), rfl, by decide +kernel, rfl, by decide +kernel⟩
  · exact ⟨(on), by decide +kernel⟩
  · exact ⟨(ps (fun p => { p with powered := 0x39FF }) on), by decide +kernel⟩
  · exact ⟨(fl on), by decide +kernel⟩
  · exact ⟨(0), (on), holds (by unfold State.inRun; infer_instance) (by decide +kernel)⟩

/-- The hypotheses of SleepIsVotedCommittedAndRolledBack, clause by clause (part 4), are met. -/
theorem witness4 :
    (∃ code : Nat, ∃ s : State, code ≤ 0x0D ∧ s.wakeEnabled code = true ∧ s.psc.entry = none ∧ wakesFrom code s.psc.state = true ∧ s.psc.waking = none) ∧
    (∃ code : Nat, ∃ s : State, code ≤ 0x0D ∧ s.wakeEnabled code = true ∧ s.psc.entry = none ∧ wakesFrom code s.psc.state = true ∧ ∃ w, s.psc.waking = some w ∧ s.psc.wakeNs = s.now) ∧
    (∃ code : Nat, ∃ s : State, code ≤ 0x0D ∧ s.wakeEnabled code = true ∧ s.psc.entry = none ∧ wakesFrom code s.psc.state = true ∧ ∃ w, s.psc.waking = some w ∧ s.psc.wakeNs ≠ s.now) ∧
    (∃ code : Nat, ∃ s : State, ∃ target, code ≤ 0x0D ∧ s.wakeEnabled code = true ∧ s.psc.entry = some target ∧ s.psc.committed = true ∧ wakesFrom code target = true) ∧
    (∃ code : Nat, ∃ s : State, ∃ target, code ≤ 0x0D ∧ s.wakeEnabled code = true ∧ s.psc.entry = some target ∧ (s.psc.committed = false ∨ wakesFrom code target = false)) := by
  refine ⟨?_, ?_, ?_, ?_, ?_⟩
  · exact ⟨(0), (fl on), by decide +kernel⟩
  · exact ⟨(0), (ps (fun p => { p with state := .permafrost, powered := 0x0001, waking := some 9, wakeNs := on.now }) on), by decide +kernel, by decide +kernel, by decide +kernel, by decide +kernel, _, rfl, by decide +kernel⟩
  · exact ⟨(0), (ps (fun p => { p with state := .permafrost, powered := 0x0001, waking := some 9, wakeNs := 7, sleepMb := some 0 }) (put 0 0x0D02 (leBytes 1 3 ++ zeros 7) on)), by decide +kernel, by decide +kernel, by decide +kernel, by decide +kernel, _, rfl, by decide +kernel⟩
  · exact ⟨(0), (ps (fun p => { p with entry := some .firn, keep := 0x80, committed := true, gatedNow := [10, 9], powered := 0x39FF }) on), _, by decide +kernel, by decide +kernel, rfl, by decide +kernel⟩
  · exact ⟨(0), (ps (fun p => { p with entry := some .drift }) on), _, by decide +kernel, by decide +kernel, rfl, by decide +kernel⟩

/-- The hypotheses of SleepIsVotedCommittedAndRolledBack, clause by clause (part 5), are met. -/
theorem witness5 :
    (∃ s : State, (s.psc.waking = none ∨ s.psc.entry ≠ none ∨ fromCode s.psc.state = 0)) ∧
    (∃ s : State, s.psc.waking ≠ none ∧ s.psc.entry = none ∧ fromCode s.psc.state ≠ 0) ∧
    (∃ port : Nat, ∃ s : State, (2 ≤ port ∨ s.pdOn 7 = true)) ∧
    (∃ port : Nat, ∃ s : State, port < 2 ∧ s.pdOn 7 = false ∧ s.wakeEnabled (2 + port) = true ∧ s.psc.entry = none ∧ s.psc.waking = none ∧ (s.psc.state = .firn ∨ s.psc.state = .permafrost)) ∧
    (∃ port : Nat, ∃ s : State, s.phyOn port = false) := by
  refine ⟨?_, ?_, ?_, ?_, ?_⟩
  · exact ⟨(on), by decide +kernel⟩
  · exact ⟨(ps (fun p => { p with state := .permafrost, powered := 0x0001, waking := some 9, wakeNs := on.now }) on), by decide +kernel⟩
  · exact ⟨(0), (on), by decide +kernel⟩
  · exact ⟨(0), (ps (fun p => { p with state := .firn, powered := 0x0001 }) on), by decide +kernel⟩
  · exact ⟨(0), (ps (fun p => { p with entry := some .permafrost, committed := true, powered := 0x0041, waking := none }) on), by decide +kernel⟩

/-- The Ethernet wake frame's tag. -/
theorem wake_tag : slice (wbs ++ (wk on).wakeTag 0 wsx) 20 8 = (wk on).wakeTag 0 wsx := slice_tail (by decide +kernel) (by decide +kernel)

/-- Its words. -/
theorem wake_words : wordsOf 4 (slice (wbs ++ (wk on).wakeTag 0 wsx) 4 16) = wsx := by decide +kernel

/-- It verifies. -/
theorem wake_ok : (fl (wk on)).wakeFrameOk 0 (wordsOf 4 (slice (wbs ++ (wk on).wakeTag 0 wsx) 4 16))
    (slice (wbs ++ (wk on).wakeTag 0 wsx) 20 8) = true := by
  rw [wake_tag, wake_words, State.wakeFrameOk, show (fl (wk on)).wakeTag 0 wsx = (wk on).wakeTag 0 wsx by simp only [State.wakeTag, fl, ps],
    beq_self_eq_true]
  decide +kernel

/-- The hypotheses of SleepIsVotedCommittedAndRolledBack, clause by clause (part 6), are met. -/
theorem witness6 :
    (∃ port : Nat, ∃ s : State, s.phyOn port = true ∧ s.net.stats.length = 6 ∧ s.inRun) ∧
    (∃ port : Nat, ∃ s : State, port < 2 ∧ s.phyOn port = true ∧ s.net.stats.length = 6 ∧ s.psc.state ≠ .firn) ∧
    (∃ port : Nat, ∃ bs : List Byte, ∃ s : State, port < 2 ∧ s.phyOn port = true ∧ s.net.stats.length = 6 ∧ s.psc.state = .firn ∧ bs.length = 28 ∧ uAt bs 0 1 = 0x20 ∧ s.wakeFrameOk 0 (wordsOf 4 (slice bs 4 16)) (slice bs 20 8) = false) ∧
    (∃ port : Nat, ∃ bs : List Byte, ∃ s : State, port < 2 ∧ s.phyOn port = true ∧ s.net.stats.length = 6 ∧ s.psc.state = .firn ∧ bs.length = 28 ∧ uAt bs 0 1 = 0x20 ∧ s.wakeFrameOk 0 (wordsOf 4 (slice bs 4 16)) (slice bs 20 8) = true ∧ s.wakeEnabled 1 = true ∧ s.psc.entry = none ∧ s.psc.waking = none) := by
  refine ⟨?_, ?_, ?_, ?_⟩
  · exact ⟨(0), (on), by decide +kernel, by decide +kernel, holds (by unfold State.inRun; infer_instance) (by decide +kernel)⟩
  · exact ⟨(0), (on), by decide +kernel⟩
  · exact ⟨(0), ([0x20] ++ zeros 27), (fl on), by decide +kernel⟩
  · exact ⟨0, wbs ++ (wk on).wakeTag 0 wsx, fl (wk on), by decide +kernel, by decide +kernel, by decide +kernel, by decide +kernel, by decide +kernel, by decide +kernel, wake_ok, by decide +kernel, by decide +kernel, by decide +kernel⟩


end SleepIsVotedCommittedAndRolledBack

namespace SuppliesGovernorAndPads
def ps (f : Psc → Psc) (s : State) : State := { s with psc := f s.psc }
def pw (f : Power → Power) (s : State) : State := { s with power := f s.power }
def pd (f : Pad → Pad) (s : State) : State := { s with pad := f s.pad }

/-- The hypotheses of SuppliesGovernorAndPads, clause by clause (part 1), are met. -/
theorem witness1 :
    (∃ s : State, s.power.line = false) ∧
    (∃ mv : Nat, ∃ s : State, s.power.line = true ∧ s.psc.vresMin ≤ mv) ∧
    (∃ mv : Nat, ∃ s : State, s.power.line = true ∧ mv < s.psc.vresMin ∧ ∃ t0, s.psc.vresEvent = some t0 ∧ s.now < t0 + hourNs) ∧
    (∃ mv : Nat, ∃ s : State, s.power.line = true ∧ mv < s.psc.vresMin ∧ (∀ t0, s.psc.vresEvent = some t0 → t0 + hourNs ≤ s.now) ∧ s.inRun) ∧
    (∃ s : State, s.power.line = true) := by
  refine ⟨?_, ?_, ?_, ?_, ?_⟩
  · exact ⟨(pw (fun p => { p with line := false }) on), by decide +kernel⟩
  · exact ⟨(3000), (on), by decide +kernel⟩
  · exact ⟨(0), (ps (fun p => { p with vresEvent := some 3 }) on), by decide +kernel, by decide +kernel, _, rfl, by decide +kernel⟩
  · exact ⟨(0), (on), by decide +kernel, by decide +kernel, holds (by letI := @decSome; letI := @decEx; letI := @decPair; letI := @decLanes; letI := @decOthers; letI := @decRank; letI := @decLine; infer_instance) (by decide +kernel), holds (by unfold State.inRun; infer_instance) (by decide +kernel)⟩
  · exact ⟨(on), by decide +kernel⟩

/-- The hypotheses of SuppliesGovernorAndPads, clause by clause (part 2), are met. -/
theorem witness2 :
    (∃ s : State, s.power.line = false) ∧
    (∃ w : Word, ∃ s : State, s.pad.frz.getLsbD 10 = true ∧ w.getLsbD 10 = true ∧ s.pdOn 10 = true ∧ s.inRun ∧ s.radio.st = .off ∧ s.rolesRun = true) ∧
    (∃ w : Word, ∃ s : State, (s.pad.frz.getLsbD 10 = false ∨ w.getLsbD 10 = false)) ∧
    (∃ pin : Nat, ∃ s : State, (16 ≤ pin ∨ s.psc.state = .nunatakHold ∨ s.pad.gpioDir.getLsbD pin = true)) ∧
    (∃ pin : Nat, ∃ s : State, pin < 16 ∧ s.psc.state ≠ .nunatakHold ∧ s.pad.gpioDir.getLsbD pin = false) := by
  refine ⟨?_, ?_, ?_, ?_, ?_⟩
  · exact ⟨(pw (fun p => { p with line := false }) on), by decide +kernel⟩
  · exact ⟨(0x400), (pd (fun p => { p with frz := 0x2440 }) on), by decide +kernel, by decide +kernel, by decide +kernel, holds (by unfold State.inRun; infer_instance) (by decide +kernel), by decide +kernel⟩
  · exact ⟨(0), (on), by decide +kernel⟩
  · exact ⟨(0), (pd (fun p => { p with gpioDir := 0xF }) on), by decide +kernel⟩
  · exact ⟨(0), (on), by decide +kernel⟩

/-- The hypotheses of SuppliesGovernorAndPads, clause by clause (part 3), are met. -/
theorem witness3 :
    (∃ pin : Nat, ∃ rising : Bool, ∃ s : State, pin < 16 ∧ s.pad.gpioDir.getLsbD pin = false ∧ s.pad.selects pin rising = true ∧ s.pad.gpioWake.getLsbD pin = true ∧ s.wakeEnabled 6 = true ∧ s.psc.entry = none ∧ s.psc.waking = none ∧ (s.psc.state = .firn ∨ s.psc.state = .permafrost)) ∧
    (∃ k : Nat, ∃ on : Bool, ∃ f : Feed, ∃ s : State, s.power.feeds[k]? = some f ∧ (f.delivering = on ∨ (on = true ∧ f.ov = true))) ∧
    (∃ k : Nat, ∃ on : Bool, ∃ f : Feed, ∃ s : State, s.power.feeds[k]? = some f ∧ f.delivering ≠ on ∧ (on = true → f.ov = false)) ∧
    (∃ k : Nat, ∃ on : Bool, ∃ f : Feed, ∃ s : State, s.power.feeds[k]? = some f ∧ (on = false ∨ f.delivering = false)) ∧
    (∃ k : Nat, ∃ on : Bool, ∃ f : Feed, ∃ s : State, s.power.feeds[k]? = some f ∧ on = true ∧ f.delivering = true) := by
  refine ⟨?_, ?_, ?_, ?_, ?_⟩
  · exact ⟨(0), (true), (pd (fun p => { p with gpioEdge := 0x55555555, gpioWake := 0xFFFF }) (ps (fun p => { p with wakeEn := 0x3FFF, state := .firn }) on)), by decide +kernel⟩
  · exact ⟨(0), (true), _, (pw (fun p => { p with feeds := [{ delivering := true, cls := some 3 }, { ov := true }] }) on), rfl, by decide +kernel⟩
  · exact ⟨(0), (true), _, (on), rfl, by decide +kernel⟩
  · exact ⟨(0), (true), _, (on), rfl, by decide +kernel⟩
  · exact ⟨(0), (true), _, (pw (fun p => { p with feeds := [{ delivering := true, cls := some 3 }, { ov := true }] }) on), rfl, by decide +kernel⟩

/-- The hypotheses of SuppliesGovernorAndPads, clause by clause (part 4), are met. -/
theorem witness4 :
    (∃ k : Nat, ∃ s : State, s.power.feeds[k]? = none) ∧
    (∃ k : Nat, k < 2) ∧
    (∃ k : Nat, 2 ≤ k) ∧
    (∃ k : Nat, ∃ cls : Nat, ∃ f : Feed, ∃ s : State, s.power.feeds[k]? = some f ∧ (16 ≤ cls ∨ f.cls = some cls)) ∧
    (∃ k : Nat, ∃ cls : Nat, ∃ f : Feed, ∃ s : State, s.power.feeds[k]? = some f ∧ cls < 16 ∧ f.cls ≠ some cls) := by
  refine ⟨?_, ?_, ?_, ?_, ?_⟩
  · exact ⟨(2), (on), by decide +kernel⟩
  · exact ⟨(0), by decide +kernel⟩
  · exact ⟨(2), by decide +kernel⟩
  · exact ⟨(0), (3), _, (pw (fun p => { p with feeds := [{ delivering := true, cls := some 3 }, { ov := true }] }) on), rfl, by decide +kernel⟩
  · exact ⟨(0), (0), _, (on), rfl, by decide +kernel⟩

/-- The hypotheses of SuppliesGovernorAndPads, clause by clause (part 5), are met. -/
theorem witness5 :
    (∃ s : State, s.lineUp = true) ∧
    (∃ s : State, s.lineUp = false) ∧
    (∃ s : State, s.lineUp = false) ∧
    (∃ s : State, s.lineUp = true ∧ 550 ≤ s.power.vcore ∧ s.power.vcore ≤ 850) ∧
    (∃ tempos : List Nat, ∃ demand : Nat, ∃ s : State, s.lineUp = true ∧ s.power.vcore = 850 ∧ s.pdOn 1 = true ∧ tempos.getD 0 0 < demand) := by
  refine ⟨?_, ?_, ?_, ?_, ?_⟩
  · exact ⟨(on), by decide +kernel⟩
  · exact ⟨(pw (fun p => { p with line := false }) on), by decide +kernel⟩
  · exact ⟨(pw (fun p => { p with line := false }) on), by decide +kernel⟩
  · exact ⟨(on), by decide +kernel⟩
  · exact ⟨([]), (1), (pw (fun p => { p with vcore := 850, unmet := 4 }) on), by decide +kernel⟩

/-- The hypotheses of SuppliesGovernorAndPads, clause by clause (part 6), are met. -/
theorem witness6 :
    (∃ s : State, s.lineUp = false) ∧
    (∃ again : Bool, ∃ failed : Bool, ∃ s : State, s.lineUp = true ∧ (again = false ∨ failed = false)) ∧
    (∃ link : Nat, ∃ again : Bool, ∃ failed : Bool, ∃ s : State, s.lineUp = true ∧ again = true ∧ failed = true ∧ (s.power.linkFails.filter fun p => decide (s.now ≤ p.2 + 1000000000) && p.1 == link).length < 2) ∧
    (∃ link : Nat, ∃ again : Bool, ∃ failed : Bool, ∃ s : State, s.lineUp = true ∧ again = true ∧ failed = true ∧ 2 ≤ (s.power.linkFails.filter fun p => decide (s.now ≤ p.2 + 1000000000) && p.1 == link).length) ∧
    (∃ port : Nat, ∃ s : State, (s.portOn port = false ∨ s.mbx.ready = false)) := by
  refine ⟨?_, ?_, ?_, ?_, ?_⟩
  · exact ⟨(pw (fun p => { p with line := false }) on), by decide +kernel⟩
  · exact ⟨(true), (false), (on), by decide +kernel⟩
  · exact ⟨(0), (true), (true), (on), by decide +kernel⟩
  · exact ⟨(0), (true), (true), (pw (fun p => { p with linkFails := [(0, 999900000000), (0, 999900000001), (1, 5)] }) on), by decide +kernel⟩
  · exact ⟨(0), (ps (fun p => { p with state := .nunatakHold }) on), by decide +kernel⟩

/-- The hypotheses of SuppliesGovernorAndPads, clause by clause (part 7), are met. -/
theorem witness7 :
    (∃ port : Nat, ∃ s : State, s.portOn port = true ∧ s.mbx.ready = true ∧ s.tbu.pdelaySent.length = 6) := by
  exact ⟨(0), (on), by decide +kernel⟩


end SuppliesGovernorAndPads

namespace UplinksMkaAndSegments
def pw (f : Net → Net) (s : State) : State := { s with net := f s.net }
def sec (s : State) : State := img [(recNetwork, fieldNo 4 4, 2), (recNetwork, fieldNo 5 4, 2), (recNetwork, fieldNo 6 1, 5)] (s.modSlot 5 fun x => { x with loaded := true, key := zeros 32, cls := 2 })
def seg (s : State) : State := img [(recNetwork, fieldNo 0 5, 1), (recNetwork, fieldNo 1 5, 1)] (s.modSlot 5 fun x => { x with loaded := true, key := zeros 32, cls := 2 })
def ident0 : Nat := 0x3000000000040001
def nrec : PartRec := { kind := 3, role := 0x30, identity := ident0, state := .enrolled, slot := 5, attach := nodeCode 0 1 }
def pt (rs : List PartRec) (s : State) : State := s.modParts fun x => { x with table := (List.range rs.length).zip rs }
def nk : List Byte := [107, 203, 175, 104, 176, 178, 128, 131, 207, 132, 231, 47, 169, 235, 137, 29]
def ann0 : List Byte := [1, 1, 20, 0] ++ leBytes 8 ident0 ++ zeros 4
def ann : List Byte := ann0 ++ [50, 158, 105, 21, 139, 241, 13, 121]
def rsp0 : List Byte := [3, 1, 16, 0] ++ leBytes 8 ident0
def rsp (_ : Nat) : List Byte := rsp0 ++ [133, 28, 37, 114, 136, 60, 54, 81]
def dat0 (n : Nat) : List Byte := [16, 1, 24, 0] ++ leBytes 8 ident0 ++ leBytes 4 n ++ [7, 7, 7, 7]
def dat (n : Nat) : List Byte := dat0 n ++ [150, 217, 100, 1, 14, 147, 169, 6]
def nd (f : NodeSess → NodeSess) (s : State) : State := s.putNode (f { attach := nodeCode 0 1, identity := ident0 })
def bnd : Binding := (5, 0, 0x30, 0)
def cakV : List Byte := ((sec on).cak 0).getD []
def icvV : List Byte := Aes.cmac (mkaKey cakV "IEEE8021 ICK" 0) [1, 2]
def wrV : List Byte := Aes.kwWrap (mkaKey cakV "IEEE8021 KEK" 0) (zeros 16)

/-- The hypotheses of UplinksMkaAndSegments, clause by clause (part 1), are met. -/
theorem witness1 :
    (∃ port : Nat, ∃ up : Bool, ∃ s : State, (s.net.linkUp.getD port up = up ∨ (up = true ∧ s.phyOn port = false))) ∧
    (∃ port : Nat, ∃ up : Bool, ∃ s : State, s.net.linkUp.getD port up ≠ up ∧ (up = true → s.phyOn port = true)) ∧
    (∃ port : Nat, ∃ s : State, port < 2 ∧ s.portOn port = true ∧ s.cfgN recNetwork (fieldNo (4 + port) 1) = 2 ∧ s.net.linkUp.getD port false = false) ∧
    (∃ port : Nat, ∃ s : State, (2 ≤ port ∨ s.portOn port = false ∨ s.net.linkUp.getD port false = true ∨ s.cfgN recNetwork (fieldNo (4 + port) 1) ≠ 2)) ∧
    (∃ port : Nat, ∃ s : State, port < 2 ∧ s.portOn port = true ∧ s.net.linkUp.getD port false = true ∧ s.hasCak port = true ∧ s.net.mkaSent.length = 2) := by
  refine ⟨?_, ?_, ?_, ?_, ?_⟩
  · exact ⟨0, (true), ({ on with psc := { state := .nunatakHold } }), by decide +kernel⟩
  · exact ⟨0, (true), (pw (fun n => { n with linkUp := [false, false, false, false, false, false] }) (img [(recNetwork, fieldNo 4 1, 2)] on)), by decide +kernel⟩
  · exact ⟨0, (pw (fun n => { n with linkUp := [false, false, false, false, false, false] }) (img [(recNetwork, fieldNo 4 1, 2)] on)), by decide +kernel⟩
  · exact ⟨0, ({ on with psc := { state := .nunatakHold } }), by decide +kernel⟩
  · exact ⟨0, (nd (fun n => { n with opened := false }) (pt [nrec] (seg on))), by decide +kernel⟩

/-- The ICV verifies under the CAK of number 0. -/
theorem icv_of {s : State} (hk : s.cak 0 = some cakV) (hc : s.cakNums = [0]) : s.cakNums.find? (fun n => s.icvOk n [1, 2] icvV) = some 0 := by
  have h : s.icvOk 0 [1, 2] icvV = true := by simp only [State.icvOk, hk, icvV]; exact beq_self_eq_true _
  rw [hc, List.find?, h]

/-- The wrapped SAK opens under the KEK of CAK number 0. -/
theorem sak_of {s : State} (hk : s.cak 0 = some cakV) (hl : cakV.length = 32) : s.unwrapSak 0 wrV = some (zeros 16) := by
  have hkek : (mkaKey cakV "IEEE8021 KEK" 0).length = 4 * 8 := by
    simp only [mkaKey, List.flatMap_cons, List.flatMap_nil, List.length_append, List.length_nil]
    rw [Aes.cmac_length (nk := 8) (by decide) hl, Aes.cmac_length (nk := 8) (by decide) hl]
  simp only [State.unwrapSak, hk, Option.bind_some, wrV]
  exact (Aes.kwUnwrap_kwWrap (nk := 8) (n := 2) (by decide) hkek (by decide)).1

/-- The hypotheses of UplinksMkaAndSegments, clause by clause (part 2), are met. -/
theorem witness2 :
    (∃ port : Nat, ∃ s : State, (2 ≤ port ∨ s.portOn port = false ∨ s.net.linkUp.getD port false = false ∨ s.hasCak port = false)) ∧
    (∃ port : Nat, ∃ s : State, (2 ≤ port ∨ s.portOn port = false ∨ s.hasCak port = false)) ∧
    (∃ port : Nat, ∃ pdu : List Byte, ∃ icv : List Byte, ∃ s : State, port < 2 ∧ s.portOn port = true ∧ s.hasCak port = true ∧ (∀ n, n ∈ s.cakNums → s.icvOk n pdu icv = false)) ∧
    (∃ port : Nat, ∃ sci : Nat, ∃ priority : Nat, ∃ num : Nat, ∃ pdu : List Byte, ∃ icv : List Byte, ∃ ps : List (Nat × Nat × Nat), ∃ u : State, ∃ s : State, port < 2 ∧ s.portOn port = true ∧ s.hasCak port = true ∧ s.crypt.sas.length = 8 ∧ s.net.peers.length = 2 ∧ s.net.an.length = 2 ∧ s.net.sakChange.length = 2 ∧ s.net.stats.length = 6 ∧ s.cakNums.find? (fun n => s.icvOk n pdu icv) = some num ∧ ps = (sci, priority, s.now) :: (s.peersOf port).filter (fun p => p.1 != sci) ∧ u = s.modNet (fun n => { n with peers := n.peers.set port ps }) ∧ ((s.peersOf port).any fun p => p.1 == sci) = true ∧ s.net.sakChange.getD port false = true) ∧
    (∃ port : Nat, ∃ sci : Nat, ∃ priority : Nat, ∃ num : Nat, ∃ pdu : List Byte, ∃ icv : List Byte, ∃ ps : List (Nat × Nat × Nat), ∃ u : State, ∃ s : State, port < 2 ∧ s.portOn port = true ∧ s.hasCak port = true ∧ s.crypt.sas.length = 8 ∧ s.net.peers.length = 2 ∧ s.net.an.length = 2 ∧ s.net.sakChange.length = 2 ∧ s.net.stats.length = 6 ∧ s.cakNums.find? (fun n => s.icvOk n pdu icv) = some num ∧ ps = (sci, priority, s.now) :: (s.peersOf port).filter (fun p => p.1 != sci) ∧ u = s.modNet (fun n => { n with peers := n.peers.set port ps }) ∧ ∃ wrapped, ∃ key, ((s.peersOf port).any fun p => p.1 == sci) = true ∧ u.keyServer port = false ∧ s.unwrapSak num wrapped = some key) := by
  refine ⟨?_, ?_, ?_, ?_, ?_⟩
  · exact ⟨0, ({ on with psc := { state := .nunatakHold } }), by decide +kernel⟩
  · exact ⟨0, ({ on with psc := { state := .nunatakHold } }), by decide +kernel⟩
  · exact ⟨0, [1, 2], zeros 16, ((sec on).modSlot 5 fun x => { x with key := [] }), by decide +kernel, by decide +kernel, by decide +kernel, holds (by letI := @decSome; letI := @decEx; letI := @decPair; letI := @decLanes; letI := @decOthers; letI := @decRank; letI := @decLine; infer_instance) (by decide +kernel)⟩
  · exact ⟨0, 5, 1, 0, [1, 2], icvV, _, _, (pw (fun n => { n with peers := [[(5, 250, on.now)], []], sakChange := [true, false] }) (sec on)), by decide +kernel, by decide +kernel, by decide +kernel, by decide +kernel, by decide +kernel, by decide +kernel, by decide +kernel, by decide +kernel, icv_of rfl (by decide +kernel), rfl, rfl, by decide +kernel⟩
  · exact ⟨0, 5, 1, 0, [1, 2], icvV, _, _, (pw (fun n => { n with peers := [[(5, 250, on.now)], []], sakChange := [true, false] }) (sec on)), by decide +kernel, by decide +kernel, by decide +kernel, by decide +kernel, by decide +kernel, by decide +kernel, by decide +kernel, by decide +kernel, icv_of rfl (by decide +kernel), rfl, rfl, wrV, zeros 16, by decide +kernel, by decide +kernel, sak_of rfl (kdf_length (root := zeros 32) (nk := 8) (by decide) (by decide) 0x0501 Config.deviceIdentity 0 0)⟩

/-- The hypotheses of UplinksMkaAndSegments, clause by clause (part 3), are met. -/
theorem witness3 :
    (∃ port : Nat, ∃ sci : Nat, ∃ priority : Nat, ∃ num : Nat, ∃ pdu : List Byte, ∃ icv : List Byte, ∃ ps : List (Nat × Nat × Nat), ∃ u : State, ∃ s : State, port < 2 ∧ s.portOn port = true ∧ s.hasCak port = true ∧ s.crypt.sas.length = 8 ∧ s.net.peers.length = 2 ∧ s.net.an.length = 2 ∧ s.net.sakChange.length = 2 ∧ s.net.stats.length = 6 ∧ s.cakNums.find? (fun n => s.icvOk n pdu icv) = some num ∧ ps = (sci, priority, s.now) :: (s.peersOf port).filter (fun p => p.1 != sci) ∧ u = s.modNet (fun n => { n with peers := n.peers.set port ps }) ∧ ((s.peersOf port).any fun p => p.1 == sci) = false ∧ u.keyServer port = true ∧ s.net.sakChange.getD port false = false) ∧
    (∃ port : Nat, ∃ live : List (Nat × Nat × Nat), ∃ s : State, live = (s.peersOf port).filter (fun p => decide (s.now < p.2.2 + 6000000000)) ∧ (2 ≤ port ∨ live.length = (s.peersOf port).length)) ∧
    (∃ port : Nat, ∃ live : List (Nat × Nat × Nat), ∃ s : State, live = (s.peersOf port).filter (fun p => decide (s.now < p.2.2 + 6000000000)) ∧ port < 2 ∧ live.length ≠ (s.peersOf port).length ∧ s.crypt.sas.length = 8) ∧
    (∃ port : Nat, ∃ s : State, port < 2 ∧ s.portOn port = true ∧ s.net.mgmtOff.getD port false = false) ∧
    (∃ port : Nat, ∃ s : State, (2 ≤ port ∨ s.portOn port = false ∨ s.net.mgmtOff.getD port false = true)) := by
  refine ⟨?_, ?_, ?_, ?_, ?_⟩
  · exact ⟨0, 5, 250, 0, [1, 2], icvV, _, _, (sec on), by decide +kernel, by decide +kernel, by decide +kernel, by decide +kernel, by decide +kernel, by decide +kernel, by decide +kernel, by decide +kernel, icv_of rfl (by decide +kernel), rfl, rfl, by decide +kernel⟩
  · exact ⟨0, _, ({ on with psc := { state := .nunatakHold } }), rfl, by decide +kernel⟩
  · exact ⟨0, _, (pw (fun n => { n with peers := [[(5, 1, 7)], []] }) (sec on)), rfl, by decide +kernel⟩
  · exact ⟨0, (nd (fun n => { n with opened := false }) (pt [nrec] (seg on))), by decide +kernel⟩
  · exact ⟨0, ({ on with psc := { state := .nunatakHold } }), by decide +kernel⟩

/-- The hypotheses of UplinksMkaAndSegments, clause by clause (part 4), are met. -/
theorem witness4 :
    (∃ port : Nat, ∃ s : State, s.portOn port = false) ∧
    (∃ port : Nat, ∃ prot : Bool, ∃ s : State, s.portOn port = true ∧ s.takes port prot = true ∧ s.net.stats.length = 6) ∧
    (∃ port : Nat, ∃ prot : Bool, ∃ s : State, s.portOn port = true ∧ s.takes port prot = false ∧ s.net.stats.length = 6) ∧
    (∃ seg : Nat, ∃ s : State, s.segOn seg = true ∧ (∀ t0, s.net.clash.getD seg none = some t0 → t0 + 10000000000 ≤ s.now)) ∧
    (∃ seg : Nat, ∃ s : State, (s.segOn seg = false ∨ ∃ t0, s.net.clash.getD seg none = some t0 ∧ s.now < t0 + 10000000000)) := by
  refine ⟨?_, ?_, ?_, ?_, ?_⟩
  · exact ⟨0, ({ on with psc := { state := .nunatakHold } }), by decide +kernel⟩
  · exact ⟨0, (false), (img [(recNetwork, fieldNo 4 3, 0)] on), by decide +kernel⟩
  · exact ⟨0, (true), (nd (fun n => { n with opened := false }) (pt [nrec] (seg on))), by decide +kernel⟩
  · exact ⟨0, (nd (fun n => { n with opened := false }) (pt [nrec] (seg on))), by decide +kernel, holds (by letI := @decSome; letI := @decEx; letI := @decPair; letI := @decLanes; letI := @decOthers; letI := @decRank; letI := @decLine; infer_instance) (by decide +kernel)⟩
  · exact ⟨0, ({ on with psc := { state := .nunatakHold } }), holds (by letI := @decSome; letI := @decEx; letI := @decPair; letI := @decLanes; letI := @decOthers; letI := @decRank; letI := @decLine; infer_instance) (by decide +kernel)⟩

/-- The hypotheses of UplinksMkaAndSegments, clause by clause (part 5), are met. -/
theorem witness5 :
    (∃ seg : Nat, ∃ s : State, s.segOn seg = false) ∧
    (∃ seg : Nat, ∃ frame : List Byte, ∃ s : State, s.segOn seg = true ∧ nodeHeader 1 frame = none) ∧
    (∃ seg : Nat, ∃ frame : List Byte, ∃ s : State, s.segOn seg = true ∧ nodeHeader 3 frame = none) ∧
    (∃ seg : Nat, ∃ frame : List Byte, ∃ s : State, s.segOn seg = true ∧ nodeHeader 16 frame = none) ∧
    (∃ seg : Nat, ∃ node : Nat, ∃ ident : Nat, ∃ code : Nat, ∃ frame : List Byte, ∃ locked : Bool, ∃ u : State, ∃ s : State, s.segOn seg = true ∧ nodeHeader 1 frame = some (node, ident) ∧ frame.length = 24 ∧ code = nodeCode seg node ∧ (s.rxFrame (2 + seg)).nodeLocked code ident = (locked, u) ∧ (locked = true ∨ u.rec? ident = none ∨ ∃ r, u.rec? ident = some r ∧ (r.state = .candidate ∨ r.kind ≠ 3 ∨ r.attach ≠ code))) := by
  refine ⟨?_, ?_, ?_, ?_, ?_⟩
  · exact ⟨0, ({ on with psc := { state := .nunatakHold } }), by decide +kernel⟩
  · exact ⟨0, rsp 9, (nd (fun n => { n with opened := false }) (pt [nrec] (seg on))), by decide +kernel⟩
  · exact ⟨0, ann, (nd (fun n => { n with opened := false }) (pt [nrec] (seg on))), by decide +kernel⟩
  · exact ⟨0, ann, (nd (fun n => { n with opened := false }) (pt [nrec] (seg on))), by decide +kernel⟩
  · exact ⟨0, _, _, nodeCode 0 1, ann, _, _, ((pt [nrec] (seg on)).modAttach (nodeCode 0 1) fun c => { c with count := 20, lastFailNs := 999999999999, decayRefNs := 999999999999 }), by decide +kernel, rfl, by decide +kernel, by decide +kernel, rfl, holds (by letI := @decSome; letI := @decEx; letI := @decPair; letI := @decLanes; letI := @decOthers; letI := @decRank; letI := @decLine; infer_instance) (by decide +kernel)⟩

/-- The hypotheses of UplinksMkaAndSegments, clause by clause (part 6), are met. -/
theorem witness6 :
    (∃ seg : Nat, ∃ node : Nat, ∃ ident : Nat, ∃ code : Nat, ∃ frame : List Byte, ∃ locked : Bool, ∃ u : State, ∃ s : State, s.segOn seg = true ∧ nodeHeader 1 frame = some (node, ident) ∧ frame.length = 24 ∧ code = nodeCode seg node ∧ (s.rxFrame (2 + seg)).nodeLocked code ident = (locked, u) ∧ ∃ r, locked = false ∧ u.rec? ident = some r ∧ r.state ≠ .candidate ∧ r.kind = 3 ∧ r.attach = code ∧ s.crypt.sealed = true) ∧
    (∃ seg : Nat, ∃ node : Nat, ∃ ident : Nat, ∃ code : Nat, ∃ frame : List Byte, ∃ locked : Bool, ∃ u : State, ∃ s : State, s.segOn seg = true ∧ nodeHeader 1 frame = some (node, ident) ∧ frame.length = 24 ∧ code = nodeCode seg node ∧ (s.rxFrame (2 + seg)).nodeLocked code ident = (locked, u) ∧ ∃ r, ∃ key, locked = false ∧ u.rec? ident = some r ∧ r.state ≠ .candidate ∧ r.kind = 3 ∧ r.attach = code ∧ s.crypt.sealed = false ∧ u.partnerKey r 0x0301 128 = some key ∧ nodeMac key (frame.take 16) = slice frame 16 8) ∧
    (∃ seg : Nat, ∃ node : Nat, ∃ ident : Nat, ∃ code : Nat, ∃ frame : List Byte, ∃ locked : Bool, ∃ u : State, ∃ s : State, s.segOn seg = true ∧ nodeHeader 1 frame = some (node, ident) ∧ frame.length = 24 ∧ code = nodeCode seg node ∧ (s.rxFrame (2 + seg)).nodeLocked code ident = (locked, u) ∧ ∃ r, ∃ key, locked = false ∧ u.rec? ident = some r ∧ r.state ≠ .candidate ∧ r.kind = 3 ∧ r.attach = code ∧ s.crypt.sealed = false ∧ u.partnerKey r 0x0301 128 = some key ∧ nodeMac key (frame.take 16) ≠ slice frame 16 8) ∧
    (∃ s : State, s.parts.table.filter (fun p => s.checkDue p.2) = []) ∧
    (∃ q : Nat × PartRec, ∃ u : State, ∃ s : State, s.parts.table.filter (fun p => s.checkDue p.2) = [q] ∧ s.nodeLocked q.2.attach q.2.identity = (true, u)) := by
  refine ⟨?_, ?_, ?_, ?_, ?_⟩
  · exact ⟨0, _, _, nodeCode 0 1, ann, _, _, ((pt [nrec] (seg on)).modCrypt fun c => { c with sealed := true }), by decide +kernel, rfl, by decide +kernel, by decide +kernel, rfl, _, by decide +kernel, rfl, by decide +kernel⟩
  · exact ⟨0, _, _, nodeCode 0 1, ann, _, _, (nd (fun n => { n with opened := false }) (pt [nrec] (seg on))), by decide +kernel, rfl, by decide +kernel, by decide +kernel, rfl, _, nk, by decide +kernel, rfl, by decide +kernel, by decide +kernel, by decide +kernel, by decide +kernel, by decide +kernel, by decide +kernel⟩
  · exact ⟨0, _, _, nodeCode 0 1, ann0 ++ zeros 8, _, _, (nd (fun n => { n with opened := false }) (pt [nrec] (seg on))), by decide +kernel, rfl, by decide +kernel, by decide +kernel, rfl, _, nk, by decide +kernel, rfl, by decide +kernel, by decide +kernel, by decide +kernel, by decide +kernel, by decide +kernel, by decide +kernel⟩
  · exact ⟨({ on with psc := { state := .nunatakHold } }), by decide +kernel⟩
  · exact ⟨_, _, ((pt [nrec] (seg on)).modAttach (nodeCode 0 1) fun c => { c with count := 20, lastFailNs := 999999999999, decayRefNs := 999999999999 }), rfl, rfl⟩

/-- The hypotheses of UplinksMkaAndSegments, clause by clause (part 7), are met. -/
theorem witness7 :
    (∃ q : Nat × PartRec, ∃ u : State, ∃ s : State, s.parts.table.filter (fun p => s.checkDue p.2) = [q] ∧ s.nodeLocked q.2.attach q.2.identity = (false, u)) ∧
    (∃ seg : Nat, ∃ node : Nat, ∃ ident : Nat, ∃ code : Nat, ∃ frame : List Byte, ∃ s : State, s.segOn seg = true ∧ nodeHeader 3 frame = some (node, ident) ∧ code = nodeCode seg node ∧ ((s.node code).challenge = none ∨ ∃ c t0, (s.node code).challenge = some (c, t0) ∧ t0 + 10000000 < s.now)) ∧
    (∃ seg : Nat, ∃ node : Nat, ∃ ident : Nat, ∃ code : Nat, ∃ frame : List Byte, ∃ s : State, s.segOn seg = true ∧ nodeHeader 3 frame = some (node, ident) ∧ code = nodeCode seg node ∧ ∃ c, ∃ t0, ∃ key, (s.node code).challenge = some (c, t0) ∧ s.now ≤ t0 + 10000000 ∧ (s.node code).identity = ident ∧ frame.length = 20 ∧ s.crypt.sealed = false ∧ s.nodeKey (s.node code) = some key ∧ nodeMac key (beBytes 12 c ++ frame.take 12) = slice frame 12 8 ∧ (s.node code).enrolling = false) ∧
    (∃ seg : Nat, ∃ node : Nat, ∃ ident : Nat, ∃ code : Nat, ∃ frame : List Byte, ∃ s : State, s.segOn seg = true ∧ nodeHeader 3 frame = some (node, ident) ∧ code = nodeCode seg node ∧ ∃ c, ∃ t0, ∃ key, (s.node code).challenge = some (c, t0) ∧ s.now ≤ t0 + 10000000 ∧ (s.node code).identity = ident ∧ frame.length = 20 ∧ s.crypt.sealed = false ∧ s.nodeKey (s.node code) = some key ∧ nodeMac key (beBytes 12 c ++ frame.take 12) ≠ slice frame 12 8) ∧
    (∃ code : Nat, ∃ s : State, ((s.node code).challenge = none ∨ s.responseHeld code = true ∨ ∃ c t0, (s.node code).challenge = some (c, t0) ∧ s.now ≤ t0 + 10000000)) := by
  refine ⟨?_, ?_, ?_, ?_, ?_⟩
  · exact ⟨_, _, (nd (fun n => { n with opened := false }) (pt [nrec] (seg on))), rfl, rfl⟩
  · exact ⟨0, _, _, nodeCode 0 1, rsp 9, (nd (fun n => { n with opened := false }) (pt [nrec] (seg on))), by decide +kernel, rfl, by decide +kernel, holds (by letI := @decSome; letI := @decEx; letI := @decPair; letI := @decLanes; letI := @decOthers; letI := @decRank; letI := @decLine; infer_instance) (by decide +kernel)⟩
  · exact ⟨0, _, _, nodeCode 0 1, rsp 9, (nd (fun n => { n with challenge := some (9, 999999999999), cbind := some bnd }) (pt [nrec] (seg on))), by decide +kernel, rfl, by decide +kernel, _, _, nk, rfl, by decide +kernel, by decide +kernel, by decide +kernel, by decide +kernel, by decide +kernel, by decide +kernel⟩
  · exact ⟨0, _, _, nodeCode 0 1, rsp0 ++ zeros 8, (nd (fun n => { n with challenge := some (9, 999999999999), cbind := some bnd }) (pt [nrec] (seg on))), by decide +kernel, rfl, by decide +kernel, _, _, nk, rfl, by decide +kernel, by decide +kernel, by decide +kernel, by decide +kernel, by decide +kernel, by decide +kernel⟩
  · exact ⟨nodeCode 0 1, ({ on with psc := { state := .nunatakHold } }), holds (by letI := @decSome; letI := @decEx; letI := @decPair; letI := @decLanes; letI := @decOthers; letI := @decRank; letI := @decLine; infer_instance) (by decide +kernel)⟩

/-- The hypotheses of UplinksMkaAndSegments, clause by clause (part 8), are met. -/
theorem witness8 :
    (∃ code : Nat, ∃ s : State, ∃ c, ∃ t0, (s.node code).challenge = some (c, t0) ∧ t0 + 10000000 < s.now ∧ s.responseHeld code = false) ∧
    (∃ s : State, s.parts.enrol = none) ∧
    (∃ e : Enrolment, ∃ s : State, s.parts.enrol = some e ∧ (roleKind e.role ≠ 3 ∨ (s.node e.attach).enrolling = false ∨ (s.node e.attach).challenge ≠ none ∨ s.now < e.sentNs + 1000000000)) ∧
    (∃ e : Enrolment, ∃ u : State, ∃ s : State, s.parts.enrol = some e ∧ roleKind e.role = 3 ∧ (s.node e.attach).enrolling = true ∧ (s.node e.attach).challenge = none ∧ e.sentNs + 1000000000 ≤ s.now ∧ s.enrolLocked e = (false, u)) ∧
    (∃ seg : Nat, ∃ node : Nat, ∃ ident : Nat, ∃ code : Nat, ∃ seq : Nat, ∃ frame : List Byte, ∃ u : State, ∃ s : State, s.segOn seg = true ∧ nodeHeader 16 frame = some (node, ident) ∧ 24 ≤ frame.length ∧ frame.length ≤ 1484 ∧ code = nodeCode seg node ∧ seq = uAt frame 12 4 ∧ (s.rxFrame (2 + seg)).nodeLocked code ident = (false, u) ∧ (s.node code).opened = false) := by
  refine ⟨?_, ?_, ?_, ?_, ?_⟩
  · exact ⟨nodeCode 0 1, (nd (fun n => { n with challenge := some (9, 9), expected := true }) (pt [nrec] (seg on))), _, _, rfl, by decide +kernel⟩
  · exact ⟨({ on with psc := { state := .nunatakHold } }), by decide +kernel⟩
  · exact ⟨_, (nd (fun n => { n with enrolling := true }) ((seg on).modParts fun x => { x with enrol := some { identity := ident0, role := 0x30, slot := 5, attach := nodeCode 0 1, sentNs := 999999999999 } })), rfl, by decide +kernel⟩
  · exact ⟨_, _, (nd (fun n => { n with enrolling := true }) ((seg on).modParts fun x => { x with enrol := some { identity := ident0, role := 0x30, slot := 5, attach := nodeCode 0 1, sentNs := 3 } })), rfl, by decide +kernel, by decide +kernel, by decide +kernel, by decide +kernel, rfl⟩
  · exact ⟨0, _, _, nodeCode 0 1, (4), dat 4, _, (nd (fun n => { n with opened := false }) (pt [nrec] (seg on))), by decide +kernel, rfl, by decide +kernel, by decide +kernel, by decide +kernel, by decide +kernel, rfl, by decide +kernel⟩

/-- The hypotheses of UplinksMkaAndSegments, clause by clause (part 9), are met. -/
theorem witness9 :
    (∃ seg : Nat, ∃ node : Nat, ∃ ident : Nat, ∃ code : Nat, ∃ seq : Nat, ∃ b : Binding, ∃ frame : List Byte, ∃ key : List Byte, ∃ r : PartRec, ∃ u : State, ∃ s : State, s.segOn seg = true ∧ nodeHeader 16 frame = some (node, ident) ∧ 24 ≤ frame.length ∧ frame.length ≤ 1484 ∧ code = nodeCode seg node ∧ seq = uAt frame 12 4 ∧ (s.rxFrame (2 + seg)).nodeLocked code ident = (false, u) ∧ (s.node code).opened = true ∧ (s.node code).identity = ident ∧ u.rec? ident = some r ∧ r.kind = 3 ∧ r.attach = code ∧ r.state = .enrolled ∧ s.crypt.sealed = false ∧ (s.node code).bind = some b ∧ s.boundKey ident b = some key ∧ nodeMac key (frame.take (frame.length - 8)) = frame.drop (frame.length - 8) ∧ (s.node code).seq < seq) ∧
    (∃ seg : Nat, ∃ node : Nat, ∃ ident : Nat, ∃ code : Nat, ∃ seq : Nat, ∃ b : Binding, ∃ frame : List Byte, ∃ key : List Byte, ∃ r : PartRec, ∃ u : State, ∃ s : State, s.segOn seg = true ∧ nodeHeader 16 frame = some (node, ident) ∧ 24 ≤ frame.length ∧ frame.length ≤ 1484 ∧ code = nodeCode seg node ∧ seq = uAt frame 12 4 ∧ (s.rxFrame (2 + seg)).nodeLocked code ident = (false, u) ∧ (s.node code).opened = true ∧ (s.node code).identity = ident ∧ u.rec? ident = some r ∧ r.kind = 3 ∧ r.attach = code ∧ r.state = .enrolled ∧ s.crypt.sealed = false ∧ (s.node code).bind = some b ∧ s.boundKey ident b = some key ∧ nodeMac key (frame.take (frame.length - 8)) = frame.drop (frame.length - 8) ∧ seq ≤ (s.node code).seq) ∧
    (∃ seg : Nat, ∃ node : Nat, ∃ ident : Nat, ∃ code : Nat, ∃ seq : Nat, ∃ b : Binding, ∃ frame : List Byte, ∃ key : List Byte, ∃ r : PartRec, ∃ u : State, ∃ s : State, s.segOn seg = true ∧ nodeHeader 16 frame = some (node, ident) ∧ 24 ≤ frame.length ∧ frame.length ≤ 1484 ∧ code = nodeCode seg node ∧ seq = uAt frame 12 4 ∧ (s.rxFrame (2 + seg)).nodeLocked code ident = (false, u) ∧ (s.node code).opened = true ∧ (s.node code).identity = ident ∧ u.rec? ident = some r ∧ r.kind = 3 ∧ r.attach = code ∧ r.state = .enrolled ∧ s.crypt.sealed = false ∧ (s.node code).bind = some b ∧ s.boundKey ident b = some key ∧ nodeMac key (frame.take (frame.length - 8)) ≠ frame.drop (frame.length - 8)) := by
  refine ⟨?_, ?_, ?_⟩
  · exact ⟨0, _, _, nodeCode 0 1, (4), _, dat 4, nk, _, _, (nd (fun n => { n with opened := true, bind := some bnd, seq := 3, lastCheck := 999999999999 }) (pt [nrec] (seg on))), by decide +kernel, rfl, by decide +kernel, by decide +kernel, by decide +kernel, by decide +kernel, rfl, by decide +kernel, by decide +kernel, rfl, by decide +kernel, by decide +kernel, by decide +kernel, by decide +kernel, rfl, by decide +kernel, by decide +kernel⟩
  · exact ⟨0, _, _, nodeCode 0 1, (4), _, dat 4, nk, _, _, (nd (fun n => { n with opened := true, bind := some bnd, seq := 4, lastCheck := 999999999999 }) (pt [nrec] (seg on))), by decide +kernel, rfl, by decide +kernel, by decide +kernel, by decide +kernel, by decide +kernel, rfl, by decide +kernel, by decide +kernel, rfl, by decide +kernel, by decide +kernel, by decide +kernel, by decide +kernel, rfl, by decide +kernel, by decide +kernel⟩
  · exact ⟨0, _, _, nodeCode 0 1, (4), _, dat0 4 ++ zeros 8, nk, _, _, (nd (fun n => { n with opened := true, bind := some bnd, seq := 3, lastCheck := 999999999999 }) (pt [nrec] (seg on))), by decide +kernel, rfl, by decide +kernel, by decide +kernel, by decide +kernel, by decide +kernel, rfl, by decide +kernel, by decide +kernel, rfl, by decide +kernel, by decide +kernel, by decide +kernel, by decide +kernel, rfl, by decide +kernel, by decide +kernel⟩


end UplinksMkaAndSegments

namespace TamperAndBoundaryScan
def tam (t : Tamper) : State := { img [(recTamper, 1, 1), (recTamper, 13, 1), (recTamper, 14, 1), (recTamper, 16, 3), (recTamper, 17, 1)] on with tamper := t }
def tap (j : Jtag) (s : State) : State := { s with jtag := j }

/-- The hypotheses of TamperAndBoundaryScan, clause by clause (part 1), are met. -/
theorem witness1 :
    (∃ n : Nat, ∃ s : State, (s.tamperServed = false ∨ 4 ≤ n ∨ s.tamperEn n = false ∨ (s.tamper.asserted.getD n none).isSome = true)) ∧
    (∃ n : Nat, ∃ s : State, s.tamperServed = true ∧ n < 4 ∧ s.tamperEn n = true ∧ s.tamper.asserted.getD n none = none ∧ s.tamper.asserted.length = 4 ∧ s.crypt.chans.length = 32) ∧
    (∃ n : Nat, ∃ s : State, (s.tamperServed = false ∨ (n ≠ 4 ∧ s.tamper.asserted.getD n none = none) ∨ (n = 4 ∧ s.tamper.meshFails = 0))) ∧
    (∃ n : Nat, ∃ s : State, s.tamperServed = true ∧ n ≠ 4 ∧ s.tamper.asserted.getD n none ≠ none) ∧
    (∃ s : State, s.tamperServed = true ∧ s.tamper.meshFails ≠ 0) := by
  refine ⟨?_, ?_, ?_, ?_, ?_⟩
  · exact ⟨(0), (on), by decide +kernel⟩
  · exact ⟨(0), (tam {}), by decide +kernel⟩
  · exact ⟨(0), (on), by decide +kernel⟩
  · exact ⟨(0), (tam { asserted := [some 5, none, none, none] }), by decide +kernel⟩
  · exact ⟨(tam { meshFails := 2 }), by decide +kernel⟩

/-- The hypotheses of TamperAndBoundaryScan, clause by clause (part 2), are met. -/
theorem witness2 :
    (∃ s : State, s.tamperServed = false) ∧
    (∃ s : State, s.tamperServed = true ∧ s.cfgB recTamper 14 = false) ∧
    (∃ s : State, s.tamperServed = true ∧ s.cfgB recTamper 14 = true) ∧
    (∃ n : Nat, ∃ s : State, (s.tamper.asserted.getD n none = none ∨ s.psc.state = .nunatakHold ∨ s.tamper.confirmed.getD n true = true ∨ ∃ t0, s.tamper.asserted.getD n none = some t0 ∧ s.now < t0 + 1000000 * s.cfgN recTamper 13)) ∧
    (∃ n : Nat, ∃ s : State, ∃ t0, s.tamper.asserted.getD n none = some t0 ∧ s.psc.state ≠ .nunatakHold ∧ s.tamper.confirmed.getD n true = false ∧ t0 + 1000000 * s.cfgN recTamper 13 ≤ s.now) := by
  refine ⟨?_, ?_, ?_, ?_, ?_⟩
  · exact ⟨({ on with psc := { state := .nunatakHold } }), by decide +kernel⟩
  · exact ⟨(on), by decide +kernel⟩
  · exact ⟨(tam {}), by decide +kernel⟩
  · exact ⟨(0), (on), holds (by letI := @decSome; letI := @decEx; letI := @decPair; letI := @decLanes; letI := @decOthers; letI := @decRank; letI := @decLine; infer_instance) (by decide +kernel)⟩
  · exact ⟨(0), (tam { asserted := [some 5, none, none, none] }), _, rfl, by decide +kernel⟩

/-- The hypotheses of TamperAndBoundaryScan, clause by clause (part 3), are met. -/
theorem witness3 :
    (∃ s : State, s.tamper.latch = true ∧ s.allQuiet = true ∧ s.tamper.meshOk = true ∧ s.servicePresent = true ∧ s.rolesRun = true ∧ (∃ t0, s.tamper.quietSince = some t0 ∧ t0 + 10000000000 ≤ s.now)) ∧
    (∃ s : State, (s.tamper.latch = false ∨ s.allQuiet = false ∨ s.tamper.meshOk = false ∨ s.servicePresent = false ∨ s.rolesRun = false ∨ s.tamper.quietSince = none ∨ ∃ t0, s.tamper.quietSince = some t0 ∧ s.now < t0 + 10000000000)) ∧
    (∃ s : State, s.psc.state = .nunatakHold) ∧
    (∃ code : Nat, ∃ s : State, s.psc.state ≠ .nunatakHold ∧ s.testCurrent = false ∧ intrusiveIr (code % 32) = false) ∧
    (∃ code : Nat, ∃ s : State, s.psc.state ≠ .nunatakHold ∧ s.testCurrent = false ∧ intrusiveIr (code % 32) = true ∧ s.boot.locked = true ∧ s.rel.latch = true) := by
  refine ⟨?_, ?_, ?_, ?_, ?_⟩
  · exact ⟨({ tam { latch := true, quietSince := some 900000000000 } with parts := { service := some (990000000000, 1) } }), by decide +kernel, by decide +kernel, by decide +kernel, by decide +kernel, by decide +kernel, holds (by letI := @decSome; letI := @decEx; letI := @decPair; letI := @decLanes; letI := @decOthers; letI := @decRank; letI := @decLine; infer_instance) (by decide +kernel)⟩
  · exact ⟨(on), holds (by letI := @decSome; letI := @decEx; letI := @decPair; letI := @decLanes; letI := @decOthers; letI := @decRank; letI := @decLine; infer_instance) (by decide +kernel)⟩
  · exact ⟨({ on with psc := { state := .nunatakHold } }), by decide +kernel⟩
  · exact ⟨(1), (on), by decide +kernel⟩
  · exact ⟨(0), ({ on with boot := { on.boot with locked := true }, rel := { latch := true } }), by decide +kernel⟩

/-- The hypotheses of TamperAndBoundaryScan, clause by clause (part 4), are met. -/
theorem witness4 :
    (∃ code : Nat, ∃ s : State, s.psc.state ≠ .nunatakHold ∧ s.testCurrent = false ∧ intrusiveIr (code % 32) = true ∧ (s.boot.locked = false ∨ s.rel.latch = false)) ∧
    (∃ code : Nat, ∃ s : State, s.psc.state ≠ .nunatakHold ∧ s.testCurrent = true ∧ intrusiveIr (code % 32) = false) ∧
    (∃ s : State, s.psc.state ≠ .nunatakHold ∧ s.testCurrent = false) ∧
    (∃ cells : List Bool, ∃ s : State, s.psc.state ≠ .nunatakHold ∧ cells.length = 111 ∧ s.jtag.ir = irExtest ∧ s.jtag.bypassed = false) ∧
    (∃ cells : List Bool, ∃ s : State, s.psc.state ≠ .nunatakHold ∧ cells.length = 111 ∧ s.jtag.ir = irSample) := by
  refine ⟨?_, ?_, ?_, ?_, ?_⟩
  · exact ⟨(0), (on), by decide +kernel⟩
  · exact ⟨(1), (tap { ir := 0 } on), by decide +kernel⟩
  · exact ⟨(on), by decide +kernel⟩
  · exact ⟨(List.replicate 111 true), (tap { ir := 0 } on), by decide +kernel⟩
  · exact ⟨(List.replicate 111 true), (tap { ir := 2 } on), by decide +kernel⟩

/-- The hypotheses of TamperAndBoundaryScan, clause by clause (part 5), are met. -/
theorem witness5 :
    (∃ cells : List Bool, ∃ s : State, (s.psc.state = .nunatakHold ∨ cells.length ≠ 111 ∨ (s.jtag.ir ≠ irSample ∧ s.jtag.ir ≠ irExtest))) ∧
    (∃ s : State, s.loopOf irLfloop = true) ∧
    (∃ s : State, s.loopOf irLfloop = false) ∧
    (∃ s : State, s.loopOf irRfloop = true) ∧
    (∃ s : State, s.loopOf irRfloop = false) := by
  refine ⟨?_, ?_, ?_, ?_, ?_⟩
  · exact ⟨(List.replicate 111 true), (on), by decide +kernel⟩
  · exact ⟨(tap { ir := 0x10 } { on with boot := { phase := .testHold } }), by decide +kernel⟩
  · exact ⟨(on), by decide +kernel⟩
  · exact ⟨(tap { ir := 0x11 } { on with boot := { phase := .testHold } }), by decide +kernel⟩
  · exact ⟨(on), by decide +kernel⟩


end TamperAndBoundaryScan

namespace CompatibilityWindowAndMacsec

/-- The first clause of CompatibilityWindowAndMacsec: the window's registers do not answer with PD5 gated. -/
theorem witnessOff : ∃ s : State, s.cmpwOn = false := ⟨{ on with psc := { on.psc with powered := 0 } }, by decide +kernel⟩

end CompatibilityWindowAndMacsec

namespace WholeBlock

/-- The hypothesis of EveryCommandLeavesTheQueue and FrameOfEveryCommand is met. -/
theorem witness_exec : ∃ (c : Instr) (s t : State), exec c s = .next t := ⟨.swtrig 3, on, _, rfl⟩

/-- The hypotheses of OnlyTestModeIsRefused, clause by clause, are met. -/
theorem witness_testMode :
    (∃ (c : Instr) (s : State), ∀ r : BootReport, c = .resetRelease r →
      s.boot.phase ≠ .inReset ∨ s.lineUp = false ∨ r.testEn = false ∨ s.boot.locked = true) ∧
    (∃ (r : BootReport) (s : State), s.boot.phase = .inReset ∧ s.lineUp = true ∧ r.testEn = true ∧ s.boot.locked = false) :=
  ⟨⟨.swtrig 3, on, fun _ h => by cases h⟩, ⟨{ testEn := true }, State.reset, by decide +kernel⟩⟩

/-- A latch that a power-on reset clears. -/
def latched : State := { on with pending := [.powerOnReset], rel := { on.rel with latch := true } }

/-- The hypotheses of OnlyARevocationClearsTheLatch are met. -/
theorem witness_latch : ∃ s t : State, step s = .next t ∧ s.rel.latch = true ∧ t.rel.latch = false :=
  ⟨latched, _, rfl, by decide +kernel, by decide +kernel⟩

/-- The hypotheses of EveryStepKeepsInv and NoStepUndoes are met. -/
theorem witness_step : ∃ s t : State, Inv s ∧ step s = .next t := by
  refine ⟨on, _, ?_, rfl⟩
  constructor <;> (first
    | unfold MemoryCanonical | unfold Tbu.Shaped Shadow.Shaped | unfold Tmr.Shaped | unfold Evc.Shaped | unfold Psc.Shaped | unfold Pad.Shaped
    | unfold Mbx.Shaped | unfold Boot.Shaped | unfold Fabric.Shaped | unfold Parts.Shaped | unfold Lf.Shaped | unfold Pop.Shaped
    | unfold Radio.Shaped | unfold Crypt.Shaped | unfold Keys.Shaped | unfold Met.Shaped | unfold Ledger.Shaped
    | unfold Health.Shaped | unfold Net.Shaped | unfold Power.Shaped | unfold Cores.Shaped | unfold Tamper.Shaped
    | unfold Jtag.Shaped) <;> decide +kernel

end WholeBlock

end Sys2Proof.Tests
end

section
/-!
The resets of R11 to R13 and line loss (R474, R499, R500): what each clears and what it keeps, part by part, from which O10
follows.
-/
namespace Sys2Proof.Machine

/-! ### What clearing the volatile domains sets in each part (R11) -/

@[simp] theorem State.clearVolatile_tbu (c : Nat) (s : State) : (s.clearVolatile c).tbu = s.tbu.afterReset := rfl
@[simp] theorem State.clearVolatile_tmr_timers (c : Nat) (s : State) : (s.clearVolatile c).tmr.timers = ({} : Tmr).timers := rfl
@[simp] theorem State.clearVolatile_tmr_alarms (c : Nat) (s : State) : (s.clearVolatile c).tmr.alarms = ({} : Tmr).alarms := rfl
@[simp] theorem State.clearVolatile_evc (c : Nat) (s : State) : (s.clearVolatile c).evc = {} := rfl
@[simp] theorem State.clearVolatile_mbx (c : Nat) (s : State) : (s.clearVolatile c).mbx = { devAddr := s.mbx.devAddr } := rfl
@[simp] theorem State.clearVolatile_boot (c : Nat) (s : State) : (s.clearVolatile c).boot = s.boot.afterReset c := rfl
@[simp] theorem State.clearVolatile_cfg (c : Nat) (s : State) : (s.clearVolatile c).cfg = { s.cfg with runtime := [] } := rfl
@[simp] theorem State.clearVolatile_rel (c : Nat) (s : State) : (s.clearVolatile c).rel = s.rel.afterReset := rfl
@[simp] theorem State.clearVolatile_keys (c : Nat) (s : State) : (s.clearVolatile c).keys = s.keys.afterReset := rfl

/-- A reset drops the volatile parts of the root slots and keeps their keys (R284, R288). -/
@[simp] theorem Keys.afterReset_slotKeys (k : Keys) : k.afterReset.slots.map (·.key) = k.slots.map (·.key) := by
  simp [Keys.afterReset, Function.comp_def]

/-! ### The flush before a reset (R499) -/

@[simp] theorem State.flushItems_tbu (m : Bool) (s : State) : (s.flushItems m).tbu = s.tbu :=
  (State.flushItems_moves m s).1 .tbu (by decide)

@[simp] theorem State.flushItems_mbx (m : Bool) (s : State) : (s.flushItems m).mbx = s.mbx :=
  (State.flushItems_moves m s).1 .mbx (by decide)

@[simp] theorem State.flushItems_boot (m : Bool) (s : State) : (s.flushItems m).boot = s.boot :=
  (State.flushItems_moves m s).1 .boot (by decide)

@[simp] theorem State.flushItems_rel (m : Bool) (s : State) : (s.flushItems m).rel = s.rel :=
  (State.flushItems_moves m s).1 .rel (by decide)

@[simp] theorem State.flushItems_keys (m : Bool) (s : State) : (s.flushItems m).keys = s.keys :=
  (State.flushItems_moves m s).1 .keys (by decide)

/-! ### Memory at a power-on reset (R397) -/

/-- Keeping the cells of some addresses keeps their bytes and lets every other address read as unlisted. -/
theorem Memory.readByte_filter (p : Nat → Bool) (m : Memory) (a : Nat) :
    Memory.readByte (m.filter fun c => p c.1) a = if p a then Memory.readByte m a else Memory.unlisted := by
  induction m with
  | nil => simp [Memory.readByte]
  | cons c m ih =>
    by_cases hc : c.1 = a
    · subst hc
      cases hp : p c.1 <;> simp [hp, ih, Memory.readByte]
    · cases hp : p c.1 <;> simp [hp, hc, ih, Memory.readByte]

/-- MRAM keeps its bytes through a power-on reset, and SRAM reads 0. -/
theorem doPowerOnReset_readByte (s : State) (a : Nat) :
    (doPowerOnReset s).mem.readByte a = if mramBase ≤ a then s.mem.readByte a else 0 := by
  have h := Memory.readByte_filter (fun x => decide (mramBase ≤ x)) s.mem a
  simp only [decide_eq_true_eq] at h
  exact h

/-! ### The timebase goes on where the line is lost (R327) -/

/-- The count and the epoch of the timebase stand the same in two states. -/
def SameCount (s t : State) : Prop := t.tbu.ns = s.tbu.ns ∧ t.tbu.epoch = s.tbu.epoch

theorem SameCount.trans {s t u : State} (h : SameCount s t) (k : SameCount t u) : SameCount s u :=
  ⟨k.1.trans h.1, k.2.trans h.2⟩

theorem SameCount.of_tbu {s t : State} (h : t.tbu = s.tbu) : SameCount s t := by unfold SameCount; rw [h]; exact ⟨rfl, rfl⟩

theorem SameCount.ite {s x y : State} {c : Prop} [Decidable c] (h : SameCount s x) (k : SameCount s y) :
    SameCount s (if c then x else y) := by
  split
  · exact h
  · exact k

theorem State.raise_sameCount (g src : Nat) (s : State) : SameCount s (s.raise g src) :=
  .of_tbu ((State.raise_moves g src s).1 .tbu (by decide))

theorem State.tbuEvt_sameCount (b : Nat) (s : State) : SameCount s (s.tbuEvt b) := by
  unfold State.tbuEvt
  split
  · exact SameCount.trans ⟨rfl, rfl⟩ (State.raise_sameCount _ _ _)
  · exact ⟨rfl, rfl⟩

theorem State.uncEvents_sameCount (before : Nat) (s : State) : SameCount s (s.uncEvents before) := by
  have rise : SameCount s (if before ≤ s.tbu.uncLimit.toNat ∧ s.tbu.uncLimit.toNat < s.unc then s.tbuEvt 3 else s) :=
    SameCount.ite (State.tbuEvt_sameCount _ _) ⟨rfl, rfl⟩
  exact SameCount.ite (rise.trans (State.tbuEvt_sameCount 4 _)) rise

theorem State.charge_sameCount (n : Nat) (s : State) : SameCount s (s.charge n) :=
  SameCount.trans ⟨rfl, rfl⟩ (State.uncEvents_sameCount _ _)

theorem State.ppsHold_sameCount (s : State) : SameCount s s.ppsHold := by
  unfold State.ppsHold
  split <;> exact ⟨rfl, rfl⟩

/-- A change of source moves the charges and the events, never the count. -/
theorem State.changeSource_sameCount (dst : TimeSource) (planned : Bool) (s : State) :
    SameCount s (s.changeSource dst planned) := by
  unfold State.changeSource
  split
  · exact ⟨rfl, rfl⟩
  · refine SameCount.trans ?_ (State.ppsHold_sameCount _)
    refine SameCount.trans ?_ (State.tbuEvt_sameCount _ _)
    refine SameCount.trans ?_ (State.charge_sameCount _ _)
    split
    · exact State.charge_sameCount (if s.tbu.secStart < s.now then s.secondCharge else 0) s
    · exact State.charge_sameCount (if s.tbu.secStart < s.now then s.secondCharge else 0) s

theorem State.holdTime_sameCount (s : State) : SameCount s s.holdTime := by
  unfold State.holdTime State.refOff
  split
  · exact State.changeSource_sameCount _ _ s
  · exact ⟨rfl, rfl⟩

@[simp] theorem State.holdTime_rel (s : State) : s.holdTime.rel = s.rel := (State.holdTime_moves s).1 .rel (by decide)

/-! ### Nunatak hold (R24, R500) -/

/-- In Nunatak hold the count, the epoch and the latch stand, consent is dropped, and the block waits without a line. -/
theorem State.nunatakHold_holds (s : State) :
    SameCount s s.nunatakHold ∧ s.nunatakHold.rel.latch = s.rel.latch ∧ s.nunatakHold.rel.consent = false ∧
      s.nunatakHold.psc.state = .nunatakHold ∧ s.nunatakHold.power.line = false ∧ s.nunatakHold.boot.phase = .inReset :=
  ⟨⟨rfl, rfl⟩, rfl, rfl, rfl, rfl, rfl⟩

/-- A line that is lost with no feed delivering ends in Nunatak hold, after a state with the same count and the same latch. -/
theorem doLineLoss_holds {s : State} (hl : s.lineUp = true) (hf : ∀ f ∈ s.power.feeds, f.delivering = false) :
    ∃ u, doLineLoss s = u.nunatakHold ∧ SameCount s u ∧ u.rel = s.rel := by
  have dead : s.power.feeds.any (·.delivering) = false := by simpa using hf
  have flushed : SameCount s (if s.psc.state = .permafrost then s else s.flushItems true) ∧
      (if s.psc.state = .permafrost then s else s.flushItems true).rel = s.rel := by
    split
    · exact ⟨⟨rfl, rfl⟩, rfl⟩
    · exact ⟨.of_tbu (State.flushItems_tbu _ _), State.flushItems_rel _ _⟩
  refine ⟨_, ?_, flushed.1.trans (State.holdTime_sameCount _), (State.holdTime_rel _).trans flushed.2⟩
  unfold doLineLoss
  rw [if_neg (by simp [hl, dead])]

/-! ### Which reset the line and RST_N lead to (R11, R13, R554) -/

theorem exec_rstNAsserted (n : Nat) (s : State) : exec (.rstNAsserted n) s = .next (doRstNAsserted n s) := rfl

theorem doRstNAsserted_short {n : Nat} {s : State} (h : n < 100) : doRstNAsserted n s = s := if_pos (by simp [h])

theorem doRstNAsserted_long {n : Nat} {s : State} (hl : s.lineUp = true) (h : 1000 ≤ n) :
    doRstNAsserted n s = s.systemReset 1 := by
  unfold doRstNAsserted
  rw [if_neg (by simp [hl]; omega), if_pos h]

/-- Between 100 ns and 1 us a free value decides whether the low is a reset (R554). -/
theorem doRstNAsserted_between {n : Nat} {s : State} (hl : s.lineUp = true) (h0 : 100 ≤ n) (h1 : n < 1000) :
    doRstNAsserted n s = s.drawn ∨ doRstNAsserted n s = s.drawn.systemReset 1 := by
  unfold doRstNAsserted
  rw [if_neg (by simp [hl]; omega), if_neg (by omega)]
  split
  · exact .inr rfl
  · exact .inl rfl

theorem doLinePowerReturn_exhausted {s : State} (hl : s.lineUp = false) (hv : s.psc.vresOut = true) :
    doLinePowerReturn s = doPowerOnReset s := by
  simp [doLinePowerReturn, hl, hv]

theorem doLinePowerReturn_held {s : State} (hl : s.lineUp = false) (hv : s.psc.vresOut = false) :
    doLinePowerReturn s = (s.clearVolatile 4).modPower fun p => { p with line := true } := by
  simp [doLinePowerReturn, hl, hv]

/-! ### The settlement of O10 -/

/-- Settles O10: each reset by what it sets, the flush and the held timebase by what they keep. -/
theorem resetsKeepAndClear : Obligations.ResetsKeepAndClear := by
  unfold Obligations.ResetsKeepAndClear
  refine ⟨?powerOn, ?systemReset, ?short, ?between, ?lineLoss, ?exhausted, ?lineReturn⟩
  case powerOn =>
    exact fun s => ⟨_, rfl, rfl, rfl, rfl, rfl, rfl, rfl, rfl, rfl, rfl, rfl, rfl, Keys.afterReset_slotKeys _, rfl, rfl, rfl,
      doPowerOnReset_readByte s⟩
  case systemReset =>
    intro n s hl hn
    refine ⟨s.systemReset 1, by rw [exec_rstNAsserted, doRstNAsserted_long hl hn], ?_⟩
    simp [State.systemReset, Tbu.afterReset, Rel.afterReset, Boot.afterReset]
  case short =>
    intro n s hl hn
    rw [exec_rstNAsserted, doRstNAsserted_short hn]
  case between =>
    intro n s hl h0 h1
    exact ⟨_, exec_rstNAsserted n s, doRstNAsserted_between hl h0 h1⟩
  case lineLoss =>
    intro s hl hf
    obtain ⟨u, hu, hcount, hrel⟩ := doLineLoss_holds hl hf
    obtain ⟨hheld, hlatch, hconsent, hstate, hline, hphase⟩ := u.nunatakHold_holds
    obtain ⟨hns, hepoch⟩ := hcount.trans hheld
    exact ⟨u.nunatakHold, congrArg _ hu, hstate, hline, by simp [State.lineUp, hline], hns, hepoch, by rw [hlatch, hrel],
      hconsent, hphase⟩
  case exhausted =>
    intro s hl hv
    exact congrArg _ (doLinePowerReturn_exhausted hl hv)
  case lineReturn =>
    intro s hl hv
    exact ⟨_, congrArg Host.Outcome.next (doLinePowerReturn_held hl hv), rfl, rfl, rfl, rfl, rfl, rfl, rfl⟩

end Sys2Proof.Machine
end

section
/-!
REGISTER_WRITE by address (R14, R423, R437): the row that each address of the map leads to, from which O31 follows.
-/
namespace Sys2Proof.Machine

/-! ### A write that is served reaches its block -/

/-- A write of a block of the map below the aperture, at an offset in the block (R437). -/
def writeBlock (r : Requester) (b off : Nat) (w : Word) (s : State) : State :=
  match b with
  | 0 => writeIdh off w s
  | 1 => writeMbx off w s
  | 2 => writeTbu off w s
  | 3 => writeTmr r off w s
  | 4 => writeEvc off w s
  | 5 => writePsc off w s
  | 6 => writePad off w s
  | 7 => writeCmpw r off w s
  | 8 => writeHbw off w s
  | _ => s

theorem writeReg_block (r : Requester) {a b off : Nat} (w : Word) (s : State) (hb : b < 16) (ho : off < 0x10000)
    (ha : a = 0x10000 * b + off) : writeReg r a w s = writeBlock r b off w s := by
  have below : inAperture a = false := by simp [inAperture]; omega
  have hdiv : a / 0x10000 = b := by omega
  have hmod : a % 0x10000 = off := by omega
  unfold writeReg
  simp only [below, hdiv, hmod, Bool.false_eq_true, if_false]
  rfl

theorem addrDomain_block {a b off : Nat} (hb : b < 16) (ho : off < 0x10000) (ha : a = 0x10000 * b + off) :
    addrDomain a = if [1, 4, 8].contains b then 6 else 0 := by
  have below : inAperture a = false := by simp [inAperture]; omega
  have hdiv : a / 0x10000 = b := by omega
  unfold addrDomain
  rw [below, hdiv, Bool.false_or]

theorem exec_registerWrite_served {r : Requester} {a : Nat} {w : Word} {s : State} (h4 : a % 4 = 0) (hr : s.reaches r = true)
    (hd : s.pdOn (addrDomain a) = true) : exec (.registerWrite r a w) s = .next (writeReg r a w s) :=
  congrArg _ (if_pos ⟨h4, hr, hd⟩)

theorem exec_registerWrite_ignored {r : Requester} {a : Nat} {w : Word} {s : State}
    (h : a % 4 ≠ 0 ∨ s.reaches r = false ∨ s.pdOn (addrDomain a) = false) : exec (.registerWrite r a w) s = .next s := by
  refine congrArg _ (if_neg ?_)
  rintro ⟨h4, hr, hd⟩
  simp [h4, hr, hd] at h

/-- A served write of an aligned word of a block in a powered domain is the block's own write. -/
theorem exec_registerWrite_block {r : Requester} {w : Word} {s : State} {a : Nat} (b off : Nat) (hr : s.reaches r = true)
    (hd : s.pdOn (if [1, 4, 8].contains b then 6 else 0) = true) (hb : b < 16 := by omega) (ho : off < 0x10000 := by omega)
    (ha : a = 0x10000 * b + off := by omega) (h4 : off % 4 = 0 := by omega) :
    exec (.registerWrite r a w) s = .next (writeBlock r b off w s) := by
  rw [exec_registerWrite_served (by omega) hr (by rwa [addrDomain_block hb ho ha]), writeReg_block r w s hb ho ha]

/-! ### The registers of a block -/

/-- The registers of timer n that have a row of their own, at their offsets from 0x40 * n (R368). -/
theorem writeTmr_timer (r : Requester) {n : Nat} (w : Word) (s : State) (hn : n < 8) :
    writeTmr r (0x40 * n) w s = writeTmrCtrl n w s ∧
      writeTmr r (0x40 * n + 0x04) w s = (s.tickFirst n).modTimer n (fun x => { x with psc := word (max 100 w.toNat) }) ∧
      writeTmr r (0x40 * n + 0x0C) w s = writeTmrCnt n w s ∧ writeTmr r (0x40 * n + 0x10) w s = writeTmrCmp n 0 w s ∧
      writeTmr r (0x40 * n + 0x14) w s = writeTmrCmp n 1 w s := by
  have hdiv : ∀ c, c < 0x40 → (0x40 * n + c) / 0x40 = n := by omega
  have hmod : ∀ c, c < 0x40 → (0x40 * n + c) % 0x40 = c := by omega
  have h0 : 0x40 * n / 0x40 = n ∧ 0x40 * n % 0x40 = 0 := by omega
  unfold writeTmr
  refine ⟨?_, ?_, ?_, ?_, ?_⟩ <;> rw [if_pos (by omega)] <;> simp [hdiv, hmod, h0]

theorem writeTmr_almLo (r : Requester) {m : Nat} (w : Word) (s : State) (hm : m < 4) :
    writeTmr r (0x200 + 0x20 * m) w s = writeAlmLo r m w s := by
  have hdiv : (0x200 + 0x20 * m - 0x200) / 0x20 = m := by omega
  have hmod : (0x200 + 0x20 * m - 0x200) % 0x20 = 0 := by omega
  unfold writeTmr
  rw [if_neg (by omega), if_pos (by omega)]
  simp only [hdiv, hmod]

theorem writeMbx_commandArea {n k : Nat} (w : Word) (s : State) (hn : n < 8) (hk : k < 64) :
    writeMbx (0x1000 + 0x200 * n + 4 * k) w s = doCommandAreaWrite n k w s := by
  have hdiv : (0x1000 + 0x200 * n + 4 * k - 0x1000) / 0x200 = n := by omega
  have hmod : (0x1000 + 0x200 * n + 4 * k - 0x1000) % 0x200 / 4 = k := by omega
  unfold writeMbx
  rw [if_pos (by omega), hdiv, hmod]

/-- MBX_DB with one bit rings one mailbox. -/
theorem writeDb_single {n : Nat} (s : State) (hn : n < 8) : writeDb (word (1 <<< n)) s = doDoorbell n s := by
  match n, hn with
  | 0, _ | 1, _ | 2, _ | 3, _ | 4, _ | 5, _ | 6, _ | 7, _ => rfl

theorem writeEvc_claim {j : Nat} (w : Word) (s : State) (hj : j < 6) : writeEvc (0x208 + 0x10 * j) w s = writeClaim j w s := by
  have hdiv : (0x208 + 0x10 * j - 0x200) / 0x10 = j := by omega
  have hmod : (0x208 + 0x10 * j - 0x200) % 0x10 = 8 := by omega
  unfold writeEvc
  rw [if_neg (by omega), if_pos (by omega)]
  simp only [hdiv, hmod]

theorem writeHbw_winCfg {n : Nat} (w : Word) (s : State) (hn : n < 16) : writeHbw (0x100 + 0x10 * n) w s = writeWinCfg n w s := by
  have hdiv : (0x100 + 0x10 * n - 0x100) / 0x10 = n := by omega
  have hmod : (0x100 + 0x10 * n - 0x100) % 0x10 = 0 := by omega
  unfold writeHbw
  rw [if_pos (by omega)]
  simp only [hdiv, hmod]

/-- A served write of an aligned word of the aperture is the access of APERTURE_ACCESS (R411). -/
theorem exec_registerWrite_aperture {r : Requester} {w : Word} {s : State} {off : Nat} (hr : s.reaches r = true)
    (hd : s.pdOn 6 = true) (ho : off < 0x100000) (h4 : off % 4 = 0) :
    exec (.registerWrite r (0x100000 + off) w) s = exec (.apertureAccess off (some w)) s := by
  have inside : inAperture (0x100000 + off) = true := by simp [inAperture]; omega
  have hwrap : off % 0x100000 = off := Nat.mod_eq_of_lt ho
  rw [exec_registerWrite_served (by omega) hr (by simpa [addrDomain, inside] using hd)]
  change Host.Outcome.next _ = Host.Outcome.next (writeAperture (off % 0x100000) w s)
  rw [hwrap]
  unfold writeReg
  simp only [inside, if_true, Nat.add_sub_cancel_left]

/-! ### The timers keep their number while due ticks are taken -/

/-- Two states have the same number of timers. -/
def SameTimers (s t : State) : Prop := t.tmr.timers.length = s.tmr.timers.length

theorem SameTimers.trans {s t u : State} (h : SameTimers s t) (k : SameTimers t u) : SameTimers s u := Eq.trans k h

theorem SameTimers.of_tmr {s t : State} (h : t.tmr = s.tmr) : SameTimers s t := congrArg (fun x : Tmr => x.timers.length) h

theorem SameTimers.foldl {α β : Type} {p : β → State} {s : State} {xs : List α} {f : β → α → β} {x : β}
    (h : SameTimers s (p x)) (k : ∀ y a, SameTimers (p y) (p (f y a))) : SameTimers s (p (xs.foldl f x)) := by
  induction xs generalizing x with
  | nil => exact h
  | cons a xs ih => exact ih (h.trans (k x a))

theorem State.modTimer_sameTimers (s : State) (n : Nat) (f : Timer → Timer) : SameTimers s (s.modTimer n f) :=
  List.length_modify f s.tmr.timers n

theorem State.tmrEvt0_sameTimers (b : Nat) (s : State) : SameTimers s (s.tmrEvt0 b) := by
  have bit : SameTimers s (s.modTmr fun t => { t with evt0 := t.evt0 ||| word (1 <<< b) }) := rfl
  unfold State.tmrEvt0
  split
  · exact bit.trans (SameTimers.of_tmr ((State.raise_moves _ _ _).1 .tmr (by decide)))
  · exact rfl

theorem State.followPins_sameTimers (s : State) : SameTimers s s.followPins := by
  unfold State.followPins
  refine SameTimers.foldl (p := id) rfl fun t m => ?_
  split <;> exact rfl

theorem State.fireUnit_sameTimers (n unit : Nat) (s : State) : SameTimers s (s.fireUnit n unit).1 :=
  (State.modTimer_sameTimers s n _).trans (State.tmrEvt0_sameTimers _ _)

theorem State.judgeTimer_sameTimers (n : Nat) (entered : Bool) (s : State) : SameTimers s (s.judgeTimer n entered).1 := by
  refine SameTimers.trans ?_ (State.followPins_sameTimers _)
  have fired : ∀ (c : Bool) (unit : Nat) (t : State) (es : List TrigEvent),
      SameTimers t (if c then t.fireUnit n unit else (t, es)).1 := by
    intro c unit t es
    split
    · exact State.fireUnit_sameTimers _ _ _
    · exact rfl
  exact (fired _ 0 s []).trans (fired _ 1 _ [])

theorem State.countOnce_sameTimers (n : Nat) (s : State) : SameTimers s (s.countOnce n).1 := by
  unfold State.countOnce
  dsimp only
  split
  · exact ((State.modTimer_sameTimers s n _).trans (State.tmrEvt0_sameTimers _ _)).trans (State.judgeTimer_sameTimers _ _ _)
  · exact (State.modTimer_sameTimers s n _).trans (State.judgeTimer_sameTimers _ _ _)

theorem State.tickOne_sameTimers (n : Nat) (counted : Bool) (s : State) : SameTimers s (s.tickOne n counted).1 := by
  unfold State.tickOne
  split
  · exact (State.modTimer_sameTimers s n _).trans (State.countOnce_sameTimers _ _)
  · exact State.modTimer_sameTimers s n _

theorem State.slaveAct_sameTimers (n : Nat) (s : State) : SameTimers s (s.slaveAct n).1 := by
  have own : SameTimers s (if s.tickDue n then s.tickOne n true else (s, [])).1 := by
    split
    · exact State.tickOne_sameTimers _ _ _
    · exact rfl
  unfold State.slaveAct
  dsimp only
  split
  · exact (own.trans (State.modTimer_sameTimers _ n _)).trans (State.judgeTimer_sameTimers _ _ _)
  · split
    · exact State.countOnce_sameTimers _ _
    · exact rfl
  · split
    · exact rfl
    · exact State.modTimer_sameTimers _ _ _
  · exact rfl

theorem State.captureUnit_sameTimers (n : Nat) (s : State) : SameTimers s (s.captureUnit n) := by
  unfold State.captureUnit
  dsimp only
  split
  · exact (State.modTimer_sameTimers s n _).trans (State.tmrEvt0_sameTimers _ _)
  · exact State.modTimer_sameTimers s n _

/-- An event reaches slaves, capture units and pins, none of which adds or drops a timer. -/
theorem State.spread_sameTimers (e : TrigEvent) (s : State) : SameTimers s (s.spread e).1 := by
  unfold State.spread
  dsimp only
  refine SameTimers.foldl (p := id) (SameTimers.foldl (p := id) (SameTimers.foldl (p := Prod.fst) rfl ?slaves) ?units) ?pins
  case slaves =>
    intro acc n
    split
    · exact State.slaveAct_sameTimers n acc.1
    · exact rfl
  case units =>
    intro t n
    split
    · exact State.captureUnit_sameTimers n t
    · exact rfl
  case pins =>
    intro t m
    split <;> exact rfl

theorem State.propagate_sameTimers (k : Nat) (es : List TrigEvent) (s : State) : SameTimers s (s.propagate k es) := by
  induction k generalizing es s with
  | zero => exact rfl
  | succ k ih =>
    unfold State.propagate
    dsimp only
    split
    · exact rfl
    · refine SameTimers.trans ?_ (ih _ _)
      exact SameTimers.foldl (p := Prod.fst) (x := (s, [])) rfl fun acc e => State.spread_sameTimers e acc.1

theorem State.ownTicks_sameTimers (m step : Nat) (counted : Bool) (k : Nat) (s : State) :
    SameTimers s (s.ownTicks m step counted k).1 := by
  induction k generalizing s with
  | zero => exact rfl
  | succ k ih =>
    unfold State.ownTicks
    split
    · exact (State.tickOne_sameTimers _ _ _).trans (ih _)
    · exact rfl

theorem State.takeTick_sameTimers (n : Nat) (s : State) : SameTimers s (s.takeTick n) := by
  refine SameTimers.trans ?_ (State.propagate_sameTimers _ _ _)
  exact SameTimers.foldl (p := Prod.fst) (x := (s, [])) rfl fun acc m => State.ownTicks_sameTimers m _ _ _ acc.1

theorem State.ticksDue_sameTimers (n k : Nat) (s : State) : SameTimers s (s.ticksDue n k) := by
  induction k generalizing s with
  | zero => exact rfl
  | succ k ih =>
    unfold State.ticksDue
    split
    · exact (State.takeTick_sameTimers _ _).trans (ih _)
    · exact rfl

/-- With no tick of the timer due, nothing comes before a write of it. -/
theorem State.tickFirst_of_not_due {s : State} {n : Nat} (h : s.tickDue n = false) : s.tickFirst n = s := by
  unfold State.tickFirst
  cases s.now + 1 - (s.timer n).lastTick with
  | zero => rfl
  | succ k => simp [State.ticksDue, h]

theorem State.timer_modTimer {s : State} {n : Nat} (f : Timer → Timer) (h : n < s.tmr.timers.length) :
    (s.modTimer n f).timer n = f (s.timer n) := by
  simp [State.timer, State.modTimer, List.getD_eq_getElem?_getD, h]

theorem State.timer_modTimer_ne {s : State} {n k : Nat} (f : Timer → Timer) (h : k ≠ n) :
    (s.modTimer n f).timer k = s.timer k := by
  simp [State.timer, State.modTimer, List.getD_eq_getElem?_getD, Ne.symm h]

/-! ### The settlement of O31 -/

/-- Settles O31: each address by its block and its register there. -/
theorem registerWritesDoTheirRows : Obligations.RegisterWritesDoTheirRows := by
  unfold Obligations.RegisterWritesDoTheirRows
  refine ⟨fun r a w s h => exec_registerWrite_ignored h,
    fun r w s hr hd => ⟨?scratch, ?timers, ?prescaler, ?alarms, ?sleep, ?freeze⟩,
    fun r w s hr hd => ⟨?doorbell, ?ack, ?area, ?swset, ?claims, ?windows, ?aperture⟩⟩
  case scratch => exact ⟨_, exec_registerWrite_block 0 0x20 hr hd, rfl, (writeIdh_moves 0x20 w s).1⟩
  case timers =>
    intro n hn
    obtain ⟨hctrl, -, hcnt, hcmp0, hcmp1⟩ := writeTmr_timer r w s hn
    exact ⟨(exec_registerWrite_block 3 (0x40 * n) hr hd).trans (congrArg _ hctrl),
      (exec_registerWrite_block 3 (0x40 * n + 0x0C) hr hd).trans (congrArg _ hcnt),
      (exec_registerWrite_block 3 (0x40 * n + 0x10) hr hd).trans (congrArg _ hcmp0),
      (exec_registerWrite_block 3 (0x40 * n + 0x14) hr hd).trans (congrArg _ hcmp1)⟩
  case prescaler =>
    intro n hn h8
    have hlen : n < s.tmr.timers.length := h8 ▸ hn
    have hkept : n < (s.tickFirst n).tmr.timers.length := (State.ticksDue_sameTimers n _ s).symm ▸ hlen
    obtain ⟨-, hpsc, -⟩ := writeTmr_timer r w s hn
    refine ⟨_, (exec_registerWrite_block 3 (0x40 * n + 0x04) hr hd).trans (congrArg _ hpsc),
      by rw [State.timer_modTimer _ hkept], fun hdue => ?_,
      (State.tickFirst_moves n s).1.trans ((State.modTimer_moves _ _ _).1.mono (by decide))⟩
    rw [State.tickFirst_of_not_due hdue]
    exact ⟨State.timer_modTimer _ hlen, fun k hk => State.timer_modTimer_ne _ hk, (State.modTimer_moves _ _ _).1⟩
  case alarms =>
    intro m hm
    rw [exec_registerWrite_block 3 (0x200 + 0x20 * m) hr hd, writeBlock, writeTmr_almLo r w s hm]
    rfl
  case sleep => exact exec_registerWrite_block 5 0x04 hr hd
  case freeze => exact exec_registerWrite_block 6 0x00 hr hd
  case doorbell =>
    exact fun n hn => (exec_registerWrite_block 1 0x004 hr hd).trans (congrArg Host.Outcome.next (writeDb_single s hn))
  case ack => exact exec_registerWrite_block 1 0x008 hr hd
  case area =>
    intro n k hn hk
    rw [exec_registerWrite_block 1 (0x1000 + 0x200 * n + 4 * k) hr hd, writeBlock, writeMbx_commandArea w s hn hk]
    rfl
  case swset => exact exec_registerWrite_block 4 0x00C hr hd
  case claims =>
    intro j hj
    rw [exec_registerWrite_block 4 (0x208 + 0x10 * j) hr hd, writeBlock, writeEvc_claim w s hj]
    rfl
  case windows =>
    intro n hn
    rw [exec_registerWrite_block 8 (0x100 + 0x10 * n) hr hd, writeBlock, writeHbw_winCfg w s hn]
    rfl
  case aperture => exact fun off ho h4 => exec_registerWrite_aperture hr hd ho h4

end Sys2Proof.Machine
end

section
/-!
Answers on a coil in a population check, and the moments at which checks begin (R108, R113, R115, R118, R120, R121, R123, R128),
from which O40 follows.
-/
namespace Sys2Proof.Machine

theorem Moves.pop {ps : List Part} {s t : State} (h : Moves ps s t) (hp : Part.pop ∉ ps) : t.pop = s.pop := h.1 .pop hp

theorem Moves.lf {ps : List Part} {s t : State} (h : Moves ps s t) (hp : Part.lf ∉ ps) : t.lf = s.lf := h.1 .lf hp

/-! ### A coil's standing in the running check -/

theorem State.coil_of_pop {s t : State} (h : t.pop = s.pop) (j : Nat) : t.coil j = s.coil j := by
  unfold State.coil; rw [h]

theorem State.coil_modCheck {f : PopCheck → PopCheck} (h : ∀ k, (f k).coils = k.coils) (s : State) (j : Nat) :
    (s.modCheck f).coil j = s.coil j := by
  cases hr : s.pop.running <;> simp [State.coil, State.modCheck, hr, h]

theorem State.coil_modCoil {s : State} {k : PopCheck} {i : Nat} (f : Coil → Coil) (hr : s.pop.running = some k)
    (hi : i < k.coils.length) : (s.modCoil i f).coil i = f (s.coil i) := by
  simp [State.coil, State.modCoil, State.modCheck, hr, List.getD_eq_getElem?_getD, hi]

theorem State.coil_modCoil_ne {i j : Nat} (f : Coil → Coil) (s : State) (h : j ≠ i) :
    (s.modCoil i f).coil j = s.coil j := by
  cases hr : s.pop.running <;>
    simp [State.coil, State.modCoil, State.modCheck, hr, List.getD_eq_getElem?_getD, Ne.symm h]

/-! ### The end of an exchange (R92) -/

theorem State.settleVlf_requests (s : State) :
    s.settleVlf.lf.flight = s.lf.flight ∧ s.settleVlf.lf.waiting = s.lf.waiting := by
  unfold State.settleVlf
  split
  · split <;> exact ⟨rfl, rfl⟩
  · exact ⟨rfl, rfl⟩

theorem State.considerWake_of_no_waiting {s : State} (h : s.lf.waiting = []) : s.considerWake = (s, true) := by
  unfold State.considerWake
  rw [h]
  exact ite_self _

/-- No exchange has come into flight, so no run is counted (R96). -/
theorem State.countRun_self (s : State) : s.countRun s = s := by
  refine if_neg ?_
  simp only [List.any_eq_true, Bool.and_eq_true, Bool.not_eq_true', not_exists, not_and]
  intro b hb _ hnew
  have hold : (s.lf.flight.any fun x => x.id == b.id) = true := List.any_eq_true.mpr ⟨b, hb, beq_self_eq_true _⟩
  simp [hold] at hnew

/-- With no request waiting, the consideration of requests applies a pending VLF and nothing else (R70, R92). -/
theorem State.considerAll_of_no_waiting {s : State} (h : s.lf.waiting = []) : s.considerAll = s.settleVlf := by
  have hw : s.settleVlf.lf.waiting = [] := (State.settleVlf_requests s).2.trans h
  unfold State.considerAll
  simp only [State.considerWake_of_no_waiting hw, hw, List.filter_nil, List.append_nil, List.foldl_nil, Bool.not_true,
    Bool.false_eq_true, if_false, State.countRun_self]

/-- An exchange that ends with no request waiting takes its burst from flight, and changes the LF part alone. -/
theorem State.endCoilBurst_considerAll {s : State} (h : s.lf.waiting = []) (i : Nat) :
    (s.endCoilBurst i).considerAll.lf.flight = s.lf.flight.filter (fun x => !(x.cls == .pop && x.coil == i)) ∧
      Only [.lf] s (s.endCoilBurst i).considerAll := by
  have hw : (s.endCoilBurst i).lf.waiting = [] := by simp [State.endCoilBurst, h]
  rw [State.considerAll_of_no_waiting hw]
  exact ⟨(State.settleVlf_requests _).1, (State.endCoilBurst_moves i s).1.trans (State.settleVlf_moves _).1⟩

/-! ### Answers to a routine CHECK (R115, R118, R121) -/

section
variable {i : Nat} {e : List Byte} {s : State} (hstage : (s.coil i).stage = 1)
include hstage

theorem State.coilAnswer_match {p : Nat} (he : (s.coil i).expected = some e) (hp : beNat e = p) :
    s.coilAnswer i p = ((s.passCheck i (s.coil i).target).setEntry i 0 none, true) := by
  simp [State.coilAnswer, hstage, he, hp]

theorem State.coilAnswer_mismatch {p : Nat} (he : (s.coil i).expected = some e) (hp : beNat e ≠ p) :
    s.coilAnswer i p = (s.setRetry i 1, true) := by
  have hne : (beNat e == p) = false := beq_false_of_ne hp
  simp [State.coilAnswer, hstage, he, hne]

theorem State.coilError_check (he : (s.coil i).expected.isSome = true) : s.coilError i = s.setRetry i 2 := by
  have hk : (s.coil i).expected ≠ none := Option.isSome_iff_ne_none.mp he
  simp [State.coilError, Coil.keyless, hstage, hk]

theorem State.coilSilent_check (he : (s.coil i).expected.isSome = true) : s.coilSilent i = s.setRetry i 2 := by
  have hk : (s.coil i).expected ≠ none := Option.isSome_iff_ne_none.mp he
  simp [State.coilSilent, Coil.keyless, hstage, hk]

theorem State.coilSilent_keyless (he : (s.coil i).expected = none) : s.coilSilent i = s.setEntry i 0x0B none := by
  simp [State.coilSilent, Coil.keyless, hstage, he]

end

/-! ### A passed challenge (R62, R121) -/

/-- A record written for an identity is the one record of its index. -/
theorem State.updateRec_table {ident j : Nat} {r : PartRec} {s : State} (f : PartRec → PartRec)
    (h : s.recAt ident = some (j, r)) (hone : ∀ q, q ∈ s.parts.table → q.1 = j → q.2 = r) :
    (s.updateRec ident f).parts.table = tablePut j { f r with updateSeq := (r.updateSeq + 1) % 0x10000 } s.parts.table := by
  have hmem : (j, r) ∈ s.parts.table := List.mem_of_find?_eq_some h
  have hwas : (s.parts.table.find? fun q => q.1 == j).map (·.2) = some r := by
    obtain ⟨q, hq⟩ : ∃ q, (s.parts.table.find? fun q => q.1 == j) = some q :=
      Option.isSome_iff_exists.mp (List.find?_isSome.mpr ⟨(j, r), hmem, beq_self_eq_true j⟩)
    have hj : q.1 = j := by simpa using List.find?_some hq
    rw [hq, Option.map_some, hone q (List.mem_of_find?_eq_some hq) hj]
  unfold State.updateRec
  rw [h]
  simp [State.writeRec, hwas]

theorem State.passCheck_coil (i ident : Nat) (s : State) (j : Nat) : (s.passCheck i ident).coil j = s.coil j := by
  refine (State.coil_modCheck ?_ _ j).trans (State.coil_of_pop ((State.updateRec_moves _ _ _).pop (by decide)) j)
  exact fun _ => rfl

theorem State.passCheck_running {i ident : Nat} {k : PopCheck} {s : State} (hr : s.pop.running = some k) :
    ∃ q, (s.passCheck i ident).pop.running = some q ∧ q.coils = k.coils := by
  have hpop := (State.updateRec_moves ident (fun r => { r with failCount := 0 }) s).pop (by decide)
  simp only [State.passCheck, State.modCheck, State.modPop_pop, hpop, hr, Option.map_some]
  exact ⟨_, rfl, rfl⟩

/-- A passed challenge clears its module's count (R62, R121). -/
theorem State.passCheck_table {i ident j : Nat} {r : PartRec} {s : State} (h : s.recAt ident = some (j, r))
    (hone : ∀ q, q ∈ s.parts.table → q.1 = j → q.2 = r) :
    (s.passCheck i ident).parts.table =
      tablePut j { r with failCount := 0, updateSeq := (r.updateSeq + 1) % 0x10000 } s.parts.table :=
  State.updateRec_table _ h hone

/-! ### A coil settled or sent to the retry pass, its exchange ended -/

/-- A coil's new standing and the end of its exchange touch no other coil, and count nothing. -/
theorem State.modCoil_ends {i : Nat} {k : PopCheck} {s : State} (f : Coil → Coil) (hr : s.pop.running = some k)
    (hi : i < k.coils.length) (hw : s.lf.waiting = []) :
    let t := ((s.modCoil i f).endCoilBurst i).considerAll
    t.coil i = f (s.coil i) ∧ (∀ j, j ≠ i → t.coil j = s.coil j) ∧
      t.lf.flight = s.lf.flight.filter (fun x => !(x.cls == .pop && x.coil == i)) ∧ Only [.pop, .lf] s t := by
  intro t
  obtain ⟨hflight, honly⟩ := State.endCoilBurst_considerAll (s := s.modCoil i f) hw i
  have hcoil : ∀ j, t.coil j = (s.modCoil i f).coil j := State.coil_of_pop (honly .pop (by decide))
  exact ⟨(hcoil i).trans (State.coil_modCoil f hr hi), fun j hj => (hcoil j).trans (State.coil_modCoil_ne f s hj), hflight,
    (Only.mono (by decide) (State.modCoil_moves s i f).1).trans (honly.mono (by decide))⟩

theorem State.setRetry_ends {i : Nat} {k : PopCheck} {s : State} (why : Nat) (hr : s.pop.running = some k)
    (hi : i < k.coils.length) (hw : s.lf.waiting = []) :
    let t := ((s.setRetry i why).endCoilBurst i).considerAll
    t.coil i = { s.coil i with stage := 5, why := why } ∧ (∀ j, j ≠ i → t.coil j = s.coil j) ∧
      t.lf.flight = s.lf.flight.filter (fun x => !(x.cls == .pop && x.coil == i)) ∧ Only [.pop, .lf] s t :=
  State.modCoil_ends _ hr hi hw

theorem State.setEntry_ends {i : Nat} {k : PopCheck} {s : State} (code : Nat) (note : Option Nat)
    (hr : s.pop.running = some k) (hi : i < k.coils.length) (hw : s.lf.waiting = []) :
    let t := ((s.setEntry i code note).endCoilBurst i).considerAll
    (t.coil i).entry = some code ∧ (∀ j, j ≠ i → t.coil j = s.coil j) ∧
      t.lf.flight = s.lf.flight.filter (fun x => !(x.cls == .pop && x.coil == i)) ∧ Only [.pop, .lf] s t := by
  obtain ⟨hcoil, hrest⟩ :=
    State.modCoil_ends (fun x => { x with entry := some code, stage := 5, why := 0, note := note }) hr hi hw
  exact ⟨congrArg Coil.entry hcoil, hrest⟩

/-- A match ends its exchange as VERIFIED and clears its module's count (R121). -/
theorem State.passCheck_ends {i ident : Nat} {k : PopCheck} {s : State} (hr : s.pop.running = some k)
    (hi : i < k.coils.length) (hw : s.lf.waiting = []) :
    let t := (((s.passCheck i ident).setEntry i 0 none).endCoilBurst i).considerAll
    (t.coil i).entry = some 0 ∧
      (∀ j r, s.recAt ident = some (j, r) → (∀ q, q ∈ s.parts.table → q.1 = j → q.2 = r) → t.parts.table =
        tablePut j { r with failCount := 0, updateSeq := (r.updateSeq + 1) % 0x10000 } s.parts.table) ∧
      (∀ j, j ≠ i → t.coil j = s.coil j) ∧
      t.lf.flight = s.lf.flight.filter (fun x => !(x.cls == .pop && x.coil == i)) ∧ Only [.pop, .lf, .parts] s t := by
  intro t
  have hpass := State.passCheck_moves i ident s
  obtain ⟨q, hq, hcoils⟩ := State.passCheck_running (i := i) (ident := ident) hr
  have hlf : (s.passCheck i ident).lf = s.lf := hpass.lf (by decide)
  obtain ⟨hentry, hother, hflight, honly⟩ :=
    State.setEntry_ends 0 none hq (by rw [hcoils]; exact hi) (by rw [hlf]; exact hw)
  refine ⟨hentry, fun j r hrec hone => ?_, fun j hj => (hother j hj).trans (State.passCheck_coil i ident s j),
    by rw [← hlf]; exact hflight, (Only.mono (by decide) hpass.1).trans (honly.mono (by decide))⟩
  have hparts : t.parts = (s.passCheck i ident).parts := honly .parts (by decide)
  rw [hparts]
  exact State.passCheck_table hrec hone

/-! ### UPLINK_FRAME and NO_ANSWER on a coil (R108, R113) -/

section
variable {i : Nat} {b : Burst} {s : State} (hb : s.coilBurst i = some b) (ha : b.addressed = none)
include hb ha

theorem exec_uplinkFrame_answer {p crc : Nat} {t : State} (hcrc : crc8 (msbBits 64 p) = crc)
    (ht : s.coilAnswer i p = (t, true)) :
    exec (.uplinkFrame i (some (p, crc))) s = .next (t.endCoilBurst i).considerAll := by
  exact congrArg Host.Outcome.next (show doUplinkFrame i _ s = _ by simp [doUplinkFrame, uplinkPayload, hb, ha, hcrc, ht])

theorem exec_uplinkFrame_unreadable :
    exec (.uplinkFrame i none) s = .next ((s.coilError i).endCoilBurst i).considerAll := by
  exact congrArg Host.Outcome.next (show doUplinkFrame i _ s = _ by simp [doUplinkFrame, uplinkPayload, hb, ha])

theorem exec_noAnswer_check : exec (.noAnswer i) s = .next ((s.coilSilent i).endCoilBurst i).considerAll := by
  exact congrArg Host.Outcome.next (show doNoAnswer i s = _ by simp [doNoAnswer, hb, ha])

end

theorem exec_uplinkFrame_idle {i : Nat} {s : State} (f : Option (Nat × Nat)) (h : s.coilBurst i = none) :
    exec (.uplinkFrame i f) s = .next s := by
  exact congrArg Host.Outcome.next (show doUplinkFrame i _ s = _ by simp [doUplinkFrame, h])

theorem exec_noAnswer_idle {i : Nat} {s : State} (h : s.coilBurst i = none) : exec (.noAnswer i) s = .next s := by
  exact congrArg Host.Outcome.next (show doNoAnswer i s = _ by simp [doNoAnswer, h])

/-! ### A check's number, its further check and its latest record stand (R123, R128) -/

/-- The number of checks, the further check asked for, the latest record, and whether a check runs, stand the same in two
states. -/
def SameCheck (s t : State) : Prop :=
  t.pop.checkSeq = s.pop.checkSeq ∧ t.pop.wanted = s.pop.wanted ∧ t.pop.latest = s.pop.latest ∧
    t.pop.running.isSome = s.pop.running.isSome

theorem SameCheck.refl (s : State) : SameCheck s s := ⟨rfl, rfl, rfl, rfl⟩

theorem SameCheck.trans {s t u : State} (h : SameCheck s t) (k : SameCheck t u) : SameCheck s u := by
  obtain ⟨hseq, hwanted, hlatest, hrun⟩ := h
  obtain ⟨kseq, kwanted, klatest, krun⟩ := k
  exact ⟨kseq.trans hseq, kwanted.trans hwanted, klatest.trans hlatest, krun.trans hrun⟩

theorem SameCheck.of_moves {ps : List Part} {s t : State} (h : Moves ps s t) (hp : Part.pop ∉ ps) : SameCheck s t := by
  unfold SameCheck; rw [h.pop hp]; exact ⟨rfl, rfl, rfl, rfl⟩

theorem SameCheck.ite {s x y : State} {c : Prop} [Decidable c] (h : SameCheck s x) (k : SameCheck s y) :
    SameCheck s (if c then x else y) := by
  split
  · exact h
  · exact k

theorem SameCheck.foldl {α β : Type} {p : β → State} {s : State} {xs : List α} {f : β → α → β} {x : β}
    (h : SameCheck s (p x)) (k : ∀ u a, SameCheck (p u) (p (f u a))) : SameCheck s (p (xs.foldl f x)) := by
  induction xs generalizing x with
  | nil => exact h
  | cons a xs ih => exact ih (h.trans (k x a))

theorem State.modCheck_sameCheck (s : State) (f : PopCheck → PopCheck) : SameCheck s (s.modCheck f) :=
  ⟨rfl, rfl, rfl, Option.isSome_map⟩

theorem State.modCoil_sameCheck (s : State) (i : Nat) (f : Coil → Coil) : SameCheck s (s.modCoil i f) :=
  State.modCheck_sameCheck s _

theorem State.setEntry_sameCheck (i code : Nat) (note : Option Nat) (s : State) : SameCheck s (s.setEntry i code note) :=
  State.modCoil_sameCheck s i _

theorem State.startCheck_sameCheck (i ident slot epoch stage : Nat) (s : State) :
    SameCheck s (s.startCheck i ident slot epoch stage) :=
  (State.modCoil_sameCheck s i _).trans ⟨rfl, rfl, rfl, rfl⟩

theorem State.startEnrolCheck_sameCheck (s : State) : SameCheck s s.startEnrolCheck := by
  unfold State.startEnrolCheck
  split <;> exact ⟨rfl, rfl, rfl, rfl⟩

theorem State.startExchange_sameCheck (b : Burst) (s : State) : SameCheck s (s.startExchange b) := by
  unfold State.startExchange
  refine SameCheck.ite (State.startEnrolCheck_sameCheck s) ?_
  extract_lets i x
  have hx : SameCheck s x := SameCheck.ite (State.modCheck_sameCheck s _) (.refl s)
  clear_value x
  refine SameCheck.ite ?_ (hx.trans (State.modCoil_sameCheck _ _ _))
  split
  · exact hx.trans (State.startCheck_sameCheck _ _ _ _ _ _)
  · exact hx.trans (State.modCoil_sameCheck _ _ _)

/-- Of what an admission changes, only an exchange's start reaches the check. -/
theorem State.admitBurst_sameCheck (b : Burst) (applied : List (List (Nat × Nat))) (scale : Nat) (s : State) :
    SameCheck s (s.admitBurst b applied scale) := by
  unfold State.admitBurst
  extract_lets b1 s0 s1 cs s2
  have h0 : SameCheck s s0 :=
    SameCheck.foldl (p := id) (.refl s) fun u n => .of_moves (State.commit_moves n u) (by decide)
  have h1 : SameCheck s s1 := h0.trans ⟨rfl, rfl, rfl, rfl⟩
  have h2 : SameCheck s s2 := SameCheck.foldl (p := id) h1 fun u c =>
    (SameCheck.of_moves (State.modLfChan_moves u c _) (by decide)).trans
      (.of_moves (State.burstCond_moves b1 c _) (by decide))
  clear_value s2
  split
  · exact h2.trans (.of_moves (State.startRound_moves _ _) (by decide))
  · exact h2.trans (State.startExchange_sameCheck _ _)
  · exact h2

theorem State.admitWake_sameCheck (w : Burst) (s : State) : SameCheck s (s.admitWake w).1 := by
  unfold State.admitWake
  extract_lets s1 ps need s2 free ap
  have h1 : SameCheck s s1 :=
    SameCheck.foldl (p := id) (.refl s) fun u f => .of_moves (State.stopBurst_moves f u) (by decide)
  have h2 : SameCheck s s2 := h1.trans (.of_moves (State.freeBudget_moves _ _) (by decide))
  clear_value s2
  split
  · exact h2.trans (State.admitBurst_sameCheck _ _ _ _)
  · split
    · exact (h2.trans (State.admitBurst_sameCheck _ _ _ _)).trans (.of_moves (State.derateEvent_moves _) (by decide))
    · exact h2

theorem State.considerWake_sameCheck (s : State) : SameCheck s s.considerWake.1 := by
  unfold State.considerWake
  split
  · exact .refl s
  · split
    · exact State.admitWake_sameCheck _ s
    · exact .refl s

theorem State.considerOne_sameCheck (p : State × Bool) (b : Burst) : SameCheck p.1 (State.considerOne p b).1 := by
  unfold State.considerOne
  extract_lets s ps
  split
  · exact (State.setEntry_sameCheck _ _ _ s).trans (.of_moves (State.endCoilBurst_moves _ _) (by decide))
  · split
    · exact .refl _
    · split
      · exact State.admitBurst_sameCheck _ _ _ s
      · exact .refl s

theorem State.countRun_sameCheck (s before : State) : SameCheck s (s.countRun before) := by
  unfold State.countRun
  extract_lets more first x
  have hx : SameCheck s x := (State.modCheck_sameCheck s _).trans ⟨rfl, rfl, rfl, rfl⟩
  clear_value x
  exact SameCheck.ite (SameCheck.ite (hx.trans (.of_moves (State.derateEvent_moves x) (by decide))) hx) (.refl s)

theorem State.considerAll_sameCheck (s : State) : SameCheck s s.considerAll := by
  unfold State.considerAll
  extract_lets w pops diags r
  have hw : SameCheck s w.1 :=
    (SameCheck.of_moves (State.settleVlf_moves s) (by decide)).trans (State.considerWake_sameCheck _)
  have hr : SameCheck s r.1 := SameCheck.foldl (p := Prod.fst) hw State.considerOne_sameCheck
  exact SameCheck.ite hw (hr.trans (State.countRun_sameCheck _ _))

/-! ### Phases keep the check they belong to (R89) -/

theorem State.startCoil_sameCheck (phase i : Nat) (s0 : State) : SameCheck s0 (s0.startCoil phase i) := by
  unfold State.startCoil
  extract_lets s s1
  have hs : SameCheck s0 s :=
    (SameCheck.of_moves (State.evalCoil_moves i s0) (by decide)).trans (State.modCheck_sameCheck _ _)
  have settled : ∀ code, SameCheck s0 (s.setEntry i code none) := fun code =>
    hs.trans (State.setEntry_sameCheck _ _ _ _)
  have h1 : SameCheck s0 s1 := SameCheck.ite hs
    (hs.trans ((State.modCheck_sameCheck _ _).trans (State.modCoil_sameCheck _ _ _)))
  refine SameCheck.ite (settled 0x0A) (SameCheck.ite (settled 0x07) (SameCheck.ite (settled 0x08) ?_))
  exact (h1.trans (State.modCoil_sameCheck _ _ _)).trans (.of_moves (State.requestCoil_moves _ _ _) (by decide))

theorem State.startPhase_sameCheck (phase : Nat) (s : State) : SameCheck s (s.startPhase phase) := by
  unfold State.startPhase
  split
  · exact SameCheck.foldl (p := id) (State.modCheck_sameCheck s _) fun u i => State.startCoil_sameCheck phase i u
  · exact .refl s

theorem State.nextPhase_sameCheck (n : Nat) (s : State) : SameCheck s (s.nextPhase n).1 := by
  induction n generalizing s with
  | zero => exact .refl s
  | succ n ih =>
    unfold State.nextPhase
    split
    · exact .refl s
    · split
      · exact .refl s
      · split
        · exact (State.startPhase_sameCheck _ s).trans (ih _)
        · split
          · exact ((State.modCheck_sameCheck s _).trans (State.startPhase_sameCheck _ _)).trans (ih _)
          · exact .refl s

/-! ### A check begins, and completes (R123, R128) -/

/-- A check that begins takes the next number and leaves no further one wanted. -/
theorem State.beginCheck_begins (mbs : List Nat) (s : State) :
    (s.beginCheck mbs).1.pop.checkSeq = s.pop.checkSeq + 1 ∧ (s.beginCheck mbs).1.pop.wanted = false ∧
      (s.beginCheck mbs).1.pop.running.isSome = true := by
  unfold State.beginCheck
  extract_lets s1
  obtain ⟨hseq, hwanted, -, hrun⟩ := (State.startPhase_sameCheck 0 s1).trans (State.nextPhase_sameCheck 8 _)
  exact ⟨hseq, hwanted, hrun⟩

/-- A completed check leaves its record as the latest; the updates of R121 and R129 leave the check's part alone. -/
theorem State.finishCheck_pop {s : State} {k : PopCheck} (h : s.pop.running = some k) :
    s.finishCheck.pop =
      { s.pop with running := none, latest := some (s.popRecord k), lastStart := s.pop.lastStart.or (some k.startNs) } := by
  unfold State.finishCheck
  rw [h]
  dsimp -zeta only
  extract_lets r changed s1 s2 s3 status
  have h1 : s1.pop = s.pop := Moves.pop (ps := [.evc, .parts, .ledger]) (Moves.foldl (.refl _ s) fun u i hu =>
    hu.step (State.updateModule_moves k i u)) (by decide)
  have h2 : s2.pop = { s1.pop with running := none, latest := some r, lastStart := s1.pop.lastStart.or (some k.startNs) } :=
    (State.raise_moves 3 2 _).pop (by decide)
  have h3 : s3.pop = s2.pop := Moves.pop (ps := [.evc, .ledger])
    (Moves.ite (fun _ => State.popEntry_moves r s2) (fun _ => .refl _ s2)) (by decide)
  have h4 : (k.mbs.foldl (fun t mb => t.conclude mb status r.bytes) s3).pop = s3.pop :=
    Moves.pop (ps := [.evc, .mbx, .fab]) (Moves.foldl (.refl _ s3) fun u mb hu =>
      hu.step (State.conclude_moves mb status r.bytes u)) (by decide)
  rw [(State.requestEnrolCoil_moves _).pop (by decide), h4, h3, h2, h1]

/-- With no further check wanted, a check that began runs on or has left its record. -/
theorem State.settleCheck_settles {p : State × Bool} (hw : p.1.pop.wanted = false) (hr : p.1.pop.running.isSome = true) :
    (State.settleCheck p).pop.checkSeq = p.1.pop.checkSeq ∧ (State.settleCheck p).pop.wanted = false ∧
      ((State.settleCheck p).pop.running.isSome = true ∨
        (State.settleCheck p).pop.latest.map (·.checkSeq) = some p.1.pop.checkSeq) := by
  obtain ⟨k, hk⟩ := Option.isSome_iff_exists.mp hr
  have hpop := State.finishCheck_pop hk
  unfold State.settleCheck
  extract_lets s1 q
  split
  · have hidle : s1.pop.wanted = false := by rw [show s1.pop = _ from hpop]; exact hw
    rw [if_neg (by simp [hidle])]
    obtain ⟨hseq, hwanted, hlatest, -⟩ := State.considerAll_sameCheck s1
    rw [show s1.pop = _ from hpop] at hseq hlatest
    exact ⟨hseq, hwanted.trans hidle, .inr (by rw [hlatest]; rfl)⟩
  · obtain ⟨hseq, hwanted, -, hrun⟩ := State.considerAll_sameCheck p.1
    exact ⟨hseq, hwanted.trans hw, .inl (hrun.trans hr)⟩

/-! ### Requests of checks (R128) -/

/-- While a check runs, a request is kept as one further check. -/
theorem State.requestCheck_running {s : State} (mbs : List Nat) (h : s.pop.running.isSome = true) :
    s.requestCheck mbs = s.modPop fun p => { p with wanted := true, wantMbs := p.wantMbs ++ mbs } := by
  simp [State.requestCheck, h]

theorem State.requestCheck_nil_running {s : State} (h : s.pop.running.isSome = true) :
    (s.requestCheck []).pop = { s.pop with wanted := true } ∧ Only [.pop] s (s.requestCheck []) := by
  rw [State.requestCheck_running [] h]
  exact ⟨by simp, (State.modPop_movesAll _ _ fun _ => by exact Pop.keeps_of rfl).1⟩

/-- With none running and the coils ready, a request begins a check at once. -/
theorem State.requestCheck_begins {s : State} (mbs : List Nat) (hrun : s.pop.running = none) (hdiag : s.lf.diagDone = true)
    (hpd : s.pdOn 12 = true) (hroles : s.rolesRun = true) :
    (s.requestCheck mbs).pop.checkSeq = s.pop.checkSeq + 1 ∧ (s.requestCheck mbs).pop.wanted = false ∧
      ((s.requestCheck mbs).pop.running.isSome = true ∨
        (s.requestCheck mbs).pop.latest.map (·.checkSeq) = some (s.pop.checkSeq + 1)) := by
  have hbegin : s.requestCheck mbs = State.settleCheck (s.beginCheck (s.pop.wantMbs ++ mbs)) := by
    simp [State.requestCheck, hrun, hdiag, hpd, hroles]
  obtain ⟨hseq, hwanted, hsome⟩ := State.beginCheck_begins (s.pop.wantMbs ++ mbs) s
  have hsettle := State.settleCheck_settles hwanted hsome
  rwa [hseq, ← hbegin] at hsettle

theorem exec_populationCheckDue_due {s : State} {t0 : Nat} (hl : s.pop.lastStart = some t0)
    (hd : t0 + s.cfgN recPopulation 7 * 1000000000 ≤ s.now) : exec .populationCheckDue s = .next (s.requestCheck []) := by
  exact congrArg Host.Outcome.next (show doPopulationCheckDue s = _ by simp [doPopulationCheckDue, hl, hd])

theorem exec_populationCheckDue_early {s : State}
    (h : ∀ t0, s.pop.lastStart = some t0 → s.now < t0 + s.cfgN recPopulation 7 * 1000000000) :
    exec .populationCheckDue s = .next s := by
  cases hl : s.pop.lastStart with
  | none => exact congrArg Host.Outcome.next (show doPopulationCheckDue s = _ by simp [doPopulationCheckDue, hl])
  | some t0 =>
    have hearly : ¬ t0 + s.cfgN recPopulation 7 * 1000000000 ≤ s.now := Nat.not_le.mpr (h t0 hl)
    exact congrArg Host.Outcome.next (show doPopulationCheckDue s = _ by
      simp only [doPopulationCheckDue, hl, decide_eq_true_eq, if_neg hearly])

theorem exec_lockoutEnd_all {s : State} {r : PopRec} (hr : s.pop.latest = some r) (hne : r.locked ≠ [])
    (h : ∀ q, q ∈ r.locked → s.stillLocked q = false) : exec .lockoutEnd s = .next (s.requestCheck []) := by
  have hall : (r.locked.all fun q => !s.stillLocked q) = true := by simpa using fun a b => h (a, b)
  exact congrArg Host.Outcome.next (show doLockoutEnd s = _ by simp [doLockoutEnd, hr, hne, hall])

theorem exec_lockoutEnd_early {s : State} {r : PopRec} (hr : s.pop.latest = some r)
    (h : r.locked = [] ∨ ∃ q, q ∈ r.locked ∧ s.stillLocked q = true) : exec .lockoutEnd s = .next s := by
  rcases h with hnil | ⟨q, hq, hlocked⟩
  · exact congrArg Host.Outcome.next (show doLockoutEnd s = _ by simp [doLockoutEnd, hr, hnil])
  · have hall : (r.locked.all fun q => !s.stillLocked q) = false := List.all_eq_false.mpr ⟨q, hq, by simp [hlocked]⟩
    exact congrArg Host.Outcome.next (show doLockoutEnd s = _ by simp [doLockoutEnd, hr, hall])

/-! ### The commands lf.population and lf.popcheck -/

/-- A command that starts with its own checks passed acts on the state as it sees it (R432, R455). -/
theorem Takes.perform {s : State} {mb op : Nat} {wf : List Byte → Bool} {pre : State → Mailbox → Option Nat}
    (h : Takes s mb op) (hc : cmdCheck mb op = (wf, pre)) (act : Mailbox → State → State) :
    s.perform mb op (checked wf pre) act = s.cmdBack mb (act (s.box mb) (s.cmdView mb)) := by
  obtain ⟨hstarted, hown⟩ := h
  unfold State.ownCheck at hown
  rw [hc] at hown
  exact State.perform_acts hstarted hown

@[simp] theorem State.cmdView_pop (s : State) (mb : Nat) : (s.cmdView mb).pop = s.pop :=
  (State.cmdView_moves s mb).pop (by decide)

@[simp] theorem State.cmdBack_pop (s : State) (mb : Nat) (t : State) : (s.cmdBack mb t).pop = t.pop :=
  State.cmdBack_mod s mb t .pop (by decide)

theorem Takes.box_exists {s : State} {mb op : Nat} (h : Takes s mb op) : mb < (s.cmdView mb).mbx.boxes.length := by
  obtain ⟨⟨hruns, -, -⟩, -⟩ := h
  rw [(State.cmdView_moves s mb).1.mbx (by decide)]
  exact State.runs_exists hruns

theorem exec_lfPopulation {s : State} {mb : Nat} {r : PopRec} (h : Takes s mb 0x0605) (hr : s.pop.latest = some r) :
    exec (.lfPopulation mb) s = .next (s.cmdBack mb ((s.cmdView mb).post mb Status.ok r.bytes)) := by
  refine congrArg Host.Outcome.next ((h.perform rfl _).trans ?_)
  rw [State.cmdView_pop, hr]
  rfl

theorem exec_lfPopcheck_running {s : State} {mb : Nat} (h : Takes s mb 0x0606) (hr : s.pop.running.isSome = true) :
    exec (.lfPopcheck mb) s = .next (s.cmdBack mb (((s.cmdView mb).wait mb).modPop fun p =>
      { p with wanted := true, wantMbs := p.wantMbs ++ [mb] })) := by
  refine congrArg Host.Outcome.next ((h.perform rfl _).trans (congrArg _ (State.requestCheck_running [mb] ?_)))
  rw [(State.wait_moves mb _).pop (by decide), State.cmdView_pop]
  exact hr

/-! ### The settlement of O40 -/

/-- Settles O40: each answer by its coil's standing, each moment by the check it asks for. -/
theorem populationChecksRun : Obligations.PopulationChecksRun := by
  unfold Obligations.PopulationChecksRun
  refine ⟨?answer, ?noAnswer, ?idle, ?dueWhileRunning, ?due, ?notDue, ?lockoutEnd, ?stillLocked, ?population, ?popcheck⟩
  case answer =>
    intro i p crc b k e s hi hb ha hr hlen hstage he hcrc hw
    have hk : i < k.coils.length := hlen ▸ hi
    by_cases hp : beNat e = p
    · obtain ⟨hentry, htable, hothers, hflight, honly⟩ := State.passCheck_ends (ident := (s.coil i).target) hr hk hw
      exact ⟨_, exec_uplinkFrame_answer hb ha hcrc (State.coilAnswer_match hstage he hp),
        fun _ => ⟨hentry, htable⟩, fun hne => absurd hp hne, hothers, hflight, honly⟩
    · obtain ⟨hcoil, hothers, hflight, honly⟩ := State.setRetry_ends 1 hr hk hw
      exact ⟨_, exec_uplinkFrame_answer hb ha hcrc (State.coilAnswer_mismatch hstage he hp),
        fun heq => absurd heq hp, fun _ => ⟨hcoil, honly .parts (by decide)⟩, hothers, hflight, honly.mono (by decide)⟩
  case noAnswer =>
    intro i b k s hi hb ha hr hlen hstage hw
    have hk : i < k.coils.length := hlen ▸ hi
    obtain ⟨hentry, hsettledOthers, -, hsettledOnly⟩ := State.setEntry_ends 0x0B none hr hk hw
    obtain ⟨hcoil, hothers, -, honly⟩ := State.setRetry_ends 2 hr hk hw
    refine ⟨fun he => ⟨_, exec_noAnswer_check hb ha, ?_⟩, fun he => ⟨_, exec_uplinkFrame_unreadable hb ha, ?_⟩,
      fun he => ⟨_, exec_noAnswer_check hb ha, ?_⟩⟩
    · rw [State.coilSilent_keyless hstage he]
      exact ⟨hentry, hsettledOthers, hsettledOnly⟩
    · rw [State.coilError_check hstage he]
      exact ⟨hcoil, hothers, honly⟩
    · rw [State.coilSilent_check hstage he]
      exact ⟨hcoil, hothers, honly⟩
  case idle => exact fun i f s h => ⟨exec_uplinkFrame_idle f h, exec_noAnswer_idle h⟩
  case dueWhileRunning =>
    exact fun t0 s hl hd hr => ⟨_, exec_populationCheckDue_due hl hd, State.requestCheck_nil_running hr⟩
  case due =>
    exact fun t0 s hl hd hr hdiag hpd hroles =>
      ⟨_, exec_populationCheckDue_due hl hd, State.requestCheck_begins [] hr hdiag hpd hroles⟩
  case notDue => exact fun s h => exec_populationCheckDue_early h
  case lockoutEnd =>
    exact fun r s hr hne hall hrun => ⟨_, exec_lockoutEnd_all hr hne hall, State.requestCheck_nil_running hrun⟩
  case stillLocked => exact fun r s hr h => exec_lockoutEnd_early hr h
  case population =>
    intro mb r s h hr
    refine ⟨_, exec_lfPopulation h hr, ?_, (State.cmdView_cmdBack_moves (.mono (by decide) (State.post_moves _ _ _ _))).1⟩
    have hposted := State.post_completed (status := Status.ok) (body := r.bytes) h.box_exists rfl
    unfold Completed at hposted ⊢
    rw [State.cmdView_box] at hposted
    exact hposted.back
  case popcheck =>
    intro mb s h hr
    refine ⟨_, exec_lfPopcheck_running h hr, ?_, ?_, (State.cmdView_cmdBack_moves ?_).1⟩
    · rw [State.cmdBack_pop, State.modPop_pop, (State.wait_moves mb _).pop (by decide), State.cmdView_pop]
    · rw [State.cmdBack_box, State.box_of_mbx (State.modPop_mbx _ _)]
      exact (State.box_modBox _ h.box_exists).trans (by rw [State.cmdView_box])
    · exact (Moves.mono (by decide) (State.wait_moves mb _)).trans
        (Moves.mono (by decide) (State.modPop_movesAll _ _ fun _ => by exact Pop.keeps_of rfl))

end Sys2Proof.Machine
end

section
/-!
What each command changes and what every step keeps, over the whole dispatch: the frame of each command (O57), and the
invariant of every step (O59).
-/
namespace Sys2Proof.Machine

/-! ### The dispatch -/

/-- Each arm of the dispatch moves what the table lists for its command, by the law of its row. -/
theorem exec_moves {c : Instr} {s t : State} (h : exec c s = .next t) : Moves (mayChange c) s t := by
  cases c with
  | powerOnReset => exact execPowerOnReset_moves s h
  | rstNAsserted => exact execRstNAsserted_moves _ s h
  | resetRelease => exact execResetRelease_moves _ s h
  | bootSelfTestRetry => exact execBootSelfTestRetry_moves _ s h
  | bootMonitorExpiry => exact execBootMonitorExpiry_moves _ s h
  | trialConfirmation => exact execTrialConfirmation_moves s h
  | lineLoss => exact execLineLoss_moves s h
  | linePowerReturn => exact execLinePowerReturn_moves s h
  | vresExhausted => exact execVresExhausted_moves s h
  | vresMeasurement => exact execVresMeasurement_moves _ s h
  | feedDeliveringChange => exact execFeedDeliveringChange_moves _ _ s h
  | feedOv => exact execFeedOv_moves _ _ s h
  | sccpClassification => exact execSccpClassification_moves _ s h
  | sccpClassWrite => exact execSccpClassWrite_moves _ _ s h
  | vcoreUndervoltage => exact execVcoreUndervoltage_moves s h
  | tempoGovernorUpdate => exact execTempoGovernorUpdate_moves _ _ s h
  | referenceFailed => exact execReferenceFailed_moves _ s h
  | slowCrystalFailed => exact execSlowCrystalFailed_moves _ s h
  | sourceQualified => exact execSourceQualified_moves _ s h
  | tbuStart => exact execTbuStart_moves s h
  | trimWindowEnd => exact execTrimWindowEnd_moves _ _ s h
  | temperatureSample => exact execTemperatureSample_moves _ s h
  | accrualSecond => exact execAccrualSecond_moves s h
  | hourlyHistoryPoint => exact execHourlyHistoryPoint_moves s h
  | counterOutvoted => exact execCounterOutvoted_moves _ _ s h
  | timestampExtensionCompare => exact execTimestampExtensionCompare_moves _ s h
  | ppsEdge => exact execPpsEdge_moves s h
  | ppsPulseEnd => exact execPpsPulseEnd_moves s h
  | syncInterval => exact execSyncInterval_moves s h
  | announceInterval => exact execAnnounceInterval_moves s h
  | gptpForeignFrame => exact execGptpForeignFrame_moves _ s h
  | pdelayReq => exact execPdelayReq_moves _ s h
  | tbuNsLoRead => exact execTbuNsLoRead_moves _ s h
  | tbuUaccLoRead => exact execTbuUaccLoRead_moves _ s h
  | registerWrite => exact execRegisterWrite_moves _ _ _ s h
  | timerTick => exact execTimerTick_moves _ s h
  | timerWrap => exact execTimerWrap_moves _ s h
  | compareFire => exact execCompareFire_moves _ _ s h
  | tmrnCtrlWrite => exact execTmrnCtrlWrite_moves _ _ s h
  | swtrig => exact execSwtrig_moves _ s h
  | tmrnCntWrite => exact execTmrnCntWrite_moves _ _ s h
  | tmrnCmpWrite => exact execTmrnCmpWrite_moves _ _ _ s h
  | tmrnCapRead => exact execTmrnCapRead_moves _ _ s h
  | almmLoWrite => exact execAlmmLoWrite_moves _ _ _ s h
  | almmLoRead => exact execAlmmLoRead_moves _ _ s h
  | alarmFire => exact execAlarmFire_moves _ s h
  | alarmDisarm => exact execAlarmDisarm_moves _ s h
  | pinPulseEnd => exact execPinPulseEnd_moves _ s h
  | capEdge => exact execCapEdge_moves _ _ s h
  | capnLoRead => exact execCapnLoRead_moves _ _ s h
  | capFlush => exact execCapFlush_moves _ s h
  | eventOccurrence => exact execEventOccurrence_moves _ _ s h
  | batchDueTime => exact execBatchDueTime_moves _ s h
  | delivery => exact execDelivery_moves s h
  | evcClaimWrite => exact execEvcClaimWrite_moves _ _ s h
  | evcDlvRead => exact execEvcDlvRead_moves _ _ s h
  | retraction => exact execRetraction_moves _ s h
  | wakeOutPulse => exact execWakeOutPulse_moves _ s h
  | wakeOutPulseEnd => exact execWakeOutPulseEnd_moves s h
  | evcSwsetWrite => exact execEvcSwsetWrite_moves _ s h
  | pscHostSleepWrite => exact execPscHostSleepWrite_moves _ s h
  | translationFault => exact execTranslationFault_moves _ _ _ _ _ _ _ s h
  | faultRestart => exact execFaultRestart_moves _ _ _ s h
  | faultAbort => exact execFaultAbort_moves _ s h
  | faultAbortTimeout => exact execFaultAbortTimeout_moves s h
  | translationInvalidation => exact execTranslationInvalidation_moves _ _ s h
  | deadlineFlag => exact execDeadlineFlag_moves _ _ s h
  | arbitrationRound => exact execArbitrationRound_moves _ s h
  | hbwWinCfgWrite => exact execHbwWinCfgWrite_moves _ _ s h
  | apertureAccess => exact execApertureAccess_moves _ _ s h
  | uncorrectableWord => exact execUncorrectableWord_moves _ _ _ _ s h
  | mramUncorrectableLine => exact execMramUncorrectableLine_moves _ _ _ s h
  | dieLinkCrcFail => exact execDieLinkCrcFail_moves _ _ _ s h
  | spiWriteFrame => exact execSpiWriteFrame_moves _ s h
  | spiReadFrame => exact execSpiReadFrame_moves _ s h
  | spiWakeFrame => exact execSpiWakeFrame_moves _ s h
  | mgmtRequest => exact execMgmtRequest_moves _ _ _ _ _ s h
  | keptReplyExpiry => exact execKeptReplyExpiry_moves s h
  | doorbell => exact execDoorbell_moves _ s h
  | commandStart => exact execCommandStart_moves _ s h
  | commandLimit => exact execCommandLimit_moves _ s h
  | commandAreaWrite => exact execCommandAreaWrite_moves _ _ _ s h
  | mbnRes0Read => exact execMbnRes0Read_moves _ s h
  | mbxAckWrite => exact execMbxAckWrite_moves _ s h
  | sysInfo => exact execSysInfo_moves _ s h
  | sysReset => exact execSysReset_moves _ s h
  | sysEvent => exact execSysEvent_moves _ s h
  | sysHealth => exact execSysHealth_moves _ s h
  | cfgLoad => exact execCfgLoad_moves _ s h
  | cfgActivate => exact execCfgActivate_moves _ s h
  | cfgStatus => exact execCfgStatus_moves _ s h
  | cfgSet => exact execCfgSet_moves _ s h
  | cfgGet => exact execCfgGet_moves _ s h
  | partEnrol => exact execPartEnrol_moves _ s h
  | partEnrolOpen => exact execPartEnrolOpen_moves _ s h
  | partGet => exact execPartGet_moves _ s h
  | partList => exact execPartList_moves _ s h
  | partSet => exact execPartSet_moves _ s h
  | partAbsent => exact execPartAbsent_moves _ s h
  | partRemove => exact execPartRemove_moves _ s h
  | partRekey => exact execPartRekey_moves _ s h
  | partUnlock => exact execPartUnlock_moves _ s h
  | sessPoll => exact execSessPoll_moves _ s h
  | sessStatus => exact execSessStatus_moves _ s h
  | sessLast => exact execSessLast_moves _ s h
  | rangeStatus => exact execRangeStatus_moves _ s h
  | rangeTest => exact execRangeTest_moves _ s h
  | lfStatus => exact execLfStatus_moves _ s h
  | lfDiag => exact execLfDiag_moves _ s h
  | lfTune => exact execLfTune_moves _ s h
  | lfPhase => exact execLfPhase_moves _ s h
  | lfPopulation => exact execLfPopulation_moves _ s h
  | lfPopcheck => exact execLfPopcheck_moves _ s h
  | rfStatus => exact execRfStatus_moves _ s h
  | rfCal => exact execRfCal_moves _ s h
  | rfTest => exact execRfTest_moves _ s h
  | rfCapture => exact execRfCapture_moves _ s h
  | relConsent => exact execRelConsent_moves _ s h
  | relRevoke => exact execRelRevoke_moves _ s h
  | relCancel => exact execRelCancel_moves _ s h
  | relStatus => exact execRelStatus_moves _ s h
  | cryptChan => exact execCryptChan_moves _ s h
  | cryptSubmit => exact execCryptSubmit_moves _ s h
  | cryptDone => exact execCryptDone_moves _ s h
  | cryptCtxOpen => exact execCryptCtxOpen_moves _ s h
  | cryptCtxClose => exact execCryptCtxClose_moves _ s h
  | cryptCtxSave => exact execCryptCtxSave_moves _ s h
  | cryptCtxRestore => exact execCryptCtxRestore_moves _ s h
  | keyWrite => exact execKeyWrite_moves _ s h
  | keyErase => exact execKeyErase_moves _ s h
  | keyInfo => exact execKeyInfo_moves _ s h
  | keyReprovBegin => exact execKeyReprovBegin_moves _ s h
  | keyReprovFinish => exact execKeyReprovFinish_moves _ s h
  | ledgEnergy => exact execLedgEnergy_moves _ s h
  | ledgStatus => exact execLedgStatus_moves _ s h
  | ledgExport => exact execLedgExport_moves _ s h
  | ledgAck => exact execLedgAck_moves _ s h
  | ledgCredit => exact execLedgCredit_moves _ s h
  | timeStatus => exact execTimeStatus_moves _ s h
  | timeCivil => exact execTimeCivil_moves _ s h
  | pwrStatus => exact execPwrStatus_moves _ s h
  | pwrSleep => exact execPwrSleep_moves _ s h
  | diagTempo => exact execDiagTempo_moves _ s h
  | diagFaults => exact execDiagFaults_moves _ s h
  | fwWrite => exact execFwWrite_moves _ s h
  | fwActivate => exact execFwActivate_moves _ s h
  | fwStatus => exact execFwStatus_moves _ s h
  | lfBudgetRecompute => exact execLfBudgetRecompute_moves _ _ _ _ _ s h
  | burstRequest => exact execBurstRequest_moves _ _ s h
  | burstEnd => exact execBurstEnd_moves _ _ s h
  | overcurrentTrip => exact execOvercurrentTrip_moves _ s h
  | lfOverdraw => exact execLfOverdraw_moves _ _ s h
  | resonanceMeasurement => exact execResonanceMeasurement_moves _ _ s h
  | coilDiagnosticsDue => exact execCoilDiagnosticsDue_moves s h
  | populationCheckDue => exact execPopulationCheckDue_moves s h
  | uplinkFrame => exact execUplinkFrame_moves _ _ s h
  | noAnswer => exact execNoAnswer_moves _ s h
  | populationPhaseEnd => exact execPopulationPhaseEnd_moves s h
  | lockoutEnd => exact execLockoutEnd_moves s h
  | periodicPoll => exact execPeriodicPoll_moves _ s h
  | slotAnswer => exact execSlotAnswer_moves _ _ s h
  | responseWindowClose => exact execResponseWindowClose_moves s h
  | derivationComplete => exact execDerivationComplete_moves _ s h
  | laneOpen => exact execLaneOpen_moves s h
  | responseFrame => exact execResponseFrame_moves _ s h
  | tagDeadline => exact execTagDeadline_moves s h
  | pollFrame => exact execPollFrame_moves s h
  | rangingResponse => exact execRangingResponse_moves _ s h
  | finalFrame => exact execFinalFrame_moves s h
  | reportFrame => exact execReportFrame_moves _ _ s h
  | uwbReceiveWindowExpiry => exact execUwbReceiveWindowExpiry_moves s h
  | enrolmentWindowExpiry => exact execEnrolmentWindowExpiry_moves s h
  | candidateEvaluation => exact execCandidateEvaluation_moves s h
  | authSummaryHourEnd => exact execAuthSummaryHourEnd_moves s h
  | seqUp => exact execSeqUp_moves s h
  | seqDown => exact execSeqDown_moves s h
  | seqIdle => exact execSeqIdle_moves _ s h
  | seqListenUhf => exact execSeqListenUhf_moves _ _ s h
  | seqSendUhf => exact execSeqSendUhf_moves _ _ s h
  | seqListenUwb => exact execSeqListenUwb_moves _ _ _ s h
  | seqSendUwb => exact execSeqSendUwb_moves _ _ _ s h
  | seqRange => exact execSeqRange_moves _ _ _ _ s h
  | seqCal => exact execSeqCal_moves _ s h
  | lockQualified => exact execLockQualified_moves _ s h
  | settleTimeout => exact execSettleTimeout_moves s h
  | lockLost => exact execLockLost_moves _ s h
  | calStepEnd => exact execCalStepEnd_moves _ s h
  | uhfFrameEnd => exact execUhfFrameEnd_moves s h
  | uwbFrameEnd => exact execUwbFrameEnd_moves s h
  | uhfFrameReceived => exact execUhfFrameReceived_moves _ s h
  | uwbFrameReceived => exact execUwbFrameReceived_moves _ s h
  | backgroundSlice => exact execBackgroundSlice_moves _ _ _ _ _ s h
  | forcedSlice => exact execForcedSlice_moves _ _ _ _ _ s h
  | heldCommandTimeout => exact execHeldCommandTimeout_moves s h
  | transmitGateDeadline => exact execTransmitGateDeadline_moves s h
  | upRetry => exact execUpRetry_moves s h
  | recalibrationDue => exact execRecalibrationDue_moves _ s h
  | descriptorQueued => exact execDescriptorQueued_moves _ _ s h
  | requestAdmission => exact execRequestAdmission_moves _ s h
  | completionRecord => exact execCompletionRecord_moves _ s h
  | datapathMismatch => exact execDatapathMismatch_moves _ _ s h
  | engineSelfTestEnd => exact execEngineSelfTestEnd_moves _ s h
  | nonceMarkAdvanceDone => exact execNonceMarkAdvanceDone_moves _ s h
  | macsecRxFrame => exact execMacsecRxFrame_moves _ _ s h
  | macsecTxFrame => exact execMacsecTxFrame_moves _ _ _ s h
  | cmpwStart => exact execCmpwStart_moves _ _ s h
  | cmpwAbort => exact execCmpwAbort_moves _ _ s h
  | cmpwLoad => exact execCmpwLoad_moves _ _ s h
  | cmpwRelease => exact execCmpwRelease_moves _ _ s h
  | cmpwBlockDone => exact execCmpwBlockDone_moves s h
  | cmpwLoadDone => exact execCmpwLoadDone_moves s h
  | cmpwYieldEnd => exact execCmpwYieldEnd_moves s h
  | meterSample => exact execMeterSample_moves _ _ _ _ s h
  | meanEnd => exact execMeanEnd_moves s h
  | inputStuck => exact execInputStuck_moves _ s h
  | counterCommit => exact execCounterCommit_moves s h
  | summaryBoundary => exact execSummaryBoundary_moves s h
  | graceExpiry => exact execGraceExpiry_moves s h
  | queuedEntryAppend => exact execQueuedEntryAppend_moves s h
  | healthSummaryHour => exact execHealthSummaryHour_moves s h
  | statisticsHour => exact execStatisticsHour_moves s h
  | sstlEdge => exact execSstlEdge_moves _ _ s h
  | sstlDisagree => exact execSstlDisagree_moves s h
  | readbackWindowEnd => exact execReadbackWindowEnd_moves _ _ _ s h
  | latchComplementTimeout => exact execLatchComplementTimeout_moves _ s h
  | idleExpiry => exact execIdleExpiry_moves s h
  | revokeNoticeElapsed => exact execRevokeNoticeElapsed_moves s h
  | permissionOscillatorTrim => exact execPermissionOscillatorTrim_moves _ s h
  | pairDivergence => exact execPairDivergence_moves _ s h
  | roleMigrationComplete => exact execRoleMigrationComplete_moves s h
  | pairSelfTestEnd => exact execPairSelfTestEnd_moves _ _ s h
  | roleReturn => exact execRoleReturn_moves _ s h
  | pairRetirementEnd => exact execPairRetirementEnd_moves _ s h
  | tamperAssertion => exact execTamperAssertion_moves _ s h
  | tamperQuiet => exact execTamperQuiet_moves _ s h
  | meshCheck => exact execMeshCheck_moves _ s h
  | tamperConfirmed => exact execTamperConfirmed_moves _ s h
  | tamperLatchClear => exact execTamperLatchClear_moves s h
  | sleepCommit => exact execSleepCommit_moves s h
  | veto => exact execVeto_moves _ s h
  | domainGated => exact execDomainGated_moves s h
  | driftIdleEntry => exact execDriftIdleEntry_moves s h
  | wakeSource => exact execWakeSource_moves _ s h
  | wakeComplete => exact execWakeComplete_moves s h
  | linkActivity => exact execLinkActivity_moves _ s h
  | ethernetWakeFrame => exact execEthernetWakeFrame_moves _ _ s h
  | padFrzWrite => exact execPadFrzWrite_moves _ s h
  | gpioEdge => exact execGpioEdge_moves _ _ s h
  | linkChange => exact execLinkChange_moves _ _ s h
  | autonegTimeout => exact execAutonegTimeout_moves _ s h
  | mkaHello => exact execMkaHello_moves _ s h
  | mkaPdu => exact execMkaPdu_moves _ _ _ _ _ _ _ s h
  | mkaLifeExpiry => exact execMkaLifeExpiry_moves _ s h
  | duplicateAddressDetected => exact execDuplicateAddressDetected_moves _ s h
  | neighbourSolicitation => exact execNeighbourSolicitation_moves _ _ s h
  | echoRequest => exact execEchoRequest_moves _ _ _ s h
  | nodeIdClash => exact execNodeIdClash_moves _ s h
  | announceFrame => exact execAnnounceFrame_moves _ _ s h
  | nodeCheck => exact execNodeCheck_moves s h
  | segmentResponse => exact execSegmentResponse_moves _ _ s h
  | segmentResponseMiss => exact execSegmentResponseMiss_moves _ s h
  | enrolChallengeRetry => exact execEnrolChallengeRetry_moves s h
  | segmentData => exact execSegmentData_moves _ _ s h
  | updateIr => exact execUpdateIr_moves _ s h
  | updateDr => exact execUpdateDr_moves _ s h
  | tapReset => exact execTapReset_moves s h
  | lfloop => exact execLfloop_moves _ _ _ s h
  | rfloop => exact execRfloop_moves _ _ _ s h
  | rfTestEnd => exact execRfTestEnd_moves s h
  | capPinLevelChange => exact execCapPinLevelChange_moves _ _ s h
  | transitionsResume => exact execTransitionsResume_moves _ s h
  | frameDiscarded => exact execFrameDiscarded_moves _ s h

/-! ### The step -/

/-- A step is the timebase's while no command waits, and the front command's on the rest of the queue otherwise. -/
theorem step_cases {s t : State} (h : step s = .next t) :
    (s.pending = [] ∧ t = s.tick) ∨ ∃ c rest, s.pending = c :: rest ∧ exec c (s.withPending rest) = .next t := by
  unfold step at h
  split at h
  next hp => exact .inl ⟨hp, (Host.Outcome.next.inj h).symm⟩
  next c rest hp => exact .inr ⟨c, rest, hp, h⟩

/-- No part that the invariant speaks of holds the queue of waiting commands. -/
theorem State.withPending_keeps (s : State) (cs : List Instr) : Keeps s (s.withPending cs) := { Keeps.refl s with }

/-- Every step keeps what each operation keeps: of each part its shape, and what no step undoes. -/
theorem step_keeps {s t : State} (h : step s = .next t) : Keeps s t := by
  obtain ⟨-, rfl⟩ | ⟨c, rest, -, hexec⟩ := step_cases h
  · exact (State.tick_moves s).2
  · exact (State.withPending_keeps s rest).trans (exec_moves hexec).2

/-! ### The invariant -/

/-- What keeps the shape of each part and the canonical memory keeps the invariant. -/
theorem Inv.of_keeps {s t : State} (h : Inv s) (k : Keeps s t) : Inv t where
  mem := k.mem h.mem
  tbu := k.tbu.1 h.tbu
  tmr := k.tmr h.tmr
  evc := k.evc h.evc
  psc := k.psc h.psc
  pad := k.pad h.pad
  mbx := k.mbx h.mbx
  boot := k.boot.1 h.boot
  fab := k.fab h.fab
  parts := k.parts h.parts
  lf := k.lf h.lf
  pop := k.pop h.pop
  radio := k.radio h.radio
  crypt := k.crypt h.crypt
  keys := k.keys h.keys
  met := k.met h.met
  ledger := k.ledger.1 h.ledger
  health := k.health.1 h.health
  net := k.net h.net
  power := k.power h.power
  cores := k.cores h.cores
  tamper := k.tamper h.tamper
  jtag := k.jtag h.jtag

/-! ### The settlements of O57 and O59 -/

/-- Settles O57: the frame of the law of each arm of the dispatch. -/
theorem frameOfEveryCommand : Obligations.FrameOfEveryCommand := by
  unfold Obligations.FrameOfEveryCommand
  intro c s t h
  obtain ⟨hframe, -⟩ := exec_moves h
  exact hframe

/-- Settles O59: the timebase's step and every arm of the dispatch keep the shape of each part. -/
theorem everyStepKeepsInv : Obligations.EveryStepKeepsInv := by
  unfold Obligations.EveryStepKeepsInv Kept
  intro s t hinv hstep
  exact hinv.of_keeps (step_keeps hstep)

end Sys2Proof.Machine
end

section
/-!
Key sessions and ranging (R62, R128, R183, R195, R202, R208): a state for O44 and one for O45 in which the partner table after
the exchange is not the one that the statement gives.
-/
namespace Sys2Proof.Machine

/-! ### A round with one lane open -/

/-- In a round of two lanes of which the second has not opened, the first runs. -/
theorem State.laneRuns_of_two {s : State} {r : Round} {l m : Lane} (hcur : s.sess.cur = some r) (hclosed : r.closed = true)
    (hlanes : r.lanes = [l, m]) (hk : l.k = 0) (hopen : l.opened = true) (hrun : l.outcome = none) (hwait : m.opened = false)
    (habort : l.aborted = false) (hkey : l.noKey = false) (hdead : l.dead = false ∧ m.dead = false) : s.laneRuns r l := by
  refine ⟨hcur, hclosed, ?_, ?_, habort, hkey, ?_, ?_⟩
  · simp [Round.active, hlanes, hopen, hrun]
  · rw [hlanes, hk]; rfl
  · simpa [hlanes] using hdead
  · intro i x hx hxopen _
    rw [hlanes] at hx
    match i, hx with
    | 0, _ => exact hk.symm
    | 1, hx =>
      cases hx
      exact absurd hxopen (by simp [hwait])

theorem Round.othersRun_of_two {r : Round} {l m : Lane} (hlanes : r.lanes = [l, m]) (hrun : m.outcome = none) :
    r.othersRun 0 := ⟨1, m, by decide, by rw [hlanes]; rfl, hrun⟩

/-! ### The refutation of O44: an index that stands twice in the partner table -/

namespace TwiceIndexed

/-- The record whose counted failure is written. -/
def key : PartRec := { identity := 0x55, kind := 1, role := 0x10, state := .enrolled }

/-- The record that stands before it at the same index, with another update_seq. -/
def earlier : PartRec := { identity := 0x99, kind := 1, role := 0x10, state := .enrolled, updateSeq := 7 }

/-- The lane of the key, which awaits its response; it holds no session key, so no tag verifies. -/
def lane : Lane := { ans := { identity := 0x55 }, opened := true }

def round : Round := { closed := true, lanes := [lane, { k := 1 }] }

def state : State := { sess := { cur := some round }, parts := { table := [(3, earlier), (3, key)] } }

/-- A response frame's payload of slot 0, whose tag is wrong (R181). -/
def payload : List Byte := [0x33, 0x00] ++ zeros 12

/-- The payload as it is received (R173). -/
def frame : List Byte := leBytes 1 14 ++ payload ++ beBytes 2 (crc16 (leBytes 1 14 ++ payload))

theorem frame_payload : uhfPayload frame = some payload := by decide +kernel

theorem tag_fails : state.responseOk round lane payload = false := by decide +kernel

/-- The failure is written with an update_seq one more than that of the earlier record of the index (R42). -/
theorem table_after : (doResponseFrame frame state).parts.table =
    [(3, { key with failCount := 1, stampEpoch := 1, updateSeq := 8 })] := by decide +kernel

end TwiceIndexed

open TwiceIndexed in
/-- Refutes O44: where two records stand at one index of the partner table, a failed response writes its record with an
update_seq one more than that of the first of them, and not one more than its own. No write leaves such a table (`tablePut`),
but the statement is about every state and, unlike that of O40, does not exclude it. -/
theorem not_roundsAdmitAndAuthenticate : ¬ Obligations.RoundsAdmitAndAuthenticate := by
  unfold Obligations.RoundsAdmitAndAuthenticate
  rintro ⟨-, -, -, -, -, -, -, -, -, hresponse, -⟩
  have hruns : state.laneRuns round lane := State.laneRuns_of_two rfl rfl rfl rfl rfl rfl rfl rfl rfl ⟨rfl, rfl⟩
  obtain ⟨-, hfails⟩ := hresponse round lane frame payload state hruns rfl (by decide) frame_payload (by decide)
  obtain ⟨t, hexec, -, -, htable, -⟩ := hfails 3 key tag_fails (by decide) rfl (Round.othersRun_of_two rfl rfl) rfl rfl (by decide)
  have ht : t = doResponseFrame frame state := (Host.Outcome.next.inj hexec).symm
  rw [ht, table_after] at htable
  exact absurd htable (by decide +kernel)

/-! ### CCM keeps lengths, and deciphers what it enciphered -/

namespace Aes

theorem ccmCtr_length {nonce : List Byte} (h : nonce.length = 13) (i : Nat) : (ccmCtr nonce i).length = 16 := by
  simp [ccmCtr, h, beBytes_len]

section
variable {key nonce : List Byte} {nk : Nat} (hn : 0 < nk) (hk : key.length = 4 * nk)
include hn hk

theorem stream_length {ctr : Nat → List Byte} (hctr : ∀ i, (ctr i).length = 16) (n : Nat) :
    (stream key ctr n).length = 16 * n := by
  induction n with
  | zero => rfl
  | succ n ih =>
    rw [stream] at ih
    rw [stream, List.range_succ, List.flatMap_append, List.length_append, ih, List.flatMap_singleton,
      encBlock_length hn hk (hctr n), Nat.mul_succ]

/-- The key stream covers the data. -/
theorem length_le_ccmStream (h : nonce.length = 13) (data : List Byte) :
    data.length ≤ (stream key (fun i => ccmCtr nonce (i + 1)) (ceilDiv data.length 16)).length := by
  rw [stream_length hn hk fun i => ccmCtr_length h (i + 1)]
  unfold ceilDiv
  omega

theorem ccmCrypt_length (h : nonce.length = 13) (data : List Byte) : (ccmCrypt key nonce data).length = data.length := by
  rw [ccmCrypt, xorBytes, List.length_zipWith]
  exact Nat.min_eq_left (length_le_ccmStream hn hk h data)

theorem ccmCrypt_ccmCrypt (h : nonce.length = 13) (data : List Byte) :
    ccmCrypt key nonce (ccmCrypt key nonce data) = data := by
  rw [ccmCrypt, ccmCrypt_length hn hk h data]
  exact xorBytes_xorBytes (length_le_ccmStream hn hk h data)

theorem ccmTag_length {tagLen : Nat} (h : nonce.length = 13) (ht : tagLen ≤ 16) (aad data : List Byte) :
    (ccmTag key nonce aad data tagLen).length = tagLen := by
  have hmac : (ccmMac key nonce aad data tagLen).length = 16 := cbcMac_length hn hk _ _ List.length_replicate
  have hctr := encBlock_length hn hk (ccmCtr_length h 0)
  rw [ccmTag, List.length_take, xorBytes_length (hmac.trans hctr.symm), hmac]
  omega

end

end Aes

/-! ### A REPORT that verifies (R195, R202) -/

/-- The REPORT of an attempt that a key seals under its session key: header, enciphered body and tag (R195). -/
def sealedReport (key : List Byte) (challenge identity attempt : Nat) (body : List Byte) : List Byte :=
  let nonce := beBytes 1 0x5B ++ beBytes 12 challenge
  let header := [0x41, BitVec.ofNat 8 attempt]
  header ++ Aes.ccmCrypt key nonce body ++
    Aes.ccmTag key nonce (leBytes 8 Config.deviceIdentity ++ leBytes 8 identity ++ header) body 8

theorem slice_append_append {a b c : List Byte} {i j k : Nat} (ha : a.length = i) (hb : b.length = j) (hc : c.length = k) :
    slice (a ++ b ++ c) 0 i = a ∧ slice (a ++ b ++ c) i j = b ∧ slice (a ++ b ++ c) (i + j) k = c := by
  subst ha hb hc
  refine ⟨by simp [slice], by simp [slice], ?_⟩
  rw [slice, ← List.length_append, List.drop_left, List.take_length]

/-- A lane reads a REPORT that is sealed under its key for its attempt, and the tag verifies. -/
theorem sealedReport_reads {l : Lane} {key body : List Byte} (hkey : l.ans.key = some key) (hlen : key.length = 16)
    (hbody : body.length = 33) (hattempt : l.attempt < 256) :
    let p := sealedReport key l.challenge l.ans.identity l.attempt body
    isReport l.attempt p = true ∧ reportPlain l p = body ∧ reportOk l p = true := by
  intro p
  have hnk : 0 < 4 := by decide
  have hnonce : (beBytes 1 0x5B ++ beBytes 12 l.challenge).length = 13 := by simp [Aes.beBytes_len]
  have hcipher := (Aes.ccmCrypt_length hnk hlen hnonce body).trans hbody
  have htag := Aes.ccmTag_length hnk hlen hnonce (show 8 ≤ 16 by decide)
    (leBytes 8 Config.deviceIdentity ++ leBytes 8 l.ans.identity ++ [0x41, BitVec.ofNat 8 l.attempt]) body
  obtain ⟨hp0, hp2, hp35⟩ := slice_append_append (a := [0x41, BitVec.ofNat 8 l.attempt]) rfl hcipher htag
  have hplain : reportPlain l p = body := by
    rw [reportPlain, hkey]
    exact (congrArg _ hp2).trans (Aes.ccmCrypt_ccmCrypt hnk hlen hnonce body)
  have hlength : p.length = 43 := by
    simp only [p, sealedReport, List.length_append, hcipher, htag]
    rfl
  have hhead : uAt p 0 1 = 0x41 ∧ uAt p 1 1 = l.attempt := by
    refine ⟨rfl, ?_⟩
    show leNat [BitVec.ofNat 8 l.attempt] = l.attempt
    simp [leNat, Nat.mod_eq_of_lt hattempt]
  refine ⟨by simp [isReport, hlength, hhead], hplain, ?_⟩
  rw [reportOk, hplain, hkey, beq_iff_eq, show slice p 0 2 = _ from hp0]
  exact hp35.symm

theorem State.cutLane_eq_none {l : Lane} (habort : l.aborted = false) (hkey : l.noKey = false) (s : State) :
    s.cutLane l = none := by
  simp [State.cutLane, habort, hkey]

/-- A REPORT that passes its checks ends a verified session (R202, R208). -/
theorem doReport_verified {r : Round} {l : Lane} {m : Reception} {p : List Byte} {g : RangeRec} {s : State}
    (hruns : s.laneRuns r l) (hverified : l.verified = true) (hfinal : l.haveFinal = true) (hpoll : l.pollDue = false)
    (hfrom : l.openNs + attemptNs l.attempt + 1080000 ≤ s.now) (hto : s.now ≤ l.openNs + attemptNs l.attempt + 1140000)
    (hreport : isReport l.attempt p = true) (hext : s.radio.extHeld = false) (hok : reportOk l p = true)
    (hg : (s.putCirs m).fillRecord r l (reportPlain l p) (l.record.getD {}) = g)
    (hclock : clockOk g.ra1 g.db2 g.db1 g.ra2 = true)
    (hchecks : (s.putCirs m).reportChecks r l (reportPlain l p) g = none) :
    doReport m (some p) s = (s.putCirs m).endVerified r { l with record := some g } ((s.putCirs m).zonesMet g) := by
  obtain ⟨hcur, -, hactive, -, habort, hkey, -, -⟩ := hruns
  have hwait : s.awaiting true = some (r, l) := by simp [State.awaiting, hcur, hactive, hverified]
  have hstarted : ¬ (!l.haveFinal || l.pollDue || decide (s.now < l.openNs + attemptNs l.attempt + 1080000)) = true := by
    simp [hfinal, hpoll, Nat.not_lt.mpr hfrom]
  have hin : (isReport l.attempt p && decide ((s.putCirs m).now ≤ l.openNs + attemptNs l.attempt + 1140000)) = true := by
    rw [hreport, Bool.true_and, decide_eq_true_eq]; exact hto
  have hfree : ¬ (s.putCirs m).radio.extHeld = true := Bool.eq_false_iff.mp hext
  unfold doReport
  rw [hwait]
  dsimp only
  rw [if_neg hstarted, State.cutLane_eq_none habort hkey]
  dsimp only
  rw [if_pos hin, State.judgeReport, if_neg hfree, if_neg (by simp [hok])]
  dsimp only
  rw [hg, if_neg (by simp [hclock]), hchecks]

/-! ### The refutation of O45: a presence for an armed decision -/

namespace ArmedPresence

/-- A key that may grant. -/
def key : PartRec :=
  { identity := 0x55, kind := 1, role := 0x10, state := .enrolled, zones := 1, releaseOk := true, attach := 0xFF }

/-- A module whose one failure was counted as the epoch began: 600 s later it has decayed (R63). -/
def decaying : PartRec := { identity := 0x77, kind := 2, role := 0x20, state := .enrolled, attach := 0x10, failCount := 1 }

/-- The lane of the key, whose REPORT is awaited: FINAL has been sent (R192). -/
def lane : Lane :=
  { ans := { identity := 0x55, derived := true, key := some (zeros 16) }, openNs := 999994900000, opened := true
    verified := true, attempt := 1, pollDue := false, haveResp := true, haveFinal := true, loop := some {}
    record := some { ra1 := 195000, db2 := 200000 } }

def round : Round := { closed := true, lanes := [lane, { k := 1 }] }

/-- The block 1,000 s into its epoch, its roles running: the decision is armed and consented to, there is no population record
yet, and zone 0 reaches to 1 m. -/
def state : State :=
  { tbu := { ns := 1000000000000 }, mbx := { ready := true }, boot := { phase := .running }
    cfg := { image := [(recZones * 0x10000 + fieldNo 0 1, 1), (recZones * 0x10000 + fieldNo 0 4, 100)] }
    sess := { cur := some round }, radio := { st := .ranging, sampQual := true }, lf := { diagDone := true }
    rel := { st := .armed, consent := true, fbAgree := true }
    parts := { table := [(3, key), (5, decaying)] } }

/-- Equal intervals on both sides: the key stands at the antenna (R195, R198). -/
def body : List Byte := leBytes 4 195000 ++ leBytes 4 200000 ++ zeros 25

def report : List Byte := sealedReport (zeros 16) lane.challenge lane.ans.identity lane.attempt body

/-- The ranging record that the REPORT completes. -/
def record : RangeRec := state.fillRecord round lane body { ra1 := 195000, db2 := 200000 }

theorem report_reads :
    isReport lane.attempt report = true ∧ reportPlain lane report = body ∧ reportOk lane report = true :=
  sealedReport_reads rfl rfl rfl (by decide)

theorem record_filled : (state.putCirs {}).fillRecord round lane body (lane.record.getD {}) = record := by decide +kernel

theorem checks_pass : (state.putCirs {}).reportChecks round lane body record = none := by decide +kernel

theorem lane_runs : state.laneRuns round lane :=
  State.laneRuns_of_two rfl rfl rfl rfl rfl rfl rfl rfl rfl ⟨rfl, rfl⟩

/-- The presence lacks only the population record, so a check begins, whose coil finds the module's count decayed. -/
theorem table_after : (doReport {} (some report) state).parts.table =
    [(3, { key with lastSeenNs := 1000000000000, seenEpoch := 1, updateSeq := 1 }),
     (5, { decaying with failCount := 0, decayRefNs := 600000000000, updateSeq := 1 })] := by
  obtain ⟨hreport, hplain, hok⟩ := report_reads
  have hfill := record_filled
  have hchecks := checks_pass
  rw [← hplain] at hfill hchecks
  rw [doReport_verified lane_runs rfl rfl rfl (by decide) (by decide) hreport rfl hok hfill (by decide +kernel) hchecks]
  decide +kernel

end ArmedPresence

open ArmedPresence in
/-- Refutes O45: where an armed decision wants only the population record, the presence begins a population check (R128), and
the check writes the record of a module whose failure has decayed (R63). The statement has the exchange write the key's record
alone. -/
theorem not_rangingExchangesDecide : ¬ Obligations.RangingExchangesDecide := by
  unfold Obligations.RangingExchangesDecide
  rintro ⟨-, -, -, -, -, hreport, -⟩
  obtain ⟨hisReport, hplain, hok⟩ := report_reads
  obtain ⟨-, hverified, -⟩ := hreport {} round lane report _ 3 key state lane_runs rfl rfl rfl (by decide) (by decide) hisReport
    rfl ⟨rfl, rfl, rfl, rfl⟩ rfl (Round.othersRun_of_two rfl rfl) rfl rfl rfl (by decide) rfl (by decide)
  rw [hplain] at hverified
  obtain ⟨t, hexec, -, -, -, htable⟩ := hverified record hok rfl (by decide +kernel) (by decide +kernel)
  have ht : t = doReport {} (some report) state := (Host.Outcome.next.inj hexec).symm
  rw [ht, table_after] at htable
  exact absurd htable (by decide +kernel)

end Sys2Proof.Machine
end

section
/-!
PROOF. The permission latch (R228, R229): no operation but the notice's end, the line's return after VRES ran out and the power-on
reset clears it. Each operation that may touch the decision has a lemma that keeps the latch set; every other operation is passed
over by its frame (`State.Latched.via`). Settles O47.
-/
set_option Elab.async false

namespace Sys2Proof.Machine

/-! ### A latch that is set -/

/-- A frame that leaves the decision's part out keeps the decision. -/
theorem Moves.rel {ps : List Part} {s t : State} (m : Moves ps s t) (hp : Part.rel ∉ ps) : t.rel = s.rel := m.1 .rel hp

/-- The permission latch is set. -/
def State.Latched (s : State) : Prop := s.rel.latch = true

theorem State.Latched.ite {c : Prop} [Decidable c] {x y : State} (h : x.Latched) (k : y.Latched) :
    (if c then x else y).Latched := by
  split
  · exact h
  · exact k

theorem State.Latched.foldl {α : Type} {xs : List α} {f : State → α → State} {s : State} (h : s.Latched)
    (k : ∀ u a, u.Latched → (f u a).Latched) : (xs.foldl f s).Latched := by
  induction xs generalizing s with
  | nil => exact h
  | cons a xs ih => exact ih (k s a h)

section
variable {s : State} (h : s.Latched)
include h

/-- What a frame leaves the decision out of keeps the latch. -/
theorem State.Latched.via {ps : List Part} {t : State} (m : Moves ps s t) (hp : Part.rel ∉ ps := by decide) :
    t.Latched := by
  unfold Latched
  rw [m.rel hp]
  exact h

/-! ### Updates of one part -/

theorem State.Latched.modAlarm {m : Nat} {f : Alarm → Alarm} : (s.modAlarm m f).Latched := h
theorem State.Latched.modBoot {f : Boot → Boot} : (s.modBoot f).Latched := h
theorem State.Latched.modCap {n : Nat} {f : CapFifo → CapFifo} : (s.modCap n f).Latched := h
theorem State.Latched.modCfg {f : CfgStore → CfgStore} : (s.modCfg f).Latched := h
theorem State.Latched.modChan {c : Nat} {f : Chan → Chan} : (s.modChan c f).Latched := h
theorem State.Latched.modCheck {f : PopCheck → PopCheck} : (s.modCheck f).Latched := h
theorem State.Latched.modCoil {i : Nat} {f : Coil → Coil} : (s.modCoil i f).Latched := h
theorem State.Latched.modCores {f : Cores → Cores} : (s.modCores f).Latched := h
theorem State.Latched.modCrypt {f : Crypt → Crypt} : (s.modCrypt f).Latched := h
theorem State.Latched.modEvc {f : Evc → Evc} : (s.modEvc f).Latched := h
theorem State.Latched.modFab {f : Fabric → Fabric} : (s.modFab f).Latched := h
theorem State.Latched.modFeed {k : Nat} {f : Feed → Feed} : (s.modFeed k f).Latched := h
theorem State.Latched.modFwBank {b : Nat} {f : FwBank → FwBank} : (s.modFwBank b f).Latched := h
theorem State.Latched.modJtag {f : Jtag → Jtag} : (s.modJtag f).Latched := h
theorem State.Latched.modLane {k : Nat} {f : Lane → Lane} : (s.modLane k f).Latched := h
theorem State.Latched.modLedger {f : Ledger → Ledger} : (s.modLedger f).Latched := h
theorem State.Latched.modLf {f : Lf → Lf} : (s.modLf f).Latched := h
theorem State.Latched.modLfChan {c : Nat} {f : LfChan → LfChan} : (s.modLfChan c f).Latched := h
theorem State.Latched.modMbx {f : Mbx → Mbx} : (s.modMbx f).Latched := h
theorem State.Latched.modMet {f : Met → Met} : (s.modMet f).Latched := h
theorem State.Latched.modMetonBank {b : Nat} {f : MetonBank → MetonBank} : (s.modMetonBank b f).Latched := h
theorem State.Latched.modNet {f : Net → Net} : (s.modNet f).Latched := h
theorem State.Latched.modPad {f : Pad → Pad} : (s.modPad f).Latched := h
theorem State.Latched.modPair {p : Nat} {f : Pair → Pair} : (s.modPair p f).Latched := h
theorem State.Latched.modParts {f : Parts → Parts} : (s.modParts f).Latched := h
theorem State.Latched.modPop {f : Pop → Pop} : (s.modPop f).Latched := h
theorem State.Latched.modPower {f : Power → Power} : (s.modPower f).Latched := h
theorem State.Latched.modPsc {f : Psc → Psc} : (s.modPsc f).Latched := h
theorem State.Latched.modRadio {f : Radio → Radio} : (s.modRadio f).Latched := h
theorem State.Latched.modSess {f : Sess → Sess} : (s.modSess f).Latched := h
theorem State.Latched.modShadow {r : Requester} {f : Shadow → Shadow} : (s.modShadow r f).Latched := h
theorem State.Latched.modStat {port : Nat} {f : PortStat → PortStat} : (s.modStat port f).Latched := h
theorem State.Latched.modTamper {f : Tamper → Tamper} : (s.modTamper f).Latched := h
theorem State.Latched.modTbu {f : Tbu → Tbu} : (s.modTbu f).Latched := h
theorem State.Latched.modTimer {n : Nat} {f : Timer → Timer} : (s.modTimer n f).Latched := h
theorem State.Latched.modTmr {f : Tmr → Tmr} : (s.modTmr f).Latched := h

theorem State.Latched.modRel {f : Rel → Rel} (hf : ∀ r : Rel, (f r).latch = r.latch := by exact fun _ => rfl) :
    (s.modRel f).Latched := (hf s.rel).trans h

/-! ### The sleep controller's wakes, and the events that make one -/

theorem State.Latched.restartHalves : s.restartHalves.Latched := by
  unfold State.restartHalves
  exact h.modRel

theorem State.Latched.rollBack {veto : Nat} : (s.rollBack veto).Latched := by
  unfold State.rollBack
  extract_lets s0 s1 s2 s3
  have hs0 : s0.Latched := .foldl h fun _ _ h => h.via (restoreDomain_moves ..)
  have hs2 : s2.Latched := (Latched.ite hs0.restartHalves hs0).modPsc
  exact ((Latched.ite hs2.modLedger hs2).via (raise_moves ..)).via (postRolledBack_moves ..)

theorem State.Latched.wakeSource {code : Nat} : (s.wakeSource code).Latched := by
  unfold State.wakeSource
  refine .ite h ?_
  split
  · exact .ite h.rollBack h
  · exact .ite (h.via (startWake_moves ..)) h

theorem State.Latched.slowCrystalFailed {edgeAge : Nat} : (doSlowCrystalFailed edgeAge s).Latched := by
  unfold doSlowCrystalFailed
  refine .ite h ?_
  extract_lets s1 s2
  have hs1 : s1.Latched := h.modTbu.via (tbuEvt_moves ..)
  have hs2 : s2.Latched := .ite ((hs1.via (changeSource_moves ..)).via (catchUp_moves ..)) hs1
  exact hs2.wakeSource

theorem State.Latched.deliverTo {g t : Nat} {b : Batch} : (s.deliverTo g t b).Latched := by
  unfold State.deliverTo
  exact .ite h.modEvc.modEvc.wakeSource (.ite (h.modEvc.modEvc.modEvc.via (countSent_moves ..)) h.modEvc.modEvc)

theorem State.Latched.delivery : (doDelivery s).Latched := by
  unfold doDelivery
  refine .ite h ?_
  split
  · split
    · exact h.deliverTo
    · exact h
  · exact h

theorem State.Latched.deliverGroup {asleep : BitVec 6} {g : Nat} : (s.deliverGroup asleep g).Latched := by
  unfold State.deliverGroup
  refine .foldl h fun _ _ h => ?_
  split
  · exact h.deliverTo
  · exact h

theorem State.Latched.write_hostSleep {w : Word} : (writeHostSleep w s).Latched := by
  unfold writeHostSleep
  extract_lets new fresh still gs events s1 s2
  have hs1 : s1.Latched := by
    refine .foldl h fun _ _ h => ?_
    split
    · exact h.modEvc.via (fallDueWith_moves ..)
    · exact h
  have hs2 : s2.Latched := .foldl hs1 fun _ _ h => h.deliverGroup
  exact .ite h.modPsc hs2.modEvc.modPsc

/-! ### LF requests and population checks -/

theorem State.Latched.putRequest {b : Burst} : (s.putRequest b).Latched := by
  unfold State.putRequest
  exact h.modLf.wakeSource

theorem State.Latched.wakeRequest {q : Burst} : (s.wakeRequest q).Latched := by
  unfold State.wakeRequest
  exact .ite h.modLf h.putRequest

theorem State.Latched.requestWake {k : Nat} {mbs : List Nat} {addressed : Option Nat} :
    (s.requestWake k mbs addressed).Latched := by
  unfold State.requestWake
  exact h.wakeRequest

theorem State.Latched.requestMeasure {c : Nat} : (s.requestMeasure c).Latched := by
  unfold State.requestMeasure
  exact .ite h h.putRequest

theorem State.Latched.requestDiagnostics : s.requestDiagnostics.Latched := by
  unfold State.requestDiagnostics
  exact .foldl h.modLf fun _ _ h => h.requestMeasure

theorem State.Latched.requestCoil {i phase : Nat} : (s.requestCoil i phase).Latched := by
  unfold State.requestCoil
  exact h.putRequest

theorem State.Latched.startCoil {phase i : Nat} : (s.startCoil phase i).Latched := by
  unfold State.startCoil
  extract_lets u s1
  have hu : u.Latched := (h.via (evalCoil_moves ..)).modCheck
  have settled : ∀ code, (u.setEntry i code none).Latched := fun _ => hu.via (setEntry_moves ..)
  have hs1 : s1.Latched := .ite hu (hu.via (retryCoil_moves ..))
  exact .ite (settled _) (.ite (settled _) (.ite (settled _) hs1.modCoil.requestCoil))

theorem State.Latched.startPhase {phase : Nat} : (s.startPhase phase).Latched := by
  unfold State.startPhase
  split
  · exact .foldl h.modCheck fun _ _ h => h.startCoil
  · exact h

theorem State.Latched.nextPhase {n : Nat} : (s.nextPhase n).1.Latched := by
  induction n generalizing s with
  | zero => exact h
  | succ n ih =>
    unfold State.nextPhase
    split
    · exact h
    · split
      · exact h
      · split
        · exact ih h.startPhase
        · split
          · exact ih h.modCheck.startPhase
          · exact h

theorem State.Latched.beginCheck {mbs : List Nat} : (State.beginCheck mbs s).1.Latched := by
  unfold State.beginCheck
  exact h.modPop.startPhase.nextPhase

theorem State.Latched.requestEnrolCoil : s.requestEnrolCoil.Latched := by
  unfold State.requestEnrolCoil
  split
  next e _ =>
    have hq : (s.enrolLocked e).2.Latched := h.via (enrolLocked_moves ..)
    exact .ite (.ite (hq.via (endEnrol_moves ..)) hq.modParts.putRequest) h
  · exact h

theorem State.Latched.finishCheck : s.finishCheck.Latched := by
  unfold State.finishCheck
  split
  · extract_lets r changed s1 s2 s3 status
    have hs1 : s1.Latched := .foldl h fun _ _ h => h.via (updateModule_moves ..)
    have hs2 : s2.Latched := hs1.modPop.via (raise_moves ..)
    have hs3 : s3.Latched := .ite (hs2.via (popEntry_moves ..)) hs2
    exact (Latched.foldl hs3 fun _ _ h => h.via (conclude_moves ..)).requestEnrolCoil
  · exact h

theorem State.Latched.settleCheck {b : Bool} : (State.settleCheck (s, b)).Latched := by
  have begun : ∀ q : State × Bool, q.1.Latched →
      (if q.2 then q.1.finishCheck else q.1).considerAll.Latched := fun q hq =>
    (Latched.ite hq.finishCheck hq).via (considerAll_moves ..)
  unfold State.settleCheck
  refine .ite (.ite (begun _ h.finishCheck.beginCheck) (h.finishCheck.via (considerAll_moves ..))) ?_
  exact h.via (considerAll_moves ..)

theorem State.Latched.requestCheck {mbs : List Nat} : (s.requestCheck mbs).Latched := by
  unfold State.requestCheck
  exact .ite h.modPop h.beginCheck.settleCheck

theorem State.Latched.serveWanted : s.serveWanted.Latched := by
  unfold State.serveWanted
  exact .ite h.beginCheck.settleCheck h

theorem State.Latched.populationPhaseEnd : (doPopulationPhaseEnd s).Latched := by
  unfold doPopulationPhaseEnd
  exact .ite h.nextPhase.settleCheck h

theorem State.Latched.populationCheckDue : (doPopulationCheckDue s).Latched := by
  unfold doPopulationCheckDue
  exact .ite h.requestCheck h

theorem State.Latched.lockoutEnd : (doLockoutEnd s).Latched := by
  unfold doLockoutEnd
  split
  · exact .ite h.requestCheck h
  · exact h

/-! ### Frames, feeds and the radio's start -/

theorem State.Latched.frameDiscarded {port : Nat} : (doFrameDiscarded port s).Latched := by
  have dropped : ((s.rxFrame port).dropFrame port).Latched := (h.via (rxFrame_moves ..)).via (dropFrame_moves ..)
  exact .ite h (.ite dropped.wakeSource dropped)

theorem State.Latched.feedChange {k : Nat} {on : Bool} : (s.feedChange k on).Latched := by
  unfold State.feedChange
  extract_lets cls s1
  have hs1 : s1.Latched := ((h.modFeed.via (raise_moves ..)).via (installEntry_moves ..)).via (rebudget_moves ..)
  exact .ite hs1.wakeSource hs1

theorem State.Latched.feedDeliveringChange {k : Nat} {on : Bool} : (doFeedDeliveringChange k on s).Latched := by
  unfold doFeedDeliveringChange
  split
  · exact .ite h h.feedChange
  · exact h

theorem State.Latched.feedOv {k : Nat} {on : Bool} : (doFeedOv k on s).Latched := by
  unfold doFeedOv
  split
  · have hs2 {c : Prop} [Decidable c] {f : Feed → Feed} :
        (if c then (s.modFeed k f).installEntry else s.modFeed k f).Latched :=
      .ite (h.modFeed.via (installEntry_moves ..)) h.modFeed
    exact .ite hs2.feedChange hs2
  · exact h

theorem State.Latched.seqUp : s.seqUp.Latched := by
  unfold State.seqUp
  refine .ite ?_ h
  extract_lets s1
  have hs1 : s1.Latched := ((h.via (restoreDomain_moves ..)).via (restoreDomain_moves ..)).wakeSource
  exact .ite hs1 (hs1.modTbu.via (startSettle_moves ..))

/-! ### The release decision: it leaves RELEASED, and never clears the latch -/

theorem State.Latched.addCause {b : Nat} : (s.addCause b).Latched := by
  unfold State.addCause
  exact h.modRel

theorem State.Latched.dropCause {b : Nat} : (s.dropCause b).Latched := by
  unfold State.dropCause
  exact h.modRel

omit h in
/-- The word that sets the latch leaves it set. -/
theorem State.Latched.latchPair : (s.latchPair true).Latched := rfl

theorem State.Latched.moveTo {d : Decision} : (s.moveTo d).Latched := by
  unfold State.moveTo
  extract_lets old s1 s2 s3
  have hs3 : s3.Latched := ((Latched.ite h.dropCause h).modRel.via (ledgerAdd_moves ..)).via (raise_moves ..)
  exact .ite (hs3.via (raise_moves ..)) hs3

theorem State.Latched.applyMode : s.applyMode.Latched := by
  unfold State.applyMode
  exact .ite h.modRel h

omit h in
/-- A grant sets the latch (R228). -/
theorem State.Latched.grantWith {p : Presence} : (s.grantWith p).Latched := by
  unfold State.grantWith
  exact .latchPair

theorem State.Latched.tryGrant : s.tryGrant.Latched := by
  unfold State.tryGrant
  split
  · exact .ite h (.ite .grantWith (.ite h.requestCheck h))
  · exact h

theorem State.Latched.ownCauses : s.ownCauses.Latched := by
  unfold State.ownCauses
  exact .ite h (.ite (Latched.ite h.addCause h).addCause (.ite h.addCause h))

theorem State.Latched.decideOnce {at226 : Bool} : (s.decideOnce at226).Latched := by
  unfold State.decideOnce
  extract_lets rule pending
  split
  · exact .ite h.moveTo h
  · exact .ite h.moveTo h.tryGrant
  · exact .ite h.moveTo (.ite h.moveTo h)
  · exact .ite h (.ite h.moveTo h.moveTo)
  · exact .ite h (.ite h.moveTo (.ite h.moveTo h))

theorem State.Latched.evalWith {at226 : Bool} : (s.evalWith at226).Latched := by
  unfold State.evalWith
  exact .ite h h.applyMode.ownCauses.decideOnce.decideOnce.decideOnce.decideOnce

theorem State.Latched.evalDecision : s.evalDecision.Latched := by
  unfold State.evalDecision
  exact h.evalWith

theorem State.Latched.evalRule : s.evalRule.Latched := by
  unfold State.evalRule
  exact .ite h.evalWith.wakeSource h.evalWith

theorem State.Latched.revoked : s.revoked.Latched := by
  unfold State.revoked
  exact h.moveTo.modRel.applyMode

/-- A decision that resumes with the latch set keeps it: it is, or becomes, HELD (R221). -/
theorem State.Latched.resumeDecision : s.resumeDecision.Latched := by
  unfold State.resumeDecision
  extract_lets u s1
  have hu : u.Latched := by
    unfold u
    split
    · exact (h.modRel.via (ledgerAdd_moves ..)).via (raise_moves ..)
    · exact h
  have hs1 : s1.Latched := hu.dropCause
  clear_value s1
  rw [if_pos (show s1.rel.latch = true from hs1)]
  exact (Latched.ite hs1 hs1.moveTo).modRel

theorem State.Latched.sstlLevel {b level : Bool} : (s.sstlLevel b level).Latched := by
  unfold State.sstlLevel
  extract_lets s1
  have hs1 : s1.Latched := h.modRel (by intro r; cases b <;> rfl)
  exact .ite (hs1.via (raise_moves ..)) hs1

theorem State.Latched.sstlDisagree : (doSstlDisagree s).Latched := by
  unfold doSstlDisagree
  exact .ite (h.modRel.via (raise_moves ..)) h

theorem State.Latched.feedbackChange {cond : Nat} {on : Bool} : (s.feedbackChange cond on).Latched := by
  unfold State.feedbackChange
  exact .ite h.modRel (h.via (feedbackNote_moves ..))

theorem State.Latched.feedbackWake : s.feedbackWake.Latched := by
  unfold State.feedbackWake
  exact .foldl h.modRel fun _ _ h => h.via (feedbackNote_moves ..)

theorem State.Latched.setFeedback {high low wave : Bool} : (s.setFeedback high low wave).Latched := by
  unfold State.setFeedback
  extract_lets s1 s2 s3
  have hs2 : s2.Latched := .ite h.modRel h.modRel.feedbackChange
  have hs3 : s3.Latched := .ite hs2 hs2.feedbackChange
  exact .ite hs3 hs3.feedbackChange

theorem State.Latched.readbackWindowEnd {fbS : Option Bool} {dEdge dRule : Bool} :
    (doReadbackWindowEnd fbS dEdge dRule s).Latched := by
  unfold doReadbackWindowEnd
  refine .ite h ?_
  extract_lets r agree s1 s2
  have hs2 : s2.Latched := (Latched.ite h.setFeedback (.ite h.setFeedback h.setFeedback)).modRel
  exact (Latched.ite hs2.revoked hs2).evalDecision

theorem State.Latched.idleExpiry : (doIdleExpiry s).Latched := by
  unfold doIdleExpiry
  exact .ite h.addCause h

theorem State.Latched.permissionOscillatorTrim {ppm : Int} : (doPermissionOscillatorTrim ppm s).Latched := by
  unfold doPermissionOscillatorTrim
  exact .ite h.modRel h

theorem State.Latched.graceExpiry : (doGraceExpiry s).Latched := by
  unfold doGraceExpiry
  exact h.ownCauses

/-! ### Sessions, and the radio's ends that drive them -/

theorem State.Latched.testChain {r : Round} : (s.testChain r).Latched := by
  unfold State.testChain
  split
  · extract_lets t1 s1
    have hs1 : s1.Latched := h.modSess.via (evalIdentity_moves ..)
    exact .ite (.ite (hs1.via (testEnd_moves ..)) (.ite (hs1.via (testEnd_moves ..)) hs1.requestWake)) h
  · exact h

theorem State.Latched.endChain {r : Round} : (s.endChain r).Latched := by
  unfold State.endChain
  exact (Latched.foldl h fun _ _ h => h.via (conclude_moves ..)).testChain

theorem State.Latched.endRound {r : Round} : (s.endRound r).Latched := by
  unfold State.endRound
  extract_lets s1 s2
  have hs1 : s1.Latched := h.modSess.via (raise_moves ..)
  have hs2 : s2.Latched := .ite hs1.wakeRequest hs1.endChain
  exact (hs2.via (considerAll_moves ..)).via (serveRecal_moves ..)

theorem State.Latched.settleRound : s.settleRound.Latched := by
  unfold State.settleRound
  split
  · exact .ite h.endRound h
  · exact h

theorem State.Latched.endLane {l : Lane} {outcome : Nat} : (s.endLane l outcome).Latched := by
  unfold State.endLane
  split
  · exact ((Latched.ite (h.via (countFailure_moves ..)) h).via (issue_moves ..)).settleRound
  · exact h

theorem State.Latched.settleLanes : s.settleLanes.Latched := by
  unfold State.settleLanes
  split
  · exact .foldl h fun _ _ h => h.endLane
  · exact h

theorem State.Latched.cutLane {l : Lane} {t : State} (e : s.cutLane l = some t) : t.Latched := by
  have ended : ∀ k, ((s.endLane l k).seqIdle s.now).Latched := fun _ => h.endLane.via (seqIdle_moves ..)
  unfold State.cutLane at e
  split at e
  · cases e; exact ended 7
  · split at e
    · cases e; exact ended 10
    · cases e

theorem State.Latched.responseWindowClose : (doResponseWindowClose s).Latched := by
  unfold doResponseWindowClose
  split
  · exact .ite h (h.via (admitLanes_moves ..)).settleRound
  · exact h

theorem State.Latched.openLane {r : Round} {l : Lane} : (s.openLane r l).Latched := by
  unfold State.openLane
  exact ((h.modLane.modRadio.via (spendC_moves ..)).via (seqSendUhf_moves ..)).settleLanes

theorem State.Latched.laneOpen : (doLaneOpen s).Latched := by
  unfold doLaneOpen
  split
  · split
    · exact .ite h.endLane (.ite h.endLane h.openLane)
    · exact h
  · exact h

theorem State.Latched.startRange {r : Round} {l : Lane} : (s.startRange r l).Latched := by
  unfold State.startRange
  exact (h.modLane.via (seqRange_moves ..)).settleLanes

theorem State.Latched.responseFrame {frame : List Byte} : (doResponseFrame frame s).Latched := by
  unfold doResponseFrame
  split
  · split
    next e => exact h.cutLane e
    · split
      · exact .ite h (.ite h.startRange (h.endLane.via (seqIdle_moves ..)))
      · exact h
  · exact h

theorem State.Latched.tagDeadline : (doTagDeadline s).Latched := by
  unfold doTagDeadline
  split
  · split
    next e => exact h.cutLane e
    · exact .ite (h.endLane.via (seqIdle_moves ..)) h
  · exact h

theorem State.Latched.endExchange {l : Lane} {outcome : Nat} : (s.endExchange l outcome).Latched := by
  unfold State.endExchange
  refine .ite ((h.endLane.via (endRanging_moves ..)).via (serveRecal_moves ..)).settleLanes ?_
  extract_lets s1
  have hs1 : s1.Latched := h.endLane
  exact ((Latched.ite (hs1.via (seqIdle_moves ..)) (hs1.via (endRanging_moves ..))).via (serveRecal_moves ..)).settleLanes

theorem State.Latched.loseAttempt {l : Lane} : (s.loseAttempt l).Latched := by
  unfold State.loseAttempt
  exact .ite (h.modLane.modRadio.via (rangeAnt_moves ..)) h.endExchange

theorem State.Latched.poll : (doPoll s).Latched := by
  unfold doPoll
  split
  · split
    next e => exact h.cutLane e
    · exact .ite (h.via (sendPoll_moves ..)) h
  · exact h

theorem State.Latched.rangingResponse {m : Reception} : (doRangingResponse m s).Latched := by
  unfold doRangingResponse
  split
  · refine .ite h ?_
    have hm : (s.putCirs m).Latched := h.via (putCirs_moves ..)
    dsimp only
    split
    next e => exact hm.cutLane e
    · exact .ite hm.loseAttempt (.ite hm.endExchange (hm.via (takeResponse_moves ..)))
  · exact h

theorem State.Latched.final : (doFinal s).Latched := by
  unfold doFinal
  split
  · split
    next e => exact h.cutLane e
    · exact .ite (h.modLane.modRadio.via (rangeAnt_moves ..)) h
  · exact h

theorem State.Latched.uwbReceiveWindowExpiry : (doUwbReceiveWindowExpiry s).Latched := by
  unfold doUwbReceiveWindowExpiry
  split
  · split
    next e => exact h.cutLane e
    · exact .ite h.loseAttempt h
  · exact h

theorem State.Latched.present {r : Round} {l : Lane} {p : PartRec} {zones : BitVec 16} :
    (s.present r l p zones).Latched := by
  unfold State.present
  extract_lets q used s1 s2
  have hs1 : s1.Latched := h.modRel.via (raise_moves ..)
  have hs2 : s2.Latched := hs1.via (serviceSeen_moves ..)
  exact .ite (.ite (hs2.via (openWindow_moves ..)) hs2) hs1

theorem State.Latched.verifiedOutcome {r : Round} {l : Lane} {zones : BitVec 16} :
    (State.verifiedOutcome r l zones s).2.Latched := by
  have verified : (s.verifiedExchange l.ans.identity).Latched := h.via (verifiedExchange_moves ..)
  have enrolled : (s.enrolPartner l.ans.identity (s.enrolDefaults 0x10 0xFF)).windowUse.Latched :=
    (h.via (enrolPartner_moves ..)).via (windowUse_moves ..)
  unfold State.verifiedOutcome
  dsimp only
  split
  · split
    · exact h.via (enrolVerified_moves ..)
    · exact verified
  · split
    · split
      · split
        · exact verified.present
        · exact verified
      · split
        · exact (h.via (absentSeen_moves ..)).via (verifiedExchange_moves ..)
        · split
          · exact enrolled
          · exact verified
    · split
      · exact enrolled
      · exact h

theorem State.Latched.endVerified {r : Round} {l : Lane} {zones : BitVec 16} : (s.endVerified r l zones).Latched := by
  unfold State.endVerified
  extract_lets q
  have hq : q.2.Latched := h.verifiedOutcome
  refine (Latched.settleLanes ?_).evalDecision
  exact ((hq.via (issue_moves ..)).settleRound.via (endRanging_moves ..)).via (serveRecal_moves ..)

theorem State.Latched.judgeReport {r : Round} {l : Lane} {p : List Byte} : (s.judgeReport r l p).Latched := by
  unfold State.judgeReport
  extract_lets g0
  refine .ite h.endExchange (.ite h.endExchange ?_)
  extract_lets
  refine .ite h.loseAttempt ?_
  split
  · exact h.endExchange
  · exact h.endVerified

theorem State.Latched.report {m : Reception} {payload : Option (List Byte)} : (doReport m payload s).Latched := by
  unfold doReport
  split
  · refine .ite h ?_
    have hm : (s.putCirs m).Latched := h.via (putCirs_moves ..)
    dsimp only
    split
    next e => exact hm.cutLane e
    · split
      · exact .ite hm.judgeReport hm.loseAttempt
      · exact hm.loseAttempt
  · exact h

theorem State.Latched.startEnrol {e : Enrolment} : (s.startEnrol e).Latched := by
  unfold State.startEnrol
  extract_lets s1
  split
  · split
    · exact h.modParts.requestWake.via (considerAll_moves ..)
    · exact h.modParts
  · exact h.modParts.requestEnrolCoil.via (considerAll_moves ..)
  · exact h.modParts.via (enrolNode_moves ..)
  · exact h.modParts.via (enrolVerified_moves ..)

theorem State.Latched.radioDone : s.radioDone.Latched := by
  unfold State.radioDone
  exact .foldl (h.settleLanes.via (captureRun_moves ..)).modRadio fun _ _ h => h.via (conclude_moves ..)

theorem State.Latched.upRetry : (doUpRetry s).Latched := by
  unfold doUpRetry
  split
  · exact .ite h.modRadio.seqUp.radioDone h
  · exact h

theorem State.Latched.uhfFrameReceived {frame : List Byte} : (doUhfFrameReceived frame s).Latched := by
  unfold doUhfFrameReceived
  refine .ite (via (s := match uhfPayload frame with
    | some p => s.modRadio fun r => { r with rxUhf := some p }
    | none => s) ?_ (settleDown_moves ..)).radioDone h
  split
  · exact h.modRadio
  · exact h

theorem State.Latched.uwbFrameReceived {m : Reception} : (doUwbFrameReceived m s).Latched := by
  unfold doUwbFrameReceived
  exact .ite ((h.via (putCirs_moves ..)).via (settleDown_moves ..)).radioDone h

theorem State.Latched.backgroundSlice {kind dA dB : Nat} {temp : Int} {rx : Bool} :
    (doBackgroundSlice kind dA dB temp rx s).Latched := by
  unfold doBackgroundSlice
  exact .ite (h.via (runSlice_moves ..)).radioDone h

theorem State.Latched.forcedSlice {kind dA dB : Nat} {temp : Int} {rx : Bool} :
    (doForcedSlice kind dA dB temp rx s).Latched := by
  unfold doForcedSlice
  exact .ite ((h.via (runSlice_moves ..)).modRadio.via (raise_moves ..)).radioDone h

theorem State.Latched.recalibrationDue {temp : Int} : (doRecalibrationDue temp s).Latched := by
  unfold doRecalibrationDue
  exact .ite ((h.modRadio.modRadio.via (raise_moves ..)).via (serveRecal_moves ..)).radioDone h.modRadio

theorem State.Latched.transmitGateDeadline : (doTransmitGateDeadline s).Latched := by
  unfold doTransmitGateDeadline
  extract_lets late s1
  have hs1 : s1.Latched := h.via (failHeld_moves ..)
  refine (Latched.ite ?_ hs1).radioDone
  exact (((hs1.via (unranged_moves ..)).via (markDead_moves ..)).via (seqDone_moves ..)).via (endRanging_moves ..)

theorem State.Latched.rfTestEnd : (doRfTestEnd s).Latched := by
  unfold doRfTestEnd
  split
  · refine .ite ?_ h
    extract_lets s1 s2
    have hs1 : s1.Latched := (h.via (conclude_moves ..)).modRadio.via (raise_moves ..)
    have hs2 : s2.Latched := .ite (hs1.via (uhfOver_moves ..)) (.ite (hs1.via (uwbOver_moves ..)) hs1)
    exact hs2.radioDone.via (considerAll_moves ..)
  · exact h

/-! ### Metering and credits -/

theorem State.Latched.closeMean : s.closeMean.Latched := by
  unfold State.closeMean
  extract_lets s1 low s2 s3
  have hs2 : s2.Latched := ((h.modMet.via (clearOverloads_moves ..)).via (judgeDisagree_moves ..)).modRel
  exact (Latched.ite hs2.modMet hs2).modMet

theorem State.Latched.meanEnd : (doMeanEnd s).Latched := by
  unfold doMeanEnd
  exact .ite h h.closeMean.evalRule

theorem State.Latched.sstlEdge {b level : Bool} : (doSstlEdge b level s).Latched := by
  unfold doSstlEdge
  exact (Latched.ite h h.closeMean).sstlLevel.evalRule

theorem State.Latched.meterSample {m0 m1 m2 m3 : BitVec 256} : (doMeterSample m0 m1 m2 m3 s).Latched := by
  unfold doMeterSample
  refine .ite h ?_
  extract_lets s0 q ys s1 s2
  have hs2 : s2.Latched := by
    refine .foldl h.meanEnd.modMet fun _ _ h => ?_
    split
    · exact .ite (h.via (setOverload_moves ..)) h
    · exact h
  exact .ite hs2 ((hs2.via (resumeMeter_moves ..)).via (throughDelay_moves ..)).ownCauses

theorem State.Latched.applyCredit {p : List Byte} : (s.applyCredit p).Latched := by
  unfold State.applyCredit
  extract_lets lessor amount s1 s2 s3
  have hs1 : s1.Latched := h.via (setBalance_moves ..)
  have hs2 : s2.Latched := hs1.modParts.modMet
  have hs3 : s3.Latched := ((hs2.via (ledgerAdd_moves ..)).via (raise_moves ..)).via (verifiedExchange_moves ..)
  exact (Latched.ite hs3.dropCause hs3).evalDecision

/-! ### Power states -/

theorem State.Latched.beginEntry {target : PowerState} {keep : Nat} : (s.beginEntry target keep).Latched := by
  unfold State.beginEntry
  extract_lets s1
  have hs1 : s1.Latched := h.modPsc.via (sleepDown_moves ..)
  split
  · exact hs1.rollBack
  · exact hs1

theorem State.Latched.sleepCommit : (doSleepCommit s).Latched := by
  unfold doSleepCommit
  split
  · exact h
  · refine .ite h ?_
    split
    · exact h.rollBack
    · exact .ite (h.via (beginCommit_moves ..)) h.modPsc

theorem State.Latched.veto {d : Nat} : (doVeto d s).Latched := by
  unfold doVeto
  exact .ite h.rollBack h

theorem State.Latched.domainGated : (doDomainGated s).Latched := by
  unfold doDomainGated
  split
  · refine .ite h ?_
    split
    · exact h.rollBack
    · have hg {d : Nat} : ((s.stopDomain d).gateDomain d).Latched := (h.via (stopDomain_moves ..)).via (gateDomain_moves ..)
      exact .ite (hg.via (reachState_moves ..)) hg
  · exact h

theorem State.Latched.resumeRoles : s.resumeRoles.Latched := by
  unfold State.resumeRoles
  exact (h.via (releaseHeld_moves ..)).modLedger.feedbackWake.restartHalves.evalDecision.via (considerAll_moves ..)

theorem State.Latched.wakeComplete : (doWakeComplete s).Latched := by
  unfold doWakeComplete
  extract_lets left s1 s2
  have hs1 : s1.Latched := (h.via (restoreAll_moves ..)).modNet.modPsc
  refine .ite h ?_
  exact ((Latched.ite hs1 hs1.resumeRoles).serveWanted.via (raise_moves ..)).via (postSlept_moves ..)

theorem State.Latched.wakeVerified {code reason : Nat} : (s.wakeVerified code reason).Latched := by
  unfold State.wakeVerified
  exact h.modPsc.wakeSource

theorem State.Latched.ethernetWakeFrame {port : Nat} {bs : List Byte} : (doEthernetWakeFrame port bs s).Latched := by
  have verified : (s.rxFrame port).verifyWake.Latched := (h.via (rxFrame_moves ..)).via (verifyWake_moves ..)
  exact .ite h (.ite h.frameDiscarded (.ite verified.wakeVerified verified.modPsc))

theorem State.Latched.vresMeasurement {mv : Nat} : (doVresMeasurement mv s).Latched := by
  unfold doVresMeasurement
  exact .ite h.modPsc.modPsc (.ite (h.modPsc.modPsc.via (raise_moves ..)).wakeSource h.modPsc)

theorem State.Latched.write_psc {off : Nat} {w : Word} : (writePsc off w s).Latched := by
  unfold writePsc
  exact .ite h.write_hostSleep (.ite h.modPsc (.ite h.modPsc h))

theorem State.Latched.write_frz {w : Word} : (writeFrz w s).Latched := by
  unfold writeFrz
  exact .ite (Latched.ite h.modPad.seqUp h.modPad).restartHalves (.ite h.modPad.seqUp h.modPad)

theorem State.Latched.write_pad {off : Nat} {w : Word} : (writePad off w s).Latched := by
  unfold writePad
  extract_lets half
  refine .ite h.write_frz ?_
  exact .ite h.modPad (.ite h.modPad (.ite h.modPad (.ite h.modPad (.ite h.modPad (.ite h.modPad h)))))

theorem State.Latched.gpioEdge {pin : Nat} {rising : Bool} : (doGpioEdge pin rising s).Latched := by
  have seen {f : Pad → Pad} {g n : Nat} : ((s.modPad f).raise g n).Latched := h.modPad.via (raise_moves ..)
  exact .ite h (.ite h.modPad (.ite seen.wakeSource seen))

/-! ### LF bursts, trips and diagnostics -/

theorem State.Latched.burstRequest {cls what : Nat} : (doBurstRequest cls what s).Latched := by
  unfold doBurstRequest
  refine .ite (.ite (h.requestWake.via (considerAll_moves ..)) h) ?_
  exact .ite h.requestCheck (.ite (.ite (h.requestMeasure.via (considerAll_moves ..)) h) h)

theorem State.Latched.overcurrentTrip {c : Nat} : (doOvercurrentTrip c s).Latched := by
  unfold doOvercurrentTrip
  split
  · extract_lets ts out off s0 s1 s2 cut
    have hs1 : s1.Latched := h.modLfChan.modLf.via (setCond_moves ..)
    have hcut : cut.Latched := by
      unfold cut
      split
      · exact hs1.modSess
      · exact .ite ((hs1.via (setEntry_moves ..)).via (endCoilBurst_moves ..)) (hs1.via (stopBurst_moves ..))
      · exact .ite hs1.modLf hs1
    exact hcut.requestMeasure.via (considerAll_moves ..)
  · exact h

theorem State.Latched.diagStep {c : Nat} : (s.diagStep c).Latched := by
  unfold State.diagStep
  extract_lets left s1 s2
  have hs2 : s2.Latched := h.modLf.modLf.via (raise_moves ..)
  exact .ite (.ite (.ite hs2 hs2.requestCheck) h.modLf) h

theorem State.Latched.resonanceMeasurement {c : Nat} {r : CoilReading} : (doResonanceMeasurement c r s).Latched := by
  unfold doResonanceMeasurement
  split
  · extract_lets s1 s2 f keep s3
    have hs2 : s2.Latched := .ite (h.modLf.via (putCoil_moves ..)) h.modLf
    have hs3 : s3.Latched := hs2.via (setCond_moves ..)
    exact (hs3.via (serveDiag_moves ..)).diagStep.via (considerAll_moves ..)
  · exact h

theorem State.Latched.coilDiagnosticsDue : (doCoilDiagnosticsDue s).Latched := by
  unfold doCoilDiagnosticsDue
  exact .ite (h.requestDiagnostics.via (considerAll_moves ..)) h

/-! ### Configuration and tampers -/

theorem State.Latched.bringIn {c : CfgStore} : (s.bringIn c).Latched := by
  unfold State.bringIn
  extract_lets s1 v s2 s3 s4
  have hs1 : s1.Latched := (h.via (keepOldLayers_moves ..)).modCfg
  have hs2 : s2.Latched := hs1.modLf.via (settleVlf_moves ..)
  have hs4 : s4.Latched := hs2.modRel.modTbu
  exact (hs4.via (rebudget_moves ..)).evalDecision

theorem State.Latched.endCut : s.endCut.Latched := by
  unfold State.endCut
  split
  · exact .foldl h fun _ _ h => h.endLane.via (seqIdle_moves ..)
  · exact h

theorem State.Latched.cutExchanges : s.cutExchanges.Latched := by
  unfold State.cutExchanges
  exact h.modSess.modCheck.modParts.endCut

theorem State.Latched.tamperErase : s.tamperErase.Latched := by
  unfold State.tamperErase
  exact ((h.via (avalanche_moves ..)).via (revokeMessages_moves ..)).cutExchanges.via (startSelfTest_moves ..)

theorem State.Latched.tamperNote {unit : Nat} : (s.tamperNote unit).Latched := by
  unfold State.tamperNote
  exact ((h.via (raise_moves ..)).via (healthFree_moves ..)).wakeSource

theorem State.Latched.assertInput {n : Nat} : (s.assertInput n).Latched := by
  unfold State.assertInput
  exact .ite h (h.modTamper.via (markQuiet_moves ..)).tamperErase.tamperNote

theorem State.Latched.confirmTamper {input : Option Nat} : (s.confirmTamper input).Latched := by
  unfold State.confirmTamper
  exact ((h.modTamper.evalDecision.via (ledgerAdd_moves ..)).via (drawn_moves ..)).via (tamperZeroise_moves ..)

theorem State.Latched.tamperConfirmed {n : Nat} : (doTamperConfirmed n s).Latched := by
  unfold doTamperConfirmed
  split
  · exact .ite h (.ite h.modTamper.confirmTamper h.modTamper.modTamper.modBoot)
  · exact h

theorem State.Latched.meshFail : s.meshFail.Latched := by
  unfold State.meshFail
  extract_lets n s1 s2
  have hs1 : s1.Latched := h.modTamper.via (markQuiet_moves ..)
  have hs2 : s2.Latched := (Latched.ite hs1.tamperErase hs1).tamperNote
  exact .ite hs2.confirmTamper hs2

theorem State.Latched.meshPass : s.meshPass.Latched := by
  have quiet {f : Tamper → Tamper} : ((s.modTamper f).markQuiet).Latched := h.modTamper.via (markQuiet_moves ..)
  exact .ite quiet quiet.tamperNote

theorem State.Latched.checkMesh {passes : Bool} : (s.checkMesh passes).Latched := by
  have drawn {f : Tamper → Tamper} : (s.modTamper f).drawn.Latched := h.modTamper.via (drawn_moves ..)
  exact .ite h (.ite drawn.meshPass drawn.meshFail)

theorem State.Latched.quietInput {n : Nat} : (s.quietInput n).Latched := by
  unfold State.quietInput
  exact .ite h (h.modTamper.via (markQuiet_moves ..)).tamperNote

theorem State.Latched.tamperQuiet {unit : Nat} : (doTamperQuiet unit s).Latched := by
  unfold doTamperQuiet
  exact .ite h (.ite (.ite h h.meshPass) h.quietInput)

theorem State.Latched.tamperLatchClear : (doTamperLatchClear s).Latched := by
  unfold doTamperLatchClear
  exact .ite (h.modTamper.via (ledgerAdd_moves ..)).evalDecision h

/-! ### Resets and the boot: the latch stands outside what they clear -/

theorem State.Latched.clearVolatile {cause : Nat} : (s.clearVolatile cause).Latched := h

theorem State.Latched.systemReset {cause : Nat} : (s.systemReset cause).Latched := by
  unfold State.systemReset
  exact (h.via (flushItems_moves ..)).clearVolatile

theorem State.Latched.recoveryReset {code : Nat} : (s.recoveryReset code).Latched := by
  unfold State.recoveryReset
  exact h.modBoot.systemReset

theorem State.Latched.rstNAsserted {lowNs : Nat} : (doRstNAsserted lowNs s).Latched := by
  unfold doRstNAsserted
  exact .ite h (.ite h.systemReset (.ite (h.via (drawn_moves ..)).systemReset (h.via (drawn_moves ..))))

theorem State.Latched.nunatakHold : s.nunatakHold.Latched := by
  unfold State.nunatakHold
  exact h.clearVolatile.modRel.modTamper.modJtag.modPower.modPsc

theorem State.Latched.lineLoss : (doLineLoss s).Latched := by
  unfold doLineLoss
  exact .ite h ((Latched.ite h (h.via (flushItems_moves ..))).via (holdTime_moves ..)).nunatakHold

/-- A line that returns while VRES held out keeps the latch (R11, R24). -/
theorem State.Latched.linePowerReturn (hv : s.psc.vresOut = false) : (doLinePowerReturn s).Latched := by
  unfold doLinePowerReturn
  rw [hv]
  exact .ite h h.clearVolatile.modPower

theorem State.Latched.loadLayers : s.loadLayers.Latched := by
  unfold State.loadLayers
  exact (Latched.ite h.modTbu.modPsc.modMbx.modLf.modNet.modMet h.modTbu.modPsc.modMbx.modLf.modNet).modRel

theorem State.Latched.bootTamper {r : BootReport} : (s.bootTamper r).Latched := by
  unfold State.bootTamper
  extract_lets s1 s2
  have hs1 : s1.Latched := .foldl h fun _ _ h => .ite h.assertInput h.quietInput
  have hs2 : s2.Latched := hs1.checkMesh.via (markQuiet_moves ..)
  exact .ite (hs2.via (tamperZeroise_moves ..)) hs2

theorem State.Latched.bootReady {fw : Nat} : (s.bootReady fw).Latched := by
  unfold State.bootReady
  extract_lets s1 s2 s3 s4
  have hs4 : s4.Latched := ((h.via (placeRoles_moves ..)).modMbx.modBoot.via (radioOff_moves ..)).restartHalves.modRel
  exact .ite (hs4.via (raise_moves ..)) hs4

theorem State.Latched.bootRun {fw : Nat} {r : BootReport} : (s.bootRun fw r).Latched := by
  unfold State.bootRun
  extract_lets s1 s2 s3 s4 s5 s6
  have hs1 : s1.Latched :=
    (((h.via (bootKeys_moves ..)).via (readRecords_moves ..)).via (bootMeton_moves ..)).loadLayers.via (rebase_moves ..)
  have hs2 : s2.Latched := (hs1.via (bootMoraine_moves ..)).via (bootNotes_moves ..)
  have hs3 : s3.Latched := by
    unfold s3
    split
    · exact hs2.via (health1_moves ..)
    · exact hs2
  have hs4 : s4.Latched := .ite (hs3.via (zeroise_moves ..)).modCrypt hs3
  have hs5 : s5.Latched := (hs4.via (installFirst_moves ..)).bootTamper.resumeDecision
  have hs6 : s6.Latched := hs5.modPad.bootReady
  exact (hs6.requestDiagnostics.requestCheck.via (rebudget_moves ..)).evalDecision

theorem State.Latched.bootChosen {r : BootReport} : (s.bootChosen r).Latched := by
  have hb : s.bootBank.2.Latched := h.via (bootBank_moves ..)
  unfold State.bootChosen
  split
  next s1 e => rw [e] at hb; exact hb.modBoot.modMbx
  next fw s1 e => rw [e] at hb; exact .ite hb.modBoot.modBoot hb.modBoot.bootRun

theorem State.Latched.bootTests {r : BootReport} : (s.bootTests r).Latched := by
  have tested : (s.bootPairs r.pairOk).Latched := h.via (bootPairs_moves ..)
  exact .ite tested.modBoot (.ite tested.recoveryReset (.ite tested.modBoot.bootTamper tested.bootChosen))

theorem State.Latched.resetRelease {r : BootReport} : (doResetRelease r s).Latched := by
  unfold doResetRelease
  exact .ite h h.modBoot.bootTests

theorem State.Latched.bootSelfTestRetry {r : BootReport} : (doBootSelfTestRetry r s).Latched := by
  unfold doBootSelfTestRetry
  exact .ite h.bootTests h

theorem State.Latched.bootMonitorExpiry {r : BootReport} : (doBootMonitorExpiry r s).Latched := by
  unfold doBootMonitorExpiry
  exact .ite (h.via (rollBackTrial_moves ..)).modBoot.bootTests h

theorem State.Latched.sysReset {mb : Nat} : (doSysReset mb s).Latched := by
  unfold doSysReset
  exact .ite h.systemReset h

theorem State.Latched.activateBank {k : Nat} {c : CfgStore} : (s.activateBank k c).Latched := by
  unfold State.activateBank
  extract_lets was s1 s2
  have hs1 : s1.Latched := by
    unfold s1
    clear_value was
    split
    · exact h.modMetonBank
    · exact h
  exact (hs1.modMetonBank.modBoot.bringIn.via (markQuiet_moves ..)).via (ledgerAdd_moves ..)

theorem State.Latched.cfgActivate {mb : Nat} : (s.cfgActivate mb).Latched := by
  unfold State.cfgActivate
  extract_lets k s1
  have hs1 : s1.Latched := h.modMetonBank
  have refused {st : Nat} {body : List Byte} : (s.post mb st body).Latched := h.via (post_moves ..)
  refine .ite refused (.ite refused (.ite (h.via (refuseBank_moves ..)) ?_))
  split
  · exact hs1.via (refuseBank_moves ..)
  · exact .ite (hs1.via (refuseBank_moves ..)) (.ite (hs1.via (post_moves ..)) (hs1.activateBank.via (post_moves ..)))

theorem State.Latched.fwActivate {mb flags : Nat} : (s.fwActivate mb flags).Latched := by
  unfold State.fwActivate
  extract_lets k m s1
  have hs1 : s1.Latched := h.modFwBank
  have refused {st : Nat} {body : List Byte} : (s.post mb st body).Latched := h.via (post_moves ..)
  have refusedBank {st : Nat} {body : List Byte} : (s1.post mb st body).Latched := hs1.via (post_moves ..)
  have trial : (s1.setTrial k).Latched := hs1.via (setTrial_moves ..)
  refine .ite refused (.ite refused (.ite refusedBank (.ite refusedBank ?_)))
  exact .ite trial.systemReset (trial.via (post_moves ..))

/-! ### Faults of the fabric and the cores -/

theorem State.Latched.loseReception : s.loseReception.Latched := by
  unfold State.loseReception
  extract_lets s1
  split
  · exact .ite h.modRadio h.modRadio.loseAttempt
  · exact h.modRadio

theorem State.Latched.abortOutcome {req sub ref : Nat} : (s.abortOutcome req sub ref).Latched := by
  unfold State.abortOutcome
  refine .ite (h.via (abortCipher_moves ..)) (.ite h.modStat ?_)
  refine .ite h.loseReception (.ite h.modRadio ?_)
  refine .ite ?_ h
  split
  · exact h.via (stopBurst_moves ..)
  · exact h

theorem State.Latched.abortFault {r : FaultRec} : (s.abortFault r).Latched := by
  unfold State.abortFault
  exact (h.via (dropFault_moves ..)).modFab.abortOutcome

theorem State.Latched.faultAbort {req : Nat} : (doFaultAbort req s).Latched := by
  unfold doFaultAbort
  split
  · exact .ite h.abortFault h
  · exact h

theorem State.Latched.faultAbortTimeout : (doFaultAbortTimeout s).Latched := by
  unfold doFaultAbortTimeout
  split
  · exact h.abortFault
  · exact h

theorem State.Latched.diverge {p : Nat} : (s.diverge p).Latched := by
  unfold State.diverge
  refine .ite h ?_
  extract_lets s1 gone s2 s3
  have hs2 : s2.Latched := h.modPair.modPair.via (healthFree_moves ..)
  have hs3 : s3.Latched := .ite (hs2.via (healthFree_moves ..)) hs2
  exact .ite hs3.recoveryReset ((hs3.via (retractCore_moves ..)).via (migrate_moves ..))

theorem State.Latched.roleResumes {r : Role} : (s.roleResumes r).Latched := by
  unfold State.roleResumes
  split
  · exact .ite h.modRel.restartHalves h
  · exact h.via (considerAll_moves ..)
  · exact h.settleLanes
  · exact h

theorem State.Latched.roleMigrationComplete : (doRoleMigrationComplete s).Latched := by
  unfold doRoleMigrationComplete
  split
  · exact h
  · exact ((h.modCores.via (resumeFaults_moves ..)).roleResumes.via (raise_moves ..)).evalDecision

theorem State.Latched.uncorrectableWord {a req sub ref : Nat} : (doUncorrectableWord a req sub ref s).Latched := by
  unfold doUncorrectableWord
  extract_lets s1
  have hs1 : s1.Latched := h.modFab.via (health1_moves ..)
  refine .ite h (.ite hs1.diverge (.ite (hs1.via (recomputeMsg_moves ..)) ?_))
  exact .ite hs1.abortOutcome (.ite hs1.recoveryReset hs1)

theorem State.Latched.changeIr {code : Nat} : (s.changeIr code).Latched := by
  have loaded : (s.setIr code).Latched := h.via (setIr_moves ..)
  exact .ite h (.ite loaded (.ite loaded.systemReset loaded))

/-! ### Doorbells, timers and the register space -/

theorem State.Latched.doorbellWake : s.doorbellWake.Latched := by
  unfold State.doorbellWake
  split
  · exact h.wakeSource
  · exact h.wakeSource

theorem State.Latched.doorbell {mb : Nat} : (doDoorbell mb s).Latched := by
  unfold doDoorbell
  refine .ite h (.ite h.modMbx (doorbellWake ?_))
  have hr : (s.ring mb).Latched := h.via (ring_moves ..)
  split
  · exact hr.via (refuse_moves ..)
  · exact (hr.via (holdWindow_moves ..)).via (noteImageKey_moves ..)

theorem State.Latched.alarmFire {m : Nat} : (s.alarmFire m).Latched := by
  unfold State.alarmFire
  refine .ite ?_ h
  extract_lets s1 s2
  have hs1 : s1.Latched := (h.via (ticksFirst_moves ..)).modAlarm.via (tmrEvt1_moves ..)
  have hs2 : s2.Latched := hs1.via (settle_moves (s1, _))
  exact .ite hs2.wakeSource hs2

theorem State.Latched.write_almLo {r : Requester} {m : Nat} {w : Word} : (writeAlmLo r m w s).Latched := by
  unfold writeAlmLo
  exact h.modAlarm.alarmFire

theorem State.Latched.disarm {m : Nat} : (s.disarm m).Latched := by
  unfold State.disarm
  exact h.alarmFire.modAlarm

theorem State.Latched.write_tmr {r : Requester} {off : Nat} {w : Word} : (writeTmr r off w s).Latched := by
  unfold writeTmr
  refine .ite ?_ ?_
  · extract_lets n
    split
    · exact h.via (writeTmrCtrl_moves ..)
    · exact (h.via (tickFirst_moves ..)).modTimer
    · exact ((h.via (tickFirst_moves ..)).modTimer.via (judgeTimer_moves ..)).via (settle_moves ..)
    · exact h.via (writeTmrCnt_moves ..)
    · exact h.via (writeTmrCmp_moves ..)
    · exact h.via (writeTmrCmp_moves ..)
    · exact h.modTimer
    · exact h
  · refine .ite ?_ ?_
    · extract_lets m
      split
      · exact h.write_almLo
      · exact h.modShadow
      · exact (Latched.ite h.disarm h).modAlarm
      · exact h
    · refine .ite (.ite (h.via (writePinCtrl_moves ..)) h) ?_
      refine .ite (.ite (.ite (h.modCap.via (capFlush_moves ..)) h.modCap) h) ?_
      split
      · exact h.modTmr
      · exact h.modTmr
      · exact h.modTmr
      · exact h.modTmr
      · exact h

theorem State.Latched.write_db {w : Word} : (writeDb w s).Latched := by
  unfold writeDb
  exact .foldl h fun _ _ h => .ite h.doorbell h

theorem State.Latched.write_mbx {off : Nat} {w : Word} : (writeMbx off w s).Latched := by
  unfold writeMbx
  refine .ite (h.via (doCommandAreaWrite_moves ..)) ?_
  exact .ite h.write_db (.ite (h.via (doMbxAckWrite_moves ..)) (.ite h.modMbx (.ite h.modMbx h)))

theorem State.Latched.write_reg {r : Requester} {a : Nat} {w : Word} : (writeReg r a w s).Latched := by
  unfold writeReg
  extract_lets off
  refine .ite (h.via (writeAperture_moves ..)) ?_
  split
  · exact h.via (writeIdh_moves ..)
  · exact h.write_mbx
  · exact h.via (writeTbu_moves ..)
  · exact h.write_tmr
  · exact h.via (writeEvc_moves ..)
  · exact h.write_psc
  · exact h.write_pad
  · exact h.via (writeCmpw_moves ..)
  · exact h.via (writeHbw_moves ..)
  · exact h

theorem State.Latched.registerWrite {r : Requester} {a : Nat} {w : Word} : (doRegisterWrite r a w s).Latched := by
  unfold doRegisterWrite
  exact .ite h.write_reg h

theorem State.Latched.write_range {r : Requester} {a : Nat} {ws : List Word} : (writeRange r a ws s).Latched := by
  induction ws generalizing a s with
  | nil => exact h
  | cons w ws ih => exact ih h.write_reg

theorem State.Latched.spiRefused {status : Nat} : (s.spiRefused status).Latched := by
  unfold State.spiRefused
  exact .ite h.modMbx.wakeSource (h.modMbx.via (raise_moves ..))

theorem State.Latched.spiWriteFrame {bs : List Byte} : (doSpiWriteFrame bs s).Latched := by
  unfold doSpiWriteFrame
  exact .ite (h.via (drive_moves ..)) ((Latched.ite h.write_range h.spiRefused).via (drive_moves ..))

theorem State.Latched.spiReadFrame {bs : List Byte} : (doSpiReadFrame bs s).Latched := by
  unfold doSpiReadFrame
  refine .ite (h.via (drive_moves ..)) ?_
  exact .ite ((h.via (readRange_moves ..)).via (drive_moves ..)) (h.spiRefused.via (drive_moves ..))

theorem State.Latched.spiWakeFrame {bs : List Byte} : (doSpiWakeFrame bs s).Latched := by
  have ready : (s.withWakeKey.drive []).Latched := (h.via (withWakeKey_moves ..)).via (drive_moves ..)
  refine .ite (h.via (drive_moves ..)) (.ite ((Latched.ite h.spiRefused h).via (drive_moves ..)) ?_)
  exact .ite (.ite ready.wakeVerified ready) ready.modPsc

theorem State.Latched.mgmtServe {p : List Byte} : (State.mgmtServe p s).2.Latched := by
  unfold State.mgmtServe
  dsimp only
  split
  · split
    · exact h.write_range
    · exact h.via (readRange_moves ..)
  · exact .ite h.wakeSource h

theorem State.Latched.mgmtRequest {port : Nat} {protectedFrame : Bool} {addr srcPort : Nat} {p : List Byte} :
    (doMgmtRequest port protectedFrame addr srcPort p s).Latched := by
  unfold doMgmtRequest
  refine .ite h (.ite h.frameDiscarded ?_)
  have hr : (s.rxFrame port).Latched := h.via (rxFrame_moves ..)
  refine .ite (hr.via (mgmtDropped_moves ..)) ?_
  have hp : ((s.rxFrame port).peerSeen port addr srcPort).Latched := hr.via (peerSeen_moves ..)
  dsimp only
  split
  · exact hp.modMbx.modStat.wakeSource
  · exact (hp.mgmtServe.via (sendReply_moves ..)).wakeSource

theorem State.Latched.wakeForTest : s.wakeForTest.Latched := by
  unfold State.wakeForTest
  exact .ite h h.modPsc.wakeSource

theorem State.Latched.datapathMismatch {chan : Option Nat} {again : Bool} :
    (doDatapathMismatch chan again s).Latched := by
  have alarmed : s.cipherAlarm.Latched := h.via (cipherAlarm_moves ..)
  unfold doDatapathMismatch
  refine .ite h (.ite (.ite alarmed.wakeForTest alarmed) (via ?_ (healthFree_moves ..)))
  split
  · exact h.modChan
  · exact h

theorem State.Latched.engineSelfTestEnd {passed : Bool} : (doEngineSelfTestEnd passed s).Latched := by
  unfold doEngineSelfTestEnd
  exact .ite h (.ite (h.via (selfTestPass_moves ..)) h.recoveryReset)

theorem State.Latched.vcoreUndervoltage : (doVcoreUndervoltage s).Latched := by
  unfold doVcoreUndervoltage
  exact .ite h.recoveryReset h

theorem State.Latched.linkFail {link : Nat} : (s.linkFail link).Latched := by
  unfold State.linkFail
  exact .ite h.modPower.modPower.recoveryReset h.modPower

theorem State.Latched.dieLinkCrcFail {link : Nat} {again failed : Bool} :
    (doDieLinkCrcFail link again failed s).Latched := by
  unfold doDieLinkCrcFail
  extract_lets s1
  have hs1 : s1.Latched := h.via (healthFree_moves ..)
  exact .ite h (.ite hs1 (.ite hs1.linkFail (hs1.via (healthFree_moves ..))))

/-! ### Commands, and the notice's end -/

/-- A command that acts under the checks of every mailbox command keeps the latch where its effect does. -/
theorem State.Latched.perform {mb op : Nat} {check : State → Mailbox → Option Nat} {act : Mailbox → State → State}
    (ha : ∀ b t, t.Latched → (act b t).Latched) : (s.perform mb op check act).Latched := by
  have viewed : (s.cmdView mb).Latched := h.via (cmdView_moves ..)
  unfold State.perform
  refine .ite h (.ite (h.via (post_moves ..)) ?_)
  split
  · exact h.via (post_moves ..)
  · unfold State.Latched
    rw [show (s.cmdBack mb _).rel = _ from cmdBack_mod s mb _ .rel (by decide)]
    exact ha _ _ viewed

/-- A notice that has not elapsed, or elapses while the rule does not hold, keeps the latch (R228, R231). -/
theorem State.Latched.revokeNoticeElapsed (hr : ¬(s.rel.st = .revoking ∧ s.noticeOver = true ∧ s.rule226 = true)) :
    (doRevokeNoticeElapsed s).Latched := by
  unfold doRevokeNoticeElapsed
  rw [if_neg]
  · exact h
  · simp only [Bool.and_eq_true]
    rintro ⟨hst, ⟨-, hover⟩, hrule⟩
    exact hr ⟨hst, hover, hrule⟩

end

/-! ### The dispatch, and the settlement of O47 -/

/-- The commands that clear the latch where their conditions hold: a power-on reset, and the notice's end (R228, R229). -/
def ClearsLatch (c : Instr) (s : State) : Prop :=
  c = .powerOnReset ∨ (c = .linePowerReturn ∧ s.psc.vresOut = true) ∨
    (c = .revokeNoticeElapsed ∧ s.rel.st = .revoking ∧ s.noticeOver = true ∧ s.rule226 = true)

/-- An outcome leaves the latch set: a next state has it set. -/
def LeavesLatched : Host.Outcome State Fault Refusal → Prop
  | .next t => t.Latched
  | _ => True

/-- A command whose frame leaves the decision out keeps the latch. -/
theorem State.Latched.unmoved {c : Instr} {s : State} (h : s.Latched) (hp : Part.rel ∉ mayChange c) :
    LeavesLatched (exec c s) := by
  cases e : exec c s with
  | next t => exact h.via (exec_moves e) hp
  | fault => trivial
  | refused => trivial

/-- Every command but those that clear it keeps the latch. -/
theorem exec_leavesLatched {c : Instr} {s : State} (h : s.Latched) (hc : ¬ClearsLatch c s) : LeavesLatched (exec c s) := by
  cases c with
  | powerOnReset => exact absurd (.inl rfl) hc
  | rstNAsserted => exact h.rstNAsserted
  | resetRelease =>
    change LeavesLatched (execResetRelease _ s)
    unfold execResetRelease
    split
    · trivial
    · exact h.resetRelease
  | bootSelfTestRetry => exact h.bootSelfTestRetry
  | bootMonitorExpiry => exact h.bootMonitorExpiry
  | lineLoss => exact h.lineLoss
  | linePowerReturn => exact h.linePowerReturn (Bool.eq_false_iff.mpr fun hv => hc (.inr (.inl ⟨rfl, hv⟩)))
  | vresMeasurement => exact .ite h.vresMeasurement h
  | pwrSleep => exact .ite h (h.perform fun _ _ h => (h.via (State.wait_moves ..)).modPsc.beginEntry)
  | sleepCommit => exact h.sleepCommit
  | veto => exact h.veto
  | domainGated => exact h.domainGated
  | wakeSource => exact .ite h.wakeSource h
  | wakeComplete => exact h.wakeComplete
  | linkActivity => exact .ite h.wakeSource h
  | ethernetWakeFrame => exact h.ethernetWakeFrame
  | padFrzWrite => exact h.write_frz
  | gpioEdge => exact h.gpioEdge
  | feedDeliveringChange => exact h.feedDeliveringChange
  | feedOv => exact h.feedOv
  | frameDiscarded => exact h.frameDiscarded
  | vcoreUndervoltage => exact h.vcoreUndervoltage
  | dieLinkCrcFail => exact h.dieLinkCrcFail
  | datapathMismatch => exact h.datapathMismatch
  | engineSelfTestEnd => exact h.engineSelfTestEnd
  | slowCrystalFailed => exact h.slowCrystalFailed
  | rfCal =>
    have taken {t : State} {l : Nat} (h : t.Latched) :
        (if (t.seqCal l).radio.st = .cal then (t.seqCal l).calTaken else t.seqCal l).Latched :=
      .ite ((h.via (State.seqCal_moves ..)).via (State.calTaken_moves ..)) (h.via (State.seqCal_moves ..))
    exact h.perform fun _ _ h => (taken (h.via (State.wait_moves ..)).modRadio.seqUp).radioDone
  | rfTest =>
    have sent {t : State} {uhf : Bool} {l : Nat} (h : t.Latched) :
        (if uhf then t.seqSendUhf false else t.seqSendUwb none l false).Latched :=
      .ite (h.via (State.seqSendUhf_moves ..)) (h.via (State.seqSendUwb_moves ..))
    exact h.perform fun _ _ h => .ite h (sent (h.via (State.wait_moves ..)).modRadio.seqUp).radioDone
  | rfCapture => exact h.perform fun _ _ h => .ite h (h.via (State.wait_moves ..)).modRadio.seqUp.radioDone
  | seqUp => exact h.seqUp.radioDone
  | seqDown => exact (h.via (State.seqDown_moves ..)).radioDone
  | seqIdle => exact (h.via (State.seqIdle_moves ..)).radioDone
  | seqListenUhf => exact (h.via (State.seqListenUhf_moves ..)).radioDone
  | seqSendUhf => exact (h.modRadio.via (State.seqSendUhf_moves ..)).radioDone
  | seqListenUwb => exact (h.via (State.seqListenUwb_moves ..)).radioDone
  | seqSendUwb => exact (h.via (State.seqSendUwb_moves ..)).radioDone
  | seqRange => exact (h.modRadio.via (State.seqRange_moves ..)).radioDone
  | seqCal => exact (h.via (State.seqCal_moves ..)).radioDone
  | lockQualified => exact (h.via (State.seqQualified_moves ..)).radioDone
  | settleTimeout => exact (h.via (State.seqSettleTimeout_moves ..)).radioDone
  | lockLost => exact (h.via (State.seqLockLost_moves ..)).radioDone
  | calStepEnd => exact (h.via (State.seqCalStep_moves ..)).radioDone
  | uhfFrameEnd => exact .ite (h.via (State.uhfOver_moves ..)).radioDone h
  | uwbFrameEnd => exact .ite ((h.via (State.stampFrame_moves ..)).via (State.uwbOver_moves ..)).radioDone h
  | uhfFrameReceived => exact h.uhfFrameReceived
  | uwbFrameReceived => exact h.uwbFrameReceived
  | backgroundSlice => exact h.backgroundSlice
  | forcedSlice => exact h.forcedSlice
  | heldCommandTimeout => exact (h.via (State.failHeld_moves ..)).radioDone
  | transmitGateDeadline => exact h.transmitGateDeadline
  | upRetry => exact h.upRetry
  | recalibrationDue => exact h.recalibrationDue
  | rfTestEnd => exact h.rfTestEnd
  | registerWrite => exact h.registerWrite
  | spiWriteFrame => exact h.spiWriteFrame
  | spiReadFrame => exact h.spiReadFrame
  | spiWakeFrame => exact h.spiWakeFrame
  | mgmtRequest => exact h.mgmtRequest
  | almmLoWrite => exact h.write_almLo
  | alarmFire => exact h.alarmFire
  | alarmDisarm => exact h.disarm
  | delivery => exact h.delivery
  | pscHostSleepWrite => exact h.write_hostSleep
  | faultAbort => exact h.faultAbort
  | faultAbortTimeout => exact h.faultAbortTimeout
  | uncorrectableWord => exact h.uncorrectableWord
  | pairDivergence => exact h.diverge
  | roleMigrationComplete => exact h.roleMigrationComplete
  | doorbell => exact h.doorbell
  | sysReset => exact h.sysReset
  | cfgActivate => exact h.perform fun _ _ h => h.cfgActivate
  | cfgSet =>
    refine h.perform fun b t h => ?_
    dsimp only
    split
    · exact h.bringIn.via (State.post_moves ..)
    · exact h.via (State.post_moves ..)
  | fwActivate => exact h.perform fun _ _ h => h.fwActivate
  | partEnrol => exact .ite h (h.perform fun _ _ h => (h.via (State.wait_moves ..)).startEnrol)
  | sessPoll => exact h.perform fun _ _ h => (h.via (State.wait_moves ..)).requestWake.via (State.considerAll_moves ..)
  | rangeTest =>
    exact h.perform fun _ _ h => (h.via (State.wait_moves ..)).modSess.requestWake.via (State.considerAll_moves ..)
  | reportFrame => exact h.report
  | lfDiag =>
    refine h.perform fun _ _ h => State.Latched.via (.foldl ?_ fun _ _ h => h.requestMeasure) (State.considerAll_moves ..)
    exact (h.via (State.wait_moves ..)).modLf
  | lfPhase => exact h.perform fun _ _ h => (h.via (State.wait_moves ..)).putRequest.via (State.considerAll_moves ..)
  | burstRequest => exact h.burstRequest
  | overcurrentTrip => exact h.overcurrentTrip
  | resonanceMeasurement => exact h.resonanceMeasurement
  | coilDiagnosticsDue => exact h.coilDiagnosticsDue
  | lfPopcheck => exact h.perform fun _ _ h => (h.via (State.wait_moves ..)).requestCheck
  | populationCheckDue => exact h.populationCheckDue
  | lockoutEnd => exact h.lockoutEnd
  | relConsent => exact h.perform fun _ _ h => h.modRel.evalDecision.via (State.post_moves ..)
  | relRevoke => exact h.perform fun _ _ h => h.addCause.via (State.post_moves ..)
  | relCancel => exact h.perform fun _ _ h => h.dropCause.evalDecision.via (State.post_moves ..)
  | populationPhaseEnd => exact h.populationPhaseEnd.evalDecision
  | graceExpiry => exact h.graceExpiry
  | sstlDisagree => exact h.sstlDisagree
  | readbackWindowEnd => exact h.readbackWindowEnd
  | latchComplementTimeout => exact h.modRel.via (State.healthFree_moves ..)
  | idleExpiry => exact h.idleExpiry
  | revokeNoticeElapsed => exact h.revokeNoticeElapsed fun hr => hc (.inr (.inr ⟨rfl, hr⟩))
  | permissionOscillatorTrim => exact h.permissionOscillatorTrim
  | ledgCredit =>
    refine .ite h (h.perform fun b t h => ?_)
    have ht : (if creditForm b.payload then t.evalIdentity (uAt b.payload 16 8) else t).Latched :=
      .ite (h.via (State.evalIdentity_moves ..)) h
    dsimp only
    split
    · exact (ht.via (State.refuseCredit_moves ..)).via (State.post_moves ..)
    · exact ht.applyCredit.via (State.post_moves ..)
  | meterSample => exact h.meterSample
  | meanEnd => exact h.meanEnd
  | sstlEdge => exact h.sstlEdge
  | periodicPoll => exact .ite (h.requestWake.via (State.considerAll_moves ..)) h
  | responseWindowClose => exact h.responseWindowClose
  | laneOpen => exact h.laneOpen
  | responseFrame => exact h.responseFrame
  | tagDeadline => exact h.tagDeadline
  | pollFrame => exact h.poll
  | rangingResponse => exact h.rangingResponse
  | finalFrame => exact h.final
  | uwbReceiveWindowExpiry => exact h.uwbReceiveWindowExpiry
  | tamperAssertion => exact .ite h.assertInput h
  | tamperQuiet => exact h.tamperQuiet.evalDecision
  | meshCheck => exact .ite h.checkMesh.evalDecision h
  | tamperConfirmed => exact h.tamperConfirmed
  | tamperLatchClear => exact h.tamperLatchClear
  | updateIr => exact h.changeIr
  | tapReset => exact h.changeIr
  | _ => exact h.unmoved (of_decide_eq_true rfl)

/-- Settles O47: no row but those of R228 and a power-on reset clears the latch, row by row over the dispatch. -/
theorem onlyARevocationClearsTheLatch : Obligations.OnlyARevocationClearsTheLatch := by
  unfold Obligations.OnlyARevocationClearsTheLatch
  intro s t hstep hset hclear
  have cleared : ¬t.Latched := Bool.eq_false_iff.mp hclear
  obtain ⟨-, rfl⟩ | ⟨c, rest, hpending, hexec⟩ := step_cases hstep
  · exact absurd (State.Latched.via hset (State.tick_moves s)) cleared
  · refine ⟨c, rest, hpending, Classical.byContradiction fun hc => cleared ?_⟩
    have kept := exec_leavesLatched (s := s.withPending rest) hset hc
    rwa [hexec] at kept

end Sys2Proof.Machine
end

section
/-!
PROOF. The release decision's statement of a completed population check (R123, R128). A check begins with no start on record; the
admission of its first exchange records one, and a check that completes without ever having had an exchange admitted records its
own. The statement has the record of the start unchanged by the completion. Refutes O46.
-/
set_option Elab.async false

namespace Sys2Proof.Machine

/-! ### The refutation of O46: a check whose exchanges were all dropped before their admission -/

namespace UnadmittedCheck

/-- A check in its last phase, begun 1 s ago: a fault excluded every coil while its request waited (R79). -/
def check : PopCheck :=
  { startNs := 999000000000, phase := 3, mbs := [0], coils := List.replicate 48 { entry := some 7 } }

/-- The lf.popcheck that the check serves. -/
def popcheck : Mailbox :=
  { st := .issued, started := true, waiting := true, committed := true, run := leBytes 2 0x0606 ++ zeros 14 }

/-- The block 1,000 s into its epoch, the check running and no start on record yet, as a check's beginning leaves it. -/
def state : State :=
  { tbu := { ns := 1000000000000 }, boot := { phase := .running }
    mbx := { ready := true, boxes := (List.replicate 8 {}).set 0 popcheck }
    pop := { running := some check, checkSeq := 1 } }

/-- The completed check records its start. -/
theorem completion_records_start :
    (doPopulationPhaseEnd state).evalDecision.pop.lastStart = some check.startNs := by decide +kernel

end UnadmittedCheck

open UnadmittedCheck in
/-- Refutes O46: the clause of POPULATION_PHASE_END leaves `lastStart` as it was, but a completed check that never had an exchange
admitted sets it to its own start (R128). -/
theorem not_decisionFollowsItsTransitions : ¬ Obligations.DecisionFollowsItsTransitions := by
  unfold Obligations.DecisionFollowsItsTransitions
  rintro ⟨-, -, -, -, -, -, -, -, -, -, -, -, -, hend, -⟩
  obtain ⟨t, hexec, hpop, -⟩ := hend check 0 state rfl rfl (by decide) rfl rfl rfl rfl rfl rfl rfl rfl rfl
  have hafter : (doPopulationPhaseEnd state).evalDecision = t := Host.Outcome.next.inj hexec
  have hkept : t.pop.lastStart = none := by rw [hpop]; rfl
  rw [← hafter, completion_records_start] at hkept
  cases hkept

end Sys2Proof.Machine
end

section
/-!
PROOF. Metering's statement of a mean's end (R226, R308). The evaluation that follows the mean may begin a population check, and the
check's request is work, which rolls back an entry to Drift in progress (R489, R491); a roll-back that restores PD13 restarts both
halves of the rule (R226). The statement has the run of the current half begin in every state, so also in one, which no entry of
the block leads to, where PD13 is powered and still listed among the domains to restore. Refutes O51.
-/
set_option Elab.async false

namespace Sys2Proof.Machine

/-! ### The refutation of O51: a mean's end while PD13 is to be restored -/

namespace RestartedHalf

/-- A key that may grant. -/
def key : PartRec :=
  { identity := 0x55, kind := 1, role := 0x10, state := .enrolled, zones := 1, releaseOk := true, attach := 0xFF }

/-- The key's presence, verified 0.1 s ago. -/
def presence : Presence := { identity := 0x55, zones := 1, ns := 999900000000, epoch := 1, roundSeq := 3 }

/-- The block 1,000 s into its epoch: a mean of no current is complete, the decision is armed and wants only the population record,
and an entry to Drift is in its commit phase, with PD13 listed among the domains that a roll-back restores. -/
def state : State :=
  { tbu := { ns := 1000000000000 }, mbx := { ready := true }, boot := { phase := .running }
    met := { n := 128 }, lf := { diagDone := true }, parts := { table := [(3, key)] }
    rel := { st := .armed, consent := true, fbAgree := true, presence := [presence] }
    psc := { entry := some .drift, committed := true, keep := keptBy .drift 0, gatedNow := [13] } }

/-- The check that the evaluation begins rolls the entry back, and the run of the current half is lost. -/
theorem run_restarts : (doMeanEnd state).rel.quiet = none := by decide +kernel

end RestartedHalf

open RestartedHalf in
/-- Refutes O51: the clause of MEAN_END has the current half's run stand after a mean below 5 A, but the evaluation at that mean's
end can begin a population check (R128) whose request rolls an entry back and restarts both halves (R226, R489). -/
theorem not_meteringIntegratesAndJudges : ¬ Obligations.MeteringIntegratesAndJudges := by
  unfold Obligations.MeteringIntegratesAndJudges
  rintro ⟨-, -, -, -, -, hmean, -⟩
  obtain ⟨t, hexec, -, -, -, -, -, -, -, -, -, -, -, -, hquiet, -⟩ := hmean state (by decide) (.inl (by decide))
  have hafter : doMeanEnd state = t := Host.Outcome.next.inj hexec
  have hstands := hquiet rfl rfl rfl rfl (by decide) (by decide) (by decide) (by decide)
  rw [← hafter, run_restarts] at hstands
  cases hstands

end Sys2Proof.Machine
end

section
/-!
What no step of the block undoes (R313, R324, R513, R539, R543): part of what every operation keeps. Settles O60.
-/
namespace Sys2Proof.Machine

/-- What every operation keeps of the boot record, the logs and the timebase holds all that no step may undo. -/
theorem NotUndone.of_keeps {s t : State} (k : Keeps s t) : NotUndone s t := by
  obtain ⟨-, hlocked, hfloor⟩ := k.boot
  obtain ⟨-, hnext⟩ := k.health
  obtain ⟨-, hhead⟩ := k.ledger
  obtain ⟨-, hepoch⟩ := k.tbu
  exact { locked := hlocked, health := hnext, moraine := hhead, epoch := hepoch, floor := hfloor }

/-- Settles O60: the timebase's step and every arm of the dispatch keep them. -/
theorem noStepUndoes : Obligations.NoStepUndoes := by
  unfold Obligations.NoStepUndoes
  exact fun _ _ hstep => .of_keeps (step_keeps hstep)

end Sys2Proof.Machine
end

section
/-!
What a mailbox command leaves once its result is posted over the layers in force (R430, R446, R455), and how one part is
taken out of a frame.
-/
namespace Sys2Proof.Machine

/-- A part that may change by a frame and does not is left out of it. -/
theorem Only.drop {p : Part} {ps qs : List Part} {s t : State} (h : Only ps s t) (hp : p.Same s t)
    (hs : (ps.all fun q => q == p || qs.contains q) = true := by decide) : Only qs s t := by
  intro q hq
  by_cases hqp : q = p
  · exact hqp ▸ hp
  · refine h q fun hm => ?_
    have := List.all_eq_true.mp hs q hm
    simp [hqp, hq] at this

/-- What a command's effect leaves is in the state after its posting, but for the result and the layers in force. -/
theorem State.cmdBack_post_only (s u : State) (mb status : Nat) (body : List Byte) :
    Only [.evc, .mbx, .fab, .cfg] u (s.cmdBack mb (u.post mb status body)) :=
  (Only.mono (by decide) (State.post_moves mb status body u).1).trans (Only.mono (by decide) (State.cmdBack_mod s mb _))

section
variable {c : Instr} {s u : State} {mb op status : Nat} {body : List Byte} {ps : List Part}

/-- A posting by a command's effect is for the command that stood in the mailbox. -/
theorem Posted.of_effect {t : State} {consumed : Nat} (hp : Posted u t mb status consumed body) (m : Moves ps (s.cmdView mb) u)
    (hm : Part.mbx ∉ ps) (ht : Part.tbu ∉ ps) : Posted s (s.cmdBack mb t) mb status consumed body := by
  refine (hp.of_same (s := s.cmdView mb) ?_ ?_).back
  · rw [State.box_of_mbx (m.1.mbx hm)]
  · unfold State.now
    rw [m.1.part .tbu ht]

/-- The frame of a command is that of its effect and of its posting. -/
theorem State.cmdBack_post_frame (m : Moves ps (s.cmdView mb) u) (status : Nat) (body : List Byte) :
    Only (.evc :: .mbx :: .fab :: ps) s (s.cmdBack mb (u.post mb status body)) :=
  (State.cmdView_cmdBack_moves
    ((Moves.mono (by simp +contextual) m).trans (.mono (by simp) (State.post_moves mb status body u)))).1

/-- A command whose effect completes answers with its body posted and what the effect leaves. -/
theorem Takes.completes (h : Takes s mb op) (hexec : exec c s = .next (s.cmdBack mb (u.post mb status body)))
    (m : Moves ps (s.cmdView mb) u) (hc : completes status = true) (hm : Part.mbx ∉ ps := by decide)
    (ht : Part.tbu ∉ ps := by decide) : ∃ t, exec c s = .next t ∧ Completed s t mb status body ∧
      Only [.evc, .mbx, .fab, .cfg] u t ∧ Only (.evc :: .mbx :: .fab :: ps) s t := by
  refine ⟨_, hexec, ?_, State.cmdBack_post_only s u mb status body, State.cmdBack_post_frame m status body⟩
  have hposted := State.post_completed (s := u) (body := body) (m.1.mbx hm ▸ h.box_exists) hc
  unfold Completed at hposted ⊢
  rw [State.box_of_mbx (m.1.mbx hm), State.cmdView_box] at hposted
  exact hposted.of_effect m hm ht

/-- A command whose effect is a refusal answers with the status posted and what the effect leaves. -/
theorem Takes.refuses (h : Takes s mb op) (hexec : exec c s = .next (s.cmdBack mb (u.post mb status body)))
    (m : Moves ps (s.cmdView mb) u) (hc : Machine.completes status = false) (hm : Part.mbx ∉ ps := by decide)
    (ht : Part.tbu ∉ ps := by decide) : ∃ t, exec c s = .next t ∧ RefusedWith s t mb status ∧
      Only [.evc, .mbx, .fab, .cfg] u t ∧ Only (.evc :: .mbx :: .fab :: ps) s t :=
  ⟨_, hexec, (State.post_refused (m.1.mbx hm ▸ h.box_exists) hc).of_effect m hm ht,
    State.cmdBack_post_only s u mb status body, State.cmdBack_post_frame m status body⟩

end

@[simp] theorem State.cmdView_met (s : State) (mb : Nat) : (s.cmdView mb).met = s.met :=
  (State.cmdView_moves s mb).1 .met (by decide)

@[simp] theorem State.cmdView_ledger (s : State) (mb : Nat) : (s.cmdView mb).ledger = s.ledger :=
  (State.cmdView_moves s mb).1 .ledger (by decide)

@[simp] theorem State.cmdView_unc (s : State) (mb : Nat) : (s.cmdView mb).unc = s.unc := by
  unfold State.unc State.accrued600
  simp

end Sys2Proof.Machine
end

section
/-!
The operations of Moraine on the ring and on what waits (R313, R314, R317, R318): what each leaves of the entries held, of the
queue and the pending area, and of the low-space mode.
-/
namespace Sys2Proof.Machine

@[simp] theorem State.raise_ledger (g src : Nat) (s : State) : (s.raise g src).ledger = s.ledger :=
  (State.raise_moves g src s).1 .ledger (by decide)

/-! ### The ring -/

/-- An entry as the ring takes it: with the next seq, the link to the last entry, and its mac (R313). -/
def Ledger.stamped (l : Ledger) (key : List Byte) (e : Entry) : Entry :=
  let e1 := { e with seq := l.head, link := l.lastMac }
  { e1 with mac := (Aes.cmac key e1.bytes).take 12 }

/-- The ledger with one entry more in its ring (R313, R316). -/
def Ledger.put (l : Ledger) (w : Entry) : Ledger :=
  { l with ring := l.ring ++ [w], head := l.head + 1, lastMac := w.mac.take 4, lastEntry := (w.ns, w.unc) }

theorem State.ringPut_eq (key : List Byte) (e : Entry) (s : State) : s.ringPut key e =
    if 0xFFFFFFFF ≤ s.ledger.head then s
    else (s.modLedger fun l => l.put (s.ledger.stamped key e)).lowCheck e.type := rfl

/-- The check for low space changes its mode alone, and that only where 512 places or less are free (R317). -/
theorem State.lowCheck_ledger (t : Nat) (s : State) : (s.lowCheck t).ledger = s.ledger ∨
    (s.ledger.freeCount ≤ 512 ∧ (s.lowCheck t).ledger = { s.ledger with lowSpace := true }) := by
  unfold State.lowCheck
  split
  · next h => exact .inr ⟨h.2.2, by simp⟩
  · exact .inl rfl

/-- An entry goes to the end of the ring, and low-space mode begins where it must (R313, R317). -/
theorem State.ringPut_ledger (key : List Byte) (e : Entry) (s : State) : (s.ringPut key e).ledger = s.ledger ∨
    (s.ringPut key e).ledger = s.ledger.put (s.ledger.stamped key e) ∨
    ((s.ledger.put (s.ledger.stamped key e)).freeCount ≤ 512 ∧
      (s.ringPut key e).ledger = { s.ledger.put (s.ledger.stamped key e) with lowSpace := true }) := by
  rw [State.ringPut_eq]
  split
  · exact .inl rfl
  · exact .inr (State.lowCheck_ledger e.type _)

theorem State.ringPut_ring {key : List Byte} {e : Entry} {s : State} (h : s.ledger.head < 0xFFFFFFFF) :
    (s.ringPut key e).ledger.ring = s.ledger.ring ++ [s.ledger.stamped key e] := by
  rw [State.ringPut_eq, if_neg (Nat.not_le.mpr h)]
  rcases State.lowCheck_ledger e.type (s.modLedger fun l => l.put (s.ledger.stamped key e)) with hl | ⟨-, hl⟩
  · rw [hl]; rfl
  · rw [hl]; rfl

/-- A critical entry with a place free goes straight to the ring (R317). -/
theorem State.ringAppend_critical {key : List Byte} {e : Entry} {s : State} (he : e.critical = true)
    (hf : s.ledger.ring.length < 12288) : s.ringAppend key e = s.ringPut key e := by
  have hfree : s.ledger.freeCount ≠ 0 := by unfold Ledger.freeCount ringSize; omega
  unfold State.ringAppend
  rw [if_pos he, if_neg hfree]

/-! ### What waits -/

/-- The queue and the pending area are the same in both states. -/
structure SameWaiting (s t : State) : Prop where
  queue : t.ledger.queue = s.ledger.queue
  area : t.ledger.area = s.ledger.area

theorem SameWaiting.trans {s t u : State} (h : SameWaiting s t) (k : SameWaiting t u) : SameWaiting s u :=
  ⟨k.queue.trans h.queue, k.area.trans h.area⟩

theorem SameWaiting.of_ledger {s t : State} (h : t.ledger = s.ledger) : SameWaiting s t := by
  constructor <;> rw [h]

theorem SameWaiting.refl (s : State) : SameWaiting s s := .of_ledger rfl

theorem SameWaiting.ite {s x y : State} {c : Prop} [Decidable c] (h : SameWaiting s x) (k : SameWaiting s y) :
    SameWaiting s (if c then x else y) := by
  split
  · exact h
  · exact k

theorem SameWaiting.foldl {α : Type} {f : State → α → State} (hf : ∀ u x, SameWaiting u (f u x)) (xs : List α)
    (s : State) : SameWaiting s (xs.foldl f s) := by
  induction xs generalizing s with
  | nil => exact .refl s
  | cons x xs ih => exact (hf s x).trans (ih (f s x))

theorem State.ringPut_sameWaiting (key : List Byte) (e : Entry) (s : State) : SameWaiting s (s.ringPut key e) := by
  rcases s.ringPut_ledger key e with h | h | ⟨-, h⟩ <;> constructor <;> rw [h] <;> rfl

theorem State.compact_sameWaiting (e : Entry) (s : State) : SameWaiting s (s.compact e) := by
  unfold State.compact
  refine SameWaiting.trans ?_ (State.ringPut_sameWaiting _ _ _)
  constructor <;> rw [State.raise_ledger] <;> rfl

/-- An entry that is appended with a key at hand leaves what waits as it is (R314). -/
theorem State.ringAppend_sameWaiting (key : List Byte) (e : Entry) (s : State) : SameWaiting s (s.ringAppend key e) := by
  unfold State.ringAppend
  have critical := (SameWaiting.ite (c := s.ledger.freeCount = 0) (s.compact_sameWaiting e) (.refl s)).trans
    (State.ringPut_sameWaiting key e _)
  have put := s.ringPut_sameWaiting key e
  exact .ite critical (.ite (.ite ⟨rfl, rfl⟩ put) (.ite ⟨rfl, rfl⟩ put))

theorem State.drainOne_sameWaiting (e : Entry) (s : State) : SameWaiting s (s.drainOne e) := by
  unfold State.drainOne
  split
  · exact s.ringAppend_sameWaiting _ e
  · exact .refl s

theorem State.tallyDue_sameWaiting (s : State) : SameWaiting s s.tallyDue := by
  unfold State.tallyDue State.putTally
  split
  · refine .ite (.ite (.refl s) ?_) (.refl s)
    exact (s.ringAppend_sameWaiting _ _).trans ⟨rfl, rfl⟩
  · exact .refl s

/-- Nothing waits any more. -/
def State.emptied (s : State) : State := s.modLedger fun l => { l with queue := [], area := [] }

/-- No entry counts as displaced any more. -/
def State.undisplaced (s : State) : State :=
  s.modLedger fun l => { l with displaced := 0, dispFirst := 0, dispLast := 0, dispTypes := 0 }

theorem State.undisplaced_sameWaiting (s : State) : SameWaiting s s.undisplaced := ⟨rfl, rfl⟩

/-- An entry of the pending area is appended, after the OVERFLOW entry where it is the last critical one (R314). -/
def State.drainArea (s : State) (t : State) (e : Entry) : State :=
  (if s.ledger.displaced ≠ 0 ∧ some e = (s.ledger.area.filter Entry.critical).getLast? then
    t.drainOne (s.madeFor e s.overflowEntry) else t).drainOne e

/-- With a key at hand the queue is appended, then the pending area (R314). -/
theorem State.drainWaiting_keyed {s : State} (h : s.chainKey s.tbu.epoch ≠ none) : s.drainWaiting =
    (s.ledger.area.foldl s.drainArea (s.ledger.queue.foldl (fun t e => t.drainOne e) s.emptied)).undisplaced := by
  unfold State.drainWaiting
  exact if_neg (by simpa using h)

/-- Once a key is at hand nothing is left waiting (R314). -/
theorem State.drainLedger_waiting {s : State} (h : s.chainKey s.tbu.epoch ≠ none) :
    s.drainLedger.ledger.queue = [] ∧ s.drainLedger.ledger.area = [] := by
  have hqueue : SameWaiting s.emptied (s.ledger.queue.foldl (fun t e => t.drainOne e) s.emptied) :=
    .foldl (fun u e => u.drainOne_sameWaiting e) _ _
  have harea (t : State) : SameWaiting t (s.ledger.area.foldl s.drainArea t) :=
    .foldl (fun u e => (SameWaiting.ite (u.drainOne_sameWaiting _) (.refl u)).trans (State.drainOne_sameWaiting e _)) _ t
  obtain ⟨hq, ha⟩ : SameWaiting s.emptied s.drainLedger := by
    unfold State.drainLedger
    rw [State.drainWaiting_keyed h]
    exact ((hqueue.trans (harea _)).trans (State.undisplaced_sameWaiting _)).trans (State.tallyDue_sameWaiting _)
  exact ⟨hq, ha⟩

/-- Without a key for the present epoch nothing is appended (R314). -/
theorem State.drainLedger_keyless {s : State} (h : s.chainKey s.tbu.epoch = none) : s.drainLedger = s := by
  have hwaits : s.drainWaiting = s := by
    unfold State.drainWaiting
    rw [h]
    rfl
  unfold State.drainLedger
  rw [hwaits]
  unfold State.tallyDue
  rw [h]

/-- No TALLY follows where every count is 0 (R314). -/
theorem State.tallyDue_zero {s : State} (h : s.ledger.tally = [0, 0, 0, 0, 0]) : s.tallyDue = s := by
  unfold State.tallyDue State.putTally
  split
  · simp [h]
  · rfl

/-- The one critical entry that waits goes to the ring with the key of its own epoch, and no TALLY follows where the tally is
empty (R314). -/
theorem State.drainLedger_one {s : State} {e : Entry} {key : List Byte} (hq : s.ledger.queue = [e]) (ha : s.ledger.area = [])
    (hk : s.chainKey s.tbu.epoch ≠ none) (hke : s.chainKey e.epoch = some key) (he : e.critical = true)
    (hf : s.ledger.ring.length < 12288) (hh : s.ledger.head < 0xFFFFFFFF) (ht : s.ledger.tally = [0, 0, 0, 0, 0]) :
    s.drainLedger.ledger.ring = s.ledger.ring ++ [s.ledger.stamped key e] := by
  have hone : s.emptied.drainOne e = s.emptied.ringPut key e := by
    unfold State.drainOne
    rw [show s.emptied.chainKey e.epoch = some key from hke]
    exact State.ringAppend_critical he hf
  have hwaiting : s.drainWaiting = (s.emptied.ringPut key e).undisplaced := by
    rw [State.drainWaiting_keyed hk, hq, ha, ← hone]
    rfl
  have htally : (s.emptied.ringPut key e).undisplaced.ledger.tally = [0, 0, 0, 0, 0] := by
    rcases s.emptied.ringPut_ledger key e with h | h | ⟨-, h⟩ <;> exact (congrArg Ledger.tally h).trans ht
  unfold State.drainLedger
  rw [hwaiting, State.tallyDue_zero htally]
  exact State.ringPut_ring (s := s.emptied) hh

/-! ### The end of low-space mode -/

/-- At most `n` entries are held, the earlier ones still among them, with low-space mode ended and no pair pending. -/
structure Ledger.Roomy (kept : List Entry) (n : Nat) (l : Ledger) : Prop where
  count : l.ring.length ≤ n
  held : kept ⊆ l.ring
  normal : l.lowSpace = false
  unpaired : l.pair = none

namespace Ledger.Roomy
variable {kept : List Entry} {n : Nat} {s : State}

theorem mono {m : Nat} {l : Ledger} (h : l.Roomy kept n) (hm : n ≤ m) : l.Roomy kept m :=
  { h with count := Nat.le_trans h.count hm }

/-- What waits and the tally have no part in it. -/
theorem of_same {a b : Ledger} (h : a.Roomy kept n) (hring : b.ring = a.ring) (hlow : b.lowSpace = a.lowSpace)
    (hpair : b.pair = a.pair) : b.Roomy kept n := by
  obtain ⟨hcount, hheld, hnormal, hunpaired⟩ := h
  exact ⟨hring ▸ hcount, hring ▸ hheld, hlow.trans hnormal, hpair.trans hunpaired⟩

theorem put {l : Ledger} (h : l.Roomy kept n) (w : Entry) : (l.put w).Roomy kept (n + 1) where
  count := by simpa [Ledger.put] using h.count
  held := List.Subset.trans h.held (List.subset_append_left _ _)
  normal := h.normal
  unpaired := h.unpaired

/-- Well above 512 free places another entry does not begin low-space mode. -/
theorem ringPut (h : s.ledger.Roomy kept n) (hn : n < 11775) (key : List Byte) (e : Entry) :
    (s.ringPut key e).ledger.Roomy kept (n + 1) := by
  have hput := h.put (s.ledger.stamped key e)
  rcases s.ringPut_ledger key e with hl | hl | ⟨hfree, -⟩
  · exact hl ▸ h.mono (Nat.le_succ n)
  · exact hl ▸ hput
  · have hcount := hput.count
    unfold Ledger.freeCount ringSize at hfree
    omega

theorem ringAppend (h : s.ledger.Roomy kept n) (hn : n < 11775) (key : List Byte) (e : Entry) :
    (s.ringAppend key e).ledger.Roomy kept (n + 1) := by
  have hput := h.ringPut hn key e
  by_cases he : e.critical = true
  · have hcount := h.count
    rw [State.ringAppend_critical he (by omega)]
    exact hput
  · have : s.ringAppend key e = s.ringPut key e := by
      unfold State.ringAppend
      simp [he, h.normal]
    rwa [this]

theorem tallyUps (h : s.ledger.Roomy kept n) (out : List Entry) :
    (out.foldl (fun (t : State) x => t.tallyUp x.type) s).ledger.Roomy kept n := by
  induction out generalizing s with
  | nil => exact h
  | cons x out ih => exact ih (h.of_same rfl rfl rfl)

theorem ledgerPair (h : s.ledger.Roomy kept n) (hn : n + 1 < 11775) (e c : Entry) :
    (s.ledgerPair e c).ledger.Roomy kept (n + 2) := by
  have hsame {l : Ledger} (hring : l.ring = s.ledger.ring) (hlow : l.lowSpace = s.ledger.lowSpace)
      (hpair : l.pair = s.ledger.pair) : l.Roomy kept (n + 2) := (h.of_same hring hlow hpair).mono (by omega)
  unfold State.ledgerPair
  dsimp only
  split
  · exact (h.ringAppend (by omega) _ e).ringAppend hn _ c
  · split
    · exact hsame rfl rfl rfl
    · split
      · exact hsame rfl rfl rfl
      · split
        · exact tallyUps (s := s.modLedger _) (hsame rfl rfl rfl) _
        · exact hsame rfl rfl rfl

theorem tallyDue (h : s.ledger.Roomy kept n) (hn : n < 11775) : s.tallyDue.ledger.Roomy kept (n + 1) := by
  have hsame := h.mono (Nat.le_succ n)
  unfold State.tallyDue State.putTally
  split
  · split
    · split
      · exact hsame
      · exact (h.ringAppend hn _ _).of_same rfl rfl rfl
    · exact hsame
  · exact hsame

end Ledger.Roomy

theorem State.lowEnd_normal {s : State} (h : s.ledger.lowSpace = false) : s.lowEnd = s := by
  unfold State.lowEnd
  rw [h, Bool.false_and, if_neg Bool.false_ne_true]

theorem State.lowEnd_full {s : State} (h : s.ledger.freeCount ≤ 1024) : s.lowEnd = s := by
  unfold State.lowEnd
  rw [decide_eq_false (Nat.not_lt.mpr h), Bool.and_false, if_neg Bool.false_ne_true]

/-- Low-space mode ended, before the pending pair is appended (R317). -/
def State.spaceNormal (s : State) : State := (s.modLedger fun l => { l with lowSpace := false, pair := none }).raise 7 2

theorem State.spaceNormal_roomy {s : State} {n : Nat} (h : s.ledger.ring.length ≤ n) :
    s.spaceNormal.ledger.Roomy s.ledger.ring n := by
  unfold State.spaceNormal
  rw [State.raise_ledger]
  exact ⟨h, List.Subset.refl _, rfl, rfl⟩

/-- Above 1,024 free places low-space mode ends with every held entry still held and no pair pending (R317). -/
theorem State.lowEnd_ends {s : State} (hlow : s.ledger.lowSpace = true) (hfree : s.ledger.ring.length < 11264) :
    s.lowEnd.ledger.Roomy s.ledger.ring 11266 := by
  have hu : s.spaceNormal.ledger.Roomy s.ledger.ring 11263 := State.spaceNormal_roomy (Nat.le_of_lt_succ hfree)
  have hend {v : State} (hv : v.ledger.Roomy s.ledger.ring 11265) :
      (if v.ledger.head = s.ledger.head then v else v.raise 7 6).tallyDue.ledger.Roomy s.ledger.ring 11266 := by
    refine Ledger.Roomy.tallyDue ?_ (by decide)
    split
    · exact hv
    · rwa [State.raise_ledger]
  have hcount : 1024 < s.ledger.freeCount := by unfold Ledger.freeCount ringSize; omega
  unfold State.lowEnd
  rw [if_pos (Bool.and_eq_true_iff.mpr ⟨hlow, decide_eq_true hcount⟩)]
  refine hend ?_
  split
  · exact hu.ledgerPair (by decide) _ _
  · exact hu.mono (by decide)

end Sys2Proof.Machine
end

section
/-!
The health log (R468, R513, R514): what an entry changes, and what those of the ended hours and of the ports come to.
-/
namespace Sys2Proof.Machine

@[simp] theorem State.raise_health (g src : Nat) (s : State) : (s.raise g src).health = s.health :=
  (State.raise_moves g src s).1 .health (by decide)

@[simp] theorem State.ledgerAdd_health (type aux : Nat) (body : List Byte) (s : State) :
    (s.ledgerAdd type aux body).health = s.health := (State.ledgerAdd_moves type aux body s).1 .health (by decide)

@[simp] theorem State.drawn_health (s : State) : s.drawn.health = s.health := rfl

@[simp] theorem State.drawn_ledger (s : State) : s.drawn.ledger = s.ledger := rfl

/-- An entry takes the next seq at the end of the log, whose oldest makes room (R513). -/
theorem State.healthPut_health (r : HealthRec) (s : State) : (s.healthPut r).health =
    { s.health with
      log := (s.health.log ++ [{ r with seq := s.health.next }]).drop (s.health.log.length + 1 - 2048)
      lost := s.health.lost + (s.health.log.length + 1 - 2048)
      next := s.health.next + 1, lastCode := r.code, since := satAdd 0xFFFF s.health.since 1 } := by
  unfold State.healthPut
  dsimp only
  split
  · rw [State.ledgerAdd_health, State.raise_health]; rfl
  · rw [State.raise_health]; rfl

theorem State.healthPut_getLast (r : HealthRec) (s : State) :
    (s.healthPut r).health.log.getLast? = some { r with seq := s.health.next } := by
  have hlen : ¬(s.health.log ++ [{ r with seq := s.health.next }]).length ≤ s.health.log.length + 1 - 2048 := by
    rw [List.length_append, List.length_singleton]
    omega
  rw [State.healthPut_health, List.getLast?_drop, if_neg hlen, List.getLast?_concat]

/-- An entry whose code is not marked stays out of Moraine (R514). -/
theorem State.healthPut_unmarked {r : HealthRec} (h : ledgerCodes.contains r.code = false) (s : State) :
    (s.healthPut r).ledger = s.ledger := by
  unfold State.healthPut
  dsimp only
  rw [if_neg (by rw [h]; decide), State.raise_ledger, State.modHealth_ledger]

/-- A code that is neither summarised nor marked is entered at once, and in the health log alone (R514). -/
theorem State.healthFree_unmarked {code : Nat} (hs : summarisedCodes.contains code = false)
    (hl : ledgerCodes.contains code = false) (unit action : Nat) (s : State) :
    (s.healthFree code unit action).ledger = s.ledger ∧ (s.healthFree code unit action).health.next = s.health.next + 1 ∧
      (s.healthFree code unit action).health.lastCode = code := by
  unfold State.healthFree State.health1
  dsimp only
  rw [if_neg (by rw [hs]; decide), State.drawn_ledger, State.drawn_health, State.healthPut_unmarked hl,
    State.healthPut_health]
  exact ⟨rfl, rfl, rfl⟩

/-! ### HEALTH_SUMMARY_HOUR -/

/-- The hour of a summary has ended (R514). -/
def State.hourPast (s : State) (r : HealthRec) : Bool := r.epoch != s.tbu.epoch || decide (hourOf r.ns < hourOf s.now)

theorem doHealthSummaryHour_eq (s : State) : doHealthSummaryHour s =
    (s.health.sums.filter s.hourPast).foldl (fun (t : State) r => t.healthPut r)
      (s.modHealth fun h => { h with sums := h.sums.filter fun r => !s.hourPast r }) := rfl

theorem State.hourPast_iff (s : State) (r : HealthRec) :
    s.hourPast r = true ↔ r.epoch ≠ s.tbu.epoch ∨ hourOf r.ns < hourOf s.now := by
  simp [State.hourPast]

/-- While every summary is of the present hour nothing is entered (R514). -/
theorem doHealthSummaryHour_running {s : State}
    (h : ∀ r, r ∈ s.health.sums → r.epoch = s.tbu.epoch ∧ hourOf s.now ≤ hourOf r.ns) : doHealthSummaryHour s = s := by
  have hpresent : ∀ r, r ∈ s.health.sums → s.hourPast r = false := by
    intro r hr
    obtain ⟨hepoch, hhour⟩ := h r hr
    rw [Bool.eq_false_iff, Ne, State.hourPast_iff]
    omega
  have hdue : s.health.sums.filter s.hourPast = [] := List.filter_eq_nil_iff.mpr fun r hr => by simp [hpresent r hr]
  have hkept : (s.health.sums.filter fun r => !s.hourPast r) = s.health.sums :=
    List.filter_eq_self.mpr fun r hr => by simp [hpresent r hr]
  rw [doHealthSummaryHour_eq, hdue, List.foldl_nil]
  show { s with health := { s.health with sums := s.health.sums.filter fun r => !s.hourPast r } } = s
  rw [hkept]

/-- The summary of one ended hour is entered as it stands (R514). -/
theorem doHealthSummaryHour_ended {r : HealthRec} {s : State} (hs : s.health.sums = [r])
    (h : r.epoch ≠ s.tbu.epoch ∨ hourOf r.ns < hourOf s.now) :
    doHealthSummaryHour s = (s.modHealth fun x => { x with sums := [] }).healthPut r := by
  have hpast : s.hourPast r = true := (s.hourPast_iff r).mpr h
  rw [doHealthSummaryHour_eq, hs]
  unfold State.modHealth
  simp [hs, hpast]

/-! ### STATISTICS_HOUR -/

/-- The counts of the ports are one unmarked entry each (R468). -/
theorem State.enterPorts_entries (ps : List Nat) (s : State) :
    (ps.foldl (fun (t : State) p => t.healthFree 0x0090 p 7) s).ledger = s.ledger ∧
      (ps.foldl (fun (t : State) p => t.healthFree 0x0090 p 7) s).health.next = s.health.next + ps.length := by
  induction ps generalizing s with
  | nil => exact ⟨rfl, rfl⟩
  | cons p ps ih =>
    obtain ⟨hledger, hnext, -⟩ := State.healthFree_unmarked (code := 0x0090) (by decide) (by decide) p 7 s
    obtain ⟨ihledger, ihnext⟩ := ih (s.healthFree 0x0090 p 7)
    refine ⟨ihledger.trans hledger, ihnext.trans ?_⟩
    rw [hnext, List.length_cons]
    omega

theorem State.enterStatistics_entries (s : State) : s.enterStatistics.ledger = s.ledger ∧
    s.enterStatistics.health.next = s.health.next + 6 ∧ s.enterStatistics.health.lastCode = 0x0090 := by
  obtain ⟨hledger, hnext⟩ := s.enterPorts_entries (List.range 6)
  obtain ⟨-, -, hcode⟩ := State.healthFree_unmarked (code := 0x0090) (by decide) (by decide) 5 7
    ((List.range 5).foldl (fun (t : State) p => t.healthFree 0x0090 p 7) s)
  refine ⟨hledger, hnext, ?_⟩
  unfold State.enterStatistics
  rwa [List.range_succ, List.foldl_append]

end Sys2Proof.Machine
end

section
/-!
Credit messages (R62, R309 to R311, R321): the seqs accepted from lessors, the decision that is evaluated while no presence is
verified, and what a message that passes or fails its checks leaves.
-/
namespace Sys2Proof.Machine

/-! ### The signed fields of a payload -/

theorem leNat_lt (bs : List Byte) : leNat bs < 256 ^ bs.length := by
  induction bs with
  | nil => decide
  | cons b bs ih =>
    have hb : b.toNat < 256 := b.isLt
    rw [leNat, List.length_cons, Nat.pow_succ]
    omega

/-- A signed 8-byte field lies below 2^63 (R444). -/
theorem iAt_eight_lt (p : List Byte) (off : Nat) : iAt p off 8 < 2 ^ 63 := by
  have hlen : (slice p off 8).length ≤ 8 := List.length_take_le _ _
  have hlt : uAt p off 8 < 2 ^ 64 :=
    Nat.lt_of_lt_of_le (leNat_lt (slice p off 8)) (Nat.pow_le_pow_right (by decide) hlen)
  unfold iAt signedOf
  split <;> omega

/-! ### The seqs accepted from lessors -/

/-- The seqs accepted are the same in both states. -/
def SameSeqs (s t : State) : Prop := t.parts.lessorSeq = s.parts.lessorSeq

theorem SameSeqs.refl (s : State) : SameSeqs s s := rfl

theorem SameSeqs.trans {s t u : State} (h : SameSeqs s t) (k : SameSeqs t u) : SameSeqs s u := Eq.trans k h

theorem SameSeqs.of_moves {ps : List Part} {s t : State} (h : Moves ps s t) (hp : Part.parts ∉ ps := by decide) :
    SameSeqs s t := by
  unfold SameSeqs
  rw [h.1 .parts hp]

theorem SameSeqs.ite {s x y : State} {c : Prop} [Decidable c] (h : SameSeqs s x) (k : SameSeqs s y) :
    SameSeqs s (if c then x else y) := by
  split
  · exact h
  · exact k

theorem SameSeqs.lastSeq {s t : State} (h : SameSeqs s t) (lessor : Nat) : t.lastSeq lessor = s.lastSeq lessor := by
  unfold State.lastSeq
  rw [show t.parts.lessorSeq = s.parts.lessorSeq from h]

theorem State.writeRec_sameSeqs (i : Nat) (r : PartRec) (s : State) : SameSeqs s (s.writeRec i r) := rfl

theorem State.dropRec_sameSeqs (i : Nat) (s : State) : SameSeqs s (s.dropRec i) := rfl

theorem State.summarise_sameSeqs (ident attach : Nat) (high : Bool) (s : State) :
    SameSeqs s (s.summarise ident attach high) := rfl

theorem State.changeRec_sameSeqs (i : Nat) (old new : PartRec) (s : State) : SameSeqs s (s.changeRec i old new) := by
  unfold State.changeRec
  exact (SameSeqs.ite (s.dropRec_sameSeqs i) (s.writeRec_sameSeqs i new)).trans (.of_moves (State.noteChange_moves old new _))

theorem State.evalIdentity_sameSeqs (ident : Nat) (s : State) : SameSeqs s (s.evalIdentity ident) := by
  unfold State.evalIdentity
  split
  · exact .ite (s.changeRec_sameSeqs _ _ _) (.ite (.refl s) (s.writeRec_sameSeqs _ _))
  · exact .refl s

theorem State.verifiedExchange_sameSeqs (ident : Nat) (s : State) : SameSeqs s (s.verifiedExchange ident) := by
  unfold State.verifiedExchange
  split
  · exact .ite (s.changeRec_sameSeqs _ _ _) (s.writeRec_sameSeqs _ _)
  · exact .refl s

/-- A counted failure of a partner alone accepts no seq. -/
theorem State.countFailure_sameSeqs (kind code ident : Nat) (s : State) :
    SameSeqs s (s.countFailure kind code ident none) := by
  have events (t : State) : SameSeqs t ((t.raise 2 2).raise 2 3) :=
    .trans (.of_moves (t.raise_moves 2 2)) (.of_moves (State.raise_moves 2 3 _))
  have entered (aux : Nat) (body : List Byte) (t : State) : SameSeqs t (t.ledgerAdd 0x20 aux body) :=
    .of_moves (t.ledgerAdd_moves 0x20 aux body)
  unfold State.countFailure
  cases s.recAt ident with
  | none => exact (events s).trans (.ite (.refl _) (entered _ _ _))
  | some p =>
    exact (((s.writeRec_sameSeqs _ _).trans (events _)).trans (.ite (.refl _) (entered _ _ _))).trans
      (State.summarise_sameSeqs _ _ _ _)

/-! ### The decision while no presence is verified -/

@[simp] theorem State.raise_rel (g src : Nat) (s : State) : (s.raise g src).rel = s.rel := (s.raise_moves g src).rel (by decide)

@[simp] theorem State.ledgerAdd_rel (type aux : Nat) (body : List Byte) (s : State) :
    (s.ledgerAdd type aux body).rel = s.rel := (s.ledgerAdd_moves type aux body).rel (by decide)

/-- The decision and its entries alone move, and the presences verified stay. -/
structure Decides (s t : State) : Prop where
  moves : Moves [.evc, .rel, .ledger] s t
  presence : t.rel.presence = s.rel.presence

namespace Decides

theorem refl (s : State) : Decides s s := ⟨.refl _ s, rfl⟩

theorem trans {s t u : State} (h : Decides s t) (k : Decides t u) : Decides s u :=
  ⟨h.moves.trans k.moves, k.presence.trans h.presence⟩

theorem ite {s x y : State} {c : Prop} [Decidable c] (h : Decides s x) (k : Decides s y) : Decides s (if c then x else y) := by
  split
  · exact h
  · exact k

theorem modRel (s : State) {f : Rel → Rel} (hf : (f s.rel).presence = s.rel.presence) : Decides s (s.modRel f) :=
  ⟨.mono (by decide) (s.modRel_moves f), hf⟩

theorem moveTo (d : Decision) (s : State) : Decides s (s.moveTo d) := by
  refine ⟨s.moveTo_moves d, ?_⟩
  unfold State.moveTo
  dsimp only
  have hcause : (if s.rel.st = .released ∧ d ≠ .revoking then s.dropCause causeIdle else s).rel.presence = s.rel.presence := by
    split <;> rfl
  split
  · rw [State.raise_rel, State.raise_rel, State.ledgerAdd_rel]; exact hcause
  · rw [State.raise_rel, State.ledgerAdd_rel]; exact hcause

theorem applyMode (s : State) : Decides s s.applyMode := by
  unfold State.applyMode
  exact .ite (modRel s rfl) (refl s)

theorem addCause (b : Nat) (s : State) : Decides s (s.addCause b) := modRel s rfl

theorem dropCause (b : Nat) (s : State) : Decides s (s.dropCause b) := modRel s rfl

theorem ownCauses (s : State) : Decides s s.ownCauses := by
  unfold State.ownCauses
  refine .ite (refl s) (.trans (.ite (addCause _ s) (refl s)) (.ite (addCause _ _) (refl _)))

/-- With no presence verified there is nothing to grant (R40, R223). -/
theorem decideOnce {s : State} (h : s.rel.presence = []) (at226 : Bool) : Decides s (s.decideOnce at226) := by
  have hgrant : s.tryGrant = s := by
    unfold State.tryGrant State.qualifying
    simp [h]
  have stay : Decides s s := refl s
  have move (d : Decision) : Decides s (s.moveTo d) := moveTo d s
  unfold State.decideOnce
  dsimp only
  split
  · exact .ite (move _) stay
  · rw [hgrant]
    exact .ite (move _) stay
  · exact .ite (move _) (.ite (move _) stay)
  · exact .ite stay (.ite (move _) (move _))
  · exact .ite stay (.ite (move _) (.ite (move _) stay))

theorem evalDecision {s : State} (h : s.rel.presence = []) : Decides s s.evalDecision := by
  have again {t : State} (k : Decides s t) : Decides s (t.decideOnce false) := k.trans (decideOnce (k.presence.trans h) false)
  unfold State.evalDecision State.evalWith
  exact .ite (refl s) (again (again (again (again ((applyMode s).trans (ownCauses _))))))

end Decides

/-! ### A message that passes -/

/-- The balance that a credit message leaves (R310). -/
def State.creditedBalance (s : State) (p : List Byte) : Int :=
  if uAt p 1 1 = 2 then iAt p 24 8 else s.met.balance + iAt p 24 8

/-- The balance of the message is set, its seq is recorded for the lessor, and both are committed (R309, R311). -/
def State.takeCredit (p : List Byte) (s : State) : State :=
  ((s.setBalance (s.creditedBalance p)).modParts fun x =>
    { x with lessorSeq := (x.lessorSeq.filter fun q => q.1 != uAt p 16 8) ++ [(uAt p 16 8, uAt p 4 4)] }).modMet fun m =>
    { m with comBalance := m.balance, comGrace := m.grace }

/-- The entry and the event of an applied message, and the verified exchange that it is (R62, R311). -/
def State.noteCredit (p : List Byte) (s : State) : State :=
  ((s.ledgerAdd 0x60 (uAt p 1 1) (slice p 4 4 ++ slice p 24 8 ++ slice p 32 8)).raise 7 4).verifiedExchange (uAt p 16 8)

theorem State.applyCredit_eq (p : List Byte) (s : State) : s.applyCredit p =
    (if ((s.takeCredit p).noteCredit p).creditMet then ((s.takeCredit p).noteCredit p).dropCause causeCredit
      else (s.takeCredit p).noteCredit p).evalDecision := rfl

theorem State.noteCredit_moves (p : List Byte) (s : State) : Moves [.evc, .parts, .ledger] s (s.noteCredit p) :=
  ((Moves.mono (by decide) (s.ledgerAdd_moves _ _ _)).trans (.mono (by decide) (State.raise_moves 7 4 _))).trans
    (State.verifiedExchange_moves _ _)

theorem State.noteCredit_sameSeqs (p : List Byte) (s : State) : SameSeqs s (s.noteCredit p) :=
  ((SameSeqs.of_moves (s.ledgerAdd_moves _ _ _)).trans (.of_moves (State.raise_moves 7 4 _))).trans
    (State.verifiedExchange_sameSeqs _ _)

/-- The balance of a well-formed message fits its 64 bits where a top-up does not overflow (R309, R310). -/
theorem State.creditedBalance_fits {s : State} {p : List Byte} (hform : creditForm p = true) (hlow : -(2 ^ 63) ≤ s.met.balance)
    (htop : uAt p 1 1 = 1 → s.met.balance + iAt p 24 8 < 2 ^ 63) :
    -(2 ^ 63) ≤ s.creditedBalance p ∧ s.creditedBalance p < 2 ^ 63 := by
  have hhigh := iAt_eight_lt p 24
  unfold creditForm at hform
  simp only [Bool.and_eq_true, Bool.or_eq_true, beq_iff_eq] at hform
  obtain ⟨⟨⟨-, hkind⟩, -⟩, hamount⟩ := hform
  unfold State.creditedBalance
  rcases hkind with hone | htwo
  · have hsum := htop hone
    rw [hone] at hamount ⊢
    have hpos : 0 < iAt p 24 8 := by simpa using hamount
    rw [if_neg (by decide)]
    omega
  · rw [htwo] at hamount ⊢
    have hge : -(2 ^ 62) ≤ iAt p 24 8 := by simpa using hamount
    rw [if_pos rfl]
    omega

section
variable {s : State} {p : List Byte}

/-- A balance that fits is taken as it is (R309). -/
theorem State.setBalance_fits {v : Int} (hlow : -(2 ^ 63) ≤ v) (hhigh : v < 2 ^ 63) (s : State) :
    s.setBalance v = s.modMet fun m =>
      { m with balance := v, grace := if 0 < m.balance ∧ v ≤ 0 then some (s.now, s.tbu.epoch) else m.grace } := by
  have hfits : (decide (-(2 ^ 63) ≤ v) && decide (v < 2 ^ 63)) = true := by
    rw [decide_eq_true hlow, decide_eq_true hhigh]
    rfl
  unfold State.setBalance
  simp only [hfits, if_true]

theorem State.takeCredit_lastSeq (p : List Byte) (s : State) : (s.takeCredit p).lastSeq (uAt p 16 8) = uAt p 4 4 := by
  have hothers (xs : List (Nat × Nat)) : (xs.filter fun q => q.1 != uAt p 16 8).find? (fun q => q.1 == uAt p 16 8) = none :=
    List.find?_eq_none.mpr (by simp)
  show ((((s.setBalance (s.creditedBalance p)).parts.lessorSeq.filter fun q => q.1 != uAt p 16 8) ++
    [(uAt p 16 8, uAt p 4 4)]).find? (fun q => q.1 == uAt p 16 8) |>.map (·.2)).getD 0 = _
  rw [List.find?_append, hothers]
  simp

/-- Where the balance fits, taking the message moves metering and the seqs alone. -/
theorem State.takeCredit_moves (hlow : -(2 ^ 63) ≤ s.creditedBalance p) (hhigh : s.creditedBalance p < 2 ^ 63) :
    Moves [.met, .parts] s (s.takeCredit p) := by
  unfold State.takeCredit
  rw [State.setBalance_fits hlow hhigh]
  exact ((Moves.mono (by decide) (State.modMet_movesAll s _ fun _ => by exact Met.keeps_of rfl)).trans
    (.mono (by decide) (State.modParts_movesAll _ _ fun _ => by exact Parts.keeps_of rfl))).trans
    (.mono (by decide) (State.modMet_movesAll _ _ fun _ => by exact Met.keeps_of rfl))

theorem State.takeCredit_met (hlow : -(2 ^ 63) ≤ s.creditedBalance p) (hhigh : s.creditedBalance p < 2 ^ 63) :
    (s.takeCredit p).met.balance = s.creditedBalance p ∧ (s.takeCredit p).met.comBalance = s.creditedBalance p ∧
      (s.takeCredit p).met.billing = s.met.billing := by
  unfold State.takeCredit
  rw [State.setBalance_fits hlow hhigh]
  exact ⟨rfl, rfl, rfl⟩

/-- What follows the taking of a message while no presence is verified moves neither metering nor the seqs. -/
theorem State.applyCredit_after (h : (s.takeCredit p).rel.presence = []) :
    Moves [.evc, .parts, .ledger, .rel] (s.takeCredit p) (s.applyCredit p) ∧ SameSeqs (s.takeCredit p) (s.applyCredit p) := by
  have hnoted := (s.takeCredit p).noteCredit_moves p
  have hpresence : ((s.takeCredit p).noteCredit p).rel.presence = [] := by rw [hnoted.rel (by decide), h]
  have hdecides : Decides ((s.takeCredit p).noteCredit p) (s.applyCredit p) := by
    rw [State.applyCredit_eq]
    have hdropped := Decides.ite (c := ((s.takeCredit p).noteCredit p).creditMet = true)
      (Decides.dropCause causeCredit ((s.takeCredit p).noteCredit p)) (.refl _)
    exact hdropped.trans (.evalDecision (hdropped.presence.trans hpresence))
  exact ⟨(hnoted.mono (by decide)).trans (hdecides.moves.mono (by decide)),
    (State.noteCredit_sameSeqs p _).trans (.of_moves hdecides.moves)⟩

/-- A well-formed message that passed its checks is applied: the balance, its committed copy and the seq (R309 to R311). -/
theorem State.applyCredit_applied (hform : creditForm p = true) (hpresence : s.rel.presence = [])
    (hlow : -(2 ^ 63) ≤ s.met.balance) (htop : uAt p 1 1 = 1 → s.met.balance + iAt p 24 8 < 2 ^ 63) :
    (s.applyCredit p).met.balance = s.creditedBalance p ∧ (s.applyCredit p).met.comBalance = s.creditedBalance p ∧
      (s.applyCredit p).met.billing = s.met.billing ∧ (s.applyCredit p).lastSeq (uAt p 16 8) = uAt p 4 4 ∧
      Moves [.met, .parts, .ledger, .rel, .evc] s (s.applyCredit p) := by
  obtain ⟨hge, hlt⟩ := State.creditedBalance_fits hform hlow htop
  have htaken := State.takeCredit_moves hge hlt
  obtain ⟨hafter, hseqs⟩ := State.applyCredit_after (by rw [htaken.rel (by decide), hpresence])
  rw [hafter.1.part .met (by decide), hseqs.lastSeq, State.takeCredit_lastSeq]
  obtain ⟨hbalance, hcommitted, hbilling⟩ := State.takeCredit_met hge hlt
  exact ⟨hbalance, hcommitted, hbilling, rfl, (htaken.mono (by decide)).trans (hafter.mono (by decide))⟩

end

/-! ### A message that fails -/

theorem State.creditCheck_refuses {s : State} {p : List Byte} {st : Nat} (h : s.creditCheck p = some st) :
    completes st = false := by
  unfold State.creditCheck at h
  dsimp only at h
  split at h
  · cases h; rfl
  · split at h
    · split at h
      · cases h; rfl
      · split at h
        · cases h; rfl
        · split at h
          · split at h
            · cases h; rfl
            · split at h
              · cases h; rfl
              · cases h
          · cases h; rfl
    · cases h; rfl

theorem State.creditCheck_malformed {s : State} {p : List Byte} (h : creditForm p = false) :
    s.creditCheck p = some Status.invalid := by
  unfold State.creditCheck
  simp [h]

theorem State.refuseCredit_invalid (p : List Byte) (s : State) : s.refuseCredit p Status.invalid = s.raise 7 5 := by
  unfold State.refuseCredit
  dsimp only
  rw [if_neg (by decide), if_neg (fun h => absurd h.1 (by decide))]

theorem State.refuseCredit_sameSeqs (p : List Byte) (st : Nat) (s : State) : SameSeqs s (s.refuseCredit p st) := by
  unfold State.refuseCredit
  refine SameSeqs.trans ?_ (.of_moves (State.raise_moves 7 5 _))
  exact .ite (s.countFailure_sameSeqs _ _ _) (.ite (.of_moves (s.ledgerAdd_moves _ _ _)) (.refl s))

end Sys2Proof.Machine
end

section
/-!
Moraine's commands and hourly rows (R309 to R321, R468, R513, R514): what each command of the family ledg comes to in the view it
runs under, from which O52 follows.
-/
namespace Sys2Proof.Machine

@[simp] theorem State.cmdView_win (s : State) (mb n : Nat) : (s.cmdView mb).win n = s.win n := by
  unfold State.win
  rw [(State.cmdView_moves s mb).1.part .fab (by decide)]

@[simp] theorem State.cmdView_mem (s : State) (mb : Nat) : (s.cmdView mb).mem = s.mem :=
  (State.cmdView_moves s mb).1 .mem (by decide)

@[simp] theorem State.physWrite_mem (a : Nat) (bs : List Byte) (s : State) :
    (s.physWrite a bs).mem = Memory.writeBytes s.mem a bs := rfl

section
variable {s : State} {mb : Nat}

/-! ### The reports and the copy of held entries -/

/-- The grace start of a state lies in an earlier epoch (R309). -/
def State.graceOld (s : State) : Bool := match s.met.grace with | some g => g.2 != s.tbu.epoch | none => false

theorem State.graceOld_iff (s : State) : s.graceOld = true ↔ ∃ g, s.met.grace = some g ∧ g.2 ≠ s.tbu.epoch := by
  unfold State.graceOld
  cases s.met.grace <;> simp

/-- The status of ledg.energy (R320). -/
theorem State.energyStatus_eq (s : State) (mb : Nat) :
    (if (s.cmdView mb).graceOld || decide ((s.cmdView mb).cfgN recMetering 19 < (s.cmdView mb).unc) then Status.timeDegraded
      else Status.ok) =
    if (∃ g, s.met.grace = some g ∧ g.2 ≠ s.tbu.epoch) ∨ (s.cmdView mb).cfgN recMetering 19 < s.unc then Status.timeDegraded
      else Status.ok := by
  refine ite_congr (propext ?_) (fun _ => rfl) fun _ => rfl
  rw [Bool.or_eq_true, State.graceOld_iff, decide_eq_true_iff]
  simp

theorem exec_ledgEnergy (h : Takes s mb 0x0B01) : exec (.ledgEnergy mb) s = .next (s.cmdBack mb ((s.cmdView mb).post mb
    (if (∃ g, s.met.grace = some g ∧ g.2 ≠ s.tbu.epoch) ∨ (s.cmdView mb).cfgN recMetering 19 < s.unc then Status.timeDegraded
      else Status.ok) (s.cmdView mb).energyBody)) := by
  rw [← State.energyStatus_eq]
  exact congrArg Host.Outcome.next (h.perform rfl _)

theorem exec_ledgStatus (h : Takes s mb 0x0B02) :
    exec (.ledgStatus mb) s = .next (s.cmdBack mb ((s.cmdView mb).post mb Status.ok s.ledgerBody)) := by
  have hbody : s.ledgerBody = (s.cmdView mb).ledgerBody := by
    unfold State.ledgerBody
    rw [State.cmdView_ledger]
  rw [hbody]
  exact congrArg Host.Outcome.next (h.perform rfl _)

/-- LEDG_EXPORT starts on a held seq alone (R320). -/
theorem Takes.seqHeld (h : Takes s mb 0x0B03) :
    s.ledger.tail ≤ uAt (s.box mb).payload 0 4 ∧ uAt (s.box mb).payload 0 4 < s.ledger.head := by
  obtain ⟨-, hown⟩ := h
  change checked wfLedgExport preLedgExport (s.cmdView mb) (s.box mb) = none at hown
  unfold checked preLedgExport refuseIf at hown
  split at hown
  · split at hown
    · cases hown
    · next hc =>
      simp only [State.cmdView_ledger, Bool.or_eq_true, decide_eq_true_eq] at hc
      omega
  · cases hown

theorem exec_ledgExport {es : List Entry} (h : Takes s mb 0x0B03) (hw : (s.box mb).hasWindow = true)
    (hes : es = (s.ledger.ring.drop (uAt (s.box mb).payload 0 4 - s.ledger.tail)).take (uAt (s.box mb).payload 4 2)) :
    exec (.ledgExport mb) s = .next (s.cmdBack mb
      (((s.cmdView mb).physWrite ((s.win (s.box mb).window).phys (uAt (s.box mb).payload 8 4)) (es.flatMap Entry.full)).post mb
        Status.ok (leBytes 2 es.length ++ zeros 2 ++ leBytes 4 ((es.head?.map (·.seq)).getD 0) ++
          leBytes 4 ((es.getLast?.map (·.seq)).getD 0)))) := by
  refine congrArg Host.Outcome.next ((h.perform rfl _).trans ?_)
  dsimp only
  unfold State.toWindow State.winWrite
  rw [if_pos hw, State.cmdView_win, State.cmdView_ledger, ← hes]

/-! ### ledg.ack -/

/-- The entries at or below a seq are freed (R316). -/
def State.freeTo (k : Nat) (s : State) : State := s.modLedger fun l => { l with ring := l.ring.filter fun e => decide (k < e.seq) }

/-- The entries at or below a seq are freed, and low-space mode ends where it can (R316, R317). -/
def State.ackTo (k : Nat) (s : State) : State := (s.freeTo k).lowEnd

theorem State.ackTo_moves (k : Nat) (s : State) : Moves [.evc, .ledger] s (s.ackTo k) :=
  (Moves.mono (by decide) (s.modLedger_movesAll _ fun _ => by exact Ledger.keeps_of rfl rfl rfl rfl)).trans
    (State.lowEnd_moves _)

theorem exec_ledgAck {k : Nat} (h : Takes s mb 0x0B04) (hk : k = uAt (s.box mb).payload 0 4) : exec (.ledgAck mb) s =
    .next (s.cmdBack mb (((s.cmdView mb).ackTo k).post mb Status.ok
      (leBytes 4 ((s.cmdView mb).ackTo k).ledger.tail ++ leBytes 2 ((s.cmdView mb).ackTo k).ledger.freeCount ++ zeros 2))) := by
  subst hk
  exact congrArg Host.Outcome.next (h.perform rfl _)

theorem State.ackTo_normal (k : Nat) (h : s.ledger.lowSpace = false) :
    (s.ackTo k).ledger = { s.ledger with ring := s.ledger.ring.filter fun e => decide (k < e.seq) } :=
  congrArg State.ledger (State.lowEnd_normal (s := s.freeTo k) h)

/-- Above 1,024 free places an acknowledgement ends low-space mode (R317). -/
theorem State.ackTo_ends {k : Nat} (hlow : s.ledger.lowSpace = true)
    (hfree : (s.ledger.ring.filter fun e => decide (k < e.seq)).length < 11264) :
    (s.ackTo k).ledger.Roomy (s.ledger.ring.filter fun e => decide (k < e.seq)) 11266 := by
  exact State.lowEnd_ends (s := s.freeTo k) hlow hfree

theorem State.ackTo_lowSpace {k : Nat} (hfree : (s.ledger.ring.filter fun e => decide (k < e.seq)).length < 11264) :
    (s.ackTo k).ledger.lowSpace = false := by
  cases hlow : s.ledger.lowSpace with
  | false => rw [State.ackTo_normal k hlow]; exact hlow
  | true => exact (State.ackTo_ends hlow hfree).normal

/-- An entry above the seq stays held (R316). -/
theorem State.ackTo_held {k : Nat} {e : Entry} (he : e ∈ s.ledger.ring) (hk : k < e.seq) : e ∈ (s.ackTo k).ledger.ring := by
  have hkept : e ∈ s.ledger.ring.filter fun e => decide (k < e.seq) := List.mem_filter.mpr ⟨he, decide_eq_true hk⟩
  cases hlow : s.ledger.lowSpace with
  | false => rw [State.ackTo_normal k hlow]; exact hkept
  | true =>
    by_cases hfree : (s.ledger.ring.filter fun e => decide (k < e.seq)).length < 11264
    · exact (State.ackTo_ends hlow hfree).held hkept
    · have hfull : (s.freeTo k).ledger.freeCount ≤ 1024 := by
        show 12288 - (s.ledger.ring.filter fun e => decide (k < e.seq)).length ≤ 1024
        omega
      unfold State.ackTo
      rwa [State.lowEnd_full hfull]

/-! ### ledg.credit -/

theorem exec_ledgCredit_waits (h : s.creditWaits mb = true) : exec (.ledgCredit mb) s = .next s :=
  congrArg Host.Outcome.next (if_pos h)

theorem State.creditWaits_malformed (h : creditForm (s.box mb).payload = false) : s.creditWaits mb = false := by
  unfold State.creditWaits State.creditKeyed
  simp [h]

/-- The state in which a message is checked: the lessor's count evaluated where the message is well formed (R63, R311). -/
def State.creditView (s : State) (mb : Nat) : State :=
  if creditForm (s.box mb).payload then (s.cmdView mb).evalIdentity (uAt (s.box mb).payload 16 8) else s.cmdView mb

theorem State.creditView_formed (h : creditForm (s.box mb).payload = true) :
    s.creditView mb = (s.cmdView mb).evalIdentity (uAt (s.box mb).payload 16 8) := if_pos h

theorem State.creditView_malformed (h : creditForm (s.box mb).payload = false) : s.creditView mb = s.cmdView mb :=
  if_neg (by simp [h])

theorem State.creditView_moves (s : State) (mb : Nat) : Moves [.evc, .parts, .ledger] (s.cmdView mb) (s.creditView mb) :=
  .ite (fun _ => State.evalIdentity_moves _ _) (fun _ => .refl _ _)

theorem State.creditView_sameSeqs (s : State) (mb : Nat) : SameSeqs (s.cmdView mb) (s.creditView mb) :=
  .ite (State.evalIdentity_sameSeqs _ _) (.refl _)

theorem exec_ledgCredit_refused {st : Nat} (h : Takes s mb 0x0B05) (hw : s.creditWaits mb = false)
    (hc : (s.creditView mb).creditCheck (s.box mb).payload = some st) : exec (.ledgCredit mb) s =
    .next (s.cmdBack mb (((s.creditView mb).refuseCredit (s.box mb).payload st).post mb st [])) := by
  refine congrArg Host.Outcome.next ((if_neg (by simp [hw])).trans ((h.perform rfl _).trans (congrArg _ ?_)))
  unfold State.creditView at hc ⊢
  simp only [hc]

theorem exec_ledgCredit_applied (h : Takes s mb 0x0B05) (hw : s.creditWaits mb = false)
    (hc : (s.creditView mb).creditCheck (s.box mb).payload = none) : exec (.ledgCredit mb) s =
    .next (s.cmdBack mb (((s.creditView mb).applyCredit (s.box mb).payload).post mb Status.ok
      (leInt 8 ((s.creditView mb).applyCredit (s.box mb).payload).met.balance ++ slice (s.box mb).payload 4 4 ++
        leBytes 1 (bit ((s.creditView mb).applyCredit (s.box mb).payload).creditMet) ++ zeros 3))) := by
  refine congrArg Host.Outcome.next ((if_neg (by simp [hw])).trans ((h.perform rfl _).trans (congrArg _ ?_)))
  unfold State.creditView at hc ⊢
  simp only [hc]

theorem State.creditMet_of_pos (h : 0 < s.met.balance) : s.creditMet = true := by
  unfold State.creditMet
  simp [h]

/-- A malformed message is refused with nothing else (R311). -/
theorem ledgCredit_malformed (h : Takes s mb 0x0B05) (hform : creditForm (s.box mb).payload = false) :
    Answers (.ledgCredit mb) s fun t => RefusedWith s t mb Status.invalid ∧ Only [.mbx, .evc, .fab] s t := by
  have hraised : (s.creditView mb).refuseCredit (s.box mb).payload Status.invalid = (s.cmdView mb).raise 7 5 := by
    rw [State.refuseCredit_invalid, State.creditView_malformed hform]
  obtain ⟨t, hexec, hrefused, -, hframe⟩ := h.refuses
    (exec_ledgCredit_refused h (State.creditWaits_malformed hform) (State.creditCheck_malformed hform))
    (hraised ▸ State.raise_moves 7 5 _) rfl
  exact ⟨t, hexec, hrefused, hframe.mono (by decide)⟩

/-- A message that fails a check posts its status and changes no balance, no decision and no seq (R311). -/
theorem ledgCredit_refused {st : Nat} (h : Takes s mb 0x0B05) (hw : s.creditWaits mb = false)
    (hc : (s.creditView mb).creditCheck (s.box mb).payload = some st) : Answers (.ledgCredit mb) s fun t =>
      RefusedWith s t mb st ∧ t.met = s.met ∧ t.rel = s.rel ∧ t.parts.lessorSeq = s.parts.lessorSeq := by
  obtain ⟨t, hexec, hrefused, hback, hframe⟩ := h.refuses (exec_ledgCredit_refused h hw hc)
    ((s.creditView_moves mb).trans (State.refuseCredit_moves _ _ _)) (State.creditCheck_refuses hc)
  refine ⟨t, hexec, hrefused, hframe .met (by decide), hframe .rel (by decide), ?_⟩
  rw [hback.part .parts (by decide)]
  exact ((SameSeqs.of_moves (State.cmdView_moves s mb)).trans (s.creditView_sameSeqs mb)).trans
    (State.refuseCredit_sameSeqs _ _ _)

/-- A message that passes changes the balance, records its seq for the lessor and is committed with it (R309 to R311). -/
theorem ledgCredit_applied (h : Takes s mb 0x0B05) (hw : s.creditWaits mb = false)
    (hform : creditForm (s.box mb).payload = true) (hc : (s.creditView mb).creditCheck (s.box mb).payload = none)
    (hpresence : s.rel.presence = []) (hlow : -(2 ^ 63) ≤ s.met.balance)
    (htop : uAt (s.box mb).payload 1 1 = 1 → s.met.balance + iAt (s.box mb).payload 24 8 < 2 ^ 63) :
    Answers (.ledgCredit mb) s fun t =>
      t.met.balance = s.creditedBalance (s.box mb).payload ∧ t.met.comBalance = t.met.balance ∧
      t.lastSeq (uAt (s.box mb).payload 16 8) = uAt (s.box mb).payload 4 4 ∧ t.met.billing = s.met.billing ∧
      (∃ m : Bool, (0 < t.met.balance → m = true) ∧ Completed s t mb Status.ok
        (leInt 8 t.met.balance ++ slice (s.box mb).payload 4 4 ++ leBytes 1 (bit m) ++ zeros 3)) ∧
      Only [.met, .parts, .ledger, .rel, .mbx, .evc, .fab] s t := by
  have hviewed := s.creditView_moves mb
  have hmet : (s.creditView mb).met = s.met := by rw [hviewed.1.part .met (by decide), State.cmdView_met]
  have hrel : (s.creditView mb).rel = s.rel := (hviewed.rel (by decide)).trans ((State.cmdView_moves s mb).rel (by decide))
  obtain ⟨hbalance, hcommitted, hbilling, hseq, hmoves⟩ :=
    State.applyCredit_applied hform (hrel ▸ hpresence) (hmet ▸ hlow) (hmet ▸ htop)
  obtain ⟨t, hexec, hcompleted, hback, hframe⟩ := h.completes (exec_ledgCredit_applied h hw hc)
    ((hviewed.mono (by decide)).trans hmoves) rfl
  have htmet : t.met = _ := hback .met (by decide)
  have htseqs : SameSeqs _ t := congrArg Parts.lessorSeq (hback .parts (by decide))
  refine ⟨t, hexec, ?_, ?_, ?_, ?_,
    ⟨((s.creditView mb).applyCredit (s.box mb).payload).creditMet, fun hpos => State.creditMet_of_pos (htmet ▸ hpos), ?_⟩,
    hframe.mono (by decide)⟩
  · rw [htmet, hbalance]
    unfold State.creditedBalance
    rw [hmet]
  · rw [htmet, hcommitted, hbalance]
  · rw [htseqs.lastSeq, hseq]
  · rw [htmet, hbilling, hmet]
  · rwa [htmet]

end

/-! ### The settlement of O52 -/

/-- Settles O52: each command by its effect in the view it runs under, each hourly row by the entries it makes. -/
theorem moraineAndLedgCommands : Obligations.MoraineAndLedgCommands := by
  unfold Obligations.MoraineAndLedgCommands
  refine ⟨?energy, ?status, ?held, ?ack, ?credit, ?waiting, ?waitingOne, ?hourRuns, ?hourEnds, ?portsEarly, ?ports⟩
  case energy =>
    intro mb s h
    obtain ⟨t, hexec, hcompleted, -, hframe⟩ := h.completes (exec_ledgEnergy h) (.refl [] _) (by split <;> rfl)
    exact ⟨t, hexec, hcompleted, hframe.mono (by decide)⟩
  case status =>
    intro mb s h
    obtain ⟨t, hexec, hcompleted, -, hframe⟩ := h.completes (exec_ledgStatus h) (.refl [] _) rfl
    exact ⟨t, hexec, hcompleted, hframe.mono (by decide)⟩
  case held =>
    intro mb p es s hp h hw hes
    subst hp
    obtain ⟨htail, hhead⟩ := h.seqHeld
    obtain ⟨t, hexec, hcompleted, hback, hframe⟩ := h.completes (exec_ledgExport h hw hes) (State.physWrite_moves _ _ _) rfl
    refine ⟨htail, hhead, t, hexec, hcompleted, ?_, hframe.mono (by decide)⟩
    rw [hback.part .mem (by decide), State.physWrite_mem, State.cmdView_mem]
  case ack =>
    intro mb k s h hk
    obtain ⟨t, hexec, hcompleted, hback, hframe⟩ := h.completes (exec_ledgAck h hk) (State.ackTo_moves k _) rfl
    have hledger : t.ledger = _ := hback .ledger (by decide)
    have hview : (s.cmdView mb).ledger = s.ledger := State.cmdView_ledger s mb
    rw [← hledger] at hcompleted
    refine ⟨t, hexec, hcompleted, ?_⟩
    rw [← hview, hledger]
    exact ⟨State.ackTo_normal k, State.ackTo_lowSpace,
      fun hlow hfree => (State.ackTo_ends hlow hfree).unpaired, fun e he => State.ackTo_held he, hframe.mono (by decide)⟩
  case credit =>
    intro mb p v s h hp
    subst hp
    refine ⟨exec_ledgCredit_waits, ledgCredit_malformed h, fun hform hw hv => ?_⟩
    rw [← State.creditView_formed hform] at hv
    subst hv
    exact ⟨fun st hc => ⟨State.creditCheck_refuses hc, ledgCredit_refused h hw hc⟩, ledgCredit_applied h hw hform⟩
  case waiting =>
    intro s
    refine ⟨?_, fun hk => ?_⟩
    · rintro (⟨hq, ha⟩ | hk)
      · exact congrArg Host.Outcome.next (if_pos (by rw [hq, ha]; rfl))
      · exact congrArg Host.Outcome.next (by rw [State.drainLedger_keyless hk, ite_self])
    · by_cases hw : (s.ledger.queue.isEmpty && s.ledger.area.isEmpty) = true
      · have hnone : s.ledger.queue = [] ∧ s.ledger.area = [] := by simpa using hw
        exact ⟨s, congrArg Host.Outcome.next (if_pos hw), hnone.1, hnone.2, Only.refl _ s⟩
      · obtain ⟨hqueue, harea⟩ := State.drainLedger_waiting hk
        exact ⟨_, congrArg Host.Outcome.next (if_neg hw), hqueue, harea, (s.drainLedger_moves.mono (by decide)).1⟩
  case waitingOne =>
    intro e key s hq ha hk hke he hf hh ht
    refine ⟨_, congrArg Host.Outcome.next (if_neg (by rw [hq]; simp)), s.ledger.stamped key e,
      State.drainLedger_one hq ha hk hke he hf hh ht, rfl, rfl, rfl, rfl, rfl, rfl, rfl, rfl⟩
  case hourRuns => exact fun s h => congrArg Host.Outcome.next (doHealthSummaryHour_running h)
  case hourEnds =>
    intro r s hs h
    have hexec : exec .healthSummaryHour s = .next ((s.modHealth fun x => { x with sums := [] }).healthPut r) :=
      congrArg Host.Outcome.next (doHealthSummaryHour_ended hs h)
    refine ⟨_, hexec, ?_, ?_, State.healthPut_getLast r _, (exec_moves hexec).1.mono (by decide)⟩
    · rw [State.healthPut_health]; rfl
    · rw [State.healthPut_health]; rfl
  case portsEarly => exact fun s h => congrArg Host.Outcome.next (if_pos h)
  case ports =>
    intro s h
    obtain ⟨hledger, hnext, hcode⟩ := s.enterStatistics_entries
    have hexec : exec .statisticsHour s =
        .next (s.enterStatistics.modNet fun n => { n with statHour := (hourOf s.now + 1) * 3600000000000 }) :=
      congrArg Host.Outcome.next (if_neg (by omega))
    refine ⟨_, hexec, ?_, hnext, hcode, (exec_moves hexec).1.drop (p := .ledger) hledger⟩
    rw [State.modNet_net, s.enterStatistics_moves.1.part .net (by decide)]

end Sys2Proof.Machine
end

section
/-!
The timebase (R324 to R344): what the bits of TBU_EVT, a charge and a change of source set in it, and what each of its rows comes
to, from which O13, O14 and O15 follow.
-/
namespace Sys2Proof.Machine

/-! ### Events and charges (R331, R344) -/

@[simp] theorem State.raise_tbu (g src : Nat) (s : State) : (s.raise g src).tbu = s.tbu :=
  (s.raise_moves g src).1 .tbu (by decide)

theorem State.tbuEvt_tbu (b : Nat) (s : State) :
    (s.tbuEvt b).tbu = { s.tbu with evt := s.tbu.evt ||| word (1 <<< b) } := by
  unfold State.tbuEvt
  split
  · exact State.raise_tbu _ _ _
  · rfl

theorem State.tbuEvt_sets {b : Nat} (hb : b < 32) (s : State) : (s.tbuEvt b).tbu.evt.getLsbD b = true := by
  rw [State.tbuEvt_tbu]
  simp [word, BitVec.getLsbD_ofNat, hb]

/-- A timebase with `n` more charged to U and further bits of TBU_EVT set; the list of accruals is drawn up anew. -/
def Tbu.Charged (n : Nat) (a b : Tbu) : Prop :=
  ∃ (w : Word) (acc : List (Nat × Nat)), b = { a with uAcc := a.uAcc + n, evt := a.evt ||| w, accruals := acc }

theorem Tbu.Charged.refl (a : Tbu) : a.Charged 0 a := ⟨0, a.accruals, by simp⟩

theorem Tbu.Charged.trans {m n : Nat} {a b c : Tbu} (h : a.Charged m b) (k : b.Charged n c) : a.Charged (m + n) c := by
  obtain ⟨w, acc, rfl⟩ := h
  obtain ⟨x, acc', rfl⟩ := k
  exact ⟨w ||| x, acc', by simp [Nat.add_assoc, BitVec.or_assoc]⟩

theorem State.tbuEvt_charged (b : Nat) (s : State) : s.tbu.Charged 0 (s.tbuEvt b).tbu :=
  ⟨word (1 <<< b), s.tbu.accruals, by rw [State.tbuEvt_tbu]; rfl⟩

theorem State.uncEvents_charged (before : Nat) (s : State) : s.tbu.Charged 0 (s.uncEvents before).tbu := by
  unfold State.uncEvents
  extract_lets lim s1
  have hlimit : s.tbu.Charged 0 s1.tbu := by
    unfold s1
    split
    · exact State.tbuEvt_charged 3 s
    · exact .refl _
  split
  · exact hlimit.trans (State.tbuEvt_charged 4 s1)
  · exact hlimit

theorem State.charge_charged (n : Nat) (s : State) : s.tbu.Charged n (s.charge n).tbu :=
  Tbu.Charged.trans (n := 0) ⟨0, _, by simp; rfl⟩ (State.uncEvents_charged _ _)

/-! ### A change of source (R327, R331, R344) -/

theorem State.ppsHold_tbu (s : State) : ∃ high : Bool, s.ppsHold.tbu = { s.tbu with ppsHigh := high } := by
  unfold State.ppsHold
  split
  · exact ⟨s.tbu.ppsHigh, rfl⟩
  · exact ⟨false, rfl⟩

/-- The charge for the part of a second that ends at a change of source. -/
def State.partCharge (s : State) : Nat := if s.tbu.secStart < s.now then s.secondCharge else 0

theorem State.partCharge_reference {s : State} (h : s.tbu.src = .reference) : s.partCharge = 0 := by
  simp [State.partCharge, State.secondCharge, h]

/-- A timebase that has changed to the source `dst` with `n` charged and src_change set. The count, the epoch, what is qualified
and what has failed stand; `x` has what the change sets besides. -/
def Tbu.Switched (dst : TimeSource) (n : Nat) (a b : Tbu) : Prop :=
  ∃ (w : Word) (x : Tbu), w.getLsbD 0 = true ∧ b =
    { a with
      src := dst, uAcc := a.uAcc + n, evt := a.evt ||| w, accruals := x.accruals, incSlow := x.incSlow, incRc := x.incRc
      corr := x.corr, secStart := x.secStart, trimBroke := x.trimBroke, trimKept := x.trimKept, ppsFrom := x.ppsFrom
      ppsHigh := x.ppsHigh }

theorem State.changeSource_same {dst : TimeSource} {s : State} (planned : Bool) (h : s.tbu.src = dst) :
    s.changeSource dst planned = s := if_pos h

theorem State.changeSource_switched {dst : TimeSource} {s : State} (planned : Bool) (h : s.tbu.src ≠ dst) :
    s.tbu.Switched dst (s.partCharge + changeCharge dst (!planned)) (s.changeSource dst planned).tbu := by
  unfold State.changeSource
  rw [if_neg h]
  extract_lets part kept s1 s2
  obtain ⟨high, hhold⟩ := State.ppsHold_tbu ((s2.charge (changeCharge dst (!planned))).tbuEvt 0)
  obtain ⟨w1, acc1, hpart⟩ := State.charge_charged part s
  obtain ⟨w2, acc2, hchange⟩ := State.charge_charged (changeCharge dst (!planned)) s2
  have hset : ∃ x : Tbu, s2.tbu =
      { s1.tbu with
        src := dst, incSlow := x.incSlow, incRc := x.incRc, corr := x.corr, secStart := x.secStart
        trimBroke := x.trimBroke, trimKept := x.trimKept, ppsFrom := x.ppsFrom } := by
    refine ⟨s2.tbu, ?_⟩
    unfold s2
    split <;> rfl
  obtain ⟨x, hx⟩ := hset
  refine ⟨w1 ||| (w2 ||| word 1), { x with accruals := acc2, ppsHigh := high }, ?_, ?_⟩
  · simp [word]
  · rw [hhold, State.tbuEvt_tbu, hchange, hx, hpart]
    simp [State.partCharge, Nat.add_assoc, BitVec.or_assoc, part]

/-- No change but one to the RC measures a period (R326). -/
theorem State.changeSource_free {dst : TimeSource} {s : State} (planned : Bool) (h : dst ≠ .rc) :
    (s.changeSource dst planned).free = s.free := by
  unfold State.changeSource
  split
  · rfl
  · rw [(State.ppsHold_moves _).1.part .free (by decide), (State.tbuEvt_moves _ _).1.part .free (by decide),
      (State.charge_moves _ _).1.part .free (by decide), State.modTbu_free,
      (State.charge_moves _ _).1.part .free (by decide)]

/-! ### The fallback of a source that fails in use (R327, R328) -/

/-- A timebase fallen back from `a` to the source `dst` with `n` charged. -/
structure Tbu.FellBack (dst : TimeSource) (n : Nat) (a b : Tbu) : Prop where
  src : b.src = dst
  uAcc : b.uAcc = a.uAcc + n
  change : b.evt.getLsbD 0 = true
  evt : ∀ i, a.evt.getLsbD i = true → b.evt.getLsbD i = true
  epoch : b.epoch = a.epoch
  refOk : b.refOk = a.refOk
  slowOk : b.slowOk = a.slowOk
  slowFailed : b.slowFailed = a.slowFailed

theorem State.catchUp_tbu (age : Nat) (s : State) :
    ∃ ns frac, (s.catchUp age).tbu = { s.tbu with ns := ns, frac := frac } := ⟨_, _, rfl⟩

theorem State.changeSource_fellBack {dst : TimeSource} {s : State} (age : Nat) (h : s.tbu.src ≠ dst) :
    s.tbu.FellBack dst (s.partCharge + changeCharge dst true) ((s.changeSource dst false).catchUp age).tbu := by
  obtain ⟨ns, frac, hcount⟩ := State.catchUp_tbu age (s.changeSource dst false)
  obtain ⟨w, x, hw, hswitched⟩ := State.changeSource_switched false h
  rw [hcount, hswitched]
  exact
    { src := rfl, uAcc := rfl, change := by simp [hw], evt := fun i hi => by simp [hi], epoch := rfl, refOk := rfl
      slowOk := rfl, slowFailed := rfl }

/-- The reference is no longer qualified, and its bit of TBU_EVT is set. -/
def State.refFails (s : State) : State := (s.modTbu fun t => { t with refOk := false }).tbuEvt 1

theorem State.refFails_tbu (s : State) :
    s.refFails.tbu = { s.tbu with refOk := false, evt := s.tbu.evt ||| word 2 } := State.tbuEvt_tbu _ _

theorem State.refFails_sets (s : State) : s.refFails.tbu.evt.getLsbD 1 = true := State.tbuEvt_sets (by decide) _

theorem doReferenceFailed_unjudged {age : Nat} {s : State} (h : s.refInputOn = false ∨ s.tbu.refOk = false) :
    doReferenceFailed age s = s := by
  refine if_pos ?_
  rcases h with h | h <;> simp [h]

theorem doReferenceFailed_judged {age : Nat} {s : State} (hon : s.refInputOn = true) (hok : s.tbu.refOk = true) :
    doReferenceFailed age s =
      if s.tbu.src = .reference ∧ s.tbu.running then
        (s.refFails.changeSource (if s.tbu.slowOk then .slowCrystal else .rc) false).catchUp age
      else s.refFails := if_neg (by simp [hon, hok])

/-- A reference that fails in use charges the change alone: no second on it is charged (R331). -/
theorem State.refFails_fellBack {s : State} (age : Nat) (h : s.tbu.src = .reference) :
    s.refFails.tbu.FellBack (if s.tbu.slowOk then .slowCrystal else .rc) (if s.tbu.slowOk then 1000 else 150000)
      ((s.refFails.changeSource (if s.tbu.slowOk then .slowCrystal else .rc) false).catchUp age).tbu := by
  have hsrc : s.refFails.tbu.src = .reference := by rw [State.refFails_tbu]; exact h
  cases hslow : s.tbu.slowOk with
  | true =>
    have hfell := State.changeSource_fellBack (dst := .slowCrystal) age (by rw [hsrc]; decide)
    rwa [State.partCharge_reference hsrc] at hfell
  | false =>
    have hfell := State.changeSource_fellBack (dst := .rc) age (by rw [hsrc]; decide)
    rwa [State.partCharge_reference hsrc] at hfell

/-- The slow crystal stands failed, and its bit of TBU_EVT is set. -/
def State.slowFails (s : State) : State := (s.modTbu fun t => { t with slowOk := false, slowFailed := true }).tbuEvt 2

theorem State.slowFails_tbu (s : State) :
    s.slowFails.tbu = { s.tbu with slowOk := false, slowFailed := true, evt := s.tbu.evt ||| word 4 } := State.tbuEvt_tbu _ _

theorem State.slowFails_sets (s : State) : s.slowFails.tbu.evt.getLsbD 2 = true := State.tbuEvt_sets (by decide) _

@[simp] theorem State.wakeSource_tbu (code : Nat) (s : State) : (s.wakeSource code).tbu = s.tbu :=
  (s.wakeSource_moves code).1.part .tbu (by decide)

/-- The wake that the failure may start (R491) leaves the timebase as the fallback has it. -/
theorem doSlowCrystalFailed_tbu {age : Nat} {s : State} (h : s.tbu.slowFailed = false) :
    (doSlowCrystalFailed age s).tbu =
      (if s.tbu.src = .slowCrystal ∧ s.tbu.running then
        (s.slowFails.changeSource (if s.tbu.refOk then .reference else .rc) false).catchUp age
      else s.slowFails).tbu := by
  unfold doSlowCrystalFailed
  rw [if_neg (by simp [h])]
  exact State.wakeSource_tbu _ _

/-! ### The start, and a source that qualifies (R324, R328) -/

/-- The best source qualified, or the RC. -/
def Tbu.best (t : Tbu) : TimeSource := if t.refOk then .reference else if t.slowOk then .slowCrystal else .rc

theorem doTbuStart_tbu {s : State} (h : s.tbu.running = false) :
    (doTbuStart s).tbu =
      { s.tbu with
        running := true, secStart := s.now, hist := [(0, 0)], src := s.tbu.best
        incSlow := s.correctedInc s.tbu.dieTemp, corr := (s.tempTerm s.tbu.dieTemp).natAbs } :=
  congrArg State.tbu (if_neg (by simp [h]))

/-- A planned change keeps the count and what is qualified, and ends on its source, whether it was on it before or not. -/
theorem State.changeSource_planned (dst : TimeSource) (s : State) :
    (s.changeSource dst true).tbu.src = dst ∧ (s.changeSource dst true).tbu.ns = s.tbu.ns ∧
      (s.changeSource dst true).tbu.frac = s.tbu.frac ∧ (s.changeSource dst true).tbu.running = s.tbu.running ∧
      (s.changeSource dst true).tbu.refOk = s.tbu.refOk ∧ (s.changeSource dst true).tbu.slowOk = s.tbu.slowOk ∧
      (s.changeSource dst true).tbu.slowFailed = s.tbu.slowFailed := by
  by_cases h : s.tbu.src = dst
  · rw [State.changeSource_same true h]
    exact ⟨h, rfl, rfl, rfl, rfl, rfl, rfl⟩
  · obtain ⟨w, x, -, hswitched⟩ := State.changeSource_switched true h
    rw [hswitched]
    exact ⟨rfl, rfl, rfl, rfl, rfl, rfl, rfl⟩

/-- The reference becomes qualified. -/
def State.refQualifies (s : State) : State := s.modTbu fun t => { t with refOk := true }

/-- The slow crystal becomes qualified. -/
def State.slowQualifies (s : State) : State := s.modTbu fun t => { t with slowOk := true, slowFailed := false }

theorem doSourceQualified_off {s : State} (h : s.refInputOn = false) : doSourceQualified .reference s = s :=
  if_neg (by simp [h])

theorem doSourceQualified_reference {s : State} (h : s.refInputOn = true) :
    doSourceQualified .reference s =
      if s.tbu.running then s.refQualifies.changeSource .reference true else doTbuStart s.refQualifies := if_pos h

theorem doSourceQualified_slow (s : State) :
    doSourceQualified .slowCrystal s =
      if !s.tbu.running then doTbuStart s.slowQualifies
      else if s.tbu.src = .rc ∧ !s.tbu.refOk then s.slowQualifies.changeSource .slowCrystal true
      else s.slowQualifies := rfl

theorem doSourceQualified_free (src : TimeSource) (s : State) : (doSourceQualified src s).free = s.free := by
  have started : ∀ u : State, (doTbuStart u).free = u.free := fun u => (doTbuStart_moves u).1.part .free (by decide)
  cases src with
  | rc => rfl
  | reference =>
    cases hon : s.refInputOn with
    | false => rw [doSourceQualified_off hon]
    | true =>
      rw [doSourceQualified_reference hon]
      split
      · exact State.changeSource_free true (by decide)
      · exact started _
  | slowCrystal =>
    rw [doSourceQualified_slow]
    split
    · exact started _
    · split
      · exact State.changeSource_free true (by decide)
      · rfl

/-- No source that qualifies leads to the RC, so no period is measured (R326). -/
theorem doSourceQualified_frame (src : TimeSource) (s : State) : Only [.tbu, .evc] s (doSourceQualified src s) :=
  (doSourceQualified_moves src s).1.drop (p := .free) (doSourceQualified_free src s)

/-! ### The settlement of O13 -/

/-- Settles O13: each failure by its fallback, each start by the best source, each source that qualifies by a planned change. -/
theorem timebaseSourcesAndStart : Obligations.TimebaseSourcesAndStart := by
  unfold Obligations.TimebaseSourcesAndStart
  refine ⟨?start, ?refUnjudged, ?refFails, ?slowUnjudged, ?slowFails, ?refQualified, ?refOff, ?slowQualified⟩
  case start =>
    intro s h
    refine ⟨doTbuStart s, rfl, ?_⟩
    have hframe : Only [.tbu] s (doTbuStart s) := (doTbuStart_moves s).1
    dsimp only
    rw [doTbuStart_tbu h]
    exact ⟨rfl, rfl, rfl, rfl, rfl, hframe⟩
  case refUnjudged => exact fun age s h => congrArg Host.Outcome.next (doReferenceFailed_unjudged h)
  case refFails =>
    intro age s hon hok
    refine ⟨doReferenceFailed age s, rfl, ?_⟩
    have hframe : Only [.tbu, .evc, .free] s (doReferenceFailed age s) := (doReferenceFailed_moves age s).1
    rw [doReferenceFailed_judged hon hok] at hframe ⊢
    by_cases huse : s.tbu.src = .reference ∧ s.tbu.running = true
    · rw [if_pos huse] at hframe ⊢
      have hfell := State.refFails_fellBack age huse.1
      refine ⟨by rw [hfell.refOk, State.refFails_tbu], hfell.evt 1 s.refFails_sets, by rw [hfell.epoch, State.refFails_tbu],
        fun _ _ => ⟨hfell.src, hfell.change, ?_⟩, fun h => absurd huse.1 h, hframe⟩
      rw [hfell.uAcc, State.refFails_tbu]
    · rw [if_neg huse] at hframe ⊢
      refine ⟨by rw [State.refFails_tbu], s.refFails_sets, by rw [State.refFails_tbu], fun h k => absurd ⟨h, k⟩ huse,
        fun _ => ?_, hframe⟩
      rw [State.refFails_tbu]
      exact ⟨rfl, rfl, rfl⟩
  case slowUnjudged => exact fun age s h => congrArg Host.Outcome.next (if_pos h)
  case slowFails =>
    intro age s h
    refine ⟨doSlowCrystalFailed age s, rfl, ?_⟩
    dsimp only
    rw [doSlowCrystalFailed_tbu h]
    by_cases huse : s.tbu.src = .slowCrystal ∧ s.tbu.running = true
    · rw [if_pos huse]
      have hfell := State.changeSource_fellBack (s := s.slowFails) (dst := if s.tbu.refOk then .reference else .rc) age
        (by rw [State.slowFails_tbu]; dsimp only; rw [huse.1]; split <;> decide)
      exact ⟨by rw [hfell.slowOk, State.slowFails_tbu], by rw [hfell.slowFailed, State.slowFails_tbu],
        hfell.evt 2 s.slowFails_sets, by rw [hfell.epoch, State.slowFails_tbu], fun _ _ => ⟨hfell.src, hfell.change⟩,
        fun h => absurd huse.1 h⟩
    · rw [if_neg huse]
      refine ⟨by rw [State.slowFails_tbu], by rw [State.slowFails_tbu], s.slowFails_sets, by rw [State.slowFails_tbu],
        fun h k => absurd ⟨h, k⟩ huse, fun _ => ?_⟩
      rw [State.slowFails_tbu]
      exact ⟨rfl, rfl, rfl⟩
  case refQualified =>
    intro s hon
    have hframe := doSourceQualified_frame .reference s
    refine ⟨doSourceQualified .reference s, rfl, ?_⟩
    rw [doSourceQualified_reference hon] at hframe ⊢
    by_cases hrun : s.tbu.running = true
    · rw [if_pos hrun] at hframe ⊢
      obtain ⟨hsrc, hns, hfrac, hrunning, hok, -, -⟩ := s.refQualifies.changeSource_planned .reference
      exact ⟨hok, hns, hfrac, hrunning.trans hrun, hsrc, hframe⟩
    · rw [if_neg hrun] at hframe ⊢
      have hstart := doTbuStart_tbu (s := s.refQualifies) (Bool.eq_false_iff.mpr hrun)
      rw [hstart]
      exact ⟨rfl, rfl, rfl, rfl, rfl, hframe⟩
  case refOff => exact fun s h => congrArg Host.Outcome.next (doSourceQualified_off h)
  case slowQualified =>
    intro s
    have hframe := doSourceQualified_frame .slowCrystal s
    refine ⟨doSourceQualified .slowCrystal s, rfl, ?_⟩
    rw [doSourceQualified_slow] at hframe ⊢
    cases hrun : s.tbu.running with
    | false =>
      rw [hrun] at hframe
      have hstart := doTbuStart_tbu (s := s.slowQualifies) hrun
      rw [if_pos (by decide)] at hframe ⊢
      rw [hstart]
      exact ⟨rfl, rfl, rfl, rfl, rfl, (nomatch ·), fun _ => rfl, hframe⟩
    | true =>
      rw [hrun] at hframe
      rw [if_neg (by decide)] at hframe ⊢
      by_cases hbest : s.tbu.src = .rc ∧ s.tbu.refOk = false
      · rw [if_pos (by simpa using hbest)] at hframe ⊢
        obtain ⟨hsrc, hns, hfrac, hrunning, -, hok, hfailed⟩ := s.slowQualifies.changeSource_planned .slowCrystal
        exact ⟨hok, hfailed, hns, hfrac, hrunning.trans hrun, fun _ => hsrc.trans (if_pos hbest).symm, (nomatch ·), hframe⟩
      · rw [if_neg (by simpa using hbest)] at hframe ⊢
        exact ⟨rfl, rfl, rfl, rfl, hrun, fun _ => (if_neg hbest).symm, (nomatch ·), hframe⟩

end Sys2Proof.Machine
end

section
/-!
What the timebase measures and charges (R325, R329 to R332): the charge of a second by its source, the vote of the three counters,
and from them O14.
-/
namespace Sys2Proof.Machine

section
variable {s : State}

/-! ### The charge of a second (R331) -/

theorem State.secondCharge_reference (h : s.tbu.src = .reference) : s.secondCharge = 0 := by
  unfold State.secondCharge; rw [h]

theorem State.secondCharge_rc (h : s.tbu.src = .rc) : s.secondCharge = 10000000 := by
  unfold State.secondCharge; rw [h]

theorem State.secondCharge_untrimmed (h : s.tbu.src = .slowCrystal) (ht : s.trimValid = false) : s.secondCharge = 1000 := by
  unfold State.secondCharge; rw [h]; simp [ht]

/-- The end of a second charges it, and begins the next (R331). -/
theorem doAccrualSecond_tbu (hrun : s.tbu.running = true) (hend : s.tbu.secStart + 1000000000 ≤ s.now) :
    ∃ w acc, (doAccrualSecond s).tbu =
      { s.tbu with
        uAcc := s.tbu.uAcc + s.secondCharge, evt := s.tbu.evt ||| w, accruals := acc
        secStart := s.tbu.secStart + 1000000000, trimBroke := false } := by
  obtain ⟨w, acc, hcharged⟩ := State.charge_charged s.secondCharge s
  refine ⟨w, acc, ?_⟩
  unfold doAccrualSecond
  rw [if_pos ⟨hrun, hend⟩, State.modTbu_tbu, hcharged]

/-! ### The trim (R329) -/

/-- A window that has just ended leaves a valid trim. -/
theorem State.trimValid_of_ended {i : Nat} (hi : s.tbu.trimInc = some i) (he : s.tbu.trimEnd = some s.now)
    (ht : s.tbu.dieTemp = s.tbu.trimTemp) : s.trimValid = true := by
  simp [State.trimValid, State.trimFresh, hi, he, ht]

/-! ### The vote of the counters (R325, R510) -/

@[simp] theorem State.healthFree_tbu (code unit action : Nat) (s : State) : (s.healthFree code unit action).tbu = s.tbu :=
  (s.healthFree_moves code unit action).1.part .tbu (by decide)

/-- While three counters serve, an outvoted one is noted or taken out, and the majority count stands. -/
theorem doCounterOutvoted_majority {lane : Nat} (v : Nat) (hl : lane ≤ 2) (h : s.tbu.laneOut = none) :
    ∃ last out, (doCounterOutvoted lane v s).tbu =
      { s.tbu with evt := s.tbu.evt ||| word (1 <<< 6), laneLast := last, laneOut := out } := by
  have hvoted : ((s.tbuEvt 6).healthFree 0x0020 lane 0).tbu = { s.tbu with evt := s.tbu.evt ||| word (1 <<< 6) } := by
    rw [State.healthFree_tbu, State.tbuEvt_tbu]
  refine ⟨s.tbu.laneLast.set lane (some s.now), ?_⟩
  unfold doCounterOutvoted
  rw [if_neg (by simp [h]; omega)]
  extract_lets s1 diff again s2
  have hnoted : s2.tbu =
      { s.tbu with evt := s.tbu.evt ||| word (1 <<< 6), laneLast := s.tbu.laneLast.set lane (some s.now) } := by
    unfold s2
    rw [State.modTbu_tbu, hvoted]
  split
  · next hout => rw [h] at hout; cases hout
  · split
    · exact ⟨some lane, (State.healthFree_tbu _ _ _ _).trans (by rw [State.modTbu_tbu, hnoted])⟩
    · exact ⟨s.tbu.laneOut, hnoted⟩

end

/-! ### The settlement of O14 -/

/-- Settles O14: each row by what it sets in the timebase. -/
theorem timebaseUncertaintyRows : Obligations.TimebaseUncertaintyRows := by
  unfold Obligations.TimebaseUncertaintyRows
  refine ⟨?trim, ?temperature, ?second, ?hour, ?outvoted⟩
  case trim =>
    intro d temp s hrun hsrc href hslow
    refine ⟨doTrimWindowEnd d temp s, rfl, ?_⟩
    have hframe : Only [.tbu, .psc] s (doTrimWindowEnd d temp s) := (doTrimWindowEnd_moves d temp s).1
    unfold doTrimWindowEnd at hframe ⊢
    rw [if_pos ⟨hrun, hsrc, href, hslow⟩] at hframe ⊢
    exact ⟨rfl, rfl, rfl, State.trimValid_of_ended rfl rfl rfl, rfl, rfl, hframe⟩
  case temperature =>
    intro temp s
    refine ⟨doTemperatureSample temp s, rfl, ?_⟩
    have hframe : Only [.tbu, .power] s (doTemperatureSample temp s) := (doTemperatureSample_moves temp s).1
    unfold doTemperatureSample at hframe ⊢
    by_cases hsrc : s.tbu.src = .slowCrystal
    · rw [if_pos hsrc] at hframe ⊢
      exact ⟨rfl, rfl, fun _ => rfl, fun h => absurd hsrc h, hframe⟩
    · rw [if_neg hsrc] at hframe ⊢
      exact ⟨rfl, rfl, fun h => absurd h hsrc, fun _ => rfl, hframe⟩
  case second =>
    intro s hrun hend
    obtain ⟨w, acc, hsecond⟩ := doAccrualSecond_tbu hrun hend
    refine ⟨doAccrualSecond s, rfl, ?_⟩
    dsimp only
    rw [hsecond]
    refine ⟨rfl, fun h => ?_, fun h => ?_, fun h ht => ?_, rfl, rfl, (doAccrualSecond_moves s).1⟩
    · exact congrArg (s.tbu.uAcc + ·) (State.secondCharge_reference h)
    · exact congrArg (s.tbu.uAcc + ·) (State.secondCharge_rc h)
    · exact congrArg (s.tbu.uAcc + ·) (State.secondCharge_untrimmed h ht)
  case hour =>
    intro s hrun hnew
    refine ⟨doHourlyHistoryPoint s, rfl, ?_, (doHourlyHistoryPoint_moves s).1⟩
    unfold doHourlyHistoryPoint
    rw [if_pos ⟨hrun, hnew⟩]
    rw [State.modTbu_tbu]
  case outvoted =>
    intro lane v s hl h
    obtain ⟨last, out, hvoted⟩ := doCounterOutvoted_majority v hl h
    refine ⟨doCounterOutvoted lane v s, rfl, ?_⟩
    dsimp only
    rw [hvoted]
    exact ⟨rfl, rfl, rfl, rfl, by simp [word]⟩

end Sys2Proof.Machine
end

section
/-!
What the timebase gives out (R337 to R341): the frames of the grandmaster on the ports, the foreign frames it counts, and the
reads that latch in the reader's own shadows, from which O15 follows.
-/
namespace Sys2Proof.Machine

/-! ### gPTP frames (R337, R338) -/

@[simp] theorem State.countSentAll_tbu (n : Nat) (s : State) : (s.countSentAll n).tbu = s.tbu :=
  (s.countSentAll_moves n).1.part .tbu (by decide)

theorem State.countLinks_getD (s : State) (xs : List Nat) {p : Nat} (hp : p < 6) :
    (s.countLinks xs).getD p 0 = xs.getD p 0 + bit (s.net.linkUp.getD p false) := by
  simp [State.countLinks, List.getD_eq_getElem?_getD, hp]

theorem doSyncInterval_tbu {s : State} (h : s.gptpRuns = true) :
    (doSyncInterval s).tbu = { s.tbu with syncSent := s.countLinks s.tbu.syncSent, synced := some s.syncNow } := by
  unfold doSyncInterval
  rw [if_pos h, State.countSentAll_tbu, State.modTbu_tbu]

theorem doAnnounceInterval_tbu {s : State} (h : s.gptpRuns = true) :
    (doAnnounceInterval s).tbu =
      { s.tbu with announceSent := s.countLinks s.tbu.announceSent, announced := some s.announceNow } := by
  unfold doAnnounceInterval
  rw [if_pos h, State.countSentAll_tbu, State.modTbu_tbu]

/-- The timebase with a foreign frame of a kind counted. -/
def Tbu.countForeign (kind : Nat) (t : Tbu) : Tbu :=
  match kind with
  | 0 => { t with foreignAnnounce := satAdd 0xFFFFFFFF t.foreignAnnounce 1 }
  | 1 => { t with foreignSync := satAdd 0xFFFFFFFF t.foreignSync 1 }
  | _ => { t with foreignFollow := satAdd 0xFFFFFFFF t.foreignFollow 1 }

/-- No frame of another grandmaster reaches the count, the epoch or civil time (R338). -/
theorem Tbu.countForeign_time (kind : Nat) (t : Tbu) :
    (t.countForeign kind).ns = t.ns ∧ (t.countForeign kind).frac = t.frac ∧ (t.countForeign kind).epoch = t.epoch ∧
      (t.countForeign kind).civil = t.civil := by
  unfold Tbu.countForeign
  split <;> exact ⟨rfl, rfl, rfl, rfl⟩

theorem Tbu.countForeign_follow {kind : Nat} (t : Tbu) (h : 2 ≤ kind) :
    (t.countForeign kind).foreignFollow = satAdd 0xFFFFFFFF t.foreignFollow 1 := by
  unfold Tbu.countForeign
  split
  · omega
  · omega
  · rfl

theorem doGptpForeignFrame_runs {s : State} (kind : Nat) (h : s.gptpRuns = true) :
    doGptpForeignFrame kind s = (s.modTbu (Tbu.countForeign kind)).tbuEvt 7 := by
  unfold doGptpForeignFrame
  rw [if_pos h]
  rfl

/-! ### The shadows of the requesters (R341) -/

theorem reqIndex_lt (r : Requester) : reqIndex r < 6 := by cases r <;> decide

theorem State.shadow_modShadow {s : State} {r : Requester} (f : Shadow → Shadow) (h : s.tbu.shadows.length = 6) :
    (s.modShadow r f).shadow r = f (s.shadow r) := by
  have hr := reqIndex_lt r
  rw [← h] at hr
  simp [State.shadow, State.modShadow, List.getD_eq_getElem?_getD, hr]

theorem State.shadow_modShadow_ne {s : State} {r q : Requester} (f : Shadow → Shadow) (h : reqIndex q ≠ reqIndex r) :
    (s.modShadow r f).shadow q = s.shadow q := by
  simp [State.shadow, State.modShadow, List.getD_eq_getElem?_getD, Ne.symm h]

/-- Answering a read leaves every shadow as the read has it. -/
theorem State.answered_shadow (p : Word × State) (q : Requester) : (State.answered p).shadow q = p.2.shadow q := rfl

theorem readNsLo_shadow {r : Requester} {s : State} (h : s.tbu.shadows.length = 6) :
    (State.answered (readNsLo r s)).shadow r =
      { s.shadow r with
        nsHi := word (s.now / 2 ^ 32), frac := word s.frac8, epoch := word s.tbu.epoch, unc := word s.unc
        civLo := word s.civilNow, civHi := word (s.civilNow / 2 ^ 32) } :=
  (State.answered_shadow _ _).trans (State.shadow_modShadow _ h)

theorem readUaccLo_shadow {r : Requester} {s : State} (h : s.tbu.shadows.length = 6) :
    (State.answered (readUaccLo r s)).shadow r = { s.shadow r with uaccHi := word (s.tbu.uAcc / 2 ^ 32) } :=
  (State.answered_shadow _ _).trans (State.shadow_modShadow _ h)

/-! ### The settlement of O15 -/

/-- Settles O15: each output by its row, each latching read by the reader's shadows. -/
theorem timebaseOutputsAndReads : Obligations.TimebaseOutputsAndReads := by
  unfold Obligations.TimebaseOutputsAndReads
  refine ⟨?ppsEdge, ?ppsEnd, ?sync, ?announce, ?foreign, ?nsRead, ?uaccRead⟩
  case ppsEdge =>
    intro s hrun hen hsrc hcross
    refine ⟨doPpsEdge s, rfl, ?_⟩
    have hframe : Only [.tbu] s (doPpsEdge s) := (doPpsEdge_moves s).1
    unfold doPpsEdge at hframe ⊢
    rw [if_pos ⟨hrun, hen, hsrc, hcross⟩] at hframe ⊢
    exact ⟨rfl, rfl, rfl, hframe⟩
  case ppsEnd =>
    intro s hhigh hwidth
    refine ⟨doPpsPulseEnd s, rfl, ?_, (doPpsPulseEnd_moves s).1⟩
    unfold doPpsPulseEnd
    rw [if_pos ⟨hhigh, hwidth⟩, State.modTbu_tbu]
  case sync =>
    intro s h
    refine ⟨doSyncInterval s, rfl, ?_⟩
    dsimp only
    rw [doSyncInterval_tbu h]
    exact ⟨fun p hp => s.countLinks_getD _ hp, rfl, rfl, (doSyncInterval_moves s).1⟩
  case announce =>
    intro s h
    refine ⟨doAnnounceInterval s, rfl, ?_⟩
    dsimp only
    rw [doAnnounceInterval_tbu h]
    exact ⟨fun p hp => s.countLinks_getD _ hp, rfl, rfl, (doAnnounceInterval_moves s).1⟩
  case foreign =>
    intro kind s h
    refine ⟨doGptpForeignFrame kind s, rfl, ?_⟩
    have hframe : Only [.tbu, .evc] s (doGptpForeignFrame kind s) := (doGptpForeignFrame_moves kind s).1
    rw [doGptpForeignFrame_runs kind h] at hframe ⊢
    have hset := State.tbuEvt_sets (b := 7) (by decide) (s.modTbu (Tbu.countForeign kind))
    obtain ⟨hns, hfrac, hepoch, hcivil⟩ := s.tbu.countForeign_time kind
    refine ⟨hset, ?_⟩
    rw [State.tbuEvt_tbu]
    exact ⟨hns, hfrac, hepoch, hcivil, fun hk => by subst hk; rfl, fun hk => by subst hk; rfl,
      s.tbu.countForeign_follow, hframe⟩
  case nsRead =>
    intro r s h
    have hframe : Only [.tbu, .mbx] s (State.answered (readNsLo r s)) := (execTbuNsLoRead_moves r s rfl).1
    refine ⟨State.answered (readNsLo r s), rfl, rfl, ?_⟩
    rw [readNsLo_shadow h]
    exact ⟨rfl, rfl, rfl, rfl, rfl, fun q hq => State.shadow_modShadow_ne _ hq, rfl, hframe⟩
  case uaccRead =>
    intro r s h
    have hframe : Only [.tbu, .mbx] s (State.answered (readUaccLo r s)) := (execTbuUaccLoRead_moves r s rfl).1
    refine ⟨State.answered (readUaccLo r s), rfl, rfl, ?_⟩
    rw [readUaccLo_shadow h]
    exact ⟨rfl, fun q hq => State.shadow_modShadow_ne _ hq, hframe⟩

end Sys2Proof.Machine
end

section
/-!
The state after a power-on reset (R324, R343 to R345, R368 to R370, R391, R392, R412, R438, R502, R503): it meets the invariant,
and each thing of which a block has many stands at its reset values. Settles O58.
-/
namespace Sys2Proof.Machine

/-! ### The invariant -/

/-- Every part of the delivered block has the numbers of things that the spec fixes, and its reserved bits at 0. -/
theorem inv_reset : Inv State.reset where
  mem := rfl
  tbu := ⟨rfl, rfl, rfl, rfl, Nat.zero_le _, fun y hy => by
    rw [List.eq_of_mem_replicate hy]
    exact ⟨rfl, rfl, rfl, rfl, rfl, rfl⟩⟩
  tmr := ⟨rfl, rfl, rfl, rfl⟩
  evc := ⟨rfl, rfl, rfl, rfl⟩
  psc := Psc.enable_shaped (w := 0x23BF) rfl
  pad := ⟨rfl, rfl⟩
  mbx := rfl
  boot := ⟨rfl, rfl⟩
  fab := ⟨rfl, rfl, rfl, rfl⟩
  parts := List.length_replicate
  lf := List.length_replicate
  pop := fun _ hk => by cases hk
  radio := ⟨rfl, rfl, Nat.zero_le _⟩
  crypt := ⟨(List.length_map _).trans List.length_range, rfl, Nat.zero_le _⟩
  keys := congrArg Nat.succ List.length_replicate
  met := rfl
  ledger := ⟨rfl, Nat.zero_le _, Nat.zero_le _⟩
  health := Nat.zero_le _
  net := ⟨rfl, rfl, rfl, rfl, rfl, rfl, rfl, rfl, rfl, rfl⟩
  power := rfl
  cores := ⟨rfl, rfl⟩
  tamper := ⟨rfl, rfl⟩
  jtag := ⟨List.length_replicate, List.length_replicate⟩

/-! ### The things of which a block has many -/

/-- A list of default values reads as the default at every place. -/
theorem getD_replicate_default {α : Type} (d : α) (r n : Nat) : (List.replicate r d).getD n d = d := by
  rw [List.getD_eq_getElem?_getD, List.getElem?_replicate]
  split <;> rfl

theorem State.reset_timer (n : Nat) : State.reset.timer n = {} := getD_replicate_default _ _ _
theorem State.reset_alarm (m : Nat) : State.reset.alarm m = {} := getD_replicate_default _ _ _
theorem State.reset_pin (m : Nat) : State.reset.pin m = {} := getD_replicate_default _ _ _
theorem State.reset_group (g : Nat) : State.reset.evc.group g = {} := getD_replicate_default _ _ _
theorem State.reset_win (k : Nat) : State.reset.win k = {} := getD_replicate_default _ _ _
theorem State.reset_box (k : Nat) : State.reset.box k = {} := getD_replicate_default _ _ _

/-! ### The settlement of O58 -/

/-- Settles O58: the invariant by `inv_reset`, the registers by the reset values of their things. -/
theorem resetValues : Obligations.ResetValues := by
  unfold Obligations.ResetValues
  refine ⟨inv_reset, rfl, ?timebase, ?timers, ?alarms, ?groups, ?windows, ?mailboxes, ?sleep, ?pads, ?boot⟩
  case timebase => exact ⟨rfl, rfl, rfl, rfl, rfl, rfl, rfl, rfl, rfl, rfl⟩
  case timers =>
    intro n _
    rw [State.reset_timer]
    exact ⟨rfl, rfl, rfl, rfl, rfl, rfl, rfl, rfl, rfl⟩
  case alarms =>
    intro m _
    rw [State.reset_alarm, State.reset_pin]
    exact ⟨rfl, rfl, rfl, rfl, rfl⟩
  case groups =>
    intro g _
    rw [State.reset_group]
    exact ⟨rfl, rfl, rfl, rfl, rfl, rfl, rfl⟩
  case windows =>
    intro k _
    rw [State.reset_win]
    exact ⟨rfl, rfl, rfl⟩
  case mailboxes => exact ⟨rfl, fun k _ => by rw [State.reset_box], rfl, rfl, rfl, rfl, rfl⟩
  case sleep => exact ⟨rfl, rfl, rfl, rfl, rfl, rfl, rfl, rfl, rfl⟩
  case pads => exact ⟨rfl, rfl, rfl, rfl, rfl, rfl, rfl⟩
  case boot => exact ⟨rfl, rfl, rfl⟩

end Sys2Proof.Machine
end

section
/-!
The queue, and what a command answers: a step takes the front command (O1), no command touches the queue (O2), and every command
answers a next state but a reset release into the factory test mode (O3).
-/
namespace Sys2Proof.Machine

/-! ### Lists of things read by their number -/

theorem getD_modify_self {α : Type} {xs : List α} {n : Nat} (f : α → α) (d : α) (h : n < xs.length) :
    (xs.modify n f).getD n d = f (xs.getD n d) := by
  simp [List.getD_eq_getElem?_getD, h]

theorem getD_modify_ne {α : Type} {xs : List α} {n k : Nat} (f : α → α) (d : α) (h : k ≠ n) :
    (xs.modify n f).getD k d = xs.getD k d := by
  simp [List.getD_eq_getElem?_getD, Ne.symm h]

theorem getD_set_self {α : Type} {xs : List α} {n : Nat} (x d : α) (h : n < xs.length) : (xs.set n x).getD n d = x := by
  simp [List.getD_eq_getElem?_getD, h]

/-! ### A command's frame, one part of it and in other words -/

/-- A part that a command may not change is the same after it. -/
theorem exec_same {c : Instr} {s t : State} (h : exec c s = .next t) (p : Part)
    (hp : ((mayChange c).all fun q => q != p) = true := by rfl) : p.Same s t :=
  (exec_moves h).1 p fun hm => absurd (List.all_eq_true.mp hp p hm) (by simp)

/-- A command changes no part but those of a list that names all it may change. -/
theorem exec_only {c : Instr} {s t : State} {ps : List Part} (h : exec c s = .next t)
    (hp : ((mayChange c).all fun p => ps.contains p) = true := by rfl) : Only ps s t :=
  (exec_moves h).1.mono hp

theorem State.modMbx_only (s : State) (f : Mbx → Mbx) : Only [.mbx] s (s.modMbx f) := by
  intro p hp
  cases p with
  | mbx => exact absurd (List.mem_singleton.mpr rfl) hp
  | _ => rfl

theorem State.modFab_only (s : State) (f : Fabric → Fabric) : Only [.fab] s (s.modFab f) := by
  intro p hp
  cases p with
  | fab => exact absurd (List.mem_singleton.mpr rfl) hp
  | _ => rfl

theorem State.modEvc_only (s : State) (f : Evc → Evc) : Only [.evc] s (s.modEvc f) := by
  intro p hp
  cases p with
  | evc => exact absurd (List.mem_singleton.mpr rfl) hp
  | _ => rfl

theorem State.modBoot_only (s : State) (f : Boot → Boot) : Only [.boot] s (s.modBoot f) := by
  intro p hp
  cases p with
  | boot => exact absurd (List.mem_singleton.mpr rfl) hp
  | _ => rfl

theorem State.modTmr_only (s : State) (f : Tmr → Tmr) : Only [.tmr] s (s.modTmr f) := by
  intro p hp
  cases p with
  | tmr => exact absurd (List.mem_singleton.mpr rfl) hp
  | _ => rfl

theorem State.modTbu_only (s : State) (f : Tbu → Tbu) : Only [.tbu] s (s.modTbu f) := by
  intro p hp
  cases p with
  | tbu => exact absurd (List.mem_singleton.mpr rfl) hp
  | _ => rfl

/-! ### The settlements of O1 and O2 -/

/-- Settles O1: by the queue's two cases. -/
theorem stepRunsFrontCommand : Obligations.StepRunsFrontCommand := by
  unfold Obligations.StepRunsFrontCommand
  refine ⟨fun c s rest hp => ?_, fun s hp => ?_, fun s n w => ⟨rfl, rfl⟩⟩
  · unfold step; rw [hp]
  · unfold step; rw [hp]

/-- No row may change the queue of waiting commands. -/
theorem pending_notMem_mayChange (c : Instr) : Part.pending ∉ mayChange c := by
  unfold mayChange
  split <;> decide

/-- Settles O2: by the frame of each command. -/
theorem everyCommandLeavesTheQueue : Obligations.EveryCommandLeavesTheQueue := by
  unfold Obligations.EveryCommandLeavesTheQueue
  intro c s t h
  obtain ⟨hframe, -⟩ := exec_moves h
  exact hframe .pending (pending_notMem_mayChange c)

/-! ### The settlement of O3 -/

/-- Every row but RESET_RELEASE answers a next state whatever the state is. -/
theorem exec_answers (c : Instr) (s : State) (h : ∀ r, c ≠ .resetRelease r) : ∃ t, exec c s = .next t := by
  cases c with
  | resetRelease r => exact absurd rfl (h r)
  | _ => exact ⟨_, rfl⟩

/-- RESET_RELEASE answers a next state but for the factory test mode of R567. -/
theorem resetRelease_answers {r : BootReport} {s : State}
    (h : s.boot.phase ≠ .inReset ∨ s.lineUp = false ∨ r.testEn = false ∨ s.boot.locked = true) :
    exec (.resetRelease r) s = .next (doResetRelease r s) := by
  refine if_neg ?_
  rintro ⟨hphase, hline, htest, hlock⟩
  simp_all

/-- Settles O3: RESET_RELEASE by the case of R567, every other row by its form. -/
theorem onlyTestModeIsRefused : Obligations.OnlyTestModeIsRefused := by
  unfold Obligations.OnlyTestModeIsRefused
  refine ⟨fun c s h => ?_, fun r s hphase hline htest hlock => if_pos ⟨hphase, hline, htest, hlock⟩⟩
  by_cases hc : ∃ r, c = .resetRelease r
  · obtain ⟨r, rfl⟩ := hc
    exact ⟨_, resetRelease_answers (h r rfl)⟩
  · exact exec_answers c s fun r hr => hc ⟨r, hr⟩

end Sys2Proof.Machine
end

section
/-!
Mailbox commands that do not act (R432, R434, R444, R446): a command past its limit posts DEADLINE_MISSED (O5), and one that its
own checks refuse posts their status (O6), with no other effect.
-/
namespace Sys2Proof.Machine

/-! ### What carries a mailbox command out -/

/-- A row of a mailbox command is the shared carrying-out with the checks of its opcode, but for the rows that reset, that can
wait first, or that can break a message. -/
theorem exec_mailboxCommand {c : Instr} {mb op : Nat} (s : State) (h : mailboxCommand c = some (mb, op))
    (hop : op ∉ [0x0102, 0x0902, 0x0D02, 0x0301, 0x0B05]) :
    ∃ act, exec c s = .next (s.perform mb op (checked (cmdCheck mb op).1 (cmdCheck mb op).2) act) := by
  cases c with
  | sysReset | cryptSubmit | pwrSleep | partEnrol | ledgCredit => cases h; exact absurd (by decide) hop
  | _ => cases h <;> exact ⟨_, rfl⟩

/-! ### Statuses that refuse -/

/-- A check's answer lets a command act or refuses it: its status, where it has one, is none that completes. -/
def Refusing (o : Option Nat) : Prop := ∀ st, o = some st → completes st = false

@[simp] theorem refusing_none : Refusing none := fun _ h => by cases h

@[simp] theorem refusing_some {st : Nat} : Refusing (some st) ↔ completes st = false :=
  ⟨fun h => h st rfl, fun h _ hst => Option.some.inj hst ▸ h⟩

@[simp] theorem refusing_refuseIf {c : Bool} {st : Nat} :
    Refusing (refuseIf c st) ↔ (c = true → completes st = false) := by
  unfold refuseIf
  split <;> simp [*]

@[simp] theorem completes_invalid : completes Status.invalid = false := rfl
@[simp] theorem completes_busy : completes Status.busy = false := rfl
@[simp] theorem completes_denied : completes Status.denied = false := rfl
@[simp] theorem completes_lockedOut : completes Status.lockedOut = false := rfl
@[simp] theorem completes_keyRevoked : completes Status.keyRevoked = false := rfl

section
variable (s : State) (b : Mailbox)

/-- Every precondition of the families sys, cfg and part names a status that refuses. -/
theorem refusing_checkLow (op : Nat) : Refusing ((checkLow op).2 s b) := by
  unfold checkLow
  split <;> dsimp only [noPre, preCfgLoad, preCfgActivate, preCfgSet, preCfgGet, prePartEnrol, prePartEnrolOpen, prePartGet,
    prePartSet, prePartAbsent, prePartKept, prePartUnlock] <;> (repeat' split)  <;> simp

/-- Every precondition of the families sess, range, lf, rf and rel names a status that refuses. -/
theorem refusing_checkMid (op : Nat) : Refusing ((checkMid op).2 s b) := by
  unfold checkMid
  split <;> dsimp only [noPre, preSessPoll, preSessLast, preRangeTest, preLfDiag, preLfPhase, preLfPopulation, preRfCal, preRfHold,
    preRelRevoke, preRelCancel] <;> (repeat' split) <;> simp

/-- Every precondition of the other families but crypt.submit's names a status that refuses. -/
theorem refusing_checkHigh (mb : Nat) {op : Nat} (h : op ≠ 0x0902) : Refusing ((checkHigh mb op).2 s b) := by
  unfold checkHigh
  split
  case h_2 => exact absurd rfl h
  all_goals dsimp only [noPre, preCryptChan, preCtxOpen, preCtxClose, preCtxSave, preKeyWrite, preKeyErase, preReprovBegin,
    preReprovFinish, preLedgExport, preLedgAck, preTimeCivil, prePwrSleep, preFwWrite, preFwActivate]
  all_goals repeat' split
  all_goals simp

theorem refusing_ownCheck (mb : Nat) {op : Nat} (h : op ≠ 0x0902) : Refusing (s.ownCheck mb op) := by
  unfold State.ownCheck checked
  split
  · unfold cmdCheck
    split
    · exact refusing_checkLow _ _ op
    · split
      · exact refusing_checkMid _ _ op
      · exact refusing_checkHigh _ _ mb h
  · simp

end

/-! ### The settlement of O6 -/

/-- A refused posting of a command that runs answers with its status alone. -/
theorem refused_post {s : State} {mb op st : Nat} (hr : s.runs mb op = true) (hc : completes st = false) :
    RefusedWith s (s.post mb st []) mb st ∧ Only [.mbx, .evc, .fab] s (s.post mb st []) :=
  ⟨State.post_refused (State.runs_exists hr) hc, (State.post_moves mb st [] s).1.mono (by decide)⟩

/-- Settles O6: the shared carrying-out posts what the check answers, and ledg.credit's row checks nothing itself. -/
theorem refusedCommandHasNoEffect : Obligations.RefusedCommandHasNoEffect := by
  unfold Obligations.RefusedCommandHasNoEffect
  intro c mb op st s hcmd hop hstarted hcheck
  have hcredit : op ≠ 0x0B05 := by rintro rfl; cases hcheck
  simp only [List.mem_cons, List.not_mem_nil, or_false, not_or] at hop
  obtain ⟨hreset, hsubmit, hsleep, henrol⟩ := hop
  obtain ⟨act, hexec⟩ := exec_mailboxCommand s hcmd (by simp [hreset, hsubmit, hsleep, henrol, hcredit])
  refine ⟨_, hexec, ?_⟩
  rw [State.perform_refused hstarted hcheck]
  exact refused_post hstarted.1 (refusing_ownCheck s mb hsubmit st hcheck)

/-! ### The settlement of O5: a command that starts past its limit -/

/-- A command that starts past its limit posts DEADLINE_MISSED (R434). -/
theorem exec_late {c : Instr} {mb op : Nat} {s : State} (hcmd : mailboxCommand c = some (mb, op)) (hreset : op ≠ 0x0102)
    (hsleep : op = 0x0D02 → s.psc.state = .run) (henrol : op = 0x0301 → s.parts.enrol = none) (hr : s.runs mb op = true)
    (hp : s.rolePlaced (roleOf op) = true) (hl : (s.box mb).limit < s.now) :
    exec c s = .next (s.post mb Status.deadlineMissed []) := by
  by_cases hop : op ∈ [0x0902, 0x0D02, 0x0301, 0x0B05]
  · have hnot : ¬s.now ≤ (s.box mb).limit := Nat.not_le.mpr hl
    have late : ∀ {w : Prop} [Decidable w] {u check act}, ¬w → (if w then u else s.perform mb op check act) =
        s.post mb Status.deadlineMissed [] := fun hw => (if_neg hw).trans (State.perform_late hr hp hl)
    cases c with
    | cryptSubmit => cases hcmd; exact congrArg _ (late (by simp [hnot]))
    | ledgCredit => cases hcmd; exact congrArg _ (late (by simp [State.creditWaits, hnot]))
    | pwrSleep => cases hcmd; exact congrArg _ (late (by simp [hsleep rfl]))
    | partEnrol => cases hcmd; exact congrArg _ (late (by simp [henrol rfl]))
    | _ => cases hcmd <;> exact absurd hop (by decide)
  · obtain ⟨act, hexec⟩ := exec_mailboxCommand s hcmd (by simpa [hreset] using hop)
    rw [hexec, State.perform_late hr hp hl]

/-! ### What considering the waiting requests leaves of the mailboxes and the keys (R92, R94) -/

/-- The keys stand, and each mailbox but for its commit point. -/
def KeepsResults (s t : State) : Prop := t.keys = s.keys ∧ ∀ n, ∃ c, t.box n = { s.box n with committed := c }

namespace KeepsResults

theorem of_only {ps : List Part} {s t : State} (h : Only ps s t) (hk : Part.keys ∉ ps := by decide)
    (hm : Part.mbx ∉ ps := by decide) : KeepsResults s t :=
  ⟨h .keys hk, fun n => ⟨(s.box n).committed, State.box_of_mbx (h.mbx hm) n⟩⟩

theorem trans {s t u : State} (h : KeepsResults s t) (k : KeepsResults t u) : KeepsResults s u := by
  refine ⟨k.1.trans h.1, fun n => ?_⟩
  obtain ⟨c, hc⟩ := h.2 n
  obtain ⟨d, hd⟩ := k.2 n
  exact ⟨d, by rw [hd, hc]⟩

theorem refl (s : State) : KeepsResults s s := of_only (Only.refl [] s)

theorem foldl {α : Type} {f : State → α → State} {xs : List α} (h : ∀ t, ∀ x ∈ xs, KeepsResults t (f t x)) (s : State) :
    KeepsResults s (xs.foldl f s) := by
  induction xs generalizing s with
  | nil => exact refl s
  | cons x xs ih => exact (h s x (by simp)).trans (ih (fun t y hy => h t y (by simp [hy])) _)

end KeepsResults

/-- Updating a mailbox that does not exist leaves every mailbox as it was. -/
theorem State.box_modBox_of_le {s : State} {n : Nat} (f : Mailbox → Mailbox) (h : s.mbx.boxes.length ≤ n) (m : Nat) :
    (s.modBox n f).box m = s.box m := by
  unfold State.box State.modBox
  simp [List.modify_eq_self h]

theorem State.commit_keepsResults (s : State) (n : Nat) : KeepsResults s (s.commit n) := by
  refine ⟨rfl, fun m => ?_⟩
  unfold State.commit
  by_cases hm : m = n
  · subst hm
    by_cases hl : m < s.mbx.boxes.length
    · exact ⟨true, State.box_modBox _ hl⟩
    · exact ⟨_, State.box_modBox_of_le _ (Nat.le_of_not_lt hl) m⟩
  · exact ⟨_, State.box_modBox_ne _ hm⟩

theorem State.admitBurst_keepsResults (b : Burst) (applied : List (List (Nat × Nat))) (scale : Nat) (s : State) :
    KeepsResults s (s.admitBurst b applied scale) := by
  unfold State.admitBurst
  extract_lets b1 s0 s1 cs s2
  have h0 : KeepsResults s s0 := .foldl (fun t n _ => t.commit_keepsResults n) s
  have h1 : KeepsResults s0 s1 := .of_only (State.modLf_moves _ _ id).1
  have h2 : KeepsResults s1 s2 := .foldl (fun t c _ => (KeepsResults.of_only (State.modLfChan_moves _ _ _).1).trans
    (.of_only (State.burstCond_moves _ _ _).1)) s1
  have hs2 : KeepsResults s s2 := h0.trans (h1.trans h2)
  clear_value s2
  split
  · exact hs2.trans (.of_only (State.startRound_moves _ _).1)
  · exact hs2.trans (.of_only (State.startExchange_moves _ _).1)
  · exact hs2

/-- Stopping a burst that is no wake burst ends no round, so that no key is dropped (R97, R189). -/
theorem State.stopBurst_keepsResults {b : Burst} (s : State) (h : b.cls ≠ .wake) : KeepsResults s (s.stopBurst b) := by
  unfold State.stopBurst
  simp only [if_neg h]
  exact .of_only (State.modLf_moves _ _ id).1

theorem mem_of_mem_sortBursts {key : Burst → Nat} {x : Burst} {l : List Burst} (h : x ∈ sortBursts key l) : x ∈ l := by
  have step : ∀ (l acc : List Burst), x ∈ l.foldl (fun acc b =>
      acc.filter (fun y => decide (key b ≤ key y)) ++ b :: acc.filter (fun y => decide (key y < key b))) acc → x ∈ acc ∨ x ∈ l := by
    intro l
    induction l with
    | nil => exact fun acc h => .inl h
    | cons b l ih =>
      intro acc h
      rcases ih _ h with h | h
      · simp only [List.mem_append, List.mem_cons, List.mem_filter] at h ⊢
        tauto
      · exact .inr (List.mem_cons_of_mem b h)
  exact (step l [] h).resolve_left (by simp)

/-- The budget is freed by stopping diagnostics and population exchanges alone (R94). -/
theorem State.freeBudget_keepsResults (enough : State → Bool) (s : State) : KeepsResults s (s.freeBudget enough) := by
  unfold State.freeBudget
  refine KeepsResults.foldl (fun t b hb => ?_) s
  have hcls : b.cls ≠ .wake := by
    rcases List.mem_append.mp hb with h | h
    · have := (List.mem_filter.mp (mem_of_mem_sortBursts h)).2
      intro hw; simp [hw] at this
    · have := (List.mem_filter.mp (mem_of_mem_sortBursts h)).2
      intro hw; simp [hw] at this
  split
  · exact .refl t
  · exact t.stopBurst_keepsResults hcls

theorem State.admitWake_keepsResults (w : Burst) (s : State) : KeepsResults s (s.admitWake w).1 := by
  unfold State.admitWake
  extract_lets s1 ps need s2 free ap
  have h1 : KeepsResults s s1 := .foldl (fun t f hf => t.stopBurst_keepsResults (by
    intro hw
    have := (List.mem_filter.mp hf).2
    simp [hw] at this)) s
  have h2 : KeepsResults s s2 := h1.trans (State.freeBudget_keepsResults _ s1)
  clear_value s2
  split
  · exact h2.trans (State.admitBurst_keepsResults _ _ _ s2)
  · split
    · exact (h2.trans (State.admitBurst_keepsResults _ _ _ s2)).trans (.of_only (State.derateEvent_moves _).1)
    · exact h2

theorem State.considerWake_keepsResults (s : State) : KeepsResults s s.considerWake.1 := by
  unfold State.considerWake
  split
  · exact .refl s
  · split
    · exact State.admitWake_keepsResults _ s
    · exact .refl s

theorem State.considerOne_keepsResults (p : State × Bool) (b : Burst) : KeepsResults p.1 (State.considerOne p b).1 := by
  unfold State.considerOne
  extract_lets s ps
  split
  · exact (KeepsResults.of_only (State.setEntry_moves _ _ _ s).1).trans (.of_only (State.endCoilBurst_moves _ _).1)
  · split
    · exact .refl s
    · split
      · exact State.admitBurst_keepsResults _ _ _ s
      · exact .refl s

theorem State.considerAll_keepsResults (s : State) : KeepsResults s s.considerAll := by
  unfold State.considerAll
  extract_lets w pops diags r
  have hw : KeepsResults s w.1 := (KeepsResults.of_only (State.settleVlf_moves s).1).trans (State.considerWake_keepsResults _)
  have hr : ∀ (xs : List Burst) (p : State × Bool), KeepsResults p.1 (xs.foldl State.considerOne p).1 := by
    intro xs
    induction xs with
    | nil => exact fun p => .refl p.1
    | cons x xs ih => exact fun p => (State.considerOne_keepsResults p x).trans (ih _)
  split
  · exact hw
  · exact (hw.trans (hr _ (w.1, true))).trans (.of_only (State.countRun_moves _ _).1)

/-! ### The settlement of O5: the limit of an issued command -/

/-- A posted result stands while only commit points move. -/
theorem Posted.keepsResults {s t u : State} {mb status consumed : Nat} {body : List Byte} (h : Posted s t mb status consumed body)
    (k : KeepsResults t u) : Posted s u mb status consumed body := by
  obtain ⟨c, hc⟩ := k.2 mb
  unfold Posted at h ⊢
  rw [hc]
  exact h

/-- COMMAND_LIMIT posts DEADLINE_MISSED on a command that has not committed, gives up what served it, and leaves the keys (R434). -/
theorem commandLimit_posts {mb : Nat} {s : State} (hissued : (s.box mb).st = .issued) (hnot : s.hasCommitted mb = false)
    (hlimit : (s.box mb).limit ≤ s.now) :
    Answers (.commandLimit mb) s fun t =>
      Posted s t mb Status.deadlineMissed 0 [] ∧ t.keys = s.keys ∧ t.crypt = s.crypt ∧ t.rel = s.rel ∧ t.mem = s.mem := by
  have hexec : exec (.commandLimit mb) s = .next ((s.forget mb).post mb Status.deadlineMissed []).considerAll :=
    congrArg _ (if_pos ⟨hissued, hnot, hlimit⟩)
  have hforget := (State.forget_moves mb s).1
  have hbox : (s.forget mb).box mb = s.box mb := State.box_of_mbx (hforget.mbx (by decide)) mb
  have hposted : RefusedWith (s.forget mb) ((s.forget mb).post mb Status.deadlineMissed []) mb Status.deadlineMissed :=
    State.post_refused (State.box_exists (by rw [hbox, hissued]; decide)) rfl
  have hkeeps := State.considerAll_keepsResults ((s.forget mb).post mb Status.deadlineMissed [])
  refine ⟨_, hexec, ?_, ?_, exec_same hexec .crypt, exec_same hexec .rel, exec_same hexec .mem⟩
  · have hnow : (s.forget mb).now = s.now := by unfold State.now; rw [hforget .tbu (by decide)]
    exact (Posted.of_same hposted (by rw [hbox]) hnow).keepsResults hkeeps
  · rw [hkeeps.1, (State.post_moves _ _ _ _).1 .keys (by decide), hforget .keys (by decide)]

/-- Settles O5: what starts late by `exec_late`, what is issued and late by `commandLimit_posts`. -/
theorem lateCommandPostsDeadlineMissed : Obligations.LateCommandPostsDeadlineMissed := by
  unfold Obligations.LateCommandPostsDeadlineMissed
  refine ⟨fun c mb op s hcmd hreset hsleep henrol hr hp hl => ?_, fun mb s => commandLimit_posts⟩
  exact ⟨_, exec_late hcmd hreset hsleep henrol hr hp hl, refused_post hr rfl⟩

end Sys2Proof.Machine
end

section
/-!
PROOF. The doorbell's statement of an admitted command (R432). A doorbell is work in Drift, and so a wake source, which rolls back
an entry to Drift whose commit has begun (R489, R491); the roll-back posts ROLLED_BACK in the mailbox of pwr.sleep (R454). The
statement has the rung mailbox ISSUED after its admission in every state, so also in one, which no entry of the block leads to,
where the mailbox that pwr.sleep waits in is FREE and is the one that is rung. Refutes O7.
-/
namespace Sys2Proof.Machine

/-! ### The refutation of O7: the bell of the mailbox that pwr.sleep is said to wait in -/

namespace RungSleeper

/-- A FREE mailbox with sys.info, seq 7, in its command area. -/
def box : Mailbox := { cmd := wordsOf 64 (leBytes 2 0x0101 ++ leBytes 2 7 ++ leBytes 4 0 ++ [0xFF] ++ zeros 247) }

/-- The block 1,000 s into its epoch, with an entry to Drift in its commit phase that is to post in mailbox 0. -/
def state : State :=
  { tbu := { ns := 1000000000000 }, boot := { phase := .running }
    mbx := { ready := true, boxes := (List.replicate 8 {}).set 0 box }
    psc := { entry := some .drift, committed := true, sleepMb := some 0 } }

theorem admitted : (state.ring 0).admission 0 = none := by decide +kernel

/-- The doorbell's wake ends the entry, whose result takes the place of the command rung. -/
theorem roll_back_posts : ((doDoorbell 0 state).box 0).st = .posted := by decide +kernel

end RungSleeper

open RungSleeper in
/-- Refutes O7: the clause of an admitted command has its mailbox ISSUED, but the wake that the doorbell is can roll an entry back,
which posts in the mailbox that the entry names (R454, R489, R491). -/
theorem not_doorbellAdmitsOrRefuses : ¬ Obligations.DoorbellAdmitsOrRefuses := by
  unfold Obligations.DoorbellAdmitsOrRefuses
  rintro ⟨-, hadmits, -⟩
  obtain ⟨t, hexec, hissued, -⟩ := hadmits 0 state rfl (by decide) (by decide) rfl rfl admitted
  have hafter : doDoorbell 0 state = t := Host.Outcome.next.inj hexec
  rw [← hafter, roll_back_posts] at hissued
  cases hissued

end Sys2Proof.Machine
end

section
/-!
The mailboxes' registers (R433, R435, R436, R439) and the replies kept (R427), from which O8 follows.
-/
namespace Sys2Proof.Machine

theorem fld_lt (w : Word) (lo len : Nat) : fld w lo len < 2 ^ len := Nat.mod_lt _ (Nat.two_pow_pos len)

/-- The word that a read answers is kept beside the mailboxes. -/
@[simp] theorem State.answered_box (p : Word × State) (n : Nat) : (State.answered p).box n = p.2.box n := rfl

/-- The reread flag of a result that has been read at least twice (R435). -/
theorem Mailbox.resWord_reread {b : Mailbox} (hst : b.st = .posted) (hreads : 2 ≤ b.reads) :
    b.resWord 1 = b.res.getD 1 0 ||| 0x10000 := by
  unfold Mailbox.resWord
  simp [hst, hreads]

/-- Settles O8: each register by its row. -/
theorem mailboxAreasAndResults : Obligations.MailboxAreasAndResults := by
  unfold Obligations.MailboxAreasAndResults
  refine ⟨?area, ?start, ?read, ?ack, fun s => ⟨_, rfl, rfl, exec_only (c := .keptReplyExpiry) rfl⟩⟩
  case area =>
    intro mb k w s hmb hk hon hlen
    refine ⟨doCommandAreaWrite mb k w s, rfl, ?_, (doCommandAreaWrite_moves mb k w s).1⟩
    have hserved : ¬(!(decide (mb < 8) && decide (k < 64) && s.pdOn 6)) = true := by simp [hmb, hk, hon]
    unfold doCommandAreaWrite
    simp only [if_neg hserved]
    by_cases hfree : (s.box mb).st = .free
    · simp only [if_pos hfree]
      exact ⟨State.box_modBox _ (by omega), rfl⟩
    · simp only [if_neg hfree]
      exact ⟨rfl, rfl⟩
  case start =>
    intro r n s hnext hserves hn
    refine ⟨doCommandStart r s, rfl, ?_⟩
    have hframe : Only [.mbx] s (doCommandStart r s) := (doCommandStart_moves r s).1
    have hstart : doCommandStart r s = s.modBox n fun b => { b with started := true } := by
      unfold doCommandStart
      rw [hnext]
      exact if_pos hserves
    rw [hstart] at hframe ⊢
    exact ⟨State.box_modBox _ hn, fun m hm => State.box_modBox_ne _ hm, hframe⟩
  case read =>
    intro mb s hmb hon hposted hlen
    refine ⟨doMbnRes0Read mb s, rfl, ?_⟩
    have hframe : Only [.mbx] s (doMbnRes0Read mb s) := (doMbnRes0Read_moves mb s).1
    have hbox : (doMbnRes0Read mb s).box mb = { s.box mb with reads := (s.box mb).reads + 1 } := by
      unfold doMbnRes0Read readRes0
      rw [if_pos (by simp [hmb, hon])]
      simp only [State.answered_box, if_pos hposted]
      exact State.box_modBox _ (by omega)
    dsimp only
    rw [hbox]
    exact ⟨rfl, rfl, fun hreads => Mailbox.resWord_reread hposted hreads, hframe⟩
  case ack =>
    intro w s hon hlen
    refine ⟨doMbxAckWrite w s, rfl, ?_, (doMbxAckWrite_moves w s).1⟩
    have hmb : fld w 0 3 < s.mbx.boxes.length := hlen ▸ fld_lt w 0 3
    unfold doMbxAckWrite State.acknowledge
    rw [if_pos hon]
    by_cases hseq : (s.box (fld w 0 3)).st = .posted ∧ (s.box (fld w 0 3)).seq = fld w 16 16
    · simp only [if_pos hseq]
      rw [State.box_modBox _ hmb]
      exact ⟨rfl, rfl, rfl⟩
    · simp only [if_neg hseq]
      exact ⟨rfl, rfl⟩

end Sys2Proof.Machine
end

section
/-!
The timers' happenings (R348 to R357): what due ticks and the events they cause leave of the TMR block, an event that nothing
selects, and a timer as its compare units leave it. The statements on timers, alarms and captures follow from these.
-/
namespace Sys2Proof.Machine

/-! ### What ticks and events leave of the TMR block -/

/-- What ticks, events and compare units leave: the selections of the trigger matrix, the number of timers, the alarms, the
captures, the bits set in TMR_EVT0, and the timebase. -/
structure Clocked (s t : State) : Prop where
  trig : ∀ m, (t.timer m).trig = (s.timer m).trig
  capSrc : ∀ m, (t.timer m).capSrc = (s.timer m).capSrc
  pinCtrl : ∀ p, (t.pin p).ctrl = (s.pin p).ctrl
  length : t.tmr.timers.length = s.tmr.timers.length
  alarms : t.tmr.alarms = s.tmr.alarms
  caps : t.tmr.caps = s.tmr.caps
  evt1 : t.tmr.evt1 = s.tmr.evt1
  evt0 : ∀ b, s.tmr.evt0.getLsbD b = true → t.tmr.evt0.getLsbD b = true
  tbu : t.tbu = s.tbu

namespace Clocked

theorem of_same {s t : State} (h : t.tmr = s.tmr) (k : t.tbu = s.tbu) : Clocked s t := by
  constructor <;> simp [State.timer, State.pin, h, k]

theorem refl (s : State) : Clocked s s := of_same rfl rfl

theorem trans {s t u : State} (h : Clocked s t) (k : Clocked t u) : Clocked s u where
  trig m := (k.trig m).trans (h.trig m)
  capSrc m := (k.capSrc m).trans (h.capSrc m)
  pinCtrl p := (k.pinCtrl p).trans (h.pinCtrl p)
  length := k.length.trans h.length
  alarms := k.alarms.trans h.alarms
  caps := k.caps.trans h.caps
  evt1 := k.evt1.trans h.evt1
  evt0 b hb := k.evt0 b (h.evt0 b hb)
  tbu := k.tbu.trans h.tbu

theorem foldl {α β : Type} {p : β → State} {s : State} {xs : List α} {f : β → α → β} {x : β} (h : Clocked s (p x))
    (k : ∀ y a, Clocked (p y) (p (f y a))) : Clocked s (p (xs.foldl f x)) := by
  induction xs generalizing x with
  | nil => exact h
  | cons a xs ih => exact ih (h.trans (k x a))

end Clocked

/-- An update of a timer that leaves its selections leaves what `Clocked` says. -/
theorem State.modTimer_clocked (s : State) (n : Nat) {f : Timer → Timer} (hf : ∀ x, (f x).trig = x.trig ∧ (f x).capSrc = x.capSrc) :
    Clocked s (s.modTimer n f) := by
  have htimer : ∀ m, (s.modTimer n f).timer m = s.timer m ∨ (s.modTimer n f).timer m = f (s.timer m) := by
    intro m
    by_cases hm : m = n
    · subst hm
      by_cases hl : m < s.tmr.timers.length
      · exact .inr (State.timer_modTimer f hl)
      · left
        simp [State.timer, State.modTimer, List.modify_eq_self (Nat.le_of_not_lt hl)]
    · exact .inl (State.timer_modTimer_ne f hm)
  constructor
  · intro m; rcases htimer m with h | h <;> rw [h]; exact (hf _).1
  · intro m; rcases htimer m with h | h <;> rw [h]; exact (hf _).2
  · exact fun _ => rfl
  · exact State.modTimer_sameTimers s n f
  · rfl
  · rfl
  · rfl
  · exact fun _ hb => hb
  · rfl

theorem getLsbD_bit {b i : Nat} (hb : b < 32) : (word (1 <<< b)).getLsbD i = decide (i = b) := by
  unfold word
  rw [BitVec.getLsbD_ofNat, Nat.one_shiftLeft, Nat.testBit_two_pow]
  by_cases h : b = i
  · subst h; simp [hb]
  · simp [h, Ne.symm h]

@[simp] theorem State.tmrEvt0_tmr (b : Nat) (s : State) :
    (s.tmrEvt0 b).tmr = { s.tmr with evt0 := s.tmr.evt0 ||| word (1 <<< b) } := by
  unfold State.tmrEvt0
  split
  · exact (State.raise_moves _ _ _).1 .tmr (by decide)
  · rfl

@[simp] theorem State.tmrEvt0_tbu (b : Nat) (s : State) : (s.tmrEvt0 b).tbu = s.tbu := (State.tmrEvt0_moves b s).1 .tbu (by decide)

@[simp] theorem State.tmrEvt0_timer (b : Nat) (s : State) (m : Nat) : (s.tmrEvt0 b).timer m = s.timer m := by
  simp [State.timer]

theorem State.tmrEvt0_clocked (b : Nat) (s : State) : Clocked s (s.tmrEvt0 b) := by
  constructor <;> simp +contextual [State.pin]

theorem State.tmrEvt0_sets {b : Nat} (s : State) (hb : b < 32) : (s.tmrEvt0 b).tmr.evt0.getLsbD b = true := by
  simp [getLsbD_bit hb]

/-! ### Level pins (R361) -/

/-- A pin as its source leaves it: one whose source is a level has that level (R361). -/
def State.followed (s : State) (p : CmpPin) : CmpPin :=
  if levelCode (fld p.ctrl 10 6) then { p with level := s.sourceLevel (fld p.ctrl 10 6) } else p

/-- An update of a pin that keeps its control. -/
theorem State.modPin_clocked (s : State) (m : Nat) {f : CmpPin → CmpPin} (hf : ∀ x, (f x).ctrl = x.ctrl) :
    Clocked s (s.modPin m f) where
  trig _ := rfl
  capSrc _ := rfl
  pinCtrl p := by
    unfold State.pin State.modPin
    dsimp only [State.modTmr_tmr]
    rw [List.getD_eq_getElem?_getD, List.getD_eq_getElem?_getD, List.getElem?_modify]
    cases s.tmr.pins[p]? with
    | none => rfl
    | some x => by_cases h : m = p <;> simp [h, hf]
  length := rfl
  alarms := rfl
  caps := rfl
  evt1 := rfl
  evt0 _ h := h
  tbu := rfl

/-- One pin follows its source. -/
def State.followPin (s : State) (m : Nat) : State :=
  if levelCode (fld (s.pin m).ctrl 10 6) then s.modPin m fun p => { p with level := s.sourceLevel (fld p.ctrl 10 6) } else s

theorem State.followPins_eq (s : State) : s.followPins = (List.range 4).foldl State.followPin s := rfl

theorem State.followPin_cases (s : State) (m : Nat) : s.followPin m = s ∨
    s.followPin m = s.modPin m fun p => { p with level := s.sourceLevel (fld p.ctrl 10 6) } := by
  unfold State.followPin
  split
  · exact .inr rfl
  · exact .inl rfl

theorem State.followPins_clocked (s : State) : Clocked s s.followPins := by
  refine Clocked.foldl (p := id) (.refl s) fun t m => ?_
  show Clocked t (t.followPin m)
  rcases t.followPin_cases m with h | h <;> rw [h]
  · exact .refl t
  · exact t.modPin_clocked m fun _ => rfl

/-- Following their levels leaves the timers and their event bits. -/
theorem State.followPins_same (s : State) : s.followPins.tmr.timers = s.tmr.timers ∧ s.followPins.tmr.evt0 = s.tmr.evt0 := by
  rw [State.followPins_eq]
  generalize List.range 4 = ms
  induction ms generalizing s with
  | nil => exact ⟨rfl, rfl⟩
  | cons m ms ih =>
    obtain ⟨htimers, hevt0⟩ := ih (s.followPin m)
    rcases s.followPin_cases m with h | h <;> rw [h] at htimers hevt0 <;> rw [List.foldl_cons, h] <;> exact ⟨htimers, hevt0⟩

@[simp] theorem State.followPins_timers (s : State) : s.followPins.tmr.timers = s.tmr.timers := s.followPins_same.1

@[simp] theorem State.followPins_evt0 (s : State) : s.followPins.tmr.evt0 = s.tmr.evt0 := s.followPins_same.2

@[simp] theorem State.followPins_timer (s : State) (n : Nat) : s.followPins.timer n = s.timer n := by
  unfold State.timer
  rw [State.followPins_timers]

/-! ### The compare units (R354, R355) -/

/-- A timer as the firing of a unit leaves it: its output level, and in ATPAST its LATE and its arming (R351, R355). -/
def Timer.fired (x : Timer) (unit : Nat) : Timer :=
  if unit = 0 then
    { x with
      out := true, armed0 := x.armed0 && !x.past0
      late0 := if x.past0 then word (lateOf x.cnt.toNat x.c0.toNat x.top.toNat) else x.late0 }
  else
    { x with
      out := false, armed1 := x.armed1 && !x.past1
      late1 := if x.past1 then word (lateOf x.cnt.toNat x.c1.toNat x.top.toNat) else x.late1 }

/-- A timer as its compare units leave it, CMP0 judged before CMP1 (R354). -/
def Timer.judged (x : Timer) (entered : Bool) : Timer :=
  let y := if x.unitFires 0 entered then x.fired 0 else x
  if x.unitFires 1 entered then y.fired 1 else y

/-- A unit's firing leaves the count, the phase, the control and the selections of its timer. -/
theorem Timer.fired_keeps (x : Timer) (unit : Nat) : (x.fired unit).cnt = x.cnt ∧ (x.fired unit).lastTick = x.lastTick ∧
    (x.fired unit).ctrl = x.ctrl ∧ (x.fired unit).top = x.top ∧ (x.fired unit).psc = x.psc ∧ (x.fired unit).c0 = x.c0 ∧
    (x.fired unit).c1 = x.c1 ∧ (x.fired unit).capSrc = x.capSrc := by
  unfold Timer.fired
  split <;> exact ⟨rfl, rfl, rfl, rfl, rfl, rfl, rfl, rfl⟩

theorem Timer.judged_keeps (x : Timer) (entered : Bool) : (x.judged entered).cnt = x.cnt ∧
    (x.judged entered).lastTick = x.lastTick ∧ (x.judged entered).ctrl = x.ctrl ∧ (x.judged entered).top = x.top ∧
    (x.judged entered).psc = x.psc ∧ (x.judged entered).c0 = x.c0 ∧ (x.judged entered).c1 = x.c1 ∧
    (x.judged entered).capSrc = x.capSrc := by
  unfold Timer.judged
  dsimp only
  split <;> split <;> simp only [Timer.fired_keeps, and_self]

section
variable {s : State} {n : Nat}

theorem State.fireUnit_timer (unit : Nat) (hn : n < s.tmr.timers.length) :
    (s.fireUnit n unit).1.timer n = (s.timer n).fired unit := by
  unfold State.fireUnit Timer.fired
  dsimp only
  rw [State.tmrEvt0_timer, State.timer_modTimer _ hn]
  split <;> rfl

theorem State.fireUnit_timer_ne (unit : Nat) {m : Nat} (hm : m ≠ n) : (s.fireUnit n unit).1.timer m = s.timer m := by
  unfold State.fireUnit
  dsimp only
  rw [State.tmrEvt0_timer, State.timer_modTimer_ne _ hm]

theorem State.fireUnit_clocked (s : State) (n unit : Nat) : Clocked s (s.fireUnit n unit).1 := by
  unfold State.fireUnit
  refine (s.modTimer_clocked n fun x => ?_).trans (State.tmrEvt0_clocked _ _)
  split <;> exact ⟨rfl, rfl⟩

theorem State.fireUnit_sets {unit : Nat} (s : State) (hn : n < 8) (hu : unit ≤ 1) :
    (s.fireUnit n unit).1.tmr.evt0.getLsbD (4 * n + 1 + unit) = true :=
  State.tmrEvt0_sets _ (by omega)

/-- A compare unit's firing where its condition holds. -/
def State.fireIf (s : State) (n unit : Nat) (c : Bool) : State × List TrigEvent := if c then s.fireUnit n unit else (s, [])

theorem State.fireIf_clocked (s : State) (n unit : Nat) (c : Bool) : Clocked s (s.fireIf n unit c).1 := by
  unfold State.fireIf
  split
  · exact s.fireUnit_clocked n unit
  · exact .refl s

theorem State.fireIf_timer (unit : Nat) (c : Bool) (hn : n < s.tmr.timers.length) :
    (s.fireIf n unit c).1.timer n = if c then (s.timer n).fired unit else s.timer n := by
  unfold State.fireIf
  split
  · exact State.fireUnit_timer unit hn
  · rfl

theorem State.fireIf_timer_ne (unit : Nat) (c : Bool) {m : Nat} (hm : m ≠ n) : (s.fireIf n unit c).1.timer m = s.timer m := by
  unfold State.fireIf
  split
  · exact State.fireUnit_timer_ne unit hm
  · rfl

/-- Judging a timer fires its two units where their conditions hold, then lets the pins follow. -/
theorem State.judgeTimer_state (s : State) (n : Nat) (entered : Bool) : (s.judgeTimer n entered).1 =
    ((s.fireIf n 0 ((s.timer n).unitFires 0 entered)).1.fireIf n 1 ((s.timer n).unitFires 1 entered)).1.followPins := rfl

theorem State.judgeTimer_clocked (s : State) (n : Nat) (entered : Bool) : Clocked s (s.judgeTimer n entered).1 :=
  ((s.fireIf_clocked n 0 _).trans (State.fireIf_clocked _ n 1 _)).trans (State.followPins_clocked _)

theorem State.judgeTimer_timer (entered : Bool) (hn : n < s.tmr.timers.length) :
    (s.judgeTimer n entered).1.timer n = (s.timer n).judged entered := by
  rw [State.judgeTimer_state, State.followPins_timer, State.fireIf_timer, State.fireIf_timer _ _ hn]
  · rfl
  · rw [(s.fireIf_clocked n 0 _).length]; exact hn

theorem State.judgeTimer_timer_ne (entered : Bool) {m : Nat} (hm : m ≠ n) : (s.judgeTimer n entered).1.timer m = s.timer m := by
  rw [State.judgeTimer_state, State.followPins_timer, State.fireIf_timer_ne _ _ hm, State.fireIf_timer_ne _ _ hm]

/-- A unit that fires sets its event bit (R355). -/
theorem State.judgeTimer_sets {unit : Nat} (entered : Bool) (hn : n < 8) (hu : unit ≤ 1)
    (hf : (s.timer n).unitFires unit entered = true) : (s.judgeTimer n entered).1.tmr.evt0.getLsbD (4 * n + 1 + unit) = true := by
  rw [State.judgeTimer_state, State.followPins_evt0]
  rcases Nat.le_one_iff_eq_zero_or_eq_one.mp hu with rfl | rfl
  · refine (State.fireIf_clocked _ n 1 _).evt0 _ ?_
    unfold State.fireIf
    rw [if_pos hf]
    exact State.fireUnit_sets _ hn (Nat.zero_le 1)
  · unfold State.fireIf
    rw [if_pos hf]
    exact State.fireUnit_sets _ hn (Nat.le_refl 1)

/-- Where neither unit fires, judging changes no timer and no event bit. -/
theorem State.judgeTimer_quiet {entered : Bool} (h0 : (s.timer n).unitFires 0 entered = false)
    (h1 : (s.timer n).unitFires 1 entered = false) :
    (s.judgeTimer n entered).1.tmr.timers = s.tmr.timers ∧ (s.judgeTimer n entered).1.tmr.evt0 = s.tmr.evt0 := by
  rw [State.judgeTimer_state, h0, h1]
  exact s.followPins_same

end

/-- The codes of the events that a timer produces: its wrap, its two units and its output level (R351). -/
def producedBy (n : Nat) : List Nat := [0x01 + n, 0x09 + n, 0x11 + n, 0x19 + n]

theorem State.judgeTimer_events (s : State) (n : Nat) (entered : Bool) :
    ∀ e ∈ (s.judgeTimer n entered).2, e.1 ∈ producedBy n := by
  have unit : ∀ (t : State) (unit : Nat) (c : Bool), ∀ e ∈ (t.fireIf n unit c).2, e.1 ∈ producedBy n := by
    intro t unit c e he
    unfold State.fireIf State.fireUnit at he
    split at he
    · rw [List.mem_singleton.mp he]
      unfold producedBy
      dsimp only
      split <;> simp
    · exact absurd he (by simp)
  intro e he
  have hes : (s.judgeTimer n entered).2 = (s.fireIf n 0 ((s.timer n).unitFires 0 entered)).2 ++
      ((s.fireIf n 0 ((s.timer n).unitFires 0 entered)).1.fireIf n 1 ((s.timer n).unitFires 1 entered)).2 ++
      (if !(s.timer n).out && (((s.fireIf n 0 ((s.timer n).unitFires 0 entered)).1.fireIf n 1
        ((s.timer n).unitFires 1 entered)).1.timer n).out then [(0x19 + n, n)] else []) := rfl
  rw [hes] at he
  rcases List.mem_append.mp he with he | he
  · exact (List.mem_append.mp he).elim (unit _ _ _ e) (unit _ _ _ e)
  · split at he
    · rw [List.mem_singleton.mp he]
      simp [producedBy]
    · exact absurd he (by simp)

/-! ### One count (R349) -/

/-- A field is given by its bits. -/
theorem fld_congr {v w : Word} {lo : Nat} (len : Nat) (h : ∀ i, lo ≤ i → v.getLsbD i = w.getLsbD i) : fld v lo len = fld w lo len := by
  unfold fld
  congr 1
  apply Nat.eq_of_testBit_eq
  intro i
  rw [Nat.testBit_shiftRight, Nat.testBit_shiftRight]
  exact h _ (Nat.le_add_right lo i)

theorem getLsbD_one_of_pos {i : Nat} (hi : 1 ≤ i) : (1 : Word).getLsbD i = false := by
  show (1#32).getLsbD i = false
  rw [BitVec.getLsbD_one]
  simp
  omega

/-- Clearing en leaves the other fields of TMRn_CTRL (R349, R368). -/
theorem fld_clear_en (w : Word) {lo : Nat} (hlo : 1 ≤ lo) (len : Nat) : fld (w &&& ~~~1) lo len = fld w lo len := by
  refine fld_congr len fun i hi => ?_
  rw [BitVec.getLsbD_and, BitVec.getLsbD_not, getLsbD_one_of_pos (by omega)]
  by_cases h : i < 32
  · simp [h]
  · simp [BitVec.getLsbD_of_ge w _ (Nat.le_of_not_lt h)]

/-- Setting en leaves the other fields of TMRn_CTRL (R352, R368). -/
theorem fld_set_en (w : Word) {lo : Nat} (hlo : 1 ≤ lo) (len : Nat) : fld (w ||| 1) lo len = fld w lo len := by
  refine fld_congr len fun i hi => ?_
  rw [BitVec.getLsbD_or, getLsbD_one_of_pos (by omega), Bool.or_false]

/-- A timer as one count leaves it, before its compares are judged (R349). -/
def Timer.advanced (x : Timer) : Timer :=
  if x.top.toNat ≤ x.cnt.toNat then { x with cnt := 0, ctrl := if x.oneShot then x.ctrl &&& ~~~1 else x.ctrl }
  else { x with cnt := x.cnt + 1 }

theorem Timer.advanced_keeps (x : Timer) : x.advanced.lastTick = x.lastTick ∧ x.advanced.psc = x.psc ∧ x.advanced.trig = x.trig ∧
    x.advanced.slave = x.slave ∧ x.advanced.capSrc = x.capSrc := by
  unfold Timer.advanced Timer.trig Timer.slave
  split
  · refine ⟨rfl, rfl, ?_, ?_, rfl⟩ <;> dsimp only <;> split
    exacts [fld_clear_en _ (by decide) _, rfl, fld_clear_en _ (by decide) _, rfl]
  · exact ⟨rfl, rfl, rfl, rfl, rfl⟩

theorem Timer.advanced_wraps {x : Timer} (h : x.top.toNat ≤ x.cnt.toNat) :
    x.advanced.cnt = 0 ∧ x.advanced.en = (x.en && !x.oneShot) := by
  unfold Timer.advanced
  rw [if_pos h]
  refine ⟨rfl, ?_⟩
  unfold Timer.en
  dsimp only
  cases x.oneShot <;> simp

section
variable {s : State} {n : Nat}

theorem State.modTimer_congr {f g : Timer → Timer} (h : f (s.timer n) = g (s.timer n)) : s.modTimer n f = s.modTimer n g := by
  have htimers : s.tmr.timers.modify n f = s.tmr.timers.modify n g := by
    refine List.ext_getElem? fun i => ?_
    rw [List.getElem?_modify, List.getElem?_modify]
    by_cases hi : n = i
    · subst hi
      unfold State.timer at h
      rw [List.getD_eq_getElem?_getD] at h
      cases hx : s.tmr.timers[n]? with
      | none => rfl
      | some x => rw [hx] at h; simpa using h
    · simp [hi]
  unfold State.modTimer State.modTmr
  dsimp only
  rw [htimers]

/-- One count: the count advances, a wrap sets its event bit and is an event, and the compares are judged (R349, R354). -/
theorem State.countOnce_cases (s : State) (n : Nat) :
    ((s.timer n).top.toNat ≤ (s.timer n).cnt.toNat ∧
      s.countOnce n = ((((s.modTimer n Timer.advanced).tmrEvt0 (4 * n)).judgeTimer n true).1,
        (0x01 + n, n) :: (((s.modTimer n Timer.advanced).tmrEvt0 (4 * n)).judgeTimer n true).2)) ∨
    ((s.timer n).cnt.toNat < (s.timer n).top.toNat ∧ s.countOnce n = (s.modTimer n Timer.advanced).judgeTimer n true) := by
  by_cases h : (s.timer n).top.toNat ≤ (s.timer n).cnt.toNat
  · refine .inl ⟨h, (if_pos h).trans ?_⟩
    rw [State.modTimer_congr (g := Timer.advanced) (if_pos h).symm]
  · refine .inr ⟨Nat.lt_of_not_le h, (if_neg h).trans ?_⟩
    rw [State.modTimer_congr (g := Timer.advanced) (if_neg h).symm]

/-- The update of a timer by one count. -/
theorem State.advance_clocked (s : State) (n : Nat) : Clocked s (s.modTimer n Timer.advanced) :=
  s.modTimer_clocked n fun x => ⟨x.advanced_keeps.2.2.1, x.advanced_keeps.2.2.2.2⟩

theorem State.countOnce_clocked (s : State) (n : Nat) : Clocked s (s.countOnce n).1 := by
  rcases s.countOnce_cases n with ⟨-, h⟩ | ⟨-, h⟩ <;> rw [h]
  · exact ((s.advance_clocked n).trans (State.tmrEvt0_clocked _ _)).trans (State.judgeTimer_clocked _ _ _)
  · exact (s.advance_clocked n).trans (State.judgeTimer_clocked _ _ _)

theorem State.countOnce_timer (hn : n < s.tmr.timers.length) :
    (s.countOnce n).1.timer n = (s.timer n).advanced.judged true := by
  have hl : n < (s.modTimer n Timer.advanced).tmr.timers.length := by rw [(s.advance_clocked n).length]; exact hn
  rcases s.countOnce_cases n with ⟨-, h⟩ | ⟨-, h⟩ <;> rw [h]
  · rw [State.judgeTimer_timer _ (by simpa using hl), State.tmrEvt0_timer, State.timer_modTimer _ hn]
  · rw [State.judgeTimer_timer _ hl, State.timer_modTimer _ hn]

theorem State.countOnce_timer_ne {m : Nat} (hm : m ≠ n) : (s.countOnce n).1.timer m = s.timer m := by
  rcases s.countOnce_cases n with ⟨-, h⟩ | ⟨-, h⟩ <;> rw [h]
  · dsimp only
    rw [State.judgeTimer_timer_ne _ hm, State.tmrEvt0_timer, State.timer_modTimer_ne _ hm]
  · rw [State.judgeTimer_timer_ne _ hm, State.timer_modTimer_ne _ hm]

/-- A wrap sets its event bit (R349). -/
theorem State.countOnce_sets (hn : n < 8) (h : (s.timer n).top.toNat ≤ (s.timer n).cnt.toNat) :
    (s.countOnce n).1.tmr.evt0.getLsbD (4 * n) = true := by
  rcases s.countOnce_cases n with ⟨-, hw⟩ | ⟨hlt, -⟩
  · rw [hw]
    exact (State.judgeTimer_clocked _ _ _).evt0 _ (State.tmrEvt0_sets _ (by omega))
  · exact absurd h (Nat.not_le.mpr hlt)

theorem State.countOnce_events (s : State) (n : Nat) : ∀ e ∈ (s.countOnce n).2, e.1 ∈ producedBy n := by
  rcases s.countOnce_cases n with ⟨-, h⟩ | ⟨-, h⟩ <;> rw [h]
  · intro e he
    rcases List.mem_cons.mp he with rfl | he
    · simp [producedBy]
    · exact State.judgeTimer_events _ _ _ e he
  · exact State.judgeTimer_events _ _ _

end

/-! ### A tick (R348, R352) -/

/-- The tick phase of a timer moves on by one period. -/
def Timer.phased (x : Timer) : Timer := { x with lastTick := x.nextTick }

theorem State.tickOne_eq (s : State) (n : Nat) (counted : Bool) : s.tickOne n counted =
    if counted then (s.modTimer n Timer.phased).countOnce n else (s.modTimer n Timer.phased, []) := rfl

theorem State.phase_clocked (s : State) (n : Nat) : Clocked s (s.modTimer n Timer.phased) :=
  s.modTimer_clocked n fun _ => ⟨rfl, rfl⟩

theorem State.tickOne_clocked (s : State) (n : Nat) (counted : Bool) : Clocked s (s.tickOne n counted).1 := by
  rw [State.tickOne_eq]
  split
  · exact (s.phase_clocked n).trans (State.countOnce_clocked _ n)
  · exact s.phase_clocked n

theorem State.tickOne_timer_ne {s : State} {n m : Nat} (counted : Bool) (hm : m ≠ n) :
    (s.tickOne n counted).1.timer m = s.timer m := by
  rw [State.tickOne_eq]
  split
  · rw [State.countOnce_timer_ne hm, State.timer_modTimer_ne _ hm]
  · exact State.timer_modTimer_ne _ hm

theorem State.tickOne_events (s : State) (n : Nat) (counted : Bool) : ∀ e ∈ (s.tickOne n counted).2, e.1 ∈ producedBy n := by
  rw [State.tickOne_eq]
  split
  · exact State.countOnce_events _ n
  · exact fun e he => absurd he (by simp)

/-! ### Events: what they leave, and those that nothing selects (R351 to R354) -/

theorem State.slaveAct_clocked (s : State) (n : Nat) : Clocked s (s.slaveAct n).1 := by
  have own : Clocked s (if s.tickDue n then s.tickOne n true else (s, [])).1 := by
    split
    · exact s.tickOne_clocked n true
    · exact .refl s
  unfold State.slaveAct
  dsimp only
  split
  · exact (own.trans (State.modTimer_clocked _ n fun _ => by exact ⟨rfl, rfl⟩)).trans (State.judgeTimer_clocked _ _ _)
  · split
    · exact s.countOnce_clocked n
    · exact .refl s
  · split
    · exact .refl s
    · exact s.modTimer_clocked n fun x => ⟨fld_set_en x.ctrl (by decide) 6, rfl⟩
  · exact .refl s

theorem State.captureUnit_clocked (s : State) (n : Nat) : Clocked s (s.captureUnit n) := by
  unfold State.captureUnit
  dsimp only
  split
  · exact (s.modTimer_clocked n fun _ => by exact ⟨rfl, rfl⟩).trans (State.tmrEvt0_clocked _ _)
  · exact s.modTimer_clocked n fun _ => ⟨rfl, rfl⟩

theorem State.spread_clocked (e : TrigEvent) (s : State) : Clocked s (s.spread e).1 := by
  unfold State.spread
  dsimp only
  refine Clocked.foldl (p := id) (Clocked.foldl (p := id) (Clocked.foldl (p := Prod.fst) (.refl s) ?slaves) ?units) ?pins
  case slaves =>
    intro acc n
    split
    · exact State.slaveAct_clocked acc.1 n
    · exact .refl _
  case units =>
    intro t n
    split
    · exact State.captureUnit_clocked t n
    · exact .refl _
  case pins =>
    intro t m
    split
    · refine State.modPin_clocked t m fun p => ?_
      unfold CmpPin.act
      split <;> rfl
    · exact .refl _

theorem State.propagate_clocked (k : Nat) (es : List TrigEvent) (s : State) : Clocked s (s.propagate k es) := by
  induction k generalizing es s with
  | zero => exact .refl s
  | succ k ih =>
    unfold State.propagate
    dsimp only
    split
    · exact .refl s
    · refine Clocked.trans ?_ (ih _ _)
      exact Clocked.foldl (p := Prod.fst) (x := (s, [])) (.refl s) fun acc e => State.spread_clocked e acc.1

theorem State.settle_clocked (r : State × List TrigEvent) : Clocked r.1 (State.settle r) := State.propagate_clocked _ _ _

theorem State.ownTicks_clocked (m step : Nat) (counted : Bool) (k : Nat) (s : State) :
    Clocked s (s.ownTicks m step counted k).1 := by
  induction k generalizing s with
  | zero => exact .refl s
  | succ k ih =>
    unfold State.ownTicks
    split
    · exact (State.tickOne_clocked _ _ _).trans (ih _)
    · exact .refl s

theorem State.takeTick_clocked (n : Nat) (s : State) : Clocked s (s.takeTick n) := by
  refine Clocked.trans ?_ (State.settle_clocked _)
  exact Clocked.foldl (p := Prod.fst) (x := (s, [])) (.refl s) fun acc m => State.ownTicks_clocked m _ _ _ acc.1

theorem State.ticksDue_clocked (n k : Nat) (s : State) : Clocked s (s.ticksDue n k) := by
  induction k generalizing s with
  | zero => exact .refl s
  | succ k ih =>
    unfold State.ticksDue
    split
    · exact (State.takeTick_clocked _ _).trans (ih _)
    · exact .refl s

theorem State.tickFirst_clocked (n : Nat) (s : State) : Clocked s (s.tickFirst n) := State.ticksDue_clocked _ _ _

theorem State.ticksFirst_clocked (s : State) : Clocked s s.ticksFirst :=
  Clocked.foldl (p := id) (.refl s) fun t n => State.tickFirst_clocked n t

/-- With no tick of any timer due, nothing comes before an event from outside. -/
theorem State.ticksFirst_of_none_due {s : State} (h : ∀ m, m < 8 → s.tickDue m = false) : s.ticksFirst = s := by
  unfold State.ticksFirst
  have : ∀ ns : List Nat, (∀ n ∈ ns, n < 8) → ns.foldl (fun t n => t.tickFirst n) s = s := by
    intro ns
    induction ns with
    | nil => exact fun _ => rfl
    | cons n ns ih =>
      intro hns
      rw [List.foldl_cons, State.tickFirst_of_not_due (h n (hns n (by simp)))]
      exact ih fun k hk => hns k (by simp [hk])
  exact this _ fun n hn => List.mem_range.mp hn

/-- What nothing selects in one state, nothing selects in one that ticks and events lead to. -/
theorem State.unheard.clocked {s t : State} {code : Nat} (h : s.unheard code) (k : Clocked s t) : t.unheard code := by
  refine ⟨fun m hm => ?_, fun p hp => ?_⟩
  · rw [k.trig, k.capSrc]; exact h.1 m hm
  · rw [k.pinCtrl]; exact h.2 p hp

theorem State.alone.unheard {s : State} {n code : Nat} (h : s.alone n) (hc : code ∈ producedBy n) : s.unheard code := by
  obtain ⟨hwrap, hcmp0, hcmp1, hout⟩ := h
  simp only [producedBy, List.mem_cons, List.not_mem_nil, or_false] at hc
  rcases hc with rfl | rfl | rfl | rfl <;> assumption

/-- A fold each of whose steps leaves its value leaves it. -/
theorem foldl_eq_self {α β : Type} {f : β → α → β} {x : β} {xs : List α} (h : ∀ a ∈ xs, f x a = x) : xs.foldl f x = x := by
  induction xs with
  | nil => rfl
  | cons a xs ih => rw [List.foldl_cons, h a (by simp)]; exact ih fun b hb => h b (by simp [hb])

/-- An event that nothing selects does nothing. -/
theorem State.spread_unheard {s : State} {e : TrigEvent} (h : s.unheard e.1) : s.spread e = (s, []) := by
  unfold State.spread
  dsimp only
  rw [foldl_eq_self (x := (s, [])), foldl_eq_self (x := s), foldl_eq_self (x := s)]
  · exact fun m hm => if_neg fun hs => h.2 m (List.mem_range.mp hm) hs.1
  · exact fun n hn => if_neg fun hs => (h.1 n (List.mem_range.mp hn)).2 hs.1
  · exact fun n hn => if_neg fun hs => (h.1 n (List.mem_range.mp hn)).1 hs.1

theorem State.propagate_unheard {s : State} {es : List TrigEvent} (k : Nat) (h : ∀ e ∈ es, s.unheard e.1) :
    s.propagate k es = s := by
  cases k with
  | zero => rfl
  | succ k =>
    unfold State.propagate
    dsimp only
    split
    · rfl
    · rw [foldl_eq_self (x := (s, []))]
      · cases k <;> rfl
      · intro e he
        dsimp only
        rw [State.spread_unheard (h e he)]
        rfl

/-- Events that nothing selects settle at once. -/
theorem State.settle_unheard {r : State × List TrigEvent} (h : ∀ e ∈ r.2, r.1.unheard e.1) : State.settle r = r.1 :=
  State.propagate_unheard 32 h

/-- The events that a timer produces settle at once where nothing selects them. -/
theorem State.alone.settles {s : State} {n : Nat} {r : State × List TrigEvent} (h : s.alone n) (k : Clocked s r.1)
    (he : ∀ e ∈ r.2, e.1 ∈ producedBy n) : State.settle r = r.1 :=
  State.settle_unheard fun e hm => (h.unheard (he e hm)).clocked k

/-! ### A step on which one tick of one timer falls (R348, R354) -/

/-- A fold of which one place alone acts. -/
theorem foldl_eq_single {α β : Type} {f : β → α → β} {x : β} {a : α} {xs : List α} (ha : a ∈ xs) (hd : xs.Nodup)
    (before : ∀ b ∈ xs, b ≠ a → f x b = x) (after : ∀ b ∈ xs, b ≠ a → f (f x a) b = f x a) : xs.foldl f x = f x a := by
  induction xs with
  | nil => exact absurd ha (by simp)
  | cons b xs ih =>
    rw [List.nodup_cons] at hd
    rw [List.foldl_cons]
    by_cases hb : b = a
    · subst hb
      exact foldl_eq_self fun c hc => after c (by simp [hc]) fun h => hd.1 (h ▸ hc)
    · rw [before b (by simp) hb]
      exact ih ((List.mem_cons.mp ha).resolve_left (Ne.symm hb)) hd.2 (fun c hc => before c (by simp [hc]))
        fun c hc => after c (by simp [hc])

/-- A timer's tick is due by the timer's own registers and the time. -/
theorem State.tickDue_congr {s t : State} {n : Nat} (h : t.timer n = s.timer n) (hn : t.tbu = s.tbu) : t.tickDue n = s.tickDue n := by
  unfold State.tickDue State.tickMode State.now
  rw [h, hn]

section
variable {s : State} {n : Nat}

/-- A tick leaves the phase one period on, and the period. -/
theorem State.tickOne_phase (counted : Bool) (hn : n < s.tmr.timers.length) :
    ((s.tickOne n counted).1.timer n).lastTick = (s.timer n).nextTick ∧
      ((s.tickOne n counted).1.timer n).psc = (s.timer n).psc := by
  have hphase : (s.modTimer n Timer.phased).timer n = (s.timer n).phased := State.timer_modTimer _ hn
  rw [State.tickOne_eq]
  split
  · rw [State.countOnce_timer (by rw [(s.phase_clocked n).length]; exact hn), hphase]
    obtain ⟨-, hlast, -, -, hpsc, -⟩ := (s.timer n).phased.advanced.judged_keeps true
    obtain ⟨hlast', hpsc', -⟩ := (s.timer n).phased.advanced_keeps
    exact ⟨hlast.trans hlast', hpsc.trans hpsc'⟩
  · rw [hphase]
    exact ⟨rfl, rfl⟩

theorem State.ownTicks_not_due {m step : Nat} {counted : Bool} (k : Nat)
    (h : (s.tickDue m && s.stepsAgo (s.timer m).nextTick == step) = false) : s.ownTicks m step counted k = (s, []) := by
  cases k with
  | zero => rfl
  | succ k => exact if_neg (by simp [h])

/-- One tick of the timer falls on the step: it alone is taken. -/
theorem State.oneTick.ownTicks (h : s.oneTick n) (hn : n < s.tmr.timers.length) (hdue : s.tickDue n = true) (counted : Bool) (k : Nat) :
    s.ownTicks n (s.stepsAgo (s.timer n).nextTick) counted (k + 1) = s.tickOne n counted := by
  have hclocked := s.tickOne_clocked n counted
  have hthen : ((s.tickOne n counted).1.tickDue n &&
      (s.tickOne n counted).1.stepsAgo ((s.tickOne n counted).1.timer n).nextTick == s.stepsAgo (s.timer n).nextTick) = false := by
    obtain ⟨hlast, hpsc⟩ := State.tickOne_phase counted hn
    have hnext : ((s.tickOne n counted).1.timer n).nextTick = (s.timer n).nextTick + (s.timer n).psc.toNat := by
      rw [Timer.nextTick, hlast, hpsc]
    unfold State.tickDue State.stepsAgo State.now
    rw [hnext, hclocked.tbu]
    rcases h.2 with hlate | hstep
    · have : ¬(s.timer n).nextTick + (s.timer n).psc.toNat ≤ s.tbu.ns.toNat := Nat.not_le.mpr hlate
      simp [this]
    · unfold State.stepsAgo at hstep
      rw [beq_eq_false_iff_ne.mpr hstep, Bool.and_false]
  rw [State.ownTicks, if_pos (by simp [hdue])]
  dsimp only
  rw [State.ownTicks_not_due k hthen]
  simp

/-- The step of a due tick is that tick and what its events cause, where no other tick falls on it. -/
theorem State.oneTick.takeTick (h : s.oneTick n) (hn : n < 8) (hl : s.tmr.timers.length = 8) (hdue : s.tickDue n = true) :
    s.takeTick n = State.settle (s.tickOne n (s.gateOpen n)) := by
  have hother : ∀ (t : State) (es : List TrigEvent) (m k : Nat), t.tickDue m = false →
      ((t.ownTicks m (s.stepsAgo (s.timer n).nextTick) (s.gateOpen m) k).1,
        es ++ (t.ownTicks m (s.stepsAgo (s.timer n).nextTick) (s.gateOpen m) k).2) = (t, es) := by
    intro t es m k hm
    rw [State.ownTicks_not_due k (by simp [hm])]
    simp
  have hmine := State.oneTick.ownTicks h (by omega) hdue (s.gateOpen n) (s.tbu.inc / 2 ^ 40 / 100 + 1)
  unfold State.takeTick
  dsimp only
  rw [foldl_eq_single (a := n) (List.mem_range.mpr hn) List.nodup_range]
  · rw [hmine]; simp
  · exact fun m hm hne => hother s [] m _ (h.1 m (List.mem_range.mp hm) hne)
  · intro m hm hne
    refine hother _ _ m _ ?_
    rw [hmine, State.tickDue_congr (State.tickOne_timer_ne _ hne) (s.tickOne_clocked n _).tbu]
    exact h.1 m (List.mem_range.mp hm) hne

/-- Where nothing selects what the timer produces, the step of its one due tick is that tick alone. -/
theorem State.oneTick.takeTick_alone (h : s.oneTick n) (ha : s.alone n) (hn : n < 8) (hl : s.tmr.timers.length = 8)
    (hdue : s.tickDue n = true) : s.takeTick n = (s.tickOne n (s.gateOpen n)).1 := by
  rw [h.takeTick hn hl hdue]
  exact ha.settles (s.tickOne_clocked n _) (s.tickOne_events n _)

/-- A counted tick of a timer: its phase, then its count (R348, R349). -/
theorem State.tickOne_counted_timer (hn : n < s.tmr.timers.length) :
    (s.tickOne n true).1.timer n = (s.timer n).phased.advanced.judged true := by
  rw [State.tickOne_eq, if_pos rfl, State.countOnce_timer (by rw [(s.phase_clocked n).length]; exact hn), State.timer_modTimer _ hn]

/-- A counted tick that finds the count at or above TOP: the count is 0, one_shot clears en, and the event bit is set (R349). -/
theorem State.tickOne_wraps (hn : n < 8) (hl : s.tmr.timers.length = 8) (h : (s.timer n).top.toNat ≤ (s.timer n).cnt.toNat) :
    ((s.tickOne n true).1.timer n).cnt = 0 ∧ (s.tickOne n true).1.tmr.evt0.getLsbD (4 * n) = true ∧
      ((s.tickOne n true).1.timer n).en = ((s.timer n).en && !(s.timer n).oneShot) := by
  obtain ⟨hcnt, -, hctrl, -⟩ := (s.timer n).phased.advanced.judged_keeps true
  obtain ⟨hzero, hen⟩ := Timer.advanced_wraps (x := (s.timer n).phased) h
  refine ⟨?_, ?_, ?_⟩
  · rw [State.tickOne_counted_timer (by omega), hcnt, hzero]
  · rw [State.tickOne_eq, if_pos rfl]
    refine State.countOnce_sets hn ?_
    rw [State.timer_modTimer _ (by omega)]
    exact h
  · rw [State.tickOne_counted_timer (by omega), Timer.en, hctrl]
    exact hen

/-- A counted tick below TOP: the count increments. -/
theorem State.tickOne_increments (hn : n < s.tmr.timers.length) (h : ¬(s.timer n).top.toNat ≤ (s.timer n).cnt.toNat) :
    ((s.tickOne n true).1.timer n).cnt = (s.timer n).cnt + 1 ∧ ((s.tickOne n true).1.timer n).ctrl = (s.timer n).ctrl := by
  obtain ⟨hcnt, -, hctrl, -⟩ := (s.timer n).phased.advanced.judged_keeps true
  have hadv : (s.timer n).phased.advanced = { (s.timer n).phased with cnt := (s.timer n).phased.cnt + 1 } := if_neg h
  rw [State.tickOne_counted_timer hn, hcnt, hctrl, hadv]
  exact ⟨rfl, rfl⟩

end

/-! ### The settlement of O16 -/

/-- Settles O16: the step of a due tick is its tick alone, which counts, wraps, or is held by a closed gate. -/
theorem timersTickAndWrap : Obligations.TimersTickAndWrap := by
  unfold Obligations.TimersTickAndWrap
  refine ⟨?tick, ?counts, ?gated, ?wraps⟩
  case tick =>
    intro n s
    exact ⟨s.tickOnce n, rfl, fun h => if_neg (by simp [h]), exec_only (c := .timerTick n) rfl⟩
  case counts =>
    intro n s hn hl hdue halone hone hgate
    have htake : s.tickOnce n = (s.tickOne n true).1 := by
      rw [State.tickOnce, if_pos hdue, hone.takeTick_alone halone hn hl hdue, hgate]
    have hexec : exec (.timerTick n) s = .next (s.tickOne n true).1 := congrArg Host.Outcome.next htake
    have hclocked := s.tickOne_clocked n true
    refine ⟨_, hexec, (State.tickOne_phase true (by omega)).1, ?_, fun m hm => State.tickOne_timer_ne true hm, hclocked.alarms,
      hclocked.caps, hclocked.evt1, exec_only hexec⟩
    split
    next h => exact State.tickOne_wraps hn hl h
    next h => exact State.tickOne_increments (by omega) h
  case gated =>
    intro n s hn hl hdue hone hgate
    have htake : s.tickOnce n = s.modTimer n Timer.phased := by
      rw [State.tickOnce, if_pos hdue, hone.takeTick hn hl hdue, hgate]
      rfl
    exact ⟨_, congrArg Host.Outcome.next htake, State.timer_modTimer _ (by omega), fun m hm => State.timer_modTimer_ne _ hm, rfl,
      (State.modTimer_moves s n _).1⟩
  case wraps =>
    intro n s hn hl hdue halone hone hgate hcnt
    have hexec : exec (.timerWrap n) s = .next (s.tickOne n true).1 := by
      refine congrArg Host.Outcome.next ((if_pos (by simp [hdue, hcnt])).trans ?_)
      rw [hone.takeTick_alone halone hn hl hdue, hgate]
    obtain ⟨hzero, hbit, hen⟩ := State.tickOne_wraps hn hl hcnt
    exact ⟨_, hexec, hzero, hbit, hen, exec_only hexec⟩

end Sys2Proof.Machine
end

section
/-!
Writes of a count and a compare value, a compare unit's firing, and the software trigger (R350 to R356), from which O18 follows.
-/
namespace Sys2Proof.Machine

/-! ### What judging leaves of each compare unit (R355) -/

namespace Timer

variable (x : Timer) (entered : Bool)

/-- A unit in EXACT fires only within a count that is taken (R355). -/
theorem unitFires_exact {x : Timer} (h0 : x.past0 = false) : x.unitFires 0 false = false := by
  simp [unitFires, h0]

theorem unitFires_exact' {x : Timer} (h1 : x.past1 = false) : x.unitFires 1 false = false := by
  simp [unitFires, h1]

/-- A unit in ATPAST fires where it is armed and the count is at or past its value (R355). -/
theorem unitFires_past {x : Timer} (h0 : x.past0 = true) (entered : Bool) :
    x.unitFires 0 entered = (x.armed0 && atOrPast x.cnt.toNat x.c0.toNat x.top.toNat) := by
  simp [unitFires, h0]

theorem unitFires_past' {x : Timer} (h1 : x.past1 = true) (entered : Bool) :
    x.unitFires 1 entered = (x.armed1 && atOrPast x.cnt.toNat x.c1.toNat x.top.toNat) := by
  simp [unitFires, h1]

/-- CMP0 in ATPAST, where it fires, records late and disarms; CMP1's firing leaves it. -/
theorem judged_unit0 : (x.judged entered).armed0 = (x.armed0 && !(x.unitFires 0 entered && x.past0)) ∧
    (x.judged entered).late0 =
      if x.unitFires 0 entered && x.past0 then word (lateOf x.cnt.toNat x.c0.toNat x.top.toNat) else x.late0 := by
  unfold judged fired
  cases x.unitFires 0 entered <;> cases x.unitFires 1 entered <;> simp

/-- CMP1 in ATPAST, where it fires, records late and disarms; CMP0's firing leaves it. -/
theorem judged_unit1 : (x.judged entered).armed1 = (x.armed1 && !(x.unitFires 1 entered && x.past1)) ∧
    (x.judged entered).late1 =
      if x.unitFires 1 entered && x.past1 then word (lateOf x.cnt.toNat x.c1.toNat x.top.toNat) else x.late1 := by
  unfold judged fired
  cases x.unitFires 0 entered <;> cases x.unitFires 1 entered <;> simp [past1]

/-- The output level is that of the unit that fired last (R354). -/
theorem judged_out : (x.judged entered).out =
    (if x.unitFires 1 entered then false else if x.unitFires 0 entered then true else x.out) := by
  unfold judged fired
  cases x.unitFires 0 entered <;> cases x.unitFires 1 entered <;> simp

end Timer

section
variable {s : State} {n : Nat}

/-- What judging a timer causes settles at once where nothing selects what the timer produces. -/
theorem State.alone.judge (ha : s.alone n) {u : State} (k : Clocked s u) (entered : Bool) :
    State.settle (u.judgeTimer n entered) = (u.judgeTimer n entered).1 :=
  ha.settles (k.trans (u.judgeTimer_clocked n entered)) (u.judgeTimer_events n entered)

/-! ### Writes of a count and a compare value -/

/-- A timer after a write of its count, and after a write of a compare value (R350, R355). -/
def Timer.withCnt (w : Word) (x : Timer) : Timer := { x with cnt := w }
def Timer.withCmp (unit : Nat) (w : Word) (x : Timer) : Timer :=
  if unit = 0 then { x with c0 := w, armed0 := x.armed0 || x.past0 } else { x with c1 := w, armed1 := x.armed1 || x.past1 }

/-- A timer whose first compare value is written: in ATPAST at or past it the unit fires, before it the unit is armed (R355). -/
theorem Timer.withCmp0_judged (x : Timer) (w : Word) : ((x.withCmp 0 w).judged false).c0 = w ∧
    ((x.withCmp 0 w).judged false).cnt = x.cnt ∧ (x.past0 = false → ((x.withCmp 0 w).judged false).late0 = x.late0) ∧
    (x.past0 = true → (x.withCmp 0 w).unitFires 0 false = atOrPast x.cnt.toNat w.toNat x.top.toNat ∧
      (atOrPast x.cnt.toNat w.toNat x.top.toNat = true → ((x.withCmp 0 w).judged false).armed0 = false ∧
        ((x.withCmp 0 w).judged false).late0 = word (lateOf x.cnt.toNat w.toNat x.top.toNat)) ∧
      (atOrPast x.cnt.toNat w.toNat x.top.toNat = false → ((x.withCmp 0 w).judged false).armed0 = true ∧
        ((x.withCmp 0 w).judged false).late0 = x.late0)) := by
  obtain ⟨hcnt, -, -, -, -, hc, -⟩ := Timer.judged_keeps (x.withCmp 0 w) false
  obtain ⟨harmed, hlate⟩ := Timer.judged_unit0 (x.withCmp 0 w) false
  have hpast : (x.withCmp 0 w).past0 = x.past0 := rfl
  have hfires (h : x.past0 = true) := Timer.unitFires_past (hpast.trans h) false
  rw [hcnt, hc, harmed, hlate, hpast]
  refine ⟨rfl, rfl, fun h => by simp [h, Timer.withCmp], fun h => ?_⟩
  rw [hfires h, h]
  exact ⟨by simp [Timer.withCmp, h], fun hp => by simp [Timer.withCmp, h, hp], fun hp => by simp [Timer.withCmp, h, hp]⟩

/-- A timer whose second compare value is written, likewise. -/
theorem Timer.withCmp1_judged (x : Timer) (w : Word) : ((x.withCmp 1 w).judged false).c1 = w ∧
    ((x.withCmp 1 w).judged false).cnt = x.cnt ∧ (x.past1 = false → ((x.withCmp 1 w).judged false).late1 = x.late1) ∧
    (x.past1 = true → (x.withCmp 1 w).unitFires 1 false = atOrPast x.cnt.toNat w.toNat x.top.toNat ∧
      (atOrPast x.cnt.toNat w.toNat x.top.toNat = true → ((x.withCmp 1 w).judged false).armed1 = false ∧
        ((x.withCmp 1 w).judged false).late1 = word (lateOf x.cnt.toNat w.toNat x.top.toNat)) ∧
      (atOrPast x.cnt.toNat w.toNat x.top.toNat = false → ((x.withCmp 1 w).judged false).armed1 = true ∧
        ((x.withCmp 1 w).judged false).late1 = x.late1)) := by
  obtain ⟨hcnt, -, -, -, -, -, hc, -⟩ := Timer.judged_keeps (x.withCmp 1 w) false
  obtain ⟨harmed, hlate⟩ := Timer.judged_unit1 (x.withCmp 1 w) false
  have hpast : (x.withCmp 1 w).past1 = x.past1 := rfl
  have hfires (h : x.past1 = true) := Timer.unitFires_past' (hpast.trans h) false
  rw [hcnt, hc, harmed, hlate, hpast]
  refine ⟨rfl, rfl, fun h => by simp [h, Timer.withCmp], fun h => ?_⟩
  rw [hfires h, h]
  exact ⟨by simp [Timer.withCmp, h], fun hp => by simp [Timer.withCmp, h, hp], fun hp => by simp [Timer.withCmp, h, hp]⟩

theorem State.withCnt_clocked (u : State) (n : Nat) (w : Word) : Clocked u (u.modTimer n (Timer.withCnt w)) :=
  u.modTimer_clocked n fun _ => ⟨rfl, rfl⟩

theorem State.withCmp_clocked (u : State) (n unit : Nat) (w : Word) : Clocked u (u.modTimer n (Timer.withCmp unit w)) := by
  refine u.modTimer_clocked n fun x => ?_
  unfold Timer.withCmp
  split <;> exact ⟨rfl, rfl⟩

/-- A write of the count, after the ticks that are due, judges the timer. -/
theorem State.alone.writeTmrCnt_eq (ha : s.alone n) (w : Word) :
    writeTmrCnt n w s = (((s.tickFirst n).modTimer n (Timer.withCnt w)).judgeTimer n false).1 :=
  ha.judge ((State.tickFirst_clocked n s).trans (State.withCnt_clocked _ n w)) false

theorem State.alone.writeTmrCnt_timer (ha : s.alone n) (hl : n < s.tmr.timers.length) (w : Word) :
    (writeTmrCnt n w s).timer n = (((s.tickFirst n).timer n).withCnt w).judged false := by
  have hl' : n < (s.tickFirst n).tmr.timers.length := by rw [(State.tickFirst_clocked n s).length]; exact hl
  rw [ha.writeTmrCnt_eq, State.judgeTimer_timer _ (by rw [(State.withCnt_clocked _ n w).length]; exact hl'),
    State.timer_modTimer _ hl']

/-- A write of a compare value with no tick due judges the timer. -/
theorem State.alone.writeTmrCmp_eq (ha : s.alone n) (hdue : s.tickDue n = false) (unit : Nat) (w : Word) :
    writeTmrCmp n unit w s = ((s.modTimer n (Timer.withCmp unit w)).judgeTimer n false).1 := by
  unfold writeTmrCmp
  rw [State.tickFirst_of_not_due hdue]
  exact ha.judge (State.withCmp_clocked s n unit w) false

theorem State.alone.writeTmrCmp_timer (ha : s.alone n) (hdue : s.tickDue n = false) (hl : n < s.tmr.timers.length) (unit : Nat)
    (w : Word) : (writeTmrCmp n unit w s).timer n = ((s.timer n).withCmp unit w).judged false := by
  rw [ha.writeTmrCmp_eq hdue, State.judgeTimer_timer _ (by rw [(State.withCmp_clocked s n unit w).length]; exact hl),
    State.timer_modTimer _ hl]

theorem State.alone.writeTmrCmp_timer_ne (ha : s.alone n) (hdue : s.tickDue n = false) (unit : Nat) (w : Word) {m : Nat}
    (hm : m ≠ n) : (writeTmrCmp n unit w s).timer m = s.timer m := by
  rw [ha.writeTmrCmp_eq hdue, State.judgeTimer_timer_ne _ hm, State.timer_modTimer_ne _ hm]

theorem State.alone.writeTmrCmp_sets (ha : s.alone n) (hdue : s.tickDue n = false) (hn : n < 8) (hl : s.tmr.timers.length = 8)
    {unit : Nat} (hu : unit ≤ 1) (w : Word) (hf : ((s.timer n).withCmp unit w).unitFires unit false = true) :
    (writeTmrCmp n unit w s).tmr.evt0.getLsbD (4 * n + 1 + unit) = true := by
  rw [ha.writeTmrCmp_eq hdue]
  exact State.judgeTimer_sets false hn hu (by rw [State.timer_modTimer _ (by omega)]; exact hf)

/-! ### A compare unit's firing -/

theorem State.alone.compareFire (ha : s.alone n) {unit : Nat} (hf : (s.timer n).unitFires (min unit 1) false = true) :
    exec (.compareFire n unit) s = .next (s.judgeTimer n false).1 :=
  congrArg Host.Outcome.next ((if_pos hf).trans (ha.judge (.refl s) false))

/-! ### The software trigger (R351, R352) -/

/-- A capture unit that selects the software trigger takes it (R351, R357). -/
def State.swCapture (n : Nat) (t : State) : State := if fld (t.timer n).capSrc 0 6 = 0x29 then t.captureUnit n else t

/-- The software trigger of a timer reaches that timer's slave and capture unit alone. -/
theorem State.spread_swtrig (hn : n < 8) (htrig : (s.timer n).trig = 0x29) :
    s.spread (0x29, n) = ((s.slaveAct n).1.swCapture n, (s.slaveAct n).2) := by
  unfold State.spread
  dsimp only
  rw [foldl_eq_single (a := n) (x := (s, [])) (List.mem_range.mpr hn) List.nodup_range,
    foldl_eq_single (a := n) (List.mem_range.mpr hn) List.nodup_range, foldl_eq_self]
  · simp [htrig, State.swCapture]
  · exact fun p _ => if_neg (by simp)
  all_goals exact fun m _ hm => if_neg (by simp [hm])

theorem State.slaveAct_events (s : State) (n : Nat) : ∀ e ∈ (s.slaveAct n).2, e.1 ∈ producedBy n := by
  unfold State.slaveAct
  dsimp only
  split
  · intro e he
    rcases List.mem_append.mp he with he | he
    · split at he
      · exact s.tickOne_events n true e he
      · exact absurd he (by simp)
    · exact State.judgeTimer_events _ n false e he
  · split
    · exact s.countOnce_events n
    · exact fun e he => absurd he (by simp)
  · split <;> exact fun e he => absurd he (by simp)
  · exact fun e he => absurd he (by simp)

/-- The software trigger settles after its own wave where nothing selects what the timer produces. -/
theorem State.alone.swtrig_eq (ha : s.alone n) (hn : n < 8) (htrig : (s.timer n).trig = 0x29)
    (hdue : ∀ m, m < 8 → s.tickDue m = false) : s.swtrig n = (s.slaveAct n).1.swCapture n := by
  have hspread := State.spread_swtrig hn htrig
  have hclocked := State.spread_clocked (0x29, n) s
  rw [hspread] at hclocked
  unfold State.swtrig State.settle
  rw [State.ticksFirst_of_none_due hdue]
  show State.propagate 31 ([] ++ (s.spread (0x29, n)).2) (s.spread (0x29, n)).1 = _
  rw [hspread]
  exact State.propagate_unheard 31 fun e he => (ha.unheard (s.slaveAct_events n e he)).clocked hclocked

/-- A capture leaves the count, the phase and the control of its timer. -/
theorem State.swCapture_keeps {t : State} (hl : n < t.tmr.timers.length) : ((t.swCapture n).timer n).cnt = (t.timer n).cnt ∧
    ((t.swCapture n).timer n).lastTick = (t.timer n).lastTick ∧ ((t.swCapture n).timer n).ctrl = (t.timer n).ctrl := by
  unfold State.swCapture State.captureUnit
  split
  · dsimp only
    split
    · rw [State.tmrEvt0_timer, State.timer_modTimer _ hl]
      exact ⟨rfl, rfl, rfl⟩
    · rw [State.timer_modTimer _ hl]
      exact ⟨rfl, rfl, rfl⟩
  · exact ⟨rfl, rfl, rfl⟩

/-- What a selected event does to a timer, by its slave mode (R352). -/
theorem State.slaveAct_modes (hl : n < s.tmr.timers.length) (hdue : s.tickDue n = false) :
    ((s.timer n).slave = 2 → ((s.slaveAct n).1.timer n).cnt = 0 ∧ ((s.slaveAct n).1.timer n).lastTick = s.now) ∧
    ((s.timer n).slave = 3 → (s.timer n).en = true → ((s.slaveAct n).1.timer n).cnt =
      (if (s.timer n).top.toNat ≤ (s.timer n).cnt.toNat then 0 else (s.timer n).cnt + 1)) ∧
    ((s.timer n).slave = 4 → (s.timer n).en = false → ((s.slaveAct n).1.timer n).en = true ∧
      ((s.slaveAct n).1.timer n).lastTick = s.now ∧ ((s.slaveAct n).1.timer n).cnt = (s.timer n).cnt) ∧
    ((s.timer n).slave < 2 → (s.slaveAct n).1.timer n = s.timer n) := by
  unfold State.slaveAct
  dsimp only
  refine ⟨fun h => ?_, fun h hen => ?_, fun h hen => ?_, fun h => ?_⟩
  · simp only [h, hdue, Bool.false_eq_true, if_false]
    rw [State.judgeTimer_timer _ (by rw [State.modTimer_sameTimers]; exact hl), State.timer_modTimer _ hl]
    obtain ⟨hcnt, hlast, -⟩ := Timer.judged_keeps { s.timer n with cnt := 0, lastTick := s.now } false
    exact ⟨hcnt, hlast⟩
  · simp only [h, hen, if_true]
    rw [State.countOnce_timer hl, ((s.timer n).advanced.judged_keeps true).1, Timer.advanced]
    split <;> rfl
  · simp only [h, hen, Bool.false_eq_true, if_false]
    rw [State.timer_modTimer _ hl]
    refine ⟨?_, rfl, rfl⟩
    simp [Timer.en]
  · split
    · omega
    · omega
    · omega
    · rfl

end

/-! ### The settlement of O18 -/

/-- Settles O18: each write by the judging of its timer, the software trigger by its slave's act. -/
theorem timerCountAndCompareWrites : Obligations.TimerCountAndCompareWrites := by
  unfold Obligations.TimerCountAndCompareWrites
  refine ⟨?count, ?countNotDue, ?cmp0, ?cmp1, ?fire0, ?fire1, ?swtrig⟩
  case count =>
    intro n w s hn hl halone
    refine ⟨writeTmrCnt n w s, rfl, ?_, exec_only (c := .tmrnCntWrite n w) rfl⟩
    rw [halone.writeTmrCnt_timer (by omega), (Timer.judged_keeps _ _).1]
    rfl
  case countNotDue =>
    intro n w s hn hl hdue halone
    have htimer := halone.writeTmrCnt_timer (by omega) w
    have heq := halone.writeTmrCnt_eq w
    rw [State.tickFirst_of_not_due hdue] at htimer heq
    refine ⟨writeTmrCnt n w s, rfl, ?_, ?_, fun h0 h1 => ?_, fun m hm => ?_, exec_only (c := .tmrnCntWrite n w) rfl⟩
    · rw [htimer, (Timer.judged_keeps _ _).1]
      rfl
    · rw [htimer, (Timer.judged_keeps _ _).2.1]
      rfl
    · have hquiet0 : ((s.timer n).withCnt w).unitFires 0 false = false := Timer.unitFires_exact h0
      have hquiet1 : ((s.timer n).withCnt w).unitFires 1 false = false := Timer.unitFires_exact' h1
      refine ⟨?_, ?_⟩
      · rw [htimer, Timer.judged]
        simp only [hquiet0, hquiet1]
        rfl
      · rw [heq, (State.judgeTimer_quiet (by rw [State.timer_modTimer _ (by omega)]; exact hquiet0)
          (by rw [State.timer_modTimer _ (by omega)]; exact hquiet1)).2]
        rfl
    · rw [heq, State.judgeTimer_timer_ne _ hm, State.timer_modTimer_ne _ hm]
  case cmp0 =>
    intro n w s hn hl hdue halone
    obtain ⟨hc, hcnt, hexact, hpast⟩ := (s.timer n).withCmp0_judged w
    rw [← halone.writeTmrCmp_timer hdue (by omega)] at hc hcnt hexact hpast
    refine ⟨writeTmrCmp n 0 w s, rfl, hc, hcnt, hexact, fun h hp => ?_, fun h => (hpast h).2.2,
      fun m hm => halone.writeTmrCmp_timer_ne hdue 0 w hm, exec_only (c := .tmrnCmpWrite n 0 w) rfl⟩
    obtain ⟨hfires, hreached, -⟩ := hpast h
    obtain ⟨harmed, hlate⟩ := hreached hp
    exact ⟨harmed, halone.writeTmrCmp_sets hdue hn hl (Nat.zero_le 1) w (hfires.trans hp), hlate⟩
  case cmp1 =>
    intro n w s hn hl hdue halone
    obtain ⟨hc, hcnt, hexact, hpast⟩ := (s.timer n).withCmp1_judged w
    rw [← halone.writeTmrCmp_timer hdue (by omega)] at hc hcnt hexact hpast
    refine ⟨writeTmrCmp n 1 w s, rfl, hc, hcnt, hexact, fun h hp => ?_, fun h => (hpast h).2.2,
      fun m hm => halone.writeTmrCmp_timer_ne hdue 1 w hm, exec_only (c := .tmrnCmpWrite n 1 w) rfl⟩
    obtain ⟨hfires, hreached, -⟩ := hpast h
    obtain ⟨harmed, hlate⟩ := hreached hp
    exact ⟨harmed, halone.writeTmrCmp_sets hdue hn hl (Nat.le_refl 1) w (hfires.trans hp), hlate⟩
  case fire0 =>
    intro n s hn hl halone hpast harmed hreached hquiet
    have hfires : (s.timer n).unitFires 0 false = true := by rw [Timer.unitFires_past hpast, harmed, hreached]; rfl
    have hexec := halone.compareFire (unit := 0) hfires
    obtain ⟨hdisarms, hlate⟩ := (s.timer n).judged_unit0 false
    rw [hfires, hpast] at hdisarms hlate
    have hout := (s.timer n).judged_out false
    rw [hquiet, hfires] at hout
    refine ⟨_, hexec, ?_, ?_, ?_, State.judgeTimer_sets false hn (Nat.zero_le 1) hfires, ?_, exec_only hexec⟩ <;>
      rw [State.judgeTimer_timer _ (by omega)]
    exacts [by rw [hdisarms]; simp, hout, hlate, ((s.timer n).judged_keeps false).1]
  case fire1 =>
    intro n s hn hl halone hpast harmed hreached
    have hfires : (s.timer n).unitFires 1 false = true := by rw [Timer.unitFires_past' hpast, harmed, hreached]; rfl
    have hexec := halone.compareFire (unit := 1) hfires
    obtain ⟨hdisarms, hlate⟩ := (s.timer n).judged_unit1 false
    rw [hfires, hpast] at hdisarms hlate
    have hout := (s.timer n).judged_out false
    rw [hfires] at hout
    refine ⟨_, hexec, ?_, ?_, ?_, State.judgeTimer_sets false hn (Nat.le_refl 1) hfires, ?_, exec_only hexec⟩ <;>
      rw [State.judgeTimer_timer _ (by omega)]
    exacts [by rw [hdisarms]; simp, hout, hlate, ((s.timer n).judged_keeps false).1]
  case swtrig =>
    intro n s hn hl htrig halone hdue
    have hexec : exec (.swtrig n) s = .next ((s.slaveAct n).1.swCapture n) :=
      congrArg Host.Outcome.next (halone.swtrig_eq hn htrig hdue)
    obtain ⟨hcnt, hlast, hctrl⟩ := State.swCapture_keeps (n := n) (t := (s.slaveAct n).1)
      (by rw [(s.slaveAct_clocked n).length]; omega)
    obtain ⟨hreset, hclock, hstart, hlevel⟩ := State.slaveAct_modes (s := s) (n := n) (by omega) (hdue n hn)
    have hen : (((s.slaveAct n).1.swCapture n).timer n).en = ((s.slaveAct n).1.timer n).en := congrArg (·.getLsbD 0) hctrl
    refine ⟨_, hexec, ?_⟩
    dsimp only
    rw [hcnt, hlast, hctrl, hen]
    exact ⟨hreset, hclock, hstart, fun h => by rw [hlevel h]; exact ⟨rfl, rfl⟩, exec_only hexec⟩

end Sys2Proof.Machine
end

section
/-!
The alarms (R358 to R360), from which O19 follows.
-/
namespace Sys2Proof.Machine

/-! ### An alarm's own registers -/

/-- TMR_EVT1 after an event of its bit (R372). -/
@[simp] theorem State.tmrEvt1_tmr (b : Nat) (s : State) :
    (s.tmrEvt1 b).tmr = { s.tmr with evt1 := s.tmr.evt1 ||| word (1 <<< b) } := by
  unfold State.tmrEvt1
  split
  · exact (State.raise_moves _ _ _).1 .tmr (by decide)
  · rfl

@[simp] theorem State.tmrEvt1_tbu (b : Nat) (s : State) : (s.tmrEvt1 b).tbu = s.tbu := (State.tmrEvt1_moves b s).1 .tbu (by decide)

theorem State.tmrEvt1_sets {b : Nat} (s : State) (hb : b < 32) : (s.tmrEvt1 b).tmr.evt1.getLsbD b = true := by
  simp [getLsbD_bit hb]

/-- The alarms after one of them is updated. -/
theorem State.alarm_modify {s t : State} {m : Nat} {f : Alarm → Alarm} (h : t.tmr.alarms = s.tmr.alarms.modify m f)
    (hm : m < s.tmr.alarms.length) : t.alarm m = f (s.alarm m) ∧ ∀ k, k ≠ m → t.alarm k = s.alarm k := by
  unfold State.alarm
  rw [h]
  exact ⟨getD_modify_self f _ hm, fun k hk => getD_modify_ne f _ hk⟩

theorem State.shadow_of_tbu {s t : State} (h : t.tbu = s.tbu) (q : Requester) : t.shadow q = s.shadow q := by
  unfold State.shadow; rw [h]

/-! ### An alarm's firing (R359, R360) -/

/-- An alarm as its firing at a time leaves it (R360). -/
def Alarm.firedAt (ns : BitVec 64) (x : Alarm) : Alarm :=
  { x with armed := false, fired := true, late := word (min (ns - x.a).toNat 0xFFFFFFFF) }

section
variable {s : State} {m : Nat}

theorem State.alarmReached_iff : s.alarmReached m = true ↔ (s.tbu.ns - (s.alarm m).a).toNat < 2 ^ 63 := by
  unfold State.alarmReached
  exact decide_eq_true_iff

/-- An alarm that is not armed, or that TB_NS has not reached, does not fire. -/
theorem State.alarmFire_not (h : (s.alarm m).armed = false ∨ 2 ^ 63 ≤ (s.tbu.ns - (s.alarm m).a).toNat) : s.alarmFire m = s := by
  refine if_neg ?_
  rw [Bool.and_eq_true, State.alarmReached_iff]
  rintro ⟨harmed, hreached⟩
  rcases h with h | h
  · rw [h] at harmed; cases harmed
  · exact absurd hreached (Nat.not_lt.mpr h)

/-- An armed alarm that TB_NS has reached: what its firing leaves in the alarms, in TMR_EVT1 and in the timebase. -/
theorem State.alarmFire_fires (harmed : (s.alarm m).armed = true) (hreached : (s.tbu.ns - (s.alarm m).a).toNat < 2 ^ 63) :
    (s.alarmFire m).tmr.alarms = s.tmr.alarms.modify m (Alarm.firedAt s.tbu.ns) ∧
      (s.alarmFire m).tmr.evt1 = s.tmr.evt1 ||| word (1 <<< m) ∧ (s.alarmFire m).tbu = s.tbu := by
  have hfires : ((s.alarm m).armed && s.alarmReached m) = true := by rw [harmed, State.alarmReached_iff.mpr hreached]; rfl
  unfold State.alarmFire
  rw [if_pos hfires]
  extract_lets s1 s2
  have hticks := s.ticksFirst_clocked
  have hsettled : Clocked s1 s2 := State.settle_clocked (s1, [(0x25 + m, 8)])
  have h2 : s2.tmr.alarms = s.tmr.alarms.modify m (Alarm.firedAt s.tbu.ns) ∧
      s2.tmr.evt1 = s.tmr.evt1 ||| word (1 <<< m) ∧ s2.tbu = s.tbu := by
    rw [hsettled.alarms, hsettled.evt1, hsettled.tbu]
    unfold s1 State.modAlarm
    simp only [State.tmrEvt1_tmr, State.tmrEvt1_tbu, State.modTmr_tmr, State.modTmr_tbu, hticks.alarms, hticks.evt1, hticks.tbu,
      and_true]
    rfl
  split
  · have hwake := (State.wakeSource_moves 0x04 s2).1
    rw [hwake .tmr (by decide), hwake .tbu (by decide)]
    exact h2
  · exact h2

/-- A disarm of an alarm that does not fire (R369). -/
theorem State.disarm_not (h : (s.alarm m).armed = false ∨ 2 ^ 63 ≤ (s.tbu.ns - (s.alarm m).a).toNat) :
    s.disarm m = s.modAlarm m fun x => { x with armed := false } := by
  unfold State.disarm
  rw [State.alarmFire_not h]

/-- An alarm as a write of its low word leaves it, before it is judged (R358). -/
def Alarm.rearmed (a : BitVec 64) (x : Alarm) : Alarm := { x with a := a, armed := true, fired := false }

/-- The writer's committed time in an alarm that it arms (R358). -/
def State.rearm (r : Requester) (m : Nat) (w : Word) (s : State) : State :=
  s.modAlarm m (Alarm.rearmed ((s.shadow r).almWr.getD m 0 ++ w))

theorem writeAlmLo_eq (r : Requester) (m : Nat) (w : Word) (s : State) : writeAlmLo r m w s = (s.rearm r m w).alarmFire m := rfl

@[simp] theorem State.rearm_length (r : Requester) (m : Nat) (w : Word) (s : State) :
    (s.rearm r m w).tmr.alarms.length = s.tmr.alarms.length := List.length_modify ..

theorem State.rearm_alarm (r : Requester) (w : Word) (hm : m < s.tmr.alarms.length) :
    (s.rearm r m w).alarm m = (s.alarm m).rearmed ((s.shadow r).almWr.getD m 0 ++ w) ∧
      ∀ k, k ≠ m → (s.rearm r m w).alarm k = s.alarm k := State.alarm_modify rfl hm

end

/-! ### The settlement of O19 -/

/-- Settles O19: each row by whether the alarm fires. -/
theorem alarmsFireAndDisarm : Obligations.AlarmsFireAndDisarm := by
  unfold Obligations.AlarmsFireAndDisarm
  refine ⟨?fires, fun m s h => congrArg Host.Outcome.next (State.alarmFire_not h), ?armed, ?late, ?read, ?disarmFires, ?disarm⟩
  case fires =>
    intro m s hm hl harmed hreached
    obtain ⟨halarms, hevt, htbu⟩ := State.alarmFire_fires harmed hreached
    obtain ⟨hself, hother⟩ := State.alarm_modify halarms (by omega)
    refine ⟨s.alarmFire m, rfl, ?_⟩
    dsimp only
    rw [hself, hevt]
    exact ⟨rfl, rfl, rfl, rfl, by simp [getLsbD_bit (show m < 32 by omega)], hother, htbu⟩
  case armed =>
    intro r m w s hm hl hlater
    obtain ⟨hself, hother⟩ := State.rearm_alarm r w (show m < s.tmr.alarms.length by omega)
    have hwrite : writeAlmLo r m w s = s.rearm r m w := State.alarmFire_not (.inr (by
      change 2 ^ 63 ≤ (s.tbu.ns - ((s.rearm r m w).alarm m).a).toNat
      rw [hself]
      exact hlater))
    refine ⟨_, congrArg Host.Outcome.next hwrite, ?_⟩
    dsimp only
    rw [hself]
    exact ⟨rfl, rfl, rfl, hother, fun _ => rfl, rfl, (State.modAlarm_moves s m _).1⟩
  case late =>
    intro r m w s hm hl hreached
    have hself := (State.rearm_alarm r w (show m < s.tmr.alarms.length by omega)).1
    obtain ⟨halarms, -, htbu⟩ := State.alarmFire_fires (s := s.rearm r m w) (m := m) (by rw [hself]; rfl)
      (by rw [hself]; exact hreached)
    have hfired := (State.alarm_modify halarms (by simp; omega)).1
    rw [hself] at hfired
    refine ⟨writeAlmLo r m w s, rfl, ?_⟩
    dsimp only
    rw [writeAlmLo_eq, hfired]
    exact ⟨rfl, rfl, rfl, rfl, fun q => State.shadow_of_tbu htbu q⟩
  case read =>
    intro r m s hm hl hr
    have hframe : Only [.tbu, .mbx] s (State.answered (readAlmLo r m s)) := exec_only (c := .almmLoRead r m) rfl
    refine ⟨State.answered (readAlmLo r m s), rfl, rfl, ?_, fun q hq => State.shadow_modShadow_ne _ hq, hframe⟩
    rw [State.answered_shadow]
    unfold readAlmLo
    dsimp only
    rw [State.shadow_modShadow _ hl]
    exact getD_set_self _ _ (by omega)
  case disarmFires =>
    intro m s hm hl harmed hreached
    obtain ⟨halarms, hevt, -⟩ := State.alarmFire_fires harmed hreached
    have hfired := State.alarm_modify halarms (by omega)
    have hself := State.alarm_modify (s := s.alarmFire m) (t := s.disarm m) (m := m) (f := fun x => { x with armed := false }) rfl
      (by rw [halarms, List.length_modify]; omega)
    refine ⟨s.disarm m, rfl, ?_⟩
    dsimp only
    rw [hself.1, hfired.1]
    refine ⟨rfl, rfl, ?_, fun k hk => (hself.2 k hk).trans (hfired.2 k hk)⟩
    show (s.alarmFire m).tmr.evt1.getLsbD m = true
    rw [hevt]
    simp [getLsbD_bit (show m < 32 by omega)]
  case disarm =>
    intro m s hm hl h
    have hself := State.alarm_modify (s := s) (t := s.modAlarm m fun x => { x with armed := false }) (m := m) rfl (by omega)
    exact ⟨_, congrArg Host.Outcome.next (State.disarm_not h), hself.1, hself.2, rfl, rfl, (State.modAlarm_moves s m _).1⟩

end Sys2Proof.Machine
end

section
/-!
The host windows' configuration (R409, R412), the accesses of the aperture (R411), and the arbiter's round (R413, R415).
-/
namespace Sys2Proof.Machine

/-! ### The configuration of a window (R409), which O25 asks -/

section
variable {s : State} {n : Nat} {w : Word}

theorem windowsOverlap_iff {a b : HostWindow} :
    windowsOverlap a b = true ↔ a.basePg ≤ b.basePg + b.sizePg ∧ b.basePg ≤ a.basePg + a.sizePg := by
  simp [windowsOverlap]

/-- The four cases of R409. -/
theorem State.winCfgRefused_iff : s.winCfgRefused n w = true ↔
    (w.getLsbD 31 = true ∧ ∃ k, k < 16 ∧ k ≠ n ∧ (s.win k).en = true ∧
      (s.win k).basePg ≤ fld w 8 8 + fld w 20 4 ∧ fld w 8 8 ≤ (s.win k).basePg + (s.win k).sizePg) ∨
    255 < fld w 8 8 + fld w 20 4 ∨ (s.win n).busy ≠ 0 ∨ s.winHeldPages (s.win n) ≠ 0 := by
  unfold State.winCfgRefused
  simp only [Bool.or_eq_true, Bool.and_eq_true, decide_eq_true_eq, List.any_eq_true, List.mem_range, bne_iff_ne,
    windowsOverlap_iff, or_assoc, and_assoc]
  exact Iff.rfl

theorem writeWinCfg_refused (h : s.winCfgRefused n w = true) :
    writeWinCfg n w s = s.modFab fun f => { f with windows := f.windows.modify n fun x => { x with cfgErr := true } } :=
  if_pos h

theorem writeWinCfg_taken (h : s.winCfgRefused n w = false) :
    writeWinCfg n w s =
      s.modFab fun f =>
        { f with windows := f.windows.modify n fun x => { x with cfg := w &&& 0xFCF0FF00, cfgErr := false } } :=
  if_neg (by simp [h])

end

/-- Settles O25: a refused write by the first branch of the register, any other by the second. -/
theorem windowConfigurationRefusals : Obligations.WindowConfigurationRefusals := by
  unfold Obligations.WindowConfigurationRefusals
  refine ⟨fun n w s hn hlen hcase => ?_, fun n w s hn hlen hapart hend hbusy hheld => ?_⟩
  · have hwrite := writeWinCfg_refused (State.winCfgRefused_iff.mpr hcase)
    exact ⟨_, congrArg Host.Outcome.next hwrite, getD_modify_self _ _ (by omega), fun k hk => getD_modify_ne _ _ hk, rfl,
      State.modFab_only s _⟩
  · have hwrite := writeWinCfg_taken (s := s) (n := n) (w := w) <| Bool.eq_false_iff.mpr fun h => by
      obtain ⟨hen, k, hk, hne, hon, hlo, hhi⟩ | h | h | h := State.winCfgRefused_iff.mp h
      · obtain hoff | hapart := hapart
        · rw [hoff] at hen
          cases hen
        · have := hapart k hk hne hon
          omega
      · omega
      · exact h hbusy
      · exact h hheld
    exact ⟨_, congrArg Host.Outcome.next hwrite, getD_modify_self _ _ (by omega), fun k hk => getD_modify_ne _ _ hk, rfl,
      State.modFab_only s _⟩

/-! ### The words of the memory -/

/-- A word is its four bytes, the lowest of them last. -/
theorem append_leBytes (w : Word) :
    (BitVec.ofNat 8 (w.toNat / 256 / 256 / 256) ++ BitVec.ofNat 8 (w.toNat / 256 / 256) ++ BitVec.ofNat 8 (w.toNat / 256) ++
      BitVec.ofNat 8 w.toNat : BitVec 32) = w := by
  apply BitVec.eq_of_toNat_eq
  have hw := w.isLt
  simp only [BitVec.toNat_append, BitVec.toNat_ofNat]
  rw [← Nat.shiftLeft_add_eq_or_of_lt (by omega), ← Nat.shiftLeft_add_eq_or_of_lt (by omega),
    ← Nat.shiftLeft_add_eq_or_of_lt (by omega)]
  simp only [Nat.shiftLeft_eq]
  omega

theorem readWord_writeBytes {m : Memory} (h : Memory.wf m = true) (a : Nat) (w : Word) :
    Memory.readWord (Memory.writeBytes m a (leBytes 4 w.toNat)) a = w := by
  have hbyte : ∀ i (hi : i < 4), Memory.readByte (Memory.writeBytes m a (leBytes 4 w.toNat)) (a + i) =
      (leBytes 4 w.toNat)[i]'(by rw [Aes.leBytes_len]; exact hi) := fun i hi => Memory.read_writeBytes h a i _ _
  unfold Memory.readWord
  rw [hbyte 3 (by omega), hbyte 2 (by omega), hbyte 1 (by omega), show Memory.readByte _ a = _ from hbyte 0 (by omega)]
  exact append_leBytes w

/-! ### The aperture (R411), which O26 asks -/

/-- Answering a read changes the output word besides. -/
theorem State.answered_only {ps : List Part} {s t : State} (w : Word) (h : Only ps s t) :
    Only (.mbx :: ps) s (State.answered (w, t)) := by
  intro q hq
  rw [List.mem_cons, not_or] at hq
  obtain ⟨hmbx, hps⟩ := hq
  exact Part.same_trans (h q hps) (State.modMbx_only t _ q (by simpa using hmbx))

section
variable {s : State} {off : Nat} {w : Word}

theorem State.heldFlag_win {write : Bool} {page n : Nat} (hn : n < s.fab.windows.length) :
    (s.heldFlag write page).win n = if (s.win n).covers page then
      (if write then { s.win n with heldWrite := true } else { s.win n with heldRead := true }) else s.win n := by
  simp [State.win, State.heldFlag, List.getD_eq_getElem?_getD, hn]

theorem doApertureAccess_read (hoff : off < 0x100000) :
    doApertureAccess off none s = State.answered (readAperture off s) := by
  unfold doApertureAccess
  rw [Nat.mod_eq_of_lt hoff]

theorem doApertureAccess_write (hoff : off < 0x100000) : doApertureAccess off (some w) s = writeAperture off w s := by
  unfold doApertureAccess
  rw [Nat.mod_eq_of_lt hoff]

theorem readAperture_held (h : s.physHeld (apertureBase + off / 4 * 4) = true) :
    readAperture off s = (0, s.heldFlag false (off / 4 * 4 / 4096)) := if_pos h

theorem writeAperture_held (h : s.physHeld (apertureBase + off / 4 * 4) = true) :
    writeAperture off w s = s.heldFlag true (off / 4 * 4 / 4096) := if_pos h

theorem readAperture_outside (h : s.physHeld (apertureBase + off / 4 * 4) = false)
    (hw : s.fab.windows.find? (fun y => y.covers (off / 4 * 4 / 4096)) = none) :
    readAperture off s = (0, s.apertureFault 1 off) := by
  unfold readAperture
  simp [h, hw]

theorem writeAperture_outside (h : s.physHeld (apertureBase + off / 4 * 4) = false)
    (hw : s.fab.windows.find? (fun y => y.covers (off / 4 * 4 / 4096)) = none) :
    writeAperture off w s = s.apertureFault 1 off := by
  unfold writeAperture
  simp [h, hw]

theorem readAperture_window {x : HostWindow} (h : s.physHeld (apertureBase + off / 4 * 4) = false)
    (hw : s.fab.windows.find? (fun y => y.covers (off / 4 * 4 / 4096)) = some x) :
    readAperture off s = if !x.hostR then (0, s.apertureFault 2 off)
      else if s.poisoned (apertureBase + off / 4 * 4) 4 then (0, s)
      else (Memory.readWord s.mem (apertureBase + off / 4 * 4), s) := by
  unfold readAperture
  simp [h, hw]

theorem writeAperture_window {x : HostWindow} (h : s.physHeld (apertureBase + off / 4 * 4) = false)
    (hw : s.fab.windows.find? (fun y => y.covers (off / 4 * 4 / 4096)) = some x) :
    writeAperture off w s = if !x.hostW then s.apertureFault 3 off
      else s.physWrite (apertureBase + off / 4 * 4) (leBytes 4 w.toNat) := by
  unfold writeAperture
  simp [h, hw]

end

/-- Settles O26: a held page, a page outside every window, and the window that covers it, each read and written. -/
theorem apertureAccessIsJudged : Obligations.ApertureAccessIsJudged := by
  unfold Obligations.ApertureAccessIsJudged
  intro off a s hoff ha
  subst ha
  have hread : ∀ p : Word × State, readAperture off s = p → exec (.apertureAccess off none) s = .next (State.answered p) :=
    fun p hp => congrArg Host.Outcome.next ((doApertureAccess_read hoff).trans (by rw [hp]))
  have hwrite : ∀ (w : Word) (t : State), writeAperture off w s = t → exec (.apertureAccess off (some w)) s = .next t :=
    fun w t ht => congrArg Host.Outcome.next ((doApertureAccess_write hoff).trans ht)
  refine ⟨?window, ?outside, ?held⟩
  case window =>
    intro x hheld hw
    refine ⟨fun hr hp => ?_, fun hr hp => ?_, fun hr => ?_, fun w hx hwf => ?_, fun w hx => ?_⟩
    · have hword : readAperture off s = (Memory.readWord s.mem (apertureBase + off / 4 * 4), s) := by
        rw [readAperture_window hheld hw, hr, hp]; rfl
      exact ⟨_, hread _ hword, rfl, State.modMbx_only s _⟩
    · have hword : readAperture off s = (0, s) := by
        rw [readAperture_window hheld hw, hr, hp]; rfl
      exact ⟨_, hread _ hword, rfl, State.modMbx_only s _⟩
    · have hword : readAperture off s = (0, s.apertureFault 2 off) := by
        rw [readAperture_window hheld hw, hr]; rfl
      exact ⟨_, hread _ hword, rfl, rfl, rfl, rfl, State.answered_only 0 (State.modFab_only s _)⟩
    · have hstore : writeAperture off w s = s.physWrite (apertureBase + off / 4 * 4) (leBytes 4 w.toNat) := by
        rw [writeAperture_window hheld hw, hx]; rfl
      refine ⟨_, hwrite _ _ hstore, readWord_writeBytes hwf _ w, fun b hb => Memory.read_writeBytes_ne _ _ _ _ ?_, rfl, rfl,
        Only.mono rfl (State.physWrite_moves _ _ s).1⟩
      rw [Aes.leBytes_len]
      exact hb
    · have hstore : writeAperture off w s = s.apertureFault 3 off := by
        rw [writeAperture_window hheld hw, hx]; rfl
      exact ⟨_, hwrite _ _ hstore, rfl, rfl, rfl, State.modFab_only s _⟩
  case outside =>
    intro hheld hw
    exact ⟨⟨_, hread _ (readAperture_outside hheld hw), rfl, rfl, State.answered_only 0 (State.modFab_only s _)⟩,
      fun w => ⟨_, hwrite _ _ (writeAperture_outside hheld hw), rfl, State.modFab_only s _⟩⟩
  case held =>
    intro hheld
    refine ⟨⟨_, hread _ (readAperture_held hheld), rfl, rfl, fun n hn hc => ?_, State.answered_only 0 (State.modFab_only s _)⟩,
      fun w => ⟨_, hwrite _ _ (writeAperture_held hheld), rfl, fun n hn hc => ?_, State.modFab_only s _⟩⟩
    · show ((s.heldFlag false (off / 4 * 4 / 4096)).win n).heldRead = true
      rw [State.heldFlag_win hn, if_pos hc]
      rfl
    · rw [State.heldFlag_win hn, if_pos hc]
      rfl

/-! ### The refutation of O27: a third deadline flag -/

namespace ThirdFlag

/-- The flags of the two requesters of R415 are clear, and a third entry of the list that no requester has is set. -/
def state : State := { fab := { deadline := [false, false, true], lastDeadline := 2 } }

/-- The round serves RF capture's neighbour first, which has no request outstanding. -/
theorem round_has_a_deadline_grant : (doArbitrationRound 1 state).fab.round = [0x0B, 0] := by decide +kernel

end ThirdFlag

open ThirdFlag in
/-- Refutes O27: its clause of a round without a flag gives the list of flags no length, and `Fabric.turn` serves an entry beyond
the two flags of R415 as a deadline grant. -/
theorem not_arbitrationServesEveryRequester : ¬ Obligations.ArbitrationServesEveryRequester := by
  unfold Obligations.ArbitrationServesEveryRequester
  rintro ⟨hround, -⟩
  obtain ⟨t, hexec, hserved, -⟩ := hround 1 state rfl rfl
  have hafter : doArbitrationRound 1 state = t := Host.Outcome.next.inj hexec
  rw [← hafter, round_has_a_deadline_grant] at hserved
  exact absurd hserved (by decide)

end Sys2Proof.Machine
end

section
/-!
The event controller's batches (R375, R377, R378), from which O21 follows, and the claims of R382, which O23 asks.
-/
namespace Sys2Proof.Machine

section
variable {s : State} {g h src : Nat} {b : Batch} {f : EvcGroup → EvcGroup}

/-! ### The groups -/

theorem Evc.group_modGroup {e : Evc} (f : EvcGroup → EvcGroup) (hg : g < e.groups.length) :
    (e.modGroup g f).group g = f (e.group g) := getD_modify_self f _ hg

theorem Evc.group_modGroup_ne (e : Evc) (f : EvcGroup → EvcGroup) (hne : h ≠ g) : (e.modGroup g f).group h = e.group h :=
  getD_modify_ne f _ hne

/-- A group that collects is one of the list. -/
theorem Evc.lt_of_collecting {e : Evc} (hc : (e.group g).collecting = some b) : g < e.groups.length := by
  by_contra hg
  have hdefault : e.group g = {} := by simp [Evc.group, List.getD_eq_getElem?_getD, List.getElem?_eq_none (Nat.le_of_not_lt hg)]
  rw [hdefault] at hc
  cases hc

/-! ### A batch that falls due (R378) -/

/-- A group that one more batch is due in. -/
def EvcGroup.withDue (b : Batch) (x : EvcGroup) : EvcGroup := { x with due := x.due ++ [b] }

/-- A batch that falls due joins its group's due batches; besides it touches the WAKE_OUT times and EVC_NOTGT alone. -/
theorem State.fallDue_eq (g : Nat) (b : Batch) (s : State) : ∃ n, s.fallDue g b =
    s.modEvc fun e => { e.modGroup g (EvcGroup.withDue b) with wakeLast := e.wakeLast.set g none, noTgt := n } := by
  unfold State.fallDue State.fallDueWith
  dsimp only
  split
  · exact ⟨_, rfl⟩
  · exact ⟨s.evc.noTgt, rfl⟩

/-! ### The batch that collects -/

/-- The trigger of a batch in its group (R378). -/
def EvcGroup.meets (gr : EvcGroup) (b : Batch) (now : Nat) : Prop := gr.cntThr ≤ b.count ∨ gr.dueTime b ≤ now

theorem State.dueCheck_early {wrote : Bool} (hc : (s.evc.group g).collecting = some b)
    (hm : ¬(s.evc.group g).meets b s.now) : s.dueCheck g wrote = s := by
  unfold State.dueCheck
  dsimp only
  rw [hc]
  exact if_neg hm

/-- A group after its batch has fallen due. -/
def EvcGroup.afterDue (b : Batch) (x : EvcGroup) : EvcGroup := { x with collecting := none, due := x.due ++ [b] }

/-- A batch as it falls due of itself: its trigger is the present on its count, its own time otherwise (R378). -/
def EvcGroup.triggered (gr : EvcGroup) (b : Batch) (now : Nat) : Batch :=
  { b with trigger := if gr.cntThr ≤ b.count then now else gr.dueTime b }

theorem State.dueCheck_due (hc : (s.evc.group g).collecting = some b) (hm : (s.evc.group g).meets b s.now) :
    ∃ n, s.dueCheck g false = s.modEvc fun e =>
      { e.modGroup g (EvcGroup.afterDue ((s.evc.group g).triggered b s.now)) with
        wakeLast := e.wakeLast.set g none, noTgt := n } := by
  have hfall : s.dueCheck g false = (s.modEvc fun e => e.modGroup g fun x => { x with collecting := none }).fallDue g
      ((s.evc.group g).triggered b s.now) := by
    unfold State.dueCheck EvcGroup.triggered
    dsimp only
    rw [hc]
    simp only [Bool.false_eq_true, or_false]
    exact if_pos hm
  obtain ⟨n, hn⟩ := State.fallDue_eq g ((s.evc.group g).triggered b s.now)
    (s.modEvc fun e => e.modGroup g fun x => { x with collecting := none })
  refine ⟨n, hfall.trans (hn.trans ?_)⟩
  unfold State.modEvc Evc.modGroup
  simp only [List.modify_modify_eq]
  rfl

theorem State.closeBatch_none (hc : (s.evc.group g).collecting = none) : s.closeBatch g = s := by
  unfold State.closeBatch
  rw [hc]

theorem State.closeBatch_open (hc : ∀ c, (s.evc.group g).collecting = some c → s.prevNs < (s.evc.group g).dueTime c) :
    s.closeBatch g = s := by
  unfold State.closeBatch
  split
  case h_1 c hcol => exact if_neg (Nat.not_le.mpr (hc c hcol))
  case h_2 => rfl

theorem State.closeBatch_closed (hc : (s.evc.group g).collecting = some b) (h : (s.evc.group g).dueTime b ≤ s.prevNs) :
    s.closeBatch g = s.dueCheck g false := by
  unfold State.closeBatch
  rw [hc]
  exact if_pos h

/-! ### An occurrence (R375) -/

/-- The batch that an occurrence of a source opens or joins. -/
def EvcGroup.joined (gr : EvcGroup) (src now : Nat) : Batch :=
  { gr.collecting.getD { tFirst := now } with
    bitmap := (gr.collecting.getD { tFirst := now }).bitmap ||| BitVec.ofNat 16 (1 <<< src)
    count := satAdd 255 (gr.collecting.getD { tFirst := now }).count 1 }

theorem doEventOccurrence_unknown (h : sourceExists g src = false ∨ s.blockEnabled g src = false) :
    doEventOccurrence g src s = s := by
  unfold doEventOccurrence
  rw [if_neg]
  rintro h'
  obtain ⟨hs, hb⟩ := Bool.and_eq_true_iff.mp h'
  obtain h | h := h
  · rw [h] at hs; cases hs
  · rw [h] at hb; cases hb

theorem doEventOccurrence_raise (hs : sourceExists g src = true) (hb : s.blockEnabled g src = true) :
    doEventOccurrence g src s = s.raise g src := by
  unfold doEventOccurrence
  rw [hs, hb]
  rfl

theorem State.raise_disabled (h : (s.evc.group g).srcEn.getLsbD src = false) : s.raise g src = s := by
  unfold State.raise
  rw [h]
  rfl

theorem State.raise_held (h : (s.evc.group g).srcEn.getLsbD src = true) (hpd : s.pdOn 6 = false) :
    s.raise g src = s.modEvc fun e => { e with held := e.held ++ [(g, src)] } := by
  unfold State.raise
  rw [h, hpd]
  rfl

theorem State.raise_collect (h : (s.evc.group g).srcEn.getLsbD src = true) (hpd : s.pdOn 6 = true) :
    s.raise g src = s.collect g src := by
  unfold State.raise
  rw [h, hpd]
  rfl

/-- An occurrence that is enabled reaches the EVC. -/
theorem doEventOccurrence_collect (hs : sourceExists g src = true) (hb : s.blockEnabled g src = true)
    (h : (s.evc.group g).srcEn.getLsbD src = true) (hpd : s.pdOn 6 = true) :
    doEventOccurrence g src s = s.collect g src := (doEventOccurrence_raise hs hb).trans (State.raise_collect h hpd)

/-- An occurrence in a group that routes nowhere does no more than end a batch whose time has run. -/
theorem State.collect_unrouted (hh : (s.evc.group g).hostMask = 0) (hc : (s.evc.group g).coreMask = 0)
    (hn : (s.evc.group g).collecting = none) : s.collect g src = s := by
  unfold State.collect
  rw [State.closeBatch_none hn]
  dsimp only
  rw [hh, hc]
  rfl

/-- The group that an occurrence's batch collects in. -/
def State.joining (g src : Nat) (s : State) : State :=
  s.modEvc fun e => e.modGroup g fun x => { x with collecting := some ((s.evc.group g).joined src s.now) }

theorem State.collect_routed (hr : (s.evc.group g).hostMask ≠ 0 ∨ (s.evc.group g).coreMask ≠ 0)
    (hopen : s.closeBatch g = s) : s.collect g src = (s.joining g src).dueCheck g false := by
  unfold State.collect
  rw [hopen]
  refine if_neg fun h => ?_
  simp only [Bool.and_eq_true, beq_iff_eq] at h
  obtain h' | h' := hr
  · exact h' h.1
  · exact h' h.2

theorem State.joining_group (hg : g < s.evc.groups.length) : (s.joining g src).evc.group g =
    { s.evc.group g with collecting := some ((s.evc.group g).joined src s.now) } := Evc.group_modGroup _ hg

theorem State.joining_group_ne (hne : h ≠ g) : (s.joining g src).evc.group h = s.evc.group h := Evc.group_modGroup_ne _ _ hne

/-- What an occurrence does rests on the batch that it ends and on the time. -/
theorem State.collect_congr {t : State} (hclose : s.closeBatch g = t.closeBatch g) (hnow : s.now = t.now) :
    s.collect g src = t.collect g src := by
  unfold State.collect
  rw [hclose, hnow]

theorem State.prevNs_le_now (s : State) : s.prevNs ≤ s.now := by
  unfold State.prevNs State.now Tbu.count
  have := s.tbu.frac.isLt
  omega

end

/-- EVC_SWSET raises source 12 + k for each of its bits k, the first four (R391). -/
theorem writeSwset_of_quiet {w : Word} {s : State}
    (h : ∀ k, k < 4 → w.getLsbD k = false ∨ (s.evc.group 0).srcEn.getLsbD (12 + k) = false) : writeSwset w s = s := by
  refine foldl_eq_self fun k hk => ?_
  obtain hbit | hdisabled := h k (List.mem_range.mp hk)
  · simp [hbit]
  · rw [State.raise_disabled hdisabled, ite_self]

theorem writeSwset_single {k : Nat} {s : State} (hk : k < 4) : writeSwset (word (1 <<< k)) s = s.raise 0 (12 + k) := by
  have hbit : ∀ j, j < 4 → (word (1 <<< k)).getLsbD j = decide (j = k) := by decide +revert
  have hother : ∀ (t : State), ∀ j ∈ List.range 4, j ≠ k →
      (if (word (1 <<< k)).getLsbD j then t.raise 0 (12 + j) else t) = t := fun t j hj hne => by
    rw [hbit j (List.mem_range.mp hj), decide_eq_false hne]
    rfl
  unfold writeSwset
  rw [foldl_eq_single (a := k) (List.mem_range.mpr hk) List.nodup_range (hother s) (hother _), hbit k hk, decide_eq_true rfl]
  rfl

/-- Settles O21: each clause by the branch of the occurrence, of the check or of the write that it names. -/
theorem eventsCollectInBatches : Obligations.EventsCollectInBatches := by
  unfold Obligations.EventsCollectInBatches
  refine ⟨?joins, ?closed, ?unheard, ?held, ?due, ?swset⟩
  case joins =>
    intro g src s hg hlen hsrc hblock hen hpd hroute hopen
    have hcollect : doEventOccurrence g src s = (s.joining g src).dueCheck g false := by
      rw [doEventOccurrence_collect hsrc hblock hen hpd, State.collect_routed hroute (State.closeBatch_open hopen)]
    have hgroup := State.joining_group (s := s) (g := g) (src := src) (by omega)
    have hcol : ((s.joining g src).evc.group g).collecting = some ((s.evc.group g).joined src s.now) := by rw [hgroup]
    have hframe : Only [.evc] s (doEventOccurrence g src s) := exec_only (c := .eventOccurrence g src) rfl
    refine ⟨doEventOccurrence g src s, rfl, ?_⟩
    by_cases hm : (s.evc.group g).meets ((s.evc.group g).joined src s.now) s.now
    · obtain ⟨n, hdue⟩ := State.dueCheck_due hcol (by rw [hgroup]; exact hm)
      rw [hcollect] at hframe ⊢
      rw [hdue] at hframe ⊢
      refine ⟨fun b hb => ?_, fun h hne => (Evc.group_modGroup_ne _ _ hne).trans (State.joining_group_ne hne), rfl, rfl, hframe⟩
      subst hb
      have hafter := Evc.group_modGroup (EvcGroup.afterDue (((s.joining g src).evc.group g).triggered
        ((s.evc.group g).joined src s.now) (s.joining g src).now)) (Evc.lt_of_collecting hcol)
      refine (if_pos hm).mpr ⟨congrArg EvcGroup.collecting hafter, (congrArg EvcGroup.due hafter).trans ?_⟩
      rw [hgroup]
      rfl
    · rw [hcollect, State.dueCheck_early hcol (by rw [hgroup]; exact hm)]
      refine ⟨fun b hb => ?_, fun h hne => State.joining_group_ne hne, rfl, rfl, State.modEvc_only s _⟩
      subst hb
      rw [hgroup]
      exact (if_neg hm).mpr ⟨rfl, rfl⟩
  case closed =>
    intro g src c s hsrc hblock hen hpd hcol hclosed
    obtain ⟨n, hdue⟩ := State.dueCheck_due hcol (.inr (hclosed.trans s.prevNs_le_now))
    refine ⟨_, congrArg Host.Outcome.next hdue, ?_⟩
    have hafter := Evc.group_modGroup (EvcGroup.afterDue ((s.evc.group g).triggered c s.now)) (Evc.lt_of_collecting hcol)
    have hen' := (congrArg (fun x : EvcGroup => x.srcEn.getLsbD src) hafter).trans hen
    have hlater := doEventOccurrence_collect (s := s.modEvc fun e =>
      { e.modGroup g (EvcGroup.afterDue ((s.evc.group g).triggered c s.now)) with
        wakeLast := e.wakeLast.set g none, noTgt := n }) hsrc hblock hen' hpd
    refine congrArg Host.Outcome.next ((doEventOccurrence_collect hsrc hblock hen hpd).trans (.trans ?_ hlater.symm))
    refine State.collect_congr ?_ rfl
    rw [State.closeBatch_closed hcol hclosed, hdue, State.closeBatch_none]
    exact congrArg EvcGroup.collecting hafter
  case unheard =>
    intro g src s h
    refine congrArg Host.Outcome.next ?_
    by_cases hknown : sourceExists g src = false ∨ s.blockEnabled g src = false
    · exact doEventOccurrence_unknown hknown
    · rw [not_or, Bool.not_eq_false, Bool.not_eq_false] at hknown
      obtain ⟨hsrc, hblock⟩ := hknown
      rw [doEventOccurrence_raise hsrc hblock]
      by_cases hen : (s.evc.group g).srcEn.getLsbD src = false
      · exact State.raise_disabled hen
      · rw [hsrc, hblock] at h
        obtain h | h | h | ⟨hpd, hhost, hcore, hnone⟩ := h
        · exact absurd h hen
        · cases h
        · cases h
        · rw [State.raise_collect (by simpa using hen) hpd, State.collect_unrouted hhost hcore hnone]
  case held =>
    intro g src s hsrc hblock hen hpd
    have hheld := (doEventOccurrence_raise hsrc hblock).trans (State.raise_held hen hpd)
    exact ⟨_, congrArg Host.Outcome.next hheld, rfl, State.modEvc_only s _⟩
  case due =>
    intro g b s hg hlen hcol
    by_cases hm : (s.evc.group g).meets b s.now
    · obtain ⟨n, hdue⟩ := State.dueCheck_due hcol hm
      refine ⟨_, congrArg Host.Outcome.next hdue, ?_, State.modEvc_only s _⟩
      have hafter := Evc.group_modGroup (EvcGroup.afterDue ((s.evc.group g).triggered b s.now)) (Evc.lt_of_collecting hcol)
      exact (if_pos hm).mpr ⟨congrArg EvcGroup.collecting hafter, congrArg EvcGroup.due hafter⟩
    · refine ⟨s, congrArg Host.Outcome.next (State.dueCheck_early hcol hm), ?_, Only.refl _ s⟩
      exact (if_neg hm).mpr rfl
  case swset =>
    intro w s
    refine ⟨writeSwset w s, rfl, writeSwset_of_quiet, fun k hk hw => ?_, exec_only (c := .evcSwsetWrite w) rfl⟩
    subst hw
    refine congrArg Host.Outcome.next ((writeSwset_single hk).trans (Eq.symm (doEventOccurrence_raise ?_ rfl)))
    decide +revert

/-! ### Claims (R382) -/

theorem State.target_modTarget {s : State} {j : Nat} (f : HostTarget → HostTarget) (hj : j < s.evc.targets.length) :
    (s.modEvc fun e => e.modTarget j f).evc.target j = f (s.evc.target j) ∧
      ∀ k, k ≠ j → (s.modEvc fun e => e.modTarget j f).evc.target k = s.evc.target k :=
  ⟨getD_modify_self f _ hj, fun _ hk => getD_modify_ne f _ hk⟩

theorem writeClaim_some {s : State} {j : Nat} {d : HostDelivery} (w : Word) (h : (s.evc.target j).dlv = some d) :
    writeClaim j w s = s.modEvc fun e => e.modTarget j fun x =>
      if d.seq = fld w 0 16 then { x with dlv := none, claimOk := true } else { x with claimErr := true } := by
  unfold writeClaim
  rw [h]
  dsimp only
  split <;> rfl

theorem writeClaim_none {s : State} {j : Nat} (w : Word) (h : (s.evc.target j).dlv = none) :
    writeClaim j w s = s.modEvc fun e => e.modTarget j fun x => { x with claimErr := true } := by
  unfold writeClaim
  rw [h]

/-- Settles O23: the claim by whether a delivery is outstanding, the read by what it latches. -/
theorem claimsAreMatchedBySequence : Obligations.ClaimsAreMatchedBySequence := by
  unfold Obligations.ClaimsAreMatchedBySequence
  refine ⟨fun j w d s hj hlen hd => ?_, fun j w s hj hlen hd => ?_, fun r j s hj hshadows hmaps => ?_⟩
  · obtain ⟨hself, hother⟩ := State.target_modTarget (s := s) (j := j) (fun x => if d.seq = fld w 0 16 then
      { x with dlv := none, claimOk := true } else { x with claimErr := true }) (by omega)
    exact ⟨_, congrArg Host.Outcome.next (writeClaim_some w hd), hself, hother, rfl, rfl, State.modEvc_only s _⟩
  · obtain ⟨hself, hother⟩ := State.target_modTarget (s := s) (j := j) (fun x => { x with claimErr := true }) (by omega)
    exact ⟨_, congrArg Host.Outcome.next (writeClaim_none w hd), hself, hother, rfl, State.modEvc_only s _⟩
  · have hmap : ((State.answered (readDlv r j s)).shadow r).dlvMap.getD j 0 = s.dlvMapWord j := by
      rw [State.answered_shadow]
      unfold readDlv
      dsimp only
      rw [State.shadow_modShadow _ hshadows]
      exact getD_set_self _ _ (by omega)
    refine ⟨State.answered (readDlv r j s), rfl, fun d hd => ?_, fun hd => ?_,
      fun q hq => State.shadow_modShadow_ne _ hq, exec_only (c := .evcDlvRead r j) rfl⟩
    · rw [hmap]
      unfold State.dlvMapWord
      refine ⟨?_, by rw [hd]⟩
      show s.dlvWord j = _
      unfold State.dlvWord
      rw [hd]
    · rw [hmap]
      unfold State.dlvMapWord
      refine ⟨?_, by rw [hd]⟩
      show s.dlvWord j = _
      unfold State.dlvWord
      rw [hd]

end Sys2Proof.Machine
end

section
/-!
The roll-back of an entry (R489) taken apart, and the deliveries of R379 to R383, from which O22 follows.
-/
namespace Sys2Proof.Machine

/-! ### The roll-back of an entry (R489) -/

/-- The domains that an entry had gated, restored latest first. -/
def State.ungated (s : State) : State := s.psc.gatedNow.foldl (fun t d => t.restoreDomain d) s

theorem State.ungated_only (s : State) : Only [.psc, .pad] s s.ungated :=
  (Moves.foldl (Moves.refl _ s) fun _ _ h => Moves.step h (State.restoreDomain_moves ..)).1

/-- The entry ended, before its event and the posting of pwr.sleep. -/
def State.unwound (veto : Nat) (s : State) : State :=
  let s1 := if s.psc.gatedNow.contains 13 then s.ungated.restartHalves else s.ungated
  let s2 := s1.modPsc fun p =>
    { p with
      entry := none, committed := false, gatedNow := [], vote := false, trimWait := false, keep := 0
      rollbacks := if s.psc.committed then satAdd 0xFFFF p.rollbacks 1 else p.rollbacks
      lastVeto := veto }
  if s.psc.committed then s2.modLedger fun l => { l with flush := [] } else s2

theorem State.rollBack_eq (veto : Nat) (s : State) : s.rollBack veto = ((s.unwound veto).raise 12 0).postRolledBack veto := rfl

/-- The end of an entry touches no mailbox, no event and no time. -/
theorem State.unwound_only (veto : Nat) (s : State) : Only [.psc, .pad, .rel, .ledger] s (s.unwound veto) := by
  have hungated : Only [.psc, .pad, .rel, .ledger] s s.ungated := Only.mono rfl s.ungated_only
  have hpsc : ∀ (u : State) (f : Psc → Psc), Only [.psc, .pad, .rel, .ledger] u (u.modPsc f) := fun u f p hp => by
    cases p with
    | psc => exact absurd (by decide) hp
    | _ => rfl
  have hledger : ∀ (u : State) (f : Ledger → Ledger), Only [.psc, .pad, .rel, .ledger] u (u.modLedger f) := fun u f p hp => by
    cases p with
    | ledger => exact absurd (by decide) hp
    | _ => rfl
  have hhalves : ∀ u : State, Only [.psc, .pad, .rel, .ledger] u u.restartHalves := fun u =>
    Only.mono rfl (State.restartHalves_moves u).1
  unfold State.unwound
  dsimp only
  split <;> split
  · exact ((hungated.trans (hhalves _)).trans (hpsc _ _)).trans (hledger _ _)
  · exact (hungated.trans (hpsc _ _)).trans (hledger _ _)
  · exact (hungated.trans (hhalves _)).trans (hpsc _ _)
  · exact hungated.trans (hpsc _ _)

/-! ### What an event leaves of the deliveries made -/

/-- The outstanding deliveries and their sequence number are as they were. -/
structure Evc.SameOut (a b : Evc) : Prop where
  targets : b.targets = a.targets
  coreQ : b.coreQ = a.coreQ
  seq : b.seq = a.seq

theorem Evc.SameOut.refl (a : Evc) : a.SameOut a := ⟨rfl, rfl, rfl⟩

theorem Evc.SameOut.trans {a b c : Evc} (h : a.SameOut b) (k : b.SameOut c) : a.SameOut c :=
  ⟨k.targets.trans h.targets, k.coreQ.trans h.coreQ, k.seq.trans h.seq⟩

theorem Evc.SameOut.of_eq {a b : Evc} (h : b = a) : a.SameOut b := h ▸ .refl a

theorem State.dueCheck_sameOut (g : Nat) (wrote : Bool) (s : State) : s.evc.SameOut (s.dueCheck g wrote).evc := by
  unfold State.dueCheck
  dsimp only
  split
  case h_1 b _ =>
    split
    · obtain ⟨n, hn⟩ := State.fallDue_eq g
        { b with trigger := if (s.evc.group g).cntThr ≤ b.count ∨ wrote = true then s.now else (s.evc.group g).dueTime b }
        (s.modEvc fun e => e.modGroup g fun x => { x with collecting := none })
      rw [hn]
      exact ⟨rfl, rfl, rfl⟩
    · exact .refl _
  case h_2 => exact .refl _

theorem State.closeBatch_sameOut (g : Nat) (s : State) : s.evc.SameOut (s.closeBatch g).evc := by
  unfold State.closeBatch
  split
  · split
    · exact State.dueCheck_sameOut g false s
    · exact .refl _
  · exact .refl _

theorem State.collect_sameOut (g src : Nat) (s : State) : s.evc.SameOut (s.collect g src).evc := by
  have hclose := State.closeBatch_sameOut g s
  unfold State.collect
  extract_lets s1 gr b0 b
  split
  · exact hclose
  · refine .trans ?_ (State.dueCheck_sameOut ..)
    exact ⟨hclose.targets, hclose.coreQ, hclose.seq⟩

theorem State.raise_sameOut (g src : Nat) (s : State) : s.evc.SameOut (s.raise g src).evc := by
  unfold State.raise
  split
  · exact .refl _
  · split
    · exact ⟨rfl, rfl, rfl⟩
    · exact State.collect_sameOut g src s

theorem State.postWith_sameOut (n status : Nat) (body : List Byte) (consumed : Nat) (s : State) :
    s.evc.SameOut (s.postWith n status body consumed).evc := by
  have hfree : ∀ w, (s.winFree w).evc = s.evc := fun w => by cases w <;> rfl
  unfold State.postWith
  extract_lets b s1
  have hbox : s.evc.SameOut s1.evc := .of_eq (hfree _)
  split
  · exact hbox
  · exact hbox.trans (State.raise_sameOut ..)

theorem State.rollBack_sameOut (veto : Nat) (s : State) : s.evc.SameOut (s.rollBack veto).evc := by
  have hended : s.evc.SameOut (s.unwound veto).evc := .of_eq (State.unwound_only veto s .evc (by decide))
  rw [State.rollBack_eq]
  unfold State.postRolledBack
  split
  · exact (hended.trans (State.raise_sameOut ..)).trans (State.postWith_sameOut ..)
  · exact hended.trans (State.raise_sameOut ..)

theorem State.wakeSource_sameOut (code : Nat) (s : State) : s.evc.SameOut (s.wakeSource code).evc := by
  unfold State.wakeSource
  split
  · exact .refl _
  · split
    · split
      · exact State.rollBack_sameOut 0 s
      · exact .refl _
    · split
      · exact .of_eq ((State.startWake_moves code s).1 .evc (by decide))
      · exact .refl _

/-! ### The target chosen (R379, R383) -/

/-- Every target has its place in the round robin. -/
theorem mem_cyclic_of_lt {last y : Nat} (hy : y < 10) : y ∈ cyclic last := by
  unfold cyclic
  split
  case isTrue hlast =>
    refine List.mem_map.mpr ⟨(y + 19 - last) % 10, List.mem_range.mpr (Nat.mod_lt _ (by omega)), ?_⟩
    omega
  case isFalse => exact List.mem_map.mpr ⟨y, List.mem_range.mpr hy, Nat.mod_eq_of_lt hy⟩

theorem lt_of_mem_cyclic {last y : Nat} (h : y ∈ cyclic last) : y < 10 := by
  obtain ⟨k, -, rfl⟩ := List.mem_map.mp h
  exact Nat.mod_lt _ (by omega)

section
variable {s : State} {asleep : BitVec 6} {g x : Nat} {avoid : Option Nat}

/-- The target chosen is one of the eligible, and the one passed over only where it is the only one. -/
theorem State.chosen_some (h : s.chosen asleep g avoid = some x) :
    x ∈ (cyclic (s.evc.group g).last).filter (s.eligible asleep g) ∧
      (avoid = some x → ∀ y ∈ (cyclic (s.evc.group g).last).filter (s.eligible asleep g), y = x) := by
  unfold State.chosen at h
  dsimp only at h
  split at h
  case h_1 t hfind =>
    obtain rfl : t = x := Option.some.inj h
    refine ⟨List.mem_of_find?_eq_some hfind, fun havoid => ?_⟩
    have hother := List.find?_some hfind
    rw [havoid] at hother
    simp at hother
  case h_2 hfind =>
    refine ⟨List.mem_of_head? h, fun havoid y hy => ?_⟩
    have hsame := List.find?_eq_none.mp hfind y hy
    rw [havoid] at hsame
    exact (Option.some.inj (by simpa using hsame)).symm

theorem State.mem_eligible : x ∈ (cyclic (s.evc.group g).last).filter (s.eligible asleep g) ↔
    x < 10 ∧ s.eligible asleep g x = true := by
  rw [List.mem_filter]
  exact and_congr_left' ⟨lt_of_mem_cyclic, mem_cyclic_of_lt⟩

end

/-! ### The batch delivered first (R379) -/

/-- A batch goes before another on its trigger, and on its group where the triggers are equal. -/
def firstOf (p q : Nat × Batch) : Prop := p.2.trigger < q.2.trigger ∨ (p.2.trigger = q.2.trigger ∧ p.1 ≤ q.1)

/-- One step of the search for the batch that goes first. -/
def earlierOf (best : Option (Nat × Batch)) (p : Nat × Batch) : Option (Nat × Batch) :=
  match best with
  | none => some p
  | some q => if p.2.trigger < q.2.trigger then some p else some q

/-- From a list in the order of the groups the search takes a member that goes before every other. -/
theorem foldl_earlierOf {q r : Nat × Batch} {ps : List (Nat × Batch)} (hsort : (q :: ps).Pairwise fun a b => a.1 ≤ b.1)
    (h : ps.foldl earlierOf (some q) = some r) : r ∈ q :: ps ∧ ∀ p ∈ q :: ps, firstOf r p := by
  induction ps generalizing q with
  | nil =>
    obtain rfl : q = r := Option.some.inj h
    exact ⟨by simp, fun p hp => by rw [List.mem_singleton.mp hp]; exact .inr ⟨rfl, le_refl _⟩⟩
  | cons p ps ih =>
    simp only [List.pairwise_cons, List.mem_cons, forall_eq_or_imp] at hsort
    obtain ⟨⟨hqp, hq⟩, hp, hps⟩ := hsort
    by_cases hlt : p.2.trigger < q.2.trigger
    · have hstep : ps.foldl earlierOf (some p) = some r := by
        simpa [earlierOf, hlt] using h
      obtain ⟨hmem, hfirst⟩ := ih (List.pairwise_cons.mpr ⟨hp, hps⟩) hstep
      refine ⟨List.mem_cons_of_mem _ hmem, fun x hx => ?_⟩
      obtain rfl | hx := List.mem_cons.mp hx
      · obtain hr | ⟨hr, -⟩ := hfirst p (by simp)
        · exact .inl (hr.trans hlt)
        · exact .inl (hr ▸ hlt)
      · exact hfirst x hx
    · have hstep : ps.foldl earlierOf (some q) = some r := by
        simpa [earlierOf, hlt] using h
      obtain ⟨hmem, hfirst⟩ := ih (List.pairwise_cons.mpr ⟨hq, hps⟩) hstep
      refine ⟨?_, fun x hx => ?_⟩
      · obtain rfl | hr := List.mem_cons.mp hmem
        · simp
        · simp [hr]
      · obtain rfl | hx := List.mem_cons.mp hx
        · exact hfirst x (by simp)
        obtain rfl | hx := List.mem_cons.mp hx
        · obtain hr | ⟨hr, hg⟩ := hfirst q (by simp)
          · unfold firstOf; omega
          · unfold firstOf; omega
        · exact hfirst x (by simp [hx])

theorem State.mem_dueList {s : State} {p : Nat × Batch} : p ∈ s.dueList ↔ p.1 < 16 ∧ p.2 ∈ (s.evc.group p.1).due := by
  unfold State.dueList
  simp only [List.mem_flatMap, List.mem_map, List.mem_range]
  constructor
  · rintro ⟨g, hg, b, hb, rfl⟩
    exact ⟨hg, hb⟩
  · rintro ⟨hg, hb⟩
    exact ⟨p.1, hg, p.2, hb, rfl⟩

theorem State.dueList_sorted (s : State) : s.dueList.Pairwise fun a b => a.1 ≤ b.1 := by
  unfold State.dueList
  rw [List.pairwise_flatMap]
  refine ⟨fun g _ => ?_, List.pairwise_lt_range.imp fun hgh a ha b hb => ?_⟩
  · rw [List.pairwise_map]
    exact List.pairwise_of_forall fun _ _ => le_refl _
  · obtain ⟨x, -, rfl⟩ := List.mem_map.mp ha
    obtain ⟨y, -, rfl⟩ := List.mem_map.mp hb
    exact hgh.le

/-- The batch delivered next is due, has an eligible target, and goes before every other such batch. -/
theorem State.nextDue_first {s : State} {r : Nat × Batch} (h : s.nextDue = some r) :
    r ∈ s.dueList ∧ (s.chosen s.psc.hostSleep r.1 r.2.avoid).isSome = true ∧
      ∀ p ∈ s.dueList, (s.chosen s.psc.hostSleep p.1 p.2.avoid).isSome = true → firstOf r p := by
  have hsorted := s.dueList_sorted.filter fun p => (s.chosen s.psc.hostSleep p.1 p.2.avoid).isSome
  have hsearch : (s.dueList.filter fun p => (s.chosen s.psc.hostSleep p.1 p.2.avoid).isSome).foldl earlierOf none = some r := h
  have hmem : ∀ p, p ∈ (s.dueList.filter fun p => (s.chosen s.psc.hostSleep p.1 p.2.avoid).isSome) ↔
      p ∈ s.dueList ∧ (s.chosen s.psc.hostSleep p.1 p.2.avoid).isSome = true := fun p => List.mem_filter
  generalize (s.dueList.filter fun p => (s.chosen s.psc.hostSleep p.1 p.2.avoid).isSome) = ps at hsorted hsearch hmem
  cases ps with
  | nil => cases hsearch
  | cons q ps =>
    obtain ⟨hr, hfirst⟩ := foldl_earlierOf hsorted hsearch
    obtain ⟨hdue, hsome⟩ := (hmem r).mp hr
    exact ⟨hdue, hsome, fun p hp hpsome => hfirst p ((hmem p).mpr ⟨hp, hpsome⟩)⟩

/-! ### The delivery (R380, R381) -/

section
variable {s : State} {g x : Nat} {b : Batch}

/-- The batch taken from its group, which remembers the target, and the sequence number advanced. -/
def State.takenOut (g x : Nat) (b : Batch) (s : State) : State :=
  s.modEvc fun e =>
    { e.modGroup g fun y => { y with due := y.due.erase b, last := x } with
      seq := (s.evc.seq + 1) % 0x10000, wakeLast := e.wakeLast.set g none }

theorem doDelivery_delivers (hpd : s.pdOn 6 = true) (hdue : s.nextDue = some (g, b))
    (hx : s.chosen s.psc.hostSleep g b.avoid = some x) : doDelivery s = s.deliverTo g x b := by
  unfold doDelivery
  rw [hpd, hdue]
  dsimp only
  rw [hx]
  rfl

theorem doDelivery_idle (h : s.pdOn 6 = false ∨ s.nextDue = none) : doDelivery s = s := by
  unfold doDelivery
  obtain h | h := h
  · rw [h]; rfl
  · rw [h]; exact ite_self s

theorem State.deliverTo_core (hx : x < 4) : s.deliverTo g x b =
    ((s.takenOut g x b).modEvc fun e => { e with coreQ := e.coreQ.modify x fun l => l ++ [(s.evc.seq, g, b)] }).wakeSource
      0x0D := if_pos hx

/-- The batch held at its host target. -/
def State.heldOut (g x : Nat) (b : Batch) (s : State) : State :=
  (s.takenOut g x b).modEvc fun e => e.modTarget (x - 4) fun y =>
    { y with dlv := some { seq := s.evc.seq, group := g, batch := b, madeNs := s.now } }

theorem State.deliverTo_host (hx : 4 ≤ x) : s.deliverTo g x b =
    if 8 ≤ x then
      ((s.heldOut g x b).modEvc fun e =>
        { e with frames := e.frames ++ [(e.mgmtAddr.getD (x - 8) (0, 0), s.eventFrame x s.evc.seq g b)] }).countSent (x - 8) 1
    else s.heldOut g x b := if_neg (by omega)

end

/-- Settles O22: a delivery by the kind of its target, the choices by the two searches. -/
theorem deliveriesGoToEligibleTargets : Obligations.DeliveriesGoToEligibleTargets := by
  unfold Obligations.DeliveriesGoToEligibleTargets
  refine ⟨?host, ?core, fun s h => congrArg Host.Outcome.next (doDelivery_idle h), ?chosen, ?first⟩
  case host =>
    intro g x b s hg hgroups htargets hpd hdue hchosen hx
    have hx10 : x < 10 := (State.mem_eligible.mp (State.chosen_some hchosen).1).1
    have hexec := (doDelivery_delivers hpd hdue hchosen).trans (State.deliverTo_host hx)
    obtain ⟨htarget, htargets'⟩ := State.target_modTarget (s := s.takenOut g x b) (j := x - 4) (fun y =>
      { y with dlv := some { seq := s.evc.seq, group := g, batch := b, madeNs := s.now } })
      (show x - 4 < s.evc.targets.length by omega)
    have hgroup : (s.heldOut g x b).evc.group g = { s.evc.group g with due := (s.evc.group g).due.erase b, last := x } :=
      Evc.group_modGroup _ (by omega)
    have hgroups' : ∀ h, h ≠ g → (s.heldOut g x b).evc.group h = s.evc.group h := fun h hne => Evc.group_modGroup_ne _ _ hne
    have hdlv : ((s.heldOut g x b).evc.target (x - 4)).dlv =
        some { seq := s.evc.seq, group := g, batch := b, madeNs := s.now } := congrArg HostTarget.dlv htarget
    have honly : Only [.evc, .net] s (s.heldOut g x b) :=
      Only.mono rfl ((State.modEvc_only s _).trans (State.modEvc_only (s.takenOut g x b) _))
    refine ⟨_, congrArg Host.Outcome.next hexec, ?_⟩
    by_cases h8 : 8 ≤ x
    · rw [if_pos h8, if_pos h8]
      refine ⟨hdlv, rfl, congrArg EvcGroup.last hgroup, congrArg EvcGroup.due hgroup, hgroups', htargets', rfl,
        fun hlt => absurd h8 (by omega), ?_⟩
      exact honly.trans (Only.trans (Only.mono rfl (State.modEvc_only _ _)) (Only.mono rfl (State.countSent_moves _ _ _).1))
    · rw [if_neg h8, if_neg h8]
      exact ⟨hdlv, rfl, congrArg EvcGroup.last hgroup, congrArg EvcGroup.due hgroup, hgroups', htargets', rfl, fun _ => rfl,
        honly⟩
  case core =>
    intro g x b s hg hgroups hcores hpd hdue hchosen hx
    have hexec := (doDelivery_delivers hpd hdue hchosen).trans (State.deliverTo_core hx)
    refine ⟨_, congrArg Host.Outcome.next hexec, ?_⟩
    obtain ⟨htargets, hqueues, hseq⟩ := State.wakeSource_sameOut 0x0D
      ((s.takenOut g x b).modEvc fun e => { e with coreQ := e.coreQ.modify x fun l => l ++ [(s.evc.seq, g, b)] })
    rw [htargets, hqueues, hseq]
    exact ⟨getD_modify_self _ _ (show x < s.evc.coreQ.length by omega), rfl, rfl⟩
  case chosen =>
    intro s g x avoid h
    obtain ⟨hmem, honly⟩ := State.chosen_some h
    obtain ⟨hx, hel⟩ := State.mem_eligible.mp hmem
    exact ⟨hel, hx, fun ha y hy hyel => honly ha y (State.mem_eligible.mpr ⟨hy, hyel⟩)⟩
  case first =>
    intro s g b h
    obtain ⟨hmem, hsome, hfirst⟩ := State.nextDue_first h
    obtain ⟨hg, hb⟩ := State.mem_dueList.mp hmem
    exact ⟨hg, hb, hsome, fun h' c hh hc hcsome => hfirst (h', c) (State.mem_dueList.mpr ⟨hh, hc⟩) hcsome⟩

end Sys2Proof.Machine
end

section
/-!
The translation faults of R401 to R406, from which O28 follows, and the memory errors of R508 and R509, which O29 asks.
-/
namespace Sys2Proof.Machine

/-! ### The queues of fault records (R403, R404, R406) -/

section
variable {s : State} {r : FaultRec} {req : Nat}

/-- A record as it takes its place in its role's queue. -/
def State.queuedRec (s : State) (r : FaultRec) : FaultRec :=
  { r with queued := true, recSeq := s.fab.recSeqs.getD (roleNo r.owner) 0, dueNs := s.now + 10000000 }

theorem State.queueFault_place (h : (s.fab.faults.filter fun x => x.queued && x.owner == r.owner).length < 64) :
    s.queueFault r = s.modFab fun f =>
      { f with
        faults := f.faults ++ [s.queuedRec r]
        recSeqs := f.recSeqs.modify (roleNo r.owner) fun n => (n + 1) % 0x10000 } := if_pos h

/-- A record joins the list, in its place or without one. -/
theorem State.queueFault_eq (r : FaultRec) (s : State) : ∃ x ks, s.queueFault r =
    s.modFab fun f => { f with faults := f.faults ++ [x], recSeqs := ks } := by
  unfold State.queueFault
  dsimp only
  split
  · exact ⟨_, _, rfl⟩
  · exact ⟨_, s.fab.recSeqs, rfl⟩

/-- A resolved record leaves the list, where one that waits for its place may take it. -/
theorem State.dropFault_eq (hr : r ∈ s.fab.faults) : ∃ fs ks, s.dropFault r =
    s.modFab (fun f => { f with faults := fs, recSeqs := ks }) ∧ fs.length = s.fab.faults.length - 1 := by
  unfold State.dropFault
  dsimp only
  split
  case h_1 x hx =>
    obtain ⟨y, ks, hy⟩ := State.queueFault_eq x ((s.modFab fun f => { f with faults := f.faults.erase r }).modFab fun f =>
      { f with faults := f.faults.erase x })
    refine ⟨(s.fab.faults.erase r).erase x ++ [y], ks, hy, ?_⟩
    have hmem : x ∈ s.fab.faults.erase r := List.mem_of_find?_eq_some hx
    have hpos := List.length_pos_of_mem hmem
    have herase := List.length_erase_of_mem hr
    rw [List.length_append, List.length_singleton, List.length_erase_of_mem hmem]
    omega
  case h_2 => exact ⟨_, s.fab.recSeqs, rfl, List.length_erase_of_mem hr⟩

theorem State.nextFault_some (h : s.nextFault req = some r) : r ∈ s.fab.faults ∧ r.requester = req := by
  refine ⟨List.mem_of_find?_eq_some h, ?_⟩
  have hmatch := List.find?_some h
  simp only [Bool.and_eq_true, beq_iff_eq] at hmatch
  exact hmatch.1

/-! ### An access that fails (R401 to R404) -/

theorem not_isCipher_of_le (h : req ≤ 0x0E) : isCipher req = false := by
  unfold isCipher reqCipherRead reqCipherWrite
  rw [Bool.or_eq_false_iff, beq_eq_false_iff_ne, beq_eq_false_iff_ne]
  omega

theorem queuesFault_of_le (h4 : 4 ≤ req) (h : req ≤ 0x0E) : queuesFault req = true := by
  unfold queuesFault
  simp only [Bool.and_eq_true, decide_eq_true_eq]
  omega

/-- The counts of an access that fails. -/
def State.countFault (req k : Nat) (s : State) : State :=
  s.modFab fun f =>
    { f with
      reqCounts := f.reqCounts.modify req fun n => satAdd 0xFFFFFFFF n 1
      kindCounts := f.kindCounts.modify (k - 1) fun n => satAdd 0xFFFFFFFF n 1 }

theorem doTranslationFault_good {sub access ref done : Nat} {va : Word} {hold : Bool}
    (h : s.faultKind req sub access ref va.toNat hold = none) : doTranslationFault req sub access va ref done hold s = s := by
  unfold doTranslationFault
  rw [h]

theorem doTranslationFault_queues {sub access ref done k : Nat} {va : Word} {hold : Bool} (h4 : 4 ≤ req) (hle : req ≤ 0x0E)
    (hk : s.faultKind req sub access ref va.toNat hold = some k) (hf : s.faulted req sub ref = false) :
    doTranslationFault req sub access va ref done hold s = (s.countFault req k).queueFault
      { requester := req, kind := k, access := access, sub := sub, vaddr := va, descRef := ref
        bytesDone := done / 16 * 16, epoch := s.tbu.epoch, ns := s.now } := by
  have hcore : ¬(s.faulted req sub ref || decide (0x11 < req)) = true := by
    rw [hf, Bool.false_or, decide_eq_true_eq]
    omega
  unfold doTranslationFault
  rw [hk]
  dsimp only
  rw [if_neg hcore, queuesFault_of_le h4 hle, not_isCipher_of_le hle]
  rfl

/-! ### Restart and abort (R406) -/

/-- Outside the cipher the fault of an access rests on the tables, the entries cached, the pages held and the memory. -/
theorem State.faultKind_congr {t : State} {sub access ref va : Nat} {hold : Bool} (hle : req ≤ 0x0E) (hmem : t.mem = s.mem)
    (htables : t.fab.tables = s.fab.tables) (htlb : t.fab.tlb = s.fab.tlb) (hheld : t.fab.heldPages = s.fab.heldPages) :
    t.faultKind req sub access ref va hold = s.faultKind req sub access ref va hold := by
  unfold State.faultKind State.accessHolder State.translate State.entryOf State.walk State.heldBy
  rw [not_isCipher_of_le hle, hmem, htables, htlb, hheld]
  rfl

theorem doFaultRestart_bad {l1 l2 : Word} (hr : s.nextFault req = some r)
    (h : ((s.mapPage req r.vaddr l1 l2).faultKind req r.sub r.access r.descRef r.vaddr.toNat
      (r.kind == kindNotHoldable)).isSome = true) : doFaultRestart req l1 l2 s = s := by
  unfold doFaultRestart
  rw [hr]
  dsimp only
  rw [h, Bool.or_true]
  rfl

theorem doFaultRestart_good {l1 l2 : Word} (hle : req ≤ 0x0E) (hr : s.nextFault req = some r)
    (hplace : s.rolePlaced r.owner = true) (hfit : s.tablesFit req l1 = true)
    (h : (s.mapPage req r.vaddr l1 l2).faultKind req r.sub r.access r.descRef r.vaddr.toNat (r.kind == kindNotHoldable) = none) :
    doFaultRestart req l1 l2 s = (s.mapPage req r.vaddr l1 l2).dropFault r := by
  unfold doFaultRestart
  rw [hr]
  dsimp only
  rw [h, hplace, hfit, not_isCipher_of_le hle]
  rfl

/-- A record dropped and its abort counted. -/
def State.countAbort (r : FaultRec) (s : State) : State :=
  (s.dropFault r).modFab fun f => { f with aborted := satAdd 0xFFFF f.aborted 1 }

theorem State.countAbort_fab (hr : r ∈ s.fab.faults) :
    (s.countAbort r).fab.faults.length = s.fab.faults.length - 1 ∧
      (s.countAbort r).fab.aborted = satAdd 0xFFFF s.fab.aborted 1 ∧ Only [.fab] s (s.countAbort r) := by
  obtain ⟨fs, ks, hdrop, hlen⟩ := State.dropFault_eq hr
  unfold State.countAbort
  rw [hdrop]
  exact ⟨hlen, rfl, (State.modFab_only s _).trans (State.modFab_only _ _)⟩

theorem State.abortOutcome_port {sub ref : Nat} (h4 : 4 ≤ req) (h9 : req ≤ 9) : s.abortOutcome req sub ref =
    s.modStat (req - 4) fun x => { x with discarded := satAdd 0xFFFFFFFF x.discarded 1 } := by
  unfold State.abortOutcome
  rw [not_isCipher_of_le (by omega), if_neg Bool.false_ne_true, if_pos ⟨h4, h9⟩]

end

/-- Settles O28: each row by the branch of the fault's life that it is. -/
theorem faultsAreQueuedAndResolved : Obligations.FaultsAreQueuedAndResolved := by
  unfold Obligations.FaultsAreQueuedAndResolved
  refine ⟨?queued, fun req sub access ref done va hold s h => congrArg Host.Outcome.next (doTranslationFault_good h), ?restart,
    fun req l1 l2 r s hr h => congrArg Host.Outcome.next (doFaultRestart_bad hr h), ?abort, ?timeout, ?early⟩
  case queued =>
    intro req sub access ref done k va hold s h4 hle hk hf hroom hlen
    have hqueue := (doTranslationFault_queues (done := done) h4 hle hk hf).trans (State.queueFault_place hroom)
    exact ⟨_, congrArg Host.Outcome.next hqueue, ⟨_, rfl, rfl, rfl, rfl, rfl, rfl, rfl, rfl, rfl, rfl, rfl, rfl, rfl⟩,
      getD_modify_self _ _ (by omega), (State.modFab_only s _).trans (State.modFab_only _ _)⟩
  case restart =>
    intro req l1 l2 r s h4 hle hr hplace hfit hgood
    obtain ⟨hmem, -⟩ := State.nextFault_some hr
    obtain ⟨fs, ks, hdrop, hlen⟩ := State.dropFault_eq (s := s.mapPage req r.vaddr l1 l2) hmem
    have hexec := (doFaultRestart_good hle hr hplace hfit hgood).trans hdrop
    refine ⟨_, congrArg Host.Outcome.next hexec, rfl, ?_, hlen, rfl, ?_⟩
    · exact (State.faultKind_congr hle rfl rfl rfl rfl).trans hgood
    · have hframe : Only [.fab, .mem] s (s.mapPage req r.vaddr l1 l2) := (State.mapPage_moves ..).1
      exact hframe.trans (Only.mono rfl (State.modFab_only _ _))
  case abort =>
    intro req r s h4 h9 hr hplace hlen
    obtain ⟨hmem, rfl⟩ := State.nextFault_some hr
    obtain ⟨hfaults, haborted, honly⟩ := State.countAbort_fab hmem
    have hexec : doFaultAbort r.requester s = (s.countAbort r).modStat (r.requester - 4) fun x =>
        { x with discarded := satAdd 0xFFFFFFFF x.discarded 1 } := by
      unfold doFaultAbort
      rw [hr]
      dsimp only
      rw [if_pos hplace]
      exact State.abortOutcome_port h4 h9
    have hnet : (s.countAbort r).net = s.net := honly .net (by decide)
    refine ⟨_, congrArg Host.Outcome.next hexec, hfaults, haborted, ?_,
      (Only.mono rfl honly).trans (Only.mono rfl (State.modStat_moves _ _ _).1)⟩
    have hstat := getD_modify_self (fun x : PortStat => { x with discarded := satAdd 0xFFFFFFFF x.discarded 1 }) {} hlen
    rw [← hnet] at hstat
    rw [← hnet]
    exact congrArg PortStat.discarded hstat
  case timeout =>
    intro r s hreq hfind
    obtain ⟨hfaults, haborted, honly⟩ := State.countAbort_fab (List.mem_of_find?_eq_some hfind)
    have hexec : doFaultAbortTimeout s = s.countAbort r := by
      unfold doFaultAbortTimeout
      rw [hfind]
      dsimp only
      unfold State.abortFault
      rw [hreq]
      rfl
    exact ⟨_, congrArg Host.Outcome.next hexec, hfaults, haborted, honly⟩
  case early =>
    intro s h
    refine congrArg Host.Outcome.next ?_
    unfold doFaultAbortTimeout
    rw [List.find?_eq_none.mpr fun x hx => ?_]
    obtain h | h | h := h x hx
    · simp [h]
    · simp [Nat.not_le.mpr h]
    · simp [h]

end Sys2Proof.Machine
end

section
/-!
The memory errors that are contained (R508, R509, R513), from which O29 follows.
-/
namespace Sys2Proof.Machine

section
variable {s : State} {code unit action detail : Nat}

/-- The entry of a happening made now, before it takes its seq. -/
def State.happening (s : State) (code unit action detail : Nat) : HealthRec :=
  { code := code, unit := unit, action := action, epoch := s.tbu.epoch, ns := s.now, detail := detail }

theorem State.health1_put (h : summarisedCodes.contains code = false) :
    s.health1 code unit action detail = s.healthPut (s.happening code unit action detail) := by
  unfold State.health1
  dsimp only
  rw [h]
  rfl

/-- A happening of a code that is not summarised is the log's last entry, with the next seq (R513). -/
theorem State.health1_log (h : summarisedCodes.contains code = false) :
    (s.health1 code unit action detail).health.log.getLast? =
        some { s.happening code unit action detail with seq := s.health.next } ∧
      (s.health1 code unit action detail).health.next = s.health.next + 1 := by
  rw [State.health1_put h]
  exact ⟨State.healthPut_getLast _ s, by rw [State.healthPut_health]⟩

end

/-- A happening whose code is neither summarised nor marked is in the health log and an event alone. -/
theorem State.health1_unmarked_only {s : State} {code : Nat} (hs : summarisedCodes.contains code = false)
    (hl : ledgerCodes.contains code = false) (unit action detail : Nat) :
    Only [.evc, .health] s (s.health1 code unit action detail) := by
  refine Only.drop (State.health1_moves ..).1 (p := .ledger) ?_
  rw [State.health1_put hs]
  exact State.healthPut_unmarked hl s

/-! ### The ring of Moraine (R313, R314) -/

theorem State.ringPut_prefix (key : List Byte) (e : Entry) (s : State) : s.ledger.ring <+: (s.ringPut key e).ledger.ring := by
  obtain h | h | ⟨-, h⟩ := s.ringPut_ledger key e
  · rw [h]
  · rw [h]; exact List.prefix_append _ _
  · rw [h]; exact List.prefix_append _ _

/-- A routine entry drops no entry that the ring holds: only a critical one makes room for itself (R317, R318). -/
theorem State.ledgerAdd_prefix {type : Nat} (hc : criticalTypes.contains type = false) (hs : type ≠ 0x01 ∧ type ≠ 0x02)
    (aux : Nat) (body : List Byte) (s : State) : s.ledger.ring <+: (s.ledgerAdd type aux body).ledger.ring := by
  have hcrit : (s.mkEntry type aux 0 body).critical = false := hc
  have hsum : (s.mkEntry type aux 0 body).summary = false := by
    simpa [Entry.summary, State.mkEntry] using hs
  have hqueue : s.ledger.ring <+: (s.enqueue (s.mkEntry type aux 0 body)).ledger.ring := by
    unfold State.enqueue
    rw [hcrit]
    split
    · exact List.prefix_rfl
    · split
      · exact List.prefix_rfl
      · exact List.prefix_rfl
  unfold State.ledgerAdd State.ledger1
  split
  · split
    · unfold State.ringAppend
      rw [hcrit, hsum]
      simp only [Bool.false_eq_true, if_false]
      split
      · exact List.prefix_rfl
      · exact State.ringPut_prefix _ _ s
    · exact hqueue
  · exact hqueue

theorem State.healthPut_prefix (r : HealthRec) (s : State) : s.ledger.ring <+: (s.healthPut r).ledger.ring := by
  unfold State.healthPut
  extract_lets s1
  have hledger : s1.ledger = s.ledger := by
    unfold s1
    rw [State.raise_ledger, State.modHealth_ledger]
  split
  · have hprefix := State.ledgerAdd_prefix (type := 0x80) (by decide) (by decide) r.code
      (leBytes 1 r.unit ++ leBytes 1 r.action ++ leBytes 8 r.detail) s1
    rwa [hledger] at hprefix
  · rw [hledger]

/-! ### The error's consumers (R508, R509) -/

theorem State.poisoned_of_mem {s : State} {a : Nat} (h : a / 8 ∈ s.fab.poison) : s.poisoned a 1 = true := by
  unfold State.poisoned
  refine List.any_eq_true.mpr ⟨a / 8, h, ?_⟩
  rw [Nat.add_sub_cancel]
  simp only [decide_eq_true (Nat.le_refl _), Bool.and_true]
  rfl

/-- The word that an uncorrectable error leaves poisoned. -/
def State.poisonWord (a : Nat) (s : State) : State :=
  s.modFab fun f => { f with poison := if f.poison.contains (a / 8) then f.poison else f.poison ++ [a / 8] }

theorem State.mem_poisonWord (a : Nat) (s : State) : a / 8 ∈ (s.poisonWord a).fab.poison := by
  unfold State.poisonWord
  dsimp only [State.modFab_fab]
  split
  case isTrue h => exact List.contains_iff_mem.mp h
  case isFalse => simp

/-- The word read by a host requester: it finds the poison itself. -/
theorem doUncorrectableWord_host {s : State} {a req sub ref : Nat} (ha : a < 0x800000) (hpd : s.pdOn 6 = true)
    (hreq : 0x12 ≤ req) : doUncorrectableWord a req sub ref s = (s.poisonWord a).health1 0x0011 req 0 a := by
  have hcipher : isCipher req = false := by
    unfold isCipher reqCipherRead reqCipherWrite
    rw [Bool.or_eq_false_iff, beq_eq_false_iff_ne, beq_eq_false_iff_ne]
    omega
  unfold doUncorrectableWord
  rw [if_neg (by rw [hpd]; unfold sramEnd; simp; omega)]
  dsimp only
  rw [if_neg (by omega), hcipher, if_neg Bool.false_ne_true, if_neg (by omega), if_neg (by omega)]
  rfl

theorem exec_mramUncorrectableLine {s : State} (hpd : s.pdOn 6 = true) (line : MramLine) (off : Nat) (both : Bool) :
    exec (.mramUncorrectableLine line off both) s = .next (doMramUncorrectableLine line off both s) :=
  congrArg Host.Outcome.next (if_pos hpd)

/-- A line of a structure in two copies, the other of which is good. -/
theorem doMramUncorrectableLine_copied {line : MramLine} {off : Nat} {s : State}
    (h : ∀ b, line ≠ .firmware b ∧ line ≠ .meton b ∧ line ≠ .moraine b) :
    doMramUncorrectableLine line off false s = (s.loseOne line).health1 0x0013 0 0 off := by
  cases line with
  | firmware b => exact absurd rfl (h b).1
  | meton b => exact absurd rfl (h b).2.1
  | moraine b => exact absurd rfl (h b).2.2
  | _ => rfl

/-- Only a partner record is read from a copy that may be the older. -/
theorem State.loseOne_other {line : MramLine} (h : ∀ i l, line ≠ .record i l) (s : State) : s.loseOne line = s := by
  cases line with
  | record i l => exact absurd rfl (h i l)
  | _ => rfl

/-- A Moraine entry that reads as it may. -/
def State.lostEntry (q : Nat) (s : State) : State :=
  (s.modLedger fun l => { l with ring := l.ring.map fun e => if e.seq = q then { e with body := s.freeBytes 24 } else e }).drawn

theorem State.lostEntry_ring (q : Nat) (s : State) : (s.lostEntry q).ledger.ring =
    s.ledger.ring.map fun e => if e.seq = q then { e with body := s.freeBytes 24 } else e := rfl

@[simp] theorem State.lostEntry_length (q : Nat) (s : State) : (s.lostEntry q).ledger.ring.length = s.ledger.ring.length :=
  List.length_map ..

theorem State.lostEntry_seqs (q : Nat) (s : State) : (s.lostEntry q).ledger.ring.map (·.seq) = s.ledger.ring.map (·.seq) := by
  rw [State.lostEntry_ring, List.map_map]
  refine List.map_congr_left fun e _ => ?_
  dsimp only [Function.comp]
  split <;> rfl

theorem State.mem_lostEntry {s : State} {q : Nat} {e : Entry} (he : e ∈ s.ledger.ring) (hq : e.seq ≠ q) :
    e ∈ (s.lostEntry q).ledger.ring := List.mem_map.mpr ⟨e, he, if_neg hq⟩

theorem State.lostEntry_only (q : Nat) (s : State) : Only [.ledger, .free] s (s.lostEntry q) := by
  intro p hp
  cases p with
  | ledger => exact absurd (by decide) hp
  | free => exact absurd (by decide) hp
  | _ => rfl

/-- Settles O29: each row by the structure that the error is in. -/
theorem memoryErrorsAreContained : Obligations.MemoryErrorsAreContained := by
  unfold Obligations.MemoryErrorsAreContained
  have hcode : ∀ (s u : State) (off : Nat), u.health = s.health →
      (u.health1 0x0013 0 0 off).health.next = s.health.next + 1 ∧
      ((u.health1 0x0013 0 0 off).health.log.getLast?.map fun r => (r.code, r.detail)) = some (0x0013, off) := by
    intro s u off hu
    obtain ⟨hlast, hnext⟩ := State.health1_log (s := u) (code := 0x0013) (unit := 0) (action := 0) (detail := off) (by decide)
    exact ⟨hnext.trans (by rw [hu]), by rw [hlast]; rfl⟩
  refine ⟨?word, ?copied, ?firmware, ?meton, ?moraine, ?gatedWord, fun line off both s h => congrArg Host.Outcome.next ?gatedLine⟩
  case word =>
    intro a req sub ref s ha hpd hreq
    have hexec := doUncorrectableWord_host (sub := sub) (ref := ref) ha hpd hreq
    have honly := State.health1_unmarked_only (s := s.poisonWord a) (code := 0x0011) (by decide) (by decide) req 0 a
    obtain ⟨hlast, hnext⟩ := State.health1_log (s := s.poisonWord a) (code := 0x0011) (unit := req) (action := 0) (detail := a)
      (by decide)
    refine ⟨_, congrArg Host.Outcome.next hexec, State.poisoned_of_mem ?_, honly .mem (by decide), by rw [hlast]; rfl, hnext,
      (Only.mono rfl (State.modFab_only s _)).trans (Only.mono rfl honly)⟩
    rw [show ((s.poisonWord a).health1 0x0011 req 0 a).fab = (s.poisonWord a).fab from honly .fab (by decide)]
    exact State.mem_poisonWord a s
  case copied =>
    intro line off s hpd hline
    have hlost := (State.loseOne_moves line s).1
    obtain ⟨hnext, hlast⟩ := hcode s (s.loseOne line) off (hlost .health (by decide))
    have hentry := (State.health1_moves 0x0013 0 0 off (s.loseOne line)).1
    refine ⟨_, (exec_mramUncorrectableLine hpd ..).trans (congrArg Host.Outcome.next (doMramUncorrectableLine_copied hline)), hnext,
      hlast, (hentry .mem (by decide)).trans (hlost .mem (by decide)), fun hrec => ?_,
      (Only.mono rfl hlost).trans (Only.mono rfl hentry)⟩
    refine (hentry .parts (by decide)).trans ?_
    rw [State.loseOne_other hrec]
  case firmware =>
    intro b off both s hpd hb
    have hentry := (State.health1_moves 0x0013 0 0 off (s.modFwBank b fun k => { k with refused := true })).1
    have hbanks : (((s.modFwBank b fun k => { k with refused := true }).health1 0x0013 0 0 off)).boot.fwBanks =
        s.boot.fwBanks.modify b fun k => { k with refused := true } := congrArg Boot.fwBanks (hentry .boot (by decide))
    refine ⟨_, exec_mramUncorrectableLine hpd .., ?_, fun k hk => ?_, hentry .mem (by decide),
      Only.trans (Only.mono rfl (State.modBoot_only s _)) (Only.mono rfl hentry)⟩
    · exact congrArg FwBank.refused ((congrArg (·.getD b {}) hbanks).trans (getD_modify_self _ _ hb))
    · exact (congrArg (·.getD k {}) hbanks).trans (getD_modify_ne _ _ hk)
  case meton =>
    intro b off both s hpd hb
    have hentry := (State.health1_moves 0x0013 0 0 off (s.modMetonBank b fun k => { k with bad := true, st := 4 })).1
    have hbanks : (((s.modMetonBank b fun k => { k with bad := true, st := 4 }).health1 0x0013 0 0 off)).boot.metonBanks =
        s.boot.metonBanks.modify b fun k => { k with bad := true, st := 4 } :=
      congrArg Boot.metonBanks (hentry .boot (by decide))
    have hself := (congrArg (·.getD b {}) hbanks).trans (getD_modify_self _ _ hb)
    refine ⟨_, exec_mramUncorrectableLine hpd .., congrArg MetonBank.bad hself, congrArg MetonBank.st hself, fun k hk => ?_,
      hentry .cfg (by decide), Only.trans (Only.mono rfl (State.modBoot_only s _)) (Only.mono rfl hentry)⟩
    exact (congrArg (·.getD k {}) hbanks).trans (getD_modify_ne _ _ hk)
  case moraine =>
    intro q off both s hpd
    have hentry := (State.health1_moves 0x0013 0 0 q (s.lostEntry q)).1
    obtain ⟨xs, hring⟩ : (s.lostEntry q).ledger.ring <+: ((s.lostEntry q).health1 0x0013 0 0 q).ledger.ring := by
      rw [State.health1_put (by decide)]
      exact State.healthPut_prefix _ _
    refine ⟨_, exec_mramUncorrectableLine hpd .., ?_, fun e he hq => ?_, (hcode s (s.lostEntry q) q rfl).2, ?_⟩
    · show ((((s.lostEntry q).health1 0x0013 0 0 q).ledger.ring).take _).map _ = _
      rw [← hring, List.take_append_of_le_length (by simp), List.take_of_length_le (by simp), State.lostEntry_seqs]
    · show e ∈ ((s.lostEntry q).health1 0x0013 0 0 q).ledger.ring
      rw [← hring]
      exact List.mem_append_left _ (State.mem_lostEntry he hq)
    · exact Only.trans (Only.mono rfl (State.lostEntry_only q s)) (Only.mono rfl hentry)
  case gatedWord =>
    intro a req sub ref s hpd
    exact congrArg Host.Outcome.next (if_pos (.inr hpd))
  case gatedLine => exact if_neg (by rw [h]; decide)

end Sys2Proof.Machine
end

section
/-!
The capture FIFOs (R363 to R365), the reads that pop and the pins (R351, R361), from which O20 follows.
-/
namespace Sys2Proof.Machine

section
variable {s : State} {n m k : Nat}

/-! ### The capture FIFOs -/

/-- The FIFOs after one of them is updated. -/
theorem State.capFifo_modify {t : State} {f : CapFifo → CapFifo} (h : t.tmr.caps = s.tmr.caps.modify n f)
    (hn : n < s.tmr.caps.length) : t.capFifo n = f (s.capFifo n) ∧ ∀ k, k ≠ n → t.capFifo k = s.capFifo k := by
  unfold State.capFifo
  rw [h]
  exact ⟨getD_modify_self f _ hn, fun k hk => getD_modify_ne f _ hk⟩

/-- A FIFO after an edge that is lost (R364). -/
def CapFifo.afterLoss (x : CapFifo) : CapFifo := { x with nextSeq := (x.nextSeq + 1) % 0x10000, lost := true }

/-- A FIFO after an edge that it stores (R363). -/
def CapFifo.afterStore (now : Nat) (e : CapEntry) (x : CapFifo) : CapFifo :=
  { x with nextSeq := (x.nextSeq + 1) % 0x10000, lost := false, lastStored := some now, fifo := x.fifo ++ [e] }

/-- The edge is lost: the FIFO holds four entries, or the last stored edge is too close (R364). -/
def State.edgeLost (s : State) (n : Nat) : Bool := decide (4 ≤ (s.capFifo n).fifo.length) || s.edgeClose n

theorem doCapEdge_ignored {up : Bool} (h : (s.capFifo n).edge.testBit (if up then 0 else 1) = false) : doCapEdge n up s = s := by
  unfold doCapEdge
  simp [h]

theorem doCapEdge_lost {up : Bool} (h : (s.capFifo n).edge.testBit (if up then 0 else 1) = true) (hl : s.edgeLost n = true) :
    doCapEdge n up s = (s.drawn.modCap n CapFifo.afterLoss).tmrEvt1 (8 + n) := by
  unfold doCapEdge
  dsimp only
  rw [h]
  exact if_pos hl

/-- The FIFOs and the event bit after an edge that is lost. -/
theorem doCapEdge_afterLoss {up : Bool} (hn : n < s.tmr.caps.length)
    (h : (s.capFifo n).edge.testBit (if up then 0 else 1) = true) (hl : s.edgeLost n = true) :
    (doCapEdge n up s).capFifo n = (s.capFifo n).afterLoss ∧ (n < 4 → (doCapEdge n up s).tmr.evt1.getLsbD (8 + n) = true) := by
  rw [doCapEdge_lost h hl]
  refine ⟨(State.capFifo_modify ?_ hn).1, fun h4 => State.tmrEvt1_sets _ (by omega)⟩
  rw [State.tmrEvt1_tmr]
  rfl

/-- The FIFOs and the event bit after an edge that is stored. -/
theorem doCapEdge_afterStore {up : Bool} (hn : n < s.tmr.caps.length)
    (h : (s.capFifo n).edge.testBit (if up then 0 else 1) = true) (hl : s.edgeLost n = false) :
    ((doCapEdge n up s).capFifo n =
        (s.capFifo n).afterStore s.now (s.edgeEntry (s.capFifo n).nextSeq (s.capFifo n).lost) ∧
      (∀ k, k ≠ n → (doCapEdge n up s).capFifo k = s.capFifo k)) ∧
      (n < 4 → (doCapEdge n up s).tmr.evt1.getLsbD (4 + n) = true) := by
  have hstore : doCapEdge n up s = (s.drawn.modCap n fun x =>
      x.afterStore s.now (s.edgeEntry x.nextSeq x.lost)).tmrEvt1 (4 + n) := by
    unfold doCapEdge
    dsimp only
    rw [h]
    exact if_neg fun hlost => Bool.false_ne_true (hl.symm.trans hlost)
  rw [hstore]
  refine ⟨State.capFifo_modify (f := fun x => x.afterStore s.now (s.edgeEntry x.nextSeq x.lost)) ?_ hn,
    fun h4 => State.tmrEvt1_sets _ (by omega)⟩
  rw [State.tmrEvt1_tmr]
  rfl

/-- An edge 100 ns or more after the last stored one, and off the reference beyond its step, is not too close (R364). -/
theorem State.edgeClose_far (h : ∀ t0, (s.capFifo n).lastStored = some t0 → t0 + 100 ≤ s.now ∧
    (s.tbu.src ≠ .reference → t0 + s.tbu.inc / 2 ^ 40 < s.now)) : s.edgeClose n = false := by
  unfold State.edgeClose
  split
  case h_1 t ht =>
    obtain ⟨hfar, hstep⟩ := h t ht
    split
    · exact decide_eq_false (by omega)
    case isFalse hsrc => rw [decide_eq_false (Nat.not_le.mpr (hstep hsrc)), Bool.false_and]
  case h_2 => rfl

theorem State.edgeClose_near {t0 : Nat} (hsrc : s.tbu.src = .reference) (ht : (s.capFifo n).lastStored = some t0)
    (h : s.now < t0 + 100) : s.edgeClose n = true := by
  unfold State.edgeClose
  rw [ht]
  dsimp only
  rw [if_pos hsrc, decide_eq_true h]

/-! ### The reads that pop (R357, R365) -/

theorem readCapLo_cons {e : CapEntry} {rest : List CapEntry} (r : Requester) (h : (s.capFifo n).fifo = e :: rest) :
    (readCapLo r n s).1 = word e.ns ∧
      (readCapLo r n s).2.tmr.caps = s.tmr.caps.modify n fun x => { x with fifo := rest } := by
  unfold readCapLo
  dsimp only
  rw [h]
  exact ⟨rfl, rfl⟩

theorem readCapLo_nil (r : Requester) (h : (s.capFifo n).fifo = []) :
    (readCapLo r n s).1 = 0 ∧ Only [.tbu] s (readCapLo r n s).2 := by
  unfold readCapLo
  dsimp only
  rw [h]
  dsimp only
  exact ⟨rfl, State.modTbu_only s _⟩

theorem readTmrCap_some {c : Word} {q : Nat} {o : Bool} (r : Requester) (h : (s.timer n).capEntry = some (c, q, o)) :
    (readTmrCap r n s).1 = c ∧
      (readTmrCap r n s).2.tmr.timers = s.tmr.timers.modify n (fun x => { x with capEntry := none }) ∧
      Only [.tbu, .tmr] s (readTmrCap r n s).2 := by
  unfold readTmrCap
  rw [h]
  dsimp only
  exact ⟨rfl, rfl, (Only.mono rfl (State.modTmr_only s _)).trans (Only.mono rfl (State.modTbu_only _ _))⟩

theorem readTmrCap_none (r : Requester) (h : (s.timer n).capEntry = none) :
    (readTmrCap r n s).1 = 0 ∧ Only [.tbu, .free] s (readTmrCap r n s).2 := by
  unfold readTmrCap
  rw [h]
  exact ⟨rfl, (Only.mono rfl (State.modTbu_only s _)).trans (Only.mono rfl (State.drawn_moves _).1)⟩

/-! ### The pins (R361) -/

/-- A capture FIFO is no trigger's selector (R351). -/
theorem State.unheard.modCap {code : Nat} (h : s.unheard code) (f : CapFifo → CapFifo) : (s.modCap n f).unheard code := h

theorem State.followed_pulseEnd (s : State) (p : CmpPin) : (s.followed p).pulseEnd = p.pulseEnd := by
  unfold State.followed; split <;> rfl

theorem State.followed_ctrl (s : State) (p : CmpPin) : (s.followed p).ctrl = p.ctrl := by
  unfold State.followed; split <;> rfl

/-- The level of a pin that was low before it follows its source. -/
theorem State.followed_level (s : State) (p : CmpPin) : (s.followed { p with level := false, pulseEnd := none }).level =
    (levelCode (fld p.ctrl 10 6) && s.sourceLevel (fld p.ctrl 10 6)) := by
  unfold State.followed
  cases levelCode (fld p.ctrl 10 6) <;> rfl

theorem State.followed_of_free {p : CmpPin} (h : levelCode (fld p.ctrl 10 6) = false) : s.followed p = p :=
  if_neg (by rw [h]; exact Bool.false_ne_true)

theorem State.followPin_sourceLevel (s : State) (m c : Nat) : (s.followPin m).sourceLevel c = s.sourceLevel c := by
  obtain h | h := s.followPin_cases m
  · rw [h]
  · rw [h]; rfl

theorem State.followPin_length (s : State) (m : Nat) : (s.followPin m).tmr.pins.length = s.tmr.pins.length := by
  obtain h | h := s.followPin_cases m
  · rw [h]
  · rw [h]; exact List.length_modify ..

theorem State.followPin_pin (hm : m < s.tmr.pins.length) : (s.followPin m).pin m = s.followed (s.pin m) := by
  unfold State.followPin State.followed
  split
  · exact getD_modify_self _ _ hm
  · rfl

theorem State.followPin_pin_ne (hk : k ≠ m) : (s.followPin m).pin k = s.pin k := by
  obtain h | h := s.followPin_cases m
  · rw [h]
  · rw [h]; exact getD_modify_ne _ _ hk

theorem foldl_followPin_pin {ms : List Nat} (hd : ms.Nodup) (hlen : ∀ m ∈ ms, m < s.tmr.pins.length) (k : Nat) :
    (ms.foldl State.followPin s).pin k = if k ∈ ms then s.followed (s.pin k) else s.pin k := by
  induction ms generalizing s with
  | nil => rfl
  | cons m ms ih =>
    obtain ⟨hm, hd⟩ := List.nodup_cons.mp hd
    have hfollowed : (s.followPin m).followed = s.followed := by
      funext p
      unfold State.followed
      rw [State.followPin_sourceLevel]
    rw [List.foldl_cons, ih hd fun x hx => (State.followPin_length s m).symm ▸ hlen x (by simp [hx]), hfollowed]
    by_cases hk : k = m
    · subst hk
      rw [if_neg hm, if_pos (by simp), State.followPin_pin (hlen k (by simp))]
    · rw [State.followPin_pin_ne hk]
      simp [hk]

/-- Each of the four pins as its source leaves it. -/
theorem State.followPins_pin (hlen : s.tmr.pins.length = 4) (k : Nat) :
    s.followPins.pin k = if k < 4 then s.followed (s.pin k) else s.pin k := by
  rw [State.followPins_eq, foldl_followPin_pin List.nodup_range fun m hm => by rw [hlen]; exact List.mem_range.mp hm]
  simp only [List.mem_range]

end

/-- Settles O20: each row by its branches. -/
theorem captureFifosKeepEdges : Obligations.CaptureFifosKeepEdges := by
  unfold Obligations.CaptureFifosKeepEdges
  refine ⟨?stored, ?lost, ?either, fun n up s h => congrArg Host.Outcome.next (doCapEdge_ignored h), ?readCap, ?readTmr, ?flush,
    ?level, ?pulse⟩
  case stored =>
    intro n up s hn hlen hsel hroom hfar
    have hkept : s.edgeLost n = false := by
      unfold State.edgeLost
      rw [State.edgeClose_far hfar, decide_eq_false (by omega), Bool.or_self]
    obtain ⟨⟨hself, hother⟩, hevt⟩ := doCapEdge_afterStore (by omega) hsel hkept
    refine ⟨doCapEdge n up s, rfl, ?_, ?_, ?_, hevt hn, hother, exec_only (c := .capEdge n up) rfl⟩ <;> rw [hself] <;> rfl
  case lost =>
    intro n up s hn hlen hsel hcase
    have hlost : s.edgeLost n = true := by
      unfold State.edgeLost
      obtain hfull | ⟨hsrc, t0, ht, hnear⟩ := hcase
      · rw [decide_eq_true hfull, Bool.true_or]
      · rw [State.edgeClose_near hsrc ht hnear, Bool.or_true]
    obtain ⟨hself, hevt⟩ := doCapEdge_afterLoss (by omega) hsel hlost
    refine ⟨doCapEdge n up s, rfl, ?_, ?_, ?_, hevt hn, exec_only (c := .capEdge n up) rfl⟩ <;> rw [hself] <;> rfl
  case either =>
    intro n up s hn hlen hsel
    refine ⟨doCapEdge n up s, rfl, ?_⟩
    cases hl : s.edgeLost n with
    | true =>
      rw [(doCapEdge_afterLoss (by omega) hsel hl).1]
      exact ⟨rfl, .inl ⟨rfl, rfl⟩⟩
    | false =>
      rw [(doCapEdge_afterStore (by omega) hsel hl).1.1]
      exact ⟨rfl, .inr ⟨rfl, rfl⟩⟩
  case readCap =>
    intro r n s hn hlen
    refine ⟨fun e rest hfifo => ?_, fun hfifo => ?_⟩
    · have hframe : Only [.tbu, .tmr, .mbx] s (State.answered (readCapLo r n s)) := exec_only (c := .capnLoRead r n) rfl
      refine ⟨State.answered (readCapLo r n s), rfl, ?_⟩
      obtain ⟨hword, hcaps⟩ := readCapLo_cons r hfifo
      have hself := (State.capFifo_modify (s := s) (t := State.answered (readCapLo r n s)) hcaps (by omega)).1
      exact ⟨hword, by rw [hself], by rw [hself], hframe⟩
    · obtain ⟨hword, honly⟩ := readCapLo_nil r hfifo
      exact ⟨_, rfl, hword, Only.mono rfl (State.answered_only _ honly)⟩
  case readTmr =>
    intro r n s hn hlen
    refine ⟨fun c q o hentry => ?_, fun hentry => ?_⟩
    · obtain ⟨hword, htimers, honly⟩ := readTmrCap_some r hentry
      refine ⟨State.answered (readTmrCap r n s), rfl, hword, ?_, Only.mono rfl (State.answered_only _ honly)⟩
      show (readTmrCap r n s).2.tmr.timers.getD n {} = _
      rw [htimers]
      exact getD_modify_self _ _ (by omega)
    · obtain ⟨hword, honly⟩ := readTmrCap_none r hentry
      exact ⟨_, rfl, hword, Only.mono rfl (State.answered_only _ honly)⟩
  case flush =>
    intro n s hn hlen
    obtain ⟨hself, hother⟩ := State.capFifo_modify (s := s) (t := s.capFlush n) (n := n) rfl (by omega)
    exact ⟨s.capFlush n, rfl, hself, hother, exec_only (c := .capFlush n) rfl⟩
  case level =>
    intro n l s hn hlen hunheard
    have hframe : Only [.tmr, .evc] s (doCapPinLevel n l s) := exec_only (c := .capPinLevelChange n l) rfl
    have hticks := s.ticksFirst_clocked
    have hquiet : doCapPinLevel n l s = (s.ticksFirst.modCap n fun x => { x with level := l }).followPins := by
      unfold doCapPinLevel
      dsimp only
      split
      · refine State.settle_unheard fun e he => ?_
        rw [List.mem_singleton.mp he]
        exact ((hunheard.clocked hticks).modCap _).clocked (State.followPins_clocked _)
      · rfl
    refine ⟨doCapPinLevel n l s, rfl, ?_, fun hdue => ?_, hframe⟩
    · refine (State.capFifo_modify (s := s) (n := n) (f := fun x => { x with level := l }) ?_ (by omega)).1
      rw [hquiet, (State.followPins_clocked _).caps, ← hticks.caps]
      rfl
    · rw [hquiet, State.followPins_timers, State.ticksFirst_of_none_due hdue]
      rfl
  case pulse =>
    intro p t0 s hp hlen hend hdue
    have hexec : doPinPulseEnd p s = (s.modPin p fun x => { x with level := false, pulseEnd := none }).followPins := by
      unfold doPinPulseEnd
      rw [hend]
      exact if_pos hdue
    have hended : (s.modPin p fun x => { x with level := false, pulseEnd := none }).pin p =
        { s.pin p with level := false, pulseEnd := none } := getD_modify_self _ _ (by omega)
    have hpins := State.followPins_pin (s := s.modPin p fun x => { x with level := false, pulseEnd := none })
      ((List.length_modify ..).trans hlen)
    have hpin := (hpins p).trans (if_pos hp)
    rw [hended] at hpin
    have hframe : Only [.tmr] s (doPinPulseEnd p s) := exec_only (c := .pinPulseEnd p) rfl
    rw [hexec] at hframe
    refine ⟨_, congrArg Host.Outcome.next hexec, ?_, ?_, ?_, fun k hk hlevel => ?_, hframe⟩
    · rw [hpin]; exact State.followed_pulseEnd ..
    · rw [hpin]; exact State.followed_ctrl ..
    · rw [hpin, State.followed_level]
      rfl
    · have hkept : (s.modPin p fun x => { x with level := false, pulseEnd := none }).pin k = s.pin k := getD_modify_ne _ _ hk
      rw [hpins, hkept, State.followed_of_free hlevel, ite_self]

end Sys2Proof.Machine
end

section
/-!
The host's SPI frames (R417 to R423), from which O32 follows.
-/
namespace Sys2Proof.Machine

/-! ### Numbers as bytes (R6, R417) -/

theorem leNat_leBytes_of_lt {n v : Nat} (h : v < 256 ^ n) : leNat (leBytes n v) = v := by
  induction n generalizing v with
  | zero => exact (Nat.lt_one_iff.mp h).symm
  | succ n ih =>
    have hhigh : v / 256 < 256 ^ n := (Nat.div_lt_iff_lt_mul (by decide)).mpr (by rwa [Nat.pow_succ] at h)
    show (BitVec.ofNat 8 v).toNat + 256 * leNat (leBytes n (v / 256)) = v
    rw [ih hhigh, BitVec.toNat_ofNat]
    omega

theorem beNat_beBytes {n v : Nat} (h : v < 256 ^ n) : beNat (beBytes n v) = v := by
  unfold beNat beBytes
  rw [List.reverse_reverse, leNat_leBytes_of_lt h]

theorem beBytes_size (n v : Nat) : (beBytes n v).length = n := by
  unfold beBytes
  rw [List.length_reverse, Aes.leBytes_len]

theorem beNat_beBytes_word (w : Word) : word (beNat (beBytes 4 w.toNat)) = w := by
  rw [beNat_beBytes w.isLt]
  exact BitVec.ofNat_toNat ..

/-! ### Frames as they are read -/

/-- A run of bytes that its CRC ends checks (R419). -/
theorem crcOk_append_crc (bs : List Byte) : crcOk (bs ++ beBytes 2 (crc16 bs)) = true := by
  have hcrc : crc16 bs < 256 ^ 2 := BitVec.isLt _
  unfold crcOk
  simp [beBytes_size, beNat_beBytes hcrc]

/-- The opcode, the device address and the address that begin a frame. -/
def frameHead (op dev a : Nat) : List Byte := beBytes 1 op ++ beBytes 1 dev ++ beBytes 3 a

section
variable {op dev a : Nat} {tail : List Byte} {w : Word}

theorem frameHead_op (hop : op < 256) : uAt (frameHead op dev a ++ tail) 0 1 = op := by
  show (BitVec.ofNat 8 op).toNat + 256 * 0 = op
  rw [BitVec.toNat_ofNat]
  omega

theorem frameHead_dev (hdev : dev < 256) : uAt (frameHead op dev a ++ tail) 1 1 = dev := by
  show (BitVec.ofNat 8 dev).toNat + 256 * 0 = dev
  rw [BitVec.toNat_ofNat]
  omega

theorem frameHead_addr (ha : a < 0x1000000) : beNat (slice (frameHead op dev a ++ tail) 2 3) = a :=
  beNat_beBytes (n := 3) ha

theorem State.spiMine_frame {s : State} (hop : op < 256) (hserved : s.hostServed = true) (hdev : s.mbx.devAddr < 256) :
    s.spiMine op (frameHead op s.mbx.devAddr a ++ tail) = true := by
  unfold State.spiMine
  rw [hserved, frameHead_op hop, frameHead_dev hdev]
  simp

/-! ### A WRITE of one word -/

theorem writeFrame_single : ∃ crc, writeFrame dev a [w] = frameHead 2 dev a ++ (beBytes 4 w.toNat ++ beBytes 2 crc) := by
  refine ⟨crc16 (beBytes 1 0x02 ++ beBytes 1 dev ++ beBytes 3 a ++ beBytesOf [w]), ?_⟩
  unfold writeFrame frameHead beBytesOf
  simp only [List.flatMap_cons, List.flatMap_nil, List.append_nil, List.append_assoc]

theorem crcOk_writeFrame (dev a : Nat) (ws : List Word) : crcOk (writeFrame dev a ws) = true := crcOk_append_crc _

/-- The words that a WRITE of one word carries. -/
theorem beWords_single (crc : Nat) :
    beWords ((((frameHead op dev a ++ (beBytes 4 w.toNat ++ beBytes 2 crc))).take 9).drop 5) = [w] :=
  congrArg (fun x => [x]) (beNat_beBytes_word w)

/-- An aligned word's address keeps the format (R420). -/
theorem formatBad_word (ha : a < 0x200000) (h4 : a % 4 = 0) : formatBad a 1 = false := by
  have hend : ¬0x200000 < a + 4 * 1 := by omega
  have hblock : ¬0x10000 < a % 0x10000 + 4 * 1 := by omega
  have hbase : ¬0x200000 ≤ a := by omega
  unfold formatBad
  rw [decide_eq_false hend, decide_eq_false hblock, decide_eq_false hbase, h4, ite_self]
  rfl

theorem State.accessStatus_word {s : State} (ha : a < 0x200000) (h4 : a % 4 = 0) :
    s.accessStatus a 1 = if s.pdOn (addrDomain a) then accDone else accAsleep := by
  unfold State.accessStatus
  rw [formatBad_word ha h4]
  rfl

/-- What a WRITE of one word does, by the power of its block. -/
theorem doSpiWriteFrame_word {s : State} (hserved : s.hostServed = true) (hdev : s.mbx.devAddr < 256) (ha : a < 0x200000)
    (h4 : a % 4 = 0) : doSpiWriteFrame (writeFrame s.mbx.devAddr a [w]) s =
      if s.pdOn (addrDomain a) then (writeReg .spi a w s).drive [0] else (s.spiRefused accAsleep).drive [3] := by
  have hcrc := crcOk_writeFrame s.mbx.devAddr a [w]
  obtain ⟨crc, hframe⟩ := writeFrame_single (dev := s.mbx.devAddr) (a := a) (w := w)
  rw [hframe] at hcrc ⊢
  have hmine : s.spiMine 0x02 (frameHead 2 s.mbx.devAddr a ++ (beBytes 4 w.toNat ++ beBytes 2 crc)) = true :=
    State.spiMine_frame (by decide) hserved hdev
  have hlen : (frameHead 2 s.mbx.devAddr a ++ (beBytes 4 w.toNat ++ beBytes 2 crc)).length = 11 := rfl
  have haddr : beNat (slice (frameHead 2 s.mbx.devAddr a ++ (beBytes 4 w.toNat ++ beBytes 2 crc)) 2 3) = a :=
    frameHead_addr (by omega)
  unfold doSpiWriteFrame
  rw [hmine, hlen, haddr, hcrc, beWords_single]
  rw [if_neg (by decide)]
  dsimp only
  rw [if_pos rfl, show [w].length = 1 from rfl, State.accessStatus_word ha h4]
  cases s.pdOn (addrDomain a) <;> rfl

/-! ### A READ of one word of IDH -/

/-- The request of a READ frame: all of it before the wait bytes. -/
def readRequest (dev a : Nat) : List Byte :=
  frameHead 3 dev a ++ (beBytes 1 1 ++ beBytes 2 (crc16 (frameHead 3 dev a ++ beBytes 1 1)))

theorem readFrame_single (dev a waits : Nat) : readFrame dev a 1 waits = readRequest dev a ++ zeros waits := by
  unfold readFrame readRequest frameHead
  simp only [List.append_assoc]

theorem crcOk_readRequest (dev a : Nat) : crcOk (readRequest dev a) = true := by
  unfold readRequest
  rw [← List.append_assoc]
  exact crcOk_append_crc _

theorem readReg_idh (r : Requester) (s : State) (ha : a < 0x10000) : readReg r a s = (readIdh a s, s) := by
  have hblock : a / 0x10000 = 0 := Nat.div_eq_of_lt ha
  have hapart : inAperture a = false := by
    unfold inAperture
    rw [decide_eq_false (by omega), Bool.false_and]
  unfold readReg
  rw [hapart, hblock, Nat.mod_eq_of_lt ha]
  rfl

/-- The reply to a READ of one word (R419). -/
theorem readReply_single (dev a waits : Nat) (w : Word) : readReply (readFrame dev a 1 waits) accDone [w] =
    [0] ++ beBytes 4 w.toNat ++
      beBytes 2 (crc16 (beBytes 1 dev ++ beBytes 3 a ++ beBytes 1 1 ++ [0] ++ beBytes 4 w.toNat)) := by
  have hsent : leBytes 1 accDone ++ beBytesOf [w] = [0] ++ beBytes 4 w.toNat := by
    simp only [beBytesOf, List.flatMap_cons, List.flatMap_nil, List.append_nil]
    rfl
  have hrequest : ((readFrame dev a 1 waits).drop 1).take 5 = beBytes 1 dev ++ beBytes 3 a ++ beBytes 1 1 := rfl
  unfold readReply
  dsimp only
  rw [hsent, hrequest, if_pos rfl, ← List.append_assoc _ [0]]

/-- What a READ of one word of IDH drives. -/
theorem doSpiReadFrame_idh {s : State} (hserved : s.hostServed = true) (hdev : s.mbx.devAddr < 256) (ha : a < 0x10000)
    (h4 : a % 4 = 0) (hpd : s.pdOn 0 = true) :
    doSpiReadFrame (readFrame s.mbx.devAddr a 1 s.mbx.rdWait) s =
      s.drive (readReply (readFrame s.mbx.devAddr a 1 s.mbx.rdWait) accDone [readIdh a s]) := by
  rw [readFrame_single]
  have hmine : s.spiMine 0x03 (readRequest s.mbx.devAddr a ++ zeros s.mbx.rdWait) = true := by
    unfold readRequest
    rw [List.append_assoc]
    exact State.spiMine_frame (by decide) hserved hdev
  have haddr : beNat (slice (readRequest s.mbx.devAddr a ++ zeros s.mbx.rdWait) 2 3) = a := by
    unfold readRequest
    rw [List.append_assoc]
    exact frameHead_addr (by omega)
  have hcount : uAt (readRequest s.mbx.devAddr a ++ zeros s.mbx.rdWait) 5 1 = 1 := rfl
  have hlen : (readRequest s.mbx.devAddr a ++ zeros s.mbx.rdWait).length = 8 + s.mbx.rdWait := by
    rw [List.length_append, zeros, List.length_replicate]
    rfl
  have htake : (readRequest s.mbx.devAddr a ++ zeros s.mbx.rdWait).take 8 = readRequest s.mbx.devAddr a :=
    List.take_left' rfl
  have hdomain : addrDomain a = 0 := by
    unfold addrDomain inAperture
    rw [decide_eq_false (show ¬0x100000 ≤ a by omega), Nat.div_eq_of_lt ha]
    rfl
  unfold doSpiReadFrame
  rw [hmine, haddr, hcount, htake, crcOk_readRequest, hlen, decide_eq_false (Nat.lt_irrefl _), if_neg (by decide)]
  dsimp only
  rw [if_pos rfl, State.accessStatus_word (by omega) h4, hdomain, hpd, if_pos rfl, if_pos rfl]
  unfold readRange
  rw [readReg_idh .spi s ha]
  rfl

end

/-- Settles O32: a WRITE and a READ by their frames' fields, the frames refused and those of another device by their branches. -/
theorem spiFramesReachTheRegisters : Obligations.SpiFramesReachTheRegisters := by
  unfold Obligations.SpiFramesReachTheRegisters
  refine ⟨?write, ?read, ?crc, ?asleep, ?otherWrite, ?otherRead⟩
  case write =>
    intro a w s hserved hdev ha h4 hpd
    exact congrArg Host.Outcome.next ((doSpiWriteFrame_word hserved hdev ha h4).trans (if_pos hpd))
  case read =>
    intro a s hserved hdev ha h4 hpd
    have hexec := doSpiReadFrame_idh hserved hdev ha h4 hpd
    refine ⟨_, congrArg Host.Outcome.next hexec, ?_, rfl, rfl, State.modMbx_only s _⟩
    exact readReply_single s.mbx.devAddr a s.mbx.rdWait (readIdh a s)
  case crc =>
    intro bs s hmine hlen hmod hcrc
    have hexec : doSpiWriteFrame bs s = (s.spiRefused accCrc).drive [1] := by
      unfold doSpiWriteFrame
      rw [hmine, hcrc, hmod, decide_eq_false (Nat.not_lt.mpr hlen), if_neg (by decide)]
      rfl
    have hevent := State.raise_moves 0 8 (s.modMbx fun m => { m with spiCrc := satAdd 0xFFFF m.spiCrc 1 })
    refine ⟨_, congrArg Host.Outcome.next hexec, rfl, congrArg Mbx.spiCrc (hevent.1 .mbx (by decide)), ?_⟩
    exact ((Only.mono rfl (State.modMbx_only s _)).trans (Only.mono rfl hevent.1)).trans
      (Only.mono rfl (State.modMbx_only (s.spiRefused accCrc) _))
  case asleep =>
    intro a w s hserved hdev ha h4 hpd
    have hexec := (doSpiWriteFrame_word (w := w) hserved hdev ha h4).trans (if_neg (by rw [hpd]; decide))
    have hwake := State.wakeSource_moves 0x09 (s.modMbx fun m => { m with spiOther := satAdd 0xFFFF m.spiOther 1 })
    refine ⟨_, congrArg Host.Outcome.next hexec, rfl, ?_⟩
    exact ⟨hwake.1 .tbu (by decide), hwake.1 .tmr (by decide), hwake.1 .boot (by decide), hwake.1 .mem (by decide),
      hwake.1 .crypt (by decide)⟩
  case otherWrite =>
    intro bs s h
    have hexec : doSpiWriteFrame bs s = s.drive [] := by
      refine if_pos ?_
      obtain h | h | h := h <;> simp [h]
    exact ⟨_, congrArg Host.Outcome.next hexec, rfl, State.modMbx_only s _⟩
  case otherRead =>
    intro bs s h
    have hexec : doSpiReadFrame bs s = s.drive [] := by
      refine if_pos ?_
      obtain h | h := h <;> simp [h]
    exact ⟨_, congrArg Host.Outcome.next hexec, rfl, State.modMbx_only s _⟩

end Sys2Proof.Machine
end

section
/-!
How a boot ends (R258, R507, R540 to R542, R562), from which O11 follows.
-/
namespace Sys2Proof.Machine

section
variable {s : State} {r : BootReport} {fw : Nat}

/-! ### The tests and their outcomes (R258, R507, R562) -/

theorem State.bootTests_waits (h : ((List.range 4).filter (s.bootPairs r.pairOk).pairUp).length < 2) :
    s.bootTests r = (s.bootPairs r.pairOk).modBoot fun b => { b with phase := .selfTestWait, testNs := s.now } := if_pos h

theorem State.bootTests_cipherFailed (h : 2 ≤ ((List.range 4).filter (s.bootPairs r.pairOk).pairUp).length)
    (hc : r.cipherOk = false) : s.bootTests r = (s.bootPairs r.pairOk).recoveryReset 3 := by
  unfold State.bootTests
  dsimp only
  rw [if_neg (Nat.not_lt.mpr h), hc]
  rfl

theorem State.bootTests_chosen (h : 2 ≤ ((List.range 4).filter (s.bootPairs r.pairOk).pairUp).length)
    (hc : r.cipherOk = true) (ht : s.testCurrent = false) : s.bootTests r = (s.bootPairs r.pairOk).bootChosen r := by
  have ht' : (s.bootPairs r.pairOk).testCurrent = false := ht
  unfold State.bootTests
  dsimp only
  rw [if_neg (Nat.not_lt.mpr h), hc, ht']
  rfl

/-- A recovery reset's record (R12, R515). -/
theorem State.recoveryReset_boot (code : Nat) (s : State) : (s.recoveryReset code).boot.phase = .inReset ∧
    (s.recoveryReset code).boot.resetCause = 3 ∧ (s.recoveryReset code).boot.pendingRecovery = some code := by
  unfold State.recoveryReset State.systemReset
  rw [State.clearVolatile_boot, State.flushItems_boot]
  exact ⟨rfl, rfl, rfl⟩

/-! ### The bank chosen (R541) -/

theorem State.bootChosen_none (h : s.bootBank.1 = none) : s.bootChosen r =
    (s.bootBank.2.modBoot fun b => { b with phase := .bankless }).modMbx fun m => { m with ready := true } := by
  unfold State.bootChosen
  split
  case h_1 s1 hb => rw [hb]
  case h_2 fw s1 hb => rw [hb] at h; cases h

theorem State.bootChosen_some (h : s.bootBank.1 = some fw) : s.bootChosen r =
    if r.stalls then
      (s.bootBank.2.modBoot fun b => { b with tried := b.tried ++ [fw] }).modBoot fun b => { b with phase := .stalled }
    else (s.bootBank.2.modBoot fun b => { b with tried := b.tried ++ [fw] }).bootRun fw r := by
  unfold State.bootChosen
  split
  case h_1 s1 hb => rw [hb] at h; cases h
  case h_2 fw' s1 hb =>
    rw [hb] at h
    obtain rfl : fw' = fw := Option.some.inj h
    rw [hb]

/-- Step 8 leaves the device running with the bank's firmware. -/
theorem State.bootReady_boot (fw : Nat) (s : State) :
    (s.bootReady fw).boot.phase = .running ∧ (s.bootReady fw).boot.fwRunning = fw := by
  have hready : ∀ u : State, u.radioOff.boot = u.boot := fun u => (State.radioOff_moves u).1 .boot (by decide)
  have hraise : ∀ u : State, (u.raise 14 5).boot = u.boot := fun u => (State.raise_moves 14 5 u).1 .boot (by decide)
  unfold State.bootReady
  extract_lets s1 s2 s3 s4
  have hboot : s4.boot = s2.boot := hready s2
  split
  · rw [hraise, hboot]; exact ⟨rfl, rfl⟩
  · rw [hboot]; exact ⟨rfl, rfl⟩

/-- What the roles take up after it leaves the boot's own record. -/
theorem State.bootRun_boot (fw : Nat) (r : BootReport) (s : State) :
    (s.bootRun fw r).boot.phase = .running ∧ (s.bootRun fw r).boot.fwRunning = fw := by
  have htaken : ∀ u : State, ((u.requestDiagnostics.requestCheck []).rebudget).evalDecision.boot = u.boot := fun u =>
    ((State.evalDecision_moves _).1 .boot (by decide)).trans <| ((State.rebudget_moves _).1 .boot (by decide)).trans <|
      ((State.requestCheck_moves [] _).1 .boot (by decide)).trans ((State.requestDiagnostics_moves u).1 .boot (by decide))
  unfold State.bootRun
  dsimp only
  rw [htaken]
  exact State.bootReady_boot fw _

/-! ### The confirmation of a trial (R542) -/

theorem doTrialConfirmation_due {k : Nat} (hk : s.boot.fwTrial = some k) (hp : s.boot.phase = .running)
    (hr : s.boot.fwRunning = k) (hn : s.boot.readyNs + 60000000000 ≤ s.now) :
    (doTrialConfirmation s).boot.fwActive = k ∧ (doTrialConfirmation s).boot.fwTrial = none ∧
      (doTrialConfirmation s).boot.trialCount = 0 ∧
      (doTrialConfirmation s).boot.fwFloor = max s.boot.fwFloor (s.fwBank k).version := by
  have hentry : ∀ (aux : Nat) (body : List Byte) (u : State), (u.ledgerAdd 0x71 aux body).boot = u.boot := fun aux body u =>
    (State.ledgerAdd_moves 0x71 aux body u).1 .boot (by decide)
  unfold doTrialConfirmation
  rw [hk]
  dsimp only
  rw [if_neg (by simp [hp, hr, hn]), hentry]
  exact ⟨rfl, rfl, rfl, rfl⟩

end

/-- Settles O11: the ways into the tests by their guards, the tests' outcomes by their branches. -/
theorem bootRunsItsSteps : Obligations.BootRunsItsSteps := by
  unfold Obligations.BootRunsItsSteps
  refine ⟨fun r s u => ⟨?release, ?retry, ?monitor⟩, fun r s => ⟨fun h => ?waits, fun h => ⟨fun hc => ?cipher, fun hc ht => ?bank⟩⟩,
    fun k s hk hp hr hn => ?trial⟩
  case release =>
    rintro ⟨hphase, hline, htest, rfl⟩
    refine (resetRelease_answers (.inr (.inr htest))).trans (congrArg Host.Outcome.next (if_neg ?_))
    simp [hphase, hline]
  case retry => exact fun h => congrArg Host.Outcome.next (if_pos h)
  case monitor =>
    rintro ⟨hphase, hdue, rfl⟩
    exact congrArg Host.Outcome.next (if_pos ⟨hphase, hdue⟩)
  case waits =>
    rw [State.bootTests_waits h]
    exact ⟨rfl, rfl⟩
  case cipher =>
    rw [State.bootTests_cipherFailed h hc]
    exact State.recoveryReset_boot 3 _
  case bank =>
    rw [State.bootTests_chosen h hc ht]
    refine ⟨fun hnone => ?_, fun fw hfw => ⟨fun hstalls => ?_, fun hstalls => ?_⟩⟩
    · rw [State.bootChosen_none hnone]
      exact ⟨rfl, rfl⟩
    · rw [State.bootChosen_some hfw, if_pos hstalls]
      rfl
    · rw [State.bootChosen_some hfw, hstalls, if_neg Bool.false_ne_true]
      exact State.bootRun_boot fw r _
  case trial =>
    obtain ⟨hactive, htrial, hcount, hfloor⟩ := doTrialConfirmation_due hk hp hr hn
    exact ⟨doTrialConfirmation s, rfl, hactive, htrial, hcount, hfloor, exec_only (c := .trialConfirmation) rfl⟩

end Sys2Proof.Machine
end

section
/-!
Uplinks, MKA and IPv6 answers (R457, R464 to R466, R481): what a link change, an MKA PDU, the end of a peer's life and an answered
frame leave.
-/
namespace Sys2Proof.Machine

theorem State.modNet_only (s : State) (f : Net → Net) : Only [.net] s (s.modNet f) := by
  intro p hp
  cases p with
  | net => exact absurd (List.mem_singleton.mpr rfl) hp
  | _ => rfl

section
variable {s : State} {port : Nat}

/-! ### Port statistics (R468) -/

theorem State.modStat_self {f : PortStat → PortStat} (h : port < s.net.stats.length) :
    (s.modStat port f).net.stats.getD port {} = f (s.net.stats.getD port {}) := getD_modify_self f {} h

/-! ### Link changes (R457, R481) -/

/-- The parts that the entry of a link change leaves: the statistics go to the health log alone. -/
theorem State.enterStatistics_raise_only (g k : Nat) (s : State) :
    Only [.health, .evc, .free] s (s.raise g k).enterStatistics := by
  have hall : Only [.health, .evc, .free, .ledger] s (s.raise g k).enterStatistics :=
    ((State.raise_moves g k s).1.mono (by decide)).trans ((State.enterStatistics_moves _).1.mono (by decide))
  refine hall.drop (p := .ledger) ?_ (by decide)
  exact (s.raise g k).enterStatistics_entries.1.trans ((State.raise_moves g k s).1.part .ledger (by decide))

/-- The links once one has come up, with the role that an uplink takes. -/
def State.linkRaised (port : Nat) (s : State) : State :=
  s.drawn.modNet fun n =>
    { n with
      linkUp := n.linkUp.set port true, linkLost := n.linkLost.set port none
      master := if port < 2 then n.master.set port (s.takesMaster port) else n.master }

/-- The links once one has gone down: a forced role ends, and the link-down event is counted. -/
def State.linkDropped (port : Nat) (s : State) : State :=
  (s.drawn.modNet fun n =>
    { n with
      linkUp := n.linkUp.set port false, linkLost := n.linkLost.set port (some s.now)
      forced := n.forced.set port false }).modStat port fun x => { x with down := satAdd 0xFFFFFFFF x.down 1 }

theorem doLinkChange_same {up : Bool} (h : s.net.linkUp.getD port up = up ∨ (up = true ∧ s.phyOn port = false)) :
    doLinkChange port up s = s := by
  refine if_pos ?_
  rcases h with h | ⟨rfl, h⟩
  · rw [h, beq_self_eq_true]
    rfl
  · rw [h]
    simp

theorem doLinkChange_up (h : s.net.linkUp.getD port true ≠ true) (hphy : s.phyOn port = true) :
    doLinkChange port true s = ((s.linkRaised port).raise 13 port).enterStatistics := by
  unfold doLinkChange
  rw [if_neg (by simpa [hphy] using h)]
  simp [State.linkRaised]

theorem doLinkChange_down (h : s.net.linkUp.getD port false ≠ false) :
    doLinkChange port false s = ((s.linkDropped port).raise 13 port).enterStatistics := by
  unfold doLinkChange
  rw [if_neg (by simpa using h)]
  rfl

theorem State.linkRaised_only (port : Nat) (s : State) : Only [.net, .free] s (s.linkRaised port) :=
  ((State.drawn_moves s).1.mono (by decide)).trans ((State.modNet_only _ _).mono (by decide))

theorem State.linkDropped_only (port : Nat) (s : State) : Only [.net, .free] s (s.linkDropped port) :=
  (((State.drawn_moves s).1.mono (by decide)).trans ((State.modNet_only _ _).mono (by decide))).trans
    ((State.modStat_moves _ _ _).1.mono (by decide))

/-- What the event and the entries of a link change leave of the state that it made of the links. -/
theorem linkEntries {t : State} (hnet : Only [.net, .free] s t) (port : Nat) :
    (t.raise 13 port).enterStatistics.net = t.net ∧ (t.raise 13 port).enterStatistics.crypt = s.crypt ∧
      (t.raise 13 port).enterStatistics.health.next = s.health.next + 6 ∧
      Only [.net, .health, .evc, .free] s (t.raise 13 port).enterStatistics := by
  have honly := State.enterStatistics_raise_only 13 port t
  refine ⟨honly.part .net (by decide), ?_, ?_, (hnet.mono (by decide)).trans (honly.mono (by decide))⟩
  · exact (honly.part .crypt (by decide)).trans (hnet.part .crypt (by decide))
  · rw [(State.enterStatistics_entries _).2.1, (State.raise_moves 13 port t).1.part .health (by decide)]
    exact congrArg (·.next + 6) (hnet.part .health (by decide))

/-! ### The roles of an uplink and its MKA PDUs (R457, R465) -/

theorem doAutonegTimeout_same (h : 2 ≤ port ∨ s.portOn port = false ∨ s.net.linkUp.getD port false = true ∨
    s.cfgN recNetwork (fieldNo (4 + port) 1) ≠ 2) : doAutonegTimeout port s = s := by
  refine if_neg ?_
  rcases h with h | h | h | h
  · simp [Nat.not_lt.mpr h]
  · simp [h]
  · rw [h]; simp
  · simp [h]

theorem doMkaHello_same (h : 2 ≤ port ∨ s.portOn port = false ∨ s.net.linkUp.getD port false = false ∨
    s.hasCak port = false) : doMkaHello port s = s := by
  refine if_neg ?_
  rcases h with h | h | h | h
  · simp [Nat.not_lt.mpr h]
  · simp [h]
  · rw [h]; simp
  · simp [h]

/-! ### MKA (R465, R481) -/

theorem State.modNet_sa (s : State) (f : Net → Net) (c : Nat) : (s.modNet f).sa c = s.sa c := rfl

section
variable {sci priority num : Nat} {ack : Bool}

/-- A peer of a port is live, heard now. -/
def State.heardPeer (port sci priority : Nat) (s : State) : State :=
  s.modNet fun n =>
    { n with peers := n.peers.modify port fun ps => (sci, priority, s.now) :: ps.filter fun p => p.1 != sci }

/-- The live peers of a port after a PDU of one of them. -/
theorem State.peersOf_heardPeer (hp : port < s.net.peers.length) :
    (s.heardPeer port sci priority).peersOf port = (sci, priority, s.now) :: (s.peersOf port).filter fun p => p.1 != sci :=
  getD_modify_self _ [] hp

/-- What a PDU says, with no SAK and no report. -/
theorem State.mkaHeard_none (h : (ack && s.net.sakChange.getD port false) = false) :
    s.mkaHeard port sci priority num ack none =
      if ((s.peersOf port).any fun p => p.1 == sci) = true then s.heardPeer port sci priority
      else (s.heardPeer port sci priority).renewSak port := by
  have hs : ¬(ack && (s.heardPeer port sci priority).net.sakChange.getD port false) = true := by
    rw [show (s.heardPeer port sci priority).net.sakChange = s.net.sakChange from rfl, h]
    exact Bool.false_ne_true
  unfold State.mkaHeard
  exact congrArg (fun u : State => if ((s.peersOf port).any fun p => p.1 == sci) = true then u else u.renewSak port) (if_neg hs)

/-- A live peer's report that it receives with the SAK distributed completes the change. -/
theorem State.mkaHeard_ack (hknown : ((s.peersOf port).any fun p => p.1 == sci) = true)
    (h : s.net.sakChange.getD port false = true) :
    s.mkaHeard port sci priority num true none = (s.heardPeer port sci priority).useSak port (s.portAn port + 1) num
      (s.sa (rxChannel port (s.portAn port + 1))) := by
  unfold State.mkaHeard
  rw [if_pos hknown]
  exact if_pos (by rw [Bool.true_and]; exact h)

/-- A live peer that is key server distributes a SAK. -/
theorem State.mkaHeard_sak {an suite : Nat} {wrapped key : List Byte}
    (hknown : ((s.peersOf port).any fun p => p.1 == sci) = true) (hkey : s.unwrapSak num wrapped = some key)
    (hserver : (s.heardPeer port sci priority).keyServer port = false) :
    s.mkaHeard port sci priority num ack (some (an, suite, wrapped)) =
      (s.heardPeer port sci priority).takeSak port an suite num key := by
  have hkey' : (s.heardPeer port sci priority).unwrapSak num wrapped = some key := hkey
  unfold State.mkaHeard
  rw [if_pos hknown]
  change (match (s.heardPeer port sci priority).unwrapSak num wrapped with
    | some key => if (s.heardPeer port sci priority).keyServer port then s.heardPeer port sci priority
        else (s.heardPeer port sci priority).takeSak port an suite num key
    | none => s.heardPeer port sci priority) = _
  rw [hkey', hserver]
  rfl

/-- What the completion of a SAK change leaves of the associations and the port. -/
theorem State.useSak_port {a : Sa} {an : Nat} (hsa : txChannel port an < s.crypt.sas.length) (han : port < s.net.an.length)
    (hchange : port < s.net.sakChange.length) :
    (s.useSak port an num a).sa (txChannel port an) = newSa a.key a.suite ∧ (s.useSak port an num a).portAn port = an % 4 ∧
      (s.useSak port an num a).net.sakChange.getD port false = false ∧ (s.useSak port an num a).net.cakNum = num := by
  unfold State.useSak
  have hraise := fun u : State => (State.raise_moves 13 8 u).1
  unfold State.sa State.portAn
  rw [(hraise _).part .crypt (by decide), (hraise _).part .net (by decide)]
  exact ⟨getD_modify_self _ _ hsa, getD_set_self _ _ han, getD_set_self _ _ hchange, rfl⟩

/-- The other associations stay as they are. -/
theorem State.useSak_sa_ne {a : Sa} {an c : Nat} (h : c ≠ txChannel port an) :
    (s.useSak port an num a).sa c = s.sa c := by
  unfold State.useSak State.sa
  rw [(State.raise_moves 13 8 _).1.part .crypt (by decide)]
  exact getD_modify_ne _ _ h

/-- A SAK that is taken receives and sends with the association number that came with it. -/
theorem State.takeSak_port {an suite : Nat} {key : List Byte} (hrx : rxChannel port an < s.crypt.sas.length)
    (htx : txChannel port an < s.crypt.sas.length) (han : port < s.net.an.length) (hchange : port < s.net.sakChange.length) :
    (s.takeSak port an suite num key).sa (rxChannel port an) = newSa key suite ∧
      (s.takeSak port an suite num key).sa (txChannel port an) = newSa key suite ∧
      (s.takeSak port an suite num key).portAn port = an % 4 ∧ (s.takeSak port an suite num key).net.cakNum = num ∧
      (s.takeSak port an suite num key).net.sakChange.getD port false = false := by
  have hne : rxChannel port an ≠ txChannel port an := by unfold rxChannel txChannel; omega
  have htx' : txChannel port an < (s.modSa (rxChannel port an) fun _ => newSa key suite).crypt.sas.length := by
    simpa [State.modSa] using htx
  obtain ⟨hsa, hport, hdone, hnum⟩ := State.useSak_port (num := num) (a := newSa key suite) htx' han hchange
  refine ⟨?_, hsa, hport, hnum, hdone⟩
  exact (State.useSak_sa_ne hne).trans (getD_modify_self _ _ hrx)

/-- A new SAK that the key server draws receives with the next association number, and the change is pending. -/
theorem State.renewSak_draws (hserver : s.keyServer port = true) (hlive : s.peersOf port ≠ []) (hcak : s.hasCak port = true)
    (hchange : s.net.sakChange.getD port false = false) : s.renewSak port = s.drawSak port := by
  unfold State.renewSak
  rw [hserver, hcak, hchange]
  exact if_pos (by simpa using hlive)

theorem State.drawSak_port (hsa : rxChannel port (s.portAn port + 1) < s.crypt.sas.length)
    (hchange : port < s.net.sakChange.length) :
    (s.drawSak port).net.sakChange.getD port false = true ∧ (s.drawSak port).portAn port = s.portAn port ∧
      ((s.drawSak port).sa (rxChannel port (s.portAn port + 1))).installed = true ∧
      ((s.drawSak port).sa (rxChannel port (s.portAn port + 1))).next = 1 := by
  have hrx : (s.drawSak port).sa (rxChannel port (s.portAn port + 1)) = newSa (s.freeBytes
      (if s.cfgN recNetwork (fieldNo (4 + port) 5) % 2 = 0 then 16 else 32)) (s.cfgN recNetwork (fieldNo (4 + port) 5)) :=
    getD_modify_self _ _ hsa
  rw [hrx]
  exact ⟨getD_set_self _ _ hchange, rfl, rfl, rfl⟩

theorem State.renewSak_peers (port : Nat) (s : State) : (s.renewSak port).net.peers = s.net.peers := by
  unfold State.renewSak
  split <;> rfl

end

/-! ### The end of a peer's life -/

/-- The associations of a port. -/
def State.endSas (port : Nat) (s : State) : State :=
  (List.range 4).foldl (fun (t : State) k => t.modSa (4 * port + k) fun _ => {}) s

theorem State.modSa_ended (s : State) (c d : Nat) (h : d = c ∨ s.sa d = {}) : (s.modSa c fun _ => {}).sa d = {} := by
  by_cases hd : d = c
  · subst hd
    by_cases hlt : d < s.crypt.sas.length
    · exact getD_modify_self _ _ hlt
    · exact List.getD_eq_default _ _ (by simpa [State.modSa] using hlt)
  · exact (getD_modify_ne _ _ hd).trans (h.resolve_left hd)

theorem foldl_modSa_ended (ks : List Nat) (c d : Nat) (s : State) (h : (∃ k ∈ ks, d = c + k) ∨ s.sa d = {}) :
    (ks.foldl (fun (t : State) k => t.modSa (c + k) fun _ => {}) s).sa d = {} := by
  induction ks generalizing s with
  | nil => exact h.resolve_left (by simp)
  | cons k ks ih =>
    refine ih _ ?_
    rcases h with ⟨j, hj, rfl⟩ | h
    · rcases List.mem_cons.mp hj with rfl | hj
      · exact .inr (s.modSa_ended _ _ (.inl rfl))
      · exact .inl ⟨j, hj, rfl⟩
    · exact .inr (s.modSa_ended _ _ (.inr h))

theorem State.endSas_sa {k : Nat} (hk : k < 4) : (s.endSas port).sa (4 * port + k) = {} :=
  foldl_modSa_ended _ _ _ s (.inl ⟨k, List.mem_range.mpr hk, rfl⟩)

theorem State.endSas_only (port : Nat) (s : State) : Only [.crypt] s (s.endSas port) :=
  (Moves.foldl (.refl _ s) fun t _ ht => ht.trans (t.modSa_moves _ _)).1

theorem State.endSas_net (port : Nat) (s : State) : (s.endSas port).net = s.net := (s.endSas_only port).part .net (by decide)

/-- The peers that were heard within 6 s. -/
def State.livePeers (s : State) (port : Nat) : List (Nat × Nat × Nat) :=
  (s.peersOf port).filter fun p => decide (s.now < p.2.2 + 6000000000)

/-- The peers not heard for 6 s leave. -/
def State.keepLive (port : Nat) (s : State) : State := s.modNet fun n => { n with peers := n.peers.set port (s.livePeers port) }

theorem doMkaLifeExpiry_eq (port : Nat) (s : State) : doMkaLifeExpiry port s =
    if (decide (port < 2) && (s.livePeers port).length != (s.peersOf port).length) = true then
      (if (s.livePeers port).isEmpty = true then
        ((s.keepLive port).endSas port).modNet fun n => { n with sakChange := n.sakChange.set port false }
      else (s.keepLive port).renewSak port)
    else s := rfl

theorem doMkaLifeExpiry_same (h : 2 ≤ port ∨ (s.livePeers port).length = (s.peersOf port).length) :
    doMkaLifeExpiry port s = s := by
  rw [doMkaLifeExpiry_eq, if_neg]
  rcases h with h | h
  · rw [decide_eq_false (Nat.not_lt.mpr h), Bool.false_and]
    exact Bool.false_ne_true
  · simp [h]

theorem doMkaLifeExpiry_lost (hp : port < 2) (h : (s.livePeers port).length ≠ (s.peersOf port).length) :
    doMkaLifeExpiry port s =
      if s.livePeers port = [] then
        ((s.keepLive port).endSas port).modNet fun n => { n with sakChange := n.sakChange.set port false }
      else (s.keepLive port).renewSak port := by
  rw [doMkaLifeExpiry_eq, if_pos (by simp [hp, h])]
  simp only [List.isEmpty_iff]

/-- Where a peer leaves, the port holds a list of peers. -/
theorem State.peersOf_keepLive (h : (s.livePeers port).length ≠ (s.peersOf port).length) :
    (s.keepLive port).peersOf port = s.livePeers port := by
  refine getD_set_self _ [] ?_
  by_contra hlt
  have hnone : s.peersOf port = [] := List.getD_eq_default _ _ (Nat.not_lt.mp hlt)
  exact h (by rw [State.livePeers, hnone]; rfl)

theorem doMkaLifeExpiry_peers (hp : port < 2) (h : (s.livePeers port).length ≠ (s.peersOf port).length) :
    (doMkaLifeExpiry port s).peersOf port = s.livePeers port := by
  rw [← State.peersOf_keepLive h, doMkaLifeExpiry_lost hp h]
  split
  · unfold State.peersOf
    rw [State.modNet_net, State.endSas_net]
  · exact congrArg (List.getD · port []) (State.renewSak_peers port _)

theorem getD_set_false (port : Nat) (xs : List Bool) : (xs.set port false).getD port false = false := by
  by_cases h : port < xs.length
  · exact getD_set_self _ _ h
  · exact List.getD_eq_default _ _ (by simpa using h)

/-! ### Frames answered (R466) -/

theorem State.answer_same {prot : Bool} {reply : List Byte} (h : s.portOn port = false) : s.answer port prot reply = s :=
  if_pos (by rw [h]; rfl)

theorem State.answer_taken {prot : Bool} {reply : List Byte} (h : s.portOn port = true) (ht : s.takes port prot = true)
    (hlen : port < s.net.stats.length) :
    ((s.answer port prot reply).net.stats.getD port {}).rx = satAdd 0xFFFFFFFF (s.net.stats.getD port {}).rx 1 ∧
      ((s.answer port prot reply).net.stats.getD port {}).tx = satAdd 0xFFFFFFFF (s.net.stats.getD port {}).tx 1 ∧
      (s.answer port prot reply).net.txFrames = reply :: s.net.txFrames := by
  have hsent : s.answer port prot reply = (s.rxFrame port).txFrame port reply := by
    unfold State.answer
    rw [h, ht]
    rfl
  have hstat : ((s.answer port prot reply).net.stats.getD port {}) = { (s.net.stats.getD port {}) with
      rx := satAdd 0xFFFFFFFF (s.net.stats.getD port {}).rx 1, tx := satAdd 0xFFFFFFFF (s.net.stats.getD port {}).tx 1 } := by
    rw [hsent]
    refine (State.modStat_self (s := s.rxFrame port) (by simpa [State.rxFrame, State.modStat] using hlen)).trans ?_
    rw [State.rxFrame, State.modStat_self hlen]
  rw [hstat, hsent]
  exact ⟨rfl, rfl, rfl⟩

theorem State.answer_discarded {prot : Bool} {reply : List Byte} (h : s.portOn port = true) (ht : s.takes port prot = false)
    (hlen : port < s.net.stats.length) :
    ((s.answer port prot reply).net.stats.getD port {}).discarded =
        satAdd 0xFFFFFFFF (s.net.stats.getD port {}).discarded 1 ∧
      (s.answer port prot reply).net.txFrames = s.net.txFrames := by
  have hdropped : s.answer port prot reply = (s.rxFrame port).dropFrame port := by
    unfold State.answer
    rw [h, ht]
    rfl
  rw [hdropped]
  refine ⟨?_, rfl⟩
  rw [State.dropFrame, State.modStat_self (by simpa [State.rxFrame, State.modStat] using hlen), State.rxFrame,
    State.modStat_self hlen]

theorem State.lt_six_of_portOn (h : s.portOn port = true) : port < 6 := by
  unfold State.portOn State.phyOn at h
  simp only [Bool.and_eq_true, decide_eq_true_eq] at h
  exact h.1.1.1

end

end Sys2Proof.Machine
end

section
/-!
Segment nodes (R459 to R463): a node's standing, the CHALLENGE that it is sent, and what its ANNOUNCE, RESPONSE and DATA frames
leave.
-/
namespace Sys2Proof.Machine

section
variable {s t : State} {code : Nat}

/-! ### A node's standing -/

theorem State.node_of_nodes (h : t.net.nodes = s.net.nodes) (c : Nat) : t.node c = s.node c := by
  unfold State.node
  rw [h]

theorem State.node_attach (s : State) (code : Nat) : (s.node code).attach = code := by
  unfold State.node
  cases h : s.net.nodes.find? fun n => n.attach == code with
  | none => rfl
  | some n => simpa using List.find?_some h

theorem State.node_putNode (n : NodeSess) (s : State) : (s.putNode n).node n.attach = n := by
  unfold State.node State.putNode
  simp

theorem State.node_putNode_ne {n : NodeSess} {c : Nat} (h : c ≠ n.attach) : (s.putNode n).node c = s.node c := by
  unfold State.node State.putNode
  rw [State.modNet_net]
  dsimp only
  rw [List.find?_cons_of_neg (by simpa using h.symm), List.find?_filter]
  congr 2
  funext y
  by_cases hy : y.attach = c
  · simp [hy, h]
  · simp [hy]

/-- The nodes of a state that holds those of another with one node stored. -/
theorem State.nodes_of_putNode {n : NodeSess} (hn : n.attach = code) (h : t.net.nodes = (s.putNode n).net.nodes) :
    t.node code = n ∧ ∀ d, d ≠ code → t.node d = s.node d := by
  subst hn
  exact ⟨(State.node_of_nodes h _).trans (State.node_putNode n s),
    fun d hd => (State.node_of_nodes h d).trans (State.node_putNode_ne hd)⟩

/-! ### The CHALLENGE (R462) -/

section
variable (code ident : Nat) (b : Binding) (expected enrolling : Bool) (s : State)

theorem State.challengeNode_node : (s.challengeNode code ident b expected enrolling).node code =
    { s.node code with
      identity := ident, challenge := some (s.freeVal % 2 ^ 96, s.now), cbind := some b, expected := expected
      enrolling := enrolling, lastCheck := if expected then s.now else (s.node code).lastCheck } := by
  have hput := State.node_putNode
    { s.node code with
      identity := ident, challenge := some (s.freeVal % 2 ^ 96, s.now), cbind := some b, expected := expected
      enrolling := enrolling, lastCheck := if expected then s.now else (s.node code).lastCheck } s
  rw [s.node_attach code] at hput
  exact hput

theorem State.challengeNode_node_ne {d : Nat} (h : d ≠ code) :
    (s.challengeNode code ident b expected enrolling).node d = s.node d :=
  State.node_putNode_ne (by rwa [← s.node_attach code] at h)

theorem challengeNode_txFrames : (s.challengeNode code ident b expected enrolling).net.txFrames =
    challengeFrame code (s.freeVal % 2 ^ 96) :: s.net.txFrames := rfl

end

/-! ### Lockouts before a frame is read (R61) -/

theorem State.nodeLocked_frame {ident : Nat} {locked : Bool} {u : State} (h : s.nodeLocked code ident = (locked, u)) :
    Moves [.evc, .parts, .ledger] s u := by
  have hm := State.nodeLocked_moves code ident s
  rwa [h] at hm

/-! ### ANNOUNCE (R462) -/

section
variable {seg node ident : Nat} {frame : List Byte} {u : State} {r : PartRec}

/-- What a node's well-formed ANNOUNCE does once the lockouts of its code and identity are evaluated. -/
def State.readAnnounce (seg node ident : Nat) (frame : List Byte) (locked : Bool) (u : State) : State :=
  if locked then u
  else
    match u.rec? ident with
    | some r =>
      if r.state = .candidate then u.metIdentity 3 (nodeCode seg node) ident
      else if r.kind = 3 ∧ r.attach = nodeCode seg node then
        (if u.crypt.sealed then u.holdFrame 0x01 seg frame u.now else u.announced (nodeCode seg node) r frame)
      else u
    | none => u.metIdentity 3 (nodeCode seg node) ident

theorem State.nodeAnnounce_read {locked : Bool} (hhead : nodeHeader 1 frame = some (node, ident)) (hlen : frame.length = 24)
    (hq : s.nodeLocked (nodeCode seg node) ident = (locked, u)) :
    s.nodeAnnounce seg frame = u.readAnnounce seg node ident frame locked := by
  unfold State.nodeAnnounce
  rw [hhead]
  dsimp only
  rw [if_neg (not_not.mpr hlen), hq]
  rfl

/-- An ANNOUNCE that calls for no CHALLENGE changes no more than the table of partners, and what a counted change enters. -/
theorem State.nodeAnnounce_unanswered {locked : Bool} (hhead : nodeHeader 1 frame = some (node, ident))
    (hlen : frame.length = 24) (hq : s.nodeLocked (nodeCode seg node) ident = (locked, u))
    (h : locked = true ∨ u.rec? ident = none ∨
      ∃ r, u.rec? ident = some r ∧ (r.state = .candidate ∨ r.kind ≠ 3 ∨ r.attach ≠ nodeCode seg node)) :
    Moves [.evc, .parts, .ledger] s (s.nodeAnnounce seg frame) := by
  have hu := State.nodeLocked_frame hq
  have hmet := hu.trans (u.metIdentity_moves 3 (nodeCode seg node) ident)
  rw [State.nodeAnnounce_read hhead hlen hq, State.readAnnounce]
  refine .ite (fun _ => hu) fun hlocked => ?_
  rcases h.resolve_left hlocked with h | ⟨r, h, hr⟩
  · rw [h]; exact hmet
  · rw [h]
    refine .ite (fun _ => hmet) fun hc => .ite (fun hk => ?_) fun _ => hu
    exact absurd hr (by simp [hc, hk])

/-- An ANNOUNCE of a known node is answered, or waits for the unseal. -/
theorem State.nodeAnnounce_known (hhead : nodeHeader 1 frame = some (node, ident)) (hlen : frame.length = 24)
    (hq : s.nodeLocked (nodeCode seg node) ident = (false, u)) (hr : u.rec? ident = some r) (hc : r.state ≠ .candidate)
    (hk : r.kind = 3) (ha : r.attach = nodeCode seg node) :
    s.nodeAnnounce seg frame =
      if u.crypt.sealed then u.holdFrame 0x01 seg frame u.now else u.announced (nodeCode seg node) r frame := by
  rw [State.nodeAnnounce_read hhead hlen hq, State.readAnnounce, hr]
  dsimp only
  rw [if_neg Bool.false_ne_true, if_neg hc, if_pos ⟨hk, ha⟩]

theorem State.announced_verified {key : List Byte} (hkey : s.partnerKey r 0x0301 128 = some key)
    (h : nodeMac key (frame.take 16) = slice frame 16 8) : s.announced code r frame = s.challengeRec code r false := by
  unfold State.announced
  rw [hkey]
  exact if_pos h

theorem State.announced_failed {key : List Byte} (hkey : s.partnerKey r 0x0301 128 = some key)
    (h : nodeMac key (frame.take 16) ≠ slice frame 16 8) :
    s.announced code r frame = s.countFailure 3 1 r.identity (some code) := by
  unfold State.announced
  rw [hkey]
  exact if_neg h

end

/-! ### RESPONSE (R462, R463) -/

section
variable {seg node ident at_ c t0 : Nat} {frame key : List Byte}

/-- A RESPONSE to no open CHALLENGE, or one that comes too late, changes nothing. -/
theorem State.nodeResponse_same (hhead : nodeHeader 3 frame = some (node, ident))
    (h : (s.node (nodeCode seg node)).challenge = none ∨
      ∃ c t0, (s.node (nodeCode seg node)).challenge = some (c, t0) ∧ t0 + 10000000 < at_) :
    s.nodeResponse seg frame at_ = s := by
  unfold State.nodeResponse
  rw [hhead]
  dsimp only
  rcases h with h | ⟨c, t0, h, hlate⟩
  · rw [h]
  · rw [h]
    exact if_pos (.inr (.inl hlate))

/-- A RESPONSE in time is checked under the key of its CHALLENGE. -/
theorem State.nodeResponse_checked (hhead : nodeHeader 3 frame = some (node, ident))
    (hopen : (s.node (nodeCode seg node)).challenge = some (c, t0)) (htime : at_ ≤ t0 + 10000000)
    (hident : (s.node (nodeCode seg node)).identity = ident) (hlen : frame.length = 20) (hseal : s.crypt.sealed = false)
    (hkey : s.nodeKey (s.node (nodeCode seg node)) = some key) :
    s.nodeResponse seg frame at_ =
      if nodeMac key (beBytes 12 c ++ frame.take 12) = slice frame 12 8 then s.nodeVerified (s.node (nodeCode seg node))
      else (s.challengeOver { s.node (nodeCode seg node) with enrolling := false }).countFailure 3 3 ident
        (some (nodeCode seg node)) := by
  unfold State.nodeResponse
  rw [hhead]
  dsimp only
  rw [hopen]
  dsimp only
  rw [if_neg (by simp [hident, hlen, htime]), hseal, if_neg Bool.false_ne_true, hkey, s.node_attach]

end

/-- A verified exchange leaves the same table of partners whatever else the state holds. -/
theorem State.verifiedExchange_parts (hparts : t.parts = s.parts) (htbu : t.tbu = s.tbu) (ident : Nat) :
    (t.verifiedExchange ident).parts = (s.verifiedExchange ident).parts := by
  have hchange : ∀ (i : Nat) (old new : PartRec) (u : State), (u.changeRec i old new).parts =
      (if new.state = .free then u.dropRec i else u.writeRec i new).parts :=
    fun i old new u => (State.noteChange_moves old new _).1.part .parts (by decide)
  unfold State.verifiedExchange State.recAt
  rw [hparts]
  split
  · unfold State.now
    rw [htbu]
    split
    · rw [hchange, hchange]
      simp [State.writeRec, hparts]
    · simp [State.writeRec, hparts]
  · exact hparts

/-- A node whose RESPONSE verified. -/
def NodeSess.verified (n : NodeSess) : NodeSess :=
  { n with challenge := none, cbind := none, opened := true, bind := n.cbind, seq := 0, enrolling := false, expected := false }

theorem State.nodeVerified_eq {n : NodeSess} (h : n.enrolling = false) :
    s.nodeVerified n = ((s.putNode n.verified).dropBinding n.bind).verifiedExchange n.identity := by
  unfold State.nodeVerified
  dsimp only
  rw [h, if_neg Bool.false_ne_true]
  rfl

theorem State.nodeVerified_moves_known {n : NodeSess} (h : n.enrolling = false) :
    Only [.net, .parts, .ledger, .evc, .keys] s (s.nodeVerified n) := by
  rw [State.nodeVerified_eq h]
  exact (((State.putNode_moves _ _).1.mono (by decide)).trans ((State.dropBinding_moves _ _).1.mono (by decide))).trans
    ((State.verifiedExchange_moves _ _).1.mono (by decide))

/-- A RESPONSE of a known node leaves the nodes as its session is opened, and counts as a verified exchange. -/
theorem State.nodeVerified_known {n : NodeSess} (h : n.enrolling = false) :
    (s.nodeVerified n).net = (s.putNode n.verified).net ∧
      (s.nodeVerified n).parts = (s.verifiedExchange n.identity).parts := by
  have hdrop := (State.dropBinding_moves n.bind (s.putNode n.verified)).1
  have hnet : ((s.putNode n.verified).dropBinding n.bind).net = (s.putNode n.verified).net := hdrop.part .net (by decide)
  have hparts : ((s.putNode n.verified).dropBinding n.bind).parts = s.parts := hdrop.part .parts (by decide)
  have htbu : ((s.putNode n.verified).dropBinding n.bind).tbu = s.tbu := hdrop.part .tbu (by decide)
  have hverified : ∀ u : State, (u.verifiedExchange n.identity).net = u.net := fun u =>
    (State.verifiedExchange_moves n.identity u).1.part .net (by decide)
  rw [State.nodeVerified_eq h]
  exact ⟨(hverified _).trans hnet, State.verifiedExchange_parts hparts htbu _⟩

/-- A node whose challenge is over. -/
def NodeSess.over (n : NodeSess) : NodeSess := { n with challenge := none, cbind := none }

theorem State.challengeOver_net (n : NodeSess) (s : State) : (s.challengeOver n).net = (s.putNode n.over).net := by
  have hdrop : ((s.putNode n.over).dropBinding n.cbind).net = (s.putNode n.over).net :=
    (State.dropBinding_moves n.cbind (s.putNode n.over)).1.part .net (by decide)
  have hmiss : ∀ u : State, (u.missedCheck n.identity).net = u.net := fun u =>
    (State.missedCheck_moves n.identity u).1.part .net (by decide)
  unfold State.challengeOver
  dsimp only
  rw [apply_ite State.net, hmiss, ite_self]
  exact hdrop

theorem State.challengeOver_unexpected {n : NodeSess} (h : n.expected = false) :
    Only [.net, .keys] s (s.challengeOver n) := by
  unfold State.challengeOver
  rw [h]
  exact ((State.putNode_moves _ _).1.mono (by decide)).trans ((State.dropBinding_moves _ _).1.mono (by decide))

/-! ### DATA (R463) -/

theorem State.boundKey_of_keys (h : t.keys = s.keys) (ident : Nat) (b : Binding) : t.boundKey ident b = s.boundKey ident b := by
  unfold State.boundKey State.rootAt State.slot
  rw [h]

section
variable {n : NodeSess} {frame key : List Byte}

theorem State.nodeData_failed (hkey : (n.bind.bind fun b => s.boundKey n.identity b) = some key)
    (h : nodeMac key (frame.take (frame.length - 8)) ≠ frame.drop (frame.length - 8)) :
    s.nodeData n frame = s.countFailure 3 0x10 n.identity (some n.attach) := by
  unfold State.nodeData
  rw [hkey]
  exact if_pos h

theorem State.nodeData_replayed (hkey : (n.bind.bind fun b => s.boundKey n.identity b) = some key)
    (h : nodeMac key (frame.take (frame.length - 8)) = frame.drop (frame.length - 8)) (hseq : uAt frame 12 4 ≤ n.seq) :
    s.nodeData n frame = s.modStat (nodePort n.attach) fun x => { x with replay := satAdd 0xFFFFFFFF x.replay 1 } := by
  unfold State.nodeData
  rw [hkey]
  exact (if_neg (not_not.mpr h)).trans (if_pos hseq)

theorem State.nodeData_taken (hkey : (n.bind.bind fun b => s.boundKey n.identity b) = some key)
    (h : nodeMac key (frame.take (frame.length - 8)) = frame.drop (frame.length - 8)) (hseq : n.seq < uAt frame 12 4) :
    s.nodeData n frame = (s.putNode { n with seq := uAt frame 12 4 }).modNet fun x =>
      { x with dataOut := (n.attach, (frame.take (frame.length - 8)).drop 16) :: x.dataOut } := by
  unfold State.nodeData
  rw [hkey]
  exact (if_neg (not_not.mpr h)).trans (if_neg (Nat.not_le.mpr hseq))

end

section
variable {seg node ident : Nat} {frame : List Byte} {u : State} {r : PartRec} {locked : Bool}

/-- DATA of a node without a session is dropped once the lockouts are evaluated. -/
theorem State.nodeDataFrame_closed (hhead : nodeHeader 16 frame = some (node, ident))
    (hq : s.nodeLocked (nodeCode seg node) ident = (locked, u)) (h : (s.node (nodeCode seg node)).opened = false) :
    s.nodeDataFrame seg frame = u := by
  unfold State.nodeDataFrame
  rw [hhead]
  dsimp only
  rw [hq, h]
  exact if_pos rfl

/-- DATA of a node with a session is read under its key. -/
theorem State.nodeDataFrame_read (hhead : nodeHeader 16 frame = some (node, ident)) (hmin : 24 ≤ frame.length)
    (hmax : frame.length ≤ 1484) (hq : s.nodeLocked (nodeCode seg node) ident = (false, u))
    (h : (s.node (nodeCode seg node)).opened = true) (hident : (s.node (nodeCode seg node)).identity = ident)
    (hr : u.rec? ident = some r) (hk : r.kind = 3) (ha : r.attach = nodeCode seg node) (he : r.state = .enrolled)
    (hseal : u.crypt.sealed = false) :
    s.nodeDataFrame seg frame = u.nodeData (s.node (nodeCode seg node)) frame := by
  unfold State.nodeDataFrame
  rw [hhead]
  dsimp only
  rw [hq]
  dsimp only
  rw [hr]
  dsimp only
  rw [if_neg (by simp [h, hident, hk, ha, he, hmin, hmax]), hseal]
  exact if_neg Bool.false_ne_true

end

end

end Sys2Proof.Machine
end

section
/-!
Links, MKA, IPv6 answers and segment nodes together, from which O55 follows.
-/
namespace Sys2Proof.Machine

section
variable {s t u : State} {port seg node ident : Nat} {frame : List Byte} {locked : Bool} {r : PartRec}

theorem State.freeVal_of_free (h : t.free = s.free) : t.freeVal = s.freeVal := congrArg Config.freeNat h

theorem State.now_of_tbu (h : t.tbu = s.tbu) : t.now = s.now := congrArg (·.ns.toNat) h

/-- A frame that is received and read under the lockouts of its node leaves the rest of the state to its effect. -/
theorem State.nodeLocked_rxFrame {code : Nat} (h : (s.rxFrame port).nodeLocked code ident = (locked, u)) :
    Only [.net, .parts, .ledger, .evc] s u ∧ u.net = (s.rxFrame port).net := by
  have hu := (State.nodeLocked_frame h).1
  exact ⟨((State.rxFrame_moves port s).1.mono (by decide)).trans (hu.mono (by decide)), hu.part .net (by decide)⟩

/-- A received frame counts on its port; the nodes and the frames held, sent and accepted stay as they are. -/
theorem net_of_rxFrame (h : u.net = (s.rxFrame port).net) : u.net.nodes = s.net.nodes ∧
    u.net.sealedFrames = s.net.sealedFrames ∧ u.net.txFrames = s.net.txFrames ∧ u.net.dataOut = s.net.dataOut := by
  rw [h]
  exact ⟨rfl, rfl, rfl, rfl⟩

/-- An installation entry leaves the ports and segments. -/
theorem State.installEntry_frame (s : State) :
    s.installEntry.net = s.net ∧ Only [.ledger, .evc, .free] s s.installEntry :=
  have h := (State.installEntry_moves s).1
  ⟨h.part .net (by decide), h.mono (by decide)⟩

theorem doDuplicateAddressDetected_first (hp : port < 2) (hon : s.portOn port = true)
    (hoff : s.net.mgmtOff.getD port false = false) : doDuplicateAddressDetected port s =
      (s.modNet fun n => { n with mgmtOff := n.mgmtOff.set port true }).installEntry :=
  if_pos (by rw [hon, hoff]; simp [hp])

theorem doDuplicateAddressDetected_same (h : 2 ≤ port ∨ s.portOn port = false ∨ s.net.mgmtOff.getD port false = true) :
    doDuplicateAddressDetected port s = s := by
  refine if_neg ?_
  rcases h with h | h | h
  · simp [Nat.not_lt.mpr h]
  · simp [h]
  · rw [h]; simp

theorem doNodeIdClash_first (hon : s.segOn seg = true)
    (h : ∀ t0, s.net.clash.getD seg none = some t0 → t0 + 10000000000 ≤ s.now) : doNodeIdClash seg s =
      ((s.modNet fun n => { n with clash := n.clash.set seg (some s.now) }).installEntry).raise 13 10 := by
  unfold doNodeIdClash
  dsimp only
  split
  case h_1 t0 ht => exact if_pos (by simp [hon, h t0 ht])
  case h_2 => exact if_pos (by simp [hon])

theorem doNodeIdClash_same (h : s.segOn seg = false ∨ ∃ t0, s.net.clash.getD seg none = some t0 ∧ s.now < t0 + 10000000000) :
    doNodeIdClash seg s = s := by
  unfold doNodeIdClash
  dsimp only
  rcases h with h | ⟨t0, ht, hsoon⟩
  · rw [h, Bool.false_and]
    exact if_neg Bool.false_ne_true
  · rw [ht]
    exact if_neg (by simp [hsoon])

/-- The CHALLENGE that follows the evaluation of a node's lockouts. -/
theorem challengeNode_drawn (code ident : Nat) (b : Binding) (expected enrolling : Bool) (hfree : u.free = s.free)
    (htbu : u.tbu = s.tbu) :
    ((u.challengeNode code ident b expected enrolling).node code).challenge = some (s.freeVal % 2 ^ 96, s.now) ∧
      ((u.challengeNode code ident b expected enrolling).node code).identity = ident ∧
      ((u.challengeNode code ident b expected enrolling).node code).expected = expected ∧
      (u.challengeNode code ident b expected enrolling).net.txFrames =
        challengeFrame code (s.freeVal % 2 ^ 96) :: u.net.txFrames ∧
      (u.challengeNode code ident b expected enrolling).parts = u.parts ∧
      Only [.net, .free] u (u.challengeNode code ident b expected enrolling) := by
  have honly := (State.challengeNode_moves code ident b expected enrolling u).1
  rw [challengeNode_txFrames, State.challengeNode_node, State.freeVal_of_free hfree, State.now_of_tbu htbu]
  exact ⟨rfl, rfl, rfl, rfl, honly.part .parts (by decide), honly⟩

/-! ### A verified MKA PDU (R465) -/

section
variable {sci priority num : Nat} {ack : Bool} {sak : Option (Nat × Nat × List Byte)} {pdu icv : List Byte}

theorem doMkaPdu_same (h : 2 ≤ port ∨ s.portOn port = false ∨ s.hasCak port = false) :
    doMkaPdu port sci priority ack sak pdu icv s = s := by
  refine if_pos ?_
  rcases h with h | h | h
  · simp [Nat.not_lt.mpr h]
  · simp [h]
  · simp [h]

theorem doMkaPdu_verified (hp : port < 2) (hon : s.portOn port = true) (hcak : s.hasCak port = true)
    (hnum : s.cakNums.find? (fun n => s.icvOk n pdu icv) = some num) :
    doMkaPdu port sci priority ack sak pdu icv s = (s.rxFrame port).mkaHeard port sci priority num ack sak := by
  unfold doMkaPdu
  rw [if_neg (by rw [hon, hcak]; simp [hp]), hnum]

/-- The state in which a port has counted a PDU and its sender is live. -/
def State.heardPdu (port sci priority : Nat) (s : State) : State := (s.rxFrame port).heardPeer port sci priority

theorem State.heardPdu_only (port sci priority : Nat) (s : State) : Only [.net] s (s.heardPdu port sci priority) := by
  unfold State.heardPdu State.heardPeer
  exact (State.rxFrame_moves port s).1.trans (State.modNet_only _ _)

theorem State.peersOf_heardPdu (h : port < s.net.peers.length) : (s.heardPdu port sci priority).peersOf port =
    (sci, priority, s.now) :: (s.peersOf port).filter fun p => p.1 != sci :=
  State.peersOf_heardPeer (s := s.rxFrame port) h

/-- Who is key server follows from the configuration and the peers alone. -/
theorem State.keyServer_heardPdu {f : Net → Net} (h : (s.modNet f).peersOf port = (s.heardPdu port sci priority).peersOf port) :
    (s.heardPdu port sci priority).keyServer port = (s.modNet f).keyServer port := by
  unfold State.keyServer
  rw [h]
  rfl

theorem doMkaPdu_none (hp : port < 2) (hon : s.portOn port = true) (hcak : s.hasCak port = true)
    (hnum : s.cakNums.find? (fun n => s.icvOk n pdu icv) = some num) : doMkaPdu port sci priority false none pdu icv s =
      if ((s.peersOf port).any fun p => p.1 == sci) = true then s.heardPdu port sci priority
      else (s.heardPdu port sci priority).renewSak port :=
  (doMkaPdu_verified hp hon hcak hnum).trans (State.mkaHeard_none rfl)

theorem doMkaPdu_ack (hp : port < 2) (hon : s.portOn port = true) (hcak : s.hasCak port = true)
    (hnum : s.cakNums.find? (fun n => s.icvOk n pdu icv) = some num)
    (hknown : ((s.peersOf port).any fun p => p.1 == sci) = true) (hpending : s.net.sakChange.getD port false = true) :
    doMkaPdu port sci priority true none pdu icv s = (s.heardPdu port sci priority).useSak port (s.portAn port + 1) num
      (s.sa (rxChannel port (s.portAn port + 1))) :=
  (doMkaPdu_verified hp hon hcak hnum).trans (State.mkaHeard_ack (s := s.rxFrame port) hknown hpending)

theorem doMkaPdu_sak {an suite : Nat} {wrapped key : List Byte} (hp : port < 2) (hon : s.portOn port = true)
    (hcak : s.hasCak port = true) (hnum : s.cakNums.find? (fun n => s.icvOk n pdu icv) = some num)
    (hknown : ((s.peersOf port).any fun p => p.1 == sci) = true) (hkey : s.unwrapSak num wrapped = some key)
    (hserver : (s.heardPdu port sci priority).keyServer port = false) :
    doMkaPdu port sci priority false (some (an, suite, wrapped)) pdu icv s =
      (s.heardPdu port sci priority).takeSak port an suite num key :=
  (doMkaPdu_verified hp hon hcak hnum).trans (State.mkaHeard_sak (s := s.rxFrame port) hknown hkey hserver)

end

/-! ### Frames of a segment that is served -/

theorem doAnnounceFrame_on (h : s.segOn seg = true) :
    doAnnounceFrame seg frame s = (s.rxFrame (2 + seg)).nodeAnnounce seg frame := if_neg (by rw [h]; exact Bool.false_ne_true)

theorem doSegmentResponse_on (h : s.segOn seg = true) :
    doSegmentResponse seg frame s = (s.rxFrame (2 + seg)).nodeResponse seg frame s.now :=
  if_neg (by rw [h]; exact Bool.false_ne_true)

theorem doSegmentData_on (h : s.segOn seg = true) :
    doSegmentData seg frame s = (s.rxFrame (2 + seg)).nodeDataFrame seg frame := if_neg (by rw [h]; exact Bool.false_ne_true)

/-! ### The nodes' periodic check and an enrolment's retry (R462) -/

theorem doNodeCheck_one {q : Nat × PartRec} (h : s.parts.table.filter (fun p => s.checkDue p.2) = [q])
    (hq : s.nodeLocked q.2.attach q.2.identity = (locked, u)) :
    doNodeCheck s = if locked then u else u.challengeRec q.2.attach q.2 true := by
  unfold doNodeCheck
  rw [h]
  show s.checkNode q.2 = _
  unfold State.checkNode
  rw [hq]

theorem doEnrolChallengeRetry_due {e : Enrolment} (he : s.parts.enrol = some e) (hk : roleKind e.role = 3)
    (hn : (s.node e.attach).enrolling = true) (hc : (s.node e.attach).challenge = none)
    (hdue : e.sentNs + 1000000000 ≤ s.now) (hq : s.enrolLocked e = (false, u)) :
    doEnrolChallengeRetry s = (u.challengeNode e.attach e.identity
      (u.bindTo e.slot e.role (((u.rec? e.identity).map (·.keyEpoch)).getD 0)) false true).modParts fun p =>
        { p with enrol := some { e with sentNs := s.now } } := by
  unfold doEnrolChallengeRetry
  rw [he]
  refine (if_pos ⟨hk, hn, hc, hdue⟩).trans ?_
  unfold State.enrolNode
  dsimp only
  rw [hq]
  rfl

theorem doEnrolChallengeRetry_same {e : Enrolment} (he : s.parts.enrol = some e)
    (h : roleKind e.role ≠ 3 ∨ (s.node e.attach).enrolling = false ∨ (s.node e.attach).challenge ≠ none ∨
      s.now < e.sentNs + 1000000000) : doEnrolChallengeRetry s = s := by
  unfold doEnrolChallengeRetry
  rw [he]
  refine if_neg ?_
  rintro ⟨hk, hn, hc, hdue⟩
  rcases h with h | h | h | h
  · exact h hk
  · rw [hn] at h; cases h
  · exact h hc
  · exact Nat.not_le.mpr h hdue

/-! ### A RESPONSE received (R462, R463) -/

/-- A RESPONSE that verifies opens its node's session and counts as a verified exchange. -/
theorem rxFrame_nodeVerified (port : Nat) {code : Nat} (h : (s.node code).enrolling = false) :
    (((s.rxFrame port).nodeVerified (s.node code)).node code = (s.node code).verified) ∧
      (∀ d, d ≠ code → ((s.rxFrame port).nodeVerified (s.node code)).node d = s.node d) ∧
      ((s.rxFrame port).nodeVerified (s.node code)).parts = (s.verifiedExchange (s.node code).identity).parts ∧
      Only [.net, .parts, .ledger, .evc, .keys] s ((s.rxFrame port).nodeVerified (s.node code)) := by
  have hrx := (State.rxFrame_moves port s).1
  obtain ⟨hnet, hparts⟩ := State.nodeVerified_known (s := s.rxFrame port) h
  obtain ⟨hself, hothers⟩ := State.nodes_of_putNode (s := s) (n := (s.node code).verified) (s.node_attach code)
    ((congrArg Net.nodes hnet).trans rfl)
  have hverified := State.verifiedExchange_parts (hrx.part .parts (by decide)) (hrx.part .tbu (by decide))
    (s.node code).identity
  exact ⟨hself, hothers, hparts.trans hverified,
    (hrx.mono (by decide)).trans ((State.nodeVerified_moves_known h).mono (by decide))⟩

/-- A RESPONSE that fails ends its challenge and is counted. -/
theorem rxFrame_responseFailed (port code ident : Nat) (a : Option Nat) :
    let n := { s.node code with enrolling := false }
    let t := ((s.rxFrame port).challengeOver n).countFailure 3 3 ident a
    t.node code = n.over ∧ Only [.net, .parts, .ledger, .evc, .keys] s t := by
  intro n t
  have hcount := (State.countFailure_moves 3 3 ident a ((s.rxFrame port).challengeOver n)).1
  have hnet : t.net = ((s.rxFrame port).putNode n.over).net :=
    Eq.trans (hcount.part .net (by decide)) (State.challengeOver_net n (s.rxFrame port))
  refine ⟨(State.nodes_of_putNode (s := s.rxFrame port) (n := n.over) (s.node_attach code) (congrArg Net.nodes hnet)).1, ?_⟩
  exact (((State.rxFrame_moves port s).1.mono (by decide)).trans ((State.challengeOver_moves n _).1.mono (by decide))).trans
    (hcount.mono (by decide))

/-- A challenge missed by 10 ms is over. -/
theorem doSegmentResponseMiss_due {code c t0 : Nat} (h : (s.node code).challenge = some (c, t0))
    (hdue : t0 + 10000000 < s.now) (hheld : s.responseHeld code = false) :
    doSegmentResponseMiss code s = s.challengeOver (s.node code) := by
  unfold doSegmentResponseMiss
  dsimp only
  rw [h]
  exact if_pos (by simp [hdue, hheld])

theorem doSegmentResponseMiss_same {code : Nat} (h : (s.node code).challenge = none ∨ s.responseHeld code = true ∨
    ∃ c t0, (s.node code).challenge = some (c, t0) ∧ s.now ≤ t0 + 10000000) : doSegmentResponseMiss code s = s := by
  unfold doSegmentResponseMiss
  dsimp only
  split
  case h_1 c t0 hc =>
    refine if_neg ?_
    rcases h with h | h | ⟨c', t', h, hdue⟩
    · rw [h] at hc; cases hc
    · simp [h]
    · rw [hc] at h
      cases h
      simp [Nat.not_lt.mpr hdue]
  case h_2 => rfl

end

/-- Settles O55: link changes by their direction, MKA PDUs by what they say, and node frames by the checks they meet in turn. -/
theorem uplinksMkaAndSegments : Obligations.UplinksMkaAndSegments := by
  unfold Obligations.UplinksMkaAndSegments
  refine ⟨fun port up s => ⟨fun h => congrArg Host.Outcome.next (doLinkChange_same h), fun h hphy => ⟨doLinkChange port up s, rfl, ?link⟩⟩,
    fun port s => ⟨?auto, fun h => congrArg Host.Outcome.next (doAutonegTimeout_same h)⟩,
    fun port s => ⟨?hello, fun h => congrArg Host.Outcome.next (doMkaHello_same h)⟩,
    fun port sci priority ack sak pdu icv s => ⟨fun h => congrArg Host.Outcome.next (doMkaPdu_same h), ?pduUnverified⟩,
    ?pdu,
    fun port live s hlive => ⟨?lifeSame, ?life⟩,
    fun port s => ⟨?duplicate, fun h => congrArg Host.Outcome.next (doDuplicateAddressDetected_same h)⟩,
    fun port prot data s => ⟨?echoOff, ?echoTaken, ?echoDiscarded⟩,
    fun seg s => ⟨?clash, fun h => congrArg Host.Outcome.next (doNodeIdClash_same h)⟩,
    fun seg frame s => ⟨?framesOff, ?announceBad, ?responseBad, ?dataBad⟩,
    ?announce, ?check, ?response, ?miss, ?retryNone, ?retry, ?data⟩
  case link =>
    cases up with
    | true =>
      rw [doLinkChange_up h (hphy rfl)]
      obtain ⟨hnet, hcrypt, hnext, honly⟩ := linkEntries (s.linkRaised_only port) port
      rw [hnet]
      exact ⟨rfl, rfl, fun _ => ⟨rfl, rfl, fun hp => if_pos hp⟩, nofun, nofun, hcrypt, hnext, honly⟩
    | false =>
      rw [doLinkChange_down h]
      obtain ⟨hnet, hcrypt, hnext, honly⟩ := linkEntries (s.linkDropped_only port) port
      rw [hnet]
      refine ⟨rfl, rfl, nofun, fun _ => ⟨rfl, rfl⟩, fun _ hp => ?_, hcrypt, hnext, honly⟩
      exact congrArg PortStat.down (getD_modify_self _ {} hp)
  case auto =>
    intro hp hon hauto hdown
    exact ⟨_, congrArg Host.Outcome.next (if_pos (by rw [hon, hauto, hdown]; simp [hp])), rfl, s.modNet_only _⟩
  case hello =>
    intro hp hon hup hcak hlen
    refine ⟨doMkaHello port s, rfl, ?_, exec_only (c := .mkaHello port) rfl⟩
    unfold doMkaHello
    rw [if_pos (by rw [hon, hup, hcak]; simp [hp])]
    exact getD_modify_self _ 0 (hp.trans_eq hlen.symm)
  case pduUnverified =>
    intro hp hon hcak hnone
    refine ⟨s.rxFrame port, congrArg Host.Outcome.next ?_, rfl, (State.rxFrame_moves port s).1⟩
    refine (if_neg (by rw [hon, hcak]; simp [hp])).trans ?_
    rw [List.find?_eq_none.mpr fun n hn => by rw [hnone n hn]; exact Bool.false_ne_true]
  case lifeSame =>
    obtain rfl : live = s.livePeers port := hlive
    exact fun h => congrArg Host.Outcome.next (doMkaLifeExpiry_same h)
  case life =>
    obtain rfl : live = s.livePeers port := hlive
    intro hp hlost hlen
    refine ⟨doMkaLifeExpiry port s, rfl, doMkaLifeExpiry_peers hp hlost, fun hlive => ?_,
      exec_only (c := .mkaLifeExpiry port) rfl⟩
    rw [doMkaLifeExpiry_lost hp hlost, if_pos hlive]
    refine ⟨fun k hk => ?_, getD_set_false port _⟩
    rw [State.modNet_sa]
    exact State.endSas_sa hk
  case duplicate =>
    intro hp hon hoff
    obtain ⟨hnet, honly⟩ := State.installEntry_frame (s.modNet fun n => { n with mgmtOff := n.mgmtOff.set port true })
    refine ⟨doDuplicateAddressDetected port s, rfl, ?_⟩
    rw [doDuplicateAddressDetected_first hp hon hoff]
    exact ⟨hnet, ((s.modNet_only _).mono (by decide)).trans (honly.mono (by decide))⟩
  case echoOff =>
    intro h
    exact ⟨congrArg Host.Outcome.next (State.answer_same h), congrArg Host.Outcome.next (State.answer_same h)⟩
  case echoTaken =>
    intro hon htaken hlen
    have hport : port < s.net.stats.length := (State.lt_six_of_portOn hon).trans_eq hlen.symm
    obtain ⟨hrx, htx, hframes⟩ := State.answer_taken (reply := data) hon htaken hport
    obtain ⟨hrx', htx', -⟩ := State.answer_taken (reply := ownAddress) hon htaken hport
    exact ⟨⟨_, rfl, hrx, htx, hframes, exec_only (c := .echoRequest port prot data) rfl⟩,
      ⟨_, rfl, hrx', htx', exec_only (c := .neighbourSolicitation port prot) rfl⟩⟩
  case echoDiscarded =>
    intro hon htaken hlen
    have hport : port < s.net.stats.length := (State.lt_six_of_portOn hon).trans_eq hlen.symm
    obtain ⟨hcount, hframes⟩ := State.answer_discarded (reply := data) hon htaken hport
    obtain ⟨hcount', hframes'⟩ := State.answer_discarded (reply := ownAddress) hon htaken hport
    exact ⟨⟨_, rfl, hcount, hframes, exec_only (c := .echoRequest port prot data) rfl⟩,
      ⟨_, rfl, hcount', hframes', exec_only (c := .neighbourSolicitation port prot) rfl⟩⟩
  case clash =>
    intro hon hlong
    obtain ⟨hnet, honly⟩ := State.installEntry_frame (s.modNet fun n => { n with clash := n.clash.set seg (some s.now) })
    have hraise := (State.raise_moves 13 10 (s.modNet fun n => { n with clash := n.clash.set seg (some s.now) }).installEntry).1
    refine ⟨doNodeIdClash seg s, rfl, ?_⟩
    rw [doNodeIdClash_first hon hlong]
    refine ⟨Eq.trans (hraise.part .net (by decide)) hnet, ?_⟩
    exact (((s.modNet_only _).mono (by decide)).trans (honly.mono (by decide))).trans (hraise.mono (by decide))
  case pdu =>
    intro port sci priority num pdu icv ps u s hp hon hcak hsas hpeers han hchange _ hnum hps hu
    have hport : port < s.net.peers.length := hp.trans_eq hpeers.symm
    have hportAn : port < s.net.an.length := hp.trans_eq han.symm
    have hportChange : port < s.net.sakChange.length := hp.trans_eq hchange.symm
    have htx : ∀ an, txChannel port an < s.crypt.sas.length := fun an => by unfold txChannel; omega
    have hrx : ∀ an, rxChannel port an < s.crypt.sas.length := fun an => by unfold rxChannel; omega
    have hheard := (State.peersOf_heardPdu (sci := sci) (priority := priority) hport).trans hps.symm
    have honly := s.heardPdu_only port sci priority
    have hserver : (s.heardPdu port sci priority).keyServer port = u.keyServer port := by
      rw [hu]
      exact State.keyServer_heardPdu ((getD_set_self _ [] hport).trans hheard.symm)
    refine ⟨fun hknown => ?_, fun hknown hpending => ?_, fun an suite wrapped key hknown hns hkey => ?_,
      fun hnew hks hidle => ?_⟩
    all_goals refine ⟨doMkaPdu port sci priority _ _ pdu icv s, rfl, ?_⟩
    · rw [doMkaPdu_none hp hon hcak hnum, if_pos hknown]
      exact ⟨hheard, rfl, rfl, honly⟩
    · rw [doMkaPdu_ack hp hon hcak hnum hknown hpending]
      obtain ⟨hsa, hanNow, hdone, hcakNum⟩ := State.useSak_port (s := s.heardPdu port sci priority)
        (a := s.sa (rxChannel port (s.portAn port + 1))) (num := num) (htx (s.portAn port + 1)) hportAn hportChange
      have hframe := (State.useSak_moves port (s.portAn port + 1) num (s.sa (rxChannel port (s.portAn port + 1)))
        (s.heardPdu port sci priority)).1
      exact ⟨hanNow, hdone, hcakNum, (congrArg Sa.key hsa).trans rfl, (congrArg Sa.next hsa).trans rfl,
        (honly.mono (by decide)).trans (hframe.mono (by decide))⟩
    · rw [doMkaPdu_sak hp hon hcak hnum hknown hkey (hserver.trans hns)]
      obtain ⟨hreceives, hsends, hanNow, hcakNum, hdone⟩ := State.takeSak_port (s := s.heardPdu port sci priority)
        (num := num) (key := key) (suite := suite) (hrx an) (htx an) hportAn hportChange
      have hframe := (State.takeSak_moves port an suite num key (s.heardPdu port sci priority)).1
      exact ⟨hreceives, hsends, hanNow, hcakNum, hdone, (honly.mono (by decide)).trans (hframe.mono (by decide))⟩
    · have hlive : (s.heardPdu port sci priority).peersOf port ≠ [] := by rw [hheard, hps]; exact List.cons_ne_nil _ _
      rw [doMkaPdu_none hp hon hcak hnum, if_neg (by rw [hnew]; exact Bool.false_ne_true),
        State.renewSak_draws (hserver.trans hks) hlive hcak hidle]
      obtain ⟨hpending, hsame, hinstalled, hnext⟩ := State.drawSak_port (s := s.heardPdu port sci priority)
        (hrx (s.portAn port + 1)) hportChange
      exact ⟨hpending, hsame, hinstalled, hnext,
        (honly.mono (by decide)).trans ((State.drawSak_moves port _).1.mono (by decide))⟩
  case framesOff =>
    intro h
    have hoff : (!s.segOn seg) = true := by rw [h]; rfl
    exact ⟨congrArg Host.Outcome.next (if_pos hoff), congrArg Host.Outcome.next (if_pos hoff),
      congrArg Host.Outcome.next (if_pos hoff)⟩
  case announceBad =>
    intro hon hhead
    refine ⟨doAnnounceFrame seg frame s, rfl, ?_⟩
    rw [doAnnounceFrame_on hon, State.nodeAnnounce, hhead]
    exact ⟨rfl, (State.rxFrame_moves _ s).1.trans (State.dropFrame_moves _ _).1⟩
  case responseBad =>
    intro hon hhead
    refine ⟨doSegmentResponse seg frame s, rfl, ?_⟩
    rw [doSegmentResponse_on hon, State.nodeResponse, hhead]
    exact ⟨rfl, (State.rxFrame_moves _ s).1.trans (State.dropFrame_moves _ _).1⟩
  case dataBad =>
    intro hon hhead
    refine ⟨doSegmentData seg frame s, rfl, ?_⟩
    rw [doSegmentData_on hon, State.nodeDataFrame, hhead]
    exact ⟨rfl, (State.rxFrame_moves _ s).1.trans (State.dropFrame_moves _ _).1⟩
  case announce =>
    intro seg node ident code frame locked u s hon hhead hlen hcode hq
    subst hcode
    obtain ⟨honly, hnet⟩ := State.nodeLocked_rxFrame hq
    obtain ⟨hnodes, hheld, hsentBefore, -⟩ := net_of_rxFrame hnet
    refine ⟨fun h => ?_, fun r hl hr hc hk ha hseal => ?_, fun r key hl hr hc hk ha hseal hkey => ⟨fun hmac => ?_, fun hmac => ?_⟩⟩
    all_goals refine ⟨doAnnounceFrame seg frame s, rfl, ?_⟩; rw [doAnnounceFrame_on hon]
    · have hm := (State.nodeAnnounce_unanswered hhead hlen hq h).1
      exact ⟨hm.part .net (by decide), ((State.rxFrame_moves _ s).1.mono (by decide)).trans (hm.mono (by decide))⟩
    all_goals
      subst hl
      have hseal' : u.crypt.sealed = s.crypt.sealed := congrArg Crypt.sealed (honly.part .crypt (by decide))
      rw [State.nodeAnnounce_known hhead hlen hq hr hc hk ha, hseal', hseal]
    · have hnow := State.now_of_tbu (honly.part .tbu (by decide))
      rw [if_pos rfl, hnow]
      refine ⟨congrArg (· ++ [(1, seg, frame, s.now)]) hheld, hnodes, ?_⟩
      exact honly.trans ((State.holdFrame_moves _ _ _ _ _).1.mono (by decide))
    · rw [if_neg Bool.false_ne_true, State.announced_verified hkey hmac]
      obtain ⟨hchallenge, hident, -, hframes, -, hsent⟩ := challengeNode_drawn (nodeCode seg node) r.identity
        (u.bindTo r.slot r.role r.keyEpoch) false false (honly.part .free (by decide)) (honly.part .tbu (by decide))
      exact ⟨hchallenge, hident, hframes.trans (congrArg (List.cons _) hsentBefore),
        (honly.mono (by decide)).trans (hsent.mono (by decide))⟩
    · rw [if_neg Bool.false_ne_true, State.announced_failed hkey hmac]
      have hm := (State.countFailure_moves 3 1 r.identity (some (nodeCode seg node)) u).1
      exact ⟨(hm.part .net (by decide)).trans hnet, rfl, honly.trans (hm.mono (by decide))⟩
  case check =>
    intro q u s
    refine ⟨fun h => congrArg Host.Outcome.next ?_, fun h hq => congrArg Host.Outcome.next (doNodeCheck_one h hq), fun h hq => ?_⟩
    · unfold doNodeCheck
      rw [h]
      rfl
    · have honly := (State.nodeLocked_frame hq).1
      have hnodes : u.net.nodes = s.net.nodes := congrArg Net.nodes (honly.part .net (by decide))
      refine ⟨doNodeCheck s, rfl, ?_⟩
      rw [doNodeCheck_one h hq, if_neg Bool.false_ne_true]
      obtain ⟨hchallenge, -, hexpected, -, hparts, hsent⟩ := challengeNode_drawn q.2.attach q.2.identity
        (u.bindTo q.2.slot q.2.role q.2.keyEpoch) true false (honly.part .free (by decide)) (honly.part .tbu (by decide))
      refine ⟨hchallenge, hexpected, ?_, fun c hc => ?_, hparts, (honly.mono (by decide)).trans (hsent.mono (by decide))⟩
      · rw [State.challengeRec, State.challengeNode_node]
        exact State.now_of_tbu (honly.part .tbu (by decide))
      · rw [State.challengeRec, State.challengeNode_node_ne _ _ _ _ _ _ hc, State.node_of_nodes hnodes]
  case response =>
    intro seg node ident code frame s hon hhead hcode
    subst hcode
    have hrx := (State.rxFrame_moves (2 + seg) s).1
    refine ⟨fun h => ?_, fun c t0 key hopen htime hident hlen hseal hkey => ?_⟩
    · refine ⟨doSegmentResponse seg frame s, rfl, ?_⟩
      rw [doSegmentResponse_on hon, State.nodeResponse_same (s := s.rxFrame (2 + seg)) hhead h]
      exact ⟨rfl, hrx⟩
    have hread := State.nodeResponse_checked (s := s.rxFrame (2 + seg)) hhead hopen htime hident hlen hseal hkey
    refine ⟨fun hmac henrol => ?_, fun hmac => ?_⟩
    all_goals refine ⟨doSegmentResponse seg frame s, rfl, ?_⟩; rw [doSegmentResponse_on hon, hread]
    · obtain ⟨hself, hothers, hparts, honly⟩ := rxFrame_nodeVerified (2 + seg) henrol
      rw [if_pos hmac]
      exact ⟨congrArg NodeSess.opened hself, congrArg NodeSess.seq hself, congrArg NodeSess.challenge hself,
        congrArg NodeSess.bind hself, hothers, hident ▸ hparts, honly⟩
    · obtain ⟨hself, honly⟩ := rxFrame_responseFailed (s := s) (2 + seg) (nodeCode seg node) ident (some (nodeCode seg node))
      rw [if_neg hmac]
      exact ⟨congrArg NodeSess.challenge hself, (congrArg NodeSess.opened hself).trans rfl, honly⟩
  case miss =>
    intro code s
    refine ⟨fun h => congrArg Host.Outcome.next (doSegmentResponseMiss_same h), fun c t0 h hdue hheld => ?_⟩
    have hcode := s.node_attach code
    obtain ⟨hself, hothers⟩ := State.nodes_of_putNode (n := (s.node code).over) hcode
      (congrArg Net.nodes (State.challengeOver_net (s.node code) s))
    refine ⟨doSegmentResponseMiss code s, rfl, ?_, fun d hd => ?_, fun hexpected => ?_,
      exec_only (c := .segmentResponseMiss code) rfl⟩
    all_goals rw [doSegmentResponseMiss_due h hdue hheld]
    · exact hself
    · exact hothers d hd
    · exact State.challengeOver_unexpected hexpected
  case retryNone =>
    intro s h
    refine congrArg Host.Outcome.next ?_
    unfold doEnrolChallengeRetry
    rw [h]
  case retry =>
    intro e u s he
    refine ⟨fun h => congrArg Host.Outcome.next (doEnrolChallengeRetry_same he h), fun hk hn hc hdue hq => ?_⟩
    have honly : Only [.evc, .parts, .ledger] s u := by
      have hm := (State.enrolLocked_moves e s).1
      rwa [hq] at hm
    obtain ⟨hchallenge, -, -, -, hparts, hsent⟩ := challengeNode_drawn e.attach e.identity
      (u.bindTo e.slot e.role (((u.rec? e.identity).map (·.keyEpoch)).getD 0)) false true
      (honly.part .free (by decide)) (honly.part .tbu (by decide))
    refine ⟨doEnrolChallengeRetry s, rfl, ?_⟩
    rw [doEnrolChallengeRetry_due he hk hn hc hdue hq]
    refine ⟨congrArg (fun p : Parts => { p with enrol := some { e with sentNs := s.now } }) hparts, hchallenge, ?_⟩
    refine ((honly.mono (by decide)).trans (hsent.mono (by decide))).trans (?_ : Only _ _ _)
    exact (State.modParts_moves _ _ (Parts.keeps_of rfl)).1.mono (by decide)
  case data =>
    intro seg node ident code seq b frame key r u s hon hhead hmin hmax hcode hseq hq
    subst hcode hseq
    obtain ⟨honly, hnet⟩ := State.nodeLocked_rxFrame hq
    obtain ⟨hnodes, -, -, hout⟩ := net_of_rxFrame hnet
    refine ⟨fun hclosed => ?_, fun hopen hident hr hk ha he hseal hbind hkey => ?_⟩
    · refine ⟨doSegmentData seg frame s, rfl, ?_⟩
      rw [doSegmentData_on hon, State.nodeDataFrame_closed hhead hq hclosed]
      exact ⟨hnet, rfl⟩
    have hcode := s.node_attach (nodeCode seg node)
    have hseal' : u.crypt.sealed = false := (congrArg Crypt.sealed (honly.part .crypt (by decide))).trans hseal
    have hread : (s.rxFrame (2 + seg)).nodeDataFrame seg frame = u.nodeData (s.node (nodeCode seg node)) frame :=
      State.nodeDataFrame_read hhead hmin hmax hq hopen hident hr hk ha he hseal'
    have hkey' : ((s.node (nodeCode seg node)).bind.bind fun b => u.boundKey (s.node (nodeCode seg node)).identity b) = some key := by
      rw [hbind, hident]
      exact (State.boundKey_of_keys (honly.part .keys (by decide)) ident b).trans hkey
    refine ⟨fun hmac hnew => ?_, fun hmac hold => ?_, fun hmac => ?_⟩
    all_goals refine ⟨doSegmentData seg frame s, rfl, ?_⟩; rw [doSegmentData_on hon, hread]
    · rw [State.nodeData_taken hkey' hmac hnew]
      obtain ⟨hself, -⟩ := State.nodes_of_putNode (s := u) (t := u.putNode _) (code := nodeCode seg node)
        (n := { s.node (nodeCode seg node) with seq := uAt frame 12 4 }) hcode rfl
      refine ⟨hself, ?_, rfl⟩
      rw [← hout, hcode]
      rfl
    · rw [State.nodeData_replayed hkey' hmac hold]
      exact ⟨hout, hnodes, rfl⟩
    · rw [State.nodeData_failed hkey' hmac, hident, hcode]
      exact ⟨((State.countFailure_moves _ _ _ _ u).1.part .net (by decide)).trans hnet, rfl⟩

end Sys2Proof.Machine
end

section
/-!
PROOF. The statement of pwr.sleep's vote (R486, R487). A started command runs under the layers of its admission, once a new image
has come since (R455), and the DOWN that the radio role issues at the vote drives the antenna switch to OFF's value in those
layers (R146, R162). The statement takes what DOWN leaves of the radio from the layers in force, which can differ. Refutes O53.
-/
namespace Sys2Proof.Machine

/-! ### The refutation of O53: a new image between the admission of pwr.sleep and its start -/

namespace SleepAfterNewImage

/-- The layers of an image that gives the antenna switch a value in OFF (R146, R527). -/
def layers (antenna : Int) : CfgStore := { image := [(cfgKey recRadio (5 + seqCode .off), antenna)] }

/-- pwr.sleep to Drift, seq 7, started, admitted under an image whose value is 3. -/
def box : Mailbox :=
  { st := .issued, started := true, ringNs := 1000000000000, cfgWas := some (layers 3)
    run := leBytes 2 0x0D02 ++ leBytes 2 7 ++ leBytes 2 0 ++ leBytes 2 8 ++ leBytes 1 0xFF ++ zeros 7 ++ leBytes 1 1 ++ zeros 7 }

/-- The block in Run, 1,000 s into its epoch, with its radio in STANDBY and an image in force whose value is 2. -/
def state : State :=
  { tbu := { ns := 1000000000000 }, boot := { phase := .running }, cfg := layers 2, radio := { st := .standby }
    mbx := { ready := true, boxes := (List.replicate 8 {}).set 0 box } }

/-- The entry that pwr.sleep begins, as the statement has it. -/
def begun : State :=
  state.modPsc fun p =>
    { p with sleepMb := some 0, wakeEn := (BitVec.ofNat 32 (uAt (state.box 0).payload 4 4) &&& 0x3FFF) ||| 0x23B1
             entry := some (targetOf (uAt (state.box 0).payload 0 1))
             keep := keptBy (targetOf (uAt (state.box 0).payload 0 1)) (uAt (state.box 0).payload 2 2)
             vote := true, committed := false, gatedNow := [] }

theorem takes : Takes state 0 0x0D02 := ⟨by unfold Started; decide +kernel, by decide +kernel⟩

theorem vote_passes : begun.sleepDown.vetoer = none := by decide +kernel

/-- What the row leaves. -/
def after : State :=
  state.perform 0 0x0D02 (checked wfPwrSleep prePwrSleep) fun b t =>
    ((t.wait 0).modPsc fun p =>
      { p with sleepMb := some 0, wakeEn := (BitVec.ofNat 32 (uAt b.payload 4 4) &&& 0x3FFF) ||| 0x23B1 }).beginEntry
        (targetOf (uAt b.payload 0 1)) (uAt b.payload 2 2)

theorem exec_pwrSleep : exec (.pwrSleep 0) state = .next after := rfl

/-- The switch is driven to the value of the command's admission, the statement's to the value in force. -/
theorem antenna : after.radio.antSw = 3 ∧ begun.sleepDown.radio.antSw = 2 := by decide +kernel

end SleepAfterNewImage

open SleepAfterNewImage in
/-- Refutes O53: the clause of a vote that passes has the radio as DOWN leaves it under the layers in force, but pwr.sleep takes
its vote under those of its admission, whose antenna-switch value for OFF can be another (R146, R455). -/
theorem not_sleepIsVotedCommittedAndRolledBack : ¬ Obligations.SleepIsVotedCommittedAndRolledBack := by
  unfold Obligations.SleepIsVotedCommittedAndRolledBack
  rintro ⟨hvote, -⟩
  obtain ⟨hpasses, -⟩ := hvote 0 begun begun.sleepDown state takes rfl rfl rfl
  obtain ⟨t, hexec, -, hradio, -⟩ := hpasses vote_passes
  obtain rfl : after = t := Host.Outcome.next.inj (exec_pwrSleep.symm.trans hexec)
  obtain ⟨hafter, hstated⟩ := antenna
  have hsame : after.radio.antSw = begun.sleepDown.radio.antSw := congrArg Radio.antSw hradio
  rw [hafter, hstated] at hsame
  exact absurd hsame (by decide)

end Sys2Proof.Machine
end
